-- ==== Sys2Proof/Word.lean ====
section
/-!
DEFINITION. The plain types every other file uses: words and bytes, the roles and host ports of the device, the access
codes of R9, the descriptor of one register field, and the sparse table that holds everything numbered.
-/

namespace Sys2Proof

/-- A 32-bit register word (all registers are 32-bit, 00_scope Notation). -/
abbrev Word := BitVec 32

/-- A byte of a record, an envelope or the staging area. -/
abbrev Byte := BitVec 8

/-- The ROLE of a record (R444) and the three roles of R81. -/
inductive Role where
  | device | operator | installer | maker | host
  deriving DecidableEq, Repr

/-- The ROLE code of R444. -/
def Role.code : Role → Nat
  | .device => 0 | .operator => 1 | .installer => 2 | .maker => 3 | .host => 4

/-- The two host ports (R439, R440, R441). -/
inductive Port where
  | pcie | spi
  deriving DecidableEq, Repr

/-- The port code of the event tables: 0 PCIe, 1 SPI (R94). -/
def Port.code : Port → Nat
  | .pcie => 0 | .spi => 1

/-- The other host port. -/
def Port.other : Port → Port
  | .pcie => .spi | .spi => .pcie

/-- The access codes of R9. No register of the field tables has the code RC. -/
inductive Acc where
  | ro | rw | wo | w1c
  | rwl (roles : List Role)
  deriving DecidableEq, Repr

/-- One register field: the BAR0 byte offset of its register (of the first instance, where the register stands once per
channel or item), its lowest bit, its width, its reset value and its access code. -/
structure Fld where
  off : Nat
  lo : Nat
  width : Nat
  reset : Nat
  acc : Acc
  deriving DecidableEq, Repr

/-- A sparse table: numbered entries, the numbers strictly rising. -/
abbrev Tab (α : Type) := List (Nat × α)

/-- A postmark or instant: TAI seconds and nanoseconds below 10^9 (R96, R31). -/
structure Pm where
  sec : Nat
  ns : Nat
  deriving DecidableEq, Repr

/-- The quality codes of R11. -/
inductive Quality where
  | good | uncertain | stale | staleConfig | masked | substituted | unverified
  deriving DecidableEq, Repr

/-- The code of R11. -/
def Quality.code : Quality → Nat
  | .good => 0 | .uncertain => 1 | .stale => 2 | .staleConfig => 3
  | .masked => 4 | .substituted => 5 | .unverified => 6

/-- The quality of a code 0 to 6; the codes 7 to 15 are reserved (R11). -/
def Quality.ofCode : Nat → Option Quality
  | 0 => some .good | 1 => some .uncertain | 2 => some .stale | 3 => some .staleConfig
  | 4 => some .masked | 5 => some .substituted | 6 => some .unverified | _ => none

end Sys2Proof
end

