-- ==== Sys2Proof/Syntax.lean ====
section
/-!
DEFINITION. The commands of the block: one constructor of `Instr` per row of spec/opcode_table.json, in the order of the
table, with the operands that come from outside the block. The first operand of every command is `dt`, the time in ns
since the previous command. Before it, the types of those operands, the manifest among them.
-/

namespace Sys2Proof

/-! ### Operands shared by several blocks -/

/-- Where a mode, law, setpoint or machine-function command came from: a host write over a port, or a command point whose
writer the manifest binds to the Operator role (R51). -/
inductive CmdSrc where
  | host (p : Port)
  | point (idx : Nat)
  deriving DecidableEq, Repr

/-- One register value of a snapshot (R356): the field, its bank and its value. -/
structure RegVal where
  fld : Fld
  bank : Nat
  value : Nat
  deriving DecidableEq, Repr

/-- A value on a trunk, addressed to a point: the address, the value and TYPE encoding, the capture instant and the quality
its carrier gives it (R30, R31). -/
structure TrunkVal where
  addr : Nat
  value : Nat
  pm : Pm
  quality : Quality := .good
  deriving DecidableEq, Repr

/-- The protected memories (Table — Memories): engine local SRAM, Yuzal scratch, shared SRAM, the GNSS region and the rest
of retention SRAM, safety-island SRAM and DRAM. -/
inductive MemKind where
  | engine | scratch | shared | retGnss | retention | island | dram
  deriving DecidableEq, Repr

/-- The fast clock domains of R21. -/
inductive FastDomain where
  | f800 | f600 | f400 | f200
  deriving DecidableEq, Repr

/-! ### Operands of POWER, MUSTER and the manifest -/

/-- The boot straps as sampled (R493). `true` is a high level. -/
structure Straps where
  seatB : Bool := false
  pcieEn : Bool := true
  bscanEn : Bool := false
  testN : Bool := true
  deriving DecidableEq, Repr

/-- The supply rails of R487. -/
inductive Rail where
  | core | aon | sram | serdes | io18 | io33 | ddrq | ddr2 | adc | pll
  deriving DecidableEq, Repr

/-- One entry of a manifest's section table (R65). -/
structure Section where
  type : Nat
  owner : Nat
  resv : Nat := 0
  offset : Nat
  size : Nat
  tail : Nat := 0
  deriving DecidableEq, Repr

/-- The header fields of a slot as read from flash (R65); `table` holds the 64 entries of the section table, `crcOk` says
that HDR_CRC holds. [Log DESIGN CHOICE: 11] -/
structure Header where
  magic : Nat := 0x4D565841
  format : Nat := 1
  grade : Nat := 3
  length : Nat := 0x1000
  sections : Nat := 1
  generation : Nat := 0
  minDram : Nat := 2
  buildTai : Nat := 0
  tool : Nat := 0
  crcOk : Bool := true
  table : List Section := []
  deriving DecidableEq, Repr

/-- Bytes 0x14 to 0x1F of a point entry, which the POINTS section gives (R31), with the TYPE that Nerval assigned and the
writers the manifest names for it (R33). [Log DEDUCED: 16] -/
structure PtCfg where
  addr : Nat
  out : Bool := false
  notify : Nat := 0
  staleMs : Nat := 0
  scale : Nat := 0xFFFF
  type : Nat := 0
  writers : List Nat := [0]
  routedIn : Bool := false
  deriving DecidableEq, Repr

/-- A remote node of the ROUTING section (R73): address bits [31:16], whether it is EXEMPT, and its one to four accepted
marks. -/
structure NodeCfg where
  addr : Nat
  exempt : Bool := false
  marks : List Nat := []
  mac : Nat := 0
  deriving DecidableEq, Repr

/-- A resource claim (R70): class, index, owning function and, for a ball, the signal in the numbering of `ballSignal`. -/
structure Claim where
  cls : Nat
  idx : Nat
  owner : Nat
  signal : Nat := 0
  deriving DecidableEq, Repr

/-- An Installer value with its LIMITS entry (R71 check 7, R86): the parameter number, its value and its bounds. -/
structure Limit where
  param : Nat
  value : Int
  lo : Int
  hi : Int
  deriving DecidableEq, Repr

/-- A pigeonhole of the QUEUES section (20_register_map, Pigeonholes). -/
structure QueueCfg where
  n : Nat
  ringLog2 : Nat
  dram : Bool := false
  dropOld : Bool := false
  hostConsumer : Bool := true
  hostProducer : Bool := false
  func : Nat := 0
  deriving DecidableEq, Repr

/-- What a block input of a function-block list refers to (R77): a constant, an input point of the list, or a block. -/
inductive FblIn where
  | const (v : Int)
  | point (idx : Nat)
  | block (n : Nat)
  deriving DecidableEq, Repr

/-- One block of a list: the code of R78, its inputs and its constants, numeric ones in Q32.32 and times in list periods. -/
structure FblBlock where
  code : Nat
  ins : List FblIn
  params : List Int := []
  deriving DecidableEq, Repr

/-- A function-block list (R77): its engine, period k, phase q, blocks and output points (point index, block number). -/
structure FblCfg where
  engine : Nat
  k : Nat
  q : Nat
  blocks : List FblBlock
  outs : List (Nat × Nat) := []
  deriving DecidableEq, Repr

/-- How the flash steps of an INSTALL or RESTORE go (R87): all of them succeed; the copy of slot A, or the new content of slot A,
does not read back; or the command after this one comes while the copy, or the programming, still runs. [Log DEDUCED: 34] -/
inductive InstRun where
  | done | badCopy | badSlot | atCopy | atProgram
  deriving DecidableEq, Repr

/-- What the start of a MUSTER finds invalid in flash: the first position of the recorder, on from the journal's last ring state,
that holds no valid record though it is not erased (R452), and the journal copies that are not valid, each with its item and
sector (R90). [Log DEDUCED: 34] -/
structure FlashScan where
  badPos : Option Nat := none
  badCopies : List (Nat × Nat) := []
  deriving DecidableEq, Repr

/-- The verdict data of a manifest body as loaded (R67): the two digests computed on the fly, the three values of the
signature block, each as a number of 256 bits with byte 0 most significant, and whether bytes 96 to 4,095 are 0.
[Log DESIGN CHOICE: 11] -/
structure BodyCheck where
  dAll : Nat
  dMaker : Nat
  digest : Nat
  makerTag : Nat
  instTag : Nat
  padZero : Bool := true
  deriving DecidableEq, Repr

/-- What the peer tells at PAIR (R355): grade, mark, seat, the check of its key identities, its mode and role. -/
structure PeerInfo where
  grade : Nat
  mark : Nat
  seatB : Bool
  keyCheck : Nat
  mode : Nat
  active : Bool
  deriving DecidableEq, Repr

/-! ### Operands of the timebase -/

/-- A time source of SRC_LIST (R100), coded as TIME_STAT.SRC: 1 GNSS, 2 to 5 PTP port 0 to 3, 6 PPS_IN, 7 the peer. -/
abbrev TimeSrc := Nat

/-- A time-trigger unit of the manifest (R115): MODE and TARGET as TIME_TRIG_CFG codes them. -/
structure TrigCfg where
  mode : Nat
  target : Nat
  idx : Nat
  period : Nat
  phase : Nat
  offset : Nat := 0
  deriving DecidableEq, Repr

/-- What a PTP message that ends a measurement gives (R433): the port's state, the offset of its source in ns, and the
grandmaster's clockClass and identity. -/
structure PtpReading where
  state : Nat
  offset : Option Int := none
  gmClass : Nat := 248
  gmId : Nat := 0
  utcOfs : Option Int := none
  leap : Nat := 0
  deriving DecidableEq, Repr

/-! ### Operands of the satellite receiver -/

/-- The retained GNSS data (R130): the TAI second its ephemeris was collected, whether the almanac is valid, and the rest as
it is kept. -/
structure GnssRet where
  ephSec : Nat
  almanac : Bool := true
  body : List Nat := []
  deriving DecidableEq, Repr

/-- A satellite in a solution: 0 GPS, 1 Galileo, 2 BeiDou, its PRN, and whether it is ionosphere-free. -/
structure GnssSat where
  constel : Nat
  prn : Nat
  ionoFree : Bool := true
  deriving DecidableEq, Repr

/-- What the least-squares solution of an epoch gives (R125): the satellites used, a satellite excluded with its residual in mm,
whether the residual test passed, the position and covariances as binary64 bits, PDOP, and the age
of the oldest ephemeris in use in minutes. -/
structure GnssSol where
  used : List GnssSat
  excluded : Option (GnssSat × Int) := none
  testOk : Bool := true
  vals : List Nat := []
  pdop : Rat := 1
  ephMin : Nat := 0
  deriving DecidableEq, Repr

/-! ### Operands of the estimator -/

/-- A source slot of the ESTIMATOR section (R137): its group (none: EARTH), clock, latency in ms, levers, SIGMA_FLOOR, own
gate, fallback rank, the STALE_MS of its points, and its point indexes. -/
structure EstSlotCfg where
  group : Option Nat := none
  tagged : Bool := false
  latency : Nat := 0
  lever : List Rat := [0, 0, 0]
  sigmaFloor : Rat := 1 / 10
  gate : Rat := 1382 / 100
  gateFailN : Nat := 5
  freezeMs : Nat := 2000
  rank : Nat := 0
  staleMs : Nat := 0
  points : List Nat := []
  deriving DecidableEq, Repr

/-- A track of the ESTIMATOR section (R160): kind 0 FIXED, 1 MOORED, 2 MOVING; the surveyed north, east and heading of a
FIXED track; and for each of its sources whether it is BOUND. -/
structure TrackCfg where
  kind : Nat
  pos : List Rat := [0, 0, 0]
  bound : List Bool := []
  gateFailN : Nat := 5
  deriving DecidableEq, Repr

/-- A sample of a source slot (R138 to R146): arrival postmark and sensor tag in ns of device time, the raw values of its
points, its quality, and the normalised innovation squared that the slot's own filter gives it. -/
structure EstSample where
  slot : Nat
  arrival : Int
  tag : Int := 0
  raw : List Nat := []
  quality : Quality := .good
  nis : Rat := 0
  deriving DecidableEq, Repr

/-- The claim of a slot's reference filter at the boundary and its 1σ (R146, R148). Position: north, east. Heading: degrees.
MRU: roll, pitch, heave, with `sigma2` for heave. Wind: true wind north, east. -/
structure EstClaim where
  slot : Nat
  val : List Rat
  sigma : Rat
  sigma2 : Rat := 0
  deriving DecidableEq, Repr

/-- A sample of a track's source (R161): the track whose gate it passes (BOUND: its own), and whether it passes. The point
is what a sample that passes no gate becomes a dead letter of. -/
structure TrackSample where
  track : Nat
  source : Nat
  pass : Bool
  point : TrunkVal
  deriving DecidableEq, Repr

/-- What the numeric filters of an update yield at its boundary (R142), where the spec fixes the model and not the arithmetic:
the vessel state, the claims, the tracks (N, E, VN, VE, HEADING, SIGMA, REL_X, REL_Y, and the heading rate), the wave fit and the
hull points. -/
structure EstUpd where
  samples : List EstSample := []
  claims : List EstClaim := []
  north : Rat := 0
  east : Rat := 0
  heading : Rat := 0
  posSigma : Rat := 0
  hdgSigma : Rat := 0
  nu : List Rat := [0, 0, 0]
  dist : List Rat := [0, 0, 0]
  attitude : List Rat := [0, 0, 0]
  wind : List Rat := [0, 0]
  fitPct : Rat := 100
  hull : List (Rat × Rat × Rat) := []
  trackSamples : List TrackSample := []
  tracks : Tab (List Rat) := []
  deriving DecidableEq, Repr

/-! ### The helm and allocation sections of the manifest -/

/-- A scenario of the HELM section (R174): WF, WD, DN, DE, DM and P. -/
structure Scenario where
  wf : Rat := 1
  wd : Rat := 0
  dn : Rat := 0
  de : Rat := 0
  dm : Rat := 0
  p : Nat := 1
  deriving DecidableEq, Repr

/-- The HELM section (R174). `cost` holds the weights of R178 and the first-stage and ramp steps in the order of the table. -/
structure HelmCfg where
  scN : Nat := 64
  scen : List Scenario := []
  cost : List Rat := []
  df : List Rat := [50, 50, 2000]
  solveDl : Nat := 30
  resWarn : Rat := 1 / 100
  vMax : Rat := 1 / 2
  aMax : Rat := 1 / 20
  jMax : Rat := 1 / 40
  rMax : Rat := 2
  yaMax : Rat := 1 / 5
  yjMax : Rat := 1 / 10
  vTurn : Rat := 3 / 10
  turnAngle : Rat := 5
  blendT : Rat := 10
  blendDis : Rat := 20
  passEntry : Nat := 4
  joyFull : List Rat := [100, 100, 100]
  tgtVMax : Rat := 2
  joy : List Nat := []
  points : List Nat := []
  deriving DecidableEq, Repr

/-- A thruster of the VESSEL section (R195): KIND 0 AZIMUTH, 1 TUNNEL, 2 MAIN; tables pair a thrust in kN with drive units;
points by index, `node` the address of the drive's node. -/
structure ThrCfg where
  kind : Nat
  posX : Rat
  posY : Rat
  tMax : Rat
  tMin : Rat
  pRated : Rat
  tr : Rat := 20
  azRate : Rat := 10
  zones : List (Rat × Rat) := []
  wP : Rat := 1
  wR : Rat := 1
  bus : Nat
  tDead : Rat := 1
  idleBand : Rat := 2
  cmdLut : List (Rat × Rat) := []
  fbLut : List (Rat × Rat) := []
  tolT : Rat := 10
  tolAz : Rat := 10
  followT : Nat := 5
  safeCmd : Rat := 0
  safeRamp : Rat := 20
  passThru : Bool := false
  outThrust : Option Nat := none
  outAz : Option Nat := none
  fbThrust : Option Nat := none
  fbAz : Option Nat := none
  ready : Option Nat := none
  ptThrust : Option Nat := none
  ptAz : Option Nat := none
  node : Option Nat := none
  deriving DecidableEq, Repr

/-- A bus of the VESSEL section (R196). -/
structure BusCfg where
  avail : Option Nat := none
  energ : Option Nat := none
  reserve : Rat := 0
  deriving DecidableEq, Repr

/-- The allocation part of the VESSEL section (R195 to R197). Generator groups give their contribution to each bus. -/
structure AllocCfg where
  thr : List ThrCfg := []
  buses : List BusCfg := []
  gens : List (List Rat) := []
  s : List Rat := [1000, 1000, 1]
  azLook : Rat := 1 / 4
  consSector : Rat := 45
  defAbs : List Rat := [20, 20, 1000]
  defRel : Rat := 5
  consRaise : Nat := 3
  consClear : Nat := 20
  allocDl : Nat := 40
  consDl : Nat := 47
  minStation : Nat := 3
  minPassage : Nat := 1
  points : List Nat := []
  deriving DecidableEq, Repr

/-- What a consequence case yields (R208): its deficit after the power trim, and the buses trimmed with their factors. -/
structure CaseRes where
  deficit : List Rat := [0, 0, 0]
  trims : List (Nat × Rat) := []
  deriving DecidableEq, Repr

/-! ### Operands of the solver array -/

/-- What an item of a batch yields (R225, R231): whether it completed, its status fields, and the words of its result area. -/
structure ItemRes where
  done : Bool := true
  sat : Bool := false
  clamped : Bool := false
  iter : Nat := 0
  clampPivot : Nat := 0
  clampStep : Nat := 0
  clampIter : Nat := 0
  clampCount : Nat := 0
  satCount : Nat := 0
  satStep : Nat := 0
  residual : Nat := 0
  endCycle : Nat := 0
  result : List Int := []
  deriving DecidableEq, Repr

/-! ### The MFN section: loop cells, encoders, PWM channels and machine functions (R239 to R263) -/

/-- An input of a cell (R244): its kind and index (a point's index in the point table), and the scale Nerval sets: what one raw
unit is of FS_IN. -/
structure CellIn where
  kind : Nat
  idx : Nat
  gain : Rat := 1 / 8388608
  deriving DecidableEq, Repr

/-- A loop cell (R242, R246, R252, R253, R258). LAW 1 PID, 2 PID2, 3 SF4, 4 LEADLAG, 5 NOTCH; `ofs` is TRIG_OFS in units of
2.5 ns; times in s but where named; `sp` is the point of the list's setpoint output, `outer` the cell that drives this one's
setpoint; `tune` gives the LIMITS parameter number of a tunable parameter, keyed as `cellNum` keys them. -/
structure CellCfg where
  law : Nat
  div : Nat := 1
  phase : Nat := 0
  tick : Bool := false
  ofs : Nat := 0
  fn : Nat
  ins : List CellIn
  fsOut : Rat := 1
  kp : Rat := 1
  ki : Rat := 0
  kaw : Option Rat := none
  kd : Rat := 0
  tf : Option Rat := none
  dErr : Bool := false
  b : Rat := 1
  c : Rat := 0
  nr : Rat := 0
  k0 : Rat := 0
  k1 : Rat := 0
  k2 : Rat := 0
  k3 : Rat := 0
  integ : Bool := false
  kll : Rat := 1
  t1 : Rat := 1
  t2 : Rat := 1
  f0 : Rat := 1
  depth : Rat := 0
  width : Rat := 1
  notchSignal : Bool := false
  outMin : Rat := -1
  outMax : Rat := 1
  spMin : Rat := -1
  spMax : Rat := 1
  slewUp : Rat := 100000
  slewDn : Rat := 100000
  missLimit : Nat := 3
  satFaultMs : Nat := 0
  injMax : Rat := 0
  outKind : Nat := 0
  outIdx : Nat := 0
  sp : Option Nat := none
  outer : Option Nat := none
  ffSrc : Nat := 0
  ffPoint : Option Nat := none
  ffSp : Bool := false
  ffGz : Rat := 0
  ffGv : Rat := 0
  ffGa : Rat := 0
  ffGp : Rat := 0
  ffUnc : Rat := 1
  ffFade : Rat := 2
  ffDtMs : Nat := 40
  ffSlew : Rat := 100000
  safeLaw : Nat := 0
  safeOut : Rat := 0
  safeSlew : Rat := 1
  tune : Tab Nat := []
  deriving DecidableEq, Repr

/-- A PWM channel (R247): PERIOD in units of 2.5 ns, ALIGN, POLARITY, UPDATE IMMEDIATE, COMPLEMENT and DEADTIME in 2.5 ns. -/
structure PwmCfg where
  period : Nat
  centre : Bool := false
  inverted : Bool := false
  immediate : Bool := false
  complement : Bool := false
  deadtime : Nat := 0
  deriving DecidableEq, Repr

/-- What a cell does in its function's stop (R259): its number, STOP_SP, and END_ACTION 0 ZERO, 1 HOLD, 2 SAFE_OUT, 3 RESET. -/
structure FnCell where
  cell : Nat
  stopSp : Rat := 0
  action : Nat := 0
  deriving DecidableEq, Repr

/-- A machine function (R259): its list, cells, the points of the list outputs EN, ARM_OK and TRIP, and its parameters; times in
ms; SAFETY_TRIP a safe output. -/
structure FnCfg where
  list : Nat
  cells : List FnCell
  en : Option Nat := none
  armOk : Option Nat := none
  trip : Option Nat := none
  armMs : Nat := 5000
  stopEnd : Bool := false
  faultEnd : Bool := true
  stopMs : Nat := 10000
  band : Rat := 1 / 100
  safetyTrip : Option Nat := none
  deriving DecidableEq, Repr

/-- Cells, encoders' index behaviour (0 NONE, 1 LATCH, 2 ZERO), PWM channels, functions, the owners of the capture units, and the
command points of machine functions. -/
structure LoopCfg where
  cells : Tab CellCfg := []
  encs : Tab Nat := []
  pwm : Tab PwmCfg := []
  fns : Tab FnCfg := []
  caps : Tab Nat := []
  points : List Nat := []
  deriving DecidableEq, Repr

/-! ### The MFN section: converters (R269 to R281) -/

/-- A converter channel: kind 0 ΣΔ, 1 bitstream, 2 SAR; preset 0 CALM, 1 BREEZE, 2 WIND, 3 GALE; for SAR log2 of AVG and the
time-trigger unit; trims; and whether a ΣΔ channel is a loop input (R295). -/
structure ConvCfg where
  kind : Nat
  preset : Nat := 2
  high : Bool := false
  gainTrim : Rat := 1
  offsetTrim : Int := 0
  avgLog2 : Nat := 0
  unit : Option Nat := none
  loopIn : Bool := false
  deriving DecidableEq, Repr

/-- The converters of the MFN section: channels by number, DEC_OFS, BS_RATE as a mask of 10 MHz groups, BS_DLY, SAR_OFS in
units of 2.5 ns, and whether the reference is EXTERNAL. -/
structure AdcCfg where
  chs : Tab ConvCfg := []
  decOfs : Nat := 0
  bsRate : Nat := 0
  bsDly : List Nat := []
  sarOfs : Nat := 0
  external : Bool := false
  deriving DecidableEq, Repr

/-! ### The MFN and TRUNKS sections: current loops and HART (R288, R296, R297) -/

/-- An output channel (R288): SRC 1 CELL, 2 POINT, 3 MULTIDROP; currents in mA, voltages in V, FAIL_ACTION 0 HOLD, 1 LOW, 2 HIGH;
`target` its TARGET point; `hart` whether a modem is bound to its loop. -/
structure ClpCfg where
  src : Nat
  target : Option Nat := none
  spanLo : Rat := 4
  spanHi : Rat := 20
  clampLo : Rat := 38 / 10
  clampHi : Rat := 205 / 10
  alarmLo : Rat := 36 / 10
  alarmHi : Rat := 21
  failAction : Nat := 1
  failMs : Nat := 100
  vptDiv : Rat := 20
  supMax : Rat := 24
  supMin : Rat := 8
  supK : Rat := 16 / 100
  headroom : Rat := 2
  compV : Rat := 1 / 2
  compMs : Nat := 5
  lowAlarm : Bool := false
  ntcCh : Option Nat := none
  ntcR25 : Rat := 10000
  ntcBeta : Rat := 3435
  ntcBias : Rat := 10000
  ntcDefault : Rat := 85
  rth : Rat := 40
  tauTh : Rat := 5
  tjMax : Rat := 150
  hartSlew : Rat := 100
  hart : Bool := false
  deriving DecidableEq, Repr

/-- An entry of a modem's poll list (R297): address, command, period in ms, and for a raw entry its pigeonhole. -/
structure HartPoll where
  addr : Nat
  cmd : Nat
  ms : Nat
  raw : Option Nat := none
  deriving DecidableEq, Repr

/-- A HART modem (R296, R297): mode 1 P2P, 2 MULTIDROP; the configured addresses with their expected identities; the poll list. -/
structure HartCfg where
  mode : Nat
  retries : Nat := 2
  addrs : Tab Nat := []
  polls : List HartPoll := []
  deriving DecidableEq, Repr

/-- The current loops of the manifest. -/
structure ClpSec where
  chs : Tab ClpCfg := []
  modems : Tab HartCfg := []
  deriving DecidableEq, Repr

/-- A HART reply (R297, R298): response code, device status, reported identity (command 0), the variables with their value in the
bits of binary64, units and status, and the raw bytes. -/
structure HartReply where
  rc : Nat
  status : Nat := 0
  ident : Nat := 0
  vars : List (Nat × Nat × Nat) := []
  bytes : List Nat := []
  deriving DecidableEq, Repr

/-! ### The MFN section: microstep channels (R310) -/

/-- A microstep channel (R310, R311): currents in A, speeds in microsteps/s, BLANK in ns, T_ON_MAX in µs, the debounce times in µs,
HOME_SW 0 OWN, 1 LIM_NEG, 2 LIM_POS; the points CMD, TARGET, V_LIM and A_LIM. -/
structure StepCfg where
  fn : Nat
  rsns : Rat := 1 / 10
  iRunMax : Rat
  iRunMin : Rat
  iHold : Rat
  holdMs : Nat := 200
  iInc : Rat := 2
  laSet : Nat := 45
  laVmin : Rat := 50
  stallSteps : Nat := 4
  stallStop : Bool := true
  hyst : Rat := 5
  blankNs : Nat := 500
  bridgeNs : Nat := 100
  fast : Bool := false
  tOnUs : Nat := 100
  sCurve : Bool := false
  vMax : Rat
  aMax : Rat
  dMax : Rat
  jMax : Rat
  posMin : Int := -2147483648
  posMax : Int := 2147483647
  requireHome : Bool := true
  homeSw : Nat := 0
  homePosDir : Bool := false
  homeV : Rat
  homeDebUs : Nat := 5000
  limDebUs : Nat := 1000
  backoff : Int := 10240
  homeDist : Int
  homePos : Int := 0
  safeHold : Bool := false
  cmd : Option Nat := none
  target : Option Nat := none
  vLim : Option Nat := none
  aLim : Option Nat := none
  deriving DecidableEq, Repr

/-- The levels of a channel's switches as sampled, true where active: home, negative limit, positive limit. -/
structure SwLevels where
  home : Bool := false
  neg : Bool := false
  pos : Bool := false
  deriving DecidableEq, Repr

/-! ### The SAFETY section (R329 to R336, R349) -/

/-- A safe input (R329): KIND 0 STOP, 1 GUARD, 2 SELECT; ANTIVALENT wiring; DISC_T in ms. -/
structure SafeInCfg where
  kind : Nat
  antivalent : Bool := false
  filterUs : Nat := 3000
  discMs : Nat := 50
  deriving DecidableEq, Repr

/-- A safe output (R330, R331); `permit` is the point of the machine-function list output that permits it (R348). -/
structure SafeOutCfg where
  mapIn : List Nat
  mapAx : List Nat := []
  mainEnable : Bool := false
  manual : Bool := true
  edm : Option Nat := none
  edmMs : Nat := 300
  permit : Option Nat := none
  deriving DecidableEq, Repr

/-- An axis (R332 to R336). MEAS2: kind 0 ENC, 1 CELL_POS, 2 CELL_SPD, with its index. `sls` holds SLS_0 to SLS_3, `sdi` the
direction (true POS) and SDI_TOL; the three `by` fields name the input of ACTIVE_BY. -/
structure AxisCfg where
  scale1 : Rat
  scale2 : Rat
  kind2 : Nat
  idx2 : Nat
  hasIndex : Bool := true
  diffPos : Rat
  diffSpd : Rat
  diffMs : Nat := 20
  sls : Option (List Rat) := none
  slsRamp : Rat := 2
  slp : Option (Rat × Rat) := none
  refPos : Rat := 0
  refSpeed : Rat := 1 / 20
  sdi : Option (Bool × Rat) := none
  warnPct : Nat := 90
  sel0 : Option Nat := none
  sel1 : Option Nat := none
  slsBy : Option Nat := none
  slpBy : Option Nat := none
  sdiBy : Option Nat := none
  deriving DecidableEq, Repr

/-- The SAFETY section: inputs, outputs, axes, TWIN_WIRING SERIES, whether the manifest holds the section, and the check value of its bytes (R346). -/
structure SafetyCfg where
  ins : Tab SafeInCfg := []
  outs : Tab SafeOutCfg := []
  axes : Tab AxisCfg := []
  series : Bool := false
  given : Bool := false
  crc : Nat := 0
  deriving DecidableEq, Repr

/-! ### Operands of the twin link -/

/-- An input record of the active (R357) with its item and value: the number of the record kind is 1 CONV, 2 ENC, 3 STEP,
4 PINS, 5 CLP, 6 POINT, 7 ENVELOPE, 8 ROLL. -/
structure TwinRec where
  kind : Nat
  tick : Nat
  item : Nat
  value : Int
  pm : Pm
  quality : Quality := .good
  payload : List Nat := []
  deriving DecidableEq, Repr

/-- A COMMAND record (R357): which command was accepted (its block identifier of R479, its kind, target and tag), under
which role and key, and at which boundary it takes effect. -/
structure CmdRec where
  block : Nat
  kind : Nat
  target : Nat
  tag : Nat := 0
  role : Role := .operator
  keyId : Nat := 0
  src : CmdSrc := .host .pcie
  args : List Int := []
  deriving DecidableEq, Repr

/-- A SEAL (R358, R359): the tick it closes, its record count and bytes, its commit markers, the digests it carries, and how many
of the tick's records failed their CRC here and were asked for again (R357). -/
structure Seal where
  tick : Nat
  records : Nat
  bytes : Nat
  commits : List Nat := []
  out : Nat
  frame : Option Nat := none
  helm : Option Nat := none
  crcErrs : Nat := 0
  deriving DecidableEq, Repr

/-- One block of a snapshot (R356). -/
structure SnapBlock where
  idx : Nat
  total : Nat
  tick : Nat
  pts : List (Nat × Nat × Pm × Quality) := []
  regs : List RegVal := []
  deriving DecidableEq, Repr

/-! ### The POWER section (R380, R388) -/

/-- The POWER section. `k` holds K_S, K_C, K_E, K_A, K_H and K_D in W; `wakeEn` has the layout of PWR_WAKE_EN. -/
structure PowerCfg where
  budget : Rat := 12
  softLimit : Nat := 110
  rthB : Rat := 4
  tauJ : Rat := 60
  thermH : Rat := 10
  restoreS : Nat := 30
  k : List Rat := [0, 0, 0, 0, 0, 0]
  hotPolicy : Bool := false
  lull3 : Bool := false
  latTol : Nat := 0
  wakeEn : Nat := 0
  deriving DecidableEq, Repr

/-! ### Frame layouts and CAN channels (R396 to R418) -/

/-- A field of a layout (R403, R428): byte and bit offset, width, byte order (true: big-endian), encoding (0 signed, 1 unsigned,
2 binary32, 3 binary64, 4 QUAL) and the address of its point. -/
structure LField where
  byte : Nat
  bit : Nat := 0
  width : Nat
  big : Bool := false
  enc : Nat := 1
  addr : Nat := 0x0FFFFFFF
  deriving DecidableEq, Repr

/-- A frame as a CAN controller receives it: `remote` a remote frame; `pm` is the postmark of its SOF (R402). -/
structure CanFrame where
  id : Nat
  ide : Bool := false
  fdf : Bool := false
  brs : Bool := false
  esi : Bool := false
  remote : Bool := false
  dlc : Nat
  data : List Nat
  pm : Pm
  deriving DecidableEq, Repr

/-- An acceptance filter or express slot (R403, R404): `dest` 0 REJECT, 1 POINTS, 2 PIGEONHOLE, 3 ROLL; `kind` 0 ANY, 1 CLASSICAL,
2 FD; `msg` 0 a frame, 1 an NMEA 2000 fast-packet message, 2 an ISO transport broadcast (R418). -/
structure CanFilter where
  id : Nat
  mask : Nat
  ide : Bool := false
  kind : Nat := 0
  dest : Nat := 1
  pigeonhole : Nat := 0
  layout : Nat := 0
  wake : Bool := false
  msg : Nat := 0
  deriving DecidableEq, Repr

/-- A transmit mailbox (R407 to R409, R414): `owner` as in CAN_MB_STAT; a PERIODIC one has a period in ms; `drive` marks the drive
commands of R41; `node` the node it is sent to, as address bits [31:16]; `fast` an NMEA 2000 fast-packet message. -/
structure CanMbCfg where
  id : Nat
  ide : Bool := false
  fdf : Bool := false
  brs : Bool := false
  len : Nat
  urgent : Bool := false
  oneshot : Bool := false
  owner : Nat := 1
  periodMs : Option Nat := none
  fields : List LField := []
  drive : Bool := false
  node : Option Nat := none
  fast : Bool := false
  deriving DecidableEq, Repr

/-- NMEA 2000 on a channel (R418): NAME, address and address range, the mailbox that carries claims, and the bound remote nodes
(NAME to the source address that the manifest names). -/
structure N2kCfg where
  name : Nat
  addr : Nat
  lo : Nat
  hi : Nat
  mb : Nat
  nodes : List (Nat × Nat) := []
  deriving DecidableEq, Repr

/-- A CAN channel of the TRUNKS section (R397 to R400, R415). FORMAT: 0 CLASSICAL, 1 FD, 2 FD_BRS; `band` is STOP_BAND_TOP with
the identifiers declared as band frames; `roll` the mailbox of its roll-call requests. -/
structure CanCfg where
  format : Nat := 2
  nbrp : Nat := 1
  ntseg1 : Nat := 2
  ntseg2 : Nat := 2
  nsjw : Nat := 1
  dbrp : Nat := 1
  dtseg1 : Nat := 1
  dtseg2 : Nat := 1
  dsjw : Nat := 1
  triple : Bool := false
  tdco : Nat := 0
  band : Option (Nat × List Nat) := none
  sqHold : Nat := 70
  sqRelease : Nat := 60
  manual : Bool := false
  lockUs : Nat := 1000
  roll : Option Nat := none
  wakeLevel : Bool := false
  n2k : Option N2kCfg := none
  filters : Tab CanFilter := []
  slots : Tab CanFilter := []
  mbs : Tab CanMbCfg := []
  layouts : Tab (List LField) := []
  deriving DecidableEq, Repr

/-- How a transmit attempt ends (R411): in success, with the loop delay measured where compensation is on (R399), in a lost arbitration, or in an error with its LEC code, whether it lay in the
data phase, whether ISO 11898-1 exempts TEC, and the further steps of 8 that dominant bits after the flag add. -/
inductive TxEnd where
  | success (tdcv : Option Nat)
  | lost
  | err (lec : Nat) (dataPhase exempt : Bool) (more : Nat)
  deriving DecidableEq, Repr

/-! ### Ethernet ports, fleet dispatch and work record (R423 to R443) -/

/-- The destination address of a received frame: the port's own unicast address, INST_MAC, ROLL_MAC, a PTP multicast address of the
profile, broadcast, a multicast address not joined, or another unicast address (R425, R426). -/
inductive EthDst where
  | own
  | inst
  | roll
  | ptp
  | broadcast
  | multicast
  | unicast
  deriving DecidableEq, Repr

/-- The EtherType of a frame: the manifest's, PTP, or any other. -/
inductive EthType where
  | device
  | ptp
  | other
  deriving DecidableEq, Repr

/-- A received frame (R426, R427): the FCS check, the length, addresses, EtherType, the PRP trailer (sequence, whether its LAN
identifier and size are right), the device payload with whether LEN fits the frame and CHECK holds, and the corrected postmark. -/
structure EthFrame where
  fcsOk : Bool := true
  len : Nat := 64
  dst : EthDst := .inst
  src : Nat
  type : EthType := .device
  prp : Option (Nat × Bool × Bool) := none
  kind : Nat := 1
  version : Nat := 1
  addr : Nat := 0
  seq : Nat := 0
  lenOk : Bool := true
  checkOk : Bool := true
  body : List Nat := []
  pm : Pm
  deriving DecidableEq, Repr

/-- An Ethernet filter (R426): source MAC, KIND and LAYOUT, each under a mask; `dest` 0 REJECT, 1 POINTS, 2 PIGEONHOLE, 3 ROLL. -/
structure EthFilter where
  src : Nat := 0
  srcMask : Nat := 0
  kind : Nat := 0
  kindMask : Nat := 0
  layout : Nat := 0
  layoutMask : Nat := 0
  dest : Nat := 1
  pigeonhole : Nat := 0
  wake : Bool := false
  deriving DecidableEq, Repr

/-- An outbound cyclic frame (R429): a PERIODIC one has a period in µs, one without is ON_WRITE; the layout number, its fields and
the body's length; drive commands and URGENT frames enter queue 6. -/
structure EthTx where
  periodUs : Option Nat := none
  layout : Nat
  fields : List LField := []
  len : Nat
  urgent : Bool := false
  drive : Bool := false
  node : Option Nat := none
  deriving DecidableEq, Repr

/-- A port of the TRUNKS section (R423 to R433). `iface` 1 RGMII, 2 SGMII; `gates` the gate list, each entry a mask and an interval
in ns; `prp`: this port and the next are a pair, and this is the lower. -/
structure EthCfg where
  iface : Nat := 1
  vlan : Nat := 0
  filters : Tab EthFilter := []
  layouts : Tab (List LField) := []
  txs : Tab EthTx := []
  gates : List (Nat × Nat) := []
  sqHold : Nat := 70
  sqRelease : Nat := 60
  bcLimit : Nat := 2000
  prp : Bool := false
  roll : Bool := false
  txLat : Nat := 0
  rxLat : Nat := 0
  deriving DecidableEq, Repr

/-- Fleet dispatch (R436): its period in s and its ports. -/
structure DispCfg where
  period : Nat := 10
  ports : List Nat := []
  deriving DecidableEq, Repr

/-- The work record (R437, R438): channels as point-table indexes, period in ms, ring size, sealing time in s, and HOLD. -/
structure WorkCfg where
  channels : List Nat := []
  periodMs : Nat := 1000
  tiles : Nat := 16
  sealS : Nat := 600
  hold : Bool := false
  deriving DecidableEq, Repr

/-- The manifest as loaded: what its sections say (R66), section by section as the chapters that own the parameters give
them, with the default of every parameter that has one. [Log DESIGN CHOICE: 6, 11] -/
structure Manifest where
  points : List PtCfg := []
  nodes : List NodeCfg := []
  claims : List Claim := []
  uses : List Claim := []
  limits : List Limit := []
  queues : List QueueCfg := []
  irqRoutes : List (Nat × Nat) := []
  fbl : List FblCfg := []
  scaling : List (Rat × Rat) := []
  islandFns : List Nat := []
  safetySection : Bool := false
  modePoints : List Nat := []
  srcList : List TimeSrc := [1]
  holdEnter : Nat := 3
  oscStab : Nat := 50
  oscAging : Nat := 5
  uncLimit : Nat := 1000000
  antDelay : Nat := 0
  ext10mUse : Bool := false
  ppsWidth : Nat := 100
  ppsAlways : Bool := false
  utcOfsDefault : Nat := 0
  ptpRole : List Nat := []
  ptpP2p : List Nat := []
  trig : List TrigCfg := []
  gnssDual : Bool := true
  gnssSolRate : Nat := 10
  gnssCn0Min : Nat := 30
  gnssPdopMax : Rat := 6
  gnssSleepReady : Bool := false
  ephRefresh : Nat := 120
  estSlots : Tab EstSlotCfg := []
  estPoints : List Nat := []
  tracks : Tab TrackCfg := []
  voteAbsPos : Rat := 3
  voteAbsHdg : Rat := 2
  voteAbsRoll : Rat := 1
  voteAbsHeave : Rat := 1 / 5
  voteAbsWind : Rat := 3
  voteK : Rat := 5
  voteFrames : Nat := 3
  reentryFrames : Nat := 100
  posSigmaGood : Rat := 2
  posSigmaMax : Rat := 10
  hdgSigmaMax : Rat := 2
  corrRatePos : Rat := 1 / 2
  corrRateHdg : Rat := 1
  waveWin : Nat := 120
  trackCoast : Nat := 30
  fallbackEngines : List Nat := [0, 4]
  hullLeads : List Rat := []
  estModel : List Rat := [1000, 1 / 50, 1 / 100, 1, 8, 1 / 10]
  datum : List Rat := [0, 0]
  helm : HelmCfg := {}
  alloc : AllocCfg := {}
  loop : LoopCfg := {}
  adc : AdcCfg := {}
  clp : ClpSec := {}
  step : Tab StepCfg := []
  safety : SafetyCfg := {}
  plausConv : Rat := 2
  plausEnc : Nat := 64
  plausPos : Rat := 5
  plausPins : Bool := true
  plausT : Nat := 500
  power : PowerCfg := {}
  can : Tab CanCfg := []
  eth : Tab EthCfg := []
  disp : DispCfg := {}
  work : WorkCfg := {}
  deriving DecidableEq, Repr

/-- What a manifest image reads as: its header, the check values of its body, and the body. [Log DESIGN CHOICE: 11] -/
structure SlotImage where
  header : Header
  check : BodyCheck
  man : Manifest
  deriving DecidableEq, Repr

/-- What a host write needs from outside the block beside its value: what the staged image reads as for INSTALL (none: no image),
how its flash steps go, and the challenge of the random source for NEW_CHAL. [Log DESIGN CHOICE: 11, 263; DEDUCED: 36] -/
structure HostAux where
  image : Option SlotImage := none
  run : InstRun := .done
  chal : List Nat := []
  deriving DecidableEq, Repr

/-- The commands: every row of spec/opcode_table.json. -/
inductive Instr where
  | powerUp (dt : Nat)
  | porNRelease (dt : Nat) (straps : Straps)
  | porNAssert (dt : Nat) (lowNs : Nat)
  | brownOut (dt : Nat) (rail : Rail) (lowNs : Nat)
  | vddAonLoss (dt : Nat)
  | pllLock (dt : Nat) (scan : FlashScan)
  | pllRetry (dt : Nat) (locked : Bool) (pllState : Nat) (scan : FlashScan)
  | headerReadDone (dt : Nat) (capacity : Nat) (h : Header)
  | dramTrainingDone (dt : Nat) (gib : Nat) (trained : Bool)
  | manifestLoadDone (dt : Nat) (chk : BodyCheck) (man : Manifest)
  | bistDone (dt : Nat) (lbistOk memOk : Bool)
  | claimsCheckDone (dt : Nat)
  | pairHandshake (dt : Nat) (peer : PeerInfo) (activeIn : Bool)
  | pairTimeout (dt : Nat) (activeIn : Bool)
  | seatBRecheck (dt : Nat) (activeIn : Bool)
  | pairHoldRetry (dt : Nat)
  | snapshotBlockReceive (dt : Nat) (blk : SnapBlock)
  | syncTimeout (dt : Nat)
  | syncRetry (dt : Nat)
  | yuzSelftestDone (dt : Nat) (results expected : List (Nat × Nat))
  | runInEnd (dt : Nat)
  | loopTick (dt : Nat) (moved : List (Nat × Int)) (clp : List (Nat × Rat × Rat)) (txing : List (Nat × Nat))
  | frameBoundary (dt : Nat)
  | helmCycleBoundary (dt : Nat) (plan : List (List Rat)) (past : List Rat)
  | blendEnd (dt : Nat)
  | modeCmdReady (dt : Nat) (src : CmdSrc) (tag : Nat)
  | modeCmdStation (dt : Nat) (src : CmdSrc) (tag : Nat)
  | modeCmdPassage (dt : Nat) (src : CmdSrc) (tag : Nat)
  | modeCmdSafe (dt : Nat) (src : CmdSrc) (tag : Nat)
  | modeCmdDormant (dt : Nat) (src : CmdSrc) (tag : Nat)
  | safeEntry (dt : Nat)
  | modeResetWrite (dt : Nat) (port : Port) (key : Nat)
  | modeResetTimeout (dt : Nat)
  | dormantEntryDone (dt : Nat)
  | canWakePattern (dt : Nat) (ch : Nat)
  | wakeInWake (dt : Nat) (level : Bool)
  | rtcAlarm (dt : Nat)
  | safeInputWake (dt : Nat) (input : Nat)
  | hostWake (dt : Nat) (perst : Bool)
  | modeTickLoRead (dt : Nat) (port : Port)
  | engineLockstepMismatch (dt : Nat) (engine : Nat)
  | eccUncorrectable (dt : Nat) (mem : MemKind) (unit : Nat)
  | eccCorrection (dt : Nat) (mem : MemKind)
  | clockMonitorWindow (dt : Nat) (counts : List (FastDomain × Nat))
  | xtal32kLoss (dt : Nat)
  | networkPriorityAging (dt : Nat) (port : Nat) (waited : Nat)
  | mnfInstall (dt : Nat) (port : Port) (image : SlotImage) (run : InstRun)
  | mnfRestore (dt : Nat) (port : Port) (run : InstRun)
  | installResume (dt : Nat) (run : InstRun)
  | journalWrite (dt : Nat) (readbackOk : Bool)
  | rollCallIssue (dt : Nat)
  | rollCallReply (dt : Nat) (node : Nat) (mark : Nat) (seq : Nat)
  | fblEvaluationStart (dt : Nat) (list : Nat)
  | fblEvaluationEnd (dt : Nat) (list : Nat)
  | fblOverrunLimit (dt : Nat) (list : Nat)
  | roleNewChal (dt : Nat) (port : Port) (chal : List Nat)
  | roleOpen (dt : Nat) (port : Port) (role : Role)
  | roleClose (dt : Nat) (port : Port)
  | challengeExpiry (dt : Nat)
  | openLockExpiry (dt : Nat)
  | sessionIdleTimeout (dt : Nat)
  | roleKeyMaker (dt : Nat) (port : Port) (keyId : Nat)
  | roleKeyInstaller (dt : Nat) (port : Port) (keyId : Nat)
  | roleKeyOperator (dt : Nat) (port : Port) (keyId : Nat)
  | installerParamChange (dt : Nat) (port : Port) (param : Nat) (value : Int)
  | timeLatch (dt : Nat) (port : Port)
  | postmarkReadLatch (dt : Nat) (port : Port) (off : Nat)
  | singleStep (dt : Nat)
  | servoUpdate (dt : Nat) (freqErr : Rat) (offset : Int) (utc : Option (Int × Nat))
  | sourceLost (dt : Nat) (src : TimeSrc)
  | sourceReturn (dt : Nat) (src : TimeSrc) (offset : Int)
  | recoveryLock (dt : Nat)
  | uncLimitExceeded (dt : Nat)
  | gridAligned (dt : Nat)
  | leapSecondApply (dt : Nat)
  | ppsOutPulse (dt : Nat) (nextQerr : Int)
  | ppsOutPulseEnd (dt : Nat)
  | ppsInEdge (dt : Nat)
  | ext10mLoss (dt : Nat)
  | ext10mRestore (dt : Nat)
  | ptpEventMessage (dt : Nat) (port : Nat) (r : PtpReading)
  | ptpGeneralMessage (dt : Nat) (port : Nat) (r : PtpReading)
  | ptpSyncTransmit (dt : Nat) (port : Nat) (interval : Nat)
  | ptpAnnounceTransmit (dt : Nat) (port : Nat) (interval : Nat)
  | ptpDelayReqTransmit (dt : Nat) (port : Nat) (interval : Nat)
  | triggerUnitFire (dt : Nat) (unit : Nat)
  | feClockMeasure (dt : Nat) (l1 l5 : Option Int)
  | bandRetry (dt : Nat) (band : Nat) (ppb : Option Int) (scriptOk : Bool)
  | gnssStart (dt : Nat) (script1 script5 : Bool)
  | acquisitionDone (dt : Nat) (band ch constel prn : Nat) (found : Bool) (doppler : Int) (cn0 : Nat) (l5Ch : Option Nat)
  | reacqWiden (dt : Nat) (band ch : Nat)
  | gnssEpoch (dt : Nat) (sol : GnssSol)
  | positionMessageWrite (dt : Nat)
  | timePulseMessage (dt : Nat) (offset : Int) (sats : Nat) (timeOk : Bool) (utcOfs : Int) (unc : Nat)
  | gnssSleepCmd (dt : Nat) (port : Port)
  | gnssSleepEntry (dt : Nat) (ret : GnssRet)
  | gnssWakeCmd (dt : Nat) (port : Port)
  | gnssColdCmd (dt : Nat) (port : Port)
  | retainWrite (dt : Nat) (ret : GnssRet)
  | ephRefreshWake (dt : Nat)
  | refreshEnd (dt : Nat) (fresh : Bool) (ret : GnssRet)
  | estCommit (dt : Nat) (u : EstUpd)
  | estUpdateAbandon (dt : Nat)
  | estOverrunLimit (dt : Nat)
  | ownGateReinit (dt : Nat) (slot : Nat) (jump : Rat)
  | sourceFrozen (dt : Nat) (slot : Nat)
  | skewRecovered (dt : Nat) (slot : Nat)
  | slotWaiting (dt : Nat) (slot : Nat)
  | disputeEnd (dt : Nat) (group : Nat)
  | reentryComplete (dt : Nat) (slot : Nat)
  | reentryHoldRecord (dt : Nat) (slot : Nat)
  | estSrcDeselect (dt : Nat) (src : CmdSrc) (slot : Nat)
  | estSrcSelect (dt : Nat) (src : CmdSrc) (slot : Nat)
  | trackCoastTimeout (dt : Nat) (track : Nat)
  | trackLostTimeout (dt : Nat) (track : Nat)
  | trackSourceExclude (dt : Nat) (track source : Nat)
  | wavePeakSearch (dt : Nat) (freqs : List Rat)
  | heaveMruTimeout (dt : Nat)
  | lawCmdPosition (dt : Nat) (src : CmdSrc) (tag : Nat)
  | lawCmdTarget (dt : Nat) (src : CmdSrc) (tag : Nat)
  | lawCmdTrack (dt : Nat) (src : CmdSrc) (tag : Nat)
  | lawCmdAutohdg (dt : Nat) (src : CmdSrc) (tag : Nat)
  | lawCmdJoystick (dt : Nat) (src : CmdSrc) (tag : Nat)
  | spCmdPosition (dt : Nat) (src : CmdSrc) (tag : Nat)
  | spCmdTarget (dt : Nat) (src : CmdSrc) (tag : Nat)
  | spCmdTrack (dt : Nat) (src : CmdSrc) (tag : Nat)
  | helmSolveDone (dt : Nat) (tau : List Rat)
  | helmMissLimit (dt : Nat)
  | allocSolveDone (dt : Nat) (forces : List (Rat × Rat))
  | allocMissLimit (dt : Nat)
  | consReadySubmit (dt : Nat)
  | consBatchDone (dt : Nat) (cases : List CaseRes)
  | consMissLimit (dt : Nat)
  | allocShort (dt : Nat)
  | busPowerHoldExpiry (dt : Nat) (bus : Nat)
  | followFault (dt : Nat) (thr : Nat)
  | allocThrDeselect (dt : Nat) (src : CmdSrc) (thr : Nat)
  | allocThrSelect (dt : Nat) (src : CmdSrc) (thr : Nat)
  | yuzBatchStart (dt : Nat)
  | yuzBatchDone (dt : Nat) (items : List ItemRes)
  | yuzDeadlineStop (dt : Nat) (items : List ItemRes) (cycles : Nat) (overrun : Nat)
  | standbyLag (dt : Nat)
  | loopCellRun (dt : Nat) (cell : Nat) (counts : List (Nat × Nat))
  | cellMissLimit (dt : Nat) (cell : Nat)
  | encoderIndex (dt : Nat) (enc : Nat) (moved : Int)
  | encoderEdgeError (dt : Nat) (enc : Nat) (moved : Int)
  | pwmPeriodStart (dt : Nat) (ch : Nat)
  | injectionStart (dt : Nat) (port : Port)
  | injectionStop (dt : Nat) (port : Port)
  | injectionEnd (dt : Nat) (cell : Nat)
  | captureArm (dt : Nat) (port : Port)
  | captureForce (dt : Nat) (port : Port)
  | captureAbort (dt : Nat) (port : Port)
  | captureDone (dt : Nat) (unit : Nat)
  | loopCellSpRead (dt : Nat) (port : Port)
  | mfnEnable (dt : Nat) (src : CmdSrc) (fn tag : Nat)
  | mfnDisable (dt : Nat) (src : CmdSrc) (fn tag : Nat)
  | mfnReset (dt : Nat) (src : CmdSrc) (fn tag : Nat)
  | armTimeout (dt : Nat) (fn : Nat)
  | stopBandReached (dt : Nat) (fn : Nat)
  | stopTimeout (dt : Nat) (fn : Nat)
  | satTimeout (dt : Nat) (cell : Nat)
  | converterResult (dt : Nat) (ch : Nat) (comb : Int) (ovr : Bool)
  | settlingDone (dt : Nat) (ch : Nat) (comb : Int)
  | bitstreamFault (dt : Nat) (ch periods : Nat)
  | bitstreamRecovery (dt : Nat) (ch presentNs : Nat)
  | sarTrigger (dt : Nat) (ch : Nat)
  | sarResult (dt : Nat) (ch : Nat) (codes : List Int)
  | vrefCheck (dt : Nat) (diff : Rat)
  | adcChResRead (dt : Nat) (port : Port)
  | sourceFailure (dt : Nat) (ch : Nat)
  | supplyStep (dt : Nat) (ch : Nat)
  | complianceSet (dt : Nat) (ch : Nat)
  | complianceClear (dt : Nat) (ch : Nat)
  | complianceRestoreCheck (dt : Nat) (ch : Nat)
  | hartPollDue (dt : Nat) (modem : Nat)
  | hartReply (dt : Nat) (modem : Nat) (r : HartReply)
  | hartRetry (dt : Nat) (modem : Nat)
  | hartIdRetry (dt : Nat) (modem addr : Nat)
  | hartPause (dt : Nat) (port : Port)
  | hartResume (dt : Nat) (port : Port)
  | stepMove (dt : Nat) (src : CmdSrc) (ch tag : Nat) (target : Int)
  | stepVelocity (dt : Nat) (src : CmdSrc) (ch tag : Nat) (speed : Int)
  | stepHalt (dt : Nat) (src : CmdSrc) (ch tag : Nat)
  | stepStop (dt : Nat) (src : CmdSrc) (ch tag : Nat)
  | stepHome (dt : Nat) (src : CmdSrc) (ch tag : Nat)
  | stepReset (dt : Nat) (src : CmdSrc) (ch tag : Nat)
  | generatorUpdate (dt : Nat) (switches : List (Nat × SwLevels)) (angles : List (Nat × Nat))
  | chopperCrossing (dt : Nat) (ch coil : Nat) (hi : Bool) (cycles : Nat)
  | openCoil (dt : Nat) (ch coil : Nat)
  | shortCoil (dt : Nat) (ch coil : Nat)
  | holdCurrentReduce (dt : Nat) (ch : Nat)
  | limitSwitchDebounced (dt : Nat) (ch : Nat) (pos : Bool)
  | homeSwitchDebounced (dt : Nat) (ch : Nat)
  | homingBackoffDone (dt : Nat) (ch : Nat)
  | islandCycle (dt : Nat) (moved : List (Nat × Int)) (edm : Nat) (rbA rbB : Nat)
  | safeInputChange (dt : Nat) (input : Nat) (chB : Bool) (level : Bool)
  | inputDiscrepancy (dt : Nat) (input : Nat)
  | islandLockstepMismatch (dt : Nat)
  | islandWatchdogExpiry (dt : Nat)
  | islandClockFault (dt : Nat)
  | islandEccError (dt : Nat)
  | paramCrcRecheck (dt : Nat) (crc : Nat)
  | testPulseStart (dt : Nat) (out : Nat) (chB filtering : Bool)
  | testPulseEnd (dt : Nat) (out : Nat) (chB : Bool)
  | testOffCheck (dt : Nat) (out : Nat) (chB : Bool) (us : Nat)
  | readbackFault (dt : Nat) (out : Nat) (chB : Bool) (us : Nat)
  | testStarved (dt : Nat) (out : Nat) (chB : Bool)
  | edmFault (dt : Nat) (out : Nat)
  | axisDiscrepancy (dt : Nat) (axis : Nat)
  | safetyEncoderIndex (dt : Nat) (axis : Nat) (moved : Int)
  | safetyEncoderError (dt : Nat) (axis : Nat)
  | safeResetPress (dt : Nat) (lowMs : Nat)
  | safeResetStuck (dt : Nat) (lowMs : Nat)
  | safeCvCommit (dt : Nat) (port : Port)
  | safeOffReqWrite (dt : Nat) (port : Port) (mask : Nat)
  | permitMailboxWrite (dt : Nat)
  | sealReceive (dt : Nat) (sl : Seal)
  | inputRecordReceive (dt : Nat) (r : TwinRec)
  | commandRecordReceive (dt : Nat) (c : CmdRec)
  | verdictReceive (dt : Nat) (batch : Nat) (stop : Option (Nat × Nat))
  | timeRecordReceive (dt : Nat) (phase : Nat) (rate : Rat) (stepped : Bool)
  | statusReceive (dt : Nat) (state lag inst cv : Nat)
  | resendReceive (dt : Nat) (records : Nat)
  | divergeReceive (dt : Nat) (scope cell tick : Nat)
  | confirmReceive (dt : Nat) (scope cell tick : Nat)
  | giveUpReceive (dt : Nat) (cause tick : Nat)
  | replayDone (dt : Nat) (tick lagNs : Nat) (own : Seal) (cell : Nat)
  | tickLagExceeded (dt : Nat) (lagNs : Nat)
  | standbyLagLimit (dt : Nat)
  | laneDown (dt : Nat) (lane : Nat) (activeIn : Bool)
  | laneRetrain (dt : Nat) (lane : Nat) (up : Bool)
  | takeover (dt : Nat) (activeInLowNs peerOkLowNs : Nat) (missed : List Nat)
  | sidebandTimeout (dt : Nat)
  | sidebandDisagree (dt : Nat) (activeIn peerOkIn : Bool)
  | peerOkLowTimeout (dt : Nat) (lowNs : Nat)
  | twinPlaus (dt : Nat) (cls idx : Nat) (diff : Rat) (heldNs : Nat)
  | twinHoTickLoRead (dt : Nat) (port : Port)
  | pwrLatTolWrite (dt : Nat) (port : Port) (us : Nat)
  | lullGapEntry (dt : Nat) (dom nextNs : Nat)
  | lullGapWake (dt : Nat) (dom : Nat)
  | lull3Entry (dt : Nat)
  | lull3WakeDone (dt : Nat)
  | sensorWindow (dt : Nat) (vals : List (Nat × Int))
  | sensorBroken (dt : Nat) (sensor : Nat)
  | sensorReturn (dt : Nat) (sensor : Nat)
  | shutdownPowerOff (dt : Nat) (flashOp waitUs : Nat)
  | canFrameReceive (dt : Nat) (ch : Nat) (f : CanFrame)
  | canEsIdRead (dt : Nat) (port : Port) (ch slot : Nat)
  | canEsData15Read (dt : Nat) (port : Port) (ch slot : Nat)
  | canEsLockTimeout (dt : Nat) (ch slot : Nat)
  | canPeriodicTransmit (dt : Nat) (ch mb : Nat) (sof : Bool)
  | canTxAttemptEnd (dt : Nat) (ch mb : Nat) (r : TxEnd)
  | canMailboxCancel (dt : Nat) (ch mb : Nat) (sof : Bool)
  | canRecover (dt : Nat) (port : Port) (ch : Nat)
  | busoffRecoveryDone (dt : Nat) (ch : Nat)
  | squallLoadUpdate (dt : Nat) (ch : Nat) (busy : Rat)
  | canSquallAlarm (dt : Nat) (ch : Nat)
  | n2kAddressClaim (dt : Nat) (ch : Nat)
  | n2kClaimReceive (dt : Nat) (ch : Nat) (request : Bool) (name addr : Nat)
  | ethFrameReceive (dt : Nat) (port : Nat) (f : EthFrame)
  | ethPeriodicTransmit (dt : Nat) (port tx : Nat)
  | gateListEntry (dt : Nat) (port : Nat)
  | ethFrameTransmitDone (dt : Nat) (port : Nat)
  | phyStatusPoll (dt : Nat) (port : Nat) (link : Bool) (speed : Nat)
  | phyScriptRetry (dt : Nat) (port : Nat) (ok : Bool) (reg : Nat)
  | ethSquallUpdate (dt : Nat) (port : Nat) (busy : Rat)
  | ethSquallAlarm (dt : Nat) (port : Nat)
  | dispatchReport (dt : Nat)
  | workRecordSample (dt : Nat)
  | workRecordTileSeal (dt : Nat)
  | ethWrAckWrite (dt : Nat) (port : Port) (v : Nat)
  | ethWrHeadLoRead (dt : Nat) (port : Port)
  | hostLinkReset (dt : Nat) (perst : Bool) (downMs : Nat)
  | spiWriteTransaction (dt : Nat) (opcode addr : Nat) (words : List Nat) (bad : Nat) (aux : HostAux)
  | spiReadTransaction (dt : Nat) (addr n : Nat)
  | openRecordTimeout (dt : Nat)
  | recorderFlush (dt : Nat) (readbackOk : Bool)
  | sectorEraseDone (dt : Nat)
  | flushHeldTimeout (dt : Nat)
  | logFetchStart (dt : Nat) (port : Port) (hi : Nat)
  | logFetchDone (dt : Nat)
  | logSeqLoRead (dt : Nat) (port : Port) (off : Nat)
  | logMarkWrite (dt : Nat) (port : Port) (hi : Nat)
  | logErase (dt : Nat) (port : Port) (key : Nat)
  | logBackgroundEraseDone (dt : Nat)
  | pointWindowRead (dt : Nat) (port : Port) (ofs : Nat)
  | pointQualityStage (dt : Nat) (port : Port) (ofs : Nat) (code : Nat)
  | pointValueLowStage (dt : Nat) (port : Port) (ofs : Nat) (value : Nat)
  | pointValueCommit (dt : Nat) (port : Port) (ofs : Nat) (value : Nat)
  | pointWindowOtherWrite (dt : Nat) (port : Port) (ofs : Nat)
  | alarmAck (dt : Nat) (port : Port) (entry : Nat)
  | pgnRead (dt : Nat) (port : Port) (n : Nat)
  | pgnRestart (dt : Nat) (port : Port) (n : Nat)
  | pgnDiscard (dt : Nat) (port : Port) (n : Nat)
  | pgnWrite (dt : Nat) (port : Port) (n : Nat) (word : Nat)
  | irqAck (dt : Nat) (port : Port) (vector : Nat)
  | msixUnmask (dt : Nat) (port : Port) (vector : Nat)
  | registerWrite (dt : Nat) (port : Port) (off value : Nat) (whole : Bool) (aux : HostAux)
  | railPowerGood (dt : Nat) (rails : List Rail)
  | perstNRelease (dt : Nat) (gen width : Nat) (msix : Bool)
  | sgmiiLinkChange (dt : Nat) (port : Nat) (link : Bool) (speed : Nat)
  | satelliteLockLoss (dt : Nat) (band ch : Nat)
  | canRxError (dt : Nat) (ch lec : Nat) (dataPhase : Bool) (inc : Nat) (exception : Bool)
  | canBusIntegrationDone (dt : Nat) (ch : Nat)
  | wakeEventForwardReceive (dt : Nat)
  | stagedImageReceive (dt : Nat) (image : SlotImage) (run : InstRun)
  deriving DecidableEq, Repr

end Sys2Proof
end

