-- ==== Sys2Proof/Decode.lean ====
section
/-!
DEFINITION. The command that a word spells by the bits of spec/opcode_table.json. No row of the table gives bits: a command is an
event at the block's balls, trunks and host ports, and its operands come with it. So no word spells a command.
-/

namespace Sys2Proof

/-- No row of the opcode table gives bits. [Log DESIGN CHOICE: 3] -/
def decodeTableWord (_nbits _w : Nat) : Option Instr := none

end Sys2Proof
end

