-- ==== Sys2Proof/Config.lean ====
section
/-!
DEFINITION. The free values: constants with no body, which nothing in Lean can evaluate. Each stands where the spec gives a
command its effect and leaves a value open. A statement holds whatever they are.
-/

namespace Sys2Proof.Config

/-- The whole number a register shows for an exact value, where the spec gives the unit and no rounding. The first argument
is the place: the offset of the register times 32 plus the lowest bit of the field. [Log DESIGN CHOICE: 8, 13] -/
opaque shown (place : Nat) (x : Rat) : Int

/-- The values of the elementary functions that no rule gives an algorithm or a rounding for. [Log DESIGN CHOICE: 9] -/
opaque exp (x : Rat) : Rat
opaque sqrt (x : Rat) : Rat
opaque sin (x : Rat) : Rat
opaque cos (x : Rat) : Rat
opaque atan2 (y x : Rat) : Rat
opaque pow (x y : Rat) : Rat

/-- The value of a computation whose algorithm or corner no rule states: the place that asks, and what it is computed from.
[Log DESIGN CHOICE: 9] -/
opaque value (place : Nat) (args : List Rat) : Rat

/-- The number in which an event's data item carries a case that its event table names without a code (R480): the event and the
case, counted in the order of the rule's words. [Log DESIGN CHOICE: 12, 259; DEDUCED: 215] -/
opaque code (event case : Nat) : Nat

/-- A fresh unstated value: the place that asks for it and the up-time of the asking. [Log DESIGN CHOICE: 7] -/
opaque fresh (place now : Nat) : Nat

end Sys2Proof.Config
end

