-- ==== Sys2Proof/Machine/Tab.lean ====
section
/-!
DEFINITION. Reading and writing the sparse tables that hold registers, points, pigeonholes, channels and memory: one lookup,
one ordered insertion and one removal. A table's numbers strictly rise, and the operations keep that form.
-/

namespace Sys2Proof.Machine

/-- The entry numbered `k`. -/
def tfind {α : Type} : Tab α → Nat → Option α
  | [], _ => none
  | (k', v) :: t, k => if k = k' then some v else tfind t k

/-- The table with `v` as entry `k`, in place. [Log DESIGN CHOICE: 4] -/
def tput {α : Type} : Tab α → Nat → α → Tab α
  | [], k, v => [(k, v)]
  | (k', v') :: t, k, v =>
    if k < k' then (k, v) :: (k', v') :: t
    else if k = k' then (k, v) :: t
    else (k', v') :: tput t k v

/-- The table without an entry `k`. -/
def tdel {α : Type} : Tab α → Nat → Tab α
  | [], _ => []
  | (k', v') :: t, k => if k = k' then tdel t k else (k', v') :: tdel t k

/-- Entry `k`, or `d` where the table lists none. [Log DESIGN CHOICE: 4] -/
def tget {α : Type} (t : Tab α) (k : Nat) (d : α) : α := (tfind t k).getD d

/-- The numbers of a table strictly rise, all of them from `lo` on. -/
def tsorted {α : Type} : Nat → Tab α → Bool
  | _, [] => true
  | lo, (k, _) :: t => decide (lo ≤ k) && tsorted (k + 1) t

end Sys2Proof.Machine
end

