-- ==== Sys2Proof/Machine/Operands.lean ====
section
/-!
DEFINITION. The number formats that several families compute in: saturating fixed point, the Yuzal array's accumulate and
write-back (R221, R222, R229), its cycle counts (R226 to R228), and angles in degrees (R10).
-/

namespace Sys2Proof.Machine

open Sys2Proof

/-! ### Saturation and rounding -/

/-- A value saturated to `w` bits of two's complement, and whether it was clipped. -/
def satBits (w : Nat) (x : Int) : Int × Bool :=
  let hi : Int := 2 ^ (w - 1) - 1
  if hi < x then (hi, true) else if x < -hi - 1 then (-hi - 1, true) else (x, false)

/-- A right shift that rounds half up (R221). -/
def roundShift (x : Int) (sh : Nat) : Int := if sh = 0 then x else (x + 2 ^ (sh - 1)) / 2 ^ sh

/-- The accumulator's bound (R221): a sum that passes ±2^71 holds the bound. -/
def accumulate (acc product : Int) : Int × Bool :=
  let x := acc + product
  if 2 ^ 71 < x then (2 ^ 71, true) else if x < -2 ^ 71 then (-2 ^ 71, true) else (x, false)

/-- A sum of products, in order, and whether it saturated on the way (R218, R221). -/
def dotProduct : List (Int × Int) → Int → Bool → Int × Bool
  | [], acc, sat => (acc, sat)
  | (a, b) :: t, acc, sat => let r := accumulate acc (a * b); dotProduct t r.1 (sat || r.2)

/-- Write-back (R221): a shift of sh = f_a + f_b − f_out from −8 to +62, rounded half up, saturated to 32 bits. -/
def writeBack (acc : Int) (sh : Int) : Int × Bool :=
  if 0 ≤ sh then satBits 32 (roundShift acc sh.toNat) else satBits 32 (acc * 2 ^ (-sh).toNat)

/-- One output word of a product of two operands (R221): rounded exactly once. -/
def outWord (l : List (Int × Int)) (fa fb fout : Nat) : Int × Bool :=
  let d := dotProduct l 0 false
  let r := writeBack d.1 ((fa : Int) + fb - fout)
  (r.1, d.2 || r.2)

/-- The pivot that CHOL divides by (R229): one at or below FLOOR is replaced by FLOOR. -/
def pivotChol (pivot floor : Int) : Int × Bool := if pivot ≤ floor then (floor, true) else (pivot, false)

/-- The pivot that LDLT divides by (R229): one whose magnitude is at or below FLOOR takes FLOOR with its sign. -/
def pivotLdlt (pivot floor : Int) : Int × Bool :=
  if (pivot.natAbs : Int) ≤ floor then (if pivot < 0 then -floor else floor, true) else (pivot, false)

/-- The divide unit (R222): a fixed function of its input, within one unit in the last place of the exact value, given in
units of the output format; a zero divisor gives the largest value and SAT. Which of the candidates it gives is open. -/
def reciprocal (x : Int) (exact : Rat) : Int × Bool :=
  if x = 0 then (2 ^ 31 - 1, true)
  else
    let v := Config.shown 0x222 exact
    satBits 32 (max exact.floor (min exact.ceil v))

/-- The reciprocal square root (R222): a zero or negative input gives the largest value and SAT. -/
def rsqrt (x : Int) (exact : Rat) : Int × Bool := if x ≤ 0 then (2 ^ 31 - 1, true) else reciprocal x exact

/-! ### Cycle counts (R226 to R228) -/

/-- ⌈a / b⌉. -/
def ceilDiv (a b : Nat) : Nat := (a + b - 1) / b

/-- The trailing update of a column (R226). -/
def wCycles (m : Nat) : Nat := ceilDiv m 16 + ceilDiv (m * (m + 1)) 32

/-- The sum s1(n) of R226. -/
def s1Cycles (n : Nat) : Nat := ((List.range n).map fun m => ceilDiv m 16).sum

/-- CHOL: a solo item exposes the divide latency of 20 cycles, an item in a pair half of it. -/
def cholCycles (solo : Bool) (n : Nat) : Nat :=
  8 + ((List.range n).map fun m => 2 + max (if solo then 20 else 10) (wCycles m)).sum

def ldltCycles (solo : Bool) (n : Nat) : Nat := cholCycles solo n + s1Cycles n

def trsvCycles (n k : Nat) : Nat := 4 + k * (5 * n + s1Cycles n)

def gemmCycles (m k p : Nat) : Nat := 6 + k * ceilDiv (m * p) 16

def syrkCycles (n k : Nat) : Nat := 6 + k * ceilDiv (n * (n + 1)) 32

/-- RIC9 (R227): one stage of one item. -/
def ric9Cycles : Nat := 154

/-- COUPLE (R227): one iteration, on every tile of the mask. -/
def coupleCycles : Nat := 15000

/-- QPSTEP (R227), with V rounded up to 16, 32, 48 or 64 and C to a multiple of 16. -/
def qpstepCycles (solo : Bool) (v c : Nat) : Nat :=
  let v := 16 * ceilDiv v 16
  let c := 16 * ceilDiv c 16
  (if solo then 144 else 64) * c + ldltCycles solo v + 4 * trsvCycles v 1 + 625

/-- The number of bits set in a tile mask. -/
def tileCount (mask : Nat) : Nat := ((List.range 4).filter fun i => mask.testBit i).length

/-- Compute cycles of a batch (R228): 3,000 for setup and drain, the busiest tile's items in pairs with an odd last item solo,
and the join of a coupled batch. `solo` and `pair` are the cycles of one item for one iteration. [Log DEDUCED: 115] -/
def batchCycles (items iter tiles : Nat) (coupled : Bool) (solo pair : Nat) : Nat :=
  let m := ceilDiv items (max 1 tiles)
  3000 + iter * ((m / 2) * 2 * pair + (m % 2) * solo) + (if coupled then iter * coupleCycles else 0)

/-! ### Angles -/

/-- An angle in degrees reduced to [0, 360) (R10). -/
def deg360 (a : Rat) : Rat := a - 360 * (a / 360).floor

/-- The cosine of an angle in degrees: exact at the right angles, otherwise a value no rule gives an algorithm for.
[Log DESIGN CHOICE: 9] -/
def cosd (a : Rat) : Rat :=
  let r := deg360 a
  if r = 0 then 1 else if r = 90 || r = 270 then 0 else if r = 180 then -1 else Config.cos r

/-- The sine of an angle in degrees. [Log DESIGN CHOICE: 9] -/
def sind (a : Rat) : Rat :=
  let r := deg360 a
  if r = 90 then 1 else if r = 0 || r = 180 then 0 else if r = 270 then -1 else Config.sin r

/-- A value held within bounds. -/
def clampTo (lo hi x : Rat) : Rat := max lo (min hi x)

/-- |x|. -/
def absR (x : Rat) : Rat := if x < 0 then -x else x

/-- A table of points with strictly rising first members, interpolated between them and clamped at its ends. -/
def lutR : List (Rat × Rat) → Rat → Rat
  | [], _ => 0
  | [p], _ => p.2
  | p :: q :: t, x =>
    if x ≤ p.1 then p.2
    else if x ≤ q.1 then p.2 + (q.2 - p.2) * (x - p.1) / (q.1 - p.1)
    else lutR (q :: t) x

/-- A table read the other way, its second members rising. -/
def lutBack (l : List (Rat × Rat)) (x : Rat) : Rat :=
  let m := l.map fun p => (p.2, p.1)
  lutR (match m with | p :: q :: _ => if q.1 < p.1 then m.reverse else m | _ => m) x

end Sys2Proof.Machine
end

