-- ==== Sys2Proof/Machine/Digest.lean ====
section
/-!
DEFINITION. The check codes the spec names: CRC-32C (R65, R444, R468), CRC-64/ECMA-182 (R359), SHA-256 and HMAC-SHA-256
(R67, R82), each from its published definition, over lists of bytes as numbers 0 to 255.
-/

namespace Sys2Proof.Machine

/-- The `w` bytes of `v`, least significant first; `v` is taken modulo 256^w. -/
def leBytes : Nat → Nat → List Nat
  | 0, _ => []
  | w + 1, v => v % 256 :: leBytes w (v / 256)

/-- The `w` bytes of `v`, most significant first. -/
def beBytes (w v : Nat) : List Nat := (leBytes w v).reverse

/-- The number whose bytes, least significant first, are `bs`. -/
def ofLe : List Nat → Nat
  | [] => 0
  | b :: bs => b % 256 + 256 * ofLe bs

/-- The number whose bytes, most significant first, are `bs`. -/
def ofBe (bs : List Nat) : Nat := ofLe bs.reverse

/-- The 32 bytes of a digest or key. -/
def bytes32 (v : Nat) : List Nat := beBytes 32 v

/-- One bit step of a reflected CRC with the reflected polynomial `poly`. -/
def crcBit (poly c : Nat) : Nat := if c % 2 = 1 then (c / 2) ^^^ poly else c / 2

/-- Eight bit steps. -/
def crcByte (poly c b : Nat) : Nat :=
  let c := c ^^^ (b % 256)
  crcBit poly (crcBit poly (crcBit poly (crcBit poly (crcBit poly (crcBit poly (crcBit poly (crcBit poly c)))))))

/-- CRC-32C (Castagnoli). -/
def crc32c (bs : List Nat) : Nat := (bs.foldl (crcByte 0x82F63B78) 0xFFFFFFFF) ^^^ 0xFFFFFFFF

/-- One bit step of CRC-64/ECMA-182, most significant bit first. -/
def crc64Bit (c : Nat) : Nat :=
  if c ≥ 2 ^ 63 then ((2 * c) % 2 ^ 64) ^^^ 0x42F0E1EBA9EA3693 else 2 * c

/-- CRC-64/ECMA-182. -/
def crc64 (bs : List Nat) : Nat :=
  bs.foldl (fun c b =>
    let c := c ^^^ ((b % 256) * 2 ^ 56)
    crc64Bit (crc64Bit (crc64Bit (crc64Bit (crc64Bit (crc64Bit (crc64Bit (crc64Bit c)))))))) 0

/-- The round constants of SHA-256. -/
def shaK : List (BitVec 32) :=
  [0x428a2f98, 0x71374491, 0xb5c0fbcf, 0xe9b5dba5, 0x3956c25b, 0x59f111f1, 0x923f82a4, 0xab1c5ed5,
   0xd807aa98, 0x12835b01, 0x243185be, 0x550c7dc3, 0x72be5d74, 0x80deb1fe, 0x9bdc06a7, 0xc19bf174] ++
  [0xe49b69c1, 0xefbe4786, 0x0fc19dc6, 0x240ca1cc, 0x2de92c6f, 0x4a7484aa, 0x5cb0a9dc, 0x76f988da,
   0x983e5152, 0xa831c66d, 0xb00327c8, 0xbf597fc7, 0xc6e00bf3, 0xd5a79147, 0x06ca6351, 0x14292967] ++
  [0x27b70a85, 0x2e1b2138, 0x4d2c6dfc, 0x53380d13, 0x650a7354, 0x766a0abb, 0x81c2c92e, 0x92722c85,
   0xa2bfe8a1, 0xa81a664b, 0xc24b8b70, 0xc76c51a3, 0xd192e819, 0xd6990624, 0xf40e3585, 0x106aa070] ++
  [0x19a4c116, 0x1e376c08, 0x2748774c, 0x34b0bcb5, 0x391c0cb3, 0x4ed8aa4a, 0x5b9cca4f, 0x682e6ff3,
   0x748f82ee, 0x78a5636f, 0x84c87814, 0x8cc70208, 0x90befffa, 0xa4506ceb, 0xbef9a3f7, 0xc67178f2]

/-- The message schedule of a block, newest word first: 48 further words after the block's 16. -/
def shaSched : Nat → List (BitVec 32) → List (BitVec 32)
  | 0, w => w
  | n + 1, w =>
    let w15 := w.getD 14 0
    let w2 := w.getD 1 0
    let s0 := w15.rotateRight 7 ^^^ w15.rotateRight 18 ^^^ (w15 >>> 3)
    let s1 := w2.rotateRight 17 ^^^ w2.rotateRight 19 ^^^ (w2 >>> 10)
    shaSched n ((w.getD 15 0 + s0 + w.getD 6 0 + s1) :: w)

/-- The eight working words of SHA-256. -/
structure ShaSt where
  a : BitVec 32
  b : BitVec 32
  c : BitVec 32
  d : BitVec 32
  e : BitVec 32
  f : BitVec 32
  g : BitVec 32
  h : BitVec 32
  deriving DecidableEq, Repr

/-- One round. -/
def shaRound (s : ShaSt) (kw : BitVec 32 × BitVec 32) : ShaSt :=
  let s1 := s.e.rotateRight 6 ^^^ s.e.rotateRight 11 ^^^ s.e.rotateRight 25
  let ch := (s.e &&& s.f) ^^^ (~~~s.e &&& s.g)
  let t1 := s.h + s1 + ch + kw.1 + kw.2
  let s0 := s.a.rotateRight 2 ^^^ s.a.rotateRight 13 ^^^ s.a.rotateRight 22
  let maj := (s.a &&& s.b) ^^^ (s.a &&& s.c) ^^^ (s.b &&& s.c)
  ⟨t1 + (s0 + maj), s.a, s.b, s.c, s.d + t1, s.e, s.f, s.g⟩

/-- One block of 64 bytes. -/
def shaBlock (s : ShaSt) (blk : List Nat) : ShaSt :=
  let w := (List.range 16).map fun i => BitVec.ofNat 32 (ofBe ((blk.drop (4 * i)).take 4))
  let sched := (shaSched 48 w.reverse).reverse
  let t := (shaK.zip sched).foldl shaRound s
  ⟨s.a + t.a, s.b + t.b, s.c + t.c, s.d + t.d, s.e + t.e, s.f + t.f, s.g + t.g, s.h + t.h⟩

/-- The blocks of a padded message, `n` of them. -/
def shaBlocks : Nat → List Nat → ShaSt → ShaSt
  | 0, _, s => s
  | n + 1, m, s => shaBlocks n (m.drop 64) (shaBlock s (m.take 64))

/-- The message with its padding. -/
def shaPad (m : List Nat) : List Nat :=
  m ++ [0x80] ++ List.replicate ((119 - m.length % 64) % 64) 0 ++ beBytes 8 (8 * m.length)

/-- SHA-256: 32 bytes. -/
def sha256 (m : List Nat) : List Nat :=
  let p := shaPad m
  let s := shaBlocks (p.length / 64) p
    ⟨0x6a09e667, 0xbb67ae85, 0x3c6ef372, 0xa54ff53a, 0x510e527f, 0x9b05688c, 0x1f83d9ab, 0x5be0cd19⟩
  [s.a, s.b, s.c, s.d, s.e, s.f, s.g, s.h].flatMap fun w => beBytes 4 w.toNat

/-- HMAC-SHA-256 with a key of 32 bytes. -/
def hmacSha256 (key m : List Nat) : List Nat :=
  let k := key ++ List.replicate (64 - key.length) 0
  sha256 (k.map (· ^^^ 0x5C) ++ sha256 (k.map (· ^^^ 0x36) ++ m))

end Sys2Proof.Machine
end

