-- ==== Sys2Proof/Machine/RegMap.lean ====
section
/-!
DEFINITION. The register field map: one field descriptor per field of the field tables of spec/ (R6, R13, R61 … R478),
written from those tables. A name is REGISTER_FIELD; a field of a register that stands once per channel, port, slot, cell
or pigeonhole is one descriptor, and the instance is the bank it is read in. Reserved fields read 0 (R460) and have none.
-/

namespace Sys2Proof.Machine.R

/-! ### DEV block, BAR0 0x00000 -/

def DEV_ID_REV_MINOR : Fld := ⟨0x0, 0, 8, 0, .ro⟩
def DEV_ID_REV_MAJOR : Fld := ⟨0x0, 8, 8, 11, .ro⟩
def DEV_ID_PART : Fld := ⟨0x0, 16, 16, 16736, .ro⟩
def DEV_GRADE_GRADE : Fld := ⟨0x4, 0, 2, 1, .ro⟩  -- reset: Fuse
def DEV_GRADE_ISLAND_FUSED : Fld := ⟨0x4, 2, 1, 0, .ro⟩  -- reset: Fuse
def DEV_GRADE_TEMP : Fld := ⟨0x4, 4, 4, 1, .ro⟩
def DEV_GRADE_DRAM_GIB : Fld := ⟨0x4, 8, 8, 0, .ro⟩
def DEV_STAT_MODE : Fld := ⟨0x8, 0, 3, 1, .ro⟩
def DEV_STAT_ACTIVE : Fld := ⟨0x8, 3, 1, 0, .ro⟩
def DEV_STAT_PAIRED : Fld := ⟨0x8, 4, 1, 0, .ro⟩
def DEV_STAT_FAULT_N : Fld := ⟨0x8, 5, 1, 0, .ro⟩
def DEV_STAT_DRIVES_NOTHING : Fld := ⟨0x8, 6, 1, 0, .ro⟩
def DEV_STAT_ALARM_UNACK : Fld := ⟨0x8, 7, 1, 0, .ro⟩
def DEV_STAT_ISLAND_LOCKOUT : Fld := ⟨0x8, 8, 1, 0, .ro⟩
def DEV_STAT_DEPTH : Fld := ⟨0x8, 9, 2, 0, .ro⟩
def DEV_STAT_FC_LEVEL : Fld := ⟨0x8, 11, 4, 0, .ro⟩
def DEV_FAULT_CAUSE : Fld := ⟨0xC, 0, 4, 0, .ro⟩
def DEV_FAULT_COUNT : Fld := ⟨0xC, 8, 8, 0, .ro⟩
def DEV_FAULT_UNIT : Fld := ⟨0xC, 16, 16, 0, .ro⟩
def DEV_PT_PAGE_PAGE : Fld := ⟨0x10, 0, 6, 0, .rw⟩
def DEV_PT_STAT_N : Fld := ⟨0x14, 0, 19, 0, .ro⟩
def DEV_PT_STAT_WR_RESULT : Fld := ⟨0x14, 19, 3, 0, .ro⟩
def DEV_ALARM_SUM_RAISED : Fld := ⟨0x18, 0, 9, 0, .ro⟩
def DEV_ALARM_SUM_UNACK : Fld := ⟨0x18, 9, 9, 0, .ro⟩
def DEV_ALARM_SUM_OVERFLOW : Fld := ⟨0x18, 18, 1, 0, .w1c⟩
def DEV_ALARM_SEL_ENTRY : Fld := ⟨0x1C, 0, 8, 0, .rw⟩
def DEV_ALARM_ENT_CODE : Fld := ⟨0x20, 0, 16, 0, .ro⟩
def DEV_ALARM_ENT_SOURCE : Fld := ⟨0x20, 16, 12, 0, .ro⟩
def DEV_ALARM_ENT_STATE : Fld := ⟨0x20, 28, 2, 0, .ro⟩
def DEV_ALARM_ACK_ENTRY : Fld := ⟨0x24, 0, 9, 0, .rwl [.operator]⟩
def DEV_HOST_ERR_UNMAPPED : Fld := ⟨0x28, 0, 16, 0, .ro⟩
def DEV_HOST_ERR_POINT_REFUSED : Fld := ⟨0x28, 16, 16, 0, .ro⟩
def DEV_EVT_ALARM_RAISED : Fld := ⟨0x2C, 0, 1, 0, .w1c⟩
def DEV_EVT_ALARM_CLEARED : Fld := ⟨0x2C, 1, 1, 0, .w1c⟩
def DEV_EVT_FAULT : Fld := ⟨0x2C, 2, 1, 0, .w1c⟩
def DEV_EVT_DEAD_LETTER : Fld := ⟨0x2C, 3, 1, 0, .w1c⟩
def DEV_EVT_PGN_OVERFLOW : Fld := ⟨0x2C, 4, 1, 0, .w1c⟩

def devFlds0 : List Fld :=
  [DEV_ID_REV_MINOR, DEV_ID_REV_MAJOR, DEV_ID_PART, DEV_GRADE_GRADE, DEV_GRADE_ISLAND_FUSED, DEV_GRADE_TEMP,
   DEV_GRADE_DRAM_GIB, DEV_STAT_MODE, DEV_STAT_ACTIVE, DEV_STAT_PAIRED, DEV_STAT_FAULT_N, DEV_STAT_DRIVES_NOTHING,
   DEV_STAT_ALARM_UNACK, DEV_STAT_ISLAND_LOCKOUT, DEV_STAT_DEPTH, DEV_STAT_FC_LEVEL, DEV_FAULT_CAUSE, DEV_FAULT_COUNT,
   DEV_FAULT_UNIT, DEV_PT_PAGE_PAGE]
def devFlds1 : List Fld :=
  [DEV_PT_STAT_N, DEV_PT_STAT_WR_RESULT, DEV_ALARM_SUM_RAISED, DEV_ALARM_SUM_UNACK, DEV_ALARM_SUM_OVERFLOW,
   DEV_ALARM_SEL_ENTRY, DEV_ALARM_ENT_CODE, DEV_ALARM_ENT_SOURCE, DEV_ALARM_ENT_STATE, DEV_ALARM_ACK_ENTRY,
   DEV_HOST_ERR_UNMAPPED, DEV_HOST_ERR_POINT_REFUSED, DEV_EVT_ALARM_RAISED, DEV_EVT_ALARM_CLEARED, DEV_EVT_FAULT,
   DEV_EVT_DEAD_LETTER, DEV_EVT_PGN_OVERFLOW]
/-- Every field of the DEV block. -/
def devFlds : List Fld := devFlds0 ++ devFlds1

/-! ### MODE block, BAR0 0x01000 -/

def MODE_STAT_MODE : Fld := ⟨0x1000, 0, 3, 1, .ro⟩
def MODE_STAT_ACTIVE : Fld := ⟨0x1000, 4, 1, 0, .ro⟩
def MODE_STAT_PAIRED : Fld := ⟨0x1000, 5, 1, 0, .ro⟩
def MODE_STAT_PENDING : Fld := ⟨0x1000, 6, 1, 0, .ro⟩
def MODE_STAT_BLEND : Fld := ⟨0x1000, 7, 1, 0, .ro⟩
def MODE_STAT_PHASE : Fld := ⟨0x1000, 8, 4, 0, .ro⟩
def MODE_STAT_SLOT : Fld := ⟨0x1000, 12, 4, 0, .ro⟩
def MODE_STAT_SAFE_CAUSE : Fld := ⟨0x1000, 16, 8, 0, .ro⟩
def MODE_CMD_TARGET : Fld := ⟨0x1004, 0, 3, 0, .rwl [.operator]⟩
def MODE_CMD_TAG : Fld := ⟨0x1004, 8, 8, 0, .rwl [.operator]⟩
def MODE_CMD_STAT_RESULT : Fld := ⟨0x1008, 0, 4, 0, .ro⟩
def MODE_CMD_STAT_TAG : Fld := ⟨0x1008, 8, 8, 0, .ro⟩
def MODE_CMD_STAT_GUARDS : Fld := ⟨0x1008, 16, 7, 0, .ro⟩
def MODE_GUARD_POS_OK : Fld := ⟨0x100C, 0, 1, 0, .ro⟩
def MODE_GUARD_HDG_OK : Fld := ⟨0x100C, 1, 1, 0, .ro⟩
def MODE_GUARD_THR_OK : Fld := ⟨0x100C, 2, 1, 0, .ro⟩
def MODE_GUARD_SOLVER_OK : Fld := ⟨0x100C, 3, 1, 0, .ro⟩
def MODE_GUARD_MFN_IDLE : Fld := ⟨0x100C, 4, 1, 0, .ro⟩
def MODE_GUARD_THR_ZERO : Fld := ⟨0x100C, 5, 1, 0, .ro⟩
def MODE_GUARD_SAFE_CLEAR : Fld := ⟨0x100C, 6, 1, 0, .ro⟩
def MODE_RESET_KEY : Fld := ⟨0x1010, 0, 32, 0, .rwl [.operator]⟩
def MODE_MUSTER_MS_TOTAL : Fld := ⟨0x1014, 0, 16, 0, .ro⟩
def MODE_MUSTER_MS_PAIRING : Fld := ⟨0x1014, 16, 16, 0, .ro⟩
def MODE_TICK_LO_TICK_LO : Fld := ⟨0x1018, 0, 32, 0, .ro⟩
def MODE_TICK_HI_TICK_HI : Fld := ⟨0x101C, 0, 32, 0, .ro⟩
def MODE_EVT_MODE_CHANGED : Fld := ⟨0x1020, 0, 1, 0, .w1c⟩
def MODE_EVT_CMD_DONE : Fld := ⟨0x1020, 1, 1, 0, .w1c⟩
def MODE_EVT_CMD_REFUSED : Fld := ⟨0x1020, 2, 1, 0, .w1c⟩
def MODE_EVT_SAFE_ENTERED : Fld := ⟨0x1020, 3, 1, 0, .w1c⟩
def MODE_EVT_PAIR_HOLD : Fld := ⟨0x1020, 4, 1, 0, .w1c⟩

def modeFlds0 : List Fld :=
  [ MODE_STAT_MODE, MODE_STAT_ACTIVE, MODE_STAT_PAIRED, MODE_STAT_PENDING, MODE_STAT_BLEND, MODE_STAT_PHASE,
   MODE_STAT_SLOT, MODE_STAT_SAFE_CAUSE, MODE_CMD_TARGET, MODE_CMD_TAG, MODE_CMD_STAT_RESULT, MODE_CMD_STAT_TAG,
   MODE_CMD_STAT_GUARDS, MODE_GUARD_POS_OK, MODE_GUARD_HDG_OK, MODE_GUARD_THR_OK, MODE_GUARD_SOLVER_OK,
   MODE_GUARD_MFN_IDLE, MODE_GUARD_THR_ZERO, MODE_GUARD_SAFE_CLEAR]
def modeFlds1 : List Fld :=
  [ MODE_RESET_KEY, MODE_MUSTER_MS_TOTAL, MODE_MUSTER_MS_PAIRING, MODE_TICK_LO_TICK_LO, MODE_TICK_HI_TICK_HI,
   MODE_EVT_MODE_CHANGED, MODE_EVT_CMD_DONE, MODE_EVT_CMD_REFUSED, MODE_EVT_SAFE_ENTERED, MODE_EVT_PAIR_HOLD]
/-- Every field of the MODE block. -/
def modeFlds : List Fld := modeFlds0 ++ modeFlds1

/-! ### MNF block, BAR0 0x02000 -/

def MNF_STAT_A_STATE : Fld := ⟨0x2000, 0, 2, 0, .ro⟩
def MNF_STAT_B_STATE : Fld := ⟨0x2000, 2, 2, 0, .ro⟩
def MNF_STAT_A_REASON : Fld := ⟨0x2000, 4, 4, 0, .ro⟩
def MNF_STAT_B_REASON : Fld := ⟨0x2000, 8, 4, 0, .ro⟩
def MNF_STAT_TUNED : Fld := ⟨0x2000, 12, 1, 0, .ro⟩
def MNF_STAT_INSTALL_CUT : Fld := ⟨0x2000, 13, 1, 0, .ro⟩
def MNF_STAT_SLOT_MIB : Fld := ⟨0x2000, 16, 8, 0, .ro⟩
def MNF_STAT_FLASH_LOG2 : Fld := ⟨0x2000, 24, 8, 0, .ro⟩
def MNF_FRANK_HI_MARK_HI : Fld := ⟨0x2004, 0, 32, 0, .ro⟩
def MNF_FRANK_LO_MARK_LO : Fld := ⟨0x2008, 0, 32, 0, .ro⟩
def MNF_LEN_BYTES : Fld := ⟨0x200C, 0, 32, 0, .ro⟩
def MNF_GEN_GENERATION : Fld := ⟨0x2010, 0, 32, 0, .ro⟩
def MNF_CLAIM_ERR_CHECK : Fld := ⟨0x2014, 0, 4, 0, .ro⟩
def MNF_CLAIM_ERR_CLASS : Fld := ⟨0x2014, 4, 4, 0, .ro⟩
def MNF_CLAIM_ERR_INDEX : Fld := ⟨0x2014, 8, 16, 0, .ro⟩
def MNF_CLAIM_ERR_SLOT : Fld := ⟨0x2014, 24, 1, 0, .ro⟩
def MNF_CMD_CMD : Fld := ⟨0x2018, 0, 4, 0, .rwl [.installer]⟩
def MNF_INST_STATE : Fld := ⟨0x201C, 0, 4, 0, .ro⟩
def MNF_INST_PROGRESS : Fld := ⟨0x201C, 4, 7, 0, .ro⟩
def MNF_INST_TEMP_HOLD : Fld := ⟨0x201C, 11, 1, 0, .ro⟩
def MNF_INST_RESULT : Fld := ⟨0x201C, 12, 4, 0, .ro⟩
def MNF_INST_PEER_RESULT : Fld := ⟨0x201C, 16, 4, 0, .ro⟩
def MNF_STAGE_OFS_OFS : Fld := ⟨0x2020, 0, 26, 0, .rwl [.installer]⟩
def MNF_ROLL_SUM_UNTRUSTED : Fld := ⟨0x2024, 0, 16, 0, .ro⟩
def MNF_ROLL_SUM_MISSING : Fld := ⟨0x2024, 16, 16, 0, .ro⟩
def MNF_ROLL_SEL_NODE : Fld := ⟨0x2028, 0, 10, 0, .rw⟩
def MNF_ROLL_NODE_STATE : Fld := ⟨0x202C, 0, 3, 0, .ro⟩
def MNF_ROLL_NODE_MATCH : Fld := ⟨0x202C, 4, 2, 0, .ro⟩
def MNF_ROLL_NODE_MISS_RUN : Fld := ⟨0x202C, 8, 8, 0, .ro⟩
def MNF_ROLL_NODE_NODE_ADDR : Fld := ⟨0x202C, 16, 16, 0, .ro⟩
def MNF_ROLL_MARK_HI_MARK : Fld := ⟨0x2030, 0, 32, 0, .ro⟩
def MNF_ROLL_MARK_LO_MARK : Fld := ⟨0x2034, 0, 32, 0, .ro⟩
def MNF_STAGE_WIN_DATA : Fld := ⟨0x2800, 0, 32, 0, .rwl [.installer]⟩

def mnfFlds0 : List Fld :=
  [MNF_STAT_A_STATE, MNF_STAT_B_STATE, MNF_STAT_A_REASON, MNF_STAT_B_REASON, MNF_STAT_TUNED, MNF_STAT_INSTALL_CUT,
   MNF_STAT_SLOT_MIB, MNF_STAT_FLASH_LOG2, MNF_FRANK_HI_MARK_HI, MNF_FRANK_LO_MARK_LO, MNF_LEN_BYTES,
   MNF_GEN_GENERATION, MNF_CLAIM_ERR_CHECK, MNF_CLAIM_ERR_CLASS, MNF_CLAIM_ERR_INDEX, MNF_CLAIM_ERR_SLOT, MNF_CMD_CMD,
   MNF_INST_STATE, MNF_INST_PROGRESS, MNF_INST_TEMP_HOLD]
def mnfFlds1 : List Fld :=
  [MNF_INST_RESULT, MNF_INST_PEER_RESULT, MNF_STAGE_OFS_OFS, MNF_ROLL_SUM_UNTRUSTED, MNF_ROLL_SUM_MISSING,
   MNF_ROLL_SEL_NODE, MNF_ROLL_NODE_STATE, MNF_ROLL_NODE_MATCH, MNF_ROLL_NODE_MISS_RUN, MNF_ROLL_NODE_NODE_ADDR,
   MNF_ROLL_MARK_HI_MARK, MNF_ROLL_MARK_LO_MARK, MNF_STAGE_WIN_DATA]
/-- Every field of the MNF block. -/
def mnfFlds : List Fld := mnfFlds0 ++ mnfFlds1

/-! ### ROLE block, BAR0 0x03000 -/

def ROLE_STAT_SESSION : Fld := ⟨0x3000, 0, 2, 0, .ro⟩
def ROLE_STAT_CHAL_VALID : Fld := ⟨0x3000, 2, 1, 0, .ro⟩
def ROLE_STAT_LOCKED : Fld := ⟨0x3000, 3, 1, 0, .ro⟩
def ROLE_STAT_FAILS : Fld := ⟨0x3000, 4, 4, 0, .ro⟩
def ROLE_STAT_MAKER_KEY : Fld := ⟨0x3000, 8, 1, 0, .ro⟩
def ROLE_STAT_INST_KEY : Fld := ⟨0x3000, 9, 1, 0, .ro⟩
def ROLE_STAT_OPER_KEY : Fld := ⟨0x3000, 10, 1, 0, .ro⟩
def ROLE_STAT_IDLE_LEFT : Fld := ⟨0x3000, 16, 16, 0, .ro⟩
def ROLE_CTL_NEW_CHAL : Fld := ⟨0x3004, 0, 1, 0, .wo⟩
def ROLE_CTL_OPEN : Fld := ⟨0x3004, 1, 1, 0, .wo⟩
def ROLE_CTL_ROLE : Fld := ⟨0x3004, 2, 2, 0, .wo⟩
def ROLE_CTL_CLOSE : Fld := ⟨0x3004, 4, 1, 0, .wo⟩
def ROLE_KEY_CMD_TARGET : Fld := ⟨0x3008, 0, 2, 0, .rwl [.maker, .installer]⟩
def ROLE_KEY_CMD_KEY_ID : Fld := ⟨0x3008, 16, 16, 0, .rwl [.maker, .installer]⟩
def ROLE_UID_LO_UID : Fld := ⟨0x3010, 0, 32, 0, .ro⟩  -- reset: OTP
def ROLE_UID_HI_UID : Fld := ⟨0x3014, 0, 32, 0, .ro⟩  -- reset: OTP
def ROLE_CHAL_CHAL : Fld := ⟨0x3020, 0, 32, 0, .ro⟩
def ROLE_RESP_RESP : Fld := ⟨0x3040, 0, 32, 0, .wo⟩
def ROLE_KEY_KEY : Fld := ⟨0x3060, 0, 32, 0, .wo⟩

def roleFlds0 : List Fld :=
  [ROLE_STAT_SESSION, ROLE_STAT_CHAL_VALID, ROLE_STAT_LOCKED, ROLE_STAT_FAILS, ROLE_STAT_MAKER_KEY,
   ROLE_STAT_INST_KEY, ROLE_STAT_OPER_KEY, ROLE_STAT_IDLE_LEFT, ROLE_CTL_NEW_CHAL, ROLE_CTL_OPEN, ROLE_CTL_ROLE,
   ROLE_CTL_CLOSE, ROLE_KEY_CMD_TARGET, ROLE_KEY_CMD_KEY_ID, ROLE_UID_LO_UID, ROLE_UID_HI_UID, ROLE_CHAL_CHAL,
   ROLE_RESP_RESP, ROLE_KEY_KEY]
/-- Every field of the ROLE block. -/
def roleFlds : List Fld := roleFlds0

/-! ### TIME block, BAR0 0x04000 -/

def TIME_STAT_STATE : Fld := ⟨0x4000, 0, 2, 0, .ro⟩
def TIME_STAT_STEPPED : Fld := ⟨0x4000, 2, 1, 0, .ro⟩
def TIME_STAT_GRID_ALIGNED : Fld := ⟨0x4000, 3, 1, 0, .ro⟩
def TIME_STAT_SRC : Fld := ⟨0x4000, 4, 3, 0, .ro⟩
def TIME_STAT_EXT10M_OK : Fld := ⟨0x4000, 7, 1, 0, .ro⟩
def TIME_STAT_RTC_VALID : Fld := ⟨0x4000, 8, 1, 0, .ro⟩
def TIME_STAT_UNC_OVER : Fld := ⟨0x4000, 9, 1, 0, .ro⟩
def TIME_CTL_LATCH : Fld := ⟨0x4004, 0, 1, 0, .wo⟩
def TIME_LAT_NS_NS : Fld := ⟨0x4008, 0, 32, 0, .ro⟩
def TIME_LAT_SEC_LO_SEC_LO : Fld := ⟨0x400C, 0, 32, 0, .ro⟩
def TIME_LAT_SEC_HI_SEC_HI : Fld := ⟨0x4010, 0, 16, 0, .ro⟩
def TIME_LAT_PM32_PM32 : Fld := ⟨0x4014, 0, 32, 0, .ro⟩
def TIME_UTC_UTC_OFS : Fld := ⟨0x4018, 0, 16, 0, .ro⟩
def TIME_UTC_LEAP : Fld := ⟨0x4018, 16, 2, 0, .ro⟩
def TIME_STEP_SEC_LO_SEC_LO : Fld := ⟨0x401C, 0, 32, 0, .ro⟩
def TIME_STEP_SEC_HI_SEC_HI : Fld := ⟨0x4020, 0, 16, 0, .ro⟩
def TIME_STEP_NS_NS : Fld := ⟨0x4024, 0, 32, 0, .ro⟩
def TIME_STEP_DS_DS : Fld := ⟨0x4028, 0, 32, 0, .ro⟩
def TIME_STEP_DNS_DNS : Fld := ⟨0x402C, 0, 32, 0, .ro⟩
def TIME_RATE_PPB : Fld := ⟨0x4030, 0, 32, 0, .ro⟩
def TIME_OFFSET_NS : Fld := ⟨0x4034, 0, 32, 0, .ro⟩
def TIME_UNC_NS : Fld := ⟨0x4038, 0, 32, 4294967295, .ro⟩
def TIME_HOLD_S : Fld := ⟨0x403C, 0, 32, 0, .ro⟩
def TIME_GRID_NS : Fld := ⟨0x4040, 0, 32, 0, .ro⟩
def TIME_PPS_QERR_QERR : Fld := ⟨0x4044, 0, 8, 0, .ro⟩
def TIME_PPS_QERR_VALID : Fld := ⟨0x4044, 8, 1, 0, .ro⟩
def TIME_PPSIN_PM_PM32 : Fld := ⟨0x4048, 0, 32, 0, .ro⟩
def TIME_PTP_ROLE0 : Fld := ⟨0x404C, 0, 2, 0, .ro⟩
def TIME_PTP_STATE0 : Fld := ⟨0x404C, 2, 3, 0, .ro⟩
def TIME_PTP_ROLE1 : Fld := ⟨0x404C, 8, 2, 0, .ro⟩
def TIME_PTP_STATE1 : Fld := ⟨0x404C, 10, 3, 0, .ro⟩
def TIME_PTP_ROLE2 : Fld := ⟨0x404C, 16, 2, 0, .ro⟩
def TIME_PTP_STATE2 : Fld := ⟨0x404C, 18, 3, 0, .ro⟩
def TIME_PTP_ROLE3 : Fld := ⟨0x404C, 24, 2, 0, .ro⟩
def TIME_PTP_STATE3 : Fld := ⟨0x404C, 26, 3, 0, .ro⟩
def TIME_TRIG_SEL_UNIT : Fld := ⟨0x4050, 0, 4, 0, .rw⟩
def TIME_TRIG_CFG_MODE : Fld := ⟨0x4054, 0, 2, 0, .ro⟩
def TIME_TRIG_CFG_TARGET : Fld := ⟨0x4054, 2, 2, 0, .ro⟩
def TIME_TRIG_CFG_TARGET_IDX : Fld := ⟨0x4054, 4, 8, 0, .ro⟩
def TIME_TRIG_PER_PERIOD : Fld := ⟨0x4058, 0, 32, 0, .ro⟩
def TIME_TRIG_PH_PHASE : Fld := ⟨0x405C, 0, 32, 0, .ro⟩
def TIME_TRIG_STAT_FIRED : Fld := ⟨0x4060, 0, 16, 0, .ro⟩
def TIME_TRIG_STAT_LATE : Fld := ⟨0x4060, 16, 1, 0, .w1c⟩
def TIME_TRIG_STAT_PHASE_JUMP : Fld := ⟨0x4060, 17, 1, 0, .w1c⟩
def TIME_EVT_STEP : Fld := ⟨0x4064, 0, 1, 0, .w1c⟩
def TIME_EVT_SRC_CHANGE : Fld := ⟨0x4064, 1, 1, 0, .w1c⟩
def TIME_EVT_HOLD_ENTER : Fld := ⟨0x4064, 2, 1, 0, .w1c⟩
def TIME_EVT_LOCK : Fld := ⟨0x4064, 3, 1, 0, .w1c⟩
def TIME_EVT_UNC_OVER : Fld := ⟨0x4064, 4, 1, 0, .w1c⟩
def TIME_EVT_GRID_DONE : Fld := ⟨0x4064, 5, 1, 0, .w1c⟩
def TIME_EVT_LEAP : Fld := ⟨0x4064, 6, 1, 0, .w1c⟩

def timeFlds0 : List Fld :=
  [TIME_STAT_STATE, TIME_STAT_STEPPED, TIME_STAT_GRID_ALIGNED, TIME_STAT_SRC, TIME_STAT_EXT10M_OK,
   TIME_STAT_RTC_VALID, TIME_STAT_UNC_OVER, TIME_CTL_LATCH, TIME_LAT_NS_NS, TIME_LAT_SEC_LO_SEC_LO,
   TIME_LAT_SEC_HI_SEC_HI, TIME_LAT_PM32_PM32, TIME_UTC_UTC_OFS, TIME_UTC_LEAP, TIME_STEP_SEC_LO_SEC_LO,
   TIME_STEP_SEC_HI_SEC_HI, TIME_STEP_NS_NS, TIME_STEP_DS_DS, TIME_STEP_DNS_DNS, TIME_RATE_PPB]
def timeFlds1 : List Fld :=
  [TIME_OFFSET_NS, TIME_UNC_NS, TIME_HOLD_S, TIME_GRID_NS, TIME_PPS_QERR_QERR, TIME_PPS_QERR_VALID,
   TIME_PPSIN_PM_PM32, TIME_PTP_ROLE0, TIME_PTP_STATE0, TIME_PTP_ROLE1, TIME_PTP_STATE1, TIME_PTP_ROLE2,
   TIME_PTP_STATE2, TIME_PTP_ROLE3, TIME_PTP_STATE3, TIME_TRIG_SEL_UNIT, TIME_TRIG_CFG_MODE, TIME_TRIG_CFG_TARGET,
   TIME_TRIG_CFG_TARGET_IDX, TIME_TRIG_PER_PERIOD]
def timeFlds2 : List Fld :=
  [TIME_TRIG_PH_PHASE, TIME_TRIG_STAT_FIRED, TIME_TRIG_STAT_LATE, TIME_TRIG_STAT_PHASE_JUMP, TIME_EVT_STEP,
   TIME_EVT_SRC_CHANGE, TIME_EVT_HOLD_ENTER, TIME_EVT_LOCK, TIME_EVT_UNC_OVER, TIME_EVT_GRID_DONE, TIME_EVT_LEAP]
/-- Every field of the TIME block. -/
def timeFlds : List Fld := timeFlds0 ++ timeFlds1 ++ timeFlds2

/-! ### GNSS block, BAR0 0x05000 -/

def GNSS_STAT_STATE : Fld := ⟨0x5000, 0, 3, 0, .ro⟩
def GNSS_STAT_START_KIND : Fld := ⟨0x5000, 3, 2, 0, .ro⟩
def GNSS_STAT_L1_OK : Fld := ⟨0x5000, 5, 1, 0, .ro⟩
def GNSS_STAT_L5_OK : Fld := ⟨0x5000, 6, 1, 0, .ro⟩
def GNSS_STAT_IONO_FREE : Fld := ⟨0x5000, 7, 1, 0, .ro⟩
def GNSS_STAT_RETAIN_OK : Fld := ⟨0x5000, 8, 1, 0, .ro⟩
def GNSS_CTL_SLEEP : Fld := ⟨0x5004, 0, 1, 0, .rwl [.operator]⟩
def GNSS_CTL_WAKE : Fld := ⟨0x5004, 1, 1, 0, .rwl [.operator]⟩
def GNSS_CTL_COLD : Fld := ⟨0x5004, 2, 1, 0, .rwl [.installer]⟩
def GNSS_TRK_L1_TRK : Fld := ⟨0x5008, 0, 6, 0, .ro⟩
def GNSS_TRK_L5_TRK : Fld := ⟨0x5008, 8, 6, 0, .ro⟩
def GNSS_TRK_USED : Fld := ⟨0x5008, 16, 6, 0, .ro⟩
def GNSS_TRK_CONSTEL : Fld := ⟨0x5008, 24, 3, 0, .ro⟩
def GNSS_TTFF_TTFF_MS : Fld := ⟨0x500C, 0, 16, 0, .ro⟩
def GNSS_TTFF_WAKES : Fld := ⟨0x500C, 16, 16, 0, .ro⟩
def GNSS_EPH_AGE_USED_MIN : Fld := ⟨0x5010, 0, 16, 0, .ro⟩
def GNSS_EPH_AGE_START_MIN : Fld := ⟨0x5010, 16, 16, 0, .ro⟩
def GNSS_FE_STAT_RATIO_PPB : Fld := ⟨0x5014, 0, 24, 0, .ro⟩
def GNSS_FE_STAT_L1_CLK : Fld := ⟨0x5014, 24, 1, 0, .ro⟩
def GNSS_FE_STAT_L5_CLK : Fld := ⟨0x5014, 25, 1, 0, .ro⟩
def GNSS_FE_STAT_SCRIPT_ERR : Fld := ⟨0x5014, 26, 1, 0, .ro⟩
def GNSS_SOL_SEQ_SEQ : Fld := ⟨0x5018, 0, 32, 0, .ro⟩
def GNSS_EPOCH_PM_PM32 : Fld := ⟨0x501C, 0, 32, 0, .ro⟩
def GNSS_CH_SEL_CHANNEL : Fld := ⟨0x5020, 0, 6, 0, .rw⟩
def GNSS_CH_SEL_BAND : Fld := ⟨0x5020, 6, 1, 0, .rw⟩
def GNSS_CH_STAT_CONSTEL : Fld := ⟨0x5024, 0, 2, 3, .ro⟩
def GNSS_CH_STAT_PRN : Fld := ⟨0x5024, 2, 6, 0, .ro⟩
def GNSS_CH_STAT_LOCK : Fld := ⟨0x5024, 8, 2, 0, .ro⟩
def GNSS_CH_STAT_CN0 : Fld := ⟨0x5024, 16, 8, 0, .ro⟩
def GNSS_CH_DOP_MHZ : Fld := ⟨0x5028, 0, 32, 0, .ro⟩
def GNSS_EVT_FIX_LOST : Fld := ⟨0x502C, 0, 1, 0, .w1c⟩
def GNSS_EVT_FIX_GAINED : Fld := ⟨0x502C, 1, 1, 0, .w1c⟩
def GNSS_EVT_SLEPT : Fld := ⟨0x502C, 2, 1, 0, .w1c⟩
def GNSS_EVT_WOKE : Fld := ⟨0x502C, 3, 1, 0, .w1c⟩
def GNSS_EVT_FE_FAULT : Fld := ⟨0x502C, 4, 1, 0, .w1c⟩
def GNSS_EVT_RETAIN_BAD : Fld := ⟨0x502C, 5, 1, 0, .w1c⟩

def gnssFlds0 : List Fld :=
  [GNSS_STAT_STATE, GNSS_STAT_START_KIND, GNSS_STAT_L1_OK, GNSS_STAT_L5_OK, GNSS_STAT_IONO_FREE, GNSS_STAT_RETAIN_OK,
   GNSS_CTL_SLEEP, GNSS_CTL_WAKE, GNSS_CTL_COLD, GNSS_TRK_L1_TRK, GNSS_TRK_L5_TRK, GNSS_TRK_USED, GNSS_TRK_CONSTEL,
   GNSS_TTFF_TTFF_MS, GNSS_TTFF_WAKES, GNSS_EPH_AGE_USED_MIN, GNSS_EPH_AGE_START_MIN, GNSS_FE_STAT_RATIO_PPB,
   GNSS_FE_STAT_L1_CLK, GNSS_FE_STAT_L5_CLK]
def gnssFlds1 : List Fld :=
  [GNSS_FE_STAT_SCRIPT_ERR, GNSS_SOL_SEQ_SEQ, GNSS_EPOCH_PM_PM32, GNSS_CH_SEL_CHANNEL, GNSS_CH_SEL_BAND,
   GNSS_CH_STAT_CONSTEL, GNSS_CH_STAT_PRN, GNSS_CH_STAT_LOCK, GNSS_CH_STAT_CN0, GNSS_CH_DOP_MHZ, GNSS_EVT_FIX_LOST,
   GNSS_EVT_FIX_GAINED, GNSS_EVT_SLEPT, GNSS_EVT_WOKE, GNSS_EVT_FE_FAULT, GNSS_EVT_RETAIN_BAD]
/-- Every field of the GNSS block. -/
def gnssFlds : List Fld := gnssFlds0 ++ gnssFlds1

/-! ### EST block, BAR0 0x06000 -/

def EST_STAT_STATE : Fld := ⟨0x6000, 0, 3, 0, .ro⟩
def EST_STAT_POS_QUAL : Fld := ⟨0x6000, 4, 4, 4, .ro⟩
def EST_STAT_HDG_QUAL : Fld := ⟨0x6000, 8, 4, 4, .ro⟩
def EST_STAT_POS_IN_USE : Fld := ⟨0x6000, 12, 4, 0, .ro⟩
def EST_STAT_HDG_IN_USE : Fld := ⟨0x6000, 16, 3, 0, .ro⟩
def EST_STAT_MRU_IN_USE : Fld := ⟨0x6000, 19, 3, 0, .ro⟩
def EST_STAT_WIND_IN_USE : Fld := ⟨0x6000, 22, 3, 0, .ro⟩
def EST_STAT_DISPUTE : Fld := ⟨0x6000, 25, 1, 0, .ro⟩
def EST_STAT_CORRECTING : Fld := ⟨0x6000, 26, 1, 0, .ro⟩
def EST_SIG_POS_CM : Fld := ⟨0x6004, 0, 16, 65535, .ro⟩
def EST_SIG_HDG_MDEG : Fld := ⟨0x6004, 16, 16, 65535, .ro⟩
def EST_DR_POS_S : Fld := ⟨0x6008, 0, 16, 0, .ro⟩
def EST_DR_HDG_S : Fld := ⟨0x6008, 16, 16, 0, .ro⟩
def EST_UPD_LAST_US : Fld := ⟨0x600C, 0, 12, 0, .ro⟩
def EST_UPD_MAX_US : Fld := ⟨0x600C, 12, 12, 0, .ro⟩
def EST_UPD_OVERRUNS : Fld := ⟨0x600C, 24, 8, 0, .ro⟩
def EST_LATE_FOLDED : Fld := ⟨0x6010, 0, 16, 0, .ro⟩
def EST_LATE_DROPPED : Fld := ⟨0x6010, 16, 16, 0, .ro⟩
def EST_DISPUTE_SLOTS : Fld := ⟨0x6014, 0, 25, 0, .ro⟩
def EST_SRC_SEL_SLOT : Fld := ⟨0x6018, 0, 5, 0, .rw⟩
def EST_SRC_STAT_STATUS : Fld := ⟨0x601C, 0, 4, 0, .ro⟩
def EST_SRC_STAT_SKEWED : Fld := ⟨0x601C, 4, 1, 0, .ro⟩
def EST_SRC_STAT_STEP : Fld := ⟨0x601C, 5, 1, 0, .ro⟩
def EST_SRC_STAT_FROZEN : Fld := ⟨0x601C, 6, 1, 0, .ro⟩
def EST_SRC_STAT_EARLY : Fld := ⟨0x601C, 7, 1, 0, .ro⟩
def EST_SRC_STAT_GATE_FAILS : Fld := ⟨0x601C, 8, 4, 0, .ro⟩
def EST_SRC_STAT_LAST_QUAL : Fld := ⟨0x601C, 12, 4, 0, .ro⟩
def EST_SRC_STAT_RUN : Fld := ⟨0x601C, 16, 8, 0, .ro⟩
def EST_SRC_SKEW_D_US : Fld := ⟨0x6020, 0, 32, 0, .ro⟩
def EST_SRC_NIS_NIS : Fld := ⟨0x6024, 0, 32, 0, .ro⟩
def EST_SRC_CMD_SLOT : Fld := ⟨0x6028, 0, 5, 0, .rwl [.operator]⟩
def EST_SRC_CMD_ACTION : Fld := ⟨0x6028, 8, 2, 0, .rwl [.operator]⟩
def EST_TRK_SEL_TRACK : Fld := ⟨0x602C, 0, 6, 0, .rw⟩
def EST_TRK_STAT_STATE : Fld := ⟨0x6030, 0, 3, 0, .ro⟩
def EST_TRK_STAT_KIND : Fld := ⟨0x6030, 3, 2, 0, .ro⟩
def EST_TRK_STAT_EXCLUDED : Fld := ⟨0x6030, 8, 8, 0, .ro⟩
def EST_TRK_STAT_AGE_DS : Fld := ⟨0x6030, 16, 16, 0, .ro⟩
def EST_HEAVE_PT_GOOD : Fld := ⟨0x6034, 0, 8, 0, .ro⟩
def EST_HEAVE_PT_USABLE : Fld := ⟨0x6034, 8, 8, 0, .ro⟩
def EST_HEAVE_FIT_PCT : Fld := ⟨0x6034, 16, 7, 100, .ro⟩
def EST_EVT_DISPUTE : Fld := ⟨0x6038, 0, 1, 0, .w1c⟩
def EST_EVT_DISPUTE_END : Fld := ⟨0x6038, 1, 1, 0, .w1c⟩
def EST_EVT_POS_DR : Fld := ⟨0x6038, 2, 1, 0, .w1c⟩
def EST_EVT_POS_LOST : Fld := ⟨0x6038, 3, 1, 0, .w1c⟩
def EST_EVT_REINIT : Fld := ⟨0x6038, 4, 1, 0, .w1c⟩
def EST_EVT_HDG_LOST : Fld := ⟨0x6038, 5, 1, 0, .w1c⟩
def EST_EVT_SLOT_CHANGE : Fld := ⟨0x6038, 6, 1, 0, .w1c⟩
def EST_EVT_OVERRUN : Fld := ⟨0x6038, 7, 1, 0, .w1c⟩

def estFlds0 : List Fld :=
  [EST_STAT_STATE, EST_STAT_POS_QUAL, EST_STAT_HDG_QUAL, EST_STAT_POS_IN_USE, EST_STAT_HDG_IN_USE,
   EST_STAT_MRU_IN_USE, EST_STAT_WIND_IN_USE, EST_STAT_DISPUTE, EST_STAT_CORRECTING, EST_SIG_POS_CM, EST_SIG_HDG_MDEG,
   EST_DR_POS_S, EST_DR_HDG_S, EST_UPD_LAST_US, EST_UPD_MAX_US, EST_UPD_OVERRUNS, EST_LATE_FOLDED, EST_LATE_DROPPED,
   EST_DISPUTE_SLOTS, EST_SRC_SEL_SLOT]
def estFlds1 : List Fld :=
  [EST_SRC_STAT_STATUS, EST_SRC_STAT_SKEWED, EST_SRC_STAT_STEP, EST_SRC_STAT_FROZEN, EST_SRC_STAT_EARLY,
   EST_SRC_STAT_GATE_FAILS, EST_SRC_STAT_LAST_QUAL, EST_SRC_STAT_RUN, EST_SRC_SKEW_D_US, EST_SRC_NIS_NIS,
   EST_SRC_CMD_SLOT, EST_SRC_CMD_ACTION, EST_TRK_SEL_TRACK, EST_TRK_STAT_STATE, EST_TRK_STAT_KIND,
   EST_TRK_STAT_EXCLUDED, EST_TRK_STAT_AGE_DS, EST_HEAVE_PT_GOOD, EST_HEAVE_PT_USABLE, EST_HEAVE_FIT_PCT]
def estFlds2 : List Fld :=
  [EST_EVT_DISPUTE, EST_EVT_DISPUTE_END, EST_EVT_POS_DR, EST_EVT_POS_LOST, EST_EVT_REINIT, EST_EVT_HDG_LOST,
   EST_EVT_SLOT_CHANGE, EST_EVT_OVERRUN]
/-- Every field of the EST block. -/
def estFlds : List Fld := estFlds0 ++ estFlds1 ++ estFlds2

/-! ### HELM block, BAR0 0x07000 -/

def HELM_STAT_LAW : Fld := ⟨0x7000, 0, 3, 0, .ro⟩
def HELM_STAT_HELD : Fld := ⟨0x7000, 3, 3, 0, .ro⟩
def HELM_STAT_RUNNING : Fld := ⟨0x7000, 6, 1, 0, .ro⟩
def HELM_STAT_BLEND : Fld := ⟨0x7000, 7, 1, 0, .ro⟩
def HELM_STAT_POS_TERMS_OFF : Fld := ⟨0x7000, 8, 1, 0, .ro⟩
def HELM_STAT_HDG_TERMS_OFF : Fld := ⟨0x7000, 9, 1, 0, .ro⟩
def HELM_STAT_SHAPING : Fld := ⟨0x7000, 10, 1, 0, .ro⟩
def HELM_STAT_REVERSING : Fld := ⟨0x7000, 11, 1, 0, .ro⟩
def HELM_STAT_RES_HIGH : Fld := ⟨0x7000, 12, 1, 0, .ro⟩
def HELM_STAT_SAT : Fld := ⟨0x7000, 13, 1, 0, .ro⟩
def HELM_STAT_PIVOT_CLAMPED : Fld := ⟨0x7000, 14, 1, 0, .ro⟩
def HELM_STAT_REUSED : Fld := ⟨0x7000, 15, 1, 0, .ro⟩
def HELM_STAT_SC_ACTIVE : Fld := ⟨0x7000, 16, 7, 0, .ro⟩
def HELM_STAT_TGT_COAST : Fld := ⟨0x7000, 23, 1, 0, .ro⟩
def HELM_LAW_CMD_LAW : Fld := ⟨0x7004, 0, 3, 0, .rwl [.operator]⟩
def HELM_LAW_CMD_TAG : Fld := ⟨0x7004, 8, 8, 0, .rwl [.operator]⟩
def HELM_CMD_STAT_RESULT : Fld := ⟨0x7008, 0, 4, 0, .ro⟩
def HELM_CMD_STAT_KIND : Fld := ⟨0x7008, 4, 1, 0, .ro⟩
def HELM_CMD_STAT_TAG : Fld := ⟨0x7008, 8, 8, 0, .ro⟩
def HELM_SP_A_A : Fld := ⟨0x700C, 0, 32, 0, .rwl [.operator]⟩
def HELM_SP_B_B : Fld := ⟨0x7010, 0, 32, 0, .rwl [.operator]⟩
def HELM_SP_HDG_HDG : Fld := ⟨0x7014, 0, 32, 0, .rwl [.operator]⟩
def HELM_SP_AUX_TRACK : Fld := ⟨0x7018, 0, 6, 0, .rwl [.operator]⟩
def HELM_SP_AUX_HDG_FIXED : Fld := ⟨0x7018, 6, 1, 0, .rwl [.operator]⟩
def HELM_SP_AUX_SPEED : Fld := ⟨0x7018, 8, 16, 0, .rwl [.operator]⟩
def HELM_SP_CMD_KIND : Fld := ⟨0x701C, 0, 2, 0, .rwl [.operator]⟩
def HELM_SP_CMD_TAG : Fld := ⟨0x701C, 8, 8, 0, .rwl [.operator]⟩
def HELM_WP_SEL_IDX : Fld := ⟨0x7020, 0, 6, 0, .rwl [.operator]⟩
def HELM_WP_SEL_COUNT : Fld := ⟨0x7020, 8, 7, 0, .rwl [.operator]⟩
def HELM_WP_N_MM : Fld := ⟨0x7024, 0, 32, 0, .rwl [.operator]⟩
def HELM_WP_E_MM : Fld := ⟨0x7028, 0, 32, 0, .rwl [.operator]⟩
def HELM_BLEND_LEFT_DS : Fld := ⟨0x702C, 0, 16, 0, .ro⟩
def HELM_BLEND_DISAGREE : Fld := ⟨0x702C, 16, 8, 0, .ro⟩
def HELM_BLEND_LENGTHENED : Fld := ⟨0x702C, 24, 1, 0, .ro⟩
def HELM_SOLVE_LAST_US : Fld := ⟨0x7030, 0, 16, 0, .ro⟩
def HELM_SOLVE_MAX_US : Fld := ⟨0x7030, 16, 16, 0, .ro⟩
def HELM_RES_RES : Fld := ⟨0x7034, 0, 32, 0, .ro⟩
def HELM_MISS_RUN : Fld := ⟨0x7038, 0, 4, 0, .ro⟩
def HELM_MISS_TOTAL : Fld := ⟨0x7038, 16, 16, 0, .ro⟩
def HELM_TAU_X_CKN : Fld := ⟨0x703C, 0, 32, 0, .ro⟩
def HELM_TAU_Y_CKN : Fld := ⟨0x7040, 0, 32, 0, .ro⟩
def HELM_TAU_N_DKNM : Fld := ⟨0x7044, 0, 32, 0, .ro⟩
def HELM_EVT_LAW_CHANGED : Fld := ⟨0x7048, 0, 1, 0, .w1c⟩
def HELM_EVT_CMD_REFUSED : Fld := ⟨0x7048, 1, 1, 0, .w1c⟩
def HELM_EVT_BLEND_LONG : Fld := ⟨0x7048, 2, 1, 0, .w1c⟩
def HELM_EVT_MISS : Fld := ⟨0x7048, 3, 1, 0, .w1c⟩
def HELM_EVT_TERMS_OFF : Fld := ⟨0x7048, 4, 1, 0, .w1c⟩
def HELM_EVT_TARGET : Fld := ⟨0x7048, 5, 1, 0, .w1c⟩
def HELM_EVT_JOY_LOST : Fld := ⟨0x7048, 6, 1, 0, .w1c⟩
def HELM_EVT_NUMERIC : Fld := ⟨0x7048, 7, 1, 0, .w1c⟩

def helmFlds0 : List Fld :=
  [HELM_STAT_LAW, HELM_STAT_HELD, HELM_STAT_RUNNING, HELM_STAT_BLEND, HELM_STAT_POS_TERMS_OFF,
   HELM_STAT_HDG_TERMS_OFF, HELM_STAT_SHAPING, HELM_STAT_REVERSING, HELM_STAT_RES_HIGH, HELM_STAT_SAT,
   HELM_STAT_PIVOT_CLAMPED, HELM_STAT_REUSED, HELM_STAT_SC_ACTIVE, HELM_STAT_TGT_COAST, HELM_LAW_CMD_LAW,
   HELM_LAW_CMD_TAG, HELM_CMD_STAT_RESULT, HELM_CMD_STAT_KIND, HELM_CMD_STAT_TAG, HELM_SP_A_A]
def helmFlds1 : List Fld :=
  [HELM_SP_B_B, HELM_SP_HDG_HDG, HELM_SP_AUX_TRACK, HELM_SP_AUX_HDG_FIXED, HELM_SP_AUX_SPEED, HELM_SP_CMD_KIND,
   HELM_SP_CMD_TAG, HELM_WP_SEL_IDX, HELM_WP_SEL_COUNT, HELM_WP_N_MM, HELM_WP_E_MM, HELM_BLEND_LEFT_DS,
   HELM_BLEND_DISAGREE, HELM_BLEND_LENGTHENED, HELM_SOLVE_LAST_US, HELM_SOLVE_MAX_US, HELM_RES_RES, HELM_MISS_RUN,
   HELM_MISS_TOTAL, HELM_TAU_X_CKN]
def helmFlds2 : List Fld :=
  [HELM_TAU_Y_CKN, HELM_TAU_N_DKNM, HELM_EVT_LAW_CHANGED, HELM_EVT_CMD_REFUSED, HELM_EVT_BLEND_LONG, HELM_EVT_MISS,
   HELM_EVT_TERMS_OFF, HELM_EVT_TARGET, HELM_EVT_JOY_LOST, HELM_EVT_NUMERIC]
/-- Every field of the HELM block. -/
def helmFlds : List Fld := helmFlds0 ++ helmFlds1 ++ helmFlds2

/-! ### ALLOC block, BAR0 0x08000 -/

def ALLOC_STAT_RUN : Fld := ⟨0x8000, 0, 2, 0, .ro⟩
def ALLOC_STAT_AVAIL : Fld := ⟨0x8000, 2, 5, 0, .ro⟩
def ALLOC_STAT_SHORT : Fld := ⟨0x8000, 7, 1, 0, .ro⟩
def ALLOC_STAT_REUSED : Fld := ⟨0x8000, 8, 1, 0, .ro⟩
def ALLOC_STAT_SAT : Fld := ⟨0x8000, 9, 1, 0, .ro⟩
def ALLOC_STAT_PIVOT_CLAMPED : Fld := ⟨0x8000, 10, 1, 0, .ro⟩
def ALLOC_STAT_TRIMMED : Fld := ⟨0x8000, 11, 1, 0, .ro⟩
def ALLOC_STAT_CONS_ALARM : Fld := ⟨0x8000, 12, 1, 0, .ro⟩
def ALLOC_STAT_CONS_VALID : Fld := ⟨0x8000, 13, 1, 0, .ro⟩
def ALLOC_STAT_STRETCH : Fld := ⟨0x8000, 14, 2, 0, .ro⟩
def ALLOC_STAT_PWR_UNKNOWN : Fld := ⟨0x8000, 16, 1, 0, .ro⟩
def ALLOC_TIME_A_US : Fld := ⟨0x8004, 0, 16, 0, .ro⟩
def ALLOC_TIME_C_US : Fld := ⟨0x8004, 16, 16, 0, .ro⟩
def ALLOC_MISS_A_RUN : Fld := ⟨0x8008, 0, 4, 0, .ro⟩
def ALLOC_MISS_C_RUN : Fld := ⟨0x8008, 4, 4, 0, .ro⟩
def ALLOC_MISS_A_TOTAL : Fld := ⟨0x8008, 8, 12, 0, .ro⟩
def ALLOC_MISS_C_TOTAL : Fld := ⟨0x8008, 20, 12, 0, .ro⟩
def ALLOC_CAP_X_CKN : Fld := ⟨0x800C, 0, 32, 0, .ro⟩
def ALLOC_CAP_Y_CKN : Fld := ⟨0x8010, 0, 32, 0, .ro⟩
def ALLOC_CAP_N_DKNM : Fld := ⟨0x8014, 0, 32, 0, .ro⟩
def ALLOC_CONS_SUM_FAILS : Fld := ⟨0x8018, 0, 6, 0, .ro⟩
def ALLOC_CONS_SUM_WORST : Fld := ⟨0x8018, 8, 6, 0, .ro⟩
def ALLOC_CONS_SUM_WORST_VALID : Fld := ⟨0x8018, 14, 1, 0, .ro⟩
def ALLOC_CONS_SUM_AGE : Fld := ⟨0x8018, 16, 8, 0, .ro⟩
def ALLOC_CONS_SUM_RUN : Fld := ⟨0x8018, 24, 8, 0, .ro⟩
def ALLOC_THR_SEL_THR : Fld := ⟨0x801C, 0, 5, 0, .rw⟩
def ALLOC_THR_STAT_STATE : Fld := ⟨0x8020, 0, 3, 0, .ro⟩
def ALLOC_THR_STAT_KIND : Fld := ⟨0x8020, 3, 2, 3, .ro⟩
def ALLOC_THR_STAT_IN_ZONE : Fld := ⟨0x8020, 5, 1, 0, .ro⟩
def ALLOC_THR_STAT_PT_ACTIVE : Fld := ⟨0x8020, 6, 1, 0, .ro⟩
def ALLOC_THR_STAT_FOLLOW_WARN : Fld := ⟨0x8020, 7, 1, 0, .ro⟩
def ALLOC_THR_STAT_BUS : Fld := ⟨0x8020, 8, 3, 0, .ro⟩
def ALLOC_THR_STAT_POWER_KW : Fld := ⟨0x8020, 16, 16, 0, .ro⟩
def ALLOC_THR_CMD_THR : Fld := ⟨0x8024, 0, 5, 0, .rwl [.operator]⟩
def ALLOC_THR_CMD_ACTION : Fld := ⟨0x8024, 8, 2, 0, .rwl [.operator]⟩
def ALLOC_THR_OUT_THRUST : Fld := ⟨0x8028, 0, 16, 0, .ro⟩
def ALLOC_THR_OUT_AZ : Fld := ⟨0x8028, 16, 16, 0, .ro⟩
def ALLOC_THR_FB_THRUST : Fld := ⟨0x802C, 0, 16, 0, .ro⟩
def ALLOC_THR_FB_AZ : Fld := ⟨0x802C, 16, 16, 0, .ro⟩
def ALLOC_CASE_SEL_CASE : Fld := ⟨0x8030, 0, 6, 0, .rw⟩
def ALLOC_CASE_STAT_KIND : Fld := ⟨0x8034, 0, 2, 3, .ro⟩
def ALLOC_CASE_STAT_INDEX : Fld := ⟨0x8034, 2, 5, 0, .ro⟩
def ALLOC_CASE_STAT_STATE : Fld := ⟨0x8034, 8, 2, 3, .ro⟩
def ALLOC_CASE_STAT_FAIL : Fld := ⟨0x8034, 10, 1, 0, .ro⟩
def ALLOC_CASE_STAT_TRIMMED : Fld := ⟨0x8034, 11, 1, 0, .ro⟩
def ALLOC_CASE_STAT_AGE : Fld := ⟨0x8034, 16, 16, 0, .ro⟩
def ALLOC_CASE_DXY_DX : Fld := ⟨0x8038, 0, 16, 0, .ro⟩
def ALLOC_CASE_DXY_DY : Fld := ⟨0x8038, 16, 16, 0, .ro⟩
def ALLOC_CASE_DN_DN : Fld := ⟨0x803C, 0, 32, 0, .ro⟩
def ALLOC_BUS_SEL_BUS : Fld := ⟨0x8040, 0, 3, 0, .rw⟩
def ALLOC_BUS_STAT_AVAIL_KW : Fld := ⟨0x8044, 0, 16, 0, .ro⟩
def ALLOC_BUS_STAT_LOAD_KW : Fld := ⟨0x8044, 16, 15, 0, .ro⟩
def ALLOC_BUS_STAT_ENERG : Fld := ⟨0x8044, 31, 1, 0, .ro⟩
def ALLOC_EVT_THR_STATE : Fld := ⟨0x8048, 0, 1, 0, .w1c⟩
def ALLOC_EVT_SHORT : Fld := ⟨0x8048, 1, 1, 0, .w1c⟩
def ALLOC_EVT_CONS_ALARM : Fld := ⟨0x8048, 2, 1, 0, .w1c⟩
def ALLOC_EVT_A_MISS : Fld := ⟨0x8048, 3, 1, 0, .w1c⟩
def ALLOC_EVT_C_MISS : Fld := ⟨0x8048, 4, 1, 0, .w1c⟩
def ALLOC_EVT_TRIM : Fld := ⟨0x8048, 5, 1, 0, .w1c⟩
def ALLOC_EVT_PWR_UNKNOWN : Fld := ⟨0x8048, 6, 1, 0, .w1c⟩
def ALLOC_EVT_NUMERIC : Fld := ⟨0x8048, 7, 1, 0, .w1c⟩
def ALLOC_EVT_CMD_REFUSED : Fld := ⟨0x8048, 8, 1, 0, .w1c⟩

def allocFlds0 : List Fld :=
  [ALLOC_STAT_RUN, ALLOC_STAT_AVAIL, ALLOC_STAT_SHORT, ALLOC_STAT_REUSED, ALLOC_STAT_SAT, ALLOC_STAT_PIVOT_CLAMPED,
   ALLOC_STAT_TRIMMED, ALLOC_STAT_CONS_ALARM, ALLOC_STAT_CONS_VALID, ALLOC_STAT_STRETCH, ALLOC_STAT_PWR_UNKNOWN,
   ALLOC_TIME_A_US, ALLOC_TIME_C_US, ALLOC_MISS_A_RUN, ALLOC_MISS_C_RUN, ALLOC_MISS_A_TOTAL, ALLOC_MISS_C_TOTAL,
   ALLOC_CAP_X_CKN, ALLOC_CAP_Y_CKN, ALLOC_CAP_N_DKNM]
def allocFlds1 : List Fld :=
  [ALLOC_CONS_SUM_FAILS, ALLOC_CONS_SUM_WORST, ALLOC_CONS_SUM_WORST_VALID, ALLOC_CONS_SUM_AGE, ALLOC_CONS_SUM_RUN,
   ALLOC_THR_SEL_THR, ALLOC_THR_STAT_STATE, ALLOC_THR_STAT_KIND, ALLOC_THR_STAT_IN_ZONE, ALLOC_THR_STAT_PT_ACTIVE,
   ALLOC_THR_STAT_FOLLOW_WARN, ALLOC_THR_STAT_BUS, ALLOC_THR_STAT_POWER_KW, ALLOC_THR_CMD_THR, ALLOC_THR_CMD_ACTION,
   ALLOC_THR_OUT_THRUST, ALLOC_THR_OUT_AZ, ALLOC_THR_FB_THRUST, ALLOC_THR_FB_AZ, ALLOC_CASE_SEL_CASE]
def allocFlds2 : List Fld :=
  [ALLOC_CASE_STAT_KIND, ALLOC_CASE_STAT_INDEX, ALLOC_CASE_STAT_STATE, ALLOC_CASE_STAT_FAIL, ALLOC_CASE_STAT_TRIMMED,
   ALLOC_CASE_STAT_AGE, ALLOC_CASE_DXY_DX, ALLOC_CASE_DXY_DY, ALLOC_CASE_DN_DN, ALLOC_BUS_SEL_BUS,
   ALLOC_BUS_STAT_AVAIL_KW, ALLOC_BUS_STAT_LOAD_KW, ALLOC_BUS_STAT_ENERG, ALLOC_EVT_THR_STATE, ALLOC_EVT_SHORT,
   ALLOC_EVT_CONS_ALARM, ALLOC_EVT_A_MISS, ALLOC_EVT_C_MISS, ALLOC_EVT_TRIM, ALLOC_EVT_PWR_UNKNOWN]
def allocFlds3 : List Fld :=
  [ALLOC_EVT_NUMERIC, ALLOC_EVT_CMD_REFUSED]
/-- Every field of the ALLOC block. -/
def allocFlds : List Fld := allocFlds0 ++ allocFlds1 ++ allocFlds2 ++ allocFlds3

/-! ### YUZ block, BAR0 0x09000 -/

def YUZ_STAT_POWERED : Fld := ⟨0x9000, 0, 1, 0, .ro⟩
def YUZ_STAT_BUSY : Fld := ⟨0x9000, 1, 1, 0, .ro⟩
def YUZ_STAT_RUN_KIND : Fld := ⟨0x9000, 2, 3, 0, .ro⟩
def YUZ_STAT_QUEUED : Fld := ⟨0x9000, 5, 3, 0, .ro⟩
def YUZ_STAT_SELFTEST_OK : Fld := ⟨0x9000, 8, 1, 0, .ro⟩
def YUZ_STAT_TILE_BUSY : Fld := ⟨0x9000, 12, 4, 0, .ro⟩
def YUZ_KIND_SEL_KIND : Fld := ⟨0x9004, 0, 3, 1, .rw⟩
def YUZ_LAST_STAT_DONE : Fld := ⟨0x9008, 0, 9, 0, .ro⟩
def YUZ_LAST_STAT_NOT_DONE : Fld := ⟨0x9008, 9, 9, 0, .ro⟩
def YUZ_LAST_STAT_SAT : Fld := ⟨0x9008, 18, 1, 0, .ro⟩
def YUZ_LAST_STAT_CLAMPED : Fld := ⟨0x9008, 19, 1, 0, .ro⟩
def YUZ_LAST_STAT_MISS : Fld := ⟨0x9008, 20, 1, 0, .ro⟩
def YUZ_LAST_STAT_EXPIRED : Fld := ⟨0x9008, 21, 1, 0, .ro⟩
def YUZ_LAST_STAT_ITER_REACHED : Fld := ⟨0x9008, 22, 6, 0, .ro⟩
def YUZ_LAST_STAT_VERDICT : Fld := ⟨0x9008, 28, 1, 0, .ro⟩
def YUZ_LAST_SEQ_SEQ : Fld := ⟨0x900C, 0, 32, 0, .ro⟩
def YUZ_LAST_TIME_TOTAL_US : Fld := ⟨0x9010, 0, 16, 0, .ro⟩
def YUZ_LAST_TIME_WAIT_US : Fld := ⟨0x9010, 16, 16, 0, .ro⟩
def YUZ_LAST_CYC_CYCLES : Fld := ⟨0x9014, 0, 32, 0, .ro⟩
def YUZ_LAST_CLAMP_ITEM : Fld := ⟨0x9018, 0, 9, 0, .ro⟩
def YUZ_LAST_CLAMP_PIVOT : Fld := ⟨0x9018, 9, 6, 0, .ro⟩
def YUZ_LAST_CLAMP_STEP : Fld := ⟨0x9018, 15, 5, 0, .ro⟩
def YUZ_LAST_CLAMP_ITER : Fld := ⟨0x9018, 20, 5, 0, .ro⟩
def YUZ_LAST_CLAMP_COUNT : Fld := ⟨0x9018, 25, 7, 0, .ro⟩
def YUZ_LAST_RES_RES : Fld := ⟨0x901C, 0, 32, 0, .ro⟩
def YUZ_MISS_HELM : Fld := ⟨0x9020, 0, 8, 0, .ro⟩
def YUZ_MISS_ALLOC : Fld := ⟨0x9020, 8, 8, 0, .ro⟩
def YUZ_MISS_CONS : Fld := ⟨0x9020, 16, 8, 0, .ro⟩
def YUZ_MISS_EXPIRED : Fld := ⟨0x9020, 24, 8, 0, .ro⟩
def YUZ_NUM_SAT_BATCHES : Fld := ⟨0x9024, 0, 16, 0, .ro⟩
def YUZ_NUM_CLAMP_BATCHES : Fld := ⟨0x9024, 16, 16, 0, .ro⟩
def YUZ_STOP_LAST_OVR : Fld := ⟨0x9028, 0, 16, 0, .ro⟩
def YUZ_STOP_MAX_OVR : Fld := ⟨0x9028, 16, 16, 0, .ro⟩
def YUZ_UTIL_BUSY0 : Fld := ⟨0x902C, 0, 8, 0, .ro⟩
def YUZ_UTIL_BUSY1 : Fld := ⟨0x902C, 8, 8, 0, .ro⟩
def YUZ_UTIL_BUSY2 : Fld := ⟨0x902C, 16, 8, 0, .ro⟩
def YUZ_UTIL_BUSY3 : Fld := ⟨0x902C, 24, 8, 0, .ro⟩
def YUZ_ECC_CORRECTED : Fld := ⟨0x9030, 0, 16, 0, .ro⟩
def YUZ_EVT_MISS : Fld := ⟨0x9034, 0, 1, 0, .w1c⟩
def YUZ_EVT_EXPIRED : Fld := ⟨0x9034, 1, 1, 0, .w1c⟩
def YUZ_EVT_SAT : Fld := ⟨0x9034, 2, 1, 0, .w1c⟩
def YUZ_EVT_CLAMPED : Fld := ⟨0x9034, 3, 1, 0, .w1c⟩
def YUZ_EVT_STANDBY_LAG : Fld := ⟨0x9034, 4, 1, 0, .w1c⟩
def YUZ_EVT_SELFTEST_FAIL : Fld := ⟨0x9034, 5, 1, 0, .w1c⟩

def yuzFlds0 : List Fld :=
  [YUZ_STAT_POWERED, YUZ_STAT_BUSY, YUZ_STAT_RUN_KIND, YUZ_STAT_QUEUED, YUZ_STAT_SELFTEST_OK, YUZ_STAT_TILE_BUSY,
   YUZ_KIND_SEL_KIND, YUZ_LAST_STAT_DONE, YUZ_LAST_STAT_NOT_DONE, YUZ_LAST_STAT_SAT, YUZ_LAST_STAT_CLAMPED,
   YUZ_LAST_STAT_MISS, YUZ_LAST_STAT_EXPIRED, YUZ_LAST_STAT_ITER_REACHED, YUZ_LAST_STAT_VERDICT, YUZ_LAST_SEQ_SEQ,
   YUZ_LAST_TIME_TOTAL_US, YUZ_LAST_TIME_WAIT_US, YUZ_LAST_CYC_CYCLES, YUZ_LAST_CLAMP_ITEM]
def yuzFlds1 : List Fld :=
  [YUZ_LAST_CLAMP_PIVOT, YUZ_LAST_CLAMP_STEP, YUZ_LAST_CLAMP_ITER, YUZ_LAST_CLAMP_COUNT, YUZ_LAST_RES_RES,
   YUZ_MISS_HELM, YUZ_MISS_ALLOC, YUZ_MISS_CONS, YUZ_MISS_EXPIRED, YUZ_NUM_SAT_BATCHES, YUZ_NUM_CLAMP_BATCHES,
   YUZ_STOP_LAST_OVR, YUZ_STOP_MAX_OVR, YUZ_UTIL_BUSY0, YUZ_UTIL_BUSY1, YUZ_UTIL_BUSY2, YUZ_UTIL_BUSY3,
   YUZ_ECC_CORRECTED, YUZ_EVT_MISS, YUZ_EVT_EXPIRED]
def yuzFlds2 : List Fld :=
  [YUZ_EVT_SAT, YUZ_EVT_CLAMPED, YUZ_EVT_STANDBY_LAG, YUZ_EVT_SELFTEST_FAIL]
/-- Every field of the YUZ block. -/
def yuzFlds : List Fld := yuzFlds0 ++ yuzFlds1 ++ yuzFlds2

/-! ### LOOP block, BAR0 0x0A000 -/

def LOOP_STAT_RUNNING : Fld := ⟨0xA000, 0, 6, 0, .ro⟩
def LOOP_STAT_FAULTED : Fld := ⟨0xA000, 6, 6, 0, .ro⟩
def LOOP_STAT_CLAMPED : Fld := ⟨0xA000, 12, 6, 0, .ro⟩
def LOOP_STAT_INJ_ANY : Fld := ⟨0xA000, 18, 1, 0, .ro⟩
def LOOP_STAT_SAT : Fld := ⟨0xA000, 19, 13, 0, .ro⟩
def LOOP_SEL_CELL : Fld := ⟨0xA004, 0, 6, 0, .rw⟩
def LOOP_CELL_CFG_LAW : Fld := ⟨0xA008, 0, 3, 0, .ro⟩
def LOOP_CELL_CFG_TRIGGER : Fld := ⟨0xA008, 3, 1, 0, .ro⟩
def LOOP_CELL_CFG_DIV : Fld := ⟨0xA008, 4, 10, 0, .ro⟩
def LOOP_CELL_CFG_PHASE : Fld := ⟨0xA008, 14, 10, 0, .ro⟩
def LOOP_CELL_CFG_FUNC : Fld := ⟨0xA008, 24, 5, 0, .ro⟩
def LOOP_CELL_CFG_INNER : Fld := ⟨0xA008, 29, 1, 0, .ro⟩
def LOOP_CELL_IO_IN_KIND : Fld := ⟨0xA00C, 0, 4, 0, .ro⟩
def LOOP_CELL_IO_IN_IDX : Fld := ⟨0xA00C, 4, 8, 0, .ro⟩
def LOOP_CELL_IO_OUT_KIND : Fld := ⟨0xA00C, 12, 3, 0, .ro⟩
def LOOP_CELL_IO_OUT_IDX : Fld := ⟨0xA00C, 15, 8, 0, .ro⟩
def LOOP_CELL_IO_FF_SRC : Fld := ⟨0xA00C, 23, 4, 0, .ro⟩
def LOOP_CELL_IO_FF_TARGET : Fld := ⟨0xA00C, 27, 1, 0, .ro⟩
def LOOP_CELL_STAT_STATE : Fld := ⟨0xA010, 0, 3, 0, .ro⟩
def LOOP_CELL_STAT_SAT_HI : Fld := ⟨0xA010, 3, 1, 0, .ro⟩
def LOOP_CELL_STAT_SAT_LO : Fld := ⟨0xA010, 4, 1, 0, .ro⟩
def LOOP_CELL_STAT_SLEWING : Fld := ⟨0xA010, 5, 1, 0, .ro⟩
def LOOP_CELL_STAT_INJ : Fld := ⟨0xA010, 6, 1, 0, .ro⟩
def LOOP_CELL_STAT_FF_STATE : Fld := ⟨0xA010, 7, 2, 0, .ro⟩
def LOOP_CELL_STAT_MISS : Fld := ⟨0xA010, 9, 1, 0, .ro⟩
def LOOP_CELL_STAT_SAT : Fld := ⟨0xA010, 10, 1, 0, .w1c⟩
def LOOP_CELL_STAT_MISS_RUN : Fld := ⟨0xA010, 11, 8, 0, .ro⟩
def LOOP_CELL_SP_VALUE : Fld := ⟨0xA014, 0, 32, 0, .ro⟩
def LOOP_CELL_PV_VALUE : Fld := ⟨0xA018, 0, 32, 0, .ro⟩
def LOOP_CELL_OUT_VALUE : Fld := ⟨0xA01C, 0, 32, 0, .ro⟩
def LOOP_CELL_FF_VALUE : Fld := ⟨0xA020, 0, 32, 0, .ro⟩
def LOOP_CELL_LAT_WAIT_LAST : Fld := ⟨0xA024, 0, 16, 0, .ro⟩
def LOOP_CELL_LAT_WAIT_MAX : Fld := ⟨0xA024, 16, 16, 0, .ro⟩
def LOOP_CELL_CNT_RUNS : Fld := ⟨0xA028, 0, 32, 0, .ro⟩
def LOOP_INJ_CFG_SHAPE : Fld := ⟨0xA02C, 0, 2, 0, .rwl [.installer]⟩
def LOOP_INJ_CFG_TARGET : Fld := ⟨0xA02C, 2, 1, 0, .rwl [.installer]⟩
def LOOP_INJ_CFG_SWEEP : Fld := ⟨0xA02C, 3, 1, 0, .rwl [.installer]⟩
def LOOP_INJ_CFG_ORDER : Fld := ⟨0xA02C, 4, 5, 7, .rwl [.installer]⟩
def LOOP_INJ_CFG_BIT_RUNS : Fld := ⟨0xA02C, 9, 7, 1, .rwl [.installer]⟩
def LOOP_INJ_AMP_AMP : Fld := ⟨0xA030, 0, 32, 0, .rwl [.installer]⟩
def LOOP_INJ_F0_MHZ : Fld := ⟨0xA034, 0, 32, 0, .rwl [.installer]⟩
def LOOP_INJ_F1_MHZ : Fld := ⟨0xA038, 0, 32, 0, .rwl [.installer]⟩
def LOOP_INJ_DUR_MS : Fld := ⟨0xA03C, 0, 32, 0, .rwl [.installer]⟩
def LOOP_INJ_CMD_CMD : Fld := ⟨0xA040, 0, 2, 0, .rwl [.installer]⟩
def LOOP_INJ_CMD_RESULT : Fld := ⟨0xA040, 2, 4, 0, .ro⟩
def LOOP_CAP_SEL_UNIT : Fld := ⟨0xA044, 0, 2, 0, .rw⟩
def LOOP_CAP_CFG_DEC : Fld := ⟨0xA048, 0, 10, 1, .rwl [.operator, .installer]⟩
def LOOP_CAP_CFG_MEAN : Fld := ⟨0xA048, 10, 1, 0, .rwl [.operator, .installer]⟩
def LOOP_CAP_CFG_TRIG : Fld := ⟨0xA048, 11, 2, 0, .rwl [.operator, .installer]⟩
def LOOP_CAP_CFG_PRE : Fld := ⟨0xA048, 13, 13, 0, .rwl [.operator, .installer]⟩
def LOOP_CAP_CFG_FUNC : Fld := ⟨0xA048, 26, 5, 0, .ro⟩
def LOOP_CAP_SIG_SIG0 : Fld := ⟨0xA04C, 0, 4, 0, .rwl [.operator, .installer]⟩
def LOOP_CAP_SIG_SIG1 : Fld := ⟨0xA04C, 4, 4, 0, .rwl [.operator, .installer]⟩
def LOOP_CAP_SIG_SIG2 : Fld := ⟨0xA04C, 8, 4, 0, .rwl [.operator, .installer]⟩
def LOOP_CAP_SIG_SIG3 : Fld := ⟨0xA04C, 12, 4, 0, .rwl [.operator, .installer]⟩
def LOOP_CAP_SIG_FCELL0 : Fld := ⟨0xA04C, 16, 2, 0, .rwl [.operator, .installer]⟩
def LOOP_CAP_SIG_FCELL1 : Fld := ⟨0xA04C, 18, 2, 0, .rwl [.operator, .installer]⟩
def LOOP_CAP_SIG_FCELL2 : Fld := ⟨0xA04C, 20, 2, 0, .rwl [.operator, .installer]⟩
def LOOP_CAP_SIG_FCELL3 : Fld := ⟨0xA04C, 22, 2, 0, .rwl [.operator, .installer]⟩
def LOOP_CAP_CMD_CMD : Fld := ⟨0xA050, 0, 2, 0, .rwl [.operator, .installer]⟩
def LOOP_CAP_STAT_STATE : Fld := ⟨0xA054, 0, 3, 0, .ro⟩
def LOOP_CAP_STAT_COUNT : Fld := ⟨0xA054, 4, 14, 0, .ro⟩
def LOOP_CAP_STAT_TRIG_IDX : Fld := ⟨0xA054, 18, 13, 0, .ro⟩
def LOOP_CAP_PM_PM32 : Fld := ⟨0xA058, 0, 32, 0, .ro⟩
def LOOP_CAP_OFS_SAMPLE : Fld := ⟨0xA05C, 0, 13, 0, .rw⟩
def LOOP_ENC_SEL_ENC : Fld := ⟨0xA060, 0, 3, 0, .rw⟩
def LOOP_ENC_CNT_COUNT : Fld := ⟨0xA064, 0, 32, 0, .ro⟩
def LOOP_ENC_PM_PM32 : Fld := ⟨0xA068, 0, 32, 0, .ro⟩
def LOOP_ENC_STAT_UPDATES : Fld := ⟨0xA06C, 0, 16, 0, .ro⟩
def LOOP_ENC_STAT_INDEX_SEEN : Fld := ⟨0xA06C, 16, 1, 0, .w1c⟩
def LOOP_ENC_STAT_EDGE_ERR : Fld := ⟨0xA06C, 17, 1, 0, .w1c⟩
def LOOP_EVT_MISS : Fld := ⟨0xA070, 0, 1, 0, .w1c⟩
def LOOP_EVT_CELL_FAULT : Fld := ⟨0xA070, 1, 1, 0, .w1c⟩
def LOOP_EVT_SAT : Fld := ⟨0xA070, 2, 1, 0, .w1c⟩
def LOOP_EVT_INJ_END : Fld := ⟨0xA070, 3, 1, 0, .w1c⟩
def LOOP_EVT_CAP_DONE : Fld := ⟨0xA070, 4, 1, 0, .w1c⟩
def LOOP_EVT_FF_FADE : Fld := ⟨0xA070, 5, 1, 0, .w1c⟩
def LOOP_EVT_SAFE_LAW : Fld := ⟨0xA070, 6, 1, 0, .w1c⟩
def LOOP_CAP_WIN_DATA : Fld := ⟨0xA800, 0, 32, 0, .ro⟩

def loopFlds0 : List Fld :=
  [LOOP_STAT_RUNNING, LOOP_STAT_FAULTED, LOOP_STAT_CLAMPED, LOOP_STAT_INJ_ANY, LOOP_STAT_SAT, LOOP_SEL_CELL,
   LOOP_CELL_CFG_LAW, LOOP_CELL_CFG_TRIGGER, LOOP_CELL_CFG_DIV, LOOP_CELL_CFG_PHASE, LOOP_CELL_CFG_FUNC,
   LOOP_CELL_CFG_INNER, LOOP_CELL_IO_IN_KIND, LOOP_CELL_IO_IN_IDX, LOOP_CELL_IO_OUT_KIND, LOOP_CELL_IO_OUT_IDX,
   LOOP_CELL_IO_FF_SRC, LOOP_CELL_IO_FF_TARGET, LOOP_CELL_STAT_STATE, LOOP_CELL_STAT_SAT_HI]
def loopFlds1 : List Fld :=
  [LOOP_CELL_STAT_SAT_LO, LOOP_CELL_STAT_SLEWING, LOOP_CELL_STAT_INJ, LOOP_CELL_STAT_FF_STATE, LOOP_CELL_STAT_MISS,
   LOOP_CELL_STAT_SAT, LOOP_CELL_STAT_MISS_RUN, LOOP_CELL_SP_VALUE, LOOP_CELL_PV_VALUE, LOOP_CELL_OUT_VALUE,
   LOOP_CELL_FF_VALUE, LOOP_CELL_LAT_WAIT_LAST, LOOP_CELL_LAT_WAIT_MAX, LOOP_CELL_CNT_RUNS, LOOP_INJ_CFG_SHAPE,
   LOOP_INJ_CFG_TARGET, LOOP_INJ_CFG_SWEEP, LOOP_INJ_CFG_ORDER, LOOP_INJ_CFG_BIT_RUNS, LOOP_INJ_AMP_AMP]
def loopFlds2 : List Fld :=
  [LOOP_INJ_F0_MHZ, LOOP_INJ_F1_MHZ, LOOP_INJ_DUR_MS, LOOP_INJ_CMD_CMD, LOOP_INJ_CMD_RESULT, LOOP_CAP_SEL_UNIT,
   LOOP_CAP_CFG_DEC, LOOP_CAP_CFG_MEAN, LOOP_CAP_CFG_TRIG, LOOP_CAP_CFG_PRE, LOOP_CAP_CFG_FUNC, LOOP_CAP_SIG_SIG0,
   LOOP_CAP_SIG_SIG1, LOOP_CAP_SIG_SIG2, LOOP_CAP_SIG_SIG3, LOOP_CAP_SIG_FCELL0, LOOP_CAP_SIG_FCELL1,
   LOOP_CAP_SIG_FCELL2, LOOP_CAP_SIG_FCELL3, LOOP_CAP_CMD_CMD]
def loopFlds3 : List Fld :=
  [LOOP_CAP_STAT_STATE, LOOP_CAP_STAT_COUNT, LOOP_CAP_STAT_TRIG_IDX, LOOP_CAP_PM_PM32, LOOP_CAP_OFS_SAMPLE,
   LOOP_ENC_SEL_ENC, LOOP_ENC_CNT_COUNT, LOOP_ENC_PM_PM32, LOOP_ENC_STAT_UPDATES, LOOP_ENC_STAT_INDEX_SEEN,
   LOOP_ENC_STAT_EDGE_ERR, LOOP_EVT_MISS, LOOP_EVT_CELL_FAULT, LOOP_EVT_SAT, LOOP_EVT_INJ_END, LOOP_EVT_CAP_DONE,
   LOOP_EVT_FF_FADE, LOOP_EVT_SAFE_LAW, LOOP_CAP_WIN_DATA]
/-- Every field of the LOOP block. -/
def loopFlds : List Fld := loopFlds0 ++ loopFlds1 ++ loopFlds2 ++ loopFlds3

/-! ### MFN block, BAR0 0x0B000 -/

def MFN_STAT_ACTIVE : Fld := ⟨0xB000, 0, 6, 0, .ro⟩
def MFN_STAT_FAULT : Fld := ⟨0xB000, 6, 6, 0, .ro⟩
def MFN_STAT_IDLE : Fld := ⟨0xB000, 12, 1, 0, .ro⟩
def MFN_SEL_FN : Fld := ⟨0xB004, 0, 5, 0, .rw⟩
def MFN_FN_STAT_STATE : Fld := ⟨0xB008, 0, 3, 7, .ro⟩
def MFN_FN_STAT_REARM_PENDING : Fld := ⟨0xB008, 3, 1, 0, .ro⟩
def MFN_FN_STAT_STOP_FAULT : Fld := ⟨0xB008, 4, 1, 0, .ro⟩
def MFN_FN_STAT_STOP_TIMEOUT : Fld := ⟨0xB008, 5, 1, 0, .ro⟩
def MFN_FN_STAT_CAUSE : Fld := ⟨0xB008, 6, 4, 0, .ro⟩
def MFN_FN_STAT_ARM_OK : Fld := ⟨0xB008, 10, 1, 0, .ro⟩
def MFN_FN_STAT_EN : Fld := ⟨0xB008, 11, 1, 0, .ro⟩
def MFN_FN_STAT_LIST : Fld := ⟨0xB008, 16, 7, 0, .ro⟩
def MFN_FN_CELLS_CELL0 : Fld := ⟨0xB00C, 0, 8, 255, .ro⟩
def MFN_FN_CELLS_CELL1 : Fld := ⟨0xB00C, 8, 8, 255, .ro⟩
def MFN_FN_CELLS_CELL2 : Fld := ⟨0xB00C, 16, 8, 255, .ro⟩
def MFN_FN_CELLS_CELL3 : Fld := ⟨0xB00C, 24, 8, 255, .ro⟩
def MFN_FN_TIME_IN_STATE_DS : Fld := ⟨0xB010, 0, 16, 0, .ro⟩
def MFN_FN_TIME_LAST_STOP_MS : Fld := ⟨0xB010, 16, 16, 0, .ro⟩
def MFN_CMD_FN : Fld := ⟨0xB014, 0, 5, 0, .rwl [.operator]⟩
def MFN_CMD_ACTION : Fld := ⟨0xB014, 8, 2, 0, .rwl [.operator]⟩
def MFN_CMD_TAG : Fld := ⟨0xB014, 16, 8, 0, .rwl [.operator]⟩
def MFN_CMD_STAT_RESULT : Fld := ⟨0xB018, 0, 4, 0, .ro⟩
def MFN_CMD_STAT_TAG : Fld := ⟨0xB018, 8, 8, 0, .ro⟩
def MFN_CMD_STAT_FN : Fld := ⟨0xB018, 16, 5, 0, .ro⟩
def MFN_EVT_STATE_CHANGE : Fld := ⟨0xB01C, 0, 1, 0, .w1c⟩
def MFN_EVT_REARM_LATCHED : Fld := ⟨0xB01C, 1, 1, 0, .w1c⟩
def MFN_EVT_FAULT : Fld := ⟨0xB01C, 2, 1, 0, .w1c⟩
def MFN_EVT_STOP_TIMEOUT : Fld := ⟨0xB01C, 3, 1, 0, .w1c⟩
def MFN_EVT_CMD_REFUSED : Fld := ⟨0xB01C, 4, 1, 0, .w1c⟩

def mfnFlds0 : List Fld :=
  [MFN_STAT_ACTIVE, MFN_STAT_FAULT, MFN_STAT_IDLE, MFN_SEL_FN, MFN_FN_STAT_STATE, MFN_FN_STAT_REARM_PENDING,
   MFN_FN_STAT_STOP_FAULT, MFN_FN_STAT_STOP_TIMEOUT, MFN_FN_STAT_CAUSE, MFN_FN_STAT_ARM_OK, MFN_FN_STAT_EN,
   MFN_FN_STAT_LIST, MFN_FN_CELLS_CELL0, MFN_FN_CELLS_CELL1, MFN_FN_CELLS_CELL2, MFN_FN_CELLS_CELL3,
   MFN_FN_TIME_IN_STATE_DS, MFN_FN_TIME_LAST_STOP_MS, MFN_CMD_FN, MFN_CMD_ACTION]
def mfnFlds1 : List Fld :=
  [MFN_CMD_TAG, MFN_CMD_STAT_RESULT, MFN_CMD_STAT_TAG, MFN_CMD_STAT_FN, MFN_EVT_STATE_CHANGE, MFN_EVT_REARM_LATCHED,
   MFN_EVT_FAULT, MFN_EVT_STOP_TIMEOUT, MFN_EVT_CMD_REFUSED]
/-- Every field of the MFN block. -/
def mfnFlds : List Fld := mfnFlds0 ++ mfnFlds1

/-! ### ADC block, BAR0 0x0C000 -/

def ADC_STAT_REF_OK : Fld := ⟨0xC000, 0, 1, 0, .ro⟩
def ADC_STAT_REF_SRC : Fld := ⟨0xC000, 1, 1, 0, .ro⟩
def ADC_STAT_FAULTED : Fld := ⟨0xC000, 2, 6, 0, .ro⟩
def ADC_STAT_CLIPPED : Fld := ⟨0xC000, 8, 6, 0, .ro⟩
def ADC_STAT_OVERLOADED : Fld := ⟨0xC000, 14, 6, 0, .ro⟩
def ADC_CFG_DEC_OFS : Fld := ⟨0xC004, 0, 5, 0, .ro⟩
def ADC_CFG_BS_RATE : Fld := ⟨0xC004, 8, 4, 0, .ro⟩
def ADC_BS_DLY_DLY0 : Fld := ⟨0xC008, 0, 6, 0, .ro⟩
def ADC_BS_DLY_DLY1 : Fld := ⟨0xC008, 8, 6, 0, .ro⟩
def ADC_BS_DLY_DLY2 : Fld := ⟨0xC008, 16, 6, 0, .ro⟩
def ADC_BS_DLY_DLY3 : Fld := ⟨0xC008, 24, 6, 0, .ro⟩
def ADC_SEL_CH : Fld := ⟨0xC00C, 0, 6, 0, .rw⟩
def ADC_CH_CFG_KIND : Fld := ⟨0xC010, 0, 2, 3, .ro⟩
def ADC_CH_CFG_PRESET : Fld := ⟨0xC010, 2, 2, 0, .ro⟩
def ADC_CH_CFG_RANGE : Fld := ⟨0xC010, 4, 1, 0, .ro⟩
def ADC_CH_CFG_AVG_LOG2 : Fld := ⟨0xC010, 5, 3, 0, .ro⟩
def ADC_CH_CFG_TRIG : Fld := ⟨0xC010, 8, 1, 0, .ro⟩
def ADC_CH_CFG_UNIT : Fld := ⟨0xC010, 9, 4, 0, .ro⟩
def ADC_CH_STAT_STATE : Fld := ⟨0xC014, 0, 2, 0, .ro⟩
def ADC_CH_STAT_OVR : Fld := ⟨0xC014, 2, 1, 0, .w1c⟩
def ADC_CH_STAT_CLIP : Fld := ⟨0xC014, 3, 1, 0, .w1c⟩
def ADC_CH_STAT_OVERRUN : Fld := ⟨0xC014, 4, 1, 0, .w1c⟩
def ADC_CH_STAT_UPDATES : Fld := ⟨0xC014, 16, 16, 0, .ro⟩
def ADC_CH_RES_RESULT : Fld := ⟨0xC018, 0, 24, 0, .ro⟩
def ADC_CH_RES_SIGN : Fld := ⟨0xC018, 24, 8, 0, .ro⟩
def ADC_CH_PM_PM32 : Fld := ⟨0xC01C, 0, 32, 0, .ro⟩
def ADC_CH_DLY_GD_NS : Fld := ⟨0xC020, 0, 20, 0, .ro⟩
def ADC_CH_DLY_SKEW_NS : Fld := ⟨0xC020, 20, 10, 0, .ro⟩
def ADC_EVT_FAULT : Fld := ⟨0xC024, 0, 1, 0, .w1c⟩
def ADC_EVT_RECOVERED : Fld := ⟨0xC024, 1, 1, 0, .w1c⟩
def ADC_EVT_OVR : Fld := ⟨0xC024, 2, 1, 0, .w1c⟩
def ADC_EVT_CLIP : Fld := ⟨0xC024, 3, 1, 0, .w1c⟩
def ADC_EVT_OVERRUN : Fld := ⟨0xC024, 4, 1, 0, .w1c⟩
def ADC_EVT_REF : Fld := ⟨0xC024, 5, 1, 0, .w1c⟩

def adcFlds0 : List Fld :=
  [ADC_STAT_REF_OK, ADC_STAT_REF_SRC, ADC_STAT_FAULTED, ADC_STAT_CLIPPED, ADC_STAT_OVERLOADED, ADC_CFG_DEC_OFS,
   ADC_CFG_BS_RATE, ADC_BS_DLY_DLY0, ADC_BS_DLY_DLY1, ADC_BS_DLY_DLY2, ADC_BS_DLY_DLY3, ADC_SEL_CH, ADC_CH_CFG_KIND,
   ADC_CH_CFG_PRESET, ADC_CH_CFG_RANGE, ADC_CH_CFG_AVG_LOG2, ADC_CH_CFG_TRIG, ADC_CH_CFG_UNIT, ADC_CH_STAT_STATE,
   ADC_CH_STAT_OVR]
def adcFlds1 : List Fld :=
  [ADC_CH_STAT_CLIP, ADC_CH_STAT_OVERRUN, ADC_CH_STAT_UPDATES, ADC_CH_RES_RESULT, ADC_CH_RES_SIGN, ADC_CH_PM_PM32,
   ADC_CH_DLY_GD_NS, ADC_CH_DLY_SKEW_NS, ADC_EVT_FAULT, ADC_EVT_RECOVERED, ADC_EVT_OVR, ADC_EVT_CLIP, ADC_EVT_OVERRUN,
   ADC_EVT_REF]
/-- Every field of the ADC block. -/
def adcFlds : List Fld := adcFlds0 ++ adcFlds1

/-! ### CLP block, BAR0 0x0D000 -/

def CLP_STAT_ALARM : Fld := ⟨0xD000, 0, 8, 0, .ro⟩
def CLP_STAT_COMPLIANCE : Fld := ⟨0xD000, 8, 8, 0, .ro⟩
def CLP_STAT_THERMAL : Fld := ⟨0xD000, 16, 8, 0, .ro⟩
def CLP_STAT_HART_OK : Fld := ⟨0xD000, 24, 8, 0, .ro⟩
def CLP_SEL_CH : Fld := ⟨0xD004, 0, 3, 0, .rw⟩
def CLP_CH_CFG_SRC : Fld := ⟨0xD008, 0, 2, 0, .ro⟩
def CLP_CH_CFG_COMP_ACTION : Fld := ⟨0xD008, 2, 1, 0, .ro⟩
def CLP_CH_CFG_FAIL_ACTION : Fld := ⟨0xD008, 3, 2, 1, .ro⟩
def CLP_CH_CFG_NTC_BOUND : Fld := ⟨0xD008, 5, 1, 0, .ro⟩
def CLP_CH_CFG_NTC_CH : Fld := ⟨0xD008, 6, 4, 0, .ro⟩
def CLP_CH_CFG_HART_EN : Fld := ⟨0xD008, 10, 1, 0, .ro⟩
def CLP_CH_STAT_STATE : Fld := ⟨0xD00C, 0, 3, 0, .ro⟩
def CLP_CH_STAT_COMPLIANCE : Fld := ⟨0xD00C, 3, 1, 0, .ro⟩
def CLP_CH_STAT_OPEN : Fld := ⟨0xD00C, 4, 1, 0, .ro⟩
def CLP_CH_STAT_THERMAL : Fld := ⟨0xD00C, 5, 1, 0, .ro⟩
def CLP_CH_STAT_NTC_FAULT : Fld := ⟨0xD00C, 6, 1, 0, .ro⟩
def CLP_CH_STAT_SUP_AT_MAX : Fld := ⟨0xD00C, 7, 1, 0, .ro⟩
def CLP_CH_STAT_ALARM_CAUSE : Fld := ⟨0xD00C, 8, 2, 0, .ro⟩
def CLP_CH_STAT_ALARM_HIGH : Fld := ⟨0xD00C, 10, 1, 0, .ro⟩
def CLP_CH_STAT_HART_SLEWING : Fld := ⟨0xD00C, 11, 1, 0, .ro⟩
def CLP_CH_CUR_REQ_UA : Fld := ⟨0xD010, 0, 16, 0, .ro⟩
def CLP_CH_CUR_OUT_UA : Fld := ⟨0xD010, 16, 16, 0, .ro⟩
def CLP_CH_MEAS_MEAS_UA : Fld := ⟨0xD014, 0, 16, 0, .ro⟩
def CLP_CH_MEAS_ILIM_UA : Fld := ⟨0xD014, 16, 16, 65535, .ro⟩
def CLP_CH_VOLT_VPT_MV : Fld := ⟨0xD018, 0, 16, 0, .ro⟩
def CLP_CH_VOLT_SUP_MV : Fld := ⟨0xD018, 16, 16, 0, .ro⟩
def CLP_CH_TEMP_NTC_DC : Fld := ⟨0xD01C, 0, 16, 0, .ro⟩
def CLP_CH_TEMP_EST_DC : Fld := ⟨0xD01C, 16, 16, 0, .ro⟩
def CLP_HART_SEL_MODEM : Fld := ⟨0xD020, 0, 3, 0, .rw⟩
def CLP_HART_STAT_MODE : Fld := ⟨0xD024, 0, 2, 0, .ro⟩
def CLP_HART_STAT_BUSY : Fld := ⟨0xD024, 2, 1, 0, .ro⟩
def CLP_HART_STAT_PAUSED : Fld := ⟨0xD024, 3, 1, 0, .ro⟩
def CLP_HART_STAT_LAST_ADDR : Fld := ⟨0xD024, 4, 6, 0, .ro⟩
def CLP_HART_STAT_LAST_CMD : Fld := ⟨0xD024, 10, 8, 0, .ro⟩
def CLP_HART_STAT_LAST_RC : Fld := ⟨0xD024, 18, 8, 0, .ro⟩
def CLP_HART_STAT_ID_MISMATCH : Fld := ⟨0xD024, 26, 1, 0, .ro⟩
def CLP_HART_CNT_TRANS : Fld := ⟨0xD028, 0, 16, 0, .ro⟩
def CLP_HART_CNT_FAILS : Fld := ⟨0xD028, 16, 16, 0, .ro⟩
def CLP_HART_CMD_CMD : Fld := ⟨0xD02C, 0, 2, 0, .rwl [.operator]⟩
def CLP_EVT_COMPLIANCE : Fld := ⟨0xD030, 0, 1, 0, .w1c⟩
def CLP_EVT_ALARM : Fld := ⟨0xD030, 1, 1, 0, .w1c⟩
def CLP_EVT_THERMAL : Fld := ⟨0xD030, 2, 1, 0, .w1c⟩
def CLP_EVT_NTC_FAULT : Fld := ⟨0xD030, 3, 1, 0, .w1c⟩
def CLP_EVT_HART_FAIL : Fld := ⟨0xD030, 4, 1, 0, .w1c⟩
def CLP_EVT_HART_ID : Fld := ⟨0xD030, 5, 1, 0, .w1c⟩
def CLP_EVT_LOOP_IN : Fld := ⟨0xD030, 6, 1, 0, .w1c⟩

def clpFlds0 : List Fld :=
  [CLP_STAT_ALARM, CLP_STAT_COMPLIANCE, CLP_STAT_THERMAL, CLP_STAT_HART_OK, CLP_SEL_CH, CLP_CH_CFG_SRC,
   CLP_CH_CFG_COMP_ACTION, CLP_CH_CFG_FAIL_ACTION, CLP_CH_CFG_NTC_BOUND, CLP_CH_CFG_NTC_CH, CLP_CH_CFG_HART_EN,
   CLP_CH_STAT_STATE, CLP_CH_STAT_COMPLIANCE, CLP_CH_STAT_OPEN, CLP_CH_STAT_THERMAL, CLP_CH_STAT_NTC_FAULT,
   CLP_CH_STAT_SUP_AT_MAX, CLP_CH_STAT_ALARM_CAUSE, CLP_CH_STAT_ALARM_HIGH, CLP_CH_STAT_HART_SLEWING]
def clpFlds1 : List Fld :=
  [CLP_CH_CUR_REQ_UA, CLP_CH_CUR_OUT_UA, CLP_CH_MEAS_MEAS_UA, CLP_CH_MEAS_ILIM_UA, CLP_CH_VOLT_VPT_MV,
   CLP_CH_VOLT_SUP_MV, CLP_CH_TEMP_NTC_DC, CLP_CH_TEMP_EST_DC, CLP_HART_SEL_MODEM, CLP_HART_STAT_MODE,
   CLP_HART_STAT_BUSY, CLP_HART_STAT_PAUSED, CLP_HART_STAT_LAST_ADDR, CLP_HART_STAT_LAST_CMD, CLP_HART_STAT_LAST_RC,
   CLP_HART_STAT_ID_MISMATCH, CLP_HART_CNT_TRANS, CLP_HART_CNT_FAILS, CLP_HART_CMD_CMD, CLP_EVT_COMPLIANCE]
def clpFlds2 : List Fld :=
  [CLP_EVT_ALARM, CLP_EVT_THERMAL, CLP_EVT_NTC_FAULT, CLP_EVT_HART_FAIL, CLP_EVT_HART_ID, CLP_EVT_LOOP_IN]
/-- Every field of the CLP block. -/
def clpFlds : List Fld := clpFlds0 ++ clpFlds1 ++ clpFlds2

/-! ### STEP block, BAR0 0x0E000 -/

def STEP_STAT_MOVING : Fld := ⟨0xE000, 0, 8, 0, .ro⟩
def STEP_STAT_FAULT : Fld := ⟨0xE000, 8, 8, 0, .ro⟩
def STEP_STAT_HOMED : Fld := ⟨0xE000, 16, 8, 0, .ro⟩
def STEP_SEL_CH : Fld := ⟨0xE004, 0, 3, 0, .rw⟩
def STEP_CH_CFG_CONFIGURED : Fld := ⟨0xE008, 0, 1, 0, .ro⟩
def STEP_CH_CFG_PROFILE : Fld := ⟨0xE008, 1, 1, 0, .ro⟩
def STEP_CH_CFG_DECAY : Fld := ⟨0xE008, 2, 1, 0, .ro⟩
def STEP_CH_CFG_REQUIRE_HOME : Fld := ⟨0xE008, 3, 1, 0, .ro⟩
def STEP_CH_CFG_SAFE_HOLD : Fld := ⟨0xE008, 4, 1, 0, .ro⟩
def STEP_CH_CFG_STALL_ACTION : Fld := ⟨0xE008, 5, 1, 0, .ro⟩
def STEP_CH_CFG_HOME_DIR : Fld := ⟨0xE008, 6, 1, 0, .ro⟩
def STEP_CH_CFG_HOME_SW : Fld := ⟨0xE008, 7, 2, 0, .ro⟩
def STEP_CH_CFG_FUNC : Fld := ⟨0xE008, 9, 5, 0, .ro⟩
def STEP_CH_STAT_STATE : Fld := ⟨0xE00C, 0, 3, 0, .ro⟩
def STEP_CH_STAT_HOME_PHASE : Fld := ⟨0xE00C, 3, 2, 0, .ro⟩
def STEP_CH_STAT_HOMED : Fld := ⟨0xE00C, 5, 1, 0, .ro⟩
def STEP_CH_STAT_POS_LOST : Fld := ⟨0xE00C, 6, 1, 0, .ro⟩
def STEP_CH_STAT_STALL : Fld := ⟨0xE00C, 7, 1, 0, .ro⟩
def STEP_CH_STAT_DEC_RAISED : Fld := ⟨0xE00C, 8, 1, 0, .ro⟩
def STEP_CH_STAT_AT_CEILING : Fld := ⟨0xE00C, 9, 1, 0, .ro⟩
def STEP_CH_STAT_CAUSE : Fld := ⟨0xE00C, 10, 4, 0, .ro⟩
def STEP_CH_STAT_LIM_NEG : Fld := ⟨0xE00C, 14, 1, 0, .ro⟩
def STEP_CH_STAT_LIM_POS : Fld := ⟨0xE00C, 15, 1, 0, .ro⟩
def STEP_CH_STAT_HOME_IN : Fld := ⟨0xE00C, 16, 1, 0, .ro⟩
def STEP_CH_POS_USTEP : Fld := ⟨0xE010, 0, 32, 0, .ro⟩
def STEP_CH_TGT_USTEP : Fld := ⟨0xE014, 0, 32, 0, .ro⟩
def STEP_CH_VEL_USTEP_S : Fld := ⟨0xE018, 0, 32, 0, .ro⟩
def STEP_CH_CUR_I_AMP : Fld := ⟨0xE01C, 0, 16, 0, .ro⟩
def STEP_CH_CUR_LOAD_ANGLE : Fld := ⟨0xE01C, 16, 8, 0, .ro⟩
def STEP_CH_OFS_OFS_A : Fld := ⟨0xE020, 0, 16, 0, .ro⟩
def STEP_CH_OFS_OFS_B : Fld := ⟨0xE020, 16, 16, 0, .ro⟩
def STEP_CH_LATCH_USTEP : Fld := ⟨0xE024, 0, 32, 0, .ro⟩
def STEP_CMD_CMD : Fld := ⟨0xE028, 0, 3, 0, .rwl [.installer]⟩
def STEP_CMD_CH : Fld := ⟨0xE028, 3, 3, 0, .rwl [.installer]⟩
def STEP_CMD_TAG : Fld := ⟨0xE028, 8, 8, 0, .rwl [.installer]⟩
def STEP_CMD_ARG_ARG : Fld := ⟨0xE02C, 0, 32, 0, .rwl [.installer]⟩
def STEP_CMD_STAT_RESULT : Fld := ⟨0xE030, 0, 4, 0, .ro⟩
def STEP_CMD_STAT_TAG : Fld := ⟨0xE030, 8, 8, 0, .ro⟩
def STEP_EVT_FAULT : Fld := ⟨0xE034, 0, 1, 0, .w1c⟩
def STEP_EVT_STALL : Fld := ⟨0xE034, 1, 1, 0, .w1c⟩
def STEP_EVT_POS_LOST : Fld := ⟨0xE034, 2, 1, 0, .w1c⟩
def STEP_EVT_HOMED : Fld := ⟨0xE034, 3, 1, 0, .w1c⟩
def STEP_EVT_INPUT_HALT : Fld := ⟨0xE034, 4, 1, 0, .w1c⟩
def STEP_EVT_CMD_REFUSED : Fld := ⟨0xE034, 5, 1, 0, .w1c⟩

def stepFlds0 : List Fld :=
  [STEP_STAT_MOVING, STEP_STAT_FAULT, STEP_STAT_HOMED, STEP_SEL_CH, STEP_CH_CFG_CONFIGURED, STEP_CH_CFG_PROFILE,
   STEP_CH_CFG_DECAY, STEP_CH_CFG_REQUIRE_HOME, STEP_CH_CFG_SAFE_HOLD, STEP_CH_CFG_STALL_ACTION, STEP_CH_CFG_HOME_DIR,
   STEP_CH_CFG_HOME_SW, STEP_CH_CFG_FUNC, STEP_CH_STAT_STATE, STEP_CH_STAT_HOME_PHASE, STEP_CH_STAT_HOMED,
   STEP_CH_STAT_POS_LOST, STEP_CH_STAT_STALL, STEP_CH_STAT_DEC_RAISED, STEP_CH_STAT_AT_CEILING]
def stepFlds1 : List Fld :=
  [STEP_CH_STAT_CAUSE, STEP_CH_STAT_LIM_NEG, STEP_CH_STAT_LIM_POS, STEP_CH_STAT_HOME_IN, STEP_CH_POS_USTEP,
   STEP_CH_TGT_USTEP, STEP_CH_VEL_USTEP_S, STEP_CH_CUR_I_AMP, STEP_CH_CUR_LOAD_ANGLE, STEP_CH_OFS_OFS_A,
   STEP_CH_OFS_OFS_B, STEP_CH_LATCH_USTEP, STEP_CMD_CMD, STEP_CMD_CH, STEP_CMD_TAG, STEP_CMD_ARG_ARG,
   STEP_CMD_STAT_RESULT, STEP_CMD_STAT_TAG, STEP_EVT_FAULT, STEP_EVT_STALL]
def stepFlds2 : List Fld :=
  [STEP_EVT_POS_LOST, STEP_EVT_HOMED, STEP_EVT_INPUT_HALT, STEP_EVT_CMD_REFUSED]
/-- Every field of the STEP block. -/
def stepFlds : List Fld := stepFlds0 ++ stepFlds1 ++ stepFlds2

/-! ### SAFE block, BAR0 0x0F000 -/

def SAFE_STAT_STATE : Fld := ⟨0xF000, 0, 2, 0, .ro⟩
def SAFE_STAT_COMMISSIONED : Fld := ⟨0xF000, 2, 1, 0, .ro⟩
def SAFE_STAT_PERMANENT : Fld := ⟨0xF000, 3, 1, 0, .ro⟩
def SAFE_STAT_RESET_READY : Fld := ⟨0xF000, 4, 1, 0, .ro⟩
def SAFE_STAT_WIRING : Fld := ⟨0xF000, 5, 1, 0, .ro⟩
def SAFE_STAT_CAUSE : Fld := ⟨0xF000, 8, 8, 0, .ro⟩
def SAFE_IN_CLOSED : Fld := ⟨0xF004, 0, 16, 0, .ro⟩
def SAFE_IN_DISC : Fld := ⟨0xF004, 16, 16, 0, .ro⟩
def SAFE_OUT_ON : Fld := ⟨0xF008, 0, 12, 0, .ro⟩
def SAFE_OUT_WAIT : Fld := ⟨0xF008, 12, 12, 0, .ro⟩
def SAFE_RB_RB_A : Fld := ⟨0xF00C, 0, 12, 0, .ro⟩
def SAFE_RB_RB_B : Fld := ⟨0xF00C, 12, 12, 0, .ro⟩
def SAFE_EDM_RELEASED : Fld := ⟨0xF010, 0, 8, 0, .ro⟩
def SAFE_EDM_BOUND : Fld := ⟨0xF010, 8, 8, 0, .ro⟩
def SAFE_PERMIT_PERMIT : Fld := ⟨0xF014, 0, 12, 0, .ro⟩
def SAFE_PERMIT_OFF_REQ : Fld := ⟨0xF014, 16, 12, 0, .ro⟩
def SAFE_OFF_REQ_MASK : Fld := ⟨0xF018, 0, 12, 0, .rwl [.operator]⟩
def SAFE_TEST_LAST_OUT : Fld := ⟨0xF01C, 0, 4, 0, .ro⟩
def SAFE_TEST_LAST_CH : Fld := ⟨0xF01C, 4, 1, 0, .ro⟩
def SAFE_TEST_LAST_OK : Fld := ⟨0xF01C, 5, 1, 0, .ro⟩
def SAFE_TEST_DEFER_MAX : Fld := ⟨0xF01C, 8, 8, 0, .ro⟩
def SAFE_TEST_TESTS : Fld := ⟨0xF01C, 16, 16, 0, .ro⟩
def SAFE_AX_SEL_AXIS : Fld := ⟨0xF020, 0, 3, 0, .rw⟩
def SAFE_AX_STAT_ACTIVE : Fld := ⟨0xF024, 0, 3, 0, .ro⟩
def SAFE_AX_STAT_VIOL : Fld := ⟨0xF024, 3, 3, 0, .ro⟩
def SAFE_AX_STAT_WARN : Fld := ⟨0xF024, 6, 1, 0, .ro⟩
def SAFE_AX_STAT_REFERENCED : Fld := ⟨0xF024, 7, 1, 0, .ro⟩
def SAFE_AX_STAT_SLS_LEVEL : Fld := ⟨0xF024, 8, 2, 0, .ro⟩
def SAFE_AX_STAT_DIFF_PCT : Fld := ⟨0xF024, 16, 16, 0, .ro⟩
def SAFE_AX_SPD_SPD : Fld := ⟨0xF028, 0, 32, 0, .ro⟩
def SAFE_AX_POS_POS : Fld := ⟨0xF02C, 0, 32, 0, .ro⟩
def SAFE_CV_ACTUAL_CV : Fld := ⟨0xF030, 0, 32, 0, .ro⟩
def SAFE_CV_ENTER_CV : Fld := ⟨0xF034, 0, 32, 0, .rwl [.installer]⟩
def SAFE_CV_CMD_COMMIT : Fld := ⟨0xF038, 0, 1, 0, .rwl [.installer]⟩
def SAFE_CV_CMD_RESULT : Fld := ⟨0xF038, 1, 3, 0, .ro⟩
def SAFE_CV_CMD_PEER_RESULT : Fld := ⟨0xF038, 4, 3, 0, .ro⟩
def SAFE_RESET_ACCEPTED : Fld := ⟨0xF03C, 0, 16, 0, .ro⟩
def SAFE_RESET_REFUSED : Fld := ⟨0xF03C, 16, 8, 0, .ro⟩
def SAFE_RESET_LINE : Fld := ⟨0xF03C, 24, 1, 0, .ro⟩
def SAFE_RESET_STUCK : Fld := ⟨0xF03C, 25, 1, 0, .w1c⟩
def SAFE_EVT_LOCKOUT : Fld := ⟨0xF040, 0, 1, 0, .w1c⟩
def SAFE_EVT_RUN : Fld := ⟨0xF040, 1, 1, 0, .w1c⟩
def SAFE_EVT_OUT_OFF : Fld := ⟨0xF040, 2, 1, 0, .w1c⟩
def SAFE_EVT_VIOL : Fld := ⟨0xF040, 3, 1, 0, .w1c⟩
def SAFE_EVT_WARN : Fld := ⟨0xF040, 4, 1, 0, .w1c⟩
def SAFE_EVT_TEST_DEFER : Fld := ⟨0xF040, 5, 1, 0, .w1c⟩
def SAFE_EVT_RESET_REFUSED : Fld := ⟨0xF040, 6, 1, 0, .w1c⟩

def safeFlds0 : List Fld :=
  [SAFE_STAT_STATE, SAFE_STAT_COMMISSIONED, SAFE_STAT_PERMANENT, SAFE_STAT_RESET_READY, SAFE_STAT_WIRING,
   SAFE_STAT_CAUSE, SAFE_IN_CLOSED, SAFE_IN_DISC, SAFE_OUT_ON, SAFE_OUT_WAIT, SAFE_RB_RB_A, SAFE_RB_RB_B,
   SAFE_EDM_RELEASED, SAFE_EDM_BOUND, SAFE_PERMIT_PERMIT, SAFE_PERMIT_OFF_REQ, SAFE_OFF_REQ_MASK, SAFE_TEST_LAST_OUT,
   SAFE_TEST_LAST_CH, SAFE_TEST_LAST_OK]
def safeFlds1 : List Fld :=
  [SAFE_TEST_DEFER_MAX, SAFE_TEST_TESTS, SAFE_AX_SEL_AXIS, SAFE_AX_STAT_ACTIVE, SAFE_AX_STAT_VIOL, SAFE_AX_STAT_WARN,
   SAFE_AX_STAT_REFERENCED, SAFE_AX_STAT_SLS_LEVEL, SAFE_AX_STAT_DIFF_PCT, SAFE_AX_SPD_SPD, SAFE_AX_POS_POS,
   SAFE_CV_ACTUAL_CV, SAFE_CV_ENTER_CV, SAFE_CV_CMD_COMMIT, SAFE_CV_CMD_RESULT, SAFE_CV_CMD_PEER_RESULT,
   SAFE_RESET_ACCEPTED, SAFE_RESET_REFUSED, SAFE_RESET_LINE, SAFE_RESET_STUCK]
def safeFlds2 : List Fld :=
  [SAFE_EVT_LOCKOUT, SAFE_EVT_RUN, SAFE_EVT_OUT_OFF, SAFE_EVT_VIOL, SAFE_EVT_WARN, SAFE_EVT_TEST_DEFER,
   SAFE_EVT_RESET_REFUSED]
/-- Every field of the SAFE block. -/
def safeFlds : List Fld := safeFlds0 ++ safeFlds1 ++ safeFlds2

/-! ### TWIN block, BAR0 0x10000 -/

def TWIN_STAT_STATE : Fld := ⟨0x10000, 0, 3, 0, .ro⟩
def TWIN_STAT_SEAT : Fld := ⟨0x10000, 3, 1, 0, .ro⟩
def TWIN_STAT_ACTIVE_OUT : Fld := ⟨0x10000, 4, 1, 0, .ro⟩
def TWIN_STAT_ACTIVE_IN : Fld := ⟨0x10000, 5, 1, 0, .ro⟩
def TWIN_STAT_PEER_OK_OUT : Fld := ⟨0x10000, 6, 1, 0, .ro⟩
def TWIN_STAT_PEER_OK_IN : Fld := ⟨0x10000, 7, 1, 0, .ro⟩
def TWIN_STAT_LANES : Fld := ⟨0x10000, 8, 2, 0, .ro⟩
def TWIN_STAT_SIDEBAND_FAULT : Fld := ⟨0x10000, 10, 1, 0, .ro⟩
def TWIN_STAT_PLAUS_ALARM : Fld := ⟨0x10000, 11, 1, 0, .ro⟩
def TWIN_STAT_REFUSAL : Fld := ⟨0x10000, 12, 3, 0, .ro⟩
def TWIN_LINK_RESENDS : Fld := ⟨0x10004, 0, 16, 0, .ro⟩
def TWIN_LINK_CRC_ERRS : Fld := ⟨0x10004, 16, 8, 0, .ro⟩
def TWIN_LINK_LANE_DOWNS : Fld := ⟨0x10004, 24, 8, 0, .ro⟩
def TWIN_LAG_LAST_NS : Fld := ⟨0x10008, 0, 16, 0, .ro⟩
def TWIN_LAG_OVER : Fld := ⟨0x10008, 16, 8, 0, .ro⟩
def TWIN_LAG_OK_DIPS : Fld := ⟨0x10008, 24, 8, 0, .ro⟩
def TWIN_LOAD_LAST_BYTES : Fld := ⟨0x1000C, 0, 16, 0, .ro⟩
def TWIN_LOAD_MAX_BYTES : Fld := ⟨0x1000C, 16, 16, 0, .ro⟩
def TWIN_SYNC_MS : Fld := ⟨0x10010, 0, 16, 0, .ro⟩
def TWIN_SYNC_MIB : Fld := ⟨0x10010, 16, 16, 0, .ro⟩
def TWIN_CMP_TRANSIENT : Fld := ⟨0x10014, 0, 16, 0, .ro⟩
def TWIN_CMP_LAST_SCOPE : Fld := ⟨0x10014, 16, 2, 0, .ro⟩
def TWIN_CMP_LAST_CELL : Fld := ⟨0x10014, 18, 6, 0, .ro⟩
def TWIN_CMP_CONFIRMED : Fld := ⟨0x10014, 24, 1, 0, .ro⟩
def TWIN_HO_CAUSE : Fld := ⟨0x10018, 0, 4, 0, .ro⟩
def TWIN_HO_GAINED : Fld := ⟨0x10018, 4, 1, 0, .ro⟩
def TWIN_HO_VIA : Fld := ⟨0x10018, 5, 1, 0, .ro⟩
def TWIN_HO_WAIT_NS : Fld := ⟨0x10018, 16, 16, 0, .ro⟩
def TWIN_HO_TICK_LO_TICK_LO : Fld := ⟨0x1001C, 0, 32, 0, .ro⟩
def TWIN_HO_TICK_HI_TICK_HI : Fld := ⟨0x10020, 0, 32, 0, .ro⟩
def TWIN_COUNT_HANDOVERS : Fld := ⟨0x10024, 0, 16, 0, .ro⟩
def TWIN_COUNT_DETACHES : Fld := ⟨0x10024, 16, 16, 0, .ro⟩
def TWIN_PLAUS_SEL_CLASS : Fld := ⟨0x10028, 0, 2, 0, .rw⟩
def TWIN_PLAUS_SEL_INDEX : Fld := ⟨0x10028, 2, 6, 0, .rw⟩
def TWIN_PLAUS_STAT_ALARM : Fld := ⟨0x1002C, 0, 1, 0, .ro⟩
def TWIN_PLAUS_STAT_DIFF : Fld := ⟨0x1002C, 8, 24, 0, .ro⟩
def TWIN_EVT_PAIRED : Fld := ⟨0x10030, 0, 1, 0, .w1c⟩
def TWIN_EVT_UNPAIRED : Fld := ⟨0x10030, 1, 1, 0, .w1c⟩
def TWIN_EVT_HANDOVER : Fld := ⟨0x10030, 2, 1, 0, .w1c⟩
def TWIN_EVT_DETACH : Fld := ⟨0x10030, 3, 1, 0, .w1c⟩
def TWIN_EVT_DIVERGE : Fld := ⟨0x10030, 4, 1, 0, .w1c⟩
def TWIN_EVT_LAG : Fld := ⟨0x10030, 5, 1, 0, .w1c⟩
def TWIN_EVT_LANE : Fld := ⟨0x10030, 6, 1, 0, .w1c⟩
def TWIN_EVT_SIDEBAND : Fld := ⟨0x10030, 7, 1, 0, .w1c⟩
def TWIN_EVT_PLAUS : Fld := ⟨0x10030, 8, 1, 0, .w1c⟩

def twinFlds0 : List Fld :=
  [TWIN_STAT_STATE, TWIN_STAT_SEAT, TWIN_STAT_ACTIVE_OUT, TWIN_STAT_ACTIVE_IN, TWIN_STAT_PEER_OK_OUT,
   TWIN_STAT_PEER_OK_IN, TWIN_STAT_LANES, TWIN_STAT_SIDEBAND_FAULT, TWIN_STAT_PLAUS_ALARM, TWIN_STAT_REFUSAL,
   TWIN_LINK_RESENDS, TWIN_LINK_CRC_ERRS, TWIN_LINK_LANE_DOWNS, TWIN_LAG_LAST_NS, TWIN_LAG_OVER, TWIN_LAG_OK_DIPS,
   TWIN_LOAD_LAST_BYTES, TWIN_LOAD_MAX_BYTES, TWIN_SYNC_MS, TWIN_SYNC_MIB]
def twinFlds1 : List Fld :=
  [TWIN_CMP_TRANSIENT, TWIN_CMP_LAST_SCOPE, TWIN_CMP_LAST_CELL, TWIN_CMP_CONFIRMED, TWIN_HO_CAUSE, TWIN_HO_GAINED,
   TWIN_HO_VIA, TWIN_HO_WAIT_NS, TWIN_HO_TICK_LO_TICK_LO, TWIN_HO_TICK_HI_TICK_HI, TWIN_COUNT_HANDOVERS,
   TWIN_COUNT_DETACHES, TWIN_PLAUS_SEL_CLASS, TWIN_PLAUS_SEL_INDEX, TWIN_PLAUS_STAT_ALARM, TWIN_PLAUS_STAT_DIFF,
   TWIN_EVT_PAIRED, TWIN_EVT_UNPAIRED, TWIN_EVT_HANDOVER, TWIN_EVT_DETACH]
def twinFlds2 : List Fld :=
  [TWIN_EVT_DIVERGE, TWIN_EVT_LAG, TWIN_EVT_LANE, TWIN_EVT_SIDEBAND, TWIN_EVT_PLAUS]
/-- Every field of the TWIN block. -/
def twinFlds : List Fld := twinFlds0 ++ twinFlds1 ++ twinFlds2

/-! ### PWR block, BAR0 0x11000 -/

def PWR_STAT_DEPTH : Fld := ⟨0x11000, 0, 2, 0, .ro⟩
def PWR_STAT_PERMITTED : Fld := ⟨0x11000, 2, 2, 0, .ro⟩
def PWR_STAT_WAKING : Fld := ⟨0x11000, 4, 1, 0, .ro⟩
def PWR_STAT_QUAD_GATED : Fld := ⟨0x11000, 5, 4, 0, .ro⟩
def PWR_STAT_YUZ_GATED : Fld := ⟨0x11000, 9, 1, 0, .ro⟩
def PWR_STAT_DRAM_SR : Fld := ⟨0x11000, 10, 1, 0, .ro⟩
def PWR_STAT_LULL3_BLOCK : Fld := ⟨0x11000, 11, 7, 0, .ro⟩
def PWR_LAT_TOL_US : Fld := ⟨0x11004, 0, 24, 0, .rwl [.operator]⟩  -- reset: Manifest
def PWR_WAKE_EN_CAN : Fld := ⟨0x11008, 0, 8, 0, .rwl [.operator]⟩  -- reset: Manifest
def PWR_WAKE_EN_WAKE_IN : Fld := ⟨0x11008, 8, 1, 0, .rwl [.operator]⟩  -- reset: Manifest
def PWR_WAKE_EN_WAKE_POL : Fld := ⟨0x11008, 9, 1, 0, .rwl [.operator]⟩  -- reset: Manifest
def PWR_WAKE_EN_RTC : Fld := ⟨0x11008, 10, 1, 0, .rwl [.operator]⟩  -- reset: Manifest
def PWR_WAKE_EN_SAFE_IN : Fld := ⟨0x11008, 11, 1, 0, .rwl [.operator]⟩  -- reset: Manifest
def PWR_WAKE_EN_HOST : Fld := ⟨0x11008, 12, 1, 0, .rwl [.operator]⟩  -- reset: Manifest
def PWR_WAKE_SRC_CAN : Fld := ⟨0x1100C, 0, 8, 0, .ro⟩
def PWR_WAKE_SRC_WAKE_IN : Fld := ⟨0x1100C, 8, 1, 0, .ro⟩
def PWR_WAKE_SRC_RTC : Fld := ⟨0x1100C, 10, 1, 0, .ro⟩
def PWR_WAKE_SRC_SAFE_IN : Fld := ⟨0x1100C, 11, 1, 0, .ro⟩
def PWR_WAKE_SRC_HOST : Fld := ⟨0x1100C, 12, 1, 0, .ro⟩
def PWR_WAKE_SRC_POR : Fld := ⟨0x1100C, 13, 1, 1, .ro⟩
def PWR_WAKE_SRC_THERMAL_OFF : Fld := ⟨0x1100C, 14, 1, 0, .ro⟩
def PWR_RTC_ALARM_SEC : Fld := ⟨0x11010, 0, 32, 0, .rwl [.operator]⟩
def PWR_LULL3_ENTRIES : Fld := ⟨0x11014, 0, 16, 0, .ro⟩
def PWR_LULL3_LAST_S : Fld := ⟨0x11014, 16, 16, 0, .ro⟩
def PWR_FC_STAT_LEVEL : Fld := ⟨0x11018, 0, 4, 0, .ro⟩
def PWR_FC_STAT_SHED_D : Fld := ⟨0x11018, 4, 1, 0, .ro⟩
def PWR_FC_STAT_SHED_H : Fld := ⟨0x11018, 5, 1, 0, .ro⟩
def PWR_FC_STAT_SC_LEVEL : Fld := ⟨0x11018, 6, 7, 64, .ro⟩
def PWR_FC_STAT_STRETCH : Fld := ⟨0x11018, 13, 2, 0, .ro⟩
def PWR_FC_STAT_EXCEEDED : Fld := ⟨0x11018, 15, 1, 0, .ro⟩
def PWR_FC_STAT_LIMIT_T : Fld := ⟨0x11018, 16, 1, 0, .ro⟩
def PWR_FC_STAT_LIMIT_P : Fld := ⟨0x11018, 17, 1, 0, .ro⟩
def PWR_FC_STAT_FOLLOWED : Fld := ⟨0x11018, 18, 1, 0, .ro⟩
def PWR_FC_STAT_RESTORE_S : Fld := ⟨0x11018, 19, 10, 0, .ro⟩
def PWR_FC_POWER_PRED_MW : Fld := ⟨0x1101C, 0, 16, 0, .ro⟩
def PWR_FC_POWER_AVG_MW : Fld := ⟨0x1101C, 16, 16, 0, .ro⟩
def PWR_FC_TEMP_PRED_DC : Fld := ⟨0x11020, 0, 16, 0, .ro⟩
def PWR_FC_TEMP_HOT_DC : Fld := ⟨0x11020, 16, 16, 0, .ro⟩
def PWR_FC_CLS_SEL_CLASS : Fld := ⟨0x11024, 0, 3, 0, .rw⟩
def PWR_FC_CLS_K_MW : Fld := ⟨0x11028, 0, 16, 0, .ro⟩
def PWR_FC_CLS_LOAD_PCT : Fld := ⟨0x11028, 16, 7, 0, .ro⟩
def PWR_EVT_DEPTH : Fld := ⟨0x1102C, 0, 1, 0, .w1c⟩
def PWR_EVT_LULL3_IN : Fld := ⟨0x1102C, 1, 1, 0, .w1c⟩
def PWR_EVT_LULL3_OUT : Fld := ⟨0x1102C, 2, 1, 0, .w1c⟩
def PWR_EVT_LEVEL_UP : Fld := ⟨0x1102C, 3, 1, 0, .w1c⟩
def PWR_EVT_LEVEL_DOWN : Fld := ⟨0x1102C, 4, 1, 0, .w1c⟩
def PWR_EVT_EXCEEDED : Fld := ⟨0x1102C, 5, 1, 0, .w1c⟩

def pwrFlds0 : List Fld :=
  [PWR_STAT_DEPTH, PWR_STAT_PERMITTED, PWR_STAT_WAKING, PWR_STAT_QUAD_GATED, PWR_STAT_YUZ_GATED, PWR_STAT_DRAM_SR,
   PWR_STAT_LULL3_BLOCK, PWR_LAT_TOL_US, PWR_WAKE_EN_CAN, PWR_WAKE_EN_WAKE_IN, PWR_WAKE_EN_WAKE_POL, PWR_WAKE_EN_RTC,
   PWR_WAKE_EN_SAFE_IN, PWR_WAKE_EN_HOST, PWR_WAKE_SRC_CAN, PWR_WAKE_SRC_WAKE_IN, PWR_WAKE_SRC_RTC,
   PWR_WAKE_SRC_SAFE_IN, PWR_WAKE_SRC_HOST, PWR_WAKE_SRC_POR]
def pwrFlds1 : List Fld :=
  [PWR_WAKE_SRC_THERMAL_OFF, PWR_RTC_ALARM_SEC, PWR_LULL3_ENTRIES, PWR_LULL3_LAST_S, PWR_FC_STAT_LEVEL,
   PWR_FC_STAT_SHED_D, PWR_FC_STAT_SHED_H, PWR_FC_STAT_SC_LEVEL, PWR_FC_STAT_STRETCH, PWR_FC_STAT_EXCEEDED,
   PWR_FC_STAT_LIMIT_T, PWR_FC_STAT_LIMIT_P, PWR_FC_STAT_FOLLOWED, PWR_FC_STAT_RESTORE_S, PWR_FC_POWER_PRED_MW,
   PWR_FC_POWER_AVG_MW, PWR_FC_TEMP_PRED_DC, PWR_FC_TEMP_HOT_DC, PWR_FC_CLS_SEL_CLASS, PWR_FC_CLS_K_MW]
def pwrFlds2 : List Fld :=
  [PWR_FC_CLS_LOAD_PCT, PWR_EVT_DEPTH, PWR_EVT_LULL3_IN, PWR_EVT_LULL3_OUT, PWR_EVT_LEVEL_UP, PWR_EVT_LEVEL_DOWN,
   PWR_EVT_EXCEEDED]
/-- Every field of the PWR block. -/
def pwrFlds : List Fld := pwrFlds0 ++ pwrFlds1 ++ pwrFlds2

/-! ### THRM block, BAR0 0x12000 -/

def THRM_STAT_HOT_SENSOR : Fld := ⟨0x12000, 0, 5, 0, .ro⟩
def THRM_STAT_BROKEN : Fld := ⟨0x12000, 5, 5, 0, .ro⟩
def THRM_STAT_POLICY : Fld := ⟨0x12000, 10, 1, 0, .ro⟩
def THRM_STAT_NVM_OPEN : Fld := ⟨0x12000, 11, 1, 0, .ro⟩
def THRM_STAT_ALERT : Fld := ⟨0x12000, 12, 1, 0, .ro⟩
def THRM_STAT_AT_SOFT : Fld := ⟨0x12000, 13, 1, 0, .ro⟩
def THRM_STAT_AT_HARD : Fld := ⟨0x12000, 14, 1, 0, .ro⟩
def THRM_STAT_BROKEN_OVER : Fld := ⟨0x12000, 15, 1, 0, .ro⟩
def THRM_STAT_SOFT_C : Fld := ⟨0x12000, 16, 8, 110, .ro⟩
def THRM_HOT_EFF_DC : Fld := ⟨0x12004, 0, 16, 0, .ro⟩
def THRM_HOT_RAW_DC : Fld := ⟨0x12004, 16, 16, 0, .ro⟩
def THRM_MAX_MAX_DC : Fld := ⟨0x12008, 0, 16, 0, .ro⟩
def THRM_MAX_MAX_SENSOR : Fld := ⟨0x12008, 16, 5, 0, .ro⟩
def THRM_SEL_SENSOR : Fld := ⟨0x1200C, 0, 5, 0, .rw⟩
def THRM_SENS_TEMP_DC : Fld := ⟨0x12010, 0, 16, 0, .ro⟩
def THRM_SENS_EFF_DC : Fld := ⟨0x12010, 16, 16, 0, .ro⟩
def THRM_SENS_CNT_COUNT : Fld := ⟨0x12014, 0, 32, 0, .ro⟩
def THRM_SENS_INFO_NB : Fld := ⟨0x12018, 0, 20, 1048575, .ro⟩
def THRM_SENS_INFO_STATE : Fld := ⟨0x12018, 20, 2, 0, .ro⟩
def THRM_SENS_INFO_SUBST : Fld := ⟨0x12018, 22, 1, 0, .ro⟩
def THRM_EVT_BROKEN : Fld := ⟨0x1201C, 0, 1, 0, .w1c⟩
def THRM_EVT_RECOVERED : Fld := ⟨0x1201C, 1, 1, 0, .w1c⟩
def THRM_EVT_SOFT : Fld := ⟨0x1201C, 2, 1, 0, .w1c⟩
def THRM_EVT_HARD : Fld := ⟨0x1201C, 3, 1, 0, .w1c⟩
def THRM_EVT_NVM_CLOSED : Fld := ⟨0x1201C, 4, 1, 0, .w1c⟩
def THRM_EVT_NVM_OPENED : Fld := ⟨0x1201C, 5, 1, 0, .w1c⟩

def thrmFlds0 : List Fld :=
  [THRM_STAT_HOT_SENSOR, THRM_STAT_BROKEN, THRM_STAT_POLICY, THRM_STAT_NVM_OPEN, THRM_STAT_ALERT, THRM_STAT_AT_SOFT,
   THRM_STAT_AT_HARD, THRM_STAT_BROKEN_OVER, THRM_STAT_SOFT_C, THRM_HOT_EFF_DC, THRM_HOT_RAW_DC, THRM_MAX_MAX_DC,
   THRM_MAX_MAX_SENSOR, THRM_SEL_SENSOR, THRM_SENS_TEMP_DC, THRM_SENS_EFF_DC, THRM_SENS_CNT_COUNT, THRM_SENS_INFO_NB,
   THRM_SENS_INFO_STATE, THRM_SENS_INFO_SUBST]
def thrmFlds1 : List Fld :=
  [THRM_EVT_BROKEN, THRM_EVT_RECOVERED, THRM_EVT_SOFT, THRM_EVT_HARD, THRM_EVT_NVM_CLOSED, THRM_EVT_NVM_OPENED]
/-- Every field of the THRM block. -/
def thrmFlds : List Fld := thrmFlds0 ++ thrmFlds1

/-! ### CAN block, BAR0 0x13000 -/

def CAN_STAT_MODE : Fld := ⟨0x13000, 0, 3, 0, .ro⟩
def CAN_STAT_ERR_STATE : Fld := ⟨0x13000, 3, 2, 0, .ro⟩
def CAN_STAT_SQUALL : Fld := ⟨0x13000, 5, 1, 0, .ro⟩
def CAN_STAT_NO_ACK : Fld := ⟨0x13000, 6, 1, 0, .ro⟩
def CAN_STAT_BAND_INTRUDER : Fld := ⟨0x13000, 7, 1, 0, .ro⟩
def CAN_STAT_STB : Fld := ⟨0x13000, 8, 1, 1, .ro⟩
def CAN_STAT_FORMAT : Fld := ⟨0x13000, 9, 2, 0, .ro⟩
def CAN_STAT_N2K : Fld := ⟨0x13000, 11, 1, 0, .ro⟩
def CAN_STAT_PENDING : Fld := ⟨0x13000, 12, 6, 0, .ro⟩
def CAN_STAT_HELD : Fld := ⟨0x13000, 18, 6, 0, .ro⟩
def CAN_ERR_TEC : Fld := ⟨0x13004, 0, 8, 0, .ro⟩
def CAN_ERR_REC : Fld := ⟨0x13004, 8, 8, 0, .ro⟩
def CAN_ERR_BUSOFFS : Fld := ⟨0x13004, 16, 16, 0, .ro⟩
def CAN_NBT_NBRP : Fld := ⟨0x13008, 0, 5, 0, .ro⟩
def CAN_NBT_NTSEG1 : Fld := ⟨0x13008, 5, 8, 0, .ro⟩
def CAN_NBT_NTSEG2 : Fld := ⟨0x13008, 13, 7, 0, .ro⟩
def CAN_NBT_NSJW : Fld := ⟨0x13008, 20, 7, 0, .ro⟩
def CAN_NBT_TRIPLE : Fld := ⟨0x13008, 27, 1, 0, .ro⟩
def CAN_DBT_DBRP : Fld := ⟨0x1300C, 0, 5, 0, .ro⟩
def CAN_DBT_DTSEG1 : Fld := ⟨0x1300C, 5, 5, 0, .ro⟩
def CAN_DBT_DTSEG2 : Fld := ⟨0x1300C, 10, 4, 0, .ro⟩
def CAN_DBT_DSJW : Fld := ⟨0x1300C, 14, 4, 0, .ro⟩
def CAN_TDC_TDC_EN : Fld := ⟨0x13010, 0, 1, 0, .ro⟩
def CAN_TDC_TDCO : Fld := ⟨0x13010, 1, 7, 0, .ro⟩
def CAN_TDC_TDCV : Fld := ⟨0x13010, 8, 8, 0, .ro⟩
def CAN_LOAD_LOAD_PM : Fld := ⟨0x13014, 0, 10, 0, .ro⟩
def CAN_LOAD_PEAK_PM : Fld := ⟨0x13014, 10, 10, 0, .ro⟩
def CAN_SQ_HOLD_PCT : Fld := ⟨0x13018, 0, 7, 70, .ro⟩
def CAN_SQ_RELEASE_PCT : Fld := ⟨0x13018, 7, 7, 60, .ro⟩
def CAN_SQ_HOLDS : Fld := ⟨0x13018, 14, 16, 0, .ro⟩
def CAN_RX_CNT_FRAMES : Fld := ⟨0x1301C, 0, 16, 0, .ro⟩
def CAN_RX_CNT_UNMATCHED : Fld := ⟨0x1301C, 16, 16, 0, .ro⟩
def CAN_TX_CNT_FRAMES : Fld := ⟨0x13020, 0, 16, 0, .ro⟩
def CAN_TX_CNT_ONESHOT_FAIL : Fld := ⟨0x13020, 16, 8, 0, .ro⟩
def CAN_TX_CNT_LATE_CANCEL : Fld := ⟨0x13020, 24, 8, 0, .ro⟩
def CAN_ERR_CNT_ACK : Fld := ⟨0x13024, 0, 8, 0, .ro⟩
def CAN_ERR_CNT_CRC : Fld := ⟨0x13024, 8, 8, 0, .ro⟩
def CAN_ERR_CNT_STUFF_FORM : Fld := ⟨0x13024, 16, 8, 0, .ro⟩
def CAN_ERR_CNT_BIT : Fld := ⟨0x13024, 24, 8, 0, .ro⟩
def CAN_LEC_LEC : Fld := ⟨0x13028, 0, 3, 0, .ro⟩
def CAN_LEC_DATA_PHASE : Fld := ⟨0x13028, 3, 1, 0, .ro⟩
def CAN_LEC_PEXC : Fld := ⟨0x13028, 4, 8, 0, .ro⟩
def CAN_LEC_REMOTE : Fld := ⟨0x13028, 12, 8, 0, .ro⟩
def CAN_BAND_TOP : Fld := ⟨0x1302C, 0, 11, 0, .ro⟩
def CAN_BAND_ENABLED : Fld := ⟨0x1302C, 11, 1, 0, .ro⟩
def CAN_BAND_INTRUDERS : Fld := ⟨0x1302C, 12, 8, 0, .ro⟩
def CAN_BAND_LAST_ID : Fld := ⟨0x1302C, 20, 11, 0, .ro⟩
def CAN_MB_SEL_MB : Fld := ⟨0x13030, 0, 5, 0, .rw⟩
def CAN_MB_STAT_STATUS : Fld := ⟨0x13034, 0, 4, 0, .ro⟩
def CAN_MB_STAT_ONESHOT : Fld := ⟨0x13034, 4, 1, 0, .ro⟩
def CAN_MB_STAT_URGENT : Fld := ⟨0x13034, 5, 1, 0, .ro⟩
def CAN_MB_STAT_OWNER : Fld := ⟨0x13034, 6, 2, 0, .ro⟩
def CAN_MB_STAT_FAIL_KIND : Fld := ⟨0x13034, 8, 3, 0, .ro⟩
def CAN_MB_STAT_DLC : Fld := ⟨0x13034, 12, 4, 0, .ro⟩
def CAN_MB_STAT_ATTEMPTS : Fld := ⟨0x13034, 16, 16, 0, .ro⟩
def CAN_MB_ID_ID : Fld := ⟨0x13038, 0, 29, 0, .ro⟩
def CAN_MB_ID_IDE : Fld := ⟨0x13038, 29, 1, 0, .ro⟩
def CAN_MB_ID_FDF : Fld := ⟨0x13038, 30, 1, 0, .ro⟩
def CAN_MB_ID_BRS : Fld := ⟨0x13038, 31, 1, 0, .ro⟩
def CAN_FLT_SEL_FLT : Fld := ⟨0x1303C, 0, 6, 0, .rw⟩
def CAN_FLT_CFG_DEST : Fld := ⟨0x13040, 0, 2, 0, .ro⟩
def CAN_FLT_CFG_IDE : Fld := ⟨0x13040, 2, 1, 0, .ro⟩
def CAN_FLT_CFG_KIND : Fld := ⟨0x13040, 3, 2, 0, .ro⟩
def CAN_FLT_CFG_WAKE : Fld := ⟨0x13040, 5, 1, 0, .ro⟩
def CAN_FLT_CFG_ENABLED : Fld := ⟨0x13040, 6, 1, 0, .ro⟩
def CAN_FLT_CFG_PIGEONHOLE : Fld := ⟨0x13040, 8, 7, 0, .ro⟩
def CAN_FLT_CFG_LAYOUT : Fld := ⟨0x13040, 16, 16, 0, .ro⟩
def CAN_FLT_ID_ID : Fld := ⟨0x13044, 0, 29, 0, .ro⟩
def CAN_FLT_MASK_MASK : Fld := ⟨0x13048, 0, 29, 0, .ro⟩
def CAN_FLT_HIT_HITS : Fld := ⟨0x1304C, 0, 16, 0, .ro⟩
def CAN_FLT_HIT_SHORT : Fld := ⟨0x1304C, 16, 16, 0, .ro⟩
def CAN_N2K_ADDR : Fld := ⟨0x13050, 0, 8, 0, .ro⟩
def CAN_N2K_CLAIMED : Fld := ⟨0x13050, 8, 1, 0, .ro⟩
def CAN_N2K_CANNOT_CLAIM : Fld := ⟨0x13050, 9, 1, 0, .ro⟩
def CAN_N2K_LOSSES : Fld := ⟨0x13050, 10, 8, 0, .ro⟩
def CAN_CMD_RECOVER : Fld := ⟨0x13054, 0, 1, 0, .rwl [.operator]⟩
def CAN_EVT_BUSOFF : Fld := ⟨0x13058, 0, 1, 0, .w1c⟩
def CAN_EVT_PASSIVE : Fld := ⟨0x13058, 1, 1, 0, .w1c⟩
def CAN_EVT_NO_ACK : Fld := ⟨0x13058, 2, 1, 0, .w1c⟩
def CAN_EVT_SQUALL : Fld := ⟨0x13058, 3, 1, 0, .w1c⟩
def CAN_EVT_BAND : Fld := ⟨0x13058, 4, 1, 0, .w1c⟩
def CAN_EVT_ONESHOT_FAIL : Fld := ⟨0x13058, 5, 1, 0, .w1c⟩
def CAN_EVT_LATE_CANCEL : Fld := ⟨0x13058, 6, 1, 0, .w1c⟩
def CAN_EVT_ES_NEW : Fld := ⟨0x13058, 7, 1, 0, .w1c⟩
def CAN_EVT_ES_LOST : Fld := ⟨0x13058, 8, 1, 0, .w1c⟩
def CAN_EVT_N2K : Fld := ⟨0x13058, 9, 1, 0, .w1c⟩
def CAN_ES_ID_ID : Fld := ⟨0x13100, 0, 29, 0, .ro⟩
def CAN_ES_ID_IDE : Fld := ⟨0x13100, 29, 1, 0, .ro⟩
def CAN_ES_ID_FDF : Fld := ⟨0x13100, 30, 1, 0, .ro⟩
def CAN_ES_ID_BRS : Fld := ⟨0x13100, 31, 1, 0, .ro⟩
def CAN_ES_INFO_DLC : Fld := ⟨0x13104, 0, 4, 0, .ro⟩
def CAN_ES_INFO_LEN : Fld := ⟨0x13104, 4, 7, 0, .ro⟩
def CAN_ES_INFO_ESI : Fld := ⟨0x13104, 11, 1, 0, .ro⟩
def CAN_ES_INFO_SEQ : Fld := ⟨0x13104, 16, 16, 0, .ro⟩
def CAN_ES_PM_PM32 : Fld := ⟨0x13108, 0, 32, 0, .ro⟩
def CAN_ES_LOST_OVERWRITE : Fld := ⟨0x1310C, 0, 16, 0, .ro⟩
def CAN_ES_LOST_SHADOW_LOST : Fld := ⟨0x1310C, 16, 16, 0, .ro⟩
def CAN_ES_DATA_DATA : Fld := ⟨0x13110, 0, 32, 0, .ro⟩
def CAN_ES_STAT_NEW : Fld := ⟨0x13150, 0, 1, 0, .ro⟩
def CAN_ES_STAT_LOCKED : Fld := ⟨0x13150, 1, 1, 0, .ro⟩
def CAN_ES_STAT_SHADOW_FULL : Fld := ⟨0x13150, 2, 1, 0, .ro⟩
def CAN_ES_STAT_LOCK_TIMEOUT : Fld := ⟨0x13150, 3, 1, 0, .w1c⟩
def CAN_ES_CFG_ID : Fld := ⟨0x13154, 0, 29, 0, .ro⟩
def CAN_ES_CFG_IDE : Fld := ⟨0x13154, 29, 1, 0, .ro⟩
def CAN_ES_CFG_ENABLED : Fld := ⟨0x13154, 30, 1, 0, .ro⟩
def CAN_ES_CFG_WAKE : Fld := ⟨0x13154, 31, 1, 0, .ro⟩
def CAN_ES_MASK_MASK : Fld := ⟨0x13158, 0, 29, 0, .ro⟩

def canFlds0 : List Fld :=
  [CAN_STAT_MODE, CAN_STAT_ERR_STATE, CAN_STAT_SQUALL, CAN_STAT_NO_ACK, CAN_STAT_BAND_INTRUDER, CAN_STAT_STB,
   CAN_STAT_FORMAT, CAN_STAT_N2K, CAN_STAT_PENDING, CAN_STAT_HELD, CAN_ERR_TEC, CAN_ERR_REC, CAN_ERR_BUSOFFS,
   CAN_NBT_NBRP, CAN_NBT_NTSEG1, CAN_NBT_NTSEG2, CAN_NBT_NSJW, CAN_NBT_TRIPLE, CAN_DBT_DBRP, CAN_DBT_DTSEG1]
def canFlds1 : List Fld :=
  [CAN_DBT_DTSEG2, CAN_DBT_DSJW, CAN_TDC_TDC_EN, CAN_TDC_TDCO, CAN_TDC_TDCV, CAN_LOAD_LOAD_PM, CAN_LOAD_PEAK_PM,
   CAN_SQ_HOLD_PCT, CAN_SQ_RELEASE_PCT, CAN_SQ_HOLDS, CAN_RX_CNT_FRAMES, CAN_RX_CNT_UNMATCHED, CAN_TX_CNT_FRAMES,
   CAN_TX_CNT_ONESHOT_FAIL, CAN_TX_CNT_LATE_CANCEL, CAN_ERR_CNT_ACK, CAN_ERR_CNT_CRC, CAN_ERR_CNT_STUFF_FORM,
   CAN_ERR_CNT_BIT, CAN_LEC_LEC]
def canFlds2 : List Fld :=
  [CAN_LEC_DATA_PHASE, CAN_LEC_PEXC, CAN_LEC_REMOTE, CAN_BAND_TOP, CAN_BAND_ENABLED, CAN_BAND_INTRUDERS,
   CAN_BAND_LAST_ID, CAN_MB_SEL_MB, CAN_MB_STAT_STATUS, CAN_MB_STAT_ONESHOT, CAN_MB_STAT_URGENT, CAN_MB_STAT_OWNER,
   CAN_MB_STAT_FAIL_KIND, CAN_MB_STAT_DLC, CAN_MB_STAT_ATTEMPTS, CAN_MB_ID_ID, CAN_MB_ID_IDE, CAN_MB_ID_FDF,
   CAN_MB_ID_BRS, CAN_FLT_SEL_FLT]
def canFlds3 : List Fld :=
  [CAN_FLT_CFG_DEST, CAN_FLT_CFG_IDE, CAN_FLT_CFG_KIND, CAN_FLT_CFG_WAKE, CAN_FLT_CFG_ENABLED, CAN_FLT_CFG_PIGEONHOLE,
   CAN_FLT_CFG_LAYOUT, CAN_FLT_ID_ID, CAN_FLT_MASK_MASK, CAN_FLT_HIT_HITS, CAN_FLT_HIT_SHORT, CAN_N2K_ADDR,
   CAN_N2K_CLAIMED, CAN_N2K_CANNOT_CLAIM, CAN_N2K_LOSSES, CAN_CMD_RECOVER, CAN_EVT_BUSOFF, CAN_EVT_PASSIVE,
   CAN_EVT_NO_ACK, CAN_EVT_SQUALL]
def canFlds4 : List Fld :=
  [CAN_EVT_BAND, CAN_EVT_ONESHOT_FAIL, CAN_EVT_LATE_CANCEL, CAN_EVT_ES_NEW, CAN_EVT_ES_LOST, CAN_EVT_N2K,
   CAN_ES_ID_ID, CAN_ES_ID_IDE, CAN_ES_ID_FDF, CAN_ES_ID_BRS, CAN_ES_INFO_DLC, CAN_ES_INFO_LEN, CAN_ES_INFO_ESI,
   CAN_ES_INFO_SEQ, CAN_ES_PM_PM32, CAN_ES_LOST_OVERWRITE, CAN_ES_LOST_SHADOW_LOST, CAN_ES_DATA_DATA, CAN_ES_STAT_NEW,
   CAN_ES_STAT_LOCKED]
def canFlds5 : List Fld :=
  [CAN_ES_STAT_SHADOW_FULL, CAN_ES_STAT_LOCK_TIMEOUT, CAN_ES_CFG_ID, CAN_ES_CFG_IDE, CAN_ES_CFG_ENABLED,
   CAN_ES_CFG_WAKE, CAN_ES_MASK_MASK]
/-- Every field of the CAN block. -/
def canFlds : List Fld := canFlds0 ++ canFlds1 ++ canFlds2 ++ canFlds3 ++ canFlds4 ++ canFlds5

/-! ### ETH block, BAR0 0x15000 -/

def ETH_STAT_LINK : Fld := ⟨0x15000, 0, 1, 0, .ro⟩
def ETH_STAT_SPEED : Fld := ⟨0x15000, 1, 2, 0, .ro⟩
def ETH_STAT_IFACE : Fld := ⟨0x15000, 3, 2, 0, .ro⟩
def ETH_STAT_FAULT : Fld := ⟨0x15000, 5, 1, 0, .ro⟩
def ETH_STAT_PRP : Fld := ⟨0x15000, 6, 1, 0, .ro⟩
def ETH_STAT_SQUALL : Fld := ⟨0x15000, 7, 1, 0, .ro⟩
def ETH_STAT_TX_ON : Fld := ⟨0x15000, 8, 1, 0, .ro⟩
def ETH_STAT_VLAN_ID : Fld := ⟨0x15000, 9, 12, 0, .ro⟩
def ETH_RX_CNT_FRAMES : Fld := ⟨0x15004, 0, 16, 0, .ro⟩
def ETH_RX_CNT_UNMATCHED : Fld := ⟨0x15004, 16, 16, 0, .ro⟩
def ETH_TX_CNT_FRAMES : Fld := ⟨0x15008, 0, 16, 0, .ro⟩
def ETH_TX_CNT_GUARD_HOLDS : Fld := ⟨0x15008, 16, 16, 0, .ro⟩
def ETH_ERR_CNT_FCS : Fld := ⟨0x1500C, 0, 8, 0, .ro⟩
def ETH_ERR_CNT_LENGTH : Fld := ⟨0x1500C, 8, 8, 0, .ro⟩
def ETH_ERR_CNT_BAD_PAYLOAD : Fld := ⟨0x1500C, 16, 8, 0, .ro⟩
def ETH_ERR_CNT_SHORT : Fld := ⟨0x1500C, 24, 8, 0, .ro⟩
def ETH_LOAD_LOAD_PM : Fld := ⟨0x15010, 0, 10, 0, .ro⟩
def ETH_LOAD_PEAK_PM : Fld := ⟨0x15010, 10, 10, 0, .ro⟩
def ETH_SQ_HOLD_PCT : Fld := ⟨0x15014, 0, 7, 70, .ro⟩
def ETH_SQ_RELEASE_PCT : Fld := ⟨0x15014, 7, 7, 60, .ro⟩
def ETH_SQ_HOLDS : Fld := ⟨0x15014, 14, 8, 0, .ro⟩
def ETH_SQ_BC_DROPS : Fld := ⟨0x15014, 22, 10, 0, .ro⟩
def ETH_PRP_DUPLICATES : Fld := ⟨0x15018, 0, 16, 0, .ro⟩
def ETH_PRP_WRONG_LAN : Fld := ⟨0x15018, 16, 16, 0, .ro⟩
def ETH_GCL_ENTRIES : Fld := ⟨0x1501C, 0, 7, 0, .ro⟩
def ETH_GCL_CURRENT : Fld := ⟨0x1501C, 7, 6, 0, .ro⟩
def ETH_GCL_REPHASED : Fld := ⟨0x1501C, 13, 1, 0, .w1c⟩
def ETH_TS_LAT_TX_NS : Fld := ⟨0x15020, 0, 16, 0, .ro⟩
def ETH_TS_LAT_RX_NS : Fld := ⟨0x15020, 16, 16, 0, .ro⟩
def ETH_FLT_SEL_FLT : Fld := ⟨0x15024, 0, 5, 0, .rw⟩
def ETH_FLT_CFG_DEST : Fld := ⟨0x15028, 0, 2, 0, .ro⟩
def ETH_FLT_CFG_ENABLED : Fld := ⟨0x15028, 2, 1, 0, .ro⟩
def ETH_FLT_CFG_WAKE : Fld := ⟨0x15028, 3, 1, 0, .ro⟩
def ETH_FLT_CFG_PIGEONHOLE : Fld := ⟨0x15028, 4, 7, 0, .ro⟩
def ETH_FLT_CFG_KIND : Fld := ⟨0x15028, 11, 3, 0, .ro⟩
def ETH_FLT_CFG_LAYOUT : Fld := ⟨0x15028, 14, 8, 0, .ro⟩
def ETH_FLT_HIT_HITS : Fld := ⟨0x1502C, 0, 32, 0, .ro⟩
def ETH_Q_SEL_QUEUE : Fld := ⟨0x15030, 0, 3, 0, .rw⟩
def ETH_Q_STAT_DEPTH : Fld := ⟨0x15034, 0, 8, 0, .ro⟩
def ETH_Q_STAT_GATE_OPEN : Fld := ⟨0x15034, 8, 1, 0, .ro⟩
def ETH_Q_STAT_SENT : Fld := ⟨0x15034, 9, 23, 0, .ro⟩
def ETH_EVT_LINK : Fld := ⟨0x15044, 0, 1, 0, .w1c⟩
def ETH_EVT_SQUALL : Fld := ⟨0x15044, 1, 1, 0, .w1c⟩
def ETH_EVT_FAULT : Fld := ⟨0x15044, 2, 1, 0, .w1c⟩
def ETH_EVT_PRP_LAN : Fld := ⟨0x15044, 3, 1, 0, .w1c⟩
def ETH_HOST_STAT_PCIE_UP : Fld := ⟨0x15200, 0, 1, 0, .ro⟩
def ETH_HOST_STAT_PCIE_GEN : Fld := ⟨0x15200, 1, 2, 0, .ro⟩
def ETH_HOST_STAT_PCIE_WIDTH : Fld := ⟨0x15200, 3, 2, 0, .ro⟩
def ETH_HOST_STAT_SESSION_PORT : Fld := ⟨0x15200, 5, 1, 0, .ro⟩
def ETH_HOST_CNT_SPI_BAD : Fld := ⟨0x15204, 0, 16, 0, .ro⟩
def ETH_HOST_CNT_PARTIAL_WR : Fld := ⟨0x15204, 16, 16, 0, .ro⟩
def ETH_DISP_STAT_RUNNING : Fld := ⟨0x15208, 0, 1, 0, .ro⟩
def ETH_DISP_STAT_SEQ : Fld := ⟨0x15208, 16, 16, 0, .ro⟩
def ETH_WR_STAT_RUNNING : Fld := ⟨0x1520C, 0, 1, 0, .ro⟩
def ETH_WR_STAT_FULL : Fld := ⟨0x1520C, 1, 1, 0, .ro⟩
def ETH_WR_STAT_POLICY : Fld := ⟨0x1520C, 2, 1, 0, .ro⟩
def ETH_WR_STAT_LOST : Fld := ⟨0x1520C, 16, 16, 0, .ro⟩
def ETH_WR_HEAD_LO_SEQ : Fld := ⟨0x15210, 0, 32, 0, .ro⟩
def ETH_WR_HEAD_HI_SEQ : Fld := ⟨0x15214, 0, 32, 0, .ro⟩
def ETH_WR_ACK_LO_SEQ : Fld := ⟨0x15218, 0, 32, 0, .rw⟩
def ETH_WR_ACK_HI_SEQ : Fld := ⟨0x1521C, 0, 32, 0, .rw⟩
def ETH_WR_OFS_TILE : Fld := ⟨0x15220, 0, 12, 0, .rw⟩
def ETH_WR_OFS_BLOCK : Fld := ⟨0x15220, 12, 8, 0, .rw⟩
def ETH_WR_WIN_DATA : Fld := ⟨0x15300, 0, 32, 0, .ro⟩

def ethFlds0 : List Fld :=
  [ETH_STAT_LINK, ETH_STAT_SPEED, ETH_STAT_IFACE, ETH_STAT_FAULT, ETH_STAT_PRP, ETH_STAT_SQUALL, ETH_STAT_TX_ON,
   ETH_STAT_VLAN_ID, ETH_RX_CNT_FRAMES, ETH_RX_CNT_UNMATCHED, ETH_TX_CNT_FRAMES, ETH_TX_CNT_GUARD_HOLDS,
   ETH_ERR_CNT_FCS, ETH_ERR_CNT_LENGTH, ETH_ERR_CNT_BAD_PAYLOAD, ETH_ERR_CNT_SHORT, ETH_LOAD_LOAD_PM,
   ETH_LOAD_PEAK_PM, ETH_SQ_HOLD_PCT, ETH_SQ_RELEASE_PCT]
def ethFlds1 : List Fld :=
  [ETH_SQ_HOLDS, ETH_SQ_BC_DROPS, ETH_PRP_DUPLICATES, ETH_PRP_WRONG_LAN, ETH_GCL_ENTRIES, ETH_GCL_CURRENT,
   ETH_GCL_REPHASED, ETH_TS_LAT_TX_NS, ETH_TS_LAT_RX_NS, ETH_FLT_SEL_FLT, ETH_FLT_CFG_DEST, ETH_FLT_CFG_ENABLED,
   ETH_FLT_CFG_WAKE, ETH_FLT_CFG_PIGEONHOLE, ETH_FLT_CFG_KIND, ETH_FLT_CFG_LAYOUT, ETH_FLT_HIT_HITS, ETH_Q_SEL_QUEUE,
   ETH_Q_STAT_DEPTH, ETH_Q_STAT_GATE_OPEN]
def ethFlds2 : List Fld :=
  [ETH_Q_STAT_SENT, ETH_EVT_LINK, ETH_EVT_SQUALL, ETH_EVT_FAULT, ETH_EVT_PRP_LAN, ETH_HOST_STAT_PCIE_UP,
   ETH_HOST_STAT_PCIE_GEN, ETH_HOST_STAT_PCIE_WIDTH, ETH_HOST_STAT_SESSION_PORT, ETH_HOST_CNT_SPI_BAD,
   ETH_HOST_CNT_PARTIAL_WR, ETH_DISP_STAT_RUNNING, ETH_DISP_STAT_SEQ, ETH_WR_STAT_RUNNING, ETH_WR_STAT_FULL,
   ETH_WR_STAT_POLICY, ETH_WR_STAT_LOST, ETH_WR_HEAD_LO_SEQ, ETH_WR_HEAD_HI_SEQ, ETH_WR_ACK_LO_SEQ]
def ethFlds3 : List Fld :=
  [ETH_WR_ACK_HI_SEQ, ETH_WR_OFS_TILE, ETH_WR_OFS_BLOCK, ETH_WR_WIN_DATA]
/-- Every field of the ETH block. -/
def ethFlds : List Fld := ethFlds0 ++ ethFlds1 ++ ethFlds2 ++ ethFlds3

/-! ### LOG block, BAR0 0x16000 -/

def LOG_STAT_HOLD_REASON : Fld := ⟨0x16000, 0, 3, 0, .ro⟩
def LOG_STAT_OPEN : Fld := ⟨0x16000, 3, 1, 0, .ro⟩
def LOG_STAT_ERASING : Fld := ⟨0x16000, 4, 1, 0, .ro⟩
def LOG_STAT_FLASH_ERR : Fld := ⟨0x16000, 5, 1, 0, .w1c⟩
def LOG_STAT_RAM_75 : Fld := ⟨0x16000, 6, 1, 0, .ro⟩
def LOG_STAT_HOLD_USED : Fld := ⟨0x16000, 16, 11, 0, .ro⟩
def LOG_HEAD_SEQ_LO_SEQ : Fld := ⟨0x16004, 0, 32, 0, .ro⟩
def LOG_HEAD_SEQ_HI_SEQ : Fld := ⟨0x16008, 0, 32, 0, .ro⟩
def LOG_FLUSH_SEQ_LO_SEQ : Fld := ⟨0x1600C, 0, 32, 0, .ro⟩
def LOG_FLUSH_SEQ_HI_SEQ : Fld := ⟨0x16010, 0, 32, 0, .ro⟩
def LOG_OLDEST_SEQ_LO_SEQ : Fld := ⟨0x16014, 0, 32, 0, .ro⟩
def LOG_OLDEST_SEQ_HI_SEQ : Fld := ⟨0x16018, 0, 32, 0, .ro⟩
def LOG_UNFLUSHED_COUNT : Fld := ⟨0x1601C, 0, 15, 0, .ro⟩
def LOG_LOST_RAM : Fld := ⟨0x16020, 0, 16, 0, .ro⟩
def LOG_LOST_HOLD : Fld := ⟨0x16020, 16, 16, 0, .ro⟩
def LOG_RD_SEQ_LO_SEQ : Fld := ⟨0x16024, 0, 32, 0, .rw⟩
def LOG_RD_SEQ_HI_SEQ : Fld := ⟨0x16028, 0, 32, 0, .rw⟩
def LOG_RD_STAT_BUSY : Fld := ⟨0x1602C, 0, 1, 0, .ro⟩
def LOG_RD_STAT_READY : Fld := ⟨0x1602C, 1, 1, 0, .ro⟩
def LOG_RD_STAT_HELD : Fld := ⟨0x1602C, 2, 6, 0, .ro⟩
def LOG_MARK_SEL_SLOT : Fld := ⟨0x16030, 0, 3, 0, .rw⟩
def LOG_MARK_LO_SEQ : Fld := ⟨0x16034, 0, 32, 0, .rw⟩
def LOG_MARK_HI_SEQ : Fld := ⟨0x16038, 0, 32, 0, .rw⟩
def LOG_MARK_STAT_PERSISTED : Fld := ⟨0x1603C, 0, 1, 1, .ro⟩
def LOG_MARK_STAT_REFUSED : Fld := ⟨0x1603C, 1, 1, 0, .w1c⟩
def LOG_MARK_UNREAD_COUNT : Fld := ⟨0x16040, 0, 32, 0, .ro⟩
def LOG_ERASE_KEY : Fld := ⟨0x16044, 0, 32, 0, .rwl [.maker]⟩
def LOG_ERASED_LO_SEQ : Fld := ⟨0x16048, 0, 32, 0, .ro⟩
def LOG_ERASED_HI_SEQ : Fld := ⟨0x1604C, 0, 32, 0, .ro⟩
def LOG_EVT_LOST : Fld := ⟨0x16050, 0, 1, 0, .w1c⟩
def LOG_EVT_FLASH_ERR : Fld := ⟨0x16050, 1, 1, 0, .w1c⟩
def LOG_EVT_RAM_75 : Fld := ⟨0x16050, 2, 1, 0, .w1c⟩
def LOG_EVT_ERASED : Fld := ⟨0x16050, 3, 1, 0, .w1c⟩
def LOG_EVT_MARK_REFUSED : Fld := ⟨0x16050, 4, 1, 0, .w1c⟩
def LOG_WIN_DATA : Fld := ⟨0x16800, 0, 32, 0, .ro⟩

def logFlds0 : List Fld :=
  [LOG_STAT_HOLD_REASON, LOG_STAT_OPEN, LOG_STAT_ERASING, LOG_STAT_FLASH_ERR, LOG_STAT_RAM_75, LOG_STAT_HOLD_USED,
   LOG_HEAD_SEQ_LO_SEQ, LOG_HEAD_SEQ_HI_SEQ, LOG_FLUSH_SEQ_LO_SEQ, LOG_FLUSH_SEQ_HI_SEQ, LOG_OLDEST_SEQ_LO_SEQ,
   LOG_OLDEST_SEQ_HI_SEQ, LOG_UNFLUSHED_COUNT, LOG_LOST_RAM, LOG_LOST_HOLD, LOG_RD_SEQ_LO_SEQ, LOG_RD_SEQ_HI_SEQ,
   LOG_RD_STAT_BUSY, LOG_RD_STAT_READY, LOG_RD_STAT_HELD]
def logFlds1 : List Fld :=
  [LOG_MARK_SEL_SLOT, LOG_MARK_LO_SEQ, LOG_MARK_HI_SEQ, LOG_MARK_STAT_PERSISTED, LOG_MARK_STAT_REFUSED,
   LOG_MARK_UNREAD_COUNT, LOG_ERASE_KEY, LOG_ERASED_LO_SEQ, LOG_ERASED_HI_SEQ, LOG_EVT_LOST, LOG_EVT_FLASH_ERR,
   LOG_EVT_RAM_75, LOG_EVT_ERASED, LOG_EVT_MARK_REFUSED, LOG_WIN_DATA]
/-- Every field of the LOG block. -/
def logFlds : List Fld := logFlds0 ++ logFlds1

/-! ### PGN block, BAR0 0x17000 -/

def PGN_CFG_RING_LOG2 : Fld := ⟨0x17000, 0, 4, 0, .ro⟩
def PGN_CFG_LOC : Fld := ⟨0x17000, 4, 1, 0, .ro⟩
def PGN_CFG_POLICY : Fld := ⟨0x17000, 5, 1, 0, .ro⟩
def PGN_CFG_HOST_CONSUMER : Fld := ⟨0x17000, 6, 1, 0, .ro⟩
def PGN_CFG_HOST_PRODUCER : Fld := ⟨0x17000, 7, 1, 0, .ro⟩
def PGN_CFG_FUNC : Fld := ⟨0x17000, 8, 5, 0, .ro⟩
def PGN_STAT_FILL : Fld := ⟨0x17004, 0, 13, 0, .ro⟩
def PGN_STAT_EMPTY : Fld := ⟨0x17004, 13, 1, 1, .ro⟩
def PGN_STAT_LOST : Fld := ⟨0x17004, 14, 1, 0, .w1c⟩
def PGN_STAT_WORD : Fld := ⟨0x17004, 15, 5, 0, .ro⟩
def PGN_STAT_PEAK : Fld := ⟨0x17004, 20, 12, 0, .ro⟩
def PGN_HEAD_INDEX : Fld := ⟨0x17008, 0, 32, 0, .ro⟩
def PGN_TAIL_INDEX : Fld := ⟨0x1700C, 0, 32, 0, .ro⟩
def PGN_DROP_DROPPED : Fld := ⟨0x17010, 0, 16, 0, .ro⟩
def PGN_DROP_DEAD : Fld := ⟨0x17010, 16, 16, 0, .ro⟩
def PGN_RD_DATA : Fld := ⟨0x17014, 0, 32, 0, .ro⟩
def PGN_WR_DATA : Fld := ⟨0x17018, 0, 32, 0, .wo⟩
def PGN_CTL_RESTART : Fld := ⟨0x1701C, 0, 1, 0, .wo⟩
def PGN_CTL_DISCARD : Fld := ⟨0x1701C, 1, 1, 0, .wo⟩

def pgnFlds0 : List Fld :=
  [PGN_CFG_RING_LOG2, PGN_CFG_LOC, PGN_CFG_POLICY, PGN_CFG_HOST_CONSUMER, PGN_CFG_HOST_PRODUCER, PGN_CFG_FUNC,
   PGN_STAT_FILL, PGN_STAT_EMPTY, PGN_STAT_LOST, PGN_STAT_WORD, PGN_STAT_PEAK, PGN_HEAD_INDEX, PGN_TAIL_INDEX,
   PGN_DROP_DROPPED, PGN_DROP_DEAD, PGN_RD_DATA, PGN_WR_DATA, PGN_CTL_RESTART, PGN_CTL_DISCARD]
/-- Every field of the PGN block. -/
def pgnFlds : List Fld := pgnFlds0

/-! ### IRQ block, BAR0 0x18000 -/

def IRQ_ARMED_ARMED : Fld := ⟨0x18300, 0, 32, 4294967295, .ro⟩
def IRQ_ACK_VECTOR : Fld := ⟨0x18304, 0, 5, 0, .wo⟩
def IRQ_SRC_SEL_SOURCE : Fld := ⟨0x18308, 0, 8, 0, .rw⟩
def IRQ_ROUTE_VECTOR : Fld := ⟨0x1830C, 0, 5, 0, .rw⟩  -- reset: Manifest
def IRQ_ROUTE_EN : Fld := ⟨0x1830C, 8, 1, 0, .rw⟩  -- reset: Manifest
def IRQ_SRC_STAT_PENDING : Fld := ⟨0x18310, 0, 1, 0, .ro⟩
def IRQ_VEC_PEND_PENDING : Fld := ⟨0x18314, 0, 32, 0, .ro⟩
def IRQ_FIRED_COUNT : Fld := ⟨0x18318, 0, 32, 0, .ro⟩

def irqFlds0 : List Fld :=
  [IRQ_ARMED_ARMED, IRQ_ACK_VECTOR, IRQ_SRC_SEL_SOURCE, IRQ_ROUTE_VECTOR, IRQ_ROUTE_EN, IRQ_SRC_STAT_PENDING,
   IRQ_VEC_PEND_PENDING, IRQ_FIRED_COUNT]
/-- Every field of the IRQ block. -/
def irqFlds : List Fld := irqFlds0

/-- Every register field of the device. -/
def allFlds : List Fld :=
  devFlds ++ modeFlds ++ mnfFlds ++ roleFlds ++ timeFlds ++ gnssFlds ++ estFlds ++ helmFlds ++ allocFlds ++ yuzFlds ++ loopFlds ++ mfnFlds ++ adcFlds ++ clpFlds ++ stepFlds ++ safeFlds ++ twinFlds ++ pwrFlds ++ thrmFlds ++ canFlds ++ ethFlds ++ logFlds ++ pgnFlds ++ irqFlds

/-- Every event bit of the EVT registers (R476). -/
def evtFlds0 : List Fld :=
  [ MODE_EVT_MODE_CHANGED, MODE_EVT_CMD_DONE, MODE_EVT_CMD_REFUSED, MODE_EVT_SAFE_ENTERED, MODE_EVT_PAIR_HOLD,
   TIME_EVT_STEP, TIME_EVT_SRC_CHANGE, TIME_EVT_HOLD_ENTER, TIME_EVT_LOCK, TIME_EVT_UNC_OVER, TIME_EVT_GRID_DONE,
   TIME_EVT_LEAP, GNSS_EVT_FIX_LOST, GNSS_EVT_FIX_GAINED, GNSS_EVT_SLEPT, GNSS_EVT_WOKE, GNSS_EVT_FE_FAULT,
   GNSS_EVT_RETAIN_BAD, EST_EVT_DISPUTE, EST_EVT_DISPUTE_END]
def evtFlds1 : List Fld :=
  [EST_EVT_POS_DR, EST_EVT_POS_LOST, EST_EVT_REINIT, EST_EVT_HDG_LOST, EST_EVT_SLOT_CHANGE, EST_EVT_OVERRUN,
   HELM_EVT_LAW_CHANGED, HELM_EVT_CMD_REFUSED, HELM_EVT_BLEND_LONG, HELM_EVT_MISS, HELM_EVT_TERMS_OFF,
   HELM_EVT_TARGET, HELM_EVT_JOY_LOST, HELM_EVT_NUMERIC, ALLOC_EVT_THR_STATE, ALLOC_EVT_SHORT, ALLOC_EVT_CONS_ALARM,
   ALLOC_EVT_A_MISS, ALLOC_EVT_C_MISS, ALLOC_EVT_TRIM]
def evtFlds2 : List Fld :=
  [ALLOC_EVT_PWR_UNKNOWN, ALLOC_EVT_NUMERIC, ALLOC_EVT_CMD_REFUSED, YUZ_EVT_MISS, YUZ_EVT_EXPIRED, YUZ_EVT_SAT,
   YUZ_EVT_CLAMPED, YUZ_EVT_STANDBY_LAG, YUZ_EVT_SELFTEST_FAIL, LOOP_EVT_MISS, LOOP_EVT_CELL_FAULT, LOOP_EVT_SAT,
   LOOP_EVT_INJ_END, LOOP_EVT_CAP_DONE, LOOP_EVT_FF_FADE, LOOP_EVT_SAFE_LAW, MFN_EVT_STATE_CHANGE,
   MFN_EVT_REARM_LATCHED, MFN_EVT_FAULT, MFN_EVT_STOP_TIMEOUT]
def evtFlds3 : List Fld :=
  [MFN_EVT_CMD_REFUSED, ADC_EVT_FAULT, ADC_EVT_RECOVERED, ADC_EVT_OVR, ADC_EVT_CLIP, ADC_EVT_OVERRUN, ADC_EVT_REF,
   CLP_EVT_COMPLIANCE, CLP_EVT_ALARM, CLP_EVT_THERMAL, CLP_EVT_NTC_FAULT, CLP_EVT_HART_FAIL, CLP_EVT_HART_ID,
   CLP_EVT_LOOP_IN, STEP_EVT_FAULT, STEP_EVT_STALL, STEP_EVT_POS_LOST, STEP_EVT_HOMED, STEP_EVT_INPUT_HALT,
   STEP_EVT_CMD_REFUSED]
def evtFlds4 : List Fld :=
  [SAFE_EVT_LOCKOUT, SAFE_EVT_RUN, SAFE_EVT_OUT_OFF, SAFE_EVT_VIOL, SAFE_EVT_WARN, SAFE_EVT_TEST_DEFER,
   SAFE_EVT_RESET_REFUSED, TWIN_EVT_PAIRED, TWIN_EVT_UNPAIRED, TWIN_EVT_HANDOVER, TWIN_EVT_DETACH, TWIN_EVT_DIVERGE,
   TWIN_EVT_LAG, TWIN_EVT_LANE, TWIN_EVT_SIDEBAND, TWIN_EVT_PLAUS, PWR_EVT_DEPTH, PWR_EVT_LULL3_IN, PWR_EVT_LULL3_OUT,
   PWR_EVT_LEVEL_UP]
def evtFlds5 : List Fld :=
  [PWR_EVT_LEVEL_DOWN, PWR_EVT_EXCEEDED, THRM_EVT_BROKEN, THRM_EVT_RECOVERED, THRM_EVT_SOFT, THRM_EVT_HARD,
   THRM_EVT_NVM_CLOSED, THRM_EVT_NVM_OPENED, CAN_EVT_BUSOFF, CAN_EVT_PASSIVE, CAN_EVT_NO_ACK, CAN_EVT_SQUALL,
   CAN_EVT_BAND, CAN_EVT_ONESHOT_FAIL, CAN_EVT_LATE_CANCEL, CAN_EVT_ES_NEW, CAN_EVT_ES_LOST, CAN_EVT_N2K,
   ETH_EVT_LINK, ETH_EVT_SQUALL]
def evtFlds6 : List Fld :=
  [ETH_EVT_FAULT, ETH_EVT_PRP_LAN, LOG_EVT_LOST, LOG_EVT_FLASH_ERR, LOG_EVT_RAM_75, LOG_EVT_ERASED,
   LOG_EVT_MARK_REFUSED, DEV_EVT_ALARM_RAISED, DEV_EVT_ALARM_CLEARED, DEV_EVT_FAULT, DEV_EVT_DEAD_LETTER,
   DEV_EVT_PGN_OVERFLOW]
def evtFlds : List Fld := evtFlds0 ++ evtFlds1 ++ evtFlds2 ++ evtFlds3 ++ evtFlds4 ++ evtFlds5 ++ evtFlds6

end Sys2Proof.Machine.R
end

