-- ==== Sys2Proof/Machine/State.lean ====
section
/-!
DEFINITION. The state of the block, as plain data: every register field in one sparse table, and beside it whatever the
spec gives the block that no register holds; the ways a command can end; and the state after reset.
-/

namespace Sys2Proof.Machine

/-! ### Points, pigeonholes, alarms and records -/

/-- The part of a point-table entry that changes at run time (R31, R501), and the conditions of R12 that decide its quality
code: what the writer gave, and what the device found since. `at` is the up-time of the last write (R36). -/
structure Pt where
  value : Nat := 0
  pm : Pm := ⟨0, 0⟩
  unsync : Bool := false
  updates : Nat := 0
  written : Bool := false
  wq : Quality := .good
  stale : Bool := true
  masked : Bool := false
  substituted : Bool := false
  at_ : Nat := 0
  deriving DecidableEq, Repr

/-- An input that waits for the end of its tick (R358): an inbound point write, or an envelope from the host (R474). -/
inductive Input where
  | point (idx value : Nat) (pm : Pm) (q : Quality)
  | env (n kind origin : Nat) (payload : List Nat) (pm : Pm)
  | host (n : Nat) (words : List Nat) (pm : Pm)
  deriving DecidableEq, Repr

/-- One envelope of a pigeonhole (R468). -/
structure Env where
  kind : Nat
  unsync : Bool
  first : Bool
  last : Bool
  len : Nat
  part : Nat
  reason : Nat := 0
  seq : Nat
  pm : Pm
  origin : Nat
  dest : Nat
  payload : List Nat
  deriving DecidableEq, Repr

/-- A pigeonhole's run-time state: its ring, oldest envelope first, its message counter (R470), and for each host port the
next word of PGN_RD and the words of a partly written host envelope (R473, R474). -/
structure Pgn where
  ring : List Env := []
  seq : Nat := 0
  wordP : Nat := 0
  wordS : Nat := 0
  bufP : List Nat := []
  bufS : List Nat := []
  deriving DecidableEq, Repr

/-- An alarm entry that is not FREE (R462): its code and SOURCE, and the STATE code 1 RAISED-UNACK, 2 RAISED-ACK or 3
CLEARED-UNACK. -/
structure AlarmEnt where
  code : Nat
  source : Nat
  st : Nat
  deriving DecidableEq, Repr

/-- A recorder record (R444) without its CRC, which its content fixes. -/
structure Rec where
  seq : Nat
  pm : Pm
  code : Nat
  source : Nat
  role : Role
  unsync : Bool
  alarm : Bool
  clear : Bool
  repSat : Bool := false
  held : Bool := false
  keyId : Nat
  rep : Nat := 0
  keyLen : Nat
  last : Pm
  data : List Nat
  deriving DecidableEq, Repr

/-- The event recorder (R444 to R457). Lists hold the newest record first. -/
structure RecSt where
  head : Nat := 0
  ram : List Rec := []
  hold : List Rec := []
  flash : Tab Rec := []
  flushed : Nat := 0
  isOpen : Bool := false
  lastAt : Nat := 0
  lostSeqs : List Nat := []
  lostRam : Nat := 0
  lostHold : Nat := 0
  lostFirstR : Nat := 0
  lostFirstH : Nat := 0
  markLo : Nat := 0
  marks : Tab Nat := []
  persisted : Tab Nat := []
  erasedTo : Nat := 0
  erasedAhead : Nat := 3
  ringState : Nat := 0
  rdSeq : Nat := 0
  fetchAt : Option Nat := none
  window : List (Option Rec) := []
  latchHi : Tab Nat := []
  heldAt : Option Nat := none
  heldNoted : Bool := false
  deriving DecidableEq, Repr

/-- A point write of a host port that waits for its commit (R466): the low half and the quality staged. -/
structure Staged where
  idx : Nat := 0
  low : Nat := 0
  quality : Quality := .good
  deriving DecidableEq, Repr

/-- What a host port has latched: the entry bytes of the point window (R465), as the eight words of an entry and its
index, and the value its last read returned. -/
structure HostPort where
  page : Nat := 0
  staged : Staged := {}
  latched : Option (Nat × List Nat) := none
  rdata : Nat := 0
  deriving DecidableEq, Repr

/-! ### Power, MUSTER, manifest and roles -/

/-- Supplies, resets and the MUSTER sequence (R45, R494 to R498). `railOk` lists the rails in range; `wakeN`: WAKE_N and
HOST_WAKE_N are held low (R439, R440); `perst`: PERST_N is high; `woke` and `shutNote`: a wake and a shut-down that the recorder has not noted yet. -/
structure MusterSt where
  aonAt : Option Nat := none
  enIo : Bool := false
  enCore : Bool := false
  railOk : List Rail := []
  porLow : Bool := true
  running : Bool := false
  wake : Bool := false
  thermalOff : Bool := false
  at_ : Nat := 0
  straps : Straps := {}
  pllFailedAt : Option Nat := none
  pllLocked : Bool := false
  haltPll : Option Nat := none
  tried : List Nat := []
  header : Option Header := none
  capacity : Nat := 0
  loaded : Bool := false
  bistOk : Bool := false
  dramUp : Bool := false
  dramGib : Nat := 0
  dramTrained : Bool := false
  pairAt : Nat := 0
  seatBAt : Option Nat := none
  pairStart : Option Nat := none
  pairingNs : Nat := 0
  runInAt : Nat := 0
  reached : Bool := false
  offIoAt : Option Nat := none
  dormantAt : Option Nat := none
  wakeLatched : Bool := false
  brown : Bool := false
  porReset : Bool := false
  modeReset : Option Nat := none
  ioAt : Nat := 0
  flashFault : Bool := false
  wakeN : Bool := false
  perst : Bool := false
  wakeAt : Option Nat := none
  woke : Bool := false
  shutNote : Option (Nat × Int × Nat × Nat) := none
  deriving DecidableEq, Repr

/-- A mode command that waits for its boundary (R52). -/
structure PendingMode where
  target : Nat
  tag : Nat
  src : CmdSrc
  keyId : Nat
  seq : Nat
  deriving DecidableEq, Repr


/-- A running INSTALL or RESTORE (R87, R88): its command, the step that waits, and the image. -/
structure Install where
  cmd : Nat
  step : Nat
  image : SlotImage
  deriving DecidableEq, Repr

/-- A remote node's roll-call state (R74). `next` is a change that a reply decided and that the next frame boundary makes. -/
structure NodeSt where
  st : Nat := 0
  mark : Nat := 0
  match_ : Nat := 0
  missRun : Nat := 0
  goodRun : Nat := 0
  repliedSeq : Nat := 0
  next : Option Nat := none
  deriving DecidableEq, Repr

/-- A block signal of a function-block list (R78): a Q32.32 value (a Boolean is 0 or 1 in Q32.32) and its quality. -/
structure Sig where
  v : Int := 0
  q : Quality := .good
  deriving DecidableEq, Repr

/-- A list's run-time state (R77 to R80): its last outputs, the state its blocks keep, the input snapshot of the evaluation
in progress, whether one is in progress, whether the next is to be skipped, the overrun run and the SAT count. -/
structure FblSt where
  outs : List Sig := []
  mem : List (Int × Int) := []
  errs : List Bool := []
  snap : Tab Sig := []
  busy : Bool := false
  skip : Bool := false
  run : Nat := 0
  overruns : Nat := 0
  sat : Nat := 0
  deriving DecidableEq, Repr

/-- A waiting journal item (R89 to R91): its kind (1 keys, 2 check value, 3 install state, 4 ring state and marks) and its
payload. -/
structure JItem where
  kind : Nat
  payload : List Nat
  deriving DecidableEq, Repr

/-- The manifest machinery: slots, staging area, installation, journal, roll call, function-block lists and parameter
changes. `journal` gives, for each item kind, the newest valid copy: its sector half, sequence number and payload. -/
structure MnfSt where
  slotA : Option SlotImage := none
  slotB : Option SlotImage := none
  stage : List Host.Cell := []
  install : Option Install := none
  journal : Tab (Nat × Nat × List Nat) := []
  waiting : List JItem := []
  logCopies : Nat := 0
  nodes : Tab NodeSt := []
  rollSeq : Nat := 0
  rollAt : Nat := 0
  rollSent : Nat := 0
  fbl : Tab FblSt := []
  tuned : Tab Int := []
  tunePending : List (Nat × Int × Nat) := []
  pendingMode : Option PendingMode := none
  resetKeyAt : Option Nat := none
  safePending : Option Nat := none
  safeKind : Nat := 0
  giveUpAt : Option Nat := none
  deriving DecidableEq, Repr

/-- Keys, challenge and session (R81 to R85). A key is its 32 bytes as a number, byte 0 most significant, and its identity. -/
structure RoleSt where
  owner : Port := .pcie
  keyId : Nat := 0
  rwlAt : Nat := 0
  chalAt : Nat := 0
  lockAt : Option Nat := none
  makerKey : Option (Nat × Nat) := none
  instKey : Option (Nat × Nat) := none
  operKey : Option (Nat × Nat) := none
  uid : Nat := 0
  deriving DecidableEq, Repr

/-! ### Timebase -/

/-- A PTP port's run-time state (R100, R113): the last eight offset estimates in ns, newest first, the grandmaster's
clockClass and identity, and the up-times of its last Sync, Announce and request. -/
structure PtpPort where
  offsets : List Int := []
  gmClass : Nat := 248
  gmId : Nat := 0
  syncAt : Nat := 0
  announceAt : Nat := 0
  sentSync : Nat := 0
  sentAnnounce : Nat := 0
  sentReq : Nat := 0
  lastClass : Nat := 248
  lastSource : Nat := 0xA0
  lastAccuracy : Nat := 0x30
  deriving DecidableEq, Repr

/-- The time counter and what steers it (R95 to R116). Counts are in units of 2^-32 ns, R95's fraction. `rate` is the rate
correction in ppb. -/
structure TimeSt where
  running : Bool := false
  count : Nat := 0
  rtc : Nat := 0
  rtcOk : Bool := false
  rtcMain : Bool := false
  rate : Rat := 0
  fixAt : Option Nat := none
  fixSrc : Nat := 0
  fixOfs : Int := 0
  pulses : List Int := []
  live : List Nat := []
  seenAt : Tab Nat := []
  ofs : Tab Int := []
  lockedRates : List Rat := []
  below : Nat := 0
  holdAt : Nat := 0
  u0 : Rat := 0
  unc : Rat := 0
  tickCycles : Nat := 4000
  gridFrom : Int := 0
  gridAt : Nat := 0
  ppsHigh : Bool := false
  ppsAt : Nat := 0
  ppsInAt : Option Nat := none
  takeoverAt : Option Nat := none
  utcAnnounced : Option Int := none
  utcKept : Option Int := none
  extOk : Bool := false
  offsetAlarm : Bool := false
  uncAlarm : Bool := false
  ptp : Tab PtpPort := []
  trigAt : Tab Nat := []
  deriving DecidableEq, Repr

/-! ### Satellite receiver -/

/-- What the receiver holds beside its registers (R120 to R132): faulted bands, a sleep request, a refresh that runs, the
satellites searched again, and the solution of the last epoch that waits to be written. -/
structure GnssSt where
  fault1 : Bool := false
  fault5 : Bool := false
  faultAt1 : Nat := 0
  faultAt5 : Nat := 0
  sleepReq : Bool := false
  refreshAt : Option Nat := none
  poweredAt : Nat := 0
  firstDone : Bool := false
  solsRun : Nat := 0
  sol : Option GnssSol := none
  epochAt : Nat := 0
  epochPm : Pm := ⟨0, 0⟩
  reacqAt : Tab Nat := []
  wide : List Nat := []
  coldReq : Bool := false
  lastOffset : Option Int := none
  deriving DecidableEq, Repr

/-! ### Estimator -/

/-- What a source slot holds beside its registers (R138 to R154): when its last usable sample came and its value last
changed, its raw value, the last 64 clock offsets, the runs of R140, R151 and R152, and the last claim. -/
structure EstSlotSt where
  lastAt : Nat := 0
  changedAt : Nat := 0
  raw : List Nat := []
  seen : Bool := false
  offsets : List Int := []
  skewRun : Nat := 0
  skewMask : Bool := false
  reentry : Nat := 0
  fails : Nat := 0
  passed : Bool := true
  fresh : Bool := false
  holdAt : Nat := 0
  claim : List Rat := []
  sigma : Rat := 0
  sigma2 : Rat := 0
  deriving DecidableEq, Repr

/-- A dispute of a group (R150, R151): when it began, its run of agreeing updates, and whether a deselect leaves it to the
next vote. -/
structure Dispute where
  since : Nat
  agree : Nat := 0
  decide_ : Bool := false
  deriving DecidableEq, Repr

/-- An object track's run-time state beside its registers (R161, R162): when it was last updated, its passing samples, and
each source's run of gate failures, and the excluded sources (0 to 7 named, 8 + n slot n). -/
structure TrackSt where
  lastAt : Nat := 0
  passes : Nat := 0
  fails : Tab Nat := []
  excluded : List Nat := []
  deriving DecidableEq, Repr

/-- An accepted slot command (R153): slot, action, when, and the identity and record it came with. -/
structure EstCmd where
  slot : Nat
  action : Nat
  at_ : Nat
  keyId : Nat
  seq : Nat
  deriving DecidableEq, Repr

/-- The estimator (R136 to R167). `running` is the boundary of the update in progress: up-time and device time in ns. Pair runs
are keyed by 32 times the lower slot plus the higher. Groups: 0 EARTH position, 1 to 64 position of track 0 to 63, 65
heading, 66 MRU, 67 wind. -/
structure EstSt where
  slots : Tab EstSlotSt := []
  running : Option (Nat × Int) := none
  abandons : Nat := 0
  seq : Nat := 0
  cmds : List EstCmd := []
  disputes : Tab Dispute := []
  pairRuns : Tab Nat := []
  drPosAt : Option Nat := none
  drHdgAt : Option Nat := none
  outPos : Option (Rat × Rat) := none
  outHdg : Option Rat := none
  corrPos : Bool := false
  corrHdg : Bool := false
  alarmDr : Bool := false
  alarmPosLost : Bool := false
  alarmHdgLost : Bool := false
  mruAt : Option Nat := none
  mruFirst : Option Nat := none
  freqs : List Rat := []
  peakAt : Nat := 0
  tracks : Tab TrackSt := []
  fbPos : Nat := 31
  fbHdg : Nat := 31
  boundary : Pm := ⟨0, 0⟩
  nu : List Rat := [0, 0, 0]
  trackVals : Tab (List Rat) := []
  deriving DecidableEq, Repr

/-! ### Helm -/

/-- A law or setpoint command that waits for its boundary (R172): KIND 0 law, 1 setpoint; its target, tag, who gave it, and the
record that accepted it. -/
structure HelmCmd where
  kind : Nat
  target : Nat
  tag : Nat
  role : Role
  keyId : Nat
  seq : Nat
  deriving DecidableEq, Repr

/-- A setpoint as committed (R173, R181, R183): KIND, the two lengths in mm, the heading in 0.001°, the track, the heading mode,
the speed in mm/s, and the route in mm. -/
structure SpVal where
  kind : Nat
  a : Int := 0
  b : Int := 0
  hdg : Int := 0
  track : Nat := 0
  hdgFixed : Bool := false
  speed : Nat := 0
  route : List (Int × Int) := []
  deriving DecidableEq, Repr

/-- A running blend (R188, R189): cycles since its boundary, its length in cycles (0: not set yet), the frozen force, and
whether it leads to READY. -/
structure Blend where
  n : Nat := 0
  len : Nat := 0
  old : List Rat := [0, 0, 0]
  toReady : Bool := false
  deriving DecidableEq, Repr

/-- One axis of the shaper (R186): value, rate and acceleration. -/
structure Shape where
  x : Rat := 0
  v : Rat := 0
  a : Rat := 0
  deriving DecidableEq, Repr

/-- The helm (R170 to R194). The horizontal reference stands at `org` + `path.x` · `dir`, on a line that ends at `len`; under
TRACK `path.x` is the length run along the route. `bk` is the boundary of the cycle: up-time, device time, tick. -/
structure HelmSt where
  lawPend : Option HelmCmd := none
  spPend : Option (HelmCmd × SpVal) := none
  sp : Option SpVal := none
  route : List (Int × Int) := []
  path : Shape := {}
  yaw : Shape := {}
  org : Rat × Rat := (0, 0)
  dir : Rat × Rat := (1, 0)
  len : Rat := 0
  braking : Bool := false
  bk : Nat := 0
  bkPm : Pm := ⟨0, 0⟩
  bkNs : Nat := 0
  bkTick : Nat := 0
  cycle : Nat := 0
  buildDue : Bool := false
  solving : Option Nat := none
  tauOut : List Rat := [0, 0, 0]
  tauNew : List Rat := [0, 0, 0]
  manual : List Rat := [0, 0, 0]
  lastValid : Option (List Rat) := none
  trackSp : Option SpVal := none
  blend : Option Blend := none
  joyLost : List Bool := [false, false, false]
  level : Nat := 64
  fast : Bool := false
  lost : Bool := false
  restart : Bool := false
  deriving DecidableEq, Repr

/-! ### Allocation -/

/-- A thruster's run-time state (R198 to R207): operator and follow latches, the follow timers, the command last released, the
release buffer, and whether its azimuth lay in a zone. -/
structure ThrSt where
  deselected : Bool := false
  follow : Bool := false
  overAt : Option Nat := none
  badAt : Option Nat := none
  outT : Rat := 0
  outAz : Rat := 0
  bufT : Rat := 0
  bufAz : Rat := 0
  inZone : Bool := false
  deriving DecidableEq, Repr

/-- A bus's last usable available power and when it was read (R196). -/
structure BusSt where
  last : Rat := 0
  lastAt : Nat := 0
  unknown : Bool := false
  deriving DecidableEq, Repr

/-- An operator command for a thruster (R199): thruster, ACTION, key and record. -/
structure ThrCmd where
  thr : Nat
  action : Nat
  keyId : Nat
  deriving DecidableEq, Repr

/-- Allocation and consequence analysis (R195 to R217). -/
structure AllocSt where
  thr : Tab ThrSt := []
  buses : Tab BusSt := []
  cmds : List ThrCmd := []
  solving : Option Nat := none
  consSolving : Option Nat := none
  consCycle : Option Nat := none
  bufOk : Bool := false
  tau : List Rat := [0, 0, 0]
  deficit : List Rat := [0, 0, 0]
  cap : List Rat := [0, 0, 0]
  shortRun : Nat := 0
  shortClear : Nat := 0
  cases : Tab (List Rat) := []
  consTau : List Rat := [0, 0, 0]
  consNom : List Rat := [0, 0, 0]
  clearRun : Nat := 0
  missAt : List Nat := []
  deriving DecidableEq, Repr

/-! ### Solver array -/

/-- A batch descriptor as submitted (R223): its kind (1 HELM, 2 ALLOC, 3 CONS, 4 SELFTEST), class (1 C, 2 A, 3 H), items,
iterations, tile mask, whether it is coupled, its operation codes, its deadline as a 32-bit postmark, its sequence number, the
cycles of an item for one iteration solo and in a pair, and when it was submitted. -/
structure Batch where
  kind : Nat
  cls : Nat
  items : Nat
  iter : Nat
  mask : Nat
  coupled : Bool
  ops : List Nat
  deadline : Nat
  seq : Nat
  solo : Nat
  pair : Nat
  at_ : Nat
  deriving DecidableEq, Repr

/-- The solver array (R219 to R236). Items are numbered kind times 256 plus index. `held` is a standby's own outcome that waits
for the active's verdict; `verdicts` are the active's, by SEQ, with the time of arrival; `busy` holds the intervals of the last second with their tile masks. -/
structure YuzSt where
  queue : List Batch := []
  run : Option Batch := none
  startAt : Nat := 0
  seq : Nat := 0
  items : Tab ItemRes := []
  areas : Tab (List Int) := []
  verdicts : Tab (Option (Nat × Nat) × Nat) := []
  held : Option (List ItemRes) := none
  sent : Option (Nat × Option (Nat × Nat)) := none
  busy : List (Nat × Nat × Nat) := []
  deriving DecidableEq, Repr

/-! ### Loop cells and machine functions -/

/-- A test injection (R254, R255): what START took from the registers, when it was accepted, whether its frame boundary has
passed, when it started, the chirp's phase in turns, and the shift register with its runs left. -/
structure InjSt where
  shape : Nat
  out : Bool
  linear : Bool
  order : Nat
  bitRuns : Nat
  amp : Int
  f0 : Nat
  f1 : Nat
  dur : Nat
  keyId : Nat
  at_ : Nat
  due : Bool := false
  startAt : Option Nat := none
  phase : Rat := 0
  reg : Nat := 0
  left : Nat := 0
  deriving DecidableEq, Repr

/-- A loop cell beside its registers (R240 to R258). Signals are Q2.30, `i` (or c3), `d`, `w1` and `w2` Q8.56. `u` stands from
`uAt` on, `uOld` before; `ran` is the tick of the last run or miss. -/
structure CellSt where
  held : Bool := true
  started : Bool := false
  raw : Int := 0
  holdY : Bool := false
  r : Int := 0
  v : Int := 0
  u : Int := 0
  uOld : Int := 0
  uAt : Nat := 0
  ran : Option Nat := none
  pm : Pm := ⟨0, 0⟩
  ys : List Int := []
  rawSeen : Int := 0
  outer : Int := 0
  e : Int := 0
  ff : Int := 0
  ffV : Rat := 0
  g : Rat := 0
  inj : Int := 0
  q1 : Int := 0
  x1 : Int := 0
  x2 : Int := 0
  i : Int := 0
  d : Int := 0
  w1 : Int := 0
  w2 : Int := 0
  prev : Tab Nat := []
  safe : Nat := 0
  frozen : Int := 0
  clampAt : Option Nat := none
  watchOk : Bool := false
  test : Option InjSt := none
  deriving DecidableEq, Repr

/-- An encoder interface (R245): its live count and the count its index latched. -/
structure EncSt where
  count : Nat := 0
  latched : Option Nat := none
  deriving DecidableEq, Repr

/-- A PWM channel (R247): shadow and compare values in units of 78.125 ps, whether a cell drives it, and its period's start. -/
structure PwmSt where
  shadow : Nat := 0
  compare : Nat := 0
  on : Bool := false
  periodAt : Nat := 0
  deriving DecidableEq, Repr

/-- A capture unit (R256): samples, newest first, with the postmark of each; the sample in progress and its runs; and whether the
trigger sample is the next one. -/
structure CapSt where
  ring : List (List Int × Nat) := []
  acc : List Int := [0, 0, 0, 0]
  n : Nat := 0
  trig : Bool := false
  cause : Nat := 0
  deriving DecidableEq, Repr

/-- An Operator command for a machine function that waits for its frame boundary (R260). -/
structure FnCmd where
  action : Nat
  tag : Nat
  keyId : Nat
  at_ : Nat
  deriving DecidableEq, Repr

/-- A machine function beside its registers (R260 to R263): when it entered its state and began its stop, the waiting command,
EN at the last boundary, the causes of this fault with the tick each was last present, and since when all cells lie in the
band. -/
structure FnSt where
  since : Nat := 0
  stopAt : Nat := 0
  cmd : Option FnCmd := none
  en : Bool := false
  causes : Tab Nat := []
  bandAt : Option Nat := none
  deriving DecidableEq, Repr

/-- A committed set of a hull point (R164, R252): B_f in ns of device time, the three values and the quality. -/
structure HullSet where
  bf : Int
  z : Rat
  v : Rat
  a : Rat
  q : Quality
  deriving DecidableEq, Repr

/-- The loop fabric. `tickAt` and `tickNs` are the up-time and device time of the tick boundary, `latched` what a read of
LOOP_CELL_SP latched: cell, PV, OUT and FF. -/
structure LoopSt where
  cells : Tab CellSt := []
  encs : Tab EncSt := []
  pwm : Tab PwmSt := []
  caps : Tab CapSt := []
  fns : Tab FnSt := []
  hull : List HullSet := []
  hullNext : Option (List HullSet) := none
  tickAt : Nat := 0
  tickNs : Nat := 0
  pwmSyncAt : Nat := 0
  latched : Option (Nat × Int × Int × Int) := none
  deriving DecidableEq, Repr

/-! ### Converters -/

/-- A converter channel beside its registers (R278 to R283): when its filter was reset (or that a reset waits for the tick
boundary), its last result with postmark and the up-time it was ready, its count, the results of the frame, a SAR burst's
start, ignored triggers, and a standby's own last result. -/
structure ConvSt where
  settleAt : Nat := 0
  settleDue : Bool := false
  res : Int := 0
  pm : Pm := ⟨0, 0⟩
  readyAt : Option Nat := none
  updates : Nat := 0
  sum : Int := 0
  n : Nat := 0
  flagged : Bool := false
  burstAt : Option Nat := none
  ignored : Nat := 0
  own : Int := 0
  ne43 : Nat := 0
  deriving DecidableEq, Repr

/-- The converters: channels by number, REF_FAULT, and what a read of ADC_CH_RES latched: channel, postmark, UPDATES. -/
structure AdcSt where
  chs : Tab ConvSt := []
  refFault : Bool := false
  latched : Option (Nat × Nat × Nat) := none
  deriving DecidableEq, Repr

/-! ### Current loops and HART -/

/-- An output channel (R289 to R294): currents in mA, voltages in V, temperatures in °C. `req` is its request; the times say since
when the point is unusable, the compliance conditions hold, and they are absent. -/
structure ClpSt where
  req : Rat := 0
  cellReq : Rat := 0
  cellOff : Bool := true
  lastGood : Rat := 0
  badAt : Option Nat := none
  failed : Bool := false
  subst : Bool := false
  out : Rat := 0
  code : Nat := 0
  gate : Bool := false
  sink : Rat := 0
  meas : Rat := 0
  vpt : Rat := 0
  supply : Rat := 0
  condAt : Option Nat := none
  clearAt : Option Nat := none
  openOff : Option Nat := none
  ntc : Rat := 0
  pf : Rat := 0
  est : Rat := 0
  ceiling : Option Rat := none
  rl : Rat := 0
  deriving DecidableEq, Repr

/-- A modem's transaction (R297): the address, the command, the number of its poll entry (none: identification), and the
attempts made. -/
structure HartTx where
  addr : Nat
  cmd : Nat
  entry : Option Nat
  tries : Nat := 1
  deriving DecidableEq, Repr

/-- A modem: its transaction, when each entry was last begun, the addresses identified and those that failed, failures by address,
and a pause that waits for the transaction's end. -/
structure HartSt where
  tx : Option HartTx := none
  lastAt : Tab Nat := []
  ident : List Nat := []
  failed : Tab Nat := []
  asked : List Nat := []
  fails : Tab Nat := []
  pauseDue : Bool := false
  idAt : Tab Nat := []
  deriving DecidableEq, Repr

/-- The current loops. -/
structure ClpAll where
  chs : Tab ClpSt := []
  modems : Tab HartSt := []
  deriving DecidableEq, Repr

/-! ### Microstep channels -/

/-- A coil's chopper (R305 to R307): bridge state 0 OFF, 1 DRIVE+, 2 DRIVE−, 3 SLOW; whether a drive phase runs and since when;
the length of the last drive phase in cycles; the offset in A; and the run of short drive phases. -/
structure CoilSt where
  bridge : Nat := 0
  drive : Bool := false
  driveAt : Nat := 0
  tOn : Nat := 0
  ofs : Rat := 0
  early : Bool := false
  shorts : Nat := 0
  deriving DecidableEq, Repr

/-- A channel (R309 to R321): position in units of 2^-32 microstep, speed and acceleration, motion kind (0 none, 1 MOVE, 2
VELOCITY), target, limits in force, E_OFS, amplitude, load angle and its run, the ramp after OFF, when motion ended, the switch
levels with the update that began them, the latch, and where SEEK started. -/
structure StepSt where
  pos : Int := 0
  v : Rat := 0
  a : Rat := 0
  kind : Nat := 0
  target : Int := 0
  speed : Rat := 0
  scale : Rat := 1
  eOfs : Int := 0
  amp : Rat := 0
  angle : Nat := 0
  rises : Nat := 0
  noRise : Nat := 0
  rampAt : Option Nat := none
  restAt : Nat := 0
  idle : Bool := false
  stopTick : Option Nat := none
  sw : SwLevels := {}
  homeAt : Nat := 0
  homePosAt : Int := 0
  negAt : Nat := 0
  posAt : Nat := 0
  latch : Int := 0
  seekFrom : Int := 0
  chatter : Nat := 0
  byPoint : Bool := false
  coilA : CoilSt := {}
  coilB : CoilSt := {}
  deriving DecidableEq, Repr

/-- An Installer command that waits for its frame boundary (R311). -/
structure StepCmd where
  cmd : Nat
  ch : Nat
  tag : Nat
  arg : Int
  port : Port
  keyId : Nat
  at_ : Nat
  deriving DecidableEq, Repr

/-- The microstep channels and the commands that wait. -/
structure StepAll where
  chs : Tab StepSt := []
  cmds : List StepCmd := []
  deriving DecidableEq, Repr

/-! ### Safety island -/

/-- A safe input's filtered channels (true: the contact is closed; none: no level has held for FILTER yet), and since when they
disagree. -/
structure SafeInSt where
  a : Option Bool := none
  b : Option Bool := none
  discAt : Option Nat := none
  deriving DecidableEq, Repr

/-- A safe output (R330, R339 to R342): the demand evaluated and applied, its channels' levels, the test in progress (true:
channel B) with its start, runs of deferrals, the reason of the demand, when the output last switched, when its permit or off request changed, and the
channels whose off-check is due. -/
structure SafeOutSt where
  demand : Bool := false
  on : Bool := false
  chA : Bool := false
  chB : Bool := false
  test : Option (Bool × Nat) := none
  deferA : Nat := 0
  deferB : Nat := 0
  reason : Nat := 0
  switchedAt : Option Nat := none
  reqAt : Option Nat := none
  dueA : Bool := false
  dueB : Bool := false
  deriving DecidableEq, Repr

/-- An axis (R332 to R336): counts and zero of p1 and p2, the positions of the last cycles (newest first), SLS ramp, SDI's furthest
positions, since when the measurements differ or agree, the limits passed in the cycle in progress and in the last completed
one, and the last edge error. -/
structure AxisSt where
  c1 : Int := 0
  c2 : Int := 0
  z1 : Rat := 0
  z2 : Rat := 0
  p1s : List Rat := []
  p2s : List Rat := []
  referenced : Bool := false
  rampFrom : Rat := 0
  rampAt : Nat := 0
  level : Nat := 0
  sdiMax : Option (Rat × Rat) := none
  diffAt : Option Nat := none
  agreeAt : Option Nat := none
  cur : Nat := 0
  done : Nat := 0
  errAt : Option Nat := none
  deriving DecidableEq, Repr

/-- The island (R327 to R348). `causes` are the lock-out causes found since the last RUN, first one last, each with the index it
names. Masks have a bit per output, input or EDM. -/
structure IslSt where
  present : Bool := false
  startAt : Nat := 0
  causes : List (Nat × Nat) := []
  ins : Tab SafeInSt := []
  outs : Tab SafeOutSt := []
  axes : Tab AxisSt := []
  edm : Nat := 0
  rbA : Nat := 0
  rbB : Nat := 0
  permit : Nat := 0
  permitAt : Option Nat := none
  offReq : Nat := 0
  stuck : Bool := false
  cvKey : Nat := 0
  deriving DecidableEq, Repr

/-! ### Twin pairing -/

/-- The twin link and the comparison (R353 to R368). `records` holds the active's input records of ticks not yet replayed. -/
structure TwinSt where
  peer : Option PeerInfo := none
  syncAt : Nat := 0
  syncBlocks : Nat := 0
  syncRetryAt : Nat := 0
  lane0At : Option Nat := none
  lane1At : Option Nat := none
  silentAt : Option Nat := none
  giveUpRxAt : Option Nat := none
  giveUpCause : Nat := 0
  lagRun : Nat := 0
  mismatch : List Nat := []
  records : List TwinRec := []
  commands : List CmdRec := []
  seals : List Seal := []
  peerStatus : Nat := 0
  peerLag : Nat := 0
  okLowAt : Option Nat := none
  resent : Nat := 0
  plausSince : Tab Nat := []
  unpairedReason : Nat := 0
  unpairedAlarm : Bool := false
  wakeForwards : Nat := 0
  hoTick : Nat := 0
  tickBytes : Nat := 0
  deriving DecidableEq, Repr

/-! ### Lull depths, temperature sensors and the Forecaster -/

/-- Lull depths and the Forecaster (R374 to R379, R389 to R392). `l3`: 0 awake, 1 in LULL3, 2 waking, 3 awake with work suspended;
whether this device follows the active into it, since when, since when the conditions of R377 hold, the tick at which the warm-up
ends, the wake event forwarded, the gap depths by domain (4 is YUZ), P_avg, P and T
predicted at the levels, the level of the device's own prediction, since when the next lower level
fits, and the busy fractions planned. -/
structure PwrSt where
  l3 : Nat := 0
  follower : Bool := false
  since : Nat := 0
  okSince : Option Nat := none
  warmEnd : Option Nat := none
  forwarded : Option Nat := none
  gaps : Tab Nat := []
  pAvg : Option Rat := none
  preds : List (Rat × Rat) := []
  own : Nat := 0
  restoreAt : Option Nat := none
  planned : List Rat := []
  deriving DecidableEq, Repr

/-- A temperature sensor (R382, R383): the last window's count and temperature in 0.1 °C, windows in a row with this count, good
windows in a row, and whether the count is in band. -/
structure SensSt where
  count : Nat := 0
  temp : Int := 0
  run : Nat := 0
  good : Nat := 0
  band : Bool := true
  deriving DecidableEq, Repr

/-- The sensors and the runs of windows of the limits (R384), and a shut-down in progress with its sensor and temperature. -/
structure ThrmSt where
  sens : Tab SensSt := []
  seen : Bool := false
  hardRun : Nat := 0
  clearRun : Nat := 0
  shutRun : Nat := 0
  shut : Option (Nat × Int) := none
  deriving DecidableEq, Repr

/-! ### CAN channels -/

/-- A mailbox (R407 to R410): its content, content that waits for the end of an attempt, a late cancel, and the frame of a
fast-packet message that is next, with the message's sequence counter. -/
structure CanMbSt where
  data : List Nat := []
  next : Option (List Nat) := none
  cancel : Bool := false
  part : Nat := 0
  fastSeq : Nat := 0
  deriving DecidableEq, Repr

/-- An express slot beside its registers (R405): frames taken, since when it is locked, and the shadow frame with its number. -/
structure EsSt where
  seq : Nat := 0
  lockAt : Option Nat := none
  shadow : Option (CanFrame × Nat) := none
  movedAt : Option Nat := none
  deriving DecidableEq, Repr

/-- A message in reassembly (R418): the filter, its identifier, the sequence counter or 0, the frame that is next, its length and
the bytes so far. -/
structure FastSt where
  flt : Nat
  id : Nat
  seq : Nat
  next : Nat
  total : Nat
  data : List Nat
  deriving DecidableEq, Repr

/-- A channel beside its registers: the error counters, ACK errors in a row, the busy fractions of the last ten ms, a squall hold's
start and whether its alarm is raised, messages in reassembly, and the addresses claimed on the bus by NAME. -/
structure CanSt where
  tec : Nat := 0
  rec_ : Nat := 0
  ackRun : Nat := 0
  mbs : Tab CanMbSt := []
  slots : Tab EsSt := []
  loads : List Rat := []
  holdAt : Option Nat := none
  squallAlarm : Bool := false
  fast : List FastSt := []
  seen : Tab Nat := []
  deriving DecidableEq, Repr

/-! ### Ethernet ports, work record, PCIe link -/

/-- A frame that waits to be sent (R429): its queue, its length on the wire without preamble and gap, KIND, SEQ, the PRP sequence,
its body, and whether its hold at a closing gate has been counted. -/
structure EthOut where
  queue : Nat
  len : Nat
  kind : Nat
  seq : Nat
  prp : Option Nat := none
  body : List Nat
  held : Bool := false
  deriving DecidableEq, Repr

/-- A port beside its registers: whether it is powered, frames waiting (oldest first) and the one in transmission, the PRP sequence and the copies seen (source, sequence, when), the second of BC_LIMIT, busy fractions of the last ten ms, and a
squall hold. -/
structure EthSt where
  up : Bool := false
  queues : List EthOut := []
  cur : Option EthOut := none
  prpSeq : Nat := 0
  seen : List (Nat × Nat × Nat) := []
  bcSec : Nat := 0
  bcCount : Nat := 0
  loads : List Rat := []
  holdAt : Option Nat := none
  squallAlarm : Bool := false
  deriving DecidableEq, Repr

/-- A tile of the work record (R437): its TILE_SEQ, its records oldest first, when the first was made, and SEALED. -/
structure Tile where
  seq : Nat
  recs : List (List Nat) := []
  firstAt : Nat := 0
  sealed_ : Bool := false
  deriving DecidableEq, Repr

/-- Fleet dispatch and work record: whether the last report or record was followed by a gap, the tile ring by index, the newest
TILE_SEQ, the newest sealed one and its latched high word, the sequence exported up to, and the TAI second of the MUSTER. -/
structure WorkSt where
  dispGap : Bool := false
  dispSent : Bool := false
  gap : Bool := false
  begun : Bool := false
  tiles : Tab Tile := []
  last : Nat := 0
  head : Nat := 0
  ack : Nat := 0
  latchHi : Nat := 0
  musterSec : Option Nat := none
  deriving DecidableEq, Repr

/-- The state of the block. [Log DESIGN CHOICE: 6] -/
structure State where
  /-- Up-time in ns: the sum of the intervals between commands. -/
  now : Nat := 0
  /-- Every register field that does not read its reset value, by `loc` of its descriptor and bank. -/
  regs : Tab Nat := []
  /-- The run-time part of the point table (R31), by index. -/
  pts : Tab Pt := []
  /-- Inputs received in this tick, oldest first (R358). -/
  inbox : List Input := []
  /-- Pigeonholes 0 to 127 (R467 to R474). -/
  pgn : Tab Pgn := []
  /-- The alarm list (R462): entry number to entry; an entry not listed is FREE. -/
  alarms : Tab AlarmEnt := []
  /-- The event recorder. -/
  log : RecSt := {}
  /-- The two host ports (R441). -/
  pcie : HostPort := {}
  spi : HostPort := {}
  /-- The words of the MSI-X table (R475), by word number; a vector's word 3 resets to 1, its mask bit. -/
  msix : Tab Nat := []
  /-- MSI-X messages sent, by vector. -/
  msiSent : Tab Nat := []
  /-- 1: the host has enabled MSI-X in the PCIe capability (R477). -/
  msixEnable : Bool := false
  /-- The manifest in use. -/
  man : Manifest := {}
  /-- The MSI-X pending bit array (R475), by vector. -/
  irqPba : Nat := 0
  /-- Every control output ball stands in its output reset state (R44, R363). -/
  outHeld : Bool := true
  /-- Supplies, resets and MUSTER. -/
  mus : MusterSt := {}
  /-- Manifest machinery and roles. -/
  mnf : MnfSt := {}
  role : RoleSt := {}
  /-- The 64-bit tick number (R37). -/
  tick : Nat := 0
  /-- The timebase. -/
  time : TimeSt := {}
  /-- Twin pairing. -/
  twin : TwinSt := {}
  /-- What the GNSS region of retention SRAM holds. -/
  gnssRet : Option GnssRet := none
  /-- Ruken engines stopped for this power cycle (R17). -/
  engStopped : List Nat := []
  /-- Corrected single-bit errors by memory (R20), and requests served once at level 2 by network port (R14). -/
  eccFixed : Tab Nat := []
  netAged : Tab Nat := []
  /-- Values committed to back buffers, which swap at the next tick boundary (R39). -/
  commits : List Input := []
  /-- Satellite receiver. -/
  gnss : GnssSt := {}
  /-- Estimator. -/
  est : EstSt := {}
  /-- Helm. -/
  helm : HelmSt := {}
  /-- Allocation and consequence analysis. -/
  alloc : AllocSt := {}
  /-- Solver array. -/
  yuz : YuzSt := {}
  /-- Loop cells, encoders, PWM channels, capture units and machine functions. -/
  loop : LoopSt := {}
  /-- Converters. -/
  adc : AdcSt := {}
  /-- Current-loop channels and HART modems. -/
  clp : ClpAll := {}
  /-- Microstep channels. -/
  step : StepAll := {}
  /-- Safety island. -/
  isl : IslSt := {}
  /-- Lull depths and the Forecaster. -/
  pwr : PwrSt := {}
  /-- Temperature sensors. -/
  thrm : ThrmSt := {}
  /-- CAN channels 0 to 7. -/
  can : Tab CanSt := []
  /-- Ethernet ports 0 to 3. -/
  eth : Tab EthSt := []
  /-- Fleet dispatch and work record. -/
  work : WorkSt := {}
  /-- When the PCIe endpoint answers configuration requests (R439); none while PERST_N is low. -/
  pcieAt : Option Nat := none
  /-- SEQ of the device's Ethernet frames by KIND (R427). -/
  ethSeq : Tab Nat := []
  /-- When a time-trigger unit last gave an edge on a GPIO ball (R115). -/
  gpioEdge : Tab Nat := []
  /-- The commands that wait, first in, first out. -/
  pending : List Instr := []
  deriving DecidableEq, Repr

/-- The faults. A command of this block never stops the machine: the spec gives each row an effect, and where it leaves a
value open the model takes a free value. The one constructor is never raised; the type may not be empty. -/
inductive Fault where
  /-- Raised by no command. Safe: it stands only so that the type has a value. -/
  | unused
  deriving DecidableEq, Repr

/-- The refusals. -/
inductive Refusal where
  /-- Raised by an arm of `exec` whose command has no meaning yet. Safe: nothing is claimed about it. -/
  | notModelled (mnemonic : String)
  deriving DecidableEq, Repr

/-- The block right after reset: every register at its reset value, no supply applied yet, nothing stored, no command
waiting. Where the spec gives no reset value the field is 0 or empty (DESIGN CHOICE, notes/assumptions).
[Log DESIGN CHOICE: 5, 6] -/
def State.reset : State := {}

end Sys2Proof.Machine
end

