-- ==== Sys2Proof/Machine/Ops.lean ====
section
/-!
DEFINITION. The operations every family of commands shares: register fields, event bits and interrupts, the passage of time
and postmarks, recorder records and alarms, pigeonholes, points, and the triggers for giving up control.
-/

namespace Sys2Proof.Machine

open Sys2Proof

/-- What a meaning answers. -/
abbrev Out := Host.Outcome State Fault Refusal

/-! ### Register fields -/

/-- Where a field of a bank stands in the register table. -/
def loc (f : Fld) (bank : Nat) : Nat := bank * 8388608 + (f.off * 32 + f.lo) % 8388608

/-- The value of a register field; a field the table does not list reads its reset value. [Log DESIGN CHOICE: 4, 5] -/
def State.get (s : State) (f : Fld) (bank : Nat := 0) : Nat := tget s.regs (loc f bank) f.reset

/-- The field takes `v`, as many bits as it has. A field at its reset value is not listed. [Log DESIGN CHOICE: 4] -/
def State.set (s : State) (f : Fld) (v : Nat) (bank : Nat := 0) : State :=
  let v := v % 2 ^ f.width
  { s with regs := if v = f.reset then tdel s.regs (loc f bank) else tput s.regs (loc f bank) v }

/-- The field takes a signed value in two's complement, saturating at the ends of the field. -/
def State.setI (s : State) (f : Fld) (v : Int) (bank : Nat := 0) : State :=
  let hi : Int := 2 ^ (f.width - 1) - 1
  let v := max (-hi - 1) (min hi v)
  s.set f (v % 2 ^ f.width).toNat bank

/-- The field as a signed value. -/
def State.geti (s : State) (f : Fld) (bank : Nat := 0) : Int :=
  let v := s.get f bank
  if v < 2 ^ (f.width - 1) then (v : Int) else (v : Int) - 2 ^ f.width

/-- An exact value as a whole number: itself where it is one; otherwise the rounding is open. [Log DESIGN CHOICE: 8, 15] -/
def shownAt (place : Nat) (x : Rat) : Int := if x.den = 1 then x.num else Config.shown place x

/-- The field shows an exact value in its own unit; how it is rounded is open. [Log DESIGN CHOICE: 8] -/
def State.setQ (s : State) (f : Fld) (x : Rat) (bank : Nat := 0) : State :=
  s.setI f (shownAt (f.off * 32 + f.lo) x) bank

/-- The same, for a field without sign: clamped to what the field can show. [Log DESIGN CHOICE: 8] -/
def State.setU (s : State) (f : Fld) (x : Rat) (bank : Nat := 0) : State :=
  s.set f (min (2 ^ f.width - 1) (shownAt (f.off * 32 + f.lo) x).toNat) bank

/-- A flag field. -/
def State.flag (s : State) (f : Fld) (bank : Nat := 0) : Bool := s.get f bank = 1

/-- A flag field takes a truth value. -/
def State.setB (s : State) (f : Fld) (b : Bool) (bank : Nat := 0) : State := s.set f (if b then 1 else 0) bank

/-- A wrapping counter counts on. -/
def State.inc (s : State) (f : Fld) (bank : Nat := 0) (n : Nat := 1) : State := s.set f (s.get f bank + n) bank

/-- A saturating counter counts on. -/
def State.incSat (s : State) (f : Fld) (bank : Nat := 0) (n : Nat := 1) : State :=
  s.set f (min (2 ^ f.width - 1) (s.get f bank + n)) bank

/-- A field saturates at a value. -/
def State.setSat (s : State) (f : Fld) (v : Nat) (bank : Nat := 0) : State := s.set f (min (2 ^ f.width - 1) v) bank

/-! ### Interrupts and event bits (R475 to R479) -/

/-- The block identifier of R479 of the block a register lies in. -/
def blockId (f : Fld) : Nat :=
  let p := f.off / 0x1000
  if p ≤ 0x13 then p + 1 else p

/-- The mask bit of a vector's MSI-X entry, set at reset (R475). -/
def State.vecMasked (s : State) (v : Nat) : Bool := tget s.msix (4 * v + 3) 1 % 2 = 1

/-- A vector sends its message, or sets its pending bit (R477). -/
def State.vecSend (s : State) (v : Nat) : State :=
  if s.msixEnable && !s.vecMasked v then { s with msiSent := tput s.msiSent v (tget s.msiSent v 0 + 1) }
  else { s with irqPba := s.irqPba ||| 2 ^ v }

/-- A vector with a pending source fires if it is armed (R477). [Log DEDUCED: 258] -/
def State.vecFire (s : State) (v : Nat) : State :=
  if (s.get R.IRQ_ARMED_ARMED).testBit v then
    ((s.set R.IRQ_ARMED_ARMED (s.get R.IRQ_ARMED_ARMED ^^^ 2 ^ v)).inc R.IRQ_FIRED_COUNT).vecSend v
  else s

/-- A source becomes pending: the vector it is routed to fires, where it is enabled. -/
def State.raise (s : State) (src : Nat) : State :=
  if s.get R.IRQ_ROUTE_EN src = 1 then s.vecFire (s.get R.IRQ_ROUTE_VECTOR src) else s

/-- Hardware sets an event bit. -/
def State.evt (s : State) (f : Fld) (bank : Nat := 0) : State := (s.set f 1 bank).raise (blockId f)

/-! ### Time (R95 to R97) -/

/-- Counts of 2^-32 ns that the counter gains in `dt` ns at a rate correction in ppb. [Log DESIGN CHOICE: 1, 49] -/
def advCount (rate : Rat) (dt : Nat) : Nat := (((dt : Rat) * (1 + rate / 1000000000)) * 4294967296).floor.toNat

/-- Time passes: the up-time, the device counter and the RTC move on. [Log DESIGN CHOICE: 1] -/
def State.advance (s : State) (dt : Nat) : State :=
  { s with
    now := s.now + dt
    time := { s.time with
      count := if s.time.running then s.time.count + advCount s.time.rate dt else s.time.count
      rtc := if s.time.rtcOk then s.time.rtc + dt * 4294967296 else s.time.rtc } }

/-- Device time in whole ns. -/
def State.ns (s : State) : Nat := s.time.count / 4294967296

/-- The instant as a full postmark (R97). -/
def pmOf (ns : Nat) : Pm := ⟨ns / 1000000000 % 2 ^ 48, ns % 1000000000⟩

def State.pm (s : State) : Pm := pmOf s.ns

/-- The 32-bit postmark of R96. -/
def State.pm32 (s : State) : Nat := s.ns % 2 ^ 32

/-- A postmark as ns. -/
def pmTotal (p : Pm) : Nat := p.sec * 1000000000 + p.ns

/-- The single step has been made since this MUSTER. -/
def State.stepped (s : State) : Bool := s.flag R.TIME_STAT_STEPPED

/-! ### Roles (R81, R83) -/

/-- The role of the session a port owns. -/
def State.session (s : State) (p : Port) : Option Role :=
  if s.role.owner = p then
    match s.get R.ROLE_STAT_SESSION with
    | 1 => some .operator | 2 => some .installer | 3 => some .maker | _ => none
  else none

/-- The ROLE and KEY_ID under which a port's writes are recorded (R444): its session's, else host without a session. -/
def State.actor (s : State) (p : Port) : Role × Nat :=
  match s.session p with
  | some r => (r, s.role.keyId)
  | none => (.host, 0)

/-- The identity of the Operator key in force, under which a command point records (R84). -/
def State.operKeyId (s : State) : Nat := match s.role.operKey with | some k => k.2 | none => 0

/-! ### Recorder (R444 to R453) -/

/-- An event: its code, SOURCE, role, alarm flags and data items, each with its width in bytes. `key` is the number of
leading items that identify the event (R480). [Log DEDUCED: 14] -/
structure Ev where
  code : Nat
  source : Nat := 0xFFFF
  role : Role := .device
  keyId : Nat := 0
  alarm : Bool := false
  clear : Bool := false
  items : List (Nat × Nat) := []
  key : Nat := 20
  deriving DecidableEq, Repr

/-- The DATA bytes of an event (R480). [Log DEDUCED: 14; DESIGN CHOICE: 38] -/
def Ev.data (e : Ev) : List Nat := (e.items.flatMap fun i => leBytes i.1 i.2).take 20

/-- KEY_LEN (R480). [Log DEDUCED: 243] -/
def Ev.keyLen (e : Ev) : Nat := min 20 (((e.items.take e.key).map (·.1)).sum)

/-- A signed item of `w` bytes, saturating at the ends of its width. [Log DEDUCED: 14; DESIGN CHOICE: 38] -/
def sItem (w : Nat) (v : Int) : Nat × Nat := (w, (max (-(256 ^ w / 2)) (min (256 ^ w / 2 - 1) v) % 256 ^ w).toNat)

/-- The item of a case that the event table names without a code: one byte (R480), its number open.
[Log DESIGN CHOICE: 12, 62, 66, 76, 96] -/
def caseItem (event case : Nat) : Nat × Nat := (1, Config.code event case % 256)

/-- A measured item that is no register field: no rule gives its unit; it takes four bytes. [Log DESIGN CHOICE: 13, 61, 84, 97] -/
def measItem (event : Nat) (x : Rat) : Nat × Nat := sItem 4 (Config.shown (0x10000000 + event) x)

/-- The RAM ring can be written: DRAM is trained and the device is not in LULL3 (R446). -/
def State.dramAvail (s : State) : Bool := s.mus.dramUp && !(s.get R.PWR_STAT_DEPTH = 3)

/-- The newest record, where it is still held: in the hold area, or in the RAM ring with its mirror. -/
def State.newest (s : State) : Option Rec :=
  match s.log.hold.head? with
  | some r => if r.seq = s.log.head then some r else none
  | none => match s.log.ram.head? with
    | some r => if r.seq = s.log.head then some r else none
    | none => none

/-- An event is identical to a record (R449). [Log DEDUCED: 243] -/
def Ev.same (e : Ev) (r : Rec) : Bool :=
  e.code = r.code && e.source = r.source && e.role = r.role && e.keyId = r.keyId && e.alarm = r.alarm &&
  (e.alarm && e.clear) = r.clear && e.data.take e.keyLen = r.data.take r.keyLen

/-- An identical event becomes a repeat of the open record (R449, R450). [Log DEDUCED: 243] -/
def State.isRepeat (s : State) (e : Ev) : Option Rec :=
  match s.newest with
  | some r =>
    if s.log.isOpen && e.same r && s.now ≤ s.log.lastAt + 10000000000 && !(r.unsync && s.stepped) then some r else none
  | none => none

/-- The record with one repeat more (R449, R450). -/
def Rec.again (r : Rec) (pm : Pm) : Rec :=
  if r.rep = 65535 then { r with last := pm, repSat := true } else { r with last := pm, rep := r.rep + 1 }

/-- The records of the RAM ring that are not in flash yet. -/
def RecSt.unflushed (l : RecSt) : List Rec := l.ram.filter fun r => l.flushed < r.seq

/-- A record enters the RAM ring; the oldest leaves a full one, and an unflushed record that leaves it is lost (R453). -/
def State.ramPush (s : State) (r : Rec) : State :=
  let l := s.log
  let old := (r :: l.ram).drop 16384
  let lost := old.filter fun x => l.flushed < x.seq
  let l' := { l with ram := (r :: l.ram).take 16384, lostSeqs := lost.map (·.seq) ++ l.lostSeqs,
                     lostRam := l.lostRam + lost.length,
                     lostFirstR := if l.lostFirstR = 0 then (lost.map (·.seq)).getLastD 0 else l.lostFirstR }
  let s : State := { s with log := l' }
  let s := if lost = [] then s else (s.inc R.LOG_LOST_RAM 0 lost.length).evt R.LOG_EVT_LOST
  if l'.unflushed.length = 12289 && l.unflushed.length = 12288 then s.evt R.LOG_EVT_RAM_75 else s

/-- Unflushed records, in the RAM ring and made without it. [Log DEDUCED: 246] -/
def RecSt.unflushedCount (l : RecSt) : Nat := l.hold.length + l.unflushed.length

/-- A record enters the hold area, with HELD set; a hold area full of it and of the mirrored records drops it (R446, R453).
[Log DEDUCED: 246] -/
def State.holdPush (s : State) (r : Rec) : State :=
  if s.log.unflushedCount < 1024 then { s with log := { s.log with hold := { r with held := true } :: s.log.hold } }
  else
    ({ s with log := { s.log with lostSeqs := r.seq :: s.log.lostSeqs, lostHold := s.log.lostHold + 1,
                                  lostFirstH := if s.log.lostFirstH = 0 then r.seq else s.log.lostFirstH } }.inc
      R.LOG_LOST_HOLD).evt R.LOG_EVT_LOST

/-- The device records an event: as a repeat of the open record, or as a new record with the next SEQ (R445, R449). -/
def State.logEvent (s : State) (e : Ev) : State :=
  match s.isRepeat e with
  | some r =>
    let r' := r.again s.pm
    let l := { s.log with lastAt := s.now }
    if s.log.hold = [] then { s with log := { l with ram := r' :: s.log.ram.tail } }
    else { s with log := { l with hold := r' :: s.log.hold.tail } }
  | none =>
    let r : Rec := { seq := s.log.head + 1, pm := s.pm, code := e.code, source := e.source, role := e.role,
                     unsync := !s.stepped, alarm := e.alarm, clear := e.alarm && e.clear, keyId := e.keyId,
                     keyLen := e.keyLen, last := s.pm, data := e.data }
    let s : State := { s with log := { s.log with head := s.log.head + 1, isOpen := true, lastAt := s.now } }
    if s.dramAvail then s.ramPush r else s.holdPush r

/-- The bytes of a record before its CRC (R444). -/
def Rec.body (r : Rec) : List Nat :=
  leBytes 8 r.seq ++ leBytes 8 r.pm.sec ++ leBytes 4 r.pm.ns ++ leBytes 2 r.code ++ leBytes 2 r.source ++
  [r.role.code,
   (if r.unsync then 1 else 0) + (if r.alarm then 2 else 0) + (if r.repSat then 4 else 0) +
   (if r.held then 8 else 0) + (if r.clear then 16 else 0)] ++
  leBytes 2 r.keyId ++ leBytes 2 r.rep ++ [r.keyLen, 0] ++ leBytes 4 r.last.ns ++ leBytes 4 r.last.sec ++
  (r.data ++ List.replicate (20 - r.data.length) 0)

/-- The 64 bytes of a record. -/
def Rec.bytes (r : Rec) : List Nat := r.body ++ leBytes 4 (crc32c r.body)

/-! ### Pigeonholes (R467 to R471) -/

/-- log2 of a pigeonhole's ring in envelopes; 0 where it has none. Pigeonholes 0 to 15 belong to the device (R467). -/
def State.ringLog2 (s : State) (n : Nat) : Nat :=
  if n ≤ 1 then 8 else if n ≤ 5 then 6 else if n < 16 then 0 else s.get R.PGN_CFG_RING_LOG2 n

/-- The host consumes the pigeonhole (R467, R472). -/
def State.hostConsumes (s : State) (n : Nat) : Bool :=
  if n ≤ 5 then true else s.get R.PGN_CFG_HOST_CONSUMER n = 1

def State.pigeon (s : State) (n : Nat) : Pgn := tget s.pgn n {}

/-- The envelopes left when the oldest message has gone. -/
def dropMsg : List Env → List Env
  | [] => []
  | e :: t => if e.last || e.kind = 10 then t else dropMsg t

/-- The oldest message. -/
def headMsg : List Env → List Env
  | [] => []
  | e :: t => if e.last || e.kind = 10 then [e] else e :: headMsg t

/-- The messages removed, oldest first, until `need` envelopes fit a ring of `size`, and what is left. -/
def evictFor : Nat → Nat → Nat → List Env → List (List Env) × List Env
  | 0, _, _, ring => ([], ring)
  | fuel + 1, size, need, ring =>
    if ring.length + need ≤ size then ([], ring)
    else
      let r := evictFor fuel size need (dropMsg ring)
      (headMsg ring :: r.1, r.2)

/-- A message enters a ring that has room for it. -/
def State.ringAdd (s : State) (n : Nat) (msg : List Env) : State :=
  let p := s.pigeon n
  let p := { p with ring := p.ring ++ msg }
  let s : State := { s with pgn := tput s.pgn n p }
  let s := s.inc R.PGN_HEAD_INDEX n msg.length
  let s := s.set R.PGN_STAT_PEAK (max (s.get R.PGN_STAT_PEAK n) ((p.ring.length + 15) / 16)) n
  if s.hostConsumes n then s.raise (32 + n) else s

/-- A message to a pigeonhole is lost there. -/
def State.dropped (s : State) (n : Nat) : State :=
  ((s.inc R.PGN_DROP_DROPPED n).set R.PGN_STAT_LOST 1 n).evt R.DEV_EVT_PGN_OVERFLOW

/-- The oldest messages leave a ring until `need` envelopes fit. -/
def State.makeRoom (s : State) (n need : Nat) : List (List Env) × State :=
  let p := s.pigeon n
  let r := evictFor p.ring.length (2 ^ s.ringLog2 n) need p.ring
  let gone := p.ring.length - r.2.length
  if gone = 0 then ([], s)
  else
    let s : State := { s with pgn := tput s.pgn n { p with ring := r.2, wordP := 0, wordS := 0 } }
    (r.1, s.inc R.PGN_TAIL_INDEX n gone)

/-- Messages evicted from a device pigeonhole are discarded, counted and recorded (R471, 0x0105). -/
def State.discardAll (s : State) (n : Nat) : List (List Env) → State
  | [] => s
  | m :: ms =>
    (((s.dropped n).logEvent
      { code := 0x0105, items := [(1, n), (4, (m.head?.map (·.seq)).getD 0)], key := 1 }).discardAll n ms)

/-- A message goes whole to pigeonhole 0 with a reason (R471). `n` is its destination; an inbound value without one counts in
no destination's DEAD. -/
def State.deadLetter (s : State) (n : Nat) (msg : List Env) (reason : Nat) : State :=
  let r := s.makeRoom 0 msg.length
  let s := r.2.discardAll 0 r.1
  let s := s.ringAdd 0 (msg.map fun e => { e with reason := reason })
  let s := if reason ≤ 2 || reason = 7 then s else s.inc R.PGN_DROP_DEAD n
  (s.evt R.DEV_EVT_DEAD_LETTER).logEvent
    { code := 0x0104, items := [(1, n), (1, reason), (4, (msg.head?.map (·.seq)).getD 0)], key := 2 }

/-- Evicted messages of a DROP_OLD ring go to pigeonhole 0 (R471). -/
def State.evictAll (s : State) (n : Nat) : List (List Env) → State
  | [] => s
  | m :: ms => ((s.dropped n).deadLetter n m 4).evictAll n ms

/-- A whole message is delivered, or becomes a dead letter, or is discarded (R469, R471). -/
def State.deliver (s : State) (n : Nat) (msg : List Env) : State :=
  if s.ringLog2 n = 0 then (s.dropped n).deadLetter n msg 5
  else if 2 ^ s.ringLog2 n < msg.length then
    if 1 ≤ n ∧ n ≤ 5 then s.discardAll n [msg] else (s.dropped n).deadLetter n msg 6
  else if (s.pigeon n).ring.length + msg.length ≤ 2 ^ s.ringLog2 n then s.ringAdd n msg
  else if n ≤ 5 then
    let r := s.makeRoom n msg.length
    (r.2.discardAll n r.1).ringAdd n msg
  else if s.get R.PGN_CFG_POLICY n = 1 then
    let r := s.makeRoom n msg.length
    (r.2.evictAll n r.1).ringAdd n msg
  else (s.dropped n).deadLetter n msg 3

/-- The parts of a payload, 36 bytes each; a payload of 0 bytes is one part. -/
def payloadParts : Nat → List Nat → List (List Nat)
  | 0, p => [p]
  | fuel + 1, p => if p.length ≤ 36 then [p] else p.take 36 :: payloadParts fuel (p.drop 36)

/-- The envelopes of one message (R468, R469). -/
def mkMsg (parts : List (List Nat)) (kind seq origin dest : Nat) (unsync : Bool) (pm : Pm) : List Env :=
  parts.zipIdx.map fun x =>
    { kind := kind, unsync := unsync, first := x.2 = 0, last := x.2 + 1 = parts.length, len := x.1.length,
      part := x.2, seq := seq, pm := pm, origin := origin, dest := dest, payload := x.1 }

/-- The device addresses a message to pigeonhole `n` (R470). -/
def State.send (s : State) (n kind origin : Nat) (payload : List Nat) (pm : Pm) : State :=
  let p := s.pigeon n
  let seq := (p.seq + 1) % 2 ^ 32
  let s : State := { s with pgn := tput s.pgn n { p with seq := seq } }
  s.deliver n (mkMsg (payloadParts 128 payload) kind seq origin n (!s.stepped) pm)

/-- An inbound value that reaches no point: KIND DEAD to pigeonhole 0 (R30, R33, R471). [Log DEDUCED: 110] -/
def State.sendDead (s : State) (addr value type reason : Nat) (pm : Pm) : State :=
  let p := s.pigeon 0
  let seq := (p.seq + 1) % 2 ^ 32
  let s : State := { s with pgn := tput s.pgn 0 { p with seq := seq } }
  s.deadLetter 0 (mkMsg [leBytes 8 value ++ [type]] 3 seq addr 0 (!s.stepped) pm) reason

/-- The bytes of an envelope (R468). -/
def Env.bytes (e : Env) : List Nat :=
  let b := [e.kind, (if e.unsync then 1 else 0) + (if e.first then 2 else 0) + (if e.last then 4 else 0) + 16 * e.reason,
            e.len, e.part] ++ leBytes 4 e.seq ++ leBytes 4 e.pm.ns ++ leBytes 4 e.pm.sec ++ leBytes 4 e.origin ++
           [e.dest, 0, 0, 0] ++ (e.payload ++ List.replicate (36 - e.payload.length) 0)
  b ++ leBytes 4 (crc32c b)

/-! ### Alarms (R462) and records with their consequences -/

/-- An alarm entry of this code and SOURCE. -/
def findAlarm : Tab AlarmEnt → Nat → Nat → Option (Nat × AlarmEnt)
  | [], _, _ => none
  | (n, a) :: t, c, src => if a.code = c ∧ a.source = src then some (n, a) else findAlarm t c src

/-- The lowest FREE entry from `n` on, at most `fuel` of them looked at. -/
def freeAlarm (t : Tab AlarmEnt) : Nat → Nat → Option Nat
  | 0, _ => none
  | fuel + 1, n => match tfind t n with | none => some n | some _ => freeAlarm t fuel (n + 1)

/-- The ALARM envelope of a change (R502). -/
def State.alarmEnv (s : State) (entry st change : Nat) (a : AlarmEnt) (role : Role) (keyId : Nat) : State :=
  s.send 2 5 0 ([entry, st, change, role.code] ++ leBytes 2 a.code ++ leBytes 2 a.source ++ leBytes 2 keyId ++
    [0, 0] ++ leBytes 8 s.log.head) s.pm

/-- An alarm is raised (R462). [Log DESIGN CHOICE: 75] -/
def State.alarmRaise (s : State) (code source : Nat) : State :=
  match findAlarm s.alarms code source with
  | some (n, a) =>
    if a.st = 1 then s
    else ({ s with alarms := tput s.alarms n { a with st := 1 } }.evt R.DEV_EVT_ALARM_RAISED).alarmEnv n 1 0 a .device 0
  | none =>
    match freeAlarm s.alarms 256 0 with
    | some n =>
      let a : AlarmEnt := ⟨code, source, 1⟩
      ({ s with alarms := tput s.alarms n a }.evt R.DEV_EVT_ALARM_RAISED).alarmEnv n 1 0 a .device 0
    | none =>
      ((s.set R.DEV_ALARM_SUM_OVERFLOW 1).alarmEnv 0xFF 0 4 ⟨code, source, 0⟩ .device 0).logEvent
        { code := 0x0102, items := [(2, code), (2, source)] }

/-- An alarm is cleared (R462). -/
def State.alarmClear (s : State) (code source : Nat) : State :=
  match findAlarm s.alarms code source with
  | some (n, a) =>
    if a.st = 2 then
      ({ s with alarms := tdel s.alarms n }.evt R.DEV_EVT_ALARM_CLEARED).alarmEnv n 0 1 a .device 0
    else if a.st = 1 then
      ({ s with alarms := tput s.alarms n { a with st := 3 } }.evt R.DEV_EVT_ALARM_CLEARED).alarmEnv n 3 1 a .device 0
    else s
  | none => s

/-- The device records an event, and the alarm list acts on its raise or clear (R462). -/
def State.record (s : State) (e : Ev) : State :=
  let s := s.logEvent e
  if e.alarm then (if e.clear then s.alarmClear e.code e.source else s.alarmRaise e.code e.source) else s

/-- The loss record of a cause (R453, 0x1603): 1 RAM, 2 HOLD. [Log DEDUCED: 245] -/
def State.lossRecord (s : State) (cause : Nat) : State :=
  let l := s.log
  let n := if cause = 1 then l.lostRam else l.lostHold
  let first := if cause = 1 then l.lostFirstR else l.lostFirstH
  if n = 0 then s
  else
    let l := if cause = 1 then { l with lostRam := 0, lostFirstR := 0 } else { l with lostHold := 0, lostFirstH := 0 }
    ({ s with log := l } : State).record { code := 0x1603, items := [(1, cause), (8, first), (4, n)], key := 1 }

/-- An event that raises an alarm, and the event that clears it. [Log DESIGN CHOICE: 75] -/
def State.alarm (s : State) (code : Nat) (source : Nat := 0xFFFF) (items : List (Nat × Nat) := []) (key : Nat := 20) :
    State := s.record { code, source, alarm := true, items, key }

def State.clearAlarm (s : State) (code : Nat) (source : Nat := 0xFFFF) (items : List (Nat × Nat) := [])
    (key : Nat := 20) : State := s.record { code, source, alarm := true, clear := true, items, key }

/-- A RESULT envelope to pigeonhole 3 (R502). -/
def State.result (s : State) (block kind target result tag : Nat) (role : Role) (keyId recSeq : Nat) : State :=
  s.send 3 6 0 ([block, kind, target, result, tag, role.code] ++ leBytes 2 keyId ++ leBytes 8 s.tick ++
    leBytes 8 recSeq) s.pm

/-- A TIME event goes to the recorder and to pigeonhole 5, with its record's DATA (R467, R468). -/
def State.timeEvent (s : State) (e : Ev) : State := (s.record e).send 5 8 0 e.data s.pm

/-- A write that lacks its role, or has no effect: recorded as 0x0406 (R9, R94). [Log DEDUCED: 47] -/
def State.rwlIgnored (s : State) (p : Port) (off : Nat) : State :=
  let a := s.actor p
  s.record { code := 0x0406, role := a.1, keyId := a.2, items := [(4, off), (1, s.get R.ROLE_STAT_SESSION), (1, p.code)] }

/-- The device leaves LULL3 (R378): it is awake within 6 ms. `code` is the exit event of 0x1202. [Log DEDUCED: 200] -/
def State.lullExit (s : State) (code : Nat) : State :=
  if s.pwr.l3 ≠ 1 then s
  else
    let secs := (s.now - s.pwr.since) / 1000000000
    let s : State := { s with pwr := { s.pwr with l3 := 2, okSince := none } }
    let s := ((s.set R.PWR_STAT_WAKING 1).setSat R.PWR_LULL3_LAST_S secs).evt R.PWR_EVT_LULL3_OUT
    s.record { code := 0x1202, items := [(1, code), (2, min secs 65535)], key := 1 }

/-- A wake event (R378, R379): the device leaves LULL3; a standby forwards it to the active, which decides.
[Log DEDUCED: 184, 199] -/
def State.lullLeave (s : State) (code : Nat) : State :=
  if s.pwr.l3 ≠ 1 then s
  else if s.pwr.follower then { s with pwr := { s.pwr with forwarded := some code } }
  else s.lullExit code

/-- A write to an RWL field: where the port holds a session of one of the roles it takes effect, and the idle time starts
afresh (R83); any other is ignored and recorded (R9). [Log DEDUCED: 47] -/
def State.withRole (s : State) (p : Port) (roles : List Role) (off : Nat) (act : State → State) : State :=
  let s := s.lullLeave 1
  match s.session p with
  | some r => if r ∈ roles then act { s with role := { s.role with rwlAt := s.now } } else s.rwlIgnored p off
  | none => s.rwlIgnored p off

/-! ### Points (R30 to R36, R501) -/

def State.pt (s : State) (i : Nat) : Pt := tget s.pts i {}

def State.ptCfg (s : State) (i : Nat) : Option PtCfg := s.man.points[i]?

/-- The index of an address, from `i` on. -/
def idxOf : List PtCfg → Nat → Nat → Option Nat
  | [], _, _ => none
  | c :: t, a, i => if c.addr = a then some i else idxOf t a (i + 1)

def State.findPt (s : State) (addr : Nat) : Option Nat := idxOf s.man.points addr 0

/-- The roll-call state of the node an address names (R74); an address of no listed node has none. -/
def nodeIdx : List NodeCfg → Nat → Nat → Option (Nat × NodeCfg)
  | [], _, _ => none
  | c :: t, a, i => if c.addr = a then some (i, c) else nodeIdx t a (i + 1)

def State.nodeSt (s : State) (addr16 : Nat) : Option Nat :=
  match nodeIdx s.man.nodes addr16 0 with
  | some (i, c) => if c.exempt then some 5 else some (tget s.mnf.nodes i {}).st
  | none => none

/-- The node is UNKNOWN or QUARANTINED: its inbound points read STALE-CONFIG and it takes roll call only (R74, R75). -/
def State.untrusted (s : State) (addr16 : Nat) : Bool :=
  match s.nodeSt addr16 with | some 0 => true | some 3 => true | _ => false

/-- The quality code of a point: the first condition that applies, in the order of R12. -/
def State.ptQuality (s : State) (i : Nat) : Quality :=
  let p := s.pt i
  match s.ptCfg i with
  | none => .masked
  | some c =>
    if (!c.out && s.untrusted (c.addr / 65536)) || p.wq = .staleConfig then .staleConfig
    else if p.masked || p.wq = .masked then .masked
    else if p.substituted || p.wq = .substituted then .substituted
    else if p.stale || !p.written || p.wq = .stale then .stale
    else if p.wq = .unverified then .unverified
    else if p.wq = .uncertain then .uncertain
    else .good

/-- The eight words of a point-table entry (R31, R32). -/
def State.ptWords (s : State) (i : Nat) : List Nat :=
  match s.ptCfg i with
  | none => [0, 0, 0, 0, 4, 0x0FFFFFFF, 0, 0xFFFF]
  | some c =>
    let p := s.pt i
    [p.value % 2 ^ 32, p.value / 2 ^ 32 % 2 ^ 32, p.pm.ns, p.pm.sec % 2 ^ 32,
     (s.ptQuality i).code + (if p.unsync then 16 else 0) + 256 * c.type + 65536 * p.updates, c.addr,
     (if c.out then 1 else 0) + 256 * c.notify + 65536 * c.staleMs, c.scale]

/-- The point's one writer writes it (R33, R34): value, postmark and quality, and an envelope to its NOTIFY pigeonhole. -/
def State.putPoint (s : State) (i value : Nat) (pm : Pm) (q : Quality) : State :=
  match s.ptCfg i with
  | none => s
  | some c =>
    let p := s.pt i
    let p := { p with value := value % 2 ^ 64, pm := pm, unsync := !s.stepped, updates := (p.updates + 1) % 65536,
                      written := true, wq := q, stale := false, at_ := s.now }
    let s : State := { s with pts := tput s.pts i p }
    if c.notify = 0 then s else s.send c.notify 1 c.addr ((s.ptWords i).flatMap (leBytes 4)) pm

/-- The device writes the point at an address, where the manifest configures it. -/
def State.putAddr (s : State) (addr value : Nat) (q : Quality) : State :=
  match s.findPt addr with
  | some i => s.putPoint i value s.pm q
  | none => s

/-- A signed value as the 64 bits of a point. -/
def bits64 (v : Int) : Nat := (v % 2 ^ 64).toNat

/-- The Q32.32 bits of an exact value, clamped to the format; how a value between two steps of it is rounded is open.
[Log DESIGN CHOICE: 15] -/
def q32 (x : Rat) : Nat := bits64 (max (-2 ^ 63) (min (2 ^ 63 - 1) (shownAt 0x3132 (x * 2 ^ 32))))

/-- An address of trunk 0 (R26, R27). -/
def addr0 (seg node ch pt : Nat) : Nat := seg * 2 ^ 24 + node * 65536 + ch * 256 + pt

/-- An inbound value from a trunk: it waits for the end of its tick, or is a dead letter (R30, R33, R358).
[Log DEDUCED: 110, 184] -/
def State.inbound (s : State) (v : TrunkVal) : State :=
  match s.findPt v.addr with
  | none => s.sendDead v.addr v.value 0 1 v.pm
  | some i =>
    match s.ptCfg i with
    | some c =>
      if c.out then s.sendDead v.addr v.value c.type 7 v.pm
      else { s with inbox := s.inbox ++ [.point i v.value v.pm v.quality] }
    | none => s

def State.inboundAll (s : State) (vs : List TrunkVal) : State := vs.foldl (fun s v => s.inbound v) s

/-- The bytes an input takes in a tick's records (R357). -/
def Input.bytes : Input → Nat
  | .point .. => 24
  | .env _ _ _ p _ => 72 * (if p.length ≤ 36 then 1 else (p.length + 35) / 36)
  | .host .. => 72

/-- A host envelope enters its ring (R474): SEQ, DEST, postmark and CRC are the device's and KIND is HOST; FLAGS, LEN, PART, ORIGIN
and the payload stay as written. -/
def State.hostEnv (s : State) (n : Nat) (words : List Nat) (pm : Pm) : State :=
  let p := s.pigeon n
  let seq := (p.seq + 1) % 2 ^ 32
  let s : State := { s with pgn := tput s.pgn n { p with seq := seq } }
  let b := words.flatMap (leBytes 4)
  let fl := b.getD 1 0
  s.deliver n [{ kind := 10, unsync := fl % 2 = 1, first := fl.testBit 1, last := fl.testBit 2, len := b.getD 2 0,
                 part := b.getD 3 0, reason := fl / 16, seq := seq, pm := pm, origin := ofLe ((b.drop 16).take 4), dest := n,
                 payload := (b.drop 24).take 36 }]

/-- Apply the inputs of a tick in arrival order; those beyond 6,144 bytes stay for the next (R358). -/
def State.applyInputs (s : State) (budget : Nat) : List Input → State
  | [] => { s with inbox := [] }
  | i :: t =>
    if budget < i.bytes then { s with inbox := i :: t }
    else
      match i with
      | .point idx v pm q => (s.putPoint idx v pm q).applyInputs (budget - 24) t
      | .env n k o pl pm => (s.send n k o pl pm).applyInputs (budget - i.bytes) t
      | .host n w pm => (s.hostEnv n w pm).applyInputs (budget - 72) t

/-! ### Committed outputs (R39) -/

/-- The input is a write of this point. -/
def Input.isPoint (i : Nat) : Input → Bool
  | .point j .. => i = j
  | .env .. => false
  | .host .. => false

/-- The writer commits a value to the back buffer of the point at an address, to swap at the next tick boundary; the later of
two commits wins (R39). A point that the manifest does not configure is not written. -/
def State.commitAddr (s : State) (addr value : Nat) (pm : Pm) (q : Quality) : State :=
  match s.findPt addr with
  | some i => { s with commits := s.commits.filter (fun x => !x.isPoint i) ++ [.point i value pm q] }
  | none => s

/-- Several values committed together, from consecutive points of one channel. [Log DESIGN CHOICE: 40] -/
def State.commitAll (s : State) (base : Nat) (vals : List Nat) (pm : Pm) (q : Quality) : State :=
  vals.zipIdx.foldl (fun (s : State) x => s.commitAddr (base + x.2) x.1 pm q) s

/-- The device writes consecutive points of one channel at once. -/
def State.putAll (s : State) (base : Nat) (vals : List Nat) (q : Quality) : State :=
  vals.zipIdx.foldl (fun (s : State) x => s.putAddr (base + x.2) x.1 q) s

/-- A value as the operator of a command point or a host session gives it (R51): from a host port in an Operator session,
or from a command point of the list given. `act` gets the key identity. -/
def State.operatorCmd (s : State) (src : CmdSrc) (points : List Nat) (off : Nat) (act : State → Nat → State) : State :=
  match src with
  | .host p => s.withRole p [.operator] off fun s => act s s.role.keyId
  | .point i => if i ∈ points then act s s.operKeyId else s

/-- An IEEE 754 binary64 value as an exact number; a NaN is none, and an infinity lies beyond every format. -/
def ofBinary64 (b : Nat) : Option Rat :=
  let e : Nat := b / 2 ^ 52 % 2048
  let m : Nat := b % 2 ^ 52
  let sgn : Rat := if b / 2 ^ 63 % 2 = 1 then -1 else 1
  if e = 2047 then (if m = 0 then some (sgn * 2 ^ 1024) else none)
  else if e = 0 then some (sgn * (m : Rat) / 2 ^ 1074)
  else if 1075 ≤ e then some (sgn * ((2 ^ 52 + m : Nat) : Rat) * 2 ^ (e - 1075))
  else some (sgn * ((2 ^ 52 + m : Nat) : Rat) / 2 ^ (1075 - e))

/-- 64 bits as a signed number. -/
def signed64 (v : Nat) : Int := if v < 2 ^ 63 then v else (v : Int) - 2 ^ 64

/-- The number in a point's VALUE, by its TYPE (R31); none for a NaN. -/
def valueNum (type value : Nat) : Option Rat :=
  match type with
  | 0 => some (signed64 value : Rat)
  | 2 => some ((signed64 value : Rat) / 4294967296)
  | 3 => ofBinary64 value
  | 4 => some (if value % 2 = 1 then 1 else 0)
  | _ => some (value : Rat)

/-- A numeric point as a control function reads it: through its SCALE entry, with the quality the reader sees; a NaN reads as
MASKED (R35). [Log DEDUCED: 16] -/
def State.ptRead (s : State) (i : Nat) : Rat × Quality :=
  match s.ptCfg i with
  | none => (0, .masked)
  | some c =>
    match valueNum c.type (s.pt i).value with
    | none => (0, .masked)
    | some raw =>
      if c.scale = 0xFFFF then (raw, s.ptQuality i)
      else match s.man.scaling[c.scale]? with
        | some (g, o) => (g * raw + o, s.ptQuality i)
        | none => (raw, s.ptQuality i)

/-- The point clamped to a reader's format [lo, hi]; a clamped value is UNCERTAIN to that reader (R35). -/
def State.ptReadIn (s : State) (i : Nat) (lo hi : Rat) : Rat × Quality :=
  let r := s.ptRead i
  if r.1 < lo then (lo, if r.2 = .good then .uncertain else r.2)
  else if hi < r.1 then (hi, if r.2 = .good then .uncertain else r.2)
  else r

/-- The 64 bits in which a point of this TYPE holds a number (R31). -/
def encodeNum (type : Nat) (x : Rat) : Nat :=
  match type with
  | 2 => q32 x
  | 3 => (Config.value 0x31 [x]).floor.toNat % 2 ^ 64
  | 4 => if x = 0 then 0 else 1
  | _ => bits64 (shownAt 0x31 x)

/-- The device writes a number to a point in the point's TYPE. -/
def State.putNum (s : State) (i : Nat) (x : Rat) (q : Quality) : State :=
  match s.ptCfg i with
  | some c => s.putPoint i (encodeNum c.type x) s.pm q
  | none => s

/-- A point that may be absent, as a number with its quality; an absent one reads MASKED. -/
def State.ptOpt (s : State) (i : Option Nat) : Rat × Quality :=
  match i with | some i => s.ptRead i | none => (0, .masked)

/-- GOOD or UNCERTAIN. -/
def qUsable (q : Quality) : Bool := q = .good || q = .uncertain

/-! ### Mode, faults and giving up (R56 to R58, R362, R363) -/

def State.mode (s : State) : Nat := s.get R.MODE_STAT_MODE
def State.isActive (s : State) : Bool := s.flag R.MODE_STAT_ACTIVE
def State.isPaired (s : State) : Bool := s.flag R.MODE_STAT_PAIRED

/-- The deepest depth that PWR_LAT_TOL permits (R374). -/
def permittedDepth (us : Nat) : Nat := if us < 10 then 0 else if us < 250 then 1 else if us < 6000 then 2 else 3

/-- The depth in force (R374, R375): LULL3, or in READY the permitted gap depth. -/
def State.depth (s : State) : Nat :=
  if s.get R.PWR_STAT_DEPTH = 3 then 3
  else if s.mode = 2 then min 2 (permittedDepth (s.get R.PWR_LAT_TOL_US)) else 0

/-- The device holds the active role and drives its control outputs (R354). -/
def State.drives (s : State) : Bool := s.isActive && s.flag R.TWIN_STAT_ACTIVE_OUT

/-- A paired standby: it takes the active's inputs and verdicts and drives no control output (R235, R265, R283, R354). -/
def State.follows (s : State) : Bool := s.isPaired && !s.isActive

/-- A cause of SAFE beside the first one is recorded (R58, 0x0203). [Log DEDUCED: 31] -/
def State.safeCause (s : State) (cause kind : Nat) : State := s.record { code := 0x0203, items := [(1, cause), (1, kind)] }

/-- A SAFE entry for the next tick boundary; the first trigger decides, and a further one is recorded (R58). [Log DEDUCED: 31] -/
def State.safeArm (s : State) (cause kind : Nat) : State :=
  let s := s.lullLeave 10
  match s.mnf.safePending with
  | some _ => s.safeCause cause kind
  | none => { s with mnf := { s.mnf with safePending := some cause, safeKind := kind } }

/-- A device that drives nothing sends on no trunk and holds PPS_OUT low (R111, R363, R401): its CAN channels are off, its Ethernet
ports send no frames. [Log DEDUCED: 237] -/
def State.trunksOff (s : State) : State :=
  let s : State := { s.set R.TIME_PPS_QERR_VALID 0 with time := { s.time with ppsHigh := false } }
  let s := s.man.can.foldl (fun (s : State) x => (s.set R.CAN_STAT_MODE 0 x.1).set R.CAN_STAT_STB 1 x.1) s
  s.man.eth.foldl (fun (s : State) x => s.set R.ETH_STAT_TX_ON 0 x.1) s

/-- A paired active gives up control (R363, R365). [Log DEDUCED: 17] -/
def State.giveUp (s : State) (cause : Nat) : State :=
  let s := (((s.set R.TWIN_STAT_ACTIVE_OUT 0).set R.TWIN_STAT_PEER_OK_OUT 0).set R.TWIN_STAT_STATE 6)
  let s := ((s.set R.MODE_STAT_ACTIVE 0).set R.MODE_STAT_PAIRED 0).set R.DEV_STAT_DRIVES_NOTHING 1
  let s := (((s.set R.TWIN_HO_CAUSE cause).set R.TWIN_HO_GAINED 0).inc R.TWIN_COUNT_HANDOVERS).trunksOff
  let s : State := { s with outHeld := true, mnf := { s.mnf with giveUpAt := some s.now } }
  (s.evt R.TWIN_EVT_HANDOVER).record { code := 0x1103, items := [(1, cause), (8, s.tick)], key := 1 }

/-- A standby drops out of the pair (R57). [Log DEDUCED: 17] -/
def State.dropOut (s : State) : State :=
  { ((((s.set R.TWIN_STAT_PEER_OK_OUT 0).set R.TWIN_STAT_STATE 6).set R.MODE_STAT_PAIRED 0).set
      R.DEV_STAT_DRIVES_NOTHING 1).trunksOff with outHeld := true }

/-- A fixed record of a tick is sent: its bytes count towards the tick (R357, R358). -/
def State.sent (s : State) (bytes : Nat) : State :=
  if s.isActive then { s with twin := { s.twin with tickBytes := s.twin.tickBytes + bytes } } else s

/-- The device is where a trigger takes it to SAFE: a working mode, or RUN-IN (R53, R56). -/
def State.inService (s : State) : Bool :=
  (s.mode = 2 || s.mode = 3 || s.mode = 4) || (s.mode = 1 && s.get R.MODE_STAT_PHASE = 8)

/-- A give-up trigger of R362: a paired active gives up first, a standby drops out, an unpaired active goes to SAFE (R57,
R58). `safeAlone` is the SAFE_CAUSE of a device that does not give up, `kind` the fault kind of its record. [Log DEDUCED: 20, 27] -/
def State.trigger (s : State) (cause safeAlone kind : Nat) : State :=
  if s.mode = 5 then s.safeCause safeAlone kind
  else if !s.inService then s
  else if s.isActive && s.isPaired then (s.giveUp cause).safeArm 7 cause
  else if s.isActive || s.mode = 1 then s.safeArm safeAlone kind
  else (s.dropOut).safeArm safeAlone kind

/-- DEV_FAULT and the record 0x0107 of a cause code of R362 in a unit (0xFFFF: none). [Log DEDUCED: 20] -/
def State.faultNote (s : State) (cause unit : Nat) : State :=
  let s := ((s.set R.DEV_FAULT_CAUSE cause).set R.DEV_FAULT_UNIT unit).incSat R.DEV_FAULT_COUNT
  (s.evt R.DEV_EVT_FAULT).record { code := 0x0107, items := [(1, cause), (2, unit)] }

/-- A device fault (R56, R362): DEV_FAULT, the record, and the trigger. -/
def State.deviceFault (s : State) (cause unit : Nat) : State := (s.faultNote cause unit).trigger cause 6 cause

/-- The level of FAULT_N: low (false) while a condition of R463 holds, and while POR_N is low, as DEV_STAT's reset value has it. -/
def State.faultN (s : State) : Bool :=
  !((s.mode = 1) || (s.mode = 0 && s.mus.porLow) || s.mode = 5 || s.flag R.DEV_STAT_DRIVES_NOTHING ||
    s.alarms.any (fun a => a.2.st = 1 || a.2.st = 3) || s.flag R.DEV_ALARM_SUM_OVERFLOW || s.mus.thermalOff)

end Sys2Proof.Machine
end

