-- ==== Sys2Proof/Machine/Adc.lean ====
section
/-!
DEFINITION. Converters and the decimation engine (R269 to R285): results, settling, channel faults, SAR bursts, the reference
check, and the points of a frame.
-/

namespace Sys2Proof.Machine

open Sys2Proof

def State.conv (s : State) (ch : Nat) : ConvSt := tget s.adc.chs ch {}

def State.putConv (s : State) (ch : Nat) (c : ConvSt) : State :=
  { s with adc := { s.adc with chs := tput s.adc.chs ch c } }

/-- The channel's STATE: 0 OFF, 1 SETTLING, 2 RUN, 3 FAULT (R284). -/
def State.convState (s : State) (ch : Nat) : Nat := s.get R.ADC_CH_STAT_STATE ch

/-- The scale of a channel, M_ch / 2^SH (R274): it folds 1 / OSR^k, for CALM the mean of 20, and GAIN_TRIM. How firmware rounds
M_ch is open. [Log DESIGN CHOICE: 121] -/
def convScale (c : ConvCfg) (slow : Bool) : Rat :=
  Config.value 0x274 [(c.preset : Rat), if slow then 1 else 0, c.gainTrim]

/-- The result of a filter output (R274): rounded half up once, the offset added, saturated to 24 bits. [Log DESIGN CHOICE: 121] -/
def convResult (c : ConvCfg) (slow : Bool) (comb : Int) : Int × Bool :=
  satBits 24 (((comb : Rat) * convScale c slow + 1 / 2).floor + c.offsetTrim)

/-- The bitstream group of a channel runs at 10 MHz (R270). -/
def State.convSlow (s : State) (ch : Nat) : Bool := decide (16 ≤ ch ∧ ch < 32) && s.man.adc.bsRate.testBit ((ch - 16) / 4)

/-- Postmark to result-ready in ns (R275, R280): (16 + 8 n) cycles of 400 MHz for slot n, 40 ns for SAR. -/
def convSkew (ch : Nat) : Nat := if ch < 32 then 40 + 20 * ch else 40

/-- Group delay in ns (R276, R280). -/
def convDelay (c : ConvCfg) (slow : Bool) : Nat :=
  if c.kind = 2 then 100 * 2 ^ c.avgLog2 + 40
  else match c.preset with
    | 0 => if slow then 574800 else 574900
    | 1 => if slow then 99800 else 99900
    | 2 => if slow then 14850 else 14925
    | _ => if slow then 3600 else 3675

/-- How long a channel settles in ns (R278). [Log DEDUCED: 122] -/
def convSettle (preset : Nat) : Nat :=
  match preset with | 0 => 1200000 | 1 => 200000 | 2 => 30000 | _ => 7500

/-- A channel sets OVR or CLIP (R274, R279, R280): flag, event and record at the change. -/
def State.convFlag (s : State) (ch : Nat) (f e : Fld) (code : Nat) (item : Nat × Nat) : State :=
  if s.flag f ch then s
  else ((s.set f 1 ch).evt e).record { code := code, source := ch, items := [(1, ch), item], key := 1 }

/-- A result becomes ready (R274, R275, R282): registers, count, and the results of the frame. -/
def State.convReady (s : State) (ch : Nat) (c : ConvCfg) (res : Int) (clip ovr : Bool) (pm : Pm) : State :=
  let v := s.conv ch
  let s := s.putConv ch { v with res := res, pm := pm, readyAt := some s.now, updates := (v.updates + 1) % 65536,
                                 sum := v.sum + res, n := v.n + 1, flagged := v.flagged || clip || ovr }
  let w := (res % 2 ^ 24).toNat
  let s := (s.set R.ADC_CH_RES_RESULT w ch).set R.ADC_CH_RES_SIGN (if res < 0 then 255 else 0) ch
  let s := if ovr then s.convFlag ch R.ADC_CH_STAT_OVR R.ADC_EVT_OVR 0x0D02 (1, c.preset) else s
  if clip then s.convFlag ch R.ADC_CH_STAT_CLIP R.ADC_EVT_CLIP 0x0D03 (3, w) else s

/-- A result of the device's own balls: a standby keeps it for the comparison only (R283). -/
def State.convOwn (s : State) (ch : Nat) (c : ConvCfg) (r : Int × Bool) (ovr : Bool) : State :=
  if s.follows then s.putConv ch { s.conv ch with own := r.1 }
  else (s.sent 12).convReady ch c r.1 r.2 ovr (pmOf (s.ns - convSkew ch))

/-- A CONV record of the active (R283, R357). -/
def State.convInput (s : State) (ch : Nat) (res : Int) (pm : Pm) (ovr clip : Bool) : State :=
  match tfind s.man.adc.chs ch with
  | some c => s.convReady ch c res clip ovr pm
  | none => s

/-- The first tick of RUN-IN resets the integrators of every configured channel, and a tick boundary those of a channel that left
FAULT (R269, R278). SAR channels run at once. [Log DEDUCED: 122] -/
def State.adcTick (s : State) : State :=
  s.man.adc.chs.foldl (fun (s : State) x =>
    let v := s.conv x.1
    if s.convState x.1 = 0 then
      if x.2.kind = 2 then s.set R.ADC_CH_STAT_STATE 2 x.1
      else (s.set R.ADC_CH_STAT_STATE 1 x.1).putConv x.1 { v with settleAt := s.now }
    else if v.settleDue then s.putConv x.1 { v with settleAt := s.now, settleDue := false }
    else s) s

/-- CONVERTER_RESULT (R274, R275): `comb` is the filter's exact output, `ovr` that 64 equal bits came since the last result.
[Log DESIGN CHOICE: 10, 121] -/
def execConverterResult (dt ch : Nat) (comb : Int) (ovr : Bool) (s : State) : Out :=
  let s := s.advance dt
  match tfind s.man.adc.chs ch with
  | some c =>
    if s.convState ch = 2 && c.kind ≤ 1 then .next (s.convOwn ch c (convResult c (s.convSlow ch) comb) ovr) else .next s
  | none => .next s

/-- SETTLING_DONE (R278): the filter is full, the first result is delivered. -/
def execSettlingDone (dt ch : Nat) (comb : Int) (s : State) : Out :=
  let s := s.advance dt
  match tfind s.man.adc.chs ch with
  | some c =>
    let v := s.conv ch
    if s.convState ch = 1 && !v.settleDue && decide (v.settleAt + convSettle c.preset + convSkew ch ≤ s.now) then
      .next ((s.set R.ADC_CH_STAT_STATE 2 ch).convOwn ch c (convResult c (s.convSlow ch) comb) false)
    else .next s
  | none => .next s

/-- BITSTREAM_FAULT (R279): no transition for 4,096 modulator periods. -/
def execBitstreamFault (dt ch periods : Nat) (s : State) : Out :=
  let s := s.advance dt
  match tfind s.man.adc.chs ch with
  | some c =>
    if c.kind = 1 && 4096 ≤ periods && (s.convState ch = 1 || s.convState ch = 2) then
      let s := (s.set R.ADC_CH_STAT_STATE 3 ch).convFlag ch R.ADC_CH_STAT_OVR R.ADC_EVT_OVR 0x0D02 (1, c.preset)
      .next ((s.evt R.ADC_EVT_FAULT).record { code := 0x0D01, source := ch, items := [(1, ch), (1, 3)] })
    else .next s
  | none => .next s

/-- BITSTREAM_RECOVERY (R278, R279): transitions for 1 ms end the FAULT; the channel settles from the next tick boundary. -/
def execBitstreamRecovery (dt ch presentNs : Nat) (s : State) : Out :=
  let s := s.advance dt
  if s.convState ch = 3 && 1000000 ≤ presentNs then
    let s := (s.set R.ADC_CH_STAT_STATE 1 ch).putConv ch { s.conv ch with settleDue := true }
    .next ((s.evt R.ADC_EVT_RECOVERED).record { code := 0x0D01, source := ch, items := [(1, ch), (1, 1)] })
  else .next s

/-- A SAR channel is triggered (R280, R281): a burst starts, or the trigger is ignored, counted and recorded. [Log DEDUCED: 187] -/
def State.sarTrigger (s : State) (ch : Nat) : State :=
  match tfind s.man.adc.chs ch with
  | some c =>
    let v := s.conv ch
    if c.kind ≠ 2 || s.convState ch ≠ 2 then s
    else if v.burstAt.isSome then
      let src := if c.unit.isSome then 1 else 0
      let s := (s.putConv ch { v with ignored := v.ignored + 1 }).set R.ADC_CH_STAT_OVERRUN 1 ch
      (s.evt R.ADC_EVT_OVERRUN).record { code := 0x0D04, source := ch, items := [(1, ch), (1, src)] }
    else s.putConv ch { v with burstAt := some s.now }
  | none => s

/-- SAR_TRIGGER (R280, R281). -/
def execSarTrigger (dt ch : Nat) (s : State) : Out := .next ((s.advance dt).sarTrigger ch)

/-- The sum of a burst on the 24-bit scale: sum × 2^12 / AVG (R280). -/
def sarValue (avgLog2 : Nat) (codes : List Int) : Int := codes.sum * 4096 / 2 ^ avgLog2

/-- A code at an end of the 12-bit range (R280). -/
def sarClip (codes : List Int) : Bool := codes.any fun x => decide (2047 ≤ x) || decide (x ≤ -2048)

/-- SAR_RESULT (R280): the result is ready 40 ns after AVG conversions of 200 ns. -/
def execSarResult (dt ch : Nat) (codes : List Int) (s : State) : Out :=
  let s := s.advance dt
  match tfind s.man.adc.chs ch with
  | some c =>
    let v := s.conv ch
    match v.burstAt with
    | some t =>
      if t + 2 ^ c.avgLog2 * 200 + 40 ≤ s.now && codes.length = 2 ^ c.avgLog2 then
        .next ((s.putConv ch { v with burstAt := none }).convOwn ch c (sarValue c.avgLog2 codes, sarClip codes) false)
      else .next s
    | none => .next s
  | none => .next s

/-- VREF_CHECK (R272): VREF_ADC differs from the bandgap by `diff` of its value; above 2 % REF_FAULT stands. -/
def execVrefCheck (dt : Nat) (diff : Rat) (s : State) : Out :=
  let s := s.advance dt
  let bad := decide (2 / 100 < absR diff)
  let was := s.adc.refFault
  let s : State := { s.setB R.ADC_STAT_REF_OK (!bad) with adc := { s.adc with refFault := bad } }
  if bad = was then .next s
  else
    .next ((s.evt R.ADC_EVT_REF).record
      { code := 0x0D05, key := 1, items := [(1, if s.man.adc.external then 1 else 0), measItem 0x0D05 diff] })

/-- ADC_CH_RES_READ (R284): returns the selected channel's result and latches the postmark and UPDATES of the same result. -/
def execAdcChResRead (dt : Nat) (port : Port) (s : State) : Out :=
  let s := (s.advance dt).lullLeave 2
  let ch := s.get R.ADC_SEL_CH
  let v := s.conv ch
  let s : State := { s with adc := { s.adc with latched := some (ch, (pmTotal v.pm) % 2 ^ 32, v.updates) } }
  let w := s.get R.ADC_CH_RES_RESULT ch + 16777216 * s.get R.ADC_CH_RES_SIGN ch
  .next (match port with
    | .pcie => { s with pcie := { s.pcie with rdata := w } }
    | .spi => { s with spi := { s.spi with rdata := w } })

/-- The quality of a channel's points of a frame (R282). -/
def State.convQuality (s : State) (ch : Nat) (v : ConvSt) : Quality :=
  if s.convState ch = 1 || s.convState ch = 3 then .masked
  else if v.flagged || s.adc.refFault then .uncertain
  else .good

/-- The base address of a channel's points: segment by kind, node n (R269). -/
def convBase (ch : Nat) : Nat :=
  if ch < 16 then addr0 0 ch 0 0 else if ch < 32 then addr0 1 (ch - 16) 0 0 else addr0 2 (ch - 32) 0 0

/-- The device writes a point with a postmark of its own. -/
def State.putAt (s : State) (addr value : Nat) (pm : Pm) (q : Quality) : State :=
  match s.findPt addr with
  | some i => s.putPoint i value pm q
  | none => s

/-- The mean of the frame's results, rounded half up (R282). -/
def convMean (v : ConvSt) : Int := ((v.sum : Rat) / (v.n : Rat) + 1 / 2).floor

/-- The MEAN current of a loop input in mA (R295): the channel's voltage across the 12.5 Ω shunt. -/
def loopInMa (c : ConvCfg) (mean : Int) : Rat :=
  (mean : Rat) / 8388608 * (if c.high then 1600 else 320) / (25 / 2)

/-- The classification of R295: NE43 and quality. -/
def ne43 (ma : Rat) : Nat × Quality :=
  if ma ≤ 36 / 10 then (1, .masked) else if 21 ≤ ma then (4, .masked)
  else if ma < 38 / 10 then (2, .uncertain) else if 205 / 10 < ma then (3, .uncertain) else (0, .good)

/-- A loop input's points and events at the frame boundary (R295). -/
def State.loopIn (s : State) (ch : Nat) (c : ConvCfg) (v : ConvSt) (q : Quality) : State :=
  let ma := loopInMa c (convMean v)
  let k := ne43 ma
  let q' := if q = .good then k.2 else q
  let s := (s.putAt (convBase ch + 256) (q32 ma) v.pm q').putAt (convBase ch + 257) k.1 v.pm q'
  if k.1 = v.ne43 || q ≠ .good then s
  else
    let s := s.putConv ch { s.conv ch with ne43 := k.1 }
    let s := s.record { code := 0x0E08, source := ch, items := [(1, ch), (1, v.ne43), (1, k.1)] }
    if k.1 = 1 || k.1 = 4 then s.evt R.CLP_EVT_LOOP_IN else s

/-- A channel's points of the frame that ends (R282, R295), and the next frame's count. -/
def State.convFrame (s : State) (x : Nat × ConvCfg) : State :=
  let ch := x.1
  let v := s.conv ch
  if s.convState ch = 0 then s
  else
    let q := s.convQuality ch v
    let s := if v.n = 0 then s.putAt (convBase ch + 2) 0 s.pm q
      else
        let s := (s.putAt (convBase ch) (bits64 v.res) v.pm q).putAt (convBase ch + 1) (bits64 (convMean v)) v.pm q
        s.putAt (convBase ch + 2) v.n v.pm q
    let s := if x.2.loopIn && v.n ≠ 0 then s.loopIn ch x.2 v q else s
    s.putConv ch { s.conv ch with sum := 0, n := 0, flagged := false }

/-- Every channel's points of the frame. -/
def State.adcFrame (s : State) : State := s.man.adc.chs.foldl State.convFrame s

end Sys2Proof.Machine
end

