-- ==== Sys2Proof/Machine/Flags.lean ====
section
/-!
DEFINITION. The flag computations several meanings share: rounding to a fixed-point format with its saturation flag (R240), the
limit flags of an output (R240), and the state a feed-forward shows (R253).
-/

namespace Sys2Proof.Machine

open Sys2Proof

/-- An exact value rounded once, half up, to `frac` fraction bits, and saturated to `w` bits (R240). [Log DEDUCED: 124] -/
def fixQ (w frac : Nat) (x : Rat) : Int × Bool := satBits w (x * 2 ^ frac + 1 / 2).floor

/-- A signal: Q2.30 (R240). [Log DEDUCED: 124] -/
def q30 (x : Rat) : Int × Bool := fixQ 32 30 x

/-- A gain or coefficient: Q8.24, never saturated (R240, R242). -/
def q24 (x : Rat) : Int := (x * 2 ^ 24 + 1 / 2).floor

/-- A coefficient fits Q8.24 (R242). -/
def fitsQ24 (x : Rat) : Bool := !(satBits 32 (q24 x)).2

/-- The output clamp of a law, and SAT_HI and SAT_LO: limiting, not saturation (R240, R241). -/
def clampFlags (lo hi v : Int) : Int × Bool × Bool := (max lo (min hi v), decide (hi ≤ v), decide (v ≤ lo))

/-- FF_STATE (R253, R266): 0 off, 1 full, 2 reduced, 3 fading, from the weight and its target. -/
def ffStateOf (g target : Rat) : Nat :=
  if g ≠ target then 3 else if g = 0 then 0 else if g = 1 then 1 else 2

end Sys2Proof.Machine
end

