-- ==== Sys2Proof/Machine/Control.lean ====
section
/-!
DEFINITION. The five control laws of the loop cells in fixed point (R240 to R242), the cascade hold of the integrator (R250) and
tracking (R257). Signals are Q2.30, coefficients Q8.24, integrator and filter states Q8.56; products are exact and each stored
value is rounded once.
-/

namespace Sys2Proof.Machine

open Sys2Proof

/-- The coefficients a law uses, each one Q8.24 value (R242). -/
structure Coefs where
  kp : Int := 0
  b : Int := 0
  c : Int := 0
  kiTs : Int := 0
  kawTs : Int := 0
  ad : Int := 0
  bd : Int := 0
  nr : Int := 0
  k0 : Int := 0
  k1 : Int := 0
  k2 : Int := 0
  k3 : Int := 0
  k3Ts : Int := 0
  b0 : Int := 0
  b1 : Int := 0
  b2 : Int := 0
  a1 : Int := 0
  a2 : Int := 0
  deriving DecidableEq, Repr

/-- The exact values of the coefficients of a cell at Ts in s (R241, R242). `num` reads a parameter, tuned or not, by its key. The
tangent and the power of ten of the notch have no algorithm in the spec. -/
def coefRats (x : CellCfg) (num : Nat → Rat → Rat) (ts : Rat) : List Rat :=
  let kp := num 0 x.kp
  let ki := num 1 x.ki
  let kaw := num 2 (x.kaw.getD (if kp = 0 then 0 else ki / kp))
  let kd := num 3 x.kd
  let tf := num 4 (x.tf.getD (10 * ts))
  let b := if x.law = 2 then num 5 x.b else 1
  let c := if x.law = 2 then num 6 x.c else if x.dErr then 1 else 0
  let k3 := num 11 x.k3
  let a := 2 * num 13 x.t1 / ts
  let e := 2 * num 14 x.t2 / ts
  let kll := num 12 x.kll
  let f0 := num 15 x.f0
  let depth := num 16 x.depth
  let zp := num 17 x.width / (2 * f0)
  let zz := if depth = 0 then zp else zp * Config.pow 10 (depth / 20)
  let t := Config.value 0x242 [f0 * ts]
  let a0 := 1 + 2 * zp * t + t * t
  let ll := x.law = 4
  [kp, b, c, ki * ts, kaw * ts, tf / (tf + ts), kd / (tf + ts), num 7 x.nr, num 8 x.k0, num 9 x.k1, num 10 x.k2, k3, k3 * ts,
   if ll then kll * (1 + a) / (1 + e) else (1 + 2 * zz * t + t * t) / a0,
   if ll then kll * (1 - a) / (1 + e) else 2 * (t * t - 1) / a0,
   if ll then 0 else (1 - 2 * zz * t + t * t) / a0,
   if ll then (1 - e) / (1 + e) else 2 * (t * t - 1) / a0,
   if ll then 0 else (1 - 2 * zp * t + t * t) / a0]

/-- Ts of a cell in s (R241). -/
def cellTs (x : CellCfg) : Rat := (x.div : Rat) / 100000

/-- Every coefficient that the cell's law uses fits Q8.24 (R86, R242). [Log PRESUMED: 131] -/
def coefsFit (x : CellCfg) (num : Nat → Rat → Rat) : Bool :=
  let l := coefRats x num (cellTs x)
  (if x.law ≤ 2 then l.take 7 else if x.law = 3 then (l.drop 7).take 6 else l.drop 13).all fitsQ24

/-- The coefficients as the cell uses them. [Log PRESUMED: 131] -/
def coefs (x : CellCfg) (num : Nat → Rat → Rat) (ts : Rat) : Coefs :=
  let l := (coefRats x num ts).map q24
  let g := fun n => l.getD n 0
  { kp := g 0, b := g 1, c := g 2, kiTs := g 3, kawTs := g 4, ad := g 5, bd := g 6, nr := g 7, k0 := g 8, k1 := g 9, k2 := g 10,
    k3 := g 11, k3Ts := g 12, b0 := g 13, b1 := g 14, b2 := g 15, a1 := g 16, a2 := g 17 }

/-- The state a law keeps between runs (R241). -/
structure LawSt where
  i : Int := 0
  d : Int := 0
  q1 : Int := 0
  e1 : Int := 0
  x1 : Int := 0
  x2 : Int := 0
  w1 : Int := 0
  w2 : Int := 0
  u1 : Int := 0
  v1 : Int := 0
  deriving DecidableEq, Repr

/-- What a run of a law gives: the next state, v and the stages that saturated (0x0B02: 3 law evaluation, 4 state, 5 sum). -/
structure LawOut where
  st : LawSt
  v : Int
  e : Int
  sats : List Nat := []
  deriving DecidableEq, Repr

/-- The stage, where its value saturated. -/
def satStage (n : Nat) (b : Bool) : List Nat := if b then [n] else []

/-- The integrator of an outer cell is held against a change that pushes a clamped inner setpoint further (R250): `hold` is 1 where
the inner output stands at OUT_MAX, −1 at OUT_MIN. -/
def integHold (hold old new : Int) : Int := if 0 < hold * (new - old) then old else new

/-- The sum v in 80 fraction bits, stored as Q2.30. -/
def lawSum (x : Int) : Int × Bool := satBits 32 (roundShift x 50)

/-- PID and PID2 (R241). -/
def lawPid (k : Coefs) (st : LawSt) (r y ff inj lo hi hold : Int) : LawOut :=
  let e := satBits 32 (r - y)
  let p := k.kp * (k.b * r - 2 ^ 24 * y)
  let q := satBits 32 (roundShift (k.c * r - 2 ^ 24 * y) 24)
  let i := st.i + 4 * (k.kiTs * e.1 + k.kawTs * (st.u1 - st.v1))
  let i := satBits 64 (integHold hold st.i (max (2 ^ 26 * lo) (min (2 ^ 26 * hi) i)))
  let d := satBits 64 (roundShift (k.ad * st.d + 2 ^ 26 * (k.bd * (q.1 - st.q1))) 24)
  let v := lawSum (4 * p + 2 ^ 24 * (i.1 + d.1) + 2 ^ 50 * (ff + inj))
  { st := { st with i := i.1, d := d.1, q1 := q.1, e1 := e.1 }, v := v.1, e := e.1,
    sats := satStage 3 (e.2 || q.2) ++ satStage 4 (i.2 || d.2) ++ satStage 5 v.2 }

/-- State feedback (R241): with INTEG ON the integral is held as its term c3. -/
def lawSf4 (k : Coefs) (integ : Bool) (st : LawSt) (r x0 x1 x2 x3 ff inj lo hi hold : Int) : LawOut :=
  let e := satBits 32 (r - x0)
  let c := st.i + 4 * (k.kawTs * (st.u1 - st.v1) - k.k3Ts * (r - x0))
  let c := if integ && k.k3 ≠ 0 then
      satBits 64 (integHold hold st.i (max (2 ^ 26 * lo) (min (2 ^ 26 * hi) c)))
    else (0, false)
  let fb := k.nr * r - (k.k0 * x0 + k.k1 * x1 + k.k2 * x2) - (if integ then 0 else k.k3 * x3)
  let v := lawSum (2 ^ 26 * fb + 2 ^ 24 * c.1 + 2 ^ 50 * (ff + inj))
  { st := { st with i := c.1, e1 := e.1 }, v := v.1, e := e.1,
    sats := satStage 3 e.2 ++ satStage 4 c.2 ++ satStage 5 v.2 }

/-- Lead–lag (R241). -/
def lawLeadLag (k : Coefs) (st : LawSt) (r y ff inj : Int) : LawOut :=
  let e := satBits 32 (r - y)
  let w := satBits 64 (roundShift (2 ^ 26 * (k.b0 * e.1 + k.b1 * st.e1) - k.a1 * st.w1) 24)
  let v := lawSum (2 ^ 24 * w.1 + 2 ^ 50 * (ff + inj))
  { st := { st with e1 := e.1, w1 := w.1 }, v := v.1, e := e.1,
    sats := satStage 3 e.2 ++ satStage 4 w.2 ++ satStage 5 v.2 }

/-- Notch (R241); with NOTCH_IN SIGNAL the input itself, without a setpoint. -/
def lawNotch (k : Coefs) (signal : Bool) (st : LawSt) (r y ff inj : Int) : LawOut :=
  let e := if signal then (0, false) else satBits 32 (r - y)
  let x := if signal then y else e.1
  let w := satBits 64 (roundShift (2 ^ 26 * (k.b0 * x + k.b1 * st.x1 + k.b2 * st.x2) - k.a1 * st.w1 - k.a2 * st.w2) 24)
  let v := lawSum (2 ^ 24 * w.1 + 2 ^ 50 * (ff + inj))
  { st := { st with e1 := e.1, x1 := x, x2 := st.x1, w1 := w.1, w2 := st.w1 }, v := v.1, e := e.1,
    sats := satStage 3 e.2 ++ satStage 4 w.2 ++ satStage 5 v.2 }

/-- The law of a cell (R241). `xs` are its inputs. -/
def lawRun (x : CellCfg) (k : Coefs) (st : LawSt) (r : Int) (xs : List Int) (ff inj lo hi hold : Int) : LawOut :=
  let y := xs.getD 0 0
  match x.law with
  | 3 => lawSf4 k x.integ st r y (xs.getD 1 0) (xs.getD 2 0) (xs.getD 3 0) ff inj lo hi hold
  | 4 => lawLeadLag k st r y ff inj
  | 5 => lawNotch k x.notchSignal st r y ff inj
  | _ => lawPid k st r y ff inj lo hi hold

/-- Tracking in HELD (R257): the next run starts from the held output. -/
def lawTrack (x : CellCfg) (k : Coefs) (st : LawSt) (xs : List Int) (held ff : Int) : LawSt × Bool :=
  let y := xs.getD 0 0
  let st := { st with u1 := held, v1 := held, e1 := 0 }
  match x.law with
  | 3 =>
    if x.integ && k.k3 ≠ 0 then
      let fb := k.nr * y - (k.k0 * y + k.k1 * xs.getD 1 0 + k.k2 * xs.getD 2 0)
      let c := satBits 64 (2 ^ 26 * (held - ff) - 4 * fb)
      ({ st with i := c.1 }, c.2)
    else (st, false)
  | 4 => ({ st with w1 := 2 ^ 26 * (held - ff) }, false)
  | 5 =>
    let w := 2 ^ 26 * (held - ff)
    let h := if x.notchSignal then y else 0
    ({ st with w1 := w, w2 := w, x1 := h, x2 := h }, false)
  | _ =>
    let q := satBits 32 (roundShift ((k.c - 2 ^ 24) * y) 24)
    let i := satBits 64 (roundShift (2 ^ 48 * (held - ff) - k.kp * ((k.b - 2 ^ 24) * y)) 22)
    ({ st with q1 := q.1, d := 0, i := i.1 }, q.2 || i.2)

/-- The latency of a law in ns, trigger to actuator write (R248). [Log DEDUCED: 128] -/
def lawLatency (law : Nat) : Nat :=
  match law with | 1 => 600 | 2 => 640 | 3 => 800 | 4 => 560 | _ => 600

/-- The slew limiter (R251): towards the raw setpoint, by at most `up` or `dn` a run. -/
def slewTo (r raw up dn : Int) : Int := if r < raw then min raw (r + up) else max raw (r - dn)

end Sys2Proof.Machine
end

