-- ==== Sys2Proof/Machine/Loop.lean ====
section
/-!
DEFINITION. Loop cells (R239 to R258): inputs, setpoints, feed-forward, runs and misses, outputs and safe laws; encoders and PWM
channels (R245, R247); test injection and capture (R254 to R256).
-/

namespace Sys2Proof.Machine

open Sys2Proof

def State.cell (s : State) (n : Nat) : CellSt := tget s.loop.cells n {}

def State.putCell (s : State) (n : Nat) (c : CellSt) : State :=
  { s with loop := { s.loop with cells := tput s.loop.cells n c } }

def State.cellCfg (s : State) (n : Nat) : Option CellCfg := tfind s.man.loop.cells n

/-- The cell's STATE: 0 UNUSED, 1 HELD, 2 RUN, 3 STOPPING, 4 SAFE-LAW, 5 FAULT (R266). -/
def State.cellState (s : State) (n : Nat) : Nat := s.get R.LOOP_CELL_STAT_STATE n

/-- A function's STATE (R267). -/
def State.fnState (s : State) (f : Nat) : Nat := s.get R.MFN_FN_STAT_STATE f

/-- A parameter of a cell: as tuned (R86), in Q32.32, or as the manifest gives it. -/
def State.cellNum (s : State) (x : CellCfg) (key : Nat) (d : Rat) : Rat :=
  match tfind x.tune key with
  | some p => match tfind s.mnf.tuned p with | some v => (v : Rat) / 4294967296 | none => d
  | none => d

def State.cellCoefs (s : State) (x : CellCfg) : Coefs := coefs x (s.cellNum x) (cellTs x)

/-- A limit of a cell in Q2.30: OUT_MIN, OUT_MAX, SP_MIN, SP_MAX by key 20 to 23. -/
def State.cellLim (s : State) (x : CellCfg) (key : Nat) (d : Rat) : Int := (q30 (s.cellNum x key d)).1

def State.outMin (s : State) (x : CellCfg) : Int := s.cellLim x 20 x.outMin
def State.outMax (s : State) (x : CellCfg) : Int := s.cellLim x 21 x.outMax

/-- 32 bits of two's complement. -/
def bits32 (v : Int) : Nat := (v % 2 ^ 32).toNat

/-! ### Encoders (R245) -/

def State.enc (s : State) (n : Nat) : EncSt := tget s.loop.encs n {}

def State.putEnc (s : State) (n : Nat) (e : EncSt) : State :=
  { s with loop := { s.loop with encs := tput s.loop.encs n e } }

/-- The count moves on by quadrature edges, modulo 2^32. [Log DEDUCED: 125] -/
def State.encMove (s : State) (n : Nat) (moved : Int) : State :=
  let e := s.enc n
  s.putEnc n { e with count := (((e.count : Int) + moved) % 2 ^ 32).toNat }

/-- The interface captures its count and a postmark (R245). -/
def State.encCapture (s : State) (n count : Nat) : State :=
  ((s.set R.LOOP_ENC_CNT_COUNT count n).set R.LOOP_ENC_PM_PM32 s.pm32 n).inc R.LOOP_ENC_STAT_UPDATES n

/-- ENCODER_INDEX (R245): LATCH records the count at the first index after arming, ZERO clears it at every index.
[Log DEDUCED: 136] -/
def execEncoderIndex (dt enc : Nat) (moved : Int) (s : State) : Out :=
  let s := (s.advance dt).encMove enc moved
  let e := s.enc enc
  match tget s.man.loop.encs enc 0 with
  | 1 =>
    if s.flag R.LOOP_ENC_STAT_INDEX_SEEN enc then .next s
    else .next ((s.putEnc enc { e with latched := some e.count }).set R.LOOP_ENC_STAT_INDEX_SEEN 1 enc)
  | 2 => .next ((s.putEnc enc { e with count := 0 }).set R.LOOP_ENC_STAT_INDEX_SEEN 1 enc)
  | _ => .next s

/-- An edge error of an interface (R245, 0x0B07). -/
def State.encEdgeError (s : State) (enc : Nat) : State :=
  (s.set R.LOOP_ENC_STAT_EDGE_ERR 1 enc).record
    { code := 0x0B07, source := enc, items := [(1, enc), (4, (s.enc enc).count)], key := 1 }

/-- ENCODER_EDGE_ERROR (R245): A and B changed together; the count holds. `moved` counts the good edges before. -/
def execEncoderEdgeError (dt enc : Nat) (moved : Int) (s : State) : Out :=
  .next (((s.advance dt).encMove enc moved).encEdgeError enc)

/-! ### Outputs (R246, R247, R265) -/

def State.pwm (s : State) (ch : Nat) : PwmSt := tget s.loop.pwm ch {}

def State.putPwm (s : State) (ch : Nat) (p : PwmSt) : State :=
  { s with loop := { s.loop with pwm := tput s.loop.pwm ch p } }

/-- An output as a fraction of OUT_MIN to OUT_MAX. -/
def outFrac (u lo hi : Int) : Rat := ((u - lo : Int) : Rat) / ((hi - lo : Int) : Rat)

/-- The compare value of a duty (R247), in units of 78.125 ps, 32 to a cycle. -/
def pwmCompare (period : Nat) (frac : Rat) : Nat := ((clampTo 0 1 frac) * (period * 32 : Nat) + 1 / 2).floor.toNat

/-- The cell writes its actuator register (R246): a standby, or a device that holds its outputs, writes no ball's register. -/
def State.actuate (s : State) (x : CellCfg) (u : Int) : State :=
  let f := outFrac u (s.outMin x) (s.outMax x)
  match x.outKind with
  | 1 =>
    match tfind s.man.loop.pwm x.outIdx with
    | some p =>
      if s.outHeld || !s.drives then s
      else
        let k := pwmCompare p.period f
        let w := s.pwm x.outIdx
        s.putPwm x.outIdx { w with shadow := k, on := true, compare := if p.immediate then k else w.compare }
    | none => s
  | 2 =>
    match tfind s.man.clp.chs x.outIdx with
    | some p =>
      let c := tget s.clp.chs x.outIdx {}
      let c := { c with cellReq := p.spanLo + f * (p.spanHi - p.spanLo), cellOff := false }
      { s with clp := { s.clp with chs := tput s.clp.chs x.outIdx c } }
    | none => s
  | 3 => s.putNum x.outIdx ((u : Rat) / 1073741824 * x.fsOut) .good
  | _ => s

/-- The output register takes a value, `lat` ns from now; until then a reader sees the value before (R244, R248). -/
def State.setOutIn (s : State) (n : Nat) (x : CellCfg) (u : Int) (lat : Nat) : State :=
  let c := s.cell n
  let s := s.putCell n { c with uOld := if c.uAt < s.now then c.u else c.uOld, u := u, uAt := s.now + lat, held := false }
  (s.set R.LOOP_CELL_OUT_VALUE (bits32 u) n).actuate x u

/-- The output register takes a value at once. -/
def State.setOut (s : State) (n : Nat) (x : CellCfg) (u : Int) : State := s.setOutIn n x u 0

/-- The output reset state of a cell's output (R44). -/
def State.resetOut (s : State) (n : Nat) (x : CellCfg) : State :=
  let c := s.cell n
  let s := (s.putCell n { c with uOld := 0, u := 0, uAt := s.now, held := true }).set R.LOOP_CELL_OUT_VALUE 0 n
  match x.outKind with
  | 1 => s.putPwm x.outIdx { s.pwm x.outIdx with shadow := 0, compare := 0, on := false }
  | 2 =>
    let p := tget s.clp.chs x.outIdx {}
    { s with clp := { s.clp with chs := tput s.clp.chs x.outIdx { p with cellReq := 0, cellOff := true } } }
  | _ => s

/-- PWM_PERIOD_START (R247): with UPDATE PERIOD the compare value loads at the period start. -/
def execPwmPeriodStart (dt ch : Nat) (s : State) : Out :=
  let s := s.advance dt
  match tfind s.man.loop.pwm ch with
  | some _ => let w := s.pwm ch; .next (s.putPwm ch { w with compare := w.shadow, periodAt := s.now })
  | none => .next s

/-! ### Test injection (R254, R255) -/

/-- An injection ends (R255): RESULT, event and record; inj is 0 from the next run. -/
def State.injStop (s : State) (n res : Nat) : State :=
  let c := s.cell n
  match c.test with
  | some t =>
    let s := (s.putCell n { c with test := none }).set R.LOOP_INJ_CMD_RESULT res n
    ((s.set R.LOOP_CELL_STAT_INJ 0 n).evt R.LOOP_EVT_INJ_END).record
      { code := 0x0B03, source := n, role := .installer, keyId := t.keyId,
        items := [(1, n), (1, t.shape), (1, res), (1, Role.installer.code), (2, t.keyId)] }
  | none => s

/-- The injected value of a run and the injection's next state (R254). The feedback of the shift register, the bit it gives and the
sine are open. [Log DESIGN CHOICE: 134] -/
def injValue (t : InjSt) (elapsed : Nat) (ts : Rat) : Int × InjSt :=
  if t.dur * 1000000 ≤ elapsed then (0, t)
  else
    match t.shape with
    | 1 => (t.amp, t)
    | 2 =>
      let x := (elapsed : Rat) / (t.dur * 1000000 : Nat)
      let f0 : Rat := t.f0
      let f1 : Rat := t.f1
      let f := (if t.linear then f0 + (f1 - f0) * x else f0 * Config.pow (f1 / f0) x) / 1000
      ((q30 ((t.amp : Rat) / 1073741824 * sind (360 * t.phase))).1, { t with phase := t.phase + f * ts })
    | _ =>
      let v := if Config.fresh 0x254 t.reg % 2 = 1 then t.amp else -t.amp
      if t.left ≤ 1 then
        (v, { t with reg := Config.fresh (0x2550 + t.order) t.reg % 2 ^ t.order, left := t.bitRuns })
      else (v, { t with left := t.left - 1 })

/-- INJECTION_START (R254): judged for the selected cell, and PENDING until its frame boundary. [Log DEDUCED: 135] -/
def execInjectionStart (dt : Nat) (port : Port) (s : State) : Out :=
  let s := s.advance dt
  .next (s.withRole port [.installer] 0xA040 fun s =>
    let n := s.get R.LOOP_SEL_CELL
    let shape := s.get R.LOOP_INJ_CFG_SHAPE n
    let amp := s.get R.LOOP_INJ_AMP_AMP n
    let refuse := fun (s : State) (res : Nat) =>
      (s.set R.LOOP_INJ_CMD_RESULT res n).record
        { code := 0x0B03, source := n, role := .installer, keyId := s.role.keyId,
          items := [(1, n), (1, shape), (1, res), (1, Role.installer.code), (2, s.role.keyId)] }
    match s.cellCfg n with
    | none => refuse s 5
    | some x =>
      if s.mode ≠ 2 || !s.isActive || s.fnState x.fn ≠ 2 then refuse s 5
      else if x.injMax * 1073741824 < (amp : Rat) then refuse s 6
      else
        let order := s.get R.LOOP_INJ_CFG_ORDER n
        let t : InjSt := { shape := shape, out := s.flag R.LOOP_INJ_CFG_TARGET n, linear := s.flag R.LOOP_INJ_CFG_SWEEP n,
                           order := order, bitRuns := s.get R.LOOP_INJ_CFG_BIT_RUNS n, amp := amp,
                           f0 := s.get R.LOOP_INJ_F0_MHZ n, f1 := s.get R.LOOP_INJ_F1_MHZ n, dur := s.get R.LOOP_INJ_DUR_MS n,
                           keyId := s.role.keyId, at_ := s.now, reg := 2 ^ order - 1, left := s.get R.LOOP_INJ_CFG_BIT_RUNS n }
        (s.putCell n { s.cell n with test := some t }).set R.LOOP_INJ_CMD_RESULT 1 n)

/-- INJECTION_STOP (R255). -/
def execInjectionStop (dt : Nat) (port : Port) (s : State) : Out :=
  .next ((s.advance dt).withRole port [.installer] 0xA040 fun s => s.injStop (s.get R.LOOP_SEL_CELL) 4)

/-- INJECTION_END (R255): after DUR. -/
def execInjectionEnd (dt cell : Nat) (s : State) : Out :=
  let s := s.advance dt
  match (s.cell cell).test with
  | some t =>
    match t.startAt with
    | some a => if a + t.dur * 1000000 ≤ s.now then .next (s.injStop cell 3) else .next s
    | none => .next s
  | none => .next s

/-! ### Capture (R256) -/

def State.cap (s : State) (u : Nat) : CapSt := tget s.loop.caps u {}

def State.putCap (s : State) (u : Nat) (c : CapSt) : State :=
  { s with loop := { s.loop with caps := tput s.loop.caps u c } }

/-- The cell of a unit's channel: one of the owning function's cells, by FCELL. -/
def State.capCell (s : State) (u ch : Nat) : Option Nat :=
  let fc := match ch with
    | 0 => s.get R.LOOP_CAP_SIG_FCELL0 u | 1 => s.get R.LOOP_CAP_SIG_FCELL1 u
    | 2 => s.get R.LOOP_CAP_SIG_FCELL2 u | _ => s.get R.LOOP_CAP_SIG_FCELL3 u
  match tfind s.man.loop.caps u with
  | some f => match tfind s.man.loop.fns f with | some g => (g.cells[fc]?).map (·.cell) | none => none
  | none => none

/-- A signal of a cell, 32 bits (R256): INTEG is rounded to Q2.30. [Log DEDUCED: 132] -/
def cellSignal (c : CellSt) (sig : Nat) : Int :=
  match sig with
  | 1 => c.rawSeen | 2 => c.r | 3 => c.ys.getD 0 0 | 4 => c.e | 5 => c.u | 6 => c.inj | 7 => c.ff
  | 8 => (satBits 32 (roundShift c.i 26)).1
  | _ => 0

def State.capSignal (s : State) (u ch : Nat) : Int :=
  let sig := match ch with
    | 0 => s.get R.LOOP_CAP_SIG_SIG0 u | 1 => s.get R.LOOP_CAP_SIG_SIG1 u
    | 2 => s.get R.LOOP_CAP_SIG_SIG2 u | _ => s.get R.LOOP_CAP_SIG_SIG3 u
  match s.capCell u ch with
  | some n => cellSignal (s.cell n) sig
  | none => 0

/-- The unit's trigger (R256): the next sample to complete is the trigger sample. [Log DEDUCED: 133] -/
def State.capTrigger (s : State) (u trig : Nat) : State :=
  if s.get R.LOOP_CAP_STAT_STATE u ≠ 1 then s
  else
    let s := (s.putCap u { s.cap u with trig := true, cause := trig }).set R.LOOP_CAP_STAT_STATE 2 u
    s.record { code := 0x0B04, source := u, items := [(1, u), (1, trig), (2, s.get R.LOOP_CAP_STAT_COUNT u)], key := 2 }

/-- A trigger of a kind from a cell reaches every unit whose channel 0 records it. [Log DEDUCED: 133] -/
def State.capTriggers (s : State) (cell kind : Nat) : State :=
  (List.range 4).foldl (fun (s : State) u =>
    if s.get R.LOOP_CAP_CFG_TRIG u = kind && s.capCell u 0 = some cell then s.capTrigger u kind else s) s

/-- A run of channel 0's cell goes into a unit's sample (R256): every DEC-th run, or the mean of DEC runs. -/
def State.capRun (s : State) (u : Nat) : State :=
  let st := s.get R.LOOP_CAP_STAT_STATE u
  let count := s.get R.LOOP_CAP_STAT_COUNT u
  if (st ≠ 1 && st ≠ 2) || (st = 2 && count = 8192 && !(s.cap u).trig) then s
  else
    let c := s.cap u
    let dec := max 1 (s.get R.LOOP_CAP_CFG_DEC u)
    let now := (List.range 4).map fun ch => s.capSignal u ch
    let acc := (c.acc.zip now).map fun p => p.1 + p.2
    if c.n + 1 < dec then s.putCap u { c with acc := acc, n := c.n + 1 }
    else
      let smp := if s.flag R.LOOP_CAP_CFG_MEAN u then acc.map fun (a : Int) => shownAt 0xA04C ((a : Rat) / (dec : Rat)) else now
      let ring := (smp, s.pm32) :: c.ring
      if c.trig then
        let ring := ring.take (s.get R.LOOP_CAP_CFG_PRE u + 1)
        let s := s.putCap u { ring := ring, cause := c.cause }
        ((s.set R.LOOP_CAP_STAT_COUNT ring.length u).set R.LOOP_CAP_STAT_TRIG_IDX (ring.length - 1) u).set R.LOOP_CAP_PM_PM32 s.pm32 u
      else
        let ring := ring.take 8192
        (s.putCap u { ring := ring, cause := c.cause }).set R.LOOP_CAP_STAT_COUNT ring.length u

/-- Every unit that samples at the runs of this cell. -/
def State.capRuns (s : State) (cell : Nat) : State :=
  (List.range 4).foldl (fun (s : State) u => if s.capCell u 0 = some cell then s.capRun u else s) s

/-- CAPTURE_ARM (R256). -/
def execCaptureArm (dt : Nat) (port : Port) (s : State) : Out :=
  .next ((s.advance dt).withRole port [.operator, .installer] 0xA050 fun s =>
    let u := s.get R.LOOP_CAP_SEL_UNIT
    let s := (s.set R.LOOP_CAP_CMD_CMD 1 u).putCap u {}
    let s := s.set R.LOOP_CAP_STAT_STATE 1 u
    (s.set R.LOOP_CAP_STAT_COUNT 0 u).set R.LOOP_CAP_STAT_TRIG_IDX 0 u)

/-- CAPTURE_FORCE (R256): a trigger by command. -/
def execCaptureForce (dt : Nat) (port : Port) (s : State) : Out :=
  .next ((s.advance dt).withRole port [.operator, .installer] 0xA050 fun s =>
    let u := s.get R.LOOP_CAP_SEL_UNIT
    (s.set R.LOOP_CAP_CMD_CMD 2 u).capTrigger u 0)

/-- CAPTURE_ABORT (R256). -/
def execCaptureAbort (dt : Nat) (port : Port) (s : State) : Out :=
  .next ((s.advance dt).withRole port [.operator, .installer] 0xA050 fun s =>
    let u := s.get R.LOOP_CAP_SEL_UNIT
    let s := s.set R.LOOP_CAP_CMD_CMD 3 u
    let st := s.get R.LOOP_CAP_STAT_STATE u
    if st = 1 || st = 2 then s.set R.LOOP_CAP_STAT_STATE 4 u else s)

/-- CAPTURE_DONE (R256): the buffer of a triggered unit is full. -/
def execCaptureDone (dt unit : Nat) (s : State) : Out :=
  let s := s.advance dt
  if s.get R.LOOP_CAP_STAT_STATE unit = 2 && s.get R.LOOP_CAP_STAT_COUNT unit = 8192 && !(s.cap unit).trig then
    .next (((s.set R.LOOP_CAP_STAT_STATE 3 unit).evt R.LOOP_EVT_CAP_DONE).record
      { code := 0x0B04, source := unit, items := [(1, unit), (1, (s.cap unit).cause), (2, 8192)], key := 2 })
  else .next s

/-! ### Inputs (R244) -/

/-- What an input reads: its Q2.30 value, whether that saturated, the count of an encoder, and whether the reading is usable. -/
structure CellRead where
  y : Int := 0
  sat : Bool := false
  count : Option Nat := none
  ok : Bool := true
  deriving DecidableEq, Repr

/-- A count as a signed number. [Log DEDUCED: 125] -/
def signed32 (v : Nat) : Int := if v < 2 ^ 31 then v else (v : Int) - 2 ^ 32

/-- The converter channel of an input kind. -/
def convOf (kind idx : Nat) : Nat := if kind = 1 then idx else if kind = 2 then 16 + idx else 32 + idx

/-- The count an input uses (R245): of the capture at its trigger for a TICK cell with TRIG_OFS, else of the last capture.
[Log DESIGN CHOICE: 130] -/
def State.encCount (s : State) (x : CellCfg) (counts : List (Nat × Nat)) (e : Nat) : Nat :=
  if x.tick && x.ofs ≠ 0 then
    match tfind counts e with | some c => c % 2 ^ 32 | none => s.get R.LOOP_ENC_CNT_COUNT e
  else s.get R.LOOP_ENC_CNT_COUNT e

/-- An output of another cell as a reader sees it at its trigger (R244): of the last run completed before. -/
def State.cellOut (s : State) (n : Nat) : Int :=
  let c := s.cell n
  if c.uAt < s.now then c.u else c.uOld

/-- An input of a cell at its trigger (R244). [Log DEDUCED: 124; DESIGN CHOICE: 130] -/
def State.cellIn (s : State) (x : CellCfg) (prev : Tab Nat) (counts : List (Nat × Nat)) (k : Nat) (i : CellIn) : CellRead :=
  match i.kind with
  | 4 =>
    let c := s.encCount x counts i.idx
    let q := q30 ((signed32 c : Rat) * i.gain)
    { y := q.1, sat := q.2, count := some c }
  | 5 =>
    let c := s.encCount x counts i.idx
    let d : Rat := match tfind prev k with
      | some p => (signed32 ((c + 2 ^ 32 - p) % 2 ^ 32) : Rat)
      | none => Config.value 0x244 [(c : Rat)]
    let q := q30 (d * i.gain)
    { y := q.1, sat := q.2, count := some c }
  | 6 =>
    let r := s.ptRead i.idx
    let q := q30 (r.1 * i.gain)
    { y := q.1, sat := q.2, ok := qUsable r.2 }
  | 7 => { y := s.cellOut i.idx }
  | _ =>
    let q := q30 (((s.conv (convOf i.kind i.idx)).res : Rat) * i.gain)
    { y := q.1, sat := q.2 }

/-- Whether a cell's trigger has come in this tick (R243): 0 not yet, 1 a run, 2 its result did not come in the tick. -/
def State.cellTrigger (s : State) (x : CellCfg) : Nat :=
  let since := 2 * (s.now - s.loop.tickAt)
  if x.tick then (if 5 * x.ofs ≤ since then 1 else 0)
  else
    match x.ins with
    | i :: _ =>
      if 1 ≤ i.kind ∧ i.kind ≤ 3 then
        match (s.conv (convOf i.kind i.idx)).readyAt with
        | some t => if s.loop.tickAt ≤ t then 1 else if 5 * s.time.tickCycles ≤ since then 2 else 0
        | none => if 5 * s.time.tickCycles ≤ since then 2 else 0
      else 1
    | [] => 1

/-! ### Feed-forward (R252, R253) -/

/-- What the evaluation of a run uses: the raw value, the quality and dt in ns. -/
def State.ffSource (s : State) (x : CellCfg) : Rat × Quality × Int :=
  if x.ffSrc = 9 then
    let r := s.ptOpt x.ffPoint
    (x.ffGp * r.1, r.2, 0)
  else
    match s.loop.hull[x.ffSrc - 1]? with
    | none => (0, .masked, 0)
    | some h =>
      let dt : Int := (s.loop.tickNs : Int) + x.ofs * 5 / 2 - h.bf
      let t := (dt : Rat) / 1000000000
      (x.ffGz * (h.z + h.v * t + h.a * t * t / 2) + x.ffGv * (h.v + h.a * t) + x.ffGa * h.a, h.q, dt)

/-- The target weight g* (R253). [Log DEDUCED: 129] -/
def State.ffTarget (s : State) (x : CellCfg) (q : Quality) (dt : Int) : Rat :=
  if s.mode = 5 || decide ((x.ffDtMs : Int) * 1000000 < dt) then 0
  else match q with | .good => 1 | .uncertain => x.ffUnc | _ => 0

/-- The feed-forward of a run (R252, R253): the weight and the value move within their rates; FF_STATE, its event and its record.
[Log DEDUCED: 129] -/
def State.ffRun (s : State) (n : Nat) (x : CellCfg) : State × Bool :=
  if x.ffSrc = 0 then (s, false)
  else
    let c := s.cell n
    let src := s.ffSource x
    let tgt := s.ffTarget x src.2.1 src.2.2
    let ts := cellTs x
    let g := c.g + clampTo (-(ts / x.ffFade)) (ts / x.ffFade) (tgt - c.g)
    let v := c.ffV + clampTo (-(x.ffSlew * ts)) (x.ffSlew * ts) (g * src.1 - c.ffV)
    let q := q30 v
    let old := s.get R.LOOP_CELL_STAT_FF_STATE n
    let st := ffStateOf g tgt
    let s := (s.putCell n { c with g := g, ffV := v, ff := q.1 }).set R.LOOP_CELL_STAT_FF_STATE st n
    let s := if st = 3 && old ≠ 3 then s.evt R.LOOP_EVT_FF_FADE else s
    let s := if (st = 3) != (old = 3) then
        s.record { code := 0x0B05, source := n, key := 3,
                   items := [(1, n), (1, x.ffSrc), (1, src.2.1.code), measItem 0x0B05 ((src.2.2 : Rat) / 1000000000)] }
      else s
    (s, q.2)

/-! ### Runs (R241, R243, R250, R251, R257) -/

/-- Arithmetic saturations of a run (R240): the flag, the count, the event and a record for each stage. -/
def State.satNotes (s : State) (n : Nat) (stages : List Nat) : State :=
  stages.foldl (fun (s : State) st =>
    (((s.set R.LOOP_CELL_STAT_SAT 1 n).incSat R.LOOP_STAT_SAT).evt R.LOOP_EVT_SAT).record
      { code := 0x0B02, source := n, items := [(1, n), (1, st)] }) s

/-- The injection of a run starts, runs on or is none (R254): the state and the injected value. -/
def State.injRun (s : State) (n : Nat) (x : CellCfg) : State × Int :=
  let c := s.cell n
  match c.test with
  | none => (s, 0)
  | some t =>
    if !t.due then (s, 0)
    else
      let start := t.startAt.isNone
      let at0 := t.startAt.getD s.now
      let r := injValue { t with startAt := some at0 } (s.now - at0) (cellTs x)
      let s := s.putCell n { c with test := some r.2 }
      let s := if start then
          let s := (s.set R.LOOP_INJ_CMD_RESULT 2 n).set R.LOOP_CELL_STAT_INJ 1 n
          (s.capTriggers n 1).record
            { code := 0x0B03, source := n, role := .installer, keyId := t.keyId,
              items := [(1, n), (1, t.shape), (1, 2), (1, Role.installer.code), (2, t.keyId)] }
        else s
      (s, r.1)

/-- The raw setpoint of a run (R251, R258, R261, R262): the cell's own y in ARMING, the frozen one under HOLD, STOP_SP in a stop,
else the sum of the list's output (none for an inner cell without one), the outer cell, feed-forward and injection.
[Log DEDUCED: 126] -/
def State.rawSp (s : State) (n : Nat) (x : CellCfg) (y inj : Int) : Int :=
  let c := s.cell n
  if s.cellState n = 4 then c.frozen
  else if c.holdY then y
  else if s.cellState n = 3 then c.raw
  else
    let outer := if x.outer.isSome then c.outer else 0
    let list := if x.outer.isSome && x.sp.isNone then 0 else c.raw
    list + outer + (if x.ffSp then c.ff else 0) + inj

/-- The hold of an outer cell's integrator (R250): 1 or −1 where the inner cell stands at OUT_MAX or OUT_MIN. -/
def State.outerHold (s : State) (x : CellCfg) : Int :=
  if x.outKind = 4 then
    if s.flag R.LOOP_CELL_STAT_SAT_HI x.outIdx then 1 else if s.flag R.LOOP_CELL_STAT_SAT_LO x.outIdx then -1 else 0
  else 0

/-- The law state of a cell. -/
def lawState (c : CellSt) : LawSt :=
  { i := c.i, d := c.d, q1 := c.q1, e1 := c.e, x1 := c.x1, x2 := c.x2, w1 := c.w1, w2 := c.w2, u1 := c.u, v1 := c.v }

def CellSt.withLaw (c : CellSt) (l : LawSt) : CellSt :=
  { c with i := l.i, d := l.d, q1 := l.q1, e := l.e1, x1 := l.x1, x2 := l.x2, w1 := l.w1, w2 := l.w2 }

/-- The position error of an encoder (R241): the difference taken modulo 2^32 in counts, then scaled; the law's y is r less it.
[Log DEDUCED: 125] -/
def encError (r : Int) (count : Nat) (gain : Rat) : Int × Bool :=
  let rc := ((r : Rat) / 1073741824 / gain + 1 / 2).floor
  q30 ((signed32 (((rc - count) % 2 ^ 32).toNat) : Rat) * gain)

/-- The registers of a run (R266). -/
def State.runRegs (s : State) (n : Nat) : State :=
  let c := s.cell n
  let wait := 2 * (s.now - s.loop.tickAt) / 5
  let s := (s.set R.LOOP_CELL_SP_VALUE (bits32 c.r) n).set R.LOOP_CELL_PV_VALUE (bits32 (c.ys.getD 0 0)) n
  let s := ((s.set R.LOOP_CELL_FF_VALUE (bits32 c.ff) n).set R.LOOP_CELL_STAT_MISS 0 n).set R.LOOP_CELL_STAT_MISS_RUN 0 n
  let s := (s.setSat R.LOOP_CELL_LAT_WAIT_LAST wait n).setSat R.LOOP_CELL_LAT_WAIT_MAX
    (max wait (s.get R.LOOP_CELL_LAT_WAIT_MAX n)) n
  s.inc R.LOOP_CELL_CNT_RUNS n

/-- A run of a cell in RUN, STOPPING or under HOLD (R241, R251). -/
def State.lawStep (s : State) (n : Nat) (x : CellCfg) (rs : List CellRead) : State :=
  let f := s.ffRun n x
  let j := f.1.injRun n x
  let s := j.1
  let inj := j.2
  let c := s.cell n
  let toOut := match c.test with | some t => t.out | none => true
  let y0 := (rs.map (·.y)).getD 0 0
  let raw := satBits 32 (s.rawSp n x y0 (if toOut then 0 else inj))
  let lim := max (s.cellLim x 22 x.spMin) (min (s.cellLim x 23 x.spMax) raw.1)
  let ts := cellTs x
  let r := slewTo c.r lim (q30 (s.cellNum x 24 x.slewUp * ts)).1 (q30 (s.cellNum x 25 x.slewDn * ts)).1
  let e := match rs, x.ins with
    | k :: _, i :: _ => match k.count with
      | some cnt => if i.kind = 4 && !(x.law = 5 && x.notchSignal) then some (encError r cnt i.gain) else none
      | none => none
    | _, _ => none
  let ys := match e with | some e => (r - e.1) :: (rs.map (·.y)).drop 1 | none => rs.map (·.y)
  let lo := s.outMin x
  let hi := s.outMax x
  let ffo := if x.ffSp then 0 else c.ff
  let o := lawRun x (s.cellCoefs x) (lawState c) r ys ffo (if toOut then inj else 0) lo hi (s.outerHold x)
  let k := clampFlags lo hi o.v
  let clamped := k.2.1 || k.2.2
  let c' : CellSt := (c.withLaw o.st)
  let s := s.putCell n { c' with r := r, v := o.v, ys := ys, rawSeen := raw.1, inj := inj, e := o.e,
                                 clampAt := if clamped then (match c.clampAt with | some t => some t | none => some s.now) else none }
  let s := s.setOutIn n x k.1 (lawLatency x.law)
  let s := (s.setB R.LOOP_CELL_STAT_SAT_HI k.2.1 n).setB R.LOOP_CELL_STAT_SAT_LO k.2.2 n
  let s := s.setB R.LOOP_CELL_STAT_SLEWING (r ≠ lim) n
  let s := if clamped then s.capTriggers n 3 else s
  let sat1 := rs.any (·.sat) || (match e with | some e => e.2 | none => false)
  s.satNotes n (satStage 1 sat1 ++ satStage 2 (f.2 || raw.2) ++ o.sats)

/-- A run in HELD: tracking (R257). -/
def State.trackStep (s : State) (n : Nat) (x : CellCfg) (rs : List CellRead) : State :=
  let f := s.ffRun n x
  let s := f.1
  let c := s.cell n
  let ys := rs.map (·.y)
  let y := ys.getD 0 0
  let t := lawTrack x (s.cellCoefs x) (lawState c) ys c.u (if x.ffSp then 0 else c.ff)
  let s := s.putCell n { (c.withLaw t.1) with r := y, v := c.u, ys := ys, rawSeen := y, inj := 0, e := 0, clampAt := none }
  let s := ((s.set R.LOOP_CELL_STAT_SAT_HI 0 n).set R.LOOP_CELL_STAT_SAT_LO 0 n).set R.LOOP_CELL_STAT_SLEWING 0 n
  s.satNotes n (satStage 1 (rs.any (·.sat)) ++ satStage 2 f.2 ++ satStage 4 t.2)

/-- A miss (R243): output and states unchanged; the flag, the run of misses and the event. An injection stops. -/
def State.cellMiss (s : State) (n : Nat) : State :=
  let s := ((s.set R.LOOP_CELL_STAT_MISS 1 n).incSat R.LOOP_CELL_STAT_MISS_RUN n).evt R.LOOP_EVT_MISS
  (s.injStop n 4).capTriggers n 3

/-- Captures at the trigger of a TICK cell with TRIG_OFS (R245). -/
def State.encCaptures (s : State) (x : CellCfg) (counts : List (Nat × Nat)) : State :=
  if x.tick && x.ofs ≠ 0 then
    x.ins.foldl (fun (s : State) i =>
      if i.kind = 4 || i.kind = 5 then
        match tfind counts i.idx with | some c => s.encCapture i.idx (c % 2 ^ 32) | none => s
      else s) s
  else s

/-- RAMP of a safe law (R258): the output moves to SAFE_OUT at SAFE_SLEW. -/
def State.safeRamp (s : State) (n : Nat) (x : CellCfg) : State :=
  let c := s.cell n
  let k := (q30 (x.safeSlew * cellTs x)).1
  s.setOut n x (slewTo c.u (q30 x.safeOut).1 k k)

/-- A cell's turn in a tick (R243): a run, a miss, or in FAULT a look at the inputs only. [Log DEDUCED: 128] -/
def State.cellTurn (s : State) (n : Nat) (x : CellCfg) (counts : List (Nat × Nat)) (trig : Nat) : State :=
  let s := s.encCaptures x counts
  let c := s.cell n
  let rs := x.ins.zipIdx.map fun p => s.cellIn x c.prev counts p.2 p.1
  let ok := trig = 1 && rs.all (·.ok)
  let st := s.cellState n
  let s := s.putCell n { c with ran := some s.tick, pm := s.pm }
  if st = 5 then s.putCell n { s.cell n with watchOk := c.watchOk || ok }
  else if !ok then s.cellMiss n
  else
    let prev := (rs.zipIdx).foldl (fun t p => match p.1.count with | some k => tput t p.2 k | none => t) c.prev
    let s := s.putCell n { s.cell n with prev := prev }
    let s := if st = 1 then s.trackStep n x rs else s.lawStep n x rs
    (s.runRegs n).capRuns n

/-- LOOP_CELL_RUN (R243): once on each tick on which the cell runs, in READY, STATION and PASSAGE, and in SAFE under a safe law
that runs on. `counts` are the captures of a TICK cell's trigger. -/
def execLoopCellRun (dt cell : Nat) (counts : List (Nat × Nat)) (s : State) : Out :=
  let s := s.advance dt
  match s.cellCfg cell with
  | none => .next s
  | some x =>
    let c := s.cell cell
    let t := s.cellTrigger x
    if s.mode < 2 || s.tick % x.div ≠ x.phase || c.ran = some s.tick || t = 0 then .next s
    else if s.cellState cell = 4 then
      match c.safe with
      | 2 => .next ((s.putCell cell { c with ran := some s.tick, pm := s.pm }).safeRamp cell x)
      | 3 => .next (s.cellTurn cell x counts t)
      | _ => .next s
    else .next (s.cellTurn cell x counts t)

/-- A safe law is applied, or HOLD becomes BRAKE (R258, 0x0B06). -/
def State.safeLawNote (s : State) (n law : Nat) : State :=
  (s.evt R.LOOP_EVT_SAFE_LAW).record { code := 0x0B06, source := n, items := [(1, n), (1, law)] }

/-- CELL_MISS_LIMIT (R243, R258): the cell enters FAULT, or a cell under HOLD brakes. -/
def execCellMissLimit (dt cell : Nat) (s : State) : Out :=
  let s := s.advance dt
  match s.cellCfg cell with
  | none => .next s
  | some x =>
    let run := s.get R.LOOP_CELL_STAT_MISS_RUN cell
    let st := s.cellState cell
    if run < x.missLimit || st = 0 || st = 5 then .next s
    else if st = 4 then
      if (s.cell cell).safe = 3 then
        .next (((s.putCell cell { s.cell cell with safe := 1 }).setOut cell x (q30 x.safeOut).1).safeLawNote cell 1)
      else .next s
    else
      let s := (s.injStop cell 4).set R.LOOP_CELL_STAT_STATE 5 cell
      let s := s.putCell cell { s.cell cell with watchOk := false, clampAt := none }
      let kind := (x.ins.map (·.kind)).getD 0 0
      .next ((s.evt R.LOOP_EVT_CELL_FAULT).record
        { code := 0x0B01, source := cell, items := [(1, cell), (1, kind), (1, run)], key := 2 })

/-- A cell takes its SAFE_LAW at SAFE entry (R258). [Log DEDUCED: 128] -/
def State.cellSafe (s : State) (n : Nat) (x : CellCfg) : State :=
  let s := (s.injStop n 4).set R.LOOP_CELL_STAT_STATE 4 n
  let c := s.cell n
  let s := s.putCell n { c with safe := x.safeLaw, frozen := c.ys.getD 0 0, holdY := false, clampAt := none }
  let s := if x.safeLaw = 3 then s
    else ((s.set R.LOOP_CELL_STAT_SAT_HI 0 n).set R.LOOP_CELL_STAT_SAT_LO 0 n).set R.LOOP_CELL_STAT_SLEWING 0 n
  let s := match x.safeLaw with
    | 0 => s.resetOut n x
    | 1 => s.setOut n x (q30 x.safeOut).1
    | _ => s
  s.safeLawNote n x.safeLaw

/-- Every configured cell takes its safe law. -/
def State.cellsSafe (s : State) : State := s.man.loop.cells.foldl (fun (s : State) x => s.cellSafe x.1 x.2) s

/-- LOOP_CELL_SP_READ (R266): returns r of the selected cell and latches PV, OUT and FF of the same run. -/
def execLoopCellSpRead (dt : Nat) (port : Port) (s : State) : Out :=
  let s := (s.advance dt).lullLeave 2
  let n := s.get R.LOOP_SEL_CELL
  let c := s.cell n
  let s : State := { s with loop := { s.loop with latched := some (n, c.ys.getD 0 0, c.u, c.ff) } }
  let w := s.get R.LOOP_CELL_SP_VALUE n
  .next (match port with
    | .pcie => { s with pcie := { s.pcie with rdata := w } }
    | .spi => { s with spi := { s.spi with rdata := w } })

/-- A cell's run in an unsealed tick is a handover miss (R365): flagged, and not counted towards MISS_LIMIT. -/
def State.handoverMiss (s : State) (cell : Nat) : State :=
  match s.cellCfg cell with
  | some _ => (s.set R.LOOP_CELL_STAT_MISS 1 cell).evt R.LOOP_EVT_MISS
  | none => s

/-- The points of a cell at a frame boundary (R264): the values of its last run, UNCERTAIN where that run missed. -/
def State.cellPoints (s : State) (n : Nat) : State :=
  let c := s.cell n
  if c.ran.isNone then s
  else
    let q := if s.flag R.LOOP_CELL_STAT_MISS n then Quality.uncertain else .good
    let f := s.get R.LOOP_CELL_STAT_SAT_HI n + 2 * s.get R.LOOP_CELL_STAT_SAT_LO n + 4 * s.get R.LOOP_CELL_STAT_SLEWING n +
      8 * s.get R.LOOP_CELL_STAT_INJ n + 16 * s.get R.LOOP_CELL_STAT_FF_STATE n + 64 * s.get R.LOOP_CELL_STAT_MISS n +
      128 * s.get R.LOOP_CELL_STAT_SAT n
    let vals := [bits64 (4 * c.r), bits64 (4 * c.ys.getD 0 0), bits64 (4 * c.u), bits64 (4 * c.ff), s.cellState n, f]
    vals.zipIdx.foldl (fun (s : State) v => s.putAt (addr0 10 n 0 v.2) v.1 c.pm q) s

/-- An inner cell latches its outer cell's latest output at each of its own tick boundaries (R250). -/
def State.cascadeLatch (s : State) (n : Nat) (x : CellCfg) : State :=
  match x.outer with
  | some o =>
    if s.tick % x.div = x.phase then
      let k := s.cell o
      s.putCell n { s.cell n with outer := if k.uAt ≤ s.now then k.u else k.uOld }
    else s
  | none => s

/-- The loop fabric at a tick boundary: encoder captures, cascade setpoints, the hull set committed before (R39, R245, R252), and injections whose
frame boundary has come (R254). `moved` are the counts since the last tick. -/
def State.loopTick (s : State) (moved : List (Nat × Int)) : State :=
  let s := moved.foldl (fun (s : State) m => s.encMove m.1 m.2) s
  let s := (List.range 6).foldl (fun (s : State) e => s.encCapture e (s.enc e).count) s
  let hull := match s.loop.hullNext with | some h => h | none => s.loop.hull
  let s : State := { s with loop := { s.loop with hull := hull, hullNext := none, tickAt := s.now, tickNs := s.ns } }
  let s := s.man.loop.cells.foldl (fun (s : State) x => s.cascadeLatch x.1 x.2) s
  if s.tick % 1000 ≠ 0 then s
  else s.man.loop.cells.foldl (fun (s : State) x =>
    let c := s.cell x.1
    match c.test with
    | some t => if !t.due && t.at_ + 1000000 ≤ s.now then s.putCell x.1 { c with test := some { t with due := true } } else s
    | none => s) s

/-- The points of every cell. -/
def State.cellsFrame (s : State) : State := s.man.loop.cells.foldl (fun (s : State) x => s.cellPoints x.1) s

end Sys2Proof.Machine
end

