-- ==== Sys2Proof/Machine/Clp.lean ====
section
/-!
DEFINITION. Current-loop channels (R286 to R294, R300 to R303) and HART modems (R296 to R299).
-/

namespace Sys2Proof.Machine

open Sys2Proof

def State.clpCh (s : State) (n : Nat) : ClpSt := tget s.clp.chs n {}

def State.putClp (s : State) (n : Nat) (c : ClpSt) : State := { s with clp := { s.clp with chs := tput s.clp.chs n c } }

/-- The DAC code of a current in mA (R287): steps of 390.625 nA, clamped to 61,440. -/
def dacCode (mA : Rat) : Nat := min 61440 (shownAt 0x287 (mA * 2560)).toNat

/-- A channel issues or withdraws an alarm level (R291, 0x0E02): cause 1 source failure, 2 COMPLIANCE, 0 none. -/
def State.clpAlarm (s : State) (n cause : Nat) (high : Bool) : State :=
  let was := s.get R.CLP_CH_STAT_ALARM_CAUSE n
  if cause = was then s
  else
    let s := (s.set R.CLP_CH_STAT_ALARM_CAUSE cause n).setB R.CLP_CH_STAT_ALARM_HIGH (cause ≠ 0 && high) n
    let s := if cause = 0 then s else s.evt R.CLP_EVT_ALARM
    s.record { code := 0x0E02, source := n, items := [(1, n), (1, if high then 1 else 0), (1, cause)] }

/-- COMPLIANCE or OPEN is set or cleared (R293, 0x0E01). [Log DEDUCED: 147] -/
def State.clpNote (s : State) (n : Nat) : State :=
  let c := s.clpCh n
  s.record { code := 0x0E01, source := n, key := 1,
             items := [(1, n), (2, s.get R.CLP_CH_CUR_REQ_UA n), (2, s.get R.CLP_CH_MEAS_MEAS_UA n), (2, s.get R.CLP_CH_VOLT_VPT_MV n),
                       measItem 0x0E01 c.rl] }

/-- The NTC's temperature (R294): the β model over the divider to VREF, whose logarithm is open; NTC_DEFAULT while the channel is
unbound or unusable. The second part is NTC_FAULT. [Log DESIGN CHOICE: 145] -/
def State.clpNtc (s : State) (x : ClpCfg) : Rat × Bool :=
  match x.ntcCh with
  | none => (x.ntcDefault, false)
  | some ch =>
    if s.convState ch ≠ 2 then (x.ntcDefault, true)
    else
      let high := match tfind s.man.adc.chs ch with | some c => c.high | none => false
      let v := ((s.conv ch).res : Rat) / 8388608 * (if high then 8 / 5 else 8 / 25)
      let r := x.ntcBias * v / (5 / 4 - v)
      (1 / (1 / (29815 / 100) + Config.value 0x294 [r / x.ntcR25] / x.ntcBeta) - 27315 / 100, false)

/-- The thermal estimate and its ceiling (R294). How the lag is stepped is open. [Log DESIGN CHOICE: 145] -/
def State.clpThermal (s : State) (n : Nat) (x : ClpCfg) : State :=
  let c := s.clpCh n
  let t := s.clpNtc x
  let pf := Config.value 0x295 [c.pf, c.vpt * c.meas / 1000, x.tauTh]
  let est := t.1 + x.rth * pf
  let was := s.flag R.CLP_CH_STAT_THERMAL n
  let hot := if x.tjMax ≤ est then true else if est < x.tjMax - 5 then false else was
  let lim := if hot && 0 < c.vpt then some ((x.tjMax - t.1) / (x.rth * c.vpt) * 1000) else none
  let s := s.putClp n { c with ntc := t.1, pf := pf, est := est, ceiling := lim }
  let s := (s.setQ R.CLP_CH_TEMP_NTC_DC (t.1 * 10) n).setQ R.CLP_CH_TEMP_EST_DC (est * 10) n
  let s := match lim with | some l => s.setU R.CLP_CH_MEAS_ILIM_UA (l * 1000) n | none => s.set R.CLP_CH_MEAS_ILIM_UA 0xFFFF n
  let s := if hot = was then s
    else
      let s := s.setB R.CLP_CH_STAT_THERMAL hot n
      let s := if hot then s.evt R.CLP_EVT_THERMAL else s
      s.record { code := 0x0E03, source := n, key := 1,
                 items := [(1, n), (2, s.get R.CLP_CH_TEMP_EST_DC n), (2, s.get R.CLP_CH_MEAS_ILIM_UA n)] }
  if t.2 = s.flag R.CLP_CH_STAT_NTC_FAULT n then s
  else
    let s := s.setB R.CLP_CH_STAT_NTC_FAULT t.2 n
    let s := if t.2 then s.evt R.CLP_EVT_NTC_FAULT else s
    s.record { code := 0x0E04, source := n,
               items := [(1, n), (1, match x.ntcCh with | some ch => (s.convQuality ch (s.conv ch)).code | none => 0)] }

/-- The request of a channel (R289, R290). [Log DEDUCED: 142] -/
def State.clpRequest (s : State) (n : Nat) (x : ClpCfg) : State :=
  let c := s.clpCh n
  match x.src with
  | 1 => s.putClp n { c with req := clampTo x.clampLo x.clampHi c.cellReq }
  | 2 =>
    let r := s.ptOpt x.target
    if qUsable r.2 then
      let v := clampTo x.clampLo x.clampHi r.1
      let s := s.putClp n { c with req := v, lastGood := v, badAt := none, failed := false }
      if c.failed && s.get R.CLP_CH_STAT_ALARM_CAUSE n = 1 then s.clpAlarm n 0 (x.failAction = 2) else s
    else s.putClp n { c with req := c.lastGood, badAt := match c.badAt with | some t => some t | none => some s.now }
  | _ => s.putClp n { c with req := 4 }

/-- The current in force before the ceiling (R291), and whether it is the output reset state. [Log DEDUCED: 142] -/
def State.clpWanted (s : State) (n : Nat) (x : ClpCfg) : Rat × Bool :=
  let c := s.clpCh n
  if s.mode ≤ 1 || s.flag R.DEV_STAT_DRIVES_NOTHING || (x.src = 1 && c.cellOff) then (0, true)
  else if x.src = 3 then (4, false)
  else if c.subst then (x.alarmLo, false)
  else if c.failed then (match x.failAction with | 0 => c.lastGood | 1 => x.alarmLo | _ => x.alarmHi, false)
  else (c.req, false)

/-- The current in force of a tick (R291, R294): ceiling, HART_SLEW, DAC code, gate. -/
def State.clpForce (s : State) (n : Nat) (x : ClpCfg) : State :=
  let w := s.clpWanted n x
  let c := s.clpCh n
  let lim := match c.ceiling with | some l => min w.1 l | none => w.1
  let d := x.hartSlew / 100000
  let out := if w.2 then 0 else if x.hart then c.out + clampTo (-d) d (lim - c.out) else lim
  let gate := !w.2 && !s.follows
  let s := s.putClp n { c with out := out, code := dacCode out, gate := gate }
  let s := (s.setU R.CLP_CH_CUR_REQ_UA (c.req * 1000) n).setU R.CLP_CH_CUR_OUT_UA (out * 1000) n
  let s := s.setB R.CLP_CH_STAT_HART_SLEWING (x.hart && !w.2 && out ≠ lim) n
  let st := if w.2 then 0 else if s.follows then 4 else if x.src = 3 then 3
    else if s.get R.CLP_CH_STAT_ALARM_CAUSE n ≠ 0 then 2 else 1
  s.set R.CLP_CH_STAT_STATE st n

/-- The compliance conditions of R293 stand: the supply at its maximum, and the loop short of voltage or current. -/
def ClpSt.short (c : ClpSt) (x : ClpCfg) : Bool :=
  decide (x.supMax ≤ c.supply) && (decide (c.vpt < x.compV) || decide (c.meas < c.out - 1 / 10))

/-- The loop is open (R293). -/
def ClpSt.openLoop (c : ClpSt) : Bool := decide (c.meas < 1 / 5) && decide (36 / 10 ≤ c.out)

/-- The monitor's samples of a tick (R287, R293): measured current in mA and V_PT in V. [Log DEDUCED: 154] -/
def State.clpMonitor (s : State) (n : Nat) (x : ClpCfg) (meas vpt : Rat) : State :=
  let c := { s.clpCh n with meas := meas, vpt := vpt }
  let short := c.short x
  let c := { c with condAt := if short then (match c.condAt with | some t => some t | none => some s.now) else none,
                    clearAt := if short then none else (match c.clearAt with | some t => some t | none => some s.now),
                    openOff := if c.openLoop then none else (match c.openOff with | some t => some t | none => some s.now) }
  ((s.putClp n c).setU R.CLP_CH_MEAS_MEAS_UA (meas * 1000) n).setU R.CLP_CH_VOLT_VPT_MV (vpt * 1000) n

/-- The channels at a tick (R287 to R294). -/
def State.clpTick (s : State) (samples : List (Nat × Rat × Rat)) : State :=
  s.man.clp.chs.foldl (fun (s : State) p =>
    let n := p.1
    let s := match tfind samples n with | some m => s.clpMonitor n p.2 m.1 m.2 | none => s
    ((s.clpRequest n p.2).clpThermal n p.2).clpForce n p.2) s

/-- SOURCE_FAILURE (R290): the TARGET point has been unusable for FAIL_T. -/
def execSourceFailure (dt ch : Nat) (s : State) : Out :=
  let s := s.advance dt
  match tfind s.man.clp.chs ch with
  | some x =>
    let c := s.clpCh ch
    match c.badAt with
    | some t =>
      if x.src = 2 && !c.failed && t + 1000000 * x.failMs ≤ s.now then
        let s := s.putClp ch { c with failed := true }
        if x.failAction = 0 || c.subst then .next s else .next (s.clpAlarm ch 1 (x.failAction = 2))
      else .next s
    | none => .next s
  | none => .next s

/-- SUPPLY_STEP (R292): the setpoint moves towards V_PT = HEADROOM by at most 2 V; a standby sinks nothing (R300). -/
def execSupplyStep (dt ch : Nat) (s : State) : Out :=
  let s := s.advance dt
  match tfind s.man.clp.chs ch with
  | some x =>
    let c := s.clpCh ch
    let sup := clampTo x.supMin x.supMax (c.supply + clampTo (-2) 2 (x.headroom - c.vpt))
    let sink := if s.follows || s.mode ≤ 1 then 0 else (x.supMax - sup) / x.supK
    let s := s.putClp ch { c with supply := sup, sink := sink }
    .next ((s.setU R.CLP_CH_VOLT_SUP_MV (sup * 1000) ch).setB R.CLP_CH_STAT_SUP_AT_MAX (decide (x.supMax ≤ sup)) ch)
  | none => .next s

/-- COMPLIANCE_SET (R293): the conditions have held for COMP_T; LOW_ALARM substitutes ALARM_LO. [Log DEDUCED: 148] -/
def execComplianceSet (dt ch : Nat) (s : State) : Out :=
  let s := s.advance dt
  match tfind s.man.clp.chs ch with
  | some x =>
    let c := s.clpCh ch
    match c.condAt with
    | some t =>
      if c.short x && t + 1000000 * x.compMs ≤ s.now && !(s.flag R.CLP_CH_STAT_COMPLIANCE ch && (s.flag R.CLP_CH_STAT_OPEN ch || !c.openLoop)) then
        let s := (s.set R.CLP_CH_STAT_COMPLIANCE 1 ch).setB R.CLP_CH_STAT_OPEN (s.flag R.CLP_CH_STAT_OPEN ch || c.openLoop) ch
        let s := (s.evt R.CLP_EVT_COMPLIANCE).clpNote ch
        if x.lowAlarm && x.src ≠ 3 then .next ((s.putClp ch { s.clpCh ch with subst := true }).clpAlarm ch 2 false) else .next s
      else .next s
    | none => .next s
  | none => .next s

/-- A condition has been absent for COMP_T (R293). -/
def State.clpAbsent (s : State) (x : ClpCfg) (t : Option Nat) : Bool :=
  match t with | some t => decide (t + 1000000 * x.compMs ≤ s.now) | none => false

/-- COMPLIANCE_CLEAR (R293): with REPORT, COMPLIANCE and OPEN clear each when its condition has been absent for COMP_T.
[Log DEDUCED: 146] -/
def execComplianceClear (dt ch : Nat) (s : State) : Out :=
  let s := s.advance dt
  match tfind s.man.clp.chs ch with
  | some x =>
    let c := s.clpCh ch
    let a := !c.subst && s.flag R.CLP_CH_STAT_COMPLIANCE ch && s.clpAbsent x c.clearAt
    let b := !c.subst && s.flag R.CLP_CH_STAT_OPEN ch && s.clpAbsent x c.openOff
    if a || b then
      let s := if a then s.set R.CLP_CH_STAT_COMPLIANCE 0 ch else s
      let s := if b then s.set R.CLP_CH_STAT_OPEN 0 ch else s
      .next (s.clpNote ch)
    else .next s
  | none => .next s

/-- COMPLIANCE_RESTORE_CHECK (R293): every 100th frame boundary the loop resistance is estimated, and the request restored where
the supply suffices for it. [Log DEDUCED: 146, 147] -/
def execComplianceRestoreCheck (dt ch : Nat) (s : State) : Out :=
  let s := s.advance dt
  match tfind s.man.clp.chs ch with
  | some x =>
    let c := s.clpCh ch
    if !c.subst || s.tick % 100000 ≠ 0 then .next s
    else if (s.flag R.CLP_CH_STAT_OPEN ch && decide (c.meas < 1 / 5)) || decide (c.meas ≤ 0) then .next s
    else
      let wasOpen := s.flag R.CLP_CH_STAT_OPEN ch
      let rl := (c.supply - c.vpt - c.meas / 100) / (c.meas / 1000)
      let s := (s.putClp ch { c with rl := rl }).set R.CLP_CH_STAT_OPEN 0 ch
      if x.headroom ≤ x.supMax - c.req / 1000 * (rl + 10) then
        let s := (s.putClp ch { s.clpCh ch with subst := false, condAt := none }).set R.CLP_CH_STAT_COMPLIANCE 0 ch
        let s := if c.failed && x.failAction ≠ 0 then s.clpAlarm ch 1 (x.failAction = 2) else s.clpAlarm ch 0 false
        .next (s.clpNote ch)
      else if wasOpen then .next (s.clpNote ch)
      else .next s
  | none => .next s

/-- The points of the channels at a frame boundary (R301). [Log DEDUCED: 154] -/
def State.clpFrame (s : State) : State :=
  s.man.clp.chs.foldl (fun (s : State) p =>
    let n := p.1
    let c := s.clpCh n
    let base := addr0 5 n 0 0
    let flags := s.get R.CLP_CH_STAT_COMPLIANCE n + 2 * s.get R.CLP_CH_STAT_OPEN n + 4 * s.get R.CLP_CH_STAT_THERMAL n +
      8 * s.get R.CLP_CH_STAT_NTC_FAULT n + 16 * s.get R.CLP_CH_STAT_SUP_AT_MAX n + 32 * s.get R.CLP_CH_STAT_ALARM_CAUSE n +
      128 * s.get R.CLP_CH_STAT_ALARM_HIGH n + 256 * s.get R.CLP_CH_STAT_HART_SLEWING n
    let tq := if s.flag R.CLP_CH_STAT_NTC_FAULT n || p.2.ntcCh.isNone then Quality.uncertain else .good
    let pm := pmOf s.loop.tickNs
    let s := ((s.putAt (base + 1) (q32 c.meas) pm .good).putAt (base + 2) (q32 c.vpt) pm .good).putAt (base + 3) (q32 c.supply) pm .good
    ((s.putAt (base + 4) (q32 c.est) pm tq).putAt (base + 5) (s.get R.CLP_CH_STAT_STATE n) pm .good).putAt (base + 6) flags pm .good) s

/-! ### HART (R296 to R299) -/

def State.hart (s : State) (m : Nat) : HartSt := tget s.clp.modems m {}

def State.putHart (s : State) (m : Nat) (h : HartSt) : State := { s with clp := { s.clp with modems := tput s.clp.modems m h } }

/-- A transaction starts (R297). -/
def State.hartStart (s : State) (m : Nat) (t : HartTx) : State :=
  let h := s.hart m
  let last := match t.entry with | some e => tput h.lastAt e s.now | none => h.lastAt
  let s := s.putHart m { h with tx := some t, lastAt := last,
                                asked := if t.entry.isNone then t.addr :: h.asked else h.asked,
                                idAt := if t.entry.isNone then tput h.idAt t.addr s.now else h.idAt }
  let s := (s.set R.CLP_HART_STAT_BUSY 1 m).set R.CLP_HART_STAT_LAST_ADDR t.addr m
  s.set R.CLP_HART_STAT_LAST_CMD t.cmd m

/-- The transaction ends; a pause that waited takes effect (R299). -/
def State.hartEnd (s : State) (m : Nat) (ok : Bool) : State :=
  let h := s.hart m
  let s := (s.putHart m { h with tx := none, pauseDue := false }).set R.CLP_HART_STAT_BUSY 0 m
  let s := if h.pauseDue then s.set R.CLP_HART_STAT_PAUSED 1 m else s
  let old := s.get R.CLP_STAT_HART_OK
  let bit := 2 ^ m
  let s := s.set R.CLP_STAT_HART_OK (if ok then old ||| bit else if old.testBit m then old ^^^ bit else old)
  s.inc R.CLP_HART_CNT_TRANS m

/-- A transaction fails (R297, 0x0E05). -/
def State.hartFail (s : State) (m : Nat) (t : HartTx) (rc : Nat) : State :=
  let h := s.hart m
  let s := s.putHart m { h with fails := tput h.fails t.addr ((tget h.fails t.addr 0 + 1) % 2 ^ 64) }
  let s := (s.inc R.CLP_HART_CNT_FAILS m).evt R.CLP_EVT_HART_FAIL
  (s.record { code := 0x0E05, source := m, items := [(1, m), (1, t.addr), (1, t.cmd), (1, rc)] }).hartEnd m false

/-- The due entry of a poll list (R297): the first in list order whose period has passed and whose address is identified. -/
def hartDue (h : HartSt) (now : Nat) : List HartPoll → Nat → Option (Nat × HartPoll)
  | [], _ => none
  | p :: t, i =>
    let due := match tfind h.lastAt i with | some l => decide (l + 1000000 * p.ms ≤ now) | none => true
    if due && p.addr ∈ h.ident then some (i, p) else hartDue h now t (i + 1)

/-- The modems work from RUN-IN on (R297); phase 8 of MUSTER is RUN-IN. [Log DEDUCED: 153] -/
def State.hartRuns (s : State) : Bool := decide (2 ≤ s.mode) || (s.mode = 1 && s.get R.MODE_STAT_PHASE = 8)

/-- HART_POLL_DUE (R297): an address not yet asked is identified first; then the poll list runs. -/
def execHartPollDue (dt modem : Nat) (s : State) : Out :=
  let s := s.advance dt
  match tfind s.man.clp.modems modem with
  | none => .next s
  | some x =>
    let h := s.hart modem
    if h.tx.isSome || s.flag R.CLP_HART_STAT_PAUSED modem || x.mode = 0 || !s.hartRuns then .next s
    else
      match x.addrs.find? fun a => a.1 ∉ h.asked with
      | some a => .next (s.hartStart modem { addr := a.1, cmd := 0, entry := none })
      | none =>
        match hartDue h s.now x.polls 0 with
        | some (i, p) => .next (s.hartStart modem { addr := p.addr, cmd := p.cmd, entry := some i })
        | none => .next s

/-- The quality of a variable (R298): for command 9 by its status (its two top bits: 3 good, 1 poor accuracy, 2 fixed, 0 bad), else
by DEVICE_STATUS (bit 7 malfunction, bit 4 more status, bit 0 primary variable out of limits). [Log PRESUMED: 149] -/
def hartQuality (cmd status vstat : Nat) : Quality :=
  if cmd = 9 then
    match vstat / 64 % 4 with | 3 => .good | 0 => .masked | _ => .uncertain
  else if status.testBit 7 then .masked
  else if status.testBit 4 || status.testBit 0 then .uncertain
  else .good

/-- The channel of a variable: command 1 gives PV, commands 3 and 9 PV to QV and the slots in order (R298). [Log PRESUMED: 149] -/
def hartVars (cmd : Nat) (vars : List (Nat × Nat × Nat)) : List (Nat × Nat × Nat) :=
  match cmd with | 1 => vars.take 1 | 3 => vars.take 4 | 9 => vars.take 8 | _ => []

/-- The points of a reply on trunk 13 (R298). -/
def State.hartPoints (s : State) (m : Nat) (t : HartTx) (r : HartReply) : State :=
  let base := 13 * 2 ^ 28 + m * 2 ^ 24 + t.addr * 65536
  let put := fun (s : State) (a v : Nat) (q : Quality) => s.inbound { addr := a, value := v, pm := s.pm, quality := q }
  let s := put s base r.rc .good
  let s := put s (base + 1) r.status .good
  let s := put s (base + 2) (tget (s.hart m).fails t.addr 0) .good
  ((hartVars t.cmd r.vars).zipIdx).foldl (fun (s : State) v =>
    let q := hartQuality t.cmd r.status v.1.2.2
    let b := base + (v.2 + 1) * 256
    let s := put (put s b v.1.1 q) (b + 1) v.1.2.1 q
    if t.cmd = 9 then put s (b + 2) v.1.2.2 q else s) s

/-- The points of an address whose identity does not match are MASKED (R297). -/
def State.hartMask (s : State) (m addr : Nat) (masked : Bool) : State :=
  let p := 13 * 4096 + m * 256 + addr
  s.man.points.zipIdx.foldl (fun (s : State) c =>
    if c.1.addr / 65536 = p then { s with pts := tput s.pts c.2 { s.pt c.2 with masked := masked } } else s) s

/-- An identification ends (R297, 0x0E06). [Log DESIGN CHOICE: 152] -/
def State.hartIdent (s : State) (m : Nat) (t : HartTx) (want got : Nat) : State :=
  let h := s.hart m
  let src := m * 64 + t.addr
  let items := [(1, m), (1, t.addr), (8, got)]  -- the identity's width is the model's
  if got = want then
    let failed := h.failed.filter fun f => f.1 ≠ t.addr
    let s := s.putHart m { h with ident := if t.addr ∈ h.ident then h.ident else t.addr :: h.ident, failed := failed }
    let s := (s.setB R.CLP_HART_STAT_ID_MISMATCH (failed ≠ []) m).hartMask m t.addr false
    if (tfind h.failed t.addr).isSome then s.clearAlarm 0x0E06 src items else s
  else
    let s := s.putHart m { h with failed := tput h.failed t.addr s.now, ident := h.ident.filter (· ≠ t.addr) }
    let s := (s.set R.CLP_HART_STAT_ID_MISMATCH 1 m).hartMask m t.addr true
    if (tfind h.failed t.addr).isSome then s else (s.evt R.CLP_EVT_HART_ID).alarm 0x0E06 src items

/-- HART_REPLY (R297, R298, R300): a standby's modem takes the active's reply; its points and envelopes come by the exchange.
[Log DEDUCED: 150, 153] -/
def execHartReply (dt modem : Nat) (r : HartReply) (s : State) : Out :=
  let s := s.advance dt
  match tfind s.man.clp.modems modem, (s.hart modem).tx with
  | some x, some t =>
    let s := s.set R.CLP_HART_STAT_LAST_RC r.rc modem
    if r.rc ≠ 0 then .next (s.hartFail modem t r.rc)
    else
      match t.entry with
      | none =>
        let s := s.hartIdent modem t (tget x.addrs t.addr 0) r.ident
        .next ((if s.follows then s else s.hartPoints modem t r).hartEnd modem true)
      | some e =>
        match (x.polls[e]?).bind (·.raw) with
        | some n => .next ((if s.follows then s else s.send n 9 0 r.bytes s.pm).hartEnd modem true)
        | none => .next ((if s.follows then s else s.hartPoints modem t r).hartEnd modem true)
  | _, _ => .next s

/-- HART_RETRY (R297): no reply in time; after RETRIES the transaction has failed. No rule gives the response
code that its record then holds. [Log DESIGN CHOICE: 152] -/
def execHartRetry (dt modem : Nat) (s : State) : Out :=
  let s := s.advance dt
  match tfind s.man.clp.modems modem, (s.hart modem).tx with
  | some x, some t =>
    if t.tries ≤ x.retries then .next (s.putHart modem { s.hart modem with tx := some { t with tries := t.tries + 1 } })
    else .next (s.hartFail modem t (Config.code 0x0E05 0 % 256))
  | _, _ => .next s

/-- HART_ID_RETRY (R297): every 60 s an address that is not identified is asked again. [Log DEDUCED: 151] -/
def execHartIdRetry (dt modem addr : Nat) (s : State) : Out :=
  let s := s.advance dt
  let h := s.hart modem
  match tfind s.man.clp.modems modem, tfind h.idAt addr with
  | some _, some t =>
    if h.tx.isNone && addr ∉ h.ident && t + 60000000000 ≤ s.now && s.hartRuns then
      .next (s.hartStart modem { addr := addr, cmd := 0, entry := none })
    else .next s
  | _, _ => .next s

/-- A pause or resume is recorded (0x0E07). -/
def State.hartNote (s : State) (m : Nat) : State :=
  s.record { code := 0x0E07, source := m, role := .operator, keyId := s.role.keyId,
             items := [(1, m), (1, Role.operator.code), (2, s.role.keyId)] }

/-- HART_PAUSE (R299): after the transaction in progress. -/
def execHartPause (dt : Nat) (port : Port) (s : State) : Out :=
  .next ((s.advance dt).withRole port [.operator] 0xD02C fun s =>
    let m := s.get R.CLP_HART_SEL_MODEM
    let h := s.hart m
    let s := if h.tx.isSome then s.putHart m { h with pauseDue := true } else s.set R.CLP_HART_STAT_PAUSED 1 m
    s.hartNote m)

/-- HART_RESUME (R299). -/
def execHartResume (dt : Nat) (port : Port) (s : State) : Out :=
  .next ((s.advance dt).withRole port [.operator] 0xD02C fun s =>
    let m := s.get R.CLP_HART_SEL_MODEM
    ((s.putHart m { s.hart m with pauseDue := false }).set R.CLP_HART_STAT_PAUSED 0 m).hartNote m)

/-- A transaction in progress at handover counts as one failed attempt (R300). [Log DESIGN CHOICE: 152; DEDUCED: 153] -/
def State.hartHandover (s : State) : State :=
  s.man.clp.modems.foldl (fun (s : State) m =>
    match (s.hart m.1).tx with
    | some t =>
      if t.tries ≤ m.2.retries then s.putHart m.1 { s.hart m.1 with tx := some { t with tries := t.tries + 1 } }
      else s.hartFail m.1 t (Config.code 0x0E05 0 % 256)
    | none => s) s

end Sys2Proof.Machine
end

