-- ==== Sys2Proof/Machine/Claims.lean ====
section
/-!
DEFINITION. The static resource claims (R28, R33, R70, R71, R79): the nine checks of CLAIMS, with the ball map of R484 to R486.
-/

namespace Sys2Proof.Machine

open Sys2Proof

/-- Why CLAIMS fails: the check, MNF_CLAIM_ERR's CLASS and INDEX, the reject reason, and what the record 0x0302 carries beside
them (R71): a full index of which INDEX shows 16 bits, both owners of a conflict, both writers, or both addresses. -/
structure ClaimFail where
  check : Nat
  cls : Nat
  idx : Nat
  reason : Nat
  more : List (Nat × Nat) := []
  deriving DecidableEq, Repr

/-- The index ranges of the claim classes (R70): first and last. -/
def claimRange : Nat → Option (Nat × Nat)
  | 1 => some (0, 899) | 2 => some (0, 23) | 3 => some (0, 15) | 4 => some (0, 47) | 5 => some (16, 127)
  | 6 => some (0, 63) | 7 => some (0, 3) | 8 => some (0, 5) | 9 => some (0, 7) | 10 => some (0, 7) | 11 => some (0, 5)
  | _ => none

def claimInRange (c : Claim) : Bool :=
  match claimRange c.cls with | some (lo, hi) => lo ≤ c.idx && c.idx ≤ hi | none => false

/-- A rectangle of the ball map (R486): rows, columns, and the group whose signals fill it row by row, from which signal on.
A group is the number below; none is supply or ground. -/
structure BallRect where
  row0 : Nat
  row1 : Nat
  col0 : Nat
  col1 : Nat
  group : Nat
  first : Nat
  deriving DecidableEq, Repr

/-- The groups of R484 in the order of its table, numbered from 1: 1 DRAM, 2 xSPI, 3 PCIe, 4 SPI host, 5 RGMII, 6 SGMII,
7 MDIO, 8 twin link, 9 CAN FD, 10 GNSS, 11 ΣΔ, 12 bitstream, 13 SAR, 14 chopper comparators, 15 PWM, 16 microstep,
17 current loop, 18 HART, 19 safety, 20 GPIO, 21 clocks and time, 22 power control, 23 JTAG, 24 straps, 25 thermal diode,
26 VREF. Signals of a group count from 0 in the order of R485. -/
def ballMapA : List BallRect :=
  [⟨0, 1, 1, 30, 1, 0⟩, ⟨2, 2, 1, 12, 1, 60⟩, ⟨4, 4, 1, 12, 2, 0⟩, ⟨4, 4, 13, 24, 3, 0⟩, ⟨4, 4, 25, 30, 4, 0⟩,
   ⟨5, 5, 1, 30, 5, 0⟩, ⟨6, 6, 1, 18, 5, 30⟩, ⟨6, 6, 19, 30, 6, 0⟩, ⟨7, 7, 1, 4, 6, 12⟩, ⟨7, 7, 5, 6, 7, 0⟩,
   ⟨8, 8, 1, 14, 8, 0⟩, ⟨9, 20, 1, 9, 19, 0⟩, ⟨21, 21, 1, 24, 9, 0⟩, ⟨22, 22, 1, 24, 10, 0⟩]

def ballMapB : List BallRect :=
  [⟨23, 23, 1, 30, 15, 0⟩, ⟨24, 24, 1, 18, 15, 30⟩, ⟨24, 24, 19, 30, 16, 0⟩, ⟨25, 25, 1, 20, 16, 12⟩,
   ⟨25, 25, 21, 30, 18, 0⟩, ⟨26, 26, 1, 6, 18, 10⟩, ⟨26, 26, 7, 30, 17, 0⟩, ⟨27, 27, 1, 8, 17, 24⟩,
   ⟨27, 27, 9, 30, 20, 0⟩, ⟨28, 28, 1, 10, 20, 22⟩, ⟨29, 29, 1, 8, 21, 0⟩, ⟨29, 29, 9, 14, 22, 0⟩,
   ⟨29, 29, 17, 21, 23, 0⟩, ⟨29, 29, 22, 25, 24, 0⟩]

/-- The signal of the rectangle at row and column, if it lies there. -/
def BallRect.at (r : BallRect) (row col : Nat) : Option (Nat × Nat) :=
  if r.row0 ≤ row ∧ row ≤ r.row1 ∧ r.col0 ≤ col ∧ col ≤ r.col1 then
    some (r.group, r.first + (row - r.row0) * (r.col1 - r.col0 + 1) + (col - r.col0))
  else none

/-- The analogue region K to AB, columns 22 to 30 (R486): ΣΔ 32, bitstream 20, SAR 16, chopper 16, VREF 2, diode 2, and
supplies after them. -/
def analogBall (n : Nat) : Option (Nat × Nat) :=
  if n < 32 then some (11, n) else if n < 52 then some (12, n - 32) else if n < 68 then some (13, n - 52)
  else if n < 84 then some (14, n - 68) else if n < 86 then some (26, n - 84) else if n < 88 then some (25, n - 86) else none

/-- The group and signal at a claim index (R483, R486); none at a supply or ground ball. -/
def ballSignal (i : Nat) : Option (Nat × Nat) :=
  let row := i / 30
  let col := i % 30 + 1
  if 9 ≤ row ∧ row ≤ 20 ∧ 22 ≤ col then analogBall ((row - 9) * 9 + (col - 22))
  else (ballMapA ++ ballMapB).findSome? fun r => r.at row col

/-- How a claim names its signal: group times 1,024 plus the signal's place in the group. -/
def signalCode (g n : Nat) : Nat := g * 1024 + n

/-- Check 3 for one ball claim: the named signal is the one the map places there; on -XE a safety ball passes for a GPIO
function (R71, R492). -/
def ballOk (xe : Bool) (c : Claim) : Bool :=
  match ballSignal c.idx with
  | none => false
  | some (g, n) => c.signal = signalCode g n || (xe && g = 19 && c.signal / 1024 = 20)

/-- Two claims of one resource by two owners. -/
def twoOwners : List Claim → Option (Claim × Claim)
  | [] => none
  | c :: t =>
    match t.find? fun d => d.cls = c.cls && d.idx = c.idx && d.owner ≠ c.owner with
    | some d => some (c, d)
    | none => twoOwners t

/-- The first point, from `i` on, that breaks check 6: an address not above the one before it, the null address, two
writers, or an inbound route to an outbound point. -/
def badPoint : List PtCfg → Option Nat → Nat → Option Nat
  | [], _, _ => none
  | p :: t, prev, i =>
    let low := match prev with | some a => decide (p.addr ≤ a) | none => false
    if low || p.addr = 0x0FFFFFFF || p.writers.length ≠ 1 || (p.out && p.routedIn) then some i
    else badPoint t (some p.addr) (i + 1)

/-- What the record of a point that breaks check 6 carries: both writers, or both addresses where they do not rise (R71). -/
def pointMore (l : List PtCfg) (i : Nat) : List (Nat × Nat) :=
  match l[i]? with
  | some p =>
    if p.writers.length ≠ 1 || (p.out && p.routedIn) then [(2, p.writers.getD 0 0), (2, p.writers.getD 1 0)]
    else [(4, ((l[i - 1]?).map (·.addr)).getD 0), (4, p.addr)]
  | none => []

/-- The fixed cycles of a block (R78). -/
def blockCycles : Nat → Nat
  | 0 => 8 | 1 => 8 | 2 => 10 | 3 => 36 | 4 => 8 | 5 => 8 | 6 => 10 | 7 => 40 | 8 => 8 | 9 => 12 | 10 => 10 | 11 => 8
  | 12 => 8 | 13 => 8 | 14 => 6 | 15 => 8 | 16 => 8 | 17 => 12 | 18 => 12 | 19 => 12 | 20 => 8 | 21 => 8 | 22 => 12
  | 23 => 10 | 24 => 16 | 25 => 48 | 26 => 96 | 27 => 8 | 28 => 12 | 29 => 20 | 30 => 16 | 31 => 8 | _ => 0

/-- A list's cost in engine cycles (R79). -/
def fblCost (f : FblCfg) : Nat := 400 + (f.blocks.map fun b => blockCycles b.code).sum

/-- The load of an engine as a fraction of its cycles: cost over (period × 800 MHz), the period being k × 100 µs (R79). -/
def engineLoad (l : List FblCfg) (e : Nat) : Rat :=
  ((l.filter fun f => f.engine = e).map fun f => (fblCost f : Rat) / (f.k * 80000)).sum

/-- A list in the ranges of R77 and R78. -/
def fblInRange (f : FblCfg) : Bool :=
  f.engine < 16 && 1 ≤ f.k && f.k ≤ 10000 && f.q < f.k && f.blocks.length ≤ 4096 && f.blocks.all (·.code < 32)

/-- The place of the first element that fails a test. -/
def firstBad {α : Type} (ok : α → Bool) : List α → Nat → Option Nat
  | [], _ => none
  | a :: t, i => if ok a then firstBad ok t (i + 1) else some i

/-- The entries of the other Installer sections, each in the ranges this manual gives its index, code and count (R136, R160, R195,
R241, R259, R269), section by section. -/
def indexChecks (m : Manifest) : List (List Bool) :=
  [m.estSlots.map fun x => decide (x.1 < 25), m.tracks.map fun x => decide (x.1 < 64 ∧ x.2.kind < 3),
   m.alloc.thr.zipIdx.map fun x => decide (x.2 < 24 ∧ x.1.kind < 3),
   m.loop.fns.map fun x => decide (x.1 < 32 ∧ x.2.list < m.fbl.length ∧ 1 ≤ x.2.cells.length ∧ x.2.cells.length ≤ 4),
   m.loop.cells.map fun x => decide (x.1 < 48 ∧ 1 ≤ x.2.law ∧ x.2.law ≤ 5 ∧ 1 ≤ x.2.div ∧ x.2.div ≤ 1000 ∧ x.2.phase < x.2.div),
   m.loop.encs.map fun x => decide (x.1 < 6), m.loop.pwm.map fun x => decide (x.1 < 24), m.loop.caps.map fun x => decide (x.1 < 4),
   m.adc.chs.map fun x => decide (x.1 < 40), m.clp.chs.map fun x => decide (x.1 < 8), m.clp.modems.map fun x => decide (x.1 < 8),
   m.step.map fun x => decide (x.1 < 8), m.safety.axes.map fun x => decide (x.1 < 6), m.can.map fun x => decide (x.1 < 8),
   m.eth.map fun x => decide (x.1 < 4), m.trig.zipIdx.map fun x => decide (x.2 < 16), m.irqRoutes.map fun x => decide (x.2 < 32),
   m.queues.map fun q => decide (16 ≤ q.n ∧ q.n ≤ 127)]

/-- Check 1 (R71). -/
def check1 (m : Manifest) : Option ClaimFail :=
  match m.claims.find? (fun c => !claimInRange c) with
  | some c => some ⟨1, c.cls, c.idx, 9, []⟩
  | none =>
    match firstBad (fun p : PtCfg => p.scale = 0xFFFF || p.scale < m.scaling.length) m.points 0 with
    | some i => some ⟨1, 0, i % 65536, 9, [(4, i)]⟩
    | none =>
      match firstBad fblInRange m.fbl 0 with
      | some i => some ⟨1, 0, i, 9, []⟩
      | none =>
        if 262144 < m.points.length || m.points = [] || 1024 < m.nodes.length || 128 < m.fbl.length ||
           65536 < (m.fbl.map (·.blocks.length)).sum then some ⟨1, 0, 0, 9, []⟩
        else ((indexChecks m).findSome? fun l => firstBad (fun b => b) l 0).map fun i => ⟨1, 0, i % 65536, 9, []⟩

/-- The first cell with a derived coefficient outside its format (R71 check 7, R242). -/
def badCoef (m : Manifest) : Option Nat :=
  (m.loop.cells.find? fun x => !coefsFit x.2 (fun _ d => d)).map (·.1)

/-- Checks 2 to 9 (R71), given the grade and the fitted DRAM. -/
def check2to9 (m : Manifest) (xe : Bool) (dramGib minDram : Nat) : Option ClaimFail :=
  match twoOwners m.claims with
  | some (a, b) => some ⟨2, a.cls, a.idx, 9, [(2, a.owner), (2, b.owner)]⟩
  | none =>
  match m.claims.find? (fun c => c.cls = 1 && !ballOk xe c) with
  | some c => some ⟨3, 1, c.idx, 9, []⟩
  | none =>
  match (if xe then m.claims.find? (fun c => c.cls = 11) else none) with
  | some c => some ⟨4, 11, c.idx, 9, []⟩
  | none =>
  if xe && (m.safetySection || m.claims.any fun c => c.owner ∈ m.islandFns) then some ⟨4, 0, 0, 9, []⟩ else
  match m.uses.find? (fun u => !m.claims.any fun c => c.cls = u.cls && c.idx = u.idx && c.owner = u.owner) with
  | some u => some ⟨5, u.cls, u.idx, 9, []⟩
  | none =>
  match badPoint m.points none 0 with
  | some i => some ⟨6, 0, i % 65536, 9, (4, i) :: pointMore m.points i⟩
  | none =>
  match firstBad (fun l : Limit => decide (l.lo ≤ l.value) && decide (l.value ≤ l.hi)) m.limits 0 with
  | some i => some ⟨7, 0, i % 65536, 10, [(4, i)]⟩
  | none =>
  match badCoef m with
  | some c => some ⟨7, 0, c, 10, []⟩
  | none =>
  if dramGib < minDram then some ⟨8, 0, minDram, 11, []⟩ else
  match firstBad (fun e => decide (engineLoad m.fbl e ≤ 3 / 5)) (List.range 16) 0 with
  | some e => some ⟨9, 0, e, 12, []⟩
  | none => none

/-- The nine checks in order (R71). -/
def State.claimsCheck (s : State) : Option ClaimFail :=
  match check1 s.man with
  | some f => some f
  | none => check2to9 s.man (s.get R.DEV_GRADE_GRADE = 2) s.mus.dramGib ((s.mus.header.map (·.minDram)).getD 2)

/-- A failure as MNF_CLAIM_ERR shows it, for the record 0x0302 (R71, R92). -/
def ClaimFail.word (f : ClaimFail) (slot : Nat) : Nat := f.check + 16 * f.cls + 256 * (f.idx % 65536) + 2 ^ 24 * slot

/-- PWR_WAKE_SRC as a word, for the start record (R458). -/
def State.wakeSrcWord (s : State) : Nat :=
  s.get R.PWR_WAKE_SRC_CAN + 2 ^ 8 * s.get R.PWR_WAKE_SRC_WAKE_IN + 2 ^ 10 * s.get R.PWR_WAKE_SRC_RTC +
    2 ^ 11 * s.get R.PWR_WAKE_SRC_SAFE_IN + 2 ^ 12 * s.get R.PWR_WAKE_SRC_HOST + 2 ^ 13 * s.get R.PWR_WAKE_SRC_POR +
    2 ^ 14 * s.get R.PWR_WAKE_SRC_THERMAL_OFF

end Sys2Proof.Machine
end

