-- ==== Sys2Proof/Machine/Commands.lean ====
section
/-!
DEFINITION. The results of law, setpoint and machine-function commands (R172, R260, R502), and what a SAFE trigger preempts.
-/

namespace Sys2Proof.Machine

open Sys2Proof

/-- A journal item waits to be written; it replaces a waiting value of the same item (R91). -/
def State.journalWait (s : State) (kind : Nat) (payload : List Nat) : State :=
  { s with mnf := { s.mnf with waiting := s.mnf.waiting.filter (·.kind ≠ kind) ++ [⟨kind, payload⟩] } }

/-- A law or setpoint command reaches a result (R172, R193, R194, R502). -/
def State.helmResult (s : State) (res : Nat) (c : HelmCmd) : State :=
  let s := ((s.set R.HELM_CMD_STAT_RESULT res).set R.HELM_CMD_STAT_KIND c.kind).set R.HELM_CMD_STAT_TAG c.tag
  if res = 1 then
    let s := s.record { code := 0x0802, role := c.role, keyId := c.keyId,
                        items := [(1, c.kind), (1, c.target), (1, c.tag), (1, c.role.code), (2, c.keyId)] }
    s.result 8 c.kind c.target 1 c.tag c.role c.keyId s.log.head
  else if res = 2 then s.result 8 c.kind c.target 2 c.tag c.role c.keyId 0
  else
    let s := (s.evt R.HELM_EVT_CMD_REFUSED).record
      { code := 0x0803, role := c.role, keyId := c.keyId, items := [(1, c.kind), (1, res), (1, c.tag)] }
    s.result 8 c.kind c.target res c.tag c.role c.keyId s.log.head

/-- Waiting law and setpoint commands reach a result: SUPERSEDED or PREEMPTED. [Log DEDUCED: 95] -/
def State.endLaw (s : State) (res : Nat) : State :=
  match s.helm.lawPend with
  | some c => { s with helm := { s.helm with lawPend := none } }.helmResult res c
  | none => s

def State.endSp (s : State) (res : Nat) : State :=
  match s.helm.spPend with
  | some c => { s with helm := { s.helm with spPend := none } }.helmResult res c.1
  | none => s

/-- A SAFE trigger preempts both (R172). -/
def State.helmPreempt (s : State) : State := (s.endLaw 7).endSp 7

/-- A machine-function command reaches a result (R260, R502): `action` 1 ENABLE, 2 DISABLE, 3 RESET. [Log DEDUCED: 139] -/
def State.fnResult (s : State) (res action fn tag keyId : Nat) : State :=
  let s := ((s.set R.MFN_CMD_STAT_RESULT res).set R.MFN_CMD_STAT_TAG tag).set R.MFN_CMD_STAT_FN fn
  if res = 2 || res = 3 then s.result 12 action fn res tag .operator keyId 0
  else
    let s := if res = 1 then s else s.evt R.MFN_EVT_CMD_REFUSED
    let s := s.record { code := 0x0C03, source := fn, role := .operator, keyId := keyId,
                        items := [(1, fn), (1, action), (1, res), (1, tag), (1, Role.operator.code), (2, keyId)] }
    s.result 12 action fn res tag .operator keyId s.log.head

end Sys2Proof.Machine
end

