-- ==== Sys2Proof/Machine/Roll.lean ====
section
/-!
DEFINITION. Roll call (R73 to R76): the nodes' states, and what a reply or its absence does to them.
-/

namespace Sys2Proof.Machine

open Sys2Proof

def State.node (s : State) (i : Nat) : NodeSt := tget s.mnf.nodes i {}

/-- A node changes state: record 0x0304, alarms at entry to QUARANTINED and MISSING, and the ROLL envelope (R74, R75, R467). -/
def State.nodeChange (s : State) (i : Nat) (new : Nat) : State :=
  let n := s.node i
  if n.st = new then s
  else
    let items := [(2, i), (1, n.st), (1, new), (8, n.mark)]
    let s : State := { s with mnf := { s.mnf with nodes := tput s.mnf.nodes i { n with st := new } } }
    let e : Ev := { code := 0x0304, source := i, items := items }
    let s := if new = 3 || new = 4 then s.record { e with alarm := true }
      else if n.st = 3 || n.st = 4 then s.record { e with alarm := true, clear := true }
      else s.record e
    s.send 4 7 0 e.data s.pm

/-- Roll call runs in RUN-IN, READY, STATION and PASSAGE, on the active (R73). -/
def State.rollRuns (s : State) : Bool :=
  (s.mode = 2 || s.mode = 3 || s.mode = 4 || (s.mode = 1 && s.get R.MODE_STAT_PHASE = 8))

/-- What the absence of a reply to the last roll call does to a node (R74). -/
def State.rollAbsent (s : State) (i : Nat) : State :=
  match s.man.nodes[i]? with
  | none => s
  | some c =>
    let n := s.node i
    if c.exempt || s.mnf.rollSeq = 0 || n.repliedSeq = s.mnf.rollSeq then s
    else
      let n' := { n with missRun := min 255 (n.missRun + 1), goodRun := 0 }
      let s : State := { s with mnf := { s.mnf with nodes := tput s.mnf.nodes i n' } }
      if (n.st = 1 || n.st = 2) && 3 ≤ n'.missRun then s.nodeChange i 4 else s

/-- The place of a reported mark among a node's accepted marks. [Log PRESUMED: 44] -/
def markMatch (marks : List Nat) (m : Nat) : Option Nat := firstBad (fun x => x ≠ m) marks 0

/-- The state a first reply decides (R74). -/
def nodeNext (n : NodeSt) (hit : Option Nat) : NodeSt :=
  match hit with
  | some k =>
    let st := if k = 0 then 1 else 2
    let n := { n with match_ := k, missRun := 0 }
    if n.st = 3 then
      let g := n.goodRun + 1
      if 3 ≤ g then { n with goodRun := 0, next := some st } else { n with goodRun := g }
    else { n with next := some st }
  | none =>
    let n := { n with missRun := 0, goodRun := 0 }
    if n.st = 3 then n else { n with next := some 3 }

/-- A reply (R73, R74, R76) is judged against the accepted marks; a late one is counted and discarded; two replies with
different marks quarantine the node. -/
def State.rollReply (s : State) (node mark seq : Nat) : State :=
  match s.man.nodes[node]? with
  | none => s
  | some c =>
    let n := s.node node
    if seq ≠ s.mnf.rollSeq || !s.rollRuns then
      (s.record { code := 0x0305, source := node, items := [(2, node), (4, seq)], key := 1 })
    else if c.exempt then s
    else if n.repliedSeq = seq then
      let s := s.record { code := 0x0305, source := node, items := [(2, node), (4, seq)], key := 1 }
      if n.mark = mark then s
      else { s with mnf := { s.mnf with nodes := tput s.mnf.nodes node { n with mark := mark, goodRun := 0, next := some 3 } } }
    else
      let n := nodeNext { n with mark := mark, repliedSeq := seq } (markMatch c.marks mark)
      { s with mnf := { s.mnf with nodes := tput s.mnf.nodes node n } }

/-- State changes that replies decided take effect at a frame boundary (R74). -/
def State.applyNodes (s : State) : State :=
  (List.range s.man.nodes.length).foldl (fun (s : State) i =>
    match (s.node i).next with
    | some st =>
      let s : State := { s with mnf := { s.mnf with nodes := tput s.mnf.nodes i { s.node i with next := none } } }
      s.nodeChange i st
    | none => s) s

end Sys2Proof.Machine
end

