-- ==== Sys2Proof/Machine/Frames.lean ====
section
/-!
DEFINITION. The layouts of CAN and Ethernet frames (R403, R428): a field's bits in the bytes of a frame, and its value in the
encoding of a point.
-/

namespace Sys2Proof.Machine

open Sys2Proof

/-- The bytes that a field lies in. -/
def fieldBytes (f : LField) : Nat := (f.bit + f.width + 7) / 8

/-- The shortest frame that holds a layout. -/
def layoutLen (l : List LField) : Nat := l.foldl (fun m f => max m (f.byte + fieldBytes f)) 0

/-- The bits of a field. [Log DEDUCED: 209] -/
def getField (f : LField) (data : List Nat) : Nat :=
  let bs := (data.drop f.byte).take (fieldBytes f)
  (if f.big then ofBe bs else ofLe bs) / 2 ^ f.bit % 2 ^ f.width

/-- The bytes with a field's bits replaced. [Log DEDUCED: 209] -/
def putField (f : LField) (v : Nat) (data : List Nat) : List Nat :=
  let n := fieldBytes f
  let bs := (data.drop f.byte).take n
  let x := if f.big then ofBe bs else ofLe bs
  let x := x - x / 2 ^ f.bit % 2 ^ f.width * 2 ^ f.bit + v % 2 ^ f.width * 2 ^ f.bit
  data.take f.byte ++ (if f.big then beBytes n x else leBytes n x) ++ data.drop (f.byte + n)

/-- An IEEE 754 binary32 value as an exact number; a NaN is none. -/
def ofBinary32 (b : Nat) : Option Rat :=
  let e : Nat := b / 2 ^ 23 % 256
  let m : Nat := b % 2 ^ 23
  let sgn : Rat := if b / 2 ^ 31 % 2 = 1 then -1 else 1
  if e = 255 then (if m = 0 then some (sgn * 2 ^ 128) else none)
  else if e = 0 then some (sgn * (m : Rat) / 2 ^ 149)
  else if 150 ≤ e then some (sgn * ((2 ^ 23 + m : Nat) : Rat) * 2 ^ (e - 150))
  else some (sgn * ((2 ^ 23 + m : Nat) : Rat) / 2 ^ (150 - e))

/-- A field's bits as a point of this TYPE holds them (R31). What an integer point holds for a NaN is open.
[Log DESIGN CHOICE: 210] -/
def State.fieldToPoint (s : State) (f : LField) (raw type : Nat) : Nat :=
  match f.enc with
  | 0 => encodeNum type (if 2 * raw < 2 ^ f.width then (raw : Rat) else (raw : Rat) - 2 ^ f.width)
  | 2 => match ofBinary32 raw with | some x => encodeNum type x | none => Config.fresh 0x403 s.now % 2 ^ 64
  | 3 => if type = 3 then raw
    else match ofBinary64 raw with | some x => encodeNum type x | none => Config.fresh 0x403 s.now % 2 ^ 64
  | _ => encodeNum type raw

/-- A point's value as the bits of a field. What an integer field holds for a value outside it is open. [Log DESIGN CHOICE: 210] -/
def State.pointToField (s : State) (f : LField) (i : Nat) : Nat :=
  match s.ptCfg i with
  | none => 0
  | some c =>
    let v := (s.pt i).value
    if f.enc = 3 && c.type = 3 then v
    else match valueNum c.type v with
      | none => Config.fresh 0x404 s.now
      | some x =>
        match f.enc with
        | 2 => (Config.value 0x32 [x]).floor.toNat
        | 3 => (Config.value 0x31 [x]).floor.toNat
        | 0 =>
          let n := shownAt 0x428 x
          if -2 ^ (f.width - 1) ≤ n ∧ n < 2 ^ (f.width - 1) then (n % 2 ^ f.width).toNat else Config.fresh 0x405 s.now
        | _ =>
          let n := shownAt 0x428 x
          if 0 ≤ n ∧ n < 2 ^ f.width then n.toNat else Config.fresh 0x405 s.now

/-- A frame's layout goes to its points as inputs of the tick (R403, R428): GOOD, or the quality that a QUAL field in front gives.
[Log DEDUCED: 209] -/
def State.layoutIn (s : State) (l : List LField) (data : List Nat) (pm : Pm) : State :=
  (l.foldl (fun (a : State × Quality) f =>
    let raw := getField f data
    if f.enc = 4 then (a.1, (Quality.ofCode raw).getD .masked)
    else
      let type := match a.1.findPt f.addr with
        | some i => (match a.1.ptCfg i with | some c => c.type | none => 0)
        | none => 0
      (a.1.inbound { addr := f.addr, value := a.1.fieldToPoint f raw type, pm := pm, quality := a.2 }, .good)) (s, .good)).1

/-- The bytes of an outbound layout, from the point table as it stands. -/
def State.layoutOut (s : State) (l : List LField) (len : Nat) : List Nat :=
  let quals := l.tail.map (fun f => f.addr) ++ [0]
  (l.zip quals).foldl (fun d x =>
    if x.1.enc = 4 then
      putField x.1 (match s.findPt x.2 with | some i => (s.ptQuality i).code | none => Quality.masked.code) d
    else match s.findPt x.1.addr with
      | some i => putField x.1 (s.pointToField x.1 i) d
      | none => d) (List.replicate len 0)

/-- An envelope from a frame waits for the end of its tick (R358). [Log DEDUCED: 220] -/
def State.frameEnv (s : State) (n origin : Nat) (payload : List Nat) (pm : Pm) : State :=
  { s with inbox := s.inbox ++ [.env n 2 origin payload pm] }

/-- Outbound cyclic frames run: not in LULL3, DORMANT or before RUN-IN; in SAFE only those that carry drive commands (R43, R378),
and none to a node that is UNKNOWN or QUARANTINED (R75). -/
def State.cyclicRuns (s : State) (drive : Bool) (node : Option Nat) : Bool :=
  s.pwr.l3 = 0 && ((2 ≤ s.mode && s.mode ≤ 4) || (s.mode = 1 && s.get R.MODE_STAT_PHASE = 8) || (s.mode = 5 && drive)) &&
  !(match node with | some a => s.untrusted a | none => false)

/-- A commit wrote a field of the layout. [Log DEDUCED: 211] -/
def layoutTouched (l : List LField) (addrs : List Nat) : Bool := l.any fun f => f.enc ≠ 4 && f.addr ∈ addrs

end Sys2Proof.Machine
end

