-- ==== Sys2Proof/Machine/Can.lean ====
section
/-!
DEFINITION. The CAN FD channels (R396 to R422): reception, filters and express slots, transmit mailboxes, error counters and
bus-off, squall guard, stop band, roll call, NMEA 2000, and the controller's state with mode and role.
-/

namespace Sys2Proof.Machine

open Sys2Proof

def State.canSt (s : State) (ch : Nat) : CanSt := tget s.can ch {}
def State.putCan (s : State) (ch : Nat) (c : CanSt) : State := { s with can := tput s.can ch c }
def State.canCfg (s : State) (ch : Nat) : Option CanCfg := tfind s.man.can ch

/-- 0 OFF, 1 INTEGRATING, 2 NORMAL, 3 LISTEN-ONLY, 4 BUS-OFF, 5 RECOVERING (R421). -/
def State.canMode (s : State) (ch : Nat) : Nat := s.get R.CAN_STAT_MODE ch

/-! ### Mailboxes (R407 to R410, R414) -/

def mbBank (ch mb : Nat) : Nat := ch * 32 + mb

def State.mbCfg (s : State) (ch mb : Nat) : Option CanMbCfg := match s.canCfg ch with | some c => tfind c.mbs mb | none => none
def State.mbSt (s : State) (ch mb : Nat) : CanMbSt := tget (s.canSt ch).mbs mb {}
def State.mbStatus (s : State) (ch mb : Nat) : Nat := s.get R.CAN_MB_STAT_STATUS (mbBank ch mb)
def State.setMb (s : State) (ch mb status : Nat) : State := s.set R.CAN_MB_STAT_STATUS status (mbBank ch mb)

def State.putMb (s : State) (ch mb : Nat) (m : CanMbSt) : State :=
  s.putCan ch { s.canSt ch with mbs := tput (s.canSt ch).mbs mb m }

/-- The DLC of a content. -/
def dlcOf (len : Nat) : Nat :=
  if len ≤ 8 then len else if len ≤ 12 then 9 else if len ≤ 16 then 10 else if len ≤ 20 then 11
  else if len ≤ 24 then 12 else if len ≤ 32 then 13 else if len ≤ 48 then 14 else 15

/-- A mailbox's status while it waits: PENDING, or HELD for a NON-URGENT one while the guard holds (R414). -/
def State.mbWaits (s : State) (ch : Nat) (c : CanMbCfg) : Nat := if s.flag R.CAN_STAT_SQUALL ch && !c.urgent then 7 else 1

/-- The mailbox takes content that is not on the bus yet. -/
def State.mbFill (s : State) (ch mb : Nat) (c : CanMbCfg) (data : List Nat) : State :=
  let m := s.mbSt ch mb
  let s := s.putMb ch mb { data := data, fastSeq := if c.fast then (m.fastSeq + 1) % 8 else 0 }
  let b := mbBank ch mb
  let s := ((s.set R.CAN_MB_STAT_ATTEMPTS 0 b).set R.CAN_MB_STAT_FAIL_KIND 0 b).set R.CAN_MB_STAT_DLC (dlcOf (if c.fast then 8 else c.len)) b
  s.setMb ch mb (s.mbWaits ch c)

/-- New content (R408): it replaces what waits; during an attempt, whose SOF has passed, it waits for the attempt's end. -/
def State.mbQueue (s : State) (ch mb : Nat) (data : List Nat) (sof : Bool) : State :=
  match s.mbCfg ch mb with
  | none => s
  | some c =>
    if s.canMode ch = 0 then s
    else if sof || s.mbStatus ch mb = 2 then
      (s.putMb ch mb { s.mbSt ch mb with next := some data }).setMb ch mb 2
    else s.mbFill ch mb c data

/-- The content of a mailbox from the point table. -/
def State.mbContent (s : State) (c : CanMbCfg) : List Nat := s.layoutOut c.fields c.len

/-- ON_WRITE mailboxes whose points a commit wrote (R408). [Log DEDUCED: 211] -/
def State.canOnWrite (s : State) (addrs : List Nat) : State :=
  s.man.can.foldl (fun (s : State) x =>
    x.2.mbs.foldl (fun (s : State) m =>
      if m.2.periodMs.isNone && layoutTouched m.2.fields addrs && s.cyclicRuns m.2.drive m.2.node then
        s.mbQueue x.1 m.1 (s.mbContent m.2) false
      else s) s) s

/-- CAN_PERIODIC_TRANSMIT (R408): the mailbox falls due with its content; `sof`: an attempt of it is on the bus. -/
def execCanPeriodicTransmit (dt ch mb : Nat) (sof : Bool) (s : State) : Out :=
  let s := s.advance dt
  match s.mbCfg ch mb with
  | none => .next s
  | some c =>
    if c.periodMs.isSome && s.cyclicRuns c.drive c.node then .next (s.mbQueue ch mb (s.mbContent c) sof) else .next s

/-- CAN_MAILBOX_CANCEL (R410): in time before the SOF of an attempt; later the attempt runs on. [Log DEDUCED: 223] -/
def execCanMailboxCancel (dt ch mb : Nat) (sof : Bool) (s : State) : Out :=
  let s := s.advance dt
  let st := s.mbStatus ch mb
  if !(st = 1 || st = 2 || st = 7) then .next s
  else if sof || st = 2 then .next ((s.putMb ch mb { s.mbSt ch mb with cancel := true, next := none }).setMb ch mb 2)
  else .next (s.setMb ch mb 5)

/-! ### Error counters (R411, R412) -/

/-- The error state follows the counters: 0 error-active, 1 error-passive, 2 bus-off; entering and leaving is recorded. -/
def State.canErrState (s : State) (ch : Nat) : State :=
  let c := s.canSt ch
  let s := (s.setSat R.CAN_ERR_TEC c.tec ch).setSat R.CAN_ERR_REC c.rec_ ch
  let old := s.get R.CAN_STAT_ERR_STATE ch
  let new := if 255 < c.tec then 2 else if 128 ≤ c.tec || 128 ≤ c.rec_ then 1 else 0
  let s := s.set R.CAN_STAT_ERR_STATE new ch
  let e : Ev := { code := 0x1402, source := ch, items := [(1, ch), (1, min 255 c.tec), (1, min 255 c.rec_)], key := 1 }
  if old = new then s
  else if new = 1 then (s.evt R.CAN_EVT_PASSIVE ch).record e
  else if old = 1 && new = 0 then s.record e
  else s

/-- A one-shot mailbox fails (R409, 0x1406). [Log DEDUCED: 213] -/
def State.mbFail (s : State) (ch mb kind : Nat) : State :=
  let s := ((s.setMb ch mb 6).set R.CAN_MB_STAT_FAIL_KIND kind (mbBank ch mb)).incSat R.CAN_TX_CNT_ONESHOT_FAIL ch
  (s.evt R.CAN_EVT_ONESHOT_FAIL ch).record { code := 0x1406, source := ch, items := [(1, ch), (1, mb), (1, kind)] }

/-- Bus-off is entered (R412): one-shot mailboxes end, the others stay PENDING; AUTO starts recovery at once. [Log DEDUCED: 215] -/
def State.canBusOff (s : State) (ch : Nat) (c : CanCfg) : State :=
  let s := ((s.set R.CAN_STAT_MODE (if c.manual then 4 else 5) ch).inc R.CAN_ERR_BUSOFFS ch).evt R.CAN_EVT_BUSOFF ch
  let s := s.alarm 0x1401 ch [(1, ch), (1, s.get R.CAN_ERR_TEC ch), caseItem 0x1401 (if c.manual then 1 else 0)] 1
  c.mbs.foldl (fun (s : State) m =>
    let st := s.mbStatus ch m.1
    if m.2.oneshot && (st = 1 || st = 2 || st = 7) then s.mbFail ch m.1 6 else if st = 2 then s.setMb ch m.1 1 else s) s

/-- The counters move, and with them the error state. -/
def State.canCount (s : State) (ch : Nat) (c : CanCfg) (tec rec_ : Nat) : State :=
  let s := (s.putCan ch { s.canSt ch with tec := tec, rec_ := rec_ }).canErrState ch
  if 255 < tec && s.canMode ch = 2 then s.canBusOff ch c else s

/-- An error is counted and shown by its LEC code: 1 STUFF, 2 FORM, 3 ACK, 4 BIT1, 5 BIT0, 6 CRC. -/
def State.canLec (s : State) (ch lec : Nat) (dataPhase : Bool) : State :=
  let s := (s.set R.CAN_LEC_LEC lec ch).setB R.CAN_LEC_DATA_PHASE dataPhase ch
  match lec with
  | 3 => s.incSat R.CAN_ERR_CNT_ACK ch
  | 6 => s.incSat R.CAN_ERR_CNT_CRC ch
  | 4 | 5 => s.incSat R.CAN_ERR_CNT_BIT ch
  | _ => s.incSat R.CAN_ERR_CNT_STUFF_FORM ch

/-- FAIL_KIND of a LEC code. [Log DEDUCED: 213] -/
def failKind (lec : Nat) : Nat := match lec with | 3 => 1 | 4 => 2 | 5 => 2 | 1 => 3 | 2 => 4 | 6 => 5 | _ => 0

/-- A frame was acknowledged: NO_ACK clears (R411). -/
def State.canAcked (s : State) (ch mb : Nat) : State :=
  let s := s.putCan ch { s.canSt ch with ackRun := 0 }
  if s.flag R.CAN_STAT_NO_ACK ch then
    (s.set R.CAN_STAT_NO_ACK 0 ch).clearAlarm 0x1403 ch [(1, ch), (1, mb), (2, s.get R.CAN_MB_STAT_ATTEMPTS (mbBank ch mb))] 2
  else s

/-- One ACK error more; the 16th in a row raises CAN-NO-ACK (R411). [Log DEDUCED: 224] -/
def State.canNoAck (s : State) (ch mb : Nat) : State :=
  let n := (s.canSt ch).ackRun + 1
  let s := s.putCan ch { s.canSt ch with ackRun := n }
  if 16 ≤ n && !s.flag R.CAN_STAT_NO_ACK ch then
    ((s.set R.CAN_STAT_NO_ACK 1 ch).evt R.CAN_EVT_NO_ACK ch).alarm 0x1403 ch
      [(1, ch), (1, mb), (2, s.get R.CAN_MB_STAT_ATTEMPTS (mbBank ch mb))] 2
  else s

/-- Frames of a mailbox's content: a fast-packet message takes 6 bytes in the first and 7 in each later one. -/
def mbFrames (c : CanMbCfg) (data : List Nat) : Nat := if c.fast then (if data.length ≤ 6 then 1 else 1 + data.length / 7) else 1

/-- What a mailbox holds after an attempt that did not send it: new content, a retry, or the end of a one-shot or cancelled one.
[Log DEDUCED: 223] -/
def State.mbRetry (s : State) (ch mb : Nat) (c : CanMbCfg) (kind : Nat) : State :=
  let m := s.mbSt ch mb
  if m.cancel then
    match m.next with
    | some d => s.mbFill ch mb c d
    | none => (s.putMb ch mb { m with cancel := false, part := 0 }).setMb ch mb 5
  else if c.oneshot then
    match m.next with
    | some d => (s.mbFail ch mb kind).mbFill ch mb c d
    | none => s.mbFail ch mb kind
  else match m.next with
    | some d => s.mbFill ch mb c d
    | none => s.setMb ch mb (s.mbWaits ch c)

/-- A frame of the mailbox is sent (R408, R410). [Log DEDUCED: 223] -/
def State.mbSent (s : State) (ch mb : Nat) (c : CanMbCfg) : State :=
  let m := s.mbSt ch mb
  let s := s.inc R.CAN_TX_CNT_FRAMES ch
  if m.part + 1 < mbFrames c m.data && !m.cancel then
    (s.putMb ch mb { m with part := m.part + 1 }).setMb ch mb (s.mbWaits ch c)
  else
    let s := if m.cancel then
        let s := ((s.setMb ch mb 4).incSat R.CAN_TX_CNT_LATE_CANCEL ch).evt R.CAN_EVT_LATE_CANCEL ch
        s.record { code := 0x1407, source := ch, items := [(1, ch), (1, mb), (4, s.get R.CAN_MB_ID_ID (mbBank ch mb))] }
      else s.setMb ch mb 3
    match m.next with
    | some d => s.mbFill ch mb c d
    | none => s.putMb ch mb { m with cancel := false, part := 0 }

/-- What an attempt that met an error adds to TEC (R411, ISO 11898-1): 8, but nothing for an ACK error in error-passive without a
dominant bit and for a stuff error in arbitration; `more` counts the further 8 dominant bits. -/
def State.tecStep (s : State) (ch lec : Nat) (exempt : Bool) (more : Nat) : Nat :=
  (if exempt && (lec = 1 || (lec = 3 && s.get R.CAN_STAT_ERR_STATE ch = 1)) then 0 else 8) + 8 * more

/-- A channel that could not claim an address transmits nothing but that (R418). [Log DEDUCED: 226] -/
def State.canMute (s : State) (ch mb : Nat) (c : CanCfg) : Bool :=
  s.flag R.CAN_N2K_CANNOT_CLAIM ch && (match c.n2k with | some n => n.mb != mb | none => false)

/-- CAN_TX_ATTEMPT_END (R409 to R412): TEC and REC follow ISO 11898-1. [Log DEDUCED: 212, 221, 224] -/
def execCanTxAttemptEnd (dt ch mb : Nat) (r : TxEnd) (s : State) : Out :=
  let s := s.advance dt
  let st := s.mbStatus ch mb
  match s.canCfg ch, s.mbCfg ch mb with
  | some cc, some c =>
    if s.canMode ch ≠ 2 || !(st = 1 || st = 2) || s.canMute ch mb cc then .next s
    else
      let s := s.incSat R.CAN_MB_STAT_ATTEMPTS (mbBank ch mb)
      match r with
      | .success tdcv =>
        let s := match tdcv with | some d => s.set R.CAN_TDC_TDCV d ch | none => s
        .next (((s.canAcked ch mb).mbSent ch mb c).canCount ch cc ((s.canSt ch).tec - 1) (s.canSt ch).rec_)
      | .lost => .next (s.mbRetry ch mb c 0)
      | .err lec dp exempt more =>
        let step := s.tecStep ch lec exempt more
        let s := s.canLec ch lec dp
        let s := if lec = 3 then s.canNoAck ch mb else s.putCan ch { s.canSt ch with ackRun := 0 }
        let s := s.mbRetry ch mb c (failKind lec)
        .next (s.canCount ch cc ((s.canSt ch).tec + step) (s.canSt ch).rec_)
  | _, _ => .next s

/-- CAN_RX_ERROR (R396, R411): an error while receiving moves REC by `inc` as ISO 11898-1 counts it; a protocol exception is
counted and enters bus integration. A listen-only channel keeps its counters at 0. [Log DEDUCED: 221] -/
def execCanRxError (dt ch lec : Nat) (dataPhase : Bool) (inc : Nat) (exception : Bool) (s : State) : Out :=
  let s := s.advance dt
  match s.canCfg ch with
  | none => .next s
  | some c =>
    if !(s.canMode ch = 2 || s.canMode ch = 3) then .next s
    else if exception then
      let s := (s.incSat R.CAN_LEC_PEXC ch).set R.CAN_STAT_MODE 1 ch
      .next (s.record { code := 0x140B, source := ch, items := [(1, ch), (1, s.get R.CAN_LEC_PEXC ch)], key := 1 })
    else
      let s := s.canLec ch lec dataPhase
      if s.canMode ch = 3 then .next s else .next (s.canCount ch c (s.canSt ch).tec ((s.canSt ch).rec_ + inc))

/-- CAN_RECOVER (R412): an Operator write starts the recovery sequence under MANUAL. -/
def execCanRecover (dt : Nat) (port : Port) (ch : Nat) (s : State) : Out :=
  let s := s.advance dt
  .next (s.withRole port [.operator] (0x13054 + ch % 8 * 0x400) fun s =>
    if s.canMode (ch % 8) = 4 then s.set R.CAN_STAT_MODE 5 (ch % 8) else s)

/-- BUSOFF_RECOVERY_DONE (R412): the channel rejoins error-active with both counters at 0. [Log DEDUCED: 215] -/
def execBusoffRecoveryDone (dt ch : Nat) (s : State) : Out :=
  let s := s.advance dt
  match s.canCfg ch with
  | none => .next s
  | some c =>
    if s.canMode ch ≠ 5 then .next s
    else
      let s := s.set R.CAN_STAT_MODE (if s.isActive then 2 else 3) ch
      let s := (s.putCan ch { s.canSt ch with tec := 0, rec_ := 0, ackRun := 0 }).canErrState ch
      .next (s.clearAlarm 0x1401 ch [(1, ch), (1, 0), caseItem 0x1401 (if c.manual then 1 else 0)] 1)

/-! ### Squall guard (R413, R414) -/

/-- SQUALL_LOAD_UPDATE (R413): every 1 ms the busy fraction of the last ms enters the load of the last 10 ms. [Log DEDUCED: 221] -/
def execSquallLoadUpdate (dt ch : Nat) (busy : Rat) (s : State) : Out :=
  let s := s.advance dt
  match s.canCfg ch with
  | none => .next s
  | some c =>
    if s.tick % 100 ≠ 0 then .next s
    else
      let loads := (busy :: (s.canSt ch).loads).take 10
      let load := loads.sum / 10
      let s := (s.putCan ch { s.canSt ch with loads := loads }).setU R.CAN_LOAD_LOAD_PM (load * 1000) ch
      let pm := s.get R.CAN_LOAD_LOAD_PM ch
      let s := s.set R.CAN_LOAD_PEAK_PM (max pm (s.get R.CAN_LOAD_PEAK_PM ch)) ch
      let held := s.flag R.CAN_STAT_SQUALL ch
      if !held && (c.sqHold : Rat) / 100 ≤ load then
        let s := ((s.set R.CAN_STAT_SQUALL 1 ch).inc R.CAN_SQ_HOLDS ch).evt R.CAN_EVT_SQUALL ch
        let s := (s.putCan ch { s.canSt ch with holdAt := some s.now }).record
          { code := 0x1404, source := ch, items := [(1, ch), (2, pm), measItem 0x1404 0], key := 1 }
        .next (c.mbs.foldl (fun (s : State) m =>
          if !m.2.urgent && s.mbStatus ch m.1 = 1 then s.setMb ch m.1 7 else s) s)
      else if held && load ≤ (c.sqRelease : Rat) / 100 then
        let len : Rat := match (s.canSt ch).holdAt with | some t => ((s.now - t : Nat) : Rat) / 1000000000 | none => 0
        let was := (s.canSt ch).squallAlarm
        let s := (s.set R.CAN_STAT_SQUALL 0 ch).putCan ch { s.canSt ch with holdAt := none, squallAlarm := false }
        let s := c.mbs.foldl (fun (s : State) m => if s.mbStatus ch m.1 = 7 then s.setMb ch m.1 1 else s) s
        let s := s.record { code := 0x1404, source := ch, items := [(1, ch), (2, pm), measItem 0x1404 len], key := 1 }
        .next (if was then s.clearAlarm 0x1404 ch [(1, ch), (2, pm), measItem 0x1404 len] 1 else s)
      else .next s

/-- CAN_SQUALL_ALARM (R414): a hold of 1 s raises CAN-SQUALL. -/
def execCanSquallAlarm (dt ch : Nat) (s : State) : Out :=
  let s := s.advance dt
  match (s.canSt ch).holdAt with
  | some t =>
    if t + 1000000000 ≤ s.now && !(s.canSt ch).squallAlarm then
      .next ((s.putCan ch { s.canSt ch with squallAlarm := true }).alarm 0x1404 ch
        [(1, ch), (2, s.get R.CAN_LOAD_LOAD_PM ch), measItem 0x1404 (((s.now - t : Nat) : Rat) / 1000000000)] 1)
    else .next s
  | none => .next s

/-! ### Express slots (R404 to R406) -/

def esBank (ch slot : Nat) : Nat := ch * 8 + slot

def State.esSt (s : State) (ch slot : Nat) : EsSt := tget (s.canSt ch).slots slot {}

def State.putEs (s : State) (ch slot : Nat) (e : EsSt) : State :=
  s.putCan ch { s.canSt ch with slots := tput (s.canSt ch).slots slot e }

/-- CAN_ES_ID of a frame. -/
def esIdWord (f : CanFrame) : Nat :=
  f.id % 2 ^ 29 + (if f.ide then 2 ^ 29 else 0) + (if f.fdf then 2 ^ 30 else 0) + (if f.brs then 2 ^ 31 else 0)

/-- CAN_ES_INFO of a frame. [Log DEDUCED: 217] -/
def esInfoWord (f : CanFrame) (seq : Nat) : Nat :=
  f.dlc % 16 + 16 * (f.data.length % 128) + (if f.esi then 2048 else 0) + 65536 * (seq % 65536)

/-- A frame stands in the front buffer: NEW is set and the slot's interrupt raised (R404, R476). [Log DEDUCED: 222] -/
def State.esFront (s : State) (ch slot : Nat) (f : CanFrame) (seq : Nat) : State :=
  let b := esBank ch slot
  let s := ((s.set R.CAN_ES_ID_ID f.id b).setB R.CAN_ES_ID_IDE f.ide b).setB R.CAN_ES_ID_FDF f.fdf b
  let s := ((s.setB R.CAN_ES_ID_BRS f.brs b).set R.CAN_ES_INFO_DLC f.dlc b).set R.CAN_ES_INFO_LEN f.data.length b
  let s := ((s.setB R.CAN_ES_INFO_ESI f.esi b).set R.CAN_ES_INFO_SEQ seq b).set R.CAN_ES_PM_PM32 (pmTotal f.pm) b
  let s := (List.range 16).foldl (fun (s : State) j =>
    s.set R.CAN_ES_DATA_DATA (ofLe ((f.data.drop (4 * j)).take 4)) (b * 16 + j)) s
  ((s.set R.CAN_ES_STAT_NEW 1 b).evt R.CAN_EVT_ES_NEW ch).raise (160 + b)

/-- A loss of the slot is noted (0x1409). [Log DEDUCED: 222] -/
def State.esLoss (s : State) (ch slot : Nat) : State :=
  let b := esBank ch slot
  (s.evt R.CAN_EVT_ES_LOST ch).record
    { code := 0x1409, source := ch,
      items := [(1, ch), (1, slot), (2, s.get R.CAN_ES_LOST_OVERWRITE b), (2, s.get R.CAN_ES_LOST_SHADOW_LOST b)], key := 2 }

/-- A frame reaches the slot's host buffers (R405, R406): the front while it is unlocked, else the shadow. A shadow frame that moved
to the front in the same clock counts as lost from the shadow. [Log DEDUCED: 217] -/
def State.esTake (s : State) (ch slot : Nat) (f : CanFrame) : State :=
  let b := esBank ch slot
  let e := s.esSt ch slot
  let seq := (e.seq + 1) % 65536
  let s := s.putEs ch slot { e with seq := seq }
  if s.flag R.CAN_ES_STAT_LOCKED b then
    let s := if e.shadow.isSome then (s.inc R.CAN_ES_LOST_SHADOW_LOST b).esLoss ch slot else s
    (s.putEs ch slot { s.esSt ch slot with shadow := some (f, seq) }).set R.CAN_ES_STAT_SHADOW_FULL 1 b
  else
    let f' := if e.movedAt = some s.now then R.CAN_ES_LOST_SHADOW_LOST else R.CAN_ES_LOST_OVERWRITE
    let s := if s.flag R.CAN_ES_STAT_NEW b then (s.inc f' b).esLoss ch slot else s
    s.esFront ch slot f seq

/-- The lock is released: a waiting shadow frame moves to the front (R405). -/
def State.esRelease (s : State) (ch slot : Nat) : State :=
  let b := esBank ch slot
  let e := s.esSt ch slot
  let moved := if e.shadow.isSome then some s.now else none
  let s := (s.putEs ch slot { e with lockAt := none, shadow := none, movedAt := moved }).set R.CAN_ES_STAT_LOCKED 0 b
  match e.shadow with
  | some (f, q) => (s.set R.CAN_ES_STAT_SHADOW_FULL 0 b).esFront ch slot f q
  | none => s

/-- A read of CAN_ES_ID: it locks, clears NEW and, under R97, latches the time of CAN_ES_PM. A lock already held does not start
again. -/
def State.esIdRead (s : State) (ch slot : Nat) : State × Nat :=
  let b := esBank ch slot
  let w := s.get R.CAN_ES_ID_ID b + 2 ^ 29 * s.get R.CAN_ES_ID_IDE b + 2 ^ 30 * s.get R.CAN_ES_ID_FDF b + 2 ^ 31 * s.get R.CAN_ES_ID_BRS b
  let s := if s.flag R.CAN_ES_STAT_LOCKED b then s
    else (s.putEs ch slot { s.esSt ch slot with lockAt := some s.now }).set R.CAN_ES_STAT_LOCKED 1 b
  (s.set R.CAN_ES_STAT_NEW 0 b, w)

/-- A read of CAN_ES_DATA15. -/
def State.esLastRead (s : State) (ch slot : Nat) : State × Nat :=
  let b := esBank ch slot
  let w := s.get R.CAN_ES_DATA_DATA (b * 16 + 15)
  (if s.flag R.CAN_ES_STAT_LOCKED b then s.esRelease ch slot else s, w)

/-- What a read returned. -/
def State.readBack (s : State) (p : Port) (v : Nat) : State :=
  match p with
  | .pcie => { s with pcie := { s.pcie with rdata := v } }
  | .spi => { s with spi := { s.spi with rdata := v } }

/-- CAN_ES_ID_READ (R405, R406). -/
def execCanEsIdRead (dt : Nat) (port : Port) (ch slot : Nat) (s : State) : Out :=
  let r := (s.advance dt).esIdRead (ch % 8) (slot % 8)
  .next (r.1.readBack port r.2)

/-- CAN_ES_DATA15_READ (R405, R406). -/
def execCanEsData15Read (dt : Nat) (port : Port) (ch slot : Nat) (s : State) : Out :=
  let r := (s.advance dt).esLastRead (ch % 8) (slot % 8)
  .next (r.1.readBack port r.2)

/-- CAN_ES_LOCK_TIMEOUT (R405, 0x1408). -/
def execCanEsLockTimeout (dt ch slot : Nat) (s : State) : Out :=
  let s := s.advance dt
  match (s.esSt ch slot).lockAt, s.canCfg ch with
  | some t, some c =>
    if t + c.lockUs * 1000 ≤ s.now then
      .next (((s.esRelease ch slot).set R.CAN_ES_STAT_LOCK_TIMEOUT 1 (esBank ch slot)).record
        { code := 0x1408, source := ch, items := [(1, ch), (1, slot)] })
    else .next s
  | _, _ => .next s

/-! ### NMEA 2000 (R418) -/

/-- The identifier as the filters see it: a bound node keeps the source address that the manifest names, whatever address it has
claimed since; one that has moved away no longer answers for it. -/
def State.n2kId (s : State) (ch : Nat) (n : N2kCfg) (id : Nat) : Nat :=
  let sa := id % 256
  let seen := (s.canSt ch).seen
  let own := n.nodes.find? fun x => (tget seen x.1 x.2) = sa
  match own with
  | some x => id - sa + x.2
  | none => if n.nodes.any (fun x => x.2 = sa) then id - sa + 254 else id

/-- The CAN identifier of an address claim, and its priority-6 mailbox content: the NAME. [Log PRESUMED: 218] -/
def State.n2kSend (s : State) (ch : Nat) (n : N2kCfg) : State :=
  let s := s.set R.CAN_MB_ID_ID (0x18EEFF00 + s.get R.CAN_N2K_ADDR ch) (mbBank ch n.mb)
  s.mbQueue ch n.mb (leBytes 8 n.name) false

/-- The record 0x140A. [Log DEDUCED: 219] -/
def State.n2kNote (s : State) (ch name old new : Nat) : State :=
  s.record { code := 0x140A, source := ch, items := [(1, ch), (8, name), (1, old), (1, new)] }

/-- The mailboxes' identifiers carry the source address that the device holds. [Log DEDUCED: 226] -/
def State.n2kMove (s : State) (ch : Nat) (n : N2kCfg) (a : Nat) : State :=
  match s.canCfg ch with
  | some c => c.mbs.foldl (fun (s : State) m =>
      if m.1 ≠ n.mb && m.2.ide && m.2.id % 256 = n.addr then s.set R.CAN_MB_ID_ID (m.2.id - n.addr + a) (mbBank ch m.1) else s) s
  | none => s

/-- An own claim is lost: the next free address of the range, or cannot-claim and N2K-ADDR. [Log DEDUCED: 226] -/
def State.n2kLost (s : State) (ch : Nat) (n : N2kCfg) : State :=
  let old := s.get R.CAN_N2K_ADDR ch
  let taken := old :: (s.canSt ch).seen.map (·.2)
  let range := (List.range (n.hi + 1 - n.lo)).map (· + n.lo)
  let after := range.filter (fun a => old < a) ++ range.filter (fun a => a ≤ old)
  let s := (s.incSat R.CAN_N2K_LOSSES ch).evt R.CAN_EVT_N2K ch
  match after.find? fun a => decide (a ∉ taken) with
  | some a => (((s.set R.CAN_N2K_ADDR a ch).n2kMove ch n a).n2kNote ch n.name old a).n2kSend ch n
  | none =>
    let s := ((s.set R.CAN_N2K_ADDR 254 ch).set R.CAN_N2K_CLAIMED 0 ch).set R.CAN_N2K_CANNOT_CLAIM 1 ch
    (s.alarm 0x140A ch [(1, ch), (8, n.name), (1, old), (1, 254)]).n2kSend ch n

/-- N2K_ADDRESS_CLAIM (R418): at trunk bring-up the device claims N2K_ADDR with N2K_NAME. [Log DEDUCED: 219] -/
def execN2kAddressClaim (dt ch : Nat) (s : State) : Out :=
  let s := s.advance dt
  match s.canCfg ch with
  | some c =>
    match c.n2k with
    | some n =>
      if s.canMode ch = 0 then .next s
      else
        let s := ((s.set R.CAN_N2K_ADDR n.addr ch).set R.CAN_N2K_CLAIMED 1 ch).evt R.CAN_EVT_N2K ch
        .next ((s.n2kNote ch n.name 254 n.addr).n2kSend ch n)
    | none => .next s
  | none => .next s

/-- N2K_CLAIM_RECEIVE (R418): a request is answered; a claim of the own address by a lower NAME is lost to, one by a higher NAME
answered; address changes of other nodes are recorded. [Log PRESUMED: 218; DEDUCED: 219] -/
def execN2kClaimReceive (dt ch : Nat) (request : Bool) (name addr : Nat) (s : State) : Out :=
  let s := s.advance dt
  match s.canCfg ch with
  | some c =>
    match c.n2k with
    | some n =>
      if s.canMode ch = 0 then .next s
      else if request then .next (s.n2kSend ch n)
      else
        let was := tfind (s.canSt ch).seen name
        let s := s.putCan ch { s.canSt ch with seen := tput (s.canSt ch).seen name addr }
        let s := match was with
          | some a => if a = addr then s else s.n2kNote ch name a addr
          | none => match n.nodes.find? fun x => decide (x.1 = name) with
            | some x => if x.2 = addr then s else s.n2kNote ch name x.2 addr
            | none => s
        if addr = s.get R.CAN_N2K_ADDR ch && s.flag R.CAN_N2K_CLAIMED ch then
          if name < n.name then .next (s.n2kLost ch n) else .next (s.n2kSend ch n)
        else .next s
    | none => .next s
  | none => .next s

/-! ### Reception (R402, R403, R416, R420) -/

/-- A filter matches an identifier. -/
def fltMatch (f : CanFilter) (fr : CanFrame) (id : Nat) : Bool :=
  decide (id &&& f.mask = f.id &&& f.mask) && f.ide = fr.ide && (f.kind = 0 || (f.kind = 2) = fr.fdf)

/-- The first match of some filters: its number. -/
def firstMatch (t : Tab CanFilter) (fr : CanFrame) (id : Nat) : Option (Nat × CanFilter) := t.find? fun x => fltMatch x.2 fr id

/-- A CAN roll-call reply (R417): an FD frame of 12 bytes; anything else counts as no reply. -/
def State.canRollReply (s : State) (ch : Nat) (f : CanFrame) : State :=
  if !f.fdf || f.data.length ≠ 12 then s
  else
    let node := f.data.getD 10 0
    match firstBad (fun (c : NodeCfg) => !(c.addr / 4096 = ch + 5 && c.addr % 256 = node)) s.man.nodes 0 with
    | some i => s.rollReply i (ofLe ((f.data.drop 2).take 8)) (ofLe (f.data.take 2))
    | none => s

/-- A frame or message goes to its destination; on a standby inputs come from the active's records instead (R357). `bank` is that
of the filter's counts, none for a slot. -/
def State.canDest (s : State) (ch : Nat) (c : CanCfg) (f : CanFilter) (idx : Nat) (slot : Bool) (fr : CanFrame)
    (data : List Nat) : State :=
  let short := fun (s : State) => if slot then s else s.inc R.CAN_FLT_HIT_SHORT (ch * 64 + idx)
  match f.dest with
  | 1 =>
    let l := tget c.layouts f.layout []
    if data.length < layoutLen l then short s else if s.follows then s else s.layoutIn l data fr.pm
  | 2 =>
    if s.follows then s
    else s.frameEnv f.pigeonhole ((ch + 5) * 2 ^ 28 + (if slot then 256 else 0) + idx)
      (leBytes 4 (esIdWord fr) ++ leBytes 4 (esInfoWord { fr with data := data } 0) ++ data) fr.pm
  | 3 => if s.follows then s else s.canRollReply ch fr
  | _ => s

/-- One frame of a fast-packet message (R418): the message where it is complete; an out-of-order frame discards it.
[Log PRESUMED: 218] -/
def State.fastTake (s : State) (ch flt : Nat) (fr : CanFrame) (id : Nat) : State × Option (List Nat) :=
  let c := s.canSt ch
  let b0 := fr.data.getD 0 0
  let q := b0 / 32
  let k := b0 % 32
  let rest := c.fast.filter fun x => !(x.flt = flt && x.id = id)
  let old := c.fast.find? fun x => x.flt = flt && x.id = id
  let done := fun (s : State) (x : FastSt) =>
    if x.total ≤ x.data.length then (s.putCan ch { c with fast := rest }, some (x.data.take x.total))
    else (s.putCan ch { c with fast := x :: rest }, none)
  if k = 0 then
    let s := if old.isSome then s.inc R.CAN_FLT_HIT_SHORT (ch * 64 + flt) else s
    done s ⟨flt, id, q, 1, fr.data.getD 1 0, fr.data.drop 2⟩
  else match old with
    | some x =>
      if x.seq = q && x.next = k then done s { x with next := k + 1, data := x.data ++ fr.data.drop 1 }
      else ((s.putCan ch { c with fast := rest }).inc R.CAN_FLT_HIT_SHORT (ch * 64 + flt), none)
    | none => (s.inc R.CAN_FLT_HIT_SHORT (ch * 64 + flt), none)

/-- The parameter group number of an identifier, as bits [25:8] give it. [Log PRESUMED: 218] -/
def pgnOf (id : Nat) : Nat := id / 256 % 2 ^ 18

/-- One frame of an ISO transport broadcast (R418): an announcement, or a data frame of one announced. The message comes with the
filter that its parameter group matches. [Log PRESUMED: 218] -/
def State.tpTake (s : State) (ch : Nat) (c : CanCfg) (fr : CanFrame) (id : Nat) :
    Option (State × Option (Nat × CanFilter × List Nat)) :=
  let sa := id % 256
  let st := s.canSt ch
  let mine := fun (x : FastSt) => 64 ≤ x.seq && x.id % 256 = sa
  if fr.ide && pgnOf id / 256 = 0xEC && fr.data.getD 0 0 = 0x20 then
    let pg := ofLe ((fr.data.drop 5).take 3)
    let mid := pg * 256 + sa
    match c.filters.find? fun x => decide (x.2.msg = 2) && decide (mid &&& x.2.mask = x.2.id &&& x.2.mask) with
    | some x =>
      let fresh : FastSt := { flt := x.1, id := mid, seq := 64, next := 1, total := ofLe ((fr.data.drop 1).take 2), data := [] }
      some (s.putCan ch { st with fast := fresh :: st.fast.filter fun y => !mine y }, none)
    | none => none
  else if fr.ide && pgnOf id / 256 = 0xEB then
    match st.fast.find? mine with
    | some x =>
      let rest := st.fast.filter fun y => !mine y
      if x.next = fr.data.getD 0 0 then
        let x' := { x with next := x.next + 1, data := x.data ++ fr.data.drop 1 }
        if x'.total ≤ x'.data.length then
          match tfind c.filters x.flt with
          | some f => some (s.putCan ch { st with fast := rest }, some (x.flt, f, x'.data.take x'.total))
          | none => some (s.putCan ch { st with fast := rest }, none)
        else some (s.putCan ch { st with fast := x' :: rest }, none)
      else some ((s.putCan ch { st with fast := rest }).inc R.CAN_FLT_HIT_SHORT (ch * 64 + x.flt), none)
    | none => none
  else none

/-- A stop-band intruder (R416). [Log DEDUCED: 216, 225] -/
def State.canBand (s : State) (ch : Nat) (c : CanCfg) (f : CanFrame) : State :=
  match c.band with
  | none => s
  | some (top, ids) =>
    let base := if f.ide then f.id / 2 ^ 18 else f.id
    if base ≤ top && !(!f.ide && f.id ∈ ids) then
      let s := ((s.set R.CAN_BAND_LAST_ID base ch).incSat R.CAN_BAND_INTRUDERS ch).set R.CAN_STAT_BAND_INTRUDER 1 ch
      (s.evt R.CAN_EVT_BAND ch).alarm 0x1405 ch [(1, ch), (4, f.id)] 1
    else s

/-- A standby's mailbox reads SENT when it receives a frame equal to it (R420). -/
def State.canEcho (s : State) (ch : Nat) (c : CanCfg) (f : CanFrame) : State :=
  if s.canMode ch ≠ 3 then s
  else c.mbs.foldl (fun (s : State) m =>
    let st := s.mbStatus ch m.1
    let d := (s.mbSt ch m.1).data
    if (st = 1 || st = 7) && s.get R.CAN_MB_ID_ID (mbBank ch m.1) = f.id && m.2.ide = f.ide && d = f.data &&
       s.get R.CAN_MB_STAT_DLC (mbBank ch m.1) = f.dlc then s.setMb ch m.1 3 else s) s

/-- REC after a frame received well: one less, or from above 127 a value of 119 to 127 that is open (ISO 11898-1).
[Log DEDUCED: 214] -/
def State.recAfter (s : State) (r : Nat) : Nat := if r ≤ 127 then r - 1 else 119 + Config.fresh 0x411 s.now % 9

/-- CAN_FRAME_RECEIVE (R396, R402 to R406, R416): a valid frame. A remote frame is discarded and counted. In LULL3 a frame is
discarded unless its slot or filter is marked WAKE (R378). [Log DEDUCED: 225] -/
def execCanFrameReceive (dt ch : Nat) (f : CanFrame) (s : State) : Out :=
  let s := s.advance dt
  match s.canCfg ch with
  | none => .next s
  | some c =>
    if !(s.canMode ch = 2 || s.canMode ch = 3) then .next s
    else
      let s := if s.canMode ch = 2 then s.canCount ch c (s.canSt ch).tec (s.recAfter (s.canSt ch).rec_) else s
      let s := (s.inc R.CAN_RX_CNT_FRAMES ch).canBand ch c f
      if f.remote then .next (s.incSat R.CAN_LEC_REMOTE ch)
      else
        let id := match c.n2k with | some n => if f.ide then s.n2kId ch n f.id else f.id | none => f.id
        let sl := firstMatch c.slots f id
        let fl := firstMatch c.filters f id
        let wakes := match sl, fl with | some x, _ => x.2.wake | none, some x => x.2.wake | none, none => false
        if s.pwr.l3 ≠ 0 && !wakes then .next s
        else
          let s := if wakes then s.lullLeave 4 else s
          let s := s.canEcho ch c f
          match sl with
          | some (n, x) => .next ((s.esTake ch n f).canDest ch c x n true f f.data)
          | none =>
            match s.tpTake ch c f id with
            | some (s, some (n, x, d)) => .next ((s.inc R.CAN_FLT_HIT_HITS (ch * 64 + n)).canDest ch c x n false f d)
            | some (s, none) => .next s
            | none =>
              match fl with
              | none => .next (s.inc R.CAN_RX_CNT_UNMATCHED ch)
              | some (n, x) =>
                let s := s.inc R.CAN_FLT_HIT_HITS (ch * 64 + n)
                if x.msg = 1 then
                  match s.fastTake ch n f id with
                  | (s, some d) => .next (s.canDest ch c x n false f d)
                  | (s, none) => .next s
                else .next (s.canDest ch c x n false f f.data)

/-! ### Roll call and the controller's state (R401, R417, R420) -/

/-- A roll call on every channel that has one (R417). [Log PRESUMED: 44] -/
def State.canRoll (s : State) : State :=
  let mark := s.get R.MNF_FRANK_HI_MARK_HI * 2 ^ 32 + s.get R.MNF_FRANK_LO_MARK_LO
  s.man.can.foldl (fun (s : State) x =>
    match x.2.roll with
    | some mb => s.mbQueue x.1 mb (leBytes 2 s.mnf.rollSeq ++ beBytes 8 mark ++ [0, 0]) false
    | none => s) s

/-- Trunk bring-up (R401): configured channels leave OFF and integrate, with STB low; a listening channel of a device that is
active by now joins in normal operation. -/
def State.canUp (s : State) : State :=
  s.man.can.foldl (fun (s : State) x =>
    if s.flag R.DEV_STAT_DRIVES_NOTHING then s
    else if s.canMode x.1 = 0 then (s.set R.CAN_STAT_MODE 1 x.1).set R.CAN_STAT_STB 0 x.1
    else if s.canMode x.1 = 3 && s.isActive then s.set R.CAN_STAT_MODE 2 x.1
    else s) s

/-- CAN_BUS_INTEGRATION_DONE (R396, R401): 11 recessive bits; the active joins in normal operation, any other device listens. -/
def execCanBusIntegrationDone (dt ch : Nat) (s : State) : Out :=
  let s := s.advance dt
  if s.canMode ch ≠ 1 then .next s
  else .next (s.set R.CAN_STAT_MODE (if s.flag R.DEV_STAT_DRIVES_NOTHING then 0 else if s.isActive then 2 else 3) ch)

/-- Takeover (R420, 0x140C): listening channels go to normal; what still waits arbitrates. -/
def State.canTakeover (s : State) : State :=
  s.man.can.foldl (fun (s : State) x =>
    if s.canMode x.1 ≠ 3 then s
    else
      let mask := (x.2.mbs.map fun m => if s.mbStatus x.1 m.1 = 1 || s.mbStatus x.1 m.1 = 7 then 2 ^ m.1 else 0).sum
      (s.set R.CAN_STAT_MODE 2 x.1).record { code := 0x140C, source := x.1, items := [(1, x.1), (4, mask)] }) s

/-- The registers of a channel from the TRUNKS section. -/
def State.canConfigure (s : State) : State :=
  s.man.can.foldl (fun (s : State) x =>
    let ch := x.1
    let c := x.2
    let s := ((s.set R.CAN_NBT_NBRP (c.nbrp - 1) ch).set R.CAN_NBT_NTSEG1 (c.ntseg1 - 1) ch).set R.CAN_NBT_NTSEG2 (c.ntseg2 - 1) ch
    let s := ((s.set R.CAN_NBT_NSJW (c.nsjw - 1) ch).setB R.CAN_NBT_TRIPLE c.triple ch).set R.CAN_DBT_DBRP (c.dbrp - 1) ch
    let s := ((s.set R.CAN_DBT_DTSEG1 (c.dtseg1 - 1) ch).set R.CAN_DBT_DTSEG2 (c.dtseg2 - 1) ch).set R.CAN_DBT_DSJW (c.dsjw - 1) ch
    let fast := decide (80 < 80000000 / (c.dbrp * (1 + c.dtseg1 + c.dtseg2)) / 12500)
    let s := ((s.setB R.CAN_TDC_TDC_EN (c.format = 2 && fast) ch).set R.CAN_TDC_TDCO c.tdco ch).set R.CAN_STAT_FORMAT c.format ch
    let s := ((s.setB R.CAN_STAT_N2K c.n2k.isSome ch).set R.CAN_SQ_HOLD_PCT c.sqHold ch).set R.CAN_SQ_RELEASE_PCT c.sqRelease ch
    let s := match c.band with | some (t, _) => (s.set R.CAN_BAND_TOP t ch).set R.CAN_BAND_ENABLED 1 ch | none => s
    let s := c.mbs.foldl (fun (s : State) m =>
      let b := mbBank ch m.1
      let s := ((s.set R.CAN_MB_ID_ID m.2.id b).setB R.CAN_MB_ID_IDE m.2.ide b).setB R.CAN_MB_ID_FDF m.2.fdf b
      let s := ((s.setB R.CAN_MB_ID_BRS m.2.brs b).setB R.CAN_MB_STAT_ONESHOT m.2.oneshot b).setB R.CAN_MB_STAT_URGENT m.2.urgent b
      s.set R.CAN_MB_STAT_OWNER m.2.owner b) s
    let s := c.filters.foldl (fun (s : State) f =>
      let b := ch * 64 + f.1
      let s := ((s.set R.CAN_FLT_CFG_DEST f.2.dest b).setB R.CAN_FLT_CFG_IDE f.2.ide b).set R.CAN_FLT_CFG_KIND f.2.kind b
      let s := ((s.setB R.CAN_FLT_CFG_WAKE f.2.wake b).set R.CAN_FLT_CFG_ENABLED 1 b).set R.CAN_FLT_CFG_PIGEONHOLE f.2.pigeonhole b
      ((s.set R.CAN_FLT_CFG_LAYOUT f.2.layout b).set R.CAN_FLT_ID_ID f.2.id b).set R.CAN_FLT_MASK_MASK f.2.mask b) s
    c.slots.foldl (fun (s : State) f =>
      let b := esBank ch f.1
      let s := ((s.set R.CAN_ES_CFG_ID f.2.id b).setB R.CAN_ES_CFG_IDE f.2.ide b).set R.CAN_ES_CFG_ENABLED 1 b
      (s.setB R.CAN_ES_CFG_WAKE f.2.wake b).set R.CAN_ES_MASK_MASK f.2.mask b) s) s

end Sys2Proof.Machine
end

