-- ==== Sys2Proof/Machine/Eth.lean ====
section
/-!
DEFINITION. The Ethernet ports (R423 to R435): queues, gate lists, reception, PRP, squall guard and link state; fleet dispatch (R436);
and the work record (R437, R438).
-/

namespace Sys2Proof.Machine

open Sys2Proof

def State.ethSt (s : State) (p : Nat) : EthSt := tget s.eth p {}
def State.putEth (s : State) (p : Nat) (e : EthSt) : State := { s with eth := tput s.eth p e }
def State.ethCfg (s : State) (p : Nat) : Option EthCfg := tfind s.man.eth p

/-- The port whose trunk a port carries: the lower one of its PRP pair (R432). [Log DEDUCED: 235] -/
def State.ethLead (s : State) (p : Nat) : Nat :=
  match s.ethCfg (p - 1) with
  | some c => if p % 2 = 1 && c.prp then p - 1 else p
  | none => p

/-- A port and, where it is the lower one of a pair, its partner. -/
def State.ethPorts (s : State) (p : Nat) : List Nat :=
  match s.ethCfg p with
  | some c => if c.prp then [p, p + 1] else [p]
  | none => []

/-- The port is the higher one of a pair. [Log DEDUCED: 235] -/
def State.ethSecond (s : State) (p : Nat) : Bool := s.ethLead p ≠ p

/-! ### Gate lists (R430) -/

/-- The entry in force `t` ns into the cycle: its number, what is left of it in ns, and the entries that follow, the list from its
start appended. [Log DEDUCED: 232] -/
def gateWalk : List (Nat × Nat) → Nat → Nat → Nat × Nat × List (Nat × Nat)
  | [], _, n => (n, 0, [])
  | g :: rest, t, n => if t < g.2 then (n, g.2 - t, g :: rest) else gateWalk rest (t - g.2) (n + 1)

/-- Where device time stands in a gate list. The cycle starts at each whole second. [Log DEDUCED: 232] -/
def State.gateNow (s : State) (c : EthCfg) : Nat × Nat × List (Nat × Nat) :=
  let cycle := (c.gates.map (·.2)).sum
  gateWalk c.gates (if cycle = 0 then 0 else s.ns % 1000000000 % cycle) 0

/-- How long a queue's gate stays open through these entries. -/
def openRun (q : Nat) : List (Nat × Nat) → Nat
  | [] => 0
  | g :: rest => if g.1.testBit q then g.2 + openRun q rest else 0

/-- A queue's gate: none where it is closed, otherwise how long it stays open in ns, or for ever. -/
def State.gateOf (s : State) (p q : Nat) : Option (Option Nat) :=
  match s.ethCfg p with
  | none => none
  | some c =>
    if s.flag R.ETH_STAT_SQUALL p && q ≤ 5 then none
    else if c.gates = [] || c.gates.all (fun g => g.1.testBit q) then some none
    else
      let g := s.gateNow c
      match g.2.2 with
      | [] => some none
      | e :: rest => if e.1.testBit q then some (some (g.2.1 + openRun q (rest ++ c.gates))) else none

/-- Mbit/s of a SPEED code. [Log DEDUCED: 233] -/
def ethRate (speed : Nat) : Nat := match speed with | 1 => 10 | 2 => 100 | 3 => 1000 | _ => 0

/-- A transmission with preamble and gap in ns. [Log DEDUCED: 233] -/
def ethTime (len speed : Nat) : Nat := (len + 20) * 8000 / ethRate speed

/-- One queue is considered: its head starts where nothing is in transmission and it ends before its gate closes; a head held at a
closing gate is counted once for the wait. [Log DEDUCED: 232] -/
def State.ethTry (s : State) (p q : Nat) : State :=
  let e := s.ethSt p
  match e.cur, e.queues.find? (fun f => f.queue = q), s.gateOf p q with
  | none, some f, some left =>
    let fits := match left with | some l => decide (ethTime f.len (s.get R.ETH_STAT_SPEED p) ≤ l) | none => true
    if fits then s.putEth p { e with cur := some f, queues := e.queues.erase f }
    else if f.held then s
    else
      let qs := e.queues.map fun x => if x = f then { x with held := true } else x
      (s.putEth p { e with queues := qs }).inc R.ETH_TX_CNT_GUARD_HOLDS p
  | _, _, _ => s

/-- The next frame of a port: the highest open queue first (R430). Nothing starts with the link down or the port in FAULT; a port
that is not transmitting sends peer-delay messages alone (R435). [Log DEDUCED: 232, 242] -/
def State.ethNext (s : State) (p : Nat) : State :=
  if !s.flag R.ETH_STAT_LINK p || s.flag R.ETH_STAT_FAULT p then s
  else (if s.flag R.ETH_STAT_TX_ON p then [7, 6, 5, 4, 3, 2, 1, 0] else [7]).foldl (fun (s : State) q => s.ethTry p q) s

/-! ### Sending (R427 to R429, R432, R434) -/

/-- A device frame enters a queue of one port; a port that is not transmitting computes it and sends nothing (R435).
[Log DEDUCED: 242] -/
def State.ethPut (s : State) (p : Nat) (f : EthOut) : State :=
  if s.flag R.ETH_STAT_TX_ON p || (f.kind = 0 && (s.ethSt p).up) then
    let e := s.ethSt p
    (s.putEth p { e with queues := e.queues ++ [f] }).ethNext p
  else s

/-- A device frame goes out on some trunks (R427, R429): SEQ counts per KIND. It is 14 bytes of header, the tag where the port has a
VLAN, 8 bytes of payload header, the body, CHECK and FCS, and a PRP trailer on a pair. [Log DEDUCED: 234; DESIGN CHOICE: 240] -/
def State.ethSend (s : State) (ports : List Nat) (kind queue : Nat) (body : List Nat) : State :=
  let q := (tget s.ethSeq kind 0 + 1) % 65536
  let s : State := { s with ethSeq := tput s.ethSeq kind q }
  ports.foldl (fun (s : State) p =>
    match s.ethCfg p with
    | none => s
    | some c =>
      let len := max 64 (14 + (if c.vlan = 0 then 0 else 4) + 8 + body.length + 4 + 4 + (if c.prp then 6 else 0))
      let ps := ((s.ethSt p).prpSeq + 1) % 65536
      let s := if c.prp then s.putEth p { s.ethSt p with prpSeq := ps } else s
      (s.ethPorts p).foldl (fun (s : State) x =>
        s.ethPut x { queue := queue, len := len, kind := kind, seq := q, prp := if c.prp then some ps else none, body := body }) s) s

/-- A cyclic frame with the points as they stand (R428, R429). [Log DEDUCED: 234] -/
def State.ethCyclic (s : State) (p : Nat) (t : EthTx) : State :=
  s.ethSend [p] 1 (if t.urgent || t.drive then 6 else 5) ([t.layout, 0, 0, 0] ++ (s.layoutOut t.fields t.len).drop 4)

/-- ON_WRITE frames whose points a commit wrote (R408, R429). -/
def State.ethOnWrite (s : State) (addrs : List Nat) : State :=
  s.man.eth.foldl (fun (s : State) x =>
    if s.ethSecond x.1 then s
    else x.2.txs.foldl (fun (s : State) t =>
      if t.2.periodUs.isNone && layoutTouched t.2.fields addrs && s.cyclicRuns t.2.drive t.2.node then s.ethCyclic x.1 t.2 else s) s) s

/-- ETH_PERIODIC_TRANSMIT (R429). -/
def execEthPeriodicTransmit (dt port tx : Nat) (s : State) : Out :=
  let s := s.advance dt
  match s.ethCfg port with
  | none => .next s
  | some c =>
    match tfind c.txs tx with
    | some t => if t.periodUs.isSome && s.cyclicRuns t.drive t.node && !s.ethSecond port then .next (s.ethCyclic port t) else .next s
    | none => .next s

/-- A roll call on every port or pair that has one (R434). [Log PRESUMED: 44] -/
def State.ethRoll (s : State) : State :=
  let mark := s.get R.MNF_FRANK_HI_MARK_HI * 2 ^ 32 + s.get R.MNF_FRANK_LO_MARK_LO
  s.man.eth.foldl (fun (s : State) x =>
    if x.2.roll && !s.ethSecond x.1 then s.ethSend [x.1] 2 6 (leBytes 2 s.mnf.rollSeq ++ beBytes 8 mark) else s) s

/-- GATE_LIST_ENTRY (R430): the entry that device time has reached; a held frame whose gate has closed waits for the next opening. -/
def execGateListEntry (dt port : Nat) (s : State) : Out :=
  let s := s.advance dt
  match s.ethCfg port with
  | none => .next s
  | some c =>
    if c.gates = [] then .next s
    else
      let s := s.set R.ETH_GCL_CURRENT (s.gateNow c).1 port
      let e := s.ethSt port
      let qs := e.queues.map fun x => if (s.gateOf port x.queue).isNone then { x with held := false } else x
      .next ((s.putEth port { e with queues := qs }).ethNext port)

/-- ETH_FRAME_TRANSMIT_DONE (R430). [Log DEDUCED: 233] -/
def execEthFrameTransmitDone (dt port : Nat) (s : State) : Out :=
  let s := s.advance dt
  match (s.ethSt port).cur with
  | none => .next s
  | some f =>
    let s := (s.putEth port { s.ethSt port with cur := none }).inc R.ETH_TX_CNT_FRAMES port
    .next ((s.inc R.ETH_Q_STAT_SENT (port * 8 + f.queue)).ethNext port)

/-- The single step of R101 (R430): the list restarts at the entry in force at the new time. -/
def State.ethRephase (s : State) : State :=
  s.man.eth.foldl (fun (s : State) x =>
    if x.2.gates = [] || !(s.ethSt x.1).up then s
    else
      let n := (s.gateNow x.2).1
      let s := ((s.set R.ETH_GCL_CURRENT n x.1).set R.ETH_GCL_REPHASED 1 x.1).ethNext x.1
      s.record { code := 0x1504, source := x.1, items := [(1, x.1), (1, n)] }) s

/-! ### Link state (R424) -/

/-- Link state and speed as a PHY or in-band negotiation reports them; 0x1501. A link that goes down empties no queue. -/
def State.ethLink (s : State) (p : Nat) (link : Bool) (speed : Nat) : State :=
  let speed := if link then speed else 0
  if link = s.flag R.ETH_STAT_LINK p && speed = s.get R.ETH_STAT_SPEED p then s
  else
    let s := ((s.setB R.ETH_STAT_LINK link p).set R.ETH_STAT_SPEED speed p).evt R.ETH_EVT_LINK p
    (s.record { code := 0x1501, source := p, items := [(1, p), (1, speed)] }).ethNext p

/-- The port is powered and has this interface. -/
def State.ethIs (s : State) (p iface : Nat) : Bool :=
  match s.ethCfg p with | some c => c.iface = iface && (s.ethSt p).up | none => false

/-- PHY_STATUS_POLL (R424): every 10 ms, on an RGMII port whose script is in place. -/
def execPhyStatusPoll (dt port : Nat) (link : Bool) (speed : Nat) (s : State) : Out :=
  let s := s.advance dt
  if s.ethIs port 1 && !s.flag R.ETH_STAT_FAULT port then .next (s.ethLink port link speed) else .next s

/-- SGMII_LINK_CHANGE (R424). -/
def execSgmiiLinkChange (dt port : Nat) (link : Bool) (speed : Nat) (s : State) : Out :=
  let s := s.advance dt
  if s.ethIs port 2 then .next (s.ethLink port link speed) else .next s

/-- PHY_SCRIPT_RETRY (R424): the script is written and read back, at bring-up and every 10 s of a FAULT. [Log DEDUCED: 227, 236] -/
def execPhyScriptRetry (dt port : Nat) (ok : Bool) (reg : Nat) (s : State) : Out :=
  let s := s.advance dt
  if !s.ethIs port 1 then .next s
  else
    let was := s.flag R.ETH_STAT_FAULT port
    let e : Ev := { code := 0x1502, source := port, items := [(1, port), (2, reg)] }
    if ok then .next (if was then ((s.set R.ETH_STAT_FAULT 0 port).record e).ethNext port else s)
    else if was then .next s
    else .next (((s.set R.ETH_STAT_FAULT 1 port).evt R.ETH_EVT_FAULT port).record e)

/-! ### Squall guard (R431) -/

/-- The duration of a port's hold as 0x1503 notes it. [Log DEDUCED: 236] -/
def State.holdItem (s : State) (p : Nat) : Nat × Nat :=
  measItem 0x1503 (match (s.ethSt p).holdAt with | some t => ((s.now - t : Nat) : Rat) / 1000000000 | none => 0)

/-- ETH_SQUALL_UPDATE (R431): every 1 ms the busy fraction of the last ms enters the load of the last 10 ms. -/
def execEthSquallUpdate (dt port : Nat) (busy : Rat) (s : State) : Out :=
  let s := s.advance dt
  match s.ethCfg port with
  | none => .next s
  | some c =>
    if s.tick % 100 ≠ 0 then .next s
    else
      let loads := (busy :: (s.ethSt port).loads).take 10
      let load := loads.sum / 10
      let s := (s.putEth port { s.ethSt port with loads := loads }).setU R.ETH_LOAD_LOAD_PM (load * 1000) port
      let pm := s.get R.ETH_LOAD_LOAD_PM port
      let s := s.set R.ETH_LOAD_PEAK_PM (max pm (s.get R.ETH_LOAD_PEAK_PM port)) port
      let held := s.flag R.ETH_STAT_SQUALL port
      if !held && (c.sqHold : Rat) / 100 ≤ load then
        let s := ((s.set R.ETH_STAT_SQUALL 1 port).incSat R.ETH_SQ_HOLDS port).evt R.ETH_EVT_SQUALL port
        .next (s.putEth port { s.ethSt port with holdAt := some s.now })
      else if held && load ≤ (c.sqRelease : Rat) / 100 then
        let was := (s.ethSt port).squallAlarm
        let s := s.set R.ETH_STAT_SQUALL 0 port
        let s := if was then s.clearAlarm 0x1503 port [(1, port), (2, pm), s.holdItem port] 1 else s
        .next ((s.putEth port { s.ethSt port with holdAt := none, squallAlarm := false }).ethNext port)
      else .next s

/-- ETH_SQUALL_ALARM (R431): a hold of 1 s raises ETH-SQUALL. -/
def execEthSquallAlarm (dt port : Nat) (s : State) : Out :=
  let s := s.advance dt
  match (s.ethSt port).holdAt with
  | some t =>
    if t + 1000000000 ≤ s.now && !(s.ethSt port).squallAlarm then
      .next ((s.putEth port { s.ethSt port with squallAlarm := true }).alarm 0x1503 port
        [(1, port), (2, s.get R.ETH_LOAD_LOAD_PM port), s.holdItem port] 1)
    else .next s
  | none => .next s

/-! ### Reception (R426 to R428, R434) -/

/-- BC_LIMIT (R426 stage 2): broadcast frames and frames of an address not joined, above the limit in a second.
[Log DEDUCED: 229] -/
def State.ethBc (s : State) (p : Nat) (c : EthCfg) (f : EthFrame) : State × Bool :=
  if !(f.dst = .broadcast || f.dst = .multicast) || c.bcLimit = 0 then (s, true)
  else
    let e := s.ethSt p
    let sec := s.now / 1000000000
    let n := if e.bcSec = sec then e.bcCount else 0
    if n < c.bcLimit then (s.putEth p { e with bcSec := sec, bcCount := n + 1 }, true) else (s.incSat R.ETH_SQ_BC_DROPS p, false)

/-- PRP (R432): the first copy within 128 sequences and 400 ms is taken. A wrong trailer is taken and counted.
[Log DEDUCED: 235, 236] -/
def State.ethPrp (s : State) (p lead : Nat) (c : EthCfg) (f : EthFrame) : State × Bool :=
  match f.prp with
  | none => (s, true)
  | some (seq, lan, size) =>
    if !c.prp then (s, true)
    else if !(lan && size) then
      let s := (s.inc R.ETH_PRP_WRONG_LAN p).evt R.ETH_EVT_PRP_LAN p
      (s.record { code := 0x1505, source := lead, items := [(1, lead / 2), (6, f.src)], key := 2 }, true)
    else
      let seen := ((s.ethSt lead).seen.filter fun x => s.now ≤ x.2.2 + 400000000)
      let dup := seen.any fun x => x.1 = f.src && x.2.1 = seq
      if dup then ((s.putEth lead { s.ethSt lead with seen := seen }).inc R.ETH_PRP_DUPLICATES p, false)
      else
        let mine := (seen.filter fun x => x.1 = f.src && decide ((seq + 65536 - x.2.1) % 65536 < 128))
        let rest := seen.filter fun x => decide (x.1 ≠ f.src)
        (s.putEth lead { s.ethSt lead with seen := (f.src, seq, s.now) :: (mine ++ rest) }, true)

/-- A filter matches (R426 stage 5): source MAC, KIND and, for a CYCLIC frame, LAYOUT. [Log DEDUCED: 228] -/
def ethMatch (x : EthFilter) (f : EthFrame) : Bool :=
  decide (f.src &&& x.srcMask = x.src &&& x.srcMask) && decide (f.kind &&& x.kindMask = x.kind &&& x.kindMask) &&
    (f.kind ≠ 1 || decide (f.body.getD 0 0 &&& x.layoutMask = x.layout &&& x.layoutMask))

/-- A roll-call reply (R434): the sequence, the mark and the address; from the bound MAC only. -/
def State.ethReply (s : State) (lead : Nat) (f : EthFrame) : State :=
  if f.kind ≠ 3 || f.body.length ≠ 12 then s
  else
    let addr := ofLe ((f.body.drop 10).take 2)
    match firstBad (fun (c : NodeCfg) => !(c.addr = addr && c.addr / 4096 = lead + 1 && c.mac = f.src)) s.man.nodes 0 with
    | some i => s.rollReply i (ofBe ((f.body.drop 2).take 8)) (ofLe (f.body.take 2))
    | none => s.record { code := 0x1506, source := lead, items := [(1, lead), (6, f.src), (2, addr)] }

/-- A frame goes to its destination; on a standby inputs come from the active's records instead (R357, R435). [Log DEDUCED: 228] -/
def State.ethDest (s : State) (p lead : Nat) (c : EthCfg) (n : Nat) (x : EthFilter) (f : EthFrame) : State :=
  match x.dest with
  | 1 =>
    let l := tget c.layouts (if f.kind = 1 then f.body.getD 0 0 else x.layout) []
    if f.body.length < layoutLen l then s.incSat R.ETH_ERR_CNT_SHORT p else if s.follows then s else s.layoutIn l f.body f.pm
  | 2 =>
    if s.follows then s
    else s.frameEnv x.pigeonhole ((lead + 1) * 2 ^ 28 + n) (beBytes 6 f.src ++ leBytes 2 f.body.length ++ f.body) f.pm
  | 3 => if s.follows then s else s.ethReply lead f
  | _ => s

/-- Stages 5 and 6 of R426. [Log DEDUCED: 228, 230] -/
def State.ethFilter (s : State) (p lead : Nat) (c : EthCfg) (f : EthFrame) : State :=
  if f.version ≠ 1 || !f.lenOk || !f.checkOk then s.incSat R.ETH_ERR_CNT_BAD_PAYLOAD p
  else match c.filters.find? (fun x => ethMatch x.2 f) with
    | none => s.inc R.ETH_RX_CNT_UNMATCHED p
    | some (n, x) =>
      if s.pwr.l3 ≠ 0 && !x.wake then s
      else
        let s := if x.wake then s.lullLeave 5 else s
        ((s.inc R.ETH_RX_CNT_FRAMES p).inc R.ETH_FLT_HIT_HITS (lead * 32 + n)).ethDest p lead c n x f

/-- ETH_FRAME_RECEIVE (R426): the stages in order. [Log DEDUCED: 230, 231] -/
def execEthFrameReceive (dt port : Nat) (f : EthFrame) (s : State) : Out :=
  let s := s.advance dt
  let lead := s.ethLead port
  match s.ethCfg port, s.ethCfg lead with
  | some pc, some c =>
    if !(s.ethSt port).up || !s.flag R.ETH_STAT_LINK port then .next s
    else if !f.fcsOk then .next (s.incSat R.ETH_ERR_CNT_FCS port)
    else if f.len < 64 || 1522 < f.len then .next (s.incSat R.ETH_ERR_CNT_LENGTH port)
    else
      let b := s.ethBc port pc f
      let r := if b.2 then b.1.ethPrp port lead c f else b
      if !r.2 then .next r.1
      else if f.dst = .unicast || f.dst = .broadcast || f.dst = .multicast then .next (r.1.inc R.ETH_RX_CNT_UNMATCHED port)
      else match f.type with
        | .ptp => .next (r.1.inc R.ETH_RX_CNT_FRAMES port)
        | .other => .next (r.1.inc R.ETH_RX_CNT_UNMATCHED port)
        | .device => .next (r.1.ethFilter port lead c f)
  | _, _ => .next s

/-! ### Bring-up, takeover and configuration (R424, R435) -/

/-- Trunk bring-up: configured ports are powered; the active transmits. [Log DEDUCED: 237] -/
def State.ethUp (s : State) : State :=
  s.man.eth.foldl (fun (s : State) x =>
    if (s.ethSt x.1).up then s
    else (s.putEth x.1 { s.ethSt x.1 with up := true }).setB R.ETH_STAT_TX_ON (s.isActive && !s.flag R.DEV_STAT_DRIVES_NOTHING) x.1) s

/-- Takeover (R435): the ports begin transmitting. [Log DEDUCED: 237] -/
def State.ethTakeover (s : State) : State :=
  s.man.eth.foldl (fun (s : State) x => if (s.ethSt x.1).up then (s.set R.ETH_STAT_TX_ON 1 x.1).ethNext x.1 else s) s

/-- The registers of the ports from the TRUNKS section. -/
def State.ethConfigure (s : State) : State :=
  let s := s.setB R.ETH_WR_STAT_POLICY s.man.work.hold
  s.man.eth.foldl (fun (s : State) x =>
    let p := x.1
    let c := x.2
    let s := ((s.set R.ETH_STAT_IFACE c.iface p).setB R.ETH_STAT_PRP (c.prp || s.ethSecond p) p).set R.ETH_STAT_VLAN_ID c.vlan p
    let s := ((s.set R.ETH_SQ_HOLD_PCT c.sqHold p).set R.ETH_SQ_RELEASE_PCT c.sqRelease p).set R.ETH_GCL_ENTRIES c.gates.length p
    let s := (s.set R.ETH_TS_LAT_TX_NS c.txLat p).set R.ETH_TS_LAT_RX_NS c.rxLat p
    c.filters.foldl (fun (s : State) f =>
      let b := p * 32 + f.1
      let s := ((s.set R.ETH_FLT_CFG_DEST f.2.dest b).set R.ETH_FLT_CFG_ENABLED 1 b).setB R.ETH_FLT_CFG_WAKE f.2.wake b
      ((s.set R.ETH_FLT_CFG_PIGEONHOLE f.2.pigeonhole b).set R.ETH_FLT_CFG_KIND f.2.kind b).set R.ETH_FLT_CFG_LAYOUT f.2.layout b) s) s

/-! ### Fleet dispatch (R436) -/

/-- Fleet dispatch and the work record run in READY, STATION and PASSAGE, outside LULL3, while class D is not shed.
[Log DEDUCED: 238] -/
def State.classDRuns (s : State) : Bool := 2 ≤ s.mode && s.mode ≤ 4 && s.pwr.l3 = 0 && !s.flag R.PWR_FC_STAT_SHED_D

/-- Latitude, longitude and heading (0.001°) of the vessel as the outputs give them. -/
def State.fixWords (s : State) : Nat × Nat × Nat :=
  let p := s.est.outPos.getD (0, 0)
  ((Config.value 0x0C000000 [p.1, p.2]).floor.toNat % 2 ^ 64, (Config.value 0x0C000001 [p.1, p.2]).floor.toNat % 2 ^ 64,
    (shownAt 0x436 ((s.est.outHdg.getD 0) * 1000)).toNat % 2 ^ 32)

/-- The 54 bytes of a report. [Log DEDUCED: 234] -/
def State.dispBody (s : State) : List Nat :=
  let fix := s.fixWords
  let u := s.est.nu.getD 0 0
  let v := s.est.nu.getD 1 0
  let speed := (shownAt 0x437 (Config.sqrt (u * u + v * v) * 1000)).toNat
  let b := fun (x : Bool) (n : Nat) => if x then n else 0
  let flags := b s.work.dispGap 1 + b (!s.stepped) 2 + b (s.flag R.ALLOC_STAT_CONS_ALARM) 4 + b (s.flag R.EST_STAT_DISPUTE) 8 +
    b (!s.isPaired) 16
  let unack := min 65535 (s.alarms.filter fun a => a.2.st = 1).length
  let mark := s.get R.MNF_FRANK_HI_MARK_HI * 2 ^ 32 + s.get R.MNF_FRANK_LO_MARK_LO
  leBytes 8 s.pm.sec ++ leBytes 4 s.pm.ns ++ leBytes 2 (s.get R.TIME_UTC_UTC_OFS) ++ [s.mode, s.get R.HELM_STAT_LAW] ++
    leBytes 8 fix.1 ++ leBytes 8 fix.2.1 ++ leBytes 4 fix.2.2 ++ leBytes 4 speed ++
    [s.get R.EST_STAT_POS_QUAL, s.get R.EST_STAT_HDG_QUAL] ++ leBytes 2 flags ++ leBytes 2 unack ++ beBytes 8 mark

/-- DISPATCH_REPORT (R436): at the whole TAI second; the first report after a gap says so. [Log DEDUCED: 238] -/
def execDispatchReport (dt : Nat) (s : State) : Out :=
  let s := s.advance dt
  if s.man.disp.ports = [] then .next s
  else if !s.classDRuns then .next { s with work := { s.work with dispGap := s.work.dispGap || s.work.dispSent } }
  else
    let s := s.ethSend s.man.disp.ports 4 1 s.dispBody
    let s : State := { s with work := { s.work with dispGap := false, dispSent := true } }
    .next (s.set R.ETH_DISP_STAT_SEQ (tget s.ethSeq 4 0))

/-! ### Work record (R437, R438) -/

/-- Bytes of a record. -/
def State.workRec (s : State) : Nat := 40 + 8 * s.man.work.channels.length

/-- The ring index of a TILE_SEQ. [Log DEDUCED: 239] -/
def State.tileIdx (s : State) (seq : Nat) : Nat := (seq - 1) % max 1 s.man.work.tiles

/-- The open tile. [Log DEDUCED: 239] -/
def State.openTile (s : State) : Option Tile :=
  match tfind s.work.tiles (s.tileIdx s.work.last) with
  | some t => if t.seq = s.work.last && !t.sealed_ then some t else none
  | none => none

/-- A tile is sealed: it is the newest sealed one. [Log DEDUCED: 239] -/
def State.sealTile (s : State) (t : Tile) : State :=
  { s with work := { s.work with tiles := tput s.work.tiles (s.tileIdx t.seq) { t with sealed_ := true }, head := t.seq } }

/-- The bytes of a sample (R437). -/
def State.workBytes (s : State) : List Nat :=
  let fix := s.fixWords
  let qs := s.man.work.channels.map fun i => s.ptQuality i
  let bad := (qs.zipIdx.map fun x => if x.1 = .good then 0 else 2 ^ x.2).sum
  let flags := s.get R.EST_STAT_POS_QUAL + (if s.work.gap then 16 else 0) + (if s.stepped then 0 else 32)
  leBytes 8 s.pm.sec ++ leBytes 4 s.pm.ns ++ leBytes 4 fix.2.2 ++ leBytes 8 fix.1 ++ leBytes 8 fix.2.1 ++ leBytes 4 flags ++
    leBytes 4 bad ++ s.man.work.channels.flatMap fun i => leBytes 8 (s.pt i).value

/-- The sample enters a tile, which is sealed when no further record would fit. [Log DEDUCED: 239] -/
def State.workAdd (s : State) (t : Tile) : State :=
  let t := { t with recs := t.recs ++ [s.workBytes] }
  let w := { s.work with tiles := tput s.work.tiles (s.tileIdx t.seq) t, gap := false, begun := true }
  let s : State := { s with work := w }
  if 65536 < 64 + (t.recs.length + 1) * s.workRec then s.sealTile t else s

/-- The tile that a new TILE_SEQ would reuse is a sealed one not exported. -/
def State.workTaken (s : State) : Bool :=
  match tfind s.work.tiles (s.tileIdx (s.work.last + 1)) with | some t => s.work.ack < t.seq | none => false

/-- WORK_RECORD_SAMPLE (R437, R438): into the open tile, or a new one as WR_POLICY allows. [Log DEDUCED: 238] -/
def execWorkRecordSample (dt : Nat) (s : State) : Out :=
  let s := s.advance dt
  if s.man.work.channels = [] then .next s
  else if !s.classDRuns then .next { s with work := { s.work with gap := s.work.gap || s.work.begun } }
  else
    let s : State := if s.work.musterSec.isSome then s
      else { s with work := { s.work with musterSec := some ((s.ns - (s.now - s.mus.at_)) / 1000000000) } }
    match s.openTile with
    | some t => .next (s.workAdd t)
    | none =>
      let seq := s.work.last + 1
      let e : Ev := { code := 0x1507, items := [(1, if s.man.work.hold then 1 else 0), (8, seq)], key := 1 }
      if s.workTaken && s.man.work.hold then
        let s : State := { s with work := { s.work with gap := true } }
        .next (if s.flag R.ETH_WR_STAT_FULL then s else (s.set R.ETH_WR_STAT_FULL 1).record e)
      else
        let s := if s.workTaken then (s.inc R.ETH_WR_STAT_LOST).record e else s
        let s : State := { s.set R.ETH_WR_STAT_FULL 0 with work := { s.work with last := seq } }
        .next (s.workAdd { seq := seq, firstAt := s.now })

/-- WORK_RECORD_TILE_SEAL (R437): WR_SEAL_T after the first record. [Log DEDUCED: 239] -/
def execWorkRecordTileSeal (dt : Nat) (s : State) : Out :=
  let s := s.advance dt
  match s.openTile with
  | some t => if t.firstAt + s.man.work.sealS * 1000000000 ≤ s.now then .next (s.sealTile t) else .next s
  | none => .next s

/-- ETH_WR_ACK_WRITE (R438, R442): a write of _HI applies both words; a held record may resume. [Log DEDUCED: 264] -/
def execEthWrAckWrite (dt : Nat) (_port : Port) (v : Nat) (s : State) : Out :=
  let s := s.advance dt
  let ack := v % 2 ^ 32 * 2 ^ 32 + s.get R.ETH_WR_ACK_LO_SEQ
  let s : State := { s.set R.ETH_WR_ACK_HI_SEQ v with work := { s.work with ack := ack } }
  .next (if s.workTaken then s else s.set R.ETH_WR_STAT_FULL 0)

/-- ETH_WR_HEAD_LO_READ (R442): the read latches _HI. -/
def execEthWrHeadLoRead (dt : Nat) (port : Port) (s : State) : Out :=
  let s := s.advance dt
  let s : State := { s with work := { s.work with latchHi := s.work.head / 2 ^ 32 } }
  .next (s.readBack port (s.work.head % 2 ^ 32))

/-- The 64 KiB of a tile (R437): its header, its records, and zeros. -/
def State.tileBytes (s : State) (t : Tile) : List Nat :=
  let mark := s.get R.MNF_FRANK_HI_MARK_HI * 2 ^ 32 + s.get R.MNF_FRANK_LO_MARK_LO
  leBytes 8 t.seq ++ beBytes 8 mark ++ leBytes 8 (s.work.musterSec.getD 0) ++ leBytes 2 s.workRec ++ leBytes 4 t.recs.length ++
    [if t.sealed_ then 1 else 0] ++ List.replicate 33 0 ++ t.recs.flatten

/-- A word of the tile window (R438, R442). -/
def State.wrWin (s : State) (i : Nat) : Nat :=
  match tfind s.work.tiles (s.get R.ETH_WR_OFS_TILE) with
  | some t => ofLe (((s.tileBytes t).drop (s.get R.ETH_WR_OFS_BLOCK * 256 + 4 * i)).take 4)
  | none => 0

end Sys2Proof.Machine
end

