-- ==== Sys2Proof/Machine/Island.lean ====
section
/-!
DEFINITION. The safety island (R327 to R352): safe inputs, axes and their limits, output demands, test pulses and readback,
lock-out and reset, check value and commissioning, and the mailbox of the main die.
-/

namespace Sys2Proof.Machine

open Sys2Proof

/-! ### The parts of the island -/

def State.islIn (s : State) (n : Nat) : SafeInSt := tget s.isl.ins n {}
def State.islOut (s : State) (n : Nat) : SafeOutSt := tget s.isl.outs n {}
def State.islAx (s : State) (n : Nat) : AxisSt := tget s.isl.axes n {}

def State.putIslOut (s : State) (n : Nat) (o : SafeOutSt) : State := { s with isl := { s.isl with outs := tput s.isl.outs n o } }
def State.putIslAx (s : State) (n : Nat) (a : AxisSt) : State := { s with isl := { s.isl with axes := tput s.isl.axes n a } }

/-- 0 ABSENT, 1 STARTING, 2 RUN, 3 LOCKOUT (R351). -/
def State.islState (s : State) : Nat := s.get R.SAFE_STAT_STATE

/-- A bit of a register mask. -/
def putBit (m n : Nat) (b : Bool) : Nat := if b then m ||| 2 ^ n else if m.testBit n then m ^^^ 2 ^ n else m

def State.setBitOf (s : State) (f : Fld) (n : Nat) (b : Bool) : State := s.set f (putBit (s.get f) n b)

/-- The island records an event and writes its DATA in an envelope to pigeonhole 1 (R348, R467). [Log DEDUCED: 177] -/
def State.islNote (s : State) (e : Ev) : State := (s.record e).send 1 4 0 e.data s.pm

/-! ### Safe inputs (R329) -/

/-- A filtered channel shows the input closed. -/
def showsA (i : SafeInSt) : Bool := i.a = some true
def showsB (c : SafeInCfg) (i : SafeInSt) : Bool := match i.b with | some b => if c.antivalent then !b else b | none => false

/-- An input is closed only while both filtered channels show closed; an input the section does not configure is open. -/
def State.inClosed (s : State) (n : Nat) : Bool :=
  match tfind s.man.safety.ins n with
  | some c => s.isl.present && showsA (s.islIn n) && showsB c (s.islIn n)
  | none => false

def State.inDisc (s : State) (n : Nat) : Bool :=
  match tfind s.man.safety.ins n with
  | some c => showsA (s.islIn n) != showsB c (s.islIn n)
  | none => false

/-- The input is a STOP or GUARD input that holds an output of its MAP_IN off while open (R330). -/
def State.inHolds (s : State) (n : Nat) : Bool :=
  match tfind s.man.safety.ins n with | some c => decide (c.kind < 2) && !s.inClosed n | none => true

/-- Every STOP and GUARD input of MAP_IN is closed. -/
def State.mapClosed (s : State) (c : SafeOutCfg) : Bool := !c.mapIn.any s.inHolds

/-- SAFE_IN shows an input, and the time of its disagreement runs. -/
def State.inShow (s : State) (n : Nat) : State :=
  let i := s.islIn n
  let disc := s.inDisc n
  let i := { i with discAt := if disc then (match i.discAt with | some t => some t | none => some s.now) else none }
  let s : State := { s with isl := { s.isl with ins := tput s.isl.ins n i } }
  (s.setBitOf R.SAFE_IN_CLOSED n (s.inClosed n)).setBitOf R.SAFE_IN_DISC n disc

/-! ### Switching outputs (R330, R340) -/

/-- An output switches (0x1004): both channels follow, but a channel under test stays off (R341); the off-checks of the channels
that switch off fall due. [Log DEDUCED: 166] -/
def State.islSwitch (s : State) (n : Nat) (on : Bool) (reason : Nat) : State :=
  let o := s.islOut n
  let testA := match o.test with | some (b, _) => !b | none => false
  let testB := match o.test with | some (b, _) => b | none => false
  let o := { o with on := on, chA := on && !testA, chB := on && !testB, switchedAt := some s.now,
                    dueA := o.dueA || (!on && o.chA), dueB := o.dueB || (!on && o.chB) }
  let s := (s.putIslOut n o).setBitOf R.SAFE_OUT_ON n on
  let s := if on then s else s.evt R.SAFE_EVT_OUT_OFF
  s.islNote { code := 0x1004, source := n, items := [(1, n), (1, if on then 1 else 0), (1, reason)] }

/-- An output takes its evaluated demand at the end of the island cycle. [Log DEDUCED: 165] -/
def State.islApply (s : State) (n : Nat) : State :=
  let o := s.islOut n
  let want := o.demand && s.islState = 2
  if want = o.on then s else s.islSwitch n want (if s.islState = 2 then o.reason else 6)

/-- Every output is off (R328, R343). -/
def State.islAllOff (s : State) : State :=
  s.man.safety.outs.foldl (fun (s : State) c =>
    let s := s.putIslOut c.1 { s.islOut c.1 with demand := false, reason := 6 }
    if (s.islOut c.1).on then s.islSwitch c.1 false 6 else s) s

/-! ### Lock-out (R343) -/

/-- The island's state changes (0x1001). -/
def State.islTo (s : State) (new : Nat) : State :=
  let old := s.islState
  let s := s.set R.SAFE_STAT_STATE new
  let s := if new = 3 then s.evt R.SAFE_EVT_LOCKOUT else if new = 2 then s.evt R.SAFE_EVT_RUN else s
  s.islNote { code := 0x1001, items := [(1, old), (1, new), (1, s.get R.SAFE_STAT_CAUSE)] }

/-- A lock-out cause is found; CAUSE holds the first one, and every output is off. [Log DEDUCED: 175] -/
def State.islLock (s : State) (cause index : Nat) : State :=
  let s : State := { s with isl := { s.isl with
    causes := if (cause, index) ∈ s.isl.causes then s.isl.causes else s.isl.causes ++ [(cause, index)] } }
  let s := if 4 ≤ cause && cause ≤ 8 then s.set R.SAFE_STAT_PERMANENT 1 else s
  if s.islState = 3 then s else ((s.set R.SAFE_STAT_CAUSE cause).islTo 3).islAllOff

/-- A fault is found (0x1002). [Log DEDUCED: 175] -/
def State.islFault (s : State) (cause index : Nat) : State :=
  if !s.isl.present then s
  else (s.islNote { code := 0x1002, source := index, items := [(1, cause), (1, index)] }).islLock cause index

/-- The commissioned value that the journal holds (R89). -/
def State.cvJournal (s : State) : Option Nat :=
  match tfind s.mnf.journal 2 with | some (_, _, [v]) => some v | _ => none

/-- SAFE_STAT.COMMISSIONED: the journal value matches the loaded section (R347). -/
def State.commissioned (s : State) : Bool := s.man.safety.given && s.cvJournal = some s.man.safety.crc

/-- Readback agrees with the channel, on both channels of an output. [Log DEDUCED: 176] -/
def State.rbAgrees (s : State) (n : Nat) : Bool :=
  s.isl.rbA.testBit n = (s.islOut n).chA && s.isl.rbB.testBit n = (s.islOut n).chB

/-- A cause is cleared (R343). -/
def State.causeCleared (s : State) (c : Nat × Nat) : Bool :=
  match c.1 with
  | 1 | 0xC => true
  | 2 | 3 => s.commissioned
  | 9 => !s.inDisc c.2
  | 0xA => s.rbAgrees c.2
  | 0xB => ((s.islOut c.2).chA || !s.isl.rbA.testBit c.2) && ((s.islOut c.2).chB || !s.isl.rbB.testBit c.2)
  | 0xD => s.isl.edm.testBit c.2 && s.man.safety.outs.all fun o => o.2.edm ≠ some c.2 || !(s.islOut o.1).on
  | 0xE => match (s.islAx c.2).agreeAt, tfind s.man.safety.axes c.2 with
    | some t, some x => decide (t + x.diffMs * 1000000 ≤ s.now)
    | _, _ => false
  | 0xF => match (s.islAx c.2).errAt with | some t => decide (t + 1000000000 ≤ s.now) | none => true
  | _ => false

/-- The causes still present, a bit per code. [Log DEDUCED: 167] -/
def State.causesLeft (s : State) : Nat :=
  (s.isl.causes.filter fun c => !s.causeCleared c).foldl (fun m c => m ||| 2 ^ c.1) 0

/-- SAFE_STAT, SAFE_IN and SAFE_OUT as packed words (R348, R351). -/
def State.safeStatWord (s : State) : Nat :=
  s.islState + (if s.commissioned then 4 else 0) + (if s.flag R.SAFE_STAT_PERMANENT then 8 else 0) +
  (if s.isl.present && s.causesLeft = 0 then 16 else 0) + (if s.man.safety.series then 32 else 0) + 256 * s.get R.SAFE_STAT_CAUSE

def State.safeInWord (s : State) : Nat := s.get R.SAFE_IN_CLOSED + 65536 * s.get R.SAFE_IN_DISC
def State.safeOutWord (s : State) : Nat := s.get R.SAFE_OUT_ON + 4096 * s.get R.SAFE_OUT_WAIT

/-- The frame points 0x0700_0000 to 0x0700_0002 (R348). [Log DEDUCED: 166] -/
def State.islFrame (s : State) : State :=
  if s.isl.present then s.putAll 0x07000000 [s.safeStatWord, s.safeInWord, s.safeOutWord] .good else s

/-! ### The island's start (R345) -/

/-- At PLL lock, on an -SE device: the island runs with every output off. [Log DEDUCED: 166, 167] -/
def State.islStart (s : State) : State :=
  if s.get R.DEV_GRADE_GRADE ≠ 1 then s
  else ({ s with isl := { present := true, startAt := s.now } }.set R.SAFE_RESET_LINE 1).islTo 1

/-- MUSTER ends (R345): lock-out with START, or with UNCOMMISSIONED or CV-MISMATCH where the section asks for a check value. -/
def State.islMusterEnd (s : State) : State :=
  if !s.isl.present then s
  else if s.man.safety.given && !s.commissioned then
    let known := s.cvJournal.isSome
    (s.record { code := 0x100A, items := [(1, if known then 1 else 0)] }).islLock (if known then 3 else 2) 0xFF
  else s.islLock 1 0xFF

/-- The section is read: EDM inputs bound, inputs as they stand by now, and axes from where they stand. -/
def State.islConfigure (s : State) : State :=
  if !s.isl.present then s
  else
    let c := s.man.safety
    let s := s.set R.SAFE_EDM_BOUND (c.outs.foldl (fun m o => match o.2.edm with | some e => m ||| 2 ^ e | none => m) 0)
    let s := c.ins.foldl (fun (s : State) i => s.inShow i.1) s
    c.axes.foldl (fun (s : State) a =>
      let n := (s.enc a.2.idx2).count
      s.putIslAx a.1 { c2 := if n < 2 ^ 31 then n else (n : Int) - 2 ^ 32 }) s

/-! ### Axes (R332 to R336) -/

/-- A loop cell's PV in units: Q2.30 of full scale over SCALE2. -/
def State.cellUnits (s : State) (c : AxisCfg) : Rat := ((s.cell c.idx2).ys.getD 0 0 : Rat) / 1073741824 / c.scale2

/-- The speed over the last 4 island cycles, in 1 ms; 0 until there are 4. [Log DEDUCED: 171] -/
def cycleSpeed (ps : List Rat) : Rat := match ps with | p :: _ :: _ :: _ :: q :: _ => (p - q) * 1000 | _ => 0

/-- The selected SLS level (R333). -/
def State.slsLevel (s : State) (c : AxisCfg) : Nat :=
  let bad := [c.sel0, c.sel1].any fun x => match x with | some i => s.inDisc i | none => false
  let bit := fun (x : Option Nat) => match x with | some i => if s.inClosed i then 1 else 0 | none => 0
  if bad then 0 else bit c.sel0 + 2 * bit c.sel1

/-- The SLS limit in force at an instant (R333). -/
def slsLimit (c : AxisCfg) (a : AxisSt) (now : Nat) : Rat :=
  let target := (c.sls.getD []).getD a.level 0
  let t : Rat := ((now - a.rampAt : Nat) : Rat) / 1000000000
  if c.slsRamp ≤ t then target else a.rampFrom + (target - a.rampFrom) * t / c.slsRamp

/-- The level changes: a lower limit falls linearly from the limit in force, a higher one is in force at once. -/
def slsSelect (c : AxisCfg) (a : AxisSt) (level now : Nat) : AxisSt :=
  let new := (c.sls.getD []).getD level 0
  if a.p1s = [] then { a with level := level, rampFrom := new, rampAt := now }
  else if level = a.level then a
  else
    let cur := slsLimit c a now
    { a with level := level, rampFrom := if cur ≤ new then new else cur, rampAt := now }

/-- ACTIVE_BY (R336): ALWAYS, or while an input is closed. -/
def State.activeBy (s : State) (by_ : Option Nat) : Bool := match by_ with | some i => s.inClosed i | none => true

/-- The first measurement that passes a limit: its number and value. -/
def passes (ok : Rat → Bool) (ms : List (Nat × Rat)) : Option (Nat × Rat) := ms.find? fun m => !ok m.2

/-- What one evaluation of an axis finds: its new state, the functions active, the violations with measurement, value and limit,
the speed limit in force, the speeds and the larger difference in per cent of its tolerance. -/
structure AxisEval where
  ax : AxisSt
  active : List Bool
  viol : List (Option (Nat × Rat × Rat))
  limit : Option Rat
  spd : Nat × Rat
  diff : Rat

/-- SDI's furthest positions (R335), and the first measurement that moved back by more than SDI_TOL. -/
def sdiTrack (pos : Bool) (tol : Rat) (a : AxisSt) (p1 : Rat) (p2 : Option Rat) :
    (Rat × Rat) × Option (Nat × Rat × Rat) :=
  let dir : Rat := if pos then 1 else -1
  let far := fun (best p : Rat) => if 0 < (p - best) * dir then p else best
  let old := a.sdiMax.getD (p1, p2.getD 0)
  let best := (far old.1 p1, match p2 with | some p => far old.2 p | none => old.2)
  let back1 := decide (tol < (best.1 - p1) * dir)
  let back2 := match p2 with | some p => decide (tol < (best.2 - p) * dir) | none => false
  (best, if back1 then some (1, p1, best.1) else if back2 then some (2, p2.getD 0, best.2) else none)

/-- One island cycle of an axis. [Log DEDUCED: 171] -/
def State.axisEval (s : State) (c : AxisCfg) (a : AxisSt) (moved : Int) : AxisEval :=
  let c1 := a.c1 + moved
  let raw : Int := (s.enc c.idx2).count
  let d : Int := (raw - a.c2) % 4294967296
  let c2 := a.c2 + (if d < 2147483648 then d else d - 4294967296)
  let p1 : Rat := (c1 : Rat) / c.scale1 + a.z1
  let p2 : Option Rat := match c.kind2 with
    | 0 => some ((c2 : Rat) / c.scale2 + a.z2) | 1 => some (s.cellUnits c) | _ => none
  let a := slsSelect c a (s.slsLevel c) s.now
  let a := { a with c1 := c1, c2 := c2, p1s := (p1 :: a.p1s).take 5,
                    p2s := match p2 with | some p => (p :: a.p2s).take 5 | none => [] }
  let s1 := cycleSpeed a.p1s
  let s2 : Rat := match p2 with | some _ => cycleSpeed a.p2s | none => s.cellUnits c
  let dSpd : Rat := absR (s1 - s2) / c.diffSpd
  let dPos : Rat := match p2 with | some p => if a.referenced then absR (p1 - p) / c.diffPos else 0 | none => 0
  let bad := decide (1 < dSpd) || decide (1 < dPos)
  let a := { a with diffAt := if bad then (match a.diffAt with | some t => some t | none => some s.now) else none,
                    agreeAt := if bad then none else (match a.agreeAt with | some t => some t | none => some s.now) }
  let act := [c.sls.isSome && s.activeBy c.slsBy, c.slp.isSome && s.activeBy c.slpBy, c.sdi.isSome && s.activeBy c.sdiBy]
  let slsOn := act.getD 0 false
  let slpOn := act.getD 1 false
  let sdiOn := act.getD 2 false
  let speeds := [(1, s1), (2, s2)]
  let poss := (1, p1) :: (match p2 with | some p => [(2, p)] | none => [])
  let lim := slsLimit c a s.now
  let v0 : Option (Nat × Rat × Rat) := if slsOn then (passes (fun v => decide (absR v ≤ lim)) speeds).map fun m => (m.1, m.2, lim) else none
  let v1 : Option (Nat × Rat × Rat) := if !slpOn then none
    else if !a.referenced then
      (passes (fun v => decide (absR v ≤ c.refSpeed)) speeds).map fun m => (m.1, m.2, c.refSpeed)
    else match c.slp with
      | some (lo, hi) => (passes (fun v => decide (lo ≤ v) && decide (v ≤ hi)) poss).map fun m =>
          (m.1, m.2, if m.2 < lo then lo else hi)
      | none => none
  let track : Option ((Rat × Rat) × Option (Nat × Rat × Rat)) := match c.sdi with
    | some (pos, tol) => if sdiOn then some (sdiTrack pos tol a p1 p2) else none
    | none => none
  let a : AxisSt := { a with sdiMax := match track with | some x => some x.1 | none => none }
  let v2 : Option (Nat × Rat × Rat) := match track with | some t => t.2 | none => none
  let limits := (if slsOn then [lim] else []) ++ (if slpOn && !a.referenced then [c.refSpeed] else [])
  let cur := (if v0.isSome then 1 else 0) + (if v1.isSome then 2 else 0) + (if v2.isSome then 4 else 0)
  { ax := { a with done := a.cur, cur := cur }, active := act, viol := [v0, v1, v2]
    limit := match limits with | [] => none | [x] => some x | x :: y :: _ => some (if x ≤ y then x else y)
    spd := if absR s2 ≤ absR s1 then (1, s1) else (2, s2)
    diff := 100 * (if dSpd ≤ dPos then dPos else dSpd) }

/-- The record 0x1006: axis, function (case 0 SLS, 1 SLP, 2 SDI, 3 WARN), measurement, value and limit in 0.001 unit.
[Log DEDUCED: 177] -/
def axisEv (n fn m : Nat) (v lim : Rat) : Ev :=
  { code := 0x1006, source := n,
    items := [(1, n), caseItem 0x1006 fn, (1, m), sItem 4 (shownAt 0x1006 (v * 1000)), sItem 4 (shownAt 0x1006 (lim * 1000))], key := 3 }

/-- The axis takes its evaluation: new violations latch, WARN follows the speed, and the registers show it. -/
def State.axisTake (s : State) (n : Nat) (c : AxisCfg) (r : AxisEval) : State :=
  let s := s.putIslAx n r.ax
  let old := s.get R.SAFE_AX_STAT_VIOL n
  let s := r.viol.zipIdx.foldl (fun (s : State) x => match x.1 with
    | some (m, v, lim) => if old.testBit x.2 then s else (s.evt R.SAFE_EVT_VIOL).islNote (axisEv n x.2 m v lim)
    | none => s) s
  let s := s.set R.SAFE_AX_STAT_VIOL (old ||| r.ax.cur) n
  let warn := match r.limit with | some l => decide ((c.warnPct : Rat) / 100 * l < absR r.spd.2) | none => false
  let was := s.flag R.SAFE_AX_STAT_WARN n
  let e := axisEv n 3 r.spd.1 r.spd.2 (r.limit.getD 0)
  let s := if warn && !was then (s.evt R.SAFE_EVT_WARN).islNote e
    else if was && !warn then s.send 1 4 0 e.data s.pm else s
  let s := s.setB R.SAFE_AX_STAT_WARN warn n
  let s := s.set R.SAFE_AX_STAT_ACTIVE ((r.active.zipIdx.map fun x => if x.1 then 2 ^ x.2 else 0).sum) n
  let s := (s.set R.SAFE_AX_STAT_SLS_LEVEL (if c.sls.isSome then r.ax.level else 0) n).setU R.SAFE_AX_STAT_DIFF_PCT r.diff n
  (s.setQ R.SAFE_AX_SPD_SPD (r.spd.2 * 1000) n).setQ R.SAFE_AX_POS_POS ((r.ax.p1s.headD 0) * 1000) n

/-! ### Demands (R330) -/

/-- The permits in force: the mask last received, 0 where it has not been refreshed for 2 island cycles (R348).
[Log DEDUCED: 173] -/
def State.permits (s : State) : Nat :=
  match s.isl.permitAt with | some t => if s.now < t + 500000 then s.isl.permit else 0 | none => 0

/-- The demand of an output, and the reason of 0x1004. [Log DEDUCED: 165, 176] -/
def State.islDemand (s : State) (n : Nat) (c : SafeOutCfg) : Bool × Nat :=
  if s.islState ≠ 2 then (false, 6)
  else if !s.mapClosed c then (false, 2)
  else if c.mapAx.any fun k => decide (s.get R.SAFE_AX_STAT_VIOL k ≠ 0) then (false, 3)
  else if c.mainEnable && !s.permits.testBit n then (false, 4)
  else if s.isl.offReq.testBit n then (false, 5)
  else if (s.get R.SAFE_OUT_WAIT).testBit n then (false, 2)
  else match c.edm with
    | some e => if !(s.islOut n).on && !s.isl.edm.testBit e then (false, 2) else (true, 1)
    | none => (true, 1)

/-- ISLAND_CYCLE (R327, R337): the outputs take the demands of the cycle that ends; then inputs, axes and demands are evaluated.
`moved` gives the counts each safety encoder has moved since the cycle before; `edm`, `rbA` and `rbB` are the levels of the
feedback and readback balls. [Log DEDUCED: 165] -/
def execIslandCycle (dt : Nat) (moved : List (Nat × Int)) (edm rbA rbB : Nat) (s : State) : Out :=
  let s := s.advance dt
  if !s.isl.present then .next s
  else
    let c := s.man.safety
    let s := c.outs.foldl (fun (s : State) o => s.islApply o.1) s
    let s : State := { s with isl := { s.isl with edm := edm % 256, rbA := rbA % 4096, rbB := rbB % 4096 } }
    let s := ((s.set R.SAFE_EDM_RELEASED edm).set R.SAFE_RB_RB_A rbA).set R.SAFE_RB_RB_B rbB
    let s := c.axes.foldl (fun (s : State) a =>
      s.axisTake a.1 a.2 (s.axisEval a.2 (s.islAx a.1) ((tfind moved a.1).getD 0))) s
    let s := (s.set R.SAFE_PERMIT_PERMIT s.permits).set R.SAFE_PERMIT_OFF_REQ s.isl.offReq
    .next (c.outs.foldl (fun (s : State) o =>
      let d := s.islDemand o.1 o.2
      s.putIslOut o.1 { s.islOut o.1 with demand := d.1, reason := d.2 }) s)

/-- SAFE_INPUT_CHANGE (R329, R330): a channel of a safe input has held a new level for FILTER. An opening of a STOP input, or of a
GUARD input where RESTART is MANUAL, leaves the outputs of its MAP_IN waiting for restart. -/
def execSafeInputChange (dt input : Nat) (chB level : Bool) (s : State) : Out :=
  let s := s.advance dt
  if !s.isl.present then .next s
  else
    let was := s.inClosed input
    let i := s.islIn input
    let i := if chB then { i with b := some level } else { i with a := some level }
    let s : State := { s with isl := { s.isl with ins := tput s.isl.ins input i } }
    match tfind s.man.safety.ins input with
    | none => .next s
    | some c =>
      let s := s.inShow input
      let is := s.inClosed input
      let s := if was = is then s
        else s.islNote { code := 0x1005, source := input, items := [(1, input), (1, c.kind)] }
      if was && !is && c.kind < 2 then
        .next (s.man.safety.outs.foldl (fun (s : State) o =>
          if input ∈ o.2.mapIn && (c.kind = 0 || o.2.manual) then s.setBitOf R.SAFE_OUT_WAIT o.1 true else s) s)
      else .next s

/-- INPUT_DISCREPANCY (R329): the filtered channels disagree for DISC_T. [Log DEDUCED: 178] -/
def execInputDiscrepancy (dt input : Nat) (s : State) : Out :=
  let s := s.advance dt
  match (s.islIn input).discAt, tfind s.man.safety.ins input with
  | some t, some c => if t + c.discMs * 1000000 ≤ s.now then .next (s.islFault 9 input) else .next s
  | _, _ => .next s

/-! ### Internal faults (R328) -/

/-- ISLAND_LOCKSTEP_MISMATCH (R328, R362): permanent lock-out, and a give-up trigger of cause 2. -/
def execIslandLockstepMismatch (dt : Nat) (s : State) : Out :=
  let s := s.advance dt
  if !s.isl.present then .next s else .next ((s.islFault 5 0xFF).deviceFault 2 0xFFFF)

/-- ISLAND_WATCHDOG_EXPIRY (R328). -/
def execIslandWatchdogExpiry (dt : Nat) (s : State) : Out := .next ((s.advance dt).islFault 6 0xFF)

/-- ISLAND_CLOCK_FAULT (R23, R328). -/
def execIslandClockFault (dt : Nat) (s : State) : Out := .next ((s.advance dt).islFault 7 0xFF)

/-- ISLAND_ECC_ERROR (R20, R328). -/
def execIslandEccError (dt : Nat) (s : State) : Out := .next ((s.advance dt).islFault 8 0xFF)

/-- PARAM_CRC_RECHECK (R346): the check value over the parameter copy, every 1 s. -/
def execParamCrcRecheck (dt crc : Nat) (s : State) : Out :=
  let s := s.advance dt
  if s.isl.present && s.man.safety.given && crc ≠ s.man.safety.crc then .next (s.islFault 4 0xFF) else .next s

/-! ### Test pulses and readback (R339 to R342) -/

/-- Runs of deferrals, and the largest one shown. -/
def State.setDefer (s : State) (n : Nat) (chB : Bool) (run : Nat) : State :=
  let o := s.islOut n
  let s := s.putIslOut n (if chB then { o with deferB := run } else { o with deferA := run })
  s.setSat R.SAFE_TEST_DEFER_MAX (s.isl.outs.foldl (fun m o => max m (max o.2.deferA o.2.deferB)) 0)

/-- A demand transition is pending for an output (R341). -/
def State.islPending (s : State) (n : Nat) (c : SafeOutCfg) : Bool :=
  let o := s.islOut n
  o.demand != o.on || (s.get R.SAFE_OUT_WAIT).testBit n || c.mapIn.any (fun i => (s.islIn i).discAt.isSome) ||
  (match c.edm, o.switchedAt with
    | some e, some t => (s.isl.edm.testBit e == o.on) && decide (s.now < t + c.edmMs * 1000000)
    | _, _ => false) ||
  (match o.reqAt with | some t => decide (s.now < t + 250000) | none => false)

/-- TEST_PULSE_START (R339, R341): the channel of an energised output is switched off, or its test is deferred. `filtering`: an
input of its MAP_IN is within FILTER. [Log DEDUCED: 172, 179] -/
def execTestPulseStart (dt out : Nat) (chB filtering : Bool) (s : State) : Out :=
  let s := s.advance dt
  let o := s.islOut out
  match tfind s.man.safety.outs out with
  | none => .next s
  | some c =>
    if !(s.isl.present && s.islState = 2 && o.chA && o.chB) then .next s
    else if filtering || s.islPending out c then
      let run := (if chB then o.deferB else o.deferA) + 1
      let s := (s.setDefer out chB run).evt R.SAFE_EVT_TEST_DEFER
      .next (s.record { code := 0x1007, source := out, items := [(1, out), (1, if chB then 1 else 0), (2, min 65535 run)], key := 2 })
    else
      let o := { o with test := some (chB, s.now) }
      .next (s.putIslOut out (if chB then { o with chB := false, dueB := true } else { o with chA := false, dueA := true }))

/-- TEST_PULSE_END (R339, R341): 300 µs after its start the channel is energised again, unless an off demand came.
[Log DEDUCED: 169] -/
def execTestPulseEnd (dt out : Nat) (chB : Bool) (s : State) : Out :=
  let s := s.advance dt
  let o := s.islOut out
  match o.test with
  | some (b, t) =>
    if b ≠ chB || s.now < t + 300000 then .next s
    else .next (s.putIslOut out { o with test := none, chA := o.on, chB := o.on })
  | none => .next s

/-- TEST_OFF_CHECK (R340, R342): the channel reads back off `us` µs after it was switched off, by test or by demand.
[Log DEDUCED: 169, 170] -/
def execTestOffCheck (dt out : Nat) (chB : Bool) (us : Nat) (s : State) : Out :=
  let s := s.advance dt
  let o := s.islOut out
  if !(if chB then o.dueB else o.dueA) then .next s
  else
    let s := s.putIslOut out (if chB then { o with dueB := false } else { o with dueA := false })
    let pass := decide (us ≤ 200)
    let isl := if chB then { s.isl with rbB := putBit s.isl.rbB out (!pass) } else { s.isl with rbA := putBit s.isl.rbA out (!pass) }
    let s := (({ s with isl := isl } : State).set R.SAFE_RB_RB_A isl.rbA).set R.SAFE_RB_RB_B isl.rbB
    let tested := match o.test with | some (b, _) => b = chB | none => false
    let s := if pass then s.setDefer out chB 0 else s
    if !tested then .next (if 250 ≤ us then s.islFault 0xA out else s)
    else
      let s := (s.set R.SAFE_TEST_LAST_OUT out).setB R.SAFE_TEST_LAST_CH chB
      let s := s.setB R.SAFE_TEST_LAST_OK pass
      let s := if pass then s.inc R.SAFE_TEST_TESTS else s
      let s := if 150 < us then
          s.record { code := 0x1008, source := out, items := [(1, out), (1, if chB then 1 else 0), measItem 0x1008 ((us : Rat) / 1000000)], key := 2 }
        else s
      .next (if pass then s else s.islFault 0xB out)

/-- READBACK_FAULT (R340): a readback has differed from its channel for 50 µs outside the windows. [Log DEDUCED: 170] -/
def execReadbackFault (dt out : Nat) (chB : Bool) (us : Nat) (s : State) : Out :=
  let s := s.advance dt
  match tfind s.man.safety.outs out with
  | none => .next s
  | some _ =>
    if !s.isl.present || us < 50 then .next s
    else
      let o := s.islOut out
      let isl := if chB then { s.isl with rbB := putBit s.isl.rbB out (!o.chB) }
        else { s.isl with rbA := putBit s.isl.rbA out (!o.chA) }
      let s := (({ s with isl := isl } : State).set R.SAFE_RB_RB_A isl.rbA).set R.SAFE_RB_RB_B isl.rbB
      .next (s.islFault 0xA out)

/-- TEST_STARVED (R342): a channel deferred in 120 consecutive periods. [Log DEDUCED: 179] -/
def execTestStarved (dt out : Nat) (chB : Bool) (s : State) : Out :=
  let s := s.advance dt
  let o := s.islOut out
  if 120 ≤ (if chB then o.deferB else o.deferA) then .next (s.islFault 0xC out) else .next s

/-- EDM_FAULT (R331): EDM_T after a switching, the bound input does not read released with the output off, or still reads released
with it on. [Log DEDUCED: 176] -/
def execEdmFault (dt out : Nat) (s : State) : Out :=
  let s := s.advance dt
  let o := s.islOut out
  match tfind s.man.safety.outs out with
  | none => .next s
  | some c =>
    match c.edm, o.switchedAt with
    | some e, some t =>
      if t + c.edmMs * 1000000 ≤ s.now && s.isl.edm.testBit e = o.on then .next (s.islFault 0xD e) else .next s
    | _, _ => .next s

/-! ### Axis events -/

/-- AXIS_DISCREPANCY (R332): the measurements have differed beyond tolerance for DIFF_T. -/
def execAxisDiscrepancy (dt axis : Nat) (s : State) : Out :=
  let s := s.advance dt
  match (s.islAx axis).diffAt, tfind s.man.safety.axes axis with
  | some t, some c => if t + c.diffMs * 1000000 ≤ s.now then .next (s.islFault 0xE axis) else .next s
  | _, _ => .next s

/-- SAFETY_ENCODER_INDEX (R334): the first index edge sets p1 to REF_POS, and an ENC p2 to the same value; the axis is referenced.
`moved` counts the edges since the last island cycle. A shift of the zero is no movement. -/
def execSafetyEncoderIndex (dt axis : Nat) (moved : Int) (s : State) : Out :=
  let s := s.advance dt
  let a := s.islAx axis
  match tfind s.man.safety.axes axis with
  | none => .next s
  | some c =>
    if !s.isl.present || a.referenced || !c.hasIndex || 2 ≤ c.kind2 then .next s
    else
      let p1 : Rat := ((a.c1 + moved : Int) : Rat) / c.scale1 + a.z1
      let d1 := c.refPos - p1
      let raw : Int := (s.enc c.idx2).count
      let d : Int := (raw - a.c2) % 4294967296
      let c2 := a.c2 + (if d < 2147483648 then d else d - 4294967296)
      let d2 : Rat := if c.kind2 = 0 then c.refPos - ((c2 : Rat) / c.scale2 + a.z2) else 0
      let a := { a with z1 := a.z1 + d1, z2 := a.z2 + d2, p1s := a.p1s.map (· + d1), p2s := a.p2s.map (· + d2),
                        referenced := true, sdiMax := a.sdiMax.map fun m => (m.1 + d1, m.2 + d2) }
      .next ((s.putIslAx axis a).set R.SAFE_AX_STAT_REFERENCED 1 axis)

/-- SAFETY_ENCODER_ERROR (R332): an edge error is the fault ENCODER. -/
def execSafetyEncoderError (dt axis : Nat) (s : State) : Out :=
  let s := s.advance dt
  match tfind s.man.safety.axes axis with
  | none => .next s
  | some _ => .next ((s.putIslAx axis { s.islAx axis with errAt := some s.now }).islFault 0xF axis)

/-! ### Reset (R344) -/

/-- A release acknowledges every output waiting for restart whose inputs are closed, and every violation back within limits.
[Log DEDUCED: 168] -/
def State.islAck (s : State) : State :=
  let s := s.man.safety.outs.foldl (fun (s : State) o =>
    if s.mapClosed o.2 then s.setBitOf R.SAFE_OUT_WAIT o.1 false else s) s
  s.man.safety.axes.foldl (fun (s : State) x =>
    let a := s.islAx x.1
    if s.get R.SAFE_AX_STAT_VIOL x.1 = 0 || a.done ≠ 0 then s
    else
      let e := axisEv x.1 (if (s.get R.SAFE_AX_STAT_VIOL x.1).testBit 0 then 0 else
        if (s.get R.SAFE_AX_STAT_VIOL x.1).testBit 1 then 1 else 2) 0 0 0
      (s.set R.SAFE_AX_STAT_VIOL a.cur x.1).send 1 4 0 e.data s.pm) s

/-- SAFE_RESET_PRESS (R344): the release of a press of `lowMs`. One shorter than 0.25 s or longer than 3 s is ignored.
[Log DEDUCED: 168] -/
def execSafeResetPress (dt lowMs : Nat) (s : State) : Out :=
  let s := s.advance dt
  if !s.isl.present then .next s
  else
    let stuck := s.isl.stuck
    let s := ({ s with isl := { s.isl with stuck := false } } : State).set R.SAFE_RESET_LINE 1
    if stuck || lowMs < 250 || 3000 < lowMs || s.islState < 2 then .next s
    else
      let e : Ev := { code := 0x1003, items := [measItem 0x1003 ((lowMs : Rat) / 1000), (2, s.causesLeft)], key := 0 }
      if s.islState = 3 && s.causesLeft ≠ 0 then .next (((s.incSat R.SAFE_RESET_REFUSED).evt R.SAFE_EVT_RESET_REFUSED).record e)
      else
        let s := (s.inc R.SAFE_RESET_ACCEPTED).record e
        let s := if s.islState = 3 then
            (({ s with isl := { s.isl with causes := [] } } : State).set R.SAFE_STAT_CAUSE 0).islTo 2
          else s
        .next s.islAck

/-- SAFE_RESET_STUCK (R344): a press longer than 3 s; its release is ignored. -/
def execSafeResetStuck (dt lowMs : Nat) (s : State) : Out :=
  let s := s.advance dt
  if !s.isl.present || lowMs ≤ 3000 then .next s
  else
    let s := (({ s with isl := { s.isl with stuck := true } } : State).set R.SAFE_RESET_LINE 0).set R.SAFE_RESET_STUCK 1
    .next (s.record { code := 0x1003, items := [measItem 0x1003 ((lowMs : Rat) / 1000), (2, s.causesLeft)], key := 0 })

/-! ### Commissioning and the mailbox (R346 to R348) -/

/-- A commit ends or is refused (0x1009). [Log DEDUCED: 174] -/
def State.cvResult (s : State) (res keyId : Nat) : State :=
  let s := s.set R.SAFE_CV_CMD_RESULT res
  if res = 1 then s
  else s.record { code := 0x1009, role := .installer, keyId := keyId, items := [(1, res), (1, Role.installer.code), (2, keyId)] }

/-- A value is committed (R347): in READY or SAFE with the island in lock-out, one that matches waits for the journal. -/
def State.cvCommit (s : State) (value keyId : Nat) : State :=
  if !(s.mode = 2 || s.mode = 5) || s.islState ≠ 3 then s.cvResult 4 keyId
  else if !s.man.safety.given || value ≠ s.man.safety.crc then s.cvResult 3 keyId
  else
    let s := s.journalWait 2 [value]
    ({ s with isl := { s.isl with cvKey := keyId } } : State).cvResult 1 keyId

/-- The value is in the journal. [Log DEDUCED: 174] -/
def State.cvWritten (s : State) : State := if s.isl.present then s.cvResult 2 s.isl.cvKey else s

/-- SAFE_CV_COMMIT (R347): SAFE_CV_CMD.COMMIT in an Installer session, with the value in SAFE_CV_ENTER. [Log DEDUCED: 174] -/
def execSafeCvCommit (dt : Nat) (port : Port) (s : State) : Out :=
  let s := s.advance dt
  .next (s.withRole port [.installer] 0xF038 fun s =>
    if s.isl.present then s.cvCommit (s.get R.SAFE_CV_ENTER_CV) s.role.keyId else s)

/-- SAFE_OFF_REQ_WRITE (R348, 0x100B): the Operator requests of SAFE_OFF_REQ. -/
def execSafeOffReqWrite (dt : Nat) (port : Port) (mask : Nat) (s : State) : Out :=
  let s := s.advance dt
  .next (s.withRole port [.operator] 0xF018 fun s =>
    if !s.isl.present then s
    else (s.set R.SAFE_OFF_REQ_MASK mask).record
      { code := 0x100B, role := .operator, keyId := s.role.keyId,
        items := [(2, mask % 4096), (1, Role.operator.code), (2, s.role.keyId)] })

/-- PERMIT_MAILBOX_WRITE (R348): once per island cycle the engine firmware writes PERMIT, from the list outputs that the SAFETY
section binds, and OFF_REQ; not in MUSTER. [Log DEDUCED: 173] -/
def execPermitMailboxWrite (dt : Nat) (s : State) : Out :=
  let s := s.advance dt
  if !s.isl.present || s.mode < 2 then .next s
  else
    let bool := fun (p : Option Nat) => match p with
      | some i => (s.pt i).written && decide ((s.pt i).value ≠ 0) | none => false
    let permit := s.man.safety.outs.foldl (fun m o => putBit m o.1 (bool o.2.permit)) 0
    let off := s.get R.SAFE_OFF_REQ_MASK
    let changed := (permit ^^^ s.isl.permit) ||| (off ^^^ s.isl.offReq)
    let outs := s.man.safety.outs.foldl (fun (t : Tab SafeOutSt) o =>
      if changed.testBit o.1 then tput t o.1 { tget t o.1 {} with reqAt := some s.now } else t) s.isl.outs
    let s : State := { s with isl := { s.isl with permit := permit, permitAt := some s.now, offReq := off, outs := outs } }
    .next ((s.set R.SAFE_PERMIT_PERMIT permit).set R.SAFE_PERMIT_OFF_REQ off)

end Sys2Proof.Machine
end

