-- ==== Sys2Proof/Machine/Mfn.lean ====
section
/-!
DEFINITION. Machine functions (R259 to R265): requests, the state machine at every tick boundary, stops and their ends, fault
causes, and the function points.
-/

namespace Sys2Proof.Machine

open Sys2Proof

def State.fn (s : State) (f : Nat) : FnSt := tget s.loop.fns f {}

def State.putFn (s : State) (f : Nat) (x : FnSt) : State :=
  { s with loop := { s.loop with fns := tput s.loop.fns f x } }

/-- The device writes the points of a function (R264): STATE, CAUSE, REARM_PENDING, TIME_IN_STATE in ms. -/
def State.fnPoints (s : State) (f : Nat) : State :=
  let ms := (s.tick - (s.fn f).since) / 100
  s.putAll (addr0 11 f 0 0) [s.fnState f, s.get R.MFN_FN_STAT_CAUSE f, s.get R.MFN_FN_STAT_REARM_PENDING f, ms] .good

/-- The function changes state (R261, R264, 0x0C01). Its cells' injections end when it leaves ACTIVE (R255). -/
def State.setFn (s : State) (f : Nat) (g : FnCfg) (new : Nat) : State :=
  let old := s.fnState f
  if old = new then s
  else
    let s := (s.putFn f { s.fn f with since := s.tick }).set R.MFN_FN_STAT_STATE new f
    let s := if old = 2 then g.cells.foldl (fun (s : State) c => s.injStop c.cell 4) s else s
    let s := if new = 4 then s.evt R.MFN_EVT_FAULT else s
    let s := (s.evt R.MFN_EVT_STATE_CHANGE).record
      { code := 0x0C01, source := f, items := [(1, f), (1, old), (1, new), (1, s.get R.MFN_FN_STAT_CAUSE f)] }
    s.fnPoints f

/-- The function's cells take a state; a cell in its own FAULT keeps it (R257, R262). -/
def State.cellsTo (s : State) (g : FnCfg) (st : Nat) (upd : CellSt → FnCell → CellSt) : State :=
  g.cells.foldl (fun (s : State) c =>
    let s := s.putCell c.cell (upd (s.cell c.cell) c)
    if s.cellState c.cell = 5 then s else s.set R.LOOP_CELL_STAT_STATE st c.cell) s

/-- ARMING (R261): the cells leave HELD, raw setpoints are held at y. -/
def State.fnArm (s : State) (f : Nat) (g : FnCfg) : State :=
  let s := s.cellsTo g 2 fun c _ => { c with holdY := true }
  ((s.set R.MFN_FN_STAT_REARM_PENDING 0 f).set R.MFN_FN_STAT_CAUSE 0 f).setFn f g 1

/-- ACTIVE (R261): the raw setpoint is the y held in ARMING until the list supplies one. -/
def State.fnActivate (s : State) (f : Nat) (g : FnCfg) : State :=
  let s := s.cellsTo g 2 fun c _ => { c with holdY := false, raw := c.ys.getD 0 0 }
  s.setFn f g 2

/-- A cell takes its END_ACTION (R259, R262). [Log DEDUCED: 128] -/
def State.endAction (s : State) (c : FnCell) : State :=
  match s.cellCfg c.cell with
  | none => s
  | some x =>
    match c.action with
    | 0 => s.setOut c.cell x 0
    | 2 => s.setOut c.cell x (q30 x.safeOut).1
    | 3 => s.resetOut c.cell x
    | _ => s

/-- A stop reaches its end state (R262): every cell takes its END_ACTION and becomes HELD; a fault stop ends in FAULT, a normal one
in DISARMED, and from there in ARMING where an enable waits. [Log DESIGN CHOICE: 143] -/
def State.fnEnd (s : State) (f : Nat) (g : FnCfg) (timeout : Bool) : State :=
  let fault := s.flag R.MFN_FN_STAT_STOP_FAULT f
  let out := g.cells.filter fun c =>
    let y : Rat := ((s.cell c.cell).ys.getD 0 0 : Rat) / 1073741824
    decide (g.band < absR (y - c.stopSp))
  let s := s.setB R.MFN_FN_STAT_STOP_TIMEOUT timeout f
  let s := if timeout then
      (s.evt R.MFN_EVT_STOP_TIMEOUT).record
        { code := 0x0C04, source := f, items := [(1, f), (6, (out.map fun c => 2 ^ c.cell).sum)] }
    else s
  let s := s.setSat R.MFN_FN_TIME_LAST_STOP_MS ((s.now - (s.fn f).stopAt) / 1000000) f
  let s := g.cells.foldl State.endAction s
  let s := s.cellsTo g 1 fun c _ => { c with holdY := false, clampAt := none }
  let x := s.fn f
  if fault then
    -- ARM-TIMEOUT and SAT-TIMEOUT have no lasting condition from here on (R263)
    (s.putFn f { x with causes := x.causes.map fun c => if c.1 = 2 || c.1 = 3 then (c.1, s.tick) else c }).setFn f g 4
  else
    let again := s.flag R.MFN_FN_STAT_REARM_PENDING f
    let s := s.setFn f g 0
    if again then s.fnArm f g else s

/-- A stop begins, or a normal stop turns to FAULT_STOP (R261, R262). [Log DEDUCED: 127] -/
def State.fnStop (s : State) (f : Nat) (g : FnCfg) (fault : Bool) : State :=
  let s := s.putFn f { s.fn f with stopAt := s.now, bandAt := none }
  let s := s.setB R.MFN_FN_STAT_STOP_FAULT fault f
  let s := if fault then s.set R.MFN_FN_STAT_REARM_PENDING 0 f else s
  let s := s.cellsTo g 3 fun c k => { c with holdY := false, raw := (q30 k.stopSp).1 }
  let s := s.setFn f g 3
  if (if fault then g.faultEnd else g.stopEnd) then s.fnEnd f g false else s

/-- A fault cause is found (R261, R263, 0x0C05): `cell` is 0xFF where none is named. [Log DEDUCED: 140] -/
def State.fnFault (s : State) (f : Nat) (g : FnCfg) (cause cell : Nat) : State :=
  let st := s.fnState f
  if st < 1 || 3 < st then s
  else
    let x := s.fn f
    let known := (tfind x.causes cause).isSome
    let s := s.putFn f { x with causes := tput x.causes cause s.tick }
    if known then s
    else
      let stopping := st = 3 && s.flag R.MFN_FN_STAT_STOP_FAULT f
      let s := if stopping then s else s.set R.MFN_FN_STAT_CAUSE cause f
      let s := s.record { code := 0x0C05, source := f, items := [(1, f), (1, cause), (1, cell)] }
      if stopping then s else s.fnStop f g true

/-- Boolean list output of a function: TRUE where the point was written and its value is not 0. [Log DEDUCED: 137] -/
def State.fnBool (s : State) (p : Option Nat) : Bool :=
  match p with | some i => (s.pt i).written && decide ((s.pt i).value ≠ 0) | none => false

/-- A safe output of the island is on. -/
def State.safeOutOn (s : State) (n : Nat) : Bool := (tget s.isl.outs n {}).on

/-- A lasting cause stands at this boundary (R263). [Log DEDUCED: 138] -/
def State.causeStands (s : State) (g : FnCfg) (cause : Nat) : Bool :=
  match cause with
  | 1 => g.cells.any fun c => s.cellState c.cell = 5 && !(s.cell c.cell).watchOk
  | 4 => s.fnBool g.trip
  | 5 => match g.safetyTrip with | some n => !s.safeOutOn n | none => false
  | _ => false

/-- Every cause of the fault is cleared (R263): INPUT-MISS at the first run that would succeed, the others absent for a frame. -/
def State.fnCleared (s : State) (f : Nat) (g : FnCfg) : Bool :=
  (s.fn f).causes.all fun c =>
    if c.1 = 1 then !s.causeStands g 1 else !s.causeStands g c.1 && decide (c.2 + 1000 ≤ s.tick)

/-- A request at its boundary, and its result (R260, R261): 1 ENABLE, 2 DISABLE, 3 RESET. `src` is 0 for a command, 1 for an edge
of the list. -/
def State.fnRequest (s : State) (f : Nat) (g : FnCfg) (action src : Nat) : State × Nat :=
  let st := s.fnState f
  match action with
  | 3 =>
    if st = 4 && s.fnCleared f g then
      let s := g.cells.foldl (fun (s : State) c =>
        (s.set R.LOOP_CELL_STAT_STATE 1 c.cell).set R.LOOP_CELL_STAT_MISS_RUN 0 c.cell) s
      let s := (s.putFn f { s.fn f with causes := [] }).set R.MFN_FN_STAT_CAUSE 0 f
      ((s.set R.MFN_FN_STAT_STOP_FAULT 0 f).setFn f g 0, 2)
    else (s, 4)
  | 2 =>
    if st = 1 || st = 2 then (s.fnStop f g false, 2)
    else if st = 3 then (s.set R.MFN_FN_STAT_REARM_PENDING 0 f, 2)
    else (s, 2)
  | _ =>
    if st = 0 then ((s.putFn f { s.fn f with causes := [] }).fnArm f g, 2)
    else if st = 3 then
      let s := (s.set R.MFN_FN_STAT_REARM_PENDING 1 f).evt R.MFN_EVT_REARM_LATCHED
      (s.record { code := 0x0C02, source := f, items := [(1, f), caseItem 0x0C02 src] }, 3)
    else if st = 4 then (s, 4)
    else (s, 2)

/-- The function's waiting command is decided. -/
def State.fnDecide (s : State) (f : Nat) (c : FnCmd) (res : Nat) : State :=
  (s.putFn f { s.fn f with cmd := none }).fnResult res c.action f c.tag c.keyId

/-- The list's setpoint outputs of an ACTIVE function (R261): an unusable one leaves the raw setpoint. -/
def State.fnSetpoints (s : State) (g : FnCfg) : State :=
  g.cells.foldl (fun (s : State) c =>
    match s.cellCfg c.cell with
    | some x =>
      match x.sp with
      | some i =>
        let r := s.ptRead i
        if (s.pt i).written && qUsable r.2 then s.putCell c.cell { s.cell c.cell with raw := (q30 r.1).1 } else s
      | none => s
    | none => s) s

/-- Since when every cell of a RAMP stop lies within STOP_BAND (R262). -/
def State.fnBand (s : State) (f : Nat) (g : FnCfg) : State :=
  let inBand := g.cells.all fun c =>
    let y : Rat := ((s.cell c.cell).ys.getD 0 0 : Rat) / 1073741824
    decide (absR (y - c.stopSp) ≤ g.band)
  let x := s.fn f
  s.putFn f { x with bandAt := if inBand then (match x.bandAt with | some t => some t | none => some s.now) else none }

/-- The causes that stand at this boundary (R263): INPUT-MISS names its cell. [Log DEDUCED: 138] -/
def State.fnCauses (s : State) (f : Nat) (g : FnCfg) : State :=
  let s := match g.cells.find? fun c => s.cellState c.cell = 5 with
    | some c => s.fnFault f g 1 c.cell
    | none => s
  let s := if s.causeStands g 4 then s.fnFault f g 4 0xFF else s
  if s.causeStands g 5 then s.fnFault f g 5 0xFF else s

/-- One function at a tick boundary (R260 to R263): fault causes, an Operator RESET, a disable, an enable, then ARM_OK.
[Log DEDUCED: 141, 144] -/
def State.fnTick (s : State) (f : Nat) (g : FnCfg) : State :=
  let x := s.fn f
  let en := s.fnBool g.en
  let s := s.putFn f { x with en := en }
  let s := (s.setB R.MFN_FN_STAT_EN en f).setB R.MFN_FN_STAT_ARM_OK (s.fnBool g.armOk) f
  if s.mode < 2 || s.mode = 5 then s
  else
    let was := s.fnState f
    let s := s.fnCauses f g
    -- a cause that still stands in FAULT is present at this tick
    let y := s.fn f
    let s := if s.fnState f = 4 then
        s.putFn f { y with causes := y.causes.map fun c => if s.causeStands g c.1 then (c.1, s.tick) else c }
      else s
    let due := match x.cmd with
      | some c => if s.tick % 1000 = 0 && c.at_ + 1000000 ≤ s.now then some c else none
      | none => none
    let act := match due with | some c => c.action | none => 0
    let run := fun (s : State) (a : Nat) (edge : Bool) =>
      let s := match due with
        | some c => if act = a then let r := s.fnRequest f g a 0; r.1.fnDecide f c r.2 else s
        | none => s
      if edge then (s.fnRequest f g a 1).1 else s
    let s := run s 3 false
    let s := run s 2 (x.en && !en)
    let s := run s 1 (!x.en && en)
    let s := if was = 1 && s.fnState f = 1 && s.fnBool g.armOk then s.fnActivate f g else s
    let s := if s.fnState f = 2 then s.fnSetpoints g else s
    if s.fnState f = 3 then s.fnBand f g else s

/-- Every function at a tick boundary. At READY entry each one is in its disarmed end state (R44). -/
def State.fnsTick (s : State) : State :=
  s.man.loop.fns.foldl (fun (s : State) p =>
    let s := if 2 ≤ s.mode && s.mode ≤ 4 then
        p.2.cells.foldl (fun (s : State) c =>
          if (s.cell c.cell).started then s
          else (s.putCell c.cell { s.cell c.cell with started := true }).endAction c) s
      else s
    s.fnTick p.1 p.2) s

/-- SAFE entry (R260, R261): every function is in SAFE-LAW until the next MUSTER, and a waiting command is refused.
[Log DEDUCED: 139] -/
def State.fnsSafe (s : State) : State :=
  s.man.loop.fns.foldl (fun (s : State) p =>
    let s := match (s.fn p.1).cmd with | some c => s.fnDecide p.1 c 6 | none => s
    (s.set R.MFN_FN_STAT_REARM_PENDING 0 p.1).setFn p.1 p.2 5) s

/-- The function points of a frame boundary, and the time in state (R264, R267). -/
def State.fnsFrame (s : State) : State :=
  s.man.loop.fns.foldl (fun (s : State) p => s.fnPoints p.1) s

/-- MODE_GUARD.MFN_IDLE: every configured function is DISARMED or in FAULT (R261). -/
def State.fnsIdle (s : State) : Bool := s.man.loop.fns.all fun p => s.fnState p.1 = 0 || s.fnState p.1 = 4

/-- An accepted command waits for its frame boundary (R260); a later one for the same function supersedes it. -/
def State.fnAccept (s : State) (action fn tag keyId : Nat) : State :=
  let s := match (s.fn fn).cmd with | some c => s.fnDecide fn c 7 | none => s
  (s.putFn fn { s.fn fn with cmd := some { action := action, tag := tag, keyId := keyId, at_ := s.now } }).fnResult 1 action fn tag keyId

/-- An Operator command is judged at acceptance (R260). -/
def State.fnCmd (s : State) (action : Nat) (src : CmdSrc) (fn tag : Nat) : State :=
  s.operatorCmd src s.man.loop.points 0xB014 fun s keyId =>
    let fn := fn % 32
    let tag := tag % 256
    let s := match src with
      | .host _ => ((s.set R.MFN_CMD_FN fn).set R.MFN_CMD_ACTION action).set R.MFN_CMD_TAG tag
      | .point _ => s
    if s.follows || (s.mode = 1 && s.get R.MODE_STAT_PHASE = 9) || (s.mode ≠ 1 && !s.isActive) then s.fnResult 5 action fn tag keyId
    else if s.mode < 2 || s.mode = 5 then s.fnResult 6 action fn tag keyId
    else if (tfind s.man.loop.fns fn).isNone then s.fnResult 4 action fn tag keyId
    else s.fnAccept action fn tag keyId

/-- MFN_ENABLE (R260, R261). -/
def execMfnEnable (dt : Nat) (src : CmdSrc) (fn tag : Nat) (s : State) : Out := .next ((s.advance dt).fnCmd 1 src fn tag)

/-- MFN_DISABLE (R260, R261). -/
def execMfnDisable (dt : Nat) (src : CmdSrc) (fn tag : Nat) (s : State) : Out := .next ((s.advance dt).fnCmd 2 src fn tag)

/-- MFN_RESET (R260, R263). -/
def execMfnReset (dt : Nat) (src : CmdSrc) (fn tag : Nat) (s : State) : Out := .next ((s.advance dt).fnCmd 3 src fn tag)

/-- ARM_TIMEOUT (R261, R263): ARM_T after ARMING began. [Log DEDUCED: 141] -/
def execArmTimeout (dt fn : Nat) (s : State) : Out :=
  let s := s.advance dt
  match tfind s.man.loop.fns fn with
  | some g =>
    if s.fnState fn = 1 && (s.fn fn).since + 100 * g.armMs ≤ s.tick then .next (s.fnFault fn g 2 0xFF) else .next s
  | none => .next s

/-- STOP_BAND_REACHED (R262): 10 consecutive ms within STOP_BAND end a RAMP stop. -/
def execStopBandReached (dt fn : Nat) (s : State) : Out :=
  let s := s.advance dt
  match tfind s.man.loop.fns fn with
  | some g =>
    match (s.fn fn).bandAt with
    | some t => if s.fnState fn = 3 && t + 10000000 ≤ s.now then .next (s.fnEnd fn g false) else .next s
    | none => .next s
  | none => .next s

/-- STOP_TIMEOUT (R262): STOP_T has elapsed. [Log DEDUCED: 141] -/
def execStopTimeout (dt fn : Nat) (s : State) : Out :=
  let s := s.advance dt
  match tfind s.man.loop.fns fn with
  | some g =>
    if s.fnState fn = 3 && (s.fn fn).stopAt + 1000000 * g.stopMs ≤ s.now then .next (s.fnEnd fn g true) else .next s
  | none => .next s

/-- SAT_TIMEOUT (R263): a cell in RUN has held its output at a limit for SAT_FAULT_T. -/
def execSatTimeout (dt cell : Nat) (s : State) : Out :=
  let s := s.advance dt
  match s.cellCfg cell with
  | none => .next s
  | some x =>
    match (s.cell cell).clampAt, tfind s.man.loop.fns x.fn with
    | some t, some g =>
      if x.satFaultMs ≠ 0 && t + 1000000 * x.satFaultMs ≤ s.now then .next (s.fnFault x.fn g 3 cell) else .next s
    | _, _ => .next s

/-- Every injection stops: the mode changes (R255). -/
def State.injectionsStop (s : State) : State := s.man.loop.cells.foldl (fun (s : State) x => s.injStop x.1 4) s

end Sys2Proof.Machine
end

