-- ==== Sys2Proof/Machine/Microstep.lean ====
section
/-!
DEFINITION. Microstep channels (R304 to R326): the chopper, the quarter-sine table, the motion generator, commands, load-adaptive
current, stops and faults, and homing.
-/

namespace Sys2Proof.Machine

open Sys2Proof

def State.stepCh (s : State) (n : Nat) : StepSt := tget s.step.chs n {}

def State.putStep (s : State) (n : Nat) (c : StepSt) : State := { s with step := { s.step with chs := tput s.step.chs n c } }

/-- STEP_CH_STAT.STATE: 0 OFF, 1 HOLD, 2 MOVING, 3 HALTING, 4 HOMING, 5 FAULT (R325). -/
def State.stepState (s : State) (n : Nat) : Nat := s.get R.STEP_CH_STAT_STATE n

/-- 2^32: the unit of the position's fraction (R309). -/
def p32 : Int := 4294967296

/-- The position in whole microsteps, 32 bits (R309). -/
def StepSt.posInt (c : StepSt) : Int := signed32 ((c.pos / p32 % 4294967296).toNat)

/-! ### Table and references (R308, R309) -/

/-- sin x for x in units of 2^-60 up to pi/2, in the same units: the odd powers to x^25. -/
def sinFix (x : Int) : Int :=
  let one : Int := 2 ^ 60
  let x2 := x * x / one
  ((List.range 12).foldl (fun (acc : Int × Int) k =>
    let t := -(acc.2 * x2 / one) / (((2 * k + 2) * (2 * k + 3) : Nat) : Int)
    (acc.1 + t, t)) (x, x)).1

/-- T[i] = round(65,535 · sin(pi/2 · (i + 0.5) / 1,024)) (R308). -/
def quarterSine (i : Nat) : Int :=
  let halfPi : Int := 1811004864519280711
  (65535 * sinFix (halfPi * (2 * i + 1) / 2048) + 2 ^ 59) / 2 ^ 60

/-- The quadrant map (R308): the entries of coil A and coil B at an electrical address. -/
def coilEntries (a : Nat) : Int × Int :=
  let i := a % 1024
  match a / 1024 % 4 with
  | 0 => (quarterSine i, quarterSine (1023 - i))
  | 1 => (quarterSine (1023 - i), -quarterSine i)
  | 2 => (-quarterSine i, -quarterSine (1023 - i))
  | _ => (-quarterSine (1023 - i), quarterSine i)

/-- The electrical address (R309). -/
def StepSt.addr (c : StepSt) : Nat := ((c.posInt + c.eOfs) % 4096).toNat

/-- The reference of a coil in A (R308): I_amp × entry / 65,535. Coil 0 is A. -/
def StepSt.ref (c : StepSt) (coil : Nat) : Rat :=
  let e := coilEntries c.addr
  c.amp * ((if coil = 0 then e.1 else e.2) : Int) / 65535

/-! ### The chopper (R305 to R307) -/

def StepSt.coil (c : StepSt) (k : Nat) : CoilSt := if k = 0 then c.coilA else c.coilB

def StepSt.withCoil (c : StepSt) (k : Nat) (x : CoilSt) : StepSt := if k = 0 then { c with coilA := x } else { c with coilB := x }

/-- H = CHOP_HYST × I_RUN_MAX (R306). -/
def hystA (x : StepCfg) : Rat := x.hyst / 100 * x.iRunMax

/-- The thresholds hi and lo of a coil (R306). -/
def thresholds (x : StepCfg) (ref ofs : Rat) : Rat × Rat :=
  (absR ref + ofs + hystA x / 2, max 0 (absR ref + ofs - hystA x / 2))

/-- The offset after a chopper period (R306): times in s. -/
def chopOffset (x : StepCfg) (ref ofs tOn tOff : Rat) : Rat :=
  let h := hystA x
  let t := thresholds x ref ofs
  let td : Rat := ((60 + x.bridgeNs : Nat) : Rat) / 1000000000
  let centre := (t.1 + t.2) / 2 + (h / tOn - h / tOff) * td / 2
  clampTo (-h) h (ofs + (absR ref - centre) / 8)

/-- The bridge state that drives in the sign of the reference, or decays (R305, R306). -/
def driveState (ref : Rat) : Nat := if ref < 0 then 2 else 1

def decayState (x : StepCfg) (ref : Rat) : Nat := if x.fast then (if ref < 0 then 1 else 2) else 3

/-- A crossing (R306): the phase that ends lasted `cycles` of 400 MHz. A crossing within BLANK is ignored; one of hi within BLANK
counts towards SHORT (R307). [Log DEDUCED: 157] -/
def State.chopCross (s : State) (ch coil : Nat) (hi : Bool) (cycles : Nat) : State :=
  match tfind s.man.step ch with
  | none => s
  | some x =>
    let c := s.stepCh ch
    let k := c.coil coil
    let ref := c.ref coil
    if k.bridge = 0 || k.drive != hi then s
    else if 5 * cycles < 2 * x.blankNs then
      if hi && !k.early then s.putStep ch (c.withCoil coil { k with shorts := k.shorts + 1, early := true }) else s
    else if hi then
      let n := if k.early then k.shorts else 0
      s.putStep ch (c.withCoil coil { k with bridge := decayState x ref, drive := false, tOn := cycles, shorts := n, early := false })
    else
      let tOn : Rat := (k.tOn : Rat) / 400000000
      let tOff : Rat := (cycles : Rat) / 400000000
      let ofs := if k.tOn = 0 || cycles = 0 then k.ofs else chopOffset x ref k.ofs tOn tOff
      let k : CoilSt := { k with bridge := driveState ref, drive := true, driveAt := s.now, ofs := ofs, early := false }
      let s := s.putStep ch (c.withCoil coil k)
      if coil = 0 then s.setQ R.STEP_CH_OFS_OFS_A (ofs * 10000) ch else s.setQ R.STEP_CH_OFS_OFS_B (ofs * 10000) ch

/-- CHOPPER_CROSSING (R306). [Log DEDUCED: 157] -/
def execChopperCrossing (dt ch coil : Nat) (hi : Bool) (cycles : Nat) (s : State) : Out :=
  .next (((s.advance dt).sent 12).chopCross ch coil hi cycles)

/-- The coils are energised: each drives in the sign of its reference. -/
def State.coilsOn (s : State) (n : Nat) : State :=
  let c := s.stepCh n
  let on := fun (k : CoilSt) (ref : Rat) =>
    if k.bridge = 0 then { k with bridge := driveState ref, drive := true, driveAt := s.now, tOn := 0, shorts := 0, early := false }
    else k
  s.putStep n { c with coilA := on c.coilA (c.ref 0), coilB := on c.coilB (c.ref 1) }

/-- A reference that changed its sign turns the bridge with it (R306): a drive phase starts anew. -/
def State.coilsFollow (s : State) (n : Nat) (x : StepCfg) : State :=
  let c := s.stepCh n
  let turn := fun (k : CoilSt) (ref : Rat) =>
    if k.bridge = 0 then k
    else if k.drive then
      if k.bridge = driveState ref then k else { k with bridge := driveState ref, driveAt := s.now, early := false }
    else { k with bridge := decayState x ref }
  s.putStep n { c with coilA := turn c.coilA (c.ref 0), coilB := turn c.coilB (c.ref 1) }

/-! ### Stops, faults and position (R316, R317) -/

/-- Both coils go OFF, the profile is abandoned, the counter freezes and the position is lost (R316): 0 STOP, 1 fault, 2 SAFE.
[Log DESIGN CHOICE: 161; DEDUCED: 164] -/
def State.stepCut (s : State) (n cause new : Nat) : State :=
  let c := s.stepCh n
  let c := { c with v := 0, a := 0, kind := 0, rampAt := none, amp := 0, pos := (c.pos + 2 ^ 63) % 2 ^ 64 - 2 ^ 63, coilA := { c.coilA with bridge := 0, drive := false },
                    coilB := { c.coilB with bridge := 0, drive := false } }
  let s := ((s.putStep n c).set R.STEP_CH_STAT_STATE new n).set R.STEP_CH_STAT_HOME_PHASE 0 n
  let s := ((s.set R.STEP_CH_VEL_USTEP_S 0 n).set R.STEP_CH_CUR_I_AMP 0 n).set R.STEP_CH_STAT_AT_CEILING 0 n
  let s := (s.set R.STEP_CH_STAT_DEC_RAISED 0 n).set R.STEP_CH_STAT_HOMED 0 n
  if s.flag R.STEP_CH_STAT_POS_LOST n then s
  else
    ((s.set R.STEP_CH_STAT_POS_LOST 1 n).evt R.STEP_EVT_POS_LOST).record
      { code := 0x0F03, source := n, items := [(1, n), caseItem 0x0F03 cause] }

/-- A fault of a channel (R316, 0x0F01). [Log DEDUCED: 156] -/
def State.stepFault (s : State) (n cause : Nat) : State :=
  if s.stepState n = 5 then s
  else
    let s := (s.stepCut n 1 5).set R.STEP_CH_STAT_CAUSE cause n
    (s.evt R.STEP_EVT_FAULT).record { code := 0x0F01, source := n, items := [(1, n), (1, cause), sItem 4 (s.stepCh n).posInt], key := 2 }

/-- OPEN_COIL (R307): hi is not reached within T_ON_MAX, at a reference of at least 10 % of I_RUN_MAX. -/
def execOpenCoil (dt ch coil : Nat) (s : State) : Out :=
  let s := s.advance dt
  match tfind s.man.step ch with
  | some x =>
    let c := s.stepCh ch
    let k := c.coil coil
    if k.drive && k.bridge ≠ 0 && k.driveAt + 1000 * x.tOnUs ≤ s.now && decide (x.iRunMax / 10 ≤ absR (c.ref coil)) then
      .next (s.stepFault ch 1)
    else .next s
  | none => .next s

/-- SHORT_COIL (R307): hi within BLANK on three consecutive drive phases. -/
def execShortCoil (dt ch coil : Nat) (s : State) : Out :=
  let s := s.advance dt
  match tfind s.man.step ch with
  | some _ => if 3 ≤ ((s.stepCh ch).coil coil).shorts then .next (s.stepFault ch 2) else .next s
  | none => .next s

/-! ### Commands (R311 to R313, R317, R319, R322) -/

/-- The channel's coils take current: from OFF the amplitude ramps to I_HOLD over 10 ms before any motion (R317). -/
def State.stepEnergise (s : State) (n : Nat) : State :=
  if s.stepState n = 0 then
    (s.putStep n { s.stepCh n with rampAt := some s.now, amp := 0 }).coilsOn n
  else s

/-- The channel starts to move: STATE 2 or 4. -/
def State.stepStart (s : State) (n st : Nat) (upd : StepSt → StepSt) : State :=
  let s := s.stepEnergise n
  (s.putStep n (upd { s.stepCh n with idle := false })).set R.STEP_CH_STAT_STATE st n

/-- A channel comes to rest at D_MAX (R313). -/
def State.stepHaltNow (s : State) (n : Nat) : State :=
  if s.stepState n = 2 || s.stepState n = 4 then (s.set R.STEP_CH_STAT_STATE 3 n).set R.STEP_CH_STAT_HOME_PHASE 0 n else s

/-- A command takes effect or is refused (R312, R316, R317, R322): 2 DONE, 3 REFUSED-MOVING, 4 REFUSED-STATE, 6 REFUSED-RANGE.
[Log DESIGN CHOICE: 161; DEDUCED: 164] -/
def State.stepDo (s : State) (n : Nat) (x : StepCfg) (cmd : Nat) (arg : Int) (speed scale : Rat) (byPoint : Bool) : State × Nat :=
  let st := s.stepState n
  let c := s.stepCh n
  let moving := st = 2 || st = 3 || st = 4
  let cut := c.stopTick = some s.tick
  let lost := x.requireHome && !s.flag R.STEP_CH_STAT_HOMED n
  if s.mode < 2 || 4 < s.mode then (s, 4)
  else
    match cmd with
    | 1 =>
      if st = 5 || cut || lost then (s, 4)
      else if moving then (s, 3)
      else if arg < x.posMin || x.posMax < arg then (s, 6)
      else
        ((s.stepStart n 2 fun c => { c with kind := 1, target := arg, speed := min x.vMax (absR speed), scale := scale, byPoint := byPoint }).setI
          R.STEP_CH_TGT_USTEP arg n, 2)
    | 2 =>
      if st = 5 || cut || lost then (s, 4)
      else if moving && !(st = 2 && c.kind = 2) then (s, 3)
      else
        let v := clampTo (-x.vMax) x.vMax (arg : Rat)
        let tgt := if v < 0 then x.posMin else x.posMax
        ((s.stepStart n 2 fun c => { c with kind := 2, target := tgt, speed := v, scale := scale, byPoint := byPoint }).setI
          R.STEP_CH_TGT_USTEP tgt n, 2)
    | 3 => (s.stepHaltNow n, 2)
    | 4 =>
      let s := s.putStep n { c with stopTick := some s.tick }
      if st = 5 then (s, 2) else (s.stepCut n 0 0, 2)
    | 5 =>
      if st = 5 || cut then (s, 4)
      else if moving then (s, 3)
      else
        ((s.stepStart n 4 fun c => { c with kind := 0, seekFrom := c.pos / p32, chatter := 0, scale := 1, byPoint := byPoint }).set
          R.STEP_CH_STAT_HOME_PHASE 1 n, 2)
    | 6 =>
      if st = 5 then
        let s := (s.set R.STEP_CH_STAT_STATE 0 n).set R.STEP_CH_STAT_CAUSE 0 n
        let s := if s.flag R.STEP_CH_STAT_STALL n then
            (s.set R.STEP_CH_STAT_STALL 0 n).record
              { code := 0x0F02, source := n, key := 1, items := [(1, n), (2, s.get R.STEP_CH_CUR_I_AMP n), (1, min 255 c.angle)] }
          else s
        (s.record { code := 0x0F01, source := n, items := [(1, n), (1, 0), sItem 4 c.posInt], key := 2 }, 2)
      else (s, 2)
    | _ => (s, 2)

/-- The number of a source in 0x0F06: 0 a command point, 1 PCIe, 2 SPI. [Log DEDUCED: 160] -/
def stepSrc : CmdSrc → Nat
  | .point _ => 0
  | .host p => 1 + p.code

/-- A refusal (0x0F06). [Log DEDUCED: 158; DESIGN CHOICE: 161] -/
def State.stepRefused (s : State) (n cmd res src : Nat) (role : Role) (keyId : Nat) : State :=
  (s.evt R.STEP_EVT_CMD_REFUSED).record
    { code := 0x0F06, source := n, role := role, keyId := keyId,
      items := [(1, n), (1, cmd), (1, res), caseItem 0x0F06 src, (1, role.code), (2, keyId)] }

/-- STEP_CMD_STAT reports a result (R311). -/
def State.stepResult (s : State) (n cmd tag res src keyId : Nat) : State :=
  let s := (s.set R.STEP_CMD_STAT_RESULT res).set R.STEP_CMD_STAT_TAG tag
  if 3 ≤ res then s.stepRefused n cmd res src .installer keyId else s

/-- A command of the machine function's points, at the tick boundary at which the buffer swaps, with TARGET, V_LIM and A_LIM of that
buffer (R311). [Log DEDUCED: 159] -/
def State.stepPoint (s : State) (n : Nat) (x : StepCfg) (cmd idx : Nat) : State :=
  if x.cmd ≠ some idx then s
  else
    let v := match x.vLim with | some i => (s.ptRead i).1 | none => x.vMax
    let a := match x.aLim with | some i => (s.ptRead i).1 / x.aMax | none => 1
    let arg := if cmd = 2 then v.floor else match x.target with | some i => ((s.ptRead i).1).floor | none => 0
    let r := s.stepDo n x cmd arg v (if 0 < a then min 1 a else 1) true
    if 3 ≤ r.2 then r.1.stepRefused n cmd r.2 0 .device 0 else r.1

/-- An Installer command is judged at acceptance (R311). -/
def State.stepHost (s : State) (p : Port) (n cmd tag : Nat) (arg : Int) : State :=
  s.withRole p [.installer] 0xE028 fun s =>
    let n := n % 8
    let tag := tag % 256
    let k := s.role.keyId
    let s := (((s.set R.STEP_CMD_CMD cmd).set R.STEP_CMD_CH n).set R.STEP_CMD_TAG tag).setI R.STEP_CMD_ARG_ARG arg
    let src := 1 + p.code
    if s.follows || (s.mode = 1 && s.get R.MODE_STAT_PHASE = 9) || (s.mode ≠ 1 && !s.isActive) then s.stepResult n cmd tag 7 src k
    else
      match tfind s.man.step n with
      | none => s.stepResult n cmd tag 4 src k
      | some x =>
        if s.mode ≠ 2 then s.stepResult n cmd tag 4 src k
        else if s.fnState x.fn ≠ 0 then s.stepResult n cmd tag 5 src k
        else
          let w : StepCmd := { cmd := cmd, ch := n, tag := tag, arg := arg, port := p, keyId := k, at_ := s.now }
          ({ s with step := { s.step with cmds := s.step.cmds ++ [w] } }).stepResult n cmd tag 1 src k

/-- A command from either source. [Log DEDUCED: 160] -/
def State.stepCmd (s : State) (cmd : Nat) (src : CmdSrc) (n tag : Nat) (arg : Int) : State :=
  match src with
  | .host p => s.stepHost p n cmd tag arg
  | .point i => match tfind s.man.step n with | some x => s.stepPoint n x cmd i | none => s

/-- STEP_MOVE (R311, R312). -/
def execStepMove (dt : Nat) (src : CmdSrc) (ch tag : Nat) (target : Int) (s : State) : Out :=
  .next ((s.advance dt).stepCmd 1 src ch tag target)

/-- STEP_VELOCITY (R311, R312). [Log DEDUCED: 158] -/
def execStepVelocity (dt : Nat) (src : CmdSrc) (ch tag : Nat) (speed : Int) (s : State) : Out :=
  .next ((s.advance dt).stepCmd 2 src ch tag speed)

/-- STEP_HALT (R313). -/
def execStepHalt (dt : Nat) (src : CmdSrc) (ch tag : Nat) (s : State) : Out := .next ((s.advance dt).stepCmd 3 src ch tag 0)

/-- STEP_STOP (R316). -/
def execStepStop (dt : Nat) (src : CmdSrc) (ch tag : Nat) (s : State) : Out := .next ((s.advance dt).stepCmd 4 src ch tag 0)

/-- STEP_HOME (R319). -/
def execStepHome (dt : Nat) (src : CmdSrc) (ch tag : Nat) (s : State) : Out := .next ((s.advance dt).stepCmd 5 src ch tag 0)

/-- STEP_RESET (R316). [Log DEDUCED: 156] -/
def execStepReset (dt : Nat) (src : CmdSrc) (ch tag : Nat) (s : State) : Out := .next ((s.advance dt).stepCmd 6 src ch tag 0)

/-- An Installer command at its frame boundary (R311). -/
def State.stepDue (s : State) (w : StepCmd) : State :=
  match tfind s.man.step w.ch with
  | none => s
  | some x =>
    if s.mode ≠ 2 then s.stepResult w.ch w.cmd w.tag 4 (1 + w.port.code) w.keyId
    else if s.fnState x.fn ≠ 0 then s.stepResult w.ch w.cmd w.tag 5 (1 + w.port.code) w.keyId
    else
      let r := s.stepDo w.ch x w.cmd w.arg x.vMax 1 false
      r.1.stepResult w.ch w.cmd w.tag r.2 (1 + w.port.code) w.keyId

/-- A point of a moving channel reads other than GOOD or UNCERTAIN (R313): HALT, recorded. [Log DEDUCED: 159] -/
def State.stepInputs (s : State) (n : Nat) (x : StepCfg) : State :=
  let c := s.stepCh n
  if !c.byPoint || !(s.stepState n = 2 || s.stepState n = 4) then s
  else
    let bad := [x.cmd, x.target, x.vLim].filterMap fun p => match p with
      | some i => if qUsable (s.ptQuality i) then none else some i
      | none => none
    match bad with
    | i :: _ =>
      ((s.stepHaltNow n).evt R.STEP_EVT_INPUT_HALT).record
        { code := 0x0F05, source := n, items := [(1, n), (3, i), (1, (s.ptQuality i).code)] }
    | [] =>
      let v := match x.vLim with | some i => (s.ptRead i).1 | none => c.speed
      let a := match x.aLim with | some i => (s.ptRead i).1 / x.aMax | none => c.scale
      let v := if c.kind = 2 then clampTo (-x.vMax) x.vMax v else min x.vMax (absR v)
      s.putStep n { c with speed := v, scale := if 0 < a then min 1 a else 1,
                           target := if c.kind = 2 then (if v < 0 then x.posMin else x.posMax) else c.target }

/-- The channels at a tick boundary: due Installer commands, STOP first (R311, R317), and the command points (R312, R313). -/
def State.stepTick (s : State) : State :=
  let due := s.step.cmds.filter fun w => s.tick % 1000 = 0 && decide (w.at_ + 1000000 ≤ s.now)
  let s : State := { s with step := { s.step with cmds := s.step.cmds.filter fun w => w ∉ due } }
  let s := ((due.filter fun w => w.cmd = 4) ++ (due.filter fun w => w.cmd ≠ 4)).foldl State.stepDue s
  s.man.step.foldl (fun (s : State) p => s.stepInputs p.1 p.2) s

/-- SAFE entry (R322). -/
def State.stepSafe (s : State) : State :=
  s.man.step.foldl (fun (s : State) p =>
    let st := s.stepState p.1
    if p.2.safeHold then s.stepHaltNow p.1 else if st = 0 || st = 5 then s else s.stepCut p.1 2 0) s

/-! ### Motion (R309, R312, R319) -/

/-- A step of 1 µs towards a target `dist` microsteps away, in the direction of the target: the new speed, the acceleration used, and
whether it exceeds D_MAX. Braking begins where the stopping distance reaches the target. [Log DESIGN CHOICE: 155] -/
def planStep (w dist vLim a d : Rat) : Rat × Rat :=
  let t : Rat := 1 / 1000000
  if w < 0 then (min 0 (w + d * t), d)
  else if dist ≤ w * w / (2 * d) + w * t then
    let need := if dist = 0 then d else w * w / (2 * dist)
    (max 0 (w - need * t), -need)
  else if w < vLim then (min vLim (w + a * t), a)
  else (max vLim (w - d * t), -d)

/-- The acceleration under S-CURVE moves by at most J_MAX (R312). [Log DESIGN CHOICE: 155] -/
def jerkTo (x : StepCfg) (old want : Rat) : Rat :=
  if x.sCurve then let j := x.jMax / 1000000; old + clampTo (-j) j (want - old) else want

/-- The channel at rest in HOLD (R314). -/
def State.stepRest (s : State) (n : Nat) : State :=
  let s := s.putStep n { s.stepCh n with v := 0, a := 0, kind := 0, restAt := s.now, idle := true }
  (s.set R.STEP_CH_STAT_STATE 1 n).set R.STEP_CH_STAT_DEC_RAISED 0 n

/-- One update towards a target with a speed limit (R309, R312): a MOVE never passes its target. [Log DESIGN CHOICE: 155] -/
def State.stepToward (s : State) (n : Nat) (x : StepCfg) (target : Int) (vLim : Rat) : State × Bool :=
  let c := s.stepCh n
  let d := x.dMax * c.scale
  let gap : Rat := ((target * p32 - c.pos : Int) : Rat) / (p32 : Rat)
  let dir : Rat := if gap < 0 then -1 else 1
  let w := c.v * dir
  let r := planStep w (absR gap) vLim (x.aMax * c.scale) d
  let acc := jerkTo x (c.a * dir) r.2
  let w' := if x.sCurve then (if 0 ≤ w then max 0 (w + acc / 1000000) else w + acc / 1000000) else r.1
  let step := w' / 1000000
  let raised := c.kind = 1 && d < -r.2 && 0 ≤ w
  let s := if raised && !s.flag R.STEP_CH_STAT_DEC_RAISED n then
      (s.set R.STEP_CH_STAT_DEC_RAISED 1 n).record
        { code := 0x0F07, source := n, items := [(1, n), measItem 0x0F07 (-r.2)], key := 1 }
    else s
  if absR gap ≤ step then (s.putStep n { c with pos := target * p32, v := 0, a := 0 }, true)
  else (s.putStep n { c with pos := c.pos + shownAt 0x309 (dir * step * (p32 : Rat)), v := w' * dir, a := acc * dir }, false)

/-- One update that brakes to rest (R313, R319). [Log DESIGN CHOICE: 155] -/
def State.stepBrake (s : State) (n : Nat) (x : StepCfg) : State × Bool :=
  let c := s.stepCh n
  let dir : Rat := if c.v < 0 then -1 else 1
  let acc := jerkTo x (c.a * dir) (-x.dMax)
  let w := max 0 (absR c.v + acc / 1000000)
  let s := s.putStep n { c with pos := c.pos + shownAt 0x309 (dir * w / 1000000 * (p32 : Rat)), v := w * dir, a := if w = 0 then 0 else acc * dir }
  (s, w = 0)

/-- Homing's update (R319 to R321). -/
def State.homeStep (s : State) (n : Nat) (x : StepCfg) : State :=
  let c := s.stepCh n
  let dir : Int := if x.homePosDir then 1 else -1
  match s.get R.STEP_CH_STAT_HOME_PHASE n with
  | 1 =>
    let s := (s.stepToward n x (c.seekFrom + dir * (x.homeDist + 2 ^ 31)) x.homeV).1
    if x.homeDist ≤ ((s.stepCh n).pos / p32 - c.seekFrom).natAbs then s.stepFault n 5 else s
  | 2 =>
    let r := s.stepBrake n x
    if r.2 then r.1.set R.STEP_CH_STAT_HOME_PHASE 3 n else r.1
  | 3 => (s.stepToward n x (c.latch - dir * x.backoff) x.homeV).1
  | _ => s

/-- The switch that serves as home switch (R310). -/
def homeLevel (x : StepCfg) (l : SwLevels) : Bool := match x.homeSw with | 1 => l.neg | 2 => l.pos | _ => l.home

/-- The sampled switches of an update (R318, R320): a change begins a new interval, a home switch's with the position there; edges
that the home latch ignores are counted. [Log DEDUCED: 162] -/
def State.stepSwitches (s : State) (n : Nat) (x : StepCfg) (l : SwLevels) : State :=
  let c := s.stepCh n
  let ignored := decide (2 ≤ s.get R.STEP_CH_STAT_HOME_PHASE n)
  let c := if homeLevel x l = homeLevel x c.sw then c
    else { c with homeAt := s.now, homePosAt := c.pos / p32, chatter := if ignored then c.chatter + 1 else c.chatter }
  let c := if l.neg = c.sw.neg then c else { c with negAt := s.now }
  let c := if l.pos = c.sw.pos then c else { c with posAt := s.now }
  s.putStep n { c with sw := l }

/-- A load angle at a full step (R314, R315). [Log DEDUCED: 162] -/
def State.stepAngle (s : State) (n : Nat) (x : StepCfg) (angle : Nat) : State :=
  let c := s.stepCh n
  if absR c.v < x.laVmin * 1024 then s
  else
    let inc := x.iInc / 100 * x.iRunMax
    let amp := if x.laSet + 5 < angle then c.amp + inc else if angle + 5 < x.laSet then c.amp - inc / 4 else c.amp
    let amp := clampTo x.iRunMin x.iRunMax amp
    let up := decide (c.angle < angle)
    let c := { c with amp := amp, angle := angle, rises := if up then c.rises + 1 else 0, noRise := if up then 0 else c.noRise + 1 }
    let s := (s.putStep n c).setSat R.STEP_CH_CUR_LOAD_ANGLE angle n
    let s := (s.setU R.STEP_CH_CUR_I_AMP (amp * 10000) n).setB R.STEP_CH_STAT_AT_CEILING (amp = x.iRunMax) n
    let items := [(1, n), (2, s.get R.STEP_CH_CUR_I_AMP n), (1, min 255 angle)]
    if s.flag R.STEP_CH_STAT_STALL n then
      if x.stallSteps ≤ c.noRise then
        (s.set R.STEP_CH_STAT_STALL 0 n).record { code := 0x0F02, source := n, items := items, key := 1 }
      else s
    else if amp = x.iRunMax && (x.stallSteps ≤ c.rises || 90 < angle) then
      let s := ((s.set R.STEP_CH_STAT_STALL 1 n).evt R.STEP_EVT_STALL).record { code := 0x0F02, source := n, items := items, key := 1 }
      if x.stallStop then s.stepFault n 3 else s
    else s

/-- The registers of an update (R325). -/
def State.stepRegs (s : State) (n : Nat) : State :=
  let c := s.stepCh n
  (((s.setI R.STEP_CH_POS_USTEP c.posInt n).setQ R.STEP_CH_VEL_USTEP_S c.v n).setU R.STEP_CH_CUR_I_AMP (c.amp * 10000) n)

/-- A limit in the direction of motion outside homing is a fault (R318). -/
def State.stepLimits (s : State) (n : Nat) : State :=
  let c := s.stepCh n
  let st := s.stepState n
  if (st = 2 || st = 3) && ((decide (0 < c.v) && s.flag R.STEP_CH_STAT_LIM_POS n) || (decide (c.v < 0) && s.flag R.STEP_CH_STAT_LIM_NEG n)) then
    s.stepFault n 4
  else s

/-- The amplitude in motion (R314, R317): ramped after OFF; I_RUN_MAX below LA_VMIN. -/
def State.stepAmp (s : State) (n : Nat) (x : StepCfg) : State × Bool :=
  let c := s.stepCh n
  match c.rampAt with
  | some t =>
    let e := s.now - t
    if e < 10000000 then (s.putStep n { c with amp := x.iHold * (e : Rat) / 10000000 }, false)
    else (s.putStep n { c with amp := x.iHold, rampAt := none }, true)
  | none =>
    if absR c.v < x.laVmin * 1024 then
      ((s.putStep n { c with amp := x.iRunMax }).set R.STEP_CH_STAT_AT_CEILING 1 n, true)
    else (s, true)

/-- One channel's update (R309). -/
def State.stepUpdate (s : State) (n : Nat) (x : StepCfg) (l : SwLevels) (angle : Option Nat) : State :=
  let s := s.stepSwitches n x l
  let st := s.stepState n
  if st = 2 || st = 3 || st = 4 then
    let r := s.stepAmp n x
    let s := r.1
    if !r.2 then s.stepRegs n
    else
      let c := s.stepCh n
      let s := match st with
        | 2 =>
          let m := s.stepToward n x c.target (absR c.speed)
          if m.2 || (c.kind = 2 && c.speed = 0 && (m.1.stepCh n).v = 0) then m.1.stepRest n else m.1
        | 3 => let m := s.stepBrake n x; if m.2 then m.1.stepRest n else m.1
        | _ => s.homeStep n x
      let s := match angle with | some a => s.stepAngle n x a | none => s
      ((s.coilsFollow n x).stepLimits n).stepRegs n
  else s.stepRegs n

/-- GENERATOR_UPDATE (R309): every 1 µs, in READY, STATION and PASSAGE, and in SAFE; `switches` and `angles` by channel.
[Log DEDUCED: 162] -/
def execGeneratorUpdate (dt : Nat) (switches : List (Nat × SwLevels)) (angles : List (Nat × Nat)) (s : State) : Out :=
  let s := s.advance dt
  if s.mode < 2 then .next s
  else
    .next (s.man.step.foldl (fun (s : State) p =>
      s.stepUpdate p.1 p.2 ((tfind switches p.1).getD (s.stepCh p.1).sw) (tfind angles p.1)) s)

/-- HOLD_CURRENT_REDUCE (R314): HOLD_DELAY after the motion ended. -/
def execHoldCurrentReduce (dt ch : Nat) (s : State) : Out :=
  let s := s.advance dt
  match tfind s.man.step ch with
  | some x =>
    let c := s.stepCh ch
    if s.stepState ch = 1 && c.idle && c.restAt + 1000000 * x.holdMs ≤ s.now then
      let s := (s.putStep ch { c with amp := x.iHold, idle := false }).set R.STEP_CH_STAT_AT_CEILING 0 ch
      .next (s.setU R.STEP_CH_CUR_I_AMP (x.iHold * 10000) ch)
    else .next s
  | none => .next s

/-- LIMIT_SWITCH_DEBOUNCED (R318, R321): the switch has held its level for LIM_DEB. -/
def execLimitSwitchDebounced (dt ch : Nat) (pos : Bool) (s : State) : Out :=
  let s := s.advance dt
  match tfind s.man.step ch with
  | none => .next s
  | some x =>
    let c := s.stepCh ch
    let since := if pos then c.posAt else c.negAt
    if s.now < since + 1000 * x.limDebUs then .next s
    else
      let level := if pos then c.sw.pos else c.sw.neg
      let s := s.setB (if pos then R.STEP_CH_STAT_LIM_POS else R.STEP_CH_STAT_LIM_NEG) level ch
      let isHome := (pos && x.homeSw = 2) || (!pos && x.homeSw = 1)
      if level && s.stepState ch = 4 && !isHome then .next (s.stepFault ch 6) else .next (s.stepLimits ch)

/-- HOME_SWITCH_DEBOUNCED (R319, R320): the home switch has held its level for HOME_DEB; in SEEK an active one latches the position
at the update that began the interval, and braking begins. -/
def execHomeSwitchDebounced (dt ch : Nat) (s : State) : Out :=
  let s := s.advance dt
  match tfind s.man.step ch with
  | none => .next s
  | some x =>
    let c := s.stepCh ch
    let level := homeLevel x c.sw
    let was := s.flag R.STEP_CH_STAT_HOME_IN ch
    if s.now < c.homeAt + 1000 * x.homeDebUs then .next s
    else
      let s := s.setB R.STEP_CH_STAT_HOME_IN level ch
      if level && !was && s.stepState ch = 4 && s.get R.STEP_CH_STAT_HOME_PHASE ch = 1 then
        let s := (s.putStep ch { c with latch := c.homePosAt, chatter := 0 }).setI R.STEP_CH_LATCH_USTEP c.homePosAt ch
        .next (s.set R.STEP_CH_STAT_HOME_PHASE 2 ch)
      else .next s

/-- HOMING_BACKOFF_DONE (R319, R320): the position is redefined at an unchanged address, or the switch still reads active.
[Log DEDUCED: 163] -/
def execHomingBackoffDone (dt ch : Nat) (s : State) : Out :=
  let s := s.advance dt
  match tfind s.man.step ch with
  | none => .next s
  | some x =>
    let c := s.stepCh ch
    let dir : Int := if x.homePosDir then 1 else -1
    if s.stepState ch ≠ 4 || s.get R.STEP_CH_STAT_HOME_PHASE ch ≠ 3 || c.v ≠ 0 || c.pos ≠ (c.latch - dir * x.backoff) * p32 then .next s
    else
      if homeLevel x c.sw then .next (s.stepFault ch 7)
      else
        let new := x.homePos - dir * x.backoff
        let s := s.putStep ch { c with pos := new * p32, eOfs := (c.eOfs + c.posInt - new) % 4096 }
        let s := (s.set R.STEP_CH_STAT_HOME_PHASE 0 ch).set R.STEP_CH_STAT_HOMED 1 ch
        let s := ((s.set R.STEP_CH_STAT_POS_LOST 0 ch).stepRest ch).stepRegs ch
        .next ((s.evt R.STEP_EVT_HOMED).record
          { code := 0x0F04, source := ch, items := [(1, ch), sItem 4 c.latch, (2, min 65535 c.chatter)], key := 1 })

/-- The points of a frame boundary (R324). -/
def State.stepFrame (s : State) : State :=
  s.man.step.foldl (fun (s : State) p =>
    let n := p.1
    let c := s.stepCh n
    let q := if s.flag R.STEP_CH_STAT_POS_LOST n || (p.2.requireHome && !s.flag R.STEP_CH_STAT_HOMED n) then Quality.uncertain else .good
    let flags := s.get R.STEP_CH_STAT_HOMED n + 2 * s.get R.STEP_CH_STAT_POS_LOST n + 4 * s.get R.STEP_CH_STAT_STALL n +
      8 * s.get R.STEP_CH_STAT_DEC_RAISED n + 16 * s.get R.STEP_CH_STAT_AT_CEILING n
    let pm := pmOf (s.ns - 1000)
    let base := addr0 6 n 0 0
    let s := (s.putAt base (bits64 c.posInt) pm q).putAt (base + 1) (bits64 (shownAt 0x324 c.v)) pm q
    let s := (s.putAt (base + 2) (s.stepState n) pm .good).putAt (base + 3) flags pm .good
    (s.putAt (base + 4) (q32 c.amp) pm .good).putAt (base + 5) (q32 (c.angle : Rat)) pm .good) s

end Sys2Proof.Machine
end

