-- ==== Sys2Proof/Machine/Configure.lean ====
section
/-!
DEFINITION. What a new MUSTER keeps, and what an accepted manifest sets: points, pigeonholes, interrupt routes, nodes, trigger
units, and each block's configuration registers.
-/

namespace Sys2Proof.Machine

open Sys2Proof

/-- What the always-on domain keeps through a reset of the other domains. -/
def State.keepRetained (s old : State) : State :=
  let s := (s.set R.PWR_WAKE_SRC_CAN (old.get R.PWR_WAKE_SRC_CAN)).set R.PWR_WAKE_SRC_WAKE_IN (old.get R.PWR_WAKE_SRC_WAKE_IN)
  let s := (s.set R.PWR_WAKE_SRC_RTC (old.get R.PWR_WAKE_SRC_RTC)).set R.PWR_WAKE_SRC_SAFE_IN (old.get R.PWR_WAKE_SRC_SAFE_IN)
  let s := (s.set R.PWR_WAKE_SRC_HOST (old.get R.PWR_WAKE_SRC_HOST)).set R.PWR_WAKE_SRC_POR (old.get R.PWR_WAKE_SRC_POR)
  let s := s.set R.PWR_RTC_ALARM_SEC (old.get R.PWR_RTC_ALARM_SEC)
  let s := (s.set R.PWR_WAKE_EN_CAN (old.get R.PWR_WAKE_EN_CAN)).set R.PWR_WAKE_EN_WAKE_IN (old.get R.PWR_WAKE_EN_WAKE_IN)
  let s := (s.set R.PWR_WAKE_EN_WAKE_POL (old.get R.PWR_WAKE_EN_WAKE_POL)).set R.PWR_WAKE_EN_RTC (old.get R.PWR_WAKE_EN_RTC)
  let s := (s.set R.PWR_WAKE_EN_SAFE_IN (old.get R.PWR_WAKE_EN_SAFE_IN)).set R.PWR_WAKE_EN_HOST (old.get R.PWR_WAKE_EN_HOST)
  { s.set R.PWR_WAKE_SRC_THERMAL_OFF (old.get R.PWR_WAKE_SRC_THERMAL_OFF) with gnssRet := old.gnssRet }

/-- The notes of a reset for the recorder's start. -/
def State.porNoted (s : State) (por : Bool) : State := { s with mus := { s.mus with porReset := por } }

/-- The safety island runs from PLL lock, on an -SE device. -/
def State.islandStart (s : State) : State := s.islStart

/-- The island enters LOCKOUT at the end of RUN-IN. -/
def State.islandRunInEnd (s : State) : State := s.islMusterEnd

/-- An internal fault of the island: permanent lock-out. -/
def State.islandPermanent (s : State) (cause : Nat) : State := s.islFault cause 0xFF

/-- The NVM temperature window is open (R384). [Log DEDUCED: 195] -/
def State.nvmOpen (s : State) : Bool := s.flag R.THRM_STAT_NVM_OPEN && s.thrm.shut.isNone

/-- What SAFE keeps and stops (R43, R57): cells take their safe laws, functions SAFE-LAW, microstep channels stop, injections end, the
helm and its waiting commands stop, and no solve of the main path goes on. -/
def State.safeContent (s : State) : State :=
  let s := ((((s.helmPreempt).injectionsStop).fnsSafe).cellsSafe).stepSafe
  let s : State := { s with
    helm := { s.helm with blend := none, buildDue := false, solving := none, lost := false }
    alloc := { s.alloc with bufOk := false, solving := none, consSolving := none }
    est := { s.est with running := none } }
  let s := ((s.set R.HELM_STAT_LAW 0).set R.HELM_STAT_HELD 0).set R.HELM_STAT_RUNNING 0
  (s.set R.HELM_STAT_BLEND 0).set R.MODE_STAT_BLEND 0

/-- What a time-trigger unit's target does when it fires (R115): a converter burst starts, a GPIO ball gives an edge, a capture unit
starts, or the PWM counters synchronise. -/
def State.trigTarget (s : State) (c : TrigCfg) : State :=
  match c.target with
  | 0 => s.sarTrigger c.idx
  | 1 => { s with gpioEdge := tput s.gpioEdge c.idx s.now }
  | 2 => s.capTrigger c.idx 2
  | _ => { s with loop := { s.loop with pwmSyncAt := s.now } }

/-- Class H is shed, or delayed by the Forecaster (R387, R448). [Log DEDUCED: 208] -/
def State.classHShed (s : State) : Bool := s.flag R.PWR_FC_STAT_SHED_H

/-- The retained GNSS data is discarded (R20, R132, R135): reason 0 ECC, 1 cold command, 2 invalid check. [Log DESIGN CHOICE: 66] -/
def State.gnssDiscard (s : State) (reason : Nat) (role : Role := .device) (keyId : Nat := 0) : State :=
  ({ s with gnssRet := none }.evt R.GNSS_EVT_RETAIN_BAD).record
    { code := 0x0606, role := role, keyId := keyId, items := [caseItem 0x0606 reason] }

/-- A sleeping receiver wakes at once (R131): the GNSS domain powers up, and a start follows. Causes of 0x0604: 0 policy,
1 Operator, 2 refused, 3 refresh, 4 mode command, 5 SAFE. [Log DESIGN CHOICE: 66] -/
def State.gnssWake (s : State) (cause : Nat) (role : Role := .device) (keyId : Nat := 0) : State :=
  if s.get R.GNSS_STAT_STATE ≠ 4 then s
  else
    let s : State := { (s.set R.GNSS_STAT_STATE 1).inc R.GNSS_TTFF_WAKES with
      gnss := { s.gnss with sleepReq := false, poweredAt := s.now, firstDone := false, solsRun := 0 } }
    (s.evt R.GNSS_EVT_WOKE).record { code := 0x0604, role := role, keyId := keyId, items := [caseItem 0x0604 cause] }

/-! ### The registers that the manifest fills -/

/-- Pigeonholes, interrupt routes and the point count (R464, R467, R476). -/
def State.hostConfigure (s : State) : State :=
  let s := s.set R.DEV_PT_STAT_N s.man.points.length
  let s := s.man.queues.foldl (fun (s : State) q =>
    let s := ((s.set R.PGN_CFG_RING_LOG2 q.ringLog2 q.n).setB R.PGN_CFG_LOC q.dram q.n).setB R.PGN_CFG_POLICY q.dropOld q.n
    ((s.setB R.PGN_CFG_HOST_CONSUMER q.hostConsumer q.n).setB R.PGN_CFG_HOST_PRODUCER q.hostProducer q.n).set R.PGN_CFG_FUNC q.func q.n) s
  let s := (List.range 6).foldl (fun (s : State) n =>
    ((s.set R.PGN_CFG_RING_LOG2 (if n ≤ 1 then 8 else 6) n).set R.PGN_CFG_POLICY 1 n).set R.PGN_CFG_HOST_CONSUMER 1 n) s
  s.man.irqRoutes.foldl (fun (s : State) r => (s.set R.IRQ_ROUTE_VECTOR r.2 r.1).set R.IRQ_ROUTE_EN 1 r.1) s

/-- PTP roles and time-trigger units (R113, R115, R117). -/
def State.timeConfigure (s : State) : State :=
  let p := fun (n : Nat) => s.man.ptpRole.getD n 0
  let s := ((s.set R.TIME_PTP_ROLE0 (p 0)).set R.TIME_PTP_ROLE1 (p 1)).set R.TIME_PTP_ROLE2 (p 2)
  let s := s.set R.TIME_PTP_ROLE3 (p 3)
  s.man.trig.zipIdx.foldl (fun (s : State) t =>
    let s := ((s.set R.TIME_TRIG_CFG_MODE t.1.mode t.2).set R.TIME_TRIG_CFG_TARGET t.1.target t.2).set R.TIME_TRIG_CFG_TARGET_IDX t.1.idx t.2
    (s.set R.TIME_TRIG_PER_PERIOD t.1.period t.2).set R.TIME_TRIG_PH_PHASE t.1.phase t.2) s

/-- The POWER section (R374, R380, R384, R388, R393, R394). -/
def State.powerConfigure (s : State) : State :=
  let c := s.man.power
  let s := (s.set R.PWR_LAT_TOL_US c.latTol).set R.PWR_STAT_PERMITTED
    (if c.latTol < 10 then 0 else if c.latTol < 250 then 1 else if c.latTol < 6000 then 2 else 3)
  let s := ((s.set R.PWR_WAKE_EN_CAN c.wakeEn).setB R.PWR_WAKE_EN_WAKE_IN (c.wakeEn.testBit 8)).setB R.PWR_WAKE_EN_WAKE_POL (c.wakeEn.testBit 9)
  let s := ((s.setB R.PWR_WAKE_EN_RTC (c.wakeEn.testBit 10)).setB R.PWR_WAKE_EN_SAFE_IN (c.wakeEn.testBit 11)).setB R.PWR_WAKE_EN_HOST (c.wakeEn.testBit 12)
  let s := (s.setB R.THRM_STAT_POLICY c.hotPolicy).set R.THRM_STAT_SOFT_C c.softLimit
  c.k.zipIdx.foldl (fun (s : State) k => s.setU R.PWR_FC_CLS_K_MW (k.1 * 1000) k.2) s

/-- Converters (R284). -/
def State.adcConfigure (s : State) : State :=
  let c := s.man.adc
  let d := fun (n : Nat) => c.bsDly.getD n 0
  let s := ((s.set R.ADC_CFG_DEC_OFS c.decOfs).set R.ADC_CFG_BS_RATE c.bsRate).set R.ADC_BS_DLY_DLY0 (d 0)
  let s := ((s.set R.ADC_BS_DLY_DLY1 (d 1)).set R.ADC_BS_DLY_DLY2 (d 2)).set R.ADC_BS_DLY_DLY3 (d 3)
  c.chs.foldl (fun (s : State) x =>
    let n := x.1
    let k := x.2
    let s := ((s.set R.ADC_CH_CFG_KIND k.kind n).set R.ADC_CH_CFG_PRESET (if k.kind = 2 then 0 else k.preset) n).setB R.ADC_CH_CFG_RANGE
      (k.kind = 0 && k.high) n
    let s := if k.kind = 2 then ((s.set R.ADC_CH_CFG_AVG_LOG2 k.avgLog2 n).setB R.ADC_CH_CFG_TRIG k.unit.isSome n).set R.ADC_CH_CFG_UNIT
      (k.unit.getD 0) n else s
    (s.set R.ADC_CH_DLY_GD_NS (convDelay k (s.convSlow n)) n).set R.ADC_CH_DLY_SKEW_NS (convSkew n) n) s

/-- Current loops and modems (R301); a supply starts at SUP_VMAX (R292). -/
def State.clpConfigure (s : State) : State :=
  let s := s.man.clp.chs.foldl (fun (s : State) x =>
    let n := x.1
    let c := x.2
    let s := ((s.set R.CLP_CH_CFG_SRC c.src n).setB R.CLP_CH_CFG_COMP_ACTION c.lowAlarm n).set R.CLP_CH_CFG_FAIL_ACTION c.failAction n
    let s := ((s.setB R.CLP_CH_CFG_NTC_BOUND c.ntcCh.isSome n).set R.CLP_CH_CFG_NTC_CH (c.ntcCh.getD 0) n).setB R.CLP_CH_CFG_HART_EN c.hart n
    (s.putClp n { s.clpCh n with supply := c.supMax }).setU R.CLP_CH_VOLT_SUP_MV (c.supMax * 1000) n) s
  s.man.clp.modems.foldl (fun (s : State) x => s.set R.CLP_HART_STAT_MODE x.2.mode x.1) s

/-- Microstep channels (R324). -/
def State.stepConfigure (s : State) : State :=
  s.man.step.foldl (fun (s : State) x =>
    let n := x.1
    let c := x.2
    let s := ((s.set R.STEP_CH_CFG_CONFIGURED 1 n).setB R.STEP_CH_CFG_PROFILE c.sCurve n).setB R.STEP_CH_CFG_DECAY c.fast n
    let s := ((s.setB R.STEP_CH_CFG_REQUIRE_HOME c.requireHome n).setB R.STEP_CH_CFG_SAFE_HOLD c.safeHold n).setB R.STEP_CH_CFG_STALL_ACTION c.stallStop n
    ((s.setB R.STEP_CH_CFG_HOME_DIR c.homePosDir n).set R.STEP_CH_CFG_HOME_SW c.homeSw n).set R.STEP_CH_CFG_FUNC c.fn n) s

/-- Cells, functions and capture units (R251, R261, R266, R267): cells wait in HELD. -/
def State.loopConfigure (s : State) : State :=
  let s := s.man.loop.cells.foldl (fun (s : State) x =>
    let n := x.1
    let c := x.2
    let i := c.ins.getD 0 { kind := 0, idx := 0 }
    let s := ((s.set R.LOOP_CELL_CFG_LAW c.law n).setB R.LOOP_CELL_CFG_TRIGGER c.tick n).set R.LOOP_CELL_CFG_DIV c.div n
    let s := ((s.set R.LOOP_CELL_CFG_PHASE c.phase n).set R.LOOP_CELL_CFG_FUNC c.fn n).setB R.LOOP_CELL_CFG_INNER c.outer.isSome n
    let s := ((s.set R.LOOP_CELL_IO_IN_KIND i.kind n).set R.LOOP_CELL_IO_IN_IDX (if i.kind = 6 then 0 else i.idx) n).set R.LOOP_CELL_IO_OUT_KIND c.outKind n
    let s := ((s.set R.LOOP_CELL_IO_OUT_IDX (if c.outKind = 3 then 0 else c.outIdx) n).set R.LOOP_CELL_IO_FF_SRC c.ffSrc n).setB R.LOOP_CELL_IO_FF_TARGET c.ffSp n
    s.set R.LOOP_CELL_STAT_STATE 1 n) s
  let s := s.man.loop.fns.foldl (fun (s : State) x =>
    let s := (s.set R.MFN_FN_STAT_STATE 0 x.1).set R.MFN_FN_STAT_LIST x.2.list x.1
    let cell := fun (k : Nat) => match x.2.cells[k]? with | some c => c.cell | none => 255
    let s := ((s.set R.MFN_FN_CELLS_CELL0 (cell 0) x.1).set R.MFN_FN_CELLS_CELL1 (cell 1) x.1).set R.MFN_FN_CELLS_CELL2 (cell 2) x.1
    s.set R.MFN_FN_CELLS_CELL3 (cell 3) x.1) s
  s.man.loop.caps.foldl (fun (s : State) x => s.set R.LOOP_CAP_CFG_FUNC x.2 x.1) s

/-- Source slots, tracks and the thrusters' kinds (R154, R160, R162, R217). A FIXED track is CONFIRMED, and a
track slot that the manifest leaves empty reads as unconfigured. -/
def State.refConfigure (s : State) : State :=
  let s := s.man.estSlots.foldl (fun (s : State) x => s.set R.EST_SRC_STAT_STATUS 1 x.1) s
  let s := (List.range 64).foldl (fun (s : State) n => s.set R.EST_TRK_STAT_KIND 3 n) s
  let s := s.man.tracks.foldl (fun (s : State) x =>
    let s := s.set R.EST_TRK_STAT_KIND x.2.kind x.1
    if x.2.kind = 0 then s.set R.EST_TRK_STAT_STATE 2 x.1 else s) s
  let s := s.man.alloc.thr.zipIdx.foldl (fun (s : State) x => (s.set R.ALLOC_THR_STAT_KIND x.1.kind x.2).set R.ALLOC_THR_STAT_BUS x.1.bus x.2) s
  s.set R.YUZ_STAT_POWERED 1

/-- The configuration of every block from the manifest. [Log DESIGN CHOICE: 5] -/
def State.configure (s : State) : State :=
  let s := (((s.hostConfigure).timeConfigure).powerConfigure).adcConfigure
  let s := (((s.clpConfigure).stepConfigure).loopConfigure).refConfigure
  ((s.canConfigure).ethConfigure).islConfigure

end Sys2Proof.Machine
end

