-- ==== Sys2Proof/Machine/Reset.lean ====
section
/-!
DEFINITION. Resets (R496): what every domain but the always-on domain loses, the start of MUSTER (R45, R99), the deliberate
reset (R59), and the loss of power at DORMANT entry and shut-down (R498).
-/

namespace Sys2Proof.Machine

open Sys2Proof

/-- The rails that the board must bring up before PWR_EN_CORE (R494 step 2). -/
def ioRails : List Rail := [.io33, .io18, .adc, .pll]

/-- Every rail but VDD_AON. -/
def mainRails : List Rail := [.core, .sram, .serdes, .io18, .io33, .ddrq, .ddr2, .adc, .pll]

def State.railsOk (s : State) (l : List Rail) : Bool := l.all fun r => r ∈ s.mus.railOk

/-- The records that retention SRAM holds when the other domains lose power: the newest 1,024 unflushed ones; older ones are
lost (R446, R453). [Log DEDUCED: 246] -/
def State.mirror (s : State) : RecSt :=
  let all := s.log.hold ++ s.log.unflushed
  let lost := all.drop 1024
  { s.log with
    ram := [], hold := all.take 1024, isOpen := false, marks := s.log.persisted, fetchAt := none, window := [],
    lostSeqs := lost.map (·.seq) ++ s.log.lostSeqs, lostHold := s.log.lostHold + lost.length,
    lostFirstH := if s.log.lostFirstH = 0 then (lost.map (·.seq)).getLastD 0 else s.log.lostFirstH }

/-- The Installer and Operator keys that the journal holds (R89). -/
def State.journalKeys (s : State) : Option (Nat × Nat) × Option (Nat × Nat) :=
  match tfind s.mnf.journal 1 with
  | some (_, _, [a, ka, ia, b, kb, ib]) => (if a = 1 then some (ka, ia) else none, if b = 1 then some (kb, ib) else none)
  | _ => (none, none)

/-- Every domain but the always-on domain in reset (R496): registers at their reset values, and nothing kept but the retention
SRAM, the RTC, the fuses, the OTP and the flash. [Log DESIGN CHOICE: 35] -/
def State.domainReset (s : State) : State :=
  let s' : State :=
    { now := s.now, pending := s.pending, log := s.mirror, msixEnable := false
      time := { rtc := s.time.rtc, rtcOk := s.time.rtcOk, utcKept := s.time.utcKept }
      role := { makerKey := s.role.makerKey, instKey := s.journalKeys.1, operKey := s.journalKeys.2, uid := s.role.uid }
      mnf := { slotA := s.mnf.slotA, slotB := s.mnf.slotB, journal := s.mnf.journal }
      mus := { aonAt := s.mus.aonAt, enIo := s.mus.enIo, enCore := s.mus.enCore, railOk := s.mus.railOk,
               porLow := s.mus.porLow, haltPll := s.mus.haltPll, thermalOff := s.mus.thermalOff,
               capacity := s.mus.capacity, ioAt := s.mus.ioAt, wakeN := s.mus.wakeN, perst := s.mus.perst, wakeAt := s.mus.wakeAt,
               woke := s.mus.woke, shutNote := s.mus.shutNote } }
  let s' := (s'.setB R.ROLE_STAT_MAKER_KEY s'.role.makerKey.isSome).setB R.ROLE_STAT_INST_KEY s'.role.instKey.isSome
  let s' := (s'.setB R.ROLE_STAT_OPER_KEY s'.role.operKey.isSome).setB R.MNF_STAT_INSTALL_CUT
    (match tfind s.mnf.journal 3 with | some (_, _, [1]) => true | _ => false)
  (((s'.set R.DEV_GRADE_GRADE (s.get R.DEV_GRADE_GRADE)).set R.DEV_GRADE_ISLAND_FUSED
    (s.get R.DEV_GRADE_ISLAND_FUSED)).keepRetained s)

/-- The POWER phase may end: every rail is in range, and no strap holds MUSTER there (R45, R493, R494). -/
def State.powerDone (s : State) : Bool := s.railsOk mainRails && !s.mus.straps.bscanEn && s.mus.straps.testN

/-- MUSTER starts, counted from `at_`: straps sampled, the counter takes the RTC (R45, R99, R493). -/
def State.startMuster (s : State) (straps : Straps) (at_ : Nat) : State :=
  let s := s.domainReset
  let s : State := { s with
    mus := { s.mus with running := true, at_ := at_, straps := straps, porLow := false }
    time := { s.time with running := true, count := if s.time.rtcOk then s.time.rtc else 0 } }
  let s : State := { s with pcieAt := if s.mus.perst && straps.pcieEn then some (at_ + 20000000) else none }
  let s := (s.setB R.TIME_STAT_RTC_VALID s.time.rtcOk).setB R.TWIN_STAT_SEAT straps.seatB
  let s := s.set R.MODE_STAT_MODE 1
  s.set R.MODE_STAT_PHASE (if s.powerDone then 1 else 0)

/-- A deliberate reset by MODE_RESET (R59, R61): a full MUSTER, noted for the recorder. [Log DEDUCED: 19] -/
def State.deliberateReset (s : State) (keyId : Nat) : State :=
  let s := s.startMuster s.mus.straps s.now
  { s with mus := { s.mus with modeReset := some keyId } }

/-- Power drops: PWR_EN_CORE low, and PWR_EN_IO low 100 µs later (R498). Only the always-on domain is left. -/
def State.powerOff (s : State) : State :=
  let s' := s.domainReset.set R.MODE_STAT_MODE 0
  { s' with mus := { s'.mus with enIo := false, enCore := false, railOk := [], offIoAt := some (s.now + 100000),
                                 straps := s.mus.straps } }

end Sys2Proof.Machine
end

