-- ==== Sys2Proof/Machine/Est.lean ====
section
/-!
DEFINITION. The estimator (R136 to R169): sources, own gates, votes and disputes, operator commands, quality and dead
reckoning, the fallback path, tracks and the heave prediction. What its numeric filters yield comes with the command.
-/

namespace Sys2Proof.Machine

open Sys2Proof

/-! ### Slots and groups -/

def State.slotSt (s : State) (n : Nat) : EstSlotSt := tget s.est.slots n {}
def State.putSlot (s : State) (n : Nat) (x : EstSlotSt) : State := { s with est := { s.est with slots := tput s.est.slots n x } }
def State.slotCfg (s : State) (n : Nat) : Option EstSlotCfg := tfind s.man.estSlots n
def State.slotStatus (s : State) (n : Nat) : Nat := s.get R.EST_SRC_STAT_STATUS n
def State.slotNums (s : State) : List Nat := s.man.estSlots.map (·.1)

/-- The kind of a slot (R136): 0 position, 1 heading, 2 MRU, 3 wind. -/
def slotKind (n : Nat) : Nat := if n ≤ 12 then 0 else if n ≤ 16 then 1 else if n ≤ 20 then 2 else 3

/-- A track is of kind FIXED. -/
def trackFixed (m : Manifest) (t : Nat) : Bool := match tfind m.tracks t with | some c => c.kind = 0 | none => false

/-- The group in which a slot votes (R137, R148): 0 EARTH, 1 + t track t, 65 heading, 66 MRU, 67 wind. -/
def State.slotGroup (s : State) (n : Nat) : Nat :=
  match slotKind n with
  | 0 =>
    match s.slotCfg n with
    | some c => match c.group with | some t => if trackFixed s.man t then 0 else t + 1 | none => 0
    | none => 0
  | 1 => 65
  | 2 => 66
  | _ => 67

/-- The slots of a group with one of these statuses. -/
def State.slotsIn (s : State) (g : Nat) (sts : List Nat) : List Nat :=
  s.slotNums.filter fun n => s.slotGroup n = g && s.slotStatus n ∈ sts

/-- A slot changes status (R154, 0x0701). Causes, in the order of the table: 1 Operator, 2 end of dispute, 3 skew or frozen,
4 recovered, 5 no usable sample, 6 usable sample, 7 re-entry met, 8 outvoted, 9 dispute, 10 agrees again. [Log DESIGN CHOICE: 76] -/
def State.setStatus (s : State) (n new cause : Nat) : State :=
  let old := s.slotStatus n
  if old = new then s
  else
    let s := ((s.set R.EST_SRC_STAT_STATUS new n).evt R.EST_EVT_SLOT_CHANGE).record
      { code := 0x0701, source := n, items := [(1, n), (1, old), (1, new), caseItem 0x0701 cause] }
    if new = 2 then s.putSlot n { s.slotSt n with reentry := 0, holdAt := s.now } else s

/-! ### Samples -/

/-- The mean of a slot's clock offsets in ns (R140). -/
def meanOffset (l : List Int) : Rat := if l = [] then 0 else (l.sum : Rat) / l.length

/-- The frames by which an aligned time lies before the last frame of the update (R141). [Log DEDUCED: 82] -/
def lateFrames (boundary aligned : Int) : Nat := ((boundary - 1 - aligned) / 10000000).toNat

/-- The factor by which a sample's variance is multiplied (R138, R140): 4 for UNCERTAIN, and 1 + (|d| / 10 ms)² while SKEWED. -/
def varianceFactor (q : Quality) (skewed : Bool) (dNs : Rat) : Rat :=
  (if q = .uncertain then 4 else 1) * (if skewed then 1 + (dNs / 10000000) * (dNs / 10000000) else 1)

/-- The sample may be used (R138). -/
def usable (q : Quality) : Bool := q = .good || q = .uncertain

/-- The slot's group is a track that is LOST, which leaves it WAITING (R162). -/
def State.trackLost (s : State) (n : Nat) : Bool :=
  let g := s.slotGroup n
  decide (1 ≤ g) && decide (g ≤ 64) && s.get R.EST_TRK_STAT_STATE (g - 1) = 4

/-- A sample counts towards the frozen test and wakes a waiting slot (R147, R154). -/
def State.sampleSeen (s : State) (x : EstSample) : State :=
  let t := s.slotSt x.slot
  let changed := !t.seen || t.raw ≠ x.raw
  let t := { t with lastAt := s.now, seen := true, raw := x.raw, fresh := true,
                    changedAt := if changed then s.now else t.changedAt }
  let s := s.putSlot x.slot t
  let s := if s.slotStatus x.slot = 1 && !s.trackLost x.slot then s.setStatus x.slot 2 6 else s
  if changed && s.flag R.EST_SRC_STAT_FROZEN x.slot then
    let s := s.set R.EST_SRC_STAT_FROZEN 0 x.slot
    if s.slotStatus x.slot = 7 && !t.skewMask then s.setStatus x.slot 2 4 else s
  else s

/-- The own gate (R146). -/
def State.ownGate (s : State) (x : EstSample) (gate : Rat) : State :=
  let s := s.setU R.EST_SRC_NIS_NIS (x.nis * 65536) x.slot
  if gate < x.nis then (s.incSat R.EST_SRC_STAT_GATE_FAILS x.slot).putSlot x.slot
      { s.slotSt x.slot with passed := false, fails := (s.slotSt x.slot).fails + 1 }
  else (s.set R.EST_SRC_STAT_GATE_FAILS 0 x.slot).putSlot x.slot { s.slotSt x.slot with fails := 0 }

/-- A sample of the snapshot (R138 to R146): quality, alignment, lateness and own gate. [Log DEDUCED: 82, 83] -/
def State.estSample (s : State) (boundary : Int) (x : EstSample) : State :=
  match s.slotCfg x.slot with
  | none => s
  | some c =>
    let s := s.set R.EST_SRC_STAT_LAST_QUAL x.quality.code x.slot
    if !usable x.quality then s
    else
      let t := s.slotSt x.slot
      let base : Int := x.arrival - 1000000 * c.latency
      let offs := if c.tagged then ((base - x.tag) :: t.offsets).take 64 else []
      let s := s.putSlot x.slot { t with offsets := offs }
      let d : Int := (meanOffset offs).floor
      let raw : Int := if c.tagged then x.tag + d else base
      let early := decide (boundary ≤ raw)
      let aligned : Int := if early then boundary - 1 else raw
      let s := (s.setB R.EST_SRC_STAT_EARLY early x.slot).sampleSeen x
      let k := lateFrames boundary aligned
      if 5 ≤ k then
        (s.inc R.EST_LATE_DROPPED).record { code := 0x070B, source := x.slot, items := [(1, x.slot), (2, min 65535 k)], key := 1 }
      else (if k = 0 then s else s.inc R.EST_LATE_FOLDED).ownGate x c.gate

/-- SKEWED and the skew mask of a slot after its samples (R140). [Log DEDUCED: 85] -/
def State.estSkew (s : State) (n : Nat) : State :=
  let t := s.slotSt n
  let d := meanOffset t.offsets
  let a := if d < 0 then -d else d
  let s := s.setQ R.EST_SRC_SKEW_D_US (d / 1000) n
  let was := s.flag R.EST_SRC_STAT_SKEWED n
  let skew := if 10000000 < a then true else if a < 8000000 then false else was
  let s := s.setB R.EST_SRC_STAT_SKEWED skew n
  let s := if skew = was then s
    else s.record { code := 0x0704, source := n, items := [(1, n), sItem 4 (s.geti R.EST_SRC_SKEW_D_US n)], key := 1 }
  let mask := (t.skewMask && s.slotStatus n = 7) || decide (40000000 < a)
  let s := s.putSlot n { t with skewMask := mask, skewRun := if mask && a < 32000000 then t.skewRun + 1 else 0 }
  let st := s.slotStatus n
  if (mask || s.flag R.EST_SRC_STAT_FROZEN n) && st ≠ 0 && st ≠ 5 && st ≠ 6 && st ≠ 7 then s.setStatus n 7 3 else s

/-- The claim of a reference filter at the boundary. -/
def State.takeClaim (s : State) (c : EstClaim) : State :=
  s.putSlot c.slot { s.slotSt c.slot with claim := c.val, sigma := c.sigma, sigma2 := c.sigma2 }

/-! ### Vote and dispute -/

/-- The angular difference of two headings in degrees, 0 to 180. -/
def hdgDiff (a b : Rat) : Rat :=
  let d := (a - b) - 360 * ((a - b) / 360).floor
  min d (360 - d)

def ratAbs (x : Rat) : Rat := if x < 0 then -x else x

/-- A squared separation exceeds max(VOTE_ABS, VOTE_K · sqrt(σi² + σj²)) (R148), compared without the root. -/
def overLimit (sep2 voteAbs voteK si sj : Rat) : Bool :=
  decide (max (voteAbs * voteAbs) (voteK * voteK * (si * si + sj * sj)) < sep2)

/-- The squared separation of two claims (R148): horizontal distance, angular difference, the larger of the roll and pitch
differences, or the vector difference of true wind. -/
def sep2 (kind : Nat) (a b : List Rat) : Rat :=
  let dx := a.getD 0 0 - b.getD 0 0
  let dy := a.getD 1 0 - b.getD 1 0
  match kind with
  | 1 => hdgDiff (a.getD 0 0) (b.getD 0 0) * hdgDiff (a.getD 0 0) (b.getD 0 0)
  | 2 => max (dx * dx) (dy * dy)
  | _ => dx * dx + dy * dy

/-- Two claims lie over the limit; an MRU's heave is tested separately (R148). -/
def apart (m : Manifest) (kind : Nat) (a b : EstSlotSt) : Bool :=
  let v := match kind with | 0 => m.voteAbsPos | 1 => m.voteAbsHdg | 2 => m.voteAbsRoll | _ => m.voteAbsWind
  let dz := a.claim.getD 2 0 - b.claim.getD 2 0
  overLimit (sep2 kind a.claim b.claim) v m.voteK a.sigma b.sigma ||
  (kind = 2 && overLimit (dz * dz) m.voteAbsHeave m.voteK a.sigma2 b.sigma2)

def State.slotsApart (s : State) (i j : Nat) : Bool := apart s.man (slotKind i) (s.slotSt i) (s.slotSt j)

/-- The run of updates in which a pair lay over the limit. -/
def State.pairRun (s : State) (i j : Nat) : Nat := tget s.est.pairRuns (32 * min i j + max i j) 0

/-- Two slots contradict (R148). [Log DEDUCED: 71] -/
def State.contradict (s : State) (i j : Nat) : Bool := i ≠ j && decide (max 1 s.man.voteFrames ≤ s.pairRun i j)

/-- The pairs of voting slots of one group. -/
def State.votingPairs (s : State) : List (Nat × Nat) :=
  let v := s.slotNums.filter fun n => s.slotStatus n = 3 || s.slotStatus n = 5
  v.flatMap fun i => (v.filter fun j => i < j && s.slotGroup i = s.slotGroup j).map fun j => (i, j)

/-- The pair runs after this update's claims. -/
def State.countPairs (s : State) : State :=
  let runs := s.votingPairs.foldl (fun (t : Tab Nat) p =>
    if s.slotsApart p.1 p.2 then tput t (32 * p.1 + p.2) (s.pairRun p.1 p.2 + 1) else t) []
  { s with est := { s.est with pairRuns := runs } }

/-- Slots that contradict more than half of the other voting slots (R149). -/
def State.outvoted (s : State) (v : List Nat) : List Nat :=
  v.filter fun i => decide (v.length - 1 < 2 * (v.filter fun j => s.contradict i j).length)

/-- Every pair of these slots agrees in this update. [Log DEDUCED: 72] -/
def State.allAgree (s : State) (v : List Nat) : Bool := v.all fun i => v.all fun j => i = j || !s.slotsApart i j

/-- Slots as a bit mask. -/
def slotMask (l : List Nat) : Nat := (l.map fun n => 2 ^ n).sum

/-- SOURCE and the group item of a dispute's records. -/
def groupKind (g : Nat) : Nat := if g ≤ 64 then 0 else g - 64

/-- EST_DISPUTE and EST_STAT.DISPUTE. -/
def State.disputeBits (s : State) : State :=
  (s.set R.EST_DISPUTE_SLOTS (slotMask (s.slotNums.filter fun n => s.slotStatus n = 5))).setB R.EST_STAT_DISPUTE
    (s.est.disputes ≠ [])

/-- A dispute begins (R149, R150, 0x0702). [Log DESIGN CHOICE: 76, 84] -/
def State.disputeStart (s : State) (g : Nat) (v : List Nat) : State :=
  let seps := (s.votingPairs.filter fun p => s.slotGroup p.1 = g).map fun p =>
    measItem 0x0702 ((Config.sqrt (sep2 (slotKind p.1) (s.slotSt p.1).claim (s.slotSt p.2).claim)))
  let s := v.foldl (fun (s : State) n => s.setStatus n 5 9) s
  let s : State := { s with est := { s.est with disputes := tput s.est.disputes g { since := s.now } } }
  (s.evt R.EST_EVT_DISPUTE).alarm 0x0702 g ([caseItem 0x0702 (groupKind g), (1, g), (4, slotMask v)] ++ seps) 3

/-- A dispute ends (R151, 0x0703): cause 1 re-agreement, 2 deselect. The alarm EST-DISPUTE clears with it.
[Log DEDUCED: 74; DESIGN CHOICE: 76, 84] -/
def State.disputeStop (s : State) (g cause : Nat) : State :=
  match tfind s.est.disputes g with
  | none => s
  | some d =>
    let s : State := { s with est := { s.est with disputes := tdel s.est.disputes g } }
    let s := (s.evt R.EST_EVT_DISPUTE_END).record
      { code := 0x0703, source := g, items := [caseItem 0x0703 cause, measItem 0x0703 (s.now - d.since : Nat)], key := 1 }
    s.clearAlarm 0x0702 g [caseItem 0x0702 (groupKind g), (1, g)] 3

/-- The vote of a group at the end of an update (R149, R151). [Log DEDUCED: 71] -/
def State.voteGroup (s : State) (g : Nat) : State :=
  let v := s.slotsIn g [3, 5]
  let out := s.outvoted v
  let rest := v.filter (· ∉ out)
  let clear := decide (v.length < 2 * rest.length) && s.allAgree rest
  match tfind s.est.disputes g with
  | none =>
    if !(v.any fun i => v.any fun j => s.contradict i j) then s
    else if clear then out.foldl (fun (s : State) n => s.setStatus n 4 8) s
    else s.disputeStart g v
  | some d =>
    if d.decide_ then
      if v.length ≤ 1 || clear then
        let s := rest.foldl (fun (s : State) n => s.setStatus n 3 2) s
        (out.foldl (fun (s : State) n => s.setStatus n 4 8) s).disputeStop g 2
      else { s with est := { s.est with disputes := tput s.est.disputes g { d with decide_ := false, agree := 0 } } }
    else
      { s with est := { s.est with disputes := tput s.est.disputes g { d with agree := if s.allAgree v then d.agree + 1 else 0 } } }

/-- A slot out of use after the vote: REJECTED to RE-ENTRY, and the re-entry count (R151, R152, R154). [Log DEDUCED: 73] -/
def State.slotAfterVote (s : State) (n : Nat) : State :=
  let g := s.slotGroup n
  let used := s.slotsIn g [3]
  let agrees := used.all fun j => !s.slotsApart n j
  match s.slotStatus n with
  | 4 => if agrees then s.setStatus n 2 10 else s
  | 2 =>
    let t := s.slotSt n
    if (tfind s.est.disputes g).isSome then s
    else
      let only := (s.slotNums.filter fun j => s.slotGroup j = g && (s.slotSt j).fresh) = [n]
      let t' := { t with reentry := if t.passed && (agrees || only) then t.reentry + 1 else 0 }
      (s.putSlot n t').setSat R.EST_SRC_STAT_RUN t'.reentry n
  | 5 => s.setSat R.EST_SRC_STAT_RUN (match tfind s.est.disputes g with | some d => d.agree | none => 0) n
  | _ => s.setSat R.EST_SRC_STAT_RUN (((s.slotNums.map fun j => s.pairRun n j).max?).getD 0) n

/-! ### Quality, loss and return -/

/-- The quality of the position (R155). -/
def fusedPosQuality (m : Manifest) (sigma : Rat) (disputed : Bool) (inUse : Nat) (hdg : Quality) : Quality :=
  if m.posSigmaMax < sigma then .masked
  else if disputed || decide (inUse < 2) || hdg ≠ .good || decide (m.posSigmaGood < sigma) then .uncertain
  else .good

/-- The quality of the heading (R155). -/
def fusedHdgQuality (m : Manifest) (sigma : Rat) (disputed : Bool) (inUse : Nat) : Quality :=
  if m.hdgSigmaMax < sigma then .masked else if disputed || inUse = 0 then .uncertain else .good

/-- An alarm follows a condition: raised when it begins, cleared when it ends. -/
def State.follow (s : State) (was now : Bool) (code : Nat) (items : List (Nat × Nat)) : State :=
  if now && !was then s.alarm code 0xFFFF items 0 else if was && !now then s.clearAlarm code 0xFFFF items 0 else s

/-- Dead reckoning of position: `used` says whether an EARTH slot was IN-USE in this update (R156, R157). -/
def State.drPosition (s : State) (used : Bool) (oldQ : Nat) : State :=
  match s.est.drPosAt with
  | none =>
    if used then s
    else (({ s with est := { s.est with drPosAt := some s.now } }.set R.EST_DR_POS_S 0).evt R.EST_EVT_POS_DR).follow false true
      0x0706 [(2, s.get R.EST_SIG_POS_CM), (2, 0)]
  | some t =>
    let sec := (s.now - t) / 1000000000
    let s := s.setSat R.EST_DR_POS_S sec
    if used then
      { s with est := { s.est with drPosAt := none, corrPos := oldQ = 1 || oldQ = 0 } }.follow true false 0x0706
        [(2, s.get R.EST_SIG_POS_CM), (2, min 65535 sec)]
    else s

/-- Dead reckoning of heading (R156, R157). -/
def State.drHeading (s : State) (used : Bool) (oldQ : Nat) : State :=
  match s.est.drHdgAt with
  | none => if used then s else { s with est := { s.est with drHdgAt := some s.now } }.set R.EST_DR_HDG_S 0
  | some t =>
    let s := s.setSat R.EST_DR_HDG_S ((s.now - t) / 1000000000)
    if used then { s with est := { s.est with drHdgAt := none, corrHdg := oldQ = 1 || oldQ = 0 } } else s

/-- A value moves towards another by at most `r` (R157). -/
def towards (x y r : Rat) : Rat := if y - x ≤ r ∧ x - y ≤ r then y else if x < y then x + r else x - r

/-- The committed position of an update: the filtered one, or a limited step towards it (R157), at 10 ms an update. -/
def corrected (old : Option (Rat × Rat)) (corr : Bool) (n e rate : Rat) : (Rat × Rat) × Bool :=
  match old with
  | some (n0, e0) =>
    let d2 := (n - n0) * (n - n0) + (e - e0) * (e - e0)
    let r := rate / 100
    if !corr || d2 ≤ r * r then ((n, e), false)
    else let d := Config.sqrt d2; ((n0 + (n - n0) * r / d, e0 + (e - e0) * r / d), true)
  | none => ((n, e), false)

/-- The committed heading. -/
def correctedHdg (old : Option Rat) (corr : Bool) (h rate : Rat) : Rat × Bool :=
  match old with
  | some h0 =>
    if !corr || hdgDiff h h0 ≤ rate / 100 then (h, false)
    else
      let d := (h - h0) - 360 * ((h - h0) / 360).floor
      let x := if d ≤ 180 then h0 + rate / 100 else h0 - rate / 100
      (x - 360 * (x / 360).floor, true)
  | none => (h, false)

/-- The binary64 bits of a value that geodesy gives: no rule states the datum's projection. [Log DESIGN CHOICE: 9] -/
def geoBits (place : Nat) (args : List Rat) : Nat := (Config.value place args).floor.toNat % 2 ^ 64

/-! ### Heave prediction and tracks -/

/-- The quality of the heave prediction (R165). -/
def State.heaveQuality (s : State) (fit : Rat) : Quality :=
  let silent := match s.est.mruAt with | some t => decide (t + 10000000000 ≤ s.now) | none => true
  let young := match s.est.mruFirst with | some t => decide (s.now < t + s.man.waveWin * 1000000000) | none => true
  if silent || decide (60 < fit) then .masked
  else if young || (tfind s.est.disputes 66).isSome || decide (30 < fit) then .uncertain
  else .good

/-- The heave outputs (R163 to R165). -/
def State.heaveOut (s : State) (u : EstUpd) (pm : Pm) : State :=
  let s : State := if s.slotsIn 66 [3] = [] then s else { s with est := { s.est with mruAt := some s.now } }
  let q := s.heaveQuality u.fitPct
  let n := min 8 (min u.hull.length s.man.hullLeads.length)
  let s := s.setU R.EST_HEAVE_FIT_PCT u.fitPct
  let s := s.set R.EST_HEAVE_PT_GOOD (if q = .good then 2 ^ n - 1 else 0)
  let s := s.set R.EST_HEAVE_PT_USABLE (if q = .masked then 0 else 2 ^ n - 1)
  ((u.hull.zip s.man.hullLeads).take 8).zipIdx.foldl (fun (s : State) x =>
    s.commitAll (addr0 12 2 x.2 0) [q32 x.1.1.1, q32 x.1.1.2.1, q32 x.1.1.2.2, q32 x.1.2] pm q) s

/-- A track's state (R162). -/
def State.trackState (s : State) (t : Nat) : Nat := s.get R.EST_TRK_STAT_STATE t

/-- A track changes state (0x070D). TARGET-LOST ends when the track leaves LOST. A group whose track is LOST leaves its references WAITING.
[Log DEDUCED: 77] -/
def State.setTrack (s : State) (t new : Nat) : State :=
  let old := s.trackState t
  if old = new then s
  else
    let s := (s.set R.EST_TRK_STAT_STATE new t).record { code := 0x070D, source := t, items := [(1, t), (1, old), (1, new)] }
    let s := if old = 4 && (findAlarm s.alarms 0x0808 (192 + t)).isSome then
        s.clearAlarm 0x0808 (192 + t) [(1, t), (1, new), measItem 0x0808 0] 2 else s
    if new = 4 then (s.slotsIn (t + 1) [2, 3, 4]).foldl (fun (s : State) n => s.setStatus n 1 5) s else s

def State.trackSt (s : State) (t : Nat) : TrackSt := tget s.est.tracks t {}
def State.putTrack (s : State) (t : Nat) (x : TrackSt) : State := { s with est := { s.est with tracks := tput s.est.tracks t x } }

/-- A GATED sample that passes no track's gate is a dead letter, NO-TRACK (R161, R471). [Log DEDUCED: 110] -/
def State.noTrack (s : State) (v : TrunkVal) : State :=
  let type := match s.findPt v.addr with | some i => (match s.ptCfg i with | some c => c.type | none => 0) | none => 0
  s.sendDead v.addr v.value type 2 v.pm

/-- A sample of a track's source (R161, R162). [Log DEDUCED: 77, 78] -/
def State.trackSample (s : State) (x : TrackSample) : State :=
  match tfind s.man.tracks x.track with
  | none => if x.pass then s else s.noTrack x.point
  | some c =>
    if c.kind = 0 || x.source ∈ (s.trackSt x.track).excluded then s
    else
      let t := s.trackSt x.track
      if !x.pass then
        if c.bound.getD x.source true then
          s.putTrack x.track { t with fails := tput t.fails x.source (tget t.fails x.source 0 + 1) }
        else s.noTrack x.point
      else
        let st := s.trackState x.track
        let passes := if st = 0 || st = 4 then 1 else t.passes + 1
        let s := s.putTrack x.track { t with lastAt := s.now, passes := passes, fails := tdel t.fails x.source }
        s.setTrack x.track (if 3 ≤ passes then 2 else 1)

/-- The age and the points of a track (R162, R166). [Log DEDUCED: 78] -/
def State.trackOut (s : State) (u : EstUpd) (pm : Pm) (t : Nat) (c : TrackCfg) : State :=
  let st := s.trackState t
  let s := (s.set R.EST_TRK_STAT_KIND c.kind t).setSat R.EST_TRK_STAT_AGE_DS ((s.now - (s.trackSt t).lastAt) / 100000000) t
  let q : Quality := if st = 2 then .good else .uncertain
  if st = 0 || st = 4 then s
  else
    let v := match tfind u.tracks t with
      | some v => v
      | none => if c.kind = 0 then [c.pos.getD 0 0, c.pos.getD 1 0, 0, 0, c.pos.getD 2 0] else []
    s.commitAll (addr0 12 3 t 0) (((v.take 6).map q32) ++ (if 6 ≤ v.length then st :: ((v.drop 6).take 2).map q32 else [])) pm q

/-! ### The update -/

/-- An update begins: STEP lasts one update, and each slot starts without a sample (R146). -/
def State.updateOpen (s : State) : State :=
  s.slotNums.foldl (fun (s : State) n =>
    (s.set R.EST_SRC_STAT_STEP 0 n).putSlot n { s.slotSt n with fresh := false, passed := true }) s

/-- Qualities and EST_STAT after the vote. -/
def State.estQuality (s : State) (u : EstUpd) (posUsed hdgUsed : Bool) : State :=
  let oldP := s.get R.EST_STAT_POS_QUAL
  let oldH := s.get R.EST_STAT_HDG_QUAL
  let nP := (s.slotsIn 0 [3]).length
  let nH := (s.slotsIn 65 [3]).length
  let hq := fusedHdgQuality s.man u.hdgSigma (tfind s.est.disputes 65).isSome nH
  let pq := fusedPosQuality s.man u.posSigma (tfind s.est.disputes 0).isSome nP hq
  let s := (s.setU R.EST_SIG_POS_CM (u.posSigma * 100)).setU R.EST_SIG_HDG_MDEG (u.hdgSigma * 1000)
  let s := (s.drPosition posUsed oldP).drHeading hdgUsed oldH
  let s := (s.set R.EST_STAT_POS_QUAL pq.code).set R.EST_STAT_HDG_QUAL hq.code
  let s := (s.set R.EST_STAT_POS_IN_USE nP).set R.EST_STAT_HDG_IN_USE nH
  let s := (s.set R.EST_STAT_MRU_IN_USE (s.slotsIn 66 [3]).length).set R.EST_STAT_WIND_IN_USE (s.slotsIn 67 [3]).length
  let pl := decide (pq = .masked)
  let hl := decide (hq = .masked)
  let s := s.follow s.est.alarmPosLost pl 0x0707 [(2, s.get R.EST_SIG_POS_CM)]
  let s := if pl && !s.est.alarmPosLost then s.evt R.EST_EVT_POS_LOST else s
  let s := s.follow s.est.alarmHdgLost hl 0x0709 [(2, s.get R.EST_SIG_HDG_MDEG)]
  let s := if hl && !s.est.alarmHdgLost then s.evt R.EST_EVT_HDG_LOST else s
  let s : State := { s with est := { s.est with alarmPosLost := pl, alarmHdgLost := hl } }
  s.set R.EST_STAT_STATE (if s.mode = 1 then 1 else if pl then 4 else if s.est.drPosAt.isSome then 3 else 2)

/-- The committed outputs of node 0 (R157, R166). -/
def State.vesselOut (s : State) (u : EstUpd) (pm : Pm) : State :=
  let p := corrected s.est.outPos s.est.corrPos u.north u.east s.man.corrRatePos
  let h := correctedHdg s.est.outHdg s.est.corrHdg u.heading s.man.corrRateHdg
  let s : State := { s with est := { s.est with outPos := some p.1, corrPos := p.2, outHdg := some h.1, corrHdg := h.2, nu := u.nu, trackVals := u.tracks } }
  let s := s.setB R.EST_STAT_CORRECTING (p.2 || h.2)
  let pq := (Quality.ofCode (s.get R.EST_STAT_POS_QUAL)).getD .masked
  let hq := (Quality.ofCode (s.get R.EST_STAT_HDG_QUAL)).getD .masked
  let g := fun (l : List Rat) (i : Nat) => q32 (l.getD i 0)
  let s := s.commitAll 0x0C000000 [geoBits 0x0C000000 [p.1.1, p.1.2], geoBits 0x0C000001 [p.1.1, p.1.2], q32 p.1.1, q32 p.1.2] pm pq
  let s := s.commitAddr 0x0C000004 (q32 h.1) pm hq
  let s := s.commitAll 0x0C000005 [g u.nu 0, g u.nu 1, g u.nu 2, g u.dist 0, g u.dist 1, g u.dist 2, q32 u.posSigma] pm pq
  let s := s.commitAddr 0x0C00000C (q32 u.hdgSigma) pm hq
  s.commitAll 0x0C00000D [g u.attitude 0, g u.attitude 1, g u.attitude 2, g u.wind 0, g u.wind 1, s.est.seq % 2 ^ 32] pm pq

/-- The fused value that a slot's separation is taken from. -/
def fusedFor (kind : Nat) (u : EstUpd) : List Rat :=
  match kind with | 0 => [u.north, u.east] | 1 => [u.heading] | 2 => u.attitude | _ => u.wind

/-- The outputs of node 1 for a slot (R166). -/
def State.slotOut (s : State) (u : EstUpd) (pm : Pm) (n : Nat) : State :=
  let st := s.slotStatus n
  let q : Quality := if st = 6 || st = 7 then .masked else .good
  let sep := Config.sqrt (sep2 (slotKind n) (s.slotSt n).claim (fusedFor (slotKind n) u))
  s.commitAll (addr0 12 1 n 0) [st, q32 sep, s.get R.EST_SRC_NIS_NIS n * 65536, q32 (meanOffset (s.slotSt n).offsets / 1000)] pm q

/-- The update itself (R142). [Log DESIGN CHOICE: 81] -/
def State.estUpdate (s : State) (u : EstUpd) (upAt : Nat) (boundary : Int) (pm : Pm) : State :=
  let s := s.updateOpen
  let posUsed := decide (s.slotsIn 0 [3] ≠ [])
  let hdgUsed := decide (s.slotsIn 65 [3] ≠ [])
  let s := u.samples.foldl (fun (s : State) x => s.estSample boundary x) s
  let s := s.slotNums.foldl (fun (s : State) n => s.estSkew n) s
  let s := u.claims.foldl (fun (s : State) c => s.takeClaim c) s
  let s := u.trackSamples.foldl (fun (s : State) x => s.trackSample x) s
  let s := s.countPairs
  let s := (List.range 68).foldl (fun (s : State) g => s.voteGroup g) s
  let s := (s.slotNums.foldl (fun (s : State) n => s.slotAfterVote n) s).disputeBits
  let s : State := if (u.samples.any fun x => slotKind x.slot = 2) && s.est.mruFirst.isNone
    then { s with est := { s.est with mruFirst := some s.now } } else s
  let s : State := { s with est := { s.est with seq := s.est.seq + 1, running := none, abandons := 0 } }
  let s := (s.estQuality u posUsed hdgUsed).vesselOut u pm
  let s := s.slotNums.foldl (fun (s : State) n => s.slotOut u pm n) s
  let s := s.heaveOut u pm
  let s := s.man.tracks.foldl (fun (s : State) c => s.trackOut u pm c.1 c.2) s
  let us := (s.now - upAt) / 1000
  let s := s.setSat R.EST_UPD_LAST_US us
  s.set R.EST_UPD_MAX_US (max (s.get R.EST_UPD_MAX_US) (s.get R.EST_UPD_LAST_US))

/-- An update is abandoned (R143); the outputs of the one before stay. [Log DEDUCED: 80] -/
def State.estAbandon (s : State) : State :=
  let s : State := { s with est := { s.est with running := none, abandons := s.est.abandons + 1 } }
  let s := (s.incSat R.EST_UPD_OVERRUNS).evt R.EST_EVT_OVERRUN
  s.record { code := 0x070C, items := [(2, s.get R.EST_UPD_LAST_US), (1, s.get R.EST_UPD_OVERRUNS)], key := 0 }

/-- EST_OVERRUN_LIMIT (R143). -/
def execEstOverrunLimit (dt : Nat) (s : State) : Out :=
  let s := s.advance dt
  if 3 ≤ s.est.abandons then
    .next ({ s with est := { s.est with abandons := 0 } }.deviceFault 8 0xFFFF)
  else .next s

/-- OWN_GATE_REINIT (R146): GATE_FAIL_N failures in a row re-initialise the reference filter; `jump` is the change of claim.
[Log DESIGN CHOICE: 84] -/
def execOwnGateReinit (dt slot : Nat) (jump : Rat) (s : State) : Out :=
  let s := s.advance dt
  match s.slotCfg slot with
  | some c =>
    if c.gateFailN ≤ (s.slotSt slot).fails then
      let s := (s.set R.EST_SRC_STAT_STEP 1 slot).set R.EST_SRC_STAT_GATE_FAILS 0 slot
      let s := s.putSlot slot { s.slotSt slot with fails := 0 }
      .next (s.record { code := 0x0705, source := slot, items := [(1, slot), measItem 0x0705 jump], key := 1 })
    else .next s
  | none => .next s

/-- SOURCE_FROZEN (R147). -/
def execSourceFrozen (dt slot : Nat) (s : State) : Out :=
  let s := s.advance dt
  match s.slotCfg slot with
  | some c =>
    let t := s.slotSt slot
    if t.seen && decide (t.changedAt + c.freezeMs * 1000000 ≤ t.lastAt) && !s.flag R.EST_SRC_STAT_FROZEN slot then
      let s := s.set R.EST_SRC_STAT_FROZEN 1 slot
      let st := s.slotStatus slot
      .next (if st = 0 || st = 5 || st = 6 then s else s.setStatus slot 7 3)
    else .next s
  | none => .next s

/-- SKEW_RECOVERED (R140). -/
def execSkewRecovered (dt slot : Nat) (s : State) : Out :=
  let s := s.advance dt
  let t := s.slotSt slot
  if t.skewMask && decide (100 ≤ t.skewRun) then
    let s := s.putSlot slot { t with skewMask := false, skewRun := 0 }
    .next (if s.slotStatus slot = 7 && !s.flag R.EST_SRC_STAT_FROZEN slot then s.setStatus slot 2 4 else s)
  else .next s

/-- SLOT_WAITING (R138, R154). -/
def execSlotWaiting (dt slot : Nat) (s : State) : Out :=
  let s := s.advance dt
  match s.slotCfg slot with
  | some c =>
    let st := s.slotStatus slot
    if (st = 2 || st = 3 || st = 4) && decide ((s.slotSt slot).lastAt + c.staleMs * 1000000 ≤ s.now) then
      .next (s.setStatus slot 1 5)
    else .next s
  | none => .next s

/-- DISPUTE_END (R151): ten agreeing updates in a row. [Log DEDUCED: 72] -/
def execDisputeEnd (dt group : Nat) (s : State) : Out :=
  let s := s.advance dt
  match tfind s.est.disputes group with
  | some d =>
    if 10 ≤ d.agree then
      let s := (s.slotsIn group [5]).foldl (fun (s : State) n => s.setStatus n 3 2) s
      .next (s.disputeStop group 1).disputeBits
    else .next s
  | none => .next s

/-- REENTRY_COMPLETE (R152, R157): the slot goes IN-USE; the first to complete while the position is MASKED re-initialises it.
[Log DESIGN CHOICE: 84] -/
def execReentryComplete (dt slot : Nat) (s : State) : Out :=
  let s := s.advance dt
  let t := s.slotSt slot
  if s.slotStatus slot = 2 && decide (s.man.reentryFrames ≤ t.reentry) && (tfind s.est.disputes (s.slotGroup slot)).isNone then
    let s := s.setStatus slot 3 7
    if s.slotGroup slot = 0 && s.get R.EST_STAT_POS_QUAL = 4 && s.slotsIn 0 [3] = [slot] then
      let n := t.claim.getD 0 0
      let e := t.claim.getD 1 0
      let old := s.est.outPos.getD (n, e)
      let jump := Config.sqrt ((n - old.1) * (n - old.1) + (e - old.2) * (e - old.2))
      let s : State := { s with est := { s.est with outPos := some (n, e), corrPos := false } }
      .next ((s.evt R.EST_EVT_REINIT).record
        { code := 0x0708, source := slot, items := [(1, slot), measItem 0x0708 jump], key := 1 })
    else .next s
  else .next s

/-- REENTRY_HOLD_RECORD (R151, 0x0710): every 10 s of a hold. [Log DESIGN CHOICE: 84] -/
def execReentryHoldRecord (dt slot : Nat) (s : State) : Out :=
  let s := s.advance dt
  let t := s.slotSt slot
  let g := s.slotGroup slot
  if s.slotStatus slot = 2 && (tfind s.est.disputes g).isSome && decide (t.holdAt + 10000000000 ≤ s.now) then
    let s := s.putSlot slot { t with holdAt := s.now }
    let seps := (s.slotsIn g [5]).map fun j =>
      measItem 0x0710 ((Config.sqrt (sep2 (slotKind slot) t.claim (s.slotSt j).claim)))
    .next (s.record { code := 0x0710, source := slot, items := (1, slot) :: seps, key := 1 })
  else .next s

/-! ### Operator commands -/

/-- The device records a slot command (0x070A) and reports its result: 1 PENDING, 2 DONE, 3 REFUSED (R153, R502). -/
def State.slotCmdRecord (s : State) (slot action res keyId : Nat) : State :=
  let s := s.record { code := 0x070A, source := slot, role := .operator, keyId := keyId,
                      items := [(1, slot), (1, action), (1, 1), (2, keyId)] }
  s.result 7 action slot res 0 .operator keyId s.log.head

/-- A slot command is judged (R153). -/
def State.slotCmd (s : State) (slot action keyId : Nat) : State :=
  let st := s.slotStatus slot
  let pend := s.est.cmds.reverse.find? fun c => c.slot = slot
  let st := match pend with | some c => if c.action = 1 then 6 else 2 | none => st
  if !s.isActive || st = 0 || (action = 2 && st ≠ 6) then s.slotCmdRecord slot action 3 keyId
  else
    let s := s.slotCmdRecord slot action 1 keyId
    { s with est := { s.est with cmds := s.est.cmds ++ [⟨slot, action, s.now, keyId, s.log.head⟩] } }

/-- A slot command's fields and effect (R153). -/
def State.slotWrite (s : State) (src : CmdSrc) (slot action : Nat) : State :=
  s.operatorCmd src s.man.estPoints 0x6028 fun s keyId =>
    let s := match src with
      | .host _ => (s.set R.EST_SRC_CMD_SLOT slot).set R.EST_SRC_CMD_ACTION action
      | .point _ => s
    s.slotCmd slot action keyId

/-- EST_SRC_DESELECT (R153). -/
def execEstSrcDeselect (dt : Nat) (src : CmdSrc) (slot : Nat) (s : State) : Out := .next ((s.advance dt).slotWrite src slot 1)

/-- EST_SRC_SELECT (R153, R161): also restores the slot's source to its track. -/
def execEstSrcSelect (dt : Nat) (src : CmdSrc) (slot : Nat) (s : State) : Out := .next ((s.advance dt).slotWrite src slot 2)

/-- A SELECT of a slot that a track excluded restores it there (R161); a slot is source 8 + its number. -/
def State.restoreSource (s : State) (slot : Nat) : State :=
  s.man.tracks.foldl (fun (s : State) c =>
    let t := s.trackSt c.1
    if 8 + slot ∈ t.excluded then
      (s.putTrack c.1 { t with excluded := t.excluded.filter (· ≠ 8 + slot) }).clearAlarm 0x070E c.1 [(1, c.1), (1, 8 + slot)]
    else s) s

/-- A slot command takes effect at its boundary (R151, R153). [Log DEDUCED: 73] -/
def State.slotApply (s : State) (c : EstCmd) : State :=
  let g := s.slotGroup c.slot
  let s :=
    if c.action = 1 then
      let was := s.slotStatus c.slot
      let s := s.setStatus c.slot 6 1
      match tfind s.est.disputes g with
      | some d =>
        if was ≠ 5 then s
        else
          let left := s.slotsIn g [5]
          if left.length ≤ 1 then (left.foldl (fun (s : State) n => s.setStatus n 3 2) s).disputeStop g 2
          else { s with est := { s.est with disputes := tput s.est.disputes g { d with decide_ := true } } }
      | none => s
    else if s.slotStatus c.slot = 6 then
      let fresh := match s.slotCfg c.slot with
        | some k => (s.slotSt c.slot).seen && decide (s.now ≤ (s.slotSt c.slot).lastAt + k.staleMs * 1000000) | none => false
      (s.setStatus c.slot (if fresh then 2 else 1) 1).restoreSource c.slot
    else s
  s.disputeBits.result 7 c.action c.slot 2 0 .operator c.keyId c.seq

/-- Slot commands due at a frame boundary: those at least 1 ms old (R153). -/
def State.estCmdsDue (s : State) : State :=
  let due := s.est.cmds.filter fun c => decide (c.at_ + 1000000 ≤ s.now)
  let s : State := { s with est := { s.est with cmds := s.est.cmds.filter (fun c => !decide (c.at_ + 1000000 ≤ s.now)) } }
  due.foldl (fun (s : State) c => s.slotApply c) s

/-! ### Fallback path -/

/-- A slot's last sample lies within the STALE_MS of its points. [Log DEDUCED: 79] -/
def State.slotLive (s : State) (c : EstSlotCfg) : Bool :=
  c.points ≠ [] && c.points.all fun i => (s.pt i).written && decide (s.now ≤ (s.pt i).at_ + c.staleMs * 1000000)

/-- The preferred slot of a kind: the lowest FALLBACK_RANK from 1 up with a live sample (R158). [Log DEDUCED: 79] -/
def State.preferred (s : State) (kind : Nat) : Option (Nat × EstSlotCfg) :=
  (s.man.estSlots.filter fun e => slotKind e.1 = kind && 1 ≤ e.2.rank && s.slotLive e.2 &&
      (kind ≠ 0 || s.slotGroup e.1 = 0)).foldl
    (fun b e => match b with | some x => if e.2.rank < x.2.rank then some e else b | none => some e) none

/-- A change of the preferred slot is recorded (0x070F): kind 0 position, 1 heading; 31 none. [Log DESIGN CHOICE: 76] -/
def State.fbChange (s : State) (kind old new : Nat) : State :=
  if old = new then s else s.record { code := 0x070F, items := [caseItem 0x070F kind, (1, old), (1, new)] }

/-- The fallback path at a frame boundary in SAFE (R158, R159). [Log DEDUCED: 79] -/
def State.fallbackFrame (s : State) : State :=
  let s := s.set R.EST_STAT_STATE 5
  let alive := s.man.fallbackEngines.any fun e => e ∉ s.engStopped
  let p := if alive then s.preferred 0 else none
  let h := if alive then s.preferred 1 else none
  let pn := (p.map (·.1)).getD 31
  let hn := (h.map (·.1)).getD 31
  let s := (s.fbChange 0 s.est.fbPos pn).fbChange 1 s.est.fbHdg hn
  let s : State := { s with est := { s.est with fbPos := pn, fbHdg := hn } }
  let mru := [17, 18, 19, 20].findSome? fun n => match s.slotCfg n with | some c => if s.slotLive c then some c else none | none => none
  let vals := fun (c : Option EstSlotCfg) => match c with
    | some c => c.points.map fun i => (s.ptRead i).1 | none => []
  let args := vals (p.map (·.2)) ++ (match p with | some x => x.2.lever | none => []) ++ vals (h.map (·.2)) ++ vals mru
  let pq : Quality := if p.isSome then .unverified else .masked
  let hq : Quality := if h.isSome then .unverified else .masked
  let s := s.commitAll 0x0C040000 [geoBits 0x0C040000 args, geoBits 0x0C040001 args] s.pm pq
  let s := s.commitAddr 0x0C040002 (q32 ((vals (h.map (·.2))).getD 0 0)) s.pm hq
  (s.commitAddr 0x0C040003 pn s.pm pq).commitAddr 0x0C040004 hn s.pm hq

/-- The estimator at a frame boundary (R142, R43): commands due, and the update begins. -/
def State.estFrame (s : State) : State :=
  let s := s.estCmdsDue
  if s.mode = 5 then { s with est := { s.est with running := none } }.fallbackFrame
  else if s.mode = 2 || s.mode = 3 || s.mode = 4 || (s.mode = 1 && s.get R.MODE_STAT_PHASE = 8) then
    { s with est := { s.est with running := some (s.now, (s.ns : Int)), boundary := s.pm } }
  else s

/-! ### Tracks and heave -/

/-- TRACK_COAST_TIMEOUT (R162): no update for 1 s. -/
def execTrackCoastTimeout (dt track : Nat) (s : State) : Out :=
  let s := s.advance dt
  let st := s.trackState track
  if (st = 1 || st = 2) && !trackFixed s.man track && decide ((s.trackSt track).lastAt + 1000000000 ≤ s.now) then
    .next (s.setTrack track 3)
  else .next s

/-- TRACK_LOST_TIMEOUT (R162): no update for TRACK_COAST. -/
def execTrackLostTimeout (dt track : Nat) (s : State) : Out :=
  let s := s.advance dt
  let st := s.trackState track
  if (st = 1 || st = 2 || st = 3) && !trackFixed s.man track &&
     decide ((s.trackSt track).lastAt + s.man.trackCoast * 1000000000 ≤ s.now) then .next (s.setTrack track 4)
  else .next s

/-- TRACK_SOURCE_EXCLUDE (R161): a BOUND source that failed the track gate GATE_FAIL_N times in a row. -/
def execTrackSourceExclude (dt track source : Nat) (s : State) : Out :=
  let s := s.advance dt
  match tfind s.man.tracks track with
  | some c =>
    if c.bound.getD source true && decide (max 1 c.gateFailN ≤ tget (s.trackSt track).fails source 0) then
      let t := s.trackSt track
      let s := s.putTrack track { t with fails := tdel t.fails source, excluded := source :: t.excluded.filter (· ≠ source) }
      let s := s.set R.EST_TRK_STAT_EXCLUDED (s.get R.EST_TRK_STAT_EXCLUDED track ||| 2 ^ source) track
      .next (s.alarm 0x070E track [(1, track), (1, source)])
    else .next s
  | none => .next s

/-- WAVE_PEAK_SEARCH (R163): every WAVE_WIN / 4, six frequencies within 0.03 to 0.5 Hz. -/
def execWavePeakSearch (dt : Nat) (freqs : List Rat) (s : State) : Out :=
  let s := s.advance dt
  if s.now < s.est.peakAt + s.man.waveWin * 250000000 then .next s
  else .next { s with est := { s.est with
    peakAt := s.now, freqs := (freqs.take 6).map fun f => max (3 / 100) (min (1 / 2) f) } }

/-- HEAVE_MRU_TIMEOUT (R165): no MRU in use for 10 s. [Log DEDUCED: 74] -/
def execHeaveMruTimeout (dt : Nat) (s : State) : Out :=
  let s := s.advance dt
  match s.est.mruAt with
  | some t =>
    if t + 10000000000 ≤ s.now then .next ((s.set R.EST_HEAVE_PT_GOOD 0).set R.EST_HEAVE_PT_USABLE 0) else .next s
  | none => .next s

end Sys2Proof.Machine
end

