-- ==== Sys2Proof/Machine/Muster.lean ====
section
/-!
DEFINITION. Power, reset and MUSTER (R44 to R50, R64 to R71, R492 to R498), and the pairing that ends it.
-/

namespace Sys2Proof.Machine

open Sys2Proof

/-! ### Supplies and resets -/

/-- POWER_UP (R494 step 1): VDD_AON is in range; after 2 ms PWR_EN_IO is released, and PWR_EN_CORE where the I/O rails are in
range already. -/
def execPowerUp (dt : Nat) (s : State) : Out :=
  let s := s.advance dt
  .next { s with mus := { s.mus with aonAt := some s.now, enIo := true, ioAt := s.now + 2000000,
                                     enCore := s.railsOk ioRails } }

/-- RAIL_POWER_GOOD (R494 to R497): rails come into range. [Log DEDUCED: 265] -/
def execRailPowerGood (dt : Nat) (rails : List Rail) (s : State) : Out :=
  let s := s.advance dt
  let s : State := { s with mus := { s.mus with railOk := rails.filter (fun r => r ∉ s.mus.railOk) ++ s.mus.railOk } }
  let s : State := { s with mus := { s.mus with enCore := s.mus.enCore || (s.mus.enIo && s.railsOk ioRails) } }
  if !s.railsOk mainRails || s.mus.porLow then .next s
  else if s.mus.wake || s.mus.brown then .next (s.startMuster s.mus.straps (s.now + 1000000))
  else if s.mus.running && s.get R.MODE_STAT_PHASE = 0 && s.mode = 1 && s.powerDone then .next (s.set R.MODE_STAT_PHASE 1)
  else .next s

/-- POR_N_RELEASE (R45, R495): MUSTER starts; with the rails off the supplies are brought up first. [Log DEDUCED: 265] -/
def execPorNRelease (dt : Nat) (straps : Straps) (s : State) : Out :=
  let s := s.advance dt
  if s.mus.aonAt = none then .next s
  else if !s.mus.enIo then
    let m := { s.mus with porLow := false, enIo := true, ioAt := s.now, wake := true, straps := straps, thermalOff := false }
    .next { s with mus := m }
  else .next ({ s with mus := { s.mus with thermalOff := false } }.startMuster straps s.now |>.porNoted s.mus.porReset)

/-- POR_N_ASSERT (R496): a low of 5 µs resets every domain but the always-on domain; a shorter one is ignored. [Log DEDUCED: 265] -/
def execPorNAssert (dt lowNs : Nat) (s : State) : Out :=
  let s := s.advance dt
  if lowNs < 5000 then .next s
  else
    let s' := s.domainReset
    .next { s' with mus := { s'.mus with porLow := true, porReset := s.mus.running } }

/-- BROWN_OUT (R497): a rail other than VDD_AON below its minimum for 2 µs acts as POR_N; MUSTER starts when all are back.
[Log DEDUCED: 265] -/
def execBrownOut (dt : Nat) (rail : Rail) (lowNs : Nat) (s : State) : Out :=
  let s := s.advance dt
  if lowNs < 2000 || rail = .aon then .next s
  else
    let s' := s.domainReset
    .next { s' with mus := { s'.mus with railOk := s.mus.railOk.filter (· ≠ rail), brown := true, straps := s.mus.straps } }

/-- VDD_AON_LOSS (R497): the RTC and the retention SRAM are lost; what flash, fuses and OTP hold stays. [Log DEDUCED: 25] -/
def execVddAonLoss (dt : Nat) (s : State) : Out :=
  let s := s.advance dt
  let s' := s.domainReset
  let s' : State := { s' with
    time := {}, mus := { capacity := s.mus.capacity, perst := s.mus.perst }, gnssRet := none
    log := { s'.log with hold := [], lostSeqs := [], lostFirstR := 0, lostFirstH := 0 } }
  let s' := ((s'.set R.PWR_WAKE_SRC_CAN 0).set R.PWR_WAKE_SRC_WAKE_IN 0).set R.PWR_WAKE_SRC_RTC 0
  let s' := ((s'.set R.PWR_WAKE_SRC_SAFE_IN 0).set R.PWR_WAKE_SRC_HOST 0).set R.PWR_WAKE_SRC_THERMAL_OFF 0
  let s' := ((s'.set R.PWR_RTC_ALARM_SEC 0).set R.PWR_WAKE_EN_CAN 0).set R.PWR_WAKE_EN_WAKE_IN 0
  let s' := ((s'.set R.PWR_WAKE_EN_WAKE_POL 0).set R.PWR_WAKE_EN_RTC 0).set R.PWR_WAKE_EN_SAFE_IN 0
  .next ((s'.set R.PWR_WAKE_EN_HOST 0).set R.PWR_WAKE_SRC_POR 1)

/-! ### PLL, header, DRAM -/

/-- The highest SEQ found in flash (R452): on from `seq` while the next position holds the next record and its CRC holds, and
whether the invalid position `bad` ended the way. -/
def flashWalk (flash : Tab Rec) (bad : Option Nat) : Nat → Nat → Nat × Bool
  | 0, seq => (seq, false)
  | fuel + 1, seq =>
    let p := (seq + 1) % 1052672
    if bad = some p then (seq, true)
    else match tfind flash p with
      | some r => if r.seq = seq + 1 then flashWalk flash bad fuel (seq + 1) else (seq, false)
      | none => (seq, false)

/-- The recorder starts (R452): the next SEQ is one above the highest found in flash, journal or hold area; the start record
takes it. An invalid flash position on the way, and the journal's invalid copies (R90), are recorded. [Log DEDUCED: 25, 245] -/
def State.recorderStart (s : State) (scan : FlashScan) : State :=
  let w := flashWalk s.log.flash scan.badPos (s.log.flash.length + 1) s.log.ringState
  let top := (s.log.hold.map (·.seq)).foldl max w.1
  let n := s.log.hold.length
  let s : State := { s with log := { s.log with head := top, isOpen := false } }.inc R.LOG_LOST_HOLD 0 s.log.lostHold
  let s := s.record { code := 0x1601, items := [(8, top), (2, n), (4, s.wakeSrcWord)], key := 0 }
  let s := if w.2 then s.record { code := 0x1607, items := [(4, (w.1 + 1) % 1052672)] } else s
  scan.badCopies.foldl (fun (s : State) x => s.record { code := 0x0307, items := [(1, x.1), (1, x.2)] }) s

/-- What the always-on domain kept for the recorder: a POR_N or MODE_RESET reset, a HALT, a lost RTC (R63, R118, R481).
[Log DEDUCED: 26, 206] -/
def State.startNotes (s : State) : State :=
  let s := if s.mus.porReset then s.record { code := 0x0205, items := [(1, 1)] } else s
  let s := match s.mus.modeReset with
    | some k => s.record { code := 0x0205, role := .operator, keyId := k, items := [(1, 2)] }
    | none => s
  let s := match s.mus.haltPll with
    | some p => (s.record { code := 0x0204, items := [(1, 1), (1, 0), (1, 0x10)] }).record
        { code := 0x0108, items := [(1, p)] }
    | none => s
  let s := if s.mus.woke then s.record { code := 0x1203, items := [(4, s.wakeSrcWord)] } else s
  let s := match s.mus.shutNote with
    | some (n, t, op, us) => s.record { code := 0x1306, source := n, items := [(1, n), sItem 2 t, caseItem 0x1306 op, (2, us)], key := 1 }
    | none => s
  let s : State := { s with mus := { s.mus with haltPll := none, woke := false, shutNote := none } }
  if s.flag R.TIME_STAT_RTC_VALID then s else s.record { code := 0x050B }

/-- The PLLs lock: clock monitors, safety island and recorder start (R21, R43, R452). -/
def State.pllUp (s : State) (scan : FlashScan) : State :=
  ((({ s with mus := { s.mus with pllLocked := true } }.set R.MODE_STAT_PHASE 2).recorderStart scan).startNotes).islandStart

/-- PLL_LOCK (R21, R45). [Log DEDUCED: 34] -/
def execPllLock (dt : Nat) (scan : FlashScan) (s : State) : Out :=
  let s := s.advance dt
  if s.mode = 1 && s.get R.MODE_STAT_PHASE = 1 && s.mus.at_ ≤ s.now then .next (s.pllUp scan) else .next s

/-- PLL_RETRY (R45): the one retry, 1 ms after a failed lock; a second failure is HALT, left only by POR_N or a power cycle.
[Log DEDUCED: 34] -/
def execPllRetry (dt : Nat) (locked : Bool) (pllState : Nat) (scan : FlashScan) (s : State) : Out :=
  let s := s.advance dt
  if s.mode = 1 && s.get R.MODE_STAT_PHASE = 1 && s.mus.at_ ≤ s.now then
    if locked then .next (s.pllUp scan)
    else .next ({ s with mus := { s.mus with haltPll := some (pllState % 16) } }.set R.MODE_STAT_PHASE 15)
  else .next s

/-- MUSTER ends in SAFE with a cause and the kind of a device fault (R19, R46, R53). -/
def State.musterSafe (s : State) (cause : Nat) (kind : Nat := 0) : State :=
  let s := ((s.set R.MODE_STAT_MODE 5).set R.MODE_STAT_PHASE 0).set R.MODE_STAT_SAFE_CAUSE cause
  let s := (s.setSat R.MODE_MUSTER_MS_TOTAL ((s.now - s.mus.at_) / 1000000)).setSat R.MODE_MUSTER_MS_PAIRING
    (s.mus.pairingNs / 1000000)
  let s := s.record { code := 0x0201, items := [(1, 1), (1, 5), (8, s.tick)], key := 2 }
  (((s.evt R.MODE_EVT_MODE_CHANGED).evt R.MODE_EVT_SAFE_ENTERED).islandRunInEnd).safeCause cause kind

/-- A phase fails, without leading to the other slot (R63: reason codes 0x10 to 0x15). [Log DESIGN CHOICE: 28] -/
def State.phaseFail (s : State) (reason cause : Nat) (kind : Nat := 0) : State :=
  (s.record { code := 0x0204, items := [(1, s.get R.MODE_STAT_PHASE), (1, s.get R.MODE_STAT_SLOT), (1, reason)] }).musterSafe
    cause kind

/-- RUN-IN ends in SAFE with the cause of a trigger (R45, R53, R60); one of a device fault (0x06, 0x07) is a phase failure.
[Log DEDUCED: 32] -/
def State.runInFail (s : State) (cause : Nat) : State :=
  let kind := s.mnf.safeKind
  let s : State := { s with mnf := { s.mnf with safePending := none, safeKind := 0 } }
  if cause = 6 ∨ cause = 7 then s.phaseFail 0x15 cause kind else s.musterSafe cause kind

/-- The slot now tried: A first, then B; each at most once per MUSTER (R46). -/
def State.curSlot (s : State) : Nat := if s.mus.tried = [] then 1 else 2

/-- A slot is rejected (R46, R69): recorded, and the other slot is tried from HEADER, or MUSTER ends in SAFE with
CONFIG-FAULT. [Log DESIGN CHOICE: 28] -/
def State.slotReject (s : State) (reason : Nat) (err : Nat := 0) (more : List (Nat × Nat) := []) : State :=
  let n := s.curSlot
  let s := if n = 1 then (s.set R.MNF_STAT_A_STATE 2).set R.MNF_STAT_A_REASON reason
    else (s.set R.MNF_STAT_B_STATE 2).set R.MNF_STAT_B_REASON reason
  let s := s.record { code := 0x0302, items := [(1, n), (1, reason), (4, err)] ++ more }
  let s := s.record { code := 0x0204, items := [(1, s.get R.MODE_STAT_PHASE), (1, n), (1, reason)] }
  let s : State := { s with mus := { s.mus with tried := n :: s.mus.tried, header := none, loaded := false } }
  if n = 1 then s.set R.MODE_STAT_PHASE 2 else s.musterSafe 1

/-- Slot sizes by flash capacity (R64). -/
def slotBytes (capacity : Nat) : Nat := if capacity < 268435456 then 31457280 else 50331648

/-- Two sections overlap. -/
def secOverlap (a b : Section) : Bool := decide (a.offset < b.offset + b.size) && decide (b.offset < a.offset + a.size)

/-- The owner of a section type (R66): 1 Maker, 2 Installer. -/
def secOwner (t : Nat) : Option Nat :=
  if t = 1 ∨ t = 2 ∨ t = 3 then some 1 else if 0x10 ≤ t ∧ t ≤ 0x1C then some 2 else none

/-- The required types, with ISLAND_FW where an -SE manifest has SAFETY (R66). -/
def secRequired (se : Bool) (types : List Nat) : List Nat :=
  [1, 3, 0x10, 0x12, 0x13] ++ (if se && decide (0x19 ∈ types) then [2] else [])

/-- Pairwise freedom from overlap. -/
def noOverlap : List Section → Bool
  | [] => true
  | a :: t => t.all (fun b => !secOverlap a b) && noOverlap t

/-- A header's reject reason (R65, R66, R69): the first that applies of 1 HEADER, 2 BOUNDS, 3 SECTION, 4 GRADE. -/
def headerReason (capacity : Nat) (grade : Nat) (h : Header) : Option Nat :=
  let used := h.table.take h.sections
  let types := used.map (·.type)
  if h.magic ≠ 0x4D565841 || h.format ≠ 1 || !h.crcOk || h.sections = 0 || 64 < h.sections ||
     used.length ≠ h.sections || used.any (·.type = 0) || (h.table.drop h.sections).any (fun e => e ≠ ⟨0, 0, 0, 0, 0, 0⟩) ||
     capacity < 134217728 then some 1
  else if h.length % 4096 ≠ 0 || slotBytes capacity < h.length + 4096 ||
     used.any (fun e => e.offset % 4096 ≠ 0 || e.offset < 0x1000 || h.length < e.offset + e.size) || !noOverlap used then some 2
  else if !types.Nodup || used.any (fun e => secOwner e.type ≠ some e.owner) ||
     (secRequired (grade = 1) types).any (fun t => t ∉ types) then some 3
  else if h.grade ≠ 3 && h.grade ≠ grade then some 4
  else none

/-- HEADER_READ_DONE (R64 to R66): the header of the slot in turn is read and judged. -/
def execHeaderReadDone (dt capacity : Nat) (h : Header) (s : State) : Out :=
  let s := s.advance dt
  if !(s.mode = 1 && s.get R.MODE_STAT_PHASE = 2) then .next s
  else
    let s : State := { s with mus := { s.mus with capacity := capacity } }
    let s := (s.set R.MNF_STAT_SLOT_MIB (slotBytes capacity / 1048576)).set R.MNF_STAT_FLASH_LOG2 (Nat.log2 (capacity / 1048576))
    match headerReason capacity (s.get R.DEV_GRADE_GRADE) h with
    | some r => .next (s.slotReject r)
    | none => .next ({ s with mus := { s.mus with header := some h } }.set R.MODE_STAT_PHASE 3)

/-- DRAM returns: held records enter the RAM ring in SEQ order, ahead of newer ones (R446). [Log DEDUCED: 245] -/
def State.dramReturn (s : State) : State :=
  let held := s.log.hold.reverse
  let s : State := { s with log := { s.log with hold := [] } }
  (held.foldl State.ramPush s).lossRecord 2

/-- DRAM_TRAINING_DONE (R19): a capacity other than 2, 4 or 8 GiB, or a failed training, ends MUSTER in SAFE. -/
def execDramTrainingDone (dt gib : Nat) (trained : Bool) (s : State) : Out :=
  let s := s.advance dt
  if !(s.mode = 1 && (s.get R.MODE_STAT_PHASE = 2 || s.get R.MODE_STAT_PHASE = 3) && !s.mus.dramTrained) then .next s
  else if gib ≠ 2 ∧ gib ≠ 4 ∧ gib ≠ 8 then .next (s.phaseFail 0x11 2)
  else if !trained then .next (s.phaseFail 0x12 2)
  else
    let s : State := { s with mus := { s.mus with dramUp := true, dramTrained := true, dramGib := gib } }
    .next ((s.set R.DEV_GRADE_DRAM_GIB gib).dramReturn)

/-- A body's reject reason (R67, R69): 5 NO-KEY, 6 DIGEST, 7 MAKER_TAG, 8 INSTALLER_TAG. -/
def bodyReason (maker inst : Option (Nat × Nat)) (c : BodyCheck) : Option Nat :=
  match maker, inst with
  | some mk, some ik =>
    if c.dAll ≠ c.digest || !c.padZero then some 6
    else if c.makerTag ≠ ofBe (hmacSha256 (bytes32 mk.1) (bytes32 c.dMaker)) then some 7
    else if c.instTag ≠ ofBe (hmacSha256 (bytes32 ik.1) (bytes32 c.dAll)) then some 8
    else none
  | _, _ => some 5

/-- The franking mark: bytes 0 to 7 of D_all (R68). -/
def markOf (dAll : Nat) : Nat := dAll / 2 ^ 192 % 2 ^ 64

/-- MANIFEST_LOAD_DONE (R67, R68): the body is judged; an accepted one gives the device its mark and manifest. -/
def execManifestLoadDone (dt : Nat) (chk : BodyCheck) (man : Manifest) (s : State) : Out :=
  let s := s.advance dt
  if !(s.mode = 1 && s.get R.MODE_STAT_PHASE = 3) then .next s
  else
    match bodyReason s.role.makerKey s.role.instKey chk with
    | some r => .next (s.slotReject r)
    | none =>
      let m := markOf chk.dAll
      let h := s.mus.header.getD {}
      let s : State := { s with man := man, mus := { s.mus with loaded := true } }
      let s := (s.set R.MNF_FRANK_HI_MARK_HI (m / 2 ^ 32)).set R.MNF_FRANK_LO_MARK_LO (m % 2 ^ 32)
      let s := (s.set R.MNF_LEN_BYTES (h.length + 4096)).set R.MNF_GEN_GENERATION h.generation
      .next (s.set R.MODE_STAT_PHASE (if s.mus.bistOk then 5 else 4))

/-- BIST_DONE (R45): a failure ends MUSTER in SAFE with SELFTEST-FAULT. -/
def execBistDone (dt : Nat) (lbistOk memOk : Bool) (s : State) : Out :=
  let s := s.advance dt
  if !(s.mode = 1 && s.get R.MODE_STAT_PHASE = 4) then .next s
  else if !lbistOk then .next (s.phaseFail 0x13 3)
  else if !memOk then .next (s.phaseFail 0x14 3)
  else .next ({ s with mus := { s.mus with bistOk := true } }.set R.MODE_STAT_PHASE 5)

/-- The device's own mark, as 64 bits. -/
def State.mark (s : State) : Nat := s.get R.MNF_FRANK_HI_MARK_HI * 2 ^ 32 + s.get R.MNF_FRANK_LO_MARK_LO

/-- CLAIMS_CHECK_DONE (R71): the nine checks in order; the first failure rejects the slot, else it is accepted and the device
is configured from it. -/
def execClaimsCheckDone (dt : Nat) (s : State) : Out :=
  let s := s.advance dt
  if !(s.mode = 1 && s.get R.MODE_STAT_PHASE = 5) then .next s
  else
    match s.claimsCheck with
    | some f =>
      let s := if s.get R.MNF_CLAIM_ERR_CHECK = 0 then
          (((s.set R.MNF_CLAIM_ERR_CHECK f.check).set R.MNF_CLAIM_ERR_CLASS f.cls).set R.MNF_CLAIM_ERR_INDEX f.idx).set
            R.MNF_CLAIM_ERR_SLOT (s.curSlot - 1)
        else s
      .next (s.slotReject f.reason (f.word (s.curSlot - 1)) f.more)
    | none =>
      let n := s.curSlot
      let s := if n = 1 then s.set R.MNF_STAT_A_STATE 1 else s.set R.MNF_STAT_B_STATE 1
      let s := s.set R.MODE_STAT_SLOT n
      let s := s.record
        { code := 0x0301, items := [(1, n), (8, s.mark), (4, s.get R.MNF_GEN_GENERATION)] }
      let s := s.configure
      let s : State := { s with mus := { s.mus with pairAt := s.now, pairStart := some s.now } }
      .next ((s.set R.MODE_STAT_PHASE 6).set R.TWIN_STAT_STATE 1)

/-! ### Pairing and the end of MUSTER (R47, R49, R355, R356) -/

/-- Time spent in PAIR, SYNC and PAIR-HOLD is added up when RUN-IN starts (R47). -/
def State.pairingEnd (s : State) : State :=
  match s.mus.pairStart with
  | some t => { s with mus := { s.mus with pairingNs := s.mus.pairingNs + (s.now - t), pairStart := none } }
  | none => s

/-- RUN-IN starts (R45, R47): the tick counter of an active starts at 0. [Log DEDUCED: 22] -/
def State.startRunIn (s : State) (active paired : Bool) (tick0 : Nat) : State :=
  let s := s.pairingEnd
  let s := (s.set R.MODE_STAT_PHASE 8).setB R.MODE_STAT_ACTIVE active
  let s := (s.setB R.MODE_STAT_PAIRED paired).setB R.TWIN_STAT_ACTIVE_OUT active
  let s := (s.setB R.TWIN_STAT_PEER_OK_OUT (active || paired)).set R.TWIN_STAT_STATE (if paired then 4 else 0)
  let s : State := { s with tick := tick0, mus := { s.mus with runInAt := s.now } }
  (s.canUp).ethUp

/-- The pairing alarm (R49, R368). [Log DESIGN CHOICE: 21] -/
def State.unpairedAlarm (s : State) (reason : Nat) : State :=
  let s : State := { s with twin := { s.twin with unpairedAlarm := true, unpairedReason := reason } }
  ((s.set R.MODE_STAT_PAIRED 0).evt R.TWIN_EVT_UNPAIRED).alarm 0x1105 0xFFFF [(1, reason)]

/-- PAIR-HOLD is entered (R45, R49). -/
def State.pairHold (s : State) (activeIn : Bool) : State :=
  let s := (s.set R.MODE_STAT_PHASE 9).set R.TWIN_STAT_STATE 7
  ((s.evt R.MODE_EVT_PAIR_HOLD).record
    { code := 0x0206, items := [(1, if activeIn then 1 else 0), (1, s.get R.TWIN_STAT_REFUSAL)] }).canUp

/-- The device becomes active unpaired and runs in (R49). [Log DESIGN CHOICE: 21] -/
def State.activeAlone (s : State) : State :=
  (s.startRunIn true false 0).unpairedAlarm (if s.get R.TWIN_STAT_LANES = 0 then 3 else 4)

/-- No peer, and no sign that one drives: seat A becomes active at once, seat B waits 250 ms (R49). [Log DESIGN CHOICE: 21] -/
def State.noPeer (s : State) (activeIn : Bool) : State :=
  if activeIn then s.pairHold true
  else if s.mus.straps.seatB then { s with mus := { s.mus with seatBAt := some s.now } }
  else s.activeAlone

/-- The check of the Maker and Installer key identities that is exchanged (R355). -/
def State.keyCheck (s : State) : Nat :=
  (match s.role.makerKey with | some k => k.2 | none => 0) * 65536 + (match s.role.instKey with | some k => k.2 | none => 0)

/-- Why a peer is refused (R355): 1 GRADE, 2 MARK, 3 SEAT-CLASH, 4 KEYS; 0 not at all. -/
def State.refusal (s : State) (p : PeerInfo) : Nat :=
  if p.grade ≠ s.get R.DEV_GRADE_GRADE then 1
  else if p.mark ≠ s.mark then 2
  else if p.seatB = s.mus.straps.seatB then 3
  else if p.keyCheck ≠ s.keyCheck then 4
  else 0

/-- The record 0x1102 (R373, R480): role, snapshot size and duration in the widths of TWIN_SYNC, result. [Log DEDUCED: 33] -/
def State.syncRecord (s : State) (role ms res : Nat) : State :=
  s.record { code := 0x1102, items := [(1, role), (2, s.get R.TWIN_SYNC_MIB), (2, min 65535 ms), (1, res)], key := 1 }

/-- PAIR_HANDSHAKE (R49, R355, R356). [Log DEDUCED: 23, 24, 33] -/
def execPairHandshake (dt : Nat) (peer : PeerInfo) (activeIn : Bool) (s : State) : Out :=
  let s := (s.advance dt).setB R.TWIN_STAT_ACTIVE_IN activeIn
  let why := s.refusal peer
  let pairing := s.mode = 1 && (s.get R.MODE_STAT_PHASE = 6 || s.get R.MODE_STAT_PHASE = 9)
  let serving := s.isActive && 2 ≤ s.mode && s.mode ≤ 5 && !s.isPaired
  if !pairing && !serving then .next s
  else
    let s : State := { s.set R.TWIN_STAT_REFUSAL why with twin := { s.twin with peer := some peer } }
    if why ≠ 0 then
      let s := s.record { code := 0x1101, source := 0xFFFF, items := [(1, why), (1, peer.grade), (8, peer.mark), (1, if peer.seatB then 1 else 0)] }
      if serving then .next s
      else if s.get R.MODE_STAT_PHASE = 9 then .next s
      else .next (s.noPeer activeIn)
    else if serving then
      let s : State := { s.set R.TWIN_STAT_STATE 2 with twin := { s.twin with peer := some peer, syncAt := s.now } }
      .next (s.syncRecord 0 0 0)
    else
      let hold : Bool := decide (s.get R.MODE_STAT_PHASE = 9)
      let s : State := if hold then s.record { code := 0x0206, items := [(1, if activeIn then 1 else 0), (1, 0)] } else s
      if peer.active && 2 ≤ peer.mode && peer.mode ≤ 5 then
        let s := (s.set R.MODE_STAT_PHASE 7).set R.TWIN_STAT_STATE 3
        .next ({ s with twin := { s.twin with syncAt := s.now, syncBlocks := 0 } }.syncRecord 1 0 0)
      else
        let s := (s.startRunIn (!hold && !s.mus.straps.seatB) true 0)
        .next (s.evt R.TWIN_EVT_PAIRED)

/-- PAIR_TIMEOUT (R49): no peer within 2 s. -/
def execPairTimeout (dt : Nat) (activeIn : Bool) (s : State) : Out :=
  let s := (s.advance dt).setB R.TWIN_STAT_ACTIVE_IN activeIn
  if s.mode = 1 && s.get R.MODE_STAT_PHASE = 6 && s.mus.pairAt + 2000000000 ≤ s.now && s.mus.seatBAt = none
  then .next (s.noPeer activeIn) else .next s

/-- SEAT_B_RECHECK (R49): 250 ms later seat B samples ACTIVE_IN again. -/
def execSeatBRecheck (dt : Nat) (activeIn : Bool) (s : State) : Out :=
  let s := (s.advance dt).setB R.TWIN_STAT_ACTIVE_IN activeIn
  match s.mus.seatBAt with
  | none => .next s
  | some t =>
    if s.mode = 1 && s.get R.MODE_STAT_PHASE = 6 && t + 250000000 ≤ s.now then
      let s : State := { s with mus := { s.mus with seatBAt := none } }
      if activeIn then .next (s.pairHold true) else .next s.activeAlone
    else .next s

/-- PAIR_HOLD_RETRY (R45): in PAIR-HOLD the device retries PAIR every 1 s; a peer it then finds answers by a handshake. -/
def execPairHoldRetry (dt : Nat) (s : State) : Out :=
  let s := s.advance dt
  if s.mode = 1 && s.get R.MODE_STAT_PHASE = 9 && s.mus.pairAt + 1000000000 ≤ s.now then
    .next { s with mus := { s.mus with pairAt := s.now } }
  else .next s

/-- The values of a snapshot block are taken. -/
def State.loadBlock (s : State) (b : SnapBlock) : State :=
  let s := b.regs.foldl (fun s r => s.set r.fld r.value r.bank) s
  b.pts.foldl (fun (s : State) x =>
    let p := { s.pt x.1 with value := x.2.1, pm := x.2.2.1, wq := x.2.2.2, written := true, stale := false, at_ := s.now }
    { s with pts := tput s.pts x.1 p }) s

/-- SNAPSHOT_BLOCK_RECEIVE (R356): with the last block the standby holds the active's state; it is IN-STEP, raises PEER_OK_OUT
and, in MUSTER, runs in. -/
def execSnapshotBlockReceive (dt : Nat) (blk : SnapBlock) (s : State) : Out :=
  let s := s.advance dt
  if s.get R.TWIN_STAT_STATE ≠ 3 then .next s
  else
    let s := s.loadBlock blk
    let s : State := { s with twin := { s.twin with syncBlocks := s.twin.syncBlocks + 1 } }
    if s.twin.syncBlocks < blk.total then .next s
    else
      let ms := (s.now - s.twin.syncAt) / 1000000
      let s := (s.setSat R.TWIN_SYNC_MS ms).set R.TWIN_SYNC_MIB (blk.total * 4096 / 1048576)
      let s := s.syncRecord 1 ms 1
      let s := if s.mode = 1 then s.startRunIn false true blk.tick
        else { ((s.set R.TWIN_STAT_STATE 4).set R.MODE_STAT_PAIRED 1).set R.TWIN_STAT_PEER_OK_OUT 1 with tick := blk.tick }
      let s : State := { s with time := { s.time with ptp := [] } }
      .next (s.evt R.TWIN_EVT_PAIRED)

/-- SYNC_TIMEOUT (R356): a SYNC not IN-STEP within 250 ms returns to PAIR; a detached standby stays detached and retries. -/
def execSyncTimeout (dt : Nat) (s : State) : Out :=
  let s := s.advance dt
  if (s.get R.TWIN_STAT_STATE = 3 || s.get R.TWIN_STAT_STATE = 2) && s.twin.syncAt + 250000000 ≤ s.now then
    let sending := s.get R.TWIN_STAT_STATE = 2
    let s := s.syncRecord (if sending then 0 else 1) ((s.now - s.twin.syncAt) / 1000000) 2
    if sending then .next (s.set R.TWIN_STAT_STATE 0)
    else if s.mode = 1 then
      .next ({ s with mus := { s.mus with pairAt := s.now } }.set R.MODE_STAT_PHASE 6 |>.set R.TWIN_STAT_STATE 1)
    else .next ({ s with twin := { s.twin with syncRetryAt := s.now } }.set R.TWIN_STAT_STATE 5)
  else .next s

/-- SYNC_RETRY (R367): a detached standby retries SYNC every 1 s while the link is up. -/
def execSyncRetry (dt : Nat) (s : State) : Out :=
  let s := s.advance dt
  if s.get R.TWIN_STAT_STATE = 5 && s.get R.TWIN_STAT_LANES ≠ 0 && s.twin.syncRetryAt + 1000000000 ≤ s.now then
    let s : State := { s.set R.TWIN_STAT_STATE 3 with twin := { s.twin with syncAt := s.now, syncBlocks := 0, syncRetryAt := s.now } }
    .next (s.syncRecord 1 0 0)
  else .next s

/-- RUN_IN_END (R47, R53, R60): after 30,000 ticks the device enters READY, or the mode of the active it joins; with a SAFE
trigger it enters SAFE. [Log DEDUCED: 32, 207] -/
def execRunInEnd (dt : Nat) (s : State) : Out :=
  let s := s.advance dt
  if !(s.mode = 1 && s.get R.MODE_STAT_PHASE = 8 && s.mus.runInAt + 300000000 ≤ s.now) then .next s
  else
    let holds := if s.flag R.THRM_STAT_AT_HARD then some 4 else if s.flag R.THRM_STAT_BROKEN_OVER then some 5 else none
    match s.mnf.safePending.or holds with
    | some c => .next (s.runInFail c)
    | none =>
      let target := if s.isActive then 2 else match s.twin.peer with
        | some p => if p.active && 2 ≤ p.mode && p.mode ≤ 5 then p.mode else 2
        | none => 2
      let s := (s.set R.MODE_STAT_MODE target).set R.MODE_STAT_PHASE 0
      let s := (s.setSat R.MODE_MUSTER_MS_TOTAL ((s.now - s.mus.at_) / 1000000)).setSat R.MODE_MUSTER_MS_PAIRING
        (s.mus.pairingNs / 1000000)
      let s : State := { s with outHeld := !s.isActive }
      let s := s.islandRunInEnd
      .next ((s.evt R.MODE_EVT_MODE_CHANGED).record { code := 0x0201, items := [(1, 1), (1, target), (8, s.tick)], key := 2 })

end Sys2Proof.Machine
end

