-- ==== Sys2Proof/Machine/Yuz.lean ====
section
/-!
DEFINITION. The Yuzal solver array (R218 to R238): submission, order of service, completion, deadlines, verdicts of a twin pair
and the self-test. What a batch computes comes with the command, as its items' status words and result areas.
-/

namespace Sys2Proof.Machine

open Sys2Proof

/-- The deadline is passed (R232), in 32-bit postmark arithmetic. -/
def deadlinePassed (now32 deadline : Nat) : Bool := decide ((now32 + 2 ^ 32 - deadline) % 2 ^ 32 < 2 ^ 31)

/-- YUZ_STAT's queue and run fields (R237). -/
def State.yuzStat (s : State) : State :=
  let m := match s.yuz.run with | some b => b.mask | none => 0
  let k := match s.yuz.run with | some b => b.kind | none => 0
  (((s.set R.YUZ_STAT_QUEUED s.yuz.queue.length).setB R.YUZ_STAT_BUSY s.yuz.run.isSome).set R.YUZ_STAT_RUN_KIND k).set
    R.YUZ_STAT_TILE_BUSY m

/-- The miss counter of a kind (R237). -/
def missFld : Nat → Fld
  | 1 => R.YUZ_MISS_HELM
  | 2 => R.YUZ_MISS_ALLOC
  | _ => R.YUZ_MISS_CONS

/-- YUZ_LAST_CLAMP of a batch without a clamp (R237). [Log DEDUCED: 118] -/
def State.yuzNoClamp (s : State) (kind : Nat) : State :=
  let s := ((s.set R.YUZ_LAST_CLAMP_ITEM 0 kind).set R.YUZ_LAST_CLAMP_PIVOT 0 kind).set R.YUZ_LAST_CLAMP_STEP 0 kind
  (s.set R.YUZ_LAST_CLAMP_ITER 0 kind).set R.YUZ_LAST_CLAMP_COUNT 0 kind

/-- A batch that never starts (R219): every item NOT-DONE, a deadline miss with EXPIRED. Causes: 0 queue full, 1 reserved OP,
2 deadline. [Log DEDUCED: 118, 119] -/
def State.yuzExpire (s : State) (b : Batch) (cause : Nat) : State :=
  let w := (s.now - b.at_) / 1000
  let s := (List.range b.items).foldl (fun (s : State) i =>
    { s with yuz := { s.yuz with items := tput s.yuz.items (b.kind * 256 + i) { done := false, endCycle := 0xFFFFFFFF } } }) s
  let s := (s.set R.YUZ_LAST_STAT_DONE 0 b.kind).set R.YUZ_LAST_STAT_NOT_DONE b.items b.kind
  let s := (s.set R.YUZ_LAST_STAT_MISS 1 b.kind).set R.YUZ_LAST_STAT_EXPIRED 1 b.kind
  let s := ((s.set R.YUZ_LAST_STAT_SAT 0 b.kind).set R.YUZ_LAST_STAT_CLAMPED 0 b.kind).set R.YUZ_LAST_STAT_ITER_REACHED 0 b.kind
  let s := ((s.set R.YUZ_LAST_STAT_VERDICT 0 b.kind).set R.YUZ_LAST_SEQ_SEQ b.seq b.kind).setSat R.YUZ_LAST_TIME_WAIT_US w b.kind
  let s := (s.setSat R.YUZ_LAST_TIME_TOTAL_US w b.kind).yuzNoClamp b.kind
  let s := (s.set R.YUZ_LAST_CYC_CYCLES 0 b.kind).set R.YUZ_LAST_RES_RES 0 b.kind
  let s : State := if s.follows then s else { s with yuz := { s.yuz with sent := some (b.seq, some (0, 0)) } }
  let s := if b.kind ≤ 3 then s.incSat (missFld b.kind) else s
  let s := ((s.incSat R.YUZ_MISS_EXPIRED).evt R.YUZ_EVT_EXPIRED).evt R.YUZ_EVT_MISS
  s.record { code := 0x0A02, source := b.kind, items := [(1, b.kind), (4, b.seq), (2, min 65535 w), caseItem 0x0A02 cause], key := 1 }

/-- Firmware submits a batch (R219, R223): refused on a full queue, or where a step uses a reserved operation code. -/
def State.yuzSubmit (s : State) (b : Batch) : State :=
  let b := { b with seq := (s.yuz.seq + 1) % 2 ^ 32, at_ := s.now }
  let s : State := { s with yuz := { s.yuz with seq := b.seq } }
  if b.ops.any fun o => o = 0 || 9 < o then s.yuzExpire b 1
  else if 4 ≤ s.yuz.queue.length then s.yuzExpire b 0
  else { s with yuz := { s.yuz with queue := s.yuz.queue ++ [b] } }.yuzStat

/-- The first batch of the lowest class number, in order of submission (R219). -/
def nextBatch : List Batch → Option Batch
  | [] => none
  | b :: t => match nextBatch t with | some c => if c.cls < b.cls then some c else some b | none => some b

/-- YUZ_BATCH_START (R219): the array and its power domain are free; a batch whose deadline has passed is never started. -/
def execYuzBatchStart (dt : Nat) (s : State) : Out :=
  let s := s.advance dt
  match s.yuz.run, nextBatch s.yuz.queue with
  | none, some b =>
    if s.flag R.PWR_STAT_YUZ_GATED then .next s
    else
      let s : State := { s with yuz := { s.yuz with queue := s.yuz.queue.erase b } }
      if !s.follows && deadlinePassed s.pm32 b.deadline then .next (s.yuzExpire b 2).yuzStat
      else .next { s with yuz := { s.yuz with run := some b, startAt := s.now, held := none } }.yuzStat
  | _, _ => .next s

/-- The compute cycles of a batch, which depend on its descriptor alone (R228). [Log DEDUCED: 115] -/
def Batch.cycles (b : Batch) : Nat := batchCycles b.items b.iter (tileCount b.mask) b.coupled b.solo b.pair

/-- One item's status word and, where it is DONE, its result area (R225). -/
def State.yuzItem (s : State) (kind i : Nat) (r : ItemRes) : State :=
  let r' := if r.done then r else { r with endCycle := 0xFFFFFFFF }
  let y := { s.yuz with items := tput s.yuz.items (kind * 256 + i) { r' with result := [] } }
  { s with yuz := if r.done then { y with areas := tput y.areas (kind * 256 + i) r.result } else y }

/-- The first item that satisfies a test, with its number. -/
def firstItem (p : ItemRes → Bool) : List ItemRes → Nat → Option (Nat × ItemRes)
  | [], _ => none
  | r :: t, i => if p r then some (i, r) else firstItem p t (i + 1)

/-- YUZ_UTIL (R237): percent of the last second that each tile was busy. -/
def State.yuzUtil (s : State) (b : Batch) : State :=
  let y := ((s.yuz.startAt, s.now, b.mask) :: s.yuz.busy).filter fun x => decide (s.now ≤ x.2.1 + 1000000000)
  let s : State := { s with yuz := { s.yuz with busy := y } }
  let pct := fun t => (((y.filter fun x => x.2.2.testBit t).map fun x => x.2.1 - max x.1 (s.now - 1000000000)).sum : Nat)
  let f := fun t => ((pct t : Nat) : Rat) / 10000000
  (((s.setU R.YUZ_UTIL_BUSY0 (f 0)).setU R.YUZ_UTIL_BUSY1 (f 1)).setU R.YUZ_UTIL_BUSY2 (f 2)).setU R.YUZ_UTIL_BUSY3 (f 3)

/-- Numeric flags of a batch (R237, R238). -/
def State.yuzNumeric (s : State) (b : Batch) (items : List ItemRes) : State :=
  let s := match firstItem (·.sat) items 0 with
    | some (i, r) => (((s.set R.YUZ_LAST_STAT_SAT 1 b.kind).inc R.YUZ_NUM_SAT_BATCHES).evt R.YUZ_EVT_SAT).record
        { code := 0x0A03, source := b.kind, items := [(1, b.kind), (4, b.seq), (2, i), (1, r.satStep), (2, min 65535 r.satCount)], key := 1 }
    | none => s.set R.YUZ_LAST_STAT_SAT 0 b.kind
  match firstItem (·.clamped) items 0 with
  | some (i, r) =>
    let n := (items.filter (·.clamped)).length
    let s := (((s.set R.YUZ_LAST_STAT_CLAMPED 1 b.kind).inc R.YUZ_NUM_CLAMP_BATCHES).evt R.YUZ_EVT_CLAMPED).record
      { code := 0x0A04, source := b.kind, key := 1,
        items := [(1, b.kind), (4, b.seq), (2, i), (1, r.clampPivot), (1, r.clampStep), (1, r.clampIter), (1, min 127 n)] }
    let s := (s.set R.YUZ_LAST_CLAMP_ITEM i b.kind).set R.YUZ_LAST_CLAMP_PIVOT r.clampPivot b.kind
    ((s.set R.YUZ_LAST_CLAMP_STEP r.clampStep b.kind).set R.YUZ_LAST_CLAMP_ITER r.clampIter b.kind).set
      R.YUZ_LAST_CLAMP_COUNT (min 127 n) b.kind
  | none => (s.set R.YUZ_LAST_STAT_CLAMPED 0 b.kind).yuzNoClamp b.kind

/-- A batch ends: status words, result areas and the LAST registers (R225, R237). -/
def State.yuzFinish (s : State) (b : Batch) (items : List ItemRes) (cycles : Nat) (miss verdict : Bool) : State :=
  let items : List ItemRes := (items ++ List.replicate (b.items - items.length) ({ done := false } : ItemRes)).take b.items
  let s := items.zipIdx.foldl (fun (s : State) x => s.yuzItem b.kind x.2 x.1) s
  let nd := (items.filter (·.done)).length
  let s := (s.set R.YUZ_LAST_STAT_DONE nd b.kind).set R.YUZ_LAST_STAT_NOT_DONE (b.items - nd) b.kind
  let s := (s.setB R.YUZ_LAST_STAT_MISS miss b.kind).set R.YUZ_LAST_STAT_EXPIRED 0 b.kind
  let s := (s.set R.YUZ_LAST_STAT_ITER_REACHED (((items.map (·.iter)).max?).getD 0) b.kind).setB R.YUZ_LAST_STAT_VERDICT verdict b.kind
  let s := (s.set R.YUZ_LAST_SEQ_SEQ b.seq b.kind).setSat R.YUZ_LAST_TIME_TOTAL_US ((s.now - b.at_) / 1000) b.kind
  let s := (s.setSat R.YUZ_LAST_TIME_WAIT_US ((s.yuz.startAt - b.at_) / 1000) b.kind).set R.YUZ_LAST_CYC_CYCLES cycles b.kind
  let s := s.set R.YUZ_LAST_RES_RES ((((items.filter (·.done)).map (·.residual)).max?).getD 0) b.kind
  let s := (s.yuzNumeric b items).yuzUtil b
  { s with yuz := { s.yuz with run := none, held := none, verdicts := tdel s.yuz.verdicts b.seq } }.yuzStat

/-- The place of item `i` in the order in which the items of an independent batch on `t` tiles complete (R224): pair after pair,
the tiles in ascending number within one. [Log DESIGN CHOICE: 117] -/
def runOrder (t i : Nat) : Nat := i / t / 2 * (2 * t) + i % t * 2 + i / t % 2

/-- The items that a verdict leaves DONE (R235): all of a batch that ran to completion, the first `n` to complete of an
independent batch that stopped, none of a coupled one. [Log DESIGN CHOICE: 117] -/
def judged (b : Batch) (stop : Option (Nat × Nat)) (items : List ItemRes) : List ItemRes :=
  match stop with
  | none => items
  | some (_, n) =>
    let t := max 1 (tileCount b.mask)
    let before := fun (i : Nat) => ((List.range items.length).filter fun j => decide (runOrder t j < runOrder t i)).length
    items.zipIdx.map fun x => if b.coupled || decide (n ≤ before x.2) then { x.1 with done := false } else x.1

/-- A standby ends a batch at the active's stop position (R235, 0x0A07). [Log DEDUCED: 106; DESIGN CHOICE: 113] -/
def State.yuzByVerdict (s : State) (b : Batch) (items : List ItemRes) (stop : Option (Nat × Nat)) : State :=
  let kept := judged b stop items
  let gone := (items.filter (·.done)).length - (kept.filter (·.done)).length
  let miss := stop.isSome
  let s := s.yuzFinish b kept b.cycles miss true
  let s := if miss then (if b.kind ≤ 3 then s.incSat (missFld b.kind) else s).evt R.YUZ_EVT_MISS else s
  if gone = 0 then s
  else s.record { code := 0x0A07, source := b.kind, items := [(1, b.kind), (4, b.seq), (2, gone)], key := 1 }

/-- YUZ_BATCH_DONE (R225, R228): the batch completes. A standby waits for the active's verdict before its results count. -/
def execYuzBatchDone (dt : Nat) (items : List ItemRes) (s : State) : Out :=
  let s := s.advance dt
  match s.yuz.run with
  | none => .next s
  | some b =>
    if s.follows then
      match tfind s.yuz.verdicts b.seq with
      | some (stop, _) => .next (s.yuzByVerdict b items stop)
      | none => .next { s with yuz := { s.yuz with held := some items } }
    else
      let s := s.yuzFinish b items b.cycles false false
      .next { s with yuz := { s.yuz with sent := some (b.seq, none) } }

/-- At a takeover a batch that waits for a verdict has completed (R366). [Log DEDUCED: 190] -/
def State.yuzTakeover (s : State) : State :=
  match s.yuz.run, s.yuz.held with
  | some b, some items =>
    let s := s.yuzFinish b items b.cycles false false
    { s with yuz := { s.yuz with sent := some (b.seq, none), verdicts := [] } }
  | _, _ => { s with yuz := { s.yuz with verdicts := [] } }

/-- YUZ_DEADLINE_STOP (R232, R233): at the first check point past the deadline the batch stops on every tile. `items` are the
items' status at the stop, and `overrun` the cycles from DEADLINE to it. -/
def execYuzDeadlineStop (dt : Nat) (items : List ItemRes) (cycles overrun : Nat) (s : State) : Out :=
  let s := s.advance dt
  match s.yuz.run with
  | none => .next s
  | some b =>
    if s.follows || !deadlinePassed s.pm32 b.deadline then .next s
    else
      let items : List ItemRes := if b.coupled then items.map fun r => { r with done := false } else items
      let nd := (items.filter (·.done)).length
      let it := ((items.map (·.iter)).max?).getD 0
      let s := s.yuzFinish b items cycles true false
      let s : State := { s with yuz := { s.yuz with sent := some (b.seq, some (it, nd)) } }
      let s := (s.setSat R.YUZ_STOP_LAST_OVR overrun)
      let s := s.set R.YUZ_STOP_MAX_OVR (max (s.get R.YUZ_STOP_MAX_OVR) (s.get R.YUZ_STOP_LAST_OVR))
      let s := (if b.kind ≤ 3 then s.incSat (missFld b.kind) else s).evt R.YUZ_EVT_MISS
      .next (s.record { code := 0x0A01, source := b.kind, key := 1,
                        items := [(1, b.kind), (4, b.seq), (1, it), (2, nd), (2, min 65535 overrun)] })

/-- A standby's batch that still waits when the active's verdict says that no item of it ran (R219, R235). [Log DEDUCED: 119] -/
def State.yuzUnstarted (s : State) (batch : Nat) (stop : Option (Nat × Nat)) : State :=
  match stop, s.yuz.queue.find? fun b => decide (b.seq = batch) with
  | some (0, 0), some b =>
    let s : State := { s with yuz := { s.yuz with queue := s.yuz.queue.erase b, verdicts := tdel s.yuz.verdicts batch } }
    ((s.yuzExpire b 2).set R.YUZ_LAST_STAT_VERDICT 1 b.kind).yuzStat
  | _, _ => s

/-- A verdict is kept while its batch is still to come, runs or waits: sequence numbers wrap at 32 bits. -/
def State.verdictLive (s : State) (batch : Nat) : Bool :=
  decide ((batch + 2 ^ 32 - s.yuz.seq - 1) % 2 ^ 32 < 2 ^ 31) || (s.yuz.run.toList ++ s.yuz.queue).any fun b => decide (b.seq = batch)

/-- The active's verdict on a batch that is still to come here, runs or waits, with its instant. -/
def State.keepVerdict (s : State) (batch : Nat) (stop : Option (Nat × Nat)) : State :=
  if s.verdictLive batch then { s with yuz := { s.yuz with verdicts := tput s.yuz.verdicts batch (stop, s.now) } } else s

/-- The results that stand once the active's verdict is known: none where the active started no item. -/
def State.verdictItems (s : State) (stop : Option (Nat × Nat)) : Option (List ItemRes) :=
  match stop with
  | some (0, 0) => some (s.yuz.held.getD [])
  | _ => s.yuz.held

/-- VERDICT_RECEIVE (R235): the standby runs to the active's stop position. A verdict on a batch that has already ended here says
nothing more. Where the active started no item, it is there at once: nothing of the batch counts, whether it runs or still waits.
[Log DEDUCED: 106, 119; DESIGN CHOICE: 113] -/
def execVerdictReceive (dt batch : Nat) (stop : Option (Nat × Nat)) (s : State) : Out :=
  let s := s.advance dt
  if !s.follows then .next s
  else
    let s := s.keepVerdict batch stop
    match s.yuz.run, s.verdictItems stop with
    | some b, some items => if b.seq = batch then .next (s.yuzByVerdict b items stop) else .next (s.yuzUnstarted batch stop)
    | _, _ => .next (s.yuzUnstarted batch stop)

/-- STANDBY_LAG (R235): 2 ms after the verdict the standby has not reached the active's stop position; a watchdog fault.
[Log DESIGN CHOICE: 113] -/
def execStandbyLag (dt : Nat) (s : State) : Out :=
  let s := s.advance dt
  let late := fun (b : Batch) => match tfind s.yuz.verdicts b.seq with
    | some (_, t) => decide (t + 2000000 ≤ s.now)
    | none => false
  match (s.yuz.run.toList ++ s.yuz.queue).find? late with
  | some b =>
    if s.follows then
      let stop : Option (Nat × Nat) := match tfind s.yuz.verdicts b.seq with | some (z, _) => z | none => none
      let pos := match stop with | some (i, n) => i * 65536 + n | none => 0xFFFFFFFF
      let s := (s.evt R.YUZ_EVT_STANDBY_LAG).record
        { code := 0x0A06, source := b.kind, key := 1,
          items := [(1, b.kind), (4, b.seq), (4, pos), (4, Config.fresh 0xA06 s.now % 2 ^ 32)] }
      .next (s.deviceFault 8 0xFFFF)
    else .next s
  | none => .next s

/-- The first place where a self-test differs from the expected values of ENGINE_FW. [Log DEDUCED: 114] -/
def selftestDiff : List (Nat × Nat) → List (Nat × Nat) → Nat → Option (Nat × Nat)
  | [], [], _ => none
  | a :: t, b :: u, i => if a = b then selftestDiff t u (i + 1) else some (i, a.1)
  | a :: _, [], i => some (i, a.1)
  | [], b :: _, i => some (i, b.1)

/-- YUZ_SELFTEST_DONE (R236): the RUN-IN self-test. Each pair is a tile and a value, in order of tile and kernel; the tile and
kernel (the nine operations, each solo and then paired) of a mismatch are recorded, and MUSTER ends in SAFE with SELFTEST-FAULT.
[Log DEDUCED: 114; DESIGN CHOICE: 120] -/
def execYuzSelftestDone (dt : Nat) (results expected : List (Nat × Nat)) (s : State) : Out :=
  let s := s.advance dt
  if !(s.mode = 1 && s.get R.MODE_STAT_PHASE = 8) then .next s
  else
    match selftestDiff results expected 0 with
    | none => .next (s.set R.YUZ_STAT_SELFTEST_OK 1)
    | some (i, tile) =>
      let s := ((s.set R.YUZ_STAT_SELFTEST_OK 0).evt R.YUZ_EVT_SELFTEST_FAIL).record
        { code := 0x0A05, source := tile, items := [(1, tile), (1, i / 2 % 9 + 1), caseItem 0x0A05 (i % 2)] }
      .next (s.musterSafe 3)

end Sys2Proof.Machine
end

