-- ==== Sys2Proof/Machine/Alloc.lean ====
section
/-!
DEFINITION. Thrust allocation and the consequence analysis (R195 to R217). What the solves yield comes with the command;
availability, regions, the power trim, deficits, capability, releases and the alarms are computed here.
-/

namespace Sys2Proof.Machine

open Sys2Proof

/-! ### Thrusters and buses -/

def State.thrCfg (s : State) (i : Nat) : Option ThrCfg := s.man.alloc.thr[i]?
def State.thrSt (s : State) (i : Nat) : ThrSt := tget s.alloc.thr i {}
def State.putThr (s : State) (i : Nat) (x : ThrSt) : State := { s with alloc := { s.alloc with thr := tput s.alloc.thr i x } }
def State.busSt (s : State) (b : Nat) : BusSt := tget s.alloc.buses b {}
def State.putBus (s : State) (b : Nat) (x : BusSt) : State := { s with alloc := { s.alloc with buses := tput s.alloc.buses b x } }
def State.thrState (s : State) (i : Nat) : Nat := s.get R.ALLOC_THR_STAT_STATE i
def State.thrNums (s : State) : List Nat := List.range (min 24 s.man.alloc.thr.length)
def State.available (s : State) : List Nat := s.thrNums.filter fun i => s.thrState i = 1

/-- Axis `a` of a force or moment. -/
def ax (l : List Rat) (a : Nat) : Rat := l.getD a 0

/-- The azimuth along which a thruster pushes (R195): its own, 90° for TUNNEL, 0° for MAIN. -/
def thrAz (c : ThrCfg) (az : Rat) : Rat := match c.kind with | 0 => az | 1 => 90 | _ => 0

/-- The force and moment of a thrust at an azimuth (R195). -/
def thrForce (c : ThrCfg) (t az : Rat) : List Rat :=
  let a := thrAz c az
  [t * cosd a, t * sind a, c.posX * t * sind a - c.posY * t * cosd a]

def addForce (x y : List Rat) : List Rat := [ax x 0 + ax y 0, ax x 1 + ax y 1, ax x 2 + ax y 2]
def subForce (x y : List Rat) : List Rat := [ax x 0 - ax y 0, ax x 1 - ax y 1, ax x 2 - ax y 2]

/-- The power model (R195). [Log DESIGN CHOICE: 107] -/
def thrPower (c : ThrCfg) (t : Rat) : Rat := c.pRated * Config.pow (absR t / c.tMax) (3 / 2)

/-- An azimuth lies inside a zone, which runs clockwise from its start to its end. -/
def inZone (z : Rat × Rat) (az : Rat) : Bool :=
  let d := deg360 (az - z.1)
  decide (0 < d) && decide (d < deg360 (z.2 - z.1))

/-- The nearer edge of the zone that an azimuth lies in, clockwise on a tie (R201). -/
def zoneEdge (c : ThrCfg) (az : Rat) : Rat :=
  match c.zones.find? fun z => inZone z az with
  | some z => if deg360 (z.2 - az) ≤ deg360 (az - z.1) then z.2 else z.1
  | none => az

/-- The thrust limit of a cycle (R201). -/
def thrLim (c : ThrCfg) (last : Rat) : Rat := min c.tMax (absR last + c.tr / 20)

/-- A thrust held to the thruster's range and to the limit of the cycle (R201). [Log DEDUCED: 108] -/
def thrClip (c : ThrCfg) (last t : Rat) : Rat :=
  let lim := thrLim c last
  if c.kind = 0 then clampTo 0 lim t else clampTo (max c.tMin (-lim)) lim t

/-- A point that reads FALSE; `default` where it is not usable or absent. -/
def State.ptBool (s : State) (i : Option Nat) (dflt : Bool) : Bool :=
  match i with
  | none => dflt
  | some _ => let r := s.ptOpt i; if qUsable r.2 then r.1 ≠ 0 else dflt

/-- The thrust and azimuth feedback of a thruster, and whether both are usable (R199, R205). -/
def State.thrFb (s : State) (c : ThrCfg) : Rat × Rat × Quality :=
  let t := s.ptOpt c.fbThrust
  let a := s.ptOpt c.fbAz
  (lutBack c.fbLut t.1, deg360 a.1, if c.kind = 0 && !qUsable a.2 then a.2 else if c.kind = 0 && t.2 = .good then a.2 else t.2)

/-- The state of a thruster for the cycle (R198): the first row that applies. -/
def State.fixThr (s : State) (i : Nat) : Nat :=
  match s.thrCfg i with
  | none => 0
  | some c =>
    let t := s.thrSt i
    if t.deselected then 2
    else if (match c.node with | some n => s.untrusted n | none => false) then 5
    else if !s.ptBool (match s.man.alloc.buses[c.bus]? with | some b => b.energ | none => none) true then 4
    else if t.follow then 6
    else if !s.ptBool c.ready false then 3
    else 1

/-- A thruster's state is fixed, and its change recorded (R198, 0x0901). -/
def State.setThr (s : State) (i : Nat) : State :=
  let old := s.thrState i
  let new := s.fixThr i
  if old = new then s
  else ((s.set R.ALLOC_THR_STAT_STATE new i).evt R.ALLOC_EVT_THR_STATE).record
    { code := 0x0901, source := i, items := [(1, i), (1, old), (1, new)] }

/-- The available power of a bus (R196). -/
def State.pAvail (s : State) (b : Nat) : Rat :=
  let t := s.busSt b
  if t.unknown then
    ((s.available.filterMap s.thrCfg).filter (fun c : ThrCfg => c.bus = b)).map (fun c : ThrCfg => c.pRated) |>.sum
  else max 0 (t.last - (match s.man.alloc.buses[b]? with | some c => c.reserve | none => 0))

/-- A bus at the cycle's boundary (R196): a usable power is taken, and ends BUS-PWR-UNKNOWN. -/
def State.readBus (s : State) (b : Nat) (c : BusCfg) : State :=
  let r := s.ptOpt c.avail
  let t := s.busSt b
  let s := if qUsable r.2 then
      let s := s.putBus b { last := r.1, lastAt := s.now, unknown := false }
      if t.unknown then s.clearAlarm 0x0909 b [(1, b), (1, r.2.code)] else s
    else s
  let s := s.setB R.ALLOC_STAT_PWR_UNKNOWN (s.alloc.buses.any (·.2.unknown))
  s.setB R.ALLOC_BUS_STAT_ENERG (s.ptBool c.energ true) b

/-- BUS_POWER_HOLD_EXPIRY (R196). -/
def execBusPowerHoldExpiry (dt bus : Nat) (s : State) : Out :=
  let s := s.advance dt
  match s.man.alloc.buses[bus]? with
  | none => .next s
  | some c =>
    let r := s.ptOpt c.avail
    let t := s.busSt bus
    if qUsable r.2 || t.unknown || decide (s.now < t.lastAt + 10000000000) then .next s
    else
      let s := (s.putBus bus { t with unknown := true }).set R.ALLOC_STAT_PWR_UNKNOWN 1
      .next ((s.evt R.ALLOC_EVT_PWR_UNKNOWN).alarm 0x0909 bus [(1, bus), (1, r.2.code)])

/-! ### Capability (R204) -/

/-- The azimuths at which a component can be largest: the edges of the zones and the stationary points. -/
def capAngles (c : ThrCfg) (axis : Nat) : List Rat :=
  match c.kind with
  | 0 =>
    let stat := match axis with
      | 0 => [0, 180]
      | 1 => [90, 270]
      | _ => let a := Config.atan2 c.posX (-c.posY); [deg360 a, deg360 (a + 180)]
    (c.zones.flatMap fun z => [z.1, z.2]) ++ stat.filter fun a => !(c.zones.any fun z => inZone z a)
  | 1 => [90]
  | _ => [0]

/-- The largest component that a thruster can give along an axis in a direction of sign `sgn` (R204). -/
def capOf (c : ThrCfg) (tav sgn : Rat) (axis : Nat) : Rat :=
  (capAngles c axis).foldl (fun m a =>
    let u := sgn * ax (thrForce c 1 a) axis
    max m (if 0 ≤ u then tav * u else if c.kind = 0 then 0 else c.tMin * u)) 0

/-- The thrust that a thruster's share of its bus allows (R204). [Log DESIGN CHOICE: 107] -/
def State.tAvail (s : State) (c : ThrCfg) : Rat :=
  let sum := (((s.available.filterMap s.thrCfg).filter fun d : ThrCfg => d.bus = c.bus).map fun d : ThrCfg => d.pRated).sum
  if sum = 0 then 0
  else min c.tMax (c.tMax * Config.pow (max 0 (s.pAvail c.bus / sum)) (2 / 3))

/-- The available force of an axis (R204). -/
def State.capability (s : State) (axis : Nat) : Rat :=
  let l := s.available.filterMap s.thrCfg
  min ((l.map fun c => capOf c (s.tAvail c) 1 axis).sum) ((l.map fun c => capOf c (s.tAvail c) (-1) axis).sum)

/-- Capability is computed and shown. [Log DEDUCED: 102] -/
def State.setCap (s : State) : State :=
  let c := [s.capability 0, s.capability 1, s.capability 2]
  let s : State := { s with alloc := { s.alloc with cap := c } }
  ((s.setQ R.ALLOC_CAP_X_CKN (ax c 0 * 100)).setQ R.ALLOC_CAP_Y_CKN (ax c 1 * 100)).setQ R.ALLOC_CAP_N_DKNM (ax c 2 * 10)

/-! ### Output points (R215) -/

/-- The points and registers of a thruster. -/
def State.thrOut (s : State) (q : Quality) (i : Nat) : State :=
  match s.thrCfg i with
  | none => s
  | some c =>
    let t := s.thrSt i
    let fb := s.thrFb c
    let p := thrPower c t.outT
    let s := s.commitAll (addr0 13 1 i 0)
      [q32 t.outT, q32 t.outAz, q32 fb.1, q32 fb.2.1, s.thrState i, q32 p] s.helm.bkPm q
    let s := (s.set R.ALLOC_THR_STAT_KIND c.kind i).set R.ALLOC_THR_STAT_BUS c.bus i
    let s := (s.setB R.ALLOC_THR_STAT_IN_ZONE t.inZone i).setU R.ALLOC_THR_STAT_POWER_KW p i
    let s := (s.setQ R.ALLOC_THR_OUT_THRUST (t.outT * 10) i).setU R.ALLOC_THR_OUT_AZ (deg360 t.outAz * 100) i
    (s.setQ R.ALLOC_THR_FB_THRUST (fb.1 * 10) i).setU R.ALLOC_THR_FB_AZ (fb.2.1 * 100) i

/-- The points and registers of a bus. -/
def State.busOut (s : State) (b : Nat) : State :=
  let load := ((s.thrNums.filterMap fun i => (s.thrCfg i).map fun c => (c, s.thrSt i)).filter fun x => x.1.bus = b).map
    fun x => thrPower x.1 x.2.outT
  let en := s.get R.ALLOC_BUS_STAT_ENERG b
  let s := s.commitAll (addr0 13 4 b 0) [q32 (s.pAvail b), q32 load.sum, en] s.helm.bkPm .good
  (s.setU R.ALLOC_BUS_STAT_AVAIL_KW (s.pAvail b) b).setU R.ALLOC_BUS_STAT_LOAD_KW load.sum b

/-- All allocation points of a cycle but the case points. -/
def State.allocOut (s : State) (q : Quality) : State :=
  let s := s.thrNums.foldl (fun (s : State) i => s.thrOut q i) s
  let s := (List.range (min 8 s.man.alloc.buses.length)).foldl (fun (s : State) b => s.busOut b) s
  let s := s.commitAll 0x0D030000 [q32 (ax s.alloc.cap 0), q32 (ax s.alloc.cap 1), q32 (ax s.alloc.cap 2)] s.helm.bkPm q
  s.commitAll 0x0D030003
    [q32 (ax s.alloc.deficit 0), q32 (ax s.alloc.deficit 1), q32 (ax s.alloc.deficit 2), s.get R.ALLOC_CONS_SUM_WORST,
     s.get R.ALLOC_STAT_CONS_ALARM, s.get R.ALLOC_CONS_SUM_AGE] s.helm.bkPm .good

/-! ### The allocation batch -/

/-- Variables, rows and cycles of the problem (R227). -/
def State.qpCycles (s : State) (solo : Bool) : Nat :=
  qpstepCycles solo (2 * s.man.alloc.thr.length) (4 * s.man.alloc.thr.length + s.man.alloc.buses.length)

/-- Allocation starts on a force (R192, R212). -/
def State.allocSubmit (s : State) (tau : List Rat) : State :=
  let b : Batch := { kind := 2, cls := 1, items := 1, iter := 12, mask := 1, coupled := false, ops := [8],
                     deadline := (s.helm.bkNs + s.man.alloc.allocDl * 1000000) % 2 ^ 32, seq := 0,
                     solo := s.qpCycles true, pair := s.qpCycles false, at_ := 0 }
  let s := s.yuzSubmit b
  { s with alloc := { s.alloc with tau := tau, solving := some s.yuz.seq } }

/-- The multiplier m of R211. -/
def State.stretch (s : State) : Nat := 2 ^ s.get R.ALLOC_STAT_STRETCH

/-- The number of cases (R208). -/
def State.caseCount (s : State) : Nat := s.man.alloc.thr.length + s.man.alloc.buses.length + s.man.alloc.gens.length

/-- The consequence batch is built and submitted, where R211 schedules it. [Log DEDUCED: 112] -/
def State.consSubmit (s : State) (tau nom : List Rat) : State :=
  if s.helm.bkTick / 5000 % s.stretch ≠ 0 || s.caseCount = 0 || s.alloc.consCycle = some s.helm.cycle then s
  else
    let b : Batch := { kind := 3, cls := 2, items := s.caseCount, iter := 12, mask := 15, coupled := false, ops := [8],
                       deadline := (s.helm.bkNs + s.man.alloc.consDl * 1000000) % 2 ^ 32, seq := 0,
                       solo := s.qpCycles true, pair := s.qpCycles false, at_ := 0 }
    let s := s.yuzSubmit b
    { s with alloc := { s.alloc with consSolving := some s.yuz.seq, consCycle := some s.helm.cycle, consTau := tau, consNom := nom } }

/-- An azimuth within the sector that the drive reaches, clipped to the allowed arc around where it is (R201). [Log DEDUCED: 108] -/
def reachAz (c : ThrCfg) (look a0 az : Rat) : Rat :=
  let w := c.azRate * look
  let hi := c.zones.foldl (fun m z => min m (deg360 (z.1 - a0))) w
  let lo := c.zones.foldl (fun m z => min m (deg360 (a0 - z.2))) w
  let d := deg360 (az - a0)
  deg360 (a0 + clampTo (-lo) hi (if d ≤ 180 then d else d - 360))

/-- A thruster's part of the solution (R201, R205): its thrust and its azimuth within the region; inside a forbidden zone
thrust 0 and the nearer edge. Below T_DEAD the azimuth holds. [Log DEDUCED: 108] -/
def State.takeSolution (s : State) (i : Nat) (f : Rat × Rat) : State :=
  match s.thrCfg i with
  | none => s
  | some c =>
    let t := s.thrSt i
    let fb := s.thrFb c
    let a0 := if qUsable (s.ptOpt c.fbAz).2 then fb.2.1 else t.outAz
    let zone := c.kind = 0 && c.zones.any fun z => inZone z a0
    let thrust := if zone then 0 else thrClip c t.outT f.1
    let az := if zone then zoneEdge c a0 else if absR thrust < c.tDead then t.outAz else reachAz c s.man.alloc.azLook a0 f.2
    let s := s.putThr i { t with bufT := thrust, bufAz := az, inZone := zone }
    if zone = t.inZone then s
    else s.record { code := 0x090B, source := i, items := [(1, i), (2, (shownAt 0x90B (deg360 a0 * 100)).toNat)], key := 1 }

/-- The power trim of a bus (R202): one common factor for its thrusters, and a record. [Log DESIGN CHOICE: 107; DEDUCED: 109] -/
def State.trimBus (s : State) (b : Nat) : State :=
  let on := s.available.filter fun i => match s.thrCfg i with | some c => c.bus = b | none => false
  let sum := ((on.filterMap fun i => (s.thrCfg i).map fun c => thrPower c (s.thrSt i).bufT).sum : Rat)
  if sum ≤ s.pAvail b then s
  else
    let k := Config.pow (s.pAvail b / sum) (2 / 3)
    let s := on.foldl (fun (s : State) i => s.putThr i { s.thrSt i with bufT := (s.thrSt i).bufT * k }) s
    let s := (s.set R.ALLOC_STAT_TRIMMED 1).evt R.ALLOC_EVT_TRIM
    s.record { code := 0x0908, source := b, items := [(1, b), measItem 0x0908 k, caseItem 0x0908 0], key := 1 }

/-- The force that the commands in the release buffer give. -/
def State.bufForce (s : State) : List Rat :=
  s.available.foldl (fun f i => match s.thrCfg i with
    | some c => addForce f (thrForce c (s.thrSt i).bufT (s.thrSt i).bufAz) | none => f) [0, 0, 0]

/-- The deficit exceeds its threshold in some axis (R203). -/
def shortNow (m : AllocCfg) (tau d : List Rat) : Bool :=
  [0, 1, 2].any fun a => decide (max (ax m.defAbs a) (m.defRel / 100 * absR (ax tau a)) < absR (ax d a))

/-- The runs of ALLOC-SHORT (R203). -/
def State.countShort (s : State) : State :=
  let x := shortNow s.man.alloc s.alloc.tau s.alloc.deficit
  { s with alloc := { s.alloc with shortRun := if x then s.alloc.shortRun + 1 else 0,
                                   shortClear := if x then 0 else s.alloc.shortClear + 1 } }

/-- Numeric flags of the allocation batch (R200, 0x090A). [Log DEDUCED: 109] -/
def State.allocNumeric (s : State) : State :=
  let sat := s.get R.YUZ_LAST_STAT_SAT 2
  let cl := s.get R.YUZ_LAST_STAT_CLAMPED 2
  let s := (s.set R.ALLOC_STAT_SAT sat).set R.ALLOC_STAT_PIVOT_CLAMPED cl
  if sat = 1 || cl = 1 then (s.evt R.ALLOC_EVT_NUMERIC).record { code := 0x090A, items := [(1, 2), caseItem 0x090A 0] } else s

/-- A deadline was missed at this cycle's boundary count (MODE_GUARD.SOLVER_OK, R62). -/
def State.noteMiss (s : State) : State :=
  { s with alloc := { s.alloc with missAt := (s.helm.cycle :: s.alloc.missAt).take 4 } }

/-- An allocation miss (R213): the last release is taken again, and capability keeps its values. -/
def State.allocMissed (s : State) : State :=
  let s := s.thrNums.foldl (fun (s : State) i => s.putThr i { s.thrSt i with bufT := (s.thrSt i).outT, bufAz := (s.thrSt i).outAz }) s
  let s := ((s.set R.ALLOC_STAT_REUSED 1).set R.ALLOC_MISS_A_RUN (min 3 (s.get R.ALLOC_MISS_A_RUN + 1))).inc R.ALLOC_MISS_A_TOTAL
  let s := (s.noteMiss.evt R.ALLOC_EVT_A_MISS).record
    { code := 0x0906, items := [(1, s.get R.ALLOC_MISS_A_RUN), (1, s.get R.YUZ_LAST_STAT_ITER_REACHED 2)], key := 0 }
  { s with alloc := { s.alloc with bufOk := true } }.allocOut .uncertain

/-- ALLOC_SOLVE_DONE (R200 to R205, R212, R213): the batch of the cycle has ended; `forces` are the thrusts and azimuths of
iteration 12. [Log DESIGN CHOICE: 10; DEDUCED: 108] -/
def execAllocSolveDone (dt : Nat) (forces : List (Rat × Rat)) (s : State) : Out :=
  let s := s.advance dt
  match s.alloc.solving with
  | none => .next s
  | some q =>
    if s.get R.YUZ_LAST_SEQ_SEQ 2 ≠ q then .next s
    else
      let s : State := { s with alloc := { s.alloc with solving := none } }
      let s := (s.set R.ALLOC_TIME_A_US (s.get R.YUZ_LAST_TIME_TOTAL_US 2)).set R.ALLOC_STAT_TRIMMED 0
      if s.get R.YUZ_LAST_STAT_MISS 2 = 1 then .next (s.allocMissed.consSubmit s.alloc.tau s.alloc.deficit)
      else
        let s := s.available.foldl (fun (s : State) i => s.takeSolution i (forces.getD i (0, 0))) s
        let s := (List.range (min 8 s.man.alloc.buses.length)).foldl (fun (s : State) b => s.trimBus b) s
        let s : State := { s with alloc := { s.alloc with bufOk := true, deficit := subForce s.alloc.tau s.bufForce } }
        let s := ((s.set R.ALLOC_STAT_REUSED 0).set R.ALLOC_MISS_A_RUN 0).allocNumeric
        let s := (s.countShort.setCap).allocOut .good
        .next (s.consSubmit s.alloc.tau s.alloc.deficit)

/-- ALLOC_MISS_LIMIT (R213): three consecutive misses are a device fault. -/
def execAllocMissLimit (dt : Nat) (s : State) : Out :=
  let s := s.advance dt
  if 3 ≤ s.get R.ALLOC_MISS_A_RUN then .next (s.deviceFault 7 0xFFFF) else .next s

/-- ALLOC_SHORT (R203): raised after 20 cycles over the threshold, cleared after 20 without. -/
def execAllocShort (dt : Nat) (s : State) : Out :=
  let s := s.advance dt
  let d := s.alloc.deficit
  let items := [sItem 2 (shownAt 0x904 (ax d 0 * 10)), sItem 2 (shownAt 0x904 (ax d 1 * 10)), sItem 4 (shownAt 0x904 (ax d 2))]
  let on := s.flag R.ALLOC_STAT_SHORT
  if !on && 20 ≤ s.alloc.shortRun then
    .next (((s.set R.ALLOC_STAT_SHORT 1).evt R.ALLOC_EVT_SHORT).alarm 0x0904 0xFFFF items 0)
  else if on && 20 ≤ s.alloc.shortClear then .next ((s.set R.ALLOC_STAT_SHORT 0).clearAlarm 0x0904 0xFFFF items 0)
  else .next s

/-! ### Consequence analysis -/

/-- A blend to READY runs (R54, R188). -/
def State.blendToReady (s : State) : Bool := match s.helm.blend with | some b => b.toReady && s.mode = 2 | none => false

/-- The force of the thrusters from their feedback (R143, R205): FB_LUT where the feedback is GOOD, else the released command. -/
def State.measuredTau (s : State) : List Rat :=
  s.thrNums.foldl (fun f i => match s.thrCfg i with
    | some c =>
      let fb := s.thrFb c
      addForce f (if fb.2.2 = .good then thrForce c fb.1 fb.2.1 else thrForce c (s.thrSt i).outT (s.thrSt i).outAz)
    | none => f) [0, 0, 0]

/-- CONS_READY_SUBMIT (R208, R212): in READY outside a blend, from B_k + 2.0 ms, on the measured force. [Log DEDUCED: 112] -/
def execConsReadySubmit (dt : Nat) (s : State) : Out :=
  let s := s.advance dt
  if s.mode = 2 && !s.blendToReady && decide (s.helm.bk + 2000000 ≤ s.now) && s.alloc.consSolving.isNone then
    .next (s.consSubmit s.measuredTau [0, 0, 0])
  else .next s

/-- The kind and index of a case (R208). -/
def State.caseKind (s : State) (c : Nat) : Nat × Nat :=
  let t := s.man.alloc.thr.length
  let b := s.man.alloc.buses.length
  if c < t then (0, c) else if c < t + b then (1, c - t) else (2, c - t - b)

/-- A case does not apply (R208). [Log DEDUCED: 105] -/
def State.caseNA (s : State) (c : Nat) : Bool :=
  match s.caseKind c with
  | (0, i) => s.thrState i ≠ 1
  | (1, b) => !(s.available.any fun i => match s.thrCfg i with | some t => t.bus = b | none => false)
  | (_, g) =>
    (List.range (min 8 s.man.alloc.buses.length)).all fun b =>
      !s.flag R.ALLOC_BUS_STAT_ENERG b || ((s.man.alloc.gens.getD g []).getD b 0 = 0)

/-- The excess of a case over the nominal deficit and the threshold of an axis (R209). -/
def caseSides (m : AllocCfg) (tau nom d : List Rat) (a : Nat) : Rat × Rat :=
  (absR (ax d a) - absR (ax nom a), max (ax m.defAbs a) (m.defRel / 100 * absR (ax tau a)))

/-- A case fails (R209). -/
def caseFails (m : AllocCfg) (tau nom d : List Rat) : Bool :=
  [0, 1, 2].any fun a => decide ((caseSides m tau nom d a).2 < (caseSides m tau nom d a).1)

/-- The largest ratio of a case over its axes (R209). -/
def caseRatio (m : AllocCfg) (tau nom d : List Rat) : Rat :=
  [0, 1, 2].foldl (fun r a => max r ((caseSides m tau nom d a).1 / (caseSides m tau nom d a).2)) (-1000000000)

/-- One case's result: VALID, NOT-APPLICABLE, or NOT-DONE, which keeps the one before (R214, R215). [Log DEDUCED: 109] -/
def State.takeCase (s : State) (c : Nat) (r : CaseRes) : State :=
  let k := s.caseKind c
  let s := (s.set R.ALLOC_CASE_STAT_KIND k.1 c).set R.ALLOC_CASE_STAT_INDEX k.2 c
  let isDone := (tget s.yuz.items (768 + c) { done := false }).done
  let base := addr0 13 2 c 0
  if s.caseNA c then
    let s := ((s.set R.ALLOC_CASE_STAT_STATE 1 c).set R.ALLOC_CASE_STAT_FAIL 0 c).commitAll base [0, 0, 0, 0, 1] s.helm.bkPm .masked
    { s with alloc := { s.alloc with cases := tdel s.alloc.cases c } }
  else if !isDone then
    let d := tget s.alloc.cases c [0, 0, 0]
    (s.set R.ALLOC_CASE_STAT_STATE 2 c).commitAll base
      [q32 (ax d 0), q32 (ax d 1), q32 (ax d 2), s.get R.ALLOC_CASE_STAT_FAIL c, 2] s.helm.bkPm .uncertain
  else
    let d := r.deficit
    let f := caseFails s.man.alloc s.alloc.consTau s.alloc.consNom d
    let s : State := { s with alloc := { s.alloc with cases := tput s.alloc.cases c d } }
    let s := ((s.set R.ALLOC_CASE_STAT_STATE 0 c).setB R.ALLOC_CASE_STAT_FAIL f c).setB R.ALLOC_CASE_STAT_TRIMMED (r.trims ≠ []) c
    let s := r.trims.foldl (fun (s : State) x =>
      s.record { code := 0x0908, source := x.1, items := [(1, x.1), measItem 0x0908 x.2, (1, c)], key := 1 }) s
    let y := tget s.yuz.items (768 + c) { done := false }
    let s := if y.sat || y.clamped then s.record { code := 0x090A, items := [(1, 3), (1, c)] } else s
    let s := (s.set R.ALLOC_CASE_STAT_AGE 0 c).setQ R.ALLOC_CASE_DXY_DX (ax d 0 * 10) c
    let s := (s.setQ R.ALLOC_CASE_DXY_DY (ax d 1 * 10) c).setQ R.ALLOC_CASE_DN_DN (ax d 2) c
    s.commitAll base [q32 (ax d 0), q32 (ax d 1), q32 (ax d 2), if f then 1 else 0, 0] s.helm.bkPm .good

/-- The worst VALID case (R209). -/
def State.worstCase (s : State) : Option Nat :=
  let l := (List.range s.caseCount).filter fun c => s.get R.ALLOC_CASE_STAT_STATE c = 0 && (tfind s.alloc.cases c).isSome
  let ratio := fun c => caseRatio s.man.alloc s.alloc.consTau s.alloc.consNom (tget s.alloc.cases c [])
  l.foldl (fun b c => match b with | some x => if ratio x < ratio c then some c else b | none => some c) none

/-- CONS-ALARM is judged (R210). [Log DEDUCED: 105] -/
def State.consJudge (s : State) : State :=
  let fails := ((List.range s.caseCount).filter fun c => s.get R.ALLOC_CASE_STAT_FAIL c = 1).length
  let w := s.worstCase
  let s := (s.set R.ALLOC_CONS_SUM_FAILS fails).set R.ALLOC_CONS_SUM_WORST (w.getD 0)
  let s := (s.setB R.ALLOC_CONS_SUM_WORST_VALID w.isSome).set R.ALLOC_CONS_SUM_AGE 0
  let s := if 0 < fails then { s with alloc := { s.alloc with clearRun := 0 } }.incSat R.ALLOC_CONS_SUM_RUN
    else { s with alloc := { s.alloc with clearRun := s.alloc.clearRun + 1 } }.set R.ALLOC_CONS_SUM_RUN 0
  let d := tget s.alloc.cases (w.getD 0) [0, 0, 0]
  let items := [(1, w.getD 0), sItem 2 (shownAt 0x905 (ax d 0 * 10)), sItem 2 (shownAt 0x905 (ax d 1 * 10)),
                sItem 4 (shownAt 0x905 (ax d 2)), (1, fails)]
  let on := s.flag R.ALLOC_STAT_CONS_ALARM
  if !on && s.man.alloc.consRaise ≤ s.get R.ALLOC_CONS_SUM_RUN && 0 < fails then
    ((s.set R.ALLOC_STAT_CONS_ALARM 1).evt R.ALLOC_EVT_CONS_ALARM).alarm 0x0905 0xFFFF items 1
  else if on && s.man.alloc.consClear ≤ s.alloc.clearRun then (s.set R.ALLOC_STAT_CONS_ALARM 0).clearAlarm 0x0905 0xFFFF items 1
  else s

/-- CONS_BATCH_DONE (R208 to R214): the consequence batch has ended, whole or at its deadline. -/
def execConsBatchDone (dt : Nat) (cases : List CaseRes) (s : State) : Out :=
  let s := s.advance dt
  match s.alloc.consSolving with
  | none => .next s
  | some q =>
    if s.get R.YUZ_LAST_SEQ_SEQ 3 ≠ q then .next s
    else
      let s : State := { s with alloc := { s.alloc with consSolving := none } }
      let s := (s.set R.ALLOC_TIME_C_US (s.get R.YUZ_LAST_TIME_TOTAL_US 3)).set R.ALLOC_STAT_CONS_VALID 1
      let s := (List.range s.caseCount).foldl (fun (s : State) c => s.takeCase c (cases.getD c {})) s
      let s :=
        if s.get R.YUZ_LAST_STAT_MISS 3 = 1 then
          let s := (s.set R.ALLOC_MISS_C_RUN (min 3 (s.get R.ALLOC_MISS_C_RUN + 1))).inc R.ALLOC_MISS_C_TOTAL
          (s.noteMiss.evt R.ALLOC_EVT_C_MISS).record
            { code := 0x0907, items := [(1, s.get R.ALLOC_MISS_C_RUN), (2, s.get R.YUZ_LAST_STAT_NOT_DONE 3)], key := 0 }
        else s.set R.ALLOC_MISS_C_RUN 0
      .next s.consJudge

/-- CONS_MISS_LIMIT (R214). -/
def execConsMissLimit (dt : Nat) (s : State) : Out :=
  let s := s.advance dt
  if 3 ≤ s.get R.ALLOC_MISS_C_RUN then .next (s.deviceFault 7 0xFFFF) else .next s

/-! ### Following and operator commands -/

/-- The follow timers of a frame (R199). [Log DEDUCED: 104] -/
def State.followFrame (s : State) : State :=
  s.thrNums.foldl (fun (s : State) i =>
    match s.thrCfg i with
    | none => s
    | some c =>
      let t := s.thrSt i
      if s.thrState i ≠ 1 then (s.putThr i { t with overAt := none, badAt := none }).set R.ALLOC_THR_STAT_FOLLOW_WARN 0 i
      else
        let fb := s.thrFb c
        if !qUsable fb.2.2 then
          s.putThr i { t with badAt := some (t.badAt.getD s.now) }
        else
          let far := decide (c.tolT / 100 * c.tMax < absR (fb.1 - t.outT)) ||
            (c.kind = 0 && decide (c.tDead < absR t.outT) && decide (c.tolAz < hdgDiff fb.2.1 t.outAz))
          let t' := { t with badAt := none, overAt := if far then some (t.overAt.getD s.now) else none }
          (s.putThr i t').setB R.ALLOC_THR_STAT_FOLLOW_WARN far i) s

/-- FOLLOW_FAULT (R199): the timer of a thruster reaches FOLLOW_T. [Log DEDUCED: 104] -/
def execFollowFault (dt thr : Nat) (s : State) : Out :=
  let s := s.advance dt
  match s.thrCfg thr with
  | none => .next s
  | some c =>
    let t := s.thrSt thr
    let due := fun (x : Option Nat) => match x with | some a => decide (a + c.followT * 1000000000 ≤ s.now) | none => false
    if s.thrState thr = 1 && (due t.overAt || due t.badAt) then
      let fb := s.thrFb c
      let s := s.putThr thr { t with follow := true, overAt := none, badAt := none }
      .next (s.alarm 0x0903 thr
        [(1, thr), sItem 2 (shownAt 0x903 ((fb.1 - t.outT) * 10)), (2, (shownAt 0x903 (hdgDiff fb.2.1 t.outAz * 100)).toNat)] 1)
    else .next s

/-- A thruster command (R199): 0x0902, and it waits for the next helm-cycle boundary. -/
def State.thrCmd (s : State) (src : CmdSrc) (thr action : Nat) : State :=
  s.operatorCmd src s.man.alloc.points 0x8024 fun s keyId =>
    let s := match src with
      | .host _ => (s.set R.ALLOC_THR_CMD_THR thr).set R.ALLOC_THR_CMD_ACTION action
      | .point _ => s
    let s := s.record { code := 0x0902, source := thr, role := .operator, keyId := keyId,
                        items := [(1, thr), (1, action), (1, 1), (2, keyId)] }
    if !s.isActive || (s.thrCfg thr).isNone then s.evt R.ALLOC_EVT_CMD_REFUSED
    else { s with alloc := { s.alloc with cmds := s.alloc.cmds ++ [⟨thr, action, keyId⟩] } }

/-- ALLOC_THR_DESELECT (R199). -/
def execAllocThrDeselect (dt : Nat) (src : CmdSrc) (thr : Nat) (s : State) : Out := .next ((s.advance dt).thrCmd src thr 1)

/-- ALLOC_THR_SELECT (R199): clears DESELECTED and the FOLLOW-FAULT latch at the boundary. -/
def execAllocThrSelect (dt : Nat) (src : CmdSrc) (thr : Nat) (s : State) : Out := .next ((s.advance dt).thrCmd src thr 2)

/-- A thruster command takes effect. [Log DEDUCED: 111] -/
def State.thrApply (s : State) (c : ThrCmd) : State :=
  let t := s.thrSt c.thr
  if c.action = 1 then s.putThr c.thr { t with deselected := true }
  else
    let s := s.putThr c.thr { t with deselected := false, follow := false }
    if t.follow then s.clearAlarm 0x0903 c.thr [(1, c.thr)] 1 else s

/-! ### Releases -/

/-- A release: the command, and the drive points it is written to through CMD_LUT (R205, R206). [Log DEDUCED: 116] -/
def State.releaseThr (s : State) (i : Nat) (c : ThrCfg) (t az : Rat) : State :=
  let s := s.putThr i { s.thrSt i with outT := t, outAz := az }
  let s := match c.outThrust with | some p => s.putNum p (lutR c.cmdLut t) .good | none => s
  match c.outAz with | some p => s.putNum p az .good | none => s

/-- Pass-through is in force for a thruster (R207). -/
def State.passing (s : State) (c : ThrCfg) : Bool :=
  c.passThru && s.mode = 2 && s.helm.blend.isNone && qUsable (s.ptOpt c.ptThrust).2 &&
  (c.kind ≠ 0 || qUsable (s.ptOpt c.ptAz).2)

/-- The command of a thruster at a boundary (R206, R207). [Log DEDUCED: 116] -/
def State.releaseOne (s : State) (i : Nat) : State :=
  match s.thrCfg i with
  | none => s
  | some c =>
    let t := s.thrSt i
    let s := s.setB R.ALLOC_THR_STAT_PT_ACTIVE (!s.flag R.DEV_STAT_DRIVES_NOTHING && !s.alloc.bufOk && s.passing c) i
    if s.flag R.DEV_STAT_DRIVES_NOTHING then s
    else if s.mode = 5 then
      s.releaseThr i c (if absR (c.safeCmd - t.outT) ≤ c.safeRamp / 20 then c.safeCmd
        else if t.outT < c.safeCmd then t.outT + c.safeRamp / 20 else t.outT - c.safeRamp / 20) t.outAz
    else if s.alloc.bufOk then
      if s.thrState i = 1 then s.releaseThr i c t.bufT t.bufAz else s.releaseThr i c 0 t.outAz
    else if s.passing c then
      let a := deg360 (s.ptOpt c.ptAz).1
      s.releaseThr i c (thrClip c t.outT (s.ptOpt c.ptThrust).1) (if c.kind = 0 then zoneEdge c a else t.outAz)
    else s.releaseThr i c 0 t.outAz

/-- Every thruster's command and feedback lies within its idle band (MODE_GUARD.THR_ZERO, R207). -/
def State.thrZero (s : State) : Bool :=
  s.thrNums.all fun i => match s.thrCfg i with
    | some c => decide (absR (s.thrSt i).outT ≤ c.idleBand) && decide (absR (s.thrFb c).1 ≤ c.idleBand)
    | none => true

/-- Allocation at a helm-cycle boundary (R198, R206, R207, R211): commands due, buses, states, the release of the cycle before,
and the ages. [Log DEDUCED: 102] -/
def State.allocBoundary (s : State) : State :=
  let s := s.alloc.cmds.foldl (fun (s : State) c => s.thrApply c) { s with alloc := { s.alloc with cmds := [] } }
  let s := s.man.alloc.buses.zipIdx.foldl (fun (s : State) b => s.readBus b.2 b.1) s
  let s := s.thrNums.foldl (fun (s : State) i => s.setThr i) s
  let s := s.thrNums.foldl (fun (s : State) i => s.releaseOne i) s
  let s : State := { s with alloc := { s.alloc with bufOk := false, solving := none } }
  let s := s.set R.ALLOC_STAT_AVAIL s.available.length
  let s := (s.incSat R.ALLOC_CONS_SUM_AGE)
  let s := (List.range s.caseCount).foldl (fun (s : State) c => s.incSat R.ALLOC_CASE_STAT_AGE c) s
  let run := if s.mode = 5 then 3 else if s.mode = 3 || s.mode = 4 || s.blendToReady then 1 else if s.mode = 2 then 2 else 0
  let s := s.set R.ALLOC_STAT_RUN run
  let s := if s.mode = 5 then s.set R.ALLOC_STAT_CONS_VALID 0 else s
  if s.mode = 2 && !s.blendToReady then s.setCap.allocOut .good else s

end Sys2Proof.Machine
end

