-- ==== Sys2Proof/Machine/Roles.lean ====
section
/-!
DEFINITION. Sessions, challenges and keys (R81 to R85, R93), and the journal (R89 to R91).
-/

namespace Sys2Proof.Machine

open Sys2Proof

/-! ### The journal -/

/-- The keys as a journal payload, and back. -/
def keyItem : Option (Nat × Nat) → List Nat
  | some k => [1, k.1, k.2]
  | none => [0, 0, 0]

/-- JOURNAL_WRITE (R90, R91): the waiting item goes into the sector or half that holds the older copy, erased, programmed and
read back; only while the NVM window is open. A copy that fails its read-back is not valid and the item waits on. -/
def execJournalWrite (dt : Nat) (readbackOk : Bool) (s : State) : Out :=
  let s := s.advance dt
  match s.mnf.waiting with
  | [] => .next s
  | it :: rest =>
    if !s.nvmOpen || !readbackOk then .next s
    else
      let old := tget s.mnf.journal it.kind (1, 0, [])
      let s : State := { s with mnf := { s.mnf with
        waiting := rest, journal := tput s.mnf.journal it.kind (1 - old.1, old.2.1 + 1, it.payload) } }
      if it.kind = 2 then .next s.cvWritten
      else if it.kind = 4 then .next { s with log := { s.log with persisted := s.log.marks, ringState := s.log.flushed } }
      else .next s

/-! ### Sessions -/

/-- The session code of ROLE_STAT.SESSION (R93). -/
def sessionCode : Role → Nat
  | .operator => 1 | .installer => 2 | .maker => 3 | _ => 0

def sessionRole : Nat → Role
  | 1 => .operator | 2 => .installer | 3 => .maker | _ => .host

/-- The key words are cleared at use and at session close (R93). -/
def State.clearKeyWords (s : State) : State := (List.range 8).foldl (fun s n => s.set R.ROLE_KEY_KEY 0 n) s

/-- The session closes, with its reason code (R83, R94). [Log DEDUCED: 19] -/
def State.closeSession (s : State) (reason : Nat) : State :=
  let n := s.get R.ROLE_STAT_SESSION
  if n = 0 then s
  else
    let s := s.record { code := 0x0402, role := sessionRole n, keyId := s.role.keyId, items := [(1, n), (1, reason)] }
    let s := (s.set R.ROLE_STAT_SESSION 0).clearKeyWords
    { s with mnf := { s.mnf with resetKeyAt := none } }

/-- ROLE_NEW_CHAL (R83): a challenge of the device's random source, valid for 10 s and one OPEN. -/
def execRoleNewChal (dt : Nat) (_port : Port) (chal : List Nat) (s : State) : Out :=
  let s := s.advance dt
  let s := (List.range 8).foldl (fun s n => s.set R.ROLE_CHAL_CHAL (ofLe ((chal.drop (4 * n)).take 4)) n) s
  .next { s.set R.ROLE_STAT_CHAL_VALID 1 with role := { s.role with chalAt := s.now } }

/-- The key of a role. -/
def State.keyOf (s : State) : Role → Option (Nat × Nat)
  | .operator => s.role.operKey | .installer => s.role.instKey | .maker => s.role.makerKey | _ => none

/-- The challenge and the response words as bytes. -/
def State.chalBytes (s : State) : List Nat := (List.range 8).flatMap fun n => leBytes 4 (s.get R.ROLE_CHAL_CHAL n)
def State.respBytes (s : State) : List Nat := (List.range 8).flatMap fun n => leBytes 4 (s.get R.ROLE_RESP_RESP n)

/-- The response that a key gives: HMAC over challenge, role byte and device identity (R82). -/
def State.rightResponse (s : State) (key : Nat) (role : Role) : List Nat :=
  hmacSha256 (bytes32 key) (s.chalBytes ++ [sessionCode role] ++ leBytes 8 s.role.uid)

/-- Why an OPEN that is not locked fails (R94): 2 no valid challenge, 3 key not provisioned, 1 wrong response; 0 it does not.
[Log DESIGN CHOICE: 39; DEDUCED: 46] -/
def State.openCause (s : State) (role : Role) : Nat :=
  if s.get R.ROLE_STAT_CHAL_VALID = 0 || s.role.chalAt + 10000000000 ≤ s.now then 2
  else match s.keyOf role with
    | none => 3
    | some k => if s.respBytes = s.rightResponse k.1 role then 0 else 1

/-- A failed OPEN (R83): it consumes the challenge and counts; the third and every later one in a row locks OPEN for 60 s.
[Log DESIGN CHOICE: 39] -/
def State.openFail (s : State) (port : Port) (role : Role) (cause : Nat) : State :=
  let a := s.actor port
  let s := (s.set R.ROLE_STAT_CHAL_VALID 0).incSat R.ROLE_STAT_FAILS
  let s := s.record { code := 0x0403, role := a.1, keyId := a.2,
                      items := [(1, sessionCode role), (1, s.get R.ROLE_STAT_FAILS), (1, cause)], key := 1 }
  if 3 ≤ s.get R.ROLE_STAT_FAILS then
    { s.set R.ROLE_STAT_LOCKED 1 with role := { s.role with lockAt := some s.now } }.record { code := 0x0404 }
  else s

/-- ROLE_OPEN (R82, R83). [Log DEDUCED: 46] -/
def execRoleOpen (dt : Nat) (port : Port) (role : Role) (s : State) : Out :=
  let s := s.advance dt
  if s.flag R.ROLE_STAT_LOCKED then
    let a := s.actor port
    .next (s.record { code := 0x0403, role := a.1, keyId := a.2,
                      items := [(1, sessionCode role), (1, s.get R.ROLE_STAT_FAILS), (1, 4)], key := 1 })
  else if s.openCause role ≠ 0 then .next (s.openFail port role (s.openCause role))
  else
    let id := match s.keyOf role with | some k => k.2 | none => 0
    let s := s.closeSession 5
    let s := ((s.set R.ROLE_STAT_SESSION (sessionCode role)).set R.ROLE_STAT_FAILS 0).set R.ROLE_STAT_CHAL_VALID 0
    let s : State := { s with role := { s.role with owner := port, keyId := id, rwlAt := s.now } }
    .next (s.record { code := 0x0401, role := role, keyId := id, items := [(1, sessionCode role), (2, id)] })

/-- ROLE_CLOSE (R83): from the owning port it closes the session; from the other it has no effect and is recorded. -/
def execRoleClose (dt : Nat) (port : Port) (s : State) : Out :=
  let s := s.advance dt
  if s.get R.ROLE_STAT_SESSION = 0 then .next s
  else if s.role.owner = port then .next (s.closeSession 1)
  else .next (s.rwlIgnored port 0x3004)

/-- CHALLENGE_EXPIRY (R83): 10 s after its generation. -/
def execChallengeExpiry (dt : Nat) (s : State) : Out :=
  let s := s.advance dt
  if s.role.chalAt + 10000000000 ≤ s.now then .next (s.set R.ROLE_STAT_CHAL_VALID 0) else .next s

/-- OPEN_LOCK_EXPIRY (R83): the lock ends after 60 s; FAILS stays. -/
def execOpenLockExpiry (dt : Nat) (s : State) : Out :=
  let s := s.advance dt
  match s.role.lockAt with
  | some t =>
    if t + 60000000000 ≤ s.now then .next { s.set R.ROLE_STAT_LOCKED 0 with role := { s.role with lockAt := none } }
    else .next s
  | none => .next s

/-- SESSION_IDLE_TIMEOUT (R83): 300 s without an RWL write. -/
def execSessionIdleTimeout (dt : Nat) (s : State) : Out :=
  let s := s.advance dt
  if s.role.rwlAt + 300000000000 ≤ s.now then .next (s.closeSession 2) else .next s

/-! ### Keys -/

/-- The key in the key words. -/
def State.keyWords (s : State) : Nat :=
  ofBe ((List.range 8).flatMap fun n => leBytes 4 (s.get R.ROLE_KEY_KEY n))

/-- The command as ROLE_KEY_CMD reads back. -/
def State.keyCmd (s : State) (target keyId : Nat) : State :=
  (s.set R.ROLE_KEY_CMD_TARGET target).set R.ROLE_KEY_CMD_KEY_ID keyId

/-- A key write without effect (R93): in a Maker or Installer session the key words are cleared; it is recorded. -/
def State.keyNoEffect (s : State) (port : Port) (target keyId : Nat) : State :=
  match s.session port with
  | some .maker => ((s.keyCmd target keyId).clearKeyWords).rwlIgnored port 0x3008
  | some .installer => ((s.keyCmd target keyId).clearKeyWords).rwlIgnored port 0x3008
  | _ => s.rwlIgnored port 0x3008

/-- ROLE_KEY_MAKER (R85): one write into blank OTP, with or without a session, recorded with ROLE 4; later ones are ignored. -/
def execRoleKeyMaker (dt : Nat) (port : Port) (keyId : Nat) (s : State) : Out :=
  let s := (s.advance dt).lullLeave 1
  match s.role.makerKey with
  | some _ => .next (s.keyNoEffect port 1 keyId)
  | none =>
    let s := s.keyCmd 1 keyId
    let s : State := { s with role := { s.role with makerKey := some (s.keyWords, keyId % 65536) } }
    let s := (s.set R.ROLE_STAT_MAKER_KEY 1).clearKeyWords
    .next (s.record { code := 0x0405, role := .host, items := [(1, 1), (2, keyId)] })

/-- An Installer or Operator key is provisioned: in force at once, and journalled (R89, R93). -/
def State.provision (s : State) (port : Port) (target keyId : Nat) : State :=
  let a := s.actor port
  let k := some (s.keyWords, keyId % 65536)
  let s := s.keyCmd target keyId
  let s := if target = 2 then { s with role := { s.role with instKey := k } }.set R.ROLE_STAT_INST_KEY 1
    else { s with role := { s.role with operKey := k } }.set R.ROLE_STAT_OPER_KEY 1
  let s : State := { s.clearKeyWords with role := { s.role with rwlAt := s.now } }
  let s := s.journalWait 1 (keyItem s.role.instKey ++ keyItem s.role.operKey)
  s.record { code := 0x0405, role := a.1, keyId := a.2, items := [(1, target), (2, keyId)] }

/-- ROLE_KEY_INSTALLER (R93): in a Maker session. -/
def execRoleKeyInstaller (dt : Nat) (port : Port) (keyId : Nat) (s : State) : Out :=
  let s := (s.advance dt).lullLeave 1
  match s.session port with
  | some .maker => .next (s.provision port 2 keyId)
  | _ => .next (s.keyNoEffect port 2 keyId)

/-- ROLE_KEY_OPERATOR (R93): in a Maker or Installer session. -/
def execRoleKeyOperator (dt : Nat) (port : Port) (keyId : Nat) (s : State) : Out :=
  let s := (s.advance dt).lullLeave 1
  match s.session port with
  | some .maker => .next (s.provision port 3 keyId)
  | some .installer => .next (s.provision port 3 keyId)
  | _ => .next (s.keyNoEffect port 3 keyId)

end Sys2Proof.Machine
end

