-- ==== Sys2Proof/Machine/Manifest.lean ====
section
/-!
DEFINITION. Installing a manifest (R87, R88, R91), Installer parameter changes (R86) and roll call (R73 to R76).
-/

namespace Sys2Proof.Machine

open Sys2Proof

/-! ### INSTALL and RESTORE -/

/-- A staged image is checked by R65 to R69, up to reason 8. -/
def State.imageOk (s : State) (i : SlotImage) : Bool :=
  headerReason s.mus.capacity (s.get R.DEV_GRADE_GRADE) i.header = none &&
  bodyReason s.role.makerKey s.role.instKey i.check = none

/-- The record 0x0303 (R94): command, step, RESULT and PEER_RESULT. -/
def State.instRecord (s : State) (cmd : Nat) : State :=
  s.record { code := 0x0303, items := [(1, cmd), (1, s.get R.MNF_INST_STATE), (1, s.get R.MNF_INST_RESULT),
                                       (1, s.get R.MNF_INST_PEER_RESULT)] }

/-- The journal notes that an installation runs, or that none does (R89, INSTALL_CUT). -/
def State.installNote (s : State) (on : Nat) : State :=
  let old := tget s.mnf.journal 3 (1, 0, [])
  { s with mnf := { s.mnf with journal := tput s.mnf.journal 3 (1 - old.1, old.2.1 + 1, [on]) } }

/-- The installation ends (R92). [Log DEDUCED: 45] -/
def State.instEnd (s : State) (cmd state result : Nat) : State :=
  let s : State := { s with mnf := { s.mnf with install := none } }
  let s := ((s.set R.MNF_INST_STATE state).set R.MNF_INST_RESULT result).set R.MNF_INST_TEMP_HOLD 0
  (s.instRecord cmd)

/-- The run stands in a flash step when the next command comes (R87, R92): a slot half written reads as none. -/
def State.instStand (s : State) (ins : Install) (step : Nat) : State :=
  let s : State := { s with mnf := { s.mnf with install := some { ins with step := step } } }
  let s : State := if step = 2 then { s with mnf := { s.mnf with slotB := none } } else { s with mnf := { s.mnf with slotA := none } }
  (s.set R.MNF_INST_STATE step).set R.MNF_INST_TEMP_HOLD 0

/-- The steps that write flash, once the window is open (R87 steps 2 to 4, R88): COPY where slot A is in use, then ERASE,
PROGRAM and READBACK of slot A. The journal notes them until they end (R89). -/
def State.instWrite (s : State) (ins : Install) (run : InstRun) : State :=
  let s := s.installNote 1
  let copy : Bool := ins.cmd = 1 && ins.step = 2 && s.get R.MODE_STAT_SLOT = 1
  if copy && run = .atCopy then s.instStand ins 2
  else if copy && run = .badCopy then
    ({ s with mnf := { s.mnf with slotB := none } }.installNote 0).instEnd ins.cmd 7 4
  else
    let s : State := if copy then { s with mnf := { s.mnf with slotB := s.mnf.slotA } } else s
    match run with
    | .atProgram => s.instStand ins 4
    | .badSlot => ({ s with mnf := { s.mnf with slotA := none } }.installNote 0).instEnd ins.cmd 7 4
    | _ => (({ s with mnf := { s.mnf with slotA := some ins.image } }.installNote 0).set R.MNF_INST_PROGRESS 100).instEnd ins.cmd 6 1

/-- The steps run, or wait for the NVM temperature window with TEMP_HOLD set (R91). -/
def State.instRun (s : State) (cmd : Nat) (image : SlotImage) (run : InstRun) : State :=
  let ins : Install := ⟨cmd, 2, image⟩
  let s := ((s.set R.MNF_INST_STATE 1).set R.MNF_INST_RESULT 0).set R.MNF_INST_PEER_RESULT (if s.isPaired then 0 else 15)
  let s := (s.set R.MNF_INST_PROGRESS 0).instRecord cmd
  if s.nvmOpen then s.instWrite ins run
  else { (s.set R.MNF_INST_STATE 2).set R.MNF_INST_TEMP_HOLD 1 with mnf := { s.mnf with install := some ins } }

/-- INSTALL and RESTORE are accepted in READY, SAFE or PAIR-HOLD, one at a time (R87, R88). -/
def State.instAllowed (s : State) : Bool :=
  (s.mode = 2 || s.mode = 5 || (s.mode = 1 && s.get R.MODE_STAT_PHASE = 9)) && s.mnf.install.isNone

/-- A refused command (R92: RESULT 2). -/
def State.instRefuse (s : State) (cmd : Nat) : State := (s.set R.MNF_INST_RESULT 2).instRecord cmd

/-- INSTALL of an image. [Log DEDUCED: 36] -/
def State.install (s : State) (image : SlotImage) (run : InstRun) : State :=
  if !s.instAllowed then s.instRefuse 1
  else if !s.imageOk image then
    (((s.set R.MNF_INST_STATE 1).set R.MNF_INST_RESULT 0).instRecord 1).instEnd 1 7 3
  else s.instRun 1 image run

/-- MNF_INSTALL (R87). `image` is what the staged bytes read as. [Log DEDUCED: 34, 36] -/
def execMnfInstall (dt : Nat) (port : Port) (image : SlotImage) (run : InstRun) (s : State) : Out :=
  .next ((s.advance dt).withRole port [.installer] 0x2018 fun s => (s.set R.MNF_CMD_CMD 1).install image run)

/-- MNF_RESTORE (R88): slot B is checked and copied to slot A. [Log DEDUCED: 34] -/
def execMnfRestore (dt : Nat) (port : Port) (run : InstRun) (s : State) : Out :=
  .next ((s.advance dt).withRole port [.installer] 0x2018 fun s =>
    let s := s.set R.MNF_CMD_CMD 2
    if !s.instAllowed then s.instRefuse 2
    else match s.mnf.slotB with
      | some b => if s.imageOk b then s.instRun 2 b run
          else (((s.set R.MNF_INST_STATE 1).set R.MNF_INST_RESULT 0).instRecord 2).instEnd 2 7 3
      | none => (((s.set R.MNF_INST_STATE 1).set R.MNF_INST_RESULT 0).instRecord 2).instEnd 2 7 3)

/-- INSTALL_RESUME (R91): the waiting step starts once the window and the bus allow it; journal writes and recorder flushes go
first. [Log DEDUCED: 34, 45] -/
def execInstallResume (dt : Nat) (run : InstRun) (s : State) : Out :=
  let s := s.advance dt
  match s.mnf.install with
  | some ins => if s.nvmOpen && s.mnf.waiting = [] then .next (s.instWrite ins run) else .next s
  | none => .next s

/-- STAGED_IMAGE_RECEIVE (R87): the peer of a paired active installs the forwarded image. [Log DEDUCED: 34] -/
def execStagedImageReceive (dt : Nat) (image : SlotImage) (run : InstRun) (s : State) : Out :=
  let s := s.advance dt
  if s.isPaired && !s.isActive then .next (s.install image run) else .next s

/-! ### Installer parameter changes (R86) -/

/-- The record 0x0306; its result is DONE (case 1), REFUSED-MODE (2) or REFUSED-RANGE (3). [Log DESIGN CHOICE: 37] -/
def State.paramRecord (s : State) (role : Role) (keyId param result : Nat) (old new : Int) : State :=
  s.record { code := 0x0306, role, keyId, items := [(2, param), caseItem 0x306 result, sItem 8 old, sItem 8 new], key := 2 }

/-- A parameter's value now. -/
def State.paramValue (s : State) (param : Nat) : Int :=
  match tfind s.mnf.tuned param with
  | some v => v
  | none => ((s.man.limits.find? (·.param = param)).map (·.value)).getD 0

/-- With the parameter at this value, every derived coefficient of every cell fits its format (R86, R242). -/
def State.tuneFits (s : State) (param : Nat) (value : Int) : Bool :=
  s.man.loop.cells.all fun x =>
    !x.2.tune.any (fun e => e.2 = param) ||
    coefsFit x.2 fun key d => match tfind x.2.tune key with
      | some p => if p = param then (value : Rat) / 4294967296
          else match tfind s.mnf.tuned p with | some v => (v : Rat) / 4294967296 | none => d
      | none => d

/-- INSTALLER_PARAM_CHANGE (R86): in READY, within LIMITS, with every derived coefficient in its format, it waits for the next
helm-cycle boundary; else it is refused. [Log DESIGN CHOICE: 37] -/
def execInstallerParamChange (dt : Nat) (port : Port) (param : Nat) (value : Int) (s : State) : Out :=
  .next ((s.advance dt).withRole port [.installer] 0x2000 fun s =>
    let a := s.actor port
    if s.mode ≠ 2 then s.paramRecord a.1 a.2 param 2 (s.paramValue param) value
    else match s.man.limits.find? (·.param = param) with
      | some l =>
        if l.lo ≤ value && value ≤ l.hi && s.tuneFits param value then
          { s with mnf := { s.mnf with tunePending := s.mnf.tunePending ++ [(param, value, a.2)] } }
        else s.paramRecord a.1 a.2 param 3 (s.paramValue param) value
      | none => s.paramRecord a.1 a.2 param 3 (s.paramValue param) value)

/-- The changes that wait take effect at a helm-cycle boundary in READY; elsewhere they are refused (R86). -/
def State.applyParams (s : State) : State :=
  let l := s.mnf.tunePending
  let s : State := { s with mnf := { s.mnf with tunePending := [] } }
  l.foldl (fun (s : State) x =>
    if s.mode = 2 then
      let s := s.paramRecord .installer x.2.2 x.1 1 (s.paramValue x.1) x.2.1
      { s with mnf := { s.mnf with tuned := tput s.mnf.tuned x.1 x.2.1 } }.set R.MNF_STAT_TUNED 1
    else s.paramRecord .installer x.2.2 x.1 2 (s.paramValue x.1) x.2.1) s

/-! ### Roll call (R73) -/

/-- ROLL_CALL_ISSUE (R73): at the first frame boundary of RUN-IN and every 100 frames after it. -/
def execRollCallIssue (dt : Nat) (s : State) : Out :=
  let s := s.advance dt
  if !s.rollRuns || s.pwr.l3 ≠ 0 || s.tick % 1000 ≠ 0 || (s.mnf.rollSeq ≠ 0 && s.tick < s.mnf.rollAt + 100000) then .next s
  else
    let s := (List.range s.man.nodes.length).foldl (fun (s : State) i => s.rollAbsent i) s
    let s : State := { s with mnf := { s.mnf with rollSeq := s.mnf.rollSeq + 1, rollAt := s.tick, rollSent := s.mnf.rollSent + 1 } }
    .next ((s.canRoll).ethRoll)

/-- ROLL_CALL_REPLY (R73, R74, R76): a reply with its node, mark and sequence. -/
def execRollCallReply (dt node mark seq : Nat) (s : State) : Out := .next ((s.advance dt).rollReply node mark seq)

end Sys2Proof.Machine
end

