-- ==== Sys2Proof/Machine/Fbl.lean ====
section
/-!
DEFINITION. Function-block lists (R77 to R80): the 32 block types and the evaluation of a list.
-/

namespace Sys2Proof.Machine

open Sys2Proof

/-- 1 in Q32.32, and the ends of the format. -/
def fq1 : Int := 4294967296
def fqMax : Int := 9223372036854775807
def fqMin : Int := -9223372036854775808

/-- A result saturates to Q32.32; the second part says whether it did (R78). -/
def fqSat (x : Int) : Int × Bool :=
  if fqMax < x then (fqMax, true) else if x < fqMin then (fqMin, true) else (x, false)

/-- An exact value as Q32.32; how a value between two steps is rounded is open. [Log DEDUCED: 41] -/
def fqOf (x : Rat) : Int := shownAt 0x18 (x * 4294967296)

def fqRat (x : Int) : Rat := (x : Rat) / 4294967296

def fqBool (b : Bool) : Int := if b then fq1 else 0

/-- The rank of a quality in the order of R12. -/
def qRank : Quality → Nat
  | .staleConfig => 0 | .masked => 1 | .substituted => 2 | .stale => 3 | .unverified => 4 | .uncertain => 5 | .good => 6

def qFirst (a b : Quality) : Quality := if qRank a ≤ qRank b then a else b

def qAll (l : List Sig) : Quality := l.foldl (fun q s => qFirst q s.q) .good

/-- What a block leaves: its output, its kept state, its error output and whether it saturated. -/
structure BlkOut where
  out : Sig
  mem : Int × Int := (0, 0)
  err : Bool := false
  sat : Bool := false
  deriving DecidableEq, Repr

/-- A numeric result with the quality of the inputs used. -/
def numOut (x : Int) (q : Quality) (mem : Int × Int := (0, 0)) (err : Bool := false) : BlkOut :=
  let r := fqSat x
  { out := ⟨r.1, q⟩, mem := mem, err := err, sat := r.2 }

def boolOut (b : Bool) (q : Quality) (mem : Int × Int := (0, 0)) : BlkOut := { out := ⟨fqBool b, q⟩, mem := mem }

/-- Linear interpolation between neighbouring points of a table given as x, y pairs, clamped at the ends (R78, LUT1).
[Log DEDUCED: 41] -/
def lut1 : List (Int × Int) → Int → Rat
  | [], _ => 0
  | [p], _ => fqRat p.2
  | p :: q :: t, x =>
    if x ≤ p.1 then fqRat p.2
    else if x < q.1 then
      fqRat p.2 + (fqRat q.2 - fqRat p.2) * ((fqRat x - fqRat p.1) / (fqRat q.1 - fqRat p.1))
    else lut1 (q :: t) x

/-- Consecutive pairs of a list. -/
def pairs : List Int → List (Int × Int)
  | a :: b :: t => (a, b) :: pairs t
  | _ => []

/-- LUT2: bilinear interpolation on a grid: columns first along each row, then between the rows (R78). `xs` has the columns,
`ys` the rows, `z` the values row by row. [Log DEDUCED: 41] -/
def lut2 (xs ys z : List Int) (x y : Int) : Rat :=
  let rows := ys.zipIdx.map fun r => (r.1, fqOf (lut1 (xs.zip ((z.drop (r.2 * xs.length)).take xs.length)) x))
  lut1 rows y

/-- The middle of three, or what is left of them: usable inputs only (R78, MID). -/
def midOf (l : List Sig) : Int :=
  let u := (l.filter fun s => s.q ≠ .staleConfig && s.q ≠ .masked && s.q ≠ .stale).map (·.v)
  match u with
  | [a, b, c] => max (min a b) (min (max a b) c)
  | [a, b] => fqOf ((fqRat a + fqRat b) / 2)
  | [a] => a
  | _ => 0

/-- One block (R78). `ins` are its inputs, `p` its constants, `m` what it kept, `per` the list period in s, `errIn` its last
output. Numeric constants are in Q32.32, timer presets in whole list periods. [Log DEDUCED: 41, 42] -/
def evalBlock (code : Nat) (ins : List Sig) (p : List Int) (m : Int × Int) (per : Rat) (last : Sig) : BlkOut :=
  let i := fun n => ins.getD n {}
  let a := (i 0).v
  let b := (i 1).v
  let q := qAll ins
  let k := fun n => p.getD n 0
  let tru := fun (x : Sig) => decide (x.v ≠ 0)
  match code with
  | 0 => numOut (a + b) q
  | 1 => numOut (a - b) q
  | 2 => numOut (fqOf (fqRat a * fqRat b)) q
  | 3 => if b = 0 then numOut (if a = 0 then 0 else if 0 < a then fqMax else fqMin) q (0, 0) true
         else numOut (fqOf (fqRat a / fqRat b)) q
  | 4 => numOut (if a < 0 then -a else a) q
  | 5 => numOut (if k 0 = 0 then min a b else max a b) q
  | 6 => numOut (fqOf (fqRat (k 0) * fqRat a + fqRat (k 1))) q
  | 7 => if a < 0 then numOut 0 q (0, 0) true else numOut (fqOf (Config.sqrt (fqRat a))) q
  | 8 => boolOut (match k 0 with
         | 0 => decide (a = b) | 1 => decide (a ≠ b) | 2 => decide (a < b) | 3 => decide (a ≤ b)
         | 4 => decide (b < a) | _ => decide (b ≤ a)) q
  | 9 => let on := if b + k 0 < a then true else if a < b - k 0 then false else decide (m.1 ≠ 0)
         boolOut on q (if on then 1 else 0, 0)
  | 10 => boolOut (decide (k 0 ≤ a) && decide (a ≤ k 1)) q
  | 11 => boolOut (ins.all tru) q
  | 12 => boolOut (ins.any tru) q
  | 13 => boolOut (tru (i 0) != tru (i 1)) q
  | 14 => boolOut (!tru (i 0)) q
  | 15 => boolOut (tru (i 0) && m.1 = 0) q (if tru (i 0) then 1 else 0, 0)
  | 16 => boolOut (!tru (i 0) && m.1 ≠ 0) q (if tru (i 0) then 1 else 0, 0)
  | 17 => -- TON: m = (elapsed periods, input last time)
    let e := if tru (i 0) then (if m.2 = 0 then 0 else min (k 0) (m.1 + 1)) else 0
    boolOut (tru (i 0) && decide (k 0 ≤ e)) q (e, if tru (i 0) then 1 else 0)
  | 18 => -- TOF: m = (periods since the input fell, 1 while timing)
    if tru (i 0) then boolOut true q (0, 1)
    else if m.2 = 0 then boolOut false q (0, 0)
    else if last.v ≠ 0 && m.1 + 1 < k 0 then boolOut true q (m.1 + 1, 1)
    else boolOut false q (0, 0)
  | 19 => -- TP: m = (periods of the pulse left, input last time)
    let start := tru (i 0) && m.2 = 0 && m.1 = 0
    let left := if start then k 0 else if 0 < m.1 then m.1 - 1 else 0
    boolOut (decide (0 < left)) q (left, if tru (i 0) then 1 else 0)
  | 20 => let on := tru (i 0) || (decide (m.1 ≠ 0) && !tru (i 1)); boolOut on q (if on then 1 else 0, 0)
  | 21 => let on := !tru (i 1) && (tru (i 0) || decide (m.1 ≠ 0)); boolOut on q (if on then 1 else 0, 0)
  | 22 => -- COUNT: up, down, load; m = (count, 1 up last + 2 down last)
    let up := tru (i 0) && m.2 % 2 = 0
    let dn := tru (i 1) && m.2 / 2 % 2 = 0
    let c := if tru (i 2) then k 0 else m.1 + (if up then fq1 else 0) - (if dn then fq1 else 0)
    let c := (fqSat c).1
    numOut c q (c, (if tru (i 0) then 1 else 0) + (if tru (i 1) then 2 else 0))
  | 23 => numOut (max (k 0) (min (k 1) a)) q
  | 24 => let up := fqOf (fqRat (k 0) * per); let dn := fqOf (fqRat (k 1) * per)
          let y := last.v + max (-dn) (min up (a - last.v))
          numOut y q
  | 25 => numOut (fqOf (lut1 (pairs p) a)) q
  | 26 => let nx := (k 0).toNat; let ny := (k 1).toNat
          let d := p.drop 2
          numOut (fqOf (lut2 (d.take nx) ((d.drop nx).take ny) (d.drop (nx + ny)) a b)) q
  | 27 => let x := if tru (i 0) then i 1 else i 2; numOut x.v (qFirst (i 0).q x.q)
  | 28 => let n := a / fq1
          let x := if 0 ≤ n ∧ n.toNat + 1 < ins.length then i (n.toNat + 1) else i 1
          numOut x.v (qFirst (i 0).q x.q)
  | 29 => let u := ins.filter fun s => s.q ≠ .staleConfig && s.q ≠ .masked && s.q ≠ .stale
          numOut (midOf ins) (if u = [] then q else qAll u)
  | 30 => numOut (fqOf (Config.value 30 [fqRat a, fqRat last.v, fqRat (k 0), per])) q
  | _ => boolOut ((k 0).toNat.testBit (i 0).q.code) .good

/-- The input of a block: a constant, a snapshot point, or another block's output, of this evaluation where it stands before
and of the last one where it does not (R77). -/
def fblIn (snap : Tab Sig) (now last : List Sig) (n : Nat) : FblIn → Sig
  | .const v => ⟨v, .good⟩
  | .point i => tget snap i ⟨0, .masked⟩
  | .block j => if j < n then now.getD j {} else last.getD j {}

/-- The whole list in order: outputs, kept state, errors and the number of saturations. -/
def evalBlocks (per : Rat) (st : FblSt) : List FblBlock → Nat → List Sig → List (Int × Int) → List Bool → Nat →
    List Sig × List (Int × Int) × List Bool × Nat
  | [], _, outs, mem, errs, sat => (outs, mem, errs, sat)
  | b :: t, n, outs, mem, errs, sat =>
    let ins := b.ins.map (fblIn st.snap outs st.outs n)
    let r := evalBlock b.code ins b.params (st.mem.getD n (0, 0)) per (st.outs.getD n {})
    evalBlocks per st t (n + 1) (outs ++ [r.out]) (mem ++ [r.mem]) (errs ++ [r.err]) (sat + if r.sat then 1 else 0)

def State.fblSt (s : State) (l : Nat) : FblSt := tget s.mnf.fbl l {}

def State.putFbl (s : State) (l : Nat) (f : FblSt) : State := { s with mnf := { s.mnf with fbl := tput s.mnf.fbl l f } }

/-- The points a list reads. -/
def fblPoints (c : FblCfg) : List Nat :=
  c.blocks.flatMap fun b => b.ins.filterMap fun i => match i with | .point n => some n | _ => none

/-- An input point in Q32.32, clamped to the format (R35, R78). -/
def State.fblRead (s : State) (i : Nat) : Sig :=
  let r := s.ptReadIn i (-2147483648) (fqRat fqMax)
  ⟨(fqSat (fqOf r.1)).1, r.2⟩

/-- FBL_EVALUATION_START (R77, R80): on its tick the list snapshots its inputs; a list still running is overrun, and its next
evaluation is skipped. [Log DEDUCED: 43] -/
def execFblEvaluationStart (dt list : Nat) (s : State) : Out :=
  let s := s.advance dt
  match s.man.fbl[list]? with
  | none => .next s
  | some c =>
    let f := s.fblSt list
    if s.tick % (10 * c.k) ≠ 10 * c.q || c.engine ∈ s.engStopped then .next s
    else if f.busy then
      let run := f.run + 1
      let s := s.putFbl list { f with skip := true, run := run, overruns := f.overruns + 1 }
      .next (s.record { code := 0x0308, source := list, items := [(1, list), (1, c.engine), (2, run)], key := 2 })
    else
      let snap := (fblPoints c).foldl (fun t i => tput t i (s.fblRead i)) []
      .next (s.putFbl list { f with busy := true, skip := false, run := 0, snap := snap })

/-- FBL_EVALUATION_END (R77): the list commits all its outputs together, to swap at the next tick boundary (R39). -/
def execFblEvaluationEnd (dt list : Nat) (s : State) : Out :=
  let s := s.advance dt
  match s.man.fbl[list]? with
  | none => .next s
  | some c =>
    let f := s.fblSt list
    if !f.busy then .next s
    else
      let r := evalBlocks ((c.k : Rat) / 10000) f c.blocks 0 [] [] [] 0
      let s := s.putFbl list { f with busy := false, outs := r.1, mem := r.2.1, errs := r.2.2.1, sat := f.sat + r.2.2.2 }
      .next (c.outs.foldl (fun (s : State) o =>
        let g := r.1.getD o.2 {}
        match s.ptCfg o.1 with
        | some p => { s with commits := s.commits.filter (fun x => !x.isPoint o.1) ++
            [.point o.1 (encodeNum p.type (fqRat g.v)) s.pm g.q] }
        | none => s) s)

/-- FBL_OVERRUN_LIMIT (R80): three consecutive overruns of one list are a device fault of the watchdog kind. [Log DEDUCED: 43] -/
def execFblOverrunLimit (dt list : Nat) (s : State) : Out :=
  let s := s.advance dt
  if 3 ≤ (s.fblSt list).run then
    .next (s.deviceFault 8 (match s.man.fbl[list]? with | some c => c.engine | none => 0xFFFF))
  else .next s

end Sys2Proof.Machine
end

