-- ==== Sys2Proof/Machine/Modes.lean ====
section
/-!
DEFINITION. Mode commands, SAFE and its entry, the deliberate reset, DORMANT entry (R48, R51 to R60), and the faults of the
architecture chapter (R14, R17, R20, R23).
-/

namespace Sys2Proof.Machine

open Sys2Proof

/-! ### Mode commands -/

/-- The source item of 0x0202 and 0x0207 (R63). -/
def srcItem : CmdSrc → Nat
  | .host .pcie => 1
  | .host .spi => 2
  | .point i => 3 + 256 * (i % 2 ^ 24)

/-- The guards a transition needs, as a mask of MODE_GUARD; none where there is no transition (R53). [Log DEDUCED: 29] -/
def transGuards (old new : Nat) : Option Nat :=
  match old, new with
  | 2, 3 => some 0b0001111 | 2, 4 => some 0b0001110 | 3, 4 => some 0b0001110 | 4, 3 => some 0b0001111
  | 3, 2 => some 0 | 4, 2 => some 0 | 2, 0 => some 0b0110000 | 5, 0 => some 0b0100000
  | 2, 5 => some 0 | 3, 5 => some 0 | 4, 5 => some 0 | _, _ => none

/-- A result of a mode command: MODE_CMD_STAT, the event bit, the record and the envelope (R62, R63, R502). -/
def State.modeResult (s : State) (res target tag : Nat) (src : CmdSrc) (keyId guards : Nat) : State :=
  let g := if res = 3 ∨ res = 4 ∨ res = 5 then guards else 0
  let s := ((s.set R.MODE_CMD_STAT_RESULT res).set R.MODE_CMD_STAT_TAG tag).set R.MODE_CMD_STAT_GUARDS g
  if res = 1 then
    let s := s.record { code := 0x0207, role := .operator, keyId := keyId,
                        items := [(1, target), (1, tag), (1, 1), (4, srcItem src)] }
    s.result 2 0 target 1 tag .operator keyId s.log.head
  else if res = 2 then (s.evt R.MODE_EVT_CMD_DONE).result 2 0 target 2 tag .operator keyId 0
  else
    let s := (s.evt R.MODE_EVT_CMD_REFUSED).record
      { code := 0x0202, role := .operator, keyId := keyId,
        items := [(1, res), (1, tag), (1, g), (1, 1), (4, srcItem src)] }
    s.result 2 0 target res tag .operator keyId s.log.head

/-- MODE_GUARD [6:0] as a number (R62). [Log DEDUCED: 30] -/
def State.guards (s : State) : Nat :=
  s.get R.MODE_GUARD_POS_OK + 2 * s.get R.MODE_GUARD_HDG_OK + 4 * s.get R.MODE_GUARD_THR_OK +
  8 * s.get R.MODE_GUARD_SOLVER_OK + 16 * s.get R.MODE_GUARD_MFN_IDLE + 32 * s.get R.MODE_GUARD_THR_ZERO +
  64 * s.get R.MODE_GUARD_SAFE_CLEAR

/-- The waiting command is gone from the queue of one that R52 gives. -/
def State.clearPending (s : State) : State :=
  { s with mnf := { s.mnf with pendingMode := none } }.set R.MODE_STAT_PENDING 0

/-- The waiting mode command, if any, reads a result: SUPERSEDED, PREEMPTED or a refusal (R52). -/
def State.endPending (s : State) (res guards : Nat) : State :=
  match s.mnf.pendingMode with
  | some p => (s.clearPending).modeResult res p.target p.tag p.src p.keyId guards
  | none => s

/-- The device may accept a mode command: it is the active; one that gave up or dropped out may be put to DORMANT from SAFE
(R51, R53). -/
def State.mayAccept (s : State) (target : Nat) : Bool :=
  s.isActive || (s.flag R.DEV_STAT_DRIVES_NOTHING && s.mode = 5 && target = 0)

/-- A mode command is judged (R48, R51 to R53). [Log DEDUCED: 29] -/
def State.modeAccept (s : State) (target tag : Nat) (src : CmdSrc) (keyId : Nat) : State :=
  if s.mode = 1 then
    s.modeResult (if s.get R.MODE_STAT_PHASE = 9 then 5 else 4) target tag src keyId s.guards
  else if !s.mayAccept target then s.modeResult 5 target tag src keyId s.guards
  else if transGuards s.mode target = none then s.modeResult 4 target tag src keyId s.guards
  else
    let s := s.endPending 6 0
    let s := if target = 3 || target = 4 then s.gnssWake 4 else s
    let s := s.modeResult 1 target tag src keyId 0
    { s with mnf := { s.mnf with pendingMode := some ⟨target, tag, src, keyId, s.log.head⟩ } }.set R.MODE_STAT_PENDING 1

/-- A mode command from a host port needs an Operator session; from a command point, that the manifest names the point (R51). -/
def State.modeCmd (s : State) (target : Nat) (src : CmdSrc) (tag : Nat) : State :=
  match src with
  | .host p => s.withRole p [.operator] 0x1004 fun s =>
      ((s.set R.MODE_CMD_TARGET target).set R.MODE_CMD_TAG tag).modeAccept target (tag % 256) src s.role.keyId
  | .point i => if i ∈ s.man.modePoints then (s.lullLeave 9).modeAccept target (tag % 256) src s.operKeyId else s

/-- MODE_CMD_READY (R53): READY is mode 2. -/
def execModeCmdReady (dt : Nat) (src : CmdSrc) (tag : Nat) (s : State) : Out := .next ((s.advance dt).modeCmd 2 src tag)

/-- MODE_CMD_STATION (R53): STATION is mode 3. -/
def execModeCmdStation (dt : Nat) (src : CmdSrc) (tag : Nat) (s : State) : Out := .next ((s.advance dt).modeCmd 3 src tag)

/-- MODE_CMD_PASSAGE (R53): PASSAGE is mode 4. -/
def execModeCmdPassage (dt : Nat) (src : CmdSrc) (tag : Nat) (s : State) : Out := .next ((s.advance dt).modeCmd 4 src tag)

/-- MODE_CMD_SAFE (R57): SAFE is mode 5; it waits for the helm-cycle boundary as every mode command does. -/
def execModeCmdSafe (dt : Nat) (src : CmdSrc) (tag : Nat) (s : State) : Out := .next ((s.advance dt).modeCmd 5 src tag)

/-- MODE_CMD_DORMANT (R55): DORMANT is mode 0. -/
def execModeCmdDormant (dt : Nat) (src : CmdSrc) (tag : Nat) (s : State) : Out := .next ((s.advance dt).modeCmd 0 src tag)

/-! ### Changing mode -/

/-- The mode changes (R63), which ends injections (R255). -/
def State.enterMode (s : State) (new : Nat) : State :=
  let old := s.mode
  let s := s.injectionsStop
  ((s.set R.MODE_STAT_MODE new).evt R.MODE_EVT_MODE_CHANGED).record
    { code := 0x0201, items := [(1, old), (1, new), (8, s.tick)], key := 2 }

/-- SAFE is entered (R57, R58): the cause of the first entry stays, a waiting command reads PREEMPTED, and the SAFE content
takes over. -/
def State.safeEnter (s : State) (cause kind : Nat) : State :=
  let s := s.endPending 7 0
  let s := if s.mode = 5 then s else (s.enterMode 5).evt R.MODE_EVT_SAFE_ENTERED
  let s := if s.get R.MODE_STAT_SAFE_CAUSE = 0 then s.set R.MODE_STAT_SAFE_CAUSE cause else s
  let s := (s.safeCause cause kind).gnssWake 5
  ({ s with mnf := { s.mnf with safePending := none, safeKind := 0 } } : State).safeContent

/-- SAFE_ENTRY (R45, R58): at the next tick boundary after a trigger; in RUN-IN it ends MUSTER. -/
def execSafeEntry (dt : Nat) (s : State) : Out :=
  let s := s.advance dt
  match s.mnf.safePending with
  | some c => if s.mode = 1 then .next (s.runInFail c) else if s.inService then .next (s.safeEnter c s.mnf.safeKind) else .next s
  | none => .next s

/-- A receiver that tracks writes its retained data at DORMANT entry (R130); what its ephemeris is by then is open.
[Log DESIGN CHOICE: 70] -/
def State.gnssKeep (s : State) : State :=
  if s.get R.GNSS_TRK_L1_TRK + s.get R.GNSS_TRK_L5_TRK = 0 then s
  else { s with gnssRet := some { ephSec := Config.fresh 0x5010 s.now, almanac := Config.fresh 0x5011 s.now % 2 = 1,
                                  body := [Config.fresh 0x5012 s.now] } }

/-- DORMANT is entered at its boundary (R55, R448): the open record closes; with the NVM window closed the newest unflushed
records go to the hold area, the older ones are lost, and unpersisted marks return to their persisted values.
[Log DESIGN CHOICE: 70] -/
def State.dormantEnter (s : State) : State :=
  let s := (s.enterMode 0).gnssKeep
  let s : State := { s with log := { s.log with isOpen := false }, mus := { s.mus with dormantAt := some s.now } }
  if s.nvmOpen then
    let un := s.log.unflushed.reverse
    let flash := un.foldl (fun f r => tput f (r.seq % 1052672) r) s.log.flash
    { s with log := { s.log with flash := flash, flushed := s.log.head, ringState := s.log.head,
                                 persisted := s.log.marks } }
  else
    let m := s.mirror
    { s with log := m }.inc R.LOG_LOST_HOLD 0 (m.lostHold - s.log.lostHold)

/-- DORMANT_ENTRY_DONE (R55, R498): the PWR_EN outputs drop and only the always-on domain is left; a wake that came during the
entry acts at once. -/
def execDormantEntryDone (dt : Nat) (s : State) : Out :=
  let s := s.advance dt
  match s.mus.dormantAt with
  | none => .next s
  | some _ =>
    let wake := s.mus.wakeLatched
    let s' := s.powerOff
    if wake then .next { s' with mus := { s'.mus with wake := true, enIo := true, ioAt := s'.now } } else .next s'

/-- MODE_RESET_WRITE (R59): 0xA55A and then 0x5AA5 within 1 s, in one Operator session, start a full MUSTER; any other value
or order discards the sequence and is recorded. [Log DEDUCED: 18] -/
def execModeResetWrite (dt : Nat) (port : Port) (key : Nat) (s : State) : Out :=
  let s := s.advance dt
  .next (s.withRole port [.operator] 0x1010 fun s =>
    let first := s.mnf.resetKeyAt
    let s : State := { s with mnf := { s.mnf with resetKeyAt := none } }
    let inTime := match first with | some t => decide (s.now ≤ t + 1000000000) | none => false
    if key = 0x5AA5 && inTime then (s.closeSession 4).deliberateReset s.role.keyId
    else
      let s := if first.isSome || key ≠ 0xA55A then s.rwlIgnored port 0x1010 else s
      if key = 0xA55A then { s with mnf := { s.mnf with resetKeyAt := some s.now } } else s)

/-- MODE_RESET_TIMEOUT (R59): 1 s after the first key the sequence is discarded and recorded. [Log DEDUCED: 18] -/
def execModeResetTimeout (dt : Nat) (s : State) : Out :=
  let s := s.advance dt
  match s.mnf.resetKeyAt with
  | some t =>
    if t + 1000000000 < s.now then
      .next ({ s with mnf := { s.mnf with resetKeyAt := none } }.rwlIgnored s.role.owner 0x1010)
    else .next s
  | none => .next s

/-- What a host read returned. -/
def State.reads (s : State) (p : Port) (v : Nat) : State :=
  match p with
  | .pcie => { s with pcie := { s.pcie with rdata := v } }
  | .spi => { s with spi := { s.spi with rdata := v } }

/-- MODE_TICK_LO_READ (R62): returns the low tick word and latches TICK_HI. -/
def execModeTickLoRead (dt : Nat) (port : Port) (s : State) : Out :=
  let s := s.advance dt
  .next ((s.set R.MODE_TICK_HI_TICK_HI (s.tick / 2 ^ 32)).reads port (s.tick % 2 ^ 32))

/-! ### Faults of the architecture chapter -/

/-- ENGINE_LOCKSTEP_MISMATCH (R17): the engine stops for the power cycle; a device fault of cause 1. -/
def execEngineLockstepMismatch (dt engine : Nat) (s : State) : Out :=
  let s := s.advance dt
  .next ({ s with engStopped := if engine ∈ s.engStopped then s.engStopped else engine :: s.engStopped }.deviceFault 1 engine)

/-- ECC_UNCORRECTABLE (R20): a device fault of cause 3; in the GNSS region of retention SRAM only the retained data is
discarded, and in the island's SRAM the island locks out. -/
def execEccUncorrectable (dt : Nat) (mem : MemKind) (unit : Nat) (s : State) : Out :=
  let s := s.advance dt
  match mem with
  | .retGnss => .next (s.gnssDiscard 0)
  | .island => .next (s.islandPermanent 8)
  | _ => .next (s.deviceFault 3 unit)

/-- A memory's number in the correction counts. -/
def memIdx : MemKind → Nat
  | .engine => 0 | .scratch => 1 | .shared => 2 | .retGnss => 3 | .retention => 4 | .island => 5 | .dram => 6

/-- ECC_CORRECTION (R20): corrected, written back and counted. -/
def execEccCorrection (dt : Nat) (mem : MemKind) (s : State) : Out :=
  let s := s.advance dt
  let s := if mem = .scratch then s.inc R.YUZ_ECC_CORRECTED else s
  .next { s with eccFixed := tput s.eccFixed (memIdx mem) (tget s.eccFixed (memIdx mem) 0 + 1) }

/-- A domain's cycles in 64 periods of XTAL32K, 1.953125 ms (R21, R23). -/
def domainNominal : FastDomain → Nat
  | .f800 => 1562500 | .f600 => 1171875 | .f400 => 781250 | .f200 => 390625

/-- A count departs by more than 1 % from nominal. -/
def countOff (c : FastDomain × Nat) : Bool :=
  let n := domainNominal c.1
  decide (n * 101 < c.2 * 100) || decide (c.2 * 100 < n * 99)

/-- CLOCK_MONITOR_WINDOW (R23): a fast domain more than ±1 % off is a device fault of cause 4. -/
def execClockMonitorWindow (dt : Nat) (counts : List (FastDomain × Nat)) (s : State) : Out :=
  let s := s.advance dt
  if counts.any countOff then .next (s.deviceFault 4 0xFFFF) else .next s

/-- XTAL32K_LOSS (R23): a clock-monitor fault; the RTC runs on from the main clock until the next power cycle.
[Log DESIGN CHOICE: 49] -/
def execXtal32kLoss (dt : Nat) (s : State) : Out :=
  let s := s.advance dt
  .next ({ s with time := { s.time with rtcMain := true } }.deviceFault 4 0xFFFF)

/-- NETWORK_PRIORITY_AGING (R14): a level 3 request that has waited 2,048 network cycles is served once at level 2. -/
def execNetworkPriorityAging (dt port waited : Nat) (s : State) : Out :=
  let s := s.advance dt
  if waited < 2048 then .next s
  else .next { s with netAged := tput s.netAged port (tget s.netAged port 0 + 1) }

end Sys2Proof.Machine
end

