-- ==== Sys2Proof/Machine/Helm.lean ====
section
/-!
DEFINITION. The helm (R170 to R194): law and setpoint commands, the shaper, manual axes, the blend, and the force of each
cycle. The first-stage force of a solve comes with the command.
-/

namespace Sys2Proof.Machine

open Sys2Proof

def State.law (s : State) : Nat := s.get R.HELM_STAT_LAW

/-- The mode in which a law runs (R170). -/
def lawMode (law : Nat) : Nat := if law = 1 || law = 2 then 3 else 4

/-- The held axes of a law (R170), as HELM_STAT.HELD. -/
def heldAxes : Nat → Nat
  | 1 => 7 | 2 => 7 | 3 => 7 | 4 => 4 | _ => 0

/-- The mode that will be in force at the next boundary: the target of a waiting mode command, else the present one.
[Log DEDUCED: 87] -/
def State.nextMode (s : State) : Nat := match s.mnf.pendingMode with | some p => p.target | none => s.mode

/-- The law that will be in force at the next boundary (R171, R173). [Log DEDUCED: 87] -/
def State.nextLaw (s : State) : Nat :=
  match s.helm.lawPend with
  | some c => c.target
  | none =>
    match s.mnf.pendingMode with
    | some p => if p.target = 3 then 1 else if p.target = 4 then s.man.helm.passEntry else 0
    | none => s.law

/-! ### Commands (R172, R173) -/

/-- A law command is judged: the role of the active, then the mode; its guards are judged at its boundary. [Log DEDUCED: 87] -/
def State.lawAccept (s : State) (law tag : Nat) (role : Role) (keyId : Nat) : State :=
  let c : HelmCmd := ⟨0, law, tag % 256, role, keyId, 0⟩
  if !s.isActive then s.helmResult 5 c
  else if s.nextMode ≠ lawMode law then s.helmResult 4 c
  else
    let s := (s.endLaw 6).helmResult 1 c
    { s with helm := { s.helm with lawPend := some { c with seq := s.log.head } } }

/-- A law command from a host port or a command point (R172). -/
def State.lawCmd (s : State) (law : Nat) (src : CmdSrc) (tag : Nat) : State :=
  s.operatorCmd src s.man.helm.points 0x7004 fun s keyId =>
    let s := match src with
      | .host _ => (s.set R.HELM_LAW_CMD_LAW law).set R.HELM_LAW_CMD_TAG tag
      | .point _ => s
    s.lawAccept law tag .operator keyId

/-- LAW_CMD_POSITION (R172): law 1. -/
def execLawCmdPosition (dt : Nat) (src : CmdSrc) (tag : Nat) (s : State) : Out := .next ((s.advance dt).lawCmd 1 src tag)

/-- LAW_CMD_TARGET (R172): law 2. -/
def execLawCmdTarget (dt : Nat) (src : CmdSrc) (tag : Nat) (s : State) : Out := .next ((s.advance dt).lawCmd 2 src tag)

/-- LAW_CMD_TRACK (R172): law 3. -/
def execLawCmdTrack (dt : Nat) (src : CmdSrc) (tag : Nat) (s : State) : Out := .next ((s.advance dt).lawCmd 3 src tag)

/-- LAW_CMD_AUTOHDG (R172): law 4. -/
def execLawCmdAutohdg (dt : Nat) (src : CmdSrc) (tag : Nat) (s : State) : Out := .next ((s.advance dt).lawCmd 4 src tag)

/-- LAW_CMD_JOYSTICK (R172): law 5. -/
def execLawCmdJoystick (dt : Nat) (src : CmdSrc) (tag : Nat) (s : State) : Out := .next ((s.advance dt).lawCmd 5 src tag)

/-- A heading in 0.001° reduced under R10. -/
def mdeg360 (h : Int) : Int := h % 360000

/-- The staged setpoint of a KIND (R193). -/
def State.stagedSp (s : State) (kind : Nat) : SpVal :=
  { kind := kind, a := s.geti R.HELM_SP_A_A, b := s.geti R.HELM_SP_B_B, hdg := mdeg360 (s.geti R.HELM_SP_HDG_HDG),
    track := s.get R.HELM_SP_AUX_TRACK, hdgFixed := s.flag R.HELM_SP_AUX_HDG_FIXED, speed := s.get R.HELM_SP_AUX_SPEED,
    route := if kind = 3 then (List.range (s.get R.HELM_WP_SEL_COUNT)).map fun i => (s.geti R.HELM_WP_N_MM i, s.geti R.HELM_WP_E_MM i)
             else [] }

/-- A setpoint lies outside its range (R173). [Log DEDUCED: 90, 99] -/
def State.spOutOfRange (s : State) (v : SpVal) : Bool :=
  let r2 := v.a * v.a + v.b * v.b
  match v.kind with
  | 1 => decide (100000000000000 < r2)
  | 2 => decide (4000000000000 < r2)
  | _ => decide (s.man.helm.vMax * 1000 < v.speed) || decide (s.get R.HELM_WP_SEL_COUNT ≤ s.get R.HELM_WP_SEL_IDX) ||
         decide (v.route.length < 2) || decide (64 < v.route.length)

/-- A setpoint command is judged (R173). [Log DEDUCED: 90] -/
def State.spAccept (s : State) (v : SpVal) (tag : Nat) (role : Role) (keyId : Nat) : State :=
  let c : HelmCmd := ⟨1, v.kind, tag % 256, role, keyId, 0⟩
  if !s.isActive then s.helmResult 5 c
  else if s.nextLaw ≠ v.kind then s.helmResult 4 c
  else if s.spOutOfRange v then s.helmResult 8 c
  else
    let s := (s.endSp 6).helmResult 1 c
    { s with helm := { s.helm with spPend := some ({ c with seq := s.log.head }, v) } }

/-- A setpoint command commits the staged values (R172, R193). -/
def State.spCmd (s : State) (kind : Nat) (src : CmdSrc) (tag : Nat) : State :=
  s.operatorCmd src s.man.helm.points 0x701C fun s keyId =>
    let s := match src with
      | .host _ => s.set R.HELM_SP_CMD_TAG tag
      | .point _ => s
    s.spAccept (s.stagedSp kind) tag .operator keyId

/-- SP_CMD_POSITION (R173): KIND 1. -/
def execSpCmdPosition (dt : Nat) (src : CmdSrc) (tag : Nat) (s : State) : Out := .next ((s.advance dt).spCmd 1 src tag)

/-- SP_CMD_TARGET (R173): KIND 2. -/
def execSpCmdTarget (dt : Nat) (src : CmdSrc) (tag : Nat) (s : State) : Out := .next ((s.advance dt).spCmd 2 src tag)

/-- SP_CMD_TRACK (R173): KIND 3. -/
def execSpCmdTrack (dt : Nat) (src : CmdSrc) (tag : Nat) (s : State) : Out := .next ((s.advance dt).spCmd 3 src tag)

/-! ### The reference and its shaper (R171, R183, R186, R187) -/

/-- Metres of a length in mm. -/
def mm (x : Int) : Rat := (x : Rat) / 1000

/-- Length of a horizontal vector. -/
def norm2 (n e : Rat) : Rat := Config.sqrt (n * n + e * e)

/-- The distance in which a speed is brought to rest at the shaping limits, from acceleration 0 (R171, R186). -/
def stopDist (v a j : Rat) : Rat :=
  if j = 0 || a = 0 then 0
  else if a * a ≤ absR v * j then absR v / 2 * (absR v / a + a / j) else absR v * Config.sqrt (absR v / j)

/-- The estimated velocity in the earth frame. -/
def State.earthVel (s : State) : Rat × Rat :=
  let h := s.est.outHdg.getD 0
  let u := s.est.nu.getD 0 0
  let v := s.est.nu.getD 1 0
  (u * cosd h - v * sind h, u * sind h + v * cosd h)

/-- The position of a route at a length run along it (R183). -/
def routeAt : List (Int × Int) → Rat → Rat × Rat
  | [], _ => (0, 0)
  | [p], _ => (mm p.1, mm p.2)
  | p :: q :: t, x =>
    let dn := mm (q.1 - p.1)
    let de := mm (q.2 - p.2)
    let l := norm2 dn de
    if x ≤ l then (mm p.1 + dn * x / l, mm p.2 + de * x / l) else routeAt (q :: t) (x - l)

/-- The course of the leg at a length run along a route, in degrees. -/
def routeCourse : List (Int × Int) → Rat → Rat
  | p :: q :: t, x =>
    let dn := mm (q.1 - p.1)
    let de := mm (q.2 - p.2)
    if x ≤ norm2 dn de || t = [] then deg360 (Config.atan2 de dn) else routeCourse (q :: t) (x - norm2 dn de)
  | _, _ => 0

/-- The length of a route. -/
def routeLen : List (Int × Int) → Rat
  | p :: q :: t => norm2 (mm (q.1 - p.1)) (mm (q.2 - p.2)) + routeLen (q :: t)
  | _ => 0

/-- The horizontal reference of the shaper: on its line, or on the route under TRACK. -/
def State.shaperPos (s : State) : Rat × Rat :=
  if s.law = 3 then routeAt s.helm.route s.helm.path.x
  else (s.helm.org.1 + s.helm.path.x * s.helm.dir.1, s.helm.org.2 + s.helm.path.x * s.helm.dir.2)

/-- A track's north, east and heading as last estimated, or as surveyed (R181). -/
def State.trackPose (s : State) (t : Nat) : Rat × Rat × Rat :=
  match tfind s.man.tracks t with
  | some c =>
    if c.kind = 0 then (c.pos.getD 0 0, c.pos.getD 1 0, c.pos.getD 2 0)
    else let v := tget s.est.trackVals t []; (v.getD 0 0, v.getD 1 0, v.getD 4 0)
  | none => (0, 0, 0)

/-- A track as predicted for B_(k+1) (R181): a MOVING one at constant velocity and heading rate, the ninth value of its estimate.
[Log DEDUCED: 100] -/
def State.trackPred (s : State) (t : Nat) : Rat × Rat × Rat :=
  let p := s.trackPose t
  match tfind s.man.tracks t with
  | some c =>
    if c.kind = 2 then
      let v := tget s.est.trackVals t []
      (p.1 + v.getD 2 0 / 20, p.2.1 + v.getD 3 0 / 20, deg360 (p.2.2 + v.getD 8 0 / 20))
    else p
  | none => p

/-- A vector of the earth frame in a track's frame. [Log DEDUCED: 100] -/
def inFrame (h n e : Rat) : Rat × Rat := (cosd h * n + sind h * e, cosd h * e - sind h * n)

/-- The setpoint in the frame that the shaper works in: earth, or the track's (R181). -/
def spPoint (v : SpVal) : Rat × Rat := (mm v.a, mm v.b)

/-- The reference in the earth frame, at B_(k+1): position and heading (R181, R183). [Log DEDUCED: 100] -/
def State.helmRef (s : State) : Rat × Rat × Rat :=
  let p := s.shaperPos
  if s.law = 2 then
    let t := s.trackPred (match s.helm.sp with | some v => v.track | none => 0)
    (t.1 + cosd t.2.2 * p.1 - sind t.2.2 * p.2, t.2.1 + sind t.2.2 * p.1 + cosd t.2.2 * p.2, deg360 (t.2.2 + s.helm.yaw.x))
  else (p.1, p.2, deg360 s.helm.yaw.x)

/-- One step of 50 ms of the shaper on one axis (R186): the jerk that the time-optimal profile gives is open, and kept within
its limit; acceleration and rate stay within theirs, and the reference moves by their integral. `path` is what else the profile
goes by. [Log DESIGN CHOICE: 91] -/
def shapeStep (place : Nat) (x : Shape) (goal vMax aMax jMax : Rat) (path : List Rat := []) : Shape :=
  if x.x = goal && x.v = 0 && x.a = 0 then x
  else
    let j := clampTo (-jMax) jMax (Config.value place ([x.x, x.v, x.a, goal, vMax, aMax, jMax] ++ path))
    let a := clampTo (-aMax) aMax (x.a + j / 20)
    let v := clampTo (-vMax) vMax (x.v + (x.a + a) / 40)
    { x := x.x + (x.v + v) / 40, v := v, a := a }

/-- A new target of the horizontal reference (R187): ahead within 1° the profile goes on; in any other direction, while it
moves, it brakes to rest first. -/
def State.aim (s : State) (goal : Rat × Rat) : State :=
  let p := s.shaperPos
  let dn := goal.1 - p.1
  let de := goal.2 - p.2
  let d := norm2 dn de
  let dot := dn * s.helm.dir.1 + de * s.helm.dir.2
  let sgn : Rat := if s.helm.path.v < 0 then -1 else 1
  let moving := s.helm.path.v ≠ 0 || s.helm.path.a ≠ 0
  let ahead := decide (0 < dot * sgn) && decide (cosd 1 * cosd 1 * (dn * dn + de * de) ≤ dot * dot)
  if d = 0 && !moving then { s with helm := { s.helm with org := p, path := {}, len := 0, braking := false } }
  else if !moving || ahead then
    let q : Shape := { x := 0, v := s.helm.path.v * sgn, a := s.helm.path.a * sgn }
    { s with helm := { s.helm with org := p, path := q, dir := (dn / d, de / d), len := d, braking := false } }
  else { s with helm := { s.helm with braking := true } }

/-- The shaper's horizontal goal (R171, R181): the setpoint, where there is one. [Log DESIGN CHOICE: 91] -/
def State.shaperGoal (s : State) : Rat × Rat := match s.helm.sp with | some v => spPoint v | none => s.shaperPos

/-- The heading goal: the setpoint, or under TRACK the leg course plus the offset (R183). -/
def State.hdgGoal (s : State) : Rat :=
  match s.helm.sp with
  | none => s.helm.yaw.x
  | some v =>
    let h := (v.hdg : Rat) / 1000
    if s.law = 3 && !v.hdgFixed then deg360 (routeCourse s.helm.route s.helm.path.x + h) else h

/-- The heading goal reached the shorter way round, and clockwise at exactly 180° (R186). -/
def nearTurn (x goal : Rat) : Rat := let d := deg360 (goal - x); if d ≤ 180 then x + d else x + d - 360

/-- The shaper advances by one helm cycle (R186, R187). [Log DESIGN CHOICE: 91] -/
def State.shape (s : State) : State :=
  let m := s.man.helm
  let h := s.helm
  let along := [m.vTurn, m.turnAngle] ++ h.route.flatMap fun p => [mm p.1, mm p.2]
  let yaw := shapeStep 0x7186 h.yaw (nearTurn h.yaw.x s.hdgGoal) m.rMax m.yaMax m.yjMax
  let s : State :=
    if s.law = 3 then
      let sp := match h.sp with | some v => (v.speed : Rat) / 1000 | none => 0
      { s with helm := { h with yaw := yaw, path := shapeStep 0x7183 h.path (routeLen h.route) (min m.vMax sp) m.aMax m.jMax along } }
    else if h.braking then
      let p := shapeStep 0x7187 h.path (Config.value 0x7188 [h.path.x, h.path.v, h.path.a]) m.vMax m.aMax m.jMax
      let s : State := { s with helm := { h with yaw := yaw, path := p, braking := !(p.v = 0 && p.a = 0) } }
      if p.v = 0 && p.a = 0 then s.aim s.shaperGoal else s
    else { s with helm := { h with yaw := yaw, path := shapeStep 0x7186 h.path h.len m.vMax m.aMax m.jMax } }
  let g := s.shaperGoal
  let p := s.shaperPos
  let at_ := (if s.law = 3 then decide (s.helm.path.x = routeLen s.helm.route) else p.1 = g.1 && p.2 = g.2) && s.helm.path.v = 0
  let turned := deg360 (s.helm.yaw.x - s.hdgGoal) = 0
  let rest := s.law = 5 || (turned && (s.law = 4 || at_))
  (s.setB R.HELM_STAT_SHAPING (!rest)).setB R.HELM_STAT_REVERSING (s.helm.braking && s.law ≤ 3)

/-- The reference restarts at the present estimated state, at B_(k+1), with acceleration 0 (R185, R188): in the earth frame, or
under TARGET in the frame of the track (R181). [Log DEDUCED: 100] -/
def State.refRestart (s : State) (track : Option Nat) : State :=
  let p0 := s.est.outPos.getD (0, 0)
  let v0 := s.earthVel
  let t : Rat × Rat × Rat := match track with | some t => s.trackPred t | none => (0, 0, 0)
  let tv : List Rat := match track with | some t => (tget s.est.trackVals t [0, 0, 0, 0]) | none => []
  let p : Rat × Rat := match track with
    | some _ => inFrame t.2.2 (p0.1 + v0.1 / 20 - t.1) (p0.2 + v0.2 / 20 - t.2.1) | none => (p0.1 + v0.1 / 20, p0.2 + v0.2 / 20)
  let v : Rat × Rat := match track with | some _ => inFrame t.2.2 (v0.1 - tv.getD 2 0) (v0.2 - tv.getD 3 0) | none => v0
  let r := s.est.nu.getD 2 0 - tv.getD 8 0
  let sp := norm2 v.1 v.2
  let d := if v.1 = 0 && v.2 = 0 then ((1 : Rat), (0 : Rat)) else (v.1 / sp, v.2 / sp)
  let q : Shape := { v := if v.1 = 0 && v.2 = 0 then 0 else sp }
  let w : Shape := { x := deg360 (s.est.outHdg.getD 0 + s.est.nu.getD 2 0 / 20 - t.2.2), v := r }
  { s with helm := { s.helm with org := p, dir := d, path := q, len := 0, braking := false, yaw := w } }

/-- Where along the route the reference starts: the nearest point of the first leg to where it is (R183). [Log DEDUCED: 89] -/
def routeStart (p : Rat × Rat) : List (Int × Int) → Rat
  | a :: b :: _ =>
    let dn := mm (b.1 - a.1)
    let de := mm (b.2 - a.2)
    let l := norm2 dn de
    if dn = 0 && de = 0 then 0 else max 0 (min l (((p.1 - mm a.1) * dn + (p.2 - mm a.2) * de) / l))
  | _ => 0

/-- A route becomes the path, from the nearest point of its first leg on. [Log DEDUCED: 89] -/
def State.onRoute (s : State) (p : Rat × Rat) (v : SpVal) : State :=
  { s with helm := { s.helm with route := v.route, trackSp := some v, path := { s.helm.path with x := routeStart p v.route } } }

/-- The stopping point as a POSITION setpoint (R171). -/
def State.stoppingPoint (s : State) : SpVal :=
  let m := s.man.helm
  let p := s.helm.org
  let dv := stopDist s.helm.path.v m.aMax m.jMax
  let dr := stopDist s.helm.yaw.v m.yaMax m.yjMax
  let h := if 0 ≤ s.helm.yaw.v then s.helm.yaw.x + dr else s.helm.yaw.x - dr
  { kind := 1, a := shownAt 0x700C ((p.1 + s.helm.dir.1 * dv) * 1000), b := shownAt 0x7010 ((p.2 + s.helm.dir.2 * dv) * 1000),
    hdg := mdeg360 (shownAt 0x7014 (h * 1000)) }

/-! ### Laws and blends (R171, R182, R188) -/

/-- A new blend from the present output (R188). -/
def State.startBlend (s : State) (toReady : Bool) : State :=
  let old := if s.law = 0 && s.helm.blend.isNone then s.measuredTau else s.helm.tauOut
  let s : State := { s with helm := { s.helm with blend := some { old := old, toReady := toReady } } }
  ((s.set R.MODE_STAT_BLEND 1).set R.HELM_STAT_BLEND 1).set R.HELM_BLEND_LENGTHENED 0

/-- Leaving TARGET ends TARGET-COAST and TARGET-FAST (R182). -/
def State.targetEnd (s : State) : State :=
  match s.helm.sp with
  | none => s
  | some v =>
    if s.law ≠ 2 then s
    else
      let items := [(1, v.track), (1, s.trackState v.track), measItem 0x0808 0]
      let s := if s.flag R.HELM_STAT_TGT_COAST then (s.clearAlarm 0x0808 (64 + v.track) items 2).set R.HELM_STAT_TGT_COAST 0 else s
      let s := if s.helm.fast then s.clearAlarm 0x0808 (128 + v.track) items 2 else s
      { s with helm := { s.helm with fast := false } }

/-- The law changes (R170, R188, 0x0801): causes 1 command, 2 mode entry, 3 TARGET-LOST. [Log DEDUCED: 89, 98; DESIGN CHOICE: 96] -/
def State.setLaw (s : State) (new cause : Nat) (role : Role := .device) (keyId : Nat := 0) : State :=
  let old := s.law
  let s := (s.targetEnd).startBlend (new = 0)
  let s := (s.set R.HELM_STAT_LAW new).set R.HELM_STAT_HELD (heldAxes new)
  let s := s.setB R.HELM_STAT_RUNNING (new ≠ 0)
  let s := s.refRestart (if new = 2 then some (s.get R.HELM_SP_AUX_TRACK) else none)
  let s : State := { s with helm := { s.helm with sp := if new = 0 then none else some s.stoppingPoint, lost := false } }
  let s : State := match (if new = 3 then s.helm.trackSp else none) with
    | some v => ({ s with helm := { s.helm with sp := some v } } : State).onRoute s.helm.org v
    | none => s
  let s := if new = 1 || new = 2 then s.aim s.shaperGoal else s
  (s.evt R.HELM_EVT_LAW_CHANGED).record { code := 0x0801, role := role, keyId := keyId, items := [(1, old), (1, new), caseItem 0x0801 cause] }

/-- The helm on a change of mode at a helm-cycle boundary (R171, R188). [Log DEDUCED: 95] -/
def State.helmModeEnter (s : State) (new : Nat) : State :=
  let s : State := { s with helm := { s.helm with lastValid := none } }
  if new = 3 then s.setLaw 1 2
  else if new = 4 then s.setLaw s.man.helm.passEntry 2
  else if new = 2 then s.setLaw 0 2
  else s

/-- The guards of a law at its boundary (R172). [Log DEDUCED: 87, 88] -/
def State.lawGuard (s : State) (law : Nat) : Bool :=
  let pos := s.flag R.MODE_GUARD_POS_OK
  let hdg := s.flag R.MODE_GUARD_HDG_OK
  match law with
  | 1 => pos && hdg
  | 2 => pos && hdg && s.trackState (s.get R.HELM_SP_AUX_TRACK) = 2 &&
         (match s.helm.spPend with | some (_, v) => v.kind = 2 && v.track = s.get R.HELM_SP_AUX_TRACK | none => false)
  | 3 => pos && hdg && (match s.helm.spPend with
      | some (_, v) => v.kind = 3
      | none => decide (2 ≤ s.helm.route.length) && decide (s.helm.route.length ≤ 64))
  | 4 => hdg
  | _ => true

/-- A waiting law command is about to take effect. -/
def State.lawTakes (s : State) : Bool := match s.helm.lawPend with | some c => s.mode = lawMode c.target && s.lawGuard c.target | none => false

/-- A waiting law command takes effect (R172). [Log DEDUCED: 88, 98] -/
def State.lawDue (s : State) : State :=
  match s.helm.lawPend with
  | none => s
  | some c =>
    let s : State := { s with helm := { s.helm with lawPend := none } }
    if s.mode ≠ lawMode c.target then s.helmResult 4 c
    else if !s.lawGuard c.target then s.helmResult 3 c
    else (s.setLaw c.target 1 c.role c.keyId).helmResult 2 c

/-- A waiting setpoint takes effect, after the law (R172, R173, R183, R187); `fresh` says that the law's reference has just
restarted. -/
def State.spDue (s : State) (fresh : Bool) : State :=
  match s.helm.spPend with
  | none => s
  | some (c, v) =>
    let s : State := { s with helm := { s.helm with spPend := none } }
    if s.law ≠ v.kind then s.helmResult 4 c
    else
      let p := if fresh then s.helm.org else s.shaperPos
      let s : State := { s with helm := { s.helm with sp := some v } }
      let s := if v.kind = 3 then s.onRoute p v else s.aim (spPoint v)
      s.helmResult 2 c

/-- A lost target changes the law to POSITION (R182). -/
def State.targetLostDue (s : State) : State := if s.helm.lost && s.law = 2 then s.setLaw 1 3 else s

/-- The scenario count of the cycle (R177, 0x080A). -/
def State.setScenarios (s : State) : State :=
  let old := s.get R.HELM_STAT_SC_ACTIVE
  let n := if s.mode = 3 || s.mode = 4 then min s.man.helm.scN s.helm.level else 0
  let s := s.set R.HELM_STAT_SC_ACTIVE n
  if old = n then s else s.record { code := 0x080A, items := [(1, old), (1, n)] }

/-- The helm at a helm-cycle boundary, after mode commands (R172, R180, R188). -/
def State.helmBoundary (s : State) : State :=
  let s := s.targetLostDue
  let s := (s.lawDue).spDue s.lawTakes
  let bl := s.helm.blend.map fun b => { b with n := b.n + 1 }
  let run := s.mode = 3 || s.mode = 4 || s.blendToReady
  { s with helm := { s.helm with blend := bl, buildDue := run, solving := none } }

/-- A helm cycle begins: its boundary. [Log DEDUCED: 186] -/
def State.helmCycle (s : State) : State :=
  { s with helm := { s.helm with bk := s.now, bkPm := s.pm, bkNs := s.ns, bkTick := s.tick, cycle := s.helm.cycle + 1 } }

/-! ### Force (R178, R184, R188 to R190) -/

/-- An axis is manual under the law in force (R170). -/
def State.manualAxis (s : State) (a : Nat) : Bool := !(heldAxes s.law).testBit a

/-- The manual demand of an axis (R184): the stick within ±1 times JOY_FULL times the available force, limited in rate; an
unusable stick demands 0. [Log DESIGN CHOICE: 96; DEDUCED: 101] -/
def State.joyAxis (s : State) (a : Nat) : State :=
  let i := s.man.helm.joy[a]?
  let r := s.ptOpt i
  let ok := qUsable r.2
  let lost := s.helm.joyLost.getD a false
  let goal := if ok && s.manualAxis a then clampTo (-1) 1 r.1 * ax s.man.helm.joyFull a / 100 * ax s.alloc.cap a else 0
  let old := ax s.helm.manual a
  let st := ax s.man.helm.df a / 20
  let new := clampTo (old - st) (old + st) goal
  let nowLost := s.manualAxis a && !ok && s.law ≠ 0
  let s : State := { s with helm := { s.helm with manual := s.helm.manual.set a new, joyLost := s.helm.joyLost.set a nowLost } }
  if nowLost && !lost then (s.evt R.HELM_EVT_JOY_LOST).alarm 0x0809 a [caseItem 0x0809 a, (1, r.2.code)]
  else if lost && !nowLost then s.clearAlarm 0x0809 a [caseItem 0x0809 a, (1, r.2.code)]
  else s

/-- An axis's force held to the rate from the force being released, and then to the available force (R178). [Log DEDUCED: 92] -/
def clipAxis (m : HelmCfg) (cap prev : List Rat) (f : Rat) (a : Nat) : Rat :=
  let d := ax m.df a / 2
  clampTo (-(ax cap a)) (ax cap a) (clampTo (ax prev a - d) (ax prev a + d) f)

/-- The new law's force of the cycle: manual demand on the manual axes, the clipped first stage on the others. [Log DEDUCED: 92] -/
def State.newForce (s : State) (tau : List Rat) : List Rat :=
  [0, 1, 2].map fun a => if s.manualAxis a then ax s.helm.manual a else clipAxis s.man.helm s.alloc.cap s.helm.tauOut (ax tau a) a

/-- The disagreement in percent (R189); without available force it is open. [Log DESIGN CHOICE: 93] -/
def disagreement (new old cap : List Rat) : Rat :=
  [0, 1, 2].foldl (fun m a =>
    let d := absR (ax new a - ax old a)
    max m (if d = 0 then 0 else if ax cap a = 0 then Config.value 0x702C [d] else 100 * d / ax cap a)) 0

/-- The length of a blend in whole helm cycles (R189). -/
def blendLen (m : HelmCfg) (d : Rat) (toReady : Bool) : Nat :=
  let t := if toReady || d ≤ m.blendDis then m.blendT else min 30 (m.blendT * d / m.blendDis)
  (t * 20).ceil.toNat

/-- The blend at its first cycle: D, T and whether it is lengthened (R189, 0x0804). [Log DESIGN CHOICE: 97] -/
def State.blendFirst (s : State) (b : Blend) (new : List Rat) : State :=
  let d := disagreement new b.old s.alloc.cap
  let n := max 1 (blendLen s.man.helm d b.toReady)
  let long := !b.toReady && decide (s.man.helm.blendDis < d)
  let s : State := { s with helm := { s.helm with blend := some { b with len := n } } }
  let s := (s.setU R.HELM_BLEND_DISAGREE d).setB R.HELM_BLEND_LENGTHENED long
  if long then (s.evt R.HELM_EVT_BLEND_LONG).record
    { code := 0x0804, items := [(1, s.get R.HELM_BLEND_DISAGREE), measItem 0x0804 ((n : Rat) / 20)], key := 0 }
  else s

/-- The blend weight of a cycle (R188). -/
def blendWeight (b : Blend) : Rat := if b.len = 0 then 1 else min 1 ((b.n : Rat) / b.len)

/-- The blended force (R188). -/
def blended (b : Blend) (new : List Rat) : List Rat :=
  [0, 1, 2].map fun a => blendWeight b * ax new a + (1 - blendWeight b) * ax b.old a

/-- The quality of every helm point (R192). -/
def State.helmQuality (s : State) : Quality :=
  if s.flag R.HELM_STAT_REUSED || s.flag R.HELM_STAT_POS_TERMS_OFF || s.flag R.HELM_STAT_HDG_TERMS_OFF ||
     s.get R.EST_STAT_POS_QUAL = 1 then .uncertain else .good

/-- The setpoint in force in the earth frame (R192). -/
def State.spEarth (s : State) : List Rat :=
  match s.helm.sp with
  | none => [0, 0, 0]
  | some v =>
    let h := (v.hdg : Rat) / 1000
    match v.kind with
    | 2 =>
      let t := s.trackPose v.track
      [t.1 + cosd t.2.2 * mm v.a - sind t.2.2 * mm v.b, t.2.1 + sind t.2.2 * mm v.a + cosd t.2.2 * mm v.b, deg360 (t.2.2 + h)]
    | 3 => let p := routeAt v.route (routeLen v.route); [p.1, p.2, s.hdgGoal]
    | _ => [mm v.a, mm v.b, h]

/-- The helm points of a cycle (R192). -/
def State.helmPoints (s : State) : State :=
  let r := s.helmRef
  let p := s.est.outPos.getD (0, 0)
  let en := r.1 - p.1
  let ee := r.2.1 - p.2
  let err := [en * cosd r.2.2 + ee * sind r.2.2, ee * cosd r.2.2 - en * sind r.2.2,
              (let d := deg360 (r.2.2 - s.est.outHdg.getD 0); if d ≤ 180 then d else d - 360)]
  let w := match s.helm.blend with | some b => blendWeight b | none => 1
  let sp := s.spEarth
  let t := s.helm.tauOut
  let q := s.helmQuality
  if s.blendToReady then s.commitAll 0x0D000000 [q32 (ax t 0), q32 (ax t 1), q32 (ax t 2)] s.helm.bkPm q
  else s.commitAll 0x0D000000
    [q32 (ax t 0), q32 (ax t 1), q32 (ax t 2), q32 r.1, q32 r.2.1, q32 r.2.2, q32 (ax sp 0), q32 (ax sp 1), q32 (ax sp 2),
     q32 (ax err 0), q32 (ax err 1), q32 (ax err 2), s.law, q32 w, s.get R.HELM_STAT_SC_ACTIVE,
     s.get R.HELM_RES_RES * 65536, s.helm.cycle] s.helm.bkPm q

/-- The force of the cycle is blended and written, and allocation starts on it (R188, R192). -/
def State.helmOutput (s : State) (new : List Rat) : State :=
  let s := match s.helm.blend with | some b => if b.len = 0 then s.blendFirst b new else s | none => s
  let out := match s.helm.blend with | some b => blended b new | none => new
  let s : State := { s with helm := { s.helm with tauOut := out, tauNew := new } }
  let s := ((s.setQ R.HELM_TAU_X_CKN (ax out 0 * 100)).setQ R.HELM_TAU_Y_CKN (ax out 1 * 100)).setQ R.HELM_TAU_N_DKNM (ax out 2 * 10)
  let s := match s.helm.blend with
    | some b => s.setU R.HELM_BLEND_LEFT_DS (((b.len - b.n : Nat) : Rat) / 2)
    | none => s.set R.HELM_BLEND_LEFT_DS 0
  s.helmPoints.allocSubmit out

/-- Position or heading terms drop and return (R185, 0x0807): axis 0 position, 1 heading. [Log DESIGN CHOICE: 96] -/
def State.terms (s : State) (f : Fld) (axis q : Nat) : State :=
  let off := q = 4
  let was := s.flag f
  let s := s.setB f off
  if off && !was then (s.evt R.HELM_EVT_TERMS_OFF).alarm 0x0807 axis [caseItem 0x0807 axis, (1, q)]
  else if was && !off then
    { s.clearAlarm 0x0807 axis [caseItem 0x0807 axis, (1, q)] with helm := { s.helm with restart := true } }
  else s

/-- The terms of the cycle, and the restart of the reference when they return (R185). -/
def State.helmTerms (s : State) : State :=
  let s := (s.terms R.HELM_STAT_POS_TERMS_OFF 0 (s.get R.EST_STAT_POS_QUAL)).terms R.HELM_STAT_HDG_TERMS_OFF 1
    (s.get R.EST_STAT_HDG_QUAL)
  if s.helm.restart then
    let s : State := { s with helm := { s.helm with restart := false } }
    if s.law = 3 then (let s := s.refRestart none; match s.helm.trackSp with | some v => s.onRoute s.helm.org v | none => s)
    else
      let s := s.refRestart (if s.law = 2 then s.helm.sp.map (·.track) else none)
      s.aim s.shaperGoal
  else s

/-- TARGET's track (R182, 0x0808): SOURCE is the track plus 64 for COAST, 128 for FAST and 192 for LOST.
[Log DEDUCED: 74; DESIGN CHOICE: 97] -/
def State.targetWatch (s : State) : State :=
  match s.helm.sp with
  | none => s
  | some v =>
    if s.law ≠ 2 then s
    else
      let t := v.track
      let st := s.trackState t
      let vals := tget s.est.trackVals t []
      let sp2 := vals.getD 2 0 * vals.getD 2 0 + vals.getD 3 0 * vals.getD 3 0
      let items := [(1, t), (1, st), measItem 0x0808 (Config.sqrt sp2)]
      let coast := decide (st = 3)
      let was := s.flag R.HELM_STAT_TGT_COAST
      let s := s.setB R.HELM_STAT_TGT_COAST coast
      let s := if coast && !was then (s.evt R.HELM_EVT_TARGET).alarm 0x0808 (64 + t) items 2
        else if was && !coast then s.clearAlarm 0x0808 (64 + t) items 2 else s
      let fast := decide (s.man.helm.tgtVMax * s.man.helm.tgtVMax < sp2)
      let wasF := s.helm.fast
      let s : State := { s with helm := { s.helm with fast := fast } }
      let s := if fast && !wasF then (s.evt R.HELM_EVT_TARGET).alarm 0x0808 (128 + t) items 2
        else if wasF && !fast then s.clearAlarm 0x0808 (128 + t) items 2 else s
      if st = 4 && !s.helm.lost then
        { (s.evt R.HELM_EVT_TARGET).alarm 0x0808 (192 + t) items 2 with helm := { s.helm with lost := true } }
      else s

/-- The helm batch (R179, R180): one item per scenario, coupled, 16 iterations of 120 stages. [Log DESIGN CHOICE: 94] -/
def State.helmSubmit (s : State) : State :=
  let b : Batch := { kind := 1, cls := 1, items := s.get R.HELM_STAT_SC_ACTIVE, iter := 16, mask := 15, coupled := true, ops := [7, 9],
                     deadline := (s.helm.bkNs + s.man.helm.solveDl * 1000000) % 2 ^ 32, seq := 0,
                     solo := 120 * ric9Cycles, pair := 120 * ric9Cycles, at_ := 0 }
  let s := s.yuzSubmit b
  { s with helm := { s.helm with solving := some s.yuz.seq } }

/-- The helm builds (R180): at the frame-0 commit, or where that update is abandoned, at B_k + 9 ms. [Log DESIGN CHOICE: 94] -/
def State.helmBuild (s : State) : State :=
  if !s.helm.buildDue then s
  else
    let s : State := { s with helm := { s.helm with buildDue := false } }
    if s.blendToReady then s.helmOutput [0, 0, 0]
    else if s.mode = 3 || s.mode = 4 then ((s.helmTerms.targetWatch).shape).helmSubmit
    else s

/-- A missed cycle (R190, 0x0805). -/
def State.helmMissed (s : State) : State :=
  let s := ((s.set R.HELM_STAT_REUSED 1).set R.HELM_MISS_RUN (min 3 (s.get R.HELM_MISS_RUN + 1))).inc R.HELM_MISS_TOTAL
  (s.noteMiss.evt R.HELM_EVT_MISS).record
    { code := 0x0805, key := 0, items := [(1, s.get R.HELM_MISS_RUN), (2, s.get R.HELM_SOLVE_LAST_US),
                                          (1, s.get R.YUZ_LAST_STAT_ITER_REACHED 1)] }

/-- The residual and numeric flags of a valid solve (R179, 0x0806). [Log DESIGN CHOICE: 94, 97] -/
def State.helmNumeric (s : State) : State :=
  let res := s.get R.YUZ_LAST_RES_RES 1
  let high := decide (s.man.helm.resWarn * 65536 < res)
  let sat := s.get R.YUZ_LAST_STAT_SAT 1
  let cl := s.get R.YUZ_LAST_STAT_CLAMPED 1
  let s := ((s.set R.HELM_RES_RES res).setB R.HELM_STAT_RES_HIGH high).set R.HELM_STAT_SAT sat
  let s := s.set R.HELM_STAT_PIVOT_CLAMPED cl
  if high || sat = 1 || cl = 1 then
    (s.evt R.HELM_EVT_NUMERIC).record
      { code := 0x0806, items := [(1, (if high then 1 else 0) + 2 * sat + 4 * cl), (4, res)], key := 1 }
  else s

/-- HELM_SOLVE_DONE (R179, R180, R190): the solve of the cycle has ended, whole or at its deadline; `tau` is the first-stage
force of iteration 16. [Log DESIGN CHOICE: 10, 94] -/
def execHelmSolveDone (dt : Nat) (tau : List Rat) (s : State) : Out :=
  let s := s.advance dt
  match s.helm.solving with
  | none => .next s
  | some q =>
    if s.get R.YUZ_LAST_SEQ_SEQ 1 ≠ q then .next s
    else
      let s : State := { s with helm := { s.helm with solving := none } }
      let s := s.set R.HELM_SOLVE_LAST_US (s.get R.YUZ_LAST_TIME_TOTAL_US 1)
      let s := s.set R.HELM_SOLVE_MAX_US (max (s.get R.HELM_SOLVE_MAX_US) (s.get R.HELM_SOLVE_LAST_US))
      let s := ((s.joyAxis 0).joyAxis 1).joyAxis 2
      if s.get R.YUZ_LAST_STAT_MISS 1 = 1 then
        let s := s.helmMissed
        let old := match s.helm.blend with | some b => b.old | none => s.helm.tauOut
        .next (s.helmOutput (s.newForce (s.helm.lastValid.getD old)))
      else
        let s := ((s.set R.HELM_STAT_REUSED 0).set R.HELM_MISS_RUN 0).helmNumeric
        let new := s.newForce tau
        let s : State := { s with helm := { s.helm with lastValid := some new } }
        .next (s.helmOutput new)

/-- HELM_MISS_LIMIT (R191): three consecutive missed cycles are a device fault. -/
def execHelmMissLimit (dt : Nat) (s : State) : Out :=
  let s := s.advance dt
  if 3 ≤ s.get R.HELM_MISS_RUN then .next (s.deviceFault 7 0xFFFF) else .next s

/-- BLEND_END (R188): the weight has reached 1. -/
def execBlendEnd (dt : Nat) (s : State) : Out :=
  let s := s.advance dt
  match s.helm.blend with
  | some b =>
    if 0 < b.len && b.len ≤ b.n then
      let s : State := { s with helm := { s.helm with blend := none } }
      .next (((s.set R.MODE_STAT_BLEND 0).set R.HELM_STAT_BLEND 0).set R.HELM_BLEND_LEFT_DS 0)
    else .next s
  | none => .next s

/-- EST_COMMIT (R142, R180): the update in progress commits all its outputs together; the helm builds on a frame-0 commit.
[Log DESIGN CHOICE: 10, 81; DEDUCED: 86] -/
def execEstCommit (dt : Nat) (u : EstUpd) (s : State) : Out :=
  let s := s.advance dt
  match s.est.running with
  | some (upAt, b) =>
    if upAt + 9000000 < s.now then .next s.estAbandon.helmBuild else .next (s.estUpdate u upAt b s.est.boundary).helmBuild
  | none => .next s

/-- EST_UPDATE_ABANDON (R143, R180): 9 ms after its boundary an update is abandoned, and the helm builds without it.
[Log DEDUCED: 80, 86] -/
def execEstUpdateAbandon (dt : Nat) (s : State) : Out :=
  let s := s.advance dt
  match s.est.running with
  | some (upAt, _) => if s.now < upAt + 9000000 then .next s else .next s.estAbandon.helmBuild
  | none => .next s

end Sys2Proof.Machine
end

