-- ==== Sys2Proof/Machine/Power.lean ====
section
/-!
DEFINITION. Lull depths and LULL3 (R374 to R379), DORMANT wakes (R380, R381), temperature sensors, thermal limits and shut-down
(R382 to R386), and the Forecaster (R387 to R392).
-/

namespace Sys2Proof.Machine

open Sys2Proof

/-! ### Lull depths -/

/-- The conditions of LULL3 that fail, as PWR_STAT.LULL3_BLOCK (R377, R393). [Log DEDUCED: 196] -/
def State.lullBlock (s : State) : Nat :=
  let bit := fun (n : Nat) (b : Bool) => if b then 2 ^ n else 0
  let pass := s.thrNums.any fun i => s.flag R.ALLOC_THR_STAT_PT_ACTIVE i
  let gnss := s.get R.GNSS_STAT_STATE
  let busy := s.man.loop.cells.any (fun x => (s.cell x.1).test.isSome) ||
    (List.range 8).any (fun u => s.get R.LOOP_CAP_STAT_STATE u = 1 || s.get R.LOOP_CAP_STAT_STATE u = 2) ||
    (List.range 8).any (fun n => 2 ≤ s.get R.STEP_CH_STAT_STATE n && s.get R.STEP_CH_STAT_STATE n ≤ 4) || s.step.cmds ≠ []
  bit 0 (s.mode ≠ 2 || s.get R.PWR_LAT_TOL_US < 6000) + bit 1 (!s.man.power.lull3) + bit 2 (!s.fnsIdle) +
  bit 3 (!s.thrZero || pass || s.helm.blend.isSome) + bit 4 (gnss ≠ 0 && gnss ≠ 4) +
  bit 5 (s.mnf.waiting ≠ [] || s.mnf.install.isSome || (!s.nvmOpen && s.log.unflushed ≠ [])) + bit 6 busy

/-- Every frame the conditions are looked at, and the time for which all of them have held. [Log DEDUCED: 196] -/
def State.lullFrame (s : State) : State :=
  let b := s.lullBlock
  let ok := if b ≠ 0 then none else (match s.pwr.okSince with | some t => some t | none => some s.now)
  { s with pwr := { s.pwr with okSince := ok } }.set R.PWR_STAT_LULL3_BLOCK b

/-- LULL3 is entered (R377): quads, YUZ and DRAM stop. -/
def State.lullEnter (s : State) (follower : Bool) : State :=
  let s := (s.inc R.PWR_LULL3_ENTRIES).evt R.PWR_EVT_LULL3_IN
  let s := s.record { code := 0x1202, items := [(1, 0), (2, 0)], key := 1 }
  let s : State := { s with pwr := { s.pwr with l3 := 1, follower := follower, since := s.now, gaps := [], forwarded := none } }
  (((s.set R.PWR_STAT_DEPTH 3).set R.PWR_STAT_QUAD_GATED 15).set R.PWR_STAT_YUZ_GATED 1).set R.PWR_STAT_DRAM_SR 1

/-- LULL3_ENTRY (R377, R379): at a helm-cycle boundary, every condition having held for 1 s; the active alone decides. -/
def execLull3Entry (dt : Nat) (s : State) : Out :=
  let s := s.advance dt
  match s.pwr.okSince with
  | some t =>
    if s.pwr.l3 = 0 && s.lullBlock = 0 && t + 1000000000 ≤ s.now && s.isActive && s.tick % 5000 = 0 then
      .next (s.lullEnter false)
    else .next s
  | none => .next s

/-- LULL3_WAKE_DONE (R378): the device is awake; suspended work resumes at the next helm-cycle boundary. -/
def execLull3WakeDone (dt : Nat) (s : State) : Out :=
  let s := s.advance dt
  if s.pwr.l3 ≠ 2 then .next s
  else
    let s : State := { s with pwr := { s.pwr with l3 := 3 } }
    let s := ((s.set R.PWR_STAT_WAKING 0).set R.PWR_STAT_DEPTH 0).set R.PWR_STAT_QUAD_GATED 0
    .next ((s.set R.PWR_STAT_YUZ_GATED 0).set R.PWR_STAT_DRAM_SR 0).dramReturn

/-- Suspended work resumes at a helm-cycle boundary: the estimator warms up for 30 frames (R378). -/
def State.lullResume (s : State) : State :=
  if s.pwr.l3 = 3 && s.tick % 5000 = 0 then
    { s with pwr := { s.pwr with l3 := 0, follower := false, okSince := none, warmEnd := some (s.tick + 30000) } }
  else s

/-- The estimator warms up after LULL3: MODE_GUARD.POS_OK and HDG_OK read 0 (R378). -/
def State.lullWarming (s : State) : Bool :=
  s.pwr.l3 ≠ 0 || (match s.pwr.warmEnd with | some t => decide (s.tick < t) | none => false)

/-- PWR_LAT_TOL_WRITE (R374, R378, 0x1201). -/
def execPwrLatTolWrite (dt : Nat) (port : Port) (us : Nat) (s : State) : Out :=
  let s := s.advance dt
  let us := us % 16777216
  let s := if us < 6000 && s.session port = some .operator then s.lullLeave 3 else s
  .next (s.withRole port [.operator] 0x11004 fun s =>
    let old := permittedDepth (s.get R.PWR_LAT_TOL_US)
    let new := permittedDepth us
    let s := (s.set R.PWR_LAT_TOL_US us).set R.PWR_STAT_PERMITTED new
    let s : State := if us < 6000 then { s with pwr := { s.pwr with okSince := none } } else s
    if old = new then s
    else (s.evt R.PWR_EVT_DEPTH).record
      { code := 0x1201, role := .operator, keyId := s.role.keyId,
        items := [(1, old), (1, new), (3, us), (1, Role.operator.code), (2, s.role.keyId)], key := 2 })

/-- A domain's gated bit: 0 to 3 the quads, 4 YUZ. -/
def State.setGated (s : State) (dom : Nat) (b : Bool) : State :=
  if dom < 4 then s.setBitOf R.PWR_STAT_QUAD_GATED dom b else s.setB R.PWR_STAT_YUZ_GATED b

/-- LULL_GAP_ENTRY (R375): an idle domain enters the permitted gap depth where its next scheduled work starts later than the entry
time, the wake time and 20 µs. [Log DEDUCED: 197] -/
def execLullGapEntry (dt dom nextNs : Nat) (s : State) : Out :=
  let s := s.advance dt
  let d := s.depth
  let need := if d = 1 then 31000 else 320000
  if dom < 5 && s.pwr.l3 = 0 && 1 ≤ d && d ≤ 2 && need < nextNs then
    .next (({ s with pwr := { s.pwr with gaps := tput s.pwr.gaps dom d } } : State).setGated dom (d = 2))
  else .next s

/-- LULL_GAP_WAKE (R375): the domain is woken for its next scheduled work. [Log DEDUCED: 197] -/
def execLullGapWake (dt dom : Nat) (s : State) : Out :=
  let s := s.advance dt
  if (tfind s.pwr.gaps dom).isNone then .next s
  else .next (({ s with pwr := { s.pwr with gaps := tdel s.pwr.gaps dom } } : State).setGated dom false)

/-- WAKE_EVENT_FORWARD_RECEIVE (R379): the active leaves LULL3 on a wake event that its standby met. -/
def execWakeEventForwardReceive (dt : Nat) (s : State) : Out := .next ((s.advance dt).lullLeave 14)

/-! ### Waking from DORMANT (R380, R381) -/

/-- The device is in DORMANT, or on its way into it. [Log DEDUCED: 198] -/
def State.dormant (s : State) : Bool :=
  s.mode = 0 && !s.mus.porLow && !s.mus.thermalOff && s.mus.aonAt.isSome && (s.mus.dormantAt.isSome || !s.mus.enIo || s.mus.wake)

/-- A wake source is active (R381): PWR_WAKE_SRC latches every source active at the wake, the rails are enabled and MUSTER follows
with them; during the entry the wake waits for its end (R55). WAKE_N goes low, but not for the host (R439). [Log DEDUCED: 198] -/
def State.wakeBy (s : State) (f : Fld) (v : Nat) (host : Bool) : State :=
  if !s.dormant then s
  else if s.mus.wake || s.mus.wakeLatched then (if s.mus.wakeAt = some s.now then s.set f (s.get f ||| v) else s)
  else
    let s := ((s.set R.PWR_WAKE_SRC_CAN 0).set R.PWR_WAKE_SRC_WAKE_IN 0).set R.PWR_WAKE_SRC_RTC 0
    let s := ((s.set R.PWR_WAKE_SRC_SAFE_IN 0).set R.PWR_WAKE_SRC_HOST 0).set R.PWR_WAKE_SRC_POR 0
    let s := (s.set R.PWR_WAKE_SRC_THERMAL_OFF 0).set f v
    let m := { s.mus with woke := true, wakeAt := some s.now, wakeN := s.mus.wakeN || !host }
    if s.mus.dormantAt.isSome then { s with mus := { m with wakeLatched := true } }
    else { s with mus := { m with wake := true, enIo := true, ioAt := s.now } }

/-- CAN_WAKE_PATTERN (R380, R419): the pattern or level of WAKE_KIND on an armed channel. -/
def execCanWakePattern (dt ch : Nat) (s : State) : Out :=
  let s := s.advance dt
  if ch < 8 && (s.get R.PWR_WAKE_EN_CAN).testBit ch then .next (s.wakeBy R.PWR_WAKE_SRC_CAN (2 ^ ch) false) else .next s

/-- WAKE_IN_WAKE (R378, R380): WAKE_IN at WAKE_POL for 2 samples. [Log DEDUCED: 199] -/
def execWakeInWake (dt : Nat) (level : Bool) (s : State) : Out :=
  let s := s.advance dt
  if level != s.flag R.PWR_WAKE_EN_WAKE_POL then .next s
  else
    let s := s.lullLeave 6
    if s.flag R.PWR_WAKE_EN_WAKE_IN then .next (s.wakeBy R.PWR_WAKE_SRC_WAKE_IN 1 false) else .next s

/-- RTC_ALARM (R378, R380): the RTC seconds reach PWR_RTC_ALARM; 0 disarms. [Log DEDUCED: 199] -/
def execRtcAlarm (dt : Nat) (s : State) : Out :=
  let s := s.advance dt
  let a := s.get R.PWR_RTC_ALARM_SEC
  if a = 0 || !s.time.rtcOk || s.time.rtc / 4294967296000000000 % 4294967296 < a then .next s
  else
    let s := s.lullLeave 7
    if s.flag R.PWR_WAKE_EN_RTC then .next (s.wakeBy R.PWR_WAKE_SRC_RTC 1 false) else .next s

/-- SAFE_INPUT_WAKE (R329, R378, R380): a channel of a safe input changes and holds for 2 samples. [Log DEDUCED: 199] -/
def execSafeInputWake (dt input : Nat) (s : State) : Out :=
  let s := s.advance dt
  if 16 ≤ input then .next s
  else
    let s := s.lullLeave 8
    if s.flag R.PWR_WAKE_EN_SAFE_IN then .next (s.wakeBy R.PWR_WAKE_SRC_SAFE_IN 1 false) else .next s

/-- HOST_WAKE (R380, R439): PERST_N rises, which releases WAKE_N, or the SPI chip select is low at 2 samples. -/
def execHostWake (dt : Nat) (perst : Bool) (s : State) : Out :=
  let s := s.advance dt
  let s : State := if perst then { s with mus := { s.mus with wakeN := false, perst := true } } else s
  if s.flag R.PWR_WAKE_EN_HOST then .next (s.wakeBy R.PWR_WAKE_SRC_HOST 1 true) else .next s

/-! ### Temperature sensors (R382, R383) -/

/-- The neighbours of each sensor (R382). -/
def sensorNb : List (List Nat) :=
  [[1, 2, 8, 12], [0, 3, 9, 12], [0, 3, 10, 13], [1, 2, 11, 13], [5, 6, 8, 14], [4, 7, 9, 14], [4, 7, 10, 13], [5, 6, 11, 21],
   [0, 4, 9, 10], [1, 5, 8, 11], [2, 6, 8, 11], [3, 7, 9, 10], [0, 1, 13, 15], [2, 3, 12, 14], [4, 5, 13, 21], [12, 16, 21],
   [15, 18, 22], [19, 23], [16, 19, 20, 22], [17, 18, 20], [18, 19, 22], [7, 14, 15], [16, 18, 20, 23], [17, 22]]

/-- THRM_SENS_INFO.NB: 5 bits a neighbour, 0x1F in each unused field. -/
def nbWord (l : List Nat) : Nat := ((List.range 4).map fun i => (l[i]?).getD 31 * 32 ^ i).sum

def State.sens (s : State) (n : Nat) : SensSt := tget s.thrm.sens n {}

/-- Out of band, or the same count in 16 windows (R383). -/
def sensBad (x : SensSt) : Bool := !x.band || decide (16 ≤ x.run)

/-- 0 IN-USE, 1 BROKEN-BAND, 2 BROKEN-FROZEN, 3 RECOVERING (R394). -/
def State.sensState (s : State) (n : Nat) : Nat := s.get R.THRM_SENS_INFO_STATE n

def State.sensInUse (s : State) (n : Nat) : Bool := s.sensState n = 0 && !sensBad (s.sens n)

/-- A sensor takes a window's count and trimmed temperature; a broken one counts good windows (R383). [Log DESIGN CHOICE: 193] -/
def State.sensTake (s : State) (n count : Nat) (temp : Int) : State :=
  let x := s.sens n
  let band := decide (-600 ≤ temp) && decide (temp ≤ 1600)
  let x := { x with count := count, temp := temp, band := band,
                    run := if s.thrm.seen && count = x.count then x.run + 1 else 1 }
  let bad := sensBad x
  let broken := s.sensState n ≠ 0
  let x := { x with good := if broken && !bad then x.good + 1 else 0 }
  let s : State := { s with thrm := { s.thrm with sens := tput s.thrm.sens n x } }
  let s := if broken then s.set R.THRM_SENS_INFO_STATE (if !bad then 3 else if band then 2 else 1) n else s
  ((s.set R.THRM_SENS_CNT_COUNT count n).setI R.THRM_SENS_TEMP_DC temp n).set R.THRM_SENS_INFO_NB (nbWord (sensorNb.getD n [])) n

/-- The largest of some values. -/
def maxOf : List Int → Option Int
  | [] => none
  | x :: t => match maxOf t with | some y => some (max x y) | none => some x

/-- A sensor's effective value in 0.1 °C, by SENSOR_POLICY (R383). [Log DEDUCED: 194] -/
def State.sensEff (s : State) (n : Nat) : Int :=
  if s.sensInUse n then (s.sens n).temp
  else if s.man.power.hotPolicy then 1250
  else match maxOf (((sensorNb.getD n []).filter s.sensInUse).map fun j => (s.sens j).temp) with
    | some t => t + 30
    | none => 1250

/-- The hottest sensor and its effective value: the first one that holds the largest. -/
def State.hottest (s : State) : Nat × Int :=
  (List.range 24).foldl (fun (b : Nat × Int) n => if b.2 < s.sensEff n then (n, s.sensEff n) else b) (0, s.sensEff 0)

/-- Sensors broken now, as a mask. -/
def State.brokenMask (s : State) : Nat := ((List.range 24).map fun n => if s.sensState n = 0 then 0 else 2 ^ n).sum
def State.brokenCount (s : State) : Nat := (List.range 24).countP fun n => decide (s.sensState n ≠ 0)

/-- The trigger of more than 4 broken sensors holds or ends (R383, R56). [Log DEDUCED: 20] -/
def State.brokenJudge (s : State) (sensor : Nat) : State :=
  let n := s.brokenCount
  let was := s.flag R.THRM_STAT_BROKEN_OVER
  let s := (s.set R.THRM_STAT_BROKEN n).setB R.THRM_STAT_BROKEN_OVER (4 < n)
  if 4 < n && !was then ((s.record { code := 0x1304, items := [(3, s.brokenMask)] }).faultNote 6 sensor).trigger 6 5 0 else s

/-! ### Thermal limits (R384, R385) -/

/-- THERM_ALERT_N is low while the soft or hard limit holds, and from a shut-down on. -/
def State.setAlert (s : State) : State :=
  s.setB R.THRM_STAT_ALERT (s.flag R.THRM_STAT_AT_SOFT || s.flag R.THRM_STAT_AT_HARD || s.thrm.shut.isSome)

/-- The NVM window (R384): the first window after PLL lock only sets it. [Log DEDUCED: 195] -/
def State.nvmJudge (s : State) (n : Nat) (h : Int) (first : Bool) : State :=
  let was := s.flag R.THRM_STAT_NVM_OPEN
  let waits := s.log.unflushed.length + s.mnf.waiting.length
  let note := fun (s : State) => s.record
    { code := 0x1305, source := n, items := [(1, n), sItem 2 h, (2, min 65535 waits)], key := 1 }
  if first then s.setB R.THRM_STAT_NVM_OPEN (decide (-300 ≤ h) && decide (h ≤ 1050))
  else if was && (h < -300 || 1050 < h) then note ((s.set R.THRM_STAT_NVM_OPEN 0).evt R.THRM_EVT_NVM_CLOSED)
  else if !was && -270 ≤ h && h ≤ 1020 then note ((s.set R.THRM_STAT_NVM_OPEN 1).evt R.THRM_EVT_NVM_OPENED)
  else s

/-- The soft limit. -/
def State.softJudge (s : State) (n : Nat) (h : Int) : State :=
  let lim : Int := 10 * s.man.power.softLimit
  let e : Ev := { code := 0x1302, source := n, items := [(1, n), sItem 2 h], key := 1 }
  if !s.flag R.THRM_STAT_AT_SOFT && lim ≤ h then
    (((s.set R.THRM_STAT_AT_SOFT 1).evt R.THRM_EVT_SOFT).record e).lullLeave 11
  else if s.flag R.THRM_STAT_AT_SOFT && h < lim - 30 then (s.set R.THRM_STAT_AT_SOFT 0).record e
  else s

/-- The hard limit, in 2 consecutive windows. [Log DEDUCED: 20, 205, 207] -/
def State.hardJudge (s : State) (n : Nat) (h : Int) : State :=
  let s : State := { s with thrm := { s.thrm with
    hardRun := if 1250 ≤ h then s.thrm.hardRun + 1 else 0, clearRun := if h < 1200 then s.thrm.clearRun + 1 else 0 } }
  let e : Ev := { code := 0x1303, source := n,
                  items := [(1, n), sItem 2 h, (1, if s.man.power.hotPolicy then 1 else 0)], key := 1 }
  if !s.flag R.THRM_STAT_AT_HARD && 2 ≤ s.thrm.hardRun then
    ((((s.set R.THRM_STAT_AT_HARD 1).evt R.THRM_EVT_HARD).record e).faultNote 5 n).trigger 5 4 0
  else if s.flag R.THRM_STAT_AT_HARD && 2 ≤ s.thrm.clearRun then (s.set R.THRM_STAT_AT_HARD 0).record e
  else s

/-- A shut-down begins at the second window at or above 135 °C: no further flash command starts (R385). [Log DEDUCED: 206] -/
def State.shutJudge (s : State) (n : Nat) (h : Int) : State :=
  let s : State := { s with thrm := { s.thrm with shutRun := if 1350 ≤ h then s.thrm.shutRun + 1 else 0 } }
  if 2 ≤ s.thrm.shutRun && s.thrm.shut.isNone then
    { s with thrm := { s.thrm with shut := some (n, h) }, log := { s.log with isOpen := false } }
  else s

/-- SENSOR_WINDOW (R382 to R384): every 1.024 ms, from PLL lock on, each of the 24 sensors yields a count and a trimmed temperature
in 0.1 °C. [Log DESIGN CHOICE: 10, 193] -/
def execSensorWindow (dt : Nat) (vals : List (Nat × Int)) (s : State) : Out :=
  let s := s.advance dt
  if !s.mus.pllLocked || s.thrm.shut.isSome then .next s
  else
    let first := !s.thrm.seen
    let s := vals.zipIdx.foldl (fun (s : State) v => if v.2 < 24 then s.sensTake v.2 v.1.1 v.1.2 else s) s
    let s : State := { s with thrm := { s.thrm with seen := true } }
    let s := (List.range 24).foldl (fun (s : State) n =>
      (s.setI R.THRM_SENS_EFF_DC (s.sensEff n) n).setB R.THRM_SENS_INFO_SUBST (!s.sensInUse n) n) s
    let hot := s.hottest
    let raw := (maxOf (((List.range 24).filter s.sensInUse).map fun n => (s.sens n).temp)).getD (-32768)
    let s := ((s.set R.THRM_STAT_HOT_SENSOR hot.1).setI R.THRM_HOT_EFF_DC hot.2).setI R.THRM_HOT_RAW_DC raw
    let s := if first || s.geti R.THRM_MAX_MAX_DC < hot.2 then
        (s.setI R.THRM_MAX_MAX_DC hot.2).set R.THRM_MAX_MAX_SENSOR hot.1
      else s
    let s := ((s.nvmJudge hot.1 hot.2 first).softJudge hot.1 hot.2).hardJudge hot.1 hot.2
    .next ((s.brokenJudge 0xFFFF).shutJudge hot.1 hot.2).setAlert

/-- The record 0x1301 of a sensor that broke or returned. [Log DEDUCED: 194, 205] -/
def State.sensNote (s : State) (n cause : Nat) : State :=
  s.record { code := 0x1301, source := n, items := [(1, n), (1, cause), (4, (s.sens n).count)], key := 2 }

/-- SENSOR_BROKEN (R383): a sensor in use whose windows show it out of band or frozen. [Log DEDUCED: 194] -/
def execSensorBroken (dt sensor : Nat) (s : State) : Out :=
  let s := s.advance dt
  let x := s.sens sensor
  if 24 ≤ sensor || s.sensState sensor ≠ 0 || !sensBad x then .next s
  else
    let cause := if x.band then 2 else 1
    let s := ((s.set R.THRM_SENS_INFO_STATE cause sensor).evt R.THRM_EVT_BROKEN).sensNote sensor cause
    .next (s.brokenJudge sensor)

/-- SENSOR_RETURN (R383): 256 windows in a row in band and not frozen. [Log DEDUCED: 194] -/
def execSensorReturn (dt sensor : Nat) (s : State) : Out :=
  let s := s.advance dt
  if s.sensState sensor = 0 || (s.sens sensor).good < 256 then .next s
  else
    let s := ((s.set R.THRM_SENS_INFO_STATE 0 sensor).evt R.THRM_EVT_RECOVERED).sensNote sensor 0
    .next (s.brokenJudge sensor)

/-- SHUTDOWN_POWER_OFF (R385): after the wait for the flash the control outputs are reset, the shut-down record is kept, and
PWR_EN_CORE and PWR_EN_IO go low; every wake source is then ignored. `flashOp`: 0 none, 1 program, 2 erase. [Log DEDUCED: 206] -/
def execShutdownPowerOff (dt flashOp waitUs : Nat) (s : State) : Out :=
  let s := s.advance dt
  match s.thrm.shut with
  | none => .next s
  | some (n, h) =>
    let s' := s.powerOff
    let s' := ((s'.set R.PWR_WAKE_SRC_CAN 0).set R.PWR_WAKE_SRC_WAKE_IN 0).set R.PWR_WAKE_SRC_RTC 0
    let s' := ((s'.set R.PWR_WAKE_SRC_SAFE_IN 0).set R.PWR_WAKE_SRC_HOST 0).set R.PWR_WAKE_SRC_POR 0
    .next { s'.set R.PWR_WAKE_SRC_THERMAL_OFF 1 with
      mus := { s'.mus with thermalOff := true, woke := false, shutNote := some (n, h, flashOp, min 2000 waitUs) } }

/-! ### The Forecaster (R387 to R392) -/

/-- Power at class loads: the leakage at the hottest temperature, which the trimmed model gives, and K_c · u_c.
[Log DESIGN CHOICE: 201] -/
def State.fcPower (s : State) (u : List Rat) : Rat :=
  Config.value 0x389 [(s.hottest.2 : Rat) / 10] + ((s.man.power.k.zip u).map fun x => x.1 * x.2).sum

/-- L and the code of m at a level (R390). -/
def levelL (n : Nat) : Nat := [64, 64, 64, 32, 16, 8, 4, 4, 4].getD n 4
def levelM (n : Nat) : Nat := [0, 0, 0, 0, 0, 0, 0, 1, 2].getD n 2

/-- The scenario level and the multiplier in force. -/
def State.fcBreadth (s : State) (l m : Nat) : State :=
  let s := ((s.set R.PWR_FC_STAT_SC_LEVEL l).set R.PWR_FC_STAT_STRETCH m).set R.ALLOC_STAT_STRETCH m
  { s with helm := { s.helm with level := l } }

/-- P and T as PWR_FC_POWER and PWR_FC_TEMP hold them: mW, and 0.1 °C with a sign. -/
def fcItems (p t : Rat) : List (Nat × Nat) :=
  [(2, min 65535 (shownAt 0x1204 (p * 1000)).toNat), sItem 2 (shownAt 0x1205 (t * 10))]

/-- The level that PWR_FC_STAT shows changes (0x1204); `binding` has bit 0 where T bound it and bit 1 where P did.
[Log DEDUCED: 203, 204] -/
def State.fcLevel (s : State) (new : Nat) (p t : Rat) (binding : Nat) : State :=
  let old := s.get R.PWR_FC_STAT_LEVEL
  if new = old then s
  else ((s.set R.PWR_FC_STAT_LEVEL new).evt (if old < new then R.PWR_EVT_LEVEL_UP else R.PWR_EVT_LEVEL_DOWN)).record
    { code := 0x1204, items := [(1, old), (1, new)] ++ fcItems p t ++ [(1, binding)], key := 2 }

/-- The level of the device's own prediction changes: it sheds D and H, and on all but a following standby it is the level in force
(R390, R392). [Log DEDUCED: 203, 204] -/
def State.fcSet (s : State) (new : Nat) (p t : Rat) (binding : Nat) : State :=
  let s : State := { s with pwr := { s.pwr with own := new } }
  let s := (s.setB R.PWR_FC_STAT_SHED_D (1 ≤ new)).setB R.PWR_FC_STAT_SHED_H (2 ≤ new)
  if s.follows then s else s.fcLevel new p t binding

/-- The level that the predictions call for (R391): up at once to the lowest that fits; down one level when the next lower one has
fitted with a margin for the restore time. [Log DESIGN CHOICE: 201; DEDUCED: 204] -/
def State.fcStep (s : State) (c : PowerCfg) (old : Nat) (p t : Nat → Rat) : State :=
  let fits := fun (n : Nat) => decide (p n ≤ c.budget) && decide (t n ≤ c.softLimit)
  let margin := fun (n : Nat) => decide (p n ≤ c.budget * 19 / 20) && decide (t n ≤ (c.softLimit : Rat) - 3)
  if !fits old then
    let new := ((List.range 9).find? fun n => decide (old < n) && fits n).getD 8
    let s : State := { s with pwr := { s.pwr with restoreAt := none } }
    if old < new then
      let bt := decide ((c.softLimit : Rat) < t old)
      let bp := decide (c.budget < p old)
      let s := (s.setB R.PWR_FC_STAT_LIMIT_T bt).setB R.PWR_FC_STAT_LIMIT_P bp
      s.fcSet new (p new) (t new) ((if bt then 1 else 0) + (if bp then 2 else 0))
    else s
  else if old = 0 || !margin (old - 1) then { s with pwr := { s.pwr with restoreAt := none } }
  else match s.pwr.restoreAt with
    | none => { s with pwr := { s.pwr with restoreAt := some s.now } }
    | some at_ =>
      if at_ + c.restoreS * 1000000000 ≤ s.now then
        let s := s.fcSet (old - 1) (p (old - 1)) (t (old - 1)) 0
        { s with pwr := { s.pwr with restoreAt := if 1 < old && margin (old - 2) then some s.now else none } }
      else s

/-- EXCEEDED and its alarm: not even level 8 fits. [Log DEDUCED: 202] -/
def State.fcExceeded (s : State) (p8 t8 : Rat) (over8 : Bool) : State :=
  let e := fcItems p8 t8
  let was := s.flag R.PWR_FC_STAT_EXCEEDED
  let s := s.setB R.PWR_FC_STAT_EXCEEDED over8
  if over8 && !was then (s.evt R.PWR_EVT_EXCEEDED).alarm 0x1205 0xFFFF e 0
  else if was && !over8 then s.clearAlarm 0x1205 0xFFFF e 0 else s

/-- The predictions as the registers show them (R394). -/
def State.fcShow (s : State) (pred avg temp : Rat) : State :=
  let s := ((s.setU R.PWR_FC_POWER_PRED_MW (pred * 1000)).setU R.PWR_FC_POWER_AVG_MW (avg * 1000)).setQ R.PWR_FC_TEMP_PRED_DC (temp * 10)
  let s := s.setI R.PWR_FC_TEMP_HOT_DC s.hottest.2
  s.setSat R.PWR_FC_STAT_RESTORE_S (match s.pwr.restoreAt with | some a => (s.now - a) / 1000000000 | none => 0)

/-- The plan of a helm-cycle boundary (R389 to R391). `plan` gives the busy fractions planned at each level 0 to 8 for the classes
S, C, E, A, H and D, `past` those of the cycle before. [Log DESIGN CHOICE: 201; DEDUCED: 203] -/
def State.fcPlan (s : State) (plan : List (List Rat)) (past : List Rat) : State :=
  if !(s.mode = 2 || s.mode = 3 || s.mode = 4) then s
  else
    let c := s.man.power
    let old := if s.follows then s.pwr.own else s.get R.PWR_FC_STAT_LEVEL
    let p := fun (n : Nat) => s.fcPower (plan.getD n [])
    let avg := match s.pwr.pAvg with
      | some a => a + (s.fcPower past - a) * (1 - Config.exp (-(1 / 20) / c.tauJ))
      | none => p old
    let hot : Rat := (s.hottest.2 : Rat) / 10
    let k := c.rthB * (1 - Config.exp (-c.thermH / c.tauJ))
    let t := fun (n : Nat) => hot + k * (p n - avg)
    let s : State := { s with pwr := { s.pwr with pAvg := some avg } }
    let s := s.fcStep c old p t
    let lvl := s.get R.PWR_FC_STAT_LEVEL
    let s := s.fcExceeded (p 8) (t 8) (!(decide (p 8 ≤ c.budget) && decide (t 8 ≤ c.softLimit)))
    let s := s.fcShow (p lvl) avg (t lvl)
    let s : State := { s with pwr := { s.pwr with preds := (List.range 9).map fun n => (p n, t n), planned := plan.getD lvl [] } }
    if s.follows then s.set R.PWR_FC_STAT_FOLLOWED 1
    else (s.set R.PWR_FC_STAT_FOLLOWED 0).fcBreadth (levelL lvl) (levelM lvl)

/-- The level that the active sends with its COMMAND records governs class A here (R392). [Log DEDUCED: 203] -/
def State.fcFollow (s : State) (level : Nat) : State :=
  let x := s.pwr.preds.getD level (0, 0)
  ((s.fcLevel level x.1 x.2 0).set R.PWR_FC_STAT_FOLLOWED 1).fcBreadth (levelL level) (levelM level)

end Sys2Proof.Machine
end

