-- ==== Sys2Proof/Machine/Time.lean ====
section
/-!
DEFINITION. The timebase (R95 to R118): latching, the single step, the servo, holdover and recovery, the grid, PPS, PTP and the
time-trigger units.
-/

namespace Sys2Proof.Machine

open Sys2Proof

/-- TIME_PTP.ROLE and STATE of a port. -/
def ptpRoleFld (p : Nat) : Fld := { R.TIME_PTP_ROLE0 with lo := 8 * (p % 4) }
def ptpStateFld (p : Nat) : Fld := { R.TIME_PTP_STATE0 with lo := 8 * (p % 4) + 2 }

/-- The current time goes into the four latch registers (R97). -/
def State.latchTime (s : State) : State :=
  let p := s.pm
  (((s.set R.TIME_LAT_NS_NS p.ns).set R.TIME_LAT_SEC_LO_SEC_LO p.sec).set R.TIME_LAT_SEC_HI_SEC_HI (p.sec / 2 ^ 32)).set
    R.TIME_LAT_PM32_PM32 s.pm32

/-- TIME_LATCH (R97): a write of 1 to TIME_CTL.LATCH. -/
def execTimeLatch (dt : Nat) (_port : Port) (s : State) : Out := .next (s.advance dt).latchTime

/-- TIME_STAT.STATE: 0 FREE, 1 LOCKED, 2 HOLDOVER, 3 RECOVERING. -/
def State.timeState (s : State) : Nat := s.get R.TIME_STAT_STATE

/-- The highest source of SRC_LIST that is not lost (R104); 0 for none. -/
def State.bestSrc (s : State) : Nat := (s.man.srcList.find? fun x => x ∈ s.time.live).getD 0

/-- The last offset of a source in ns. -/
def State.srcOfs (s : State) (src : Nat) : Int := tget s.time.ofs src 0

/-- The source is live, was seen now, and reads this offset. -/
def State.srcSeen (s : State) (src : Nat) (ofs : Int) : State :=
  { s with time := { s.time with
      live := if src ∈ s.time.live then s.time.live else src :: s.time.live
      seenAt := tput s.time.seenAt src s.now
      ofs := tput s.time.ofs src ofs } }

/-- TIME_STAT.SRC changes, with its record and envelope (R104, R118). [Log DEDUCED: 58] -/
def State.setSrc (s : State) (src : Nat) : State :=
  let old := s.get R.TIME_STAT_SRC
  if old = src then s
  else
    ((s.set R.TIME_STAT_SRC src).evt R.TIME_EVT_SRC_CHANGE).timeEvent
      { code := 0x0502, items := [(1, old), (1, src), sItem 4 (s.srcOfs src)], key := 2 }

/-- A valid fix of a source while FREE: the single step follows (R101). The first one counts. [Log DEDUCED: 57] -/
def State.validFix (s : State) (src : Nat) (ofs : Int) : State :=
  let s := s.srcSeen src ofs
  if s.stepped || src ∉ s.man.srcList then s
  else match s.time.fixAt with
    | some _ => s
    | none => { s with time := { s.time with fixAt := some s.now, fixOfs := ofs, fixSrc := src } }

/-- The grid residual in ns, in the range from -0.5 s, excluded, to +0.5 s, included (R107): where the tick divisible by
100,000 will fall against the nearest whole second. [Log DEDUCED: 52] -/
def gridResidual (ns tick : Nat) : Int :=
  let r := (ns + (100000 - tick % 100000) % 100000 * 10000) % 1000000000
  if 500000000 < r then (r : Int) - 1000000000 else r

/-- A count moved by a signed number of ns. -/
def shiftCount (count : Nat) (ofs : Int) : Nat := ((count : Int) + ofs * 4294967296).toNat

/-- The time-trigger units are judged again on the new time (R116). [Log DESIGN CHOICE: 54, 62] -/
def State.stepTriggers (s : State) : List (TrigCfg × Nat) → State
  | [] => s
  | (c, u) :: t =>
    let due := c.period * 1000000000 + c.phase
    let s :=
      if c.mode = 1 && s.get R.TIME_TRIG_STAT_FIRED u = 0 && due < s.ns then
        (((s.set R.TIME_TRIG_STAT_LATE 1 u).inc R.TIME_TRIG_STAT_FIRED u).record
          { code := 0x050C, source := u, items := [(1, u), caseItem 0x050C 0] }).trigTarget c
      else if c.mode = 3 then
        (s.set R.TIME_TRIG_STAT_PHASE_JUMP 1 u).record { code := 0x050C, source := u, items := [(1, u), caseItem 0x050C 1] }
      else s
    s.stepTriggers t

/-- The uncertainty while a source steers: no rule states it. [Log DESIGN CHOICE: 48] -/
def State.openUnc (s : State) : State := s.set R.TIME_UNC_NS (Config.fresh 0x4038 s.now)

/-- The quantisation error of the edge after the step, from -39 to 39 ps: no rule states it. [Log DESIGN CHOICE: 59] -/
def State.openQerr (s : State) : State := s.setI R.TIME_PPS_QERR_QERR ((Config.fresh 0x4044 s.now % 79 : Nat) - 39)

/-- The step as the registers show it: the instant reached, the step itself, the source, and TIME_STAT (R101). -/
def State.stepShow (s : State) (src : Nat) (d : Int) (p : Pm) : State :=
  let s := ((s.set R.TIME_STEP_SEC_LO_SEC_LO p.sec).set R.TIME_STEP_SEC_HI_SEC_HI (p.sec / 2 ^ 32)).set R.TIME_STEP_NS_NS p.ns
  let s := (s.setI R.TIME_STEP_DS_DS (Int.tdiv d 1000000000)).setI R.TIME_STEP_DNS_DNS (Int.tmod d 1000000000)
  let s := (s.set R.TIME_STAT_STEPPED 1).set R.TIME_STAT_STATE 1
  (s.set R.TIME_STAT_SRC src).openUnc.openQerr

/-- The grid after the step: its residual, and the ticks that take it up (R107). -/
def State.stepGrid (s : State) : State :=
  let g := gridResidual s.ns s.tick
  let s : State := { s with time := { s.time with
      gridFrom := g, gridAt := s.now, rtc := s.time.count, rtcOk := true, below := 0
      tickCycles := if 0 < g then 3960 else if g < 0 then 4040 else 4000 } }
  (s.setI R.TIME_GRID_NS g).evt R.TIME_EVT_STEP

/-- The device may drive PPS_OUT: it is active and drives, and PPS_GATE lets it (R111). -/
def State.ppsMay (s : State) : Bool := s.drives && (s.man.ppsAlways || s.timeState ≠ 0)

/-- The phase of the second or the role has changed: QERR applies to the next edge where that lies 500 ms ahead (R111).
[Log DESIGN CHOICE: 59] -/
def State.ppsNext (s : State) : State := s.setB R.TIME_PPS_QERR_VALID (s.ppsMay && decide (s.ns % 1000000000 ≤ 500000000))

/-- The step itself (R101, R102, R107). [Log DEDUCED: 58; DESIGN CHOICE: 59] -/
def State.makeStep (s : State) (src : Nat) (d : Int) : State :=
  let s : State := { s with time := { s.time with count := shiftCount s.time.count d, fixAt := none } }
  let p := s.pm
  let s := (s.stepShow src d p).stepGrid
  let s := s.timeEvent { code := 0x0501, items := [(1, src), (4, s.get R.TIME_STEP_DS_DS), (4, s.get R.TIME_STEP_DNS_DNS), (6, p.sec), (4, p.ns)], key := 1 }
  ((s.ppsNext).ethRephase).stepTriggers (s.man.trig.zipIdx)

/-- The source and the offset of the step: the highest source of SRC_LIST that is not lost; with none left, the first fix.
[Log DEDUCED: 57] -/
def State.stepFix (s : State) : Nat × Int :=
  if s.bestSrc = 0 then (s.time.fixSrc, s.time.fixOfs) else (s.bestSrc, s.srcOfs s.bestSrc)

/-- SINGLE_STEP (R101): at the first frame boundary at least 20 ms after the first valid fix, once per MUSTER. A paired standby
does not step by a source of its own (R109). [Log DEDUCED: 57] -/
def execSingleStep (dt : Nat) (s : State) : Out :=
  let s := s.advance dt
  match s.time.fixAt with
  | some t =>
    if s.stepped || s.tick % 1000 ≠ 0 || s.now < t + 20000000 || (s.isPaired && !s.isActive) then .next s
    else .next (s.makeStep s.stepFix.1 s.stepFix.2)
  | none => .next s

/-- A rate correction clamped by R103: within 10 ppm of the last one, and within 100 ppm. -/
def clampRate (last x : Rat) : Rat := max (-100000) (min 100000 (max (last - 10000) (min (last + 10000) x)))

/-- The TIME-OFFSET alarm (R104). -/
def State.offsetAlarm (s : State) (src : Nat) (ofs : Int) : State :=
  let big := decide (1000000000 < ofs.natAbs)
  if big && !s.time.offsetAlarm then
    { s with time := { s.time with offsetAlarm := true } }.alarm 0x0506 0xFFFF [(1, src), sItem 4 ofs] 1
  else if !big && s.time.offsetAlarm then
    { s with time := { s.time with offsetAlarm := false } }.clearAlarm 0x0506 0xFFFF [(1, src), sItem 4 ofs] 1
  else s

/-- The mean of the rates (R105). -/
def meanRate (l : List Rat) (d : Rat) : Rat := if l = [] then d else l.sum / l.length

/-- HOLDOVER is entered (R105). [Log DEDUCED: 58] -/
def State.holdover (s : State) : State :=
  let r := meanRate s.time.lockedRates s.time.rate
  let u0 : Rat := s.get R.TIME_UNC_NS
  let s : State := { s with time := { s.time with rate := r, holdAt := s.now, u0 := u0, unc := u0, below := 0 } }
  let s := (((s.set R.TIME_STAT_STATE 2).set R.TIME_STAT_SRC 0).setQ R.TIME_RATE_PPB r).set R.TIME_HOLD_S 0
  (s.evt R.TIME_EVT_HOLD_ENTER).timeEvent { code := 0x0503, items := [sItem 4 (s.geti R.TIME_RATE_PPB), (4, s.get R.TIME_UNC_NS)], key := 0 }

/-- SERVO_UPDATE (R103, R104): once per TAI second after the step. `freqErr` is the estimated oscillator frequency error in
ppb, `offset` the measured offset of the selected source, `utc` an announced UTC offset and leap. With every source lost, as after a takeover, it enters HOLDOVER (R105).
[Log DESIGN CHOICE: 48; DEDUCED: 51] -/
def execServoUpdate (dt : Nat) (freqErr : Rat) (offset : Int) (utc : Option (Int × Nat)) (s : State) : Out :=
  let s := s.advance dt
  let src := s.bestSrc
  if !s.stepped || s.timeState = 2 || (s.isPaired && !s.isActive) then .next s
  else if src = 0 then .next s.holdover
  else
    let s := (s.srcSeen src offset).setSrc src
    let rate := clampRate s.time.rate (freqErr + (offset : Rat) / 16)
    let below := if offset.natAbs < 1000 then s.time.below + 1 else 0
    let locked := if s.timeState = 1 then (rate :: s.time.lockedRates).take 64 else s.time.lockedRates
    let s : State := { s with time := { s.time with rate := rate, below := below, lockedRates := locked, rtc := s.time.count, rtcOk := true } }
    let s := ((s.setQ R.TIME_RATE_PPB rate).setI R.TIME_OFFSET_NS offset).openUnc
    let s := match utc with
      | some (u, leap) =>
        { (s.set R.TIME_UTC_LEAP leap) with time := { s.time with utcAnnounced := some u } }
      | none => s
    .next (s.offsetAlarm src offset)

/-- SOURCE_LOST (R100, R105): a source silent for HOLD_ENTER seconds, or a PTP port that left SLAVE, is lost; with others left the device changes source, with none it
enters HOLDOVER. -/
def execSourceLost (dt : Nat) (src : TimeSrc) (s : State) : Out :=
  let s := s.advance dt
  let left := 2 ≤ src && src ≤ 5 && s.get (ptpStateFld (src - 2)) ≠ 3
  if src ∉ s.time.live || (!left && s.now < tget s.time.seenAt src 0 + s.man.holdEnter * 1000000000) then .next s
  else
    let s : State := { s with time := { s.time with live := s.time.live.filter (· ≠ src) } }
    if !s.stepped || (s.isPaired && !s.isActive) then .next s
    else if s.bestSrc = 0 then (if s.timeState = 2 then .next s else .next s.holdover)
    else .next (s.setSrc s.bestSrc)

/-- SOURCE_RETURN (R106): in HOLDOVER a returning source starts RECOVERING; while FREE a source with a valid fix gives the single
step; PPS_IN never does. [Log DEDUCED: 58] -/
def execSourceReturn (dt : Nat) (src : TimeSrc) (offset : Int) (s : State) : Out :=
  let s := s.advance dt
  if src ∉ s.man.srcList then .next s
  else if !s.stepped then (if src = 6 then .next s else .next (s.validFix src offset))
  else
    let s := s.srcSeen src offset
    if s.isPaired && !s.isActive then .next s
    else if s.timeState = 2 then
      let b := s.bestSrc
      let s : State := { s.set R.TIME_STAT_STATE 3 with time := { s.time with below := 0 } }
      let s := s.set R.TIME_STAT_SRC b
      .next (s.timeEvent { code := 0x0504, items := [(1, b), sItem 4 offset], key := 1 })
    else .next (s.setSrc s.bestSrc)

/-- RECOVERY_LOCK (R106): after 10 consecutive seconds with the offset below 1 µs the device is LOCKED; UNC_OVER clears.
[Log DEDUCED: 51] -/
def execRecoveryLock (dt : Nat) (s : State) : Out :=
  let s := s.advance dt
  if s.timeState ≠ 3 || s.time.below < 11 then .next s
  else
    let src := s.get R.TIME_STAT_SRC
    let s := ((s.set R.TIME_STAT_STATE 1).set R.TIME_STAT_UNC_OVER 0).evt R.TIME_EVT_LOCK
    let s := if s.time.uncAlarm then
        { s with time := { s.time with uncAlarm := false } }.clearAlarm 0x0505 0xFFFF [(4, s.get R.TIME_UNC_NS)] 0
      else s
    .next (s.timeEvent { code := 0x0504, items := [(1, src), sItem 4 (s.srcOfs src)], key := 1 })

/-- The uncertainty after `t` seconds of holdover (R105). [Log DEDUCED: 53] -/
def holdUnc (u0 : Rat) (stab aging : Nat) (t : Rat) : Rat := u0 + stab * t + aging * t * t / 172800

/-- UNC_LIMIT_EXCEEDED (R105): UNC_OVER and TIME-UNCERTAIN, once the uncertainty has passed the limit. -/
def execUncLimitExceeded (dt : Nat) (s : State) : Out :=
  let s := s.advance dt
  let t : Rat := ((s.now - s.time.holdAt : Nat) : Rat) / 1000000000
  let u := holdUnc s.time.u0 s.man.oscStab s.man.oscAging t
  if s.timeState ≠ 2 || u ≤ s.man.uncLimit || s.time.uncAlarm then .next s
  else
    let s : State := { s with time := { s.time with unc := u, uncAlarm := true } }
    let s := ((s.setU R.TIME_UNC_NS u).setSat R.TIME_HOLD_S ((s.now - s.time.holdAt) / 1000000000)).set R.TIME_STAT_UNC_OVER 1
    .next ((s.evt R.TIME_EVT_UNC_OVER).alarm 0x0505 0xFFFF [(4, s.get R.TIME_UNC_NS)] 0)

/-- GRID_ALIGNED (R107): with the residual at 0, ticks return to nominal length. [Log DEDUCED: 52; DESIGN CHOICE: 61] -/
def execGridAligned (dt : Nat) (s : State) : Out :=
  let s := s.advance dt
  if !s.stepped || s.geti R.TIME_GRID_NS ≠ 0 || s.flag R.TIME_STAT_GRID_ALIGNED then .next s
  else
    let s : State := { s.set R.TIME_STAT_GRID_ALIGNED 1 with time := { s.time with tickCycles := 4000 } }
    .next ((s.evt R.TIME_EVT_GRID_DONE).record
      { code := 0x0507, items := [sItem 4 s.time.gridFrom, measItem 0x0507 (s.now - s.time.gridAt : Nat)], key := 0 })

/-- One tick of alignment takes 100 ns off the residual, and the last what is left (R107). [Log DEDUCED: 52] -/
def State.gridTick (s : State) : State :=
  if !s.stepped || s.flag R.TIME_STAT_GRID_ALIGNED then s
  else
    let r := s.geti R.TIME_GRID_NS
    s.setI R.TIME_GRID_NS (if 0 < r then max 0 (r - 100) else min 0 (r + 100))

/-- LEAP_SECOND_APPLY (R110): at the end of the announced UTC day UTC_OFS changes; TAI runs on. -/
def execLeapSecondApply (dt : Nat) (s : State) : Out :=
  let s := s.advance dt
  let l := s.get R.TIME_UTC_LEAP
  if l ≠ 1 ∧ l ≠ 2 then .next s
  else
    let old := s.geti R.TIME_UTC_UTC_OFS
    let new := if l = 1 then old + 1 else old - 1
    let s : State := { (s.setI R.TIME_UTC_UTC_OFS new).set R.TIME_UTC_LEAP 0 with
      time := { s.time with utcKept := some new, utcAnnounced := some new } }
    .next ((s.evt R.TIME_EVT_LEAP).record { code := 0x0508, items := [sItem 2 old, sItem 2 new] })

/-- UTC_OFS by precedence (R110): what the selected source announces, the last value in retention SRAM, UTC_OFS_DEFAULT. -/
def State.utcUpdate (s : State) : State :=
  let new := match s.time.utcAnnounced with
    | some u => u
    | none => match s.time.utcKept with | some u => u | none => s.man.utcOfsDefault
  let old := s.geti R.TIME_UTC_UTC_OFS
  if old = new then s
  else
    let s : State := { s.setI R.TIME_UTC_UTC_OFS new with time := { s.time with utcKept := some new } }
    (s.evt R.TIME_EVT_LEAP).record { code := 0x0508, items := [sItem 2 old, sItem 2 new] }

/-- The device drives PPS_OUT: it may, and is past the 500 ms of a takeover (R111). -/
def State.ppsDrives (s : State) : Bool :=
  s.ppsMay && (match s.time.takeoverAt with | some t => decide (t + 500000000 ≤ s.now) | none => true)

/-- PPS_OUT_PULSE (R99, R111): at a whole TAI second, at which the RTC takes the disciplined time; `nextQerr` is the quantisation error of the next edge in ps. A standby computes
QERR too; its VALID reads 0. [Log DESIGN CHOICE: 59] -/
def execPpsOutPulse (dt : Nat) (nextQerr : Int) (s : State) : Out :=
  let s := s.advance dt
  let s := s.setI R.TIME_PPS_QERR_QERR (max (-39) (min 39 nextQerr))
  let s : State := if s.stepped then { s with time := { s.time with rtc := s.time.count, rtcOk := true } } else s
  let s := s.setB R.TIME_PPS_QERR_VALID s.ppsMay
  if s.ppsDrives then .next { s with time := { s.time with ppsHigh := true, ppsAt := s.now } }
  else .next { s with time := { s.time with ppsHigh := false } }

/-- PPS_OUT_PULSE_END (R111): after PPS_WIDTH. -/
def execPpsOutPulseEnd (dt : Nat) (s : State) : Out :=
  let s := s.advance dt
  if s.time.ppsHigh && s.time.ppsAt + s.man.ppsWidth * 1000000 ≤ s.now then
    .next { s with time := { s.time with ppsHigh := false } }
  else .next s

/-- PPS_IN_EDGE (R106, R112): captured; as a source it gives the phase within the second, and returns after the step with two
edges 1 s ± 10 µs apart. [Log DESIGN CHOICE: 54] -/
def execPpsInEdge (dt : Nat) (s : State) : Out :=
  let s := s.advance dt
  let ph := s.ns % 1000000000
  let ofs : Int := if ph ≤ 500000000 then -(ph : Int) else 1000000000 - ph
  let pair := match s.time.ppsInAt with
    | some t => decide (s.ns ≤ t + 1000010000) && decide (t + 999990000 ≤ s.ns)
    | none => false
  let s : State := { s.set R.TIME_PPSIN_PM_PM32 s.pm32 with time := { s.time with ppsInAt := some s.ns } }
  if 6 ∈ s.man.srcList && s.stepped && (pair || 6 ∈ s.time.live) then
    let back := decide (6 ∉ s.time.live)
    let s := s.srcSeen 6 ofs
    if !back || (s.isPaired && !s.isActive) then .next s
    else if s.timeState = 2 then
      let s := (s.set R.TIME_STAT_STATE 3).set R.TIME_STAT_SRC s.bestSrc
      .next ({ s with time := { s.time with below := 0 } }.timeEvent { code := 0x0504, items := [(1, 6), sItem 4 ofs], key := 1 })
    else .next (s.setSrc s.bestSrc)
  else .next s

/-- EXT10M_LOSS (R112): the counter falls back to XTAL25. [Log DESIGN CHOICE: 50] -/
def execExt10mLoss (dt : Nat) (s : State) : Out :=
  let s := s.advance dt
  if s.man.ext10mUse then .next ((s.set R.TIME_STAT_EXT10M_OK 0).record { code := 0x050A }) else .next s

/-- EXT10M_RESTORE (R112). [Log DESIGN CHOICE: 50] -/
def execExt10mRestore (dt : Nat) (s : State) : Out :=
  let s := s.advance dt
  if s.man.ext10mUse then .next ((s.set R.TIME_STAT_EXT10M_OK 1).record { code := 0x050A }) else .next s

/-! ### PTP (R113, R114, R433) -/

def State.ptp (s : State) (p : Nat) : PtpPort := tget s.time.ptp p {}
def State.putPtp (s : State) (p : Nat) (x : PtpPort) : State := { s with time := { s.time with ptp := tput s.time.ptp p x } }

/-- A port's state changes, recorded with the grandmaster (R118). At most one port is SLAVE at a time (R113): a port that
would be a second one is UNCALIBRATED. [Log DESIGN CHOICE: 56] -/
def State.ptpSetState (s : State) (p st gm : Nat) : State :=
  let others := [0, 1, 2, 3].any fun q => q ≠ p && s.get (ptpStateFld q) = 3
  let st := if st = 3 && others then 5 else st
  let old := s.get (ptpStateFld p)
  if old = st then s
  else (s.set (ptpStateFld p) st).record { code := 0x0509, source := p, items := [(1, p), (1, old), (1, st), (8, gm)] }

/-- The offsets span less than 10 µs (R100). -/
def spanOk (l : List Int) : Bool := (l.all fun a => l.all fun b => decide ((a - b).natAbs < 10000))

/-- PTP_EVENT_MESSAGE (R100, R113, R433): a timestamped message; an offset estimate it completes counts towards a valid fix:
SLAVE, grandmaster clockClass below 128, eight estimates in a row spanning less than 10 µs. [Log DESIGN CHOICE: 55] -/
def execPtpEventMessage (dt port : Nat) (r : PtpReading) (s : State) : Out :=
  let s := s.advance dt
  if s.get (ptpRoleFld port) = 0 then .next s
  else
    let s := s.ptpSetState port r.state r.gmId
    let x := s.ptp port
    let x := { x with syncAt := s.now, gmClass := r.gmClass, gmId := r.gmId }
    match r.offset with
    | none => .next (s.putPtp port x)
    | some o =>
      if s.get (ptpStateFld port) ≠ 3 then .next (s.putPtp port { x with offsets := [] })
      else
        let x := { x with offsets := (o :: x.offsets).take 8 }
        let s := s.putPtp port x
        if x.gmClass < 128 && x.offsets.length = 8 && spanOk x.offsets then .next (s.validFix (2 + port) o)
        else if (2 + port) ∈ s.time.live then .next (s.srcSeen (2 + port) o)
        else .next s

/-- PTP_GENERAL_MESSAGE (R113): Announce and other general messages update the port's state and the UTC offset announced.
[Log DESIGN CHOICE: 55] -/
def execPtpGeneralMessage (dt port : Nat) (r : PtpReading) (s : State) : Out :=
  let s := s.advance dt
  if s.get (ptpRoleFld port) = 0 then .next s
  else
    let s := s.ptpSetState port r.state r.gmId
    let s := s.putPtp port { s.ptp port with announceAt := s.now, gmClass := r.gmClass, gmId := r.gmId }
    match r.utcOfs with
    | some u =>
      if s.get R.TIME_STAT_SRC = 2 + port then
        .next { s.set R.TIME_UTC_LEAP r.leap with time := { s.time with utcAnnounced := some u } }
      else .next s
    | none => .next s

/-- A port may transmit PTP event and Announce messages: MASTER, on the device that drives. [Log DESIGN CHOICE: 56] -/
def State.ptpMaster (s : State) (port : Nat) : Bool := s.get (ptpStateFld port) = 2 && s.drives

/-- The clock quality announced as grandmaster (R114): clockClass and timeSource. -/
def State.clockQuality (s : State) : Nat × Nat :=
  match s.timeState with
  | 1 => (6, if s.get R.TIME_STAT_SRC = 6 then 0x90 else 0x20)
  | 2 => (if s.flag R.TIME_STAT_UNC_OVER then 52 else 7, 0xA0)
  | 3 => (if s.flag R.TIME_STAT_UNC_OVER then 52 else 7, 0xA0)
  | _ => (248, 0xA0)

/-- The upper ends of the accuracy classes of IEEE 1588-2019 in ns, from class 0x20 (25 ns) on. [Log PRESUMED: 60] -/
def accuracyBounds : List Nat :=
  [25, 100, 250, 1000, 2500, 10000, 25000, 100000, 250000, 1000000, 2500000, 10000000, 25000000, 100000000, 250000000,
   1000000000, 10000000000]

/-- clockAccuracy: the smallest class that contains an uncertainty in ns (R114). [Log PRESUMED: 60] -/
def accuracyClass (unc : Nat) : Nat :=
  if unc = 0 then 0x17 else if unc = 1 then 0x1D else if unc = 2 then 0x1E else if unc ≤ 10 then 0x1F
  else 0x20 + (accuracyBounds.findIdx fun b => decide (unc ≤ b))

/-- A PTP message of this many bytes enters queue 7 of its port (R429), with header, tag and FCS. [Log PRESUMED: 241] -/
def State.ptpSend (s : State) (p len : Nat) : State :=
  match s.ethCfg p with
  | some c => s.ethPut p { queue := 7, len := max 64 (18 + (if c.vlan = 0 then 0 else 4) + len), kind := 0, seq := 0, body := [] }
  | none => s

/-- The port runs the IEEE 802.1AS profile, with peer delay (R100). -/
def State.ptpP2p (s : State) (p : Nat) : Bool := p ∈ s.man.ptpP2p

/-- PTP_SYNC_TRANSMIT (R113, R433): a master port sends two-step Sync at its interval, a Sync and its Follow_Up.
[Log DESIGN CHOICE: 55; PRESUMED: 241] -/
def execPtpSyncTransmit (dt port interval : Nat) (s : State) : Out :=
  let s := s.advance dt
  let x := s.ptp port
  if s.ptpMaster port && x.sentSync + interval ≤ s.now then
    .next (((s.putPtp port { x with sentSync := s.now }).ptpSend port 44).ptpSend port (if s.ptpP2p port then 76 else 44))
  else .next s

/-- PTP_ANNOUNCE_TRANSMIT (R114): with the quality of the state; a boundary clock announces its grandmaster's data (R113).
[Log DESIGN CHOICE: 55; PRESUMED: 60, 241] -/
def execPtpAnnounceTransmit (dt port interval : Nat) (s : State) : Out :=
  let s := s.advance dt
  let x := s.ptp port
  if s.ptpMaster port && x.sentAnnounce + interval ≤ s.now then
    let slave := [0, 1, 2, 3].find? fun q => s.get (ptpStateFld q) = 3
    let q := match slave with | some p => ((s.ptp p).gmClass, 0x40) | none => s.clockQuality
    let x := { x with sentAnnounce := s.now, lastClass := q.1, lastSource := q.2, lastAccuracy := accuracyClass (s.get R.TIME_UNC_NS) }
    .next ((s.putPtp port x).ptpSend port 64)
  else .next s

/-- The port may ask for its delay: the driving device, and any with peer delay that is not one that drives nothing (R370, R435).
[Log DEDUCED: 242] -/
def State.ptpMayAsk (s : State) (p : Nat) : Bool :=
  s.get (ptpRoleFld p) ≠ 0 && (s.drives || (s.ptpP2p p && !s.flag R.DEV_STAT_DRIVES_NOTHING))

/-- PTP_DELAY_REQ_TRANSMIT (R433): a delay or peer-delay request at the port's interval. [Log DESIGN CHOICE: 55; PRESUMED: 241] -/
def execPtpDelayReqTransmit (dt port interval : Nat) (s : State) : Out :=
  let s := s.advance dt
  let x := s.ptp port
  if s.ptpMayAsk port && x.sentReq + interval ≤ s.now then
    .next ((s.putPtp port { x with sentReq := s.now }).ptpSend port (if s.ptpP2p port then 54 else 44))
  else .next s

/-! ### Time-trigger units (R115) -/

/-- The unit's instant has come: ONE-SHOT at its TAI time, once; GRID every k ticks at its phase q; TAI every period at its phase
after the whole second, on the 400 MHz edge at or after it. -/
def State.trigDue (s : State) (u : Nat) (c : TrigCfg) : Bool :=
  match c.mode with
  | 1 => s.get R.TIME_TRIG_STAT_FIRED u = 0 && decide (c.period * 1000000000 + c.phase ≤ s.ns)
  | 2 => decide (0 < c.period) && s.tick % c.period = c.phase % 131072
  | 3 => decide (0 < c.period) && decide ((s.ns % 1000000000 + c.period - c.phase % c.period) % c.period < 3)
  | _ => false

/-- TRIGGER_UNIT_FIRE (R115): the unit fires its target: a converter frame start, a GPIO edge, a capture start or a PWM sync.
[Log DEDUCED: 187] -/
def execTriggerUnitFire (dt unit : Nat) (s : State) : Out :=
  let s := s.advance dt
  match s.man.trig[unit]? with
  | none => .next s
  | some c =>
    if s.trigDue unit c then
      .next (({ s with time := { s.time with trigAt := tput s.time.trigAt unit s.now } }.inc R.TIME_TRIG_STAT_FIRED unit).trigTarget c)
    else .next s

end Sys2Proof.Machine
end

