-- ==== Sys2Proof/Machine/Twin.lean ====
section
/-!
DEFINITION. The twin link in service (R353 to R373): sealed ticks, comparison, lag, giving up, taking over, and loss of step.
-/

namespace Sys2Proof.Machine

open Sys2Proof

/-- IN-STEP, as the standby. -/
def State.inStep (s : State) : Bool := s.get R.TWIN_STAT_STATE = 4 && !s.isActive

/-- The standby detaches (R367). -/
def State.detach (s : State) (reason : Nat) : State :=
  let s := ((s.set R.TWIN_STAT_PEER_OK_OUT 0).set R.TWIN_STAT_STATE 5).set R.MODE_STAT_PAIRED 0
  let s : State := { s.inc R.TWIN_COUNT_DETACHES with twin := { s.twin with syncRetryAt := s.now } }
  (s.evt R.TWIN_EVT_DETACH).record { code := 0x1106, items := [(1, reason)] }

/-- The active counts as unpaired (R368). -/
def State.becomeUnpaired (s : State) (reason : Nat) : State := (s.set R.TWIN_STAT_STATE 0).unpairedAlarm reason

/-- The levels of a channel's switches in a PINS record: bit 0 home, 1 and 2 the limits. [Log DEDUCED: 181, 185] -/
def pinLevels (v : Nat) : SwLevels := { home := v.testBit 0, neg := v.testBit 1, pos := v.testBit 2 }

/-- An ENC record (R245, R357): the count, and in its flags an index (bit 0) and an edge error (bit 1). -/
def State.encInput (s : State) (n count flags : Nat) : State :=
  let e := s.enc n
  let arm := flags.testBit 0 && tget s.man.loop.encs n 0 = 1 && !s.flag R.LOOP_ENC_STAT_INDEX_SEEN n
  let s := s.putEnc n { e with count := count, latched := if arm then some count else e.latched }
  let s := if flags.testBit 0 then s.set R.LOOP_ENC_STAT_INDEX_SEEN 1 n else s
  if flags.testBit 1 then s.encEdgeError n else s

/-- The standby takes part in the exchange: it receives the snapshot's kept ticks or is in step (R356, R358). -/
def State.exchanges (s : State) : Bool :=
  !s.isActive && (s.get R.TWIN_STAT_STATE = 3 || s.get R.TWIN_STAT_STATE = 4)

/-- A CONV, ENC, STEP, PINS or CLP record of a tick in replay takes the place of the standby's own input (R357, R358).
[Log DEDUCED: 181, 185] -/
def State.applyInput (s : State) (r : TwinRec) : State :=
  match r.kind with
  | 1 => s.convInput r.item r.value r.pm ((r.payload.getD 0 0).testBit 0) ((r.payload.getD 0 0).testBit 1)
  | 2 => s.encInput r.item (r.value % 2 ^ 32).toNat (r.payload.getD 0 0)
  | 3 =>
    match tfind s.man.step r.item with
    | some x =>
      if r.payload.getD 0 0 = 1 then s.stepAngle r.item x r.value.toNat
      else s.chopCross r.item (r.payload.getD 1 0) (r.payload.getD 2 0 = 1) r.value.toNat
    | none => s
  | 4 =>
    match tfind s.man.step r.item with
    | some x => s.stepSwitches r.item x (pinLevels r.value.toNat)
    | none => s
  | 5 =>
    match tfind s.man.clp.chs r.item with
    | some x => s.clpMonitor r.item x ((r.value : Rat) / 1000) ((r.payload.getD 0 0 : Rat) / 1000)
    | none => s
  | _ => s

/-- A POINT, ENVELOPE or ROLL record takes effect at the boundary that ends its tick (R76, R358). [Log DEDUCED: 181] -/
def State.applyRec (s : State) (r : TwinRec) : State :=
  match r.kind with
  | 6 => s.putPoint r.item (bits64 r.value) r.pm r.quality
  | 7 => s.send r.item 10 0 r.payload r.pm
  | 8 => s.rollReply r.item r.value.toNat (ofLe r.payload)
  | _ => s

/-- Committed buffers swap (R39). [Log DEDUCED: 182] -/
def State.swapIn (s : State) (l : List Input) : State :=
  l.foldl (fun (s : State) x => match x with | .point i v pm q => s.putPoint i v pm q | .env .. => s | .host .. => s) s

/-- The blocks that work at a tick boundary, in the order of the signal: captures, converters, machine functions, current loops
(not in LULL3), microstep channels. -/
def State.tickWork (s : State) (moved : List (Nat × Int)) (clp : List (Nat × Rat × Rat)) : State :=
  let s := (((s.loopTick moved).adcTick).fnsTick)
  let s := if s.pwr.l3 = 1 || s.pwr.l3 = 2 then s else s.clpTick clp
  s.stepTick

/-- The inputs of replayed ticks before `t` take effect. -/
def State.endTicks (s : State) (t : Nat) : State :=
  let s := (s.twin.records.filter fun r => decide (r.tick < t)).foldl State.applyRec s
  { s with twin := { s.twin with records := s.twin.records.filter fun r => !decide (r.tick < t) } }

/-- A commit is among those a SEAL names. -/
def marked (l : List Nat) (x : Input) : Bool := match x with | .point i .. => i ∈ l | .env .. => false | .host .. => false

/-- SEAL_RECEIVE (R265, R358): the standby replays the sealed tick: the inputs of the tick before take effect, the buffers that the
seal names swap, and the tick's work runs on the active's inputs. [Log DEDUCED: 189] -/
def execSealReceive (dt : Nat) (sl : Seal) (s : State) : Out :=
  let s := s.advance dt
  if !s.exchanges then .next s
  else
    let s := ((s.incSat R.TWIN_LINK_CRC_ERRS 0 sl.crcErrs).inc R.TWIN_LINK_RESENDS 0 sl.crcErrs).endTicks sl.tick
    let ready := s.commits.filter (marked sl.commits)
    let s : State := { s with tick := sl.tick, commits := s.commits.filter fun x => !marked sl.commits x }
    let s := s.swapIn ready
    let s := (s.twin.records.filter fun r => decide (r.tick = sl.tick)).foldl State.applyInput s
    let s := s.tickWork [] []
    let s := (s.setSat R.TWIN_LOAD_LAST_BYTES sl.bytes).setSat R.TWIN_LOAD_MAX_BYTES (max sl.bytes (s.get R.TWIN_LOAD_MAX_BYTES))
    .next { s with twin := { s.twin with
      seals := s.twin.seals ++ [sl], records := s.twin.records.filter fun r => r.tick ≠ sl.tick || 6 ≤ r.kind } }

/-- INPUT_RECORD_RECEIVE (R357): held for its tick. -/
def execInputRecordReceive (dt : Nat) (r : TwinRec) (s : State) : Out :=
  let s := s.advance dt
  if s.exchanges then .next { s with twin := { s.twin with records := s.twin.records ++ [r] } } else .next s

/-- TIME_RECORD_RECEIVE (R109): the standby selects PEER and takes the active's rate; it steps when the active has, once. -/
def execTimeRecordReceive (dt phase : Nat) (rate : Rat) (stepped : Bool) (s : State) : Out :=
  let s := s.advance dt
  if s.isActive then .next s
  else
    let s : State := if stepped && !s.stepped then s.makeStep 7 ((phase : Int) - s.ns) else s.setSrc 7
    .next ({ s with time := { s.time with rate := rate } }.setQ R.TIME_RATE_PPB rate)

/-- STATUS_RECEIVE (R357, R368): the standby's state and lag; IN-STEP pairs the active, DETACHED leaves it unpaired. `inst`
and `cv` are the results of its INSTALL and of its commissioning (R72, R347). -/
def execStatusReceive (dt state lag inst cv : Nat) (s : State) : Out :=
  let s := s.advance dt
  let s := (s.set R.MNF_INST_PEER_RESULT inst).set R.SAFE_CV_CMD_PEER_RESULT cv
  let s : State := { s with twin := { s.twin with peerStatus := state, peerLag := lag } }
  if !s.isActive then .next s
  else if state = 4 && !s.isPaired then
    let sending := decide (s.get R.TWIN_STAT_STATE = 2)
    let ms := (s.now - s.twin.syncAt) / 1000000
    let s := (s.set R.TWIN_STAT_STATE 4).set R.MODE_STAT_PAIRED 1
    let s := if sending then
        (s.setSat R.TWIN_SYNC_MS ms).syncRecord 0 ms 1
      else s
    let s := if s.twin.unpairedAlarm then
        { s with twin := { s.twin with unpairedAlarm := false } }.clearAlarm 0x1105 0xFFFF [(1, 0x10)]
      else s
    .next (s.evt R.TWIN_EVT_PAIRED)
  else if state = 5 && s.isPaired then .next (s.becomeUnpaired 2)
  else .next s

/-- RESEND_RECEIVE (R357): the records that failed their CRC are sent again. [Log DEDUCED: 189] -/
def execResendReceive (dt records : Nat) (s : State) : Out :=
  let s := s.advance dt
  .next ({ s with twin := { s.twin with resent := s.twin.resent + records } }.inc R.TWIN_LINK_RESENDS 0 records)

/-- A digest mismatch is shown and recorded (R359, R372, R373): `conf` is 0 for a transient, 1 for a confirmed one.
[Log DEDUCED: 188] -/
def State.mismatchNote (s : State) (scope cell tick conf : Nat) : State :=
  let s := s.set R.TWIN_CMP_LAST_SCOPE scope
  let s := if scope = 1 then s.set R.TWIN_CMP_LAST_CELL cell else s
  (s.evt R.TWIN_EVT_DIVERGE).record { code := 0x1107, items := [(1, scope), (1, cell), (8, tick), caseItem 0x1107 conf], key := 2 }

/-- DIVERGE_RECEIVE (R360): the active records and counts the transient mismatch. -/
def execDivergeReceive (dt scope cell tick : Nat) (s : State) : Out :=
  let s := s.advance dt
  .next ((s.inc R.TWIN_CMP_TRANSIENT).mismatchNote scope cell tick 0)

/-- CONFIRM_RECEIVE (R360, R361, R362): a confirmed divergence is the active's trigger, cause 9. -/
def execConfirmReceive (dt scope cell tick : Nat) (s : State) : Out :=
  let s := s.advance dt
  .next (((s.set R.TWIN_CMP_CONFIRMED 1).mismatchNote scope cell tick 1).deviceFault 9 0xFFFF)

/-- GIVE_UP_RECEIVE (R364): the standby prepares to take over. -/
def execGiveUpReceive (dt cause tick : Nat) (s : State) : Out :=
  let s := s.advance dt
  if s.isActive then .next s
  else
    let s := s.lullExit 12
    .next { s with twin := { s.twin with giveUpRxAt := some s.now, giveUpCause := cause, hoTick := tick } }

/-- One scope of a seal is compared (R359, R360): a second mismatch in a row is a confirmed divergence; one followed by agreement
was transient. [Log DEDUCED: 188] -/
def State.compareScope (s : State) (scope cell tick : Nat) (agree : Bool) : State :=
  let was := decide (scope ∈ s.twin.mismatch)
  if agree then
    if was then
      let s : State := { s with twin := { s.twin with mismatch := s.twin.mismatch.filter (· ≠ scope) } }
      (s.inc R.TWIN_CMP_TRANSIENT).mismatchNote scope cell tick 0
    else s
  else if was then (s.set R.TWIN_CMP_CONFIRMED 1).mismatchNote scope cell tick 1
  else
    let s : State := { s with twin := { s.twin with mismatch := scope :: s.twin.mismatch } }
    (s.set R.TWIN_CMP_LAST_SCOPE scope).evt R.TWIN_EVT_DIVERGE

/-- A tick over the lag limit (R358). [Log DEDUCED: 192] -/
def State.lagOver (s : State) (lagNs : Nat) : State :=
  let run := s.twin.lagRun + 1
  let s : State := { s with twin := { s.twin with lagRun := run } }
  let s := ((s.set R.TWIN_STAT_PEER_OK_OUT 0).incSat R.TWIN_LAG_OVER).evt R.TWIN_EVT_LAG
  s.record { code := 0x1108, items := [(2, min 65535 lagNs), (2, min 65535 run)], key := 0 }

/-- REPLAY_DONE (R358, R359): the replay of a tick ends; the digests are compared and the lag is judged. `own` holds the standby's
own digests. -/
def execReplayDone (dt tick lagNs : Nat) (own : Seal) (cell : Nat) (s : State) : Out :=
  let s := s.advance dt
  if !s.inStep then .next s
  else
    match s.twin.seals.find? fun x => x.tick = tick with
    | none => .next s
    | some sl =>
      let s := s.setSat R.TWIN_LAG_LAST_NS lagNs
      let s := s.compareScope 1 cell tick (sl.out = own.out)
      let s := match sl.frame with | some f => s.compareScope 2 0 tick (some f = own.frame) | none => s
      let s := match sl.helm with | some h => s.compareScope 3 0 tick (some h = own.helm) | none => s
      let s : State := { s with twin := { s.twin with seals := s.twin.seals.filter fun x => x.tick ≠ tick } }
      if 9000 < lagNs then .next (s.lagOver lagNs)
      else .next ({ s with twin := { s.twin with lagRun := 0 } }.set R.TWIN_STAT_PEER_OK_OUT 1)

/-- TICK_LAG_EXCEEDED (R358): a replay passes 9 µs. -/
def execTickLagExceeded (dt lagNs : Nat) (s : State) : Out :=
  let s := s.advance dt
  if s.inStep && 9000 < lagNs then .next ((s.setSat R.TWIN_LAG_LAST_NS lagNs).lagOver lagNs) else .next s

/-- STANDBY_LAG_LIMIT (R358): three consecutive ticks over the limit are a device fault of the watchdog kind. [Log DEDUCED: 192] -/
def execStandbyLagLimit (dt : Nat) (s : State) : Out :=
  let s := s.advance dt
  if s.inStep && 3 ≤ s.twin.lagRun then
    let s := s.record { code := 0x1108, items := [(2, s.get R.TWIN_LAG_LAST_NS), (2, min 65535 s.twin.lagRun)], key := 0 }
    .next (s.deviceFault 8 0xFFFF)
  else .next s

/-- Lanes as a mask: 1 lane 0, 2 lane 1 (R372). -/
def laneBit (lane : Nat) : Nat := if lane = 0 then 1 else 2

/-- LANE_DOWN (R353, R367, R368): with one lane left, TWIN-LANE; with none, the link is silent: a standby whose ACTIVE_IN reads
high detaches, an active is unpaired. -/
def execLaneDown (dt lane : Nat) (activeIn : Bool) (s : State) : Out :=
  let s := (s.advance dt).setB R.TWIN_STAT_ACTIVE_IN activeIn
  let l := s.get R.TWIN_STAT_LANES
  if l &&& laneBit lane = 0 then .next s
  else
    let l' := l ^^^ laneBit lane
    let s := (s.set R.TWIN_STAT_LANES l').incSat R.TWIN_LINK_LANE_DOWNS
    let s := (s.evt R.TWIN_EVT_LANE).alarm 0x1109 lane [(1, lane)]
    if l' ≠ 0 then .next s
    else
      let s : State := { s with twin := { s.twin with silentAt := some s.now } }
      if s.isActive then (if s.isPaired then .next (s.becomeUnpaired 3) else .next s)
      else if s.inStep && activeIn then .next (s.detach 1)
      else if s.get R.TWIN_STAT_STATE = 3 && s.mode ≠ 1 then .next (s.detach 2)
      else .next s

/-- LANE_RETRAIN (R353): every 100 ms a down lane is retrained. -/
def execLaneRetrain (dt lane : Nat) (up : Bool) (s : State) : Out :=
  let s := s.advance dt
  let l := s.get R.TWIN_STAT_LANES
  if !up || l &&& laneBit lane ≠ 0 then .next s
  else
    let s : State := { s.set R.TWIN_STAT_LANES (l ||| laneBit lane) with twin := { s.twin with silentAt := none } }
    if (findAlarm s.alarms 0x1109 lane).isSome then .next (s.clearAlarm 0x1109 lane [(1, lane)]) else .next s

/-- The takeover condition of R364; after a sideband time-out the standby takes over with the lines still high.
[Log DEDUCED: 180] -/
def State.takeoverDue (s : State) (activeInLowNs peerOkLowNs : Nat) : Bool :=
  let gaveUp := s.twin.giveUpRxAt.isSome
  let timeout := match s.twin.giveUpRxAt with | some t => decide (t + 20000 ≤ s.now) | none => false
  let silent := match s.twin.silentAt with | some t => decide (t + 5000 ≤ s.now) | none => false
  (gaveUp && (1000 ≤ activeInLowNs || 1000 ≤ peerOkLowNs || (timeout && s.flag R.TWIN_STAT_SIDEBAND_FAULT))) ||
  (silent && 1000 ≤ activeInLowNs && 1000 ≤ peerOkLowNs)

/-- TAKEOVER (R364 to R366): an IN-STEP standby drives from its own state. The tick after the last one replayed was never sealed; the
one that begins now is the takeover tick. `missed` are the cells whose run fell in the last
unsealed tick. [Log DESIGN CHOICE: 59; DEDUCED: 180] -/
def execTakeover (dt activeInLowNs peerOkLowNs : Nat) (missed : List Nat) (s : State) : Out :=
  let s := s.advance dt
  if !s.inStep || !s.flag R.TWIN_STAT_PEER_OK_OUT || !s.takeoverDue activeInLowNs peerOkLowNs then .next s
  else
    let via := if s.twin.giveUpRxAt.isSome then 0 else 1
    let s := (s.endTicks (s.tick + 1)).lullExit 13
    let s := ((s.set R.TWIN_STAT_ACTIVE_OUT 1).set R.MODE_STAT_ACTIVE 1).set R.TWIN_STAT_STATE 0
    let s := ((s.set R.TWIN_HO_CAUSE (if via = 0 then s.twin.giveUpCause else 0)).set R.TWIN_HO_GAINED 1).set R.TWIN_HO_VIA via
    let s := (s.setSat R.TWIN_HO_WAIT_NS activeInLowNs).inc R.TWIN_COUNT_HANDOVERS
    let mask := (missed.map fun c => 2 ^ c).sum
    let s : State := { s with
      outHeld := s.mode = 1, time := { s.time with takeoverAt := some s.now }, tick := s.tick + 1
      twin := { s.twin with hoTick := s.tick + 2, giveUpRxAt := none, records := [], seals := [] } }
    let s := missed.foldl (fun (s : State) c => s.handoverMiss c) s
    let s := (s.evt R.TWIN_EVT_HANDOVER).record
      { code := 0x1104, items := [(1, via), (2, s.get R.TWIN_HO_WAIT_NS), (8, s.twin.hoTick), (6, mask)], key := 1 }
    let s := ((((s.ppsNext).canTakeover).ethTakeover).hartHandover).yuzTakeover
    .next (s.unpairedAlarm (if via = 0 then 1 else 3))

/-- TWIN-SIDEBAND is raised (R364). -/
def State.sidebandAlarm (s : State) (gaveUp : Bool) : State :=
  ((s.set R.TWIN_STAT_SIDEBAND_FAULT 1).evt R.TWIN_EVT_SIDEBAND).alarm 0x110A 0xFFFF
    [(1, s.get R.TWIN_STAT_ACTIVE_IN), (1, s.get R.TWIN_STAT_PEER_OK_IN), (1, if gaveUp then 1 else 0)]

/-- SIDEBAND_TIMEOUT (R364): GIVE-UP has arrived and both inputs still read high 20 µs later: TWIN-SIDEBAND, and the next boundary
is a takeover. -/
def execSidebandTimeout (dt : Nat) (s : State) : Out :=
  let s := s.advance dt
  match s.twin.giveUpRxAt with
  | some t =>
    if s.inStep && t + 20000 ≤ s.now then
      .next (((s.set R.TWIN_STAT_ACTIVE_IN 1).set R.TWIN_STAT_PEER_OK_IN 1).sidebandAlarm true)
    else .next s
  | none => .next s

/-- SIDEBAND_DISAGREE (R364): the inputs disagree for 100 µs without a GIVE-UP: TWIN-SIDEBAND, and no takeover. -/
def execSidebandDisagree (dt : Nat) (activeIn peerOkIn : Bool) (s : State) : Out :=
  let s := s.advance dt
  let s := (s.setB R.TWIN_STAT_ACTIVE_IN activeIn).setB R.TWIN_STAT_PEER_OK_IN peerOkIn
  if s.twin.giveUpRxAt = none && activeIn != peerOkIn && !s.isActive then .next (s.sidebandAlarm false) else .next s

/-- PEER_OK_LOW_TIMEOUT (R368): PEER_OK_IN low for 1 ms leaves the active unpaired; a shorter dip is counted and recorded.
[Log DEDUCED: 191] -/
def execPeerOkLowTimeout (dt lowNs : Nat) (s : State) : Out :=
  let s := s.advance dt
  if !(s.isActive && s.isPaired) then .next s
  else if lowNs < 1000000 then
    .next ((s.incSat R.TWIN_LAG_OK_DIPS).record { code := 0x1105, items := [(1, 4)] })
  else .next ((s.set R.TWIN_STAT_PEER_OK_IN 0).becomeUnpaired 4)

/-- A difference beyond its plausibility parameter (R361): 0.01 % of full scale, counts, cm, or a pin mask. -/
def State.plausBreach (s : State) (cls : Nat) (diff : Rat) : Bool :=
  match cls with
  | 0 => decide (s.man.plausConv * 100 < diff)
  | 1 => decide ((s.man.plausEnc : Rat) < diff)
  | 2 => decide (s.man.plausPos * 100 < diff)
  | _ => s.man.plausPins && decide (diff ≠ 0)

/-- TWIN_PLAUS (R361): a breach that lasts PLAUS_T raises TWIN-PLAUS; PLAUS_T without one clears it. Nothing computed changes. -/
def execTwinPlaus (dt cls idx : Nat) (diff : Rat) (heldNs : Nat) (s : State) : Out :=
  let s := s.advance dt
  let b := cls * 64 + idx
  let s := s.setU R.TWIN_PLAUS_STAT_DIFF diff b
  let items := [(1, cls), (1, idx), (3, s.get R.TWIN_PLAUS_STAT_DIFF b)]
  if heldNs < s.man.plausT * 1000000 then .next s
  else if s.plausBreach cls diff then
    .next ((((s.set R.TWIN_PLAUS_STAT_ALARM 1 b).set R.TWIN_STAT_PLAUS_ALARM 1).evt R.TWIN_EVT_PLAUS).alarm 0x110B b items 2)
  else if s.flag R.TWIN_PLAUS_STAT_ALARM b then
    let s := s.set R.TWIN_PLAUS_STAT_ALARM 0 b
    let more := (List.range 256).any fun x => s.flag R.TWIN_PLAUS_STAT_ALARM x
    .next ((s.setB R.TWIN_STAT_PLAUS_ALARM more).clearAlarm 0x110B b items 2)
  else .next s

/-- TWIN_HO_TICK_LO_READ (R372): returns the low word of the takeover tick and latches the high one. -/
def execTwinHoTickLoRead (dt : Nat) (port : Port) (s : State) : Out :=
  let s := s.advance dt
  let s := s.set R.TWIN_HO_TICK_HI_TICK_HI (s.twin.hoTick / 2 ^ 32)
  let v := s.twin.hoTick % 2 ^ 32
  .next (match port with
    | .pcie => { s with pcie := { s.pcie with rdata := v } }
    | .spi => { s with spi := { s.spi with rdata := v } })

end Sys2Proof.Machine
end

