-- ==== Sys2Proof/Machine/Frame.lean ====
section
/-!
DEFINITION. The grid of R37: what a loop tick, a frame boundary and a helm-cycle boundary do in every block; the guards of mode
commands; and the commands that a standby takes from the active.
-/

namespace Sys2Proof.Machine

open Sys2Proof

/-- The tick grid runs: from RUN-IN on, in every mode but DORMANT (R37, R45). -/
def State.gridRuns (s : State) : Bool := 2 ≤ s.mode || (s.mode = 1 && s.get R.MODE_STAT_PHASE = 8)

/-- The device is a standby that replays the active's ticks, receives its snapshot, or has detached: no tick is its own (R356, R358,
R367). -/
def State.replays (s : State) : Bool := !s.isActive && 3 ≤ s.get R.TWIN_STAT_STATE && s.get R.TWIN_STAT_STATE ≤ 5

/-- The bytes of a list of inputs in a tick's records (R357). [Log DEDUCED: 183] -/
def inputBytes (l : List Input) : Nat := (l.map Input.bytes).sum

/-- The bytes of a tick's records that no inbound write makes (R357): ENC of 6 interfaces, PINS of 10 updates, CLP, TIME and SEAL, and
the CONV and STEP records counted since the last tick. [Log DEDUCED: 183] -/
def State.fixedBytes (s : State) : Nat :=
  72 + (if s.get R.DEV_GRADE_GRADE = 2 then 240 else 80) + 12 * s.man.clp.chs.length + 64 + s.twin.tickBytes

/-- The addresses of the points that some committed buffers write. -/
def State.commitAddrs (s : State) (l : List Input) : List Nat :=
  l.filterMap fun x => match x with | .point i .. => (s.ptCfg i).map (·.addr) | .env .. => none | .host .. => none

/-- The inputs of the tick that ends take effect, within the bytes that one tick may carry (R358); TWIN_LOAD shows them.
[Log DEDUCED: 182] -/
def State.endTick (s : State) : State :=
  let box := s.inbox
  let fixed := s.fixedBytes
  let s := s.applyInputs (6144 - fixed) box
  let used := fixed + (inputBytes box - inputBytes s.inbox)
  let s := (s.setSat R.TWIN_LOAD_LAST_BYTES used).setSat R.TWIN_LOAD_MAX_BYTES (max used (s.get R.TWIN_LOAD_MAX_BYTES))
  { s with twin := { s.twin with tickBytes := 0 } }

/-- LOOP_TICK (R37, R39, R107, R245, R358, R408, R429): the tick number advances, the ended tick's inputs take effect, committed
buffers swap, each block does its work, and ON_WRITE frames are queued. `moved` gives the encoder edges since the last tick, `clp` the
current (mA) and V_PT (V) samples of the current loops, `txing` the mailboxes with an attempt on their bus. A standby in step only
keeps its grid; the tick's work is done when its SEAL is replayed. -/
def execLoopTick (dt : Nat) (moved : List (Nat × Int)) (clp : List (Nat × Rat × Rat)) (txing : List (Nat × Nat)) (s : State) : Out :=
  let s := s.advance dt
  if !s.gridRuns then .next s
  else
    let s := txing.foldl (fun (s : State) x => if s.mbStatus x.1 x.2 = 1 then s.setMb x.1 x.2 2 else s) s
    if s.replays then .next s.gridTick
    else
      let s : State := { s with tick := s.tick + 1 }
      let s := if s.pwr.l3 = 1 || s.pwr.l3 = 2 then s else s.endTick
      let done := s.commits
      let s := ({ s with commits := [] } : State).swapIn done
      let s := (s.gridTick).tickWork moved clp
      let addrs := s.commitAddrs done
      if addrs = [] then .next s else .next ((s.canOnWrite addrs).ethOnWrite addrs)

/-! ### Guards (R53, R62) -/

/-- The thrusters that the waiting mode command asks for (R53). [Log DEDUCED: 103] -/
def State.thrNeeded (s : State) : Nat :=
  match s.mnf.pendingMode with
  | some p => if p.target = 4 then s.man.alloc.minPassage else s.man.alloc.minStation
  | none => s.man.alloc.minStation

/-- MODE_GUARD shows the guards as they stand. [Log DEDUCED: 30, 103] -/
def State.refreshGuards (s : State) : State :=
  let q := s.get R.EST_STAT_POS_QUAL
  let hdg := s.man.estSlots.any fun e =>
    slotKind e.1 = 1 && s.slotStatus e.1 = 3 && s.get R.EST_SRC_STAT_LAST_QUAL e.1 = Quality.good.code
  let missed := s.alloc.missAt.any fun c => decide (s.helm.cycle ≤ c + 3)
  let s := (s.setB R.MODE_GUARD_POS_OK (q ≤ 1 && !s.lullWarming)).setB R.MODE_GUARD_HDG_OK (hdg && !s.lullWarming)
  let s := (s.setB R.MODE_GUARD_THR_OK (s.thrNeeded ≤ s.get R.ALLOC_STAT_AVAIL)).setB R.MODE_GUARD_SOLVER_OK (!missed)
  let s := (s.setB R.MODE_GUARD_MFN_IDLE s.fnsIdle).setB R.MODE_GUARD_THR_ZERO s.thrZero
  s.setB R.MODE_GUARD_SAFE_CLEAR (!s.flag R.THRM_STAT_AT_HARD && !s.flag R.THRM_STAT_BROKEN_OVER)

/-! ### Frame boundaries -/

/-- Staleness (R36): a written point whose last write lies more than STALE_MS before the boundary reads STALE until its next write. -/
def State.staleness (s : State) : State :=
  { s with pts := s.pts.map fun e =>
      match s.man.points[e.1]? with
      | some c =>
        if c.staleMs ≠ 0 && e.2.written && e.2.at_ + c.staleMs * 1000000 < s.now then (e.1, { e.2 with stale := true }) else e
      | none => e }

/-- TIME_UNC and TIME_HOLD in holdover (R105). [Log DEDUCED: 53] -/
def State.holdFrame (s : State) : State :=
  if s.timeState ≠ 2 then s
  else
    let t : Rat := ((s.now - s.time.holdAt : Nat) : Rat) / 1000000000
    (s.setU R.TIME_UNC_NS (holdUnc s.time.u0 s.man.oscStab s.man.oscAging t)).setSat R.TIME_HOLD_S ((s.now - s.time.holdAt) / 1000000000)

/-- The writers of the frame points (R264, R282, R301, R324, R348). -/
def State.framePoints (s : State) : State :=
  (((((s.adcFrame).cellsFrame).fnsFrame).clpFrame).stepFrame).islFrame

/-- FRAME_BOUNDARY (R36, R40, R74, R142): at a tick that begins a frame. In LULL3 the frame points, the staleness check and the
estimator are suspended (R378). -/
def execFrameBoundary (dt : Nat) (s : State) : Out :=
  let s := s.advance dt
  if !s.gridRuns || s.tick % 1000 ≠ 0 then .next s
  else
    let s := ((s.lullResume).applyNodes).holdFrame.utcUpdate
    let s := if s.pwr.l3 ≠ 0 then s else ((((s.framePoints).staleness).estFrame).followFrame)
    .next ((s.lullFrame).refreshGuards)

/-! ### Helm-cycle boundaries -/

/-- A mode command takes effect (R50, R52 to R55, R57). -/
def State.modeTake (s : State) (target : Nat) : State :=
  match target with
  | 0 => s.dormantEnter
  | 5 => s.safeEnter 8 0
  | _ => (s.enterMode target).helmModeEnter target

/-- The waiting mode command is judged at its boundary (R52, R53). [Log DEDUCED: 29] -/
def State.modeDue (s : State) : State :=
  match s.mnf.pendingMode with
  | none => s
  | some p =>
    let s := s.clearPending
    match transGuards s.mode p.target with
    | none => s.modeResult 4 p.target p.tag p.src p.keyId s.guards
    | some m =>
      if s.guards &&& m = m then (s.modeResult 2 p.target p.tag p.src p.keyId 0).modeTake p.target
      else s.modeResult 3 p.target p.tag p.src p.keyId s.guards

/-- HELM_CYCLE_BOUNDARY (R41, R52, R172, R198, R206, R389): mode commands, then parameters, the Forecaster's plan, law and setpoint
commands, and the release of the cycle before. [Log DEDUCED: 186] -/
def execHelmCycleBoundary (dt : Nat) (plan : List (List Rat)) (past : List Rat) (s : State) : Out :=
  let s := s.advance dt
  if !s.gridRuns || s.tick % 5000 ≠ 0 then .next s
  else
    let s := ((s.helmCycle).refreshGuards).modeDue
    if s.mode = 0 then .next s
    else
      let s := s.applyParams
      if s.pwr.l3 ≠ 0 then .next s
      else .next (((((s.fcPlan plan past).helmBoundary).allocBoundary).setScenarios).refreshGuards)

/-! ### Commands of the active (R357) -/

/-- The setpoint of a COMMAND record: two lengths in mm, heading, track, heading mode, speed, and the route in pairs. -/
def pairUp : List Int → List (Int × Int)
  | a :: b :: t => (a, b) :: pairUp t
  | _ => []

def cmdSp (kind : Nat) (a : List Int) : SpVal :=
  { kind := kind, a := a.getD 0 0, b := a.getD 1 0, hdg := a.getD 2 0, track := (a.getD 3 0).toNat, hdgFixed := a.getD 4 0 = 1,
    speed := (a.getD 5 0).toNat, route := pairUp (a.drop 6) }

/-- Acknowledgement of alarm entries (R462, 0x0101): RAISED-UNACK becomes RAISED-ACK, CLEARED-UNACK becomes FREE.
[Log DEDUCED: 251] -/
def State.alarmAckOne (s : State) (n keyId : Nat) : State :=
  match tfind s.alarms n with
  | some a =>
    if a.st = 1 then ({ s with alarms := tput s.alarms n { a with st := 2 } } : State).alarmEnv n 2 2 a .operator keyId
    else if a.st = 3 then ({ s with alarms := tdel s.alarms n } : State).alarmEnv n 0 3 a .operator keyId
    else s
  | none => s

/-- The record of an acknowledgement. [Log DEDUCED: 251] -/
def State.alarmAckNote (s : State) (entry code source keyId : Nat) : State :=
  s.record { code := 0x0101, role := .operator, keyId := keyId,
             items := [(2, entry), (2, code), (2, source), (1, Role.operator.code), (2, keyId)] }

/-- An accepted command of the active takes the same way here, without a judgement of its own (R52, R260, R357, R379, R392). The
block is its identifier of R479. [Log DEDUCED: 181, 200, 203] -/
def State.commandRec (s : State) (c : CmdRec) : State :=
  let k := c.keyId
  let arg := fun (n : Nat) => (c.args.getD n 0).toNat
  match c.block with
  | 0x01 =>
    match findAlarm s.alarms (arg 0) (arg 1) with
    | some (n, a) => ((s.alarmAckNote n a.code a.source k).alarmAckOne n k)
    | none => s
  | 0x02 =>
    let s := (s.endPending 6 0).modeResult 1 c.target c.tag c.src k 0
    ({ s with mnf := { s.mnf with pendingMode := some ⟨c.target, c.tag, c.src, k, s.log.head⟩ } } : State).set R.MODE_STAT_PENDING 1
  | 0x03 => { s with mnf := { s.mnf with tunePending := s.mnf.tunePending ++ [(c.target, c.args.getD 0 0, c.keyId)] } }
  | 0x07 =>
    let s := s.slotCmdRecord c.target c.kind 1 k
    { s with est := { s.est with cmds := s.est.cmds ++ [⟨c.target, c.kind, s.now, k, s.log.head⟩] } }
  | 0x08 =>
    let h : HelmCmd := ⟨c.kind, c.target, c.tag, c.role, k, 0⟩
    if c.kind = 0 then
      let s := (s.endLaw 6).helmResult 1 h
      { s with helm := { s.helm with lawPend := some { h with seq := s.log.head } } }
    else
      let s := (s.endSp 6).helmResult 1 h
      { s with helm := { s.helm with spPend := some ({ h with seq := s.log.head }, cmdSp c.target c.args) } }
  | 0x09 => { s with alloc := { s.alloc with cmds := s.alloc.cmds ++ [⟨c.target, c.kind, k⟩] } }
  | 0x0B =>
    if c.kind = 2 then s.injStop c.target 4
    else
      let t : InjSt := { shape := arg 0, out := arg 1 = 1, linear := arg 2 = 1, order := arg 3, bitRuns := arg 4, amp := c.args.getD 5 0,
                         f0 := arg 6, f1 := arg 7, dur := arg 8, keyId := k, at_ := s.now, reg := 2 ^ arg 3 - 1, left := arg 4 }
      (s.putCell c.target { s.cell c.target with test := some t }).set R.LOOP_INJ_CMD_RESULT 1 c.target
  | 0x0C => s.fnAccept c.kind c.target c.tag k
  | 0x0F =>
    let p : Port := match c.src with | .host p => p | .point _ => .pcie
    let w : StepCmd := { cmd := c.kind, ch := c.target, tag := c.tag, arg := c.args.getD 0 0, port := p, keyId := k, at_ := s.now }
    ({ s with step := { s.step with cmds := s.step.cmds ++ [w] } } : State).stepResult c.target c.kind c.tag 1 (1 + p.code) k
  | 0x10 => s.cvCommit (arg 0) k
  | 0x12 =>
    match c.kind with
    | 1 => s.lullEnter true
    | 2 => s.lullExit c.target
    | _ => s.fcFollow (min 8 c.target)
  | _ => s

/-- COMMAND_RECORD_RECEIVE (R50, R357): the active takes none. -/
def execCommandRecordReceive (dt : Nat) (c : CmdRec) (s : State) : Out :=
  let s := s.advance dt
  if s.isActive then .next s else .next (s.commandRec c)

end Sys2Proof.Machine
end

