-- ==== Sys2Proof/Machine/Gnss.lean ====
section
/-!
DEFINITION. The dual-frequency satellite receiver (R119 to R135).
-/

namespace Sys2Proof.Machine

open Sys2Proof

/-- A band is faulted: its clock is absent, or more than 1 ppm off (R120). -/
def bandBad : Option Int → Bool
  | none => true
  | some p => decide (1000 < p.natAbs)

/-- GNSS_STAT's band bits, and STATE FAULT where both are faulted (R134). [Log DEDUCED: 69] -/
def State.bandBits (s : State) : State :=
  let st := s.get R.GNSS_STAT_STATE
  let run := st ≠ 0 && st ≠ 4
  let s := (s.setB R.GNSS_STAT_L1_OK (run && !s.gnss.fault1)).setB R.GNSS_STAT_L5_OK ((run && !s.gnss.fault5) || !s.man.gnssDual)
  if s.gnss.fault1 && (s.gnss.fault5 || !s.man.gnssDual) && st ≠ 0 && st ≠ 4 then s.set R.GNSS_STAT_STATE 5
  else if st = 5 then s.set R.GNSS_STAT_STATE 1 else s

/-- The channels of a band stop. [Log DESIGN CHOICE: 68] -/
def State.stopChannels (s : State) (band : Nat) : State :=
  (List.range 48).foldl (fun (s : State) c => s.set R.GNSS_CH_STAT_LOCK 0 (c + 64 * band)) s

/-- The counts of tracking channels (R134). -/
def State.recount (s : State) : State :=
  let n := fun b => ((List.range 48).filter fun c => 2 ≤ s.get R.GNSS_CH_STAT_LOCK (c + 64 * b)).length
  (s.set R.GNSS_TRK_L1_TRK (n 0)).set R.GNSS_TRK_L5_TRK (n 1)

/-- The record of a band's fault or recovery (R135): band 0 L1, 1 L5, its sample clock and RATIO_PPB as GNSS_FE_STAT shows them. -/
def State.bandRecord (s : State) (band : Nat) (scriptOk : Bool) : State :=
  s.record { code := 0x0603, source := band,
             items := [(1, band), (1, s.get (if band = 0 then R.GNSS_FE_STAT_L1_CLK else R.GNSS_FE_STAT_L5_CLK)),
                       (3, s.get R.GNSS_FE_STAT_RATIO_PPB), (1, if scriptOk then 1 else 0)], key := 2 }

/-- A band faults or recovers (R120). -/
def State.setBand (s : State) (band : Nat) (bad : Bool) (scriptOk : Bool) : State :=
  let was := if band = 0 then s.gnss.fault1 else s.gnss.fault5
  let s : State := if band = 0 then { s with gnss := { s.gnss with fault1 := bad } } else { s with gnss := { s.gnss with fault5 := bad } }
  if bad && !was then
    let s : State := if band = 0 then { s with gnss := { s.gnss with faultAt1 := s.now } } else { s with gnss := { s.gnss with faultAt5 := s.now } }
    let s := ((s.stopChannels band).recount).bandBits
    (s.evt R.GNSS_EVT_FE_FAULT).bandRecord band scriptOk
  else if was && !bad then (s.bandBits).bandRecord band scriptOk
  else s.bandBits

/-- FE_CLOCK_MEASURE (R120): each sample clock against TCXO_IN over 1 s, as an error in ppb; none where it is absent.
[Log DEDUCED: 69] -/
def execFeClockMeasure (dt : Nat) (l1 l5 : Option Int) (s : State) : Out :=
  let s := s.advance dt
  let st := s.get R.GNSS_STAT_STATE
  if st = 0 || st = 4 then .next s else
  let a := l1.getD 0
  let b := if s.man.gnssDual then l5.getD 0 else 0
  let s := s.setI R.GNSS_FE_STAT_RATIO_PPB (if a.natAbs < b.natAbs then b else a)
  let s := (s.setB R.GNSS_FE_STAT_L1_CLK l1.isSome).setB R.GNSS_FE_STAT_L5_CLK l5.isSome
  let s := if bandBad l1 then s.setBand 0 true true else s.setBand 0 s.gnss.fault1 true
  .next (if s.man.gnssDual then (if bandBad l5 then s.setBand 1 true true else s.setBand 1 s.gnss.fault5 true) else s)

/-- BAND_RETRY (R120, R121): a faulted band is tried again every 10 s. -/
def execBandRetry (dt band : Nat) (ppb : Option Int) (scriptOk : Bool) (s : State) : Out :=
  let s := s.advance dt
  let faulted := if band = 0 then s.gnss.fault1 else s.gnss.fault5
  let since := if band = 0 then s.gnss.faultAt1 else s.gnss.faultAt5
  if !faulted || s.now < since + 10000000000 then .next s else
  let s := s.setB (if band = 0 then R.GNSS_FE_STAT_L1_CLK else R.GNSS_FE_STAT_L5_CLK) ppb.isSome
  if bandBad ppb || !scriptOk then
    .next (if band = 0 then { s with gnss := { s.gnss with faultAt1 := s.now } } else { s with gnss := { s.gnss with faultAt5 := s.now } })
  else .next ((s.set R.GNSS_FE_STAT_SCRIPT_ERR 0).setBand band false true)

/-- Age of the retained ephemeris in minutes. -/
def State.ephAge (s : State) : Nat := match s.gnssRet with | some r => (s.pm.sec - r.ephSec) / 60 | none => 65535

/-- The start kind (R132): 1 hot, 2 warm, 3 cold. [Log DEDUCED: 63] -/
def State.startKind (s : State) : Nat :=
  match s.gnssRet with
  | none => 3
  | some r =>
    if s.gnss.coldReq then 3
    else if s.ephAge < 240 && s.flag R.TIME_STAT_RTC_VALID then 1
    else if r.almanac then 2 else 3

/-- GNSS_START (R121, R132): the GNSS domain powers up, the front-end scripts are written and read back, and the start kind is
decided. -/
def execGnssStart (dt : Nat) (script1 script5 : Bool) (s : State) : Out :=
  let s := s.advance dt
  let st := s.get R.GNSS_STAT_STATE
  if !(st = 0 || st = 1) || s.mode = 0 then .next s
  else
    let k := s.startKind
    let s := (s.set R.GNSS_STAT_STATE 2).set R.GNSS_STAT_START_KIND k
    let s := (s.setB R.GNSS_STAT_RETAIN_OK s.gnssRet.isSome).setSat R.GNSS_EPH_AGE_START_MIN s.ephAge
    let s := s.setB R.GNSS_FE_STAT_SCRIPT_ERR (!script1 || (s.man.gnssDual && !script5))
    let s : State := { s with gnss := { s.gnss with
      solsRun := 0, firstDone := false, coldReq := false, poweredAt := if st = 0 then s.now else s.gnss.poweredAt } }
    let s := if script1 then s.setBand 0 s.gnss.fault1 true else s.setBand 0 true false
    let s := if script5 || !s.man.gnssDual then s.setBand 1 s.gnss.fault5 true else s.setBand 1 true false
    .next (s.record { code := 0x0601, items := [(1, k), (2, min 65535 s.ephAge)], key := 1 })

/-- ACQUISITION_DONE (R119, R123): a search ends; a found satellite is tracked, and one that broadcasts in the L5 band gets an
L5-band channel at the Doppler scaled by 115/154. Direct search in the L5 band takes place only while the L1 band is faulted.
[Log DESIGN CHOICE: 68; DEDUCED: 69] -/
def execAcquisitionDone (dt band ch constel prn : Nat) (found : Bool) (doppler : Int) (cn0 : Nat) (l5Ch : Option Nat)
    (s : State) : Out :=
  let s := s.advance dt
  let b := ch + 64 * band
  let st := s.get R.GNSS_STAT_STATE
  if 48 ≤ ch || !(st = 2 || st = 3) || (band = 1 && !s.gnss.fault1) || (band = 0 && s.gnss.fault1) then .next s
  else if !found then .next ((s.set R.GNSS_CH_STAT_LOCK 0 b).recount)
  else
    let s := ((s.set R.GNSS_CH_STAT_CONSTEL constel b).set R.GNSS_CH_STAT_PRN prn b).set R.GNSS_CH_STAT_LOCK 2 b
    let s := (s.set R.GNSS_CH_STAT_CN0 cn0 b).setI R.GNSS_CH_DOP_MHZ doppler b
    let s : State := { s with gnss := { s.gnss with reacqAt := tdel s.gnss.reacqAt b, wide := s.gnss.wide.filter (· ≠ b) } }
    let s := match l5Ch with
      | some c =>
        if band = 0 && c < 48 && s.man.gnssDual && !s.gnss.fault5 then
          let b5 := c + 64
          let s := ((s.set R.GNSS_CH_STAT_CONSTEL constel b5).set R.GNSS_CH_STAT_PRN prn b5).set R.GNSS_CH_STAT_LOCK 2 b5
          s.setQ R.GNSS_CH_DOP_MHZ ((doppler : Rat) * 115 / 154) b5
        else s
      | none => s
    .next s.recount

/-- SATELLITE_LOCK_LOSS (R123): the narrow re-acquisition starts. -/
def execSatelliteLockLoss (dt band ch : Nat) (s : State) : Out :=
  let s := s.advance dt
  let b := ch + 64 * band
  if s.get R.GNSS_CH_STAT_LOCK b < 2 then .next s
  else
    let s := s.set R.GNSS_CH_STAT_LOCK 1 b
    .next { s.recount with gnss := { s.gnss with reacqAt := tput s.gnss.reacqAt b s.now, wide := s.gnss.wide.filter (· ≠ b) } }

/-- REACQ_WIDEN (R123): after 10 s of narrow search the wide search. -/
def execReacqWiden (dt band ch : Nat) (s : State) : Out :=
  let s := s.advance dt
  let b := ch + 64 * band
  match tfind s.gnss.reacqAt b with
  | some t =>
    if t + 10000000000 ≤ s.now && s.get R.GNSS_CH_STAT_LOCK b = 1 && b ∉ s.gnss.wide then
      .next { s with gnss := { s.gnss with wide := b :: s.gnss.wide } }
    else .next s
  | none => .next s

/-- The constellations used, as a mask, and how many (R125, R134). -/
def constMask (l : List GnssSat) : Nat :=
  (if l.any (·.constel = 0) then 1 else 0) + (if l.any (·.constel = 1) then 2 else 0) + (if l.any (·.constel = 2) then 4 else 0)

def constCount (l : List GnssSat) : Nat :=
  (if l.any (·.constel = 0) then 1 else 0) + (if l.any (·.constel = 1) then 1 else 0) + (if l.any (·.constel = 2) then 1 else 0)

/-- The tracking channels of the satellites in the solution read as used (R134). -/
def State.markUsed (s : State) (l : List GnssSat) : State :=
  ((List.range 48) ++ (List.range 48).map (· + 64)).foldl (fun (s : State) b =>
    if 2 ≤ s.get R.GNSS_CH_STAT_LOCK b then
      s.set R.GNSS_CH_STAT_LOCK (if l.any fun x => x.constel = s.get R.GNSS_CH_STAT_CONSTEL b && x.prn = s.get R.GNSS_CH_STAT_PRN b then 3 else 2) b
    else s) s

/-- The epoch gives a solution (R125). -/
def solOk (x : GnssSol) : Bool := x.testOk && decide (3 + constCount x.used ≤ x.used.length)

/-- FIX is left for NO-FIX. [Log DEDUCED: 67] -/
def State.fixLost (s : State) : State :=
  let s : State := { s with gnss := { s.gnss with solsRun := 0, sol := none } }
  if s.get R.GNSS_STAT_STATE = 3 then
    ((s.set R.GNSS_STAT_STATE 2).evt R.GNSS_EVT_FIX_LOST).record
      { code := 0x0602, items := [(1, s.get R.GNSS_TRK_USED), (4, s.get R.GNSS_SOL_SEQ_SEQ)], key := 0 }
  else s

/-- GNSS_EPOCH (R125): the least-squares solution with at most one exclusion; without one no message is written.
[Log DESIGN CHOICE: 10; DEDUCED: 64, 67] -/
def execGnssEpoch (dt : Nat) (sol : GnssSol) (s : State) : Out :=
  let s := s.advance dt
  let st := s.get R.GNSS_STAT_STATE
  if !(st = 2 || st = 3) then .next s
  else
    let s := match sol.excluded with
      | some (x, r) => s.record { code := 0x0605, items := [(1, x.constel), (1, x.prn), sItem 4 r], key := 2 }
      | none => s
    if solOk sol then
      let s := (s.set R.GNSS_TRK_USED sol.used.length).set R.GNSS_TRK_CONSTEL (constMask sol.used)
      let s := ((s.setB R.GNSS_STAT_IONO_FREE (sol.used.all (·.ionoFree))).set R.GNSS_EPOCH_PM_PM32 s.pm32).setSat
        R.GNSS_EPH_AGE_USED_MIN sol.ephMin
      let s := s.markUsed sol.used
      .next { s with gnss := { s.gnss with sol := some sol, epochAt := s.now, epochPm := s.pm } }
    else .next s.fixLost

/-- The quality of a position message (R128): the first condition that applies. [Log DEDUCED: 64] -/
def posQuality (solsRun : Nat) (ionoFree : Bool) (pdop pdopMax : Rat) : Quality :=
  if solsRun < 3 then .uncertain else if !ionoFree || decide (pdopMax < pdop) then .uncertain else .good

/-- The points of a message become inputs of this tick, all of one postmark and quality (R127, R358); a paired standby writes
none of its own (R133). [Log DEDUCED: 65] -/
def State.messagePoints (s : State) (base : Nat) (vals : List Nat) (pm : Pm) (q : Quality) : State :=
  if s.isPaired && !s.isActive then s
  else s.inboundAll ((vals.zipIdx.filter fun x => (s.findPt (base + x.2)).isSome).map fun x =>
    { addr := base + x.2, value := x.1, pm := pm, quality := q })

/-- POSITION_MESSAGE_WRITE (R127, R128): no later than 30 ms after its epoch, all points at one tick boundary.
[Log DEDUCED: 65, 67] -/
def execPositionMessageWrite (dt : Nat) (s : State) : Out :=
  let s := s.advance dt
  match s.gnss.sol with
  | none => .next s
  | some x =>
    let s : State := { s with gnss := { s.gnss with sol := none } }
    if s.gnss.epochAt + 30000000 < s.now then .next s
    else
      let iono := x.used.all (·.ionoFree)
      let q := posQuality s.gnss.solsRun iono x.pdop s.man.gnssPdopMax
      let seq := (s.get R.GNSS_SOL_SEQ_SEQ + 1) % 2 ^ 32
      let flags := (if iono then 1 else 0) + (if x.excluded.isSome then 2 else 0) + (if s.gnss.fault5 then 4 else 0) +
        (if s.gnss.fault1 then 8 else 0) + 16 * constMask x.used
      let vals := (List.range 9).map fun i => x.vals.getD i 0
      let s := s.messagePoints 0x09000000 (vals ++ [x.used.length, flags, q32 x.pdop, seq]) s.gnss.epochPm q
      let s := s.set R.GNSS_SOL_SEQ_SEQ seq
      let s := if s.gnss.firstDone then s else s.setSat R.GNSS_TTFF_TTFF_MS ((s.now - s.gnss.poweredAt) / 1000000)
      let s : State := { s with gnss := { s.gnss with firstDone := true, solsRun := s.gnss.solsRun + 1 } }
      if s.get R.GNSS_STAT_STATE = 3 then .next s
      else .next (((s.set R.GNSS_STAT_STATE 3).evt R.GNSS_EVT_FIX_GAINED).record
        { code := 0x0602, items := [(1, x.used.length), (4, seq)], key := 0 })

/-- TIME_PULSE_MESSAGE (R100, R129): once per second; `offset` is GNSS time minus device time in ns after ANT_DELAY. Two valid
pulses in a row that agree within 100 ns are a valid fix. -/
def execTimePulseMessage (dt : Nat) (offset : Int) (sats : Nat) (timeOk : Bool) (utcOfs : Int) (unc : Nat) (s : State) : Out :=
  let s := s.advance dt
  let st := s.get R.GNSS_STAT_STATE
  if !(st = 1 || st = 2 || st = 3) then .next s
  else
    let valid := timeOk && decide (4 ≤ sats)
    let q : Quality := if valid then .good else .uncertain
    let vals := [s.pm.sec + 1, bits64 (s.geti R.TIME_PPS_QERR_QERR), if valid then 1 else 0, bits64 offset, bits64 utcOfs, sats, unc]
    let s := s.messagePoints 0x09000100 vals s.pm q
    let prev := s.gnss.lastOffset
    let s : State := { s with gnss := { s.gnss with lastOffset := if valid then some offset else none } }
    if !valid then .next s
    else
      let s : State := if s.get R.TIME_STAT_SRC = 1 then { s with time := { s.time with utcAnnounced := some utcOfs } } else s
      match prev with
      | some o =>
        if (offset - o).natAbs ≤ 100 then .next (s.validFix 1 offset)
        else if 1 ∈ s.time.live then .next (s.srcSeen 1 offset) else .next s
      | none => if 1 ∈ s.time.live then .next (s.srcSeen 1 offset) else .next s

/-- The conditions of sleep (R130). -/
def State.maySleep (s : State) : Bool :=
  s.mode = 2 && (s.stepped || 1 ∉ s.man.srcList) && s.gnss.refreshAt.isNone && 1 ≤ s.get R.GNSS_STAT_STATE &&
  s.get R.GNSS_STAT_STATE ≠ 4

/-- GNSS_SLEEP_CMD (R130): a request that does not meet the conditions is refused and recorded. [Log DESIGN CHOICE: 66] -/
def execGnssSleepCmd (dt : Nat) (port : Port) (s : State) : Out :=
  .next ((s.advance dt).withRole port [.operator] 0x5004 fun s =>
    if s.maySleep then { s with gnss := { s.gnss with sleepReq := true } }
    else s.record { code := 0x0604, role := .operator, keyId := s.role.keyId, items := [caseItem 0x0604 2] })

/-- The receiver sleeps: retained data written, the GNSS domain off. [Log DESIGN CHOICE: 66] -/
def State.gnssSleep (s : State) (ret : GnssRet) (cause : Nat) : State :=
  let s : State := { s with gnssRet := some ret, gnss := { s.gnss with sleepReq := false, refreshAt := none, sol := none, lastOffset := none } }
  let s := ((((s.set R.GNSS_STAT_STATE 4).stopChannels 0).stopChannels 1).recount).bandBits
  (s.evt R.GNSS_EVT_SLEPT).record { code := 0x0604, items := [caseItem 0x0604 cause] }

/-- GNSS_SLEEP_ENTRY (R130): at the next epoch after the conditions hold. -/
def execGnssSleepEntry (dt : Nat) (ret : GnssRet) (s : State) : Out :=
  let s := s.advance dt
  if s.maySleep && (s.gnss.sleepReq || s.man.gnssSleepReady) then .next (s.gnssSleep ret (if s.gnss.sleepReq then 1 else 0))
  else .next s

/-- GNSS_WAKE_CMD (R131). -/
def execGnssWakeCmd (dt : Nat) (port : Port) (s : State) : Out :=
  .next ((s.advance dt).withRole port [.operator] 0x5004 fun s => s.gnssWake 1 .operator s.role.keyId)

/-- GNSS_COLD_CMD (R132): retained data is discarded and the receiver restarts cold. -/
def execGnssColdCmd (dt : Nat) (port : Port) (s : State) : Out :=
  .next ((s.advance dt).withRole port [.installer] 0x5004 fun s =>
    let s := s.gnssDiscard 1 .installer s.role.keyId
    let s := (((s.set R.GNSS_STAT_STATE 1).stopChannels 0).stopChannels 1).recount
    { s with gnss := { s.gnss with coldReq := true, sol := none, solsRun := 0, firstDone := false, poweredAt := s.now,
                                   lastOffset := none } })

/-- RETAIN_WRITE (R130): every 60 s while tracking. -/
def execRetainWrite (dt : Nat) (ret : GnssRet) (s : State) : Out :=
  let s := s.advance dt
  if s.get R.GNSS_TRK_L1_TRK + s.get R.GNSS_TRK_L5_TRK = 0 then .next s else .next { s with gnssRet := some ret }

/-- EPH_REFRESH_WAKE (R131): EPH_REFRESH minutes after the retained ephemeris was collected, a sleeping receiver wakes. -/
def execEphRefreshWake (dt : Nat) (s : State) : Out :=
  let s := s.advance dt
  if s.get R.GNSS_STAT_STATE = 4 && s.man.ephRefresh ≤ s.ephAge then
    let s := s.gnssWake 3
    .next { s with gnss := { s.gnss with refreshAt := some s.now } }
  else .next s

/-- REFRESH_END (R131): fresh ephemeris, or 60 s; the receiver sleeps again if R130 still holds. -/
def execRefreshEnd (dt : Nat) (fresh : Bool) (ret : GnssRet) (s : State) : Out :=
  let s := s.advance dt
  match s.gnss.refreshAt with
  | none => .next s
  | some t =>
    if fresh || t + 60000000000 ≤ s.now then
      let s : State := { s with gnss := { s.gnss with refreshAt := none } }
      if s.maySleep then .next (s.gnssSleep ret 3) else .next s
    else .next s

end Sys2Proof.Machine
end

