-- ==== Sys2Proof/Machine/Memory.lean ====
section
/-!
DEFINITION. The one byte-addressed buffer of the block: the 48 MiB staging area of a manifest image (R87, R92). It is a list of
cells with strictly rising addresses; an address not listed has not been written and reads as nothing.
-/

namespace Sys2Proof.Machine

/-- The canonical form: addresses strictly rise. [Log DESIGN CHOICE: 4] -/
def Memory.wf (m : List Host.Cell) : Bool := tsorted 0 m

/-- The byte at an address; none where nothing has been written. [Log DESIGN CHOICE: 35] -/
def Memory.read (m : List Host.Cell) (a : Nat) : Option (BitVec 8) := tfind m a

/-- One byte is written. [Log DESIGN CHOICE: 4, 35] -/
def Memory.write (m : List Host.Cell) (a : Nat) (b : BitVec 8) : List Host.Cell := tput m a b

/-- A word is written, its least significant byte at the lowest address. -/
def Memory.writeWord (m : List Host.Cell) (a w : Nat) : List Host.Cell :=
  Memory.write (Memory.write (Memory.write (Memory.write m a (BitVec.ofNat 8 w))
    (a + 1) (BitVec.ofNat 8 (w / 256))) (a + 2) (BitVec.ofNat 8 (w / 65536))) (a + 3) (BitVec.ofNat 8 (w / 16777216))

end Sys2Proof.Machine
end

