-- ==== Sys2Proof/Machine/Log.lean ====
section
/-!
DEFINITION. The event recorder's flushes, fetches, marks and erase (R446 to R458).
-/

namespace Sys2Proof.Machine

open Sys2Proof

/-- OPEN_RECORD_TIMEOUT (R448): 10 s after its last occurrence the open record closes. -/
def execOpenRecordTimeout (dt : Nat) (s : State) : Out :=
  let s := s.advance dt
  if s.log.isOpen && s.log.lastAt + 10000000000 ≤ s.now then .next { s with log := { s.log with isOpen := false } }
  else .next s

/-- Over 75 % of the RAM ring is unflushed (R448, R457). -/
def State.ram75 (s : State) : Bool := decide (12288 < s.log.unflushed.length)

/-- Why a flush is held (R448, R457): 1 NVM window, 2 LULL3, 3 class H shed, 4 xSPI busy with journal writes; 0 it is not.
[Log DEDUCED: 244] -/
def State.flushHold (s : State) : Nat :=
  if !s.nvmOpen then 1 else if s.get R.PWR_STAT_DEPTH = 3 then 2 else if s.classHShed && !s.ram75 then 3
  else if s.mnf.waiting ≠ [] then 4 else 0

/-- The lost marker of a SEQ (R453). -/
def lostMarker (seq : Nat) : Rec :=
  { seq := seq, pm := ⟨0, 0⟩, code := 0x1602, source := 0, role := .device, unsync := false, alarm := false, clear := false,
    keyId := 0, keyLen := 0, last := ⟨0, 0⟩, data := [] }

/-- The flash position of a SEQ (R446). -/
def flashPos (seq : Nat) : Nat := seq % 1052672

/-- The first SEQ that the writer cannot reach yet: it writes a sector only with 3 erased ones ahead of it (R447).
[Log DEDUCED: 247] -/
def State.flushEnd (s : State) : Nat := ((s.log.flushed + 1) / 1024 + (s.log.erasedAhead - 2)) * 1024

/-- The unflushed closed records that the writer can reach, newest first: the open record is left out (R448). [Log DEDUCED: 247] -/
def State.toFlush (s : State) : List Rec :=
  (if s.log.isOpen then s.log.unflushed.drop 1 else s.log.unflushed).filter fun r => decide (r.seq < s.flushEnd)

/-- A flush in progress writes records and lost markers, reads them back, and journals the ring state when the RAM ring is empty
or a sector is complete (R447, R448). [Log DEDUCED: 245, 249] -/
def State.flushNow (s : State) (readbackOk : Bool) : State :=
  let l := s.toFlush
  let top := (l.map (·.seq)).headD s.log.flushed
  if readbackOk then
    let markers := (s.log.lostSeqs.filter (· ≤ top)).map lostMarker
    let flash := (l.reverse ++ markers).foldl (fun f r => tput f (flashPos r.seq) r) s.log.flash
    let sectors := (top + 1) / 1024 - (s.log.flushed + 1) / 1024
    let s : State := { s with log := { s.log with
      flash := flash, flushed := top, lostSeqs := s.log.lostSeqs.filter (fun x => ¬ x ≤ top),
      erasedAhead := s.log.erasedAhead - sectors } }
    let s := if s.log.unflushed.length ≤ 1 || 0 < sectors then s.journalWait 4 [top] else s
    (s.lossRecord 1).lossRecord 2
  else
    let s := (s.set R.LOG_STAT_FLASH_ERR 1).evt R.LOG_EVT_FLASH_ERR
    s.alarm 0x1608 0xFFFF [(2, flashPos top / 1024), (8, top)] 1

/-- RECORDER_FLUSH (R448): held, or run; a flush that was held for 60 s and runs again is recorded. [Log DEDUCED: 208, 244] -/
def execRecorderFlush (dt : Nat) (readbackOk : Bool) (s : State) : Out :=
  let s := s.advance dt
  let why := s.flushHold
  let s := s.set R.LOG_STAT_HOLD_REASON why
  if why ≠ 0 then
    .next (if s.toFlush = [] then s else
      { s with log := { s.log with heldAt := match s.log.heldAt with | some t => some t | none => some s.now } })
  else
    let noted := s.log.heldNoted
    let s : State := { s with log := { s.log with heldAt := none, heldNoted := false } }
    let s := if noted then s.record { code := 0x1605, items := [(1, 0), (2, s.log.unflushedCount)], key := 1 } else s
    let s := if s.classHShed then s.record { code := 0x1206, items := [(2, s.log.unflushed.length)], key := 0 } else s
    if s.toFlush = [] then .next s else .next (s.flushNow readbackOk)

/-- SECTOR_ERASE_DONE (R447): the next sector in the ring is erased, where fewer than 3 ahead are. [Log DEDUCED: 247] -/
def execSectorEraseDone (dt : Nat) (s : State) : Out :=
  let s := s.advance dt
  let sec := ((s.log.flushed + 1) / 1024 + s.log.erasedAhead + 1) % 1028
  if 3 ≤ s.log.erasedAhead then .next s
  else .next { s with log := { s.log with
    erasedAhead := s.log.erasedAhead + 1, flash := s.log.flash.filter fun x => x.1 / 1024 ≠ sec } }

/-- FLUSH_HELD_TIMEOUT (R458): a flush held for 60 s is recorded. [Log DEDUCED: 244] -/
def execFlushHeldTimeout (dt : Nat) (s : State) : Out :=
  let s := s.advance dt
  match s.log.heldAt with
  | some t =>
    if t + 60000000000 ≤ s.now && !s.log.heldNoted then
      .next ({ s with log := { s.log with heldNoted := true } }.record
        { code := 0x1605, items := [(1, s.get R.LOG_STAT_HOLD_REASON), (2, s.log.unflushedCount)], key := 1 })
    else .next s
  | none => .next s

/-- LOG_FETCH_START (R454): a write of LOG_RD_SEQ_HI applies both words and starts the fetch; during a fetch it restarts it.
[Log DEDUCED: 248] -/
def execLogFetchStart (dt : Nat) (_port : Port) (hi : Nat) (s : State) : Out :=
  let s := s.advance dt
  let s := s.set R.LOG_RD_SEQ_HI_SEQ hi
  let seq := s.get R.LOG_RD_SEQ_HI_SEQ * 2 ^ 32 + s.get R.LOG_RD_SEQ_LO_SEQ
  let s : State := { s with log := { s.log with rdSeq := seq, fetchAt := some s.now } }
  .next ((s.set R.LOG_RD_STAT_BUSY 1).set R.LOG_RD_STAT_READY 0)

/-- The record that now stands at the position of a SEQ: from the RAM ring where it holds it, else from flash; none where the
position is erased or beyond the head (R454, R456). [Log DEDUCED: 248] -/
def State.recordAt (s : State) (seq : Nat) : Option Rec :=
  let r := match s.log.ram.find? fun x => x.seq = seq with
    | some r => some r
    | none => if s.log.head < seq && (tfind s.log.flash (flashPos seq)).isNone then none else tfind s.log.flash (flashPos seq)
  match r with
  | some r => if r.seq ≤ s.log.erasedTo then none else some r
  | none => none

/-- LOG_FETCH_DONE (R454): the window holds the 32 records. [Log DEDUCED: 248] -/
def execLogFetchDone (dt : Nat) (s : State) : Out :=
  let s := s.advance dt
  match s.log.fetchAt with
  | none => .next s
  | some _ =>
    let w := (List.range 32).map fun i => s.recordAt (s.log.rdSeq + i)
    let held := (w.zipIdx.filter fun x => match x.1 with | some r => decide (r.seq = s.log.rdSeq + x.2) | none => false).length
    let s : State := { s with log := { s.log with window := w, fetchAt := none } }
    .next (((s.set R.LOG_RD_STAT_BUSY 0).set R.LOG_RD_STAT_READY 1).set R.LOG_RD_STAT_HELD held)

/-- The oldest SEQ readable (R456, R457). -/
def State.oldestSeq (s : State) : Nat :=
  let all := (s.log.ram ++ s.log.hold ++ s.log.flash.map (·.2)).map (·.seq)
  let all := all.filter fun x => s.log.erasedTo < x
  if all = [] then (if s.log.erasedTo = 0 then 0 else s.log.erasedTo + 1) else all.foldl min (all.headD 0)

def State.markOfSlot (s : State) : Nat := tget s.log.marks (s.get R.LOG_MARK_SEL_SLOT) 0

/-- The 64-bit value behind a LOG _LO register (R457). -/
def State.logPair (s : State) (off : Nat) : Nat :=
  match off with
  | 0x16004 => s.log.head
  | 0x1600C => s.log.flushed
  | 0x16014 => s.oldestSeq
  | 0x16024 => s.get R.LOG_RD_SEQ_HI_SEQ * 2 ^ 32 + s.get R.LOG_RD_SEQ_LO_SEQ
  | 0x16034 => s.markOfSlot
  | 0x16048 => s.log.erasedTo
  | _ => 0

/-- What a host read returned. [Log DEDUCED: 264] -/
def State.logRead (s : State) (p : Port) (v : Nat) : State :=
  match p with
  | .pcie => { s with pcie := { s.pcie with rdata := v } }
  | .spi => { s with spi := { s.spi with rdata := v } }

/-- LOG_SEQ_LO_READ (R457): the read of a _LO register latches its _HI word. [Log DEDUCED: 264] -/
def execLogSeqLoRead (dt : Nat) (port : Port) (off : Nat) (s : State) : Out :=
  let s := (s.advance dt).lullLeave 2
  let v := s.logPair off
  let s : State := { s with log := { s.log with latchHi := tput s.log.latchHi (off + 4) (v / 2 ^ 32) } }
  .next (s.logRead port (v % 2 ^ 32))

/-- LOG_MARK_WRITE (R455): writing _HI applies both words; the mark moves forward to a SEQ up to the head, or the write is
refused. With or without a session. -/
def execLogMarkWrite (dt : Nat) (port : Port) (hi : Nat) (s : State) : Out :=
  let s := s.advance dt
  let slot := s.get R.LOG_MARK_SEL_SLOT
  let old := tget s.log.marks slot 0
  let new := hi % 2 ^ 32 * 2 ^ 32 + s.log.markLo
  let a := s.actor port
  let e : Ev := { code := 0x1604, source := slot, role := a.1, keyId := a.2,
                  items := [(1, slot), (8, old), (8, new), (1, port.code)], key := 1 }
  if old ≤ new && new ≤ s.log.head then
    let s : State := { s with log := { s.log with marks := tput s.log.marks slot new } }
    .next ((s.journalWait 4 [s.log.flushed]).record e)
  else .next (((s.set R.LOG_MARK_STAT_REFUSED 1 slot).evt R.LOG_EVT_MARK_REFUSED).record e)

/-- LOG_ERASE (R456): in a Maker session, with the low word of the present head. -/
def execLogErase (dt : Nat) (port : Port) (key : Nat) (s : State) : Out :=
  .next ((s.advance dt).withRole port [.maker] 0x16044 fun s =>
    let low := s.log.head % 2 ^ 32
    if key = low then
      let s : State := { s with log := { s.log with erasedTo := s.log.head } }
      let s := ((s.set R.LOG_STAT_ERASING 1).evt R.LOG_EVT_ERASED).journalWait 4 [s.log.flushed]
      s.record { code := 0x1606, role := .maker, keyId := s.role.keyId, items := [(8, s.log.erasedTo)], key := 0 }
    else
      s.record { code := 0x1609, role := .maker, keyId := s.role.keyId, items := [(4, key), (4, low)], key := 1 })

/-- LOG_BACKGROUND_ERASE_DONE (R456): the sectors of erased records are erased, and ERASING clears. -/
def execLogBackgroundEraseDone (dt : Nat) (s : State) : Out :=
  let s := s.advance dt
  if s.flag R.LOG_STAT_ERASING && s.nvmOpen then
    let s : State := { s with log := { s.log with flash := s.log.flash.filter fun x => s.log.erasedTo < x.2.seq } }
    .next (s.set R.LOG_STAT_ERASING 0)
  else .next s

end Sys2Proof.Machine
end

