-- ==== Sys2Proof/Machine/Regs.lean ====
section
/-!
DEFINITION. The register map as a host sees it (R9, R459, R460, R464, R465, R475 to R478): which instance an offset reaches, the
fields that are views of other state, the words of the map, the point window, and when an interrupt source is pending.
-/

namespace Sys2Proof.Machine

open Sys2Proof

/-! ### Which register and which instance an offset reaches -/

/-- An offset of a CAN window (8 channels of 0x400): the register of channel 0, and the bank. -/
def State.canReg (s : State) (off : Nat) : Nat × Nat :=
  let ch := (off - 0x13000) / 0x400
  let o := (off - 0x13000) % 0x400
  if o < 0x100 then
    (0x13000 + o,
     if 0x34 ≤ o ∧ o < 0x3C then ch * 32 + s.get R.CAN_MB_SEL_MB ch
     else if 0x40 ≤ o ∧ o < 0x50 then ch * 64 + s.get R.CAN_FLT_SEL_FLT ch
     else ch)
  else
    let b := ch * 8 + (o - 0x100) / 0x60
    let r := (o - 0x100) % 0x60
    if 0x10 ≤ r ∧ r < 0x50 then (0x13110, b * 16 + (r - 0x10) / 4) else (0x13100 + r, b)

/-- An offset of an Ethernet window (4 ports of 0x400): the registers from 0x200 stand in port 0's window only. -/
def State.ethReg (s : State) (off : Nat) : Nat × Nat :=
  let p := (off - 0x15000) / 0x400
  let o := (off - 0x15000) % 0x400
  if 0x300 ≤ o ∧ p = 0 then (0x15300, (o - 0x300) / 4)
  else if 0x200 ≤ o then (if p = 0 then 0x15000 + o else 0x15FFC, 0)
  else
    (0x15000 + o,
     if 0x28 ≤ o ∧ o < 0x30 then p * 32 + s.get R.ETH_FLT_SEL_FLT p
     else if o = 0x34 then p * 8 + s.get R.ETH_Q_SEL_QUEUE p
     else p)

/-- The register of an offset below 0x10000 that a selector, or a word number, instantiates. -/
def State.lowReg (s : State) (off : Nat) : Nat × Nat :=
  let within := fun (a b : Nat) => decide (a ≤ off ∧ off ≤ b)
  if within 0x2800 0x2FFF then (0x2800, (s.get R.MNF_STAGE_OFS_OFS + (off - 0x2800)) / 4)
  else if within 0x3020 0x303F then (0x3020, (off - 0x3020) / 4)
  else if within 0x3040 0x305F then (0x3040, (off - 0x3040) / 4)
  else if within 0x3060 0x307F then (0x3060, (off - 0x3060) / 4)
  else if within 0x4054 0x4060 then (off, s.get R.TIME_TRIG_SEL_UNIT)
  else if within 0x5024 0x5028 then (off, s.get R.GNSS_CH_SEL_CHANNEL + 64 * s.get R.GNSS_CH_SEL_BAND)
  else if within 0x601C 0x6024 then (off, s.get R.EST_SRC_SEL_SLOT)
  else if within 0x6030 0x6030 then (off, s.get R.EST_TRK_SEL_TRACK)
  else if within 0x7024 0x7028 then (off, s.get R.HELM_WP_SEL_IDX)
  else if within 0x8020 0x8020 || within 0x8028 0x802C then (off, s.get R.ALLOC_THR_SEL_THR)
  else if within 0x8034 0x803C then (off, s.get R.ALLOC_CASE_SEL_CASE)
  else if within 0x8044 0x8044 then (off, s.get R.ALLOC_BUS_SEL_BUS)
  else if within 0x9008 0x901C then (off, s.get R.YUZ_KIND_SEL_KIND)
  else if within 0xA008 0xA040 then (off, s.get R.LOOP_SEL_CELL)
  else if within 0xA048 0xA05C then (off, s.get R.LOOP_CAP_SEL_UNIT)
  else if within 0xA064 0xA06C then (off, s.get R.LOOP_ENC_SEL_ENC)
  else if within 0xA800 0xAFFF then (0xA800, (off - 0xA800) / 4)
  else if within 0xB008 0xB010 then (off, s.get R.MFN_SEL_FN)
  else if within 0xC010 0xC020 then (off, s.get R.ADC_SEL_CH)
  else if within 0xD008 0xD01C then (off, s.get R.CLP_SEL_CH)
  else if within 0xD024 0xD02C then (off, s.get R.CLP_HART_SEL_MODEM)
  else if within 0xE008 0xE024 then (off, s.get R.STEP_SEL_CH)
  else if within 0xF024 0xF02C then (off, s.get R.SAFE_AX_SEL_AXIS)
  else (off, 0)

/-- The register of an offset, and the bank in which the map holds its instance. -/
def State.regAt (s : State) (off : Nat) : Nat × Nat :=
  if off < 0x10000 then s.lowReg off
  else if 0x13000 ≤ off ∧ off < 0x15000 then s.canReg off
  else if 0x15000 ≤ off ∧ off < 0x16000 then s.ethReg off
  else if off = 0x1002C then (off, s.get R.TWIN_PLAUS_SEL_CLASS * 64 + s.get R.TWIN_PLAUS_SEL_INDEX)
  else if off = 0x11028 then (off, s.get R.PWR_FC_CLS_SEL_CLASS)
  else if 0x12010 ≤ off ∧ off ≤ 0x12018 then (off, s.get R.THRM_SEL_SENSOR)
  else if 0x16034 ≤ off ∧ off ≤ 0x16040 then (off, s.get R.LOG_MARK_SEL_SLOT)
  else if 0x16800 ≤ off ∧ off < 0x17000 then (0x16800, (off - 0x16800) / 4)
  else if 0x17000 ≤ off ∧ off < 0x18000 then (0x17000 + off % 0x20, (off - 0x17000) / 0x20)
  else if off = 0x1830C ∨ off = 0x18310 then (off, s.get R.IRQ_SRC_SEL_SOURCE)
  else (off, 0)

/-- The fields of the register at an offset of the map. -/
def fldsAt (reg : Nat) : List Fld := R.allFlds.filter fun f => decide (f.off = reg)

/-! ### Interrupt sources (R476, R477) -/

/-- An event bit of the block is set, in any of its instances. -/
def State.evtPending (s : State) (block : Nat) : Bool :=
  let keys := (R.evtFlds.filter fun f => decide (blockId f = block)).map fun f => loc f 0
  s.regs.any fun x => decide (x.2 ≠ 0) && decide (x.1 % 8388608 ∈ keys)

/-- A source is pending (R476). -/
def State.srcPending (s : State) (src : Nat) : Bool :=
  if 1 ≤ src ∧ src ≤ 22 then s.evtPending src
  else if 32 ≤ src ∧ src < 160 then s.hostConsumes (src - 32) && decide ((s.pigeon (src - 32)).ring ≠ [])
  else if 160 ≤ src ∧ src < 224 then s.flag R.CAN_ES_STAT_NEW (src - 160)
  else false

/-- Some enabled source routed to the vector is pending. -/
def State.vecPending (s : State) (v : Nat) : Bool :=
  (List.range 256).any fun src =>
    s.flag R.IRQ_ROUTE_EN src && decide (s.get R.IRQ_ROUTE_VECTOR src = v) && s.srcPending src

/-- HOST_IRQ_N is low (R478). -/
def State.hostIrq (s : State) : Bool := (List.range 32).any fun v => s.irqPba.testBit v && !s.vecMasked v

/-! ### Fields that are views of other state -/

/-- How many of the numbers below `n` satisfy a condition. -/
def countBelow (n : Nat) (p : Nat → Bool) : Nat := ((List.range n).filter p).length

/-- A bit per number below `n` that satisfies a condition. -/
def maskBelow (n : Nat) (p : Nat → Bool) : Nat := ((List.range n).filter p).foldl (fun m i => m ||| 2 ^ i) 0

/-- The alarm entry that DEV_ALARM_SEL selects. -/
def State.selAlarm (s : State) : AlarmEnt := tget s.alarms (s.get R.DEV_ALARM_SEL_ENTRY) ⟨0, 0, 0⟩

/-- DEV (R461, R462). [Log DEDUCED: 250] -/
def State.devView (s : State) (port : Port) (off lo : Nat) : Option Nat :=
  match off, lo with
  | 0x8, 0 => some s.mode
  | 0x8, 3 => some (if s.isActive then 1 else 0)
  | 0x8, 4 => some (if s.isPaired then 1 else 0)
  | 0x8, 5 => some (if s.faultN then 1 else 0)
  | 0x8, 7 => some (if s.alarms.any (fun a => decide (a.2.st = 1) || decide (a.2.st = 3)) then 1 else 0)
  | 0x8, 8 => some (if s.get R.SAFE_STAT_STATE = 3 then 1 else 0)
  | 0x8, 9 => some s.depth
  | 0x8, 11 => some (s.get R.PWR_FC_STAT_LEVEL)
  | 0x10, 0 => some (match port with | .pcie => s.pcie.page | .spi => s.spi.page)
  | 0x18, 0 => some (s.alarms.filter fun a => decide (a.2.st = 1) || decide (a.2.st = 2)).length
  | 0x18, 9 => some (s.alarms.filter fun a => decide (a.2.st = 1) || decide (a.2.st = 3)).length
  | 0x20, 0 => some s.selAlarm.code
  | 0x20, 16 => some s.selAlarm.source
  | 0x20, 28 => some s.selAlarm.st
  | _, _ => none

/-- MODE, MNF and ROLE (R61, R74, R92, R93). -/
def State.modeView (s : State) (off lo : Nat) : Option Nat :=
  let node : NodeSt := tget s.mnf.nodes (s.get R.MNF_ROLL_SEL_NODE) {}
  let cfg := s.man.nodes[s.get R.MNF_ROLL_SEL_NODE]?
  let st := fun (i : Nat) (c : NodeCfg) => if c.exempt then 5 else (tget s.mnf.nodes i {}).st
  let sts := s.man.nodes.zipIdx.map fun x => st x.2 x.1
  match off, lo with
  | 0x1018, 0 => some (s.tick % 2 ^ 32)
  | 0x2024, 0 => some (sts.filter fun x => decide (x = 0) || decide (x = 3)).length
  | 0x2024, 16 => some (sts.filter fun x => decide (x = 4)).length
  | 0x202C, 0 => some (match cfg with | some c => st (s.get R.MNF_ROLL_SEL_NODE) c | none => 0)
  | 0x202C, 4 => some node.match_
  | 0x202C, 8 => some (min 255 node.missRun)
  | 0x202C, 16 => some (match cfg with | some c => c.addr | none => 0)
  | 0x2030, 0 => some (node.mark / 2 ^ 32)
  | 0x2034, 0 => some (node.mark % 2 ^ 32)
  | 0x3000, 16 =>
    some (if s.get R.ROLE_STAT_SESSION = 0 then 0 else (s.role.rwlAt + 300000000000 - s.now) / 1000000000)
  | 0x3010, 0 => some (s.role.uid % 2 ^ 32)
  | 0x3014, 0 => some (s.role.uid / 2 ^ 32)
  | _, _ => none

/-- The samples of a capture unit, oldest first, a word each of its four channels (R256, R266). -/
def State.capWord (s : State) (i : Nat) : Nat :=
  let u := s.get R.LOOP_CAP_SEL_UNIT
  match ((s.cap u).ring.reverse)[s.get R.LOOP_CAP_OFS_SAMPLE u + i / 4]? with
  | some x => bits32 (x.1.getD (i % 4) 0)
  | none => 0

/-- LOOP and MFN (R265, R266). PV, OUT and FF are those of the run that a read of LOOP_CELL_SP latched. [Log DEDUCED: 123] -/
def State.loopView (s : State) (off lo bank : Nat) : Option Nat :=
  let cells := fun (p : Nat → Bool) => some (countBelow 48 p)
  let fns := fun (p : Nat → Bool) => some (countBelow 32 p)
  let lat := match s.loop.latched with | some x => if x.1 = bank then some x.2 else none | none => none
  match off, lo with
  | 0xA000, 0 => cells fun n => decide (s.cellState n = 2)
  | 0xA000, 6 => cells fun n => decide (s.cellState n = 5)
  | 0xA000, 12 => cells fun n => s.flag R.LOOP_CELL_STAT_SAT_HI n || s.flag R.LOOP_CELL_STAT_SAT_LO n
  | 0xA000, 18 => some (if (List.range 48).any fun n => s.flag R.LOOP_CELL_STAT_INJ n then 1 else 0)
  | 0xA018, 0 => lat.map fun x => bits32 x.1
  | 0xA01C, 0 => lat.map fun x => bits32 x.2.1
  | 0xA020, 0 => lat.map fun x => bits32 x.2.2
  | 0xA800, _ => some (s.capWord bank)
  | 0xB000, 0 => fns fun f => decide (s.fnState f = 2)
  | 0xB000, 6 => fns fun f => decide (s.fnState f = 4)
  | 0xB000, 12 => some (s.get R.MODE_GUARD_MFN_IDLE)
  | 0xB010, 0 =>
    some (match tfind s.man.loop.fns bank with
      | some _ => min 65535 ((s.tick - (tget s.loop.fns bank ({} : FnSt)).since) / 10000)
      | none => 0)
  | _, _ => none

/-- ADC, CLP and STEP (R284, R300, R323). -/
def State.analogView (s : State) (off lo bank : Nat) : Option Nat :=
  let chs := fun (p : Nat → Bool) => some (countBelow 48 p)
  let lat := match s.adc.latched with | some x => if x.1 = bank then some x.2 else none | none => none
  match off, lo with
  | 0xC000, 1 => some (if s.man.adc.external then 1 else 0)
  | 0xC000, 2 => chs fun n => decide (s.convState n = 3)
  | 0xC000, 8 => chs fun n => s.flag R.ADC_CH_STAT_CLIP n
  | 0xC000, 14 => chs fun n => s.flag R.ADC_CH_STAT_OVR n
  | 0xC014, 16 => some (match lat with | some x => x.2 | none => (s.conv bank).updates)
  | 0xC01C, 0 => some (match lat with | some x => x.1 | none => pmTotal (s.conv bank).pm % 2 ^ 32)
  | 0xD000, 0 => some (maskBelow 8 fun n => decide (s.get R.CLP_CH_STAT_STATE n = 2))
  | 0xD000, 8 => some (maskBelow 8 fun n => s.flag R.CLP_CH_STAT_COMPLIANCE n)
  | 0xD000, 16 => some (maskBelow 8 fun n => s.flag R.CLP_CH_STAT_THERMAL n)
  | 0xE000, 0 => some (maskBelow 8 fun n => decide (s.get R.STEP_CH_STAT_STATE n ∈ [2, 3, 4]))
  | 0xE000, 8 => some (maskBelow 8 fun n => decide (s.get R.STEP_CH_STAT_STATE n = 5))
  | 0xE000, 16 => some (maskBelow 8 fun n => s.flag R.STEP_CH_STAT_HOMED n)
  | 0xE00C, 0 => if s.follows && s.get R.STEP_CH_CFG_CONFIGURED bank = 1 then some 6 else none
  | _, _ => none

/-- SAFE (R351). Without the island every field reads 0. -/
def State.safeView (s : State) (off lo : Nat) : Option Nat :=
  if !s.isl.present then some 0
  else match off, lo with
  | 0xF000, 2 => some (if s.commissioned then 1 else 0)
  | 0xF000, 4 => some (if s.causesLeft = 0 then 1 else 0)
  | 0xF000, 5 => some (if s.man.safety.series then 1 else 0)
  | 0xF030, 0 => some (if s.commissioned then s.cvJournal.getD 0 else 0)
  | 0xF038, 4 => if s.isPaired then none else some 7
  | _, _ => none

/-- TWIN, PWR and CAN (R372, R394, R420). -/
def State.trunkView (s : State) (off lo bank : Nat) : Option Nat :=
  match off, lo with
  | 0x201C, 16 => if s.isPaired then none else some 15
  | 0x1001C, 0 => some (s.twin.hoTick % 2 ^ 32)
  | 0x11000, 0 => some s.depth
  | 0x11028, 16 => some (match s.pwr.planned[bank]? with | some x => (shownAt 0x11028 (x * 100)).toNat | none => 0)
  | 0x13000, 12 => some (countBelow 32 fun m => decide (s.mbStatus bank m = 1) || decide (s.mbStatus bank m = 2))
  | 0x13000, 18 => some (countBelow 32 fun m => decide (s.mbStatus bank m = 7))
  | _, _ => none

/-- ETH (R442). -/
def State.ethView (s : State) (off lo bank : Nat) : Option Nat :=
  let bit := fun (b : Bool) => some (if b then 1 else 0)
  match off, lo with
  | 0x15034, 0 =>
    let e := s.ethSt (bank / 8)
    some (min 255 (e.queues.filter fun f => decide (f.queue = bank % 8)).length)
  | 0x15034, 8 => bit (match s.gateOf (bank / 8) (bank % 8) with | some _ => true | none => false)
  | 0x15200, 5 => bit (decide (s.role.owner = .spi) && decide (s.get R.ROLE_STAT_SESSION ≠ 0))
  | 0x15208, 0 => bit (decide (s.man.disp.ports ≠ []) && s.classDRuns)
  | 0x1520C, 0 => bit (decide (s.man.work.channels ≠ []) && s.classDRuns && !s.flag R.ETH_WR_STAT_FULL)
  | 0x15210, 0 => some (s.work.head % 2 ^ 32)
  | 0x15214, 0 => some s.work.latchHi
  | 0x15300, _ => some (s.wrWin bank)
  | _, _ => none

/-- The record bytes of a word of the LOG window (R454): 32 records of 64 bytes; a record not held reads 0. -/
def State.logWin (s : State) (i : Nat) : Nat :=
  match s.log.window[i / 16]? with
  | some (some r) => ofLe ((r.bytes.drop (4 * (i % 16))).take 4)
  | _ => 0

/-- LOG (R457). [Log DEDUCED: 246, 264] -/
def State.logView (s : State) (off lo bank : Nat) : Option Nat :=
  let low := [0x16004, 0x1600C, 0x16014, 0x16034, 0x16048]
  if off ∈ low then some (s.logPair off % 2 ^ 32)
  else if off - 4 ∈ low then some (tget s.log.latchHi off 0)
  else match off, lo with
  | 0x16000, 3 => some (if s.log.isOpen then 1 else 0)
  | 0x16000, 6 => some (if 12288 < s.log.unflushed.length then 1 else 0)
  | 0x16000, 16 => some (min 1024 s.log.unflushedCount)
  | 0x1601C, 0 => some (min 16384 s.log.unflushedCount)
  | 0x1603C, 0 => some (if tget s.log.persisted bank 0 = s.markOfSlot then 1 else 0)
  | 0x16040, 0 => some (min (2 ^ 32 - 1) (s.log.head - max s.markOfSlot s.log.erasedTo))
  | 0x16800, _ => some (s.logWin bank)
  | _, _ => none

/-- PGN and IRQ (R472, R476 to R478). -/
def State.pgnView (s : State) (port : Port) (off lo bank : Nat) : Option Nat :=
  let p := s.pigeon bank
  let word := match port with | .pcie => p.wordP | .spi => p.wordS
  match off, lo with
  | 0x17000, 0 => some (s.ringLog2 bank)
  | 0x17000, 6 => some (if s.hostConsumes bank then 1 else 0)
  | 0x17004, 0 => some p.ring.length
  | 0x17004, 13 => some (if p.ring = [] then 1 else 0)
  | 0x17004, 15 => some word
  | 0x17014, 0 =>
    some (match p.ring with | e :: _ => ofLe ((e.bytes.drop (4 * word)).take 4) | [] => 0)
  | 0x18310, 0 => some (if s.srcPending bank then 1 else 0)
  | 0x18314, 0 => some (maskBelow 32 s.vecPending)
  | _, _ => none

/-- The value of a field of the map as a port reads it: a view, or the stored value; write-only fields read 0 (R9). -/
def State.fieldVal (s : State) (port : Port) (f : Fld) (bank : Nat) : Nat :=
  if f.acc = .wo then 0
  else
    let v :=
      if f.off < 0x1000 then s.devView port f.off f.lo
      else if f.off < 0x4000 then (s.trunkView f.off f.lo bank).or (s.modeView f.off f.lo)
      else if 0xA000 ≤ f.off ∧ f.off < 0xC000 then s.loopView f.off f.lo bank
      else if 0xC000 ≤ f.off ∧ f.off < 0xF000 then s.analogView f.off f.lo bank
      else if 0xF000 ≤ f.off ∧ f.off < 0x10000 then s.safeView f.off f.lo
      else if f.off < 0x15000 then s.trunkView f.off f.lo bank
      else if f.off < 0x16000 then s.ethView f.off f.lo bank
      else if f.off < 0x17000 then s.logView f.off f.lo bank
      else s.pgnView port f.off f.lo bank
    (v.getD (s.get f bank)) % 2 ^ f.width

/-- A word of the MSI-X table (R475): a vector's word 3 resets to 1. -/
def State.msixWord (s : State) (i : Nat) : Nat := tget s.msix i (if i % 4 = 3 then 1 else 0)

/-- The word at an offset of a block, without a read's side effects; reserved ranges and fields read 0 (R460). -/
def State.word (s : State) (port : Port) (off : Nat) : Nat :=
  if 0x18000 ≤ off ∧ off < 0x18200 then s.msixWord ((off - 0x18000) / 4)
  else if off = 0x18200 then s.irqPba % 2 ^ 32
  else
    let r := s.regAt off
    ((fldsAt r.1).map fun f => s.fieldVal port f r.2 * 2 ^ f.lo).sum % 2 ^ 32

/-! ### The point window (R464, R465) -/

def State.port (s : State) : Port → HostPort
  | .pcie => s.pcie | .spi => s.spi

def State.putPort (s : State) (p : Port) (h : HostPort) : State :=
  match p with
  | .pcie => { s with pcie := h }
  | .spi => { s with spi := h }

/-- The point index of a window offset. -/
def State.winIdx (s : State) (p : Port) (ofs : Nat) : Nat := (s.port p).page * 4096 + ofs % 0x20000 / 32

/-- A read of the point window: word 0 latches the entry for the port; the other words of that entry return the copy, and those
of another the live word. -/
def State.windowRead (s : State) (p : Port) (ofs : Nat) : State × Nat :=
  let i := s.winIdx p ofs
  let w := ofs % 32 / 4
  if w = 0 then
    let ws := s.ptWords i
    (s.putPort p { s.port p with latched := some (i, ws) }, ws.getD 0 0)
  else
    match (s.port p).latched with
    | some (j, ws) => (s, if j = i then ws.getD w 0 else (s.ptWords i).getD w 0)
    | none => (s, (s.ptWords i).getD w 0)

end Sys2Proof.Machine
end

