-- ==== Sys2Proof/Machine/Hostport.lean ====
section
/-!
DEFINITION. The host ports (R97, R437 to R441, R460 to R478): reads and writes of the map and their side effects, the point window,
alarm acknowledgements, pigeonholes, interrupts, SPI transactions, and the PCIe link's resets.
-/

namespace Sys2Proof.Machine

open Sys2Proof

/-! ### The point window (R466) -/

/-- A host write to a point is refused: WR_RESULT, the count and the record 0x0103. [Log DEDUCED: 253] -/
def State.pointRefuse (s : State) (p : Port) (i code : Nat) : State :=
  let a := s.actor p
  ((s.set R.DEV_PT_STAT_WR_RESULT code).inc R.DEV_HOST_ERR_POINT_REFUSED).record
    { code := 0x0103, role := a.1, keyId := a.2, items := [(4, i), (1, code), (1, p.code)] }

/-- The point is on trunk 15, where alone a host may write (R33). -/
def State.onTrunk15 (s : State) (i : Nat) : Bool :=
  match s.ptCfg i with | some c => decide (c.addr / 2 ^ 28 = 15) | none => false

def State.putStaged (s : State) (p : Port) (x : Staged) : State := s.putPort p { s.port p with staged := x }

/-- The quality of a code of R11. -/
def qualityOf : Nat → Quality
  | 1 => .uncertain | 2 => .stale | 3 => .staleConfig | 4 => .masked | 5 => .substituted | 6 => .unverified | _ => .good

/-- A write of QUALITY stages it; a code from 7 to 15 is refused as REFUSED-WORD. [Log DEDUCED: 252] -/
def State.stageQuality (s : State) (p : Port) (ofs code : Nat) : State :=
  let i := s.winIdx p ofs
  if !s.onTrunk15 i then s.pointRefuse p i 3
  else if 7 ≤ code % 16 then s.pointRefuse p i 6
  else (s.putStaged p { (s.port p).staged with idx := i, quality := qualityOf (code % 16) }).set R.DEV_PT_STAT_WR_RESULT 1

/-- A write of VALUE word 0 stages the low half. [Log DEDUCED: 252] -/
def State.stageLow (s : State) (p : Port) (ofs v : Nat) : State :=
  let i := s.winIdx p ofs
  if !s.onTrunk15 i then s.pointRefuse p i 3
  else (s.putStaged p { (s.port p).staged with idx := i, low := v % 2 ^ 32 }).set R.DEV_PT_STAT_WR_RESULT 1

/-- A write of VALUE word 1 commits both halves and the staged quality, and staging resets; the commit is refused on another trunk,
for an outbound point, and where the device is not the active. [Log DEDUCED: 252, 254] -/
def State.pointCommit (s : State) (p : Port) (ofs v : Nat) : State :=
  let i := s.winIdx p ofs
  let x := (s.port p).staged
  match s.ptCfg i with
  | none => s.pointRefuse p i 3
  | some c =>
    if !s.onTrunk15 i then s.pointRefuse p i 3
    else
      let s := s.putStaged p {}
      if c.out then s.pointRefuse p i 4
      else if !s.isActive then s.pointRefuse p i 5
      else
        let s : State := { s with inbox := s.inbox ++ [.point i (v % 2 ^ 32 * 2 ^ 32 + x.low) s.pm x.quality] }
        s.set R.DEV_PT_STAT_WR_RESULT 2

/-- A write to any other word of an entry. [Log DEDUCED: 253] -/
def State.pointOther (s : State) (p : Port) (ofs : Nat) : State :=
  let i := s.winIdx p ofs
  s.pointRefuse p i (if s.onTrunk15 i then 6 else 3)

/-- A write of the point window. -/
def State.windowWrite (s : State) (p : Port) (ofs v : Nat) : State :=
  match ofs % 32 / 4 with
  | 0 => s.stageLow p ofs v
  | 1 => s.pointCommit p ofs v
  | 4 => s.stageQuality p ofs v
  | _ => s.pointOther p ofs

/-- POINT_WINDOW_READ (R465). -/
def execPointWindowRead (dt : Nat) (port : Port) (ofs : Nat) (s : State) : Out :=
  let r := ((s.advance dt).lullLeave 2).windowRead port ofs
  .next (r.1.readBack port r.2)

/-- POINT_QUALITY_STAGE (R466 step 1). -/
def execPointQualityStage (dt : Nat) (port : Port) (ofs code : Nat) (s : State) : Out :=
  .next ((s.advance dt).stageQuality port ofs code)

/-- POINT_VALUE_LOW_STAGE (R466 step 2). -/
def execPointValueLowStage (dt : Nat) (port : Port) (ofs value : Nat) (s : State) : Out :=
  .next ((s.advance dt).stageLow port ofs value)

/-- POINT_VALUE_COMMIT (R466 step 3). -/
def execPointValueCommit (dt : Nat) (port : Port) (ofs value : Nat) (s : State) : Out :=
  .next ((s.advance dt).pointCommit port ofs value)

/-- POINT_WINDOW_OTHER_WRITE (R466): refused. -/
def execPointWindowOtherWrite (dt : Nat) (port : Port) (ofs : Nat) (s : State) : Out :=
  .next ((s.advance dt).pointOther port ofs)

/-! ### Alarm acknowledgement (R462) -/

/-- An Operator acknowledgement of one entry, or of all (0x1FF), which only the active accepts; one record a write.
[Log DEDUCED: 250] -/
def State.alarmAck (s : State) (p : Port) (entry : Nat) : State :=
  s.withRole p [.operator] 0x24 fun s =>
    if !s.isActive then s
    else
      let entry := entry % 512
      let k := s.role.keyId
      let hit := s.alarms.filter fun a => (decide (a.1 = entry) || decide (entry = 0x1FF)) && decide (a.2.st ≠ 2)
      let first : Nat × Nat := match hit with | a :: _ => (a.2.code, a.2.source) | [] => (0, 0)
      let s := s.alarmAckNote entry first.1 first.2 k
      hit.foldl (fun (s : State) a => s.alarmAckOne a.1 k) s

/-- ALARM_ACK (R462). [Log DEDUCED: 251] -/
def execAlarmAck (dt : Nat) (port : Port) (entry : Nat) (s : State) : Out := .next ((s.advance dt).alarmAck port entry)

/-! ### Pigeonholes (R472 to R474) -/

def State.putPigeon (s : State) (n : Nat) (p : Pgn) : State := { s with pgn := tput s.pgn n p }

/-- The head envelope leaves; both ports' WORD restarts. -/
def State.pgnPop (s : State) (n : Nat) : State :=
  let p := s.pigeon n
  (s.putPigeon n { p with ring := p.ring.tail, wordP := 0, wordS := 0 }).inc R.PGN_TAIL_INDEX n

/-- A read of PGN_RD: the next word of the head envelope; the 16th pops it. -/
def State.pgnRead (s : State) (p : Port) (n : Nat) : State × Nat :=
  let g := s.pigeon n
  match g.ring with
  | [] => (s, 0)
  | e :: _ =>
    let w := match p with | .pcie => g.wordP | .spi => g.wordS
    let v := ofLe ((e.bytes.drop (4 * w)).take 4)
    if !s.hostConsumes n then (s, v)
    else if w = 15 then (s.pgnPop n, v)
    else
      (s.putPigeon n (match p with | .pcie => { g with wordP := w + 1 } | .spi => { g with wordS := w + 1 }), v)

/-- PGN_CTL.RESTART: WORD returns to 0, and a partly written envelope of the port is gone. -/
def State.pgnRestart (s : State) (p : Port) (n : Nat) : State :=
  let g := s.pigeon n
  s.putPigeon n (match p with | .pcie => { g with wordP := 0, bufP := [] } | .spi => { g with wordS := 0, bufS := [] })

/-- PGN_CTL.DISCARD: the head envelope is popped unread. -/
def State.pgnDiscard (s : State) (n : Nat) : State :=
  if !s.hostConsumes n || decide ((s.pigeon n).ring = []) then s else s.pgnPop n

/-- A write of PGN_WR: a word of a host envelope; the 16th submits it as an input, or it is refused (0x0106). -/
def State.pgnWrite (s : State) (p : Port) (n word : Nat) : State :=
  let g := s.pigeon n
  let buf := (match p with | .pcie => g.bufP | .spi => g.bufS) ++ [word % 2 ^ 32]
  let put := fun (b : List Nat) => s.putPigeon n (match p with | .pcie => { g with bufP := b } | .spi => { g with bufS := b })
  if buf.length < 16 then put buf
  else
    let s := put []
    if s.flag R.PGN_CFG_HOST_PRODUCER n && s.isActive then { s with inbox := s.inbox ++ [.host n buf s.pm] }
    else
      let a := s.actor p
      s.record { code := 0x0106, role := a.1, keyId := a.2, items := [(1, n), (1, p.code)] }

/-- PGN_READ (R473). -/
def execPgnRead (dt : Nat) (port : Port) (n : Nat) (s : State) : Out :=
  let r := ((s.advance dt).lullLeave 2).pgnRead port (n % 128)
  .next (r.1.readBack port r.2)

/-- PGN_RESTART (R472, R474). -/
def execPgnRestart (dt : Nat) (port : Port) (n : Nat) (s : State) : Out := .next ((s.advance dt).pgnRestart port (n % 128))

/-- PGN_DISCARD (R472, R473). -/
def execPgnDiscard (dt : Nat) (_port : Port) (n : Nat) (s : State) : Out := .next ((s.advance dt).pgnDiscard (n % 128))

/-- PGN_WRITE (R474). -/
def execPgnWrite (dt : Nat) (port : Port) (n word : Nat) (s : State) : Out :=
  .next ((s.advance dt).pgnWrite port (n % 128) word)

/-! ### Interrupts (R475 to R478) -/

/-- The pending bit of a vector clears. -/
def State.pbaClear (s : State) (v : Nat) : State :=
  { s with irqPba := if s.irqPba.testBit v then s.irqPba ^^^ 2 ^ v else s.irqPba }

/-- A write of IRQ_ACK: the pending bit clears, the vector is armed, and fires at once where a source is pending. -/
def State.irqAck (s : State) (v : Nat) : State :=
  let s := s.pbaClear v
  let s := s.set R.IRQ_ARMED_ARMED (s.get R.IRQ_ARMED_ARMED ||| 2 ^ v)
  if s.vecPending v then s.vecFire v else s

/-- A word of the MSI-X table takes a value. -/
def State.msixPut (s : State) (i v : Nat) : State :=
  let v := v % 2 ^ 32
  { s with msix := if v = (if i % 4 = 3 then 1 else 0) then tdel s.msix i else tput s.msix i v }

/-- A write to the MSI-X table; unmasking a vector whose pending bit is set sends its message and clears the bit, where MSI-X is
enabled. -/
def State.msixWrite (s : State) (i v : Nat) : State :=
  let vec := i / 4
  let was := s.vecMasked vec
  let s := s.msixPut i v
  if i % 4 = 3 && was && !s.vecMasked vec && s.irqPba.testBit vec && s.msixEnable then
    { s.pbaClear vec with msiSent := tput s.msiSent vec (tget s.msiSent vec 0 + 1) }
  else s

/-- A vector fires where it is armed and a source routed to it is pending. [Log DEDUCED: 258] -/
def State.vecCheck (s : State) (v : Nat) : State := if s.vecPending v then s.vecFire v else s

/-- IRQ_ACK (R477, R478). -/
def execIrqAck (dt : Nat) (_port : Port) (vector : Nat) (s : State) : Out := .next ((s.advance dt).irqAck (vector % 32))

/-- MSIX_UNMASK (R477): the mask bit of the vector's entry is written 0. [Log DEDUCED: 257] -/
def execMsixUnmask (dt : Nat) (_port : Port) (vector : Nat) (s : State) : Out :=
  let s := s.advance dt
  let i := 4 * (vector % 32) + 3
  .next (s.msixWrite i (s.msixWord i / 2 * 2))

/-! ### Reads of the map -/

/-- The registers that hold 32-bit postmarks and whose read latches the time (R97). -/
def postmarkRegs : List Nat := [0x4048, 0x501C, 0xA058, 0xA068, 0xC01C, 0x13108]

/-- A host read of the block wakes the device from LULL3 (R378). No block lies in the reserved range or beyond the map. -/
def readWakes (off : Nat) : Bool :=
  let b := off / 0x1000
  (decide (b < 0x19) || (decide (0x20 ≤ b) && decide (b < 0x40))) &&
    !decide (b ∈ [0x0, 0x1, 0x4, 0x11, 0x12, 0xF, 0x10, 0x13, 0x14, 0x15, 0x18])

/-- A read with its side effects: what the read returns, and the state after it. [Log DEDUCED: 123] -/
def State.hostRead (s : State) (p : Port) (off : Nat) : State × Nat :=
  let off := off / 4 * 4
  let s := if readWakes off then s.lullLeave 2 else s
  if 0x40000 ≤ off then (s, 0)
  else if 0x20000 ≤ off then s.windowRead p (off - 0x20000)
  else if !s.isl.present && 0xF000 ≤ off && off < 0x10000 then (s, 0)
  else
    let r := s.regAt off
    let v := s.word p off
    let s := if r.1 ∈ postmarkRegs then s.latchTime else s
    match r.1 with
    | 0x1018 => (s.set R.MODE_TICK_HI_TICK_HI (s.tick / 2 ^ 32), v)
    | 0x1001C => (s.set R.TWIN_HO_TICK_HI_TICK_HI (s.twin.hoTick / 2 ^ 32), v)
    | 0xA014 =>
      let c := s.cell r.2
      ({ s with loop := { s.loop with latched := some (r.2, c.ys.getD 0 0, c.u, c.ff) } }, v)
    | 0xC018 =>
      let c := s.conv r.2
      ({ s with adc := { s.adc with latched := some (r.2, pmTotal c.pm % 2 ^ 32, c.updates) } }, v)
    | 0x13100 => ((s.esIdRead (r.2 / 8) (r.2 % 8)).1, v)
    | 0x13110 => (if r.2 % 16 = 15 then (s.esLastRead (r.2 / 128) (r.2 / 16 % 8)).1 else s, v)
    | 0x15210 => ({ s with work := { s.work with latchHi := s.work.head / 2 ^ 32 } }, v)
    | 0x17014 => ((s.pgnRead p r.2).1, v)
    | o =>
      if o ∈ [0x16004, 0x1600C, 0x16014, 0x16024, 0x16034, 0x16048] then
        ({ s with log := { s.log with latchHi := tput s.log.latchHi (o + 4) (s.logPair o / 2 ^ 32) } }, v)
      else (s, v)

/-- POSTMARK_READ_LATCH (R97): a read of a 32-bit postmark field latches the current time in the same clock. -/
def execPostmarkReadLatch (dt : Nat) (port : Port) (off : Nat) (s : State) : Out :=
  let r := (s.advance dt).hostRead port off
  .next (r.1.readBack port r.2)

/-! ### Writes of the map -/

/-- The bits of a register that no field covers. [Log DEDUCED: 255] -/
def reservedBits (fs : List Fld) : Nat := (2 ^ 32 - 1) - (fs.map fun f => (2 ^ f.width - 1) * 2 ^ f.lo).sum

/-- A field takes what a write gives it under its access code (R9). A selector value that reads as another is stored as that one.
[Log DEDUCED: 256] -/
def State.fieldWrite (s : State) (bank v : Nat) (f : Fld) : State :=
  let x := v / 2 ^ f.lo % 2 ^ f.width
  match f.acc with
  | .ro => s
  | .w1c => s.set f (s.get f bank - (s.get f bank &&& x)) bank
  | .rw =>
    if f.off = 0x1200C then s.set f (if x < 24 then x else 0) bank
    else if f.off = 0x11024 then s.set f (if x < 6 then x else 0) bank
    else if f.off = 0x9004 then s.set f (if 1 ≤ x ∧ x ≤ 4 then x else 1) bank
    else s.set f x bank
  | .wo => s.set f x bank
  | .rwl _ => s.set f x bank

/-- The roles of a register whose fields are RWL. -/
def rwlRoles : List Fld → Option (List Role)
  | [] => none
  | f :: t => match f.acc with | .rwl rs => some rs | _ => rwlRoles t

/-- A write to a register without a row of its own, under its access codes. [Log DEDUCED: 255] -/
def State.plainWrite (s : State) (p : Port) (off v : Nat) : State :=
  let r := s.regAt off
  let fs := fldsAt r.1
  let put := fun (s : State) => fs.foldl (fun (s : State) f => s.fieldWrite r.2 v f) s
  match r.1 with
  | 0x10 => s.putPort p { s.port p with page := v % 64 }
  | 0x16034 => { s with log := { s.log with markLo := v % 2 ^ 32 } }
  | 0xA004 => { put s with loop := { s.loop with latched := none } }
  | 0x1830C =>
    let s := put s
    if s.flag R.IRQ_ROUTE_EN r.2 && s.srcPending r.2 then s.vecFire (s.get R.IRQ_ROUTE_VECTOR r.2) else s
  | 0x2020 =>
    s.withRole p [.installer] off fun s => if v % 2048 = 0 && v ≤ 50329600 then put s else s
  | 0x2800 =>
    s.withRole p [.installer] off fun s =>
      { s with mnf := { s.mnf with stage := Memory.writeWord s.mnf.stage (4 * r.2) (v % 2 ^ 32) } }
  | _ =>
    match rwlRoles fs with
    | some rs => s.withRole p rs off put
    | none => put s

/-- The state that a row's meaning leaves. -/
def after (s : State) (o : Out) : State := match o with | .next t => t | _ => s

/-- A write to ROLE_CTL: CLOSE, then OPEN, then NEW_CHAL (R83). -/
def State.roleCtl (s : State) (p : Port) (v : Nat) (chal : List Nat) : State :=
  let s := if v.testBit 4 then after s (execRoleClose 0 p s) else s
  let s := if v.testBit 1 && decide (v / 4 % 4 ≠ 0) then after s (execRoleOpen 0 p (sessionRole (v / 4 % 4)) s) else s
  if v.testBit 0 then after s (execRoleNewChal 0 p chal s) else s

/-- A write to MNF_CMD: 1 INSTALL, 2 RESTORE; other values are ignored (R92). [Log DESIGN CHOICE: 35] -/
def State.mnfCmd (s : State) (p : Port) (v : Nat) (aux : HostAux) : State :=
  match v % 16, aux.image with
  | 1, some im => after s (execMnfInstall 0 p im aux.run s)
  | 1, none =>
    s.withRole p [.installer] 0x2018 fun s =>
      let s := s.set R.MNF_CMD_CMD 1
      if !s.instAllowed then s.instRefuse 1
      else (((s.set R.MNF_INST_STATE 1).set R.MNF_INST_RESULT 0).instRecord 1).instEnd 1 7 3
  | 2, _ => after s (execMnfRestore 0 p aux.run s)
  | _, _ => s.withRole p [.installer] 0x2018 id

/-- A write to a register whose write is a command with a row of its own; none where the register is not one. -/
def State.cmdWrite (s : State) (p : Port) (off v : Nat) (aux : HostAux) : Option State :=
  let src := CmdSrc.host p
  let tag := v / 256 % 256
  match off with
  | 0x24 => some (s.alarmAck p v)
  | 0x1004 => some (s.modeCmd (v % 8) src tag)
  | 0x1010 => some (after s (execModeResetWrite 0 p v s))
  | 0x2018 => some (s.mnfCmd p v aux)
  | 0x3004 => some (s.roleCtl p v aux.chal)
  | 0x3008 =>
    match v % 4 with
    | 1 => some (after s (execRoleKeyMaker 0 p (v / 65536) s))
    | 2 => some (after s (execRoleKeyInstaller 0 p (v / 65536) s))
    | 3 => some (after s (execRoleKeyOperator 0 p (v / 65536) s))
    | _ => some ((s.lullLeave 1).keyNoEffect p 0 (v / 65536))
  | 0x4004 => some (if v.testBit 0 then s.latchTime else s)
  | 0x5004 =>
    let s := if v.testBit 0 then after s (execGnssSleepCmd 0 p s) else s
    let s := if v.testBit 1 then after s (execGnssWakeCmd 0 p s) else s
    some (if v.testBit 2 then after s (execGnssColdCmd 0 p s) else s)
  | 0x6028 => if v / 256 % 4 = 1 ∨ v / 256 % 4 = 2 then some (s.slotWrite src (v % 32) (v / 256 % 4)) else none
  | 0x7004 => some (s.lawCmd (v % 8) src tag)
  | 0x701C => if v % 4 = 0 then none else some (s.spCmd (v % 4) src tag)
  | 0x8024 => if v / 256 % 4 = 1 ∨ v / 256 % 4 = 2 then some (s.thrCmd src (v % 32) (v / 256 % 4)) else none
  | 0xA040 =>
    match v % 4 with
    | 1 => some (after s (execInjectionStart 0 p s))
    | 2 => some (after s (execInjectionStop 0 p s))
    | _ => some (s.withRole p [.installer] off id)
  | 0xA050 =>
    match v % 4 with
    | 1 => some (after s (execCaptureArm 0 p s))
    | 2 => some (after s (execCaptureForce 0 p s))
    | 3 => some (after s (execCaptureAbort 0 p s))
    | _ => none
  | 0xB014 => if v / 256 % 4 = 0 then none else some (s.fnCmd (v / 256 % 4) src (v % 32) (v / 65536))
  | 0xD02C =>
    match v % 4 with
    | 1 => some (after s (execHartPause 0 p s))
    | 2 => some (after s (execHartResume 0 p s))
    | _ => some (s.withRole p [.operator] off id)
  | 0xE028 =>
    if 1 ≤ v % 8 ∧ v % 8 ≤ 6 then some (s.stepCmd (v % 8) src (v / 8 % 8) tag (s.geti R.STEP_CMD_ARG_ARG)) else none
  | 0xF018 => some (after s (execSafeOffReqWrite 0 p (v % 4096) s))
  | 0xF038 => if v.testBit 0 then some (after s (execSafeCvCommit 0 p s)) else some (s.withRole p [.installer] off id)
  | 0x11004 => some (after s (execPwrLatTolWrite 0 p v s))
  | 0x1521C => some (after s (execEthWrAckWrite 0 p v s))
  | 0x16028 => some (after s (execLogFetchStart 0 p v s))
  | 0x16038 => some (after s (execLogMarkWrite 0 p v s))
  | 0x16044 => some (after s (execLogErase 0 p v s))
  | 0x18304 => some (s.irqAck (v % 32))
  | _ =>
    if 0x13000 ≤ off ∧ off < 0x15000 ∧ off % 0x400 = 0x54 then
      (if v.testBit 0 then some (after s (execCanRecover 0 p ((off - 0x13000) / 0x400) s)) else some (s.withRole p [.operator] off id))
    else if 0x17000 ≤ off ∧ off < 0x18000 then
      let n := (off - 0x17000) / 0x20
      match off % 0x20 with
      | 0x18 => some (s.pgnWrite p n v)
      | 0x1C =>
        let s := if v.testBit 0 then s.pgnRestart p n else s
        some (if v.testBit 1 then s.pgnDiscard n else s)
      | _ => none
    else none

/-- A host write at an offset of the map (R9, R460, R466, R475). [Log DEDUCED: 261] -/
def State.hostWrite (s : State) (p : Port) (off v : Nat) (aux : HostAux) : State :=
  let off := off / 4 * 4
  let v := v % 2 ^ 32
  if 0x40000 ≤ off then s.inc R.DEV_HOST_ERR_UNMAPPED
  else if 0x20000 ≤ off then s.windowWrite p (off - 0x20000) v
  else if 0x18000 ≤ off ∧ off < 0x18200 then s.msixWrite ((off - 0x18000) / 4) v
  else if off = 0x18200 ∨ off = 0x18204 then s
  else if !s.isl.present && decide (0xF000 ≤ off ∧ off < 0x10000) then s
  else
    let fs := fldsAt (s.regAt off).1
    let s := if fs = [] ∨ v &&& reservedBits fs ≠ 0 then s.inc R.DEV_HOST_ERR_UNMAPPED else s
    if fs = [] then s
    else match s.cmdWrite p off v aux with
      | some t => t
      | none => s.plainWrite p off v

/-- REGISTER_WRITE (R9, R439, R460): `whole` is false for a PCIe write whose byte enables are not all set, which is dropped,
counted and recorded (0x1509). [Log DEDUCED: 261; DESIGN CHOICE: 263] -/
def execRegisterWrite (dt : Nat) (port : Port) (off value : Nat) (whole : Bool) (aux : HostAux) (s : State) : Out :=
  let s := s.advance dt
  if port = .pcie && !whole then
    .next ((s.inc R.ETH_HOST_CNT_PARTIAL_WR).record { code := 0x1509, items := [(4, off)] })
  else .next (s.hostWrite port off value aux)

/-! ### SPI transactions (R440) -/

/-- Words written at offsets rising by 4. [Log DEDUCED: 260] -/
def State.writeWords (s : State) (aux : HostAux) : Nat → List Nat → State
  | _, [] => s
  | off, w :: ws => (s.hostWrite .spi off w aux).writeWords aux (off + 4) ws

/-- Words read at offsets rising by 4, and the words. [Log DEDUCED: 260] -/
def State.readWords (s : State) : Nat → Nat → State × List Nat
  | 0, _ => (s, [])
  | n + 1, off =>
    let r := s.hostRead .spi off
    let t := r.1.readWords n (off + 4)
    (t.1, r.2 :: t.2)

/-- The words of a read as one number, the first lowest. [Log DEDUCED: 260] -/
def packWords : List Nat → Nat
  | [] => 0
  | w :: ws => w + 2 ^ 32 * packWords ws

/-- SPI_WRITE_TRANSACTION (R440): applied in order at chip-select release where `bad` is 0; 1 a bad CRC, 2 a short end: nothing is
applied, it is counted and recorded. [Log DESIGN CHOICE: 259] -/
def execSpiWriteTransaction (dt opcode addr : Nat) (words : List Nat) (bad : Nat) (aux : HostAux) (s : State) : Out :=
  let s := s.advance dt
  if bad = 0 && opcode = 2 then .next (s.writeWords aux addr (words.take 256))
  else
    .next ((s.inc R.ETH_HOST_CNT_SPI_BAD).record
      { code := 0x1508, items := [(1, opcode), (4, addr), caseItem 0x1508 bad] })

/-- SPI_READ_TRANSACTION (R440): each word takes effect when it is fetched. [Log DEDUCED: 260] -/
def execSpiReadTransaction (dt addr n : Nat) (s : State) : Out :=
  let r := (s.advance dt).readWords (min n 256) addr
  .next (r.1.readBack .spi (packWords r.2))

/-! ### The PCIe link (R439) -/

/-- HOST_LINK_RESET (R83, R439, 0x150A): PERST_N low, or a link down for more than 10 ms: the session of the PCIe port closes.
[Log DEDUCED: 257] -/
def execHostLinkReset (dt : Nat) (perst : Bool) (downMs : Nat) (s : State) : Out :=
  let s := s.advance dt
  if !perst && downMs ≤ 10 then .next s
  else
    let open_ := s.role.owner = .pcie && s.get R.ROLE_STAT_SESSION ≠ 0
    let s := if open_ then s.closeSession 3 else s
    let s := ((s.set R.ETH_HOST_STAT_PCIE_UP 0).set R.ETH_HOST_STAT_PCIE_GEN 0).set R.ETH_HOST_STAT_PCIE_WIDTH 0
    let s : State := { s with msixEnable := false, pcieAt := if perst then none else s.pcieAt
                              mus := { s.mus with perst := s.mus.perst && !perst } }
    .next (s.record { code := 0x150A, items := [(1, Port.pcie.code), (1, if open_ then 1 else 0)], key := 1 })

/-- PERST_N_RELEASE (R439): outside DORMANT the endpoint answers 20 ms later, counted from POR_N release where that is later, and
WAKE_N is released. `gen` and `width` are of the link that trains, `msix` whether the host then enables MSI-X.
[Log DEDUCED: 257, 262] -/
def execPerstNRelease (dt gen width : Nat) (msix : Bool) (s : State) : Out :=
  let s := s.advance dt
  let s : State := { s with mus := { s.mus with perst := true } }
  if s.mode = 0 then .next s
  else
    let s : State := { s with mus := { s.mus with wakeN := false } }
    if s.mus.porLow || !s.mus.running || !s.mus.straps.pcieEn then .next s
    else
      let s := ((s.set R.ETH_HOST_STAT_PCIE_UP 1).set R.ETH_HOST_STAT_PCIE_GEN gen).set R.ETH_HOST_STAT_PCIE_WIDTH width
      .next { s with pcieAt := some (max s.now s.mus.at_ + 20000000), msixEnable := msix }

end Sys2Proof.Machine
end

