-- ==== Sys2Proof/Machine/Dispatch.lean ====
section
/-!
DEFINITION. The meaning of every command, by name.
-/

namespace Sys2Proof.Machine

def exec (i : Instr) (s : State) : Host.Outcome State Fault Refusal :=
  match i with
  | .powerUp dt => Sys2Proof.Machine.execPowerUp dt s
  | .porNRelease dt straps => Sys2Proof.Machine.execPorNRelease dt straps s
  | .porNAssert dt lowNs => Sys2Proof.Machine.execPorNAssert dt lowNs s
  | .brownOut dt rail lowNs => Sys2Proof.Machine.execBrownOut dt rail lowNs s
  | .vddAonLoss dt => Sys2Proof.Machine.execVddAonLoss dt s
  | .pllLock dt scan => Sys2Proof.Machine.execPllLock dt scan s
  | .pllRetry dt locked pllState scan => Sys2Proof.Machine.execPllRetry dt locked pllState scan s
  | .headerReadDone dt capacity h => Sys2Proof.Machine.execHeaderReadDone dt capacity h s
  | .dramTrainingDone dt gib trained => Sys2Proof.Machine.execDramTrainingDone dt gib trained s
  | .manifestLoadDone dt chk man => Sys2Proof.Machine.execManifestLoadDone dt chk man s
  | .bistDone dt lbistOk memOk => Sys2Proof.Machine.execBistDone dt lbistOk memOk s
  | .claimsCheckDone dt => Sys2Proof.Machine.execClaimsCheckDone dt s
  | .pairHandshake dt peer activeIn => Sys2Proof.Machine.execPairHandshake dt peer activeIn s
  | .pairTimeout dt activeIn => Sys2Proof.Machine.execPairTimeout dt activeIn s
  | .seatBRecheck dt activeIn => Sys2Proof.Machine.execSeatBRecheck dt activeIn s
  | .pairHoldRetry dt => Sys2Proof.Machine.execPairHoldRetry dt s
  | .snapshotBlockReceive dt blk => Sys2Proof.Machine.execSnapshotBlockReceive dt blk s
  | .syncTimeout dt => Sys2Proof.Machine.execSyncTimeout dt s
  | .syncRetry dt => Sys2Proof.Machine.execSyncRetry dt s
  | .yuzSelftestDone dt results expected => Sys2Proof.Machine.execYuzSelftestDone dt results expected s
  | .runInEnd dt => Sys2Proof.Machine.execRunInEnd dt s
  | .loopTick dt moved clp txing => Sys2Proof.Machine.execLoopTick dt moved clp txing s
  | .frameBoundary dt => Sys2Proof.Machine.execFrameBoundary dt s
  | .helmCycleBoundary dt plan past => Sys2Proof.Machine.execHelmCycleBoundary dt plan past s
  | .blendEnd dt => Sys2Proof.Machine.execBlendEnd dt s
  | .modeCmdReady dt src tag => Sys2Proof.Machine.execModeCmdReady dt src tag s
  | .modeCmdStation dt src tag => Sys2Proof.Machine.execModeCmdStation dt src tag s
  | .modeCmdPassage dt src tag => Sys2Proof.Machine.execModeCmdPassage dt src tag s
  | .modeCmdSafe dt src tag => Sys2Proof.Machine.execModeCmdSafe dt src tag s
  | .modeCmdDormant dt src tag => Sys2Proof.Machine.execModeCmdDormant dt src tag s
  | .safeEntry dt => Sys2Proof.Machine.execSafeEntry dt s
  | .modeResetWrite dt port key => Sys2Proof.Machine.execModeResetWrite dt port key s
  | .modeResetTimeout dt => Sys2Proof.Machine.execModeResetTimeout dt s
  | .dormantEntryDone dt => Sys2Proof.Machine.execDormantEntryDone dt s
  | .canWakePattern dt ch => Sys2Proof.Machine.execCanWakePattern dt ch s
  | .wakeInWake dt level => Sys2Proof.Machine.execWakeInWake dt level s
  | .rtcAlarm dt => Sys2Proof.Machine.execRtcAlarm dt s
  | .safeInputWake dt input => Sys2Proof.Machine.execSafeInputWake dt input s
  | .hostWake dt perst => Sys2Proof.Machine.execHostWake dt perst s
  | .modeTickLoRead dt port => Sys2Proof.Machine.execModeTickLoRead dt port s
  | .engineLockstepMismatch dt engine => Sys2Proof.Machine.execEngineLockstepMismatch dt engine s
  | .eccUncorrectable dt mem unit => Sys2Proof.Machine.execEccUncorrectable dt mem unit s
  | .eccCorrection dt mem => Sys2Proof.Machine.execEccCorrection dt mem s
  | .clockMonitorWindow dt counts => Sys2Proof.Machine.execClockMonitorWindow dt counts s
  | .xtal32kLoss dt => Sys2Proof.Machine.execXtal32kLoss dt s
  | .networkPriorityAging dt port waited => Sys2Proof.Machine.execNetworkPriorityAging dt port waited s
  | .mnfInstall dt port image run => Sys2Proof.Machine.execMnfInstall dt port image run s
  | .mnfRestore dt port run => Sys2Proof.Machine.execMnfRestore dt port run s
  | .installResume dt run => Sys2Proof.Machine.execInstallResume dt run s
  | .journalWrite dt readbackOk => Sys2Proof.Machine.execJournalWrite dt readbackOk s
  | .rollCallIssue dt => Sys2Proof.Machine.execRollCallIssue dt s
  | .rollCallReply dt node mark seq => Sys2Proof.Machine.execRollCallReply dt node mark seq s
  | .fblEvaluationStart dt list => Sys2Proof.Machine.execFblEvaluationStart dt list s
  | .fblEvaluationEnd dt list => Sys2Proof.Machine.execFblEvaluationEnd dt list s
  | .fblOverrunLimit dt list => Sys2Proof.Machine.execFblOverrunLimit dt list s
  | .roleNewChal dt port chal => Sys2Proof.Machine.execRoleNewChal dt port chal s
  | .roleOpen dt port role => Sys2Proof.Machine.execRoleOpen dt port role s
  | .roleClose dt port => Sys2Proof.Machine.execRoleClose dt port s
  | .challengeExpiry dt => Sys2Proof.Machine.execChallengeExpiry dt s
  | .openLockExpiry dt => Sys2Proof.Machine.execOpenLockExpiry dt s
  | .sessionIdleTimeout dt => Sys2Proof.Machine.execSessionIdleTimeout dt s
  | .roleKeyMaker dt port keyId => Sys2Proof.Machine.execRoleKeyMaker dt port keyId s
  | .roleKeyInstaller dt port keyId => Sys2Proof.Machine.execRoleKeyInstaller dt port keyId s
  | .roleKeyOperator dt port keyId => Sys2Proof.Machine.execRoleKeyOperator dt port keyId s
  | .installerParamChange dt port param value => Sys2Proof.Machine.execInstallerParamChange dt port param value s
  | .timeLatch dt port => Sys2Proof.Machine.execTimeLatch dt port s
  | .postmarkReadLatch dt port off => Sys2Proof.Machine.execPostmarkReadLatch dt port off s
  | .singleStep dt => Sys2Proof.Machine.execSingleStep dt s
  | .servoUpdate dt freqErr offset utc => Sys2Proof.Machine.execServoUpdate dt freqErr offset utc s
  | .sourceLost dt src => Sys2Proof.Machine.execSourceLost dt src s
  | .sourceReturn dt src offset => Sys2Proof.Machine.execSourceReturn dt src offset s
  | .recoveryLock dt => Sys2Proof.Machine.execRecoveryLock dt s
  | .uncLimitExceeded dt => Sys2Proof.Machine.execUncLimitExceeded dt s
  | .gridAligned dt => Sys2Proof.Machine.execGridAligned dt s
  | .leapSecondApply dt => Sys2Proof.Machine.execLeapSecondApply dt s
  | .ppsOutPulse dt nextQerr => Sys2Proof.Machine.execPpsOutPulse dt nextQerr s
  | .ppsOutPulseEnd dt => Sys2Proof.Machine.execPpsOutPulseEnd dt s
  | .ppsInEdge dt => Sys2Proof.Machine.execPpsInEdge dt s
  | .ext10mLoss dt => Sys2Proof.Machine.execExt10mLoss dt s
  | .ext10mRestore dt => Sys2Proof.Machine.execExt10mRestore dt s
  | .ptpEventMessage dt port r => Sys2Proof.Machine.execPtpEventMessage dt port r s
  | .ptpGeneralMessage dt port r => Sys2Proof.Machine.execPtpGeneralMessage dt port r s
  | .ptpSyncTransmit dt port interval => Sys2Proof.Machine.execPtpSyncTransmit dt port interval s
  | .ptpAnnounceTransmit dt port interval => Sys2Proof.Machine.execPtpAnnounceTransmit dt port interval s
  | .ptpDelayReqTransmit dt port interval => Sys2Proof.Machine.execPtpDelayReqTransmit dt port interval s
  | .triggerUnitFire dt unit => Sys2Proof.Machine.execTriggerUnitFire dt unit s
  | .feClockMeasure dt l1 l5 => Sys2Proof.Machine.execFeClockMeasure dt l1 l5 s
  | .bandRetry dt band ppb scriptOk => Sys2Proof.Machine.execBandRetry dt band ppb scriptOk s
  | .gnssStart dt script1 script5 => Sys2Proof.Machine.execGnssStart dt script1 script5 s
  | .acquisitionDone dt band ch constel prn found doppler cn0 l5Ch => Sys2Proof.Machine.execAcquisitionDone dt band ch constel prn found doppler cn0 l5Ch s
  | .reacqWiden dt band ch => Sys2Proof.Machine.execReacqWiden dt band ch s
  | .gnssEpoch dt sol => Sys2Proof.Machine.execGnssEpoch dt sol s
  | .positionMessageWrite dt => Sys2Proof.Machine.execPositionMessageWrite dt s
  | .timePulseMessage dt offset sats timeOk utcOfs unc => Sys2Proof.Machine.execTimePulseMessage dt offset sats timeOk utcOfs unc s
  | .gnssSleepCmd dt port => Sys2Proof.Machine.execGnssSleepCmd dt port s
  | .gnssSleepEntry dt ret => Sys2Proof.Machine.execGnssSleepEntry dt ret s
  | .gnssWakeCmd dt port => Sys2Proof.Machine.execGnssWakeCmd dt port s
  | .gnssColdCmd dt port => Sys2Proof.Machine.execGnssColdCmd dt port s
  | .retainWrite dt ret => Sys2Proof.Machine.execRetainWrite dt ret s
  | .ephRefreshWake dt => Sys2Proof.Machine.execEphRefreshWake dt s
  | .refreshEnd dt fresh ret => Sys2Proof.Machine.execRefreshEnd dt fresh ret s
  | .estCommit dt u => Sys2Proof.Machine.execEstCommit dt u s
  | .estUpdateAbandon dt => Sys2Proof.Machine.execEstUpdateAbandon dt s
  | .estOverrunLimit dt => Sys2Proof.Machine.execEstOverrunLimit dt s
  | .ownGateReinit dt slot jump => Sys2Proof.Machine.execOwnGateReinit dt slot jump s
  | .sourceFrozen dt slot => Sys2Proof.Machine.execSourceFrozen dt slot s
  | .skewRecovered dt slot => Sys2Proof.Machine.execSkewRecovered dt slot s
  | .slotWaiting dt slot => Sys2Proof.Machine.execSlotWaiting dt slot s
  | .disputeEnd dt group => Sys2Proof.Machine.execDisputeEnd dt group s
  | .reentryComplete dt slot => Sys2Proof.Machine.execReentryComplete dt slot s
  | .reentryHoldRecord dt slot => Sys2Proof.Machine.execReentryHoldRecord dt slot s
  | .estSrcDeselect dt src slot => Sys2Proof.Machine.execEstSrcDeselect dt src slot s
  | .estSrcSelect dt src slot => Sys2Proof.Machine.execEstSrcSelect dt src slot s
  | .trackCoastTimeout dt track => Sys2Proof.Machine.execTrackCoastTimeout dt track s
  | .trackLostTimeout dt track => Sys2Proof.Machine.execTrackLostTimeout dt track s
  | .trackSourceExclude dt track source => Sys2Proof.Machine.execTrackSourceExclude dt track source s
  | .wavePeakSearch dt freqs => Sys2Proof.Machine.execWavePeakSearch dt freqs s
  | .heaveMruTimeout dt => Sys2Proof.Machine.execHeaveMruTimeout dt s
  | .lawCmdPosition dt src tag => Sys2Proof.Machine.execLawCmdPosition dt src tag s
  | .lawCmdTarget dt src tag => Sys2Proof.Machine.execLawCmdTarget dt src tag s
  | .lawCmdTrack dt src tag => Sys2Proof.Machine.execLawCmdTrack dt src tag s
  | .lawCmdAutohdg dt src tag => Sys2Proof.Machine.execLawCmdAutohdg dt src tag s
  | .lawCmdJoystick dt src tag => Sys2Proof.Machine.execLawCmdJoystick dt src tag s
  | .spCmdPosition dt src tag => Sys2Proof.Machine.execSpCmdPosition dt src tag s
  | .spCmdTarget dt src tag => Sys2Proof.Machine.execSpCmdTarget dt src tag s
  | .spCmdTrack dt src tag => Sys2Proof.Machine.execSpCmdTrack dt src tag s
  | .helmSolveDone dt tau => Sys2Proof.Machine.execHelmSolveDone dt tau s
  | .helmMissLimit dt => Sys2Proof.Machine.execHelmMissLimit dt s
  | .allocSolveDone dt forces => Sys2Proof.Machine.execAllocSolveDone dt forces s
  | .allocMissLimit dt => Sys2Proof.Machine.execAllocMissLimit dt s
  | .consReadySubmit dt => Sys2Proof.Machine.execConsReadySubmit dt s
  | .consBatchDone dt cases => Sys2Proof.Machine.execConsBatchDone dt cases s
  | .consMissLimit dt => Sys2Proof.Machine.execConsMissLimit dt s
  | .allocShort dt => Sys2Proof.Machine.execAllocShort dt s
  | .busPowerHoldExpiry dt bus => Sys2Proof.Machine.execBusPowerHoldExpiry dt bus s
  | .followFault dt thr => Sys2Proof.Machine.execFollowFault dt thr s
  | .allocThrDeselect dt src thr => Sys2Proof.Machine.execAllocThrDeselect dt src thr s
  | .allocThrSelect dt src thr => Sys2Proof.Machine.execAllocThrSelect dt src thr s
  | .yuzBatchStart dt => Sys2Proof.Machine.execYuzBatchStart dt s
  | .yuzBatchDone dt items => Sys2Proof.Machine.execYuzBatchDone dt items s
  | .yuzDeadlineStop dt items cycles overrun => Sys2Proof.Machine.execYuzDeadlineStop dt items cycles overrun s
  | .standbyLag dt => Sys2Proof.Machine.execStandbyLag dt s
  | .loopCellRun dt cell counts => Sys2Proof.Machine.execLoopCellRun dt cell counts s
  | .cellMissLimit dt cell => Sys2Proof.Machine.execCellMissLimit dt cell s
  | .encoderIndex dt enc moved => Sys2Proof.Machine.execEncoderIndex dt enc moved s
  | .encoderEdgeError dt enc moved => Sys2Proof.Machine.execEncoderEdgeError dt enc moved s
  | .pwmPeriodStart dt ch => Sys2Proof.Machine.execPwmPeriodStart dt ch s
  | .injectionStart dt port => Sys2Proof.Machine.execInjectionStart dt port s
  | .injectionStop dt port => Sys2Proof.Machine.execInjectionStop dt port s
  | .injectionEnd dt cell => Sys2Proof.Machine.execInjectionEnd dt cell s
  | .captureArm dt port => Sys2Proof.Machine.execCaptureArm dt port s
  | .captureForce dt port => Sys2Proof.Machine.execCaptureForce dt port s
  | .captureAbort dt port => Sys2Proof.Machine.execCaptureAbort dt port s
  | .captureDone dt unit => Sys2Proof.Machine.execCaptureDone dt unit s
  | .loopCellSpRead dt port => Sys2Proof.Machine.execLoopCellSpRead dt port s
  | .mfnEnable dt src fn tag => Sys2Proof.Machine.execMfnEnable dt src fn tag s
  | .mfnDisable dt src fn tag => Sys2Proof.Machine.execMfnDisable dt src fn tag s
  | .mfnReset dt src fn tag => Sys2Proof.Machine.execMfnReset dt src fn tag s
  | .armTimeout dt fn => Sys2Proof.Machine.execArmTimeout dt fn s
  | .stopBandReached dt fn => Sys2Proof.Machine.execStopBandReached dt fn s
  | .stopTimeout dt fn => Sys2Proof.Machine.execStopTimeout dt fn s
  | .satTimeout dt cell => Sys2Proof.Machine.execSatTimeout dt cell s
  | .converterResult dt ch comb ovr => Sys2Proof.Machine.execConverterResult dt ch comb ovr s
  | .settlingDone dt ch comb => Sys2Proof.Machine.execSettlingDone dt ch comb s
  | .bitstreamFault dt ch periods => Sys2Proof.Machine.execBitstreamFault dt ch periods s
  | .bitstreamRecovery dt ch presentNs => Sys2Proof.Machine.execBitstreamRecovery dt ch presentNs s
  | .sarTrigger dt ch => Sys2Proof.Machine.execSarTrigger dt ch s
  | .sarResult dt ch codes => Sys2Proof.Machine.execSarResult dt ch codes s
  | .vrefCheck dt diff => Sys2Proof.Machine.execVrefCheck dt diff s
  | .adcChResRead dt port => Sys2Proof.Machine.execAdcChResRead dt port s
  | .sourceFailure dt ch => Sys2Proof.Machine.execSourceFailure dt ch s
  | .supplyStep dt ch => Sys2Proof.Machine.execSupplyStep dt ch s
  | .complianceSet dt ch => Sys2Proof.Machine.execComplianceSet dt ch s
  | .complianceClear dt ch => Sys2Proof.Machine.execComplianceClear dt ch s
  | .complianceRestoreCheck dt ch => Sys2Proof.Machine.execComplianceRestoreCheck dt ch s
  | .hartPollDue dt modem => Sys2Proof.Machine.execHartPollDue dt modem s
  | .hartReply dt modem r => Sys2Proof.Machine.execHartReply dt modem r s
  | .hartRetry dt modem => Sys2Proof.Machine.execHartRetry dt modem s
  | .hartIdRetry dt modem addr => Sys2Proof.Machine.execHartIdRetry dt modem addr s
  | .hartPause dt port => Sys2Proof.Machine.execHartPause dt port s
  | .hartResume dt port => Sys2Proof.Machine.execHartResume dt port s
  | .stepMove dt src ch tag target => Sys2Proof.Machine.execStepMove dt src ch tag target s
  | .stepVelocity dt src ch tag speed => Sys2Proof.Machine.execStepVelocity dt src ch tag speed s
  | .stepHalt dt src ch tag => Sys2Proof.Machine.execStepHalt dt src ch tag s
  | .stepStop dt src ch tag => Sys2Proof.Machine.execStepStop dt src ch tag s
  | .stepHome dt src ch tag => Sys2Proof.Machine.execStepHome dt src ch tag s
  | .stepReset dt src ch tag => Sys2Proof.Machine.execStepReset dt src ch tag s
  | .generatorUpdate dt switches angles => Sys2Proof.Machine.execGeneratorUpdate dt switches angles s
  | .chopperCrossing dt ch coil hi cycles => Sys2Proof.Machine.execChopperCrossing dt ch coil hi cycles s
  | .openCoil dt ch coil => Sys2Proof.Machine.execOpenCoil dt ch coil s
  | .shortCoil dt ch coil => Sys2Proof.Machine.execShortCoil dt ch coil s
  | .holdCurrentReduce dt ch => Sys2Proof.Machine.execHoldCurrentReduce dt ch s
  | .limitSwitchDebounced dt ch pos => Sys2Proof.Machine.execLimitSwitchDebounced dt ch pos s
  | .homeSwitchDebounced dt ch => Sys2Proof.Machine.execHomeSwitchDebounced dt ch s
  | .homingBackoffDone dt ch => Sys2Proof.Machine.execHomingBackoffDone dt ch s
  | .islandCycle dt moved edm rbA rbB => Sys2Proof.Machine.execIslandCycle dt moved edm rbA rbB s
  | .safeInputChange dt input chB level => Sys2Proof.Machine.execSafeInputChange dt input chB level s
  | .inputDiscrepancy dt input => Sys2Proof.Machine.execInputDiscrepancy dt input s
  | .islandLockstepMismatch dt => Sys2Proof.Machine.execIslandLockstepMismatch dt s
  | .islandWatchdogExpiry dt => Sys2Proof.Machine.execIslandWatchdogExpiry dt s
  | .islandClockFault dt => Sys2Proof.Machine.execIslandClockFault dt s
  | .islandEccError dt => Sys2Proof.Machine.execIslandEccError dt s
  | .paramCrcRecheck dt crc => Sys2Proof.Machine.execParamCrcRecheck dt crc s
  | .testPulseStart dt out chB filtering => Sys2Proof.Machine.execTestPulseStart dt out chB filtering s
  | .testPulseEnd dt out chB => Sys2Proof.Machine.execTestPulseEnd dt out chB s
  | .testOffCheck dt out chB us => Sys2Proof.Machine.execTestOffCheck dt out chB us s
  | .readbackFault dt out chB us => Sys2Proof.Machine.execReadbackFault dt out chB us s
  | .testStarved dt out chB => Sys2Proof.Machine.execTestStarved dt out chB s
  | .edmFault dt out => Sys2Proof.Machine.execEdmFault dt out s
  | .axisDiscrepancy dt axis => Sys2Proof.Machine.execAxisDiscrepancy dt axis s
  | .safetyEncoderIndex dt axis moved => Sys2Proof.Machine.execSafetyEncoderIndex dt axis moved s
  | .safetyEncoderError dt axis => Sys2Proof.Machine.execSafetyEncoderError dt axis s
  | .safeResetPress dt lowMs => Sys2Proof.Machine.execSafeResetPress dt lowMs s
  | .safeResetStuck dt lowMs => Sys2Proof.Machine.execSafeResetStuck dt lowMs s
  | .safeCvCommit dt port => Sys2Proof.Machine.execSafeCvCommit dt port s
  | .safeOffReqWrite dt port mask => Sys2Proof.Machine.execSafeOffReqWrite dt port mask s
  | .permitMailboxWrite dt => Sys2Proof.Machine.execPermitMailboxWrite dt s
  | .sealReceive dt sl => Sys2Proof.Machine.execSealReceive dt sl s
  | .inputRecordReceive dt r => Sys2Proof.Machine.execInputRecordReceive dt r s
  | .commandRecordReceive dt c => Sys2Proof.Machine.execCommandRecordReceive dt c s
  | .verdictReceive dt batch stop => Sys2Proof.Machine.execVerdictReceive dt batch stop s
  | .timeRecordReceive dt phase rate stepped => Sys2Proof.Machine.execTimeRecordReceive dt phase rate stepped s
  | .statusReceive dt state lag inst cv => Sys2Proof.Machine.execStatusReceive dt state lag inst cv s
  | .resendReceive dt records => Sys2Proof.Machine.execResendReceive dt records s
  | .divergeReceive dt scope cell tick => Sys2Proof.Machine.execDivergeReceive dt scope cell tick s
  | .confirmReceive dt scope cell tick => Sys2Proof.Machine.execConfirmReceive dt scope cell tick s
  | .giveUpReceive dt cause tick => Sys2Proof.Machine.execGiveUpReceive dt cause tick s
  | .replayDone dt tick lagNs own cell => Sys2Proof.Machine.execReplayDone dt tick lagNs own cell s
  | .tickLagExceeded dt lagNs => Sys2Proof.Machine.execTickLagExceeded dt lagNs s
  | .standbyLagLimit dt => Sys2Proof.Machine.execStandbyLagLimit dt s
  | .laneDown dt lane activeIn => Sys2Proof.Machine.execLaneDown dt lane activeIn s
  | .laneRetrain dt lane up => Sys2Proof.Machine.execLaneRetrain dt lane up s
  | .takeover dt activeInLowNs peerOkLowNs missed => Sys2Proof.Machine.execTakeover dt activeInLowNs peerOkLowNs missed s
  | .sidebandTimeout dt => Sys2Proof.Machine.execSidebandTimeout dt s
  | .sidebandDisagree dt activeIn peerOkIn => Sys2Proof.Machine.execSidebandDisagree dt activeIn peerOkIn s
  | .peerOkLowTimeout dt lowNs => Sys2Proof.Machine.execPeerOkLowTimeout dt lowNs s
  | .twinPlaus dt cls idx diff heldNs => Sys2Proof.Machine.execTwinPlaus dt cls idx diff heldNs s
  | .twinHoTickLoRead dt port => Sys2Proof.Machine.execTwinHoTickLoRead dt port s
  | .pwrLatTolWrite dt port us => Sys2Proof.Machine.execPwrLatTolWrite dt port us s
  | .lullGapEntry dt dom nextNs => Sys2Proof.Machine.execLullGapEntry dt dom nextNs s
  | .lullGapWake dt dom => Sys2Proof.Machine.execLullGapWake dt dom s
  | .lull3Entry dt => Sys2Proof.Machine.execLull3Entry dt s
  | .lull3WakeDone dt => Sys2Proof.Machine.execLull3WakeDone dt s
  | .sensorWindow dt vals => Sys2Proof.Machine.execSensorWindow dt vals s
  | .sensorBroken dt sensor => Sys2Proof.Machine.execSensorBroken dt sensor s
  | .sensorReturn dt sensor => Sys2Proof.Machine.execSensorReturn dt sensor s
  | .shutdownPowerOff dt flashOp waitUs => Sys2Proof.Machine.execShutdownPowerOff dt flashOp waitUs s
  | .canFrameReceive dt ch f => Sys2Proof.Machine.execCanFrameReceive dt ch f s
  | .canEsIdRead dt port ch slot => Sys2Proof.Machine.execCanEsIdRead dt port ch slot s
  | .canEsData15Read dt port ch slot => Sys2Proof.Machine.execCanEsData15Read dt port ch slot s
  | .canEsLockTimeout dt ch slot => Sys2Proof.Machine.execCanEsLockTimeout dt ch slot s
  | .canPeriodicTransmit dt ch mb sof => Sys2Proof.Machine.execCanPeriodicTransmit dt ch mb sof s
  | .canTxAttemptEnd dt ch mb r => Sys2Proof.Machine.execCanTxAttemptEnd dt ch mb r s
  | .canMailboxCancel dt ch mb sof => Sys2Proof.Machine.execCanMailboxCancel dt ch mb sof s
  | .canRecover dt port ch => Sys2Proof.Machine.execCanRecover dt port ch s
  | .busoffRecoveryDone dt ch => Sys2Proof.Machine.execBusoffRecoveryDone dt ch s
  | .squallLoadUpdate dt ch busy => Sys2Proof.Machine.execSquallLoadUpdate dt ch busy s
  | .canSquallAlarm dt ch => Sys2Proof.Machine.execCanSquallAlarm dt ch s
  | .n2kAddressClaim dt ch => Sys2Proof.Machine.execN2kAddressClaim dt ch s
  | .n2kClaimReceive dt ch request name addr => Sys2Proof.Machine.execN2kClaimReceive dt ch request name addr s
  | .ethFrameReceive dt port f => Sys2Proof.Machine.execEthFrameReceive dt port f s
  | .ethPeriodicTransmit dt port tx => Sys2Proof.Machine.execEthPeriodicTransmit dt port tx s
  | .gateListEntry dt port => Sys2Proof.Machine.execGateListEntry dt port s
  | .ethFrameTransmitDone dt port => Sys2Proof.Machine.execEthFrameTransmitDone dt port s
  | .phyStatusPoll dt port link speed => Sys2Proof.Machine.execPhyStatusPoll dt port link speed s
  | .phyScriptRetry dt port ok reg => Sys2Proof.Machine.execPhyScriptRetry dt port ok reg s
  | .ethSquallUpdate dt port busy => Sys2Proof.Machine.execEthSquallUpdate dt port busy s
  | .ethSquallAlarm dt port => Sys2Proof.Machine.execEthSquallAlarm dt port s
  | .dispatchReport dt => Sys2Proof.Machine.execDispatchReport dt s
  | .workRecordSample dt => Sys2Proof.Machine.execWorkRecordSample dt s
  | .workRecordTileSeal dt => Sys2Proof.Machine.execWorkRecordTileSeal dt s
  | .ethWrAckWrite dt port v => Sys2Proof.Machine.execEthWrAckWrite dt port v s
  | .ethWrHeadLoRead dt port => Sys2Proof.Machine.execEthWrHeadLoRead dt port s
  | .hostLinkReset dt perst downMs => Sys2Proof.Machine.execHostLinkReset dt perst downMs s
  | .spiWriteTransaction dt opcode addr words bad aux => Sys2Proof.Machine.execSpiWriteTransaction dt opcode addr words bad aux s
  | .spiReadTransaction dt addr n => Sys2Proof.Machine.execSpiReadTransaction dt addr n s
  | .openRecordTimeout dt => Sys2Proof.Machine.execOpenRecordTimeout dt s
  | .recorderFlush dt readbackOk => Sys2Proof.Machine.execRecorderFlush dt readbackOk s
  | .sectorEraseDone dt => Sys2Proof.Machine.execSectorEraseDone dt s
  | .flushHeldTimeout dt => Sys2Proof.Machine.execFlushHeldTimeout dt s
  | .logFetchStart dt port hi => Sys2Proof.Machine.execLogFetchStart dt port hi s
  | .logFetchDone dt => Sys2Proof.Machine.execLogFetchDone dt s
  | .logSeqLoRead dt port off => Sys2Proof.Machine.execLogSeqLoRead dt port off s
  | .logMarkWrite dt port hi => Sys2Proof.Machine.execLogMarkWrite dt port hi s
  | .logErase dt port key => Sys2Proof.Machine.execLogErase dt port key s
  | .logBackgroundEraseDone dt => Sys2Proof.Machine.execLogBackgroundEraseDone dt s
  | .pointWindowRead dt port ofs => Sys2Proof.Machine.execPointWindowRead dt port ofs s
  | .pointQualityStage dt port ofs code => Sys2Proof.Machine.execPointQualityStage dt port ofs code s
  | .pointValueLowStage dt port ofs value => Sys2Proof.Machine.execPointValueLowStage dt port ofs value s
  | .pointValueCommit dt port ofs value => Sys2Proof.Machine.execPointValueCommit dt port ofs value s
  | .pointWindowOtherWrite dt port ofs => Sys2Proof.Machine.execPointWindowOtherWrite dt port ofs s
  | .alarmAck dt port entry => Sys2Proof.Machine.execAlarmAck dt port entry s
  | .pgnRead dt port n => Sys2Proof.Machine.execPgnRead dt port n s
  | .pgnRestart dt port n => Sys2Proof.Machine.execPgnRestart dt port n s
  | .pgnDiscard dt port n => Sys2Proof.Machine.execPgnDiscard dt port n s
  | .pgnWrite dt port n word => Sys2Proof.Machine.execPgnWrite dt port n word s
  | .irqAck dt port vector => Sys2Proof.Machine.execIrqAck dt port vector s
  | .msixUnmask dt port vector => Sys2Proof.Machine.execMsixUnmask dt port vector s
  | .registerWrite dt port off value whole aux => Sys2Proof.Machine.execRegisterWrite dt port off value whole aux s
  | .railPowerGood dt rails => Sys2Proof.Machine.execRailPowerGood dt rails s
  | .perstNRelease dt gen width msix => Sys2Proof.Machine.execPerstNRelease dt gen width msix s
  | .sgmiiLinkChange dt port link speed => Sys2Proof.Machine.execSgmiiLinkChange dt port link speed s
  | .satelliteLockLoss dt band ch => Sys2Proof.Machine.execSatelliteLockLoss dt band ch s
  | .canRxError dt ch lec dataPhase inc exception => Sys2Proof.Machine.execCanRxError dt ch lec dataPhase inc exception s
  | .canBusIntegrationDone dt ch => Sys2Proof.Machine.execCanBusIntegrationDone dt ch s
  | .wakeEventForwardReceive dt => Sys2Proof.Machine.execWakeEventForwardReceive dt s
  | .stagedImageReceive dt image run => Sys2Proof.Machine.execStagedImageReceive dt image run s

end Sys2Proof.Machine
end

