-- ==== Sys2Proof/Machine/Step.lean ====
section
/-!
DEFINITION. One step of the block: the command at the front of the queue is taken and runs on the state with the queue's rest. With
no command waiting the block idles (DESIGN CHOICE, notes/assumptions).
-/

namespace Sys2Proof.Machine

open Sys2Proof

/-- One step. [Log DESIGN CHOICE: 2] -/
def step (s : State) : Host.Outcome State Fault Refusal :=
  match s.pending with
  | [] => .next s
  | c :: rest => exec c { s with pending := rest }

/-- The state with the command that a word spells at the front of its queue; unchanged where it spells none.
[Log DESIGN CHOICE: 3] -/
def State.withFetchWord (s : State) (nbits w : Nat) : State :=
  match decodeTableWord nbits w with
  | some c => { s with pending := c :: s.pending }
  | none => s

end Sys2Proof.Machine
end

