-- ==== Sys2Proof/Safety.lean ====
section
/-!
DEFINITION. What a safe run is, in the terms that claims use: the canonical form of every table that a command may grow, what no
command between two clocks may disturb, and the frame of a command: the state it leaves apart from named registers, and
apart from the recorder, the alarm list, the pigeonholes and the interrupt logic, which any command may have to tell.
-/

namespace Sys2Proof.Machine

open Sys2Proof

/-! ### Canonical form -/

/-- Every numbered table strictly rises, so that equal contents are equal data. -/
def State.canon (s : State) : Prop :=
  tsorted 0 s.regs = true ∧ Memory.wf s.mnf.stage = true ∧ tsorted 0 s.pts = true ∧ tsorted 0 s.pgn = true ∧
  tsorted 0 s.alarms = true ∧ tsorted 0 s.msix = true ∧ tsorted 0 s.msiSent = true

/-- What every operation leaves as it found it: the up-time, the queue, the unique identity, a programmed Maker key (R85), and the
canonical form of the tables. -/
structure Steady (s t : State) : Prop where
  now : t.now = s.now
  pending : t.pending = s.pending
  uid : t.role.uid = s.role.uid
  maker : ∀ k, s.role.makerKey = some k → t.role.makerKey = some k
  canon : s.canon → t.canon

/-! ### Frames -/

/-- The registers in which the recorder, the alarm list, the pigeonholes and the interrupt logic tell what happened. -/
def noteFlds : List Fld :=
  [R.LOG_EVT_RAM_75, R.LOG_EVT_LOST, R.LOG_LOST_RAM, R.LOG_LOST_HOLD, R.PGN_HEAD_INDEX, R.PGN_TAIL_INDEX, R.PGN_STAT_PEAK,
   R.PGN_STAT_LOST, R.PGN_DROP_DROPPED, R.PGN_DROP_DEAD, R.IRQ_ARMED_ARMED, R.IRQ_FIRED_COUNT, R.DEV_ALARM_SUM_OVERFLOW,
   R.DEV_EVT_ALARM_RAISED, R.DEV_EVT_ALARM_CLEARED, R.DEV_EVT_PGN_OVERFLOW, R.DEV_EVT_DEAD_LETTER]

/-- The key of a field in bank 0; banks lie 8,388,608 apart. -/
def fkey (f : Fld) : Nat := (f.off * 32 + f.lo) % 8388608

/-- A field is one of them. -/
def noteFld (f : Fld) : Bool := (noteFlds.map fkey).contains (fkey f)

/-- A key of the register table belongs to one of them, in any bank. -/
def noteKey (k : Nat) : Bool := (noteFlds.map fkey).contains (k % 8388608)

/-- The state without its registers and without what the recorder, the alarm list, the pigeonholes and the interrupt logic
hold. -/
def State.plain (s : State) : State :=
  { s with regs := [], log := {}, alarms := [], pgn := [], msiSent := [], irqPba := 0 }

/-- `t` is `s` but for the registers listed and what is told of the command. -/
structure Framed (keys : List Nat) (s t : State) : Prop where
  plain : t.plain = s.plain
  regs : ∀ k, k ∉ keys → noteKey k = false → tfind t.regs k = tfind s.regs k

/-- The keys of fields in a bank. -/
def regKeys (b : Nat) (l : List Fld) : List Nat := l.map fun f => loc f b

/-- The block of the map (4 KiB) in which a key of the register table lies. -/
def blockOf (k : Nat) : Nat := k % 8388608 / 131072

/-- No register outside the blocks listed changes, apart from what is told of the command. -/
def FramedIn (blocks : List Nat) (s t : State) : Prop :=
  ∀ k, blockOf k ∉ blocks → noteKey k = false → tfind t.regs k = tfind s.regs k

/-! ### Groups of commands and of fields that statements name -/

/-- The fields that a domain reset keeps, in the always-on domain. -/
def keptFlds : List Fld := [R.PWR_WAKE_SRC_CAN, R.PWR_WAKE_SRC_WAKE_IN, R.PWR_WAKE_SRC_RTC, R.PWR_WAKE_SRC_SAFE_IN, R.PWR_WAKE_SRC_HOST, R.PWR_WAKE_SRC_POR, R.PWR_WAKE_SRC_THERMAL_OFF, R.PWR_RTC_ALARM_SEC, R.PWR_WAKE_EN_CAN, R.PWR_WAKE_EN_WAKE_IN, R.PWR_WAKE_EN_WAKE_POL, R.PWR_WAKE_EN_RTC, R.PWR_WAKE_EN_SAFE_IN, R.PWR_WAKE_EN_HOST, R.DEV_GRADE_GRADE, R.DEV_GRADE_ISLAND_FUSED, R.ROLE_STAT_MAKER_KEY, R.ROLE_STAT_INST_KEY, R.ROLE_STAT_OPER_KEY, R.MNF_STAT_INSTALL_CUT]

/-- The fields that leaving LULL3 writes. -/
def lullFlds : List Fld := [R.PWR_STAT_WAKING, R.PWR_LULL3_LAST_S, R.PWR_EVT_LULL3_OUT]

/-- The sources of PWR_WAKE_SRC. -/
def wakeFlds : List Fld := [R.PWR_WAKE_SRC_CAN, R.PWR_WAKE_SRC_WAKE_IN, R.PWR_WAKE_SRC_RTC, R.PWR_WAKE_SRC_SAFE_IN, R.PWR_WAKE_SRC_HOST, R.PWR_WAKE_SRC_POR, R.PWR_WAKE_SRC_THERMAL_OFF]

/-- The mode commands with the mode that each asks for. -/
def modeCmds (dt : Nat) (src : CmdSrc) (tag : Nat) : List (Nat × Instr) := [(2, .modeCmdReady dt src tag),
    (3, .modeCmdStation dt src tag), (4, .modeCmdPassage dt src tag), (5, .modeCmdSafe dt src tag),
    (0, .modeCmdDormant dt src tag)]

/-- The wakes from DORMANT: the field and the value each latches, whether it wakes, and the command. -/
def wakeCmds (dt k : Nat) (s : State) : List (Fld × Nat × Bool × Instr) := [(R.PWR_WAKE_SRC_CAN,
    (if k < 8 && (s.get R.PWR_WAKE_EN_CAN).testBit k then 2 ^ k else 0), true, .canWakePattern dt k),
    (R.PWR_WAKE_SRC_WAKE_IN, s.get R.PWR_WAKE_EN_WAKE_IN, true, .wakeInWake dt (s.flag R.PWR_WAKE_EN_WAKE_POL)),
    (R.PWR_WAKE_SRC_SAFE_IN, (if k < 16 then s.get R.PWR_WAKE_EN_SAFE_IN else 0), true, .safeInputWake dt k),
    (R.PWR_WAKE_SRC_HOST, s.get R.PWR_WAKE_EN_HOST, false, .hostWake dt false)]

/-- The law commands with the law that each asks for. -/
def lawCmds (dt : Nat) (src : CmdSrc) (tag : Nat) : List (Nat × Instr) := [(1, .lawCmdPosition dt src tag),
    (2, .lawCmdTarget dt src tag), (3, .lawCmdTrack dt src tag), (4, .lawCmdAutohdg dt src tag),
    (5, .lawCmdJoystick dt src tag)]

/-- The setpoint commands with the law that each is for. -/
def spCmds (dt : Nat) (src : CmdSrc) (tag : Nat) : List (Nat × Instr) := [(1, .spCmdPosition dt src tag),
    (2, .spCmdTarget dt src tag), (3, .spCmdTrack dt src tag)]

/-- The fields that show the result of a law or setpoint command. -/
def helmCmdFlds : List Fld := [R.HELM_CMD_STAT_RESULT, R.HELM_CMD_STAT_KIND, R.HELM_CMD_STAT_TAG]

/-- The commands of a machine function with their ACTION codes. -/
def mfnCmds (dt : Nat) (src : CmdSrc) (fn tag : Nat) : List (Nat × Instr) := [(1, .mfnEnable dt src fn tag),
    (2, .mfnDisable dt src fn tag), (3, .mfnReset dt src fn tag)]

/-- The commands of a microstep channel with their CMD codes and arguments. -/
def stepCmds (dt : Nat) (src : CmdSrc) (n tag : Nat)
    (arg : Int) : List (Nat × Int × Instr) := [(1, arg, .stepMove dt src n tag arg), (2, arg, .stepVelocity dt src n tag arg),
    (3, 0, .stepHalt dt src n tag), (4, 0, .stepStop dt src n tag), (5, 0, .stepHome dt src n tag),
    (6, 0, .stepReset dt src n tag)]

/-- The fields that a host command of a microstep channel writes. -/
def stepHostFlds : List Fld := [R.STEP_CMD_CMD, R.STEP_CMD_CH, R.STEP_CMD_TAG, R.STEP_CMD_ARG_ARG, R.STEP_CMD_STAT_RESULT, R.STEP_CMD_STAT_TAG]

/-- The island is locked out with a cause listed, and a permanent cause shows as one. -/
abbrev LockedOut (cause index : Nat) (s t : State) : Prop := t.islState = 3 ∧ (cause, index) ∈ t.isl.causes ∧
    (4 ≤ cause → cause ≤ 8 → t.get R.SAFE_STAT_PERMANENT = 1) ∧
    (s.islState = 3 → t.get R.SAFE_STAT_CAUSE = s.get R.SAFE_STAT_CAUSE) ∧
    (s.islState ≠ 3 → t.get R.SAFE_STAT_CAUSE = cause ∧ t.get R.SAFE_EVT_LOCKOUT = 1 ∧
    (s.man.safety.outs.all fun o => !(t.islOut o.1).on) = true)

/-- The faults that the safety island meets at any time, with their causes. -/
def islFaultCmds (dt : Nat) : List (Nat × Instr) := [(6, .islandWatchdogExpiry dt), (7, .islandClockFault dt),
    (8, .islandEccError dt)]

/-- The commands of the safety island. -/
def islCmds (dt n m : Nat) (b l : Bool)
    (z : List (Nat × Int)) : List Instr := [.islandCycle dt z m m m, .safeInputChange dt n b l, .islandLockstepMismatch dt, .islandWatchdogExpiry dt, .islandClockFault dt, .islandEccError dt, .paramCrcRecheck dt m, .testPulseStart dt n b l, .readbackFault dt n b m, .safeResetPress dt m, .safeResetStuck dt m, .permitMailboxWrite dt]

end Sys2Proof.Machine

namespace Sys2Proof

/-- How long after the command before it a command comes, in ns. [Log DESIGN CHOICE: 1] -/
def Instr.dt : Instr → Nat
  | .powerUp dt => dt
  | .porNRelease dt _ => dt
  | .porNAssert dt _ => dt
  | .brownOut dt _ _ => dt
  | .vddAonLoss dt => dt
  | .pllLock dt _ => dt
  | .pllRetry dt _ _ _ => dt
  | .headerReadDone dt _ _ => dt
  | .dramTrainingDone dt _ _ => dt
  | .manifestLoadDone dt _ _ => dt
  | .bistDone dt _ _ => dt
  | .claimsCheckDone dt => dt
  | .pairHandshake dt _ _ => dt
  | .pairTimeout dt _ => dt
  | .seatBRecheck dt _ => dt
  | .pairHoldRetry dt => dt
  | .snapshotBlockReceive dt _ => dt
  | .syncTimeout dt => dt
  | .syncRetry dt => dt
  | .yuzSelftestDone dt _ _ => dt
  | .runInEnd dt => dt
  | .loopTick dt _ _ _ => dt
  | .frameBoundary dt => dt
  | .helmCycleBoundary dt _ _ => dt
  | .blendEnd dt => dt
  | .modeCmdReady dt _ _ => dt
  | .modeCmdStation dt _ _ => dt
  | .modeCmdPassage dt _ _ => dt
  | .modeCmdSafe dt _ _ => dt
  | .modeCmdDormant dt _ _ => dt
  | .safeEntry dt => dt
  | .modeResetWrite dt _ _ => dt
  | .modeResetTimeout dt => dt
  | .dormantEntryDone dt => dt
  | .canWakePattern dt _ => dt
  | .wakeInWake dt _ => dt
  | .rtcAlarm dt => dt
  | .safeInputWake dt _ => dt
  | .hostWake dt _ => dt
  | .modeTickLoRead dt _ => dt
  | .engineLockstepMismatch dt _ => dt
  | .eccUncorrectable dt _ _ => dt
  | .eccCorrection dt _ => dt
  | .clockMonitorWindow dt _ => dt
  | .xtal32kLoss dt => dt
  | .networkPriorityAging dt _ _ => dt
  | .mnfInstall dt _ _ _ => dt
  | .mnfRestore dt _ _ => dt
  | .installResume dt _ => dt
  | .journalWrite dt _ => dt
  | .rollCallIssue dt => dt
  | .rollCallReply dt _ _ _ => dt
  | .fblEvaluationStart dt _ => dt
  | .fblEvaluationEnd dt _ => dt
  | .fblOverrunLimit dt _ => dt
  | .roleNewChal dt _ _ => dt
  | .roleOpen dt _ _ => dt
  | .roleClose dt _ => dt
  | .challengeExpiry dt => dt
  | .openLockExpiry dt => dt
  | .sessionIdleTimeout dt => dt
  | .roleKeyMaker dt _ _ => dt
  | .roleKeyInstaller dt _ _ => dt
  | .roleKeyOperator dt _ _ => dt
  | .installerParamChange dt _ _ _ => dt
  | .timeLatch dt _ => dt
  | .postmarkReadLatch dt _ _ => dt
  | .singleStep dt => dt
  | .servoUpdate dt _ _ _ => dt
  | .sourceLost dt _ => dt
  | .sourceReturn dt _ _ => dt
  | .recoveryLock dt => dt
  | .uncLimitExceeded dt => dt
  | .gridAligned dt => dt
  | .leapSecondApply dt => dt
  | .ppsOutPulse dt _ => dt
  | .ppsOutPulseEnd dt => dt
  | .ppsInEdge dt => dt
  | .ext10mLoss dt => dt
  | .ext10mRestore dt => dt
  | .ptpEventMessage dt _ _ => dt
  | .ptpGeneralMessage dt _ _ => dt
  | .ptpSyncTransmit dt _ _ => dt
  | .ptpAnnounceTransmit dt _ _ => dt
  | .ptpDelayReqTransmit dt _ _ => dt
  | .triggerUnitFire dt _ => dt
  | .feClockMeasure dt _ _ => dt
  | .bandRetry dt _ _ _ => dt
  | .gnssStart dt _ _ => dt
  | .acquisitionDone dt _ _ _ _ _ _ _ _ => dt
  | .reacqWiden dt _ _ => dt
  | .gnssEpoch dt _ => dt
  | .positionMessageWrite dt => dt
  | .timePulseMessage dt _ _ _ _ _ => dt
  | .gnssSleepCmd dt _ => dt
  | .gnssSleepEntry dt _ => dt
  | .gnssWakeCmd dt _ => dt
  | .gnssColdCmd dt _ => dt
  | .retainWrite dt _ => dt
  | .ephRefreshWake dt => dt
  | .refreshEnd dt _ _ => dt
  | .estCommit dt _ => dt
  | .estUpdateAbandon dt => dt
  | .estOverrunLimit dt => dt
  | .ownGateReinit dt _ _ => dt
  | .sourceFrozen dt _ => dt
  | .skewRecovered dt _ => dt
  | .slotWaiting dt _ => dt
  | .disputeEnd dt _ => dt
  | .reentryComplete dt _ => dt
  | .reentryHoldRecord dt _ => dt
  | .estSrcDeselect dt _ _ => dt
  | .estSrcSelect dt _ _ => dt
  | .trackCoastTimeout dt _ => dt
  | .trackLostTimeout dt _ => dt
  | .trackSourceExclude dt _ _ => dt
  | .wavePeakSearch dt _ => dt
  | .heaveMruTimeout dt => dt
  | .lawCmdPosition dt _ _ => dt
  | .lawCmdTarget dt _ _ => dt
  | .lawCmdTrack dt _ _ => dt
  | .lawCmdAutohdg dt _ _ => dt
  | .lawCmdJoystick dt _ _ => dt
  | .spCmdPosition dt _ _ => dt
  | .spCmdTarget dt _ _ => dt
  | .spCmdTrack dt _ _ => dt
  | .helmSolveDone dt _ => dt
  | .helmMissLimit dt => dt
  | .allocSolveDone dt _ => dt
  | .allocMissLimit dt => dt
  | .consReadySubmit dt => dt
  | .consBatchDone dt _ => dt
  | .consMissLimit dt => dt
  | .allocShort dt => dt
  | .busPowerHoldExpiry dt _ => dt
  | .followFault dt _ => dt
  | .allocThrDeselect dt _ _ => dt
  | .allocThrSelect dt _ _ => dt
  | .yuzBatchStart dt => dt
  | .yuzBatchDone dt _ => dt
  | .yuzDeadlineStop dt _ _ _ => dt
  | .standbyLag dt => dt
  | .loopCellRun dt _ _ => dt
  | .cellMissLimit dt _ => dt
  | .encoderIndex dt _ _ => dt
  | .encoderEdgeError dt _ _ => dt
  | .pwmPeriodStart dt _ => dt
  | .injectionStart dt _ => dt
  | .injectionStop dt _ => dt
  | .injectionEnd dt _ => dt
  | .captureArm dt _ => dt
  | .captureForce dt _ => dt
  | .captureAbort dt _ => dt
  | .captureDone dt _ => dt
  | .loopCellSpRead dt _ => dt
  | .mfnEnable dt _ _ _ => dt
  | .mfnDisable dt _ _ _ => dt
  | .mfnReset dt _ _ _ => dt
  | .armTimeout dt _ => dt
  | .stopBandReached dt _ => dt
  | .stopTimeout dt _ => dt
  | .satTimeout dt _ => dt
  | .converterResult dt _ _ _ => dt
  | .settlingDone dt _ _ => dt
  | .bitstreamFault dt _ _ => dt
  | .bitstreamRecovery dt _ _ => dt
  | .sarTrigger dt _ => dt
  | .sarResult dt _ _ => dt
  | .vrefCheck dt _ => dt
  | .adcChResRead dt _ => dt
  | .sourceFailure dt _ => dt
  | .supplyStep dt _ => dt
  | .complianceSet dt _ => dt
  | .complianceClear dt _ => dt
  | .complianceRestoreCheck dt _ => dt
  | .hartPollDue dt _ => dt
  | .hartReply dt _ _ => dt
  | .hartRetry dt _ => dt
  | .hartIdRetry dt _ _ => dt
  | .hartPause dt _ => dt
  | .hartResume dt _ => dt
  | .stepMove dt _ _ _ _ => dt
  | .stepVelocity dt _ _ _ _ => dt
  | .stepHalt dt _ _ _ => dt
  | .stepStop dt _ _ _ => dt
  | .stepHome dt _ _ _ => dt
  | .stepReset dt _ _ _ => dt
  | .generatorUpdate dt _ _ => dt
  | .chopperCrossing dt _ _ _ _ => dt
  | .openCoil dt _ _ => dt
  | .shortCoil dt _ _ => dt
  | .holdCurrentReduce dt _ => dt
  | .limitSwitchDebounced dt _ _ => dt
  | .homeSwitchDebounced dt _ => dt
  | .homingBackoffDone dt _ => dt
  | .islandCycle dt _ _ _ _ => dt
  | .safeInputChange dt _ _ _ => dt
  | .inputDiscrepancy dt _ => dt
  | .islandLockstepMismatch dt => dt
  | .islandWatchdogExpiry dt => dt
  | .islandClockFault dt => dt
  | .islandEccError dt => dt
  | .paramCrcRecheck dt _ => dt
  | .testPulseStart dt _ _ _ => dt
  | .testPulseEnd dt _ _ => dt
  | .testOffCheck dt _ _ _ => dt
  | .readbackFault dt _ _ _ => dt
  | .testStarved dt _ _ => dt
  | .edmFault dt _ => dt
  | .axisDiscrepancy dt _ => dt
  | .safetyEncoderIndex dt _ _ => dt
  | .safetyEncoderError dt _ => dt
  | .safeResetPress dt _ => dt
  | .safeResetStuck dt _ => dt
  | .safeCvCommit dt _ => dt
  | .safeOffReqWrite dt _ _ => dt
  | .permitMailboxWrite dt => dt
  | .sealReceive dt _ => dt
  | .inputRecordReceive dt _ => dt
  | .commandRecordReceive dt _ => dt
  | .verdictReceive dt _ _ => dt
  | .timeRecordReceive dt _ _ _ => dt
  | .statusReceive dt _ _ _ _ => dt
  | .resendReceive dt _ => dt
  | .divergeReceive dt _ _ _ => dt
  | .confirmReceive dt _ _ _ => dt
  | .giveUpReceive dt _ _ => dt
  | .replayDone dt _ _ _ _ => dt
  | .tickLagExceeded dt _ => dt
  | .standbyLagLimit dt => dt
  | .laneDown dt _ _ => dt
  | .laneRetrain dt _ _ => dt
  | .takeover dt _ _ _ => dt
  | .sidebandTimeout dt => dt
  | .sidebandDisagree dt _ _ => dt
  | .peerOkLowTimeout dt _ => dt
  | .twinPlaus dt _ _ _ _ => dt
  | .twinHoTickLoRead dt _ => dt
  | .pwrLatTolWrite dt _ _ => dt
  | .lullGapEntry dt _ _ => dt
  | .lullGapWake dt _ => dt
  | .lull3Entry dt => dt
  | .lull3WakeDone dt => dt
  | .sensorWindow dt _ => dt
  | .sensorBroken dt _ => dt
  | .sensorReturn dt _ => dt
  | .shutdownPowerOff dt _ _ => dt
  | .canFrameReceive dt _ _ => dt
  | .canEsIdRead dt _ _ _ => dt
  | .canEsData15Read dt _ _ _ => dt
  | .canEsLockTimeout dt _ _ => dt
  | .canPeriodicTransmit dt _ _ _ => dt
  | .canTxAttemptEnd dt _ _ _ => dt
  | .canMailboxCancel dt _ _ _ => dt
  | .canRecover dt _ _ => dt
  | .busoffRecoveryDone dt _ => dt
  | .squallLoadUpdate dt _ _ => dt
  | .canSquallAlarm dt _ => dt
  | .n2kAddressClaim dt _ => dt
  | .n2kClaimReceive dt _ _ _ _ => dt
  | .ethFrameReceive dt _ _ => dt
  | .ethPeriodicTransmit dt _ _ => dt
  | .gateListEntry dt _ => dt
  | .ethFrameTransmitDone dt _ => dt
  | .phyStatusPoll dt _ _ _ => dt
  | .phyScriptRetry dt _ _ _ => dt
  | .ethSquallUpdate dt _ _ => dt
  | .ethSquallAlarm dt _ => dt
  | .dispatchReport dt => dt
  | .workRecordSample dt => dt
  | .workRecordTileSeal dt => dt
  | .ethWrAckWrite dt _ _ => dt
  | .ethWrHeadLoRead dt _ => dt
  | .hostLinkReset dt _ _ => dt
  | .spiWriteTransaction dt _ _ _ _ _ => dt
  | .spiReadTransaction dt _ _ => dt
  | .openRecordTimeout dt => dt
  | .recorderFlush dt _ => dt
  | .sectorEraseDone dt => dt
  | .flushHeldTimeout dt => dt
  | .logFetchStart dt _ _ => dt
  | .logFetchDone dt => dt
  | .logSeqLoRead dt _ _ => dt
  | .logMarkWrite dt _ _ => dt
  | .logErase dt _ _ => dt
  | .logBackgroundEraseDone dt => dt
  | .pointWindowRead dt _ _ => dt
  | .pointQualityStage dt _ _ _ => dt
  | .pointValueLowStage dt _ _ _ => dt
  | .pointValueCommit dt _ _ _ => dt
  | .pointWindowOtherWrite dt _ _ => dt
  | .alarmAck dt _ _ => dt
  | .pgnRead dt _ _ => dt
  | .pgnRestart dt _ _ => dt
  | .pgnDiscard dt _ _ => dt
  | .pgnWrite dt _ _ _ => dt
  | .irqAck dt _ _ => dt
  | .msixUnmask dt _ _ => dt
  | .registerWrite dt _ _ _ _ _ => dt
  | .railPowerGood dt _ => dt
  | .perstNRelease dt _ _ _ => dt
  | .sgmiiLinkChange dt _ _ _ => dt
  | .satelliteLockLoss dt _ _ => dt
  | .canRxError dt _ _ _ _ _ => dt
  | .canBusIntegrationDone dt _ => dt
  | .wakeEventForwardReceive dt => dt
  | .stagedImageReceive dt _ _ => dt

end Sys2Proof
end

