-- ==== Sys2Proof/Certificates/Slice0/Obligations.lean ====
section
/-!
DEFINITION. The statements for the provers. Each formalises rules of spec/ that its docstring names; a statement of several clauses says
of each command, for every state and operands that meet the clause's hypotheses, what `exec` answers.
-/

section

open Sys2Proof Sys2Proof.Machine

/-- A step runs the front command on the state with the queue's rest; an idle block stays as it is (the model's choice,
  notes/assumptions/2). Clauses that rest on a choice of the model: notes/assumptions 2. -/
def Obligations.StepTakesTheFront : Prop :=
  (∀ (c : Instr) (l : List Instr) (s : State), Sys2Proof.Machine.step { s with pending := c :: l } = Sys2Proof.Machine.exec c { s with pending := l }) ∧
  (∀ (s : State), s.pending = [] → Sys2Proof.Machine.step s = .next s)

/-- What the state after reset holds. Clauses that rest on a choice of the model: notes/assumptions 5, 6. -/
def Obligations.ResetValues : Prop :=
  (∀ f ∈ R.allFlds, ∀ b, State.reset.get f b = f.reset) ∧
  (∀ v, State.reset.vecMasked v = true ∧ (v < 32 → (State.reset.get R.IRQ_ARMED_ARMED).testBit v = true)) ∧
  State.reset.pending = [] ∧ State.reset.pts = [] ∧ State.reset.alarms = [] ∧ State.reset.log.head = 0 ∧ State.reset.pgn = [] ∧
  State.reset.outHeld = true ∧ State.reset.mus.porLow = true ∧ State.reset.tick = 0 ∧ State.reset.canon

/-- No command faults or is refused, and none disturbs what `Steady` names. Clauses that rest on a choice of the model:
  notes/assumptions 1. -/
def Obligations.EveryCommandCompletes : Prop :=
  ∀ (i : Instr) (s : State), ∃ t, Sys2Proof.Machine.exec i s = .next t ∧ t.now = s.now + i.dt ∧ t.pending = s.pending ∧ t.role.uid = s.role.uid

/-- An invariant of every step, from every state (R85 for the Maker key; the canonical form is the model's own,
  notes/assumptions/4). Clauses that rest on a choice of the model: notes/assumptions 4. -/
def Obligations.StepsKeepTablesAndMakerKey : Prop :=
  ∀ (s t : State), Sys2Proof.Machine.step s = .next t →
    (s.canon → t.canon) ∧ (∀ k, s.role.makerKey = some k → t.role.makerKey = some k)

/-- Frame boundaries and helm-cycle boundaries: guards, holdover, staleness, and the waiting mode command judged and taken (R36,
  R37, R40, R41, R50, R52, R53, R62, R105, R378). -/
def Obligations.GridBoundaries : Prop :=
  (∀ (dt : Nat) (s : State), (s.gridRuns = false ∨ s.tick % 1000 ≠ 0) → Sys2Proof.Machine.exec (.frameBoundary dt) s = .next (s.advance dt)) ∧
  (∀ (dt : Nat) (s : State), s.gridRuns = true → s.tick % 1000 = 0 →
  ∃ t, Sys2Proof.Machine.exec (.frameBoundary dt) s = .next t ∧ t.get R.MODE_GUARD_MFN_IDLE = (if t.fnsIdle then 1 else 0) ∧ t.get R.MODE_GUARD_THR_ZERO = (if t.thrZero then 1 else 0) ∧
    t.get R.MODE_GUARD_SAFE_CLEAR = (if t.get R.THRM_STAT_AT_HARD = 1 ∨ t.get R.THRM_STAT_BROKEN_OVER = 1 then 0 else 1) ∧
    t.get R.MODE_GUARD_THR_OK = (if t.thrNeeded ≤ t.get R.ALLOC_STAT_AVAIL then 1 else 0) ∧ t.get R.PWR_STAT_LULL3_BLOCK = t.lullBlock % 256) ∧
  (∀ (dt : Nat) (s : State), s.gridRuns = true → s.tick % 1000 = 0 → s.pwr.l3 ∈ [1, 2] → s.man.nodes = [] → s.timeState = 2 →
  ∃ t, Sys2Proof.Machine.exec (.frameBoundary dt) s = .next t ∧ t.pts = s.pts ∧ t.est = s.est ∧ t.get R.TIME_HOLD_S = min (2 ^ R.TIME_HOLD_S.width - 1) ((s.now + dt - s.time.holdAt) / 1000000000) ∧
    t.get R.MODE_GUARD_POS_OK = 0 ∧ t.get R.MODE_GUARD_HDG_OK = 0 ∧ t.mode = s.mode ∧ t.tick = s.tick) ∧
  (∀ (dt : Nat) (c : PtCfg) (s : State), s.gridRuns = true → s.tick % 1000 = 0 → s.pwr.l3 = 0 → s.mode = 2 → s.man = { points := [c] } → c.staleMs ≠ 0 → (s.pt 0).written = true →
  (s.pt 0).at_ + c.staleMs * 1000000 < s.now + dt →
  ∃ t, Sys2Proof.Machine.exec (.frameBoundary dt) s = .next t ∧ (t.pt 0).stale = true ∧ (t.pt 0).value = (s.pt 0).value ∧ t.est.running = some (s.now + dt, ((s.advance dt).ns : Int))) ∧
  (∀ (dt : Nat) (pl : List (List Rat)) (z : List Rat) (s : State), (s.gridRuns = false ∨ s.tick % 5000 ≠ 0) → Sys2Proof.Machine.exec (.helmCycleBoundary dt pl z) s = .next (s.advance dt)) ∧
  (∀ (dt : Nat) (pl : List (List Rat)) (z : List Rat) (s : State), s.gridRuns = true → s.tick % 5000 = 0 → s.mnf.pendingMode = none →
  ∃ t, Sys2Proof.Machine.exec (.helmCycleBoundary dt pl z) s = .next t ∧ t.helm.cycle = s.helm.cycle + 1 ∧ t.mode = s.mode ∧ t.tick = s.tick ∧ t.mnf.tunePending = [] ∧
    t.get R.MODE_CMD_STAT_RESULT = s.get R.MODE_CMD_STAT_RESULT ∧ t.get R.MODE_STAT_PENDING = s.get R.MODE_STAT_PENDING) ∧
  (∀ (dt n m : Nat) (pl : List (List Rat)) (z : List Rat) (c : PendingMode) (s : State), s.gridRuns = true → s.tick % 5000 = 0 → s.mnf.pendingMode = some c →
  transGuards s.mode c.target = some m → (s.advance dt).helmCycle.refreshGuards.guards &&& m = m → c.target ∈ [2, 3, 4] → n = s.mode →
  ∃ t, Sys2Proof.Machine.exec (.helmCycleBoundary dt pl z) s = .next t ∧ t.mode = c.target ∧ t.get R.MODE_STAT_PENDING = 0 ∧ t.get R.MODE_CMD_STAT_RESULT = 2 ∧
    t.get R.MODE_CMD_STAT_TAG = c.tag % 256 ∧ t.get R.MODE_CMD_STAT_GUARDS = 0 ∧ t.tick = s.tick ∧ t.helm.cycle = s.helm.cycle + 1) ∧
  (∀ (dt m : Nat) (pl : List (List Rat)) (z : List Rat) (c : PendingMode) (s : State), s.gridRuns = true → s.tick % 5000 = 0 → s.mnf.pendingMode = some c →
  transGuards s.mode c.target = some m → (s.advance dt).helmCycle.refreshGuards.guards &&& m ≠ m →
  ∃ t, Sys2Proof.Machine.exec (.helmCycleBoundary dt pl z) s = .next t ∧ t.mode = s.mode ∧ t.get R.MODE_STAT_PENDING = 0 ∧ t.get R.MODE_CMD_STAT_RESULT = 3 ∧
    t.get R.MODE_CMD_STAT_TAG = c.tag % 256 ∧ t.get R.MODE_CMD_STAT_GUARDS = (s.advance dt).helmCycle.refreshGuards.guards % 128 ∧ t.mnf.pendingMode = none) ∧
  (∀ (dt m : Nat) (pl : List (List Rat)) (z : List Rat) (c : PendingMode) (s : State), s.gridRuns = true → s.tick % 5000 = 0 → s.mnf.pendingMode = some c →
  c.target = 0 → transGuards s.mode 0 = some m → (s.advance dt).helmCycle.refreshGuards.guards &&& m = m →
  ∃ t, Sys2Proof.Machine.exec (.helmCycleBoundary dt pl z) s = .next t ∧ t.mode = 0 ∧ t.mnf.pendingMode = none)

/-- Supplies come up and go, and a reset takes every domain but the always-on domain (R494, R495, R496, R497, R45). -/
def Obligations.SuppliesAndResets : Prop :=
  (∀ (dt : Nat) (s : State),
  ∃ t, Sys2Proof.Machine.exec (.powerUp dt) s = .next t ∧ t.mus.aonAt = some (s.now + dt) ∧ t.mus.enIo = true ∧
    t.mus.enCore = s.railsOk ioRails ∧ Framed [] { s.advance dt with mus := t.mus } t) ∧
  (∀ (dt : Nat) (rails : List Rail) (s : State), s.railsOk mainRails = false → s.mus.porLow = false → (∀ r ∈ mainRails, r ∈ rails) →
  s.mus.wake = true →
  ∃ t, Sys2Proof.Machine.exec (.railPowerGood dt rails) s = .next t ∧ t.mode = 1 ∧ t.mus.running = true ∧ t.mus.at_ = s.now + dt + 1000000) ∧
  (∀ (dt : Nat) (st : Straps) (s : State), s.mus.aonAt ≠ none → s.mus.enIo = true →
  ∃ t, Sys2Proof.Machine.exec (.porNRelease dt st) s = .next t ∧ t.mode = 1 ∧ t.mus.running = true ∧ t.mus.at_ = s.now + dt ∧ t.mus.straps = st ∧
    t.mus.porLow = false ∧ t.mus.porReset = s.mus.porReset ∧ t.get R.TWIN_STAT_SEAT = (if st.seatB then 1 else 0)) ∧
  (∀ (dt low : Nat) (s : State), 5000 ≤ low →
  ∃ t, Sys2Proof.Machine.exec (.porNAssert dt low) s = .next t ∧ t.mus.porLow = true ∧ t.mus.porReset = s.mus.running ∧ t.mus.running = false ∧
    t.time.rtc = (s.advance dt).time.rtc ∧ t.gnssRet = s.gnssRet ∧ t.mnf.slotA = s.mnf.slotA ∧ t.mnf.slotB = s.mnf.slotB ∧
    t.role.makerKey = s.role.makerKey ∧ (∀ f b, fkey f ∉ keptFlds.map fkey → t.get f b = f.reset)) ∧
  (∀ (dt low : Nat) (s : State), low < 5000 → Sys2Proof.Machine.exec (.porNAssert dt low) s = .next (s.advance dt)) ∧
  (∀ (dt low : Nat) (r : Rail) (s : State), 2000 ≤ low → r ≠ .aon →
  ∃ t, Sys2Proof.Machine.exec (.brownOut dt r low) s = .next t ∧ t.mus.brown = true ∧ r ∉ t.mus.railOk ∧ t.time.rtc = (s.advance dt).time.rtc ∧
    (∀ f b, fkey f ∉ keptFlds.map fkey → t.get f b = f.reset)) ∧
  (∀ (dt low : Nat) (r : Rail) (s : State), (low < 2000 ∨ r = .aon) → Sys2Proof.Machine.exec (.brownOut dt r low) s = .next (s.advance dt)) ∧
  (∀ (dt : Nat) (s : State),
  ∃ t, Sys2Proof.Machine.exec (.vddAonLoss dt) s = .next t ∧ t.time.rtcOk = false ∧ t.gnssRet = none ∧ t.log.hold = [] ∧
    t.mnf.slotA = s.mnf.slotA ∧ t.mnf.slotB = s.mnf.slotB ∧ t.role.makerKey = s.role.makerKey ∧ t.get R.PWR_WAKE_SRC_POR = 1 ∧
    (∀ f b, fkey f ∉ keptFlds.map fkey → t.get f b = f.reset))

/-- MUSTER goes from phase to phase, and a failure ends it in HALT, at the other slot or in SAFE (R19, R21, R45, R46, R64, R67,
  R68, R71). -/
def Obligations.MusterPhases : Prop :=
  (∀ (dt : Nat) (f : FlashScan) (s : State), s.mode = 1 → s.get R.MODE_STAT_PHASE = 1 → s.mus.at_ ≤ s.now + dt →
  ∃ t, Sys2Proof.Machine.exec (.pllLock dt f) s = .next t ∧ t.mus.pllLocked = true ∧ t.get R.MODE_STAT_PHASE = 2 ∧ t.mus.haltPll = none) ∧
  (∀ (dt : Nat) (f : FlashScan) (s : State), (s.mode ≠ 1 ∨ s.get R.MODE_STAT_PHASE ≠ 1) → Sys2Proof.Machine.exec (.pllLock dt f) s = .next (s.advance dt)) ∧
  (∀ (dt p : Nat) (f : FlashScan) (s : State), s.mode = 1 → s.get R.MODE_STAT_PHASE = 1 → s.mus.at_ ≤ s.now + dt →
  ∃ t, Sys2Proof.Machine.exec (.pllRetry dt false p f) s = .next t ∧ t.get R.MODE_STAT_PHASE = 15 ∧
    Framed [loc R.MODE_STAT_PHASE 0] { s.advance dt with mus := { s.mus with haltPll := some (p % 16) } } t) ∧
  (∀ (dt c : Nat) (h : Header) (s : State), s.mode = 1 → s.get R.MODE_STAT_PHASE = 2 →
  headerReason c (s.get R.DEV_GRADE_GRADE) h = none →
  ∃ t, Sys2Proof.Machine.exec (.headerReadDone dt c h) s = .next t ∧ t.get R.MODE_STAT_PHASE = 3 ∧
    t.get R.MNF_STAT_SLOT_MIB = slotBytes c / 1048576 % 2 ^ R.MNF_STAT_SLOT_MIB.width ∧
    Framed (regKeys 0 [R.MODE_STAT_PHASE, R.MNF_STAT_SLOT_MIB, R.MNF_STAT_FLASH_LOG2])
      { s.advance dt with mus := { s.mus with capacity := c, header := some h } } t) ∧
  (∀ (dt c r : Nat) (h : Header) (s : State), s.mode = 1 → s.get R.MODE_STAT_PHASE = 2 → s.mus.tried = [] →
  headerReason c (s.get R.DEV_GRADE_GRADE) h = some r → r < 16 →
  ∃ t, Sys2Proof.Machine.exec (.headerReadDone dt c h) s = .next t ∧ t.get R.MODE_STAT_PHASE = 2 ∧ t.mus.tried = [1] ∧
    t.get R.MNF_STAT_A_STATE = 2 ∧ t.get R.MNF_STAT_A_REASON = r) ∧
  (∀ (dt g : Nat) (s : State), s.mode = 1 → (s.get R.MODE_STAT_PHASE = 2 ∨ s.get R.MODE_STAT_PHASE = 3) → s.mus.dramTrained = false →
  (g = 2 ∨ g = 4 ∨ g = 8) →
  ∃ t, Sys2Proof.Machine.exec (.dramTrainingDone dt g true) s = .next t ∧ t.mus.dramUp = true ∧ t.get R.DEV_GRADE_DRAM_GIB = g ∧ t.log.hold = [] ∧
    Framed [loc R.DEV_GRADE_DRAM_GIB 0]
      { s.advance dt with mus := { s.mus with dramUp := true, dramTrained := true, dramGib := g } } t) ∧
  (∀ (dt : Nat) (c : BodyCheck) (m : Manifest) (s : State), s.mode = 1 → s.get R.MODE_STAT_PHASE = 3 →
  bodyReason s.role.makerKey s.role.instKey c = none →
  ∃ t, Sys2Proof.Machine.exec (.manifestLoadDone dt c m) s = .next t ∧ t.man = m ∧ t.mus.loaded = true ∧
    t.get R.MODE_STAT_PHASE = (if s.mus.bistOk then 5 else 4) ∧
    t.get R.MNF_FRANK_HI_MARK_HI = markOf c.dAll / 2 ^ 32 % 2 ^ 32 ∧ t.get R.MNF_FRANK_LO_MARK_LO = markOf c.dAll % 2 ^ 32 ∧
    Framed (regKeys 0 [R.MODE_STAT_PHASE, R.MNF_FRANK_HI_MARK_HI, R.MNF_FRANK_LO_MARK_LO, R.MNF_LEN_BYTES, R.MNF_GEN_GENERATION])
      { s.advance dt with man := m, mus := { s.mus with loaded := true } } t) ∧
  (∀ (dt : Nat) (c : BodyCheck) (m : Manifest) (s : State), s.mode = 1 → s.get R.MODE_STAT_PHASE = 3 → s.mus.tried = [] →
  s.role.makerKey = none →
  ∃ t, Sys2Proof.Machine.exec (.manifestLoadDone dt c m) s = .next t ∧ t.man = s.man ∧ t.get R.MODE_STAT_PHASE = 2 ∧ t.get R.MNF_STAT_A_REASON = 5 ∧
    t.mus.tried = [1]) ∧
  (∀ (dt : Nat) (s : State), s.mode = 1 → s.get R.MODE_STAT_PHASE = 4 →
  ∃ t, Sys2Proof.Machine.exec (.bistDone dt true true) s = .next t ∧ t.get R.MODE_STAT_PHASE = 5 ∧
    Framed [loc R.MODE_STAT_PHASE 0] { s.advance dt with mus := { s.mus with bistOk := true } } t) ∧
  (∀ (dt : Nat) (s : State), s.mode = 1 → s.get R.MODE_STAT_PHASE = 5 → s.claimsCheck = none →
  ∃ t, Sys2Proof.Machine.exec (.claimsCheckDone dt) s = .next t ∧ t.get R.MODE_STAT_PHASE = 6 ∧ t.get R.TWIN_STAT_STATE = 1 ∧
    t.mus.pairAt = s.now + dt ∧ t.mus.pairStart = some (s.now + dt))

/-- The PAIR phase settles the role, and PAIR-HOLD and SYNC follow it (R45, R49, R355, R356, R367). -/
def Obligations.Pairing : Prop :=
  (∀ (dt : Nat) (s : State), s.mode = 1 → s.get R.MODE_STAT_PHASE = 6 → s.mus.pairAt + 2000000000 ≤ s.now + dt → s.mus.seatBAt = none →
  s.mus.straps.seatB = true →
  ∃ t, Sys2Proof.Machine.exec (.pairTimeout dt false) s = .next t ∧ t.get R.TWIN_STAT_ACTIVE_IN = 0 ∧
    Framed [loc R.TWIN_STAT_ACTIVE_IN 0] { s.advance dt with mus := { s.mus with seatBAt := some (s.now + dt) } } t) ∧
  (∀ (dt : Nat) (s : State), s.mode = 1 → s.get R.MODE_STAT_PHASE = 6 → s.mus.pairAt + 2000000000 ≤ s.now + dt → s.mus.seatBAt = none →
  ∃ t, Sys2Proof.Machine.exec (.pairTimeout dt true) s = .next t ∧ t.get R.MODE_STAT_PHASE = 9 ∧ t.get R.TWIN_STAT_STATE = 7 ∧ t.get R.MODE_EVT_PAIR_HOLD = 1) ∧
  (∀ (dt t₀ : Nat) (s : State), s.mus.seatBAt = some t₀ → s.mode = 1 → s.get R.MODE_STAT_PHASE = 6 → t₀ + 250000000 ≤ s.now + dt →
  ∃ t, Sys2Proof.Machine.exec (.seatBRecheck dt false) s = .next t ∧ t.get R.MODE_STAT_PHASE = 8 ∧ t.isActive = true ∧ t.isPaired = false ∧
    t.get R.TWIN_STAT_ACTIVE_OUT = 1 ∧ t.tick = 0 ∧ t.mus.seatBAt = none ∧ t.twin.unpairedAlarm = true) ∧
  (∀ (dt t₀ : Nat) (s : State), s.mus.seatBAt = some t₀ → s.mode = 1 → s.get R.MODE_STAT_PHASE = 6 → t₀ + 250000000 ≤ s.now + dt →
  ∃ t, Sys2Proof.Machine.exec (.seatBRecheck dt true) s = .next t ∧ t.get R.MODE_STAT_PHASE = 9 ∧ t.get R.TWIN_STAT_STATE = 7 ∧ t.mus.seatBAt = none) ∧
  (∀ (dt : Nat) (s : State), s.mode = 1 → s.get R.MODE_STAT_PHASE = 9 → s.mus.pairAt + 1000000000 ≤ s.now + dt →
  Sys2Proof.Machine.exec (.pairHoldRetry dt) s = .next { s.advance dt with mus := { s.mus with pairAt := s.now + dt } }) ∧
  (∀ (dt : Nat) (p : PeerInfo) (a : Bool) (s : State), s.mode = 1 → s.get R.MODE_STAT_PHASE = 6 → s.refusal p = 0 →
  p.active = true → 2 ≤ p.mode → p.mode ≤ 5 →
  ∃ t, Sys2Proof.Machine.exec (.pairHandshake dt p a) s = .next t ∧ t.get R.MODE_STAT_PHASE = 7 ∧ t.get R.TWIN_STAT_STATE = 3 ∧
    t.get R.TWIN_STAT_REFUSAL = 0 ∧ t.get R.TWIN_STAT_ACTIVE_IN = (if a then 1 else 0) ∧
    Framed (regKeys 0 [R.MODE_STAT_PHASE, R.TWIN_STAT_STATE, R.TWIN_STAT_REFUSAL, R.TWIN_STAT_ACTIVE_IN])
      { s.advance dt with twin := { s.twin with peer := some p, syncAt := s.now + dt, syncBlocks := 0 } } t) ∧
  (∀ (dt : Nat) (p : PeerInfo) (a : Bool) (s : State), s.mode = 1 → s.get R.MODE_STAT_PHASE = 6 → s.refusal p = 0 →
  (p.active = false ∨ p.mode < 2 ∨ 5 < p.mode) →
  ∃ t, Sys2Proof.Machine.exec (.pairHandshake dt p a) s = .next t ∧ t.get R.MODE_STAT_PHASE = 8 ∧ t.isPaired = true ∧
    t.isActive = !s.mus.straps.seatB ∧ t.get R.TWIN_STAT_STATE = 4 ∧ t.tick = 0) ∧
  (∀ (dt : Nat) (b : SnapBlock) (s : State), s.get R.TWIN_STAT_STATE = 3 → s.twin.syncBlocks + 1 < b.total → b.regs = [] → b.pts = [] →
  Sys2Proof.Machine.exec (.snapshotBlockReceive dt b) s = .next { s.advance dt with twin := { s.twin with syncBlocks := s.twin.syncBlocks + 1 } }) ∧
  (∀ (dt : Nat) (b : SnapBlock) (s : State), s.get R.TWIN_STAT_STATE = 3 → s.mode = 5 → b.total ≤ s.twin.syncBlocks + 1 →
  b.regs = [] →
  ∃ t, Sys2Proof.Machine.exec (.snapshotBlockReceive dt b) s = .next t ∧ t.get R.TWIN_STAT_STATE = 4 ∧ t.isPaired = true ∧
    t.get R.TWIN_STAT_PEER_OK_OUT = 1 ∧ t.tick = b.tick ∧ t.get R.TWIN_EVT_PAIRED = 1) ∧
  (∀ (dt : Nat) (s : State), s.get R.TWIN_STAT_STATE = 3 → s.twin.syncAt + 250000000 ≤ s.now + dt → s.mode = 1 →
  ∃ t, Sys2Proof.Machine.exec (.syncTimeout dt) s = .next t ∧ t.get R.MODE_STAT_PHASE = 6 ∧ t.get R.TWIN_STAT_STATE = 1 ∧
    Framed (regKeys 0 [R.MODE_STAT_PHASE, R.TWIN_STAT_STATE]) { s.advance dt with mus := { s.mus with pairAt := s.now + dt } } t) ∧
  (∀ (dt : Nat) (s : State), s.get R.TWIN_STAT_STATE = 3 → s.twin.syncAt + 250000000 ≤ s.now + dt → s.mode ≠ 1 →
  ∃ t, Sys2Proof.Machine.exec (.syncTimeout dt) s = .next t ∧ t.get R.TWIN_STAT_STATE = 5 ∧
    Framed (regKeys 0 [R.TWIN_STAT_STATE]) { s.advance dt with twin := { s.twin with syncRetryAt := s.now + dt } } t) ∧
  (∀ (dt : Nat) (s : State), s.get R.TWIN_STAT_STATE = 5 → s.get R.TWIN_STAT_LANES ≠ 0 → s.twin.syncRetryAt + 1000000000 ≤ s.now + dt →
  ∃ t, Sys2Proof.Machine.exec (.syncRetry dt) s = .next t ∧ t.get R.TWIN_STAT_STATE = 3 ∧
    Framed (regKeys 0 [R.TWIN_STAT_STATE])
      { s.advance dt with twin := { s.twin with syncAt := s.now + dt, syncBlocks := 0, syncRetryAt := s.now + dt } } t)

/-- The Yuzal self-test and the end of RUN-IN (R47, R53, R60, R236). -/
def Obligations.RunInEnds : Prop :=
  (∀ (dt : Nat) (r : List (Nat × Nat)) (s : State), s.mode = 1 → s.get R.MODE_STAT_PHASE = 8 →
  ∃ t, Sys2Proof.Machine.exec (.yuzSelftestDone dt r r) s = .next t ∧ t.get R.YUZ_STAT_SELFTEST_OK = 1 ∧
    Framed [loc R.YUZ_STAT_SELFTEST_OK 0] (s.advance dt) t) ∧
  (∀ (dt a b : Nat) (s : State), s.mode = 1 → s.get R.MODE_STAT_PHASE = 8 → a ≠ b →
  ∃ t, Sys2Proof.Machine.exec (.yuzSelftestDone dt [(1, a)] [(1, b)]) s = .next t ∧ t.mode = 5 ∧ t.get R.MODE_STAT_SAFE_CAUSE = 3 ∧
    t.get R.YUZ_STAT_SELFTEST_OK = 0 ∧ t.get R.YUZ_EVT_SELFTEST_FAIL = 1) ∧
  (∀ (dt : Nat) (s : State), s.mode = 1 → s.get R.MODE_STAT_PHASE = 8 → s.mus.runInAt + 300000000 ≤ s.now + dt →
  s.mnf.safePending = none → s.get R.THRM_STAT_AT_HARD = 0 → s.get R.THRM_STAT_BROKEN_OVER = 0 → s.isActive = true →
  ∃ t, Sys2Proof.Machine.exec (.runInEnd dt) s = .next t ∧ t.mode = 2 ∧ t.get R.MODE_STAT_PHASE = 0 ∧ t.outHeld = false ∧ t.get R.MODE_EVT_MODE_CHANGED = 1) ∧
  (∀ (dt c : Nat) (s : State), s.mode = 1 → s.get R.MODE_STAT_PHASE = 8 → s.mus.runInAt + 300000000 ≤ s.now + dt →
  s.mnf.safePending = some c → c < 16 →
  ∃ t, Sys2Proof.Machine.exec (.runInEnd dt) s = .next t ∧ t.mode = 5 ∧ t.get R.MODE_STAT_PHASE = 0 ∧ t.get R.MODE_STAT_SAFE_CAUSE = c ∧
    t.mnf.safePending = none) ∧
  (∀ (dt : Nat) (s : State), s.get R.MODE_STAT_PHASE ≠ 8 → Sys2Proof.Machine.exec (.runInEnd dt) s = .next (s.advance dt))

/-- Challenges and sessions open, fail, lock and close (R82, R83, R93, R94). -/
def Obligations.Sessions : Prop :=
  (∀ (dt : Nat) (p : Port) (c : List Nat) (s : State),
  ∃ t, Sys2Proof.Machine.exec (.roleNewChal dt p c) s = .next t ∧ t.get R.ROLE_STAT_CHAL_VALID = 1 ∧
    (∀ n, n < 8 → t.get R.ROLE_CHAL_CHAL n = ofLe ((c.drop (4 * n)).take 4) % 2 ^ 32) ∧
    Framed (loc R.ROLE_STAT_CHAL_VALID 0 :: (List.range 8).map (loc R.ROLE_CHAL_CHAL))
      { s.advance dt with role := { s.role with chalAt := s.now + dt } } t) ∧
  (∀ (dt : Nat) (p : Port) (s : State), s.get R.ROLE_STAT_SESSION ≠ 0 → s.role.owner = p →
  ∃ t, Sys2Proof.Machine.exec (.roleClose dt p) s = .next t ∧ t.get R.ROLE_STAT_SESSION = 0 ∧ (∀ n, n < 8 → t.get R.ROLE_KEY_KEY n = 0) ∧
    Framed (loc R.ROLE_STAT_SESSION 0 :: (List.range 8).map (loc R.ROLE_KEY_KEY))
      { s.advance dt with mnf := { s.mnf with resetKeyAt := none } } t) ∧
  (∀ (dt : Nat) (p : Port) (s : State), s.get R.ROLE_STAT_SESSION = 0 → Sys2Proof.Machine.exec (.roleClose dt p) s = .next (s.advance dt)) ∧
  (∀ (dt : Nat) (p : Port) (s : State), s.get R.ROLE_STAT_SESSION ≠ 0 → s.role.owner ≠ p →
  ∃ t, Sys2Proof.Machine.exec (.roleClose dt p) s = .next t ∧ Framed [] (s.advance dt) t) ∧
  (∀ (dt : Nat) (s : State), s.role.chalAt + 10000000000 ≤ s.now + dt →
  ∃ t, Sys2Proof.Machine.exec (.challengeExpiry dt) s = .next t ∧ t.get R.ROLE_STAT_CHAL_VALID = 0 ∧
    Framed [loc R.ROLE_STAT_CHAL_VALID 0] (s.advance dt) t) ∧
  (∀ (dt t₀ : Nat) (s : State), s.role.lockAt = some t₀ → t₀ + 60000000000 ≤ s.now + dt →
  ∃ t, Sys2Proof.Machine.exec (.openLockExpiry dt) s = .next t ∧ t.get R.ROLE_STAT_LOCKED = 0 ∧ t.get R.ROLE_STAT_FAILS = s.get R.ROLE_STAT_FAILS ∧
    Framed [loc R.ROLE_STAT_LOCKED 0] { s.advance dt with role := { s.role with lockAt := none } } t) ∧
  (∀ (dt : Nat) (s : State), s.get R.ROLE_STAT_SESSION ≠ 0 → s.role.rwlAt + 300000000000 ≤ s.now + dt →
  ∃ t, Sys2Proof.Machine.exec (.sessionIdleTimeout dt) s = .next t ∧ t.get R.ROLE_STAT_SESSION = 0 ∧
    Framed (loc R.ROLE_STAT_SESSION 0 :: (List.range 8).map (loc R.ROLE_KEY_KEY))
      { s.advance dt with mnf := { s.mnf with resetKeyAt := none } } t) ∧
  (∀ (dt : Nat) (p : Port) (r : Role) (s : State), s.get R.ROLE_STAT_LOCKED ≠ 1 → (s.advance dt).openCause r = 0 →
  ∃ t, Sys2Proof.Machine.exec (.roleOpen dt p r) s = .next t ∧ t.get R.ROLE_STAT_SESSION = sessionCode r ∧ t.role.owner = p ∧
    t.get R.ROLE_STAT_FAILS = 0 ∧ t.get R.ROLE_STAT_CHAL_VALID = 0 ∧ t.role.rwlAt = s.now + dt) ∧
  (∀ (dt : Nat) (p : Port) (r : Role) (s : State), s.get R.ROLE_STAT_LOCKED ≠ 1 → (s.advance dt).openCause r ≠ 0 →
  s.get R.ROLE_STAT_FAILS < 2 →
  ∃ t, Sys2Proof.Machine.exec (.roleOpen dt p r) s = .next t ∧ t.get R.ROLE_STAT_FAILS = s.get R.ROLE_STAT_FAILS + 1 ∧
    t.get R.ROLE_STAT_CHAL_VALID = 0 ∧
    Framed (regKeys 0 [R.ROLE_STAT_FAILS, R.ROLE_STAT_CHAL_VALID]) (s.advance dt) t) ∧
  (∀ (dt : Nat) (p : Port) (r : Role) (s : State), s.get R.ROLE_STAT_LOCKED ≠ 1 → (s.advance dt).openCause r ≠ 0 →
  2 ≤ s.get R.ROLE_STAT_FAILS →
  ∃ t, Sys2Proof.Machine.exec (.roleOpen dt p r) s = .next t ∧ t.get R.ROLE_STAT_LOCKED = 1 ∧ t.get R.ROLE_STAT_CHAL_VALID = 0 ∧
    Framed (regKeys 0 [R.ROLE_STAT_FAILS, R.ROLE_STAT_CHAL_VALID, R.ROLE_STAT_LOCKED])
      { s.advance dt with role := { s.role with lockAt := some (s.now + dt) } } t) ∧
  (∀ (dt : Nat) (p : Port) (r : Role) (s : State), s.get R.ROLE_STAT_LOCKED = 1 →
  ∃ t, Sys2Proof.Machine.exec (.roleOpen dt p r) s = .next t ∧ Framed [] (s.advance dt) t)

/-- Keys: the Maker key once into blank OTP, the others in a session; anything else is recorded and has no effect (R85, R89,
  R93). -/
def Obligations.KeysProvisioned : Prop :=
  (∀ (dt : Nat) (p : Port) (k : Nat) (s : State), s.role.makerKey = none →
  ∃ t, Sys2Proof.Machine.exec (.roleKeyMaker dt p k) s = .next t ∧ t.role.makerKey = some (s.keyWords, k % 65536) ∧ t.get R.ROLE_STAT_MAKER_KEY = 1 ∧
    (∀ n, n < 8 → t.get R.ROLE_KEY_KEY n = 0) ∧ t.role.instKey = s.role.instKey ∧ t.role.operKey = s.role.operKey ∧
    Framed (regKeys 0 ([R.ROLE_KEY_CMD_TARGET, R.ROLE_KEY_CMD_KEY_ID, R.ROLE_STAT_MAKER_KEY] ++ lullFlds) ++
        (List.range 8).map (loc R.ROLE_KEY_KEY))
      { s.advance dt with role := { s.role with makerKey := some (s.keyWords, k % 65536) }, pwr := t.pwr } t) ∧
  (∀ (dt : Nat) (p : Port) (k : Nat) (s : State), s.role.makerKey ≠ none → s.session p = none →
  ∃ t, Sys2Proof.Machine.exec (.roleKeyMaker dt p k) s = .next t ∧ t.role = s.role ∧
    Framed (regKeys 0 lullFlds) { s.advance dt with pwr := t.pwr } t) ∧
  (∀ (dt : Nat) (p : Port) (k : Nat) (s : State), s.session p = some .maker →
  ∃ t, Sys2Proof.Machine.exec (.roleKeyInstaller dt p k) s = .next t ∧ t.role.instKey = some (s.keyWords, k % 65536) ∧
    t.get R.ROLE_STAT_INST_KEY = 1 ∧ (∀ n, n < 8 → t.get R.ROLE_KEY_KEY n = 0) ∧ t.role.makerKey = s.role.makerKey ∧
    t.role.operKey = s.role.operKey ∧ t.role.rwlAt = s.now + dt) ∧
  (∀ (dt : Nat) (p : Port) (k : Nat) (s : State), (s.session p = some .maker ∨ s.session p = some .installer) →
  ∃ t, Sys2Proof.Machine.exec (.roleKeyOperator dt p k) s = .next t ∧ t.role.operKey = some (s.keyWords, k % 65536) ∧
    t.get R.ROLE_STAT_OPER_KEY = 1 ∧ (∀ n, n < 8 → t.get R.ROLE_KEY_KEY n = 0) ∧ t.role.makerKey = s.role.makerKey ∧
    t.role.instKey = s.role.instKey ∧ t.role.rwlAt = s.now + dt) ∧
  (∀ (dt : Nat) (p : Port) (k : Nat) (s : State), (s.session p = none ∨ s.session p = some .operator) →
  ∃ t, Sys2Proof.Machine.exec (.roleKeyInstaller dt p k) s = .next t ∧ Framed (regKeys 0 lullFlds) { s.advance dt with pwr := t.pwr } t) ∧
  (∀ (dt : Nat) (p : Port) (k : Nat) (s : State), (s.session p = none ∨ s.session p = some .operator) →
  ∃ t, Sys2Proof.Machine.exec (.roleKeyOperator dt p k) s = .next t ∧ Framed (regKeys 0 lullFlds) { s.advance dt with pwr := t.pwr } t)

/-- INSTALL and RESTORE, the journal, parameter changes and roll call (R73, R86, R87, R88, R90, R91, R92). -/
def Obligations.ManifestInstalled : Prop :=
  (∀ (dt : Nat) (p : Port) (im : SlotImage) (rb : InstRun) (s : State), s.session p = some .installer → s.instAllowed = false →
  ∃ t, Sys2Proof.Machine.exec (.mnfInstall dt p im rb) s = .next t ∧ t.get R.MNF_INST_RESULT = 2 ∧ t.mnf = s.mnf) ∧
  (∀ (dt : Nat) (p : Port) (im : SlotImage) (rb : InstRun) (s : State), s.session p = some .installer → s.instAllowed = true →
  s.imageOk im = false →
  ∃ t, Sys2Proof.Machine.exec (.mnfInstall dt p im rb) s = .next t ∧ t.get R.MNF_INST_STATE = 7 ∧ t.get R.MNF_INST_RESULT = 3 ∧
    t.mnf.slotA = s.mnf.slotA ∧ t.mnf.slotB = s.mnf.slotB ∧ t.mnf.install = none) ∧
  (∀ (dt : Nat) (p : Port) (im : SlotImage) (s : State), s.session p = some .installer → s.instAllowed = true →
  s.imageOk im = true → s.nvmOpen = true →
  ∃ t, Sys2Proof.Machine.exec (.mnfInstall dt p im .done) s = .next t ∧ t.get R.MNF_INST_STATE = 6 ∧ t.get R.MNF_INST_RESULT = 1 ∧
    t.get R.MNF_INST_PROGRESS = 100 ∧ t.mnf.slotA = some im ∧
    t.mnf.slotB = (if s.get R.MODE_STAT_SLOT = 1 then s.mnf.slotA else s.mnf.slotB)) ∧
  (∀ (dt : Nat) (p : Port) (im : SlotImage) (rb : InstRun) (s : State), s.session p = some .installer → s.instAllowed = true →
  s.imageOk im = true → s.nvmOpen = false →
  ∃ t, Sys2Proof.Machine.exec (.mnfInstall dt p im rb) s = .next t ∧ t.get R.MNF_INST_STATE = 2 ∧ t.get R.MNF_INST_TEMP_HOLD = 1 ∧
    t.mnf.install = some (⟨1, 2, im⟩ : Install) ∧ t.mnf.slotA = s.mnf.slotA ∧ t.mnf.slotB = s.mnf.slotB) ∧
  (∀ (dt : Nat) (p : Port) (b : SlotImage) (s : State), s.session p = some .installer → s.instAllowed = true → s.mnf.slotB = some b →
  s.imageOk b = true → s.nvmOpen = true →
  ∃ t, Sys2Proof.Machine.exec (.mnfRestore dt p .done) s = .next t ∧ t.get R.MNF_INST_STATE = 6 ∧ t.get R.MNF_INST_RESULT = 1 ∧
    t.mnf.slotA = some b ∧ t.mnf.slotB = some b) ∧
  (∀ (dt : Nat) (i : Install) (s : State), s.mnf.install = some i → s.nvmOpen = true → s.mnf.waiting = [] → i.cmd = 2 →
  ∃ t, Sys2Proof.Machine.exec (.installResume dt .done) s = .next t ∧ t.mnf.slotA = some i.image ∧ t.mnf.slotB = s.mnf.slotB ∧ t.mnf.install = none ∧
    t.get R.MNF_INST_STATE = 6 ∧ t.get R.MNF_INST_RESULT = 1 ∧ t.get R.MNF_INST_TEMP_HOLD = 0) ∧
  (∀ (dt : Nat) (rb : InstRun) (s : State), (s.mnf.install = none ∨ s.nvmOpen = false ∨ s.mnf.waiting ≠ []) →
  Sys2Proof.Machine.exec (.installResume dt rb) s = .next (s.advance dt)) ∧
  (∀ (dt : Nat) (im : SlotImage) (s : State), s.isPaired = true → s.isActive = false → s.instAllowed = true → s.imageOk im = true →
  s.nvmOpen = true →
  ∃ t, Sys2Proof.Machine.exec (.stagedImageReceive dt im .done) s = .next t ∧ t.mnf.slotA = some im ∧ t.get R.MNF_INST_STATE = 6 ∧
    t.get R.MNF_INST_RESULT = 1) ∧
  (∀ (dt : Nat) (it : JItem) (rest : List JItem) (s : State), s.mnf.waiting = it :: rest → s.nvmOpen = true →
  (it.kind = 1 ∨ it.kind = 3) →
  ∃ t, Sys2Proof.Machine.exec (.journalWrite dt true) s = .next t ∧ t.mnf.waiting = rest ∧
    tfind t.mnf.journal it.kind = some (1 - (tget s.mnf.journal it.kind (1, 0, [])).1,
      (tget s.mnf.journal it.kind (1, 0, [])).2.1 + 1, it.payload) ∧
    Framed [] { s.advance dt with mnf := t.mnf } t) ∧
  (∀ (dt : Nat) (rb : Bool) (s : State), (s.nvmOpen = false ∨ rb = false) →
  Sys2Proof.Machine.exec (.journalWrite dt rb) s = .next (s.advance dt)) ∧
  (∀ (dt : Nat) (p : Port) (k : Nat) (v : Int) (l : Limit) (s : State), s.session p = some .installer → s.mode = 2 →
  s.man.limits.find? (fun x => x.param = k) = some l → l.lo ≤ v → v ≤ l.hi → s.tuneFits k v = true →
  ∃ t, Sys2Proof.Machine.exec (.installerParamChange dt p k v) s = .next t ∧ t.mnf.tunePending = s.mnf.tunePending ++ [(k, v, s.role.keyId)] ∧
    t.mnf.tuned = s.mnf.tuned) ∧
  (∀ (dt : Nat) (p : Port) (k : Nat) (v : Int) (s : State), s.session p = some .installer → s.mode ≠ 2 →
  ∃ t, Sys2Proof.Machine.exec (.installerParamChange dt p k v) s = .next t ∧ t.mnf = s.mnf ∧
    Framed (regKeys 0 lullFlds) { s.advance dt with role := { s.role with rwlAt := s.now + dt }, pwr := t.pwr } t) ∧
  (∀ (dt : Nat) (s : State), s.rollRuns = true → s.pwr.l3 = 0 → s.tick % 1000 = 0 → s.mnf.rollSeq = 0 →
  ∃ t, Sys2Proof.Machine.exec (.rollCallIssue dt) s = .next t ∧ t.mnf.rollSeq = 1 ∧ t.mnf.rollAt = s.tick ∧ t.mnf.rollSent = s.mnf.rollSent + 1) ∧
  (∀ (dt : Nat) (s : State), (s.pwr.l3 ≠ 0 ∨ s.tick % 1000 ≠ 0) → Sys2Proof.Machine.exec (.rollCallIssue dt) s = .next (s.advance dt))

/-- A mode command needs the Operator, is accepted for a transition of the table, and is refused otherwise (R48, R51, R52, R53,
  R62). -/
def Obligations.ModeCommands : Prop :=
  (∀ (dt tag : Nat) (p : Port) (s : State) (x : Nat × Instr), x ∈ modeCmds dt (.host p) tag → s.session p = some .operator → s.mode ≠ 1 →
  s.isActive = true → transGuards s.mode x.1 ≠ none →
  ∃ t, Sys2Proof.Machine.exec x.2 s = .next t ∧ t.get R.MODE_STAT_PENDING = 1 ∧ t.get R.MODE_CMD_STAT_RESULT = 1 ∧
    t.get R.MODE_CMD_STAT_TAG = tag % 256 ∧ t.get R.MODE_CMD_STAT_GUARDS = 0 ∧ t.mode = s.mode ∧
    (t.mnf.pendingMode.map fun c => (c.target, c.tag, c.src)) = some (x.1, tag % 256, .host p) ∧ t.role.rwlAt = s.now + dt) ∧
  (∀ (dt tag k : Nat) (s : State) (x : Nat × Instr), x ∈ modeCmds dt (.point k) tag → k ∈ s.man.modePoints → s.mode ≠ 1 →
  s.isActive = true → transGuards s.mode x.1 ≠ none →
  ∃ t, Sys2Proof.Machine.exec x.2 s = .next t ∧ t.get R.MODE_STAT_PENDING = 1 ∧ t.get R.MODE_CMD_STAT_RESULT = 1 ∧
    t.get R.MODE_CMD_STAT_TAG = tag % 256 ∧ t.mode = s.mode ∧
    (t.mnf.pendingMode.map fun c => (c.target, c.tag, c.src)) = some (x.1, tag % 256, .point k) ∧ t.role = s.role) ∧
  (∀ (dt tag k : Nat) (s : State) (x : Nat × Instr), x ∈ modeCmds dt (.point k) tag → k ∉ s.man.modePoints →
  Sys2Proof.Machine.exec x.2 s = .next (s.advance dt)) ∧
  (∀ (dt tag : Nat) (p : Port) (s : State) (x : Nat × Instr), x ∈ modeCmds dt (.host p) tag → s.session p ≠ some .operator →
  ∃ t, Sys2Proof.Machine.exec x.2 s = .next t ∧ Framed (regKeys 0 lullFlds) { s.advance dt with pwr := t.pwr } t) ∧
  (∀ (dt tag : Nat) (p : Port) (s : State) (x : Nat × Instr), x ∈ modeCmds dt (.host p) tag → s.session p = some .operator → s.mode ≠ 1 →
  s.isActive = true → transGuards s.mode x.1 = none →
  ∃ t, Sys2Proof.Machine.exec x.2 s = .next t ∧ t.get R.MODE_CMD_STAT_RESULT = 4 ∧ t.get R.MODE_CMD_STAT_GUARDS = s.guards % 2 ^ R.MODE_CMD_STAT_GUARDS.width ∧
    t.get R.MODE_CMD_STAT_TAG = tag % 256 ∧ t.get R.MODE_EVT_CMD_REFUSED = 1 ∧
    Framed (regKeys 0 ([R.MODE_CMD_TARGET, R.MODE_CMD_TAG, R.MODE_CMD_STAT_RESULT, R.MODE_CMD_STAT_TAG, R.MODE_CMD_STAT_GUARDS,
        R.MODE_EVT_CMD_REFUSED] ++ lullFlds))
      { s.advance dt with role := { s.role with rwlAt := s.now + dt }, pwr := t.pwr } t)

/-- SAFE entry, the deliberate reset, DORMANT entry and the tick counter (R55, R57, R58, R59, R62). -/
def Obligations.ModeChanges : Prop :=
  (∀ (dt c : Nat) (s : State), s.mnf.safePending = some c → s.inService = true → s.get R.MODE_STAT_SAFE_CAUSE = 0 → c < 256 →
  ∃ t, Sys2Proof.Machine.exec (.safeEntry dt) s = .next t ∧ t.mode = 5 ∧ t.get R.MODE_STAT_SAFE_CAUSE = c ∧ t.mnf.safePending = none ∧
    t.mnf.pendingMode = none ∧ t.get R.MODE_EVT_SAFE_ENTERED = 1 ∧ t.get R.HELM_STAT_LAW = 0 ∧ t.get R.MODE_STAT_BLEND = 0 ∧
    t.helm.solving = none ∧ t.alloc.solving = none) ∧
  (∀ (dt : Nat) (s : State), s.mnf.safePending = none → Sys2Proof.Machine.exec (.safeEntry dt) s = .next (s.advance dt)) ∧
  (∀ (dt : Nat) (p : Port) (s : State), s.session p = some .operator → s.mnf.resetKeyAt = none →
  ∃ t, Sys2Proof.Machine.exec (.modeResetWrite dt p 0xA55A) s = .next t ∧ t.mnf.resetKeyAt = some (s.now + dt) ∧
    Framed (regKeys 0 lullFlds)
      { s.advance dt with role := { s.role with rwlAt := s.now + dt }, pwr := t.pwr, mnf := { s.mnf with resetKeyAt := some (s.now + dt) } } t) ∧
  (∀ (dt t₀ : Nat) (p : Port) (s : State), s.session p = some .operator → s.mnf.resetKeyAt = some t₀ → s.now + dt ≤ t₀ + 1000000000 →
  ∃ t, Sys2Proof.Machine.exec (.modeResetWrite dt p 0x5AA5) s = .next t ∧ t.mode = 1 ∧ t.mus.running = true ∧ t.mus.at_ = s.now + dt ∧
    t.mus.modeReset = some s.role.keyId ∧ t.get R.ROLE_STAT_SESSION = 0 ∧ t.get R.MODE_STAT_ACTIVE = 0 ∧ t.mnf.resetKeyAt = none) ∧
  (∀ (dt k : Nat) (p : Port) (s : State), s.session p = some .operator → s.mnf.resetKeyAt = none → k ≠ 0xA55A →
  ∃ t, Sys2Proof.Machine.exec (.modeResetWrite dt p k) s = .next t ∧
    Framed (regKeys 0 lullFlds) { s.advance dt with role := { s.role with rwlAt := s.now + dt }, pwr := t.pwr } t) ∧
  (∀ (dt t₀ : Nat) (s : State), s.mnf.resetKeyAt = some t₀ → t₀ + 1000000000 < s.now + dt →
  ∃ t, Sys2Proof.Machine.exec (.modeResetTimeout dt) s = .next t ∧ Framed [] { s.advance dt with mnf := { s.mnf with resetKeyAt := none } } t) ∧
  (∀ (dt : Nat) (s : State), s.mnf.resetKeyAt = none → Sys2Proof.Machine.exec (.modeResetTimeout dt) s = .next (s.advance dt)) ∧
  (∀ (dt a : Nat) (s : State), s.mus.dormantAt = some a → s.mus.wakeLatched = false →
  ∃ t, Sys2Proof.Machine.exec (.dormantEntryDone dt) s = .next t ∧ t.mode = 0 ∧ t.mus.enIo = false ∧ t.mus.enCore = false ∧ t.mus.railOk = [] ∧
    t.mus.offIoAt = some (s.now + dt + 100000) ∧ t.mus.dormantAt = none ∧ t.time.rtc = (s.advance dt).time.rtc ∧
    t.gnssRet = s.gnssRet ∧ (∀ f b, fkey f ∉ (R.MODE_STAT_MODE :: keptFlds).map fkey → t.get f b = f.reset)) ∧
  (∀ (dt : Nat) (s : State), s.mus.dormantAt = none → Sys2Proof.Machine.exec (.dormantEntryDone dt) s = .next (s.advance dt)) ∧
  (∀ (dt : Nat) (s : State),
  ∃ t, Sys2Proof.Machine.exec (.modeTickLoRead dt .pcie) s = .next t ∧ t.pcie.rdata = s.tick % 2 ^ 32 ∧
    t.get R.MODE_TICK_HI_TICK_HI = s.tick / 2 ^ 32 % 2 ^ 32 ∧
    Framed [loc R.MODE_TICK_HI_TICK_HI 0] { s.advance dt with pcie := { s.pcie with rdata := s.tick % 2 ^ 32 } } t) ∧
  (∀ (dt : Nat) (s : State),
  ∃ t, Sys2Proof.Machine.exec (.modeTickLoRead dt .spi) s = .next t ∧ t.spi.rdata = s.tick % 2 ^ 32 ∧
    t.get R.MODE_TICK_HI_TICK_HI = s.tick / 2 ^ 32 % 2 ^ 32 ∧
    Framed [loc R.MODE_TICK_HI_TICK_HI 0] { s.advance dt with spi := { s.spi with rdata := s.tick % 2 ^ 32 } } t)

/-- The faults of the architecture chapter record DEV_FAULT and trigger; corrections and aged requests count (R14, R17, R20,
  R23, R362). -/
def Obligations.DeviceFaults : Prop :=
  (∀ (dt e : Nat) (s : State),
  ∃ t, Sys2Proof.Machine.exec (.engineLockstepMismatch dt e) s = .next t ∧ e ∈ t.engStopped ∧ (∀ x ∈ s.engStopped, x ∈ t.engStopped) ∧
    t.get R.DEV_FAULT_CAUSE = 1 ∧ t.get R.DEV_FAULT_UNIT = e % 2 ^ R.DEV_FAULT_UNIT.width ∧ t.get R.DEV_EVT_FAULT = 1 ∧ t.mode = s.mode) ∧
  (∀ (dt e : Nat) (s : State), s.inService = true → s.isActive = true → s.isPaired = true →
  ∃ t, Sys2Proof.Machine.exec (.engineLockstepMismatch dt e) s = .next t ∧ t.get R.TWIN_STAT_ACTIVE_OUT = 0 ∧ t.get R.TWIN_STAT_STATE = 6 ∧
    t.isActive = false ∧ t.isPaired = false ∧ t.get R.DEV_STAT_DRIVES_NOTHING = 1 ∧ t.get R.TWIN_HO_CAUSE = 1 ∧
    t.mnf.safePending = (match s.mnf.safePending with | some c => some c | none => some 7)) ∧
  (∀ (dt e : Nat) (s : State), s.inService = true → s.isActive = true → s.isPaired = false →
  ∃ t, Sys2Proof.Machine.exec (.engineLockstepMismatch dt e) s = .next t ∧ t.isActive = true ∧
    t.mnf.safePending = (match s.mnf.safePending with | some c => some c | none => some 6)) ∧
  (∀ (dt u : Nat) (m : MemKind) (s : State), m ∈ [MemKind.engine, .scratch, .shared, .retention, .dram] →
  ∃ t, Sys2Proof.Machine.exec (.eccUncorrectable dt m u) s = .next t ∧ t.get R.DEV_FAULT_CAUSE = 3 ∧
    t.get R.DEV_FAULT_UNIT = u % 2 ^ R.DEV_FAULT_UNIT.width ∧ t.get R.DEV_EVT_FAULT = 1) ∧
  (∀ (dt u : Nat) (s : State),
  ∃ t, Sys2Proof.Machine.exec (.eccUncorrectable dt .retGnss u) s = .next t ∧ t.gnssRet = none ∧ t.get R.DEV_FAULT_COUNT = s.get R.DEV_FAULT_COUNT ∧
    t.mode = s.mode) ∧
  (∀ (dt : Nat) (m : MemKind) (s : State), m ≠ .scratch →
  Sys2Proof.Machine.exec (.eccCorrection dt m) s =
    .next { s.advance dt with eccFixed := tput s.eccFixed (memIdx m) (tget s.eccFixed (memIdx m) 0 + 1) }) ∧
  (∀ (dt : Nat) (s : State),
  ∃ t, Sys2Proof.Machine.exec (.eccCorrection dt .scratch) s = .next t ∧
    t.get R.YUZ_ECC_CORRECTED = (s.get R.YUZ_ECC_CORRECTED + 1) % 2 ^ R.YUZ_ECC_CORRECTED.width ∧
    Framed [loc R.YUZ_ECC_CORRECTED 0] { s.advance dt with eccFixed := tput s.eccFixed 1 (tget s.eccFixed 1 0 + 1) } t) ∧
  (∀ (dt : Nat) (c : List (FastDomain × Nat)) (s : State), c.any countOff = true →
  ∃ t, Sys2Proof.Machine.exec (.clockMonitorWindow dt c) s = .next t ∧ t.get R.DEV_FAULT_CAUSE = 4 ∧ t.get R.DEV_FAULT_UNIT = 0xFFFF ∧
    t.get R.DEV_EVT_FAULT = 1) ∧
  (∀ (dt : Nat) (c : List (FastDomain × Nat)) (s : State), c.any countOff = false →
  Sys2Proof.Machine.exec (.clockMonitorWindow dt c) s = .next (s.advance dt)) ∧
  (∀ (dt : Nat) (s : State),
  ∃ t, Sys2Proof.Machine.exec (.xtal32kLoss dt) s = .next t ∧ t.time.rtcMain = true ∧ t.get R.DEV_FAULT_CAUSE = 4 ∧ t.get R.DEV_EVT_FAULT = 1) ∧
  (∀ (dt p w : Nat) (s : State), 2048 ≤ w →
  Sys2Proof.Machine.exec (.networkPriorityAging dt p w) s = .next { s.advance dt with netAged := tput s.netAged p (tget s.netAged p 0 + 1) }) ∧
  (∀ (dt p w : Nat) (s : State), w < 2048 → Sys2Proof.Machine.exec (.networkPriorityAging dt p w) s = .next (s.advance dt))

/-- An armed wake source latches, raises the rails and asks for MUSTER; an unarmed one does nothing in DORMANT (R329, R380,
  R381, R419, R439). -/
def Obligations.WakesFromDormant : Prop :=
  (∀ (dt k v : Nat) (f : Fld) (low : Bool) (c : Instr) (s : State), (f, v, low, c) ∈ wakeCmds dt k s → s.dormant = true → s.pwr.l3 = 0 →
  s.mus.wake = false → s.mus.wakeLatched = false → s.mus.dormantAt = none → v ≠ 0 → v < 2 ^ f.width →
  ∃ t, Sys2Proof.Machine.exec c s = .next t ∧ t.get f = v ∧ (∀ g ∈ wakeFlds, g ≠ f → t.get g = 0) ∧ t.mus.wake = true ∧ t.mus.enIo = true ∧
    t.mus.woke = true ∧ t.mus.wakeN = (s.mus.wakeN || low) ∧
    Framed (regKeys 0 wakeFlds) { s.advance dt with mus := t.mus } t) ∧
  (∀ (dt k v : Nat) (f : Fld) (low : Bool) (c : Instr) (s : State), (f, v, low, c) ∈ wakeCmds dt k s → s.dormant = true → s.pwr.l3 = 0 →
  s.mus.wake = false → s.mus.wakeLatched = false → s.mus.dormantAt ≠ none → v ≠ 0 → v < 2 ^ f.width →
  ∃ t, Sys2Proof.Machine.exec c s = .next t ∧ t.get f = v ∧ t.mus.wakeLatched = true ∧ t.mus.wake = false ∧ t.mus.dormantAt = s.mus.dormantAt ∧
    Framed (regKeys 0 wakeFlds) { s.advance dt with mus := t.mus } t) ∧
  (∀ (dt k : Nat) (f : Fld) (low : Bool) (c : Instr) (s : State), (f, 0, low, c) ∈ wakeCmds dt k s → s.pwr.l3 = 0 →
  Sys2Proof.Machine.exec c s = .next (s.advance dt)) ∧
  (∀ (dt : Nat) (s : State), s.pwr.l3 = 0 →
  ∃ t, Sys2Proof.Machine.exec (.hostWake dt true) s = .next t ∧ t.mus.wakeN = false ∧ t.mus.perst = true) ∧
  (∀ (dt : Nat) (s : State), s.dormant = true → s.mus.wake = false → s.mus.wakeLatched = false → s.mus.dormantAt = none → s.pwr.l3 = 0 →
  s.get R.PWR_RTC_ALARM_SEC ≠ 0 → s.time.rtcOk = true →
  s.get R.PWR_RTC_ALARM_SEC ≤ (s.advance dt).time.rtc / 4294967296000000000 % 4294967296 → s.get R.PWR_WAKE_EN_RTC = 1 →
  ∃ t, Sys2Proof.Machine.exec (.rtcAlarm dt) s = .next t ∧ t.get R.PWR_WAKE_SRC_RTC = 1 ∧ t.mus.wake = true ∧ t.mus.enIo = true ∧
    (∀ g ∈ wakeFlds, g ≠ R.PWR_WAKE_SRC_RTC → t.get g = 0) ∧
    Framed (regKeys 0 wakeFlds) { s.advance dt with mus := t.mus } t) ∧
  (∀ (dt : Nat) (s : State), s.get R.PWR_RTC_ALARM_SEC = 0 → Sys2Proof.Machine.exec (.rtcAlarm dt) s = .next (s.advance dt))

/-- LULL3 is entered and left, and gap depths are taken by domains (R374, R375, R377, R378, R379). -/
def Obligations.LullDepths : Prop :=
  (∀ (dt : Nat) (p : Port) (us : Nat) (s : State), s.session p = some .operator → us < 16777216 → s.pwr.l3 = 0 →
  permittedDepth us = permittedDepth (s.get R.PWR_LAT_TOL_US) →
  ∃ t, Sys2Proof.Machine.exec (.pwrLatTolWrite dt p us) s = .next t ∧ t.get R.PWR_LAT_TOL_US = us ∧ t.get R.PWR_STAT_PERMITTED = permittedDepth us ∧
    t.role.rwlAt = s.now + dt ∧
    Framed (regKeys 0 [R.PWR_LAT_TOL_US, R.PWR_STAT_PERMITTED]) { s.advance dt with role := t.role, pwr := t.pwr } t) ∧
  (∀ (dt : Nat) (p : Port) (us : Nat) (s : State), s.session p = some .operator → us < 16777216 → s.pwr.l3 = 0 →
  permittedDepth us ≠ permittedDepth (s.get R.PWR_LAT_TOL_US) →
  ∃ t, Sys2Proof.Machine.exec (.pwrLatTolWrite dt p us) s = .next t ∧ t.get R.PWR_LAT_TOL_US = us ∧ t.get R.PWR_STAT_PERMITTED = permittedDepth us ∧
    t.get R.PWR_EVT_DEPTH = 1 ∧
    Framed (regKeys 0 [R.PWR_LAT_TOL_US, R.PWR_STAT_PERMITTED, R.PWR_EVT_DEPTH]) { s.advance dt with role := t.role, pwr := t.pwr } t) ∧
  (∀ (dt : Nat) (p : Port) (us : Nat) (s : State), s.session p ≠ some .operator → s.pwr.l3 = 0 →
  ∃ t, Sys2Proof.Machine.exec (.pwrLatTolWrite dt p us) s = .next t ∧ Framed [] (s.advance dt) t) ∧
  (∀ (dt d n : Nat) (s : State), d < 4 → s.pwr.l3 = 0 → s.mode = 2 → s.get R.PWR_STAT_DEPTH ≠ 3 →
  250 ≤ s.get R.PWR_LAT_TOL_US → 320000 < n →
  ∃ t, Sys2Proof.Machine.exec (.lullGapEntry dt d n) s = .next t ∧ tfind t.pwr.gaps d = some 2 ∧ (t.get R.PWR_STAT_QUAD_GATED).testBit d = true ∧
    Framed [loc R.PWR_STAT_QUAD_GATED 0] { s.advance dt with pwr := { s.pwr with gaps := tput s.pwr.gaps d 2 } } t) ∧
  (∀ (dt n : Nat) (s : State), s.pwr.l3 = 0 → s.mode = 2 → s.get R.PWR_STAT_DEPTH ≠ 3 → 10 ≤ s.get R.PWR_LAT_TOL_US →
  s.get R.PWR_LAT_TOL_US < 250 → 31000 < n →
  ∃ t, Sys2Proof.Machine.exec (.lullGapEntry dt 4 n) s = .next t ∧ tfind t.pwr.gaps 4 = some 1 ∧ t.get R.PWR_STAT_YUZ_GATED = 0 ∧
    Framed [loc R.PWR_STAT_YUZ_GATED 0] { s.advance dt with pwr := { s.pwr with gaps := tput s.pwr.gaps 4 1 } } t) ∧
  (∀ (dt d n : Nat) (s : State), (s.mode ≠ 2 ∨ n ≤ 31000) → s.get R.PWR_STAT_DEPTH ≠ 3 →
  Sys2Proof.Machine.exec (.lullGapEntry dt d n) s = .next (s.advance dt)) ∧
  (∀ (dt d : Nat) (s : State), d < 4 → tfind s.pwr.gaps d ≠ none →
  ∃ t, Sys2Proof.Machine.exec (.lullGapWake dt d) s = .next t ∧ (t.get R.PWR_STAT_QUAD_GATED).testBit d = false ∧
    Framed [loc R.PWR_STAT_QUAD_GATED 0] { s.advance dt with pwr := { s.pwr with gaps := tdel s.pwr.gaps d } } t) ∧
  (∀ (dt d : Nat) (s : State), tfind s.pwr.gaps d = none → Sys2Proof.Machine.exec (.lullGapWake dt d) s = .next (s.advance dt)) ∧
  (∀ (dt t₀ : Nat) (s : State), s.pwr.okSince = some t₀ → s.pwr.l3 = 0 → (s.advance dt).lullBlock = 0 → t₀ + 1000000000 ≤ s.now + dt →
  s.isActive = true → s.tick % 5000 = 0 →
  ∃ t, Sys2Proof.Machine.exec (.lull3Entry dt) s = .next t ∧ t.pwr.l3 = 1 ∧ t.pwr.follower = false ∧ t.pwr.since = s.now + dt ∧
    t.get R.PWR_STAT_DEPTH = 3 ∧ t.get R.PWR_STAT_QUAD_GATED = 15 ∧ t.get R.PWR_STAT_YUZ_GATED = 1 ∧ t.get R.PWR_STAT_DRAM_SR = 1 ∧
    t.get R.PWR_EVT_LULL3_IN = 1 ∧ t.get R.PWR_LULL3_ENTRIES = (s.get R.PWR_LULL3_ENTRIES + 1) % 2 ^ R.PWR_LULL3_ENTRIES.width ∧
    t.mode = s.mode) ∧
  (∀ (dt : Nat) (s : State), (s.pwr.okSince = none ∨ s.tick % 5000 ≠ 0 ∨ s.pwr.l3 ≠ 0) → Sys2Proof.Machine.exec (.lull3Entry dt) s = .next (s.advance dt)) ∧
  (∀ (dt : Nat) (s : State), s.pwr.l3 = 2 → s.log.lostHold = 0 →
  ∃ t, Sys2Proof.Machine.exec (.lull3WakeDone dt) s = .next t ∧ t.pwr.l3 = 3 ∧ t.get R.PWR_STAT_WAKING = 0 ∧ t.get R.PWR_STAT_DEPTH = 0 ∧
    t.get R.PWR_STAT_QUAD_GATED = 0 ∧ t.get R.PWR_STAT_YUZ_GATED = 0 ∧ t.get R.PWR_STAT_DRAM_SR = 0 ∧ t.log.hold = [] ∧
    Framed (regKeys 0 [R.PWR_STAT_WAKING, R.PWR_STAT_DEPTH, R.PWR_STAT_QUAD_GATED, R.PWR_STAT_YUZ_GATED, R.PWR_STAT_DRAM_SR])
      { s.advance dt with pwr := { s.pwr with l3 := 3 } } t) ∧
  (∀ (dt : Nat) (s : State), s.pwr.l3 = 1 → s.pwr.follower = false →
  ∃ t, Sys2Proof.Machine.exec (.wakeEventForwardReceive dt) s = .next t ∧ t.pwr.l3 = 2 ∧ t.pwr.okSince = none ∧ t.get R.PWR_STAT_WAKING = 1 ∧
    t.get R.PWR_EVT_LULL3_OUT = 1 ∧ Framed (regKeys 0 lullFlds) { s.advance dt with pwr := t.pwr } t) ∧
  (∀ (dt : Nat) (s : State), s.pwr.l3 ≠ 1 → Sys2Proof.Machine.exec (.wakeEventForwardReceive dt) s = .next (s.advance dt))

/-- Temperature sensors, their failure and return, and the shut-down (R382, R383, R385). -/
def Obligations.ThermalLimits : Prop :=
  (∀ (dt : Nat) (s : State), s.mus.pllLocked = true → s.thrm.shut = none → s.thrm.seen = false →
  ∃ t, Sys2Proof.Machine.exec (.sensorWindow dt (List.replicate 24 (9, 300))) s = .next t ∧ t.thrm.seen = true ∧
    (∀ n, n < 24 → t.get R.THRM_SENS_CNT_COUNT n = 9) ∧ (∀ n, n < 24 → t.geti R.THRM_SENS_TEMP_DC n = 300) ∧
    t.get R.THRM_STAT_NVM_OPEN = 1) ∧
  (∀ (dt : Nat) (v : List (Nat × Int)) (s : State), (s.mus.pllLocked = false ∨ s.thrm.shut ≠ none) →
  Sys2Proof.Machine.exec (.sensorWindow dt v) s = .next (s.advance dt)) ∧
  (∀ (dt n : Nat) (s : State), n < 24 → s.sensState n = 0 → sensBad (s.sens n) = true →
  ∃ t, Sys2Proof.Machine.exec (.sensorBroken dt n) s = .next t ∧ t.sensState n = (if (s.sens n).band then 2 else 1) ∧ t.get R.THRM_EVT_BROKEN = 1 ∧
    t.get R.THRM_STAT_BROKEN = t.brokenCount ∧ t.get R.THRM_STAT_BROKEN_OVER = (if 4 < t.brokenCount then 1 else 0)) ∧
  (∀ (dt n : Nat) (s : State), (24 ≤ n ∨ s.sensState n ≠ 0 ∨ sensBad (s.sens n) = false) →
  Sys2Proof.Machine.exec (.sensorBroken dt n) s = .next (s.advance dt)) ∧
  (∀ (dt n : Nat) (s : State), s.sensState n ≠ 0 → 256 ≤ (s.sens n).good →
  ∃ t, Sys2Proof.Machine.exec (.sensorReturn dt n) s = .next t ∧ t.sensState n = 0 ∧ t.get R.THRM_EVT_RECOVERED = 1 ∧
    t.get R.THRM_STAT_BROKEN = t.brokenCount) ∧
  (∀ (dt n : Nat) (s : State), (s.sensState n = 0 ∨ (s.sens n).good < 256) → Sys2Proof.Machine.exec (.sensorReturn dt n) s = .next (s.advance dt)) ∧
  (∀ (dt op us n : Nat) (h : Int) (s : State), s.thrm.shut = some (n, h) →
  ∃ t, Sys2Proof.Machine.exec (.shutdownPowerOff dt op us) s = .next t ∧ t.mode = 0 ∧ t.mus.enIo = false ∧ t.mus.enCore = false ∧
    t.mus.thermalOff = true ∧ t.mus.shutNote = some (n, h, op, min 2000 us) ∧ t.get R.PWR_WAKE_SRC_THERMAL_OFF = 1 ∧
    (∀ g ∈ wakeFlds, g ≠ R.PWR_WAKE_SRC_THERMAL_OFF → t.get g = 0) ∧ t.dormant = false) ∧
  (∀ (dt op us : Nat) (s : State), s.thrm.shut = none → Sys2Proof.Machine.exec (.shutdownPowerOff dt op us) s = .next (s.advance dt))

/-- Latching the time, the single step and the grid (R97, R101, R102, R107). -/
def Obligations.TimeLatched : Prop :=
  (∀ (dt : Nat) (p : Port) (s : State),
  ∃ t, Sys2Proof.Machine.exec (.timeLatch dt p) s = .next t ∧ t.get R.TIME_LAT_NS_NS = (s.advance dt).ns % 1000000000 ∧
    t.get R.TIME_LAT_SEC_LO_SEC_LO = (s.advance dt).ns / 1000000000 % 2 ^ 32 ∧
    t.get R.TIME_LAT_SEC_HI_SEC_HI = (s.advance dt).ns / 1000000000 / 2 ^ 32 % 2 ^ 16 ∧
    t.get R.TIME_LAT_PM32_PM32 = (s.advance dt).ns % 2 ^ 32 ∧
    Framed (regKeys 0 [R.TIME_LAT_NS_NS, R.TIME_LAT_SEC_LO_SEC_LO, R.TIME_LAT_SEC_HI_SEC_HI, R.TIME_LAT_PM32_PM32]) (s.advance dt) t) ∧
  (∀ (dt t₀ : Nat) (s : State), s.time.fixAt = some t₀ → s.stepped = false → s.tick % 1000 = 0 → t₀ + 20000000 ≤ s.now + dt →
  s.isPaired = false → s.stepFix.1 < 8 →
  ∃ t, Sys2Proof.Machine.exec (.singleStep dt) s = .next t ∧ t.stepped = true ∧ t.timeState = 1 ∧ t.get R.TIME_STAT_SRC = s.stepFix.1 ∧
    t.time.count = shiftCount (s.advance dt).time.count s.stepFix.2 ∧ t.time.fixAt = none ∧
    t.time.rtc = t.time.count ∧ t.time.rtcOk = true ∧ t.tick = s.tick ∧ t.get R.TIME_EVT_STEP = 1) ∧
  (∀ (dt : Nat) (s : State), (s.time.fixAt = none ∨ s.stepped = true ∨ s.tick % 1000 ≠ 0) →
  Sys2Proof.Machine.exec (.singleStep dt) s = .next (s.advance dt)) ∧
  (∀ (dt : Nat) (s : State), s.stepped = true → s.geti R.TIME_GRID_NS = 0 → s.get R.TIME_STAT_GRID_ALIGNED = 0 →
  ∃ t, Sys2Proof.Machine.exec (.gridAligned dt) s = .next t ∧ t.get R.TIME_STAT_GRID_ALIGNED = 1 ∧ t.time.tickCycles = 4000 ∧ t.get R.TIME_EVT_GRID_DONE = 1 ∧
    Framed (regKeys 0 [R.TIME_STAT_GRID_ALIGNED, R.TIME_EVT_GRID_DONE]) { s.advance dt with time := t.time } t) ∧
  (∀ (dt : Nat) (s : State), (s.stepped = false ∨ s.geti R.TIME_GRID_NS ≠ 0) → Sys2Proof.Machine.exec (.gridAligned dt) s = .next (s.advance dt))

/-- The servo, the loss and return of a source, holdover and recovery (R103, R104, R105, R106). -/
def Obligations.TimeSources : Prop :=
  (∀ (dt : Nat) (fe : Rat) (ofs : Int) (utc : Option (Int × Nat)) (s : State), s.stepped = true → s.bestSrc ≠ 0 → s.bestSrc < 8 → s.timeState ≠ 2 →
  s.isPaired = false →
  ∃ t, Sys2Proof.Machine.exec (.servoUpdate dt fe ofs utc) s = .next t ∧ t.time.rate = clampRate s.time.rate (fe + (ofs : Rat) / 16) ∧
    t.get R.TIME_STAT_SRC = s.bestSrc ∧ t.srcOfs s.bestSrc = ofs ∧
    t.time.below = (if ofs.natAbs < 1000 then s.time.below + 1 else 0) ∧ t.timeState = s.timeState ∧
    t.time.count = (s.advance dt).time.count) ∧
  (∀ (dt : Nat) (fe : Rat) (ofs : Int) (utc : Option (Int × Nat)) (s : State), (s.stepped = false ∨ s.timeState = 2) →
  Sys2Proof.Machine.exec (.servoUpdate dt fe ofs utc) s = .next (s.advance dt)) ∧
  (∀ (dt : Nat) (fe : Rat) (ofs : Int) (utc : Option (Int × Nat)) (s : State), s.stepped = true → s.bestSrc = 0 → s.timeState ≠ 2 →
  s.isPaired = false →
  ∃ t, Sys2Proof.Machine.exec (.servoUpdate dt fe ofs utc) s = .next t ∧ t.timeState = 2 ∧ t.get R.TIME_STAT_SRC = 0 ∧
    t.time.rate = meanRate s.time.lockedRates s.time.rate ∧ t.time.holdAt = s.now + dt ∧ t.time.count = (s.advance dt).time.count) ∧
  (∀ (dt src : Nat) (s : State), src ∈ s.time.live → tget s.time.seenAt src 0 + s.man.holdEnter * 1000000000 ≤ s.now + dt →
  s.stepped = true → s.isPaired = false → s.timeState ≠ 2 → (s.man.srcList.find? fun x => x ∈ s.time.live.filter (· ≠ src)) = none →
  ∃ t, Sys2Proof.Machine.exec (.sourceLost dt src) s = .next t ∧ t.timeState = 2 ∧ t.get R.TIME_STAT_SRC = 0 ∧
    t.time.rate = meanRate s.time.lockedRates s.time.rate ∧ t.time.holdAt = s.now + dt ∧ t.time.live = s.time.live.filter (· ≠ src) ∧
    t.get R.TIME_HOLD_S = 0 ∧ t.get R.TIME_EVT_HOLD_ENTER = 1 ∧ t.time.count = (s.advance dt).time.count) ∧
  (∀ (dt src b : Nat) (s : State), src ∈ s.time.live → tget s.time.seenAt src 0 + s.man.holdEnter * 1000000000 ≤ s.now + dt →
  s.stepped = true → s.isPaired = false → (s.man.srcList.find? fun x => x ∈ s.time.live.filter (· ≠ src)) = some b → b ≠ 0 → b < 8 →
  ∃ t, Sys2Proof.Machine.exec (.sourceLost dt src) s = .next t ∧ t.get R.TIME_STAT_SRC = b ∧ t.timeState = s.timeState ∧
    t.time.live = s.time.live.filter (· ≠ src)) ∧
  (∀ (dt src : Nat) (s : State), src ∉ s.time.live → Sys2Proof.Machine.exec (.sourceLost dt src) s = .next (s.advance dt)) ∧
  (∀ (dt src : Nat) (o : Int) (s : State), src ∈ s.man.srcList → s.stepped = true → s.timeState = 2 → s.isPaired = false →
  ∃ t, Sys2Proof.Machine.exec (.sourceReturn dt src o) s = .next t ∧ t.timeState = 3 ∧ t.time.below = 0 ∧ src ∈ t.time.live ∧ t.srcOfs src = o ∧
    t.time.count = (s.advance dt).time.count) ∧
  (∀ (dt src : Nat) (o : Int) (s : State), src ∈ s.man.srcList → s.stepped = false → src ≠ 6 → s.time.fixAt = none →
  ∃ t, Sys2Proof.Machine.exec (.sourceReturn dt src o) s = .next t ∧ t.time.fixAt = some (s.now + dt) ∧ t.time.fixSrc = src ∧ t.time.fixOfs = o ∧
    t.timeState = s.timeState ∧ Framed [] { s.advance dt with time := t.time } t) ∧
  (∀ (dt : Nat) (o : Int) (s : State), s.stepped = false → Sys2Proof.Machine.exec (.sourceReturn dt 6 o) s = .next (s.advance dt)) ∧
  (∀ (dt : Nat) (s : State), s.timeState = 3 → 11 ≤ s.time.below →
  ∃ t, Sys2Proof.Machine.exec (.recoveryLock dt) s = .next t ∧ t.timeState = 1 ∧ t.get R.TIME_STAT_UNC_OVER = 0 ∧ t.get R.TIME_EVT_LOCK = 1 ∧
    t.time.uncAlarm = false ∧
    Framed (regKeys 0 [R.TIME_STAT_STATE, R.TIME_STAT_UNC_OVER, R.TIME_EVT_LOCK]) { s.advance dt with time := t.time } t) ∧
  (∀ (dt : Nat) (s : State), (s.timeState ≠ 3 ∨ s.time.below < 11) → Sys2Proof.Machine.exec (.recoveryLock dt) s = .next (s.advance dt)) ∧
  (∀ (dt : Nat) (s : State), s.timeState = 2 → s.time.uncAlarm = false →
  ((s.man.uncLimit : Nat) : Rat) < holdUnc s.time.u0 s.man.oscStab s.man.oscAging (((s.now + dt - s.time.holdAt : Nat) : Rat) / 1000000000) →
  ∃ t, Sys2Proof.Machine.exec (.uncLimitExceeded dt) s = .next t ∧ t.get R.TIME_STAT_UNC_OVER = 1 ∧ t.time.uncAlarm = true ∧ t.get R.TIME_EVT_UNC_OVER = 1 ∧
    t.timeState = 2 ∧
    Framed (regKeys 0 [R.TIME_UNC_NS, R.TIME_HOLD_S, R.TIME_STAT_UNC_OVER, R.TIME_EVT_UNC_OVER]) { s.advance dt with time := t.time } t) ∧
  (∀ (dt : Nat) (s : State), (s.timeState ≠ 2 ∨ s.time.uncAlarm = true) → Sys2Proof.Machine.exec (.uncLimitExceeded dt) s = .next (s.advance dt))

/-- The leap second, PPS_OUT and PPS_IN, the external reference and the time-trigger units (R99, R110, R111, R112, R115). -/
def Obligations.TimePulses : Prop :=
  (∀ (dt : Nat) (s : State), s.get R.TIME_UTC_LEAP = 1 → s.geti R.TIME_UTC_UTC_OFS < 32767 →
  ∃ t, Sys2Proof.Machine.exec (.leapSecondApply dt) s = .next t ∧ t.geti R.TIME_UTC_UTC_OFS = s.geti R.TIME_UTC_UTC_OFS + 1 ∧ t.get R.TIME_UTC_LEAP = 0 ∧
    t.time.utcKept = some (s.geti R.TIME_UTC_UTC_OFS + 1) ∧ t.time.count = (s.advance dt).time.count ∧ t.get R.TIME_EVT_LEAP = 1) ∧
  (∀ (dt : Nat) (s : State), s.get R.TIME_UTC_LEAP = 2 → -32768 < s.geti R.TIME_UTC_UTC_OFS →
  ∃ t, Sys2Proof.Machine.exec (.leapSecondApply dt) s = .next t ∧ t.geti R.TIME_UTC_UTC_OFS = s.geti R.TIME_UTC_UTC_OFS - 1 ∧ t.get R.TIME_UTC_LEAP = 0) ∧
  (∀ (dt : Nat) (s : State), s.get R.TIME_UTC_LEAP = 0 → Sys2Proof.Machine.exec (.leapSecondApply dt) s = .next (s.advance dt)) ∧
  (∀ (dt : Nat) (q : Int) (s : State), (s.advance dt).ppsDrives = true →
  ∃ t, Sys2Proof.Machine.exec (.ppsOutPulse dt q) s = .next t ∧ t.time.ppsHigh = true ∧ t.time.ppsAt = s.now + dt ∧ t.get R.TIME_PPS_QERR_VALID = 1 ∧
    t.geti R.TIME_PPS_QERR_QERR = max (-39) (min 39 q) ∧
    Framed (regKeys 0 [R.TIME_PPS_QERR_VALID, R.TIME_PPS_QERR_QERR]) { s.advance dt with time := t.time } t) ∧
  (∀ (dt : Nat) (q : Int) (s : State), (s.advance dt).ppsMay = false →
  ∃ t, Sys2Proof.Machine.exec (.ppsOutPulse dt q) s = .next t ∧ t.time.ppsHigh = false ∧ t.get R.TIME_PPS_QERR_VALID = 0 ∧
    t.geti R.TIME_PPS_QERR_QERR = max (-39) (min 39 q) ∧
    Framed (regKeys 0 [R.TIME_PPS_QERR_VALID, R.TIME_PPS_QERR_QERR]) { s.advance dt with time := t.time } t) ∧
  (∀ (dt : Nat) (s : State), s.time.ppsHigh = true → s.time.ppsAt + s.man.ppsWidth * 1000000 ≤ s.now + dt →
  Sys2Proof.Machine.exec (.ppsOutPulseEnd dt) s = .next { s.advance dt with time := { (s.advance dt).time with ppsHigh := false } }) ∧
  (∀ (dt : Nat) (s : State), s.time.ppsHigh = false → Sys2Proof.Machine.exec (.ppsOutPulseEnd dt) s = .next (s.advance dt)) ∧
  (∀ (dt : Nat) (s : State), (6 ∉ s.man.srcList ∨ s.stepped = false) →
  ∃ t, Sys2Proof.Machine.exec (.ppsInEdge dt) s = .next t ∧ t.get R.TIME_PPSIN_PM_PM32 = (s.advance dt).ns % 2 ^ 32 ∧
    Framed [loc R.TIME_PPSIN_PM_PM32 0] { s.advance dt with time := { (s.advance dt).time with ppsInAt := some (s.advance dt).ns } } t) ∧
  (∀ (dt t₀ : Nat) (s : State), 6 ∈ s.man.srcList → s.stepped = true → s.time.ppsInAt = some t₀ → (s.advance dt).ns ≤ t₀ + 1000010000 →
  t₀ + 999990000 ≤ (s.advance dt).ns → s.timeState = 2 → 6 ∉ s.time.live → s.isPaired = false →
  ∃ t, Sys2Proof.Machine.exec (.ppsInEdge dt) s = .next t ∧ t.timeState = 3 ∧ 6 ∈ t.time.live ∧ t.time.below = 0 ∧
    t.get R.TIME_PPSIN_PM_PM32 = (s.advance dt).ns % 2 ^ 32) ∧
  (∀ (dt : Nat) (s : State), s.man.ext10mUse = true →
  ∃ t, Sys2Proof.Machine.exec (.ext10mLoss dt) s = .next t ∧ t.get R.TIME_STAT_EXT10M_OK = 0 ∧ Framed [loc R.TIME_STAT_EXT10M_OK 0] (s.advance dt) t) ∧
  (∀ (dt : Nat) (s : State), s.man.ext10mUse = true →
  ∃ t, Sys2Proof.Machine.exec (.ext10mRestore dt) s = .next t ∧ t.get R.TIME_STAT_EXT10M_OK = 1 ∧ Framed [loc R.TIME_STAT_EXT10M_OK 0] (s.advance dt) t) ∧
  (∀ (dt : Nat) (c : Instr) (s : State), c ∈ [Instr.ext10mLoss dt, .ext10mRestore dt] → s.man.ext10mUse = false → Sys2Proof.Machine.exec c s = .next (s.advance dt)) ∧
  (∀ (dt u : Nat) (c : TrigCfg) (s : State), s.man.trig[u]? = some c → (s.advance dt).trigDue u c = true → c.target = 1 →
  ∃ t, Sys2Proof.Machine.exec (.triggerUnitFire dt u) s = .next t ∧ tfind t.gpioEdge c.idx = some (s.now + dt) ∧
    t.get R.TIME_TRIG_STAT_FIRED u = (s.get R.TIME_TRIG_STAT_FIRED u + 1) % 2 ^ R.TIME_TRIG_STAT_FIRED.width ∧
    Framed [loc R.TIME_TRIG_STAT_FIRED u] { s.advance dt with time := t.time, gpioEdge := t.gpioEdge } t) ∧
  (∀ (dt u : Nat) (s : State), s.man.trig[u]? = none → Sys2Proof.Machine.exec (.triggerUnitFire dt u) s = .next (s.advance dt))

/-- PTP messages are taken by a port with a role, and a master port transmits at its intervals (R100, R113, R114, R433). -/
def Obligations.PtpMessages : Prop :=
  (∀ (dt p : Nat) (r : PtpReading) (s : State), p < 4 → s.get (ptpRoleFld p) ≠ 0 → r.offset = none → r.state < 8 → r.state ≠ 3 →
  ∃ t, Sys2Proof.Machine.exec (.ptpEventMessage dt p r) s = .next t ∧ t.get (ptpStateFld p) = r.state ∧ (t.ptp p).syncAt = s.now + dt ∧
    (t.ptp p).gmClass = r.gmClass ∧ (t.ptp p).gmId = r.gmId ∧
    Framed [loc (ptpStateFld p) 0] { s.advance dt with time := t.time } t) ∧
  (∀ (dt p : Nat) (r : PtpReading) (o : Int) (s : State), p < 4 → s.get (ptpRoleFld p) ≠ 0 → r.offset = some o → r.state = 3 →
  s.get (ptpStateFld p) = 3 → ([0, 1, 2, 3].all fun q => q = p || s.get (ptpStateFld q) ≠ 3) = true → (s.ptp p).offsets.length < 7 → 2 + p ∉ s.time.live →
  ∃ t, Sys2Proof.Machine.exec (.ptpEventMessage dt p r) s = .next t ∧ (t.ptp p).offsets = o :: (s.ptp p).offsets ∧ t.time.fixAt = s.time.fixAt ∧
    t.time.live = s.time.live) ∧
  (∀ (dt p : Nat) (r : PtpReading) (u : Int) (s : State), p < 4 → s.get (ptpRoleFld p) ≠ 0 → r.utcOfs = some u → r.state = s.get (ptpStateFld p) →
  r.state ≠ 3 → s.get R.TIME_STAT_SRC = 2 + p → r.leap < 4 →
  ∃ t, Sys2Proof.Machine.exec (.ptpGeneralMessage dt p r) s = .next t ∧ t.time.utcAnnounced = some u ∧ t.get R.TIME_UTC_LEAP = r.leap ∧
    (t.ptp p).announceAt = s.now + dt ∧ Framed [loc R.TIME_UTC_LEAP 0] { s.advance dt with time := t.time } t) ∧
  (∀ (dt p : Nat) (r : PtpReading) (c : Instr) (s : State), c ∈ [Instr.ptpEventMessage dt p r, .ptpGeneralMessage dt p r] →
  s.get (ptpRoleFld p) = 0 → Sys2Proof.Machine.exec c s = .next (s.advance dt)) ∧
  (∀ (dt p iv : Nat) (s : State), s.ptpMaster p = true → (s.ptp p).sentSync + iv ≤ s.now + dt →
  ∃ t, Sys2Proof.Machine.exec (.ptpSyncTransmit dt p iv) s = .next t ∧ t.time = ((s.advance dt).putPtp p { s.ptp p with sentSync := s.now + dt }).time ∧
    Framed [loc R.ETH_TX_CNT_GUARD_HOLDS p] { s.advance dt with time := t.time, eth := t.eth } t) ∧
  (∀ (dt p iv : Nat) (c : EthCfg) (s : State), s.ptpMaster p = true → (s.ptp p).sentSync + iv ≤ s.now + dt → s.ethCfg p = some c →
  s.get R.ETH_STAT_TX_ON p = 1 → s.get R.ETH_STAT_LINK p ≠ 1 →
  ∃ t, Sys2Proof.Machine.exec (.ptpSyncTransmit dt p iv) s = .next t ∧
    (t.ethSt p).queues.map (fun f => (f.queue, f.len)) = (s.ethSt p).queues.map (fun f => (f.queue, f.len)) ++
      [(7, if c.vlan = 0 then 64 else 66), (7, max 64 (18 + (if c.vlan = 0 then 0 else 4) + (if p ∈ s.man.ptpP2p then 76 else 44)))]) ∧
  (∀ (dt p iv : Nat) (s : State), s.ptpMaster p = true → (s.ptp p).sentAnnounce + iv ≤ s.now + dt →
  ([0, 1, 2, 3].all fun q => s.get (ptpStateFld q) ≠ 3) = true →
  ∃ t, Sys2Proof.Machine.exec (.ptpAnnounceTransmit dt p iv) s = .next t ∧
    t.time = ((s.advance dt).putPtp p { s.ptp p with sentAnnounce := s.now + dt, lastClass := s.clockQuality.1, lastSource := s.clockQuality.2, lastAccuracy := accuracyClass (s.get R.TIME_UNC_NS) }).time ∧
    Framed [loc R.ETH_TX_CNT_GUARD_HOLDS p] { s.advance dt with time := t.time, eth := t.eth } t) ∧
  (∀ (dt p iv : Nat) (c : Instr) (s : State), c ∈ [Instr.ptpSyncTransmit dt p iv, .ptpAnnounceTransmit dt p iv] →
  s.ptpMaster p = false → Sys2Proof.Machine.exec c s = .next (s.advance dt)) ∧
  (∀ (dt p iv : Nat) (s : State), s.get (ptpRoleFld p) ≠ 0 → (s.drives = true ∨ (p ∈ s.man.ptpP2p ∧ s.get R.DEV_STAT_DRIVES_NOTHING = 0)) →
  (s.ptp p).sentReq + iv ≤ s.now + dt →
  ∃ t, Sys2Proof.Machine.exec (.ptpDelayReqTransmit dt p iv) s = .next t ∧ t.time = ((s.advance dt).putPtp p { s.ptp p with sentReq := s.now + dt }).time ∧
    Framed [loc R.ETH_TX_CNT_GUARD_HOLDS p] { s.advance dt with time := t.time, eth := t.eth } t) ∧
  (∀ (dt p iv : Nat) (s : State), s.drives = false → p ∉ s.man.ptpP2p → Sys2Proof.Machine.exec (.ptpDelayReqTransmit dt p iv) s = .next (s.advance dt)) ∧
  (∀ (dt p iv : Nat) (s : State), s.get (ptpRoleFld p) = 0 → Sys2Proof.Machine.exec (.ptpDelayReqTransmit dt p iv) s = .next (s.advance dt))

/-- The receiver's bands fault and recover, it starts, acquires and loses satellites (R119, R120, R121, R123, R132, R134). -/
def Obligations.GnssBands : Prop :=
  (∀ (dt : Nat) (l1 l5 : Option Int) (s : State), s.get R.GNSS_STAT_STATE ≠ 0 → s.get R.GNSS_STAT_STATE ≠ 4 → bandBad l1 = true → s.gnss.fault1 = false →
  ∃ t, Sys2Proof.Machine.exec (.feClockMeasure dt l1 l5) s = .next t ∧ t.gnss.fault1 = true ∧ t.gnss.faultAt1 = s.now + dt ∧ t.get R.GNSS_STAT_L1_OK = 0 ∧
    t.get R.GNSS_EVT_FE_FAULT = 1 ∧ (∀ c, c < 48 → t.get R.GNSS_CH_STAT_LOCK c = 0)) ∧
  (∀ (dt : Nat) (a b : Int) (s : State), s.get R.GNSS_STAT_STATE ≠ 0 → s.get R.GNSS_STAT_STATE ≠ 4 → bandBad (some a) = false → bandBad (some b) = false → s.gnss.fault1 = false → s.gnss.fault5 = false →
  ∃ t, Sys2Proof.Machine.exec (.feClockMeasure dt (some a) (some b)) s = .next t ∧ t.gnss.fault1 = false ∧ t.gnss.fault5 = false ∧
    t.get R.GNSS_STAT_L1_OK = 1 ∧ t.get R.GNSS_STAT_L5_OK = 1 ∧ t.get R.GNSS_FE_STAT_L1_CLK = 1 ∧ t.get R.GNSS_FE_STAT_L5_CLK = 1) ∧
  (∀ (dt : Nat) (l1 l5 : Option Int) (s : State), (s.get R.GNSS_STAT_STATE = 0 ∨ s.get R.GNSS_STAT_STATE = 4) →
  Sys2Proof.Machine.exec (.feClockMeasure dt l1 l5) s = .next (s.advance dt)) ∧
  (∀ (dt : Nat) (p : Int) (s : State), s.get R.GNSS_STAT_STATE ≠ 0 → s.get R.GNSS_STAT_STATE ≠ 4 → s.gnss.fault1 = true → s.gnss.faultAt1 + 10000000000 ≤ s.now + dt → bandBad (some p) = false →
  ∃ t, Sys2Proof.Machine.exec (.bandRetry dt 0 (some p) true) s = .next t ∧ t.gnss.fault1 = false ∧ t.get R.GNSS_STAT_L1_OK = 1 ∧
    t.get R.GNSS_FE_STAT_SCRIPT_ERR = 0 ∧ t.gnss.fault5 = s.gnss.fault5) ∧
  (∀ (dt b : Nat) (p : Option Int) (ok : Bool) (s : State), s.gnss.fault1 = false → s.gnss.fault5 = false →
  Sys2Proof.Machine.exec (.bandRetry dt b p ok) s = .next (s.advance dt)) ∧
  (∀ (dt : Nat) (s : State), (s.get R.GNSS_STAT_STATE = 0 ∨ s.get R.GNSS_STAT_STATE = 1) → s.mode ≠ 0 → s.gnss.fault1 = false →
  ∃ t, Sys2Proof.Machine.exec (.gnssStart dt true true) s = .next t ∧ t.get R.GNSS_STAT_STATE = 2 ∧ t.get R.GNSS_STAT_START_KIND = (s.advance dt).startKind ∧
    t.get R.GNSS_FE_STAT_SCRIPT_ERR = 0 ∧ t.gnss.solsRun = 0 ∧ t.gnss.coldReq = false ∧ t.gnssRet = s.gnssRet) ∧
  (∀ (dt : Nat) (a b : Bool) (s : State), (2 ≤ s.get R.GNSS_STAT_STATE ∨ s.mode = 0) → Sys2Proof.Machine.exec (.gnssStart dt a b) s = .next (s.advance dt)) ∧
  (∀ (dt ch k prn cn : Nat) (d : Int) (s : State), ch < 48 → (s.get R.GNSS_STAT_STATE = 2 ∨ s.get R.GNSS_STAT_STATE = 3) → s.gnss.fault1 = false → k < 4 → prn < 64 → cn < 64 →
  ∃ t, Sys2Proof.Machine.exec (.acquisitionDone dt 0 ch k prn true d cn none) s = .next t ∧ t.get R.GNSS_CH_STAT_LOCK ch = 2 ∧
    t.get R.GNSS_CH_STAT_CONSTEL ch = k ∧ t.get R.GNSS_CH_STAT_PRN ch = prn ∧ t.get R.GNSS_CH_STAT_CN0 ch = cn ∧
    tfind t.gnss.reacqAt ch = none ∧ ch ∉ t.gnss.wide) ∧
  (∀ (dt ch k prn cn : Nat) (d : Int) (s : State), ch < 48 → (s.get R.GNSS_STAT_STATE = 2 ∨ s.get R.GNSS_STAT_STATE = 3) → s.gnss.fault1 = false →
  ∃ t, Sys2Proof.Machine.exec (.acquisitionDone dt 0 ch k prn false d cn none) s = .next t ∧ t.get R.GNSS_CH_STAT_LOCK ch = 0 ∧
    Framed [loc R.GNSS_CH_STAT_LOCK ch, loc R.GNSS_TRK_L1_TRK 0, loc R.GNSS_TRK_L5_TRK 0] (s.advance dt) t) ∧
  (∀ (dt b ch : Nat) (s : State), b < 2 → ch < 48 → 2 ≤ s.get R.GNSS_CH_STAT_LOCK (ch + 64 * b) →
  ∃ t, Sys2Proof.Machine.exec (.satelliteLockLoss dt b ch) s = .next t ∧ t.get R.GNSS_CH_STAT_LOCK (ch + 64 * b) = 1 ∧
    tfind t.gnss.reacqAt (ch + 64 * b) = some (s.now + dt) ∧
    Framed [loc R.GNSS_CH_STAT_LOCK (ch + 64 * b), loc R.GNSS_TRK_L1_TRK 0, loc R.GNSS_TRK_L5_TRK 0]
      { s.advance dt with gnss := t.gnss } t) ∧
  (∀ (dt b ch : Nat) (s : State), s.get R.GNSS_CH_STAT_LOCK (ch + 64 * b) < 2 → Sys2Proof.Machine.exec (.satelliteLockLoss dt b ch) s = .next (s.advance dt)) ∧
  (∀ (dt b ch t₀ : Nat) (s : State), tfind s.gnss.reacqAt (ch + 64 * b) = some t₀ → t₀ + 10000000000 ≤ s.now + dt →
  s.get R.GNSS_CH_STAT_LOCK (ch + 64 * b) = 1 → ch + 64 * b ∉ s.gnss.wide →
  Sys2Proof.Machine.exec (.reacqWiden dt b ch) s = .next { s.advance dt with gnss := { s.gnss with wide := (ch + 64 * b) :: s.gnss.wide } }) ∧
  (∀ (dt b ch : Nat) (s : State), tfind s.gnss.reacqAt (ch + 64 * b) = none → Sys2Proof.Machine.exec (.reacqWiden dt b ch) s = .next (s.advance dt))

/-- Epochs, position messages and time pulses (R100, R125, R127, R128, R129). -/
def Obligations.GnssSolutions : Prop :=
  (∀ (dt : Nat) (x : GnssSol) (s : State), (s.get R.GNSS_STAT_STATE = 2 ∨ s.get R.GNSS_STAT_STATE = 3) → solOk x = true → x.excluded = none →
  ∃ t, Sys2Proof.Machine.exec (.gnssEpoch dt x) s = .next t ∧ t.gnss.sol = some x ∧ t.gnss.epochAt = s.now + dt ∧ t.gnss.epochPm = (s.advance dt).pm ∧
    t.get R.GNSS_EPOCH_PM_PM32 = (s.advance dt).ns % 2 ^ 32 ∧
    Framed (regKeys 0 [R.GNSS_TRK_USED, R.GNSS_TRK_CONSTEL, R.GNSS_STAT_IONO_FREE, R.GNSS_EPOCH_PM_PM32, R.GNSS_EPH_AGE_USED_MIN] ++
      ((List.range 48) ++ (List.range 48).map (· + 64)).map (loc R.GNSS_CH_STAT_LOCK))
      { s.advance dt with gnss := t.gnss } t) ∧
  (∀ (dt : Nat) (x : GnssSol) (s : State), s.get R.GNSS_STAT_STATE = 3 → solOk x = false →
  ∃ t, Sys2Proof.Machine.exec (.gnssEpoch dt x) s = .next t ∧ t.gnss.sol = none ∧ t.gnss.solsRun = 0 ∧ t.get R.GNSS_STAT_STATE = 2 ∧
    t.get R.GNSS_EVT_FIX_LOST = 1 ∧ t.inbox = s.inbox ∧
    Framed (regKeys 0 [R.GNSS_STAT_STATE, R.GNSS_EVT_FIX_LOST]) { s.advance dt with gnss := t.gnss } t) ∧
  (∀ (dt : Nat) (x : GnssSol) (s : State), s.get R.GNSS_STAT_STATE ≠ 2 → s.get R.GNSS_STAT_STATE ≠ 3 →
  Sys2Proof.Machine.exec (.gnssEpoch dt x) s = .next (s.advance dt)) ∧
  (∀ (dt : Nat) (x : GnssSol) (s : State), s.gnss.sol = some x → s.now + dt ≤ s.gnss.epochAt + 30000000 → s.get R.GNSS_STAT_STATE ≠ 3 →
  ∃ t, Sys2Proof.Machine.exec (.positionMessageWrite dt) s = .next t ∧ t.get R.GNSS_STAT_STATE = 3 ∧ t.get R.GNSS_EVT_FIX_GAINED = 1 ∧ t.gnss.sol = none ∧
    t.gnss.solsRun = s.gnss.solsRun + 1 ∧ t.get R.GNSS_SOL_SEQ_SEQ = (s.get R.GNSS_SOL_SEQ_SEQ + 1) % 2 ^ 32 ∧ t.pts = s.pts) ∧
  (∀ (dt : Nat) (x : GnssSol) (s : State), s.gnss.sol = some x → s.gnss.epochAt + 30000000 < s.now + dt →
  Sys2Proof.Machine.exec (.positionMessageWrite dt) s = .next { s.advance dt with gnss := { s.gnss with sol := none } }) ∧
  (∀ (dt : Nat) (s : State), s.gnss.sol = none → Sys2Proof.Machine.exec (.positionMessageWrite dt) s = .next (s.advance dt)) ∧
  (∀ (dt n unc : Nat) (o p u : Int) (s : State), s.get R.GNSS_STAT_STATE = 3 → 4 ≤ n → s.gnss.lastOffset = some p → (o - p).natAbs ≤ 100 →
  1 ∈ s.man.srcList → s.stepped = false → s.time.fixAt = none →
  ∃ t, Sys2Proof.Machine.exec (.timePulseMessage dt o n true u unc) s = .next t ∧ t.time.fixAt = some (s.now + dt) ∧ t.time.fixSrc = 1 ∧ t.time.fixOfs = o ∧
    1 ∈ t.time.live ∧ t.gnss.lastOffset = some o ∧ t.time.count = (s.advance dt).time.count) ∧
  (∀ (dt n unc : Nat) (o u : Int) (s : State), s.get R.GNSS_STAT_STATE = 3 →
  ∃ t, Sys2Proof.Machine.exec (.timePulseMessage dt o n false u unc) s = .next t ∧ t.gnss.lastOffset = none ∧ t.time = (s.advance dt).time) ∧
  (∀ (dt n unc : Nat) (o u : Int) (ok : Bool) (s : State), (s.get R.GNSS_STAT_STATE = 0 ∨ s.get R.GNSS_STAT_STATE = 4) →
  Sys2Proof.Machine.exec (.timePulseMessage dt o n ok u unc) s = .next (s.advance dt))

/-- The receiver sleeps, wakes, refreshes its ephemeris and starts cold (R130, R131, R132). -/
def Obligations.GnssSleeps : Prop :=
  (∀ (dt : Nat) (p : Port) (s : State), s.session p = some .operator → (s.advance dt).maySleep = true →
  ∃ t, Sys2Proof.Machine.exec (.gnssSleepCmd dt p) s = .next t ∧ t.gnss.sleepReq = true ∧
    Framed (regKeys 0 lullFlds)
      { s.advance dt with role := { s.role with rwlAt := s.now + dt }, pwr := t.pwr, gnss := { s.gnss with sleepReq := true } } t) ∧
  (∀ (dt : Nat) (p : Port) (s : State), s.session p = some .operator → (s.advance dt).maySleep = false →
  ∃ t, Sys2Proof.Machine.exec (.gnssSleepCmd dt p) s = .next t ∧
    Framed (regKeys 0 lullFlds) { s.advance dt with role := { s.role with rwlAt := s.now + dt }, pwr := t.pwr } t) ∧
  (∀ (dt : Nat) (r : GnssRet) (s : State), (s.advance dt).maySleep = true → (s.gnss.sleepReq = true ∨ s.man.gnssSleepReady = true) →
  ∃ t, Sys2Proof.Machine.exec (.gnssSleepEntry dt r) s = .next t ∧ t.gnssRet = some r ∧ t.get R.GNSS_STAT_STATE = 4 ∧ t.gnss.sleepReq = false ∧
    t.get R.GNSS_EVT_SLEPT = 1 ∧ (∀ c, c < 48 → t.get R.GNSS_CH_STAT_LOCK c = 0) ∧ (∀ c, c < 48 → t.get R.GNSS_CH_STAT_LOCK (c + 64) = 0)) ∧
  (∀ (dt : Nat) (r : GnssRet) (s : State), (s.advance dt).maySleep = false → Sys2Proof.Machine.exec (.gnssSleepEntry dt r) s = .next (s.advance dt)) ∧
  (∀ (dt : Nat) (p : Port) (s : State), s.session p = some .operator → s.get R.GNSS_STAT_STATE = 4 →
  ∃ t, Sys2Proof.Machine.exec (.gnssWakeCmd dt p) s = .next t ∧ t.get R.GNSS_STAT_STATE = 1 ∧ t.get R.GNSS_EVT_WOKE = 1 ∧ t.gnssRet = s.gnssRet) ∧
  (∀ (dt : Nat) (p : Port) (s : State), s.session p = some .installer →
  ∃ t, Sys2Proof.Machine.exec (.gnssColdCmd dt p) s = .next t ∧ t.gnssRet = none ∧ t.get R.GNSS_STAT_STATE = 1 ∧ t.gnss.coldReq = true ∧ t.gnss.sol = none ∧
    t.get R.GNSS_TRK_L1_TRK = 0 ∧ t.get R.GNSS_TRK_L5_TRK = 0) ∧
  (∀ (dt : Nat) (p : Port) (s : State) (c : Instr), c ∈ [Instr.gnssSleepCmd dt p, .gnssWakeCmd dt p, .gnssColdCmd dt p] → s.session p = none →
  ∃ t, Sys2Proof.Machine.exec c s = .next t ∧ Framed (regKeys 0 lullFlds) { s.advance dt with pwr := t.pwr } t) ∧
  (∀ (dt : Nat) (r : GnssRet) (s : State), s.get R.GNSS_TRK_L1_TRK + s.get R.GNSS_TRK_L5_TRK ≠ 0 →
  Sys2Proof.Machine.exec (.retainWrite dt r) s = .next { s.advance dt with gnssRet := some r }) ∧
  (∀ (dt : Nat) (r : GnssRet) (s : State), s.get R.GNSS_TRK_L1_TRK = 0 → s.get R.GNSS_TRK_L5_TRK = 0 →
  Sys2Proof.Machine.exec (.retainWrite dt r) s = .next (s.advance dt)) ∧
  (∀ (dt : Nat) (s : State), s.get R.GNSS_STAT_STATE = 4 → s.man.ephRefresh ≤ (s.advance dt).ephAge →
  ∃ t, Sys2Proof.Machine.exec (.ephRefreshWake dt) s = .next t ∧ t.get R.GNSS_STAT_STATE = 1 ∧ t.gnss.refreshAt = some (s.now + dt) ∧ t.gnssRet = s.gnssRet) ∧
  (∀ (dt : Nat) (s : State), s.get R.GNSS_STAT_STATE ≠ 4 → Sys2Proof.Machine.exec (.ephRefreshWake dt) s = .next (s.advance dt)) ∧
  (∀ (dt t₀ : Nat) (r : GnssRet) (s : State), s.gnss.refreshAt = some t₀ → s.mode = 2 → s.stepped = true → s.get R.GNSS_STAT_STATE = 3 →
  ∃ t, Sys2Proof.Machine.exec (.refreshEnd dt true r) s = .next t ∧ t.gnssRet = some r ∧ t.get R.GNSS_STAT_STATE = 4 ∧ t.gnss.refreshAt = none) ∧
  (∀ (dt : Nat) (f : Bool) (r : GnssRet) (s : State), s.gnss.refreshAt = none → Sys2Proof.Machine.exec (.refreshEnd dt f r) s = .next (s.advance dt))

/-- Roll-call replies, and the function-block lists: start, skip, commit and the overrun limit (R74, R77, R80). -/
def Obligations.FunctionBlocks : Prop :=
  (∀ (dt n mark q : Nat) (c : NodeCfg) (s : State), s.man.nodes[n]? = some c → q = s.mnf.rollSeq → s.rollRuns = true → c.exempt = false →
  (s.node n).repliedSeq ≠ q →
  ∃ t, Sys2Proof.Machine.exec (.rollCallReply dt n mark q) s = .next t ∧ (t.node n).mark = mark ∧ (t.node n).repliedSeq = q ∧
    Framed [] { s.advance dt with mnf := t.mnf } t) ∧
  (∀ (dt n mark q : Nat) (s : State), s.man.nodes[n]? = none → Sys2Proof.Machine.exec (.rollCallReply dt n mark q) s = .next (s.advance dt)) ∧
  (∀ (dt n mark q : Nat) (c : NodeCfg) (s : State), s.man.nodes[n]? = some c → q ≠ s.mnf.rollSeq →
  ∃ t, Sys2Proof.Machine.exec (.rollCallReply dt n mark q) s = .next t ∧ Framed [] (s.advance dt) t) ∧
  (∀ (dt n : Nat) (c : FblCfg) (s : State), s.man.fbl[n]? = some c → s.tick % (10 * c.k) = 10 * c.q → c.engine ∉ s.engStopped →
  (s.fblSt n).busy = false →
  ∃ t, Sys2Proof.Machine.exec (.fblEvaluationStart dt n) s = .next t ∧ (t.fblSt n).busy = true ∧ (t.fblSt n).run = 0 ∧ (t.fblSt n).outs = (s.fblSt n).outs ∧
    Framed [] { s.advance dt with mnf := t.mnf } t) ∧
  (∀ (dt n : Nat) (c : FblCfg) (s : State), s.man.fbl[n]? = some c → s.tick % (10 * c.k) = 10 * c.q → c.engine ∉ s.engStopped →
  (s.fblSt n).busy = true →
  ∃ t, Sys2Proof.Machine.exec (.fblEvaluationStart dt n) s = .next t ∧ (t.fblSt n).busy = true ∧ (t.fblSt n).skip = true ∧
    (t.fblSt n).run = (s.fblSt n).run + 1 ∧ (t.fblSt n).overruns = (s.fblSt n).overruns + 1 ∧ (t.fblSt n).snap = (s.fblSt n).snap ∧
    Framed [] { s.advance dt with mnf := t.mnf } t) ∧
  (∀ (dt n : Nat) (c : FblCfg) (s : State), s.man.fbl[n]? = some c → (s.fblSt n).busy = true →
  ∃ t, Sys2Proof.Machine.exec (.fblEvaluationEnd dt n) s = .next t ∧ (t.fblSt n).busy = false ∧
    (t.fblSt n).outs = (evalBlocks ((c.k : Rat) / 10000) (s.fblSt n) c.blocks 0 [] [] [] 0).1 ∧ t.pts = s.pts ∧
    Framed [] { s.advance dt with mnf := t.mnf, commits := t.commits } t) ∧
  (∀ (dt n : Nat) (s : State) (i : Instr), i ∈ [Instr.fblEvaluationStart dt n, .fblEvaluationEnd dt n] → s.man.fbl[n]? = none →
  Sys2Proof.Machine.exec i s = .next (s.advance dt)) ∧
  (∀ (dt n : Nat) (s : State), 3 ≤ (s.fblSt n).run →
  ∃ t, Sys2Proof.Machine.exec (.fblOverrunLimit dt n) s = .next t ∧ t.get R.DEV_FAULT_CAUSE = 8 ∧ t.get R.DEV_EVT_FAULT = 1 ∧
    t.get R.DEV_FAULT_UNIT = (match s.man.fbl[n]? with | some c => c.engine | none => 0xFFFF) % 2 ^ R.DEV_FAULT_UNIT.width) ∧
  (∀ (dt n : Nat) (s : State), (s.fblSt n).run < 3 → Sys2Proof.Machine.exec (.fblOverrunLimit dt n) s = .next (s.advance dt))

/-- The estimator commits or abandons an update; three abandoned in a row are a device fault (R142, R143, R146, R163, R165). -/
def Obligations.EstimatorUpdates : Prop :=
  (∀ (dt a : Nat) (b : Int) (u : EstUpd) (s : State), s.est.running = some (a, b) → s.now + dt ≤ a + 9000000 →
  ∃ t, Sys2Proof.Machine.exec (.estCommit dt u) s = .next t ∧ t.est.running = none ∧ t.est.abandons = 0 ∧ t.est.seq = s.est.seq + 1 ∧ t.pts = s.pts ∧
    t.mode = s.mode) ∧
  (∀ (dt a : Nat) (b : Int) (u : EstUpd) (s : State), s.est.running = some (a, b) → a + 9000000 < s.now + dt →
  ∃ t, Sys2Proof.Machine.exec (.estCommit dt u) s = .next t ∧ t.est.running = none ∧ t.est.abandons = s.est.abandons + 1 ∧ t.est.seq = s.est.seq ∧
    t.get R.EST_EVT_OVERRUN = 1 ∧ t.pts = s.pts ∧ t.mode = s.mode) ∧
  (∀ (dt : Nat) (u : EstUpd) (s : State), s.est.running = none → Sys2Proof.Machine.exec (.estCommit dt u) s = .next (s.advance dt)) ∧
  (∀ (dt a : Nat) (b : Int) (s : State), s.est.running = some (a, b) → a + 9000000 ≤ s.now + dt →
  ∃ t, Sys2Proof.Machine.exec (.estUpdateAbandon dt) s = .next t ∧ t.est.running = none ∧ t.est.abandons = s.est.abandons + 1 ∧ t.est.seq = s.est.seq ∧
    t.get R.EST_EVT_OVERRUN = 1 ∧ t.pts = s.pts ∧ t.commits = s.commits ∧ t.mode = s.mode) ∧
  (∀ (dt a : Nat) (b : Int) (s : State), s.est.running = some (a, b) → s.now + dt < a + 9000000 →
  Sys2Proof.Machine.exec (.estUpdateAbandon dt) s = .next (s.advance dt)) ∧
  (∀ (dt : Nat) (s : State), 3 ≤ s.est.abandons →
  ∃ t, Sys2Proof.Machine.exec (.estOverrunLimit dt) s = .next t ∧ t.est.abandons = 0 ∧ t.get R.DEV_FAULT_CAUSE = 8 ∧ t.get R.DEV_FAULT_UNIT = 0xFFFF ∧
    t.get R.DEV_EVT_FAULT = 1) ∧
  (∀ (dt : Nat) (s : State), s.est.abandons < 3 → Sys2Proof.Machine.exec (.estOverrunLimit dt) s = .next (s.advance dt)) ∧
  (∀ (dt n : Nat) (j : Rat) (c : EstSlotCfg) (s : State), s.slotCfg n = some c → c.gateFailN ≤ (s.slotSt n).fails →
  ∃ t, Sys2Proof.Machine.exec (.ownGateReinit dt n j) s = .next t ∧ t.get R.EST_SRC_STAT_STEP n = 1 ∧ t.get R.EST_SRC_STAT_GATE_FAILS n = 0 ∧
    (t.slotSt n).fails = 0 ∧ Framed (regKeys n [R.EST_SRC_STAT_STEP, R.EST_SRC_STAT_GATE_FAILS]) { s.advance dt with est := t.est } t) ∧
  (∀ (dt n : Nat) (j : Rat) (s : State), s.slotCfg n = none → Sys2Proof.Machine.exec (.ownGateReinit dt n j) s = .next (s.advance dt)) ∧
  (∀ (dt : Nat) (f : List Rat) (s : State), s.est.peakAt + s.man.waveWin * 250000000 ≤ s.now + dt →
  Sys2Proof.Machine.exec (.wavePeakSearch dt f) s = .next { s.advance dt with est := { s.est with
    peakAt := s.now + dt, freqs := (f.take 6).map fun x => max (3 / 100) (min (1 / 2) x) } }) ∧
  (∀ (dt : Nat) (f : List Rat) (s : State), s.now + dt < s.est.peakAt + s.man.waveWin * 250000000 →
  Sys2Proof.Machine.exec (.wavePeakSearch dt f) s = .next (s.advance dt)) ∧
  (∀ (dt t₀ : Nat) (s : State), s.est.mruAt = some t₀ → t₀ + 10000000000 ≤ s.now + dt →
  ∃ t, Sys2Proof.Machine.exec (.heaveMruTimeout dt) s = .next t ∧ t.get R.EST_HEAVE_PT_GOOD = 0 ∧ t.get R.EST_HEAVE_PT_USABLE = 0 ∧
    Framed (regKeys 0 [R.EST_HEAVE_PT_GOOD, R.EST_HEAVE_PT_USABLE]) (s.advance dt) t) ∧
  (∀ (dt : Nat) (s : State), s.est.mruAt = none → Sys2Proof.Machine.exec (.heaveMruTimeout dt) s = .next (s.advance dt))

/-- Source slots freeze, wait, recover and re-enter; disputes end; the Operator selects and deselects (R138, R140, R147, R151,
  R152, R153, R154). -/
def Obligations.SourceSlots : Prop :=
  (∀ (dt n : Nat) (c : EstSlotCfg) (s : State), s.slotCfg n = some c → (s.slotSt n).seen = true →
  (s.slotSt n).changedAt + c.freezeMs * 1000000 ≤ (s.slotSt n).lastAt → s.get R.EST_SRC_STAT_FROZEN n = 0 →
  s.slotStatus n ∈ [1, 2, 3, 4] →
  ∃ t, Sys2Proof.Machine.exec (.sourceFrozen dt n) s = .next t ∧ t.slotStatus n = 7 ∧ t.get R.EST_SRC_STAT_FROZEN n = 1 ∧ t.get R.EST_EVT_SLOT_CHANGE = 1 ∧
    Framed [loc R.EST_SRC_STAT_FROZEN n, loc R.EST_SRC_STAT_STATUS n, loc R.EST_EVT_SLOT_CHANGE 0] (s.advance dt) t) ∧
  (∀ (dt n : Nat) (s : State), s.slotCfg n = none → Sys2Proof.Machine.exec (.sourceFrozen dt n) s = .next (s.advance dt)) ∧
  (∀ (dt n : Nat) (s : State), (s.slotSt n).skewMask = true → 100 ≤ (s.slotSt n).skewRun → s.slotStatus n = 7 → s.get R.EST_SRC_STAT_FROZEN n = 0 →
  ∃ t, Sys2Proof.Machine.exec (.skewRecovered dt n) s = .next t ∧ t.slotStatus n = 2 ∧ (t.slotSt n).skewMask = false ∧ (t.slotSt n).reentry = 0 ∧
    Framed [loc R.EST_SRC_STAT_STATUS n, loc R.EST_EVT_SLOT_CHANGE 0] { s.advance dt with est := t.est } t) ∧
  (∀ (dt n : Nat) (s : State), (s.slotSt n).skewRun < 100 → Sys2Proof.Machine.exec (.skewRecovered dt n) s = .next (s.advance dt)) ∧
  (∀ (dt n : Nat) (c : EstSlotCfg) (s : State), s.slotCfg n = some c → s.slotStatus n ∈ [2, 3, 4] →
  (s.slotSt n).lastAt + c.staleMs * 1000000 ≤ s.now + dt →
  ∃ t, Sys2Proof.Machine.exec (.slotWaiting dt n) s = .next t ∧ t.slotStatus n = 1 ∧ t.get R.EST_EVT_SLOT_CHANGE = 1 ∧
    Framed [loc R.EST_SRC_STAT_STATUS n, loc R.EST_EVT_SLOT_CHANGE 0] (s.advance dt) t) ∧
  (∀ (dt n : Nat) (s : State), s.slotStatus n ∉ [2, 3, 4] → Sys2Proof.Machine.exec (.slotWaiting dt n) s = .next (s.advance dt)) ∧
  (∀ (dt g : Nat) (d : Dispute) (s : State), tfind s.est.disputes g = some d → 10 ≤ d.agree →
  ∃ t, Sys2Proof.Machine.exec (.disputeEnd dt g) s = .next t ∧ tfind t.est.disputes g = none ∧ t.get R.EST_EVT_DISPUTE_END = 1 ∧ t.pts = s.pts) ∧
  (∀ (dt g : Nat) (s : State), tfind s.est.disputes g = none → Sys2Proof.Machine.exec (.disputeEnd dt g) s = .next (s.advance dt)) ∧
  (∀ (dt n : Nat) (s : State), s.slotStatus n = 2 → s.man.reentryFrames ≤ (s.slotSt n).reentry → s.slotGroup n ≠ 0 →
  tfind s.est.disputes (s.slotGroup n) = none →
  ∃ t, Sys2Proof.Machine.exec (.reentryComplete dt n) s = .next t ∧ t.slotStatus n = 3 ∧
    Framed [loc R.EST_SRC_STAT_STATUS n, loc R.EST_EVT_SLOT_CHANGE 0] (s.advance dt) t) ∧
  (∀ (dt n : Nat) (s : State), (s.slotStatus n ≠ 2 ∨ (s.slotSt n).reentry < s.man.reentryFrames) →
  Sys2Proof.Machine.exec (.reentryComplete dt n) s = .next (s.advance dt)) ∧
  (∀ (dt n : Nat) (d : Dispute) (s : State), s.slotStatus n = 2 → tfind s.est.disputes (s.slotGroup n) = some d →
  (s.slotSt n).holdAt + 10000000000 ≤ s.now + dt →
  ∃ t, Sys2Proof.Machine.exec (.reentryHoldRecord dt n) s = .next t ∧ (t.slotSt n).holdAt = s.now + dt ∧ t.slotStatus n = 2 ∧
    Framed [] { s.advance dt with est := t.est } t) ∧
  (∀ (dt n : Nat) (s : State), s.slotStatus n ≠ 2 → Sys2Proof.Machine.exec (.reentryHoldRecord dt n) s = .next (s.advance dt)) ∧
  (∀ (dt n k : Nat) (s : State), k ∈ s.man.estPoints → s.isActive = true → s.slotStatus n ≠ 0 → s.est.cmds = [] →
  ∃ t, Sys2Proof.Machine.exec (.estSrcDeselect dt (.point k) n) s = .next t ∧ (t.est.cmds.map fun c => (c.slot, c.action, c.at_)) = [(n, 1, s.now + dt)] ∧
    t.slotStatus n = s.slotStatus n ∧ Framed [] { s.advance dt with est := t.est } t) ∧
  (∀ (dt n k : Nat) (s : State), k ∈ s.man.estPoints → s.isActive = true → s.slotStatus n = 6 → s.est.cmds = [] →
  ∃ t, Sys2Proof.Machine.exec (.estSrcSelect dt (.point k) n) s = .next t ∧ (t.est.cmds.map fun c => (c.slot, c.action, c.at_)) = [(n, 2, s.now + dt)] ∧
    Framed [] { s.advance dt with est := t.est } t) ∧
  (∀ (dt n k : Nat) (s : State), k ∈ s.man.estPoints → s.slotStatus n ≠ 6 → s.est.cmds = [] →
  ∃ t, Sys2Proof.Machine.exec (.estSrcSelect dt (.point k) n) s = .next t ∧ t.est = s.est ∧ Framed [] (s.advance dt) t) ∧
  (∀ (dt n k : Nat) (s : State) (i : Instr), i ∈ [Instr.estSrcDeselect dt (.point k) n, .estSrcSelect dt (.point k) n] → k ∉ s.man.estPoints →
  Sys2Proof.Machine.exec i s = .next (s.advance dt)) ∧
  (∀ (dt n : Nat) (p : Port) (s : State) (i : Instr), i ∈ [Instr.estSrcDeselect dt (.host p) n, .estSrcSelect dt (.host p) n] →
  s.session p ≠ some .operator →
  ∃ t, Sys2Proof.Machine.exec i s = .next t ∧ Framed (regKeys 0 lullFlds) { s.advance dt with pwr := t.pwr } t)

/-- A track coasts, is lost, and excludes a source that fails its gate (R161, R162). -/
def Obligations.ObjectTracks : Prop :=
  (∀ (dt k : Nat) (s : State), (s.trackState k = 1 ∨ s.trackState k = 2) → trackFixed s.man k = false →
  (s.trackSt k).lastAt + 1000000000 ≤ s.now + dt →
  ∃ t, Sys2Proof.Machine.exec (.trackCoastTimeout dt k) s = .next t ∧ t.trackState k = 3 ∧ Framed [loc R.EST_TRK_STAT_STATE k] (s.advance dt) t) ∧
  (∀ (dt k : Nat) (s : State), s.trackState k ≠ 1 → s.trackState k ≠ 2 → Sys2Proof.Machine.exec (.trackCoastTimeout dt k) s = .next (s.advance dt)) ∧
  (∀ (dt k : Nat) (s : State), s.trackState k ∈ [1, 2, 3] → trackFixed s.man k = false →
  (s.trackSt k).lastAt + s.man.trackCoast * 1000000000 ≤ s.now + dt →
  ∃ t, Sys2Proof.Machine.exec (.trackLostTimeout dt k) s = .next t ∧ t.trackState k = 4 ∧ ((s.slotsIn (k + 1) [2, 3, 4]).all fun n => t.slotStatus n = 1) = true) ∧
  (∀ (dt k : Nat) (s : State), s.trackState k ∉ [1, 2, 3] → Sys2Proof.Machine.exec (.trackLostTimeout dt k) s = .next (s.advance dt)) ∧
  (∀ (dt k x : Nat) (c : TrackCfg) (s : State), tfind s.man.tracks k = some c → c.bound.getD x true = true →
  max 1 c.gateFailN ≤ tget (s.trackSt k).fails x 0 →
  ∃ t, Sys2Proof.Machine.exec (.trackSourceExclude dt k x) s = .next t ∧ x ∈ (t.trackSt k).excluded ∧ tfind (t.trackSt k).fails x = none ∧
    Framed [loc R.EST_TRK_STAT_EXCLUDED k] { s.advance dt with est := t.est } t) ∧
  (∀ (dt k x : Nat) (s : State), tfind s.man.tracks k = none → Sys2Proof.Machine.exec (.trackSourceExclude dt k x) s = .next (s.advance dt))

/-- Law and setpoint commands wait for their boundary, or are refused by role, mode or range (R170, R172, R173, R193, R194). -/
def Obligations.HelmCommands : Prop :=
  (∀ (dt tag k : Nat) (x : Nat × Instr) (s : State), x ∈ lawCmds dt (.point k) tag → k ∈ s.man.helm.points → s.isActive = true →
  s.nextMode = lawMode x.1 → s.helm.lawPend = none →
  ∃ t, Sys2Proof.Machine.exec x.2 s = .next t ∧ (t.helm.lawPend.map fun c => (c.target, c.tag)) = some (x.1, tag % 256) ∧ t.get R.HELM_CMD_STAT_RESULT = 1 ∧
    t.get R.HELM_CMD_STAT_KIND = 0 ∧ t.law = s.law ∧
    Framed (regKeys 0 helmCmdFlds) { s.advance dt with helm := t.helm } t) ∧
  (∀ (dt tag : Nat) (p : Port) (x : Nat × Instr) (s : State), x ∈ lawCmds dt (.host p) tag → s.session p = some .operator → s.isActive = true →
  s.nextMode = lawMode x.1 → s.helm.lawPend = none →
  ∃ t, Sys2Proof.Machine.exec x.2 s = .next t ∧ (t.helm.lawPend.map fun c => (c.target, c.tag, c.keyId)) = some (x.1, tag % 256, s.role.keyId) ∧
    t.get R.HELM_CMD_STAT_RESULT = 1 ∧ t.get R.HELM_LAW_CMD_LAW = x.1 ∧ t.role.rwlAt = s.now + dt) ∧
  (∀ (dt tag k : Nat) (x : Nat × Instr) (s : State), x ∈ lawCmds dt (.point k) tag → k ∈ s.man.helm.points → s.isActive = false →
  ∃ t, Sys2Proof.Machine.exec x.2 s = .next t ∧ t.get R.HELM_CMD_STAT_RESULT = 5 ∧ t.get R.HELM_EVT_CMD_REFUSED = 1 ∧ t.helm = s.helm ∧
    Framed (regKeys 0 (R.HELM_EVT_CMD_REFUSED :: helmCmdFlds)) (s.advance dt) t) ∧
  (∀ (dt tag k : Nat) (x : Nat × Instr) (s : State), x ∈ lawCmds dt (.point k) tag → k ∈ s.man.helm.points → s.isActive = true →
  s.nextMode ≠ lawMode x.1 →
  ∃ t, Sys2Proof.Machine.exec x.2 s = .next t ∧ t.get R.HELM_CMD_STAT_RESULT = 4 ∧ t.get R.HELM_EVT_CMD_REFUSED = 1 ∧ t.helm = s.helm ∧
    Framed (regKeys 0 (R.HELM_EVT_CMD_REFUSED :: helmCmdFlds)) (s.advance dt) t) ∧
  (∀ (dt tag k : Nat) (x : Nat × Instr) (s : State), x ∈ spCmds dt (.point k) tag → k ∈ s.man.helm.points → s.isActive = true →
  s.nextLaw = x.1 → s.spOutOfRange (s.stagedSp x.1) = false → s.helm.spPend = none →
  ∃ t, Sys2Proof.Machine.exec x.2 s = .next t ∧ (t.helm.spPend.map fun c => (c.1.target, c.1.tag, c.2)) = some (x.1, tag % 256, s.stagedSp x.1) ∧
    t.get R.HELM_CMD_STAT_RESULT = 1 ∧ t.get R.HELM_CMD_STAT_KIND = 1 ∧ t.helm.sp = s.helm.sp ∧
    Framed (regKeys 0 helmCmdFlds) { s.advance dt with helm := t.helm } t) ∧
  (∀ (dt tag k : Nat) (x : Nat × Instr) (s : State), x ∈ spCmds dt (.point k) tag → k ∈ s.man.helm.points → s.isActive = true →
  s.nextLaw = x.1 → s.spOutOfRange (s.stagedSp x.1) = true →
  ∃ t, Sys2Proof.Machine.exec x.2 s = .next t ∧ t.get R.HELM_CMD_STAT_RESULT = 8 ∧ t.get R.HELM_EVT_CMD_REFUSED = 1 ∧ t.helm = s.helm ∧
    Framed (regKeys 0 (R.HELM_EVT_CMD_REFUSED :: helmCmdFlds)) (s.advance dt) t) ∧
  (∀ (dt tag k : Nat) (x : Nat × Instr) (s : State), x ∈ lawCmds dt (.point k) tag ++ spCmds dt (.point k) tag → k ∉ s.man.helm.points →
  Sys2Proof.Machine.exec x.2 s = .next (s.advance dt))

/-- The solve of a helm cycle, a missed one, the miss limit and the end of a blend (R179, R180, R188, R190, R191). -/
def Obligations.HelmCycles : Prop :=
  (∀ (dt q : Nat) (f : List Rat) (s : State), s.helm.solving = some q → s.get R.YUZ_LAST_SEQ_SEQ 1 = q → s.get R.YUZ_LAST_STAT_MISS 1 = 0 →
  s.helm.blend = none →
  ∃ t, Sys2Proof.Machine.exec (.helmSolveDone dt f) s = .next t ∧ t.helm.solving = none ∧ t.get R.HELM_STAT_REUSED = 0 ∧ t.get R.HELM_MISS_RUN = 0 ∧
    t.helm.lastValid = some t.helm.tauNew ∧ t.helm.tauOut = t.helm.tauNew ∧ t.alloc.tau = t.helm.tauOut ∧ t.alloc.solving ≠ none ∧
    t.mode = s.mode) ∧
  (∀ (dt q : Nat) (f : List Rat) (s : State), s.helm.solving = some q → s.get R.YUZ_LAST_SEQ_SEQ 1 = q → s.get R.YUZ_LAST_STAT_MISS 1 = 1 →
  ∃ t, Sys2Proof.Machine.exec (.helmSolveDone dt f) s = .next t ∧ t.helm.solving = none ∧ t.get R.HELM_STAT_REUSED = 1 ∧
    t.get R.HELM_MISS_RUN = min 3 (s.get R.HELM_MISS_RUN + 1) ∧ t.get R.HELM_EVT_MISS = 1 ∧ t.helm.lastValid = s.helm.lastValid ∧
    t.get R.HELM_MISS_TOTAL = (s.get R.HELM_MISS_TOTAL + 1) % 2 ^ R.HELM_MISS_TOTAL.width) ∧
  (∀ (dt : Nat) (f : List Rat) (s : State), s.helm.solving = none → Sys2Proof.Machine.exec (.helmSolveDone dt f) s = .next (s.advance dt)) ∧
  (∀ (dt : Nat) (s : State), 3 ≤ s.get R.HELM_MISS_RUN →
  ∃ t, Sys2Proof.Machine.exec (.helmMissLimit dt) s = .next t ∧ t.get R.DEV_FAULT_CAUSE = 7 ∧ t.get R.DEV_FAULT_UNIT = 0xFFFF ∧ t.get R.DEV_EVT_FAULT = 1) ∧
  (∀ (dt : Nat) (s : State), s.get R.HELM_MISS_RUN < 3 → Sys2Proof.Machine.exec (.helmMissLimit dt) s = .next (s.advance dt)) ∧
  (∀ (dt : Nat) (b : Blend) (s : State), s.helm.blend = some b → 0 < b.len → b.len ≤ b.n →
  ∃ t, Sys2Proof.Machine.exec (.blendEnd dt) s = .next t ∧ t.helm.blend = none ∧ t.get R.MODE_STAT_BLEND = 0 ∧ t.get R.HELM_STAT_BLEND = 0 ∧
    t.get R.HELM_BLEND_LEFT_DS = 0 ∧
    Framed (regKeys 0 [R.MODE_STAT_BLEND, R.HELM_STAT_BLEND, R.HELM_BLEND_LEFT_DS])
      { s.advance dt with helm := { s.helm with blend := none } } t) ∧
  (∀ (dt : Nat) (b : Blend) (s : State), s.helm.blend = some b → (b.len = 0 ∨ b.n < b.len) → Sys2Proof.Machine.exec (.blendEnd dt) s = .next (s.advance dt)) ∧
  (∀ (dt : Nat) (s : State), s.helm.blend = none → Sys2Proof.Machine.exec (.blendEnd dt) s = .next (s.advance dt))

/-- The allocation and consequence solves, their misses and alarms, and thruster commands (R198, R199, R202, R203, R210, R212,
  R213, R214). -/
def Obligations.ThrustAllocation : Prop :=
  (∀ (dt q : Nat) (f : List (Rat × Rat)) (s : State), s.alloc.solving = some q → s.get R.YUZ_LAST_SEQ_SEQ 2 = q → s.get R.YUZ_LAST_STAT_MISS 2 = 0 →
  ∃ t, Sys2Proof.Machine.exec (.allocSolveDone dt f) s = .next t ∧ t.alloc.solving = none ∧ t.alloc.bufOk = true ∧ t.get R.ALLOC_STAT_REUSED = 0 ∧
    t.get R.ALLOC_MISS_A_RUN = 0 ∧ t.pts = s.pts ∧ t.mode = s.mode) ∧
  (∀ (dt q : Nat) (f : List (Rat × Rat)) (s : State), s.alloc.solving = some q → s.get R.YUZ_LAST_SEQ_SEQ 2 = q → s.get R.YUZ_LAST_STAT_MISS 2 = 1 →
  ∃ t, Sys2Proof.Machine.exec (.allocSolveDone dt f) s = .next t ∧ t.alloc.solving = none ∧ t.alloc.bufOk = true ∧ t.get R.ALLOC_STAT_REUSED = 1 ∧
    t.get R.ALLOC_MISS_A_RUN = min 3 (s.get R.ALLOC_MISS_A_RUN + 1) ∧ t.get R.ALLOC_EVT_A_MISS = 1 ∧ t.alloc.cap = s.alloc.cap ∧
    t.alloc.deficit = s.alloc.deficit) ∧
  (∀ (dt : Nat) (f : List (Rat × Rat)) (s : State), s.alloc.solving = none → Sys2Proof.Machine.exec (.allocSolveDone dt f) s = .next (s.advance dt)) ∧
  (∀ (dt : Nat) (s : State), 3 ≤ s.get R.ALLOC_MISS_A_RUN →
  ∃ t, Sys2Proof.Machine.exec (.allocMissLimit dt) s = .next t ∧ t.get R.DEV_FAULT_CAUSE = 7 ∧ t.get R.DEV_FAULT_UNIT = 0xFFFF ∧ t.get R.DEV_EVT_FAULT = 1) ∧
  (∀ (dt : Nat) (s : State), s.get R.ALLOC_MISS_A_RUN < 3 → Sys2Proof.Machine.exec (.allocMissLimit dt) s = .next (s.advance dt)) ∧
  (∀ (dt : Nat) (s : State), s.mode = 2 → s.helm.blend = none → s.helm.bk + 2000000 ≤ s.now + dt → s.alloc.consSolving = none →
  s.helm.bkTick / 5000 % s.stretch = 0 → s.caseCount ≠ 0 → s.alloc.consCycle ≠ some s.helm.cycle →
  ∃ t, Sys2Proof.Machine.exec (.consReadySubmit dt) s = .next t ∧ t.alloc.consSolving = some t.yuz.seq ∧ t.alloc.consTau = (s.advance dt).measuredTau ∧
    t.alloc.consNom = [0, 0, 0] ∧ t.mode = 2) ∧
  (∀ (dt : Nat) (s : State), s.mode ≠ 2 → Sys2Proof.Machine.exec (.consReadySubmit dt) s = .next (s.advance dt)) ∧
  (∀ (dt q : Nat) (c : List CaseRes) (s : State), s.alloc.consSolving = some q → s.get R.YUZ_LAST_SEQ_SEQ 3 = q → s.get R.YUZ_LAST_STAT_MISS 3 = 0 →
  ∃ t, Sys2Proof.Machine.exec (.consBatchDone dt c) s = .next t ∧ t.alloc.consSolving = none ∧ t.get R.ALLOC_STAT_CONS_VALID = 1 ∧
    t.get R.ALLOC_MISS_C_RUN = 0 ∧ t.get R.ALLOC_CONS_SUM_AGE = 0 ∧ t.pts = s.pts) ∧
  (∀ (dt q : Nat) (c : List CaseRes) (s : State), s.alloc.consSolving = some q → s.get R.YUZ_LAST_SEQ_SEQ 3 = q → s.get R.YUZ_LAST_STAT_MISS 3 = 1 →
  ∃ t, Sys2Proof.Machine.exec (.consBatchDone dt c) s = .next t ∧ t.alloc.consSolving = none ∧ t.get R.ALLOC_EVT_C_MISS = 1 ∧
    t.get R.ALLOC_MISS_C_RUN = min 3 (s.get R.ALLOC_MISS_C_RUN + 1)) ∧
  (∀ (dt : Nat) (c : List CaseRes) (s : State), s.alloc.consSolving = none → Sys2Proof.Machine.exec (.consBatchDone dt c) s = .next (s.advance dt)) ∧
  (∀ (dt : Nat) (s : State), 3 ≤ s.get R.ALLOC_MISS_C_RUN →
  ∃ t, Sys2Proof.Machine.exec (.consMissLimit dt) s = .next t ∧ t.get R.DEV_FAULT_CAUSE = 7 ∧ t.get R.DEV_EVT_FAULT = 1) ∧
  (∀ (dt : Nat) (s : State), s.get R.ALLOC_MISS_C_RUN < 3 → Sys2Proof.Machine.exec (.consMissLimit dt) s = .next (s.advance dt)) ∧
  (∀ (dt : Nat) (s : State), s.get R.ALLOC_STAT_SHORT = 0 → 20 ≤ s.alloc.shortRun →
  ∃ t, Sys2Proof.Machine.exec (.allocShort dt) s = .next t ∧ t.get R.ALLOC_STAT_SHORT = 1 ∧ t.get R.ALLOC_EVT_SHORT = 1 ∧
    Framed (regKeys 0 [R.ALLOC_STAT_SHORT, R.ALLOC_EVT_SHORT]) (s.advance dt) t) ∧
  (∀ (dt : Nat) (s : State), s.get R.ALLOC_STAT_SHORT = 1 → 20 ≤ s.alloc.shortClear →
  ∃ t, Sys2Proof.Machine.exec (.allocShort dt) s = .next t ∧ t.get R.ALLOC_STAT_SHORT = 0 ∧ Framed [loc R.ALLOC_STAT_SHORT 0] (s.advance dt) t) ∧
  (∀ (dt : Nat) (s : State), s.alloc.shortRun < 20 → s.alloc.shortClear < 20 → Sys2Proof.Machine.exec (.allocShort dt) s = .next (s.advance dt)) ∧
  (∀ (dt b : Nat) (c : BusCfg) (s : State), s.man.alloc.buses[b]? = some c → qUsable (s.ptOpt c.avail).2 = false → (s.busSt b).unknown = false →
  (s.busSt b).lastAt + 10000000000 ≤ s.now + dt →
  ∃ t, Sys2Proof.Machine.exec (.busPowerHoldExpiry dt b) s = .next t ∧ (t.busSt b).unknown = true ∧ t.get R.ALLOC_STAT_PWR_UNKNOWN = 1 ∧
    t.get R.ALLOC_EVT_PWR_UNKNOWN = 1 ∧
    Framed (regKeys 0 [R.ALLOC_STAT_PWR_UNKNOWN, R.ALLOC_EVT_PWR_UNKNOWN]) { s.advance dt with alloc := t.alloc } t) ∧
  (∀ (dt b : Nat) (s : State), s.man.alloc.buses[b]? = none → Sys2Proof.Machine.exec (.busPowerHoldExpiry dt b) s = .next (s.advance dt)) ∧
  (∀ (dt n a : Nat) (c : ThrCfg) (s : State), s.thrCfg n = some c → s.thrState n = 1 → (s.thrSt n).overAt = some a →
  a + c.followT * 1000000000 ≤ s.now + dt →
  ∃ t, Sys2Proof.Machine.exec (.followFault dt n) s = .next t ∧ (t.thrSt n).follow = true ∧ (t.thrSt n).overAt = none ∧
    Framed [] { s.advance dt with alloc := t.alloc } t) ∧
  (∀ (dt n : Nat) (s : State), s.thrCfg n = none → Sys2Proof.Machine.exec (.followFault dt n) s = .next (s.advance dt)) ∧
  (∀ (dt n k : Nat) (x : Nat × Instr) (s : State), x ∈ [(1, Instr.allocThrDeselect dt (.point k) n), (2, .allocThrSelect dt (.point k) n)] →
  k ∈ s.man.alloc.points → s.isActive = true → s.thrCfg n ≠ none →
  ∃ t, Sys2Proof.Machine.exec x.2 s = .next t ∧ t.alloc.cmds = s.alloc.cmds ++ [⟨n, x.1, s.operKeyId⟩] ∧
    Framed [] { s.advance dt with alloc := { s.alloc with cmds := s.alloc.cmds ++ [⟨n, x.1, s.operKeyId⟩] } } t) ∧
  (∀ (dt n k : Nat) (x : Nat × Instr) (s : State), x ∈ [(1, Instr.allocThrDeselect dt (.point k) n), (2, .allocThrSelect dt (.point k) n)] →
  k ∈ s.man.alloc.points → s.isActive = false →
  ∃ t, Sys2Proof.Machine.exec x.2 s = .next t ∧ t.get R.ALLOC_EVT_CMD_REFUSED = 1 ∧ Framed [loc R.ALLOC_EVT_CMD_REFUSED 0] (s.advance dt) t) ∧
  (∀ (dt n k : Nat) (x : Nat × Instr) (s : State), x ∈ [(1, Instr.allocThrDeselect dt (.point k) n), (2, .allocThrSelect dt (.point k) n)] →
  k ∉ s.man.alloc.points → Sys2Proof.Machine.exec x.2 s = .next (s.advance dt))

/-- A solver batch starts, completes, stops at its deadline or follows the verdict of the active (R219, R225, R232, R233, R235,
  R237). -/
def Obligations.SolverBatches : Prop :=
  (∀ (dt : Nat) (b : Batch) (s : State), s.yuz.run = none → nextBatch s.yuz.queue = some b → s.get R.PWR_STAT_YUZ_GATED = 0 →
  (s.follows = true ∨ deadlinePassed (s.advance dt).pm32 b.deadline = false) →
  ∃ t, Sys2Proof.Machine.exec (.yuzBatchStart dt) s = .next t ∧ t.yuz.run = some b ∧ t.yuz.startAt = s.now + dt ∧ t.yuz.queue = s.yuz.queue.erase b ∧
    t.get R.YUZ_STAT_BUSY = 1 ∧ t.get R.YUZ_STAT_RUN_KIND = b.kind % 8 ∧ t.get R.YUZ_STAT_TILE_BUSY = b.mask % 16 ∧
    Framed (regKeys 0 [R.YUZ_STAT_QUEUED, R.YUZ_STAT_BUSY, R.YUZ_STAT_RUN_KIND, R.YUZ_STAT_TILE_BUSY])
      { s.advance dt with yuz := { s.yuz with queue := s.yuz.queue.erase b, run := some b, startAt := s.now + dt, held := none } } t) ∧
  (∀ (dt : Nat) (b : Batch) (s : State), s.yuz.run = none → nextBatch s.yuz.queue = some b → s.get R.PWR_STAT_YUZ_GATED = 0 →
  s.follows = false → deadlinePassed (s.advance dt).pm32 b.deadline = true →
  ∃ t, Sys2Proof.Machine.exec (.yuzBatchStart dt) s = .next t ∧ t.yuz.run = none ∧ t.yuz.queue = s.yuz.queue.erase b ∧
    t.get R.YUZ_LAST_STAT_EXPIRED b.kind = 1 ∧ t.get R.YUZ_LAST_STAT_MISS b.kind = 1 ∧ t.get R.YUZ_LAST_STAT_DONE b.kind = 0 ∧
    t.get R.YUZ_LAST_STAT_NOT_DONE b.kind = b.items % 512 ∧ t.get R.YUZ_LAST_SEQ_SEQ b.kind = b.seq % 2 ^ 32 ∧
    t.get R.YUZ_EVT_EXPIRED = 1 ∧ t.get R.YUZ_EVT_MISS = 1 ∧ (∀ n, n < 3 → n < b.items → (tget t.yuz.items (b.kind * 256 + n) {}).done = false)) ∧
  (∀ (dt : Nat) (s : State), (s.yuz.run ≠ none ∨ s.yuz.queue = [] ∨ s.get R.PWR_STAT_YUZ_GATED = 1) →
  Sys2Proof.Machine.exec (.yuzBatchStart dt) s = .next (s.advance dt)) ∧
  (∀ (dt : Nat) (l : List ItemRes) (b : Batch) (s : State), s.yuz.run = some b → s.follows = false →
  ∃ t, Sys2Proof.Machine.exec (.yuzBatchDone dt l) s = .next t ∧ t.yuz.run = none ∧ t.yuz.held = none ∧ t.yuz.sent = some (b.seq, none) ∧
    t.yuz.queue = s.yuz.queue ∧ t.get R.YUZ_LAST_STAT_MISS b.kind = 0 ∧ t.get R.YUZ_LAST_STAT_EXPIRED b.kind = 0 ∧
    t.get R.YUZ_LAST_STAT_VERDICT b.kind = 0 ∧ t.get R.YUZ_LAST_SEQ_SEQ b.kind = b.seq % 2 ^ 32 ∧
    t.get R.YUZ_LAST_CYC_CYCLES b.kind = b.cycles % 2 ^ 32 ∧ t.get R.YUZ_STAT_BUSY = 0 ∧ t.mode = s.mode ∧ t.pts = s.pts) ∧
  (∀ (dt : Nat) (l : List ItemRes) (b : Batch) (s : State), s.yuz.run = some b → s.follows = true → tfind s.yuz.verdicts b.seq = none →
  Sys2Proof.Machine.exec (.yuzBatchDone dt l) s = .next { s.advance dt with yuz := { s.yuz with held := some l } }) ∧
  (∀ (dt q : Nat) (l : List ItemRes) (b : Batch) (z : Option (Nat × Nat)) (x : Instr) (s : State), s.yuz.run = some b → s.follows = true →
  ((x = .yuzBatchDone dt l ∧ tfind s.yuz.verdicts b.seq = some (z, q)) ∨ (x = .verdictReceive dt b.seq z ∧ s.yuz.held = some l)) →
  ∃ t, Sys2Proof.Machine.exec x s = .next t ∧ t.yuz.run = none ∧ t.yuz.held = none ∧ t.get R.YUZ_LAST_STAT_VERDICT b.kind = 1 ∧
    t.get R.YUZ_LAST_STAT_MISS b.kind = (if z.isSome then 1 else 0) ∧ t.get R.YUZ_LAST_SEQ_SEQ b.kind = b.seq % 2 ^ 32 ∧ t.get R.YUZ_STAT_BUSY = 0) ∧
  (∀ (dt q : Nat) (z : Option (Nat × Nat)) (s : State), s.follows = true → s.yuz.held = none → z ≠ some (0, 0) →
  (∃ b ∈ s.yuz.run.toList ++ s.yuz.queue, b.seq = q) →
  Sys2Proof.Machine.exec (.verdictReceive dt q z) s = .next { s.advance dt with yuz := { s.yuz with verdicts := tput s.yuz.verdicts q (z, s.now + dt) } }) ∧
  (∀ (dt cyc o : Nat) (l : List ItemRes) (b : Batch) (s : State), s.yuz.run = some b → s.follows = false →
  deadlinePassed (s.advance dt).pm32 b.deadline = true →
  ∃ t, Sys2Proof.Machine.exec (.yuzDeadlineStop dt l cyc o) s = .next t ∧ t.yuz.run = none ∧ (t.yuz.sent.map fun x => (x.1, x.2.isSome)) = some (b.seq, true) ∧
    t.get R.YUZ_LAST_STAT_MISS b.kind = 1 ∧ t.get R.YUZ_LAST_CYC_CYCLES b.kind = cyc % 2 ^ 32 ∧ t.get R.YUZ_STOP_LAST_OVR = min o 65535 ∧
    t.get R.YUZ_STOP_MAX_OVR = max (s.get R.YUZ_STOP_MAX_OVR) (min o 65535) % 65536 ∧ t.get R.YUZ_EVT_MISS = 1 ∧
    (b.coupled = true → t.get R.YUZ_LAST_STAT_DONE b.kind = 0)) ∧
  (∀ (dt cyc o : Nat) (l : List ItemRes) (b : Batch) (s : State), s.yuz.run = some b →
  (s.follows = true ∨ deadlinePassed (s.advance dt).pm32 b.deadline = false) →
  Sys2Proof.Machine.exec (.yuzDeadlineStop dt l cyc o) s = .next (s.advance dt)) ∧
  (∀ (dt t₀ : Nat) (b : Batch) (z : Option (Nat × Nat)) (s : State), s.yuz.run = some b → tfind s.yuz.verdicts b.seq = some (z, t₀) → s.follows = true →
  t₀ + 2000000 ≤ s.now + dt →
  ∃ t, Sys2Proof.Machine.exec (.standbyLag dt) s = .next t ∧ t.get R.YUZ_EVT_STANDBY_LAG = 1 ∧ t.get R.DEV_FAULT_CAUSE = 8 ∧ t.get R.DEV_EVT_FAULT = 1) ∧
  (∀ (dt : Nat) (s : State), (s.follows = false ∨ (s.yuz.run = none ∧ s.yuz.queue = []) ∨ s.yuz.verdicts = []) → Sys2Proof.Machine.exec (.standbyLag dt) s = .next (s.advance dt))

/-- Loop ticks, encoder and PWM events, and the reads that latch (R37, R39, R97, R245, R247, R266, R284, R358). -/
def Obligations.LoopTicks : Prop :=
  (∀ (dt : Nat) (m : List (Nat × Int)) (c : List (Nat × Rat × Rat)) (x : List (Nat × Nat)) (s : State), s.gridRuns = true → s.replays = false →
  ∃ t, Sys2Proof.Machine.exec (.loopTick dt m c x) s = .next t ∧ t.tick = s.tick + 1 ∧ t.loop.tickAt = s.now + dt ∧ t.loop.tickNs = (s.advance dt).ns ∧
    t.loop.hullNext = none ∧ t.loop.hull = s.loop.hullNext.getD s.loop.hull ∧ t.mode = s.mode ∧ t.pwr = s.pwr ∧ t.mus = s.mus) ∧
  (∀ (dt : Nat) (m : List (Nat × Int)) (c : List (Nat × Rat × Rat)) (x : List (Nat × Nat)) (s : State), s.gridRuns = true → s.replays = true →
  ∃ t, Sys2Proof.Machine.exec (.loopTick dt m c x) s = .next t ∧ t.tick = s.tick ∧ t.commits = s.commits ∧ t.loop = s.loop ∧ t.pts = s.pts ∧ t.mode = s.mode) ∧
  (∀ (dt : Nat) (m : List (Nat × Int)) (c : List (Nat × Rat × Rat)) (x : List (Nat × Nat)) (s : State), s.gridRuns = false →
  Sys2Proof.Machine.exec (.loopTick dt m c x) s = .next (s.advance dt)) ∧
  (∀ (dt e : Nat) (m : Int) (s : State), tget s.man.loop.encs e 0 = 1 → s.get R.LOOP_ENC_STAT_INDEX_SEEN e = 0 →
  ∃ t, Sys2Proof.Machine.exec (.encoderIndex dt e m) s = .next t ∧ (t.enc e).latched = some (t.enc e).count ∧
    ((t.enc e).count : Int) = (((s.enc e).count : Int) + m) % 2 ^ 32 ∧ t.get R.LOOP_ENC_STAT_INDEX_SEEN e = 1 ∧
    Framed [loc R.LOOP_ENC_STAT_INDEX_SEEN e] { s.advance dt with loop := t.loop } t) ∧
  (∀ (dt e : Nat) (m : Int) (s : State), tget s.man.loop.encs e 0 = 1 → s.get R.LOOP_ENC_STAT_INDEX_SEEN e = 1 →
  ∃ t, Sys2Proof.Machine.exec (.encoderIndex dt e m) s = .next t ∧ (t.enc e).latched = (s.enc e).latched ∧
    ((t.enc e).count : Int) = (((s.enc e).count : Int) + m) % 2 ^ 32 ∧ Framed [] { s.advance dt with loop := t.loop } t) ∧
  (∀ (dt e : Nat) (m : Int) (s : State), tget s.man.loop.encs e 0 = 2 →
  ∃ t, Sys2Proof.Machine.exec (.encoderIndex dt e m) s = .next t ∧ (t.enc e).count = 0 ∧ t.get R.LOOP_ENC_STAT_INDEX_SEEN e = 1 ∧
    Framed [loc R.LOOP_ENC_STAT_INDEX_SEEN e] { s.advance dt with loop := t.loop } t) ∧
  (∀ (dt e : Nat) (m : Int) (s : State), tget s.man.loop.encs e 0 = 0 → Sys2Proof.Machine.exec (.encoderIndex dt e m) s = .next ((s.advance dt).encMove e m)) ∧
  (∀ (dt e : Nat) (m : Int) (s : State),
  ∃ t, Sys2Proof.Machine.exec (.encoderEdgeError dt e m) s = .next t ∧ t.get R.LOOP_ENC_STAT_EDGE_ERR e = 1 ∧
    ((t.enc e).count : Int) = (((s.enc e).count : Int) + m) % 2 ^ 32 ∧ Framed [loc R.LOOP_ENC_STAT_EDGE_ERR e] { s.advance dt with loop := t.loop } t) ∧
  (∀ (dt n : Nat) (p : PwmCfg) (s : State), tfind s.man.loop.pwm n = some p →
  ∃ t, Sys2Proof.Machine.exec (.pwmPeriodStart dt n) s = .next t ∧ (t.pwm n).compare = (s.pwm n).shadow ∧ (t.pwm n).shadow = (s.pwm n).shadow ∧
    (t.pwm n).on = (s.pwm n).on ∧ (t.pwm n).periodAt = s.now + dt ∧ Framed [] { s.advance dt with loop := t.loop } t) ∧
  (∀ (dt n : Nat) (s : State), tfind s.man.loop.pwm n = none → Sys2Proof.Machine.exec (.pwmPeriodStart dt n) s = .next (s.advance dt)) ∧
  (∀ (dt : Nat) (p : Port) (s : State),
  ∃ t, Sys2Proof.Machine.exec (.loopCellSpRead dt p) s = .next t ∧
    t.loop.latched = some (s.get R.LOOP_SEL_CELL, (s.cell (s.get R.LOOP_SEL_CELL)).ys.getD 0 0, (s.cell (s.get R.LOOP_SEL_CELL)).u, (s.cell (s.get R.LOOP_SEL_CELL)).ff) ∧
    (match p with | .pcie => t.pcie.rdata | .spi => t.spi.rdata) = s.get R.LOOP_CELL_SP_VALUE (s.get R.LOOP_SEL_CELL) ∧
    Framed (regKeys 0 lullFlds) { s.advance dt with loop := t.loop, pcie := t.pcie, spi := t.spi, pwr := t.pwr } t) ∧
  (∀ (dt : Nat) (p : Port) (s : State),
  ∃ t, Sys2Proof.Machine.exec (.adcChResRead dt p) s = .next t ∧
    t.adc.latched = some (s.get R.ADC_SEL_CH, pmTotal (s.conv (s.get R.ADC_SEL_CH)).pm % 2 ^ 32, (s.conv (s.get R.ADC_SEL_CH)).updates) ∧
    (match p with | .pcie => t.pcie.rdata | .spi => t.spi.rdata) =
      s.get R.ADC_CH_RES_RESULT (s.get R.ADC_SEL_CH) + 16777216 * s.get R.ADC_CH_RES_SIGN (s.get R.ADC_SEL_CH) ∧
    Framed (regKeys 0 lullFlds) { s.advance dt with adc := t.adc, pcie := t.pcie, spi := t.spi, pwr := t.pwr } t) ∧
  (∀ (dt o : Nat) (p : Port) (s : State), o ∈ [0x4048, 0x501C, 0xA058, 0xA068, 0xC01C] →
  ∃ t, Sys2Proof.Machine.exec (.postmarkReadLatch dt p o) s = .next t ∧ t.get R.TIME_LAT_NS_NS = (s.advance dt).ns % 1000000000 ∧
    t.get R.TIME_LAT_PM32_PM32 = (s.advance dt).ns % 2 ^ 32 ∧
    Framed (regKeys 0 ([R.TIME_LAT_NS_NS, R.TIME_LAT_SEC_LO_SEC_LO, R.TIME_LAT_SEC_HI_SEC_HI, R.TIME_LAT_PM32_PM32] ++ lullFlds))
      { s.advance dt with pcie := t.pcie, spi := t.spi, pwr := t.pwr } t)

/-- A run of a loop cell, a miss, and what the miss limit does (R243, R257, R258, R266). -/
def Obligations.LoopCells : Prop :=
  (∀ (dt n : Nat) (k : List (Nat × Nat)) (x : CellCfg) (s : State), s.cellCfg n = some x → 2 ≤ s.mode → s.tick % x.div = x.phase →
  (s.cell n).ran ≠ some s.tick → (s.advance dt).cellTrigger x = 1 → s.cellState n ∈ [1, 2, 3] →
  ((x.ins.zipIdx.map fun p => ((s.advance dt).encCaptures x k).cellIn x (s.cell n).prev k p.2 p.1).all (·.ok)) = true →
  ∃ t, Sys2Proof.Machine.exec (.loopCellRun dt n k) s = .next t ∧ (t.cell n).ran = some s.tick ∧ t.get R.LOOP_CELL_STAT_MISS n = 0 ∧
    t.get R.LOOP_CELL_STAT_MISS_RUN n = 0 ∧ t.get R.LOOP_CELL_CNT_RUNS n = (s.get R.LOOP_CELL_CNT_RUNS n + 1) % 2 ^ 32 ∧
    t.get R.LOOP_CELL_SP_VALUE n = bits32 (t.cell n).r ∧ t.cellState n = s.cellState n ∧ t.mode = s.mode ∧
    (s.cellState n = 1 → (t.cell n).u = (s.cell n).u ∧ (t.cell n).r = (t.cell n).ys.getD 0 0 ∧
      t.get R.LOOP_CELL_OUT_VALUE n = s.get R.LOOP_CELL_OUT_VALUE n)) ∧
  (∀ (dt n : Nat) (k : List (Nat × Nat)) (x : CellCfg) (s : State), s.cellCfg n = some x → 2 ≤ s.mode → s.tick % x.div = x.phase →
  (s.cell n).ran ≠ some s.tick → (s.advance dt).cellTrigger x = 2 → s.cellState n ∈ [1, 2, 3] →
  ∃ t, Sys2Proof.Machine.exec (.loopCellRun dt n k) s = .next t ∧ (t.cell n).ran = some s.tick ∧ (t.cell n).u = (s.cell n).u ∧ (t.cell n).i = (s.cell n).i ∧
    (t.cell n).test = none ∧ t.get R.LOOP_CELL_STAT_MISS n = 1 ∧ t.get R.LOOP_CELL_STAT_MISS_RUN n = min 255 (s.get R.LOOP_CELL_STAT_MISS_RUN n + 1) ∧
    t.get R.LOOP_EVT_MISS = 1 ∧ t.get R.LOOP_CELL_CNT_RUNS n = s.get R.LOOP_CELL_CNT_RUNS n ∧
    t.get R.LOOP_CELL_OUT_VALUE n = s.get R.LOOP_CELL_OUT_VALUE n ∧ t.cellState n = s.cellState n) ∧
  (∀ (dt n : Nat) (k : List (Nat × Nat)) (x : CellCfg) (s : State), s.cellCfg n = some x → 2 ≤ s.mode → s.tick % x.div = x.phase →
  (s.cell n).ran ≠ some s.tick → (s.advance dt).cellTrigger x ≠ 0 → s.cellState n = 4 → (s.cell n).safe = 2 →
  ∃ t, Sys2Proof.Machine.exec (.loopCellRun dt n k) s = .next t ∧
    (t.cell n).u = slewTo (s.cell n).u (q30 x.safeOut).1 (q30 (x.safeSlew * cellTs x)).1 (q30 (x.safeSlew * cellTs x)).1 ∧
    t.get R.LOOP_CELL_OUT_VALUE n = bits32 (t.cell n).u ∧ t.cellState n = 4) ∧
  (∀ (dt n : Nat) (k : List (Nat × Nat)) (s : State), (s.cellCfg n = none ∨ s.mode < 2 ∨ (s.cell n).ran = some s.tick) →
  Sys2Proof.Machine.exec (.loopCellRun dt n k) s = .next (s.advance dt)) ∧
  (∀ (dt n : Nat) (x : CellCfg) (s : State), s.cellCfg n = some x → x.missLimit ≤ s.get R.LOOP_CELL_STAT_MISS_RUN n → s.cellState n ∈ [1, 2, 3] →
  ∃ t, Sys2Proof.Machine.exec (.cellMissLimit dt n) s = .next t ∧ t.cellState n = 5 ∧ t.get R.LOOP_EVT_CELL_FAULT = 1 ∧ (t.cell n).u = (s.cell n).u ∧
    (t.cell n).test = none ∧ t.mode = s.mode) ∧
  (∀ (dt n : Nat) (x : CellCfg) (s : State), s.cellCfg n = some x → x.missLimit ≤ s.get R.LOOP_CELL_STAT_MISS_RUN n → s.cellState n = 4 →
  (s.cell n).safe = 3 →
  ∃ t, Sys2Proof.Machine.exec (.cellMissLimit dt n) s = .next t ∧ (t.cell n).safe = 1 ∧ (t.cell n).u = (q30 x.safeOut).1 ∧ t.cellState n = 4 ∧
    t.get R.LOOP_EVT_SAFE_LAW = 1) ∧
  (∀ (dt n : Nat) (x : CellCfg) (s : State), s.cellCfg n = some x → s.get R.LOOP_CELL_STAT_MISS_RUN n < x.missLimit →
  Sys2Proof.Machine.exec (.cellMissLimit dt n) s = .next (s.advance dt))

/-- Test injections and captures: start, stop, end, arm, force, abort, done (R254, R255, R256). -/
def Obligations.InjectionsAndCaptures : Prop :=
  (∀ (dt : Nat) (p : Port) (x : CellCfg) (s : State), s.session p = some .installer → s.cellCfg (s.get R.LOOP_SEL_CELL) = some x → s.mode = 2 →
  s.isActive = true → s.fnState x.fn = 2 → ((s.get R.LOOP_INJ_AMP_AMP (s.get R.LOOP_SEL_CELL) : Nat) : Rat) ≤ x.injMax * 1073741824 →
  ∃ t, Sys2Proof.Machine.exec (.injectionStart dt p) s = .next t ∧ t.get R.LOOP_INJ_CMD_RESULT (s.get R.LOOP_SEL_CELL) = 1 ∧ t.role.rwlAt = s.now + dt ∧
    ((t.cell (s.get R.LOOP_SEL_CELL)).test.map fun i => (i.at_, i.amp, i.shape, i.dur, i.keyId, i.due)) =
      some (s.now + dt, (s.get R.LOOP_INJ_AMP_AMP (s.get R.LOOP_SEL_CELL) : Int), s.get R.LOOP_INJ_CFG_SHAPE (s.get R.LOOP_SEL_CELL),
        s.get R.LOOP_INJ_DUR_MS (s.get R.LOOP_SEL_CELL), s.role.keyId, false)) ∧
  (∀ (dt : Nat) (p : Port) (s : State), s.session p = some .installer → (s.mode ≠ 2 ∨ s.isActive = false) →
  ∃ t, Sys2Proof.Machine.exec (.injectionStart dt p) s = .next t ∧ t.get R.LOOP_INJ_CMD_RESULT (s.get R.LOOP_SEL_CELL) = 5 ∧ t.loop = s.loop) ∧
  (∀ (dt : Nat) (p : Port) (x : CellCfg) (s : State), s.session p = some .installer → s.cellCfg (s.get R.LOOP_SEL_CELL) = some x → s.mode = 2 →
  s.isActive = true → s.fnState x.fn = 2 → x.injMax * 1073741824 < ((s.get R.LOOP_INJ_AMP_AMP (s.get R.LOOP_SEL_CELL) : Nat) : Rat) →
  ∃ t, Sys2Proof.Machine.exec (.injectionStart dt p) s = .next t ∧ t.get R.LOOP_INJ_CMD_RESULT (s.get R.LOOP_SEL_CELL) = 6 ∧ t.loop = s.loop) ∧
  (∀ (dt : Nat) (p : Port) (x : Instr) (s : State), x ∈ [Instr.injectionStart dt p, .injectionStop dt p] → s.session p ≠ some .installer →
  ∃ t, Sys2Proof.Machine.exec x s = .next t ∧ t.loop = s.loop ∧ t.role = s.role) ∧
  (∀ (dt : Nat) (p : Port) (i : InjSt) (s : State), s.session p = some .installer → (s.cell (s.get R.LOOP_SEL_CELL)).test = some i →
  ∃ t, Sys2Proof.Machine.exec (.injectionStop dt p) s = .next t ∧ (t.cell (s.get R.LOOP_SEL_CELL)).test = none ∧
    t.get R.LOOP_INJ_CMD_RESULT (s.get R.LOOP_SEL_CELL) = 4 ∧ t.get R.LOOP_CELL_STAT_INJ (s.get R.LOOP_SEL_CELL) = 0 ∧ t.get R.LOOP_EVT_INJ_END = 1) ∧
  (∀ (dt : Nat) (p : Port) (s : State), s.session p = some .installer → (s.cell (s.get R.LOOP_SEL_CELL)).test = none →
  ∃ t, Sys2Proof.Machine.exec (.injectionStop dt p) s = .next t ∧ t.loop = s.loop) ∧
  (∀ (dt n a : Nat) (i : InjSt) (s : State), (s.cell n).test = some i → i.startAt = some a → a + i.dur * 1000000 ≤ s.now + dt →
  ∃ t, Sys2Proof.Machine.exec (.injectionEnd dt n) s = .next t ∧ (t.cell n).test = none ∧ t.get R.LOOP_INJ_CMD_RESULT n = 3 ∧ t.get R.LOOP_CELL_STAT_INJ n = 0 ∧
    t.get R.LOOP_EVT_INJ_END = 1 ∧
    Framed [loc R.LOOP_INJ_CMD_RESULT n, loc R.LOOP_CELL_STAT_INJ n, loc R.LOOP_EVT_INJ_END 0] { s.advance dt with loop := t.loop } t) ∧
  (∀ (dt n a : Nat) (i : InjSt) (s : State), (s.cell n).test = some i → i.startAt = some a → s.now + dt < a + i.dur * 1000000 →
  Sys2Proof.Machine.exec (.injectionEnd dt n) s = .next (s.advance dt)) ∧
  (∀ (dt : Nat) (p : Port) (r : Role) (s : State), s.session p = some r → r ∈ [Role.operator, .installer] →
  ∃ t, Sys2Proof.Machine.exec (.captureArm dt p) s = .next t ∧ t.get R.LOOP_CAP_STAT_STATE (s.get R.LOOP_CAP_SEL_UNIT) = 1 ∧
    t.get R.LOOP_CAP_STAT_COUNT (s.get R.LOOP_CAP_SEL_UNIT) = 0 ∧ t.get R.LOOP_CAP_STAT_TRIG_IDX (s.get R.LOOP_CAP_SEL_UNIT) = 0 ∧
    t.cap (s.get R.LOOP_CAP_SEL_UNIT) = {} ∧ t.role.rwlAt = s.now + dt ∧ t.loop.cells = s.loop.cells) ∧
  (∀ (dt : Nat) (p : Port) (r : Role) (s : State), s.session p = some r → r ∈ [Role.operator, .installer] →
  s.get R.LOOP_CAP_STAT_STATE (s.get R.LOOP_CAP_SEL_UNIT) = 1 →
  ∃ t, Sys2Proof.Machine.exec (.captureForce dt p) s = .next t ∧ t.get R.LOOP_CAP_STAT_STATE (s.get R.LOOP_CAP_SEL_UNIT) = 2 ∧
    (t.cap (s.get R.LOOP_CAP_SEL_UNIT)).trig = true ∧ (t.cap (s.get R.LOOP_CAP_SEL_UNIT)).ring = (s.cap (s.get R.LOOP_CAP_SEL_UNIT)).ring ∧
    t.get R.LOOP_CAP_STAT_COUNT (s.get R.LOOP_CAP_SEL_UNIT) = s.get R.LOOP_CAP_STAT_COUNT (s.get R.LOOP_CAP_SEL_UNIT)) ∧
  (∀ (dt : Nat) (p : Port) (r : Role) (s : State), s.session p = some r → r ∈ [Role.operator, .installer] →
  s.get R.LOOP_CAP_STAT_STATE (s.get R.LOOP_CAP_SEL_UNIT) ∈ [1, 2] →
  ∃ t, Sys2Proof.Machine.exec (.captureAbort dt p) s = .next t ∧ t.get R.LOOP_CAP_STAT_STATE (s.get R.LOOP_CAP_SEL_UNIT) = 4 ∧ t.loop = s.loop) ∧
  (∀ (dt : Nat) (p : Port) (x : Instr) (s : State), x ∈ [Instr.captureArm dt p, .captureForce dt p, .captureAbort dt p] → s.session p = none →
  ∃ t, Sys2Proof.Machine.exec x s = .next t ∧ t.loop = s.loop ∧ t.role = s.role) ∧
  (∀ (dt u : Nat) (s : State), s.get R.LOOP_CAP_STAT_STATE u = 2 → s.get R.LOOP_CAP_STAT_COUNT u = 8192 → (s.cap u).trig = false →
  ∃ t, Sys2Proof.Machine.exec (.captureDone dt u) s = .next t ∧ t.get R.LOOP_CAP_STAT_STATE u = 3 ∧ t.get R.LOOP_EVT_CAP_DONE = 1 ∧
    Framed [loc R.LOOP_CAP_STAT_STATE u, loc R.LOOP_EVT_CAP_DONE 0] (s.advance dt) t) ∧
  (∀ (dt u : Nat) (s : State), (s.get R.LOOP_CAP_STAT_STATE u ≠ 2 ∨ s.get R.LOOP_CAP_STAT_COUNT u ≠ 8192) →
  Sys2Proof.Machine.exec (.captureDone dt u) s = .next (s.advance dt))

/-- Machine-function commands and the time limits of arming, stopping and saturation (R259, R260, R261, R262, R263). -/
def Obligations.MachineFunctions : Prop :=
  (∀ (dt fn tag k : Nat) (x : Nat × Instr) (s : State), x ∈ mfnCmds dt (.point k) fn tag → k ∈ s.man.loop.points → s.isActive = true →
  2 ≤ s.mode → s.mode < 5 → (tfind s.man.loop.fns (fn % 32)).isSome = true → (s.fn (fn % 32)).cmd = none →
  ∃ t, Sys2Proof.Machine.exec x.2 s = .next t ∧ ((t.fn (fn % 32)).cmd.map fun c => (c.action, c.tag, c.at_, c.keyId)) = some (x.1, tag % 256, s.now + dt, s.operKeyId) ∧
    t.get R.MFN_CMD_STAT_RESULT = 1 ∧ t.get R.MFN_CMD_STAT_TAG = tag % 256 ∧ t.get R.MFN_CMD_STAT_FN = fn % 32 ∧
    Framed (regKeys 0 [R.MFN_CMD_STAT_RESULT, R.MFN_CMD_STAT_TAG, R.MFN_CMD_STAT_FN]) { s.advance dt with loop := t.loop } t) ∧
  (∀ (dt fn tag : Nat) (p : Port) (x : Nat × Instr) (s : State), x ∈ mfnCmds dt (.host p) fn tag → s.session p = some .operator → s.isActive = true →
  2 ≤ s.mode → s.mode < 5 → (tfind s.man.loop.fns (fn % 32)).isSome = true → (s.fn (fn % 32)).cmd = none →
  ∃ t, Sys2Proof.Machine.exec x.2 s = .next t ∧ ((t.fn (fn % 32)).cmd.map fun c => (c.action, c.tag, c.at_, c.keyId)) = some (x.1, tag % 256, s.now + dt, s.role.keyId) ∧
    t.get R.MFN_CMD_STAT_RESULT = 1 ∧ t.get R.MFN_CMD_FN = fn % 32 ∧ t.get R.MFN_CMD_ACTION = x.1 ∧ t.role.rwlAt = s.now + dt) ∧
  (∀ (dt fn tag k : Nat) (x : Nat × Instr) (s : State), x ∈ mfnCmds dt (.point k) fn tag → k ∈ s.man.loop.points → s.isActive = true →
  s.mode = 5 →
  ∃ t, Sys2Proof.Machine.exec x.2 s = .next t ∧ t.get R.MFN_CMD_STAT_RESULT = 6 ∧ t.get R.MFN_EVT_CMD_REFUSED = 1 ∧
    Framed (regKeys 0 [R.MFN_CMD_STAT_RESULT, R.MFN_CMD_STAT_TAG, R.MFN_CMD_STAT_FN, R.MFN_EVT_CMD_REFUSED]) (s.advance dt) t) ∧
  (∀ (dt fn tag k : Nat) (x : Nat × Instr) (s : State), x ∈ mfnCmds dt (.point k) fn tag → k ∈ s.man.loop.points → s.isActive = false →
  s.mode ≠ 1 →
  ∃ t, Sys2Proof.Machine.exec x.2 s = .next t ∧ t.get R.MFN_CMD_STAT_RESULT = 5 ∧ t.get R.MFN_EVT_CMD_REFUSED = 1 ∧
    Framed (regKeys 0 [R.MFN_CMD_STAT_RESULT, R.MFN_CMD_STAT_TAG, R.MFN_CMD_STAT_FN, R.MFN_EVT_CMD_REFUSED]) (s.advance dt) t) ∧
  (∀ (dt fn tag k : Nat) (x : Nat × Instr) (s : State), x ∈ mfnCmds dt (.point k) fn tag → k ∉ s.man.loop.points →
  Sys2Proof.Machine.exec x.2 s = .next (s.advance dt)) ∧
  (∀ (dt f : Nat) (g : FnCfg) (s : State), tfind s.man.loop.fns f = some g → (s.fn f).causes = [] → s.fnState f = 1 →
  (s.fn f).since + 100 * g.armMs ≤ s.tick →
  ∃ t, Sys2Proof.Machine.exec (.armTimeout dt f) s = .next t ∧ t.get R.MFN_FN_STAT_CAUSE f = 2 ∧ t.get R.MFN_FN_STAT_REARM_PENDING f = 0 ∧
    t.get R.MFN_FN_STAT_STOP_FAULT f = 1 ∧ (t.fn f).stopAt = s.now + dt ∧ t.fnState f = (if g.faultEnd then 4 else 3) ∧ t.mode = s.mode) ∧
  (∀ (dt f k t₀ : Nat) (x : CellCfg) (g : FnCfg) (s : State), s.cellCfg k = some x → x.fn = f → tfind s.man.loop.fns f = some g →
  (s.fn f).causes = [] → s.fnState f = 2 → x.satFaultMs ≠ 0 → (s.cell k).clampAt = some t₀ → t₀ + 1000000 * x.satFaultMs ≤ s.now + dt →
  ∃ t, Sys2Proof.Machine.exec (.satTimeout dt k) s = .next t ∧ t.get R.MFN_FN_STAT_CAUSE f = 3 ∧ t.get R.MFN_FN_STAT_REARM_PENDING f = 0 ∧
    t.get R.MFN_FN_STAT_STOP_FAULT f = 1 ∧ (t.fn f).stopAt = s.now + dt ∧ t.fnState f = (if g.faultEnd then 4 else 3) ∧ t.mode = s.mode) ∧
  (∀ (dt f : Nat) (g : FnCfg) (s : State), tfind s.man.loop.fns f = some g → (s.fnState f ≠ 1 ∨ s.tick < (s.fn f).since + 100 * g.armMs) →
  Sys2Proof.Machine.exec (.armTimeout dt f) s = .next (s.advance dt)) ∧
  (∀ (dt k : Nat) (s : State), (s.cell k).clampAt = none → Sys2Proof.Machine.exec (.satTimeout dt k) s = .next (s.advance dt)) ∧
  (∀ (dt f b : Nat) (g : FnCfg) (s : State), tfind s.man.loop.fns f = some g → s.fnState f = 3 → (s.fn f).bandAt = some b → b + 10000000 ≤ s.now + dt →
  ∃ t, Sys2Proof.Machine.exec (.stopBandReached dt f) s = .next t ∧ t.get R.MFN_FN_STAT_STOP_TIMEOUT f = 0 ∧
    t.fnState f = (if s.get R.MFN_FN_STAT_STOP_FAULT f = 1 then 4 else if s.get R.MFN_FN_STAT_REARM_PENDING f = 1 then 1 else 0) ∧
    t.get R.MFN_FN_TIME_LAST_STOP_MS f = min (2 ^ R.MFN_FN_TIME_LAST_STOP_MS.width - 1) ((s.now + dt - (s.fn f).stopAt) / 1000000) ∧ t.mode = s.mode) ∧
  (∀ (dt f : Nat) (s : State), (s.fnState f ≠ 3 ∨ (s.fn f).bandAt = none) → Sys2Proof.Machine.exec (.stopBandReached dt f) s = .next (s.advance dt)) ∧
  (∀ (dt f : Nat) (g : FnCfg) (s : State), tfind s.man.loop.fns f = some g → s.fnState f = 3 → (s.fn f).stopAt + 1000000 * g.stopMs ≤ s.now + dt →
  ∃ t, Sys2Proof.Machine.exec (.stopTimeout dt f) s = .next t ∧ t.get R.MFN_FN_STAT_STOP_TIMEOUT f = 1 ∧ t.get R.MFN_EVT_STOP_TIMEOUT = 1 ∧
    t.fnState f = (if s.get R.MFN_FN_STAT_STOP_FAULT f = 1 then 4 else if s.get R.MFN_FN_STAT_REARM_PENDING f = 1 then 1 else 0) ∧ t.mode = s.mode) ∧
  (∀ (dt f : Nat) (g : FnCfg) (s : State), tfind s.man.loop.fns f = some g → (s.fnState f ≠ 3 ∨ s.now + dt < (s.fn f).stopAt + 1000000 * g.stopMs) →
  Sys2Proof.Machine.exec (.stopTimeout dt f) s = .next (s.advance dt))

/-- A SAR trigger during a burst is ignored and counted, and the burst completes unchanged (R281). -/
def Obligations.TriggersDuringBursts : Prop :=
  (∀ (dt n d b : Nat) (l : List Int) (c : ConvCfg) (s : State), tfind s.man.adc.chs n = some c → c.kind = 2 → s.convState n = 2 →
  (s.conv n).burstAt = some b → b + 2 ^ c.avgLog2 * 200 + 40 ≤ s.now + dt + d → l.length = 2 ^ c.avgLog2 →
  ∃ t, Sys2Proof.Machine.exec (.sarTrigger dt n) s = .next t ∧ t.get R.ADC_CH_STAT_OVERRUN n = 1 ∧ t.get R.ADC_EVT_OVERRUN = 1 ∧
    t.conv n = { s.conv n with ignored := (s.conv n).ignored + 1 } ∧
    Framed [loc R.ADC_CH_STAT_OVERRUN n, loc R.ADC_EVT_OVERRUN 0] { s.advance dt with adc := t.adc } t ∧
    (match Sys2Proof.Machine.exec (.sarResult d n l) t, Sys2Proof.Machine.exec (.sarResult d n l) (s.advance dt) with
      | .next u, .next v => decide ((u.conv n).burstAt = none ∧ { u.conv n with ignored := 0 } = { v.conv n with ignored := 0 } ∧
          u.get R.ADC_CH_RES_RESULT n = v.get R.ADC_CH_RES_RESULT n)
      | _, _ => false) = true)

/-- Converter results, settling, bitstream faults, SAR bursts and the reference check (R272, R274, R275, R278, R279, R280, R282,
  R283). -/
def Obligations.ConverterResults : Prop :=
  (∀ (dt n : Nat) (k : Int) (o : Bool) (c : ConvCfg) (s : State), tfind s.man.adc.chs n = some c → c.kind ≤ 1 → s.convState n = 2 → s.follows = false →
  ∃ t, Sys2Proof.Machine.exec (.converterResult dt n k o) s = .next t ∧ (t.conv n).res = (convResult c (s.convSlow n) k).1 ∧
    (t.conv n).pm = pmOf ((s.advance dt).ns - convSkew n) ∧ (t.conv n).readyAt = some (s.now + dt) ∧
    (t.conv n).updates = ((s.conv n).updates + 1) % 65536 ∧ (t.conv n).sum = (s.conv n).sum + (convResult c (s.convSlow n) k).1 ∧
    t.get R.ADC_CH_RES_RESULT n = ((convResult c (s.convSlow n) k).1 % 2 ^ 24).toNat ∧
    t.get R.ADC_CH_RES_SIGN n = (if (convResult c (s.convSlow n) k).1 < 0 then 255 else 0) ∧
    t.get R.ADC_CH_STAT_OVR n = (if o then 1 else s.get R.ADC_CH_STAT_OVR n) ∧
    ((convResult c (s.convSlow n) k).2 = true → t.get R.ADC_CH_STAT_CLIP n = 1) ∧ t.convState n = 2) ∧
  (∀ (dt n : Nat) (k : Int) (o : Bool) (c : ConvCfg) (s : State), tfind s.man.adc.chs n = some c → c.kind ≤ 1 → s.convState n = 2 → s.follows = true →
  ∃ t, Sys2Proof.Machine.exec (.converterResult dt n k o) s = .next t ∧ t.conv n = { s.conv n with own := (convResult c (s.convSlow n) k).1 } ∧
    Framed [] { s.advance dt with adc := t.adc } t) ∧
  (∀ (dt n : Nat) (k : Int) (o : Bool) (s : State), (tfind s.man.adc.chs n = none ∨ s.convState n ≠ 2) →
  Sys2Proof.Machine.exec (.converterResult dt n k o) s = .next (s.advance dt)) ∧
  (∀ (dt n : Nat) (k : Int) (c : ConvCfg) (s : State), tfind s.man.adc.chs n = some c → s.convState n = 1 → (s.conv n).settleDue = false →
  (s.conv n).settleAt + convSettle c.preset + convSkew n ≤ s.now + dt → s.follows = false →
  ∃ t, Sys2Proof.Machine.exec (.settlingDone dt n k) s = .next t ∧ t.convState n = 2 ∧ (t.conv n).res = (convResult c (s.convSlow n) k).1 ∧
    (t.conv n).readyAt = some (s.now + dt) ∧ (t.conv n).updates = ((s.conv n).updates + 1) % 65536) ∧
  (∀ (dt n : Nat) (k : Int) (c : ConvCfg) (s : State), tfind s.man.adc.chs n = some c →
  (s.convState n ≠ 1 ∨ (s.conv n).settleDue = true ∨ s.now + dt < (s.conv n).settleAt + convSettle c.preset + convSkew n) →
  Sys2Proof.Machine.exec (.settlingDone dt n k) s = .next (s.advance dt)) ∧
  (∀ (dt n q : Nat) (c : ConvCfg) (s : State), tfind s.man.adc.chs n = some c → c.kind = 1 → 4096 ≤ q → s.convState n ∈ [1, 2] →
  ∃ t, Sys2Proof.Machine.exec (.bitstreamFault dt n q) s = .next t ∧ t.convState n = 3 ∧ t.get R.ADC_CH_STAT_OVR n = 1 ∧ t.get R.ADC_EVT_FAULT = 1 ∧
    Framed [loc R.ADC_CH_STAT_STATE n, loc R.ADC_CH_STAT_OVR n, loc R.ADC_EVT_OVR 0, loc R.ADC_EVT_FAULT 0] (s.advance dt) t) ∧
  (∀ (dt n q : Nat) (s : State), q < 4096 → Sys2Proof.Machine.exec (.bitstreamFault dt n q) s = .next (s.advance dt)) ∧
  (∀ (dt n q : Nat) (s : State), s.convState n = 3 → 1000000 ≤ q →
  ∃ t, Sys2Proof.Machine.exec (.bitstreamRecovery dt n q) s = .next t ∧ t.convState n = 1 ∧ t.conv n = { s.conv n with settleDue := true } ∧
    t.get R.ADC_EVT_RECOVERED = 1 ∧
    Framed [loc R.ADC_CH_STAT_STATE n, loc R.ADC_EVT_RECOVERED 0] { s.advance dt with adc := t.adc } t) ∧
  (∀ (dt n q : Nat) (s : State), (s.convState n ≠ 3 ∨ q < 1000000) → Sys2Proof.Machine.exec (.bitstreamRecovery dt n q) s = .next (s.advance dt)) ∧
  (∀ (dt n : Nat) (c : ConvCfg) (s : State), tfind s.man.adc.chs n = some c → c.kind = 2 → s.convState n = 2 → (s.conv n).burstAt = none →
  ∃ t, Sys2Proof.Machine.exec (.sarTrigger dt n) s = .next t ∧ t.conv n = { s.conv n with burstAt := some (s.now + dt) } ∧
    Framed [] { s.advance dt with adc := t.adc } t) ∧
  (∀ (dt n : Nat) (c : ConvCfg) (s : State), tfind s.man.adc.chs n = some c → (c.kind ≠ 2 ∨ s.convState n ≠ 2) →
  Sys2Proof.Machine.exec (.sarTrigger dt n) s = .next (s.advance dt)) ∧
  (∀ (dt n b : Nat) (l : List Int) (c : ConvCfg) (s : State), tfind s.man.adc.chs n = some c → (s.conv n).burstAt = some b →
  b + 2 ^ c.avgLog2 * 200 + 40 ≤ s.now + dt → l.length = 2 ^ c.avgLog2 → s.follows = false →
  ∃ t, Sys2Proof.Machine.exec (.sarResult dt n l) s = .next t ∧ (t.conv n).burstAt = none ∧ (t.conv n).res = l.sum * 4096 / 2 ^ c.avgLog2 ∧
    (t.conv n).readyAt = some (s.now + dt) ∧ (sarClip l = true → t.get R.ADC_CH_STAT_CLIP n = 1) ∧
    t.get R.ADC_CH_RES_RESULT n = ((l.sum * 4096 / 2 ^ c.avgLog2) % 2 ^ 24).toNat) ∧
  (∀ (dt n b : Nat) (l : List Int) (c : ConvCfg) (s : State), tfind s.man.adc.chs n = some c → (s.conv n).burstAt = some b →
  s.now + dt < b + 2 ^ c.avgLog2 * 200 + 40 → Sys2Proof.Machine.exec (.sarResult dt n l) s = .next (s.advance dt)) ∧
  (∀ (dt : Nat) (d : Rat) (s : State), (decide (2 / 100 < absR d)) ≠ s.adc.refFault →
  ∃ t, Sys2Proof.Machine.exec (.vrefCheck dt d) s = .next t ∧ t.adc.refFault = decide (2 / 100 < absR d) ∧
    t.get R.ADC_STAT_REF_OK = (if 2 / 100 < absR d then 0 else 1) ∧ t.get R.ADC_EVT_REF = 1 ∧
    Framed (regKeys 0 [R.ADC_STAT_REF_OK, R.ADC_EVT_REF]) { s.advance dt with adc := t.adc } t) ∧
  (∀ (dt : Nat) (d : Rat) (s : State), (decide (2 / 100 < absR d)) = s.adc.refFault →
  ∃ t, Sys2Proof.Machine.exec (.vrefCheck dt d) s = .next t ∧ t.get R.ADC_STAT_REF_OK = (if 2 / 100 < absR d then 0 else 1) ∧
    Framed [loc R.ADC_STAT_REF_OK 0] (s.advance dt) t)

/-- An Operator pauses and resumes a poll list; a pause takes effect after the transaction in progress (R299). -/
def Obligations.HartPauses : Prop :=
  (∀ (dt d m : Nat) (p : Port) (s : State), s.session p = some .operator → m = s.get R.CLP_HART_SEL_MODEM → (s.hart m).tx = none →
  ∃ t, Sys2Proof.Machine.exec (.hartPause dt p) s = .next t ∧ t.get R.CLP_HART_STAT_PAUSED m = 1 ∧ t.clp = s.clp ∧
    (match Sys2Proof.Machine.exec (.hartPollDue d m) t with | .next u => decide (u = t.advance d) | _ => false) = true) ∧
  (∀ (dt m : Nat) (p : Port) (k : HartTx) (s : State), s.session p = some .operator → m = s.get R.CLP_HART_SEL_MODEM → (s.hart m).tx = some k →
  ∃ t, Sys2Proof.Machine.exec (.hartPause dt p) s = .next t ∧ t.get R.CLP_HART_STAT_PAUSED m = s.get R.CLP_HART_STAT_PAUSED m ∧
    t.hart m = { s.hart m with pauseDue := true }) ∧
  (∀ (dt m : Nat) (r : HartReply) (x : HartCfg) (k : HartTx) (s : State), tfind s.man.clp.modems m = some x → (s.hart m).tx = some k →
  ∃ t, Sys2Proof.Machine.exec (.hartReply dt m r) s = .next t ∧ (t.hart m).tx = none ∧ (t.hart m).pauseDue = false ∧
    t.get R.CLP_HART_STAT_PAUSED m = (if (s.hart m).pauseDue then 1 else s.get R.CLP_HART_STAT_PAUSED m) ∧ t.get R.CLP_HART_STAT_BUSY m = 0) ∧
  (∀ (dt m : Nat) (x : HartCfg) (k : HartTx) (s : State), tfind s.man.clp.modems m = some x → (s.hart m).tx = some k → x.retries < k.tries →
  ∃ t, Sys2Proof.Machine.exec (.hartRetry dt m) s = .next t ∧ (t.hart m).tx = none ∧ (t.hart m).pauseDue = false ∧
    t.get R.CLP_HART_STAT_PAUSED m = (if (s.hart m).pauseDue then 1 else s.get R.CLP_HART_STAT_PAUSED m) ∧ t.get R.CLP_HART_STAT_BUSY m = 0) ∧
  (∀ (dt m : Nat) (p : Port) (s : State), s.session p = some .operator → m = s.get R.CLP_HART_SEL_MODEM →
  ∃ t, Sys2Proof.Machine.exec (.hartResume dt p) s = .next t ∧ t.get R.CLP_HART_STAT_PAUSED m = 0 ∧ t.hart m = { s.hart m with pauseDue := false }) ∧
  (∀ (dt : Nat) (p : Port) (c : Instr) (s : State), c ∈ [Instr.hartPause dt p, .hartResume dt p] → s.session p ≠ some .operator →
  ∃ t, Sys2Proof.Machine.exec c s = .next t ∧ t.clp = s.clp ∧ t.role = s.role ∧
    t.get R.CLP_HART_STAT_PAUSED (s.get R.CLP_HART_SEL_MODEM) = s.get R.CLP_HART_STAT_PAUSED (s.get R.CLP_HART_SEL_MODEM))

/-- Poll lists, replies, retries and identification on the HART modems (R297, R298, R300). -/
def Obligations.HartTransactions : Prop :=
  (∀ (dt m : Nat) (x : HartCfg) (a : Nat × Nat) (s : State), tfind s.man.clp.modems m = some x → (s.hart m).tx = none →
  s.get R.CLP_HART_STAT_PAUSED m = 0 → x.mode ≠ 0 → s.hartRuns = true → x.addrs.find? (fun b => b.1 ∉ (s.hart m).asked) = some a →
  ∃ t, Sys2Proof.Machine.exec (.hartPollDue dt m) s = .next t ∧ (t.hart m).tx = some { addr := a.1, cmd := 0, entry := none } ∧
    (t.hart m).asked = a.1 :: (s.hart m).asked ∧ t.get R.CLP_HART_STAT_BUSY m = 1 ∧ t.get R.CLP_HART_STAT_LAST_ADDR m = a.1 % 64 ∧
    t.get R.CLP_HART_STAT_LAST_CMD m = 0 ∧
    Framed (regKeys m [R.CLP_HART_STAT_BUSY, R.CLP_HART_STAT_LAST_ADDR, R.CLP_HART_STAT_LAST_CMD]) { s.advance dt with clp := t.clp } t) ∧
  (∀ (dt m i : Nat) (x : HartCfg) (e : HartPoll) (s : State), tfind s.man.clp.modems m = some x → (s.hart m).tx = none →
  s.get R.CLP_HART_STAT_PAUSED m = 0 → x.mode ≠ 0 → s.hartRuns = true → x.addrs.find? (fun b => b.1 ∉ (s.hart m).asked) = none →
  hartDue (s.hart m) (s.now + dt) x.polls 0 = some (i, e) →
  ∃ t, Sys2Proof.Machine.exec (.hartPollDue dt m) s = .next t ∧ (t.hart m).tx = some { addr := e.addr, cmd := e.cmd, entry := some i } ∧
    tfind (t.hart m).lastAt i = some (s.now + dt) ∧ t.get R.CLP_HART_STAT_BUSY m = 1 ∧ t.get R.CLP_HART_STAT_LAST_CMD m = e.cmd % 256) ∧
  (∀ (dt m : Nat) (x : HartCfg) (s : State), tfind s.man.clp.modems m = some x →
  ((s.hart m).tx ≠ none ∨ s.get R.CLP_HART_STAT_PAUSED m = 1 ∨ x.mode = 0 ∨ s.hartRuns = false) →
  Sys2Proof.Machine.exec (.hartPollDue dt m) s = .next (s.advance dt)) ∧
  (∀ (dt m : Nat) (r : HartReply) (x : HartCfg) (k : HartTx) (s : State), tfind s.man.clp.modems m = some x → (s.hart m).tx = some k →
  r.rc ≠ 0 →
  ∃ t, Sys2Proof.Machine.exec (.hartReply dt m r) s = .next t ∧ (t.hart m).tx = none ∧ t.get R.CLP_HART_STAT_LAST_RC m = r.rc % 256 ∧
    t.get R.CLP_HART_CNT_FAILS m = (s.get R.CLP_HART_CNT_FAILS m + 1) % 65536 ∧ t.get R.CLP_HART_CNT_TRANS m = (s.get R.CLP_HART_CNT_TRANS m + 1) % 65536 ∧
    tfind (t.hart m).fails k.addr = some ((tget (s.hart m).fails k.addr 0 + 1) % 2 ^ 64) ∧ t.get R.CLP_EVT_HART_FAIL = 1 ∧ t.pts = s.pts) ∧
  (∀ (dt m : Nat) (r : HartReply) (x : HartCfg) (k : HartTx) (s : State), tfind s.man.clp.modems m = some x → (s.hart m).tx = some k →
  r.rc = 0 → k.entry = none → r.ident = tget x.addrs k.addr 0 →
  ∃ t, Sys2Proof.Machine.exec (.hartReply dt m r) s = .next t ∧ (t.hart m).tx = none ∧ k.addr ∈ (t.hart m).ident ∧ tfind (t.hart m).failed k.addr = none ∧
    t.get R.CLP_HART_CNT_FAILS m = s.get R.CLP_HART_CNT_FAILS m ∧ t.get R.CLP_HART_CNT_TRANS m = (s.get R.CLP_HART_CNT_TRANS m + 1) % 65536) ∧
  (∀ (dt m : Nat) (r : HartReply) (x : HartCfg) (k : HartTx) (s : State), tfind s.man.clp.modems m = some x → (s.hart m).tx = some k →
  r.rc = 0 → k.entry = none → r.ident ≠ tget x.addrs k.addr 0 →
  ∃ t, Sys2Proof.Machine.exec (.hartReply dt m r) s = .next t ∧ (t.hart m).tx = none ∧ k.addr ∉ (t.hart m).ident ∧
    tfind (t.hart m).failed k.addr = some (s.now + dt) ∧ t.get R.CLP_HART_STAT_ID_MISMATCH m = 1) ∧
  (∀ (dt m : Nat) (x : HartCfg) (k : HartTx) (s : State), tfind s.man.clp.modems m = some x → (s.hart m).tx = some k → k.tries ≤ x.retries →
  ∃ t, Sys2Proof.Machine.exec (.hartRetry dt m) s = .next t ∧ t.hart m = { s.hart m with tx := some { k with tries := k.tries + 1 } } ∧
    Framed [] { s.advance dt with clp := t.clp } t) ∧
  (∀ (dt m : Nat) (r : HartReply) (c : Instr) (s : State), c ∈ [Instr.hartReply dt m r, .hartRetry dt m] → (s.hart m).tx = none →
  Sys2Proof.Machine.exec c s = .next (s.advance dt)) ∧
  (∀ (dt m a t₀ : Nat) (x : HartCfg) (s : State), tfind s.man.clp.modems m = some x → tfind (s.hart m).idAt a = some t₀ → (s.hart m).tx = none →
  a ∉ (s.hart m).ident → t₀ + 60000000000 ≤ s.now + dt → s.hartRuns = true →
  ∃ t, Sys2Proof.Machine.exec (.hartIdRetry dt m a) s = .next t ∧ (t.hart m).tx = some { addr := a, cmd := 0, entry := none } ∧
    tfind (t.hart m).idAt a = some (s.now + dt) ∧ t.get R.CLP_HART_STAT_BUSY m = 1) ∧
  (∀ (dt m a t₀ : Nat) (s : State), tfind (s.hart m).idAt a = some t₀ → (a ∈ (s.hart m).ident ∨ s.now + dt < t₀ + 60000000000) →
  Sys2Proof.Machine.exec (.hartIdRetry dt m a) s = .next (s.advance dt))

/-- Source failure, supply steps and compliance of a current loop (R290, R291, R292, R293, R300). -/
def Obligations.CurrentLoops : Prop :=
  (∀ (dt n t₀ : Nat) (x : ClpCfg) (s : State), tfind s.man.clp.chs n = some x → (s.clpCh n).badAt = some t₀ → x.src = 2 → (s.clpCh n).failed = false →
  t₀ + 1000000 * x.failMs ≤ s.now + dt →
  ∃ t, Sys2Proof.Machine.exec (.sourceFailure dt n) s = .next t ∧ t.clpCh n = { s.clpCh n with failed := true } ∧
    t.get R.CLP_CH_STAT_ALARM_CAUSE n = (if x.failAction = 0 ∨ (s.clpCh n).subst = true then s.get R.CLP_CH_STAT_ALARM_CAUSE n else 1) ∧
    Framed [loc R.CLP_CH_STAT_ALARM_CAUSE n, loc R.CLP_CH_STAT_ALARM_HIGH n, loc R.CLP_EVT_ALARM 0] { s.advance dt with clp := t.clp } t) ∧
  (∀ (dt n t₀ : Nat) (x : ClpCfg) (s : State), tfind s.man.clp.chs n = some x → (s.clpCh n).badAt = some t₀ →
  (x.src ≠ 2 ∨ (s.clpCh n).failed = true ∨ s.now + dt < t₀ + 1000000 * x.failMs) → Sys2Proof.Machine.exec (.sourceFailure dt n) s = .next (s.advance dt)) ∧
  (∀ (dt n : Nat) (x : ClpCfg) (s : State), tfind s.man.clp.chs n = some x →
  ∃ t, Sys2Proof.Machine.exec (.supplyStep dt n) s = .next t ∧
    (t.clpCh n).supply = clampTo x.supMin x.supMax ((s.clpCh n).supply + clampTo (-2) 2 (x.headroom - (s.clpCh n).vpt)) ∧
    t.get R.CLP_CH_STAT_SUP_AT_MAX n = (if x.supMax ≤ (t.clpCh n).supply then 1 else 0) ∧
    (s.follows = true → (t.clpCh n).sink = 0) ∧
    Framed (regKeys n [R.CLP_CH_VOLT_SUP_MV, R.CLP_CH_STAT_SUP_AT_MAX]) { s.advance dt with clp := t.clp } t) ∧
  (∀ (dt n : Nat) (c : Instr) (s : State), c ∈ [Instr.sourceFailure dt n, .supplyStep dt n, .complianceSet dt n, .complianceClear dt n, .complianceRestoreCheck dt n] →
  tfind s.man.clp.chs n = none → Sys2Proof.Machine.exec c s = .next (s.advance dt)) ∧
  (∀ (dt n t₀ : Nat) (x : ClpCfg) (s : State), tfind s.man.clp.chs n = some x → (s.clpCh n).condAt = some t₀ → (s.clpCh n).short x = true →
  t₀ + 1000000 * x.compMs ≤ s.now + dt → s.get R.CLP_CH_STAT_COMPLIANCE n = 0 →
  ∃ t, Sys2Proof.Machine.exec (.complianceSet dt n) s = .next t ∧ t.get R.CLP_CH_STAT_COMPLIANCE n = 1 ∧
    ((s.clpCh n).openLoop = true → t.get R.CLP_CH_STAT_OPEN n = 1) ∧ t.get R.CLP_EVT_COMPLIANCE = 1 ∧
    (t.clpCh n).subst = ((s.clpCh n).subst || (x.lowAlarm && x.src ≠ 3)) ∧
    (x.lowAlarm = true → x.src ≠ 3 → t.get R.CLP_CH_STAT_ALARM_CAUSE n = 2 ∧ (s.get R.CLP_CH_STAT_ALARM_CAUSE n ≠ 2 → t.get R.CLP_CH_STAT_ALARM_HIGH n = 0))) ∧
  (∀ (dt n t₀ : Nat) (x : ClpCfg) (s : State), tfind s.man.clp.chs n = some x → (s.clpCh n).condAt = some t₀ →
  ((s.clpCh n).short x = false ∨ s.now + dt < t₀ + 1000000 * x.compMs) → Sys2Proof.Machine.exec (.complianceSet dt n) s = .next (s.advance dt)) ∧
  (∀ (dt n t₀ : Nat) (x : ClpCfg) (s : State), tfind s.man.clp.chs n = some x → (s.clpCh n).clearAt = some t₀ → (s.clpCh n).subst = false →
  s.get R.CLP_CH_STAT_COMPLIANCE n = 1 → t₀ + 1000000 * x.compMs ≤ s.now + dt →
  ∃ t, Sys2Proof.Machine.exec (.complianceClear dt n) s = .next t ∧ t.get R.CLP_CH_STAT_COMPLIANCE n = 0 ∧
    t.get R.CLP_CH_STAT_OPEN n = (if s.get R.CLP_CH_STAT_OPEN n = 1 ∧ (s.advance dt).clpAbsent x (s.clpCh n).openOff = true then 0
      else s.get R.CLP_CH_STAT_OPEN n) ∧
    Framed (regKeys n [R.CLP_CH_STAT_COMPLIANCE, R.CLP_CH_STAT_OPEN]) (s.advance dt) t) ∧
  (∀ (dt n t₀ : Nat) (x : ClpCfg) (s : State), tfind s.man.clp.chs n = some x → (s.clpCh n).clearAt = some t₀ →
  ((s.clpCh n).subst = true ∨ (s.get R.CLP_CH_STAT_OPEN n = 0 ∧
    (s.get R.CLP_CH_STAT_COMPLIANCE n = 0 ∨ s.now + dt < t₀ + 1000000 * x.compMs))) →
  Sys2Proof.Machine.exec (.complianceClear dt n) s = .next (s.advance dt)) ∧
  (∀ (dt n : Nat) (x : ClpCfg) (s : State), tfind s.man.clp.chs n = some x → (s.clpCh n).subst = true → s.tick % 100000 = 0 →
  0 < (s.clpCh n).meas → s.get R.CLP_CH_STAT_OPEN n = 0 →
  x.headroom ≤ x.supMax - (s.clpCh n).req / 1000 * (((s.clpCh n).supply - (s.clpCh n).vpt - (s.clpCh n).meas / 100) / ((s.clpCh n).meas / 1000) + 10) →
  ∃ t, Sys2Proof.Machine.exec (.complianceRestoreCheck dt n) s = .next t ∧ (t.clpCh n).subst = false ∧ t.get R.CLP_CH_STAT_COMPLIANCE n = 0 ∧
    t.get R.CLP_CH_STAT_ALARM_CAUSE n = (if (s.clpCh n).failed ∧ x.failAction ≠ 0 then 1 else 0) ∧
    (t.clpCh n).rl = ((s.clpCh n).supply - (s.clpCh n).vpt - (s.clpCh n).meas / 100) / ((s.clpCh n).meas / 1000)) ∧
  (∀ (dt n : Nat) (x : ClpCfg) (s : State), tfind s.man.clp.chs n = some x →
  ((s.clpCh n).subst = false ∨ s.tick % 100000 ≠ 0 ∨ (s.clpCh n).meas ≤ 0) → Sys2Proof.Machine.exec (.complianceRestoreCheck dt n) s = .next (s.advance dt))

/-- Motor commands from the Installer wait for a frame; those of the machine function act at once (R311, R312, R313, R316, R317,
  R319, R322). -/
def Obligations.MotorCommands : Prop :=
  (∀ (dt n tag : Nat) (arg : Int) (p : Port) (x : Nat × Int × Instr) (c : StepCfg) (s : State), x ∈ stepCmds dt (.host p) n tag arg →
  s.session p = some .installer → s.mode = 2 → s.isActive = true → tfind s.man.step (n % 8) = some c → s.fnState c.fn = 0 →
  ∃ t, Sys2Proof.Machine.exec x.2.2 s = .next t ∧
    t.step = { s.step with cmds := s.step.cmds ++ [{ cmd := x.1, ch := n % 8, tag := tag % 256, arg := x.2.1, port := p, keyId := s.role.keyId, at_ := s.now + dt }] } ∧
    t.get R.STEP_CMD_STAT_RESULT = 1 ∧ t.get R.STEP_CMD_STAT_TAG = tag % 256 ∧ t.get R.STEP_CMD_CMD = x.1 ∧ t.get R.STEP_CMD_CH = n % 8 ∧
    t.role.rwlAt = s.now + dt ∧ Framed (regKeys 0 (lullFlds ++ stepHostFlds)) { s.advance dt with step := t.step, role := t.role, pwr := t.pwr } t) ∧
  (∀ (dt n tag : Nat) (arg : Int) (p : Port) (x : Nat × Int × Instr) (s : State), x ∈ stepCmds dt (.host p) n tag arg →
  s.session p = some .installer → s.isActive = true → s.mode ∈ [3, 4, 5] →
  ∃ t, Sys2Proof.Machine.exec x.2.2 s = .next t ∧ t.step = s.step ∧ t.get R.STEP_CMD_STAT_RESULT = 4 ∧ t.get R.STEP_EVT_CMD_REFUSED = 1) ∧
  (∀ (dt n tag : Nat) (arg : Int) (p : Port) (x : Nat × Int × Instr) (c : StepCfg) (s : State), x ∈ stepCmds dt (.host p) n tag arg →
  s.session p = some .installer → s.mode = 2 → s.isActive = true → tfind s.man.step (n % 8) = some c → s.fnState c.fn ≠ 0 →
  ∃ t, Sys2Proof.Machine.exec x.2.2 s = .next t ∧ t.step = s.step ∧ t.get R.STEP_CMD_STAT_RESULT = 5 ∧ t.get R.STEP_EVT_CMD_REFUSED = 1) ∧
  (∀ (dt n tag : Nat) (arg : Int) (p : Port) (x : Nat × Int × Instr) (s : State), x ∈ stepCmds dt (.host p) n tag arg →
  s.session p = some .installer → s.isActive = false → s.mode ≠ 1 →
  ∃ t, Sys2Proof.Machine.exec x.2.2 s = .next t ∧ t.step = s.step ∧ t.get R.STEP_CMD_STAT_RESULT = 7 ∧ t.get R.STEP_EVT_CMD_REFUSED = 1) ∧
  (∀ (dt n tag : Nat) (arg : Int) (p : Port) (x : Nat × Int × Instr) (s : State), x ∈ stepCmds dt (.host p) n tag arg →
  s.session p ≠ some .installer → ∃ t, Sys2Proof.Machine.exec x.2.2 s = .next t ∧ t.step = s.step ∧ t.role = s.role) ∧
  (∀ (dt n tag i : Nat) (arg : Int) (x : StepCfg) (s : State), tfind s.man.step n = some x → x.cmd = some i → 2 ≤ s.mode → s.mode ≤ 4 →
  s.stepState n ∈ [0, 1] → x.requireHome = false → (s.stepCh n).stopTick ≠ some s.tick →
  x.posMin ≤ (match x.target with | some j => ((s.advance dt).ptRead j).1.floor | none => 0) →
  (match x.target with | some j => ((s.advance dt).ptRead j).1.floor | none => 0) ≤ x.posMax →
  ∃ t, Sys2Proof.Machine.exec (.stepMove dt (.point i) n tag arg) s = .next t ∧ t.stepState n = 2 ∧ (t.stepCh n).kind = 1 ∧ (t.stepCh n).byPoint = true ∧
    (t.stepCh n).target = (match x.target with | some j => ((s.advance dt).ptRead j).1.floor | none => 0) ∧ (t.stepCh n).pos = (s.stepCh n).pos ∧
    (t.stepCh n).rampAt = (if s.stepState n = 0 then some (s.now + dt) else (s.stepCh n).rampAt)) ∧
  (∀ (dt n tag i : Nat) (arg : Int) (x : StepCfg) (s : State), tfind s.man.step n = some x → x.cmd = some i → 2 ≤ s.mode → s.mode ≤ 4 →
  s.stepState n ∈ [0, 1] → x.requireHome = false → (s.stepCh n).stopTick ≠ some s.tick →
  ∃ t, Sys2Proof.Machine.exec (.stepVelocity dt (.point i) n tag arg) s = .next t ∧ t.stepState n = 2 ∧ (t.stepCh n).kind = 2 ∧ (t.stepCh n).byPoint = true ∧
    ((t.stepCh n).speed < 0 → (t.stepCh n).target = x.posMin) ∧ (0 ≤ (t.stepCh n).speed → (t.stepCh n).target = x.posMax) ∧
    (t.stepCh n).pos = (s.stepCh n).pos) ∧
  (∀ (dt n tag i : Nat) (x : StepCfg) (s : State), tfind s.man.step n = some x → x.cmd = some i → 2 ≤ s.mode → s.mode ≤ 4 →
  s.stepState n ∈ [2, 4] →
  ∃ t, Sys2Proof.Machine.exec (.stepHalt dt (.point i) n tag) s = .next t ∧ t.stepState n = 3 ∧ t.get R.STEP_CH_STAT_HOME_PHASE n = 0 ∧ t.step = s.step ∧
    Framed (regKeys n [R.STEP_CH_STAT_STATE, R.STEP_CH_STAT_HOME_PHASE]) (s.advance dt) t) ∧
  (∀ (dt n tag i : Nat) (x : StepCfg) (s : State), tfind s.man.step n = some x → x.cmd = some i → 2 ≤ s.mode → s.mode ≤ 4 →
  s.stepState n ≠ 5 →
  ∃ t, Sys2Proof.Machine.exec (.stepStop dt (.point i) n tag) s = .next t ∧ t.stepState n = 0 ∧ (t.stepCh n).v = 0 ∧ (t.stepCh n).amp = 0 ∧
    (t.stepCh n).coilA.bridge = 0 ∧ (t.stepCh n).coilB.bridge = 0 ∧ (t.stepCh n).stopTick = some s.tick ∧
    t.get R.STEP_CH_STAT_POS_LOST n = 1 ∧ t.get R.STEP_CH_STAT_HOMED n = 0) ∧
  (∀ (dt n tag i : Nat) (x : StepCfg) (s : State), tfind s.man.step n = some x → x.cmd = some i → 2 ≤ s.mode → s.mode ≤ 4 →
  s.stepState n ∈ [0, 1] → (s.stepCh n).stopTick ≠ some s.tick →
  ∃ t, Sys2Proof.Machine.exec (.stepHome dt (.point i) n tag) s = .next t ∧ t.stepState n = 4 ∧ t.get R.STEP_CH_STAT_HOME_PHASE n = 1 ∧
    (t.stepCh n).seekFrom = (s.stepCh n).pos / p32 ∧ (t.stepCh n).chatter = 0 ∧ (t.stepCh n).pos = (s.stepCh n).pos) ∧
  (∀ (dt n tag i : Nat) (x : StepCfg) (s : State), tfind s.man.step n = some x → x.cmd = some i → 2 ≤ s.mode → s.mode ≤ 4 →
  s.stepState n = 5 →
  ∃ t, Sys2Proof.Machine.exec (.stepReset dt (.point i) n tag) s = .next t ∧ t.stepState n = 0 ∧ t.get R.STEP_CH_STAT_CAUSE n = 0 ∧ t.step = s.step ∧
    (s.get R.STEP_CH_STAT_STALL n = 1 → t.get R.STEP_CH_STAT_STALL n = 0) ∧
    Framed (regKeys n [R.STEP_CH_STAT_STATE, R.STEP_CH_STAT_CAUSE, R.STEP_CH_STAT_STALL]) (s.advance dt) t) ∧
  (∀ (dt n tag i : Nat) (arg : Int) (y : Nat × Int × Instr) (x : StepCfg) (s : State), y ∈ stepCmds dt (.point i) n tag arg →
  tfind s.man.step n = some x → x.cmd ≠ some i → Sys2Proof.Machine.exec y.2.2 s = .next (s.advance dt))

/-- The generator's update, the chopper's crossings, coil faults, switches and homing (R306, R307, R309, R314, R318, R319,
  R320). -/
def Obligations.MotorDrive : Prop :=
  (∀ (dt n : Nat) (w : List (Nat × SwLevels)) (a : List (Nat × Nat)) (x : StepCfg) (s : State), 2 ≤ s.mode → (s.man.step.map (·.1)).Nodup →
  tfind s.man.step n = some x → s.stepState n ∈ [0, 1, 5] →
  ∃ t, Sys2Proof.Machine.exec (.generatorUpdate dt w a) s = .next t ∧ (t.stepCh n).pos = (s.stepCh n).pos ∧ (t.stepCh n).v = (s.stepCh n).v ∧
    (t.stepCh n).sw = (tfind w n).getD (s.stepCh n).sw ∧ t.stepState n = s.stepState n ∧ t.mode = s.mode) ∧
  (∀ (dt n : Nat) (w : List (Nat × SwLevels)) (a : List (Nat × Nat)) (x : StepCfg) (s : State), 2 ≤ s.mode → (s.man.step.map (·.1)).Nodup →
  tfind s.man.step n = some x → s.stepState n = 2 → (s.stepCh n).rampAt = none → (s.stepCh n).pos = (s.stepCh n).target * p32 →
  (s.stepCh n).v = 0 → (s.stepCh n).a = 0 → 0 < (s.stepCh n).scale → 0 < x.dMax → 0 < x.laVmin → tfind a n = none → s.get R.STEP_CH_STAT_DEC_RAISED n = 0 →
  ∃ t, Sys2Proof.Machine.exec (.generatorUpdate dt w a) s = .next t ∧ (t.stepCh n).pos = (s.stepCh n).target * p32 ∧ (t.stepCh n).v = 0 ∧
    t.stepState n = 1 ∧ (t.stepCh n).idle = true ∧ (t.stepCh n).restAt = s.now + dt ∧ (t.stepCh n).amp = x.iRunMax) ∧
  (∀ (dt n : Nat) (w : List (Nat × SwLevels)) (a : List (Nat × Nat)) (s : State), (s.mode < 2 ∨ s.man.step = []) →
  Sys2Proof.Machine.exec (.generatorUpdate dt w a) s = .next (s.advance dt)) ∧
  (∀ (dt n k cyc : Nat) (h : Bool) (x : StepCfg) (s : State), tfind s.man.step n = some x → ((s.stepCh n).coil k).bridge ≠ 0 →
  ((s.stepCh n).coil k).drive = h → 2 * x.blankNs ≤ 5 * cyc →
  ∃ t, Sys2Proof.Machine.exec (.chopperCrossing dt n k h cyc) s = .next t ∧ ((t.stepCh n).coil k).drive = !h ∧
    ((t.stepCh n).coil k).bridge = (if h then decayState x ((s.stepCh n).ref k) else driveState ((s.stepCh n).ref k)) ∧
    (h = true → ((t.stepCh n).coil k).tOn = cyc) ∧ (h = false → ((t.stepCh n).coil k).driveAt = s.now + dt) ∧
    (t.stepCh n).pos = (s.stepCh n).pos ∧ t.stepState n = s.stepState n) ∧
  (∀ (dt n k cyc : Nat) (h : Bool) (x : StepCfg) (s : State), tfind s.man.step n = some x → ((s.stepCh n).coil k).bridge ≠ 0 →
  ((s.stepCh n).coil k).drive = h → 5 * cyc < 2 * x.blankNs →
  ∃ t, Sys2Proof.Machine.exec (.chopperCrossing dt n k h cyc) s = .next t ∧ ((t.stepCh n).coil k).drive = h ∧
    ((t.stepCh n).coil k).bridge = ((s.stepCh n).coil k).bridge ∧
    ((t.stepCh n).coil k).shorts = ((s.stepCh n).coil k).shorts + (if h ∧ ((s.stepCh n).coil k).early = false then 1 else 0)) ∧
  (∀ (dt n k : Nat) (x : StepCfg) (s : State), tfind s.man.step n = some x → ((s.stepCh n).coil k).drive = true → ((s.stepCh n).coil k).bridge ≠ 0 →
  ((s.stepCh n).coil k).driveAt + 1000 * x.tOnUs ≤ s.now + dt → x.iRunMax / 10 ≤ absR ((s.stepCh n).ref k) → s.stepState n ≠ 5 →
  ∃ t, Sys2Proof.Machine.exec (.openCoil dt n k) s = .next t ∧ t.stepState n = 5 ∧ t.get R.STEP_CH_STAT_CAUSE n = 1 ∧ (t.stepCh n).amp = 0 ∧
    (t.stepCh n).coilA.bridge = 0 ∧ (t.stepCh n).coilB.bridge = 0 ∧ t.get R.STEP_EVT_FAULT = 1 ∧ t.get R.STEP_CH_STAT_POS_LOST n = 1) ∧
  (∀ (dt n k : Nat) (x : StepCfg) (s : State), tfind s.man.step n = some x → 3 ≤ ((s.stepCh n).coil k).shorts → s.stepState n ≠ 5 →
  ∃ t, Sys2Proof.Machine.exec (.shortCoil dt n k) s = .next t ∧ t.stepState n = 5 ∧ t.get R.STEP_CH_STAT_CAUSE n = 2 ∧ (t.stepCh n).amp = 0 ∧
    (t.stepCh n).coilA.bridge = 0 ∧ (t.stepCh n).coilB.bridge = 0 ∧ t.get R.STEP_EVT_FAULT = 1 ∧ t.get R.STEP_CH_STAT_POS_LOST n = 1) ∧
  (∀ (dt n k : Nat) (c : Instr) (s : State), c ∈ [Instr.openCoil dt n k, .shortCoil dt n k] → ((s.stepCh n).coil k).drive = false →
  ((s.stepCh n).coil k).shorts < 3 → Sys2Proof.Machine.exec c s = .next (s.advance dt)) ∧
  (∀ (dt n : Nat) (x : StepCfg) (s : State), tfind s.man.step n = some x → s.stepState n = 1 → (s.stepCh n).idle = true →
  (s.stepCh n).restAt + 1000000 * x.holdMs ≤ s.now + dt →
  ∃ t, Sys2Proof.Machine.exec (.holdCurrentReduce dt n) s = .next t ∧ t.stepCh n = { s.stepCh n with amp := x.iHold, idle := false } ∧
    t.get R.STEP_CH_STAT_AT_CEILING n = 0 ∧
    Framed (regKeys n [R.STEP_CH_STAT_AT_CEILING, R.STEP_CH_CUR_I_AMP]) { s.advance dt with step := t.step } t) ∧
  (∀ (dt n : Nat) (x : StepCfg) (s : State), tfind s.man.step n = some x →
  (s.stepState n ≠ 1 ∨ (s.stepCh n).idle = false ∨ s.now + dt < (s.stepCh n).restAt + 1000000 * x.holdMs) →
  Sys2Proof.Machine.exec (.holdCurrentReduce dt n) s = .next (s.advance dt)) ∧
  (∀ (dt n : Nat) (p : Bool) (x : StepCfg) (s : State), tfind s.man.step n = some x → s.stepState n ∈ [0, 1, 5] →
  (if p then (s.stepCh n).posAt else (s.stepCh n).negAt) + 1000 * x.limDebUs ≤ s.now + dt →
  ∃ t, Sys2Proof.Machine.exec (.limitSwitchDebounced dt n p) s = .next t ∧
    t.get (if p then R.STEP_CH_STAT_LIM_POS else R.STEP_CH_STAT_LIM_NEG) n = (if (if p then (s.stepCh n).sw.pos else (s.stepCh n).sw.neg) then 1 else 0) ∧
    Framed (regKeys n [if p then R.STEP_CH_STAT_LIM_POS else R.STEP_CH_STAT_LIM_NEG]) (s.advance dt) t) ∧
  (∀ (dt n : Nat) (x : StepCfg) (s : State), tfind s.man.step n = some x → s.stepState n = 2 → 0 < (s.stepCh n).v → (s.stepCh n).sw.pos = true →
  (s.stepCh n).posAt + 1000 * x.limDebUs ≤ s.now + dt →
  ∃ t, Sys2Proof.Machine.exec (.limitSwitchDebounced dt n true) s = .next t ∧ t.get R.STEP_CH_STAT_LIM_POS n = 1 ∧ t.stepState n = 5 ∧
    t.get R.STEP_CH_STAT_CAUSE n = 4 ∧ (t.stepCh n).v = 0) ∧
  (∀ (dt n : Nat) (x : StepCfg) (s : State), tfind s.man.step n = some x → (s.stepCh n).homeAt + 1000 * x.homeDebUs ≤ s.now + dt →
  s.stepState n = 4 → s.get R.STEP_CH_STAT_HOME_PHASE n = 1 → homeLevel x (s.stepCh n).sw = true → s.get R.STEP_CH_STAT_HOME_IN n = 0 →
  ∃ t, Sys2Proof.Machine.exec (.homeSwitchDebounced dt n) s = .next t ∧ t.get R.STEP_CH_STAT_HOME_IN n = 1 ∧ t.get R.STEP_CH_STAT_HOME_PHASE n = 2 ∧
    t.stepCh n = { s.stepCh n with latch := (s.stepCh n).homePosAt, chatter := 0 } ∧
    Framed (regKeys n [R.STEP_CH_STAT_HOME_IN, R.STEP_CH_STAT_HOME_PHASE, R.STEP_CH_LATCH_USTEP]) { s.advance dt with step := t.step } t) ∧
  (∀ (dt n : Nat) (x : StepCfg) (s : State), tfind s.man.step n = some x → s.now + dt < (s.stepCh n).homeAt + 1000 * x.homeDebUs →
  Sys2Proof.Machine.exec (.homeSwitchDebounced dt n) s = .next (s.advance dt)) ∧
  (∀ (dt n : Nat) (x : StepCfg) (s : State), tfind s.man.step n = some x → s.stepState n = 4 → s.get R.STEP_CH_STAT_HOME_PHASE n = 3 →
  (s.stepCh n).v = 0 → (s.stepCh n).pos = ((s.stepCh n).latch - (if x.homePosDir then 1 else -1) * x.backoff) * p32 →
  homeLevel x (s.stepCh n).sw = false →
  ∃ t, Sys2Proof.Machine.exec (.homingBackoffDone dt n) s = .next t ∧ t.stepState n = 1 ∧ t.get R.STEP_CH_STAT_HOMED n = 1 ∧ t.get R.STEP_CH_STAT_POS_LOST n = 0 ∧
    t.get R.STEP_CH_STAT_HOME_PHASE n = 0 ∧ (t.stepCh n).pos = (x.homePos - (if x.homePosDir then 1 else -1) * x.backoff) * p32 ∧
    t.get R.STEP_EVT_HOMED = 1) ∧
  (∀ (dt n : Nat) (x : StepCfg) (s : State), tfind s.man.step n = some x → s.stepState n = 4 → s.get R.STEP_CH_STAT_HOME_PHASE n = 3 →
  (s.stepCh n).v = 0 → (s.stepCh n).pos = ((s.stepCh n).latch - (if x.homePosDir then 1 else -1) * x.backoff) * p32 →
  homeLevel x (s.stepCh n).sw = true →
  ∃ t, Sys2Proof.Machine.exec (.homingBackoffDone dt n) s = .next t ∧ t.stepState n = 5 ∧ t.get R.STEP_CH_STAT_CAUSE n = 7) ∧
  (∀ (dt n : Nat) (s : State), (tfind s.man.step n = none ∨ s.stepState n ≠ 4) → Sys2Proof.Machine.exec (.homingBackoffDone dt n) s = .next (s.advance dt))

/-- Every fault of the safety island ends in lock-out with its cause, with every output off (R328, R329, R331, R332, R340, R342,
  R343, R346). -/
def Obligations.IslandFaults : Prop :=
  (∀ (dt : Nat) (x : Nat × Instr) (s : State), x ∈ islFaultCmds dt → s.isl.present = true →
  ∃ t, Sys2Proof.Machine.exec x.2 s = .next t ∧ LockedOut x.1 0xFF s t ∧ t.mode = s.mode) ∧
  (∀ (dt : Nat) (s : State), s.isl.present = true →
  ∃ t, Sys2Proof.Machine.exec (.islandLockstepMismatch dt) s = .next t ∧ LockedOut 5 0xFF s t ∧ t.get R.DEV_FAULT_CAUSE = 2 ∧ t.get R.DEV_EVT_FAULT = 1) ∧
  (∀ (dt c : Nat) (s : State), s.isl.present = true → s.man.safety.given = true → c ≠ s.man.safety.crc →
  ∃ t, Sys2Proof.Machine.exec (.paramCrcRecheck dt c) s = .next t ∧ LockedOut 4 0xFF s t) ∧
  (∀ (dt : Nat) (s : State), Sys2Proof.Machine.exec (.paramCrcRecheck dt s.man.safety.crc) s = .next (s.advance dt)) ∧
  (∀ (dt n t₀ : Nat) (c : SafeInCfg) (s : State), s.isl.present = true → (s.islIn n).discAt = some t₀ → tfind s.man.safety.ins n = some c →
  t₀ + c.discMs * 1000000 ≤ s.now + dt → ∃ t, Sys2Proof.Machine.exec (.inputDiscrepancy dt n) s = .next t ∧ LockedOut 9 n s t) ∧
  (∀ (dt n t₀ : Nat) (c : SafeInCfg) (s : State), (s.islIn n).discAt = some t₀ → tfind s.man.safety.ins n = some c →
  s.now + dt < t₀ + c.discMs * 1000000 → Sys2Proof.Machine.exec (.inputDiscrepancy dt n) s = .next (s.advance dt)) ∧
  (∀ (dt n us : Nat) (b : Bool) (c : SafeOutCfg) (s : State), s.isl.present = true → tfind s.man.safety.outs n = some c → 50 ≤ us →
  ∃ t, Sys2Proof.Machine.exec (.readbackFault dt n b us) s = .next t ∧ LockedOut 0xA n s t ∧
    (b = true → t.isl.rbA = s.isl.rbA) ∧ (b = false → t.isl.rbB = s.isl.rbB)) ∧
  (∀ (dt n us : Nat) (b : Bool) (s : State), us < 50 → Sys2Proof.Machine.exec (.readbackFault dt n b us) s = .next (s.advance dt)) ∧
  (∀ (dt n : Nat) (b : Bool) (s : State), s.isl.present = true → 120 ≤ (if b then (s.islOut n).deferB else (s.islOut n).deferA) →
  ∃ t, Sys2Proof.Machine.exec (.testStarved dt n b) s = .next t ∧ LockedOut 0xC n s t) ∧
  (∀ (dt n : Nat) (b : Bool) (s : State), (if b then (s.islOut n).deferB else (s.islOut n).deferA) < 120 →
  Sys2Proof.Machine.exec (.testStarved dt n b) s = .next (s.advance dt)) ∧
  (∀ (dt n e t₀ : Nat) (c : SafeOutCfg) (s : State), s.isl.present = true → tfind s.man.safety.outs n = some c → c.edm = some e →
  (s.islOut n).switchedAt = some t₀ → t₀ + c.edmMs * 1000000 ≤ s.now + dt → s.isl.edm.testBit e = (s.islOut n).on →
  ∃ t, Sys2Proof.Machine.exec (.edmFault dt n) s = .next t ∧ LockedOut 0xD e s t) ∧
  (∀ (dt n e t₀ : Nat) (c : SafeOutCfg) (s : State), tfind s.man.safety.outs n = some c → c.edm = some e →
  (s.islOut n).switchedAt = some t₀ → (s.now + dt < t₀ + c.edmMs * 1000000 ∨ s.isl.edm.testBit e ≠ (s.islOut n).on) →
  Sys2Proof.Machine.exec (.edmFault dt n) s = .next (s.advance dt)) ∧
  (∀ (dt n t₀ : Nat) (c : AxisCfg) (s : State), s.isl.present = true → (s.islAx n).diffAt = some t₀ → tfind s.man.safety.axes n = some c →
  t₀ + c.diffMs * 1000000 ≤ s.now + dt → ∃ t, Sys2Proof.Machine.exec (.axisDiscrepancy dt n) s = .next t ∧ LockedOut 0xE n s t) ∧
  (∀ (dt n : Nat) (s : State), (s.islAx n).diffAt = none → Sys2Proof.Machine.exec (.axisDiscrepancy dt n) s = .next (s.advance dt)) ∧
  (∀ (dt n : Nat) (c : AxisCfg) (s : State), s.isl.present = true → tfind s.man.safety.axes n = some c →
  ∃ t, Sys2Proof.Machine.exec (.safetyEncoderError dt n) s = .next t ∧ LockedOut 0xF n s t ∧ t.islAx n = { s.islAx n with errAt := some (s.now + dt) }) ∧
  (∀ (dt n m : Nat) (b l : Bool) (z : List (Nat × Int)) (c : Instr) (s : State), c ∈ islCmds dt n m b l z → s.isl.present = false →
  Sys2Proof.Machine.exec c s = .next (s.advance dt))

/-- Safe inputs, the island cycle, test pulses and the off-check (R327, R329, R330, R337, R339, R340, R341, R342). -/
def Obligations.IslandCycles : Prop :=
  (∀ (dt n e a b : Nat) (z : List (Nat × Int)) (c : SafeOutCfg) (s : State), s.isl.present = true → (s.man.safety.outs.map (·.1)).Nodup →
  tfind s.man.safety.outs n = some c →
  ∃ t, Sys2Proof.Machine.exec (.islandCycle dt z e a b) s = .next t ∧ (t.islOut n).on = ((s.islOut n).demand && s.islState = 2) ∧
    ((t.islOut n).demand, (t.islOut n).reason) = t.islDemand n c ∧ t.get R.SAFE_EDM_RELEASED = e % 256 ∧ t.get R.SAFE_RB_RB_A = a % 4096 ∧
    t.get R.SAFE_RB_RB_B = b % 4096 ∧ t.isl.edm = e % 256 ∧ t.get R.SAFE_PERMIT_PERMIT = t.permits % 4096 ∧ t.islState = s.islState ∧
    t.mode = s.mode ∧ t.isl.causes = s.isl.causes) ∧
  (∀ (dt n : Nat) (b l : Bool) (c : SafeInCfg) (s : State), s.isl.present = true → tfind s.man.safety.ins n = some c → n < 16 →
  ∃ t, Sys2Proof.Machine.exec (.safeInputChange dt n b l) s = .next t ∧ (if b then (t.islIn n).b else (t.islIn n).a) = some l ∧
    (if b then (t.islIn n).a = (s.islIn n).a else (t.islIn n).b = (s.islIn n).b) ∧ (t.get R.SAFE_IN_CLOSED).testBit n = t.inClosed n ∧
    (t.get R.SAFE_IN_DISC).testBit n = t.inDisc n ∧ ((t.islIn n).discAt.isSome = t.inDisc n) ∧
    (s.inClosed n = true → t.inClosed n = false → c.kind = 0 →
      (s.man.safety.outs.all fun o => !(n ∈ o.2.mapIn && decide (o.1 < 12)) || (t.get R.SAFE_OUT_WAIT).testBit o.1) = true) ∧
    ((s.inClosed n = false ∨ 2 ≤ c.kind) → t.get R.SAFE_OUT_WAIT = s.get R.SAFE_OUT_WAIT) ∧ t.isl.outs = s.isl.outs) ∧
  (∀ (dt n : Nat) (b f : Bool) (c : SafeOutCfg) (s : State), s.isl.present = true → s.islState = 2 → tfind s.man.safety.outs n = some c →
  (s.islOut n).chA = true → (s.islOut n).chB = true → f = false → (s.advance dt).islPending n c = false →
  ∃ t, Sys2Proof.Machine.exec (.testPulseStart dt n b f) s = .next t ∧ (t.islOut n).test = some (b, s.now + dt) ∧ (t.islOut n).chA = b ∧ (t.islOut n).chB = !b ∧
    (t.islOut n).on = (s.islOut n).on ∧ (if b then (t.islOut n).dueB else (t.islOut n).dueA) = true ∧ Framed [] { s.advance dt with isl := t.isl } t) ∧
  (∀ (dt n : Nat) (b f : Bool) (c : SafeOutCfg) (s : State), s.isl.present = true → s.islState = 2 → tfind s.man.safety.outs n = some c →
  (s.islOut n).chA = true → (s.islOut n).chB = true → (f = true ∨ (s.advance dt).islPending n c = true) →
  ∃ t, Sys2Proof.Machine.exec (.testPulseStart dt n b f) s = .next t ∧ (t.islOut n).test = (s.islOut n).test ∧ (t.islOut n).chA = true ∧ (t.islOut n).chB = true ∧
    (if b then (t.islOut n).deferB = (s.islOut n).deferB + 1 else (t.islOut n).deferA = (s.islOut n).deferA + 1) ∧ t.get R.SAFE_EVT_TEST_DEFER = 1 ∧
    Framed (regKeys 0 [R.SAFE_TEST_DEFER_MAX, R.SAFE_EVT_TEST_DEFER]) { s.advance dt with isl := t.isl } t) ∧
  (∀ (dt n t₀ : Nat) (b : Bool) (s : State), (s.islOut n).test = some (b, t₀) → t₀ + 300000 ≤ s.now + dt →
  ∃ t, Sys2Proof.Machine.exec (.testPulseEnd dt n b) s = .next t ∧ t.islOut n = { s.islOut n with test := none, chA := (s.islOut n).on, chB := (s.islOut n).on } ∧
    Framed [] { s.advance dt with isl := t.isl } t) ∧
  (∀ (dt n t₀ : Nat) (b x : Bool) (s : State), (s.islOut n).test = some (b, t₀) → (b ≠ x ∨ s.now + dt < t₀ + 300000) →
  Sys2Proof.Machine.exec (.testPulseEnd dt n x) s = .next (s.advance dt)) ∧
  (∀ (dt n us t₀ : Nat) (b : Bool) (s : State), (s.islOut n).test = some (b, t₀) → (if b then (s.islOut n).dueB else (s.islOut n).dueA) = true → us ≤ 200 →
  ∃ t, Sys2Proof.Machine.exec (.testOffCheck dt n b us) s = .next t ∧ t.get R.SAFE_TEST_LAST_OUT = n % 16 ∧ t.get R.SAFE_TEST_LAST_CH = (if b then 1 else 0) ∧
    t.get R.SAFE_TEST_LAST_OK = 1 ∧ t.get R.SAFE_TEST_TESTS = (s.get R.SAFE_TEST_TESTS + 1) % 65536 ∧
    (if b then (t.islOut n).deferB else (t.islOut n).deferA) = 0 ∧ (if b then t.isl.rbB else t.isl.rbA).testBit n = false ∧
    t.islState = s.islState ∧ (if b then (t.islOut n).dueB else (t.islOut n).dueA) = false) ∧
  (∀ (dt n us t₀ : Nat) (b : Bool) (s : State), s.isl.present = true → (s.islOut n).test = some (b, t₀) →
  (if b then (s.islOut n).dueB else (s.islOut n).dueA) = true → 200 < us →
  ∃ t, Sys2Proof.Machine.exec (.testOffCheck dt n b us) s = .next t ∧ LockedOut 0xB n s t ∧ t.get R.SAFE_TEST_LAST_OK = 0 ∧
    t.get R.SAFE_TEST_TESTS = s.get R.SAFE_TEST_TESTS) ∧
  (∀ (dt n us : Nat) (b : Bool) (s : State), (if b then (s.islOut n).dueB else (s.islOut n).dueA) = false →
  Sys2Proof.Machine.exec (.testOffCheck dt n b us) s = .next (s.advance dt))

/-- The safety reset, referencing, the check value, off requests and the permit mailbox (R334, R343, R344, R347, R348). -/
def Obligations.IslandCommands : Prop :=
  (∀ (dt ms : Nat) (s : State), s.isl.present = true → s.isl.stuck = false → 250 ≤ ms → ms ≤ 3000 → s.islState = 3 →
  (s.advance dt).causesLeft = 0 →
  ∃ t, Sys2Proof.Machine.exec (.safeResetPress dt ms) s = .next t ∧ t.islState = 2 ∧ t.isl.causes = [] ∧ t.get R.SAFE_STAT_CAUSE = 0 ∧
    t.get R.SAFE_RESET_ACCEPTED = (s.get R.SAFE_RESET_ACCEPTED + 1) % 65536 ∧ t.get R.SAFE_EVT_RUN = 1 ∧
    t.get R.SAFE_RESET_REFUSED = s.get R.SAFE_RESET_REFUSED ∧ t.isl.outs = s.isl.outs) ∧
  (∀ (dt ms : Nat) (s : State), s.isl.present = true → s.isl.stuck = false → 250 ≤ ms → ms ≤ 3000 → s.islState = 3 →
  (s.advance dt).causesLeft ≠ 0 →
  ∃ t, Sys2Proof.Machine.exec (.safeResetPress dt ms) s = .next t ∧ t.islState = 3 ∧ t.isl = s.isl ∧
    t.get R.SAFE_RESET_REFUSED = min 255 (s.get R.SAFE_RESET_REFUSED + 1) ∧ t.get R.SAFE_EVT_RESET_REFUSED = 1 ∧
    Framed (regKeys 0 [R.SAFE_RESET_REFUSED, R.SAFE_RESET_LINE, R.SAFE_EVT_RESET_REFUSED]) (s.advance dt) t) ∧
  (∀ (dt ms : Nat) (s : State), s.isl.present = true → s.isl.stuck = false → (ms < 250 ∨ 3000 < ms) →
  ∃ t, Sys2Proof.Machine.exec (.safeResetPress dt ms) s = .next t ∧ t.isl = s.isl ∧ t.get R.SAFE_RESET_LINE = 1 ∧
    Framed [loc R.SAFE_RESET_LINE 0] (s.advance dt) t) ∧
  (∀ (dt ms : Nat) (s : State), s.isl.present = true → 3000 < ms →
  ∃ t, Sys2Proof.Machine.exec (.safeResetStuck dt ms) s = .next t ∧ t.isl = { s.isl with stuck := true } ∧ t.get R.SAFE_RESET_LINE = 0 ∧ t.get R.SAFE_RESET_STUCK = 1 ∧
    Framed (regKeys 0 [R.SAFE_RESET_LINE, R.SAFE_RESET_STUCK]) { s.advance dt with isl := t.isl } t) ∧
  (∀ (dt ms : Nat) (s : State), ms ≤ 3000 → Sys2Proof.Machine.exec (.safeResetStuck dt ms) s = .next (s.advance dt)) ∧
  (∀ (dt n : Nat) (m : Int) (c : AxisCfg) (s : State), s.isl.present = true → tfind s.man.safety.axes n = some c → (s.islAx n).referenced = false →
  c.hasIndex = true → c.kind2 < 2 →
  ∃ t, Sys2Proof.Machine.exec (.safetyEncoderIndex dt n m) s = .next t ∧ (t.islAx n).referenced = true ∧ t.get R.SAFE_AX_STAT_REFERENCED n = 1 ∧
    (((s.islAx n).c1 + m : Int) : Rat) / c.scale1 + (t.islAx n).z1 = c.refPos ∧ (t.islAx n).c1 = (s.islAx n).c1 ∧
    Framed [loc R.SAFE_AX_STAT_REFERENCED n] { s.advance dt with isl := t.isl } t) ∧
  (∀ (dt n : Nat) (m : Int) (c : AxisCfg) (s : State), tfind s.man.safety.axes n = some c → ((s.islAx n).referenced = true ∨ c.hasIndex = false) →
  Sys2Proof.Machine.exec (.safetyEncoderIndex dt n m) s = .next (s.advance dt)) ∧
  (∀ (dt : Nat) (p : Port) (s : State), s.session p = some .installer → s.isl.present = true → s.mode ∈ [2, 5] → s.islState = 3 →
  s.man.safety.given = true → s.get R.SAFE_CV_ENTER_CV = s.man.safety.crc →
  ∃ t, Sys2Proof.Machine.exec (.safeCvCommit dt p) s = .next t ∧ t.get R.SAFE_CV_CMD_RESULT = 1 ∧ t.isl.cvKey = s.role.keyId ∧ t.mnf ≠ s.mnf ∧ t.role.rwlAt = s.now + dt) ∧
  (∀ (dt : Nat) (p : Port) (s : State), s.session p = some .installer → s.isl.present = true → s.mode ∈ [2, 5] → s.islState = 3 →
  (s.man.safety.given = false ∨ s.get R.SAFE_CV_ENTER_CV ≠ s.man.safety.crc) →
  ∃ t, Sys2Proof.Machine.exec (.safeCvCommit dt p) s = .next t ∧ t.get R.SAFE_CV_CMD_RESULT = 3 ∧ t.isl = s.isl ∧ t.mnf = s.mnf) ∧
  (∀ (dt : Nat) (p : Port) (s : State), s.session p = some .installer → s.isl.present = true → (s.mode ∉ [2, 5] ∨ s.islState ≠ 3) →
  ∃ t, Sys2Proof.Machine.exec (.safeCvCommit dt p) s = .next t ∧ t.get R.SAFE_CV_CMD_RESULT = 4 ∧ t.isl = s.isl ∧ t.mnf = s.mnf) ∧
  (∀ (dt m : Nat) (p : Port) (s : State), s.session p = some .operator → s.isl.present = true →
  ∃ t, Sys2Proof.Machine.exec (.safeOffReqWrite dt p m) s = .next t ∧ t.get R.SAFE_OFF_REQ_MASK = m % 4096 ∧ t.isl = s.isl ∧ t.role.rwlAt = s.now + dt ∧
    Framed (regKeys 0 (R.SAFE_OFF_REQ_MASK :: lullFlds)) { s.advance dt with role := t.role, pwr := t.pwr } t) ∧
  (∀ (dt m : Nat) (p : Port) (s : State), s.session p ≠ some .operator →
  ∃ t, Sys2Proof.Machine.exec (.safeOffReqWrite dt p m) s = .next t ∧ t.get R.SAFE_OFF_REQ_MASK = s.get R.SAFE_OFF_REQ_MASK ∧ t.role = s.role) ∧
  (∀ (dt n : Nat) (c : SafeOutCfg) (s : State), s.isl.present = true → 2 ≤ s.mode → (s.man.safety.outs.map (·.1)).Nodup → tfind s.man.safety.outs n = some c →
  ∃ t, Sys2Proof.Machine.exec (.permitMailboxWrite dt) s = .next t ∧ t.isl.permitAt = some (s.now + dt) ∧ t.isl.offReq = s.get R.SAFE_OFF_REQ_MASK ∧
    t.isl.permit.testBit n = (match c.permit with | some i => (s.pt i).written && decide ((s.pt i).value ≠ 0) | none => false) ∧
    t.get R.SAFE_PERMIT_PERMIT = t.isl.permit % 4096 ∧ t.get R.SAFE_PERMIT_OFF_REQ = s.get R.SAFE_OFF_REQ_MASK % 4096 ∧
    Framed (regKeys 0 [R.SAFE_PERMIT_PERMIT, R.SAFE_PERMIT_OFF_REQ]) { s.advance dt with isl := t.isl } t) ∧
  (∀ (dt : Nat) (s : State), s.mode < 2 → Sys2Proof.Machine.exec (.permitMailboxWrite dt) s = .next (s.advance dt))

/-- What a standby takes from the active: seals, input and command records, time, give-up (R109, R357, R358, R364, R372). -/
def Obligations.TwinRecords : Prop :=
  (∀ (dt : Nat) (q : Seal) (s : State), s.exchanges = true →
  ∃ t, Sys2Proof.Machine.exec (.sealReceive dt q) s = .next t ∧ t.tick = q.tick ∧ t.twin.seals = s.twin.seals ++ [q] ∧
    t.twin.records = s.twin.records.filter (fun r => !decide (r.tick < q.tick) && (decide (r.tick ≠ q.tick) || decide (6 ≤ r.kind))) ∧
    t.get R.TWIN_LOAD_LAST_BYTES = min 65535 q.bytes ∧ t.loop.tickAt = s.now + dt ∧ t.mode = s.mode ∧ t.isActive = false) ∧
  (∀ (dt : Nat) (r : TwinRec) (s : State), s.exchanges = true →
  Sys2Proof.Machine.exec (.inputRecordReceive dt r) s = .next { s.advance dt with twin := { s.twin with records := s.twin.records ++ [r] } }) ∧
  (∀ (dt p a : Nat) (q : Seal) (r : TwinRec) (k : CmdRec) (w : Rat) (b : Bool) (c : Instr) (s : State),
  c ∈ [Instr.sealReceive dt q, .inputRecordReceive dt r, .commandRecordReceive dt k, .timeRecordReceive dt p w b, .giveUpReceive dt p a] →
  s.isActive = true → Sys2Proof.Machine.exec c s = .next (s.advance dt)) ∧
  (∀ (dt : Nat) (k : CmdRec) (s : State), s.isActive = false → k.block = 0x09 →
  Sys2Proof.Machine.exec (.commandRecordReceive dt k) s = .next { s.advance dt with alloc := { s.alloc with cmds := s.alloc.cmds ++ [⟨k.target, k.kind, k.keyId⟩] } }) ∧
  (∀ (dt : Nat) (k : CmdRec) (s : State), s.isActive = false → k.block = 0x0C → (s.fn k.target).cmd = none →
  ∃ t, Sys2Proof.Machine.exec (.commandRecordReceive dt k) s = .next t ∧
    ((t.fn k.target).cmd.map fun c => (c.action, c.tag, c.keyId, c.at_)) = some (k.kind, k.tag, k.keyId, s.now + dt) ∧ t.get R.MFN_CMD_STAT_RESULT = 1 ∧
    Framed (regKeys 0 [R.MFN_CMD_STAT_RESULT, R.MFN_CMD_STAT_TAG, R.MFN_CMD_STAT_FN]) { s.advance dt with loop := t.loop } t) ∧
  (∀ (dt : Nat) (k : CmdRec) (s : State), s.isActive = false → k.block = 0x02 →
  ∃ t, Sys2Proof.Machine.exec (.commandRecordReceive dt k) s = .next t ∧ (t.mnf.pendingMode.map fun p => (p.target, p.tag, p.keyId)) = some (k.target, k.tag, k.keyId) ∧
    t.get R.MODE_STAT_PENDING = 1 ∧ t.get R.MODE_CMD_STAT_RESULT = 1 ∧ t.mode = s.mode) ∧
  (∀ (dt p : Nat) (w : Rat) (b : Bool) (s : State), s.isActive = false → (b = false ∨ s.stepped = true) →
  ∃ t, Sys2Proof.Machine.exec (.timeRecordReceive dt p w b) s = .next t ∧ t.get R.TIME_STAT_SRC = 7 ∧ t.time.rate = w ∧ t.time.count = (s.advance dt).time.count ∧
    t.stepped = s.stepped) ∧
  (∀ (dt p : Nat) (w : Rat) (s : State), s.isActive = false → s.stepped = false →
  ∃ t, Sys2Proof.Machine.exec (.timeRecordReceive dt p w true) s = .next t ∧ t.stepped = true ∧ t.get R.TIME_STAT_SRC = 7 ∧ t.time.rate = w) ∧
  (∀ (dt c k : Nat) (s : State), s.isActive = false →
  ∃ t, Sys2Proof.Machine.exec (.giveUpReceive dt c k) s = .next t ∧ t.twin.giveUpRxAt = some (s.now + dt) ∧ t.twin.giveUpCause = c ∧ t.twin.hoTick = k ∧
    t.isActive = false ∧ t.mode = s.mode) ∧
  (∀ (dt n : Nat) (s : State),
  ∃ t, Sys2Proof.Machine.exec (.resendReceive dt n) s = .next t ∧ t.twin = { s.twin with resent := s.twin.resent + n } ∧
    t.get R.TWIN_LINK_RESENDS = (s.get R.TWIN_LINK_RESENDS + n) % 65536 ∧ Framed [loc R.TWIN_LINK_RESENDS 0] { s.advance dt with twin := t.twin } t) ∧
  (∀ (dt : Nat) (p : Port) (s : State),
  ∃ t, Sys2Proof.Machine.exec (.twinHoTickLoRead dt p) s = .next t ∧ (match p with | .pcie => t.pcie.rdata | .spi => t.spi.rdata) = s.twin.hoTick % 2 ^ 32 ∧
    t.get R.TWIN_HO_TICK_HI_TICK_HI = s.twin.hoTick / 2 ^ 32 % 2 ^ 32 ∧
    Framed [loc R.TWIN_HO_TICK_HI_TICK_HI 0] { s.advance dt with pcie := t.pcie, spi := t.spi } t)

/-- Pairing, comparison and lag of a twin pair, and what each side does on divergence (R358, R359, R360, R361, R368, R372). -/
def Obligations.TwinSteps : Prop :=
  (∀ (dt g l i v : Nat) (s : State), s.isActive = true → s.isPaired = false → g = 4 →
  ∃ t, Sys2Proof.Machine.exec (.statusReceive dt g l i v) s = .next t ∧ t.isPaired = true ∧ t.get R.TWIN_STAT_STATE = 4 ∧ t.get R.TWIN_EVT_PAIRED = 1 ∧
    t.twin.peerStatus = 4 ∧ t.twin.unpairedAlarm = false ∧ t.get R.MNF_INST_PEER_RESULT = i % 2 ^ R.MNF_INST_PEER_RESULT.width) ∧
  (∀ (dt g l i v : Nat) (s : State), s.isActive = true → s.isPaired = true → g = 5 →
  ∃ t, Sys2Proof.Machine.exec (.statusReceive dt g l i v) s = .next t ∧ t.isPaired = false ∧ t.get R.TWIN_STAT_STATE = 0 ∧ t.isActive = true ∧ t.get R.TWIN_EVT_UNPAIRED = 1) ∧
  (∀ (dt g l i v : Nat) (s : State), s.isActive = false →
  ∃ t, Sys2Proof.Machine.exec (.statusReceive dt g l i v) s = .next t ∧ t.twin = { s.twin with peerStatus := g, peerLag := l } ∧
    t.get R.SAFE_CV_CMD_PEER_RESULT = v % 8 ∧
    Framed (regKeys 0 [R.MNF_INST_PEER_RESULT, R.SAFE_CV_CMD_PEER_RESULT]) { s.advance dt with twin := t.twin } t) ∧
  (∀ (dt o k q : Nat) (s : State),
  ∃ t, Sys2Proof.Machine.exec (.divergeReceive dt o k q) s = .next t ∧ t.get R.TWIN_CMP_TRANSIENT = (s.get R.TWIN_CMP_TRANSIENT + 1) % 65536 ∧
    t.get R.TWIN_CMP_LAST_SCOPE = o % 4 ∧ (o = 1 → t.get R.TWIN_CMP_LAST_CELL = k % 64) ∧ t.get R.TWIN_EVT_DIVERGE = 1 ∧
    Framed (regKeys 0 [R.TWIN_CMP_TRANSIENT, R.TWIN_CMP_LAST_SCOPE, R.TWIN_CMP_LAST_CELL, R.TWIN_EVT_DIVERGE]) (s.advance dt) t) ∧
  (∀ (dt o k q : Nat) (s : State),
  ∃ t, Sys2Proof.Machine.exec (.confirmReceive dt o k q) s = .next t ∧ t.get R.TWIN_CMP_CONFIRMED = 1 ∧ t.get R.TWIN_EVT_DIVERGE = 1 ∧
    t.get R.DEV_FAULT_CAUSE = 9 ∧ t.get R.DEV_EVT_FAULT = 1) ∧
  (∀ (dt q g k : Nat) (o w : Seal) (s : State), s.inStep = true → s.twin.seals.find? (fun x => x.tick = q) = some w → g ≤ 9000 →
  ∃ t, Sys2Proof.Machine.exec (.replayDone dt q g o k) s = .next t ∧ t.twin.seals = s.twin.seals.filter (fun x => x.tick ≠ q) ∧ t.twin.lagRun = 0 ∧
    t.get R.TWIN_STAT_PEER_OK_OUT = 1 ∧ t.get R.TWIN_LAG_LAST_NS = g ∧
    (w.out ≠ o.out → 1 ∈ s.twin.mismatch → t.get R.TWIN_CMP_CONFIRMED = 1) ∧ (w.out ≠ o.out → 1 ∈ t.twin.mismatch) ∧
    (w.out = o.out → 1 ∉ t.twin.mismatch) ∧ t.mode = s.mode) ∧
  (∀ (dt q g k : Nat) (o w : Seal) (c : Instr) (s : State), s.inStep = true → 9000 < g →
  ((c = .replayDone dt q g o k ∧ s.twin.seals.find? (fun x => x.tick = q) = some w) ∨ c = .tickLagExceeded dt g) →
  ∃ t, Sys2Proof.Machine.exec c s = .next t ∧ t.twin.lagRun = s.twin.lagRun + 1 ∧ t.get R.TWIN_STAT_PEER_OK_OUT = 0 ∧ t.get R.TWIN_LAG_LAST_NS = min 65535 g ∧
    t.get R.TWIN_LAG_OVER = min 255 (s.get R.TWIN_LAG_OVER + 1) ∧ t.get R.TWIN_EVT_LAG = 1) ∧
  (∀ (dt q g k : Nat) (o : Seal) (c : Instr) (s : State), c ∈ [Instr.replayDone dt q g o k, .tickLagExceeded dt g, .standbyLagLimit dt] → s.inStep = false →
  Sys2Proof.Machine.exec c s = .next (s.advance dt)) ∧
  (∀ (dt : Nat) (s : State), s.inStep = true → 3 ≤ s.twin.lagRun →
  ∃ t, Sys2Proof.Machine.exec (.standbyLagLimit dt) s = .next t ∧ t.get R.DEV_FAULT_CAUSE = 8 ∧ t.get R.DEV_EVT_FAULT = 1) ∧
  (∀ (dt : Nat) (s : State), s.twin.lagRun < 3 → Sys2Proof.Machine.exec (.standbyLagLimit dt) s = .next (s.advance dt)) ∧
  (∀ (dt c i h : Nat) (d : Rat) (s : State), s.man.plausT * 1000000 ≤ h → s.plausBreach c d = true →
  ∃ t, Sys2Proof.Machine.exec (.twinPlaus dt c i d h) s = .next t ∧ t.get R.TWIN_PLAUS_STAT_ALARM (c * 64 + i) = 1 ∧ t.get R.TWIN_STAT_PLAUS_ALARM = 1 ∧
    t.get R.TWIN_EVT_PLAUS = 1 ∧
    Framed [loc R.TWIN_PLAUS_STAT_ALARM (c * 64 + i), loc R.TWIN_PLAUS_STAT_DIFF (c * 64 + i), loc R.TWIN_STAT_PLAUS_ALARM 0, loc R.TWIN_EVT_PLAUS 0] (s.advance dt) t) ∧
  (∀ (dt c i h : Nat) (d : Rat) (s : State), s.man.plausT * 1000000 ≤ h → s.plausBreach c d = false → s.get R.TWIN_PLAUS_STAT_ALARM (c * 64 + i) = 1 →
  ∃ t, Sys2Proof.Machine.exec (.twinPlaus dt c i d h) s = .next t ∧ t.get R.TWIN_PLAUS_STAT_ALARM (c * 64 + i) = 0) ∧
  (∀ (dt c i h : Nat) (d : Rat) (s : State), h < s.man.plausT * 1000000 →
  ∃ t, Sys2Proof.Machine.exec (.twinPlaus dt c i d h) s = .next t ∧ Framed [loc R.TWIN_PLAUS_STAT_DIFF (c * 64 + i)] (s.advance dt) t)

/-- Lanes, sidebands and takeover (R353, R364, R365, R366, R367, R368). -/
def Obligations.TwinLinks : Prop :=
  (∀ (dt l : Nat) (a : Bool) (s : State), s.get R.TWIN_STAT_LANES = 3 →
  ∃ t, Sys2Proof.Machine.exec (.laneDown dt l a) s = .next t ∧ t.get R.TWIN_STAT_LANES = 3 - laneBit l ∧ t.get R.TWIN_LINK_LANE_DOWNS = min 255 (s.get R.TWIN_LINK_LANE_DOWNS + 1) ∧
    t.get R.TWIN_EVT_LANE = 1 ∧ t.get R.TWIN_STAT_ACTIVE_IN = (if a then 1 else 0) ∧ t.twin = s.twin ∧
    Framed (regKeys 0 [R.TWIN_STAT_LANES, R.TWIN_LINK_LANE_DOWNS, R.TWIN_EVT_LANE, R.TWIN_STAT_ACTIVE_IN]) (s.advance dt) t) ∧
  (∀ (dt l : Nat) (a : Bool) (s : State), s.get R.TWIN_STAT_LANES = laneBit l → s.inStep = true → a = true →
  ∃ t, Sys2Proof.Machine.exec (.laneDown dt l a) s = .next t ∧ t.get R.TWIN_STAT_LANES = 0 ∧ t.get R.TWIN_STAT_STATE = 5 ∧ t.isPaired = false ∧
    t.get R.TWIN_STAT_PEER_OK_OUT = 0 ∧ t.get R.TWIN_COUNT_DETACHES = (s.get R.TWIN_COUNT_DETACHES + 1) % 65536 ∧
    t.twin.silentAt = some (s.now + dt) ∧ t.get R.TWIN_EVT_DETACH = 1 ∧ t.isActive = false) ∧
  (∀ (dt l : Nat) (a : Bool) (s : State), s.get R.TWIN_STAT_LANES = laneBit l → s.isActive = true → s.isPaired = true →
  ∃ t, Sys2Proof.Machine.exec (.laneDown dt l a) s = .next t ∧ t.get R.TWIN_STAT_LANES = 0 ∧ t.isPaired = false ∧ t.isActive = true ∧ t.get R.TWIN_STAT_STATE = 0) ∧
  (∀ (dt l : Nat) (s : State), s.get R.TWIN_STAT_LANES &&& laneBit l = 0 →
  ∃ t, Sys2Proof.Machine.exec (.laneRetrain dt l true) s = .next t ∧ t.get R.TWIN_STAT_LANES = (s.get R.TWIN_STAT_LANES ||| laneBit l) % 4 ∧
    t.twin = { s.twin with silentAt := none } ∧ Framed [loc R.TWIN_STAT_LANES 0] { s.advance dt with twin := t.twin } t) ∧
  (∀ (dt l : Nat) (u : Bool) (s : State), (u = false ∨ s.get R.TWIN_STAT_LANES &&& laneBit l ≠ 0) → Sys2Proof.Machine.exec (.laneRetrain dt l u) s = .next (s.advance dt)) ∧
  (∀ (dt a p : Nat) (l : List Nat) (s : State), s.inStep = true → s.get R.TWIN_STAT_PEER_OK_OUT = 1 → (s.advance dt).takeoverDue a p = true →
  ∃ t, Sys2Proof.Machine.exec (.takeover dt a p l) s = .next t ∧ t.isActive = true ∧ t.get R.TWIN_STAT_ACTIVE_OUT = 1 ∧ t.get R.TWIN_STAT_STATE = 0 ∧ t.isPaired = false ∧
    t.tick = s.tick + 1 ∧ t.twin.hoTick = s.tick + 2 ∧ t.get R.TWIN_HO_GAINED = 1 ∧
    t.get R.TWIN_HO_VIA = (if s.twin.giveUpRxAt.isSome then 0 else 1) ∧ t.get R.TWIN_HO_CAUSE = (if s.twin.giveUpRxAt.isSome then s.twin.giveUpCause % 16 else 0) ∧
    t.get R.TWIN_COUNT_HANDOVERS = (s.get R.TWIN_COUNT_HANDOVERS + 1) % 65536 ∧ t.get R.TWIN_EVT_HANDOVER = 1 ∧ t.mode = s.mode ∧
    t.time.takeoverAt = some (s.now + dt)) ∧
  (∀ (dt a p : Nat) (l : List Nat) (s : State), (s.inStep = false ∨ s.get R.TWIN_STAT_PEER_OK_OUT = 0 ∨ (s.advance dt).takeoverDue a p = false) →
  Sys2Proof.Machine.exec (.takeover dt a p l) s = .next (s.advance dt)) ∧
  (∀ (dt t₀ : Nat) (s : State), s.twin.giveUpRxAt = some t₀ → s.inStep = true → t₀ + 20000 ≤ s.now + dt →
  ∃ t, Sys2Proof.Machine.exec (.sidebandTimeout dt) s = .next t ∧ t.get R.TWIN_STAT_SIDEBAND_FAULT = 1 ∧ t.get R.TWIN_EVT_SIDEBAND = 1 ∧
    t.get R.TWIN_STAT_ACTIVE_IN = 1 ∧ t.get R.TWIN_STAT_PEER_OK_IN = 1 ∧ t.twin = s.twin ∧
    Framed (regKeys 0 [R.TWIN_STAT_SIDEBAND_FAULT, R.TWIN_EVT_SIDEBAND, R.TWIN_STAT_ACTIVE_IN, R.TWIN_STAT_PEER_OK_IN]) (s.advance dt) t) ∧
  (∀ (dt : Nat) (s : State), (s.twin.giveUpRxAt = none ∨ s.inStep = false) → Sys2Proof.Machine.exec (.sidebandTimeout dt) s = .next (s.advance dt)) ∧
  (∀ (dt : Nat) (a p : Bool) (s : State), s.twin.giveUpRxAt = none → a ≠ p → s.isActive = false →
  ∃ t, Sys2Proof.Machine.exec (.sidebandDisagree dt a p) s = .next t ∧ t.get R.TWIN_STAT_SIDEBAND_FAULT = 1 ∧ t.get R.TWIN_EVT_SIDEBAND = 1 ∧
    t.get R.TWIN_STAT_ACTIVE_IN = (if a then 1 else 0) ∧ t.get R.TWIN_STAT_PEER_OK_IN = (if p then 1 else 0) ∧ t.isActive = false ∧ t.twin = s.twin) ∧
  (∀ (dt : Nat) (a : Bool) (s : State),
  ∃ t, Sys2Proof.Machine.exec (.sidebandDisagree dt a a) s = .next t ∧ Framed (regKeys 0 [R.TWIN_STAT_ACTIVE_IN, R.TWIN_STAT_PEER_OK_IN]) (s.advance dt) t) ∧
  (∀ (dt w : Nat) (s : State), s.isActive = true → s.isPaired = true → 1000000 ≤ w →
  ∃ t, Sys2Proof.Machine.exec (.peerOkLowTimeout dt w) s = .next t ∧ t.isPaired = false ∧ t.isActive = true ∧ t.get R.TWIN_STAT_STATE = 0 ∧ t.get R.TWIN_STAT_PEER_OK_IN = 0) ∧
  (∀ (dt w : Nat) (s : State), s.isActive = true → s.isPaired = true → w < 1000000 →
  ∃ t, Sys2Proof.Machine.exec (.peerOkLowTimeout dt w) s = .next t ∧ t.get R.TWIN_LAG_OK_DIPS = min 255 (s.get R.TWIN_LAG_OK_DIPS + 1) ∧
    Framed [loc R.TWIN_LAG_OK_DIPS 0] (s.advance dt) t) ∧
  (∀ (dt w : Nat) (s : State), (s.isActive = false ∨ s.isPaired = false) → Sys2Proof.Machine.exec (.peerOkLowTimeout dt w) s = .next (s.advance dt))

/-- CAN mailboxes: content, attempts, cancelling, error counters, bus-off and its recovery (R396, R401, R408, R409, R410, R411,
  R412). -/
def Obligations.CanTransmission : Prop :=
  (∀ (dt ch mb : Nat) (b : Bool) (c : CanMbCfg) (s : State), s.mbCfg ch mb = some c → c.periodMs ≠ none → (s.advance dt).cyclicRuns c.drive c.node = true →
  s.canMode ch ≠ 0 → b = false → s.mbStatus ch mb ≠ 2 →
  ∃ t, Sys2Proof.Machine.exec (.canPeriodicTransmit dt ch mb b) s = .next t ∧ t.mbStatus ch mb = s.mbWaits ch c ∧ (t.mbSt ch mb).data = (s.advance dt).mbContent c ∧
    t.get R.CAN_MB_STAT_ATTEMPTS (mbBank ch mb) = 0 ∧ t.get R.CAN_MB_STAT_DLC (mbBank ch mb) = dlcOf (if c.fast then 8 else c.len) ∧
    Framed (regKeys (mbBank ch mb) [R.CAN_MB_STAT_ATTEMPTS, R.CAN_MB_STAT_FAIL_KIND, R.CAN_MB_STAT_DLC, R.CAN_MB_STAT_STATUS]) { s.advance dt with can := t.can } t) ∧
  (∀ (dt ch mb : Nat) (b : Bool) (c : CanMbCfg) (s : State), s.mbCfg ch mb = some c → c.periodMs ≠ none → (s.advance dt).cyclicRuns c.drive c.node = true →
  s.canMode ch ≠ 0 → (b = true ∨ s.mbStatus ch mb = 2) →
  ∃ t, Sys2Proof.Machine.exec (.canPeriodicTransmit dt ch mb b) s = .next t ∧ t.mbStatus ch mb = 2 ∧ t.mbSt ch mb = { s.mbSt ch mb with next := some ((s.advance dt).mbContent c) } ∧
    Framed [loc R.CAN_MB_STAT_STATUS (mbBank ch mb)] { s.advance dt with can := t.can } t) ∧
  (∀ (dt ch mb : Nat) (b : Bool) (s : State), s.mbCfg ch mb = none → Sys2Proof.Machine.exec (.canPeriodicTransmit dt ch mb b) s = .next (s.advance dt)) ∧
  (∀ (dt ch mb : Nat) (z : Option Nat) (c : CanCfg) (m : CanMbCfg) (s : State), s.canCfg ch = some c → s.mbCfg ch mb = some m → s.canMode ch = 2 →
  s.mbStatus ch mb ∈ [1, 2] → (s.mbSt ch mb).cancel = false → (s.mbSt ch mb).next = none → mbFrames m (s.mbSt ch mb).data ≤ (s.mbSt ch mb).part + 1 →
  (s.canSt ch).tec ≤ 256 → s.get R.CAN_N2K_CANNOT_CLAIM ch = 0 →
  ∃ t, Sys2Proof.Machine.exec (.canTxAttemptEnd dt ch mb (.success z)) s = .next t ∧ t.mbStatus ch mb = 3 ∧ (t.canSt ch).tec = (s.canSt ch).tec - 1 ∧
    (t.canSt ch).rec_ = (s.canSt ch).rec_ ∧ (t.canSt ch).ackRun = 0 ∧ t.get R.CAN_STAT_NO_ACK ch = (if s.get R.CAN_STAT_NO_ACK ch = 1 then 0 else s.get R.CAN_STAT_NO_ACK ch) ∧
    t.get R.CAN_TX_CNT_FRAMES ch = (s.get R.CAN_TX_CNT_FRAMES ch + 1) % 65536 ∧ t.get R.CAN_ERR_TEC ch = min 255 ((s.canSt ch).tec - 1) ∧ t.canMode ch = 2 ∧
    t.get R.CAN_MB_STAT_ATTEMPTS (mbBank ch mb) = min 65535 (s.get R.CAN_MB_STAT_ATTEMPTS (mbBank ch mb) + 1)) ∧
  (∀ (dt ch mb l m : Nat) (d e : Bool) (c : CanCfg) (k : CanMbCfg) (s : State), s.canCfg ch = some c → s.mbCfg ch mb = some k → s.canMode ch = 2 →
  s.mbStatus ch mb ∈ [1, 2] → (s.mbSt ch mb).cancel = false → (s.mbSt ch mb).next = none → k.oneshot = false →
  s.get R.CAN_N2K_CANNOT_CLAIM ch = 0 → (s.canSt ch).tec + s.tecStep ch l e m ≤ 255 →
  ∃ t, Sys2Proof.Machine.exec (.canTxAttemptEnd dt ch mb (.err l d e m)) s = .next t ∧ t.mbStatus ch mb = s.mbWaits ch k ∧
    (t.canSt ch).tec = (s.canSt ch).tec + (if e = true ∧ (l = 1 ∨ (l = 3 ∧ s.get R.CAN_STAT_ERR_STATE ch = 1)) then 0 else 8) + 8 * m ∧ (t.canSt ch).rec_ = (s.canSt ch).rec_ ∧ t.get R.CAN_LEC_LEC ch = l % 8 ∧
    t.get R.CAN_LEC_DATA_PHASE ch = (if d then 1 else 0) ∧ t.get R.CAN_STAT_ERR_STATE ch = (if 128 ≤ (t.canSt ch).tec ∨ 128 ≤ (t.canSt ch).rec_ then 1 else 0) ∧
    (l = 3 → (t.canSt ch).ackRun = (s.canSt ch).ackRun + 1) ∧ (l = 3 → 16 ≤ (s.canSt ch).ackRun + 1 → t.get R.CAN_STAT_NO_ACK ch = 1) ∧ t.canMode ch = 2) ∧
  (∀ (dt ch mb l m : Nat) (d e : Bool) (c : CanCfg) (k : CanMbCfg) (s : State), s.canCfg ch = some c → s.mbCfg ch mb = some k → s.canMode ch = 2 →
  s.mbStatus ch mb ∈ [1, 2] → s.get R.CAN_N2K_CANNOT_CLAIM ch = 0 → 255 < (s.canSt ch).tec + s.tecStep ch l e m →
  ∃ t, Sys2Proof.Machine.exec (.canTxAttemptEnd dt ch mb (.err l d e m)) s = .next t ∧ t.canMode ch = (if c.manual then 4 else 5) ∧ t.get R.CAN_STAT_ERR_STATE ch = 2 ∧
    t.get R.CAN_ERR_BUSOFFS ch = (s.get R.CAN_ERR_BUSOFFS ch + 1) % 65536 ∧ t.get R.CAN_EVT_BUSOFF ch = 1 ∧ t.get R.CAN_ERR_TEC ch = 255) ∧
  (∀ (dt ch mb : Nat) (c : CanCfg) (k : CanMbCfg) (s : State), s.canCfg ch = some c → s.mbCfg ch mb = some k → s.canMode ch = 2 →
  s.mbStatus ch mb ∈ [1, 2] → (s.mbSt ch mb).cancel = false → (s.mbSt ch mb).next = none → s.get R.CAN_N2K_CANNOT_CLAIM ch = 0 →
  ∃ t, Sys2Proof.Machine.exec (.canTxAttemptEnd dt ch mb .lost) s = .next t ∧ t.mbStatus ch mb = (if k.oneshot then 6 else s.mbWaits ch k) ∧ t.can = s.can) ∧
  (∀ (dt ch mb : Nat) (r : TxEnd) (s : State), s.canMode ch ≠ 2 → Sys2Proof.Machine.exec (.canTxAttemptEnd dt ch mb r) s = .next (s.advance dt)) ∧
  (∀ (dt ch mb : Nat) (s : State), s.mbStatus ch mb ∈ [1, 7] →
  ∃ t, Sys2Proof.Machine.exec (.canMailboxCancel dt ch mb false) s = .next t ∧ t.mbStatus ch mb = 5 ∧ Framed [loc R.CAN_MB_STAT_STATUS (mbBank ch mb)] (s.advance dt) t) ∧
  (∀ (dt ch mb : Nat) (b : Bool) (s : State), s.mbStatus ch mb ∈ [1, 2, 7] → (b = true ∨ s.mbStatus ch mb = 2) →
  ∃ t, Sys2Proof.Machine.exec (.canMailboxCancel dt ch mb b) s = .next t ∧ t.mbStatus ch mb = 2 ∧ t.mbSt ch mb = { s.mbSt ch mb with cancel := true, next := none } ∧
    Framed [loc R.CAN_MB_STAT_STATUS (mbBank ch mb)] { s.advance dt with can := t.can } t) ∧
  (∀ (dt ch mb : Nat) (b : Bool) (s : State), s.mbStatus ch mb ∉ [1, 2, 7] → Sys2Proof.Machine.exec (.canMailboxCancel dt ch mb b) s = .next (s.advance dt)) ∧
  (∀ (dt ch l n : Nat) (d : Bool) (c : CanCfg) (s : State), s.canCfg ch = some c → s.canMode ch = 2 → (s.canSt ch).tec ≤ 255 →
  ∃ t, Sys2Proof.Machine.exec (.canRxError dt ch l d n false) s = .next t ∧ (t.canSt ch).rec_ = (s.canSt ch).rec_ + n ∧ (t.canSt ch).tec = (s.canSt ch).tec ∧
    t.get R.CAN_LEC_LEC ch = l % 8 ∧ t.get R.CAN_ERR_REC ch = min 255 ((s.canSt ch).rec_ + n) ∧ t.canMode ch = 2 ∧
    t.get R.CAN_STAT_ERR_STATE ch = (if 128 ≤ (t.canSt ch).tec ∨ 128 ≤ (t.canSt ch).rec_ then 1 else 0)) ∧
  (∀ (dt ch l n : Nat) (d : Bool) (c : CanCfg) (s : State), s.canCfg ch = some c → s.canMode ch = 3 →
  ∃ t, Sys2Proof.Machine.exec (.canRxError dt ch l d n false) s = .next t ∧ t.can = s.can ∧ t.get R.CAN_LEC_LEC ch = l % 8 ∧ t.canMode ch = 3) ∧
  (∀ (dt ch l n : Nat) (d : Bool) (c : CanCfg) (s : State), s.canCfg ch = some c → s.canMode ch ∈ [2, 3] →
  ∃ t, Sys2Proof.Machine.exec (.canRxError dt ch l d n true) s = .next t ∧ t.canMode ch = 1 ∧ t.get R.CAN_LEC_PEXC ch = min 255 (s.get R.CAN_LEC_PEXC ch + 1) ∧
    Framed [loc R.CAN_LEC_PEXC ch, loc R.CAN_STAT_MODE ch] (s.advance dt) t) ∧
  (∀ (dt ch l n : Nat) (d x : Bool) (s : State), s.canMode ch ∉ [2, 3] → Sys2Proof.Machine.exec (.canRxError dt ch l d n x) s = .next (s.advance dt)) ∧
  (∀ (dt ch : Nat) (p : Port) (s : State), s.session p = some .operator → s.canMode (ch % 8) = 4 →
  ∃ t, Sys2Proof.Machine.exec (.canRecover dt p ch) s = .next t ∧ t.canMode (ch % 8) = 5 ∧ t.role.rwlAt = s.now + dt ∧ t.can = s.can ∧
    Framed (loc R.CAN_STAT_MODE (ch % 8) :: regKeys 0 lullFlds) { s.advance dt with role := t.role, pwr := t.pwr } t) ∧
  (∀ (dt ch : Nat) (p : Port) (s : State), s.session p ≠ some .operator →
  ∃ t, Sys2Proof.Machine.exec (.canRecover dt p ch) s = .next t ∧ t.canMode (ch % 8) = s.canMode (ch % 8) ∧ t.role = s.role ∧ t.can = s.can) ∧
  (∀ (dt ch : Nat) (c : CanCfg) (s : State), s.canCfg ch = some c → s.canMode ch = 5 →
  ∃ t, Sys2Proof.Machine.exec (.busoffRecoveryDone dt ch) s = .next t ∧ t.canMode ch = (if s.isActive then 2 else 3) ∧ (t.canSt ch).tec = 0 ∧ (t.canSt ch).rec_ = 0 ∧
    (t.canSt ch).ackRun = 0 ∧ t.get R.CAN_ERR_TEC ch = 0 ∧ t.get R.CAN_ERR_REC ch = 0 ∧ t.get R.CAN_STAT_ERR_STATE ch = 0) ∧
  (∀ (dt ch : Nat) (s : State), s.canMode ch ≠ 5 → Sys2Proof.Machine.exec (.busoffRecoveryDone dt ch) s = .next (s.advance dt)) ∧
  (∀ (dt ch : Nat) (s : State), s.canMode ch = 1 →
  ∃ t, Sys2Proof.Machine.exec (.canBusIntegrationDone dt ch) s = .next t ∧ t.canMode ch = (if s.get R.DEV_STAT_DRIVES_NOTHING = 1 then 0 else if s.isActive then 2 else 3) ∧
    Framed [loc R.CAN_STAT_MODE ch] (s.advance dt) t) ∧
  (∀ (dt ch : Nat) (s : State), s.canMode ch ≠ 1 → Sys2Proof.Machine.exec (.canBusIntegrationDone dt ch) s = .next (s.advance dt))

/-- Received CAN frames, express slots and their lock, the squall guard (R402, R403, R404, R405, R406, R413, R414). -/
def Obligations.CanReception : Prop :=
  (∀ (dt ch n : Nat) (f : CanFrame) (c : CanCfg) (x : CanFilter) (s : State), s.canCfg ch = some c → s.canMode ch ∈ [2, 3] → f.remote = false →
  f.ide = false → s.pwr.l3 = 0 → firstMatch c.slots f f.id = some (n, x) → s.get R.CAN_ES_STAT_LOCKED (esBank ch n) = 0 →
  ∃ t, Sys2Proof.Machine.exec (.canFrameReceive dt ch f) s = .next t ∧ t.get R.CAN_ES_STAT_NEW (esBank ch n) = 1 ∧ t.get R.CAN_ES_ID_ID (esBank ch n) = f.id % 2 ^ 29 ∧
    t.get R.CAN_ES_INFO_DLC (esBank ch n) = f.dlc % 16 ∧ t.get R.CAN_ES_INFO_SEQ (esBank ch n) = ((s.esSt ch n).seq + 1) % 65536 ∧
    (∀ j, j < 16 → t.get R.CAN_ES_DATA_DATA (esBank ch n * 16 + j) = ofLe ((f.data.drop (4 * j)).take 4) % 2 ^ 32) ∧
    t.get R.CAN_ES_PM_PM32 (esBank ch n) = pmTotal f.pm % 2 ^ 32 ∧ t.get R.CAN_EVT_ES_NEW ch = 1 ∧
    (s.get R.CAN_ES_STAT_NEW (esBank ch n) = 1 → (s.esSt ch n).movedAt = none →
      t.get R.CAN_ES_LOST_OVERWRITE (esBank ch n) = (s.get R.CAN_ES_LOST_OVERWRITE (esBank ch n) + 1) % 65536)) ∧
  (∀ (dt ch n : Nat) (f : CanFrame) (c : CanCfg) (x : CanFilter) (s : State), s.canCfg ch = some c → s.canMode ch ∈ [2, 3] → f.remote = false →
  f.ide = false → s.pwr.l3 = 0 → firstMatch c.slots f f.id = some (n, x) → s.get R.CAN_ES_STAT_LOCKED (esBank ch n) = 1 →
  ∃ t, Sys2Proof.Machine.exec (.canFrameReceive dt ch f) s = .next t ∧ (t.esSt ch n).shadow = some (f, ((s.esSt ch n).seq + 1) % 65536) ∧
    t.get R.CAN_ES_STAT_SHADOW_FULL (esBank ch n) = 1 ∧ t.get R.CAN_ES_ID_ID (esBank ch n) = s.get R.CAN_ES_ID_ID (esBank ch n) ∧
    t.get R.CAN_ES_STAT_NEW (esBank ch n) = s.get R.CAN_ES_STAT_NEW (esBank ch n) ∧
    ((s.esSt ch n).shadow.isSome = true → t.get R.CAN_ES_LOST_SHADOW_LOST (esBank ch n) = (s.get R.CAN_ES_LOST_SHADOW_LOST (esBank ch n) + 1) % 65536)) ∧
  (∀ (dt ch n : Nat) (f : CanFrame) (c : CanCfg) (x : CanFilter) (s : State), s.canCfg ch = some c → s.canMode ch ∈ [2, 3] → f.remote = false →
  f.ide = false → s.pwr.l3 = 0 → firstMatch c.slots f f.id = none → firstMatch c.filters f f.id = some (n, x) → x.msg = 0 → x.dest = 0 →
  ∃ t, Sys2Proof.Machine.exec (.canFrameReceive dt ch f) s = .next t ∧ t.get R.CAN_FLT_HIT_HITS (ch * 64 + n) = (s.get R.CAN_FLT_HIT_HITS (ch * 64 + n) + 1) % 65536 ∧
    t.get R.CAN_RX_CNT_FRAMES ch = (s.get R.CAN_RX_CNT_FRAMES ch + 1) % 65536 ∧ t.get R.CAN_RX_CNT_UNMATCHED ch = s.get R.CAN_RX_CNT_UNMATCHED ch ∧
    t.pts = s.pts ∧ t.inbox = s.inbox) ∧
  (∀ (dt ch : Nat) (f : CanFrame) (c : CanCfg) (s : State), s.canCfg ch = some c → s.canMode ch ∈ [2, 3] → f.remote = false →
  f.ide = false → s.pwr.l3 = 0 → firstMatch c.slots f f.id = none → firstMatch c.filters f f.id = none →
  ∃ t, Sys2Proof.Machine.exec (.canFrameReceive dt ch f) s = .next t ∧ t.get R.CAN_RX_CNT_UNMATCHED ch = (s.get R.CAN_RX_CNT_UNMATCHED ch + 1) % 65536 ∧
    t.get R.CAN_RX_CNT_FRAMES ch = (s.get R.CAN_RX_CNT_FRAMES ch + 1) % 65536 ∧ t.pts = s.pts ∧ t.inbox = s.inbox) ∧
  (∀ (dt ch : Nat) (f : CanFrame) (c : CanCfg) (s : State), s.canCfg ch = some c → s.canMode ch ∈ [2, 3] → f.remote = true →
  ∃ t, Sys2Proof.Machine.exec (.canFrameReceive dt ch f) s = .next t ∧ t.get R.CAN_LEC_REMOTE ch = min 255 (s.get R.CAN_LEC_REMOTE ch + 1) ∧
    t.get R.CAN_RX_CNT_FRAMES ch = (s.get R.CAN_RX_CNT_FRAMES ch + 1) % 65536 ∧ t.pts = s.pts) ∧
  (∀ (dt ch : Nat) (f : CanFrame) (s : State), s.canMode ch ∉ [2, 3] → Sys2Proof.Machine.exec (.canFrameReceive dt ch f) s = .next (s.advance dt)) ∧
  (∀ (dt ch n : Nat) (p : Port) (s : State), ch < 8 → n < 8 →
  ∃ t, Sys2Proof.Machine.exec (.canEsIdRead dt p ch n) s = .next t ∧ t.get R.CAN_ES_STAT_LOCKED (esBank ch n) = 1 ∧ t.get R.CAN_ES_STAT_NEW (esBank ch n) = 0 ∧
    (s.get R.CAN_ES_STAT_LOCKED (esBank ch n) ≠ 1 → (t.esSt ch n).lockAt = some (s.now + dt)) ∧
    (match p with | .pcie => t.pcie.rdata | .spi => t.spi.rdata) = s.get R.CAN_ES_ID_ID (esBank ch n) + 2 ^ 29 * s.get R.CAN_ES_ID_IDE (esBank ch n) +
      2 ^ 30 * s.get R.CAN_ES_ID_FDF (esBank ch n) + 2 ^ 31 * s.get R.CAN_ES_ID_BRS (esBank ch n) ∧
    Framed (regKeys (esBank ch n) [R.CAN_ES_STAT_LOCKED, R.CAN_ES_STAT_NEW]) { s.advance dt with can := t.can, pcie := t.pcie, spi := t.spi } t) ∧
  (∀ (dt ch n : Nat) (p : Port) (f : CanFrame) (q : Nat) (s : State), ch < 8 → n < 8 → s.get R.CAN_ES_STAT_LOCKED (esBank ch n) = 1 →
  (s.esSt ch n).shadow = some (f, q) →
  ∃ t, Sys2Proof.Machine.exec (.canEsData15Read dt p ch n) s = .next t ∧ t.get R.CAN_ES_STAT_LOCKED (esBank ch n) = 0 ∧ t.get R.CAN_ES_STAT_SHADOW_FULL (esBank ch n) = 0 ∧
    t.get R.CAN_ES_STAT_NEW (esBank ch n) = 1 ∧ t.get R.CAN_ES_ID_ID (esBank ch n) = f.id % 2 ^ 29 ∧ t.get R.CAN_ES_INFO_SEQ (esBank ch n) = q % 65536 ∧
    (t.esSt ch n).shadow = none ∧ (t.esSt ch n).movedAt = some (s.now + dt) ∧
    (match p with | .pcie => t.pcie.rdata | .spi => t.spi.rdata) = s.get R.CAN_ES_DATA_DATA (esBank ch n * 16 + 15)) ∧
  (∀ (dt ch n : Nat) (p : Port) (s : State), ch < 8 → n < 8 → s.get R.CAN_ES_STAT_LOCKED (esBank ch n) = 1 → (s.esSt ch n).shadow = none →
  ∃ t, Sys2Proof.Machine.exec (.canEsData15Read dt p ch n) s = .next t ∧ t.get R.CAN_ES_STAT_LOCKED (esBank ch n) = 0 ∧
    t.get R.CAN_ES_STAT_NEW (esBank ch n) = s.get R.CAN_ES_STAT_NEW (esBank ch n) ∧
    Framed [loc R.CAN_ES_STAT_LOCKED (esBank ch n)] { s.advance dt with can := t.can, pcie := t.pcie, spi := t.spi } t) ∧
  (∀ (dt ch n t₀ : Nat) (c : CanCfg) (s : State), s.canCfg ch = some c → (s.esSt ch n).lockAt = some t₀ → t₀ + c.lockUs * 1000 ≤ s.now + dt →
  ∃ t, Sys2Proof.Machine.exec (.canEsLockTimeout dt ch n) s = .next t ∧ t.get R.CAN_ES_STAT_LOCKED (esBank ch n) = 0 ∧ t.get R.CAN_ES_STAT_LOCK_TIMEOUT (esBank ch n) = 1 ∧
    (t.esSt ch n).lockAt = none ∧ (t.esSt ch n).shadow = none) ∧
  (∀ (dt ch n : Nat) (s : State), (s.esSt ch n).lockAt = none → Sys2Proof.Machine.exec (.canEsLockTimeout dt ch n) s = .next (s.advance dt)) ∧
  (∀ (dt ch : Nat) (b : Rat) (c : CanCfg) (s : State), s.canCfg ch = some c → s.tick % 100 = 0 → s.get R.CAN_STAT_SQUALL ch = 0 →
  (c.sqHold : Rat) / 100 ≤ ((b :: (s.canSt ch).loads).take 10).sum / 10 →
  ∃ t, Sys2Proof.Machine.exec (.squallLoadUpdate dt ch b) s = .next t ∧ t.get R.CAN_STAT_SQUALL ch = 1 ∧ t.get R.CAN_SQ_HOLDS ch = (s.get R.CAN_SQ_HOLDS ch + 1) % 65536 ∧
    (t.canSt ch).holdAt = some (s.now + dt) ∧ t.get R.CAN_EVT_SQUALL ch = 1 ∧ (t.canSt ch).loads = (b :: (s.canSt ch).loads).take 10 ∧
    (c.mbs.all fun m => m.2.urgent || decide (s.mbStatus ch m.1 ≠ 1) || decide (t.mbStatus ch m.1 = 7)) = true) ∧
  (∀ (dt ch : Nat) (b : Rat) (c : CanCfg) (s : State), s.canCfg ch = some c → s.tick % 100 = 0 → s.get R.CAN_STAT_SQUALL ch = 1 →
  ((b :: (s.canSt ch).loads).take 10).sum / 10 ≤ (c.sqRelease : Rat) / 100 →
  ∃ t, Sys2Proof.Machine.exec (.squallLoadUpdate dt ch b) s = .next t ∧ t.get R.CAN_STAT_SQUALL ch = 0 ∧ (t.canSt ch).holdAt = none ∧ (t.canSt ch).squallAlarm = false ∧
    (c.mbs.all fun m => decide (s.mbStatus ch m.1 ≠ 7) || decide (t.mbStatus ch m.1 = 1)) = true) ∧
  (∀ (dt ch t₀ : Nat) (s : State), (s.canSt ch).holdAt = some t₀ → (s.canSt ch).squallAlarm = false → t₀ + 1000000000 ≤ s.now + dt →
  ∃ t, Sys2Proof.Machine.exec (.canSquallAlarm dt ch) s = .next t ∧ t.canSt ch = { s.canSt ch with squallAlarm := true } ∧ Framed [] { s.advance dt with can := t.can } t) ∧
  (∀ (dt ch : Nat) (s : State), ((s.canSt ch).holdAt = none ∨ (s.canSt ch).squallAlarm = true) → Sys2Proof.Machine.exec (.canSquallAlarm dt ch) s = .next (s.advance dt))

/-- Claiming an NMEA 2000 address, answering requests and claims, and losing the address (R418). -/
def Obligations.Nmea2000Addresses : Prop :=
  (∀ (dt ch : Nat) (c : CanCfg) (n : N2kCfg) (s : State), s.canCfg ch = some c → c.n2k = some n → s.canMode ch ≠ 0 →
  ∃ t, Sys2Proof.Machine.exec (.n2kAddressClaim dt ch) s = .next t ∧ t.get R.CAN_N2K_ADDR ch = n.addr % 256 ∧ t.get R.CAN_N2K_CLAIMED ch = 1 ∧ t.get R.CAN_EVT_N2K ch = 1 ∧
    t.get R.CAN_MB_ID_ID (mbBank ch n.mb) = (0x18EEFF00 + n.addr % 256) % 2 ^ 29) ∧
  (∀ (dt ch a m : Nat) (c : CanCfg) (n : N2kCfg) (s : State), s.canCfg ch = some c → c.n2k = some n → s.canMode ch ≠ 0 →
  ∃ t, Sys2Proof.Machine.exec (.n2kClaimReceive dt ch true m a) s = .next t ∧ t.get R.CAN_MB_ID_ID (mbBank ch n.mb) = (0x18EEFF00 + s.get R.CAN_N2K_ADDR ch) % 2 ^ 29 ∧
    t.get R.CAN_N2K_ADDR ch = s.get R.CAN_N2K_ADDR ch ∧ (t.canSt ch).seen = (s.canSt ch).seen) ∧
  (∀ (dt ch a m : Nat) (c : CanCfg) (n : N2kCfg) (s : State), s.canCfg ch = some c → c.n2k = some n → s.canMode ch ≠ 0 →
  (a ≠ s.get R.CAN_N2K_ADDR ch ∨ n.name ≤ m ∨ s.get R.CAN_N2K_CLAIMED ch ≠ 1) →
  ∃ t, Sys2Proof.Machine.exec (.n2kClaimReceive dt ch false m a) s = .next t ∧ t.get R.CAN_N2K_ADDR ch = s.get R.CAN_N2K_ADDR ch ∧
    tfind (t.canSt ch).seen m = some a ∧ t.get R.CAN_N2K_LOSSES ch = s.get R.CAN_N2K_LOSSES ch) ∧
  (∀ (dt ch a m : Nat) (c : CanCfg) (n : N2kCfg) (s : State), s.canCfg ch = some c → c.n2k = some n → s.canMode ch ≠ 0 →
  a = s.get R.CAN_N2K_ADDR ch → m < n.name → s.get R.CAN_N2K_CLAIMED ch = 1 → n.hi < 256 → a ≠ 254 →
  ∃ t, Sys2Proof.Machine.exec (.n2kClaimReceive dt ch false m a) s = .next t ∧ t.get R.CAN_N2K_ADDR ch ≠ a ∧
    t.get R.CAN_N2K_LOSSES ch = min 255 (s.get R.CAN_N2K_LOSSES ch + 1) ∧ t.get R.CAN_EVT_N2K ch = 1 ∧
    ((n.lo ≤ t.get R.CAN_N2K_ADDR ch ∧ t.get R.CAN_N2K_ADDR ch ≤ n.hi) ∨ (t.get R.CAN_N2K_ADDR ch = 254 ∧ t.get R.CAN_N2K_CANNOT_CLAIM ch = 1 ∧ t.get R.CAN_N2K_CLAIMED ch = 0))) ∧
  (∀ (dt ch : Nat) (s : State), s.canCfg ch = none → Sys2Proof.Machine.exec (.n2kAddressClaim dt ch) s = .next (s.advance dt)) ∧
  (∀ (dt ch a m : Nat) (b : Bool) (s : State), s.canMode ch = 0 → Sys2Proof.Machine.exec (.n2kClaimReceive dt ch b m a) s = .next (s.advance dt))

/-- Received frames pass the stages of reception in order: link, FCS, length, addresses, duplicates, payload, filters,
  destinations (R426, R427, R428, R431, R432, R434, R435). -/
def Obligations.EthernetReception : Prop :=
  (∀ (dt p : Nat) (f : EthFrame) (s : State), (s.ethCfg p = none ∨ (s.ethSt p).up = false ∨ s.get R.ETH_STAT_LINK p ≠ 1) →
  Sys2Proof.Machine.exec (.ethFrameReceive dt p f) s = .next (s.advance dt)) ∧
  (∀ (dt p : Nat) (c : EthCfg) (f : EthFrame) (s : State), s.ethCfg p = some c → (s.ethSt p).up = true → s.get R.ETH_STAT_LINK p = 1 →
  (f.fcsOk = false ∨ f.len < 64 ∨ 1522 < f.len) →
  ∃ t, Sys2Proof.Machine.exec (.ethFrameReceive dt p f) s = .next t ∧
    t.get R.ETH_ERR_CNT_FCS p = (if f.fcsOk = false then min 255 (s.get R.ETH_ERR_CNT_FCS p + 1) else s.get R.ETH_ERR_CNT_FCS p) ∧
    t.get R.ETH_ERR_CNT_LENGTH p = (if f.fcsOk = false then s.get R.ETH_ERR_CNT_LENGTH p else min 255 (s.get R.ETH_ERR_CNT_LENGTH p + 1)) ∧
    Framed (regKeys p [R.ETH_ERR_CNT_FCS, R.ETH_ERR_CNT_LENGTH]) (s.advance dt) t) ∧
  (∀ (dt p : Nat) (c : EthCfg) (f : EthFrame) (s : State), s.ethCfg p = some c → (s.ethSt p).up = true → s.get R.ETH_STAT_LINK p = 1 →
  f.fcsOk = true → 64 ≤ f.len → f.len ≤ 1522 → f.dst ∈ [.broadcast, .multicast] → c.bcLimit ≠ 0 → (s.ethSt p).bcSec = (s.now + dt) / 1000000000 →
  c.bcLimit ≤ (s.ethSt p).bcCount →
  ∃ t, Sys2Proof.Machine.exec (.ethFrameReceive dt p f) s = .next t ∧ t.get R.ETH_SQ_BC_DROPS p = min 1023 (s.get R.ETH_SQ_BC_DROPS p + 1) ∧
    Framed [loc R.ETH_SQ_BC_DROPS p] (s.advance dt) t) ∧
  (∀ (dt p : Nat) (c : EthCfg) (f : EthFrame) (s : State), s.ethCfg p = some c → (s.ethSt p).up = true → s.get R.ETH_STAT_LINK p = 1 →
  f.fcsOk = true → 64 ≤ f.len → f.len ≤ 1522 → f.dst ∈ [.broadcast, .multicast, .unicast] → f.prp = none →
  (f.dst = .unicast ∨ c.bcLimit = 0 ∨ (s.ethSt p).bcSec ≠ (s.now + dt) / 1000000000 ∨ (s.ethSt p).bcCount < c.bcLimit) → (f.dst = .unicast ∨ c.bcLimit ≠ 0) →
  ∃ t, Sys2Proof.Machine.exec (.ethFrameReceive dt p f) s = .next t ∧ t.get R.ETH_RX_CNT_UNMATCHED p = (s.get R.ETH_RX_CNT_UNMATCHED p + 1) % 65536 ∧
    (f.dst ≠ .unicast → (t.ethSt p).bcCount = (if (s.ethSt p).bcSec = (s.now + dt) / 1000000000 then (s.ethSt p).bcCount else 0) + 1) ∧
    Framed [loc R.ETH_RX_CNT_UNMATCHED p] { s.advance dt with eth := t.eth } t) ∧
  (∀ (dt p n q at_ : Nat) (a b : EthCfg) (f : EthFrame) (s : State), s.ethCfg p = some a → s.ethCfg (s.ethLead p) = some b → b.prp = true → (s.ethSt p).up = true →
  s.get R.ETH_STAT_LINK p = 1 → f.fcsOk = true → 64 ≤ f.len → f.len ≤ 1522 → f.dst = .inst → f.prp = some (q, true, true) → n = s.ethLead p →
  (f.src, q, at_) ∈ (s.ethSt n).seen → s.now + dt ≤ at_ + 400000000 →
  ∃ t, Sys2Proof.Machine.exec (.ethFrameReceive dt p f) s = .next t ∧ t.get R.ETH_PRP_DUPLICATES p = (s.get R.ETH_PRP_DUPLICATES p + 1) % 65536 ∧
    Framed [loc R.ETH_PRP_DUPLICATES p] { s.advance dt with eth := t.eth } t) ∧
  (∀ (dt p n q : Nat) (a b : EthCfg) (f : EthFrame) (s : State), s.ethCfg p = some a → s.ethCfg (s.ethLead p) = some b → b.prp = true → (s.ethSt p).up = true →
  s.get R.ETH_STAT_LINK p = 1 → f.fcsOk = true → 64 ≤ f.len → f.len ≤ 1522 → f.dst = .inst → f.type = .device → f.prp = some (q, true, true) → n = s.ethLead p →
  (∀ x ∈ (s.ethSt n).seen, ¬ (x.1 = f.src ∧ x.2.1 = q)) → f.lenOk = false →
  ∃ t, Sys2Proof.Machine.exec (.ethFrameReceive dt p f) s = .next t ∧ (t.ethSt n).seen.head? = some (f.src, q, s.now + dt) ∧
    t.get R.ETH_ERR_CNT_BAD_PAYLOAD p = min 255 (s.get R.ETH_ERR_CNT_BAD_PAYLOAD p + 1) ∧
    Framed [loc R.ETH_ERR_CNT_BAD_PAYLOAD p] { s.advance dt with eth := t.eth } t) ∧
  (∀ (dt p : Nat) (c : EthCfg) (f : EthFrame) (s : State), s.ethCfg p = some c → s.ethLead p = p → (s.ethSt p).up = true → s.get R.ETH_STAT_LINK p = 1 →
  f.fcsOk = true → 64 ≤ f.len → f.len ≤ 1522 → f.dst ∈ [.own, .inst, .roll, .ptp] → c.prp = false → f.type ≠ .device →
  ∃ t, Sys2Proof.Machine.exec (.ethFrameReceive dt p f) s = .next t ∧
    t.get R.ETH_RX_CNT_FRAMES p = (if f.type = .ptp then (s.get R.ETH_RX_CNT_FRAMES p + 1) % 65536 else s.get R.ETH_RX_CNT_FRAMES p) ∧
    t.get R.ETH_RX_CNT_UNMATCHED p = (if f.type = .ptp then s.get R.ETH_RX_CNT_UNMATCHED p else (s.get R.ETH_RX_CNT_UNMATCHED p + 1) % 65536) ∧
    Framed (regKeys p [R.ETH_RX_CNT_FRAMES, R.ETH_RX_CNT_UNMATCHED]) (s.advance dt) t) ∧
  (∀ (dt p : Nat) (c : EthCfg) (f : EthFrame) (s : State), s.ethCfg p = some c → s.ethLead p = p → (s.ethSt p).up = true → s.get R.ETH_STAT_LINK p = 1 →
  f.fcsOk = true → 64 ≤ f.len → f.len ≤ 1522 → f.dst ∈ [.own, .inst, .roll, .ptp] → c.prp = false → f.type = .device →
  (f.version ≠ 1 ∨ f.lenOk = false ∨ f.checkOk = false) →
  ∃ t, Sys2Proof.Machine.exec (.ethFrameReceive dt p f) s = .next t ∧ t.get R.ETH_ERR_CNT_BAD_PAYLOAD p = min 255 (s.get R.ETH_ERR_CNT_BAD_PAYLOAD p + 1) ∧
    Framed [loc R.ETH_ERR_CNT_BAD_PAYLOAD p] (s.advance dt) t) ∧
  (∀ (dt p : Nat) (c : EthCfg) (f : EthFrame) (s : State), s.ethCfg p = some c → s.ethLead p = p → (s.ethSt p).up = true → s.get R.ETH_STAT_LINK p = 1 →
  f.fcsOk = true → 64 ≤ f.len → f.len ≤ 1522 → f.dst ∈ [.own, .inst, .roll, .ptp] → c.prp = false → f.type = .device → f.version = 1 → f.lenOk = true →
  f.checkOk = true → c.filters.find? (fun x => ethMatch x.2 f) = none →
  ∃ t, Sys2Proof.Machine.exec (.ethFrameReceive dt p f) s = .next t ∧ t.get R.ETH_RX_CNT_UNMATCHED p = (s.get R.ETH_RX_CNT_UNMATCHED p + 1) % 65536 ∧
    Framed [loc R.ETH_RX_CNT_UNMATCHED p] (s.advance dt) t) ∧
  (∀ (dt p n : Nat) (c : EthCfg) (x : EthFilter) (f : EthFrame) (s : State), s.ethCfg p = some c → s.ethLead p = p → (s.ethSt p).up = true → s.get R.ETH_STAT_LINK p = 1 →
  f.fcsOk = true → 64 ≤ f.len → f.len ≤ 1522 → f.dst ∈ [.own, .inst, .roll, .ptp] → c.prp = false → f.type = .device → f.version = 1 → f.lenOk = true →
  f.checkOk = true → c.filters.find? (fun y => ethMatch y.2 f) = some (n, x) → s.pwr.l3 ≠ 0 → x.wake = false →
  Sys2Proof.Machine.exec (.ethFrameReceive dt p f) s = .next (s.advance dt)) ∧
  (∀ (dt p n : Nat) (c : EthCfg) (x : EthFilter) (f : EthFrame) (s : State), s.ethCfg p = some c → s.ethLead p = p → (s.ethSt p).up = true → s.get R.ETH_STAT_LINK p = 1 →
  f.fcsOk = true → 64 ≤ f.len → f.len ≤ 1522 → f.dst ∈ [.own, .inst, .roll, .ptp] → c.prp = false → f.type = .device → f.version = 1 → f.lenOk = true →
  f.checkOk = true → c.filters.find? (fun y => ethMatch y.2 f) = some (n, x) → s.pwr.l3 = 0 → s.follows = true → x.dest ≠ 1 →
  ∃ t, Sys2Proof.Machine.exec (.ethFrameReceive dt p f) s = .next t ∧ t.get R.ETH_RX_CNT_FRAMES p = (s.get R.ETH_RX_CNT_FRAMES p + 1) % 65536 ∧
    t.get R.ETH_FLT_HIT_HITS (p * 32 + n) = (s.get R.ETH_FLT_HIT_HITS (p * 32 + n) + 1) % 2 ^ 32 ∧
    Framed [loc R.ETH_RX_CNT_FRAMES p, loc R.ETH_FLT_HIT_HITS (p * 32 + n)] (s.advance dt) t) ∧
  (∀ (dt p n : Nat) (c : EthCfg) (x : EthFilter) (f : EthFrame) (s : State), s.ethCfg p = some c → s.ethLead p = p → (s.ethSt p).up = true → s.get R.ETH_STAT_LINK p = 1 →
  f.fcsOk = true → 64 ≤ f.len → f.len ≤ 1522 → f.dst ∈ [.own, .inst, .roll, .ptp] → c.prp = false → f.type = .device → f.version = 1 → f.lenOk = true →
  f.checkOk = true → c.filters.find? (fun y => ethMatch y.2 f) = some (n, x) → s.pwr.l3 = 0 → x.dest = 1 →
  f.body.length < layoutLen (tget c.layouts (if f.kind = 1 then f.body.getD 0 0 else x.layout) []) →
  ∃ t, Sys2Proof.Machine.exec (.ethFrameReceive dt p f) s = .next t ∧ t.get R.ETH_RX_CNT_FRAMES p = (s.get R.ETH_RX_CNT_FRAMES p + 1) % 65536 ∧
    t.get R.ETH_FLT_HIT_HITS (p * 32 + n) = (s.get R.ETH_FLT_HIT_HITS (p * 32 + n) + 1) % 2 ^ 32 ∧
    t.get R.ETH_ERR_CNT_SHORT p = min 255 (s.get R.ETH_ERR_CNT_SHORT p + 1) ∧
    Framed [loc R.ETH_RX_CNT_FRAMES p, loc R.ETH_FLT_HIT_HITS (p * 32 + n), loc R.ETH_ERR_CNT_SHORT p] (s.advance dt) t) ∧
  (∀ (dt p n : Nat) (c : EthCfg) (x : EthFilter) (f : EthFrame) (s : State), s.ethCfg p = some c → s.ethLead p = p → (s.ethSt p).up = true → s.get R.ETH_STAT_LINK p = 1 →
  f.fcsOk = true → 64 ≤ f.len → f.len ≤ 1522 → f.dst ∈ [.own, .inst, .roll, .ptp] → c.prp = false → f.type = .device → f.version = 1 → f.lenOk = true →
  f.checkOk = true → c.filters.find? (fun y => ethMatch y.2 f) = some (n, x) → s.pwr.l3 = 0 → x.dest = 1 → s.follows = false →
  layoutLen (tget c.layouts (if f.kind = 1 then f.body.getD 0 0 else x.layout) []) ≤ f.body.length →
  Sys2Proof.Machine.exec (.ethFrameReceive dt p f) s = .next ((((s.advance dt).set R.ETH_RX_CNT_FRAMES (s.get R.ETH_RX_CNT_FRAMES p + 1) p).set R.ETH_FLT_HIT_HITS
    (s.get R.ETH_FLT_HIT_HITS (p * 32 + n) + 1) (p * 32 + n)).layoutIn (tget c.layouts (if f.kind = 1 then f.body.getD 0 0 else x.layout) []) f.body f.pm)) ∧
  (∀ (dt p n : Nat) (c : EthCfg) (x : EthFilter) (f : EthFrame) (s : State), s.ethCfg p = some c → s.ethLead p = p → (s.ethSt p).up = true → s.get R.ETH_STAT_LINK p = 1 →
  f.fcsOk = true → 64 ≤ f.len → f.len ≤ 1522 → f.dst ∈ [.own, .inst, .roll, .ptp] → c.prp = false → f.type = .device → f.version = 1 → f.lenOk = true →
  f.checkOk = true → c.filters.find? (fun y => ethMatch y.2 f) = some (n, x) → s.pwr.l3 = 0 → x.dest = 2 → s.follows = false →
  ∃ t, Sys2Proof.Machine.exec (.ethFrameReceive dt p f) s = .next t ∧ t.get R.ETH_FLT_HIT_HITS (p * 32 + n) = (s.get R.ETH_FLT_HIT_HITS (p * 32 + n) + 1) % 2 ^ 32 ∧
    t.inbox = s.inbox ++ [.env x.pigeonhole 2 ((p + 1) * 2 ^ 28 + n) (beBytes 6 f.src ++ leBytes 2 f.body.length ++ f.body) f.pm] ∧
    Framed [loc R.ETH_RX_CNT_FRAMES p, loc R.ETH_FLT_HIT_HITS (p * 32 + n)] { s.advance dt with inbox := t.inbox } t) ∧
  (∀ (dt p n i : Nat) (c : EthCfg) (x : EthFilter) (f : EthFrame) (s : State), s.ethCfg p = some c → s.ethLead p = p → (s.ethSt p).up = true → s.get R.ETH_STAT_LINK p = 1 →
  f.fcsOk = true → 64 ≤ f.len → f.len ≤ 1522 → f.dst ∈ [.own, .inst, .roll, .ptp] → c.prp = false → f.type = .device → f.version = 1 → f.lenOk = true →
  f.checkOk = true → c.filters.find? (fun y => ethMatch y.2 f) = some (n, x) → s.pwr.l3 = 0 → x.dest = 3 → s.follows = false → f.kind = 3 → f.body.length = 12 →
  firstBad (fun (d : NodeCfg) => !(d.addr = ofLe ((f.body.drop 10).take 2) && d.addr / 4096 = p + 1 && d.mac = f.src)) s.man.nodes 0 = some i →
  Sys2Proof.Machine.exec (.ethFrameReceive dt p f) s = .next ((((s.advance dt).set R.ETH_RX_CNT_FRAMES (s.get R.ETH_RX_CNT_FRAMES p + 1) p).set R.ETH_FLT_HIT_HITS
    (s.get R.ETH_FLT_HIT_HITS (p * 32 + n) + 1) (p * 32 + n)).rollReply i (ofBe ((f.body.drop 2).take 8)) (ofLe (f.body.take 2)))) ∧
  (∀ (dt p n : Nat) (c : EthCfg) (x : EthFilter) (f : EthFrame) (s : State), s.ethCfg p = some c → s.ethLead p = p → (s.ethSt p).up = true → s.get R.ETH_STAT_LINK p = 1 →
  f.fcsOk = true → 64 ≤ f.len → f.len ≤ 1522 → f.dst ∈ [.own, .inst, .roll, .ptp] → c.prp = false → f.type = .device → f.version = 1 → f.lenOk = true →
  f.checkOk = true → c.filters.find? (fun y => ethMatch y.2 f) = some (n, x) → s.pwr.l3 = 0 → x.dest = 3 → f.kind = 3 →
  (∀ d ∈ s.man.nodes, d.mac ≠ f.src) →
  ∃ t, Sys2Proof.Machine.exec (.ethFrameReceive dt p f) s = .next t ∧ t.mnf = s.mnf ∧ t.inbox = s.inbox ∧
    Framed [loc R.ETH_RX_CNT_FRAMES p, loc R.ETH_FLT_HIT_HITS (p * 32 + n)] (s.advance dt) t)

/-- Cyclic frames, queues and gates, link state, PHY scripts and the squall guard of the ports (R424, R427, R429, R430, R431,
  R435). -/
def Obligations.EthernetTransmission : Prop :=
  (∀ (dt p n : Nat) (c : EthCfg) (x : EthTx) (s : State), s.ethCfg p = some c → tfind c.txs n = some x → x.periodUs ≠ none →
  (s.advance dt).cyclicRuns x.drive x.node = true → s.ethLead p = p → c.prp = false → s.get R.ETH_STAT_TX_ON p = 1 → s.get R.ETH_STAT_LINK p ≠ 1 →
  ∃ t, Sys2Proof.Machine.exec (.ethPeriodicTransmit dt p n) s = .next t ∧ tget t.ethSeq 1 0 = (tget s.ethSeq 1 0 + 1) % 65536 ∧
    (t.ethSt p).queues = (s.ethSt p).queues ++ [{ queue := if x.urgent || x.drive then 6 else 5, kind := 1, seq := (tget s.ethSeq 1 0 + 1) % 65536, len := max 64 (30 + (if c.vlan = 0 then 0 else 4) + (4 + (((s.advance dt).layoutOut x.fields x.len).drop 4).length)), body := [x.layout, 0, 0, 0] ++ ((s.advance dt).layoutOut x.fields x.len).drop 4 }] ∧
    Framed [] { s.advance dt with eth := t.eth, ethSeq := t.ethSeq } t) ∧
  (∀ (dt p n : Nat) (c : EthCfg) (x : EthTx) (s : State), s.ethCfg p = some c → tfind c.txs n = some x → x.periodUs ≠ none →
  (s.advance dt).cyclicRuns x.drive x.node = true → s.ethLead p = p → c.prp = false → s.get R.ETH_STAT_TX_ON p ≠ 1 →
  ∃ t, Sys2Proof.Machine.exec (.ethPeriodicTransmit dt p n) s = .next t ∧ tget t.ethSeq 1 0 = (tget s.ethSeq 1 0 + 1) % 65536 ∧
    Framed [] { s.advance dt with ethSeq := t.ethSeq } t) ∧
  (∀ (dt p n : Nat) (c : EthCfg) (x : EthTx) (s : State), s.ethCfg p = some c → tfind c.txs n = some x →
  (x.periodUs = none ∨ (s.advance dt).cyclicRuns x.drive x.node = false ∨ s.ethLead p ≠ p) →
  Sys2Proof.Machine.exec (.ethPeriodicTransmit dt p n) s = .next (s.advance dt)) ∧
  (∀ (dt p : Nat) (s : State), (s.ethSt p).cur = none → Sys2Proof.Machine.exec (.ethFrameTransmitDone dt p) s = .next (s.advance dt)) ∧
  (∀ (dt p : Nat) (f : EthOut) (s : State), (s.ethSt p).cur = some f → (s.ethSt p).queues = [] →
  ∃ t, Sys2Proof.Machine.exec (.ethFrameTransmitDone dt p) s = .next t ∧ t.ethSt p = { s.ethSt p with cur := none } ∧
    t.get R.ETH_TX_CNT_FRAMES p = (s.get R.ETH_TX_CNT_FRAMES p + 1) % 65536 ∧
    t.get R.ETH_Q_STAT_SENT (p * 8 + f.queue) = (s.get R.ETH_Q_STAT_SENT (p * 8 + f.queue) + 1) % 2 ^ 23 ∧
    Framed [loc R.ETH_TX_CNT_FRAMES p, loc R.ETH_Q_STAT_SENT (p * 8 + f.queue)] { s.advance dt with eth := t.eth } t) ∧
  (∀ (dt p : Nat) (c : EthCfg) (f g h : EthOut) (s : State), s.ethCfg p = some c → (s.ethSt p).cur = some f → (s.ethSt p).queues = [g, h] → g.queue < h.queue →
  h.queue < 8 → s.get R.ETH_STAT_LINK p = 1 → s.get R.ETH_STAT_TX_ON p = 1 → s.get R.ETH_STAT_FAULT p ≠ 1 → s.get R.ETH_STAT_SQUALL p ≠ 1 → c.gates = [] →
  ∃ t, Sys2Proof.Machine.exec (.ethFrameTransmitDone dt p) s = .next t ∧ t.ethSt p = { s.ethSt p with cur := some h, queues := [g] } ∧
    t.get R.ETH_Q_STAT_SENT (p * 8 + f.queue) = (s.get R.ETH_Q_STAT_SENT (p * 8 + f.queue) + 1) % 2 ^ 23) ∧
  (∀ (dt p : Nat) (s : State), (∀ c, s.ethCfg p = some c → c.gates = []) → Sys2Proof.Machine.exec (.gateListEntry dt p) s = .next (s.advance dt)) ∧
  (∀ (dt p l : Nat) (c : EthCfg) (f : EthOut) (s : State), s.ethCfg p = some c → c.gates ≠ [] → (s.ethSt p).cur = none → (s.ethSt p).queues = [f] → f.queue < 8 →
  s.get R.ETH_STAT_LINK p = 1 → s.get R.ETH_STAT_TX_ON p = 1 → s.get R.ETH_STAT_FAULT p ≠ 1 → (s.advance dt).gateOf p f.queue = some (some l) →
  ∃ t, Sys2Proof.Machine.exec (.gateListEntry dt p) s = .next t ∧ t.get R.ETH_GCL_CURRENT p = ((s.advance dt).gateNow c).1 % 64 ∧
    (ethTime f.len (s.get R.ETH_STAT_SPEED p) ≤ l → t.ethSt p = { s.ethSt p with cur := some f, queues := [] } ∧
      t.get R.ETH_TX_CNT_GUARD_HOLDS p = s.get R.ETH_TX_CNT_GUARD_HOLDS p) ∧
    (l < ethTime f.len (s.get R.ETH_STAT_SPEED p) → t.ethSt p = { s.ethSt p with queues := [{ f with held := true }] } ∧
      t.get R.ETH_TX_CNT_GUARD_HOLDS p = (if f.held then s.get R.ETH_TX_CNT_GUARD_HOLDS p else (s.get R.ETH_TX_CNT_GUARD_HOLDS p + 1) % 65536)) ∧
    Framed (regKeys p [R.ETH_GCL_CURRENT, R.ETH_TX_CNT_GUARD_HOLDS]) { s.advance dt with eth := t.eth } t) ∧
  (∀ (dt p : Nat) (c : EthCfg) (f : EthOut) (s : State), s.ethCfg p = some c → c.gates ≠ [] → (s.ethSt p).queues = [f] → (s.advance dt).gateOf p f.queue = none →
  ∃ t, Sys2Proof.Machine.exec (.gateListEntry dt p) s = .next t ∧ t.ethSt p = { s.ethSt p with queues := [{ f with held := false }] } ∧
    Framed [loc R.ETH_GCL_CURRENT p] { s.advance dt with eth := t.eth } t) ∧
  (∀ (dt p v n : Nat) (l : Bool) (s : State), s.ethIs p 1 = true → s.get R.ETH_STAT_FAULT p ≠ 1 → v < 4 → n = (if l then v else 0) →
  (l ≠ s.flag R.ETH_STAT_LINK p ∨ n ≠ s.get R.ETH_STAT_SPEED p) → (s.ethSt p).queues = [] →
  ∃ t, Sys2Proof.Machine.exec (.phyStatusPoll dt p l v) s = .next t ∧ t.get R.ETH_STAT_LINK p = (if l then 1 else 0) ∧ t.get R.ETH_STAT_SPEED p = n ∧ t.get R.ETH_EVT_LINK p = 1 ∧
    Framed (regKeys p [R.ETH_STAT_LINK, R.ETH_STAT_SPEED, R.ETH_EVT_LINK]) (s.advance dt) t) ∧
  (∀ (dt p v : Nat) (l : Bool) (s : State), (s.ethIs p 1 = false ∨ (l = s.flag R.ETH_STAT_LINK p ∧ (if l then v else 0) = s.get R.ETH_STAT_SPEED p)) →
  Sys2Proof.Machine.exec (.phyStatusPoll dt p l v) s = .next (s.advance dt)) ∧
  (∀ (dt p v n : Nat) (l : Bool) (s : State), s.ethIs p 2 = true → v < 4 → n = (if l then v else 0) →
  (l ≠ s.flag R.ETH_STAT_LINK p ∨ n ≠ s.get R.ETH_STAT_SPEED p) → (s.ethSt p).queues = [] →
  ∃ t, Sys2Proof.Machine.exec (.sgmiiLinkChange dt p l v) s = .next t ∧ t.get R.ETH_STAT_LINK p = (if l then 1 else 0) ∧ t.get R.ETH_STAT_SPEED p = n ∧ t.get R.ETH_EVT_LINK p = 1 ∧
    Framed (regKeys p [R.ETH_STAT_LINK, R.ETH_STAT_SPEED, R.ETH_EVT_LINK]) (s.advance dt) t) ∧
  (∀ (dt p v : Nat) (l : Bool) (s : State), (s.ethIs p 2 = false ∨ (l = s.flag R.ETH_STAT_LINK p ∧ (if l then v else 0) = s.get R.ETH_STAT_SPEED p)) →
  Sys2Proof.Machine.exec (.sgmiiLinkChange dt p l v) s = .next (s.advance dt)) ∧
  (∀ (dt p n : Nat) (ok : Bool) (s : State), s.ethIs p 1 = true → (s.ethSt p).queues = [] → (ok = (s.flag R.ETH_STAT_FAULT p)) →
  ∃ t, Sys2Proof.Machine.exec (.phyScriptRetry dt p ok n) s = .next t ∧ t.get R.ETH_STAT_FAULT p = (if ok then 0 else 1) ∧ (ok = false → t.get R.ETH_EVT_FAULT p = 1) ∧
    Framed (regKeys p (if ok then [R.ETH_STAT_FAULT] else [R.ETH_STAT_FAULT, R.ETH_EVT_FAULT])) (s.advance dt) t) ∧
  (∀ (dt p n : Nat) (ok : Bool) (s : State), (s.ethIs p 1 = false ∨ ok ≠ s.flag R.ETH_STAT_FAULT p) → Sys2Proof.Machine.exec (.phyScriptRetry dt p ok n) s = .next (s.advance dt)) ∧
  (∀ (dt p : Nat) (b : Rat) (c : EthCfg) (s : State), s.ethCfg p = some c → s.tick % 100 = 0 → s.get R.ETH_STAT_SQUALL p ≠ 1 →
  ∃ t, Sys2Proof.Machine.exec (.ethSquallUpdate dt p b) s = .next t ∧ (t.ethSt p).loads = (b :: (s.ethSt p).loads).take 10 ∧
    t.get R.ETH_LOAD_PEAK_PM p = max (t.get R.ETH_LOAD_LOAD_PM p) (s.get R.ETH_LOAD_PEAK_PM p) % 1024 ∧
    ((c.sqHold : Rat) / 100 ≤ ((b :: (s.ethSt p).loads).take 10).sum / 10 → t.get R.ETH_STAT_SQUALL p = 1 ∧
      t.get R.ETH_SQ_HOLDS p = min 255 (s.get R.ETH_SQ_HOLDS p + 1) ∧ t.get R.ETH_EVT_SQUALL p = 1 ∧ (t.ethSt p).holdAt = some (s.now + dt)) ∧
    (((b :: (s.ethSt p).loads).take 10).sum / 10 < (c.sqHold : Rat) / 100 → t.get R.ETH_STAT_SQUALL p = s.get R.ETH_STAT_SQUALL p ∧
      t.ethSt p = { s.ethSt p with loads := (b :: (s.ethSt p).loads).take 10 }) ∧
    Framed (regKeys p [R.ETH_LOAD_LOAD_PM, R.ETH_LOAD_PEAK_PM, R.ETH_STAT_SQUALL, R.ETH_SQ_HOLDS, R.ETH_EVT_SQUALL]) { s.advance dt with eth := t.eth } t) ∧
  (∀ (dt p : Nat) (b : Rat) (c : EthCfg) (s : State), s.ethCfg p = some c → s.tick % 100 = 0 → s.get R.ETH_STAT_SQUALL p = 1 → (s.ethSt p).queues = [] →
  ∃ t, Sys2Proof.Machine.exec (.ethSquallUpdate dt p b) s = .next t ∧
    t.get R.ETH_STAT_SQUALL p = (if ((b :: (s.ethSt p).loads).take 10).sum / 10 ≤ (c.sqRelease : Rat) / 100 then 0 else 1) ∧
    (((b :: (s.ethSt p).loads).take 10).sum / 10 ≤ (c.sqRelease : Rat) / 100 → (t.ethSt p).holdAt = none ∧ (t.ethSt p).squallAlarm = false) ∧
    Framed (regKeys p [R.ETH_LOAD_LOAD_PM, R.ETH_LOAD_PEAK_PM, R.ETH_STAT_SQUALL]) { s.advance dt with eth := t.eth } t) ∧
  (∀ (dt p a : Nat) (s : State), (s.ethSt p).holdAt = some a → a + 1000000000 ≤ s.now + dt → (s.ethSt p).squallAlarm = false → s.alarms = [] →
  ∃ t, Sys2Proof.Machine.exec (.ethSquallAlarm dt p) s = .next t ∧ t.ethSt p = { s.ethSt p with squallAlarm := true } ∧ t.alarms = [(0, ⟨0x1503, p, 1⟩)] ∧
    Framed [] { s.advance dt with eth := t.eth } t) ∧
  (∀ (dt p : Nat) (s : State), (∀ a, (s.ethSt p).holdAt = some a → s.now + dt < a + 1000000000 ∨ (s.ethSt p).squallAlarm = true) →
  Sys2Proof.Machine.exec (.ethSquallAlarm dt p) s = .next (s.advance dt))

/-- Fleet reports, and work records with their tiles, sealing, acknowledgement and loss (R436, R437, R438, R442). -/
def Obligations.DispatchAndWorkRecord : Prop :=
  (∀ (dt p : Nat) (c : EthCfg) (s : State), s.man.disp.ports = [p] → (s.advance dt).classDRuns = true → s.ethCfg p = some c → c.prp = false →
  s.get R.ETH_STAT_TX_ON p = 1 → s.get R.ETH_STAT_LINK p ≠ 1 →
  ∃ t, Sys2Proof.Machine.exec (.dispatchReport dt) s = .next t ∧ t.get R.ETH_DISP_STAT_SEQ = (tget s.ethSeq 4 0 + 1) % 65536 ∧ tget t.ethSeq 4 0 = (tget s.ethSeq 4 0 + 1) % 65536 ∧
    t.work = { s.work with dispGap := false, dispSent := true } ∧
    (t.ethSt p).queues = (s.ethSt p).queues ++ [{ queue := 1, kind := 4, seq := (tget s.ethSeq 4 0 + 1) % 65536, len := max 64 (30 + (if c.vlan = 0 then 0 else 4) + (s.advance dt).dispBody.length), body := (s.advance dt).dispBody }] ∧
    Framed [loc R.ETH_DISP_STAT_SEQ 0] { s.advance dt with eth := t.eth, ethSeq := t.ethSeq, work := t.work } t) ∧
  (∀ (dt : Nat) (s : State), s.man.disp.ports ≠ [] → s.classDRuns = false →
  Sys2Proof.Machine.exec (.dispatchReport dt) s = .next { s.advance dt with work := { s.work with dispGap := s.work.dispGap || s.work.dispSent } }) ∧
  (∀ (dt : Nat) (s : State), s.man.disp.ports = [] → Sys2Proof.Machine.exec (.dispatchReport dt) s = .next (s.advance dt)) ∧
  (∀ (dt : Nat) (s : State), s.man.work.channels = [] → Sys2Proof.Machine.exec (.workRecordSample dt) s = .next (s.advance dt)) ∧
  (∀ (dt : Nat) (s : State), s.man.work.channels ≠ [] → s.classDRuns = false →
  Sys2Proof.Machine.exec (.workRecordSample dt) s = .next { s.advance dt with work := { s.work with gap := s.work.gap || s.work.begun } }) ∧
  (∀ (dt : Nat) (k : Tile) (s : State), s.man.work.channels ≠ [] → s.classDRuns = true → s.openTile = some k →
  ∃ t, Sys2Proof.Machine.exec (.workRecordSample dt) s = .next t ∧
    tfind t.work.tiles (s.tileIdx k.seq) = some { k with recs := k.recs ++ [(s.advance dt).workBytes], sealed_ := decide (65536 < 64 + (k.recs.length + 2) * s.workRec) } ∧
    t.work.head = (if 65536 < 64 + (k.recs.length + 2) * s.workRec then k.seq else s.work.head) ∧ t.work.last = s.work.last ∧ t.work.gap = false ∧
    Framed [] { s.advance dt with work := t.work } t) ∧
  (∀ (dt : Nat) (s : State), s.man.work.channels ≠ [] → s.classDRuns = true → s.openTile = none → s.workTaken = true → s.man.work.hold = true →
  ∃ t, Sys2Proof.Machine.exec (.workRecordSample dt) s = .next t ∧ t.get R.ETH_WR_STAT_FULL = 1 ∧ t.work.gap = true ∧ t.work.tiles = s.work.tiles ∧ t.work.last = s.work.last ∧
    Framed [loc R.ETH_WR_STAT_FULL 0] { s.advance dt with work := t.work } t) ∧
  (∀ (dt : Nat) (s : State), s.man.work.channels ≠ [] → s.classDRuns = true → s.openTile = none → (s.workTaken = false ∨ s.man.work.hold = false) →
  ∃ t, Sys2Proof.Machine.exec (.workRecordSample dt) s = .next t ∧ t.get R.ETH_WR_STAT_FULL = 0 ∧ t.work.last = s.work.last + 1 ∧ t.work.gap = false ∧
    t.get R.ETH_WR_STAT_LOST = (if s.workTaken then (s.get R.ETH_WR_STAT_LOST + 1) % 65536 else s.get R.ETH_WR_STAT_LOST) ∧
    (tfind t.work.tiles (s.tileIdx (s.work.last + 1))).map (fun k => (k.seq, k.firstAt, k.recs)) = some (s.work.last + 1, s.now + dt, [(s.advance dt).workBytes]) ∧
    Framed (regKeys 0 [R.ETH_WR_STAT_FULL, R.ETH_WR_STAT_LOST]) { s.advance dt with work := t.work } t) ∧
  (∀ (dt : Nat) (k : Tile) (s : State), s.openTile = some k → k.firstAt + s.man.work.sealS * 1000000000 ≤ s.now + dt →
  Sys2Proof.Machine.exec (.workRecordTileSeal dt) s = .next { s.advance dt with work := { s.work with tiles := tput s.work.tiles (s.tileIdx k.seq) { k with sealed_ := true }, head := k.seq } }) ∧
  (∀ (dt : Nat) (s : State), (∀ k, s.openTile = some k → s.now + dt < k.firstAt + s.man.work.sealS * 1000000000) →
  Sys2Proof.Machine.exec (.workRecordTileSeal dt) s = .next (s.advance dt)) ∧
  (∀ (dt v : Nat) (p : Port) (s : State), v < 2 ^ 32 →
  ∃ t, Sys2Proof.Machine.exec (.ethWrAckWrite dt p v) s = .next t ∧ t.work = { s.work with ack := v * 2 ^ 32 + s.get R.ETH_WR_ACK_LO_SEQ } ∧ t.get R.ETH_WR_ACK_HI_SEQ = v ∧
    t.get R.ETH_WR_STAT_FULL = (if t.workTaken then s.get R.ETH_WR_STAT_FULL else 0) ∧
    Framed (regKeys 0 [R.ETH_WR_ACK_HI_SEQ, R.ETH_WR_STAT_FULL]) { s.advance dt with work := t.work } t) ∧
  (∀ (dt : Nat) (p : Port) (s : State),
  ∃ t, Sys2Proof.Machine.exec (.ethWrHeadLoRead dt p) s = .next t ∧ (t.port p).rdata = s.work.head % 2 ^ 32 ∧ t.work = { s.work with latchHi := s.work.head / 2 ^ 32 } ∧
    t.regs = s.regs ∧ t.port (if p = .spi then .pcie else .spi) = s.port (if p = .spi then .pcie else .spi))

/-- Closing records, flushing and its holds, sectors, fetches, marks and erasing (R446, R447, R448, R453, R454, R455, R456,
  R457, R458). -/
def Obligations.EventRecorder : Prop :=
  (∀ (dt : Nat) (s : State), s.log.isOpen = true → s.log.lastAt + 10000000000 ≤ s.now + dt →
  Sys2Proof.Machine.exec (.openRecordTimeout dt) s = .next { s.advance dt with log := { s.log with isOpen := false } }) ∧
  (∀ (dt : Nat) (s : State), (s.log.isOpen = false ∨ s.now + dt < s.log.lastAt + 10000000000) → Sys2Proof.Machine.exec (.openRecordTimeout dt) s = .next (s.advance dt)) ∧
  (∀ (dt n : Nat) (ok : Bool) (s : State), s.flushHold = n → n ≠ 0 →
  ∃ t, Sys2Proof.Machine.exec (.recorderFlush dt ok) s = .next t ∧ t.get R.LOG_STAT_HOLD_REASON = n ∧ (s.nvmOpen = false → n = 1) ∧
    (s.nvmOpen = true → s.get R.PWR_STAT_DEPTH = 3 → n = 2) ∧
    (s.nvmOpen = true → s.get R.PWR_STAT_DEPTH ≠ 3 → s.get R.PWR_FC_STAT_SHED_H = 1 → s.log.unflushed.length ≤ 12288 → n = 3) ∧ (n = 4 → s.mnf.waiting ≠ []) ∧
    t.log = { s.log with heldAt := if s.toFlush = [] then s.log.heldAt else some (s.log.heldAt.getD (s.now + dt)) } ∧
    Framed [loc R.LOG_STAT_HOLD_REASON 0] (s.advance dt) t) ∧
  (∀ (dt : Nat) (ok : Bool) (s : State), s.flushHold = 0 → s.toFlush = [] → s.log.heldNoted = false → s.get R.PWR_FC_STAT_SHED_H ≠ 1 →
  ∃ t, Sys2Proof.Machine.exec (.recorderFlush dt ok) s = .next t ∧ t.get R.LOG_STAT_HOLD_REASON = 0 ∧ t.log = { s.log with heldAt := none } ∧
    Framed [loc R.LOG_STAT_HOLD_REASON 0] (s.advance dt) t) ∧
  (∀ (dt : Nat) (r : Rec) (l : List Rec) (s : State), s.flushHold = 0 → s.toFlush = r :: l → s.log.heldNoted = false → s.get R.PWR_FC_STAT_SHED_H ≠ 1 →
  s.log.lostSeqs = [] → s.log.lostRam = 0 → s.log.lostHold = 0 →
  ∃ t, Sys2Proof.Machine.exec (.recorderFlush dt true) s = .next t ∧ t.get R.LOG_STAT_HOLD_REASON = 0 ∧ t.log.flushed = r.seq ∧ t.log.heldAt = none ∧
    t.log.flash = (r :: l).reverse.foldl (fun f x => tput f (flashPos x.seq) x) s.log.flash ∧ t.log.ram = s.log.ram ∧ t.log.head = s.log.head ∧
    Framed [loc R.LOG_STAT_HOLD_REASON 0] { s.advance dt with mnf := t.mnf } t) ∧
  (∀ (dt : Nat) (r : Rec) (l : List Rec) (s : State), s.flushHold = 0 → s.toFlush = r :: l → s.log.heldNoted = false → s.get R.PWR_FC_STAT_SHED_H ≠ 1 →
  ∃ t, Sys2Proof.Machine.exec (.recorderFlush dt false) s = .next t ∧ t.get R.LOG_STAT_FLASH_ERR = 1 ∧ t.get R.LOG_EVT_FLASH_ERR = 1 ∧ t.log.flash = s.log.flash ∧
    t.log.flushed = s.log.flushed ∧ Framed (regKeys 0 [R.LOG_STAT_HOLD_REASON, R.LOG_STAT_FLASH_ERR, R.LOG_EVT_FLASH_ERR]) (s.advance dt) t) ∧
  (∀ (dt : Nat) (s : State), s.log.erasedAhead < 3 →
  ∃ t, Sys2Proof.Machine.exec (.sectorEraseDone dt) s = .next t ∧ t.log.erasedAhead = s.log.erasedAhead + 1 ∧
    (∀ x ∈ t.log.flash, x.1 / 1024 ≠ ((s.log.flushed + 1) / 1024 + s.log.erasedAhead + 1) % 1028) ∧ (∀ x ∈ t.log.flash, x ∈ s.log.flash) ∧
    Framed [] (s.advance dt) t) ∧
  (∀ (dt : Nat) (s : State), 3 ≤ s.log.erasedAhead → Sys2Proof.Machine.exec (.sectorEraseDone dt) s = .next (s.advance dt)) ∧
  (∀ (dt a : Nat) (s : State), s.log.heldAt = some a → a + 60000000000 ≤ s.now + dt → s.log.heldNoted = false →
  ∃ t, Sys2Proof.Machine.exec (.flushHeldTimeout dt) s = .next t ∧ t.log.heldNoted = true ∧ t.log.heldAt = some a ∧ t.log.flushed = s.log.flushed ∧ Framed [] (s.advance dt) t) ∧
  (∀ (dt : Nat) (s : State), (∀ a, s.log.heldAt = some a → s.now + dt < a + 60000000000 ∨ s.log.heldNoted = true) → Sys2Proof.Machine.exec (.flushHeldTimeout dt) s = .next (s.advance dt)) ∧
  (∀ (dt hi : Nat) (p : Port) (s : State), s.get R.LOG_RD_SEQ_LO_SEQ < 2 ^ 32 →
  ∃ t, Sys2Proof.Machine.exec (.logFetchStart dt p hi) s = .next t ∧ t.log = { s.log with rdSeq := hi % 2 ^ 32 * 2 ^ 32 + s.get R.LOG_RD_SEQ_LO_SEQ, fetchAt := some (s.now + dt) } ∧
    t.get R.LOG_RD_STAT_BUSY = 1 ∧ t.get R.LOG_RD_STAT_READY = 0 ∧ t.get R.LOG_RD_SEQ_HI_SEQ = hi % 2 ^ 32 ∧
    Framed (regKeys 0 [R.LOG_RD_SEQ_HI_SEQ, R.LOG_RD_STAT_BUSY, R.LOG_RD_STAT_READY]) (s.advance dt) t) ∧
  (∀ (dt a : Nat) (s : State), s.log.fetchAt = some a →
  ∃ t, Sys2Proof.Machine.exec (.logFetchDone dt) s = .next t ∧ t.log = { s.log with window := (List.range 32).map (fun i => s.recordAt (s.log.rdSeq + i)), fetchAt := none } ∧
    t.get R.LOG_RD_STAT_BUSY = 0 ∧ t.get R.LOG_RD_STAT_READY = 1 ∧
    t.get R.LOG_RD_STAT_HELD = ((List.range 32).filter fun i => (s.recordAt (s.log.rdSeq + i)).any fun r => r.seq = s.log.rdSeq + i).length ∧
    Framed (regKeys 0 [R.LOG_RD_STAT_BUSY, R.LOG_RD_STAT_READY, R.LOG_RD_STAT_HELD]) (s.advance dt) t) ∧
  (∀ (dt : Nat) (s : State), s.log.fetchAt = none → Sys2Proof.Machine.exec (.logFetchDone dt) s = .next (s.advance dt)) ∧
  (∀ (dt off : Nat) (p : Port) (s : State), s.pwr.l3 ≠ 1 →
  ∃ t, Sys2Proof.Machine.exec (.logSeqLoRead dt p off) s = .next t ∧ (t.port p).rdata = s.logPair off % 2 ^ 32 ∧ tget t.log.latchHi (off + 4) 0 = s.logPair off / 2 ^ 32 ∧
    (off = 0x16004 → (t.port p).rdata = s.log.head % 2 ^ 32) ∧ (off = 0x1600C → (t.port p).rdata = s.log.flushed % 2 ^ 32) ∧
    (off = 0x16048 → (t.port p).rdata = s.log.erasedTo % 2 ^ 32) ∧ t.regs = s.regs ∧ t.log.ram = s.log.ram ∧ t.log.head = s.log.head) ∧
  (∀ (dt hi n m : Nat) (p : Port) (s : State), n = s.get R.LOG_MARK_SEL_SLOT → m = hi % 2 ^ 32 * 2 ^ 32 + s.log.markLo → tget s.log.marks n 0 ≤ m → m ≤ s.log.head →
  ∃ t, Sys2Proof.Machine.exec (.logMarkWrite dt p hi) s = .next t ∧ tget t.log.marks n 0 = m ∧ (∀ k, k < 8 → k ≠ n → tget t.log.marks k 0 = tget s.log.marks k 0) ∧
    Framed [] { s.advance dt with mnf := t.mnf } t) ∧
  (∀ (dt hi n m : Nat) (p : Port) (s : State), n = s.get R.LOG_MARK_SEL_SLOT → m = hi % 2 ^ 32 * 2 ^ 32 + s.log.markLo → (m < tget s.log.marks n 0 ∨ s.log.head < m) →
  ∃ t, Sys2Proof.Machine.exec (.logMarkWrite dt p hi) s = .next t ∧ t.log.marks = s.log.marks ∧ t.get R.LOG_MARK_STAT_REFUSED n = 1 ∧ t.get R.LOG_EVT_MARK_REFUSED = 1 ∧
    Framed [loc R.LOG_MARK_STAT_REFUSED n, loc R.LOG_EVT_MARK_REFUSED 0] (s.advance dt) t) ∧
  (∀ (dt k : Nat) (p : Port) (s : State), s.session p = some .maker → s.pwr.l3 ≠ 1 → k = s.log.head % 2 ^ 32 →
  ∃ t, Sys2Proof.Machine.exec (.logErase dt p k) s = .next t ∧ t.log.erasedTo = s.log.head ∧ t.get R.LOG_STAT_ERASING = 1 ∧ t.get R.LOG_EVT_ERASED = 1 ∧ t.role.rwlAt = s.now + dt ∧
    Framed (regKeys 0 [R.LOG_STAT_ERASING, R.LOG_EVT_ERASED]) { s.advance dt with role := t.role, mnf := t.mnf } t) ∧
  (∀ (dt k : Nat) (p : Port) (s : State), s.pwr.l3 ≠ 1 → (s.session p ≠ some .maker ∨ k ≠ s.log.head % 2 ^ 32) →
  ∃ t, Sys2Proof.Machine.exec (.logErase dt p k) s = .next t ∧ t.log.erasedTo = s.log.erasedTo ∧ t.log.flash = s.log.flash ∧ Framed [] { s.advance dt with role := t.role } t) ∧
  (∀ (dt : Nat) (s : State), s.get R.LOG_STAT_ERASING = 1 → s.nvmOpen = true →
  ∃ t, Sys2Proof.Machine.exec (.logBackgroundEraseDone dt) s = .next t ∧ t.get R.LOG_STAT_ERASING = 0 ∧ t.log = { s.log with flash := s.log.flash.filter fun x => s.log.erasedTo < x.2.seq } ∧
    Framed [loc R.LOG_STAT_ERASING 0] (s.advance dt) t) ∧
  (∀ (dt : Nat) (s : State), (s.get R.LOG_STAT_ERASING ≠ 1 ∨ s.nvmOpen = false) → Sys2Proof.Machine.exec (.logBackgroundEraseDone dt) s = .next (s.advance dt))

/-- Reading and writing the point window: latched entries, staging, commits and refusals (R465, R466, R33, R358). -/
def Obligations.PointWindow : Prop :=
  (∀ (dt o i : Nat) (p : Port) (s : State), s.pwr.l3 ≠ 1 → i = s.winIdx p o → o % 32 / 4 = 0 →
  ∃ t, Sys2Proof.Machine.exec (.pointWindowRead dt p o) s = .next t ∧ t.port p = { s.port p with latched := some (i, s.ptWords i), rdata := (s.ptWords i).getD 0 0 } ∧
    t.regs = s.regs ∧ t.pts = s.pts ∧ t.inbox = s.inbox) ∧
  (∀ (dt o : Nat) (p : Port) (s : State), s.pwr.l3 ≠ 1 → o % 32 / 4 ≠ 0 →
  ∃ t, Sys2Proof.Machine.exec (.pointWindowRead dt p o) s = .next t ∧ (t.port p).latched = (s.port p).latched ∧
    (t.port p).rdata = (match (s.port p).latched with
      | some (j, ws) => if j = s.winIdx p o then ws.getD (o % 32 / 4) 0 else (s.ptWords (s.winIdx p o)).getD (o % 32 / 4) 0
      | none => (s.ptWords (s.winIdx p o)).getD (o % 32 / 4) 0) ∧ t.regs = s.regs ∧ t.pts = s.pts ∧ t.inbox = s.inbox) ∧
  (∀ (dt o v : Nat) (p : Port) (s : State), s.onTrunk15 (s.winIdx p o) = false →
  ∃ t, Sys2Proof.Machine.exec (.pointQualityStage dt p o v) s = .next t ∧ t.get R.DEV_PT_STAT_WR_RESULT = 3 ∧
    t.get R.DEV_HOST_ERR_POINT_REFUSED = (s.get R.DEV_HOST_ERR_POINT_REFUSED + 1) % 65536 ∧
    Framed (regKeys 0 [R.DEV_PT_STAT_WR_RESULT, R.DEV_HOST_ERR_POINT_REFUSED]) (s.advance dt) t) ∧
  (∀ (dt o v : Nat) (p : Port) (s : State), s.onTrunk15 (s.winIdx p o) = false →
  ∃ t, Sys2Proof.Machine.exec (.pointValueLowStage dt p o v) s = .next t ∧ t.get R.DEV_PT_STAT_WR_RESULT = 3 ∧
    t.get R.DEV_HOST_ERR_POINT_REFUSED = (s.get R.DEV_HOST_ERR_POINT_REFUSED + 1) % 65536 ∧
    Framed (regKeys 0 [R.DEV_PT_STAT_WR_RESULT, R.DEV_HOST_ERR_POINT_REFUSED]) (s.advance dt) t) ∧
  (∀ (dt o v : Nat) (p : Port) (s : State), s.onTrunk15 (s.winIdx p o) = false →
  ∃ t, Sys2Proof.Machine.exec (.pointValueCommit dt p o v) s = .next t ∧ t.get R.DEV_PT_STAT_WR_RESULT = 3 ∧
    t.get R.DEV_HOST_ERR_POINT_REFUSED = (s.get R.DEV_HOST_ERR_POINT_REFUSED + 1) % 65536 ∧
    Framed (regKeys 0 [R.DEV_PT_STAT_WR_RESULT, R.DEV_HOST_ERR_POINT_REFUSED]) (s.advance dt) t) ∧
  (∀ (dt o : Nat) (p : Port) (s : State), s.onTrunk15 (s.winIdx p o) = false →
  ∃ t, Sys2Proof.Machine.exec (.pointWindowOtherWrite dt p o) s = .next t ∧ t.get R.DEV_PT_STAT_WR_RESULT = 3 ∧
    t.get R.DEV_HOST_ERR_POINT_REFUSED = (s.get R.DEV_HOST_ERR_POINT_REFUSED + 1) % 65536 ∧
    Framed (regKeys 0 [R.DEV_PT_STAT_WR_RESULT, R.DEV_HOST_ERR_POINT_REFUSED]) (s.advance dt) t) ∧
  (∀ (dt o v : Nat) (p : Port) (s : State), s.onTrunk15 (s.winIdx p o) = true → v % 16 ≤ 6 →
  ∃ t, Sys2Proof.Machine.exec (.pointQualityStage dt p o v) s = .next t ∧ t.get R.DEV_PT_STAT_WR_RESULT = 1 ∧
    t.port p = { s.port p with staged := { (s.port p).staged with idx := s.winIdx p o, quality := qualityOf (v % 16) } } ∧
    t.port (if p = .spi then .pcie else .spi) = s.port (if p = .spi then .pcie else .spi) ∧
    Framed [loc R.DEV_PT_STAT_WR_RESULT 0] { s.advance dt with pcie := t.pcie, spi := t.spi } t) ∧
  (∀ (dt o v : Nat) (p : Port) (s : State), s.onTrunk15 (s.winIdx p o) = true → 7 ≤ v % 16 →
  ∃ t, Sys2Proof.Machine.exec (.pointQualityStage dt p o v) s = .next t ∧ t.get R.DEV_PT_STAT_WR_RESULT = 6 ∧
    t.get R.DEV_HOST_ERR_POINT_REFUSED = (s.get R.DEV_HOST_ERR_POINT_REFUSED + 1) % 65536 ∧
    Framed (regKeys 0 [R.DEV_PT_STAT_WR_RESULT, R.DEV_HOST_ERR_POINT_REFUSED]) (s.advance dt) t) ∧
  (∀ (dt o v : Nat) (p : Port) (s : State), s.onTrunk15 (s.winIdx p o) = true →
  ∃ t, Sys2Proof.Machine.exec (.pointValueLowStage dt p o v) s = .next t ∧ t.get R.DEV_PT_STAT_WR_RESULT = 1 ∧
    t.port p = { s.port p with staged := { (s.port p).staged with idx := s.winIdx p o, low := v % 2 ^ 32 } } ∧
    t.port (if p = .spi then .pcie else .spi) = s.port (if p = .spi then .pcie else .spi) ∧
    Framed [loc R.DEV_PT_STAT_WR_RESULT 0] { s.advance dt with pcie := t.pcie, spi := t.spi } t) ∧
  (∀ (dt o v i : Nat) (p : Port) (c : PtCfg) (s : State), i = s.winIdx p o → s.ptCfg i = some c → s.onTrunk15 i = true → (c.out = true ∨ s.isActive = false) →
  ∃ t, Sys2Proof.Machine.exec (.pointValueCommit dt p o v) s = .next t ∧ t.get R.DEV_PT_STAT_WR_RESULT = (if c.out then 4 else 5) ∧ t.port p = { s.port p with staged := {} } ∧
    t.get R.DEV_HOST_ERR_POINT_REFUSED = (s.get R.DEV_HOST_ERR_POINT_REFUSED + 1) % 65536 ∧ t.inbox = s.inbox ∧
    Framed (regKeys 0 [R.DEV_PT_STAT_WR_RESULT, R.DEV_HOST_ERR_POINT_REFUSED]) { s.advance dt with pcie := t.pcie, spi := t.spi } t) ∧
  (∀ (dt o v i : Nat) (p : Port) (c : PtCfg) (s : State), i = s.winIdx p o → s.ptCfg i = some c → s.onTrunk15 i = true → c.out = false → s.isActive = true →
  ∃ t, Sys2Proof.Machine.exec (.pointValueCommit dt p o v) s = .next t ∧ t.get R.DEV_PT_STAT_WR_RESULT = 2 ∧ t.port p = { s.port p with staged := {} } ∧
    t.inbox = s.inbox ++ [.point i (v % 2 ^ 32 * 2 ^ 32 + (s.port p).staged.low) (s.advance dt).pm (s.port p).staged.quality] ∧ t.pts = s.pts ∧
    t.port (if p = .spi then .pcie else .spi) = s.port (if p = .spi then .pcie else .spi) ∧
    Framed [loc R.DEV_PT_STAT_WR_RESULT 0] { s.advance dt with pcie := t.pcie, spi := t.spi, inbox := t.inbox } t) ∧
  (∀ (dt o : Nat) (p : Port) (s : State), s.onTrunk15 (s.winIdx p o) = true →
  ∃ t, Sys2Proof.Machine.exec (.pointWindowOtherWrite dt p o) s = .next t ∧ t.get R.DEV_PT_STAT_WR_RESULT = 6 ∧
    t.get R.DEV_HOST_ERR_POINT_REFUSED = (s.get R.DEV_HOST_ERR_POINT_REFUSED + 1) % 65536 ∧
    Framed (regKeys 0 [R.DEV_PT_STAT_WR_RESULT, R.DEV_HOST_ERR_POINT_REFUSED]) (s.advance dt) t)

/-- Acknowledging alarms; reading, writing, discarding and restarting pigeonholes; acknowledging and unmasking vectors (R462,
  R472, R473, R474, R475, R477, R478). -/
def Obligations.AlarmsPigeonholesInterrupts : Prop :=
  (∀ (dt n : Nat) (p : Port) (a : AlarmEnt) (s : State), s.session p = some .operator → s.pwr.l3 ≠ 1 → s.isActive = true → n < 256 → tsorted 0 s.alarms = true →
  tfind s.alarms n = some a →
  ∃ t, Sys2Proof.Machine.exec (.alarmAck dt p n) s = .next t ∧ (a.st = 1 → t.alarms = tput s.alarms n { a with st := 2 }) ∧ (a.st = 3 → t.alarms = tdel s.alarms n) ∧
    (a.st = 2 → t.alarms = s.alarms) ∧ t.role = { s.role with rwlAt := s.now + dt } ∧ Framed [] { s.advance dt with role := t.role } t) ∧
  (∀ (dt : Nat) (p : Port) (s : State), s.session p = some .operator → s.pwr.l3 ≠ 1 → s.isActive = true → tsorted 0 s.alarms = true →
  (∀ x ∈ s.alarms, x.2.st ∈ [1, 2, 3]) →
  ∃ t, Sys2Proof.Machine.exec (.alarmAck dt p 0x1FF) s = .next t ∧ (∀ x ∈ t.alarms, x.2.st = 2) ∧ t.alarms.length = (s.alarms.filter fun x => x.2.st ≠ 3).length ∧
    Framed [] { s.advance dt with role := t.role } t) ∧
  (∀ (dt n : Nat) (p : Port) (s : State), s.pwr.l3 ≠ 1 → (s.session p ≠ some .operator ∨ s.isActive = false) →
  ∃ t, Sys2Proof.Machine.exec (.alarmAck dt p n) s = .next t ∧ t.alarms = s.alarms ∧ Framed [] { s.advance dt with role := t.role } t) ∧
  (∀ (dt n : Nat) (p : Port) (e : Env) (l : List Env) (s : State), s.pwr.l3 ≠ 1 → n < 128 → s.hostConsumes n = true → (s.pigeon n).ring = e :: l →
  (match p with | .pcie => (s.pigeon n).wordP | .spi => (s.pigeon n).wordS) < 15 →
  ∃ t, Sys2Proof.Machine.exec (.pgnRead dt p n) s = .next t ∧
    (t.port p).rdata = ofLe ((e.bytes.drop (4 * (match p with | .pcie => (s.pigeon n).wordP | .spi => (s.pigeon n).wordS))).take 4) ∧
    t.pigeon n = (match p with | .pcie => { s.pigeon n with wordP := (s.pigeon n).wordP + 1 } | .spi => { s.pigeon n with wordS := (s.pigeon n).wordS + 1 }) ∧ t.regs = s.regs) ∧
  (∀ (dt n : Nat) (p : Port) (e : Env) (l : List Env) (s : State), s.pwr.l3 ≠ 1 → n < 128 → s.hostConsumes n = true → (s.pigeon n).ring = e :: l →
  (match p with | .pcie => (s.pigeon n).wordP | .spi => (s.pigeon n).wordS) = 15 →
  ∃ t, Sys2Proof.Machine.exec (.pgnRead dt p n) s = .next t ∧ (t.port p).rdata = ofLe ((e.bytes.drop 60).take 4) ∧ t.pigeon n = { s.pigeon n with ring := l, wordP := 0, wordS := 0 } ∧
    t.get R.PGN_TAIL_INDEX n = (s.get R.PGN_TAIL_INDEX n + 1) % 2 ^ 32) ∧
  (∀ (dt n : Nat) (p : Port) (s : State), s.pwr.l3 ≠ 1 → n < 128 → ((s.pigeon n).ring = [] ∨ s.hostConsumes n = false) →
  ∃ t, Sys2Proof.Machine.exec (.pgnRead dt p n) s = .next t ∧ t.pgn = s.pgn ∧ ((s.pigeon n).ring = [] → (t.port p).rdata = 0) ∧ t.regs = s.regs) ∧
  (∀ (dt n : Nat) (p : Port) (s : State), n < 128 →
  ∃ t, Sys2Proof.Machine.exec (.pgnRestart dt p n) s = .next t ∧
    t.pigeon n = (match p with | .pcie => { s.pigeon n with wordP := 0, bufP := [] } | .spi => { s.pigeon n with wordS := 0, bufS := [] }) ∧ t.regs = s.regs ∧ t.inbox = s.inbox) ∧
  (∀ (dt n : Nat) (p : Port) (e : Env) (l : List Env) (s : State), n < 128 → s.hostConsumes n = true → (s.pigeon n).ring = e :: l →
  ∃ t, Sys2Proof.Machine.exec (.pgnDiscard dt p n) s = .next t ∧ t.pigeon n = { s.pigeon n with ring := l, wordP := 0, wordS := 0 } ∧
    t.get R.PGN_TAIL_INDEX n = (s.get R.PGN_TAIL_INDEX n + 1) % 2 ^ 32 ∧ Framed [] (s.advance dt) t) ∧
  (∀ (dt n : Nat) (p : Port) (s : State), n < 128 → (s.hostConsumes n = false ∨ (s.pigeon n).ring = []) → Sys2Proof.Machine.exec (.pgnDiscard dt p n) s = .next (s.advance dt)) ∧
  (∀ (dt n w : Nat) (p : Port) (b : List Nat) (s : State), n < 128 → b = (match p with | .pcie => (s.pigeon n).bufP | .spi => (s.pigeon n).bufS) → b.length < 15 →
  ∃ t, Sys2Proof.Machine.exec (.pgnWrite dt p n w) s = .next t ∧
    t.pigeon n = (match p with | .pcie => { s.pigeon n with bufP := b ++ [w % 2 ^ 32] } | .spi => { s.pigeon n with bufS := b ++ [w % 2 ^ 32] }) ∧ t.inbox = s.inbox ∧ t.regs = s.regs) ∧
  (∀ (dt n w : Nat) (p : Port) (b : List Nat) (s : State), n < 128 → b = (match p with | .pcie => (s.pigeon n).bufP | .spi => (s.pigeon n).bufS) → b.length = 15 →
  ∃ t, Sys2Proof.Machine.exec (.pgnWrite dt p n w) s = .next t ∧ t.pigeon n = (match p with | .pcie => { s.pigeon n with bufP := [] } | .spi => { s.pigeon n with bufS := [] }) ∧
    t.inbox = (if s.get R.PGN_CFG_HOST_PRODUCER n = 1 ∧ s.isActive = true then s.inbox ++ [.host n (b ++ [w % 2 ^ 32]) (s.advance dt).pm] else s.inbox) ∧
    Framed [] { s.advance dt with inbox := t.inbox } t) ∧
  (∀ (dt v : Nat) (p : Port) (s : State), v < 32 → s.vecPending v = false →
  ∃ t, Sys2Proof.Machine.exec (.irqAck dt p v) s = .next t ∧ t.irqPba.testBit v = false ∧ (∀ k, k < 32 → k ≠ v → t.irqPba.testBit k = s.irqPba.testBit k) ∧
    t.get R.IRQ_ARMED_ARMED = (s.get R.IRQ_ARMED_ARMED ||| 2 ^ v) % 2 ^ 32 ∧ t.get R.IRQ_FIRED_COUNT = s.get R.IRQ_FIRED_COUNT ∧ t.msiSent = s.msiSent ∧ Framed [] (s.advance dt) t) ∧
  (∀ (dt v : Nat) (p : Port) (s : State), v < 32 → s.vecPending v = true →
  ∃ t, Sys2Proof.Machine.exec (.irqAck dt p v) s = .next t ∧ (t.get R.IRQ_ARMED_ARMED).testBit v = false ∧ t.get R.IRQ_FIRED_COUNT = (s.get R.IRQ_FIRED_COUNT + 1) % 2 ^ 32 ∧
    (s.msixEnable = true → s.vecMasked v = false → tget t.msiSent v 0 = tget s.msiSent v 0 + 1 ∧ t.irqPba.testBit v = false) ∧
    ((s.msixEnable = false ∨ s.vecMasked v = true) → t.msiSent = s.msiSent ∧ t.irqPba.testBit v = true) ∧ Framed [] (s.advance dt) t) ∧
  (∀ (dt v : Nat) (p : Port) (s : State), v < 32 → s.vecMasked v = true →
  ∃ t, Sys2Proof.Machine.exec (.msixUnmask dt p v) s = .next t ∧ t.vecMasked v = false ∧
    (s.irqPba.testBit v = true → s.msixEnable = true → tget t.msiSent v 0 = tget s.msiSent v 0 + 1 ∧ t.irqPba.testBit v = false) ∧
    ((s.irqPba.testBit v = false ∨ s.msixEnable = false) → t.msiSent = s.msiSent ∧ t.irqPba = s.irqPba) ∧ Framed [] { s.advance dt with msix := t.msix } t)

/-- Register writes by either port under their access codes, SPI transactions, and the PCIe link going down and up (R9, R83,
  R439, R440, R457, R460, R464). -/
def Obligations.HostAccesses : Prop :=
  (∀ (dt o v : Nat) (x : HostAux) (s : State),
  ∃ t, Sys2Proof.Machine.exec (.registerWrite dt .pcie o v false x) s = .next t ∧ t.get R.ETH_HOST_CNT_PARTIAL_WR = (s.get R.ETH_HOST_CNT_PARTIAL_WR + 1) % 65536 ∧
    Framed [loc R.ETH_HOST_CNT_PARTIAL_WR 0] (s.advance dt) t) ∧
  (∀ (dt o v : Nat) (p : Port) (x : HostAux) (s : State), 0x40000 ≤ o / 4 * 4 →
  ∃ t, Sys2Proof.Machine.exec (.registerWrite dt p o v true x) s = .next t ∧ t.get R.DEV_HOST_ERR_UNMAPPED = (s.get R.DEV_HOST_ERR_UNMAPPED + 1) % 65536 ∧
    Framed [loc R.DEV_HOST_ERR_UNMAPPED 0] (s.advance dt) t) ∧
  (∀ (dt v : Nat) (p : Port) (x : HostAux) (s : State), v < 64 →
  ∃ t, Sys2Proof.Machine.exec (.registerWrite dt p 0x10 v true x) s = .next t ∧ t.port p = { s.port p with page := v } ∧
    t.port (if p = .spi then .pcie else .spi) = s.port (if p = .spi then .pcie else .spi) ∧ t.regs = s.regs) ∧
  (∀ (dt v : Nat) (p : Port) (x : HostAux) (s : State), v < 2 ^ 32 → Sys2Proof.Machine.exec (.registerWrite dt p 0x16004 v true x) s = .next (s.advance dt)) ∧
  (∀ (dt v : Nat) (p : Port) (x : HostAux) (s : State), v < 2 ^ 20 →
  ∃ t, Sys2Proof.Machine.exec (.registerWrite dt p 0x15220 v true x) s = .next t ∧ t.get R.ETH_WR_OFS_TILE = v % 4096 ∧ t.get R.ETH_WR_OFS_BLOCK = v / 4096 ∧
    Framed (regKeys 0 [R.ETH_WR_OFS_TILE, R.ETH_WR_OFS_BLOCK]) (s.advance dt) t) ∧
  (∀ (dt v : Nat) (p : Port) (x : HostAux) (s : State), v < 32 → s.get R.LOG_EVT_ERASED < 2 → s.get R.LOG_EVT_FLASH_ERR < 2 →
  ∃ t, Sys2Proof.Machine.exec (.registerWrite dt p 0x16050 v true x) s = .next t ∧ t.get R.LOG_EVT_ERASED = (if v.testBit 3 then 0 else s.get R.LOG_EVT_ERASED) ∧
    t.get R.LOG_EVT_FLASH_ERR = (if v.testBit 1 then 0 else s.get R.LOG_EVT_FLASH_ERR) ∧
    Framed (regKeys 0 [R.LOG_EVT_FLASH_ERR, R.LOG_EVT_ERASED, R.LOG_EVT_MARK_REFUSED]) (s.advance dt) t) ∧
  (∀ (dt v : Nat) (p : Port) (x : HostAux) (s : State), v < 2 ^ 32 → s.session p ≠ some .installer → s.pwr.l3 ≠ 1 →
  ∃ t, Sys2Proof.Machine.exec (.registerWrite dt p 0x2800 v true x) s = .next t ∧ t.mnf.stage = s.mnf.stage ∧ Framed [] (s.advance dt) t) ∧
  (∀ (dt v : Nat) (p : Port) (x : HostAux) (s : State), v < 2 ^ 32 → s.session p = some .installer → s.pwr.l3 ≠ 1 →
  ∃ t, Sys2Proof.Machine.exec (.registerWrite dt p 0x2800 v true x) s = .next t ∧ t.mnf.stage = Memory.writeWord s.mnf.stage (4 * (s.get R.MNF_STAGE_OFS_OFS / 4)) v ∧
    t.role = { s.role with rwlAt := s.now + dt } ∧ Framed [] { s.advance dt with role := t.role, mnf := { s.mnf with stage := t.mnf.stage } } t) ∧
  (∀ (dt v : Nat) (p : Port) (x : HostAux) (s : State), v < 32 → 
  ∃ t, Sys2Proof.Machine.exec (.registerWrite dt p 0x18304 v true x) s = .next t ∧ (match Sys2Proof.Machine.exec (.irqAck dt p v) s with | .next u => decide (t = u) | _ => false) = true) ∧
  (∀ (dt v : Nat) (p : Port) (x : HostAux) (s : State), v < 2 ^ 32 → 
  ∃ t, Sys2Proof.Machine.exec (.registerWrite dt p 0x16028 v true x) s = .next t ∧ (match Sys2Proof.Machine.exec (.logFetchStart dt p v) s with | .next u => decide (t = u) | _ => false) = true) ∧
  (∀ (dt v : Nat) (p : Port) (x : HostAux) (s : State), v < 2 ^ 32 → 
  ∃ t, Sys2Proof.Machine.exec (.registerWrite dt p 0x1521C v true x) s = .next t ∧ (match Sys2Proof.Machine.exec (.ethWrAckWrite dt p v) s with | .next u => decide (t = u) | _ => false) = true) ∧
  (∀ (dt v : Nat) (p : Port) (x : HostAux) (s : State), v < 512 → 
  ∃ t, Sys2Proof.Machine.exec (.registerWrite dt p 0x24 v true x) s = .next t ∧ (match Sys2Proof.Machine.exec (.alarmAck dt p v) s with | .next u => decide (t = u) | _ => false) = true) ∧
  (∀ (dt v : Nat) (p : Port) (x : HostAux) (s : State), v < 2 ^ 32 → 
  ∃ t, Sys2Proof.Machine.exec (.registerWrite dt p 0x16038 v true x) s = .next t ∧ (match Sys2Proof.Machine.exec (.logMarkWrite dt p v) s with | .next u => decide (t = u) | _ => false) = true) ∧
  (∀ (dt v : Nat) (p : Port) (x : HostAux) (s : State), v < 2 ^ 32 → 
  ∃ t, Sys2Proof.Machine.exec (.registerWrite dt p 0x16044 v true x) s = .next t ∧ (match Sys2Proof.Machine.exec (.logErase dt p v) s with | .next u => decide (t = u) | _ => false) = true) ∧
  (∀ (dt a : Nat) (w : List Nat) (x : HostAux) (s : State),
  Sys2Proof.Machine.exec (.spiWriteTransaction dt 2 a w 0 x) s = .next ((w.take 256).foldl (fun (y : State × Nat) v => (y.1.hostWrite .spi y.2 v x, y.2 + 4)) (s.advance dt, a)).1) ∧
  (∀ (dt o a b : Nat) (w : List Nat) (x : HostAux) (s : State), (b ≠ 0 ∨ o ≠ 2) →
  ∃ t, Sys2Proof.Machine.exec (.spiWriteTransaction dt o a w b x) s = .next t ∧ t.get R.ETH_HOST_CNT_SPI_BAD = (s.get R.ETH_HOST_CNT_SPI_BAD + 1) % 65536 ∧
    Framed [loc R.ETH_HOST_CNT_SPI_BAD 0] (s.advance dt) t) ∧
  (∀ (dt a : Nat) (s : State), s.pwr.l3 ≠ 1 →
  ∃ t, Sys2Proof.Machine.exec (.spiReadTransaction dt a 1) s = .next t ∧ (t.port .spi).rdata = ((s.advance dt).hostRead .spi a).2 ∧
    (a = 0x20000 → (t.port .spi).rdata = (s.ptWords ((s.port .spi).page * 4096)).getD 0 0) ∧ (0x40000 ≤ a → (t.port .spi).rdata = 0 ∧ t.regs = s.regs)) ∧
  (∀ (dt n : Nat) (b : Bool) (s : State), (b = true ∨ 10 < n) → s.role.owner = .pcie → s.get R.ROLE_STAT_SESSION ≠ 0 →
  ∃ t, Sys2Proof.Machine.exec (.hostLinkReset dt b n) s = .next t ∧ t.get R.ROLE_STAT_SESSION = 0 ∧ t.get R.ETH_HOST_STAT_PCIE_UP = 0 ∧ t.get R.ETH_HOST_STAT_PCIE_GEN = 0 ∧
    t.get R.ETH_HOST_STAT_PCIE_WIDTH = 0 ∧ t.msixEnable = false ∧ t.mus = { s.mus with perst := s.mus.perst && !b } ∧ t.pcieAt = (if b then none else s.pcieAt)) ∧
  (∀ (dt n : Nat) (b : Bool) (s : State), (b = true ∨ 10 < n) → s.role.owner = .spi →
  ∃ t, Sys2Proof.Machine.exec (.hostLinkReset dt b n) s = .next t ∧ t.get R.ETH_HOST_STAT_PCIE_UP = 0 ∧ t.get R.ROLE_STAT_SESSION = s.get R.ROLE_STAT_SESSION ∧
    Framed (regKeys 0 [R.ETH_HOST_STAT_PCIE_UP, R.ETH_HOST_STAT_PCIE_GEN, R.ETH_HOST_STAT_PCIE_WIDTH])
      { s.advance dt with msixEnable := false, mus := { s.mus with perst := s.mus.perst && !b }, pcieAt := if b then none else s.pcieAt } t) ∧
  (∀ (dt n : Nat) (s : State), n ≤ 10 → Sys2Proof.Machine.exec (.hostLinkReset dt false n) s = .next (s.advance dt)) ∧
  (∀ (dt g w : Nat) (m : Bool) (s : State), s.mode ≠ 0 → s.mus.porLow = false → s.mus.running = true → s.mus.straps.pcieEn = true →
  ∃ t, Sys2Proof.Machine.exec (.perstNRelease dt g w m) s = .next t ∧ t.get R.ETH_HOST_STAT_PCIE_UP = 1 ∧ t.get R.ETH_HOST_STAT_PCIE_GEN = g % 4 ∧ t.get R.ETH_HOST_STAT_PCIE_WIDTH = w % 4 ∧
    t.mus = { s.mus with perst := true, wakeN := false } ∧ t.pcieAt = some (max (s.now + dt) s.mus.at_ + 20000000) ∧ t.msixEnable = m ∧
    Framed (regKeys 0 [R.ETH_HOST_STAT_PCIE_UP, R.ETH_HOST_STAT_PCIE_GEN, R.ETH_HOST_STAT_PCIE_WIDTH])
      { s.advance dt with mus := t.mus, pcieAt := t.pcieAt, msixEnable := t.msixEnable } t) ∧
  (∀ (dt g w : Nat) (m : Bool) (s : State), (s.mode = 0 ∨ s.mus.porLow = true ∨ s.mus.running = false ∨ s.mus.straps.pcieEn = false) →
  Sys2Proof.Machine.exec (.perstNRelease dt g w m) s = .next { s.advance dt with mus := { s.mus with perst := true, wakeN := if s.mode = 0 then s.mus.wakeN else false } })

end
end

