-- ==== Sys2Proof/Laws/Tab.lean ====
section
/-!
SUPPORT. What the table operations do to lookups and to the canonical form; the staging buffer's operations follow from them.
-/

set_option Elab.async false

namespace Sys2Proof.Machine

open Sys2Proof

variable {α : Type}

@[simp] theorem tfind_tput_same (t : Tab α) (k : Nat) (v : α) : tfind (tput t k v) k = some v := by
  induction t with
  | nil => simp [tput, tfind]
  | cons x t ih =>
    obtain ⟨k', v'⟩ := x
    simp only [tput]
    split
    · simp [tfind]
    · split
      · simp [tfind]
      · simp [tfind, *]

theorem tfind_tput_ne (t : Tab α) (k j : Nat) (v : α) (h : j ≠ k) : tfind (tput t k v) j = tfind t j := by
  induction t with
  | nil => simp [tput, tfind, h]
  | cons x t ih =>
    obtain ⟨k', v'⟩ := x
    simp only [tput]
    split
    · simp [tfind, h]
    · split
      · subst_vars; simp [tfind, h]
      · simp [tfind, ih]

@[simp] theorem tfind_tdel_same (t : Tab α) (k : Nat) : tfind (tdel t k) k = none := by
  induction t with
  | nil => simp [tdel, tfind]
  | cons x t ih =>
    obtain ⟨k', v'⟩ := x
    simp only [tdel]
    split
    · exact ih
    · simp [tfind, *]

theorem tfind_tdel_ne (t : Tab α) (k j : Nat) (h : j ≠ k) : tfind (tdel t k) j = tfind t j := by
  induction t with
  | nil => simp [tdel, tfind]
  | cons x t ih =>
    obtain ⟨k', v'⟩ := x
    simp only [tdel]
    split
    · subst_vars; simp [tfind, h, ih]
    · simp [tfind, ih]

theorem tsorted_mono {t : Tab α} {lo lo' : Nat} (h : tsorted lo t = true) (hl : lo' ≤ lo) : tsorted lo' t = true := by
  cases t with
  | nil => rfl
  | cons x t =>
    obtain ⟨k, v⟩ := x
    simp only [tsorted, Bool.and_eq_true, decide_eq_true_eq] at *
    exact ⟨hl.trans h.1, h.2⟩

theorem tput_sorted {t : Tab α} {lo k : Nat} (v : α) (h : tsorted lo t = true) (hk : lo ≤ k) :
    tsorted lo (tput t k v) = true := by
  induction t generalizing lo with
  | nil => simp [tput, tsorted, hk]
  | cons x t ih =>
    obtain ⟨k', v'⟩ := x
    simp only [tsorted, Bool.and_eq_true, decide_eq_true_eq] at h
    simp only [tput]
    split
    · simp only [tsorted, Bool.and_eq_true, decide_eq_true_eq]
      exact ⟨hk, by omega, h.2⟩
    · split
      · simp only [tsorted, Bool.and_eq_true, decide_eq_true_eq]
        subst_vars
        exact ⟨hk, h.2⟩
      · simp only [tsorted, Bool.and_eq_true, decide_eq_true_eq]
        exact ⟨h.1, ih h.2 (by omega)⟩

theorem tdel_sorted {t : Tab α} {lo k : Nat} (h : tsorted lo t = true) : tsorted lo (tdel t k) = true := by
  induction t generalizing lo with
  | nil => rfl
  | cons x t ih =>
    obtain ⟨k', v'⟩ := x
    simp only [tsorted, Bool.and_eq_true, decide_eq_true_eq] at h
    simp only [tdel]
    split
    · exact tsorted_mono (ih h.2) (by omega)
    · simp only [tsorted, Bool.and_eq_true, decide_eq_true_eq]
      exact ⟨h.1, ih h.2⟩

/-- A table whose entries change and whose numbers stay keeps its form. -/
theorem tsorted_map {t : Tab α} {lo : Nat} (f : Nat × α → Nat × α) (hf : ∀ x, (f x).1 = x.1)
    (h : tsorted lo t = true) : tsorted lo (t.map f) = true := by
  induction t generalizing lo with
  | nil => rfl
  | cons x t ih =>
    obtain ⟨k, v⟩ := x
    simp only [tsorted, Bool.and_eq_true, decide_eq_true_eq] at h
    simp only [List.map_cons]
    have hx := hf (k, v)
    rcases hy : f (k, v) with ⟨k', v'⟩
    rw [hy] at hx
    simp only at hx
    simp only [tsorted, Bool.and_eq_true, decide_eq_true_eq, hx]
    exact ⟨h.1, ih h.2⟩

/-! ### The staging buffer -/

theorem Memory.write_wf {m : List Host.Cell} (a : Nat) (b : BitVec 8) (h : Memory.wf m = true) :
    Memory.wf (Memory.write m a b) = true := tput_sorted b h (Nat.zero_le a)

theorem Memory.writeWord_wf {m : List Host.Cell} (a w : Nat) (h : Memory.wf m = true) :
    Memory.wf (Memory.writeWord m a w) = true := by
  unfold Memory.writeWord
  exact write_wf _ _ (write_wf _ _ (write_wf _ _ (write_wf _ _ h)))

@[simp] theorem Memory.read_write_same (m : List Host.Cell) (a : Nat) (b : BitVec 8) :
    Memory.read (Memory.write m a b) a = some b := tfind_tput_same m a b

theorem Memory.read_write_ne (m : List Host.Cell) (a c : Nat) (b : BitVec 8) (h : c ≠ a) :
    Memory.read (Memory.write m a b) c = Memory.read m c := tfind_tput_ne m a c b h

end Sys2Proof.Machine
end

