-- ==== Sys2Proof/Laws/Steady.lean ====
section
/-!
SUPPORT. `Steady` (Safety.lean) is kept by the ways a meaning is built: composition, a choice, a fold, an update of the state. Each
operation's own lemma, in the files beside this one, follows from these.
-/

set_option Elab.async false

namespace Sys2Proof.Machine

open Sys2Proof

theorem Steady.refl (s : State) : Steady s s := ⟨rfl, rfl, rfl, fun _ h => h, fun h => h⟩

theorem Steady.trans {a b c : State} (h : Steady a b) (g : Steady b c) : Steady a c :=
  ⟨g.now.trans h.now, g.pending.trans h.pending, g.uid.trans h.uid, fun k hk => g.maker k (h.maker k hk),
   fun hc => g.canon (h.canon hc)⟩

theorem ite_steady {s₀ a b : State} {c : Prop} [Decidable c] (ha : Steady s₀ a) (hb : Steady s₀ b) :
    Steady s₀ (if c then a else b) := by split <;> assumption

theorem foldl_steady {α : Type} {s₀ s : State} {f : State → α → State} (l : List α)
    (hf : ∀ t x, Steady s₀ t → Steady s₀ (f t x)) (h : Steady s₀ s) : Steady s₀ (l.foldl f s) := by
  induction l generalizing s with
  | nil => exact h
  | cons x l ih => exact ih (hf s x h)

theorem foldl_pair_steady {α β : Type} {s₀ : State} {f : State × β → α → State × β} (l : List α) (a : State × β)
    (hf : ∀ b x, Steady s₀ b.1 → Steady s₀ (f b x).1) (h : Steady s₀ a.1) : Steady s₀ (l.foldl f a).1 := by
  induction l generalizing a with
  | nil => exact h
  | cons x l ih => exact ih _ (hf a x h)

/-- An update of any fields but the up-time and the queue. -/
theorem mk_steady {s₀ x : State}
    {regs' msix' msiSent' eccFixed' netAged' ethSeq' gpioEdge' : Tab Nat} {pts' : Tab Pt} {inbox' commits' : List
    Input} {pgn' : Tab Pgn} {alarms' : Tab AlarmEnt} {log' : RecSt} {pcie' spi' : HostPort} {msixEnable' outHeld' :
    Bool} {man' : Manifest} {irqPba' tick' : Nat} {mus' : MusterSt} {mnf' : MnfSt} {role' : RoleSt} {time' : TimeSt}
    {twin' : TwinSt} {gnssRet' : Option GnssRet} {engStopped' : List Nat} {gnss' : GnssSt} {est' : EstSt} {helm' :
    HelmSt} {alloc' : AllocSt} {yuz' : YuzSt} {loop' : LoopSt} {adc' : AdcSt} {clp' : ClpAll} {step' : StepAll} {isl'
    : IslSt} {pwr' : PwrSt} {thrm' : ThrmSt} {can' : Tab CanSt} {eth' : Tab EthSt} {work' : WorkSt} {pcieAt' : Option
    Nat}
    (h : Steady s₀ x)
    (h1 : tsorted 0 x.regs = true → tsorted 0 regs' = true)
    (h2 : Memory.wf x.mnf.stage = true → Memory.wf mnf'.stage = true)
    (h3 : tsorted 0 x.pts = true → tsorted 0 pts' = true)
    (h4 : tsorted 0 x.pgn = true → tsorted 0 pgn' = true)
    (h5 : tsorted 0 x.alarms = true → tsorted 0 alarms' = true)
    (h6 : tsorted 0 x.msix = true → tsorted 0 msix' = true)
    (h7 : tsorted 0 x.msiSent = true → tsorted 0 msiSent' = true)
    (h8 : role'.uid = x.role.uid)
    (h9 : ∀ k, x.role.makerKey = some k → role'.makerKey = some k) :
    Steady s₀ (State.mk
      x.now regs' pts' inbox' pgn' alarms' log' pcie' spi' msix' msiSent' msixEnable' man' irqPba' outHeld' mus' mnf'
    role' tick' time' twin' gnssRet' engStopped' eccFixed' netAged' commits' gnss' est' helm' alloc' yuz' loop' adc'
    clp' step' isl' pwr' thrm' can' eth' work' pcieAt' ethSeq' gpioEdge' x.pending) :=
  h.trans ⟨rfl, rfl, h8, h9, fun hc =>
    ⟨h1 hc.1, h2 hc.2.1, h3 hc.2.2.1, h4 hc.2.2.2.1, h5 hc.2.2.2.2.1, h6 hc.2.2.2.2.2.1, h7 hc.2.2.2.2.2.2⟩⟩

/-- A meaning answers a next state, and `Steady` relates it to the one it started from. -/
def Goes (s₀ : State) (o : Out) : Prop := ∃ t, o = .next t ∧ Steady s₀ t

theorem next_goes {s₀ t : State} (h : Steady s₀ t) : Goes s₀ (.next t) := ⟨t, rfl, h⟩

theorem ite_goes {s₀ : State} {a b : Out} {c : Prop} [Decidable c] (ha : Goes s₀ a) (hb : Goes s₀ b) :
    Goes s₀ (if c then a else b) := by split <;> assumption

/-- A register write whose meaning is a row of its own: `some` of what the row leaves. -/
def Leaves (s₀ : State) (o : Option State) : Prop := ∀ t, o = some t → Steady s₀ t

theorem some_leaves {s₀ t : State} (h : Steady s₀ t) : Leaves s₀ (some t) := fun _ e => Option.some.inj e ▸ h

theorem id_steady {s₀ s : State} (h : Steady s₀ s) : Steady s₀ (id s) := h

theorem advance_zero_steady {s₀ s : State} (h : Steady s₀ s) : Steady s₀ (s.advance 0) := h.trans ⟨rfl, rfl, rfl, fun _ h => h, fun h => h⟩

theorem none_leaves {s₀ : State} : Leaves s₀ none := fun _ e => nomatch e

theorem ite_leaves {s₀ : State} {a b : Option State} {c : Prop} [Decidable c] (ha : Leaves s₀ a) (hb : Leaves s₀ b) :
    Leaves s₀ (if c then a else b) := by split <;> assumption

/-- Holds of every state; a rewrite proves it of a state that is written out, so that `mk_steady` is tried on no other. -/
def State.written (_ : State) : Prop := True

theorem written_steady {s₀ t : State} (_ : t.written) (h : Steady s₀ t) : Steady s₀ t := h

theorem State.written_mk
     {regs' msix' msiSent' eccFixed' netAged' ethSeq' gpioEdge' : Tab Nat} {pts' : Tab Pt} {inbox' commits' : List
    Input} {pgn' : Tab Pgn} {alarms' : Tab AlarmEnt} {log' : RecSt} {pcie' spi' : HostPort} {msixEnable' outHeld' :
    Bool} {man' : Manifest} {irqPba' tick' : Nat} {mus' : MusterSt} {mnf' : MnfSt} {role' : RoleSt} {time' : TimeSt}
    {twin' : TwinSt} {gnssRet' : Option GnssRet} {engStopped' : List Nat} {gnss' : GnssSt} {est' : EstSt} {helm' :
    HelmSt} {alloc' : AllocSt} {yuz' : YuzSt} {loop' : LoopSt} {adc' : AdcSt} {clp' : ClpAll} {step' : StepAll} {isl'
    : IslSt} {pwr' : PwrSt} {thrm' : ThrmSt} {can' : Tab CanSt} {eth' : Tab EthSt} {work' : WorkSt} {pcieAt' : Option
    Nat} {now' : Nat} {pending' : List Instr} :
    (State.mk
    now' regs' pts' inbox' pgn' alarms' log' pcie' spi' msix' msiSent' msixEnable' man' irqPba' outHeld' mus' mnf'
    role' tick' time' twin' gnssRet' engStopped' eccFixed' netAged' commits' gnss' est' helm' alloc' yuz' loop' adc'
    clp' step' isl' pwr' thrm' can' eth' work' pcieAt' ethSeq' gpioEdge' pending').written = True := rfl

end Sys2Proof.Machine
end

