-- ==== Sys2Proof/Laws/SteadyOps.lean ====
section
/-!
SUPPORT. Every operation of Machine/Ops.lean keeps what `Steady` says.
-/

set_option Elab.async false

namespace Sys2Proof.Machine

open Sys2Proof

theorem State.set_steady {s₀ : State} (s : State) (f : Fld) (v : Nat) (bank : Nat) (hS : Steady s₀ s) :
    Steady s₀ (State.set s f v bank) := by
  unfold State.set
  try dsimp only
  repeat' first
    | with_reducible assumption
    | with_reducible apply ite_steady
    | with_reducible exact id
    | with_reducible rfl
    | exact fun _ h => h
    | with_reducible exact fun h => tput_sorted _ h (Nat.zero_le _)
    | with_reducible exact tdel_sorted
    | exact fun _ => rfl
    | with_reducible exact fun h => Memory.writeWord_wf _ _ h
    | (refine written_steady (by simp only [↓State.written_mk]) ?_; with_reducible apply mk_steady)
    | split

theorem State.setI_steady {s₀ : State} (s : State) (f : Fld) (v : Int) (bank : Nat) (hS : Steady s₀ s) :
    Steady s₀ (State.setI s f v bank) := by
  unfold State.setI
  try dsimp only
  repeat' first
    | with_reducible assumption
    | with_reducible apply ite_steady
    | with_reducible apply State.set_steady

theorem State.setQ_steady {s₀ : State} (s : State) (f : Fld) (x : Rat) (bank : Nat) (hS : Steady s₀ s) :
    Steady s₀ (State.setQ s f x bank) := by
  unfold State.setQ
  try dsimp only
  repeat' first
    | with_reducible assumption
    | with_reducible apply ite_steady
    | with_reducible apply State.setI_steady

theorem State.setU_steady {s₀ : State} (s : State) (f : Fld) (x : Rat) (bank : Nat) (hS : Steady s₀ s) :
    Steady s₀ (State.setU s f x bank) := by
  unfold State.setU
  try dsimp only
  repeat' first
    | with_reducible assumption
    | with_reducible apply ite_steady
    | with_reducible apply State.set_steady

theorem State.setB_steady {s₀ : State} (s : State) (f : Fld) (b : Bool) (bank : Nat) (hS : Steady s₀ s) :
    Steady s₀ (State.setB s f b bank) := by
  unfold State.setB
  try dsimp only
  repeat' first
    | with_reducible assumption
    | with_reducible apply ite_steady
    | with_reducible apply State.set_steady

theorem State.inc_steady {s₀ : State} (s : State) (f : Fld) (bank : Nat) (n : Nat) (hS : Steady s₀ s) :
    Steady s₀ (State.inc s f bank n) := by
  unfold State.inc
  try dsimp only
  repeat' first
    | with_reducible assumption
    | with_reducible apply ite_steady
    | with_reducible apply State.set_steady

theorem State.incSat_steady {s₀ : State} (s : State) (f : Fld) (bank : Nat) (n : Nat) (hS : Steady s₀ s) :
    Steady s₀ (State.incSat s f bank n) := by
  unfold State.incSat
  try dsimp only
  repeat' first
    | with_reducible assumption
    | with_reducible apply ite_steady
    | with_reducible apply State.set_steady

theorem State.setSat_steady {s₀ : State} (s : State) (f : Fld) (v : Nat) (bank : Nat) (hS : Steady s₀ s) :
    Steady s₀ (State.setSat s f v bank) := by
  unfold State.setSat
  try dsimp only
  repeat' first
    | with_reducible assumption
    | with_reducible apply ite_steady
    | with_reducible apply State.set_steady

theorem State.vecSend_steady {s₀ : State} (s : State) (v : Nat) (hS : Steady s₀ s) :
    Steady s₀ (State.vecSend s v) := by
  unfold State.vecSend
  try dsimp only
  repeat' first
    | with_reducible assumption
    | with_reducible apply ite_steady
    | with_reducible exact id
    | with_reducible rfl
    | exact fun _ h => h
    | with_reducible exact fun h => tput_sorted _ h (Nat.zero_le _)
    | with_reducible exact tdel_sorted
    | exact fun _ => rfl
    | with_reducible exact fun h => Memory.writeWord_wf _ _ h
    | (refine written_steady (by simp only [↓State.written_mk]) ?_; with_reducible apply mk_steady)

theorem State.vecFire_steady {s₀ : State} (s : State) (v : Nat) (hS : Steady s₀ s) :
    Steady s₀ (State.vecFire s v) := by
  unfold State.vecFire
  try dsimp only
  repeat' first
    | with_reducible assumption
    | with_reducible apply ite_steady
    | with_reducible apply State.set_steady
    | with_reducible apply State.inc_steady
    | with_reducible apply State.vecSend_steady

theorem State.raise_steady {s₀ : State} (s : State) (src : Nat) (hS : Steady s₀ s) :
    Steady s₀ (State.raise s src) := by
  unfold State.raise
  try dsimp only
  repeat' first
    | with_reducible assumption
    | with_reducible apply ite_steady
    | with_reducible apply State.vecFire_steady

theorem State.evt_steady {s₀ : State} (s : State) (f : Fld) (bank : Nat) (hS : Steady s₀ s) :
    Steady s₀ (State.evt s f bank) := by
  unfold State.evt
  try dsimp only
  repeat' first
    | with_reducible assumption
    | with_reducible apply ite_steady
    | with_reducible apply State.set_steady
    | with_reducible apply State.raise_steady

/-- Time passes: all but the up-time stays. -/
theorem State.advance_core (s : State) (dt : Nat) : Steady { s with now := s.now + dt } (s.advance dt) :=
  ⟨rfl, rfl, rfl, fun _ h => h, fun h => h⟩

theorem State.ramPush_steady {s₀ : State} (s : State) (r : Rec) (hS : Steady s₀ s) :
    Steady s₀ (State.ramPush s r) := by
  unfold State.ramPush
  try dsimp only
  repeat' first
    | with_reducible assumption
    | with_reducible apply ite_steady
    | with_reducible apply State.inc_steady
    | with_reducible apply State.evt_steady
    | with_reducible exact id
    | with_reducible rfl
    | exact fun _ h => h
    | with_reducible exact fun h => tput_sorted _ h (Nat.zero_le _)
    | with_reducible exact tdel_sorted
    | exact fun _ => rfl
    | with_reducible exact fun h => Memory.writeWord_wf _ _ h
    | (refine written_steady (by simp only [↓State.written_mk]) ?_; with_reducible apply mk_steady)

theorem State.holdPush_steady {s₀ : State} (s : State) (r : Rec) (hS : Steady s₀ s) :
    Steady s₀ (State.holdPush s r) := by
  unfold State.holdPush
  try dsimp only
  repeat' first
    | with_reducible assumption
    | with_reducible apply ite_steady
    | with_reducible apply State.inc_steady
    | with_reducible apply State.evt_steady
    | with_reducible exact id
    | with_reducible rfl
    | exact fun _ h => h
    | with_reducible exact fun h => tput_sorted _ h (Nat.zero_le _)
    | with_reducible exact tdel_sorted
    | exact fun _ => rfl
    | with_reducible exact fun h => Memory.writeWord_wf _ _ h
    | (refine written_steady (by simp only [↓State.written_mk]) ?_; with_reducible apply mk_steady)

theorem State.logEvent_steady {s₀ : State} (s : State) (e : Ev) (hS : Steady s₀ s) :
    Steady s₀ (State.logEvent s e) := by
  unfold State.logEvent
  try dsimp only
  repeat' first
    | with_reducible assumption
    | with_reducible apply ite_steady
    | with_reducible apply State.alarm_steady
    | with_reducible apply State.ramPush_steady
    | with_reducible apply State.holdPush_steady
    | with_reducible exact id
    | with_reducible rfl
    | exact fun _ h => h
    | with_reducible exact fun h => tput_sorted _ h (Nat.zero_le _)
    | with_reducible exact tdel_sorted
    | exact fun _ => rfl
    | with_reducible exact fun h => Memory.writeWord_wf _ _ h
    | split
    | (refine written_steady (by simp only [↓State.written_mk]) ?_; with_reducible apply mk_steady)

theorem State.ringAdd_steady {s₀ : State} (s : State) (n : Nat) (msg : List Env) (hS : Steady s₀ s) :
    Steady s₀ (State.ringAdd s n msg) := by
  unfold State.ringAdd
  try dsimp only
  repeat' first
    | with_reducible assumption
    | with_reducible apply ite_steady
    | with_reducible apply State.inc_steady
    | with_reducible apply State.set_steady
    | with_reducible apply State.raise_steady
    | with_reducible exact id
    | with_reducible rfl
    | exact fun _ h => h
    | with_reducible exact fun h => tput_sorted _ h (Nat.zero_le _)
    | with_reducible exact tdel_sorted
    | exact fun _ => rfl
    | with_reducible exact fun h => Memory.writeWord_wf _ _ h
    | (refine written_steady (by simp only [↓State.written_mk]) ?_; with_reducible apply mk_steady)

theorem State.dropped_steady {s₀ : State} (s : State) (n : Nat) (hS : Steady s₀ s) :
    Steady s₀ (State.dropped s n) := by
  unfold State.dropped
  try dsimp only
  repeat' first
    | with_reducible assumption
    | with_reducible apply ite_steady
    | with_reducible apply State.inc_steady
    | with_reducible apply State.set_steady
    | with_reducible apply State.evt_steady

theorem State.makeRoom_steady {s₀ : State} (s : State) (n need : Nat) (hS : Steady s₀ s) :
    Steady s₀ (State.makeRoom s n need).2 := by
  unfold State.makeRoom
  try dsimp only
  repeat' first
    | with_reducible assumption
    | with_reducible apply ite_steady
    | with_reducible apply State.inc_steady
    | with_reducible exact id
    | with_reducible rfl
    | exact fun _ h => h
    | with_reducible exact fun h => tput_sorted _ h (Nat.zero_le _)
    | with_reducible exact tdel_sorted
    | exact fun _ => rfl
    | with_reducible exact fun h => Memory.writeWord_wf _ _ h
    | split
    | (refine written_steady (by simp only [↓State.written_mk]) ?_; with_reducible apply mk_steady)

theorem State.discardAll_steady {s₀ : State} (s : State) (n : Nat) (l : List (List Env)) (h : Steady s₀ s) :
    Steady s₀ (s.discardAll n l) := by
  induction l generalizing s with
  | nil => exact h
  | cons m ms ih =>
    unfold State.discardAll
    exact ih _ (logEvent_steady _ _ (dropped_steady _ _ h))

theorem State.deadLetter_steady {s₀ : State} (s : State) (n : Nat) (msg : List Env) (reason : Nat) (hS : Steady s₀ s) :
    Steady s₀ (State.deadLetter s n msg reason) := by
  unfold State.deadLetter
  try dsimp only
  repeat' first
    | with_reducible assumption
    | with_reducible apply ite_steady
    | with_reducible apply State.makeRoom_steady
    | with_reducible apply State.ringAdd_steady
    | with_reducible apply State.inc_steady
    | with_reducible apply State.evt_steady
    | with_reducible apply State.discardAll_steady
    | with_reducible apply State.logEvent_steady

theorem State.evictAll_steady {s₀ : State} (s : State) (n : Nat) (l : List (List Env)) (h : Steady s₀ s) :
    Steady s₀ (s.evictAll n l) := by
  induction l generalizing s with
  | nil => exact h
  | cons m ms ih =>
    unfold State.evictAll
    exact ih _ (deadLetter_steady _ _ _ _ (dropped_steady _ _ h))

theorem State.deliver_steady {s₀ : State} (s : State) (n : Nat) (msg : List Env) (hS : Steady s₀ s) :
    Steady s₀ (State.deliver s n msg) := by
  unfold State.deliver
  try dsimp only
  repeat' first
    | with_reducible assumption
    | with_reducible apply ite_steady
    | with_reducible apply State.dropped_steady
    | with_reducible apply State.discardAll_steady
    | with_reducible apply State.ringAdd_steady
    | with_reducible apply State.makeRoom_steady
    | with_reducible apply State.deadLetter_steady
    | with_reducible apply State.evictAll_steady

theorem State.send_steady {s₀ : State} (s : State) (n kind origin : Nat) (payload : List Nat) (pm : Pm) (hS : Steady s₀ s) :
    Steady s₀ (State.send s n kind origin payload pm) := by
  unfold State.send
  try dsimp only
  repeat' first
    | with_reducible assumption
    | with_reducible apply ite_steady
    | with_reducible apply State.deliver_steady
    | with_reducible exact id
    | with_reducible rfl
    | exact fun _ h => h
    | with_reducible exact fun h => tput_sorted _ h (Nat.zero_le _)
    | with_reducible exact tdel_sorted
    | exact fun _ => rfl
    | with_reducible exact fun h => Memory.writeWord_wf _ _ h
    | (refine written_steady (by simp only [↓State.written_mk]) ?_; with_reducible apply mk_steady)

theorem State.sendDead_steady {s₀ : State} (s : State) (addr value type reason : Nat) (pm : Pm) (hS : Steady s₀ s) :
    Steady s₀ (State.sendDead s addr value type reason pm) := by
  unfold State.sendDead
  try dsimp only
  repeat' first
    | with_reducible assumption
    | with_reducible apply ite_steady
    | with_reducible apply State.deadLetter_steady
    | with_reducible exact id
    | with_reducible rfl
    | exact fun _ h => h
    | with_reducible exact fun h => tput_sorted _ h (Nat.zero_le _)
    | with_reducible exact tdel_sorted
    | exact fun _ => rfl
    | with_reducible exact fun h => Memory.writeWord_wf _ _ h
    | (refine written_steady (by simp only [↓State.written_mk]) ?_; with_reducible apply mk_steady)

theorem State.alarmEnv_steady {s₀ : State} (s : State) (entry st change : Nat) (a : AlarmEnt) (role : Role) (keyId : Nat) (hS : Steady s₀ s) :
    Steady s₀ (State.alarmEnv s entry st change a role keyId) := by
  unfold State.alarmEnv
  try dsimp only
  repeat' first
    | with_reducible assumption
    | with_reducible apply ite_steady
    | with_reducible apply State.send_steady

theorem State.alarmRaise_steady {s₀ : State} (s : State) (code source : Nat) (hS : Steady s₀ s) :
    Steady s₀ (State.alarmRaise s code source) := by
  unfold State.alarmRaise
  try dsimp only
  repeat' first
    | with_reducible assumption
    | with_reducible apply ite_steady
    | with_reducible apply State.set_steady
    | with_reducible apply State.evt_steady
    | with_reducible apply State.alarmEnv_steady
    | with_reducible apply State.logEvent_steady
    | with_reducible exact id
    | with_reducible rfl
    | exact fun _ h => h
    | with_reducible exact fun h => tput_sorted _ h (Nat.zero_le _)
    | with_reducible exact tdel_sorted
    | exact fun _ => rfl
    | with_reducible exact fun h => Memory.writeWord_wf _ _ h
    | split
    | (refine written_steady (by simp only [↓State.written_mk]) ?_; with_reducible apply mk_steady)

theorem State.alarmClear_steady {s₀ : State} (s : State) (code source : Nat) (hS : Steady s₀ s) :
    Steady s₀ (State.alarmClear s code source) := by
  unfold State.alarmClear
  try dsimp only
  repeat' first
    | with_reducible assumption
    | with_reducible apply ite_steady
    | with_reducible apply State.evt_steady
    | with_reducible apply State.alarmEnv_steady
    | with_reducible exact id
    | with_reducible rfl
    | exact fun _ h => h
    | with_reducible exact fun h => tput_sorted _ h (Nat.zero_le _)
    | with_reducible exact tdel_sorted
    | exact fun _ => rfl
    | with_reducible exact fun h => Memory.writeWord_wf _ _ h
    | split
    | (refine written_steady (by simp only [↓State.written_mk]) ?_; with_reducible apply mk_steady)

theorem State.record_steady {s₀ : State} (s : State) (e : Ev) (hS : Steady s₀ s) :
    Steady s₀ (State.record s e) := by
  unfold State.record
  try dsimp only
  repeat' first
    | with_reducible assumption
    | with_reducible apply ite_steady
    | with_reducible apply State.logEvent_steady
    | with_reducible apply State.alarm_steady
    | with_reducible apply State.alarmClear_steady
    | with_reducible apply State.alarmRaise_steady

theorem State.lossRecord_steady {s₀ : State} (s : State) (cause : Nat) (hS : Steady s₀ s) :
    Steady s₀ (State.lossRecord s cause) := by
  unfold State.lossRecord
  try dsimp only
  repeat' first
    | with_reducible assumption
    | with_reducible apply ite_steady
    | with_reducible apply State.record_steady
    | with_reducible exact id
    | with_reducible rfl
    | exact fun _ h => h
    | with_reducible exact fun h => tput_sorted _ h (Nat.zero_le _)
    | with_reducible exact tdel_sorted
    | exact fun _ => rfl
    | with_reducible exact fun h => Memory.writeWord_wf _ _ h
    | (refine written_steady (by simp only [↓State.written_mk]) ?_; with_reducible apply mk_steady)

theorem State.alarm_steady {s₀ : State} (s : State) (code : Nat) (source : Nat) (items : List (Nat × Nat)) (key : Nat) (hS : Steady s₀ s) :
    Steady s₀ (State.alarm s code source items key) := by
  unfold State.alarm
  try dsimp only
  repeat' first
    | with_reducible assumption
    | with_reducible apply ite_steady
    | with_reducible apply State.record_steady

theorem State.clearAlarm_steady {s₀ : State} (s : State) (code : Nat) (source : Nat) (items : List (Nat × Nat)) (key : Nat) (hS : Steady s₀ s) :
    Steady s₀ (State.clearAlarm s code source items key) := by
  unfold State.clearAlarm
  try dsimp only
  repeat' first
    | with_reducible assumption
    | with_reducible apply ite_steady
    | with_reducible apply State.record_steady

theorem State.result_steady {s₀ : State} (s : State) (block kind target result tag : Nat) (role : Role) (keyId recSeq : Nat) (hS : Steady s₀ s) :
    Steady s₀ (State.result s block kind target result tag role keyId recSeq) := by
  unfold State.result
  try dsimp only
  repeat' first
    | with_reducible assumption
    | with_reducible apply ite_steady
    | with_reducible apply State.send_steady

theorem State.timeEvent_steady {s₀ : State} (s : State) (e : Ev) (hS : Steady s₀ s) :
    Steady s₀ (State.timeEvent s e) := by
  unfold State.timeEvent
  try dsimp only
  repeat' first
    | with_reducible assumption
    | with_reducible apply ite_steady
    | with_reducible apply State.record_steady
    | with_reducible apply State.send_steady

theorem State.rwlIgnored_steady {s₀ : State} (s : State) (p : Port) (off : Nat) (hS : Steady s₀ s) :
    Steady s₀ (State.rwlIgnored s p off) := by
  unfold State.rwlIgnored
  try dsimp only
  repeat' first
    | with_reducible assumption
    | with_reducible apply ite_steady
    | with_reducible apply State.record_steady

theorem State.lullExit_steady {s₀ : State} (s : State) (code : Nat) (hS : Steady s₀ s) :
    Steady s₀ (State.lullExit s code) := by
  unfold State.lullExit
  try dsimp only
  repeat' first
    | with_reducible assumption
    | with_reducible apply ite_steady
    | with_reducible apply State.set_steady
    | with_reducible apply State.record_steady
    | with_reducible apply State.setSat_steady
    | with_reducible apply State.evt_steady
    | with_reducible exact id
    | with_reducible rfl
    | exact fun _ h => h
    | with_reducible exact fun h => tput_sorted _ h (Nat.zero_le _)
    | with_reducible exact tdel_sorted
    | exact fun _ => rfl
    | with_reducible exact fun h => Memory.writeWord_wf _ _ h
    | (refine written_steady (by simp only [↓State.written_mk]) ?_; with_reducible apply mk_steady)

theorem State.lullLeave_steady {s₀ : State} (s : State) (code : Nat) (hS : Steady s₀ s) :
    Steady s₀ (State.lullLeave s code) := by
  unfold State.lullLeave
  try dsimp only
  repeat' first
    | with_reducible assumption
    | with_reducible apply ite_steady
    | with_reducible apply State.lullExit_steady
    | with_reducible exact id
    | with_reducible rfl
    | exact fun _ h => h
    | with_reducible exact fun h => tput_sorted _ h (Nat.zero_le _)
    | with_reducible exact tdel_sorted
    | exact fun _ => rfl
    | with_reducible exact fun h => Memory.writeWord_wf _ _ h
    | (refine written_steady (by simp only [↓State.written_mk]) ?_; with_reducible apply mk_steady)

theorem State.withRole_steady {s₀ : State} (s : State) (p : Port) (roles : List Role) (off : Nat) (act : State → State)
    (ha : ∀ t, Steady s₀ t → Steady s₀ (act t)) (h : Steady s₀ s) : Steady s₀ (s.withRole p roles off act) := by
  unfold State.withRole
  dsimp only
  have h' := lullLeave_steady s 1 h
  split
  · split
    · exact ha _ (mk_steady h' id id id id id id id rfl fun _ h => h)
    · exact rwlIgnored_steady _ _ _ h'
  · exact rwlIgnored_steady _ _ _ h'

theorem State.putPoint_steady {s₀ : State} (s : State) (i value : Nat) (pm : Pm) (q : Quality) (hS : Steady s₀ s) :
    Steady s₀ (State.putPoint s i value pm q) := by
  unfold State.putPoint
  try dsimp only
  repeat' first
    | with_reducible assumption
    | with_reducible apply ite_steady
    | with_reducible apply State.send_steady
    | with_reducible exact id
    | with_reducible rfl
    | exact fun _ h => h
    | with_reducible exact fun h => tput_sorted _ h (Nat.zero_le _)
    | with_reducible exact tdel_sorted
    | exact fun _ => rfl
    | with_reducible exact fun h => Memory.writeWord_wf _ _ h
    | split
    | (refine written_steady (by simp only [↓State.written_mk]) ?_; with_reducible apply mk_steady)

theorem State.putAddr_steady {s₀ : State} (s : State) (addr value : Nat) (q : Quality) (hS : Steady s₀ s) :
    Steady s₀ (State.putAddr s addr value q) := by
  unfold State.putAddr
  try dsimp only
  repeat' first
    | with_reducible assumption
    | with_reducible apply ite_steady
    | with_reducible apply State.putPoint_steady
    | with_reducible exact id
    | with_reducible rfl
    | exact fun _ h => h
    | with_reducible exact fun h => tput_sorted _ h (Nat.zero_le _)
    | with_reducible exact tdel_sorted
    | exact fun _ => rfl
    | with_reducible exact fun h => Memory.writeWord_wf _ _ h
    | split

theorem State.inbound_steady {s₀ : State} (s : State) (v : TrunkVal) (hS : Steady s₀ s) :
    Steady s₀ (State.inbound s v) := by
  unfold State.inbound
  try dsimp only
  repeat' first
    | with_reducible assumption
    | with_reducible apply ite_steady
    | with_reducible apply State.sendDead_steady
    | with_reducible exact id
    | with_reducible rfl
    | exact fun _ h => h
    | with_reducible exact fun h => tput_sorted _ h (Nat.zero_le _)
    | with_reducible exact tdel_sorted
    | exact fun _ => rfl
    | with_reducible exact fun h => Memory.writeWord_wf _ _ h
    | split
    | (refine written_steady (by simp only [↓State.written_mk]) ?_; with_reducible apply mk_steady)

theorem State.inboundAll_steady {s₀ : State} (s : State) (vs : List TrunkVal) (hS : Steady s₀ s) :
    Steady s₀ (State.inboundAll s vs) := by
  unfold State.inboundAll
  try dsimp only
  repeat' first
    | with_reducible assumption
    | with_reducible apply ite_steady
    | with_reducible apply State.inbound_steady
    | (with_reducible apply foldl_steady; intro t x ht)

theorem State.hostEnv_steady {s₀ : State} (s : State) (n : Nat) (words : List Nat) (pm : Pm) (hS : Steady s₀ s) :
    Steady s₀ (State.hostEnv s n words pm) := by
  unfold State.hostEnv
  try dsimp only
  repeat' first
    | with_reducible assumption
    | with_reducible apply ite_steady
    | with_reducible apply State.deliver_steady
    | with_reducible exact id
    | with_reducible rfl
    | exact fun _ h => h
    | with_reducible exact fun h => tput_sorted _ h (Nat.zero_le _)
    | with_reducible exact tdel_sorted
    | exact fun _ => rfl
    | with_reducible exact fun h => Memory.writeWord_wf _ _ h
    | (refine written_steady (by simp only [↓State.written_mk]) ?_; with_reducible apply mk_steady)

theorem State.applyInputs_steady {s₀ : State} (s : State) (b : Nat) (l : List Input) (h : Steady s₀ s) :
    Steady s₀ (s.applyInputs b l) := by
  induction l generalizing s b with
  | nil => exact mk_steady h id id id id id id id rfl fun _ h => h
  | cons i t ih =>
    unfold State.applyInputs
    split
    · exact mk_steady h id id id id id id id rfl fun _ h => h
    · split
      · exact ih _ _ (putPoint_steady _ _ _ _ _ h)
      · exact ih _ _ (send_steady _ _ _ _ _ _ h)
      · exact ih _ _ (hostEnv_steady _ _ _ _ h)

theorem State.commitAddr_steady {s₀ : State} (s : State) (addr value : Nat) (pm : Pm) (q : Quality) (hS : Steady s₀ s) :
    Steady s₀ (State.commitAddr s addr value pm q) := by
  unfold State.commitAddr
  try dsimp only
  repeat' first
    | with_reducible assumption
    | with_reducible apply ite_steady
    | with_reducible exact id
    | with_reducible rfl
    | exact fun _ h => h
    | with_reducible exact fun h => tput_sorted _ h (Nat.zero_le _)
    | with_reducible exact tdel_sorted
    | exact fun _ => rfl
    | with_reducible exact fun h => Memory.writeWord_wf _ _ h
    | split
    | (refine written_steady (by simp only [↓State.written_mk]) ?_; with_reducible apply mk_steady)

theorem State.commitAll_steady {s₀ : State} (s : State) (base : Nat) (vals : List Nat) (pm : Pm) (q : Quality) (hS : Steady s₀ s) :
    Steady s₀ (State.commitAll s base vals pm q) := by
  unfold State.commitAll
  try dsimp only
  repeat' first
    | with_reducible assumption
    | with_reducible apply ite_steady
    | with_reducible apply State.commitAddr_steady
    | (with_reducible apply foldl_steady; intro t x ht)

theorem State.putAll_steady {s₀ : State} (s : State) (base : Nat) (vals : List Nat) (q : Quality) (hS : Steady s₀ s) :
    Steady s₀ (State.putAll s base vals q) := by
  unfold State.putAll
  try dsimp only
  repeat' first
    | with_reducible assumption
    | with_reducible apply ite_steady
    | with_reducible apply State.putAddr_steady
    | (with_reducible apply foldl_steady; intro t x ht)

theorem State.operatorCmd_steady {s₀ : State} (s : State) (src : CmdSrc) (points : List Nat) (off : Nat)
    (act : State → Nat → State) (ha : ∀ t k, Steady s₀ t → Steady s₀ (act t k)) (h : Steady s₀ s) :
    Steady s₀ (s.operatorCmd src points off act) := by
  unfold State.operatorCmd
  split
  · exact withRole_steady _ _ _ _ _ (fun t ht => ha t _ ht) h
  · split
    · exact ha _ _ h
    · exact h

theorem State.putNum_steady {s₀ : State} (s : State) (i : Nat) (x : Rat) (q : Quality) (hS : Steady s₀ s) :
    Steady s₀ (State.putNum s i x q) := by
  unfold State.putNum
  try dsimp only
  repeat' first
    | with_reducible assumption
    | with_reducible apply ite_steady
    | with_reducible apply State.putPoint_steady
    | with_reducible exact id
    | with_reducible rfl
    | exact fun _ h => h
    | with_reducible exact fun h => tput_sorted _ h (Nat.zero_le _)
    | with_reducible exact tdel_sorted
    | exact fun _ => rfl
    | with_reducible exact fun h => Memory.writeWord_wf _ _ h
    | split

theorem State.safeCause_steady {s₀ : State} (s : State) (cause kind : Nat) (hS : Steady s₀ s) :
    Steady s₀ (State.safeCause s cause kind) := by
  unfold State.safeCause
  try dsimp only
  repeat' first
    | with_reducible assumption
    | with_reducible apply ite_steady
    | with_reducible apply State.record_steady

theorem State.safeArm_steady {s₀ : State} (s : State) (cause kind : Nat) (hS : Steady s₀ s) :
    Steady s₀ (State.safeArm s cause kind) := by
  unfold State.safeArm
  try dsimp only
  repeat' first
    | with_reducible assumption
    | with_reducible apply ite_steady
    | with_reducible apply State.lullLeave_steady
    | with_reducible apply State.safeCause_steady
    | with_reducible exact id
    | with_reducible rfl
    | exact fun _ h => h
    | with_reducible exact fun h => tput_sorted _ h (Nat.zero_le _)
    | with_reducible exact tdel_sorted
    | exact fun _ => rfl
    | with_reducible exact fun h => Memory.writeWord_wf _ _ h
    | split
    | (refine written_steady (by simp only [↓State.written_mk]) ?_; with_reducible apply mk_steady)

theorem State.trunksOff_steady {s₀ : State} (s : State) (hS : Steady s₀ s) :
    Steady s₀ (State.trunksOff s) := by
  unfold State.trunksOff
  try dsimp only
  repeat' first
    | with_reducible assumption
    | with_reducible apply ite_steady
    | with_reducible apply State.set_steady
    | (with_reducible apply foldl_steady; intro t x ht)
    | with_reducible exact id
    | with_reducible rfl
    | exact fun _ h => h
    | with_reducible exact fun h => tput_sorted _ h (Nat.zero_le _)
    | with_reducible exact tdel_sorted
    | exact fun _ => rfl
    | with_reducible exact fun h => Memory.writeWord_wf _ _ h
    | (refine written_steady (by simp only [↓State.written_mk]) ?_; with_reducible apply mk_steady)

theorem State.giveUp_steady {s₀ : State} (s : State) (cause : Nat) (hS : Steady s₀ s) :
    Steady s₀ (State.giveUp s cause) := by
  unfold State.giveUp
  try dsimp only
  repeat' first
    | with_reducible assumption
    | with_reducible apply ite_steady
    | with_reducible apply State.set_steady
    | with_reducible apply State.evt_steady
    | with_reducible apply State.inc_steady
    | with_reducible apply State.trunksOff_steady
    | with_reducible apply State.record_steady
    | with_reducible exact id
    | with_reducible rfl
    | exact fun _ h => h
    | with_reducible exact fun h => tput_sorted _ h (Nat.zero_le _)
    | with_reducible exact tdel_sorted
    | exact fun _ => rfl
    | with_reducible exact fun h => Memory.writeWord_wf _ _ h
    | (refine written_steady (by simp only [↓State.written_mk]) ?_; with_reducible apply mk_steady)

theorem State.dropOut_steady {s₀ : State} (s : State) (hS : Steady s₀ s) :
    Steady s₀ (State.dropOut s) := by
  unfold State.dropOut
  try dsimp only
  repeat' first
    | with_reducible assumption
    | with_reducible apply ite_steady
    | with_reducible apply State.set_steady
    | with_reducible apply State.trunksOff_steady
    | with_reducible exact id
    | with_reducible rfl
    | exact fun _ h => h
    | with_reducible exact fun h => tput_sorted _ h (Nat.zero_le _)
    | with_reducible exact tdel_sorted
    | exact fun _ => rfl
    | with_reducible exact fun h => Memory.writeWord_wf _ _ h
    | (refine written_steady (by simp only [↓State.written_mk]) ?_; with_reducible apply mk_steady)

theorem State.sent_steady {s₀ : State} (s : State) (bytes : Nat) (hS : Steady s₀ s) :
    Steady s₀ (State.sent s bytes) := by
  unfold State.sent
  try dsimp only
  repeat' first
    | with_reducible assumption
    | with_reducible apply ite_steady
    | with_reducible exact id
    | with_reducible rfl
    | exact fun _ h => h
    | with_reducible exact fun h => tput_sorted _ h (Nat.zero_le _)
    | with_reducible exact tdel_sorted
    | exact fun _ => rfl
    | with_reducible exact fun h => Memory.writeWord_wf _ _ h
    | (refine written_steady (by simp only [↓State.written_mk]) ?_; with_reducible apply mk_steady)

theorem State.trigger_steady {s₀ : State} (s : State) (cause safeAlone kind : Nat) (hS : Steady s₀ s) :
    Steady s₀ (State.trigger s cause safeAlone kind) := by
  unfold State.trigger
  try dsimp only
  repeat' first
    | with_reducible assumption
    | with_reducible apply ite_steady
    | with_reducible apply State.safeCause_steady
    | with_reducible apply State.giveUp_steady
    | with_reducible apply State.safeArm_steady
    | with_reducible apply State.dropOut_steady

theorem State.faultNote_steady {s₀ : State} (s : State) (cause unit : Nat) (hS : Steady s₀ s) :
    Steady s₀ (State.faultNote s cause unit) := by
  unfold State.faultNote
  try dsimp only
  repeat' first
    | with_reducible assumption
    | with_reducible apply ite_steady
    | with_reducible apply State.set_steady
    | with_reducible apply State.evt_steady
    | with_reducible apply State.incSat_steady
    | with_reducible apply State.record_steady

theorem State.deviceFault_steady {s₀ : State} (s : State) (cause unit : Nat) (hS : Steady s₀ s) :
    Steady s₀ (State.deviceFault s cause unit) := by
  unfold State.deviceFault
  try dsimp only
  repeat' first
    | with_reducible assumption
    | with_reducible apply ite_steady
    | with_reducible apply State.faultNote_steady
    | with_reducible apply State.trigger_steady

end Sys2Proof.Machine
end

