-- ==== Sys2Proof/Laws/SteadyAdc.lean ====
section
/-!
SUPPORT. Every operation of Machine/Adc.lean keeps what `Steady` says.
-/

set_option Elab.async false

namespace Sys2Proof.Machine

open Sys2Proof

theorem State.putConv_steady {s₀ : State} (s : State) (ch : Nat) (c : ConvSt) (hS : Steady s₀ s) :
    Steady s₀ (State.putConv s ch c) := by
  unfold State.putConv
  try dsimp only
  repeat' first
    | with_reducible assumption
    | with_reducible apply ite_steady
    | with_reducible exact id
    | with_reducible rfl
    | exact fun _ h => h
    | with_reducible exact fun h => tput_sorted _ h (Nat.zero_le _)
    | with_reducible exact tdel_sorted
    | exact fun _ => rfl
    | with_reducible exact fun h => Memory.writeWord_wf _ _ h
    | (refine written_steady (by simp only [↓State.written_mk]) ?_; with_reducible apply mk_steady)

theorem State.convFlag_steady {s₀ : State} (s : State) (ch : Nat) (f e : Fld) (code : Nat) (item : Nat × Nat) (hS : Steady s₀ s) :
    Steady s₀ (State.convFlag s ch f e code item) := by
  unfold State.convFlag
  try dsimp only
  repeat' first
    | with_reducible assumption
    | with_reducible apply ite_steady
    | with_reducible apply State.set_steady
    | with_reducible apply State.evt_steady
    | with_reducible apply State.record_steady

theorem State.convReady_steady {s₀ : State} (s : State) (ch : Nat) (c : ConvCfg) (res : Int) (clip ovr : Bool) (pm : Pm) (hS : Steady s₀ s) :
    Steady s₀ (State.convReady s ch c res clip ovr pm) := by
  unfold State.convReady
  try dsimp only
  repeat' first
    | with_reducible assumption
    | with_reducible apply ite_steady
    | with_reducible apply State.putConv_steady
    | with_reducible apply State.set_steady
    | with_reducible apply State.convFlag_steady

theorem State.convOwn_steady {s₀ : State} (s : State) (ch : Nat) (c : ConvCfg) (r : Int × Bool) (ovr : Bool) (hS : Steady s₀ s) :
    Steady s₀ (State.convOwn s ch c r ovr) := by
  unfold State.convOwn
  try dsimp only
  repeat' first
    | with_reducible assumption
    | with_reducible apply ite_steady
    | with_reducible apply State.putConv_steady
    | with_reducible apply State.sent_steady
    | with_reducible apply State.convReady_steady

theorem State.convInput_steady {s₀ : State} (s : State) (ch : Nat) (res : Int) (pm : Pm) (ovr clip : Bool) (hS : Steady s₀ s) :
    Steady s₀ (State.convInput s ch res pm ovr clip) := by
  unfold State.convInput
  try dsimp only
  repeat' first
    | with_reducible assumption
    | with_reducible apply ite_steady
    | with_reducible apply State.convReady_steady
    | with_reducible exact id
    | with_reducible rfl
    | exact fun _ h => h
    | with_reducible exact fun h => tput_sorted _ h (Nat.zero_le _)
    | with_reducible exact tdel_sorted
    | exact fun _ => rfl
    | with_reducible exact fun h => Memory.writeWord_wf _ _ h
    | split

theorem State.adcTick_steady {s₀ : State} (s : State) (hS : Steady s₀ s) :
    Steady s₀ (State.adcTick s) := by
  unfold State.adcTick
  try dsimp only
  repeat' first
    | with_reducible assumption
    | with_reducible apply ite_steady
    | with_reducible apply State.set_steady
    | with_reducible apply State.putConv_steady
    | (with_reducible apply foldl_steady; intro t x ht)

theorem State.sarTrigger_steady {s₀ : State} (s : State) (ch : Nat) (hS : Steady s₀ s) :
    Steady s₀ (State.sarTrigger s ch) := by
  unfold State.sarTrigger
  try dsimp only
  repeat' first
    | with_reducible assumption
    | with_reducible apply ite_steady
    | with_reducible apply State.putConv_steady
    | with_reducible apply State.evt_steady
    | with_reducible apply State.set_steady
    | with_reducible apply State.record_steady
    | with_reducible exact id
    | with_reducible rfl
    | exact fun _ h => h
    | with_reducible exact fun h => tput_sorted _ h (Nat.zero_le _)
    | with_reducible exact tdel_sorted
    | exact fun _ => rfl
    | with_reducible exact fun h => Memory.writeWord_wf _ _ h
    | split

theorem State.putAt_steady {s₀ : State} (s : State) (addr value : Nat) (pm : Pm) (q : Quality) (hS : Steady s₀ s) :
    Steady s₀ (State.putAt s addr value pm q) := by
  unfold State.putAt
  try dsimp only
  repeat' first
    | with_reducible assumption
    | with_reducible apply ite_steady
    | with_reducible apply State.putPoint_steady
    | with_reducible exact id
    | with_reducible rfl
    | exact fun _ h => h
    | with_reducible exact fun h => tput_sorted _ h (Nat.zero_le _)
    | with_reducible exact tdel_sorted
    | exact fun _ => rfl
    | with_reducible exact fun h => Memory.writeWord_wf _ _ h
    | split

theorem State.loopIn_steady {s₀ : State} (s : State) (ch : Nat) (c : ConvCfg) (v : ConvSt) (q : Quality) (hS : Steady s₀ s) :
    Steady s₀ (State.loopIn s ch c v q) := by
  unfold State.loopIn
  try dsimp only
  repeat' first
    | with_reducible assumption
    | with_reducible apply ite_steady
    | with_reducible apply State.putAt_steady
    | with_reducible apply State.putConv_steady
    | with_reducible apply State.record_steady
    | with_reducible apply State.evt_steady

theorem State.convFrame_steady {s₀ : State} (s : State) (x : Nat × ConvCfg) (hS : Steady s₀ s) :
    Steady s₀ (State.convFrame s x) := by
  unfold State.convFrame
  try dsimp only
  repeat' first
    | with_reducible assumption
    | with_reducible apply ite_steady
    | with_reducible apply State.putAt_steady
    | with_reducible apply State.loopIn_steady
    | with_reducible apply State.putConv_steady

theorem State.adcFrame_steady {s₀ : State} (s : State) (hS : Steady s₀ s) :
    Steady s₀ (State.adcFrame s) := by
  unfold State.adcFrame
  try dsimp only
  repeat' first
    | with_reducible assumption
    | with_reducible apply ite_steady
    | with_reducible apply State.convFrame_steady
    | (with_reducible apply foldl_steady; intro t x ht)

end Sys2Proof.Machine
end

