-- ==== Sys2Proof/Laws/GoesAdc.lean ====
section
/-!
SUPPORT. Every meaning of Machine/Adc.lean answers a next state, and between the passage of its time and that state `Steady` holds.
-/

set_option Elab.async false

namespace Sys2Proof.Machine

open Sys2Proof

theorem execConverterResult_steady {s₀ : State} (dt ch : Nat) (comb : Int) (ovr : Bool) (s : State) (hS : Steady s₀ (State.advance s dt)) :
    Goes s₀ (execConverterResult dt ch comb ovr s) := by
  unfold execConverterResult
  try dsimp only
  repeat' first
    | with_reducible assumption
    | with_reducible apply ite_steady
    | with_reducible apply next_goes
    | with_reducible apply ite_goes
    | with_reducible apply State.convOwn_steady
    | with_reducible exact id
    | with_reducible rfl
    | exact fun _ h => h
    | with_reducible exact fun h => tput_sorted _ h (Nat.zero_le _)
    | with_reducible exact tdel_sorted
    | exact fun _ => rfl
    | with_reducible exact fun h => Memory.writeWord_wf _ _ h
    | split

theorem execSettlingDone_steady {s₀ : State} (dt ch : Nat) (comb : Int) (s : State) (hS : Steady s₀ (State.advance s dt)) :
    Goes s₀ (execSettlingDone dt ch comb s) := by
  unfold execSettlingDone
  try dsimp only
  repeat' first
    | with_reducible assumption
    | with_reducible apply ite_steady
    | with_reducible apply next_goes
    | with_reducible apply ite_goes
    | with_reducible apply State.set_steady
    | with_reducible apply State.convOwn_steady
    | with_reducible exact id
    | with_reducible rfl
    | exact fun _ h => h
    | with_reducible exact fun h => tput_sorted _ h (Nat.zero_le _)
    | with_reducible exact tdel_sorted
    | exact fun _ => rfl
    | with_reducible exact fun h => Memory.writeWord_wf _ _ h
    | split

theorem execBitstreamFault_steady {s₀ : State} (dt ch periods : Nat) (s : State) (hS : Steady s₀ (State.advance s dt)) :
    Goes s₀ (execBitstreamFault dt ch periods s) := by
  unfold execBitstreamFault
  try dsimp only
  repeat' first
    | with_reducible assumption
    | with_reducible apply ite_steady
    | with_reducible apply next_goes
    | with_reducible apply ite_goes
    | with_reducible apply State.set_steady
    | with_reducible apply State.evt_steady
    | with_reducible apply State.convFlag_steady
    | with_reducible apply State.record_steady
    | with_reducible exact id
    | with_reducible rfl
    | exact fun _ h => h
    | with_reducible exact fun h => tput_sorted _ h (Nat.zero_le _)
    | with_reducible exact tdel_sorted
    | exact fun _ => rfl
    | with_reducible exact fun h => Memory.writeWord_wf _ _ h
    | split

theorem execBitstreamRecovery_steady {s₀ : State} (dt ch presentNs : Nat) (s : State) (hS : Steady s₀ (State.advance s dt)) :
    Goes s₀ (execBitstreamRecovery dt ch presentNs s) := by
  unfold execBitstreamRecovery
  try dsimp only
  repeat' first
    | with_reducible assumption
    | with_reducible apply ite_steady
    | with_reducible apply next_goes
    | with_reducible apply ite_goes
    | with_reducible apply State.set_steady
    | with_reducible apply State.evt_steady
    | with_reducible apply State.putConv_steady
    | with_reducible apply State.record_steady

theorem execSarTrigger_steady {s₀ : State} (dt ch : Nat) (s : State) (hS : Steady s₀ (State.advance s dt)) :
    Goes s₀ (execSarTrigger dt ch s) := by
  unfold execSarTrigger
  try dsimp only
  repeat' first
    | with_reducible assumption
    | with_reducible apply ite_steady
    | with_reducible apply next_goes
    | with_reducible apply ite_goes
    | with_reducible apply State.sarTrigger_steady

theorem execSarResult_steady {s₀ : State} (dt ch : Nat) (codes : List Int) (s : State) (hS : Steady s₀ (State.advance s dt)) :
    Goes s₀ (execSarResult dt ch codes s) := by
  unfold execSarResult
  try dsimp only
  repeat' first
    | with_reducible assumption
    | with_reducible apply ite_steady
    | with_reducible apply next_goes
    | with_reducible apply ite_goes
    | with_reducible apply State.putConv_steady
    | with_reducible apply State.convOwn_steady
    | with_reducible exact id
    | with_reducible rfl
    | exact fun _ h => h
    | with_reducible exact fun h => tput_sorted _ h (Nat.zero_le _)
    | with_reducible exact tdel_sorted
    | exact fun _ => rfl
    | with_reducible exact fun h => Memory.writeWord_wf _ _ h
    | split

theorem execVrefCheck_steady {s₀ : State} (dt : Nat) (diff : Rat) (s : State) (hS : Steady s₀ (State.advance s dt)) :
    Goes s₀ (execVrefCheck dt diff s) := by
  unfold execVrefCheck
  try dsimp only
  repeat' first
    | with_reducible assumption
    | with_reducible apply ite_steady
    | with_reducible apply next_goes
    | with_reducible apply ite_goes
    | with_reducible apply State.setB_steady
    | with_reducible apply State.evt_steady
    | with_reducible apply State.record_steady
    | with_reducible exact id
    | with_reducible rfl
    | exact fun _ h => h
    | with_reducible exact fun h => tput_sorted _ h (Nat.zero_le _)
    | with_reducible exact tdel_sorted
    | exact fun _ => rfl
    | with_reducible exact fun h => Memory.writeWord_wf _ _ h
    | (refine written_steady (by simp only [↓State.written_mk]) ?_; with_reducible apply mk_steady)

theorem execAdcChResRead_steady {s₀ : State} (dt : Nat) (port : Port) (s : State) (hS : Steady s₀ (State.advance s dt)) :
    Goes s₀ (execAdcChResRead dt port s) := by
  unfold execAdcChResRead
  try dsimp only
  repeat' first
    | with_reducible assumption
    | with_reducible apply ite_steady
    | with_reducible apply next_goes
    | with_reducible apply ite_goes
    | with_reducible apply State.lullLeave_steady
    | with_reducible exact id
    | with_reducible rfl
    | exact fun _ h => h
    | with_reducible exact fun h => tput_sorted _ h (Nat.zero_le _)
    | with_reducible exact tdel_sorted
    | exact fun _ => rfl
    | with_reducible exact fun h => Memory.writeWord_wf _ _ h
    | split
    | (refine written_steady (by simp only [↓State.written_mk]) ?_; with_reducible apply mk_steady)

end Sys2Proof.Machine
end

