-- ==== Sys2Proof/Laws/SteadyLoop.lean ====
section
/-!
SUPPORT. Every operation of Machine/Loop.lean keeps what `Steady` says.
-/

set_option Elab.async false

namespace Sys2Proof.Machine

open Sys2Proof

theorem State.putCell_steady {s₀ : State} (s : State) (n : Nat) (c : CellSt) (hS : Steady s₀ s) :
    Steady s₀ (State.putCell s n c) := by
  unfold State.putCell
  try dsimp only
  repeat' first
    | with_reducible assumption
    | with_reducible apply ite_steady
    | with_reducible exact id
    | with_reducible rfl
    | exact fun _ h => h
    | with_reducible exact fun h => tput_sorted _ h (Nat.zero_le _)
    | with_reducible exact tdel_sorted
    | exact fun _ => rfl
    | with_reducible exact fun h => Memory.writeWord_wf _ _ h
    | (refine written_steady (by simp only [↓State.written_mk]) ?_; with_reducible apply mk_steady)

theorem State.putEnc_steady {s₀ : State} (s : State) (n : Nat) (e : EncSt) (hS : Steady s₀ s) :
    Steady s₀ (State.putEnc s n e) := by
  unfold State.putEnc
  try dsimp only
  repeat' first
    | with_reducible assumption
    | with_reducible apply ite_steady
    | with_reducible exact id
    | with_reducible rfl
    | exact fun _ h => h
    | with_reducible exact fun h => tput_sorted _ h (Nat.zero_le _)
    | with_reducible exact tdel_sorted
    | exact fun _ => rfl
    | with_reducible exact fun h => Memory.writeWord_wf _ _ h
    | (refine written_steady (by simp only [↓State.written_mk]) ?_; with_reducible apply mk_steady)

theorem State.encMove_steady {s₀ : State} (s : State) (n : Nat) (moved : Int) (hS : Steady s₀ s) :
    Steady s₀ (State.encMove s n moved) := by
  unfold State.encMove
  try dsimp only
  repeat' first
    | with_reducible assumption
    | with_reducible apply ite_steady
    | with_reducible apply State.putEnc_steady

theorem State.encCapture_steady {s₀ : State} (s : State) (n count : Nat) (hS : Steady s₀ s) :
    Steady s₀ (State.encCapture s n count) := by
  unfold State.encCapture
  try dsimp only
  repeat' first
    | with_reducible assumption
    | with_reducible apply ite_steady
    | with_reducible apply State.set_steady
    | with_reducible apply State.inc_steady

theorem State.encEdgeError_steady {s₀ : State} (s : State) (enc : Nat) (hS : Steady s₀ s) :
    Steady s₀ (State.encEdgeError s enc) := by
  unfold State.encEdgeError
  try dsimp only
  repeat' first
    | with_reducible assumption
    | with_reducible apply ite_steady
    | with_reducible apply State.set_steady
    | with_reducible apply State.record_steady

theorem State.putPwm_steady {s₀ : State} (s : State) (ch : Nat) (p : PwmSt) (hS : Steady s₀ s) :
    Steady s₀ (State.putPwm s ch p) := by
  unfold State.putPwm
  try dsimp only
  repeat' first
    | with_reducible assumption
    | with_reducible apply ite_steady
    | with_reducible exact id
    | with_reducible rfl
    | exact fun _ h => h
    | with_reducible exact fun h => tput_sorted _ h (Nat.zero_le _)
    | with_reducible exact tdel_sorted
    | exact fun _ => rfl
    | with_reducible exact fun h => Memory.writeWord_wf _ _ h
    | (refine written_steady (by simp only [↓State.written_mk]) ?_; with_reducible apply mk_steady)

theorem State.actuate_steady {s₀ : State} (s : State) (x : CellCfg) (u : Int) (hS : Steady s₀ s) :
    Steady s₀ (State.actuate s x u) := by
  unfold State.actuate
  try dsimp only
  repeat' first
    | with_reducible assumption
    | with_reducible apply ite_steady
    | with_reducible apply State.putPwm_steady
    | with_reducible apply State.putNum_steady
    | with_reducible exact id
    | with_reducible rfl
    | exact fun _ h => h
    | with_reducible exact fun h => tput_sorted _ h (Nat.zero_le _)
    | with_reducible exact tdel_sorted
    | exact fun _ => rfl
    | with_reducible exact fun h => Memory.writeWord_wf _ _ h
    | split
    | (refine written_steady (by simp only [↓State.written_mk]) ?_; with_reducible apply mk_steady)

theorem State.setOutIn_steady {s₀ : State} (s : State) (n : Nat) (x : CellCfg) (u : Int) (lat : Nat) (hS : Steady s₀ s) :
    Steady s₀ (State.setOutIn s n x u lat) := by
  unfold State.setOutIn
  try dsimp only
  repeat' first
    | with_reducible assumption
    | with_reducible apply ite_steady
    | with_reducible apply State.putCell_steady
    | with_reducible apply State.set_steady
    | with_reducible apply State.actuate_steady

theorem State.setOut_steady {s₀ : State} (s : State) (n : Nat) (x : CellCfg) (u : Int) (hS : Steady s₀ s) :
    Steady s₀ (State.setOut s n x u) := by
  unfold State.setOut
  try dsimp only
  repeat' first
    | with_reducible assumption
    | with_reducible apply ite_steady
    | with_reducible apply State.setOutIn_steady

theorem State.resetOut_steady {s₀ : State} (s : State) (n : Nat) (x : CellCfg) (hS : Steady s₀ s) :
    Steady s₀ (State.resetOut s n x) := by
  unfold State.resetOut
  try dsimp only
  repeat' first
    | with_reducible assumption
    | with_reducible apply ite_steady
    | with_reducible apply State.putCell_steady
    | with_reducible apply State.putPwm_steady
    | with_reducible apply State.set_steady
    | with_reducible exact id
    | with_reducible rfl
    | exact fun _ h => h
    | with_reducible exact fun h => tput_sorted _ h (Nat.zero_le _)
    | with_reducible exact tdel_sorted
    | exact fun _ => rfl
    | with_reducible exact fun h => Memory.writeWord_wf _ _ h
    | split
    | (refine written_steady (by simp only [↓State.written_mk]) ?_; with_reducible apply mk_steady)

theorem State.injStop_steady {s₀ : State} (s : State) (n res : Nat) (hS : Steady s₀ s) :
    Steady s₀ (State.injStop s n res) := by
  unfold State.injStop
  try dsimp only
  repeat' first
    | with_reducible assumption
    | with_reducible apply ite_steady
    | with_reducible apply State.putCell_steady
    | with_reducible apply State.set_steady
    | with_reducible apply State.shape_steady
    | with_reducible apply State.evt_steady
    | with_reducible apply State.record_steady
    | with_reducible exact id
    | with_reducible rfl
    | exact fun _ h => h
    | with_reducible exact fun h => tput_sorted _ h (Nat.zero_le _)
    | with_reducible exact tdel_sorted
    | exact fun _ => rfl
    | with_reducible exact fun h => Memory.writeWord_wf _ _ h
    | split

theorem State.putCap_steady {s₀ : State} (s : State) (u : Nat) (c : CapSt) (hS : Steady s₀ s) :
    Steady s₀ (State.putCap s u c) := by
  unfold State.putCap
  try dsimp only
  repeat' first
    | with_reducible assumption
    | with_reducible apply ite_steady
    | with_reducible exact id
    | with_reducible rfl
    | exact fun _ h => h
    | with_reducible exact fun h => tput_sorted _ h (Nat.zero_le _)
    | with_reducible exact tdel_sorted
    | exact fun _ => rfl
    | with_reducible exact fun h => Memory.writeWord_wf _ _ h
    | (refine written_steady (by simp only [↓State.written_mk]) ?_; with_reducible apply mk_steady)

theorem State.capTrigger_steady {s₀ : State} (s : State) (u trig : Nat) (hS : Steady s₀ s) :
    Steady s₀ (State.capTrigger s u trig) := by
  unfold State.capTrigger
  try dsimp only
  repeat' first
    | with_reducible assumption
    | with_reducible apply ite_steady
    | with_reducible apply State.putCap_steady
    | with_reducible apply State.record_steady
    | with_reducible apply State.set_steady

theorem State.capTriggers_steady {s₀ : State} (s : State) (cell kind : Nat) (hS : Steady s₀ s) :
    Steady s₀ (State.capTriggers s cell kind) := by
  unfold State.capTriggers
  try dsimp only
  repeat' first
    | with_reducible assumption
    | with_reducible apply ite_steady
    | with_reducible apply State.capTrigger_steady
    | (with_reducible apply foldl_steady; intro t x ht)

theorem State.capRun_steady {s₀ : State} (s : State) (u : Nat) (hS : Steady s₀ s) :
    Steady s₀ (State.capRun s u) := by
  unfold State.capRun
  try dsimp only
  repeat' first
    | with_reducible assumption
    | with_reducible apply ite_steady
    | with_reducible apply State.putCap_steady
    | with_reducible apply State.set_steady

theorem State.capRuns_steady {s₀ : State} (s : State) (cell : Nat) (hS : Steady s₀ s) :
    Steady s₀ (State.capRuns s cell) := by
  unfold State.capRuns
  try dsimp only
  repeat' first
    | with_reducible assumption
    | with_reducible apply ite_steady
    | with_reducible apply State.capRun_steady
    | (with_reducible apply foldl_steady; intro t x ht)

theorem State.ffRun_steady {s₀ : State} (s : State) (n : Nat) (x : CellCfg) (hS : Steady s₀ s) :
    Steady s₀ (State.ffRun s n x).1 := by
  unfold State.ffRun
  try dsimp only
  repeat' first
    | with_reducible assumption
    | with_reducible apply ite_steady
    | with_reducible apply State.putCell_steady
    | with_reducible apply State.evt_steady
    | with_reducible apply State.record_steady
    | with_reducible apply State.set_steady
    | with_reducible exact id
    | with_reducible rfl
    | exact fun _ h => h
    | with_reducible exact fun h => tput_sorted _ h (Nat.zero_le _)
    | with_reducible exact tdel_sorted
    | exact fun _ => rfl
    | with_reducible exact fun h => Memory.writeWord_wf _ _ h
    | split

theorem State.satNotes_steady {s₀ : State} (s : State) (n : Nat) (stages : List Nat) (hS : Steady s₀ s) :
    Steady s₀ (State.satNotes s n stages) := by
  unfold State.satNotes
  try dsimp only
  repeat' first
    | with_reducible assumption
    | with_reducible apply ite_steady
    | with_reducible apply State.set_steady
    | with_reducible apply State.incSat_steady
    | with_reducible apply State.evt_steady
    | with_reducible apply State.record_steady
    | (with_reducible apply foldl_steady; intro t x ht)

theorem State.injRun_steady {s₀ : State} (s : State) (n : Nat) (x : CellCfg) (hS : Steady s₀ s) :
    Steady s₀ (State.injRun s n x).1 := by
  unfold State.injRun
  try dsimp only
  repeat' first
    | with_reducible assumption
    | with_reducible apply ite_steady
    | with_reducible apply State.putCell_steady
    | with_reducible apply State.set_steady
    | with_reducible apply State.capTriggers_steady
    | with_reducible apply State.shape_steady
    | with_reducible apply State.record_steady
    | with_reducible exact id
    | with_reducible rfl
    | exact fun _ h => h
    | with_reducible exact fun h => tput_sorted _ h (Nat.zero_le _)
    | with_reducible exact tdel_sorted
    | exact fun _ => rfl
    | with_reducible exact fun h => Memory.writeWord_wf _ _ h
    | split

theorem State.runRegs_steady {s₀ : State} (s : State) (n : Nat) (hS : Steady s₀ s) :
    Steady s₀ (State.runRegs s n) := by
  unfold State.runRegs
  try dsimp only
  repeat' first
    | with_reducible assumption
    | with_reducible apply ite_steady
    | with_reducible apply State.set_steady
    | with_reducible apply State.setSat_steady
    | with_reducible apply State.inc_steady

theorem State.lawStep_steady {s₀ : State} (s : State) (n : Nat) (x : CellCfg) (rs : List CellRead) (hS : Steady s₀ s) :
    Steady s₀ (State.lawStep s n x rs) := by
  unfold State.lawStep
  try dsimp only
  repeat' first
    | with_reducible assumption
    | with_reducible apply ite_steady
    | with_reducible apply State.ffRun_steady
    | with_reducible apply State.putCell_steady
    | with_reducible apply State.setOutIn_steady
    | with_reducible apply State.setB_steady
    | with_reducible apply State.capTriggers_steady
    | with_reducible apply State.satNotes_steady
    | with_reducible apply State.injRun_steady

theorem State.trackStep_steady {s₀ : State} (s : State) (n : Nat) (x : CellCfg) (rs : List CellRead) (hS : Steady s₀ s) :
    Steady s₀ (State.trackStep s n x rs) := by
  unfold State.trackStep
  try dsimp only
  repeat' first
    | with_reducible assumption
    | with_reducible apply ite_steady
    | with_reducible apply State.ffRun_steady
    | with_reducible apply State.putCell_steady
    | with_reducible apply State.set_steady
    | with_reducible apply State.satNotes_steady

theorem State.cellMiss_steady {s₀ : State} (s : State) (n : Nat) (hS : Steady s₀ s) :
    Steady s₀ (State.cellMiss s n) := by
  unfold State.cellMiss
  try dsimp only
  repeat' first
    | with_reducible assumption
    | with_reducible apply ite_steady
    | with_reducible apply State.set_steady
    | with_reducible apply State.injStop_steady
    | with_reducible apply State.incSat_steady
    | with_reducible apply State.evt_steady
    | with_reducible apply State.capTriggers_steady

theorem State.encCaptures_steady {s₀ : State} (s : State) (x : CellCfg) (counts : List (Nat × Nat)) (hS : Steady s₀ s) :
    Steady s₀ (State.encCaptures s x counts) := by
  unfold State.encCaptures
  try dsimp only
  repeat' first
    | with_reducible assumption
    | with_reducible apply ite_steady
    | with_reducible apply State.encCapture_steady
    | (with_reducible apply foldl_steady; intro t x ht)
    | with_reducible exact id
    | with_reducible rfl
    | exact fun _ h => h
    | with_reducible exact fun h => tput_sorted _ h (Nat.zero_le _)
    | with_reducible exact tdel_sorted
    | exact fun _ => rfl
    | with_reducible exact fun h => Memory.writeWord_wf _ _ h
    | split

theorem State.safeRamp_steady {s₀ : State} (s : State) (n : Nat) (x : CellCfg) (hS : Steady s₀ s) :
    Steady s₀ (State.safeRamp s n x) := by
  unfold State.safeRamp
  try dsimp only
  repeat' first
    | with_reducible assumption
    | with_reducible apply ite_steady
    | with_reducible apply State.setOut_steady

theorem State.cellTurn_steady {s₀ : State} (s : State) (n : Nat) (x : CellCfg) (counts : List (Nat × Nat)) (trig : Nat) (hS : Steady s₀ s) :
    Steady s₀ (State.cellTurn s n x counts trig) := by
  unfold State.cellTurn
  try dsimp only
  repeat' first
    | with_reducible assumption
    | with_reducible apply ite_steady
    | with_reducible apply State.encCaptures_steady
    | with_reducible apply State.putCell_steady
    | with_reducible apply State.cellMiss_steady
    | with_reducible apply State.trackStep_steady
    | with_reducible apply State.lawStep_steady
    | with_reducible apply State.runRegs_steady
    | with_reducible apply State.capRuns_steady

theorem State.safeLawNote_steady {s₀ : State} (s : State) (n law : Nat) (hS : Steady s₀ s) :
    Steady s₀ (State.safeLawNote s n law) := by
  unfold State.safeLawNote
  try dsimp only
  repeat' first
    | with_reducible assumption
    | with_reducible apply ite_steady
    | with_reducible apply State.evt_steady
    | with_reducible apply State.record_steady

theorem State.cellSafe_steady {s₀ : State} (s : State) (n : Nat) (x : CellCfg) (hS : Steady s₀ s) :
    Steady s₀ (State.cellSafe s n x) := by
  unfold State.cellSafe
  try dsimp only
  repeat' first
    | with_reducible assumption
    | with_reducible apply ite_steady
    | with_reducible apply State.injStop_steady
    | with_reducible apply State.putCell_steady
    | with_reducible apply State.set_steady
    | with_reducible apply State.resetOut_steady
    | with_reducible apply State.setOut_steady
    | with_reducible apply State.safeLawNote_steady
    | with_reducible exact id
    | with_reducible rfl
    | exact fun _ h => h
    | with_reducible exact fun h => tput_sorted _ h (Nat.zero_le _)
    | with_reducible exact tdel_sorted
    | exact fun _ => rfl
    | with_reducible exact fun h => Memory.writeWord_wf _ _ h
    | split

theorem State.cellsSafe_steady {s₀ : State} (s : State) (hS : Steady s₀ s) :
    Steady s₀ (State.cellsSafe s) := by
  unfold State.cellsSafe
  try dsimp only
  repeat' first
    | with_reducible assumption
    | with_reducible apply ite_steady
    | with_reducible apply State.cellSafe_steady
    | (with_reducible apply foldl_steady; intro t x ht)

theorem State.handoverMiss_steady {s₀ : State} (s : State) (cell : Nat) (hS : Steady s₀ s) :
    Steady s₀ (State.handoverMiss s cell) := by
  unfold State.handoverMiss
  try dsimp only
  repeat' first
    | with_reducible assumption
    | with_reducible apply ite_steady
    | with_reducible apply State.set_steady
    | with_reducible apply State.evt_steady
    | with_reducible exact id
    | with_reducible rfl
    | exact fun _ h => h
    | with_reducible exact fun h => tput_sorted _ h (Nat.zero_le _)
    | with_reducible exact tdel_sorted
    | exact fun _ => rfl
    | with_reducible exact fun h => Memory.writeWord_wf _ _ h
    | split

theorem State.cellPoints_steady {s₀ : State} (s : State) (n : Nat) (hS : Steady s₀ s) :
    Steady s₀ (State.cellPoints s n) := by
  unfold State.cellPoints
  try dsimp only
  repeat' first
    | with_reducible assumption
    | with_reducible apply ite_steady
    | with_reducible apply State.putAt_steady
    | (with_reducible apply foldl_steady; intro t x ht)

theorem State.cascadeLatch_steady {s₀ : State} (s : State) (n : Nat) (x : CellCfg) (hS : Steady s₀ s) :
    Steady s₀ (State.cascadeLatch s n x) := by
  unfold State.cascadeLatch
  try dsimp only
  repeat' first
    | with_reducible assumption
    | with_reducible apply ite_steady
    | with_reducible apply State.putCell_steady
    | with_reducible exact id
    | with_reducible rfl
    | exact fun _ h => h
    | with_reducible exact fun h => tput_sorted _ h (Nat.zero_le _)
    | with_reducible exact tdel_sorted
    | exact fun _ => rfl
    | with_reducible exact fun h => Memory.writeWord_wf _ _ h
    | split

theorem State.loopTick_steady {s₀ : State} (s : State) (moved : List (Nat × Int)) (hS : Steady s₀ s) :
    Steady s₀ (State.loopTick s moved) := by
  unfold State.loopTick
  try dsimp only
  repeat' first
    | with_reducible assumption
    | with_reducible apply ite_steady
    | with_reducible apply State.encMove_steady
    | with_reducible apply State.encCapture_steady
    | with_reducible apply State.cascadeLatch_steady
    | with_reducible apply State.putCell_steady
    | (with_reducible apply foldl_steady; intro t x ht)
    | with_reducible exact id
    | with_reducible rfl
    | exact fun _ h => h
    | with_reducible exact fun h => tput_sorted _ h (Nat.zero_le _)
    | with_reducible exact tdel_sorted
    | exact fun _ => rfl
    | with_reducible exact fun h => Memory.writeWord_wf _ _ h
    | split
    | (refine written_steady (by simp only [↓State.written_mk]) ?_; with_reducible apply mk_steady)

theorem State.cellsFrame_steady {s₀ : State} (s : State) (hS : Steady s₀ s) :
    Steady s₀ (State.cellsFrame s) := by
  unfold State.cellsFrame
  try dsimp only
  repeat' first
    | with_reducible assumption
    | with_reducible apply ite_steady
    | with_reducible apply State.cellPoints_steady
    | (with_reducible apply foldl_steady; intro t x ht)

end Sys2Proof.Machine
end

