-- ==== Sys2Proof/Laws/SteadyClp.lean ====
section
/-!
SUPPORT. Every operation of Machine/Clp.lean keeps what `Steady` says.
-/

set_option Elab.async false

namespace Sys2Proof.Machine

open Sys2Proof

theorem State.putClp_steady {s₀ : State} (s : State) (n : Nat) (c : ClpSt) (hS : Steady s₀ s) :
    Steady s₀ (State.putClp s n c) := by
  unfold State.putClp
  try dsimp only
  repeat' first
    | with_reducible assumption
    | with_reducible apply ite_steady
    | with_reducible exact id
    | with_reducible rfl
    | exact fun _ h => h
    | with_reducible exact fun h => tput_sorted _ h (Nat.zero_le _)
    | with_reducible exact tdel_sorted
    | exact fun _ => rfl
    | with_reducible exact fun h => Memory.writeWord_wf _ _ h
    | (refine written_steady (by simp only [↓State.written_mk]) ?_; with_reducible apply mk_steady)

theorem State.clpAlarm_steady {s₀ : State} (s : State) (n cause : Nat) (high : Bool) (hS : Steady s₀ s) :
    Steady s₀ (State.clpAlarm s n cause high) := by
  unfold State.clpAlarm
  try dsimp only
  repeat' first
    | with_reducible assumption
    | with_reducible apply ite_steady
    | with_reducible apply State.set_steady
    | with_reducible apply State.evt_steady
    | with_reducible apply State.record_steady
    | with_reducible apply State.setB_steady

theorem State.clpNote_steady {s₀ : State} (s : State) (n : Nat) (hS : Steady s₀ s) :
    Steady s₀ (State.clpNote s n) := by
  unfold State.clpNote
  try dsimp only
  repeat' first
    | with_reducible assumption
    | with_reducible apply ite_steady
    | with_reducible apply State.record_steady

theorem State.clpThermal_steady {s₀ : State} (s : State) (n : Nat) (x : ClpCfg) (hS : Steady s₀ s) :
    Steady s₀ (State.clpThermal s n x) := by
  unfold State.clpThermal
  try dsimp only
  repeat' first
    | with_reducible assumption
    | with_reducible apply ite_steady
    | with_reducible apply State.putClp_steady
    | with_reducible apply State.setQ_steady
    | with_reducible apply State.setU_steady
    | with_reducible apply State.set_steady
    | with_reducible apply State.setB_steady
    | with_reducible apply State.evt_steady
    | with_reducible apply State.record_steady
    | with_reducible exact id
    | with_reducible rfl
    | exact fun _ h => h
    | with_reducible exact fun h => tput_sorted _ h (Nat.zero_le _)
    | with_reducible exact tdel_sorted
    | exact fun _ => rfl
    | with_reducible exact fun h => Memory.writeWord_wf _ _ h
    | split

theorem State.clpRequest_steady {s₀ : State} (s : State) (n : Nat) (x : ClpCfg) (hS : Steady s₀ s) :
    Steady s₀ (State.clpRequest s n x) := by
  unfold State.clpRequest
  try dsimp only
  repeat' first
    | with_reducible assumption
    | with_reducible apply ite_steady
    | with_reducible apply State.putClp_steady
    | with_reducible apply State.clpAlarm_steady
    | with_reducible exact id
    | with_reducible rfl
    | exact fun _ h => h
    | with_reducible exact fun h => tput_sorted _ h (Nat.zero_le _)
    | with_reducible exact tdel_sorted
    | exact fun _ => rfl
    | with_reducible exact fun h => Memory.writeWord_wf _ _ h
    | split

theorem State.clpForce_steady {s₀ : State} (s : State) (n : Nat) (x : ClpCfg) (hS : Steady s₀ s) :
    Steady s₀ (State.clpForce s n x) := by
  unfold State.clpForce
  try dsimp only
  repeat' first
    | with_reducible assumption
    | with_reducible apply ite_steady
    | with_reducible apply State.putClp_steady
    | with_reducible apply State.setU_steady
    | with_reducible apply State.setB_steady
    | with_reducible apply State.set_steady

theorem State.clpMonitor_steady {s₀ : State} (s : State) (n : Nat) (x : ClpCfg) (meas vpt : Rat) (hS : Steady s₀ s) :
    Steady s₀ (State.clpMonitor s n x meas vpt) := by
  unfold State.clpMonitor
  try dsimp only
  repeat' first
    | with_reducible assumption
    | with_reducible apply ite_steady
    | with_reducible apply State.putClp_steady
    | with_reducible apply State.setU_steady

theorem State.clpTick_steady {s₀ : State} (s : State) (samples : List (Nat × Rat × Rat)) (hS : Steady s₀ s) :
    Steady s₀ (State.clpTick s samples) := by
  unfold State.clpTick
  try dsimp only
  repeat' first
    | with_reducible assumption
    | with_reducible apply ite_steady
    | with_reducible apply State.clpMonitor_steady
    | with_reducible apply State.clpRequest_steady
    | with_reducible apply State.clpThermal_steady
    | with_reducible apply State.clpForce_steady
    | (with_reducible apply foldl_steady; intro t x ht)
    | with_reducible exact id
    | with_reducible rfl
    | exact fun _ h => h
    | with_reducible exact fun h => tput_sorted _ h (Nat.zero_le _)
    | with_reducible exact tdel_sorted
    | exact fun _ => rfl
    | with_reducible exact fun h => Memory.writeWord_wf _ _ h
    | split

theorem State.clpFrame_steady {s₀ : State} (s : State) (hS : Steady s₀ s) :
    Steady s₀ (State.clpFrame s) := by
  unfold State.clpFrame
  try dsimp only
  repeat' first
    | with_reducible assumption
    | with_reducible apply ite_steady
    | with_reducible apply State.putAt_steady
    | (with_reducible apply foldl_steady; intro t x ht)

theorem State.putHart_steady {s₀ : State} (s : State) (m : Nat) (h : HartSt) (hS : Steady s₀ s) :
    Steady s₀ (State.putHart s m h) := by
  unfold State.putHart
  try dsimp only
  repeat' first
    | with_reducible assumption
    | with_reducible apply ite_steady
    | with_reducible exact id
    | with_reducible rfl
    | exact fun _ h => h
    | with_reducible exact fun h => tput_sorted _ h (Nat.zero_le _)
    | with_reducible exact tdel_sorted
    | exact fun _ => rfl
    | with_reducible exact fun h => Memory.writeWord_wf _ _ h
    | (refine written_steady (by simp only [↓State.written_mk]) ?_; with_reducible apply mk_steady)

theorem State.hartStart_steady {s₀ : State} (s : State) (m : Nat) (t : HartTx) (hS : Steady s₀ s) :
    Steady s₀ (State.hartStart s m t) := by
  unfold State.hartStart
  try dsimp only
  repeat' first
    | with_reducible assumption
    | with_reducible apply ite_steady
    | with_reducible apply State.putHart_steady
    | with_reducible apply State.set_steady

theorem State.hartEnd_steady {s₀ : State} (s : State) (m : Nat) (ok : Bool) (hS : Steady s₀ s) :
    Steady s₀ (State.hartEnd s m ok) := by
  unfold State.hartEnd
  try dsimp only
  repeat' first
    | with_reducible assumption
    | with_reducible apply ite_steady
    | with_reducible apply State.putHart_steady
    | with_reducible apply State.set_steady
    | with_reducible apply State.inc_steady

theorem State.hartFail_steady {s₀ : State} (s : State) (m : Nat) (t : HartTx) (rc : Nat) (hS : Steady s₀ s) :
    Steady s₀ (State.hartFail s m t rc) := by
  unfold State.hartFail
  try dsimp only
  repeat' first
    | with_reducible assumption
    | with_reducible apply ite_steady
    | with_reducible apply State.putHart_steady
    | with_reducible apply State.inc_steady
    | with_reducible apply State.record_steady
    | with_reducible apply State.evt_steady
    | with_reducible apply State.hartEnd_steady

theorem State.hartPoints_steady {s₀ : State} (s : State) (m : Nat) (t : HartTx) (r : HartReply) (hS : Steady s₀ s) :
    Steady s₀ (State.hartPoints s m t r) := by
  unfold State.hartPoints
  try dsimp only
  repeat' first
    | with_reducible assumption
    | with_reducible apply ite_steady
    | with_reducible apply State.inbound_steady
    | (with_reducible apply foldl_steady; intro t x ht)

theorem State.hartMask_steady {s₀ : State} (s : State) (m addr : Nat) (masked : Bool) (hS : Steady s₀ s) :
    Steady s₀ (State.hartMask s m addr masked) := by
  unfold State.hartMask
  try dsimp only
  repeat' first
    | with_reducible assumption
    | with_reducible apply ite_steady
    | (with_reducible apply foldl_steady; intro t x ht)
    | with_reducible exact id
    | with_reducible rfl
    | exact fun _ h => h
    | with_reducible exact fun h => tput_sorted _ h (Nat.zero_le _)
    | with_reducible exact tdel_sorted
    | exact fun _ => rfl
    | with_reducible exact fun h => Memory.writeWord_wf _ _ h
    | (refine written_steady (by simp only [↓State.written_mk]) ?_; with_reducible apply mk_steady)

theorem State.hartIdent_steady {s₀ : State} (s : State) (m : Nat) (t : HartTx) (want got : Nat) (hS : Steady s₀ s) :
    Steady s₀ (State.hartIdent s m t want got) := by
  unfold State.hartIdent
  try dsimp only
  repeat' first
    | with_reducible assumption
    | with_reducible apply ite_steady
    | with_reducible apply State.putHart_steady
    | with_reducible apply State.setB_steady
    | with_reducible apply State.clearAlarm_steady
    | with_reducible apply State.set_steady
    | with_reducible apply State.evt_steady
    | with_reducible apply State.hartMask_steady
    | with_reducible apply State.alarm_steady

theorem State.hartNote_steady {s₀ : State} (s : State) (m : Nat) (hS : Steady s₀ s) :
    Steady s₀ (State.hartNote s m) := by
  unfold State.hartNote
  try dsimp only
  repeat' first
    | with_reducible assumption
    | with_reducible apply ite_steady
    | with_reducible apply State.record_steady

theorem State.hartHandover_steady {s₀ : State} (s : State) (hS : Steady s₀ s) :
    Steady s₀ (State.hartHandover s) := by
  unfold State.hartHandover
  try dsimp only
  repeat' first
    | with_reducible assumption
    | with_reducible apply ite_steady
    | with_reducible apply State.putHart_steady
    | with_reducible apply State.hartFail_steady
    | (with_reducible apply foldl_steady; intro t x ht)
    | with_reducible exact id
    | with_reducible rfl
    | exact fun _ h => h
    | with_reducible exact fun h => tput_sorted _ h (Nat.zero_le _)
    | with_reducible exact tdel_sorted
    | exact fun _ => rfl
    | with_reducible exact fun h => Memory.writeWord_wf _ _ h
    | split

end Sys2Proof.Machine
end

