-- ==== Sys2Proof/Laws/SteadyCommands.lean ====
section
/-!
SUPPORT. Every operation of Machine/Commands.lean keeps what `Steady` says.
-/

set_option Elab.async false

namespace Sys2Proof.Machine

open Sys2Proof

theorem State.journalWait_steady {s₀ : State} (s : State) (kind : Nat) (payload : List Nat) (hS : Steady s₀ s) :
    Steady s₀ (State.journalWait s kind payload) := by
  unfold State.journalWait
  try dsimp only
  repeat' first
    | with_reducible assumption
    | with_reducible apply ite_steady
    | with_reducible exact id
    | with_reducible rfl
    | exact fun _ h => h
    | with_reducible exact fun h => tput_sorted _ h (Nat.zero_le _)
    | with_reducible exact tdel_sorted
    | exact fun _ => rfl
    | with_reducible exact fun h => Memory.writeWord_wf _ _ h
    | (refine written_steady (by simp only [↓State.written_mk]) ?_; with_reducible apply mk_steady)

theorem State.helmResult_steady {s₀ : State} (s : State) (res : Nat) (c : HelmCmd) (hS : Steady s₀ s) :
    Steady s₀ (State.helmResult s res c) := by
  unfold State.helmResult
  try dsimp only
  repeat' first
    | with_reducible assumption
    | with_reducible apply ite_steady
    | with_reducible apply State.set_steady
    | with_reducible apply State.record_steady
    | with_reducible apply State.result_steady
    | with_reducible apply State.evt_steady

theorem State.endLaw_steady {s₀ : State} (s : State) (res : Nat) (hS : Steady s₀ s) :
    Steady s₀ (State.endLaw s res) := by
  unfold State.endLaw
  try dsimp only
  repeat' first
    | with_reducible assumption
    | with_reducible apply ite_steady
    | with_reducible apply State.helmResult_steady
    | with_reducible exact id
    | with_reducible rfl
    | exact fun _ h => h
    | with_reducible exact fun h => tput_sorted _ h (Nat.zero_le _)
    | with_reducible exact tdel_sorted
    | exact fun _ => rfl
    | with_reducible exact fun h => Memory.writeWord_wf _ _ h
    | split
    | (refine written_steady (by simp only [↓State.written_mk]) ?_; with_reducible apply mk_steady)

theorem State.endSp_steady {s₀ : State} (s : State) (res : Nat) (hS : Steady s₀ s) :
    Steady s₀ (State.endSp s res) := by
  unfold State.endSp
  try dsimp only
  repeat' first
    | with_reducible assumption
    | with_reducible apply ite_steady
    | with_reducible apply State.helmResult_steady
    | with_reducible exact id
    | with_reducible rfl
    | exact fun _ h => h
    | with_reducible exact fun h => tput_sorted _ h (Nat.zero_le _)
    | with_reducible exact tdel_sorted
    | exact fun _ => rfl
    | with_reducible exact fun h => Memory.writeWord_wf _ _ h
    | split
    | (refine written_steady (by simp only [↓State.written_mk]) ?_; with_reducible apply mk_steady)

theorem State.helmPreempt_steady {s₀ : State} (s : State) (hS : Steady s₀ s) :
    Steady s₀ (State.helmPreempt s) := by
  unfold State.helmPreempt
  try dsimp only
  repeat' first
    | with_reducible assumption
    | with_reducible apply ite_steady
    | with_reducible apply State.endLaw_steady
    | with_reducible apply State.endSp_steady

theorem State.fnResult_steady {s₀ : State} (s : State) (res action fn tag keyId : Nat) (hS : Steady s₀ s) :
    Steady s₀ (State.fnResult s res action fn tag keyId) := by
  unfold State.fnResult
  try dsimp only
  repeat' first
    | with_reducible assumption
    | with_reducible apply ite_steady
    | with_reducible apply State.set_steady
    | with_reducible apply State.result_steady
    | with_reducible apply State.evt_steady
    | with_reducible apply State.record_steady

end Sys2Proof.Machine
end

