-- ==== Sys2Proof/Laws/SteadyRoll.lean ====
section
/-!
SUPPORT. Every operation of Machine/Roll.lean keeps what `Steady` says.
-/

set_option Elab.async false

namespace Sys2Proof.Machine

open Sys2Proof

theorem State.nodeChange_steady {s₀ : State} (s : State) (i : Nat) (new : Nat) (hS : Steady s₀ s) :
    Steady s₀ (State.nodeChange s i new) := by
  unfold State.nodeChange
  try dsimp only
  repeat' first
    | with_reducible assumption
    | with_reducible apply ite_steady
    | with_reducible apply State.record_steady
    | with_reducible apply State.send_steady
    | with_reducible exact id
    | with_reducible rfl
    | exact fun _ h => h
    | with_reducible exact fun h => tput_sorted _ h (Nat.zero_le _)
    | with_reducible exact tdel_sorted
    | exact fun _ => rfl
    | with_reducible exact fun h => Memory.writeWord_wf _ _ h
    | (refine written_steady (by simp only [↓State.written_mk]) ?_; with_reducible apply mk_steady)

theorem State.rollAbsent_steady {s₀ : State} (s : State) (i : Nat) (hS : Steady s₀ s) :
    Steady s₀ (State.rollAbsent s i) := by
  unfold State.rollAbsent
  try dsimp only
  repeat' first
    | with_reducible assumption
    | with_reducible apply ite_steady
    | with_reducible apply State.nodeChange_steady
    | with_reducible exact id
    | with_reducible rfl
    | exact fun _ h => h
    | with_reducible exact fun h => tput_sorted _ h (Nat.zero_le _)
    | with_reducible exact tdel_sorted
    | exact fun _ => rfl
    | with_reducible exact fun h => Memory.writeWord_wf _ _ h
    | split
    | (refine written_steady (by simp only [↓State.written_mk]) ?_; with_reducible apply mk_steady)

theorem State.rollReply_steady {s₀ : State} (s : State) (node mark seq : Nat) (hS : Steady s₀ s) :
    Steady s₀ (State.rollReply s node mark seq) := by
  unfold State.rollReply
  try dsimp only
  repeat' first
    | with_reducible assumption
    | with_reducible apply ite_steady
    | with_reducible apply State.record_steady
    | with_reducible exact id
    | with_reducible rfl
    | exact fun _ h => h
    | with_reducible exact fun h => tput_sorted _ h (Nat.zero_le _)
    | with_reducible exact tdel_sorted
    | exact fun _ => rfl
    | with_reducible exact fun h => Memory.writeWord_wf _ _ h
    | split
    | (refine written_steady (by simp only [↓State.written_mk]) ?_; with_reducible apply mk_steady)

theorem State.applyNodes_steady {s₀ : State} (s : State) (hS : Steady s₀ s) :
    Steady s₀ (State.applyNodes s) := by
  unfold State.applyNodes
  try dsimp only
  repeat' first
    | with_reducible assumption
    | with_reducible apply ite_steady
    | with_reducible apply State.nodeChange_steady
    | (with_reducible apply foldl_steady; intro t x ht)
    | with_reducible exact id
    | with_reducible rfl
    | exact fun _ h => h
    | with_reducible exact fun h => tput_sorted _ h (Nat.zero_le _)
    | with_reducible exact tdel_sorted
    | exact fun _ => rfl
    | with_reducible exact fun h => Memory.writeWord_wf _ _ h
    | split
    | (refine written_steady (by simp only [↓State.written_mk]) ?_; with_reducible apply mk_steady)

end Sys2Proof.Machine
end

