-- ==== Sys2Proof/Laws/SteadyFrames.lean ====
section
/-!
SUPPORT. Every operation of Machine/Frames.lean keeps what `Steady` says.
-/

set_option Elab.async false

namespace Sys2Proof.Machine

open Sys2Proof

theorem State.layoutIn_steady {s₀ : State} (s : State) (l : List LField) (data : List Nat) (pm : Pm) (hS : Steady s₀ s) :
    Steady s₀ (State.layoutIn s l data pm) := by
  unfold State.layoutIn
  try dsimp only
  repeat' first
    | with_reducible assumption
    | with_reducible apply ite_steady
    | with_reducible apply State.inbound_steady
    | (with_reducible apply foldl_pair_steady; intro t x ht)
    | with_reducible exact id
    | with_reducible rfl
    | exact fun _ h => h
    | with_reducible exact fun h => tput_sorted _ h (Nat.zero_le _)
    | with_reducible exact tdel_sorted
    | exact fun _ => rfl
    | with_reducible exact fun h => Memory.writeWord_wf _ _ h
    | split

theorem State.frameEnv_steady {s₀ : State} (s : State) (n origin : Nat) (payload : List Nat) (pm : Pm) (hS : Steady s₀ s) :
    Steady s₀ (State.frameEnv s n origin payload pm) := by
  unfold State.frameEnv
  try dsimp only
  repeat' first
    | with_reducible assumption
    | with_reducible apply ite_steady
    | with_reducible exact id
    | with_reducible rfl
    | exact fun _ h => h
    | with_reducible exact fun h => tput_sorted _ h (Nat.zero_le _)
    | with_reducible exact tdel_sorted
    | exact fun _ => rfl
    | with_reducible exact fun h => Memory.writeWord_wf _ _ h
    | (refine written_steady (by simp only [↓State.written_mk]) ?_; with_reducible apply mk_steady)

end Sys2Proof.Machine
end

