-- ==== Sys2Proof/Laws/SteadyCan.lean ====
section
/-!
SUPPORT. Every operation of Machine/Can.lean keeps what `Steady` says.
-/

set_option Elab.async false

namespace Sys2Proof.Machine

open Sys2Proof

theorem State.putCan_steady {s₀ : State} (s : State) (ch : Nat) (c : CanSt) (hS : Steady s₀ s) :
    Steady s₀ (State.putCan s ch c) := by
  unfold State.putCan
  try dsimp only
  repeat' first
    | with_reducible assumption
    | with_reducible apply ite_steady
    | with_reducible exact id
    | with_reducible rfl
    | exact fun _ h => h
    | with_reducible exact fun h => tput_sorted _ h (Nat.zero_le _)
    | with_reducible exact tdel_sorted
    | exact fun _ => rfl
    | with_reducible exact fun h => Memory.writeWord_wf _ _ h
    | (refine written_steady (by simp only [↓State.written_mk]) ?_; with_reducible apply mk_steady)

theorem State.setMb_steady {s₀ : State} (s : State) (ch mb status : Nat) (hS : Steady s₀ s) :
    Steady s₀ (State.setMb s ch mb status) := by
  unfold State.setMb
  try dsimp only
  repeat' first
    | with_reducible assumption
    | with_reducible apply ite_steady
    | with_reducible apply State.set_steady

theorem State.putMb_steady {s₀ : State} (s : State) (ch mb : Nat) (m : CanMbSt) (hS : Steady s₀ s) :
    Steady s₀ (State.putMb s ch mb m) := by
  unfold State.putMb
  try dsimp only
  repeat' first
    | with_reducible assumption
    | with_reducible apply ite_steady
    | with_reducible apply State.putCan_steady

theorem State.mbFill_steady {s₀ : State} (s : State) (ch mb : Nat) (c : CanMbCfg) (data : List Nat) (hS : Steady s₀ s) :
    Steady s₀ (State.mbFill s ch mb c data) := by
  unfold State.mbFill
  try dsimp only
  repeat' first
    | with_reducible assumption
    | with_reducible apply ite_steady
    | with_reducible apply State.putMb_steady
    | with_reducible apply State.set_steady
    | with_reducible apply State.setMb_steady

theorem State.mbQueue_steady {s₀ : State} (s : State) (ch mb : Nat) (data : List Nat) (sof : Bool) (hS : Steady s₀ s) :
    Steady s₀ (State.mbQueue s ch mb data sof) := by
  unfold State.mbQueue
  try dsimp only
  repeat' first
    | with_reducible assumption
    | with_reducible apply ite_steady
    | with_reducible apply State.putMb_steady
    | with_reducible apply State.mbFill_steady
    | with_reducible apply State.setMb_steady
    | with_reducible exact id
    | with_reducible rfl
    | exact fun _ h => h
    | with_reducible exact fun h => tput_sorted _ h (Nat.zero_le _)
    | with_reducible exact tdel_sorted
    | exact fun _ => rfl
    | with_reducible exact fun h => Memory.writeWord_wf _ _ h
    | split

theorem State.canOnWrite_steady {s₀ : State} (s : State) (addrs : List Nat) (hS : Steady s₀ s) :
    Steady s₀ (State.canOnWrite s addrs) := by
  unfold State.canOnWrite
  try dsimp only
  repeat' first
    | with_reducible assumption
    | with_reducible apply ite_steady
    | with_reducible apply State.mbQueue_steady
    | (with_reducible apply foldl_steady; intro t x ht)

theorem State.canErrState_steady {s₀ : State} (s : State) (ch : Nat) (hS : Steady s₀ s) :
    Steady s₀ (State.canErrState s ch) := by
  unfold State.canErrState
  try dsimp only
  repeat' first
    | with_reducible assumption
    | with_reducible apply ite_steady
    | with_reducible apply State.setSat_steady
    | with_reducible apply State.set_steady
    | with_reducible apply State.evt_steady
    | with_reducible apply State.record_steady

theorem State.mbFail_steady {s₀ : State} (s : State) (ch mb kind : Nat) (hS : Steady s₀ s) :
    Steady s₀ (State.mbFail s ch mb kind) := by
  unfold State.mbFail
  try dsimp only
  repeat' first
    | with_reducible assumption
    | with_reducible apply ite_steady
    | with_reducible apply State.setMb_steady
    | with_reducible apply State.evt_steady
    | with_reducible apply State.set_steady
    | with_reducible apply State.incSat_steady
    | with_reducible apply State.record_steady

theorem State.canBusOff_steady {s₀ : State} (s : State) (ch : Nat) (c : CanCfg) (hS : Steady s₀ s) :
    Steady s₀ (State.canBusOff s ch c) := by
  unfold State.canBusOff
  try dsimp only
  repeat' first
    | with_reducible assumption
    | with_reducible apply ite_steady
    | with_reducible apply State.set_steady
    | with_reducible apply State.alarm_steady
    | with_reducible apply State.mbFail_steady
    | with_reducible apply State.setMb_steady
    | with_reducible apply State.inc_steady
    | with_reducible apply State.evt_steady
    | (with_reducible apply foldl_steady; intro t x ht)

theorem State.canCount_steady {s₀ : State} (s : State) (ch : Nat) (c : CanCfg) (tec rec_ : Nat) (hS : Steady s₀ s) :
    Steady s₀ (State.canCount s ch c tec rec_) := by
  unfold State.canCount
  try dsimp only
  repeat' first
    | with_reducible assumption
    | with_reducible apply ite_steady
    | with_reducible apply State.putCan_steady
    | with_reducible apply State.canBusOff_steady
    | with_reducible apply State.canErrState_steady

theorem State.canLec_steady {s₀ : State} (s : State) (ch lec : Nat) (dataPhase : Bool) (hS : Steady s₀ s) :
    Steady s₀ (State.canLec s ch lec dataPhase) := by
  unfold State.canLec
  try dsimp only
  repeat' first
    | with_reducible assumption
    | with_reducible apply ite_steady
    | with_reducible apply State.set_steady
    | with_reducible apply State.incSat_steady
    | with_reducible apply State.setB_steady
    | with_reducible exact id
    | with_reducible rfl
    | exact fun _ h => h
    | with_reducible exact fun h => tput_sorted _ h (Nat.zero_le _)
    | with_reducible exact tdel_sorted
    | exact fun _ => rfl
    | with_reducible exact fun h => Memory.writeWord_wf _ _ h
    | split

theorem State.canAcked_steady {s₀ : State} (s : State) (ch mb : Nat) (hS : Steady s₀ s) :
    Steady s₀ (State.canAcked s ch mb) := by
  unfold State.canAcked
  try dsimp only
  repeat' first
    | with_reducible assumption
    | with_reducible apply ite_steady
    | with_reducible apply State.putCan_steady
    | with_reducible apply State.set_steady
    | with_reducible apply State.clearAlarm_steady

theorem State.canNoAck_steady {s₀ : State} (s : State) (ch mb : Nat) (hS : Steady s₀ s) :
    Steady s₀ (State.canNoAck s ch mb) := by
  unfold State.canNoAck
  try dsimp only
  repeat' first
    | with_reducible assumption
    | with_reducible apply ite_steady
    | with_reducible apply State.putCan_steady
    | with_reducible apply State.set_steady
    | with_reducible apply State.evt_steady
    | with_reducible apply State.alarm_steady

theorem State.mbRetry_steady {s₀ : State} (s : State) (ch mb : Nat) (c : CanMbCfg) (kind : Nat) (hS : Steady s₀ s) :
    Steady s₀ (State.mbRetry s ch mb c kind) := by
  unfold State.mbRetry
  try dsimp only
  repeat' first
    | with_reducible assumption
    | with_reducible apply ite_steady
    | with_reducible apply State.mbFill_steady
    | with_reducible apply State.putMb_steady
    | with_reducible apply State.mbFail_steady
    | with_reducible apply State.setMb_steady
    | with_reducible exact id
    | with_reducible rfl
    | exact fun _ h => h
    | with_reducible exact fun h => tput_sorted _ h (Nat.zero_le _)
    | with_reducible exact tdel_sorted
    | exact fun _ => rfl
    | with_reducible exact fun h => Memory.writeWord_wf _ _ h
    | split

theorem State.mbSent_steady {s₀ : State} (s : State) (ch mb : Nat) (c : CanMbCfg) (hS : Steady s₀ s) :
    Steady s₀ (State.mbSent s ch mb c) := by
  unfold State.mbSent
  try dsimp only
  repeat' first
    | with_reducible assumption
    | with_reducible apply ite_steady
    | with_reducible apply State.inc_steady
    | with_reducible apply State.putMb_steady
    | with_reducible apply State.setMb_steady
    | with_reducible apply State.record_steady
    | with_reducible apply State.mbFill_steady
    | with_reducible apply State.incSat_steady
    | with_reducible apply State.evt_steady
    | with_reducible exact id
    | with_reducible rfl
    | exact fun _ h => h
    | with_reducible exact fun h => tput_sorted _ h (Nat.zero_le _)
    | with_reducible exact tdel_sorted
    | exact fun _ => rfl
    | with_reducible exact fun h => Memory.writeWord_wf _ _ h
    | split

theorem State.putEs_steady {s₀ : State} (s : State) (ch slot : Nat) (e : EsSt) (hS : Steady s₀ s) :
    Steady s₀ (State.putEs s ch slot e) := by
  unfold State.putEs
  try dsimp only
  repeat' first
    | with_reducible assumption
    | with_reducible apply ite_steady
    | with_reducible apply State.putCan_steady

theorem State.esFront_steady {s₀ : State} (s : State) (ch slot : Nat) (f : CanFrame) (seq : Nat) (hS : Steady s₀ s) :
    Steady s₀ (State.esFront s ch slot f seq) := by
  unfold State.esFront
  try dsimp only
  repeat' first
    | with_reducible assumption
    | with_reducible apply ite_steady
    | with_reducible apply State.set_steady
    | with_reducible apply State.setB_steady
    | with_reducible apply State.evt_steady
    | with_reducible apply State.raise_steady
    | (with_reducible apply foldl_steady; intro t x ht)

theorem State.esLoss_steady {s₀ : State} (s : State) (ch slot : Nat) (hS : Steady s₀ s) :
    Steady s₀ (State.esLoss s ch slot) := by
  unfold State.esLoss
  try dsimp only
  repeat' first
    | with_reducible assumption
    | with_reducible apply ite_steady
    | with_reducible apply State.evt_steady
    | with_reducible apply State.record_steady

theorem State.esTake_steady {s₀ : State} (s : State) (ch slot : Nat) (f : CanFrame) (hS : Steady s₀ s) :
    Steady s₀ (State.esTake s ch slot f) := by
  unfold State.esTake
  try dsimp only
  repeat' first
    | with_reducible assumption
    | with_reducible apply ite_steady
    | with_reducible apply State.putEs_steady
    | with_reducible apply State.inc_steady
    | with_reducible apply State.esFront_steady
    | with_reducible apply State.esLoss_steady
    | with_reducible apply State.set_steady

theorem State.esRelease_steady {s₀ : State} (s : State) (ch slot : Nat) (hS : Steady s₀ s) :
    Steady s₀ (State.esRelease s ch slot) := by
  unfold State.esRelease
  try dsimp only
  repeat' first
    | with_reducible assumption
    | with_reducible apply ite_steady
    | with_reducible apply State.putEs_steady
    | with_reducible apply State.set_steady
    | with_reducible apply State.esFront_steady
    | with_reducible exact id
    | with_reducible rfl
    | exact fun _ h => h
    | with_reducible exact fun h => tput_sorted _ h (Nat.zero_le _)
    | with_reducible exact tdel_sorted
    | exact fun _ => rfl
    | with_reducible exact fun h => Memory.writeWord_wf _ _ h
    | split

theorem State.esIdRead_steady {s₀ : State} (s : State) (ch slot : Nat) (hS : Steady s₀ s) :
    Steady s₀ (State.esIdRead s ch slot).1 := by
  unfold State.esIdRead
  try dsimp only
  repeat' first
    | with_reducible assumption
    | with_reducible apply ite_steady
    | with_reducible apply State.putEs_steady
    | with_reducible apply State.set_steady

theorem State.esLastRead_steady {s₀ : State} (s : State) (ch slot : Nat) (hS : Steady s₀ s) :
    Steady s₀ (State.esLastRead s ch slot).1 := by
  unfold State.esLastRead
  try dsimp only
  repeat' first
    | with_reducible assumption
    | with_reducible apply ite_steady
    | with_reducible apply State.esRelease_steady

theorem State.readBack_steady {s₀ : State} (s : State) (p : Port) (v : Nat) (hS : Steady s₀ s) :
    Steady s₀ (State.readBack s p v) := by
  unfold State.readBack
  try dsimp only
  repeat' first
    | with_reducible assumption
    | with_reducible apply ite_steady
    | with_reducible exact id
    | with_reducible rfl
    | exact fun _ h => h
    | with_reducible exact fun h => tput_sorted _ h (Nat.zero_le _)
    | with_reducible exact tdel_sorted
    | exact fun _ => rfl
    | with_reducible exact fun h => Memory.writeWord_wf _ _ h
    | split
    | (refine written_steady (by simp only [↓State.written_mk]) ?_; with_reducible apply mk_steady)

theorem State.n2kSend_steady {s₀ : State} (s : State) (ch : Nat) (n : N2kCfg) (hS : Steady s₀ s) :
    Steady s₀ (State.n2kSend s ch n) := by
  unfold State.n2kSend
  try dsimp only
  repeat' first
    | with_reducible assumption
    | with_reducible apply ite_steady
    | with_reducible apply State.set_steady
    | with_reducible apply State.mbQueue_steady

theorem State.n2kNote_steady {s₀ : State} (s : State) (ch name old new : Nat) (hS : Steady s₀ s) :
    Steady s₀ (State.n2kNote s ch name old new) := by
  unfold State.n2kNote
  try dsimp only
  repeat' first
    | with_reducible assumption
    | with_reducible apply ite_steady
    | with_reducible apply State.record_steady

theorem State.n2kMove_steady {s₀ : State} (s : State) (ch : Nat) (n : N2kCfg) (a : Nat) (hS : Steady s₀ s) :
    Steady s₀ (State.n2kMove s ch n a) := by
  unfold State.n2kMove
  try dsimp only
  repeat' first
    | with_reducible assumption
    | with_reducible apply ite_steady
    | with_reducible apply State.set_steady
    | (with_reducible apply foldl_steady; intro t x ht)
    | with_reducible exact id
    | with_reducible rfl
    | exact fun _ h => h
    | with_reducible exact fun h => tput_sorted _ h (Nat.zero_le _)
    | with_reducible exact tdel_sorted
    | exact fun _ => rfl
    | with_reducible exact fun h => Memory.writeWord_wf _ _ h
    | split

theorem State.n2kLost_steady {s₀ : State} (s : State) (ch : Nat) (n : N2kCfg) (hS : Steady s₀ s) :
    Steady s₀ (State.n2kLost s ch n) := by
  unfold State.n2kLost
  try dsimp only
  repeat' first
    | with_reducible assumption
    | with_reducible apply ite_steady
    | with_reducible apply after_steady
    | with_reducible apply State.incSat_steady
    | with_reducible apply State.set_steady
    | with_reducible apply State.alarm_steady
    | with_reducible apply State.evt_steady
    | with_reducible apply State.n2kMove_steady
    | with_reducible apply State.n2kNote_steady
    | with_reducible apply State.n2kSend_steady
    | with_reducible exact id
    | with_reducible rfl
    | exact fun _ h => h
    | with_reducible exact fun h => tput_sorted _ h (Nat.zero_le _)
    | with_reducible exact tdel_sorted
    | exact fun _ => rfl
    | with_reducible exact fun h => Memory.writeWord_wf _ _ h
    | split

theorem State.canRollReply_steady {s₀ : State} (s : State) (ch : Nat) (f : CanFrame) (hS : Steady s₀ s) :
    Steady s₀ (State.canRollReply s ch f) := by
  unfold State.canRollReply
  try dsimp only
  repeat' first
    | with_reducible assumption
    | with_reducible apply ite_steady
    | with_reducible apply State.rollReply_steady
    | with_reducible exact id
    | with_reducible rfl
    | exact fun _ h => h
    | with_reducible exact fun h => tput_sorted _ h (Nat.zero_le _)
    | with_reducible exact tdel_sorted
    | exact fun _ => rfl
    | with_reducible exact fun h => Memory.writeWord_wf _ _ h
    | split

theorem State.canDest_steady {s₀ : State} (s : State) (ch : Nat) (c : CanCfg) (f : CanFilter) (idx : Nat) (slot : Bool) (fr : CanFrame) (data : List Nat) (hS : Steady s₀ s) :
    Steady s₀ (State.canDest s ch c f idx slot fr data) := by
  unfold State.canDest
  try dsimp only
  repeat' first
    | with_reducible assumption
    | with_reducible apply ite_steady
    | with_reducible apply State.inc_steady
    | with_reducible apply State.layoutIn_steady
    | with_reducible apply State.frameEnv_steady
    | with_reducible apply State.canRollReply_steady
    | with_reducible exact id
    | with_reducible rfl
    | exact fun _ h => h
    | with_reducible exact fun h => tput_sorted _ h (Nat.zero_le _)
    | with_reducible exact tdel_sorted
    | exact fun _ => rfl
    | with_reducible exact fun h => Memory.writeWord_wf _ _ h
    | split

theorem State.fastTake_steady {s₀ : State} (s : State) (ch flt : Nat) (fr : CanFrame) (id : Nat) (hS : Steady s₀ s) :
    Steady s₀ (State.fastTake s ch flt fr id).1 := by
  unfold State.fastTake
  try dsimp only
  repeat' first
    | with_reducible assumption
    | with_reducible apply ite_steady
    | with_reducible apply State.putCan_steady
    | with_reducible apply State.inc_steady
    | with_reducible exact id
    | with_reducible rfl
    | exact fun _ h => h
    | with_reducible exact fun h => tput_sorted _ h (Nat.zero_le _)
    | with_reducible exact tdel_sorted
    | exact fun _ => rfl
    | with_reducible exact fun h => Memory.writeWord_wf _ _ h
    | split

theorem State.fastTake_out {s₀ s t : State} {ch flt : Nat} {fr : CanFrame} {id : Nat} {r : Option (List Nat)}
    (e : s.fastTake ch flt fr id = (t, r)) (hS : Steady s₀ s) : Steady s₀ t := by
  have h := State.fastTake_steady s ch flt fr id hS
  rw [e] at h
  exact h

theorem State.tpTake_steady {s₀ s t : State} {ch : Nat} {c : CanCfg} {fr : CanFrame} {id : Nat}
    {r : Option (Nat × CanFilter × List Nat)} (e : s.tpTake ch c fr id = some (t, r)) (hS : Steady s₀ s) : Steady s₀ t := by
  unfold State.tpTake at e
  dsimp only at e
  have hp : ∀ x, Steady s₀ (s.putCan ch x) := fun x => putCan_steady _ _ _ hS
  repeat' split at e
  all_goals first
    | (cases e; exact hp _)
    | (cases e; exact inc_steady _ _ _ _ (hp _))
    | cases e

theorem State.canBand_steady {s₀ : State} (s : State) (ch : Nat) (c : CanCfg) (f : CanFrame) (hS : Steady s₀ s) :
    Steady s₀ (State.canBand s ch c f) := by
  unfold State.canBand
  try dsimp only
  repeat' first
    | with_reducible assumption
    | with_reducible apply ite_steady
    | with_reducible apply State.set_steady
    | with_reducible apply State.evt_steady
    | with_reducible apply State.incSat_steady
    | with_reducible apply State.alarm_steady
    | with_reducible exact id
    | with_reducible rfl
    | exact fun _ h => h
    | with_reducible exact fun h => tput_sorted _ h (Nat.zero_le _)
    | with_reducible exact tdel_sorted
    | exact fun _ => rfl
    | with_reducible exact fun h => Memory.writeWord_wf _ _ h
    | split

theorem State.canEcho_steady {s₀ : State} (s : State) (ch : Nat) (c : CanCfg) (f : CanFrame) (hS : Steady s₀ s) :
    Steady s₀ (State.canEcho s ch c f) := by
  unfold State.canEcho
  try dsimp only
  repeat' first
    | with_reducible assumption
    | with_reducible apply ite_steady
    | with_reducible apply State.setMb_steady
    | (with_reducible apply foldl_steady; intro t x ht)

theorem State.canRoll_steady {s₀ : State} (s : State) (hS : Steady s₀ s) :
    Steady s₀ (State.canRoll s) := by
  unfold State.canRoll
  try dsimp only
  repeat' first
    | with_reducible assumption
    | with_reducible apply ite_steady
    | with_reducible apply State.mbQueue_steady
    | (with_reducible apply foldl_steady; intro t x ht)
    | with_reducible exact id
    | with_reducible rfl
    | exact fun _ h => h
    | with_reducible exact fun h => tput_sorted _ h (Nat.zero_le _)
    | with_reducible exact tdel_sorted
    | exact fun _ => rfl
    | with_reducible exact fun h => Memory.writeWord_wf _ _ h
    | split

theorem State.canUp_steady {s₀ : State} (s : State) (hS : Steady s₀ s) :
    Steady s₀ (State.canUp s) := by
  unfold State.canUp
  try dsimp only
  repeat' first
    | with_reducible assumption
    | with_reducible apply ite_steady
    | with_reducible apply State.set_steady
    | (with_reducible apply foldl_steady; intro t x ht)

theorem State.canTakeover_steady {s₀ : State} (s : State) (hS : Steady s₀ s) :
    Steady s₀ (State.canTakeover s) := by
  unfold State.canTakeover
  try dsimp only
  repeat' first
    | with_reducible assumption
    | with_reducible apply ite_steady
    | with_reducible apply State.set_steady
    | with_reducible apply State.record_steady
    | (with_reducible apply foldl_steady; intro t x ht)

theorem State.canConfigure_steady {s₀ : State} (s : State) (hS : Steady s₀ s) :
    Steady s₀ (State.canConfigure s) := by
  unfold State.canConfigure
  try dsimp only
  repeat' first
    | with_reducible assumption
    | with_reducible apply ite_steady
    | with_reducible apply State.set_steady
    | with_reducible apply State.setB_steady
    | (with_reducible apply foldl_steady; intro t x ht)
    | with_reducible exact id
    | with_reducible rfl
    | exact fun _ h => h
    | with_reducible exact fun h => tput_sorted _ h (Nat.zero_le _)
    | with_reducible exact tdel_sorted
    | exact fun _ => rfl
    | with_reducible exact fun h => Memory.writeWord_wf _ _ h
    | split

end Sys2Proof.Machine
end

