-- ==== Sys2Proof/Laws/SteadyEth.lean ====
section
/-!
SUPPORT. Every operation of Machine/Eth.lean keeps what `Steady` says.
-/

set_option Elab.async false

namespace Sys2Proof.Machine

open Sys2Proof

theorem State.putEth_steady {s₀ : State} (s : State) (p : Nat) (e : EthSt) (hS : Steady s₀ s) :
    Steady s₀ (State.putEth s p e) := by
  unfold State.putEth
  try dsimp only
  repeat' first
    | with_reducible assumption
    | with_reducible apply ite_steady
    | with_reducible exact id
    | with_reducible rfl
    | exact fun _ h => h
    | with_reducible exact fun h => tput_sorted _ h (Nat.zero_le _)
    | with_reducible exact tdel_sorted
    | exact fun _ => rfl
    | with_reducible exact fun h => Memory.writeWord_wf _ _ h
    | (refine written_steady (by simp only [↓State.written_mk]) ?_; with_reducible apply mk_steady)

theorem State.ethTry_steady {s₀ : State} (s : State) (p q : Nat) (hS : Steady s₀ s) :
    Steady s₀ (State.ethTry s p q) := by
  unfold State.ethTry
  try dsimp only
  repeat' first
    | with_reducible assumption
    | with_reducible apply ite_steady
    | with_reducible apply State.putEth_steady
    | with_reducible apply State.inc_steady
    | with_reducible exact id
    | with_reducible rfl
    | exact fun _ h => h
    | with_reducible exact fun h => tput_sorted _ h (Nat.zero_le _)
    | with_reducible exact tdel_sorted
    | exact fun _ => rfl
    | with_reducible exact fun h => Memory.writeWord_wf _ _ h
    | split

theorem State.ethNext_steady {s₀ : State} (s : State) (p : Nat) (hS : Steady s₀ s) :
    Steady s₀ (State.ethNext s p) := by
  unfold State.ethNext
  try dsimp only
  repeat' first
    | with_reducible assumption
    | with_reducible apply ite_steady
    | with_reducible apply State.ethTry_steady
    | (with_reducible apply foldl_steady; intro t x ht)

theorem State.ethPut_steady {s₀ : State} (s : State) (p : Nat) (f : EthOut) (hS : Steady s₀ s) :
    Steady s₀ (State.ethPut s p f) := by
  unfold State.ethPut
  try dsimp only
  repeat' first
    | with_reducible assumption
    | with_reducible apply ite_steady
    | with_reducible apply State.putEth_steady
    | with_reducible apply State.ethNext_steady

theorem State.ethSend_steady {s₀ : State} (s : State) (ports : List Nat) (kind queue : Nat) (body : List Nat) (hS : Steady s₀ s) :
    Steady s₀ (State.ethSend s ports kind queue body) := by
  unfold State.ethSend
  try dsimp only
  repeat' first
    | with_reducible assumption
    | with_reducible apply ite_steady
    | with_reducible apply State.putEth_steady
    | with_reducible apply State.ethPut_steady
    | (with_reducible apply foldl_steady; intro t x ht)
    | with_reducible exact id
    | with_reducible rfl
    | exact fun _ h => h
    | with_reducible exact fun h => tput_sorted _ h (Nat.zero_le _)
    | with_reducible exact tdel_sorted
    | exact fun _ => rfl
    | with_reducible exact fun h => Memory.writeWord_wf _ _ h
    | split
    | (refine written_steady (by simp only [↓State.written_mk]) ?_; with_reducible apply mk_steady)

theorem State.ethCyclic_steady {s₀ : State} (s : State) (p : Nat) (t : EthTx) (hS : Steady s₀ s) :
    Steady s₀ (State.ethCyclic s p t) := by
  unfold State.ethCyclic
  try dsimp only
  repeat' first
    | with_reducible assumption
    | with_reducible apply ite_steady
    | with_reducible apply State.ethSend_steady

theorem State.ethOnWrite_steady {s₀ : State} (s : State) (addrs : List Nat) (hS : Steady s₀ s) :
    Steady s₀ (State.ethOnWrite s addrs) := by
  unfold State.ethOnWrite
  try dsimp only
  repeat' first
    | with_reducible assumption
    | with_reducible apply ite_steady
    | with_reducible apply State.ethCyclic_steady
    | (with_reducible apply foldl_steady; intro t x ht)

theorem State.ethRoll_steady {s₀ : State} (s : State) (hS : Steady s₀ s) :
    Steady s₀ (State.ethRoll s) := by
  unfold State.ethRoll
  try dsimp only
  repeat' first
    | with_reducible assumption
    | with_reducible apply ite_steady
    | with_reducible apply State.ethSend_steady
    | (with_reducible apply foldl_steady; intro t x ht)

theorem State.ethRephase_steady {s₀ : State} (s : State) (hS : Steady s₀ s) :
    Steady s₀ (State.ethRephase s) := by
  unfold State.ethRephase
  try dsimp only
  repeat' first
    | with_reducible assumption
    | with_reducible apply ite_steady
    | with_reducible apply State.set_steady
    | with_reducible apply State.record_steady
    | with_reducible apply State.ethNext_steady
    | (with_reducible apply foldl_steady; intro t x ht)

theorem State.ethLink_steady {s₀ : State} (s : State) (p : Nat) (link : Bool) (speed : Nat) (hS : Steady s₀ s) :
    Steady s₀ (State.ethLink s p link speed) := by
  unfold State.ethLink
  try dsimp only
  repeat' first
    | with_reducible assumption
    | with_reducible apply ite_steady
    | with_reducible apply State.setB_steady
    | with_reducible apply State.record_steady
    | with_reducible apply State.set_steady
    | with_reducible apply State.evt_steady
    | with_reducible apply State.ethNext_steady

theorem State.ethBc_steady {s₀ : State} (s : State) (p : Nat) (c : EthCfg) (f : EthFrame) (hS : Steady s₀ s) :
    Steady s₀ (State.ethBc s p c f).1 := by
  unfold State.ethBc
  try dsimp only
  repeat' first
    | with_reducible assumption
    | with_reducible apply ite_steady
    | with_reducible apply State.putEth_steady
    | with_reducible apply State.incSat_steady
    | with_reducible exact id
    | with_reducible rfl
    | exact fun _ h => h
    | with_reducible exact fun h => tput_sorted _ h (Nat.zero_le _)
    | with_reducible exact tdel_sorted
    | exact fun _ => rfl
    | with_reducible exact fun h => Memory.writeWord_wf _ _ h
    | split

theorem State.ethPrp_steady {s₀ : State} (s : State) (p lead : Nat) (c : EthCfg) (f : EthFrame) (hS : Steady s₀ s) :
    Steady s₀ (State.ethPrp s p lead c f).1 := by
  unfold State.ethPrp
  try dsimp only
  repeat' first
    | with_reducible assumption
    | with_reducible apply ite_steady
    | with_reducible apply State.inc_steady
    | with_reducible apply State.record_steady
    | with_reducible apply State.putEth_steady
    | with_reducible apply State.evt_steady
    | with_reducible exact id
    | with_reducible rfl
    | exact fun _ h => h
    | with_reducible exact fun h => tput_sorted _ h (Nat.zero_le _)
    | with_reducible exact tdel_sorted
    | exact fun _ => rfl
    | with_reducible exact fun h => Memory.writeWord_wf _ _ h
    | split

theorem State.ethReply_steady {s₀ : State} (s : State) (lead : Nat) (f : EthFrame) (hS : Steady s₀ s) :
    Steady s₀ (State.ethReply s lead f) := by
  unfold State.ethReply
  try dsimp only
  repeat' first
    | with_reducible assumption
    | with_reducible apply ite_steady
    | with_reducible apply State.rollReply_steady
    | with_reducible apply State.record_steady
    | with_reducible exact id
    | with_reducible rfl
    | exact fun _ h => h
    | with_reducible exact fun h => tput_sorted _ h (Nat.zero_le _)
    | with_reducible exact tdel_sorted
    | exact fun _ => rfl
    | with_reducible exact fun h => Memory.writeWord_wf _ _ h
    | split

theorem State.ethDest_steady {s₀ : State} (s : State) (p lead : Nat) (c : EthCfg) (n : Nat) (x : EthFilter) (f : EthFrame) (hS : Steady s₀ s) :
    Steady s₀ (State.ethDest s p lead c n x f) := by
  unfold State.ethDest
  try dsimp only
  repeat' first
    | with_reducible assumption
    | with_reducible apply ite_steady
    | with_reducible apply State.incSat_steady
    | with_reducible apply State.layoutIn_steady
    | with_reducible apply State.frameEnv_steady
    | with_reducible apply State.ethReply_steady
    | with_reducible exact id
    | with_reducible rfl
    | exact fun _ h => h
    | with_reducible exact fun h => tput_sorted _ h (Nat.zero_le _)
    | with_reducible exact tdel_sorted
    | exact fun _ => rfl
    | with_reducible exact fun h => Memory.writeWord_wf _ _ h
    | split

theorem State.ethFilter_steady {s₀ : State} (s : State) (p lead : Nat) (c : EthCfg) (f : EthFrame) (hS : Steady s₀ s) :
    Steady s₀ (State.ethFilter s p lead c f) := by
  unfold State.ethFilter
  try dsimp only
  repeat' first
    | with_reducible assumption
    | with_reducible apply ite_steady
    | with_reducible apply State.incSat_steady
    | with_reducible apply State.inc_steady
    | with_reducible apply State.lullLeave_steady
    | with_reducible apply State.ethDest_steady
    | with_reducible exact id
    | with_reducible rfl
    | exact fun _ h => h
    | with_reducible exact fun h => tput_sorted _ h (Nat.zero_le _)
    | with_reducible exact tdel_sorted
    | exact fun _ => rfl
    | with_reducible exact fun h => Memory.writeWord_wf _ _ h
    | split

theorem State.ethUp_steady {s₀ : State} (s : State) (hS : Steady s₀ s) :
    Steady s₀ (State.ethUp s) := by
  unfold State.ethUp
  try dsimp only
  repeat' first
    | with_reducible assumption
    | with_reducible apply ite_steady
    | with_reducible apply State.putEth_steady
    | with_reducible apply State.setB_steady
    | (with_reducible apply foldl_steady; intro t x ht)

theorem State.ethTakeover_steady {s₀ : State} (s : State) (hS : Steady s₀ s) :
    Steady s₀ (State.ethTakeover s) := by
  unfold State.ethTakeover
  try dsimp only
  repeat' first
    | with_reducible assumption
    | with_reducible apply ite_steady
    | with_reducible apply State.set_steady
    | with_reducible apply State.ethNext_steady
    | (with_reducible apply foldl_steady; intro t x ht)

theorem State.ethConfigure_steady {s₀ : State} (s : State) (hS : Steady s₀ s) :
    Steady s₀ (State.ethConfigure s) := by
  unfold State.ethConfigure
  try dsimp only
  repeat' first
    | with_reducible assumption
    | with_reducible apply ite_steady
    | with_reducible apply State.setB_steady
    | with_reducible apply State.set_steady
    | (with_reducible apply foldl_steady; intro t x ht)

theorem State.sealTile_steady {s₀ : State} (s : State) (t : Tile) (hS : Steady s₀ s) :
    Steady s₀ (State.sealTile s t) := by
  unfold State.sealTile
  try dsimp only
  repeat' first
    | with_reducible assumption
    | with_reducible apply ite_steady
    | with_reducible exact id
    | with_reducible rfl
    | exact fun _ h => h
    | with_reducible exact fun h => tput_sorted _ h (Nat.zero_le _)
    | with_reducible exact tdel_sorted
    | exact fun _ => rfl
    | with_reducible exact fun h => Memory.writeWord_wf _ _ h
    | (refine written_steady (by simp only [↓State.written_mk]) ?_; with_reducible apply mk_steady)

theorem State.workAdd_steady {s₀ : State} (s : State) (t : Tile) (hS : Steady s₀ s) :
    Steady s₀ (State.workAdd s t) := by
  unfold State.workAdd
  try dsimp only
  repeat' first
    | with_reducible assumption
    | with_reducible apply ite_steady
    | with_reducible apply State.sealTile_steady
    | with_reducible exact id
    | with_reducible rfl
    | exact fun _ h => h
    | with_reducible exact fun h => tput_sorted _ h (Nat.zero_le _)
    | with_reducible exact tdel_sorted
    | exact fun _ => rfl
    | with_reducible exact fun h => Memory.writeWord_wf _ _ h
    | (refine written_steady (by simp only [↓State.written_mk]) ?_; with_reducible apply mk_steady)

end Sys2Proof.Machine
end

