-- ==== Sys2Proof/Laws/SteadyIsland.lean ====
section
/-!
SUPPORT. Every operation of Machine/Island.lean keeps what `Steady` says.
-/

set_option Elab.async false

namespace Sys2Proof.Machine

open Sys2Proof

theorem State.putIslOut_steady {s₀ : State} (s : State) (n : Nat) (o : SafeOutSt) (hS : Steady s₀ s) :
    Steady s₀ (State.putIslOut s n o) := by
  unfold State.putIslOut
  try dsimp only
  repeat' first
    | with_reducible assumption
    | with_reducible apply ite_steady
    | with_reducible exact id
    | with_reducible rfl
    | exact fun _ h => h
    | with_reducible exact fun h => tput_sorted _ h (Nat.zero_le _)
    | with_reducible exact tdel_sorted
    | exact fun _ => rfl
    | with_reducible exact fun h => Memory.writeWord_wf _ _ h
    | (refine written_steady (by simp only [↓State.written_mk]) ?_; with_reducible apply mk_steady)

theorem State.putIslAx_steady {s₀ : State} (s : State) (n : Nat) (a : AxisSt) (hS : Steady s₀ s) :
    Steady s₀ (State.putIslAx s n a) := by
  unfold State.putIslAx
  try dsimp only
  repeat' first
    | with_reducible assumption
    | with_reducible apply ite_steady
    | with_reducible exact id
    | with_reducible rfl
    | exact fun _ h => h
    | with_reducible exact fun h => tput_sorted _ h (Nat.zero_le _)
    | with_reducible exact tdel_sorted
    | exact fun _ => rfl
    | with_reducible exact fun h => Memory.writeWord_wf _ _ h
    | (refine written_steady (by simp only [↓State.written_mk]) ?_; with_reducible apply mk_steady)

theorem State.setBitOf_steady {s₀ : State} (s : State) (f : Fld) (n : Nat) (b : Bool) (hS : Steady s₀ s) :
    Steady s₀ (State.setBitOf s f n b) := by
  unfold State.setBitOf
  try dsimp only
  repeat' first
    | with_reducible assumption
    | with_reducible apply ite_steady
    | with_reducible apply State.set_steady

theorem State.islNote_steady {s₀ : State} (s : State) (e : Ev) (hS : Steady s₀ s) :
    Steady s₀ (State.islNote s e) := by
  unfold State.islNote
  try dsimp only
  repeat' first
    | with_reducible assumption
    | with_reducible apply ite_steady
    | with_reducible apply State.record_steady
    | with_reducible apply State.send_steady

theorem State.inShow_steady {s₀ : State} (s : State) (n : Nat) (hS : Steady s₀ s) :
    Steady s₀ (State.inShow s n) := by
  unfold State.inShow
  try dsimp only
  repeat' first
    | with_reducible assumption
    | with_reducible apply ite_steady
    | with_reducible apply State.setBitOf_steady
    | with_reducible exact id
    | with_reducible rfl
    | exact fun _ h => h
    | with_reducible exact fun h => tput_sorted _ h (Nat.zero_le _)
    | with_reducible exact tdel_sorted
    | exact fun _ => rfl
    | with_reducible exact fun h => Memory.writeWord_wf _ _ h
    | split
    | (refine written_steady (by simp only [↓State.written_mk]) ?_; with_reducible apply mk_steady)

theorem State.islSwitch_steady {s₀ : State} (s : State) (n : Nat) (on : Bool) (reason : Nat) (hS : Steady s₀ s) :
    Steady s₀ (State.islSwitch s n on reason) := by
  unfold State.islSwitch
  try dsimp only
  repeat' first
    | with_reducible assumption
    | with_reducible apply ite_steady
    | with_reducible apply State.putIslOut_steady
    | with_reducible apply State.evt_steady
    | with_reducible apply State.islNote_steady
    | with_reducible apply State.setBitOf_steady

theorem State.islApply_steady {s₀ : State} (s : State) (n : Nat) (hS : Steady s₀ s) :
    Steady s₀ (State.islApply s n) := by
  unfold State.islApply
  try dsimp only
  repeat' first
    | with_reducible assumption
    | with_reducible apply ite_steady
    | with_reducible apply State.islSwitch_steady

theorem State.islAllOff_steady {s₀ : State} (s : State) (hS : Steady s₀ s) :
    Steady s₀ (State.islAllOff s) := by
  unfold State.islAllOff
  try dsimp only
  repeat' first
    | with_reducible assumption
    | with_reducible apply ite_steady
    | with_reducible apply State.putIslOut_steady
    | with_reducible apply State.islSwitch_steady
    | (with_reducible apply foldl_steady; intro t x ht)

theorem State.islTo_steady {s₀ : State} (s : State) (new : Nat) (hS : Steady s₀ s) :
    Steady s₀ (State.islTo s new) := by
  unfold State.islTo
  try dsimp only
  repeat' first
    | with_reducible assumption
    | with_reducible apply ite_steady
    | with_reducible apply State.set_steady
    | with_reducible apply State.evt_steady
    | with_reducible apply State.islNote_steady

theorem State.islLock_steady {s₀ : State} (s : State) (cause index : Nat) (hS : Steady s₀ s) :
    Steady s₀ (State.islLock s cause index) := by
  unfold State.islLock
  try dsimp only
  repeat' first
    | with_reducible assumption
    | with_reducible apply ite_steady
    | with_reducible apply State.set_steady
    | with_reducible apply State.islTo_steady
    | with_reducible apply State.islAllOff_steady
    | with_reducible exact id
    | with_reducible rfl
    | exact fun _ h => h
    | with_reducible exact fun h => tput_sorted _ h (Nat.zero_le _)
    | with_reducible exact tdel_sorted
    | exact fun _ => rfl
    | with_reducible exact fun h => Memory.writeWord_wf _ _ h
    | (refine written_steady (by simp only [↓State.written_mk]) ?_; with_reducible apply mk_steady)

theorem State.islFault_steady {s₀ : State} (s : State) (cause index : Nat) (hS : Steady s₀ s) :
    Steady s₀ (State.islFault s cause index) := by
  unfold State.islFault
  try dsimp only
  repeat' first
    | with_reducible assumption
    | with_reducible apply ite_steady
    | with_reducible apply State.islNote_steady
    | with_reducible apply State.islLock_steady

theorem State.islFrame_steady {s₀ : State} (s : State) (hS : Steady s₀ s) :
    Steady s₀ (State.islFrame s) := by
  unfold State.islFrame
  try dsimp only
  repeat' first
    | with_reducible assumption
    | with_reducible apply ite_steady
    | with_reducible apply State.putAll_steady

theorem State.islStart_steady {s₀ : State} (s : State) (hS : Steady s₀ s) :
    Steady s₀ (State.islStart s) := by
  unfold State.islStart
  try dsimp only
  repeat' first
    | with_reducible assumption
    | with_reducible apply ite_steady
    | with_reducible apply State.set_steady
    | with_reducible apply State.islTo_steady
    | with_reducible exact id
    | with_reducible rfl
    | exact fun _ h => h
    | with_reducible exact fun h => tput_sorted _ h (Nat.zero_le _)
    | with_reducible exact tdel_sorted
    | exact fun _ => rfl
    | with_reducible exact fun h => Memory.writeWord_wf _ _ h
    | (refine written_steady (by simp only [↓State.written_mk]) ?_; with_reducible apply mk_steady)

theorem State.islMusterEnd_steady {s₀ : State} (s : State) (hS : Steady s₀ s) :
    Steady s₀ (State.islMusterEnd s) := by
  unfold State.islMusterEnd
  try dsimp only
  repeat' first
    | with_reducible assumption
    | with_reducible apply ite_steady
    | with_reducible apply State.record_steady
    | with_reducible apply State.islLock_steady

theorem State.islConfigure_steady {s₀ : State} (s : State) (hS : Steady s₀ s) :
    Steady s₀ (State.islConfigure s) := by
  unfold State.islConfigure
  try dsimp only
  repeat' first
    | with_reducible assumption
    | with_reducible apply ite_steady
    | with_reducible apply State.set_steady
    | with_reducible apply State.inShow_steady
    | with_reducible apply State.putIslAx_steady
    | (with_reducible apply foldl_steady; intro t x ht)

theorem State.axisTake_steady {s₀ : State} (s : State) (n : Nat) (c : AxisCfg) (r : AxisEval) (hS : Steady s₀ s) :
    Steady s₀ (State.axisTake s n c r) := by
  unfold State.axisTake
  try dsimp only
  repeat' first
    | with_reducible assumption
    | with_reducible apply ite_steady
    | with_reducible apply State.putIslAx_steady
    | with_reducible apply State.evt_steady
    | with_reducible apply State.set_steady
    | with_reducible apply State.send_steady
    | with_reducible apply State.setB_steady
    | with_reducible apply State.setQ_steady
    | with_reducible apply State.islNote_steady
    | with_reducible apply State.setU_steady
    | (with_reducible apply foldl_steady; intro t x ht)
    | with_reducible exact id
    | with_reducible rfl
    | exact fun _ h => h
    | with_reducible exact fun h => tput_sorted _ h (Nat.zero_le _)
    | with_reducible exact tdel_sorted
    | exact fun _ => rfl
    | with_reducible exact fun h => Memory.writeWord_wf _ _ h
    | split

theorem State.setDefer_steady {s₀ : State} (s : State) (n : Nat) (chB : Bool) (run : Nat) (hS : Steady s₀ s) :
    Steady s₀ (State.setDefer s n chB run) := by
  unfold State.setDefer
  try dsimp only
  repeat' first
    | with_reducible assumption
    | with_reducible apply ite_steady
    | with_reducible apply State.putIslOut_steady
    | with_reducible apply State.setSat_steady

theorem State.islAck_steady {s₀ : State} (s : State) (hS : Steady s₀ s) :
    Steady s₀ (State.islAck s) := by
  unfold State.islAck
  try dsimp only
  repeat' first
    | with_reducible assumption
    | with_reducible apply ite_steady
    | with_reducible apply State.setBitOf_steady
    | with_reducible apply State.set_steady
    | with_reducible apply State.send_steady
    | (with_reducible apply foldl_steady; intro t x ht)

theorem State.cvResult_steady {s₀ : State} (s : State) (res keyId : Nat) (hS : Steady s₀ s) :
    Steady s₀ (State.cvResult s res keyId) := by
  unfold State.cvResult
  try dsimp only
  repeat' first
    | with_reducible assumption
    | with_reducible apply ite_steady
    | with_reducible apply State.set_steady
    | with_reducible apply State.record_steady

theorem State.cvCommit_steady {s₀ : State} (s : State) (value keyId : Nat) (hS : Steady s₀ s) :
    Steady s₀ (State.cvCommit s value keyId) := by
  unfold State.cvCommit
  try dsimp only
  repeat' first
    | with_reducible assumption
    | with_reducible apply ite_steady
    | with_reducible apply State.cvResult_steady
    | with_reducible apply State.journalWait_steady
    | with_reducible exact id
    | with_reducible rfl
    | exact fun _ h => h
    | with_reducible exact fun h => tput_sorted _ h (Nat.zero_le _)
    | with_reducible exact tdel_sorted
    | exact fun _ => rfl
    | with_reducible exact fun h => Memory.writeWord_wf _ _ h
    | (refine written_steady (by simp only [↓State.written_mk]) ?_; with_reducible apply mk_steady)

theorem State.cvWritten_steady {s₀ : State} (s : State) (hS : Steady s₀ s) :
    Steady s₀ (State.cvWritten s) := by
  unfold State.cvWritten
  try dsimp only
  repeat' first
    | with_reducible assumption
    | with_reducible apply ite_steady
    | with_reducible apply State.cvResult_steady

end Sys2Proof.Machine
end

