-- ==== Sys2Proof/Laws/SteadyMfn.lean ====
section
/-!
SUPPORT. Every operation of Machine/Mfn.lean keeps what `Steady` says.
-/

set_option Elab.async false

namespace Sys2Proof.Machine

open Sys2Proof

theorem State.putFn_steady {s₀ : State} (s : State) (f : Nat) (x : FnSt) (hS : Steady s₀ s) :
    Steady s₀ (State.putFn s f x) := by
  unfold State.putFn
  try dsimp only
  repeat' first
    | with_reducible assumption
    | with_reducible apply ite_steady
    | with_reducible exact id
    | with_reducible rfl
    | exact fun _ h => h
    | with_reducible exact fun h => tput_sorted _ h (Nat.zero_le _)
    | with_reducible exact tdel_sorted
    | exact fun _ => rfl
    | with_reducible exact fun h => Memory.writeWord_wf _ _ h
    | (refine written_steady (by simp only [↓State.written_mk]) ?_; with_reducible apply mk_steady)

theorem State.fnPoints_steady {s₀ : State} (s : State) (f : Nat) (hS : Steady s₀ s) :
    Steady s₀ (State.fnPoints s f) := by
  unfold State.fnPoints
  try dsimp only
  repeat' first
    | with_reducible assumption
    | with_reducible apply ite_steady
    | with_reducible apply State.putAll_steady

theorem State.setFn_steady {s₀ : State} (s : State) (f : Nat) (g : FnCfg) (new : Nat) (hS : Steady s₀ s) :
    Steady s₀ (State.setFn s f g new) := by
  unfold State.setFn
  try dsimp only
  repeat' first
    | with_reducible assumption
    | with_reducible apply ite_steady
    | with_reducible apply State.putFn_steady
    | with_reducible apply State.injStop_steady
    | with_reducible apply State.evt_steady
    | with_reducible apply State.fnPoints_steady
    | with_reducible apply State.set_steady
    | with_reducible apply State.record_steady
    | (with_reducible apply foldl_steady; intro t x ht)

theorem State.cellsTo_steady {s₀ : State} (s : State) (g : FnCfg) (st : Nat) (upd : CellSt → FnCell → CellSt) (hS : Steady s₀ s) :
    Steady s₀ (State.cellsTo s g st upd) := by
  unfold State.cellsTo
  try dsimp only
  repeat' first
    | with_reducible assumption
    | with_reducible apply ite_steady
    | with_reducible apply State.putCell_steady
    | with_reducible apply State.set_steady
    | (with_reducible apply foldl_steady; intro t x ht)

theorem State.fnArm_steady {s₀ : State} (s : State) (f : Nat) (g : FnCfg) (hS : Steady s₀ s) :
    Steady s₀ (State.fnArm s f g) := by
  unfold State.fnArm
  try dsimp only
  repeat' first
    | with_reducible assumption
    | with_reducible apply ite_steady
    | with_reducible apply State.cellsTo_steady
    | with_reducible apply State.set_steady
    | with_reducible apply State.setFn_steady

theorem State.fnActivate_steady {s₀ : State} (s : State) (f : Nat) (g : FnCfg) (hS : Steady s₀ s) :
    Steady s₀ (State.fnActivate s f g) := by
  unfold State.fnActivate
  try dsimp only
  repeat' first
    | with_reducible assumption
    | with_reducible apply ite_steady
    | with_reducible apply State.cellsTo_steady
    | with_reducible apply State.setFn_steady

theorem State.endAction_steady {s₀ : State} (s : State) (c : FnCell) (hS : Steady s₀ s) :
    Steady s₀ (State.endAction s c) := by
  unfold State.endAction
  try dsimp only
  repeat' first
    | with_reducible assumption
    | with_reducible apply ite_steady
    | with_reducible apply State.setOut_steady
    | with_reducible apply State.resetOut_steady
    | with_reducible exact id
    | with_reducible rfl
    | exact fun _ h => h
    | with_reducible exact fun h => tput_sorted _ h (Nat.zero_le _)
    | with_reducible exact tdel_sorted
    | exact fun _ => rfl
    | with_reducible exact fun h => Memory.writeWord_wf _ _ h
    | split

theorem State.fnEnd_steady {s₀ : State} (s : State) (f : Nat) (g : FnCfg) (timeout : Bool) (hS : Steady s₀ s) :
    Steady s₀ (State.fnEnd s f g timeout) := by
  unfold State.fnEnd
  try dsimp only
  repeat' first
    | with_reducible assumption
    | with_reducible apply ite_steady
    | with_reducible apply State.setB_steady
    | with_reducible apply State.evt_steady
    | with_reducible apply State.setSat_steady
    | with_reducible apply State.endAction_steady
    | with_reducible apply State.cellsTo_steady
    | with_reducible apply State.putFn_steady
    | with_reducible apply State.setFn_steady
    | with_reducible apply State.fnArm_steady
    | with_reducible apply State.record_steady
    | (with_reducible apply foldl_steady; intro t x ht)

theorem State.fnStop_steady {s₀ : State} (s : State) (f : Nat) (g : FnCfg) (fault : Bool) (hS : Steady s₀ s) :
    Steady s₀ (State.fnStop s f g fault) := by
  unfold State.fnStop
  try dsimp only
  repeat' first
    | with_reducible assumption
    | with_reducible apply ite_steady
    | with_reducible apply State.putFn_steady
    | with_reducible apply State.setB_steady
    | with_reducible apply State.set_steady
    | with_reducible apply State.cellsTo_steady
    | with_reducible apply State.setFn_steady
    | with_reducible apply State.fnEnd_steady

theorem State.fnFault_steady {s₀ : State} (s : State) (f : Nat) (g : FnCfg) (cause cell : Nat) (hS : Steady s₀ s) :
    Steady s₀ (State.fnFault s f g cause cell) := by
  unfold State.fnFault
  try dsimp only
  repeat' first
    | with_reducible assumption
    | with_reducible apply ite_steady
    | with_reducible apply State.putFn_steady
    | with_reducible apply State.set_steady
    | with_reducible apply State.record_steady
    | with_reducible apply State.fnStop_steady

theorem State.fnRequest_steady {s₀ : State} (s : State) (f : Nat) (g : FnCfg) (action src : Nat) (hS : Steady s₀ s) :
    Steady s₀ (State.fnRequest s f g action src).1 := by
  unfold State.fnRequest
  try dsimp only
  repeat' first
    | with_reducible assumption
    | with_reducible apply ite_steady
    | with_reducible apply State.set_steady
    | with_reducible apply State.putFn_steady
    | with_reducible apply State.fnStop_steady
    | with_reducible apply State.record_steady
    | with_reducible apply State.setFn_steady
    | with_reducible apply State.fnArm_steady
    | with_reducible apply State.evt_steady
    | (with_reducible apply foldl_steady; intro t x ht)
    | with_reducible exact id
    | with_reducible rfl
    | exact fun _ h => h
    | with_reducible exact fun h => tput_sorted _ h (Nat.zero_le _)
    | with_reducible exact tdel_sorted
    | exact fun _ => rfl
    | with_reducible exact fun h => Memory.writeWord_wf _ _ h
    | split

theorem State.fnDecide_steady {s₀ : State} (s : State) (f : Nat) (c : FnCmd) (res : Nat) (hS : Steady s₀ s) :
    Steady s₀ (State.fnDecide s f c res) := by
  unfold State.fnDecide
  try dsimp only
  repeat' first
    | with_reducible assumption
    | with_reducible apply ite_steady
    | with_reducible apply State.putFn_steady
    | with_reducible apply State.fnResult_steady

theorem State.fnSetpoints_steady {s₀ : State} (s : State) (g : FnCfg) (hS : Steady s₀ s) :
    Steady s₀ (State.fnSetpoints s g) := by
  unfold State.fnSetpoints
  try dsimp only
  repeat' first
    | with_reducible assumption
    | with_reducible apply ite_steady
    | with_reducible apply State.putCell_steady
    | (with_reducible apply foldl_steady; intro t x ht)
    | with_reducible exact id
    | with_reducible rfl
    | exact fun _ h => h
    | with_reducible exact fun h => tput_sorted _ h (Nat.zero_le _)
    | with_reducible exact tdel_sorted
    | exact fun _ => rfl
    | with_reducible exact fun h => Memory.writeWord_wf _ _ h
    | split

theorem State.fnBand_steady {s₀ : State} (s : State) (f : Nat) (g : FnCfg) (hS : Steady s₀ s) :
    Steady s₀ (State.fnBand s f g) := by
  unfold State.fnBand
  try dsimp only
  repeat' first
    | with_reducible assumption
    | with_reducible apply ite_steady
    | with_reducible apply State.putFn_steady

theorem State.fnCauses_steady {s₀ : State} (s : State) (f : Nat) (g : FnCfg) (hS : Steady s₀ s) :
    Steady s₀ (State.fnCauses s f g) := by
  unfold State.fnCauses
  try dsimp only
  repeat' first
    | with_reducible assumption
    | with_reducible apply ite_steady
    | with_reducible apply State.fnFault_steady
    | with_reducible exact id
    | with_reducible rfl
    | exact fun _ h => h
    | with_reducible exact fun h => tput_sorted _ h (Nat.zero_le _)
    | with_reducible exact tdel_sorted
    | exact fun _ => rfl
    | with_reducible exact fun h => Memory.writeWord_wf _ _ h
    | split

theorem State.fnTick_steady {s₀ : State} (s : State) (f : Nat) (g : FnCfg) (hS : Steady s₀ s) :
    Steady s₀ (State.fnTick s f g) := by
  unfold State.fnTick
  try dsimp only
  repeat' first
    | with_reducible assumption
    | with_reducible apply ite_steady
    | with_reducible apply State.putFn_steady
    | with_reducible apply State.setB_steady
    | with_reducible apply State.fnCauses_steady
    | with_reducible apply State.fnRequest_steady
    | with_reducible apply State.fnActivate_steady
    | with_reducible apply State.fnSetpoints_steady
    | with_reducible apply State.fnBand_steady
    | with_reducible apply State.fnDecide_steady
    | with_reducible exact id
    | with_reducible rfl
    | exact fun _ h => h
    | with_reducible exact fun h => tput_sorted _ h (Nat.zero_le _)
    | with_reducible exact tdel_sorted
    | exact fun _ => rfl
    | with_reducible exact fun h => Memory.writeWord_wf _ _ h
    | split

theorem State.fnsTick_steady {s₀ : State} (s : State) (hS : Steady s₀ s) :
    Steady s₀ (State.fnsTick s) := by
  unfold State.fnsTick
  try dsimp only
  repeat' first
    | with_reducible assumption
    | with_reducible apply ite_steady
    | with_reducible apply State.putCell_steady
    | with_reducible apply State.fnTick_steady
    | with_reducible apply State.endAction_steady
    | (with_reducible apply foldl_steady; intro t x ht)

theorem State.fnsSafe_steady {s₀ : State} (s : State) (hS : Steady s₀ s) :
    Steady s₀ (State.fnsSafe s) := by
  unfold State.fnsSafe
  try dsimp only
  repeat' first
    | with_reducible assumption
    | with_reducible apply ite_steady
    | with_reducible apply State.fnDecide_steady
    | with_reducible apply State.set_steady
    | with_reducible apply State.setFn_steady
    | (with_reducible apply foldl_steady; intro t x ht)
    | with_reducible exact id
    | with_reducible rfl
    | exact fun _ h => h
    | with_reducible exact fun h => tput_sorted _ h (Nat.zero_le _)
    | with_reducible exact tdel_sorted
    | exact fun _ => rfl
    | with_reducible exact fun h => Memory.writeWord_wf _ _ h
    | split

theorem State.fnsFrame_steady {s₀ : State} (s : State) (hS : Steady s₀ s) :
    Steady s₀ (State.fnsFrame s) := by
  unfold State.fnsFrame
  try dsimp only
  repeat' first
    | with_reducible assumption
    | with_reducible apply ite_steady
    | with_reducible apply State.fnPoints_steady
    | (with_reducible apply foldl_steady; intro t x ht)

theorem State.fnAccept_steady {s₀ : State} (s : State) (action fn tag keyId : Nat) (hS : Steady s₀ s) :
    Steady s₀ (State.fnAccept s action fn tag keyId) := by
  unfold State.fnAccept
  try dsimp only
  repeat' first
    | with_reducible assumption
    | with_reducible apply ite_steady
    | with_reducible apply State.fnDecide_steady
    | with_reducible apply State.putFn_steady
    | with_reducible apply State.fnResult_steady
    | with_reducible exact id
    | with_reducible rfl
    | exact fun _ h => h
    | with_reducible exact fun h => tput_sorted _ h (Nat.zero_le _)
    | with_reducible exact tdel_sorted
    | exact fun _ => rfl
    | with_reducible exact fun h => Memory.writeWord_wf _ _ h
    | split

theorem State.fnCmd_steady {s₀ : State} (s : State) (action : Nat) (src : CmdSrc) (fn tag : Nat) (hS : Steady s₀ s) :
    Steady s₀ (State.fnCmd s action src fn tag) := by
  unfold State.fnCmd
  try dsimp only
  repeat' first
    | with_reducible assumption
    | with_reducible apply ite_steady
    | (with_reducible apply State.operatorCmd_steady; intro t k ht)
    | with_reducible apply State.set_steady
    | with_reducible apply State.fnResult_steady
    | with_reducible apply State.fnAccept_steady
    | with_reducible exact id
    | with_reducible rfl
    | exact fun _ h => h
    | with_reducible exact fun h => tput_sorted _ h (Nat.zero_le _)
    | with_reducible exact tdel_sorted
    | exact fun _ => rfl
    | with_reducible exact fun h => Memory.writeWord_wf _ _ h
    | split

theorem State.injectionsStop_steady {s₀ : State} (s : State) (hS : Steady s₀ s) :
    Steady s₀ (State.injectionsStop s) := by
  unfold State.injectionsStop
  try dsimp only
  repeat' first
    | with_reducible assumption
    | with_reducible apply ite_steady
    | with_reducible apply State.injStop_steady
    | (with_reducible apply foldl_steady; intro t x ht)

end Sys2Proof.Machine
end

