-- ==== Sys2Proof/Laws/SteadyMicrostep.lean ====
section
/-!
SUPPORT. Every operation of Machine/Microstep.lean keeps what `Steady` says.
-/

set_option Elab.async false

namespace Sys2Proof.Machine

open Sys2Proof

theorem State.putStep_steady {s₀ : State} (s : State) (n : Nat) (c : StepSt) (hS : Steady s₀ s) :
    Steady s₀ (State.putStep s n c) := by
  unfold State.putStep
  try dsimp only
  repeat' first
    | with_reducible assumption
    | with_reducible apply ite_steady
    | with_reducible exact id
    | with_reducible rfl
    | exact fun _ h => h
    | with_reducible exact fun h => tput_sorted _ h (Nat.zero_le _)
    | with_reducible exact tdel_sorted
    | exact fun _ => rfl
    | with_reducible exact fun h => Memory.writeWord_wf _ _ h
    | (refine written_steady (by simp only [↓State.written_mk]) ?_; with_reducible apply mk_steady)

theorem State.chopCross_steady {s₀ : State} (s : State) (ch coil : Nat) (hi : Bool) (cycles : Nat) (hS : Steady s₀ s) :
    Steady s₀ (State.chopCross s ch coil hi cycles) := by
  unfold State.chopCross
  try dsimp only
  repeat' first
    | with_reducible assumption
    | with_reducible apply ite_steady
    | with_reducible apply State.putStep_steady
    | with_reducible apply State.setQ_steady
    | with_reducible exact id
    | with_reducible rfl
    | exact fun _ h => h
    | with_reducible exact fun h => tput_sorted _ h (Nat.zero_le _)
    | with_reducible exact tdel_sorted
    | exact fun _ => rfl
    | with_reducible exact fun h => Memory.writeWord_wf _ _ h
    | split

theorem State.coilsOn_steady {s₀ : State} (s : State) (n : Nat) (hS : Steady s₀ s) :
    Steady s₀ (State.coilsOn s n) := by
  unfold State.coilsOn
  try dsimp only
  repeat' first
    | with_reducible assumption
    | with_reducible apply ite_steady
    | with_reducible apply State.putStep_steady

theorem State.coilsFollow_steady {s₀ : State} (s : State) (n : Nat) (x : StepCfg) (hS : Steady s₀ s) :
    Steady s₀ (State.coilsFollow s n x) := by
  unfold State.coilsFollow
  try dsimp only
  repeat' first
    | with_reducible assumption
    | with_reducible apply ite_steady
    | with_reducible apply State.putStep_steady

theorem State.stepCut_steady {s₀ : State} (s : State) (n cause new : Nat) (hS : Steady s₀ s) :
    Steady s₀ (State.stepCut s n cause new) := by
  unfold State.stepCut
  try dsimp only
  repeat' first
    | with_reducible assumption
    | with_reducible apply ite_steady
    | with_reducible apply State.putStep_steady
    | with_reducible apply State.set_steady
    | with_reducible apply State.evt_steady
    | with_reducible apply State.record_steady

theorem State.stepFault_steady {s₀ : State} (s : State) (n cause : Nat) (hS : Steady s₀ s) :
    Steady s₀ (State.stepFault s n cause) := by
  unfold State.stepFault
  try dsimp only
  repeat' first
    | with_reducible assumption
    | with_reducible apply ite_steady
    | with_reducible apply State.stepCut_steady
    | with_reducible apply State.evt_steady
    | with_reducible apply State.set_steady
    | with_reducible apply State.record_steady

theorem State.stepEnergise_steady {s₀ : State} (s : State) (n : Nat) (hS : Steady s₀ s) :
    Steady s₀ (State.stepEnergise s n) := by
  unfold State.stepEnergise
  try dsimp only
  repeat' first
    | with_reducible assumption
    | with_reducible apply ite_steady
    | with_reducible apply State.putStep_steady
    | with_reducible apply State.coilsOn_steady

theorem State.stepStart_steady {s₀ : State} (s : State) (n st : Nat) (upd : StepSt → StepSt) (hS : Steady s₀ s) :
    Steady s₀ (State.stepStart s n st upd) := by
  unfold State.stepStart
  try dsimp only
  repeat' first
    | with_reducible assumption
    | with_reducible apply ite_steady
    | with_reducible apply State.stepEnergise_steady
    | with_reducible apply State.putStep_steady
    | with_reducible apply State.set_steady

theorem State.stepHaltNow_steady {s₀ : State} (s : State) (n : Nat) (hS : Steady s₀ s) :
    Steady s₀ (State.stepHaltNow s n) := by
  unfold State.stepHaltNow
  try dsimp only
  repeat' first
    | with_reducible assumption
    | with_reducible apply ite_steady
    | with_reducible apply State.set_steady

theorem State.stepDo_steady {s₀ : State} (s : State) (n : Nat) (x : StepCfg) (cmd : Nat) (arg : Int) (speed scale : Rat) (byPoint : Bool) (hS : Steady s₀ s) :
    Steady s₀ (State.stepDo s n x cmd arg speed scale byPoint).1 := by
  unfold State.stepDo
  try dsimp only
  repeat' first
    | with_reducible assumption
    | with_reducible apply ite_steady
    | with_reducible apply State.stepStart_steady
    | with_reducible apply State.stepHaltNow_steady
    | with_reducible apply State.putStep_steady
    | with_reducible apply State.stepCut_steady
    | with_reducible apply State.set_steady
    | with_reducible apply State.record_steady
    | with_reducible apply State.setI_steady
    | with_reducible exact id
    | with_reducible rfl
    | exact fun _ h => h
    | with_reducible exact fun h => tput_sorted _ h (Nat.zero_le _)
    | with_reducible exact tdel_sorted
    | exact fun _ => rfl
    | with_reducible exact fun h => Memory.writeWord_wf _ _ h
    | split

theorem State.stepRefused_steady {s₀ : State} (s : State) (n cmd res src : Nat) (role : Role) (keyId : Nat) (hS : Steady s₀ s) :
    Steady s₀ (State.stepRefused s n cmd res src role keyId) := by
  unfold State.stepRefused
  try dsimp only
  repeat' first
    | with_reducible assumption
    | with_reducible apply ite_steady
    | with_reducible apply State.evt_steady
    | with_reducible apply State.record_steady

theorem State.stepResult_steady {s₀ : State} (s : State) (n cmd tag res src keyId : Nat) (hS : Steady s₀ s) :
    Steady s₀ (State.stepResult s n cmd tag res src keyId) := by
  unfold State.stepResult
  try dsimp only
  repeat' first
    | with_reducible assumption
    | with_reducible apply ite_steady
    | with_reducible apply State.set_steady
    | with_reducible apply State.stepRefused_steady

theorem State.stepPoint_steady {s₀ : State} (s : State) (n : Nat) (x : StepCfg) (cmd idx : Nat) (hS : Steady s₀ s) :
    Steady s₀ (State.stepPoint s n x cmd idx) := by
  unfold State.stepPoint
  try dsimp only
  repeat' first
    | with_reducible assumption
    | with_reducible apply ite_steady
    | with_reducible apply State.stepDo_steady
    | with_reducible apply State.stepRefused_steady

theorem State.stepHost_steady {s₀ : State} (s : State) (p : Port) (n cmd tag : Nat) (arg : Int) (hS : Steady s₀ s) :
    Steady s₀ (State.stepHost s p n cmd tag arg) := by
  unfold State.stepHost
  try dsimp only
  repeat' first
    | with_reducible assumption
    | with_reducible apply ite_steady
    | (with_reducible apply State.withRole_steady; intro t ht)
    | with_reducible apply State.set_steady
    | with_reducible apply State.stepResult_steady
    | with_reducible apply State.setI_steady
    | with_reducible exact id
    | with_reducible rfl
    | exact fun _ h => h
    | with_reducible exact fun h => tput_sorted _ h (Nat.zero_le _)
    | with_reducible exact tdel_sorted
    | exact fun _ => rfl
    | with_reducible exact fun h => Memory.writeWord_wf _ _ h
    | split
    | (refine written_steady (by simp only [↓State.written_mk]) ?_; with_reducible apply mk_steady)

theorem State.stepCmd_steady {s₀ : State} (s : State) (cmd : Nat) (src : CmdSrc) (n tag : Nat) (arg : Int) (hS : Steady s₀ s) :
    Steady s₀ (State.stepCmd s cmd src n tag arg) := by
  unfold State.stepCmd
  try dsimp only
  repeat' first
    | with_reducible assumption
    | with_reducible apply ite_steady
    | with_reducible apply State.stepHost_steady
    | with_reducible apply State.stepPoint_steady
    | with_reducible exact id
    | with_reducible rfl
    | exact fun _ h => h
    | with_reducible exact fun h => tput_sorted _ h (Nat.zero_le _)
    | with_reducible exact tdel_sorted
    | exact fun _ => rfl
    | with_reducible exact fun h => Memory.writeWord_wf _ _ h
    | split

theorem State.stepDue_steady {s₀ : State} (s : State) (w : StepCmd) (hS : Steady s₀ s) :
    Steady s₀ (State.stepDue s w) := by
  unfold State.stepDue
  try dsimp only
  repeat' first
    | with_reducible assumption
    | with_reducible apply ite_steady
    | with_reducible apply State.stepResult_steady
    | with_reducible apply State.stepDo_steady
    | with_reducible exact id
    | with_reducible rfl
    | exact fun _ h => h
    | with_reducible exact fun h => tput_sorted _ h (Nat.zero_le _)
    | with_reducible exact tdel_sorted
    | exact fun _ => rfl
    | with_reducible exact fun h => Memory.writeWord_wf _ _ h
    | split

theorem State.stepInputs_steady {s₀ : State} (s : State) (n : Nat) (x : StepCfg) (hS : Steady s₀ s) :
    Steady s₀ (State.stepInputs s n x) := by
  unfold State.stepInputs
  try dsimp only
  repeat' first
    | with_reducible assumption
    | with_reducible apply ite_steady
    | with_reducible apply State.stepHaltNow_steady
    | with_reducible apply State.putStep_steady
    | with_reducible apply State.evt_steady
    | with_reducible apply State.record_steady
    | with_reducible exact id
    | with_reducible rfl
    | exact fun _ h => h
    | with_reducible exact fun h => tput_sorted _ h (Nat.zero_le _)
    | with_reducible exact tdel_sorted
    | exact fun _ => rfl
    | with_reducible exact fun h => Memory.writeWord_wf _ _ h
    | split

theorem State.stepTick_steady {s₀ : State} (s : State) (hS : Steady s₀ s) :
    Steady s₀ (State.stepTick s) := by
  unfold State.stepTick
  try dsimp only
  repeat' first
    | with_reducible assumption
    | with_reducible apply ite_steady
    | with_reducible apply State.stepDue_steady
    | with_reducible apply State.stepInputs_steady
    | (with_reducible apply foldl_steady; intro t x ht)
    | with_reducible exact id
    | with_reducible rfl
    | exact fun _ h => h
    | with_reducible exact fun h => tput_sorted _ h (Nat.zero_le _)
    | with_reducible exact tdel_sorted
    | exact fun _ => rfl
    | with_reducible exact fun h => Memory.writeWord_wf _ _ h
    | (refine written_steady (by simp only [↓State.written_mk]) ?_; with_reducible apply mk_steady)

theorem State.stepSafe_steady {s₀ : State} (s : State) (hS : Steady s₀ s) :
    Steady s₀ (State.stepSafe s) := by
  unfold State.stepSafe
  try dsimp only
  repeat' first
    | with_reducible assumption
    | with_reducible apply ite_steady
    | with_reducible apply State.stepHaltNow_steady
    | with_reducible apply State.stepCut_steady
    | (with_reducible apply foldl_steady; intro t x ht)

theorem State.stepRest_steady {s₀ : State} (s : State) (n : Nat) (hS : Steady s₀ s) :
    Steady s₀ (State.stepRest s n) := by
  unfold State.stepRest
  try dsimp only
  repeat' first
    | with_reducible assumption
    | with_reducible apply ite_steady
    | with_reducible apply State.putStep_steady
    | with_reducible apply State.set_steady

theorem State.stepToward_steady {s₀ : State} (s : State) (n : Nat) (x : StepCfg) (target : Int) (vLim : Rat) (hS : Steady s₀ s) :
    Steady s₀ (State.stepToward s n x target vLim).1 := by
  unfold State.stepToward
  try dsimp only
  repeat' first
    | with_reducible assumption
    | with_reducible apply ite_steady
    | with_reducible apply State.set_steady
    | with_reducible apply State.putStep_steady
    | with_reducible apply State.record_steady
    | with_reducible exact id
    | with_reducible rfl
    | exact fun _ h => h
    | with_reducible exact fun h => tput_sorted _ h (Nat.zero_le _)
    | with_reducible exact tdel_sorted
    | exact fun _ => rfl
    | with_reducible exact fun h => Memory.writeWord_wf _ _ h
    | split

theorem State.stepBrake_steady {s₀ : State} (s : State) (n : Nat) (x : StepCfg) (hS : Steady s₀ s) :
    Steady s₀ (State.stepBrake s n x).1 := by
  unfold State.stepBrake
  try dsimp only
  repeat' first
    | with_reducible assumption
    | with_reducible apply ite_steady
    | with_reducible apply State.putStep_steady

theorem State.homeStep_steady {s₀ : State} (s : State) (n : Nat) (x : StepCfg) (hS : Steady s₀ s) :
    Steady s₀ (State.homeStep s n x) := by
  unfold State.homeStep
  try dsimp only
  repeat' first
    | with_reducible assumption
    | with_reducible apply ite_steady
    | with_reducible apply State.stepToward_steady
    | with_reducible apply State.stepFault_steady
    | with_reducible apply State.stepBrake_steady
    | with_reducible apply State.set_steady
    | with_reducible exact id
    | with_reducible rfl
    | exact fun _ h => h
    | with_reducible exact fun h => tput_sorted _ h (Nat.zero_le _)
    | with_reducible exact tdel_sorted
    | exact fun _ => rfl
    | with_reducible exact fun h => Memory.writeWord_wf _ _ h
    | split

theorem State.stepSwitches_steady {s₀ : State} (s : State) (n : Nat) (x : StepCfg) (l : SwLevels) (hS : Steady s₀ s) :
    Steady s₀ (State.stepSwitches s n x l) := by
  unfold State.stepSwitches
  try dsimp only
  repeat' first
    | with_reducible assumption
    | with_reducible apply ite_steady
    | with_reducible apply State.putStep_steady

theorem State.stepAngle_steady {s₀ : State} (s : State) (n : Nat) (x : StepCfg) (angle : Nat) (hS : Steady s₀ s) :
    Steady s₀ (State.stepAngle s n x angle) := by
  unfold State.stepAngle
  try dsimp only
  repeat' first
    | with_reducible assumption
    | with_reducible apply ite_steady
    | with_reducible apply State.putStep_steady
    | with_reducible apply State.setU_steady
    | with_reducible apply State.set_steady
    | with_reducible apply State.stepFault_steady
    | with_reducible apply State.setSat_steady
    | with_reducible apply State.setB_steady
    | with_reducible apply State.record_steady
    | with_reducible apply State.evt_steady

theorem State.stepRegs_steady {s₀ : State} (s : State) (n : Nat) (hS : Steady s₀ s) :
    Steady s₀ (State.stepRegs s n) := by
  unfold State.stepRegs
  try dsimp only
  repeat' first
    | with_reducible assumption
    | with_reducible apply ite_steady
    | with_reducible apply State.setI_steady
    | with_reducible apply State.setQ_steady
    | with_reducible apply State.setU_steady

theorem State.stepLimits_steady {s₀ : State} (s : State) (n : Nat) (hS : Steady s₀ s) :
    Steady s₀ (State.stepLimits s n) := by
  unfold State.stepLimits
  try dsimp only
  repeat' first
    | with_reducible assumption
    | with_reducible apply ite_steady
    | with_reducible apply State.stepFault_steady

theorem State.stepAmp_steady {s₀ : State} (s : State) (n : Nat) (x : StepCfg) (hS : Steady s₀ s) :
    Steady s₀ (State.stepAmp s n x).1 := by
  unfold State.stepAmp
  try dsimp only
  repeat' first
    | with_reducible assumption
    | with_reducible apply ite_steady
    | with_reducible apply State.putStep_steady
    | with_reducible apply State.set_steady
    | with_reducible exact id
    | with_reducible rfl
    | exact fun _ h => h
    | with_reducible exact fun h => tput_sorted _ h (Nat.zero_le _)
    | with_reducible exact tdel_sorted
    | exact fun _ => rfl
    | with_reducible exact fun h => Memory.writeWord_wf _ _ h
    | split

theorem State.stepUpdate_steady {s₀ : State} (s : State) (n : Nat) (x : StepCfg) (l : SwLevels) (angle : Option Nat) (hS : Steady s₀ s) :
    Steady s₀ (State.stepUpdate s n x l angle) := by
  unfold State.stepUpdate
  try dsimp only
  repeat' first
    | with_reducible assumption
    | with_reducible apply ite_steady
    | with_reducible apply State.stepSwitches_steady
    | with_reducible apply State.stepAmp_steady
    | with_reducible apply State.stepRegs_steady
    | with_reducible apply State.stepToward_steady
    | with_reducible apply State.stepBrake_steady
    | with_reducible apply State.homeStep_steady
    | with_reducible apply State.stepAngle_steady
    | with_reducible apply State.coilsFollow_steady
    | with_reducible apply State.stepRest_steady
    | with_reducible apply State.stepLimits_steady
    | with_reducible exact id
    | with_reducible rfl
    | exact fun _ h => h
    | with_reducible exact fun h => tput_sorted _ h (Nat.zero_le _)
    | with_reducible exact tdel_sorted
    | exact fun _ => rfl
    | with_reducible exact fun h => Memory.writeWord_wf _ _ h
    | split

theorem State.stepFrame_steady {s₀ : State} (s : State) (hS : Steady s₀ s) :
    Steady s₀ (State.stepFrame s) := by
  unfold State.stepFrame
  try dsimp only
  repeat' first
    | with_reducible assumption
    | with_reducible apply ite_steady
    | with_reducible apply State.putAt_steady
    | (with_reducible apply foldl_steady; intro t x ht)

end Sys2Proof.Machine
end

