-- ==== Sys2Proof/Laws/SteadyConfigure.lean ====
section
/-!
SUPPORT. Every operation of Machine/Configure.lean keeps what `Steady` says.
-/

set_option Elab.async false

namespace Sys2Proof.Machine

open Sys2Proof

theorem State.keepRetained_steady {s₀ : State} (s old : State) (hS : Steady s₀ s) :
    Steady s₀ (State.keepRetained s old) := by
  unfold State.keepRetained
  try dsimp only
  repeat' first
    | with_reducible assumption
    | with_reducible apply ite_steady
    | with_reducible apply State.set_steady
    | with_reducible exact id
    | with_reducible rfl
    | exact fun _ h => h
    | with_reducible exact fun h => tput_sorted _ h (Nat.zero_le _)
    | with_reducible exact tdel_sorted
    | exact fun _ => rfl
    | with_reducible exact fun h => Memory.writeWord_wf _ _ h
    | (refine written_steady (by simp only [↓State.written_mk]) ?_; with_reducible apply mk_steady)

theorem State.porNoted_steady {s₀ : State} (s : State) (por : Bool) (hS : Steady s₀ s) :
    Steady s₀ (State.porNoted s por) := by
  unfold State.porNoted
  try dsimp only
  repeat' first
    | with_reducible assumption
    | with_reducible apply ite_steady
    | with_reducible exact id
    | with_reducible rfl
    | exact fun _ h => h
    | with_reducible exact fun h => tput_sorted _ h (Nat.zero_le _)
    | with_reducible exact tdel_sorted
    | exact fun _ => rfl
    | with_reducible exact fun h => Memory.writeWord_wf _ _ h
    | (refine written_steady (by simp only [↓State.written_mk]) ?_; with_reducible apply mk_steady)

theorem State.islandStart_steady {s₀ : State} (s : State) (hS : Steady s₀ s) :
    Steady s₀ (State.islandStart s) := by
  unfold State.islandStart
  try dsimp only
  repeat' first
    | with_reducible assumption
    | with_reducible apply ite_steady
    | with_reducible apply State.islStart_steady

theorem State.islandRunInEnd_steady {s₀ : State} (s : State) (hS : Steady s₀ s) :
    Steady s₀ (State.islandRunInEnd s) := by
  unfold State.islandRunInEnd
  try dsimp only
  repeat' first
    | with_reducible assumption
    | with_reducible apply ite_steady
    | with_reducible apply State.islMusterEnd_steady

theorem State.islandPermanent_steady {s₀ : State} (s : State) (cause : Nat) (hS : Steady s₀ s) :
    Steady s₀ (State.islandPermanent s cause) := by
  unfold State.islandPermanent
  try dsimp only
  repeat' first
    | with_reducible assumption
    | with_reducible apply ite_steady
    | with_reducible apply State.islFault_steady

theorem State.safeContent_steady {s₀ : State} (s : State) (hS : Steady s₀ s) :
    Steady s₀ (State.safeContent s) := by
  unfold State.safeContent
  try dsimp only
  repeat' first
    | with_reducible assumption
    | with_reducible apply ite_steady
    | with_reducible apply State.helmPreempt_steady
    | with_reducible apply State.set_steady
    | with_reducible apply State.injectionsStop_steady
    | with_reducible apply State.fnsSafe_steady
    | with_reducible apply State.cellsSafe_steady
    | with_reducible apply State.stepSafe_steady
    | with_reducible exact id
    | with_reducible rfl
    | exact fun _ h => h
    | with_reducible exact fun h => tput_sorted _ h (Nat.zero_le _)
    | with_reducible exact tdel_sorted
    | exact fun _ => rfl
    | with_reducible exact fun h => Memory.writeWord_wf _ _ h
    | (refine written_steady (by simp only [↓State.written_mk]) ?_; with_reducible apply mk_steady)

theorem State.trigTarget_steady {s₀ : State} (s : State) (c : TrigCfg) (hS : Steady s₀ s) :
    Steady s₀ (State.trigTarget s c) := by
  unfold State.trigTarget
  try dsimp only
  repeat' first
    | with_reducible assumption
    | with_reducible apply ite_steady
    | with_reducible apply State.sarTrigger_steady
    | with_reducible apply State.capTrigger_steady
    | with_reducible exact id
    | with_reducible rfl
    | exact fun _ h => h
    | with_reducible exact fun h => tput_sorted _ h (Nat.zero_le _)
    | with_reducible exact tdel_sorted
    | exact fun _ => rfl
    | with_reducible exact fun h => Memory.writeWord_wf _ _ h
    | split
    | (refine written_steady (by simp only [↓State.written_mk]) ?_; with_reducible apply mk_steady)

theorem State.gnssDiscard_steady {s₀ : State} (s : State) (reason : Nat) (role : Role) (keyId : Nat) (hS : Steady s₀ s) :
    Steady s₀ (State.gnssDiscard s reason role keyId) := by
  unfold State.gnssDiscard
  try dsimp only
  repeat' first
    | with_reducible assumption
    | with_reducible apply ite_steady
    | with_reducible apply State.evt_steady
    | with_reducible apply State.record_steady
    | with_reducible exact id
    | with_reducible rfl
    | exact fun _ h => h
    | with_reducible exact fun h => tput_sorted _ h (Nat.zero_le _)
    | with_reducible exact tdel_sorted
    | exact fun _ => rfl
    | with_reducible exact fun h => Memory.writeWord_wf _ _ h
    | (refine written_steady (by simp only [↓State.written_mk]) ?_; with_reducible apply mk_steady)

theorem State.gnssWake_steady {s₀ : State} (s : State) (cause : Nat) (role : Role) (keyId : Nat) (hS : Steady s₀ s) :
    Steady s₀ (State.gnssWake s cause role keyId) := by
  unfold State.gnssWake
  try dsimp only
  repeat' first
    | with_reducible assumption
    | with_reducible apply ite_steady
    | with_reducible apply State.set_steady
    | with_reducible apply State.evt_steady
    | with_reducible apply State.inc_steady
    | with_reducible apply State.record_steady
    | with_reducible exact id
    | with_reducible rfl
    | exact fun _ h => h
    | with_reducible exact fun h => tput_sorted _ h (Nat.zero_le _)
    | with_reducible exact tdel_sorted
    | exact fun _ => rfl
    | with_reducible exact fun h => Memory.writeWord_wf _ _ h
    | (refine written_steady (by simp only [↓State.written_mk]) ?_; with_reducible apply mk_steady)

theorem State.hostConfigure_steady {s₀ : State} (s : State) (hS : Steady s₀ s) :
    Steady s₀ (State.hostConfigure s) := by
  unfold State.hostConfigure
  try dsimp only
  repeat' first
    | with_reducible assumption
    | with_reducible apply ite_steady
    | with_reducible apply State.set_steady
    | with_reducible apply State.setB_steady
    | (with_reducible apply foldl_steady; intro t x ht)

theorem State.timeConfigure_steady {s₀ : State} (s : State) (hS : Steady s₀ s) :
    Steady s₀ (State.timeConfigure s) := by
  unfold State.timeConfigure
  try dsimp only
  repeat' first
    | with_reducible assumption
    | with_reducible apply ite_steady
    | with_reducible apply State.set_steady
    | (with_reducible apply foldl_steady; intro t x ht)

theorem State.powerConfigure_steady {s₀ : State} (s : State) (hS : Steady s₀ s) :
    Steady s₀ (State.powerConfigure s) := by
  unfold State.powerConfigure
  try dsimp only
  repeat' first
    | with_reducible assumption
    | with_reducible apply ite_steady
    | with_reducible apply State.set_steady
    | with_reducible apply State.setB_steady
    | with_reducible apply State.setU_steady
    | (with_reducible apply foldl_steady; intro t x ht)

theorem State.adcConfigure_steady {s₀ : State} (s : State) (hS : Steady s₀ s) :
    Steady s₀ (State.adcConfigure s) := by
  unfold State.adcConfigure
  try dsimp only
  repeat' first
    | with_reducible assumption
    | with_reducible apply ite_steady
    | with_reducible apply State.set_steady
    | with_reducible apply State.setB_steady
    | (with_reducible apply foldl_steady; intro t x ht)

theorem State.clpConfigure_steady {s₀ : State} (s : State) (hS : Steady s₀ s) :
    Steady s₀ (State.clpConfigure s) := by
  unfold State.clpConfigure
  try dsimp only
  repeat' first
    | with_reducible assumption
    | with_reducible apply ite_steady
    | with_reducible apply State.set_steady
    | with_reducible apply State.setB_steady
    | with_reducible apply State.putClp_steady
    | with_reducible apply State.setU_steady
    | (with_reducible apply foldl_steady; intro t x ht)

theorem State.stepConfigure_steady {s₀ : State} (s : State) (hS : Steady s₀ s) :
    Steady s₀ (State.stepConfigure s) := by
  unfold State.stepConfigure
  try dsimp only
  repeat' first
    | with_reducible assumption
    | with_reducible apply ite_steady
    | with_reducible apply State.set_steady
    | with_reducible apply State.setB_steady
    | (with_reducible apply foldl_steady; intro t x ht)

theorem State.loopConfigure_steady {s₀ : State} (s : State) (hS : Steady s₀ s) :
    Steady s₀ (State.loopConfigure s) := by
  unfold State.loopConfigure
  try dsimp only
  repeat' first
    | with_reducible assumption
    | with_reducible apply ite_steady
    | with_reducible apply State.set_steady
    | with_reducible apply State.setB_steady
    | (with_reducible apply foldl_steady; intro t x ht)

theorem State.refConfigure_steady {s₀ : State} (s : State) (hS : Steady s₀ s) :
    Steady s₀ (State.refConfigure s) := by
  unfold State.refConfigure
  try dsimp only
  repeat' first
    | with_reducible assumption
    | with_reducible apply ite_steady
    | with_reducible apply State.set_steady
    | (with_reducible apply foldl_steady; intro t x ht)

theorem State.configure_steady {s₀ : State} (s : State) (hS : Steady s₀ s) :
    Steady s₀ (State.configure s) := by
  unfold State.configure
  try dsimp only
  repeat' first
    | with_reducible assumption
    | with_reducible apply ite_steady
    | with_reducible apply State.hostConfigure_steady
    | with_reducible apply State.clpConfigure_steady
    | with_reducible apply State.canConfigure_steady
    | with_reducible apply State.timeConfigure_steady
    | with_reducible apply State.powerConfigure_steady
    | with_reducible apply State.adcConfigure_steady
    | with_reducible apply State.stepConfigure_steady
    | with_reducible apply State.loopConfigure_steady
    | with_reducible apply State.refConfigure_steady
    | with_reducible apply State.ethConfigure_steady
    | with_reducible apply State.islConfigure_steady

end Sys2Proof.Machine
end

