-- ==== Sys2Proof/Laws/SteadyReset.lean ====
section
/-!
SUPPORT. Every operation of Machine/Reset.lean keeps what `Steady` says.
-/

set_option Elab.async false

namespace Sys2Proof.Machine

open Sys2Proof

theorem State.domainReset_steady {s₀ : State} (s : State) (hS : Steady s₀ s) :
    Steady s₀ (State.domainReset s) := by
  unfold State.domainReset
  try dsimp only
  repeat' first
    | with_reducible assumption
    | with_reducible apply ite_steady
    | with_reducible apply State.setB_steady
    | with_reducible apply State.set_steady
    | with_reducible apply State.keepRetained_steady
    | with_reducible exact id
    | with_reducible rfl
    | exact fun _ h => h
    | with_reducible exact fun h => tput_sorted _ h (Nat.zero_le _)
    | with_reducible exact tdel_sorted
    | exact fun _ => rfl
    | with_reducible exact fun h => Memory.writeWord_wf _ _ h
    | split
    | (refine written_steady (by simp only [↓State.written_mk]) ?_; with_reducible apply mk_steady)

theorem State.startMuster_steady {s₀ : State} (s : State) (straps : Straps) (at_ : Nat) (hS : Steady s₀ s) :
    Steady s₀ (State.startMuster s straps at_) := by
  unfold State.startMuster
  try dsimp only
  repeat' first
    | with_reducible assumption
    | with_reducible apply ite_steady
    | with_reducible apply State.domainReset_steady
    | with_reducible apply State.setB_steady
    | with_reducible apply State.set_steady
    | with_reducible exact id
    | with_reducible rfl
    | exact fun _ h => h
    | with_reducible exact fun h => tput_sorted _ h (Nat.zero_le _)
    | with_reducible exact tdel_sorted
    | exact fun _ => rfl
    | with_reducible exact fun h => Memory.writeWord_wf _ _ h
    | (refine written_steady (by simp only [↓State.written_mk]) ?_; with_reducible apply mk_steady)

theorem State.deliberateReset_steady {s₀ : State} (s : State) (keyId : Nat) (hS : Steady s₀ s) :
    Steady s₀ (State.deliberateReset s keyId) := by
  unfold State.deliberateReset
  try dsimp only
  repeat' first
    | with_reducible assumption
    | with_reducible apply ite_steady
    | with_reducible apply State.startMuster_steady
    | with_reducible exact id
    | with_reducible rfl
    | exact fun _ h => h
    | with_reducible exact fun h => tput_sorted _ h (Nat.zero_le _)
    | with_reducible exact tdel_sorted
    | exact fun _ => rfl
    | with_reducible exact fun h => Memory.writeWord_wf _ _ h
    | (refine written_steady (by simp only [↓State.written_mk]) ?_; with_reducible apply mk_steady)

theorem State.powerOff_steady {s₀ : State} (s : State) (hS : Steady s₀ s) :
    Steady s₀ (State.powerOff s) := by
  unfold State.powerOff
  try dsimp only
  repeat' first
    | with_reducible assumption
    | with_reducible apply ite_steady
    | with_reducible apply State.domainReset_steady
    | with_reducible apply State.set_steady
    | with_reducible exact id
    | with_reducible rfl
    | exact fun _ h => h
    | with_reducible exact fun h => tput_sorted _ h (Nat.zero_le _)
    | with_reducible exact tdel_sorted
    | exact fun _ => rfl
    | with_reducible exact fun h => Memory.writeWord_wf _ _ h
    | (refine written_steady (by simp only [↓State.written_mk]) ?_; with_reducible apply mk_steady)

end Sys2Proof.Machine
end

