-- ==== Sys2Proof/Laws/SteadyEst.lean ====
section
/-!
SUPPORT. Every operation of Machine/Est.lean keeps what `Steady` says.
-/

set_option Elab.async false

namespace Sys2Proof.Machine

open Sys2Proof

theorem State.putSlot_steady {s₀ : State} (s : State) (n : Nat) (x : EstSlotSt) (hS : Steady s₀ s) :
    Steady s₀ (State.putSlot s n x) := by
  unfold State.putSlot
  try dsimp only
  repeat' first
    | with_reducible assumption
    | with_reducible apply ite_steady
    | with_reducible exact id
    | with_reducible rfl
    | exact fun _ h => h
    | with_reducible exact fun h => tput_sorted _ h (Nat.zero_le _)
    | with_reducible exact tdel_sorted
    | exact fun _ => rfl
    | with_reducible exact fun h => Memory.writeWord_wf _ _ h
    | (refine written_steady (by simp only [↓State.written_mk]) ?_; with_reducible apply mk_steady)

theorem State.setStatus_steady {s₀ : State} (s : State) (n new cause : Nat) (hS : Steady s₀ s) :
    Steady s₀ (State.setStatus s n new cause) := by
  unfold State.setStatus
  try dsimp only
  repeat' first
    | with_reducible assumption
    | with_reducible apply ite_steady
    | with_reducible apply State.set_steady
    | with_reducible apply State.putSlot_steady
    | with_reducible apply State.evt_steady
    | with_reducible apply State.record_steady

theorem State.sampleSeen_steady {s₀ : State} (s : State) (x : EstSample) (hS : Steady s₀ s) :
    Steady s₀ (State.sampleSeen s x) := by
  unfold State.sampleSeen
  try dsimp only
  repeat' first
    | with_reducible assumption
    | with_reducible apply ite_steady
    | with_reducible apply State.putSlot_steady
    | with_reducible apply State.setStatus_steady
    | with_reducible apply State.set_steady

theorem State.ownGate_steady {s₀ : State} (s : State) (x : EstSample) (gate : Rat) (hS : Steady s₀ s) :
    Steady s₀ (State.ownGate s x gate) := by
  unfold State.ownGate
  try dsimp only
  repeat' first
    | with_reducible assumption
    | with_reducible apply ite_steady
    | with_reducible apply State.setU_steady
    | with_reducible apply State.incSat_steady
    | with_reducible apply State.set_steady
    | with_reducible apply State.putSlot_steady

theorem State.estSample_steady {s₀ : State} (s : State) (boundary : Int) (x : EstSample) (hS : Steady s₀ s) :
    Steady s₀ (State.estSample s boundary x) := by
  unfold State.estSample
  try dsimp only
  repeat' first
    | with_reducible assumption
    | with_reducible apply ite_steady
    | with_reducible apply State.set_steady
    | with_reducible apply State.putSlot_steady
    | with_reducible apply State.setB_steady
    | with_reducible apply State.inc_steady
    | with_reducible apply State.sampleSeen_steady
    | with_reducible apply State.record_steady
    | with_reducible apply State.ownGate_steady
    | with_reducible exact id
    | with_reducible rfl
    | exact fun _ h => h
    | with_reducible exact fun h => tput_sorted _ h (Nat.zero_le _)
    | with_reducible exact tdel_sorted
    | exact fun _ => rfl
    | with_reducible exact fun h => Memory.writeWord_wf _ _ h
    | split

theorem State.estSkew_steady {s₀ : State} (s : State) (n : Nat) (hS : Steady s₀ s) :
    Steady s₀ (State.estSkew s n) := by
  unfold State.estSkew
  try dsimp only
  repeat' first
    | with_reducible assumption
    | with_reducible apply ite_steady
    | with_reducible apply State.setQ_steady
    | with_reducible apply State.setB_steady
    | with_reducible apply State.record_steady
    | with_reducible apply State.putSlot_steady
    | with_reducible apply State.setStatus_steady

theorem State.takeClaim_steady {s₀ : State} (s : State) (c : EstClaim) (hS : Steady s₀ s) :
    Steady s₀ (State.takeClaim s c) := by
  unfold State.takeClaim
  try dsimp only
  repeat' first
    | with_reducible assumption
    | with_reducible apply ite_steady
    | with_reducible apply State.putSlot_steady

theorem State.countPairs_steady {s₀ : State} (s : State) (hS : Steady s₀ s) :
    Steady s₀ (State.countPairs s) := by
  unfold State.countPairs
  try dsimp only
  repeat' first
    | with_reducible assumption
    | with_reducible apply ite_steady
    | with_reducible exact id
    | with_reducible rfl
    | exact fun _ h => h
    | with_reducible exact fun h => tput_sorted _ h (Nat.zero_le _)
    | with_reducible exact tdel_sorted
    | exact fun _ => rfl
    | with_reducible exact fun h => Memory.writeWord_wf _ _ h
    | (refine written_steady (by simp only [↓State.written_mk]) ?_; with_reducible apply mk_steady)

theorem State.disputeBits_steady {s₀ : State} (s : State) (hS : Steady s₀ s) :
    Steady s₀ (State.disputeBits s) := by
  unfold State.disputeBits
  try dsimp only
  repeat' first
    | with_reducible assumption
    | with_reducible apply ite_steady
    | with_reducible apply State.set_steady
    | with_reducible apply State.setB_steady

theorem State.disputeStart_steady {s₀ : State} (s : State) (g : Nat) (v : List Nat) (hS : Steady s₀ s) :
    Steady s₀ (State.disputeStart s g v) := by
  unfold State.disputeStart
  try dsimp only
  repeat' first
    | with_reducible assumption
    | with_reducible apply ite_steady
    | with_reducible apply State.setStatus_steady
    | with_reducible apply State.evt_steady
    | with_reducible apply State.alarm_steady
    | (with_reducible apply foldl_steady; intro t x ht)
    | with_reducible exact id
    | with_reducible rfl
    | exact fun _ h => h
    | with_reducible exact fun h => tput_sorted _ h (Nat.zero_le _)
    | with_reducible exact tdel_sorted
    | exact fun _ => rfl
    | with_reducible exact fun h => Memory.writeWord_wf _ _ h
    | (refine written_steady (by simp only [↓State.written_mk]) ?_; with_reducible apply mk_steady)

theorem State.disputeStop_steady {s₀ : State} (s : State) (g cause : Nat) (hS : Steady s₀ s) :
    Steady s₀ (State.disputeStop s g cause) := by
  unfold State.disputeStop
  try dsimp only
  repeat' first
    | with_reducible assumption
    | with_reducible apply ite_steady
    | with_reducible apply State.evt_steady
    | with_reducible apply State.clearAlarm_steady
    | with_reducible apply State.record_steady
    | with_reducible exact id
    | with_reducible rfl
    | exact fun _ h => h
    | with_reducible exact fun h => tput_sorted _ h (Nat.zero_le _)
    | with_reducible exact tdel_sorted
    | exact fun _ => rfl
    | with_reducible exact fun h => Memory.writeWord_wf _ _ h
    | split
    | (refine written_steady (by simp only [↓State.written_mk]) ?_; with_reducible apply mk_steady)

theorem State.voteGroup_steady {s₀ : State} (s : State) (g : Nat) (hS : Steady s₀ s) :
    Steady s₀ (State.voteGroup s g) := by
  unfold State.voteGroup
  try dsimp only
  repeat' first
    | with_reducible assumption
    | with_reducible apply ite_steady
    | with_reducible apply State.setStatus_steady
    | with_reducible apply State.disputeStart_steady
    | with_reducible apply State.disputeStop_steady
    | (with_reducible apply foldl_steady; intro t x ht)
    | with_reducible exact id
    | with_reducible rfl
    | exact fun _ h => h
    | with_reducible exact fun h => tput_sorted _ h (Nat.zero_le _)
    | with_reducible exact tdel_sorted
    | exact fun _ => rfl
    | with_reducible exact fun h => Memory.writeWord_wf _ _ h
    | split
    | (refine written_steady (by simp only [↓State.written_mk]) ?_; with_reducible apply mk_steady)

theorem State.slotAfterVote_steady {s₀ : State} (s : State) (n : Nat) (hS : Steady s₀ s) :
    Steady s₀ (State.slotAfterVote s n) := by
  unfold State.slotAfterVote
  try dsimp only
  repeat' first
    | with_reducible assumption
    | with_reducible apply ite_steady
    | with_reducible apply State.setStatus_steady
    | with_reducible apply State.putSlot_steady
    | with_reducible apply State.setSat_steady
    | with_reducible exact id
    | with_reducible rfl
    | exact fun _ h => h
    | with_reducible exact fun h => tput_sorted _ h (Nat.zero_le _)
    | with_reducible exact tdel_sorted
    | exact fun _ => rfl
    | with_reducible exact fun h => Memory.writeWord_wf _ _ h
    | split

theorem State.follow_steady {s₀ : State} (s : State) (was now : Bool) (code : Nat) (items : List (Nat × Nat)) (hS : Steady s₀ s) :
    Steady s₀ (State.follow s was now code items) := by
  unfold State.follow
  try dsimp only
  repeat' first
    | with_reducible assumption
    | with_reducible apply ite_steady
    | with_reducible apply State.alarm_steady
    | with_reducible apply State.clearAlarm_steady

theorem State.drPosition_steady {s₀ : State} (s : State) (used : Bool) (oldQ : Nat) (hS : Steady s₀ s) :
    Steady s₀ (State.drPosition s used oldQ) := by
  unfold State.drPosition
  try dsimp only
  repeat' first
    | with_reducible assumption
    | with_reducible apply ite_steady
    | with_reducible apply State.setSat_steady
    | with_reducible apply State.set_steady
    | with_reducible apply State.evt_steady
    | with_reducible apply State.follow_steady
    | with_reducible exact id
    | with_reducible rfl
    | exact fun _ h => h
    | with_reducible exact fun h => tput_sorted _ h (Nat.zero_le _)
    | with_reducible exact tdel_sorted
    | exact fun _ => rfl
    | with_reducible exact fun h => Memory.writeWord_wf _ _ h
    | split
    | (refine written_steady (by simp only [↓State.written_mk]) ?_; with_reducible apply mk_steady)

theorem State.drHeading_steady {s₀ : State} (s : State) (used : Bool) (oldQ : Nat) (hS : Steady s₀ s) :
    Steady s₀ (State.drHeading s used oldQ) := by
  unfold State.drHeading
  try dsimp only
  repeat' first
    | with_reducible assumption
    | with_reducible apply ite_steady
    | with_reducible apply State.setSat_steady
    | with_reducible apply State.set_steady
    | with_reducible exact id
    | with_reducible rfl
    | exact fun _ h => h
    | with_reducible exact fun h => tput_sorted _ h (Nat.zero_le _)
    | with_reducible exact tdel_sorted
    | exact fun _ => rfl
    | with_reducible exact fun h => Memory.writeWord_wf _ _ h
    | split
    | (refine written_steady (by simp only [↓State.written_mk]) ?_; with_reducible apply mk_steady)

theorem State.heaveOut_steady {s₀ : State} (s : State) (u : EstUpd) (pm : Pm) (hS : Steady s₀ s) :
    Steady s₀ (State.heaveOut s u pm) := by
  unfold State.heaveOut
  try dsimp only
  repeat' first
    | with_reducible assumption
    | with_reducible apply ite_steady
    | with_reducible apply State.setU_steady
    | with_reducible apply State.set_steady
    | with_reducible apply State.commitAll_steady
    | (with_reducible apply foldl_steady; intro t x ht)
    | with_reducible exact id
    | with_reducible rfl
    | exact fun _ h => h
    | with_reducible exact fun h => tput_sorted _ h (Nat.zero_le _)
    | with_reducible exact tdel_sorted
    | exact fun _ => rfl
    | with_reducible exact fun h => Memory.writeWord_wf _ _ h
    | (refine written_steady (by simp only [↓State.written_mk]) ?_; with_reducible apply mk_steady)

theorem State.setTrack_steady {s₀ : State} (s : State) (t new : Nat) (hS : Steady s₀ s) :
    Steady s₀ (State.setTrack s t new) := by
  unfold State.setTrack
  try dsimp only
  repeat' first
    | with_reducible assumption
    | with_reducible apply ite_steady
    | with_reducible apply State.set_steady
    | with_reducible apply State.clearAlarm_steady
    | with_reducible apply State.setStatus_steady
    | with_reducible apply State.record_steady
    | (with_reducible apply foldl_steady; intro t x ht)

theorem State.putTrack_steady {s₀ : State} (s : State) (t : Nat) (x : TrackSt) (hS : Steady s₀ s) :
    Steady s₀ (State.putTrack s t x) := by
  unfold State.putTrack
  try dsimp only
  repeat' first
    | with_reducible assumption
    | with_reducible apply ite_steady
    | with_reducible exact id
    | with_reducible rfl
    | exact fun _ h => h
    | with_reducible exact fun h => tput_sorted _ h (Nat.zero_le _)
    | with_reducible exact tdel_sorted
    | exact fun _ => rfl
    | with_reducible exact fun h => Memory.writeWord_wf _ _ h
    | (refine written_steady (by simp only [↓State.written_mk]) ?_; with_reducible apply mk_steady)

theorem State.noTrack_steady {s₀ : State} (s : State) (v : TrunkVal) (hS : Steady s₀ s) :
    Steady s₀ (State.noTrack s v) := by
  unfold State.noTrack
  try dsimp only
  repeat' first
    | with_reducible assumption
    | with_reducible apply ite_steady
    | with_reducible apply State.sendDead_steady

theorem State.trackSample_steady {s₀ : State} (s : State) (x : TrackSample) (hS : Steady s₀ s) :
    Steady s₀ (State.trackSample s x) := by
  unfold State.trackSample
  try dsimp only
  repeat' first
    | with_reducible assumption
    | with_reducible apply ite_steady
    | with_reducible apply State.noTrack_steady
    | with_reducible apply State.putTrack_steady
    | with_reducible apply State.setTrack_steady
    | with_reducible exact id
    | with_reducible rfl
    | exact fun _ h => h
    | with_reducible exact fun h => tput_sorted _ h (Nat.zero_le _)
    | with_reducible exact tdel_sorted
    | exact fun _ => rfl
    | with_reducible exact fun h => Memory.writeWord_wf _ _ h
    | split

theorem State.trackOut_steady {s₀ : State} (s : State) (u : EstUpd) (pm : Pm) (t : Nat) (c : TrackCfg) (hS : Steady s₀ s) :
    Steady s₀ (State.trackOut s u pm t c) := by
  unfold State.trackOut
  try dsimp only
  repeat' first
    | with_reducible assumption
    | with_reducible apply ite_steady
    | with_reducible apply State.set_steady
    | with_reducible apply State.commitAll_steady
    | with_reducible apply State.setSat_steady

theorem State.updateOpen_steady {s₀ : State} (s : State) (hS : Steady s₀ s) :
    Steady s₀ (State.updateOpen s) := by
  unfold State.updateOpen
  try dsimp only
  repeat' first
    | with_reducible assumption
    | with_reducible apply ite_steady
    | with_reducible apply State.set_steady
    | with_reducible apply State.putSlot_steady
    | (with_reducible apply foldl_steady; intro t x ht)

theorem State.estQuality_steady {s₀ : State} (s : State) (u : EstUpd) (posUsed hdgUsed : Bool) (hS : Steady s₀ s) :
    Steady s₀ (State.estQuality s u posUsed hdgUsed) := by
  unfold State.estQuality
  try dsimp only
  repeat' first
    | with_reducible assumption
    | with_reducible apply ite_steady
    | with_reducible apply State.setU_steady
    | with_reducible apply State.drPosition_steady
    | with_reducible apply State.set_steady
    | with_reducible apply State.follow_steady
    | with_reducible apply State.evt_steady
    | with_reducible apply State.drHeading_steady
    | with_reducible exact id
    | with_reducible rfl
    | exact fun _ h => h
    | with_reducible exact fun h => tput_sorted _ h (Nat.zero_le _)
    | with_reducible exact tdel_sorted
    | exact fun _ => rfl
    | with_reducible exact fun h => Memory.writeWord_wf _ _ h
    | (refine written_steady (by simp only [↓State.written_mk]) ?_; with_reducible apply mk_steady)

theorem State.vesselOut_steady {s₀ : State} (s : State) (u : EstUpd) (pm : Pm) (hS : Steady s₀ s) :
    Steady s₀ (State.vesselOut s u pm) := by
  unfold State.vesselOut
  try dsimp only
  repeat' first
    | with_reducible assumption
    | with_reducible apply ite_steady
    | with_reducible apply State.setB_steady
    | with_reducible apply State.commitAll_steady
    | with_reducible apply State.commitAddr_steady
    | with_reducible exact id
    | with_reducible rfl
    | exact fun _ h => h
    | with_reducible exact fun h => tput_sorted _ h (Nat.zero_le _)
    | with_reducible exact tdel_sorted
    | exact fun _ => rfl
    | with_reducible exact fun h => Memory.writeWord_wf _ _ h
    | (refine written_steady (by simp only [↓State.written_mk]) ?_; with_reducible apply mk_steady)

theorem State.slotOut_steady {s₀ : State} (s : State) (u : EstUpd) (pm : Pm) (n : Nat) (hS : Steady s₀ s) :
    Steady s₀ (State.slotOut s u pm n) := by
  unfold State.slotOut
  try dsimp only
  repeat' first
    | with_reducible assumption
    | with_reducible apply ite_steady
    | with_reducible apply State.commitAll_steady

theorem State.estUpdate_steady {s₀ : State} (s : State) (u : EstUpd) (upAt : Nat) (boundary : Int) (pm : Pm) (hS : Steady s₀ s) :
    Steady s₀ (State.estUpdate s u upAt boundary pm) := by
  unfold State.estUpdate
  try dsimp only
  repeat' first
    | with_reducible assumption
    | with_reducible apply ite_steady
    | with_reducible apply State.updateOpen_steady
    | with_reducible apply State.estSample_steady
    | with_reducible apply State.estSkew_steady
    | with_reducible apply State.takeClaim_steady
    | with_reducible apply State.trackSample_steady
    | with_reducible apply State.countPairs_steady
    | with_reducible apply State.voteGroup_steady
    | with_reducible apply State.slotAfterVote_steady
    | with_reducible apply State.estQuality_steady
    | with_reducible apply State.slotOut_steady
    | with_reducible apply State.heaveOut_steady
    | with_reducible apply State.trackOut_steady
    | with_reducible apply State.setSat_steady
    | with_reducible apply State.set_steady
    | with_reducible apply State.disputeBits_steady
    | with_reducible apply State.vesselOut_steady
    | (with_reducible apply foldl_steady; intro t x ht)
    | with_reducible exact id
    | with_reducible rfl
    | exact fun _ h => h
    | with_reducible exact fun h => tput_sorted _ h (Nat.zero_le _)
    | with_reducible exact tdel_sorted
    | exact fun _ => rfl
    | with_reducible exact fun h => Memory.writeWord_wf _ _ h
    | (refine written_steady (by simp only [↓State.written_mk]) ?_; with_reducible apply mk_steady)

theorem State.estAbandon_steady {s₀ : State} (s : State) (hS : Steady s₀ s) :
    Steady s₀ (State.estAbandon s) := by
  unfold State.estAbandon
  try dsimp only
  repeat' first
    | with_reducible assumption
    | with_reducible apply ite_steady
    | with_reducible apply State.incSat_steady
    | with_reducible apply State.record_steady
    | with_reducible apply State.evt_steady
    | with_reducible exact id
    | with_reducible rfl
    | exact fun _ h => h
    | with_reducible exact fun h => tput_sorted _ h (Nat.zero_le _)
    | with_reducible exact tdel_sorted
    | exact fun _ => rfl
    | with_reducible exact fun h => Memory.writeWord_wf _ _ h
    | (refine written_steady (by simp only [↓State.written_mk]) ?_; with_reducible apply mk_steady)

theorem State.slotCmdRecord_steady {s₀ : State} (s : State) (slot action res keyId : Nat) (hS : Steady s₀ s) :
    Steady s₀ (State.slotCmdRecord s slot action res keyId) := by
  unfold State.slotCmdRecord
  try dsimp only
  repeat' first
    | with_reducible assumption
    | with_reducible apply ite_steady
    | with_reducible apply State.record_steady
    | with_reducible apply State.result_steady

theorem State.slotCmd_steady {s₀ : State} (s : State) (slot action keyId : Nat) (hS : Steady s₀ s) :
    Steady s₀ (State.slotCmd s slot action keyId) := by
  unfold State.slotCmd
  try dsimp only
  repeat' first
    | with_reducible assumption
    | with_reducible apply ite_steady
    | with_reducible apply State.slotCmdRecord_steady
    | with_reducible exact id
    | with_reducible rfl
    | exact fun _ h => h
    | with_reducible exact fun h => tput_sorted _ h (Nat.zero_le _)
    | with_reducible exact tdel_sorted
    | exact fun _ => rfl
    | with_reducible exact fun h => Memory.writeWord_wf _ _ h
    | split
    | (refine written_steady (by simp only [↓State.written_mk]) ?_; with_reducible apply mk_steady)

theorem State.slotWrite_steady {s₀ : State} (s : State) (src : CmdSrc) (slot action : Nat) (hS : Steady s₀ s) :
    Steady s₀ (State.slotWrite s src slot action) := by
  unfold State.slotWrite
  try dsimp only
  repeat' first
    | with_reducible assumption
    | with_reducible apply ite_steady
    | (with_reducible apply State.operatorCmd_steady; intro t k ht)
    | with_reducible apply State.set_steady
    | with_reducible apply State.slotCmd_steady
    | with_reducible exact id
    | with_reducible rfl
    | exact fun _ h => h
    | with_reducible exact fun h => tput_sorted _ h (Nat.zero_le _)
    | with_reducible exact tdel_sorted
    | exact fun _ => rfl
    | with_reducible exact fun h => Memory.writeWord_wf _ _ h
    | split

theorem State.restoreSource_steady {s₀ : State} (s : State) (slot : Nat) (hS : Steady s₀ s) :
    Steady s₀ (State.restoreSource s slot) := by
  unfold State.restoreSource
  try dsimp only
  repeat' first
    | with_reducible assumption
    | with_reducible apply ite_steady
    | with_reducible apply State.putTrack_steady
    | with_reducible apply State.clearAlarm_steady
    | (with_reducible apply foldl_steady; intro t x ht)

theorem State.slotApply_steady {s₀ : State} (s : State) (c : EstCmd) (hS : Steady s₀ s) :
    Steady s₀ (State.slotApply s c) := by
  unfold State.slotApply
  try dsimp only
  repeat' first
    | with_reducible assumption
    | with_reducible apply ite_steady
    | with_reducible apply State.setStatus_steady
    | with_reducible apply State.disputeBits_steady
    | with_reducible apply State.result_steady
    | with_reducible apply State.disputeStop_steady
    | with_reducible apply State.restoreSource_steady
    | (with_reducible apply foldl_steady; intro t x ht)
    | with_reducible exact id
    | with_reducible rfl
    | exact fun _ h => h
    | with_reducible exact fun h => tput_sorted _ h (Nat.zero_le _)
    | with_reducible exact tdel_sorted
    | exact fun _ => rfl
    | with_reducible exact fun h => Memory.writeWord_wf _ _ h
    | split
    | (refine written_steady (by simp only [↓State.written_mk]) ?_; with_reducible apply mk_steady)

theorem State.estCmdsDue_steady {s₀ : State} (s : State) (hS : Steady s₀ s) :
    Steady s₀ (State.estCmdsDue s) := by
  unfold State.estCmdsDue
  try dsimp only
  repeat' first
    | with_reducible assumption
    | with_reducible apply ite_steady
    | with_reducible apply State.slotApply_steady
    | (with_reducible apply foldl_steady; intro t x ht)
    | with_reducible exact id
    | with_reducible rfl
    | exact fun _ h => h
    | with_reducible exact fun h => tput_sorted _ h (Nat.zero_le _)
    | with_reducible exact tdel_sorted
    | exact fun _ => rfl
    | with_reducible exact fun h => Memory.writeWord_wf _ _ h
    | (refine written_steady (by simp only [↓State.written_mk]) ?_; with_reducible apply mk_steady)

theorem State.fbChange_steady {s₀ : State} (s : State) (kind old new : Nat) (hS : Steady s₀ s) :
    Steady s₀ (State.fbChange s kind old new) := by
  unfold State.fbChange
  try dsimp only
  repeat' first
    | with_reducible assumption
    | with_reducible apply ite_steady
    | with_reducible apply State.record_steady

theorem State.fallbackFrame_steady {s₀ : State} (s : State) (hS : Steady s₀ s) :
    Steady s₀ (State.fallbackFrame s) := by
  unfold State.fallbackFrame
  try dsimp only
  repeat' first
    | with_reducible assumption
    | with_reducible apply ite_steady
    | with_reducible apply State.set_steady
    | with_reducible apply State.fbChange_steady
    | with_reducible apply State.commitAll_steady
    | with_reducible apply State.commitAddr_steady
    | with_reducible exact id
    | with_reducible rfl
    | exact fun _ h => h
    | with_reducible exact fun h => tput_sorted _ h (Nat.zero_le _)
    | with_reducible exact tdel_sorted
    | exact fun _ => rfl
    | with_reducible exact fun h => Memory.writeWord_wf _ _ h
    | split
    | (refine written_steady (by simp only [↓State.written_mk]) ?_; with_reducible apply mk_steady)

theorem State.estFrame_steady {s₀ : State} (s : State) (hS : Steady s₀ s) :
    Steady s₀ (State.estFrame s) := by
  unfold State.estFrame
  try dsimp only
  repeat' first
    | with_reducible assumption
    | with_reducible apply ite_steady
    | with_reducible apply State.estCmdsDue_steady
    | with_reducible apply State.fallbackFrame_steady
    | with_reducible exact id
    | with_reducible rfl
    | exact fun _ h => h
    | with_reducible exact fun h => tput_sorted _ h (Nat.zero_le _)
    | with_reducible exact tdel_sorted
    | exact fun _ => rfl
    | with_reducible exact fun h => Memory.writeWord_wf _ _ h
    | (refine written_steady (by simp only [↓State.written_mk]) ?_; with_reducible apply mk_steady)

end Sys2Proof.Machine
end

