-- ==== Sys2Proof/Laws/SteadyMuster.lean ====
section
/-!
SUPPORT. Every operation of Machine/Muster.lean keeps what `Steady` says.
-/

set_option Elab.async false

namespace Sys2Proof.Machine

open Sys2Proof

theorem State.recorderStart_steady {s₀ : State} (s : State) (scan : FlashScan) (hS : Steady s₀ s) :
    Steady s₀ (State.recorderStart s scan) := by
  unfold State.recorderStart
  try dsimp only
  repeat' first
    | with_reducible assumption
    | with_reducible apply ite_steady
    | with_reducible apply State.record_steady
    | with_reducible apply State.inc_steady
    | (with_reducible apply foldl_steady; intro t x ht)
    | with_reducible exact id
    | with_reducible rfl
    | exact fun _ h => h
    | with_reducible exact fun h => tput_sorted _ h (Nat.zero_le _)
    | with_reducible exact tdel_sorted
    | exact fun _ => rfl
    | with_reducible exact fun h => Memory.writeWord_wf _ _ h
    | (refine written_steady (by simp only [↓State.written_mk]) ?_; with_reducible apply mk_steady)

theorem State.startNotes_steady {s₀ : State} (s : State) (hS : Steady s₀ s) :
    Steady s₀ (State.startNotes s) := by
  unfold State.startNotes
  try dsimp only
  repeat' first
    | with_reducible assumption
    | with_reducible apply ite_steady
    | with_reducible apply State.record_steady
    | with_reducible exact id
    | with_reducible rfl
    | exact fun _ h => h
    | with_reducible exact fun h => tput_sorted _ h (Nat.zero_le _)
    | with_reducible exact tdel_sorted
    | exact fun _ => rfl
    | with_reducible exact fun h => Memory.writeWord_wf _ _ h
    | split
    | (refine written_steady (by simp only [↓State.written_mk]) ?_; with_reducible apply mk_steady)

theorem State.pllUp_steady {s₀ : State} (s : State) (scan : FlashScan) (hS : Steady s₀ s) :
    Steady s₀ (State.pllUp s scan) := by
  unfold State.pllUp
  try dsimp only
  repeat' first
    | with_reducible assumption
    | with_reducible apply ite_steady
    | with_reducible apply State.set_steady
    | with_reducible apply State.recorderStart_steady
    | with_reducible apply State.startNotes_steady
    | with_reducible apply State.islandStart_steady
    | with_reducible exact id
    | with_reducible rfl
    | exact fun _ h => h
    | with_reducible exact fun h => tput_sorted _ h (Nat.zero_le _)
    | with_reducible exact tdel_sorted
    | exact fun _ => rfl
    | with_reducible exact fun h => Memory.writeWord_wf _ _ h
    | (refine written_steady (by simp only [↓State.written_mk]) ?_; with_reducible apply mk_steady)

theorem State.musterSafe_steady {s₀ : State} (s : State) (cause : Nat) (kind : Nat) (hS : Steady s₀ s) :
    Steady s₀ (State.musterSafe s cause kind) := by
  unfold State.musterSafe
  try dsimp only
  repeat' first
    | with_reducible assumption
    | with_reducible apply ite_steady
    | with_reducible apply State.set_steady
    | with_reducible apply State.setSat_steady
    | with_reducible apply State.record_steady
    | with_reducible apply State.evt_steady
    | with_reducible apply State.islandRunInEnd_steady
    | with_reducible apply State.safeCause_steady

theorem State.phaseFail_steady {s₀ : State} (s : State) (reason cause : Nat) (kind : Nat) (hS : Steady s₀ s) :
    Steady s₀ (State.phaseFail s reason cause kind) := by
  unfold State.phaseFail
  try dsimp only
  repeat' first
    | with_reducible assumption
    | with_reducible apply ite_steady
    | with_reducible apply State.record_steady
    | with_reducible apply State.musterSafe_steady

theorem State.runInFail_steady {s₀ : State} (s : State) (cause : Nat) (hS : Steady s₀ s) :
    Steady s₀ (State.runInFail s cause) := by
  unfold State.runInFail
  try dsimp only
  repeat' first
    | with_reducible assumption
    | with_reducible apply ite_steady
    | with_reducible apply State.phaseFail_steady
    | with_reducible apply State.musterSafe_steady
    | with_reducible exact id
    | with_reducible rfl
    | exact fun _ h => h
    | with_reducible exact fun h => tput_sorted _ h (Nat.zero_le _)
    | with_reducible exact tdel_sorted
    | exact fun _ => rfl
    | with_reducible exact fun h => Memory.writeWord_wf _ _ h
    | (refine written_steady (by simp only [↓State.written_mk]) ?_; with_reducible apply mk_steady)

theorem State.slotReject_steady {s₀ : State} (s : State) (reason : Nat) (err : Nat) (more : List (Nat × Nat)) (hS : Steady s₀ s) :
    Steady s₀ (State.slotReject s reason err more) := by
  unfold State.slotReject
  try dsimp only
  repeat' first
    | with_reducible assumption
    | with_reducible apply ite_steady
    | with_reducible apply State.set_steady
    | with_reducible apply State.record_steady
    | with_reducible apply State.musterSafe_steady
    | with_reducible exact id
    | with_reducible rfl
    | exact fun _ h => h
    | with_reducible exact fun h => tput_sorted _ h (Nat.zero_le _)
    | with_reducible exact tdel_sorted
    | exact fun _ => rfl
    | with_reducible exact fun h => Memory.writeWord_wf _ _ h
    | (refine written_steady (by simp only [↓State.written_mk]) ?_; with_reducible apply mk_steady)

theorem State.dramReturn_steady {s₀ : State} (s : State) (hS : Steady s₀ s) :
    Steady s₀ (State.dramReturn s) := by
  unfold State.dramReturn
  try dsimp only
  repeat' first
    | with_reducible assumption
    | with_reducible apply ite_steady
    | with_reducible apply State.ramPush_steady
    | with_reducible apply State.lossRecord_steady
    | (with_reducible apply foldl_steady; intro t x ht)
    | with_reducible exact id
    | with_reducible rfl
    | exact fun _ h => h
    | with_reducible exact fun h => tput_sorted _ h (Nat.zero_le _)
    | with_reducible exact tdel_sorted
    | exact fun _ => rfl
    | with_reducible exact fun h => Memory.writeWord_wf _ _ h
    | (refine written_steady (by simp only [↓State.written_mk]) ?_; with_reducible apply mk_steady)

theorem State.pairingEnd_steady {s₀ : State} (s : State) (hS : Steady s₀ s) :
    Steady s₀ (State.pairingEnd s) := by
  unfold State.pairingEnd
  try dsimp only
  repeat' first
    | with_reducible assumption
    | with_reducible apply ite_steady
    | with_reducible exact id
    | with_reducible rfl
    | exact fun _ h => h
    | with_reducible exact fun h => tput_sorted _ h (Nat.zero_le _)
    | with_reducible exact tdel_sorted
    | exact fun _ => rfl
    | with_reducible exact fun h => Memory.writeWord_wf _ _ h
    | split
    | (refine written_steady (by simp only [↓State.written_mk]) ?_; with_reducible apply mk_steady)

theorem State.startRunIn_steady {s₀ : State} (s : State) (active paired : Bool) (tick0 : Nat) (hS : Steady s₀ s) :
    Steady s₀ (State.startRunIn s active paired tick0) := by
  unfold State.startRunIn
  try dsimp only
  repeat' first
    | with_reducible assumption
    | with_reducible apply ite_steady
    | with_reducible apply State.pairingEnd_steady
    | with_reducible apply State.set_steady
    | with_reducible apply State.setB_steady
    | with_reducible apply State.canUp_steady
    | with_reducible apply State.ethUp_steady
    | with_reducible exact id
    | with_reducible rfl
    | exact fun _ h => h
    | with_reducible exact fun h => tput_sorted _ h (Nat.zero_le _)
    | with_reducible exact tdel_sorted
    | exact fun _ => rfl
    | with_reducible exact fun h => Memory.writeWord_wf _ _ h
    | (refine written_steady (by simp only [↓State.written_mk]) ?_; with_reducible apply mk_steady)

theorem State.unpairedAlarm_steady {s₀ : State} (s : State) (reason : Nat) (hS : Steady s₀ s) :
    Steady s₀ (State.unpairedAlarm s reason) := by
  unfold State.unpairedAlarm
  try dsimp only
  repeat' first
    | with_reducible assumption
    | with_reducible apply ite_steady
    | with_reducible apply State.set_steady
    | with_reducible apply State.evt_steady
    | with_reducible apply State.alarm_steady
    | with_reducible exact id
    | with_reducible rfl
    | exact fun _ h => h
    | with_reducible exact fun h => tput_sorted _ h (Nat.zero_le _)
    | with_reducible exact tdel_sorted
    | exact fun _ => rfl
    | with_reducible exact fun h => Memory.writeWord_wf _ _ h
    | (refine written_steady (by simp only [↓State.written_mk]) ?_; with_reducible apply mk_steady)

theorem State.pairHold_steady {s₀ : State} (s : State) (activeIn : Bool) (hS : Steady s₀ s) :
    Steady s₀ (State.pairHold s activeIn) := by
  unfold State.pairHold
  try dsimp only
  repeat' first
    | with_reducible assumption
    | with_reducible apply ite_steady
    | with_reducible apply State.set_steady
    | with_reducible apply State.evt_steady
    | with_reducible apply State.record_steady
    | with_reducible apply State.canUp_steady

theorem State.activeAlone_steady {s₀ : State} (s : State) (hS : Steady s₀ s) :
    Steady s₀ (State.activeAlone s) := by
  unfold State.activeAlone
  try dsimp only
  repeat' first
    | with_reducible assumption
    | with_reducible apply ite_steady
    | with_reducible apply State.startRunIn_steady
    | with_reducible apply State.unpairedAlarm_steady

theorem State.noPeer_steady {s₀ : State} (s : State) (activeIn : Bool) (hS : Steady s₀ s) :
    Steady s₀ (State.noPeer s activeIn) := by
  unfold State.noPeer
  try dsimp only
  repeat' first
    | with_reducible assumption
    | with_reducible apply ite_steady
    | with_reducible apply State.pairHold_steady
    | with_reducible apply State.activeAlone_steady
    | with_reducible exact id
    | with_reducible rfl
    | exact fun _ h => h
    | with_reducible exact fun h => tput_sorted _ h (Nat.zero_le _)
    | with_reducible exact tdel_sorted
    | exact fun _ => rfl
    | with_reducible exact fun h => Memory.writeWord_wf _ _ h
    | (refine written_steady (by simp only [↓State.written_mk]) ?_; with_reducible apply mk_steady)

theorem State.syncRecord_steady {s₀ : State} (s : State) (role ms res : Nat) (hS : Steady s₀ s) :
    Steady s₀ (State.syncRecord s role ms res) := by
  unfold State.syncRecord
  try dsimp only
  repeat' first
    | with_reducible assumption
    | with_reducible apply ite_steady
    | with_reducible apply State.record_steady

theorem State.loadBlock_steady {s₀ : State} (s : State) (b : SnapBlock) (hS : Steady s₀ s) :
    Steady s₀ (State.loadBlock s b) := by
  unfold State.loadBlock
  try dsimp only
  repeat' first
    | with_reducible assumption
    | with_reducible apply ite_steady
    | with_reducible apply State.set_steady
    | (with_reducible apply foldl_steady; intro t x ht)
    | with_reducible exact id
    | with_reducible rfl
    | exact fun _ h => h
    | with_reducible exact fun h => tput_sorted _ h (Nat.zero_le _)
    | with_reducible exact tdel_sorted
    | exact fun _ => rfl
    | with_reducible exact fun h => Memory.writeWord_wf _ _ h
    | (refine written_steady (by simp only [↓State.written_mk]) ?_; with_reducible apply mk_steady)

end Sys2Proof.Machine
end

