-- ==== Sys2Proof/Laws/SteadyYuz.lean ====
section
/-!
SUPPORT. Every operation of Machine/Yuz.lean keeps what `Steady` says.
-/

set_option Elab.async false

namespace Sys2Proof.Machine

open Sys2Proof

theorem State.yuzStat_steady {s₀ : State} (s : State) (hS : Steady s₀ s) :
    Steady s₀ (State.yuzStat s) := by
  unfold State.yuzStat
  try dsimp only
  repeat' first
    | with_reducible assumption
    | with_reducible apply ite_steady
    | with_reducible apply State.set_steady
    | with_reducible apply State.setB_steady

theorem State.yuzNoClamp_steady {s₀ : State} (s : State) (kind : Nat) (hS : Steady s₀ s) :
    Steady s₀ (State.yuzNoClamp s kind) := by
  unfold State.yuzNoClamp
  try dsimp only
  repeat' first
    | with_reducible assumption
    | with_reducible apply ite_steady
    | with_reducible apply State.set_steady

theorem State.yuzExpire_steady {s₀ : State} (s : State) (b : Batch) (cause : Nat) (hS : Steady s₀ s) :
    Steady s₀ (State.yuzExpire s b cause) := by
  unfold State.yuzExpire
  try dsimp only
  repeat' first
    | with_reducible assumption
    | with_reducible apply ite_steady
    | with_reducible apply State.set_steady
    | with_reducible apply State.setSat_steady
    | with_reducible apply State.incSat_steady
    | with_reducible apply State.record_steady
    | with_reducible apply State.yuzNoClamp_steady
    | with_reducible apply State.evt_steady
    | (with_reducible apply foldl_steady; intro t x ht)
    | with_reducible exact id
    | with_reducible rfl
    | exact fun _ h => h
    | with_reducible exact fun h => tput_sorted _ h (Nat.zero_le _)
    | with_reducible exact tdel_sorted
    | exact fun _ => rfl
    | with_reducible exact fun h => Memory.writeWord_wf _ _ h
    | (refine written_steady (by simp only [↓State.written_mk]) ?_; with_reducible apply mk_steady)

theorem State.yuzSubmit_steady {s₀ : State} (s : State) (b : Batch) (hS : Steady s₀ s) :
    Steady s₀ (State.yuzSubmit s b) := by
  unfold State.yuzSubmit
  try dsimp only
  repeat' first
    | with_reducible assumption
    | with_reducible apply ite_steady
    | with_reducible apply State.yuzExpire_steady
    | with_reducible apply State.yuzStat_steady
    | with_reducible exact id
    | with_reducible rfl
    | exact fun _ h => h
    | with_reducible exact fun h => tput_sorted _ h (Nat.zero_le _)
    | with_reducible exact tdel_sorted
    | exact fun _ => rfl
    | with_reducible exact fun h => Memory.writeWord_wf _ _ h
    | (refine written_steady (by simp only [↓State.written_mk]) ?_; with_reducible apply mk_steady)

theorem State.yuzItem_steady {s₀ : State} (s : State) (kind i : Nat) (r : ItemRes) (hS : Steady s₀ s) :
    Steady s₀ (State.yuzItem s kind i r) := by
  unfold State.yuzItem
  try dsimp only
  repeat' first
    | with_reducible assumption
    | with_reducible apply ite_steady
    | with_reducible apply State.result_steady
    | with_reducible exact id
    | with_reducible rfl
    | exact fun _ h => h
    | with_reducible exact fun h => tput_sorted _ h (Nat.zero_le _)
    | with_reducible exact tdel_sorted
    | exact fun _ => rfl
    | with_reducible exact fun h => Memory.writeWord_wf _ _ h
    | (refine written_steady (by simp only [↓State.written_mk]) ?_; with_reducible apply mk_steady)

theorem State.yuzUtil_steady {s₀ : State} (s : State) (b : Batch) (hS : Steady s₀ s) :
    Steady s₀ (State.yuzUtil s b) := by
  unfold State.yuzUtil
  try dsimp only
  repeat' first
    | with_reducible assumption
    | with_reducible apply ite_steady
    | with_reducible apply State.setU_steady
    | with_reducible exact id
    | with_reducible rfl
    | exact fun _ h => h
    | with_reducible exact fun h => tput_sorted _ h (Nat.zero_le _)
    | with_reducible exact tdel_sorted
    | exact fun _ => rfl
    | with_reducible exact fun h => Memory.writeWord_wf _ _ h
    | (refine written_steady (by simp only [↓State.written_mk]) ?_; with_reducible apply mk_steady)

theorem State.yuzNumeric_steady {s₀ : State} (s : State) (b : Batch) (items : List ItemRes) (hS : Steady s₀ s) :
    Steady s₀ (State.yuzNumeric s b items) := by
  unfold State.yuzNumeric
  try dsimp only
  repeat' first
    | with_reducible assumption
    | with_reducible apply ite_steady
    | with_reducible apply State.set_steady
    | with_reducible apply State.inc_steady
    | with_reducible apply State.evt_steady
    | with_reducible apply State.record_steady
    | with_reducible apply State.yuzNoClamp_steady
    | with_reducible exact id
    | with_reducible rfl
    | exact fun _ h => h
    | with_reducible exact fun h => tput_sorted _ h (Nat.zero_le _)
    | with_reducible exact tdel_sorted
    | exact fun _ => rfl
    | with_reducible exact fun h => Memory.writeWord_wf _ _ h
    | split

theorem State.yuzFinish_steady {s₀ : State} (s : State) (b : Batch) (items : List ItemRes) (cycles : Nat) (miss verdict : Bool) (hS : Steady s₀ s) :
    Steady s₀ (State.yuzFinish s b items cycles miss verdict) := by
  unfold State.yuzFinish
  try dsimp only
  repeat' first
    | with_reducible assumption
    | with_reducible apply ite_steady
    | with_reducible apply State.yuzItem_steady
    | with_reducible apply State.set_steady
    | with_reducible apply State.setB_steady
    | with_reducible apply State.setSat_steady
    | with_reducible apply State.yuzNumeric_steady
    | with_reducible apply State.yuzUtil_steady
    | with_reducible apply State.yuzStat_steady
    | (with_reducible apply foldl_steady; intro t x ht)
    | with_reducible exact id
    | with_reducible rfl
    | exact fun _ h => h
    | with_reducible exact fun h => tput_sorted _ h (Nat.zero_le _)
    | with_reducible exact tdel_sorted
    | exact fun _ => rfl
    | with_reducible exact fun h => Memory.writeWord_wf _ _ h
    | (refine written_steady (by simp only [↓State.written_mk]) ?_; with_reducible apply mk_steady)

theorem State.yuzByVerdict_steady {s₀ : State} (s : State) (b : Batch) (items : List ItemRes) (stop : Option (Nat × Nat)) (hS : Steady s₀ s) :
    Steady s₀ (State.yuzByVerdict s b items stop) := by
  unfold State.yuzByVerdict
  try dsimp only
  repeat' first
    | with_reducible assumption
    | with_reducible apply ite_steady
    | with_reducible apply State.yuzFinish_steady
    | with_reducible apply State.incSat_steady
    | with_reducible apply State.record_steady
    | with_reducible apply State.evt_steady

theorem State.yuzTakeover_steady {s₀ : State} (s : State) (hS : Steady s₀ s) :
    Steady s₀ (State.yuzTakeover s) := by
  unfold State.yuzTakeover
  try dsimp only
  repeat' first
    | with_reducible assumption
    | with_reducible apply ite_steady
    | with_reducible apply State.yuzFinish_steady
    | with_reducible exact id
    | with_reducible rfl
    | exact fun _ h => h
    | with_reducible exact fun h => tput_sorted _ h (Nat.zero_le _)
    | with_reducible exact tdel_sorted
    | exact fun _ => rfl
    | with_reducible exact fun h => Memory.writeWord_wf _ _ h
    | split
    | (refine written_steady (by simp only [↓State.written_mk]) ?_; with_reducible apply mk_steady)

theorem State.yuzUnstarted_steady {s₀ : State} (s : State) (batch : Nat) (stop : Option (Nat × Nat)) (hS : Steady s₀ s) :
    Steady s₀ (State.yuzUnstarted s batch stop) := by
  unfold State.yuzUnstarted
  try dsimp only
  repeat' first
    | with_reducible assumption
    | with_reducible apply ite_steady
    | with_reducible apply State.yuzExpire_steady
    | with_reducible apply State.set_steady
    | with_reducible apply State.yuzStat_steady
    | with_reducible exact id
    | with_reducible rfl
    | exact fun _ h => h
    | with_reducible exact fun h => tput_sorted _ h (Nat.zero_le _)
    | with_reducible exact tdel_sorted
    | exact fun _ => rfl
    | with_reducible exact fun h => Memory.writeWord_wf _ _ h
    | split
    | (refine written_steady (by simp only [↓State.written_mk]) ?_; with_reducible apply mk_steady)

theorem State.keepVerdict_steady {s₀ : State} (s : State) (batch : Nat) (stop : Option (Nat × Nat)) (hS : Steady s₀ s) :
    Steady s₀ (State.keepVerdict s batch stop) := by
  unfold State.keepVerdict
  try dsimp only
  repeat' first
    | with_reducible assumption
    | with_reducible apply ite_steady
    | with_reducible exact id
    | with_reducible rfl
    | exact fun _ h => h
    | with_reducible exact fun h => tput_sorted _ h (Nat.zero_le _)
    | with_reducible exact tdel_sorted
    | exact fun _ => rfl
    | with_reducible exact fun h => Memory.writeWord_wf _ _ h
    | (refine written_steady (by simp only [↓State.written_mk]) ?_; with_reducible apply mk_steady)

end Sys2Proof.Machine
end

