-- ==== Sys2Proof/Laws/SteadyAlloc.lean ====
section
/-!
SUPPORT. Every operation of Machine/Alloc.lean keeps what `Steady` says.
-/

set_option Elab.async false

namespace Sys2Proof.Machine

open Sys2Proof

theorem State.putThr_steady {s₀ : State} (s : State) (i : Nat) (x : ThrSt) (hS : Steady s₀ s) :
    Steady s₀ (State.putThr s i x) := by
  unfold State.putThr
  try dsimp only
  repeat' first
    | with_reducible assumption
    | with_reducible apply ite_steady
    | with_reducible exact id
    | with_reducible rfl
    | exact fun _ h => h
    | with_reducible exact fun h => tput_sorted _ h (Nat.zero_le _)
    | with_reducible exact tdel_sorted
    | exact fun _ => rfl
    | with_reducible exact fun h => Memory.writeWord_wf _ _ h
    | (refine written_steady (by simp only [↓State.written_mk]) ?_; with_reducible apply mk_steady)

theorem State.putBus_steady {s₀ : State} (s : State) (b : Nat) (x : BusSt) (hS : Steady s₀ s) :
    Steady s₀ (State.putBus s b x) := by
  unfold State.putBus
  try dsimp only
  repeat' first
    | with_reducible assumption
    | with_reducible apply ite_steady
    | with_reducible exact id
    | with_reducible rfl
    | exact fun _ h => h
    | with_reducible exact fun h => tput_sorted _ h (Nat.zero_le _)
    | with_reducible exact tdel_sorted
    | exact fun _ => rfl
    | with_reducible exact fun h => Memory.writeWord_wf _ _ h
    | (refine written_steady (by simp only [↓State.written_mk]) ?_; with_reducible apply mk_steady)

theorem State.setThr_steady {s₀ : State} (s : State) (i : Nat) (hS : Steady s₀ s) :
    Steady s₀ (State.setThr s i) := by
  unfold State.setThr
  try dsimp only
  repeat' first
    | with_reducible assumption
    | with_reducible apply ite_steady
    | with_reducible apply State.set_steady
    | with_reducible apply State.evt_steady
    | with_reducible apply State.record_steady

theorem State.readBus_steady {s₀ : State} (s : State) (b : Nat) (c : BusCfg) (hS : Steady s₀ s) :
    Steady s₀ (State.readBus s b c) := by
  unfold State.readBus
  try dsimp only
  repeat' first
    | with_reducible assumption
    | with_reducible apply ite_steady
    | with_reducible apply State.putBus_steady
    | with_reducible apply State.clearAlarm_steady
    | with_reducible apply State.setB_steady

theorem State.setCap_steady {s₀ : State} (s : State) (hS : Steady s₀ s) :
    Steady s₀ (State.setCap s) := by
  unfold State.setCap
  try dsimp only
  repeat' first
    | with_reducible assumption
    | with_reducible apply ite_steady
    | with_reducible apply State.setQ_steady
    | with_reducible exact id
    | with_reducible rfl
    | exact fun _ h => h
    | with_reducible exact fun h => tput_sorted _ h (Nat.zero_le _)
    | with_reducible exact tdel_sorted
    | exact fun _ => rfl
    | with_reducible exact fun h => Memory.writeWord_wf _ _ h
    | (refine written_steady (by simp only [↓State.written_mk]) ?_; with_reducible apply mk_steady)

theorem State.thrOut_steady {s₀ : State} (s : State) (q : Quality) (i : Nat) (hS : Steady s₀ s) :
    Steady s₀ (State.thrOut s q i) := by
  unfold State.thrOut
  try dsimp only
  repeat' first
    | with_reducible assumption
    | with_reducible apply ite_steady
    | with_reducible apply State.commitAll_steady
    | with_reducible apply State.set_steady
    | with_reducible apply State.setB_steady
    | with_reducible apply State.setQ_steady
    | with_reducible apply State.setU_steady
    | with_reducible exact id
    | with_reducible rfl
    | exact fun _ h => h
    | with_reducible exact fun h => tput_sorted _ h (Nat.zero_le _)
    | with_reducible exact tdel_sorted
    | exact fun _ => rfl
    | with_reducible exact fun h => Memory.writeWord_wf _ _ h
    | split

theorem State.busOut_steady {s₀ : State} (s : State) (b : Nat) (hS : Steady s₀ s) :
    Steady s₀ (State.busOut s b) := by
  unfold State.busOut
  try dsimp only
  repeat' first
    | with_reducible assumption
    | with_reducible apply ite_steady
    | with_reducible apply State.commitAll_steady
    | with_reducible apply State.setU_steady

theorem State.allocOut_steady {s₀ : State} (s : State) (q : Quality) (hS : Steady s₀ s) :
    Steady s₀ (State.allocOut s q) := by
  unfold State.allocOut
  try dsimp only
  repeat' first
    | with_reducible assumption
    | with_reducible apply ite_steady
    | with_reducible apply State.thrOut_steady
    | with_reducible apply State.busOut_steady
    | with_reducible apply State.commitAll_steady
    | (with_reducible apply foldl_steady; intro t x ht)

theorem State.allocSubmit_steady {s₀ : State} (s : State) (tau : List Rat) (hS : Steady s₀ s) :
    Steady s₀ (State.allocSubmit s tau) := by
  unfold State.allocSubmit
  try dsimp only
  repeat' first
    | with_reducible assumption
    | with_reducible apply ite_steady
    | with_reducible apply State.yuzSubmit_steady
    | with_reducible exact id
    | with_reducible rfl
    | exact fun _ h => h
    | with_reducible exact fun h => tput_sorted _ h (Nat.zero_le _)
    | with_reducible exact tdel_sorted
    | exact fun _ => rfl
    | with_reducible exact fun h => Memory.writeWord_wf _ _ h
    | (refine written_steady (by simp only [↓State.written_mk]) ?_; with_reducible apply mk_steady)

theorem State.consSubmit_steady {s₀ : State} (s : State) (tau nom : List Rat) (hS : Steady s₀ s) :
    Steady s₀ (State.consSubmit s tau nom) := by
  unfold State.consSubmit
  try dsimp only
  repeat' first
    | with_reducible assumption
    | with_reducible apply ite_steady
    | with_reducible apply State.yuzSubmit_steady
    | with_reducible exact id
    | with_reducible rfl
    | exact fun _ h => h
    | with_reducible exact fun h => tput_sorted _ h (Nat.zero_le _)
    | with_reducible exact tdel_sorted
    | exact fun _ => rfl
    | with_reducible exact fun h => Memory.writeWord_wf _ _ h
    | (refine written_steady (by simp only [↓State.written_mk]) ?_; with_reducible apply mk_steady)

theorem State.takeSolution_steady {s₀ : State} (s : State) (i : Nat) (f : Rat × Rat) (hS : Steady s₀ s) :
    Steady s₀ (State.takeSolution s i f) := by
  unfold State.takeSolution
  try dsimp only
  repeat' first
    | with_reducible assumption
    | with_reducible apply ite_steady
    | with_reducible apply State.putThr_steady
    | with_reducible apply State.record_steady
    | with_reducible exact id
    | with_reducible rfl
    | exact fun _ h => h
    | with_reducible exact fun h => tput_sorted _ h (Nat.zero_le _)
    | with_reducible exact tdel_sorted
    | exact fun _ => rfl
    | with_reducible exact fun h => Memory.writeWord_wf _ _ h
    | split

theorem State.trimBus_steady {s₀ : State} (s : State) (b : Nat) (hS : Steady s₀ s) :
    Steady s₀ (State.trimBus s b) := by
  unfold State.trimBus
  try dsimp only
  repeat' first
    | with_reducible assumption
    | with_reducible apply ite_steady
    | with_reducible apply State.putThr_steady
    | with_reducible apply State.set_steady
    | with_reducible apply State.record_steady
    | with_reducible apply State.evt_steady
    | (with_reducible apply foldl_steady; intro t x ht)

theorem State.countShort_steady {s₀ : State} (s : State) (hS : Steady s₀ s) :
    Steady s₀ (State.countShort s) := by
  unfold State.countShort
  try dsimp only
  repeat' first
    | with_reducible assumption
    | with_reducible apply ite_steady
    | with_reducible exact id
    | with_reducible rfl
    | exact fun _ h => h
    | with_reducible exact fun h => tput_sorted _ h (Nat.zero_le _)
    | with_reducible exact tdel_sorted
    | exact fun _ => rfl
    | with_reducible exact fun h => Memory.writeWord_wf _ _ h
    | (refine written_steady (by simp only [↓State.written_mk]) ?_; with_reducible apply mk_steady)

theorem State.allocNumeric_steady {s₀ : State} (s : State) (hS : Steady s₀ s) :
    Steady s₀ (State.allocNumeric s) := by
  unfold State.allocNumeric
  try dsimp only
  repeat' first
    | with_reducible assumption
    | with_reducible apply ite_steady
    | with_reducible apply State.set_steady
    | with_reducible apply State.evt_steady
    | with_reducible apply State.record_steady

theorem State.noteMiss_steady {s₀ : State} (s : State) (hS : Steady s₀ s) :
    Steady s₀ (State.noteMiss s) := by
  unfold State.noteMiss
  try dsimp only
  repeat' first
    | with_reducible assumption
    | with_reducible apply ite_steady
    | with_reducible exact id
    | with_reducible rfl
    | exact fun _ h => h
    | with_reducible exact fun h => tput_sorted _ h (Nat.zero_le _)
    | with_reducible exact tdel_sorted
    | exact fun _ => rfl
    | with_reducible exact fun h => Memory.writeWord_wf _ _ h
    | (refine written_steady (by simp only [↓State.written_mk]) ?_; with_reducible apply mk_steady)

theorem State.allocMissed_steady {s₀ : State} (s : State) (hS : Steady s₀ s) :
    Steady s₀ (State.allocMissed s) := by
  unfold State.allocMissed
  try dsimp only
  repeat' first
    | with_reducible assumption
    | with_reducible apply ite_steady
    | with_reducible apply State.putThr_steady
    | with_reducible apply State.set_steady
    | with_reducible apply State.noteMiss_steady
    | with_reducible apply State.evt_steady
    | with_reducible apply State.inc_steady
    | with_reducible apply State.record_steady
    | with_reducible apply State.allocOut_steady
    | (with_reducible apply foldl_steady; intro t x ht)
    | with_reducible exact id
    | with_reducible rfl
    | exact fun _ h => h
    | with_reducible exact fun h => tput_sorted _ h (Nat.zero_le _)
    | with_reducible exact tdel_sorted
    | exact fun _ => rfl
    | with_reducible exact fun h => Memory.writeWord_wf _ _ h
    | (refine written_steady (by simp only [↓State.written_mk]) ?_; with_reducible apply mk_steady)

theorem State.takeCase_steady {s₀ : State} (s : State) (c : Nat) (r : CaseRes) (hS : Steady s₀ s) :
    Steady s₀ (State.takeCase s c r) := by
  unfold State.takeCase
  try dsimp only
  repeat' first
    | with_reducible assumption
    | with_reducible apply ite_steady
    | with_reducible apply State.set_steady
    | with_reducible apply State.record_steady
    | with_reducible apply State.setQ_steady
    | with_reducible apply State.commitAll_steady
    | with_reducible apply State.setB_steady
    | (with_reducible apply foldl_steady; intro t x ht)
    | with_reducible exact id
    | with_reducible rfl
    | exact fun _ h => h
    | with_reducible exact fun h => tput_sorted _ h (Nat.zero_le _)
    | with_reducible exact tdel_sorted
    | exact fun _ => rfl
    | with_reducible exact fun h => Memory.writeWord_wf _ _ h
    | (refine written_steady (by simp only [↓State.written_mk]) ?_; with_reducible apply mk_steady)

theorem State.consJudge_steady {s₀ : State} (s : State) (hS : Steady s₀ s) :
    Steady s₀ (State.consJudge s) := by
  unfold State.consJudge
  try dsimp only
  repeat' first
    | with_reducible assumption
    | with_reducible apply ite_steady
    | with_reducible apply State.set_steady
    | with_reducible apply State.setB_steady
    | with_reducible apply State.incSat_steady
    | with_reducible apply State.evt_steady
    | with_reducible apply State.alarm_steady
    | with_reducible apply State.clearAlarm_steady
    | with_reducible exact id
    | with_reducible rfl
    | exact fun _ h => h
    | with_reducible exact fun h => tput_sorted _ h (Nat.zero_le _)
    | with_reducible exact tdel_sorted
    | exact fun _ => rfl
    | with_reducible exact fun h => Memory.writeWord_wf _ _ h
    | (refine written_steady (by simp only [↓State.written_mk]) ?_; with_reducible apply mk_steady)

theorem State.followFrame_steady {s₀ : State} (s : State) (hS : Steady s₀ s) :
    Steady s₀ (State.followFrame s) := by
  unfold State.followFrame
  try dsimp only
  repeat' first
    | with_reducible assumption
    | with_reducible apply ite_steady
    | with_reducible apply State.putThr_steady
    | with_reducible apply State.set_steady
    | with_reducible apply State.setB_steady
    | (with_reducible apply foldl_steady; intro t x ht)
    | with_reducible exact id
    | with_reducible rfl
    | exact fun _ h => h
    | with_reducible exact fun h => tput_sorted _ h (Nat.zero_le _)
    | with_reducible exact tdel_sorted
    | exact fun _ => rfl
    | with_reducible exact fun h => Memory.writeWord_wf _ _ h
    | split

theorem State.thrCmd_steady {s₀ : State} (s : State) (src : CmdSrc) (thr action : Nat) (hS : Steady s₀ s) :
    Steady s₀ (State.thrCmd s src thr action) := by
  unfold State.thrCmd
  try dsimp only
  repeat' first
    | with_reducible assumption
    | with_reducible apply ite_steady
    | (with_reducible apply State.operatorCmd_steady; intro t k ht)
    | with_reducible apply State.set_steady
    | with_reducible apply State.record_steady
    | with_reducible apply State.evt_steady
    | with_reducible exact id
    | with_reducible rfl
    | exact fun _ h => h
    | with_reducible exact fun h => tput_sorted _ h (Nat.zero_le _)
    | with_reducible exact tdel_sorted
    | exact fun _ => rfl
    | with_reducible exact fun h => Memory.writeWord_wf _ _ h
    | split
    | (refine written_steady (by simp only [↓State.written_mk]) ?_; with_reducible apply mk_steady)

theorem State.thrApply_steady {s₀ : State} (s : State) (c : ThrCmd) (hS : Steady s₀ s) :
    Steady s₀ (State.thrApply s c) := by
  unfold State.thrApply
  try dsimp only
  repeat' first
    | with_reducible assumption
    | with_reducible apply ite_steady
    | with_reducible apply State.putThr_steady
    | with_reducible apply State.follow_steady
    | with_reducible apply State.clearAlarm_steady

theorem State.releaseThr_steady {s₀ : State} (s : State) (i : Nat) (c : ThrCfg) (t az : Rat) (hS : Steady s₀ s) :
    Steady s₀ (State.releaseThr s i c t az) := by
  unfold State.releaseThr
  try dsimp only
  repeat' first
    | with_reducible assumption
    | with_reducible apply ite_steady
    | with_reducible apply State.putThr_steady
    | with_reducible apply State.putNum_steady
    | with_reducible exact id
    | with_reducible rfl
    | exact fun _ h => h
    | with_reducible exact fun h => tput_sorted _ h (Nat.zero_le _)
    | with_reducible exact tdel_sorted
    | exact fun _ => rfl
    | with_reducible exact fun h => Memory.writeWord_wf _ _ h
    | split

theorem State.releaseOne_steady {s₀ : State} (s : State) (i : Nat) (hS : Steady s₀ s) :
    Steady s₀ (State.releaseOne s i) := by
  unfold State.releaseOne
  try dsimp only
  repeat' first
    | with_reducible assumption
    | with_reducible apply ite_steady
    | with_reducible apply State.setB_steady
    | with_reducible apply State.releaseThr_steady
    | with_reducible apply State.safeRamp_steady
    | with_reducible exact id
    | with_reducible rfl
    | exact fun _ h => h
    | with_reducible exact fun h => tput_sorted _ h (Nat.zero_le _)
    | with_reducible exact tdel_sorted
    | exact fun _ => rfl
    | with_reducible exact fun h => Memory.writeWord_wf _ _ h
    | split

theorem State.allocBoundary_steady {s₀ : State} (s : State) (hS : Steady s₀ s) :
    Steady s₀ (State.allocBoundary s) := by
  unfold State.allocBoundary
  try dsimp only
  repeat' first
    | with_reducible assumption
    | with_reducible apply ite_steady
    | with_reducible apply State.thrApply_steady
    | with_reducible apply State.readBus_steady
    | with_reducible apply State.setThr_steady
    | with_reducible apply State.releaseOne_steady
    | with_reducible apply State.set_steady
    | with_reducible apply State.incSat_steady
    | with_reducible apply State.setCap_steady
    | with_reducible apply State.allocOut_steady
    | (with_reducible apply foldl_steady; intro t x ht)
    | with_reducible exact id
    | with_reducible rfl
    | exact fun _ h => h
    | with_reducible exact fun h => tput_sorted _ h (Nat.zero_le _)
    | with_reducible exact tdel_sorted
    | exact fun _ => rfl
    | with_reducible exact fun h => Memory.writeWord_wf _ _ h
    | (refine written_steady (by simp only [↓State.written_mk]) ?_; with_reducible apply mk_steady)

end Sys2Proof.Machine
end

