-- ==== Sys2Proof/Laws/GoesAlloc.lean ====
section
/-!
SUPPORT. Every meaning of Machine/Alloc.lean answers a next state, and between the passage of its time and that state `Steady` holds.
-/

set_option Elab.async false

namespace Sys2Proof.Machine

open Sys2Proof

theorem execBusPowerHoldExpiry_steady {s₀ : State} (dt bus : Nat) (s : State) (hS : Steady s₀ (State.advance s dt)) :
    Goes s₀ (execBusPowerHoldExpiry dt bus s) := by
  unfold execBusPowerHoldExpiry
  try dsimp only
  repeat' first
    | with_reducible assumption
    | with_reducible apply ite_steady
    | with_reducible apply next_goes
    | with_reducible apply ite_goes
    | with_reducible apply State.putBus_steady
    | with_reducible apply State.evt_steady
    | with_reducible apply State.set_steady
    | with_reducible apply State.alarm_steady
    | with_reducible exact id
    | with_reducible rfl
    | exact fun _ h => h
    | with_reducible exact fun h => tput_sorted _ h (Nat.zero_le _)
    | with_reducible exact tdel_sorted
    | exact fun _ => rfl
    | with_reducible exact fun h => Memory.writeWord_wf _ _ h
    | split

theorem execAllocSolveDone_steady {s₀ : State} (dt : Nat) (forces : List (Rat × Rat)) (s : State) (hS : Steady s₀ (State.advance s dt)) :
    Goes s₀ (execAllocSolveDone dt forces s) := by
  unfold execAllocSolveDone
  try dsimp only
  repeat' first
    | with_reducible assumption
    | with_reducible apply ite_steady
    | with_reducible apply next_goes
    | with_reducible apply ite_goes
    | with_reducible apply State.set_steady
    | with_reducible apply State.allocMissed_steady
    | with_reducible apply State.consSubmit_steady
    | with_reducible apply State.takeSolution_steady
    | with_reducible apply State.trimBus_steady
    | with_reducible apply State.countShort_steady
    | with_reducible apply State.setCap_steady
    | with_reducible apply State.allocNumeric_steady
    | with_reducible apply State.allocOut_steady
    | (with_reducible apply foldl_steady; intro t x ht)
    | with_reducible exact id
    | with_reducible rfl
    | exact fun _ h => h
    | with_reducible exact fun h => tput_sorted _ h (Nat.zero_le _)
    | with_reducible exact tdel_sorted
    | exact fun _ => rfl
    | with_reducible exact fun h => Memory.writeWord_wf _ _ h
    | split
    | (refine written_steady (by simp only [↓State.written_mk]) ?_; with_reducible apply mk_steady)

theorem execAllocMissLimit_steady {s₀ : State} (dt : Nat) (s : State) (hS : Steady s₀ (State.advance s dt)) :
    Goes s₀ (execAllocMissLimit dt s) := by
  unfold execAllocMissLimit
  try dsimp only
  repeat' first
    | with_reducible assumption
    | with_reducible apply ite_steady
    | with_reducible apply next_goes
    | with_reducible apply ite_goes
    | with_reducible apply State.deviceFault_steady

theorem execAllocShort_steady {s₀ : State} (dt : Nat) (s : State) (hS : Steady s₀ (State.advance s dt)) :
    Goes s₀ (execAllocShort dt s) := by
  unfold execAllocShort
  try dsimp only
  repeat' first
    | with_reducible assumption
    | with_reducible apply ite_steady
    | with_reducible apply next_goes
    | with_reducible apply ite_goes
    | with_reducible apply State.set_steady
    | with_reducible apply State.evt_steady
    | with_reducible apply State.alarm_steady
    | with_reducible apply State.clearAlarm_steady

theorem execConsReadySubmit_steady {s₀ : State} (dt : Nat) (s : State) (hS : Steady s₀ (State.advance s dt)) :
    Goes s₀ (execConsReadySubmit dt s) := by
  unfold execConsReadySubmit
  try dsimp only
  repeat' first
    | with_reducible assumption
    | with_reducible apply ite_steady
    | with_reducible apply next_goes
    | with_reducible apply ite_goes
    | with_reducible apply State.consSubmit_steady

theorem execConsBatchDone_steady {s₀ : State} (dt : Nat) (cases : List CaseRes) (s : State) (hS : Steady s₀ (State.advance s dt)) :
    Goes s₀ (execConsBatchDone dt cases s) := by
  unfold execConsBatchDone
  try dsimp only
  repeat' first
    | with_reducible assumption
    | with_reducible apply ite_steady
    | with_reducible apply next_goes
    | with_reducible apply ite_goes
    | with_reducible apply State.set_steady
    | with_reducible apply State.takeCase_steady
    | with_reducible apply State.noteMiss_steady
    | with_reducible apply State.evt_steady
    | with_reducible apply State.consJudge_steady
    | with_reducible apply State.inc_steady
    | with_reducible apply State.record_steady
    | (with_reducible apply foldl_steady; intro t x ht)
    | with_reducible exact id
    | with_reducible rfl
    | exact fun _ h => h
    | with_reducible exact fun h => tput_sorted _ h (Nat.zero_le _)
    | with_reducible exact tdel_sorted
    | exact fun _ => rfl
    | with_reducible exact fun h => Memory.writeWord_wf _ _ h
    | split
    | (refine written_steady (by simp only [↓State.written_mk]) ?_; with_reducible apply mk_steady)

theorem execConsMissLimit_steady {s₀ : State} (dt : Nat) (s : State) (hS : Steady s₀ (State.advance s dt)) :
    Goes s₀ (execConsMissLimit dt s) := by
  unfold execConsMissLimit
  try dsimp only
  repeat' first
    | with_reducible assumption
    | with_reducible apply ite_steady
    | with_reducible apply next_goes
    | with_reducible apply ite_goes
    | with_reducible apply State.deviceFault_steady

theorem execFollowFault_steady {s₀ : State} (dt thr : Nat) (s : State) (hS : Steady s₀ (State.advance s dt)) :
    Goes s₀ (execFollowFault dt thr s) := by
  unfold execFollowFault
  try dsimp only
  repeat' first
    | with_reducible assumption
    | with_reducible apply ite_steady
    | with_reducible apply next_goes
    | with_reducible apply ite_goes
    | with_reducible apply State.putThr_steady
    | with_reducible apply State.alarm_steady
    | with_reducible exact id
    | with_reducible rfl
    | exact fun _ h => h
    | with_reducible exact fun h => tput_sorted _ h (Nat.zero_le _)
    | with_reducible exact tdel_sorted
    | exact fun _ => rfl
    | with_reducible exact fun h => Memory.writeWord_wf _ _ h
    | split

theorem execAllocThrDeselect_steady {s₀ : State} (dt : Nat) (src : CmdSrc) (thr : Nat) (s : State) (hS : Steady s₀ (State.advance s dt)) :
    Goes s₀ (execAllocThrDeselect dt src thr s) := by
  unfold execAllocThrDeselect
  try dsimp only
  repeat' first
    | with_reducible assumption
    | with_reducible apply ite_steady
    | with_reducible apply next_goes
    | with_reducible apply ite_goes
    | with_reducible apply State.thrCmd_steady

theorem execAllocThrSelect_steady {s₀ : State} (dt : Nat) (src : CmdSrc) (thr : Nat) (s : State) (hS : Steady s₀ (State.advance s dt)) :
    Goes s₀ (execAllocThrSelect dt src thr s) := by
  unfold execAllocThrSelect
  try dsimp only
  repeat' first
    | with_reducible assumption
    | with_reducible apply ite_steady
    | with_reducible apply next_goes
    | with_reducible apply ite_goes
    | with_reducible apply State.thrCmd_steady

end Sys2Proof.Machine
end

