-- ==== Sys2Proof/Laws/GoesCan.lean ====
section
/-!
SUPPORT. Every meaning of Machine/Can.lean answers a next state, and between the passage of its time and that state `Steady` holds.
-/

set_option Elab.async false

namespace Sys2Proof.Machine

open Sys2Proof

theorem execCanPeriodicTransmit_steady {s₀ : State} (dt ch mb : Nat) (sof : Bool) (s : State) (hS : Steady s₀ (State.advance s dt)) :
    Goes s₀ (execCanPeriodicTransmit dt ch mb sof s) := by
  unfold execCanPeriodicTransmit
  try dsimp only
  repeat' first
    | with_reducible assumption
    | with_reducible apply ite_steady
    | with_reducible apply next_goes
    | with_reducible apply ite_goes
    | with_reducible apply State.mbQueue_steady
    | with_reducible exact id
    | with_reducible rfl
    | exact fun _ h => h
    | with_reducible exact fun h => tput_sorted _ h (Nat.zero_le _)
    | with_reducible exact tdel_sorted
    | exact fun _ => rfl
    | with_reducible exact fun h => Memory.writeWord_wf _ _ h
    | split

theorem execCanMailboxCancel_steady {s₀ : State} (dt ch mb : Nat) (sof : Bool) (s : State) (hS : Steady s₀ (State.advance s dt)) :
    Goes s₀ (execCanMailboxCancel dt ch mb sof s) := by
  unfold execCanMailboxCancel
  try dsimp only
  repeat' first
    | with_reducible assumption
    | with_reducible apply ite_steady
    | with_reducible apply next_goes
    | with_reducible apply ite_goes
    | with_reducible apply State.putMb_steady
    | with_reducible apply State.setMb_steady

theorem execCanTxAttemptEnd_steady {s₀ : State} (dt ch mb : Nat) (r : TxEnd) (s : State) (hS : Steady s₀ (State.advance s dt)) :
    Goes s₀ (execCanTxAttemptEnd dt ch mb r s) := by
  unfold execCanTxAttemptEnd
  try dsimp only
  repeat' first
    | with_reducible assumption
    | with_reducible apply ite_steady
    | with_reducible apply next_goes
    | with_reducible apply ite_goes
    | with_reducible apply State.incSat_steady
    | with_reducible apply State.set_steady
    | with_reducible apply State.canAcked_steady
    | with_reducible apply State.mbRetry_steady
    | with_reducible apply State.canLec_steady
    | with_reducible apply State.canNoAck_steady
    | with_reducible apply State.putCan_steady
    | with_reducible apply State.canCount_steady
    | with_reducible apply State.mbSent_steady
    | with_reducible exact id
    | with_reducible rfl
    | exact fun _ h => h
    | with_reducible exact fun h => tput_sorted _ h (Nat.zero_le _)
    | with_reducible exact tdel_sorted
    | exact fun _ => rfl
    | with_reducible exact fun h => Memory.writeWord_wf _ _ h
    | split

theorem execCanRxError_steady {s₀ : State} (dt ch lec : Nat) (dataPhase : Bool) (inc : Nat) (exception : Bool) (s : State) (hS : Steady s₀ (State.advance s dt)) :
    Goes s₀ (execCanRxError dt ch lec dataPhase inc exception s) := by
  unfold execCanRxError
  try dsimp only
  repeat' first
    | with_reducible assumption
    | with_reducible apply ite_steady
    | with_reducible apply next_goes
    | with_reducible apply ite_goes
    | with_reducible apply State.incSat_steady
    | with_reducible apply State.record_steady
    | with_reducible apply State.canLec_steady
    | with_reducible apply State.canCount_steady
    | with_reducible apply State.set_steady
    | with_reducible exact id
    | with_reducible rfl
    | exact fun _ h => h
    | with_reducible exact fun h => tput_sorted _ h (Nat.zero_le _)
    | with_reducible exact tdel_sorted
    | exact fun _ => rfl
    | with_reducible exact fun h => Memory.writeWord_wf _ _ h
    | split

theorem execCanRecover_steady {s₀ : State} (dt : Nat) (port : Port) (ch : Nat) (s : State) (hS : Steady s₀ (State.advance s dt)) :
    Goes s₀ (execCanRecover dt port ch s) := by
  unfold execCanRecover
  try dsimp only
  repeat' first
    | with_reducible assumption
    | with_reducible apply ite_steady
    | with_reducible apply next_goes
    | with_reducible apply ite_goes
    | (with_reducible apply State.withRole_steady; intro t ht)
    | with_reducible apply State.set_steady

theorem execBusoffRecoveryDone_steady {s₀ : State} (dt ch : Nat) (s : State) (hS : Steady s₀ (State.advance s dt)) :
    Goes s₀ (execBusoffRecoveryDone dt ch s) := by
  unfold execBusoffRecoveryDone
  try dsimp only
  repeat' first
    | with_reducible assumption
    | with_reducible apply ite_steady
    | with_reducible apply next_goes
    | with_reducible apply ite_goes
    | with_reducible apply State.set_steady
    | with_reducible apply State.putCan_steady
    | with_reducible apply State.clearAlarm_steady
    | with_reducible apply State.canErrState_steady
    | with_reducible exact id
    | with_reducible rfl
    | exact fun _ h => h
    | with_reducible exact fun h => tput_sorted _ h (Nat.zero_le _)
    | with_reducible exact tdel_sorted
    | exact fun _ => rfl
    | with_reducible exact fun h => Memory.writeWord_wf _ _ h
    | split

theorem execSquallLoadUpdate_steady {s₀ : State} (dt ch : Nat) (busy : Rat) (s : State) (hS : Steady s₀ (State.advance s dt)) :
    Goes s₀ (execSquallLoadUpdate dt ch busy s) := by
  unfold execSquallLoadUpdate
  try dsimp only
  repeat' first
    | with_reducible assumption
    | with_reducible apply ite_steady
    | with_reducible apply next_goes
    | with_reducible apply ite_goes
    | with_reducible apply State.putCan_steady
    | with_reducible apply State.set_steady
    | with_reducible apply State.setMb_steady
    | with_reducible apply State.record_steady
    | with_reducible apply State.clearAlarm_steady
    | with_reducible apply State.setU_steady
    | with_reducible apply State.inc_steady
    | with_reducible apply State.evt_steady
    | (with_reducible apply foldl_steady; intro t x ht)
    | with_reducible exact id
    | with_reducible rfl
    | exact fun _ h => h
    | with_reducible exact fun h => tput_sorted _ h (Nat.zero_le _)
    | with_reducible exact tdel_sorted
    | exact fun _ => rfl
    | with_reducible exact fun h => Memory.writeWord_wf _ _ h
    | split

theorem execCanSquallAlarm_steady {s₀ : State} (dt ch : Nat) (s : State) (hS : Steady s₀ (State.advance s dt)) :
    Goes s₀ (execCanSquallAlarm dt ch s) := by
  unfold execCanSquallAlarm
  try dsimp only
  repeat' first
    | with_reducible assumption
    | with_reducible apply ite_steady
    | with_reducible apply next_goes
    | with_reducible apply ite_goes
    | with_reducible apply State.putCan_steady
    | with_reducible apply State.alarm_steady
    | with_reducible exact id
    | with_reducible rfl
    | exact fun _ h => h
    | with_reducible exact fun h => tput_sorted _ h (Nat.zero_le _)
    | with_reducible exact tdel_sorted
    | exact fun _ => rfl
    | with_reducible exact fun h => Memory.writeWord_wf _ _ h
    | split

theorem execCanEsIdRead_steady {s₀ : State} (dt : Nat) (port : Port) (ch slot : Nat) (s : State) (hS : Steady s₀ (State.advance s dt)) :
    Goes s₀ (execCanEsIdRead dt port ch slot s) := by
  unfold execCanEsIdRead
  try dsimp only
  repeat' first
    | with_reducible assumption
    | with_reducible apply ite_steady
    | with_reducible apply next_goes
    | with_reducible apply ite_goes
    | with_reducible apply State.esIdRead_steady
    | with_reducible apply State.readBack_steady

theorem execCanEsData15Read_steady {s₀ : State} (dt : Nat) (port : Port) (ch slot : Nat) (s : State) (hS : Steady s₀ (State.advance s dt)) :
    Goes s₀ (execCanEsData15Read dt port ch slot s) := by
  unfold execCanEsData15Read
  try dsimp only
  repeat' first
    | with_reducible assumption
    | with_reducible apply ite_steady
    | with_reducible apply next_goes
    | with_reducible apply ite_goes
    | with_reducible apply State.esLastRead_steady
    | with_reducible apply State.readBack_steady

theorem execCanEsLockTimeout_steady {s₀ : State} (dt ch slot : Nat) (s : State) (hS : Steady s₀ (State.advance s dt)) :
    Goes s₀ (execCanEsLockTimeout dt ch slot s) := by
  unfold execCanEsLockTimeout
  try dsimp only
  repeat' first
    | with_reducible assumption
    | with_reducible apply ite_steady
    | with_reducible apply next_goes
    | with_reducible apply ite_goes
    | with_reducible apply State.esRelease_steady
    | with_reducible apply State.set_steady
    | with_reducible apply State.record_steady
    | with_reducible exact id
    | with_reducible rfl
    | exact fun _ h => h
    | with_reducible exact fun h => tput_sorted _ h (Nat.zero_le _)
    | with_reducible exact tdel_sorted
    | exact fun _ => rfl
    | with_reducible exact fun h => Memory.writeWord_wf _ _ h
    | split

theorem execN2kAddressClaim_steady {s₀ : State} (dt ch : Nat) (s : State) (hS : Steady s₀ (State.advance s dt)) :
    Goes s₀ (execN2kAddressClaim dt ch s) := by
  unfold execN2kAddressClaim
  try dsimp only
  repeat' first
    | with_reducible assumption
    | with_reducible apply ite_steady
    | with_reducible apply next_goes
    | with_reducible apply ite_goes
    | with_reducible apply State.set_steady
    | with_reducible apply State.n2kNote_steady
    | with_reducible apply State.evt_steady
    | with_reducible apply State.n2kSend_steady
    | with_reducible exact id
    | with_reducible rfl
    | exact fun _ h => h
    | with_reducible exact fun h => tput_sorted _ h (Nat.zero_le _)
    | with_reducible exact tdel_sorted
    | exact fun _ => rfl
    | with_reducible exact fun h => Memory.writeWord_wf _ _ h
    | split

theorem execN2kClaimReceive_steady {s₀ : State} (dt ch : Nat) (request : Bool) (name addr : Nat) (s : State) (hS : Steady s₀ (State.advance s dt)) :
    Goes s₀ (execN2kClaimReceive dt ch request name addr s) := by
  unfold execN2kClaimReceive
  try dsimp only
  repeat' first
    | with_reducible assumption
    | with_reducible apply ite_steady
    | with_reducible apply next_goes
    | with_reducible apply ite_goes
    | with_reducible apply State.n2kSend_steady
    | with_reducible apply State.putCan_steady
    | with_reducible apply State.n2kNote_steady
    | with_reducible apply State.n2kLost_steady
    | with_reducible exact id
    | with_reducible rfl
    | exact fun _ h => h
    | with_reducible exact fun h => tput_sorted _ h (Nat.zero_le _)
    | with_reducible exact tdel_sorted
    | exact fun _ => rfl
    | with_reducible exact fun h => Memory.writeWord_wf _ _ h
    | split

theorem execCanFrameReceive_steady {s₀ : State} (dt ch : Nat) (f : CanFrame) (s : State) (hS : Steady s₀ (State.advance s dt)) :
    Goes s₀ (execCanFrameReceive dt ch f s) := by
  unfold execCanFrameReceive
  try dsimp only
  repeat' first
    | with_reducible assumption
    | with_reducible apply ite_steady
    | with_reducible apply next_goes
    | with_reducible apply ite_goes
    | with_reducible apply State.canCount_steady
    | with_reducible apply State.inc_steady
    | with_reducible apply State.incSat_steady
    | with_reducible apply State.lullLeave_steady
    | with_reducible apply State.canEcho_steady
    | with_reducible apply State.esTake_steady
    | with_reducible apply State.fastTake_steady
    | with_reducible apply State.canDest_steady
    | with_reducible apply State.canBand_steady
    | (with_reducible refine State.tpTake_steady (by with_reducible assumption) ?_)
    | (with_reducible refine State.fastTake_out (by with_reducible assumption) ?_)
    | with_reducible exact id
    | with_reducible rfl
    | exact fun _ h => h
    | with_reducible exact fun h => tput_sorted _ h (Nat.zero_le _)
    | with_reducible exact tdel_sorted
    | exact fun _ => rfl
    | with_reducible exact fun h => Memory.writeWord_wf _ _ h
    | split

theorem execCanBusIntegrationDone_steady {s₀ : State} (dt ch : Nat) (s : State) (hS : Steady s₀ (State.advance s dt)) :
    Goes s₀ (execCanBusIntegrationDone dt ch s) := by
  unfold execCanBusIntegrationDone
  try dsimp only
  repeat' first
    | with_reducible assumption
    | with_reducible apply ite_steady
    | with_reducible apply next_goes
    | with_reducible apply ite_goes
    | with_reducible apply State.set_steady

end Sys2Proof.Machine
end

