-- ==== Sys2Proof/Laws/GoesClp.lean ====
section
/-!
SUPPORT. Every meaning of Machine/Clp.lean answers a next state, and between the passage of its time and that state `Steady` holds.
-/

set_option Elab.async false

namespace Sys2Proof.Machine

open Sys2Proof

theorem execSourceFailure_steady {s₀ : State} (dt ch : Nat) (s : State) (hS : Steady s₀ (State.advance s dt)) :
    Goes s₀ (execSourceFailure dt ch s) := by
  unfold execSourceFailure
  try dsimp only
  repeat' first
    | with_reducible assumption
    | with_reducible apply ite_steady
    | with_reducible apply next_goes
    | with_reducible apply ite_goes
    | with_reducible apply State.putClp_steady
    | with_reducible apply State.clpAlarm_steady
    | with_reducible exact id
    | with_reducible rfl
    | exact fun _ h => h
    | with_reducible exact fun h => tput_sorted _ h (Nat.zero_le _)
    | with_reducible exact tdel_sorted
    | exact fun _ => rfl
    | with_reducible exact fun h => Memory.writeWord_wf _ _ h
    | split

theorem execSupplyStep_steady {s₀ : State} (dt ch : Nat) (s : State) (hS : Steady s₀ (State.advance s dt)) :
    Goes s₀ (execSupplyStep dt ch s) := by
  unfold execSupplyStep
  try dsimp only
  repeat' first
    | with_reducible assumption
    | with_reducible apply ite_steady
    | with_reducible apply next_goes
    | with_reducible apply ite_goes
    | with_reducible apply State.putClp_steady
    | with_reducible apply State.setU_steady
    | with_reducible apply State.setB_steady
    | with_reducible exact id
    | with_reducible rfl
    | exact fun _ h => h
    | with_reducible exact fun h => tput_sorted _ h (Nat.zero_le _)
    | with_reducible exact tdel_sorted
    | exact fun _ => rfl
    | with_reducible exact fun h => Memory.writeWord_wf _ _ h
    | split

theorem execComplianceSet_steady {s₀ : State} (dt ch : Nat) (s : State) (hS : Steady s₀ (State.advance s dt)) :
    Goes s₀ (execComplianceSet dt ch s) := by
  unfold execComplianceSet
  try dsimp only
  repeat' first
    | with_reducible assumption
    | with_reducible apply ite_steady
    | with_reducible apply next_goes
    | with_reducible apply ite_goes
    | with_reducible apply State.set_steady
    | with_reducible apply State.evt_steady
    | with_reducible apply State.putClp_steady
    | with_reducible apply State.setB_steady
    | with_reducible apply State.clpNote_steady
    | with_reducible apply State.clpAlarm_steady
    | with_reducible exact id
    | with_reducible rfl
    | exact fun _ h => h
    | with_reducible exact fun h => tput_sorted _ h (Nat.zero_le _)
    | with_reducible exact tdel_sorted
    | exact fun _ => rfl
    | with_reducible exact fun h => Memory.writeWord_wf _ _ h
    | split

theorem execComplianceClear_steady {s₀ : State} (dt ch : Nat) (s : State) (hS : Steady s₀ (State.advance s dt)) :
    Goes s₀ (execComplianceClear dt ch s) := by
  unfold execComplianceClear
  try dsimp only
  repeat' first
    | with_reducible assumption
    | with_reducible apply ite_steady
    | with_reducible apply next_goes
    | with_reducible apply ite_goes
    | with_reducible apply State.set_steady
    | with_reducible apply State.clpNote_steady
    | with_reducible exact id
    | with_reducible rfl
    | exact fun _ h => h
    | with_reducible exact fun h => tput_sorted _ h (Nat.zero_le _)
    | with_reducible exact tdel_sorted
    | exact fun _ => rfl
    | with_reducible exact fun h => Memory.writeWord_wf _ _ h
    | split

theorem execComplianceRestoreCheck_steady {s₀ : State} (dt ch : Nat) (s : State) (hS : Steady s₀ (State.advance s dt)) :
    Goes s₀ (execComplianceRestoreCheck dt ch s) := by
  unfold execComplianceRestoreCheck
  try dsimp only
  repeat' first
    | with_reducible assumption
    | with_reducible apply ite_steady
    | with_reducible apply next_goes
    | with_reducible apply ite_goes
    | with_reducible apply State.putClp_steady
    | with_reducible apply State.clpAlarm_steady
    | with_reducible apply State.clpNote_steady
    | with_reducible apply State.set_steady
    | with_reducible exact id
    | with_reducible rfl
    | exact fun _ h => h
    | with_reducible exact fun h => tput_sorted _ h (Nat.zero_le _)
    | with_reducible exact tdel_sorted
    | exact fun _ => rfl
    | with_reducible exact fun h => Memory.writeWord_wf _ _ h
    | split

theorem execHartPollDue_steady {s₀ : State} (dt modem : Nat) (s : State) (hS : Steady s₀ (State.advance s dt)) :
    Goes s₀ (execHartPollDue dt modem s) := by
  unfold execHartPollDue
  try dsimp only
  repeat' first
    | with_reducible assumption
    | with_reducible apply ite_steady
    | with_reducible apply next_goes
    | with_reducible apply ite_goes
    | with_reducible apply State.hartStart_steady
    | with_reducible exact id
    | with_reducible rfl
    | exact fun _ h => h
    | with_reducible exact fun h => tput_sorted _ h (Nat.zero_le _)
    | with_reducible exact tdel_sorted
    | exact fun _ => rfl
    | with_reducible exact fun h => Memory.writeWord_wf _ _ h
    | split

theorem execHartReply_steady {s₀ : State} (dt modem : Nat) (r : HartReply) (s : State) (hS : Steady s₀ (State.advance s dt)) :
    Goes s₀ (execHartReply dt modem r s) := by
  unfold execHartReply
  try dsimp only
  repeat' first
    | with_reducible assumption
    | with_reducible apply ite_steady
    | with_reducible apply next_goes
    | with_reducible apply ite_goes
    | with_reducible apply State.set_steady
    | with_reducible apply State.hartFail_steady
    | with_reducible apply State.hartIdent_steady
    | with_reducible apply State.hartPoints_steady
    | with_reducible apply State.send_steady
    | with_reducible apply State.hartEnd_steady
    | with_reducible exact id
    | with_reducible rfl
    | exact fun _ h => h
    | with_reducible exact fun h => tput_sorted _ h (Nat.zero_le _)
    | with_reducible exact tdel_sorted
    | exact fun _ => rfl
    | with_reducible exact fun h => Memory.writeWord_wf _ _ h
    | split

theorem execHartRetry_steady {s₀ : State} (dt modem : Nat) (s : State) (hS : Steady s₀ (State.advance s dt)) :
    Goes s₀ (execHartRetry dt modem s) := by
  unfold execHartRetry
  try dsimp only
  repeat' first
    | with_reducible assumption
    | with_reducible apply ite_steady
    | with_reducible apply next_goes
    | with_reducible apply ite_goes
    | with_reducible apply State.putHart_steady
    | with_reducible apply State.hartFail_steady
    | with_reducible exact id
    | with_reducible rfl
    | exact fun _ h => h
    | with_reducible exact fun h => tput_sorted _ h (Nat.zero_le _)
    | with_reducible exact tdel_sorted
    | exact fun _ => rfl
    | with_reducible exact fun h => Memory.writeWord_wf _ _ h
    | split

theorem execHartIdRetry_steady {s₀ : State} (dt modem addr : Nat) (s : State) (hS : Steady s₀ (State.advance s dt)) :
    Goes s₀ (execHartIdRetry dt modem addr s) := by
  unfold execHartIdRetry
  try dsimp only
  repeat' first
    | with_reducible assumption
    | with_reducible apply ite_steady
    | with_reducible apply next_goes
    | with_reducible apply ite_goes
    | with_reducible apply State.hartStart_steady
    | with_reducible exact id
    | with_reducible rfl
    | exact fun _ h => h
    | with_reducible exact fun h => tput_sorted _ h (Nat.zero_le _)
    | with_reducible exact tdel_sorted
    | exact fun _ => rfl
    | with_reducible exact fun h => Memory.writeWord_wf _ _ h
    | split

theorem execHartPause_steady {s₀ : State} (dt : Nat) (port : Port) (s : State) (hS : Steady s₀ (State.advance s dt)) :
    Goes s₀ (execHartPause dt port s) := by
  unfold execHartPause
  try dsimp only
  repeat' first
    | with_reducible assumption
    | with_reducible apply ite_steady
    | with_reducible apply next_goes
    | with_reducible apply ite_goes
    | with_reducible apply State.putHart_steady
    | with_reducible apply State.set_steady
    | with_reducible apply State.hartNote_steady
    | (with_reducible apply State.withRole_steady; intro t ht)

theorem execHartResume_steady {s₀ : State} (dt : Nat) (port : Port) (s : State) (hS : Steady s₀ (State.advance s dt)) :
    Goes s₀ (execHartResume dt port s) := by
  unfold execHartResume
  try dsimp only
  repeat' first
    | with_reducible assumption
    | with_reducible apply ite_steady
    | with_reducible apply next_goes
    | with_reducible apply ite_goes
    | with_reducible apply State.putHart_steady
    | (with_reducible apply State.withRole_steady; intro t ht)
    | with_reducible apply State.set_steady
    | with_reducible apply State.hartNote_steady

end Sys2Proof.Machine
end

