-- ==== Sys2Proof/Laws/GoesEst.lean ====
section
/-!
SUPPORT. Every meaning of Machine/Est.lean answers a next state, and between the passage of its time and that state `Steady` holds.
-/

set_option Elab.async false

namespace Sys2Proof.Machine

open Sys2Proof

theorem execEstOverrunLimit_steady {s₀ : State} (dt : Nat) (s : State) (hS : Steady s₀ (State.advance s dt)) :
    Goes s₀ (execEstOverrunLimit dt s) := by
  unfold execEstOverrunLimit
  try dsimp only
  repeat' first
    | with_reducible assumption
    | with_reducible apply ite_steady
    | with_reducible apply next_goes
    | with_reducible apply ite_goes
    | with_reducible apply State.deviceFault_steady
    | with_reducible exact id
    | with_reducible rfl
    | exact fun _ h => h
    | with_reducible exact fun h => tput_sorted _ h (Nat.zero_le _)
    | with_reducible exact tdel_sorted
    | exact fun _ => rfl
    | with_reducible exact fun h => Memory.writeWord_wf _ _ h
    | (refine written_steady (by simp only [↓State.written_mk]) ?_; with_reducible apply mk_steady)

theorem execOwnGateReinit_steady {s₀ : State} (dt slot : Nat) (jump : Rat) (s : State) (hS : Steady s₀ (State.advance s dt)) :
    Goes s₀ (execOwnGateReinit dt slot jump s) := by
  unfold execOwnGateReinit
  try dsimp only
  repeat' first
    | with_reducible assumption
    | with_reducible apply ite_steady
    | with_reducible apply next_goes
    | with_reducible apply ite_goes
    | with_reducible apply State.set_steady
    | with_reducible apply State.putSlot_steady
    | with_reducible apply State.record_steady
    | with_reducible exact id
    | with_reducible rfl
    | exact fun _ h => h
    | with_reducible exact fun h => tput_sorted _ h (Nat.zero_le _)
    | with_reducible exact tdel_sorted
    | exact fun _ => rfl
    | with_reducible exact fun h => Memory.writeWord_wf _ _ h
    | split

theorem execSourceFrozen_steady {s₀ : State} (dt slot : Nat) (s : State) (hS : Steady s₀ (State.advance s dt)) :
    Goes s₀ (execSourceFrozen dt slot s) := by
  unfold execSourceFrozen
  try dsimp only
  repeat' first
    | with_reducible assumption
    | with_reducible apply ite_steady
    | with_reducible apply next_goes
    | with_reducible apply ite_goes
    | with_reducible apply State.set_steady
    | with_reducible apply State.setStatus_steady
    | with_reducible exact id
    | with_reducible rfl
    | exact fun _ h => h
    | with_reducible exact fun h => tput_sorted _ h (Nat.zero_le _)
    | with_reducible exact tdel_sorted
    | exact fun _ => rfl
    | with_reducible exact fun h => Memory.writeWord_wf _ _ h
    | split

theorem execSkewRecovered_steady {s₀ : State} (dt slot : Nat) (s : State) (hS : Steady s₀ (State.advance s dt)) :
    Goes s₀ (execSkewRecovered dt slot s) := by
  unfold execSkewRecovered
  try dsimp only
  repeat' first
    | with_reducible assumption
    | with_reducible apply ite_steady
    | with_reducible apply next_goes
    | with_reducible apply ite_goes
    | with_reducible apply State.putSlot_steady
    | with_reducible apply State.setStatus_steady

theorem execSlotWaiting_steady {s₀ : State} (dt slot : Nat) (s : State) (hS : Steady s₀ (State.advance s dt)) :
    Goes s₀ (execSlotWaiting dt slot s) := by
  unfold execSlotWaiting
  try dsimp only
  repeat' first
    | with_reducible assumption
    | with_reducible apply ite_steady
    | with_reducible apply next_goes
    | with_reducible apply ite_goes
    | with_reducible apply State.setStatus_steady
    | with_reducible exact id
    | with_reducible rfl
    | exact fun _ h => h
    | with_reducible exact fun h => tput_sorted _ h (Nat.zero_le _)
    | with_reducible exact tdel_sorted
    | exact fun _ => rfl
    | with_reducible exact fun h => Memory.writeWord_wf _ _ h
    | split

theorem execDisputeEnd_steady {s₀ : State} (dt group : Nat) (s : State) (hS : Steady s₀ (State.advance s dt)) :
    Goes s₀ (execDisputeEnd dt group s) := by
  unfold execDisputeEnd
  try dsimp only
  repeat' first
    | with_reducible assumption
    | with_reducible apply ite_steady
    | with_reducible apply next_goes
    | with_reducible apply ite_goes
    | with_reducible apply State.setStatus_steady
    | with_reducible apply State.disputeStop_steady
    | with_reducible apply State.disputeBits_steady
    | (with_reducible apply foldl_steady; intro t x ht)
    | with_reducible exact id
    | with_reducible rfl
    | exact fun _ h => h
    | with_reducible exact fun h => tput_sorted _ h (Nat.zero_le _)
    | with_reducible exact tdel_sorted
    | exact fun _ => rfl
    | with_reducible exact fun h => Memory.writeWord_wf _ _ h
    | split

theorem execReentryComplete_steady {s₀ : State} (dt slot : Nat) (s : State) (hS : Steady s₀ (State.advance s dt)) :
    Goes s₀ (execReentryComplete dt slot s) := by
  unfold execReentryComplete
  try dsimp only
  repeat' first
    | with_reducible assumption
    | with_reducible apply ite_steady
    | with_reducible apply next_goes
    | with_reducible apply ite_goes
    | with_reducible apply State.setStatus_steady
    | with_reducible apply State.evt_steady
    | with_reducible apply State.record_steady
    | with_reducible exact id
    | with_reducible rfl
    | exact fun _ h => h
    | with_reducible exact fun h => tput_sorted _ h (Nat.zero_le _)
    | with_reducible exact tdel_sorted
    | exact fun _ => rfl
    | with_reducible exact fun h => Memory.writeWord_wf _ _ h
    | (refine written_steady (by simp only [↓State.written_mk]) ?_; with_reducible apply mk_steady)

theorem execReentryHoldRecord_steady {s₀ : State} (dt slot : Nat) (s : State) (hS : Steady s₀ (State.advance s dt)) :
    Goes s₀ (execReentryHoldRecord dt slot s) := by
  unfold execReentryHoldRecord
  try dsimp only
  repeat' first
    | with_reducible assumption
    | with_reducible apply ite_steady
    | with_reducible apply next_goes
    | with_reducible apply ite_goes
    | with_reducible apply State.putSlot_steady
    | with_reducible apply State.record_steady

theorem execEstSrcDeselect_steady {s₀ : State} (dt : Nat) (src : CmdSrc) (slot : Nat) (s : State) (hS : Steady s₀ (State.advance s dt)) :
    Goes s₀ (execEstSrcDeselect dt src slot s) := by
  unfold execEstSrcDeselect
  try dsimp only
  repeat' first
    | with_reducible assumption
    | with_reducible apply ite_steady
    | with_reducible apply next_goes
    | with_reducible apply ite_goes
    | with_reducible apply State.slotWrite_steady

theorem execEstSrcSelect_steady {s₀ : State} (dt : Nat) (src : CmdSrc) (slot : Nat) (s : State) (hS : Steady s₀ (State.advance s dt)) :
    Goes s₀ (execEstSrcSelect dt src slot s) := by
  unfold execEstSrcSelect
  try dsimp only
  repeat' first
    | with_reducible assumption
    | with_reducible apply ite_steady
    | with_reducible apply next_goes
    | with_reducible apply ite_goes
    | with_reducible apply State.slotWrite_steady

theorem execTrackCoastTimeout_steady {s₀ : State} (dt track : Nat) (s : State) (hS : Steady s₀ (State.advance s dt)) :
    Goes s₀ (execTrackCoastTimeout dt track s) := by
  unfold execTrackCoastTimeout
  try dsimp only
  repeat' first
    | with_reducible assumption
    | with_reducible apply ite_steady
    | with_reducible apply next_goes
    | with_reducible apply ite_goes
    | with_reducible apply State.setTrack_steady

theorem execTrackLostTimeout_steady {s₀ : State} (dt track : Nat) (s : State) (hS : Steady s₀ (State.advance s dt)) :
    Goes s₀ (execTrackLostTimeout dt track s) := by
  unfold execTrackLostTimeout
  try dsimp only
  repeat' first
    | with_reducible assumption
    | with_reducible apply ite_steady
    | with_reducible apply next_goes
    | with_reducible apply ite_goes
    | with_reducible apply State.setTrack_steady

theorem execTrackSourceExclude_steady {s₀ : State} (dt track source : Nat) (s : State) (hS : Steady s₀ (State.advance s dt)) :
    Goes s₀ (execTrackSourceExclude dt track source s) := by
  unfold execTrackSourceExclude
  try dsimp only
  repeat' first
    | with_reducible assumption
    | with_reducible apply ite_steady
    | with_reducible apply next_goes
    | with_reducible apply ite_goes
    | with_reducible apply State.putTrack_steady
    | with_reducible apply State.set_steady
    | with_reducible apply State.alarm_steady
    | with_reducible exact id
    | with_reducible rfl
    | exact fun _ h => h
    | with_reducible exact fun h => tput_sorted _ h (Nat.zero_le _)
    | with_reducible exact tdel_sorted
    | exact fun _ => rfl
    | with_reducible exact fun h => Memory.writeWord_wf _ _ h
    | split

theorem execWavePeakSearch_steady {s₀ : State} (dt : Nat) (freqs : List Rat) (s : State) (hS : Steady s₀ (State.advance s dt)) :
    Goes s₀ (execWavePeakSearch dt freqs s) := by
  unfold execWavePeakSearch
  try dsimp only
  repeat' first
    | with_reducible assumption
    | with_reducible apply ite_steady
    | with_reducible apply next_goes
    | with_reducible apply ite_goes
    | with_reducible exact id
    | with_reducible rfl
    | exact fun _ h => h
    | with_reducible exact fun h => tput_sorted _ h (Nat.zero_le _)
    | with_reducible exact tdel_sorted
    | exact fun _ => rfl
    | with_reducible exact fun h => Memory.writeWord_wf _ _ h
    | (refine written_steady (by simp only [↓State.written_mk]) ?_; with_reducible apply mk_steady)

theorem execHeaveMruTimeout_steady {s₀ : State} (dt : Nat) (s : State) (hS : Steady s₀ (State.advance s dt)) :
    Goes s₀ (execHeaveMruTimeout dt s) := by
  unfold execHeaveMruTimeout
  try dsimp only
  repeat' first
    | with_reducible assumption
    | with_reducible apply ite_steady
    | with_reducible apply next_goes
    | with_reducible apply ite_goes
    | with_reducible apply State.set_steady
    | with_reducible exact id
    | with_reducible rfl
    | exact fun _ h => h
    | with_reducible exact fun h => tput_sorted _ h (Nat.zero_le _)
    | with_reducible exact tdel_sorted
    | exact fun _ => rfl
    | with_reducible exact fun h => Memory.writeWord_wf _ _ h
    | split

end Sys2Proof.Machine
end

