-- ==== Sys2Proof/Laws/GoesEth.lean ====
section
/-!
SUPPORT. Every meaning of Machine/Eth.lean answers a next state, and between the passage of its time and that state `Steady` holds.
-/

set_option Elab.async false

namespace Sys2Proof.Machine

open Sys2Proof

theorem execEthPeriodicTransmit_steady {s₀ : State} (dt port tx : Nat) (s : State) (hS : Steady s₀ (State.advance s dt)) :
    Goes s₀ (execEthPeriodicTransmit dt port tx s) := by
  unfold execEthPeriodicTransmit
  try dsimp only
  repeat' first
    | with_reducible assumption
    | with_reducible apply ite_steady
    | with_reducible apply next_goes
    | with_reducible apply ite_goes
    | with_reducible apply State.ethCyclic_steady
    | with_reducible exact id
    | with_reducible rfl
    | exact fun _ h => h
    | with_reducible exact fun h => tput_sorted _ h (Nat.zero_le _)
    | with_reducible exact tdel_sorted
    | exact fun _ => rfl
    | with_reducible exact fun h => Memory.writeWord_wf _ _ h
    | split

theorem execGateListEntry_steady {s₀ : State} (dt port : Nat) (s : State) (hS : Steady s₀ (State.advance s dt)) :
    Goes s₀ (execGateListEntry dt port s) := by
  unfold execGateListEntry
  try dsimp only
  repeat' first
    | with_reducible assumption
    | with_reducible apply ite_steady
    | with_reducible apply next_goes
    | with_reducible apply ite_goes
    | with_reducible apply State.set_steady
    | with_reducible apply State.putEth_steady
    | with_reducible apply State.ethNext_steady
    | with_reducible exact id
    | with_reducible rfl
    | exact fun _ h => h
    | with_reducible exact fun h => tput_sorted _ h (Nat.zero_le _)
    | with_reducible exact tdel_sorted
    | exact fun _ => rfl
    | with_reducible exact fun h => Memory.writeWord_wf _ _ h
    | split

theorem execEthFrameTransmitDone_steady {s₀ : State} (dt port : Nat) (s : State) (hS : Steady s₀ (State.advance s dt)) :
    Goes s₀ (execEthFrameTransmitDone dt port s) := by
  unfold execEthFrameTransmitDone
  try dsimp only
  repeat' first
    | with_reducible assumption
    | with_reducible apply ite_steady
    | with_reducible apply next_goes
    | with_reducible apply ite_goes
    | with_reducible apply State.putEth_steady
    | with_reducible apply State.inc_steady
    | with_reducible apply State.ethNext_steady
    | with_reducible exact id
    | with_reducible rfl
    | exact fun _ h => h
    | with_reducible exact fun h => tput_sorted _ h (Nat.zero_le _)
    | with_reducible exact tdel_sorted
    | exact fun _ => rfl
    | with_reducible exact fun h => Memory.writeWord_wf _ _ h
    | split

theorem execPhyStatusPoll_steady {s₀ : State} (dt port : Nat) (link : Bool) (speed : Nat) (s : State) (hS : Steady s₀ (State.advance s dt)) :
    Goes s₀ (execPhyStatusPoll dt port link speed s) := by
  unfold execPhyStatusPoll
  try dsimp only
  repeat' first
    | with_reducible assumption
    | with_reducible apply ite_steady
    | with_reducible apply next_goes
    | with_reducible apply ite_goes
    | with_reducible apply State.ethLink_steady

theorem execSgmiiLinkChange_steady {s₀ : State} (dt port : Nat) (link : Bool) (speed : Nat) (s : State) (hS : Steady s₀ (State.advance s dt)) :
    Goes s₀ (execSgmiiLinkChange dt port link speed s) := by
  unfold execSgmiiLinkChange
  try dsimp only
  repeat' first
    | with_reducible assumption
    | with_reducible apply ite_steady
    | with_reducible apply next_goes
    | with_reducible apply ite_goes
    | with_reducible apply State.ethLink_steady

theorem execPhyScriptRetry_steady {s₀ : State} (dt port : Nat) (ok : Bool) (reg : Nat) (s : State) (hS : Steady s₀ (State.advance s dt)) :
    Goes s₀ (execPhyScriptRetry dt port ok reg s) := by
  unfold execPhyScriptRetry
  try dsimp only
  repeat' first
    | with_reducible assumption
    | with_reducible apply ite_steady
    | with_reducible apply next_goes
    | with_reducible apply ite_goes
    | with_reducible apply State.set_steady
    | with_reducible apply State.record_steady
    | with_reducible apply State.ethNext_steady
    | with_reducible apply State.evt_steady

theorem execEthSquallUpdate_steady {s₀ : State} (dt port : Nat) (busy : Rat) (s : State) (hS : Steady s₀ (State.advance s dt)) :
    Goes s₀ (execEthSquallUpdate dt port busy s) := by
  unfold execEthSquallUpdate
  try dsimp only
  repeat' first
    | with_reducible assumption
    | with_reducible apply ite_steady
    | with_reducible apply next_goes
    | with_reducible apply ite_goes
    | with_reducible apply State.putEth_steady
    | with_reducible apply State.set_steady
    | with_reducible apply State.clearAlarm_steady
    | with_reducible apply State.setU_steady
    | with_reducible apply State.incSat_steady
    | with_reducible apply State.evt_steady
    | with_reducible apply State.ethNext_steady
    | with_reducible exact id
    | with_reducible rfl
    | exact fun _ h => h
    | with_reducible exact fun h => tput_sorted _ h (Nat.zero_le _)
    | with_reducible exact tdel_sorted
    | exact fun _ => rfl
    | with_reducible exact fun h => Memory.writeWord_wf _ _ h
    | split

theorem execEthSquallAlarm_steady {s₀ : State} (dt port : Nat) (s : State) (hS : Steady s₀ (State.advance s dt)) :
    Goes s₀ (execEthSquallAlarm dt port s) := by
  unfold execEthSquallAlarm
  try dsimp only
  repeat' first
    | with_reducible assumption
    | with_reducible apply ite_steady
    | with_reducible apply next_goes
    | with_reducible apply ite_goes
    | with_reducible apply State.putEth_steady
    | with_reducible apply State.alarm_steady
    | with_reducible exact id
    | with_reducible rfl
    | exact fun _ h => h
    | with_reducible exact fun h => tput_sorted _ h (Nat.zero_le _)
    | with_reducible exact tdel_sorted
    | exact fun _ => rfl
    | with_reducible exact fun h => Memory.writeWord_wf _ _ h
    | split

theorem execEthFrameReceive_steady {s₀ : State} (dt port : Nat) (f : EthFrame) (s : State) (hS : Steady s₀ (State.advance s dt)) :
    Goes s₀ (execEthFrameReceive dt port f s) := by
  unfold execEthFrameReceive
  try dsimp only
  repeat' first
    | with_reducible assumption
    | with_reducible apply ite_steady
    | with_reducible apply next_goes
    | with_reducible apply ite_goes
    | with_reducible apply State.incSat_steady
    | with_reducible apply State.ethBc_steady
    | with_reducible apply State.ethPrp_steady
    | with_reducible apply State.inc_steady
    | with_reducible apply State.ethFilter_steady
    | with_reducible exact id
    | with_reducible rfl
    | exact fun _ h => h
    | with_reducible exact fun h => tput_sorted _ h (Nat.zero_le _)
    | with_reducible exact tdel_sorted
    | exact fun _ => rfl
    | with_reducible exact fun h => Memory.writeWord_wf _ _ h
    | split

theorem execDispatchReport_steady {s₀ : State} (dt : Nat) (s : State) (hS : Steady s₀ (State.advance s dt)) :
    Goes s₀ (execDispatchReport dt s) := by
  unfold execDispatchReport
  try dsimp only
  repeat' first
    | with_reducible assumption
    | with_reducible apply ite_steady
    | with_reducible apply next_goes
    | with_reducible apply ite_goes
    | with_reducible apply State.ethSend_steady
    | with_reducible apply State.set_steady
    | with_reducible exact id
    | with_reducible rfl
    | exact fun _ h => h
    | with_reducible exact fun h => tput_sorted _ h (Nat.zero_le _)
    | with_reducible exact tdel_sorted
    | exact fun _ => rfl
    | with_reducible exact fun h => Memory.writeWord_wf _ _ h
    | (refine written_steady (by simp only [↓State.written_mk]) ?_; with_reducible apply mk_steady)

theorem execWorkRecordSample_steady {s₀ : State} (dt : Nat) (s : State) (hS : Steady s₀ (State.advance s dt)) :
    Goes s₀ (execWorkRecordSample dt s) := by
  unfold execWorkRecordSample
  try dsimp only
  repeat' first
    | with_reducible assumption
    | with_reducible apply ite_steady
    | with_reducible apply next_goes
    | with_reducible apply ite_goes
    | with_reducible apply State.workAdd_steady
    | with_reducible apply State.set_steady
    | with_reducible apply State.inc_steady
    | with_reducible apply State.record_steady
    | with_reducible exact id
    | with_reducible rfl
    | exact fun _ h => h
    | with_reducible exact fun h => tput_sorted _ h (Nat.zero_le _)
    | with_reducible exact tdel_sorted
    | exact fun _ => rfl
    | with_reducible exact fun h => Memory.writeWord_wf _ _ h
    | split
    | (refine written_steady (by simp only [↓State.written_mk]) ?_; with_reducible apply mk_steady)

theorem execWorkRecordTileSeal_steady {s₀ : State} (dt : Nat) (s : State) (hS : Steady s₀ (State.advance s dt)) :
    Goes s₀ (execWorkRecordTileSeal dt s) := by
  unfold execWorkRecordTileSeal
  try dsimp only
  repeat' first
    | with_reducible assumption
    | with_reducible apply ite_steady
    | with_reducible apply next_goes
    | with_reducible apply ite_goes
    | with_reducible apply State.sealTile_steady
    | with_reducible exact id
    | with_reducible rfl
    | exact fun _ h => h
    | with_reducible exact fun h => tput_sorted _ h (Nat.zero_le _)
    | with_reducible exact tdel_sorted
    | exact fun _ => rfl
    | with_reducible exact fun h => Memory.writeWord_wf _ _ h
    | split

theorem execEthWrAckWrite_steady {s₀ : State} (dt : Nat) (_port : Port) (v : Nat) (s : State) (hS : Steady s₀ (State.advance s dt)) :
    Goes s₀ (execEthWrAckWrite dt _port v s) := by
  unfold execEthWrAckWrite
  try dsimp only
  repeat' first
    | with_reducible assumption
    | with_reducible apply ite_steady
    | with_reducible apply next_goes
    | with_reducible apply ite_goes
    | with_reducible apply State.set_steady
    | with_reducible exact id
    | with_reducible rfl
    | exact fun _ h => h
    | with_reducible exact fun h => tput_sorted _ h (Nat.zero_le _)
    | with_reducible exact tdel_sorted
    | exact fun _ => rfl
    | with_reducible exact fun h => Memory.writeWord_wf _ _ h
    | (refine written_steady (by simp only [↓State.written_mk]) ?_; with_reducible apply mk_steady)

theorem execEthWrHeadLoRead_steady {s₀ : State} (dt : Nat) (port : Port) (s : State) (hS : Steady s₀ (State.advance s dt)) :
    Goes s₀ (execEthWrHeadLoRead dt port s) := by
  unfold execEthWrHeadLoRead
  try dsimp only
  repeat' first
    | with_reducible assumption
    | with_reducible apply ite_steady
    | with_reducible apply next_goes
    | with_reducible apply ite_goes
    | with_reducible apply State.readBack_steady
    | with_reducible exact id
    | with_reducible rfl
    | exact fun _ h => h
    | with_reducible exact fun h => tput_sorted _ h (Nat.zero_le _)
    | with_reducible exact tdel_sorted
    | exact fun _ => rfl
    | with_reducible exact fun h => Memory.writeWord_wf _ _ h
    | (refine written_steady (by simp only [↓State.written_mk]) ?_; with_reducible apply mk_steady)

end Sys2Proof.Machine
end

