-- ==== Sys2Proof/Laws/SteadyRoles.lean ====
section
/-!
SUPPORT. Every operation of Machine/Roles.lean keeps what `Steady` says.
-/

set_option Elab.async false

namespace Sys2Proof.Machine

open Sys2Proof

theorem State.clearKeyWords_steady {s₀ : State} (s : State) (hS : Steady s₀ s) :
    Steady s₀ (State.clearKeyWords s) := by
  unfold State.clearKeyWords
  try dsimp only
  repeat' first
    | with_reducible assumption
    | with_reducible apply ite_steady
    | with_reducible apply State.set_steady
    | (with_reducible apply foldl_steady; intro t x ht)

theorem State.closeSession_steady {s₀ : State} (s : State) (reason : Nat) (hS : Steady s₀ s) :
    Steady s₀ (State.closeSession s reason) := by
  unfold State.closeSession
  try dsimp only
  repeat' first
    | with_reducible assumption
    | with_reducible apply ite_steady
    | with_reducible apply State.record_steady
    | with_reducible apply State.set_steady
    | with_reducible apply State.clearKeyWords_steady
    | with_reducible exact id
    | with_reducible rfl
    | exact fun _ h => h
    | with_reducible exact fun h => tput_sorted _ h (Nat.zero_le _)
    | with_reducible exact tdel_sorted
    | exact fun _ => rfl
    | with_reducible exact fun h => Memory.writeWord_wf _ _ h
    | (refine written_steady (by simp only [↓State.written_mk]) ?_; with_reducible apply mk_steady)

theorem State.openFail_steady {s₀ : State} (s : State) (port : Port) (role : Role) (cause : Nat) (hS : Steady s₀ s) :
    Steady s₀ (State.openFail s port role cause) := by
  unfold State.openFail
  try dsimp only
  repeat' first
    | with_reducible assumption
    | with_reducible apply ite_steady
    | with_reducible apply State.set_steady
    | with_reducible apply State.record_steady
    | with_reducible apply State.incSat_steady
    | with_reducible exact id
    | with_reducible rfl
    | exact fun _ h => h
    | with_reducible exact fun h => tput_sorted _ h (Nat.zero_le _)
    | with_reducible exact tdel_sorted
    | exact fun _ => rfl
    | with_reducible exact fun h => Memory.writeWord_wf _ _ h
    | (refine written_steady (by simp only [↓State.written_mk]) ?_; with_reducible apply mk_steady)
    | split
    | exact fun h => tput_sorted _ h (Nat.zero_le _)
    | exact id
    | rfl

theorem State.keyCmd_steady {s₀ : State} (s : State) (target keyId : Nat) (hS : Steady s₀ s) :
    Steady s₀ (State.keyCmd s target keyId) := by
  unfold State.keyCmd
  try dsimp only
  repeat' first
    | with_reducible assumption
    | with_reducible apply ite_steady
    | with_reducible apply State.set_steady

theorem State.keyNoEffect_steady {s₀ : State} (s : State) (port : Port) (target keyId : Nat) (hS : Steady s₀ s) :
    Steady s₀ (State.keyNoEffect s port target keyId) := by
  unfold State.keyNoEffect
  try dsimp only
  repeat' first
    | with_reducible assumption
    | with_reducible apply ite_steady
    | with_reducible apply State.keyCmd_steady
    | with_reducible apply State.rwlIgnored_steady
    | with_reducible apply State.clearKeyWords_steady
    | with_reducible exact id
    | with_reducible rfl
    | exact fun _ h => h
    | with_reducible exact fun h => tput_sorted _ h (Nat.zero_le _)
    | with_reducible exact tdel_sorted
    | exact fun _ => rfl
    | with_reducible exact fun h => Memory.writeWord_wf _ _ h
    | split

theorem State.provision_steady {s₀ : State} (s : State) (port : Port) (target keyId : Nat) (hS : Steady s₀ s) :
    Steady s₀ (State.provision s port target keyId) := by
  unfold State.provision
  try dsimp only
  repeat' first
    | with_reducible assumption
    | with_reducible apply ite_steady
    | with_reducible apply State.keyCmd_steady
    | with_reducible apply State.clearKeyWords_steady
    | with_reducible apply State.journalWait_steady
    | with_reducible apply State.record_steady
    | with_reducible apply State.set_steady
    | with_reducible exact id
    | with_reducible rfl
    | exact fun _ h => h
    | with_reducible exact fun h => tput_sorted _ h (Nat.zero_le _)
    | with_reducible exact tdel_sorted
    | exact fun _ => rfl
    | with_reducible exact fun h => Memory.writeWord_wf _ _ h
    | (refine written_steady (by simp only [↓State.written_mk]) ?_; with_reducible apply mk_steady)
    | split
    | exact fun h => tput_sorted _ h (Nat.zero_le _)
    | exact id
    | rfl

end Sys2Proof.Machine
end

