-- ==== Sys2Proof/Laws/SteadyManifest.lean ====
section
/-!
SUPPORT. Every operation of Machine/Manifest.lean keeps what `Steady` says.
-/

set_option Elab.async false

namespace Sys2Proof.Machine

open Sys2Proof

theorem State.instRecord_steady {s₀ : State} (s : State) (cmd : Nat) (hS : Steady s₀ s) :
    Steady s₀ (State.instRecord s cmd) := by
  unfold State.instRecord
  try dsimp only
  repeat' first
    | with_reducible assumption
    | with_reducible apply ite_steady
    | with_reducible apply State.record_steady

theorem State.installNote_steady {s₀ : State} (s : State) (on : Nat) (hS : Steady s₀ s) :
    Steady s₀ (State.installNote s on) := by
  unfold State.installNote
  try dsimp only
  repeat' first
    | with_reducible assumption
    | with_reducible apply ite_steady
    | with_reducible exact id
    | with_reducible rfl
    | exact fun _ h => h
    | with_reducible exact fun h => tput_sorted _ h (Nat.zero_le _)
    | with_reducible exact tdel_sorted
    | exact fun _ => rfl
    | with_reducible exact fun h => Memory.writeWord_wf _ _ h
    | (refine written_steady (by simp only [↓State.written_mk]) ?_; with_reducible apply mk_steady)

theorem State.instEnd_steady {s₀ : State} (s : State) (cmd state result : Nat) (hS : Steady s₀ s) :
    Steady s₀ (State.instEnd s cmd state result) := by
  unfold State.instEnd
  try dsimp only
  repeat' first
    | with_reducible assumption
    | with_reducible apply ite_steady
    | with_reducible apply State.set_steady
    | with_reducible apply State.instRecord_steady
    | with_reducible exact id
    | with_reducible rfl
    | exact fun _ h => h
    | with_reducible exact fun h => tput_sorted _ h (Nat.zero_le _)
    | with_reducible exact tdel_sorted
    | exact fun _ => rfl
    | with_reducible exact fun h => Memory.writeWord_wf _ _ h
    | (refine written_steady (by simp only [↓State.written_mk]) ?_; with_reducible apply mk_steady)

theorem State.instStand_steady {s₀ : State} (s : State) (ins : Install) (step : Nat) (hS : Steady s₀ s) :
    Steady s₀ (State.instStand s ins step) := by
  unfold State.instStand
  try dsimp only
  repeat' first
    | with_reducible assumption
    | with_reducible apply ite_steady
    | with_reducible apply State.set_steady
    | with_reducible exact id
    | with_reducible rfl
    | exact fun _ h => h
    | with_reducible exact fun h => tput_sorted _ h (Nat.zero_le _)
    | with_reducible exact tdel_sorted
    | exact fun _ => rfl
    | with_reducible exact fun h => Memory.writeWord_wf _ _ h
    | (refine written_steady (by simp only [↓State.written_mk]) ?_; with_reducible apply mk_steady)

theorem State.instWrite_steady {s₀ : State} (s : State) (ins : Install) (run : InstRun) (hS : Steady s₀ s) :
    Steady s₀ (State.instWrite s ins run) := by
  unfold State.instWrite
  try dsimp only
  repeat' first
    | with_reducible assumption
    | with_reducible apply ite_steady
    | with_reducible apply State.installNote_steady
    | with_reducible apply State.instStand_steady
    | with_reducible apply State.instEnd_steady
    | with_reducible apply State.set_steady
    | with_reducible exact id
    | with_reducible rfl
    | exact fun _ h => h
    | with_reducible exact fun h => tput_sorted _ h (Nat.zero_le _)
    | with_reducible exact tdel_sorted
    | exact fun _ => rfl
    | with_reducible exact fun h => Memory.writeWord_wf _ _ h
    | split
    | (refine written_steady (by simp only [↓State.written_mk]) ?_; with_reducible apply mk_steady)

theorem State.instRun_steady {s₀ : State} (s : State) (cmd : Nat) (image : SlotImage) (run : InstRun) (hS : Steady s₀ s) :
    Steady s₀ (State.instRun s cmd image run) := by
  unfold State.instRun
  try dsimp only
  repeat' first
    | with_reducible assumption
    | with_reducible apply ite_steady
    | with_reducible apply State.set_steady
    | with_reducible apply State.instWrite_steady
    | with_reducible apply State.instRecord_steady
    | with_reducible exact id
    | with_reducible rfl
    | exact fun _ h => h
    | with_reducible exact fun h => tput_sorted _ h (Nat.zero_le _)
    | with_reducible exact tdel_sorted
    | exact fun _ => rfl
    | with_reducible exact fun h => Memory.writeWord_wf _ _ h
    | (refine written_steady (by simp only [↓State.written_mk]) ?_; with_reducible apply mk_steady)
    | split
    | exact fun h => tput_sorted _ h (Nat.zero_le _)
    | exact id

theorem State.instRefuse_steady {s₀ : State} (s : State) (cmd : Nat) (hS : Steady s₀ s) :
    Steady s₀ (State.instRefuse s cmd) := by
  unfold State.instRefuse
  try dsimp only
  repeat' first
    | with_reducible assumption
    | with_reducible apply ite_steady
    | with_reducible apply State.set_steady
    | with_reducible apply State.instRecord_steady

theorem State.install_steady {s₀ : State} (s : State) (image : SlotImage) (run : InstRun) (hS : Steady s₀ s) :
    Steady s₀ (State.install s image run) := by
  unfold State.install
  try dsimp only
  repeat' first
    | with_reducible assumption
    | with_reducible apply ite_steady
    | with_reducible apply State.instRefuse_steady
    | with_reducible apply State.set_steady
    | with_reducible apply State.instRun_steady
    | with_reducible apply State.instRecord_steady
    | with_reducible apply State.instEnd_steady

theorem State.paramRecord_steady {s₀ : State} (s : State) (role : Role) (keyId param result : Nat) (old new : Int) (hS : Steady s₀ s) :
    Steady s₀ (State.paramRecord s role keyId param result old new) := by
  unfold State.paramRecord
  try dsimp only
  repeat' first
    | with_reducible assumption
    | with_reducible apply ite_steady
    | with_reducible apply State.record_steady

theorem State.applyParams_steady {s₀ : State} (s : State) (hS : Steady s₀ s) :
    Steady s₀ (State.applyParams s) := by
  unfold State.applyParams
  try dsimp only
  repeat' first
    | with_reducible assumption
    | with_reducible apply ite_steady
    | with_reducible apply State.paramRecord_steady
    | with_reducible apply State.set_steady
    | (with_reducible apply foldl_steady; intro t x ht)
    | with_reducible exact id
    | with_reducible rfl
    | exact fun _ h => h
    | with_reducible exact fun h => tput_sorted _ h (Nat.zero_le _)
    | with_reducible exact tdel_sorted
    | exact fun _ => rfl
    | with_reducible exact fun h => Memory.writeWord_wf _ _ h
    | (refine written_steady (by simp only [↓State.written_mk]) ?_; with_reducible apply mk_steady)

end Sys2Proof.Machine
end

