-- ==== Sys2Proof/Laws/SteadyFbl.lean ====
section
/-!
SUPPORT. Every operation of Machine/Fbl.lean keeps what `Steady` says.
-/

set_option Elab.async false

namespace Sys2Proof.Machine

open Sys2Proof

theorem State.putFbl_steady {s₀ : State} (s : State) (l : Nat) (f : FblSt) (hS : Steady s₀ s) :
    Steady s₀ (State.putFbl s l f) := by
  unfold State.putFbl
  try dsimp only
  repeat' first
    | with_reducible assumption
    | with_reducible apply ite_steady
    | with_reducible exact id
    | with_reducible rfl
    | exact fun _ h => h
    | with_reducible exact fun h => tput_sorted _ h (Nat.zero_le _)
    | with_reducible exact tdel_sorted
    | exact fun _ => rfl
    | with_reducible exact fun h => Memory.writeWord_wf _ _ h
    | (refine written_steady (by simp only [↓State.written_mk]) ?_; with_reducible apply mk_steady)

end Sys2Proof.Machine
end

