-- ==== Sys2Proof/Laws/GoesFbl.lean ====
section
/-!
SUPPORT. Every meaning of Machine/Fbl.lean answers a next state, and between the passage of its time and that state `Steady` holds.
-/

set_option Elab.async false

namespace Sys2Proof.Machine

open Sys2Proof

theorem execFblEvaluationStart_steady {s₀ : State} (dt list : Nat) (s : State) (hS : Steady s₀ (State.advance s dt)) :
    Goes s₀ (execFblEvaluationStart dt list s) := by
  unfold execFblEvaluationStart
  try dsimp only
  repeat' first
    | with_reducible assumption
    | with_reducible apply ite_steady
    | with_reducible apply next_goes
    | with_reducible apply ite_goes
    | with_reducible apply State.putFbl_steady
    | with_reducible apply State.record_steady
    | with_reducible exact id
    | with_reducible rfl
    | exact fun _ h => h
    | with_reducible exact fun h => tput_sorted _ h (Nat.zero_le _)
    | with_reducible exact tdel_sorted
    | exact fun _ => rfl
    | with_reducible exact fun h => Memory.writeWord_wf _ _ h
    | split

theorem execFblEvaluationEnd_steady {s₀ : State} (dt list : Nat) (s : State) (hS : Steady s₀ (State.advance s dt)) :
    Goes s₀ (execFblEvaluationEnd dt list s) := by
  unfold execFblEvaluationEnd
  try dsimp only
  repeat' first
    | with_reducible assumption
    | with_reducible apply ite_steady
    | with_reducible apply next_goes
    | with_reducible apply ite_goes
    | with_reducible apply State.putFbl_steady
    | (with_reducible apply foldl_steady; intro t x ht)
    | with_reducible exact id
    | with_reducible rfl
    | exact fun _ h => h
    | with_reducible exact fun h => tput_sorted _ h (Nat.zero_le _)
    | with_reducible exact tdel_sorted
    | exact fun _ => rfl
    | with_reducible exact fun h => Memory.writeWord_wf _ _ h
    | split
    | (refine written_steady (by simp only [↓State.written_mk]) ?_; with_reducible apply mk_steady)

theorem execFblOverrunLimit_steady {s₀ : State} (dt list : Nat) (s : State) (hS : Steady s₀ (State.advance s dt)) :
    Goes s₀ (execFblOverrunLimit dt list s) := by
  unfold execFblOverrunLimit
  try dsimp only
  repeat' first
    | with_reducible assumption
    | with_reducible apply ite_steady
    | with_reducible apply next_goes
    | with_reducible apply ite_goes
    | with_reducible apply State.deviceFault_steady

end Sys2Proof.Machine
end

