-- ==== Sys2Proof/Laws/SteadyModes.lean ====
section
/-!
SUPPORT. Every operation of Machine/Modes.lean keeps what `Steady` says.
-/

set_option Elab.async false

namespace Sys2Proof.Machine

open Sys2Proof

theorem State.modeResult_steady {s₀ : State} (s : State) (res target tag : Nat) (src : CmdSrc) (keyId guards : Nat) (hS : Steady s₀ s) :
    Steady s₀ (State.modeResult s res target tag src keyId guards) := by
  unfold State.modeResult
  try dsimp only
  repeat' first
    | with_reducible assumption
    | with_reducible apply ite_steady
    | with_reducible apply State.set_steady
    | with_reducible apply State.record_steady
    | with_reducible apply State.result_steady
    | with_reducible apply State.evt_steady

theorem State.clearPending_steady {s₀ : State} (s : State) (hS : Steady s₀ s) :
    Steady s₀ (State.clearPending s) := by
  unfold State.clearPending
  try dsimp only
  repeat' first
    | with_reducible assumption
    | with_reducible apply ite_steady
    | with_reducible apply State.set_steady
    | with_reducible exact id
    | with_reducible rfl
    | exact fun _ h => h
    | with_reducible exact fun h => tput_sorted _ h (Nat.zero_le _)
    | with_reducible exact tdel_sorted
    | exact fun _ => rfl
    | with_reducible exact fun h => Memory.writeWord_wf _ _ h
    | (refine written_steady (by simp only [↓State.written_mk]) ?_; with_reducible apply mk_steady)

theorem State.endPending_steady {s₀ : State} (s : State) (res guards : Nat) (hS : Steady s₀ s) :
    Steady s₀ (State.endPending s res guards) := by
  unfold State.endPending
  try dsimp only
  repeat' first
    | with_reducible assumption
    | with_reducible apply ite_steady
    | with_reducible apply State.clearPending_steady
    | with_reducible apply State.modeResult_steady
    | with_reducible exact id
    | with_reducible rfl
    | exact fun _ h => h
    | with_reducible exact fun h => tput_sorted _ h (Nat.zero_le _)
    | with_reducible exact tdel_sorted
    | exact fun _ => rfl
    | with_reducible exact fun h => Memory.writeWord_wf _ _ h
    | split

theorem State.modeAccept_steady {s₀ : State} (s : State) (target tag : Nat) (src : CmdSrc) (keyId : Nat) (hS : Steady s₀ s) :
    Steady s₀ (State.modeAccept s target tag src keyId) := by
  unfold State.modeAccept
  try dsimp only
  repeat' first
    | with_reducible assumption
    | with_reducible apply ite_steady
    | with_reducible apply State.modeResult_steady
    | with_reducible apply State.endPending_steady
    | with_reducible apply State.gnssWake_steady
    | with_reducible apply State.set_steady
    | with_reducible exact id
    | with_reducible rfl
    | exact fun _ h => h
    | with_reducible exact fun h => tput_sorted _ h (Nat.zero_le _)
    | with_reducible exact tdel_sorted
    | exact fun _ => rfl
    | with_reducible exact fun h => Memory.writeWord_wf _ _ h
    | (refine written_steady (by simp only [↓State.written_mk]) ?_; with_reducible apply mk_steady)

theorem State.modeCmd_steady {s₀ : State} (s : State) (target : Nat) (src : CmdSrc) (tag : Nat) (hS : Steady s₀ s) :
    Steady s₀ (State.modeCmd s target src tag) := by
  unfold State.modeCmd
  try dsimp only
  repeat' first
    | with_reducible assumption
    | with_reducible apply ite_steady
    | (with_reducible apply State.withRole_steady; intro t ht)
    | with_reducible apply State.set_steady
    | with_reducible apply State.lullLeave_steady
    | with_reducible apply State.modeAccept_steady
    | with_reducible exact id
    | with_reducible rfl
    | exact fun _ h => h
    | with_reducible exact fun h => tput_sorted _ h (Nat.zero_le _)
    | with_reducible exact tdel_sorted
    | exact fun _ => rfl
    | with_reducible exact fun h => Memory.writeWord_wf _ _ h
    | split

theorem State.enterMode_steady {s₀ : State} (s : State) (new : Nat) (hS : Steady s₀ s) :
    Steady s₀ (State.enterMode s new) := by
  unfold State.enterMode
  try dsimp only
  repeat' first
    | with_reducible assumption
    | with_reducible apply ite_steady
    | with_reducible apply State.injectionsStop_steady
    | with_reducible apply State.set_steady
    | with_reducible apply State.evt_steady
    | with_reducible apply State.record_steady

theorem State.safeEnter_steady {s₀ : State} (s : State) (cause kind : Nat) (hS : Steady s₀ s) :
    Steady s₀ (State.safeEnter s cause kind) := by
  unfold State.safeEnter
  try dsimp only
  repeat' first
    | with_reducible assumption
    | with_reducible apply ite_steady
    | with_reducible apply State.endPending_steady
    | with_reducible apply State.enterMode_steady
    | with_reducible apply State.set_steady
    | with_reducible apply State.safeCause_steady
    | with_reducible apply State.evt_steady
    | with_reducible apply State.gnssWake_steady
    | with_reducible apply State.safeContent_steady
    | with_reducible exact id
    | with_reducible rfl
    | exact fun _ h => h
    | with_reducible exact fun h => tput_sorted _ h (Nat.zero_le _)
    | with_reducible exact tdel_sorted
    | exact fun _ => rfl
    | with_reducible exact fun h => Memory.writeWord_wf _ _ h
    | (refine written_steady (by simp only [↓State.written_mk]) ?_; with_reducible apply mk_steady)

theorem State.gnssKeep_steady {s₀ : State} (s : State) (hS : Steady s₀ s) :
    Steady s₀ (State.gnssKeep s) := by
  unfold State.gnssKeep
  try dsimp only
  repeat' first
    | with_reducible assumption
    | with_reducible apply ite_steady
    | with_reducible exact id
    | with_reducible rfl
    | exact fun _ h => h
    | with_reducible exact fun h => tput_sorted _ h (Nat.zero_le _)
    | with_reducible exact tdel_sorted
    | exact fun _ => rfl
    | with_reducible exact fun h => Memory.writeWord_wf _ _ h
    | (refine written_steady (by simp only [↓State.written_mk]) ?_; with_reducible apply mk_steady)

theorem State.dormantEnter_steady {s₀ : State} (s : State) (hS : Steady s₀ s) :
    Steady s₀ (State.dormantEnter s) := by
  unfold State.dormantEnter
  try dsimp only
  repeat' first
    | with_reducible assumption
    | with_reducible apply ite_steady
    | with_reducible apply State.enterMode_steady
    | with_reducible apply State.gnssKeep_steady
    | with_reducible apply State.inc_steady
    | with_reducible exact id
    | with_reducible rfl
    | exact fun _ h => h
    | with_reducible exact fun h => tput_sorted _ h (Nat.zero_le _)
    | with_reducible exact tdel_sorted
    | exact fun _ => rfl
    | with_reducible exact fun h => Memory.writeWord_wf _ _ h
    | (refine written_steady (by simp only [↓State.written_mk]) ?_; with_reducible apply mk_steady)

theorem State.reads_steady {s₀ : State} (s : State) (p : Port) (v : Nat) (hS : Steady s₀ s) :
    Steady s₀ (State.reads s p v) := by
  unfold State.reads
  try dsimp only
  repeat' first
    | with_reducible assumption
    | with_reducible apply ite_steady
    | with_reducible exact id
    | with_reducible rfl
    | exact fun _ h => h
    | with_reducible exact fun h => tput_sorted _ h (Nat.zero_le _)
    | with_reducible exact tdel_sorted
    | exact fun _ => rfl
    | with_reducible exact fun h => Memory.writeWord_wf _ _ h
    | split
    | (refine written_steady (by simp only [↓State.written_mk]) ?_; with_reducible apply mk_steady)

end Sys2Proof.Machine
end

