-- ==== Sys2Proof/Laws/SteadyHelm.lean ====
section
/-!
SUPPORT. Every operation of Machine/Helm.lean keeps what `Steady` says.
-/

set_option Elab.async false

namespace Sys2Proof.Machine

open Sys2Proof

theorem State.lawAccept_steady {s₀ : State} (s : State) (law tag : Nat) (role : Role) (keyId : Nat) (hS : Steady s₀ s) :
    Steady s₀ (State.lawAccept s law tag role keyId) := by
  unfold State.lawAccept
  try dsimp only
  repeat' first
    | with_reducible assumption
    | with_reducible apply ite_steady
    | with_reducible apply State.helmResult_steady
    | with_reducible apply State.endLaw_steady
    | with_reducible exact id
    | with_reducible rfl
    | exact fun _ h => h
    | with_reducible exact fun h => tput_sorted _ h (Nat.zero_le _)
    | with_reducible exact tdel_sorted
    | exact fun _ => rfl
    | with_reducible exact fun h => Memory.writeWord_wf _ _ h
    | (refine written_steady (by simp only [↓State.written_mk]) ?_; with_reducible apply mk_steady)

theorem State.lawCmd_steady {s₀ : State} (s : State) (law : Nat) (src : CmdSrc) (tag : Nat) (hS : Steady s₀ s) :
    Steady s₀ (State.lawCmd s law src tag) := by
  unfold State.lawCmd
  try dsimp only
  repeat' first
    | with_reducible assumption
    | with_reducible apply ite_steady
    | (with_reducible apply State.operatorCmd_steady; intro t k ht)
    | with_reducible apply State.set_steady
    | with_reducible apply State.lawAccept_steady
    | with_reducible exact id
    | with_reducible rfl
    | exact fun _ h => h
    | with_reducible exact fun h => tput_sorted _ h (Nat.zero_le _)
    | with_reducible exact tdel_sorted
    | exact fun _ => rfl
    | with_reducible exact fun h => Memory.writeWord_wf _ _ h
    | split

theorem State.spAccept_steady {s₀ : State} (s : State) (v : SpVal) (tag : Nat) (role : Role) (keyId : Nat) (hS : Steady s₀ s) :
    Steady s₀ (State.spAccept s v tag role keyId) := by
  unfold State.spAccept
  try dsimp only
  repeat' first
    | with_reducible assumption
    | with_reducible apply ite_steady
    | with_reducible apply State.helmResult_steady
    | with_reducible apply State.endSp_steady
    | with_reducible exact id
    | with_reducible rfl
    | exact fun _ h => h
    | with_reducible exact fun h => tput_sorted _ h (Nat.zero_le _)
    | with_reducible exact tdel_sorted
    | exact fun _ => rfl
    | with_reducible exact fun h => Memory.writeWord_wf _ _ h
    | (refine written_steady (by simp only [↓State.written_mk]) ?_; with_reducible apply mk_steady)

theorem State.spCmd_steady {s₀ : State} (s : State) (kind : Nat) (src : CmdSrc) (tag : Nat) (hS : Steady s₀ s) :
    Steady s₀ (State.spCmd s kind src tag) := by
  unfold State.spCmd
  try dsimp only
  repeat' first
    | with_reducible assumption
    | with_reducible apply ite_steady
    | (with_reducible apply State.operatorCmd_steady; intro t k ht)
    | with_reducible apply State.set_steady
    | with_reducible apply State.spAccept_steady
    | with_reducible exact id
    | with_reducible rfl
    | exact fun _ h => h
    | with_reducible exact fun h => tput_sorted _ h (Nat.zero_le _)
    | with_reducible exact tdel_sorted
    | exact fun _ => rfl
    | with_reducible exact fun h => Memory.writeWord_wf _ _ h
    | split

theorem State.aim_steady {s₀ : State} (s : State) (goal : Rat × Rat) (hS : Steady s₀ s) :
    Steady s₀ (State.aim s goal) := by
  unfold State.aim
  try dsimp only
  repeat' first
    | with_reducible assumption
    | with_reducible apply ite_steady
    | with_reducible exact id
    | with_reducible rfl
    | exact fun _ h => h
    | with_reducible exact fun h => tput_sorted _ h (Nat.zero_le _)
    | with_reducible exact tdel_sorted
    | exact fun _ => rfl
    | with_reducible exact fun h => Memory.writeWord_wf _ _ h
    | (refine written_steady (by simp only [↓State.written_mk]) ?_; with_reducible apply mk_steady)

theorem State.shape_steady {s₀ : State} (s : State) (hS : Steady s₀ s) :
    Steady s₀ (State.shape s) := by
  unfold State.shape
  try dsimp only
  repeat' first
    | with_reducible assumption
    | with_reducible apply ite_steady
    | with_reducible apply State.aim_steady
    | with_reducible apply State.setB_steady
    | with_reducible exact id
    | with_reducible rfl
    | exact fun _ h => h
    | with_reducible exact fun h => tput_sorted _ h (Nat.zero_le _)
    | with_reducible exact tdel_sorted
    | exact fun _ => rfl
    | with_reducible exact fun h => Memory.writeWord_wf _ _ h
    | split
    | (refine written_steady (by simp only [↓State.written_mk]) ?_; with_reducible apply mk_steady)

theorem State.refRestart_steady {s₀ : State} (s : State) (track : Option Nat) (hS : Steady s₀ s) :
    Steady s₀ (State.refRestart s track) := by
  unfold State.refRestart
  try dsimp only
  repeat' first
    | with_reducible assumption
    | with_reducible apply ite_steady
    | with_reducible exact id
    | with_reducible rfl
    | exact fun _ h => h
    | with_reducible exact fun h => tput_sorted _ h (Nat.zero_le _)
    | with_reducible exact tdel_sorted
    | exact fun _ => rfl
    | with_reducible exact fun h => Memory.writeWord_wf _ _ h
    | split
    | (refine written_steady (by simp only [↓State.written_mk]) ?_; with_reducible apply mk_steady)

theorem State.onRoute_steady {s₀ : State} (s : State) (p : Rat × Rat) (v : SpVal) (hS : Steady s₀ s) :
    Steady s₀ (State.onRoute s p v) := by
  unfold State.onRoute
  try dsimp only
  repeat' first
    | with_reducible assumption
    | with_reducible apply ite_steady
    | with_reducible exact id
    | with_reducible rfl
    | exact fun _ h => h
    | with_reducible exact fun h => tput_sorted _ h (Nat.zero_le _)
    | with_reducible exact tdel_sorted
    | exact fun _ => rfl
    | with_reducible exact fun h => Memory.writeWord_wf _ _ h
    | (refine written_steady (by simp only [↓State.written_mk]) ?_; with_reducible apply mk_steady)

theorem State.startBlend_steady {s₀ : State} (s : State) (toReady : Bool) (hS : Steady s₀ s) :
    Steady s₀ (State.startBlend s toReady) := by
  unfold State.startBlend
  try dsimp only
  repeat' first
    | with_reducible assumption
    | with_reducible apply ite_steady
    | with_reducible apply State.set_steady
    | with_reducible exact id
    | with_reducible rfl
    | exact fun _ h => h
    | with_reducible exact fun h => tput_sorted _ h (Nat.zero_le _)
    | with_reducible exact tdel_sorted
    | exact fun _ => rfl
    | with_reducible exact fun h => Memory.writeWord_wf _ _ h
    | (refine written_steady (by simp only [↓State.written_mk]) ?_; with_reducible apply mk_steady)

theorem State.targetEnd_steady {s₀ : State} (s : State) (hS : Steady s₀ s) :
    Steady s₀ (State.targetEnd s) := by
  unfold State.targetEnd
  try dsimp only
  repeat' first
    | with_reducible assumption
    | with_reducible apply ite_steady
    | with_reducible apply State.clearAlarm_steady
    | with_reducible apply State.set_steady
    | with_reducible exact id
    | with_reducible rfl
    | exact fun _ h => h
    | with_reducible exact fun h => tput_sorted _ h (Nat.zero_le _)
    | with_reducible exact tdel_sorted
    | exact fun _ => rfl
    | with_reducible exact fun h => Memory.writeWord_wf _ _ h
    | split
    | (refine written_steady (by simp only [↓State.written_mk]) ?_; with_reducible apply mk_steady)

theorem State.setLaw_steady {s₀ : State} (s : State) (new cause : Nat) (role : Role) (keyId : Nat) (hS : Steady s₀ s) :
    Steady s₀ (State.setLaw s new cause role keyId) := by
  unfold State.setLaw
  try dsimp only
  repeat' first
    | with_reducible assumption
    | with_reducible apply ite_steady
    | with_reducible apply State.targetEnd_steady
    | with_reducible apply State.set_steady
    | with_reducible apply State.setB_steady
    | with_reducible apply State.refRestart_steady
    | with_reducible apply State.aim_steady
    | with_reducible apply State.evt_steady
    | with_reducible apply State.startBlend_steady
    | with_reducible apply State.onRoute_steady
    | with_reducible apply State.record_steady
    | with_reducible exact id
    | with_reducible rfl
    | exact fun _ h => h
    | with_reducible exact fun h => tput_sorted _ h (Nat.zero_le _)
    | with_reducible exact tdel_sorted
    | exact fun _ => rfl
    | with_reducible exact fun h => Memory.writeWord_wf _ _ h
    | split
    | (refine written_steady (by simp only [↓State.written_mk]) ?_; with_reducible apply mk_steady)

theorem State.helmModeEnter_steady {s₀ : State} (s : State) (new : Nat) (hS : Steady s₀ s) :
    Steady s₀ (State.helmModeEnter s new) := by
  unfold State.helmModeEnter
  try dsimp only
  repeat' first
    | with_reducible assumption
    | with_reducible apply ite_steady
    | with_reducible apply State.setLaw_steady
    | with_reducible exact id
    | with_reducible rfl
    | exact fun _ h => h
    | with_reducible exact fun h => tput_sorted _ h (Nat.zero_le _)
    | with_reducible exact tdel_sorted
    | exact fun _ => rfl
    | with_reducible exact fun h => Memory.writeWord_wf _ _ h
    | (refine written_steady (by simp only [↓State.written_mk]) ?_; with_reducible apply mk_steady)

theorem State.lawDue_steady {s₀ : State} (s : State) (hS : Steady s₀ s) :
    Steady s₀ (State.lawDue s) := by
  unfold State.lawDue
  try dsimp only
  repeat' first
    | with_reducible assumption
    | with_reducible apply ite_steady
    | with_reducible apply State.helmResult_steady
    | with_reducible apply State.setLaw_steady
    | with_reducible exact id
    | with_reducible rfl
    | exact fun _ h => h
    | with_reducible exact fun h => tput_sorted _ h (Nat.zero_le _)
    | with_reducible exact tdel_sorted
    | exact fun _ => rfl
    | with_reducible exact fun h => Memory.writeWord_wf _ _ h
    | split
    | (refine written_steady (by simp only [↓State.written_mk]) ?_; with_reducible apply mk_steady)

theorem State.spDue_steady {s₀ : State} (s : State) (fresh : Bool) (hS : Steady s₀ s) :
    Steady s₀ (State.spDue s fresh) := by
  unfold State.spDue
  try dsimp only
  repeat' first
    | with_reducible assumption
    | with_reducible apply ite_steady
    | with_reducible apply State.helmResult_steady
    | with_reducible apply State.onRoute_steady
    | with_reducible apply State.aim_steady
    | with_reducible exact id
    | with_reducible rfl
    | exact fun _ h => h
    | with_reducible exact fun h => tput_sorted _ h (Nat.zero_le _)
    | with_reducible exact tdel_sorted
    | exact fun _ => rfl
    | with_reducible exact fun h => Memory.writeWord_wf _ _ h
    | split
    | (refine written_steady (by simp only [↓State.written_mk]) ?_; with_reducible apply mk_steady)

theorem State.targetLostDue_steady {s₀ : State} (s : State) (hS : Steady s₀ s) :
    Steady s₀ (State.targetLostDue s) := by
  unfold State.targetLostDue
  try dsimp only
  repeat' first
    | with_reducible assumption
    | with_reducible apply ite_steady
    | with_reducible apply State.setLaw_steady

theorem State.setScenarios_steady {s₀ : State} (s : State) (hS : Steady s₀ s) :
    Steady s₀ (State.setScenarios s) := by
  unfold State.setScenarios
  try dsimp only
  repeat' first
    | with_reducible assumption
    | with_reducible apply ite_steady
    | with_reducible apply State.set_steady
    | with_reducible apply State.record_steady

theorem State.helmBoundary_steady {s₀ : State} (s : State) (hS : Steady s₀ s) :
    Steady s₀ (State.helmBoundary s) := by
  unfold State.helmBoundary
  try dsimp only
  repeat' first
    | with_reducible assumption
    | with_reducible apply ite_steady
    | with_reducible apply State.targetLostDue_steady
    | with_reducible apply State.lawDue_steady
    | with_reducible apply State.spDue_steady
    | with_reducible exact id
    | with_reducible rfl
    | exact fun _ h => h
    | with_reducible exact fun h => tput_sorted _ h (Nat.zero_le _)
    | with_reducible exact tdel_sorted
    | exact fun _ => rfl
    | with_reducible exact fun h => Memory.writeWord_wf _ _ h
    | (refine written_steady (by simp only [↓State.written_mk]) ?_; with_reducible apply mk_steady)

theorem State.helmCycle_steady {s₀ : State} (s : State) (hS : Steady s₀ s) :
    Steady s₀ (State.helmCycle s) := by
  unfold State.helmCycle
  try dsimp only
  repeat' first
    | with_reducible assumption
    | with_reducible apply ite_steady
    | with_reducible exact id
    | with_reducible rfl
    | exact fun _ h => h
    | with_reducible exact fun h => tput_sorted _ h (Nat.zero_le _)
    | with_reducible exact tdel_sorted
    | exact fun _ => rfl
    | with_reducible exact fun h => Memory.writeWord_wf _ _ h
    | (refine written_steady (by simp only [↓State.written_mk]) ?_; with_reducible apply mk_steady)

theorem State.joyAxis_steady {s₀ : State} (s : State) (a : Nat) (hS : Steady s₀ s) :
    Steady s₀ (State.joyAxis s a) := by
  unfold State.joyAxis
  try dsimp only
  repeat' first
    | with_reducible assumption
    | with_reducible apply ite_steady
    | with_reducible apply State.set_steady
    | with_reducible apply State.evt_steady
    | with_reducible apply State.clearAlarm_steady
    | with_reducible apply State.alarm_steady
    | with_reducible exact id
    | with_reducible rfl
    | exact fun _ h => h
    | with_reducible exact fun h => tput_sorted _ h (Nat.zero_le _)
    | with_reducible exact tdel_sorted
    | exact fun _ => rfl
    | with_reducible exact fun h => Memory.writeWord_wf _ _ h
    | (refine written_steady (by simp only [↓State.written_mk]) ?_; with_reducible apply mk_steady)

theorem State.blendFirst_steady {s₀ : State} (s : State) (b : Blend) (new : List Rat) (hS : Steady s₀ s) :
    Steady s₀ (State.blendFirst s b new) := by
  unfold State.blendFirst
  try dsimp only
  repeat' first
    | with_reducible assumption
    | with_reducible apply ite_steady
    | with_reducible apply State.setU_steady
    | with_reducible apply State.evt_steady
    | with_reducible apply State.setB_steady
    | with_reducible apply State.record_steady
    | with_reducible exact id
    | with_reducible rfl
    | exact fun _ h => h
    | with_reducible exact fun h => tput_sorted _ h (Nat.zero_le _)
    | with_reducible exact tdel_sorted
    | exact fun _ => rfl
    | with_reducible exact fun h => Memory.writeWord_wf _ _ h
    | (refine written_steady (by simp only [↓State.written_mk]) ?_; with_reducible apply mk_steady)

theorem State.helmPoints_steady {s₀ : State} (s : State) (hS : Steady s₀ s) :
    Steady s₀ (State.helmPoints s) := by
  unfold State.helmPoints
  try dsimp only
  repeat' first
    | with_reducible assumption
    | with_reducible apply ite_steady
    | with_reducible apply State.commitAll_steady

theorem State.helmOutput_steady {s₀ : State} (s : State) (new : List Rat) (hS : Steady s₀ s) :
    Steady s₀ (State.helmOutput s new) := by
  unfold State.helmOutput
  try dsimp only
  repeat' first
    | with_reducible assumption
    | with_reducible apply ite_steady
    | with_reducible apply State.blendFirst_steady
    | with_reducible apply State.setQ_steady
    | with_reducible apply State.setU_steady
    | with_reducible apply State.set_steady
    | with_reducible apply State.helmPoints_steady
    | with_reducible apply State.allocSubmit_steady
    | with_reducible exact id
    | with_reducible rfl
    | exact fun _ h => h
    | with_reducible exact fun h => tput_sorted _ h (Nat.zero_le _)
    | with_reducible exact tdel_sorted
    | exact fun _ => rfl
    | with_reducible exact fun h => Memory.writeWord_wf _ _ h
    | split
    | (refine written_steady (by simp only [↓State.written_mk]) ?_; with_reducible apply mk_steady)

theorem State.terms_steady {s₀ : State} (s : State) (f : Fld) (axis q : Nat) (hS : Steady s₀ s) :
    Steady s₀ (State.terms s f axis q) := by
  unfold State.terms
  try dsimp only
  repeat' first
    | with_reducible assumption
    | with_reducible apply ite_steady
    | with_reducible apply State.setB_steady
    | with_reducible apply State.evt_steady
    | with_reducible apply State.clearAlarm_steady
    | with_reducible apply State.alarm_steady
    | with_reducible exact id
    | with_reducible rfl
    | exact fun _ h => h
    | with_reducible exact fun h => tput_sorted _ h (Nat.zero_le _)
    | with_reducible exact tdel_sorted
    | exact fun _ => rfl
    | with_reducible exact fun h => Memory.writeWord_wf _ _ h
    | (refine written_steady (by simp only [↓State.written_mk]) ?_; with_reducible apply mk_steady)

theorem State.helmTerms_steady {s₀ : State} (s : State) (hS : Steady s₀ s) :
    Steady s₀ (State.helmTerms s) := by
  unfold State.helmTerms
  try dsimp only
  repeat' first
    | with_reducible assumption
    | with_reducible apply ite_steady
    | with_reducible apply State.terms_steady
    | with_reducible apply State.refRestart_steady
    | with_reducible apply State.onRoute_steady
    | with_reducible apply State.aim_steady
    | with_reducible exact id
    | with_reducible rfl
    | exact fun _ h => h
    | with_reducible exact fun h => tput_sorted _ h (Nat.zero_le _)
    | with_reducible exact tdel_sorted
    | exact fun _ => rfl
    | with_reducible exact fun h => Memory.writeWord_wf _ _ h
    | split
    | (refine written_steady (by simp only [↓State.written_mk]) ?_; with_reducible apply mk_steady)

theorem State.targetWatch_steady {s₀ : State} (s : State) (hS : Steady s₀ s) :
    Steady s₀ (State.targetWatch s) := by
  unfold State.targetWatch
  try dsimp only
  repeat' first
    | with_reducible assumption
    | with_reducible apply ite_steady
    | with_reducible apply State.setB_steady
    | with_reducible apply State.evt_steady
    | with_reducible apply State.clearAlarm_steady
    | with_reducible apply State.alarm_steady
    | with_reducible exact id
    | with_reducible rfl
    | exact fun _ h => h
    | with_reducible exact fun h => tput_sorted _ h (Nat.zero_le _)
    | with_reducible exact tdel_sorted
    | exact fun _ => rfl
    | with_reducible exact fun h => Memory.writeWord_wf _ _ h
    | split
    | (refine written_steady (by simp only [↓State.written_mk]) ?_; with_reducible apply mk_steady)

theorem State.helmSubmit_steady {s₀ : State} (s : State) (hS : Steady s₀ s) :
    Steady s₀ (State.helmSubmit s) := by
  unfold State.helmSubmit
  try dsimp only
  repeat' first
    | with_reducible assumption
    | with_reducible apply ite_steady
    | with_reducible apply State.yuzSubmit_steady
    | with_reducible exact id
    | with_reducible rfl
    | exact fun _ h => h
    | with_reducible exact fun h => tput_sorted _ h (Nat.zero_le _)
    | with_reducible exact tdel_sorted
    | exact fun _ => rfl
    | with_reducible exact fun h => Memory.writeWord_wf _ _ h
    | (refine written_steady (by simp only [↓State.written_mk]) ?_; with_reducible apply mk_steady)

theorem State.helmBuild_steady {s₀ : State} (s : State) (hS : Steady s₀ s) :
    Steady s₀ (State.helmBuild s) := by
  unfold State.helmBuild
  try dsimp only
  repeat' first
    | with_reducible assumption
    | with_reducible apply ite_steady
    | with_reducible apply State.helmOutput_steady
    | with_reducible apply State.helmTerms_steady
    | with_reducible apply State.targetWatch_steady
    | with_reducible apply State.shape_steady
    | with_reducible apply State.helmSubmit_steady
    | with_reducible exact id
    | with_reducible rfl
    | exact fun _ h => h
    | with_reducible exact fun h => tput_sorted _ h (Nat.zero_le _)
    | with_reducible exact tdel_sorted
    | exact fun _ => rfl
    | with_reducible exact fun h => Memory.writeWord_wf _ _ h
    | (refine written_steady (by simp only [↓State.written_mk]) ?_; with_reducible apply mk_steady)

theorem State.helmMissed_steady {s₀ : State} (s : State) (hS : Steady s₀ s) :
    Steady s₀ (State.helmMissed s) := by
  unfold State.helmMissed
  try dsimp only
  repeat' first
    | with_reducible assumption
    | with_reducible apply ite_steady
    | with_reducible apply State.set_steady
    | with_reducible apply State.noteMiss_steady
    | with_reducible apply State.evt_steady
    | with_reducible apply State.inc_steady
    | with_reducible apply State.record_steady

theorem State.helmNumeric_steady {s₀ : State} (s : State) (hS : Steady s₀ s) :
    Steady s₀ (State.helmNumeric s) := by
  unfold State.helmNumeric
  try dsimp only
  repeat' first
    | with_reducible assumption
    | with_reducible apply ite_steady
    | with_reducible apply State.set_steady
    | with_reducible apply State.evt_steady
    | with_reducible apply State.setB_steady
    | with_reducible apply State.record_steady

end Sys2Proof.Machine
end

