-- ==== Sys2Proof/Laws/SteadyPower.lean ====
section
/-!
SUPPORT. Every operation of Machine/Power.lean keeps what `Steady` says.
-/

set_option Elab.async false

namespace Sys2Proof.Machine

open Sys2Proof

theorem State.lullFrame_steady {s₀ : State} (s : State) (hS : Steady s₀ s) :
    Steady s₀ (State.lullFrame s) := by
  unfold State.lullFrame
  try dsimp only
  repeat' first
    | with_reducible assumption
    | with_reducible apply ite_steady
    | with_reducible apply State.set_steady
    | with_reducible exact id
    | with_reducible rfl
    | exact fun _ h => h
    | with_reducible exact fun h => tput_sorted _ h (Nat.zero_le _)
    | with_reducible exact tdel_sorted
    | exact fun _ => rfl
    | with_reducible exact fun h => Memory.writeWord_wf _ _ h
    | split
    | (refine written_steady (by simp only [↓State.written_mk]) ?_; with_reducible apply mk_steady)

theorem State.lullEnter_steady {s₀ : State} (s : State) (follower : Bool) (hS : Steady s₀ s) :
    Steady s₀ (State.lullEnter s follower) := by
  unfold State.lullEnter
  try dsimp only
  repeat' first
    | with_reducible assumption
    | with_reducible apply ite_steady
    | with_reducible apply State.inc_steady
    | with_reducible apply State.record_steady
    | with_reducible apply State.set_steady
    | with_reducible apply State.evt_steady
    | with_reducible exact id
    | with_reducible rfl
    | exact fun _ h => h
    | with_reducible exact fun h => tput_sorted _ h (Nat.zero_le _)
    | with_reducible exact tdel_sorted
    | exact fun _ => rfl
    | with_reducible exact fun h => Memory.writeWord_wf _ _ h
    | (refine written_steady (by simp only [↓State.written_mk]) ?_; with_reducible apply mk_steady)

theorem State.lullResume_steady {s₀ : State} (s : State) (hS : Steady s₀ s) :
    Steady s₀ (State.lullResume s) := by
  unfold State.lullResume
  try dsimp only
  repeat' first
    | with_reducible assumption
    | with_reducible apply ite_steady
    | with_reducible exact id
    | with_reducible rfl
    | exact fun _ h => h
    | with_reducible exact fun h => tput_sorted _ h (Nat.zero_le _)
    | with_reducible exact tdel_sorted
    | exact fun _ => rfl
    | with_reducible exact fun h => Memory.writeWord_wf _ _ h
    | (refine written_steady (by simp only [↓State.written_mk]) ?_; with_reducible apply mk_steady)

theorem State.setGated_steady {s₀ : State} (s : State) (dom : Nat) (b : Bool) (hS : Steady s₀ s) :
    Steady s₀ (State.setGated s dom b) := by
  unfold State.setGated
  try dsimp only
  repeat' first
    | with_reducible assumption
    | with_reducible apply ite_steady
    | with_reducible apply State.setBitOf_steady
    | with_reducible apply State.setB_steady

theorem State.wakeBy_steady {s₀ : State} (s : State) (f : Fld) (v : Nat) (host : Bool) (hS : Steady s₀ s) :
    Steady s₀ (State.wakeBy s f v host) := by
  unfold State.wakeBy
  try dsimp only
  repeat' first
    | with_reducible assumption
    | with_reducible apply ite_steady
    | with_reducible apply State.set_steady
    | with_reducible exact id
    | with_reducible rfl
    | exact fun _ h => h
    | with_reducible exact fun h => tput_sorted _ h (Nat.zero_le _)
    | with_reducible exact tdel_sorted
    | exact fun _ => rfl
    | with_reducible exact fun h => Memory.writeWord_wf _ _ h
    | (refine written_steady (by simp only [↓State.written_mk]) ?_; with_reducible apply mk_steady)

theorem State.sensTake_steady {s₀ : State} (s : State) (n count : Nat) (temp : Int) (hS : Steady s₀ s) :
    Steady s₀ (State.sensTake s n count temp) := by
  unfold State.sensTake
  try dsimp only
  repeat' first
    | with_reducible assumption
    | with_reducible apply ite_steady
    | with_reducible apply State.set_steady
    | with_reducible apply State.setI_steady
    | with_reducible exact id
    | with_reducible rfl
    | exact fun _ h => h
    | with_reducible exact fun h => tput_sorted _ h (Nat.zero_le _)
    | with_reducible exact tdel_sorted
    | exact fun _ => rfl
    | with_reducible exact fun h => Memory.writeWord_wf _ _ h
    | (refine written_steady (by simp only [↓State.written_mk]) ?_; with_reducible apply mk_steady)

theorem State.brokenJudge_steady {s₀ : State} (s : State) (sensor : Nat) (hS : Steady s₀ s) :
    Steady s₀ (State.brokenJudge s sensor) := by
  unfold State.brokenJudge
  try dsimp only
  repeat' first
    | with_reducible assumption
    | with_reducible apply ite_steady
    | with_reducible apply State.set_steady
    | with_reducible apply State.record_steady
    | with_reducible apply State.setB_steady
    | with_reducible apply State.faultNote_steady
    | with_reducible apply State.trigger_steady

theorem State.setAlert_steady {s₀ : State} (s : State) (hS : Steady s₀ s) :
    Steady s₀ (State.setAlert s) := by
  unfold State.setAlert
  try dsimp only
  repeat' first
    | with_reducible assumption
    | with_reducible apply ite_steady
    | with_reducible apply State.setB_steady

theorem State.nvmJudge_steady {s₀ : State} (s : State) (n : Nat) (h : Int) (first : Bool) (hS : Steady s₀ s) :
    Steady s₀ (State.nvmJudge s n h first) := by
  unfold State.nvmJudge
  try dsimp only
  repeat' first
    | with_reducible assumption
    | with_reducible apply ite_steady
    | with_reducible apply State.record_steady
    | with_reducible apply State.setB_steady
    | with_reducible apply State.set_steady
    | with_reducible apply State.evt_steady

theorem State.softJudge_steady {s₀ : State} (s : State) (n : Nat) (h : Int) (hS : Steady s₀ s) :
    Steady s₀ (State.softJudge s n h) := by
  unfold State.softJudge
  try dsimp only
  repeat' first
    | with_reducible assumption
    | with_reducible apply ite_steady
    | with_reducible apply State.set_steady
    | with_reducible apply State.evt_steady
    | with_reducible apply State.record_steady
    | with_reducible apply State.lullLeave_steady

theorem State.hardJudge_steady {s₀ : State} (s : State) (n : Nat) (h : Int) (hS : Steady s₀ s) :
    Steady s₀ (State.hardJudge s n h) := by
  unfold State.hardJudge
  try dsimp only
  repeat' first
    | with_reducible assumption
    | with_reducible apply ite_steady
    | with_reducible apply State.set_steady
    | with_reducible apply State.evt_steady
    | with_reducible apply State.record_steady
    | with_reducible apply State.faultNote_steady
    | with_reducible apply State.trigger_steady
    | with_reducible exact id
    | with_reducible rfl
    | exact fun _ h => h
    | with_reducible exact fun h => tput_sorted _ h (Nat.zero_le _)
    | with_reducible exact tdel_sorted
    | exact fun _ => rfl
    | with_reducible exact fun h => Memory.writeWord_wf _ _ h
    | (refine written_steady (by simp only [↓State.written_mk]) ?_; with_reducible apply mk_steady)

theorem State.shutJudge_steady {s₀ : State} (s : State) (n : Nat) (h : Int) (hS : Steady s₀ s) :
    Steady s₀ (State.shutJudge s n h) := by
  unfold State.shutJudge
  try dsimp only
  repeat' first
    | with_reducible assumption
    | with_reducible apply ite_steady
    | with_reducible exact id
    | with_reducible rfl
    | exact fun _ h => h
    | with_reducible exact fun h => tput_sorted _ h (Nat.zero_le _)
    | with_reducible exact tdel_sorted
    | exact fun _ => rfl
    | with_reducible exact fun h => Memory.writeWord_wf _ _ h
    | (refine written_steady (by simp only [↓State.written_mk]) ?_; with_reducible apply mk_steady)

theorem State.sensNote_steady {s₀ : State} (s : State) (n cause : Nat) (hS : Steady s₀ s) :
    Steady s₀ (State.sensNote s n cause) := by
  unfold State.sensNote
  try dsimp only
  repeat' first
    | with_reducible assumption
    | with_reducible apply ite_steady
    | with_reducible apply State.record_steady

theorem State.fcBreadth_steady {s₀ : State} (s : State) (l m : Nat) (hS : Steady s₀ s) :
    Steady s₀ (State.fcBreadth s l m) := by
  unfold State.fcBreadth
  try dsimp only
  repeat' first
    | with_reducible assumption
    | with_reducible apply ite_steady
    | with_reducible apply State.set_steady
    | with_reducible exact id
    | with_reducible rfl
    | exact fun _ h => h
    | with_reducible exact fun h => tput_sorted _ h (Nat.zero_le _)
    | with_reducible exact tdel_sorted
    | exact fun _ => rfl
    | with_reducible exact fun h => Memory.writeWord_wf _ _ h
    | (refine written_steady (by simp only [↓State.written_mk]) ?_; with_reducible apply mk_steady)

theorem State.fcLevel_steady {s₀ : State} (s : State) (new : Nat) (p t : Rat) (binding : Nat) (hS : Steady s₀ s) :
    Steady s₀ (State.fcLevel s new p t binding) := by
  unfold State.fcLevel
  try dsimp only
  repeat' first
    | with_reducible assumption
    | with_reducible apply ite_steady
    | with_reducible apply State.set_steady
    | with_reducible apply State.evt_steady
    | with_reducible apply State.record_steady

theorem State.fcSet_steady {s₀ : State} (s : State) (new : Nat) (p t : Rat) (binding : Nat) (hS : Steady s₀ s) :
    Steady s₀ (State.fcSet s new p t binding) := by
  unfold State.fcSet
  try dsimp only
  repeat' first
    | with_reducible assumption
    | with_reducible apply ite_steady
    | with_reducible apply State.setB_steady
    | with_reducible apply State.fcLevel_steady
    | with_reducible exact id
    | with_reducible rfl
    | exact fun _ h => h
    | with_reducible exact fun h => tput_sorted _ h (Nat.zero_le _)
    | with_reducible exact tdel_sorted
    | exact fun _ => rfl
    | with_reducible exact fun h => Memory.writeWord_wf _ _ h
    | (refine written_steady (by simp only [↓State.written_mk]) ?_; with_reducible apply mk_steady)

theorem State.fcStep_steady {s₀ : State} (s : State) (c : PowerCfg) (old : Nat) (p t : Nat → Rat) (hS : Steady s₀ s) :
    Steady s₀ (State.fcStep s c old p t) := by
  unfold State.fcStep
  try dsimp only
  repeat' first
    | with_reducible assumption
    | with_reducible apply ite_steady
    | with_reducible apply State.setB_steady
    | with_reducible apply State.fcSet_steady
    | with_reducible exact id
    | with_reducible rfl
    | exact fun _ h => h
    | with_reducible exact fun h => tput_sorted _ h (Nat.zero_le _)
    | with_reducible exact tdel_sorted
    | exact fun _ => rfl
    | with_reducible exact fun h => Memory.writeWord_wf _ _ h
    | split
    | (refine written_steady (by simp only [↓State.written_mk]) ?_; with_reducible apply mk_steady)

theorem State.fcExceeded_steady {s₀ : State} (s : State) (p8 t8 : Rat) (over8 : Bool) (hS : Steady s₀ s) :
    Steady s₀ (State.fcExceeded s p8 t8 over8) := by
  unfold State.fcExceeded
  try dsimp only
  repeat' first
    | with_reducible assumption
    | with_reducible apply ite_steady
    | with_reducible apply State.setB_steady
    | with_reducible apply State.evt_steady
    | with_reducible apply State.clearAlarm_steady
    | with_reducible apply State.alarm_steady

theorem State.fcShow_steady {s₀ : State} (s : State) (pred avg temp : Rat) (hS : Steady s₀ s) :
    Steady s₀ (State.fcShow s pred avg temp) := by
  unfold State.fcShow
  try dsimp only
  repeat' first
    | with_reducible assumption
    | with_reducible apply ite_steady
    | with_reducible apply State.setU_steady
    | with_reducible apply State.setI_steady
    | with_reducible apply State.setSat_steady
    | with_reducible apply State.setQ_steady

theorem State.fcPlan_steady {s₀ : State} (s : State) (plan : List (List Rat)) (past : List Rat) (hS : Steady s₀ s) :
    Steady s₀ (State.fcPlan s plan past) := by
  unfold State.fcPlan
  try dsimp only
  repeat' first
    | with_reducible assumption
    | with_reducible apply ite_steady
    | with_reducible apply State.fcStep_steady
    | with_reducible apply State.fcExceeded_steady
    | with_reducible apply State.fcShow_steady
    | with_reducible apply State.set_steady
    | with_reducible apply State.fcBreadth_steady
    | with_reducible exact id
    | with_reducible rfl
    | exact fun _ h => h
    | with_reducible exact fun h => tput_sorted _ h (Nat.zero_le _)
    | with_reducible exact tdel_sorted
    | exact fun _ => rfl
    | with_reducible exact fun h => Memory.writeWord_wf _ _ h
    | split
    | (refine written_steady (by simp only [↓State.written_mk]) ?_; with_reducible apply mk_steady)

theorem State.fcFollow_steady {s₀ : State} (s : State) (level : Nat) (hS : Steady s₀ s) :
    Steady s₀ (State.fcFollow s level) := by
  unfold State.fcFollow
  try dsimp only
  repeat' first
    | with_reducible assumption
    | with_reducible apply ite_steady
    | with_reducible apply State.fcLevel_steady
    | with_reducible apply State.set_steady
    | with_reducible apply State.fcBreadth_steady

end Sys2Proof.Machine
end

