-- ==== Sys2Proof/Laws/SteadyTime.lean ====
section
/-!
SUPPORT. Every operation of Machine/Time.lean keeps what `Steady` says.
-/

set_option Elab.async false

namespace Sys2Proof.Machine

open Sys2Proof

theorem State.latchTime_steady {s₀ : State} (s : State) (hS : Steady s₀ s) :
    Steady s₀ (State.latchTime s) := by
  unfold State.latchTime
  try dsimp only
  repeat' first
    | with_reducible assumption
    | with_reducible apply ite_steady
    | with_reducible apply State.set_steady

theorem State.srcSeen_steady {s₀ : State} (s : State) (src : Nat) (ofs : Int) (hS : Steady s₀ s) :
    Steady s₀ (State.srcSeen s src ofs) := by
  unfold State.srcSeen
  try dsimp only
  repeat' first
    | with_reducible assumption
    | with_reducible apply ite_steady
    | with_reducible exact id
    | with_reducible rfl
    | exact fun _ h => h
    | with_reducible exact fun h => tput_sorted _ h (Nat.zero_le _)
    | with_reducible exact tdel_sorted
    | exact fun _ => rfl
    | with_reducible exact fun h => Memory.writeWord_wf _ _ h
    | (refine written_steady (by simp only [↓State.written_mk]) ?_; with_reducible apply mk_steady)

theorem State.setSrc_steady {s₀ : State} (s : State) (src : Nat) (hS : Steady s₀ s) :
    Steady s₀ (State.setSrc s src) := by
  unfold State.setSrc
  try dsimp only
  repeat' first
    | with_reducible assumption
    | with_reducible apply ite_steady
    | with_reducible apply State.set_steady
    | with_reducible apply State.evt_steady
    | with_reducible apply State.timeEvent_steady

theorem State.validFix_steady {s₀ : State} (s : State) (src : Nat) (ofs : Int) (hS : Steady s₀ s) :
    Steady s₀ (State.validFix s src ofs) := by
  unfold State.validFix
  try dsimp only
  repeat' first
    | with_reducible assumption
    | with_reducible apply ite_steady
    | with_reducible apply State.srcSeen_steady
    | with_reducible exact id
    | with_reducible rfl
    | exact fun _ h => h
    | with_reducible exact fun h => tput_sorted _ h (Nat.zero_le _)
    | with_reducible exact tdel_sorted
    | exact fun _ => rfl
    | with_reducible exact fun h => Memory.writeWord_wf _ _ h
    | split
    | (refine written_steady (by simp only [↓State.written_mk]) ?_; with_reducible apply mk_steady)

theorem State.stepTriggers_steady {s₀ : State} (s : State) (l : List (TrigCfg × Nat)) (h : Steady s₀ s) :
    Steady s₀ (s.stepTriggers l) := by
  induction l generalizing s with
  | nil => exact h
  | cons x t ih =>
    obtain ⟨c, u⟩ := x
    unfold State.stepTriggers
    dsimp only
    apply ih
    split
    · exact trigTarget_steady _ _ (record_steady _ _ (inc_steady _ _ _ _ (set_steady _ _ _ _ h)))
    · split
      · exact record_steady _ _ (set_steady _ _ _ _ h)
      · exact h

theorem State.openUnc_steady {s₀ : State} (s : State) (hS : Steady s₀ s) :
    Steady s₀ (State.openUnc s) := by
  unfold State.openUnc
  try dsimp only
  repeat' first
    | with_reducible assumption
    | with_reducible apply ite_steady
    | with_reducible apply State.set_steady

theorem State.openQerr_steady {s₀ : State} (s : State) (hS : Steady s₀ s) :
    Steady s₀ (State.openQerr s) := by
  unfold State.openQerr
  try dsimp only
  repeat' first
    | with_reducible assumption
    | with_reducible apply ite_steady
    | with_reducible apply State.setI_steady

theorem State.stepShow_steady {s₀ : State} (s : State) (src : Nat) (d : Int) (p : Pm) (hS : Steady s₀ s) :
    Steady s₀ (State.stepShow s src d p) := by
  unfold State.stepShow
  try dsimp only
  repeat' first
    | with_reducible assumption
    | with_reducible apply ite_steady
    | with_reducible apply State.set_steady
    | with_reducible apply State.setI_steady
    | with_reducible apply State.openQerr_steady
    | with_reducible apply State.openUnc_steady

theorem State.stepGrid_steady {s₀ : State} (s : State) (hS : Steady s₀ s) :
    Steady s₀ (State.stepGrid s) := by
  unfold State.stepGrid
  try dsimp only
  repeat' first
    | with_reducible assumption
    | with_reducible apply ite_steady
    | with_reducible apply State.setI_steady
    | with_reducible apply State.evt_steady
    | with_reducible exact id
    | with_reducible rfl
    | exact fun _ h => h
    | with_reducible exact fun h => tput_sorted _ h (Nat.zero_le _)
    | with_reducible exact tdel_sorted
    | exact fun _ => rfl
    | with_reducible exact fun h => Memory.writeWord_wf _ _ h
    | (refine written_steady (by simp only [↓State.written_mk]) ?_; with_reducible apply mk_steady)

theorem State.ppsNext_steady {s₀ : State} (s : State) (hS : Steady s₀ s) :
    Steady s₀ (State.ppsNext s) := by
  unfold State.ppsNext
  try dsimp only
  repeat' first
    | with_reducible assumption
    | with_reducible apply ite_steady
    | with_reducible apply State.setB_steady

theorem State.makeStep_steady {s₀ : State} (s : State) (src : Nat) (d : Int) (hS : Steady s₀ s) :
    Steady s₀ (State.makeStep s src d) := by
  unfold State.makeStep
  try dsimp only
  repeat' first
    | with_reducible assumption
    | with_reducible apply ite_steady
    | with_reducible apply State.stepShow_steady
    | with_reducible apply State.timeEvent_steady
    | with_reducible apply State.ppsNext_steady
    | with_reducible apply State.stepGrid_steady
    | with_reducible apply State.ethRephase_steady
    | with_reducible apply State.stepTriggers_steady
    | with_reducible exact id
    | with_reducible rfl
    | exact fun _ h => h
    | with_reducible exact fun h => tput_sorted _ h (Nat.zero_le _)
    | with_reducible exact tdel_sorted
    | exact fun _ => rfl
    | with_reducible exact fun h => Memory.writeWord_wf _ _ h
    | (refine written_steady (by simp only [↓State.written_mk]) ?_; with_reducible apply mk_steady)

theorem State.offsetAlarm_steady {s₀ : State} (s : State) (src : Nat) (ofs : Int) (hS : Steady s₀ s) :
    Steady s₀ (State.offsetAlarm s src ofs) := by
  unfold State.offsetAlarm
  try dsimp only
  repeat' first
    | with_reducible assumption
    | with_reducible apply ite_steady
    | with_reducible apply State.alarm_steady
    | with_reducible apply State.clearAlarm_steady
    | with_reducible exact id
    | with_reducible rfl
    | exact fun _ h => h
    | with_reducible exact fun h => tput_sorted _ h (Nat.zero_le _)
    | with_reducible exact tdel_sorted
    | exact fun _ => rfl
    | with_reducible exact fun h => Memory.writeWord_wf _ _ h
    | (refine written_steady (by simp only [↓State.written_mk]) ?_; with_reducible apply mk_steady)

theorem State.holdover_steady {s₀ : State} (s : State) (hS : Steady s₀ s) :
    Steady s₀ (State.holdover s) := by
  unfold State.holdover
  try dsimp only
  repeat' first
    | with_reducible assumption
    | with_reducible apply ite_steady
    | with_reducible apply State.set_steady
    | with_reducible apply State.evt_steady
    | with_reducible apply State.setQ_steady
    | with_reducible apply State.timeEvent_steady
    | with_reducible exact id
    | with_reducible rfl
    | exact fun _ h => h
    | with_reducible exact fun h => tput_sorted _ h (Nat.zero_le _)
    | with_reducible exact tdel_sorted
    | exact fun _ => rfl
    | with_reducible exact fun h => Memory.writeWord_wf _ _ h
    | (refine written_steady (by simp only [↓State.written_mk]) ?_; with_reducible apply mk_steady)

theorem State.gridTick_steady {s₀ : State} (s : State) (hS : Steady s₀ s) :
    Steady s₀ (State.gridTick s) := by
  unfold State.gridTick
  try dsimp only
  repeat' first
    | with_reducible assumption
    | with_reducible apply ite_steady
    | with_reducible apply State.setI_steady

theorem State.utcUpdate_steady {s₀ : State} (s : State) (hS : Steady s₀ s) :
    Steady s₀ (State.utcUpdate s) := by
  unfold State.utcUpdate
  try dsimp only
  repeat' first
    | with_reducible assumption
    | with_reducible apply ite_steady
    | with_reducible apply State.setI_steady
    | with_reducible apply State.evt_steady
    | with_reducible apply State.record_steady
    | with_reducible exact id
    | with_reducible rfl
    | exact fun _ h => h
    | with_reducible exact fun h => tput_sorted _ h (Nat.zero_le _)
    | with_reducible exact tdel_sorted
    | exact fun _ => rfl
    | with_reducible exact fun h => Memory.writeWord_wf _ _ h
    | split
    | (refine written_steady (by simp only [↓State.written_mk]) ?_; with_reducible apply mk_steady)

theorem State.putPtp_steady {s₀ : State} (s : State) (p : Nat) (x : PtpPort) (hS : Steady s₀ s) :
    Steady s₀ (State.putPtp s p x) := by
  unfold State.putPtp
  try dsimp only
  repeat' first
    | with_reducible assumption
    | with_reducible apply ite_steady
    | with_reducible exact id
    | with_reducible rfl
    | exact fun _ h => h
    | with_reducible exact fun h => tput_sorted _ h (Nat.zero_le _)
    | with_reducible exact tdel_sorted
    | exact fun _ => rfl
    | with_reducible exact fun h => Memory.writeWord_wf _ _ h
    | (refine written_steady (by simp only [↓State.written_mk]) ?_; with_reducible apply mk_steady)

theorem State.ptpSetState_steady {s₀ : State} (s : State) (p st gm : Nat) (hS : Steady s₀ s) :
    Steady s₀ (State.ptpSetState s p st gm) := by
  unfold State.ptpSetState
  try dsimp only
  repeat' first
    | with_reducible assumption
    | with_reducible apply ite_steady
    | with_reducible apply State.set_steady
    | with_reducible apply State.record_steady

theorem State.ptpSend_steady {s₀ : State} (s : State) (p len : Nat) (hS : Steady s₀ s) :
    Steady s₀ (State.ptpSend s p len) := by
  unfold State.ptpSend
  try dsimp only
  repeat' first
    | with_reducible assumption
    | with_reducible apply ite_steady
    | with_reducible apply State.ethPut_steady
    | with_reducible exact id
    | with_reducible rfl
    | exact fun _ h => h
    | with_reducible exact fun h => tput_sorted _ h (Nat.zero_le _)
    | with_reducible exact tdel_sorted
    | exact fun _ => rfl
    | with_reducible exact fun h => Memory.writeWord_wf _ _ h
    | split

end Sys2Proof.Machine
end

