-- ==== Sys2Proof/Laws/SteadyTwin.lean ====
section
/-!
SUPPORT. Every operation of Machine/Twin.lean keeps what `Steady` says.
-/

set_option Elab.async false

namespace Sys2Proof.Machine

open Sys2Proof

theorem State.detach_steady {s₀ : State} (s : State) (reason : Nat) (hS : Steady s₀ s) :
    Steady s₀ (State.detach s reason) := by
  unfold State.detach
  try dsimp only
  repeat' first
    | with_reducible assumption
    | with_reducible apply ite_steady
    | with_reducible apply State.set_steady
    | with_reducible apply State.inc_steady
    | with_reducible apply State.evt_steady
    | with_reducible apply State.record_steady
    | with_reducible exact id
    | with_reducible rfl
    | exact fun _ h => h
    | with_reducible exact fun h => tput_sorted _ h (Nat.zero_le _)
    | with_reducible exact tdel_sorted
    | exact fun _ => rfl
    | with_reducible exact fun h => Memory.writeWord_wf _ _ h
    | (refine written_steady (by simp only [↓State.written_mk]) ?_; with_reducible apply mk_steady)

theorem State.becomeUnpaired_steady {s₀ : State} (s : State) (reason : Nat) (hS : Steady s₀ s) :
    Steady s₀ (State.becomeUnpaired s reason) := by
  unfold State.becomeUnpaired
  try dsimp only
  repeat' first
    | with_reducible assumption
    | with_reducible apply ite_steady
    | with_reducible apply State.set_steady
    | with_reducible apply State.unpairedAlarm_steady

theorem State.encInput_steady {s₀ : State} (s : State) (n count flags : Nat) (hS : Steady s₀ s) :
    Steady s₀ (State.encInput s n count flags) := by
  unfold State.encInput
  try dsimp only
  repeat' first
    | with_reducible assumption
    | with_reducible apply ite_steady
    | with_reducible apply State.putEnc_steady
    | with_reducible apply State.set_steady
    | with_reducible apply State.encEdgeError_steady

theorem State.applyInput_steady {s₀ : State} (s : State) (r : TwinRec) (hS : Steady s₀ s) :
    Steady s₀ (State.applyInput s r) := by
  unfold State.applyInput
  try dsimp only
  repeat' first
    | with_reducible assumption
    | with_reducible apply ite_steady
    | with_reducible apply State.convInput_steady
    | with_reducible apply State.encInput_steady
    | with_reducible apply State.stepAngle_steady
    | with_reducible apply State.chopCross_steady
    | with_reducible apply State.stepSwitches_steady
    | with_reducible apply State.clpMonitor_steady
    | with_reducible exact id
    | with_reducible rfl
    | exact fun _ h => h
    | with_reducible exact fun h => tput_sorted _ h (Nat.zero_le _)
    | with_reducible exact tdel_sorted
    | exact fun _ => rfl
    | with_reducible exact fun h => Memory.writeWord_wf _ _ h
    | split

theorem State.applyRec_steady {s₀ : State} (s : State) (r : TwinRec) (hS : Steady s₀ s) :
    Steady s₀ (State.applyRec s r) := by
  unfold State.applyRec
  try dsimp only
  repeat' first
    | with_reducible assumption
    | with_reducible apply ite_steady
    | with_reducible apply State.putPoint_steady
    | with_reducible apply State.send_steady
    | with_reducible apply State.rollReply_steady
    | with_reducible exact id
    | with_reducible rfl
    | exact fun _ h => h
    | with_reducible exact fun h => tput_sorted _ h (Nat.zero_le _)
    | with_reducible exact tdel_sorted
    | exact fun _ => rfl
    | with_reducible exact fun h => Memory.writeWord_wf _ _ h
    | split

theorem State.swapIn_steady {s₀ : State} (s : State) (l : List Input) (hS : Steady s₀ s) :
    Steady s₀ (State.swapIn s l) := by
  unfold State.swapIn
  try dsimp only
  repeat' first
    | with_reducible assumption
    | with_reducible apply ite_steady
    | with_reducible apply State.putPoint_steady
    | (with_reducible apply foldl_steady; intro t x ht)
    | with_reducible exact id
    | with_reducible rfl
    | exact fun _ h => h
    | with_reducible exact fun h => tput_sorted _ h (Nat.zero_le _)
    | with_reducible exact tdel_sorted
    | exact fun _ => rfl
    | with_reducible exact fun h => Memory.writeWord_wf _ _ h
    | split

theorem State.tickWork_steady {s₀ : State} (s : State) (moved : List (Nat × Int)) (clp : List (Nat × Rat × Rat)) (hS : Steady s₀ s) :
    Steady s₀ (State.tickWork s moved clp) := by
  unfold State.tickWork
  try dsimp only
  repeat' first
    | with_reducible assumption
    | with_reducible apply ite_steady
    | with_reducible apply State.loopTick_steady
    | with_reducible apply State.clpTick_steady
    | with_reducible apply State.stepTick_steady
    | with_reducible apply State.adcTick_steady
    | with_reducible apply State.fnsTick_steady

theorem State.endTicks_steady {s₀ : State} (s : State) (t : Nat) (hS : Steady s₀ s) :
    Steady s₀ (State.endTicks s t) := by
  unfold State.endTicks
  try dsimp only
  repeat' first
    | with_reducible assumption
    | with_reducible apply ite_steady
    | with_reducible apply State.applyRec_steady
    | (with_reducible apply foldl_steady; intro t x ht)
    | with_reducible exact id
    | with_reducible rfl
    | exact fun _ h => h
    | with_reducible exact fun h => tput_sorted _ h (Nat.zero_le _)
    | with_reducible exact tdel_sorted
    | exact fun _ => rfl
    | with_reducible exact fun h => Memory.writeWord_wf _ _ h
    | (refine written_steady (by simp only [↓State.written_mk]) ?_; with_reducible apply mk_steady)

theorem State.mismatchNote_steady {s₀ : State} (s : State) (scope cell tick conf : Nat) (hS : Steady s₀ s) :
    Steady s₀ (State.mismatchNote s scope cell tick conf) := by
  unfold State.mismatchNote
  try dsimp only
  repeat' first
    | with_reducible assumption
    | with_reducible apply ite_steady
    | with_reducible apply State.set_steady
    | with_reducible apply State.evt_steady
    | with_reducible apply State.record_steady

theorem State.compareScope_steady {s₀ : State} (s : State) (scope cell tick : Nat) (agree : Bool) (hS : Steady s₀ s) :
    Steady s₀ (State.compareScope s scope cell tick agree) := by
  unfold State.compareScope
  try dsimp only
  repeat' first
    | with_reducible assumption
    | with_reducible apply ite_steady
    | with_reducible apply State.inc_steady
    | with_reducible apply State.set_steady
    | with_reducible apply State.mismatchNote_steady
    | with_reducible apply State.evt_steady
    | with_reducible exact id
    | with_reducible rfl
    | exact fun _ h => h
    | with_reducible exact fun h => tput_sorted _ h (Nat.zero_le _)
    | with_reducible exact tdel_sorted
    | exact fun _ => rfl
    | with_reducible exact fun h => Memory.writeWord_wf _ _ h
    | split
    | (refine written_steady (by simp only [↓State.written_mk]) ?_; with_reducible apply mk_steady)

theorem State.lagOver_steady {s₀ : State} (s : State) (lagNs : Nat) (hS : Steady s₀ s) :
    Steady s₀ (State.lagOver s lagNs) := by
  unfold State.lagOver
  try dsimp only
  repeat' first
    | with_reducible assumption
    | with_reducible apply ite_steady
    | with_reducible apply State.set_steady
    | with_reducible apply State.record_steady
    | with_reducible apply State.incSat_steady
    | with_reducible apply State.evt_steady
    | with_reducible exact id
    | with_reducible rfl
    | exact fun _ h => h
    | with_reducible exact fun h => tput_sorted _ h (Nat.zero_le _)
    | with_reducible exact tdel_sorted
    | exact fun _ => rfl
    | with_reducible exact fun h => Memory.writeWord_wf _ _ h
    | (refine written_steady (by simp only [↓State.written_mk]) ?_; with_reducible apply mk_steady)

theorem State.sidebandAlarm_steady {s₀ : State} (s : State) (gaveUp : Bool) (hS : Steady s₀ s) :
    Steady s₀ (State.sidebandAlarm s gaveUp) := by
  unfold State.sidebandAlarm
  try dsimp only
  repeat' first
    | with_reducible assumption
    | with_reducible apply ite_steady
    | with_reducible apply State.set_steady
    | with_reducible apply State.evt_steady
    | with_reducible apply State.alarm_steady

end Sys2Proof.Machine
end

