-- ==== Sys2Proof/Laws/SteadyFrame.lean ====
section
/-!
SUPPORT. Every operation of Machine/Frame.lean keeps what `Steady` says.
-/

set_option Elab.async false

namespace Sys2Proof.Machine

open Sys2Proof

theorem State.endTick_steady {s₀ : State} (s : State) (hS : Steady s₀ s) :
    Steady s₀ (State.endTick s) := by
  unfold State.endTick
  try dsimp only
  repeat' first
    | with_reducible assumption
    | with_reducible apply ite_steady
    | with_reducible apply State.applyInputs_steady
    | with_reducible apply State.setSat_steady
    | with_reducible exact id
    | with_reducible rfl
    | exact fun _ h => h
    | with_reducible exact fun h => tput_sorted _ h (Nat.zero_le _)
    | with_reducible exact tdel_sorted
    | exact fun _ => rfl
    | with_reducible exact fun h => Memory.writeWord_wf _ _ h
    | (refine written_steady (by simp only [↓State.written_mk]) ?_; with_reducible apply mk_steady)

theorem State.refreshGuards_steady {s₀ : State} (s : State) (hS : Steady s₀ s) :
    Steady s₀ (State.refreshGuards s) := by
  unfold State.refreshGuards
  try dsimp only
  repeat' first
    | with_reducible assumption
    | with_reducible apply ite_steady
    | with_reducible apply State.setB_steady

theorem State.staleness_steady {s₀ : State} (s : State) (hS : Steady s₀ s) : Steady s₀ s.staleness := by
  unfold State.staleness
  refine mk_steady hS id id (fun h => tsorted_map _ (fun x => ?_) h) id id id id rfl fun _ h => h
  dsimp only
  split
  · split <;> rfl
  · rfl'

theorem State.holdFrame_steady {s₀ : State} (s : State) (hS : Steady s₀ s) :
    Steady s₀ (State.holdFrame s) := by
  unfold State.holdFrame
  try dsimp only
  repeat' first
    | with_reducible assumption
    | with_reducible apply ite_steady
    | with_reducible apply State.setU_steady
    | with_reducible apply State.setSat_steady

theorem State.framePoints_steady {s₀ : State} (s : State) (hS : Steady s₀ s) :
    Steady s₀ (State.framePoints s) := by
  unfold State.framePoints
  try dsimp only
  repeat' first
    | with_reducible assumption
    | with_reducible apply ite_steady
    | with_reducible apply State.adcFrame_steady
    | with_reducible apply State.cellsFrame_steady
    | with_reducible apply State.fnsFrame_steady
    | with_reducible apply State.clpFrame_steady
    | with_reducible apply State.stepFrame_steady
    | with_reducible apply State.islFrame_steady

theorem State.modeTake_steady {s₀ : State} (s : State) (target : Nat) (hS : Steady s₀ s) :
    Steady s₀ (State.modeTake s target) := by
  unfold State.modeTake
  try dsimp only
  repeat' first
    | with_reducible assumption
    | with_reducible apply ite_steady
    | with_reducible apply State.dormantEnter_steady
    | with_reducible apply State.safeEnter_steady
    | with_reducible apply State.enterMode_steady
    | with_reducible apply State.helmModeEnter_steady
    | with_reducible exact id
    | with_reducible rfl
    | exact fun _ h => h
    | with_reducible exact fun h => tput_sorted _ h (Nat.zero_le _)
    | with_reducible exact tdel_sorted
    | exact fun _ => rfl
    | with_reducible exact fun h => Memory.writeWord_wf _ _ h
    | split

theorem State.modeDue_steady {s₀ : State} (s : State) (hS : Steady s₀ s) :
    Steady s₀ (State.modeDue s) := by
  unfold State.modeDue
  try dsimp only
  repeat' first
    | with_reducible assumption
    | with_reducible apply ite_steady
    | with_reducible apply State.clearPending_steady
    | with_reducible apply State.modeResult_steady
    | with_reducible apply State.modeTake_steady
    | with_reducible exact id
    | with_reducible rfl
    | exact fun _ h => h
    | with_reducible exact fun h => tput_sorted _ h (Nat.zero_le _)
    | with_reducible exact tdel_sorted
    | exact fun _ => rfl
    | with_reducible exact fun h => Memory.writeWord_wf _ _ h
    | split

theorem State.alarmAckOne_steady {s₀ : State} (s : State) (n keyId : Nat) (hS : Steady s₀ s) :
    Steady s₀ (State.alarmAckOne s n keyId) := by
  unfold State.alarmAckOne
  try dsimp only
  repeat' first
    | with_reducible assumption
    | with_reducible apply ite_steady
    | with_reducible apply State.alarmEnv_steady
    | with_reducible exact id
    | with_reducible rfl
    | exact fun _ h => h
    | with_reducible exact fun h => tput_sorted _ h (Nat.zero_le _)
    | with_reducible exact tdel_sorted
    | exact fun _ => rfl
    | with_reducible exact fun h => Memory.writeWord_wf _ _ h
    | split
    | (refine written_steady (by simp only [↓State.written_mk]) ?_; with_reducible apply mk_steady)

theorem State.alarmAckNote_steady {s₀ : State} (s : State) (entry code source keyId : Nat) (hS : Steady s₀ s) :
    Steady s₀ (State.alarmAckNote s entry code source keyId) := by
  unfold State.alarmAckNote
  try dsimp only
  repeat' first
    | with_reducible assumption
    | with_reducible apply ite_steady
    | with_reducible apply State.record_steady

theorem State.commandRec_steady {s₀ : State} (s : State) (c : CmdRec) (hS : Steady s₀ s) :
    Steady s₀ (State.commandRec s c) := by
  unfold State.commandRec
  try dsimp only
  repeat' first
    | with_reducible assumption
    | with_reducible apply ite_steady
    | with_reducible apply State.alarmAckNote_steady
    | with_reducible apply State.endPending_steady
    | with_reducible apply State.slotCmdRecord_steady
    | with_reducible apply State.endLaw_steady
    | with_reducible apply State.endSp_steady
    | with_reducible apply State.injStop_steady
    | with_reducible apply State.putCell_steady
    | with_reducible apply State.fnAccept_steady
    | with_reducible apply State.cvCommit_steady
    | with_reducible apply State.lullEnter_steady
    | with_reducible apply State.lullExit_steady
    | with_reducible apply State.fcFollow_steady
    | with_reducible apply State.alarmAckOne_steady
    | with_reducible apply State.modeResult_steady
    | with_reducible apply State.set_steady
    | with_reducible apply State.helmResult_steady
    | with_reducible apply State.stepResult_steady
    | with_reducible exact id
    | with_reducible rfl
    | exact fun _ h => h
    | with_reducible exact fun h => tput_sorted _ h (Nat.zero_le _)
    | with_reducible exact tdel_sorted
    | exact fun _ => rfl
    | with_reducible exact fun h => Memory.writeWord_wf _ _ h
    | split
    | (refine written_steady (by simp only [↓State.written_mk]) ?_; with_reducible apply mk_steady)

end Sys2Proof.Machine
end

