-- ==== Sys2Proof/Laws/GoesFrame.lean ====
section
/-!
SUPPORT. Every meaning of Machine/Frame.lean answers a next state, and between the passage of its time and that state `Steady` holds.
-/

set_option Elab.async false

namespace Sys2Proof.Machine

open Sys2Proof

theorem execLoopTick_steady {s₀ : State} (dt : Nat) (moved : List (Nat × Int)) (clp : List (Nat × Rat × Rat)) (txing : List (Nat × Nat)) (s : State) (hS : Steady s₀ (State.advance s dt)) :
    Goes s₀ (execLoopTick dt moved clp txing s) := by
  unfold execLoopTick
  try dsimp only
  repeat' first
    | with_reducible assumption
    | with_reducible apply ite_steady
    | with_reducible apply next_goes
    | with_reducible apply ite_goes
    | with_reducible apply State.setMb_steady
    | with_reducible apply State.gridTick_steady
    | with_reducible apply State.endTick_steady
    | with_reducible apply State.canOnWrite_steady
    | with_reducible apply State.swapIn_steady
    | with_reducible apply State.tickWork_steady
    | with_reducible apply State.ethOnWrite_steady
    | (with_reducible apply foldl_steady; intro t x ht)
    | with_reducible exact id
    | with_reducible rfl
    | exact fun _ h => h
    | with_reducible exact fun h => tput_sorted _ h (Nat.zero_le _)
    | with_reducible exact tdel_sorted
    | exact fun _ => rfl
    | with_reducible exact fun h => Memory.writeWord_wf _ _ h
    | (refine written_steady (by simp only [↓State.written_mk]) ?_; with_reducible apply mk_steady)

theorem execFrameBoundary_steady {s₀ : State} (dt : Nat) (s : State) (hS : Steady s₀ (State.advance s dt)) :
    Goes s₀ (execFrameBoundary dt s) := by
  unfold execFrameBoundary
  try dsimp only
  repeat' first
    | with_reducible assumption
    | with_reducible apply ite_steady
    | with_reducible apply next_goes
    | with_reducible apply ite_goes
    | with_reducible apply State.lullResume_steady
    | with_reducible apply State.utcUpdate_steady
    | with_reducible apply State.framePoints_steady
    | with_reducible apply State.lullFrame_steady
    | with_reducible apply State.applyNodes_steady
    | with_reducible apply State.holdFrame_steady
    | with_reducible apply State.staleness_steady
    | with_reducible apply State.estFrame_steady
    | with_reducible apply State.followFrame_steady
    | with_reducible apply State.refreshGuards_steady

theorem execHelmCycleBoundary_steady {s₀ : State} (dt : Nat) (plan : List (List Rat)) (past : List Rat) (s : State) (hS : Steady s₀ (State.advance s dt)) :
    Goes s₀ (execHelmCycleBoundary dt plan past s) := by
  unfold execHelmCycleBoundary
  try dsimp only
  repeat' first
    | with_reducible assumption
    | with_reducible apply ite_steady
    | with_reducible apply next_goes
    | with_reducible apply ite_goes
    | with_reducible apply State.helmCycle_steady
    | with_reducible apply State.applyParams_steady
    | with_reducible apply State.fcPlan_steady
    | with_reducible apply State.refreshGuards_steady
    | with_reducible apply State.modeDue_steady
    | with_reducible apply State.helmBoundary_steady
    | with_reducible apply State.allocBoundary_steady
    | with_reducible apply State.setScenarios_steady

theorem execCommandRecordReceive_steady {s₀ : State} (dt : Nat) (c : CmdRec) (s : State) (hS : Steady s₀ (State.advance s dt)) :
    Goes s₀ (execCommandRecordReceive dt c s) := by
  unfold execCommandRecordReceive
  try dsimp only
  repeat' first
    | with_reducible assumption
    | with_reducible apply ite_steady
    | with_reducible apply next_goes
    | with_reducible apply ite_goes
    | with_reducible apply State.commandRec_steady

end Sys2Proof.Machine
end

