-- ==== Sys2Proof/Laws/SteadyGnss.lean ====
section
/-!
SUPPORT. Every operation of Machine/Gnss.lean keeps what `Steady` says.
-/

set_option Elab.async false

namespace Sys2Proof.Machine

open Sys2Proof

theorem State.bandBits_steady {s₀ : State} (s : State) (hS : Steady s₀ s) :
    Steady s₀ (State.bandBits s) := by
  unfold State.bandBits
  try dsimp only
  repeat' first
    | with_reducible assumption
    | with_reducible apply ite_steady
    | with_reducible apply State.setB_steady
    | with_reducible apply State.set_steady

theorem State.stopChannels_steady {s₀ : State} (s : State) (band : Nat) (hS : Steady s₀ s) :
    Steady s₀ (State.stopChannels s band) := by
  unfold State.stopChannels
  try dsimp only
  repeat' first
    | with_reducible assumption
    | with_reducible apply ite_steady
    | with_reducible apply State.set_steady
    | (with_reducible apply foldl_steady; intro t x ht)

theorem State.recount_steady {s₀ : State} (s : State) (hS : Steady s₀ s) :
    Steady s₀ (State.recount s) := by
  unfold State.recount
  try dsimp only
  repeat' first
    | with_reducible assumption
    | with_reducible apply ite_steady
    | with_reducible apply State.set_steady

theorem State.bandRecord_steady {s₀ : State} (s : State) (band : Nat) (scriptOk : Bool) (hS : Steady s₀ s) :
    Steady s₀ (State.bandRecord s band scriptOk) := by
  unfold State.bandRecord
  try dsimp only
  repeat' first
    | with_reducible assumption
    | with_reducible apply ite_steady
    | with_reducible apply State.record_steady

theorem State.setBand_steady {s₀ : State} (s : State) (band : Nat) (bad : Bool) (scriptOk : Bool) (hS : Steady s₀ s) :
    Steady s₀ (State.setBand s band bad scriptOk) := by
  unfold State.setBand
  try dsimp only
  repeat' first
    | with_reducible assumption
    | with_reducible apply ite_steady
    | with_reducible apply State.stopChannels_steady
    | with_reducible apply State.evt_steady
    | with_reducible apply State.bandBits_steady
    | with_reducible apply State.recount_steady
    | with_reducible apply State.bandRecord_steady
    | with_reducible exact id
    | with_reducible rfl
    | exact fun _ h => h
    | with_reducible exact fun h => tput_sorted _ h (Nat.zero_le _)
    | with_reducible exact tdel_sorted
    | exact fun _ => rfl
    | with_reducible exact fun h => Memory.writeWord_wf _ _ h
    | (refine written_steady (by simp only [↓State.written_mk]) ?_; with_reducible apply mk_steady)

theorem State.markUsed_steady {s₀ : State} (s : State) (l : List GnssSat) (hS : Steady s₀ s) :
    Steady s₀ (State.markUsed s l) := by
  unfold State.markUsed
  try dsimp only
  repeat' first
    | with_reducible assumption
    | with_reducible apply ite_steady
    | with_reducible apply State.set_steady
    | (with_reducible apply foldl_steady; intro t x ht)

theorem State.fixLost_steady {s₀ : State} (s : State) (hS : Steady s₀ s) :
    Steady s₀ (State.fixLost s) := by
  unfold State.fixLost
  try dsimp only
  repeat' first
    | with_reducible assumption
    | with_reducible apply ite_steady
    | with_reducible apply State.set_steady
    | with_reducible apply State.evt_steady
    | with_reducible apply State.record_steady
    | with_reducible exact id
    | with_reducible rfl
    | exact fun _ h => h
    | with_reducible exact fun h => tput_sorted _ h (Nat.zero_le _)
    | with_reducible exact tdel_sorted
    | exact fun _ => rfl
    | with_reducible exact fun h => Memory.writeWord_wf _ _ h
    | (refine written_steady (by simp only [↓State.written_mk]) ?_; with_reducible apply mk_steady)

theorem State.messagePoints_steady {s₀ : State} (s : State) (base : Nat) (vals : List Nat) (pm : Pm) (q : Quality) (hS : Steady s₀ s) :
    Steady s₀ (State.messagePoints s base vals pm q) := by
  unfold State.messagePoints
  try dsimp only
  repeat' first
    | with_reducible assumption
    | with_reducible apply ite_steady
    | with_reducible apply State.inboundAll_steady

theorem State.gnssSleep_steady {s₀ : State} (s : State) (ret : GnssRet) (cause : Nat) (hS : Steady s₀ s) :
    Steady s₀ (State.gnssSleep s ret cause) := by
  unfold State.gnssSleep
  try dsimp only
  repeat' first
    | with_reducible assumption
    | with_reducible apply ite_steady
    | with_reducible apply State.set_steady
    | with_reducible apply State.evt_steady
    | with_reducible apply State.stopChannels_steady
    | with_reducible apply State.recount_steady
    | with_reducible apply State.bandBits_steady
    | with_reducible apply State.record_steady
    | with_reducible exact id
    | with_reducible rfl
    | exact fun _ h => h
    | with_reducible exact fun h => tput_sorted _ h (Nat.zero_le _)
    | with_reducible exact tdel_sorted
    | exact fun _ => rfl
    | with_reducible exact fun h => Memory.writeWord_wf _ _ h
    | (refine written_steady (by simp only [↓State.written_mk]) ?_; with_reducible apply mk_steady)

end Sys2Proof.Machine
end

