-- ==== Sys2Proof/Laws/GoesGnss.lean ====
section
/-!
SUPPORT. Every meaning of Machine/Gnss.lean answers a next state, and between the passage of its time and that state `Steady` holds.
-/

set_option Elab.async false

namespace Sys2Proof.Machine

open Sys2Proof

theorem execFeClockMeasure_steady {s₀ : State} (dt : Nat) (l1 l5 : Option Int) (s : State) (hS : Steady s₀ (State.advance s dt)) :
    Goes s₀ (execFeClockMeasure dt l1 l5 s) := by
  unfold execFeClockMeasure
  try dsimp only
  repeat' first
    | with_reducible assumption
    | with_reducible apply ite_steady
    | with_reducible apply next_goes
    | with_reducible apply ite_goes
    | with_reducible apply State.setI_steady
    | with_reducible apply State.setB_steady
    | with_reducible apply State.setBand_steady

theorem execBandRetry_steady {s₀ : State} (dt band : Nat) (ppb : Option Int) (scriptOk : Bool) (s : State) (hS : Steady s₀ (State.advance s dt)) :
    Goes s₀ (execBandRetry dt band ppb scriptOk s) := by
  unfold execBandRetry
  try dsimp only
  repeat' first
    | with_reducible assumption
    | with_reducible apply ite_steady
    | with_reducible apply next_goes
    | with_reducible apply ite_goes
    | with_reducible apply State.setB_steady
    | with_reducible apply State.set_steady
    | with_reducible apply State.setBand_steady
    | with_reducible exact id
    | with_reducible rfl
    | exact fun _ h => h
    | with_reducible exact fun h => tput_sorted _ h (Nat.zero_le _)
    | with_reducible exact tdel_sorted
    | exact fun _ => rfl
    | with_reducible exact fun h => Memory.writeWord_wf _ _ h
    | (refine written_steady (by simp only [↓State.written_mk]) ?_; with_reducible apply mk_steady)

theorem execGnssStart_steady {s₀ : State} (dt : Nat) (script1 script5 : Bool) (s : State) (hS : Steady s₀ (State.advance s dt)) :
    Goes s₀ (execGnssStart dt script1 script5 s) := by
  unfold execGnssStart
  try dsimp only
  repeat' first
    | with_reducible assumption
    | with_reducible apply ite_steady
    | with_reducible apply next_goes
    | with_reducible apply ite_goes
    | with_reducible apply State.set_steady
    | with_reducible apply State.setB_steady
    | with_reducible apply State.setBand_steady
    | with_reducible apply State.record_steady
    | with_reducible apply State.setSat_steady
    | with_reducible exact id
    | with_reducible rfl
    | exact fun _ h => h
    | with_reducible exact fun h => tput_sorted _ h (Nat.zero_le _)
    | with_reducible exact tdel_sorted
    | exact fun _ => rfl
    | with_reducible exact fun h => Memory.writeWord_wf _ _ h
    | (refine written_steady (by simp only [↓State.written_mk]) ?_; with_reducible apply mk_steady)

theorem execAcquisitionDone_steady {s₀ : State} (dt band ch constel prn : Nat) (found : Bool) (doppler : Int) (cn0 : Nat) (l5Ch : Option Nat) (s : State) (hS : Steady s₀ (State.advance s dt)) :
    Goes s₀ (execAcquisitionDone dt band ch constel prn found doppler cn0 l5Ch s) := by
  unfold execAcquisitionDone
  try dsimp only
  repeat' first
    | with_reducible assumption
    | with_reducible apply ite_steady
    | with_reducible apply next_goes
    | with_reducible apply ite_goes
    | with_reducible apply State.set_steady
    | with_reducible apply State.setQ_steady
    | with_reducible apply State.recount_steady
    | with_reducible apply State.setI_steady
    | with_reducible exact id
    | with_reducible rfl
    | exact fun _ h => h
    | with_reducible exact fun h => tput_sorted _ h (Nat.zero_le _)
    | with_reducible exact tdel_sorted
    | exact fun _ => rfl
    | with_reducible exact fun h => Memory.writeWord_wf _ _ h
    | split
    | (refine written_steady (by simp only [↓State.written_mk]) ?_; with_reducible apply mk_steady)

theorem execSatelliteLockLoss_steady {s₀ : State} (dt band ch : Nat) (s : State) (hS : Steady s₀ (State.advance s dt)) :
    Goes s₀ (execSatelliteLockLoss dt band ch s) := by
  unfold execSatelliteLockLoss
  try dsimp only
  repeat' first
    | with_reducible assumption
    | with_reducible apply ite_steady
    | with_reducible apply next_goes
    | with_reducible apply ite_goes
    | with_reducible apply State.set_steady
    | with_reducible apply State.recount_steady
    | with_reducible exact id
    | with_reducible rfl
    | exact fun _ h => h
    | with_reducible exact fun h => tput_sorted _ h (Nat.zero_le _)
    | with_reducible exact tdel_sorted
    | exact fun _ => rfl
    | with_reducible exact fun h => Memory.writeWord_wf _ _ h
    | (refine written_steady (by simp only [↓State.written_mk]) ?_; with_reducible apply mk_steady)

theorem execReacqWiden_steady {s₀ : State} (dt band ch : Nat) (s : State) (hS : Steady s₀ (State.advance s dt)) :
    Goes s₀ (execReacqWiden dt band ch s) := by
  unfold execReacqWiden
  try dsimp only
  repeat' first
    | with_reducible assumption
    | with_reducible apply ite_steady
    | with_reducible apply next_goes
    | with_reducible apply ite_goes
    | with_reducible exact id
    | with_reducible rfl
    | exact fun _ h => h
    | with_reducible exact fun h => tput_sorted _ h (Nat.zero_le _)
    | with_reducible exact tdel_sorted
    | exact fun _ => rfl
    | with_reducible exact fun h => Memory.writeWord_wf _ _ h
    | split
    | (refine written_steady (by simp only [↓State.written_mk]) ?_; with_reducible apply mk_steady)

theorem execGnssEpoch_steady {s₀ : State} (dt : Nat) (sol : GnssSol) (s : State) (hS : Steady s₀ (State.advance s dt)) :
    Goes s₀ (execGnssEpoch dt sol s) := by
  unfold execGnssEpoch
  try dsimp only
  repeat' first
    | with_reducible assumption
    | with_reducible apply ite_steady
    | with_reducible apply next_goes
    | with_reducible apply ite_goes
    | with_reducible apply State.record_steady
    | with_reducible apply State.set_steady
    | with_reducible apply State.setB_steady
    | with_reducible apply State.markUsed_steady
    | with_reducible apply State.fixLost_steady
    | with_reducible apply State.setSat_steady
    | with_reducible exact id
    | with_reducible rfl
    | exact fun _ h => h
    | with_reducible exact fun h => tput_sorted _ h (Nat.zero_le _)
    | with_reducible exact tdel_sorted
    | exact fun _ => rfl
    | with_reducible exact fun h => Memory.writeWord_wf _ _ h
    | split
    | (refine written_steady (by simp only [↓State.written_mk]) ?_; with_reducible apply mk_steady)

theorem execPositionMessageWrite_steady {s₀ : State} (dt : Nat) (s : State) (hS : Steady s₀ (State.advance s dt)) :
    Goes s₀ (execPositionMessageWrite dt s) := by
  unfold execPositionMessageWrite
  try dsimp only
  repeat' first
    | with_reducible assumption
    | with_reducible apply ite_steady
    | with_reducible apply next_goes
    | with_reducible apply ite_goes
    | with_reducible apply State.messagePoints_steady
    | with_reducible apply State.set_steady
    | with_reducible apply State.setSat_steady
    | with_reducible apply State.evt_steady
    | with_reducible apply State.record_steady
    | with_reducible exact id
    | with_reducible rfl
    | exact fun _ h => h
    | with_reducible exact fun h => tput_sorted _ h (Nat.zero_le _)
    | with_reducible exact tdel_sorted
    | exact fun _ => rfl
    | with_reducible exact fun h => Memory.writeWord_wf _ _ h
    | split
    | (refine written_steady (by simp only [↓State.written_mk]) ?_; with_reducible apply mk_steady)

theorem execTimePulseMessage_steady {s₀ : State} (dt : Nat) (offset : Int) (sats : Nat) (timeOk : Bool) (utcOfs : Int) (unc : Nat) (s : State) (hS : Steady s₀ (State.advance s dt)) :
    Goes s₀ (execTimePulseMessage dt offset sats timeOk utcOfs unc s) := by
  unfold execTimePulseMessage
  try dsimp only
  repeat' first
    | with_reducible assumption
    | with_reducible apply ite_steady
    | with_reducible apply next_goes
    | with_reducible apply ite_goes
    | with_reducible apply State.messagePoints_steady
    | with_reducible apply State.validFix_steady
    | with_reducible apply State.srcSeen_steady
    | with_reducible exact id
    | with_reducible rfl
    | exact fun _ h => h
    | with_reducible exact fun h => tput_sorted _ h (Nat.zero_le _)
    | with_reducible exact tdel_sorted
    | exact fun _ => rfl
    | with_reducible exact fun h => Memory.writeWord_wf _ _ h
    | split
    | (refine written_steady (by simp only [↓State.written_mk]) ?_; with_reducible apply mk_steady)

theorem execGnssSleepCmd_steady {s₀ : State} (dt : Nat) (port : Port) (s : State) (hS : Steady s₀ (State.advance s dt)) :
    Goes s₀ (execGnssSleepCmd dt port s) := by
  unfold execGnssSleepCmd
  try dsimp only
  repeat' first
    | with_reducible assumption
    | with_reducible apply ite_steady
    | with_reducible apply next_goes
    | with_reducible apply ite_goes
    | with_reducible apply State.record_steady
    | (with_reducible apply State.withRole_steady; intro t ht)
    | with_reducible exact id
    | with_reducible rfl
    | exact fun _ h => h
    | with_reducible exact fun h => tput_sorted _ h (Nat.zero_le _)
    | with_reducible exact tdel_sorted
    | exact fun _ => rfl
    | with_reducible exact fun h => Memory.writeWord_wf _ _ h
    | (refine written_steady (by simp only [↓State.written_mk]) ?_; with_reducible apply mk_steady)

theorem execGnssSleepEntry_steady {s₀ : State} (dt : Nat) (ret : GnssRet) (s : State) (hS : Steady s₀ (State.advance s dt)) :
    Goes s₀ (execGnssSleepEntry dt ret s) := by
  unfold execGnssSleepEntry
  try dsimp only
  repeat' first
    | with_reducible assumption
    | with_reducible apply ite_steady
    | with_reducible apply next_goes
    | with_reducible apply ite_goes
    | with_reducible apply State.gnssSleep_steady

theorem execGnssWakeCmd_steady {s₀ : State} (dt : Nat) (port : Port) (s : State) (hS : Steady s₀ (State.advance s dt)) :
    Goes s₀ (execGnssWakeCmd dt port s) := by
  unfold execGnssWakeCmd
  try dsimp only
  repeat' first
    | with_reducible assumption
    | with_reducible apply ite_steady
    | with_reducible apply next_goes
    | with_reducible apply ite_goes
    | with_reducible apply State.gnssWake_steady
    | (with_reducible apply State.withRole_steady; intro t ht)

theorem execGnssColdCmd_steady {s₀ : State} (dt : Nat) (port : Port) (s : State) (hS : Steady s₀ (State.advance s dt)) :
    Goes s₀ (execGnssColdCmd dt port s) := by
  unfold execGnssColdCmd
  try dsimp only
  repeat' first
    | with_reducible assumption
    | with_reducible apply ite_steady
    | with_reducible apply next_goes
    | with_reducible apply ite_goes
    | with_reducible apply State.gnssDiscard_steady
    | with_reducible apply State.set_steady
    | (with_reducible apply State.withRole_steady; intro t ht)
    | with_reducible apply State.stopChannels_steady
    | with_reducible apply State.recount_steady
    | with_reducible exact id
    | with_reducible rfl
    | exact fun _ h => h
    | with_reducible exact fun h => tput_sorted _ h (Nat.zero_le _)
    | with_reducible exact tdel_sorted
    | exact fun _ => rfl
    | with_reducible exact fun h => Memory.writeWord_wf _ _ h
    | (refine written_steady (by simp only [↓State.written_mk]) ?_; with_reducible apply mk_steady)

theorem execRetainWrite_steady {s₀ : State} (dt : Nat) (ret : GnssRet) (s : State) (hS : Steady s₀ (State.advance s dt)) :
    Goes s₀ (execRetainWrite dt ret s) := by
  unfold execRetainWrite
  try dsimp only
  repeat' first
    | with_reducible assumption
    | with_reducible apply ite_steady
    | with_reducible apply next_goes
    | with_reducible apply ite_goes
    | with_reducible exact id
    | with_reducible rfl
    | exact fun _ h => h
    | with_reducible exact fun h => tput_sorted _ h (Nat.zero_le _)
    | with_reducible exact tdel_sorted
    | exact fun _ => rfl
    | with_reducible exact fun h => Memory.writeWord_wf _ _ h
    | (refine written_steady (by simp only [↓State.written_mk]) ?_; with_reducible apply mk_steady)

theorem execEphRefreshWake_steady {s₀ : State} (dt : Nat) (s : State) (hS : Steady s₀ (State.advance s dt)) :
    Goes s₀ (execEphRefreshWake dt s) := by
  unfold execEphRefreshWake
  try dsimp only
  repeat' first
    | with_reducible assumption
    | with_reducible apply ite_steady
    | with_reducible apply next_goes
    | with_reducible apply ite_goes
    | with_reducible apply State.gnssWake_steady
    | with_reducible exact id
    | with_reducible rfl
    | exact fun _ h => h
    | with_reducible exact fun h => tput_sorted _ h (Nat.zero_le _)
    | with_reducible exact tdel_sorted
    | exact fun _ => rfl
    | with_reducible exact fun h => Memory.writeWord_wf _ _ h
    | (refine written_steady (by simp only [↓State.written_mk]) ?_; with_reducible apply mk_steady)

theorem execRefreshEnd_steady {s₀ : State} (dt : Nat) (fresh : Bool) (ret : GnssRet) (s : State) (hS : Steady s₀ (State.advance s dt)) :
    Goes s₀ (execRefreshEnd dt fresh ret s) := by
  unfold execRefreshEnd
  try dsimp only
  repeat' first
    | with_reducible assumption
    | with_reducible apply ite_steady
    | with_reducible apply next_goes
    | with_reducible apply ite_goes
    | with_reducible apply State.gnssSleep_steady
    | with_reducible exact id
    | with_reducible rfl
    | exact fun _ h => h
    | with_reducible exact fun h => tput_sorted _ h (Nat.zero_le _)
    | with_reducible exact tdel_sorted
    | exact fun _ => rfl
    | with_reducible exact fun h => Memory.writeWord_wf _ _ h
    | split
    | (refine written_steady (by simp only [↓State.written_mk]) ?_; with_reducible apply mk_steady)

end Sys2Proof.Machine
end

