-- ==== Sys2Proof/Laws/GoesHelm.lean ====
section
/-!
SUPPORT. Every meaning of Machine/Helm.lean answers a next state, and between the passage of its time and that state `Steady` holds.
-/

set_option Elab.async false

namespace Sys2Proof.Machine

open Sys2Proof

theorem execLawCmdPosition_steady {s₀ : State} (dt : Nat) (src : CmdSrc) (tag : Nat) (s : State) (hS : Steady s₀ (State.advance s dt)) :
    Goes s₀ (execLawCmdPosition dt src tag s) := by
  unfold execLawCmdPosition
  try dsimp only
  repeat' first
    | with_reducible assumption
    | with_reducible apply ite_steady
    | with_reducible apply next_goes
    | with_reducible apply ite_goes
    | with_reducible apply State.lawCmd_steady

theorem execLawCmdTarget_steady {s₀ : State} (dt : Nat) (src : CmdSrc) (tag : Nat) (s : State) (hS : Steady s₀ (State.advance s dt)) :
    Goes s₀ (execLawCmdTarget dt src tag s) := by
  unfold execLawCmdTarget
  try dsimp only
  repeat' first
    | with_reducible assumption
    | with_reducible apply ite_steady
    | with_reducible apply next_goes
    | with_reducible apply ite_goes
    | with_reducible apply State.lawCmd_steady

theorem execLawCmdTrack_steady {s₀ : State} (dt : Nat) (src : CmdSrc) (tag : Nat) (s : State) (hS : Steady s₀ (State.advance s dt)) :
    Goes s₀ (execLawCmdTrack dt src tag s) := by
  unfold execLawCmdTrack
  try dsimp only
  repeat' first
    | with_reducible assumption
    | with_reducible apply ite_steady
    | with_reducible apply next_goes
    | with_reducible apply ite_goes
    | with_reducible apply State.lawCmd_steady

theorem execLawCmdAutohdg_steady {s₀ : State} (dt : Nat) (src : CmdSrc) (tag : Nat) (s : State) (hS : Steady s₀ (State.advance s dt)) :
    Goes s₀ (execLawCmdAutohdg dt src tag s) := by
  unfold execLawCmdAutohdg
  try dsimp only
  repeat' first
    | with_reducible assumption
    | with_reducible apply ite_steady
    | with_reducible apply next_goes
    | with_reducible apply ite_goes
    | with_reducible apply State.lawCmd_steady

theorem execLawCmdJoystick_steady {s₀ : State} (dt : Nat) (src : CmdSrc) (tag : Nat) (s : State) (hS : Steady s₀ (State.advance s dt)) :
    Goes s₀ (execLawCmdJoystick dt src tag s) := by
  unfold execLawCmdJoystick
  try dsimp only
  repeat' first
    | with_reducible assumption
    | with_reducible apply ite_steady
    | with_reducible apply next_goes
    | with_reducible apply ite_goes
    | with_reducible apply State.lawCmd_steady

theorem execSpCmdPosition_steady {s₀ : State} (dt : Nat) (src : CmdSrc) (tag : Nat) (s : State) (hS : Steady s₀ (State.advance s dt)) :
    Goes s₀ (execSpCmdPosition dt src tag s) := by
  unfold execSpCmdPosition
  try dsimp only
  repeat' first
    | with_reducible assumption
    | with_reducible apply ite_steady
    | with_reducible apply next_goes
    | with_reducible apply ite_goes
    | with_reducible apply State.spCmd_steady

theorem execSpCmdTarget_steady {s₀ : State} (dt : Nat) (src : CmdSrc) (tag : Nat) (s : State) (hS : Steady s₀ (State.advance s dt)) :
    Goes s₀ (execSpCmdTarget dt src tag s) := by
  unfold execSpCmdTarget
  try dsimp only
  repeat' first
    | with_reducible assumption
    | with_reducible apply ite_steady
    | with_reducible apply next_goes
    | with_reducible apply ite_goes
    | with_reducible apply State.spCmd_steady

theorem execSpCmdTrack_steady {s₀ : State} (dt : Nat) (src : CmdSrc) (tag : Nat) (s : State) (hS : Steady s₀ (State.advance s dt)) :
    Goes s₀ (execSpCmdTrack dt src tag s) := by
  unfold execSpCmdTrack
  try dsimp only
  repeat' first
    | with_reducible assumption
    | with_reducible apply ite_steady
    | with_reducible apply next_goes
    | with_reducible apply ite_goes
    | with_reducible apply State.spCmd_steady

theorem execHelmSolveDone_steady {s₀ : State} (dt : Nat) (tau : List Rat) (s : State) (hS : Steady s₀ (State.advance s dt)) :
    Goes s₀ (execHelmSolveDone dt tau s) := by
  unfold execHelmSolveDone
  try dsimp only
  repeat' first
    | with_reducible assumption
    | with_reducible apply ite_steady
    | with_reducible apply next_goes
    | with_reducible apply ite_goes
    | with_reducible apply State.set_steady
    | with_reducible apply State.joyAxis_steady
    | with_reducible apply State.helmMissed_steady
    | with_reducible apply State.helmOutput_steady
    | with_reducible apply State.helmNumeric_steady
    | with_reducible exact id
    | with_reducible rfl
    | exact fun _ h => h
    | with_reducible exact fun h => tput_sorted _ h (Nat.zero_le _)
    | with_reducible exact tdel_sorted
    | exact fun _ => rfl
    | with_reducible exact fun h => Memory.writeWord_wf _ _ h
    | split
    | (refine written_steady (by simp only [↓State.written_mk]) ?_; with_reducible apply mk_steady)

theorem execHelmMissLimit_steady {s₀ : State} (dt : Nat) (s : State) (hS : Steady s₀ (State.advance s dt)) :
    Goes s₀ (execHelmMissLimit dt s) := by
  unfold execHelmMissLimit
  try dsimp only
  repeat' first
    | with_reducible assumption
    | with_reducible apply ite_steady
    | with_reducible apply next_goes
    | with_reducible apply ite_goes
    | with_reducible apply State.deviceFault_steady

theorem execBlendEnd_steady {s₀ : State} (dt : Nat) (s : State) (hS : Steady s₀ (State.advance s dt)) :
    Goes s₀ (execBlendEnd dt s) := by
  unfold execBlendEnd
  try dsimp only
  repeat' first
    | with_reducible assumption
    | with_reducible apply ite_steady
    | with_reducible apply next_goes
    | with_reducible apply ite_goes
    | with_reducible apply State.set_steady
    | with_reducible exact id
    | with_reducible rfl
    | exact fun _ h => h
    | with_reducible exact fun h => tput_sorted _ h (Nat.zero_le _)
    | with_reducible exact tdel_sorted
    | exact fun _ => rfl
    | with_reducible exact fun h => Memory.writeWord_wf _ _ h
    | split
    | (refine written_steady (by simp only [↓State.written_mk]) ?_; with_reducible apply mk_steady)

theorem execEstCommit_steady {s₀ : State} (dt : Nat) (u : EstUpd) (s : State) (hS : Steady s₀ (State.advance s dt)) :
    Goes s₀ (execEstCommit dt u s) := by
  unfold execEstCommit
  try dsimp only
  repeat' first
    | with_reducible assumption
    | with_reducible apply ite_steady
    | with_reducible apply next_goes
    | with_reducible apply ite_goes
    | with_reducible apply State.estAbandon_steady
    | with_reducible apply State.helmBuild_steady
    | with_reducible apply State.estUpdate_steady
    | with_reducible exact id
    | with_reducible rfl
    | exact fun _ h => h
    | with_reducible exact fun h => tput_sorted _ h (Nat.zero_le _)
    | with_reducible exact tdel_sorted
    | exact fun _ => rfl
    | with_reducible exact fun h => Memory.writeWord_wf _ _ h
    | split

theorem execEstUpdateAbandon_steady {s₀ : State} (dt : Nat) (s : State) (hS : Steady s₀ (State.advance s dt)) :
    Goes s₀ (execEstUpdateAbandon dt s) := by
  unfold execEstUpdateAbandon
  try dsimp only
  repeat' first
    | with_reducible assumption
    | with_reducible apply ite_steady
    | with_reducible apply next_goes
    | with_reducible apply ite_goes
    | with_reducible apply State.estAbandon_steady
    | with_reducible apply State.helmBuild_steady
    | with_reducible exact id
    | with_reducible rfl
    | exact fun _ h => h
    | with_reducible exact fun h => tput_sorted _ h (Nat.zero_le _)
    | with_reducible exact tdel_sorted
    | exact fun _ => rfl
    | with_reducible exact fun h => Memory.writeWord_wf _ _ h
    | split

end Sys2Proof.Machine
end

