-- ==== Sys2Proof/Laws/GoesIsland.lean ====
section
/-!
SUPPORT. Every meaning of Machine/Island.lean answers a next state, and between the passage of its time and that state `Steady` holds.
-/

set_option Elab.async false

namespace Sys2Proof.Machine

open Sys2Proof

theorem execIslandCycle_steady {s₀ : State} (dt : Nat) (moved : List (Nat × Int)) (edm rbA rbB : Nat) (s : State) (hS : Steady s₀ (State.advance s dt)) :
    Goes s₀ (execIslandCycle dt moved edm rbA rbB s) := by
  unfold execIslandCycle
  try dsimp only
  repeat' first
    | with_reducible assumption
    | with_reducible apply ite_steady
    | with_reducible apply next_goes
    | with_reducible apply ite_goes
    | with_reducible apply State.islApply_steady
    | with_reducible apply State.set_steady
    | with_reducible apply State.axisTake_steady
    | with_reducible apply State.putIslOut_steady
    | (with_reducible apply foldl_steady; intro t x ht)
    | with_reducible exact id
    | with_reducible rfl
    | exact fun _ h => h
    | with_reducible exact fun h => tput_sorted _ h (Nat.zero_le _)
    | with_reducible exact tdel_sorted
    | exact fun _ => rfl
    | with_reducible exact fun h => Memory.writeWord_wf _ _ h
    | (refine written_steady (by simp only [↓State.written_mk]) ?_; with_reducible apply mk_steady)

theorem execSafeInputChange_steady {s₀ : State} (dt input : Nat) (chB level : Bool) (s : State) (hS : Steady s₀ (State.advance s dt)) :
    Goes s₀ (execSafeInputChange dt input chB level s) := by
  unfold execSafeInputChange
  try dsimp only
  repeat' first
    | with_reducible assumption
    | with_reducible apply ite_steady
    | with_reducible apply next_goes
    | with_reducible apply ite_goes
    | with_reducible apply State.inShow_steady
    | with_reducible apply State.islNote_steady
    | with_reducible apply State.setBitOf_steady
    | (with_reducible apply foldl_steady; intro t x ht)
    | with_reducible exact id
    | with_reducible rfl
    | exact fun _ h => h
    | with_reducible exact fun h => tput_sorted _ h (Nat.zero_le _)
    | with_reducible exact tdel_sorted
    | exact fun _ => rfl
    | with_reducible exact fun h => Memory.writeWord_wf _ _ h
    | split
    | (refine written_steady (by simp only [↓State.written_mk]) ?_; with_reducible apply mk_steady)

theorem execInputDiscrepancy_steady {s₀ : State} (dt input : Nat) (s : State) (hS : Steady s₀ (State.advance s dt)) :
    Goes s₀ (execInputDiscrepancy dt input s) := by
  unfold execInputDiscrepancy
  try dsimp only
  repeat' first
    | with_reducible assumption
    | with_reducible apply ite_steady
    | with_reducible apply next_goes
    | with_reducible apply ite_goes
    | with_reducible apply State.islFault_steady
    | with_reducible exact id
    | with_reducible rfl
    | exact fun _ h => h
    | with_reducible exact fun h => tput_sorted _ h (Nat.zero_le _)
    | with_reducible exact tdel_sorted
    | exact fun _ => rfl
    | with_reducible exact fun h => Memory.writeWord_wf _ _ h
    | split

theorem execIslandLockstepMismatch_steady {s₀ : State} (dt : Nat) (s : State) (hS : Steady s₀ (State.advance s dt)) :
    Goes s₀ (execIslandLockstepMismatch dt s) := by
  unfold execIslandLockstepMismatch
  try dsimp only
  repeat' first
    | with_reducible assumption
    | with_reducible apply ite_steady
    | with_reducible apply next_goes
    | with_reducible apply ite_goes
    | with_reducible apply State.islFault_steady
    | with_reducible apply State.deviceFault_steady

theorem execIslandWatchdogExpiry_steady {s₀ : State} (dt : Nat) (s : State) (hS : Steady s₀ (State.advance s dt)) :
    Goes s₀ (execIslandWatchdogExpiry dt s) := by
  unfold execIslandWatchdogExpiry
  try dsimp only
  repeat' first
    | with_reducible assumption
    | with_reducible apply ite_steady
    | with_reducible apply next_goes
    | with_reducible apply ite_goes
    | with_reducible apply State.islFault_steady

theorem execIslandClockFault_steady {s₀ : State} (dt : Nat) (s : State) (hS : Steady s₀ (State.advance s dt)) :
    Goes s₀ (execIslandClockFault dt s) := by
  unfold execIslandClockFault
  try dsimp only
  repeat' first
    | with_reducible assumption
    | with_reducible apply ite_steady
    | with_reducible apply next_goes
    | with_reducible apply ite_goes
    | with_reducible apply State.islFault_steady

theorem execIslandEccError_steady {s₀ : State} (dt : Nat) (s : State) (hS : Steady s₀ (State.advance s dt)) :
    Goes s₀ (execIslandEccError dt s) := by
  unfold execIslandEccError
  try dsimp only
  repeat' first
    | with_reducible assumption
    | with_reducible apply ite_steady
    | with_reducible apply next_goes
    | with_reducible apply ite_goes
    | with_reducible apply State.islFault_steady

theorem execParamCrcRecheck_steady {s₀ : State} (dt crc : Nat) (s : State) (hS : Steady s₀ (State.advance s dt)) :
    Goes s₀ (execParamCrcRecheck dt crc s) := by
  unfold execParamCrcRecheck
  try dsimp only
  repeat' first
    | with_reducible assumption
    | with_reducible apply ite_steady
    | with_reducible apply next_goes
    | with_reducible apply ite_goes
    | with_reducible apply State.islFault_steady

theorem execTestPulseStart_steady {s₀ : State} (dt out : Nat) (chB filtering : Bool) (s : State) (hS : Steady s₀ (State.advance s dt)) :
    Goes s₀ (execTestPulseStart dt out chB filtering s) := by
  unfold execTestPulseStart
  try dsimp only
  repeat' first
    | with_reducible assumption
    | with_reducible apply ite_steady
    | with_reducible apply next_goes
    | with_reducible apply ite_goes
    | with_reducible apply State.setDefer_steady
    | with_reducible apply State.record_steady
    | with_reducible apply State.putIslOut_steady
    | with_reducible apply State.evt_steady
    | with_reducible exact id
    | with_reducible rfl
    | exact fun _ h => h
    | with_reducible exact fun h => tput_sorted _ h (Nat.zero_le _)
    | with_reducible exact tdel_sorted
    | exact fun _ => rfl
    | with_reducible exact fun h => Memory.writeWord_wf _ _ h
    | split

theorem execTestPulseEnd_steady {s₀ : State} (dt out : Nat) (chB : Bool) (s : State) (hS : Steady s₀ (State.advance s dt)) :
    Goes s₀ (execTestPulseEnd dt out chB s) := by
  unfold execTestPulseEnd
  try dsimp only
  repeat' first
    | with_reducible assumption
    | with_reducible apply ite_steady
    | with_reducible apply next_goes
    | with_reducible apply ite_goes
    | with_reducible apply State.putIslOut_steady
    | with_reducible exact id
    | with_reducible rfl
    | exact fun _ h => h
    | with_reducible exact fun h => tput_sorted _ h (Nat.zero_le _)
    | with_reducible exact tdel_sorted
    | exact fun _ => rfl
    | with_reducible exact fun h => Memory.writeWord_wf _ _ h
    | split

theorem execTestOffCheck_steady {s₀ : State} (dt out : Nat) (chB : Bool) (us : Nat) (s : State) (hS : Steady s₀ (State.advance s dt)) :
    Goes s₀ (execTestOffCheck dt out chB us s) := by
  unfold execTestOffCheck
  try dsimp only
  repeat' first
    | with_reducible assumption
    | with_reducible apply ite_steady
    | with_reducible apply next_goes
    | with_reducible apply ite_goes
    | with_reducible apply State.putIslOut_steady
    | with_reducible apply State.setDefer_steady
    | with_reducible apply State.islFault_steady
    | with_reducible apply State.set_steady
    | with_reducible apply State.setB_steady
    | with_reducible apply State.inc_steady
    | with_reducible apply State.record_steady
    | with_reducible exact id
    | with_reducible rfl
    | exact fun _ h => h
    | with_reducible exact fun h => tput_sorted _ h (Nat.zero_le _)
    | with_reducible exact tdel_sorted
    | exact fun _ => rfl
    | with_reducible exact fun h => Memory.writeWord_wf _ _ h
    | split
    | (refine written_steady (by simp only [↓State.written_mk]) ?_; with_reducible apply mk_steady)

theorem execReadbackFault_steady {s₀ : State} (dt out : Nat) (chB : Bool) (us : Nat) (s : State) (hS : Steady s₀ (State.advance s dt)) :
    Goes s₀ (execReadbackFault dt out chB us s) := by
  unfold execReadbackFault
  try dsimp only
  repeat' first
    | with_reducible assumption
    | with_reducible apply ite_steady
    | with_reducible apply next_goes
    | with_reducible apply ite_goes
    | with_reducible apply State.islFault_steady
    | with_reducible apply State.set_steady
    | with_reducible exact id
    | with_reducible rfl
    | exact fun _ h => h
    | with_reducible exact fun h => tput_sorted _ h (Nat.zero_le _)
    | with_reducible exact tdel_sorted
    | exact fun _ => rfl
    | with_reducible exact fun h => Memory.writeWord_wf _ _ h
    | split
    | (refine written_steady (by simp only [↓State.written_mk]) ?_; with_reducible apply mk_steady)

theorem execTestStarved_steady {s₀ : State} (dt out : Nat) (chB : Bool) (s : State) (hS : Steady s₀ (State.advance s dt)) :
    Goes s₀ (execTestStarved dt out chB s) := by
  unfold execTestStarved
  try dsimp only
  repeat' first
    | with_reducible assumption
    | with_reducible apply ite_steady
    | with_reducible apply next_goes
    | with_reducible apply ite_goes
    | with_reducible apply State.islFault_steady

theorem execEdmFault_steady {s₀ : State} (dt out : Nat) (s : State) (hS : Steady s₀ (State.advance s dt)) :
    Goes s₀ (execEdmFault dt out s) := by
  unfold execEdmFault
  try dsimp only
  repeat' first
    | with_reducible assumption
    | with_reducible apply ite_steady
    | with_reducible apply next_goes
    | with_reducible apply ite_goes
    | with_reducible apply State.islFault_steady
    | with_reducible exact id
    | with_reducible rfl
    | exact fun _ h => h
    | with_reducible exact fun h => tput_sorted _ h (Nat.zero_le _)
    | with_reducible exact tdel_sorted
    | exact fun _ => rfl
    | with_reducible exact fun h => Memory.writeWord_wf _ _ h
    | split

theorem execAxisDiscrepancy_steady {s₀ : State} (dt axis : Nat) (s : State) (hS : Steady s₀ (State.advance s dt)) :
    Goes s₀ (execAxisDiscrepancy dt axis s) := by
  unfold execAxisDiscrepancy
  try dsimp only
  repeat' first
    | with_reducible assumption
    | with_reducible apply ite_steady
    | with_reducible apply next_goes
    | with_reducible apply ite_goes
    | with_reducible apply State.islFault_steady
    | with_reducible exact id
    | with_reducible rfl
    | exact fun _ h => h
    | with_reducible exact fun h => tput_sorted _ h (Nat.zero_le _)
    | with_reducible exact tdel_sorted
    | exact fun _ => rfl
    | with_reducible exact fun h => Memory.writeWord_wf _ _ h
    | split

theorem execSafetyEncoderIndex_steady {s₀ : State} (dt axis : Nat) (moved : Int) (s : State) (hS : Steady s₀ (State.advance s dt)) :
    Goes s₀ (execSafetyEncoderIndex dt axis moved s) := by
  unfold execSafetyEncoderIndex
  try dsimp only
  repeat' first
    | with_reducible assumption
    | with_reducible apply ite_steady
    | with_reducible apply next_goes
    | with_reducible apply ite_goes
    | with_reducible apply State.putIslAx_steady
    | with_reducible apply State.set_steady
    | with_reducible exact id
    | with_reducible rfl
    | exact fun _ h => h
    | with_reducible exact fun h => tput_sorted _ h (Nat.zero_le _)
    | with_reducible exact tdel_sorted
    | exact fun _ => rfl
    | with_reducible exact fun h => Memory.writeWord_wf _ _ h
    | split

theorem execSafetyEncoderError_steady {s₀ : State} (dt axis : Nat) (s : State) (hS : Steady s₀ (State.advance s dt)) :
    Goes s₀ (execSafetyEncoderError dt axis s) := by
  unfold execSafetyEncoderError
  try dsimp only
  repeat' first
    | with_reducible assumption
    | with_reducible apply ite_steady
    | with_reducible apply next_goes
    | with_reducible apply ite_goes
    | with_reducible apply State.putIslAx_steady
    | with_reducible apply State.islFault_steady
    | with_reducible exact id
    | with_reducible rfl
    | exact fun _ h => h
    | with_reducible exact fun h => tput_sorted _ h (Nat.zero_le _)
    | with_reducible exact tdel_sorted
    | exact fun _ => rfl
    | with_reducible exact fun h => Memory.writeWord_wf _ _ h
    | split

theorem execSafeResetPress_steady {s₀ : State} (dt lowMs : Nat) (s : State) (hS : Steady s₀ (State.advance s dt)) :
    Goes s₀ (execSafeResetPress dt lowMs s) := by
  unfold execSafeResetPress
  try dsimp only
  repeat' first
    | with_reducible assumption
    | with_reducible apply ite_steady
    | with_reducible apply next_goes
    | with_reducible apply ite_goes
    | with_reducible apply State.incSat_steady
    | with_reducible apply State.inc_steady
    | with_reducible apply State.islAck_steady
    | with_reducible apply State.set_steady
    | with_reducible apply State.evt_steady
    | with_reducible apply State.record_steady
    | with_reducible apply State.islTo_steady
    | with_reducible exact id
    | with_reducible rfl
    | exact fun _ h => h
    | with_reducible exact fun h => tput_sorted _ h (Nat.zero_le _)
    | with_reducible exact tdel_sorted
    | exact fun _ => rfl
    | with_reducible exact fun h => Memory.writeWord_wf _ _ h
    | (refine written_steady (by simp only [↓State.written_mk]) ?_; with_reducible apply mk_steady)

theorem execSafeResetStuck_steady {s₀ : State} (dt lowMs : Nat) (s : State) (hS : Steady s₀ (State.advance s dt)) :
    Goes s₀ (execSafeResetStuck dt lowMs s) := by
  unfold execSafeResetStuck
  try dsimp only
  repeat' first
    | with_reducible assumption
    | with_reducible apply ite_steady
    | with_reducible apply next_goes
    | with_reducible apply ite_goes
    | with_reducible apply State.record_steady
    | with_reducible apply State.set_steady
    | with_reducible exact id
    | with_reducible rfl
    | exact fun _ h => h
    | with_reducible exact fun h => tput_sorted _ h (Nat.zero_le _)
    | with_reducible exact tdel_sorted
    | exact fun _ => rfl
    | with_reducible exact fun h => Memory.writeWord_wf _ _ h
    | (refine written_steady (by simp only [↓State.written_mk]) ?_; with_reducible apply mk_steady)

theorem execSafeCvCommit_steady {s₀ : State} (dt : Nat) (port : Port) (s : State) (hS : Steady s₀ (State.advance s dt)) :
    Goes s₀ (execSafeCvCommit dt port s) := by
  unfold execSafeCvCommit
  try dsimp only
  repeat' first
    | with_reducible assumption
    | with_reducible apply ite_steady
    | with_reducible apply next_goes
    | with_reducible apply ite_goes
    | (with_reducible apply State.withRole_steady; intro t ht)
    | with_reducible apply State.cvCommit_steady

theorem execSafeOffReqWrite_steady {s₀ : State} (dt : Nat) (port : Port) (mask : Nat) (s : State) (hS : Steady s₀ (State.advance s dt)) :
    Goes s₀ (execSafeOffReqWrite dt port mask s) := by
  unfold execSafeOffReqWrite
  try dsimp only
  repeat' first
    | with_reducible assumption
    | with_reducible apply ite_steady
    | with_reducible apply next_goes
    | with_reducible apply ite_goes
    | (with_reducible apply State.withRole_steady; intro t ht)
    | with_reducible apply State.set_steady
    | with_reducible apply State.record_steady

theorem execPermitMailboxWrite_steady {s₀ : State} (dt : Nat) (s : State) (hS : Steady s₀ (State.advance s dt)) :
    Goes s₀ (execPermitMailboxWrite dt s) := by
  unfold execPermitMailboxWrite
  try dsimp only
  repeat' first
    | with_reducible assumption
    | with_reducible apply ite_steady
    | with_reducible apply next_goes
    | with_reducible apply ite_goes
    | with_reducible apply State.set_steady
    | with_reducible exact id
    | with_reducible rfl
    | exact fun _ h => h
    | with_reducible exact fun h => tput_sorted _ h (Nat.zero_le _)
    | with_reducible exact tdel_sorted
    | exact fun _ => rfl
    | with_reducible exact fun h => Memory.writeWord_wf _ _ h
    | split
    | (refine written_steady (by simp only [↓State.written_mk]) ?_; with_reducible apply mk_steady)

end Sys2Proof.Machine
end

