-- ==== Sys2Proof/Laws/SteadyLog.lean ====
section
/-!
SUPPORT. Every operation of Machine/Log.lean keeps what `Steady` says.
-/

set_option Elab.async false

namespace Sys2Proof.Machine

open Sys2Proof

theorem State.flushNow_steady {s₀ : State} (s : State) (readbackOk : Bool) (hS : Steady s₀ s) :
    Steady s₀ (State.flushNow s readbackOk) := by
  unfold State.flushNow
  try dsimp only
  repeat' first
    | with_reducible assumption
    | with_reducible apply ite_steady
    | with_reducible apply State.journalWait_steady
    | with_reducible apply State.lossRecord_steady
    | with_reducible apply State.set_steady
    | with_reducible apply State.alarm_steady
    | with_reducible apply State.evt_steady
    | with_reducible exact id
    | with_reducible rfl
    | exact fun _ h => h
    | with_reducible exact fun h => tput_sorted _ h (Nat.zero_le _)
    | with_reducible exact tdel_sorted
    | exact fun _ => rfl
    | with_reducible exact fun h => Memory.writeWord_wf _ _ h
    | (refine written_steady (by simp only [↓State.written_mk]) ?_; with_reducible apply mk_steady)

theorem State.logRead_steady {s₀ : State} (s : State) (p : Port) (v : Nat) (hS : Steady s₀ s) :
    Steady s₀ (State.logRead s p v) := by
  unfold State.logRead
  try dsimp only
  repeat' first
    | with_reducible assumption
    | with_reducible apply ite_steady
    | with_reducible exact id
    | with_reducible rfl
    | exact fun _ h => h
    | with_reducible exact fun h => tput_sorted _ h (Nat.zero_le _)
    | with_reducible exact tdel_sorted
    | exact fun _ => rfl
    | with_reducible exact fun h => Memory.writeWord_wf _ _ h
    | split
    | (refine written_steady (by simp only [↓State.written_mk]) ?_; with_reducible apply mk_steady)

end Sys2Proof.Machine
end

