-- ==== Sys2Proof/Laws/GoesLoop.lean ====
section
/-!
SUPPORT. Every meaning of Machine/Loop.lean answers a next state, and between the passage of its time and that state `Steady` holds.
-/

set_option Elab.async false

namespace Sys2Proof.Machine

open Sys2Proof

theorem execEncoderIndex_steady {s₀ : State} (dt enc : Nat) (moved : Int) (s : State) (hS : Steady s₀ (State.advance s dt)) :
    Goes s₀ (execEncoderIndex dt enc moved s) := by
  unfold execEncoderIndex
  try dsimp only
  repeat' first
    | with_reducible assumption
    | with_reducible apply ite_steady
    | with_reducible apply next_goes
    | with_reducible apply ite_goes
    | with_reducible apply State.putEnc_steady
    | with_reducible apply State.encMove_steady
    | with_reducible apply State.set_steady
    | with_reducible exact id
    | with_reducible rfl
    | exact fun _ h => h
    | with_reducible exact fun h => tput_sorted _ h (Nat.zero_le _)
    | with_reducible exact tdel_sorted
    | exact fun _ => rfl
    | with_reducible exact fun h => Memory.writeWord_wf _ _ h
    | split

theorem execEncoderEdgeError_steady {s₀ : State} (dt enc : Nat) (moved : Int) (s : State) (hS : Steady s₀ (State.advance s dt)) :
    Goes s₀ (execEncoderEdgeError dt enc moved s) := by
  unfold execEncoderEdgeError
  try dsimp only
  repeat' first
    | with_reducible assumption
    | with_reducible apply ite_steady
    | with_reducible apply next_goes
    | with_reducible apply ite_goes
    | with_reducible apply State.encMove_steady
    | with_reducible apply State.encEdgeError_steady

theorem execPwmPeriodStart_steady {s₀ : State} (dt ch : Nat) (s : State) (hS : Steady s₀ (State.advance s dt)) :
    Goes s₀ (execPwmPeriodStart dt ch s) := by
  unfold execPwmPeriodStart
  try dsimp only
  repeat' first
    | with_reducible assumption
    | with_reducible apply ite_steady
    | with_reducible apply next_goes
    | with_reducible apply ite_goes
    | with_reducible apply State.putPwm_steady
    | with_reducible exact id
    | with_reducible rfl
    | exact fun _ h => h
    | with_reducible exact fun h => tput_sorted _ h (Nat.zero_le _)
    | with_reducible exact tdel_sorted
    | exact fun _ => rfl
    | with_reducible exact fun h => Memory.writeWord_wf _ _ h
    | split

theorem execInjectionStart_steady {s₀ : State} (dt : Nat) (port : Port) (s : State) (hS : Steady s₀ (State.advance s dt)) :
    Goes s₀ (execInjectionStart dt port s) := by
  unfold execInjectionStart
  try dsimp only
  repeat' first
    | with_reducible assumption
    | with_reducible apply ite_steady
    | with_reducible apply next_goes
    | with_reducible apply ite_goes
    | (with_reducible apply State.withRole_steady; intro t ht)
    | with_reducible apply State.set_steady
    | with_reducible apply State.putCell_steady
    | with_reducible apply State.record_steady
    | with_reducible exact id
    | with_reducible rfl
    | exact fun _ h => h
    | with_reducible exact fun h => tput_sorted _ h (Nat.zero_le _)
    | with_reducible exact tdel_sorted
    | exact fun _ => rfl
    | with_reducible exact fun h => Memory.writeWord_wf _ _ h
    | split

theorem execInjectionStop_steady {s₀ : State} (dt : Nat) (port : Port) (s : State) (hS : Steady s₀ (State.advance s dt)) :
    Goes s₀ (execInjectionStop dt port s) := by
  unfold execInjectionStop
  try dsimp only
  repeat' first
    | with_reducible assumption
    | with_reducible apply ite_steady
    | with_reducible apply next_goes
    | with_reducible apply ite_goes
    | with_reducible apply State.injStop_steady
    | (with_reducible apply State.withRole_steady; intro t ht)

theorem execInjectionEnd_steady {s₀ : State} (dt cell : Nat) (s : State) (hS : Steady s₀ (State.advance s dt)) :
    Goes s₀ (execInjectionEnd dt cell s) := by
  unfold execInjectionEnd
  try dsimp only
  repeat' first
    | with_reducible assumption
    | with_reducible apply ite_steady
    | with_reducible apply next_goes
    | with_reducible apply ite_goes
    | with_reducible apply State.injStop_steady
    | with_reducible exact id
    | with_reducible rfl
    | exact fun _ h => h
    | with_reducible exact fun h => tput_sorted _ h (Nat.zero_le _)
    | with_reducible exact tdel_sorted
    | exact fun _ => rfl
    | with_reducible exact fun h => Memory.writeWord_wf _ _ h
    | split

theorem execCaptureArm_steady {s₀ : State} (dt : Nat) (port : Port) (s : State) (hS : Steady s₀ (State.advance s dt)) :
    Goes s₀ (execCaptureArm dt port s) := by
  unfold execCaptureArm
  try dsimp only
  repeat' first
    | with_reducible assumption
    | with_reducible apply ite_steady
    | with_reducible apply next_goes
    | with_reducible apply ite_goes
    | with_reducible apply State.set_steady
    | (with_reducible apply State.withRole_steady; intro t ht)
    | with_reducible apply State.putCap_steady

theorem execCaptureForce_steady {s₀ : State} (dt : Nat) (port : Port) (s : State) (hS : Steady s₀ (State.advance s dt)) :
    Goes s₀ (execCaptureForce dt port s) := by
  unfold execCaptureForce
  try dsimp only
  repeat' first
    | with_reducible assumption
    | with_reducible apply ite_steady
    | with_reducible apply next_goes
    | with_reducible apply ite_goes
    | with_reducible apply State.set_steady
    | (with_reducible apply State.withRole_steady; intro t ht)
    | with_reducible apply State.capTrigger_steady

theorem execCaptureAbort_steady {s₀ : State} (dt : Nat) (port : Port) (s : State) (hS : Steady s₀ (State.advance s dt)) :
    Goes s₀ (execCaptureAbort dt port s) := by
  unfold execCaptureAbort
  try dsimp only
  repeat' first
    | with_reducible assumption
    | with_reducible apply ite_steady
    | with_reducible apply next_goes
    | with_reducible apply ite_goes
    | with_reducible apply State.set_steady
    | (with_reducible apply State.withRole_steady; intro t ht)

theorem execCaptureDone_steady {s₀ : State} (dt unit : Nat) (s : State) (hS : Steady s₀ (State.advance s dt)) :
    Goes s₀ (execCaptureDone dt unit s) := by
  unfold execCaptureDone
  try dsimp only
  repeat' first
    | with_reducible assumption
    | with_reducible apply ite_steady
    | with_reducible apply next_goes
    | with_reducible apply ite_goes
    | with_reducible apply State.set_steady
    | with_reducible apply State.evt_steady
    | with_reducible apply State.record_steady

theorem execLoopCellRun_steady {s₀ : State} (dt cell : Nat) (counts : List (Nat × Nat)) (s : State) (hS : Steady s₀ (State.advance s dt)) :
    Goes s₀ (execLoopCellRun dt cell counts s) := by
  unfold execLoopCellRun
  try dsimp only
  repeat' first
    | with_reducible assumption
    | with_reducible apply ite_steady
    | with_reducible apply next_goes
    | with_reducible apply ite_goes
    | with_reducible apply State.putCell_steady
    | with_reducible apply State.cellTurn_steady
    | with_reducible apply State.safeRamp_steady
    | with_reducible exact id
    | with_reducible rfl
    | exact fun _ h => h
    | with_reducible exact fun h => tput_sorted _ h (Nat.zero_le _)
    | with_reducible exact tdel_sorted
    | exact fun _ => rfl
    | with_reducible exact fun h => Memory.writeWord_wf _ _ h
    | split

theorem execCellMissLimit_steady {s₀ : State} (dt cell : Nat) (s : State) (hS : Steady s₀ (State.advance s dt)) :
    Goes s₀ (execCellMissLimit dt cell s) := by
  unfold execCellMissLimit
  try dsimp only
  repeat' first
    | with_reducible assumption
    | with_reducible apply ite_steady
    | with_reducible apply next_goes
    | with_reducible apply ite_goes
    | with_reducible apply State.putCell_steady
    | with_reducible apply State.injStop_steady
    | with_reducible apply State.evt_steady
    | with_reducible apply State.setOut_steady
    | with_reducible apply State.safeLawNote_steady
    | with_reducible apply State.set_steady
    | with_reducible apply State.record_steady
    | with_reducible exact id
    | with_reducible rfl
    | exact fun _ h => h
    | with_reducible exact fun h => tput_sorted _ h (Nat.zero_le _)
    | with_reducible exact tdel_sorted
    | exact fun _ => rfl
    | with_reducible exact fun h => Memory.writeWord_wf _ _ h
    | split

theorem execLoopCellSpRead_steady {s₀ : State} (dt : Nat) (port : Port) (s : State) (hS : Steady s₀ (State.advance s dt)) :
    Goes s₀ (execLoopCellSpRead dt port s) := by
  unfold execLoopCellSpRead
  try dsimp only
  repeat' first
    | with_reducible assumption
    | with_reducible apply ite_steady
    | with_reducible apply next_goes
    | with_reducible apply ite_goes
    | with_reducible apply State.lullLeave_steady
    | with_reducible exact id
    | with_reducible rfl
    | exact fun _ h => h
    | with_reducible exact fun h => tput_sorted _ h (Nat.zero_le _)
    | with_reducible exact tdel_sorted
    | exact fun _ => rfl
    | with_reducible exact fun h => Memory.writeWord_wf _ _ h
    | split
    | (refine written_steady (by simp only [↓State.written_mk]) ?_; with_reducible apply mk_steady)

end Sys2Proof.Machine
end

