-- ==== Sys2Proof/Laws/GoesManifest.lean ====
section
/-!
SUPPORT. Every meaning of Machine/Manifest.lean answers a next state, and between the passage of its time and that state `Steady` holds.
-/

set_option Elab.async false

namespace Sys2Proof.Machine

open Sys2Proof

theorem execMnfInstall_steady {s₀ : State} (dt : Nat) (port : Port) (image : SlotImage) (run : InstRun) (s : State) (hS : Steady s₀ (State.advance s dt)) :
    Goes s₀ (execMnfInstall dt port image run s) := by
  unfold execMnfInstall
  try dsimp only
  repeat' first
    | with_reducible assumption
    | with_reducible apply ite_steady
    | with_reducible apply next_goes
    | with_reducible apply ite_goes
    | with_reducible apply State.set_steady
    | (with_reducible apply State.withRole_steady; intro t ht)
    | with_reducible apply State.install_steady

theorem execMnfRestore_steady {s₀ : State} (dt : Nat) (port : Port) (run : InstRun) (s : State) (hS : Steady s₀ (State.advance s dt)) :
    Goes s₀ (execMnfRestore dt port run s) := by
  unfold execMnfRestore
  try dsimp only
  repeat' first
    | with_reducible assumption
    | with_reducible apply ite_steady
    | with_reducible apply next_goes
    | with_reducible apply ite_goes
    | with_reducible apply State.set_steady
    | with_reducible apply State.instRefuse_steady
    | with_reducible apply State.instRun_steady
    | (with_reducible apply State.withRole_steady; intro t ht)
    | with_reducible apply State.instRecord_steady
    | with_reducible apply State.instEnd_steady
    | with_reducible exact id
    | with_reducible rfl
    | exact fun _ h => h
    | with_reducible exact fun h => tput_sorted _ h (Nat.zero_le _)
    | with_reducible exact tdel_sorted
    | exact fun _ => rfl
    | with_reducible exact fun h => Memory.writeWord_wf _ _ h
    | split

theorem execInstallResume_steady {s₀ : State} (dt : Nat) (run : InstRun) (s : State) (hS : Steady s₀ (State.advance s dt)) :
    Goes s₀ (execInstallResume dt run s) := by
  unfold execInstallResume
  try dsimp only
  repeat' first
    | with_reducible assumption
    | with_reducible apply ite_steady
    | with_reducible apply next_goes
    | with_reducible apply ite_goes
    | with_reducible apply State.install_steady
    | with_reducible apply State.instWrite_steady
    | with_reducible exact id
    | with_reducible rfl
    | exact fun _ h => h
    | with_reducible exact fun h => tput_sorted _ h (Nat.zero_le _)
    | with_reducible exact tdel_sorted
    | exact fun _ => rfl
    | with_reducible exact fun h => Memory.writeWord_wf _ _ h
    | split

theorem execStagedImageReceive_steady {s₀ : State} (dt : Nat) (image : SlotImage) (run : InstRun) (s : State) (hS : Steady s₀ (State.advance s dt)) :
    Goes s₀ (execStagedImageReceive dt image run s) := by
  unfold execStagedImageReceive
  try dsimp only
  repeat' first
    | with_reducible assumption
    | with_reducible apply ite_steady
    | with_reducible apply next_goes
    | with_reducible apply ite_goes
    | with_reducible apply State.install_steady

theorem execInstallerParamChange_steady {s₀ : State} (dt : Nat) (port : Port) (param : Nat) (value : Int) (s : State) (hS : Steady s₀ (State.advance s dt)) :
    Goes s₀ (execInstallerParamChange dt port param value s) := by
  unfold execInstallerParamChange
  try dsimp only
  repeat' first
    | with_reducible assumption
    | with_reducible apply ite_steady
    | with_reducible apply next_goes
    | with_reducible apply ite_goes
    | with_reducible apply State.paramRecord_steady
    | (with_reducible apply State.withRole_steady; intro t ht)
    | with_reducible exact id
    | with_reducible rfl
    | exact fun _ h => h
    | with_reducible exact fun h => tput_sorted _ h (Nat.zero_le _)
    | with_reducible exact tdel_sorted
    | exact fun _ => rfl
    | with_reducible exact fun h => Memory.writeWord_wf _ _ h
    | split
    | (refine written_steady (by simp only [↓State.written_mk]) ?_; with_reducible apply mk_steady)

theorem execRollCallIssue_steady {s₀ : State} (dt : Nat) (s : State) (hS : Steady s₀ (State.advance s dt)) :
    Goes s₀ (execRollCallIssue dt s) := by
  unfold execRollCallIssue
  try dsimp only
  repeat' first
    | with_reducible assumption
    | with_reducible apply ite_steady
    | with_reducible apply next_goes
    | with_reducible apply ite_goes
    | with_reducible apply State.rollAbsent_steady
    | with_reducible apply State.canRoll_steady
    | with_reducible apply State.ethRoll_steady
    | (with_reducible apply foldl_steady; intro t x ht)
    | with_reducible exact id
    | with_reducible rfl
    | exact fun _ h => h
    | with_reducible exact fun h => tput_sorted _ h (Nat.zero_le _)
    | with_reducible exact tdel_sorted
    | exact fun _ => rfl
    | with_reducible exact fun h => Memory.writeWord_wf _ _ h
    | (refine written_steady (by simp only [↓State.written_mk]) ?_; with_reducible apply mk_steady)

theorem execRollCallReply_steady {s₀ : State} (dt node mark seq : Nat) (s : State) (hS : Steady s₀ (State.advance s dt)) :
    Goes s₀ (execRollCallReply dt node mark seq s) := by
  unfold execRollCallReply
  try dsimp only
  repeat' first
    | with_reducible assumption
    | with_reducible apply ite_steady
    | with_reducible apply next_goes
    | with_reducible apply ite_goes
    | with_reducible apply State.rollReply_steady

end Sys2Proof.Machine
end

