-- ==== Sys2Proof/Laws/GoesModes.lean ====
section
/-!
SUPPORT. Every meaning of Machine/Modes.lean answers a next state, and between the passage of its time and that state `Steady` holds.
-/

set_option Elab.async false

namespace Sys2Proof.Machine

open Sys2Proof

theorem execModeCmdReady_steady {s₀ : State} (dt : Nat) (src : CmdSrc) (tag : Nat) (s : State) (hS : Steady s₀ (State.advance s dt)) :
    Goes s₀ (execModeCmdReady dt src tag s) := by
  unfold execModeCmdReady
  try dsimp only
  repeat' first
    | with_reducible assumption
    | with_reducible apply ite_steady
    | with_reducible apply next_goes
    | with_reducible apply ite_goes
    | with_reducible apply State.modeCmd_steady

theorem execModeCmdStation_steady {s₀ : State} (dt : Nat) (src : CmdSrc) (tag : Nat) (s : State) (hS : Steady s₀ (State.advance s dt)) :
    Goes s₀ (execModeCmdStation dt src tag s) := by
  unfold execModeCmdStation
  try dsimp only
  repeat' first
    | with_reducible assumption
    | with_reducible apply ite_steady
    | with_reducible apply next_goes
    | with_reducible apply ite_goes
    | with_reducible apply State.modeCmd_steady

theorem execModeCmdPassage_steady {s₀ : State} (dt : Nat) (src : CmdSrc) (tag : Nat) (s : State) (hS : Steady s₀ (State.advance s dt)) :
    Goes s₀ (execModeCmdPassage dt src tag s) := by
  unfold execModeCmdPassage
  try dsimp only
  repeat' first
    | with_reducible assumption
    | with_reducible apply ite_steady
    | with_reducible apply next_goes
    | with_reducible apply ite_goes
    | with_reducible apply State.modeCmd_steady

theorem execModeCmdSafe_steady {s₀ : State} (dt : Nat) (src : CmdSrc) (tag : Nat) (s : State) (hS : Steady s₀ (State.advance s dt)) :
    Goes s₀ (execModeCmdSafe dt src tag s) := by
  unfold execModeCmdSafe
  try dsimp only
  repeat' first
    | with_reducible assumption
    | with_reducible apply ite_steady
    | with_reducible apply next_goes
    | with_reducible apply ite_goes
    | with_reducible apply State.modeCmd_steady

theorem execModeCmdDormant_steady {s₀ : State} (dt : Nat) (src : CmdSrc) (tag : Nat) (s : State) (hS : Steady s₀ (State.advance s dt)) :
    Goes s₀ (execModeCmdDormant dt src tag s) := by
  unfold execModeCmdDormant
  try dsimp only
  repeat' first
    | with_reducible assumption
    | with_reducible apply ite_steady
    | with_reducible apply next_goes
    | with_reducible apply ite_goes
    | with_reducible apply State.modeCmd_steady

theorem execSafeEntry_steady {s₀ : State} (dt : Nat) (s : State) (hS : Steady s₀ (State.advance s dt)) :
    Goes s₀ (execSafeEntry dt s) := by
  unfold execSafeEntry
  try dsimp only
  repeat' first
    | with_reducible assumption
    | with_reducible apply ite_steady
    | with_reducible apply next_goes
    | with_reducible apply ite_goes
    | with_reducible apply State.runInFail_steady
    | with_reducible apply State.safeEnter_steady
    | with_reducible exact id
    | with_reducible rfl
    | exact fun _ h => h
    | with_reducible exact fun h => tput_sorted _ h (Nat.zero_le _)
    | with_reducible exact tdel_sorted
    | exact fun _ => rfl
    | with_reducible exact fun h => Memory.writeWord_wf _ _ h
    | split

theorem execDormantEntryDone_steady {s₀ : State} (dt : Nat) (s : State) (hS : Steady s₀ (State.advance s dt)) :
    Goes s₀ (execDormantEntryDone dt s) := by
  unfold execDormantEntryDone
  try dsimp only
  repeat' first
    | with_reducible assumption
    | with_reducible apply ite_steady
    | with_reducible apply next_goes
    | with_reducible apply ite_goes
    | with_reducible apply State.powerOff_steady
    | with_reducible exact id
    | with_reducible rfl
    | exact fun _ h => h
    | with_reducible exact fun h => tput_sorted _ h (Nat.zero_le _)
    | with_reducible exact tdel_sorted
    | exact fun _ => rfl
    | with_reducible exact fun h => Memory.writeWord_wf _ _ h
    | split
    | (refine written_steady (by simp only [↓State.written_mk]) ?_; with_reducible apply mk_steady)

theorem execModeResetWrite_steady {s₀ : State} (dt : Nat) (port : Port) (key : Nat) (s : State) (hS : Steady s₀ (State.advance s dt)) :
    Goes s₀ (execModeResetWrite dt port key s) := by
  unfold execModeResetWrite
  try dsimp only
  repeat' first
    | with_reducible assumption
    | with_reducible apply ite_steady
    | with_reducible apply next_goes
    | with_reducible apply ite_goes
    | (with_reducible apply State.withRole_steady; intro t ht)
    | with_reducible apply State.closeSession_steady
    | with_reducible apply State.rwlIgnored_steady
    | with_reducible apply State.deliberateReset_steady
    | with_reducible exact id
    | with_reducible rfl
    | exact fun _ h => h
    | with_reducible exact fun h => tput_sorted _ h (Nat.zero_le _)
    | with_reducible exact tdel_sorted
    | exact fun _ => rfl
    | with_reducible exact fun h => Memory.writeWord_wf _ _ h
    | split
    | (refine written_steady (by simp only [↓State.written_mk]) ?_; with_reducible apply mk_steady)

theorem execModeResetTimeout_steady {s₀ : State} (dt : Nat) (s : State) (hS : Steady s₀ (State.advance s dt)) :
    Goes s₀ (execModeResetTimeout dt s) := by
  unfold execModeResetTimeout
  try dsimp only
  repeat' first
    | with_reducible assumption
    | with_reducible apply ite_steady
    | with_reducible apply next_goes
    | with_reducible apply ite_goes
    | with_reducible apply State.rwlIgnored_steady
    | with_reducible exact id
    | with_reducible rfl
    | exact fun _ h => h
    | with_reducible exact fun h => tput_sorted _ h (Nat.zero_le _)
    | with_reducible exact tdel_sorted
    | exact fun _ => rfl
    | with_reducible exact fun h => Memory.writeWord_wf _ _ h
    | split
    | (refine written_steady (by simp only [↓State.written_mk]) ?_; with_reducible apply mk_steady)

theorem execModeTickLoRead_steady {s₀ : State} (dt : Nat) (port : Port) (s : State) (hS : Steady s₀ (State.advance s dt)) :
    Goes s₀ (execModeTickLoRead dt port s) := by
  unfold execModeTickLoRead
  try dsimp only
  repeat' first
    | with_reducible assumption
    | with_reducible apply ite_steady
    | with_reducible apply next_goes
    | with_reducible apply ite_goes
    | with_reducible apply State.set_steady
    | with_reducible apply State.reads_steady

theorem execEngineLockstepMismatch_steady {s₀ : State} (dt engine : Nat) (s : State) (hS : Steady s₀ (State.advance s dt)) :
    Goes s₀ (execEngineLockstepMismatch dt engine s) := by
  unfold execEngineLockstepMismatch
  try dsimp only
  repeat' first
    | with_reducible assumption
    | with_reducible apply ite_steady
    | with_reducible apply next_goes
    | with_reducible apply ite_goes
    | with_reducible apply State.deviceFault_steady
    | with_reducible exact id
    | with_reducible rfl
    | exact fun _ h => h
    | with_reducible exact fun h => tput_sorted _ h (Nat.zero_le _)
    | with_reducible exact tdel_sorted
    | exact fun _ => rfl
    | with_reducible exact fun h => Memory.writeWord_wf _ _ h
    | split
    | (refine written_steady (by simp only [↓State.written_mk]) ?_; with_reducible apply mk_steady)

theorem execEccUncorrectable_steady {s₀ : State} (dt : Nat) (mem : MemKind) (unit : Nat) (s : State) (hS : Steady s₀ (State.advance s dt)) :
    Goes s₀ (execEccUncorrectable dt mem unit s) := by
  unfold execEccUncorrectable
  try dsimp only
  repeat' first
    | with_reducible assumption
    | with_reducible apply ite_steady
    | with_reducible apply next_goes
    | with_reducible apply ite_goes
    | with_reducible apply State.gnssDiscard_steady
    | with_reducible apply State.islandPermanent_steady
    | with_reducible apply State.deviceFault_steady
    | with_reducible exact id
    | with_reducible rfl
    | exact fun _ h => h
    | with_reducible exact fun h => tput_sorted _ h (Nat.zero_le _)
    | with_reducible exact tdel_sorted
    | exact fun _ => rfl
    | with_reducible exact fun h => Memory.writeWord_wf _ _ h
    | split

theorem execEccCorrection_steady {s₀ : State} (dt : Nat) (mem : MemKind) (s : State) (hS : Steady s₀ (State.advance s dt)) :
    Goes s₀ (execEccCorrection dt mem s) := by
  unfold execEccCorrection
  try dsimp only
  repeat' first
    | with_reducible assumption
    | with_reducible apply ite_steady
    | with_reducible apply next_goes
    | with_reducible apply ite_goes
    | with_reducible apply State.inc_steady
    | with_reducible exact id
    | with_reducible rfl
    | exact fun _ h => h
    | with_reducible exact fun h => tput_sorted _ h (Nat.zero_le _)
    | with_reducible exact tdel_sorted
    | exact fun _ => rfl
    | with_reducible exact fun h => Memory.writeWord_wf _ _ h
    | (refine written_steady (by simp only [↓State.written_mk]) ?_; with_reducible apply mk_steady)

theorem execClockMonitorWindow_steady {s₀ : State} (dt : Nat) (counts : List (FastDomain × Nat)) (s : State) (hS : Steady s₀ (State.advance s dt)) :
    Goes s₀ (execClockMonitorWindow dt counts s) := by
  unfold execClockMonitorWindow
  try dsimp only
  repeat' first
    | with_reducible assumption
    | with_reducible apply ite_steady
    | with_reducible apply next_goes
    | with_reducible apply ite_goes
    | with_reducible apply State.deviceFault_steady

theorem execXtal32kLoss_steady {s₀ : State} (dt : Nat) (s : State) (hS : Steady s₀ (State.advance s dt)) :
    Goes s₀ (execXtal32kLoss dt s) := by
  unfold execXtal32kLoss
  try dsimp only
  repeat' first
    | with_reducible assumption
    | with_reducible apply ite_steady
    | with_reducible apply next_goes
    | with_reducible apply ite_goes
    | with_reducible apply State.deviceFault_steady
    | with_reducible exact id
    | with_reducible rfl
    | exact fun _ h => h
    | with_reducible exact fun h => tput_sorted _ h (Nat.zero_le _)
    | with_reducible exact tdel_sorted
    | exact fun _ => rfl
    | with_reducible exact fun h => Memory.writeWord_wf _ _ h
    | (refine written_steady (by simp only [↓State.written_mk]) ?_; with_reducible apply mk_steady)

theorem execNetworkPriorityAging_steady {s₀ : State} (dt port waited : Nat) (s : State) (hS : Steady s₀ (State.advance s dt)) :
    Goes s₀ (execNetworkPriorityAging dt port waited s) := by
  unfold execNetworkPriorityAging
  try dsimp only
  repeat' first
    | with_reducible assumption
    | with_reducible apply ite_steady
    | with_reducible apply next_goes
    | with_reducible apply ite_goes
    | with_reducible exact id
    | with_reducible rfl
    | exact fun _ h => h
    | with_reducible exact fun h => tput_sorted _ h (Nat.zero_le _)
    | with_reducible exact tdel_sorted
    | exact fun _ => rfl
    | with_reducible exact fun h => Memory.writeWord_wf _ _ h
    | (refine written_steady (by simp only [↓State.written_mk]) ?_; with_reducible apply mk_steady)

end Sys2Proof.Machine
end

