-- ==== Sys2Proof/Laws/GoesPower.lean ====
section
/-!
SUPPORT. Every meaning of Machine/Power.lean answers a next state, and between the passage of its time and that state `Steady` holds.
-/

set_option Elab.async false

namespace Sys2Proof.Machine

open Sys2Proof

theorem execLull3Entry_steady {s₀ : State} (dt : Nat) (s : State) (hS : Steady s₀ (State.advance s dt)) :
    Goes s₀ (execLull3Entry dt s) := by
  unfold execLull3Entry
  try dsimp only
  repeat' first
    | with_reducible assumption
    | with_reducible apply ite_steady
    | with_reducible apply next_goes
    | with_reducible apply ite_goes
    | with_reducible apply State.lullEnter_steady
    | with_reducible exact id
    | with_reducible rfl
    | exact fun _ h => h
    | with_reducible exact fun h => tput_sorted _ h (Nat.zero_le _)
    | with_reducible exact tdel_sorted
    | exact fun _ => rfl
    | with_reducible exact fun h => Memory.writeWord_wf _ _ h
    | split

theorem execLull3WakeDone_steady {s₀ : State} (dt : Nat) (s : State) (hS : Steady s₀ (State.advance s dt)) :
    Goes s₀ (execLull3WakeDone dt s) := by
  unfold execLull3WakeDone
  try dsimp only
  repeat' first
    | with_reducible assumption
    | with_reducible apply ite_steady
    | with_reducible apply next_goes
    | with_reducible apply ite_goes
    | with_reducible apply State.set_steady
    | with_reducible apply State.dramReturn_steady
    | with_reducible exact id
    | with_reducible rfl
    | exact fun _ h => h
    | with_reducible exact fun h => tput_sorted _ h (Nat.zero_le _)
    | with_reducible exact tdel_sorted
    | exact fun _ => rfl
    | with_reducible exact fun h => Memory.writeWord_wf _ _ h
    | (refine written_steady (by simp only [↓State.written_mk]) ?_; with_reducible apply mk_steady)

theorem execPwrLatTolWrite_steady {s₀ : State} (dt : Nat) (port : Port) (us : Nat) (s : State) (hS : Steady s₀ (State.advance s dt)) :
    Goes s₀ (execPwrLatTolWrite dt port us s) := by
  unfold execPwrLatTolWrite
  try dsimp only
  repeat' first
    | with_reducible assumption
    | with_reducible apply ite_steady
    | with_reducible apply next_goes
    | with_reducible apply ite_goes
    | with_reducible apply State.lullLeave_steady
    | (with_reducible apply State.withRole_steady; intro t ht)
    | with_reducible apply State.set_steady
    | with_reducible apply State.evt_steady
    | with_reducible apply State.record_steady
    | with_reducible exact id
    | with_reducible rfl
    | exact fun _ h => h
    | with_reducible exact fun h => tput_sorted _ h (Nat.zero_le _)
    | with_reducible exact tdel_sorted
    | exact fun _ => rfl
    | with_reducible exact fun h => Memory.writeWord_wf _ _ h
    | (refine written_steady (by simp only [↓State.written_mk]) ?_; with_reducible apply mk_steady)

theorem execLullGapEntry_steady {s₀ : State} (dt dom nextNs : Nat) (s : State) (hS : Steady s₀ (State.advance s dt)) :
    Goes s₀ (execLullGapEntry dt dom nextNs s) := by
  unfold execLullGapEntry
  try dsimp only
  repeat' first
    | with_reducible assumption
    | with_reducible apply ite_steady
    | with_reducible apply next_goes
    | with_reducible apply ite_goes
    | with_reducible apply State.setGated_steady
    | with_reducible exact id
    | with_reducible rfl
    | exact fun _ h => h
    | with_reducible exact fun h => tput_sorted _ h (Nat.zero_le _)
    | with_reducible exact tdel_sorted
    | exact fun _ => rfl
    | with_reducible exact fun h => Memory.writeWord_wf _ _ h
    | (refine written_steady (by simp only [↓State.written_mk]) ?_; with_reducible apply mk_steady)

theorem execLullGapWake_steady {s₀ : State} (dt dom : Nat) (s : State) (hS : Steady s₀ (State.advance s dt)) :
    Goes s₀ (execLullGapWake dt dom s) := by
  unfold execLullGapWake
  try dsimp only
  repeat' first
    | with_reducible assumption
    | with_reducible apply ite_steady
    | with_reducible apply next_goes
    | with_reducible apply ite_goes
    | with_reducible apply State.setGated_steady
    | with_reducible exact id
    | with_reducible rfl
    | exact fun _ h => h
    | with_reducible exact fun h => tput_sorted _ h (Nat.zero_le _)
    | with_reducible exact tdel_sorted
    | exact fun _ => rfl
    | with_reducible exact fun h => Memory.writeWord_wf _ _ h
    | (refine written_steady (by simp only [↓State.written_mk]) ?_; with_reducible apply mk_steady)

theorem execWakeEventForwardReceive_steady {s₀ : State} (dt : Nat) (s : State) (hS : Steady s₀ (State.advance s dt)) :
    Goes s₀ (execWakeEventForwardReceive dt s) := by
  unfold execWakeEventForwardReceive
  try dsimp only
  repeat' first
    | with_reducible assumption
    | with_reducible apply ite_steady
    | with_reducible apply next_goes
    | with_reducible apply ite_goes
    | with_reducible apply State.lullLeave_steady

theorem execCanWakePattern_steady {s₀ : State} (dt ch : Nat) (s : State) (hS : Steady s₀ (State.advance s dt)) :
    Goes s₀ (execCanWakePattern dt ch s) := by
  unfold execCanWakePattern
  try dsimp only
  repeat' first
    | with_reducible assumption
    | with_reducible apply ite_steady
    | with_reducible apply next_goes
    | with_reducible apply ite_goes
    | with_reducible apply State.wakeBy_steady

theorem execWakeInWake_steady {s₀ : State} (dt : Nat) (level : Bool) (s : State) (hS : Steady s₀ (State.advance s dt)) :
    Goes s₀ (execWakeInWake dt level s) := by
  unfold execWakeInWake
  try dsimp only
  repeat' first
    | with_reducible assumption
    | with_reducible apply ite_steady
    | with_reducible apply next_goes
    | with_reducible apply ite_goes
    | with_reducible apply State.lullLeave_steady
    | with_reducible apply State.wakeBy_steady

theorem execRtcAlarm_steady {s₀ : State} (dt : Nat) (s : State) (hS : Steady s₀ (State.advance s dt)) :
    Goes s₀ (execRtcAlarm dt s) := by
  unfold execRtcAlarm
  try dsimp only
  repeat' first
    | with_reducible assumption
    | with_reducible apply ite_steady
    | with_reducible apply next_goes
    | with_reducible apply ite_goes
    | with_reducible apply State.lullLeave_steady
    | with_reducible apply State.wakeBy_steady

theorem execSafeInputWake_steady {s₀ : State} (dt input : Nat) (s : State) (hS : Steady s₀ (State.advance s dt)) :
    Goes s₀ (execSafeInputWake dt input s) := by
  unfold execSafeInputWake
  try dsimp only
  repeat' first
    | with_reducible assumption
    | with_reducible apply ite_steady
    | with_reducible apply next_goes
    | with_reducible apply ite_goes
    | with_reducible apply State.lullLeave_steady
    | with_reducible apply State.wakeBy_steady

theorem execHostWake_steady {s₀ : State} (dt : Nat) (perst : Bool) (s : State) (hS : Steady s₀ (State.advance s dt)) :
    Goes s₀ (execHostWake dt perst s) := by
  unfold execHostWake
  try dsimp only
  repeat' first
    | with_reducible assumption
    | with_reducible apply ite_steady
    | with_reducible apply next_goes
    | with_reducible apply ite_goes
    | with_reducible apply State.wakeBy_steady
    | with_reducible exact id
    | with_reducible rfl
    | exact fun _ h => h
    | with_reducible exact fun h => tput_sorted _ h (Nat.zero_le _)
    | with_reducible exact tdel_sorted
    | exact fun _ => rfl
    | with_reducible exact fun h => Memory.writeWord_wf _ _ h
    | (refine written_steady (by simp only [↓State.written_mk]) ?_; with_reducible apply mk_steady)

theorem execSensorWindow_steady {s₀ : State} (dt : Nat) (vals : List (Nat × Int)) (s : State) (hS : Steady s₀ (State.advance s dt)) :
    Goes s₀ (execSensorWindow dt vals s) := by
  unfold execSensorWindow
  try dsimp only
  repeat' first
    | with_reducible assumption
    | with_reducible apply ite_steady
    | with_reducible apply next_goes
    | with_reducible apply ite_goes
    | with_reducible apply State.sensTake_steady
    | with_reducible apply State.setI_steady
    | with_reducible apply State.set_steady
    | with_reducible apply State.nvmJudge_steady
    | with_reducible apply State.brokenJudge_steady
    | with_reducible apply State.setB_steady
    | with_reducible apply State.softJudge_steady
    | with_reducible apply State.hardJudge_steady
    | with_reducible apply State.shutJudge_steady
    | with_reducible apply State.setAlert_steady
    | (with_reducible apply foldl_steady; intro t x ht)
    | with_reducible exact id
    | with_reducible rfl
    | exact fun _ h => h
    | with_reducible exact fun h => tput_sorted _ h (Nat.zero_le _)
    | with_reducible exact tdel_sorted
    | exact fun _ => rfl
    | with_reducible exact fun h => Memory.writeWord_wf _ _ h
    | (refine written_steady (by simp only [↓State.written_mk]) ?_; with_reducible apply mk_steady)

theorem execSensorBroken_steady {s₀ : State} (dt sensor : Nat) (s : State) (hS : Steady s₀ (State.advance s dt)) :
    Goes s₀ (execSensorBroken dt sensor s) := by
  unfold execSensorBroken
  try dsimp only
  repeat' first
    | with_reducible assumption
    | with_reducible apply ite_steady
    | with_reducible apply next_goes
    | with_reducible apply ite_goes
    | with_reducible apply State.set_steady
    | with_reducible apply State.brokenJudge_steady
    | with_reducible apply State.evt_steady
    | with_reducible apply State.sensNote_steady

theorem execSensorReturn_steady {s₀ : State} (dt sensor : Nat) (s : State) (hS : Steady s₀ (State.advance s dt)) :
    Goes s₀ (execSensorReturn dt sensor s) := by
  unfold execSensorReturn
  try dsimp only
  repeat' first
    | with_reducible assumption
    | with_reducible apply ite_steady
    | with_reducible apply next_goes
    | with_reducible apply ite_goes
    | with_reducible apply State.set_steady
    | with_reducible apply State.brokenJudge_steady
    | with_reducible apply State.evt_steady
    | with_reducible apply State.sensNote_steady

theorem execShutdownPowerOff_steady {s₀ : State} (dt flashOp waitUs : Nat) (s : State) (hS : Steady s₀ (State.advance s dt)) :
    Goes s₀ (execShutdownPowerOff dt flashOp waitUs s) := by
  unfold execShutdownPowerOff
  try dsimp only
  repeat' first
    | with_reducible assumption
    | with_reducible apply ite_steady
    | with_reducible apply next_goes
    | with_reducible apply ite_goes
    | with_reducible apply State.powerOff_steady
    | with_reducible apply State.set_steady
    | with_reducible exact id
    | with_reducible rfl
    | exact fun _ h => h
    | with_reducible exact fun h => tput_sorted _ h (Nat.zero_le _)
    | with_reducible exact tdel_sorted
    | exact fun _ => rfl
    | with_reducible exact fun h => Memory.writeWord_wf _ _ h
    | split
    | (refine written_steady (by simp only [↓State.written_mk]) ?_; with_reducible apply mk_steady)

end Sys2Proof.Machine
end

