-- ==== Sys2Proof/Laws/GoesRoles.lean ====
section
/-!
SUPPORT. Every meaning of Machine/Roles.lean answers a next state, and between the passage of its time and that state `Steady` holds.
-/

set_option Elab.async false

namespace Sys2Proof.Machine

open Sys2Proof

theorem execJournalWrite_steady {s₀ : State} (dt : Nat) (readbackOk : Bool) (s : State) (hS : Steady s₀ (State.advance s dt)) :
    Goes s₀ (execJournalWrite dt readbackOk s) := by
  unfold execJournalWrite
  try dsimp only
  repeat' first
    | with_reducible assumption
    | with_reducible apply ite_steady
    | with_reducible apply next_goes
    | with_reducible apply ite_goes
    | with_reducible apply State.cvWritten_steady
    | with_reducible exact id
    | with_reducible rfl
    | exact fun _ h => h
    | with_reducible exact fun h => tput_sorted _ h (Nat.zero_le _)
    | with_reducible exact tdel_sorted
    | exact fun _ => rfl
    | with_reducible exact fun h => Memory.writeWord_wf _ _ h
    | split
    | (refine written_steady (by simp only [↓State.written_mk]) ?_; with_reducible apply mk_steady)

theorem execRoleNewChal_steady {s₀ : State} (dt : Nat) (_port : Port) (chal : List Nat) (s : State) (hS : Steady s₀ (State.advance s dt)) :
    Goes s₀ (execRoleNewChal dt _port chal s) := by
  unfold execRoleNewChal
  try dsimp only
  repeat' first
    | with_reducible assumption
    | with_reducible apply ite_steady
    | with_reducible apply next_goes
    | with_reducible apply ite_goes
    | with_reducible apply State.set_steady
    | (with_reducible apply foldl_steady; intro t x ht)
    | with_reducible exact id
    | with_reducible rfl
    | exact fun _ h => h
    | with_reducible exact fun h => tput_sorted _ h (Nat.zero_le _)
    | with_reducible exact tdel_sorted
    | exact fun _ => rfl
    | with_reducible exact fun h => Memory.writeWord_wf _ _ h
    | (refine written_steady (by simp only [↓State.written_mk]) ?_; with_reducible apply mk_steady)
    | split
    | exact fun h => tput_sorted _ h (Nat.zero_le _)
    | exact id
    | rfl

theorem execRoleOpen_steady {s₀ : State} (dt : Nat) (port : Port) (role : Role) (s : State) (hS : Steady s₀ (State.advance s dt)) :
    Goes s₀ (execRoleOpen dt port role s) := by
  unfold execRoleOpen
  try dsimp only
  repeat' first
    | with_reducible assumption
    | with_reducible apply ite_steady
    | with_reducible apply next_goes
    | with_reducible apply ite_goes
    | with_reducible apply State.record_steady
    | with_reducible apply State.openFail_steady
    | with_reducible apply State.closeSession_steady
    | with_reducible apply State.set_steady
    | with_reducible exact id
    | with_reducible rfl
    | exact fun _ h => h
    | with_reducible exact fun h => tput_sorted _ h (Nat.zero_le _)
    | with_reducible exact tdel_sorted
    | exact fun _ => rfl
    | with_reducible exact fun h => Memory.writeWord_wf _ _ h
    | split
    | (refine written_steady (by simp only [↓State.written_mk]) ?_; with_reducible apply mk_steady)

theorem execRoleClose_steady {s₀ : State} (dt : Nat) (port : Port) (s : State) (hS : Steady s₀ (State.advance s dt)) :
    Goes s₀ (execRoleClose dt port s) := by
  unfold execRoleClose
  try dsimp only
  repeat' first
    | with_reducible assumption
    | with_reducible apply ite_steady
    | with_reducible apply next_goes
    | with_reducible apply ite_goes
    | with_reducible apply State.closeSession_steady
    | with_reducible apply State.rwlIgnored_steady

theorem execChallengeExpiry_steady {s₀ : State} (dt : Nat) (s : State) (hS : Steady s₀ (State.advance s dt)) :
    Goes s₀ (execChallengeExpiry dt s) := by
  unfold execChallengeExpiry
  try dsimp only
  repeat' first
    | with_reducible assumption
    | with_reducible apply ite_steady
    | with_reducible apply next_goes
    | with_reducible apply ite_goes
    | with_reducible apply State.set_steady

theorem execOpenLockExpiry_steady {s₀ : State} (dt : Nat) (s : State) (hS : Steady s₀ (State.advance s dt)) :
    Goes s₀ (execOpenLockExpiry dt s) := by
  unfold execOpenLockExpiry
  try dsimp only
  repeat' first
    | with_reducible assumption
    | with_reducible apply ite_steady
    | with_reducible apply next_goes
    | with_reducible apply ite_goes
    | with_reducible apply State.set_steady
    | with_reducible exact id
    | with_reducible rfl
    | exact fun _ h => h
    | with_reducible exact fun h => tput_sorted _ h (Nat.zero_le _)
    | with_reducible exact tdel_sorted
    | exact fun _ => rfl
    | with_reducible exact fun h => Memory.writeWord_wf _ _ h
    | split
    | (refine written_steady (by simp only [↓State.written_mk]) ?_; with_reducible apply mk_steady)
    | exact fun h => tput_sorted _ h (Nat.zero_le _)
    | exact id
    | rfl

theorem execSessionIdleTimeout_steady {s₀ : State} (dt : Nat) (s : State) (hS : Steady s₀ (State.advance s dt)) :
    Goes s₀ (execSessionIdleTimeout dt s) := by
  unfold execSessionIdleTimeout
  try dsimp only
  repeat' first
    | with_reducible assumption
    | with_reducible apply ite_steady
    | with_reducible apply next_goes
    | with_reducible apply ite_goes
    | with_reducible apply State.closeSession_steady

theorem execRoleKeyMaker_steady {s₀ : State} (dt : Nat) (port : Port) (keyId : Nat) (s : State)
    (hS : Steady s₀ (State.advance s dt)) : Goes s₀ (execRoleKeyMaker dt port keyId s) := by
  unfold execRoleKeyMaker
  have h1 := State.lullLeave_steady _ 1 hS
  dsimp only
  split
  · exact next_goes (State.keyNoEffect_steady _ _ _ _ h1)
  · rename_i hk
    refine next_goes (State.record_steady _ _ (State.clearKeyWords_steady _ (State.set_steady _ _ _ _ ?_)))
    refine mk_steady (State.keyCmd_steady _ 1 keyId h1) id id id id id id id rfl ?_
    exact fun k e => nomatch (hk.symm.trans e : none = some k)

theorem execRoleKeyInstaller_steady {s₀ : State} (dt : Nat) (port : Port) (keyId : Nat) (s : State) (hS : Steady s₀ (State.advance s dt)) :
    Goes s₀ (execRoleKeyInstaller dt port keyId s) := by
  unfold execRoleKeyInstaller
  try dsimp only
  repeat' first
    | with_reducible assumption
    | with_reducible apply ite_steady
    | with_reducible apply next_goes
    | with_reducible apply ite_goes
    | with_reducible apply State.provision_steady
    | with_reducible apply State.keyNoEffect_steady
    | with_reducible apply State.lullLeave_steady
    | with_reducible exact id
    | with_reducible rfl
    | exact fun _ h => h
    | with_reducible exact fun h => tput_sorted _ h (Nat.zero_le _)
    | with_reducible exact tdel_sorted
    | exact fun _ => rfl
    | with_reducible exact fun h => Memory.writeWord_wf _ _ h
    | split

theorem execRoleKeyOperator_steady {s₀ : State} (dt : Nat) (port : Port) (keyId : Nat) (s : State) (hS : Steady s₀ (State.advance s dt)) :
    Goes s₀ (execRoleKeyOperator dt port keyId s) := by
  unfold execRoleKeyOperator
  try dsimp only
  repeat' first
    | with_reducible assumption
    | with_reducible apply ite_steady
    | with_reducible apply next_goes
    | with_reducible apply ite_goes
    | with_reducible apply State.provision_steady
    | with_reducible apply State.keyNoEffect_steady
    | with_reducible apply State.lullLeave_steady
    | with_reducible exact id
    | with_reducible rfl
    | exact fun _ h => h
    | with_reducible exact fun h => tput_sorted _ h (Nat.zero_le _)
    | with_reducible exact tdel_sorted
    | exact fun _ => rfl
    | with_reducible exact fun h => Memory.writeWord_wf _ _ h
    | split

end Sys2Proof.Machine
end

