-- ==== Sys2Proof/Laws/SteadyRegs.lean ====
section
/-!
SUPPORT. Every operation of Machine/Regs.lean keeps what `Steady` says.
-/

set_option Elab.async false

namespace Sys2Proof.Machine

open Sys2Proof

theorem State.putPort_steady {s₀ : State} (s : State) (p : Port) (h : HostPort) (hS : Steady s₀ s) :
    Steady s₀ (State.putPort s p h) := by
  unfold State.putPort
  try dsimp only
  repeat' first
    | with_reducible assumption
    | with_reducible apply ite_steady
    | with_reducible exact id
    | with_reducible rfl
    | exact fun _ h => h
    | with_reducible exact fun h => tput_sorted _ h (Nat.zero_le _)
    | with_reducible exact tdel_sorted
    | exact fun _ => rfl
    | with_reducible exact fun h => Memory.writeWord_wf _ _ h
    | split
    | (refine written_steady (by simp only [↓State.written_mk]) ?_; with_reducible apply mk_steady)

theorem State.windowRead_steady {s₀ : State} (s : State) (p : Port) (ofs : Nat) (hS : Steady s₀ s) :
    Steady s₀ (State.windowRead s p ofs).1 := by
  unfold State.windowRead
  try dsimp only
  repeat' first
    | with_reducible assumption
    | with_reducible apply ite_steady
    | with_reducible apply State.putPort_steady
    | with_reducible exact id
    | with_reducible rfl
    | exact fun _ h => h
    | with_reducible exact fun h => tput_sorted _ h (Nat.zero_le _)
    | with_reducible exact tdel_sorted
    | exact fun _ => rfl
    | with_reducible exact fun h => Memory.writeWord_wf _ _ h
    | split

end Sys2Proof.Machine
end

