-- ==== Sys2Proof/Laws/SteadyHostport.lean ====
section
/-!
SUPPORT. Every operation of Machine/Hostport.lean keeps what `Steady` says.
-/

set_option Elab.async false

namespace Sys2Proof.Machine

open Sys2Proof

theorem State.pointRefuse_steady {s₀ : State} (s : State) (p : Port) (i code : Nat) (hS : Steady s₀ s) :
    Steady s₀ (State.pointRefuse s p i code) := by
  unfold State.pointRefuse
  try dsimp only
  repeat' first
    | with_reducible assumption
    | with_reducible apply ite_steady
    | with_reducible apply State.set_steady
    | with_reducible apply State.inc_steady
    | with_reducible apply State.record_steady

theorem State.putStaged_steady {s₀ : State} (s : State) (p : Port) (x : Staged) (hS : Steady s₀ s) :
    Steady s₀ (State.putStaged s p x) := by
  unfold State.putStaged
  try dsimp only
  repeat' first
    | with_reducible assumption
    | with_reducible apply ite_steady
    | with_reducible apply State.putPort_steady

theorem State.stageQuality_steady {s₀ : State} (s : State) (p : Port) (ofs code : Nat) (hS : Steady s₀ s) :
    Steady s₀ (State.stageQuality s p ofs code) := by
  unfold State.stageQuality
  try dsimp only
  repeat' first
    | with_reducible assumption
    | with_reducible apply ite_steady
    | with_reducible apply State.pointRefuse_steady
    | with_reducible apply State.putStaged_steady
    | with_reducible apply State.set_steady

theorem State.stageLow_steady {s₀ : State} (s : State) (p : Port) (ofs v : Nat) (hS : Steady s₀ s) :
    Steady s₀ (State.stageLow s p ofs v) := by
  unfold State.stageLow
  try dsimp only
  repeat' first
    | with_reducible assumption
    | with_reducible apply ite_steady
    | with_reducible apply State.pointRefuse_steady
    | with_reducible apply State.putStaged_steady
    | with_reducible apply State.set_steady

theorem State.pointCommit_steady {s₀ : State} (s : State) (p : Port) (ofs v : Nat) (hS : Steady s₀ s) :
    Steady s₀ (State.pointCommit s p ofs v) := by
  unfold State.pointCommit
  try dsimp only
  repeat' first
    | with_reducible assumption
    | with_reducible apply ite_steady
    | with_reducible apply State.pointRefuse_steady
    | with_reducible apply State.putStaged_steady
    | with_reducible apply State.set_steady
    | with_reducible exact id
    | with_reducible rfl
    | exact fun _ h => h
    | with_reducible exact fun h => tput_sorted _ h (Nat.zero_le _)
    | with_reducible exact tdel_sorted
    | exact fun _ => rfl
    | with_reducible exact fun h => Memory.writeWord_wf _ _ h
    | split
    | (refine written_steady (by simp only [↓State.written_mk]) ?_; with_reducible apply mk_steady)

theorem State.pointOther_steady {s₀ : State} (s : State) (p : Port) (ofs : Nat) (hS : Steady s₀ s) :
    Steady s₀ (State.pointOther s p ofs) := by
  unfold State.pointOther
  try dsimp only
  repeat' first
    | with_reducible assumption
    | with_reducible apply ite_steady
    | with_reducible apply State.pointRefuse_steady

theorem State.windowWrite_steady {s₀ : State} (s : State) (p : Port) (ofs v : Nat) (hS : Steady s₀ s) :
    Steady s₀ (State.windowWrite s p ofs v) := by
  unfold State.windowWrite
  try dsimp only
  repeat' first
    | with_reducible assumption
    | with_reducible apply ite_steady
    | with_reducible apply State.stageLow_steady
    | with_reducible apply State.pointCommit_steady
    | with_reducible apply State.stageQuality_steady
    | with_reducible apply State.pointOther_steady
    | with_reducible exact id
    | with_reducible rfl
    | exact fun _ h => h
    | with_reducible exact fun h => tput_sorted _ h (Nat.zero_le _)
    | with_reducible exact tdel_sorted
    | exact fun _ => rfl
    | with_reducible exact fun h => Memory.writeWord_wf _ _ h
    | split

theorem State.alarmAck_steady {s₀ : State} (s : State) (p : Port) (entry : Nat) (hS : Steady s₀ s) :
    Steady s₀ (State.alarmAck s p entry) := by
  unfold State.alarmAck
  try dsimp only
  repeat' first
    | with_reducible assumption
    | with_reducible apply ite_steady
    | (with_reducible apply State.withRole_steady; intro t ht)
    | with_reducible apply State.alarmAckNote_steady
    | with_reducible apply State.alarmAckOne_steady
    | (with_reducible apply foldl_steady; intro t x ht)

theorem State.putPigeon_steady {s₀ : State} (s : State) (n : Nat) (p : Pgn) (hS : Steady s₀ s) :
    Steady s₀ (State.putPigeon s n p) := by
  unfold State.putPigeon
  try dsimp only
  repeat' first
    | with_reducible assumption
    | with_reducible apply ite_steady
    | with_reducible exact id
    | with_reducible rfl
    | exact fun _ h => h
    | with_reducible exact fun h => tput_sorted _ h (Nat.zero_le _)
    | with_reducible exact tdel_sorted
    | exact fun _ => rfl
    | with_reducible exact fun h => Memory.writeWord_wf _ _ h
    | (refine written_steady (by simp only [↓State.written_mk]) ?_; with_reducible apply mk_steady)

theorem State.pgnPop_steady {s₀ : State} (s : State) (n : Nat) (hS : Steady s₀ s) :
    Steady s₀ (State.pgnPop s n) := by
  unfold State.pgnPop
  try dsimp only
  repeat' first
    | with_reducible assumption
    | with_reducible apply ite_steady
    | with_reducible apply State.putPigeon_steady
    | with_reducible apply State.inc_steady

theorem State.pgnRead_steady {s₀ : State} (s : State) (p : Port) (n : Nat) (hS : Steady s₀ s) :
    Steady s₀ (State.pgnRead s p n).1 := by
  unfold State.pgnRead
  try dsimp only
  repeat' first
    | with_reducible assumption
    | with_reducible apply ite_steady
    | with_reducible apply State.pgnPop_steady
    | with_reducible apply State.putPigeon_steady
    | with_reducible exact id
    | with_reducible rfl
    | exact fun _ h => h
    | with_reducible exact fun h => tput_sorted _ h (Nat.zero_le _)
    | with_reducible exact tdel_sorted
    | exact fun _ => rfl
    | with_reducible exact fun h => Memory.writeWord_wf _ _ h
    | split

theorem State.pgnRestart_steady {s₀ : State} (s : State) (p : Port) (n : Nat) (hS : Steady s₀ s) :
    Steady s₀ (State.pgnRestart s p n) := by
  unfold State.pgnRestart
  try dsimp only
  repeat' first
    | with_reducible assumption
    | with_reducible apply ite_steady
    | with_reducible apply State.putPigeon_steady

theorem State.pgnDiscard_steady {s₀ : State} (s : State) (n : Nat) (hS : Steady s₀ s) :
    Steady s₀ (State.pgnDiscard s n) := by
  unfold State.pgnDiscard
  try dsimp only
  repeat' first
    | with_reducible assumption
    | with_reducible apply ite_steady
    | with_reducible apply State.pgnPop_steady

theorem State.pgnWrite_steady {s₀ : State} (s : State) (p : Port) (n word : Nat) (hS : Steady s₀ s) :
    Steady s₀ (State.pgnWrite s p n word) := by
  unfold State.pgnWrite
  try dsimp only
  repeat' first
    | with_reducible assumption
    | with_reducible apply ite_steady
    | with_reducible apply State.putPigeon_steady
    | with_reducible apply State.record_steady
    | with_reducible exact id
    | with_reducible rfl
    | exact fun _ h => h
    | with_reducible exact fun h => tput_sorted _ h (Nat.zero_le _)
    | with_reducible exact tdel_sorted
    | exact fun _ => rfl
    | with_reducible exact fun h => Memory.writeWord_wf _ _ h
    | split
    | (refine written_steady (by simp only [↓State.written_mk]) ?_; with_reducible apply mk_steady)

theorem State.pbaClear_steady {s₀ : State} (s : State) (v : Nat) (hS : Steady s₀ s) :
    Steady s₀ (State.pbaClear s v) := by
  unfold State.pbaClear
  try dsimp only
  repeat' first
    | with_reducible assumption
    | with_reducible apply ite_steady
    | with_reducible exact id
    | with_reducible rfl
    | exact fun _ h => h
    | with_reducible exact fun h => tput_sorted _ h (Nat.zero_le _)
    | with_reducible exact tdel_sorted
    | exact fun _ => rfl
    | with_reducible exact fun h => Memory.writeWord_wf _ _ h
    | (refine written_steady (by simp only [↓State.written_mk]) ?_; with_reducible apply mk_steady)

theorem State.irqAck_steady {s₀ : State} (s : State) (v : Nat) (hS : Steady s₀ s) :
    Steady s₀ (State.irqAck s v) := by
  unfold State.irqAck
  try dsimp only
  repeat' first
    | with_reducible assumption
    | with_reducible apply ite_steady
    | with_reducible apply State.pbaClear_steady
    | with_reducible apply State.set_steady
    | with_reducible apply State.vecFire_steady

theorem State.msixPut_steady {s₀ : State} (s : State) (i v : Nat) (hS : Steady s₀ s) :
    Steady s₀ (State.msixPut s i v) := by
  unfold State.msixPut
  try dsimp only
  repeat' first
    | with_reducible assumption
    | with_reducible apply ite_steady
    | with_reducible exact id
    | with_reducible rfl
    | exact fun _ h => h
    | with_reducible exact fun h => tput_sorted _ h (Nat.zero_le _)
    | with_reducible exact tdel_sorted
    | exact fun _ => rfl
    | with_reducible exact fun h => Memory.writeWord_wf _ _ h
    | (refine written_steady (by simp only [↓State.written_mk]) ?_; with_reducible apply mk_steady)
    | split

theorem State.msixWrite_steady {s₀ : State} (s : State) (i v : Nat) (hS : Steady s₀ s) :
    Steady s₀ (State.msixWrite s i v) := by
  unfold State.msixWrite
  try dsimp only
  repeat' first
    | with_reducible assumption
    | with_reducible apply ite_steady
    | with_reducible apply State.msixPut_steady
    | with_reducible apply State.pbaClear_steady
    | with_reducible exact id
    | with_reducible rfl
    | exact fun _ h => h
    | with_reducible exact fun h => tput_sorted _ h (Nat.zero_le _)
    | with_reducible exact tdel_sorted
    | exact fun _ => rfl
    | with_reducible exact fun h => Memory.writeWord_wf _ _ h
    | (refine written_steady (by simp only [↓State.written_mk]) ?_; with_reducible apply mk_steady)
    | split
    | exact fun h => tput_sorted _ h (Nat.zero_le _)

theorem State.vecCheck_steady {s₀ : State} (s : State) (v : Nat) (hS : Steady s₀ s) :
    Steady s₀ (State.vecCheck s v) := by
  unfold State.vecCheck
  try dsimp only
  repeat' first
    | with_reducible assumption
    | with_reducible apply ite_steady
    | with_reducible apply State.vecFire_steady

theorem State.hostRead_steady {s₀ : State} (s : State) (p : Port) (off : Nat) (hS : Steady s₀ s) :
    Steady s₀ (State.hostRead s p off).1 := by
  unfold State.hostRead
  try dsimp only
  repeat' first
    | with_reducible assumption
    | with_reducible apply ite_steady
    | with_reducible apply State.lullLeave_steady
    | with_reducible apply State.windowRead_steady
    | with_reducible apply State.latchTime_steady
    | with_reducible apply State.set_steady
    | with_reducible apply State.esIdRead_steady
    | with_reducible apply State.esLastRead_steady
    | with_reducible apply State.pgnRead_steady
    | with_reducible exact id
    | with_reducible rfl
    | exact fun _ h => h
    | with_reducible exact fun h => tput_sorted _ h (Nat.zero_le _)
    | with_reducible exact tdel_sorted
    | exact fun _ => rfl
    | with_reducible exact fun h => Memory.writeWord_wf _ _ h
    | split
    | (refine written_steady (by simp only [↓State.written_mk]) ?_; with_reducible apply mk_steady)

theorem State.fieldWrite_steady {s₀ : State} (s : State) (bank v : Nat) (f : Fld) (hS : Steady s₀ s) :
    Steady s₀ (State.fieldWrite s bank v f) := by
  unfold State.fieldWrite
  try dsimp only
  repeat' first
    | with_reducible assumption
    | with_reducible apply ite_steady
    | with_reducible apply State.set_steady
    | with_reducible exact id
    | with_reducible rfl
    | exact fun _ h => h
    | with_reducible exact fun h => tput_sorted _ h (Nat.zero_le _)
    | with_reducible exact tdel_sorted
    | exact fun _ => rfl
    | with_reducible exact fun h => Memory.writeWord_wf _ _ h
    | split

theorem State.plainWrite_steady {s₀ : State} (s : State) (p : Port) (off v : Nat) (hS : Steady s₀ s) :
    Steady s₀ (State.plainWrite s p off v) := by
  unfold State.plainWrite
  try dsimp only
  repeat' first
    | with_reducible assumption
    | with_reducible apply ite_steady
    | with_reducible apply State.fieldWrite_steady
    | with_reducible apply State.putPort_steady
    | with_reducible apply State.vecFire_steady
    | (with_reducible apply State.withRole_steady; intro t ht)
    | (with_reducible apply foldl_steady; intro t x ht)
    | with_reducible exact id
    | with_reducible rfl
    | exact fun _ h => h
    | with_reducible exact fun h => tput_sorted _ h (Nat.zero_le _)
    | with_reducible exact tdel_sorted
    | exact fun _ => rfl
    | with_reducible exact fun h => Memory.writeWord_wf _ _ h
    | split
    | (refine written_steady (by simp only [↓State.written_mk]) ?_; with_reducible apply mk_steady)

theorem after_steady {s₀ : State} (s : State) (o : Out) (h : Goes s₀ o) : Steady s₀ (after s o) := by
  obtain ⟨t, rfl, ht⟩ := h
  exact ht

theorem State.roleCtl_steady {s₀ : State} (s : State) (p : Port) (v : Nat) (chal : List Nat) (hS : Steady s₀ s) :
    Steady s₀ (State.roleCtl s p v chal) := by
  unfold State.roleCtl
  try dsimp only
  repeat' first
    | with_reducible assumption
    | with_reducible apply ite_steady
    | with_reducible apply id_steady
    | with_reducible apply after_steady
    | with_reducible apply advance_zero_steady
    | with_reducible apply after_steady
    | with_reducible apply execRoleClose_steady
    | with_reducible apply execRoleOpen_steady
    | with_reducible apply execRoleNewChal_steady

theorem State.mnfCmd_steady {s₀ : State} (s : State) (p : Port) (v : Nat) (aux : HostAux) (hS : Steady s₀ s) :
    Steady s₀ (State.mnfCmd s p v aux) := by
  unfold State.mnfCmd
  try dsimp only
  repeat' first
    | with_reducible assumption
    | with_reducible apply ite_steady
    | with_reducible apply id_steady
    | with_reducible apply after_steady
    | with_reducible apply advance_zero_steady
    | with_reducible apply after_steady
    | with_reducible apply execMnfInstall_steady
    | (with_reducible apply State.withRole_steady; intro t ht)
    | with_reducible apply State.set_steady
    | with_reducible apply State.instRefuse_steady
    | with_reducible apply execMnfRestore_steady
    | with_reducible apply State.instRecord_steady
    | with_reducible apply State.instEnd_steady
    | with_reducible exact id
    | with_reducible rfl
    | exact fun _ h => h
    | with_reducible exact fun h => tput_sorted _ h (Nat.zero_le _)
    | with_reducible exact tdel_sorted
    | exact fun _ => rfl
    | with_reducible exact fun h => Memory.writeWord_wf _ _ h
    | split

theorem State.cmdWrite_steady {s₀ : State} (s : State) (p : Port) (off v : Nat) (aux : HostAux) (hS : Steady s₀ s) :
    Leaves s₀ (State.cmdWrite s p off v aux) := by
  unfold State.cmdWrite
  try dsimp only
  repeat' first
    | with_reducible assumption
    | with_reducible apply ite_steady
    | with_reducible apply some_leaves
    | with_reducible apply ite_leaves
    | with_reducible exact none_leaves
    | with_reducible apply id_steady
    | with_reducible apply after_steady
    | with_reducible apply advance_zero_steady
    | with_reducible apply State.alarmAck_steady
    | with_reducible apply State.modeCmd_steady
    | with_reducible apply after_steady
    | with_reducible apply execModeResetWrite_steady
    | with_reducible apply State.mnfCmd_steady
    | with_reducible apply State.roleCtl_steady
    | with_reducible apply execRoleKeyMaker_steady
    | with_reducible apply execRoleKeyInstaller_steady
    | with_reducible apply execRoleKeyOperator_steady
    | with_reducible apply State.lullLeave_steady
    | with_reducible apply State.latchTime_steady
    | with_reducible apply execGnssSleepCmd_steady
    | with_reducible apply execGnssWakeCmd_steady
    | with_reducible apply execGnssColdCmd_steady
    | with_reducible apply State.slotWrite_steady
    | with_reducible apply State.lawCmd_steady
    | with_reducible apply State.spCmd_steady
    | with_reducible apply State.thrCmd_steady
    | with_reducible apply execInjectionStart_steady
    | with_reducible apply execInjectionStop_steady
    | (with_reducible apply State.withRole_steady; intro t ht)
    | with_reducible apply execCaptureArm_steady
    | with_reducible apply execCaptureForce_steady
    | with_reducible apply execCaptureAbort_steady
    | with_reducible apply State.fnCmd_steady
    | with_reducible apply execHartPause_steady
    | with_reducible apply execHartResume_steady
    | with_reducible apply State.stepCmd_steady
    | with_reducible apply execSafeOffReqWrite_steady
    | with_reducible apply execSafeCvCommit_steady
    | with_reducible apply execPwrLatTolWrite_steady
    | with_reducible apply execEthWrAckWrite_steady
    | with_reducible apply execLogFetchStart_steady
    | with_reducible apply execLogMarkWrite_steady
    | with_reducible apply execLogErase_steady
    | with_reducible apply State.irqAck_steady
    | with_reducible apply execCanRecover_steady
    | with_reducible apply State.pgnWrite_steady
    | with_reducible apply State.pgnRestart_steady
    | with_reducible apply State.pgnDiscard_steady
    | with_reducible apply State.keyNoEffect_steady
    | with_reducible exact id
    | with_reducible rfl
    | exact fun _ h => h
    | with_reducible exact fun h => tput_sorted _ h (Nat.zero_le _)
    | with_reducible exact tdel_sorted
    | exact fun _ => rfl
    | with_reducible exact fun h => Memory.writeWord_wf _ _ h
    | split

theorem State.hostWrite_steady {s₀ : State} (s : State) (p : Port) (off v : Nat) (aux : HostAux) (hS : Steady s₀ s) :
    Steady s₀ (s.hostWrite p off v aux) := by
  unfold State.hostWrite
  dsimp only
  have hs : ∀ c : Prop, ∀ _ : Decidable c, Steady s₀ (if c then s.inc R.DEV_HOST_ERR_UNMAPPED else s) := fun c _ =>
    ite_steady (inc_steady _ _ _ _ hS) hS
  split
  · exact inc_steady _ _ _ _ hS
  split
  · exact windowWrite_steady _ _ _ _ hS
  split
  · exact msixWrite_steady _ _ _ hS
  split
  · exact hS
  split
  · exact hS
  split
  · exact hs _ _
  split
  · rename_i e
    exact cmdWrite_steady _ _ _ _ _ (hs _ _) _ e
  · exact plainWrite_steady _ _ _ _ (hs _ _)

theorem State.writeWords_steady {s₀ : State} (s : State) (aux : HostAux) (off : Nat) (l : List Nat) (h : Steady s₀ s) :
    Steady s₀ (s.writeWords aux off l) := by
  induction l generalizing s off with
  | nil => exact h
  | cons w t ih => exact ih _ _ (hostWrite_steady _ _ _ _ _ h)

theorem State.readWords_steady {s₀ : State} (s : State) (n off : Nat) (h : Steady s₀ s) :
    Steady s₀ (s.readWords n off).1 := by
  induction n generalizing s off with
  | zero => exact h
  | succ n ih => exact ih _ _ (hostRead_steady _ _ _ h)

end Sys2Proof.Machine
end

