-- ==== Sys2Proof/Laws/GoesHostport.lean ====
section
/-!
SUPPORT. Every meaning of Machine/Hostport.lean answers a next state, and between the passage of its time and that state `Steady` holds.
-/

set_option Elab.async false

namespace Sys2Proof.Machine

open Sys2Proof

theorem execPointWindowRead_steady {s₀ : State} (dt : Nat) (port : Port) (ofs : Nat) (s : State) (hS : Steady s₀ (State.advance s dt)) :
    Goes s₀ (execPointWindowRead dt port ofs s) := by
  unfold execPointWindowRead
  try dsimp only
  repeat' first
    | with_reducible assumption
    | with_reducible apply ite_steady
    | with_reducible apply next_goes
    | with_reducible apply ite_goes
    | with_reducible apply State.lullLeave_steady
    | with_reducible apply State.windowRead_steady
    | with_reducible apply State.readBack_steady

theorem execPointQualityStage_steady {s₀ : State} (dt : Nat) (port : Port) (ofs code : Nat) (s : State) (hS : Steady s₀ (State.advance s dt)) :
    Goes s₀ (execPointQualityStage dt port ofs code s) := by
  unfold execPointQualityStage
  try dsimp only
  repeat' first
    | with_reducible assumption
    | with_reducible apply ite_steady
    | with_reducible apply next_goes
    | with_reducible apply ite_goes
    | with_reducible apply State.stageQuality_steady

theorem execPointValueLowStage_steady {s₀ : State} (dt : Nat) (port : Port) (ofs value : Nat) (s : State) (hS : Steady s₀ (State.advance s dt)) :
    Goes s₀ (execPointValueLowStage dt port ofs value s) := by
  unfold execPointValueLowStage
  try dsimp only
  repeat' first
    | with_reducible assumption
    | with_reducible apply ite_steady
    | with_reducible apply next_goes
    | with_reducible apply ite_goes
    | with_reducible apply State.stageLow_steady

theorem execPointValueCommit_steady {s₀ : State} (dt : Nat) (port : Port) (ofs value : Nat) (s : State) (hS : Steady s₀ (State.advance s dt)) :
    Goes s₀ (execPointValueCommit dt port ofs value s) := by
  unfold execPointValueCommit
  try dsimp only
  repeat' first
    | with_reducible assumption
    | with_reducible apply ite_steady
    | with_reducible apply next_goes
    | with_reducible apply ite_goes
    | with_reducible apply State.pointCommit_steady

theorem execPointWindowOtherWrite_steady {s₀ : State} (dt : Nat) (port : Port) (ofs : Nat) (s : State) (hS : Steady s₀ (State.advance s dt)) :
    Goes s₀ (execPointWindowOtherWrite dt port ofs s) := by
  unfold execPointWindowOtherWrite
  try dsimp only
  repeat' first
    | with_reducible assumption
    | with_reducible apply ite_steady
    | with_reducible apply next_goes
    | with_reducible apply ite_goes
    | with_reducible apply State.pointOther_steady

theorem execAlarmAck_steady {s₀ : State} (dt : Nat) (port : Port) (entry : Nat) (s : State) (hS : Steady s₀ (State.advance s dt)) :
    Goes s₀ (execAlarmAck dt port entry s) := by
  unfold execAlarmAck
  try dsimp only
  repeat' first
    | with_reducible assumption
    | with_reducible apply ite_steady
    | with_reducible apply next_goes
    | with_reducible apply ite_goes
    | with_reducible apply State.alarmAck_steady

theorem execPgnRead_steady {s₀ : State} (dt : Nat) (port : Port) (n : Nat) (s : State) (hS : Steady s₀ (State.advance s dt)) :
    Goes s₀ (execPgnRead dt port n s) := by
  unfold execPgnRead
  try dsimp only
  repeat' first
    | with_reducible assumption
    | with_reducible apply ite_steady
    | with_reducible apply next_goes
    | with_reducible apply ite_goes
    | with_reducible apply State.lullLeave_steady
    | with_reducible apply State.pgnRead_steady
    | with_reducible apply State.readBack_steady

theorem execPgnRestart_steady {s₀ : State} (dt : Nat) (port : Port) (n : Nat) (s : State) (hS : Steady s₀ (State.advance s dt)) :
    Goes s₀ (execPgnRestart dt port n s) := by
  unfold execPgnRestart
  try dsimp only
  repeat' first
    | with_reducible assumption
    | with_reducible apply ite_steady
    | with_reducible apply next_goes
    | with_reducible apply ite_goes
    | with_reducible apply State.pgnRestart_steady

theorem execPgnDiscard_steady {s₀ : State} (dt : Nat) (_port : Port) (n : Nat) (s : State) (hS : Steady s₀ (State.advance s dt)) :
    Goes s₀ (execPgnDiscard dt _port n s) := by
  unfold execPgnDiscard
  try dsimp only
  repeat' first
    | with_reducible assumption
    | with_reducible apply ite_steady
    | with_reducible apply next_goes
    | with_reducible apply ite_goes
    | with_reducible apply State.pgnDiscard_steady

theorem execPgnWrite_steady {s₀ : State} (dt : Nat) (port : Port) (n word : Nat) (s : State) (hS : Steady s₀ (State.advance s dt)) :
    Goes s₀ (execPgnWrite dt port n word s) := by
  unfold execPgnWrite
  try dsimp only
  repeat' first
    | with_reducible assumption
    | with_reducible apply ite_steady
    | with_reducible apply next_goes
    | with_reducible apply ite_goes
    | with_reducible apply State.pgnWrite_steady

theorem execIrqAck_steady {s₀ : State} (dt : Nat) (_port : Port) (vector : Nat) (s : State) (hS : Steady s₀ (State.advance s dt)) :
    Goes s₀ (execIrqAck dt _port vector s) := by
  unfold execIrqAck
  try dsimp only
  repeat' first
    | with_reducible assumption
    | with_reducible apply ite_steady
    | with_reducible apply next_goes
    | with_reducible apply ite_goes
    | with_reducible apply State.irqAck_steady

theorem execMsixUnmask_steady {s₀ : State} (dt : Nat) (_port : Port) (vector : Nat) (s : State) (hS : Steady s₀ (State.advance s dt)) :
    Goes s₀ (execMsixUnmask dt _port vector s) := by
  unfold execMsixUnmask
  try dsimp only
  repeat' first
    | with_reducible assumption
    | with_reducible apply ite_steady
    | with_reducible apply next_goes
    | with_reducible apply ite_goes
    | with_reducible apply State.msixWrite_steady

theorem execPostmarkReadLatch_steady {s₀ : State} (dt : Nat) (port : Port) (off : Nat) (s : State) (hS : Steady s₀ (State.advance s dt)) :
    Goes s₀ (execPostmarkReadLatch dt port off s) := by
  unfold execPostmarkReadLatch
  try dsimp only
  repeat' first
    | with_reducible assumption
    | with_reducible apply ite_steady
    | with_reducible apply next_goes
    | with_reducible apply ite_goes
    | with_reducible apply State.hostRead_steady
    | with_reducible apply State.readBack_steady

theorem execRegisterWrite_steady {s₀ : State} (dt : Nat) (port : Port) (off value : Nat) (whole : Bool) (aux : HostAux) (s : State) (hS : Steady s₀ (State.advance s dt)) :
    Goes s₀ (execRegisterWrite dt port off value whole aux s) := by
  unfold execRegisterWrite
  try dsimp only
  repeat' first
    | with_reducible assumption
    | with_reducible apply ite_steady
    | with_reducible apply next_goes
    | with_reducible apply ite_goes
    | with_reducible apply State.inc_steady
    | with_reducible apply State.hostWrite_steady
    | with_reducible apply State.record_steady

theorem execSpiWriteTransaction_steady {s₀ : State} (dt opcode addr : Nat) (words : List Nat) (bad : Nat) (aux : HostAux) (s : State) (hS : Steady s₀ (State.advance s dt)) :
    Goes s₀ (execSpiWriteTransaction dt opcode addr words bad aux s) := by
  unfold execSpiWriteTransaction
  try dsimp only
  repeat' first
    | with_reducible assumption
    | with_reducible apply ite_steady
    | with_reducible apply next_goes
    | with_reducible apply ite_goes
    | with_reducible apply State.writeWords_steady
    | with_reducible apply State.inc_steady
    | with_reducible apply State.record_steady

theorem execSpiReadTransaction_steady {s₀ : State} (dt addr n : Nat) (s : State) (hS : Steady s₀ (State.advance s dt)) :
    Goes s₀ (execSpiReadTransaction dt addr n s) := by
  unfold execSpiReadTransaction
  try dsimp only
  repeat' first
    | with_reducible assumption
    | with_reducible apply ite_steady
    | with_reducible apply next_goes
    | with_reducible apply ite_goes
    | with_reducible apply State.readWords_steady
    | with_reducible apply State.readBack_steady

theorem execHostLinkReset_steady {s₀ : State} (dt : Nat) (perst : Bool) (downMs : Nat) (s : State) (hS : Steady s₀ (State.advance s dt)) :
    Goes s₀ (execHostLinkReset dt perst downMs s) := by
  unfold execHostLinkReset
  try dsimp only
  repeat' first
    | with_reducible assumption
    | with_reducible apply ite_steady
    | with_reducible apply next_goes
    | with_reducible apply ite_goes
    | with_reducible apply State.closeSession_steady
    | with_reducible apply State.set_steady
    | with_reducible apply State.record_steady
    | with_reducible exact id
    | with_reducible rfl
    | exact fun _ h => h
    | with_reducible exact fun h => tput_sorted _ h (Nat.zero_le _)
    | with_reducible exact tdel_sorted
    | exact fun _ => rfl
    | with_reducible exact fun h => Memory.writeWord_wf _ _ h
    | (refine written_steady (by simp only [↓State.written_mk]) ?_; with_reducible apply mk_steady)

theorem execPerstNRelease_steady {s₀ : State} (dt gen width : Nat) (msix : Bool) (s : State) (hS : Steady s₀ (State.advance s dt)) :
    Goes s₀ (execPerstNRelease dt gen width msix s) := by
  unfold execPerstNRelease
  try dsimp only
  repeat' first
    | with_reducible assumption
    | with_reducible apply ite_steady
    | with_reducible apply next_goes
    | with_reducible apply ite_goes
    | with_reducible apply State.set_steady
    | with_reducible exact id
    | with_reducible rfl
    | exact fun _ h => h
    | with_reducible exact fun h => tput_sorted _ h (Nat.zero_le _)
    | with_reducible exact tdel_sorted
    | exact fun _ => rfl
    | with_reducible exact fun h => Memory.writeWord_wf _ _ h
    | (refine written_steady (by simp only [↓State.written_mk]) ?_; with_reducible apply mk_steady)

end Sys2Proof.Machine
end

