-- ==== Sys2Proof/Laws/GoesMfn.lean ====
section
/-!
SUPPORT. Every meaning of Machine/Mfn.lean answers a next state, and between the passage of its time and that state `Steady` holds.
-/

set_option Elab.async false

namespace Sys2Proof.Machine

open Sys2Proof

theorem execMfnEnable_steady {s₀ : State} (dt : Nat) (src : CmdSrc) (fn tag : Nat) (s : State) (hS : Steady s₀ (State.advance s dt)) :
    Goes s₀ (execMfnEnable dt src fn tag s) := by
  unfold execMfnEnable
  try dsimp only
  repeat' first
    | with_reducible assumption
    | with_reducible apply ite_steady
    | with_reducible apply next_goes
    | with_reducible apply ite_goes
    | with_reducible apply State.fnCmd_steady

theorem execMfnDisable_steady {s₀ : State} (dt : Nat) (src : CmdSrc) (fn tag : Nat) (s : State) (hS : Steady s₀ (State.advance s dt)) :
    Goes s₀ (execMfnDisable dt src fn tag s) := by
  unfold execMfnDisable
  try dsimp only
  repeat' first
    | with_reducible assumption
    | with_reducible apply ite_steady
    | with_reducible apply next_goes
    | with_reducible apply ite_goes
    | with_reducible apply State.fnCmd_steady

theorem execMfnReset_steady {s₀ : State} (dt : Nat) (src : CmdSrc) (fn tag : Nat) (s : State) (hS : Steady s₀ (State.advance s dt)) :
    Goes s₀ (execMfnReset dt src fn tag s) := by
  unfold execMfnReset
  try dsimp only
  repeat' first
    | with_reducible assumption
    | with_reducible apply ite_steady
    | with_reducible apply next_goes
    | with_reducible apply ite_goes
    | with_reducible apply State.fnCmd_steady

theorem execArmTimeout_steady {s₀ : State} (dt fn : Nat) (s : State) (hS : Steady s₀ (State.advance s dt)) :
    Goes s₀ (execArmTimeout dt fn s) := by
  unfold execArmTimeout
  try dsimp only
  repeat' first
    | with_reducible assumption
    | with_reducible apply ite_steady
    | with_reducible apply next_goes
    | with_reducible apply ite_goes
    | with_reducible apply State.fnFault_steady
    | with_reducible exact id
    | with_reducible rfl
    | exact fun _ h => h
    | with_reducible exact fun h => tput_sorted _ h (Nat.zero_le _)
    | with_reducible exact tdel_sorted
    | exact fun _ => rfl
    | with_reducible exact fun h => Memory.writeWord_wf _ _ h
    | split

theorem execStopBandReached_steady {s₀ : State} (dt fn : Nat) (s : State) (hS : Steady s₀ (State.advance s dt)) :
    Goes s₀ (execStopBandReached dt fn s) := by
  unfold execStopBandReached
  try dsimp only
  repeat' first
    | with_reducible assumption
    | with_reducible apply ite_steady
    | with_reducible apply next_goes
    | with_reducible apply ite_goes
    | with_reducible apply State.fnEnd_steady
    | with_reducible exact id
    | with_reducible rfl
    | exact fun _ h => h
    | with_reducible exact fun h => tput_sorted _ h (Nat.zero_le _)
    | with_reducible exact tdel_sorted
    | exact fun _ => rfl
    | with_reducible exact fun h => Memory.writeWord_wf _ _ h
    | split

theorem execStopTimeout_steady {s₀ : State} (dt fn : Nat) (s : State) (hS : Steady s₀ (State.advance s dt)) :
    Goes s₀ (execStopTimeout dt fn s) := by
  unfold execStopTimeout
  try dsimp only
  repeat' first
    | with_reducible assumption
    | with_reducible apply ite_steady
    | with_reducible apply next_goes
    | with_reducible apply ite_goes
    | with_reducible apply State.fnEnd_steady
    | with_reducible exact id
    | with_reducible rfl
    | exact fun _ h => h
    | with_reducible exact fun h => tput_sorted _ h (Nat.zero_le _)
    | with_reducible exact tdel_sorted
    | exact fun _ => rfl
    | with_reducible exact fun h => Memory.writeWord_wf _ _ h
    | split

theorem execSatTimeout_steady {s₀ : State} (dt cell : Nat) (s : State) (hS : Steady s₀ (State.advance s dt)) :
    Goes s₀ (execSatTimeout dt cell s) := by
  unfold execSatTimeout
  try dsimp only
  repeat' first
    | with_reducible assumption
    | with_reducible apply ite_steady
    | with_reducible apply next_goes
    | with_reducible apply ite_goes
    | with_reducible apply State.fnFault_steady
    | with_reducible exact id
    | with_reducible rfl
    | exact fun _ h => h
    | with_reducible exact fun h => tput_sorted _ h (Nat.zero_le _)
    | with_reducible exact tdel_sorted
    | exact fun _ => rfl
    | with_reducible exact fun h => Memory.writeWord_wf _ _ h
    | split

end Sys2Proof.Machine
end

