-- ==== Sys2Proof/Laws/GoesMicrostep.lean ====
section
/-!
SUPPORT. Every meaning of Machine/Microstep.lean answers a next state, and between the passage of its time and that state `Steady` holds.
-/

set_option Elab.async false

namespace Sys2Proof.Machine

open Sys2Proof

theorem execChopperCrossing_steady {s₀ : State} (dt ch coil : Nat) (hi : Bool) (cycles : Nat) (s : State) (hS : Steady s₀ (State.advance s dt)) :
    Goes s₀ (execChopperCrossing dt ch coil hi cycles s) := by
  unfold execChopperCrossing
  try dsimp only
  repeat' first
    | with_reducible assumption
    | with_reducible apply ite_steady
    | with_reducible apply next_goes
    | with_reducible apply ite_goes
    | with_reducible apply State.sent_steady
    | with_reducible apply State.chopCross_steady

theorem execOpenCoil_steady {s₀ : State} (dt ch coil : Nat) (s : State) (hS : Steady s₀ (State.advance s dt)) :
    Goes s₀ (execOpenCoil dt ch coil s) := by
  unfold execOpenCoil
  try dsimp only
  repeat' first
    | with_reducible assumption
    | with_reducible apply ite_steady
    | with_reducible apply next_goes
    | with_reducible apply ite_goes
    | with_reducible apply State.stepFault_steady
    | with_reducible exact id
    | with_reducible rfl
    | exact fun _ h => h
    | with_reducible exact fun h => tput_sorted _ h (Nat.zero_le _)
    | with_reducible exact tdel_sorted
    | exact fun _ => rfl
    | with_reducible exact fun h => Memory.writeWord_wf _ _ h
    | split

theorem execShortCoil_steady {s₀ : State} (dt ch coil : Nat) (s : State) (hS : Steady s₀ (State.advance s dt)) :
    Goes s₀ (execShortCoil dt ch coil s) := by
  unfold execShortCoil
  try dsimp only
  repeat' first
    | with_reducible assumption
    | with_reducible apply ite_steady
    | with_reducible apply next_goes
    | with_reducible apply ite_goes
    | with_reducible apply State.stepFault_steady
    | with_reducible exact id
    | with_reducible rfl
    | exact fun _ h => h
    | with_reducible exact fun h => tput_sorted _ h (Nat.zero_le _)
    | with_reducible exact tdel_sorted
    | exact fun _ => rfl
    | with_reducible exact fun h => Memory.writeWord_wf _ _ h
    | split

theorem execStepMove_steady {s₀ : State} (dt : Nat) (src : CmdSrc) (ch tag : Nat) (target : Int) (s : State) (hS : Steady s₀ (State.advance s dt)) :
    Goes s₀ (execStepMove dt src ch tag target s) := by
  unfold execStepMove
  try dsimp only
  repeat' first
    | with_reducible assumption
    | with_reducible apply ite_steady
    | with_reducible apply next_goes
    | with_reducible apply ite_goes
    | with_reducible apply State.stepCmd_steady

theorem execStepVelocity_steady {s₀ : State} (dt : Nat) (src : CmdSrc) (ch tag : Nat) (speed : Int) (s : State) (hS : Steady s₀ (State.advance s dt)) :
    Goes s₀ (execStepVelocity dt src ch tag speed s) := by
  unfold execStepVelocity
  try dsimp only
  repeat' first
    | with_reducible assumption
    | with_reducible apply ite_steady
    | with_reducible apply next_goes
    | with_reducible apply ite_goes
    | with_reducible apply State.stepCmd_steady

theorem execStepHalt_steady {s₀ : State} (dt : Nat) (src : CmdSrc) (ch tag : Nat) (s : State) (hS : Steady s₀ (State.advance s dt)) :
    Goes s₀ (execStepHalt dt src ch tag s) := by
  unfold execStepHalt
  try dsimp only
  repeat' first
    | with_reducible assumption
    | with_reducible apply ite_steady
    | with_reducible apply next_goes
    | with_reducible apply ite_goes
    | with_reducible apply State.stepCmd_steady

theorem execStepStop_steady {s₀ : State} (dt : Nat) (src : CmdSrc) (ch tag : Nat) (s : State) (hS : Steady s₀ (State.advance s dt)) :
    Goes s₀ (execStepStop dt src ch tag s) := by
  unfold execStepStop
  try dsimp only
  repeat' first
    | with_reducible assumption
    | with_reducible apply ite_steady
    | with_reducible apply next_goes
    | with_reducible apply ite_goes
    | with_reducible apply State.stepCmd_steady

theorem execStepHome_steady {s₀ : State} (dt : Nat) (src : CmdSrc) (ch tag : Nat) (s : State) (hS : Steady s₀ (State.advance s dt)) :
    Goes s₀ (execStepHome dt src ch tag s) := by
  unfold execStepHome
  try dsimp only
  repeat' first
    | with_reducible assumption
    | with_reducible apply ite_steady
    | with_reducible apply next_goes
    | with_reducible apply ite_goes
    | with_reducible apply State.stepCmd_steady

theorem execStepReset_steady {s₀ : State} (dt : Nat) (src : CmdSrc) (ch tag : Nat) (s : State) (hS : Steady s₀ (State.advance s dt)) :
    Goes s₀ (execStepReset dt src ch tag s) := by
  unfold execStepReset
  try dsimp only
  repeat' first
    | with_reducible assumption
    | with_reducible apply ite_steady
    | with_reducible apply next_goes
    | with_reducible apply ite_goes
    | with_reducible apply State.stepCmd_steady

theorem execGeneratorUpdate_steady {s₀ : State} (dt : Nat) (switches : List (Nat × SwLevels)) (angles : List (Nat × Nat)) (s : State) (hS : Steady s₀ (State.advance s dt)) :
    Goes s₀ (execGeneratorUpdate dt switches angles s) := by
  unfold execGeneratorUpdate
  try dsimp only
  repeat' first
    | with_reducible assumption
    | with_reducible apply ite_steady
    | with_reducible apply next_goes
    | with_reducible apply ite_goes
    | with_reducible apply State.stepUpdate_steady
    | (with_reducible apply foldl_steady; intro t x ht)

theorem execHoldCurrentReduce_steady {s₀ : State} (dt ch : Nat) (s : State) (hS : Steady s₀ (State.advance s dt)) :
    Goes s₀ (execHoldCurrentReduce dt ch s) := by
  unfold execHoldCurrentReduce
  try dsimp only
  repeat' first
    | with_reducible assumption
    | with_reducible apply ite_steady
    | with_reducible apply next_goes
    | with_reducible apply ite_goes
    | with_reducible apply State.putStep_steady
    | with_reducible apply State.setU_steady
    | with_reducible apply State.set_steady
    | with_reducible exact id
    | with_reducible rfl
    | exact fun _ h => h
    | with_reducible exact fun h => tput_sorted _ h (Nat.zero_le _)
    | with_reducible exact tdel_sorted
    | exact fun _ => rfl
    | with_reducible exact fun h => Memory.writeWord_wf _ _ h
    | split

theorem execLimitSwitchDebounced_steady {s₀ : State} (dt ch : Nat) (pos : Bool) (s : State) (hS : Steady s₀ (State.advance s dt)) :
    Goes s₀ (execLimitSwitchDebounced dt ch pos s) := by
  unfold execLimitSwitchDebounced
  try dsimp only
  repeat' first
    | with_reducible assumption
    | with_reducible apply ite_steady
    | with_reducible apply next_goes
    | with_reducible apply ite_goes
    | with_reducible apply State.setB_steady
    | with_reducible apply State.stepFault_steady
    | with_reducible apply State.stepLimits_steady
    | with_reducible exact id
    | with_reducible rfl
    | exact fun _ h => h
    | with_reducible exact fun h => tput_sorted _ h (Nat.zero_le _)
    | with_reducible exact tdel_sorted
    | exact fun _ => rfl
    | with_reducible exact fun h => Memory.writeWord_wf _ _ h
    | split

theorem execHomeSwitchDebounced_steady {s₀ : State} (dt ch : Nat) (s : State) (hS : Steady s₀ (State.advance s dt)) :
    Goes s₀ (execHomeSwitchDebounced dt ch s) := by
  unfold execHomeSwitchDebounced
  try dsimp only
  repeat' first
    | with_reducible assumption
    | with_reducible apply ite_steady
    | with_reducible apply next_goes
    | with_reducible apply ite_goes
    | with_reducible apply State.setB_steady
    | with_reducible apply State.putStep_steady
    | with_reducible apply State.set_steady
    | with_reducible apply State.setI_steady
    | with_reducible exact id
    | with_reducible rfl
    | exact fun _ h => h
    | with_reducible exact fun h => tput_sorted _ h (Nat.zero_le _)
    | with_reducible exact tdel_sorted
    | exact fun _ => rfl
    | with_reducible exact fun h => Memory.writeWord_wf _ _ h
    | split

theorem execHomingBackoffDone_steady {s₀ : State} (dt ch : Nat) (s : State) (hS : Steady s₀ (State.advance s dt)) :
    Goes s₀ (execHomingBackoffDone dt ch s) := by
  unfold execHomingBackoffDone
  try dsimp only
  repeat' first
    | with_reducible assumption
    | with_reducible apply ite_steady
    | with_reducible apply next_goes
    | with_reducible apply ite_goes
    | with_reducible apply State.stepFault_steady
    | with_reducible apply State.putStep_steady
    | with_reducible apply State.set_steady
    | with_reducible apply State.evt_steady
    | with_reducible apply State.stepRest_steady
    | with_reducible apply State.stepRegs_steady
    | with_reducible apply State.record_steady
    | with_reducible exact id
    | with_reducible rfl
    | exact fun _ h => h
    | with_reducible exact fun h => tput_sorted _ h (Nat.zero_le _)
    | with_reducible exact tdel_sorted
    | exact fun _ => rfl
    | with_reducible exact fun h => Memory.writeWord_wf _ _ h
    | split

end Sys2Proof.Machine
end

