-- ==== Sys2Proof/Laws/GoesTime.lean ====
section
/-!
SUPPORT. Every meaning of Machine/Time.lean answers a next state, and between the passage of its time and that state `Steady` holds.
-/

set_option Elab.async false

namespace Sys2Proof.Machine

open Sys2Proof

theorem execTimeLatch_steady {s₀ : State} (dt : Nat) (_port : Port) (s : State) (hS : Steady s₀ (State.advance s dt)) :
    Goes s₀ (execTimeLatch dt _port s) := by
  unfold execTimeLatch
  try dsimp only
  repeat' first
    | with_reducible assumption
    | with_reducible apply ite_steady
    | with_reducible apply next_goes
    | with_reducible apply ite_goes
    | with_reducible apply State.latchTime_steady

theorem execSingleStep_steady {s₀ : State} (dt : Nat) (s : State) (hS : Steady s₀ (State.advance s dt)) :
    Goes s₀ (execSingleStep dt s) := by
  unfold execSingleStep
  try dsimp only
  repeat' first
    | with_reducible assumption
    | with_reducible apply ite_steady
    | with_reducible apply next_goes
    | with_reducible apply ite_goes
    | with_reducible apply State.makeStep_steady
    | with_reducible exact id
    | with_reducible rfl
    | exact fun _ h => h
    | with_reducible exact fun h => tput_sorted _ h (Nat.zero_le _)
    | with_reducible exact tdel_sorted
    | exact fun _ => rfl
    | with_reducible exact fun h => Memory.writeWord_wf _ _ h
    | split

theorem execServoUpdate_steady {s₀ : State} (dt : Nat) (freqErr : Rat) (offset : Int) (utc : Option (Int × Nat)) (s : State) (hS : Steady s₀ (State.advance s dt)) :
    Goes s₀ (execServoUpdate dt freqErr offset utc s) := by
  unfold execServoUpdate
  try dsimp only
  repeat' first
    | with_reducible assumption
    | with_reducible apply ite_steady
    | with_reducible apply next_goes
    | with_reducible apply ite_goes
    | with_reducible apply State.holdover_steady
    | with_reducible apply State.srcSeen_steady
    | with_reducible apply State.setQ_steady
    | with_reducible apply State.set_steady
    | with_reducible apply State.offsetAlarm_steady
    | with_reducible apply State.setSrc_steady
    | with_reducible apply State.setI_steady
    | with_reducible apply State.openUnc_steady
    | with_reducible exact id
    | with_reducible rfl
    | exact fun _ h => h
    | with_reducible exact fun h => tput_sorted _ h (Nat.zero_le _)
    | with_reducible exact tdel_sorted
    | exact fun _ => rfl
    | with_reducible exact fun h => Memory.writeWord_wf _ _ h
    | split
    | (refine written_steady (by simp only [↓State.written_mk]) ?_; with_reducible apply mk_steady)

theorem execSourceLost_steady {s₀ : State} (dt : Nat) (src : TimeSrc) (s : State) (hS : Steady s₀ (State.advance s dt)) :
    Goes s₀ (execSourceLost dt src s) := by
  unfold execSourceLost
  try dsimp only
  repeat' first
    | with_reducible assumption
    | with_reducible apply ite_steady
    | with_reducible apply next_goes
    | with_reducible apply ite_goes
    | with_reducible apply State.holdover_steady
    | with_reducible apply State.setSrc_steady
    | with_reducible exact id
    | with_reducible rfl
    | exact fun _ h => h
    | with_reducible exact fun h => tput_sorted _ h (Nat.zero_le _)
    | with_reducible exact tdel_sorted
    | exact fun _ => rfl
    | with_reducible exact fun h => Memory.writeWord_wf _ _ h
    | (refine written_steady (by simp only [↓State.written_mk]) ?_; with_reducible apply mk_steady)

theorem execSourceReturn_steady {s₀ : State} (dt : Nat) (src : TimeSrc) (offset : Int) (s : State) (hS : Steady s₀ (State.advance s dt)) :
    Goes s₀ (execSourceReturn dt src offset s) := by
  unfold execSourceReturn
  try dsimp only
  repeat' first
    | with_reducible assumption
    | with_reducible apply ite_steady
    | with_reducible apply next_goes
    | with_reducible apply ite_goes
    | with_reducible apply State.validFix_steady
    | with_reducible apply State.srcSeen_steady
    | with_reducible apply State.set_steady
    | with_reducible apply State.timeEvent_steady
    | with_reducible apply State.setSrc_steady
    | with_reducible exact id
    | with_reducible rfl
    | exact fun _ h => h
    | with_reducible exact fun h => tput_sorted _ h (Nat.zero_le _)
    | with_reducible exact tdel_sorted
    | exact fun _ => rfl
    | with_reducible exact fun h => Memory.writeWord_wf _ _ h
    | (refine written_steady (by simp only [↓State.written_mk]) ?_; with_reducible apply mk_steady)

theorem execRecoveryLock_steady {s₀ : State} (dt : Nat) (s : State) (hS : Steady s₀ (State.advance s dt)) :
    Goes s₀ (execRecoveryLock dt s) := by
  unfold execRecoveryLock
  try dsimp only
  repeat' first
    | with_reducible assumption
    | with_reducible apply ite_steady
    | with_reducible apply next_goes
    | with_reducible apply ite_goes
    | with_reducible apply State.set_steady
    | with_reducible apply State.timeEvent_steady
    | with_reducible apply State.evt_steady
    | with_reducible apply State.clearAlarm_steady
    | with_reducible exact id
    | with_reducible rfl
    | exact fun _ h => h
    | with_reducible exact fun h => tput_sorted _ h (Nat.zero_le _)
    | with_reducible exact tdel_sorted
    | exact fun _ => rfl
    | with_reducible exact fun h => Memory.writeWord_wf _ _ h
    | (refine written_steady (by simp only [↓State.written_mk]) ?_; with_reducible apply mk_steady)

theorem execUncLimitExceeded_steady {s₀ : State} (dt : Nat) (s : State) (hS : Steady s₀ (State.advance s dt)) :
    Goes s₀ (execUncLimitExceeded dt s) := by
  unfold execUncLimitExceeded
  try dsimp only
  repeat' first
    | with_reducible assumption
    | with_reducible apply ite_steady
    | with_reducible apply next_goes
    | with_reducible apply ite_goes
    | with_reducible apply State.setU_steady
    | with_reducible apply State.evt_steady
    | with_reducible apply State.setSat_steady
    | with_reducible apply State.set_steady
    | with_reducible apply State.alarm_steady
    | with_reducible exact id
    | with_reducible rfl
    | exact fun _ h => h
    | with_reducible exact fun h => tput_sorted _ h (Nat.zero_le _)
    | with_reducible exact tdel_sorted
    | exact fun _ => rfl
    | with_reducible exact fun h => Memory.writeWord_wf _ _ h
    | (refine written_steady (by simp only [↓State.written_mk]) ?_; with_reducible apply mk_steady)

theorem execGridAligned_steady {s₀ : State} (dt : Nat) (s : State) (hS : Steady s₀ (State.advance s dt)) :
    Goes s₀ (execGridAligned dt s) := by
  unfold execGridAligned
  try dsimp only
  repeat' first
    | with_reducible assumption
    | with_reducible apply ite_steady
    | with_reducible apply next_goes
    | with_reducible apply ite_goes
    | with_reducible apply State.set_steady
    | with_reducible apply State.evt_steady
    | with_reducible apply State.record_steady
    | with_reducible exact id
    | with_reducible rfl
    | exact fun _ h => h
    | with_reducible exact fun h => tput_sorted _ h (Nat.zero_le _)
    | with_reducible exact tdel_sorted
    | exact fun _ => rfl
    | with_reducible exact fun h => Memory.writeWord_wf _ _ h
    | (refine written_steady (by simp only [↓State.written_mk]) ?_; with_reducible apply mk_steady)

theorem execLeapSecondApply_steady {s₀ : State} (dt : Nat) (s : State) (hS : Steady s₀ (State.advance s dt)) :
    Goes s₀ (execLeapSecondApply dt s) := by
  unfold execLeapSecondApply
  try dsimp only
  repeat' first
    | with_reducible assumption
    | with_reducible apply ite_steady
    | with_reducible apply next_goes
    | with_reducible apply ite_goes
    | with_reducible apply State.setI_steady
    | with_reducible apply State.evt_steady
    | with_reducible apply State.set_steady
    | with_reducible apply State.record_steady
    | with_reducible exact id
    | with_reducible rfl
    | exact fun _ h => h
    | with_reducible exact fun h => tput_sorted _ h (Nat.zero_le _)
    | with_reducible exact tdel_sorted
    | exact fun _ => rfl
    | with_reducible exact fun h => Memory.writeWord_wf _ _ h
    | (refine written_steady (by simp only [↓State.written_mk]) ?_; with_reducible apply mk_steady)

theorem execPpsOutPulse_steady {s₀ : State} (dt : Nat) (nextQerr : Int) (s : State) (hS : Steady s₀ (State.advance s dt)) :
    Goes s₀ (execPpsOutPulse dt nextQerr s) := by
  unfold execPpsOutPulse
  try dsimp only
  repeat' first
    | with_reducible assumption
    | with_reducible apply ite_steady
    | with_reducible apply next_goes
    | with_reducible apply ite_goes
    | with_reducible apply State.setI_steady
    | with_reducible apply State.setB_steady
    | with_reducible exact id
    | with_reducible rfl
    | exact fun _ h => h
    | with_reducible exact fun h => tput_sorted _ h (Nat.zero_le _)
    | with_reducible exact tdel_sorted
    | exact fun _ => rfl
    | with_reducible exact fun h => Memory.writeWord_wf _ _ h
    | (refine written_steady (by simp only [↓State.written_mk]) ?_; with_reducible apply mk_steady)

theorem execPpsOutPulseEnd_steady {s₀ : State} (dt : Nat) (s : State) (hS : Steady s₀ (State.advance s dt)) :
    Goes s₀ (execPpsOutPulseEnd dt s) := by
  unfold execPpsOutPulseEnd
  try dsimp only
  repeat' first
    | with_reducible assumption
    | with_reducible apply ite_steady
    | with_reducible apply next_goes
    | with_reducible apply ite_goes
    | with_reducible exact id
    | with_reducible rfl
    | exact fun _ h => h
    | with_reducible exact fun h => tput_sorted _ h (Nat.zero_le _)
    | with_reducible exact tdel_sorted
    | exact fun _ => rfl
    | with_reducible exact fun h => Memory.writeWord_wf _ _ h
    | (refine written_steady (by simp only [↓State.written_mk]) ?_; with_reducible apply mk_steady)

theorem execPpsInEdge_steady {s₀ : State} (dt : Nat) (s : State) (hS : Steady s₀ (State.advance s dt)) :
    Goes s₀ (execPpsInEdge dt s) := by
  unfold execPpsInEdge
  try dsimp only
  repeat' first
    | with_reducible assumption
    | with_reducible apply ite_steady
    | with_reducible apply next_goes
    | with_reducible apply ite_goes
    | with_reducible apply State.set_steady
    | with_reducible apply State.srcSeen_steady
    | with_reducible apply State.setSrc_steady
    | with_reducible apply State.timeEvent_steady
    | with_reducible exact id
    | with_reducible rfl
    | exact fun _ h => h
    | with_reducible exact fun h => tput_sorted _ h (Nat.zero_le _)
    | with_reducible exact tdel_sorted
    | exact fun _ => rfl
    | with_reducible exact fun h => Memory.writeWord_wf _ _ h
    | split
    | (refine written_steady (by simp only [↓State.written_mk]) ?_; with_reducible apply mk_steady)

theorem execExt10mLoss_steady {s₀ : State} (dt : Nat) (s : State) (hS : Steady s₀ (State.advance s dt)) :
    Goes s₀ (execExt10mLoss dt s) := by
  unfold execExt10mLoss
  try dsimp only
  repeat' first
    | with_reducible assumption
    | with_reducible apply ite_steady
    | with_reducible apply next_goes
    | with_reducible apply ite_goes
    | with_reducible apply State.set_steady
    | with_reducible apply State.record_steady

theorem execExt10mRestore_steady {s₀ : State} (dt : Nat) (s : State) (hS : Steady s₀ (State.advance s dt)) :
    Goes s₀ (execExt10mRestore dt s) := by
  unfold execExt10mRestore
  try dsimp only
  repeat' first
    | with_reducible assumption
    | with_reducible apply ite_steady
    | with_reducible apply next_goes
    | with_reducible apply ite_goes
    | with_reducible apply State.set_steady
    | with_reducible apply State.record_steady

theorem execPtpEventMessage_steady {s₀ : State} (dt port : Nat) (r : PtpReading) (s : State) (hS : Steady s₀ (State.advance s dt)) :
    Goes s₀ (execPtpEventMessage dt port r s) := by
  unfold execPtpEventMessage
  try dsimp only
  repeat' first
    | with_reducible assumption
    | with_reducible apply ite_steady
    | with_reducible apply next_goes
    | with_reducible apply ite_goes
    | with_reducible apply State.ptpSetState_steady
    | with_reducible apply State.putPtp_steady
    | with_reducible apply State.validFix_steady
    | with_reducible apply State.srcSeen_steady
    | with_reducible exact id
    | with_reducible rfl
    | exact fun _ h => h
    | with_reducible exact fun h => tput_sorted _ h (Nat.zero_le _)
    | with_reducible exact tdel_sorted
    | exact fun _ => rfl
    | with_reducible exact fun h => Memory.writeWord_wf _ _ h
    | split

theorem execPtpGeneralMessage_steady {s₀ : State} (dt port : Nat) (r : PtpReading) (s : State) (hS : Steady s₀ (State.advance s dt)) :
    Goes s₀ (execPtpGeneralMessage dt port r s) := by
  unfold execPtpGeneralMessage
  try dsimp only
  repeat' first
    | with_reducible assumption
    | with_reducible apply ite_steady
    | with_reducible apply next_goes
    | with_reducible apply ite_goes
    | with_reducible apply State.ptpSetState_steady
    | with_reducible apply State.putPtp_steady
    | with_reducible apply State.set_steady
    | with_reducible exact id
    | with_reducible rfl
    | exact fun _ h => h
    | with_reducible exact fun h => tput_sorted _ h (Nat.zero_le _)
    | with_reducible exact tdel_sorted
    | exact fun _ => rfl
    | with_reducible exact fun h => Memory.writeWord_wf _ _ h
    | split
    | (refine written_steady (by simp only [↓State.written_mk]) ?_; with_reducible apply mk_steady)

theorem execPtpSyncTransmit_steady {s₀ : State} (dt port interval : Nat) (s : State) (hS : Steady s₀ (State.advance s dt)) :
    Goes s₀ (execPtpSyncTransmit dt port interval s) := by
  unfold execPtpSyncTransmit
  try dsimp only
  repeat' first
    | with_reducible assumption
    | with_reducible apply ite_steady
    | with_reducible apply next_goes
    | with_reducible apply ite_goes
    | with_reducible apply State.putPtp_steady
    | with_reducible apply State.ptpSend_steady

theorem execPtpAnnounceTransmit_steady {s₀ : State} (dt port interval : Nat) (s : State) (hS : Steady s₀ (State.advance s dt)) :
    Goes s₀ (execPtpAnnounceTransmit dt port interval s) := by
  unfold execPtpAnnounceTransmit
  try dsimp only
  repeat' first
    | with_reducible assumption
    | with_reducible apply ite_steady
    | with_reducible apply next_goes
    | with_reducible apply ite_goes
    | with_reducible apply State.putPtp_steady
    | with_reducible apply State.ptpSend_steady

theorem execPtpDelayReqTransmit_steady {s₀ : State} (dt port interval : Nat) (s : State) (hS : Steady s₀ (State.advance s dt)) :
    Goes s₀ (execPtpDelayReqTransmit dt port interval s) := by
  unfold execPtpDelayReqTransmit
  try dsimp only
  repeat' first
    | with_reducible assumption
    | with_reducible apply ite_steady
    | with_reducible apply next_goes
    | with_reducible apply ite_goes
    | with_reducible apply State.putPtp_steady
    | with_reducible apply State.ptpSend_steady

theorem execTriggerUnitFire_steady {s₀ : State} (dt unit : Nat) (s : State) (hS : Steady s₀ (State.advance s dt)) :
    Goes s₀ (execTriggerUnitFire dt unit s) := by
  unfold execTriggerUnitFire
  try dsimp only
  repeat' first
    | with_reducible assumption
    | with_reducible apply ite_steady
    | with_reducible apply next_goes
    | with_reducible apply ite_goes
    | with_reducible apply State.inc_steady
    | with_reducible apply State.trigTarget_steady
    | with_reducible exact id
    | with_reducible rfl
    | exact fun _ h => h
    | with_reducible exact fun h => tput_sorted _ h (Nat.zero_le _)
    | with_reducible exact tdel_sorted
    | exact fun _ => rfl
    | with_reducible exact fun h => Memory.writeWord_wf _ _ h
    | split
    | (refine written_steady (by simp only [↓State.written_mk]) ?_; with_reducible apply mk_steady)

end Sys2Proof.Machine
end

