-- ==== Sys2Proof/Laws/GoesTwin.lean ====
section
/-!
SUPPORT. Every meaning of Machine/Twin.lean answers a next state, and between the passage of its time and that state `Steady` holds.
-/

set_option Elab.async false

namespace Sys2Proof.Machine

open Sys2Proof

theorem execSealReceive_steady {s₀ : State} (dt : Nat) (sl : Seal) (s : State) (hS : Steady s₀ (State.advance s dt)) :
    Goes s₀ (execSealReceive dt sl s) := by
  unfold execSealReceive
  try dsimp only
  repeat' first
    | with_reducible assumption
    | with_reducible apply ite_steady
    | with_reducible apply next_goes
    | with_reducible apply ite_goes
    | with_reducible apply State.incSat_steady
    | with_reducible apply State.swapIn_steady
    | with_reducible apply State.applyInput_steady
    | with_reducible apply State.tickWork_steady
    | with_reducible apply State.setSat_steady
    | with_reducible apply State.inc_steady
    | with_reducible apply State.endTicks_steady
    | (with_reducible apply foldl_steady; intro t x ht)
    | with_reducible exact id
    | with_reducible rfl
    | exact fun _ h => h
    | with_reducible exact fun h => tput_sorted _ h (Nat.zero_le _)
    | with_reducible exact tdel_sorted
    | exact fun _ => rfl
    | with_reducible exact fun h => Memory.writeWord_wf _ _ h
    | (refine written_steady (by simp only [↓State.written_mk]) ?_; with_reducible apply mk_steady)

theorem execInputRecordReceive_steady {s₀ : State} (dt : Nat) (r : TwinRec) (s : State) (hS : Steady s₀ (State.advance s dt)) :
    Goes s₀ (execInputRecordReceive dt r s) := by
  unfold execInputRecordReceive
  try dsimp only
  repeat' first
    | with_reducible assumption
    | with_reducible apply ite_steady
    | with_reducible apply next_goes
    | with_reducible apply ite_goes
    | with_reducible exact id
    | with_reducible rfl
    | exact fun _ h => h
    | with_reducible exact fun h => tput_sorted _ h (Nat.zero_le _)
    | with_reducible exact tdel_sorted
    | exact fun _ => rfl
    | with_reducible exact fun h => Memory.writeWord_wf _ _ h
    | (refine written_steady (by simp only [↓State.written_mk]) ?_; with_reducible apply mk_steady)

theorem execTimeRecordReceive_steady {s₀ : State} (dt phase : Nat) (rate : Rat) (stepped : Bool) (s : State) (hS : Steady s₀ (State.advance s dt)) :
    Goes s₀ (execTimeRecordReceive dt phase rate stepped s) := by
  unfold execTimeRecordReceive
  try dsimp only
  repeat' first
    | with_reducible assumption
    | with_reducible apply ite_steady
    | with_reducible apply next_goes
    | with_reducible apply ite_goes
    | with_reducible apply State.makeStep_steady
    | with_reducible apply State.setSrc_steady
    | with_reducible apply State.setQ_steady
    | with_reducible exact id
    | with_reducible rfl
    | exact fun _ h => h
    | with_reducible exact fun h => tput_sorted _ h (Nat.zero_le _)
    | with_reducible exact tdel_sorted
    | exact fun _ => rfl
    | with_reducible exact fun h => Memory.writeWord_wf _ _ h
    | (refine written_steady (by simp only [↓State.written_mk]) ?_; with_reducible apply mk_steady)

theorem execStatusReceive_steady {s₀ : State} (dt state lag inst cv : Nat) (s : State) (hS : Steady s₀ (State.advance s dt)) :
    Goes s₀ (execStatusReceive dt state lag inst cv s) := by
  unfold execStatusReceive
  try dsimp only
  repeat' first
    | with_reducible assumption
    | with_reducible apply ite_steady
    | with_reducible apply next_goes
    | with_reducible apply ite_goes
    | with_reducible apply State.set_steady
    | with_reducible apply State.setSat_steady
    | with_reducible apply State.unpairedAlarm_steady
    | with_reducible apply State.evt_steady
    | with_reducible apply State.becomeUnpaired_steady
    | with_reducible apply State.syncRecord_steady
    | with_reducible apply State.clearAlarm_steady
    | with_reducible exact id
    | with_reducible rfl
    | exact fun _ h => h
    | with_reducible exact fun h => tput_sorted _ h (Nat.zero_le _)
    | with_reducible exact tdel_sorted
    | exact fun _ => rfl
    | with_reducible exact fun h => Memory.writeWord_wf _ _ h
    | (refine written_steady (by simp only [↓State.written_mk]) ?_; with_reducible apply mk_steady)

theorem execResendReceive_steady {s₀ : State} (dt records : Nat) (s : State) (hS : Steady s₀ (State.advance s dt)) :
    Goes s₀ (execResendReceive dt records s) := by
  unfold execResendReceive
  try dsimp only
  repeat' first
    | with_reducible assumption
    | with_reducible apply ite_steady
    | with_reducible apply next_goes
    | with_reducible apply ite_goes
    | with_reducible apply State.inc_steady
    | with_reducible exact id
    | with_reducible rfl
    | exact fun _ h => h
    | with_reducible exact fun h => tput_sorted _ h (Nat.zero_le _)
    | with_reducible exact tdel_sorted
    | exact fun _ => rfl
    | with_reducible exact fun h => Memory.writeWord_wf _ _ h
    | (refine written_steady (by simp only [↓State.written_mk]) ?_; with_reducible apply mk_steady)

theorem execDivergeReceive_steady {s₀ : State} (dt scope cell tick : Nat) (s : State) (hS : Steady s₀ (State.advance s dt)) :
    Goes s₀ (execDivergeReceive dt scope cell tick s) := by
  unfold execDivergeReceive
  try dsimp only
  repeat' first
    | with_reducible assumption
    | with_reducible apply ite_steady
    | with_reducible apply next_goes
    | with_reducible apply ite_goes
    | with_reducible apply State.inc_steady
    | with_reducible apply State.mismatchNote_steady

theorem execConfirmReceive_steady {s₀ : State} (dt scope cell tick : Nat) (s : State) (hS : Steady s₀ (State.advance s dt)) :
    Goes s₀ (execConfirmReceive dt scope cell tick s) := by
  unfold execConfirmReceive
  try dsimp only
  repeat' first
    | with_reducible assumption
    | with_reducible apply ite_steady
    | with_reducible apply next_goes
    | with_reducible apply ite_goes
    | with_reducible apply State.set_steady
    | with_reducible apply State.mismatchNote_steady
    | with_reducible apply State.deviceFault_steady

theorem execGiveUpReceive_steady {s₀ : State} (dt cause tick : Nat) (s : State) (hS : Steady s₀ (State.advance s dt)) :
    Goes s₀ (execGiveUpReceive dt cause tick s) := by
  unfold execGiveUpReceive
  try dsimp only
  repeat' first
    | with_reducible assumption
    | with_reducible apply ite_steady
    | with_reducible apply next_goes
    | with_reducible apply ite_goes
    | with_reducible apply State.lullExit_steady
    | with_reducible exact id
    | with_reducible rfl
    | exact fun _ h => h
    | with_reducible exact fun h => tput_sorted _ h (Nat.zero_le _)
    | with_reducible exact tdel_sorted
    | exact fun _ => rfl
    | with_reducible exact fun h => Memory.writeWord_wf _ _ h
    | (refine written_steady (by simp only [↓State.written_mk]) ?_; with_reducible apply mk_steady)

theorem execReplayDone_steady {s₀ : State} (dt tick lagNs : Nat) (own : Seal) (cell : Nat) (s : State) (hS : Steady s₀ (State.advance s dt)) :
    Goes s₀ (execReplayDone dt tick lagNs own cell s) := by
  unfold execReplayDone
  try dsimp only
  repeat' first
    | with_reducible assumption
    | with_reducible apply ite_steady
    | with_reducible apply next_goes
    | with_reducible apply ite_goes
    | with_reducible apply State.setSat_steady
    | with_reducible apply State.compareScope_steady
    | with_reducible apply State.lagOver_steady
    | with_reducible apply State.set_steady
    | with_reducible exact id
    | with_reducible rfl
    | exact fun _ h => h
    | with_reducible exact fun h => tput_sorted _ h (Nat.zero_le _)
    | with_reducible exact tdel_sorted
    | exact fun _ => rfl
    | with_reducible exact fun h => Memory.writeWord_wf _ _ h
    | split
    | (refine written_steady (by simp only [↓State.written_mk]) ?_; with_reducible apply mk_steady)

theorem execTickLagExceeded_steady {s₀ : State} (dt lagNs : Nat) (s : State) (hS : Steady s₀ (State.advance s dt)) :
    Goes s₀ (execTickLagExceeded dt lagNs s) := by
  unfold execTickLagExceeded
  try dsimp only
  repeat' first
    | with_reducible assumption
    | with_reducible apply ite_steady
    | with_reducible apply next_goes
    | with_reducible apply ite_goes
    | with_reducible apply State.setSat_steady
    | with_reducible apply State.lagOver_steady

theorem execStandbyLagLimit_steady {s₀ : State} (dt : Nat) (s : State) (hS : Steady s₀ (State.advance s dt)) :
    Goes s₀ (execStandbyLagLimit dt s) := by
  unfold execStandbyLagLimit
  try dsimp only
  repeat' first
    | with_reducible assumption
    | with_reducible apply ite_steady
    | with_reducible apply next_goes
    | with_reducible apply ite_goes
    | with_reducible apply State.record_steady
    | with_reducible apply State.deviceFault_steady

theorem execLaneDown_steady {s₀ : State} (dt lane : Nat) (activeIn : Bool) (s : State) (hS : Steady s₀ (State.advance s dt)) :
    Goes s₀ (execLaneDown dt lane activeIn s) := by
  unfold execLaneDown
  try dsimp only
  repeat' first
    | with_reducible assumption
    | with_reducible apply ite_steady
    | with_reducible apply next_goes
    | with_reducible apply ite_goes
    | with_reducible apply State.set_steady
    | with_reducible apply State.evt_steady
    | with_reducible apply State.becomeUnpaired_steady
    | with_reducible apply State.detach_steady
    | with_reducible apply State.setB_steady
    | with_reducible apply State.incSat_steady
    | with_reducible apply State.alarm_steady
    | with_reducible exact id
    | with_reducible rfl
    | exact fun _ h => h
    | with_reducible exact fun h => tput_sorted _ h (Nat.zero_le _)
    | with_reducible exact tdel_sorted
    | exact fun _ => rfl
    | with_reducible exact fun h => Memory.writeWord_wf _ _ h
    | (refine written_steady (by simp only [↓State.written_mk]) ?_; with_reducible apply mk_steady)

theorem execLaneRetrain_steady {s₀ : State} (dt lane : Nat) (up : Bool) (s : State) (hS : Steady s₀ (State.advance s dt)) :
    Goes s₀ (execLaneRetrain dt lane up s) := by
  unfold execLaneRetrain
  try dsimp only
  repeat' first
    | with_reducible assumption
    | with_reducible apply ite_steady
    | with_reducible apply next_goes
    | with_reducible apply ite_goes
    | with_reducible apply State.set_steady
    | with_reducible apply State.clearAlarm_steady
    | with_reducible exact id
    | with_reducible rfl
    | exact fun _ h => h
    | with_reducible exact fun h => tput_sorted _ h (Nat.zero_le _)
    | with_reducible exact tdel_sorted
    | exact fun _ => rfl
    | with_reducible exact fun h => Memory.writeWord_wf _ _ h
    | (refine written_steady (by simp only [↓State.written_mk]) ?_; with_reducible apply mk_steady)

theorem execTakeover_steady {s₀ : State} (dt activeInLowNs peerOkLowNs : Nat) (missed : List Nat) (s : State) (hS : Steady s₀ (State.advance s dt)) :
    Goes s₀ (execTakeover dt activeInLowNs peerOkLowNs missed s) := by
  unfold execTakeover
  try dsimp only
  repeat' first
    | with_reducible assumption
    | with_reducible apply ite_steady
    | with_reducible apply next_goes
    | with_reducible apply ite_goes
    | with_reducible apply State.endTicks_steady
    | with_reducible apply State.set_steady
    | with_reducible apply State.setSat_steady
    | with_reducible apply State.handoverMiss_steady
    | with_reducible apply State.evt_steady
    | with_reducible apply State.ppsNext_steady
    | with_reducible apply State.unpairedAlarm_steady
    | with_reducible apply State.lullExit_steady
    | with_reducible apply State.inc_steady
    | with_reducible apply State.record_steady
    | with_reducible apply State.canTakeover_steady
    | with_reducible apply State.ethTakeover_steady
    | with_reducible apply State.hartHandover_steady
    | with_reducible apply State.yuzTakeover_steady
    | (with_reducible apply foldl_steady; intro t x ht)
    | with_reducible exact id
    | with_reducible rfl
    | exact fun _ h => h
    | with_reducible exact fun h => tput_sorted _ h (Nat.zero_le _)
    | with_reducible exact tdel_sorted
    | exact fun _ => rfl
    | with_reducible exact fun h => Memory.writeWord_wf _ _ h
    | (refine written_steady (by simp only [↓State.written_mk]) ?_; with_reducible apply mk_steady)

theorem execSidebandTimeout_steady {s₀ : State} (dt : Nat) (s : State) (hS : Steady s₀ (State.advance s dt)) :
    Goes s₀ (execSidebandTimeout dt s) := by
  unfold execSidebandTimeout
  try dsimp only
  repeat' first
    | with_reducible assumption
    | with_reducible apply ite_steady
    | with_reducible apply next_goes
    | with_reducible apply ite_goes
    | with_reducible apply State.set_steady
    | with_reducible apply State.sidebandAlarm_steady
    | with_reducible exact id
    | with_reducible rfl
    | exact fun _ h => h
    | with_reducible exact fun h => tput_sorted _ h (Nat.zero_le _)
    | with_reducible exact tdel_sorted
    | exact fun _ => rfl
    | with_reducible exact fun h => Memory.writeWord_wf _ _ h
    | split

theorem execSidebandDisagree_steady {s₀ : State} (dt : Nat) (activeIn peerOkIn : Bool) (s : State) (hS : Steady s₀ (State.advance s dt)) :
    Goes s₀ (execSidebandDisagree dt activeIn peerOkIn s) := by
  unfold execSidebandDisagree
  try dsimp only
  repeat' first
    | with_reducible assumption
    | with_reducible apply ite_steady
    | with_reducible apply next_goes
    | with_reducible apply ite_goes
    | with_reducible apply State.setB_steady
    | with_reducible apply State.sidebandAlarm_steady

theorem execPeerOkLowTimeout_steady {s₀ : State} (dt lowNs : Nat) (s : State) (hS : Steady s₀ (State.advance s dt)) :
    Goes s₀ (execPeerOkLowTimeout dt lowNs s) := by
  unfold execPeerOkLowTimeout
  try dsimp only
  repeat' first
    | with_reducible assumption
    | with_reducible apply ite_steady
    | with_reducible apply next_goes
    | with_reducible apply ite_goes
    | with_reducible apply State.incSat_steady
    | with_reducible apply State.set_steady
    | with_reducible apply State.record_steady
    | with_reducible apply State.becomeUnpaired_steady

theorem execTwinPlaus_steady {s₀ : State} (dt cls idx : Nat) (diff : Rat) (heldNs : Nat) (s : State) (hS : Steady s₀ (State.advance s dt)) :
    Goes s₀ (execTwinPlaus dt cls idx diff heldNs s) := by
  unfold execTwinPlaus
  try dsimp only
  repeat' first
    | with_reducible assumption
    | with_reducible apply ite_steady
    | with_reducible apply next_goes
    | with_reducible apply ite_goes
    | with_reducible apply State.setU_steady
    | with_reducible apply State.set_steady
    | with_reducible apply State.setB_steady
    | with_reducible apply State.evt_steady
    | with_reducible apply State.alarm_steady
    | with_reducible apply State.clearAlarm_steady

theorem execTwinHoTickLoRead_steady {s₀ : State} (dt : Nat) (port : Port) (s : State) (hS : Steady s₀ (State.advance s dt)) :
    Goes s₀ (execTwinHoTickLoRead dt port s) := by
  unfold execTwinHoTickLoRead
  try dsimp only
  repeat' first
    | with_reducible assumption
    | with_reducible apply ite_steady
    | with_reducible apply next_goes
    | with_reducible apply ite_goes
    | with_reducible apply State.set_steady
    | with_reducible exact id
    | with_reducible rfl
    | exact fun _ h => h
    | with_reducible exact fun h => tput_sorted _ h (Nat.zero_le _)
    | with_reducible exact tdel_sorted
    | exact fun _ => rfl
    | with_reducible exact fun h => Memory.writeWord_wf _ _ h
    | split
    | (refine written_steady (by simp only [↓State.written_mk]) ?_; with_reducible apply mk_steady)

end Sys2Proof.Machine
end

