-- ==== Sys2Proof/Laws/GoesYuz.lean ====
section
/-!
SUPPORT. Every meaning of Machine/Yuz.lean answers a next state, and between the passage of its time and that state `Steady` holds.
-/

set_option Elab.async false

namespace Sys2Proof.Machine

open Sys2Proof

theorem execYuzBatchStart_steady {s₀ : State} (dt : Nat) (s : State) (hS : Steady s₀ (State.advance s dt)) :
    Goes s₀ (execYuzBatchStart dt s) := by
  unfold execYuzBatchStart
  try dsimp only
  repeat' first
    | with_reducible assumption
    | with_reducible apply ite_steady
    | with_reducible apply next_goes
    | with_reducible apply ite_goes
    | with_reducible apply State.yuzExpire_steady
    | with_reducible apply State.yuzStat_steady
    | with_reducible exact id
    | with_reducible rfl
    | exact fun _ h => h
    | with_reducible exact fun h => tput_sorted _ h (Nat.zero_le _)
    | with_reducible exact tdel_sorted
    | exact fun _ => rfl
    | with_reducible exact fun h => Memory.writeWord_wf _ _ h
    | split
    | (refine written_steady (by simp only [↓State.written_mk]) ?_; with_reducible apply mk_steady)

theorem execYuzBatchDone_steady {s₀ : State} (dt : Nat) (items : List ItemRes) (s : State) (hS : Steady s₀ (State.advance s dt)) :
    Goes s₀ (execYuzBatchDone dt items s) := by
  unfold execYuzBatchDone
  try dsimp only
  repeat' first
    | with_reducible assumption
    | with_reducible apply ite_steady
    | with_reducible apply next_goes
    | with_reducible apply ite_goes
    | with_reducible apply State.yuzByVerdict_steady
    | with_reducible apply State.yuzFinish_steady
    | with_reducible exact id
    | with_reducible rfl
    | exact fun _ h => h
    | with_reducible exact fun h => tput_sorted _ h (Nat.zero_le _)
    | with_reducible exact tdel_sorted
    | exact fun _ => rfl
    | with_reducible exact fun h => Memory.writeWord_wf _ _ h
    | split
    | (refine written_steady (by simp only [↓State.written_mk]) ?_; with_reducible apply mk_steady)

theorem execYuzDeadlineStop_steady {s₀ : State} (dt : Nat) (items : List ItemRes) (cycles overrun : Nat) (s : State) (hS : Steady s₀ (State.advance s dt)) :
    Goes s₀ (execYuzDeadlineStop dt items cycles overrun s) := by
  unfold execYuzDeadlineStop
  try dsimp only
  repeat' first
    | with_reducible assumption
    | with_reducible apply ite_steady
    | with_reducible apply next_goes
    | with_reducible apply ite_goes
    | with_reducible apply State.yuzFinish_steady
    | with_reducible apply State.setSat_steady
    | with_reducible apply State.set_steady
    | with_reducible apply State.incSat_steady
    | with_reducible apply State.record_steady
    | with_reducible apply State.evt_steady
    | with_reducible exact id
    | with_reducible rfl
    | exact fun _ h => h
    | with_reducible exact fun h => tput_sorted _ h (Nat.zero_le _)
    | with_reducible exact tdel_sorted
    | exact fun _ => rfl
    | with_reducible exact fun h => Memory.writeWord_wf _ _ h
    | split
    | (refine written_steady (by simp only [↓State.written_mk]) ?_; with_reducible apply mk_steady)

theorem execVerdictReceive_steady {s₀ : State} (dt batch : Nat) (stop : Option (Nat × Nat)) (s : State) (hS : Steady s₀ (State.advance s dt)) :
    Goes s₀ (execVerdictReceive dt batch stop s) := by
  unfold execVerdictReceive
  try dsimp only
  repeat' first
    | with_reducible assumption
    | with_reducible apply ite_steady
    | with_reducible apply next_goes
    | with_reducible apply ite_goes
    | with_reducible apply State.keepVerdict_steady
    | with_reducible apply State.yuzByVerdict_steady
    | with_reducible apply State.yuzUnstarted_steady
    | with_reducible exact id
    | with_reducible rfl
    | exact fun _ h => h
    | with_reducible exact fun h => tput_sorted _ h (Nat.zero_le _)
    | with_reducible exact tdel_sorted
    | exact fun _ => rfl
    | with_reducible exact fun h => Memory.writeWord_wf _ _ h
    | split

theorem execStandbyLag_steady {s₀ : State} (dt : Nat) (s : State) (hS : Steady s₀ (State.advance s dt)) :
    Goes s₀ (execStandbyLag dt s) := by
  unfold execStandbyLag
  try dsimp only
  repeat' first
    | with_reducible assumption
    | with_reducible apply ite_steady
    | with_reducible apply next_goes
    | with_reducible apply ite_goes
    | with_reducible apply State.evt_steady
    | with_reducible apply State.deviceFault_steady
    | with_reducible apply State.record_steady
    | with_reducible exact id
    | with_reducible rfl
    | exact fun _ h => h
    | with_reducible exact fun h => tput_sorted _ h (Nat.zero_le _)
    | with_reducible exact tdel_sorted
    | exact fun _ => rfl
    | with_reducible exact fun h => Memory.writeWord_wf _ _ h
    | split

theorem execYuzSelftestDone_steady {s₀ : State} (dt : Nat) (results expected : List (Nat × Nat)) (s : State) (hS : Steady s₀ (State.advance s dt)) :
    Goes s₀ (execYuzSelftestDone dt results expected s) := by
  unfold execYuzSelftestDone
  try dsimp only
  repeat' first
    | with_reducible assumption
    | with_reducible apply ite_steady
    | with_reducible apply next_goes
    | with_reducible apply ite_goes
    | with_reducible apply State.set_steady
    | with_reducible apply State.musterSafe_steady
    | with_reducible apply State.evt_steady
    | with_reducible apply State.record_steady
    | with_reducible exact id
    | with_reducible rfl
    | exact fun _ h => h
    | with_reducible exact fun h => tput_sorted _ h (Nat.zero_le _)
    | with_reducible exact tdel_sorted
    | exact fun _ => rfl
    | with_reducible exact fun h => Memory.writeWord_wf _ _ h
    | split

end Sys2Proof.Machine
end

