-- ==== Sys2Proof/Laws/State.lean ====
section
/-!
SUPPORT. What each named update of the state does to each field: one lemma per field, true by definition.
-/

set_option Elab.async false

namespace Sys2Proof.Machine

open Sys2Proof

variable (s : State) (f : Fld) (v b dt : Nat)

/-! ### A register field takes a value -/

@[simp] theorem State.set_now : (s.set f v b).now = s.now := rfl
@[simp] theorem State.set_pts : (s.set f v b).pts = s.pts := rfl
@[simp] theorem State.set_inbox : (s.set f v b).inbox = s.inbox := rfl
@[simp] theorem State.set_pgn : (s.set f v b).pgn = s.pgn := rfl
@[simp] theorem State.set_alarms : (s.set f v b).alarms = s.alarms := rfl
@[simp] theorem State.set_log : (s.set f v b).log = s.log := rfl
@[simp] theorem State.set_pcie : (s.set f v b).pcie = s.pcie := rfl
@[simp] theorem State.set_spi : (s.set f v b).spi = s.spi := rfl
@[simp] theorem State.set_msix : (s.set f v b).msix = s.msix := rfl
@[simp] theorem State.set_msiSent : (s.set f v b).msiSent = s.msiSent := rfl
@[simp] theorem State.set_msixEnable : (s.set f v b).msixEnable = s.msixEnable := rfl
@[simp] theorem State.set_man : (s.set f v b).man = s.man := rfl
@[simp] theorem State.set_irqPba : (s.set f v b).irqPba = s.irqPba := rfl
@[simp] theorem State.set_outHeld : (s.set f v b).outHeld = s.outHeld := rfl
@[simp] theorem State.set_mus : (s.set f v b).mus = s.mus := rfl
@[simp] theorem State.set_mnf : (s.set f v b).mnf = s.mnf := rfl
@[simp] theorem State.set_role : (s.set f v b).role = s.role := rfl
@[simp] theorem State.set_tick : (s.set f v b).tick = s.tick := rfl
@[simp] theorem State.set_time : (s.set f v b).time = s.time := rfl
@[simp] theorem State.set_twin : (s.set f v b).twin = s.twin := rfl
@[simp] theorem State.set_gnssRet : (s.set f v b).gnssRet = s.gnssRet := rfl
@[simp] theorem State.set_engStopped : (s.set f v b).engStopped = s.engStopped := rfl
@[simp] theorem State.set_eccFixed : (s.set f v b).eccFixed = s.eccFixed := rfl
@[simp] theorem State.set_netAged : (s.set f v b).netAged = s.netAged := rfl
@[simp] theorem State.set_commits : (s.set f v b).commits = s.commits := rfl
@[simp] theorem State.set_gnss : (s.set f v b).gnss = s.gnss := rfl
@[simp] theorem State.set_est : (s.set f v b).est = s.est := rfl
@[simp] theorem State.set_helm : (s.set f v b).helm = s.helm := rfl
@[simp] theorem State.set_alloc : (s.set f v b).alloc = s.alloc := rfl
@[simp] theorem State.set_yuz : (s.set f v b).yuz = s.yuz := rfl
@[simp] theorem State.set_loop : (s.set f v b).loop = s.loop := rfl
@[simp] theorem State.set_adc : (s.set f v b).adc = s.adc := rfl
@[simp] theorem State.set_clp : (s.set f v b).clp = s.clp := rfl
@[simp] theorem State.set_step : (s.set f v b).step = s.step := rfl
@[simp] theorem State.set_isl : (s.set f v b).isl = s.isl := rfl
@[simp] theorem State.set_pwr : (s.set f v b).pwr = s.pwr := rfl
@[simp] theorem State.set_thrm : (s.set f v b).thrm = s.thrm := rfl
@[simp] theorem State.set_can : (s.set f v b).can = s.can := rfl
@[simp] theorem State.set_eth : (s.set f v b).eth = s.eth := rfl
@[simp] theorem State.set_work : (s.set f v b).work = s.work := rfl
@[simp] theorem State.set_pcieAt : (s.set f v b).pcieAt = s.pcieAt := rfl
@[simp] theorem State.set_ethSeq : (s.set f v b).ethSeq = s.ethSeq := rfl
@[simp] theorem State.set_gpioEdge : (s.set f v b).gpioEdge = s.gpioEdge := rfl
@[simp] theorem State.set_pending : (s.set f v b).pending = s.pending := rfl

/-! ### Time passes -/

@[simp] theorem State.advance_now : (s.advance dt).now = s.now + dt := rfl
@[simp] theorem State.advance_regs : (s.advance dt).regs = s.regs := rfl
@[simp] theorem State.advance_pts : (s.advance dt).pts = s.pts := rfl
@[simp] theorem State.advance_inbox : (s.advance dt).inbox = s.inbox := rfl
@[simp] theorem State.advance_pgn : (s.advance dt).pgn = s.pgn := rfl
@[simp] theorem State.advance_alarms : (s.advance dt).alarms = s.alarms := rfl
@[simp] theorem State.advance_log : (s.advance dt).log = s.log := rfl
@[simp] theorem State.advance_pcie : (s.advance dt).pcie = s.pcie := rfl
@[simp] theorem State.advance_spi : (s.advance dt).spi = s.spi := rfl
@[simp] theorem State.advance_msix : (s.advance dt).msix = s.msix := rfl
@[simp] theorem State.advance_msiSent : (s.advance dt).msiSent = s.msiSent := rfl
@[simp] theorem State.advance_msixEnable : (s.advance dt).msixEnable = s.msixEnable := rfl
@[simp] theorem State.advance_man : (s.advance dt).man = s.man := rfl
@[simp] theorem State.advance_irqPba : (s.advance dt).irqPba = s.irqPba := rfl
@[simp] theorem State.advance_outHeld : (s.advance dt).outHeld = s.outHeld := rfl
@[simp] theorem State.advance_mus : (s.advance dt).mus = s.mus := rfl
@[simp] theorem State.advance_mnf : (s.advance dt).mnf = s.mnf := rfl
@[simp] theorem State.advance_role : (s.advance dt).role = s.role := rfl
@[simp] theorem State.advance_tick : (s.advance dt).tick = s.tick := rfl
@[simp] theorem State.advance_twin : (s.advance dt).twin = s.twin := rfl
@[simp] theorem State.advance_gnssRet : (s.advance dt).gnssRet = s.gnssRet := rfl
@[simp] theorem State.advance_engStopped : (s.advance dt).engStopped = s.engStopped := rfl
@[simp] theorem State.advance_eccFixed : (s.advance dt).eccFixed = s.eccFixed := rfl
@[simp] theorem State.advance_netAged : (s.advance dt).netAged = s.netAged := rfl
@[simp] theorem State.advance_commits : (s.advance dt).commits = s.commits := rfl
@[simp] theorem State.advance_gnss : (s.advance dt).gnss = s.gnss := rfl
@[simp] theorem State.advance_est : (s.advance dt).est = s.est := rfl
@[simp] theorem State.advance_helm : (s.advance dt).helm = s.helm := rfl
@[simp] theorem State.advance_alloc : (s.advance dt).alloc = s.alloc := rfl
@[simp] theorem State.advance_yuz : (s.advance dt).yuz = s.yuz := rfl
@[simp] theorem State.advance_loop : (s.advance dt).loop = s.loop := rfl
@[simp] theorem State.advance_adc : (s.advance dt).adc = s.adc := rfl
@[simp] theorem State.advance_clp : (s.advance dt).clp = s.clp := rfl
@[simp] theorem State.advance_step : (s.advance dt).step = s.step := rfl
@[simp] theorem State.advance_isl : (s.advance dt).isl = s.isl := rfl
@[simp] theorem State.advance_pwr : (s.advance dt).pwr = s.pwr := rfl
@[simp] theorem State.advance_thrm : (s.advance dt).thrm = s.thrm := rfl
@[simp] theorem State.advance_can : (s.advance dt).can = s.can := rfl
@[simp] theorem State.advance_eth : (s.advance dt).eth = s.eth := rfl
@[simp] theorem State.advance_work : (s.advance dt).work = s.work := rfl
@[simp] theorem State.advance_pcieAt : (s.advance dt).pcieAt = s.pcieAt := rfl
@[simp] theorem State.advance_ethSeq : (s.advance dt).ethSeq = s.ethSeq := rfl
@[simp] theorem State.advance_gpioEdge : (s.advance dt).gpioEdge = s.gpioEdge := rfl
@[simp] theorem State.advance_pending : (s.advance dt).pending = s.pending := rfl

@[simp] theorem State.advance_get : (s.advance dt).get f b = s.get f b := rfl

/-! ### The other writes of a field are writes -/

theorem State.setB_eq (c : Bool) : s.setB f c b = s.set f (if c then 1 else 0) b := rfl

theorem State.inc_eq (n : Nat) : s.inc f b n = s.set f (s.get f b + n) b := rfl

theorem State.incSat_eq (n : Nat) : s.incSat f b n = s.set f (min (2 ^ f.width - 1) (s.get f b + n)) b := rfl

theorem State.setSat_eq : s.setSat f v b = s.set f (min (2 ^ f.width - 1) v) b := rfl

theorem State.evt_eq : s.evt f b = (s.set f 1 b).raise (blockId f) := rfl

/-! ### Reading a field back -/

@[simp] theorem State.get_set_same : (s.set f v b).get f b = v % 2 ^ f.width := by
  unfold State.set State.get
  dsimp only
  split
  · simp [tget, *]
  · simp [tget]

theorem loc_mod : loc f b % 8388608 = fkey f := by
  unfold loc fkey
  omega

theorem loc_ne {f g : Fld} (h : fkey g ≠ fkey f) (b c : Nat) : loc g c ≠ loc f b := fun e =>
  h (by rw [← loc_mod g c, ← loc_mod f b, e])

theorem loc_bank {f : Fld} {b c : Nat} (h : c ≠ b) : loc f c ≠ loc f b := by
  unfold loc
  omega

theorem State.tfind_set_ne {k : Nat} (h : k ≠ loc f b) : tfind (s.set f v b).regs k = tfind s.regs k := by
  unfold State.set
  dsimp only
  split
  · exact tfind_tdel_ne _ _ _ h
  · exact tfind_tput_ne _ _ _ _ h

/-- Another field, in any bank, keeps its value. -/
@[simp] theorem State.get_set_ne {g : Fld} {c : Nat} (h : fkey g ≠ fkey f) : (s.set f v b).get g c = s.get g c := by
  unfold State.get tget
  rw [State.tfind_set_ne _ _ _ _ (loc_ne h b c)]

/-- Another bank of the same field keeps its value. -/
theorem State.get_set_bank {c : Nat} (h : c ≠ b) : (s.set f v b).get f c = s.get f c := by
  unfold State.get tget
  rw [State.tfind_set_ne _ _ _ _ (loc_bank h)]

end Sys2Proof.Machine
end

