-- ==== Sys2Proof/Laws/Quiet.lean ====
section
/-!
SUPPORT. What the recorder, the alarm list, the pigeonholes and the interrupt logic may touch: nothing but their own data and the
registers of `noteFlds`. Each operation keeps a frame; from that, each of them leaves every other field and register.
-/

set_option Elab.async false

namespace Sys2Proof.Machine

open Sys2Proof

theorem Framed.refl (ks : List Nat) (s : State) : Framed ks s s := ⟨rfl, fun _ _ _ => rfl⟩

theorem Framed.trans {ks : List Nat} {a b c : State} (h : Framed ks a b) (g : Framed ks b c) : Framed ks a c :=
  ⟨g.plain.trans h.plain, fun k hk hn => (g.regs k hk hn).trans (h.regs k hk hn)⟩

theorem noteKey_loc (f : Fld) (b : Nat) : noteKey (loc f b) = noteFld f := by
  unfold noteKey noteFld
  rw [loc_mod]

/-- A register outside the frame may change where it is listed, or tells what happened. -/
theorem set_framed {ks : List Nat} {s₀ : State} (s : State) (f : Fld) (v b : Nat) (hf : loc f b ∈ ks ∨ noteFld f = true)
    (h : Framed ks s₀ s) : Framed ks s₀ (s.set f v b) := by
  refine h.trans ⟨rfl, fun k hk hn => State.tfind_set_ne _ _ _ _ fun e => ?_⟩
  subst e
  rcases hf with hf | hf
  · exact hk hf
  · rw [noteKey_loc, hf] at hn
    cases hn

theorem note_framed {ks : List Nat} {s₀ : State} (s : State) (f : Fld) (v b : Nat) (hf : noteFld f = true)
    (h : Framed ks s₀ s) : Framed ks s₀ (s.set f v b) := set_framed s f v b (.inr hf) h

theorem inc_framed {ks : List Nat} {s₀ : State} (s : State) (f : Fld) (b n : Nat) (hf : noteFld f = true)
    (h : Framed ks s₀ s) : Framed ks s₀ (s.inc f b n) := note_framed _ _ _ _ hf h

theorem ite_framed {ks : List Nat} {s₀ a b : State} {c : Prop} [Decidable c] (ha : Framed ks s₀ a) (hb : Framed ks s₀ b) :
    Framed ks s₀ (if c then a else b) := by split <;> assumption

theorem mk_framed {ks : List Nat} {s₀ x : State} {pgn' : Tab Pgn} {alarms' : Tab AlarmEnt} {log' : RecSt} {msiSent' : Tab Nat}
    {irqPba' : Nat} (h : Framed ks s₀ x) :
    Framed ks s₀ (State.mk
      x.now x.regs x.pts x.inbox pgn' alarms' log' x.pcie x.spi x.msix msiSent' x.msixEnable x.man irqPba' x.outHeld
    x.mus x.mnf x.role x.tick x.time x.twin x.gnssRet x.engStopped x.eccFixed x.netAged x.commits x.gnss x.est x.helm
    x.alloc x.yuz x.loop x.adc x.clp x.step x.isl x.pwr x.thrm x.can x.eth x.work x.pcieAt x.ethSeq x.gpioEdge
    x.pending) :=
  h.trans ⟨rfl, fun _ _ _ => rfl⟩

theorem written_framed {ks : List Nat} {s₀ t : State} (_ : t.written) (h : Framed ks s₀ t) : Framed ks s₀ t := h

theorem State.vecSend_framed {ks : List Nat} {s₀ : State} (s : State) (v : Nat) (hS : Framed ks s₀ s) :
    Framed ks s₀ (State.vecSend s v) := by
  unfold State.vecSend
  try dsimp only
  repeat' first
    | with_reducible assumption
    | with_reducible apply ite_framed
    | (with_reducible apply note_framed; decide)
    | (with_reducible apply inc_framed; decide)
    | (refine written_framed (by simp only [↓State.written_mk]) ?_; with_reducible apply mk_framed)
    | split

theorem State.vecFire_framed {ks : List Nat} {s₀ : State} (s : State) (v : Nat) (hS : Framed ks s₀ s) :
    Framed ks s₀ (State.vecFire s v) := by
  unfold State.vecFire
  try dsimp only
  repeat' first
    | with_reducible assumption
    | with_reducible apply ite_framed
    | with_reducible apply State.vecSend_framed
    | (with_reducible apply note_framed; decide)
    | (with_reducible apply inc_framed; decide)
    | (refine written_framed (by simp only [↓State.written_mk]) ?_; with_reducible apply mk_framed)
    | split

theorem State.raise_framed {ks : List Nat} {s₀ : State} (s : State) (src : Nat) (hS : Framed ks s₀ s) :
    Framed ks s₀ (State.raise s src) := by
  unfold State.raise
  try dsimp only
  repeat' first
    | with_reducible assumption
    | with_reducible apply ite_framed
    | with_reducible apply State.vecFire_framed
    | (with_reducible apply note_framed; decide)
    | (with_reducible apply inc_framed; decide)
    | (refine written_framed (by simp only [↓State.written_mk]) ?_; with_reducible apply mk_framed)
    | split

theorem State.evt_framed {ks : List Nat} {s₀ : State} (s : State) (f : Fld) (b : Nat)
    (hf : loc f b ∈ ks ∨ noteFld f = true) (hS : Framed ks s₀ s) : Framed ks s₀ (s.evt f b) :=
  raise_framed _ _ (set_framed _ _ _ _ hf hS)

theorem State.ramPush_framed {ks : List Nat} {s₀ : State} (s : State) (r : Rec) (hS : Framed ks s₀ s) :
    Framed ks s₀ (State.ramPush s r) := by
  unfold State.ramPush
  try dsimp only
  repeat' first
    | with_reducible assumption
    | with_reducible apply ite_framed
    | (with_reducible apply State.evt_framed; first | (left; assumption) | (right; decide))
    | (with_reducible apply note_framed; decide)
    | (with_reducible apply inc_framed; decide)
    | (refine written_framed (by simp only [↓State.written_mk]) ?_; with_reducible apply mk_framed)
    | split

theorem State.holdPush_framed {ks : List Nat} {s₀ : State} (s : State) (r : Rec) (hS : Framed ks s₀ s) :
    Framed ks s₀ (State.holdPush s r) := by
  unfold State.holdPush
  try dsimp only
  repeat' first
    | with_reducible assumption
    | with_reducible apply ite_framed
    | (with_reducible apply State.evt_framed; first | (left; assumption) | (right; decide))
    | (with_reducible apply note_framed; decide)
    | (with_reducible apply inc_framed; decide)
    | (refine written_framed (by simp only [↓State.written_mk]) ?_; with_reducible apply mk_framed)
    | split

theorem State.logEvent_framed {ks : List Nat} {s₀ : State} (s : State) (e : Ev) (hS : Framed ks s₀ s) :
    Framed ks s₀ (State.logEvent s e) := by
  unfold State.logEvent
  try dsimp only
  repeat' first
    | with_reducible assumption
    | with_reducible apply ite_framed
    | with_reducible apply State.alarm_framed
    | with_reducible apply State.ramPush_framed
    | with_reducible apply State.holdPush_framed
    | (with_reducible apply note_framed; decide)
    | (with_reducible apply inc_framed; decide)
    | split
    | (refine written_framed (by simp only [↓State.written_mk]) ?_; with_reducible apply mk_framed)

theorem State.ringAdd_framed {ks : List Nat} {s₀ : State} (s : State) (n : Nat) (msg : List Env) (hS : Framed ks s₀ s) :
    Framed ks s₀ (State.ringAdd s n msg) := by
  unfold State.ringAdd
  try dsimp only
  repeat' first
    | with_reducible assumption
    | with_reducible apply ite_framed
    | with_reducible apply State.raise_framed
    | (with_reducible apply note_framed; decide)
    | (with_reducible apply inc_framed; decide)
    | (refine written_framed (by simp only [↓State.written_mk]) ?_; with_reducible apply mk_framed)
    | split

theorem State.dropped_framed {ks : List Nat} {s₀ : State} (s : State) (n : Nat) (hS : Framed ks s₀ s) :
    Framed ks s₀ (State.dropped s n) := by
  unfold State.dropped
  try dsimp only
  repeat' first
    | with_reducible assumption
    | with_reducible apply ite_framed
    | (with_reducible apply State.evt_framed; first | (left; assumption) | (right; decide))
    | (with_reducible apply note_framed; decide)
    | (with_reducible apply inc_framed; decide)
    | (refine written_framed (by simp only [↓State.written_mk]) ?_; with_reducible apply mk_framed)
    | split

theorem State.makeRoom_framed {ks : List Nat} {s₀ : State} (s : State) (n need : Nat) (hS : Framed ks s₀ s) :
    Framed ks s₀ (State.makeRoom s n need).2 := by
  unfold State.makeRoom
  try dsimp only
  repeat' first
    | with_reducible assumption
    | with_reducible apply ite_framed
    | (with_reducible apply note_framed; decide)
    | (with_reducible apply inc_framed; decide)
    | split
    | (refine written_framed (by simp only [↓State.written_mk]) ?_; with_reducible apply mk_framed)

theorem State.discardAll_framed {ks : List Nat} {s₀ : State} (s : State) (n : Nat) (l : List (List Env)) (h : Framed ks s₀ s) :
    Framed ks s₀ (s.discardAll n l) := by
  induction l generalizing s with
  | nil => exact h
  | cons m ms ih =>
    unfold State.discardAll
    exact ih _ (logEvent_framed _ _ (dropped_framed _ _ h))

theorem State.deadLetter_framed {ks : List Nat} {s₀ : State} (s : State) (n : Nat) (msg : List Env) (reason : Nat) (hS : Framed ks s₀ s) :
    Framed ks s₀ (State.deadLetter s n msg reason) := by
  unfold State.deadLetter
  try dsimp only
  repeat' first
    | with_reducible assumption
    | with_reducible apply ite_framed
    | with_reducible apply State.makeRoom_framed
    | with_reducible apply State.ringAdd_framed
    | (with_reducible apply State.evt_framed; first | (left; assumption) | (right; decide))
    | with_reducible apply State.discardAll_framed
    | with_reducible apply State.logEvent_framed
    | (with_reducible apply note_framed; decide)
    | (with_reducible apply inc_framed; decide)
    | (refine written_framed (by simp only [↓State.written_mk]) ?_; with_reducible apply mk_framed)
    | split

theorem State.evictAll_framed {ks : List Nat} {s₀ : State} (s : State) (n : Nat) (l : List (List Env)) (h : Framed ks s₀ s) :
    Framed ks s₀ (s.evictAll n l) := by
  induction l generalizing s with
  | nil => exact h
  | cons m ms ih =>
    unfold State.evictAll
    exact ih _ (deadLetter_framed _ _ _ _ (dropped_framed _ _ h))

theorem State.deliver_framed {ks : List Nat} {s₀ : State} (s : State) (n : Nat) (msg : List Env) (hS : Framed ks s₀ s) :
    Framed ks s₀ (State.deliver s n msg) := by
  unfold State.deliver
  try dsimp only
  repeat' first
    | with_reducible assumption
    | with_reducible apply ite_framed
    | with_reducible apply State.dropped_framed
    | with_reducible apply State.discardAll_framed
    | with_reducible apply State.ringAdd_framed
    | with_reducible apply State.makeRoom_framed
    | with_reducible apply State.deadLetter_framed
    | with_reducible apply State.evictAll_framed
    | (with_reducible apply note_framed; decide)
    | (with_reducible apply inc_framed; decide)
    | (refine written_framed (by simp only [↓State.written_mk]) ?_; with_reducible apply mk_framed)
    | split

theorem State.send_framed {ks : List Nat} {s₀ : State} (s : State) (n kind origin : Nat) (payload : List Nat) (pm : Pm) (hS : Framed ks s₀ s) :
    Framed ks s₀ (State.send s n kind origin payload pm) := by
  unfold State.send
  try dsimp only
  repeat' first
    | with_reducible assumption
    | with_reducible apply ite_framed
    | with_reducible apply State.deliver_framed
    | (with_reducible apply note_framed; decide)
    | (with_reducible apply inc_framed; decide)
    | (refine written_framed (by simp only [↓State.written_mk]) ?_; with_reducible apply mk_framed)
    | split

theorem State.sendDead_framed {ks : List Nat} {s₀ : State} (s : State) (addr value type reason : Nat) (pm : Pm) (hS : Framed ks s₀ s) :
    Framed ks s₀ (State.sendDead s addr value type reason pm) := by
  unfold State.sendDead
  try dsimp only
  repeat' first
    | with_reducible assumption
    | with_reducible apply ite_framed
    | with_reducible apply State.deadLetter_framed
    | (with_reducible apply note_framed; decide)
    | (with_reducible apply inc_framed; decide)
    | (refine written_framed (by simp only [↓State.written_mk]) ?_; with_reducible apply mk_framed)
    | split

theorem State.hostEnv_framed {ks : List Nat} {s₀ : State} (s : State) (n : Nat) (words : List Nat) (pm : Pm) (hS : Framed ks s₀ s) :
    Framed ks s₀ (State.hostEnv s n words pm) := by
  unfold State.hostEnv
  try dsimp only
  repeat' first
    | with_reducible assumption
    | with_reducible apply ite_framed
    | with_reducible apply State.deliver_framed
    | (with_reducible apply note_framed; decide)
    | (with_reducible apply inc_framed; decide)
    | (refine written_framed (by simp only [↓State.written_mk]) ?_; with_reducible apply mk_framed)
    | split

theorem State.alarmEnv_framed {ks : List Nat} {s₀ : State} (s : State) (entry st change : Nat) (a : AlarmEnt) (role : Role) (keyId : Nat) (hS : Framed ks s₀ s) :
    Framed ks s₀ (State.alarmEnv s entry st change a role keyId) := by
  unfold State.alarmEnv
  try dsimp only
  repeat' first
    | with_reducible assumption
    | with_reducible apply ite_framed
    | with_reducible apply State.send_framed
    | (with_reducible apply note_framed; decide)
    | (with_reducible apply inc_framed; decide)
    | (refine written_framed (by simp only [↓State.written_mk]) ?_; with_reducible apply mk_framed)
    | split

theorem State.alarmRaise_framed {ks : List Nat} {s₀ : State} (s : State) (code source : Nat) (hS : Framed ks s₀ s) :
    Framed ks s₀ (State.alarmRaise s code source) := by
  unfold State.alarmRaise
  try dsimp only
  repeat' first
    | with_reducible assumption
    | with_reducible apply ite_framed
    | (with_reducible apply State.evt_framed; first | (left; assumption) | (right; decide))
    | with_reducible apply State.alarmEnv_framed
    | with_reducible apply State.logEvent_framed
    | (with_reducible apply note_framed; decide)
    | (with_reducible apply inc_framed; decide)
    | split
    | (refine written_framed (by simp only [↓State.written_mk]) ?_; with_reducible apply mk_framed)

theorem State.alarmClear_framed {ks : List Nat} {s₀ : State} (s : State) (code source : Nat) (hS : Framed ks s₀ s) :
    Framed ks s₀ (State.alarmClear s code source) := by
  unfold State.alarmClear
  try dsimp only
  repeat' first
    | with_reducible assumption
    | with_reducible apply ite_framed
    | (with_reducible apply State.evt_framed; first | (left; assumption) | (right; decide))
    | with_reducible apply State.alarmEnv_framed
    | (with_reducible apply note_framed; decide)
    | (with_reducible apply inc_framed; decide)
    | split
    | (refine written_framed (by simp only [↓State.written_mk]) ?_; with_reducible apply mk_framed)

theorem State.record_framed {ks : List Nat} {s₀ : State} (s : State) (e : Ev) (hS : Framed ks s₀ s) :
    Framed ks s₀ (State.record s e) := by
  unfold State.record
  try dsimp only
  repeat' first
    | with_reducible assumption
    | with_reducible apply ite_framed
    | with_reducible apply State.logEvent_framed
    | with_reducible apply State.alarm_framed
    | with_reducible apply State.alarmClear_framed
    | with_reducible apply State.alarmRaise_framed
    | (with_reducible apply note_framed; decide)
    | (with_reducible apply inc_framed; decide)
    | (refine written_framed (by simp only [↓State.written_mk]) ?_; with_reducible apply mk_framed)
    | split

theorem State.alarm_framed {ks : List Nat} {s₀ : State} (s : State) (code : Nat) (source : Nat) (items : List (Nat × Nat)) (key : Nat) (hS : Framed ks s₀ s) :
    Framed ks s₀ (State.alarm s code source items key) := by
  unfold State.alarm
  try dsimp only
  repeat' first
    | with_reducible assumption
    | with_reducible apply ite_framed
    | with_reducible apply State.record_framed
    | (with_reducible apply note_framed; decide)
    | (with_reducible apply inc_framed; decide)
    | (refine written_framed (by simp only [↓State.written_mk]) ?_; with_reducible apply mk_framed)
    | split

theorem State.clearAlarm_framed {ks : List Nat} {s₀ : State} (s : State) (code : Nat) (source : Nat) (items : List (Nat × Nat)) (key : Nat) (hS : Framed ks s₀ s) :
    Framed ks s₀ (State.clearAlarm s code source items key) := by
  unfold State.clearAlarm
  try dsimp only
  repeat' first
    | with_reducible assumption
    | with_reducible apply ite_framed
    | with_reducible apply State.record_framed
    | (with_reducible apply note_framed; decide)
    | (with_reducible apply inc_framed; decide)
    | (refine written_framed (by simp only [↓State.written_mk]) ?_; with_reducible apply mk_framed)
    | split

theorem State.result_framed {ks : List Nat} {s₀ : State} (s : State) (block kind target result tag : Nat) (role : Role) (keyId recSeq : Nat) (hS : Framed ks s₀ s) :
    Framed ks s₀ (State.result s block kind target result tag role keyId recSeq) := by
  unfold State.result
  try dsimp only
  repeat' first
    | with_reducible assumption
    | with_reducible apply ite_framed
    | with_reducible apply State.send_framed
    | (with_reducible apply note_framed; decide)
    | (with_reducible apply inc_framed; decide)
    | (refine written_framed (by simp only [↓State.written_mk]) ?_; with_reducible apply mk_framed)
    | split

theorem State.timeEvent_framed {ks : List Nat} {s₀ : State} (s : State) (e : Ev) (hS : Framed ks s₀ s) :
    Framed ks s₀ (State.timeEvent s e) := by
  unfold State.timeEvent
  try dsimp only
  repeat' first
    | with_reducible assumption
    | with_reducible apply ite_framed
    | with_reducible apply State.record_framed
    | with_reducible apply State.send_framed
    | (with_reducible apply note_framed; decide)
    | (with_reducible apply inc_framed; decide)
    | (refine written_framed (by simp only [↓State.written_mk]) ?_; with_reducible apply mk_framed)
    | split

theorem State.rwlIgnored_framed {ks : List Nat} {s₀ : State} (s : State) (p : Port) (off : Nat) (hS : Framed ks s₀ s) :
    Framed ks s₀ (State.rwlIgnored s p off) := by
  unfold State.rwlIgnored
  try dsimp only
  repeat' first
    | with_reducible assumption
    | with_reducible apply ite_framed
    | with_reducible apply State.record_framed
    | (with_reducible apply note_framed; decide)
    | (with_reducible apply inc_framed; decide)
    | (refine written_framed (by simp only [↓State.written_mk]) ?_; with_reducible apply mk_framed)
    | split

end Sys2Proof.Machine
end

