-- ==== Sys2Proof/Laws/ModeKept.lean ====
section
/-!
SUPPORT. What the work of a helm-cycle boundary after the mode command leaves alone: the mode, the results of mode commands, the tick
number and the number of the helm cycle.
-/

set_option Elab.async false

namespace Sys2Proof.Machine

open Sys2Proof

/-- The registers that a helm cycle's work leaves alone. -/
def modeKeys : List Nat :=
  regKeys 0 [R.MODE_STAT_MODE, R.MODE_STAT_PENDING, R.MODE_CMD_STAT_RESULT, R.MODE_CMD_STAT_TAG, R.MODE_CMD_STAT_GUARDS]

/-- A field is none of them, in any bank. -/
def offMode (f : Fld) : Bool := !(modeKeys.map (· % 8388608)).contains (fkey f)

structure ModeKept (s t : State) : Prop where
  regs : ∀ k ∈ modeKeys, tfind t.regs k = tfind s.regs k
  tick : t.tick = s.tick
  cycle : t.helm.cycle = s.helm.cycle

theorem ModeKept.refl (s : State) : ModeKept s s := ⟨fun _ _ => rfl, rfl, rfl⟩

theorem ModeKept.of_framed {a b c : State} (h : ModeKept a b) (g : Framed [] b c) : ModeKept a c := by
  have hn : ∀ k ∈ modeKeys, noteKey k = false := by decide
  have e := g.plain
  exact ⟨fun k hk => (g.regs k (List.not_mem_nil) (hn k hk)).trans (h.regs k hk), (congrArg State.tick e).trans h.tick,
    (congrArg (fun x => x.helm.cycle) e).trans h.cycle⟩

theorem ite_modeKept {s₀ a b : State} {c : Prop} [Decidable c] (ha : ModeKept s₀ a) (hb : ModeKept s₀ b) :
    ModeKept s₀ (if c then a else b) := by split <;> assumption

theorem foldl_modeKept {α : Type} {s₀ s : State} {f : State → α → State} (l : List α)
    (hf : ∀ t x, ModeKept s₀ t → ModeKept s₀ (f t x)) (h : ModeKept s₀ s) : ModeKept s₀ (l.foldl f s) := by
  induction l generalizing s with
  | nil => exact h
  | cons x l ih => exact ih (hf s x h)

theorem written_modeKept {s₀ t : State} (_ : t.written) (h : ModeKept s₀ t) : ModeKept s₀ t := h

/-- An update of any fields but these. -/
theorem mk_modeKept {s₀ x : State}
    {regs' msix' msiSent' eccFixed' netAged' ethSeq' gpioEdge' : Tab Nat} {pts' : Tab Pt} {inbox' commits' : List
    Input} {pgn' : Tab Pgn} {alarms' : Tab AlarmEnt} {log' : RecSt} {pcie' spi' : HostPort} {msixEnable' outHeld' :
    Bool} {man' : Manifest} {irqPba' tick' : Nat} {mus' : MusterSt} {mnf' : MnfSt} {role' : RoleSt} {time' : TimeSt}
    {twin' : TwinSt} {gnssRet' : Option GnssRet} {engStopped' : List Nat} {gnss' : GnssSt} {est' : EstSt} {helm' :
    HelmSt} {alloc' : AllocSt} {yuz' : YuzSt} {loop' : LoopSt} {adc' : AdcSt} {clp' : ClpAll} {step' : StepAll} {isl'
    : IslSt} {pwr' : PwrSt} {thrm' : ThrmSt} {can' : Tab CanSt} {eth' : Tab EthSt} {work' : WorkSt} {pcieAt' : Option
    Nat}
    (h : ModeKept s₀ x) (h1 : regs' = x.regs) (h2 : tick' = x.tick) (h3 : helm'.cycle = x.helm.cycle) :
    ModeKept s₀ (State.mk
      x.now regs' pts' inbox' pgn' alarms' log' pcie' spi' msix' msiSent' msixEnable' man' irqPba' outHeld' mus' mnf'
    role' tick' time' twin' gnssRet' engStopped' eccFixed' netAged' commits' gnss' est' helm' alloc' yuz' loop' adc'
    clp' step' isl' pwr' thrm' can' eth' work' pcieAt' ethSeq' gpioEdge' x.pending) :=
  ⟨fun k hk => (congrArg (tfind · k) h1).trans (h.regs k hk), h2.trans h.tick, h3.trans h.cycle⟩

theorem State.record_modeKept {s₀ : State} (s : State) (e : Ev) (hS : ModeKept s₀ s) : ModeKept s₀ (State.record s e) :=
  hS.of_framed (State.record_framed s e (Framed.refl [] s))

theorem State.alarm_modeKept {s₀ : State} (s : State) (code : Nat) (source : Nat) (items : List (Nat × Nat)) (key : Nat) (hS : ModeKept s₀ s) : ModeKept s₀ (State.alarm s code source items key) :=
  hS.of_framed (State.alarm_framed s code source items key (Framed.refl [] s))

theorem State.clearAlarm_modeKept {s₀ : State} (s : State) (code : Nat) (source : Nat) (items : List (Nat × Nat)) (key : Nat) (hS : ModeKept s₀ s) : ModeKept s₀ (State.clearAlarm s code source items key) :=
  hS.of_framed (State.clearAlarm_framed s code source items key (Framed.refl [] s))

theorem State.send_modeKept {s₀ : State} (s : State) (n kind origin : Nat) (payload : List Nat) (pm : Pm) (hS : ModeKept s₀ s) : ModeKept s₀ (State.send s n kind origin payload pm) :=
  hS.of_framed (State.send_framed s n kind origin payload pm (Framed.refl [] s))

theorem State.result_modeKept {s₀ : State} (s : State) (block kind target result tag : Nat) (role : Role) (keyId recSeq : Nat) (hS : ModeKept s₀ s) : ModeKept s₀ (State.result s block kind target result tag role keyId recSeq) :=
  hS.of_framed (State.result_framed s block kind target result tag role keyId recSeq (Framed.refl [] s))

theorem State.raise_modeKept {s₀ : State} (s : State) (src : Nat) (hS : ModeKept s₀ s) : ModeKept s₀ (State.raise s src) :=
  hS.of_framed (State.raise_framed s src (Framed.refl [] s))

theorem State.set_modeKept {s₀ : State} (s : State) (f : Fld) (v b : Nat) (hf : offMode f = true) (hS : ModeKept s₀ s) :
    ModeKept s₀ (State.set s f v b) := by
  refine ⟨fun k hk => ?_, hS.tick, hS.cycle⟩
  refine (State.tfind_set_ne _ _ _ _ fun e => ?_).trans (hS.regs k hk)
  subst e
  have hm : loc f b % 8388608 ∈ modeKeys.map (· % 8388608) := List.mem_map_of_mem hk
  rw [loc_mod] at hm
  have : (modeKeys.map (· % 8388608)).contains (fkey f) = true := by
    rw [List.contains_iff_mem]
    exact hm
  unfold offMode at hf
  rw [this] at hf
  cases hf

theorem State.setI_modeKept {s₀ : State} (s : State) (f : Fld) (v : Int) (bank : Nat) (hf : offMode f = true) (hS : ModeKept s₀ s) :
    ModeKept s₀ (State.setI s f v bank) := by
  unfold State.setI
  try dsimp only
  repeat' first
    | with_reducible assumption
    | with_reducible apply ite_modeKept
    | (with_reducible refine State.set_modeKept _ _ _ _ ?_ ?_; first | assumption | decide | (split <;> decide))
    | with_reducible rfl
    | split
    | (refine written_modeKept (by simp only [↓State.written_mk]) ?_; with_reducible apply mk_modeKept)
    | rfl

theorem State.setQ_modeKept {s₀ : State} (s : State) (f : Fld) (x : Rat) (bank : Nat) (hf : offMode f = true) (hS : ModeKept s₀ s) :
    ModeKept s₀ (State.setQ s f x bank) := by
  unfold State.setQ
  try dsimp only
  repeat' first
    | with_reducible assumption
    | with_reducible apply ite_modeKept
    | (with_reducible refine State.setI_modeKept _ _ _ _ ?_ ?_; first | assumption | decide | (split <;> decide))
    | with_reducible rfl
    | split
    | (refine written_modeKept (by simp only [↓State.written_mk]) ?_; with_reducible apply mk_modeKept)
    | rfl

theorem State.setU_modeKept {s₀ : State} (s : State) (f : Fld) (x : Rat) (bank : Nat) (hf : offMode f = true) (hS : ModeKept s₀ s) :
    ModeKept s₀ (State.setU s f x bank) := by
  unfold State.setU
  try dsimp only
  repeat' first
    | with_reducible assumption
    | with_reducible apply ite_modeKept
    | (with_reducible refine State.set_modeKept _ _ _ _ ?_ ?_; first | assumption | decide | (split <;> decide))
    | with_reducible rfl
    | split
    | (refine written_modeKept (by simp only [↓State.written_mk]) ?_; with_reducible apply mk_modeKept)
    | rfl

theorem State.setB_modeKept {s₀ : State} (s : State) (f : Fld) (b : Bool) (bank : Nat) (hf : offMode f = true) (hS : ModeKept s₀ s) :
    ModeKept s₀ (State.setB s f b bank) := by
  unfold State.setB
  try dsimp only
  repeat' first
    | with_reducible assumption
    | with_reducible apply ite_modeKept
    | (with_reducible refine State.set_modeKept _ _ _ _ ?_ ?_; first | assumption | decide | (split <;> decide))
    | with_reducible rfl
    | split
    | (refine written_modeKept (by simp only [↓State.written_mk]) ?_; with_reducible apply mk_modeKept)
    | rfl

theorem State.inc_modeKept {s₀ : State} (s : State) (f : Fld) (bank : Nat) (n : Nat) (hf : offMode f = true) (hS : ModeKept s₀ s) :
    ModeKept s₀ (State.inc s f bank n) := by
  unfold State.inc
  try dsimp only
  repeat' first
    | with_reducible assumption
    | with_reducible apply ite_modeKept
    | (with_reducible refine State.set_modeKept _ _ _ _ ?_ ?_; first | assumption | decide | (split <;> decide))
    | with_reducible rfl
    | split
    | (refine written_modeKept (by simp only [↓State.written_mk]) ?_; with_reducible apply mk_modeKept)
    | rfl

theorem State.incSat_modeKept {s₀ : State} (s : State) (f : Fld) (bank : Nat) (n : Nat) (hf : offMode f = true) (hS : ModeKept s₀ s) :
    ModeKept s₀ (State.incSat s f bank n) := by
  unfold State.incSat
  try dsimp only
  repeat' first
    | with_reducible assumption
    | with_reducible apply ite_modeKept
    | (with_reducible refine State.set_modeKept _ _ _ _ ?_ ?_; first | assumption | decide | (split <;> decide))
    | with_reducible rfl
    | split
    | (refine written_modeKept (by simp only [↓State.written_mk]) ?_; with_reducible apply mk_modeKept)
    | rfl

theorem State.setSat_modeKept {s₀ : State} (s : State) (f : Fld) (v : Nat) (bank : Nat) (hf : offMode f = true) (hS : ModeKept s₀ s) :
    ModeKept s₀ (State.setSat s f v bank) := by
  unfold State.setSat
  try dsimp only
  repeat' first
    | with_reducible assumption
    | with_reducible apply ite_modeKept
    | (with_reducible refine State.set_modeKept _ _ _ _ ?_ ?_; first | assumption | decide | (split <;> decide))
    | with_reducible rfl
    | split
    | (refine written_modeKept (by simp only [↓State.written_mk]) ?_; with_reducible apply mk_modeKept)
    | rfl

theorem State.evt_modeKept {s₀ : State} (s : State) (f : Fld) (bank : Nat) (hf : offMode f = true) (hS : ModeKept s₀ s) :
    ModeKept s₀ (State.evt s f bank) := by
  unfold State.evt
  try dsimp only
  repeat' first
    | with_reducible assumption
    | with_reducible apply ite_modeKept
    | (with_reducible refine State.set_modeKept _ _ _ _ ?_ ?_; first | assumption | decide | (split <;> decide))
    | with_reducible apply State.raise_modeKept
    | with_reducible rfl
    | split
    | (refine written_modeKept (by simp only [↓State.written_mk]) ?_; with_reducible apply mk_modeKept)
    | rfl

theorem State.putPoint_modeKept {s₀ : State} (s : State) (i value : Nat) (pm : Pm) (q : Quality) (hS : ModeKept s₀ s) :
    ModeKept s₀ (State.putPoint s i value pm q) := by
  unfold State.putPoint
  try dsimp only
  repeat' first
    | with_reducible assumption
    | with_reducible apply ite_modeKept
    | with_reducible apply State.send_modeKept
    | with_reducible rfl
    | split
    | (refine written_modeKept (by simp only [↓State.written_mk]) ?_; with_reducible apply mk_modeKept)
    | rfl

theorem State.commitAddr_modeKept {s₀ : State} (s : State) (addr value : Nat) (pm : Pm) (q : Quality) (hS : ModeKept s₀ s) :
    ModeKept s₀ (State.commitAddr s addr value pm q) := by
  unfold State.commitAddr
  try dsimp only
  repeat' first
    | with_reducible assumption
    | with_reducible apply ite_modeKept
    | with_reducible rfl
    | split
    | (refine written_modeKept (by simp only [↓State.written_mk]) ?_; with_reducible apply mk_modeKept)
    | rfl

theorem State.commitAll_modeKept {s₀ : State} (s : State) (base : Nat) (vals : List Nat) (pm : Pm) (q : Quality) (hS : ModeKept s₀ s) :
    ModeKept s₀ (State.commitAll s base vals pm q) := by
  unfold State.commitAll
  try dsimp only
  repeat' first
    | with_reducible assumption
    | with_reducible apply ite_modeKept
    | with_reducible apply State.commitAddr_modeKept
    | (with_reducible apply foldl_modeKept; intro t x ht)
    | with_reducible rfl
    | split
    | (refine written_modeKept (by simp only [↓State.written_mk]) ?_; with_reducible apply mk_modeKept)
    | rfl

theorem State.putNum_modeKept {s₀ : State} (s : State) (i : Nat) (x : Rat) (q : Quality) (hS : ModeKept s₀ s) :
    ModeKept s₀ (State.putNum s i x q) := by
  unfold State.putNum
  try dsimp only
  repeat' first
    | with_reducible assumption
    | with_reducible apply ite_modeKept
    | with_reducible apply State.putPoint_modeKept
    | with_reducible rfl
    | split
    | (refine written_modeKept (by simp only [↓State.written_mk]) ?_; with_reducible apply mk_modeKept)
    | rfl

theorem State.helmResult_modeKept {s₀ : State} (s : State) (res : Nat) (c : HelmCmd) (hS : ModeKept s₀ s) :
    ModeKept s₀ (State.helmResult s res c) := by
  unfold State.helmResult
  try dsimp only
  repeat' first
    | with_reducible assumption
    | with_reducible apply ite_modeKept
    | (with_reducible refine State.set_modeKept _ _ _ _ ?_ ?_; first | assumption | decide | (split <;> decide))
    | with_reducible apply State.record_modeKept
    | with_reducible apply State.result_modeKept
    | (with_reducible refine State.evt_modeKept _ _ _ ?_ ?_; first | assumption | decide | (split <;> decide))
    | with_reducible rfl
    | split
    | (refine written_modeKept (by simp only [↓State.written_mk]) ?_; with_reducible apply mk_modeKept)
    | rfl

theorem State.putThr_modeKept {s₀ : State} (s : State) (i : Nat) (x : ThrSt) (hS : ModeKept s₀ s) :
    ModeKept s₀ (State.putThr s i x) := by
  unfold State.putThr
  try dsimp only
  repeat' first
    | with_reducible assumption
    | with_reducible apply ite_modeKept
    | with_reducible rfl
    | split
    | (refine written_modeKept (by simp only [↓State.written_mk]) ?_; with_reducible apply mk_modeKept)
    | rfl

theorem State.putBus_modeKept {s₀ : State} (s : State) (b : Nat) (x : BusSt) (hS : ModeKept s₀ s) :
    ModeKept s₀ (State.putBus s b x) := by
  unfold State.putBus
  try dsimp only
  repeat' first
    | with_reducible assumption
    | with_reducible apply ite_modeKept
    | with_reducible rfl
    | split
    | (refine written_modeKept (by simp only [↓State.written_mk]) ?_; with_reducible apply mk_modeKept)
    | rfl

theorem State.setThr_modeKept {s₀ : State} (s : State) (i : Nat) (hS : ModeKept s₀ s) :
    ModeKept s₀ (State.setThr s i) := by
  unfold State.setThr
  try dsimp only
  repeat' first
    | with_reducible assumption
    | with_reducible apply ite_modeKept
    | (with_reducible refine State.set_modeKept _ _ _ _ ?_ ?_; first | assumption | decide | (split <;> decide))
    | (with_reducible refine State.evt_modeKept _ _ _ ?_ ?_; first | assumption | decide | (split <;> decide))
    | with_reducible apply State.record_modeKept
    | with_reducible rfl
    | split
    | (refine written_modeKept (by simp only [↓State.written_mk]) ?_; with_reducible apply mk_modeKept)
    | rfl

theorem State.readBus_modeKept {s₀ : State} (s : State) (b : Nat) (c : BusCfg) (hS : ModeKept s₀ s) :
    ModeKept s₀ (State.readBus s b c) := by
  unfold State.readBus
  try dsimp only
  repeat' first
    | with_reducible assumption
    | with_reducible apply ite_modeKept
    | with_reducible apply State.putBus_modeKept
    | with_reducible apply State.clearAlarm_modeKept
    | (with_reducible refine State.setB_modeKept _ _ _ _ ?_ ?_; first | assumption | decide | (split <;> decide))
    | with_reducible rfl
    | split
    | (refine written_modeKept (by simp only [↓State.written_mk]) ?_; with_reducible apply mk_modeKept)
    | rfl

theorem State.setCap_modeKept {s₀ : State} (s : State) (hS : ModeKept s₀ s) :
    ModeKept s₀ (State.setCap s) := by
  unfold State.setCap
  try dsimp only
  repeat' first
    | with_reducible assumption
    | with_reducible apply ite_modeKept
    | (with_reducible refine State.setQ_modeKept _ _ _ _ ?_ ?_; first | assumption | decide | (split <;> decide))
    | with_reducible rfl
    | split
    | (refine written_modeKept (by simp only [↓State.written_mk]) ?_; with_reducible apply mk_modeKept)
    | rfl

theorem State.thrOut_modeKept {s₀ : State} (s : State) (q : Quality) (i : Nat) (hS : ModeKept s₀ s) :
    ModeKept s₀ (State.thrOut s q i) := by
  unfold State.thrOut
  try dsimp only
  repeat' first
    | with_reducible assumption
    | with_reducible apply ite_modeKept
    | with_reducible apply State.commitAll_modeKept
    | (with_reducible refine State.set_modeKept _ _ _ _ ?_ ?_; first | assumption | decide | (split <;> decide))
    | (with_reducible refine State.setB_modeKept _ _ _ _ ?_ ?_; first | assumption | decide | (split <;> decide))
    | (with_reducible refine State.setQ_modeKept _ _ _ _ ?_ ?_; first | assumption | decide | (split <;> decide))
    | (with_reducible refine State.setU_modeKept _ _ _ _ ?_ ?_; first | assumption | decide | (split <;> decide))
    | with_reducible rfl
    | split
    | (refine written_modeKept (by simp only [↓State.written_mk]) ?_; with_reducible apply mk_modeKept)
    | rfl

theorem State.busOut_modeKept {s₀ : State} (s : State) (b : Nat) (hS : ModeKept s₀ s) :
    ModeKept s₀ (State.busOut s b) := by
  unfold State.busOut
  try dsimp only
  repeat' first
    | with_reducible assumption
    | with_reducible apply ite_modeKept
    | with_reducible apply State.commitAll_modeKept
    | (with_reducible refine State.setU_modeKept _ _ _ _ ?_ ?_; first | assumption | decide | (split <;> decide))
    | with_reducible rfl
    | split
    | (refine written_modeKept (by simp only [↓State.written_mk]) ?_; with_reducible apply mk_modeKept)
    | rfl

theorem State.allocOut_modeKept {s₀ : State} (s : State) (q : Quality) (hS : ModeKept s₀ s) :
    ModeKept s₀ (State.allocOut s q) := by
  unfold State.allocOut
  try dsimp only
  repeat' first
    | with_reducible assumption
    | with_reducible apply ite_modeKept
    | with_reducible apply State.thrOut_modeKept
    | with_reducible apply State.busOut_modeKept
    | with_reducible apply State.commitAll_modeKept
    | (with_reducible apply foldl_modeKept; intro t x ht)
    | with_reducible rfl
    | split
    | (refine written_modeKept (by simp only [↓State.written_mk]) ?_; with_reducible apply mk_modeKept)
    | rfl

theorem State.thrApply_modeKept {s₀ : State} (s : State) (c : ThrCmd) (hS : ModeKept s₀ s) :
    ModeKept s₀ (State.thrApply s c) := by
  unfold State.thrApply
  try dsimp only
  repeat' first
    | with_reducible assumption
    | with_reducible apply ite_modeKept
    | with_reducible apply State.putThr_modeKept
    | with_reducible apply State.clearAlarm_modeKept
    | with_reducible rfl
    | split
    | (refine written_modeKept (by simp only [↓State.written_mk]) ?_; with_reducible apply mk_modeKept)
    | rfl

theorem State.releaseThr_modeKept {s₀ : State} (s : State) (i : Nat) (c : ThrCfg) (t az : Rat) (hS : ModeKept s₀ s) :
    ModeKept s₀ (State.releaseThr s i c t az) := by
  unfold State.releaseThr
  try dsimp only
  repeat' first
    | with_reducible assumption
    | with_reducible apply ite_modeKept
    | with_reducible apply State.putThr_modeKept
    | with_reducible apply State.putNum_modeKept
    | with_reducible rfl
    | split
    | (refine written_modeKept (by simp only [↓State.written_mk]) ?_; with_reducible apply mk_modeKept)
    | rfl

theorem State.releaseOne_modeKept {s₀ : State} (s : State) (i : Nat) (hS : ModeKept s₀ s) :
    ModeKept s₀ (State.releaseOne s i) := by
  unfold State.releaseOne
  try dsimp only
  repeat' first
    | with_reducible assumption
    | with_reducible apply ite_modeKept
    | (with_reducible refine State.setB_modeKept _ _ _ _ ?_ ?_; first | assumption | decide | (split <;> decide))
    | with_reducible apply State.releaseThr_modeKept
    | with_reducible rfl
    | split
    | (refine written_modeKept (by simp only [↓State.written_mk]) ?_; with_reducible apply mk_modeKept)
    | rfl

theorem State.allocBoundary_modeKept {s₀ : State} (s : State) (hS : ModeKept s₀ s) :
    ModeKept s₀ (State.allocBoundary s) := by
  unfold State.allocBoundary
  try dsimp only
  repeat' first
    | with_reducible assumption
    | with_reducible apply ite_modeKept
    | with_reducible apply State.thrApply_modeKept
    | with_reducible apply State.readBus_modeKept
    | with_reducible apply State.setThr_modeKept
    | with_reducible apply State.releaseOne_modeKept
    | (with_reducible refine State.set_modeKept _ _ _ _ ?_ ?_; first | assumption | decide | (split <;> decide))
    | (with_reducible refine State.incSat_modeKept _ _ _ _ ?_ ?_; first | assumption | decide | (split <;> decide))
    | with_reducible apply State.setCap_modeKept
    | with_reducible apply State.allocOut_modeKept
    | (with_reducible apply foldl_modeKept; intro t x ht)
    | with_reducible rfl
    | split
    | (refine written_modeKept (by simp only [↓State.written_mk]) ?_; with_reducible apply mk_modeKept)
    | rfl

theorem State.paramRecord_modeKept {s₀ : State} (s : State) (role : Role) (keyId param result : Nat) (old new : Int) (hS : ModeKept s₀ s) :
    ModeKept s₀ (State.paramRecord s role keyId param result old new) := by
  unfold State.paramRecord
  try dsimp only
  repeat' first
    | with_reducible assumption
    | with_reducible apply ite_modeKept
    | with_reducible apply State.record_modeKept
    | with_reducible rfl
    | split
    | (refine written_modeKept (by simp only [↓State.written_mk]) ?_; with_reducible apply mk_modeKept)
    | rfl

theorem State.applyParams_modeKept {s₀ : State} (s : State) (hS : ModeKept s₀ s) :
    ModeKept s₀ (State.applyParams s) := by
  unfold State.applyParams
  try dsimp only
  repeat' first
    | with_reducible assumption
    | with_reducible apply ite_modeKept
    | with_reducible apply State.paramRecord_modeKept
    | (with_reducible refine State.set_modeKept _ _ _ _ ?_ ?_; first | assumption | decide | (split <;> decide))
    | (with_reducible apply foldl_modeKept; intro t x ht)
    | with_reducible rfl
    | split
    | (refine written_modeKept (by simp only [↓State.written_mk]) ?_; with_reducible apply mk_modeKept)
    | rfl

theorem State.aim_modeKept {s₀ : State} (s : State) (goal : Rat × Rat) (hS : ModeKept s₀ s) :
    ModeKept s₀ (State.aim s goal) := by
  unfold State.aim
  try dsimp only
  repeat' first
    | with_reducible assumption
    | with_reducible apply ite_modeKept
    | with_reducible rfl
    | split
    | (refine written_modeKept (by simp only [↓State.written_mk]) ?_; with_reducible apply mk_modeKept)
    | rfl

theorem State.refRestart_modeKept {s₀ : State} (s : State) (track : Option Nat) (hS : ModeKept s₀ s) :
    ModeKept s₀ (State.refRestart s track) := by
  unfold State.refRestart
  try dsimp only
  repeat' first
    | with_reducible assumption
    | with_reducible apply ite_modeKept
    | with_reducible rfl
    | split
    | (refine written_modeKept (by simp only [↓State.written_mk]) ?_; with_reducible apply mk_modeKept)
    | rfl

theorem State.onRoute_modeKept {s₀ : State} (s : State) (p : Rat × Rat) (v : SpVal) (hS : ModeKept s₀ s) :
    ModeKept s₀ (State.onRoute s p v) := by
  unfold State.onRoute
  try dsimp only
  repeat' first
    | with_reducible assumption
    | with_reducible apply ite_modeKept
    | with_reducible rfl
    | split
    | (refine written_modeKept (by simp only [↓State.written_mk]) ?_; with_reducible apply mk_modeKept)
    | rfl

theorem State.startBlend_modeKept {s₀ : State} (s : State) (toReady : Bool) (hS : ModeKept s₀ s) :
    ModeKept s₀ (State.startBlend s toReady) := by
  unfold State.startBlend
  try dsimp only
  repeat' first
    | with_reducible assumption
    | with_reducible apply ite_modeKept
    | (with_reducible refine State.set_modeKept _ _ _ _ ?_ ?_; first | assumption | decide | (split <;> decide))
    | with_reducible rfl
    | split
    | (refine written_modeKept (by simp only [↓State.written_mk]) ?_; with_reducible apply mk_modeKept)
    | rfl

theorem State.targetEnd_modeKept {s₀ : State} (s : State) (hS : ModeKept s₀ s) :
    ModeKept s₀ (State.targetEnd s) := by
  unfold State.targetEnd
  try dsimp only
  repeat' first
    | with_reducible assumption
    | with_reducible apply ite_modeKept
    | with_reducible apply State.clearAlarm_modeKept
    | (with_reducible refine State.set_modeKept _ _ _ _ ?_ ?_; first | assumption | decide | (split <;> decide))
    | with_reducible rfl
    | split
    | (refine written_modeKept (by simp only [↓State.written_mk]) ?_; with_reducible apply mk_modeKept)
    | rfl

theorem State.setLaw_modeKept {s₀ : State} (s : State) (new cause : Nat) (role : Role) (keyId : Nat) (hS : ModeKept s₀ s) :
    ModeKept s₀ (State.setLaw s new cause role keyId) := by
  unfold State.setLaw
  try dsimp only
  repeat' first
    | with_reducible assumption
    | with_reducible apply ite_modeKept
    | with_reducible apply State.targetEnd_modeKept
    | (with_reducible refine State.set_modeKept _ _ _ _ ?_ ?_; first | assumption | decide | (split <;> decide))
    | (with_reducible refine State.setB_modeKept _ _ _ _ ?_ ?_; first | assumption | decide | (split <;> decide))
    | with_reducible apply State.refRestart_modeKept
    | with_reducible apply State.aim_modeKept
    | (with_reducible refine State.evt_modeKept _ _ _ ?_ ?_; first | assumption | decide | (split <;> decide))
    | with_reducible apply State.startBlend_modeKept
    | with_reducible apply State.onRoute_modeKept
    | with_reducible apply State.record_modeKept
    | with_reducible rfl
    | split
    | (refine written_modeKept (by simp only [↓State.written_mk]) ?_; with_reducible apply mk_modeKept)
    | rfl

theorem State.lawDue_modeKept {s₀ : State} (s : State) (hS : ModeKept s₀ s) :
    ModeKept s₀ (State.lawDue s) := by
  unfold State.lawDue
  try dsimp only
  repeat' first
    | with_reducible assumption
    | with_reducible apply ite_modeKept
    | with_reducible apply State.helmResult_modeKept
    | with_reducible apply State.setLaw_modeKept
    | with_reducible rfl
    | split
    | (refine written_modeKept (by simp only [↓State.written_mk]) ?_; with_reducible apply mk_modeKept)
    | rfl

theorem State.spDue_modeKept {s₀ : State} (s : State) (fresh : Bool) (hS : ModeKept s₀ s) :
    ModeKept s₀ (State.spDue s fresh) := by
  unfold State.spDue
  try dsimp only
  repeat' first
    | with_reducible assumption
    | with_reducible apply ite_modeKept
    | with_reducible apply State.helmResult_modeKept
    | with_reducible apply State.onRoute_modeKept
    | with_reducible apply State.aim_modeKept
    | with_reducible rfl
    | split
    | (refine written_modeKept (by simp only [↓State.written_mk]) ?_; with_reducible apply mk_modeKept)
    | rfl

theorem State.targetLostDue_modeKept {s₀ : State} (s : State) (hS : ModeKept s₀ s) :
    ModeKept s₀ (State.targetLostDue s) := by
  unfold State.targetLostDue
  try dsimp only
  repeat' first
    | with_reducible assumption
    | with_reducible apply ite_modeKept
    | with_reducible apply State.setLaw_modeKept
    | with_reducible rfl
    | split
    | (refine written_modeKept (by simp only [↓State.written_mk]) ?_; with_reducible apply mk_modeKept)
    | rfl

theorem State.setScenarios_modeKept {s₀ : State} (s : State) (hS : ModeKept s₀ s) :
    ModeKept s₀ (State.setScenarios s) := by
  unfold State.setScenarios
  try dsimp only
  repeat' first
    | with_reducible assumption
    | with_reducible apply ite_modeKept
    | (with_reducible refine State.set_modeKept _ _ _ _ ?_ ?_; first | assumption | decide | (split <;> decide))
    | with_reducible apply State.record_modeKept
    | with_reducible rfl
    | split
    | (refine written_modeKept (by simp only [↓State.written_mk]) ?_; with_reducible apply mk_modeKept)
    | rfl

theorem State.helmBoundary_modeKept {s₀ : State} (s : State) (hS : ModeKept s₀ s) :
    ModeKept s₀ (State.helmBoundary s) := by
  unfold State.helmBoundary
  try dsimp only
  repeat' first
    | with_reducible assumption
    | with_reducible apply ite_modeKept
    | with_reducible apply State.targetLostDue_modeKept
    | with_reducible apply State.lawDue_modeKept
    | with_reducible apply State.spDue_modeKept
    | with_reducible rfl
    | split
    | (refine written_modeKept (by simp only [↓State.written_mk]) ?_; with_reducible apply mk_modeKept)
    | rfl

theorem State.fcBreadth_modeKept {s₀ : State} (s : State) (l m : Nat) (hS : ModeKept s₀ s) :
    ModeKept s₀ (State.fcBreadth s l m) := by
  unfold State.fcBreadth
  try dsimp only
  repeat' first
    | with_reducible assumption
    | with_reducible apply ite_modeKept
    | (with_reducible refine State.set_modeKept _ _ _ _ ?_ ?_; first | assumption | decide | (split <;> decide))
    | with_reducible rfl
    | split
    | (refine written_modeKept (by simp only [↓State.written_mk]) ?_; with_reducible apply mk_modeKept)
    | rfl

theorem State.fcLevel_modeKept {s₀ : State} (s : State) (new : Nat) (p t : Rat) (binding : Nat) (hS : ModeKept s₀ s) :
    ModeKept s₀ (State.fcLevel s new p t binding) := by
  unfold State.fcLevel
  try dsimp only
  repeat' first
    | with_reducible assumption
    | with_reducible apply ite_modeKept
    | (with_reducible refine State.set_modeKept _ _ _ _ ?_ ?_; first | assumption | decide | (split <;> decide))
    | (with_reducible refine State.evt_modeKept _ _ _ ?_ ?_; first | assumption | decide | (split <;> decide))
    | with_reducible apply State.record_modeKept
    | with_reducible rfl
    | split
    | (refine written_modeKept (by simp only [↓State.written_mk]) ?_; with_reducible apply mk_modeKept)
    | rfl

theorem State.fcSet_modeKept {s₀ : State} (s : State) (new : Nat) (p t : Rat) (binding : Nat) (hS : ModeKept s₀ s) :
    ModeKept s₀ (State.fcSet s new p t binding) := by
  unfold State.fcSet
  try dsimp only
  repeat' first
    | with_reducible assumption
    | with_reducible apply ite_modeKept
    | (with_reducible refine State.setB_modeKept _ _ _ _ ?_ ?_; first | assumption | decide | (split <;> decide))
    | with_reducible apply State.fcLevel_modeKept
    | with_reducible rfl
    | split
    | (refine written_modeKept (by simp only [↓State.written_mk]) ?_; with_reducible apply mk_modeKept)
    | rfl

theorem State.fcStep_modeKept {s₀ : State} (s : State) (c : PowerCfg) (old : Nat) (p t : Nat → Rat) (hS : ModeKept s₀ s) :
    ModeKept s₀ (State.fcStep s c old p t) := by
  unfold State.fcStep
  try dsimp only
  repeat' first
    | with_reducible assumption
    | with_reducible apply ite_modeKept
    | (with_reducible refine State.setB_modeKept _ _ _ _ ?_ ?_; first | assumption | decide | (split <;> decide))
    | with_reducible apply State.fcSet_modeKept
    | with_reducible rfl
    | split
    | (refine written_modeKept (by simp only [↓State.written_mk]) ?_; with_reducible apply mk_modeKept)
    | rfl

theorem State.fcExceeded_modeKept {s₀ : State} (s : State) (p8 t8 : Rat) (over8 : Bool) (hS : ModeKept s₀ s) :
    ModeKept s₀ (State.fcExceeded s p8 t8 over8) := by
  unfold State.fcExceeded
  try dsimp only
  repeat' first
    | with_reducible assumption
    | with_reducible apply ite_modeKept
    | (with_reducible refine State.setB_modeKept _ _ _ _ ?_ ?_; first | assumption | decide | (split <;> decide))
    | (with_reducible refine State.evt_modeKept _ _ _ ?_ ?_; first | assumption | decide | (split <;> decide))
    | with_reducible apply State.clearAlarm_modeKept
    | with_reducible apply State.alarm_modeKept
    | with_reducible rfl
    | split
    | (refine written_modeKept (by simp only [↓State.written_mk]) ?_; with_reducible apply mk_modeKept)
    | rfl

theorem State.fcShow_modeKept {s₀ : State} (s : State) (pred avg temp : Rat) (hS : ModeKept s₀ s) :
    ModeKept s₀ (State.fcShow s pred avg temp) := by
  unfold State.fcShow
  try dsimp only
  repeat' first
    | with_reducible assumption
    | with_reducible apply ite_modeKept
    | (with_reducible refine State.setU_modeKept _ _ _ _ ?_ ?_; first | assumption | decide | (split <;> decide))
    | (with_reducible refine State.setI_modeKept _ _ _ _ ?_ ?_; first | assumption | decide | (split <;> decide))
    | (with_reducible refine State.setSat_modeKept _ _ _ _ ?_ ?_; first | assumption | decide | (split <;> decide))
    | (with_reducible refine State.setQ_modeKept _ _ _ _ ?_ ?_; first | assumption | decide | (split <;> decide))
    | with_reducible rfl
    | split
    | (refine written_modeKept (by simp only [↓State.written_mk]) ?_; with_reducible apply mk_modeKept)
    | rfl

theorem State.fcPlan_modeKept {s₀ : State} (s : State) (plan : List (List Rat)) (past : List Rat) (hS : ModeKept s₀ s) :
    ModeKept s₀ (State.fcPlan s plan past) := by
  unfold State.fcPlan
  try dsimp only
  repeat' first
    | with_reducible assumption
    | with_reducible apply ite_modeKept
    | with_reducible apply State.fcStep_modeKept
    | with_reducible apply State.fcExceeded_modeKept
    | with_reducible apply State.fcShow_modeKept
    | (with_reducible refine State.set_modeKept _ _ _ _ ?_ ?_; first | assumption | decide | (split <;> decide))
    | with_reducible apply State.fcBreadth_modeKept
    | with_reducible rfl
    | split
    | (refine written_modeKept (by simp only [↓State.written_mk]) ?_; with_reducible apply mk_modeKept)
    | rfl

theorem State.refreshGuards_modeKept {s₀ : State} (s : State) (hS : ModeKept s₀ s) :
    ModeKept s₀ (State.refreshGuards s) := by
  unfold State.refreshGuards
  try dsimp only
  repeat' first
    | with_reducible assumption
    | with_reducible apply ite_modeKept
    | (with_reducible refine State.setB_modeKept _ _ _ _ ?_ ?_; first | assumption | decide | (split <;> decide))
    | with_reducible rfl
    | split
    | (refine written_modeKept (by simp only [↓State.written_mk]) ?_; with_reducible apply mk_modeKept)
    | rfl

/-- The work of a cycle after the mode command and the parameters. -/
theorem State.helmWork_modeKept {s₀ : State} (s : State) (plan : List (List Rat)) (past : List Rat) (hS : ModeKept s₀ s) :
    ModeKept s₀ (((((s.fcPlan plan past).helmBoundary).allocBoundary).setScenarios).refreshGuards) :=
  State.refreshGuards_modeKept _ (State.setScenarios_modeKept _ (State.allocBoundary_modeKept _ (State.helmBoundary_modeKept _
    (State.fcPlan_modeKept _ _ _ hS))))

end Sys2Proof.Machine
end

