-- ==== Sys2Proof/Laws/Told.lean ====
section
/-!
SUPPORT. What an operation that only tells of something leaves: every field of the state but the recorder, the alarm list, the
pigeonholes and the interrupt logic, and every register but those of `noteFlds`.
-/

set_option Elab.async false

namespace Sys2Proof.Machine

open Sys2Proof

theorem State.of_plain_now {a b : State} (h : a.plain = b.plain) : a.now = b.now := by
  have e := congrArg State.now h
  exact e
theorem State.of_plain_pts {a b : State} (h : a.plain = b.plain) : a.pts = b.pts := by
  have e := congrArg State.pts h
  exact e
theorem State.of_plain_inbox {a b : State} (h : a.plain = b.plain) : a.inbox = b.inbox := by
  have e := congrArg State.inbox h
  exact e
theorem State.of_plain_pcie {a b : State} (h : a.plain = b.plain) : a.pcie = b.pcie := by
  have e := congrArg State.pcie h
  exact e
theorem State.of_plain_spi {a b : State} (h : a.plain = b.plain) : a.spi = b.spi := by
  have e := congrArg State.spi h
  exact e
theorem State.of_plain_msix {a b : State} (h : a.plain = b.plain) : a.msix = b.msix := by
  have e := congrArg State.msix h
  exact e
theorem State.of_plain_msixEnable {a b : State} (h : a.plain = b.plain) : a.msixEnable = b.msixEnable := by
  have e := congrArg State.msixEnable h
  exact e
theorem State.of_plain_man {a b : State} (h : a.plain = b.plain) : a.man = b.man := by
  have e := congrArg State.man h
  exact e
theorem State.of_plain_outHeld {a b : State} (h : a.plain = b.plain) : a.outHeld = b.outHeld := by
  have e := congrArg State.outHeld h
  exact e
theorem State.of_plain_mus {a b : State} (h : a.plain = b.plain) : a.mus = b.mus := by
  have e := congrArg State.mus h
  exact e
theorem State.of_plain_mnf {a b : State} (h : a.plain = b.plain) : a.mnf = b.mnf := by
  have e := congrArg State.mnf h
  exact e
theorem State.of_plain_role {a b : State} (h : a.plain = b.plain) : a.role = b.role := by
  have e := congrArg State.role h
  exact e
theorem State.of_plain_tick {a b : State} (h : a.plain = b.plain) : a.tick = b.tick := by
  have e := congrArg State.tick h
  exact e
theorem State.of_plain_time {a b : State} (h : a.plain = b.plain) : a.time = b.time := by
  have e := congrArg State.time h
  exact e
theorem State.of_plain_twin {a b : State} (h : a.plain = b.plain) : a.twin = b.twin := by
  have e := congrArg State.twin h
  exact e
theorem State.of_plain_gnssRet {a b : State} (h : a.plain = b.plain) : a.gnssRet = b.gnssRet := by
  have e := congrArg State.gnssRet h
  exact e
theorem State.of_plain_engStopped {a b : State} (h : a.plain = b.plain) : a.engStopped = b.engStopped := by
  have e := congrArg State.engStopped h
  exact e
theorem State.of_plain_eccFixed {a b : State} (h : a.plain = b.plain) : a.eccFixed = b.eccFixed := by
  have e := congrArg State.eccFixed h
  exact e
theorem State.of_plain_netAged {a b : State} (h : a.plain = b.plain) : a.netAged = b.netAged := by
  have e := congrArg State.netAged h
  exact e
theorem State.of_plain_commits {a b : State} (h : a.plain = b.plain) : a.commits = b.commits := by
  have e := congrArg State.commits h
  exact e
theorem State.of_plain_gnss {a b : State} (h : a.plain = b.plain) : a.gnss = b.gnss := by
  have e := congrArg State.gnss h
  exact e
theorem State.of_plain_est {a b : State} (h : a.plain = b.plain) : a.est = b.est := by
  have e := congrArg State.est h
  exact e
theorem State.of_plain_helm {a b : State} (h : a.plain = b.plain) : a.helm = b.helm := by
  have e := congrArg State.helm h
  exact e
theorem State.of_plain_alloc {a b : State} (h : a.plain = b.plain) : a.alloc = b.alloc := by
  have e := congrArg State.alloc h
  exact e
theorem State.of_plain_yuz {a b : State} (h : a.plain = b.plain) : a.yuz = b.yuz := by
  have e := congrArg State.yuz h
  exact e
theorem State.of_plain_loop {a b : State} (h : a.plain = b.plain) : a.loop = b.loop := by
  have e := congrArg State.loop h
  exact e
theorem State.of_plain_adc {a b : State} (h : a.plain = b.plain) : a.adc = b.adc := by
  have e := congrArg State.adc h
  exact e
theorem State.of_plain_clp {a b : State} (h : a.plain = b.plain) : a.clp = b.clp := by
  have e := congrArg State.clp h
  exact e
theorem State.of_plain_step {a b : State} (h : a.plain = b.plain) : a.step = b.step := by
  have e := congrArg State.step h
  exact e
theorem State.of_plain_isl {a b : State} (h : a.plain = b.plain) : a.isl = b.isl := by
  have e := congrArg State.isl h
  exact e
theorem State.of_plain_pwr {a b : State} (h : a.plain = b.plain) : a.pwr = b.pwr := by
  have e := congrArg State.pwr h
  exact e
theorem State.of_plain_thrm {a b : State} (h : a.plain = b.plain) : a.thrm = b.thrm := by
  have e := congrArg State.thrm h
  exact e
theorem State.of_plain_can {a b : State} (h : a.plain = b.plain) : a.can = b.can := by
  have e := congrArg State.can h
  exact e
theorem State.of_plain_eth {a b : State} (h : a.plain = b.plain) : a.eth = b.eth := by
  have e := congrArg State.eth h
  exact e
theorem State.of_plain_work {a b : State} (h : a.plain = b.plain) : a.work = b.work := by
  have e := congrArg State.work h
  exact e
theorem State.of_plain_pcieAt {a b : State} (h : a.plain = b.plain) : a.pcieAt = b.pcieAt := by
  have e := congrArg State.pcieAt h
  exact e
theorem State.of_plain_ethSeq {a b : State} (h : a.plain = b.plain) : a.ethSeq = b.ethSeq := by
  have e := congrArg State.ethSeq h
  exact e
theorem State.of_plain_gpioEdge {a b : State} (h : a.plain = b.plain) : a.gpioEdge = b.gpioEdge := by
  have e := congrArg State.gpioEdge h
  exact e
theorem State.of_plain_pending {a b : State} (h : a.plain = b.plain) : a.pending = b.pending := by
  have e := congrArg State.pending h
  exact e

/-! ### raise -/

@[simp] theorem State.raise_plain (s : State) (src : Nat) : (s.raise src).plain = s.plain := (State.raise_framed (ks := []) s _ (.refl _ s)).plain

@[simp] theorem State.raise_tfind (s : State) (src : Nat) {j : Nat} (h : noteKey j = false) :
    tfind (s.raise src).regs j = tfind s.regs j := (State.raise_framed (ks := []) s _ (.refl _ s)).regs j (by simp) h

@[simp] theorem State.raise_get (s : State) (src : Nat) {f : Fld} (b : Nat) (h : noteFld f = false) :
    (s.raise src).get f b = s.get f b := by
  unfold State.get tget
  rw [State.raise_tfind _ _ ((noteKey_loc f b).trans h)]

@[simp] theorem State.raise_now (s : State) (src : Nat) : (s.raise src).now = s.now :=
  State.of_plain_now (State.raise_plain s src)
@[simp] theorem State.raise_pts (s : State) (src : Nat) : (s.raise src).pts = s.pts :=
  State.of_plain_pts (State.raise_plain s src)
@[simp] theorem State.raise_inbox (s : State) (src : Nat) : (s.raise src).inbox = s.inbox :=
  State.of_plain_inbox (State.raise_plain s src)
@[simp] theorem State.raise_pcie (s : State) (src : Nat) : (s.raise src).pcie = s.pcie :=
  State.of_plain_pcie (State.raise_plain s src)
@[simp] theorem State.raise_spi (s : State) (src : Nat) : (s.raise src).spi = s.spi :=
  State.of_plain_spi (State.raise_plain s src)
@[simp] theorem State.raise_msix (s : State) (src : Nat) : (s.raise src).msix = s.msix :=
  State.of_plain_msix (State.raise_plain s src)
@[simp] theorem State.raise_msixEnable (s : State) (src : Nat) : (s.raise src).msixEnable = s.msixEnable :=
  State.of_plain_msixEnable (State.raise_plain s src)
@[simp] theorem State.raise_man (s : State) (src : Nat) : (s.raise src).man = s.man :=
  State.of_plain_man (State.raise_plain s src)
@[simp] theorem State.raise_outHeld (s : State) (src : Nat) : (s.raise src).outHeld = s.outHeld :=
  State.of_plain_outHeld (State.raise_plain s src)
@[simp] theorem State.raise_mus (s : State) (src : Nat) : (s.raise src).mus = s.mus :=
  State.of_plain_mus (State.raise_plain s src)
@[simp] theorem State.raise_mnf (s : State) (src : Nat) : (s.raise src).mnf = s.mnf :=
  State.of_plain_mnf (State.raise_plain s src)
@[simp] theorem State.raise_role (s : State) (src : Nat) : (s.raise src).role = s.role :=
  State.of_plain_role (State.raise_plain s src)
@[simp] theorem State.raise_tick (s : State) (src : Nat) : (s.raise src).tick = s.tick :=
  State.of_plain_tick (State.raise_plain s src)
@[simp] theorem State.raise_time (s : State) (src : Nat) : (s.raise src).time = s.time :=
  State.of_plain_time (State.raise_plain s src)
@[simp] theorem State.raise_twin (s : State) (src : Nat) : (s.raise src).twin = s.twin :=
  State.of_plain_twin (State.raise_plain s src)
@[simp] theorem State.raise_gnssRet (s : State) (src : Nat) : (s.raise src).gnssRet = s.gnssRet :=
  State.of_plain_gnssRet (State.raise_plain s src)
@[simp] theorem State.raise_engStopped (s : State) (src : Nat) : (s.raise src).engStopped = s.engStopped :=
  State.of_plain_engStopped (State.raise_plain s src)
@[simp] theorem State.raise_eccFixed (s : State) (src : Nat) : (s.raise src).eccFixed = s.eccFixed :=
  State.of_plain_eccFixed (State.raise_plain s src)
@[simp] theorem State.raise_netAged (s : State) (src : Nat) : (s.raise src).netAged = s.netAged :=
  State.of_plain_netAged (State.raise_plain s src)
@[simp] theorem State.raise_commits (s : State) (src : Nat) : (s.raise src).commits = s.commits :=
  State.of_plain_commits (State.raise_plain s src)
@[simp] theorem State.raise_gnss (s : State) (src : Nat) : (s.raise src).gnss = s.gnss :=
  State.of_plain_gnss (State.raise_plain s src)
@[simp] theorem State.raise_est (s : State) (src : Nat) : (s.raise src).est = s.est :=
  State.of_plain_est (State.raise_plain s src)
@[simp] theorem State.raise_helm (s : State) (src : Nat) : (s.raise src).helm = s.helm :=
  State.of_plain_helm (State.raise_plain s src)
@[simp] theorem State.raise_alloc (s : State) (src : Nat) : (s.raise src).alloc = s.alloc :=
  State.of_plain_alloc (State.raise_plain s src)
@[simp] theorem State.raise_yuz (s : State) (src : Nat) : (s.raise src).yuz = s.yuz :=
  State.of_plain_yuz (State.raise_plain s src)
@[simp] theorem State.raise_loop (s : State) (src : Nat) : (s.raise src).loop = s.loop :=
  State.of_plain_loop (State.raise_plain s src)
@[simp] theorem State.raise_adc (s : State) (src : Nat) : (s.raise src).adc = s.adc :=
  State.of_plain_adc (State.raise_plain s src)
@[simp] theorem State.raise_clp (s : State) (src : Nat) : (s.raise src).clp = s.clp :=
  State.of_plain_clp (State.raise_plain s src)
@[simp] theorem State.raise_step (s : State) (src : Nat) : (s.raise src).step = s.step :=
  State.of_plain_step (State.raise_plain s src)
@[simp] theorem State.raise_isl (s : State) (src : Nat) : (s.raise src).isl = s.isl :=
  State.of_plain_isl (State.raise_plain s src)
@[simp] theorem State.raise_pwr (s : State) (src : Nat) : (s.raise src).pwr = s.pwr :=
  State.of_plain_pwr (State.raise_plain s src)
@[simp] theorem State.raise_thrm (s : State) (src : Nat) : (s.raise src).thrm = s.thrm :=
  State.of_plain_thrm (State.raise_plain s src)
@[simp] theorem State.raise_can (s : State) (src : Nat) : (s.raise src).can = s.can :=
  State.of_plain_can (State.raise_plain s src)
@[simp] theorem State.raise_eth (s : State) (src : Nat) : (s.raise src).eth = s.eth :=
  State.of_plain_eth (State.raise_plain s src)
@[simp] theorem State.raise_work (s : State) (src : Nat) : (s.raise src).work = s.work :=
  State.of_plain_work (State.raise_plain s src)
@[simp] theorem State.raise_pcieAt (s : State) (src : Nat) : (s.raise src).pcieAt = s.pcieAt :=
  State.of_plain_pcieAt (State.raise_plain s src)
@[simp] theorem State.raise_ethSeq (s : State) (src : Nat) : (s.raise src).ethSeq = s.ethSeq :=
  State.of_plain_ethSeq (State.raise_plain s src)
@[simp] theorem State.raise_gpioEdge (s : State) (src : Nat) : (s.raise src).gpioEdge = s.gpioEdge :=
  State.of_plain_gpioEdge (State.raise_plain s src)
@[simp] theorem State.raise_pending (s : State) (src : Nat) : (s.raise src).pending = s.pending :=
  State.of_plain_pending (State.raise_plain s src)

/-! ### logEvent -/

@[simp] theorem State.logEvent_plain (s : State) (e : Ev) : (s.logEvent e).plain = s.plain := (State.logEvent_framed (ks := []) s _ (.refl _ s)).plain

@[simp] theorem State.logEvent_tfind (s : State) (e : Ev) {j : Nat} (h : noteKey j = false) :
    tfind (s.logEvent e).regs j = tfind s.regs j := (State.logEvent_framed (ks := []) s _ (.refl _ s)).regs j (by simp) h

@[simp] theorem State.logEvent_get (s : State) (e : Ev) {f : Fld} (b : Nat) (h : noteFld f = false) :
    (s.logEvent e).get f b = s.get f b := by
  unfold State.get tget
  rw [State.logEvent_tfind _ _ ((noteKey_loc f b).trans h)]

@[simp] theorem State.logEvent_now (s : State) (e : Ev) : (s.logEvent e).now = s.now :=
  State.of_plain_now (State.logEvent_plain s e)
@[simp] theorem State.logEvent_pts (s : State) (e : Ev) : (s.logEvent e).pts = s.pts :=
  State.of_plain_pts (State.logEvent_plain s e)
@[simp] theorem State.logEvent_inbox (s : State) (e : Ev) : (s.logEvent e).inbox = s.inbox :=
  State.of_plain_inbox (State.logEvent_plain s e)
@[simp] theorem State.logEvent_pcie (s : State) (e : Ev) : (s.logEvent e).pcie = s.pcie :=
  State.of_plain_pcie (State.logEvent_plain s e)
@[simp] theorem State.logEvent_spi (s : State) (e : Ev) : (s.logEvent e).spi = s.spi :=
  State.of_plain_spi (State.logEvent_plain s e)
@[simp] theorem State.logEvent_msix (s : State) (e : Ev) : (s.logEvent e).msix = s.msix :=
  State.of_plain_msix (State.logEvent_plain s e)
@[simp] theorem State.logEvent_msixEnable (s : State) (e : Ev) : (s.logEvent e).msixEnable = s.msixEnable :=
  State.of_plain_msixEnable (State.logEvent_plain s e)
@[simp] theorem State.logEvent_man (s : State) (e : Ev) : (s.logEvent e).man = s.man :=
  State.of_plain_man (State.logEvent_plain s e)
@[simp] theorem State.logEvent_outHeld (s : State) (e : Ev) : (s.logEvent e).outHeld = s.outHeld :=
  State.of_plain_outHeld (State.logEvent_plain s e)
@[simp] theorem State.logEvent_mus (s : State) (e : Ev) : (s.logEvent e).mus = s.mus :=
  State.of_plain_mus (State.logEvent_plain s e)
@[simp] theorem State.logEvent_mnf (s : State) (e : Ev) : (s.logEvent e).mnf = s.mnf :=
  State.of_plain_mnf (State.logEvent_plain s e)
@[simp] theorem State.logEvent_role (s : State) (e : Ev) : (s.logEvent e).role = s.role :=
  State.of_plain_role (State.logEvent_plain s e)
@[simp] theorem State.logEvent_tick (s : State) (e : Ev) : (s.logEvent e).tick = s.tick :=
  State.of_plain_tick (State.logEvent_plain s e)
@[simp] theorem State.logEvent_time (s : State) (e : Ev) : (s.logEvent e).time = s.time :=
  State.of_plain_time (State.logEvent_plain s e)
@[simp] theorem State.logEvent_twin (s : State) (e : Ev) : (s.logEvent e).twin = s.twin :=
  State.of_plain_twin (State.logEvent_plain s e)
@[simp] theorem State.logEvent_gnssRet (s : State) (e : Ev) : (s.logEvent e).gnssRet = s.gnssRet :=
  State.of_plain_gnssRet (State.logEvent_plain s e)
@[simp] theorem State.logEvent_engStopped (s : State) (e : Ev) : (s.logEvent e).engStopped = s.engStopped :=
  State.of_plain_engStopped (State.logEvent_plain s e)
@[simp] theorem State.logEvent_eccFixed (s : State) (e : Ev) : (s.logEvent e).eccFixed = s.eccFixed :=
  State.of_plain_eccFixed (State.logEvent_plain s e)
@[simp] theorem State.logEvent_netAged (s : State) (e : Ev) : (s.logEvent e).netAged = s.netAged :=
  State.of_plain_netAged (State.logEvent_plain s e)
@[simp] theorem State.logEvent_commits (s : State) (e : Ev) : (s.logEvent e).commits = s.commits :=
  State.of_plain_commits (State.logEvent_plain s e)
@[simp] theorem State.logEvent_gnss (s : State) (e : Ev) : (s.logEvent e).gnss = s.gnss :=
  State.of_plain_gnss (State.logEvent_plain s e)
@[simp] theorem State.logEvent_est (s : State) (e : Ev) : (s.logEvent e).est = s.est :=
  State.of_plain_est (State.logEvent_plain s e)
@[simp] theorem State.logEvent_helm (s : State) (e : Ev) : (s.logEvent e).helm = s.helm :=
  State.of_plain_helm (State.logEvent_plain s e)
@[simp] theorem State.logEvent_alloc (s : State) (e : Ev) : (s.logEvent e).alloc = s.alloc :=
  State.of_plain_alloc (State.logEvent_plain s e)
@[simp] theorem State.logEvent_yuz (s : State) (e : Ev) : (s.logEvent e).yuz = s.yuz :=
  State.of_plain_yuz (State.logEvent_plain s e)
@[simp] theorem State.logEvent_loop (s : State) (e : Ev) : (s.logEvent e).loop = s.loop :=
  State.of_plain_loop (State.logEvent_plain s e)
@[simp] theorem State.logEvent_adc (s : State) (e : Ev) : (s.logEvent e).adc = s.adc :=
  State.of_plain_adc (State.logEvent_plain s e)
@[simp] theorem State.logEvent_clp (s : State) (e : Ev) : (s.logEvent e).clp = s.clp :=
  State.of_plain_clp (State.logEvent_plain s e)
@[simp] theorem State.logEvent_step (s : State) (e : Ev) : (s.logEvent e).step = s.step :=
  State.of_plain_step (State.logEvent_plain s e)
@[simp] theorem State.logEvent_isl (s : State) (e : Ev) : (s.logEvent e).isl = s.isl :=
  State.of_plain_isl (State.logEvent_plain s e)
@[simp] theorem State.logEvent_pwr (s : State) (e : Ev) : (s.logEvent e).pwr = s.pwr :=
  State.of_plain_pwr (State.logEvent_plain s e)
@[simp] theorem State.logEvent_thrm (s : State) (e : Ev) : (s.logEvent e).thrm = s.thrm :=
  State.of_plain_thrm (State.logEvent_plain s e)
@[simp] theorem State.logEvent_can (s : State) (e : Ev) : (s.logEvent e).can = s.can :=
  State.of_plain_can (State.logEvent_plain s e)
@[simp] theorem State.logEvent_eth (s : State) (e : Ev) : (s.logEvent e).eth = s.eth :=
  State.of_plain_eth (State.logEvent_plain s e)
@[simp] theorem State.logEvent_work (s : State) (e : Ev) : (s.logEvent e).work = s.work :=
  State.of_plain_work (State.logEvent_plain s e)
@[simp] theorem State.logEvent_pcieAt (s : State) (e : Ev) : (s.logEvent e).pcieAt = s.pcieAt :=
  State.of_plain_pcieAt (State.logEvent_plain s e)
@[simp] theorem State.logEvent_ethSeq (s : State) (e : Ev) : (s.logEvent e).ethSeq = s.ethSeq :=
  State.of_plain_ethSeq (State.logEvent_plain s e)
@[simp] theorem State.logEvent_gpioEdge (s : State) (e : Ev) : (s.logEvent e).gpioEdge = s.gpioEdge :=
  State.of_plain_gpioEdge (State.logEvent_plain s e)
@[simp] theorem State.logEvent_pending (s : State) (e : Ev) : (s.logEvent e).pending = s.pending :=
  State.of_plain_pending (State.logEvent_plain s e)

/-! ### record -/

@[simp] theorem State.record_plain (s : State) (e : Ev) : (s.record e).plain = s.plain := (State.record_framed (ks := []) s _ (.refl _ s)).plain

@[simp] theorem State.record_tfind (s : State) (e : Ev) {j : Nat} (h : noteKey j = false) :
    tfind (s.record e).regs j = tfind s.regs j := (State.record_framed (ks := []) s _ (.refl _ s)).regs j (by simp) h

@[simp] theorem State.record_get (s : State) (e : Ev) {f : Fld} (b : Nat) (h : noteFld f = false) :
    (s.record e).get f b = s.get f b := by
  unfold State.get tget
  rw [State.record_tfind _ _ ((noteKey_loc f b).trans h)]

@[simp] theorem State.record_now (s : State) (e : Ev) : (s.record e).now = s.now :=
  State.of_plain_now (State.record_plain s e)
@[simp] theorem State.record_pts (s : State) (e : Ev) : (s.record e).pts = s.pts :=
  State.of_plain_pts (State.record_plain s e)
@[simp] theorem State.record_inbox (s : State) (e : Ev) : (s.record e).inbox = s.inbox :=
  State.of_plain_inbox (State.record_plain s e)
@[simp] theorem State.record_pcie (s : State) (e : Ev) : (s.record e).pcie = s.pcie :=
  State.of_plain_pcie (State.record_plain s e)
@[simp] theorem State.record_spi (s : State) (e : Ev) : (s.record e).spi = s.spi :=
  State.of_plain_spi (State.record_plain s e)
@[simp] theorem State.record_msix (s : State) (e : Ev) : (s.record e).msix = s.msix :=
  State.of_plain_msix (State.record_plain s e)
@[simp] theorem State.record_msixEnable (s : State) (e : Ev) : (s.record e).msixEnable = s.msixEnable :=
  State.of_plain_msixEnable (State.record_plain s e)
@[simp] theorem State.record_man (s : State) (e : Ev) : (s.record e).man = s.man :=
  State.of_plain_man (State.record_plain s e)
@[simp] theorem State.record_outHeld (s : State) (e : Ev) : (s.record e).outHeld = s.outHeld :=
  State.of_plain_outHeld (State.record_plain s e)
@[simp] theorem State.record_mus (s : State) (e : Ev) : (s.record e).mus = s.mus :=
  State.of_plain_mus (State.record_plain s e)
@[simp] theorem State.record_mnf (s : State) (e : Ev) : (s.record e).mnf = s.mnf :=
  State.of_plain_mnf (State.record_plain s e)
@[simp] theorem State.record_role (s : State) (e : Ev) : (s.record e).role = s.role :=
  State.of_plain_role (State.record_plain s e)
@[simp] theorem State.record_tick (s : State) (e : Ev) : (s.record e).tick = s.tick :=
  State.of_plain_tick (State.record_plain s e)
@[simp] theorem State.record_time (s : State) (e : Ev) : (s.record e).time = s.time :=
  State.of_plain_time (State.record_plain s e)
@[simp] theorem State.record_twin (s : State) (e : Ev) : (s.record e).twin = s.twin :=
  State.of_plain_twin (State.record_plain s e)
@[simp] theorem State.record_gnssRet (s : State) (e : Ev) : (s.record e).gnssRet = s.gnssRet :=
  State.of_plain_gnssRet (State.record_plain s e)
@[simp] theorem State.record_engStopped (s : State) (e : Ev) : (s.record e).engStopped = s.engStopped :=
  State.of_plain_engStopped (State.record_plain s e)
@[simp] theorem State.record_eccFixed (s : State) (e : Ev) : (s.record e).eccFixed = s.eccFixed :=
  State.of_plain_eccFixed (State.record_plain s e)
@[simp] theorem State.record_netAged (s : State) (e : Ev) : (s.record e).netAged = s.netAged :=
  State.of_plain_netAged (State.record_plain s e)
@[simp] theorem State.record_commits (s : State) (e : Ev) : (s.record e).commits = s.commits :=
  State.of_plain_commits (State.record_plain s e)
@[simp] theorem State.record_gnss (s : State) (e : Ev) : (s.record e).gnss = s.gnss :=
  State.of_plain_gnss (State.record_plain s e)
@[simp] theorem State.record_est (s : State) (e : Ev) : (s.record e).est = s.est :=
  State.of_plain_est (State.record_plain s e)
@[simp] theorem State.record_helm (s : State) (e : Ev) : (s.record e).helm = s.helm :=
  State.of_plain_helm (State.record_plain s e)
@[simp] theorem State.record_alloc (s : State) (e : Ev) : (s.record e).alloc = s.alloc :=
  State.of_plain_alloc (State.record_plain s e)
@[simp] theorem State.record_yuz (s : State) (e : Ev) : (s.record e).yuz = s.yuz :=
  State.of_plain_yuz (State.record_plain s e)
@[simp] theorem State.record_loop (s : State) (e : Ev) : (s.record e).loop = s.loop :=
  State.of_plain_loop (State.record_plain s e)
@[simp] theorem State.record_adc (s : State) (e : Ev) : (s.record e).adc = s.adc :=
  State.of_plain_adc (State.record_plain s e)
@[simp] theorem State.record_clp (s : State) (e : Ev) : (s.record e).clp = s.clp :=
  State.of_plain_clp (State.record_plain s e)
@[simp] theorem State.record_step (s : State) (e : Ev) : (s.record e).step = s.step :=
  State.of_plain_step (State.record_plain s e)
@[simp] theorem State.record_isl (s : State) (e : Ev) : (s.record e).isl = s.isl :=
  State.of_plain_isl (State.record_plain s e)
@[simp] theorem State.record_pwr (s : State) (e : Ev) : (s.record e).pwr = s.pwr :=
  State.of_plain_pwr (State.record_plain s e)
@[simp] theorem State.record_thrm (s : State) (e : Ev) : (s.record e).thrm = s.thrm :=
  State.of_plain_thrm (State.record_plain s e)
@[simp] theorem State.record_can (s : State) (e : Ev) : (s.record e).can = s.can :=
  State.of_plain_can (State.record_plain s e)
@[simp] theorem State.record_eth (s : State) (e : Ev) : (s.record e).eth = s.eth :=
  State.of_plain_eth (State.record_plain s e)
@[simp] theorem State.record_work (s : State) (e : Ev) : (s.record e).work = s.work :=
  State.of_plain_work (State.record_plain s e)
@[simp] theorem State.record_pcieAt (s : State) (e : Ev) : (s.record e).pcieAt = s.pcieAt :=
  State.of_plain_pcieAt (State.record_plain s e)
@[simp] theorem State.record_ethSeq (s : State) (e : Ev) : (s.record e).ethSeq = s.ethSeq :=
  State.of_plain_ethSeq (State.record_plain s e)
@[simp] theorem State.record_gpioEdge (s : State) (e : Ev) : (s.record e).gpioEdge = s.gpioEdge :=
  State.of_plain_gpioEdge (State.record_plain s e)
@[simp] theorem State.record_pending (s : State) (e : Ev) : (s.record e).pending = s.pending :=
  State.of_plain_pending (State.record_plain s e)

/-! ### alarm -/

@[simp] theorem State.alarm_plain (s : State) (c src : Nat) (l : List (Nat × Nat)) (k : Nat) : (s.alarm c src l k).plain = s.plain := (State.alarm_framed (ks := []) s _ _ _ _ (.refl _ s)).plain

@[simp] theorem State.alarm_tfind (s : State) (c src : Nat) (l : List (Nat × Nat)) (k : Nat) {j : Nat} (h : noteKey j = false) :
    tfind (s.alarm c src l k).regs j = tfind s.regs j := (State.alarm_framed (ks := []) s _ _ _ _ (.refl _ s)).regs j (by simp) h

@[simp] theorem State.alarm_get (s : State) (c src : Nat) (l : List (Nat × Nat)) (k : Nat) {f : Fld} (b : Nat) (h : noteFld f = false) :
    (s.alarm c src l k).get f b = s.get f b := by
  unfold State.get tget
  rw [State.alarm_tfind _ _ _ _ _ ((noteKey_loc f b).trans h)]

@[simp] theorem State.alarm_now (s : State) (c src : Nat) (l : List (Nat × Nat)) (k : Nat) : (s.alarm c src l k).now = s.now :=
  State.of_plain_now (State.alarm_plain s c src l k)
@[simp] theorem State.alarm_pts (s : State) (c src : Nat) (l : List (Nat × Nat)) (k : Nat) : (s.alarm c src l k).pts = s.pts :=
  State.of_plain_pts (State.alarm_plain s c src l k)
@[simp] theorem State.alarm_inbox (s : State) (c src : Nat) (l : List (Nat × Nat)) (k : Nat) : (s.alarm c src l k).inbox = s.inbox :=
  State.of_plain_inbox (State.alarm_plain s c src l k)
@[simp] theorem State.alarm_pcie (s : State) (c src : Nat) (l : List (Nat × Nat)) (k : Nat) : (s.alarm c src l k).pcie = s.pcie :=
  State.of_plain_pcie (State.alarm_plain s c src l k)
@[simp] theorem State.alarm_spi (s : State) (c src : Nat) (l : List (Nat × Nat)) (k : Nat) : (s.alarm c src l k).spi = s.spi :=
  State.of_plain_spi (State.alarm_plain s c src l k)
@[simp] theorem State.alarm_msix (s : State) (c src : Nat) (l : List (Nat × Nat)) (k : Nat) : (s.alarm c src l k).msix = s.msix :=
  State.of_plain_msix (State.alarm_plain s c src l k)
@[simp] theorem State.alarm_msixEnable (s : State) (c src : Nat) (l : List (Nat × Nat)) (k : Nat) : (s.alarm c src l k).msixEnable = s.msixEnable :=
  State.of_plain_msixEnable (State.alarm_plain s c src l k)
@[simp] theorem State.alarm_man (s : State) (c src : Nat) (l : List (Nat × Nat)) (k : Nat) : (s.alarm c src l k).man = s.man :=
  State.of_plain_man (State.alarm_plain s c src l k)
@[simp] theorem State.alarm_outHeld (s : State) (c src : Nat) (l : List (Nat × Nat)) (k : Nat) : (s.alarm c src l k).outHeld = s.outHeld :=
  State.of_plain_outHeld (State.alarm_plain s c src l k)
@[simp] theorem State.alarm_mus (s : State) (c src : Nat) (l : List (Nat × Nat)) (k : Nat) : (s.alarm c src l k).mus = s.mus :=
  State.of_plain_mus (State.alarm_plain s c src l k)
@[simp] theorem State.alarm_mnf (s : State) (c src : Nat) (l : List (Nat × Nat)) (k : Nat) : (s.alarm c src l k).mnf = s.mnf :=
  State.of_plain_mnf (State.alarm_plain s c src l k)
@[simp] theorem State.alarm_role (s : State) (c src : Nat) (l : List (Nat × Nat)) (k : Nat) : (s.alarm c src l k).role = s.role :=
  State.of_plain_role (State.alarm_plain s c src l k)
@[simp] theorem State.alarm_tick (s : State) (c src : Nat) (l : List (Nat × Nat)) (k : Nat) : (s.alarm c src l k).tick = s.tick :=
  State.of_plain_tick (State.alarm_plain s c src l k)
@[simp] theorem State.alarm_time (s : State) (c src : Nat) (l : List (Nat × Nat)) (k : Nat) : (s.alarm c src l k).time = s.time :=
  State.of_plain_time (State.alarm_plain s c src l k)
@[simp] theorem State.alarm_twin (s : State) (c src : Nat) (l : List (Nat × Nat)) (k : Nat) : (s.alarm c src l k).twin = s.twin :=
  State.of_plain_twin (State.alarm_plain s c src l k)
@[simp] theorem State.alarm_gnssRet (s : State) (c src : Nat) (l : List (Nat × Nat)) (k : Nat) : (s.alarm c src l k).gnssRet = s.gnssRet :=
  State.of_plain_gnssRet (State.alarm_plain s c src l k)
@[simp] theorem State.alarm_engStopped (s : State) (c src : Nat) (l : List (Nat × Nat)) (k : Nat) : (s.alarm c src l k).engStopped = s.engStopped :=
  State.of_plain_engStopped (State.alarm_plain s c src l k)
@[simp] theorem State.alarm_eccFixed (s : State) (c src : Nat) (l : List (Nat × Nat)) (k : Nat) : (s.alarm c src l k).eccFixed = s.eccFixed :=
  State.of_plain_eccFixed (State.alarm_plain s c src l k)
@[simp] theorem State.alarm_netAged (s : State) (c src : Nat) (l : List (Nat × Nat)) (k : Nat) : (s.alarm c src l k).netAged = s.netAged :=
  State.of_plain_netAged (State.alarm_plain s c src l k)
@[simp] theorem State.alarm_commits (s : State) (c src : Nat) (l : List (Nat × Nat)) (k : Nat) : (s.alarm c src l k).commits = s.commits :=
  State.of_plain_commits (State.alarm_plain s c src l k)
@[simp] theorem State.alarm_gnss (s : State) (c src : Nat) (l : List (Nat × Nat)) (k : Nat) : (s.alarm c src l k).gnss = s.gnss :=
  State.of_plain_gnss (State.alarm_plain s c src l k)
@[simp] theorem State.alarm_est (s : State) (c src : Nat) (l : List (Nat × Nat)) (k : Nat) : (s.alarm c src l k).est = s.est :=
  State.of_plain_est (State.alarm_plain s c src l k)
@[simp] theorem State.alarm_helm (s : State) (c src : Nat) (l : List (Nat × Nat)) (k : Nat) : (s.alarm c src l k).helm = s.helm :=
  State.of_plain_helm (State.alarm_plain s c src l k)
@[simp] theorem State.alarm_alloc (s : State) (c src : Nat) (l : List (Nat × Nat)) (k : Nat) : (s.alarm c src l k).alloc = s.alloc :=
  State.of_plain_alloc (State.alarm_plain s c src l k)
@[simp] theorem State.alarm_yuz (s : State) (c src : Nat) (l : List (Nat × Nat)) (k : Nat) : (s.alarm c src l k).yuz = s.yuz :=
  State.of_plain_yuz (State.alarm_plain s c src l k)
@[simp] theorem State.alarm_loop (s : State) (c src : Nat) (l : List (Nat × Nat)) (k : Nat) : (s.alarm c src l k).loop = s.loop :=
  State.of_plain_loop (State.alarm_plain s c src l k)
@[simp] theorem State.alarm_adc (s : State) (c src : Nat) (l : List (Nat × Nat)) (k : Nat) : (s.alarm c src l k).adc = s.adc :=
  State.of_plain_adc (State.alarm_plain s c src l k)
@[simp] theorem State.alarm_clp (s : State) (c src : Nat) (l : List (Nat × Nat)) (k : Nat) : (s.alarm c src l k).clp = s.clp :=
  State.of_plain_clp (State.alarm_plain s c src l k)
@[simp] theorem State.alarm_step (s : State) (c src : Nat) (l : List (Nat × Nat)) (k : Nat) : (s.alarm c src l k).step = s.step :=
  State.of_plain_step (State.alarm_plain s c src l k)
@[simp] theorem State.alarm_isl (s : State) (c src : Nat) (l : List (Nat × Nat)) (k : Nat) : (s.alarm c src l k).isl = s.isl :=
  State.of_plain_isl (State.alarm_plain s c src l k)
@[simp] theorem State.alarm_pwr (s : State) (c src : Nat) (l : List (Nat × Nat)) (k : Nat) : (s.alarm c src l k).pwr = s.pwr :=
  State.of_plain_pwr (State.alarm_plain s c src l k)
@[simp] theorem State.alarm_thrm (s : State) (c src : Nat) (l : List (Nat × Nat)) (k : Nat) : (s.alarm c src l k).thrm = s.thrm :=
  State.of_plain_thrm (State.alarm_plain s c src l k)
@[simp] theorem State.alarm_can (s : State) (c src : Nat) (l : List (Nat × Nat)) (k : Nat) : (s.alarm c src l k).can = s.can :=
  State.of_plain_can (State.alarm_plain s c src l k)
@[simp] theorem State.alarm_eth (s : State) (c src : Nat) (l : List (Nat × Nat)) (k : Nat) : (s.alarm c src l k).eth = s.eth :=
  State.of_plain_eth (State.alarm_plain s c src l k)
@[simp] theorem State.alarm_work (s : State) (c src : Nat) (l : List (Nat × Nat)) (k : Nat) : (s.alarm c src l k).work = s.work :=
  State.of_plain_work (State.alarm_plain s c src l k)
@[simp] theorem State.alarm_pcieAt (s : State) (c src : Nat) (l : List (Nat × Nat)) (k : Nat) : (s.alarm c src l k).pcieAt = s.pcieAt :=
  State.of_plain_pcieAt (State.alarm_plain s c src l k)
@[simp] theorem State.alarm_ethSeq (s : State) (c src : Nat) (l : List (Nat × Nat)) (k : Nat) : (s.alarm c src l k).ethSeq = s.ethSeq :=
  State.of_plain_ethSeq (State.alarm_plain s c src l k)
@[simp] theorem State.alarm_gpioEdge (s : State) (c src : Nat) (l : List (Nat × Nat)) (k : Nat) : (s.alarm c src l k).gpioEdge = s.gpioEdge :=
  State.of_plain_gpioEdge (State.alarm_plain s c src l k)
@[simp] theorem State.alarm_pending (s : State) (c src : Nat) (l : List (Nat × Nat)) (k : Nat) : (s.alarm c src l k).pending = s.pending :=
  State.of_plain_pending (State.alarm_plain s c src l k)

/-! ### clearAlarm -/

@[simp] theorem State.clearAlarm_plain (s : State) (c src : Nat) (l : List (Nat × Nat)) (k : Nat) : (s.clearAlarm c src l k).plain = s.plain := (State.clearAlarm_framed (ks := []) s _ _ _ _ (.refl _ s)).plain

@[simp] theorem State.clearAlarm_tfind (s : State) (c src : Nat) (l : List (Nat × Nat)) (k : Nat) {j : Nat} (h : noteKey j = false) :
    tfind (s.clearAlarm c src l k).regs j = tfind s.regs j := (State.clearAlarm_framed (ks := []) s _ _ _ _ (.refl _ s)).regs j (by simp) h

@[simp] theorem State.clearAlarm_get (s : State) (c src : Nat) (l : List (Nat × Nat)) (k : Nat) {f : Fld} (b : Nat) (h : noteFld f = false) :
    (s.clearAlarm c src l k).get f b = s.get f b := by
  unfold State.get tget
  rw [State.clearAlarm_tfind _ _ _ _ _ ((noteKey_loc f b).trans h)]

@[simp] theorem State.clearAlarm_now (s : State) (c src : Nat) (l : List (Nat × Nat)) (k : Nat) : (s.clearAlarm c src l k).now = s.now :=
  State.of_plain_now (State.clearAlarm_plain s c src l k)
@[simp] theorem State.clearAlarm_pts (s : State) (c src : Nat) (l : List (Nat × Nat)) (k : Nat) : (s.clearAlarm c src l k).pts = s.pts :=
  State.of_plain_pts (State.clearAlarm_plain s c src l k)
@[simp] theorem State.clearAlarm_inbox (s : State) (c src : Nat) (l : List (Nat × Nat)) (k : Nat) : (s.clearAlarm c src l k).inbox = s.inbox :=
  State.of_plain_inbox (State.clearAlarm_plain s c src l k)
@[simp] theorem State.clearAlarm_pcie (s : State) (c src : Nat) (l : List (Nat × Nat)) (k : Nat) : (s.clearAlarm c src l k).pcie = s.pcie :=
  State.of_plain_pcie (State.clearAlarm_plain s c src l k)
@[simp] theorem State.clearAlarm_spi (s : State) (c src : Nat) (l : List (Nat × Nat)) (k : Nat) : (s.clearAlarm c src l k).spi = s.spi :=
  State.of_plain_spi (State.clearAlarm_plain s c src l k)
@[simp] theorem State.clearAlarm_msix (s : State) (c src : Nat) (l : List (Nat × Nat)) (k : Nat) : (s.clearAlarm c src l k).msix = s.msix :=
  State.of_plain_msix (State.clearAlarm_plain s c src l k)
@[simp] theorem State.clearAlarm_msixEnable (s : State) (c src : Nat) (l : List (Nat × Nat)) (k : Nat) : (s.clearAlarm c src l k).msixEnable = s.msixEnable :=
  State.of_plain_msixEnable (State.clearAlarm_plain s c src l k)
@[simp] theorem State.clearAlarm_man (s : State) (c src : Nat) (l : List (Nat × Nat)) (k : Nat) : (s.clearAlarm c src l k).man = s.man :=
  State.of_plain_man (State.clearAlarm_plain s c src l k)
@[simp] theorem State.clearAlarm_outHeld (s : State) (c src : Nat) (l : List (Nat × Nat)) (k : Nat) : (s.clearAlarm c src l k).outHeld = s.outHeld :=
  State.of_plain_outHeld (State.clearAlarm_plain s c src l k)
@[simp] theorem State.clearAlarm_mus (s : State) (c src : Nat) (l : List (Nat × Nat)) (k : Nat) : (s.clearAlarm c src l k).mus = s.mus :=
  State.of_plain_mus (State.clearAlarm_plain s c src l k)
@[simp] theorem State.clearAlarm_mnf (s : State) (c src : Nat) (l : List (Nat × Nat)) (k : Nat) : (s.clearAlarm c src l k).mnf = s.mnf :=
  State.of_plain_mnf (State.clearAlarm_plain s c src l k)
@[simp] theorem State.clearAlarm_role (s : State) (c src : Nat) (l : List (Nat × Nat)) (k : Nat) : (s.clearAlarm c src l k).role = s.role :=
  State.of_plain_role (State.clearAlarm_plain s c src l k)
@[simp] theorem State.clearAlarm_tick (s : State) (c src : Nat) (l : List (Nat × Nat)) (k : Nat) : (s.clearAlarm c src l k).tick = s.tick :=
  State.of_plain_tick (State.clearAlarm_plain s c src l k)
@[simp] theorem State.clearAlarm_time (s : State) (c src : Nat) (l : List (Nat × Nat)) (k : Nat) : (s.clearAlarm c src l k).time = s.time :=
  State.of_plain_time (State.clearAlarm_plain s c src l k)
@[simp] theorem State.clearAlarm_twin (s : State) (c src : Nat) (l : List (Nat × Nat)) (k : Nat) : (s.clearAlarm c src l k).twin = s.twin :=
  State.of_plain_twin (State.clearAlarm_plain s c src l k)
@[simp] theorem State.clearAlarm_gnssRet (s : State) (c src : Nat) (l : List (Nat × Nat)) (k : Nat) : (s.clearAlarm c src l k).gnssRet = s.gnssRet :=
  State.of_plain_gnssRet (State.clearAlarm_plain s c src l k)
@[simp] theorem State.clearAlarm_engStopped (s : State) (c src : Nat) (l : List (Nat × Nat)) (k : Nat) : (s.clearAlarm c src l k).engStopped = s.engStopped :=
  State.of_plain_engStopped (State.clearAlarm_plain s c src l k)
@[simp] theorem State.clearAlarm_eccFixed (s : State) (c src : Nat) (l : List (Nat × Nat)) (k : Nat) : (s.clearAlarm c src l k).eccFixed = s.eccFixed :=
  State.of_plain_eccFixed (State.clearAlarm_plain s c src l k)
@[simp] theorem State.clearAlarm_netAged (s : State) (c src : Nat) (l : List (Nat × Nat)) (k : Nat) : (s.clearAlarm c src l k).netAged = s.netAged :=
  State.of_plain_netAged (State.clearAlarm_plain s c src l k)
@[simp] theorem State.clearAlarm_commits (s : State) (c src : Nat) (l : List (Nat × Nat)) (k : Nat) : (s.clearAlarm c src l k).commits = s.commits :=
  State.of_plain_commits (State.clearAlarm_plain s c src l k)
@[simp] theorem State.clearAlarm_gnss (s : State) (c src : Nat) (l : List (Nat × Nat)) (k : Nat) : (s.clearAlarm c src l k).gnss = s.gnss :=
  State.of_plain_gnss (State.clearAlarm_plain s c src l k)
@[simp] theorem State.clearAlarm_est (s : State) (c src : Nat) (l : List (Nat × Nat)) (k : Nat) : (s.clearAlarm c src l k).est = s.est :=
  State.of_plain_est (State.clearAlarm_plain s c src l k)
@[simp] theorem State.clearAlarm_helm (s : State) (c src : Nat) (l : List (Nat × Nat)) (k : Nat) : (s.clearAlarm c src l k).helm = s.helm :=
  State.of_plain_helm (State.clearAlarm_plain s c src l k)
@[simp] theorem State.clearAlarm_alloc (s : State) (c src : Nat) (l : List (Nat × Nat)) (k : Nat) : (s.clearAlarm c src l k).alloc = s.alloc :=
  State.of_plain_alloc (State.clearAlarm_plain s c src l k)
@[simp] theorem State.clearAlarm_yuz (s : State) (c src : Nat) (l : List (Nat × Nat)) (k : Nat) : (s.clearAlarm c src l k).yuz = s.yuz :=
  State.of_plain_yuz (State.clearAlarm_plain s c src l k)
@[simp] theorem State.clearAlarm_loop (s : State) (c src : Nat) (l : List (Nat × Nat)) (k : Nat) : (s.clearAlarm c src l k).loop = s.loop :=
  State.of_plain_loop (State.clearAlarm_plain s c src l k)
@[simp] theorem State.clearAlarm_adc (s : State) (c src : Nat) (l : List (Nat × Nat)) (k : Nat) : (s.clearAlarm c src l k).adc = s.adc :=
  State.of_plain_adc (State.clearAlarm_plain s c src l k)
@[simp] theorem State.clearAlarm_clp (s : State) (c src : Nat) (l : List (Nat × Nat)) (k : Nat) : (s.clearAlarm c src l k).clp = s.clp :=
  State.of_plain_clp (State.clearAlarm_plain s c src l k)
@[simp] theorem State.clearAlarm_step (s : State) (c src : Nat) (l : List (Nat × Nat)) (k : Nat) : (s.clearAlarm c src l k).step = s.step :=
  State.of_plain_step (State.clearAlarm_plain s c src l k)
@[simp] theorem State.clearAlarm_isl (s : State) (c src : Nat) (l : List (Nat × Nat)) (k : Nat) : (s.clearAlarm c src l k).isl = s.isl :=
  State.of_plain_isl (State.clearAlarm_plain s c src l k)
@[simp] theorem State.clearAlarm_pwr (s : State) (c src : Nat) (l : List (Nat × Nat)) (k : Nat) : (s.clearAlarm c src l k).pwr = s.pwr :=
  State.of_plain_pwr (State.clearAlarm_plain s c src l k)
@[simp] theorem State.clearAlarm_thrm (s : State) (c src : Nat) (l : List (Nat × Nat)) (k : Nat) : (s.clearAlarm c src l k).thrm = s.thrm :=
  State.of_plain_thrm (State.clearAlarm_plain s c src l k)
@[simp] theorem State.clearAlarm_can (s : State) (c src : Nat) (l : List (Nat × Nat)) (k : Nat) : (s.clearAlarm c src l k).can = s.can :=
  State.of_plain_can (State.clearAlarm_plain s c src l k)
@[simp] theorem State.clearAlarm_eth (s : State) (c src : Nat) (l : List (Nat × Nat)) (k : Nat) : (s.clearAlarm c src l k).eth = s.eth :=
  State.of_plain_eth (State.clearAlarm_plain s c src l k)
@[simp] theorem State.clearAlarm_work (s : State) (c src : Nat) (l : List (Nat × Nat)) (k : Nat) : (s.clearAlarm c src l k).work = s.work :=
  State.of_plain_work (State.clearAlarm_plain s c src l k)
@[simp] theorem State.clearAlarm_pcieAt (s : State) (c src : Nat) (l : List (Nat × Nat)) (k : Nat) : (s.clearAlarm c src l k).pcieAt = s.pcieAt :=
  State.of_plain_pcieAt (State.clearAlarm_plain s c src l k)
@[simp] theorem State.clearAlarm_ethSeq (s : State) (c src : Nat) (l : List (Nat × Nat)) (k : Nat) : (s.clearAlarm c src l k).ethSeq = s.ethSeq :=
  State.of_plain_ethSeq (State.clearAlarm_plain s c src l k)
@[simp] theorem State.clearAlarm_gpioEdge (s : State) (c src : Nat) (l : List (Nat × Nat)) (k : Nat) : (s.clearAlarm c src l k).gpioEdge = s.gpioEdge :=
  State.of_plain_gpioEdge (State.clearAlarm_plain s c src l k)
@[simp] theorem State.clearAlarm_pending (s : State) (c src : Nat) (l : List (Nat × Nat)) (k : Nat) : (s.clearAlarm c src l k).pending = s.pending :=
  State.of_plain_pending (State.clearAlarm_plain s c src l k)

/-! ### send -/

@[simp] theorem State.send_plain (s : State) (n k o : Nat) (l : List Nat) (pm : Pm) : (s.send n k o l pm).plain = s.plain := (State.send_framed (ks := []) s _ _ _ _ _ (.refl _ s)).plain

@[simp] theorem State.send_tfind (s : State) (n k o : Nat) (l : List Nat) (pm : Pm) {j : Nat} (h : noteKey j = false) :
    tfind (s.send n k o l pm).regs j = tfind s.regs j := (State.send_framed (ks := []) s _ _ _ _ _ (.refl _ s)).regs j (by simp) h

@[simp] theorem State.send_get (s : State) (n k o : Nat) (l : List Nat) (pm : Pm) {f : Fld} (b : Nat) (h : noteFld f = false) :
    (s.send n k o l pm).get f b = s.get f b := by
  unfold State.get tget
  rw [State.send_tfind _ _ _ _ _ _ ((noteKey_loc f b).trans h)]

@[simp] theorem State.send_now (s : State) (n k o : Nat) (l : List Nat) (pm : Pm) : (s.send n k o l pm).now = s.now :=
  State.of_plain_now (State.send_plain s n k o l pm)
@[simp] theorem State.send_pts (s : State) (n k o : Nat) (l : List Nat) (pm : Pm) : (s.send n k o l pm).pts = s.pts :=
  State.of_plain_pts (State.send_plain s n k o l pm)
@[simp] theorem State.send_inbox (s : State) (n k o : Nat) (l : List Nat) (pm : Pm) : (s.send n k o l pm).inbox = s.inbox :=
  State.of_plain_inbox (State.send_plain s n k o l pm)
@[simp] theorem State.send_pcie (s : State) (n k o : Nat) (l : List Nat) (pm : Pm) : (s.send n k o l pm).pcie = s.pcie :=
  State.of_plain_pcie (State.send_plain s n k o l pm)
@[simp] theorem State.send_spi (s : State) (n k o : Nat) (l : List Nat) (pm : Pm) : (s.send n k o l pm).spi = s.spi :=
  State.of_plain_spi (State.send_plain s n k o l pm)
@[simp] theorem State.send_msix (s : State) (n k o : Nat) (l : List Nat) (pm : Pm) : (s.send n k o l pm).msix = s.msix :=
  State.of_plain_msix (State.send_plain s n k o l pm)
@[simp] theorem State.send_msixEnable (s : State) (n k o : Nat) (l : List Nat) (pm : Pm) : (s.send n k o l pm).msixEnable = s.msixEnable :=
  State.of_plain_msixEnable (State.send_plain s n k o l pm)
@[simp] theorem State.send_man (s : State) (n k o : Nat) (l : List Nat) (pm : Pm) : (s.send n k o l pm).man = s.man :=
  State.of_plain_man (State.send_plain s n k o l pm)
@[simp] theorem State.send_outHeld (s : State) (n k o : Nat) (l : List Nat) (pm : Pm) : (s.send n k o l pm).outHeld = s.outHeld :=
  State.of_plain_outHeld (State.send_plain s n k o l pm)
@[simp] theorem State.send_mus (s : State) (n k o : Nat) (l : List Nat) (pm : Pm) : (s.send n k o l pm).mus = s.mus :=
  State.of_plain_mus (State.send_plain s n k o l pm)
@[simp] theorem State.send_mnf (s : State) (n k o : Nat) (l : List Nat) (pm : Pm) : (s.send n k o l pm).mnf = s.mnf :=
  State.of_plain_mnf (State.send_plain s n k o l pm)
@[simp] theorem State.send_role (s : State) (n k o : Nat) (l : List Nat) (pm : Pm) : (s.send n k o l pm).role = s.role :=
  State.of_plain_role (State.send_plain s n k o l pm)
@[simp] theorem State.send_tick (s : State) (n k o : Nat) (l : List Nat) (pm : Pm) : (s.send n k o l pm).tick = s.tick :=
  State.of_plain_tick (State.send_plain s n k o l pm)
@[simp] theorem State.send_time (s : State) (n k o : Nat) (l : List Nat) (pm : Pm) : (s.send n k o l pm).time = s.time :=
  State.of_plain_time (State.send_plain s n k o l pm)
@[simp] theorem State.send_twin (s : State) (n k o : Nat) (l : List Nat) (pm : Pm) : (s.send n k o l pm).twin = s.twin :=
  State.of_plain_twin (State.send_plain s n k o l pm)
@[simp] theorem State.send_gnssRet (s : State) (n k o : Nat) (l : List Nat) (pm : Pm) : (s.send n k o l pm).gnssRet = s.gnssRet :=
  State.of_plain_gnssRet (State.send_plain s n k o l pm)
@[simp] theorem State.send_engStopped (s : State) (n k o : Nat) (l : List Nat) (pm : Pm) : (s.send n k o l pm).engStopped = s.engStopped :=
  State.of_plain_engStopped (State.send_plain s n k o l pm)
@[simp] theorem State.send_eccFixed (s : State) (n k o : Nat) (l : List Nat) (pm : Pm) : (s.send n k o l pm).eccFixed = s.eccFixed :=
  State.of_plain_eccFixed (State.send_plain s n k o l pm)
@[simp] theorem State.send_netAged (s : State) (n k o : Nat) (l : List Nat) (pm : Pm) : (s.send n k o l pm).netAged = s.netAged :=
  State.of_plain_netAged (State.send_plain s n k o l pm)
@[simp] theorem State.send_commits (s : State) (n k o : Nat) (l : List Nat) (pm : Pm) : (s.send n k o l pm).commits = s.commits :=
  State.of_plain_commits (State.send_plain s n k o l pm)
@[simp] theorem State.send_gnss (s : State) (n k o : Nat) (l : List Nat) (pm : Pm) : (s.send n k o l pm).gnss = s.gnss :=
  State.of_plain_gnss (State.send_plain s n k o l pm)
@[simp] theorem State.send_est (s : State) (n k o : Nat) (l : List Nat) (pm : Pm) : (s.send n k o l pm).est = s.est :=
  State.of_plain_est (State.send_plain s n k o l pm)
@[simp] theorem State.send_helm (s : State) (n k o : Nat) (l : List Nat) (pm : Pm) : (s.send n k o l pm).helm = s.helm :=
  State.of_plain_helm (State.send_plain s n k o l pm)
@[simp] theorem State.send_alloc (s : State) (n k o : Nat) (l : List Nat) (pm : Pm) : (s.send n k o l pm).alloc = s.alloc :=
  State.of_plain_alloc (State.send_plain s n k o l pm)
@[simp] theorem State.send_yuz (s : State) (n k o : Nat) (l : List Nat) (pm : Pm) : (s.send n k o l pm).yuz = s.yuz :=
  State.of_plain_yuz (State.send_plain s n k o l pm)
@[simp] theorem State.send_loop (s : State) (n k o : Nat) (l : List Nat) (pm : Pm) : (s.send n k o l pm).loop = s.loop :=
  State.of_plain_loop (State.send_plain s n k o l pm)
@[simp] theorem State.send_adc (s : State) (n k o : Nat) (l : List Nat) (pm : Pm) : (s.send n k o l pm).adc = s.adc :=
  State.of_plain_adc (State.send_plain s n k o l pm)
@[simp] theorem State.send_clp (s : State) (n k o : Nat) (l : List Nat) (pm : Pm) : (s.send n k o l pm).clp = s.clp :=
  State.of_plain_clp (State.send_plain s n k o l pm)
@[simp] theorem State.send_step (s : State) (n k o : Nat) (l : List Nat) (pm : Pm) : (s.send n k o l pm).step = s.step :=
  State.of_plain_step (State.send_plain s n k o l pm)
@[simp] theorem State.send_isl (s : State) (n k o : Nat) (l : List Nat) (pm : Pm) : (s.send n k o l pm).isl = s.isl :=
  State.of_plain_isl (State.send_plain s n k o l pm)
@[simp] theorem State.send_pwr (s : State) (n k o : Nat) (l : List Nat) (pm : Pm) : (s.send n k o l pm).pwr = s.pwr :=
  State.of_plain_pwr (State.send_plain s n k o l pm)
@[simp] theorem State.send_thrm (s : State) (n k o : Nat) (l : List Nat) (pm : Pm) : (s.send n k o l pm).thrm = s.thrm :=
  State.of_plain_thrm (State.send_plain s n k o l pm)
@[simp] theorem State.send_can (s : State) (n k o : Nat) (l : List Nat) (pm : Pm) : (s.send n k o l pm).can = s.can :=
  State.of_plain_can (State.send_plain s n k o l pm)
@[simp] theorem State.send_eth (s : State) (n k o : Nat) (l : List Nat) (pm : Pm) : (s.send n k o l pm).eth = s.eth :=
  State.of_plain_eth (State.send_plain s n k o l pm)
@[simp] theorem State.send_work (s : State) (n k o : Nat) (l : List Nat) (pm : Pm) : (s.send n k o l pm).work = s.work :=
  State.of_plain_work (State.send_plain s n k o l pm)
@[simp] theorem State.send_pcieAt (s : State) (n k o : Nat) (l : List Nat) (pm : Pm) : (s.send n k o l pm).pcieAt = s.pcieAt :=
  State.of_plain_pcieAt (State.send_plain s n k o l pm)
@[simp] theorem State.send_ethSeq (s : State) (n k o : Nat) (l : List Nat) (pm : Pm) : (s.send n k o l pm).ethSeq = s.ethSeq :=
  State.of_plain_ethSeq (State.send_plain s n k o l pm)
@[simp] theorem State.send_gpioEdge (s : State) (n k o : Nat) (l : List Nat) (pm : Pm) : (s.send n k o l pm).gpioEdge = s.gpioEdge :=
  State.of_plain_gpioEdge (State.send_plain s n k o l pm)
@[simp] theorem State.send_pending (s : State) (n k o : Nat) (l : List Nat) (pm : Pm) : (s.send n k o l pm).pending = s.pending :=
  State.of_plain_pending (State.send_plain s n k o l pm)

/-! ### result -/

@[simp] theorem State.result_plain (s : State) (a c d e g : Nat) (r : Role) (kid rs : Nat) : (s.result a c d e g r kid rs).plain = s.plain := (State.result_framed (ks := []) s _ _ _ _ _ _ _ _ (.refl _ s)).plain

@[simp] theorem State.result_tfind (s : State) (a c d e g : Nat) (r : Role) (kid rs : Nat) {j : Nat} (h : noteKey j = false) :
    tfind (s.result a c d e g r kid rs).regs j = tfind s.regs j := (State.result_framed (ks := []) s _ _ _ _ _ _ _ _ (.refl _ s)).regs j (by simp) h

@[simp] theorem State.result_get (s : State) (a c d e g : Nat) (r : Role) (kid rs : Nat) {f : Fld} (b : Nat) (h : noteFld f = false) :
    (s.result a c d e g r kid rs).get f b = s.get f b := by
  unfold State.get tget
  rw [State.result_tfind _ _ _ _ _ _ _ _ _ ((noteKey_loc f b).trans h)]

@[simp] theorem State.result_now (s : State) (a c d e g : Nat) (r : Role) (kid rs : Nat) : (s.result a c d e g r kid rs).now = s.now :=
  State.of_plain_now (State.result_plain s a c d e g r kid rs)
@[simp] theorem State.result_pts (s : State) (a c d e g : Nat) (r : Role) (kid rs : Nat) : (s.result a c d e g r kid rs).pts = s.pts :=
  State.of_plain_pts (State.result_plain s a c d e g r kid rs)
@[simp] theorem State.result_inbox (s : State) (a c d e g : Nat) (r : Role) (kid rs : Nat) : (s.result a c d e g r kid rs).inbox = s.inbox :=
  State.of_plain_inbox (State.result_plain s a c d e g r kid rs)
@[simp] theorem State.result_pcie (s : State) (a c d e g : Nat) (r : Role) (kid rs : Nat) : (s.result a c d e g r kid rs).pcie = s.pcie :=
  State.of_plain_pcie (State.result_plain s a c d e g r kid rs)
@[simp] theorem State.result_spi (s : State) (a c d e g : Nat) (r : Role) (kid rs : Nat) : (s.result a c d e g r kid rs).spi = s.spi :=
  State.of_plain_spi (State.result_plain s a c d e g r kid rs)
@[simp] theorem State.result_msix (s : State) (a c d e g : Nat) (r : Role) (kid rs : Nat) : (s.result a c d e g r kid rs).msix = s.msix :=
  State.of_plain_msix (State.result_plain s a c d e g r kid rs)
@[simp] theorem State.result_msixEnable (s : State) (a c d e g : Nat) (r : Role) (kid rs : Nat) : (s.result a c d e g r kid rs).msixEnable = s.msixEnable :=
  State.of_plain_msixEnable (State.result_plain s a c d e g r kid rs)
@[simp] theorem State.result_man (s : State) (a c d e g : Nat) (r : Role) (kid rs : Nat) : (s.result a c d e g r kid rs).man = s.man :=
  State.of_plain_man (State.result_plain s a c d e g r kid rs)
@[simp] theorem State.result_outHeld (s : State) (a c d e g : Nat) (r : Role) (kid rs : Nat) : (s.result a c d e g r kid rs).outHeld = s.outHeld :=
  State.of_plain_outHeld (State.result_plain s a c d e g r kid rs)
@[simp] theorem State.result_mus (s : State) (a c d e g : Nat) (r : Role) (kid rs : Nat) : (s.result a c d e g r kid rs).mus = s.mus :=
  State.of_plain_mus (State.result_plain s a c d e g r kid rs)
@[simp] theorem State.result_mnf (s : State) (a c d e g : Nat) (r : Role) (kid rs : Nat) : (s.result a c d e g r kid rs).mnf = s.mnf :=
  State.of_plain_mnf (State.result_plain s a c d e g r kid rs)
@[simp] theorem State.result_role (s : State) (a c d e g : Nat) (r : Role) (kid rs : Nat) : (s.result a c d e g r kid rs).role = s.role :=
  State.of_plain_role (State.result_plain s a c d e g r kid rs)
@[simp] theorem State.result_tick (s : State) (a c d e g : Nat) (r : Role) (kid rs : Nat) : (s.result a c d e g r kid rs).tick = s.tick :=
  State.of_plain_tick (State.result_plain s a c d e g r kid rs)
@[simp] theorem State.result_time (s : State) (a c d e g : Nat) (r : Role) (kid rs : Nat) : (s.result a c d e g r kid rs).time = s.time :=
  State.of_plain_time (State.result_plain s a c d e g r kid rs)
@[simp] theorem State.result_twin (s : State) (a c d e g : Nat) (r : Role) (kid rs : Nat) : (s.result a c d e g r kid rs).twin = s.twin :=
  State.of_plain_twin (State.result_plain s a c d e g r kid rs)
@[simp] theorem State.result_gnssRet (s : State) (a c d e g : Nat) (r : Role) (kid rs : Nat) : (s.result a c d e g r kid rs).gnssRet = s.gnssRet :=
  State.of_plain_gnssRet (State.result_plain s a c d e g r kid rs)
@[simp] theorem State.result_engStopped (s : State) (a c d e g : Nat) (r : Role) (kid rs : Nat) : (s.result a c d e g r kid rs).engStopped = s.engStopped :=
  State.of_plain_engStopped (State.result_plain s a c d e g r kid rs)
@[simp] theorem State.result_eccFixed (s : State) (a c d e g : Nat) (r : Role) (kid rs : Nat) : (s.result a c d e g r kid rs).eccFixed = s.eccFixed :=
  State.of_plain_eccFixed (State.result_plain s a c d e g r kid rs)
@[simp] theorem State.result_netAged (s : State) (a c d e g : Nat) (r : Role) (kid rs : Nat) : (s.result a c d e g r kid rs).netAged = s.netAged :=
  State.of_plain_netAged (State.result_plain s a c d e g r kid rs)
@[simp] theorem State.result_commits (s : State) (a c d e g : Nat) (r : Role) (kid rs : Nat) : (s.result a c d e g r kid rs).commits = s.commits :=
  State.of_plain_commits (State.result_plain s a c d e g r kid rs)
@[simp] theorem State.result_gnss (s : State) (a c d e g : Nat) (r : Role) (kid rs : Nat) : (s.result a c d e g r kid rs).gnss = s.gnss :=
  State.of_plain_gnss (State.result_plain s a c d e g r kid rs)
@[simp] theorem State.result_est (s : State) (a c d e g : Nat) (r : Role) (kid rs : Nat) : (s.result a c d e g r kid rs).est = s.est :=
  State.of_plain_est (State.result_plain s a c d e g r kid rs)
@[simp] theorem State.result_helm (s : State) (a c d e g : Nat) (r : Role) (kid rs : Nat) : (s.result a c d e g r kid rs).helm = s.helm :=
  State.of_plain_helm (State.result_plain s a c d e g r kid rs)
@[simp] theorem State.result_alloc (s : State) (a c d e g : Nat) (r : Role) (kid rs : Nat) : (s.result a c d e g r kid rs).alloc = s.alloc :=
  State.of_plain_alloc (State.result_plain s a c d e g r kid rs)
@[simp] theorem State.result_yuz (s : State) (a c d e g : Nat) (r : Role) (kid rs : Nat) : (s.result a c d e g r kid rs).yuz = s.yuz :=
  State.of_plain_yuz (State.result_plain s a c d e g r kid rs)
@[simp] theorem State.result_loop (s : State) (a c d e g : Nat) (r : Role) (kid rs : Nat) : (s.result a c d e g r kid rs).loop = s.loop :=
  State.of_plain_loop (State.result_plain s a c d e g r kid rs)
@[simp] theorem State.result_adc (s : State) (a c d e g : Nat) (r : Role) (kid rs : Nat) : (s.result a c d e g r kid rs).adc = s.adc :=
  State.of_plain_adc (State.result_plain s a c d e g r kid rs)
@[simp] theorem State.result_clp (s : State) (a c d e g : Nat) (r : Role) (kid rs : Nat) : (s.result a c d e g r kid rs).clp = s.clp :=
  State.of_plain_clp (State.result_plain s a c d e g r kid rs)
@[simp] theorem State.result_step (s : State) (a c d e g : Nat) (r : Role) (kid rs : Nat) : (s.result a c d e g r kid rs).step = s.step :=
  State.of_plain_step (State.result_plain s a c d e g r kid rs)
@[simp] theorem State.result_isl (s : State) (a c d e g : Nat) (r : Role) (kid rs : Nat) : (s.result a c d e g r kid rs).isl = s.isl :=
  State.of_plain_isl (State.result_plain s a c d e g r kid rs)
@[simp] theorem State.result_pwr (s : State) (a c d e g : Nat) (r : Role) (kid rs : Nat) : (s.result a c d e g r kid rs).pwr = s.pwr :=
  State.of_plain_pwr (State.result_plain s a c d e g r kid rs)
@[simp] theorem State.result_thrm (s : State) (a c d e g : Nat) (r : Role) (kid rs : Nat) : (s.result a c d e g r kid rs).thrm = s.thrm :=
  State.of_plain_thrm (State.result_plain s a c d e g r kid rs)
@[simp] theorem State.result_can (s : State) (a c d e g : Nat) (r : Role) (kid rs : Nat) : (s.result a c d e g r kid rs).can = s.can :=
  State.of_plain_can (State.result_plain s a c d e g r kid rs)
@[simp] theorem State.result_eth (s : State) (a c d e g : Nat) (r : Role) (kid rs : Nat) : (s.result a c d e g r kid rs).eth = s.eth :=
  State.of_plain_eth (State.result_plain s a c d e g r kid rs)
@[simp] theorem State.result_work (s : State) (a c d e g : Nat) (r : Role) (kid rs : Nat) : (s.result a c d e g r kid rs).work = s.work :=
  State.of_plain_work (State.result_plain s a c d e g r kid rs)
@[simp] theorem State.result_pcieAt (s : State) (a c d e g : Nat) (r : Role) (kid rs : Nat) : (s.result a c d e g r kid rs).pcieAt = s.pcieAt :=
  State.of_plain_pcieAt (State.result_plain s a c d e g r kid rs)
@[simp] theorem State.result_ethSeq (s : State) (a c d e g : Nat) (r : Role) (kid rs : Nat) : (s.result a c d e g r kid rs).ethSeq = s.ethSeq :=
  State.of_plain_ethSeq (State.result_plain s a c d e g r kid rs)
@[simp] theorem State.result_gpioEdge (s : State) (a c d e g : Nat) (r : Role) (kid rs : Nat) : (s.result a c d e g r kid rs).gpioEdge = s.gpioEdge :=
  State.of_plain_gpioEdge (State.result_plain s a c d e g r kid rs)
@[simp] theorem State.result_pending (s : State) (a c d e g : Nat) (r : Role) (kid rs : Nat) : (s.result a c d e g r kid rs).pending = s.pending :=
  State.of_plain_pending (State.result_plain s a c d e g r kid rs)

/-! ### timeEvent -/

@[simp] theorem State.timeEvent_plain (s : State) (e : Ev) : (s.timeEvent e).plain = s.plain := (State.timeEvent_framed (ks := []) s _ (.refl _ s)).plain

@[simp] theorem State.timeEvent_tfind (s : State) (e : Ev) {j : Nat} (h : noteKey j = false) :
    tfind (s.timeEvent e).regs j = tfind s.regs j := (State.timeEvent_framed (ks := []) s _ (.refl _ s)).regs j (by simp) h

@[simp] theorem State.timeEvent_get (s : State) (e : Ev) {f : Fld} (b : Nat) (h : noteFld f = false) :
    (s.timeEvent e).get f b = s.get f b := by
  unfold State.get tget
  rw [State.timeEvent_tfind _ _ ((noteKey_loc f b).trans h)]

@[simp] theorem State.timeEvent_now (s : State) (e : Ev) : (s.timeEvent e).now = s.now :=
  State.of_plain_now (State.timeEvent_plain s e)
@[simp] theorem State.timeEvent_pts (s : State) (e : Ev) : (s.timeEvent e).pts = s.pts :=
  State.of_plain_pts (State.timeEvent_plain s e)
@[simp] theorem State.timeEvent_inbox (s : State) (e : Ev) : (s.timeEvent e).inbox = s.inbox :=
  State.of_plain_inbox (State.timeEvent_plain s e)
@[simp] theorem State.timeEvent_pcie (s : State) (e : Ev) : (s.timeEvent e).pcie = s.pcie :=
  State.of_plain_pcie (State.timeEvent_plain s e)
@[simp] theorem State.timeEvent_spi (s : State) (e : Ev) : (s.timeEvent e).spi = s.spi :=
  State.of_plain_spi (State.timeEvent_plain s e)
@[simp] theorem State.timeEvent_msix (s : State) (e : Ev) : (s.timeEvent e).msix = s.msix :=
  State.of_plain_msix (State.timeEvent_plain s e)
@[simp] theorem State.timeEvent_msixEnable (s : State) (e : Ev) : (s.timeEvent e).msixEnable = s.msixEnable :=
  State.of_plain_msixEnable (State.timeEvent_plain s e)
@[simp] theorem State.timeEvent_man (s : State) (e : Ev) : (s.timeEvent e).man = s.man :=
  State.of_plain_man (State.timeEvent_plain s e)
@[simp] theorem State.timeEvent_outHeld (s : State) (e : Ev) : (s.timeEvent e).outHeld = s.outHeld :=
  State.of_plain_outHeld (State.timeEvent_plain s e)
@[simp] theorem State.timeEvent_mus (s : State) (e : Ev) : (s.timeEvent e).mus = s.mus :=
  State.of_plain_mus (State.timeEvent_plain s e)
@[simp] theorem State.timeEvent_mnf (s : State) (e : Ev) : (s.timeEvent e).mnf = s.mnf :=
  State.of_plain_mnf (State.timeEvent_plain s e)
@[simp] theorem State.timeEvent_role (s : State) (e : Ev) : (s.timeEvent e).role = s.role :=
  State.of_plain_role (State.timeEvent_plain s e)
@[simp] theorem State.timeEvent_tick (s : State) (e : Ev) : (s.timeEvent e).tick = s.tick :=
  State.of_plain_tick (State.timeEvent_plain s e)
@[simp] theorem State.timeEvent_time (s : State) (e : Ev) : (s.timeEvent e).time = s.time :=
  State.of_plain_time (State.timeEvent_plain s e)
@[simp] theorem State.timeEvent_twin (s : State) (e : Ev) : (s.timeEvent e).twin = s.twin :=
  State.of_plain_twin (State.timeEvent_plain s e)
@[simp] theorem State.timeEvent_gnssRet (s : State) (e : Ev) : (s.timeEvent e).gnssRet = s.gnssRet :=
  State.of_plain_gnssRet (State.timeEvent_plain s e)
@[simp] theorem State.timeEvent_engStopped (s : State) (e : Ev) : (s.timeEvent e).engStopped = s.engStopped :=
  State.of_plain_engStopped (State.timeEvent_plain s e)
@[simp] theorem State.timeEvent_eccFixed (s : State) (e : Ev) : (s.timeEvent e).eccFixed = s.eccFixed :=
  State.of_plain_eccFixed (State.timeEvent_plain s e)
@[simp] theorem State.timeEvent_netAged (s : State) (e : Ev) : (s.timeEvent e).netAged = s.netAged :=
  State.of_plain_netAged (State.timeEvent_plain s e)
@[simp] theorem State.timeEvent_commits (s : State) (e : Ev) : (s.timeEvent e).commits = s.commits :=
  State.of_plain_commits (State.timeEvent_plain s e)
@[simp] theorem State.timeEvent_gnss (s : State) (e : Ev) : (s.timeEvent e).gnss = s.gnss :=
  State.of_plain_gnss (State.timeEvent_plain s e)
@[simp] theorem State.timeEvent_est (s : State) (e : Ev) : (s.timeEvent e).est = s.est :=
  State.of_plain_est (State.timeEvent_plain s e)
@[simp] theorem State.timeEvent_helm (s : State) (e : Ev) : (s.timeEvent e).helm = s.helm :=
  State.of_plain_helm (State.timeEvent_plain s e)
@[simp] theorem State.timeEvent_alloc (s : State) (e : Ev) : (s.timeEvent e).alloc = s.alloc :=
  State.of_plain_alloc (State.timeEvent_plain s e)
@[simp] theorem State.timeEvent_yuz (s : State) (e : Ev) : (s.timeEvent e).yuz = s.yuz :=
  State.of_plain_yuz (State.timeEvent_plain s e)
@[simp] theorem State.timeEvent_loop (s : State) (e : Ev) : (s.timeEvent e).loop = s.loop :=
  State.of_plain_loop (State.timeEvent_plain s e)
@[simp] theorem State.timeEvent_adc (s : State) (e : Ev) : (s.timeEvent e).adc = s.adc :=
  State.of_plain_adc (State.timeEvent_plain s e)
@[simp] theorem State.timeEvent_clp (s : State) (e : Ev) : (s.timeEvent e).clp = s.clp :=
  State.of_plain_clp (State.timeEvent_plain s e)
@[simp] theorem State.timeEvent_step (s : State) (e : Ev) : (s.timeEvent e).step = s.step :=
  State.of_plain_step (State.timeEvent_plain s e)
@[simp] theorem State.timeEvent_isl (s : State) (e : Ev) : (s.timeEvent e).isl = s.isl :=
  State.of_plain_isl (State.timeEvent_plain s e)
@[simp] theorem State.timeEvent_pwr (s : State) (e : Ev) : (s.timeEvent e).pwr = s.pwr :=
  State.of_plain_pwr (State.timeEvent_plain s e)
@[simp] theorem State.timeEvent_thrm (s : State) (e : Ev) : (s.timeEvent e).thrm = s.thrm :=
  State.of_plain_thrm (State.timeEvent_plain s e)
@[simp] theorem State.timeEvent_can (s : State) (e : Ev) : (s.timeEvent e).can = s.can :=
  State.of_plain_can (State.timeEvent_plain s e)
@[simp] theorem State.timeEvent_eth (s : State) (e : Ev) : (s.timeEvent e).eth = s.eth :=
  State.of_plain_eth (State.timeEvent_plain s e)
@[simp] theorem State.timeEvent_work (s : State) (e : Ev) : (s.timeEvent e).work = s.work :=
  State.of_plain_work (State.timeEvent_plain s e)
@[simp] theorem State.timeEvent_pcieAt (s : State) (e : Ev) : (s.timeEvent e).pcieAt = s.pcieAt :=
  State.of_plain_pcieAt (State.timeEvent_plain s e)
@[simp] theorem State.timeEvent_ethSeq (s : State) (e : Ev) : (s.timeEvent e).ethSeq = s.ethSeq :=
  State.of_plain_ethSeq (State.timeEvent_plain s e)
@[simp] theorem State.timeEvent_gpioEdge (s : State) (e : Ev) : (s.timeEvent e).gpioEdge = s.gpioEdge :=
  State.of_plain_gpioEdge (State.timeEvent_plain s e)
@[simp] theorem State.timeEvent_pending (s : State) (e : Ev) : (s.timeEvent e).pending = s.pending :=
  State.of_plain_pending (State.timeEvent_plain s e)

/-! ### rwlIgnored -/

@[simp] theorem State.rwlIgnored_plain (s : State) (p : Port) (o : Nat) : (s.rwlIgnored p o).plain = s.plain := (State.rwlIgnored_framed (ks := []) s _ _ (.refl _ s)).plain

@[simp] theorem State.rwlIgnored_tfind (s : State) (p : Port) (o : Nat) {j : Nat} (h : noteKey j = false) :
    tfind (s.rwlIgnored p o).regs j = tfind s.regs j := (State.rwlIgnored_framed (ks := []) s _ _ (.refl _ s)).regs j (by simp) h

@[simp] theorem State.rwlIgnored_get (s : State) (p : Port) (o : Nat) {f : Fld} (b : Nat) (h : noteFld f = false) :
    (s.rwlIgnored p o).get f b = s.get f b := by
  unfold State.get tget
  rw [State.rwlIgnored_tfind _ _ _ ((noteKey_loc f b).trans h)]

@[simp] theorem State.rwlIgnored_now (s : State) (p : Port) (o : Nat) : (s.rwlIgnored p o).now = s.now :=
  State.of_plain_now (State.rwlIgnored_plain s p o)
@[simp] theorem State.rwlIgnored_pts (s : State) (p : Port) (o : Nat) : (s.rwlIgnored p o).pts = s.pts :=
  State.of_plain_pts (State.rwlIgnored_plain s p o)
@[simp] theorem State.rwlIgnored_inbox (s : State) (p : Port) (o : Nat) : (s.rwlIgnored p o).inbox = s.inbox :=
  State.of_plain_inbox (State.rwlIgnored_plain s p o)
@[simp] theorem State.rwlIgnored_pcie (s : State) (p : Port) (o : Nat) : (s.rwlIgnored p o).pcie = s.pcie :=
  State.of_plain_pcie (State.rwlIgnored_plain s p o)
@[simp] theorem State.rwlIgnored_spi (s : State) (p : Port) (o : Nat) : (s.rwlIgnored p o).spi = s.spi :=
  State.of_plain_spi (State.rwlIgnored_plain s p o)
@[simp] theorem State.rwlIgnored_msix (s : State) (p : Port) (o : Nat) : (s.rwlIgnored p o).msix = s.msix :=
  State.of_plain_msix (State.rwlIgnored_plain s p o)
@[simp] theorem State.rwlIgnored_msixEnable (s : State) (p : Port) (o : Nat) : (s.rwlIgnored p o).msixEnable = s.msixEnable :=
  State.of_plain_msixEnable (State.rwlIgnored_plain s p o)
@[simp] theorem State.rwlIgnored_man (s : State) (p : Port) (o : Nat) : (s.rwlIgnored p o).man = s.man :=
  State.of_plain_man (State.rwlIgnored_plain s p o)
@[simp] theorem State.rwlIgnored_outHeld (s : State) (p : Port) (o : Nat) : (s.rwlIgnored p o).outHeld = s.outHeld :=
  State.of_plain_outHeld (State.rwlIgnored_plain s p o)
@[simp] theorem State.rwlIgnored_mus (s : State) (p : Port) (o : Nat) : (s.rwlIgnored p o).mus = s.mus :=
  State.of_plain_mus (State.rwlIgnored_plain s p o)
@[simp] theorem State.rwlIgnored_mnf (s : State) (p : Port) (o : Nat) : (s.rwlIgnored p o).mnf = s.mnf :=
  State.of_plain_mnf (State.rwlIgnored_plain s p o)
@[simp] theorem State.rwlIgnored_role (s : State) (p : Port) (o : Nat) : (s.rwlIgnored p o).role = s.role :=
  State.of_plain_role (State.rwlIgnored_plain s p o)
@[simp] theorem State.rwlIgnored_tick (s : State) (p : Port) (o : Nat) : (s.rwlIgnored p o).tick = s.tick :=
  State.of_plain_tick (State.rwlIgnored_plain s p o)
@[simp] theorem State.rwlIgnored_time (s : State) (p : Port) (o : Nat) : (s.rwlIgnored p o).time = s.time :=
  State.of_plain_time (State.rwlIgnored_plain s p o)
@[simp] theorem State.rwlIgnored_twin (s : State) (p : Port) (o : Nat) : (s.rwlIgnored p o).twin = s.twin :=
  State.of_plain_twin (State.rwlIgnored_plain s p o)
@[simp] theorem State.rwlIgnored_gnssRet (s : State) (p : Port) (o : Nat) : (s.rwlIgnored p o).gnssRet = s.gnssRet :=
  State.of_plain_gnssRet (State.rwlIgnored_plain s p o)
@[simp] theorem State.rwlIgnored_engStopped (s : State) (p : Port) (o : Nat) : (s.rwlIgnored p o).engStopped = s.engStopped :=
  State.of_plain_engStopped (State.rwlIgnored_plain s p o)
@[simp] theorem State.rwlIgnored_eccFixed (s : State) (p : Port) (o : Nat) : (s.rwlIgnored p o).eccFixed = s.eccFixed :=
  State.of_plain_eccFixed (State.rwlIgnored_plain s p o)
@[simp] theorem State.rwlIgnored_netAged (s : State) (p : Port) (o : Nat) : (s.rwlIgnored p o).netAged = s.netAged :=
  State.of_plain_netAged (State.rwlIgnored_plain s p o)
@[simp] theorem State.rwlIgnored_commits (s : State) (p : Port) (o : Nat) : (s.rwlIgnored p o).commits = s.commits :=
  State.of_plain_commits (State.rwlIgnored_plain s p o)
@[simp] theorem State.rwlIgnored_gnss (s : State) (p : Port) (o : Nat) : (s.rwlIgnored p o).gnss = s.gnss :=
  State.of_plain_gnss (State.rwlIgnored_plain s p o)
@[simp] theorem State.rwlIgnored_est (s : State) (p : Port) (o : Nat) : (s.rwlIgnored p o).est = s.est :=
  State.of_plain_est (State.rwlIgnored_plain s p o)
@[simp] theorem State.rwlIgnored_helm (s : State) (p : Port) (o : Nat) : (s.rwlIgnored p o).helm = s.helm :=
  State.of_plain_helm (State.rwlIgnored_plain s p o)
@[simp] theorem State.rwlIgnored_alloc (s : State) (p : Port) (o : Nat) : (s.rwlIgnored p o).alloc = s.alloc :=
  State.of_plain_alloc (State.rwlIgnored_plain s p o)
@[simp] theorem State.rwlIgnored_yuz (s : State) (p : Port) (o : Nat) : (s.rwlIgnored p o).yuz = s.yuz :=
  State.of_plain_yuz (State.rwlIgnored_plain s p o)
@[simp] theorem State.rwlIgnored_loop (s : State) (p : Port) (o : Nat) : (s.rwlIgnored p o).loop = s.loop :=
  State.of_plain_loop (State.rwlIgnored_plain s p o)
@[simp] theorem State.rwlIgnored_adc (s : State) (p : Port) (o : Nat) : (s.rwlIgnored p o).adc = s.adc :=
  State.of_plain_adc (State.rwlIgnored_plain s p o)
@[simp] theorem State.rwlIgnored_clp (s : State) (p : Port) (o : Nat) : (s.rwlIgnored p o).clp = s.clp :=
  State.of_plain_clp (State.rwlIgnored_plain s p o)
@[simp] theorem State.rwlIgnored_step (s : State) (p : Port) (o : Nat) : (s.rwlIgnored p o).step = s.step :=
  State.of_plain_step (State.rwlIgnored_plain s p o)
@[simp] theorem State.rwlIgnored_isl (s : State) (p : Port) (o : Nat) : (s.rwlIgnored p o).isl = s.isl :=
  State.of_plain_isl (State.rwlIgnored_plain s p o)
@[simp] theorem State.rwlIgnored_pwr (s : State) (p : Port) (o : Nat) : (s.rwlIgnored p o).pwr = s.pwr :=
  State.of_plain_pwr (State.rwlIgnored_plain s p o)
@[simp] theorem State.rwlIgnored_thrm (s : State) (p : Port) (o : Nat) : (s.rwlIgnored p o).thrm = s.thrm :=
  State.of_plain_thrm (State.rwlIgnored_plain s p o)
@[simp] theorem State.rwlIgnored_can (s : State) (p : Port) (o : Nat) : (s.rwlIgnored p o).can = s.can :=
  State.of_plain_can (State.rwlIgnored_plain s p o)
@[simp] theorem State.rwlIgnored_eth (s : State) (p : Port) (o : Nat) : (s.rwlIgnored p o).eth = s.eth :=
  State.of_plain_eth (State.rwlIgnored_plain s p o)
@[simp] theorem State.rwlIgnored_work (s : State) (p : Port) (o : Nat) : (s.rwlIgnored p o).work = s.work :=
  State.of_plain_work (State.rwlIgnored_plain s p o)
@[simp] theorem State.rwlIgnored_pcieAt (s : State) (p : Port) (o : Nat) : (s.rwlIgnored p o).pcieAt = s.pcieAt :=
  State.of_plain_pcieAt (State.rwlIgnored_plain s p o)
@[simp] theorem State.rwlIgnored_ethSeq (s : State) (p : Port) (o : Nat) : (s.rwlIgnored p o).ethSeq = s.ethSeq :=
  State.of_plain_ethSeq (State.rwlIgnored_plain s p o)
@[simp] theorem State.rwlIgnored_gpioEdge (s : State) (p : Port) (o : Nat) : (s.rwlIgnored p o).gpioEdge = s.gpioEdge :=
  State.of_plain_gpioEdge (State.rwlIgnored_plain s p o)
@[simp] theorem State.rwlIgnored_pending (s : State) (p : Port) (o : Nat) : (s.rwlIgnored p o).pending = s.pending :=
  State.of_plain_pending (State.rwlIgnored_plain s p o)

/-! ### Event bits -/

@[simp] theorem State.evt_plain (s : State) (f : Fld) (b : Nat) : (s.evt f b).plain = s.plain := by
  rw [State.evt_eq, State.raise_plain]
  rfl

theorem State.evt_tfind (s : State) (f : Fld) (b : Nat) {j : Nat} (h : noteKey j = false) (hj : j ≠ loc f b) :
    tfind (s.evt f b).regs j = tfind s.regs j := by
  rw [State.evt_eq, State.raise_tfind _ _ h, State.tfind_set_ne _ _ _ _ hj]

@[simp] theorem State.evt_get_same (s : State) (f : Fld) (b : Nat) (h : noteFld f = false) :
    (s.evt f b).get f b = 1 % 2 ^ f.width := by
  rw [State.evt_eq, State.raise_get _ _ _ h, State.get_set_same]

@[simp] theorem State.evt_get_ne (s : State) (f : Fld) (b : Nat) {g : Fld} {c : Nat} (h : noteFld g = false)
    (hg : fkey g ≠ fkey f) : (s.evt f b).get g c = s.get g c := by
  rw [State.evt_eq, State.raise_get _ _ _ h, State.get_set_ne _ _ _ _ hg]

@[simp] theorem State.evt_now (s : State) (f : Fld) (b : Nat) : (s.evt f b).now = s.now :=
  State.of_plain_now (State.evt_plain s f b)
@[simp] theorem State.evt_pts (s : State) (f : Fld) (b : Nat) : (s.evt f b).pts = s.pts :=
  State.of_plain_pts (State.evt_plain s f b)
@[simp] theorem State.evt_inbox (s : State) (f : Fld) (b : Nat) : (s.evt f b).inbox = s.inbox :=
  State.of_plain_inbox (State.evt_plain s f b)
@[simp] theorem State.evt_pcie (s : State) (f : Fld) (b : Nat) : (s.evt f b).pcie = s.pcie :=
  State.of_plain_pcie (State.evt_plain s f b)
@[simp] theorem State.evt_spi (s : State) (f : Fld) (b : Nat) : (s.evt f b).spi = s.spi :=
  State.of_plain_spi (State.evt_plain s f b)
@[simp] theorem State.evt_msix (s : State) (f : Fld) (b : Nat) : (s.evt f b).msix = s.msix :=
  State.of_plain_msix (State.evt_plain s f b)
@[simp] theorem State.evt_msixEnable (s : State) (f : Fld) (b : Nat) : (s.evt f b).msixEnable = s.msixEnable :=
  State.of_plain_msixEnable (State.evt_plain s f b)
@[simp] theorem State.evt_man (s : State) (f : Fld) (b : Nat) : (s.evt f b).man = s.man :=
  State.of_plain_man (State.evt_plain s f b)
@[simp] theorem State.evt_outHeld (s : State) (f : Fld) (b : Nat) : (s.evt f b).outHeld = s.outHeld :=
  State.of_plain_outHeld (State.evt_plain s f b)
@[simp] theorem State.evt_mus (s : State) (f : Fld) (b : Nat) : (s.evt f b).mus = s.mus :=
  State.of_plain_mus (State.evt_plain s f b)
@[simp] theorem State.evt_mnf (s : State) (f : Fld) (b : Nat) : (s.evt f b).mnf = s.mnf :=
  State.of_plain_mnf (State.evt_plain s f b)
@[simp] theorem State.evt_role (s : State) (f : Fld) (b : Nat) : (s.evt f b).role = s.role :=
  State.of_plain_role (State.evt_plain s f b)
@[simp] theorem State.evt_tick (s : State) (f : Fld) (b : Nat) : (s.evt f b).tick = s.tick :=
  State.of_plain_tick (State.evt_plain s f b)
@[simp] theorem State.evt_time (s : State) (f : Fld) (b : Nat) : (s.evt f b).time = s.time :=
  State.of_plain_time (State.evt_plain s f b)
@[simp] theorem State.evt_twin (s : State) (f : Fld) (b : Nat) : (s.evt f b).twin = s.twin :=
  State.of_plain_twin (State.evt_plain s f b)
@[simp] theorem State.evt_gnssRet (s : State) (f : Fld) (b : Nat) : (s.evt f b).gnssRet = s.gnssRet :=
  State.of_plain_gnssRet (State.evt_plain s f b)
@[simp] theorem State.evt_engStopped (s : State) (f : Fld) (b : Nat) : (s.evt f b).engStopped = s.engStopped :=
  State.of_plain_engStopped (State.evt_plain s f b)
@[simp] theorem State.evt_eccFixed (s : State) (f : Fld) (b : Nat) : (s.evt f b).eccFixed = s.eccFixed :=
  State.of_plain_eccFixed (State.evt_plain s f b)
@[simp] theorem State.evt_netAged (s : State) (f : Fld) (b : Nat) : (s.evt f b).netAged = s.netAged :=
  State.of_plain_netAged (State.evt_plain s f b)
@[simp] theorem State.evt_commits (s : State) (f : Fld) (b : Nat) : (s.evt f b).commits = s.commits :=
  State.of_plain_commits (State.evt_plain s f b)
@[simp] theorem State.evt_gnss (s : State) (f : Fld) (b : Nat) : (s.evt f b).gnss = s.gnss :=
  State.of_plain_gnss (State.evt_plain s f b)
@[simp] theorem State.evt_est (s : State) (f : Fld) (b : Nat) : (s.evt f b).est = s.est :=
  State.of_plain_est (State.evt_plain s f b)
@[simp] theorem State.evt_helm (s : State) (f : Fld) (b : Nat) : (s.evt f b).helm = s.helm :=
  State.of_plain_helm (State.evt_plain s f b)
@[simp] theorem State.evt_alloc (s : State) (f : Fld) (b : Nat) : (s.evt f b).alloc = s.alloc :=
  State.of_plain_alloc (State.evt_plain s f b)
@[simp] theorem State.evt_yuz (s : State) (f : Fld) (b : Nat) : (s.evt f b).yuz = s.yuz :=
  State.of_plain_yuz (State.evt_plain s f b)
@[simp] theorem State.evt_loop (s : State) (f : Fld) (b : Nat) : (s.evt f b).loop = s.loop :=
  State.of_plain_loop (State.evt_plain s f b)
@[simp] theorem State.evt_adc (s : State) (f : Fld) (b : Nat) : (s.evt f b).adc = s.adc :=
  State.of_plain_adc (State.evt_plain s f b)
@[simp] theorem State.evt_clp (s : State) (f : Fld) (b : Nat) : (s.evt f b).clp = s.clp :=
  State.of_plain_clp (State.evt_plain s f b)
@[simp] theorem State.evt_step (s : State) (f : Fld) (b : Nat) : (s.evt f b).step = s.step :=
  State.of_plain_step (State.evt_plain s f b)
@[simp] theorem State.evt_isl (s : State) (f : Fld) (b : Nat) : (s.evt f b).isl = s.isl :=
  State.of_plain_isl (State.evt_plain s f b)
@[simp] theorem State.evt_pwr (s : State) (f : Fld) (b : Nat) : (s.evt f b).pwr = s.pwr :=
  State.of_plain_pwr (State.evt_plain s f b)
@[simp] theorem State.evt_thrm (s : State) (f : Fld) (b : Nat) : (s.evt f b).thrm = s.thrm :=
  State.of_plain_thrm (State.evt_plain s f b)
@[simp] theorem State.evt_can (s : State) (f : Fld) (b : Nat) : (s.evt f b).can = s.can :=
  State.of_plain_can (State.evt_plain s f b)
@[simp] theorem State.evt_eth (s : State) (f : Fld) (b : Nat) : (s.evt f b).eth = s.eth :=
  State.of_plain_eth (State.evt_plain s f b)
@[simp] theorem State.evt_work (s : State) (f : Fld) (b : Nat) : (s.evt f b).work = s.work :=
  State.of_plain_work (State.evt_plain s f b)
@[simp] theorem State.evt_pcieAt (s : State) (f : Fld) (b : Nat) : (s.evt f b).pcieAt = s.pcieAt :=
  State.of_plain_pcieAt (State.evt_plain s f b)
@[simp] theorem State.evt_ethSeq (s : State) (f : Fld) (b : Nat) : (s.evt f b).ethSeq = s.ethSeq :=
  State.of_plain_ethSeq (State.evt_plain s f b)
@[simp] theorem State.evt_gpioEdge (s : State) (f : Fld) (b : Nat) : (s.evt f b).gpioEdge = s.gpioEdge :=
  State.of_plain_gpioEdge (State.evt_plain s f b)
@[simp] theorem State.evt_pending (s : State) (f : Fld) (b : Nat) : (s.evt f b).pending = s.pending :=
  State.of_plain_pending (State.evt_plain s f b)

end Sys2Proof.Machine
end

