-- ==== Sys2Proof/Laws/Roles.lean ====
section
/-!
SUPPORT. Waking from LULL3, the session of a port, and a write that needs a role: everything each of them can do.
-/

set_option Elab.async false

namespace Sys2Proof.Machine

open Sys2Proof

/-! ### Waking from LULL3 -/

/-- A field that waking leaves alone. -/
def lullKeeps (f : Fld) : Bool := !(lullFlds.map fkey).contains (fkey f) && !noteFld f

/-- Waking changes the Lull state, its own registers, and what is told of it. -/
theorem State.lullLeave_framed (s : State) (c : Nat) :
    Framed (regKeys 0 lullFlds) { s with pwr := (s.lullLeave c).pwr } (s.lullLeave c) := by
  unfold State.lullLeave
  split
  · exact ⟨rfl, fun _ _ _ => rfl⟩
  · split
    · exact ⟨rfl, fun _ _ _ => rfl⟩
    · unfold State.lullExit
      split
      · exact ⟨rfl, fun _ _ _ => rfl⟩
      · dsimp only
        refine State.record_framed _ _ (State.evt_framed _ _ _ (.inl (by simp [regKeys, lullFlds])) ?_)
        rw [State.setSat_eq]
        refine set_framed _ _ _ _ (.inl (by simp [regKeys, lullFlds]))
          (set_framed _ _ _ _ (.inl (by simp [regKeys, lullFlds])) ⟨?_, fun _ _ _ => rfl⟩)
        simp [State.plain, State.evt_eq]

@[simp] theorem State.lullLeave_get (s : State) (c : Nat) {f : Fld} (b : Nat) (h : lullKeeps f = true) :
    (s.lullLeave c).get f b = s.get f b := by
  have hf := (State.lullLeave_framed s c).regs (loc f b)
  unfold State.get tget
  simp only [lullKeeps, lullFlds, List.map_cons, List.map_nil, List.contains_cons, List.contains_nil, Bool.or_false,
    Bool.and_eq_true, Bool.not_eq_true', Bool.or_eq_false_iff, beq_eq_false_iff_ne] at h
  rw [hf ?_ ((noteKey_loc f b).trans h.2)]
  simp only [regKeys, lullFlds, List.map_cons, List.map_nil, List.mem_cons, List.not_mem_nil, or_false, not_or]
  exact ⟨loc_ne h.1.1 0 b, loc_ne h.1.2.1 0 b, loc_ne h.1.2.2 0 b⟩

@[simp] theorem State.lullLeave_now (s : State) (c : Nat) : (s.lullLeave c).now = s.now :=
  (State.of_plain_now (State.lullLeave_framed s c).plain :)
@[simp] theorem State.lullLeave_pts (s : State) (c : Nat) : (s.lullLeave c).pts = s.pts :=
  (State.of_plain_pts (State.lullLeave_framed s c).plain :)
@[simp] theorem State.lullLeave_inbox (s : State) (c : Nat) : (s.lullLeave c).inbox = s.inbox :=
  (State.of_plain_inbox (State.lullLeave_framed s c).plain :)
@[simp] theorem State.lullLeave_pcie (s : State) (c : Nat) : (s.lullLeave c).pcie = s.pcie :=
  (State.of_plain_pcie (State.lullLeave_framed s c).plain :)
@[simp] theorem State.lullLeave_spi (s : State) (c : Nat) : (s.lullLeave c).spi = s.spi :=
  (State.of_plain_spi (State.lullLeave_framed s c).plain :)
@[simp] theorem State.lullLeave_msix (s : State) (c : Nat) : (s.lullLeave c).msix = s.msix :=
  (State.of_plain_msix (State.lullLeave_framed s c).plain :)
@[simp] theorem State.lullLeave_msixEnable (s : State) (c : Nat) : (s.lullLeave c).msixEnable = s.msixEnable :=
  (State.of_plain_msixEnable (State.lullLeave_framed s c).plain :)
@[simp] theorem State.lullLeave_man (s : State) (c : Nat) : (s.lullLeave c).man = s.man :=
  (State.of_plain_man (State.lullLeave_framed s c).plain :)
@[simp] theorem State.lullLeave_outHeld (s : State) (c : Nat) : (s.lullLeave c).outHeld = s.outHeld :=
  (State.of_plain_outHeld (State.lullLeave_framed s c).plain :)
@[simp] theorem State.lullLeave_mus (s : State) (c : Nat) : (s.lullLeave c).mus = s.mus :=
  (State.of_plain_mus (State.lullLeave_framed s c).plain :)
@[simp] theorem State.lullLeave_mnf (s : State) (c : Nat) : (s.lullLeave c).mnf = s.mnf :=
  (State.of_plain_mnf (State.lullLeave_framed s c).plain :)
@[simp] theorem State.lullLeave_role (s : State) (c : Nat) : (s.lullLeave c).role = s.role :=
  (State.of_plain_role (State.lullLeave_framed s c).plain :)
@[simp] theorem State.lullLeave_tick (s : State) (c : Nat) : (s.lullLeave c).tick = s.tick :=
  (State.of_plain_tick (State.lullLeave_framed s c).plain :)
@[simp] theorem State.lullLeave_time (s : State) (c : Nat) : (s.lullLeave c).time = s.time :=
  (State.of_plain_time (State.lullLeave_framed s c).plain :)
@[simp] theorem State.lullLeave_twin (s : State) (c : Nat) : (s.lullLeave c).twin = s.twin :=
  (State.of_plain_twin (State.lullLeave_framed s c).plain :)
@[simp] theorem State.lullLeave_gnssRet (s : State) (c : Nat) : (s.lullLeave c).gnssRet = s.gnssRet :=
  (State.of_plain_gnssRet (State.lullLeave_framed s c).plain :)
@[simp] theorem State.lullLeave_engStopped (s : State) (c : Nat) : (s.lullLeave c).engStopped = s.engStopped :=
  (State.of_plain_engStopped (State.lullLeave_framed s c).plain :)
@[simp] theorem State.lullLeave_eccFixed (s : State) (c : Nat) : (s.lullLeave c).eccFixed = s.eccFixed :=
  (State.of_plain_eccFixed (State.lullLeave_framed s c).plain :)
@[simp] theorem State.lullLeave_netAged (s : State) (c : Nat) : (s.lullLeave c).netAged = s.netAged :=
  (State.of_plain_netAged (State.lullLeave_framed s c).plain :)
@[simp] theorem State.lullLeave_commits (s : State) (c : Nat) : (s.lullLeave c).commits = s.commits :=
  (State.of_plain_commits (State.lullLeave_framed s c).plain :)
@[simp] theorem State.lullLeave_gnss (s : State) (c : Nat) : (s.lullLeave c).gnss = s.gnss :=
  (State.of_plain_gnss (State.lullLeave_framed s c).plain :)
@[simp] theorem State.lullLeave_est (s : State) (c : Nat) : (s.lullLeave c).est = s.est :=
  (State.of_plain_est (State.lullLeave_framed s c).plain :)
@[simp] theorem State.lullLeave_helm (s : State) (c : Nat) : (s.lullLeave c).helm = s.helm :=
  (State.of_plain_helm (State.lullLeave_framed s c).plain :)
@[simp] theorem State.lullLeave_alloc (s : State) (c : Nat) : (s.lullLeave c).alloc = s.alloc :=
  (State.of_plain_alloc (State.lullLeave_framed s c).plain :)
@[simp] theorem State.lullLeave_yuz (s : State) (c : Nat) : (s.lullLeave c).yuz = s.yuz :=
  (State.of_plain_yuz (State.lullLeave_framed s c).plain :)
@[simp] theorem State.lullLeave_loop (s : State) (c : Nat) : (s.lullLeave c).loop = s.loop :=
  (State.of_plain_loop (State.lullLeave_framed s c).plain :)
@[simp] theorem State.lullLeave_adc (s : State) (c : Nat) : (s.lullLeave c).adc = s.adc :=
  (State.of_plain_adc (State.lullLeave_framed s c).plain :)
@[simp] theorem State.lullLeave_clp (s : State) (c : Nat) : (s.lullLeave c).clp = s.clp :=
  (State.of_plain_clp (State.lullLeave_framed s c).plain :)
@[simp] theorem State.lullLeave_step (s : State) (c : Nat) : (s.lullLeave c).step = s.step :=
  (State.of_plain_step (State.lullLeave_framed s c).plain :)
@[simp] theorem State.lullLeave_isl (s : State) (c : Nat) : (s.lullLeave c).isl = s.isl :=
  (State.of_plain_isl (State.lullLeave_framed s c).plain :)
@[simp] theorem State.lullLeave_thrm (s : State) (c : Nat) : (s.lullLeave c).thrm = s.thrm :=
  (State.of_plain_thrm (State.lullLeave_framed s c).plain :)
@[simp] theorem State.lullLeave_can (s : State) (c : Nat) : (s.lullLeave c).can = s.can :=
  (State.of_plain_can (State.lullLeave_framed s c).plain :)
@[simp] theorem State.lullLeave_eth (s : State) (c : Nat) : (s.lullLeave c).eth = s.eth :=
  (State.of_plain_eth (State.lullLeave_framed s c).plain :)
@[simp] theorem State.lullLeave_work (s : State) (c : Nat) : (s.lullLeave c).work = s.work :=
  (State.of_plain_work (State.lullLeave_framed s c).plain :)
@[simp] theorem State.lullLeave_pcieAt (s : State) (c : Nat) : (s.lullLeave c).pcieAt = s.pcieAt :=
  (State.of_plain_pcieAt (State.lullLeave_framed s c).plain :)
@[simp] theorem State.lullLeave_ethSeq (s : State) (c : Nat) : (s.lullLeave c).ethSeq = s.ethSeq :=
  (State.of_plain_ethSeq (State.lullLeave_framed s c).plain :)
@[simp] theorem State.lullLeave_gpioEdge (s : State) (c : Nat) : (s.lullLeave c).gpioEdge = s.gpioEdge :=
  (State.of_plain_gpioEdge (State.lullLeave_framed s c).plain :)
@[simp] theorem State.lullLeave_pending (s : State) (c : Nat) : (s.lullLeave c).pending = s.pending :=
  (State.of_plain_pending (State.lullLeave_framed s c).plain :)

theorem State.lullLeave_awake (s : State) (c : Nat) (h : s.pwr.l3 ≠ 1) : s.lullLeave c = s := by
  unfold State.lullLeave
  rw [if_pos h]

/-! ### Sessions -/

@[simp] theorem State.advance_session (s : State) (dt : Nat) (p : Port) : (s.advance dt).session p = s.session p := rfl

@[simp] theorem State.lullLeave_session (s : State) (c : Nat) (p : Port) : (s.lullLeave c).session p = s.session p := by
  unfold State.session
  rw [State.lullLeave_get s c 0 (by decide), State.lullLeave_role]

@[simp] theorem State.lullLeave_actor (s : State) (c : Nat) (p : Port) : (s.lullLeave c).actor p = s.actor p := by
  unfold State.actor
  rw [State.lullLeave_session, State.lullLeave_role]

/-- A write to an RWL field in a session of one of its roles takes effect, and the idle time starts afresh (R83). -/
theorem State.withRole_granted (s : State) (p : Port) (roles : List Role) (off : Nat) (act : State → State) (r : Role)
    (h : s.session p = some r) (hr : r ∈ roles) :
    s.withRole p roles off act = act { s.lullLeave 1 with role := { s.role with rwlAt := s.now } } := by
  unfold State.withRole
  dsimp only
  rw [State.lullLeave_session, h]
  simp [hr]

/-- Any other is ignored and recorded (R9). -/
theorem State.withRole_denied (s : State) (p : Port) (roles : List Role) (off : Nat) (act : State → State)
    (h : ∀ r, s.session p = some r → r ∉ roles) : s.withRole p roles off act = (s.lullLeave 1).rwlIgnored p off := by
  unfold State.withRole
  dsimp only
  rw [State.lullLeave_session]
  split
  · rename_i r e
    rw [if_neg (h r e)]
  · rfl

end Sys2Proof.Machine
end

