-- ==== Sys2Proof/WellFormed.lean ====
section
/-!
DEFINITION. Which commands are well formed: an operand that numbers a channel, port, slot, cell, function, word or tag lies within what
the spec gives the block. Meanings answer on any operand; an ill-formed command is one that no sender of the block can give.
-/

namespace Sys2Proof

/-- The operands lie within their ranges. -/
def Instr.wf : Instr → Bool
  | .powerUp _ => true
  | .porNRelease _ _ => true
  | .porNAssert _ _ => true
  | .brownOut _ _ _ => true
  | .vddAonLoss _ => true
  | .pllLock _ _ => true
  | .pllRetry _ _ _ _ => true
  | .headerReadDone _ _ _ => true
  | .dramTrainingDone _ _ _ => true
  | .manifestLoadDone _ _ _ => true
  | .bistDone _ _ _ => true
  | .claimsCheckDone _ => true
  | .pairHandshake _ _ _ => true
  | .pairTimeout _ _ => true
  | .seatBRecheck _ _ => true
  | .pairHoldRetry _ => true
  | .snapshotBlockReceive _ _ => true
  | .syncTimeout _ => true
  | .syncRetry _ => true
  | .yuzSelftestDone _ _ _ => true
  | .runInEnd _ => true
  | .loopTick _ _ _ _ => true
  | .frameBoundary _ => true
  | .helmCycleBoundary _ _ _ => true
  | .blendEnd _ => true
  | .modeCmdReady _ _ tag => decide (tag < 256)
  | .modeCmdStation _ _ tag => decide (tag < 256)
  | .modeCmdPassage _ _ tag => decide (tag < 256)
  | .modeCmdSafe _ _ tag => decide (tag < 256)
  | .modeCmdDormant _ _ tag => decide (tag < 256)
  | .safeEntry _ => true
  | .modeResetWrite _ _ key => decide (key < 0x100000000)
  | .modeResetTimeout _ => true
  | .dormantEntryDone _ => true
  | .canWakePattern _ ch => decide (ch < 8)
  | .wakeInWake _ _ => true
  | .rtcAlarm _ => true
  | .safeInputWake _ input => decide (input < 16)
  | .hostWake _ _ => true
  | .modeTickLoRead _ _ => true
  | .engineLockstepMismatch _ _ => true
  | .eccUncorrectable _ _ _ => true
  | .eccCorrection _ _ => true
  | .clockMonitorWindow _ _ => true
  | .xtal32kLoss _ => true
  | .networkPriorityAging _ port _ => decide (port < 4)
  | .mnfInstall _ _ _ _ => true
  | .mnfRestore _ _ _ => true
  | .installResume _ _ => true
  | .journalWrite _ _ => true
  | .rollCallIssue _ => true
  | .rollCallReply _ node _ _ => decide (node < 1024)
  | .fblEvaluationStart _ list => decide (list < 128)
  | .fblEvaluationEnd _ list => decide (list < 128)
  | .fblOverrunLimit _ list => decide (list < 128)
  | .roleNewChal _ _ _ => true
  | .roleOpen _ _ _ => true
  | .roleClose _ _ => true
  | .challengeExpiry _ => true
  | .openLockExpiry _ => true
  | .sessionIdleTimeout _ => true
  | .roleKeyMaker _ _ keyId => decide (keyId < 65536)
  | .roleKeyInstaller _ _ keyId => decide (keyId < 65536)
  | .roleKeyOperator _ _ keyId => decide (keyId < 65536)
  | .installerParamChange _ _ _ _ => true
  | .timeLatch _ _ => true
  | .postmarkReadLatch _ _ off => decide (off < 0x40000)
  | .singleStep _ => true
  | .servoUpdate _ _ _ _ => true
  | .sourceLost _ _ => true
  | .sourceReturn _ _ _ => true
  | .recoveryLock _ => true
  | .uncLimitExceeded _ => true
  | .gridAligned _ => true
  | .leapSecondApply _ => true
  | .ppsOutPulse _ _ => true
  | .ppsOutPulseEnd _ => true
  | .ppsInEdge _ => true
  | .ext10mLoss _ => true
  | .ext10mRestore _ => true
  | .ptpEventMessage _ port _ => decide (port < 4)
  | .ptpGeneralMessage _ port _ => decide (port < 4)
  | .ptpSyncTransmit _ port _ => decide (port < 4)
  | .ptpAnnounceTransmit _ port _ => decide (port < 4)
  | .ptpDelayReqTransmit _ port _ => decide (port < 4)
  | .triggerUnitFire _ unit => decide (unit < 16)
  | .feClockMeasure _ _ _ => true
  | .bandRetry _ band _ _ => decide (band < 2)
  | .gnssStart _ _ _ => true
  | .acquisitionDone _ band ch _ _ _ _ _ _ => decide (band < 2) && decide (ch < 48)
  | .reacqWiden _ band ch => decide (band < 2) && decide (ch < 48)
  | .gnssEpoch _ _ => true
  | .positionMessageWrite _ => true
  | .timePulseMessage _ _ _ _ _ _ => true
  | .gnssSleepCmd _ _ => true
  | .gnssSleepEntry _ _ => true
  | .gnssWakeCmd _ _ => true
  | .gnssColdCmd _ _ => true
  | .retainWrite _ _ => true
  | .ephRefreshWake _ => true
  | .refreshEnd _ _ _ => true
  | .estCommit _ _ => true
  | .estUpdateAbandon _ => true
  | .estOverrunLimit _ => true
  | .ownGateReinit _ slot _ => decide (slot < 25)
  | .sourceFrozen _ slot => decide (slot < 25)
  | .skewRecovered _ slot => decide (slot < 25)
  | .slotWaiting _ slot => decide (slot < 25)
  | .disputeEnd _ group => decide (group < 8)
  | .reentryComplete _ slot => decide (slot < 25)
  | .reentryHoldRecord _ slot => decide (slot < 25)
  | .estSrcDeselect _ _ slot => decide (slot < 32)
  | .estSrcSelect _ _ slot => decide (slot < 32)
  | .trackCoastTimeout _ track => decide (track < 64)
  | .trackLostTimeout _ track => decide (track < 64)
  | .trackSourceExclude _ track _ => decide (track < 64)
  | .wavePeakSearch _ _ => true
  | .heaveMruTimeout _ => true
  | .lawCmdPosition _ _ tag => decide (tag < 256)
  | .lawCmdTarget _ _ tag => decide (tag < 256)
  | .lawCmdTrack _ _ tag => decide (tag < 256)
  | .lawCmdAutohdg _ _ tag => decide (tag < 256)
  | .lawCmdJoystick _ _ tag => decide (tag < 256)
  | .spCmdPosition _ _ tag => decide (tag < 256)
  | .spCmdTarget _ _ tag => decide (tag < 256)
  | .spCmdTrack _ _ tag => decide (tag < 256)
  | .helmSolveDone _ _ => true
  | .helmMissLimit _ => true
  | .allocSolveDone _ _ => true
  | .allocMissLimit _ => true
  | .consReadySubmit _ => true
  | .consBatchDone _ _ => true
  | .consMissLimit _ => true
  | .allocShort _ => true
  | .busPowerHoldExpiry _ bus => decide (bus < 8)
  | .followFault _ thr => decide (thr < 24)
  | .allocThrDeselect _ _ thr => decide (thr < 32)
  | .allocThrSelect _ _ thr => decide (thr < 32)
  | .yuzBatchStart _ => true
  | .yuzBatchDone _ _ => true
  | .yuzDeadlineStop _ _ _ _ => true
  | .standbyLag _ => true
  | .loopCellRun _ cell _ => decide (cell < 48)
  | .cellMissLimit _ cell => decide (cell < 48)
  | .encoderIndex _ enc _ => decide (enc < 6)
  | .encoderEdgeError _ enc _ => decide (enc < 6)
  | .pwmPeriodStart _ ch => decide (ch < 24)
  | .injectionStart _ _ => true
  | .injectionStop _ _ => true
  | .injectionEnd _ cell => decide (cell < 48)
  | .captureArm _ _ => true
  | .captureForce _ _ => true
  | .captureAbort _ _ => true
  | .captureDone _ unit => decide (unit < 4)
  | .loopCellSpRead _ _ => true
  | .mfnEnable _ _ fn tag => decide (fn < 32) && decide (tag < 256)
  | .mfnDisable _ _ fn tag => decide (fn < 32) && decide (tag < 256)
  | .mfnReset _ _ fn tag => decide (fn < 32) && decide (tag < 256)
  | .armTimeout _ fn => decide (fn < 32)
  | .stopBandReached _ fn => decide (fn < 32)
  | .stopTimeout _ fn => decide (fn < 32)
  | .satTimeout _ cell => decide (cell < 48)
  | .converterResult _ ch _ _ => decide (ch < 40)
  | .settlingDone _ ch _ => decide (ch < 40)
  | .bitstreamFault _ ch _ => decide (ch < 40)
  | .bitstreamRecovery _ ch _ => decide (ch < 40)
  | .sarTrigger _ ch => decide (ch < 40)
  | .sarResult _ ch _ => decide (ch < 40)
  | .vrefCheck _ _ => true
  | .adcChResRead _ _ => true
  | .sourceFailure _ ch => decide (ch < 8)
  | .supplyStep _ ch => decide (ch < 8)
  | .complianceSet _ ch => decide (ch < 8)
  | .complianceClear _ ch => decide (ch < 8)
  | .complianceRestoreCheck _ ch => decide (ch < 8)
  | .hartPollDue _ modem => decide (modem < 8)
  | .hartReply _ modem _ => decide (modem < 8)
  | .hartRetry _ modem => decide (modem < 8)
  | .hartIdRetry _ modem _ => decide (modem < 8)
  | .hartPause _ _ => true
  | .hartResume _ _ => true
  | .stepMove _ _ ch tag _ => decide (ch < 8) && decide (tag < 256)
  | .stepVelocity _ _ ch tag _ => decide (ch < 8) && decide (tag < 256)
  | .stepHalt _ _ ch tag => decide (ch < 8) && decide (tag < 256)
  | .stepStop _ _ ch tag => decide (ch < 8) && decide (tag < 256)
  | .stepHome _ _ ch tag => decide (ch < 8) && decide (tag < 256)
  | .stepReset _ _ ch tag => decide (ch < 8) && decide (tag < 256)
  | .generatorUpdate _ _ _ => true
  | .chopperCrossing _ ch coil _ _ => decide (ch < 8) && decide (coil < 2)
  | .openCoil _ ch coil => decide (ch < 8) && decide (coil < 2)
  | .shortCoil _ ch coil => decide (ch < 8) && decide (coil < 2)
  | .holdCurrentReduce _ ch => decide (ch < 8)
  | .limitSwitchDebounced _ ch _ => decide (ch < 8)
  | .homeSwitchDebounced _ ch => decide (ch < 8)
  | .homingBackoffDone _ ch => decide (ch < 8)
  | .islandCycle _ _ _ _ _ => true
  | .safeInputChange _ input _ _ => decide (input < 16)
  | .inputDiscrepancy _ input => decide (input < 16)
  | .islandLockstepMismatch _ => true
  | .islandWatchdogExpiry _ => true
  | .islandClockFault _ => true
  | .islandEccError _ => true
  | .paramCrcRecheck _ _ => true
  | .testPulseStart _ out _ _ => decide (out < 12)
  | .testPulseEnd _ out _ => decide (out < 12)
  | .testOffCheck _ out _ _ => decide (out < 12)
  | .readbackFault _ out _ _ => decide (out < 12)
  | .testStarved _ out _ => decide (out < 12)
  | .edmFault _ out => decide (out < 12)
  | .axisDiscrepancy _ axis => decide (axis < 6)
  | .safetyEncoderIndex _ axis _ => decide (axis < 6)
  | .safetyEncoderError _ axis => decide (axis < 6)
  | .safeResetPress _ _ => true
  | .safeResetStuck _ _ => true
  | .safeCvCommit _ _ => true
  | .safeOffReqWrite _ _ mask => decide (mask < 4096)
  | .permitMailboxWrite _ => true
  | .sealReceive _ _ => true
  | .inputRecordReceive _ _ => true
  | .commandRecordReceive _ _ => true
  | .verdictReceive _ _ _ => true
  | .timeRecordReceive _ _ _ _ => true
  | .statusReceive _ _ _ _ _ => true
  | .resendReceive _ _ => true
  | .divergeReceive _ _ _ _ => true
  | .confirmReceive _ _ _ _ => true
  | .giveUpReceive _ _ _ => true
  | .replayDone _ _ _ _ _ => true
  | .tickLagExceeded _ _ => true
  | .standbyLagLimit _ => true
  | .laneDown _ lane _ => decide (lane < 2)
  | .laneRetrain _ lane _ => decide (lane < 2)
  | .takeover _ _ _ _ => true
  | .sidebandTimeout _ => true
  | .sidebandDisagree _ _ _ => true
  | .peerOkLowTimeout _ _ => true
  | .twinPlaus _ _ _ _ _ => true
  | .twinHoTickLoRead _ _ => true
  | .pwrLatTolWrite _ _ us => decide (us < 0x1000000)
  | .lullGapEntry _ dom _ => decide (dom < 5)
  | .lullGapWake _ dom => decide (dom < 5)
  | .lull3Entry _ => true
  | .lull3WakeDone _ => true
  | .sensorWindow _ _ => true
  | .sensorBroken _ sensor => decide (sensor < 24)
  | .sensorReturn _ sensor => decide (sensor < 24)
  | .shutdownPowerOff _ _ _ => true
  | .canFrameReceive _ ch _ => decide (ch < 8)
  | .canEsIdRead _ _ ch slot => decide (ch < 8) && decide (slot < 8)
  | .canEsData15Read _ _ ch slot => decide (ch < 8) && decide (slot < 8)
  | .canEsLockTimeout _ ch slot => decide (ch < 8) && decide (slot < 8)
  | .canPeriodicTransmit _ ch mb _ => decide (ch < 8) && decide (mb < 32)
  | .canTxAttemptEnd _ ch mb _ => decide (ch < 8) && decide (mb < 32)
  | .canMailboxCancel _ ch mb _ => decide (ch < 8) && decide (mb < 32)
  | .canRecover _ _ ch => decide (ch < 8)
  | .busoffRecoveryDone _ ch => decide (ch < 8)
  | .squallLoadUpdate _ ch _ => decide (ch < 8)
  | .canSquallAlarm _ ch => decide (ch < 8)
  | .n2kAddressClaim _ ch => decide (ch < 8)
  | .n2kClaimReceive _ ch _ _ _ => decide (ch < 8)
  | .ethFrameReceive _ port _ => decide (port < 4)
  | .ethPeriodicTransmit _ port _ => decide (port < 4)
  | .gateListEntry _ port => decide (port < 4)
  | .ethFrameTransmitDone _ port => decide (port < 4)
  | .phyStatusPoll _ port _ _ => decide (port < 4)
  | .phyScriptRetry _ port _ _ => decide (port < 4)
  | .ethSquallUpdate _ port _ => decide (port < 4)
  | .ethSquallAlarm _ port => decide (port < 4)
  | .dispatchReport _ => true
  | .workRecordSample _ => true
  | .workRecordTileSeal _ => true
  | .ethWrAckWrite _ _ v => decide (v < 0x100000000)
  | .ethWrHeadLoRead _ _ => true
  | .hostLinkReset _ _ _ => true
  | .spiWriteTransaction _ _ _ _ bad _ => decide (bad < 3)
  | .spiReadTransaction _ _ n => decide (n < 257)
  | .openRecordTimeout _ => true
  | .recorderFlush _ _ => true
  | .sectorEraseDone _ => true
  | .flushHeldTimeout _ => true
  | .logFetchStart _ _ hi => decide (hi < 0x100000000)
  | .logFetchDone _ => true
  | .logSeqLoRead _ _ off => decide (off < 0x40000)
  | .logMarkWrite _ _ hi => decide (hi < 0x100000000)
  | .logErase _ _ key => decide (key < 0x100000000)
  | .logBackgroundEraseDone _ => true
  | .pointWindowRead _ _ ofs => decide (ofs < 0x20000)
  | .pointQualityStage _ _ ofs code => decide (ofs < 0x20000) && decide (code < 16)
  | .pointValueLowStage _ _ ofs value => decide (ofs < 0x20000) && decide (value < 0x100000000)
  | .pointValueCommit _ _ ofs value => decide (ofs < 0x20000) && decide (value < 0x100000000)
  | .pointWindowOtherWrite _ _ ofs => decide (ofs < 0x20000)
  | .alarmAck _ _ entry => decide (entry < 512)
  | .pgnRead _ _ n => decide (n < 128)
  | .pgnRestart _ _ n => decide (n < 128)
  | .pgnDiscard _ _ n => decide (n < 128)
  | .pgnWrite _ _ n word => decide (n < 128) && decide (word < 0x100000000)
  | .irqAck _ _ vector => decide (vector < 32)
  | .msixUnmask _ _ vector => decide (vector < 32)
  | .registerWrite _ _ off value _ _ => decide (off < 0x40000) && decide (value < 0x100000000)
  | .railPowerGood _ _ => true
  | .perstNRelease _ _ _ _ => true
  | .sgmiiLinkChange _ port _ _ => decide (port < 4)
  | .satelliteLockLoss _ band ch => decide (band < 2) && decide (ch < 48)
  | .canRxError _ ch lec _ _ _ => decide (ch < 8) && decide (lec < 8)
  | .canBusIntegrationDone _ ch => decide (ch < 8)
  | .wakeEventForwardReceive _ => true
  | .stagedImageReceive _ _ _ => true

end Sys2Proof
end

