-- ==== Sys2Proof/Tests/Slice0.lean ====
section
/-!
SUPPORT. Tests of one step each, an ill-formed command for each check of well-formedness, and for every statement with hypotheses a
state and operands that meet them, clause by clause.
-/

namespace Sys2Proof.Machine.Slice0

open Sys2Proof Sys2Proof.Machine

-- One declaration at a time: the witnesses evaluated side by side would each take a stack.
set_option Elab.async false

/-- Fields set on a state, each in bank 0. -/
def W (l : List (Fld × Nat)) (s : State := State.reset) : State := l.foldl (fun s x => s.set x.1 x.2) s

/-- Fields set on a state, each in its bank. -/
def WB (l : List (Fld × Nat × Nat)) (s : State := State.reset) : State := l.foldl (fun s x => s.set x.1 x.2.2 x.2.1) s

def sess : State := { WB [(R.ROLE_STAT_SESSION, 0, 1)] with role := { owner := .pcie, keyId := 7 } }
def goodHeader : Header := { length := 0x6000, sections := 5, table := [⟨1, 1, 0, 0x1000, 0x1000, 0⟩, ⟨3, 1, 0, 0x2000, 0x1000, 0⟩, ⟨0x10, 2, 0, 0x3000, 0x1000, 0⟩, ⟨0x12, 2, 0, 0x4000, 0x1000, 0⟩, ⟨0x13, 2, 0, 0x5000, 0x1000, 0⟩] }
def goodCheck : BodyCheck := { dAll := 7, dMaker := 9, digest := 7, makerTag := ofBe (hmacSha256 (bytes32 3) (bytes32 9)), instTag := ofBe (hmacSha256 (bytes32 4) (bytes32 7)) }
def goodImage : SlotImage := ⟨goodHeader, goodCheck, {}⟩
def keyed : RoleSt := { makerKey := some (3, 1), instKey := some (4, 1), owner := .pcie }
def opSess : State := { WB [(R.ROLE_STAT_SESSION, 0, 1)] with role := { owner := .pcie, keyId := 7 } }
def asleep : State := { WB [(R.MODE_STAT_MODE, 0, 0)] with mus := { porLow := false, aonAt := some 0 }, pwr := {} }
def aThr : ThrCfg := { kind := 1, posX := 0, posY := 0, tMax := 100, tMin := -50, pRated := 1000, bus := 0 }
def aBatch : Batch := { kind := 2, cls := 1, items := 3, iter := 4, mask := 5, coupled := false, ops := [1], deadline := 0, seq := 7, solo := 100, pair := 100, at_ := 0 }
def aCell : CellCfg := { law := 1, fn := 0, ins := [{ kind := 7, idx := 1 }] }
def loopState : State := { W [(R.LOOP_CELL_STAT_STATE, 2), (R.MODE_STAT_MODE, 2)] with man := { loop := { cells := [(0, aCell)] } } }
def aTest : InjSt := { shape := 1, out := true, linear := false, order := 0, bitRuns := 0, amp := 100, f0 := 0, f1 := 0, dur := 5, keyId := 7, at_ := 0, startAt := some 0 }
def instSess : State := { WB [(R.ROLE_STAT_SESSION, 0, 2), (R.LOOP_SEL_CELL, 0, 3), (R.MODE_STAT_MODE, 0, 2), (R.MODE_STAT_ACTIVE, 0, 1), (R.MFN_FN_STAT_STATE, 1, 2)] with role := { owner := .pcie, keyId := 7 }, man := { loop := { cells := [(3, { aCell with fn := 1, injMax := 1 })] } } }
def aFn : FnCfg := { list := 0, cells := [{ cell := 0 }] }
def withFn (x : FnSt)
    (s : State) : State := { s with man := { loop := { cells := [(0, aCell)], fns := [(1, aFn)], points := [4] } }, loop := { fns := [(1, x)] } }
def withConv (n : Nat) (c : ConvCfg) (v : ConvSt)
    (s : State) : State := { s with man := { adc := { chs := [(n, c)] } }, adc := { chs := [(n, v)] } }
def withClp (x : ClpCfg) (c : ClpSt)
    (s : State) : State := { s with man := { clp := { chs := [(2, x)] } }, clp := { chs := [(2, c)] } }
def withHart (x : HartCfg) (h : HartSt)
    (s : State) : State := { s with man := { clp := { modems := [(2, x)] } }, clp := { modems := [(2, h)] } }
def opSession : State := { WB [(R.ROLE_STAT_SESSION, 0, 1), (R.CLP_HART_SEL_MODEM, 0, 2)] with role := { owner := .pcie, keyId := 7 } }
def aStep : StepCfg := { fn := 1, iRunMax := 1, iRunMin := 1/10, iHold := 1/4, vMax := 10000, aMax := 1000, dMax := 1000, jMax := 100000, homeV := 100, homeDist := 1000, requireHome := false, cmd := some 4 }
def withStep (x : StepCfg) (c : StepSt)
    (s : State) : State := { s with man := { step := [(2, x)] }, step := { chs := [(2, c)] } }
def instSession : State := { WB [(R.ROLE_STAT_SESSION, 0, 2), (R.MODE_STAT_MODE, 0, 2), (R.MODE_STAT_ACTIVE, 0, 1), (R.MFN_FN_STAT_STATE, 1, 0)] with role := { owner := .pcie, keyId := 7 } }
def aOut : SafeOutCfg := { mapIn := [1] }
def anAxis : AxisCfg := { scale1 := 100, scale2 := 100, kind2 := 0, idx2 := 0, diffPos := 1, diffSpd := 1 }
def withIsl (i : IslSt)
    (s : State) : State := { s with man := { safety := { given := true, crc := 77, ins := [(1, { kind := 0 })], outs := [(2, { aOut with edm := some 3 })], axes := [(0, anAxis)] } }, isl := { i with present := true } }
def standby : State := W [(R.TWIN_STAT_STATE, 4), (R.MODE_STAT_ACTIVE, 0), (R.MODE_STAT_PAIRED, 1), (R.MODE_STAT_MODE, 2)]
def aSeal : Seal := { tick := 9, records := 0, bytes := 100, out := 5 }
def aCan : CanCfg := { slots := [(2, { id := 0x100, mask := 0x7FF, dest := 0 })], filters := [(3, { id := 0x200, mask := 0x700, dest := 0 })], mbs := [(4, { id := 0x55, len := 2, periodMs := some 10 }), (5, { id := 0x56, len := 2, oneshot := true })] }
def withCan (c : CanCfg) (x : CanSt) (s : State) : State := { s with man := { can := [(1, c)] }, can := [(1, x)] }
def canOn : State := WB [(R.CAN_STAT_MODE, 1, 2), (R.CAN_STAT_SQUALL, 1, 0), (R.MODE_STAT_MODE, 0, 2),
    (R.MODE_STAT_ACTIVE, 0, 1)]
def aFrame : CanFrame := { id := 0x100, dlc := 2, data := [7, 8], pm := ⟨0, 5⟩ }
def withEth (c : EthCfg) (e : EthSt)
    (s : State) : State := { s with man := { eth := [(1, c)], disp := { ports := [1] } }, eth := [(1, { e with up := true })] }
def withPair (c : EthCfg) (e : EthSt)
    (s : State) : State := { s with man := { eth := [(0, { c with prp := true }), (1, { c with prp := false })] }, eth := [(0, { e with up := true }), (1, { e with up := true })] }
def ethOn : State := WB [(R.ETH_STAT_LINK, 0, 1), (R.ETH_STAT_LINK, 1, 1), (R.ETH_STAT_TX_ON, 1, 1), (R.ETH_STAT_SPEED, 1, 2),
    (R.ETH_STAT_FAULT, 1, 0), (R.ETH_STAT_SQUALL, 1, 0), (R.MODE_STAT_MODE, 0, 2), (R.MODE_STAT_ACTIVE, 0, 1),
    (R.PWR_FC_STAT_SHED_D, 0, 0), (R.TIME_STAT_STEPPED, 0, 1)]
def aRec (n : Nat) : Rec := { seq := n, pm := ⟨0, 0⟩, code := 0x0101, source := 0, role := .device, unsync := false, alarm := false, clear := false, keyId := 0, keyLen := 0, last := ⟨0, 0⟩, data := [] }
def withLog (l : RecSt) (s : State) : State := { s with log := l }
def flushable : State := W [(R.THRM_STAT_NVM_OPEN, 1), (R.PWR_STAT_DEPTH, 0), (R.PWR_FC_STAT_SHED_H, 0)]
def makerSess : State := { W [(R.ROLE_STAT_SESSION, 3), (R.LOG_MARK_SEL_SLOT, 2), (R.LOG_STAT_ERASING, 1), (R.THRM_STAT_NVM_OPEN, 1)] with role := { owner := .pcie, keyId := 7 } }
def hostWin (c : PtCfg) (x : HostPort) (s : State) : State := { s with man := { points := [c] }, pcie := x, inbox := [] }
def hostOn : State := WB [(R.MODE_STAT_ACTIVE, 0, 1), (R.MODE_STAT_MODE, 0, 2), (R.ROLE_STAT_SESSION, 0, 1),
    (R.PGN_CFG_HOST_CONSUMER, 20, 1), (R.PGN_CFG_HOST_PRODUCER, 20, 1), (R.IRQ_ROUTE_EN, 52, 1), (R.IRQ_ROUTE_VECTOR, 52, 3),
    (R.IRQ_ARMED_ARMED, 0, 0)]
def opHost (s : State) : State := { s with role := { s.role with owner := .pcie, keyId := 7 } }
def anEnv : Env := { kind := 6, unsync := false, first := true, last := true, len := 4, part := 0, seq := 1, pm := ⟨0, 0⟩, origin := 0, dest := 20, payload := [1, 2, 3, 4] }
def withPgn (g : Pgn) (s : State) : State := { s with pgn := [(20, g)], inbox := [] }
def gridOn : State := { WB [(R.MODE_STAT_MODE, 0, 2), (R.MODE_STAT_ACTIVE, 0, 1), (R.PWR_STAT_DEPTH, 0, 0)] with tick := 15000, pwr := {} }

/-! ### Well-formedness -/

/-- For each check of an operand, a command whose operand is the first value beyond its range. -/
theorem test_ill_formed_refused : (([] :: [
  [.modeCmdReady 0 (.host .pcie) 256,
   .modeCmdStation 0 (.host .pcie) 256,
   .modeCmdPassage 0 (.host .pcie) 256,
   .modeCmdSafe 0 (.host .pcie) 256,
   .modeCmdDormant 0 (.host .pcie) 256,
   .modeResetWrite 0 .pcie 0x100000000,
   .canWakePattern 0 8,
   .safeInputWake 0 16,
   .networkPriorityAging 0 4 0,
   .rollCallReply 0 1024 0 0,
   .fblEvaluationStart 0 128,
   .fblEvaluationEnd 0 128],
  [.fblOverrunLimit 0 128,
   .roleKeyMaker 0 .pcie 65536,
   .roleKeyInstaller 0 .pcie 65536,
   .roleKeyOperator 0 .pcie 65536,
   .postmarkReadLatch 0 .pcie 0x40000,
   .ptpEventMessage 0 4 { state := 0 },
   .ptpGeneralMessage 0 4 { state := 0 },
   .ptpSyncTransmit 0 4 0,
   .ptpAnnounceTransmit 0 4 0,
   .ptpDelayReqTransmit 0 4 0,
   .triggerUnitFire 0 16,
   .bandRetry 0 2 none false],
  [.acquisitionDone 0 2 0 0 0 false 0 0 none,
   .acquisitionDone 0 0 48 0 0 false 0 0 none,
   .reacqWiden 0 2 0,
   .reacqWiden 0 0 48,
   .ownGateReinit 0 25 0,
   .sourceFrozen 0 25,
   .skewRecovered 0 25,
   .slotWaiting 0 25,
   .disputeEnd 0 8,
   .reentryComplete 0 25,
   .reentryHoldRecord 0 25,
   .estSrcDeselect 0 (.host .pcie) 32],
  [.estSrcSelect 0 (.host .pcie) 32,
   .trackCoastTimeout 0 64,
   .trackLostTimeout 0 64,
   .trackSourceExclude 0 64 0,
   .lawCmdPosition 0 (.host .pcie) 256,
   .lawCmdTarget 0 (.host .pcie) 256,
   .lawCmdTrack 0 (.host .pcie) 256,
   .lawCmdAutohdg 0 (.host .pcie) 256,
   .lawCmdJoystick 0 (.host .pcie) 256,
   .spCmdPosition 0 (.host .pcie) 256,
   .spCmdTarget 0 (.host .pcie) 256,
   .spCmdTrack 0 (.host .pcie) 256],
  [.busPowerHoldExpiry 0 8,
   .followFault 0 24,
   .allocThrDeselect 0 (.host .pcie) 32,
   .allocThrSelect 0 (.host .pcie) 32,
   .loopCellRun 0 48 [],
   .cellMissLimit 0 48,
   .encoderIndex 0 6 0,
   .encoderEdgeError 0 6 0,
   .pwmPeriodStart 0 24,
   .injectionEnd 0 48,
   .captureDone 0 4,
   .mfnEnable 0 (.host .pcie) 32 0],
  [.mfnEnable 0 (.host .pcie) 0 256,
   .mfnDisable 0 (.host .pcie) 32 0,
   .mfnDisable 0 (.host .pcie) 0 256,
   .mfnReset 0 (.host .pcie) 32 0,
   .mfnReset 0 (.host .pcie) 0 256,
   .armTimeout 0 32,
   .stopBandReached 0 32,
   .stopTimeout 0 32,
   .satTimeout 0 48,
   .converterResult 0 40 0 false,
   .settlingDone 0 40 0,
   .bitstreamFault 0 40 0],
  [.bitstreamRecovery 0 40 0,
   .sarTrigger 0 40,
   .sarResult 0 40 [],
   .sourceFailure 0 8,
   .supplyStep 0 8,
   .complianceSet 0 8,
   .complianceClear 0 8,
   .complianceRestoreCheck 0 8,
   .hartPollDue 0 8,
   .hartReply 0 8 { rc := 0 },
   .hartRetry 0 8,
   .hartIdRetry 0 8 0],
  [.stepMove 0 (.host .pcie) 8 0 0,
   .stepMove 0 (.host .pcie) 0 256 0,
   .stepVelocity 0 (.host .pcie) 8 0 0,
   .stepVelocity 0 (.host .pcie) 0 256 0,
   .stepHalt 0 (.host .pcie) 8 0,
   .stepHalt 0 (.host .pcie) 0 256,
   .stepStop 0 (.host .pcie) 8 0,
   .stepStop 0 (.host .pcie) 0 256,
   .stepHome 0 (.host .pcie) 8 0,
   .stepHome 0 (.host .pcie) 0 256,
   .stepReset 0 (.host .pcie) 8 0,
   .stepReset 0 (.host .pcie) 0 256],
  [.chopperCrossing 0 8 0 false 0,
   .chopperCrossing 0 0 2 false 0,
   .openCoil 0 8 0,
   .openCoil 0 0 2,
   .shortCoil 0 8 0,
   .shortCoil 0 0 2,
   .holdCurrentReduce 0 8,
   .limitSwitchDebounced 0 8 false,
   .homeSwitchDebounced 0 8,
   .homingBackoffDone 0 8,
   .safeInputChange 0 16 false false,
   .inputDiscrepancy 0 16],
  [.testPulseStart 0 12 false false,
   .testPulseEnd 0 12 false,
   .testOffCheck 0 12 false 0,
   .readbackFault 0 12 false 0,
   .testStarved 0 12 false,
   .edmFault 0 12,
   .axisDiscrepancy 0 6,
   .safetyEncoderIndex 0 6 0,
   .safetyEncoderError 0 6,
   .safeOffReqWrite 0 .pcie 4096,
   .laneDown 0 2 false,
   .laneRetrain 0 2 false],
  [.pwrLatTolWrite 0 .pcie 0x1000000,
   .lullGapEntry 0 5 0,
   .lullGapWake 0 5,
   .sensorBroken 0 24,
   .sensorReturn 0 24,
   .canFrameReceive 0 8 { id := 0, dlc := 0, data := [], pm := ⟨0, 0⟩ },
   .canEsIdRead 0 .pcie 8 0,
   .canEsIdRead 0 .pcie 0 8,
   .canEsData15Read 0 .pcie 8 0,
   .canEsData15Read 0 .pcie 0 8,
   .canEsLockTimeout 0 8 0,
   .canEsLockTimeout 0 0 8],
  [.canPeriodicTransmit 0 8 0 false,
   .canPeriodicTransmit 0 0 32 false,
   .canTxAttemptEnd 0 8 0 .lost,
   .canTxAttemptEnd 0 0 32 .lost,
   .canMailboxCancel 0 8 0 false,
   .canMailboxCancel 0 0 32 false,
   .canRecover 0 .pcie 8,
   .busoffRecoveryDone 0 8,
   .squallLoadUpdate 0 8 0,
   .canSquallAlarm 0 8,
   .n2kAddressClaim 0 8,
   .n2kClaimReceive 0 8 false 0 0],
  [.ethFrameReceive 0 4 { src := 0, pm := ⟨0, 0⟩ },
   .ethPeriodicTransmit 0 4 0,
   .gateListEntry 0 4,
   .ethFrameTransmitDone 0 4,
   .phyStatusPoll 0 4 false 0,
   .phyScriptRetry 0 4 false 0,
   .ethSquallUpdate 0 4 0,
   .ethSquallAlarm 0 4,
   .ethWrAckWrite 0 .pcie 0x100000000,
   .spiWriteTransaction 0 0 0 [] 3 {},
   .spiReadTransaction 0 0 257,
   .logFetchStart 0 .pcie 0x100000000],
  [.logSeqLoRead 0 .pcie 0x40000,
   .logMarkWrite 0 .pcie 0x100000000,
   .logErase 0 .pcie 0x100000000,
   .pointWindowRead 0 .pcie 0x20000,
   .pointQualityStage 0 .pcie 0x20000 0,
   .pointQualityStage 0 .pcie 0 16,
   .pointValueLowStage 0 .pcie 0x20000 0,
   .pointValueLowStage 0 .pcie 0 0x100000000,
   .pointValueCommit 0 .pcie 0x20000 0,
   .pointValueCommit 0 .pcie 0 0x100000000,
   .pointWindowOtherWrite 0 .pcie 0x20000,
   .alarmAck 0 .pcie 512],
  [.pgnRead 0 .pcie 128,
   .pgnRestart 0 .pcie 128,
   .pgnDiscard 0 .pcie 128,
   .pgnWrite 0 .pcie 128 0,
   .pgnWrite 0 .pcie 0 0x100000000,
   .irqAck 0 .pcie 32,
   .msixUnmask 0 .pcie 32,
   .registerWrite 0 .pcie 0x40000 0 false {},
   .registerWrite 0 .pcie 0 0x100000000 false {},
   .sgmiiLinkChange 0 4 false 0,
   .satelliteLockLoss 0 2 0,
   .satelliteLockLoss 0 0 48],
  [.canRxError 0 8 0 false 0 false,
   .canRxError 0 0 8 false 0 false,
   .canBusIntegrationDone 0 8]] : List (List Instr)).all fun l => l.all fun i => !i.wf) = true := by decide

theorem test_well_formed_accepted :
    ([.captureDone 5 3, .alarmAck 5 .spi 0x1FF, .mfnEnable 5 (.point 9) 31 255, .pwmPeriodStart 5 23] : List Instr).all Instr.wf = true := by
  decide

/-! ### Decoding: the table of the spec gives no row any bits, so no word spells a command -/

theorem test_no_word_spells_a_command : decodeTableWord 32 0x12345678 = none := by decide

/-! ### One step -/

/-- What a field holds after the front command. -/
def fieldAfter (s : State) (c : Instr) (f : Fld) (b : Nat := 0) : Option Nat :=
  match step { s with pending := [c] } with | .next t => some (t.get f b) | _ => none

/-- The queue loses its front command, and the command's time passes. -/
theorem test_step_takes_front :
    (match step { State.reset with pending := [.openRecordTimeout 7, .logFetchDone 2] } with
      | .next t => decide (t.pending = [.logFetchDone 2] ∧ t.now = 7) | _ => false) = true := by decide

/-- The check value of CRC-32C, of the nine ASCII digits 1 to 9. -/
theorem test_crc32c_check_value : crc32c [49, 50, 51, 52, 53, 54, 55, 56, 57] = 0xE3069283 := by decide +kernel

/-- A PCIe write whose byte enables are not all set is dropped and counted (R439). -/
theorem test_partial_write_counted :
    fieldAfter State.reset (.registerWrite 1 .pcie 0x15220 5 false {}) R.ETH_HOST_CNT_PARTIAL_WR = some 1 := by decide +kernel

/-- A field of a selector takes the value written (R442). -/
theorem test_write_takes_value :
    fieldAfter State.reset (.registerWrite 1 .spi 0x15220 0x3005 true {}) R.ETH_WR_OFS_BLOCK = some 3 := by decide +kernel

/-- A mark beyond the head is refused (R455). -/
theorem test_mark_beyond_head_refused :
    fieldAfter State.reset (.logMarkWrite 1 .spi 1) R.LOG_MARK_STAT_REFUSED = some 1 := by decide +kernel

/-- An unmapped write is counted (R460). -/
theorem test_unmapped_write_counted :
    fieldAfter State.reset (.registerWrite 1 .spi 0x40000 5 true {}) R.DEV_HOST_ERR_UNMAPPED = some 1 := by decide +kernel

/-- A command record reaches no active (R357), and time alone passes. -/
theorem test_idle_stays : step State.reset = .next State.reset := rfl

/-! ### States and operands that meet the hypotheses of every clause -/


set_option maxRecDepth 100000
set_option linter.unusedVariables false

theorem wit_GridBoundaries :
    (∃ (dt : Nat) (s : State), ((s.gridRuns = false ∨ s.tick % 1000 ≠ 0))) ∧
    (∃ (dt : Nat) (s : State), (s.gridRuns = true) ∧ (s.tick % 1000 = 0)) ∧
    (∃ (dt : Nat) (s : State), (s.gridRuns = true) ∧ (s.tick % 1000 = 0) ∧ (s.pwr.l3 ∈ [1, 2]) ∧ (s.man.nodes = []) ∧
      (s.timeState = 2)) ∧
    (∃ (dt : Nat) (c : PtCfg) (s : State), (s.gridRuns = true) ∧ (s.tick % 1000 = 0) ∧ (s.pwr.l3 = 0) ∧ (s.mode = 2) ∧
      (s.man = { points := [c] }) ∧ (c.staleMs ≠ 0) ∧ ((s.pt 0).written = true) ∧
      ((s.pt 0).at_ + c.staleMs * 1000000 < s.now + dt)) ∧
    (∃ (dt : Nat) (pl : List (List Rat)) (z : List Rat) (s : State), ((s.gridRuns = false ∨ s.tick % 5000 ≠ 0))) ∧
    (∃ (dt : Nat) (pl : List (List Rat)) (z : List Rat) (s : State), (s.gridRuns = true) ∧ (s.tick % 5000 = 0) ∧
      (s.mnf.pendingMode = none)) ∧
    (∃ (dt : Nat) (n : Nat) (m : Nat) (pl : List (List Rat)) (z : List Rat) (c : PendingMode) (s : State), (s.gridRuns = true) ∧
      (s.tick % 5000 = 0) ∧ (s.mnf.pendingMode = some c) ∧ (transGuards s.mode c.target = some m) ∧
      ((s.advance dt).helmCycle.refreshGuards.guards &&& m = m) ∧ (c.target ∈ [2, 3, 4]) ∧ (n = s.mode)) ∧
    (∃ (dt : Nat) (m : Nat) (pl : List (List Rat)) (z : List Rat) (c : PendingMode) (s : State), (s.gridRuns = true) ∧
      (s.tick % 5000 = 0) ∧ (s.mnf.pendingMode = some c) ∧ (transGuards s.mode c.target = some m) ∧
      ((s.advance dt).helmCycle.refreshGuards.guards &&& m ≠ m)) ∧
    (∃ (dt : Nat) (m : Nat) (pl : List (List Rat)) (z : List Rat) (c : PendingMode) (s : State), (s.gridRuns = true) ∧
      (s.tick % 5000 = 0) ∧ (s.mnf.pendingMode = some c) ∧ (c.target = 0) ∧ (transGuards s.mode 0 = some m) ∧
      ((s.advance dt).helmCycle.refreshGuards.guards &&& m = m)) :=
  ⟨⟨5, { gridOn with tick := 15001 }, by decide⟩,
   ⟨5, gridOn, by decide⟩,
   ⟨7000000000, { W [(R.TIME_STAT_STATE, 2)] gridOn with pwr := { l3 := 1 } }, by decide⟩,
   ⟨5000001, { addr := 3, staleMs := 5 }, { gridOn with man := { points := [{ addr := 3, staleMs := 5 }] }, pts := [(0, { value := 9, written := true, stale := false })] }, by refine ⟨?_, ?_, ?_, ?_, rfl, ?_, ?_, ?_⟩ <;> decide⟩,
   ⟨5, [], [], { gridOn with tick := 16000 }, by decide⟩,
   ⟨5, [], [], gridOn, by decide⟩,
   ⟨5, 3, 0, [], [], ⟨2, 7, .host .pcie, 7, 4⟩, { WB [(R.MODE_STAT_MODE, 0, 3), (R.MODE_STAT_PENDING, 0, 1)] gridOn with mnf := { pendingMode := some ⟨2, 7, .host .pcie, 7, 4⟩ } }, by decide⟩,
   ⟨5, 0b0001110, [], [], ⟨4, 7, .host .pcie, 7, 4⟩, { WB [(R.MODE_STAT_MODE, 0, 3), (R.MODE_STAT_PENDING, 0, 1), (R.EST_STAT_POS_QUAL, 0, 3)] gridOn with mnf := { pendingMode := some ⟨4, 7, .host .pcie, 7, 4⟩ } }, by decide⟩,
   ⟨5, 0b0100000, [], [], ⟨0, 7, .host .pcie, 7, 4⟩, { WB [(R.MODE_STAT_MODE, 0, 5), (R.MODE_STAT_PENDING, 0, 1)] gridOn with mnf := { pendingMode := some ⟨0, 7, .host .pcie, 7, 4⟩ } }, by decide⟩⟩

theorem wit_SuppliesAndResets :
    (∃ (dt : Nat) (rails : List Rail) (s : State), (s.railsOk mainRails = false) ∧ (s.mus.porLow = false) ∧
      ((∀ r ∈ mainRails, r ∈ rails)) ∧ (s.mus.wake = true)) ∧
    (∃ (dt : Nat) (st : Straps) (s : State), (s.mus.aonAt ≠ none) ∧ (s.mus.enIo = true)) ∧
    (∃ (dt : Nat) (low : Nat) (s : State), (5000 ≤ low)) ∧
    (∃ (dt : Nat) (low : Nat) (s : State), (low < 5000)) ∧
    (∃ (dt : Nat) (low : Nat) (r : Rail) (s : State), (2000 ≤ low) ∧ (r ≠ .aon)) ∧
    (∃ (dt : Nat) (low : Nat) (r : Rail) (s : State), ((low < 2000 ∨ r = .aon))) :=
  ⟨⟨5, mainRails, { State.reset with mus := { wake := true, porLow := false } }, by decide⟩,
   ⟨5, { seatB := true }, { State.reset with mus := { aonAt := some 0, enIo := true, porReset := true } }, by decide⟩,
   ⟨5, 5000, W [(R.MODE_STAT_MODE, 2)], by decide⟩,
   ⟨5, 4999, State.reset, by decide⟩,
   ⟨5, 2000, .core, { State.reset with mus := { railOk := mainRails } }, by decide⟩,
   ⟨5, 1999, .core, State.reset, by decide⟩⟩

theorem wit_MusterPhases :
    (∃ (dt : Nat) (f : FlashScan) (s : State), (s.mode = 1) ∧ (s.get R.MODE_STAT_PHASE = 1) ∧ (s.mus.at_ ≤ s.now + dt)) ∧
    (∃ (dt : Nat) (f : FlashScan) (s : State), ((s.mode ≠ 1 ∨ s.get R.MODE_STAT_PHASE ≠ 1))) ∧
    (∃ (dt : Nat) (p : Nat) (f : FlashScan) (s : State), (s.mode = 1) ∧ (s.get R.MODE_STAT_PHASE = 1) ∧ (s.mus.at_ ≤ s.now + dt)) ∧
    (∃ (dt : Nat) (c : Nat) (h : Header) (s : State), (s.mode = 1) ∧ (s.get R.MODE_STAT_PHASE = 2) ∧
      (headerReason c (s.get R.DEV_GRADE_GRADE) h = none)) ∧
    (∃ (dt : Nat) (c : Nat) (r : Nat) (h : Header) (s : State), (s.mode = 1) ∧ (s.get R.MODE_STAT_PHASE = 2) ∧ (s.mus.tried = []) ∧
      (headerReason c (s.get R.DEV_GRADE_GRADE) h = some r) ∧ (r < 16)) ∧
    (∃ (dt : Nat) (g : Nat) (s : State), (s.mode = 1) ∧ ((s.get R.MODE_STAT_PHASE = 2 ∨ s.get R.MODE_STAT_PHASE = 3)) ∧
      (s.mus.dramTrained = false) ∧ ((g = 2 ∨ g = 4 ∨ g = 8))) ∧
    (∃ (dt : Nat) (c : BodyCheck) (m : Manifest) (s : State), (s.mode = 1) ∧ (s.get R.MODE_STAT_PHASE = 3) ∧
      (bodyReason s.role.makerKey s.role.instKey c = none)) ∧
    (∃ (dt : Nat) (c : BodyCheck) (m : Manifest) (s : State), (s.mode = 1) ∧ (s.get R.MODE_STAT_PHASE = 3) ∧ (s.mus.tried = []) ∧
      (s.role.makerKey = none)) ∧
    (∃ (dt : Nat) (s : State), (s.mode = 1) ∧ (s.get R.MODE_STAT_PHASE = 4)) ∧
    (∃ (dt : Nat) (s : State), (s.mode = 1) ∧ (s.get R.MODE_STAT_PHASE = 5) ∧ (s.claimsCheck = none)) :=
  ⟨⟨5, {}, W [(R.MODE_STAT_MODE, 1), (R.MODE_STAT_PHASE, 1)], by decide⟩,
   ⟨5, {}, W [(R.MODE_STAT_MODE, 1), (R.MODE_STAT_PHASE, 2)], by decide⟩,
   ⟨5, 3, {}, W [(R.MODE_STAT_MODE, 1), (R.MODE_STAT_PHASE, 1)], by decide⟩,
   ⟨5, 268435456, { length := 0x6000, sections := 5, table := [⟨1, 1, 0, 0x1000, 0x1000, 0⟩, ⟨3, 1, 0, 0x2000, 0x1000, 0⟩, ⟨0x10, 2, 0, 0x3000, 0x1000, 0⟩, ⟨0x12, 2, 0, 0x4000, 0x1000, 0⟩, ⟨0x13, 2, 0, 0x5000, 0x1000, 0⟩] }, W [(R.MODE_STAT_MODE, 1), (R.MODE_STAT_PHASE, 2)], by decide⟩,
   ⟨5, 268435456, 1, { magic := 0 }, W [(R.MODE_STAT_MODE, 1), (R.MODE_STAT_PHASE, 2)], by decide⟩,
   ⟨5, 4, W [(R.MODE_STAT_MODE, 1), (R.MODE_STAT_PHASE, 3)], by decide⟩,
   ⟨5, { dAll := 7, dMaker := 9, digest := 7, makerTag := ofBe (hmacSha256 (bytes32 3) (bytes32 9)), instTag := ofBe (hmacSha256 (bytes32 4) (bytes32 7)) }, {}, { W [(R.MODE_STAT_MODE, 1), (R.MODE_STAT_PHASE, 3)] with role := { makerKey := some (3, 1), instKey := some (4, 1) } }, by decide⟩,
   ⟨5, { dAll := 7, dMaker := 9, digest := 7, makerTag := 1, instTag := 2 }, {}, W [(R.MODE_STAT_MODE, 1), (R.MODE_STAT_PHASE, 3)], by decide⟩,
   ⟨5, W [(R.MODE_STAT_MODE, 1), (R.MODE_STAT_PHASE, 4)], by decide⟩,
   ⟨5, { W [(R.MODE_STAT_MODE, 1), (R.MODE_STAT_PHASE, 5)] with mus := { header := some {}, dramGib := 2 }, man := { points := [{ addr := 1 }] } }, by decide +kernel⟩⟩

theorem wit_Pairing :
    (∃ (dt : Nat) (s : State), (s.mode = 1) ∧ (s.get R.MODE_STAT_PHASE = 6) ∧ (s.mus.pairAt + 2000000000 ≤ s.now + dt) ∧
      (s.mus.seatBAt = none) ∧ (s.mus.straps.seatB = true)) ∧
    (∃ (dt : Nat) (s : State), (s.mode = 1) ∧ (s.get R.MODE_STAT_PHASE = 6) ∧ (s.mus.pairAt + 2000000000 ≤ s.now + dt) ∧
      (s.mus.seatBAt = none)) ∧
    (∃ (dt : Nat) (t₀ : Nat) (s : State), (s.mus.seatBAt = some t₀) ∧ (s.mode = 1) ∧ (s.get R.MODE_STAT_PHASE = 6) ∧
      (t₀ + 250000000 ≤ s.now + dt)) ∧
    (∃ (dt : Nat) (t₀ : Nat) (s : State), (s.mus.seatBAt = some t₀) ∧ (s.mode = 1) ∧ (s.get R.MODE_STAT_PHASE = 6) ∧
      (t₀ + 250000000 ≤ s.now + dt)) ∧
    (∃ (dt : Nat) (s : State), (s.mode = 1) ∧ (s.get R.MODE_STAT_PHASE = 9) ∧ (s.mus.pairAt + 1000000000 ≤ s.now + dt)) ∧
    (∃ (dt : Nat) (p : PeerInfo) (a : Bool) (s : State), (s.mode = 1) ∧ (s.get R.MODE_STAT_PHASE = 6) ∧ (s.refusal p = 0) ∧
      (p.active = true) ∧ (2 ≤ p.mode) ∧ (p.mode ≤ 5)) ∧
    (∃ (dt : Nat) (p : PeerInfo) (a : Bool) (s : State), (s.mode = 1) ∧ (s.get R.MODE_STAT_PHASE = 6) ∧ (s.refusal p = 0) ∧
      ((p.active = false ∨ p.mode < 2 ∨ 5 < p.mode))) ∧
    (∃ (dt : Nat) (b : SnapBlock) (s : State), (s.get R.TWIN_STAT_STATE = 3) ∧ (s.twin.syncBlocks + 1 < b.total) ∧ (b.regs = []) ∧
      (b.pts = [])) ∧
    (∃ (dt : Nat) (b : SnapBlock) (s : State), (s.get R.TWIN_STAT_STATE = 3) ∧ (s.mode = 5) ∧ (b.total ≤ s.twin.syncBlocks + 1) ∧
      (b.regs = [])) ∧
    (∃ (dt : Nat) (s : State), (s.get R.TWIN_STAT_STATE = 3) ∧ (s.twin.syncAt + 250000000 ≤ s.now + dt) ∧ (s.mode = 1)) ∧
    (∃ (dt : Nat) (s : State), (s.get R.TWIN_STAT_STATE = 3) ∧ (s.twin.syncAt + 250000000 ≤ s.now + dt) ∧ (s.mode ≠ 1)) ∧
    (∃ (dt : Nat) (s : State), (s.get R.TWIN_STAT_STATE = 5) ∧ (s.get R.TWIN_STAT_LANES ≠ 0) ∧
      (s.twin.syncRetryAt + 1000000000 ≤ s.now + dt)) :=
  ⟨⟨2000000000, { W [(R.MODE_STAT_MODE, 1), (R.MODE_STAT_PHASE, 6)] with mus := { straps := { seatB := true } } }, by decide⟩,
   ⟨2000000000, { W [(R.MODE_STAT_MODE, 1), (R.MODE_STAT_PHASE, 6)] with mus := {} }, by decide⟩,
   ⟨250000000, 0, { W [(R.MODE_STAT_MODE, 1), (R.MODE_STAT_PHASE, 6)] with mus := { seatBAt := some 0 } }, by decide⟩,
   ⟨250000000, 0, { W [(R.MODE_STAT_MODE, 1), (R.MODE_STAT_PHASE, 6)] with mus := { seatBAt := some 0 } }, by decide⟩,
   ⟨1000000000, W [(R.MODE_STAT_MODE, 1), (R.MODE_STAT_PHASE, 9)], by decide⟩,
   ⟨5, ⟨1, 0, true, 0, 2, true⟩, true, W [(R.MODE_STAT_MODE, 1), (R.MODE_STAT_PHASE, 6), (R.DEV_GRADE_GRADE, 1)], by decide⟩,
   ⟨5, ⟨1, 0, true, 0, 1, true⟩, true, W [(R.MODE_STAT_MODE, 1), (R.MODE_STAT_PHASE, 6), (R.DEV_GRADE_GRADE, 1)], by decide⟩,
   ⟨5, { idx := 0, total := 2, regs := [], pts := [], tick := 3 }, W [(R.TWIN_STAT_STATE, 3)], by decide⟩,
   ⟨5, { idx := 0, total := 1, regs := [], pts := [], tick := 3 }, W [(R.TWIN_STAT_STATE, 3), (R.MODE_STAT_MODE, 5)], by decide⟩,
   ⟨250000000, W [(R.TWIN_STAT_STATE, 3), (R.MODE_STAT_MODE, 1)], by decide⟩,
   ⟨250000000, W [(R.TWIN_STAT_STATE, 3), (R.MODE_STAT_MODE, 2)], by decide⟩,
   ⟨1000000000, W [(R.TWIN_STAT_STATE, 5), (R.TWIN_STAT_LANES, 3)], by decide⟩⟩

theorem wit_RunInEnds :
    (∃ (dt : Nat) (r : List (Nat × Nat)) (s : State), (s.mode = 1) ∧ (s.get R.MODE_STAT_PHASE = 8)) ∧
    (∃ (dt : Nat) (a : Nat) (b : Nat) (s : State), (s.mode = 1) ∧ (s.get R.MODE_STAT_PHASE = 8) ∧ (a ≠ b)) ∧
    (∃ (dt : Nat) (s : State), (s.mode = 1) ∧ (s.get R.MODE_STAT_PHASE = 8) ∧ (s.mus.runInAt + 300000000 ≤ s.now + dt) ∧
      (s.mnf.safePending = none) ∧ (s.get R.THRM_STAT_AT_HARD = 0) ∧ (s.get R.THRM_STAT_BROKEN_OVER = 0) ∧ (s.isActive = true)) ∧
    (∃ (dt : Nat) (c : Nat) (s : State), (s.mode = 1) ∧ (s.get R.MODE_STAT_PHASE = 8) ∧ (s.mus.runInAt + 300000000 ≤ s.now + dt) ∧
      (s.mnf.safePending = some c) ∧ (c < 16)) ∧
    (∃ (dt : Nat) (s : State), (s.get R.MODE_STAT_PHASE ≠ 8)) :=
  ⟨⟨5, [(1, 7)], W [(R.MODE_STAT_MODE, 1), (R.MODE_STAT_PHASE, 8)], by decide⟩,
   ⟨5, 7, 8, W [(R.MODE_STAT_MODE, 1), (R.MODE_STAT_PHASE, 8)], by decide⟩,
   ⟨300000000, W [(R.MODE_STAT_MODE, 1), (R.MODE_STAT_PHASE, 8), (R.MODE_STAT_ACTIVE, 1)], by decide⟩,
   ⟨300000000, 4, { W [(R.MODE_STAT_MODE, 1), (R.MODE_STAT_PHASE, 8), (R.MODE_STAT_ACTIVE, 1)] with mnf := { safePending := some 4 } }, by decide⟩,
   ⟨5, State.reset, by decide⟩⟩

theorem wit_Sessions :
    (∃ (dt : Nat) (p : Port) (s : State), (s.get R.ROLE_STAT_SESSION ≠ 0) ∧ (s.role.owner = p)) ∧
    (∃ (dt : Nat) (p : Port) (s : State), (s.get R.ROLE_STAT_SESSION = 0)) ∧
    (∃ (dt : Nat) (p : Port) (s : State), (s.get R.ROLE_STAT_SESSION ≠ 0) ∧ (s.role.owner ≠ p)) ∧
    (∃ (dt : Nat) (s : State), (s.role.chalAt + 10000000000 ≤ s.now + dt)) ∧
    (∃ (dt : Nat) (t₀ : Nat) (s : State), (s.role.lockAt = some t₀) ∧ (t₀ + 60000000000 ≤ s.now + dt)) ∧
    (∃ (dt : Nat) (s : State), (s.get R.ROLE_STAT_SESSION ≠ 0) ∧ (s.role.rwlAt + 300000000000 ≤ s.now + dt)) ∧
    (∃ (dt : Nat) (p : Port) (r : Role) (s : State), (s.get R.ROLE_STAT_LOCKED ≠ 1) ∧ ((s.advance dt).openCause r = 0)) ∧
    (∃ (dt : Nat) (p : Port) (r : Role) (s : State), (s.get R.ROLE_STAT_LOCKED ≠ 1) ∧ ((s.advance dt).openCause r ≠ 0) ∧
      (s.get R.ROLE_STAT_FAILS < 2)) ∧
    (∃ (dt : Nat) (p : Port) (r : Role) (s : State), (s.get R.ROLE_STAT_LOCKED ≠ 1) ∧ ((s.advance dt).openCause r ≠ 0) ∧
      (2 ≤ s.get R.ROLE_STAT_FAILS)) ∧
    (∃ (dt : Nat) (p : Port) (r : Role) (s : State), (s.get R.ROLE_STAT_LOCKED = 1)) :=
  ⟨⟨5, .pcie, sess, by decide⟩,
   ⟨5, .pcie, State.reset, by decide⟩,
   ⟨5, .spi, sess, by decide⟩,
   ⟨10000000000, W [(R.ROLE_STAT_CHAL_VALID, 1)], by decide⟩,
   ⟨60000000000, 0, { W [(R.ROLE_STAT_LOCKED, 1), (R.ROLE_STAT_FAILS, 3)] with role := { lockAt := some 0 } }, by decide⟩,
   ⟨300000000000, sess, by decide⟩,
   ⟨5, .spi, .operator, (let s0 : State := { W [(R.ROLE_STAT_CHAL_VALID, 1)] with role := { operKey := some (5, 9) } }; (List.range 8).foldl (fun (s : State) n => s.set R.ROLE_RESP_RESP (ofLe (((s0.rightResponse 5 .operator).drop (4 * n)).take 4)) n) s0), by decide⟩,
   ⟨5, .spi, .operator, W [(R.ROLE_STAT_FAILS, 1)], by decide⟩,
   ⟨5, .spi, .operator, W [(R.ROLE_STAT_FAILS, 2)], by decide⟩,
   ⟨5, .spi, .operator, W [(R.ROLE_STAT_LOCKED, 1)], by decide⟩⟩

theorem wit_KeysProvisioned :
    (∃ (dt : Nat) (p : Port) (k : Nat) (s : State), (s.role.makerKey = none)) ∧
    (∃ (dt : Nat) (p : Port) (k : Nat) (s : State), (s.role.makerKey ≠ none) ∧ (s.session p = none)) ∧
    (∃ (dt : Nat) (p : Port) (k : Nat) (s : State), (s.session p = some .maker)) ∧
    (∃ (dt : Nat) (p : Port) (k : Nat) (s : State), ((s.session p = some .maker ∨ s.session p = some .installer))) ∧
    (∃ (dt : Nat) (p : Port) (k : Nat) (s : State), ((s.session p = none ∨ s.session p = some .operator))) ∧
    (∃ (dt : Nat) (p : Port) (k : Nat) (s : State), ((s.session p = none ∨ s.session p = some .operator))) :=
  ⟨⟨5, .spi, 9, W [(R.ROLE_KEY_KEY, 77)], by decide⟩,
   ⟨5, .spi, 9, { State.reset with role := { makerKey := some (1, 2) } }, by decide⟩,
   ⟨5, .pcie, 9, W [(R.ROLE_STAT_SESSION, 3), (R.ROLE_KEY_KEY, 77)] sess, by decide⟩,
   ⟨5, .pcie, 9, W [(R.ROLE_STAT_SESSION, 2), (R.ROLE_KEY_KEY, 77)] sess, by decide⟩,
   ⟨5, .pcie, 9, sess, by decide⟩,
   ⟨5, .spi, 9, sess, by decide⟩⟩

theorem wit_ManifestInstalled :
    (∃ (dt : Nat) (p : Port) (im : SlotImage) (rb : InstRun) (s : State), (s.session p = some .installer) ∧ (s.instAllowed = false)) ∧
    (∃ (dt : Nat) (p : Port) (im : SlotImage) (rb : InstRun) (s : State), (s.session p = some .installer) ∧ (s.instAllowed = true) ∧
      (s.imageOk im = false)) ∧
    (∃ (dt : Nat) (p : Port) (im : SlotImage) (s : State), (s.session p = some .installer) ∧ (s.instAllowed = true) ∧
      (s.imageOk im = true) ∧ (s.nvmOpen = true)) ∧
    (∃ (dt : Nat) (p : Port) (im : SlotImage) (rb : InstRun) (s : State), (s.session p = some .installer) ∧ (s.instAllowed = true) ∧
      (s.imageOk im = true) ∧ (s.nvmOpen = false)) ∧
    (∃ (dt : Nat) (p : Port) (b : SlotImage) (s : State), (s.session p = some .installer) ∧ (s.instAllowed = true) ∧
      (s.mnf.slotB = some b) ∧ (s.imageOk b = true) ∧ (s.nvmOpen = true)) ∧
    (∃ (dt : Nat) (i : Install) (s : State), (s.mnf.install = some i) ∧ (s.nvmOpen = true) ∧ (s.mnf.waiting = []) ∧ (i.cmd = 2)) ∧
    (∃ (dt : Nat) (rb : InstRun) (s : State), ((s.mnf.install = none ∨ s.nvmOpen = false ∨ s.mnf.waiting ≠ []))) ∧
    (∃ (dt : Nat) (im : SlotImage) (s : State), (s.isPaired = true) ∧ (s.isActive = false) ∧ (s.instAllowed = true) ∧
      (s.imageOk im = true) ∧ (s.nvmOpen = true)) ∧
    (∃ (dt : Nat) (it : JItem) (rest : List JItem) (s : State), (s.mnf.waiting = it :: rest) ∧ (s.nvmOpen = true) ∧
      ((it.kind = 1 ∨ it.kind = 3))) ∧
    (∃ (dt : Nat) (rb : Bool) (s : State), ((s.nvmOpen = false ∨ rb = false))) ∧
    (∃ (dt : Nat) (p : Port) (k : Nat) (v : Int) (l : Limit) (s : State), (s.session p = some .installer) ∧ (s.mode = 2) ∧
      (s.man.limits.find? (fun x => x.param = k) = some l) ∧ (l.lo ≤ v) ∧ (v ≤ l.hi) ∧ (s.tuneFits k v = true)) ∧
    (∃ (dt : Nat) (p : Port) (k : Nat) (v : Int) (s : State), (s.session p = some .installer) ∧ (s.mode ≠ 2)) ∧
    (∃ (dt : Nat) (s : State), (s.rollRuns = true) ∧ (s.pwr.l3 = 0) ∧ (s.tick % 1000 = 0) ∧ (s.mnf.rollSeq = 0)) ∧
    (∃ (dt : Nat) (s : State), ((s.pwr.l3 ≠ 0 ∨ s.tick % 1000 ≠ 0))) :=
  ⟨⟨5, .pcie, ⟨{}, { dAll := 7, dMaker := 9, digest := 7, makerTag := 1, instTag := 2 }, {}⟩, .done, W [(R.ROLE_STAT_SESSION, 2)] sess, by decide⟩,
   ⟨5, .pcie, ⟨{}, { dAll := 7, dMaker := 9, digest := 7, makerTag := 1, instTag := 2 }, {}⟩, .done, W [(R.ROLE_STAT_SESSION, 2), (R.MODE_STAT_MODE, 2)] sess, by decide⟩,
   ⟨5, .pcie, goodImage, { W [(R.ROLE_STAT_SESSION, 2), (R.MODE_STAT_MODE, 2), (R.MODE_STAT_SLOT, 1), (R.THRM_STAT_NVM_OPEN, 1)] sess with role := keyed, mus := { capacity := 268435456 } }, by decide⟩,
   ⟨5, .pcie, goodImage, .done, { W [(R.ROLE_STAT_SESSION, 2), (R.MODE_STAT_MODE, 2), (R.MODE_STAT_SLOT, 1)] sess with role := keyed, mus := { capacity := 268435456 } }, by decide⟩,
   ⟨5, .pcie, goodImage, { W [(R.ROLE_STAT_SESSION, 2), (R.MODE_STAT_MODE, 2), (R.MODE_STAT_SLOT, 1), (R.THRM_STAT_NVM_OPEN, 1)] sess with role := keyed, mus := { capacity := 268435456 }, mnf := { slotB := some goodImage } }, by decide +kernel⟩,
   ⟨5, ⟨2, 2, goodImage⟩, { W [(R.THRM_STAT_NVM_OPEN, 1)] with mnf := { install := some ⟨2, 2, goodImage⟩ } }, by decide +kernel⟩,
   ⟨5, .done, State.reset, by decide⟩,
   ⟨5, goodImage, { W [(R.MODE_STAT_PAIRED, 1), (R.MODE_STAT_MODE, 2), (R.MODE_STAT_SLOT, 1), (R.THRM_STAT_NVM_OPEN, 1)] with role := keyed, mus := { capacity := 268435456 } }, by decide⟩,
   ⟨5, ⟨1, [4]⟩, [], { W [(R.THRM_STAT_NVM_OPEN, 1)] with mnf := { waiting := [⟨1, [4]⟩] } }, by decide⟩,
   ⟨5, true, { State.reset with mnf := { waiting := [⟨1, [4]⟩] } }, by decide⟩,
   ⟨5, .pcie, 3, 5, ⟨3, 4, 0, 9⟩, { W [(R.ROLE_STAT_SESSION, 2), (R.MODE_STAT_MODE, 2)] sess with man := { limits := [⟨3, 4, 0, 9⟩] } }, by decide⟩,
   ⟨5, .pcie, 3, 5, W [(R.ROLE_STAT_SESSION, 2), (R.MODE_STAT_MODE, 3)] sess, by decide⟩,
   ⟨5, W [(R.MODE_STAT_MODE, 1), (R.MODE_STAT_PHASE, 8), (R.MODE_STAT_ACTIVE, 1)], by decide⟩,
   ⟨5, { State.reset with tick := 1 }, by decide⟩⟩

theorem wit_ModeCommands :
    (∃ (dt : Nat) (tag : Nat) (p : Port) (s : State) (x : Nat × Instr), (x ∈ modeCmds dt (.host p) tag) ∧
      (s.session p = some .operator) ∧ (s.mode ≠ 1) ∧ (s.isActive = true) ∧ (transGuards s.mode x.1 ≠ none)) ∧
    (∃ (dt : Nat) (tag : Nat) (k : Nat) (s : State) (x : Nat × Instr), (x ∈ modeCmds dt (.point k) tag) ∧ (k ∈ s.man.modePoints) ∧
      (s.mode ≠ 1) ∧ (s.isActive = true) ∧ (transGuards s.mode x.1 ≠ none)) ∧
    (∃ (dt : Nat) (tag : Nat) (k : Nat) (s : State) (x : Nat × Instr), (x ∈ modeCmds dt (.point k) tag) ∧ (k ∉ s.man.modePoints)) ∧
    (∃ (dt : Nat) (tag : Nat) (p : Port) (s : State) (x : Nat × Instr), (x ∈ modeCmds dt (.host p) tag) ∧
      (s.session p ≠ some .operator)) ∧
    (∃ (dt : Nat) (tag : Nat) (p : Port) (s : State) (x : Nat × Instr), (x ∈ modeCmds dt (.host p) tag) ∧
      (s.session p = some .operator) ∧ (s.mode ≠ 1) ∧ (s.isActive = true) ∧ (transGuards s.mode x.1 = none)) :=
  ⟨⟨5, 300, .pcie, W [(R.MODE_STAT_MODE, 2), (R.MODE_STAT_ACTIVE, 1)] opSess, (3, .modeCmdStation 5 (.host .pcie) 300), by decide⟩,
   ⟨5, 300, 9, { W [(R.MODE_STAT_MODE, 2), (R.MODE_STAT_ACTIVE, 1)] with man := { modePoints := [9] } }, (3, .modeCmdStation 5 (.point 9) 300), by decide⟩,
   ⟨5, 3, 9, State.reset, (3, .modeCmdStation 5 (.point 9) 3), by decide⟩,
   ⟨5, 3, .spi, opSess, (3, .modeCmdStation 5 (.host .spi) 3), by decide⟩,
   ⟨5, 300, .pcie, W [(R.MODE_STAT_MODE, 2), (R.MODE_STAT_ACTIVE, 1)] opSess, (2, .modeCmdReady 5 (.host .pcie) 300), by decide⟩⟩

theorem wit_ModeChanges :
    (∃ (dt : Nat) (c : Nat) (s : State), (s.mnf.safePending = some c) ∧ (s.inService = true) ∧ (s.get R.MODE_STAT_SAFE_CAUSE = 0) ∧
      (c < 256)) ∧
    (∃ (dt : Nat) (s : State), (s.mnf.safePending = none)) ∧
    (∃ (dt : Nat) (p : Port) (s : State), (s.session p = some .operator) ∧ (s.mnf.resetKeyAt = none)) ∧
    (∃ (dt : Nat) (t₀ : Nat) (p : Port) (s : State), (s.session p = some .operator) ∧ (s.mnf.resetKeyAt = some t₀) ∧
      (s.now + dt ≤ t₀ + 1000000000)) ∧
    (∃ (dt : Nat) (k : Nat) (p : Port) (s : State), (s.session p = some .operator) ∧ (s.mnf.resetKeyAt = none) ∧ (k ≠ 0xA55A)) ∧
    (∃ (dt : Nat) (t₀ : Nat) (s : State), (s.mnf.resetKeyAt = some t₀) ∧ (t₀ + 1000000000 < s.now + dt)) ∧
    (∃ (dt : Nat) (s : State), (s.mnf.resetKeyAt = none)) ∧
    (∃ (dt : Nat) (a : Nat) (s : State), (s.mus.dormantAt = some a) ∧ (s.mus.wakeLatched = false)) ∧
    (∃ (dt : Nat) (s : State), (s.mus.dormantAt = none)) :=
  ⟨⟨5, 4, { W [(R.MODE_STAT_MODE, 3), (R.MODE_STAT_SAFE_CAUSE, 0), (R.MODE_STAT_PENDING, 1)] with mnf := { safePending := some 4, pendingMode := some ⟨4, 3, .point 2, 1, 5⟩ } }, by decide⟩,
   ⟨5, State.reset, by decide⟩,
   ⟨5, .pcie, opSess, by decide⟩,
   ⟨1000000000, 0, .pcie, { opSess with mnf := { resetKeyAt := some 0 } }, by decide⟩,
   ⟨5, 0x5AA5, .pcie, opSess, by decide⟩,
   ⟨1000000001, 0, { opSess with mnf := { resetKeyAt := some 0 } }, by decide⟩,
   ⟨5, State.reset, by decide⟩,
   ⟨5, 3, { W [(R.MODE_STAT_MODE, 0)] with mus := { dormantAt := some 3, railOk := mainRails } }, by decide⟩,
   ⟨5, State.reset, by decide⟩⟩

theorem wit_DeviceFaults :
    (∃ (dt : Nat) (e : Nat) (s : State), (s.inService = true) ∧ (s.isActive = true) ∧ (s.isPaired = true)) ∧
    (∃ (dt : Nat) (e : Nat) (s : State), (s.inService = true) ∧ (s.isActive = true) ∧ (s.isPaired = false)) ∧
    (∃ (dt : Nat) (u : Nat) (m : MemKind) (s : State), (m ∈ [MemKind.engine, .scratch, .shared, .retention, .dram])) ∧
    (∃ (dt : Nat) (m : MemKind) (s : State), (m ≠ .scratch)) ∧
    (∃ (dt : Nat) (c : List (FastDomain × Nat)) (s : State), (c.any countOff = true)) ∧
    (∃ (dt : Nat) (c : List (FastDomain × Nat)) (s : State), (c.any countOff = false)) ∧
    (∃ (dt : Nat) (p : Nat) (w : Nat) (s : State), (2048 ≤ w)) ∧
    (∃ (dt : Nat) (p : Nat) (w : Nat) (s : State), (w < 2048)) :=
  ⟨⟨5, 3, W [(R.MODE_STAT_MODE, 3), (R.MODE_STAT_ACTIVE, 1), (R.MODE_STAT_PAIRED, 1)], by decide⟩,
   ⟨5, 3, W [(R.MODE_STAT_MODE, 3), (R.MODE_STAT_ACTIVE, 1), (R.MODE_STAT_PAIRED, 0)], by decide⟩,
   ⟨5, 3, .dram, State.reset, by decide⟩,
   ⟨5, .dram, State.reset, by decide⟩,
   ⟨5, [(.f800, 1578126)], State.reset, by decide⟩,
   ⟨5, [(.f800, 1578125), (.f200, 386719)], State.reset, by decide⟩,
   ⟨5, 3, 2048, State.reset, by decide⟩,
   ⟨5, 3, 2047, State.reset, by decide⟩⟩

theorem wit_WakesFromDormant :
    (∃ (dt : Nat) (k : Nat) (v : Nat) (f : Fld) (low : Bool) (c : Instr) (s : State), ((f, v, low, c) ∈ wakeCmds dt k s) ∧
      (s.dormant = true) ∧ (s.pwr.l3 = 0) ∧ (s.mus.wake = false) ∧ (s.mus.wakeLatched = false) ∧ (s.mus.dormantAt = none) ∧
      (v ≠ 0) ∧ (v < 2 ^ f.width)) ∧
    (∃ (dt : Nat) (k : Nat) (v : Nat) (f : Fld) (low : Bool) (c : Instr) (s : State), ((f, v, low, c) ∈ wakeCmds dt k s) ∧
      (s.dormant = true) ∧ (s.pwr.l3 = 0) ∧ (s.mus.wake = false) ∧ (s.mus.wakeLatched = false) ∧ (s.mus.dormantAt ≠ none) ∧
      (v ≠ 0) ∧ (v < 2 ^ f.width)) ∧
    (∃ (dt : Nat) (k : Nat) (f : Fld) (low : Bool) (c : Instr) (s : State), ((f, 0, low, c) ∈ wakeCmds dt k s) ∧ (s.pwr.l3 = 0)) ∧
    (∃ (dt : Nat) (s : State), (s.pwr.l3 = 0)) ∧
    (∃ (dt : Nat) (s : State), (s.dormant = true) ∧ (s.mus.wake = false) ∧ (s.mus.wakeLatched = false) ∧ (s.mus.dormantAt = none) ∧
      (s.pwr.l3 = 0) ∧ (s.get R.PWR_RTC_ALARM_SEC ≠ 0) ∧ (s.time.rtcOk = true) ∧
      (s.get R.PWR_RTC_ALARM_SEC ≤ (s.advance dt).time.rtc / 4294967296000000000 % 4294967296) ∧ (s.get R.PWR_WAKE_EN_RTC = 1)) ∧
    (∃ (dt : Nat) (s : State), (s.get R.PWR_RTC_ALARM_SEC = 0)) :=
  ⟨⟨5, 3, 8, R.PWR_WAKE_SRC_CAN, true, .canWakePattern 5 3, W [(R.PWR_WAKE_EN_CAN, 8)] asleep, by decide⟩,
   ⟨5, 3, 8, R.PWR_WAKE_SRC_CAN, true, .canWakePattern 5 3, { W [(R.PWR_WAKE_EN_CAN, 8)] asleep with mus := { porLow := false, aonAt := some 0, dormantAt := some 0 } }, by decide⟩,
   ⟨5, 3, R.PWR_WAKE_SRC_CAN, true, .canWakePattern 5 3, W [(R.PWR_WAKE_EN_CAN, 0)] asleep, by decide⟩,
   ⟨5, { asleep with mus := { wakeN := true } }, by decide⟩,
   ⟨5, { W [(R.PWR_RTC_ALARM_SEC, 9), (R.PWR_WAKE_EN_RTC, 1)] asleep with time := { rtcOk := true, rtc := 9 * 4294967296000000000 } }, by decide⟩,
   ⟨5, W [(R.PWR_RTC_ALARM_SEC, 0)], by decide⟩⟩

theorem wit_LullDepths :
    (∃ (dt : Nat) (p : Port) (us : Nat) (s : State), (s.session p = some .operator) ∧ (us < 16777216) ∧ (s.pwr.l3 = 0) ∧
      (permittedDepth us = permittedDepth (s.get R.PWR_LAT_TOL_US))) ∧
    (∃ (dt : Nat) (p : Port) (us : Nat) (s : State), (s.session p = some .operator) ∧ (us < 16777216) ∧ (s.pwr.l3 = 0) ∧
      (permittedDepth us ≠ permittedDepth (s.get R.PWR_LAT_TOL_US))) ∧
    (∃ (dt : Nat) (p : Port) (us : Nat) (s : State), (s.session p ≠ some .operator) ∧ (s.pwr.l3 = 0)) ∧
    (∃ (dt : Nat) (d : Nat) (n : Nat) (s : State), (d < 4) ∧ (s.pwr.l3 = 0) ∧ (s.mode = 2) ∧ (s.get R.PWR_STAT_DEPTH ≠ 3) ∧
      (250 ≤ s.get R.PWR_LAT_TOL_US) ∧ (320000 < n)) ∧
    (∃ (dt : Nat) (n : Nat) (s : State), (s.pwr.l3 = 0) ∧ (s.mode = 2) ∧ (s.get R.PWR_STAT_DEPTH ≠ 3) ∧
      (10 ≤ s.get R.PWR_LAT_TOL_US) ∧ (s.get R.PWR_LAT_TOL_US < 250) ∧ (31000 < n)) ∧
    (∃ (dt : Nat) (d : Nat) (n : Nat) (s : State), ((s.mode ≠ 2 ∨ n ≤ 31000)) ∧ (s.get R.PWR_STAT_DEPTH ≠ 3)) ∧
    (∃ (dt : Nat) (d : Nat) (s : State), (d < 4) ∧ (tfind s.pwr.gaps d ≠ none)) ∧
    (∃ (dt : Nat) (d : Nat) (s : State), (tfind s.pwr.gaps d = none)) ∧
    (∃ (dt : Nat) (t₀ : Nat) (s : State), (s.pwr.okSince = some t₀) ∧ (s.pwr.l3 = 0) ∧ ((s.advance dt).lullBlock = 0) ∧
      (t₀ + 1000000000 ≤ s.now + dt) ∧ (s.isActive = true) ∧ (s.tick % 5000 = 0)) ∧
    (∃ (dt : Nat) (s : State), ((s.pwr.okSince = none ∨ s.tick % 5000 ≠ 0 ∨ s.pwr.l3 ≠ 0))) ∧
    (∃ (dt : Nat) (s : State), (s.pwr.l3 = 2) ∧ (s.log.lostHold = 0)) ∧
    (∃ (dt : Nat) (s : State), (s.pwr.l3 = 1) ∧ (s.pwr.follower = false)) ∧
    (∃ (dt : Nat) (s : State), (s.pwr.l3 ≠ 1)) :=
  ⟨⟨5, .pcie, 6001, { W [(R.PWR_LAT_TOL_US, 6000)] opSess with pwr := {} }, by decide⟩,
   ⟨5, .pcie, 6000, { W [(R.PWR_LAT_TOL_US, 5999)] opSess with pwr := {} }, by decide⟩,
   ⟨5, .spi, 6000, { opSess with pwr := {} }, by decide⟩,
   ⟨5, 3, 320001, { W [(R.MODE_STAT_MODE, 2), (R.PWR_LAT_TOL_US, 250), (R.PWR_STAT_DEPTH, 0)] with pwr := {} }, by decide⟩,
   ⟨5, 31001, { W [(R.MODE_STAT_MODE, 2), (R.PWR_LAT_TOL_US, 249), (R.PWR_STAT_DEPTH, 0)] with pwr := {} }, by decide⟩,
   ⟨5, 3, 31000, W [(R.PWR_STAT_DEPTH, 1)], by decide⟩,
   ⟨5, 3, { W [(R.PWR_STAT_QUAD_GATED, 15)] with pwr := { gaps := [(3, 2)] } }, by decide⟩,
   ⟨5, 3, State.reset, by decide⟩,
   ⟨1000000000, 0, { W [(R.MODE_STAT_MODE, 2), (R.MODE_STAT_ACTIVE, 1), (R.PWR_LAT_TOL_US, 6000), (R.GNSS_STAT_STATE, 0), (R.THRM_STAT_NVM_OPEN, 1)] State.reset with pwr := { okSince := some 0 }, man := { power := { lull3 := true } } }, by decide⟩,
   ⟨5, State.reset, by decide⟩,
   ⟨5, { W [(R.PWR_STAT_DEPTH, 3), (R.PWR_STAT_QUAD_GATED, 15)] with pwr := { l3 := 2 } }, by decide⟩,
   ⟨5, { State.reset with pwr := { l3 := 1 } }, by decide⟩,
   ⟨5, State.reset, by decide⟩⟩

theorem wit_ThermalLimits :
    (∃ (dt : Nat) (s : State), (s.mus.pllLocked = true) ∧ (s.thrm.shut = none) ∧ (s.thrm.seen = false)) ∧
    (∃ (dt : Nat) (v : List (Nat × Int)) (s : State), ((s.mus.pllLocked = false ∨ s.thrm.shut ≠ none))) ∧
    (∃ (dt : Nat) (n : Nat) (s : State), (n < 24) ∧ (s.sensState n = 0) ∧ (sensBad (s.sens n) = true)) ∧
    (∃ (dt : Nat) (n : Nat) (s : State), ((24 ≤ n ∨ s.sensState n ≠ 0 ∨ sensBad (s.sens n) = false))) ∧
    (∃ (dt : Nat) (n : Nat) (s : State), (s.sensState n ≠ 0) ∧ (256 ≤ (s.sens n).good)) ∧
    (∃ (dt : Nat) (n : Nat) (s : State), ((s.sensState n = 0 ∨ (s.sens n).good < 256))) ∧
    (∃ (dt : Nat) (op : Nat) (us : Nat) (n : Nat) (h : Int) (s : State), (s.thrm.shut = some (n, h))) ∧
    (∃ (dt : Nat) (op : Nat) (us : Nat) (s : State), (s.thrm.shut = none)) :=
  ⟨⟨5, { State.reset with mus := { pllLocked := true }, thrm := {} }, by decide⟩,
   ⟨5, [], State.reset, by decide⟩,
   ⟨5, 3, { WB [(R.THRM_SENS_INFO_STATE, 3, 0)] with thrm := { sens := [(3, { band := false })] } }, by decide⟩,
   ⟨5, 24, State.reset, by decide⟩,
   ⟨5, 3, { WB [(R.THRM_SENS_INFO_STATE, 3, 3)] with thrm := { sens := [(3, { good := 256 })] } }, by decide⟩,
   ⟨5, 3, { WB [(R.THRM_SENS_INFO_STATE, 3, 3)] with thrm := { sens := [(3, { good := 255 })] } }, by decide⟩,
   ⟨5, 1, 2001, 3, 1350, { W [(R.MODE_STAT_MODE, 3)] with thrm := { shut := some (3, 1350) } }, by decide⟩,
   ⟨5, 1, 2001, State.reset, by decide⟩⟩

theorem wit_TimeLatched :
    (∃ (dt : Nat) (t₀ : Nat) (s : State), (s.time.fixAt = some t₀) ∧ (s.stepped = false) ∧ (s.tick % 1000 = 0) ∧
      (t₀ + 20000000 ≤ s.now + dt) ∧ (s.isPaired = false) ∧ (s.stepFix.1 < 8)) ∧
    (∃ (dt : Nat) (s : State), ((s.time.fixAt = none ∨ s.stepped = true ∨ s.tick % 1000 ≠ 0))) ∧
    (∃ (dt : Nat) (s : State), (s.stepped = true) ∧ (s.geti R.TIME_GRID_NS = 0) ∧ (s.get R.TIME_STAT_GRID_ALIGNED = 0)) ∧
    (∃ (dt : Nat) (s : State), ((s.stepped = false ∨ s.geti R.TIME_GRID_NS ≠ 0))) :=
  ⟨⟨20000000, 0, { W [(R.TIME_STAT_STEPPED, 0), (R.MODE_STAT_PAIRED, 0)] with time := { running := true, fixAt := some 0, fixSrc := 1, fixOfs := 123456789012 } }, by decide⟩,
   ⟨5, State.reset, by decide⟩,
   ⟨5, { W [(R.TIME_STAT_STEPPED, 1), (R.TIME_GRID_NS, 0), (R.TIME_STAT_GRID_ALIGNED, 0)] with time := { tickCycles := 3960 } }, by decide⟩,
   ⟨5, W [(R.TIME_STAT_STEPPED, 0)], by decide⟩⟩

theorem wit_TimeSources :
    (∃ (dt : Nat) (fe : Rat) (ofs : Int) (utc : Option (Int × Nat)) (s : State), (s.stepped = true) ∧ (s.bestSrc ≠ 0) ∧
      (s.bestSrc < 8) ∧ (s.timeState ≠ 2) ∧ (s.isPaired = false)) ∧
    (∃ (dt : Nat) (fe : Rat) (ofs : Int) (utc : Option (Int × Nat)) (s : State), ((s.stepped = false ∨ s.timeState = 2))) ∧
    (∃ (dt : Nat) (fe : Rat) (ofs : Int) (utc : Option (Int × Nat)) (s : State), (s.stepped = true) ∧ (s.bestSrc = 0) ∧
      (s.timeState ≠ 2) ∧ (s.isPaired = false)) ∧
    (∃ (dt : Nat) (src : Nat) (s : State), (src ∈ s.time.live) ∧
      (tget s.time.seenAt src 0 + s.man.holdEnter * 1000000000 ≤ s.now + dt) ∧ (s.stepped = true) ∧ (s.isPaired = false) ∧
      (s.timeState ≠ 2) ∧ ((s.man.srcList.find? fun x => x ∈ s.time.live.filter (· ≠ src)) = none)) ∧
    (∃ (dt : Nat) (src : Nat) (b : Nat) (s : State), (src ∈ s.time.live) ∧
      (tget s.time.seenAt src 0 + s.man.holdEnter * 1000000000 ≤ s.now + dt) ∧ (s.stepped = true) ∧ (s.isPaired = false) ∧
      ((s.man.srcList.find? fun x => x ∈ s.time.live.filter (· ≠ src)) = some b) ∧ (b ≠ 0) ∧ (b < 8)) ∧
    (∃ (dt : Nat) (src : Nat) (s : State), (src ∉ s.time.live)) ∧
    (∃ (dt : Nat) (src : Nat) (o : Int) (s : State), (src ∈ s.man.srcList) ∧ (s.stepped = true) ∧ (s.timeState = 2) ∧
      (s.isPaired = false)) ∧
    (∃ (dt : Nat) (src : Nat) (o : Int) (s : State), (src ∈ s.man.srcList) ∧ (s.stepped = false) ∧ (src ≠ 6) ∧
      (s.time.fixAt = none)) ∧
    (∃ (dt : Nat) (o : Int) (s : State), (s.stepped = false)) ∧
    (∃ (dt : Nat) (s : State), (s.timeState = 3) ∧ (11 ≤ s.time.below)) ∧
    (∃ (dt : Nat) (s : State), ((s.timeState ≠ 3 ∨ s.time.below < 11))) ∧
    (∃ (dt : Nat) (s : State), (s.timeState = 2) ∧ (s.time.uncAlarm = false) ∧
      (((s.man.uncLimit : Nat) : Rat) < holdUnc s.time.u0 s.man.oscStab s.man.oscAging (((s.now + dt - s.time.holdAt : Nat) : Rat) / 1000000000))) ∧
    (∃ (dt : Nat) (s : State), ((s.timeState ≠ 2 ∨ s.time.uncAlarm = true))) :=
  ⟨⟨5, 3, 1600, some (37, 1), { W [(R.TIME_STAT_STEPPED, 1), (R.MODE_STAT_PAIRED, 0), (R.TIME_STAT_STATE, 1)] with time := { live := [1] }, man := { srcList := [1] } }, by decide⟩,
   ⟨5, 3, 1600, none, State.reset, by decide⟩,
   ⟨5, 3, 1600, none, { W [(R.TIME_STAT_STEPPED, 1), (R.MODE_STAT_PAIRED, 0), (R.TIME_STAT_STATE, 1)] with time := {} }, by decide⟩,
   ⟨3000000000, 1, { W [(R.TIME_STAT_STEPPED, 1), (R.MODE_STAT_PAIRED, 0), (R.TIME_STAT_STATE, 1)] with time := { live := [1] }, man := { srcList := [1] } }, by decide⟩,
   ⟨3000000000, 1, 2, { W [(R.TIME_STAT_STEPPED, 1), (R.MODE_STAT_PAIRED, 0), (R.TIME_STAT_STATE, 1)] with time := { live := [1, 2] }, man := { srcList := [1, 2] } }, by decide⟩,
   ⟨5, 1, State.reset, by decide⟩,
   ⟨5, 1, 77, { W [(R.TIME_STAT_STEPPED, 1), (R.TIME_STAT_STATE, 2), (R.MODE_STAT_PAIRED, 0)] with man := { srcList := [1] } }, by decide⟩,
   ⟨5, 1, 77, { W [(R.TIME_STAT_STEPPED, 0)] with man := { srcList := [1] } }, by decide⟩,
   ⟨5, 77, { W [(R.TIME_STAT_STEPPED, 0)] with man := { srcList := [6] } }, by decide⟩,
   ⟨5, { W [(R.TIME_STAT_STATE, 3), (R.TIME_STAT_UNC_OVER, 1)] with time := { below := 11, uncAlarm := true } }, by decide⟩,
   ⟨5, State.reset, by decide +kernel⟩,
   ⟨1000000000, { W [(R.TIME_STAT_STATE, 2)] with time := { u0 := 1000000 } }, by decide +kernel⟩,
   ⟨5, State.reset, by decide⟩⟩

theorem wit_TimePulses :
    (∃ (dt : Nat) (s : State), (s.get R.TIME_UTC_LEAP = 1) ∧ (s.geti R.TIME_UTC_UTC_OFS < 32767)) ∧
    (∃ (dt : Nat) (s : State), (s.get R.TIME_UTC_LEAP = 2) ∧ (-32768 < s.geti R.TIME_UTC_UTC_OFS)) ∧
    (∃ (dt : Nat) (s : State), (s.get R.TIME_UTC_LEAP = 0)) ∧
    (∃ (dt : Nat) (q : Int) (s : State), ((s.advance dt).ppsDrives = true)) ∧
    (∃ (dt : Nat) (q : Int) (s : State), ((s.advance dt).ppsMay = false)) ∧
    (∃ (dt : Nat) (s : State), (s.time.ppsHigh = true) ∧ (s.time.ppsAt + s.man.ppsWidth * 1000000 ≤ s.now + dt)) ∧
    (∃ (dt : Nat) (s : State), (s.time.ppsHigh = false)) ∧
    (∃ (dt : Nat) (s : State), ((6 ∉ s.man.srcList ∨ s.stepped = false))) ∧
    (∃ (dt : Nat) (t₀ : Nat) (s : State), (6 ∈ s.man.srcList) ∧ (s.stepped = true) ∧ (s.time.ppsInAt = some t₀) ∧
      ((s.advance dt).ns ≤ t₀ + 1000010000) ∧ (t₀ + 999990000 ≤ (s.advance dt).ns) ∧ (s.timeState = 2) ∧ (6 ∉ s.time.live) ∧
      (s.isPaired = false)) ∧
    (∃ (dt : Nat) (s : State), (s.man.ext10mUse = true)) ∧
    (∃ (dt : Nat) (s : State), (s.man.ext10mUse = true)) ∧
    (∃ (dt : Nat) (c : Instr) (s : State), (c ∈ [Instr.ext10mLoss dt, .ext10mRestore dt]) ∧ (s.man.ext10mUse = false)) ∧
    (∃ (dt : Nat) (u : Nat) (c : TrigCfg) (s : State), (s.man.trig[u]? = some c) ∧ ((s.advance dt).trigDue u c = true) ∧
      (c.target = 1)) ∧
    (∃ (dt : Nat) (u : Nat) (s : State), (s.man.trig[u]? = none)) :=
  ⟨⟨5, W [(R.TIME_UTC_LEAP, 1), (R.TIME_UTC_UTC_OFS, 37)], by decide⟩,
   ⟨5, W [(R.TIME_UTC_LEAP, 2), (R.TIME_UTC_UTC_OFS, 37)], by decide⟩,
   ⟨5, W [(R.TIME_UTC_LEAP, 0)], by decide⟩,
   ⟨5, -100, { W [(R.MODE_STAT_ACTIVE, 1), (R.TWIN_STAT_ACTIVE_OUT, 1), (R.TIME_STAT_STATE, 1)] with time := {} }, by decide⟩,
   ⟨5, 39, W [(R.MODE_STAT_ACTIVE, 0)], by decide⟩,
   ⟨100000000, { State.reset with time := { ppsHigh := true } }, by decide⟩,
   ⟨5, State.reset, by decide⟩,
   ⟨5, { State.reset with time := { running := true, count := 0x7FFFFFFFFFFFFFFFFFFFF } }, by decide⟩,
   ⟨0, 1000000000, { W [(R.TIME_STAT_STEPPED, 1), (R.TIME_STAT_STATE, 2), (R.MODE_STAT_PAIRED, 0)] with man := { srcList := [6] }, time := { count := 2000000000 * 4294967296, ppsInAt := some 1000000000 } }, by decide⟩,
   ⟨5, { State.reset with man := { ext10mUse := true } }, by decide⟩,
   ⟨5, { State.reset with man := { ext10mUse := true } }, by decide⟩,
   ⟨5, .ext10mLoss 5, State.reset, by decide⟩,
   ⟨5, 0, ⟨2, 1, 3, 10, 4, 0⟩, { State.reset with tick := 14, man := { trig := [⟨2, 1, 3, 10, 4, 0⟩] } }, by decide⟩,
   ⟨5, 0, State.reset, by decide⟩⟩

theorem wit_PtpMessages :
    (∃ (dt : Nat) (p : Nat) (r : PtpReading) (s : State), (p < 4) ∧ (s.get (ptpRoleFld p) ≠ 0) ∧ (r.offset = none) ∧ (r.state < 8) ∧
      (r.state ≠ 3)) ∧
    (∃ (dt : Nat) (p : Nat) (r : PtpReading) (o : Int) (s : State), (p < 4) ∧ (s.get (ptpRoleFld p) ≠ 0) ∧ (r.offset = some o) ∧
      (r.state = 3) ∧ (s.get (ptpStateFld p) = 3) ∧ (([0, 1, 2, 3].all fun q => q = p || s.get (ptpStateFld q) ≠ 3) = true) ∧
      ((s.ptp p).offsets.length < 7) ∧ (2 + p ∉ s.time.live)) ∧
    (∃ (dt : Nat) (p : Nat) (r : PtpReading) (u : Int) (s : State), (p < 4) ∧ (s.get (ptpRoleFld p) ≠ 0) ∧ (r.utcOfs = some u) ∧
      (r.state = s.get (ptpStateFld p)) ∧ (r.state ≠ 3) ∧ (s.get R.TIME_STAT_SRC = 2 + p) ∧ (r.leap < 4)) ∧
    (∃ (dt : Nat) (p : Nat) (r : PtpReading) (c : Instr) (s : State),
      (c ∈ [Instr.ptpEventMessage dt p r, .ptpGeneralMessage dt p r]) ∧ (s.get (ptpRoleFld p) = 0)) ∧
    (∃ (dt : Nat) (p : Nat) (iv : Nat) (s : State), (s.ptpMaster p = true) ∧ ((s.ptp p).sentSync + iv ≤ s.now + dt)) ∧
    (∃ (dt : Nat) (p : Nat) (iv : Nat) (c : EthCfg) (s : State), (s.ptpMaster p = true) ∧ ((s.ptp p).sentSync + iv ≤ s.now + dt) ∧
      (s.ethCfg p = some c) ∧ (s.get R.ETH_STAT_TX_ON p = 1) ∧ (s.get R.ETH_STAT_LINK p ≠ 1)) ∧
    (∃ (dt : Nat) (p : Nat) (iv : Nat) (s : State), (s.ptpMaster p = true) ∧ ((s.ptp p).sentAnnounce + iv ≤ s.now + dt) ∧
      (([0, 1, 2, 3].all fun q => s.get (ptpStateFld q) ≠ 3) = true)) ∧
    (∃ (dt : Nat) (p : Nat) (iv : Nat) (c : Instr) (s : State), (c ∈ [Instr.ptpSyncTransmit dt p iv, .ptpAnnounceTransmit dt p iv])
      ∧ (s.ptpMaster p = false)) ∧
    (∃ (dt : Nat) (p : Nat) (iv : Nat) (s : State), (s.get (ptpRoleFld p) ≠ 0) ∧
      ((s.drives = true ∨ (p ∈ s.man.ptpP2p ∧ s.get R.DEV_STAT_DRIVES_NOTHING = 0))) ∧ ((s.ptp p).sentReq + iv ≤ s.now + dt)) ∧
    (∃ (dt : Nat) (p : Nat) (iv : Nat) (s : State), (s.drives = false) ∧ (p ∉ s.man.ptpP2p)) ∧
    (∃ (dt : Nat) (p : Nat) (iv : Nat) (s : State), (s.get (ptpRoleFld p) = 0)) :=
  ⟨⟨5, 0, { state := 2 }, W [(R.TIME_PTP_ROLE0, 1)], by decide⟩,
   ⟨5, 0, { state := 3, offset := some 5 }, 5, W [(R.TIME_PTP_ROLE0, 1), (R.TIME_PTP_STATE0, 3)], by decide⟩,
   ⟨5, 0, { state := 4, utcOfs := some 37, leap := 1 }, 37, W [(R.TIME_PTP_ROLE0, 1), (R.TIME_PTP_STATE0, 4), (R.TIME_STAT_SRC, 2)], by decide⟩,
   ⟨5, 0, { state := 3 }, .ptpEventMessage 5 0 { state := 3 }, W [(R.TIME_PTP_ROLE0, 0)], by decide⟩,
   ⟨1000, 0, 1000, { W [(R.TIME_PTP_STATE0, 2), (R.MODE_STAT_ACTIVE, 1), (R.TWIN_STAT_ACTIVE_OUT, 1)] with time := {} }, by decide⟩,
   ⟨1000, 0, 1000, { vlan := 9 }, { W [(R.TIME_PTP_STATE0, 2), (R.MODE_STAT_ACTIVE, 1), (R.TWIN_STAT_ACTIVE_OUT, 1), (R.ETH_STAT_TX_ON, 1)] with time := {}, man := { eth := [(0, { vlan := 9 })] } }, by decide⟩,
   ⟨1000, 0, 1000, { W [(R.TIME_PTP_STATE0, 2), (R.MODE_STAT_ACTIVE, 1), (R.TWIN_STAT_ACTIVE_OUT, 1)] with time := {} }, by decide⟩,
   ⟨5, 0, 5, .ptpSyncTransmit 5 0 5, W [(R.TIME_PTP_STATE0, 0)], by decide⟩,
   ⟨1000, 0, 1000, W [(R.TIME_PTP_ROLE0, 1), (R.MODE_STAT_ACTIVE, 1), (R.TWIN_STAT_ACTIVE_OUT, 1)], by decide⟩,
   ⟨5, 0, 5, W [(R.TIME_PTP_ROLE0, 1)], by decide⟩,
   ⟨5, 0, 5, W [(R.TIME_PTP_ROLE0, 0)], by decide⟩⟩

theorem wit_GnssBands :
    (∃ (dt : Nat) (l1 : Option Int) (l5 : Option Int) (s : State), (s.get R.GNSS_STAT_STATE ≠ 0) ∧ (s.get R.GNSS_STAT_STATE ≠ 4) ∧
      (bandBad l1 = true) ∧ (s.gnss.fault1 = false)) ∧
    (∃ (dt : Nat) (a : Int) (b : Int) (s : State), (s.get R.GNSS_STAT_STATE ≠ 0) ∧ (s.get R.GNSS_STAT_STATE ≠ 4) ∧
      (bandBad (some a) = false) ∧ (bandBad (some b) = false) ∧ (s.gnss.fault1 = false) ∧ (s.gnss.fault5 = false)) ∧
    (∃ (dt : Nat) (l1 : Option Int) (l5 : Option Int) (s : State), ((s.get R.GNSS_STAT_STATE = 0 ∨ s.get R.GNSS_STAT_STATE = 4))) ∧
    (∃ (dt : Nat) (p : Int) (s : State), (s.get R.GNSS_STAT_STATE ≠ 0) ∧ (s.get R.GNSS_STAT_STATE ≠ 4) ∧ (s.gnss.fault1 = true) ∧
      (s.gnss.faultAt1 + 10000000000 ≤ s.now + dt) ∧ (bandBad (some p) = false)) ∧
    (∃ (dt : Nat) (b : Nat) (p : Option Int) (ok : Bool) (s : State), (s.gnss.fault1 = false) ∧ (s.gnss.fault5 = false)) ∧
    (∃ (dt : Nat) (s : State), ((s.get R.GNSS_STAT_STATE = 0 ∨ s.get R.GNSS_STAT_STATE = 1)) ∧ (s.mode ≠ 0) ∧
      (s.gnss.fault1 = false)) ∧
    (∃ (dt : Nat) (a : Bool) (b : Bool) (s : State), ((2 ≤ s.get R.GNSS_STAT_STATE ∨ s.mode = 0))) ∧
    (∃ (dt : Nat) (ch : Nat) (k : Nat) (prn : Nat) (cn : Nat) (d : Int) (s : State), (ch < 48) ∧
      ((s.get R.GNSS_STAT_STATE = 2 ∨ s.get R.GNSS_STAT_STATE = 3)) ∧ (s.gnss.fault1 = false) ∧ (k < 4) ∧ (prn < 64) ∧
      (cn < 64)) ∧
    (∃ (dt : Nat) (ch : Nat) (k : Nat) (prn : Nat) (cn : Nat) (d : Int) (s : State), (ch < 48) ∧
      ((s.get R.GNSS_STAT_STATE = 2 ∨ s.get R.GNSS_STAT_STATE = 3)) ∧ (s.gnss.fault1 = false)) ∧
    (∃ (dt : Nat) (b : Nat) (ch : Nat) (s : State), (b < 2) ∧ (ch < 48) ∧ (2 ≤ s.get R.GNSS_CH_STAT_LOCK (ch + 64 * b))) ∧
    (∃ (dt : Nat) (b : Nat) (ch : Nat) (s : State), (s.get R.GNSS_CH_STAT_LOCK (ch + 64 * b) < 2)) ∧
    (∃ (dt : Nat) (b : Nat) (ch : Nat) (t₀ : Nat) (s : State), (tfind s.gnss.reacqAt (ch + 64 * b) = some t₀) ∧
      (t₀ + 10000000000 ≤ s.now + dt) ∧ (s.get R.GNSS_CH_STAT_LOCK (ch + 64 * b) = 1) ∧ (ch + 64 * b ∉ s.gnss.wide)) ∧
    (∃ (dt : Nat) (b : Nat) (ch : Nat) (s : State), (tfind s.gnss.reacqAt (ch + 64 * b) = none)) :=
  ⟨⟨5, none, some 3, { W [(R.GNSS_STAT_STATE, 3)] with gnss := {} }, by decide⟩,
   ⟨5, 1000, -1000, { W [(R.GNSS_STAT_STATE, 3)] with gnss := {} }, by decide⟩,
   ⟨5, none, some 3, W [(R.GNSS_STAT_STATE, 4)], by decide⟩,
   ⟨10000000000, 5, { W [(R.GNSS_STAT_STATE, 2)] with gnss := { fault1 := true } }, by decide⟩,
   ⟨5, 1, none, true, State.reset, by decide⟩,
   ⟨5, { W [(R.GNSS_STAT_STATE, 1), (R.MODE_STAT_MODE, 1)] with gnss := {} }, by decide⟩,
   ⟨5, true, true, W [(R.GNSS_STAT_STATE, 2)], by decide⟩,
   ⟨5, 47, 1, 33, 45, -4000, { W [(R.GNSS_STAT_STATE, 2)] with gnss := { reacqAt := [(47, 3)], wide := [47] } }, by decide⟩,
   ⟨5, 0, 1, 33, 45, -4000, { W [(R.GNSS_STAT_STATE, 3)] with gnss := {} }, by decide⟩,
   ⟨5, 1, 47, WB [(R.GNSS_CH_STAT_LOCK, 111, 2)], by decide⟩,
   ⟨5, 1, 47, WB [(R.GNSS_CH_STAT_LOCK, 111, 1)], by decide⟩,
   ⟨10000000000, 1, 47, 0, { WB [(R.GNSS_CH_STAT_LOCK, 111, 1)] with gnss := { reacqAt := [(111, 0)] } }, by decide⟩,
   ⟨5, 1, 47, State.reset, by decide⟩⟩

theorem wit_GnssSolutions :
    (∃ (dt : Nat) (x : GnssSol) (s : State), ((s.get R.GNSS_STAT_STATE = 2 ∨ s.get R.GNSS_STAT_STATE = 3)) ∧ (solOk x = true) ∧
      (x.excluded = none)) ∧
    (∃ (dt : Nat) (x : GnssSol) (s : State), (s.get R.GNSS_STAT_STATE = 3) ∧ (solOk x = false)) ∧
    (∃ (dt : Nat) (x : GnssSol) (s : State), (s.get R.GNSS_STAT_STATE ≠ 2) ∧ (s.get R.GNSS_STAT_STATE ≠ 3)) ∧
    (∃ (dt : Nat) (x : GnssSol) (s : State), (s.gnss.sol = some x) ∧ (s.now + dt ≤ s.gnss.epochAt + 30000000) ∧
      (s.get R.GNSS_STAT_STATE ≠ 3)) ∧
    (∃ (dt : Nat) (x : GnssSol) (s : State), (s.gnss.sol = some x) ∧ (s.gnss.epochAt + 30000000 < s.now + dt)) ∧
    (∃ (dt : Nat) (s : State), (s.gnss.sol = none)) ∧
    (∃ (dt : Nat) (n : Nat) (unc : Nat) (o : Int) (p : Int) (u : Int) (s : State), (s.get R.GNSS_STAT_STATE = 3) ∧ (4 ≤ n) ∧
      (s.gnss.lastOffset = some p) ∧ ((o - p).natAbs ≤ 100) ∧ (1 ∈ s.man.srcList) ∧ (s.stepped = false) ∧ (s.time.fixAt = none)) ∧
    (∃ (dt : Nat) (n : Nat) (unc : Nat) (o : Int) (u : Int) (s : State), (s.get R.GNSS_STAT_STATE = 3)) ∧
    (∃ (dt : Nat) (n : Nat) (unc : Nat) (o : Int) (u : Int) (ok : Bool) (s : State),
      ((s.get R.GNSS_STAT_STATE = 0 ∨ s.get R.GNSS_STAT_STATE = 4))) :=
  ⟨⟨5, { used := [⟨0, 1, true⟩, ⟨0, 2, true⟩, ⟨0, 3, true⟩, ⟨0, 4, true⟩] }, W [(R.GNSS_STAT_STATE, 2)], by decide⟩,
   ⟨5, { used := [⟨0, 1, true⟩, ⟨0, 2, true⟩, ⟨0, 3, true⟩], excluded := some (⟨1, 2, true⟩, 77) }, W [(R.GNSS_STAT_STATE, 3)], by decide⟩,
   ⟨5, { used := [] }, W [(R.GNSS_STAT_STATE, 4)], by decide⟩,
   ⟨30000000, { used := [⟨0, 1, true⟩] }, { W [(R.GNSS_STAT_STATE, 2)] with gnss := { sol := some { used := [⟨0, 1, true⟩] } } }, by decide⟩,
   ⟨30000001, { used := [] }, { State.reset with gnss := { sol := some { used := [] } } }, by decide⟩,
   ⟨5, State.reset, by decide⟩,
   ⟨5, 4, 9, 200, 100, 37, { W [(R.GNSS_STAT_STATE, 3), (R.TIME_STAT_STEPPED, 0)] with gnss := { lastOffset := some 100 }, man := { srcList := [1] } }, by decide⟩,
   ⟨5, 4, 9, 200, 37, W [(R.GNSS_STAT_STATE, 3)], by decide⟩,
   ⟨5, 4, 9, 200, 37, true, W [(R.GNSS_STAT_STATE, 4)], by decide⟩⟩

theorem wit_GnssSleeps :
    (∃ (dt : Nat) (p : Port) (s : State), (s.session p = some .operator) ∧ ((s.advance dt).maySleep = true)) ∧
    (∃ (dt : Nat) (p : Port) (s : State), (s.session p = some .operator) ∧ ((s.advance dt).maySleep = false)) ∧
    (∃ (dt : Nat) (r : GnssRet) (s : State), ((s.advance dt).maySleep = true) ∧
      ((s.gnss.sleepReq = true ∨ s.man.gnssSleepReady = true))) ∧
    (∃ (dt : Nat) (r : GnssRet) (s : State), ((s.advance dt).maySleep = false)) ∧
    (∃ (dt : Nat) (p : Port) (s : State), (s.session p = some .operator) ∧ (s.get R.GNSS_STAT_STATE = 4)) ∧
    (∃ (dt : Nat) (p : Port) (s : State), (s.session p = some .installer)) ∧
    (∃ (dt : Nat) (p : Port) (s : State) (c : Instr), (c ∈ [Instr.gnssSleepCmd dt p, .gnssWakeCmd dt p, .gnssColdCmd dt p]) ∧
      (s.session p = none)) ∧
    (∃ (dt : Nat) (r : GnssRet) (s : State), (s.get R.GNSS_TRK_L1_TRK + s.get R.GNSS_TRK_L5_TRK ≠ 0)) ∧
    (∃ (dt : Nat) (r : GnssRet) (s : State), (s.get R.GNSS_TRK_L1_TRK = 0) ∧ (s.get R.GNSS_TRK_L5_TRK = 0)) ∧
    (∃ (dt : Nat) (s : State), (s.get R.GNSS_STAT_STATE = 4) ∧ (s.man.ephRefresh ≤ (s.advance dt).ephAge)) ∧
    (∃ (dt : Nat) (s : State), (s.get R.GNSS_STAT_STATE ≠ 4)) ∧
    (∃ (dt : Nat) (t₀ : Nat) (r : GnssRet) (s : State), (s.gnss.refreshAt = some t₀) ∧ (s.mode = 2) ∧ (s.stepped = true) ∧
      (s.get R.GNSS_STAT_STATE = 3)) ∧
    (∃ (dt : Nat) (f : Bool) (r : GnssRet) (s : State), (s.gnss.refreshAt = none)) :=
  ⟨⟨5, .pcie, W [(R.MODE_STAT_MODE, 2), (R.TIME_STAT_STEPPED, 1), (R.GNSS_STAT_STATE, 3)] opSess, by decide⟩,
   ⟨5, .pcie, W [(R.MODE_STAT_MODE, 3)] opSess, by decide⟩,
   ⟨5, { ephSec := 7 }, { W [(R.MODE_STAT_MODE, 2), (R.TIME_STAT_STEPPED, 1), (R.GNSS_STAT_STATE, 3)] with gnss := { sleepReq := true } }, by decide⟩,
   ⟨5, { ephSec := 7 }, W [(R.MODE_STAT_MODE, 3)], by decide⟩,
   ⟨5, .pcie, W [(R.GNSS_STAT_STATE, 4)] opSess, by decide⟩,
   ⟨5, .pcie, { W [(R.ROLE_STAT_SESSION, 2)] sess with gnssRet := some { ephSec := 3 } }, by decide⟩,
   ⟨5, .spi, opSess, .gnssColdCmd 5 .spi, by decide⟩,
   ⟨5, { ephSec := 7 }, W [(R.GNSS_TRK_L5_TRK, 1)], by decide⟩,
   ⟨5, { ephSec := 7 }, W [(R.GNSS_TRK_L5_TRK, 0)], by decide⟩,
   ⟨5, W [(R.GNSS_STAT_STATE, 4)], by decide⟩,
   ⟨5, W [(R.GNSS_STAT_STATE, 3)], by decide⟩,
   ⟨5, 0, { ephSec := 7 }, { W [(R.MODE_STAT_MODE, 2), (R.TIME_STAT_STEPPED, 1), (R.GNSS_STAT_STATE, 3)] with gnss := { refreshAt := some 0 } }, by decide⟩,
   ⟨5, true, { ephSec := 7 }, State.reset, by decide⟩⟩

theorem wit_FunctionBlocks :
    (∃ (dt : Nat) (n : Nat) (mark : Nat) (q : Nat) (c : NodeCfg) (s : State), (s.man.nodes[n]? = some c) ∧ (q = s.mnf.rollSeq) ∧
      (s.rollRuns = true) ∧ (c.exempt = false) ∧ ((s.node n).repliedSeq ≠ q)) ∧
    (∃ (dt : Nat) (n : Nat) (mark : Nat) (q : Nat) (s : State), (s.man.nodes[n]? = none)) ∧
    (∃ (dt : Nat) (n : Nat) (mark : Nat) (q : Nat) (c : NodeCfg) (s : State), (s.man.nodes[n]? = some c) ∧ (q ≠ s.mnf.rollSeq)) ∧
    (∃ (dt : Nat) (n : Nat) (c : FblCfg) (s : State), (s.man.fbl[n]? = some c) ∧ (s.tick % (10 * c.k) = 10 * c.q) ∧
      (c.engine ∉ s.engStopped) ∧ ((s.fblSt n).busy = false)) ∧
    (∃ (dt : Nat) (n : Nat) (c : FblCfg) (s : State), (s.man.fbl[n]? = some c) ∧ (s.tick % (10 * c.k) = 10 * c.q) ∧
      (c.engine ∉ s.engStopped) ∧ ((s.fblSt n).busy = true)) ∧
    (∃ (dt : Nat) (n : Nat) (c : FblCfg) (s : State), (s.man.fbl[n]? = some c) ∧ ((s.fblSt n).busy = true)) ∧
    (∃ (dt : Nat) (n : Nat) (s : State) (i : Instr), (i ∈ [Instr.fblEvaluationStart dt n, .fblEvaluationEnd dt n]) ∧
      (s.man.fbl[n]? = none)) ∧
    (∃ (dt : Nat) (n : Nat) (s : State), (3 ≤ (s.fblSt n).run)) ∧
    (∃ (dt : Nat) (n : Nat) (s : State), ((s.fblSt n).run < 3)) :=
  ⟨⟨5, 0, 77, 3, { addr := 7, marks := [77] }, { W [(R.MODE_STAT_MODE, 2)] with man := { nodes := [{ addr := 7, marks := [77] }] }, mnf := { rollSeq := 3 } }, by decide⟩,
   ⟨5, 0, 77, 3, State.reset, by decide⟩,
   ⟨5, 0, 77, 4, { addr := 7, marks := [77] }, { W [(R.MODE_STAT_MODE, 2)] with man := { nodes := [{ addr := 7, marks := [77] }] }, mnf := { rollSeq := 3 } }, by decide⟩,
   ⟨5, 0, { engine := 3, k := 10, q := 4, blocks := [] }, { State.reset with tick := 140, man := { fbl := [{ engine := 3, k := 10, q := 4, blocks := [] }] } }, by decide⟩,
   ⟨5, 0, { engine := 3, k := 10, q := 4, blocks := [] }, { State.reset with tick := 140, man := { fbl := [{ engine := 3, k := 10, q := 4, blocks := [] }] }, mnf := { fbl := [(0, { busy := true, run := 1 })] } }, by decide⟩,
   ⟨5, 0, { engine := 3, k := 10, q := 4, blocks := [] }, { State.reset with man := { fbl := [{ engine := 3, k := 10, q := 4, blocks := [] }] }, mnf := { fbl := [(0, { busy := true })] } }, by decide⟩,
   ⟨5, 0, State.reset, .fblEvaluationEnd 5 0, by decide⟩,
   ⟨5, 0, { State.reset with mnf := { fbl := [(0, { run := 3 })] } }, by decide⟩,
   ⟨5, 0, { State.reset with mnf := { fbl := [(0, { run := 2 })] } }, by decide⟩⟩

theorem wit_EstimatorUpdates :
    (∃ (dt : Nat) (a : Nat) (b : Int) (u : EstUpd) (s : State), (s.est.running = some (a, b)) ∧ (s.now + dt ≤ a + 9000000)) ∧
    (∃ (dt : Nat) (a : Nat) (b : Int) (u : EstUpd) (s : State), (s.est.running = some (a, b)) ∧ (a + 9000000 < s.now + dt)) ∧
    (∃ (dt : Nat) (u : EstUpd) (s : State), (s.est.running = none)) ∧
    (∃ (dt : Nat) (a : Nat) (b : Int) (s : State), (s.est.running = some (a, b)) ∧ (a + 9000000 ≤ s.now + dt)) ∧
    (∃ (dt : Nat) (a : Nat) (b : Int) (s : State), (s.est.running = some (a, b)) ∧ (s.now + dt < a + 9000000)) ∧
    (∃ (dt : Nat) (s : State), (3 ≤ s.est.abandons)) ∧
    (∃ (dt : Nat) (s : State), (s.est.abandons < 3)) ∧
    (∃ (dt : Nat) (n : Nat) (j : Rat) (c : EstSlotCfg) (s : State), (s.slotCfg n = some c) ∧ (c.gateFailN ≤ (s.slotSt n).fails)) ∧
    (∃ (dt : Nat) (n : Nat) (j : Rat) (s : State), (s.slotCfg n = none)) ∧
    (∃ (dt : Nat) (f : List Rat) (s : State), (s.est.peakAt + s.man.waveWin * 250000000 ≤ s.now + dt)) ∧
    (∃ (dt : Nat) (f : List Rat) (s : State), (s.now + dt < s.est.peakAt + s.man.waveWin * 250000000)) ∧
    (∃ (dt : Nat) (t₀ : Nat) (s : State), (s.est.mruAt = some t₀) ∧ (t₀ + 10000000000 ≤ s.now + dt)) ∧
    (∃ (dt : Nat) (s : State), (s.est.mruAt = none)) :=
  ⟨⟨5, 0, 7, {}, { W [(R.MODE_STAT_MODE, 3)] with est := { running := some (0, 7), abandons := 2, seq := 9 } }, by decide⟩,
   ⟨9000001, 0, 7, {}, { W [(R.MODE_STAT_MODE, 3)] with est := { running := some (0, 7), abandons := 1, seq := 9 } }, by decide⟩,
   ⟨5, {}, State.reset, by decide⟩,
   ⟨9000000, 0, 7, { W [(R.MODE_STAT_MODE, 3)] with est := { running := some (0, 7) } }, by decide⟩,
   ⟨8999999, 0, 7, { State.reset with est := { running := some (0, 7) } }, by decide⟩,
   ⟨5, { State.reset with est := { abandons := 3 } }, by decide⟩,
   ⟨5, State.reset, by decide +kernel⟩,
   ⟨5, 24, 3, { gateFailN := 5 }, { State.reset with est := { slots := [(24, { fails := 5 })] }, man := { estSlots := [(24, { gateFailN := 5 })] } }, by decide +kernel⟩,
   ⟨5, 24, 3, State.reset, by decide⟩,
   ⟨30000000000, [1/10, 1], State.reset, by decide⟩,
   ⟨29999999999, [1/10, 1], State.reset, by decide⟩,
   ⟨10000000000, 0, { State.reset with est := { mruAt := some 0 } }, by decide⟩,
   ⟨5, State.reset, by decide⟩⟩

theorem wit_SourceSlots :
    (∃ (dt : Nat) (n : Nat) (c : EstSlotCfg) (s : State), (s.slotCfg n = some c) ∧ ((s.slotSt n).seen = true) ∧
      ((s.slotSt n).changedAt + c.freezeMs * 1000000 ≤ (s.slotSt n).lastAt) ∧ (s.get R.EST_SRC_STAT_FROZEN n = 0) ∧
      (s.slotStatus n ∈ [1, 2, 3, 4])) ∧
    (∃ (dt : Nat) (n : Nat) (s : State), (s.slotCfg n = none)) ∧
    (∃ (dt : Nat) (n : Nat) (s : State), ((s.slotSt n).skewMask = true) ∧ (100 ≤ (s.slotSt n).skewRun) ∧ (s.slotStatus n = 7) ∧
      (s.get R.EST_SRC_STAT_FROZEN n = 0)) ∧
    (∃ (dt : Nat) (n : Nat) (s : State), ((s.slotSt n).skewRun < 100)) ∧
    (∃ (dt : Nat) (n : Nat) (c : EstSlotCfg) (s : State), (s.slotCfg n = some c) ∧ (s.slotStatus n ∈ [2, 3, 4]) ∧
      ((s.slotSt n).lastAt + c.staleMs * 1000000 ≤ s.now + dt)) ∧
    (∃ (dt : Nat) (n : Nat) (s : State), (s.slotStatus n ∉ [2, 3, 4])) ∧
    (∃ (dt : Nat) (g : Nat) (d : Dispute) (s : State), (tfind s.est.disputes g = some d) ∧ (10 ≤ d.agree)) ∧
    (∃ (dt : Nat) (g : Nat) (s : State), (tfind s.est.disputes g = none)) ∧
    (∃ (dt : Nat) (n : Nat) (s : State), (s.slotStatus n = 2) ∧ (s.man.reentryFrames ≤ (s.slotSt n).reentry) ∧ (s.slotGroup n ≠ 0) ∧
      (tfind s.est.disputes (s.slotGroup n) = none)) ∧
    (∃ (dt : Nat) (n : Nat) (s : State), ((s.slotStatus n ≠ 2 ∨ (s.slotSt n).reentry < s.man.reentryFrames))) ∧
    (∃ (dt : Nat) (n : Nat) (d : Dispute) (s : State), (s.slotStatus n = 2) ∧ (tfind s.est.disputes (s.slotGroup n) = some d) ∧
      ((s.slotSt n).holdAt + 10000000000 ≤ s.now + dt)) ∧
    (∃ (dt : Nat) (n : Nat) (s : State), (s.slotStatus n ≠ 2)) ∧
    (∃ (dt : Nat) (n : Nat) (k : Nat) (s : State), (k ∈ s.man.estPoints) ∧ (s.isActive = true) ∧ (s.slotStatus n ≠ 0) ∧
      (s.est.cmds = [])) ∧
    (∃ (dt : Nat) (n : Nat) (k : Nat) (s : State), (k ∈ s.man.estPoints) ∧ (s.isActive = true) ∧ (s.slotStatus n = 6) ∧
      (s.est.cmds = [])) ∧
    (∃ (dt : Nat) (n : Nat) (k : Nat) (s : State), (k ∈ s.man.estPoints) ∧ (s.slotStatus n ≠ 6) ∧ (s.est.cmds = [])) ∧
    (∃ (dt : Nat) (n : Nat) (k : Nat) (s : State) (i : Instr),
      (i ∈ [Instr.estSrcDeselect dt (.point k) n, .estSrcSelect dt (.point k) n]) ∧ (k ∉ s.man.estPoints)) ∧
    (∃ (dt : Nat) (n : Nat) (p : Port) (s : State) (i : Instr),
      (i ∈ [Instr.estSrcDeselect dt (.host p) n, .estSrcSelect dt (.host p) n]) ∧ (s.session p ≠ some .operator)) :=
  ⟨⟨5, 3, { freezeMs := 2 }, { WB [(R.EST_SRC_STAT_STATUS, 3, 3), (R.EST_SRC_STAT_FROZEN, 3, 0)] with man := { estSlots := [(3, { freezeMs := 2 })] }, est := { slots := [(3, { seen := true, lastAt := 2000000 })] } }, by decide +kernel⟩,
   ⟨5, 3, State.reset, by decide⟩,
   ⟨5, 3, { WB [(R.EST_SRC_STAT_STATUS, 3, 7), (R.EST_SRC_STAT_FROZEN, 3, 0)] with est := { slots := [(3, { skewMask := true, skewRun := 100 })] } }, by decide⟩,
   ⟨5, 3, { State.reset with est := { slots := [(3, { skewMask := true, skewRun := 99 })] } }, by decide⟩,
   ⟨1000000, 3, { staleMs := 1 }, { WB [(R.EST_SRC_STAT_STATUS, 3, 3)] with man := { estSlots := [(3, { staleMs := 1 })] } }, by decide +kernel⟩,
   ⟨5, 3, WB [(R.EST_SRC_STAT_STATUS, 3, 5)], by decide⟩,
   ⟨5, 65, { since := 0, agree := 10 }, { WB [(R.EST_SRC_STAT_STATUS, 13, 5)] with man := { estSlots := [(13, {})] }, est := { disputes := [(65, { since := 0, agree := 10 })] } }, by decide⟩,
   ⟨5, 65, State.reset, by decide⟩,
   ⟨5, 13, { WB [(R.EST_SRC_STAT_STATUS, 13, 2)] with man := { estSlots := [(13, {})] }, est := { slots := [(13, { reentry := 100 })] } }, by decide⟩,
   ⟨5, 13, State.reset, by decide⟩,
   ⟨10000000000, 13, { since := 0 }, { WB [(R.EST_SRC_STAT_STATUS, 13, 2)] with man := { estSlots := [(13, {})] }, est := { disputes := [(65, { since := 0 })] } }, by decide⟩,
   ⟨5, 13, State.reset, by decide⟩,
   ⟨5, 13, 4, { WB [(R.EST_SRC_STAT_STATUS, 13, 3), (R.MODE_STAT_ACTIVE, 0, 1)] with man := { estPoints := [4] } }, by decide⟩,
   ⟨5, 13, 4, { WB [(R.EST_SRC_STAT_STATUS, 13, 6), (R.MODE_STAT_ACTIVE, 0, 1)] with man := { estPoints := [4] } }, by decide⟩,
   ⟨5, 13, 4, { WB [(R.EST_SRC_STAT_STATUS, 13, 3), (R.MODE_STAT_ACTIVE, 0, 1)] with man := { estPoints := [4] } }, by decide⟩,
   ⟨5, 13, 4, State.reset, .estSrcSelect 5 (.point 4) 13, by decide⟩,
   ⟨5, 13, .spi, opSess, .estSrcSelect 5 (.host .spi) 13, by decide⟩⟩

theorem wit_ObjectTracks :
    (∃ (dt : Nat) (k : Nat) (s : State), ((s.trackState k = 1 ∨ s.trackState k = 2)) ∧ (trackFixed s.man k = false) ∧
      ((s.trackSt k).lastAt + 1000000000 ≤ s.now + dt)) ∧
    (∃ (dt : Nat) (k : Nat) (s : State), (s.trackState k ≠ 1) ∧ (s.trackState k ≠ 2)) ∧
    (∃ (dt : Nat) (k : Nat) (s : State), (s.trackState k ∈ [1, 2, 3]) ∧ (trackFixed s.man k = false) ∧
      ((s.trackSt k).lastAt + s.man.trackCoast * 1000000000 ≤ s.now + dt)) ∧
    (∃ (dt : Nat) (k : Nat) (s : State), (s.trackState k ∉ [1, 2, 3])) ∧
    (∃ (dt : Nat) (k : Nat) (x : Nat) (c : TrackCfg) (s : State), (tfind s.man.tracks k = some c) ∧ (c.bound.getD x true = true) ∧
      (max 1 c.gateFailN ≤ tget (s.trackSt k).fails x 0)) ∧
    (∃ (dt : Nat) (k : Nat) (x : Nat) (s : State), (tfind s.man.tracks k = none)) :=
  ⟨⟨1000000000, 63, WB [(R.EST_TRK_STAT_STATE, 63, 2)], by decide⟩,
   ⟨5, 63, WB [(R.EST_TRK_STAT_STATE, 63, 3)], by decide⟩,
   ⟨30000000000, 2, { WB [(R.EST_TRK_STAT_STATE, 2, 3), (R.EST_SRC_STAT_STATUS, 4, 3)] with man := { estSlots := [(4, { group := some 2 })] } }, by decide⟩,
   ⟨5, 63, WB [(R.EST_TRK_STAT_STATE, 63, 0)], by decide⟩,
   ⟨5, 3, 2, { kind := 2 }, { State.reset with man := { tracks := [(3, { kind := 2 })] }, est := { tracks := [(3, { fails := [(2, 5)] })] } }, by decide⟩,
   ⟨5, 3, 2, State.reset, by decide⟩⟩

theorem wit_HelmCommands :
    (∃ (dt : Nat) (tag : Nat) (k : Nat) (x : Nat × Instr) (s : State), (x ∈ lawCmds dt (.point k) tag) ∧ (k ∈ s.man.helm.points) ∧
      (s.isActive = true) ∧ (s.nextMode = lawMode x.1) ∧ (s.helm.lawPend = none)) ∧
    (∃ (dt : Nat) (tag : Nat) (p : Port) (x : Nat × Instr) (s : State), (x ∈ lawCmds dt (.host p) tag) ∧
      (s.session p = some .operator) ∧ (s.isActive = true) ∧ (s.nextMode = lawMode x.1) ∧ (s.helm.lawPend = none)) ∧
    (∃ (dt : Nat) (tag : Nat) (k : Nat) (x : Nat × Instr) (s : State), (x ∈ lawCmds dt (.point k) tag) ∧ (k ∈ s.man.helm.points) ∧
      (s.isActive = false)) ∧
    (∃ (dt : Nat) (tag : Nat) (k : Nat) (x : Nat × Instr) (s : State), (x ∈ lawCmds dt (.point k) tag) ∧ (k ∈ s.man.helm.points) ∧
      (s.isActive = true) ∧ (s.nextMode ≠ lawMode x.1)) ∧
    (∃ (dt : Nat) (tag : Nat) (k : Nat) (x : Nat × Instr) (s : State), (x ∈ spCmds dt (.point k) tag) ∧ (k ∈ s.man.helm.points) ∧
      (s.isActive = true) ∧ (s.nextLaw = x.1) ∧ (s.spOutOfRange (s.stagedSp x.1) = false) ∧ (s.helm.spPend = none)) ∧
    (∃ (dt : Nat) (tag : Nat) (k : Nat) (x : Nat × Instr) (s : State), (x ∈ spCmds dt (.point k) tag) ∧ (k ∈ s.man.helm.points) ∧
      (s.isActive = true) ∧ (s.nextLaw = x.1) ∧ (s.spOutOfRange (s.stagedSp x.1) = true)) ∧
    (∃ (dt : Nat) (tag : Nat) (k : Nat) (x : Nat × Instr) (s : State), (x ∈ lawCmds dt (.point k) tag ++ spCmds dt (.point k) tag) ∧
      (k ∉ s.man.helm.points)) :=
  ⟨⟨5, 300, 4, (1, .lawCmdPosition 5 (.point 4) 300), { W [(R.MODE_STAT_MODE, 3), (R.MODE_STAT_ACTIVE, 1)] with man := { helm := { points := [4] } } }, by decide⟩,
   ⟨5, 300, .pcie, (1, .lawCmdPosition 5 (.host .pcie) 300), W [(R.MODE_STAT_MODE, 3), (R.MODE_STAT_ACTIVE, 1)] opSess, by decide⟩,
   ⟨5, 300, 4, (1, .lawCmdPosition 5 (.point 4) 300), { W [(R.MODE_STAT_ACTIVE, 0)] with man := { helm := { points := [4] } } }, by decide⟩,
   ⟨5, 300, 4, (4, .lawCmdAutohdg 5 (.point 4) 300), { W [(R.MODE_STAT_ACTIVE, 1), (R.MODE_STAT_MODE, 3)] with man := { helm := { points := [4] } } }, by decide⟩,
   ⟨5, 300, 4, (1, .spCmdPosition 5 (.point 4) 300), { W [(R.MODE_STAT_MODE, 3), (R.MODE_STAT_ACTIVE, 1), (R.HELM_STAT_LAW, 1), (R.HELM_SP_A_A, 5), (R.HELM_SP_B_B, 5)] with man := { helm := { points := [4] } } }, by decide⟩,
   ⟨5, 300, 4, (2, .spCmdTarget 5 (.point 4) 300), { W [(R.MODE_STAT_MODE, 3), (R.MODE_STAT_ACTIVE, 1), (R.HELM_STAT_LAW, 2), (R.HELM_SP_A_A, 2000000), (R.HELM_SP_B_B, 1)] with man := { helm := { points := [4] } } }, by decide⟩,
   ⟨5, 300, 4, (2, .spCmdTarget 5 (.point 4) 300), State.reset, by decide⟩⟩

theorem wit_HelmCycles :
    (∃ (dt : Nat) (q : Nat) (f : List Rat) (s : State), (s.helm.solving = some q) ∧ (s.get R.YUZ_LAST_SEQ_SEQ 1 = q) ∧
      (s.get R.YUZ_LAST_STAT_MISS 1 = 0) ∧ (s.helm.blend = none)) ∧
    (∃ (dt : Nat) (q : Nat) (f : List Rat) (s : State), (s.helm.solving = some q) ∧ (s.get R.YUZ_LAST_SEQ_SEQ 1 = q) ∧
      (s.get R.YUZ_LAST_STAT_MISS 1 = 1)) ∧
    (∃ (dt : Nat) (f : List Rat) (s : State), (s.helm.solving = none)) ∧
    (∃ (dt : Nat) (s : State), (3 ≤ s.get R.HELM_MISS_RUN)) ∧
    (∃ (dt : Nat) (s : State), (s.get R.HELM_MISS_RUN < 3)) ∧
    (∃ (dt : Nat) (b : Blend) (s : State), (s.helm.blend = some b) ∧ (0 < b.len) ∧ (b.len ≤ b.n)) ∧
    (∃ (dt : Nat) (b : Blend) (s : State), (s.helm.blend = some b) ∧ ((b.len = 0 ∨ b.n < b.len))) ∧
    (∃ (dt : Nat) (s : State), (s.helm.blend = none)) :=
  ⟨⟨5, 7, [1, 2, 3], { WB [(R.YUZ_LAST_SEQ_SEQ, 1, 7), (R.YUZ_LAST_STAT_MISS, 1, 0), (R.HELM_STAT_LAW, 0, 1), (R.MODE_STAT_MODE, 0, 3)] with helm := { solving := some 7 } }, by decide⟩,
   ⟨5, 7, [1, 2, 3], { WB [(R.YUZ_LAST_SEQ_SEQ, 1, 7), (R.YUZ_LAST_STAT_MISS, 1, 1), (R.HELM_STAT_LAW, 0, 1), (R.MODE_STAT_MODE, 0, 3)] with helm := { solving := some 7 } }, by decide⟩,
   ⟨5, [], State.reset, by decide⟩,
   ⟨5, W [(R.HELM_MISS_RUN, 3)], by decide⟩,
   ⟨5, W [(R.HELM_MISS_RUN, 2)], by decide⟩,
   ⟨5, { n := 4, len := 4 }, { W [(R.MODE_STAT_BLEND, 1)] with helm := { blend := some { n := 4, len := 4 } } }, by decide⟩,
   ⟨5, { n := 3, len := 4 }, { State.reset with helm := { blend := some { n := 3, len := 4 } } }, by decide⟩,
   ⟨5, State.reset, by decide⟩⟩

theorem wit_ThrustAllocation :
    (∃ (dt : Nat) (q : Nat) (f : List (Rat × Rat)) (s : State), (s.alloc.solving = some q) ∧ (s.get R.YUZ_LAST_SEQ_SEQ 2 = q) ∧
      (s.get R.YUZ_LAST_STAT_MISS 2 = 0)) ∧
    (∃ (dt : Nat) (q : Nat) (f : List (Rat × Rat)) (s : State), (s.alloc.solving = some q) ∧ (s.get R.YUZ_LAST_SEQ_SEQ 2 = q) ∧
      (s.get R.YUZ_LAST_STAT_MISS 2 = 1)) ∧
    (∃ (dt : Nat) (f : List (Rat × Rat)) (s : State), (s.alloc.solving = none)) ∧
    (∃ (dt : Nat) (s : State), (3 ≤ s.get R.ALLOC_MISS_A_RUN)) ∧
    (∃ (dt : Nat) (s : State), (s.get R.ALLOC_MISS_A_RUN < 3)) ∧
    (∃ (dt : Nat) (s : State), (s.mode = 2) ∧ (s.helm.blend = none) ∧ (s.helm.bk + 2000000 ≤ s.now + dt) ∧
      (s.alloc.consSolving = none) ∧ (s.helm.bkTick / 5000 % s.stretch = 0) ∧ (s.caseCount ≠ 0) ∧
      (s.alloc.consCycle ≠ some s.helm.cycle)) ∧
    (∃ (dt : Nat) (s : State), (s.mode ≠ 2)) ∧
    (∃ (dt : Nat) (q : Nat) (c : List CaseRes) (s : State), (s.alloc.consSolving = some q) ∧ (s.get R.YUZ_LAST_SEQ_SEQ 3 = q) ∧
      (s.get R.YUZ_LAST_STAT_MISS 3 = 0)) ∧
    (∃ (dt : Nat) (q : Nat) (c : List CaseRes) (s : State), (s.alloc.consSolving = some q) ∧ (s.get R.YUZ_LAST_SEQ_SEQ 3 = q) ∧
      (s.get R.YUZ_LAST_STAT_MISS 3 = 1)) ∧
    (∃ (dt : Nat) (c : List CaseRes) (s : State), (s.alloc.consSolving = none)) ∧
    (∃ (dt : Nat) (s : State), (3 ≤ s.get R.ALLOC_MISS_C_RUN)) ∧
    (∃ (dt : Nat) (s : State), (s.get R.ALLOC_MISS_C_RUN < 3)) ∧
    (∃ (dt : Nat) (s : State), (s.get R.ALLOC_STAT_SHORT = 0) ∧ (20 ≤ s.alloc.shortRun)) ∧
    (∃ (dt : Nat) (s : State), (s.get R.ALLOC_STAT_SHORT = 1) ∧ (20 ≤ s.alloc.shortClear)) ∧
    (∃ (dt : Nat) (s : State), (s.alloc.shortRun < 20) ∧ (s.alloc.shortClear < 20)) ∧
    (∃ (dt : Nat) (b : Nat) (c : BusCfg) (s : State), (s.man.alloc.buses[b]? = some c) ∧ (qUsable (s.ptOpt c.avail).2 = false) ∧
      ((s.busSt b).unknown = false) ∧ ((s.busSt b).lastAt + 10000000000 ≤ s.now + dt)) ∧
    (∃ (dt : Nat) (b : Nat) (s : State), (s.man.alloc.buses[b]? = none)) ∧
    (∃ (dt : Nat) (n : Nat) (a : Nat) (c : ThrCfg) (s : State), (s.thrCfg n = some c) ∧ (s.thrState n = 1) ∧
      ((s.thrSt n).overAt = some a) ∧ (a + c.followT * 1000000000 ≤ s.now + dt)) ∧
    (∃ (dt : Nat) (n : Nat) (s : State), (s.thrCfg n = none)) ∧
    (∃ (dt : Nat) (n : Nat) (k : Nat) (x : Nat × Instr) (s : State), (x ∈ [(1, Instr.allocThrDeselect dt (.point k) n),
      (2, .allocThrSelect dt (.point k) n)]) ∧ (k ∈ s.man.alloc.points) ∧ (s.isActive = true) ∧ (s.thrCfg n ≠ none)) ∧
    (∃ (dt : Nat) (n : Nat) (k : Nat) (x : Nat × Instr) (s : State), (x ∈ [(1, Instr.allocThrDeselect dt (.point k) n),
      (2, .allocThrSelect dt (.point k) n)]) ∧ (k ∈ s.man.alloc.points) ∧ (s.isActive = false)) ∧
    (∃ (dt : Nat) (n : Nat) (k : Nat) (x : Nat × Instr) (s : State), (x ∈ [(1, Instr.allocThrDeselect dt (.point k) n),
      (2, .allocThrSelect dt (.point k) n)]) ∧ (k ∉ s.man.alloc.points)) :=
  ⟨⟨5, 7, [], { WB [(R.YUZ_LAST_SEQ_SEQ, 2, 7), (R.YUZ_LAST_STAT_MISS, 2, 0), (R.MODE_STAT_MODE, 0, 3)] with alloc := { solving := some 7 } }, by decide⟩,
   ⟨5, 7, [], { WB [(R.YUZ_LAST_SEQ_SEQ, 2, 7), (R.YUZ_LAST_STAT_MISS, 2, 1), (R.MODE_STAT_MODE, 0, 3)] with alloc := { solving := some 7 } }, by decide⟩,
   ⟨5, [], State.reset, by decide⟩,
   ⟨5, W [(R.ALLOC_MISS_A_RUN, 3)], by decide⟩,
   ⟨5, W [(R.ALLOC_MISS_A_RUN, 2)], by decide⟩,
   ⟨2000000, { W [(R.MODE_STAT_MODE, 2), (R.ALLOC_STAT_STRETCH, 0)] with man := { alloc := { gens := [[1]] } } }, by decide⟩,
   ⟨5, W [(R.MODE_STAT_MODE, 3)], by decide⟩,
   ⟨5, 7, [], { WB [(R.YUZ_LAST_SEQ_SEQ, 3, 7), (R.YUZ_LAST_STAT_MISS, 3, 0)] with alloc := { consSolving := some 7 } }, by decide⟩,
   ⟨5, 7, [], { WB [(R.YUZ_LAST_SEQ_SEQ, 3, 7), (R.YUZ_LAST_STAT_MISS, 3, 1)] with alloc := { consSolving := some 7 } }, by decide⟩,
   ⟨5, [], State.reset, by decide⟩,
   ⟨5, W [(R.ALLOC_MISS_C_RUN, 3)], by decide⟩,
   ⟨5, W [(R.ALLOC_MISS_C_RUN, 2)], by decide⟩,
   ⟨5, { W [(R.ALLOC_STAT_SHORT, 0)] with alloc := { shortRun := 20 } }, by decide⟩,
   ⟨5, { W [(R.ALLOC_STAT_SHORT, 1)] with alloc := { shortClear := 20 } }, by decide⟩,
   ⟨5, { State.reset with alloc := { shortRun := 19 } }, by decide⟩,
   ⟨10000000000, 0, {}, { State.reset with man := { alloc := { buses := [{}] } } }, by decide⟩,
   ⟨5, 0, State.reset, by decide⟩,
   ⟨10000000000, 0, 0, aThr, { W [(R.ALLOC_THR_STAT_STATE, 1)] with man := { alloc := { thr := [aThr] } }, alloc := { thr := [(0, { overAt := some 0 })] } }, by decide⟩,
   ⟨5, 0, State.reset, by decide⟩,
   ⟨5, 0, 4, (1, .allocThrDeselect 5 (.point 4) 0), { W [(R.MODE_STAT_ACTIVE, 1)] with man := { alloc := { points := [4], thr := [aThr] } } }, by decide⟩,
   ⟨5, 0, 4, (1, .allocThrDeselect 5 (.point 4) 0), { W [(R.MODE_STAT_ACTIVE, 0)] with man := { alloc := { points := [4], thr := [aThr] } } }, by decide⟩,
   ⟨5, 0, 4, (1, .allocThrDeselect 5 (.point 4) 0), State.reset, by decide⟩⟩

theorem wit_SolverBatches :
    (∃ (dt : Nat) (b : Batch) (s : State), (s.yuz.run = none) ∧ (nextBatch s.yuz.queue = some b) ∧ (s.get R.PWR_STAT_YUZ_GATED = 0)
      ∧ ((s.follows = true ∨ deadlinePassed (s.advance dt).pm32 b.deadline = false))) ∧
    (∃ (dt : Nat) (b : Batch) (s : State), (s.yuz.run = none) ∧ (nextBatch s.yuz.queue = some b) ∧ (s.get R.PWR_STAT_YUZ_GATED = 0)
      ∧ (s.follows = false) ∧ (deadlinePassed (s.advance dt).pm32 b.deadline = true)) ∧
    (∃ (dt : Nat) (s : State), ((s.yuz.run ≠ none ∨ s.yuz.queue = [] ∨ s.get R.PWR_STAT_YUZ_GATED = 1))) ∧
    (∃ (dt : Nat) (l : List ItemRes) (b : Batch) (s : State), (s.yuz.run = some b) ∧ (s.follows = false)) ∧
    (∃ (dt : Nat) (l : List ItemRes) (b : Batch) (s : State), (s.yuz.run = some b) ∧ (s.follows = true) ∧
      (tfind s.yuz.verdicts b.seq = none)) ∧
    (∃ (dt : Nat) (q : Nat) (l : List ItemRes) (b : Batch) (z : Option (Nat × Nat)) (x : Instr) (s : State), (s.yuz.run = some b) ∧
      (s.follows = true) ∧
      (((x = .yuzBatchDone dt l ∧ tfind s.yuz.verdicts b.seq = some (z, q)) ∨ (x = .verdictReceive dt b.seq z ∧ s.yuz.held = some l)))) ∧
    (∃ (dt : Nat) (q : Nat) (z : Option (Nat × Nat)) (s : State), (s.follows = true) ∧ (s.yuz.held = none) ∧ (z ≠ some (0, 0)) ∧
      ((∃ b ∈ s.yuz.run.toList ++ s.yuz.queue, b.seq = q))) ∧
    (∃ (dt : Nat) (cyc : Nat) (o : Nat) (l : List ItemRes) (b : Batch) (s : State), (s.yuz.run = some b) ∧ (s.follows = false) ∧
      (deadlinePassed (s.advance dt).pm32 b.deadline = true)) ∧
    (∃ (dt : Nat) (cyc : Nat) (o : Nat) (l : List ItemRes) (b : Batch) (s : State), (s.yuz.run = some b) ∧
      ((s.follows = true ∨ deadlinePassed (s.advance dt).pm32 b.deadline = false))) ∧
    (∃ (dt : Nat) (t₀ : Nat) (b : Batch) (z : Option (Nat × Nat)) (s : State), (s.yuz.run = some b) ∧
      (tfind s.yuz.verdicts b.seq = some (z, t₀)) ∧ (s.follows = true) ∧ (t₀ + 2000000 ≤ s.now + dt)) ∧
    (∃ (dt : Nat) (s : State), ((s.follows = false ∨ (s.yuz.run = none ∧ s.yuz.queue = []) ∨ s.yuz.verdicts = []))) :=
  ⟨⟨5, { aBatch with deadline := 100 }, { WB [(R.PWR_STAT_YUZ_GATED, 0, 0)] with yuz := { queue := [{ aBatch with cls := 2 }, { aBatch with deadline := 100 }] } }, by decide⟩,
   ⟨5, aBatch, { WB [(R.PWR_STAT_YUZ_GATED, 0, 0), (R.MODE_STAT_PAIRED, 0, 0)] with yuz := { queue := [aBatch] } }, by decide⟩,
   ⟨5, State.reset, by decide⟩,
   ⟨5, [{}, { sat := true }], aBatch, { WB [(R.MODE_STAT_PAIRED, 0, 0)] with yuz := { run := some aBatch } }, by decide⟩,
   ⟨5, [{}], aBatch, { WB [(R.MODE_STAT_PAIRED, 0, 1), (R.MODE_STAT_ACTIVE, 0, 0)] with yuz := { run := some aBatch } }, by decide⟩,
   ⟨5, 0, [{}], aBatch, none, .yuzBatchDone 5 [{}], { WB [(R.MODE_STAT_PAIRED, 0, 1), (R.MODE_STAT_ACTIVE, 0, 0)] with yuz := { run := some aBatch, verdicts := [(7, none, 0)] } }, by decide⟩,
   ⟨5, 7, none, { WB [(R.MODE_STAT_PAIRED, 0, 1), (R.MODE_STAT_ACTIVE, 0, 0)] with yuz := { run := some aBatch } }, by decide⟩,
   ⟨5, 1000, 70000, [{}], aBatch, { WB [(R.MODE_STAT_PAIRED, 0, 0)] with yuz := { run := some aBatch } }, by decide⟩,
   ⟨5, 1000, 7, [{}], { aBatch with deadline := 100 }, { WB [(R.MODE_STAT_PAIRED, 0, 0)] with yuz := { run := some { aBatch with deadline := 100 } } }, by decide⟩,
   ⟨2000000, 0, aBatch, none, { WB [(R.MODE_STAT_PAIRED, 0, 1), (R.MODE_STAT_ACTIVE, 0, 0)] with yuz := { run := some aBatch, verdicts := [(7, none, 0)] } }, by decide⟩,
   ⟨5, State.reset, by decide⟩⟩

theorem wit_LoopTicks :
    (∃ (dt : Nat) (m : List (Nat × Int)) (c : List (Nat × Rat × Rat)) (x : List (Nat × Nat)) (s : State), (s.gridRuns = true) ∧
      (s.replays = false)) ∧
    (∃ (dt : Nat) (m : List (Nat × Int)) (c : List (Nat × Rat × Rat)) (x : List (Nat × Nat)) (s : State), (s.gridRuns = true) ∧
      (s.replays = true)) ∧
    (∃ (dt : Nat) (m : List (Nat × Int)) (c : List (Nat × Rat × Rat)) (x : List (Nat × Nat)) (s : State), (s.gridRuns = false)) ∧
    (∃ (dt : Nat) (e : Nat) (m : Int) (s : State), (tget s.man.loop.encs e 0 = 1) ∧ (s.get R.LOOP_ENC_STAT_INDEX_SEEN e = 0)) ∧
    (∃ (dt : Nat) (e : Nat) (m : Int) (s : State), (tget s.man.loop.encs e 0 = 1) ∧ (s.get R.LOOP_ENC_STAT_INDEX_SEEN e = 1)) ∧
    (∃ (dt : Nat) (e : Nat) (m : Int) (s : State), (tget s.man.loop.encs e 0 = 2)) ∧
    (∃ (dt : Nat) (e : Nat) (m : Int) (s : State), (tget s.man.loop.encs e 0 = 0)) ∧
    (∃ (dt : Nat) (n : Nat) (p : PwmCfg) (s : State), (tfind s.man.loop.pwm n = some p)) ∧
    (∃ (dt : Nat) (n : Nat) (s : State), (tfind s.man.loop.pwm n = none)) ∧
    (∃ (dt : Nat) (o : Nat) (p : Port) (s : State), (o ∈ [0x4048, 0x501C, 0xA058, 0xA068, 0xC01C])) :=
  ⟨⟨5, [(1, -4)], [], [], { W [(R.MODE_STAT_MODE, 2), (R.MODE_STAT_ACTIVE, 1)] with loop := { hullNext := some [] } }, by decide⟩,
   ⟨5, [(1, -4)], [], [(1, 2)], W [(R.MODE_STAT_MODE, 2), (R.MODE_STAT_ACTIVE, 0), (R.TWIN_STAT_STATE, 3)], by decide⟩,
   ⟨5, [], [], [], W [(R.MODE_STAT_MODE, 0)], by decide⟩,
   ⟨5, 2, -3, { WB [(R.LOOP_ENC_STAT_INDEX_SEEN, 2, 0)] with man := { loop := { encs := [(2, 1)] } } }, by decide⟩,
   ⟨5, 2, -3, { WB [(R.LOOP_ENC_STAT_INDEX_SEEN, 2, 1)] with man := { loop := { encs := [(2, 1)] } } }, by decide⟩,
   ⟨5, 2, -3, { State.reset with man := { loop := { encs := [(2, 2)] } } }, by decide⟩,
   ⟨5, 2, -3, State.reset, by decide⟩,
   ⟨5, 2, { period := 100 }, { State.reset with man := { loop := { pwm := [(2, { period := 100 })] } }, loop := { pwm := [(2, { shadow := 9 })] } }, by decide⟩,
   ⟨5, 2, State.reset, by decide⟩,
   ⟨5, 0xC01C, .pcie, { State.reset with time := { running := true, count := 0x7FFFFFFFFFFFFFFFFFFFFFFF } }, by decide⟩⟩

theorem wit_LoopCells :
    (∃ (dt : Nat) (n : Nat) (k : List (Nat × Nat)) (x : CellCfg) (s : State), (s.cellCfg n = some x) ∧ (2 ≤ s.mode) ∧
      (s.tick % x.div = x.phase) ∧ ((s.cell n).ran ≠ some s.tick) ∧ ((s.advance dt).cellTrigger x = 1) ∧
      (s.cellState n ∈ [1, 2, 3]) ∧
      (((x.ins.zipIdx.map fun p => ((s.advance dt).encCaptures x k).cellIn x (s.cell n).prev k p.2 p.1).all (·.ok)) = true)) ∧
    (∃ (dt : Nat) (n : Nat) (k : List (Nat × Nat)) (x : CellCfg) (s : State), (s.cellCfg n = some x) ∧ (2 ≤ s.mode) ∧
      (s.tick % x.div = x.phase) ∧ ((s.cell n).ran ≠ some s.tick) ∧ ((s.advance dt).cellTrigger x = 2) ∧
      (s.cellState n ∈ [1, 2, 3])) ∧
    (∃ (dt : Nat) (n : Nat) (k : List (Nat × Nat)) (x : CellCfg) (s : State), (s.cellCfg n = some x) ∧ (2 ≤ s.mode) ∧
      (s.tick % x.div = x.phase) ∧ ((s.cell n).ran ≠ some s.tick) ∧ ((s.advance dt).cellTrigger x ≠ 0) ∧ (s.cellState n = 4) ∧
      ((s.cell n).safe = 2)) ∧
    (∃ (dt : Nat) (n : Nat) (k : List (Nat × Nat)) (s : State), ((s.cellCfg n = none ∨ s.mode < 2 ∨ (s.cell n).ran = some s.tick))) ∧
    (∃ (dt : Nat) (n : Nat) (x : CellCfg) (s : State), (s.cellCfg n = some x) ∧ (x.missLimit ≤ s.get R.LOOP_CELL_STAT_MISS_RUN n) ∧
      (s.cellState n ∈ [1, 2, 3])) ∧
    (∃ (dt : Nat) (n : Nat) (x : CellCfg) (s : State), (s.cellCfg n = some x) ∧ (x.missLimit ≤ s.get R.LOOP_CELL_STAT_MISS_RUN n) ∧
      (s.cellState n = 4) ∧ ((s.cell n).safe = 3)) ∧
    (∃ (dt : Nat) (n : Nat) (x : CellCfg) (s : State), (s.cellCfg n = some x) ∧ (s.get R.LOOP_CELL_STAT_MISS_RUN n < x.missLimit)) :=
  ⟨⟨5, 0, [], aCell, { loopState with tick := 4 }, by decide +kernel⟩,
   ⟨10005, 0, [], { aCell with ins := [⟨1, 3, 1⟩] }, { loopState with tick := 4, man := { loop := { cells := [(0, { aCell with ins := [⟨1, 3, 1⟩] })] } } }, by decide⟩,
   ⟨5, 0, [], aCell, { WB [(R.LOOP_CELL_STAT_STATE, 0, 4)] loopState with tick := 4, loop := { cells := [(0, { safe := 2, u := 1000000000 })] } }, by decide +kernel⟩,
   ⟨5, 0, [], State.reset, by decide⟩,
   ⟨5, 0, aCell, WB [(R.LOOP_CELL_STAT_MISS_RUN, 0, 3)] loopState, by decide +kernel⟩,
   ⟨5, 0, aCell, { WB [(R.LOOP_CELL_STAT_MISS_RUN, 0, 3), (R.LOOP_CELL_STAT_STATE, 0, 4)] loopState with loop := { cells := [(0, { safe := 3, u := 1000000000 })] } }, by decide +kernel⟩,
   ⟨5, 0, aCell, WB [(R.LOOP_CELL_STAT_MISS_RUN, 0, 2)] loopState, by decide +kernel⟩⟩

theorem wit_InjectionsAndCaptures :
    (∃ (dt : Nat) (p : Port) (x : CellCfg) (s : State), (s.session p = some .installer) ∧
      (s.cellCfg (s.get R.LOOP_SEL_CELL) = some x) ∧ (s.mode = 2) ∧ (s.isActive = true) ∧ (s.fnState x.fn = 2) ∧
      (((s.get R.LOOP_INJ_AMP_AMP (s.get R.LOOP_SEL_CELL) : Nat) : Rat) ≤ x.injMax * 1073741824)) ∧
    (∃ (dt : Nat) (p : Port) (s : State), (s.session p = some .installer) ∧ ((s.mode ≠ 2 ∨ s.isActive = false))) ∧
    (∃ (dt : Nat) (p : Port) (x : CellCfg) (s : State), (s.session p = some .installer) ∧
      (s.cellCfg (s.get R.LOOP_SEL_CELL) = some x) ∧ (s.mode = 2) ∧ (s.isActive = true) ∧ (s.fnState x.fn = 2) ∧
      (x.injMax * 1073741824 < ((s.get R.LOOP_INJ_AMP_AMP (s.get R.LOOP_SEL_CELL) : Nat) : Rat))) ∧
    (∃ (dt : Nat) (p : Port) (x : Instr) (s : State), (x ∈ [Instr.injectionStart dt p, .injectionStop dt p]) ∧
      (s.session p ≠ some .installer)) ∧
    (∃ (dt : Nat) (p : Port) (i : InjSt) (s : State), (s.session p = some .installer) ∧
      ((s.cell (s.get R.LOOP_SEL_CELL)).test = some i)) ∧
    (∃ (dt : Nat) (p : Port) (s : State), (s.session p = some .installer) ∧ ((s.cell (s.get R.LOOP_SEL_CELL)).test = none)) ∧
    (∃ (dt : Nat) (n : Nat) (a : Nat) (i : InjSt) (s : State), ((s.cell n).test = some i) ∧ (i.startAt = some a) ∧
      (a + i.dur * 1000000 ≤ s.now + dt)) ∧
    (∃ (dt : Nat) (n : Nat) (a : Nat) (i : InjSt) (s : State), ((s.cell n).test = some i) ∧ (i.startAt = some a) ∧
      (s.now + dt < a + i.dur * 1000000)) ∧
    (∃ (dt : Nat) (p : Port) (r : Role) (s : State), (s.session p = some r) ∧ (r ∈ [Role.operator, .installer])) ∧
    (∃ (dt : Nat) (p : Port) (r : Role) (s : State), (s.session p = some r) ∧ (r ∈ [Role.operator, .installer]) ∧
      (s.get R.LOOP_CAP_STAT_STATE (s.get R.LOOP_CAP_SEL_UNIT) = 1)) ∧
    (∃ (dt : Nat) (p : Port) (r : Role) (s : State), (s.session p = some r) ∧ (r ∈ [Role.operator, .installer]) ∧
      (s.get R.LOOP_CAP_STAT_STATE (s.get R.LOOP_CAP_SEL_UNIT) ∈ [1, 2])) ∧
    (∃ (dt : Nat) (p : Port) (x : Instr) (s : State), (x ∈ [Instr.captureArm dt p, .captureForce dt p, .captureAbort dt p]) ∧
      (s.session p = none)) ∧
    (∃ (dt : Nat) (u : Nat) (s : State), (s.get R.LOOP_CAP_STAT_STATE u = 2) ∧ (s.get R.LOOP_CAP_STAT_COUNT u = 8192) ∧
      ((s.cap u).trig = false)) ∧
    (∃ (dt : Nat) (u : Nat) (s : State), ((s.get R.LOOP_CAP_STAT_STATE u ≠ 2 ∨ s.get R.LOOP_CAP_STAT_COUNT u ≠ 8192))) :=
  ⟨⟨5, .pcie, { aCell with fn := 1, injMax := 1 }, WB [(R.LOOP_INJ_AMP_AMP, 3, 1000)] instSess, by decide +kernel⟩,
   ⟨5, .pcie, WB [(R.MODE_STAT_MODE, 0, 3)] instSess, by decide⟩,
   ⟨5, .pcie, { aCell with fn := 1, injMax := 1 }, WB [(R.LOOP_INJ_AMP_AMP, 3, 0x50000000)] instSess, by decide +kernel⟩,
   ⟨5, .pcie, .injectionStart 5 .pcie, State.reset, by decide⟩,
   ⟨5, .pcie, aTest, { instSess with loop := { cells := [(3, { test := some aTest })] } }, by decide⟩,
   ⟨5, .pcie, instSess, by decide⟩,
   ⟨5000000, 3, 0, aTest, { State.reset with loop := { cells := [(3, { test := some aTest })] } }, by decide⟩,
   ⟨4999999, 3, 0, aTest, { State.reset with loop := { cells := [(3, { test := some aTest })] } }, by decide⟩,
   ⟨5, .pcie, .installer, WB [(R.LOOP_CAP_SEL_UNIT, 0, 2)] instSess, by decide⟩,
   ⟨5, .pcie, .installer, WB [(R.LOOP_CAP_SEL_UNIT, 0, 2), (R.LOOP_CAP_STAT_STATE, 2, 1)] instSess, by decide⟩,
   ⟨5, .pcie, .installer, WB [(R.LOOP_CAP_SEL_UNIT, 0, 2), (R.LOOP_CAP_STAT_STATE, 2, 1)] instSess, by decide⟩,
   ⟨5, .pcie, .captureArm 5 .pcie, WB [(R.ROLE_STAT_SESSION, 0, 0)], by decide⟩,
   ⟨5, 2, WB [(R.LOOP_CAP_STAT_STATE, 2, 2), (R.LOOP_CAP_STAT_COUNT, 2, 8192)], by decide⟩,
   ⟨5, 2, WB [(R.LOOP_CAP_STAT_STATE, 2, 1)], by decide⟩⟩

theorem wit_MachineFunctions :
    (∃ (dt : Nat) (fn : Nat) (tag : Nat) (k : Nat) (x : Nat × Instr) (s : State), (x ∈ mfnCmds dt (.point k) fn tag) ∧
      (k ∈ s.man.loop.points) ∧ (s.isActive = true) ∧ (2 ≤ s.mode) ∧ (s.mode < 5) ∧
      ((tfind s.man.loop.fns (fn % 32)).isSome = true) ∧ ((s.fn (fn % 32)).cmd = none)) ∧
    (∃ (dt : Nat) (fn : Nat) (tag : Nat) (p : Port) (x : Nat × Instr) (s : State), (x ∈ mfnCmds dt (.host p) fn tag) ∧
      (s.session p = some .operator) ∧ (s.isActive = true) ∧ (2 ≤ s.mode) ∧ (s.mode < 5) ∧
      ((tfind s.man.loop.fns (fn % 32)).isSome = true) ∧ ((s.fn (fn % 32)).cmd = none)) ∧
    (∃ (dt : Nat) (fn : Nat) (tag : Nat) (k : Nat) (x : Nat × Instr) (s : State), (x ∈ mfnCmds dt (.point k) fn tag) ∧
      (k ∈ s.man.loop.points) ∧ (s.isActive = true) ∧ (s.mode = 5)) ∧
    (∃ (dt : Nat) (fn : Nat) (tag : Nat) (k : Nat) (x : Nat × Instr) (s : State), (x ∈ mfnCmds dt (.point k) fn tag) ∧
      (k ∈ s.man.loop.points) ∧ (s.isActive = false) ∧ (s.mode ≠ 1)) ∧
    (∃ (dt : Nat) (fn : Nat) (tag : Nat) (k : Nat) (x : Nat × Instr) (s : State), (x ∈ mfnCmds dt (.point k) fn tag) ∧
      (k ∉ s.man.loop.points)) ∧
    (∃ (dt : Nat) (f : Nat) (g : FnCfg) (s : State), (tfind s.man.loop.fns f = some g) ∧ ((s.fn f).causes = []) ∧ (s.fnState f = 1)
      ∧ ((s.fn f).since + 100 * g.armMs ≤ s.tick)) ∧
    (∃ (dt : Nat) (f : Nat) (k : Nat) (t₀ : Nat) (x : CellCfg) (g : FnCfg) (s : State), (s.cellCfg k = some x) ∧ (x.fn = f) ∧
      (tfind s.man.loop.fns f = some g) ∧ ((s.fn f).causes = []) ∧ (s.fnState f = 2) ∧ (x.satFaultMs ≠ 0) ∧
      ((s.cell k).clampAt = some t₀) ∧ (t₀ + 1000000 * x.satFaultMs ≤ s.now + dt)) ∧
    (∃ (dt : Nat) (f : Nat) (g : FnCfg) (s : State), (tfind s.man.loop.fns f = some g) ∧
      ((s.fnState f ≠ 1 ∨ s.tick < (s.fn f).since + 100 * g.armMs))) ∧
    (∃ (dt : Nat) (k : Nat) (s : State), ((s.cell k).clampAt = none)) ∧
    (∃ (dt : Nat) (f : Nat) (b : Nat) (g : FnCfg) (s : State), (tfind s.man.loop.fns f = some g) ∧ (s.fnState f = 3) ∧
      ((s.fn f).bandAt = some b) ∧ (b + 10000000 ≤ s.now + dt)) ∧
    (∃ (dt : Nat) (f : Nat) (s : State), ((s.fnState f ≠ 3 ∨ (s.fn f).bandAt = none))) ∧
    (∃ (dt : Nat) (f : Nat) (g : FnCfg) (s : State), (tfind s.man.loop.fns f = some g) ∧ (s.fnState f = 3) ∧
      ((s.fn f).stopAt + 1000000 * g.stopMs ≤ s.now + dt)) ∧
    (∃ (dt : Nat) (f : Nat) (g : FnCfg) (s : State), (tfind s.man.loop.fns f = some g) ∧
      ((s.fnState f ≠ 3 ∨ s.now + dt < (s.fn f).stopAt + 1000000 * g.stopMs))) :=
  ⟨⟨5, 33, 300, 4, (1, .mfnEnable 5 (.point 4) 33 300), (withFn {} (W [(R.MODE_STAT_MODE, 2), (R.MODE_STAT_ACTIVE, 1)])), by decide⟩,
   ⟨5, 33, 300, .pcie, (1, .mfnEnable 5 (.host .pcie) 33 300), (withFn {} (W [(R.MODE_STAT_MODE, 2), (R.MODE_STAT_ACTIVE, 1)] opSess)), by decide⟩,
   ⟨5, 33, 300, 4, (1, .mfnEnable 5 (.point 4) 33 300), (withFn {} (W [(R.MODE_STAT_MODE, 5), (R.MODE_STAT_ACTIVE, 1)])), by decide⟩,
   ⟨5, 33, 300, 4, (1, .mfnEnable 5 (.point 4) 33 300), (withFn {} (W [(R.MODE_STAT_MODE, 2), (R.MODE_STAT_ACTIVE, 0)])), by decide⟩,
   ⟨5, 33, 300, 5, (1, .mfnEnable 5 (.point 5) 33 300), (withFn {} State.reset), by decide⟩,
   ⟨5, 1, aFn, { (withFn { since := 100 } (WB [(R.MFN_FN_STAT_STATE, 1, 1)])) with tick := 500100 }, by decide +kernel⟩,
   ⟨7000000, 1, 0, 0, { aCell with fn := 1, satFaultMs := 6 }, { aFn with faultEnd := false }, { WB [(R.MFN_FN_STAT_STATE, 1, 2)] with man := { loop := { cells := [(0, { aCell with fn := 1, satFaultMs := 6 })], fns := [(1, { aFn with faultEnd := false })] } }, loop := { cells := [(0, { clampAt := some 0 })] } }, by decide +kernel⟩,
   ⟨5, 1, aFn, (withFn {} (WB [(R.MFN_FN_STAT_STATE, 1, 1)])), by decide +kernel⟩,
   ⟨5, 1, State.reset, by decide⟩,
   ⟨10000000, 1, 0, aFn, (withFn { bandAt := some 0 } (WB [(R.MFN_FN_STAT_STATE, 1, 3), (R.MFN_FN_STAT_STOP_FAULT, 1, 0)])), by decide +kernel⟩,
   ⟨5, 1, (withFn {} State.reset), by decide⟩,
   ⟨10000000000, 1, aFn, (withFn {} (WB [(R.MFN_FN_STAT_STATE, 1, 3), (R.MFN_FN_STAT_STOP_FAULT, 1, 1)])), by decide +kernel⟩,
   ⟨5, 1, aFn, (withFn {} State.reset), by decide +kernel⟩⟩

theorem wit_TriggersDuringBursts :
    (∃ (dt : Nat) (n : Nat) (d : Nat) (b : Nat) (l : List Int) (c : ConvCfg) (s : State), (tfind s.man.adc.chs n = some c) ∧
      (c.kind = 2) ∧ (s.convState n = 2) ∧ ((s.conv n).burstAt = some b) ∧ (b + 2 ^ c.avgLog2 * 200 + 40 ≤ s.now + dt + d) ∧
      (l.length = 2 ^ c.avgLog2)) :=
  ⟨5, 33, 1000, 0, [100, -2048], { kind := 2, avgLog2 := 1, unit := some 3 }, (withConv 33 { kind := 2, avgLog2 := 1, unit := some 3 } { burstAt := some 0 } (WB [(R.ADC_CH_STAT_STATE, 33, 2), (R.MODE_STAT_PAIRED, 0, 0)])), by decide⟩

theorem wit_ConverterResults :
    (∃ (dt : Nat) (n : Nat) (k : Int) (o : Bool) (c : ConvCfg) (s : State), (tfind s.man.adc.chs n = some c) ∧ (c.kind ≤ 1) ∧
      (s.convState n = 2) ∧ (s.follows = false)) ∧
    (∃ (dt : Nat) (n : Nat) (k : Int) (o : Bool) (c : ConvCfg) (s : State), (tfind s.man.adc.chs n = some c) ∧ (c.kind ≤ 1) ∧
      (s.convState n = 2) ∧ (s.follows = true)) ∧
    (∃ (dt : Nat) (n : Nat) (k : Int) (o : Bool) (s : State), ((tfind s.man.adc.chs n = none ∨ s.convState n ≠ 2))) ∧
    (∃ (dt : Nat) (n : Nat) (k : Int) (c : ConvCfg) (s : State), (tfind s.man.adc.chs n = some c) ∧ (s.convState n = 1) ∧
      ((s.conv n).settleDue = false) ∧ ((s.conv n).settleAt + convSettle c.preset + convSkew n ≤ s.now + dt) ∧
      (s.follows = false)) ∧
    (∃ (dt : Nat) (n : Nat) (k : Int) (c : ConvCfg) (s : State), (tfind s.man.adc.chs n = some c) ∧
      ((s.convState n ≠ 1 ∨ (s.conv n).settleDue = true ∨ s.now + dt < (s.conv n).settleAt + convSettle c.preset + convSkew n))) ∧
    (∃ (dt : Nat) (n : Nat) (q : Nat) (c : ConvCfg) (s : State), (tfind s.man.adc.chs n = some c) ∧ (c.kind = 1) ∧ (4096 ≤ q) ∧
      (s.convState n ∈ [1, 2])) ∧
    (∃ (dt : Nat) (n : Nat) (q : Nat) (s : State), (q < 4096)) ∧
    (∃ (dt : Nat) (n : Nat) (q : Nat) (s : State), (s.convState n = 3) ∧ (1000000 ≤ q)) ∧
    (∃ (dt : Nat) (n : Nat) (q : Nat) (s : State), ((s.convState n ≠ 3 ∨ q < 1000000))) ∧
    (∃ (dt : Nat) (n : Nat) (c : ConvCfg) (s : State), (tfind s.man.adc.chs n = some c) ∧ (c.kind = 2) ∧ (s.convState n = 2) ∧
      ((s.conv n).burstAt = none)) ∧
    (∃ (dt : Nat) (n : Nat) (c : ConvCfg) (s : State), (tfind s.man.adc.chs n = some c) ∧ ((c.kind ≠ 2 ∨ s.convState n ≠ 2))) ∧
    (∃ (dt : Nat) (n : Nat) (b : Nat) (l : List Int) (c : ConvCfg) (s : State), (tfind s.man.adc.chs n = some c) ∧
      ((s.conv n).burstAt = some b) ∧ (b + 2 ^ c.avgLog2 * 200 + 40 ≤ s.now + dt) ∧ (l.length = 2 ^ c.avgLog2) ∧
      (s.follows = false)) ∧
    (∃ (dt : Nat) (n : Nat) (b : Nat) (l : List Int) (c : ConvCfg) (s : State), (tfind s.man.adc.chs n = some c) ∧
      ((s.conv n).burstAt = some b) ∧ (s.now + dt < b + 2 ^ c.avgLog2 * 200 + 40)) ∧
    (∃ (dt : Nat) (d : Rat) (s : State), ((decide (2 / 100 < absR d)) ≠ s.adc.refFault)) ∧
    (∃ (dt : Nat) (d : Rat) (s : State), ((decide (2 / 100 < absR d)) = s.adc.refFault)) :=
  ⟨⟨5, 3, 123456, false, { kind := 0 }, (withConv 3 { kind := 0 } {} (WB [(R.ADC_CH_STAT_STATE, 3, 2), (R.MODE_STAT_PAIRED, 0, 0)])), by decide⟩,
   ⟨5, 3, 123456, false, { kind := 0 }, (withConv 3 { kind := 0 } {} (WB [(R.ADC_CH_STAT_STATE, 3, 2), (R.MODE_STAT_PAIRED, 0, 1), (R.MODE_STAT_ACTIVE, 0, 0)])), by decide⟩,
   ⟨5, 3, 123456, false, State.reset, by decide⟩,
   ⟨30100, 3, 123456, { kind := 0 }, (withConv 3 { kind := 0 } {} (WB [(R.ADC_CH_STAT_STATE, 3, 1), (R.MODE_STAT_PAIRED, 0, 0)])), by decide⟩,
   ⟨30099, 3, 123456, { kind := 0 }, (withConv 3 { kind := 0 } {} (WB [(R.ADC_CH_STAT_STATE, 3, 1)])), by decide⟩,
   ⟨5, 17, 4096, { kind := 1 }, (withConv 17 { kind := 1 } {} (WB [(R.ADC_CH_STAT_STATE, 17, 2)])), by decide⟩,
   ⟨5, 17, 4095, (withConv 17 { kind := 1 } {} (WB [(R.ADC_CH_STAT_STATE, 17, 2)])), by decide⟩,
   ⟨5, 17, 1000000, WB [(R.ADC_CH_STAT_STATE, 17, 3)], by decide⟩,
   ⟨5, 17, 999999, WB [(R.ADC_CH_STAT_STATE, 17, 3)], by decide⟩,
   ⟨5, 33, { kind := 2 }, (withConv 33 { kind := 2 } {} (WB [(R.ADC_CH_STAT_STATE, 33, 2)])), by decide⟩,
   ⟨5, 33, { kind := 2 }, (withConv 33 { kind := 2 } {} (WB [(R.ADC_CH_STAT_STATE, 33, 0)])), by decide⟩,
   ⟨440, 33, 0, [100, -2048], { kind := 2, avgLog2 := 1 }, (withConv 33 { kind := 2, avgLog2 := 1 } { burstAt := some 0 } (WB [(R.ADC_CH_STAT_STATE, 33, 2), (R.MODE_STAT_PAIRED, 0, 0)])), by decide⟩,
   ⟨439, 33, 0, [100, -2048], { kind := 2, avgLog2 := 1 }, (withConv 33 { kind := 2, avgLog2 := 1 } { burstAt := some 0 } (WB [(R.ADC_CH_STAT_STATE, 33, 2)])), by decide⟩,
   ⟨5, -3 / 100, State.reset, by decide +kernel⟩,
   ⟨5, -2 / 100, State.reset, by decide +kernel⟩⟩

theorem wit_HartPauses :
    (∃ (dt : Nat) (d : Nat) (m : Nat) (p : Port) (s : State), (s.session p = some .operator) ∧ (m = s.get R.CLP_HART_SEL_MODEM) ∧
      ((s.hart m).tx = none)) ∧
    (∃ (dt : Nat) (m : Nat) (p : Port) (k : HartTx) (s : State), (s.session p = some .operator) ∧ (m = s.get R.CLP_HART_SEL_MODEM) ∧
      ((s.hart m).tx = some k)) ∧
    (∃ (dt : Nat) (m : Nat) (r : HartReply) (x : HartCfg) (k : HartTx) (s : State), (tfind s.man.clp.modems m = some x) ∧
      ((s.hart m).tx = some k)) ∧
    (∃ (dt : Nat) (m : Nat) (x : HartCfg) (k : HartTx) (s : State), (tfind s.man.clp.modems m = some x) ∧ ((s.hart m).tx = some k) ∧
      (x.retries < k.tries)) ∧
    (∃ (dt : Nat) (m : Nat) (p : Port) (s : State), (s.session p = some .operator) ∧ (m = s.get R.CLP_HART_SEL_MODEM)) ∧
    (∃ (dt : Nat) (p : Port) (c : Instr) (s : State), (c ∈ [Instr.hartPause dt p, .hartResume dt p]) ∧
      (s.session p ≠ some .operator)) :=
  ⟨⟨5, 6, 2, .pcie, (withHart { mode := 1, addrs := [(3, 9)] } {} opSession), by decide⟩,
   ⟨5, 2, .pcie, { addr := 3, cmd := 0, entry := none }, (withHart { mode := 1 } { tx := some { addr := 3, cmd := 0, entry := none } } opSession), by decide⟩,
   ⟨5, 2, { rc := 0, ident := 9 }, { mode := 1, addrs := [(3, 9)] }, { addr := 3, cmd := 0, entry := none }, (withHart { mode := 1, addrs := [(3, 9)] } { tx := some { addr := 3, cmd := 0, entry := none }, pauseDue := true } State.reset), by decide⟩,
   ⟨5, 2, { mode := 1, addrs := [(3, 9)] }, { addr := 3, cmd := 0, entry := none, tries := 3 }, (withHart { mode := 1, addrs := [(3, 9)] } { tx := some { addr := 3, cmd := 0, entry := none, tries := 3 }, pauseDue := true } State.reset), by decide⟩,
   ⟨5, 2, .pcie, (withHart { mode := 1 } { pauseDue := true } opSession), by decide⟩,
   ⟨5, .pcie, .hartPause 5 .pcie, State.reset, by decide⟩⟩

theorem wit_HartTransactions :
    (∃ (dt : Nat) (m : Nat) (x : HartCfg) (a : Nat × Nat) (s : State), (tfind s.man.clp.modems m = some x) ∧ ((s.hart m).tx = none)
      ∧ (s.get R.CLP_HART_STAT_PAUSED m = 0) ∧ (x.mode ≠ 0) ∧ (s.hartRuns = true) ∧
      (x.addrs.find? (fun b => b.1 ∉ (s.hart m).asked) = some a)) ∧
    (∃ (dt : Nat) (m : Nat) (i : Nat) (x : HartCfg) (e : HartPoll) (s : State), (tfind s.man.clp.modems m = some x) ∧
      ((s.hart m).tx = none) ∧ (s.get R.CLP_HART_STAT_PAUSED m = 0) ∧ (x.mode ≠ 0) ∧ (s.hartRuns = true) ∧
      (x.addrs.find? (fun b => b.1 ∉ (s.hart m).asked) = none) ∧ (hartDue (s.hart m) (s.now + dt) x.polls 0 = some (i, e))) ∧
    (∃ (dt : Nat) (m : Nat) (x : HartCfg) (s : State), (tfind s.man.clp.modems m = some x) ∧
      (((s.hart m).tx ≠ none ∨ s.get R.CLP_HART_STAT_PAUSED m = 1 ∨ x.mode = 0 ∨ s.hartRuns = false))) ∧
    (∃ (dt : Nat) (m : Nat) (r : HartReply) (x : HartCfg) (k : HartTx) (s : State), (tfind s.man.clp.modems m = some x) ∧
      ((s.hart m).tx = some k) ∧ (r.rc ≠ 0)) ∧
    (∃ (dt : Nat) (m : Nat) (r : HartReply) (x : HartCfg) (k : HartTx) (s : State), (tfind s.man.clp.modems m = some x) ∧
      ((s.hart m).tx = some k) ∧ (r.rc = 0) ∧ (k.entry = none) ∧ (r.ident = tget x.addrs k.addr 0)) ∧
    (∃ (dt : Nat) (m : Nat) (r : HartReply) (x : HartCfg) (k : HartTx) (s : State), (tfind s.man.clp.modems m = some x) ∧
      ((s.hart m).tx = some k) ∧ (r.rc = 0) ∧ (k.entry = none) ∧ (r.ident ≠ tget x.addrs k.addr 0)) ∧
    (∃ (dt : Nat) (m : Nat) (x : HartCfg) (k : HartTx) (s : State), (tfind s.man.clp.modems m = some x) ∧ ((s.hart m).tx = some k) ∧
      (k.tries ≤ x.retries)) ∧
    (∃ (dt : Nat) (m : Nat) (r : HartReply) (c : Instr) (s : State), (c ∈ [Instr.hartReply dt m r, .hartRetry dt m]) ∧
      ((s.hart m).tx = none)) ∧
    (∃ (dt : Nat) (m : Nat) (a : Nat) (t₀ : Nat) (x : HartCfg) (s : State), (tfind s.man.clp.modems m = some x) ∧
      (tfind (s.hart m).idAt a = some t₀) ∧ ((s.hart m).tx = none) ∧ (a ∉ (s.hart m).ident) ∧ (t₀ + 60000000000 ≤ s.now + dt) ∧
      (s.hartRuns = true)) ∧
    (∃ (dt : Nat) (m : Nat) (a : Nat) (t₀ : Nat) (s : State), (tfind (s.hart m).idAt a = some t₀) ∧
      ((a ∈ (s.hart m).ident ∨ s.now + dt < t₀ + 60000000000))) :=
  ⟨⟨5, 2, { mode := 1, addrs := [(3, 9)] }, (3, 9), (withHart { mode := 1, addrs := [(3, 9)] } {} (WB [(R.MODE_STAT_MODE, 0, 2), (R.CLP_HART_STAT_PAUSED, 2, 0)])), by decide⟩,
   ⟨5, 2, 0, { mode := 1, polls := [{ addr := 3, cmd := 1, ms := 1000 }] }, { addr := 3, cmd := 1, ms := 1000 }, (withHart { mode := 1, polls := [{ addr := 3, cmd := 1, ms := 1000 }] } { ident := [3] } (WB [(R.MODE_STAT_MODE, 0, 2), (R.CLP_HART_STAT_PAUSED, 2, 0)])), by decide⟩,
   ⟨5, 2, { mode := 1, addrs := [(3, 9)] }, (withHart { mode := 1, addrs := [(3, 9)] } {} (WB [(R.MODE_STAT_MODE, 0, 0)])), by decide⟩,
   ⟨5, 2, { rc := 7 }, { mode := 1 }, { addr := 3, cmd := 1, entry := some 0 }, (withHart { mode := 1 } { tx := some { addr := 3, cmd := 1, entry := some 0 } } State.reset), by decide⟩,
   ⟨5, 2, { rc := 0, ident := 9 }, { mode := 1, addrs := [(3, 9)] }, { addr := 3, cmd := 0, entry := none }, (withHart { mode := 1, addrs := [(3, 9)] } { tx := some { addr := 3, cmd := 0, entry := none }, failed := [(3, 0)] } State.reset), by decide⟩,
   ⟨5, 2, { rc := 0, ident := 8 }, { mode := 1, addrs := [(3, 9)] }, { addr := 3, cmd := 0, entry := none }, (withHart { mode := 1, addrs := [(3, 9)] } { tx := some { addr := 3, cmd := 0, entry := none }, ident := [3] } State.reset), by decide⟩,
   ⟨5, 2, { mode := 1 }, { addr := 3, cmd := 0, entry := none, tries := 2 }, (withHart { mode := 1 } { tx := some { addr := 3, cmd := 0, entry := none, tries := 2 } } State.reset), by decide⟩,
   ⟨5, 2, { rc := 0 }, .hartRetry 5 2, State.reset, by decide⟩,
   ⟨60000000000, 2, 3, 0, { mode := 1 }, (withHart { mode := 1 } { idAt := [(3, 0)] } (WB [(R.MODE_STAT_MODE, 0, 2)])), by decide⟩,
   ⟨59999999999, 2, 3, 0, (withHart { mode := 1 } { idAt := [(3, 0)] } (WB [(R.MODE_STAT_MODE, 0, 2)])), by decide⟩⟩

theorem wit_CurrentLoops :
    (∃ (dt : Nat) (n : Nat) (t₀ : Nat) (x : ClpCfg) (s : State), (tfind s.man.clp.chs n = some x) ∧ ((s.clpCh n).badAt = some t₀) ∧
      (x.src = 2) ∧ ((s.clpCh n).failed = false) ∧ (t₀ + 1000000 * x.failMs ≤ s.now + dt)) ∧
    (∃ (dt : Nat) (n : Nat) (t₀ : Nat) (x : ClpCfg) (s : State), (tfind s.man.clp.chs n = some x) ∧ ((s.clpCh n).badAt = some t₀) ∧
      ((x.src ≠ 2 ∨ (s.clpCh n).failed = true ∨ s.now + dt < t₀ + 1000000 * x.failMs))) ∧
    (∃ (dt : Nat) (n : Nat) (x : ClpCfg) (s : State), (tfind s.man.clp.chs n = some x)) ∧
    (∃ (dt : Nat) (n : Nat) (c : Instr) (s : State),
      (c ∈ [Instr.sourceFailure dt n, .supplyStep dt n, .complianceSet dt n, .complianceClear dt n, .complianceRestoreCheck dt n])
      ∧ (tfind s.man.clp.chs n = none)) ∧
    (∃ (dt : Nat) (n : Nat) (t₀ : Nat) (x : ClpCfg) (s : State), (tfind s.man.clp.chs n = some x) ∧ ((s.clpCh n).condAt = some t₀) ∧
      ((s.clpCh n).short x = true) ∧ (t₀ + 1000000 * x.compMs ≤ s.now + dt) ∧ (s.get R.CLP_CH_STAT_COMPLIANCE n = 0)) ∧
    (∃ (dt : Nat) (n : Nat) (t₀ : Nat) (x : ClpCfg) (s : State), (tfind s.man.clp.chs n = some x) ∧ ((s.clpCh n).condAt = some t₀) ∧
      (((s.clpCh n).short x = false ∨ s.now + dt < t₀ + 1000000 * x.compMs))) ∧
    (∃ (dt : Nat) (n : Nat) (t₀ : Nat) (x : ClpCfg) (s : State), (tfind s.man.clp.chs n = some x) ∧ ((s.clpCh n).clearAt = some t₀)
      ∧ ((s.clpCh n).subst = false) ∧ (s.get R.CLP_CH_STAT_COMPLIANCE n = 1) ∧ (t₀ + 1000000 * x.compMs ≤ s.now + dt)) ∧
    (∃ (dt : Nat) (n : Nat) (t₀ : Nat) (x : ClpCfg) (s : State), (tfind s.man.clp.chs n = some x) ∧ ((s.clpCh n).clearAt = some t₀)
      ∧ (((s.clpCh n).subst = true ∨ (s.get R.CLP_CH_STAT_OPEN n = 0 ∧
      (s.get R.CLP_CH_STAT_COMPLIANCE n = 0 ∨ s.now + dt < t₀ + 1000000 * x.compMs))))) ∧
    (∃ (dt : Nat) (n : Nat) (x : ClpCfg) (s : State), (tfind s.man.clp.chs n = some x) ∧ ((s.clpCh n).subst = true) ∧
      (s.tick % 100000 = 0) ∧ (0 < (s.clpCh n).meas) ∧ (s.get R.CLP_CH_STAT_OPEN n = 0) ∧
      (x.headroom ≤ x.supMax - (s.clpCh n).req / 1000 * (((s.clpCh n).supply - (s.clpCh n).vpt - (s.clpCh n).meas / 100) / ((s.clpCh n).meas / 1000) + 10))) ∧
    (∃ (dt : Nat) (n : Nat) (x : ClpCfg) (s : State), (tfind s.man.clp.chs n = some x) ∧
      (((s.clpCh n).subst = false ∨ s.tick % 100000 ≠ 0 ∨ (s.clpCh n).meas ≤ 0))) :=
  ⟨⟨100000000, 2, 0, { src := 2 }, (withClp { src := 2 } { badAt := some 0 } State.reset), by decide +kernel⟩,
   ⟨99999999, 2, 0, { src := 2 }, (withClp { src := 2 } { badAt := some 0 } State.reset), by decide +kernel⟩,
   ⟨5, 2, { src := 2 }, (withClp { src := 2 } { supply := 23 } State.reset), by decide +kernel⟩,
   ⟨5, 2, .supplyStep 5 2, State.reset, by decide⟩,
   ⟨5000000, 2, 0, { src := 2, lowAlarm := true }, (withClp { src := 2, lowAlarm := true } { condAt := some 0, supply := 24, out := 4 } (WB [(R.CLP_CH_STAT_COMPLIANCE, 2, 0)])), by decide +kernel⟩,
   ⟨4999999, 2, 0, { src := 2, lowAlarm := true }, (withClp { src := 2, lowAlarm := true } { condAt := some 0, supply := 24, out := 4 } State.reset), by decide +kernel⟩,
   ⟨5000000, 2, 0, { src := 2 }, (withClp { src := 2 } { clearAt := some 0 } (WB [(R.CLP_CH_STAT_COMPLIANCE, 2, 1)])), by decide +kernel⟩,
   ⟨4999999, 2, 0, { src := 2 }, (withClp { src := 2 } { clearAt := some 0 } (WB [(R.CLP_CH_STAT_COMPLIANCE, 2, 1), (R.CLP_CH_STAT_OPEN, 2, 0)])), by decide +kernel⟩,
   ⟨5, 2, { src := 2 }, (withClp { src := 2 } { subst := true, meas := 36 / 10, supply := 10, vpt := 9, req := 10 } (WB [(R.CLP_CH_STAT_OPEN, 2, 0)])), by decide +kernel⟩,
   ⟨5, 2, { src := 2 }, (withClp { src := 2 } {} State.reset), by decide +kernel⟩⟩

theorem wit_MotorCommands :
    (∃ (dt : Nat) (n : Nat) (tag : Nat) (arg : Int) (p : Port) (x : Nat × Int × Instr) (c : StepCfg) (s : State),
      (x ∈ stepCmds dt (.host p) n tag arg) ∧ (s.session p = some .installer) ∧ (s.mode = 2) ∧ (s.isActive = true) ∧
      (tfind s.man.step (n % 8) = some c) ∧ (s.fnState c.fn = 0)) ∧
    (∃ (dt : Nat) (n : Nat) (tag : Nat) (arg : Int) (p : Port) (x : Nat × Int × Instr) (s : State),
      (x ∈ stepCmds dt (.host p) n tag arg) ∧ (s.session p = some .installer) ∧ (s.isActive = true) ∧ (s.mode ∈ [3, 4, 5])) ∧
    (∃ (dt : Nat) (n : Nat) (tag : Nat) (arg : Int) (p : Port) (x : Nat × Int × Instr) (c : StepCfg) (s : State),
      (x ∈ stepCmds dt (.host p) n tag arg) ∧ (s.session p = some .installer) ∧ (s.mode = 2) ∧ (s.isActive = true) ∧
      (tfind s.man.step (n % 8) = some c) ∧ (s.fnState c.fn ≠ 0)) ∧
    (∃ (dt : Nat) (n : Nat) (tag : Nat) (arg : Int) (p : Port) (x : Nat × Int × Instr) (s : State),
      (x ∈ stepCmds dt (.host p) n tag arg) ∧ (s.session p = some .installer) ∧ (s.isActive = false) ∧ (s.mode ≠ 1)) ∧
    (∃ (dt : Nat) (n : Nat) (tag : Nat) (arg : Int) (p : Port) (x : Nat × Int × Instr) (s : State),
      (x ∈ stepCmds dt (.host p) n tag arg) ∧ (s.session p ≠ some .installer)) ∧
    (∃ (dt : Nat) (n : Nat) (tag : Nat) (i : Nat) (arg : Int) (x : StepCfg) (s : State), (tfind s.man.step n = some x) ∧
      (x.cmd = some i) ∧ (2 ≤ s.mode) ∧ (s.mode ≤ 4) ∧ (s.stepState n ∈ [0, 1]) ∧ (x.requireHome = false) ∧
      ((s.stepCh n).stopTick ≠ some s.tick) ∧
      (x.posMin ≤ (match x.target with | some j => ((s.advance dt).ptRead j).1.floor | none => 0)) ∧
      ((match x.target with | some j => ((s.advance dt).ptRead j).1.floor | none => 0) ≤ x.posMax)) ∧
    (∃ (dt : Nat) (n : Nat) (tag : Nat) (i : Nat) (arg : Int) (x : StepCfg) (s : State), (tfind s.man.step n = some x) ∧
      (x.cmd = some i) ∧ (2 ≤ s.mode) ∧ (s.mode ≤ 4) ∧ (s.stepState n ∈ [0, 1]) ∧ (x.requireHome = false) ∧
      ((s.stepCh n).stopTick ≠ some s.tick)) ∧
    (∃ (dt : Nat) (n : Nat) (tag : Nat) (i : Nat) (x : StepCfg) (s : State), (tfind s.man.step n = some x) ∧ (x.cmd = some i) ∧
      (2 ≤ s.mode) ∧ (s.mode ≤ 4) ∧ (s.stepState n ∈ [2, 4])) ∧
    (∃ (dt : Nat) (n : Nat) (tag : Nat) (i : Nat) (x : StepCfg) (s : State), (tfind s.man.step n = some x) ∧ (x.cmd = some i) ∧
      (2 ≤ s.mode) ∧ (s.mode ≤ 4) ∧ (s.stepState n ≠ 5)) ∧
    (∃ (dt : Nat) (n : Nat) (tag : Nat) (i : Nat) (x : StepCfg) (s : State), (tfind s.man.step n = some x) ∧ (x.cmd = some i) ∧
      (2 ≤ s.mode) ∧ (s.mode ≤ 4) ∧ (s.stepState n ∈ [0, 1]) ∧ ((s.stepCh n).stopTick ≠ some s.tick)) ∧
    (∃ (dt : Nat) (n : Nat) (tag : Nat) (i : Nat) (x : StepCfg) (s : State), (tfind s.man.step n = some x) ∧ (x.cmd = some i) ∧
      (2 ≤ s.mode) ∧ (s.mode ≤ 4) ∧ (s.stepState n = 5)) ∧
    (∃ (dt : Nat) (n : Nat) (tag : Nat) (i : Nat) (arg : Int) (y : Nat × Int × Instr) (x : StepCfg) (s : State),
      (y ∈ stepCmds dt (.point i) n tag arg) ∧ (tfind s.man.step n = some x) ∧ (x.cmd ≠ some i)) :=
  ⟨⟨5, 10, 300, 5000, .pcie, (1, 5000, .stepMove 5 (.host .pcie) 10 300 5000), aStep, (withStep aStep {} instSession), by decide +kernel⟩,
   ⟨5, 10, 300, 5000, .pcie, (5, 0, .stepHome 5 (.host .pcie) 10 300), (withStep aStep {} (W [(R.MODE_STAT_MODE, 3)] instSession)), by decide⟩,
   ⟨5, 10, 300, 5000, .pcie, (6, 0, .stepReset 5 (.host .pcie) 10 300), aStep, (withStep aStep {} (WB [(R.MFN_FN_STAT_STATE, 1, 2)] instSession)), by decide +kernel⟩,
   ⟨5, 10, 300, 5000, .pcie, (3, 0, .stepHalt 5 (.host .pcie) 10 300), (withStep aStep {} (W [(R.MODE_STAT_ACTIVE, 0)] instSession)), by decide⟩,
   ⟨5, 10, 300, 5000, .pcie, (3, 0, .stepHalt 5 (.host .pcie) 10 300), State.reset, by decide⟩,
   ⟨5, 2, 0, 4, 0, aStep, (withStep aStep { pos := 77 } (WB [(R.MODE_STAT_MODE, 0, 2), (R.STEP_CH_STAT_STATE, 2, 1)])), by decide +kernel⟩,
   ⟨5, 2, 0, 4, 0, aStep, (withStep aStep { pos := 77 } (WB [(R.MODE_STAT_MODE, 0, 2), (R.STEP_CH_STAT_STATE, 2, 0)])), by decide +kernel⟩,
   ⟨5, 2, 0, 4, aStep, (withStep aStep { pos := 77 } (WB [(R.MODE_STAT_MODE, 0, 2), (R.STEP_CH_STAT_STATE, 2, 2)])), by decide +kernel⟩,
   ⟨5, 2, 0, 4, aStep, (withStep aStep { pos := 77, v := 5, amp := 1 } (WB [(R.MODE_STAT_MODE, 0, 2), (R.STEP_CH_STAT_STATE, 2, 2)])), by decide +kernel⟩,
   ⟨5, 2, 0, 4, aStep, (withStep aStep { pos := 77 } (WB [(R.MODE_STAT_MODE, 0, 2), (R.STEP_CH_STAT_STATE, 2, 0)])), by decide +kernel⟩,
   ⟨5, 2, 0, 4, aStep, (withStep aStep { pos := 77 } (WB [(R.MODE_STAT_MODE, 0, 2), (R.STEP_CH_STAT_STATE, 2, 5), (R.STEP_CH_STAT_STALL, 2, 1)])), by decide +kernel⟩,
   ⟨5, 2, 0, 5, 7, (1, 7, .stepMove 5 (.point 5) 2 0 7), aStep, (withStep aStep {} State.reset), by decide +kernel⟩⟩

theorem wit_MotorDrive :
    (∃ (dt : Nat) (n : Nat) (w : List (Nat × SwLevels)) (a : List (Nat × Nat)) (x : StepCfg) (s : State), (2 ≤ s.mode) ∧
      ((s.man.step.map (·.1)).Nodup) ∧ (tfind s.man.step n = some x) ∧ (s.stepState n ∈ [0, 1, 5])) ∧
    (∃ (dt : Nat) (n : Nat) (w : List (Nat × SwLevels)) (a : List (Nat × Nat)) (x : StepCfg) (s : State), (2 ≤ s.mode) ∧
      ((s.man.step.map (·.1)).Nodup) ∧ (tfind s.man.step n = some x) ∧ (s.stepState n = 2) ∧ ((s.stepCh n).rampAt = none) ∧
      ((s.stepCh n).pos = (s.stepCh n).target * p32) ∧ ((s.stepCh n).v = 0) ∧ ((s.stepCh n).a = 0) ∧ (0 < (s.stepCh n).scale) ∧
      (0 < x.dMax) ∧ (0 < x.laVmin) ∧ (tfind a n = none) ∧ (s.get R.STEP_CH_STAT_DEC_RAISED n = 0)) ∧
    (∃ (dt : Nat) (n : Nat) (w : List (Nat × SwLevels)) (a : List (Nat × Nat)) (s : State), ((s.mode < 2 ∨ s.man.step = []))) ∧
    (∃ (dt : Nat) (n : Nat) (k : Nat) (cyc : Nat) (h : Bool) (x : StepCfg) (s : State), (tfind s.man.step n = some x) ∧
      (((s.stepCh n).coil k).bridge ≠ 0) ∧ (((s.stepCh n).coil k).drive = h) ∧ (2 * x.blankNs ≤ 5 * cyc)) ∧
    (∃ (dt : Nat) (n : Nat) (k : Nat) (cyc : Nat) (h : Bool) (x : StepCfg) (s : State), (tfind s.man.step n = some x) ∧
      (((s.stepCh n).coil k).bridge ≠ 0) ∧ (((s.stepCh n).coil k).drive = h) ∧ (5 * cyc < 2 * x.blankNs)) ∧
    (∃ (dt : Nat) (n : Nat) (k : Nat) (x : StepCfg) (s : State), (tfind s.man.step n = some x) ∧
      (((s.stepCh n).coil k).drive = true) ∧ (((s.stepCh n).coil k).bridge ≠ 0) ∧
      (((s.stepCh n).coil k).driveAt + 1000 * x.tOnUs ≤ s.now + dt) ∧ (x.iRunMax / 10 ≤ absR ((s.stepCh n).ref k)) ∧
      (s.stepState n ≠ 5)) ∧
    (∃ (dt : Nat) (n : Nat) (k : Nat) (x : StepCfg) (s : State), (tfind s.man.step n = some x) ∧ (3 ≤ ((s.stepCh n).coil k).shorts)
      ∧ (s.stepState n ≠ 5)) ∧
    (∃ (dt : Nat) (n : Nat) (k : Nat) (c : Instr) (s : State), (c ∈ [Instr.openCoil dt n k, .shortCoil dt n k]) ∧
      (((s.stepCh n).coil k).drive = false) ∧ (((s.stepCh n).coil k).shorts < 3)) ∧
    (∃ (dt : Nat) (n : Nat) (x : StepCfg) (s : State), (tfind s.man.step n = some x) ∧ (s.stepState n = 1) ∧
      ((s.stepCh n).idle = true) ∧ ((s.stepCh n).restAt + 1000000 * x.holdMs ≤ s.now + dt)) ∧
    (∃ (dt : Nat) (n : Nat) (x : StepCfg) (s : State), (tfind s.man.step n = some x) ∧
      ((s.stepState n ≠ 1 ∨ (s.stepCh n).idle = false ∨ s.now + dt < (s.stepCh n).restAt + 1000000 * x.holdMs))) ∧
    (∃ (dt : Nat) (n : Nat) (p : Bool) (x : StepCfg) (s : State), (tfind s.man.step n = some x) ∧ (s.stepState n ∈ [0, 1, 5]) ∧
      ((if p then (s.stepCh n).posAt else (s.stepCh n).negAt) + 1000 * x.limDebUs ≤ s.now + dt)) ∧
    (∃ (dt : Nat) (n : Nat) (x : StepCfg) (s : State), (tfind s.man.step n = some x) ∧ (s.stepState n = 2) ∧ (0 < (s.stepCh n).v) ∧
      ((s.stepCh n).sw.pos = true) ∧ ((s.stepCh n).posAt + 1000 * x.limDebUs ≤ s.now + dt)) ∧
    (∃ (dt : Nat) (n : Nat) (x : StepCfg) (s : State), (tfind s.man.step n = some x) ∧
      ((s.stepCh n).homeAt + 1000 * x.homeDebUs ≤ s.now + dt) ∧ (s.stepState n = 4) ∧ (s.get R.STEP_CH_STAT_HOME_PHASE n = 1) ∧
      (homeLevel x (s.stepCh n).sw = true) ∧ (s.get R.STEP_CH_STAT_HOME_IN n = 0)) ∧
    (∃ (dt : Nat) (n : Nat) (x : StepCfg) (s : State), (tfind s.man.step n = some x) ∧
      (s.now + dt < (s.stepCh n).homeAt + 1000 * x.homeDebUs)) ∧
    (∃ (dt : Nat) (n : Nat) (x : StepCfg) (s : State), (tfind s.man.step n = some x) ∧ (s.stepState n = 4) ∧
      (s.get R.STEP_CH_STAT_HOME_PHASE n = 3) ∧ ((s.stepCh n).v = 0) ∧
      ((s.stepCh n).pos = ((s.stepCh n).latch - (if x.homePosDir then 1 else -1) * x.backoff) * p32) ∧
      (homeLevel x (s.stepCh n).sw = false)) ∧
    (∃ (dt : Nat) (n : Nat) (x : StepCfg) (s : State), (tfind s.man.step n = some x) ∧ (s.stepState n = 4) ∧
      (s.get R.STEP_CH_STAT_HOME_PHASE n = 3) ∧ ((s.stepCh n).v = 0) ∧
      ((s.stepCh n).pos = ((s.stepCh n).latch - (if x.homePosDir then 1 else -1) * x.backoff) * p32) ∧
      (homeLevel x (s.stepCh n).sw = true)) ∧
    (∃ (dt : Nat) (n : Nat) (s : State), ((tfind s.man.step n = none ∨ s.stepState n ≠ 4))) :=
  ⟨⟨5, 2, [(2, { home := true })], [], aStep, (withStep aStep { pos := 77 } (WB [(R.MODE_STAT_MODE, 0, 2), (R.STEP_CH_STAT_STATE, 2, 1)])), by decide +kernel⟩,
   ⟨5, 2, [], [], aStep, (withStep aStep { pos := 77 * p32, target := 77, kind := 1 } (WB [(R.MODE_STAT_MODE, 0, 2), (R.STEP_CH_STAT_STATE, 2, 2), (R.STEP_CH_STAT_DEC_RAISED, 2, 0)])), by decide +kernel⟩,
   ⟨5, 2, [], [], State.reset, by decide⟩,
   ⟨5, 2, 0, 200, true, aStep, (withStep aStep { coilA := { bridge := 1, drive := true } } State.reset), by decide +kernel⟩,
   ⟨5, 2, 0, 199, true, aStep, (withStep aStep { coilA := { bridge := 1, drive := true } } State.reset), by decide +kernel⟩,
   ⟨100000, 2, 0, aStep, (withStep aStep { amp := 1, pos := 1000 * p32, coilA := { bridge := 1, drive := true } } (WB [(R.STEP_CH_STAT_STATE, 2, 2)])), by decide +kernel⟩,
   ⟨5, 2, 0, aStep, (withStep aStep { coilA := { shorts := 3 } } (WB [(R.STEP_CH_STAT_STATE, 2, 2)])), by decide +kernel⟩,
   ⟨5, 2, 0, .openCoil 5 2 0, (withStep aStep {} State.reset), by decide⟩,
   ⟨200000000, 2, aStep, (withStep aStep { amp := 1, idle := true } (WB [(R.STEP_CH_STAT_STATE, 2, 1)])), by decide +kernel⟩,
   ⟨199999999, 2, aStep, (withStep aStep { amp := 1, idle := true } (WB [(R.STEP_CH_STAT_STATE, 2, 1)])), by decide +kernel⟩,
   ⟨1000000, 2, true, aStep, (withStep aStep { sw := { pos := true } } (WB [(R.STEP_CH_STAT_STATE, 2, 1)])), by decide +kernel⟩,
   ⟨1000000, 2, aStep, (withStep aStep { v := 5, sw := { pos := true } } (WB [(R.STEP_CH_STAT_STATE, 2, 2)])), by decide +kernel⟩,
   ⟨5000000, 2, aStep, (withStep aStep { sw := { home := true }, homePosAt := -9 } (WB [(R.STEP_CH_STAT_STATE, 2, 4), (R.STEP_CH_STAT_HOME_PHASE, 2, 1), (R.STEP_CH_STAT_HOME_IN, 2, 0)])), by decide +kernel⟩,
   ⟨4999999, 2, aStep, (withStep aStep {} State.reset), by decide +kernel⟩,
   ⟨5, 2, aStep, (withStep aStep { latch := 9, pos := 10249 * p32 } (WB [(R.STEP_CH_STAT_STATE, 2, 4), (R.STEP_CH_STAT_HOME_PHASE, 2, 3)])), by decide +kernel⟩,
   ⟨5, 2, aStep, (withStep aStep { latch := 9, pos := 10249 * p32, sw := { home := true } } (WB [(R.STEP_CH_STAT_STATE, 2, 4), (R.STEP_CH_STAT_HOME_PHASE, 2, 3)])), by decide +kernel⟩,
   ⟨5, 2, State.reset, by decide⟩⟩

theorem wit_IslandFaults :
    (∃ (dt : Nat) (x : Nat × Instr) (s : State), (x ∈ islFaultCmds dt) ∧ (s.isl.present = true)) ∧
    (∃ (dt : Nat) (s : State), (s.isl.present = true)) ∧
    (∃ (dt : Nat) (c : Nat) (s : State), (s.isl.present = true) ∧ (s.man.safety.given = true) ∧ (c ≠ s.man.safety.crc)) ∧
    (∃ (dt : Nat) (n : Nat) (t₀ : Nat) (c : SafeInCfg) (s : State), (s.isl.present = true) ∧ ((s.islIn n).discAt = some t₀) ∧
      (tfind s.man.safety.ins n = some c) ∧ (t₀ + c.discMs * 1000000 ≤ s.now + dt)) ∧
    (∃ (dt : Nat) (n : Nat) (t₀ : Nat) (c : SafeInCfg) (s : State), ((s.islIn n).discAt = some t₀) ∧
      (tfind s.man.safety.ins n = some c) ∧ (s.now + dt < t₀ + c.discMs * 1000000)) ∧
    (∃ (dt : Nat) (n : Nat) (us : Nat) (b : Bool) (c : SafeOutCfg) (s : State), (s.isl.present = true) ∧
      (tfind s.man.safety.outs n = some c) ∧ (50 ≤ us)) ∧
    (∃ (dt : Nat) (n : Nat) (us : Nat) (b : Bool) (s : State), (us < 50)) ∧
    (∃ (dt : Nat) (n : Nat) (b : Bool) (s : State), (s.isl.present = true) ∧
      (120 ≤ (if b then (s.islOut n).deferB else (s.islOut n).deferA))) ∧
    (∃ (dt : Nat) (n : Nat) (b : Bool) (s : State), ((if b then (s.islOut n).deferB else (s.islOut n).deferA) < 120)) ∧
    (∃ (dt : Nat) (n : Nat) (e : Nat) (t₀ : Nat) (c : SafeOutCfg) (s : State), (s.isl.present = true) ∧
      (tfind s.man.safety.outs n = some c) ∧ (c.edm = some e) ∧ ((s.islOut n).switchedAt = some t₀) ∧
      (t₀ + c.edmMs * 1000000 ≤ s.now + dt) ∧ (s.isl.edm.testBit e = (s.islOut n).on)) ∧
    (∃ (dt : Nat) (n : Nat) (e : Nat) (t₀ : Nat) (c : SafeOutCfg) (s : State), (tfind s.man.safety.outs n = some c) ∧
      (c.edm = some e) ∧ ((s.islOut n).switchedAt = some t₀) ∧
      ((s.now + dt < t₀ + c.edmMs * 1000000 ∨ s.isl.edm.testBit e ≠ (s.islOut n).on))) ∧
    (∃ (dt : Nat) (n : Nat) (t₀ : Nat) (c : AxisCfg) (s : State), (s.isl.present = true) ∧ ((s.islAx n).diffAt = some t₀) ∧
      (tfind s.man.safety.axes n = some c) ∧ (t₀ + c.diffMs * 1000000 ≤ s.now + dt)) ∧
    (∃ (dt : Nat) (n : Nat) (s : State), ((s.islAx n).diffAt = none)) ∧
    (∃ (dt : Nat) (n : Nat) (c : AxisCfg) (s : State), (s.isl.present = true) ∧ (tfind s.man.safety.axes n = some c)) ∧
    (∃ (dt : Nat) (n : Nat) (m : Nat) (b : Bool) (l : Bool) (z : List (Nat × Int)) (c : Instr) (s : State),
      (c ∈ islCmds dt n m b l z) ∧ (s.isl.present = false)) :=
  ⟨⟨5, (6, .islandWatchdogExpiry 5), (withIsl { outs := [(2, { on := true, chA := true, chB := true })] } (W [(R.SAFE_STAT_STATE, 2)])), by decide⟩,
   ⟨5, (withIsl { outs := [(2, { on := true, chA := true, chB := true })] } (W [(R.SAFE_STAT_STATE, 2)])), by decide⟩,
   ⟨5, 78, (withIsl { outs := [(2, { on := true, chA := true, chB := true })] } (W [(R.SAFE_STAT_STATE, 2)])), by decide⟩,
   ⟨50000000, 1, 0, { kind := 0 }, (withIsl { ins := [(1, { discAt := some 0 })] } (W [(R.SAFE_STAT_STATE, 2)])), by decide⟩,
   ⟨49999999, 1, 0, { kind := 0 }, (withIsl { ins := [(1, { discAt := some 0 })] } (W [(R.SAFE_STAT_STATE, 2)])), by decide⟩,
   ⟨5, 2, 50, true, { aOut with edm := some 3 }, (withIsl { outs := [(2, { on := true, chA := true, chB := true })] } (W [(R.SAFE_STAT_STATE, 2)])), by decide⟩,
   ⟨5, 2, 49, true, (withIsl {} (W [(R.SAFE_STAT_STATE, 2)])), by decide⟩,
   ⟨5, 2, true, (withIsl { outs := [(2, { on := true, deferB := 120 })] } (W [(R.SAFE_STAT_STATE, 2)])), by decide⟩,
   ⟨5, 2, true, (withIsl { outs := [(2, { on := true, deferB := 119 })] } (W [(R.SAFE_STAT_STATE, 2)])), by decide⟩,
   ⟨300000000, 2, 3, 0, { aOut with edm := some 3 }, (withIsl { edm := 8, outs := [(2, { on := true, switchedAt := some 0 })] } (W [(R.SAFE_STAT_STATE, 2)])), by decide⟩,
   ⟨300000000, 2, 3, 0, { aOut with edm := some 3 }, (withIsl { edm := 0, outs := [(2, { on := true, switchedAt := some 0 })] } (W [(R.SAFE_STAT_STATE, 2)])), by decide⟩,
   ⟨20000000, 0, 0, anAxis, (withIsl { axes := [(0, { diffAt := some 0 })] } (W [(R.SAFE_STAT_STATE, 2)])), by decide +kernel⟩,
   ⟨20000000, 0, (withIsl {} (W [(R.SAFE_STAT_STATE, 2)])), by decide⟩,
   ⟨5, 0, anAxis, (withIsl {} (W [(R.SAFE_STAT_STATE, 2)])), by decide +kernel⟩,
   ⟨5, 0, 3, true, true, [], .islandCycle 5 [] 3 3 3, State.reset, by decide⟩⟩

theorem wit_IslandCycles :
    (∃ (dt : Nat) (n : Nat) (e : Nat) (a : Nat) (b : Nat) (z : List (Nat × Int)) (c : SafeOutCfg) (s : State),
      (s.isl.present = true) ∧ ((s.man.safety.outs.map (·.1)).Nodup) ∧ (tfind s.man.safety.outs n = some c)) ∧
    (∃ (dt : Nat) (n : Nat) (b : Bool) (l : Bool) (c : SafeInCfg) (s : State), (s.isl.present = true) ∧
      (tfind s.man.safety.ins n = some c) ∧ (n < 16)) ∧
    (∃ (dt : Nat) (n : Nat) (b : Bool) (f : Bool) (c : SafeOutCfg) (s : State), (s.isl.present = true) ∧ (s.islState = 2) ∧
      (tfind s.man.safety.outs n = some c) ∧ ((s.islOut n).chA = true) ∧ ((s.islOut n).chB = true) ∧ (f = false) ∧
      ((s.advance dt).islPending n c = false)) ∧
    (∃ (dt : Nat) (n : Nat) (b : Bool) (f : Bool) (c : SafeOutCfg) (s : State), (s.isl.present = true) ∧ (s.islState = 2) ∧
      (tfind s.man.safety.outs n = some c) ∧ ((s.islOut n).chA = true) ∧ ((s.islOut n).chB = true) ∧
      ((f = true ∨ (s.advance dt).islPending n c = true))) ∧
    (∃ (dt : Nat) (n : Nat) (t₀ : Nat) (b : Bool) (s : State), ((s.islOut n).test = some (b, t₀)) ∧ (t₀ + 300000 ≤ s.now + dt)) ∧
    (∃ (dt : Nat) (n : Nat) (t₀ : Nat) (b : Bool) (x : Bool) (s : State), ((s.islOut n).test = some (b, t₀)) ∧
      ((b ≠ x ∨ s.now + dt < t₀ + 300000))) ∧
    (∃ (dt : Nat) (n : Nat) (us : Nat) (t₀ : Nat) (b : Bool) (s : State), ((s.islOut n).test = some (b, t₀)) ∧
      ((if b then (s.islOut n).dueB else (s.islOut n).dueA) = true) ∧ (us ≤ 200)) ∧
    (∃ (dt : Nat) (n : Nat) (us : Nat) (t₀ : Nat) (b : Bool) (s : State), (s.isl.present = true) ∧
      ((s.islOut n).test = some (b, t₀)) ∧ ((if b then (s.islOut n).dueB else (s.islOut n).dueA) = true) ∧ (200 < us)) ∧
    (∃ (dt : Nat) (n : Nat) (us : Nat) (b : Bool) (s : State), ((if b then (s.islOut n).dueB else (s.islOut n).dueA) = false)) :=
  ⟨⟨5, 2, 300, 4, 4, [(0, 3)], { aOut with edm := some 3 }, (withIsl { outs := [(2, { demand := true })] } (W [(R.SAFE_STAT_STATE, 2)])), by decide⟩,
   ⟨5, 1, true, false, { kind := 0 }, (withIsl { ins := [(1, { a := some true, b := some true })] } (W [(R.SAFE_STAT_STATE, 2)])), by decide⟩,
   ⟨5, 2, true, false, { aOut with edm := some 3 }, (withIsl { outs := [(2, { demand := true, on := true, chA := true, chB := true })] } (W [(R.SAFE_STAT_STATE, 2), (R.SAFE_OUT_WAIT, 0)])), by decide⟩,
   ⟨5, 2, true, true, { aOut with edm := some 3 }, (withIsl { outs := [(2, { demand := true, on := true, chA := true, chB := true })] } (W [(R.SAFE_STAT_STATE, 2)])), by decide⟩,
   ⟨300000, 2, 0, true, (withIsl { outs := [(2, { on := true, chA := true, test := some (true, 0) })] } State.reset), by decide⟩,
   ⟨299999, 2, 0, true, true, (withIsl { outs := [(2, { on := true, chA := true, test := some (true, 0) })] } State.reset), by decide⟩,
   ⟨5, 2, 200, 0, true, (withIsl { outs := [(2, { on := true, chA := true, dueB := true, test := some (true, 0) })] } (W [(R.SAFE_STAT_STATE, 2)])), by decide⟩,
   ⟨5, 2, 201, 0, true, (withIsl { outs := [(2, { on := true, chA := true, dueB := true, test := some (true, 0) })] } (W [(R.SAFE_STAT_STATE, 2)])), by decide⟩,
   ⟨5, 2, 201, true, (withIsl {} State.reset), by decide⟩⟩

theorem wit_IslandCommands :
    (∃ (dt : Nat) (ms : Nat) (s : State), (s.isl.present = true) ∧ (s.isl.stuck = false) ∧ (250 ≤ ms) ∧ (ms ≤ 3000) ∧
      (s.islState = 3) ∧ ((s.advance dt).causesLeft = 0)) ∧
    (∃ (dt : Nat) (ms : Nat) (s : State), (s.isl.present = true) ∧ (s.isl.stuck = false) ∧ (250 ≤ ms) ∧ (ms ≤ 3000) ∧
      (s.islState = 3) ∧ ((s.advance dt).causesLeft ≠ 0)) ∧
    (∃ (dt : Nat) (ms : Nat) (s : State), (s.isl.present = true) ∧ (s.isl.stuck = false) ∧ ((ms < 250 ∨ 3000 < ms))) ∧
    (∃ (dt : Nat) (ms : Nat) (s : State), (s.isl.present = true) ∧ (3000 < ms)) ∧
    (∃ (dt : Nat) (ms : Nat) (s : State), (ms ≤ 3000)) ∧
    (∃ (dt : Nat) (n : Nat) (m : Int) (c : AxisCfg) (s : State), (s.isl.present = true) ∧ (tfind s.man.safety.axes n = some c) ∧
      ((s.islAx n).referenced = false) ∧ (c.hasIndex = true) ∧ (c.kind2 < 2)) ∧
    (∃ (dt : Nat) (n : Nat) (m : Int) (c : AxisCfg) (s : State), (tfind s.man.safety.axes n = some c) ∧
      (((s.islAx n).referenced = true ∨ c.hasIndex = false))) ∧
    (∃ (dt : Nat) (p : Port) (s : State), (s.session p = some .installer) ∧ (s.isl.present = true) ∧ (s.mode ∈ [2, 5]) ∧
      (s.islState = 3) ∧ (s.man.safety.given = true) ∧ (s.get R.SAFE_CV_ENTER_CV = s.man.safety.crc)) ∧
    (∃ (dt : Nat) (p : Port) (s : State), (s.session p = some .installer) ∧ (s.isl.present = true) ∧ (s.mode ∈ [2, 5]) ∧
      (s.islState = 3) ∧ ((s.man.safety.given = false ∨ s.get R.SAFE_CV_ENTER_CV ≠ s.man.safety.crc))) ∧
    (∃ (dt : Nat) (p : Port) (s : State), (s.session p = some .installer) ∧ (s.isl.present = true) ∧
      ((s.mode ∉ [2, 5] ∨ s.islState ≠ 3))) ∧
    (∃ (dt : Nat) (m : Nat) (p : Port) (s : State), (s.session p = some .operator) ∧ (s.isl.present = true)) ∧
    (∃ (dt : Nat) (m : Nat) (p : Port) (s : State), (s.session p ≠ some .operator)) ∧
    (∃ (dt : Nat) (n : Nat) (c : SafeOutCfg) (s : State), (s.isl.present = true) ∧ (2 ≤ s.mode) ∧
      ((s.man.safety.outs.map (·.1)).Nodup) ∧ (tfind s.man.safety.outs n = some c)) ∧
    (∃ (dt : Nat) (s : State), (s.mode < 2)) :=
  ⟨⟨5, 250, (withIsl { causes := [(1, 255)] } (W [(R.SAFE_STAT_STATE, 3)])), by decide⟩,
   ⟨5, 3000, (withIsl { causes := [(5, 255)] } (W [(R.SAFE_STAT_STATE, 3)])), by decide⟩,
   ⟨5, 249, (withIsl { causes := [(1, 255)] } (W [(R.SAFE_STAT_STATE, 3)])), by decide⟩,
   ⟨5, 3001, (withIsl {} (W [(R.SAFE_STAT_STATE, 3)])), by decide⟩,
   ⟨5, 3000, (withIsl {} (W [(R.SAFE_STAT_STATE, 3)])), by decide⟩,
   ⟨5, 0, 37, anAxis, (withIsl { axes := [(0, { c1 := 1000, z1 := 2 })] } (W [(R.SAFE_STAT_STATE, 2)])), by decide +kernel⟩,
   ⟨5, 0, 37, anAxis, (withIsl { axes := [(0, { referenced := true })] } (W [(R.SAFE_STAT_STATE, 2)])), by decide +kernel⟩,
   ⟨5, .pcie, (withIsl {} (W [(R.SAFE_STAT_STATE, 3), (R.SAFE_CV_ENTER_CV, 77)] instSession)), by decide⟩,
   ⟨5, .pcie, (withIsl {} (W [(R.SAFE_STAT_STATE, 3), (R.SAFE_CV_ENTER_CV, 78)] instSession)), by decide⟩,
   ⟨5, .pcie, (withIsl {} (W [(R.SAFE_STAT_STATE, 2), (R.SAFE_CV_ENTER_CV, 77)] instSession)), by decide⟩,
   ⟨5, 0x1005, .pcie, (withIsl {} opSession), by decide⟩,
   ⟨5, 0x1005, .pcie, (withIsl {} State.reset), by decide⟩,
   ⟨5, 2, { aOut with edm := some 3 }, (withIsl {} (W [(R.MODE_STAT_MODE, 2), (R.SAFE_OFF_REQ_MASK, 4)])), by decide⟩,
   ⟨5, (withIsl {} (W [(R.MODE_STAT_MODE, 1)])), by decide⟩⟩

theorem wit_TwinRecords :
    (∃ (dt : Nat) (q : Seal) (s : State), (s.exchanges = true)) ∧
    (∃ (dt : Nat) (r : TwinRec) (s : State), (s.exchanges = true)) ∧
    (∃ (dt : Nat) (p : Nat) (a : Nat) (q : Seal) (r : TwinRec) (k : CmdRec) (w : Rat) (b : Bool) (c : Instr) (s : State),
      (c ∈ [Instr.sealReceive dt q, .inputRecordReceive dt r, .commandRecordReceive dt k, .timeRecordReceive dt p w b, .giveUpReceive dt p a])
      ∧ (s.isActive = true)) ∧
    (∃ (dt : Nat) (k : CmdRec) (s : State), (s.isActive = false) ∧ (k.block = 0x09)) ∧
    (∃ (dt : Nat) (k : CmdRec) (s : State), (s.isActive = false) ∧ (k.block = 0x0C) ∧ ((s.fn k.target).cmd = none)) ∧
    (∃ (dt : Nat) (k : CmdRec) (s : State), (s.isActive = false) ∧ (k.block = 0x02)) ∧
    (∃ (dt : Nat) (p : Nat) (w : Rat) (b : Bool) (s : State), (s.isActive = false) ∧ ((b = false ∨ s.stepped = true))) ∧
    (∃ (dt : Nat) (p : Nat) (w : Rat) (s : State), (s.isActive = false) ∧ (s.stepped = false)) ∧
    (∃ (dt : Nat) (c : Nat) (k : Nat) (s : State), (s.isActive = false)) :=
  ⟨⟨5, aSeal, { standby with twin := { records := [{ kind := 2, tick := 9, item := 0, value := 5, pm := ⟨0, 0⟩ }, { kind := 7, tick := 8, item := 0, value := 5, pm := ⟨0, 0⟩ }, { kind := 7, tick := 9, item := 0, value := 5, pm := ⟨0, 0⟩ }] } }, by decide⟩,
   ⟨5, { kind := 2, tick := 9, item := 0, value := 5, pm := ⟨0, 0⟩ }, standby, by decide⟩,
   ⟨5, 0, 0, aSeal, { kind := 2, tick := 9, item := 0, value := 5, pm := ⟨0, 0⟩ }, { block := 9, kind := 1, target := 3 }, 0, true, .sealReceive 5 aSeal, W [(R.MODE_STAT_ACTIVE, 1)], by decide⟩,
   ⟨5, { block := 9, kind := 1, target := 3, keyId := 8 }, standby, by decide⟩,
   ⟨5, { block := 0x0C, kind := 1, target := 3, keyId := 8 }, standby, by decide⟩,
   ⟨5, { block := 2, kind := 0, target := 3, tag := 5, keyId := 8 }, standby, by decide⟩,
   ⟨5, 100, 3, false, standby, by decide⟩,
   ⟨5, 100, 3, W [(R.TIME_STAT_STEPPED, 0)] standby, by decide⟩,
   ⟨5, 3, 77, standby, by decide⟩⟩

theorem wit_TwinSteps :
    (∃ (dt : Nat) (g : Nat) (l : Nat) (i : Nat) (v : Nat) (s : State), (s.isActive = true) ∧ (s.isPaired = false) ∧ (g = 4)) ∧
    (∃ (dt : Nat) (g : Nat) (l : Nat) (i : Nat) (v : Nat) (s : State), (s.isActive = true) ∧ (s.isPaired = true) ∧ (g = 5)) ∧
    (∃ (dt : Nat) (g : Nat) (l : Nat) (i : Nat) (v : Nat) (s : State), (s.isActive = false)) ∧
    (∃ (dt : Nat) (q : Nat) (g : Nat) (k : Nat) (o : Seal) (w : Seal) (s : State), (s.inStep = true) ∧
      (s.twin.seals.find? (fun x => x.tick = q) = some w) ∧ (g ≤ 9000)) ∧
    (∃ (dt : Nat) (q : Nat) (g : Nat) (k : Nat) (o : Seal) (w : Seal) (c : Instr) (s : State), (s.inStep = true) ∧ (9000 < g) ∧
      (((c = .replayDone dt q g o k ∧ s.twin.seals.find? (fun x => x.tick = q) = some w) ∨ c = .tickLagExceeded dt g))) ∧
    (∃ (dt : Nat) (q : Nat) (g : Nat) (k : Nat) (o : Seal) (c : Instr) (s : State),
      (c ∈ [Instr.replayDone dt q g o k, .tickLagExceeded dt g, .standbyLagLimit dt]) ∧ (s.inStep = false)) ∧
    (∃ (dt : Nat) (s : State), (s.inStep = true) ∧ (3 ≤ s.twin.lagRun)) ∧
    (∃ (dt : Nat) (s : State), (s.twin.lagRun < 3)) ∧
    (∃ (dt : Nat) (c : Nat) (i : Nat) (h : Nat) (d : Rat) (s : State), (s.man.plausT * 1000000 ≤ h) ∧ (s.plausBreach c d = true)) ∧
    (∃ (dt : Nat) (c : Nat) (i : Nat) (h : Nat) (d : Rat) (s : State), (s.man.plausT * 1000000 ≤ h) ∧ (s.plausBreach c d = false) ∧
      (s.get R.TWIN_PLAUS_STAT_ALARM (c * 64 + i) = 1)) ∧
    (∃ (dt : Nat) (c : Nat) (i : Nat) (h : Nat) (d : Rat) (s : State), (h < s.man.plausT * 1000000)) :=
  ⟨⟨5, 4, 6, 2, 1, { W [(R.MODE_STAT_ACTIVE, 1), (R.MODE_STAT_PAIRED, 0), (R.TWIN_STAT_STATE, 2)] with twin := { unpairedAlarm := true } }, by decide⟩,
   ⟨5, 5, 6, 2, 1, W [(R.MODE_STAT_ACTIVE, 1), (R.MODE_STAT_PAIRED, 1), (R.TWIN_STAT_STATE, 4)], by decide⟩,
   ⟨5, 4, 6, 2, 1, standby, by decide⟩,
   ⟨5, 9, 9000, 3, { aSeal with out := 6 }, aSeal, { standby with twin := { seals := [aSeal], mismatch := [1] } }, by decide⟩,
   ⟨5, 9, 9001, 3, aSeal, aSeal, .replayDone 5 9 9001 aSeal 3, { standby with twin := { seals := [aSeal] } }, by decide⟩,
   ⟨5, 9, 9001, 3, aSeal, .standbyLagLimit 5, State.reset, by decide⟩,
   ⟨5, { standby with twin := { lagRun := 3 } }, by decide⟩,
   ⟨5, { standby with twin := { lagRun := 2 } }, by decide⟩,
   ⟨5, 1, 3, 1000000000, 1000000, State.reset, by decide⟩,
   ⟨5, 1, 3, 1000000000, 0, WB [(R.TWIN_PLAUS_STAT_ALARM, 67, 1)], by decide⟩,
   ⟨5, 1, 3, 0, 1000000, State.reset, by decide⟩⟩

theorem wit_TwinLinks :
    (∃ (dt : Nat) (l : Nat) (a : Bool) (s : State), (s.get R.TWIN_STAT_LANES = 3)) ∧
    (∃ (dt : Nat) (l : Nat) (a : Bool) (s : State), (s.get R.TWIN_STAT_LANES = laneBit l) ∧ (s.inStep = true) ∧ (a = true)) ∧
    (∃ (dt : Nat) (l : Nat) (a : Bool) (s : State), (s.get R.TWIN_STAT_LANES = laneBit l) ∧ (s.isActive = true) ∧
      (s.isPaired = true)) ∧
    (∃ (dt : Nat) (l : Nat) (s : State), (s.get R.TWIN_STAT_LANES &&& laneBit l = 0)) ∧
    (∃ (dt : Nat) (l : Nat) (u : Bool) (s : State), ((u = false ∨ s.get R.TWIN_STAT_LANES &&& laneBit l ≠ 0))) ∧
    (∃ (dt : Nat) (a : Nat) (p : Nat) (l : List Nat) (s : State), (s.inStep = true) ∧ (s.get R.TWIN_STAT_PEER_OK_OUT = 1) ∧
      ((s.advance dt).takeoverDue a p = true)) ∧
    (∃ (dt : Nat) (a : Nat) (p : Nat) (l : List Nat) (s : State),
      ((s.inStep = false ∨ s.get R.TWIN_STAT_PEER_OK_OUT = 0 ∨ (s.advance dt).takeoverDue a p = false))) ∧
    (∃ (dt : Nat) (t₀ : Nat) (s : State), (s.twin.giveUpRxAt = some t₀) ∧ (s.inStep = true) ∧ (t₀ + 20000 ≤ s.now + dt)) ∧
    (∃ (dt : Nat) (s : State), ((s.twin.giveUpRxAt = none ∨ s.inStep = false))) ∧
    (∃ (dt : Nat) (a : Bool) (p : Bool) (s : State), (s.twin.giveUpRxAt = none) ∧ (a ≠ p) ∧ (s.isActive = false)) ∧
    (∃ (dt : Nat) (w : Nat) (s : State), (s.isActive = true) ∧ (s.isPaired = true) ∧ (1000000 ≤ w)) ∧
    (∃ (dt : Nat) (w : Nat) (s : State), (s.isActive = true) ∧ (s.isPaired = true) ∧ (w < 1000000)) ∧
    (∃ (dt : Nat) (w : Nat) (s : State), ((s.isActive = false ∨ s.isPaired = false))) :=
  ⟨⟨5, 1, true, W [(R.TWIN_STAT_LANES, 3)], by decide⟩,
   ⟨5, 1, true, W [(R.TWIN_STAT_LANES, 2)] standby, by decide⟩,
   ⟨5, 0, false, W [(R.TWIN_STAT_LANES, 1), (R.MODE_STAT_ACTIVE, 1), (R.MODE_STAT_PAIRED, 1)], by decide⟩,
   ⟨5, 1, W [(R.TWIN_STAT_LANES, 1)], by decide⟩,
   ⟨5, 1, false, W [(R.TWIN_STAT_LANES, 1)], by decide⟩,
   ⟨5, 1000, 0, [], { W [(R.TWIN_STAT_PEER_OK_OUT, 1)] standby with tick := 50, twin := { giveUpRxAt := some 0, giveUpCause := 3 } }, by decide⟩,
   ⟨5, 999, 0, [], { W [(R.TWIN_STAT_PEER_OK_OUT, 1), (R.TWIN_STAT_SIDEBAND_FAULT, 0)] standby with twin := { giveUpRxAt := some 0 } }, by decide⟩,
   ⟨20000, 0, { standby with twin := { giveUpRxAt := some 0 } }, by decide⟩,
   ⟨20000, standby, by decide⟩,
   ⟨5, true, false, standby, by decide⟩,
   ⟨5, 1000000, W [(R.MODE_STAT_ACTIVE, 1), (R.MODE_STAT_PAIRED, 1)], by decide⟩,
   ⟨5, 999999, W [(R.MODE_STAT_ACTIVE, 1), (R.MODE_STAT_PAIRED, 1)], by decide⟩,
   ⟨5, 999999, State.reset, by decide⟩⟩

theorem wit_CanTransmission :
    (∃ (dt : Nat) (ch : Nat) (mb : Nat) (b : Bool) (c : CanMbCfg) (s : State), (s.mbCfg ch mb = some c) ∧ (c.periodMs ≠ none) ∧
      ((s.advance dt).cyclicRuns c.drive c.node = true) ∧ (s.canMode ch ≠ 0) ∧ (b = false) ∧ (s.mbStatus ch mb ≠ 2)) ∧
    (∃ (dt : Nat) (ch : Nat) (mb : Nat) (b : Bool) (c : CanMbCfg) (s : State), (s.mbCfg ch mb = some c) ∧ (c.periodMs ≠ none) ∧
      ((s.advance dt).cyclicRuns c.drive c.node = true) ∧ (s.canMode ch ≠ 0) ∧ ((b = true ∨ s.mbStatus ch mb = 2))) ∧
    (∃ (dt : Nat) (ch : Nat) (mb : Nat) (b : Bool) (s : State), (s.mbCfg ch mb = none)) ∧
    (∃ (dt : Nat) (ch : Nat) (mb : Nat) (z : Option Nat) (c : CanCfg) (m : CanMbCfg) (s : State), (s.canCfg ch = some c) ∧
      (s.mbCfg ch mb = some m) ∧ (s.canMode ch = 2) ∧ (s.mbStatus ch mb ∈ [1, 2]) ∧ ((s.mbSt ch mb).cancel = false) ∧
      ((s.mbSt ch mb).next = none) ∧ (mbFrames m (s.mbSt ch mb).data ≤ (s.mbSt ch mb).part + 1) ∧ ((s.canSt ch).tec ≤ 256) ∧
      (s.get R.CAN_N2K_CANNOT_CLAIM ch = 0)) ∧
    (∃ (dt : Nat) (ch : Nat) (mb : Nat) (l : Nat) (m : Nat) (d : Bool) (e : Bool) (c : CanCfg) (k : CanMbCfg) (s : State),
      (s.canCfg ch = some c) ∧ (s.mbCfg ch mb = some k) ∧ (s.canMode ch = 2) ∧ (s.mbStatus ch mb ∈ [1, 2]) ∧
      ((s.mbSt ch mb).cancel = false) ∧ ((s.mbSt ch mb).next = none) ∧ (k.oneshot = false) ∧
      (s.get R.CAN_N2K_CANNOT_CLAIM ch = 0) ∧ ((s.canSt ch).tec + s.tecStep ch l e m ≤ 255)) ∧
    (∃ (dt : Nat) (ch : Nat) (mb : Nat) (l : Nat) (m : Nat) (d : Bool) (e : Bool) (c : CanCfg) (k : CanMbCfg) (s : State),
      (s.canCfg ch = some c) ∧ (s.mbCfg ch mb = some k) ∧ (s.canMode ch = 2) ∧ (s.mbStatus ch mb ∈ [1, 2]) ∧
      (s.get R.CAN_N2K_CANNOT_CLAIM ch = 0) ∧ (255 < (s.canSt ch).tec + s.tecStep ch l e m)) ∧
    (∃ (dt : Nat) (ch : Nat) (mb : Nat) (c : CanCfg) (k : CanMbCfg) (s : State), (s.canCfg ch = some c) ∧ (s.mbCfg ch mb = some k) ∧
      (s.canMode ch = 2) ∧ (s.mbStatus ch mb ∈ [1, 2]) ∧ ((s.mbSt ch mb).cancel = false) ∧ ((s.mbSt ch mb).next = none) ∧
      (s.get R.CAN_N2K_CANNOT_CLAIM ch = 0)) ∧
    (∃ (dt : Nat) (ch : Nat) (mb : Nat) (r : TxEnd) (s : State), (s.canMode ch ≠ 2)) ∧
    (∃ (dt : Nat) (ch : Nat) (mb : Nat) (s : State), (s.mbStatus ch mb ∈ [1, 7])) ∧
    (∃ (dt : Nat) (ch : Nat) (mb : Nat) (b : Bool) (s : State), (s.mbStatus ch mb ∈ [1, 2, 7]) ∧
      ((b = true ∨ s.mbStatus ch mb = 2))) ∧
    (∃ (dt : Nat) (ch : Nat) (mb : Nat) (b : Bool) (s : State), (s.mbStatus ch mb ∉ [1, 2, 7])) ∧
    (∃ (dt : Nat) (ch : Nat) (l : Nat) (n : Nat) (d : Bool) (c : CanCfg) (s : State), (s.canCfg ch = some c) ∧ (s.canMode ch = 2) ∧
      ((s.canSt ch).tec ≤ 255)) ∧
    (∃ (dt : Nat) (ch : Nat) (l : Nat) (n : Nat) (d : Bool) (c : CanCfg) (s : State), (s.canCfg ch = some c) ∧ (s.canMode ch = 3)) ∧
    (∃ (dt : Nat) (ch : Nat) (l : Nat) (n : Nat) (d : Bool) (c : CanCfg) (s : State), (s.canCfg ch = some c) ∧
      (s.canMode ch ∈ [2, 3])) ∧
    (∃ (dt : Nat) (ch : Nat) (l : Nat) (n : Nat) (d : Bool) (x : Bool) (s : State), (s.canMode ch ∉ [2, 3])) ∧
    (∃ (dt : Nat) (ch : Nat) (p : Port) (s : State), (s.session p = some .operator) ∧ (s.canMode (ch % 8) = 4)) ∧
    (∃ (dt : Nat) (ch : Nat) (p : Port) (s : State), (s.session p ≠ some .operator)) ∧
    (∃ (dt : Nat) (ch : Nat) (c : CanCfg) (s : State), (s.canCfg ch = some c) ∧ (s.canMode ch = 5)) ∧
    (∃ (dt : Nat) (ch : Nat) (s : State), (s.canMode ch ≠ 5)) ∧
    (∃ (dt : Nat) (ch : Nat) (s : State), (s.canMode ch = 1)) ∧
    (∃ (dt : Nat) (ch : Nat) (s : State), (s.canMode ch ≠ 1)) :=
  ⟨⟨5, 1, 4, false, { id := 0x55, len := 2, periodMs := some 10 }, (withCan aCan {} canOn), by decide⟩,
   ⟨5, 1, 4, true, { id := 0x55, len := 2, periodMs := some 10 }, (withCan aCan {} canOn), by decide⟩,
   ⟨5, 1, 6, true, (withCan aCan {} canOn), by decide⟩,
   ⟨5, 1, 4, some 9, aCan, { id := 0x55, len := 2, periodMs := some 10 }, (withCan aCan { tec := 8 } (WB [(R.CAN_MB_STAT_STATUS, 36, 1)] canOn)), by decide⟩,
   ⟨5, 1, 4, 3, 0, true, false, aCan, { id := 0x55, len := 2, periodMs := some 10 }, (withCan aCan { tec := 120, ackRun := 15 } (WB [(R.CAN_MB_STAT_STATUS, 36, 1)] canOn)), by decide⟩,
   ⟨5, 1, 5, 4, 0, true, false, aCan, { id := 0x56, len := 2, oneshot := true }, (withCan aCan { tec := 248 } (WB [(R.CAN_MB_STAT_STATUS, 37, 1)] canOn)), by decide⟩,
   ⟨5, 1, 5, aCan, { id := 0x56, len := 2, oneshot := true }, (withCan aCan {} (WB [(R.CAN_MB_STAT_STATUS, 37, 1)] canOn)), by decide⟩,
   ⟨5, 1, 5, .lost, State.reset, by decide⟩,
   ⟨5, 1, 5, WB [(R.CAN_MB_STAT_STATUS, 37, 7)], by decide⟩,
   ⟨5, 1, 5, true, WB [(R.CAN_MB_STAT_STATUS, 37, 1)], by decide⟩,
   ⟨5, 1, 5, true, WB [(R.CAN_MB_STAT_STATUS, 37, 3)], by decide⟩,
   ⟨5, 1, 6, 8, true, aCan, (withCan aCan { rec_ := 125 } canOn), by decide⟩,
   ⟨5, 1, 6, 8, true, aCan, (withCan aCan {} (WB [(R.CAN_STAT_MODE, 1, 3)])), by decide⟩,
   ⟨5, 1, 6, 8, true, aCan, (withCan aCan {} canOn), by decide⟩,
   ⟨5, 1, 6, 8, true, true, State.reset, by decide⟩,
   ⟨5, 9, .pcie, WB [(R.CAN_STAT_MODE, 1, 4)] opSession, by decide⟩,
   ⟨5, 9, .pcie, WB [(R.CAN_STAT_MODE, 1, 4)], by decide⟩,
   ⟨5, 1, aCan, (withCan aCan { tec := 256, rec_ := 9 } (WB [(R.CAN_STAT_MODE, 1, 5), (R.MODE_STAT_ACTIVE, 0, 1)])), by decide⟩,
   ⟨5, 1, State.reset, by decide⟩,
   ⟨5, 1, WB [(R.CAN_STAT_MODE, 1, 1), (R.MODE_STAT_ACTIVE, 0, 1)], by decide⟩,
   ⟨5, 1, State.reset, by decide⟩⟩

theorem wit_CanReception :
    (∃ (dt : Nat) (ch : Nat) (n : Nat) (f : CanFrame) (c : CanCfg) (x : CanFilter) (s : State), (s.canCfg ch = some c) ∧
      (s.canMode ch ∈ [2, 3]) ∧ (f.remote = false) ∧ (f.ide = false) ∧ (s.pwr.l3 = 0) ∧
      (firstMatch c.slots f f.id = some (n, x)) ∧ (s.get R.CAN_ES_STAT_LOCKED (esBank ch n) = 0)) ∧
    (∃ (dt : Nat) (ch : Nat) (n : Nat) (f : CanFrame) (c : CanCfg) (x : CanFilter) (s : State), (s.canCfg ch = some c) ∧
      (s.canMode ch ∈ [2, 3]) ∧ (f.remote = false) ∧ (f.ide = false) ∧ (s.pwr.l3 = 0) ∧
      (firstMatch c.slots f f.id = some (n, x)) ∧ (s.get R.CAN_ES_STAT_LOCKED (esBank ch n) = 1)) ∧
    (∃ (dt : Nat) (ch : Nat) (n : Nat) (f : CanFrame) (c : CanCfg) (x : CanFilter) (s : State), (s.canCfg ch = some c) ∧
      (s.canMode ch ∈ [2, 3]) ∧ (f.remote = false) ∧ (f.ide = false) ∧ (s.pwr.l3 = 0) ∧ (firstMatch c.slots f f.id = none) ∧
      (firstMatch c.filters f f.id = some (n, x)) ∧ (x.msg = 0) ∧ (x.dest = 0)) ∧
    (∃ (dt : Nat) (ch : Nat) (f : CanFrame) (c : CanCfg) (s : State), (s.canCfg ch = some c) ∧ (s.canMode ch ∈ [2, 3]) ∧
      (f.remote = false) ∧ (f.ide = false) ∧ (s.pwr.l3 = 0) ∧ (firstMatch c.slots f f.id = none) ∧
      (firstMatch c.filters f f.id = none)) ∧
    (∃ (dt : Nat) (ch : Nat) (f : CanFrame) (c : CanCfg) (s : State), (s.canCfg ch = some c) ∧ (s.canMode ch ∈ [2, 3]) ∧
      (f.remote = true)) ∧
    (∃ (dt : Nat) (ch : Nat) (f : CanFrame) (s : State), (s.canMode ch ∉ [2, 3])) ∧
    (∃ (dt : Nat) (ch : Nat) (n : Nat) (p : Port) (s : State), (ch < 8) ∧ (n < 8)) ∧
    (∃ (dt : Nat) (ch : Nat) (n : Nat) (p : Port) (f : CanFrame) (q : Nat) (s : State), (ch < 8) ∧ (n < 8) ∧
      (s.get R.CAN_ES_STAT_LOCKED (esBank ch n) = 1) ∧ ((s.esSt ch n).shadow = some (f, q))) ∧
    (∃ (dt : Nat) (ch : Nat) (n : Nat) (p : Port) (s : State), (ch < 8) ∧ (n < 8) ∧ (s.get R.CAN_ES_STAT_LOCKED (esBank ch n) = 1) ∧
      ((s.esSt ch n).shadow = none)) ∧
    (∃ (dt : Nat) (ch : Nat) (n : Nat) (t₀ : Nat) (c : CanCfg) (s : State), (s.canCfg ch = some c) ∧
      ((s.esSt ch n).lockAt = some t₀) ∧ (t₀ + c.lockUs * 1000 ≤ s.now + dt)) ∧
    (∃ (dt : Nat) (ch : Nat) (n : Nat) (s : State), ((s.esSt ch n).lockAt = none)) ∧
    (∃ (dt : Nat) (ch : Nat) (b : Rat) (c : CanCfg) (s : State), (s.canCfg ch = some c) ∧ (s.tick % 100 = 0) ∧
      (s.get R.CAN_STAT_SQUALL ch = 0) ∧ ((c.sqHold : Rat) / 100 ≤ ((b :: (s.canSt ch).loads).take 10).sum / 10)) ∧
    (∃ (dt : Nat) (ch : Nat) (b : Rat) (c : CanCfg) (s : State), (s.canCfg ch = some c) ∧ (s.tick % 100 = 0) ∧
      (s.get R.CAN_STAT_SQUALL ch = 1) ∧ (((b :: (s.canSt ch).loads).take 10).sum / 10 ≤ (c.sqRelease : Rat) / 100)) ∧
    (∃ (dt : Nat) (ch : Nat) (t₀ : Nat) (s : State), ((s.canSt ch).holdAt = some t₀) ∧ ((s.canSt ch).squallAlarm = false) ∧
      (t₀ + 1000000000 ≤ s.now + dt)) ∧
    (∃ (dt : Nat) (ch : Nat) (s : State), (((s.canSt ch).holdAt = none ∨ (s.canSt ch).squallAlarm = true))) :=
  ⟨⟨5, 1, 2, aFrame, aCan, { id := 0x100, mask := 0x7FF, dest := 0 }, (withCan aCan {} canOn), by decide⟩,
   ⟨5, 1, 2, aFrame, aCan, { id := 0x100, mask := 0x7FF, dest := 0 }, (withCan aCan { slots := [(2, { shadow := some (aFrame, 4) })] } (WB [(R.CAN_ES_STAT_LOCKED, 10, 1)] canOn)), by decide⟩,
   ⟨5, 1, 3, { aFrame with id := 0x2AA }, aCan, { id := 0x200, mask := 0x700, dest := 0 }, (withCan aCan {} canOn), by decide⟩,
   ⟨5, 1, { aFrame with id := 0x3AA }, aCan, (withCan aCan {} canOn), by decide⟩,
   ⟨5, 1, { aFrame with remote := true }, aCan, (withCan aCan {} canOn), by decide⟩,
   ⟨5, 1, aFrame, State.reset, by decide⟩,
   ⟨5, 1, 2, .pcie, WB [(R.CAN_ES_STAT_LOCKED, 10, 0)], by decide⟩,
   ⟨5, 1, 2, .spi, aFrame, 7, (withCan aCan { slots := [(2, { shadow := some (aFrame, 7), lockAt := some 0 })] } (WB [(R.CAN_ES_STAT_LOCKED, 10, 1)] canOn)), by decide⟩,
   ⟨5, 1, 2, .spi, WB [(R.CAN_ES_STAT_LOCKED, 10, 1)], by decide⟩,
   ⟨1000000, 1, 2, 0, aCan, (withCan aCan { slots := [(2, { shadow := some (aFrame, 7), lockAt := some 0 })] } (WB [(R.CAN_ES_STAT_LOCKED, 10, 1)] canOn)), by decide⟩,
   ⟨1000000, 1, 2, State.reset, by decide⟩,
   ⟨5, 1, 1, aCan, (withCan aCan { loads := [1, 1, 1, 1, 1, 1, 1, 1, 1] } (WB [(R.CAN_MB_STAT_STATUS, 36, 1)] canOn)), by decide +kernel⟩,
   ⟨5, 1, 0, aCan, (withCan aCan { holdAt := some 0, squallAlarm := true } (WB [(R.CAN_STAT_SQUALL, 1, 1), (R.CAN_MB_STAT_STATUS, 36, 7)])), by decide +kernel⟩,
   ⟨1000000000, 1, 0, (withCan aCan { holdAt := some 0 } State.reset), by decide⟩,
   ⟨1000000000, 1, State.reset, by decide⟩⟩

theorem wit_Nmea2000Addresses :
    (∃ (dt : Nat) (ch : Nat) (c : CanCfg) (n : N2kCfg) (s : State), (s.canCfg ch = some c) ∧ (c.n2k = some n) ∧ (s.canMode ch ≠ 0)) ∧
    (∃ (dt : Nat) (ch : Nat) (a : Nat) (m : Nat) (c : CanCfg) (n : N2kCfg) (s : State), (s.canCfg ch = some c) ∧ (c.n2k = some n) ∧
      (s.canMode ch ≠ 0)) ∧
    (∃ (dt : Nat) (ch : Nat) (a : Nat) (m : Nat) (c : CanCfg) (n : N2kCfg) (s : State), (s.canCfg ch = some c) ∧ (c.n2k = some n) ∧
      (s.canMode ch ≠ 0) ∧ ((a ≠ s.get R.CAN_N2K_ADDR ch ∨ n.name ≤ m ∨ s.get R.CAN_N2K_CLAIMED ch ≠ 1))) ∧
    (∃ (dt : Nat) (ch : Nat) (a : Nat) (m : Nat) (c : CanCfg) (n : N2kCfg) (s : State), (s.canCfg ch = some c) ∧ (c.n2k = some n) ∧
      (s.canMode ch ≠ 0) ∧ (a = s.get R.CAN_N2K_ADDR ch) ∧ (m < n.name) ∧ (s.get R.CAN_N2K_CLAIMED ch = 1) ∧ (n.hi < 256) ∧
      (a ≠ 254)) ∧
    (∃ (dt : Nat) (ch : Nat) (s : State), (s.canCfg ch = none)) ∧
    (∃ (dt : Nat) (ch : Nat) (a : Nat) (m : Nat) (b : Bool) (s : State), (s.canMode ch = 0)) :=
  ⟨⟨5, 1, { aCan with n2k := some { name := 50, addr := 20, lo := 20, hi := 22, mb := 4, nodes := [] } }, { name := 50, addr := 20, lo := 20, hi := 22, mb := 4, nodes := [] }, (withCan { aCan with n2k := some { name := 50, addr := 20, lo := 20, hi := 22, mb := 4, nodes := [] } } {} canOn), by decide⟩,
   ⟨5, 1, 20, 40, { aCan with n2k := some { name := 50, addr := 20, lo := 20, hi := 22, mb := 4, nodes := [] } }, { name := 50, addr := 20, lo := 20, hi := 22, mb := 4, nodes := [] }, (withCan { aCan with n2k := some { name := 50, addr := 20, lo := 20, hi := 22, mb := 4, nodes := [] } } {} canOn), by decide⟩,
   ⟨5, 1, 20, 60, { aCan with n2k := some { name := 50, addr := 20, lo := 20, hi := 22, mb := 4, nodes := [] } }, { name := 50, addr := 20, lo := 20, hi := 22, mb := 4, nodes := [] }, (withCan { aCan with n2k := some { name := 50, addr := 20, lo := 20, hi := 22, mb := 4, nodes := [] } } {} (WB [(R.CAN_N2K_ADDR, 1, 20), (R.CAN_N2K_CLAIMED, 1, 1)] canOn)), by decide⟩,
   ⟨5, 1, 20, 40, { aCan with n2k := some { name := 50, addr := 20, lo := 20, hi := 22, mb := 4, nodes := [] } }, { name := 50, addr := 20, lo := 20, hi := 22, mb := 4, nodes := [] }, (withCan { aCan with n2k := some { name := 50, addr := 20, lo := 20, hi := 22, mb := 4, nodes := [] } } {} (WB [(R.CAN_N2K_ADDR, 1, 20), (R.CAN_N2K_CLAIMED, 1, 1)] canOn)), by decide⟩,
   ⟨5, 1, State.reset, by decide⟩,
   ⟨5, 1, 20, 40, true, (withCan aCan {} (WB [(R.CAN_STAT_MODE, 1, 0)])), by decide⟩⟩

theorem wit_EthernetReception :
    (∃ (dt : Nat) (p : Nat) (f : EthFrame) (s : State),
      ((s.ethCfg p = none ∨ (s.ethSt p).up = false ∨ s.get R.ETH_STAT_LINK p ≠ 1))) ∧
    (∃ (dt : Nat) (p : Nat) (c : EthCfg) (f : EthFrame) (s : State), (s.ethCfg p = some c) ∧ ((s.ethSt p).up = true) ∧
      (s.get R.ETH_STAT_LINK p = 1) ∧ ((f.fcsOk = false ∨ f.len < 64 ∨ 1522 < f.len))) ∧
    (∃ (dt : Nat) (p : Nat) (c : EthCfg) (f : EthFrame) (s : State), (s.ethCfg p = some c) ∧ ((s.ethSt p).up = true) ∧
      (s.get R.ETH_STAT_LINK p = 1) ∧ (f.fcsOk = true) ∧ (64 ≤ f.len) ∧ (f.len ≤ 1522) ∧ (f.dst ∈ [.broadcast, .multicast]) ∧
      (c.bcLimit ≠ 0) ∧ ((s.ethSt p).bcSec = (s.now + dt) / 1000000000) ∧ (c.bcLimit ≤ (s.ethSt p).bcCount)) ∧
    (∃ (dt : Nat) (p : Nat) (c : EthCfg) (f : EthFrame) (s : State), (s.ethCfg p = some c) ∧ ((s.ethSt p).up = true) ∧
      (s.get R.ETH_STAT_LINK p = 1) ∧ (f.fcsOk = true) ∧ (64 ≤ f.len) ∧ (f.len ≤ 1522) ∧
      (f.dst ∈ [.broadcast, .multicast, .unicast]) ∧ (f.prp = none) ∧
      ((f.dst = .unicast ∨ c.bcLimit = 0 ∨ (s.ethSt p).bcSec ≠ (s.now + dt) / 1000000000 ∨ (s.ethSt p).bcCount < c.bcLimit)) ∧
      ((f.dst = .unicast ∨ c.bcLimit ≠ 0))) ∧
    (∃ (dt : Nat) (p : Nat) (n : Nat) (q : Nat) (at_ : Nat) (a : EthCfg) (b : EthCfg) (f : EthFrame) (s : State),
      (s.ethCfg p = some a) ∧ (s.ethCfg (s.ethLead p) = some b) ∧ (b.prp = true) ∧ ((s.ethSt p).up = true) ∧
      (s.get R.ETH_STAT_LINK p = 1) ∧ (f.fcsOk = true) ∧ (64 ≤ f.len) ∧ (f.len ≤ 1522) ∧ (f.dst = .inst) ∧
      (f.prp = some (q, true, true)) ∧ (n = s.ethLead p) ∧ ((f.src, q, at_) ∈ (s.ethSt n).seen) ∧
      (s.now + dt ≤ at_ + 400000000)) ∧
    (∃ (dt : Nat) (p : Nat) (n : Nat) (q : Nat) (a : EthCfg) (b : EthCfg) (f : EthFrame) (s : State), (s.ethCfg p = some a) ∧
      (s.ethCfg (s.ethLead p) = some b) ∧ (b.prp = true) ∧ ((s.ethSt p).up = true) ∧ (s.get R.ETH_STAT_LINK p = 1) ∧
      (f.fcsOk = true) ∧ (64 ≤ f.len) ∧ (f.len ≤ 1522) ∧ (f.dst = .inst) ∧ (f.type = .device) ∧ (f.prp = some (q, true, true)) ∧
      (n = s.ethLead p) ∧ ((∀ x ∈ (s.ethSt n).seen, ¬ (x.1 = f.src ∧ x.2.1 = q))) ∧ (f.lenOk = false)) ∧
    (∃ (dt : Nat) (p : Nat) (c : EthCfg) (f : EthFrame) (s : State), (s.ethCfg p = some c) ∧ (s.ethLead p = p) ∧
      ((s.ethSt p).up = true) ∧ (s.get R.ETH_STAT_LINK p = 1) ∧ (f.fcsOk = true) ∧ (64 ≤ f.len) ∧ (f.len ≤ 1522) ∧
      (f.dst ∈ [.own, .inst, .roll, .ptp]) ∧ (c.prp = false) ∧ (f.type ≠ .device)) ∧
    (∃ (dt : Nat) (p : Nat) (c : EthCfg) (f : EthFrame) (s : State), (s.ethCfg p = some c) ∧ (s.ethLead p = p) ∧
      ((s.ethSt p).up = true) ∧ (s.get R.ETH_STAT_LINK p = 1) ∧ (f.fcsOk = true) ∧ (64 ≤ f.len) ∧ (f.len ≤ 1522) ∧
      (f.dst ∈ [.own, .inst, .roll, .ptp]) ∧ (c.prp = false) ∧ (f.type = .device) ∧
      ((f.version ≠ 1 ∨ f.lenOk = false ∨ f.checkOk = false))) ∧
    (∃ (dt : Nat) (p : Nat) (c : EthCfg) (f : EthFrame) (s : State), (s.ethCfg p = some c) ∧ (s.ethLead p = p) ∧
      ((s.ethSt p).up = true) ∧ (s.get R.ETH_STAT_LINK p = 1) ∧ (f.fcsOk = true) ∧ (64 ≤ f.len) ∧ (f.len ≤ 1522) ∧
      (f.dst ∈ [.own, .inst, .roll, .ptp]) ∧ (c.prp = false) ∧ (f.type = .device) ∧ (f.version = 1) ∧ (f.lenOk = true) ∧
      (f.checkOk = true) ∧ (c.filters.find? (fun x => ethMatch x.2 f) = none)) ∧
    (∃ (dt : Nat) (p : Nat) (n : Nat) (c : EthCfg) (x : EthFilter) (f : EthFrame) (s : State), (s.ethCfg p = some c) ∧
      (s.ethLead p = p) ∧ ((s.ethSt p).up = true) ∧ (s.get R.ETH_STAT_LINK p = 1) ∧ (f.fcsOk = true) ∧ (64 ≤ f.len) ∧
      (f.len ≤ 1522) ∧ (f.dst ∈ [.own, .inst, .roll, .ptp]) ∧ (c.prp = false) ∧ (f.type = .device) ∧ (f.version = 1) ∧
      (f.lenOk = true) ∧ (f.checkOk = true) ∧ (c.filters.find? (fun y => ethMatch y.2 f) = some (n, x)) ∧ (s.pwr.l3 ≠ 0) ∧
      (x.wake = false)) ∧
    (∃ (dt : Nat) (p : Nat) (n : Nat) (c : EthCfg) (x : EthFilter) (f : EthFrame) (s : State), (s.ethCfg p = some c) ∧
      (s.ethLead p = p) ∧ ((s.ethSt p).up = true) ∧ (s.get R.ETH_STAT_LINK p = 1) ∧ (f.fcsOk = true) ∧ (64 ≤ f.len) ∧
      (f.len ≤ 1522) ∧ (f.dst ∈ [.own, .inst, .roll, .ptp]) ∧ (c.prp = false) ∧ (f.type = .device) ∧ (f.version = 1) ∧
      (f.lenOk = true) ∧ (f.checkOk = true) ∧ (c.filters.find? (fun y => ethMatch y.2 f) = some (n, x)) ∧ (s.pwr.l3 = 0) ∧
      (s.follows = true) ∧ (x.dest ≠ 1)) ∧
    (∃ (dt : Nat) (p : Nat) (n : Nat) (c : EthCfg) (x : EthFilter) (f : EthFrame) (s : State), (s.ethCfg p = some c) ∧
      (s.ethLead p = p) ∧ ((s.ethSt p).up = true) ∧ (s.get R.ETH_STAT_LINK p = 1) ∧ (f.fcsOk = true) ∧ (64 ≤ f.len) ∧
      (f.len ≤ 1522) ∧ (f.dst ∈ [.own, .inst, .roll, .ptp]) ∧ (c.prp = false) ∧ (f.type = .device) ∧ (f.version = 1) ∧
      (f.lenOk = true) ∧ (f.checkOk = true) ∧ (c.filters.find? (fun y => ethMatch y.2 f) = some (n, x)) ∧ (s.pwr.l3 = 0) ∧
      (x.dest = 1) ∧ (f.body.length < layoutLen (tget c.layouts (if f.kind = 1 then f.body.getD 0 0 else x.layout) []))) ∧
    (∃ (dt : Nat) (p : Nat) (n : Nat) (c : EthCfg) (x : EthFilter) (f : EthFrame) (s : State), (s.ethCfg p = some c) ∧
      (s.ethLead p = p) ∧ ((s.ethSt p).up = true) ∧ (s.get R.ETH_STAT_LINK p = 1) ∧ (f.fcsOk = true) ∧ (64 ≤ f.len) ∧
      (f.len ≤ 1522) ∧ (f.dst ∈ [.own, .inst, .roll, .ptp]) ∧ (c.prp = false) ∧ (f.type = .device) ∧ (f.version = 1) ∧
      (f.lenOk = true) ∧ (f.checkOk = true) ∧ (c.filters.find? (fun y => ethMatch y.2 f) = some (n, x)) ∧ (s.pwr.l3 = 0) ∧
      (x.dest = 1) ∧ (s.follows = false) ∧
      (layoutLen (tget c.layouts (if f.kind = 1 then f.body.getD 0 0 else x.layout) []) ≤ f.body.length)) ∧
    (∃ (dt : Nat) (p : Nat) (n : Nat) (c : EthCfg) (x : EthFilter) (f : EthFrame) (s : State), (s.ethCfg p = some c) ∧
      (s.ethLead p = p) ∧ ((s.ethSt p).up = true) ∧ (s.get R.ETH_STAT_LINK p = 1) ∧ (f.fcsOk = true) ∧ (64 ≤ f.len) ∧
      (f.len ≤ 1522) ∧ (f.dst ∈ [.own, .inst, .roll, .ptp]) ∧ (c.prp = false) ∧ (f.type = .device) ∧ (f.version = 1) ∧
      (f.lenOk = true) ∧ (f.checkOk = true) ∧ (c.filters.find? (fun y => ethMatch y.2 f) = some (n, x)) ∧ (s.pwr.l3 = 0) ∧
      (x.dest = 2) ∧ (s.follows = false)) ∧
    (∃ (dt : Nat) (p : Nat) (n : Nat) (i : Nat) (c : EthCfg) (x : EthFilter) (f : EthFrame) (s : State), (s.ethCfg p = some c) ∧
      (s.ethLead p = p) ∧ ((s.ethSt p).up = true) ∧ (s.get R.ETH_STAT_LINK p = 1) ∧ (f.fcsOk = true) ∧ (64 ≤ f.len) ∧
      (f.len ≤ 1522) ∧ (f.dst ∈ [.own, .inst, .roll, .ptp]) ∧ (c.prp = false) ∧ (f.type = .device) ∧ (f.version = 1) ∧
      (f.lenOk = true) ∧ (f.checkOk = true) ∧ (c.filters.find? (fun y => ethMatch y.2 f) = some (n, x)) ∧ (s.pwr.l3 = 0) ∧
      (x.dest = 3) ∧ (s.follows = false) ∧ (f.kind = 3) ∧ (f.body.length = 12) ∧
      (firstBad (fun (d : NodeCfg) => !(d.addr = ofLe ((f.body.drop 10).take 2) && d.addr / 4096 = p + 1 && d.mac = f.src)) s.man.nodes 0 = some i)) ∧
    (∃ (dt : Nat) (p : Nat) (n : Nat) (c : EthCfg) (x : EthFilter) (f : EthFrame) (s : State), (s.ethCfg p = some c) ∧
      (s.ethLead p = p) ∧ ((s.ethSt p).up = true) ∧ (s.get R.ETH_STAT_LINK p = 1) ∧ (f.fcsOk = true) ∧ (64 ≤ f.len) ∧
      (f.len ≤ 1522) ∧ (f.dst ∈ [.own, .inst, .roll, .ptp]) ∧ (c.prp = false) ∧ (f.type = .device) ∧ (f.version = 1) ∧
      (f.lenOk = true) ∧ (f.checkOk = true) ∧ (c.filters.find? (fun y => ethMatch y.2 f) = some (n, x)) ∧ (s.pwr.l3 = 0) ∧
      (x.dest = 3) ∧ (f.kind = 3) ∧ ((∀ d ∈ s.man.nodes, d.mac ≠ f.src))) :=
  ⟨⟨5, 1, { src := 7, pm := ⟨0, 9⟩ }, (withEth {} {} (WB [(R.ETH_STAT_LINK, 1, 0)])), by decide⟩,
   ⟨5, 1, {}, { src := 7, pm := ⟨0, 9⟩, fcsOk := false, len := 20 }, (withEth {} {} ethOn), by decide⟩,
   ⟨5, 1, { bcLimit := 3 }, { src := 7, pm := ⟨0, 9⟩, dst := .broadcast }, (withEth { bcLimit := 3 } { bcCount := 3 } ethOn), by decide⟩,
   ⟨5, 1, { bcLimit := 3 }, { src := 7, pm := ⟨0, 9⟩, dst := .broadcast }, (withEth { bcLimit := 3 } { bcCount := 2 } ethOn), by decide⟩,
   ⟨5, 1, 0, 44, 0, {}, { prp := true }, { src := 7, pm := ⟨0, 9⟩, prp := some (44, true, true) }, (withPair {} { seen := [(7, 44, 0)] } ethOn), by decide⟩,
   ⟨5, 1, 0, 45, {}, { prp := true }, { src := 7, pm := ⟨0, 9⟩, prp := some (45, true, true), lenOk := false }, (withPair {} { seen := [(7, 44, 0)] } ethOn), by decide⟩,
   ⟨5, 1, {}, { src := 7, pm := ⟨0, 9⟩, type := .ptp, dst := .ptp }, (withEth {} {} ethOn), by decide⟩,
   ⟨5, 1, {}, { src := 7, pm := ⟨0, 9⟩, version := 2 }, (withEth {} {} ethOn), by decide⟩,
   ⟨5, 1, { filters := [(0, { src := 8, srcMask := 0xFF })] }, { src := 7, pm := ⟨0, 9⟩ }, (withEth { filters := [(0, { src := 8, srcMask := 0xFF })] } {} ethOn), by decide⟩,
   ⟨5, 1, 0, { filters := [(0, {})] }, {}, { src := 7, pm := ⟨0, 9⟩ }, (withEth { filters := [(0, {})] } {} { ethOn with pwr := { ethOn.pwr with l3 := 1 } }), by decide⟩,
   ⟨5, 1, 3, { filters := [(3, { dest := 2 })] }, { dest := 2 }, { src := 7, pm := ⟨0, 9⟩ }, (withEth { filters := [(3, { dest := 2 })] } {} (WB [(R.TWIN_STAT_STATE, 0, 4), (R.MODE_STAT_PAIRED, 0, 1), (R.MODE_STAT_ACTIVE, 0, 0)] ethOn)), by decide⟩,
   ⟨5, 1, 3, { filters := [(3, {})], layouts := [(2, [{ addr := 9, byte := 4, bit := 0, width := 16 }])] }, {}, { src := 7, pm := ⟨0, 9⟩, body := [2, 0, 0, 0, 1] }, (withEth { filters := [(3, {})], layouts := [(2, [{ addr := 9, byte := 4, bit := 0, width := 16 }])] } {} ethOn), by decide⟩,
   ⟨5, 1, 3, { filters := [(3, {})], layouts := [(2, [{ addr := 9, byte := 4, bit := 0, width := 16 }])] }, {}, { src := 7, pm := ⟨0, 9⟩, body := [2, 0, 0, 0, 1, 1] }, (withEth { filters := [(3, {})], layouts := [(2, [{ addr := 9, byte := 4, bit := 0, width := 16 }])] } {} (WB [(R.TWIN_STAT_STATE, 0, 0)] ethOn)), by decide⟩,
   ⟨5, 1, 3, { filters := [(3, { dest := 2, pigeonhole := 20 })] }, { dest := 2, pigeonhole := 20 }, { src := 7, pm := ⟨0, 9⟩, body := [1, 2] }, (withEth { filters := [(3, { dest := 2, pigeonhole := 20 })] } {} (WB [(R.TWIN_STAT_STATE, 0, 0)] ethOn)), by decide⟩,
   ⟨5, 1, 3, 0, { filters := [(3, { dest := 3 })] }, { dest := 3 }, { src := 7, pm := ⟨0, 9⟩, kind := 3, body := [1, 0, 0, 0, 0, 0, 0, 0, 0, 5, 1, 0x20] }, { withEth { filters := [(3, { dest := 3 })] } {} (WB [(R.TWIN_STAT_STATE, 0, 0)] ethOn) with man := { eth := [(1, { filters := [(3, { dest := 3 })] })], nodes := [{ addr := 0x2001, mac := 7 }] } }, by decide⟩,
   ⟨5, 1, 3, { filters := [(3, { dest := 3 })] }, { dest := 3 }, { src := 8, pm := ⟨0, 9⟩, kind := 3, body := [1, 0, 0, 0, 0, 0, 0, 0, 0, 5, 1, 0x20] }, { withEth { filters := [(3, { dest := 3 })] } {} (WB [(R.TWIN_STAT_STATE, 0, 0)] ethOn) with man := { eth := [(1, { filters := [(3, { dest := 3 })] })], nodes := [{ addr := 0x2001, mac := 7 }] } }, by decide⟩⟩

theorem wit_EthernetTransmission :
    (∃ (dt : Nat) (p : Nat) (n : Nat) (c : EthCfg) (x : EthTx) (s : State), (s.ethCfg p = some c) ∧ (tfind c.txs n = some x) ∧
      (x.periodUs ≠ none) ∧ ((s.advance dt).cyclicRuns x.drive x.node = true) ∧ (s.ethLead p = p) ∧ (c.prp = false) ∧
      (s.get R.ETH_STAT_TX_ON p = 1) ∧ (s.get R.ETH_STAT_LINK p ≠ 1)) ∧
    (∃ (dt : Nat) (p : Nat) (n : Nat) (c : EthCfg) (x : EthTx) (s : State), (s.ethCfg p = some c) ∧ (tfind c.txs n = some x) ∧
      (x.periodUs ≠ none) ∧ ((s.advance dt).cyclicRuns x.drive x.node = true) ∧ (s.ethLead p = p) ∧ (c.prp = false) ∧
      (s.get R.ETH_STAT_TX_ON p ≠ 1)) ∧
    (∃ (dt : Nat) (p : Nat) (n : Nat) (c : EthCfg) (x : EthTx) (s : State), (s.ethCfg p = some c) ∧ (tfind c.txs n = some x) ∧
      ((x.periodUs = none ∨ (s.advance dt).cyclicRuns x.drive x.node = false ∨ s.ethLead p ≠ p))) ∧
    (∃ (dt : Nat) (p : Nat) (s : State), ((s.ethSt p).cur = none)) ∧
    (∃ (dt : Nat) (p : Nat) (f : EthOut) (s : State), ((s.ethSt p).cur = some f) ∧ ((s.ethSt p).queues = [])) ∧
    (∃ (dt : Nat) (p : Nat) (c : EthCfg) (f : EthOut) (g : EthOut) (h : EthOut) (s : State), (s.ethCfg p = some c) ∧
      ((s.ethSt p).cur = some f) ∧ ((s.ethSt p).queues = [g, h]) ∧ (g.queue < h.queue) ∧ (h.queue < 8) ∧
      (s.get R.ETH_STAT_LINK p = 1) ∧ (s.get R.ETH_STAT_TX_ON p = 1) ∧ (s.get R.ETH_STAT_FAULT p ≠ 1) ∧
      (s.get R.ETH_STAT_SQUALL p ≠ 1) ∧ (c.gates = [])) ∧
    (∃ (dt : Nat) (p : Nat) (s : State), ((∀ c, s.ethCfg p = some c → c.gates = []))) ∧
    (∃ (dt : Nat) (p : Nat) (l : Nat) (c : EthCfg) (f : EthOut) (s : State), (s.ethCfg p = some c) ∧ (c.gates ≠ []) ∧
      ((s.ethSt p).cur = none) ∧ ((s.ethSt p).queues = [f]) ∧ (f.queue < 8) ∧ (s.get R.ETH_STAT_LINK p = 1) ∧
      (s.get R.ETH_STAT_TX_ON p = 1) ∧ (s.get R.ETH_STAT_FAULT p ≠ 1) ∧ ((s.advance dt).gateOf p f.queue = some (some l))) ∧
    (∃ (dt : Nat) (p : Nat) (c : EthCfg) (f : EthOut) (s : State), (s.ethCfg p = some c) ∧ (c.gates ≠ []) ∧
      ((s.ethSt p).queues = [f]) ∧ ((s.advance dt).gateOf p f.queue = none)) ∧
    (∃ (dt : Nat) (p : Nat) (v : Nat) (n : Nat) (l : Bool) (s : State), (s.ethIs p 1 = true) ∧ (s.get R.ETH_STAT_FAULT p ≠ 1) ∧
      (v < 4) ∧ (n = (if l then v else 0)) ∧ ((l ≠ s.flag R.ETH_STAT_LINK p ∨ n ≠ s.get R.ETH_STAT_SPEED p)) ∧
      ((s.ethSt p).queues = [])) ∧
    (∃ (dt : Nat) (p : Nat) (v : Nat) (l : Bool) (s : State), ((s.ethIs p 1 = false ∨ (l = s.flag R.ETH_STAT_LINK p ∧
      (if l then v else 0) = s.get R.ETH_STAT_SPEED p)))) ∧
    (∃ (dt : Nat) (p : Nat) (v : Nat) (n : Nat) (l : Bool) (s : State), (s.ethIs p 2 = true) ∧ (v < 4) ∧ (n = (if l then v else 0))
      ∧ ((l ≠ s.flag R.ETH_STAT_LINK p ∨ n ≠ s.get R.ETH_STAT_SPEED p)) ∧ ((s.ethSt p).queues = [])) ∧
    (∃ (dt : Nat) (p : Nat) (v : Nat) (l : Bool) (s : State), ((s.ethIs p 2 = false ∨ (l = s.flag R.ETH_STAT_LINK p ∧
      (if l then v else 0) = s.get R.ETH_STAT_SPEED p)))) ∧
    (∃ (dt : Nat) (p : Nat) (n : Nat) (ok : Bool) (s : State), (s.ethIs p 1 = true) ∧ ((s.ethSt p).queues = []) ∧
      ((ok = (s.flag R.ETH_STAT_FAULT p)))) ∧
    (∃ (dt : Nat) (p : Nat) (n : Nat) (ok : Bool) (s : State), ((s.ethIs p 1 = false ∨ ok ≠ s.flag R.ETH_STAT_FAULT p))) ∧
    (∃ (dt : Nat) (p : Nat) (b : Rat) (c : EthCfg) (s : State), (s.ethCfg p = some c) ∧ (s.tick % 100 = 0) ∧
      (s.get R.ETH_STAT_SQUALL p ≠ 1)) ∧
    (∃ (dt : Nat) (p : Nat) (b : Rat) (c : EthCfg) (s : State), (s.ethCfg p = some c) ∧ (s.tick % 100 = 0) ∧
      (s.get R.ETH_STAT_SQUALL p = 1) ∧ ((s.ethSt p).queues = [])) ∧
    (∃ (dt : Nat) (p : Nat) (a : Nat) (s : State), ((s.ethSt p).holdAt = some a) ∧ (a + 1000000000 ≤ s.now + dt) ∧
      ((s.ethSt p).squallAlarm = false) ∧ (s.alarms = [])) ∧
    (∃ (dt : Nat) (p : Nat) (s : State), ((∀ a,
      (s.ethSt p).holdAt = some a → s.now + dt < a + 1000000000 ∨ (s.ethSt p).squallAlarm = true))) :=
  ⟨⟨5, 1, 4, { txs := [(4, { periodUs := some 1000, layout := 2, len := 12 })], vlan := 9 }, { periodUs := some 1000, layout := 2, len := 12 }, (withEth { txs := [(4, { periodUs := some 1000, layout := 2, len := 12 })], vlan := 9 } {} (WB [(R.ETH_STAT_LINK, 1, 0)] ethOn)), by decide⟩,
   ⟨5, 1, 4, { txs := [(4, { periodUs := some 1000, layout := 2, len := 12 })], vlan := 9 }, { periodUs := some 1000, layout := 2, len := 12 }, (withEth { txs := [(4, { periodUs := some 1000, layout := 2, len := 12 })], vlan := 9 } {} (WB [(R.ETH_STAT_TX_ON, 1, 0)] ethOn)), by decide⟩,
   ⟨5, 1, 4, { txs := [(4, { layout := 2, len := 12 })] }, { layout := 2, len := 12 }, (withEth { txs := [(4, { layout := 2, len := 12 })] } {} ethOn), by decide⟩,
   ⟨5, 1, (withEth {} {} ethOn), by decide⟩,
   ⟨5, 1, { queue := 5, len := 64, kind := 1, seq := 1, body := [] }, (withEth {} { cur := some { queue := 5, len := 64, kind := 1, seq := 1, body := [] } } ethOn), by decide⟩,
   ⟨5, 1, {}, { queue := 5, len := 64, kind := 1, seq := 1, body := [] }, { queue := 4, len := 64, kind := 1, seq := 2, body := [] }, { queue := 6, len := 64, kind := 1, seq := 3, body := [] }, (withEth {} { cur := some { queue := 5, len := 64, kind := 1, seq := 1, body := [] }, queues := [{ queue := 4, len := 64, kind := 1, seq := 2, body := [] }, { queue := 6, len := 64, kind := 1, seq := 3, body := [] }] } ethOn), by decide⟩,
   ⟨5, 2, (withEth {} {} ethOn), by decide⟩,
   ⟨5, 1, 6000, { gates := [(0x20, 7000), (0x40, 50000)] }, { queue := 5, len := 64, kind := 1, seq := 1, body := [] }, { withEth { gates := [(0x20, 7000), (0x40, 50000)] } { queues := [{ queue := 5, len := 64, kind := 1, seq := 1, body := [] }] } ethOn with time := { running := true, count := 995 * 4294967296 } }, by decide +kernel⟩,
   ⟨5, 1, { gates := [(0x20, 7000), (0x40, 50000)] }, { queue := 6, len := 64, kind := 1, seq := 1, body := [], held := true }, { withEth { gates := [(0x20, 7000), (0x40, 50000)] } { queues := [{ queue := 6, len := 64, kind := 1, seq := 1, body := [], held := true }] } ethOn with time := { running := true, count := 995 * 4294967296 } }, by decide +kernel⟩,
   ⟨5, 1, 3, 3, true, (withEth {} {} (WB [(R.ETH_STAT_LINK, 1, 0)] ethOn)), by decide⟩,
   ⟨5, 1, 2, true, (withEth { iface := 1 } {} ethOn), by decide⟩,
   ⟨5, 1, 3, 0, false, (withEth { iface := 2 } {} ethOn), by decide⟩,
   ⟨5, 1, 2, true, (withEth { iface := 2 } {} ethOn), by decide⟩,
   ⟨5, 1, 9, false, (withEth {} {} ethOn), by decide⟩,
   ⟨5, 1, 9, true, (withEth {} {} ethOn), by decide⟩,
   ⟨5, 1, 1, {}, (withEth {} { loads := [1, 1, 1, 1, 1, 1] } ethOn), by decide⟩,
   ⟨5, 1, 1/2, {}, (withEth {} { loads := [1, 1, 1, 1, 1], holdAt := some 3 } (WB [(R.ETH_STAT_SQUALL, 1, 1)] ethOn)), by decide⟩,
   ⟨1000000000, 1, 0, { withEth {} { holdAt := some 0 } ethOn with alarms := [] }, by decide⟩,
   ⟨5, 2, (withEth {} {} ethOn), by decide⟩⟩

theorem wit_DispatchAndWorkRecord :
    (∃ (dt : Nat) (p : Nat) (c : EthCfg) (s : State), (s.man.disp.ports = [p]) ∧ ((s.advance dt).classDRuns = true) ∧
      (s.ethCfg p = some c) ∧ (c.prp = false) ∧ (s.get R.ETH_STAT_TX_ON p = 1) ∧ (s.get R.ETH_STAT_LINK p ≠ 1)) ∧
    (∃ (dt : Nat) (s : State), (s.man.disp.ports ≠ []) ∧ (s.classDRuns = false)) ∧
    (∃ (dt : Nat) (s : State), (s.man.disp.ports = [])) ∧
    (∃ (dt : Nat) (s : State), (s.man.work.channels = [])) ∧
    (∃ (dt : Nat) (s : State), (s.man.work.channels ≠ []) ∧ (s.classDRuns = false)) ∧
    (∃ (dt : Nat) (k : Tile) (s : State), (s.man.work.channels ≠ []) ∧ (s.classDRuns = true) ∧ (s.openTile = some k)) ∧
    (∃ (dt : Nat) (s : State), (s.man.work.channels ≠ []) ∧ (s.classDRuns = true) ∧ (s.openTile = none) ∧ (s.workTaken = true) ∧
      (s.man.work.hold = true)) ∧
    (∃ (dt : Nat) (s : State), (s.man.work.channels ≠ []) ∧ (s.classDRuns = true) ∧ (s.openTile = none) ∧
      ((s.workTaken = false ∨ s.man.work.hold = false))) ∧
    (∃ (dt : Nat) (k : Tile) (s : State), (s.openTile = some k) ∧ (k.firstAt + s.man.work.sealS * 1000000000 ≤ s.now + dt)) ∧
    (∃ (dt : Nat) (s : State), ((∀ k, s.openTile = some k → s.now + dt < k.firstAt + s.man.work.sealS * 1000000000))) ∧
    (∃ (dt : Nat) (v : Nat) (p : Port) (s : State), (v < 2 ^ 32)) :=
  ⟨⟨5, 1, {}, (withEth {} {} (WB [(R.ETH_STAT_LINK, 1, 0)] ethOn)), by decide⟩,
   ⟨5, { withEth {} {} (WB [(R.MODE_STAT_MODE, 0, 5)] ethOn) with work := { dispSent := true } }, by decide⟩,
   ⟨5, ethOn, by decide⟩,
   ⟨5, ethOn, by decide⟩,
   ⟨5, { WB [(R.MODE_STAT_MODE, 0, 5)] ethOn with man := { work := { channels := [0] } }, work := { begun := true } }, by decide⟩,
   ⟨5, { seq := 3, recs := [[1]] }, { ethOn with man := { work := { channels := [0] } }, work := { tiles := [(2, { seq := 3, recs := [[1]] })], last := 3 } }, by decide⟩,
   ⟨5, { ethOn with man := { work := { channels := [0], tiles := 1, hold := true } }, work := { tiles := [(0, { seq := 3, sealed_ := true })], last := 3, ack := 2 } }, by decide⟩,
   ⟨5, { ethOn with man := { work := { channels := [0], tiles := 1 } }, work := { tiles := [(0, { seq := 3, sealed_ := true })], last := 3, ack := 2 } }, by decide⟩,
   ⟨600000000000, { seq := 3, recs := [[1]] }, { ethOn with man := { work := { channels := [0] } }, work := { tiles := [(2, { seq := 3, recs := [[1]] })], last := 3 } }, by decide⟩,
   ⟨5, ethOn, by decide⟩,
   ⟨5, 0, .spi, { W [(R.ETH_WR_ACK_LO_SEQ, 3), (R.ETH_WR_STAT_FULL, 1)] with man := { work := { channels := [0], tiles := 1, hold := true } }, work := { tiles := [(0, { seq := 3, sealed_ := true })], last := 3, ack := 2 } }, by decide⟩⟩

theorem wit_EventRecorder :
    (∃ (dt : Nat) (s : State), (s.log.isOpen = true) ∧ (s.log.lastAt + 10000000000 ≤ s.now + dt)) ∧
    (∃ (dt : Nat) (s : State), ((s.log.isOpen = false ∨ s.now + dt < s.log.lastAt + 10000000000))) ∧
    (∃ (dt : Nat) (n : Nat) (ok : Bool) (s : State), (s.flushHold = n) ∧ (n ≠ 0)) ∧
    (∃ (dt : Nat) (ok : Bool) (s : State), (s.flushHold = 0) ∧ (s.toFlush = []) ∧ (s.log.heldNoted = false) ∧
      (s.get R.PWR_FC_STAT_SHED_H ≠ 1)) ∧
    (∃ (dt : Nat) (r : Rec) (l : List Rec) (s : State), (s.flushHold = 0) ∧ (s.toFlush = r :: l) ∧ (s.log.heldNoted = false) ∧
      (s.get R.PWR_FC_STAT_SHED_H ≠ 1) ∧ (s.log.lostSeqs = []) ∧ (s.log.lostRam = 0) ∧ (s.log.lostHold = 0)) ∧
    (∃ (dt : Nat) (r : Rec) (l : List Rec) (s : State), (s.flushHold = 0) ∧ (s.toFlush = r :: l) ∧ (s.log.heldNoted = false) ∧
      (s.get R.PWR_FC_STAT_SHED_H ≠ 1)) ∧
    (∃ (dt : Nat) (s : State), (s.log.erasedAhead < 3)) ∧
    (∃ (dt : Nat) (s : State), (3 ≤ s.log.erasedAhead)) ∧
    (∃ (dt : Nat) (a : Nat) (s : State), (s.log.heldAt = some a) ∧ (a + 60000000000 ≤ s.now + dt) ∧ (s.log.heldNoted = false)) ∧
    (∃ (dt : Nat) (s : State), ((∀ a, s.log.heldAt = some a → s.now + dt < a + 60000000000 ∨ s.log.heldNoted = true))) ∧
    (∃ (dt : Nat) (hi : Nat) (p : Port) (s : State), (s.get R.LOG_RD_SEQ_LO_SEQ < 2 ^ 32)) ∧
    (∃ (dt : Nat) (a : Nat) (s : State), (s.log.fetchAt = some a)) ∧
    (∃ (dt : Nat) (s : State), (s.log.fetchAt = none)) ∧
    (∃ (dt : Nat) (off : Nat) (p : Port) (s : State), (s.pwr.l3 ≠ 1)) ∧
    (∃ (dt : Nat) (hi : Nat) (n : Nat) (m : Nat) (p : Port) (s : State), (n = s.get R.LOG_MARK_SEL_SLOT) ∧
      (m = hi % 2 ^ 32 * 2 ^ 32 + s.log.markLo) ∧ (tget s.log.marks n 0 ≤ m) ∧ (m ≤ s.log.head)) ∧
    (∃ (dt : Nat) (hi : Nat) (n : Nat) (m : Nat) (p : Port) (s : State), (n = s.get R.LOG_MARK_SEL_SLOT) ∧
      (m = hi % 2 ^ 32 * 2 ^ 32 + s.log.markLo) ∧ ((m < tget s.log.marks n 0 ∨ s.log.head < m))) ∧
    (∃ (dt : Nat) (k : Nat) (p : Port) (s : State), (s.session p = some .maker) ∧ (s.pwr.l3 ≠ 1) ∧ (k = s.log.head % 2 ^ 32)) ∧
    (∃ (dt : Nat) (k : Nat) (p : Port) (s : State), (s.pwr.l3 ≠ 1) ∧ ((s.session p ≠ some .maker ∨ k ≠ s.log.head % 2 ^ 32))) ∧
    (∃ (dt : Nat) (s : State), (s.get R.LOG_STAT_ERASING = 1) ∧ (s.nvmOpen = true)) ∧
    (∃ (dt : Nat) (s : State), ((s.get R.LOG_STAT_ERASING ≠ 1 ∨ s.nvmOpen = false))) :=
  ⟨⟨10000000000, (withLog { isOpen := true } State.reset), by decide⟩,
   ⟨5, (withLog { isOpen := true } State.reset), by decide⟩,
   ⟨5, 1, true, (withLog { ram := [aRec 2, aRec 1] } (W [(R.THRM_STAT_NVM_OPEN, 0)])), by decide⟩,
   ⟨5, true, (withLog { heldAt := some 3 } flushable), by decide⟩,
   ⟨5, aRec 2, [aRec 1], (withLog { head := 3, ram := [aRec 3, aRec 2, aRec 1], isOpen := true, heldAt := some 0 } flushable), by decide⟩,
   ⟨5, aRec 2, [aRec 1], (withLog { head := 3, ram := [aRec 3, aRec 2, aRec 1], isOpen := true, heldAt := some 0 } flushable), by decide⟩,
   ⟨5, (withLog { flash := [(1, aRec 1), (3073, aRec 3073)], flushed := 5, erasedAhead := 2 } State.reset), by decide⟩,
   ⟨5, State.reset, by decide⟩,
   ⟨60000000000, 0, (withLog { heldAt := some 0 } State.reset), by decide⟩,
   ⟨5, State.reset, by decide⟩,
   ⟨5, 0, .spi, (withLog { head := 9 } (W [(R.LOG_RD_SEQ_LO_SEQ, 4)])), by decide⟩,
   ⟨5, 3, (withLog { head := 3, rdSeq := 2, fetchAt := some 3, ram := [aRec 3, aRec 2, aRec 1] } State.reset), by decide⟩,
   ⟨5, State.reset, by decide⟩,
   ⟨5, 0x16004, .pcie, (withLog { head := 2 ^ 32 + 9 } State.reset), by decide⟩,
   ⟨5, 0, 2, 5, .pcie, (withLog { head := 9, markLo := 5, marks := [(2, 4)] } (W [(R.LOG_MARK_SEL_SLOT, 2)])), by decide⟩,
   ⟨5, 0, 2, 3, .pcie, (withLog { head := 9, markLo := 3, marks := [(2, 4)] } (W [(R.LOG_MARK_SEL_SLOT, 2)])), by decide⟩,
   ⟨5, 9, .pcie, { makerSess with log := { makerSess.log with head := 9 } }, by decide⟩,
   ⟨5, 8, .pcie, { makerSess with log := { makerSess.log with head := 9 } }, by decide⟩,
   ⟨5, makerSess, by decide⟩,
   ⟨5, State.reset, by decide⟩⟩

theorem wit_PointWindow :
    (∃ (dt : Nat) (o : Nat) (i : Nat) (p : Port) (s : State), (s.pwr.l3 ≠ 1) ∧ (i = s.winIdx p o) ∧ (o % 32 / 4 = 0)) ∧
    (∃ (dt : Nat) (o : Nat) (p : Port) (s : State), (s.pwr.l3 ≠ 1) ∧ (o % 32 / 4 ≠ 0)) ∧
    (∃ (dt : Nat) (o : Nat) (v : Nat) (p : Port) (s : State), (s.onTrunk15 (s.winIdx p o) = false)) ∧
    (∃ (dt : Nat) (o : Nat) (v : Nat) (p : Port) (s : State), (s.onTrunk15 (s.winIdx p o) = false)) ∧
    (∃ (dt : Nat) (o : Nat) (v : Nat) (p : Port) (s : State), (s.onTrunk15 (s.winIdx p o) = false)) ∧
    (∃ (dt : Nat) (o : Nat) (p : Port) (s : State), (s.onTrunk15 (s.winIdx p o) = false)) ∧
    (∃ (dt : Nat) (o : Nat) (v : Nat) (p : Port) (s : State), (s.onTrunk15 (s.winIdx p o) = true) ∧ (v % 16 ≤ 6)) ∧
    (∃ (dt : Nat) (o : Nat) (v : Nat) (p : Port) (s : State), (s.onTrunk15 (s.winIdx p o) = true) ∧ (7 ≤ v % 16)) ∧
    (∃ (dt : Nat) (o : Nat) (v : Nat) (p : Port) (s : State), (s.onTrunk15 (s.winIdx p o) = true)) ∧
    (∃ (dt : Nat) (o : Nat) (v : Nat) (i : Nat) (p : Port) (c : PtCfg) (s : State), (i = s.winIdx p o) ∧ (s.ptCfg i = some c) ∧
      (s.onTrunk15 i = true) ∧ ((c.out = true ∨ s.isActive = false))) ∧
    (∃ (dt : Nat) (o : Nat) (v : Nat) (i : Nat) (p : Port) (c : PtCfg) (s : State), (i = s.winIdx p o) ∧ (s.ptCfg i = some c) ∧
      (s.onTrunk15 i = true) ∧ (c.out = false) ∧ (s.isActive = true)) ∧
    (∃ (dt : Nat) (o : Nat) (p : Port) (s : State), (s.onTrunk15 (s.winIdx p o) = true)) :=
  ⟨⟨5, 0, 0, .pcie, (hostWin { addr := 15 * 2 ^ 28 } {} hostOn), by decide⟩,
   ⟨5, 4, .pcie, (hostWin { addr := 15 * 2 ^ 28 } { latched := some (0, [1, 77]) } hostOn), by decide⟩,
   ⟨5, 0, 0, .pcie, (hostWin { addr := 14 * 2 ^ 28 } {} hostOn), by decide⟩,
   ⟨5, 0, 9, .pcie, (hostWin { addr := 14 * 2 ^ 28 } {} hostOn), by decide⟩,
   ⟨5, 0, 9, .pcie, (hostWin { addr := 14 * 2 ^ 28 } {} hostOn), by decide⟩,
   ⟨5, 0, .pcie, (hostWin { addr := 14 * 2 ^ 28 } {} hostOn), by decide⟩,
   ⟨5, 16, 3, .pcie, (hostWin { addr := 15 * 2 ^ 28 } { staged := { low := 7 } } hostOn), by decide⟩,
   ⟨5, 16, 7, .pcie, (hostWin { addr := 15 * 2 ^ 28 } {} hostOn), by decide⟩,
   ⟨5, 0, 9, .pcie, (hostWin { addr := 15 * 2 ^ 28 } {} hostOn), by decide⟩,
   ⟨5, 4, 9, 0, .pcie, { addr := 15 * 2 ^ 28, out := true }, (hostWin { addr := 15 * 2 ^ 28, out := true } {} hostOn), by decide⟩,
   ⟨5, 4, 9, 0, .pcie, { addr := 15 * 2 ^ 28 }, (hostWin { addr := 15 * 2 ^ 28 } { staged := { low := 7, quality := .stale } } hostOn), by decide⟩,
   ⟨5, 8, .pcie, (hostWin { addr := 15 * 2 ^ 28 } {} hostOn), by decide⟩⟩

theorem wit_AlarmsPigeonholesInterrupts :
    (∃ (dt : Nat) (n : Nat) (p : Port) (a : AlarmEnt) (s : State), (s.session p = some .operator) ∧ (s.pwr.l3 ≠ 1) ∧
      (s.isActive = true) ∧ (n < 256) ∧ (tsorted 0 s.alarms = true) ∧ (tfind s.alarms n = some a)) ∧
    (∃ (dt : Nat) (p : Port) (s : State), (s.session p = some .operator) ∧ (s.pwr.l3 ≠ 1) ∧ (s.isActive = true) ∧
      (tsorted 0 s.alarms = true) ∧ ((∀ x ∈ s.alarms, x.2.st ∈ [1, 2, 3]))) ∧
    (∃ (dt : Nat) (n : Nat) (p : Port) (s : State), (s.pwr.l3 ≠ 1) ∧ ((s.session p ≠ some .operator ∨ s.isActive = false))) ∧
    (∃ (dt : Nat) (n : Nat) (p : Port) (e : Env) (l : List Env) (s : State), (s.pwr.l3 ≠ 1) ∧ (n < 128) ∧ (s.hostConsumes n = true)
      ∧ ((s.pigeon n).ring = e :: l) ∧ ((match p with | .pcie => (s.pigeon n).wordP | .spi => (s.pigeon n).wordS) < 15)) ∧
    (∃ (dt : Nat) (n : Nat) (p : Port) (e : Env) (l : List Env) (s : State), (s.pwr.l3 ≠ 1) ∧ (n < 128) ∧ (s.hostConsumes n = true)
      ∧ ((s.pigeon n).ring = e :: l) ∧ ((match p with | .pcie => (s.pigeon n).wordP | .spi => (s.pigeon n).wordS) = 15)) ∧
    (∃ (dt : Nat) (n : Nat) (p : Port) (s : State), (s.pwr.l3 ≠ 1) ∧ (n < 128) ∧
      (((s.pigeon n).ring = [] ∨ s.hostConsumes n = false))) ∧
    (∃ (dt : Nat) (n : Nat) (p : Port) (s : State), (n < 128)) ∧
    (∃ (dt : Nat) (n : Nat) (p : Port) (e : Env) (l : List Env) (s : State), (n < 128) ∧ (s.hostConsumes n = true) ∧
      ((s.pigeon n).ring = e :: l)) ∧
    (∃ (dt : Nat) (n : Nat) (p : Port) (s : State), (n < 128) ∧ ((s.hostConsumes n = false ∨ (s.pigeon n).ring = []))) ∧
    (∃ (dt : Nat) (n : Nat) (w : Nat) (p : Port) (b : List Nat) (s : State), (n < 128) ∧
      (b = (match p with | .pcie => (s.pigeon n).bufP | .spi => (s.pigeon n).bufS)) ∧ (b.length < 15)) ∧
    (∃ (dt : Nat) (n : Nat) (w : Nat) (p : Port) (b : List Nat) (s : State), (n < 128) ∧
      (b = (match p with | .pcie => (s.pigeon n).bufP | .spi => (s.pigeon n).bufS)) ∧ (b.length = 15)) ∧
    (∃ (dt : Nat) (v : Nat) (p : Port) (s : State), (v < 32) ∧ (s.vecPending v = false)) ∧
    (∃ (dt : Nat) (v : Nat) (p : Port) (s : State), (v < 32) ∧ (s.vecPending v = true)) ∧
    (∃ (dt : Nat) (v : Nat) (p : Port) (s : State), (v < 32) ∧ (s.vecMasked v = true)) :=
  ⟨⟨5, 9, .pcie, ⟨0x0502, 1, 1⟩, { opHost hostOn with alarms := [(4, ⟨0x0A05, 3, 3⟩), (9, ⟨0x0502, 1, 1⟩)] }, by decide⟩,
   ⟨5, .pcie, { opHost hostOn with alarms := [(4, ⟨0x0A05, 3, 3⟩), (9, ⟨0x0502, 1, 1⟩)] }, by decide⟩,
   ⟨5, 9, .spi, { opHost hostOn with alarms := [(4, ⟨0x0A05, 3, 3⟩), (9, ⟨0x0502, 1, 1⟩)] }, by decide⟩,
   ⟨5, 20, .pcie, anEnv, [anEnv], (withPgn { ring := [anEnv, anEnv], wordP := 2 } hostOn), by decide⟩,
   ⟨5, 20, .pcie, anEnv, [anEnv], (withPgn { ring := [anEnv, anEnv], wordP := 15, wordS := 4 } hostOn), by decide⟩,
   ⟨5, 20, .pcie, (withPgn { ring := [], wordP := 2 } hostOn), by decide⟩,
   ⟨5, 20, .spi, (withPgn { ring := [anEnv], wordS := 2, bufS := [1] } hostOn), by decide⟩,
   ⟨5, 20, .spi, anEnv, [], (withPgn { ring := [anEnv], wordS := 2 } hostOn), by decide⟩,
   ⟨5, 20, .spi, (withPgn {} hostOn), by decide⟩,
   ⟨5, 20, 9, .pcie, [4], (withPgn { bufP := [4] } hostOn), by decide⟩,
   ⟨5, 20, 9, .pcie, List.replicate 15 4, (withPgn { bufP := List.replicate 15 4 } hostOn), by decide⟩,
   ⟨5, 3, .pcie, { withPgn {} hostOn with irqPba := 0x18 }, by decide⟩,
   ⟨5, 3, .pcie, { withPgn { ring := [anEnv] } hostOn with msix := [(15, 0)], msixEnable := true, msiSent := [(3, 4)] }, by decide⟩,
   ⟨5, 3, .pcie, { hostOn with irqPba := 8, msixEnable := true, msiSent := [(3, 4)] }, by decide⟩⟩

theorem wit_HostAccesses :
    (∃ (dt : Nat) (o : Nat) (v : Nat) (p : Port) (x : HostAux) (s : State), (0x40000 ≤ o / 4 * 4)) ∧
    (∃ (dt : Nat) (v : Nat) (p : Port) (x : HostAux) (s : State), (v < 64)) ∧
    (∃ (dt : Nat) (v : Nat) (p : Port) (x : HostAux) (s : State), (v < 2 ^ 32)) ∧
    (∃ (dt : Nat) (v : Nat) (p : Port) (x : HostAux) (s : State), (v < 2 ^ 20)) ∧
    (∃ (dt : Nat) (v : Nat) (p : Port) (x : HostAux) (s : State), (v < 32) ∧ (s.get R.LOG_EVT_ERASED < 2) ∧
      (s.get R.LOG_EVT_FLASH_ERR < 2)) ∧
    (∃ (dt : Nat) (v : Nat) (p : Port) (x : HostAux) (s : State), (v < 2 ^ 32) ∧ (s.session p ≠ some .installer) ∧ (s.pwr.l3 ≠ 1)) ∧
    (∃ (dt : Nat) (v : Nat) (p : Port) (x : HostAux) (s : State), (v < 2 ^ 32) ∧ (s.session p = some .installer) ∧ (s.pwr.l3 ≠ 1)) ∧
    (∃ (dt : Nat) (v : Nat) (p : Port) (x : HostAux) (s : State), (v < 32)) ∧
    (∃ (dt : Nat) (v : Nat) (p : Port) (x : HostAux) (s : State), (v < 2 ^ 32)) ∧
    (∃ (dt : Nat) (v : Nat) (p : Port) (x : HostAux) (s : State), (v < 2 ^ 32)) ∧
    (∃ (dt : Nat) (v : Nat) (p : Port) (x : HostAux) (s : State), (v < 512)) ∧
    (∃ (dt : Nat) (v : Nat) (p : Port) (x : HostAux) (s : State), (v < 2 ^ 32)) ∧
    (∃ (dt : Nat) (v : Nat) (p : Port) (x : HostAux) (s : State), (v < 2 ^ 32)) ∧
    (∃ (dt : Nat) (o : Nat) (a : Nat) (b : Nat) (w : List Nat) (x : HostAux) (s : State), ((b ≠ 0 ∨ o ≠ 2))) ∧
    (∃ (dt : Nat) (a : Nat) (s : State), (s.pwr.l3 ≠ 1)) ∧
    (∃ (dt : Nat) (n : Nat) (b : Bool) (s : State), ((b = true ∨ 10 < n)) ∧ (s.role.owner = .pcie) ∧
      (s.get R.ROLE_STAT_SESSION ≠ 0)) ∧
    (∃ (dt : Nat) (n : Nat) (b : Bool) (s : State), ((b = true ∨ 10 < n)) ∧ (s.role.owner = .spi)) ∧
    (∃ (dt : Nat) (n : Nat) (s : State), (n ≤ 10)) ∧
    (∃ (dt : Nat) (g : Nat) (w : Nat) (m : Bool) (s : State), (s.mode ≠ 0) ∧ (s.mus.porLow = false) ∧ (s.mus.running = true) ∧
      (s.mus.straps.pcieEn = true)) ∧
    (∃ (dt : Nat) (g : Nat) (w : Nat) (m : Bool) (s : State),
      ((s.mode = 0 ∨ s.mus.porLow = true ∨ s.mus.running = false ∨ s.mus.straps.pcieEn = false))) :=
  ⟨⟨5, 0x40000, 3, .pcie, {}, hostOn, by decide⟩,
   ⟨5, 3, .spi, {}, hostOn, by decide⟩,
   ⟨5, 3, .spi, {}, hostOn, by decide⟩,
   ⟨5, 0x3004, .spi, {}, hostOn, by decide⟩,
   ⟨5, 8, .spi, {}, (W [(R.LOG_EVT_ERASED, 1), (R.LOG_EVT_FLASH_ERR, 1)]), by decide⟩,
   ⟨5, 9, .spi, {}, hostOn, by decide⟩,
   ⟨5, 9, .pcie, {}, (opHost (W [(R.ROLE_STAT_SESSION, 2), (R.MNF_STAGE_OFS_OFS, 2048)])), by decide⟩,
   ⟨5, 3, .pcie, {}, hostOn, by decide⟩,
   ⟨5, 3, .pcie, {}, hostOn, by decide⟩,
   ⟨5, 3, .pcie, {}, hostOn, by decide⟩,
   ⟨5, 3, .pcie, {}, hostOn, by decide⟩,
   ⟨5, 3, .pcie, {}, hostOn, by decide⟩,
   ⟨5, 3, .pcie, {}, hostOn, by decide⟩,
   ⟨5, 2, 0x16024, 1, [7, 0], {}, hostOn, by decide⟩,
   ⟨5, 0x20000, hostOn, by decide⟩,
   ⟨5, 0, true, (opHost hostOn), by decide⟩,
   ⟨5, 11, false, { hostOn with role := { owner := .spi } }, by decide⟩,
   ⟨5, 10, hostOn, by decide⟩,
   ⟨5, 3, 2, true, { hostOn with mus := { porLow := false, running := true, straps := { pcieEn := true }, wakeN := true } }, by decide⟩,
   ⟨5, 3, 2, true, (W [(R.MODE_STAT_MODE, 0)]), by decide⟩⟩

end Sys2Proof.Machine.Slice0
end

section
/-!
PROOF of the statement of 00_scope.md about host accesses (HostAccesses): a register write is followed from its offset to
the register, from the register to its fields, and from the fields to what it leaves; then SPI transactions and the PCIe link.
-/

namespace Sys2Proof.Machine

open Sys2Proof

/-! ### Time and frames -/

theorem advCount_zero (rate : Rat) : advCount rate 0 = 0 := by
  unfold advCount
  rw [Nat.cast_zero, zero_mul, zero_mul]
  rfl

/-- A command that a register write stands for takes no time of its own. -/
@[simp] theorem State.advance_zero (s : State) : s.advance 0 = s := by
  simp [State.advance, advCount_zero]

/-- Counting a counter outside what is told frames the rest. -/
theorem inc_listed_framed (s : State) (f : Fld) : Framed [loc f 0] s (s.inc f) :=
  set_framed _ _ _ _ (.inl (List.mem_singleton.2 rfl)) (.refl _ s)

/-- A fold keeps a frame that each of its steps keeps. -/
theorem foldl_framed {α : Type} {ks : List Nat} {s₀ s : State} {g : State → α → State} (l : List α)
    (hg : ∀ x ∈ l, ∀ u, Framed ks s₀ u → Framed ks s₀ (g u x)) (h : Framed ks s₀ s) :
    Framed ks s₀ (l.foldl g s) := by
  induction l generalizing s with
  | nil => exact h
  | cons x l ih => exact ih (fun y hy => hg y (List.mem_cons_of_mem _ hy)) (hg x List.mem_cons_self s h)

/-! ### Ports -/

@[simp] theorem State.advance_port (s : State) (dt : Nat) (p : Port) : (s.advance dt).port p = s.port p := by
  cases p <;> rfl

@[simp] theorem State.putPort_port_same (s : State) (p : Port) (h : HostPort) : (s.putPort p h).port p = h := by
  cases p <;> rfl

theorem State.putPort_port_ne (s : State) {p q : Port} (h : HostPort) (hq : q ≠ p) :
    (s.putPort p h).port q = s.port q := by
  cases p with
  | pcie => cases q with
    | pcie => exact absurd rfl hq
    | spi => rfl
  | spi => cases q with
    | pcie => rfl
    | spi => exact absurd rfl hq

@[simp] theorem State.putPort_regs (s : State) (p : Port) (h : HostPort) : (s.putPort p h).regs = s.regs := by
  cases p <;> rfl

theorem otherPort_ne (p : Port) : (if p = .spi then Port.pcie else .spi) ≠ p := by
  cases p <;> decide

/-! ### The way of a write to its register -/

/-- An aligned offset of a block register, outside the MSI-X table, the point window, and the block of the safety island. -/
def blockRegister (off : Nat) : Bool :=
  decide (off % 4 = 0) && decide (off < 0x20000) && !decide (0xF000 ≤ off ∧ off < 0x10000) &&
    !decide (0x18000 ≤ off ∧ off < 0x18208)

/-- The value sets no bit that the register's fields leave out, and the register has a field. -/
def fitsRegister (reg v : Nat) : Prop := fldsAt reg ≠ [] ∧ v &&& reservedBits (fldsAt reg) = 0

/-- A value below `2 ^ n` fits a register whose reserved bits all lie from bit `n` on. -/
theorem fitsRegister_of_lt {reg v : Nat} (n : Nat) (hv : v < 2 ^ n)
    (h : fldsAt reg ≠ [] ∧ reservedBits (fldsAt reg) % 2 ^ n = 0) : fitsRegister reg v := by
  refine ⟨h.1, ?_⟩
  rw [← Nat.mod_eq_of_lt hv, ← Nat.and_two_pow_sub_one_eq_mod, Nat.and_assoc, Nat.and_comm (2 ^ n - 1),
    Nat.and_two_pow_sub_one_eq_mod, h.2, Nat.and_zero]

/-- A fitting write to a block register is its command where it has one, and otherwise goes by the access codes. -/
theorem State.hostWrite_register (s : State) (p : Port) {off v : Nat} (x : HostAux) (hoff : blockRegister off = true)
    (hv : v < 2 ^ 32) (hfit : fitsRegister (s.regAt off).1 v) :
    s.hostWrite p off v x = (s.cmdWrite p off v x).getD (s.plainWrite p off v) := by
  simp only [blockRegister, Bool.and_eq_true, Bool.not_eq_true', decide_eq_true_eq, decide_eq_false_iff_not] at hoff
  obtain ⟨⟨⟨h4, hmap⟩, hisl⟩, hmsix⟩ := hoff
  obtain ⟨hfld, hres⟩ := hfit
  have ha : off / 4 * 4 = off := Nat.div_mul_cancel (Nat.dvd_of_mod_eq_zero h4)
  unfold State.hostWrite
  simp only [ha, Nat.mod_eq_of_lt hv, hfld, hres]
  rw [if_neg (by omega), if_neg (by omega), if_neg (by omega), if_neg (by omega), if_neg (by simp [hisl]), if_neg (by simp),
    if_neg (by simp)]
  cases s.cmdWrite p off v x <;> rfl

theorem exec_registerWrite_whole (dt off v : Nat) (p : Port) (x : HostAux) (s : State) :
    exec (.registerWrite dt p off v true x) s = .next ((s.advance dt).hostWrite p off v x) := by
  show execRegisterWrite dt p off v true x s = _
  simp [execRegisterWrite]

theorem exec_registerWrite_partial (dt off v : Nat) (x : HostAux) (s : State) :
    exec (.registerWrite dt .pcie off v false x) s =
      .next (((s.advance dt).inc R.ETH_HOST_CNT_PARTIAL_WR).record { code := 0x1509, items := [(4, off)] }) := rfl

/-- A fitting write to a register without a command of its own goes by its access codes. -/
theorem exec_registerWrite_plain (dt : Nat) {off v : Nat} (p : Port) (x : HostAux) (s : State)
    (hoff : blockRegister off = true) (hv : v < 2 ^ 32)
    (hreg : ((s.advance dt).regAt off).1 = off) (hfit : fitsRegister off v)
    (hcmd : (s.advance dt).cmdWrite p off v x = none) :
    exec (.registerWrite dt p off v true x) s = .next ((s.advance dt).plainWrite p off v) := by
  rw [exec_registerWrite_whole, State.hostWrite_register _ _ _ hoff hv (by rwa [hreg]), hcmd, Option.getD_none]

/-- A fitting write to a register whose write is a command leaves what the command leaves. -/
theorem exec_registerWrite_cmd (dt : Nat) {off v : Nat} (p : Port) (x : HostAux) (s t : State)
    (hoff : blockRegister off = true) (hv : v < 2 ^ 32)
    (hreg : ((s.advance dt).regAt off).1 = off) (hfit : fitsRegister off v)
    (hcmd : (s.advance dt).cmdWrite p off v x = some t) : exec (.registerWrite dt p off v true x) s = .next t := by
  rw [exec_registerWrite_whole, State.hostWrite_register _ _ _ hoff hv (by rwa [hreg]), hcmd, Option.getD_some]

/-! ### Writes that are commands -/

/-- A meaning that answers a next state answers what `after` takes from it. -/
theorem next_after {s₀ : State} {o : Out} (s : State) (h : Goes s₀ o) : o = .next (after s o) := by
  obtain ⟨t, rfl, -⟩ := h
  rfl

theorem exec_irqAck (dt v : Nat) (p : Port) (s : State) :
    exec (.irqAck dt p v) s = .next ((s.advance dt).irqAck (v % 32)) := rfl

theorem exec_alarmAck (dt v : Nat) (p : Port) (s : State) :
    exec (.alarmAck dt p v) s = .next ((s.advance dt).alarmAck p v) := rfl

theorem exec_logFetchStart (dt v : Nat) (p : Port) (s : State) :
    exec (.logFetchStart dt p v) s = .next (after (s.advance dt) (execLogFetchStart 0 p v (s.advance dt))) := by
  rw [← next_after _ (execLogFetchStart_steady _ _ _ _ (.refl _))]
  show execLogFetchStart dt p v s = _
  simp only [execLogFetchStart, State.advance_zero]

theorem exec_ethWrAckWrite (dt v : Nat) (p : Port) (s : State) :
    exec (.ethWrAckWrite dt p v) s = .next (after (s.advance dt) (execEthWrAckWrite 0 p v (s.advance dt))) := by
  rw [← next_after _ (execEthWrAckWrite_steady _ _ _ _ (.refl _))]
  show execEthWrAckWrite dt p v s = _
  simp only [execEthWrAckWrite, State.advance_zero]

theorem exec_logMarkWrite (dt v : Nat) (p : Port) (s : State) :
    exec (.logMarkWrite dt p v) s = .next (after (s.advance dt) (execLogMarkWrite 0 p v (s.advance dt))) := by
  rw [← next_after _ (execLogMarkWrite_steady _ _ _ _ (.refl _))]
  show execLogMarkWrite dt p v s = _
  simp only [execLogMarkWrite, State.advance_zero]

theorem exec_logErase (dt v : Nat) (p : Port) (s : State) :
    exec (.logErase dt p v) s = .next (after (s.advance dt) (execLogErase 0 p v (s.advance dt))) := by
  rw [← next_after _ (execLogErase_steady _ _ _ _ (.refl _))]
  show execLogErase dt p v s = _
  simp only [execLogErase, State.advance_zero]

theorem registerWrite_irqAck (dt : Nat) {v : Nat} (p : Port) (x : HostAux) (s : State) (hv : v < 32) :
    exec (.registerWrite dt p 0x18304 v true x) s = .next ((s.advance dt).irqAck (v % 32)) :=
  exec_registerWrite_cmd dt p x s _ (by decide) (by omega) rfl (fitsRegister_of_lt 5 hv (by decide +kernel)) rfl

theorem registerWrite_alarmAck (dt : Nat) {v : Nat} (p : Port) (x : HostAux) (s : State) (hv : v < 512) :
    exec (.registerWrite dt p 0x24 v true x) s = .next ((s.advance dt).alarmAck p v) :=
  exec_registerWrite_cmd dt p x s _ (by decide) (by omega) rfl (fitsRegister_of_lt 9 hv (by decide +kernel)) rfl

theorem registerWrite_logFetchStart (dt : Nat) {v : Nat} (p : Port) (x : HostAux) (s : State) (hv : v < 2 ^ 32) :
    exec (.registerWrite dt p 0x16028 v true x) s =
      .next (after (s.advance dt) (execLogFetchStart 0 p v (s.advance dt))) :=
  exec_registerWrite_cmd dt p x s _ (by decide) hv rfl (fitsRegister_of_lt 32 hv (by decide +kernel)) rfl

theorem registerWrite_ethWrAckWrite (dt : Nat) {v : Nat} (p : Port) (x : HostAux) (s : State) (hv : v < 2 ^ 32) :
    exec (.registerWrite dt p 0x1521C v true x) s =
      .next (after (s.advance dt) (execEthWrAckWrite 0 p v (s.advance dt))) :=
  exec_registerWrite_cmd dt p x s _ (by decide) hv rfl (fitsRegister_of_lt 32 hv (by decide +kernel)) rfl

theorem registerWrite_logMarkWrite (dt : Nat) {v : Nat} (p : Port) (x : HostAux) (s : State) (hv : v < 2 ^ 32) :
    exec (.registerWrite dt p 0x16038 v true x) s =
      .next (after (s.advance dt) (execLogMarkWrite 0 p v (s.advance dt))) :=
  exec_registerWrite_cmd dt p x s _ (by decide) hv rfl (fitsRegister_of_lt 32 hv (by decide +kernel)) rfl

theorem registerWrite_logErase (dt : Nat) {v : Nat} (p : Port) (x : HostAux) (s : State) (hv : v < 2 ^ 32) :
    exec (.registerWrite dt p 0x16044 v true x) s =
      .next (after (s.advance dt) (execLogErase 0 p v (s.advance dt))) :=
  exec_registerWrite_cmd dt p x s _ (by decide) hv rfl (fitsRegister_of_lt 32 hv (by decide +kernel)) rfl

/-! ### Writes by the access codes -/

/-- A W1C bit clears where the write sets it, and keeps its value otherwise (R9). -/
theorem w1c_bit {g x : Nat} (hg : g < 2) (i : Nat) :
    (g - (g &&& x / 2 ^ i % 2 ^ 1)) % 2 ^ 1 = if x.testBit i then 0 else g := by
  rw [Nat.testBit_eq_decide_div_mod_eq]
  obtain rfl | rfl : g = 0 ∨ g = 1 := by omega
  · simp
  · rcases Nat.mod_two_eq_zero_or_one (x / 2 ^ i) with h | h <;> simp [h]

theorem registerWrite_page (dt : Nat) {v : Nat} (p : Port) (x : HostAux) (s : State) (hv : v < 64) :
    exec (.registerWrite dt p 0x10 v true x) s =
      .next ((s.advance dt).putPort p { s.port p with page := v }) := by
  rw [exec_registerWrite_plain dt p x s (by decide) (by omega) rfl (fitsRegister_of_lt 6 hv (by decide +kernel)) rfl]
  show Host.Outcome.next ((s.advance dt).putPort p { (s.advance dt).port p with page := v % 64 }) = _
  rw [State.advance_port, Nat.mod_eq_of_lt hv]

/-- A register without an arm of its own and without a role gives the value to each of its fields (R9). -/
theorem State.plainWrite_fields (s : State) (p : Port) {off v reg b : Nat} {fs : List Fld} (hreg : s.regAt off = (reg, b))
    (hown : reg ∉ [0x10, 0x16034, 0xA004, 0x1830C, 0x2020, 0x2800]) (hfs : fldsAt reg = fs) (hrole : rwlRoles fs = none) :
    s.plainWrite p off v = fs.foldl (fun s f => s.fieldWrite b v f) s := by
  simp only [List.mem_cons, List.not_mem_nil, or_false, not_or] at hown
  unfold State.plainWrite
  simp only [hreg, hfs]
  split
  case h_7 => rw [hrole]
  all_goals omega

/-- Such a write to a block register, in bank 0. -/
theorem exec_registerWrite_fields (dt : Nat) {off v : Nat} {fs : List Fld} (p : Port) (x : HostAux) (s : State)
    (hoff : blockRegister off = true) (hv : v < 2 ^ 32) (hreg : (s.advance dt).regAt off = (off, 0))
    (hfit : fitsRegister off v) (hcmd : (s.advance dt).cmdWrite p off v x = none)
    (hown : off ∉ [0x10, 0x16034, 0xA004, 0x1830C, 0x2020, 0x2800]) (hfs : fldsAt off = fs) (hrole : rwlRoles fs = none) :
    exec (.registerWrite dt p off v true x) s = .next (fs.foldl (fun s f => s.fieldWrite 0 v f) (s.advance dt)) := by
  rw [exec_registerWrite_plain dt p x s hoff hv (by rw [hreg]) hfit hcmd,
    State.plainWrite_fields _ p hreg hown hfs hrole]

theorem fldsAt_logHeadSeqLo : fldsAt 0x16004 = [R.LOG_HEAD_SEQ_LO_SEQ] := by decide +kernel

theorem fldsAt_ethWrOfs : fldsAt 0x15220 = [R.ETH_WR_OFS_TILE, R.ETH_WR_OFS_BLOCK] := by decide +kernel

theorem fldsAt_logEvt : fldsAt 0x16050 =
    [R.LOG_EVT_LOST, R.LOG_EVT_FLASH_ERR, R.LOG_EVT_RAM_75, R.LOG_EVT_ERASED, R.LOG_EVT_MARK_REFUSED] := by
  decide +kernel

/-- A write of a read-only register leaves nothing but the time that passes. -/
theorem registerWrite_logHeadSeqLo (dt : Nat) {v : Nat} (p : Port) (x : HostAux) (s : State) (hv : v < 2 ^ 32) :
    exec (.registerWrite dt p 0x16004 v true x) s = .next (s.advance dt) :=
  exec_registerWrite_fields dt p x s (by decide) hv rfl (fitsRegister_of_lt 32 hv (by decide +kernel)) rfl (by decide)
    fldsAt_logHeadSeqLo rfl

theorem registerWrite_ethWrOfs (dt : Nat) {v : Nat} (p : Port) (x : HostAux) (s : State) (hv : v < 2 ^ 20) :
    exec (.registerWrite dt p 0x15220 v true x) s =
      .next (((s.advance dt).set R.ETH_WR_OFS_TILE (v / 2 ^ 0 % 2 ^ 12)).set R.ETH_WR_OFS_BLOCK (v / 2 ^ 12 % 2 ^ 8)) :=
  exec_registerWrite_fields dt p x s (by decide) (by omega) rfl (fitsRegister_of_lt 20 hv (by decide +kernel)) rfl
    (by decide) fldsAt_ethWrOfs rfl

theorem registerWrite_logEvt (dt : Nat) {v : Nat} (p : Port) (x : HostAux) (s : State) (hv : v < 32) :
    exec (.registerWrite dt p 0x16050 v true x) s = .next
      ([R.LOG_EVT_LOST, R.LOG_EVT_FLASH_ERR, R.LOG_EVT_RAM_75, R.LOG_EVT_ERASED, R.LOG_EVT_MARK_REFUSED].foldl
        (fun s f => s.fieldWrite 0 v f) (s.advance dt)) :=
  exec_registerWrite_fields dt p x s (by decide) (by omega) rfl (fitsRegister_of_lt 5 hv (by decide +kernel)) rfl
    (by decide) fldsAt_logEvt rfl

/-- A W1C field loses the bits that the write sets (R9). -/
theorem State.fieldWrite_w1c (s : State) (b v : Nat) {f : Fld} (hf : f.acc = .w1c) :
    s.fieldWrite b v f = s.set f (s.get f b - (s.get f b &&& v / 2 ^ f.lo % 2 ^ f.width)) b := by
  unfold State.fieldWrite
  rw [hf]

/-- A write of one field changes that field at most, whatever its access code. -/
theorem State.fieldWrite_framed {ks : List Nat} {s₀ : State} (s : State) (b v : Nat) (f : Fld)
    (hf : loc f b ∈ ks ∨ noteFld f = true) (h : Framed ks s₀ s) : Framed ks s₀ (s.fieldWrite b v f) := by
  unfold State.fieldWrite
  dsimp only
  split
  case h_1 => exact h
  case h_3 => exact ite_framed (set_framed _ _ _ _ hf h) <| ite_framed (set_framed _ _ _ _ hf h) <|
    ite_framed (set_framed _ _ _ _ hf h) (set_framed _ _ _ _ hf h)
  all_goals exact set_framed _ _ _ _ hf h

/-- A write of a register changes its fields at most. -/
theorem foldl_fieldWrite_framed {ks : List Nat} {s₀ s : State} (b v : Nat) (fs : List Fld)
    (hf : ∀ f ∈ fs, loc f b ∈ ks ∨ noteFld f = true) (h : Framed ks s₀ s) :
    Framed ks s₀ (fs.foldl (fun s f => s.fieldWrite b v f) s) :=
  foldl_framed fs (fun f hfs _ => State.fieldWrite_framed _ _ _ _ (hf f hfs)) h

theorem exec_registerWrite_logEvt (dt : Nat) {v : Nat} (p : Port) (x : HostAux) (s : State) (hv : v < 32)
    (he : s.get R.LOG_EVT_ERASED < 2) (hf : s.get R.LOG_EVT_FLASH_ERR < 2) :
    ∃ t, exec (.registerWrite dt p 0x16050 v true x) s = .next t ∧
      t.get R.LOG_EVT_ERASED = (if v.testBit 3 then 0 else s.get R.LOG_EVT_ERASED) ∧
      t.get R.LOG_EVT_FLASH_ERR = (if v.testBit 1 then 0 else s.get R.LOG_EVT_FLASH_ERR) ∧
      Framed (regKeys 0 [R.LOG_EVT_FLASH_ERR, R.LOG_EVT_ERASED, R.LOG_EVT_MARK_REFUSED]) (s.advance dt) t := by
  refine ⟨_, registerWrite_logEvt dt p x s hv, ?_, ?_, ?_⟩
  · simp (disch := decide) only [List.foldl_cons, List.foldl_nil, State.fieldWrite_w1c, State.get_set_ne,
      State.get_set_same, State.advance_get]
    exact w1c_bit he 3
  · simp (disch := decide) only [List.foldl_cons, List.foldl_nil, State.fieldWrite_w1c, State.get_set_ne,
      State.get_set_same, State.advance_get]
    exact w1c_bit hf 1
  · exact foldl_fieldWrite_framed 0 v _ (by decide) (.refl _ _)

theorem exec_registerWrite_ethWrOfs (dt : Nat) {v : Nat} (p : Port) (x : HostAux) (s : State) (hv : v < 2 ^ 20) :
    ∃ t, exec (.registerWrite dt p 0x15220 v true x) s = .next t ∧ t.get R.ETH_WR_OFS_TILE = v % 4096 ∧
      t.get R.ETH_WR_OFS_BLOCK = v / 4096 ∧ Framed (regKeys 0 [R.ETH_WR_OFS_TILE, R.ETH_WR_OFS_BLOCK]) (s.advance dt) t := by
  refine ⟨_, registerWrite_ethWrOfs dt p x s hv, ?_, ?_,
    foldl_fieldWrite_framed 0 v [R.ETH_WR_OFS_TILE, R.ETH_WR_OFS_BLOCK] (by decide) (.refl _ _)⟩
  · rw [State.get_set_ne _ _ _ _ (by decide), State.get_set_same]
    show v / 2 ^ 0 % 2 ^ 12 % 2 ^ 12 = v % 4096
    omega
  · rw [State.get_set_same]
    show v / 2 ^ 12 % 2 ^ 8 % 2 ^ 8 = v / 4096
    omega

theorem exec_registerWrite_page (dt : Nat) {v : Nat} (p : Port) (x : HostAux) (s : State) (hv : v < 64) :
    ∃ t, exec (.registerWrite dt p 0x10 v true x) s = .next t ∧ t.port p = { s.port p with page := v } ∧
      t.port (if p = .spi then .pcie else .spi) = s.port (if p = .spi then .pcie else .spi) ∧ t.regs = s.regs :=
  ⟨_, registerWrite_page dt p x s hv, State.putPort_port_same _ _ _,
    (State.putPort_port_ne _ _ (otherPort_ne p)).trans (State.advance_port _ _ _), State.putPort_regs _ _ _⟩

/-! ### The staging window (R83) -/

/-- A word of the staging buffer takes a value. -/
def State.putStageWord (s : State) (i v : Nat) : State :=
  { s with mnf := { s.mnf with stage := Memory.writeWord s.mnf.stage (4 * i) v } }

/-- The staging window is written at the word that MNF_STAGE_OFS selects, in an Installer session. -/
theorem registerWrite_stageWindow (dt : Nat) {v : Nat} (p : Port) (x : HostAux) (s : State) (hv : v < 2 ^ 32) :
    exec (.registerWrite dt p 0x2800 v true x) s =
      .next ((s.advance dt).withRole p [.installer] 0x2800 (·.putStageWord (s.get R.MNF_STAGE_OFS_OFS / 4) v)) := by
  rw [exec_registerWrite_plain dt p x s (by decide) hv rfl (fitsRegister_of_lt 32 hv (by decide +kernel)) rfl]
  show Host.Outcome.next ((s.advance dt).withRole p [.installer] 0x2800
    (·.putStageWord (s.get R.MNF_STAGE_OFS_OFS / 4) (v % 2 ^ 32))) = _
  rw [Nat.mod_eq_of_lt hv]

theorem exec_registerWrite_stageWindow_denied (dt : Nat) {v : Nat} (p : Port) (x : HostAux) (s : State) (hv : v < 2 ^ 32)
    (hs : s.session p ≠ some .installer) (h3 : s.pwr.l3 ≠ 1) :
    ∃ t, exec (.registerWrite dt p 0x2800 v true x) s = .next t ∧ t.mnf.stage = s.mnf.stage ∧
      Framed [] (s.advance dt) t := by
  have hr : ∀ r, (s.advance dt).session p = some r → r ∉ [Role.installer] := by
    rintro r e hr
    exact hs (List.mem_singleton.1 hr ▸ e)
  have hf : Framed [] (s.advance dt) ((s.advance dt).rwlIgnored p 0x2800) := State.rwlIgnored_framed _ _ _ (.refl _ _)
  refine ⟨_, (registerWrite_stageWindow dt p x s hv).trans ?_,
    congrArg MnfSt.stage (State.rwlIgnored_mnf (s.advance dt) p _), hf⟩
  rw [State.withRole_denied _ _ _ _ _ hr, State.lullLeave_awake (s.advance dt) _ h3]

theorem exec_registerWrite_stageWindow_granted (dt : Nat) {v : Nat} (p : Port) (x : HostAux) (s : State) (hv : v < 2 ^ 32)
    (hs : s.session p = some .installer) (h3 : s.pwr.l3 ≠ 1) :
    ∃ t, exec (.registerWrite dt p 0x2800 v true x) s = .next t ∧
      t.mnf.stage = Memory.writeWord s.mnf.stage (4 * (s.get R.MNF_STAGE_OFS_OFS / 4)) v ∧
      t.role = { s.role with rwlAt := s.now + dt } ∧
      Framed [] { s.advance dt with role := t.role, mnf := { s.mnf with stage := t.mnf.stage } } t := by
  have hw := State.withRole_granted (s.advance dt) p [.installer] 0x2800
    (·.putStageWord (s.get R.MNF_STAGE_OFS_OFS / 4) v) .installer hs (List.mem_singleton.2 rfl)
  rw [State.lullLeave_awake (s.advance dt) _ h3] at hw
  exact ⟨_, (registerWrite_stageWindow dt p x s hv).trans (congrArg _ hw), rfl, rfl, rfl, fun _ _ _ => rfl⟩

/-! ### Writes that are dropped and counted -/

theorem exec_registerWrite_pcie_partial (dt o v : Nat) (x : HostAux) (s : State) :
    ∃ t, exec (.registerWrite dt .pcie o v false x) s = .next t ∧
      t.get R.ETH_HOST_CNT_PARTIAL_WR = (s.get R.ETH_HOST_CNT_PARTIAL_WR + 1) % 65536 ∧
      Framed [loc R.ETH_HOST_CNT_PARTIAL_WR 0] (s.advance dt) t := by
  refine ⟨_, exec_registerWrite_partial dt o v x s, ?_, State.record_framed _ _ (inc_listed_framed _ _)⟩
  rw [State.record_get _ _ _ (by decide), State.inc_eq, State.get_set_same]
  rfl

theorem exec_registerWrite_beyond (dt o v : Nat) (p : Port) (x : HostAux) (s : State) (ho : 0x40000 ≤ o / 4 * 4) :
    ∃ t, exec (.registerWrite dt p o v true x) s = .next t ∧
      t.get R.DEV_HOST_ERR_UNMAPPED = (s.get R.DEV_HOST_ERR_UNMAPPED + 1) % 65536 ∧
      Framed [loc R.DEV_HOST_ERR_UNMAPPED 0] (s.advance dt) t := by
  have hw : (s.advance dt).hostWrite p o v x = (s.advance dt).inc R.DEV_HOST_ERR_UNMAPPED := if_pos ho
  refine ⟨_, (exec_registerWrite_whole dt o v p x s).trans (by rw [hw]), ?_, inc_listed_framed _ _⟩
  rw [State.inc_eq, State.get_set_same]
  rfl

/-! ### SPI transactions (R440) -/

/-- The words of a write transaction are written one after the other, each 4 bytes further. -/
theorem State.writeWords_eq_foldl (aux : HostAux) (ws : List Nat) (s : State) (off : Nat) :
    s.writeWords aux off ws =
      (ws.foldl (fun (y : State × Nat) w => (y.1.hostWrite .spi y.2 w aux, y.2 + 4)) (s, off)).1 := by
  induction ws generalizing s off with
  | nil => rfl
  | cons w ws ih => exact ih _ _

theorem exec_spiWriteTransaction_good (dt a : Nat) (w : List Nat) (x : HostAux) (s : State) :
    exec (.spiWriteTransaction dt 2 a w 0 x) s = .next ((w.take 256).foldl
      (fun (y : State × Nat) v => (y.1.hostWrite .spi y.2 v x, y.2 + 4)) (s.advance dt, a)).1 := by
  rw [← State.writeWords_eq_foldl]
  rfl

theorem exec_spiWriteTransaction_bad (dt : Nat) {o : Nat} (a : Nat) {b : Nat} (w : List Nat) (x : HostAux) (s : State)
    (h : b ≠ 0 ∨ o ≠ 2) :
    ∃ t, exec (.spiWriteTransaction dt o a w b x) s = .next t ∧
      t.get R.ETH_HOST_CNT_SPI_BAD = (s.get R.ETH_HOST_CNT_SPI_BAD + 1) % 65536 ∧
      Framed [loc R.ETH_HOST_CNT_SPI_BAD 0] (s.advance dt) t := by
  have hbad : ¬((decide (b = 0) && decide (o = 2)) = true) := by
    simp only [Bool.and_eq_true, decide_eq_true_eq]
    omega
  refine ⟨_, if_neg hbad, ?_, State.record_framed _ _ (inc_listed_framed _ _)⟩
  rw [State.record_get _ _ _ (by decide), State.inc_eq, State.get_set_same]
  rfl

/-- A read transaction of one word answers that word. -/
theorem exec_spiReadTransaction_one (dt a : Nat) (s : State) :
    exec (.spiReadTransaction dt a 1) s =
      .next (((s.advance dt).hostRead .spi a).1.readBack .spi ((s.advance dt).hostRead .spi a).2) := rfl

@[simp] theorem State.advance_ptWords (s : State) (dt i : Nat) : (s.advance dt).ptWords i = s.ptWords i := rfl

theorem State.readBack_rdata (s : State) (p : Port) (v : Nat) : ((s.readBack p v).port p).rdata = v := by
  cases p <;> rfl

/-- A read at the foot of the point window answers word 0 of the first point of the port's page. -/
theorem State.hostRead_window (s : State) (p : Port) (h3 : s.pwr.l3 ≠ 1) :
    (s.hostRead p 0x20000).2 = (s.ptWords ((s.port p).page * 4096)).getD 0 0 := by
  show ((s.lullLeave 2).windowRead p 0).2 = _
  rw [State.lullLeave_awake _ _ h3]
  unfold State.windowRead State.winIdx
  rw [Nat.zero_mod, Nat.zero_div, Nat.add_zero, if_pos rfl]

/-- Beyond the map a read answers 0 and has no effect. -/
theorem State.hostRead_beyond (s : State) (p : Port) {a : Nat} (ha : 0x40000 ≤ a) (h3 : s.pwr.l3 ≠ 1) :
    s.hostRead p a = (s, 0) := by
  unfold State.hostRead
  dsimp only
  rw [State.lullLeave_awake _ _ h3, ite_self, if_pos (by omega)]

theorem exec_spiReadTransaction_word (dt a : Nat) (s : State) (h3 : s.pwr.l3 ≠ 1) :
    ∃ t, exec (.spiReadTransaction dt a 1) s = .next t ∧
      (t.port .spi).rdata = ((s.advance dt).hostRead .spi a).2 ∧
      (a = 0x20000 → (t.port .spi).rdata = (s.ptWords ((s.port .spi).page * 4096)).getD 0 0) ∧
      (0x40000 ≤ a → (t.port .spi).rdata = 0 ∧ t.regs = s.regs) := by
  refine ⟨_, exec_spiReadTransaction_one dt a s, State.readBack_rdata _ _ _, ?_, fun ha => ?_⟩
  · rintro rfl
    rw [State.readBack_rdata, State.hostRead_window (s.advance dt) _ h3, State.advance_port, State.advance_ptWords]
  · rw [State.readBack_rdata, State.hostRead_beyond (s.advance dt) _ ha h3]
    exact ⟨rfl, rfl⟩

/-! ### Closing a session (R83) -/

/-- The registers that closing a session clears: the session, and the eight words of a key. -/
def closeKeys : List Nat := loc R.ROLE_STAT_SESSION 0 :: (List.range 8).map fun n => loc R.ROLE_KEY_KEY n

theorem State.clearKeyWords_framed {s₀ s : State} (h : Framed closeKeys s₀ s) : Framed closeKeys s₀ s.clearKeyWords :=
  foldl_framed (List.range 8)
    (fun n hn u => set_framed u R.ROLE_KEY_KEY 0 n (.inl (List.mem_cons_of_mem _ (List.mem_map_of_mem hn)))) h

/-- Two states in a frame stay so where both take the same manifest state. -/
theorem Framed.withMnf {ks : List Nat} {s t : State} (m : MnfSt) (h : Framed ks s t) :
    Framed ks { s with mnf := m } { t with mnf := m } :=
  ⟨congrArg (fun u : State => { u with mnf := m }) h.plain, h.regs⟩

/-- Closing a session clears its registers and the wait for a reset's key, and is told of. -/
theorem State.closeSession_framed (s : State) (r : Nat) :
    Framed closeKeys { s with mnf := (s.closeSession r).mnf } (s.closeSession r) := by
  unfold State.closeSession
  dsimp only
  split
  · exact .refl _ s
  · exact .withMnf _ (State.clearKeyWords_framed
      (set_framed _ _ _ _ (.inl List.mem_cons_self) (State.record_framed s _ (.refl _ s))))

theorem State.closeSession_mus (s : State) (r : Nat) : (s.closeSession r).mus = s.mus :=
  (State.of_plain_mus (State.closeSession_framed s r).plain :)

theorem State.closeSession_pcieAt (s : State) (r : Nat) : (s.closeSession r).pcieAt = s.pcieAt :=
  (State.of_plain_pcieAt (State.closeSession_framed s r).plain :)

/-- Clearing the key words leaves the other fields. -/
theorem State.clearKeyWords_get (s : State) {f : Fld} (b : Nat) (h : fkey f ≠ fkey R.ROLE_KEY_KEY) :
    s.clearKeyWords.get f b = s.get f b := by
  simp [State.clearKeyWords, List.range_succ, State.get_set_ne _ _ _ _ h]

/-- After closing, no session is open. -/
theorem State.closeSession_session (s : State) (r : Nat) : (s.closeSession r).get R.ROLE_STAT_SESSION = 0 := by
  unfold State.closeSession
  dsimp only
  split
  · assumption
  · refine (State.clearKeyWords_get _ _ (by decide)).trans ?_
    rw [State.get_set_same, Nat.zero_mod]

/-! ### The PCIe link (R439) -/

/-- ETH_HOST_STAT shows the link: up, its generation, and its width. -/
def State.showLink (s : State) (up gen width : Nat) : State :=
  ((s.set R.ETH_HOST_STAT_PCIE_UP up).set R.ETH_HOST_STAT_PCIE_GEN gen).set R.ETH_HOST_STAT_PCIE_WIDTH width

/-- The registers that show the link. -/
abbrev linkFlds : List Fld := [R.ETH_HOST_STAT_PCIE_UP, R.ETH_HOST_STAT_PCIE_GEN, R.ETH_HOST_STAT_PCIE_WIDTH]

section
variable (s : State) (up gen width : Nat)

theorem State.showLink_up : (s.showLink up gen width).get R.ETH_HOST_STAT_PCIE_UP = up % 2 := by
  unfold State.showLink
  rw [State.get_set_ne _ _ _ _ (by decide), State.get_set_ne _ _ _ _ (by decide), State.get_set_same]
  rfl

theorem State.showLink_gen : (s.showLink up gen width).get R.ETH_HOST_STAT_PCIE_GEN = gen % 4 := by
  unfold State.showLink
  rw [State.get_set_ne _ _ _ _ (by decide), State.get_set_same]
  rfl

theorem State.showLink_width : (s.showLink up gen width).get R.ETH_HOST_STAT_PCIE_WIDTH = width % 4 :=
  State.get_set_same _ _ _ _

theorem State.showLink_session : (s.showLink up gen width).get R.ROLE_STAT_SESSION = s.get R.ROLE_STAT_SESSION := by
  unfold State.showLink
  rw [State.get_set_ne _ _ _ _ (by decide), State.get_set_ne _ _ _ _ (by decide), State.get_set_ne _ _ _ _ (by decide)]

theorem State.showLink_framed : Framed (regKeys 0 linkFlds) s (s.showLink up gen width) := by
  refine set_framed _ _ _ _ (.inl ?_) (set_framed _ _ _ _ (.inl ?_) (set_framed _ _ _ _ (.inl ?_) (.refl _ s))) <;> decide

end

/-- The link goes down; PERST_N does where it is the reason. -/
def State.linkDown (s : State) (perst : Bool) : State :=
  { s.showLink 0 0 0 with msixEnable := false, pcieAt := if perst then none else s.pcieAt
                          mus := { s.mus with perst := s.mus.perst && !perst } }

theorem State.linkDown_get (s : State) (b : Bool) (f : Fld) : (s.linkDown b).get f = (s.showLink 0 0 0).get f := rfl

/-- The session is open, and the PCIe port owns it. -/
def State.pcieSession (s : State) : Bool := s.role.owner = .pcie && s.get R.ROLE_STAT_SESSION ≠ 0

theorem Framed.linkDown {ks : List Nat} {s : State} (b : Bool) (h : Framed ks s (s.showLink 0 0 0)) : Framed ks { s with
    msixEnable := false, mus := { s.mus with perst := s.mus.perst && !b }, pcieAt := if b then none else s.pcieAt }
    (s.linkDown b) :=
  ⟨rfl, h.regs⟩

/-- PERST_N low, or a link down for more than 10 ms, closes the session of the PCIe port and takes the link down. -/
theorem exec_hostLinkReset_down (dt : Nat) {n : Nat} {b : Bool} (s : State) (h : b = true ∨ 10 < n) :
    exec (.hostLinkReset dt b n) s = .next
      (((if s.pcieSession then (s.advance dt).closeSession 3 else s.advance dt).linkDown b).record
        { code := 0x150A, items := [(1, Port.pcie.code), (1, if s.pcieSession then 1 else 0)], key := 1 }) := by
  have hd : ¬((!b && decide (n ≤ 10)) = true) := by
    rcases h with rfl | h
    · simp
    · simp [h]
  exact if_neg hd

theorem exec_hostLinkReset_short (dt : Nat) {n : Nat} (s : State) (h : n ≤ 10) :
    exec (.hostLinkReset dt false n) s = .next (s.advance dt) :=
  if_pos (by simp [h])

theorem exec_hostLinkReset_pcieSession (dt : Nat) {n : Nat} {b : Bool} (s : State) (h : b = true ∨ 10 < n)
    (ho : s.role.owner = .pcie) (hs : s.get R.ROLE_STAT_SESSION ≠ 0) :
    ∃ t, exec (.hostLinkReset dt b n) s = .next t ∧ t.get R.ROLE_STAT_SESSION = 0 ∧
      t.get R.ETH_HOST_STAT_PCIE_UP = 0 ∧ t.get R.ETH_HOST_STAT_PCIE_GEN = 0 ∧ t.get R.ETH_HOST_STAT_PCIE_WIDTH = 0 ∧
      t.msixEnable = false ∧ t.mus = { s.mus with perst := s.mus.perst && !b } ∧
      t.pcieAt = (if b then none else s.pcieAt) := by
  have hopen : s.pcieSession = true := by simp [State.pcieSession, ho, hs]
  have hget : ∀ (u : State) (e : Ev) {f : Fld}, noteFld f = false →
      ((u.linkDown b).record e).get f = (u.showLink 0 0 0).get f :=
    fun u e f hf => (State.record_get _ _ _ hf).trans (State.linkDown_get u b f)
  refine ⟨_, exec_hostLinkReset_down dt s h, ?_⟩
  rw [if_pos hopen]
  refine ⟨?_, ?_, ?_, ?_, ?_, ?_, ?_⟩
  · rw [hget _ _ (by decide), State.showLink_session, State.closeSession_session]
  · rw [hget _ _ (by decide), State.showLink_up]
  · rw [hget _ _ (by decide), State.showLink_gen]
  · rw [hget _ _ (by decide), State.showLink_width]
  · rw [State.record_msixEnable]
    rfl
  · rw [State.record_mus]
    show { ((s.advance dt).closeSession 3).mus with perst := ((s.advance dt).closeSession 3).mus.perst && !b } = _
    rw [State.closeSession_mus, State.advance_mus]
  · rw [State.record_pcieAt]
    show (if b then none else ((s.advance dt).closeSession 3).pcieAt) = _
    rw [State.closeSession_pcieAt, State.advance_pcieAt]

theorem exec_hostLinkReset_spiOwner (dt : Nat) {n : Nat} {b : Bool} (s : State) (h : b = true ∨ 10 < n)
    (ho : s.role.owner = .spi) :
    ∃ t, exec (.hostLinkReset dt b n) s = .next t ∧ t.get R.ETH_HOST_STAT_PCIE_UP = 0 ∧
      t.get R.ROLE_STAT_SESSION = s.get R.ROLE_STAT_SESSION ∧
      Framed (regKeys 0 linkFlds) { s.advance dt with
        msixEnable := false, mus := { s.mus with perst := s.mus.perst && !b }
        pcieAt := if b then none else s.pcieAt } t := by
  have hshut : ¬ s.pcieSession = true := by simp [State.pcieSession, ho]
  refine ⟨_, exec_hostLinkReset_down dt s h, ?_⟩
  rw [if_neg hshut]
  refine ⟨?_, ?_, State.record_framed _ _ ((State.showLink_framed (s.advance dt) 0 0 0).linkDown b)⟩
  · rw [State.record_get _ _ _ (by decide), State.linkDown_get, State.showLink_up]
  · rw [State.record_get _ _ _ (by decide), State.linkDown_get, State.showLink_session, State.advance_get]

/-- PERST_N is released outside DORMANT, and with it WAKE_N. -/
def State.perstReleased (s : State) : State := { s with mus := { s.mus with perst := true, wakeN := false } }

/-- The link trains: it shows, the endpoint answers 20 ms later, and the host enables MSI-X or not. -/
theorem exec_perstNRelease_trains (dt g w : Nat) (m : Bool) (s : State) (h0 : s.mode ≠ 0) (hp : s.mus.porLow = false)
    (hr : s.mus.running = true) (he : s.mus.straps.pcieEn = true) :
    exec (.perstNRelease dt g w m) s = .next { (s.advance dt).perstReleased.showLink 1 g w with
      pcieAt := some (max (s.now + dt) s.mus.at_ + 20000000), msixEnable := m } := by
  have hup : ¬(s.mus.porLow || !s.mus.running || !s.mus.straps.pcieEn) = true := by simp [hp, hr, he]
  exact (if_neg h0).trans (if_neg hup)

theorem exec_perstNRelease_link (dt g w : Nat) (m : Bool) (s : State) (h0 : s.mode ≠ 0) (hp : s.mus.porLow = false)
    (hr : s.mus.running = true) (he : s.mus.straps.pcieEn = true) :
    ∃ t, exec (.perstNRelease dt g w m) s = .next t ∧ t.get R.ETH_HOST_STAT_PCIE_UP = 1 ∧
      t.get R.ETH_HOST_STAT_PCIE_GEN = g % 4 ∧ t.get R.ETH_HOST_STAT_PCIE_WIDTH = w % 4 ∧
      t.mus = { s.mus with perst := true, wakeN := false } ∧
      t.pcieAt = some (max (s.now + dt) s.mus.at_ + 20000000) ∧ t.msixEnable = m ∧
      Framed (regKeys 0 linkFlds) { s.advance dt with mus := t.mus, pcieAt := t.pcieAt, msixEnable := t.msixEnable } t :=
  ⟨_, exec_perstNRelease_trains dt g w m s h0 hp hr he, State.showLink_up _ 1 g w, State.showLink_gen _ 1 g w,
    State.showLink_width _ 1 g w, rfl, rfl, rfl, rfl, (State.showLink_framed (s.advance dt).perstReleased 1 g w).regs⟩

theorem exec_perstNRelease_quiet (dt g w : Nat) (m : Bool) (s : State)
    (h : s.mode = 0 ∨ s.mus.porLow = true ∨ s.mus.running = false ∨ s.mus.straps.pcieEn = false) :
    exec (.perstNRelease dt g w m) s = .next { s.advance dt with
      mus := { s.mus with perst := true, wakeN := if s.mode = 0 then s.mus.wakeN else false } } := by
  by_cases h0 : s.mode = 0
  · rw [if_pos h0]
    exact if_pos h0
  · have hdown : (s.mus.porLow || !s.mus.running || !s.mus.straps.pcieEn) = true := by
      rcases h with h | h | h | h
      · exact absurd h h0
      all_goals simp [h]
    rw [if_neg h0]
    exact (if_neg h0).trans (if_pos hdown)

/-- Settles O60: each clause is the lemma of its command above; a write that is a command leaves what the command's own row
leaves. -/
theorem hostAccesses : Obligations.HostAccesses := by
  unfold Obligations.HostAccesses
  refine ⟨exec_registerWrite_pcie_partial, exec_registerWrite_beyond, fun dt v => exec_registerWrite_page dt,
    fun dt v => registerWrite_logHeadSeqLo dt, fun dt v => exec_registerWrite_ethWrOfs dt,
    fun dt v => exec_registerWrite_logEvt dt, fun dt v => exec_registerWrite_stageWindow_denied dt,
    fun dt v => exec_registerWrite_stageWindow_granted dt,
    fun dt v p x s hv => ⟨_, registerWrite_irqAck dt p x s hv,
      by rw [exec_irqAck]; exact decide_eq_true rfl⟩,
    fun dt v p x s hv => ⟨_, registerWrite_logFetchStart dt p x s hv,
      by rw [exec_logFetchStart]; exact decide_eq_true rfl⟩,
    fun dt v p x s hv => ⟨_, registerWrite_ethWrAckWrite dt p x s hv,
      by rw [exec_ethWrAckWrite]; exact decide_eq_true rfl⟩,
    fun dt v p x s hv => ⟨_, registerWrite_alarmAck dt p x s hv,
      by rw [exec_alarmAck]; exact decide_eq_true rfl⟩,
    fun dt v p x s hv => ⟨_, registerWrite_logMarkWrite dt p x s hv,
      by rw [exec_logMarkWrite]; exact decide_eq_true rfl⟩,
    fun dt v p x s hv => ⟨_, registerWrite_logErase dt p x s hv,
      by rw [exec_logErase]; exact decide_eq_true rfl⟩,
    exec_spiWriteTransaction_good, fun dt o a b => exec_spiWriteTransaction_bad dt a, exec_spiReadTransaction_word,
    fun dt n b => exec_hostLinkReset_pcieSession dt, fun dt n b => exec_hostLinkReset_spiOwner dt,
    fun dt n => exec_hostLinkReset_short dt, exec_perstNRelease_link, exec_perstNRelease_quiet⟩

end Sys2Proof.Machine
end

section
/-!
PROOF of the statement of 01_architecture.md about the faults of the architecture chapter (DeviceFaults): what a device fault
writes, what its trigger leaves alone, and what a paired active and a lone one do on it.
-/

namespace Sys2Proof.Machine

open Sys2Proof

/-- A fold keeps what each of its steps keeps. -/
theorem foldl_keeps {α β : Type} (p : State → β) (l : List α) {g : State → α → State} (hg : ∀ u x, p (g u x) = p u)
    (s : State) : p (l.foldl g s) = p s := by
  induction l generalizing s with
  | nil => rfl
  | cons x l ih => exact (ih (g s x)).trans (hg s x)

/-! ### Arming SAFE (R58) -/

theorem noteFld_of_lullKeeps {f : Fld} (h : lullKeeps f = true) : noteFld f = false := by
  rw [lullKeeps, Bool.and_eq_true] at h
  exact (Bool.not_eq_true' _).mp h.2

theorem State.safeArm_get (s : State) (c k : Nat) {f : Fld} (b : Nat) (h : lullKeeps f = true) :
    (s.safeArm c k).get f b = s.get f b := by
  unfold State.safeArm State.safeCause
  dsimp only
  split
  · rw [State.record_get _ _ _ (noteFld_of_lullKeeps h), State.lullLeave_get _ _ _ h]
  · exact State.lullLeave_get s 10 b h

/-- The first trigger decides the cause. -/
theorem State.safeArm_safePending (s : State) (c k : Nat) :
    (s.safeArm c k).mnf.safePending = s.mnf.safePending.or (some c) := by
  unfold State.safeArm State.safeCause
  dsimp only
  split <;> rename_i h <;> rw [State.lullLeave_mnf] at h
  · rw [State.record_mnf, State.lullLeave_mnf, h]
    rfl
  · rw [h]
    rfl

@[simp] theorem State.safeArm_engStopped (s : State) (c k : Nat) : (s.safeArm c k).engStopped = s.engStopped := by
  unfold State.safeArm State.safeCause
  dsimp only
  split <;> simp

@[simp] theorem State.safeArm_time (s : State) (c k : Nat) : (s.safeArm c k).time = s.time := by
  unfold State.safeArm State.safeCause
  dsimp only
  split <;> simp

/-! ### Giving up and dropping out (R57, R363) -/

theorem State.trunksOff_get (s : State) {f : Fld} (b : Nat) (hpps : fkey f ≠ fkey R.TIME_PPS_QERR_VALID)
    (hcan : fkey f ≠ fkey R.CAN_STAT_MODE) (hstb : fkey f ≠ fkey R.CAN_STAT_STB)
    (heth : fkey f ≠ fkey R.ETH_STAT_TX_ON) : s.trunksOff.get f b = s.get f b := by
  refine (foldl_keeps (·.get f b) _ (fun u x => State.get_set_ne _ _ _ _ heth) _).trans
    ((foldl_keeps (·.get f b) _ (fun u x => ?_) _).trans (State.get_set_ne s R.TIME_PPS_QERR_VALID 0 0 hpps))
  exact (State.get_set_ne _ _ _ _ hstb).trans (State.get_set_ne _ _ _ _ hcan)

/-- Beside its registers, taking the trunks off changes the level of PPS_OUT alone. -/
theorem State.trunksOff_keeps {β : Type} (p : State → β) (hset : ∀ u f v b, p (State.set u f v b) = p u)
    (htime : ∀ u c, p { u with time := { u.time with ppsHigh := c } } = p u) (s : State) : p s.trunksOff = p s :=
  (foldl_keeps p _ (fun _ _ => hset _ _ _ _) _).trans
    ((foldl_keeps p _ (fun _ _ => (hset _ _ _ _).trans (hset _ _ _ _)) _).trans ((htime _ _).trans (hset _ _ _ _)))

@[simp] theorem State.trunksOff_engStopped (s : State) : s.trunksOff.engStopped = s.engStopped :=
  State.trunksOff_keeps (·.engStopped) (fun _ _ _ _ => rfl) (fun _ _ => rfl) s

@[simp] theorem State.trunksOff_mnf (s : State) : s.trunksOff.mnf = s.mnf :=
  State.trunksOff_keeps (·.mnf) (fun _ _ _ _ => rfl) (fun _ _ => rfl) s

@[simp] theorem State.trunksOff_rtcMain (s : State) : s.trunksOff.time.rtcMain = s.time.rtcMain :=
  State.trunksOff_keeps (·.time.rtcMain) (fun _ _ _ _ => rfl) (fun _ _ => rfl) s

@[simp] theorem State.giveUp_engStopped (s : State) (c : Nat) : (s.giveUp c).engStopped = s.engStopped := by
  simp [State.giveUp, State.inc_eq]

@[simp] theorem State.giveUp_safePending (s : State) (c : Nat) :
    (s.giveUp c).mnf.safePending = s.mnf.safePending := by
  simp [State.giveUp, State.inc_eq]

@[simp] theorem State.giveUp_rtcMain (s : State) (c : Nat) : (s.giveUp c).time.rtcMain = s.time.rtcMain := by
  simp [State.giveUp, State.inc_eq]

@[simp] theorem State.dropOut_engStopped (s : State) : s.dropOut.engStopped = s.engStopped := by simp [State.dropOut]

@[simp] theorem State.dropOut_rtcMain (s : State) : s.dropOut.time.rtcMain = s.time.rtcMain := by simp [State.dropOut]

/-- The registers before the trunks go off, as giving up leaves them. -/
theorem State.giveUp_get (s : State) (c : Nat) {f : Fld} (hf : noteFld f = false)
    (hev : fkey f ≠ fkey R.TWIN_EVT_HANDOVER) (hpps : fkey f ≠ fkey R.TIME_PPS_QERR_VALID)
    (hcan : fkey f ≠ fkey R.CAN_STAT_MODE) (hstb : fkey f ≠ fkey R.CAN_STAT_STB) (heth : fkey f ≠ fkey R.ETH_STAT_TX_ON)
    (b : Nat) : (s.giveUp c).get f b = (((((((((s.set R.TWIN_STAT_ACTIVE_OUT 0).set R.TWIN_STAT_PEER_OK_OUT 0).set
      R.TWIN_STAT_STATE 6).set R.MODE_STAT_ACTIVE 0).set R.MODE_STAT_PAIRED 0).set R.DEV_STAT_DRIVES_NOTHING 1).set
      R.TWIN_HO_CAUSE c).set R.TWIN_HO_GAINED 0).inc R.TWIN_COUNT_HANDOVERS).get f b :=
  (State.record_get _ _ _ hf).trans ((State.evt_get_ne _ _ _ hf hev).trans
    (State.trunksOff_get _ b hpps hcan hstb heth))

/-- What a device that gave up shows: it drives nothing, is neither active nor paired, and names the cause. -/
theorem State.giveUp_shows (s : State) (c : Nat) : (s.giveUp c).get R.TWIN_STAT_ACTIVE_OUT = 0 ∧
    (s.giveUp c).get R.TWIN_STAT_STATE = 6 ∧ (s.giveUp c).get R.MODE_STAT_ACTIVE = 0 ∧
    (s.giveUp c).get R.MODE_STAT_PAIRED = 0 ∧ (s.giveUp c).get R.DEV_STAT_DRIVES_NOTHING = 1 ∧
    (s.giveUp c).get R.TWIN_HO_CAUSE = c % 2 ^ R.TWIN_HO_CAUSE.width := by
  refine ⟨?_, ?_, ?_, ?_, ?_, ?_⟩ <;>
  · rw [State.giveUp_get _ _ (by decide) (by decide) (by decide) (by decide) (by decide) (by decide), State.inc_eq]
    repeat rw [State.get_set_ne _ _ _ _ (by decide)]
    exact State.get_set_same _ _ _ _

/-! ### What a trigger leaves alone (R56 to R58, R362, R363) -/

/-- The registers that a trigger writes: giving up, dropping out, and leaving LULL3. -/
def triggerFlds : List Fld :=
  [R.TWIN_STAT_ACTIVE_OUT, R.TWIN_STAT_PEER_OK_OUT, R.TWIN_STAT_STATE, R.MODE_STAT_ACTIVE, R.MODE_STAT_PAIRED,
   R.DEV_STAT_DRIVES_NOTHING, R.TWIN_HO_CAUSE, R.TWIN_HO_GAINED, R.TWIN_COUNT_HANDOVERS, R.TWIN_EVT_HANDOVER,
   R.TIME_PPS_QERR_VALID, R.CAN_STAT_MODE, R.CAN_STAT_STB, R.ETH_STAT_TX_ON] ++ lullFlds

/-- A field that a trigger leaves alone. -/
def triggerKeeps (f : Fld) : Bool := !(triggerFlds.map fkey).contains (fkey f) && !noteFld f

theorem triggerKeeps_ne {f g : Fld} (h : triggerKeeps f = true) (hg : g ∈ triggerFlds) : fkey f ≠ fkey g := by
  intro e
  have hc : (triggerFlds.map fkey).contains (fkey f) = true :=
    List.contains_iff_mem.2 (e ▸ List.mem_map_of_mem hg)
  rw [triggerKeeps, hc] at h
  cases h

theorem noteFld_of_triggerKeeps {f : Fld} (h : triggerKeeps f = true) : noteFld f = false := by
  rw [triggerKeeps, Bool.and_eq_true] at h
  exact (Bool.not_eq_true' _).mp h.2

theorem lullKeeps_of_triggerKeeps {f : Fld} (h : triggerKeeps f = true) : lullKeeps f = true := by
  have hl : (lullFlds.map fkey).contains (fkey f) = false := by
    refine Bool.eq_false_iff.2 fun hc => ?_
    obtain ⟨g, hg, e⟩ := List.mem_map.1 (List.contains_iff_mem.1 hc)
    exact triggerKeeps_ne h (List.mem_append_right _ hg) e.symm
  rw [lullKeeps, hl, noteFld_of_triggerKeeps h]
  rfl

section
variable (s : State) {f : Fld} (b : Nat) (h : triggerKeeps f = true)
include h

theorem State.giveUp_keeps (c : Nat) : (s.giveUp c).get f b = s.get f b := by
  have hne {g : Fld} (hg : g ∈ triggerFlds) : fkey f ≠ fkey g := triggerKeeps_ne h hg
  rw [State.giveUp_get s c (noteFld_of_triggerKeeps h) (hne (by decide)) (hne (by decide)) (hne (by decide))
    (hne (by decide)) (hne (by decide)), State.inc_eq]
  repeat rw [State.get_set_ne _ _ _ _ (hne (by decide))]

theorem State.dropOut_keeps : s.dropOut.get f b = s.get f b := by
  have hne {g : Fld} (hg : g ∈ triggerFlds) : fkey f ≠ fkey g := triggerKeeps_ne h hg
  refine (State.trunksOff_get _ b (hne (by decide)) (hne (by decide)) (hne (by decide)) (hne (by decide))).trans ?_
  repeat rw [State.get_set_ne _ _ _ _ (hne (by decide))]

/-- A trigger leaves every other field, whatever it takes the device to. -/
theorem State.trigger_keeps (cause alone kind : Nat) : (s.trigger cause alone kind).get f b = s.get f b := by
  have hl := lullKeeps_of_triggerKeeps h
  unfold State.trigger
  split
  · exact State.record_get _ _ _ (noteFld_of_triggerKeeps h)
  split
  · rfl
  split
  · rw [State.safeArm_get _ _ _ b hl, State.giveUp_keeps s b h]
  split
  · exact State.safeArm_get _ _ _ b hl
  · rw [State.safeArm_get _ _ _ b hl, State.dropOut_keeps s b h]

end

@[simp] theorem State.trigger_engStopped (s : State) (cause alone kind : Nat) :
    (s.trigger cause alone kind).engStopped = s.engStopped := by
  unfold State.trigger State.safeCause
  split_ifs <;> simp

@[simp] theorem State.trigger_rtcMain (s : State) (cause alone kind : Nat) :
    (s.trigger cause alone kind).time.rtcMain = s.time.rtcMain := by
  unfold State.trigger State.safeCause
  split_ifs <;> simp

theorem State.mode_ne_safe_of_inService {s : State} (h : s.inService = true) : s.mode ≠ 5 := by
  intro e
  simp [State.inService, e] at h

/-- A paired active gives up before it goes to SAFE. -/
theorem State.trigger_of_pairedActive {s : State} (hs : s.inService = true) (ha : s.isActive = true)
    (hp : s.isPaired = true) (cause alone kind : Nat) :
    s.trigger cause alone kind = (s.giveUp cause).safeArm 7 cause := by
  simp [State.trigger, State.mode_ne_safe_of_inService hs, hs, ha, hp]

/-- A lone active goes to SAFE. -/
theorem State.trigger_of_loneActive {s : State} (hs : s.inService = true) (ha : s.isActive = true)
    (hp : s.isPaired = false) (cause alone kind : Nat) :
    s.trigger cause alone kind = s.safeArm alone kind := by
  simp [State.trigger, State.mode_ne_safe_of_inService hs, hs, ha, hp]

/-! ### Device faults (R20, R362) -/

section
variable (s : State) (cause unit : Nat)

/-- The note of a fault writes DEV_FAULT and its event bit. -/
theorem State.faultNote_get {f : Fld} (b : Nat) (hf : noteFld f = false) (hc : fkey f ≠ fkey R.DEV_FAULT_CAUSE)
    (hu : fkey f ≠ fkey R.DEV_FAULT_UNIT) (hn : fkey f ≠ fkey R.DEV_FAULT_COUNT) (he : fkey f ≠ fkey R.DEV_EVT_FAULT) :
    (s.faultNote cause unit).get f b = s.get f b := by
  simp [State.faultNote, State.incSat_eq, hf, hc, hu, hn, he]

@[simp] theorem State.faultNote_mnf : (s.faultNote cause unit).mnf = s.mnf := by
  simp [State.faultNote, State.incSat_eq]

@[simp] theorem State.faultNote_engStopped : (s.faultNote cause unit).engStopped = s.engStopped := by
  simp [State.faultNote, State.incSat_eq]

@[simp] theorem State.faultNote_time : (s.faultNote cause unit).time = s.time := by
  simp [State.faultNote, State.incSat_eq]

theorem State.faultNote_inService : (s.faultNote cause unit).inService = s.inService := by
  unfold State.inService State.mode
  rw [State.faultNote_get _ _ _ _ (by decide) (by decide) (by decide) (by decide) (by decide),
    State.faultNote_get _ _ _ _ (by decide) (by decide) (by decide) (by decide) (by decide)]

theorem State.faultNote_isActive : (s.faultNote cause unit).isActive = s.isActive := by
  unfold State.isActive State.flag
  rw [State.faultNote_get _ _ _ _ (by decide) (by decide) (by decide) (by decide) (by decide)]

theorem State.faultNote_isPaired : (s.faultNote cause unit).isPaired = s.isPaired := by
  unfold State.isPaired State.flag
  rw [State.faultNote_get _ _ _ _ (by decide) (by decide) (by decide) (by decide) (by decide)]

/-- DEV_FAULT after a device fault: the cause, the unit, and the event bit. -/
theorem State.deviceFault_shows : (s.deviceFault cause unit).get R.DEV_FAULT_CAUSE = cause % 2 ^ R.DEV_FAULT_CAUSE.width ∧
    (s.deviceFault cause unit).get R.DEV_FAULT_UNIT = unit % 2 ^ R.DEV_FAULT_UNIT.width ∧
    (s.deviceFault cause unit).get R.DEV_EVT_FAULT = 1 := by
  unfold State.deviceFault
  rw [State.trigger_keeps _ _ (by decide), State.trigger_keeps _ _ (by decide), State.trigger_keeps _ _ (by decide)]
  unfold State.faultNote
  rw [State.incSat_eq]
  refine ⟨?_, ?_, ?_⟩
  · rw [State.record_get _ _ _ (by decide), State.evt_get_ne _ _ _ (by decide) (by decide),
      State.get_set_ne _ _ _ _ (by decide), State.get_set_ne _ _ _ _ (by decide), State.get_set_same]
  · rw [State.record_get _ _ _ (by decide), State.evt_get_ne _ _ _ (by decide) (by decide),
      State.get_set_ne _ _ _ _ (by decide), State.get_set_same]
  · rw [State.record_get _ _ _ (by decide)]
    exact State.evt_get_same _ _ _ (by decide)

theorem State.deviceFault_mode : (s.deviceFault cause unit).mode = s.mode := by
  unfold State.deviceFault State.mode
  rw [State.trigger_keeps _ _ (by decide),
    State.faultNote_get _ _ _ _ (by decide) (by decide) (by decide) (by decide) (by decide)]

@[simp] theorem State.deviceFault_engStopped : (s.deviceFault cause unit).engStopped = s.engStopped := by
  simp [State.deviceFault]

@[simp] theorem State.deviceFault_rtcMain : (s.deviceFault cause unit).time.rtcMain = s.time.rtcMain := by
  simp [State.deviceFault]

end

/-- A device fault of a paired active: it gives up, and SAFE waits with cause 7. -/
theorem State.deviceFault_of_pairedActive {s : State} (hs : s.inService = true) (ha : s.isActive = true)
    (hp : s.isPaired = true) (cause unit : Nat) :
    s.deviceFault cause unit = ((s.faultNote cause unit).giveUp cause).safeArm 7 cause :=
  State.trigger_of_pairedActive (by rw [State.faultNote_inService, hs]) (by rw [State.faultNote_isActive, ha])
    (by rw [State.faultNote_isPaired, hp]) cause 6 cause

/-- A device fault of a lone active: SAFE waits with cause 6. -/
theorem State.deviceFault_of_loneActive {s : State} (hs : s.inService = true) (ha : s.isActive = true)
    (hp : s.isPaired = false) (cause unit : Nat) :
    s.deviceFault cause unit = (s.faultNote cause unit).safeArm 6 cause :=
  State.trigger_of_loneActive (by rw [State.faultNote_inService, hs]) (by rw [State.faultNote_isActive, ha])
    (by rw [State.faultNote_isPaired, hp]) cause 6 cause

/-! ### The commands -/

/-- The engine is one of those stopped. -/
def State.engineStop (s : State) (e : Nat) : State :=
  { s with engStopped := if e ∈ s.engStopped then s.engStopped else e :: s.engStopped }

theorem exec_engineLockstepMismatch (dt e : Nat) (s : State) :
    exec (.engineLockstepMismatch dt e) s = .next (((s.advance dt).engineStop e).deviceFault 1 e) := rfl

theorem mem_engineStop_iff (s : State) (e x : Nat) : x ∈ (s.engineStop e).engStopped ↔ x = e ∨ x ∈ s.engStopped := by
  unfold State.engineStop
  split
  · rename_i h
    exact ⟨.inr, fun hx => hx.elim (· ▸ h) id⟩
  · exact List.mem_cons

theorem engineLockstepMismatch_records (dt e : Nat) (s : State) :
    ∃ t, exec (.engineLockstepMismatch dt e) s = .next t ∧ e ∈ t.engStopped ∧
      (∀ x ∈ s.engStopped, x ∈ t.engStopped) ∧ t.get R.DEV_FAULT_CAUSE = 1 ∧
      t.get R.DEV_FAULT_UNIT = e % 2 ^ R.DEV_FAULT_UNIT.width ∧ t.get R.DEV_EVT_FAULT = 1 ∧ t.mode = s.mode := by
  obtain ⟨hcause, hunit, hevt⟩ := ((s.advance dt).engineStop e).deviceFault_shows 1 e
  refine ⟨_, exec_engineLockstepMismatch dt e s, ?_, fun x hx => ?_, hcause, hunit, hevt, State.deviceFault_mode _ 1 e⟩
  · rw [State.deviceFault_engStopped]
    exact (mem_engineStop_iff _ e e).2 (.inl rfl)
  · rw [State.deviceFault_engStopped]
    exact (mem_engineStop_iff _ e x).2 (.inr hx)

theorem engineLockstepMismatch_pairedActive (dt e : Nat) (s : State) (hs : s.inService = true) (ha : s.isActive = true)
    (hp : s.isPaired = true) :
    ∃ t, exec (.engineLockstepMismatch dt e) s = .next t ∧ t.get R.TWIN_STAT_ACTIVE_OUT = 0 ∧
      t.get R.TWIN_STAT_STATE = 6 ∧ t.isActive = false ∧ t.isPaired = false ∧ t.get R.DEV_STAT_DRIVES_NOTHING = 1 ∧
      t.get R.TWIN_HO_CAUSE = 1 ∧
      t.mnf.safePending = (match s.mnf.safePending with | some c => some c | none => some 7) := by
  refine ⟨_, exec_engineLockstepMismatch dt e s, ?_⟩
  rw [State.deviceFault_of_pairedActive (s := (s.advance dt).engineStop e) hs ha hp]
  obtain ⟨hout, hstate, hact, hpair, hdrives, hcause⟩ := (((s.advance dt).engineStop e).faultNote 1 e).giveUp_shows 1
  refine ⟨?_, ?_, ?_, ?_, ?_, ?_, ?_⟩
  · rw [State.safeArm_get _ _ _ _ (by decide), hout]
  · rw [State.safeArm_get _ _ _ _ (by decide), hstate]
  · rw [State.isActive, State.flag, State.safeArm_get _ _ _ _ (by decide), hact]
    rfl
  · rw [State.isPaired, State.flag, State.safeArm_get _ _ _ _ (by decide), hpair]
    rfl
  · rw [State.safeArm_get _ _ _ _ (by decide), hdrives]
  · rw [State.safeArm_get _ _ _ _ (by decide), hcause]
    rfl
  · rw [State.safeArm_safePending, State.giveUp_safePending, State.faultNote_mnf]
    show s.mnf.safePending.or (some 7) = _
    cases s.mnf.safePending <;> rfl

theorem engineLockstepMismatch_loneActive (dt e : Nat) (s : State) (hs : s.inService = true) (ha : s.isActive = true)
    (hp : s.isPaired = false) :
    ∃ t, exec (.engineLockstepMismatch dt e) s = .next t ∧ t.isActive = true ∧
      t.mnf.safePending = (match s.mnf.safePending with | some c => some c | none => some 6) := by
  refine ⟨_, exec_engineLockstepMismatch dt e s, ?_⟩
  rw [State.deviceFault_of_loneActive (s := (s.advance dt).engineStop e) hs ha hp]
  refine ⟨?_, ?_⟩
  · rw [State.isActive, State.flag, State.safeArm_get _ _ _ _ (by decide)]
    exact (State.faultNote_isActive ((s.advance dt).engineStop e) 1 e).trans ha
  · rw [State.safeArm_safePending, State.faultNote_mnf]
    show s.mnf.safePending.or (some 6) = _
    cases s.mnf.safePending <;> rfl

/-- An uncorrectable error outside the GNSS region and the island is a device fault of cause 3. -/
theorem exec_eccUncorrectable_fault (dt u : Nat) {m : MemKind} (s : State)
    (hm : m ∈ [MemKind.engine, .scratch, .shared, .retention, .dram]) :
    exec (.eccUncorrectable dt m u) s = .next ((s.advance dt).deviceFault 3 u) := by
  cases m with
  | engine | scratch | shared | retention | dram => rfl
  | retGnss | island => exact absurd hm (by decide)

theorem eccUncorrectable_retGnss (dt u : Nat) (s : State) :
    ∃ t, exec (.eccUncorrectable dt .retGnss u) s = .next t ∧ t.gnssRet = none ∧
      t.get R.DEV_FAULT_COUNT = s.get R.DEV_FAULT_COUNT ∧ t.mode = s.mode := by
  have hkeep {f : Fld} (hf : noteFld f = false) (hb : fkey f ≠ fkey R.GNSS_EVT_RETAIN_BAD) :
      ((s.advance dt).gnssDiscard 0).get f = s.get f :=
    (State.record_get _ _ _ hf).trans (State.evt_get_ne _ _ _ hf hb)
  refine ⟨(s.advance dt).gnssDiscard 0, rfl, ?_, hkeep (by decide) (by decide), hkeep (by decide) (by decide)⟩
  rw [State.gnssDiscard, State.record_gnssRet, State.evt_gnssRet]

theorem exec_eccCorrection_counts (dt : Nat) (m : MemKind) (s : State) (hm : m ≠ .scratch) :
    exec (.eccCorrection dt m) s =
      .next { s.advance dt with eccFixed := tput s.eccFixed (memIdx m) (tget s.eccFixed (memIdx m) 0 + 1) } := by
  cases m with
  | scratch => exact absurd rfl hm
  | engine | shared | retGnss | retention | island | dram => rfl

theorem eccCorrection_scratch (dt : Nat) (s : State) :
    ∃ t, exec (.eccCorrection dt .scratch) s = .next t ∧
      t.get R.YUZ_ECC_CORRECTED = (s.get R.YUZ_ECC_CORRECTED + 1) % 2 ^ R.YUZ_ECC_CORRECTED.width ∧
      Framed [loc R.YUZ_ECC_CORRECTED 0]
        { s.advance dt with eccFixed := tput s.eccFixed 1 (tget s.eccFixed 1 0 + 1) } t :=
  ⟨_, rfl, State.get_set_same _ _ _ _, inc_listed_framed
    { s.advance dt with eccFixed := tput s.eccFixed 1 (tget s.eccFixed 1 0 + 1) } R.YUZ_ECC_CORRECTED⟩

theorem exec_clockMonitorWindow_off (dt : Nat) {c : List (FastDomain × Nat)} (s : State) (h : c.any countOff = true) :
    exec (.clockMonitorWindow dt c) s = .next ((s.advance dt).deviceFault 4 0xFFFF) := if_pos h

theorem exec_clockMonitorWindow_good (dt : Nat) (c : List (FastDomain × Nat)) (s : State) (h : c.any countOff = false) :
    exec (.clockMonitorWindow dt c) s = .next (s.advance dt) := if_neg (Bool.eq_false_iff.1 h)

theorem xtal32kLoss_records (dt : Nat) (s : State) :
    ∃ t, exec (.xtal32kLoss dt) s = .next t ∧ t.time.rtcMain = true ∧ t.get R.DEV_FAULT_CAUSE = 4 ∧
      t.get R.DEV_EVT_FAULT = 1 := by
  obtain ⟨hcause, -, hevt⟩ :=
    State.deviceFault_shows { s.advance dt with time := { (s.advance dt).time with rtcMain := true } } 4 0xFFFF
  exact ⟨_, rfl, State.deviceFault_rtcMain _ 4 0xFFFF, hcause, hevt⟩

theorem exec_networkPriorityAging_served (dt p w : Nat) (s : State) (h : 2048 ≤ w) :
    exec (.networkPriorityAging dt p w) s =
      .next { s.advance dt with netAged := tput s.netAged p (tget s.netAged p 0 + 1) } := if_neg (Nat.not_lt.2 h)

theorem exec_networkPriorityAging_waits (dt p w : Nat) (s : State) (h : w < 2048) :
    exec (.networkPriorityAging dt p w) s = .next (s.advance dt) := if_pos h

/-- Settles O15: each clause is the lemma of its command above; the faults of memories and clocks read what
`State.deviceFault_shows` says. -/
theorem deviceFaults : Obligations.DeviceFaults := by
  unfold Obligations.DeviceFaults
  refine ⟨engineLockstepMismatch_records, engineLockstepMismatch_pairedActive, engineLockstepMismatch_loneActive,
    fun dt u m s hm => ⟨_, exec_eccUncorrectable_fault dt u s hm, State.deviceFault_shows _ 3 u⟩,
    eccUncorrectable_retGnss, exec_eccCorrection_counts, eccCorrection_scratch,
    fun dt c s h => ⟨_, exec_clockMonitorWindow_off dt s h, State.deviceFault_shows _ 4 0xFFFF⟩,
    exec_clockMonitorWindow_good, xtal32kLoss_records, exec_networkPriorityAging_served,
    exec_networkPriorityAging_waits⟩

end Sys2Proof.Machine
end

section
/-!
PROOF that two statements of 01_architecture.md fail (MusterPhases, GridBoundaries): for each of them, the clause, and a state
that meets its hypotheses and that the model takes elsewhere.
-/

namespace Sys2Proof.Machine

open Sys2Proof

/-! ### DRAM training with the depth of LULL3 shown (R19, R446, R453) -/

/-- MUSTER in HEADER, with PWR_STAT showing the depth of LULL3 and one record lost at a full hold area. -/
def musterAtLullDepth : State :=
  { ((State.reset.set R.MODE_STAT_MODE 1).set R.MODE_STAT_PHASE 2).set R.PWR_STAT_DEPTH 3 with log := { lostHold := 1 } }

/-- The record of the loss finds no RAM ring at that depth, so it is held: the hold area is not empty after the training. -/
theorem dramTrainingDone_musterAtLullDepth_holds :
    (after musterAtLullDepth (exec (.dramTrainingDone 5 2 true) musterAtLullDepth)).log.hold ≠ [] := by decide +kernel

/-- Refutes O7: the clause of DRAM_TRAINING_DONE says that the hold area is empty, and its hypotheses allow PWR_STAT.DEPTH to
read 3, where the DRAM takes no record: the record of what the hold area lost then enters the hold area itself. -/
theorem not_musterPhases : ¬ Obligations.MusterPhases := by
  intro h
  obtain ⟨-, -, -, -, -, hdram, -⟩ := h
  obtain ⟨t, ht, -, -, hhold, -⟩ :=
    hdram 5 2 musterAtLullDepth (by decide) (.inl (by decide)) (by decide) (.inl rfl)
  have hheld := dramTrainingDone_musterAtLullDepth_holds
  rw [ht] at hheld
  exact hheld hhold

/-! ### A stale point that a writer of the frame writes (R36, R348) -/

/-- READY on a device with an island, whose manifest has one point: the island's own frame point 0x0700_0000, last written a
second ago. -/
def islandPointAged : State :=
  { State.reset.set R.MODE_STAT_MODE 2 with
    now := 1000000000
    isl := { present := true }
    man := { points := [{ addr := 0x07000000, staleMs := 5 }] }
    pts := [(0, { written := true, stale := false })] }

/-- The island writes its point at the frame boundary, ahead of the staleness check: the point is fresh. -/
theorem frameBoundary_islandPointAged_fresh :
    ((after islandPointAged (exec (.frameBoundary 5) islandPointAged)).pt 0).stale = false := by decide +kernel

/-- Refutes O5: the clause of staleness says that an aged point reads STALE after FRAME_BOUNDARY, and its hypotheses allow the
point to be one that the safety island writes at that boundary. -/
theorem not_gridBoundaries : ¬ Obligations.GridBoundaries := by
  intro h
  obtain ⟨-, -, -, hstale, -⟩ := h
  obtain ⟨t, ht, haged, -⟩ := hstale 5 { addr := 0x07000000, staleMs := 5 } islandPointAged (by decide) (by decide)
    (by decide) (by decide) rfl (by decide) (by decide) (by decide)
  have hfresh := frameBoundary_islandPointAged_fresh
  rw [ht] at hfresh
  exact absurd (haged.symm.trans hfresh) (by decide)

end Sys2Proof.Machine
end

section
/-!
PROOF of the statement of 01_architecture.md about loop ticks (LoopTicks): what the work of a tick leaves alone, block by block;
then the tick itself, the encoder and PWM events, and the reads that latch.
-/

namespace Sys2Proof.Machine

open Sys2Proof

/-! ### What the work of a tick leaves alone -/

/-- The mode, the clocks, power and MUSTER, and the loop grid's own data: a tick's work reads them and writes none of them. -/
structure TickView where
  mode : Nat
  tick : Nat
  now : Nat
  time : TimeSt
  pwr : PwrSt
  mus : MusterSt
  hull : List HullSet
  hullNext : Option (List HullSet)
  tickAt : Nat
  tickNs : Nat

def State.tickView (s : State) : TickView :=
  { mode := s.mode, tick := s.tick, now := s.now, time := s.time, pwr := s.pwr, mus := s.mus, hull := s.loop.hull,
    hullNext := s.loop.hullNext, tickAt := s.loop.tickAt, tickNs := s.loop.tickNs }

/-- What is told of a command leaves the view. -/
theorem Framed.tickView_eq {s t : State} (h : Framed [] s t) : t.tickView = s.tickView := by
  have hmode : t.mode = s.mode := by
    unfold State.mode State.get tget
    rw [h.regs _ List.not_mem_nil (by decide)]
  unfold State.tickView
  rw [hmode, State.of_plain_tick h.plain, State.of_plain_now h.plain, State.of_plain_time h.plain,
    State.of_plain_pwr h.plain, State.of_plain_mus h.plain, State.of_plain_loop h.plain]

/-! #### Registers and what is told -/

section
variable (s : State) {f : Fld} (b : Nat)

@[simp] theorem State.record_tickView (e : Ev) : (s.record e).tickView = s.tickView :=
  (State.record_framed s e (.refl _ s)).tickView_eq

@[simp] theorem State.send_tickView (n kind origin : Nat) (payload : List Nat) (pm : Pm) :
    (s.send n kind origin payload pm).tickView = s.tickView :=
  (State.send_framed s n kind origin payload pm (.refl _ s)).tickView_eq

@[simp] theorem State.hostEnv_tickView (n : Nat) (words : List Nat) (pm : Pm) :
    (s.hostEnv n words pm).tickView = s.tickView :=
  (State.hostEnv_framed s n words pm (.refl _ s)).tickView_eq

@[simp] theorem State.result_tickView (block kind target result tag : Nat) (role : Role) (keyId recSeq : Nat) :
    (s.result block kind target result tag role keyId recSeq).tickView = s.tickView :=
  (State.result_framed s block kind target result tag role keyId recSeq (.refl _ s)).tickView_eq

@[simp] theorem State.raise_tickView (src : Nat) : (s.raise src).tickView = s.tickView :=
  (State.raise_framed s src (.refl _ s)).tickView_eq

section
variable (h : fkey R.MODE_STAT_MODE ≠ fkey f)
include h

@[simp] theorem State.set_tickView (v : Nat) : (s.set f v b).tickView = s.tickView := by
  unfold State.tickView State.mode
  rw [State.get_set_ne _ _ _ _ h]
  rfl

@[simp] theorem State.setI_tickView (v : Int) : (s.setI f v b).tickView = s.tickView := s.set_tickView b h _
@[simp] theorem State.setQ_tickView (x : Rat) : (s.setQ f x b).tickView = s.tickView := s.set_tickView b h _
@[simp] theorem State.setU_tickView (x : Rat) : (s.setU f x b).tickView = s.tickView := s.set_tickView b h _
@[simp] theorem State.setB_tickView (c : Bool) : (s.setB f c b).tickView = s.tickView := s.set_tickView b h _
@[simp] theorem State.inc_tickView (n : Nat) : (s.inc f b n).tickView = s.tickView := s.set_tickView b h _
@[simp] theorem State.setSat_tickView (v : Nat) : (s.setSat f v b).tickView = s.tickView := s.set_tickView b h _

@[simp] theorem State.evt_tickView : (s.evt f b).tickView = s.tickView :=
  (State.raise_tickView _ _).trans (s.set_tickView b h 1)

end

end

/-! #### The tables of the blocks -/

section
variable (s : State) (n : Nat)

@[simp] theorem State.putCell_tickView (c : CellSt) : (s.putCell n c).tickView = s.tickView := rfl
@[simp] theorem State.putEnc_tickView (e : EncSt) : (s.putEnc n e).tickView = s.tickView := rfl
@[simp] theorem State.putPwm_tickView (p : PwmSt) : (s.putPwm n p).tickView = s.tickView := rfl
@[simp] theorem State.putFn_tickView (x : FnSt) : (s.putFn n x).tickView = s.tickView := rfl
@[simp] theorem State.putConv_tickView (c : ConvSt) : (s.putConv n c).tickView = s.tickView := rfl
@[simp] theorem State.putClp_tickView (c : ClpSt) : (s.putClp n c).tickView = s.tickView := rfl
@[simp] theorem State.putStep_tickView (c : StepSt) : (s.putStep n c).tickView = s.tickView := rfl
@[simp] theorem State.putCan_tickView (c : CanSt) : (s.putCan n c).tickView = s.tickView := rfl
@[simp] theorem State.putEth_tickView (e : EthSt) : (s.putEth n e).tickView = s.tickView := rfl

end

/-! #### Points -/

@[simp] theorem State.putPoint_tickView (s : State) (i value : Nat) (pm : Pm) (q : Quality) :
    (s.putPoint i value pm q).tickView = s.tickView := by
  unfold State.putPoint
  split
  · rfl
  · dsimp only
    split
    · rfl
    · exact State.send_tickView _ _ _ _ _ _

@[simp] theorem State.putNum_tickView (s : State) (i : Nat) (x : Rat) (q : Quality) :
    (s.putNum i x q).tickView = s.tickView := by
  unfold State.putNum
  split <;> simp

@[simp] theorem State.putAddr_tickView (s : State) (addr value : Nat) (q : Quality) :
    (s.putAddr addr value q).tickView = s.tickView := by
  unfold State.putAddr
  split <;> simp

@[simp] theorem State.putAll_tickView (s : State) (base : Nat) (vals : List Nat) (q : Quality) :
    (s.putAll base vals q).tickView = s.tickView :=
  foldl_keeps State.tickView _ (fun u _ => u.putAddr_tickView _ _ _) s

theorem State.applyInputs_tickView (s : State) (budget : Nat) (l : List Input) :
    (s.applyInputs budget l).tickView = s.tickView := by
  induction l generalizing s budget with
  | nil => rfl
  | cons i l ih =>
    unfold State.applyInputs
    split
    · rfl
    · split <;> simp [ih]

@[simp] theorem State.endTick_tickView (s : State) : s.endTick.tickView = s.tickView :=
  calc s.endTick.tickView
    _ = (s.applyInputs (6144 - s.fixedBytes) s.inbox).tickView :=
      (State.setSat_tickView _ _ (by decide) _).trans (State.setSat_tickView _ _ (by decide) _)
    _ = s.tickView := State.applyInputs_tickView _ _ _

@[simp] theorem State.swapIn_tickView (s : State) (l : List Input) : (s.swapIn l).tickView = s.tickView := by
  refine foldl_keeps State.tickView l (fun u x => ?_) s
  cases x with
  | point i v pm q => exact State.putPoint_tickView _ _ _ _ _
  | env | host => rfl

@[simp] theorem State.gridTick_tickView (s : State) : s.gridTick.tickView = s.tickView := by
  unfold State.gridTick
  split
  · rfl
  · exact State.setI_tickView _ _ (by decide) _

/-! #### Cells, converters and machine functions -/

@[simp] theorem State.encMove_tickView (s : State) (n : Nat) (m : Int) : (s.encMove n m).tickView = s.tickView := rfl

@[simp] theorem State.encCapture_tickView (s : State) (n c : Nat) : (s.encCapture n c).tickView = s.tickView := by
  simp (disch := decide) [State.encCapture]

@[simp] theorem State.cascadeLatch_tickView (s : State) (n : Nat) (x : CellCfg) :
    (s.cascadeLatch n x).tickView = s.tickView := by
  unfold State.cascadeLatch
  split
  · simp [apply_ite State.tickView]
  · rfl

@[simp] theorem State.adcTick_tickView (s : State) : s.adcTick.tickView = s.tickView :=
  foldl_keeps State.tickView _ (fun u x => by simp (disch := decide) [apply_ite State.tickView]) s

@[simp] theorem State.actuate_tickView (s : State) (x : CellCfg) (u : Int) : (s.actuate x u).tickView = s.tickView := by
  unfold State.actuate
  split
  · split
    · simp [apply_ite State.tickView]
    · rfl
  · split <;> rfl
  · simp
  · rfl

@[simp] theorem State.setOut_tickView (s : State) (n : Nat) (x : CellCfg) (u : Int) :
    (s.setOut n x u).tickView = s.tickView := by
  simp (disch := decide) [State.setOut, State.setOutIn]

@[simp] theorem State.resetOut_tickView (s : State) (n : Nat) (x : CellCfg) : (s.resetOut n x).tickView = s.tickView := by
  unfold State.resetOut
  dsimp only
  split
  · simp (disch := decide)
  · exact (State.set_tickView _ n (f := R.LOOP_CELL_OUT_VALUE) (by decide) 0).trans rfl
  · simp (disch := decide)

@[simp] theorem State.endAction_tickView (s : State) (c : FnCell) : (s.endAction c).tickView = s.tickView := by
  unfold State.endAction
  split
  · rfl
  · split <;> simp

@[simp] theorem State.injStop_tickView (s : State) (n res : Nat) : (s.injStop n res).tickView = s.tickView := by
  unfold State.injStop
  dsimp only
  split
  · simp (disch := decide)
  · rfl

@[simp] theorem State.cellsTo_tickView (s : State) (g : FnCfg) (st : Nat) (upd : CellSt → FnCell → CellSt) :
    (s.cellsTo g st upd).tickView = s.tickView :=
  foldl_keeps State.tickView _ (fun u c => by simp (disch := decide) [apply_ite State.tickView]) s

@[simp] theorem State.setFn_tickView (s : State) (f : Nat) (g : FnCfg) (new : Nat) :
    (s.setFn f g new).tickView = s.tickView := by
  have hcells (u : State) : (g.cells.foldl (fun (s : State) c => s.injStop c.cell 4) u).tickView = u.tickView :=
    foldl_keeps State.tickView _ (fun u c => u.injStop_tickView _ _) u
  simp (disch := decide) [State.setFn, State.fnPoints, apply_ite State.tickView, hcells]

@[simp] theorem State.fnArm_tickView (s : State) (f : Nat) (g : FnCfg) : (s.fnArm f g).tickView = s.tickView := by
  simp (disch := decide) [State.fnArm]

@[simp] theorem State.fnActivate_tickView (s : State) (f : Nat) (g : FnCfg) :
    (s.fnActivate f g).tickView = s.tickView := by
  simp [State.fnActivate]

theorem foldl_endAction_tickView (s : State) (l : List FnCell) : (l.foldl State.endAction s).tickView = s.tickView :=
  foldl_keeps State.tickView l (fun u c => u.endAction_tickView c) s

@[simp] theorem State.fnEnd_tickView (s : State) (f : Nat) (g : FnCfg) (timeout : Bool) :
    (s.fnEnd f g timeout).tickView = s.tickView := by
  simp (disch := decide) [State.fnEnd, apply_ite State.tickView, foldl_endAction_tickView]

@[simp] theorem State.fnStop_tickView (s : State) (f : Nat) (g : FnCfg) (fault : Bool) :
    (s.fnStop f g fault).tickView = s.tickView := by
  simp (disch := decide) [State.fnStop, apply_ite State.tickView]

@[simp] theorem State.fnFault_tickView (s : State) (f : Nat) (g : FnCfg) (cause cell : Nat) :
    (s.fnFault f g cause cell).tickView = s.tickView := by
  simp (disch := decide) [State.fnFault, apply_ite State.tickView]

@[simp] theorem State.fnCauses_tickView (s : State) (f : Nat) (g : FnCfg) :
    (s.fnCauses f g).tickView = s.tickView := by
  unfold State.fnCauses
  dsimp only
  split <;> simp [apply_ite State.tickView]

@[simp] theorem State.fnRequest_tickView (s : State) (f : Nat) (g : FnCfg) (action src : Nat) :
    (s.fnRequest f g action src).1.tickView = s.tickView := by
  have hcells (u : State) : (g.cells.foldl (fun (s : State) c =>
      (s.set R.LOOP_CELL_STAT_STATE 1 c.cell).set R.LOOP_CELL_STAT_MISS_RUN 0 c.cell) u).tickView = u.tickView :=
    foldl_keeps State.tickView _ (fun u c => by simp (disch := decide)) u
  unfold State.fnRequest
  dsimp only
  split <;> simp (disch := decide) [apply_ite Prod.fst, apply_ite State.tickView, hcells]

@[simp] theorem State.fnDecide_tickView (s : State) (f : Nat) (c : FnCmd) (res : Nat) :
    (s.fnDecide f c res).tickView = s.tickView := by
  simp (disch := decide) [State.fnDecide, State.fnResult, apply_ite State.tickView]

@[simp] theorem State.fnSetpoints_tickView (s : State) (g : FnCfg) : (s.fnSetpoints g).tickView = s.tickView := by
  refine foldl_keeps State.tickView _ (fun u c => ?_) s
  split
  · split
    · simp [apply_ite State.tickView]
    · rfl
  · rfl

@[simp] theorem State.fnBand_tickView (s : State) (f : Nat) (g : FnCfg) : (s.fnBand f g).tickView = s.tickView := rfl

@[simp] theorem State.fnTick_tickView (s : State) (f : Nat) (g : FnCfg) : (s.fnTick f g).tickView = s.tickView := by
  unfold State.fnTick
  extract_lets x en s₁ s₂ was s₃ y s₄ due act run s₅ s₆ s₇ s₈ s₉
  have hshow : s₂.tickView = s.tickView := by simp (disch := decide) [s₂, s₁]
  have hcause : s₄.tickView = s.tickView := by simp [s₄, s₃, apply_ite State.tickView, hshow]
  have hrun (u : State) (a : Nat) (edge : Bool) : (run u a edge).tickView = u.tickView := by
    simp only [run]
    clear_value due
    cases due <;> simp [apply_ite State.tickView]
  have hdone : s₇.tickView = s.tickView := by simp [s₇, s₆, s₅, hrun, hcause]
  have hnext : s₉.tickView = s.tickView := by simp [s₉, s₈, apply_ite State.tickView, hdone]
  simp [apply_ite State.tickView, hshow, hnext]

@[simp] theorem State.clpMonitor_tickView (s : State) (n : Nat) (x : ClpCfg) (meas vpt : Rat) :
    (s.clpMonitor n x meas vpt).tickView = s.tickView := by
  simp (disch := decide) [State.clpMonitor]

@[simp] theorem State.clpAlarm_tickView (s : State) (n cause : Nat) (high : Bool) :
    (s.clpAlarm n cause high).tickView = s.tickView := by
  simp (disch := decide) [State.clpAlarm, apply_ite State.tickView]

@[simp] theorem State.clpRequest_tickView (s : State) (n : Nat) (x : ClpCfg) :
    (s.clpRequest n x).tickView = s.tickView := by
  unfold State.clpRequest
  dsimp only
  split <;> simp [apply_ite State.tickView]

@[simp] theorem State.clpThermal_tickView (s : State) (n : Nat) (x : ClpCfg) :
    (s.clpThermal n x).tickView = s.tickView := by
  unfold State.clpThermal
  extract_lets c t pf est was hot lim s₁ s₂ s₃ s₄ s₅ s₆ s₇ s₈
  have hlimit : s₃.tickView = s.tickView := by
    simp only [s₃]
    clear_value lim
    cases lim <;> simp (disch := decide) [s₂, s₁]
  have hhot : s₆.tickView = s.tickView := by
    simp (disch := decide) [s₆, s₅, s₄, apply_ite State.tickView, hlimit]
  simp (disch := decide) [s₈, s₇, apply_ite State.tickView, hhot]

@[simp] theorem State.clpForce_tickView (s : State) (n : Nat) (x : ClpCfg) : (s.clpForce n x).tickView = s.tickView := by
  simp (disch := decide) [State.clpForce]

@[simp] theorem State.clpTick_tickView (s : State) (l : List (Nat × Rat × Rat)) : (s.clpTick l).tickView = s.tickView := by
  refine foldl_keeps State.tickView _ (fun u p => ?_) s
  dsimp only
  split <;> simp

@[simp] theorem State.stepResult_tickView (s : State) (n cmd tag res src keyId : Nat) :
    (s.stepResult n cmd tag res src keyId).tickView = s.tickView := by
  simp (disch := decide) [State.stepResult, State.stepRefused, apply_ite State.tickView]

@[simp] theorem State.stepStart_tickView (s : State) (n st : Nat) (upd : StepSt → StepSt) :
    (s.stepStart n st upd).tickView = s.tickView := by
  simp (disch := decide) [State.stepStart, State.stepEnergise, State.coilsOn, apply_ite State.tickView]

@[simp] theorem State.stepHaltNow_tickView (s : State) (n : Nat) : (s.stepHaltNow n).tickView = s.tickView := by
  simp (disch := decide) [State.stepHaltNow, apply_ite State.tickView]

@[simp] theorem State.stepCut_tickView (s : State) (n cause new : Nat) : (s.stepCut n cause new).tickView = s.tickView := by
  simp (disch := decide) [State.stepCut, apply_ite State.tickView]

@[simp] theorem State.stepDo_tickView (s : State) (n : Nat) (x : StepCfg) (cmd : Nat) (arg : Int) (speed scale : Rat)
    (byPoint : Bool) : (s.stepDo n x cmd arg speed scale byPoint).1.tickView = s.tickView := by
  unfold State.stepDo
  dsimp only
  split
  · rfl
  · split <;> simp (disch := decide) [apply_ite Prod.fst, apply_ite State.tickView]

@[simp] theorem State.stepDue_tickView (s : State) (w : StepCmd) : (s.stepDue w).tickView = s.tickView := by
  unfold State.stepDue
  split
  · rfl
  · simp [apply_ite State.tickView]

@[simp] theorem State.stepInputs_tickView (s : State) (n : Nat) (x : StepCfg) :
    (s.stepInputs n x).tickView = s.tickView := by
  unfold State.stepInputs
  dsimp only
  split
  · rfl
  · split <;> simp (disch := decide)

@[simp] theorem State.stepTick_tickView (s : State) : s.stepTick.tickView = s.tickView :=
  (foldl_keeps State.tickView _ (fun u _ => u.stepInputs_tickView _ _) _).trans
    ((foldl_keeps State.tickView _ (fun u w => u.stepDue_tickView w) _).trans rfl)

@[simp] theorem State.fnsTick_tickView (s : State) : s.fnsTick.tickView = s.tickView := by
  refine foldl_keeps State.tickView _ (fun u p => ?_) s
  have hcells (u : State) : (p.2.cells.foldl (fun (s : State) c => if (s.cell c.cell).started then s
      else (s.putCell c.cell { s.cell c.cell with started := true }).endAction c) u).tickView = u.tickView :=
    foldl_keeps State.tickView _ (fun u c => by simp [apply_ite State.tickView]) u
  simp [apply_ite State.tickView, hcells]

/-! #### Frames that a commit queues -/

@[simp] theorem State.setMb_tickView (s : State) (ch mb st : Nat) : (s.setMb ch mb st).tickView = s.tickView :=
  State.set_tickView _ _ (by decide) _

@[simp] theorem State.mbQueue_tickView (s : State) (ch mb : Nat) (data : List Nat) (sof : Bool) :
    (s.mbQueue ch mb data sof).tickView = s.tickView := by
  unfold State.mbQueue
  split
  · rfl
  · simp (disch := decide) [State.putMb, State.mbFill, apply_ite State.tickView]

@[simp] theorem State.canOnWrite_tickView (s : State) (addrs : List Nat) : (s.canOnWrite addrs).tickView = s.tickView :=
  foldl_keeps State.tickView _ (fun u x =>
    foldl_keeps State.tickView _ (fun v m => by simp [apply_ite State.tickView]) u) s

@[simp] theorem State.ethTry_tickView (s : State) (p q : Nat) : (s.ethTry p q).tickView = s.tickView := by
  unfold State.ethTry
  dsimp only
  split <;> simp (disch := decide) [apply_ite State.tickView]

@[simp] theorem State.ethNext_tickView (s : State) (p : Nat) : (s.ethNext p).tickView = s.tickView := by
  unfold State.ethNext
  split
  · rfl
  · exact foldl_keeps State.tickView _ (fun u q => u.ethTry_tickView p q) s

@[simp] theorem State.ethPut_tickView (s : State) (p : Nat) (f : EthOut) : (s.ethPut p f).tickView = s.tickView := by
  simp [State.ethPut, apply_ite State.tickView]

@[simp] theorem State.ethSend_tickView (s : State) (ports : List Nat) (kind queue : Nat) (body : List Nat) :
    (s.ethSend ports kind queue body).tickView = s.tickView := by
  refine (foldl_keeps State.tickView _ (fun u _ => ?_) _).trans rfl
  split
  · rfl
  · refine (foldl_keeps State.tickView _ (fun v x => v.ethPut_tickView x _) _).trans ?_
    simp [apply_ite State.tickView]

@[simp] theorem State.ethOnWrite_tickView (s : State) (addrs : List Nat) : (s.ethOnWrite addrs).tickView = s.tickView := by
  refine foldl_keeps State.tickView _ (fun u x => ?_) s
  split
  · rfl
  · exact foldl_keeps State.tickView _ (fun v t => by simp [State.ethCyclic, apply_ite State.tickView]) u

/-! ### The tick (R37, R39, R107, R245) -/

/-- What a tick of its own does to the view: the hull set that waits is taken, and the tick's instant is noted. -/
def TickView.begin (v : TickView) : TickView :=
  { v with hull := v.hullNext.getD v.hull, hullNext := none, tickAt := v.now, tickNs := v.time.count / 4294967296 }

/-- The captures of a tick, with which its hull set and its instant are noted. -/
def State.hullTaken (s : State) : State :=
  { s with loop := { s.loop with hull := (match s.loop.hullNext with | some h => h | none => s.loop.hull)
                                 hullNext := none, tickAt := s.now, tickNs := s.ns } }

theorem State.hullTaken_tickView (s : State) : s.hullTaken.tickView = s.tickView.begin := by
  unfold State.hullTaken TickView.begin State.tickView
  cases s.loop.hullNext <;> rfl

theorem State.loopTick_tickView (s : State) (moved : List (Nat × Int)) :
    (s.loopTick moved).tickView = s.tickView.begin := by
  have hmoved (u : State) : (moved.foldl (fun (s : State) m => s.encMove m.1 m.2) u).tickView = u.tickView :=
    foldl_keeps State.tickView _ (fun u m => u.encMove_tickView _ _) u
  have hcaptured (u : State) : ((List.range 6).foldl (fun (s : State) e => s.encCapture e (s.enc e).count) u).tickView =
      u.tickView :=
    foldl_keeps State.tickView _ (fun u e => u.encCapture_tickView _ _) u
  have hlatched (l : List (Nat × CellCfg)) (u : State) :
      (l.foldl (fun (s : State) x => s.cascadeLatch x.1 x.2) u).tickView = u.tickView :=
    foldl_keeps State.tickView _ (fun u x => u.cascadeLatch_tickView _ _) u
  unfold State.loopTick
  extract_lets s₁ s₂ hull _ s₃ s₄
  have hview : s₄.tickView = s.tickView.begin :=
    calc s₄.tickView
      _ = s₂.hullTaken.tickView := hlatched _ _
      _ = s₂.tickView.begin := State.hullTaken_tickView s₂
      _ = s.tickView.begin := congrArg TickView.begin ((hcaptured s₁).trans (hmoved s))
  split
  · exact hview
  · refine (foldl_keeps State.tickView _ (fun u x => ?_) _).trans hview
    dsimp only
    split
    · simp [apply_ite State.tickView]
    · rfl

theorem State.tickWork_tickView (s : State) (moved : List (Nat × Int)) (clp : List (Nat × Rat × Rat)) :
    (s.tickWork moved clp).tickView = s.tickView.begin := by
  simp [State.tickWork, apply_ite State.tickView, State.loopTick_tickView]

/-- The mailboxes with an attempt on their bus show it. -/
def State.txShown (s : State) (txing : List (Nat × Nat)) : State :=
  txing.foldl (fun (s : State) x => if s.mbStatus x.1 x.2 = 1 then s.setMb x.1 x.2 2 else s) s

/-- Showing them writes their status registers alone. -/
theorem State.txShown_keeps {β : Type} (p : State → β) (hset : ∀ u v b, p (State.set u R.CAN_MB_STAT_STATUS v b) = p u)
    (s : State) (txing : List (Nat × Nat)) : p (s.txShown txing) = p s := by
  refine foldl_keeps p _ (fun u x => ?_) s
  split
  · exact hset _ _ _
  · rfl

theorem State.txShown_get (s : State) (txing : List (Nat × Nat)) {f : Fld} (h : fkey f ≠ fkey R.CAN_MB_STAT_STATUS) :
    (s.txShown txing).get f = s.get f :=
  State.txShown_keeps (·.get f) (fun _ _ _ => State.get_set_ne _ _ _ _ h) s txing

@[simp] theorem State.txShown_tickView (s : State) (txing : List (Nat × Nat)) : (s.txShown txing).tickView = s.tickView :=
  State.txShown_keeps State.tickView (fun u v b => u.set_tickView b (by decide) v) s txing

theorem State.txShown_replays (s : State) (txing : List (Nat × Nat)) : (s.txShown txing).replays = s.replays := by
  unfold State.replays State.isActive State.flag
  rw [State.txShown_get _ _ (by decide), State.txShown_get _ _ (by decide)]

/-- A tick of the device's own. -/
def State.ownTick (s : State) (moved : List (Nat × Int)) (clp : List (Nat × Rat × Rat)) : State :=
  let s : State := { s with tick := s.tick + 1 }
  let s := if s.pwr.l3 = 1 || s.pwr.l3 = 2 then s else s.endTick
  let done := s.commits
  let s := ({ s with commits := [] } : State).swapIn done
  let s := (s.gridTick).tickWork moved clp
  let addrs := s.commitAddrs done
  if addrs = [] then s else (s.canOnWrite addrs).ethOnWrite addrs

theorem State.ownTick_tickView (s : State) (moved : List (Nat × Int)) (clp : List (Nat × Rat × Rat)) :
    (s.ownTick moved clp).tickView = { s.tickView with tick := s.tick + 1 }.begin := by
  unfold State.ownTick
  extract_lets s₁ s₂ done s₃ s₄ addrs
  have hended : s₂.tickView = s₁.tickView := by simp [s₂, apply_ite State.tickView]
  have hworked : s₄.tickView = s₁.tickView.begin := by
    rw [State.tickWork_tickView, State.gridTick_tickView, State.swapIn_tickView, ← hended]
    rfl
  have hsent : (if addrs = [] then s₄ else (s₄.canOnWrite addrs).ethOnWrite addrs).tickView = s₄.tickView := by
    simp [apply_ite State.tickView]
  exact hsent.trans hworked

section
variable (dt : Nat) (m : List (Nat × Int)) (c : List (Nat × Rat × Rat)) (x : List (Nat × Nat)) (s : State)

theorem exec_loopTick_idle (hg : s.gridRuns = false) : exec (.loopTick dt m c x) s = .next (s.advance dt) :=
  if_pos (by rw [show (s.advance dt).gridRuns = false from hg]; rfl)

/-- A standby that replays only keeps its grid. -/
theorem exec_loopTick_replays (hg : s.gridRuns = true) (hr : s.replays = true) :
    exec (.loopTick dt m c x) s = .next ((s.advance dt).txShown x).gridTick :=
  (if_neg (by rw [show (s.advance dt).gridRuns = true from hg]; decide)).trans
    (if_pos ((State.txShown_replays (s.advance dt) x).trans hr))

theorem exec_loopTick_own (hg : s.gridRuns = true) (hr : s.replays = false) :
    exec (.loopTick dt m c x) s = .next (((s.advance dt).txShown x).ownTick m c) := by
  refine (if_neg (by rw [show (s.advance dt).gridRuns = true from hg]; decide)).trans
    ((if_neg (Bool.eq_false_iff.1 ((State.txShown_replays (s.advance dt) x).trans hr))).trans ?_)
  exact (apply_ite Host.Outcome.next _ _ _).symm

end

theorem State.gridTick_keeps {β : Type} (p : State → β) (hset : ∀ u v, p (State.set u R.TIME_GRID_NS v) = p u)
    (s : State) : p s.gridTick = p s := by
  unfold State.gridTick
  split
  · rfl
  · exact hset _ _

theorem loopTick_own (dt : Nat) (m : List (Nat × Int)) (c : List (Nat × Rat × Rat)) (x : List (Nat × Nat)) (s : State)
    (hg : s.gridRuns = true) (hr : s.replays = false) :
    ∃ t, exec (.loopTick dt m c x) s = .next t ∧ t.tick = s.tick + 1 ∧ t.loop.tickAt = s.now + dt ∧
      t.loop.tickNs = (s.advance dt).ns ∧ t.loop.hullNext = none ∧ t.loop.hull = s.loop.hullNext.getD s.loop.hull ∧
      t.mode = s.mode ∧ t.pwr = s.pwr ∧ t.mus = s.mus := by
  have hshown : ((s.advance dt).txShown x).tickView = (s.advance dt).tickView := State.txShown_tickView _ _
  have hview : (((s.advance dt).txShown x).ownTick m c).tickView =
      { (s.advance dt).tickView with tick := s.tick + 1 }.begin := by
    rw [State.ownTick_tickView, hshown, show ((s.advance dt).txShown x).tick = s.tick from congrArg TickView.tick hshown]
  exact ⟨_, exec_loopTick_own dt m c x s hg hr, congrArg TickView.tick hview, congrArg TickView.tickAt hview,
    congrArg TickView.tickNs hview, congrArg TickView.hullNext hview, congrArg TickView.hull hview,
    congrArg TickView.mode hview, congrArg TickView.pwr hview, congrArg TickView.mus hview⟩

theorem loopTick_replays (dt : Nat) (m : List (Nat × Int)) (c : List (Nat × Rat × Rat)) (x : List (Nat × Nat)) (s : State)
    (hg : s.gridRuns = true) (hr : s.replays = true) :
    ∃ t, exec (.loopTick dt m c x) s = .next t ∧ t.tick = s.tick ∧ t.commits = s.commits ∧ t.loop = s.loop ∧
      t.pts = s.pts ∧ t.mode = s.mode := by
  have hkeep {β : Type} (p : State → β) (hset : ∀ u f v b, p (State.set u f v b) = p u) :
      p ((s.advance dt).txShown x).gridTick = p (s.advance dt) :=
    (State.gridTick_keeps p (fun _ _ => hset _ _ _ _) _).trans (State.txShown_keeps p (fun _ _ _ => hset _ _ _ _) _ _)
  have hview : ((s.advance dt).txShown x).gridTick.tickView = (s.advance dt).tickView :=
    (State.gridTick_tickView _).trans (State.txShown_tickView _ _)
  exact ⟨_, exec_loopTick_replays dt m c x s hg hr, congrArg TickView.tick hview,
    hkeep (·.commits) fun _ _ _ _ => rfl, hkeep (·.loop) fun _ _ _ _ => rfl, hkeep (·.pts) fun _ _ _ _ => rfl,
    congrArg TickView.mode hview⟩

/-! ### Encoders and PWM channels (R245, R247) -/

section
variable (s : State) (n : Nat)

@[simp] theorem State.putEnc_enc (e : EncSt) : (s.putEnc n e).enc n = e := by
  simp [State.enc, State.putEnc, tget]

@[simp] theorem State.set_enc (f : Fld) (v b k : Nat) : (s.set f v b).enc k = s.enc k := rfl

theorem State.encMove_enc (m : Int) :
    (s.encMove n m).enc n = { s.enc n with count := (((s.enc n).count + m) % 2 ^ 32).toNat } :=
  State.putEnc_enc _ _ _

/-- The count moves on modulo 2^32. -/
theorem State.encMove_count (m : Int) :
    (((s.encMove n m).enc n).count : Int) = ((s.enc n).count + m) % 2 ^ 32 := by
  rw [State.encMove_enc]
  exact Int.toNat_of_nonneg (Int.emod_nonneg _ (by decide))

end

section
variable (dt e : Nat) (m : Int) (s : State)

theorem exec_encoderIndex_off (h : tget s.man.loop.encs e 0 = 0) :
    exec (.encoderIndex dt e m) s = .next ((s.advance dt).encMove e m) := by
  show execEncoderIndex dt e m s = _
  unfold execEncoderIndex
  dsimp only
  rw [show tget ((s.advance dt).encMove e m).man.loop.encs e 0 = 0 from h]
  rfl

/-- LATCH: the first index after arming latches the count. -/
theorem exec_encoderIndex_latch (h : tget s.man.loop.encs e 0 = 1) :
    exec (.encoderIndex dt e m) s = .next (let u := (s.advance dt).encMove e m
      if s.flag R.LOOP_ENC_STAT_INDEX_SEEN e then u
      else (u.putEnc e { u.enc e with latched := some (u.enc e).count }).set R.LOOP_ENC_STAT_INDEX_SEEN 1 e) := by
  show execEncoderIndex dt e m s = _
  unfold execEncoderIndex
  dsimp only
  rw [show tget ((s.advance dt).encMove e m).man.loop.encs e 0 = 1 from h]
  exact (apply_ite Host.Outcome.next _ _ _).symm

/-- ZERO: every index clears the count. -/
theorem exec_encoderIndex_zero (h : tget s.man.loop.encs e 0 = 2) :
    exec (.encoderIndex dt e m) s = .next (let u := (s.advance dt).encMove e m
      (u.putEnc e { u.enc e with count := 0 }).set R.LOOP_ENC_STAT_INDEX_SEEN 1 e) := by
  show execEncoderIndex dt e m s = _
  unfold execEncoderIndex
  dsimp only
  rw [show tget ((s.advance dt).encMove e m).man.loop.encs e 0 = 2 from h]
  rfl

theorem encoderIndex_latches (h : tget s.man.loop.encs e 0 = 1) (h0 : s.get R.LOOP_ENC_STAT_INDEX_SEEN e = 0) :
    ∃ t, exec (.encoderIndex dt e m) s = .next t ∧ (t.enc e).latched = some (t.enc e).count ∧
      ((t.enc e).count : Int) = (((s.enc e).count : Int) + m) % 2 ^ 32 ∧ t.get R.LOOP_ENC_STAT_INDEX_SEEN e = 1 ∧
      Framed [loc R.LOOP_ENC_STAT_INDEX_SEEN e] { s.advance dt with loop := t.loop } t := by
  refine ⟨_, exec_encoderIndex_latch dt e m s h, ?_⟩
  rw [if_neg (by simp [State.flag, h0])]
  refine ⟨?_, ?_, State.get_set_same _ _ _ _, set_framed _ _ _ _ (.inl List.mem_cons_self) (.refl _ _)⟩
  · rw [State.set_enc, State.putEnc_enc]
  · rw [State.set_enc, State.putEnc_enc]
    exact State.encMove_count (s.advance dt) e m

theorem encoderIndex_latched (h : tget s.man.loop.encs e 0 = 1) (h1 : s.get R.LOOP_ENC_STAT_INDEX_SEEN e = 1) :
    ∃ t, exec (.encoderIndex dt e m) s = .next t ∧ (t.enc e).latched = (s.enc e).latched ∧
      ((t.enc e).count : Int) = (((s.enc e).count : Int) + m) % 2 ^ 32 ∧
      Framed [] { s.advance dt with loop := t.loop } t := by
  refine ⟨_, exec_encoderIndex_latch dt e m s h, ?_⟩
  rw [if_pos (by simp [State.flag, h1])]
  refine ⟨?_, State.encMove_count (s.advance dt) e m, .refl _ _⟩
  rw [State.encMove_enc]
  rfl

theorem encoderIndex_zeroes (h : tget s.man.loop.encs e 0 = 2) :
    ∃ t, exec (.encoderIndex dt e m) s = .next t ∧ (t.enc e).count = 0 ∧ t.get R.LOOP_ENC_STAT_INDEX_SEEN e = 1 ∧
      Framed [loc R.LOOP_ENC_STAT_INDEX_SEEN e] { s.advance dt with loop := t.loop } t := by
  refine ⟨_, exec_encoderIndex_zero dt e m s h, ?_, State.get_set_same _ _ _ _,
    set_framed _ _ _ _ (.inl List.mem_cons_self) (.refl _ _)⟩
  rw [State.set_enc, State.putEnc_enc]

theorem encoderEdgeError_shows :
    ∃ t, exec (.encoderEdgeError dt e m) s = .next t ∧ t.get R.LOOP_ENC_STAT_EDGE_ERR e = 1 ∧
      ((t.enc e).count : Int) = (((s.enc e).count : Int) + m) % 2 ^ 32 ∧
      Framed [loc R.LOOP_ENC_STAT_EDGE_ERR e] { s.advance dt with loop := t.loop } t := by
  have hloop : (((s.advance dt).encMove e m).encEdgeError e).loop = ((s.advance dt).encMove e m).loop := by
    rw [State.encEdgeError, State.record_loop, State.set_loop]
  refine ⟨_, rfl, ?_, ?_, ?_⟩
  · rw [State.encEdgeError, State.record_get _ _ _ (by decide), State.get_set_same]
    rfl
  · rw [State.enc, hloop]
    exact State.encMove_count (s.advance dt) e m
  · rw [hloop]
    exact State.record_framed _ _ (set_framed _ _ _ _ (.inl List.mem_cons_self) (.refl _ _))

end

theorem State.putPwm_pwm (s : State) (n : Nat) (p : PwmSt) : (s.putPwm n p).pwm n = p := by
  simp [State.pwm, State.putPwm, tget]

theorem exec_pwmPeriodStart_absent (dt n : Nat) (s : State) (h : tfind s.man.loop.pwm n = none) :
    exec (.pwmPeriodStart dt n) s = .next (s.advance dt) := by
  show execPwmPeriodStart dt n s = _
  unfold execPwmPeriodStart
  dsimp only
  rw [State.advance_man, h]

theorem exec_pwmPeriodStart_loads (dt n : Nat) {p : PwmCfg} (s : State) (h : tfind s.man.loop.pwm n = some p) :
    exec (.pwmPeriodStart dt n) s = .next ((s.advance dt).putPwm n
      { s.pwm n with compare := (s.pwm n).shadow, periodAt := s.now + dt }) := by
  show execPwmPeriodStart dt n s = _
  unfold execPwmPeriodStart
  dsimp only
  rw [State.advance_man, h]
  rfl

theorem pwmPeriodStart_loads (dt n : Nat) (p : PwmCfg) (s : State) (h : tfind s.man.loop.pwm n = some p) :
    ∃ t, exec (.pwmPeriodStart dt n) s = .next t ∧ (t.pwm n).compare = (s.pwm n).shadow ∧
      (t.pwm n).shadow = (s.pwm n).shadow ∧ (t.pwm n).on = (s.pwm n).on ∧ (t.pwm n).periodAt = s.now + dt ∧
      Framed [] { s.advance dt with loop := t.loop } t := by
  refine ⟨_, exec_pwmPeriodStart_loads dt n s h, ?_⟩
  rw [State.putPwm_pwm]
  exact ⟨rfl, rfl, rfl, rfl, .refl _ _⟩

/-! ### Reads that latch (R97, R266, R284) -/

theorem State.lullLeave_cell (s : State) (c n : Nat) : (s.lullLeave c).cell n = s.cell n := by
  unfold State.cell
  rw [State.lullLeave_loop]

theorem State.lullLeave_conv (s : State) (c n : Nat) : (s.lullLeave c).conv n = s.conv n := by
  unfold State.conv
  rw [State.lullLeave_adc]

/-- The read of the setpoint of the selected cell, as State.readBack answers it. -/
theorem exec_loopCellSpRead (dt : Nat) (p : Port) (s : State) :
    exec (.loopCellSpRead dt p) s = .next (let u := (s.advance dt).lullLeave 2
      let n := u.get R.LOOP_SEL_CELL
      ({ u with loop := { u.loop with latched := some (n, (u.cell n).ys.getD 0 0, (u.cell n).u, (u.cell n).ff) } }
        : State).readBack p (u.get R.LOOP_CELL_SP_VALUE n)) := by
  cases p <;> rfl

theorem exec_adcChResRead (dt : Nat) (p : Port) (s : State) :
    exec (.adcChResRead dt p) s = .next (let u := (s.advance dt).lullLeave 2
      let n := u.get R.ADC_SEL_CH
      ({ u with adc := { u.adc with latched := some (n, pmTotal (u.conv n).pm % 2 ^ 32, (u.conv n).updates) } }
        : State).readBack p (u.get R.ADC_CH_RES_RESULT n + 16777216 * u.get R.ADC_CH_RES_SIGN n)) := by
  cases p <;> rfl

/-- What a read returns stays in its port. -/
theorem Framed.readBack {ks : List Nat} {s t : State} (h : Framed ks s t) (p : Port) (v : Nat) :
    Framed ks { s with pcie := (t.readBack p v).pcie, spi := (t.readBack p v).spi } (t.readBack p v) := by
  have e := congrArg (fun u : State => { u with pcie := (t.readBack p v).pcie, spi := (t.readBack p v).spi }) h.plain
  cases p <;> exact ⟨e, h.regs⟩

theorem Framed.withLoop {ks : List Nat} {s t : State} (l : LoopSt) (h : Framed ks s t) :
    Framed ks { s with loop := l } { t with loop := l } :=
  ⟨congrArg (fun u : State => { u with loop := l }) h.plain, h.regs⟩

theorem Framed.withAdc {ks : List Nat} {s t : State} (a : AdcSt) (h : Framed ks s t) :
    Framed ks { s with adc := a } { t with adc := a } :=
  ⟨congrArg (fun u : State => { u with adc := a }) h.plain, h.regs⟩

theorem loopCellSpRead_latches (dt : Nat) (p : Port) (s : State) :
    ∃ t, exec (.loopCellSpRead dt p) s = .next t ∧
      t.loop.latched = some (s.get R.LOOP_SEL_CELL, (s.cell (s.get R.LOOP_SEL_CELL)).ys.getD 0 0,
        (s.cell (s.get R.LOOP_SEL_CELL)).u, (s.cell (s.get R.LOOP_SEL_CELL)).ff) ∧
      (match p with | .pcie => t.pcie.rdata | .spi => t.spi.rdata) =
        s.get R.LOOP_CELL_SP_VALUE (s.get R.LOOP_SEL_CELL) ∧
      Framed (regKeys 0 lullFlds) { s.advance dt with loop := t.loop, pcie := t.pcie, spi := t.spi, pwr := t.pwr } t := by
  have hwoken := State.lullLeave_framed (s.advance dt) 2
  refine ⟨_, exec_loopCellSpRead dt p s, ?_⟩
  dsimp only
  rw [State.lullLeave_get _ _ _ (by decide), State.lullLeave_get _ _ _ (by decide), State.lullLeave_cell]
  cases p <;> exact ⟨rfl, rfl, (hwoken.withLoop _).readBack _ _⟩

theorem adcChResRead_latches (dt : Nat) (p : Port) (s : State) :
    ∃ t, exec (.adcChResRead dt p) s = .next t ∧
      t.adc.latched = some (s.get R.ADC_SEL_CH, pmTotal (s.conv (s.get R.ADC_SEL_CH)).pm % 2 ^ 32,
        (s.conv (s.get R.ADC_SEL_CH)).updates) ∧
      (match p with | .pcie => t.pcie.rdata | .spi => t.spi.rdata) =
        s.get R.ADC_CH_RES_RESULT (s.get R.ADC_SEL_CH) + 16777216 * s.get R.ADC_CH_RES_SIGN (s.get R.ADC_SEL_CH) ∧
      Framed (regKeys 0 lullFlds) { s.advance dt with adc := t.adc, pcie := t.pcie, spi := t.spi, pwr := t.pwr } t := by
  have hwoken := State.lullLeave_framed (s.advance dt) 2
  refine ⟨_, exec_adcChResRead dt p s, ?_⟩
  dsimp only
  rw [State.lullLeave_get _ _ _ (by decide), State.lullLeave_get _ _ _ (by decide),
    State.lullLeave_get _ _ _ (by decide), State.lullLeave_conv]
  cases p <;> exact ⟨rfl, rfl, (hwoken.withAdc _).readBack _ _⟩

/-! ### Reads of 32-bit postmarks (R97) -/

/-- The registers of the latched time. -/
def latchFlds : List Fld := [R.TIME_LAT_NS_NS, R.TIME_LAT_SEC_LO_SEC_LO, R.TIME_LAT_SEC_HI_SEC_HI, R.TIME_LAT_PM32_PM32]

theorem State.latchTime_framed {ks : List Nat} {s₀ : State} (s : State) (hks : ∀ f ∈ latchFlds, loc f 0 ∈ ks)
    (h : Framed ks s₀ s) : Framed ks s₀ s.latchTime :=
  set_framed _ _ _ _ (.inl (hks _ (by decide))) (set_framed _ _ _ _ (.inl (hks _ (by decide)))
    (set_framed _ _ _ _ (.inl (hks _ (by decide))) (set_framed _ _ _ _ (.inl (hks _ (by decide))) h)))

/-- The latched ns of the second lie below 10^9, and so fit their field. -/
theorem State.latchTime_ns (s : State) : s.latchTime.get R.TIME_LAT_NS_NS = s.ns % 1000000000 := by
  unfold State.latchTime
  dsimp only
  rw [State.get_set_ne _ _ _ _ (by decide), State.get_set_ne _ _ _ _ (by decide), State.get_set_ne _ _ _ _ (by decide),
    State.get_set_same]
  exact Nat.mod_eq_of_lt ((Nat.mod_lt _ (by decide)).trans (by decide))

theorem State.latchTime_pm32 (s : State) : s.latchTime.get R.TIME_LAT_PM32_PM32 = s.ns % 2 ^ 32 := by
  unfold State.latchTime
  dsimp only
  rw [State.get_set_same]
  exact Nat.mod_mod _ _

/-- The device as a host read of a block finds it: awake where the block wakes it. -/
def State.wokenBy (s : State) (o : Nat) : State := if readWakes o then s.lullLeave 2 else s

/-- A read of one of these registers wakes the device where its block does, and latches the time. -/
theorem State.hostRead_postmark (s : State) (p : Port) {o : Nat} (ho : o ∈ [0x4048, 0x501C, 0xA058, 0xA068, 0xC01C]) :
    (s.hostRead p o).1 = (s.wokenBy o).latchTime := by
  simp only [List.mem_cons, List.not_mem_nil, or_false] at ho
  rcases ho with rfl | rfl | rfl | rfl | rfl <;>
  · unfold State.hostRead
    dsimp only
    rw [if_neg (by decide), if_neg (by decide), if_neg (by simp)]
    rfl

theorem State.wokenBy_framed (s : State) (o : Nat) :
    Framed (regKeys 0 lullFlds) { s with pwr := (s.wokenBy o).pwr } (s.wokenBy o) := by
  unfold State.wokenBy
  split
  · exact State.lullLeave_framed s 2
  · exact .refl _ s

theorem State.wokenBy_ns (s : State) (o : Nat) : (s.wokenBy o).ns = s.ns := by
  unfold State.wokenBy State.ns
  split
  · rw [State.lullLeave_time]
  · rfl

/-- A frame may list more registers. -/
theorem Framed.mono {ks ks' : List Nat} {s t : State} (h : Framed ks s t) (hks : ks ⊆ ks') : Framed ks' s t :=
  ⟨h.plain, fun k hk => h.regs k fun hm => hk (hks hm)⟩

@[simp] theorem State.readBack_get (s : State) (p : Port) (v : Nat) (f : Fld) (b : Nat) :
    (s.readBack p v).get f b = s.get f b := by
  cases p <;> rfl

theorem postmarkReadLatch_latches (dt o : Nat) (p : Port) (s : State)
    (ho : o ∈ [0x4048, 0x501C, 0xA058, 0xA068, 0xC01C]) :
    ∃ t, exec (.postmarkReadLatch dt p o) s = .next t ∧ t.get R.TIME_LAT_NS_NS = (s.advance dt).ns % 1000000000 ∧
      t.get R.TIME_LAT_PM32_PM32 = (s.advance dt).ns % 2 ^ 32 ∧
      Framed (regKeys 0 ([R.TIME_LAT_NS_NS, R.TIME_LAT_SEC_LO_SEC_LO, R.TIME_LAT_SEC_HI_SEC_HI, R.TIME_LAT_PM32_PM32] ++
        lullFlds)) { s.advance dt with pcie := t.pcie, spi := t.spi, pwr := t.pwr } t := by
  have hread : exec (.postmarkReadLatch dt p o) s =
      .next (((s.advance dt).wokenBy o).latchTime.readBack p ((s.advance dt).hostRead p o).2) :=
    congrArg (fun u : State => Host.Outcome.next (u.readBack p ((s.advance dt).hostRead p o).2))
      (State.hostRead_postmark _ p ho)
  refine ⟨_, hread, ?_, ?_, ?_⟩
  · rw [State.readBack_get, State.latchTime_ns, State.wokenBy_ns]
  · rw [State.readBack_get, State.latchTime_pm32, State.wokenBy_ns]
  · have hlatched := State.latchTime_framed ((s.advance dt).wokenBy o) (ks := regKeys 0 (latchFlds ++ lullFlds))
      (fun f hf => List.mem_map_of_mem (List.mem_append_left _ hf))
      (((s.advance dt).wokenBy_framed o).mono (List.map_subset _ (List.subset_append_right _ _)))
    cases p <;> exact hlatched.readBack _ _

/-- Settles O34: each clause is the lemma of its command above. -/
theorem loopTicks : Obligations.LoopTicks := by
  unfold Obligations.LoopTicks
  exact ⟨loopTick_own, loopTick_replays, exec_loopTick_idle, encoderIndex_latches, encoderIndex_latched,
    encoderIndex_zeroes, exec_encoderIndex_off, encoderEdgeError_shows, pwmPeriodStart_loads,
    exec_pwmPeriodStart_absent, loopCellSpRead_latches, adcChResRead_latches, postmarkReadLatch_latches⟩

end Sys2Proof.Machine
end

section
/-!
PROOF of the statement of 02_modes_and_muster.md about the end of RUN-IN (RunInEnds): what a frame says of a field, what the
safety island's start of lock-out may touch, what a MUSTER that ends in SAFE shows, and then the two commands.
-/

namespace Sys2Proof.Machine

open Sys2Proof

/-! ### Reading a field through a frame -/

/-- A field outside a frame's list, and not one of those that tell what happened, keeps its value. -/
theorem Framed.get_eq {ks : List Nat} {s t : State} (h : Framed ks s t) {f : Fld} (b : Nat) (hn : noteFld f = false)
    (hk : loc f b ∉ ks) : t.get f b = s.get f b := by
  unfold State.get tget
  rw [h.regs _ hk ((noteKey_loc f b).trans hn)]

/-! ### The safety island at the end of RUN-IN (R343, R345) -/

/-- The fields that a lock-out of the island writes. -/
def islLockFlds : List Fld :=
  [R.SAFE_STAT_STATE, R.SAFE_STAT_PERMANENT, R.SAFE_STAT_CAUSE, R.SAFE_OUT_ON, R.SAFE_EVT_LOCKOUT, R.SAFE_EVT_RUN,
   R.SAFE_EVT_OUT_OFF]

/-- `t` is `s` but for the island's own data, the fields of a lock-out, and what is told of it. -/
def IslFramed (s t : State) : Prop := Framed (regKeys 0 islLockFlds) { s with isl := t.isl } t

theorem IslFramed.refl (s : State) : IslFramed s s := Framed.refl _ s

theorem IslFramed.trans {a b c : State} (h : IslFramed a b) (g : IslFramed b c) : IslFramed a c :=
  ⟨g.plain.trans (congrArg (fun u : State => { u with isl := c.isl }) h.plain), fun k hk hn =>
    (g.regs k hk hn).trans (h.regs k hk hn)⟩

theorem IslFramed.of_framed {a b : State} (h : Framed [] a b) : IslFramed a b := by
  have hisl : b.isl = a.isl := State.of_plain_isl h.plain
  refine ⟨?_, fun k _ hn => h.regs k List.not_mem_nil hn⟩
  rw [hisl]
  exact h.plain

theorem set_islFramed (s : State) (v : Nat) {f : Fld} (hf : f ∈ islLockFlds) : IslFramed s (s.set f v) :=
  set_framed s f v 0 (.inl (List.mem_map_of_mem hf)) (Framed.refl _ s)

theorem evt_islFramed (s : State) {f : Fld} (hf : f ∈ islLockFlds) : IslFramed s (s.evt f) :=
  (set_islFramed s 1 hf).trans (.of_framed (State.raise_framed _ _ (.refl _ _)))

theorem withIsl_islFramed (s : State) (i : IslSt) : IslFramed s { s with isl := i } := ⟨rfl, fun _ _ _ => rfl⟩

theorem State.islNote_islFramed (s : State) (e : Ev) : IslFramed s (s.islNote e) :=
  .of_framed (State.send_framed _ _ _ _ _ _ (State.record_framed s e (.refl _ s)))

theorem ite_islFramed {s a b : State} {c : Prop} [Decidable c] (ha : IslFramed s a) (hb : IslFramed s b) :
    IslFramed s (if c then a else b) := by split <;> assumption

theorem foldl_islFramed {α : Type} {g : State → α → State} (hg : ∀ u x, IslFramed u (g u x)) (l : List α) (s : State) :
    IslFramed s (l.foldl g s) := by
  induction l generalizing s with
  | nil => exact .refl s
  | cons x l ih => exact (hg s x).trans (ih _)

theorem State.islSwitch_islFramed (s : State) (n : Nat) (on : Bool) (reason : Nat) :
    IslFramed s (s.islSwitch n on reason) := by
  have hout : ∀ o : SafeOutSt, IslFramed s ((s.putIslOut n o).setBitOf R.SAFE_OUT_ON n on) := fun o =>
    (withIsl_islFramed s _).trans (set_islFramed _ _ (by decide))
  exact ((hout _).trans (ite_islFramed (.refl _) (evt_islFramed _ (by decide)))).trans (State.islNote_islFramed _ _)

theorem State.islAllOff_islFramed (s : State) : IslFramed s s.islAllOff :=
  foldl_islFramed (fun u _ => (withIsl_islFramed u _).trans
    (ite_islFramed (State.islSwitch_islFramed _ _ _ _) (.refl _))) _ s

theorem State.islTo_islFramed (s : State) (new : Nat) : IslFramed s (s.islTo new) :=
  ((set_islFramed s new (by decide)).trans (ite_islFramed (evt_islFramed _ (by decide))
    (ite_islFramed (evt_islFramed _ (by decide)) (.refl _)))).trans (State.islNote_islFramed _ _)

theorem State.islLock_islFramed (s : State) (cause index : Nat) : IslFramed s (s.islLock cause index) := by
  refine ((withIsl_islFramed s _).trans (ite_islFramed (set_islFramed _ _ (by decide)) (.refl _))).trans
    (ite_islFramed (.refl _) ?_)
  exact ((set_islFramed _ _ (by decide)).trans (State.islTo_islFramed _ _)).trans (State.islAllOff_islFramed _)

theorem State.islandRunInEnd_islFramed (s : State) : IslFramed s s.islandRunInEnd :=
  ite_islFramed (.refl s) (ite_islFramed
    ((IslFramed.of_framed (State.record_framed s _ (.refl _ s))).trans (State.islLock_islFramed _ _ _))
    (State.islLock_islFramed s _ _))

@[simp] theorem State.islandRunInEnd_get (s : State) {f : Fld} (b : Nat) (hn : noteFld f = false)
    (hf : loc f b ∉ regKeys 0 islLockFlds) : s.islandRunInEnd.get f b = s.get f b :=
  (State.islandRunInEnd_islFramed s).get_eq b hn hf

@[simp] theorem State.islandRunInEnd_mnf (s : State) : s.islandRunInEnd.mnf = s.mnf :=
  (State.of_plain_mnf (State.islandRunInEnd_islFramed s).plain :)

@[simp] theorem State.islandRunInEnd_outHeld (s : State) : s.islandRunInEnd.outHeld = s.outHeld :=
  (State.of_plain_outHeld (State.islandRunInEnd_islFramed s).plain :)

/-! ### MUSTER ends in SAFE (R46, R53) -/

/-- MODE_STAT as a MUSTER that ends in SAFE leaves it. -/
theorem State.musterSafe_shows (s : State) (cause kind : Nat) : (s.musterSafe cause kind).mode = 5 ∧
    (s.musterSafe cause kind).get R.MODE_STAT_PHASE = 0 ∧
    (s.musterSafe cause kind).get R.MODE_STAT_SAFE_CAUSE = cause % 2 ^ R.MODE_STAT_SAFE_CAUSE.width := by
  unfold State.mode State.musterSafe State.safeCause
  simp (disch := decide) only [State.record_get, State.islandRunInEnd_get, State.evt_get_ne, State.setSat_eq,
    State.get_set_ne, State.get_set_same]
  exact ⟨rfl, rfl, trivial⟩

/-- The fields that it writes, beside the island's. -/
def musterSafeFlds : List Fld :=
  [R.MODE_STAT_MODE, R.MODE_STAT_PHASE, R.MODE_STAT_SAFE_CAUSE, R.MODE_MUSTER_MS_TOTAL, R.MODE_MUSTER_MS_PAIRING,
   R.MODE_EVT_MODE_CHANGED, R.MODE_EVT_SAFE_ENTERED]

theorem State.musterSafe_get (s : State) (cause kind : Nat) {f : Fld} (b : Nat) (hn : noteFld f = false)
    (hi : loc f b ∉ regKeys 0 islLockFlds) (hf : ∀ g ∈ musterSafeFlds, fkey f ≠ fkey g) :
    (s.musterSafe cause kind).get f b = s.get f b := by
  simp only [musterSafeFlds, List.forall_mem_cons] at hf
  obtain ⟨hmode, hphase, hcause, htotal, hpair, hchanged, hsafe, -⟩ := hf
  simp [State.musterSafe, State.safeCause, State.setSat_eq, *]

@[simp] theorem State.musterSafe_mnf (s : State) (cause kind : Nat) : (s.musterSafe cause kind).mnf = s.mnf := by
  simp [State.musterSafe, State.safeCause, State.setSat_eq]

/-- A trigger that waits at the end of RUN-IN, as a phase failure or not, ends MUSTER in SAFE with its cause. -/
theorem State.runInFail_shows (s : State) (cause : Nat) : (s.runInFail cause).mode = 5 ∧
    (s.runInFail cause).get R.MODE_STAT_PHASE = 0 ∧
    (s.runInFail cause).get R.MODE_STAT_SAFE_CAUSE = cause % 2 ^ R.MODE_STAT_SAFE_CAUSE.width := by
  unfold State.runInFail State.phaseFail
  dsimp only
  split
  · exact State.musterSafe_shows _ _ _
  · exact State.musterSafe_shows _ _ _

/-- Of the commands and triggers that wait, the end of RUN-IN discards the trigger alone. -/
theorem State.runInFail_mnf (s : State) (cause : Nat) :
    (s.runInFail cause).mnf = { s.mnf with safePending := none, safeKind := 0 } := by
  unfold State.runInFail State.phaseFail
  dsimp only
  split <;> simp

/-! ### The Yuzal self-test (R236) -/

theorem selftestDiff_self (r : List (Nat × Nat)) (i : Nat) : selftestDiff r r i = none := by
  induction r generalizing i with
  | nil => rfl
  | cons a r ih => exact (if_pos rfl).trans (ih (i + 1))

@[simp] theorem State.advance_mode (s : State) (dt : Nat) : (s.advance dt).mode = s.mode := rfl

section
variable (dt : Nat) (s : State) (hm : s.mode = 1) (hp : s.get R.MODE_STAT_PHASE = 8)
include hm hp

theorem exec_yuzSelftestDone_pass (r : List (Nat × Nat)) :
    exec (.yuzSelftestDone dt r r) s = .next ((s.advance dt).set R.YUZ_STAT_SELFTEST_OK 1) := by
  show execYuzSelftestDone dt r r s = _
  simp [execYuzSelftestDone, hm, hp, selftestDiff_self]

/-- One value that differs: tile 1, kernel 1, solo. -/
theorem exec_yuzSelftestDone_fail {a b : Nat} (h : a ≠ b) :
    exec (.yuzSelftestDone dt [(1, a)] [(1, b)]) s = .next
      (((((s.advance dt).set R.YUZ_STAT_SELFTEST_OK 0).evt R.YUZ_EVT_SELFTEST_FAIL).record
        { code := 0x0A05, source := 1, items := [(1, 1), (1, 1), caseItem 0x0A05 0] }).musterSafe 3) := by
  show execYuzSelftestDone dt [(1, a)] [(1, b)] s = _
  simp [execYuzSelftestDone, hm, hp, selftestDiff, h]

theorem yuzSelftestDone_passes (r : List (Nat × Nat)) :
    ∃ t, exec (.yuzSelftestDone dt r r) s = .next t ∧ t.get R.YUZ_STAT_SELFTEST_OK = 1 ∧
      Framed [loc R.YUZ_STAT_SELFTEST_OK 0] (s.advance dt) t :=
  ⟨_, exec_yuzSelftestDone_pass dt s hm hp r, State.get_set_same _ _ _ _,
    set_framed _ _ _ _ (.inl (List.mem_singleton.2 rfl)) (.refl _ _)⟩

theorem yuzSelftestDone_fails {a b : Nat} (h : a ≠ b) :
    ∃ t, exec (.yuzSelftestDone dt [(1, a)] [(1, b)]) s = .next t ∧ t.mode = 5 ∧ t.get R.MODE_STAT_SAFE_CAUSE = 3 ∧
      t.get R.YUZ_STAT_SELFTEST_OK = 0 ∧ t.get R.YUZ_EVT_SELFTEST_FAIL = 1 := by
  obtain ⟨hmode, -, hcause⟩ := State.musterSafe_shows
    ((((s.advance dt).set R.YUZ_STAT_SELFTEST_OK 0).evt R.YUZ_EVT_SELFTEST_FAIL).record
      { code := 0x0A05, source := 1, items := [(1, 1), (1, 1), caseItem 0x0A05 0] }) 3 0
  refine ⟨_, exec_yuzSelftestDone_fail dt s hm hp h, hmode, hcause, ?_, ?_⟩
  · rw [State.musterSafe_get _ _ _ _ (by decide) (by decide) (by decide), State.record_get _ _ _ (by decide),
      State.evt_get_ne _ _ _ (by decide) (by decide), State.get_set_same]
    rfl
  · rw [State.musterSafe_get _ _ _ _ (by decide) (by decide) (by decide), State.record_get _ _ _ (by decide),
      State.evt_get_same _ _ _ (by decide)]
    rfl

end

/-! ### The end of RUN-IN (R47, R53, R60) -/

/-- RUN-IN ends in a working mode; an active's outputs are released. -/
def State.musterDone (s : State) (target : Nat) : State :=
  let s := (s.set R.MODE_STAT_MODE target).set R.MODE_STAT_PHASE 0
  let s := (s.setSat R.MODE_MUSTER_MS_TOTAL ((s.now - s.mus.at_) / 1000000)).setSat R.MODE_MUSTER_MS_PAIRING
    (s.mus.pairingNs / 1000000)
  let s := { s with outHeld := !s.isActive }.islandRunInEnd
  (s.evt R.MODE_EVT_MODE_CHANGED).record { code := 0x0201, items := [(1, 1), (1, target), (8, s.tick)], key := 2 }

theorem State.withOutHeld_get (s : State) (c : Bool) (f : Fld) (b : Nat) :
    State.get { s with outHeld := c } f b = s.get f b := rfl

theorem State.musterDone_shows (s : State) (target : Nat) :
    (s.musterDone target).mode = target % 2 ^ R.MODE_STAT_MODE.width ∧
    (s.musterDone target).get R.MODE_STAT_PHASE = 0 ∧ (s.musterDone target).outHeld = !s.isActive ∧
    (s.musterDone target).get R.MODE_EVT_MODE_CHANGED = 1 := by
  unfold State.musterDone State.mode State.isActive State.flag
  dsimp only
  refine ⟨?_, ?_, ?_, ?_⟩
  · simp (disch := decide) only [State.record_get, State.evt_get_ne, State.islandRunInEnd_get, State.withOutHeld_get,
      State.setSat_eq, State.get_set_ne, State.get_set_same]
  · simp (disch := decide) only [State.record_get, State.evt_get_ne, State.islandRunInEnd_get, State.withOutHeld_get,
      State.setSat_eq, State.get_set_ne, State.get_set_same, Nat.zero_mod]
  · simp (disch := decide) only [State.record_outHeld, State.evt_outHeld, State.islandRunInEnd_outHeld, State.setSat_eq,
      State.get_set_ne]
  · simp (disch := decide) only [State.record_get, State.evt_get_same]
    rfl

section
variable (dt : Nat) (s : State)

/-- The trigger that waits decides; without one, what is too hot. -/
theorem exec_runInEnd_trigger {c : Nat} (hm : s.mode = 1) (hp : s.get R.MODE_STAT_PHASE = 8)
    (ht : s.mus.runInAt + 300000000 ≤ s.now + dt) (hc : s.mnf.safePending = some c) :
    exec (.runInEnd dt) s = .next ((s.advance dt).runInFail c) := by
  show execRunInEnd dt s = _
  simp [execRunInEnd, hm, hp, ht, hc]

theorem exec_runInEnd_active (hm : s.mode = 1) (hp : s.get R.MODE_STAT_PHASE = 8)
    (ht : s.mus.runInAt + 300000000 ≤ s.now + dt) (hc : s.mnf.safePending = none) (hhard : s.get R.THRM_STAT_AT_HARD = 0)
    (hbroken : s.get R.THRM_STAT_BROKEN_OVER = 0) (ha : s.isActive = true) :
    exec (.runInEnd dt) s = .next ((s.advance dt).musterDone 2) := by
  have hact : (s.advance dt).isActive = true := ha
  show execRunInEnd dt s = _
  simp [execRunInEnd, hm, hp, ht, hc, State.flag, hhard, hbroken, hact]
  rfl

theorem exec_runInEnd_quiet (hp : s.get R.MODE_STAT_PHASE ≠ 8) : exec (.runInEnd dt) s = .next (s.advance dt) := by
  show execRunInEnd dt s = _
  simp [execRunInEnd, hp]

theorem runInEnd_ready (hm : s.mode = 1) (hp : s.get R.MODE_STAT_PHASE = 8)
    (ht : s.mus.runInAt + 300000000 ≤ s.now + dt) (hc : s.mnf.safePending = none) (hhard : s.get R.THRM_STAT_AT_HARD = 0)
    (hbroken : s.get R.THRM_STAT_BROKEN_OVER = 0) (ha : s.isActive = true) :
    ∃ t, exec (.runInEnd dt) s = .next t ∧ t.mode = 2 ∧ t.get R.MODE_STAT_PHASE = 0 ∧ t.outHeld = false ∧
      t.get R.MODE_EVT_MODE_CHANGED = 1 := by
  obtain ⟨hmode, hphase, hheld, hchanged⟩ := (s.advance dt).musterDone_shows 2
  have hact : (s.advance dt).isActive = true := ha
  exact ⟨_, exec_runInEnd_active dt s hm hp ht hc hhard hbroken ha, hmode, hphase, by rw [hheld, hact]; rfl, hchanged⟩

theorem runInEnd_safe {c : Nat} (hm : s.mode = 1) (hp : s.get R.MODE_STAT_PHASE = 8)
    (ht : s.mus.runInAt + 300000000 ≤ s.now + dt) (hc : s.mnf.safePending = some c) (hlt : c < 16) :
    ∃ t, exec (.runInEnd dt) s = .next t ∧ t.mode = 5 ∧ t.get R.MODE_STAT_PHASE = 0 ∧
      t.get R.MODE_STAT_SAFE_CAUSE = c ∧ t.mnf.safePending = none := by
  obtain ⟨hmode, hphase, hcause⟩ := (s.advance dt).runInFail_shows c
  refine ⟨_, exec_runInEnd_trigger dt s hm hp ht hc, hmode, hphase, hcause.trans (Nat.mod_eq_of_lt ?_), ?_⟩
  · exact hlt.trans (by decide)
  · rw [State.runInFail_mnf]

end

/-- Settles O9: the self-test's two outcomes, and the three ways of RUN_IN_END, each by the lemma of its case above. -/
theorem runInEnds : Obligations.RunInEnds := by
  unfold Obligations.RunInEnds
  exact ⟨fun dt r s hm hp => yuzSelftestDone_passes dt s hm hp r,
    fun dt _ _ s hm hp h => yuzSelftestDone_fails dt s hm hp h, runInEnd_ready,
    fun dt _ s hm hp ht hc hlt => runInEnd_safe dt s hm hp ht hc hlt, exec_runInEnd_quiet⟩

end Sys2Proof.Machine
end

section
/-!
PROOF that the statement of 02_modes_and_muster.md about changes of the mode fails (ModeChanges): its first clause takes every
device in service, and in RUN-IN a SAFE entry ends MUSTER and leaves the command that waits.
-/

namespace Sys2Proof.Machine

open Sys2Proof

/-- In RUN-IN a SAFE entry is the end of MUSTER (R45, R60): of what waits it discards the trigger alone. -/
theorem safeEntry_runIn_keeps_pendingMode (dt c : Nat) (s : State) (hm : s.mode = 1) (hc : s.mnf.safePending = some c) :
    ∃ t, exec (.safeEntry dt) s = .next t ∧ t.mnf.pendingMode = s.mnf.pendingMode := by
  refine ⟨(s.advance dt).runInFail c, ?_, by rw [State.runInFail_mnf]; rfl⟩
  show execSafeEntry dt s = _
  simp [execSafeEntry, hm, hc]

/-- A standby in RUN-IN, in step with its active: the active's COMMAND record has handed it a STATION command that waits for its
boundary (R357), and a device fault has armed SAFE. -/
def standbyInRunIn : State :=
  { (((State.reset.set R.MODE_STAT_MODE 1).set R.MODE_STAT_PHASE 8).set R.MODE_STAT_PAIRED 1).set R.TWIN_STAT_STATE 4 with
    mnf := { pendingMode := some ⟨3, 1, .point 2, 1, 5⟩, safePending := some 6 } }

/-- Refutes O14: the clause of SAFE_ENTRY says that no mode command waits any more, and its hypotheses allow RUN-IN, where the
entry is the end of MUSTER and the waiting command stays. -/
theorem not_modeChanges : ¬ Obligations.ModeChanges := by
  intro h
  obtain ⟨hentry, -⟩ := h
  obtain ⟨t, ht, -, -, -, hnone, -⟩ := hentry 5 6 standbyInRunIn rfl (by decide) (by decide) (by decide)
  obtain ⟨u, hu, hstays⟩ := safeEntry_runIn_keeps_pendingMode 5 6 standbyInRunIn (by decide) rfl
  obtain rfl : t = u := Host.Outcome.next.inj (ht.symm.trans hu)
  exact absurd (hstays.symm.trans hnone) (by decide)

end Sys2Proof.Machine
end

section
/-!
PROOF of the statement of 02_modes_and_muster.md about mode commands (ModeCommands): what a result of a mode command shows and
leaves alone, a command accepted and one refused, and then the way of a command from its source to the judgement.
-/

namespace Sys2Proof.Machine

open Sys2Proof

/-! ### Results of mode commands (R62) -/

/-- The fields that show a result. -/
def modeResultFlds : List Fld := [R.MODE_CMD_STAT_RESULT, R.MODE_CMD_STAT_TAG, R.MODE_CMD_STAT_GUARDS]

/-- MODE_CMD_STAT takes a result. -/
def State.showResult (s : State) (res tag guards : Nat) : State :=
  ((s.set R.MODE_CMD_STAT_RESULT res).set R.MODE_CMD_STAT_TAG tag).set R.MODE_CMD_STAT_GUARDS guards

theorem State.showResult_framed {ks : List Nat} {s₀ : State} (s : State) (res tag guards : Nat)
    (hks : ∀ f ∈ modeResultFlds, loc f 0 ∈ ks) (h : Framed ks s₀ s) : Framed ks s₀ (s.showResult res tag guards) :=
  set_framed _ _ _ _ (.inl (hks _ (by decide))) (set_framed _ _ _ _ (.inl (hks _ (by decide)))
    (set_framed _ _ _ _ (.inl (hks _ (by decide))) h))

theorem State.showResult_shows (s : State) (res tag guards : Nat) :
    (s.showResult res tag guards).get R.MODE_CMD_STAT_RESULT = res % 2 ^ R.MODE_CMD_STAT_RESULT.width ∧
    (s.showResult res tag guards).get R.MODE_CMD_STAT_TAG = tag % 256 ∧
    (s.showResult res tag guards).get R.MODE_CMD_STAT_GUARDS = guards % 2 ^ R.MODE_CMD_STAT_GUARDS.width := by
  unfold State.showResult
  simp (disch := decide) only [State.get_set_ne, State.get_set_same]
  exact ⟨trivial, rfl, trivial⟩

section
variable (s : State) (target tag : Nat) (src : CmdSrc) (keyId guards : Nat)

/-- An acceptance is shown, and told. -/
theorem State.modeResult_accepted_framed : Framed [] (s.showResult 1 tag 0) (s.modeResult 1 target tag src keyId guards) := by
  unfold State.modeResult
  rw [if_pos rfl]
  exact State.result_framed _ _ _ _ _ _ _ _ _ (State.record_framed _ _ (.refl _ _))

/-- A refusal is shown, raises its event bit, and is told. -/
theorem State.modeResult_refused_framed {res : Nat} (hr : res ∈ [3, 4, 5]) :
    Framed [] ((s.showResult res tag guards).evt R.MODE_EVT_CMD_REFUSED) (s.modeResult res target tag src keyId guards) := by
  have hg : res = 3 ∨ res = 4 ∨ res = 5 := by simpa using hr
  have h1 : res ≠ 1 := by omega
  have h2 : res ≠ 2 := by omega
  unfold State.modeResult
  simp only [if_pos hg, if_neg h1, if_neg h2]
  exact State.result_framed _ _ _ _ _ _ _ _ _ (State.record_framed _ _ (.refl _ _))

/-- Whatever the result, the registers of mode commands alone change. -/
theorem State.modeResult_framed (res : Nat) :
    Framed (regKeys 0 (modeResultFlds ++ [R.MODE_EVT_CMD_DONE, R.MODE_EVT_CMD_REFUSED])) s
      (s.modeResult res target tag src keyId guards) := by
  have hshow : ∀ g, Framed (regKeys 0 (modeResultFlds ++ [R.MODE_EVT_CMD_DONE, R.MODE_EVT_CMD_REFUSED])) s
      (s.showResult res tag g) := fun g => State.showResult_framed s res tag g (by decide) (.refl _ s)
  unfold State.modeResult
  dsimp only
  split
  · exact State.result_framed _ _ _ _ _ _ _ _ _ (State.record_framed _ _ (hshow _))
  split
  · exact State.result_framed _ _ _ _ _ _ _ _ _ (State.evt_framed _ _ _ (.inl (by decide)) (hshow _))
  · exact State.result_framed _ _ _ _ _ _ _ _ _ (State.record_framed _ _
      (State.evt_framed _ _ _ (.inl (by decide)) (hshow _)))

theorem State.modeResult_mode (res : Nat) : (s.modeResult res target tag src keyId guards).mode = s.mode :=
  (State.modeResult_framed s target tag src keyId guards res).get_eq 0 (by decide) (by decide)

theorem State.modeResult_role (res : Nat) : (s.modeResult res target tag src keyId guards).role = s.role :=
  State.of_plain_role (State.modeResult_framed s target tag src keyId guards res).plain

end

/-! ### Judging a mode command (R48, R51 to R53) -/

theorem State.endPending_mode (s : State) (res guards : Nat) : (s.endPending res guards).mode = s.mode := by
  unfold State.endPending
  split
  · exact (State.modeResult_mode _ _ _ _ _ _ _).trans (State.get_set_ne _ _ _ _ (by decide))
  · rfl

theorem State.endPending_role (s : State) (res guards : Nat) : (s.endPending res guards).role = s.role := by
  unfold State.endPending
  split
  · exact State.modeResult_role _ _ _ _ _ _ _
  · rfl

theorem State.gnssWake_mode (s : State) (cause : Nat) : (s.gnssWake cause).mode = s.mode := by
  unfold State.gnssWake
  split
  · rfl
  · exact (State.record_get _ _ _ (by decide)).trans ((State.evt_get_ne _ _ _ (by decide) (by decide)).trans
      ((State.get_set_ne (s.set R.GNSS_STAT_STATE 1) _ _ _ (by decide)).trans (State.get_set_ne s _ _ _ (by decide))))

theorem State.gnssWake_role (s : State) (cause : Nat) : (s.gnssWake cause).role = s.role := by
  unfold State.gnssWake
  split
  · rfl
  · exact (State.record_role _ _).trans (State.evt_role _ _ _)

/-- The state in which an accepted command's result is shown: the command that waited is superseded, and for STATION and PASSAGE
the receiver wakes. -/
def State.modeCleared (s : State) (target : Nat) : State :=
  if target = 3 || target = 4 then (s.endPending 6 0).gnssWake 4 else s.endPending 6 0

theorem State.modeCleared_mode (s : State) (target : Nat) : (s.modeCleared target).mode = s.mode := by
  unfold State.modeCleared
  split
  · rw [State.gnssWake_mode, State.endPending_mode]
  · exact State.endPending_mode s 6 0

theorem State.modeCleared_role (s : State) (target : Nat) : (s.modeCleared target).role = s.role := by
  unfold State.modeCleared
  split
  · rw [State.gnssWake_role, State.endPending_role]
  · exact State.endPending_role s 6 0

/-- An accepted command waits for its boundary. -/
def State.modeWaits (s : State) (target tag : Nat) (src : CmdSrc) (keyId : Nat) : State :=
  { s with mnf := { s.mnf with pendingMode := some ⟨target, tag, src, keyId, s.log.head⟩ } }.set R.MODE_STAT_PENDING 1

section
variable (s : State) (target tag : Nat) (src : CmdSrc) (keyId : Nat)

theorem State.modeWaits_get {f : Fld} (h : fkey f ≠ fkey R.MODE_STAT_PENDING) :
    (s.modeWaits target tag src keyId).get f = s.get f :=
  (State.get_set_ne _ _ _ _ h).trans rfl

theorem State.modeWaits_shows : (s.modeWaits target tag src keyId).get R.MODE_STAT_PENDING = 1 :=
  State.get_set_same _ _ _ _

theorem State.modeWaits_pendingMode :
    (s.modeWaits target tag src keyId).mnf.pendingMode = some ⟨target, tag, src, keyId, s.log.head⟩ := rfl

theorem State.modeWaits_role : (s.modeWaits target tag src keyId).role = s.role := rfl

theorem State.modeAccept_transition (hm : s.mode ≠ 1) (ha : s.isActive = true) (ht : transGuards s.mode target ≠ none) :
    s.modeAccept target tag src keyId =
      ((s.modeCleared target).modeResult 1 target tag src keyId 0).modeWaits target tag src keyId := by
  have hmay : s.mayAccept target = true := by simp [State.mayAccept, ha]
  unfold State.modeAccept
  rw [if_neg hm, if_neg (by simp [hmay]), if_neg ht]
  unfold State.modeWaits State.modeCleared
  rfl

theorem State.modeAccept_noTransition (hm : s.mode ≠ 1) (ha : s.isActive = true) (ht : transGuards s.mode target = none) :
    s.modeAccept target tag src keyId = s.modeResult 4 target tag src keyId s.guards := by
  have hmay : s.mayAccept target = true := by simp [State.mayAccept, ha]
  unfold State.modeAccept
  rw [if_neg hm, if_neg (by simp [hmay]), if_pos ht]

/-- What an accepted command shows, and that it waits. -/
theorem State.modeAccept_accepts (hm : s.mode ≠ 1) (ha : s.isActive = true) (ht : transGuards s.mode target ≠ none) :
    (s.modeAccept target tag src keyId).get R.MODE_STAT_PENDING = 1 ∧
    (s.modeAccept target tag src keyId).get R.MODE_CMD_STAT_RESULT = 1 ∧
    (s.modeAccept target tag src keyId).get R.MODE_CMD_STAT_TAG = tag % 256 ∧
    (s.modeAccept target tag src keyId).get R.MODE_CMD_STAT_GUARDS = 0 ∧
    (s.modeAccept target tag src keyId).mode = s.mode ∧
    (s.modeAccept target tag src keyId).mnf.pendingMode.map (fun c => (c.target, c.tag, c.src)) = some (target, tag, src) ∧
    (s.modeAccept target tag src keyId).role = s.role := by
  rw [State.modeAccept_transition s target tag src keyId hm ha ht]
  have hres := State.modeResult_accepted_framed (s.modeCleared target) target tag src keyId 0
  obtain ⟨hr, htag, hg⟩ := State.showResult_shows (s.modeCleared target) 1 tag 0
  have hshown : ∀ {f : Fld}, fkey f ≠ fkey R.MODE_STAT_PENDING → noteFld f = false →
      (((s.modeCleared target).modeResult 1 target tag src keyId 0).modeWaits target tag src keyId).get f =
        ((s.modeCleared target).showResult 1 tag 0).get f := fun hf hn =>
    (State.modeWaits_get _ _ _ _ _ hf).trans (hres.get_eq 0 hn List.not_mem_nil)
  refine ⟨State.modeWaits_shows _ _ _ _ _, (hshown (by decide) (by decide)).trans hr,
    (hshown (by decide) (by decide)).trans htag, (hshown (by decide) (by decide)).trans hg, ?_, ?_, ?_⟩
  · exact (State.modeWaits_get _ _ _ _ _ (by decide)).trans
      ((State.modeResult_mode _ _ _ _ _ _ _).trans (State.modeCleared_mode s target))
  · rw [State.modeWaits_pendingMode]
    rfl
  · rw [State.modeWaits_role, State.modeResult_role, State.modeCleared_role]

/-- What a refused command shows, and its frame. -/
theorem State.modeResult_refuses {ks : List Nat} {s₀ : State} (guards : Nat) {res : Nat} (hr : res ∈ [3, 4, 5])
    (hks : ∀ f ∈ R.MODE_EVT_CMD_REFUSED :: modeResultFlds, loc f 0 ∈ ks) (h : Framed ks s₀ s) :
    (s.modeResult res target tag src keyId guards).get R.MODE_CMD_STAT_RESULT = res % 2 ^ R.MODE_CMD_STAT_RESULT.width ∧
    (s.modeResult res target tag src keyId guards).get R.MODE_CMD_STAT_GUARDS = guards % 2 ^ R.MODE_CMD_STAT_GUARDS.width ∧
    (s.modeResult res target tag src keyId guards).get R.MODE_CMD_STAT_TAG = tag % 256 ∧
    (s.modeResult res target tag src keyId guards).get R.MODE_EVT_CMD_REFUSED = 1 ∧
    Framed ks s₀ (s.modeResult res target tag src keyId guards) := by
  have hres := State.modeResult_refused_framed s target tag src keyId guards hr
  obtain ⟨hresult, htag, hguards⟩ := State.showResult_shows s res tag guards
  have hshown : ∀ {f : Fld}, fkey f ≠ fkey R.MODE_EVT_CMD_REFUSED → noteFld f = false →
      (s.modeResult res target tag src keyId guards).get f = (s.showResult res tag guards).get f := fun hf hn =>
    (hres.get_eq 0 hn List.not_mem_nil).trans (State.evt_get_ne _ _ _ hn hf)
  refine ⟨(hshown (by decide) (by decide)).trans hresult, (hshown (by decide) (by decide)).trans hguards,
    (hshown (by decide) (by decide)).trans htag, ?_, ?_⟩
  · rw [hres.get_eq 0 (by decide) List.not_mem_nil]
    exact State.evt_get_same _ _ _ (by decide)
  · exact (State.evt_framed _ _ _ (.inl (hks _ List.mem_cons_self))
      (State.showResult_framed s res tag guards (fun f hf => hks f (List.mem_cons_of_mem _ hf)) h)).trans
      (hres.mono (List.nil_subset ks))

end

/-! ### From a source to the judgement (R51) -/

theorem exec_of_mem_modeCmds {dt tag : Nat} {src : CmdSrc} {x : Nat × Instr} (hx : x ∈ modeCmds dt src tag) (s : State) :
    exec x.2 s = .next ((s.advance dt).modeCmd x.1 src tag) := by
  simp only [modeCmds, List.mem_cons, List.not_mem_nil, or_false] at hx
  rcases hx with rfl | rfl | rfl | rfl | rfl <;> rfl

/-- The state in which a host's command is judged: awake, the session's idle time afresh, and MODE_CMD showing the command. -/
def State.hostAsked (s : State) (target tag : Nat) : State :=
  (State.set { s.lullLeave 1 with role := { s.role with rwlAt := s.now } } R.MODE_CMD_TARGET target).set R.MODE_CMD_TAG tag

theorem State.lullLeave_isActive (s : State) (c : Nat) : (s.lullLeave c).isActive = s.isActive := by
  unfold State.isActive State.flag
  rw [State.lullLeave_get _ _ _ (by decide)]

section
variable (s : State) (target tag : Nat)

theorem State.hostAsked_get {f : Fld} (hl : lullKeeps f = true) (ht : fkey f ≠ fkey R.MODE_CMD_TARGET)
    (hg : fkey f ≠ fkey R.MODE_CMD_TAG) : (s.hostAsked target tag).get f = s.get f :=
  (State.get_set_ne _ _ _ _ hg).trans ((State.get_set_ne _ _ _ _ ht).trans (State.lullLeave_get s 1 0 hl))

theorem State.hostAsked_mode : (s.hostAsked target tag).mode = s.mode :=
  State.hostAsked_get s target tag (by decide) (by decide) (by decide)

theorem State.hostAsked_isActive : (s.hostAsked target tag).isActive = s.isActive := by
  unfold State.isActive State.flag
  rw [State.hostAsked_get _ _ _ (by decide) (by decide) (by decide)]

theorem State.hostAsked_guards : (s.hostAsked target tag).guards = s.guards := by
  unfold State.guards
  simp (disch := decide) only [State.hostAsked_get]

/-- Two states in a frame stay so where both take the same role state. -/
theorem Framed.withRole {ks : List Nat} {s t : State} (r : RoleSt) (h : Framed ks s t) :
    Framed ks { s with role := r } { t with role := r } :=
  ⟨congrArg (fun u : State => { u with role := r }) h.plain, h.regs⟩

theorem State.hostAsked_framed {ks : List Nat} (hks : ∀ f ∈ [R.MODE_CMD_TARGET, R.MODE_CMD_TAG] ++ lullFlds, loc f 0 ∈ ks) :
    Framed ks { s with role := { s.role with rwlAt := s.now }, pwr := (s.lullLeave 1).pwr } (s.hostAsked target tag) := by
  have hlull : regKeys 0 lullFlds ⊆ ks := fun k hk => by
    obtain ⟨f, hf, rfl⟩ := List.mem_map.1 hk
    exact hks f (List.mem_append_right _ hf)
  have hl : Framed ks { s with pwr := (s.lullLeave 1).pwr } (s.lullLeave 1) := (State.lullLeave_framed s 1).mono hlull
  exact set_framed _ _ _ _ (.inl (hks _ (by decide))) (set_framed _ _ _ _ (.inl (hks _ (by decide)))
    (hl.withRole { s.role with rwlAt := s.now }))

theorem State.modeCmd_host (p : Port) (h : s.session p = some .operator) :
    s.modeCmd target (.host p) tag = (s.hostAsked target tag).modeAccept target (tag % 256) (.host p) s.role.keyId := by
  unfold State.modeCmd
  exact State.withRole_granted s p [.operator] 0x1004 _ .operator h (List.mem_singleton.2 rfl)

theorem State.modeCmd_denied (p : Port) (h : s.session p ≠ some .operator) :
    s.modeCmd target (.host p) tag = (s.lullLeave 1).rwlIgnored p 0x1004 := by
  unfold State.modeCmd
  exact State.withRole_denied s p [.operator] 0x1004 _ fun r hr hm => h (List.mem_singleton.1 hm ▸ hr)

theorem State.modeCmd_point {k : Nat} (h : k ∈ s.man.modePoints) :
    s.modeCmd target (.point k) tag = (s.lullLeave 9).modeAccept target (tag % 256) (.point k) s.operKeyId := if_pos h

theorem State.modeCmd_otherPoint {k : Nat} (h : k ∉ s.man.modePoints) : s.modeCmd target (.point k) tag = s := if_neg h

end

/-! ### The commands -/

/-- The registers that a refused command of a host port writes. -/
abbrev modeRefusalFlds : List Fld :=
  [R.MODE_CMD_TARGET, R.MODE_CMD_TAG, R.MODE_CMD_STAT_RESULT, R.MODE_CMD_STAT_TAG, R.MODE_CMD_STAT_GUARDS,
   R.MODE_EVT_CMD_REFUSED] ++ lullFlds

section
variable (dt tag : Nat) (s : State) {x : Nat × Instr}

/-- A command in an Operator session is judged once it shows in MODE_CMD. -/
theorem exec_modeCmds_host (p : Port) (hx : x ∈ modeCmds dt (.host p) tag) (hs : s.session p = some .operator) :
    exec x.2 s = .next (((s.advance dt).hostAsked x.1 tag).modeAccept x.1 (tag % 256) (.host p) s.role.keyId) :=
  (exec_of_mem_modeCmds hx s).trans (congrArg _ (State.modeCmd_host (s.advance dt) x.1 tag p hs))

/-- A command from a point that the manifest names is judged once the device wakes. -/
theorem exec_modeCmds_point (k : Nat) (hx : x ∈ modeCmds dt (.point k) tag) (hk : k ∈ s.man.modePoints) :
    exec x.2 s = .next (((s.advance dt).lullLeave 9).modeAccept x.1 (tag % 256) (.point k) s.operKeyId) :=
  (exec_of_mem_modeCmds hx s).trans (congrArg _ (State.modeCmd_point (s.advance dt) x.1 tag hk))

theorem modeCmds_host_accepted (p : Port) (hx : x ∈ modeCmds dt (.host p) tag) (hs : s.session p = some .operator)
    (hm : s.mode ≠ 1) (ha : s.isActive = true) (ht : transGuards s.mode x.1 ≠ none) :
    ∃ t, exec x.2 s = .next t ∧ t.get R.MODE_STAT_PENDING = 1 ∧ t.get R.MODE_CMD_STAT_RESULT = 1 ∧
      t.get R.MODE_CMD_STAT_TAG = tag % 256 ∧ t.get R.MODE_CMD_STAT_GUARDS = 0 ∧ t.mode = s.mode ∧
      (t.mnf.pendingMode.map fun c => (c.target, c.tag, c.src)) = some (x.1, tag % 256, .host p) ∧
      t.role.rwlAt = s.now + dt := by
  have hmode : ((s.advance dt).hostAsked x.1 tag).mode = s.mode := State.hostAsked_mode (s.advance dt) x.1 tag
  have hact := (State.hostAsked_isActive (s.advance dt) x.1 tag).trans ha
  rw [← hmode] at hm ht
  obtain ⟨hpend, hres, htag, hguards, hkept, hwaits, hrole⟩ :=
    State.modeAccept_accepts _ x.1 (tag % 256) (.host p) s.role.keyId hm hact ht
  exact ⟨_, exec_modeCmds_host dt tag s p hx hs, hpend, hres, htag.trans (Nat.mod_mod _ _), hguards, hkept.trans hmode,
    hwaits, congrArg RoleSt.rwlAt hrole⟩

theorem modeCmds_point_accepted (k : Nat) (hx : x ∈ modeCmds dt (.point k) tag) (hk : k ∈ s.man.modePoints)
    (hm : s.mode ≠ 1) (ha : s.isActive = true) (ht : transGuards s.mode x.1 ≠ none) :
    ∃ t, exec x.2 s = .next t ∧ t.get R.MODE_STAT_PENDING = 1 ∧ t.get R.MODE_CMD_STAT_RESULT = 1 ∧
      t.get R.MODE_CMD_STAT_TAG = tag % 256 ∧ t.mode = s.mode ∧
      (t.mnf.pendingMode.map fun c => (c.target, c.tag, c.src)) = some (x.1, tag % 256, .point k) ∧ t.role = s.role := by
  have hmode : ((s.advance dt).lullLeave 9).mode = s.mode := State.lullLeave_get (s.advance dt) 9 0 (by decide)
  have hact := (State.lullLeave_isActive (s.advance dt) 9).trans ha
  rw [← hmode] at hm ht
  obtain ⟨hpend, hres, htag, -, hkept, hwaits, hrole⟩ :=
    State.modeAccept_accepts _ x.1 (tag % 256) (.point k) s.operKeyId hm hact ht
  exact ⟨_, exec_modeCmds_point dt tag s k hx hk, hpend, hres, htag.trans (Nat.mod_mod _ _), hkept.trans hmode, hwaits,
    hrole.trans (State.lullLeave_role _ _)⟩

theorem exec_modeCmds_otherPoint (k : Nat) (hx : x ∈ modeCmds dt (.point k) tag) (hk : k ∉ s.man.modePoints) :
    exec x.2 s = .next (s.advance dt) :=
  (exec_of_mem_modeCmds hx s).trans (congrArg _ (State.modeCmd_otherPoint (s.advance dt) x.1 tag hk))

theorem modeCmds_host_denied (p : Port) (hx : x ∈ modeCmds dt (.host p) tag) (hs : s.session p ≠ some .operator) :
    ∃ t, exec x.2 s = .next t ∧ Framed (regKeys 0 lullFlds) { s.advance dt with pwr := t.pwr } t := by
  refine ⟨_, (exec_of_mem_modeCmds hx s).trans (congrArg _ (State.modeCmd_denied (s.advance dt) x.1 tag p hs)), ?_⟩
  rw [State.rwlIgnored_pwr]
  exact State.rwlIgnored_framed _ _ _ (State.lullLeave_framed (s.advance dt) 1)

theorem exec_modeCmds_host_noTransition (p : Port) (hx : x ∈ modeCmds dt (.host p) tag)
    (hs : s.session p = some .operator) (hm : s.mode ≠ 1) (ha : s.isActive = true) (ht : transGuards s.mode x.1 = none) :
    exec x.2 s = .next
      (((s.advance dt).hostAsked x.1 tag).modeResult 4 x.1 (tag % 256) (.host p) s.role.keyId s.guards) := by
  have hmode : ((s.advance dt).hostAsked x.1 tag).mode = s.mode := State.hostAsked_mode (s.advance dt) x.1 tag
  have hact := (State.hostAsked_isActive (s.advance dt) x.1 tag).trans ha
  have hguards : ((s.advance dt).hostAsked x.1 tag).guards = s.guards := State.hostAsked_guards (s.advance dt) x.1 tag
  rw [← hmode] at hm ht
  rw [exec_modeCmds_host dt tag s p hx hs, State.modeAccept_noTransition _ _ _ _ _ hm hact ht, hguards]

theorem modeCmds_host_refused (p : Port) (hx : x ∈ modeCmds dt (.host p) tag) (hs : s.session p = some .operator)
    (hm : s.mode ≠ 1) (ha : s.isActive = true) (ht : transGuards s.mode x.1 = none) :
    ∃ t, exec x.2 s = .next t ∧ t.get R.MODE_CMD_STAT_RESULT = 4 ∧
      t.get R.MODE_CMD_STAT_GUARDS = s.guards % 2 ^ R.MODE_CMD_STAT_GUARDS.width ∧
      t.get R.MODE_CMD_STAT_TAG = tag % 256 ∧ t.get R.MODE_EVT_CMD_REFUSED = 1 ∧
      Framed (regKeys 0 modeRefusalFlds)
        { s.advance dt with role := { s.role with rwlAt := s.now + dt }, pwr := t.pwr } t := by
  have hasked := State.hostAsked_framed (ks := regKeys 0 modeRefusalFlds) (s.advance dt) x.1 tag (by decide)
  obtain ⟨hres, hguards, htag, hevt, hf⟩ := State.modeResult_refuses _ x.1 (tag % 256) (.host p) s.role.keyId s.guards
    (res := 4) (by decide) (by decide) hasked
  refine ⟨_, exec_modeCmds_host_noTransition dt tag s p hx hs hm ha ht, hres, hguards, htag.trans (Nat.mod_mod _ _), hevt,
    ?_⟩
  rw [State.of_plain_pwr hf.plain]
  exact hf

end

/-- Settles O13: a command by its source and by what the judgement finds, each clause by its lemma above. -/
theorem modeCommands : Obligations.ModeCommands := by
  unfold Obligations.ModeCommands
  exact ⟨fun dt tag p s _ => modeCmds_host_accepted dt tag s p, fun dt tag k s _ => modeCmds_point_accepted dt tag s k,
    fun dt tag k s _ => exec_modeCmds_otherPoint dt tag s k, fun dt tag p s _ => modeCmds_host_denied dt tag s p,
    fun dt tag p s _ => modeCmds_host_refused dt tag s p⟩

end Sys2Proof.Machine
end

section
/-!
PROOF of the statement of 02_modes_and_muster.md about pairing (Pairing): what bringing up the trunks, the start of RUN-IN and
PAIR-HOLD show and leave alone; then the phase PAIR, and SYNC with its snapshot.
-/

namespace Sys2Proof.Machine

open Sys2Proof

/-! ### Trunk bring-up (R401, R435) -/

/-- The trunks come up: CAN, then Ethernet. -/
def State.trunksUp (s : State) : State := s.canUp.ethUp

/-- Bringing up the CAN trunks writes the mode and STB of channels alone. -/
theorem State.canUp_keeps {β : Type} (p : State → β) (hmode : ∀ u v b, p (State.set u R.CAN_STAT_MODE v b) = p u)
    (hstb : ∀ u v b, p (State.set u R.CAN_STAT_STB v b) = p u) (s : State) : p s.canUp = p s := by
  refine foldl_keeps p s.man.can (fun u x => ?_) s
  split
  · rfl
  split
  · rw [hstb, hmode]
  split
  · rw [hmode]
  · rfl

/-- Bringing up the Ethernet trunks writes the ports' own data and their TX_ON alone. -/
theorem State.ethUp_keeps {β : Type} (p : State → β) (htx : ∀ u v b, p (State.set u R.ETH_STAT_TX_ON v b) = p u)
    (hput : ∀ u n e, p (State.putEth u n e) = p u) (s : State) : p s.ethUp = p s := by
  refine foldl_keeps p s.man.eth (fun u x => ?_) s
  split
  · rfl
  · rw [State.setB_eq, htx, hput]

@[simp] theorem State.canUp_get (s : State) {f : Fld} (b : Nat) (hm : fkey f ≠ fkey R.CAN_STAT_MODE)
    (hs : fkey f ≠ fkey R.CAN_STAT_STB) : s.canUp.get f b = s.get f b :=
  State.canUp_keeps (·.get f b) (fun u v c => State.get_set_ne u _ v c hm) (fun u v c => State.get_set_ne u _ v c hs) s

theorem State.ethUp_get (s : State) {f : Fld} (b : Nat) (ht : fkey f ≠ fkey R.ETH_STAT_TX_ON) :
    s.ethUp.get f b = s.get f b :=
  State.ethUp_keeps (·.get f b) (fun u v c => State.get_set_ne u _ v c ht) (fun _ _ _ => rfl) s

@[simp] theorem State.trunksUp_get (s : State) {f : Fld} (b : Nat) (hm : fkey f ≠ fkey R.CAN_STAT_MODE)
    (hs : fkey f ≠ fkey R.CAN_STAT_STB) (ht : fkey f ≠ fkey R.ETH_STAT_TX_ON) : s.trunksUp.get f b = s.get f b :=
  (State.ethUp_get _ b ht).trans (State.canUp_get s b hm hs)

theorem State.trunksUp_tick (s : State) : s.trunksUp.tick = s.tick :=
  (State.ethUp_keeps (·.tick) (fun _ _ _ => rfl) (fun _ _ _ => rfl) _).trans
    (State.canUp_keeps (·.tick) (fun _ _ _ => rfl) (fun _ _ _ => rfl) s)

theorem State.trunksUp_mus (s : State) : s.trunksUp.mus = s.mus :=
  (State.ethUp_keeps (·.mus) (fun _ _ _ => rfl) (fun _ _ _ => rfl) _).trans
    (State.canUp_keeps (·.mus) (fun _ _ _ => rfl) (fun _ _ _ => rfl) s)

@[simp] theorem State.canUp_mus (s : State) : s.canUp.mus = s.mus :=
  State.canUp_keeps (·.mus) (fun _ _ _ => rfl) (fun _ _ _ => rfl) s

/-! ### The start of RUN-IN (R45, R47) -/

/-- The registers that the start of RUN-IN writes, ahead of the trunks. -/
def State.runInRegs (s : State) (active paired : Bool) : State :=
  (((((s.set R.MODE_STAT_PHASE 8).setB R.MODE_STAT_ACTIVE active).setB R.MODE_STAT_PAIRED paired).setB
    R.TWIN_STAT_ACTIVE_OUT active).setB R.TWIN_STAT_PEER_OK_OUT (active || paired)).set R.TWIN_STAT_STATE
      (if paired then 4 else 0)

theorem State.runInRegs_shows (s : State) (active paired : Bool) : (s.runInRegs active paired).get R.MODE_STAT_PHASE = 8 ∧
    (s.runInRegs active paired).isActive = active ∧ (s.runInRegs active paired).isPaired = paired ∧
    (s.runInRegs active paired).get R.TWIN_STAT_ACTIVE_OUT = (if active then 1 else 0) ∧
    (s.runInRegs active paired).get R.TWIN_STAT_STATE = (if paired then 4 else 0) := by
  unfold State.isActive State.isPaired State.flag State.runInRegs
  simp (disch := decide) only [State.setB_eq, State.get_set_ne, State.get_set_same]
  cases active <;> cases paired <;> decide

section
variable (s : State) (active paired : Bool) (tick0 : Nat)

theorem State.startRunIn_eq : s.startRunIn active paired tick0 = State.trunksUp
    { s.pairingEnd.runInRegs active paired with
      tick := tick0, mus := { (s.pairingEnd.runInRegs active paired).mus with runInAt := s.pairingEnd.now } } := rfl

theorem State.pairingEnd_seatBAt : s.pairingEnd.mus.seatBAt = s.mus.seatBAt := by
  unfold State.pairingEnd
  split <;> rfl

/-- What RUN-IN starts with. -/
theorem State.startRunIn_shows : (s.startRunIn active paired tick0).get R.MODE_STAT_PHASE = 8 ∧
    (s.startRunIn active paired tick0).isActive = active ∧ (s.startRunIn active paired tick0).isPaired = paired ∧
    (s.startRunIn active paired tick0).get R.TWIN_STAT_ACTIVE_OUT = (if active then 1 else 0) ∧
    (s.startRunIn active paired tick0).get R.TWIN_STAT_STATE = (if paired then 4 else 0) ∧
    (s.startRunIn active paired tick0).tick = tick0 ∧
    (s.startRunIn active paired tick0).mus.seatBAt = s.mus.seatBAt := by
  have hget : ∀ {f : Fld}, fkey f ≠ fkey R.CAN_STAT_MODE → fkey f ≠ fkey R.CAN_STAT_STB → fkey f ≠ fkey R.ETH_STAT_TX_ON →
      (s.startRunIn active paired tick0).get f = (s.pairingEnd.runInRegs active paired).get f := fun hm hs ht => by
    rw [State.startRunIn_eq, State.trunksUp_get _ 0 hm hs ht]
    rfl
  rw [hget (by decide) (by decide) (by decide), hget (by decide) (by decide) (by decide),
    hget (by decide) (by decide) (by decide), State.isActive, State.isPaired, State.flag, State.flag,
    hget (by decide) (by decide) (by decide), hget (by decide) (by decide) (by decide)]
  obtain ⟨hphase, hactive, hpaired, hout, hstate⟩ := s.pairingEnd.runInRegs_shows active paired
  exact ⟨hphase, hactive, hpaired, hout, hstate, State.trunksUp_tick _,
    (congrArg MusterSt.seatBAt (State.trunksUp_mus _)).trans (State.pairingEnd_seatBAt s)⟩

end

/-! ### Becoming active alone (R49) -/

section
variable (s : State) (reason : Nat)

theorem State.unpairedAlarm_get {f : Fld} (hn : noteFld f = false) (he : fkey f ≠ fkey R.TWIN_EVT_UNPAIRED)
    (hp : fkey f ≠ fkey R.MODE_STAT_PAIRED) : (s.unpairedAlarm reason).get f = s.get f :=
  (State.alarm_get _ _ _ _ _ _ hn).trans ((State.evt_get_ne _ _ _ hn he).trans (State.get_set_ne _ _ _ _ hp))

theorem State.unpairedAlarm_isPaired : (s.unpairedAlarm reason).isPaired = false := by
  unfold State.unpairedAlarm State.isPaired State.flag
  rw [State.alarm_get _ _ _ _ _ _ (by decide), State.evt_get_ne _ _ _ (by decide) (by decide), State.get_set_same]
  rfl

theorem State.unpairedAlarm_isActive : (s.unpairedAlarm reason).isActive = s.isActive := by
  unfold State.isActive State.flag
  rw [State.unpairedAlarm_get s reason (by decide) (by decide) (by decide)]

theorem State.unpairedAlarm_tick : (s.unpairedAlarm reason).tick = s.tick := by simp [State.unpairedAlarm]

theorem State.unpairedAlarm_mus : (s.unpairedAlarm reason).mus = s.mus := by simp [State.unpairedAlarm]

theorem State.unpairedAlarm_twin :
    (s.unpairedAlarm reason).twin = { s.twin with unpairedAlarm := true, unpairedReason := reason } := by
  simp [State.unpairedAlarm]

end

/-- The device runs in as active, with the pairing alarm raised. -/
theorem State.activeAlone_shows (s : State) : s.activeAlone.get R.MODE_STAT_PHASE = 8 ∧ s.activeAlone.isActive = true ∧
    s.activeAlone.isPaired = false ∧ s.activeAlone.get R.TWIN_STAT_ACTIVE_OUT = 1 ∧ s.activeAlone.tick = 0 ∧
    s.activeAlone.mus.seatBAt = s.mus.seatBAt ∧ s.activeAlone.twin.unpairedAlarm = true := by
  obtain ⟨hphase, hactive, -, hout, -, htick, hseat⟩ := s.startRunIn_shows true false 0
  unfold State.activeAlone
  rw [State.unpairedAlarm_get _ _ (by decide) (by decide) (by decide),
    State.unpairedAlarm_get _ _ (by decide) (by decide) (by decide), State.unpairedAlarm_isActive,
    State.unpairedAlarm_isPaired, State.unpairedAlarm_tick, State.unpairedAlarm_mus, State.unpairedAlarm_twin]
  exact ⟨hphase, hactive, rfl, hout, htick, hseat, rfl⟩

/-! ### PAIR-HOLD (R45, R49) -/

theorem State.pairHold_shows (s : State) (activeIn : Bool) : (s.pairHold activeIn).get R.MODE_STAT_PHASE = 9 ∧
    (s.pairHold activeIn).get R.TWIN_STAT_STATE = 7 ∧ (s.pairHold activeIn).get R.MODE_EVT_PAIR_HOLD = 1 ∧
    (s.pairHold activeIn).mus = s.mus := by
  unfold State.pairHold
  simp (disch := decide) only [State.canUp_get, State.canUp_mus, State.record_get, State.record_mus, State.evt_get_ne,
    State.evt_get_same, State.evt_mus, State.get_set_ne, State.get_set_same, State.set_mus]
  exact ⟨rfl, rfl, rfl, trivial⟩

/-! ### Flags, and the data of MUSTER and the twin link -/

section
variable (s : State) (f : Fld) (c : Bool) (b : Nat)

/-- A flag shows what it was given. -/
theorem State.get_setB_same (h : f.width = 1) : (s.setB f c b).get f b = if c then 1 else 0 := by
  rw [State.setB_eq, State.get_set_same, h]
  cases c <;> rfl

@[simp] theorem State.setB_get_ne {g : Fld} {k : Nat} (h : fkey g ≠ fkey f) : (s.setB f c b).get g k = s.get g k :=
  State.get_set_ne _ _ _ _ h

@[simp] theorem State.setB_now : (s.setB f c b).now = s.now := rfl
@[simp] theorem State.setB_mus : (s.setB f c b).mus = s.mus := rfl

theorem setB_framed {ks : List Nat} {s₀ : State} (hf : loc f b ∈ ks ∨ noteFld f = true) (h : Framed ks s₀ s) :
    Framed ks s₀ (s.setB f c b) := set_framed _ _ _ _ hf h

end

/-- Sampling ACTIVE_IN leaves the mode. -/
@[simp] theorem State.setB_activeIn_mode (s : State) (c : Bool) : (s.setB R.TWIN_STAT_ACTIVE_IN c).mode = s.mode :=
  State.get_set_ne _ _ _ _ (by decide)

/-- The data of MUSTER takes a value. -/
def State.putMus (s : State) (m : MusterSt) : State := { s with mus := m }

theorem State.putMus_get (s : State) (m : MusterSt) (f : Fld) (b : Nat) : (s.putMus m).get f b = s.get f b := rfl

theorem Framed.withMus {ks : List Nat} {s t : State} (m : MusterSt) (h : Framed ks s t) :
    Framed ks { s with mus := m } (t.putMus m) :=
  ⟨congrArg (fun u : State => { u with mus := m }) h.plain, h.regs⟩

/-- The data of the twin link takes a value. -/
def State.putTwin (s : State) (m : TwinSt) : State := { s with twin := m }

theorem State.putTwin_get (s : State) (m : TwinSt) (f : Fld) (b : Nat) : (s.putTwin m).get f b = s.get f b := rfl

theorem Framed.withTwin {ks : List Nat} {s t : State} (m : TwinSt) (h : Framed ks s t) :
    Framed ks { s with twin := m } (t.putTwin m) :=
  ⟨congrArg (fun u : State => { u with twin := m }) h.plain, h.regs⟩

/-! ### The phase PAIR (R45, R49) -/

/-- No peer, and nothing on ACTIVE_IN: seat B waits 250 ms. -/
theorem State.noPeer_seatB (s : State) (h : s.mus.straps.seatB = true) :
    s.noPeer false = s.putMus { s.mus with seatBAt := some s.now } := if_pos h

section
variable (dt : Nat) (s : State) (hm : s.mode = 1)
include hm

/-- With no peer within 2 s the device looks at ACTIVE_IN. -/
theorem exec_pairTimeout (a : Bool) (hp : s.get R.MODE_STAT_PHASE = 6)
    (ht : s.mus.pairAt + 2000000000 ≤ s.now + dt) (hb : s.mus.seatBAt = none) :
    exec (.pairTimeout dt a) s = .next (((s.advance dt).setB R.TWIN_STAT_ACTIVE_IN a).noPeer a) := by
  refine (if_pos ?_ : execPairTimeout dt a s = _)
  simp (disch := decide) [hm, hp, ht, hb]

theorem pairTimeout_seatB (hp : s.get R.MODE_STAT_PHASE = 6) (ht : s.mus.pairAt + 2000000000 ≤ s.now + dt)
    (hb : s.mus.seatBAt = none) (hseat : s.mus.straps.seatB = true) :
    ∃ t, exec (.pairTimeout dt false) s = .next t ∧ t.get R.TWIN_STAT_ACTIVE_IN = 0 ∧
      Framed [loc R.TWIN_STAT_ACTIVE_IN 0] { s.advance dt with mus := { s.mus with seatBAt := some (s.now + dt) } } t :=
  ⟨_, (exec_pairTimeout dt s hm false hp ht hb).trans
      (congrArg _ (State.noPeer_seatB ((s.advance dt).setB R.TWIN_STAT_ACTIVE_IN false) hseat)),
    (State.putMus_get _ _ _ _).trans (State.get_setB_same (s.advance dt) R.TWIN_STAT_ACTIVE_IN false 0 rfl),
    (setB_framed _ _ _ _ (.inl (List.mem_singleton.2 rfl)) (.refl _ (s.advance dt))).withMus _⟩

theorem pairTimeout_holds (hp : s.get R.MODE_STAT_PHASE = 6) (ht : s.mus.pairAt + 2000000000 ≤ s.now + dt)
    (hb : s.mus.seatBAt = none) :
    ∃ t, exec (.pairTimeout dt true) s = .next t ∧ t.get R.MODE_STAT_PHASE = 9 ∧ t.get R.TWIN_STAT_STATE = 7 ∧
      t.get R.MODE_EVT_PAIR_HOLD = 1 := by
  obtain ⟨hphase, hstate, hevt, -⟩ := ((s.advance dt).setB R.TWIN_STAT_ACTIVE_IN true).pairHold_shows true
  exact ⟨_, exec_pairTimeout dt s hm true hp ht hb, hphase, hstate, hevt⟩

/-- 250 ms later seat B decides by ACTIVE_IN. -/
theorem exec_seatBRecheck (a : Bool) {t₀ : Nat} (hb : s.mus.seatBAt = some t₀) (hp : s.get R.MODE_STAT_PHASE = 6)
    (ht : t₀ + 250000000 ≤ s.now + dt) :
    exec (.seatBRecheck dt a) s = .next
      (if a then (((s.advance dt).setB R.TWIN_STAT_ACTIVE_IN a).putMus { s.mus with seatBAt := none }).pairHold true
       else (((s.advance dt).setB R.TWIN_STAT_ACTIVE_IN a).putMus { s.mus with seatBAt := none }).activeAlone) := by
  show execSeatBRecheck dt a s = _
  unfold execSeatBRecheck
  simp (disch := decide) [hm, hp, hb, ht]
  cases a <;> rfl

theorem seatBRecheck_alone {t₀ : Nat} (hb : s.mus.seatBAt = some t₀) (hp : s.get R.MODE_STAT_PHASE = 6)
    (ht : t₀ + 250000000 ≤ s.now + dt) :
    ∃ t, exec (.seatBRecheck dt false) s = .next t ∧ t.get R.MODE_STAT_PHASE = 8 ∧ t.isActive = true ∧
      t.isPaired = false ∧ t.get R.TWIN_STAT_ACTIVE_OUT = 1 ∧ t.tick = 0 ∧ t.mus.seatBAt = none ∧
      t.twin.unpairedAlarm = true :=
  ⟨_, exec_seatBRecheck dt s hm false hb hp ht, State.activeAlone_shows _⟩

theorem seatBRecheck_holds {t₀ : Nat} (hb : s.mus.seatBAt = some t₀) (hp : s.get R.MODE_STAT_PHASE = 6)
    (ht : t₀ + 250000000 ≤ s.now + dt) :
    ∃ t, exec (.seatBRecheck dt true) s = .next t ∧ t.get R.MODE_STAT_PHASE = 9 ∧ t.get R.TWIN_STAT_STATE = 7 ∧
      t.mus.seatBAt = none := by
  obtain ⟨hphase, hstate, -, hmus⟩ :=
    (((s.advance dt).setB R.TWIN_STAT_ACTIVE_IN true).putMus { s.mus with seatBAt := none }).pairHold_shows true
  exact ⟨_, exec_seatBRecheck dt s hm true hb hp ht, hphase, hstate, congrArg MusterSt.seatBAt hmus⟩

theorem exec_pairHoldRetry (hp : s.get R.MODE_STAT_PHASE = 9) (ht : s.mus.pairAt + 1000000000 ≤ s.now + dt) :
    exec (.pairHoldRetry dt) s = .next { s.advance dt with mus := { s.mus with pairAt := s.now + dt } } := by
  refine (if_pos ?_ : execPairHoldRetry dt s = _)
  simp [hm, hp, ht]

end

/-! ### The handshake (R49, R355, R356) -/

/-- A peer that is not refused has answered. -/
def State.metPeer (s : State) (p : PeerInfo) (activeIn : Bool) : State :=
  ((s.setB R.TWIN_STAT_ACTIVE_IN activeIn).set R.TWIN_STAT_REFUSAL 0).putTwin { s.twin with peer := some p }

theorem State.metPeer_get (s : State) (p : PeerInfo) (activeIn : Bool) {f : Fld} (ha : fkey f ≠ fkey R.TWIN_STAT_ACTIVE_IN)
    (hr : fkey f ≠ fkey R.TWIN_STAT_REFUSAL) : (s.metPeer p activeIn).get f = s.get f := by
  unfold State.metPeer
  rw [State.putTwin_get, State.get_set_ne _ _ _ _ hr, State.setB_get_ne _ _ _ _ ha]

/-- SYNC starts, at the standby. -/
def State.syncBegins (s : State) : State :=
  (((s.set R.MODE_STAT_PHASE 7).set R.TWIN_STAT_STATE 3).putTwin
    { s.twin with syncAt := s.now, syncBlocks := 0 }).syncRecord 1 0 0

section
variable (s : State)

theorem State.syncBegins_get {f : Fld} (hn : noteFld f = false) :
    s.syncBegins.get f = ((s.set R.MODE_STAT_PHASE 7).set R.TWIN_STAT_STATE 3).get f := State.record_get _ _ _ hn

theorem State.syncBegins_phase : s.syncBegins.get R.MODE_STAT_PHASE = 7 := by
  rw [State.syncBegins_get s (by decide), State.get_set_ne _ _ _ _ (by decide), State.get_set_same]
  rfl

theorem State.syncBegins_state : s.syncBegins.get R.TWIN_STAT_STATE = 3 := by
  rw [State.syncBegins_get s (by decide), State.get_set_same]
  rfl

theorem State.syncBegins_get_ne {f : Fld} (hn : noteFld f = false) (hp : fkey f ≠ fkey R.MODE_STAT_PHASE)
    (ht : fkey f ≠ fkey R.TWIN_STAT_STATE) : s.syncBegins.get f = s.get f := by
  rw [State.syncBegins_get s hn, State.get_set_ne _ _ _ _ ht, State.get_set_ne _ _ _ _ hp]

theorem State.syncBegins_framed {ks : List Nat} {s₀ : State} (hks : ∀ f ∈ [R.MODE_STAT_PHASE, R.TWIN_STAT_STATE], loc f 0 ∈ ks)
    (h : Framed ks s₀ s) :
    Framed ks { s₀ with twin := { s.twin with syncAt := s.now, syncBlocks := 0 } } s.syncBegins := by
  unfold State.syncBegins State.syncRecord
  exact State.record_framed _ _ ((set_framed _ _ _ _ (.inl (hks _ (by decide)))
    (set_framed _ _ _ _ (.inl (hks _ (by decide))) h)).withTwin _)

variable (p : PeerInfo) (activeIn : Bool)

theorem State.metPeer_refusal : (s.metPeer p activeIn).get R.TWIN_STAT_REFUSAL = 0 := by
  unfold State.metPeer
  rw [State.putTwin_get, State.get_set_same, Nat.zero_mod]

theorem State.metPeer_activeIn : (s.metPeer p activeIn).get R.TWIN_STAT_ACTIVE_IN = if activeIn then 1 else 0 := by
  unfold State.metPeer
  rw [State.putTwin_get, State.get_set_ne _ _ _ _ (by decide), State.get_setB_same _ _ _ _ rfl]

theorem State.metPeer_framed {ks : List Nat} (hks : ∀ f ∈ [R.TWIN_STAT_REFUSAL, R.TWIN_STAT_ACTIVE_IN], loc f 0 ∈ ks) :
    Framed ks { s with twin := { s.twin with peer := some p } } (s.metPeer p activeIn) := by
  unfold State.metPeer
  exact (set_framed _ _ _ _ (.inl (hks _ (by decide))) (setB_framed _ _ _ _ (.inl (hks _ (by decide))) (.refl _ s))).withTwin _

end

/-- The judgement of a peer does not read ACTIVE_IN. -/
theorem State.setB_activeIn_refusal (s : State) (c : Bool) (p : PeerInfo) :
    (s.setB R.TWIN_STAT_ACTIVE_IN c).refusal p = s.refusal p := by
  unfold State.refusal State.mark
  simp (disch := decide) only [State.setB_get_ne]
  rfl

@[simp] theorem State.advance_refusal (s : State) (dt : Nat) (p : PeerInfo) : (s.advance dt).refusal p = s.refusal p := rfl

/-- A peer of a working mode is joined. -/
def peerLeads (p : PeerInfo) : Bool := p.active && 2 ≤ p.mode && p.mode ≤ 5

/-- The retry that found a peer from PAIR-HOLD is recorded. -/
def State.heldNote (s : State) (activeIn : Bool) : State :=
  if decide (s.get R.MODE_STAT_PHASE = 9) then
    s.record { code := 0x0206, items := [(1, if activeIn then 1 else 0), (1, 0)] }
  else s

/-- The peer is taken in PAIR: the device joins one that leads, and otherwise both run in. -/
def State.pairWith (s : State) (p : PeerInfo) : State :=
  if peerLeads p then s.syncBegins else (s.startRunIn (!s.mus.straps.seatB) true 0).evt R.TWIN_EVT_PAIRED

section
variable (dt : Nat) (p : PeerInfo) (a : Bool) (s : State) (hm : s.mode = 1) (hp : s.get R.MODE_STAT_PHASE = 6)
  (hr : s.refusal p = 0)
include hm hp hr

/-- In PAIR a peer that is not refused is taken. -/
theorem exec_pairHandshake_pairs :
    exec (.pairHandshake dt p a) s = .next (((s.advance dt).metPeer p a).pairWith p) := by
  have hmode : ((s.advance dt).setB R.TWIN_STAT_ACTIVE_IN a).mode = 1 := by
    rw [State.setB_activeIn_mode, State.advance_mode, hm]
  have hphase : ((s.advance dt).setB R.TWIN_STAT_ACTIVE_IN a).get R.MODE_STAT_PHASE = 6 := by
    rw [State.setB_get_ne _ _ _ _ (by decide), State.advance_get, hp]
  have hwhy : ((s.advance dt).setB R.TWIN_STAT_ACTIVE_IN a).refusal p = 0 := by
    rw [State.setB_activeIn_refusal, State.advance_refusal, hr]
  have hhold : decide (((s.advance dt).metPeer p a).get R.MODE_STAT_PHASE = 9) = false := by
    rw [State.metPeer_get _ _ _ (by decide) (by decide), State.advance_get, hp]
    rfl
  have hheld : ((s.advance dt).metPeer p a).heldNote a = (s.advance dt).metPeer p a := if_neg (by rw [hhold]; decide)
  refine (if_neg ?_ : execPairHandshake dt p a s = _).trans ((if_neg ?_).trans ((if_neg ?_).trans ?_))
  · simp [hmode, hphase]
  · simp [hwhy]
  · simp [hmode]
  · rw [hwhy]
    by_cases h : peerLeads p = true
    · refine (if_pos h).trans ?_
      show Host.Outcome.next (((s.advance dt).metPeer p a).heldNote a).syncBegins = _
      rw [hheld, State.pairWith, if_pos h]
    · refine (if_neg h).trans ?_
      show Host.Outcome.next (State.evt (State.startRunIn (((s.advance dt).metPeer p a).heldNote a)
        (!decide (((s.advance dt).metPeer p a).get R.MODE_STAT_PHASE = 9) &&
          !(((s.advance dt).metPeer p a).heldNote a).mus.straps.seatB) true 0) R.TWIN_EVT_PAIRED) = _
      rw [hheld, hhold, State.pairWith, if_neg h]
      rfl

theorem pairHandshake_syncs (hact : p.active = true) (hlo : 2 ≤ p.mode) (hhi : p.mode ≤ 5) :
    ∃ t, exec (.pairHandshake dt p a) s = .next t ∧ t.get R.MODE_STAT_PHASE = 7 ∧ t.get R.TWIN_STAT_STATE = 3 ∧
      t.get R.TWIN_STAT_REFUSAL = 0 ∧ t.get R.TWIN_STAT_ACTIVE_IN = (if a then 1 else 0) ∧
      Framed (regKeys 0 [R.MODE_STAT_PHASE, R.TWIN_STAT_STATE, R.TWIN_STAT_REFUSAL, R.TWIN_STAT_ACTIVE_IN])
        { s.advance dt with twin := { s.twin with peer := some p, syncAt := s.now + dt, syncBlocks := 0 } } t := by
  have hleads : peerLeads p = true := by simp [peerLeads, hact, hlo, hhi]
  have hmet : ((s.advance dt).metPeer p a).pairWith p = ((s.advance dt).metPeer p a).syncBegins := if_pos hleads
  have hframe := State.metPeer_framed (s.advance dt) p a
    (ks := regKeys 0 [R.MODE_STAT_PHASE, R.TWIN_STAT_STATE, R.TWIN_STAT_REFUSAL, R.TWIN_STAT_ACTIVE_IN]) (by decide)
  refine ⟨_, (exec_pairHandshake_pairs dt p a s hm hp hr).trans (congrArg _ hmet), State.syncBegins_phase _,
    State.syncBegins_state _, ?_, ?_, State.syncBegins_framed _ (by decide) hframe⟩
  · rw [State.syncBegins_get_ne _ (by decide) (by decide) (by decide), State.metPeer_refusal]
  · rw [State.syncBegins_get_ne _ (by decide) (by decide) (by decide), State.metPeer_activeIn]

theorem pairHandshake_runsIn (hpeer : p.active = false ∨ p.mode < 2 ∨ 5 < p.mode) :
    ∃ t, exec (.pairHandshake dt p a) s = .next t ∧ t.get R.MODE_STAT_PHASE = 8 ∧ t.isPaired = true ∧
      t.isActive = !s.mus.straps.seatB ∧ t.get R.TWIN_STAT_STATE = 4 ∧ t.tick = 0 := by
  have hleads : ¬ peerLeads p = true := by
    simp only [peerLeads, Bool.and_eq_true, decide_eq_true_eq]
    rintro ⟨⟨hact, hlo⟩, hhi⟩
    rcases hpeer with h | h | h
    · exact absurd (hact.symm.trans h) (by decide)
    all_goals omega
  obtain ⟨hphase, hactive, hpaired, -, hstate, htick, -⟩ :=
    ((s.advance dt).metPeer p a).startRunIn_shows (!s.mus.straps.seatB) true 0
  refine ⟨_, (exec_pairHandshake_pairs dt p a s hm hp hr).trans (congrArg _ (if_neg hleads)), ?_, ?_, ?_, ?_, ?_⟩
  · exact (State.evt_get_ne _ _ _ (by decide) (by decide)).trans hphase
  · rw [State.isPaired, State.flag, State.evt_get_ne _ _ _ (by decide) (by decide)]
    exact hpaired
  · rw [State.isActive, State.flag, State.evt_get_ne _ _ _ (by decide) (by decide)]
    exact hactive
  · exact (State.evt_get_ne _ _ _ (by decide) (by decide)).trans hstate
  · rw [State.evt_tick]
    exact htick

end

/-! ### The snapshot (R356) -/

section
variable (s : State) (b : SnapBlock)

/-- A block without registers writes points alone. -/
theorem State.loadBlock_keeps {β : Type} (p : State → β) (hpts : ∀ (u : State) l, p { u with pts := l } = p u)
    (hb : b.regs = []) : p (s.loadBlock b) = p s := by
  unfold State.loadBlock
  rw [hb]
  exact foldl_keeps p b.pts (fun u _ => hpts u _) s

theorem State.loadBlock_empty (hr : b.regs = []) (hp : b.pts = []) : s.loadBlock b = s := by
  unfold State.loadBlock
  rw [hr, hp]
  rfl

end

theorem exec_snapshotBlockReceive_more (dt : Nat) (b : SnapBlock) (s : State) (hs : s.get R.TWIN_STAT_STATE = 3)
    (hn : s.twin.syncBlocks + 1 < b.total) (hr : b.regs = []) (hp : b.pts = []) :
    exec (.snapshotBlockReceive dt b) s =
      .next { s.advance dt with twin := { s.twin with syncBlocks := s.twin.syncBlocks + 1 } } := by
  have hload : (s.advance dt).loadBlock b = s.advance dt := State.loadBlock_empty _ b hr hp
  have hst : ¬ (s.advance dt).get R.TWIN_STAT_STATE ≠ 3 := not_not.2 hs
  refine (if_neg hst : execSnapshotBlockReceive dt b s = _).trans ((if_pos ?_).trans ?_)
  · rw [hload]
    exact hn
  · rw [hload]
    rfl

/-- The length and size of the snapshot are noted. -/
def State.syncTimed (s : State) (b : SnapBlock) : State :=
  ((s.setSat R.TWIN_SYNC_MS ((s.now - s.twin.syncAt) / 1000000)).set R.TWIN_SYNC_MIB (b.total * 4096 / 1048576)).syncRecord
    1 ((s.now - s.twin.syncAt) / 1000000) 1

/-- The standby is in step, at the active's tick. -/
def State.joinedAt (s : State) (tick : Nat) : State :=
  { ((s.set R.TWIN_STAT_STATE 4).set R.MODE_STAT_PAIRED 1).set R.TWIN_STAT_PEER_OK_OUT 1 with tick := tick }

/-- Samples of the time link from before the snapshot are dropped. -/
def State.dropPtp (s : State) : State := { s with time := { s.time with ptp := [] } }

theorem State.joinedAt_get (s : State) (tick : Nat) (f : Fld) : (s.joinedAt tick).dropPtp.get f =
    (((s.set R.TWIN_STAT_STATE 4).set R.MODE_STAT_PAIRED 1).set R.TWIN_STAT_PEER_OK_OUT 1).get f := rfl

theorem State.syncTimed_mode (s : State) (b : SnapBlock) : (s.syncTimed b).mode = s.mode := by
  unfold State.syncTimed State.syncRecord State.mode State.setSat
  simp (disch := decide) only [State.record_get, State.get_set_ne]

theorem State.joinedAt_shows (s : State) (tick : Nat) : ((s.joinedAt tick).dropPtp.evt R.TWIN_EVT_PAIRED).get R.TWIN_STAT_STATE = 4 ∧
    ((s.joinedAt tick).dropPtp.evt R.TWIN_EVT_PAIRED).isPaired = true ∧
    ((s.joinedAt tick).dropPtp.evt R.TWIN_EVT_PAIRED).get R.TWIN_STAT_PEER_OK_OUT = 1 ∧
    ((s.joinedAt tick).dropPtp.evt R.TWIN_EVT_PAIRED).tick = tick ∧
    ((s.joinedAt tick).dropPtp.evt R.TWIN_EVT_PAIRED).get R.TWIN_EVT_PAIRED = 1 := by
  unfold State.isPaired State.flag
  simp (disch := decide) only [State.evt_get_ne, State.evt_get_same, State.evt_tick, State.joinedAt_get, State.get_set_ne,
    State.get_set_same]
  exact ⟨rfl, rfl, rfl, rfl, rfl⟩

/-- With the last block, outside MUSTER, the standby is in step. -/
theorem exec_snapshotBlockReceive_last (dt : Nat) (b : SnapBlock) (s : State) (hs : s.get R.TWIN_STAT_STATE = 3)
    (hm : s.mode = 5) (hn : b.total ≤ s.twin.syncBlocks + 1) (hr : b.regs = []) :
    ∃ u : State, exec (.snapshotBlockReceive dt b) s = .next ((u.joinedAt b.tick).dropPtp.evt R.TWIN_EVT_PAIRED) := by
  have htwin : ((s.advance dt).loadBlock b).twin = s.twin := State.loadBlock_keeps _ b (·.twin) (fun _ _ => rfl) hr
  have hmode : ((s.advance dt).loadBlock b).mode = 5 :=
    (State.loadBlock_keeps (s.advance dt) b (·.mode) (fun _ _ => rfl) hr).trans hm
  generalize hu : (s.advance dt).loadBlock b = u at htwin hmode
  have hst : ¬ (s.advance dt).get R.TWIN_STAT_STATE ≠ 3 := not_not.2 hs
  have hout : ¬ ((u.putTwin { u.twin with syncBlocks := u.twin.syncBlocks + 1 }).syncTimed b).mode = 1 := by
    rw [State.syncTimed_mode]
    exact fun h => absurd (hmode.symm.trans h) (by decide)
  refine ⟨(u.putTwin { u.twin with syncBlocks := u.twin.syncBlocks + 1 }).syncTimed b,
    (if_neg hst : execSnapshotBlockReceive dt b s = _).trans ?_⟩
  rw [hu]
  refine (if_neg ?_).trans ?_
  · rw [htwin]
    exact Nat.not_lt.2 hn
  · exact congrArg (fun v : State => Host.Outcome.next (v.dropPtp.evt R.TWIN_EVT_PAIRED)) (if_neg hout)

theorem snapshotBlockReceive_joins (dt : Nat) (b : SnapBlock) (s : State) (hs : s.get R.TWIN_STAT_STATE = 3)
    (hm : s.mode = 5) (hn : b.total ≤ s.twin.syncBlocks + 1) (hr : b.regs = []) :
    ∃ t, exec (.snapshotBlockReceive dt b) s = .next t ∧ t.get R.TWIN_STAT_STATE = 4 ∧ t.isPaired = true ∧
      t.get R.TWIN_STAT_PEER_OK_OUT = 1 ∧ t.tick = b.tick ∧ t.get R.TWIN_EVT_PAIRED = 1 := by
  obtain ⟨u, hu⟩ := exec_snapshotBlockReceive_last dt b s hs hm hn hr
  exact ⟨_, hu, u.joinedAt_shows b.tick⟩

/-! ### The time-out of SYNC, and its retry (R356, R367) -/

/-- PAIR is tried again. -/
def State.pairAgain (s : State) : State :=
  ((s.putMus { s.mus with pairAt := s.now }).set R.MODE_STAT_PHASE 6).set R.TWIN_STAT_STATE 1

/-- The standby stays detached until its next try. -/
def State.syncFailed (s : State) : State :=
  (s.putTwin { s.twin with syncRetryAt := s.now }).set R.TWIN_STAT_STATE 5

/-- A detached standby tries SYNC again. -/
def State.syncAgain (s : State) : State :=
  ((s.set R.TWIN_STAT_STATE 3).putTwin
    { s.twin with syncAt := s.now, syncBlocks := 0, syncRetryAt := s.now }).syncRecord 1 0 0

section
variable (s : State)

theorem State.pairAgain_shows : s.pairAgain.get R.MODE_STAT_PHASE = 6 ∧ s.pairAgain.get R.TWIN_STAT_STATE = 1 := by
  unfold State.pairAgain
  rw [State.get_set_ne _ _ _ _ (by decide), State.get_set_same, State.get_set_same]
  exact ⟨rfl, rfl⟩

theorem State.syncFailed_state : s.syncFailed.get R.TWIN_STAT_STATE = 5 := State.get_set_same _ _ _ _

theorem State.syncAgain_state : s.syncAgain.get R.TWIN_STAT_STATE = 3 :=
  (State.record_get _ _ _ (by decide)).trans (State.get_set_same s R.TWIN_STAT_STATE 3 0)

variable {ks : List Nat} {s₀ : State} (h : Framed ks s₀ s)
include h

theorem State.syncRecord_framed (role ms res : Nat) : Framed ks s₀ (s.syncRecord role ms res) := State.record_framed _ _ h

theorem State.pairAgain_framed (hks : ∀ f ∈ [R.MODE_STAT_PHASE, R.TWIN_STAT_STATE], loc f 0 ∈ ks) :
    Framed ks { s₀ with mus := { s.mus with pairAt := s.now } } s.pairAgain := by
  unfold State.pairAgain
  exact set_framed _ _ _ _ (.inl (hks _ (by decide))) (set_framed _ _ _ _ (.inl (hks _ (by decide))) (h.withMus _))

theorem State.syncFailed_framed (hks : loc R.TWIN_STAT_STATE 0 ∈ ks) :
    Framed ks { s₀ with twin := { s.twin with syncRetryAt := s.now } } s.syncFailed :=
  set_framed _ _ _ _ (.inl hks) (h.withTwin _)

theorem State.syncAgain_framed (hks : loc R.TWIN_STAT_STATE 0 ∈ ks) :
    Framed ks { s₀ with twin := { s.twin with syncAt := s.now, syncBlocks := 0, syncRetryAt := s.now } } s.syncAgain := by
  unfold State.syncAgain
  exact State.syncRecord_framed _ ((set_framed _ _ _ _ (.inl hks) h).withTwin _) _ _ _

end

section
variable (s : State) (role ms res : Nat)

theorem State.syncRecord_mode : (s.syncRecord role ms res).mode = s.mode := State.record_get _ _ _ (by decide)
theorem State.syncRecord_now : (s.syncRecord role ms res).now = s.now := State.record_now _ _
theorem State.syncRecord_mus : (s.syncRecord role ms res).mus = s.mus := State.record_mus _ _
theorem State.syncRecord_twin : (s.syncRecord role ms res).twin = s.twin := State.record_twin _ _

end

section
variable (dt : Nat) (s : State) (hs : s.get R.TWIN_STAT_STATE = 3) (ht : s.twin.syncAt + 250000000 ≤ s.now + dt)
include hs ht

/-- A standby not in step within 250 ms gives SYNC up: back to PAIR in MUSTER, and detached otherwise. -/
theorem exec_syncTimeout : exec (.syncTimeout dt) s = .next
    (if s.mode = 1 then
      ((s.advance dt).syncRecord 1 ((s.now + dt - s.twin.syncAt) / 1000000) 2).pairAgain
    else ((s.advance dt).syncRecord 1 ((s.now + dt - s.twin.syncAt) / 1000000) 2).syncFailed) := by
  have hsend : ¬ (s.advance dt).get R.TWIN_STAT_STATE = 2 := fun h => absurd (hs.symm.trans h) (by decide)
  have hrole : (if (s.advance dt).get R.TWIN_STAT_STATE = 2 then 0 else 1) = 1 := if_neg hsend
  have hmode := State.syncRecord_mode (s.advance dt) 1 ((s.now + dt - s.twin.syncAt) / 1000000) 2
  rw [State.advance_mode] at hmode
  rw [← hmode]
  refine (if_pos ?_ : execSyncTimeout dt s = _).trans ((if_neg ?_).trans ?_)
  · simp [hs, ht]
  · exact hsend
  · rw [hrole]
    exact (apply_ite Host.Outcome.next (State.mode _ = 1) _ _).symm

theorem syncTimeout_pairs (hm : s.mode = 1) :
    ∃ t, exec (.syncTimeout dt) s = .next t ∧ t.get R.MODE_STAT_PHASE = 6 ∧ t.get R.TWIN_STAT_STATE = 1 ∧
      Framed (regKeys 0 [R.MODE_STAT_PHASE, R.TWIN_STAT_STATE])
        { s.advance dt with mus := { s.mus with pairAt := s.now + dt } } t := by
  have hframe := State.pairAgain_framed _ (State.syncRecord_framed _
    (.refl (regKeys 0 [R.MODE_STAT_PHASE, R.TWIN_STAT_STATE]) (s.advance dt)) 1 ((s.now + dt - s.twin.syncAt) / 1000000) 2)
    (by decide)
  rw [State.syncRecord_mus, State.syncRecord_now] at hframe
  obtain ⟨hphase, hstate⟩ := State.pairAgain_shows ((s.advance dt).syncRecord 1 ((s.now + dt - s.twin.syncAt) / 1000000) 2)
  exact ⟨_, (exec_syncTimeout dt s hs ht).trans (congrArg _ (if_pos hm)), hphase, hstate, hframe⟩

theorem syncTimeout_detaches (hm : s.mode ≠ 1) :
    ∃ t, exec (.syncTimeout dt) s = .next t ∧ t.get R.TWIN_STAT_STATE = 5 ∧
      Framed (regKeys 0 [R.TWIN_STAT_STATE]) { s.advance dt with twin := { s.twin with syncRetryAt := s.now + dt } } t := by
  have hframe := State.syncFailed_framed _ (State.syncRecord_framed _ (.refl (regKeys 0 [R.TWIN_STAT_STATE]) (s.advance dt)) 1
    ((s.now + dt - s.twin.syncAt) / 1000000) 2) (by decide)
  rw [State.syncRecord_twin, State.syncRecord_now] at hframe
  exact ⟨_, (exec_syncTimeout dt s hs ht).trans (congrArg _ (if_neg hm)), State.syncFailed_state _, hframe⟩

end

theorem syncRetry_syncs (dt : Nat) (s : State) (hs : s.get R.TWIN_STAT_STATE = 5) (hl : s.get R.TWIN_STAT_LANES ≠ 0)
    (ht : s.twin.syncRetryAt + 1000000000 ≤ s.now + dt) :
    ∃ t, exec (.syncRetry dt) s = .next t ∧ t.get R.TWIN_STAT_STATE = 3 ∧
      Framed (regKeys 0 [R.TWIN_STAT_STATE])
        { s.advance dt with twin := { s.twin with syncAt := s.now + dt, syncBlocks := 0, syncRetryAt := s.now + dt } } t := by
  have hexec : exec (.syncRetry dt) s = .next (s.advance dt).syncAgain := by
    refine (if_pos ?_ : execSyncRetry dt s = _)
    simp [hs, hl, ht]
  exact ⟨_, hexec, State.syncAgain_state _, State.syncAgain_framed _ (.refl _ (s.advance dt)) (List.mem_singleton.2 rfl)⟩

/-- Settles O8: each step of PAIR, PAIR-HOLD and SYNC by its own lemma above. -/
theorem pairing : Obligations.Pairing := by
  unfold Obligations.Pairing
  exact ⟨fun dt s hm hp ht hb hseat => pairTimeout_seatB dt s hm hp ht hb hseat,
    fun dt s hm hp ht hb => pairTimeout_holds dt s hm hp ht hb,
    fun dt t₀ s hb hm hp ht => seatBRecheck_alone dt s hm hb hp ht,
    fun dt t₀ s hb hm hp ht => seatBRecheck_holds dt s hm hb hp ht,
    exec_pairHoldRetry,
    pairHandshake_syncs,
    pairHandshake_runsIn,
    exec_snapshotBlockReceive_more,
    snapshotBlockReceive_joins,
    syncTimeout_pairs,
    syncTimeout_detaches,
    syncRetry_syncs⟩

end Sys2Proof.Machine
end

section
/-!
PROOF of the statements about every command and every step (EveryCommandCompletes, StepsKeepTablesAndMakerKey): the laws of
the meanings, collected command by command, say that each command completes and what it keeps; a step runs one command or none.
-/

namespace Sys2Proof.Machine

open Sys2Proof

/-- Every command answers a next state that is `Steady` against the passage of the command's own interval: each by the law of its
meaning, in the order of `exec`. -/
theorem exec_goes (s : State) : ∀ i : Instr, Goes (s.advance i.dt) (exec i s)
  | .powerUp .. => execPowerUp_steady (hS := .refl _) ..
  | .porNRelease .. => execPorNRelease_steady (hS := .refl _) ..
  | .porNAssert .. => execPorNAssert_steady (hS := .refl _) ..
  | .brownOut .. => execBrownOut_steady (hS := .refl _) ..
  | .vddAonLoss .. => execVddAonLoss_steady (hS := .refl _) ..
  | .pllLock .. => execPllLock_steady (hS := .refl _) ..
  | .pllRetry .. => execPllRetry_steady (hS := .refl _) ..
  | .headerReadDone .. => execHeaderReadDone_steady (hS := .refl _) ..
  | .dramTrainingDone .. => execDramTrainingDone_steady (hS := .refl _) ..
  | .manifestLoadDone .. => execManifestLoadDone_steady (hS := .refl _) ..
  | .bistDone .. => execBistDone_steady (hS := .refl _) ..
  | .claimsCheckDone .. => execClaimsCheckDone_steady (hS := .refl _) ..
  | .pairHandshake .. => execPairHandshake_steady (hS := .refl _) ..
  | .pairTimeout .. => execPairTimeout_steady (hS := .refl _) ..
  | .seatBRecheck .. => execSeatBRecheck_steady (hS := .refl _) ..
  | .pairHoldRetry .. => execPairHoldRetry_steady (hS := .refl _) ..
  | .snapshotBlockReceive .. => execSnapshotBlockReceive_steady (hS := .refl _) ..
  | .syncTimeout .. => execSyncTimeout_steady (hS := .refl _) ..
  | .syncRetry .. => execSyncRetry_steady (hS := .refl _) ..
  | .yuzSelftestDone .. => execYuzSelftestDone_steady (hS := .refl _) ..
  | .runInEnd .. => execRunInEnd_steady (hS := .refl _) ..
  | .loopTick .. => execLoopTick_steady (hS := .refl _) ..
  | .frameBoundary .. => execFrameBoundary_steady (hS := .refl _) ..
  | .helmCycleBoundary .. => execHelmCycleBoundary_steady (hS := .refl _) ..
  | .blendEnd .. => execBlendEnd_steady (hS := .refl _) ..
  | .modeCmdReady .. => execModeCmdReady_steady (hS := .refl _) ..
  | .modeCmdStation .. => execModeCmdStation_steady (hS := .refl _) ..
  | .modeCmdPassage .. => execModeCmdPassage_steady (hS := .refl _) ..
  | .modeCmdSafe .. => execModeCmdSafe_steady (hS := .refl _) ..
  | .modeCmdDormant .. => execModeCmdDormant_steady (hS := .refl _) ..
  | .safeEntry .. => execSafeEntry_steady (hS := .refl _) ..
  | .modeResetWrite .. => execModeResetWrite_steady (hS := .refl _) ..
  | .modeResetTimeout .. => execModeResetTimeout_steady (hS := .refl _) ..
  | .dormantEntryDone .. => execDormantEntryDone_steady (hS := .refl _) ..
  | .canWakePattern .. => execCanWakePattern_steady (hS := .refl _) ..
  | .wakeInWake .. => execWakeInWake_steady (hS := .refl _) ..
  | .rtcAlarm .. => execRtcAlarm_steady (hS := .refl _) ..
  | .safeInputWake .. => execSafeInputWake_steady (hS := .refl _) ..
  | .hostWake .. => execHostWake_steady (hS := .refl _) ..
  | .modeTickLoRead .. => execModeTickLoRead_steady (hS := .refl _) ..
  | .engineLockstepMismatch .. => execEngineLockstepMismatch_steady (hS := .refl _) ..
  | .eccUncorrectable .. => execEccUncorrectable_steady (hS := .refl _) ..
  | .eccCorrection .. => execEccCorrection_steady (hS := .refl _) ..
  | .clockMonitorWindow .. => execClockMonitorWindow_steady (hS := .refl _) ..
  | .xtal32kLoss .. => execXtal32kLoss_steady (hS := .refl _) ..
  | .networkPriorityAging .. => execNetworkPriorityAging_steady (hS := .refl _) ..
  | .mnfInstall .. => execMnfInstall_steady (hS := .refl _) ..
  | .mnfRestore .. => execMnfRestore_steady (hS := .refl _) ..
  | .installResume .. => execInstallResume_steady (hS := .refl _) ..
  | .journalWrite .. => execJournalWrite_steady (hS := .refl _) ..
  | .rollCallIssue .. => execRollCallIssue_steady (hS := .refl _) ..
  | .rollCallReply .. => execRollCallReply_steady (hS := .refl _) ..
  | .fblEvaluationStart .. => execFblEvaluationStart_steady (hS := .refl _) ..
  | .fblEvaluationEnd .. => execFblEvaluationEnd_steady (hS := .refl _) ..
  | .fblOverrunLimit .. => execFblOverrunLimit_steady (hS := .refl _) ..
  | .roleNewChal _ p _ => execRoleNewChal_steady (_port := p) (hS := .refl _) ..
  | .roleOpen .. => execRoleOpen_steady (hS := .refl _) ..
  | .roleClose .. => execRoleClose_steady (hS := .refl _) ..
  | .challengeExpiry .. => execChallengeExpiry_steady (hS := .refl _) ..
  | .openLockExpiry .. => execOpenLockExpiry_steady (hS := .refl _) ..
  | .sessionIdleTimeout .. => execSessionIdleTimeout_steady (hS := .refl _) ..
  | .roleKeyMaker .. => execRoleKeyMaker_steady (hS := .refl _) ..
  | .roleKeyInstaller .. => execRoleKeyInstaller_steady (hS := .refl _) ..
  | .roleKeyOperator .. => execRoleKeyOperator_steady (hS := .refl _) ..
  | .installerParamChange .. => execInstallerParamChange_steady (hS := .refl _) ..
  | .timeLatch _ p => execTimeLatch_steady (_port := p) (hS := .refl _) ..
  | .postmarkReadLatch .. => execPostmarkReadLatch_steady (hS := .refl _) ..
  | .singleStep .. => execSingleStep_steady (hS := .refl _) ..
  | .servoUpdate .. => execServoUpdate_steady (hS := .refl _) ..
  | .sourceLost .. => execSourceLost_steady (hS := .refl _) ..
  | .sourceReturn .. => execSourceReturn_steady (hS := .refl _) ..
  | .recoveryLock .. => execRecoveryLock_steady (hS := .refl _) ..
  | .uncLimitExceeded .. => execUncLimitExceeded_steady (hS := .refl _) ..
  | .gridAligned .. => execGridAligned_steady (hS := .refl _) ..
  | .leapSecondApply .. => execLeapSecondApply_steady (hS := .refl _) ..
  | .ppsOutPulse .. => execPpsOutPulse_steady (hS := .refl _) ..
  | .ppsOutPulseEnd .. => execPpsOutPulseEnd_steady (hS := .refl _) ..
  | .ppsInEdge .. => execPpsInEdge_steady (hS := .refl _) ..
  | .ext10mLoss .. => execExt10mLoss_steady (hS := .refl _) ..
  | .ext10mRestore .. => execExt10mRestore_steady (hS := .refl _) ..
  | .ptpEventMessage .. => execPtpEventMessage_steady (hS := .refl _) ..
  | .ptpGeneralMessage .. => execPtpGeneralMessage_steady (hS := .refl _) ..
  | .ptpSyncTransmit .. => execPtpSyncTransmit_steady (hS := .refl _) ..
  | .ptpAnnounceTransmit .. => execPtpAnnounceTransmit_steady (hS := .refl _) ..
  | .ptpDelayReqTransmit .. => execPtpDelayReqTransmit_steady (hS := .refl _) ..
  | .triggerUnitFire .. => execTriggerUnitFire_steady (hS := .refl _) ..
  | .feClockMeasure .. => execFeClockMeasure_steady (hS := .refl _) ..
  | .bandRetry .. => execBandRetry_steady (hS := .refl _) ..
  | .gnssStart .. => execGnssStart_steady (hS := .refl _) ..
  | .acquisitionDone .. => execAcquisitionDone_steady (hS := .refl _) ..
  | .reacqWiden .. => execReacqWiden_steady (hS := .refl _) ..
  | .gnssEpoch .. => execGnssEpoch_steady (hS := .refl _) ..
  | .positionMessageWrite .. => execPositionMessageWrite_steady (hS := .refl _) ..
  | .timePulseMessage .. => execTimePulseMessage_steady (hS := .refl _) ..
  | .gnssSleepCmd .. => execGnssSleepCmd_steady (hS := .refl _) ..
  | .gnssSleepEntry .. => execGnssSleepEntry_steady (hS := .refl _) ..
  | .gnssWakeCmd .. => execGnssWakeCmd_steady (hS := .refl _) ..
  | .gnssColdCmd .. => execGnssColdCmd_steady (hS := .refl _) ..
  | .retainWrite .. => execRetainWrite_steady (hS := .refl _) ..
  | .ephRefreshWake .. => execEphRefreshWake_steady (hS := .refl _) ..
  | .refreshEnd .. => execRefreshEnd_steady (hS := .refl _) ..
  | .estCommit .. => execEstCommit_steady (hS := .refl _) ..
  | .estUpdateAbandon .. => execEstUpdateAbandon_steady (hS := .refl _) ..
  | .estOverrunLimit .. => execEstOverrunLimit_steady (hS := .refl _) ..
  | .ownGateReinit .. => execOwnGateReinit_steady (hS := .refl _) ..
  | .sourceFrozen .. => execSourceFrozen_steady (hS := .refl _) ..
  | .skewRecovered .. => execSkewRecovered_steady (hS := .refl _) ..
  | .slotWaiting .. => execSlotWaiting_steady (hS := .refl _) ..
  | .disputeEnd .. => execDisputeEnd_steady (hS := .refl _) ..
  | .reentryComplete .. => execReentryComplete_steady (hS := .refl _) ..
  | .reentryHoldRecord .. => execReentryHoldRecord_steady (hS := .refl _) ..
  | .estSrcDeselect .. => execEstSrcDeselect_steady (hS := .refl _) ..
  | .estSrcSelect .. => execEstSrcSelect_steady (hS := .refl _) ..
  | .trackCoastTimeout .. => execTrackCoastTimeout_steady (hS := .refl _) ..
  | .trackLostTimeout .. => execTrackLostTimeout_steady (hS := .refl _) ..
  | .trackSourceExclude .. => execTrackSourceExclude_steady (hS := .refl _) ..
  | .wavePeakSearch .. => execWavePeakSearch_steady (hS := .refl _) ..
  | .heaveMruTimeout .. => execHeaveMruTimeout_steady (hS := .refl _) ..
  | .lawCmdPosition .. => execLawCmdPosition_steady (hS := .refl _) ..
  | .lawCmdTarget .. => execLawCmdTarget_steady (hS := .refl _) ..
  | .lawCmdTrack .. => execLawCmdTrack_steady (hS := .refl _) ..
  | .lawCmdAutohdg .. => execLawCmdAutohdg_steady (hS := .refl _) ..
  | .lawCmdJoystick .. => execLawCmdJoystick_steady (hS := .refl _) ..
  | .spCmdPosition .. => execSpCmdPosition_steady (hS := .refl _) ..
  | .spCmdTarget .. => execSpCmdTarget_steady (hS := .refl _) ..
  | .spCmdTrack .. => execSpCmdTrack_steady (hS := .refl _) ..
  | .helmSolveDone .. => execHelmSolveDone_steady (hS := .refl _) ..
  | .helmMissLimit .. => execHelmMissLimit_steady (hS := .refl _) ..
  | .allocSolveDone .. => execAllocSolveDone_steady (hS := .refl _) ..
  | .allocMissLimit .. => execAllocMissLimit_steady (hS := .refl _) ..
  | .consReadySubmit .. => execConsReadySubmit_steady (hS := .refl _) ..
  | .consBatchDone .. => execConsBatchDone_steady (hS := .refl _) ..
  | .consMissLimit .. => execConsMissLimit_steady (hS := .refl _) ..
  | .allocShort .. => execAllocShort_steady (hS := .refl _) ..
  | .busPowerHoldExpiry .. => execBusPowerHoldExpiry_steady (hS := .refl _) ..
  | .followFault .. => execFollowFault_steady (hS := .refl _) ..
  | .allocThrDeselect .. => execAllocThrDeselect_steady (hS := .refl _) ..
  | .allocThrSelect .. => execAllocThrSelect_steady (hS := .refl _) ..
  | .yuzBatchStart .. => execYuzBatchStart_steady (hS := .refl _) ..
  | .yuzBatchDone .. => execYuzBatchDone_steady (hS := .refl _) ..
  | .yuzDeadlineStop .. => execYuzDeadlineStop_steady (hS := .refl _) ..
  | .standbyLag .. => execStandbyLag_steady (hS := .refl _) ..
  | .loopCellRun .. => execLoopCellRun_steady (hS := .refl _) ..
  | .cellMissLimit .. => execCellMissLimit_steady (hS := .refl _) ..
  | .encoderIndex .. => execEncoderIndex_steady (hS := .refl _) ..
  | .encoderEdgeError .. => execEncoderEdgeError_steady (hS := .refl _) ..
  | .pwmPeriodStart .. => execPwmPeriodStart_steady (hS := .refl _) ..
  | .injectionStart .. => execInjectionStart_steady (hS := .refl _) ..
  | .injectionStop .. => execInjectionStop_steady (hS := .refl _) ..
  | .injectionEnd .. => execInjectionEnd_steady (hS := .refl _) ..
  | .captureArm .. => execCaptureArm_steady (hS := .refl _) ..
  | .captureForce .. => execCaptureForce_steady (hS := .refl _) ..
  | .captureAbort .. => execCaptureAbort_steady (hS := .refl _) ..
  | .captureDone .. => execCaptureDone_steady (hS := .refl _) ..
  | .loopCellSpRead .. => execLoopCellSpRead_steady (hS := .refl _) ..
  | .mfnEnable .. => execMfnEnable_steady (hS := .refl _) ..
  | .mfnDisable .. => execMfnDisable_steady (hS := .refl _) ..
  | .mfnReset .. => execMfnReset_steady (hS := .refl _) ..
  | .armTimeout .. => execArmTimeout_steady (hS := .refl _) ..
  | .stopBandReached .. => execStopBandReached_steady (hS := .refl _) ..
  | .stopTimeout .. => execStopTimeout_steady (hS := .refl _) ..
  | .satTimeout .. => execSatTimeout_steady (hS := .refl _) ..
  | .converterResult .. => execConverterResult_steady (hS := .refl _) ..
  | .settlingDone .. => execSettlingDone_steady (hS := .refl _) ..
  | .bitstreamFault .. => execBitstreamFault_steady (hS := .refl _) ..
  | .bitstreamRecovery .. => execBitstreamRecovery_steady (hS := .refl _) ..
  | .sarTrigger .. => execSarTrigger_steady (hS := .refl _) ..
  | .sarResult .. => execSarResult_steady (hS := .refl _) ..
  | .vrefCheck .. => execVrefCheck_steady (hS := .refl _) ..
  | .adcChResRead .. => execAdcChResRead_steady (hS := .refl _) ..
  | .sourceFailure .. => execSourceFailure_steady (hS := .refl _) ..
  | .supplyStep .. => execSupplyStep_steady (hS := .refl _) ..
  | .complianceSet .. => execComplianceSet_steady (hS := .refl _) ..
  | .complianceClear .. => execComplianceClear_steady (hS := .refl _) ..
  | .complianceRestoreCheck .. => execComplianceRestoreCheck_steady (hS := .refl _) ..
  | .hartPollDue .. => execHartPollDue_steady (hS := .refl _) ..
  | .hartReply .. => execHartReply_steady (hS := .refl _) ..
  | .hartRetry .. => execHartRetry_steady (hS := .refl _) ..
  | .hartIdRetry .. => execHartIdRetry_steady (hS := .refl _) ..
  | .hartPause .. => execHartPause_steady (hS := .refl _) ..
  | .hartResume .. => execHartResume_steady (hS := .refl _) ..
  | .stepMove .. => execStepMove_steady (hS := .refl _) ..
  | .stepVelocity .. => execStepVelocity_steady (hS := .refl _) ..
  | .stepHalt .. => execStepHalt_steady (hS := .refl _) ..
  | .stepStop .. => execStepStop_steady (hS := .refl _) ..
  | .stepHome .. => execStepHome_steady (hS := .refl _) ..
  | .stepReset .. => execStepReset_steady (hS := .refl _) ..
  | .generatorUpdate .. => execGeneratorUpdate_steady (hS := .refl _) ..
  | .chopperCrossing .. => execChopperCrossing_steady (hS := .refl _) ..
  | .openCoil .. => execOpenCoil_steady (hS := .refl _) ..
  | .shortCoil .. => execShortCoil_steady (hS := .refl _) ..
  | .holdCurrentReduce .. => execHoldCurrentReduce_steady (hS := .refl _) ..
  | .limitSwitchDebounced .. => execLimitSwitchDebounced_steady (hS := .refl _) ..
  | .homeSwitchDebounced .. => execHomeSwitchDebounced_steady (hS := .refl _) ..
  | .homingBackoffDone .. => execHomingBackoffDone_steady (hS := .refl _) ..
  | .islandCycle .. => execIslandCycle_steady (hS := .refl _) ..
  | .safeInputChange .. => execSafeInputChange_steady (hS := .refl _) ..
  | .inputDiscrepancy .. => execInputDiscrepancy_steady (hS := .refl _) ..
  | .islandLockstepMismatch .. => execIslandLockstepMismatch_steady (hS := .refl _) ..
  | .islandWatchdogExpiry .. => execIslandWatchdogExpiry_steady (hS := .refl _) ..
  | .islandClockFault .. => execIslandClockFault_steady (hS := .refl _) ..
  | .islandEccError .. => execIslandEccError_steady (hS := .refl _) ..
  | .paramCrcRecheck .. => execParamCrcRecheck_steady (hS := .refl _) ..
  | .testPulseStart .. => execTestPulseStart_steady (hS := .refl _) ..
  | .testPulseEnd .. => execTestPulseEnd_steady (hS := .refl _) ..
  | .testOffCheck .. => execTestOffCheck_steady (hS := .refl _) ..
  | .readbackFault .. => execReadbackFault_steady (hS := .refl _) ..
  | .testStarved .. => execTestStarved_steady (hS := .refl _) ..
  | .edmFault .. => execEdmFault_steady (hS := .refl _) ..
  | .axisDiscrepancy .. => execAxisDiscrepancy_steady (hS := .refl _) ..
  | .safetyEncoderIndex .. => execSafetyEncoderIndex_steady (hS := .refl _) ..
  | .safetyEncoderError .. => execSafetyEncoderError_steady (hS := .refl _) ..
  | .safeResetPress .. => execSafeResetPress_steady (hS := .refl _) ..
  | .safeResetStuck .. => execSafeResetStuck_steady (hS := .refl _) ..
  | .safeCvCommit .. => execSafeCvCommit_steady (hS := .refl _) ..
  | .safeOffReqWrite .. => execSafeOffReqWrite_steady (hS := .refl _) ..
  | .permitMailboxWrite .. => execPermitMailboxWrite_steady (hS := .refl _) ..
  | .sealReceive .. => execSealReceive_steady (hS := .refl _) ..
  | .inputRecordReceive .. => execInputRecordReceive_steady (hS := .refl _) ..
  | .commandRecordReceive .. => execCommandRecordReceive_steady (hS := .refl _) ..
  | .verdictReceive .. => execVerdictReceive_steady (hS := .refl _) ..
  | .timeRecordReceive .. => execTimeRecordReceive_steady (hS := .refl _) ..
  | .statusReceive .. => execStatusReceive_steady (hS := .refl _) ..
  | .resendReceive .. => execResendReceive_steady (hS := .refl _) ..
  | .divergeReceive .. => execDivergeReceive_steady (hS := .refl _) ..
  | .confirmReceive .. => execConfirmReceive_steady (hS := .refl _) ..
  | .giveUpReceive .. => execGiveUpReceive_steady (hS := .refl _) ..
  | .replayDone .. => execReplayDone_steady (hS := .refl _) ..
  | .tickLagExceeded .. => execTickLagExceeded_steady (hS := .refl _) ..
  | .standbyLagLimit .. => execStandbyLagLimit_steady (hS := .refl _) ..
  | .laneDown .. => execLaneDown_steady (hS := .refl _) ..
  | .laneRetrain .. => execLaneRetrain_steady (hS := .refl _) ..
  | .takeover .. => execTakeover_steady (hS := .refl _) ..
  | .sidebandTimeout .. => execSidebandTimeout_steady (hS := .refl _) ..
  | .sidebandDisagree .. => execSidebandDisagree_steady (hS := .refl _) ..
  | .peerOkLowTimeout .. => execPeerOkLowTimeout_steady (hS := .refl _) ..
  | .twinPlaus .. => execTwinPlaus_steady (hS := .refl _) ..
  | .twinHoTickLoRead .. => execTwinHoTickLoRead_steady (hS := .refl _) ..
  | .pwrLatTolWrite .. => execPwrLatTolWrite_steady (hS := .refl _) ..
  | .lullGapEntry .. => execLullGapEntry_steady (hS := .refl _) ..
  | .lullGapWake .. => execLullGapWake_steady (hS := .refl _) ..
  | .lull3Entry .. => execLull3Entry_steady (hS := .refl _) ..
  | .lull3WakeDone .. => execLull3WakeDone_steady (hS := .refl _) ..
  | .sensorWindow .. => execSensorWindow_steady (hS := .refl _) ..
  | .sensorBroken .. => execSensorBroken_steady (hS := .refl _) ..
  | .sensorReturn .. => execSensorReturn_steady (hS := .refl _) ..
  | .shutdownPowerOff .. => execShutdownPowerOff_steady (hS := .refl _) ..
  | .canFrameReceive .. => execCanFrameReceive_steady (hS := .refl _) ..
  | .canEsIdRead .. => execCanEsIdRead_steady (hS := .refl _) ..
  | .canEsData15Read .. => execCanEsData15Read_steady (hS := .refl _) ..
  | .canEsLockTimeout .. => execCanEsLockTimeout_steady (hS := .refl _) ..
  | .canPeriodicTransmit .. => execCanPeriodicTransmit_steady (hS := .refl _) ..
  | .canTxAttemptEnd .. => execCanTxAttemptEnd_steady (hS := .refl _) ..
  | .canMailboxCancel .. => execCanMailboxCancel_steady (hS := .refl _) ..
  | .canRecover .. => execCanRecover_steady (hS := .refl _) ..
  | .busoffRecoveryDone .. => execBusoffRecoveryDone_steady (hS := .refl _) ..
  | .squallLoadUpdate .. => execSquallLoadUpdate_steady (hS := .refl _) ..
  | .canSquallAlarm .. => execCanSquallAlarm_steady (hS := .refl _) ..
  | .n2kAddressClaim .. => execN2kAddressClaim_steady (hS := .refl _) ..
  | .n2kClaimReceive .. => execN2kClaimReceive_steady (hS := .refl _) ..
  | .ethFrameReceive .. => execEthFrameReceive_steady (hS := .refl _) ..
  | .ethPeriodicTransmit .. => execEthPeriodicTransmit_steady (hS := .refl _) ..
  | .gateListEntry .. => execGateListEntry_steady (hS := .refl _) ..
  | .ethFrameTransmitDone .. => execEthFrameTransmitDone_steady (hS := .refl _) ..
  | .phyStatusPoll .. => execPhyStatusPoll_steady (hS := .refl _) ..
  | .phyScriptRetry .. => execPhyScriptRetry_steady (hS := .refl _) ..
  | .ethSquallUpdate .. => execEthSquallUpdate_steady (hS := .refl _) ..
  | .ethSquallAlarm .. => execEthSquallAlarm_steady (hS := .refl _) ..
  | .dispatchReport .. => execDispatchReport_steady (hS := .refl _) ..
  | .workRecordSample .. => execWorkRecordSample_steady (hS := .refl _) ..
  | .workRecordTileSeal .. => execWorkRecordTileSeal_steady (hS := .refl _) ..
  | .ethWrAckWrite _ p _ => execEthWrAckWrite_steady (_port := p) (hS := .refl _) ..
  | .ethWrHeadLoRead .. => execEthWrHeadLoRead_steady (hS := .refl _) ..
  | .hostLinkReset .. => execHostLinkReset_steady (hS := .refl _) ..
  | .spiWriteTransaction .. => execSpiWriteTransaction_steady (hS := .refl _) ..
  | .spiReadTransaction .. => execSpiReadTransaction_steady (hS := .refl _) ..
  | .openRecordTimeout .. => execOpenRecordTimeout_steady (hS := .refl _) ..
  | .recorderFlush .. => execRecorderFlush_steady (hS := .refl _) ..
  | .sectorEraseDone .. => execSectorEraseDone_steady (hS := .refl _) ..
  | .flushHeldTimeout .. => execFlushHeldTimeout_steady (hS := .refl _) ..
  | .logFetchStart _ p _ => execLogFetchStart_steady (_port := p) (hS := .refl _) ..
  | .logFetchDone .. => execLogFetchDone_steady (hS := .refl _) ..
  | .logSeqLoRead .. => execLogSeqLoRead_steady (hS := .refl _) ..
  | .logMarkWrite .. => execLogMarkWrite_steady (hS := .refl _) ..
  | .logErase .. => execLogErase_steady (hS := .refl _) ..
  | .logBackgroundEraseDone .. => execLogBackgroundEraseDone_steady (hS := .refl _) ..
  | .pointWindowRead .. => execPointWindowRead_steady (hS := .refl _) ..
  | .pointQualityStage .. => execPointQualityStage_steady (hS := .refl _) ..
  | .pointValueLowStage .. => execPointValueLowStage_steady (hS := .refl _) ..
  | .pointValueCommit .. => execPointValueCommit_steady (hS := .refl _) ..
  | .pointWindowOtherWrite .. => execPointWindowOtherWrite_steady (hS := .refl _) ..
  | .alarmAck .. => execAlarmAck_steady (hS := .refl _) ..
  | .pgnRead .. => execPgnRead_steady (hS := .refl _) ..
  | .pgnRestart .. => execPgnRestart_steady (hS := .refl _) ..
  | .pgnDiscard _ p _ => execPgnDiscard_steady (_port := p) (hS := .refl _) ..
  | .pgnWrite .. => execPgnWrite_steady (hS := .refl _) ..
  | .irqAck _ p _ => execIrqAck_steady (_port := p) (hS := .refl _) ..
  | .msixUnmask _ p _ => execMsixUnmask_steady (_port := p) (hS := .refl _) ..
  | .registerWrite .. => execRegisterWrite_steady (hS := .refl _) ..
  | .railPowerGood .. => execRailPowerGood_steady (hS := .refl _) ..
  | .perstNRelease .. => execPerstNRelease_steady (hS := .refl _) ..
  | .sgmiiLinkChange .. => execSgmiiLinkChange_steady (hS := .refl _) ..
  | .satelliteLockLoss .. => execSatelliteLockLoss_steady (hS := .refl _) ..
  | .canRxError .. => execCanRxError_steady (hS := .refl _) ..
  | .canBusIntegrationDone .. => execCanBusIntegrationDone_steady (hS := .refl _) ..
  | .wakeEventForwardReceive .. => execWakeEventForwardReceive_steady (hS := .refl _) ..
  | .stagedImageReceive .. => execStagedImageReceive_steady (hS := .refl _) ..

/-- Settles O3: what `Steady` says of the state a command leaves, the command's interval added to the up-time. -/
theorem everyCommandCompletes : Obligations.EveryCommandCompletes := by
  unfold Obligations.EveryCommandCompletes
  intro i s
  obtain ⟨t, ht, hst⟩ := exec_goes s i
  exact ⟨t, ht, hst.now, hst.pending, hst.uid⟩

/-- A command keeps the canonical form of the tables, and a programmed Maker key (R85). -/
theorem exec_keeps_canon_maker {i : Instr} {s t : State} (h : exec i s = .next t) :
    (s.canon → t.canon) ∧ ∀ k, s.role.makerKey = some k → t.role.makerKey = some k := by
  obtain ⟨u, hu, hst⟩ := exec_goes s i
  obtain rfl : u = t := Host.Outcome.next.inj (hu.symm.trans h)
  exact ⟨hst.canon, hst.maker⟩

theorem step_idle {s : State} (h : s.pending = []) : step s = .next s := by
  unfold step
  rw [h]

theorem step_front {s : State} {c : Instr} {rest : List Instr} (h : s.pending = c :: rest) :
    step s = exec c { s with pending := rest } := by
  unfold step
  rw [h]

/-- Settles O4: an idle step leaves the state as it is, and a command keeps both facts of the state it runs on, whose tables and
keys are those of the state with the command still in its queue. -/
theorem stepsKeepTablesAndMakerKey : Obligations.StepsKeepTablesAndMakerKey := by
  unfold Obligations.StepsKeepTablesAndMakerKey
  intro s t h
  cases hq : s.pending with
  | nil =>
    obtain rfl : s = t := Host.Outcome.next.inj ((step_idle hq).symm.trans h)
    exact ⟨id, fun _ => id⟩
  | cons c rest =>
    obtain ⟨hcanon, hmaker⟩ := exec_keeps_canon_maker ((step_front hq).symm.trans h)
    exact ⟨hcanon, hmaker⟩

end Sys2Proof.Machine
end

section
/-!
PROOF of the statement of 03_manifest_and_roles.md about challenges and sessions (Sessions): what writes of a register's words
leave, and what a challenge, a session that closes, one that opens, and a failed OPEN show and leave alone; then each command.
-/

namespace Sys2Proof.Machine

open Sys2Proof

/-! ### Registers of several words -/

/-- A write of the words of a register, one to a bank: each word it reaches takes its own value. -/
theorem foldl_set_get (s : State) (f : Fld) (g : Nat → Nat) (k n : Nat) :
    ((List.range k).foldl (fun u m => u.set f (g m) m) s).get f n = if n < k then g n % 2 ^ f.width else s.get f n := by
  induction k with
  | zero => rfl
  | succ k ih =>
    rw [List.range_succ, List.foldl_append, List.foldl_cons, List.foldl_nil]
    by_cases hn : n = k
    · subst hn
      rw [State.get_set_same, if_pos (Nat.lt_succ_self n)]
    · rw [State.get_set_bank _ _ _ _ hn, ih]
      exact if_congr (by omega) rfl rfl

/-- Such a write leaves what no write of a register changes. -/
theorem foldl_set_keeps {β : Type} (p : State → β) (hset : ∀ u f v b, p (State.set u f v b) = p u) (s : State) (f : Fld)
    (g : Nat → Nat) (k : Nat) : p ((List.range k).foldl (fun u m => u.set f (g m) m) s) = p s :=
  foldl_keeps p (List.range k) (fun u m => hset u f (g m) m) s

/-- Words of a register are all that such a write changes. -/
theorem foldl_set_framed {ks : List Nat} {s₀ s : State} (f : Fld) (g : Nat → Nat) (k : Nat)
    (hks : ∀ n < k, loc f n ∈ ks) (h : Framed ks s₀ s) :
    Framed ks s₀ ((List.range k).foldl (fun u m => u.set f (g m) m) s) :=
  foldl_framed _ (fun n hn u => set_framed u f (g n) n (.inl (hks n (List.mem_range.1 hn)))) h

/-! ### The state of the roles -/

/-- The state of the roles takes a value. -/
def State.putRole (s : State) (x : RoleSt) : State := { s with role := x }

theorem State.putRole_get (s : State) (x : RoleSt) (f : Fld) (b : Nat) : (s.putRole x).get f b = s.get f b := rfl

theorem Framed.putRole {ks : List Nat} {s t : State} (x : RoleSt) (h : Framed ks s t) :
    Framed ks { s with role := x } (t.putRole x) := h.withRole x

/-! ### Challenges (R82, R83) -/

/-- ROLE_CHAL shows a challenge. -/
def State.showChal (s : State) (c : List Nat) : State :=
  (List.range 8).foldl (fun s n => s.set R.ROLE_CHAL_CHAL (ofLe ((c.drop (4 * n)).take 4)) n) s

/-- The challenge is valid from now on. -/
def State.challenged (s : State) (c : List Nat) : State :=
  ((s.showChal c).set R.ROLE_STAT_CHAL_VALID 1).putRole { s.role with chalAt := s.now }

section
variable (s : State) (c : List Nat)

theorem State.showChal_role : (s.showChal c).role = s.role :=
  foldl_set_keeps (·.role) (fun _ _ _ _ => rfl) s R.ROLE_CHAL_CHAL _ 8

theorem State.showChal_now : (s.showChal c).now = s.now :=
  foldl_set_keeps (·.now) (fun _ _ _ _ => rfl) s R.ROLE_CHAL_CHAL _ 8

theorem State.challenged_valid : (s.challenged c).get R.ROLE_STAT_CHAL_VALID = 1 :=
  State.get_set_same (s.showChal c) R.ROLE_STAT_CHAL_VALID 1 0

theorem State.challenged_word {n : Nat} (hn : n < 8) :
    (s.challenged c).get R.ROLE_CHAL_CHAL n = ofLe ((c.drop (4 * n)).take 4) % 2 ^ 32 := by
  refine (State.get_set_ne _ R.ROLE_STAT_CHAL_VALID 1 0 (by decide)).trans ?_
  exact (foldl_set_get s R.ROLE_CHAL_CHAL _ 8 n).trans (if_pos hn)

theorem State.challenged_framed : Framed (loc R.ROLE_STAT_CHAL_VALID 0 :: (List.range 8).map (loc R.ROLE_CHAL_CHAL))
    { s with role := { s.role with chalAt := s.now } } (s.challenged c) :=
  .putRole _ (set_framed _ _ _ _ (.inl List.mem_cons_self) (foldl_set_framed _ _ _
    (fun _ hn => List.mem_cons_of_mem _ (List.mem_map_of_mem (List.mem_range.2 hn))) (.refl _ s)))

end

theorem exec_roleNewChal (dt : Nat) (p : Port) (c : List Nat) (s : State) :
    exec (.roleNewChal dt p c) s = .next ((s.advance dt).challenged c) := by
  show Host.Outcome.next { ((s.advance dt).showChal c).set R.ROLE_STAT_CHAL_VALID 1 with
    role := { ((s.advance dt).showChal c).role with chalAt := ((s.advance dt).showChal c).now } } = _
  rw [State.showChal_role, State.showChal_now]
  rfl

theorem roleNewChal_shows (dt : Nat) (p : Port) (c : List Nat) (s : State) :
    ∃ t, exec (.roleNewChal dt p c) s = .next t ∧ t.get R.ROLE_STAT_CHAL_VALID = 1 ∧
      (∀ n, n < 8 → t.get R.ROLE_CHAL_CHAL n = ofLe ((c.drop (4 * n)).take 4) % 2 ^ 32) ∧
      Framed (loc R.ROLE_STAT_CHAL_VALID 0 :: (List.range 8).map (loc R.ROLE_CHAL_CHAL))
        { s.advance dt with role := { s.role with chalAt := s.now + dt } } t :=
  ⟨_, exec_roleNewChal dt p c s, State.challenged_valid _ c, fun _ hn => State.challenged_word _ c hn,
    State.challenged_framed (s.advance dt) c⟩

theorem challengeExpiry_ends (dt : Nat) (s : State) (h : s.role.chalAt + 10000000000 ≤ s.now + dt) :
    ∃ t, exec (.challengeExpiry dt) s = .next t ∧ t.get R.ROLE_STAT_CHAL_VALID = 0 ∧
      Framed [loc R.ROLE_STAT_CHAL_VALID 0] (s.advance dt) t :=
  ⟨_, if_pos h, State.get_set_same _ _ _ _, set_framed _ _ _ _ (.inl (List.mem_singleton.2 rfl)) (.refl _ _)⟩

/-! ### Sessions that end (R83) -/

section
variable (s : State)

theorem State.clearKeyWords_key {n : Nat} (hn : n < 8) : s.clearKeyWords.get R.ROLE_KEY_KEY n = 0 :=
  (foldl_set_get s R.ROLE_KEY_KEY (fun _ => 0) 8 n).trans (if_pos hn)

theorem State.clearKeyWords_mnf : s.clearKeyWords.mnf = s.mnf :=
  foldl_set_keeps (·.mnf) (fun _ _ _ _ => rfl) s R.ROLE_KEY_KEY (fun _ => 0) 8

theorem State.closeSession_now (r : Nat) : (s.closeSession r).now = s.now :=
  (State.of_plain_now (State.closeSession_framed s r).plain :)

variable (r : Nat) (h : s.get R.ROLE_STAT_SESSION ≠ 0)
include h

theorem State.closeSession_mnf : (s.closeSession r).mnf = { s.mnf with resetKeyAt := none } := by
  unfold State.closeSession
  dsimp only
  rw [if_neg h]
  dsimp only
  rw [State.clearKeyWords_mnf, State.set_mnf, State.record_mnf]

theorem State.closeSession_key {n : Nat} (hn : n < 8) : (s.closeSession r).get R.ROLE_KEY_KEY n = 0 := by
  unfold State.closeSession
  dsimp only
  rw [if_neg h]
  exact State.clearKeyWords_key _ hn

/-- An open session closes: its registers are cleared, and no reset waits for its key. -/
theorem State.closeSession_ends : (s.closeSession r).get R.ROLE_STAT_SESSION = 0 ∧
    (∀ n, n < 8 → (s.closeSession r).get R.ROLE_KEY_KEY n = 0) ∧
    Framed (loc R.ROLE_STAT_SESSION 0 :: (List.range 8).map (loc R.ROLE_KEY_KEY))
      { s with mnf := { s.mnf with resetKeyAt := none } } (s.closeSession r) := by
  have hframe := State.closeSession_framed s r
  rw [State.closeSession_mnf s r h] at hframe
  exact ⟨State.closeSession_session s r, fun _ hn => State.closeSession_key s r h hn, hframe⟩

end

section
variable (dt : Nat) (p : Port) (s : State)

theorem roleClose_ends (h : s.get R.ROLE_STAT_SESSION ≠ 0) (ho : s.role.owner = p) :
    ∃ t, exec (.roleClose dt p) s = .next t ∧ t.get R.ROLE_STAT_SESSION = 0 ∧
      (∀ n, n < 8 → t.get R.ROLE_KEY_KEY n = 0) ∧
      Framed (loc R.ROLE_STAT_SESSION 0 :: (List.range 8).map (loc R.ROLE_KEY_KEY))
        { s.advance dt with mnf := { s.mnf with resetKeyAt := none } } t :=
  ⟨_, (if_neg h : execRoleClose dt p s = _).trans (if_pos ho), State.closeSession_ends (s.advance dt) 1 h⟩

theorem exec_roleClose_closed (h : s.get R.ROLE_STAT_SESSION = 0) : exec (.roleClose dt p) s = .next (s.advance dt) :=
  if_pos h

theorem roleClose_otherPort (h : s.get R.ROLE_STAT_SESSION ≠ 0) (ho : s.role.owner ≠ p) :
    ∃ t, exec (.roleClose dt p) s = .next t ∧ Framed [] (s.advance dt) t :=
  ⟨_, (if_neg h : execRoleClose dt p s = _).trans (if_neg ho), State.rwlIgnored_framed _ _ _ (.refl _ _)⟩

theorem sessionIdleTimeout_ends (h : s.get R.ROLE_STAT_SESSION ≠ 0) (ht : s.role.rwlAt + 300000000000 ≤ s.now + dt) :
    ∃ t, exec (.sessionIdleTimeout dt) s = .next t ∧ t.get R.ROLE_STAT_SESSION = 0 ∧
      Framed (loc R.ROLE_STAT_SESSION 0 :: (List.range 8).map (loc R.ROLE_KEY_KEY))
        { s.advance dt with mnf := { s.mnf with resetKeyAt := none } } t := by
  obtain ⟨hsession, -, hframe⟩ := State.closeSession_ends (s.advance dt) 2 h
  exact ⟨_, if_pos ht, hsession, hframe⟩

theorem openLockExpiry_ends (t₀ : Nat) (h : s.role.lockAt = some t₀) (ht : t₀ + 60000000000 ≤ s.now + dt) :
    ∃ t, exec (.openLockExpiry dt) s = .next t ∧ t.get R.ROLE_STAT_LOCKED = 0 ∧
      t.get R.ROLE_STAT_FAILS = s.get R.ROLE_STAT_FAILS ∧
      Framed [loc R.ROLE_STAT_LOCKED 0] { s.advance dt with role := { s.role with lockAt := none } } t := by
  have hexec : exec (.openLockExpiry dt) s = .next (((s.advance dt).set R.ROLE_STAT_LOCKED 0).putRole
      { s.role with lockAt := none }) := by
    show execOpenLockExpiry dt s = _
    unfold execOpenLockExpiry
    dsimp only
    rw [State.advance_role, h]
    exact if_pos ht
  exact ⟨_, hexec, State.get_set_same (s.advance dt) R.ROLE_STAT_LOCKED 0 0,
    State.get_set_ne (s.advance dt) R.ROLE_STAT_LOCKED 0 0 (by decide),
    .putRole _ (set_framed _ _ _ _ (.inl (List.mem_singleton.2 rfl)) (.refl _ _))⟩

end

/-! ### Sessions that open (R82, R83) -/

/-- The KEY_ID under which a session of a role records. -/
def State.keyIdOf (s : State) (r : Role) : Nat := match s.keyOf r with | some k => k.2 | none => 0

/-- The session of a role belongs to a port; failures and the challenge are spent. -/
def State.sessionOpened (s : State) (p : Port) (r : Role) (keyId : Nat) : State :=
  (((s.set R.ROLE_STAT_SESSION (sessionCode r)).set R.ROLE_STAT_FAILS 0).set R.ROLE_STAT_CHAL_VALID 0).putRole
    { s.role with owner := p, keyId := keyId, rwlAt := s.now }

theorem State.sessionOpened_shows (s : State) (p : Port) (r : Role) (keyId : Nat) :
    (s.sessionOpened p r keyId).get R.ROLE_STAT_SESSION = sessionCode r ∧
    (s.sessionOpened p r keyId).get R.ROLE_STAT_FAILS = 0 ∧
    (s.sessionOpened p r keyId).get R.ROLE_STAT_CHAL_VALID = 0 := by
  have hcode : sessionCode r % 2 ^ R.ROLE_STAT_SESSION.width = sessionCode r := by cases r <;> rfl
  unfold State.sessionOpened
  rw [State.putRole_get, State.putRole_get, State.putRole_get]
  refine ⟨?_, ?_, State.get_set_same _ _ _ _⟩
  · rw [State.get_set_ne _ _ _ _ (by decide), State.get_set_ne _ _ _ _ (by decide), State.get_set_same, hcode]
  · rw [State.get_set_ne _ _ _ _ (by decide), State.get_set_same]
    rfl

/-- A failed OPEN uses the challenge up and is counted. -/
def State.openCounted (s : State) : State := (s.set R.ROLE_STAT_CHAL_VALID 0).incSat R.ROLE_STAT_FAILS

/-- OPEN is locked from now on. -/
def State.openLocked (s : State) : State :=
  (s.set R.ROLE_STAT_LOCKED 1).putRole { s.role with lockAt := some s.now }

section
variable (s : State)

theorem State.openCounted_valid : s.openCounted.get R.ROLE_STAT_CHAL_VALID = 0 :=
  (State.get_set_ne _ R.ROLE_STAT_FAILS _ 0 (by decide)).trans (State.get_set_same _ _ _ _)

theorem State.openCounted_fails : s.openCounted.get R.ROLE_STAT_FAILS = min 15 (s.get R.ROLE_STAT_FAILS + 1) := by
  unfold State.openCounted
  rw [State.incSat_eq, State.get_set_same, State.get_set_ne _ _ _ _ (by decide)]
  exact Nat.mod_eq_of_lt (Nat.lt_of_le_of_lt (Nat.min_le_left _ _) (by decide))

theorem State.openCounted_framed {ks : List Nat} {s₀ : State}
    (hks : ∀ f ∈ [R.ROLE_STAT_FAILS, R.ROLE_STAT_CHAL_VALID], loc f 0 ∈ ks) (h : Framed ks s₀ s) :
    Framed ks s₀ s.openCounted :=
  set_framed _ _ _ _ (.inl (hks _ (by decide))) (set_framed _ _ _ _ (.inl (hks _ (by decide))) h)

theorem State.openLocked_framed {ks : List Nat} {s₀ : State} (hks : loc R.ROLE_STAT_LOCKED 0 ∈ ks) (h : Framed ks s₀ s) :
    Framed ks { s₀ with role := { s.role with lockAt := some s.now } } s.openLocked :=
  .putRole _ (set_framed _ _ _ _ (.inl hks) h)

variable (p : Port) (r : Role) (c : Nat)

/-- The record of a failed OPEN (R94). -/
def State.openFailEv : Ev :=
  { code := 0x0403, role := (s.actor p).1, keyId := (s.actor p).2,
    items := [(1, sessionCode r), (1, s.openCounted.get R.ROLE_STAT_FAILS), (1, c)], key := 1 }

/-- A first or second failure in a row is counted and recorded. -/
theorem State.openFail_counts (h : s.get R.ROLE_STAT_FAILS < 2) :
    s.openFail p r c = s.openCounted.record (s.openFailEv p r c) := by
  refine if_neg (?_ : ¬ 3 ≤ (s.openCounted.record (s.openFailEv p r c)).get R.ROLE_STAT_FAILS)
  rw [State.record_get _ _ _ (by decide), State.openCounted_fails]
  omega

/-- The third and every later one locks OPEN too. -/
theorem State.openFail_locks (h : 2 ≤ s.get R.ROLE_STAT_FAILS) :
    s.openFail p r c = (s.openCounted.record (s.openFailEv p r c)).openLocked.record { code := 0x0404 } := by
  refine if_pos (?_ : 3 ≤ (s.openCounted.record (s.openFailEv p r c)).get R.ROLE_STAT_FAILS)
  rw [State.record_get _ _ _ (by decide), State.openCounted_fails]
  omega

end

section
variable (dt : Nat) (p : Port) (r : Role) (s : State)

theorem roleOpen_locked (h : s.get R.ROLE_STAT_LOCKED = 1) :
    ∃ t, exec (.roleOpen dt p r) s = .next t ∧ Framed [] (s.advance dt) t :=
  ⟨_, (if_pos (decide_eq_true h) : execRoleOpen dt p r s = _), State.record_framed _ _ (.refl _ _)⟩

variable (hl : s.get R.ROLE_STAT_LOCKED ≠ 1)
include hl

theorem exec_roleOpen_unlocked : exec (.roleOpen dt p r) s =
    if (s.advance dt).openCause r ≠ 0 then
      .next ((s.advance dt).openFail p r ((s.advance dt).openCause r))
    else
      .next ((((s.advance dt).closeSession 5).sessionOpened p r (s.keyIdOf r)).record
        { code := 0x0401, role := r, keyId := s.keyIdOf r, items := [(1, sessionCode r), (2, s.keyIdOf r)] }) :=
  if_neg (fun h => hl (of_decide_eq_true h))

theorem roleOpen_opens (hc : (s.advance dt).openCause r = 0) :
    ∃ t, exec (.roleOpen dt p r) s = .next t ∧ t.get R.ROLE_STAT_SESSION = sessionCode r ∧ t.role.owner = p ∧
      t.get R.ROLE_STAT_FAILS = 0 ∧ t.get R.ROLE_STAT_CHAL_VALID = 0 ∧ t.role.rwlAt = s.now + dt := by
  refine ⟨_, (exec_roleOpen_unlocked dt p r s hl).trans (if_neg (not_not.2 hc)), ?_⟩
  rw [State.record_get _ _ _ (by decide), State.record_get _ _ _ (by decide), State.record_get _ _ _ (by decide),
    State.record_role]
  obtain ⟨hsession, hfails, hvalid⟩ := ((s.advance dt).closeSession 5).sessionOpened_shows p r (s.keyIdOf r)
  exact ⟨hsession, rfl, hfails, hvalid, State.closeSession_now (s.advance dt) 5⟩

variable (hc : (s.advance dt).openCause r ≠ 0)
include hc

theorem exec_roleOpen_fails : exec (.roleOpen dt p r) s =
    .next ((s.advance dt).openFail p r ((s.advance dt).openCause r)) :=
  (exec_roleOpen_unlocked dt p r s hl).trans (if_pos hc)

theorem roleOpen_counts (hf : s.get R.ROLE_STAT_FAILS < 2) :
    ∃ t, exec (.roleOpen dt p r) s = .next t ∧ t.get R.ROLE_STAT_FAILS = s.get R.ROLE_STAT_FAILS + 1 ∧
      t.get R.ROLE_STAT_CHAL_VALID = 0 ∧
      Framed (regKeys 0 [R.ROLE_STAT_FAILS, R.ROLE_STAT_CHAL_VALID]) (s.advance dt) t := by
  refine ⟨_, exec_roleOpen_fails dt p r s hl hc, ?_⟩
  rw [State.openFail_counts (s.advance dt) p r _ hf]
  refine ⟨?_, ?_, State.record_framed _ _ (State.openCounted_framed _ (by decide) (.refl _ _))⟩
  · rw [State.record_get _ _ _ (by decide), State.openCounted_fails, State.advance_get]
    omega
  · rw [State.record_get _ _ _ (by decide), State.openCounted_valid]

theorem roleOpen_locks (hf : 2 ≤ s.get R.ROLE_STAT_FAILS) :
    ∃ t, exec (.roleOpen dt p r) s = .next t ∧ t.get R.ROLE_STAT_LOCKED = 1 ∧ t.get R.ROLE_STAT_CHAL_VALID = 0 ∧
      Framed (regKeys 0 [R.ROLE_STAT_FAILS, R.ROLE_STAT_CHAL_VALID, R.ROLE_STAT_LOCKED])
        { s.advance dt with role := { s.role with lockAt := some (s.now + dt) } } t := by
  refine ⟨_, exec_roleOpen_fails dt p r s hl hc, ?_⟩
  rw [State.openFail_locks (s.advance dt) p r _ hf]
  have hcounted := State.record_framed _ ((s.advance dt).openFailEv p r ((s.advance dt).openCause r))
    (State.openCounted_framed _ (ks := regKeys 0 [R.ROLE_STAT_FAILS, R.ROLE_STAT_CHAL_VALID, R.ROLE_STAT_LOCKED])
      (by decide) (.refl _ (s.advance dt)))
  have hframe := State.openLocked_framed _ (by decide) hcounted
  rw [State.record_role, State.record_now] at hframe
  refine ⟨?_, ?_, State.record_framed _ _ hframe⟩
  · rw [State.record_get _ _ _ (by decide)]
    exact State.get_set_same (State.record _ _) R.ROLE_STAT_LOCKED 1 0
  · rw [State.record_get _ _ _ (by decide), State.openLocked, State.putRole_get, State.get_set_ne _ _ _ _ (by decide),
      State.record_get _ _ _ (by decide), State.openCounted_valid]

end

/-- Settles O10: each clause is the lemma of its command above. -/
theorem sessions : Obligations.Sessions := by
  unfold Obligations.Sessions
  exact ⟨roleNewChal_shows, roleClose_ends, exec_roleClose_closed, roleClose_otherPort, challengeExpiry_ends,
    fun dt t₀ s => openLockExpiry_ends dt s t₀, sessionIdleTimeout_ends, roleOpen_opens, roleOpen_counts, roleOpen_locks,
    roleOpen_locked⟩

end Sys2Proof.Machine
end

section
/-!
PROOF of the statement of 03_manifest_and_roles.md about keys (KeysProvisioned): what the key words hold, what taking a key shows and
leaves alone, and what a key write without effect does; then each command.
-/

namespace Sys2Proof.Machine

open Sys2Proof

/-! ### The key words (R93) -/

/-- The key that the words hold depends on those words alone. -/
theorem State.keyWords_congr {s t : State} (h : ∀ n, t.get R.ROLE_KEY_KEY n = s.get R.ROLE_KEY_KEY n) :
    t.keyWords = s.keyWords := by
  unfold State.keyWords
  simp only [h]

section
variable (s : State)

theorem State.lullLeave_keyWords (c : Nat) : (s.lullLeave c).keyWords = s.keyWords :=
  State.keyWords_congr fun n => State.lullLeave_get s c n (by decide)

theorem State.clearKeyWords_role : s.clearKeyWords.role = s.role :=
  foldl_set_keeps (·.role) (fun _ _ _ _ => rfl) s R.ROLE_KEY_KEY (fun _ => 0) 8

theorem State.clearKeyWords_now : s.clearKeyWords.now = s.now :=
  foldl_set_keeps (·.now) (fun _ _ _ _ => rfl) s R.ROLE_KEY_KEY (fun _ => 0) 8

theorem State.clearKeyWords_pwr : s.clearKeyWords.pwr = s.pwr :=
  foldl_set_keeps (·.pwr) (fun _ _ _ _ => rfl) s R.ROLE_KEY_KEY (fun _ => 0) 8

variable (target keyId : Nat)

theorem State.keyCmd_keyWords : (s.keyCmd target keyId).keyWords = s.keyWords :=
  State.keyWords_congr fun n => (State.get_set_ne _ R.ROLE_KEY_CMD_KEY_ID keyId 0 (by decide)).trans
    (State.get_set_ne s R.ROLE_KEY_CMD_TARGET target 0 (by decide))

/-! ### A key is taken (R85, R93) -/

/-- The command shows, the state of the roles takes the key, its flag is set, and the key words are cleared. -/
def State.keyTaken (f : Fld) (x : RoleSt) : State := (((s.keyCmd target keyId).putRole x).set f 1).clearKeyWords

variable (f : Fld) (x : RoleSt)

theorem State.keyTaken_role : (s.keyTaken target keyId f x).role = x := State.clearKeyWords_role _

theorem State.keyTaken_now : (s.keyTaken target keyId f x).now = s.now := State.clearKeyWords_now _

theorem State.keyTaken_pwr : (s.keyTaken target keyId f x).pwr = s.pwr := State.clearKeyWords_pwr _

theorem State.keyTaken_key {n : Nat} (hn : n < 8) : (s.keyTaken target keyId f x).get R.ROLE_KEY_KEY n = 0 :=
  State.clearKeyWords_key _ hn

theorem State.keyTaken_flag (hw : f.width = 1) (hf : fkey f ≠ fkey R.ROLE_KEY_KEY) :
    (s.keyTaken target keyId f x).get f = 1 := by
  unfold State.keyTaken
  rw [State.clearKeyWords_get _ _ hf, State.get_set_same, hw]
  rfl

theorem State.keyTaken_framed {ks : List Nat} {s₀ : State}
    (hks : ∀ g ∈ [R.ROLE_KEY_CMD_TARGET, R.ROLE_KEY_CMD_KEY_ID, f], loc g 0 ∈ ks)
    (hkeys : ∀ n < 8, loc R.ROLE_KEY_KEY n ∈ ks) (h : Framed ks s₀ s) :
    Framed ks { s₀ with role := x } (s.keyTaken target keyId f x) := by
  have hcmd : Framed ks s₀ (s.keyCmd target keyId) :=
    set_framed _ _ _ _ (.inl (hks _ (by simp))) (set_framed _ _ _ _ (.inl (hks _ (by simp))) h)
  exact foldl_set_framed R.ROLE_KEY_KEY (fun _ => 0) 8 hkeys
    (set_framed _ _ _ _ (.inl (hks _ (by simp))) (hcmd.putRole x))

/-- The key is taken in a session, whose idle time starts afresh, and waits for the journal (R83, R89). -/
def State.keyProvisioned (l : List Nat) : State :=
  ((s.keyTaken target keyId f x).putRole
    { (s.keyTaken target keyId f x).role with rwlAt := (s.keyTaken target keyId f x).now }).journalWait 1 l

theorem State.keyProvisioned_role (l : List Nat) :
    (s.keyProvisioned target keyId f x l).role = { x with rwlAt := s.now } := by
  show ({ (s.keyTaken target keyId f x).role with rwlAt := (s.keyTaken target keyId f x).now } : RoleSt) = _
  rw [State.keyTaken_role, State.keyTaken_now]

theorem State.keyProvisioned_get (l : List Nat) (g : Fld) (b : Nat) :
    (s.keyProvisioned target keyId f x l).get g b = (s.keyTaken target keyId f x).get g b := rfl

end

section
variable (s : State) (p : Port) (keyId : Nat)

theorem State.provision_installer : ∃ l e, s.provision p 2 keyId = (s.keyProvisioned 2 keyId R.ROLE_STAT_INST_KEY
    { s.role with instKey := some (s.keyWords, keyId % 65536) } l).record e := by
  unfold State.provision
  exact ⟨_, _, rfl⟩

theorem State.provision_operator : ∃ l e, s.provision p 3 keyId = (s.keyProvisioned 3 keyId R.ROLE_STAT_OPER_KEY
    { s.role with operKey := some (s.keyWords, keyId % 65536) } l).record e := by
  unfold State.provision
  exact ⟨_, _, rfl⟩

/-- What a port's key write leaves where its session does not allow it and it clears no words: a wake, and a record. -/
theorem State.lullLeave_rwlIgnored_framed (c off : Nat) : Framed (regKeys 0 lullFlds)
    { s with pwr := ((s.lullLeave c).rwlIgnored p off).pwr } ((s.lullLeave c).rwlIgnored p off) := by
  rw [State.rwlIgnored_pwr]
  exact State.rwlIgnored_framed _ _ _ (State.lullLeave_framed s c)

theorem State.keyNoEffect_unheld (target : Nat) (h : s.session p = none ∨ s.session p = some .operator) :
    s.keyNoEffect p target keyId = s.rwlIgnored p 0x3008 := by
  unfold State.keyNoEffect
  rcases h with h | h <;> rw [h]

/-! ### The Maker key (R85) -/

variable (dt : Nat)

/-- The first key write takes the Maker key, with or without a session. -/
theorem exec_roleKeyMaker_blank (h : s.role.makerKey = none) : ∃ e, exec (.roleKeyMaker dt p keyId) s =
    .next ((((s.advance dt).lullLeave 1).keyTaken 1 keyId R.ROLE_STAT_MAKER_KEY
      { s.role with makerKey := some (s.keyWords, keyId % 65536) }).record e) := by
  have hrole : ((s.advance dt).lullLeave 1).role = s.role := State.lullLeave_role (s.advance dt) 1
  have hwords : (((s.advance dt).lullLeave 1).keyCmd 1 keyId).keyWords = s.keyWords :=
    (State.keyCmd_keyWords _ 1 keyId).trans (State.lullLeave_keyWords (s.advance dt) 1)
  rw [← hwords, ← hrole]
  refine ⟨{ code := 0x0405, role := .host, items := [(1, 1), (2, keyId)] }, ?_⟩
  show execRoleKeyMaker dt p keyId s = _
  unfold execRoleKeyMaker
  dsimp only
  rw [hrole, h, ← hrole]
  rfl

/-- Every later one has no effect. -/
theorem exec_roleKeyMaker_programmed (h : s.role.makerKey ≠ none) :
    exec (.roleKeyMaker dt p keyId) s = .next (((s.advance dt).lullLeave 1).keyNoEffect p 1 keyId) := by
  obtain ⟨k, hk⟩ := Option.ne_none_iff_exists'.1 h
  show execRoleKeyMaker dt p keyId s = _
  unfold execRoleKeyMaker
  dsimp only
  rw [State.lullLeave_role, State.advance_role, hk]

/-- The registers that taking the Maker key may write. -/
abbrev makerKeyKeys : List Nat :=
  regKeys 0 ([R.ROLE_KEY_CMD_TARGET, R.ROLE_KEY_CMD_KEY_ID, R.ROLE_STAT_MAKER_KEY] ++ lullFlds) ++
    (List.range 8).map (loc R.ROLE_KEY_KEY)

theorem roleKeyMaker_takes (h : s.role.makerKey = none) :
    ∃ t, exec (.roleKeyMaker dt p keyId) s = .next t ∧ t.role.makerKey = some (s.keyWords, keyId % 65536) ∧
      t.get R.ROLE_STAT_MAKER_KEY = 1 ∧ (∀ n, n < 8 → t.get R.ROLE_KEY_KEY n = 0) ∧ t.role.instKey = s.role.instKey ∧
      t.role.operKey = s.role.operKey ∧
      Framed makerKeyKeys { s.advance dt with
        role := { s.role with makerKey := some (s.keyWords, keyId % 65536) }, pwr := t.pwr } t := by
  obtain ⟨e, hexec⟩ := exec_roleKeyMaker_blank s p keyId dt h
  have hwoken : Framed makerKeyKeys _ _ := (State.lullLeave_framed (s.advance dt) 1).mono fun k hk =>
    List.mem_append_left _ (List.map_subset _ (List.subset_append_right _ lullFlds) hk)
  have htaken := State.keyTaken_framed (ks := makerKeyKeys) ((s.advance dt).lullLeave 1) 1 keyId R.ROLE_STAT_MAKER_KEY
    { s.role with makerKey := some (s.keyWords, keyId % 65536) }
    (fun g hg => List.mem_append_left _ (List.mem_map_of_mem (List.mem_append_left _ hg)))
    (fun n hn => List.mem_append_right _ (List.mem_map_of_mem (List.mem_range.2 hn))) hwoken
  refine ⟨_, hexec, ?_⟩
  rw [State.record_role, State.keyTaken_role, State.record_pwr, State.keyTaken_pwr]
  refine ⟨rfl, ?_, fun n hn => ?_, rfl, rfl, State.record_framed _ _ htaken⟩
  · rw [State.record_get _ _ _ (by decide), State.keyTaken_flag _ _ _ _ _ rfl (by decide)]
  · rw [State.record_get _ _ _ (by decide), State.keyTaken_key _ _ _ _ _ hn]

theorem roleKeyMaker_ignored (h : s.role.makerKey ≠ none) (hs : s.session p = none) :
    ∃ t, exec (.roleKeyMaker dt p keyId) s = .next t ∧ t.role = s.role ∧
      Framed (regKeys 0 lullFlds) { s.advance dt with pwr := t.pwr } t := by
  have hsession : ((s.advance dt).lullLeave 1).session p = none := (State.lullLeave_session (s.advance dt) 1 p).trans hs
  refine ⟨_, exec_roleKeyMaker_programmed s p keyId dt h, ?_⟩
  rw [State.keyNoEffect_unheld _ p keyId 1 (.inl hsession)]
  refine ⟨?_, State.lullLeave_rwlIgnored_framed (s.advance dt) p 1 0x3008⟩
  rw [State.rwlIgnored_role, State.lullLeave_role, State.advance_role]

/-! ### The Installer and Operator keys (R89, R93) -/

theorem exec_roleKeyInstaller_maker (h : s.session p = some .maker) :
    exec (.roleKeyInstaller dt p keyId) s = .next (((s.advance dt).lullLeave 1).provision p 2 keyId) := by
  show execRoleKeyInstaller dt p keyId s = _
  unfold execRoleKeyInstaller
  dsimp only
  rw [State.lullLeave_session, State.advance_session, h]

theorem exec_roleKeyInstaller_unheld (h : s.session p = none ∨ s.session p = some .operator) :
    exec (.roleKeyInstaller dt p keyId) s = .next (((s.advance dt).lullLeave 1).keyNoEffect p 2 keyId) := by
  show execRoleKeyInstaller dt p keyId s = _
  unfold execRoleKeyInstaller
  dsimp only
  rw [State.lullLeave_session, State.advance_session]
  rcases h with h | h <;> rw [h]

theorem exec_roleKeyOperator_held (h : s.session p = some .maker ∨ s.session p = some .installer) :
    exec (.roleKeyOperator dt p keyId) s = .next (((s.advance dt).lullLeave 1).provision p 3 keyId) := by
  show execRoleKeyOperator dt p keyId s = _
  unfold execRoleKeyOperator
  dsimp only
  rw [State.lullLeave_session, State.advance_session]
  rcases h with h | h <;> rw [h]

theorem exec_roleKeyOperator_unheld (h : s.session p = none ∨ s.session p = some .operator) :
    exec (.roleKeyOperator dt p keyId) s = .next (((s.advance dt).lullLeave 1).keyNoEffect p 3 keyId) := by
  show execRoleKeyOperator dt p keyId s = _
  unfold execRoleKeyOperator
  dsimp only
  rw [State.lullLeave_session, State.advance_session]
  rcases h with h | h <;> rw [h]

/-- A key write without a session that allows it changes nothing but what a wake and a record do. -/
theorem keyNoEffect_frames (target : Nat) {i : Instr}
    (hexec : exec i s = .next (((s.advance dt).lullLeave 1).keyNoEffect p target keyId))
    (h : s.session p = none ∨ s.session p = some .operator) :
    ∃ t, exec i s = .next t ∧ Framed (regKeys 0 lullFlds) { s.advance dt with pwr := t.pwr } t := by
  rw [← State.advance_session s dt, ← State.lullLeave_session (s.advance dt) 1] at h
  rw [State.keyNoEffect_unheld _ p keyId target h] at hexec
  exact ⟨_, hexec, State.lullLeave_rwlIgnored_framed (s.advance dt) p 1 0x3008⟩

theorem roleKeyInstaller_provisions (h : s.session p = some .maker) :
    ∃ t, exec (.roleKeyInstaller dt p keyId) s = .next t ∧ t.role.instKey = some (s.keyWords, keyId % 65536) ∧
      t.get R.ROLE_STAT_INST_KEY = 1 ∧ (∀ n, n < 8 → t.get R.ROLE_KEY_KEY n = 0) ∧
      t.role.makerKey = s.role.makerKey ∧ t.role.operKey = s.role.operKey ∧ t.role.rwlAt = s.now + dt := by
  obtain ⟨l, e, hp⟩ := State.provision_installer ((s.advance dt).lullLeave 1) p keyId
  refine ⟨_, exec_roleKeyInstaller_maker s p keyId dt h, ?_⟩
  rw [hp, State.record_role, State.keyProvisioned_role, State.lullLeave_keyWords, State.lullLeave_role,
    State.lullLeave_now]
  refine ⟨rfl, ?_, fun n hn => ?_, rfl, rfl, rfl⟩
  · rw [State.record_get _ _ _ (by decide), State.keyProvisioned_get, State.keyTaken_flag _ _ _ _ _ rfl (by decide)]
  · rw [State.record_get _ _ _ (by decide), State.keyProvisioned_get, State.keyTaken_key _ _ _ _ _ hn]

theorem roleKeyOperator_provisions (h : s.session p = some .maker ∨ s.session p = some .installer) :
    ∃ t, exec (.roleKeyOperator dt p keyId) s = .next t ∧ t.role.operKey = some (s.keyWords, keyId % 65536) ∧
      t.get R.ROLE_STAT_OPER_KEY = 1 ∧ (∀ n, n < 8 → t.get R.ROLE_KEY_KEY n = 0) ∧
      t.role.makerKey = s.role.makerKey ∧ t.role.instKey = s.role.instKey ∧ t.role.rwlAt = s.now + dt := by
  obtain ⟨l, e, hp⟩ := State.provision_operator ((s.advance dt).lullLeave 1) p keyId
  refine ⟨_, exec_roleKeyOperator_held s p keyId dt h, ?_⟩
  rw [hp, State.record_role, State.keyProvisioned_role, State.lullLeave_keyWords, State.lullLeave_role,
    State.lullLeave_now]
  refine ⟨rfl, ?_, fun n hn => ?_, rfl, rfl, rfl⟩
  · rw [State.record_get _ _ _ (by decide), State.keyProvisioned_get, State.keyTaken_flag _ _ _ _ _ rfl (by decide)]
  · rw [State.record_get _ _ _ (by decide), State.keyProvisioned_get, State.keyTaken_key _ _ _ _ _ hn]

end

/-- Settles O11: each clause is the lemma of its command above. -/
theorem keysProvisioned : Obligations.KeysProvisioned := by
  unfold Obligations.KeysProvisioned
  exact ⟨fun dt p k s => roleKeyMaker_takes s p k dt,
    fun dt p k s => roleKeyMaker_ignored s p k dt,
    fun dt p k s => roleKeyInstaller_provisions s p k dt,
    fun dt p k s => roleKeyOperator_provisions s p k dt,
    fun dt p k s h => keyNoEffect_frames s p k dt 2 (exec_roleKeyInstaller_unheld s p k dt h) h,
    fun dt p k s h => keyNoEffect_frames s p k dt 3 (exec_roleKeyOperator_unheld s p k dt h) h⟩

end Sys2Proof.Machine
end

section
/-!
PROOF of the statement of 03_manifest_and_roles.md about roll-call replies and function-block lists (FunctionBlocks): what a reply
does to its node, and what the start, the overrun and the end of a list leave; then each command.
-/

namespace Sys2Proof.Machine

open Sys2Proof

/-! ### Roll-call replies (R73, R74) -/

section
variable (s : State) (n : Nat)

/-- A node's entry takes a value. -/
def State.putNode (x : NodeSt) : State := { s with mnf := { s.mnf with nodes := tput s.mnf.nodes n x } }

theorem State.putNode_node (x : NodeSt) : (s.putNode n x).node n = x := by
  simp [State.putNode, State.node, tget]

/-- Judging a reply keeps the mark it brought and the roll call it answered. -/
theorem nodeNext_keeps (x : NodeSt) (hit : Option Nat) :
    (nodeNext x hit).mark = x.mark ∧ (nodeNext x hit).repliedSeq = x.repliedSeq := by
  unfold nodeNext
  cases hit with
  | none =>
    dsimp only
    split <;> exact ⟨rfl, rfl⟩
  | some k =>
    dsimp only
    split
    · split <;> exact ⟨rfl, rfl⟩
    · exact ⟨rfl, rfl⟩

variable (mark seq : Nat)

theorem State.rollReply_absent (h : s.man.nodes[n]? = none) : s.rollReply n mark seq = s := by
  unfold State.rollReply
  rw [h]

variable {c : NodeCfg} (hc : s.man.nodes[n]? = some c)
include hc

/-- A reply to another roll call is recorded. -/
theorem State.rollReply_late (h : seq ≠ s.mnf.rollSeq) : s.rollReply n mark seq =
    s.record { code := 0x0305, source := n, items := [(2, n), (4, seq)], key := 1 } := by
  unfold State.rollReply
  rw [hc]
  exact if_pos (by simp [h])

/-- The first reply of a node to the last roll call is judged against its accepted marks. -/
theorem State.rollReply_first (hr : s.rollRuns = true) (he : c.exempt = false) (hn : (s.node n).repliedSeq ≠ s.mnf.rollSeq) :
    s.rollReply n mark s.mnf.rollSeq = s.putNode n
      (nodeNext { s.node n with mark := mark, repliedSeq := s.mnf.rollSeq } (markMatch c.marks mark)) := by
  unfold State.rollReply
  rw [hc]
  dsimp only
  rw [if_neg (by simp [hr]), if_neg (by simp [he]), if_neg hn]
  rfl

end

section
variable (dt n mark q : Nat)

theorem exec_rollCallReply (s : State) :
    exec (.rollCallReply dt n mark q) s = .next ((s.advance dt).rollReply n mark q) := rfl

theorem rollCallReply_first (c : NodeCfg) (s : State) (hc : s.man.nodes[n]? = some c) (hq : q = s.mnf.rollSeq)
    (hr : s.rollRuns = true) (he : c.exempt = false) (hn : (s.node n).repliedSeq ≠ q) :
    ∃ t, exec (.rollCallReply dt n mark q) s = .next t ∧ (t.node n).mark = mark ∧ (t.node n).repliedSeq = q ∧
      Framed [] { s.advance dt with mnf := t.mnf } t := by
  subst hq
  refine ⟨_, (exec_rollCallReply dt n mark _ s).trans
    (congrArg _ (State.rollReply_first (s.advance dt) n mark hc hr he hn)), ?_⟩
  rw [State.putNode_node]
  obtain ⟨hmark, hseq⟩ := nodeNext_keeps { (s.advance dt).node n with mark := mark, repliedSeq := s.mnf.rollSeq }
    (markMatch c.marks mark)
  exact ⟨hmark, hseq, .refl _ _⟩

theorem exec_rollCallReply_absent (s : State) (h : s.man.nodes[n]? = none) :
    exec (.rollCallReply dt n mark q) s = .next (s.advance dt) :=
  (exec_rollCallReply dt n mark q s).trans (congrArg _ (State.rollReply_absent (s.advance dt) n mark q h))

theorem rollCallReply_late (c : NodeCfg) (s : State) (hc : s.man.nodes[n]? = some c) (h : q ≠ s.mnf.rollSeq) :
    ∃ t, exec (.rollCallReply dt n mark q) s = .next t ∧ Framed [] (s.advance dt) t :=
  ⟨_, (exec_rollCallReply dt n mark q s).trans (congrArg _ (State.rollReply_late (s.advance dt) n mark q hc h)),
    State.record_framed _ _ (.refl _ _)⟩

end

/-! ### Function-block lists (R77, R80) -/

section
variable (s : State) (n : Nat)

theorem State.putFbl_fblSt (x : FblSt) : (s.putFbl n x).fblSt n = x := by
  simp [State.putFbl, State.fblSt, tget]

theorem State.record_fblSt (e : Ev) : (s.record e).fblSt n = s.fblSt n := by
  unfold State.fblSt
  rw [State.record_mnf]

/-- A list begins: it is busy on the snapshot of its inputs, and its last outputs stand. -/
def State.fblStarted (c : FblCfg) : State :=
  s.putFbl n { s.fblSt n with
    busy := true, skip := false, run := 0
    snap := (fblPoints c).foldl (fun t i => tput t i (s.fblRead i)) [] }

/-- A list that still runs is overrun: its next evaluation is skipped, and the overrun is counted. -/
def State.fblOverrun : State :=
  s.putFbl n { s.fblSt n with
    skip := true, run := (s.fblSt n).run + 1, overruns := (s.fblSt n).overruns + 1 }

/-- The results of an evaluation. -/
def State.fblResult (c : FblCfg) : List Sig × List (Int × Int) × List Bool × Nat :=
  evalBlocks ((c.k : Rat) / 10000) (s.fblSt n) c.blocks 0 [] [] [] 0

/-- A list ends: it keeps what its blocks gave. -/
def State.fblEnded (c : FblCfg) : State :=
  s.putFbl n { s.fblSt n with
    busy := false, outs := (s.fblResult n c).1, mem := (s.fblResult n c).2.1, errs := (s.fblResult n c).2.2.1
    sat := (s.fblSt n).sat + (s.fblResult n c).2.2.2 }

/-- An output of a list is committed to its point. -/
def commitOut (outs : List Sig) (s : State) (o : Nat × Nat) : State :=
  match s.ptCfg o.1 with
  | some p => { s with commits := s.commits.filter (fun x => !x.isPoint o.1) ++
      [.point o.1 (encodeNum p.type (fqRat (outs.getD o.2 {}).v)) s.pm (outs.getD o.2 {}).q] }
  | none => s

theorem commitOut_keeps {β : Type} (p : State → β) (hcommit : ∀ (u : State) l, p { u with commits := l } = p u)
    (outs : List Sig) (u : State) (o : Nat × Nat) : p (commitOut outs u o) = p u := by
  unfold commitOut
  split
  · exact hcommit _ _
  · rfl

/-- What committing does not change. -/
theorem commitOuts_keeps {β : Type} (p : State → β) (hcommit : ∀ (u : State) l, p { u with commits := l } = p u)
    (outs : List Sig) (l : List (Nat × Nat)) : p (l.foldl (commitOut outs) s) = p s :=
  foldl_keeps p l (commitOut_keeps p hcommit outs) s

theorem commitOuts_framed (outs : List Sig) (l : List (Nat × Nat)) :
    Framed [] { s with commits := (l.foldl (commitOut outs) s).commits } (l.foldl (commitOut outs) s) := by
  have hplain := commitOuts_keeps s (fun u => { u.plain with commits := (l.foldl (commitOut outs) s).commits })
    (fun _ _ => rfl) outs l
  have hregs := commitOuts_keeps s (·.regs) (fun _ _ => rfl) outs l
  exact ⟨hplain, fun k _ _ => congrArg (fun r => tfind r k) hregs⟩

end

section
variable (dt n : Nat) (c : FblCfg) (s : State) (hc : s.man.fbl[n]? = some c)
include hc

section
variable (ht : s.tick % (10 * c.k) = 10 * c.q) (he : c.engine ∉ s.engStopped)
include ht he

theorem exec_fblEvaluationStart_idle (hb : (s.fblSt n).busy = false) :
    exec (.fblEvaluationStart dt n) s = .next ((s.advance dt).fblStarted n c) := by
  show execFblEvaluationStart dt n s = _
  unfold execFblEvaluationStart
  dsimp only
  rw [State.advance_man, hc]
  refine (if_neg ?_).trans (if_neg ?_)
  · simp [ht, he]
  · exact (Bool.not_eq_true _).mpr hb

theorem exec_fblEvaluationStart_busy (hb : (s.fblSt n).busy = true) :
    ∃ e, exec (.fblEvaluationStart dt n) s = .next (((s.advance dt).fblOverrun n).record e) := by
  refine ⟨{ code := 0x0308, source := n, items := [(1, n), (1, c.engine), (2, (s.fblSt n).run + 1)], key := 2 }, ?_⟩
  show execFblEvaluationStart dt n s = _
  unfold execFblEvaluationStart
  dsimp only
  rw [State.advance_man, hc]
  refine (if_neg ?_).trans (if_pos hb)
  simp [ht, he]

theorem fblEvaluationStart_snapshots (hb : (s.fblSt n).busy = false) :
    ∃ t, exec (.fblEvaluationStart dt n) s = .next t ∧ (t.fblSt n).busy = true ∧ (t.fblSt n).run = 0 ∧
      (t.fblSt n).outs = (s.fblSt n).outs ∧ Framed [] { s.advance dt with mnf := t.mnf } t := by
  refine ⟨_, exec_fblEvaluationStart_idle dt n c s hc ht he hb, ?_⟩
  rw [State.fblStarted, State.putFbl_fblSt]
  exact ⟨rfl, rfl, rfl, .refl _ _⟩

theorem fblEvaluationStart_overruns (hb : (s.fblSt n).busy = true) :
    ∃ t, exec (.fblEvaluationStart dt n) s = .next t ∧ (t.fblSt n).busy = true ∧ (t.fblSt n).skip = true ∧
      (t.fblSt n).run = (s.fblSt n).run + 1 ∧ (t.fblSt n).overruns = (s.fblSt n).overruns + 1 ∧
      (t.fblSt n).snap = (s.fblSt n).snap ∧ Framed [] { s.advance dt with mnf := t.mnf } t := by
  obtain ⟨e, hexec⟩ := exec_fblEvaluationStart_busy dt n c s hc ht he hb
  refine ⟨_, hexec, ?_⟩
  rw [State.record_fblSt, State.record_mnf, State.fblOverrun, State.putFbl_fblSt]
  exact ⟨hb, rfl, rfl, rfl, rfl, State.record_framed _ _ (.refl _ _)⟩

end

variable (hb : (s.fblSt n).busy = true)
include hb

theorem exec_fblEvaluationEnd_busy : exec (.fblEvaluationEnd dt n) s =
    .next (c.outs.foldl (commitOut (s.fblResult n c).1) ((s.advance dt).fblEnded n c)) := by
  show execFblEvaluationEnd dt n s = _
  unfold execFblEvaluationEnd
  dsimp only
  rw [State.advance_man, hc]
  refine if_neg ?_
  simp [show ((s.advance dt).fblSt n).busy = true from hb]

theorem fblEvaluationEnd_commits :
    ∃ t, exec (.fblEvaluationEnd dt n) s = .next t ∧ (t.fblSt n).busy = false ∧
      (t.fblSt n).outs = (evalBlocks ((c.k : Rat) / 10000) (s.fblSt n) c.blocks 0 [] [] [] 0).1 ∧ t.pts = s.pts ∧
      Framed [] { s.advance dt with mnf := t.mnf, commits := t.commits } t := by
  have hmnf := commitOuts_keeps ((s.advance dt).fblEnded n c) (·.mnf) (fun _ _ => rfl) (s.fblResult n c).1 c.outs
  have hlist := (commitOuts_keeps ((s.advance dt).fblEnded n c) (·.fblSt n) (fun _ _ => rfl) (s.fblResult n c).1 c.outs).trans
    (State.putFbl_fblSt _ n _)
  have hpts := commitOuts_keeps ((s.advance dt).fblEnded n c) (·.pts) (fun _ _ => rfl) (s.fblResult n c).1 c.outs
  have hframe := commitOuts_framed ((s.advance dt).fblEnded n c) (s.fblResult n c).1 c.outs
  refine ⟨_, exec_fblEvaluationEnd_busy dt n c s hc hb, congrArg FblSt.busy hlist, congrArg FblSt.outs hlist, hpts, ?_⟩
  rw [hmnf]
  exact hframe

end

section
variable (dt n : Nat) (s : State)

/-- A list that the manifest does not name neither starts nor ends. -/
theorem exec_fblEvaluation_absent (i : Instr) (hi : i ∈ [Instr.fblEvaluationStart dt n, .fblEvaluationEnd dt n])
    (h : s.man.fbl[n]? = none) : exec i s = .next (s.advance dt) := by
  simp only [List.mem_cons, List.not_mem_nil, or_false] at hi
  rcases hi with rfl | rfl
  · show execFblEvaluationStart dt n s = _
    unfold execFblEvaluationStart
    dsimp only
    rw [State.advance_man, h]
  · show execFblEvaluationEnd dt n s = _
    unfold execFblEvaluationEnd
    dsimp only
    rw [State.advance_man, h]

theorem fblOverrunLimit_faults (h : 3 ≤ (s.fblSt n).run) :
    ∃ t, exec (.fblOverrunLimit dt n) s = .next t ∧ t.get R.DEV_FAULT_CAUSE = 8 ∧ t.get R.DEV_EVT_FAULT = 1 ∧
      t.get R.DEV_FAULT_UNIT =
        (match s.man.fbl[n]? with | some c => c.engine | none => 0xFFFF) % 2 ^ R.DEV_FAULT_UNIT.width := by
  obtain ⟨hcause, hunit, hevt⟩ := (s.advance dt).deviceFault_shows 8
    (match s.man.fbl[n]? with | some c => c.engine | none => 0xFFFF)
  exact ⟨_, if_pos h, hcause, hevt, hunit⟩

theorem exec_fblOverrunLimit_below (h : (s.fblSt n).run < 3) : exec (.fblOverrunLimit dt n) s = .next (s.advance dt) :=
  if_neg (Nat.not_le.2 h)

end

/-- Settles O26: each clause is the lemma of its command above. -/
theorem functionBlocks : Obligations.FunctionBlocks := by
  unfold Obligations.FunctionBlocks
  exact ⟨rollCallReply_first, exec_rollCallReply_absent, rollCallReply_late, fblEvaluationStart_snapshots,
    fblEvaluationStart_overruns, fblEvaluationEnd_commits, exec_fblEvaluation_absent, fblOverrunLimit_faults,
    exec_fblOverrunLimit_below⟩

end Sys2Proof.Machine
end

section
/-!
PROOF of the statement of 04_timebase.md about latching, the single step and the grid (TimeLatched): the rules of the timebase's own
data, what the work after a step leaves alone, and then each command. The statements about the timebase that follow use the rules.
-/

namespace Sys2Proof.Machine

open Sys2Proof

/-! ### The data of the timebase -/

/-- The data of the timebase takes a value. -/
def State.putTime (s : State) (x : TimeSt) : State := { s with time := x }

@[simp] theorem State.putTime_get (s : State) (x : TimeSt) (f : Fld) (b : Nat) : (s.putTime x).get f b = s.get f b := rfl
@[simp] theorem State.putTime_time (s : State) (x : TimeSt) : (s.putTime x).time = x := rfl

section
variable {ks : List Nat} {s t : State} (x : TimeSt)

theorem Framed.withTime (h : Framed ks s t) : Framed ks (s.putTime x) (t.putTime x) :=
  ⟨congrArg (fun u : State => { u with time := x }) h.plain, h.regs⟩

theorem Framed.time_eq (h : Framed ks s t) : t.time = s.time := State.of_plain_time h.plain

variable {x}

/-- A frame over given data of the timebase is a frame over the data the command leaves. -/
theorem Framed.ownTime (h : Framed ks (s.putTime x) t) : Framed ks { s with time := t.time } t := by
  rw [h.time_eq]
  exact h

end

/-! ### Other writes of a field -/

section
variable (s : State) {f g : Fld} (b : Nat) {c : Nat}

section
variable (h : fkey g ≠ fkey f)
include h

@[simp] theorem State.setI_get_ne (v : Int) : (s.setI f v b).get g c = s.get g c := State.get_set_ne _ _ _ _ h
@[simp] theorem State.setQ_get_ne (x : Rat) : (s.setQ f x b).get g c = s.get g c := State.get_set_ne _ _ _ _ h
@[simp] theorem State.setU_get_ne (x : Rat) : (s.setU f x b).get g c = s.get g c := State.get_set_ne _ _ _ _ h
@[simp] theorem State.setSat_get_ne (v : Nat) : (s.setSat f v b).get g c = s.get g c := State.get_set_ne _ _ _ _ h
@[simp] theorem State.inc_get_ne (n : Nat) : (s.inc f b n).get g c = s.get g c := State.get_set_ne _ _ _ _ h

end

end

/-! ### Latching the time (R97) -/

theorem State.latchTime_secLo (s : State) : s.latchTime.get R.TIME_LAT_SEC_LO_SEC_LO = s.ns / 1000000000 % 2 ^ 32 := by
  unfold State.latchTime
  dsimp only
  rw [State.get_set_ne _ _ _ _ (by decide), State.get_set_ne _ _ _ _ (by decide), State.get_set_same]
  exact Nat.mod_mod_of_dvd _ (by decide)

theorem State.latchTime_secHi (s : State) :
    s.latchTime.get R.TIME_LAT_SEC_HI_SEC_HI = s.ns / 1000000000 / 2 ^ 32 % 2 ^ 16 := by
  unfold State.latchTime
  dsimp only
  rw [State.get_set_ne _ _ _ _ (by decide), State.get_set_same]
  exact (congrArg (· % 2 ^ 16) (Nat.mod_mul_right_div_self _ (2 ^ 32) (2 ^ 16))).trans (Nat.mod_mod _ _)

theorem timeLatch_latches (dt : Nat) (p : Port) (s : State) :
    ∃ t, exec (.timeLatch dt p) s = .next t ∧ t.get R.TIME_LAT_NS_NS = (s.advance dt).ns % 1000000000 ∧
      t.get R.TIME_LAT_SEC_LO_SEC_LO = (s.advance dt).ns / 1000000000 % 2 ^ 32 ∧
      t.get R.TIME_LAT_SEC_HI_SEC_HI = (s.advance dt).ns / 1000000000 / 2 ^ 32 % 2 ^ 16 ∧
      t.get R.TIME_LAT_PM32_PM32 = (s.advance dt).ns % 2 ^ 32 ∧
      Framed (regKeys 0 [R.TIME_LAT_NS_NS, R.TIME_LAT_SEC_LO_SEC_LO, R.TIME_LAT_SEC_HI_SEC_HI, R.TIME_LAT_PM32_PM32])
        (s.advance dt) t :=
  ⟨(s.advance dt).latchTime, rfl, State.latchTime_ns _, State.latchTime_secLo _, State.latchTime_secHi _,
    State.latchTime_pm32 _, State.latchTime_framed _ (fun _ hf => List.mem_map_of_mem hf) (.refl _ _)⟩

/-! ### A port considers its queues (R430) -/

/-- `t` is `s` but for the ports' own data, the count of holds of port `p`, and what is told of it. -/
def EthFramed (p : Nat) (s t : State) : Prop := Framed [loc R.ETH_TX_CNT_GUARD_HOLDS p] { s with eth := t.eth } t

section
variable {p : Nat} {a b c : State}

theorem EthFramed.refl (s : State) : EthFramed p s s := Framed.refl _ s

theorem EthFramed.trans (h : EthFramed p a b) (g : EthFramed p b c) : EthFramed p a c :=
  ⟨g.plain.trans (congrArg (fun u : State => { u with eth := c.eth }) h.plain), fun k hk hn =>
    (g.regs k hk hn).trans (h.regs k hk hn)⟩

theorem ite_ethFramed {i : Prop} [Decidable i] (hb : EthFramed p a b) (hc : EthFramed p a c) :
    EthFramed p a (if i then b else c) := by split <;> assumption

theorem EthFramed.get_eq (h : EthFramed p a b) {f : Fld} (k : Nat) (hn : noteFld f = false)
    (hf : fkey f ≠ fkey R.ETH_TX_CNT_GUARD_HOLDS) : b.get f k = a.get f k :=
  Framed.get_eq h k hn (List.mem_singleton.not.2 (loc_ne hf p k))

end

theorem State.putEth_ethFramed (s : State) (p q : Nat) (e : EthSt) : EthFramed q s (s.putEth p e) := Framed.refl _ _

theorem State.inc_guardHolds_ethFramed (s : State) (p : Nat) : EthFramed p s (s.inc R.ETH_TX_CNT_GUARD_HOLDS p) :=
  set_framed _ _ _ _ (.inl (List.mem_singleton.2 rfl)) (.refl _ s)

theorem State.ethTry_ethFramed (s : State) (p q : Nat) : EthFramed p s (s.ethTry p q) := by
  unfold State.ethTry
  dsimp only
  split
  · exact ite_ethFramed (s.putEth_ethFramed p p _) (ite_ethFramed (.refl s)
      ((s.putEth_ethFramed p p _).trans (State.inc_guardHolds_ethFramed _ p)))
  · exact .refl s

theorem State.ethNext_ethFramed (s : State) (p : Nat) : EthFramed p s (s.ethNext p) := by
  unfold State.ethNext
  refine ite_ethFramed (.refl s) ?_
  generalize (if s.flag R.ETH_STAT_TX_ON p then [7, 6, 5, 4, 3, 2, 1, 0] else [7]) = l
  induction l generalizing s with
  | nil => exact .refl s
  | cons q l ih => exact (s.ethTry_ethFramed p q).trans (ih _)

/-! ### What follows a step: gate lists, PPS_OUT, the time-trigger units (R111, R115, R116, R430) -/

/-- The fields that the gate lists, the next edge of PPS_OUT and the time-trigger units write after a step. -/
def afterStepFlds : List Fld :=
  [R.ETH_TX_CNT_GUARD_HOLDS, R.ETH_GCL_CURRENT, R.ETH_GCL_REPHASED, R.TIME_PPS_QERR_VALID, R.TIME_TRIG_STAT_LATE,
   R.TIME_TRIG_STAT_FIRED, R.TIME_TRIG_STAT_PHASE_JUMP, R.ADC_CH_STAT_OVERRUN, R.ADC_EVT_OVERRUN, R.LOOP_CAP_STAT_STATE]

/-- A field that they leave alone. -/
def afterStepKeeps (f : Fld) : Bool := !(afterStepFlds.map fkey).contains (fkey f) && !noteFld f

theorem afterStepKeeps_ne {f g : Fld} (h : afterStepKeeps f = true) (hg : g ∈ afterStepFlds) : fkey f ≠ fkey g := by
  rw [afterStepKeeps, Bool.and_eq_true, Bool.not_eq_true', List.contains_eq_mem, decide_eq_false_iff_not] at h
  exact fun e => h.1 (e ▸ List.mem_map_of_mem hg)

theorem noteFld_of_afterStepKeeps {f : Fld} (h : afterStepKeeps f = true) : noteFld f = false := by
  rw [afterStepKeeps, Bool.and_eq_true] at h
  exact (Bool.not_eq_true' _).mp h.2

section
variable (s : State) {f : Fld} (b : Nat) (h : afterStepKeeps f = true)
include h

theorem State.ethNext_get (p : Nat) : (s.ethNext p).get f b = s.get f b :=
  (s.ethNext_ethFramed p).get_eq b (noteFld_of_afterStepKeeps h) (afterStepKeeps_ne h (by decide))

theorem State.ethRephase_get : s.ethRephase.get f b = s.get f b := by
  have hcur := afterStepKeeps_ne h (g := R.ETH_GCL_CURRENT) (by decide)
  have hreph := afterStepKeeps_ne h (g := R.ETH_GCL_REPHASED) (by decide)
  refine foldl_keeps (·.get f b) _ (fun u x => ?_) s
  dsimp only
  split
  · rfl
  · rw [State.record_get _ _ _ (noteFld_of_afterStepKeeps h), State.ethNext_get _ _ h, State.get_set_ne _ _ _ _ hreph,
      State.get_set_ne _ _ _ _ hcur]

theorem State.sarTrigger_get (ch : Nat) : (s.sarTrigger ch).get f b = s.get f b := by
  have hn := noteFld_of_afterStepKeeps h
  have hover := afterStepKeeps_ne h (g := R.ADC_CH_STAT_OVERRUN) (by decide)
  have hevt := afterStepKeeps_ne h (g := R.ADC_EVT_OVERRUN) (by decide)
  unfold State.sarTrigger
  split
  · dsimp only
    split
    · rfl
    · split
      · rw [State.record_get _ _ _ hn, State.evt_get_ne _ _ _ hn hevt, State.get_set_ne _ _ _ _ hover]
        rfl
      · rfl
  · rfl

theorem State.capTrigger_get (u trig : Nat) : (s.capTrigger u trig).get f b = s.get f b := by
  have hstate := afterStepKeeps_ne h (g := R.LOOP_CAP_STAT_STATE) (by decide)
  unfold State.capTrigger
  split
  · rfl
  · rw [State.record_get _ _ _ (noteFld_of_afterStepKeeps h), State.get_set_ne _ _ _ _ hstate]
    rfl

theorem State.trigTarget_get (c : TrigCfg) : (s.trigTarget c).get f b = s.get f b := by
  unfold State.trigTarget
  split
  · exact s.sarTrigger_get b h c.idx
  · rfl
  · exact s.capTrigger_get b h c.idx 2
  · rfl

theorem State.stepTriggers_get (l : List (TrigCfg × Nat)) : (s.stepTriggers l).get f b = s.get f b := by
  have hn := noteFld_of_afterStepKeeps h
  have hlate := afterStepKeeps_ne h (g := R.TIME_TRIG_STAT_LATE) (by decide)
  have hfired := afterStepKeeps_ne h (g := R.TIME_TRIG_STAT_FIRED) (by decide)
  have hjump := afterStepKeeps_ne h (g := R.TIME_TRIG_STAT_PHASE_JUMP) (by decide)
  induction l generalizing s with
  | nil => rfl
  | cons x l ih =>
    obtain ⟨c, u⟩ := x
    unfold State.stepTriggers
    refine (ih _).trans ?_
    split
    · rw [State.trigTarget_get _ _ h, State.record_get _ _ _ hn, State.inc_get_ne _ _ hfired, State.get_set_ne _ _ _ _ hlate]
    · split
      · rw [State.record_get _ _ _ hn, State.get_set_ne _ _ _ _ hjump]
      · rfl

end

/-! The clocks stand as they are meanwhile. -/

theorem State.time_of_tickView {s t : State} (h : t.tickView = s.tickView) : t.time = s.time := congrArg TickView.time h
theorem State.tick_of_tickView {s t : State} (h : t.tickView = s.tickView) : t.tick = s.tick := congrArg TickView.tick h

@[simp] theorem State.ethRephase_tickView (s : State) : s.ethRephase.tickView = s.tickView := by
  refine foldl_keeps State.tickView _ (fun u x => ?_) s
  dsimp only
  split
  · rfl
  · rw [State.record_tickView, State.ethNext_tickView, State.set_tickView _ _ (by decide), State.set_tickView _ _ (by decide)]

theorem State.sarTrigger_tickView (s : State) (ch : Nat) : (s.sarTrigger ch).tickView = s.tickView := by
  unfold State.sarTrigger
  split
  · dsimp only
    split
    · rfl
    · split
      · rw [State.record_tickView, State.evt_tickView _ _ (by decide), State.set_tickView _ _ (by decide),
          State.putConv_tickView]
      · rfl
  · rfl

theorem State.capTrigger_tickView (s : State) (u trig : Nat) : (s.capTrigger u trig).tickView = s.tickView := by
  unfold State.capTrigger
  split
  · rfl
  · rw [State.record_tickView, State.set_tickView _ _ (by decide)]
    rfl

theorem State.trigTarget_tickView (s : State) (c : TrigCfg) : (s.trigTarget c).tickView = s.tickView := by
  unfold State.trigTarget
  split
  · exact s.sarTrigger_tickView c.idx
  · rfl
  · exact s.capTrigger_tickView c.idx 2
  · rfl

theorem State.stepTriggers_tickView (s : State) (l : List (TrigCfg × Nat)) : (s.stepTriggers l).tickView = s.tickView := by
  induction l generalizing s with
  | nil => rfl
  | cons x l ih =>
    obtain ⟨c, u⟩ := x
    unfold State.stepTriggers
    refine (ih _).trans ?_
    split
    · rw [State.trigTarget_tickView, State.record_tickView, State.inc_tickView _ _ (by decide),
        State.set_tickView _ _ (by decide)]
    · split
      · rw [State.record_tickView, State.set_tickView _ _ (by decide)]
      · rfl

/-! ### The single step (R101, R102, R107) -/

section
variable (s : State)

/-- The clocks at a step: the RTC takes the time reached. -/
theorem State.stepGrid_time : s.stepGrid.time.count = s.time.count ∧ s.stepGrid.time.fixAt = s.time.fixAt ∧
    s.stepGrid.time.rtc = s.time.count ∧ s.stepGrid.time.rtcOk = true := by
  unfold State.stepGrid
  dsimp only
  rw [State.evt_time]
  exact ⟨rfl, rfl, rfl, rfl⟩

theorem State.stepGrid_tick : s.stepGrid.tick = s.tick := by
  unfold State.stepGrid
  dsimp only
  rw [State.evt_tick]
  rfl

theorem State.stepGrid_event : s.stepGrid.get R.TIME_EVT_STEP = 1 :=
  State.evt_get_same _ _ _ (by decide)

theorem State.stepGrid_get {f : Fld} (hn : noteFld f = false) (hg : fkey f ≠ fkey R.TIME_GRID_NS)
    (he : fkey f ≠ fkey R.TIME_EVT_STEP) : s.stepGrid.get f = s.get f := by
  unfold State.stepGrid
  dsimp only
  rw [State.evt_get_ne _ _ _ hn he, State.setI_get_ne _ _ hg]
  rfl

variable (src : Nat) (d : Int) (p : Pm)

/-- TIME_STAT as the step shows it. -/
theorem State.stepShow_shows : (s.stepShow src d p).get R.TIME_STAT_STEPPED = 1 ∧ (s.stepShow src d p).get R.TIME_STAT_STATE = 1 ∧
    (s.stepShow src d p).get R.TIME_STAT_SRC = src % 2 ^ R.TIME_STAT_SRC.width := by
  unfold State.stepShow State.openUnc State.openQerr
  simp (disch := decide) only [State.setI_get_ne, State.get_set_ne, State.get_set_same]
  exact ⟨rfl, rfl, trivial⟩

/-- The step on the clocks and the registers, ahead of what it tells and sets off. -/
def State.stepMade : State :=
  let u := s.putTime { s.time with count := shiftCount s.time.count d, fixAt := none }
  (u.stepShow src d u.pm).stepGrid

/-- What the step tells and sets off leaves the other registers. -/
theorem State.makeStep_get {f : Fld} (h : afterStepKeeps f = true) : (s.makeStep src d).get f = (s.stepMade src d).get f := by
  unfold State.makeStep
  dsimp only
  rw [State.stepTriggers_get _ _ h, State.ethRephase_get _ _ h, State.ppsNext, State.setB_get_ne _ _ _ _
    (afterStepKeeps_ne h (by decide)), State.timeEvent_get _ _ _ (noteFld_of_afterStepKeeps h)]
  rfl

theorem State.makeStep_tickView : (s.makeStep src d).tickView = (s.stepMade src d).tickView := by
  unfold State.makeStep
  dsimp only
  rw [State.stepTriggers_tickView, State.ethRephase_tickView, State.ppsNext, State.setB_tickView _ _ (by decide),
    (State.timeEvent_framed _ _ (.refl _ _)).tickView_eq]
  rfl

theorem State.makeStep_shows : (s.makeStep src d).stepped = true ∧ (s.makeStep src d).timeState = 1 ∧
    (s.makeStep src d).get R.TIME_STAT_SRC = src % 2 ^ R.TIME_STAT_SRC.width ∧
    (s.makeStep src d).get R.TIME_EVT_STEP = 1 := by
  obtain ⟨hstepped, hstate, hsrc⟩ := State.stepShow_shows
    (s.putTime { s.time with count := shiftCount s.time.count d, fixAt := none }) src d
    (s.putTime { s.time with count := shiftCount s.time.count d, fixAt := none }).pm
  unfold State.stepped State.flag State.timeState
  rw [State.makeStep_get _ _ _ (by decide), State.makeStep_get _ _ _ (by decide), State.makeStep_get _ _ _ (by decide),
    State.makeStep_get _ _ _ (by decide)]
  unfold State.stepMade
  dsimp only
  rw [State.stepGrid_event, State.stepGrid_get _ (by decide) (by decide) (by decide),
    State.stepGrid_get _ (by decide) (by decide) (by decide), State.stepGrid_get _ (by decide) (by decide) (by decide)]
  exact ⟨decide_eq_true hstepped, hstate, hsrc, rfl⟩

theorem State.makeStep_clocks : (s.makeStep src d).time.count = shiftCount s.time.count d ∧
    (s.makeStep src d).time.fixAt = none ∧ (s.makeStep src d).time.rtc = shiftCount s.time.count d ∧
    (s.makeStep src d).time.rtcOk = true ∧ (s.makeStep src d).tick = s.tick := by
  rw [State.time_of_tickView (s.makeStep_tickView src d), State.tick_of_tickView (s.makeStep_tickView src d)]
  unfold State.stepMade
  dsimp only
  obtain ⟨hcount, hfix, hrtc, hok⟩ := State.stepGrid_time
    ((s.putTime { s.time with count := shiftCount s.time.count d, fixAt := none }).stepShow src d
      (s.putTime { s.time with count := shiftCount s.time.count d, fixAt := none }).pm)
  exact ⟨hcount, hfix, hrtc, hok, State.stepGrid_tick _⟩

end

section
variable (dt : Nat) (s : State)

theorem exec_singleStep_steps (t₀ : Nat) (hfix : s.time.fixAt = some t₀) (hs : s.stepped = false) (hframe : s.tick % 1000 = 0)
    (ht : t₀ + 20000000 ≤ s.now + dt) (hp : s.isPaired = false) :
    exec (.singleStep dt) s = .next ((s.advance dt).makeStep s.stepFix.1 s.stepFix.2) := by
  have hfix' : (s.advance dt).time.fixAt = some t₀ := hfix
  have hs' : (s.advance dt).stepped = false := hs
  have hp' : (s.advance dt).isPaired = false := hp
  show execSingleStep dt s = _
  unfold execSingleStep
  dsimp only
  rw [hfix']
  refine (if_neg ?_).trans rfl
  simp [hs', hp', hframe, Nat.not_lt.2 ht]

theorem singleStep_steps (t₀ : Nat) (hfix : s.time.fixAt = some t₀) (hs : s.stepped = false) (hframe : s.tick % 1000 = 0)
    (ht : t₀ + 20000000 ≤ s.now + dt) (hp : s.isPaired = false) (hsrc : s.stepFix.1 < 8) :
    ∃ t, exec (.singleStep dt) s = .next t ∧ t.stepped = true ∧ t.timeState = 1 ∧ t.get R.TIME_STAT_SRC = s.stepFix.1 ∧
      t.time.count = shiftCount (s.advance dt).time.count s.stepFix.2 ∧ t.time.fixAt = none ∧
      t.time.rtc = t.time.count ∧ t.time.rtcOk = true ∧ t.tick = s.tick ∧ t.get R.TIME_EVT_STEP = 1 := by
  obtain ⟨hstepped, hstate, hshown, hevent⟩ := (s.advance dt).makeStep_shows s.stepFix.1 s.stepFix.2
  obtain ⟨hcount, hnofix, hrtc, hok, htick⟩ := (s.advance dt).makeStep_clocks s.stepFix.1 s.stepFix.2
  exact ⟨_, exec_singleStep_steps dt s t₀ hfix hs hframe ht hp, hstepped, hstate, hshown.trans (Nat.mod_eq_of_lt hsrc), hcount,
    hnofix, hrtc.trans hcount.symm, hok, htick, hevent⟩

theorem exec_singleStep_waits (h : s.time.fixAt = none ∨ s.stepped = true ∨ s.tick % 1000 ≠ 0) :
    exec (.singleStep dt) s = .next (s.advance dt) := by
  show execSingleStep dt s = _
  unfold execSingleStep
  dsimp only
  split
  · next t₀ hfix =>
    have hfix' : s.time.fixAt ≠ none := fun e => absurd (hfix.symm.trans e) (by simp)
    refine if_pos ?_
    rcases h with h | h | h
    · exact absurd h hfix'
    · simp [show (s.advance dt).stepped = true from h]
    · simp [h]
  · rfl

/-! ### The grid (R107) -/

/-- The grid is aligned: the registers show it, and ticks are of nominal length. -/
def State.gridShown : State :=
  ((s.set R.TIME_STAT_GRID_ALIGNED 1).putTime { s.time with tickCycles := 4000 }).evt R.TIME_EVT_GRID_DONE

theorem State.gridShown_framed : Framed (regKeys 0 [R.TIME_STAT_GRID_ALIGNED, R.TIME_EVT_GRID_DONE])
    (s.putTime { s.time with tickCycles := 4000 }) s.gridShown :=
  State.evt_framed _ _ _ (.inl (List.mem_map_of_mem (by decide)))
    (Framed.withTime _ (set_framed _ _ _ _ (.inl (List.mem_map_of_mem (by decide))) (.refl _ _)))

theorem exec_gridAligned_done (hs : s.stepped = true) (hg : s.geti R.TIME_GRID_NS = 0) (ha : s.get R.TIME_STAT_GRID_ALIGNED = 0) :
    exec (.gridAligned dt) s = .next ((s.advance dt).gridShown.record
      { code := 0x0507, items := [sItem 4 s.time.gridFrom, measItem 0x0507 (s.now + dt - s.time.gridAt : Nat)], key := 0 }) := by
  have hs' : (s.advance dt).stepped = true := hs
  have hg' : (s.advance dt).geti R.TIME_GRID_NS = 0 := hg
  show execGridAligned dt s = _
  unfold execGridAligned
  dsimp only
  refine (if_neg ?_).trans rfl
  simp [hs', hg', State.flag, ha]

theorem gridAligned_aligns (hs : s.stepped = true) (hg : s.geti R.TIME_GRID_NS = 0) (ha : s.get R.TIME_STAT_GRID_ALIGNED = 0) :
    ∃ t, exec (.gridAligned dt) s = .next t ∧ t.get R.TIME_STAT_GRID_ALIGNED = 1 ∧ t.time.tickCycles = 4000 ∧
      t.get R.TIME_EVT_GRID_DONE = 1 ∧
      Framed (regKeys 0 [R.TIME_STAT_GRID_ALIGNED, R.TIME_EVT_GRID_DONE]) { s.advance dt with time := t.time } t := by
  have hframe := fun e => State.record_framed _ e (s.advance dt).gridShown_framed
  refine ⟨_, exec_gridAligned_done dt s hs hg ha, ?_, congrArg TimeSt.tickCycles (hframe _).time_eq, ?_, (hframe _).ownTime⟩
  · rw [State.record_get _ _ _ (by decide), State.gridShown, State.evt_get_ne _ _ _ (by decide) (by decide),
      State.putTime_get, State.get_set_same]
    rfl
  · rw [State.record_get _ _ _ (by decide)]
    exact State.evt_get_same _ _ _ (by decide)

theorem exec_gridAligned_waits (h : s.stepped = false ∨ s.geti R.TIME_GRID_NS ≠ 0) :
    exec (.gridAligned dt) s = .next (s.advance dt) := by
  show execGridAligned dt s = _
  unfold execGridAligned
  dsimp only
  refine if_pos ?_
  rcases h with h | h
  · simp [show (s.advance dt).stepped = false from h]
  · simp [show (s.advance dt).geti R.TIME_GRID_NS ≠ 0 from h]

end

/-- Settles O19: each clause is the lemma of its command above. -/
theorem timeLatched : Obligations.TimeLatched := by
  unfold Obligations.TimeLatched
  exact ⟨timeLatch_latches, fun dt t₀ s => singleStep_steps dt s t₀, exec_singleStep_waits, gridAligned_aligns,
    exec_gridAligned_waits⟩

end Sys2Proof.Machine
end

section
/-!
PROOF of the statement of 04_timebase.md about the servo, the loss and return of a source, holdover and recovery (TimeSources): what
each operation on the sources shows and leaves alone, and then each command.
-/

namespace Sys2Proof.Machine

open Sys2Proof

/-! ### Sources (R101, R104) -/

section
variable (s : State) (src : Nat) (ofs : Int)

theorem State.srcSeen_srcOfs : (s.srcSeen src ofs).srcOfs src = ofs := by
  simp [State.srcSeen, State.srcOfs, tget]

theorem State.srcSeen_live : src ∈ (s.srcSeen src ofs).time.live := by
  unfold State.srcSeen
  dsimp only
  split
  · assumption
  · exact List.mem_cons_self

@[simp] theorem State.srcSeen_get (f : Fld) (b : Nat) : (s.srcSeen src ofs).get f b = s.get f b := rfl

/-- A source with a valid fix while FREE, the first one: the step follows from it. -/
theorem State.validFix_first (hs : s.stepped = false) (hsrc : src ∈ s.man.srcList) (hfix : s.time.fixAt = none) :
    s.validFix src ofs =
      (s.srcSeen src ofs).putTime { (s.srcSeen src ofs).time with fixAt := some s.now, fixOfs := ofs, fixSrc := src } := by
  unfold State.validFix
  dsimp only
  rw [if_neg, show (s.srcSeen src ofs).time.fixAt = none from hfix]
  · rfl
  · simp [show (s.srcSeen src ofs).stepped = false from hs, show (s.srcSeen src ofs).man = s.man from rfl, hsrc]

/-- TIME_STAT shows the source selected. -/
theorem State.setSrc_shows (h : src < 8) : (s.setSrc src).get R.TIME_STAT_SRC = src := by
  unfold State.setSrc
  dsimp only
  split
  · assumption
  · rw [State.timeEvent_get _ _ _ (by decide), State.evt_get_ne _ _ _ (by decide) (by decide), State.get_set_same]
    exact Nat.mod_eq_of_lt h

theorem State.setSrc_get {f : Fld} (hn : noteFld f = false) (hs : fkey f ≠ fkey R.TIME_STAT_SRC)
    (he : fkey f ≠ fkey R.TIME_EVT_SRC_CHANGE) : (s.setSrc src).get f = s.get f := by
  unfold State.setSrc
  dsimp only
  split
  · rfl
  · rw [State.timeEvent_get _ _ _ hn, State.evt_get_ne _ _ _ hn he, State.get_set_ne _ _ _ _ hs]

@[simp] theorem State.setSrc_time : (s.setSrc src).time = s.time := by
  unfold State.setSrc
  dsimp only
  split
  · rfl
  · rw [State.timeEvent_time, State.evt_time, State.set_time]

end

/-! ### The servo (R103, R104, R110) -/

/-- The UTC offset and leap that the selected source announces, where it does. -/
def State.utcHeard (s : State) : Option (Int × Nat) → State
  | some (u, leap) => (s.set R.TIME_UTC_LEAP leap).putTime { s.time with utcAnnounced := some u }
  | none => s

theorem State.utcHeard_time (s : State) (utc : Option (Int × Nat)) :
    ∃ u, (s.utcHeard utc).time = { s.time with utcAnnounced := u } := by
  cases utc with
  | some x => exact ⟨some x.1, rfl⟩
  | none => exact ⟨s.time.utcAnnounced, rfl⟩

theorem State.utcHeard_get (s : State) (utc : Option (Int × Nat)) {f : Fld} (h : fkey f ≠ fkey R.TIME_UTC_LEAP) :
    (s.utcHeard utc).get f = s.get f := by
  cases utc with
  | some x => exact State.get_set_ne _ _ _ _ h
  | none => rfl

section
variable (s : State) (src : Nat) (ofs : Int)

theorem State.offsetAlarm_time : ∃ a, (s.offsetAlarm src ofs).time = { s.time with offsetAlarm := a } := by
  unfold State.offsetAlarm
  dsimp only
  split
  · exact ⟨true, State.alarm_time _ _ _ _ _⟩
  · split
    · exact ⟨false, State.clearAlarm_time _ _ _ _ _⟩
    · exact ⟨s.time.offsetAlarm, rfl⟩

theorem State.offsetAlarm_get {f : Fld} (hn : noteFld f = false) : (s.offsetAlarm src ofs).get f = s.get f := by
  unfold State.offsetAlarm
  dsimp only
  split
  · exact State.alarm_get _ _ _ _ _ _ hn
  · split
    · exact State.clearAlarm_get _ _ _ _ _ _ hn
    · rfl

/-- The servo takes up an update of the selected source. -/
def State.steered (freqErr : Rat) (utc : Option (Int × Nat)) : State :=
  let rate := clampRate s.time.rate (freqErr + (ofs : Rat) / 16)
  let x : TimeSt := { s.time with
    rate := rate, below := if ofs.natAbs < 1000 then s.time.below + 1 else 0
    lockedRates := if s.timeState = 1 then (rate :: s.time.lockedRates).take 64 else s.time.lockedRates
    rtc := s.time.count, rtcOk := true }
  (((((s.putTime x).setQ R.TIME_RATE_PPB rate).setI R.TIME_OFFSET_NS ofs).openUnc).utcHeard utc).offsetAlarm src ofs

variable (freqErr : Rat) (utc : Option (Int × Nat))

theorem State.steered_get {f : Fld} (hn : noteFld f = false) (hleap : fkey f ≠ fkey R.TIME_UTC_LEAP)
    (hunc : fkey f ≠ fkey R.TIME_UNC_NS) (hofs : fkey f ≠ fkey R.TIME_OFFSET_NS) (hrate : fkey f ≠ fkey R.TIME_RATE_PPB) :
    (s.steered src ofs freqErr utc).get f = s.get f := by
  unfold State.steered State.openUnc
  dsimp only
  rw [State.offsetAlarm_get _ _ _ hn, State.utcHeard_get _ _ hleap, State.get_set_ne _ _ _ _ hunc, State.setI_get_ne _ _ hofs,
    State.setQ_get_ne _ _ hrate, State.putTime_get]

theorem State.steered_clocks : (s.steered src ofs freqErr utc).time.rate = clampRate s.time.rate (freqErr + (ofs : Rat) / 16) ∧
    (s.steered src ofs freqErr utc).time.below = (if ofs.natAbs < 1000 then s.time.below + 1 else 0) ∧
    (s.steered src ofs freqErr utc).time.ofs = s.time.ofs ∧ (s.steered src ofs freqErr utc).time.count = s.time.count := by
  unfold State.steered
  dsimp only
  obtain ⟨a, ha⟩ := State.offsetAlarm_time _ src ofs
  obtain ⟨u, hu⟩ := State.utcHeard_time _ utc
  rw [ha, hu]
  exact ⟨rfl, rfl, rfl, rfl⟩

end

/-! ### Holdover (R105) -/

section
variable (s : State)

theorem State.holdover_shows : s.holdover.timeState = 2 ∧ s.holdover.get R.TIME_STAT_SRC = 0 ∧ s.holdover.get R.TIME_HOLD_S = 0 ∧
    s.holdover.get R.TIME_EVT_HOLD_ENTER = 1 := by
  unfold State.holdover State.timeState
  simp (disch := decide) only [State.timeEvent_get, State.evt_get_ne, State.evt_get_same, State.setQ_get_ne, State.get_set_ne,
    State.get_set_same]
  exact ⟨rfl, rfl, rfl, rfl⟩

theorem State.holdover_clocks : s.holdover.time.rate = meanRate s.time.lockedRates s.time.rate ∧ s.holdover.time.holdAt = s.now ∧
    s.holdover.time.live = s.time.live ∧ s.holdover.time.count = s.time.count := by
  unfold State.holdover
  dsimp only
  rw [State.timeEvent_time, State.evt_time]
  exact ⟨rfl, rfl, rfl, rfl⟩

end

section
variable (dt : Nat) (s : State)

section
variable (fe : Rat) (ofs : Int) (utc : Option (Int × Nat))

theorem exec_servoUpdate_waits (h : s.stepped = false ∨ s.timeState = 2) :
    exec (.servoUpdate dt fe ofs utc) s = .next (s.advance dt) := by
  refine if_pos ?_
  rcases h with h | h
  · simp [show (s.advance dt).stepped = false from h]
  · simp [show (s.advance dt).timeState = 2 from h]

variable (hs : s.stepped = true) (hstate : s.timeState ≠ 2) (hp : s.isPaired = false)
include hs hstate hp

theorem servoRuns_of : ¬(!s.stepped || s.timeState = 2 || (s.isPaired && !s.isActive)) = true := by
  simp [hs, hstate, hp]

theorem exec_servoUpdate_steers (hbest : s.bestSrc ≠ 0) : exec (.servoUpdate dt fe ofs utc) s =
    .next ((((s.advance dt).srcSeen s.bestSrc ofs).setSrc s.bestSrc).steered s.bestSrc ofs fe utc) := by
  cases utc <;> exact (if_neg (servoRuns_of (s.advance dt) hs hstate hp)).trans (if_neg hbest)

theorem exec_servoUpdate_holds (hbest : s.bestSrc = 0) :
    exec (.servoUpdate dt fe ofs utc) s = .next (s.advance dt).holdover :=
  (if_neg (servoRuns_of (s.advance dt) hs hstate hp)).trans (if_pos hbest)

theorem servoUpdate_steers (hbest : s.bestSrc ≠ 0) (hlt : s.bestSrc < 8) :
    ∃ t, exec (.servoUpdate dt fe ofs utc) s = .next t ∧ t.time.rate = clampRate s.time.rate (fe + (ofs : Rat) / 16) ∧
      t.get R.TIME_STAT_SRC = s.bestSrc ∧ t.srcOfs s.bestSrc = ofs ∧
      t.time.below = (if ofs.natAbs < 1000 then s.time.below + 1 else 0) ∧ t.timeState = s.timeState ∧
      t.time.count = (s.advance dt).time.count := by
  obtain ⟨hrate, hbelow, hofs, hcount⟩ :=
    State.steered_clocks (((s.advance dt).srcSeen s.bestSrc ofs).setSrc s.bestSrc) s.bestSrc ofs fe utc
  rw [State.setSrc_time] at hrate hbelow hofs hcount
  refine ⟨_, exec_servoUpdate_steers dt s fe ofs utc hs hstate hp hbest, hrate, ?_, ?_, hbelow, ?_, hcount⟩
  · rw [State.steered_get _ _ _ _ _ (by decide) (by decide) (by decide) (by decide) (by decide)]
    exact State.setSrc_shows _ _ hlt
  · unfold State.srcOfs
    rw [hofs]
    exact State.srcSeen_srcOfs _ _ _
  · unfold State.timeState
    rw [State.steered_get _ _ _ _ _ (by decide) (by decide) (by decide) (by decide) (by decide),
      State.setSrc_get _ _ (by decide) (by decide) (by decide)]
    rfl

theorem servoUpdate_holds (hbest : s.bestSrc = 0) :
    ∃ t, exec (.servoUpdate dt fe ofs utc) s = .next t ∧ t.timeState = 2 ∧ t.get R.TIME_STAT_SRC = 0 ∧
      t.time.rate = meanRate s.time.lockedRates s.time.rate ∧ t.time.holdAt = s.now + dt ∧
      t.time.count = (s.advance dt).time.count := by
  obtain ⟨hhold, hsrc, -, -⟩ := (s.advance dt).holdover_shows
  obtain ⟨hrate, hat, -, hcount⟩ := (s.advance dt).holdover_clocks
  exact ⟨_, exec_servoUpdate_holds dt s fe ofs utc hs hstate hp hbest, hhold, hsrc, hrate, hat, hcount⟩

end

/-! ### A source is lost (R100, R105) -/

/-- A device that is not a paired standby acts on its own sources once it has stepped. -/
theorem steers_of {s : State} (hs : s.stepped = true) (hp : s.isPaired = false) :
    ¬(!s.stepped || (s.isPaired && !s.isActive)) = true := by
  simp [hs, hp]

/-- The source is live no more. -/
def State.srcGone (src : Nat) : State := s.putTime { s.time with live := s.time.live.filter (· ≠ src) }

section
variable (src : Nat)

theorem exec_sourceLost_unknown (h : src ∉ s.time.live) : exec (.sourceLost dt src) s = .next (s.advance dt) := by
  show execSourceLost dt src s = _
  unfold execSourceLost
  dsimp only
  exact if_pos (by simp [show src ∉ (s.advance dt).time.live from h])

variable (hlive : src ∈ s.time.live) (hsilent : tget s.time.seenAt src 0 + s.man.holdEnter * 1000000000 ≤ s.now + dt)
  (hs : s.stepped = true) (hp : s.isPaired = false)
include hlive hsilent hs hp

theorem exec_sourceLost_gone (hrest : ((s.advance dt).srcGone src).bestSrc ≠ 0 ∨ s.timeState ≠ 2) :
    exec (.sourceLost dt src) s = .next (
      let u := (s.advance dt).srcGone src
      if u.bestSrc = 0 then u.holdover else u.setSrc u.bestSrc) := by
  have hsilent' : ¬s.now + dt < tget (s.advance dt).time.seenAt src 0 + s.man.holdEnter * 1000000000 := Nat.not_lt.2 hsilent
  show execSourceLost dt src s = _
  unfold execSourceLost
  dsimp only
  rw [if_neg (by simp [show src ∈ (s.advance dt).time.live from hlive, hsilent'])]
  refine (if_neg (steers_of hs hp (s := (s.advance dt).srcGone src))).trans ?_
  split
  · next hbest => exact (if_neg (hrest.resolve_left (not_not.2 hbest))).trans (congrArg _ (if_pos hbest).symm)
  · next hbest => exact congrArg _ (if_neg hbest).symm

theorem sourceLost_holds (hstate : s.timeState ≠ 2)
    (hnone : (s.man.srcList.find? fun x => x ∈ s.time.live.filter (· ≠ src)) = none) :
    ∃ t, exec (.sourceLost dt src) s = .next t ∧ t.timeState = 2 ∧ t.get R.TIME_STAT_SRC = 0 ∧
      t.time.rate = meanRate s.time.lockedRates s.time.rate ∧ t.time.holdAt = s.now + dt ∧
      t.time.live = s.time.live.filter (· ≠ src) ∧ t.get R.TIME_HOLD_S = 0 ∧ t.get R.TIME_EVT_HOLD_ENTER = 1 ∧
      t.time.count = (s.advance dt).time.count := by
  have hbest : ((s.advance dt).srcGone src).bestSrc = 0 := congrArg (Option.getD · 0) hnone
  obtain ⟨hhold, hsrc, hsec, hevent⟩ := ((s.advance dt).srcGone src).holdover_shows
  obtain ⟨hrate, hat, hgone, hcount⟩ := ((s.advance dt).srcGone src).holdover_clocks
  refine ⟨_, exec_sourceLost_gone dt s src hlive hsilent hs hp (.inr hstate), ?_⟩
  dsimp only
  rw [if_pos hbest]
  exact ⟨hhold, hsrc, hrate, hat, hgone, hsec, hevent, hcount⟩

theorem sourceLost_changes (b : Nat) (hsome : (s.man.srcList.find? fun x => x ∈ s.time.live.filter (· ≠ src)) = some b)
    (hb : b ≠ 0) (hlt : b < 8) :
    ∃ t, exec (.sourceLost dt src) s = .next t ∧ t.get R.TIME_STAT_SRC = b ∧ t.timeState = s.timeState ∧
      t.time.live = s.time.live.filter (· ≠ src) := by
  have hbest : ((s.advance dt).srcGone src).bestSrc = b := congrArg (Option.getD · 0) hsome
  refine ⟨_, exec_sourceLost_gone dt s src hlive hsilent hs hp (.inl (hbest ▸ hb)), ?_⟩
  dsimp only
  rw [hbest, if_neg hb, State.setSrc_time]
  exact ⟨State.setSrc_shows _ _ hlt, State.setSrc_get _ _ (by decide) (by decide) (by decide), rfl⟩

end

/-! ### A source returns (R101, R106) -/

section
variable (src : Nat) (o : Int)

/-- Holdover ends: the device recovers on its best source. -/
def State.recovers : State :=
  (((s.set R.TIME_STAT_STATE 3).putTime { s.time with below := 0 }).set R.TIME_STAT_SRC s.bestSrc).timeEvent
    { code := 0x0504, items := [(1, s.bestSrc), sItem 4 o], key := 1 }

theorem State.recovers_state : (s.recovers o).timeState = 3 := by
  unfold State.recovers State.timeState
  simp (disch := decide) only [State.timeEvent_get, State.get_set_ne, State.putTime_get, State.get_set_same]
  rfl

theorem State.recovers_time : (s.recovers o).time = { s.time with below := 0 } := State.timeEvent_time _ _

theorem exec_sourceReturn_recovers (hsrc : src ∈ s.man.srcList) (hs : s.stepped = true) (hstate : s.timeState = 2)
    (hp : s.isPaired = false) :
    exec (.sourceReturn dt src o) s = .next (((s.advance dt).srcSeen src o).recovers o) := by
  show execSourceReturn dt src o s = _
  unfold execSourceReturn
  dsimp only
  rw [if_neg (not_not.2 (show src ∈ (s.advance dt).man.srcList from hsrc)),
    if_neg (by simp [show (s.advance dt).stepped = true from hs]),
    if_neg (by simp [show ((s.advance dt).srcSeen src o).isPaired = false from hp]),
    if_pos (show ((s.advance dt).srcSeen src o).timeState = 2 from hstate)]
  rfl

theorem sourceReturn_recovers (hsrc : src ∈ s.man.srcList) (hs : s.stepped = true) (hstate : s.timeState = 2)
    (hp : s.isPaired = false) :
    ∃ t, exec (.sourceReturn dt src o) s = .next t ∧ t.timeState = 3 ∧ t.time.below = 0 ∧ src ∈ t.time.live ∧
      t.srcOfs src = o ∧ t.time.count = (s.advance dt).time.count := by
  refine ⟨_, exec_sourceReturn_recovers dt s src o hsrc hs hstate hp, State.recovers_state _ o, ?_⟩
  unfold State.srcOfs
  rw [State.recovers_time]
  exact ⟨rfl, State.srcSeen_live _ src o, State.srcSeen_srcOfs _ src o, rfl⟩

theorem sourceReturn_fixes (hsrc : src ∈ s.man.srcList) (hs : s.stepped = false) (h6 : src ≠ 6) (hfix : s.time.fixAt = none) :
    ∃ t, exec (.sourceReturn dt src o) s = .next t ∧ t.time.fixAt = some (s.now + dt) ∧ t.time.fixSrc = src ∧
      t.time.fixOfs = o ∧ t.timeState = s.timeState ∧ Framed [] { s.advance dt with time := t.time } t := by
  have hexec : exec (.sourceReturn dt src o) s = .next ((s.advance dt).validFix src o) := by
    show execSourceReturn dt src o s = _
    unfold execSourceReturn
    dsimp only
    rw [if_neg (not_not.2 (show src ∈ (s.advance dt).man.srcList from hsrc)),
      if_pos (by simp [show (s.advance dt).stepped = false from hs]), if_neg h6]
  rw [State.validFix_first (s.advance dt) src o hs hsrc hfix] at hexec
  exact ⟨_, hexec, rfl, rfl, rfl, rfl, .refl _ _⟩

/-- PPS_IN gives no step. -/
theorem exec_sourceReturn_ppsIn (hs : s.stepped = false) : exec (.sourceReturn dt 6 o) s = .next (s.advance dt) := by
  show execSourceReturn dt 6 o s = _
  unfold execSourceReturn
  dsimp only
  split
  · rfl
  · exact (if_pos (by simp [show (s.advance dt).stepped = false from hs])).trans (if_pos rfl)

end

/-! ### Recovery ends (R106) -/

/-- The device is LOCKED again: the registers, and the alarm where it stood. -/
def State.locked : State :=
  let u := ((s.set R.TIME_STAT_STATE 1).set R.TIME_STAT_UNC_OVER 0).evt R.TIME_EVT_LOCK
  if u.time.uncAlarm then
    (u.putTime { u.time with uncAlarm := false }).clearAlarm 0x0505 0xFFFF [(4, u.get R.TIME_UNC_NS)] 0
  else u

/-- The fields that locking writes. -/
abbrev lockFlds : List Fld := [R.TIME_STAT_STATE, R.TIME_STAT_UNC_OVER, R.TIME_EVT_LOCK]

theorem State.locked_get {f : Fld} (hn : noteFld f = false) :
    s.locked.get f = (((s.set R.TIME_STAT_STATE 1).set R.TIME_STAT_UNC_OVER 0).evt R.TIME_EVT_LOCK).get f := by
  unfold State.locked
  dsimp only
  split
  · exact State.clearAlarm_get _ _ _ _ _ _ hn
  · rfl

theorem State.locked_shows :
    s.locked.timeState = 1 ∧ s.locked.get R.TIME_STAT_UNC_OVER = 0 ∧ s.locked.get R.TIME_EVT_LOCK = 1 := by
  unfold State.timeState
  rw [State.locked_get _ (by decide), State.locked_get _ (by decide), State.locked_get _ (by decide)]
  simp (disch := decide) only [State.evt_get_ne, State.evt_get_same, State.get_set_ne, State.get_set_same]
  exact ⟨rfl, rfl, rfl⟩

theorem State.locked_framed : Framed (regKeys 0 lockFlds) (s.putTime { s.time with uncAlarm := false }) s.locked := by
  have hbase : Framed (regKeys 0 lockFlds) s (((s.set R.TIME_STAT_STATE 1).set R.TIME_STAT_UNC_OVER 0).evt R.TIME_EVT_LOCK) :=
    State.evt_framed _ _ _ (.inl (List.mem_map_of_mem (by decide)))
      (set_framed _ _ _ _ (.inl (List.mem_map_of_mem (by decide)))
        (set_framed _ _ _ _ (.inl (List.mem_map_of_mem (by decide))) (.refl _ s)))
  unfold State.locked
  dsimp only
  rw [hbase.time_eq]
  split
  · exact State.clearAlarm_framed _ _ _ _ _ (hbase.withTime _)
  · next h =>
    have hsame : s.putTime { s.time with uncAlarm := false } = s := by
      unfold State.putTime
      rw [← Bool.not_eq_true _ |>.mp h]
    rw [hsame]
    exact hbase

theorem recoveryLock_locks (hstate : s.timeState = 3) (hbelow : 11 ≤ s.time.below) :
    ∃ t, exec (.recoveryLock dt) s = .next t ∧ t.timeState = 1 ∧ t.get R.TIME_STAT_UNC_OVER = 0 ∧ t.get R.TIME_EVT_LOCK = 1 ∧
      t.time.uncAlarm = false ∧
      Framed (regKeys 0 [R.TIME_STAT_STATE, R.TIME_STAT_UNC_OVER, R.TIME_EVT_LOCK]) { s.advance dt with time := t.time } t := by
  have hexec : exec (.recoveryLock dt) s = .next ((s.advance dt).locked.timeEvent { code := 0x0504, items :=
      [(1, s.get R.TIME_STAT_SRC), sItem 4 ((s.advance dt).locked.srcOfs (s.get R.TIME_STAT_SRC))], key := 1 }) := by
    show execRecoveryLock dt s = _
    unfold execRecoveryLock
    dsimp only
    refine (if_neg ?_).trans rfl
    simp [show (s.advance dt).timeState = 3 from hstate, show ¬(s.advance dt).time.below < 11 from Nat.not_lt.2 hbelow]
  obtain ⟨hlocked, hunc, hevent⟩ := (s.advance dt).locked_shows
  have hframe := fun e => State.timeEvent_framed _ e (s.advance dt).locked_framed
  refine ⟨_, hexec, ?_, ?_, ?_, congrArg TimeSt.uncAlarm (hframe _).time_eq, (hframe _).ownTime⟩
  · exact (State.timeEvent_get _ _ _ (by decide)).trans hlocked
  · exact (State.timeEvent_get _ _ _ (by decide)).trans hunc
  · exact (State.timeEvent_get _ _ _ (by decide)).trans hevent

theorem exec_recoveryLock_waits (h : s.timeState ≠ 3 ∨ s.time.below < 11) : exec (.recoveryLock dt) s = .next (s.advance dt) := by
  show execRecoveryLock dt s = _
  unfold execRecoveryLock
  dsimp only
  refine if_pos ?_
  rcases h with h | h
  · simp [show (s.advance dt).timeState ≠ 3 from h]
  · simp [show (s.advance dt).time.below < 11 from h]

/-! ### The limit of the uncertainty (R105) -/

/-- The uncertainty and the time in holdover show, above the limit. -/
def State.uncMarked (u : Rat) : State :=
  (((s.putTime { s.time with unc := u, uncAlarm := true }).setU R.TIME_UNC_NS u).setSat R.TIME_HOLD_S
    ((s.now - s.time.holdAt) / 1000000000)).set R.TIME_STAT_UNC_OVER 1

/-- They show, and the event with them. -/
def State.uncShown (u : Rat) : State := (s.uncMarked u).evt R.TIME_EVT_UNC_OVER

/-- The fields that show it. -/
abbrev uncFlds : List Fld := [R.TIME_UNC_NS, R.TIME_HOLD_S, R.TIME_STAT_UNC_OVER, R.TIME_EVT_UNC_OVER]

theorem State.uncShown_framed (u : Rat) :
    Framed (regKeys 0 uncFlds) (s.putTime { s.time with unc := u, uncAlarm := true }) (s.uncShown u) :=
  State.evt_framed _ _ _ (.inl (List.mem_map_of_mem (by decide)))
    (set_framed _ _ _ _ (.inl (List.mem_map_of_mem (by decide)))
      (set_framed _ _ _ _ (.inl (List.mem_map_of_mem (by decide)))
        (set_framed _ _ _ _ (.inl (List.mem_map_of_mem (by decide))) (.refl _ _))))

theorem State.uncShown_shows (u : Rat) : (s.uncShown u).get R.TIME_STAT_UNC_OVER = 1 ∧
    (s.uncShown u).get R.TIME_EVT_UNC_OVER = 1 ∧ (s.uncShown u).timeState = s.timeState := by
  unfold State.uncShown State.uncMarked State.timeState
  simp (disch := decide) only [State.evt_get_ne, State.evt_get_same, State.get_set_ne, State.get_set_same,
    State.setSat_get_ne, State.setU_get_ne, State.putTime_get]
  exact ⟨rfl, rfl, trivial⟩

theorem uncLimitExceeded_shows (hstate : s.timeState = 2) (halarm : s.time.uncAlarm = false)
    (hunc : ((s.man.uncLimit : Nat) : Rat) <
      holdUnc s.time.u0 s.man.oscStab s.man.oscAging (((s.now + dt - s.time.holdAt : Nat) : Rat) / 1000000000)) :
    ∃ t, exec (.uncLimitExceeded dt) s = .next t ∧ t.get R.TIME_STAT_UNC_OVER = 1 ∧ t.time.uncAlarm = true ∧
      t.get R.TIME_EVT_UNC_OVER = 1 ∧ t.timeState = 2 ∧
      Framed (regKeys 0 [R.TIME_UNC_NS, R.TIME_HOLD_S, R.TIME_STAT_UNC_OVER, R.TIME_EVT_UNC_OVER])
        { s.advance dt with time := t.time } t := by
  generalize hu : holdUnc s.time.u0 s.man.oscStab s.man.oscAging
    (((s.now + dt - s.time.holdAt : Nat) : Rat) / 1000000000) = u at hunc
  have hexec : exec (.uncLimitExceeded dt) s = .next (((s.advance dt).uncShown u).alarm 0x0505 0xFFFF
      [(4, ((s.advance dt).uncMarked u).get R.TIME_UNC_NS)] 0) := by
    subst hu
    show execUncLimitExceeded dt s = _
    unfold execUncLimitExceeded
    dsimp only
    refine (if_neg ?_).trans rfl
    rw [show (s.advance dt).timeState = 2 from hstate, show (s.advance dt).time.uncAlarm = false from halarm, Bool.or_false]
    exact fun h => absurd hunc (not_lt.2 (of_decide_eq_true h))
  obtain ⟨hover, hevent, hsame⟩ := (s.advance dt).uncShown_shows u
  have hframe := fun items => State.alarm_framed _ 0x0505 0xFFFF items 0 ((s.advance dt).uncShown_framed u)
  refine ⟨_, hexec, ?_, congrArg TimeSt.uncAlarm (hframe _).time_eq, ?_, ?_, (hframe _).ownTime⟩
  · exact (State.alarm_get _ _ _ _ _ _ (by decide)).trans hover
  · exact (State.alarm_get _ _ _ _ _ _ (by decide)).trans hevent
  · exact (State.alarm_get _ _ _ _ _ _ (by decide)).trans (hsame.trans hstate)

theorem exec_uncLimitExceeded_waits (h : s.timeState ≠ 2 ∨ s.time.uncAlarm = true) :
    exec (.uncLimitExceeded dt) s = .next (s.advance dt) := by
  show execUncLimitExceeded dt s = _
  unfold execUncLimitExceeded
  dsimp only
  refine if_pos ?_
  rcases h with h | h
  · simp [show (s.advance dt).timeState ≠ 2 from h]
  · simp [show (s.advance dt).time.uncAlarm = true from h]

end

/-- Settles O20: each clause is the lemma of its command above. -/
theorem timeSources : Obligations.TimeSources := by
  unfold Obligations.TimeSources
  exact ⟨fun dt fe ofs utc s hs hbest hlt hstate hp => servoUpdate_steers dt s fe ofs utc hs hstate hp hbest hlt,
    fun dt fe ofs utc s => exec_servoUpdate_waits dt s fe ofs utc,
    fun dt fe ofs utc s hs hbest hstate hp => servoUpdate_holds dt s fe ofs utc hs hstate hp hbest,
    fun dt src s hlive hsilent hs hp => sourceLost_holds dt s src hlive hsilent hs hp,
    fun dt src b s hlive hsilent hs hp => sourceLost_changes dt s src hlive hsilent hs hp b,
    fun dt src s => exec_sourceLost_unknown dt s src, fun dt src o s => sourceReturn_recovers dt s src o,
    fun dt src o s => sourceReturn_fixes dt s src o, fun dt o s => exec_sourceReturn_ppsIn dt s o, recoveryLock_locks,
    exec_recoveryLock_waits, uncLimitExceeded_shows, exec_uncLimitExceeded_waits⟩

end Sys2Proof.Machine
end

section
/-!
PROOF of the statement of 04_timebase.md about PTP (PtpMessages): the state of a port and its own data, the frames that a port
queues, and then the messages taken and sent.
-/

namespace Sys2Proof.Machine

open Sys2Proof

/-! ### The state of a port (R113) -/

/-- What holds of the state field of ports 0 to 3 holds of every port's: the register has four. -/
theorem forall_ptpStateFld {P : Fld → Prop} (h : ∀ k < 4, P (ptpStateFld k)) (p : Nat) : P (ptpStateFld p) := by
  have hport : ptpStateFld p = ptpStateFld (p % 4) := by simp [ptpStateFld]
  rw [hport]
  exact h _ (Nat.mod_lt _ (by decide))

theorem noteFld_ptpStateFld (p : Nat) : noteFld (ptpStateFld p) = false :=
  forall_ptpStateFld (P := fun f => noteFld f = false) (by decide) p

section
variable (s : State) (p : Nat)

/-- A port other than this one is SLAVE. -/
def State.otherSlave : Bool := [0, 1, 2, 3].any fun q => q ≠ p && s.get (ptpStateFld q) = 3

theorem State.otherSlave_eq_false (h : ([0, 1, 2, 3].all fun q => q = p || s.get (ptpStateFld q) ≠ 3) = true) :
    s.otherSlave p = false := by
  refine List.any_eq_false.2 fun q hq => ?_
  have hport := List.all_eq_true.1 h q hq
  simp only [ne_eq, decide_not, Bool.or_eq_true, decide_eq_true_eq, Bool.not_eq_true', decide_eq_false_iff_not] at hport
  simpa [not_and] using fun hne => hport.resolve_left hne

variable (st gm : Nat)

theorem State.ptpSetState_framed : Framed [loc (ptpStateFld p) 0] s (s.ptpSetState p st gm) := by
  unfold State.ptpSetState
  dsimp only
  exact ite_framed (.refl _ s)
    (State.record_framed _ _ (set_framed _ _ _ _ (.inl (List.mem_singleton.2 rfl)) (.refl _ s)))

/-- A port becomes SLAVE where no other one is, and takes any other state as it is. -/
theorem State.ptpSetState_of (hst : st = 3 → s.otherSlave p = false) : s.ptpSetState p st gm =
    if s.get (ptpStateFld p) = st then s
    else (s.set (ptpStateFld p) st).record
      { code := 0x0509, source := p, items := [(1, p), (1, s.get (ptpStateFld p)), (1, st), (8, gm)] } := by
  have hkept : (if st = 3 && s.otherSlave p then 5 else st) = st := if_neg (by simpa using hst)
  unfold State.otherSlave at hkept
  unfold State.ptpSetState
  dsimp only
  rw [hkept]

theorem State.ptpSetState_same (hst : st = 3 → s.otherSlave p = false) (h : s.get (ptpStateFld p) = st) :
    s.ptpSetState p st gm = s := by
  rw [State.ptpSetState_of s p st gm hst, if_pos h]

theorem State.ptpSetState_shows (hst : st ≠ 3) (hlt : st < 8) : (s.ptpSetState p st gm).get (ptpStateFld p) = st := by
  rw [State.ptpSetState_of s p st gm fun h => absurd h hst]
  split
  · assumption
  · rw [State.record_get _ _ _ (noteFld_ptpStateFld p), State.get_set_same]
    exact Nat.mod_eq_of_lt hlt

variable (x : PtpPort)

@[simp] theorem State.putPtp_ptp : (s.putPtp p x).ptp p = x := by
  simp [State.putPtp, State.ptp, tget]

end

/-! ### Messages taken (R100, R113) -/

section
variable (dt p : Nat) (r : PtpReading) (s : State)

/-- The state of the port as a message brings it. -/
def State.ptpHeard : State := s.ptpSetState p r.state r.gmId

theorem State.ptpHeard_ptp : (s.ptpHeard p r).ptp p = s.ptp p := by
  unfold State.ptp
  rw [(s.ptpSetState_framed p r.state r.gmId).time_eq.symm]
  rfl

theorem State.ptpHeard_now : (s.ptpHeard p r).now = s.now := State.of_plain_now (s.ptpSetState_framed p r.state r.gmId).plain

/-- A port takes no message without a role. -/
theorem exec_ptpMessages_noRole (c : Instr) (hc : c ∈ [Instr.ptpEventMessage dt p r, .ptpGeneralMessage dt p r])
    (h : s.get (ptpRoleFld p) = 0) : exec c s = .next (s.advance dt) := by
  simp only [List.mem_cons, List.not_mem_nil, or_false] at hc
  rcases hc with rfl | rfl
  · exact if_pos h
  · exact if_pos h

variable (hrole : s.get (ptpRoleFld p) ≠ 0)
include hrole

theorem exec_ptpEventMessage_plain (ho : r.offset = none) : exec (.ptpEventMessage dt p r) s =
    .next (((s.advance dt).ptpHeard p r).putPtp p
      { s.ptp p with syncAt := s.now + dt, gmClass := r.gmClass, gmId := r.gmId }) := by
  have hport := (s.advance dt).ptpHeard_ptp p r
  have hnow := (s.advance dt).ptpHeard_now p r
  unfold State.ptpHeard at hport hnow ⊢
  show execPtpEventMessage dt p r s = _
  unfold execPtpEventMessage
  dsimp only
  rw [ho, hport, hnow]
  exact if_neg hrole

theorem ptpEventMessage_plain (ho : r.offset = none) (hlt : r.state < 8) (hst : r.state ≠ 3) :
    ∃ t, exec (.ptpEventMessage dt p r) s = .next t ∧ t.get (ptpStateFld p) = r.state ∧ (t.ptp p).syncAt = s.now + dt ∧
      (t.ptp p).gmClass = r.gmClass ∧ (t.ptp p).gmId = r.gmId ∧
      Framed [loc (ptpStateFld p) 0] { s.advance dt with time := t.time } t := by
  refine ⟨_, exec_ptpEventMessage_plain dt p r s hrole ho, State.ptpSetState_shows _ p _ r.gmId hst hlt, ?_⟩
  rw [State.putPtp_ptp]
  exact ⟨rfl, rfl, rfl, ((s.advance dt).ptpSetState_framed p r.state r.gmId).withTime _⟩

/-- An offset that completes no eight, on a port that is not live, is kept. -/
theorem exec_ptpEventMessage_offset (o : Int) (ho : r.offset = some o) (hr : r.state = 3) (hst : s.get (ptpStateFld p) = 3)
    (hone : s.otherSlave p = false) (hlen : (s.ptp p).offsets.length < 7) (hlive : 2 + p ∉ s.time.live) :
    exec (.ptpEventMessage dt p r) s = .next ((s.advance dt).putPtp p { s.ptp p with
      offsets := (o :: (s.ptp p).offsets).take 8, syncAt := s.now + dt, gmClass := r.gmClass, gmId := r.gmId }) := by
  have hsame : (s.advance dt).ptpSetState p r.state r.gmId = s.advance dt :=
    State.ptpSetState_same _ p _ _ (fun _ => hone) (hst.trans hr.symm)
  show execPtpEventMessage dt p r s = _
  unfold execPtpEventMessage
  dsimp only
  rw [hsame, ho]
  refine (if_neg hrole).trans <| (if_neg (not_not.2 hst)).trans ((if_neg ?_).trans (if_neg hlive))
  simp [show ¬7 ≤ ((s.advance dt).ptp p).offsets.length from Nat.not_le.2 hlen]

theorem ptpEventMessage_offset (o : Int) (ho : r.offset = some o) (hr : r.state = 3) (hst : s.get (ptpStateFld p) = 3)
    (hone : ([0, 1, 2, 3].all fun q => q = p || s.get (ptpStateFld q) ≠ 3) = true) (hlen : (s.ptp p).offsets.length < 7)
    (hlive : 2 + p ∉ s.time.live) :
    ∃ t, exec (.ptpEventMessage dt p r) s = .next t ∧ (t.ptp p).offsets = o :: (s.ptp p).offsets ∧
      t.time.fixAt = s.time.fixAt ∧ t.time.live = s.time.live := by
  refine ⟨_, exec_ptpEventMessage_offset dt p r s hrole o ho hr hst (s.otherSlave_eq_false p hone) hlen hlive, ?_, rfl, rfl⟩
  rw [State.putPtp_ptp]
  exact List.take_of_length_le (by rw [List.length_cons]; omega)

/-- An Announce of the selected source, on a port whose state stays, tells the UTC offset and the leap. -/
theorem exec_ptpGeneralMessage_utc (u : Int) (hu : r.utcOfs = some u) (hr : r.state = s.get (ptpStateFld p)) (hst : r.state ≠ 3)
    (hsrc : s.get R.TIME_STAT_SRC = 2 + p) : exec (.ptpGeneralMessage dt p r) s = .next
      (((s.advance dt).putPtp p { s.ptp p with announceAt := s.now + dt, gmClass := r.gmClass, gmId := r.gmId }).utcHeard
        (some (u, r.leap))) := by
  have hsame : (s.advance dt).ptpSetState p r.state r.gmId = s.advance dt :=
    State.ptpSetState_same _ p _ _ (fun h => absurd h hst) hr.symm
  show execPtpGeneralMessage dt p r s = _
  unfold execPtpGeneralMessage
  dsimp only
  rw [hsame, hu]
  exact (if_neg hrole).trans (if_pos hsrc)

theorem ptpGeneralMessage_utc (u : Int) (hu : r.utcOfs = some u) (hr : r.state = s.get (ptpStateFld p)) (hst : r.state ≠ 3)
    (hsrc : s.get R.TIME_STAT_SRC = 2 + p) (hleap : r.leap < 4) :
    ∃ t, exec (.ptpGeneralMessage dt p r) s = .next t ∧ t.time.utcAnnounced = some u ∧ t.get R.TIME_UTC_LEAP = r.leap ∧
      (t.ptp p).announceAt = s.now + dt ∧ Framed [loc R.TIME_UTC_LEAP 0] { s.advance dt with time := t.time } t := by
  refine ⟨_, exec_ptpGeneralMessage_utc dt p r s hrole u hu hr hst hsrc, rfl, ?_, ?_, ?_⟩
  · exact (State.get_set_same _ _ _ _).trans (Nat.mod_eq_of_lt hleap)
  · exact congrArg PtpPort.announceAt (State.putPtp_ptp (s.advance dt) p _)
  · exact (set_framed (s.advance dt) _ _ _ (.inl (List.mem_singleton.2 rfl)) (.refl _ _)).withTime _

end

/-! ### Frames that a port queues (R429, R433) -/

section
variable (s : State) (p : Nat)

theorem State.ethPut_ethFramed (f : EthOut) : EthFramed p s (s.ethPut p f) := by
  unfold State.ethPut
  exact ite_ethFramed ((s.putEth_ethFramed p p _).trans (State.ethNext_ethFramed _ p)) (.refl s)

theorem State.ptpSend_ethFramed (len : Nat) : EthFramed p s (s.ptpSend p len) := by
  unfold State.ptpSend
  split
  · exact s.ethPut_ethFramed p _
  · exact .refl s

@[simp] theorem State.putEth_ethSt (e : EthSt) : (s.putEth p e).ethSt p = e := by
  simp [State.putEth, State.ethSt, tget]

@[simp] theorem State.putEth_get (e : EthSt) (f : Fld) (b : Nat) : (s.putEth p e).get f b = s.get f b := rfl

/-- A message as it enters queue 7. -/
def ptpFrame (c : EthCfg) (len : Nat) : EthOut :=
  { queue := 7, len := max 64 (18 + (if c.vlan = 0 then 0 else 4) + len), kind := 0, seq := 0, body := [] }

/-- On a port that transmits and has no link the message waits. -/
theorem State.ptpSend_waits (len : Nat) (c : EthCfg) (hc : s.ethCfg p = some c) (htx : s.get R.ETH_STAT_TX_ON p = 1)
    (hlink : s.get R.ETH_STAT_LINK p ≠ 1) :
    s.ptpSend p len = s.putEth p { s.ethSt p with queues := (s.ethSt p).queues ++ [ptpFrame c len] } := by
  unfold State.ptpSend
  rw [hc]
  refine (if_pos ?_).trans (if_pos ?_)
  · simp [State.flag, htx]
  · simp [State.flag, State.putEth_get, hlink]

/-- A frame over the sends of a command is a frame over the data that the command leaves. -/
theorem EthFramed.ownTime {s t : State} {x : TimeSt} (h : EthFramed p (s.putTime x) t) :
    t.time = x ∧ Framed [loc R.ETH_TX_CNT_GUARD_HOLDS p] { s with time := t.time, eth := t.eth } t := by
  have htime : t.time = x := Framed.time_eq h
  refine ⟨htime, ?_⟩
  rw [htime]
  exact h

end

/-! ### Messages sent (R113, R114, R433) -/

section
variable (dt p iv : Nat) (s : State)

theorem exec_ptpTransmit_notMaster (c : Instr) (hc : c ∈ [Instr.ptpSyncTransmit dt p iv, .ptpAnnounceTransmit dt p iv])
    (h : s.ptpMaster p = false) : exec c s = .next (s.advance dt) := by
  have hmaster : (s.advance dt).ptpMaster p = false := h
  simp only [List.mem_cons, List.not_mem_nil, or_false] at hc
  rcases hc with rfl | rfl
  · exact if_neg (by simp [hmaster])
  · exact if_neg (by simp [hmaster])

/-- The port notes when it sent its Sync. -/
def State.syncNoted : State := (s.advance dt).putPtp p { s.ptp p with sentSync := s.now + dt }

/-- The length of a Follow_Up's data, by the profile of the port. -/
def State.followUpLen : Nat := if p ∈ s.man.ptpP2p then 76 else 44

theorem exec_ptpSyncTransmit_sends (hm : s.ptpMaster p = true) (ht : (s.ptp p).sentSync + iv ≤ s.now + dt) :
    exec (.ptpSyncTransmit dt p iv) s = .next (((s.syncNoted dt p).ptpSend p 44).ptpSend p (s.followUpLen p)) := by
  have hlen : (if s.ptpP2p p then 76 else 44) = s.followUpLen p := by simp [State.ptpP2p, State.followUpLen]
  rw [← hlen]
  exact if_pos (by simp [show (s.advance dt).ptpMaster p = true from hm,
    show ((s.advance dt).ptp p).sentSync + iv ≤ s.now + dt from ht])

theorem ptpSyncTransmit_sends (hm : s.ptpMaster p = true) (ht : (s.ptp p).sentSync + iv ≤ s.now + dt) :
    ∃ t, exec (.ptpSyncTransmit dt p iv) s = .next t ∧
      t.time = ((s.advance dt).putPtp p { s.ptp p with sentSync := s.now + dt }).time ∧
      Framed [loc R.ETH_TX_CNT_GUARD_HOLDS p] { s.advance dt with time := t.time, eth := t.eth } t :=
  ⟨_, exec_ptpSyncTransmit_sends dt p iv s hm ht, EthFramed.ownTime p (s := s.advance dt)
    (((s.syncNoted dt p).ptpSend_ethFramed p 44).trans (State.ptpSend_ethFramed _ p _))⟩

theorem ptpSyncTransmit_queues (c : EthCfg) (hm : s.ptpMaster p = true) (ht : (s.ptp p).sentSync + iv ≤ s.now + dt)
    (hc : s.ethCfg p = some c) (htx : s.get R.ETH_STAT_TX_ON p = 1) (hlink : s.get R.ETH_STAT_LINK p ≠ 1) :
    ∃ t, exec (.ptpSyncTransmit dt p iv) s = .next t ∧
      (t.ethSt p).queues.map (fun f => (f.queue, f.len)) = (s.ethSt p).queues.map (fun f => (f.queue, f.len)) ++
        [(7, if c.vlan = 0 then 64 else 66),
         (7, max 64 (18 + (if c.vlan = 0 then 0 else 4) + (if p ∈ s.man.ptpP2p then 76 else 44)))] := by
  have hsync : max 64 (18 + (if c.vlan = 0 then 0 else 4) + 44) = if c.vlan = 0 then 64 else 66 := by split <;> rfl
  have hqueued : (s.syncNoted dt p).ethSt p = s.ethSt p := rfl
  refine ⟨_, exec_ptpSyncTransmit_sends dt p iv s hm ht, ?_⟩
  rw [State.ptpSend_waits (s.syncNoted dt p) p 44 c hc htx hlink,
    State.ptpSend_waits ((s.syncNoted dt p).putEth p _) p _ c hc htx hlink,
    State.putEth_ethSt, State.putEth_ethSt, hqueued]
  simp only [List.map_append, List.append_assoc, List.map_cons, List.map_nil, List.cons_append, List.nil_append, ptpFrame,
    hsync, State.followUpLen]

theorem ptpAnnounceTransmit_sends (hm : s.ptpMaster p = true) (ht : (s.ptp p).sentAnnounce + iv ≤ s.now + dt)
    (hnone : ([0, 1, 2, 3].all fun q => s.get (ptpStateFld q) ≠ 3) = true) :
    ∃ t, exec (.ptpAnnounceTransmit dt p iv) s = .next t ∧
      t.time = ((s.advance dt).putPtp p { s.ptp p with
        sentAnnounce := s.now + dt, lastClass := s.clockQuality.1, lastSource := s.clockQuality.2
        lastAccuracy := accuracyClass (s.get R.TIME_UNC_NS) }).time ∧
      Framed [loc R.ETH_TX_CNT_GUARD_HOLDS p] { s.advance dt with time := t.time, eth := t.eth } t := by
  have hslave : ([0, 1, 2, 3].find? fun q => (s.advance dt).get (ptpStateFld q) = 3) = none := by
    exact List.find?_eq_none.2 fun q hq => mt of_decide_eq_true (of_decide_eq_true (List.all_eq_true.1 hnone q hq))
  have hexec : exec (.ptpAnnounceTransmit dt p iv) s = .next (((s.advance dt).putPtp p { s.ptp p with
      sentAnnounce := s.now + dt, lastClass := s.clockQuality.1, lastSource := s.clockQuality.2
      lastAccuracy := accuracyClass (s.get R.TIME_UNC_NS) }).ptpSend p 64) := by
    show execPtpAnnounceTransmit dt p iv s = _
    unfold execPtpAnnounceTransmit
    dsimp only
    rw [hslave]
    exact if_pos (by simp [show (s.advance dt).ptpMaster p = true from hm,
      show ((s.advance dt).ptp p).sentAnnounce + iv ≤ s.now + dt from ht])
  exact ⟨_, hexec, EthFramed.ownTime p (s := s.advance dt) (State.ptpSend_ethFramed _ p 64)⟩

/-- A port that may not ask for its delay sends no request. -/
theorem exec_ptpDelayReqTransmit_mayNot (h : s.ptpMayAsk p = false) :
    exec (.ptpDelayReqTransmit dt p iv) s = .next (s.advance dt) :=
  if_neg (by simp [show (s.advance dt).ptpMayAsk p = false from h])

theorem ptpDelayReqTransmit_sends (hrole : s.get (ptpRoleFld p) ≠ 0)
    (hmay : s.drives = true ∨ (p ∈ s.man.ptpP2p ∧ s.get R.DEV_STAT_DRIVES_NOTHING = 0))
    (ht : (s.ptp p).sentReq + iv ≤ s.now + dt) :
    ∃ t, exec (.ptpDelayReqTransmit dt p iv) s = .next t ∧
      t.time = ((s.advance dt).putPtp p { s.ptp p with sentReq := s.now + dt }).time ∧
      Framed [loc R.ETH_TX_CNT_GUARD_HOLDS p] { s.advance dt with time := t.time, eth := t.eth } t := by
  have hask : (s.advance dt).ptpMayAsk p = true := by
    show s.ptpMayAsk p = true
    rcases hmay with hd | ⟨hp2p, hd⟩
    · simp [State.ptpMayAsk, hrole, hd]
    · simp [State.ptpMayAsk, State.ptpP2p, State.flag, hrole, hp2p, hd]
  have hexec : exec (.ptpDelayReqTransmit dt p iv) s =
      .next (((s.advance dt).putPtp p { s.ptp p with sentReq := s.now + dt }).ptpSend p (if s.ptpP2p p then 54 else 44)) :=
    if_pos (by simp [hask, show ((s.advance dt).ptp p).sentReq + iv ≤ s.now + dt from ht])
  exact ⟨_, hexec, EthFramed.ownTime p (s := s.advance dt) (State.ptpSend_ethFramed _ p _)⟩

end

/-- Settles O22: each clause is the lemma of its command above. -/
theorem ptpMessages : Obligations.PtpMessages := by
  unfold Obligations.PtpMessages
  exact ⟨fun dt p r s _ hrole => ptpEventMessage_plain dt p r s hrole,
    fun dt p r o s _ hrole => ptpEventMessage_offset dt p r s hrole o,
    fun dt p r u s _ hrole => ptpGeneralMessage_utc dt p r s hrole u,
    fun dt p r s c => exec_ptpMessages_noRole dt p r c s,
    ptpSyncTransmit_sends, fun dt p iv c s => ptpSyncTransmit_queues dt p iv s c, ptpAnnounceTransmit_sends,
    fun dt p iv s c => exec_ptpTransmit_notMaster dt p iv c s, ptpDelayReqTransmit_sends,
    fun dt p iv s hd hp => exec_ptpDelayReqTransmit_mayNot dt p iv s (by simp [State.ptpMayAsk, State.ptpP2p, hd, hp]),
    fun dt p iv s h => exec_ptpDelayReqTransmit_mayNot dt p iv s (by simp [State.ptpMayAsk, h])⟩

end Sys2Proof.Machine
end

section
/-!
PROOF of the statement of 04_timebase.md about the receiver's messages (GnssSolutions): the receiver's own data, the points of a
message as inputs, and then epochs, position messages and time pulses.
-/

namespace Sys2Proof.Machine

open Sys2Proof

/-! ### The data of the receiver -/

/-- The data of the receiver takes a value. -/
def State.putGnss (s : State) (x : GnssSt) : State := { s with gnss := x }

@[simp] theorem State.putGnss_get (s : State) (x : GnssSt) (f : Fld) (b : Nat) : (s.putGnss x).get f b = s.get f b := rfl

section
variable {ks : List Nat} {s t : State} (x : GnssSt)

theorem Framed.withGnss (h : Framed ks s t) : Framed ks (s.putGnss x) (t.putGnss x) :=
  ⟨congrArg (fun u : State => { u with gnss := x }) h.plain, h.regs⟩

theorem Framed.gnss_eq (h : Framed ks s t) : t.gnss = s.gnss := State.of_plain_gnss h.plain

variable {x}

/-- A frame over given data of the receiver is a frame over the data the command leaves. -/
theorem Framed.ownGnss (h : Framed ks (s.putGnss x) t) : Framed ks { s with gnss := t.gnss } t := by
  rw [h.gnss_eq]
  exact h

end

/-! ### Points that become inputs (R127, R358) -/

/-- `t` is `s` but for the inputs that wait for the end of the tick, and what is told of it. -/
def InboxFramed (s t : State) : Prop := Framed [] { s with inbox := t.inbox } t

theorem InboxFramed.refl (s : State) : InboxFramed s s := Framed.refl _ s

theorem InboxFramed.trans {a b c : State} (h : InboxFramed a b) (g : InboxFramed b c) : InboxFramed a c :=
  ⟨g.plain.trans (congrArg (fun u : State => { u with inbox := c.inbox }) h.plain), fun k hk hn =>
    (g.regs k hk hn).trans (h.regs k hk hn)⟩

theorem InboxFramed.of_framed {a b : State} (h : Framed [] a b) : InboxFramed a b := by
  have hinbox : b.inbox = a.inbox := State.of_plain_inbox h.plain
  refine ⟨?_, h.regs⟩
  rw [hinbox]
  exact h.plain

theorem State.inbound_inboxFramed (s : State) (v : TrunkVal) : InboxFramed s (s.inbound v) := by
  unfold State.inbound
  split
  · exact .of_framed (State.sendDead_framed _ _ _ _ _ _ (.refl _ s))
  · split
    · split
      · exact .of_framed (State.sendDead_framed _ _ _ _ _ _ (.refl _ s))
      · exact Framed.refl _ _
    · exact .refl s

theorem State.inboundAll_inboxFramed (s : State) (vs : List TrunkVal) : InboxFramed s (s.inboundAll vs) := by
  induction vs generalizing s with
  | nil => exact .refl s
  | cons v vs ih => exact (s.inbound_inboxFramed v).trans (ih _)

section
variable (s : State) (base : Nat) (vals : List Nat) (pm : Pm) (q : Quality)

theorem State.messagePoints_inboxFramed : InboxFramed s (s.messagePoints base vals pm q) := by
  unfold State.messagePoints
  split
  · exact .refl s
  · exact s.inboundAll_inboxFramed _

@[simp] theorem State.messagePoints_get {f : Fld} (b : Nat) (hn : noteFld f = false) :
    (s.messagePoints base vals pm q).get f b = s.get f b :=
  Framed.get_eq (s.messagePoints_inboxFramed base vals pm q) b hn List.not_mem_nil

@[simp] theorem State.messagePoints_now : (s.messagePoints base vals pm q).now = s.now :=
  (State.of_plain_now (s.messagePoints_inboxFramed base vals pm q).plain :)
@[simp] theorem State.messagePoints_pts : (s.messagePoints base vals pm q).pts = s.pts :=
  (State.of_plain_pts (s.messagePoints_inboxFramed base vals pm q).plain :)
@[simp] theorem State.messagePoints_man : (s.messagePoints base vals pm q).man = s.man :=
  (State.of_plain_man (s.messagePoints_inboxFramed base vals pm q).plain :)
@[simp] theorem State.messagePoints_time : (s.messagePoints base vals pm q).time = s.time :=
  (State.of_plain_time (s.messagePoints_inboxFramed base vals pm q).plain :)
@[simp] theorem State.messagePoints_gnss : (s.messagePoints base vals pm q).gnss = s.gnss :=
  (State.of_plain_gnss (s.messagePoints_inboxFramed base vals pm q).plain :)

end

/-! ### Epochs (R125, R134) -/

section
variable (s : State) (x : GnssSol)

/-- The channels of both bands. -/
abbrev bandChannels : List Nat := (List.range 48) ++ (List.range 48).map (· + 64)

theorem State.markUsed_framed {ks : List Nat} {s₀ : State} (l : List GnssSat)
    (hks : ∀ b ∈ bandChannels, loc R.GNSS_CH_STAT_LOCK b ∈ ks) (h : Framed ks s₀ s) : Framed ks s₀ (s.markUsed l) :=
  foldl_framed _ (fun b hb _ hu => ite_framed (set_framed _ _ _ _ (.inl (hks b hb)) hu) hu) h

theorem State.markUsed_get (l : List GnssSat) {f : Fld} (h : fkey f ≠ fkey R.GNSS_CH_STAT_LOCK) :
    (s.markUsed l).get f = s.get f :=
  foldl_keeps (·.get f) _ (fun u b => by
    split
    · exact State.get_set_ne _ _ _ _ h
    · rfl) s

/-- The registers show the solution of an epoch. -/
def State.epochShown : State :=
  let u := (s.set R.GNSS_TRK_USED x.used.length).set R.GNSS_TRK_CONSTEL (constMask x.used)
  (((u.setB R.GNSS_STAT_IONO_FREE (x.used.all (·.ionoFree))).set R.GNSS_EPOCH_PM_PM32 u.pm32).setSat R.GNSS_EPH_AGE_USED_MIN
    x.ephMin).markUsed x.used

/-- The registers of a solution. -/
abbrev epochKeys : List Nat :=
  regKeys 0 [R.GNSS_TRK_USED, R.GNSS_TRK_CONSTEL, R.GNSS_STAT_IONO_FREE, R.GNSS_EPOCH_PM_PM32, R.GNSS_EPH_AGE_USED_MIN] ++
    bandChannels.map (loc R.GNSS_CH_STAT_LOCK)

theorem State.epochShown_framed : Framed epochKeys s (s.epochShown x) := by
  have hfld : ∀ f ∈ [R.GNSS_TRK_USED, R.GNSS_TRK_CONSTEL, R.GNSS_STAT_IONO_FREE, R.GNSS_EPOCH_PM_PM32, R.GNSS_EPH_AGE_USED_MIN],
      loc f 0 ∈ epochKeys := fun f hf => List.mem_append_left _ (List.mem_map_of_mem hf)
  exact State.markUsed_framed _ _ (fun b hb => List.mem_append_right _ (List.mem_map_of_mem hb))
    (set_framed _ _ _ _ (.inl (hfld _ (by decide))) (set_framed _ _ _ _ (.inl (hfld _ (by decide)))
      (set_framed _ _ _ _ (.inl (hfld _ (by decide))) (set_framed _ _ _ _ (.inl (hfld _ (by decide)))
        (set_framed _ _ _ _ (.inl (hfld _ (by decide))) (.refl _ s))))))

theorem State.epochShown_pm32 : (s.epochShown x).get R.GNSS_EPOCH_PM_PM32 = s.ns % 2 ^ 32 := by
  unfold State.epochShown
  dsimp only
  rw [State.markUsed_get _ _ (by decide), State.setSat_get_ne _ _ (by decide), State.get_set_same]
  exact Nat.mod_mod _ _

/-- The receiver's data with the solution that waits to be written. -/
def State.epochKept : State := s.putGnss { s.gnss with sol := some x, epochAt := s.now, epochPm := s.pm }

theorem State.epochKept_keeps : (s.epochKept x).gnss.sol = some x ∧ (s.epochKept x).gnss.epochAt = s.now ∧
    (s.epochKept x).gnss.epochPm = s.pm := ⟨rfl, rfl, rfl⟩

theorem State.epochKept_get (f : Fld) (b : Nat) : (s.epochKept x).get f b = s.get f b := rfl

theorem Framed.epochKept {ks : List Nat} {s₀ s : State} (x : GnssSol) (h : Framed ks s₀ s) :
    Framed ks { s₀ with gnss := (s.epochKept x).gnss } (s.epochKept x) := (h.withGnss _).ownGnss

theorem State.fixLost_framed :
    Framed (regKeys 0 [R.GNSS_STAT_STATE, R.GNSS_EVT_FIX_LOST]) (s.putGnss { s.gnss with solsRun := 0, sol := none })
      s.fixLost := by
  unfold State.fixLost
  exact ite_framed (State.record_framed _ _ (State.evt_framed _ _ _ (.inl (List.mem_map_of_mem (by decide)))
    (set_framed _ _ _ _ (.inl (List.mem_map_of_mem (by decide))) (.refl _ _)))) (.refl _ _)

theorem State.fixLost_of_fix (h : s.get R.GNSS_STAT_STATE = 3) :
    ∃ e, s.fixLost =
      (((s.putGnss { s.gnss with solsRun := 0, sol := none }).set R.GNSS_STAT_STATE 2).evt R.GNSS_EVT_FIX_LOST).record e :=
  ⟨_, if_pos h⟩

theorem State.fixLost_shows (h : s.get R.GNSS_STAT_STATE = 3) :
    s.fixLost.get R.GNSS_STAT_STATE = 2 ∧ s.fixLost.get R.GNSS_EVT_FIX_LOST = 1 := by
  obtain ⟨e, he⟩ := s.fixLost_of_fix h
  rw [he]
  simp (disch := decide) only [State.record_get, State.evt_get_ne, State.evt_get_same, State.get_set_same]
  exact ⟨rfl, rfl⟩

/-- An excluded satellite is recorded. -/
def State.exclusionTold : State :=
  match x.excluded with
  | some (y, r) => s.record { code := 0x0605, items := [(1, y.constel), (1, y.prn), sItem 4 r], key := 2 }
  | none => s

theorem State.exclusionTold_framed : Framed [] s (s.exclusionTold x) := by
  unfold State.exclusionTold
  split
  · exact State.record_framed _ _ (.refl _ s)
  · exact .refl _ s

end

section
variable (dt : Nat) (x : GnssSol) (s : State)

/-- A solution of a receiver that acquires or has a fix. -/
theorem exec_gnssEpoch_solves (h : s.get R.GNSS_STAT_STATE = 2 ∨ s.get R.GNSS_STAT_STATE = 3) (hok : solOk x = true) :
    exec (.gnssEpoch dt x) s = .next ((((s.advance dt).exclusionTold x).epochShown x).epochKept x) := by
  refine (if_neg ?_).trans ((if_pos hok).trans ?_)
  · rcases h with h | h <;> simp [h]
  · unfold State.epochKept State.epochShown State.exclusionTold State.putGnss
    cases x.excluded <;> dsimp only

/-- An epoch without a solution of a receiver that has a fix. -/
theorem exec_gnssEpoch_loses (h : s.get R.GNSS_STAT_STATE = 3) (hok : solOk x = false) :
    exec (.gnssEpoch dt x) s = .next ((s.advance dt).exclusionTold x).fixLost := by
  refine (if_neg ?_).trans (if_neg (ne_true_of_eq_false hok))
  simp [h]

theorem exec_gnssEpoch_off (h2 : s.get R.GNSS_STAT_STATE ≠ 2) (h3 : s.get R.GNSS_STAT_STATE ≠ 3) :
    exec (.gnssEpoch dt x) s = .next (s.advance dt) := by
  refine if_pos ?_
  simp [h2, h3]

theorem gnssEpoch_solves (h : s.get R.GNSS_STAT_STATE = 2 ∨ s.get R.GNSS_STAT_STATE = 3) (hok : solOk x = true)
    (hex : x.excluded = none) :
    ∃ t, exec (.gnssEpoch dt x) s = .next t ∧ t.gnss.sol = some x ∧ t.gnss.epochAt = s.now + dt ∧
      t.gnss.epochPm = (s.advance dt).pm ∧ t.get R.GNSS_EPOCH_PM_PM32 = (s.advance dt).ns % 2 ^ 32 ∧
      Framed epochKeys { s.advance dt with gnss := t.gnss } t := by
  have hframe := (s.advance dt).epochShown_framed x
  have hpm : ((s.advance dt).epochShown x).pm = (s.advance dt).pm := by
    unfold State.pm State.ns
    rw [hframe.time_eq]
  have htold : (s.advance dt).exclusionTold x = s.advance dt := by
    unfold State.exclusionTold
    rw [hex]
  obtain ⟨hsol, hat, hkept⟩ := ((s.advance dt).epochShown x).epochKept_keeps x
  refine ⟨_, exec_gnssEpoch_solves dt x s h hok, ?_⟩
  rw [htold, State.epochKept_get]
  exact ⟨hsol, hat.trans (State.of_plain_now hframe.plain), hkept.trans hpm, (s.advance dt).epochShown_pm32 x,
    hframe.epochKept x⟩

theorem gnssEpoch_loses (h : s.get R.GNSS_STAT_STATE = 3) (hok : solOk x = false) :
    ∃ t, exec (.gnssEpoch dt x) s = .next t ∧ t.gnss.sol = none ∧ t.gnss.solsRun = 0 ∧ t.get R.GNSS_STAT_STATE = 2 ∧
      t.get R.GNSS_EVT_FIX_LOST = 1 ∧ t.inbox = s.inbox ∧
      Framed (regKeys 0 [R.GNSS_STAT_STATE, R.GNSS_EVT_FIX_LOST]) { s.advance dt with gnss := t.gnss } t := by
  have htold := (s.advance dt).exclusionTold_framed x
  have hstate := (htold.get_eq 0 (f := R.GNSS_STAT_STATE) (by decide) List.not_mem_nil).trans h
  have hframe := ((htold.mono (List.nil_subset _)).withGnss _).trans ((s.advance dt).exclusionTold x).fixLost_framed
  obtain ⟨hlost, hevent⟩ := ((s.advance dt).exclusionTold x).fixLost_shows hstate
  exact ⟨_, exec_gnssEpoch_loses dt x s h hok, congrArg GnssSt.sol hframe.gnss_eq, congrArg GnssSt.solsRun hframe.gnss_eq, hlost, hevent,
    (State.of_plain_inbox hframe.plain :), hframe.ownGnss⟩

end

/-! ### Position messages (R127, R128) -/

section
variable (s : State)

/-- A message written counts: its sequence number, the time to the first fix, and the solutions in a row. -/
def State.solutionCounted (seq : Nat) : State :=
  let v := s.set R.GNSS_SOL_SEQ_SEQ seq
  let w := if v.gnss.firstDone then v else v.setSat R.GNSS_TTFF_TTFF_MS ((v.now - v.gnss.poweredAt) / 1000000)
  w.putGnss { w.gnss with firstDone := true, solsRun := w.gnss.solsRun + 1 }

theorem State.solutionCounted_seq (seq : Nat) : (s.solutionCounted seq).get R.GNSS_SOL_SEQ_SEQ = seq % 2 ^ 32 := by
  unfold State.solutionCounted
  dsimp only
  rw [State.putGnss_get]
  split
  · exact State.get_set_same _ _ _ _
  · rw [State.setSat_get_ne _ _ (by decide)]
    exact State.get_set_same _ _ _ _

theorem State.solutionCounted_get (seq : Nat) {f : Fld} (hseq : fkey f ≠ fkey R.GNSS_SOL_SEQ_SEQ)
    (httff : fkey f ≠ fkey R.GNSS_TTFF_TTFF_MS) : (s.solutionCounted seq).get f = s.get f := by
  unfold State.solutionCounted
  dsimp only
  rw [State.putGnss_get]
  split
  · exact State.get_set_ne _ _ _ _ hseq
  · rw [State.setSat_get_ne _ _ httff, State.get_set_ne _ _ _ _ hseq]

theorem State.solutionCounted_keeps (seq : Nat) : (s.solutionCounted seq).gnss.sol = s.gnss.sol ∧
    (s.solutionCounted seq).gnss.solsRun = s.gnss.solsRun + 1 ∧ (s.solutionCounted seq).pts = s.pts := by
  unfold State.solutionCounted
  dsimp only
  split <;> exact ⟨rfl, rfl, rfl⟩

/-- NO-FIX becomes FIX. -/
def State.fixGained : State := (s.set R.GNSS_STAT_STATE 3).evt R.GNSS_EVT_FIX_GAINED

theorem State.fixGained_shows : s.fixGained.get R.GNSS_STAT_STATE = 3 ∧ s.fixGained.get R.GNSS_EVT_FIX_GAINED = 1 ∧
    s.fixGained.get R.GNSS_SOL_SEQ_SEQ = s.get R.GNSS_SOL_SEQ_SEQ := by
  unfold State.fixGained
  simp (disch := decide) only [State.evt_get_ne, State.evt_get_same, State.get_set_ne, State.get_set_same]
  exact ⟨rfl, rfl, trivial⟩

theorem State.fixGained_keeps : s.fixGained.gnss = s.gnss ∧ s.fixGained.pts = s.pts :=
  ⟨State.evt_gnss _ _ _, State.evt_pts _ _ _⟩

/-- A state by what waits in its receiver. -/
theorem State.eq_putGnss_sol {o : Option GnssSol} (h : s.gnss.sol = o) : s = s.putGnss { s.gnss with sol := o } := by
  rw [← h]
  rfl

/-- The solution of the epoch waits no more. -/
def State.solutionTaken : State := s.putGnss { s.gnss with sol := none }

end

section
variable (dt : Nat) (s : State)

theorem exec_positionMessageWrite_none (h : s.gnss.sol = none) : exec (.positionMessageWrite dt) s = .next (s.advance dt) := by
  rw [s.eq_putGnss_sol h]
  rfl

variable (x : GnssSol) (hx : s.gnss.sol = some x)
include hx

theorem exec_positionMessageWrite_late (ht : s.gnss.epochAt + 30000000 < s.now + dt) :
    exec (.positionMessageWrite dt) s = .next { s.advance dt with gnss := { s.gnss with sol := none } } := by
  rw [s.eq_putGnss_sol hx]
  exact if_pos ht

/-- The first message of a fix: its points are inputs of the tick, and the fix is gained. -/
theorem exec_positionMessageWrite_gains (ht : s.now + dt ≤ s.gnss.epochAt + 30000000) (hst : s.get R.GNSS_STAT_STATE ≠ 3) :
    ∃ vals q e, exec (.positionMessageWrite dt) s =
      .next ((((((s.advance dt).solutionTaken).messagePoints 0x09000000 vals s.gnss.epochPm q).solutionCounted
        ((s.get R.GNSS_SOL_SEQ_SEQ + 1) % 2 ^ 32)).fixGained).record e) := by
  have hnofix (vals q seq) : (((s.advance dt).solutionTaken.messagePoints 0x09000000 vals s.gnss.epochPm q).solutionCounted
      seq).get R.GNSS_STAT_STATE ≠ 3 := by
    rw [State.solutionCounted_get _ _ (by decide) (by decide), State.messagePoints_get _ _ _ _ _ _ (by decide)]
    exact hst
  rw [s.eq_putGnss_sol hx] at hnofix ⊢
  exact ⟨_, _, _, (if_neg (Nat.not_lt.2 ht)).trans (if_neg (hnofix _ _ _))⟩

theorem positionMessageWrite_gains (ht : s.now + dt ≤ s.gnss.epochAt + 30000000) (hst : s.get R.GNSS_STAT_STATE ≠ 3) :
    ∃ t, exec (.positionMessageWrite dt) s = .next t ∧ t.get R.GNSS_STAT_STATE = 3 ∧ t.get R.GNSS_EVT_FIX_GAINED = 1 ∧
      t.gnss.sol = none ∧ t.gnss.solsRun = s.gnss.solsRun + 1 ∧
      t.get R.GNSS_SOL_SEQ_SEQ = (s.get R.GNSS_SOL_SEQ_SEQ + 1) % 2 ^ 32 ∧ t.pts = s.pts := by
  obtain ⟨vals, q, e, hexec⟩ := exec_positionMessageWrite_gains dt s x hx ht hst
  generalize hu : ((s.advance dt).solutionTaken.messagePoints 0x09000000 vals s.gnss.epochPm q) = u at hexec
  have hgnss : u.gnss = { s.gnss with sol := none } := by
    rw [← hu, State.messagePoints_gnss]
    rfl
  have hpts : u.pts = s.pts := by
    rw [← hu, State.messagePoints_pts]
    rfl
  have hseq := u.solutionCounted_seq ((s.get R.GNSS_SOL_SEQ_SEQ + 1) % 2 ^ 32)
  obtain ⟨hsol, hruns, hpts'⟩ := u.solutionCounted_keeps ((s.get R.GNSS_SOL_SEQ_SEQ + 1) % 2 ^ 32)
  obtain ⟨hfix, hevent, hkept⟩ := (u.solutionCounted ((s.get R.GNSS_SOL_SEQ_SEQ + 1) % 2 ^ 32)).fixGained_shows
  obtain ⟨hgnss', hpts''⟩ := (u.solutionCounted ((s.get R.GNSS_SOL_SEQ_SEQ + 1) % 2 ^ 32)).fixGained_keeps
  refine ⟨_, hexec, ?_⟩
  simp (disch := decide) only [State.record_get, State.record_gnss, State.record_pts]
  rw [hfix, hevent, hkept, hseq, Nat.mod_mod, hgnss', hpts'', hsol, hruns, hpts', hgnss, hpts]
  exact ⟨rfl, rfl, rfl, rfl, rfl, rfl⟩

end

/-! ### Time pulses (R100, R129) -/

section
variable (dt n unc : Nat) (o u : Int) (s : State)

/-- A valid pulse is kept for the next one, and while it steers its UTC offset is what is announced. -/
def State.pulseKept : State :=
  let v := s.putGnss { s.gnss with lastOffset := some o }
  if v.get R.TIME_STAT_SRC = 1 then v.putTime { v.time with utcAnnounced := some u } else v

theorem State.pulseKept_keeps : (s.pulseKept o u).gnss.lastOffset = some o ∧ (s.pulseKept o u).time.count = s.time.count ∧
    (s.pulseKept o u).time.fixAt = s.time.fixAt ∧ (s.pulseKept o u).man = s.man ∧ (s.pulseKept o u).now = s.now ∧
    (s.pulseKept o u).stepped = s.stepped := by
  unfold State.pulseKept
  dsimp only
  split <;> exact ⟨rfl, rfl, rfl, rfl, rfl, rfl⟩

theorem exec_timePulseMessage_off (ok : Bool) (h : s.get R.GNSS_STAT_STATE = 0 ∨ s.get R.GNSS_STAT_STATE = 4) :
    exec (.timePulseMessage dt o n ok u unc) s = .next (s.advance dt) := by
  refine if_pos ?_
  rcases h with h | h <;> simp [h]

variable (hst : s.get R.GNSS_STAT_STATE = 3)
include hst

theorem exec_timePulseMessage_invalid : ∃ vals q, exec (.timePulseMessage dt o n false u unc) s =
    .next (((s.advance dt).messagePoints 0x09000100 vals (s.advance dt).pm q).putGnss { s.gnss with lastOffset := none }) := by
  iterate 2 apply Exists.intro
  refine (if_neg (by simp [hst])).trans ((if_pos rfl).trans ?_)
  dsimp only
  rw [State.messagePoints_gnss]
  rfl

theorem timePulseMessage_invalid : ∃ t, exec (.timePulseMessage dt o n false u unc) s = .next t ∧ t.gnss.lastOffset = none ∧
    t.time = (s.advance dt).time := by
  obtain ⟨vals, q, hexec⟩ := exec_timePulseMessage_invalid dt n unc o u s hst
  exact ⟨_, hexec, rfl, State.messagePoints_time _ _ _ _ _⟩

/-- Two valid pulses in a row that agree are a valid fix. -/
theorem exec_timePulseMessage_agrees (p : Int) (hn : 4 ≤ n) (hp : s.gnss.lastOffset = some p) (hd : (o - p).natAbs ≤ 100) :
    ∃ vals q, exec (.timePulseMessage dt o n true u unc) s =
      .next ((((s.advance dt).messagePoints 0x09000100 vals (s.advance dt).pm q).pulseKept o u).validFix 1 o) := by
  obtain ⟨m, rfl⟩ := Nat.exists_eq_add_of_le' hn
  have hprev (vals q) : ((s.advance dt).messagePoints 0x09000100 vals (s.advance dt).pm q).gnss.lastOffset = some p := by
    rw [State.messagePoints_gnss]
    exact hp
  iterate 2 apply Exists.intro
  refine (if_neg (by simp [hst])).trans ((if_neg Bool.false_ne_true).trans ?_)
  rw [hprev]
  exact if_pos hd

theorem timePulseMessage_fixes (p : Int) (hn : 4 ≤ n) (hp : s.gnss.lastOffset = some p) (hd : (o - p).natAbs ≤ 100)
    (hsrc : 1 ∈ s.man.srcList) (hs : s.stepped = false) (hfix : s.time.fixAt = none) :
    ∃ t, exec (.timePulseMessage dt o n true u unc) s = .next t ∧ t.time.fixAt = some (s.now + dt) ∧ t.time.fixSrc = 1 ∧
      t.time.fixOfs = o ∧ 1 ∈ t.time.live ∧ t.gnss.lastOffset = some o ∧ t.time.count = (s.advance dt).time.count := by
  obtain ⟨vals, q, hexec⟩ := exec_timePulseMessage_agrees dt n unc o u s hst p hn hp hd
  obtain ⟨hlast, hcount, hfix', hman, hnow, hs'⟩ :=
    ((s.advance dt).messagePoints 0x09000100 vals (s.advance dt).pm q).pulseKept_keeps o u
  have hstepped : ((s.advance dt).messagePoints 0x09000100 vals (s.advance dt).pm q).stepped = false := by
    unfold State.stepped State.flag at hs ⊢
    rw [State.messagePoints_get _ _ _ _ _ _ (by decide)]
    exact hs
  rw [State.messagePoints_time] at hcount hfix'
  rw [State.messagePoints_man] at hman
  rw [State.messagePoints_now] at hnow
  rw [State.validFix_first _ _ _ (hs'.trans hstepped) (by rw [hman]; exact hsrc) (hfix'.trans hfix)] at hexec
  exact ⟨_, hexec, congrArg some hnow, rfl, rfl, State.srcSeen_live _ 1 o, hlast, hcount⟩

end

/-- Settles O24: each clause is the lemma of its command above. -/
theorem gnssSolutions : Obligations.GnssSolutions := by
  unfold Obligations.GnssSolutions
  exact ⟨gnssEpoch_solves, gnssEpoch_loses, exec_gnssEpoch_off,
    fun dt x s hx => positionMessageWrite_gains dt s x hx, fun dt x s hx => exec_positionMessageWrite_late dt s x hx,
    exec_positionMessageWrite_none,
    fun dt n unc o p u s hst hn hp hd => timePulseMessage_fixes dt n unc o u s hst p hn hp hd,
    fun dt n unc o u s => timePulseMessage_invalid dt n unc o u s,
    fun dt n unc o u ok s => exec_timePulseMessage_off dt n unc o u s ok⟩

end Sys2Proof.Machine
end

section
/-!
PROOF that the statement of 04_timebase.md about pulses and the leap second fails (TimePulses): its clause of a removed second takes
every state, and the UTC offset of a state may lie above what its field of 16 bits can show.
-/

namespace Sys2Proof.Machine

open Sys2Proof

/-! ### A leap second on an offset beyond its field (R110) -/

/-- A second is to be removed at the end of the day, and the register table holds 131,072 for TIME_UTC.UTC_OFS, two more bits than
the field has: it reads 65,536 as a signed value. No write of the device leaves such a value. -/
def utcOfsBeyondField : State :=
  { State.reset with regs := [(loc R.TIME_UTC_UTC_OFS 0, 131072), (loc R.TIME_UTC_LEAP 0, 2)] }

/-- The new offset saturates at the end of the field. -/
theorem leapSecondApply_utcOfsBeyondField_saturates :
    (after utcOfsBeyondField (exec (.leapSecondApply 5) utcOfsBeyondField)).geti R.TIME_UTC_UTC_OFS = 32767 := by
  decide +kernel

/-- Refutes O21: the clause of a removed second says that UTC_OFS falls by one, and its hypotheses bound the old offset from below
alone; above 32,768 the new one saturates. -/
theorem not_timePulses : ¬ Obligations.TimePulses := by
  intro h
  obtain ⟨-, hremoved, -⟩ := h
  obtain ⟨t, ht, hofs, -⟩ := hremoved 5 utcOfsBeyondField (by decide) (by decide)
  have hsat := leapSecondApply_utcOfsBeyondField_saturates
  rw [ht] at hsat
  exact absurd (hofs.symm.trans hsat) (by decide)

end Sys2Proof.Machine
end

section
/-!
PROOF of the statement of 05_gnss_receiver.md about the receiver's bands (GnssBands): what the channels, their counts and the bits of
the bands show, what a band's fault or recovery leaves, and then each command.
-/

namespace Sys2Proof.Machine

open Sys2Proof

/-! ### Channels and their counts (R123, R134) -/

/-- The registers of a band's channels that show their lock. -/
def lockKeys (band : Nat) : List Nat := (List.range 48).map fun c => loc R.GNSS_CH_STAT_LOCK (c + 64 * band)

theorem mem_lockKeys {band k : Nat} : k ∈ lockKeys band ↔ ∃ c < 48, loc R.GNSS_CH_STAT_LOCK (c + 64 * band) = k := by
  simp [lockKeys]

/-- The counts of tracking channels. -/
abbrev trkKeys : List Nat := regKeys 0 [R.GNSS_TRK_L1_TRK, R.GNSS_TRK_L5_TRK]

/-- A field with a key of its own is none of those listed, in any bank. -/
theorem loc_notMem_regKeys {l : List Fld} {f : Fld} (h : ∀ g ∈ l, fkey f ≠ fkey g) (b c : Nat) : loc f b ∉ regKeys c l := by
  intro hm
  obtain ⟨g, hg, he⟩ := List.mem_map.1 hm
  exact loc_ne (h g hg) c b he.symm

section
variable {l : List Fld} {band : Nat} {s t : State} (h : Framed (regKeys 0 l ++ lockKeys band) s t)
include h

/-- A field outside a frame of some fields and a band's channels keeps its value. -/
theorem Framed.get_fld {f : Fld} (b : Nat) (hn : noteFld f = false) (hf : ∀ g ∈ R.GNSS_CH_STAT_LOCK :: l, fkey f ≠ fkey g) :
    t.get f b = s.get f b := by
  have hl : loc f b ∉ regKeys 0 l := loc_notMem_regKeys (fun g hg => hf g (List.mem_cons_of_mem _ hg)) b 0
  refine h.get_eq b hn (List.not_mem_append hl fun hm => ?_)
  obtain ⟨c, -, he⟩ := mem_lockKeys.1 hm
  exact loc_ne (hf _ List.mem_cons_self) _ _ he.symm

/-- The channels of the other band keep their lock: the banks of one band are not those of another. -/
theorem Framed.lock_other (hl : ∀ g ∈ l, fkey R.GNSS_CH_STAT_LOCK ≠ fkey g) {other c : Nat} (hb : other ≠ band) (hc : c < 48) :
    t.get R.GNSS_CH_STAT_LOCK (c + 64 * other) = s.get R.GNSS_CH_STAT_LOCK (c + 64 * other) := by
  refine h.get_eq _ (by decide) (List.not_mem_append (loc_notMem_regKeys hl _ 0) fun hm => ?_)
  obtain ⟨n, hn, he⟩ := mem_lockKeys.1 hm
  exact loc_bank (by omega) he

end

/-- The first channels of a band, once stopped, have no lock. -/
theorem foldl_stop_lock (s : State) (band : Nat) {k c : Nat} (hc : c < k) :
    ((List.range k).foldl (fun (u : State) n => u.set R.GNSS_CH_STAT_LOCK 0 (n + 64 * band)) s).get R.GNSS_CH_STAT_LOCK
      (c + 64 * band) = 0 := by
  induction k with
  | zero => exact absurd hc (Nat.not_lt_zero c)
  | succ k ih =>
    rw [List.range_succ, List.foldl_append, List.foldl_cons, List.foldl_nil]
    by_cases h : c = k
    · rw [h, State.get_set_same, Nat.zero_mod]
    · rw [State.get_set_bank _ _ _ _ (by omega), ih (by omega)]

section
variable (s : State)

theorem State.stopChannels_lock (band : Nat) {c : Nat} (hc : c < 48) :
    (s.stopChannels band).get R.GNSS_CH_STAT_LOCK (c + 64 * band) = 0 := foldl_stop_lock s band hc

theorem State.stopChannels_framed {ks : List Nat} {s₀ : State} (band : Nat) (hks : lockKeys band ⊆ ks) (h : Framed ks s₀ s) :
    Framed ks s₀ (s.stopChannels band) :=
  foldl_framed _ (fun _ hc _ => set_framed _ _ _ _ (.inl (hks (mem_lockKeys.2 ⟨_, List.mem_range.1 hc, rfl⟩)))) h

theorem State.stopChannels_keeps {β : Type} (p : State → β) (hset : ∀ u f v b, p (State.set u f v b) = p u) (band : Nat) :
    p (s.stopChannels band) = p s := foldl_keeps p _ (fun u _ => hset u _ _ _) s

@[simp] theorem State.stopChannels_get {f : Fld} (band b : Nat) (h : fkey f ≠ fkey R.GNSS_CH_STAT_LOCK) :
    (s.stopChannels band).get f b = s.get f b := foldl_keeps (·.get f b) _ (fun _ _ => State.get_set_ne _ _ _ _ h) s

theorem State.recount_framed {ks : List Nat} {s₀ : State} (hks : trkKeys ⊆ ks) (h : Framed ks s₀ s) :
    Framed ks s₀ s.recount :=
  set_framed _ _ _ _ (.inl (hks (by decide))) (set_framed _ _ _ _ (.inl (hks (by decide))) h)

@[simp] theorem State.recount_get {f : Fld} (b : Nat) (h1 : fkey f ≠ fkey R.GNSS_TRK_L1_TRK)
    (h5 : fkey f ≠ fkey R.GNSS_TRK_L5_TRK) : s.recount.get f b = s.get f b :=
  (State.get_set_ne _ _ _ _ h5).trans (State.get_set_ne _ _ _ _ h1)

@[simp] theorem State.recount_gnss : s.recount.gnss = s.gnss := rfl
@[simp] theorem State.recount_gnssRet : s.recount.gnssRet = s.gnssRet := rfl

/-! ### The bits of the bands (R134) -/

/-- The receiver is neither off nor asleep. -/
def State.gnssRuns : Bool := s.get R.GNSS_STAT_STATE ≠ 0 && s.get R.GNSS_STAT_STATE ≠ 4

theorem State.gnssRuns_iff : s.gnssRuns = true ↔ s.get R.GNSS_STAT_STATE ≠ 0 ∧ s.get R.GNSS_STAT_STATE ≠ 4 := by
  simp [State.gnssRuns]

/-- The registers of the bands' bits and of the state that follows them. -/
abbrev bandBitKeys : List Nat := regKeys 0 [R.GNSS_STAT_L1_OK, R.GNSS_STAT_L5_OK, R.GNSS_STAT_STATE]

/-- Each band's bit, before the state follows. -/
def State.bandOks : State :=
  (s.setB R.GNSS_STAT_L1_OK (s.gnssRuns && !s.gnss.fault1)).setB R.GNSS_STAT_L5_OK
    ((s.gnssRuns && !s.gnss.fault5) || !s.man.gnssDual)

/-- The receiver runs, and every band it has is faulted. -/
def State.noBand : Bool :=
  s.gnss.fault1 && (s.gnss.fault5 || !s.man.gnssDual) && s.get R.GNSS_STAT_STATE ≠ 0 && s.get R.GNSS_STAT_STATE ≠ 4

theorem State.bandBits_eq : s.bandBits =
    if s.noBand then s.bandOks.set R.GNSS_STAT_STATE 5
    else if s.get R.GNSS_STAT_STATE = 5 then s.bandOks.set R.GNSS_STAT_STATE 1 else s.bandOks := rfl

/-- What the bits of both bands and any state leave, the bits of the bands leave. -/
theorem State.bandBits_of {P : State → Prop} (hoks : P s.bandOks) (hset : ∀ v, P (s.bandOks.set R.GNSS_STAT_STATE v)) :
    P s.bandBits := by
  rw [State.bandBits_eq]
  split_ifs
  · exact hset 5
  · exact hset 1
  · exact hoks

theorem State.bandBits_framed {ks : List Nat} {s₀ : State} (hks : bandBitKeys ⊆ ks) (h : Framed ks s₀ s) :
    Framed ks s₀ s.bandBits := by
  have hoks : Framed ks s₀ s.bandOks := setB_framed _ _ _ _ (.inl (hks (by decide)))
    (setB_framed _ _ _ _ (.inl (hks (by decide))) h)
  exact s.bandBits_of hoks fun v => set_framed _ _ _ _ (.inl (hks (by decide))) hoks

@[simp] theorem State.bandBits_get {f : Fld} (b : Nat) (h1 : fkey f ≠ fkey R.GNSS_STAT_L1_OK)
    (h5 : fkey f ≠ fkey R.GNSS_STAT_L5_OK) (hst : fkey f ≠ fkey R.GNSS_STAT_STATE) : s.bandBits.get f b = s.get f b := by
  have hoks : s.bandOks.get f b = s.get f b :=
    (State.setB_get_ne _ _ _ _ h5).trans (State.setB_get_ne _ _ _ _ h1)
  exact s.bandBits_of (P := fun u => u.get f b = s.get f b) hoks fun v => (State.get_set_ne _ _ _ _ hst).trans hoks

@[simp] theorem State.bandBits_gnss : s.bandBits.gnss = s.gnss :=
  s.bandBits_of (P := fun u => u.gnss = s.gnss) rfl fun _ => rfl

@[simp] theorem State.bandBits_gnssRet : s.bandBits.gnssRet = s.gnssRet :=
  s.bandBits_of (P := fun u => u.gnssRet = s.gnssRet) rfl fun _ => rfl

@[simp] theorem State.bandBits_man : s.bandBits.man = s.man :=
  s.bandBits_of (P := fun u => u.man = s.man) rfl fun _ => rfl

theorem State.bandBits_l1 :
    s.bandBits.get R.GNSS_STAT_L1_OK = if s.gnssRuns && !s.gnss.fault1 then 1 else 0 := by
  have hoks : s.bandOks.get R.GNSS_STAT_L1_OK = if s.gnssRuns && !s.gnss.fault1 then 1 else 0 :=
    (State.setB_get_ne _ _ _ _ (by decide)).trans (State.get_setB_same _ _ _ _ rfl)
  exact s.bandBits_of (P := fun u => u.get R.GNSS_STAT_L1_OK = _) hoks fun v =>
    (State.get_set_ne _ _ _ _ (by decide)).trans hoks

theorem State.bandBits_l5 :
    s.bandBits.get R.GNSS_STAT_L5_OK = if (s.gnssRuns && !s.gnss.fault5) || !s.man.gnssDual then 1 else 0 := by
  have hoks := State.get_setB_same (s.setB R.GNSS_STAT_L1_OK (s.gnssRuns && !s.gnss.fault1)) R.GNSS_STAT_L5_OK
    ((s.gnssRuns && !s.gnss.fault5) || !s.man.gnssDual) 0 rfl
  exact s.bandBits_of (P := fun u => u.get R.GNSS_STAT_L5_OK = _) hoks fun v =>
    (State.get_set_ne _ _ _ _ (by decide)).trans hoks

/-- Where the receiver has a band or does not run, the state stays, and FAULT is left. -/
theorem State.bandBits_state (h : s.noBand = false) :
    s.bandBits.get R.GNSS_STAT_STATE = if s.get R.GNSS_STAT_STATE = 5 then 1 else s.get R.GNSS_STAT_STATE := by
  rw [State.bandBits_eq, h, if_neg Bool.false_ne_true]
  split
  · exact State.get_set_same _ _ _ _
  · exact (State.setB_get_ne _ _ _ _ (by decide)).trans (State.setB_get_ne _ _ _ _ (by decide))

theorem State.noBand_of_l1 (h : s.gnss.fault1 = false) : s.noBand = false := by
  simp [State.noBand, h]

theorem State.bandBits_runs (h : s.gnss.fault1 = false) : s.bandBits.gnssRuns = s.gnssRuns := by
  unfold State.gnssRuns
  rw [s.bandBits_state (s.noBand_of_l1 h)]
  split
  · simp [*]
  · rfl

theorem State.bandBits_good (hr : s.gnssRuns = true) (h1 : s.gnss.fault1 = false) (h5 : s.gnss.fault5 = false) :
    s.bandBits.get R.GNSS_STAT_L1_OK = 1 ∧ s.bandBits.get R.GNSS_STAT_L5_OK = 1 := by
  rw [s.bandBits_l1, s.bandBits_l5, hr, h1, h5]
  exact ⟨rfl, rfl⟩

end

/-! ### A band's fault and recovery (R120) -/

/-- The band is faulted: 0 is L1, any other L5. -/
def GnssSt.faulted (g : GnssSt) (band : Nat) : Bool := if band = 0 then g.fault1 else g.fault5

section
variable (s : State) (band : Nat) (bad ok : Bool)

/-- The receiver's data after a band is judged: a new fault notes its instant. -/
def State.bandGnss : GnssSt :=
  if band = 0 then
    { s.gnss with fault1 := bad, faultAt1 := if bad && !s.gnss.fault1 then s.now else s.gnss.faultAt1 }
  else { s.gnss with fault5 := bad, faultAt5 := if bad && !s.gnss.fault5 then s.now else s.gnss.faultAt5 }

/-- A band is judged, its bits not yet shown: a new fault stops its channels. -/
def State.bandJudged : State :=
  if bad && !s.gnss.faulted band then ((s.putGnss (s.bandGnss band bad)).stopChannels band).recount
  else s.putGnss (s.bandGnss band bad)

/-- The bits of the bands follow each judgement; a new fault raises its event bit, and a fault and a recovery are recorded. -/
theorem State.setBand_eq : s.setBand band bad ok =
    if bad && !s.gnss.faulted band then ((s.bandJudged band bad).bandBits.evt R.GNSS_EVT_FE_FAULT).bandRecord band ok
    else if s.gnss.faulted band && !bad then (s.bandJudged band bad).bandBits.bandRecord band ok
    else (s.bandJudged band bad).bandBits := by
  unfold State.setBand State.bandJudged State.bandGnss GnssSt.faulted
  dsimp only
  by_cases hb : band = 0
  · cases bad <;> cases s.gnss.fault1 <;> simp [hb, State.putGnss]
  · cases bad <;> cases s.gnss.fault5 <;> simp [hb, State.putGnss]

theorem State.bandRecord_framed {ks : List Nat} {s₀ : State} (h : Framed ks s₀ s) : Framed ks s₀ (s.bandRecord band ok) :=
  State.record_framed _ _ h

/-- Beside the bits of the bands, a judgement shows its event and is told. -/
theorem State.setBand_told :
    Framed [loc R.GNSS_EVT_FE_FAULT 0] (s.bandJudged band bad).bandBits (s.setBand band bad ok) := by
  rw [State.setBand_eq]
  exact ite_framed (State.bandRecord_framed _ _ _ (State.evt_framed _ _ _ (.inl (List.mem_singleton.2 rfl)) (.refl _ _)))
    (ite_framed (State.bandRecord_framed _ _ _ (.refl _ _)) (.refl _ _))

theorem State.bandJudged_framed :
    Framed (trkKeys ++ lockKeys band) (s.putGnss (s.bandGnss band bad)) (s.bandJudged band bad) :=
  ite_framed (State.recount_framed _ (List.subset_append_left _ _)
    (State.stopChannels_framed _ band (List.subset_append_right _ _) (.refl _ _))) (.refl _ _)

/-- The fields that the judgement of a band may write, beside the locks of its channels. -/
abbrev bandFlds : List Fld :=
  [R.GNSS_EVT_FE_FAULT, R.GNSS_STAT_L1_OK, R.GNSS_STAT_L5_OK, R.GNSS_STAT_STATE, R.GNSS_TRK_L1_TRK, R.GNSS_TRK_L5_TRK]

theorem State.setBand_framed :
    Framed (regKeys 0 bandFlds ++ lockKeys band) (s.putGnss (s.bandGnss band bad)) (s.setBand band bad ok) := by
  have hkeys {l : List Fld} (hl : l ⊆ bandFlds) : regKeys 0 l ⊆ regKeys 0 bandFlds ++ lockKeys band :=
    List.subset_append_of_subset_left _ (List.map_subset _ hl)
  exact (State.bandBits_framed _ (hkeys (by decide)) ((s.bandJudged_framed band bad).mono
    (List.append_subset.2 ⟨hkeys (by decide), List.subset_append_right _ _⟩))).trans
      ((s.setBand_told band bad ok).mono (hkeys (l := [R.GNSS_EVT_FE_FAULT]) (by decide)))

theorem State.setBand_gnss : (s.setBand band bad ok).gnss = s.bandGnss band bad := (s.setBand_framed band bad ok).gnss_eq

theorem State.setBand_get {f : Fld} (b : Nat) (hn : noteFld f = false)
    (hf : ∀ g ∈ R.GNSS_CH_STAT_LOCK :: bandFlds, fkey f ≠ fkey g) : (s.setBand band bad ok).get f b = s.get f b :=
  (s.setBand_framed band bad ok).get_fld b hn hf

/-- The L1 band is shown good where the receiver runs and the band's data say so. -/
theorem State.setBand_l1 : (s.setBand band bad ok).get R.GNSS_STAT_L1_OK =
    if s.gnssRuns && !(s.bandGnss band bad).fault1 then 1 else 0 := by
  have hjudged := s.bandJudged_framed band bad
  have hruns : (s.bandJudged band bad).gnssRuns = s.gnssRuns := by
    unfold State.gnssRuns
    rw [hjudged.get_fld 0 (by decide) (by decide)]
    rfl
  rw [(s.setBand_told band bad ok).get_eq 0 (by decide) (by decide), State.bandBits_l1, hruns, hjudged.gnss_eq]
  rfl

theorem State.setBand_event : (s.setBand band bad ok).get R.GNSS_EVT_FE_FAULT =
    if bad && !s.gnss.faulted band then 1 else s.get R.GNSS_EVT_FE_FAULT := by
  have hkept : (s.bandJudged band bad).bandBits.get R.GNSS_EVT_FE_FAULT = s.get R.GNSS_EVT_FE_FAULT :=
    (State.bandBits_get _ _ (by decide) (by decide) (by decide)).trans
      ((s.bandJudged_framed band bad).get_fld 0 (by decide) (by decide))
  have hrecord (u : State) : (u.bandRecord band ok).get R.GNSS_EVT_FE_FAULT = u.get R.GNSS_EVT_FE_FAULT :=
    State.record_get _ _ _ (by decide)
  rw [State.setBand_eq]
  split
  · rw [hrecord, State.evt_get_same _ _ _ (by decide)]
    rfl
  split
  · rw [hrecord, hkept]
  · exact hkept

/-- A new fault stops the channels of its band. -/
theorem State.setBand_lock_fault (h : s.gnss.faulted band = false) {c : Nat} (hc : c < 48) :
    (s.setBand band true ok).get R.GNSS_CH_STAT_LOCK (c + 64 * band) = 0 := by
  rw [(s.setBand_told band true ok).get_eq _ (by decide) (loc_notMem_regKeys (l := [R.GNSS_EVT_FE_FAULT]) (by decide) _ 0),
    State.bandBits_get _ _ (by decide) (by decide) (by decide), State.bandJudged, if_pos (by simp [h]),
    State.recount_get _ _ (by decide) (by decide), State.stopChannels_lock _ _ hc]

theorem State.bandGnss_same : s.bandGnss band (s.gnss.faulted band) = s.gnss := by
  unfold State.bandGnss GnssSt.faulted
  split <;> simp

/-- A judgement that changes nothing shows the bits of the bands again. -/
theorem State.setBand_same : s.setBand band (s.gnss.faulted band) ok = s.bandBits := by
  have hjudged : s.bandJudged band (s.gnss.faulted band) = s := by
    rw [State.bandJudged, if_neg (by simp), State.bandGnss_same]
    rfl
  rw [State.setBand_eq, if_neg (by simp), if_neg (by simp), hjudged]

end

/-! ### Clock measurements (R120) -/

section
variable (dt : Nat) (l1 l5 : Option Int) (s : State)

/-- GNSS_FE_STAT shows a measurement of the sample clocks. -/
def State.clocksShown : State :=
  let a := l1.getD 0
  let b := if s.man.gnssDual then l5.getD 0 else 0
  ((s.setI R.GNSS_FE_STAT_RATIO_PPB (if a.natAbs < b.natAbs then b else a)).setB R.GNSS_FE_STAT_L1_CLK l1.isSome).setB
    R.GNSS_FE_STAT_L5_CLK l5.isSome

theorem State.clocksShown_gnssRuns : (s.clocksShown l1 l5).gnssRuns = s.gnssRuns := by
  unfold State.gnssRuns State.clocksShown
  dsimp only
  simp (disch := decide) only [State.setB_get_ne, State.setI_get_ne]

theorem State.clocksShown_shows :
    (s.clocksShown l1 l5).get R.GNSS_FE_STAT_L1_CLK = (if l1.isSome then 1 else 0) ∧
    (s.clocksShown l1 l5).get R.GNSS_FE_STAT_L5_CLK = if l5.isSome then 1 else 0 := by
  unfold State.clocksShown
  dsimp only
  rw [State.setB_get_ne _ _ _ _ (by decide), State.get_setB_same _ _ _ _ rfl, State.get_setB_same _ _ _ _ rfl]
  exact ⟨rfl, rfl⟩

/-- A band is judged by its measurement; a fault is left by a retry alone. -/
def State.judgeBand (band : Nat) (ppb : Option Int) : State := s.setBand band (bandBad ppb || s.gnss.faulted band) true

/-- Both bands are judged, the second where the device has it. -/
def State.clocksJudged : State :=
  if (s.judgeBand 0 l1).man.gnssDual then (s.judgeBand 0 l1).judgeBand 1 l5 else s.judgeBand 0 l1

theorem exec_feClockMeasure_runs (h : s.gnssRuns = true) :
    exec (.feClockMeasure dt l1 l5) s = .next (((s.advance dt).clocksShown l1 l5).clocksJudged l1 l5) := by
  obtain ⟨h0, h4⟩ := s.gnssRuns_iff.1 h
  refine (if_neg (by simp [h0, h4])).trans ?_
  unfold State.clocksJudged State.judgeBand
  cases bandBad l1 <;> cases bandBad l5 <;> rfl

theorem exec_feClockMeasure_off (h : s.get R.GNSS_STAT_STATE = 0 ∨ s.get R.GNSS_STAT_STATE = 4) :
    exec (.feClockMeasure dt l1 l5) s = .next (s.advance dt) := by
  refine if_pos ?_
  rcases h with h | h <;> simp [h]

/-- A fault of the L1 band at an instant, as the receiver keeps and shows it. -/
structure L1Faulted (at_ : Nat) (s : State) : Prop where
  fault : s.gnss.fault1 = true
  since : s.gnss.faultAt1 = at_
  shown : s.get R.GNSS_STAT_L1_OK = 0
  event : s.get R.GNSS_EVT_FE_FAULT = 1
  stopped : ∀ c, c < 48 → s.get R.GNSS_CH_STAT_LOCK c = 0

theorem State.setBand_l1Faulted (h : s.gnss.fault1 = false) : L1Faulted s.now (s.setBand 0 true true) where
  fault := by
    rw [State.setBand_gnss]
    rfl
  since := by
    rw [State.setBand_gnss]
    exact if_pos (by simp [h])
  shown := (s.setBand_l1 0 true true).trans (if_neg (by simp [State.bandGnss]))
  event := (s.setBand_event 0 true true).trans (if_pos (by simp [GnssSt.faulted, h]))
  stopped c hc := s.setBand_lock_fault 0 true h hc

/-- The judgement of the L5 band leaves the fault. -/
theorem L1Faulted.setBand_l5 {at_ : Nat} {s : State} (h : L1Faulted at_ s) (bad ok : Bool) :
    L1Faulted at_ (s.setBand 1 bad ok) where
  fault := by
    rw [State.setBand_gnss]
    exact h.fault
  since := by
    rw [State.setBand_gnss]
    exact h.since
  shown := (s.setBand_l1 1 bad ok).trans (if_neg (by simp [State.bandGnss, h.fault]))
  event := (s.setBand_event 1 bad ok).trans (by rw [h.event, ite_self])
  stopped c hc :=
    ((s.setBand_framed 1 bad ok).lock_other (by decide) (other := 0) (by decide) hc).trans (h.stopped c hc)

theorem feClockMeasure_faults (h0 : s.get R.GNSS_STAT_STATE ≠ 0) (h4 : s.get R.GNSS_STAT_STATE ≠ 4) (hb : bandBad l1 = true)
    (hf : s.gnss.fault1 = false) :
    ∃ t, exec (.feClockMeasure dt l1 l5) s = .next t ∧ t.gnss.fault1 = true ∧ t.gnss.faultAt1 = s.now + dt ∧
      t.get R.GNSS_STAT_L1_OK = 0 ∧ t.get R.GNSS_EVT_FE_FAULT = 1 ∧
      (∀ c, c < 48 → t.get R.GNSS_CH_STAT_LOCK c = 0) := by
  have hl1 : L1Faulted (s.now + dt) (((s.advance dt).clocksShown l1 l5).judgeBand 0 l1) := by
    rw [State.judgeBand, hb]
    exact State.setBand_l1Faulted ((s.advance dt).clocksShown l1 l5) hf
  have hboth : L1Faulted (s.now + dt) (((s.advance dt).clocksShown l1 l5).clocksJudged l1 l5) := by
    unfold State.clocksJudged
    split
    · exact hl1.setBand_l5 _ _
    · exact hl1
  exact ⟨_, exec_feClockMeasure_runs dt l1 l5 s (s.gnssRuns_iff.2 ⟨h0, h4⟩), hboth.fault, hboth.since, hboth.shown,
    hboth.event, hboth.stopped⟩

/-- Two bands that were good and measure good show their bits again. -/
theorem State.clocksJudged_good (h1 : bandBad l1 = false) (h5 : bandBad l5 = false) :
    s.clocksJudged l1 l5 = if s.man.gnssDual then s.bandBits.bandBits else s.bandBits := by
  have hsame (u : State) (band : Nat) {ppb : Option Int} (h : bandBad ppb = false) : u.judgeBand band ppb = u.bandBits := by
    rw [State.judgeBand, h, Bool.false_or, State.setBand_same]
  rw [State.clocksJudged, hsame s 0 h1, hsame s.bandBits 1 h5, State.bandBits_man]

theorem feClockMeasure_good (a b : Int) (h0 : s.get R.GNSS_STAT_STATE ≠ 0) (h4 : s.get R.GNSS_STAT_STATE ≠ 4)
    (ha : bandBad (some a) = false) (hb : bandBad (some b) = false) (h1 : s.gnss.fault1 = false)
    (h5 : s.gnss.fault5 = false) :
    ∃ t, exec (.feClockMeasure dt (some a) (some b)) s = .next t ∧ t.gnss.fault1 = false ∧ t.gnss.fault5 = false ∧
      t.get R.GNSS_STAT_L1_OK = 1 ∧ t.get R.GNSS_STAT_L5_OK = 1 ∧ t.get R.GNSS_FE_STAT_L1_CLK = 1 ∧
      t.get R.GNSS_FE_STAT_L5_CLK = 1 := by
  have hr : s.gnssRuns = true := s.gnssRuns_iff.2 ⟨h0, h4⟩
  have hshown (u : State) (hu : u.gnss = s.gnss) (hur : u.gnssRuns = true) (hc1 : u.get R.GNSS_FE_STAT_L1_CLK = 1)
      (hc5 : u.get R.GNSS_FE_STAT_L5_CLK = 1) :
      u.bandBits.gnss.fault1 = false ∧ u.bandBits.gnss.fault5 = false ∧ u.bandBits.get R.GNSS_STAT_L1_OK = 1 ∧
        u.bandBits.get R.GNSS_STAT_L5_OK = 1 ∧ u.bandBits.get R.GNSS_FE_STAT_L1_CLK = 1 ∧
        u.bandBits.get R.GNSS_FE_STAT_L5_CLK = 1 := by
    have hu1 : u.gnss.fault1 = false := by rw [hu, h1]
    have hu5 : u.gnss.fault5 = false := by rw [hu, h5]
    obtain ⟨hl1, hl5⟩ := u.bandBits_good hur hu1 hu5
    simp (disch := decide) only [State.bandBits_gnss, State.bandBits_get]
    exact ⟨hu1, hu5, hl1, hl5, hc1, hc5⟩
  have hruns : ((s.advance dt).clocksShown (some a) (some b)).gnssRuns = true := (State.clocksShown_gnssRuns _ _ _).trans hr
  obtain ⟨hc1, hc5⟩ := (s.advance dt).clocksShown_shows (some a) (some b)
  refine ⟨_, exec_feClockMeasure_runs dt (some a) (some b) s hr, ?_⟩
  rw [State.clocksJudged_good _ _ _ ha hb]
  split
  · have hagain := ((s.advance dt).clocksShown (some a) (some b)).bandBits_runs h1
    refine hshown _ (State.bandBits_gnss _) (hagain.trans hruns) ?_ ?_
    · exact (State.bandBits_get _ _ (by decide) (by decide) (by decide)).trans hc1
    · exact (State.bandBits_get _ _ (by decide) (by decide) (by decide)).trans hc5
  · exact hshown _ rfl hruns hc1 hc5

end

/-! ### Retries of a faulted band (R120, R121) -/

section
variable (dt : Nat) (s : State)

/-- Neither band waits for a retry. -/
theorem exec_bandRetry_good (band : Nat) (ppb : Option Int) (ok : Bool) (h1 : s.gnss.fault1 = false)
    (h5 : s.gnss.fault5 = false) : exec (.bandRetry dt band ppb ok) s = .next (s.advance dt) :=
  if_pos (by simp [h1, h5])

/-- The front end of the L1 band answers a retry: its clock is there, and its script was read back. -/
def State.l1Answers : State := (s.setB R.GNSS_FE_STAT_L1_CLK true).set R.GNSS_FE_STAT_SCRIPT_ERR 0

theorem State.l1Answers_gnssRuns : s.l1Answers.gnssRuns = s.gnssRuns := by
  unfold State.gnssRuns State.l1Answers
  simp (disch := decide) only [State.get_set_ne, State.setB_get_ne]

theorem exec_bandRetry_recovers (p : Int) (hf : s.gnss.fault1 = true) (ht : s.gnss.faultAt1 + 10000000000 ≤ s.now + dt)
    (hb : bandBad (some p) = false) :
    exec (.bandRetry dt 0 (some p) true) s = .next ((s.advance dt).l1Answers.setBand 0 false true) := by
  have hdue : ¬ s.now + dt < s.gnss.faultAt1 + 10000000000 := Nat.not_lt.2 ht
  exact (if_neg (by simp [hf, hdue])).trans (if_neg (by simp [hb]))

theorem bandRetry_recovers (p : Int) (h0 : s.get R.GNSS_STAT_STATE ≠ 0) (h4 : s.get R.GNSS_STAT_STATE ≠ 4)
    (hf : s.gnss.fault1 = true) (ht : s.gnss.faultAt1 + 10000000000 ≤ s.now + dt) (hb : bandBad (some p) = false) :
    ∃ t, exec (.bandRetry dt 0 (some p) true) s = .next t ∧ t.gnss.fault1 = false ∧ t.get R.GNSS_STAT_L1_OK = 1 ∧
      t.get R.GNSS_FE_STAT_SCRIPT_ERR = 0 ∧ t.gnss.fault5 = s.gnss.fault5 := by
  have hruns : (s.advance dt).l1Answers.gnssRuns = true :=
    (State.l1Answers_gnssRuns _).trans (s.gnssRuns_iff.2 ⟨h0, h4⟩)
  refine ⟨_, exec_bandRetry_recovers dt s p hf ht hb, ?_⟩
  rw [State.setBand_gnss, State.setBand_l1, hruns, State.setBand_get _ _ _ _ _ (by decide) (by decide)]
  exact ⟨rfl, rfl, State.get_set_same _ _ _ _, rfl⟩

/-! ### Start (R121, R132) -/

theorem State.startKind_lt : s.startKind < 4 := by
  unfold State.startKind
  split
  · decide
  · split_ifs <;> decide

/-- The receiver as a start finds its data and the scripts of its front ends. -/
def State.gnssStarted (script1 script5 : Bool) : State :=
  let u := (s.set R.GNSS_STAT_STATE 2).set R.GNSS_STAT_START_KIND s.startKind
  let v := (u.setB R.GNSS_STAT_RETAIN_OK u.gnssRet.isSome).setSat R.GNSS_EPH_AGE_START_MIN u.ephAge
  let w := v.setB R.GNSS_FE_STAT_SCRIPT_ERR (!script1 || (v.man.gnssDual && !script5))
  w.putGnss { w.gnss with
    solsRun := 0, firstDone := false, coldReq := false
    poweredAt := if s.get R.GNSS_STAT_STATE = 0 then w.now else w.gnss.poweredAt }

theorem State.gnssStarted_shows : (s.gnssStarted true true).get R.GNSS_STAT_STATE = 2 ∧
    (s.gnssStarted true true).get R.GNSS_STAT_START_KIND = s.startKind ∧
    (s.gnssStarted true true).get R.GNSS_FE_STAT_SCRIPT_ERR = 0 := by
  unfold State.gnssStarted
  simp (disch := decide) only [State.putGnss_get, State.setB_get_ne, State.setSat_get_ne, State.get_set_ne,
    State.get_set_same, Bool.not_true, Bool.and_false, Bool.or_false]
  exact ⟨rfl, Nat.mod_eq_of_lt s.startKind_lt, State.get_setB_same _ _ _ _ rfl⟩

/-- Both scripts read back: the faults of the bands stay, and their bits are shown. -/
theorem exec_gnssStart_starts (h : s.get R.GNSS_STAT_STATE = 0 ∨ s.get R.GNSS_STAT_STATE = 1) (hm : s.mode ≠ 0) :
    ∃ e, exec (.gnssStart dt true true) s = .next (((s.advance dt).gnssStarted true true).bandBits.bandBits.record e) := by
  have hgo : ¬(!(decide ((s.advance dt).get R.GNSS_STAT_STATE = 0) || decide ((s.advance dt).get R.GNSS_STAT_STATE = 1)) ||
      decide ((s.advance dt).mode = 0)) = true := by
    rcases h with h | h <;> simp [h, hm]
  have hl1 (u : State) : u.setBand 0 u.gnss.fault1 true = u.bandBits := u.setBand_same 0 true
  have hl5 (u : State) : u.setBand 1 u.gnss.fault5 true = u.bandBits := u.setBand_same 1 true
  rw [← hl5 ((s.advance dt).gnssStarted true true).bandBits, ← hl1 ((s.advance dt).gnssStarted true true)]
  exact ⟨_, if_neg hgo⟩

theorem gnssStart_starts (h : s.get R.GNSS_STAT_STATE = 0 ∨ s.get R.GNSS_STAT_STATE = 1) (hm : s.mode ≠ 0)
    (hf : s.gnss.fault1 = false) :
    ∃ t, exec (.gnssStart dt true true) s = .next t ∧ t.get R.GNSS_STAT_STATE = 2 ∧
      t.get R.GNSS_STAT_START_KIND = (s.advance dt).startKind ∧ t.get R.GNSS_FE_STAT_SCRIPT_ERR = 0 ∧ t.gnss.solsRun = 0 ∧
      t.gnss.coldReq = false ∧ t.gnssRet = s.gnssRet := by
  obtain ⟨e, hexec⟩ := exec_gnssStart_starts dt s h hm
  obtain ⟨hst, hkind, hscript⟩ := (s.advance dt).gnssStarted_shows
  have hstate (u : State) (hu1 : u.gnss.fault1 = false) (hu : u.get R.GNSS_STAT_STATE = 2) :
      u.bandBits.get R.GNSS_STAT_STATE = 2 := by
    rw [u.bandBits_state (u.noBand_of_l1 hu1), hu]
    rfl
  have hfix : ((s.advance dt).gnssStarted true true).bandBits.get R.GNSS_STAT_STATE = 2 := hstate _ hf hst
  refine ⟨_, hexec, ?_⟩
  simp (disch := decide) only [State.record_get, State.record_gnss, State.record_gnssRet, State.bandBits_get,
    State.bandBits_gnss, State.bandBits_gnssRet, hkind, hscript]
  exact ⟨hstate _ ((congrArg GnssSt.fault1 (State.bandBits_gnss _)).trans hf) hfix, trivial, trivial, rfl, rfl, rfl⟩

theorem exec_gnssStart_off (a b : Bool) (h : 2 ≤ s.get R.GNSS_STAT_STATE ∨ s.mode = 0) :
    exec (.gnssStart dt a b) s = .next (s.advance dt) := by
  refine if_pos ?_
  rcases h with h | h
  · simp [show s.get R.GNSS_STAT_STATE ≠ 0 by omega, show s.get R.GNSS_STAT_STATE ≠ 1 by omega]
  · simp [show (s.advance dt).mode = 0 from h]

/-! ### Acquisition and loss of a satellite (R119, R123) -/

/-- A channel tracks the satellite that its search found. -/
def State.satelliteFound (b constel prn cn0 : Nat) (doppler : Int) : State :=
  let u := ((s.set R.GNSS_CH_STAT_CONSTEL constel b).set R.GNSS_CH_STAT_PRN prn b).set R.GNSS_CH_STAT_LOCK 2 b
  let v := (u.set R.GNSS_CH_STAT_CN0 cn0 b).setI R.GNSS_CH_DOP_MHZ doppler b
  v.putGnss { v.gnss with reacqAt := tdel v.gnss.reacqAt b, wide := v.gnss.wide.filter (· ≠ b) }

theorem State.satelliteFound_shows {constel prn cn0 : Nat} (b : Nat) (doppler : Int) (hk : constel < 4) (hp : prn < 64)
    (hc : cn0 < 64) :
    (s.satelliteFound b constel prn cn0 doppler).get R.GNSS_CH_STAT_LOCK b = 2 ∧
    (s.satelliteFound b constel prn cn0 doppler).get R.GNSS_CH_STAT_CONSTEL b = constel ∧
    (s.satelliteFound b constel prn cn0 doppler).get R.GNSS_CH_STAT_PRN b = prn ∧
    (s.satelliteFound b constel prn cn0 doppler).get R.GNSS_CH_STAT_CN0 b = cn0 := by
  unfold State.satelliteFound
  dsimp only
  simp (disch := decide) only [State.putGnss_get, State.setI_get_ne, State.get_set_ne, State.get_set_same]
  exact ⟨rfl, Nat.mod_eq_of_lt hk, Nat.mod_eq_of_lt hp, Nat.mod_eq_of_lt (Nat.lt_trans hc (by decide))⟩

variable (ch : Nat)

/-- A channel's lock takes a value, and the counts follow it. -/
def State.lockCounted (b v : Nat) : State := (s.set R.GNSS_CH_STAT_LOCK v b).recount

theorem State.lockCounted_lock (b : Nat) {v : Nat} (hv : v < 4) : (s.lockCounted b v).get R.GNSS_CH_STAT_LOCK b = v :=
  (State.recount_get _ _ (by decide) (by decide)).trans ((State.get_set_same _ _ _ _).trans (Nat.mod_eq_of_lt hv))

theorem State.lockCounted_framed (b v : Nat) :
    Framed [loc R.GNSS_CH_STAT_LOCK b, loc R.GNSS_TRK_L1_TRK 0, loc R.GNSS_TRK_L5_TRK 0] s (s.lockCounted b v) :=
  State.recount_framed _ (List.subset_cons_self _ _) (set_framed _ _ _ _ (.inl List.mem_cons_self) (.refl _ s))

/-- The guard of a search's end lets the L1 band pass in a receiver that acquires or has a fix, while that band is good. -/
theorem acquisitionGuard_l1 (hch : ch < 48) (h : s.get R.GNSS_STAT_STATE = 2 ∨ s.get R.GNSS_STAT_STATE = 3)
    (hf : s.gnss.fault1 = false) :
    ¬(48 ≤ ch || !(s.get R.GNSS_STAT_STATE = 2 || s.get R.GNSS_STAT_STATE = 3) || (0 = 1 && !s.gnss.fault1) ||
      (0 = 0 && s.gnss.fault1)) = true := by
  rcases h with h | h <;> simp [h, hf, Nat.not_le.2 hch]

section
variable (constel prn cn0 : Nat) (doppler : Int) (hch : ch < 48)
  (h : s.get R.GNSS_STAT_STATE = 2 ∨ s.get R.GNSS_STAT_STATE = 3) (hf : s.gnss.fault1 = false)
include hch h hf

theorem exec_acquisitionDone_found : exec (.acquisitionDone dt 0 ch constel prn true doppler cn0 none) s =
    .next ((s.advance dt).satelliteFound ch constel prn cn0 doppler).recount :=
  (if_neg (acquisitionGuard_l1 (s.advance dt) ch hch h hf)).trans (if_neg Bool.false_ne_true)

theorem exec_acquisitionDone_lost : exec (.acquisitionDone dt 0 ch constel prn false doppler cn0 none) s =
    .next ((s.advance dt).lockCounted ch 0) :=
  (if_neg (acquisitionGuard_l1 (s.advance dt) ch hch h hf)).trans (if_pos rfl)

theorem acquisitionDone_found (hk : constel < 4) (hp : prn < 64) (hc : cn0 < 64) :
    ∃ t, exec (.acquisitionDone dt 0 ch constel prn true doppler cn0 none) s = .next t ∧
      t.get R.GNSS_CH_STAT_LOCK ch = 2 ∧ t.get R.GNSS_CH_STAT_CONSTEL ch = constel ∧ t.get R.GNSS_CH_STAT_PRN ch = prn ∧
      t.get R.GNSS_CH_STAT_CN0 ch = cn0 ∧ tfind t.gnss.reacqAt ch = none ∧ ch ∉ t.gnss.wide := by
  refine ⟨_, exec_acquisitionDone_found dt s ch constel prn cn0 doppler hch h hf, ?_⟩
  obtain ⟨hlock, hconst, hprn, hcn⟩ := (s.advance dt).satelliteFound_shows ch doppler hk hp hc
  simp (disch := decide) only [State.recount_get, State.recount_gnss, hlock, hconst, hprn, hcn]
  exact ⟨trivial, trivial, trivial, trivial, tfind_tdel_same _ _, fun hm => by simpa using List.of_mem_filter hm⟩

theorem acquisitionDone_lost :
    ∃ t, exec (.acquisitionDone dt 0 ch constel prn false doppler cn0 none) s = .next t ∧
      t.get R.GNSS_CH_STAT_LOCK ch = 0 ∧
      Framed [loc R.GNSS_CH_STAT_LOCK ch, loc R.GNSS_TRK_L1_TRK 0, loc R.GNSS_TRK_L5_TRK 0] (s.advance dt) t :=
  ⟨_, exec_acquisitionDone_lost dt s ch constel prn cn0 doppler hch h hf, State.lockCounted_lock _ ch (by decide),
    State.lockCounted_framed _ ch 0⟩

end

variable (band : Nat)

/-- A tracked satellite is lost: its narrow search begins. -/
theorem exec_satelliteLockLoss_tracked (h : 2 ≤ s.get R.GNSS_CH_STAT_LOCK (ch + 64 * band)) :
    exec (.satelliteLockLoss dt band ch) s = .next (((s.advance dt).lockCounted (ch + 64 * band) 1).putGnss { s.gnss with
      reacqAt := tput s.gnss.reacqAt (ch + 64 * band) (s.now + dt)
      wide := s.gnss.wide.filter (· ≠ ch + 64 * band) }) := if_neg (Nat.not_lt.2 h)

theorem satelliteLockLoss_tracked (h : 2 ≤ s.get R.GNSS_CH_STAT_LOCK (ch + 64 * band)) :
    ∃ t, exec (.satelliteLockLoss dt band ch) s = .next t ∧ t.get R.GNSS_CH_STAT_LOCK (ch + 64 * band) = 1 ∧
      tfind t.gnss.reacqAt (ch + 64 * band) = some (s.now + dt) ∧
      Framed [loc R.GNSS_CH_STAT_LOCK (ch + 64 * band), loc R.GNSS_TRK_L1_TRK 0, loc R.GNSS_TRK_L5_TRK 0]
        { s.advance dt with gnss := t.gnss } t :=
  ⟨_, exec_satelliteLockLoss_tracked dt s ch band h,
    (State.putGnss_get _ _ _ _).trans (State.lockCounted_lock _ _ (by decide)), tfind_tput_same _ _ _,
    (State.lockCounted_framed (s.advance dt) _ 1).withGnss _⟩

theorem exec_satelliteLockLoss_untracked (h : s.get R.GNSS_CH_STAT_LOCK (ch + 64 * band) < 2) :
    exec (.satelliteLockLoss dt band ch) s = .next (s.advance dt) := if_pos h

theorem exec_reacqWiden_idle (h : tfind s.gnss.reacqAt (ch + 64 * band) = none) :
    exec (.reacqWiden dt band ch) s = .next (s.advance dt) := by
  show execReacqWiden dt band ch s = _
  unfold execReacqWiden
  dsimp only
  rw [State.advance_gnss, h]

theorem exec_reacqWiden_widens {at_ : Nat} (h : tfind s.gnss.reacqAt (ch + 64 * band) = some at_)
    (ht : at_ + 10000000000 ≤ s.now + dt) (hl : s.get R.GNSS_CH_STAT_LOCK (ch + 64 * band) = 1)
    (hw : ch + 64 * band ∉ s.gnss.wide) :
    exec (.reacqWiden dt band ch) s =
      .next { s.advance dt with gnss := { s.gnss with wide := (ch + 64 * band) :: s.gnss.wide } } := by
  have hdue : at_ + 10000000000 ≤ (s.advance dt).now := ht
  show execReacqWiden dt band ch s = _
  unfold execReacqWiden
  dsimp only
  rw [State.advance_gnss, h]
  exact if_pos (by simp only [hdue, State.advance_get, hl, hw, decide_true, not_false_eq_true, Bool.and_self])

end

/-- Settles O23: each clause is the lemma of its command above. -/
theorem gnssBands : Obligations.GnssBands := by
  unfold Obligations.GnssBands
  exact ⟨feClockMeasure_faults, fun dt a b s => feClockMeasure_good dt s a b, exec_feClockMeasure_off,
    fun dt p s => bandRetry_recovers dt s p, fun dt b p ok s => exec_bandRetry_good dt s b p ok,
    gnssStart_starts, fun dt a b s => exec_gnssStart_off dt s a b,
    fun dt ch k prn cn d s hch hst hf => acquisitionDone_found dt s ch k prn cn d hch hst hf,
    fun dt ch k prn cn d s hch hst hf => acquisitionDone_lost dt s ch k prn cn d hch hst hf,
    fun dt b ch s _ _ => satelliteLockLoss_tracked dt s ch b,
    fun dt b ch s => exec_satelliteLockLoss_untracked dt s ch b,
    fun dt b ch _ s => exec_reacqWiden_widens dt s ch b, fun dt b ch s => exec_reacqWiden_idle dt s ch b⟩

end Sys2Proof.Machine
end

section
/-!
PROOF of the statement of 05_gnss_receiver.md about the receiver's sleep (GnssSleeps): a receiver whose channels all stop, what a
write in its role leaves, what falling asleep and waking show, and then each command.
-/

namespace Sys2Proof.Machine

open Sys2Proof

/-! ### All channels stop (R130, R132, R134) -/

section
variable (s : State)

/-- The channels of a band that track a satellite. -/
def State.tracked (band : Nat) : List Nat :=
  (List.range 48).filter fun c => 2 ≤ s.get R.GNSS_CH_STAT_LOCK (c + 64 * band)

theorem State.recount_shows : s.recount.get R.GNSS_TRK_L1_TRK = (s.tracked 0).length % 2 ^ 6 ∧
    s.recount.get R.GNSS_TRK_L5_TRK = (s.tracked 1).length % 2 ^ 6 := by
  unfold State.recount
  dsimp only
  rw [State.get_set_ne _ _ _ _ (by decide), State.get_set_same, State.get_set_same]
  exact ⟨rfl, rfl⟩

theorem State.tracked_eq_nil {band : Nat} (h : ∀ c, c < 48 → s.get R.GNSS_CH_STAT_LOCK (c + 64 * band) = 0) :
    s.tracked band = [] := by
  refine List.filter_eq_nil_iff.2 fun c hc => ?_
  rw [h c (List.mem_range.1 hc)]
  decide

/-- The channels of both bands stop, and the counts follow. -/
def State.channelsStopped : State := ((s.stopChannels 0).stopChannels 1).recount

theorem State.channelsStopped_lock {band : Nat} (hb : band < 2) {c : Nat} (hc : c < 48) :
    s.channelsStopped.get R.GNSS_CH_STAT_LOCK (c + 64 * band) = 0 := by
  have hl5 : Framed (regKeys 0 [] ++ lockKeys 1) (s.stopChannels 0) ((s.stopChannels 0).stopChannels 1) :=
    State.stopChannels_framed _ 1 (List.Subset.refl _) (.refl _ _)
  refine (State.recount_get _ _ (by decide) (by decide)).trans ?_
  obtain rfl | rfl : band = 0 ∨ band = 1 := by omega
  · exact (hl5.lock_other (by decide) (by decide) hc).trans (s.stopChannels_lock 0 hc)
  · exact State.stopChannels_lock _ 1 hc

theorem State.channelsStopped_counts :
    s.channelsStopped.get R.GNSS_TRK_L1_TRK = 0 ∧ s.channelsStopped.get R.GNSS_TRK_L5_TRK = 0 := by
  have hnone {band : Nat} (hb : band < 2) : ((s.stopChannels 0).stopChannels 1).tracked band = [] :=
    State.tracked_eq_nil _ fun c hc =>
      (State.recount_get _ _ (by decide) (by decide)).symm.trans (s.channelsStopped_lock hb hc)
  obtain ⟨h1, h5⟩ := ((s.stopChannels 0).stopChannels 1).recount_shows
  exact ⟨h1.trans (by rw [hnone (by decide)]; rfl), h5.trans (by rw [hnone (by decide)]; rfl)⟩

theorem State.channelsStopped_get {f : Fld} (b : Nat) (hl : fkey f ≠ fkey R.GNSS_CH_STAT_LOCK)
    (h1 : fkey f ≠ fkey R.GNSS_TRK_L1_TRK) (h5 : fkey f ≠ fkey R.GNSS_TRK_L5_TRK) :
    s.channelsStopped.get f b = s.get f b :=
  (State.recount_get _ _ h1 h5).trans ((State.stopChannels_get _ 1 b hl).trans (State.stopChannels_get s 0 b hl))

@[simp] theorem State.channelsStopped_gnss : s.channelsStopped.gnss = s.gnss := by
  have hkeeps (u : State) (band : Nat) : (u.stopChannels band).gnss = u.gnss :=
    u.stopChannels_keeps (·.gnss) (fun _ _ _ _ => rfl) band
  rw [State.channelsStopped, State.recount_gnss, hkeeps, hkeeps]

@[simp] theorem State.channelsStopped_gnssRet : s.channelsStopped.gnssRet = s.gnssRet := by
  have hkeeps (u : State) (band : Nat) : (u.stopChannels band).gnssRet = u.gnssRet :=
    u.stopChannels_keeps (·.gnssRet) (fun _ _ _ _ => rfl) band
  rw [State.channelsStopped, State.recount_gnssRet, hkeeps, hkeeps]

/-! ### A write in its role (R83) -/

/-- Awake, the session's idle time afresh: the state in which a command of the session takes effect. -/
def State.rwlTaken : State := { s.lullLeave 1 with role := { s.role with rwlAt := s.now } }

theorem State.withRole_rwlTaken {p : Port} {r : Role} (h : s.session p = some r) (off : Nat) (act : State → State) :
    s.withRole p [r] off act = act s.rwlTaken := State.withRole_granted s p [r] off act r h (List.mem_singleton.2 rfl)

theorem State.rwlTaken_framed :
    Framed (regKeys 0 lullFlds) { s with role := { s.role with rwlAt := s.now }, pwr := s.rwlTaken.pwr } s.rwlTaken :=
  (State.lullLeave_framed s 1).withRole { s.role with rwlAt := s.now }

@[simp] theorem State.rwlTaken_get {f : Fld} (b : Nat) (h : lullKeeps f = true) : s.rwlTaken.get f b = s.get f b :=
  State.lullLeave_get s 1 b h

theorem State.rwlTaken_gnss : s.rwlTaken.gnss = s.gnss := State.lullLeave_gnss s 1

theorem State.rwlTaken_gnssRet : s.rwlTaken.gnssRet = s.gnssRet := State.lullLeave_gnssRet s 1

@[simp] theorem State.putGnss_gnssRet (x : GnssSt) : (s.putGnss x).gnssRet = s.gnssRet := rfl

/-! ### Falling asleep (R130) -/

/-- The conditions of sleep depend on the mode, the step of the clock, the sources, the refresh and the state alone. -/
theorem State.maySleep_congr {s t : State} (hm : t.get R.MODE_STAT_MODE = s.get R.MODE_STAT_MODE)
    (hs : t.get R.TIME_STAT_STEPPED = s.get R.TIME_STAT_STEPPED) (hst : t.get R.GNSS_STAT_STATE = s.get R.GNSS_STAT_STATE)
    (hman : t.man = s.man) (hg : t.gnss = s.gnss) : t.maySleep = s.maySleep := by
  unfold State.maySleep State.mode State.stepped State.flag
  rw [hm, hs, hst, hman, hg]

theorem State.rwlTaken_maySleep : s.rwlTaken.maySleep = s.maySleep :=
  State.maySleep_congr (s.rwlTaken_get 0 (by decide)) (s.rwlTaken_get 0 (by decide)) (s.rwlTaken_get 0 (by decide))
    (State.lullLeave_man s 1) s.rwlTaken_gnss

variable (ret : GnssRet) (cause : Nat)

/-- The data of a receiver that falls asleep: the retained data is written, and no request waits. -/
def State.sleepKept : State :=
  { s with
    gnssRet := some ret
    gnss := { s.gnss with sleepReq := false, refreshAt := none, sol := none, lastOffset := none } }

/-- The registers of a receiver that falls asleep: SLEEP, its channels stopped, the bits of its bands following. -/
def State.asleep : State := ((s.sleepKept ret).set R.GNSS_STAT_STATE 4).channelsStopped.bandBits

theorem State.gnssSleep_eq : s.gnssSleep ret cause = ((s.asleep ret).evt R.GNSS_EVT_SLEPT).record
    { code := 0x0604, items := [caseItem 0x0604 cause] } := rfl

theorem State.asleep_gnss : (s.asleep ret).gnss = (s.sleepKept ret).gnss := by
  rw [State.asleep, State.bandBits_gnss, State.channelsStopped_gnss, State.set_gnss]

theorem State.asleep_gnssRet : (s.asleep ret).gnssRet = some ret := by
  rw [State.asleep, State.bandBits_gnssRet, State.channelsStopped_gnssRet, State.set_gnssRet]
  rfl

theorem State.asleep_state : (s.asleep ret).get R.GNSS_STAT_STATE = 4 := by
  have hst : ((s.sleepKept ret).set R.GNSS_STAT_STATE 4).channelsStopped.get R.GNSS_STAT_STATE = 4 :=
    (State.channelsStopped_get _ _ (by decide) (by decide) (by decide)).trans (State.get_set_same _ _ _ _)
  rw [State.asleep, State.bandBits_state _ (by simp [State.noBand, hst]), hst]
  rfl

theorem State.asleep_lock {band : Nat} (hb : band < 2) {c : Nat} (hc : c < 48) :
    (s.asleep ret).get R.GNSS_CH_STAT_LOCK (c + 64 * band) = 0 :=
  (State.bandBits_get _ _ (by decide) (by decide) (by decide)).trans (State.channelsStopped_lock _ hb hc)

theorem State.gnssSleep_shows : (s.gnssSleep ret cause).gnssRet = some ret ∧
    (s.gnssSleep ret cause).gnss = (s.sleepKept ret).gnss ∧ (s.gnssSleep ret cause).get R.GNSS_STAT_STATE = 4 ∧
    (s.gnssSleep ret cause).get R.GNSS_EVT_SLEPT = 1 := by
  rw [State.gnssSleep_eq]
  simp (disch := decide) only [State.record_gnssRet, State.record_gnss, State.record_get, State.evt_gnssRet, State.evt_gnss,
    State.evt_get_ne, State.evt_get_same, State.asleep_gnssRet, State.asleep_gnss, State.asleep_state]
  exact ⟨trivial, trivial, trivial, rfl⟩

theorem State.gnssSleep_lock {band : Nat} (hb : band < 2) {c : Nat} (hc : c < 48) :
    (s.gnssSleep ret cause).get R.GNSS_CH_STAT_LOCK (c + 64 * band) = 0 := by
  rw [State.gnssSleep_eq, State.record_get _ _ _ (by decide), State.evt_get_ne _ _ _ (by decide) (by decide),
    s.asleep_lock ret hb hc]

/-! ### Waking (R131) -/

/-- A receiver that wakes: a start follows, and its time to a first fix counts from here. -/
def State.woken : State :=
  ((s.set R.GNSS_STAT_STATE 1).inc R.GNSS_TTFF_WAKES).putGnss
    { s.gnss with sleepReq := false, poweredAt := s.now, firstDone := false, solsRun := 0 }

section
variable (role : Role) (keyId : Nat) (h : s.get R.GNSS_STAT_STATE = 4)
include h

theorem State.gnssWake_asleep : s.gnssWake cause role keyId = (s.woken.evt R.GNSS_EVT_WOKE).record
    { code := 0x0604, role := role, keyId := keyId, items := [caseItem 0x0604 cause] } := if_neg (not_not.2 h)

theorem State.gnssWake_shows : (s.gnssWake cause role keyId).get R.GNSS_STAT_STATE = 1 ∧
    (s.gnssWake cause role keyId).get R.GNSS_EVT_WOKE = 1 ∧ (s.gnssWake cause role keyId).gnssRet = s.gnssRet ∧
    (s.gnssWake cause role keyId).now = s.now := by
  rw [s.gnssWake_asleep cause role keyId h]
  unfold State.woken
  simp (disch := decide) only [State.record_get, State.record_gnssRet, State.record_now, State.evt_get_ne,
    State.evt_get_same, State.evt_gnssRet, State.evt_now, State.putGnss_get, State.inc_get_ne, State.get_set_same]
  exact ⟨rfl, rfl, rfl, rfl⟩

end

end

/-! ### Commands of the host (R130, R131, R132) -/

section
variable (dt : Nat) (p : Port) (s : State)

/-- Without a session, the commands of the receiver are ignored. -/
theorem exec_gnssCmds_denied (c : Instr) (hc : c ∈ [Instr.gnssSleepCmd dt p, .gnssWakeCmd dt p, .gnssColdCmd dt p])
    (h : s.session p = none) : exec c s = .next (((s.advance dt).lullLeave 1).rwlIgnored p 0x5004) := by
  have hdenied (roles : List Role) (act : State → State) :
      (s.advance dt).withRole p roles 0x5004 act = ((s.advance dt).lullLeave 1).rwlIgnored p 0x5004 :=
    State.withRole_denied _ _ _ _ _ fun r hr => by
      rw [State.advance_session, h] at hr
      cases hr
  simp only [List.mem_cons, List.not_mem_nil, or_false] at hc
  rcases hc with rfl | rfl | rfl <;> exact congrArg Host.Outcome.next (hdenied _ _)

section
variable (h : s.session p = some .operator)
include h

theorem exec_gnssSleepCmd_may (hm : (s.advance dt).maySleep = true) :
    exec (.gnssSleepCmd dt p) s = .next ((s.advance dt).rwlTaken.putGnss { s.gnss with sleepReq := true }) := by
  have hgnss : (s.advance dt).rwlTaken.gnss = s.gnss := State.rwlTaken_gnss _
  rw [← hgnss]
  exact congrArg Host.Outcome.next ((State.withRole_rwlTaken (s.advance dt) h _ _).trans
    (if_pos ((State.rwlTaken_maySleep _).trans hm)))

theorem exec_gnssSleepCmd_mayNot (hm : (s.advance dt).maySleep = false) :
    ∃ e, exec (.gnssSleepCmd dt p) s = .next ((s.advance dt).rwlTaken.record e) :=
  ⟨_, congrArg Host.Outcome.next ((State.withRole_rwlTaken (s.advance dt) h _ _).trans
    (if_neg (ne_true_of_eq_false ((State.rwlTaken_maySleep _).trans hm))))⟩

theorem gnssSleepCmd_requests (hm : (s.advance dt).maySleep = true) :
    ∃ t, exec (.gnssSleepCmd dt p) s = .next t ∧ t.gnss.sleepReq = true ∧
      Framed (regKeys 0 lullFlds) { s.advance dt with
        role := { s.role with rwlAt := s.now + dt }, pwr := t.pwr, gnss := { s.gnss with sleepReq := true } } t :=
  ⟨_, exec_gnssSleepCmd_may dt p s h hm, rfl, (s.advance dt).rwlTaken_framed.withGnss _⟩

theorem gnssSleepCmd_refused (hm : (s.advance dt).maySleep = false) :
    ∃ t, exec (.gnssSleepCmd dt p) s = .next t ∧
      Framed (regKeys 0 lullFlds) { s.advance dt with role := { s.role with rwlAt := s.now + dt }, pwr := t.pwr } t := by
  obtain ⟨e, hexec⟩ := exec_gnssSleepCmd_mayNot dt p s h hm
  refine ⟨_, hexec, ?_⟩
  rw [State.record_pwr]
  exact State.record_framed _ _ (s.advance dt).rwlTaken_framed

theorem exec_gnssWakeCmd_operator :
    exec (.gnssWakeCmd dt p) s = .next ((s.advance dt).rwlTaken.gnssWake 1 .operator s.role.keyId) :=
  congrArg Host.Outcome.next (State.withRole_rwlTaken (s.advance dt) h _ _)

theorem gnssWakeCmd_wakes (hst : s.get R.GNSS_STAT_STATE = 4) :
    ∃ t, exec (.gnssWakeCmd dt p) s = .next t ∧ t.get R.GNSS_STAT_STATE = 1 ∧ t.get R.GNSS_EVT_WOKE = 1 ∧
      t.gnssRet = s.gnssRet := by
  have hasleep : (s.advance dt).rwlTaken.get R.GNSS_STAT_STATE = 4 := (State.rwlTaken_get _ 0 (by decide)).trans hst
  obtain ⟨hstate, hwoke, hret, -⟩ := (s.advance dt).rwlTaken.gnssWake_shows 1 .operator s.role.keyId hasleep
  exact ⟨_, exec_gnssWakeCmd_operator dt p s h, hstate, hwoke, hret.trans (State.rwlTaken_gnssRet _)⟩

end

/-- The receiver's data after a cold command. -/
def State.coldGnss : GnssSt :=
  { s.gnss with coldReq := true, sol := none, solsRun := 0, firstDone := false, poweredAt := s.now, lastOffset := none }

/-- The retained data is gone, and the receiver is to start with no channel running. -/
def State.coldBegun (keyId : Nat) : State :=
  ((s.gnssDiscard 1 .installer keyId).set R.GNSS_STAT_STATE 1).channelsStopped

theorem State.gnssDiscard_gnssRet (reason : Nat) (role : Role) (keyId : Nat) :
    (s.gnssDiscard reason role keyId).gnssRet = none := by
  rw [State.gnssDiscard, State.record_gnssRet, State.evt_gnssRet]

theorem State.coldBegun_shows (keyId : Nat) :
    (s.coldBegun keyId).gnssRet = none ∧ (s.coldBegun keyId).get R.GNSS_STAT_STATE = 1 ∧
      (s.coldBegun keyId).get R.GNSS_TRK_L1_TRK = 0 ∧ (s.coldBegun keyId).get R.GNSS_TRK_L5_TRK = 0 := by
  refine ⟨?_, ?_, State.channelsStopped_counts _⟩
  · rw [State.coldBegun, State.channelsStopped_gnssRet, State.set_gnssRet, State.gnssDiscard_gnssRet]
  · rw [State.coldBegun, State.channelsStopped_get _ _ (by decide) (by decide) (by decide), State.get_set_same]
    rfl

theorem exec_gnssColdCmd_installer (h : s.session p = some .installer) : exec (.gnssColdCmd dt p) s =
    .next (((s.advance dt).rwlTaken.coldBegun s.role.keyId).putGnss
      ((s.advance dt).rwlTaken.coldBegun s.role.keyId).coldGnss) :=
  congrArg Host.Outcome.next (State.withRole_rwlTaken (s.advance dt) h _ _)

theorem gnssColdCmd_starts (h : s.session p = some .installer) :
    ∃ t, exec (.gnssColdCmd dt p) s = .next t ∧ t.gnssRet = none ∧ t.get R.GNSS_STAT_STATE = 1 ∧ t.gnss.coldReq = true ∧
      t.gnss.sol = none ∧ t.get R.GNSS_TRK_L1_TRK = 0 ∧ t.get R.GNSS_TRK_L5_TRK = 0 := by
  obtain ⟨hret, hstate, h1, h5⟩ := (s.advance dt).rwlTaken.coldBegun_shows s.role.keyId
  refine ⟨_, exec_gnssColdCmd_installer dt p s h, ?_⟩
  rw [State.putGnss_gnssRet, State.putGnss_get, State.putGnss_get, State.putGnss_get]
  exact ⟨hret, hstate, rfl, rfl, h1, h5⟩

end

/-! ### Sleep, retained data and refresh (R130, R131) -/

section
variable (dt : Nat) (r : GnssRet) (s : State)

theorem gnssSleepEntry_sleeps (hm : (s.advance dt).maySleep = true)
    (hreq : s.gnss.sleepReq = true ∨ s.man.gnssSleepReady = true) :
    ∃ t, exec (.gnssSleepEntry dt r) s = .next t ∧ t.gnssRet = some r ∧ t.get R.GNSS_STAT_STATE = 4 ∧
      t.gnss.sleepReq = false ∧ t.get R.GNSS_EVT_SLEPT = 1 ∧ (∀ c, c < 48 → t.get R.GNSS_CH_STAT_LOCK c = 0) ∧
      (∀ c, c < 48 → t.get R.GNSS_CH_STAT_LOCK (c + 64) = 0) := by
  have hexec : exec (.gnssSleepEntry dt r) s = .next ((s.advance dt).gnssSleep r (if s.gnss.sleepReq then 1 else 0)) :=
    if_pos (by simpa [hm] using hreq)
  obtain ⟨hret, hgnss, hstate, hslept⟩ := (s.advance dt).gnssSleep_shows r (if s.gnss.sleepReq then 1 else 0)
  exact ⟨_, hexec, hret, hstate, congrArg GnssSt.sleepReq hgnss, hslept,
    fun c hc => State.gnssSleep_lock _ r _ (band := 0) (by decide) hc,
    fun c hc => State.gnssSleep_lock _ r _ (band := 1) (by decide) hc⟩

theorem exec_gnssSleepEntry_mayNot (hm : (s.advance dt).maySleep = false) :
    exec (.gnssSleepEntry dt r) s = .next (s.advance dt) := if_neg (by simp [hm])

theorem exec_retainWrite_tracking (h : s.get R.GNSS_TRK_L1_TRK + s.get R.GNSS_TRK_L5_TRK ≠ 0) :
    exec (.retainWrite dt r) s = .next { s.advance dt with gnssRet := some r } := if_neg h

theorem exec_retainWrite_idle (h1 : s.get R.GNSS_TRK_L1_TRK = 0) (h5 : s.get R.GNSS_TRK_L5_TRK = 0) :
    exec (.retainWrite dt r) s = .next (s.advance dt) := if_pos (by simp [h1, h5])

theorem exec_ephRefreshWake_awake (h : s.get R.GNSS_STAT_STATE ≠ 4) :
    exec (.ephRefreshWake dt) s = .next (s.advance dt) := if_neg (by simp [h])

theorem exec_ephRefreshWake_due (h : s.get R.GNSS_STAT_STATE = 4) (ht : s.man.ephRefresh ≤ (s.advance dt).ephAge) :
    exec (.ephRefreshWake dt) s = .next (((s.advance dt).gnssWake 3).putGnss
      { ((s.advance dt).gnssWake 3).gnss with refreshAt := some ((s.advance dt).gnssWake 3).now }) :=
  if_pos (by simp [h, ht])

theorem ephRefreshWake_wakes (h : s.get R.GNSS_STAT_STATE = 4) (ht : s.man.ephRefresh ≤ (s.advance dt).ephAge) :
    ∃ t, exec (.ephRefreshWake dt) s = .next t ∧ t.get R.GNSS_STAT_STATE = 1 ∧ t.gnss.refreshAt = some (s.now + dt) ∧
      t.gnssRet = s.gnssRet := by
  obtain ⟨hstate, -, hret, hnow⟩ := (s.advance dt).gnssWake_shows 3 .device 0 h
  exact ⟨_, exec_ephRefreshWake_due dt s h ht, hstate, congrArg some hnow, hret⟩

/-- The refresh is over. -/
def State.refreshOver : State := s.putGnss { s.gnss with refreshAt := none }

theorem exec_refreshEnd_idle (fresh : Bool) (h : s.gnss.refreshAt = none) :
    exec (.refreshEnd dt fresh r) s = .next (s.advance dt) := by
  show execRefreshEnd dt fresh r s = _
  unfold execRefreshEnd
  dsimp only
  rw [State.advance_gnss, h]

theorem exec_refreshEnd_sleeps {at_ : Nat} (h : s.gnss.refreshAt = some at_)
    (hm : (s.advance dt).refreshOver.maySleep = true) :
    exec (.refreshEnd dt true r) s = .next ((s.advance dt).refreshOver.gnssSleep r 3) := by
  show execRefreshEnd dt true r s = _
  unfold execRefreshEnd
  dsimp only
  rw [State.advance_gnss, h]
  exact (if_pos rfl).trans (if_pos hm)

theorem refreshEnd_sleeps {at_ : Nat} (h : s.gnss.refreshAt = some at_) (hmode : s.mode = 2) (hs : s.stepped = true)
    (hst : s.get R.GNSS_STAT_STATE = 3) :
    ∃ t, exec (.refreshEnd dt true r) s = .next t ∧ t.gnssRet = some r ∧ t.get R.GNSS_STAT_STATE = 4 ∧
      t.gnss.refreshAt = none := by
  have hm : (s.advance dt).refreshOver.maySleep = true := by
    have hmode' : (s.advance dt).refreshOver.mode = 2 := hmode
    have hs' : (s.advance dt).refreshOver.stepped = true := hs
    have hst' : (s.advance dt).refreshOver.get R.GNSS_STAT_STATE = 3 := hst
    have href : (s.advance dt).refreshOver.gnss.refreshAt = none := rfl
    simp [State.maySleep, hmode', hs', hst', href]
  obtain ⟨hret, hgnss, hstate, -⟩ := (s.advance dt).refreshOver.gnssSleep_shows r 3
  exact ⟨_, exec_refreshEnd_sleeps dt r s h hm, hret, hstate, congrArg GnssSt.refreshAt hgnss⟩

end

/-- Settles O25: each clause is the lemma of its command above. -/
theorem gnssSleeps : Obligations.GnssSleeps := by
  unfold Obligations.GnssSleeps
  exact ⟨gnssSleepCmd_requests, gnssSleepCmd_refused, gnssSleepEntry_sleeps, exec_gnssSleepEntry_mayNot,
    gnssWakeCmd_wakes, gnssColdCmd_starts,
    fun dt p s c hc h => ⟨_, exec_gnssCmds_denied dt p s c hc h, State.lullLeave_rwlIgnored_framed _ p 1 0x5004⟩,
    exec_retainWrite_tracking, exec_retainWrite_idle, ephRefreshWake_wakes, exec_ephRefreshWake_awake,
    fun dt _ r s => refreshEnd_sleeps dt r s, fun dt f r s => exec_refreshEnd_idle dt r s f⟩

end Sys2Proof.Machine
end

section
/-!
PROOF that the statement of 06_estimation.md about the estimator's updates fails (EstimatorUpdates): where an update is abandoned the
helm builds without it (R180), and a blend to READY commits the helm's own points there and then.
-/

namespace Sys2Proof.Machine

open Sys2Proof

/-! ### An update abandoned in a blend to READY (R143, R180, R188) -/

/-- READY with half of the blend to it done: the helm is to build on the update that began at 0, and the manifest binds the helm's point
of the surge force, 0x0D00_0000. -/
def blendToReadyUnderWay : State :=
  { State.reset.set R.MODE_STAT_MODE 2 with
    man := { points := [{ addr := 0x0D000000, out := true }] }
    est := { running := some (0, 7) }
    helm := { buildDue := true, blend := some { n := 50, len := 100, toReady := true } } }

/-- The helm builds at the abandonment and commits that point. -/
theorem estUpdateAbandon_blendToReadyUnderWay_commits :
    (after blendToReadyUnderWay (exec (.estUpdateAbandon 9000000) blendToReadyUnderWay)).commits ≠ [] := by
  decide +kernel

/-- Refutes O27: the clause of EST_UPDATE_ABANDON says that what waits to be committed stays as it is, and its hypotheses allow a
helm that builds on the abandoned update, whose points a blend to READY commits at once. -/
theorem not_estimatorUpdates : ¬ Obligations.EstimatorUpdates := by
  intro h
  obtain ⟨-, -, -, habandon, -⟩ := h
  obtain ⟨t, ht, -, -, -, -, -, hstay, -⟩ := habandon 9000000 0 7 blendToReadyUnderWay rfl (by decide)
  have hcommits := estUpdateAbandon_blendToReadyUnderWay_commits
  rw [ht] at hcommits
  exact hcommits hstay

end Sys2Proof.Machine
end

section
/-!
PROOF of the statement of 06_estimation.md about source slots (SourceSlots): the rules of the estimator's own data, what a slot shows
when it changes status, and then each command. The statement about object tracks that follows uses the rules.
-/

namespace Sys2Proof.Machine

open Sys2Proof

/-! ### The data of the estimator -/

section
variable {ks : List Nat} {s t : State} (x : EstSt)

theorem Framed.withEst (h : Framed ks s t) : Framed ks { s with est := x } { t with est := x } :=
  ⟨congrArg (fun u : State => { u with est := x }) h.plain, h.regs⟩

theorem Framed.est_eq (h : Framed ks s t) : t.est = s.est := State.of_plain_est h.plain

variable {x}

/-- A frame over given data of the estimator is a frame over the data the command leaves. -/
theorem Framed.ownEst (h : Framed ks { s with est := x } t) : Framed ks { s with est := t.est } t := by
  rw [h.est_eq]
  exact h

end

section
variable (s : State) (dt n : Nat) (x : EstSlotSt)

theorem State.advance_slotCfg : (s.advance dt).slotCfg n = s.slotCfg n := rfl
theorem State.advance_slotStatus : (s.advance dt).slotStatus n = s.slotStatus n := rfl

@[simp] theorem State.putSlot_slotSt : (s.putSlot n x).slotSt n = x := by
  simp [State.putSlot, State.slotSt, tget]

@[simp] theorem State.putSlot_get (f : Fld) (b : Nat) : (s.putSlot n x).get f b = s.get f b := rfl

@[simp] theorem State.record_slotSt (e : Ev) : (s.record e).slotSt n = s.slotSt n := by
  unfold State.slotSt
  rw [State.record_est]

@[simp] theorem State.record_slotStatus (e : Ev) : (s.record e).slotStatus n = s.slotStatus n :=
  State.record_get _ _ _ (by decide)

/-- A field's write leaves every slot's status. -/
theorem State.set_slotStatus {f : Fld} (v b : Nat) (h : fkey R.EST_SRC_STAT_STATUS ≠ fkey f) :
    (s.set f v b).slotStatus n = s.slotStatus n := State.get_set_ne _ _ _ _ h

end

/-- The group of a slot is the manifest's. -/
theorem State.slotGroup_congr {s t : State} (h : t.man = s.man) (n : Nat) : t.slotGroup n = s.slotGroup n := by
  unfold State.slotGroup State.slotCfg
  rw [h]

/-- The slots of a group with given statuses depend on the manifest and on the statuses alone. -/
theorem State.slotsIn_congr {s t : State} (hm : t.man = s.man) (hs : ∀ n, t.slotStatus n = s.slotStatus n) (g : Nat)
    (sts : List Nat) : t.slotsIn g sts = s.slotsIn g sts := by
  unfold State.slotsIn State.slotNums
  simp only [hm, hs, State.slotGroup_congr hm]

/-! ### A slot changes status (R154) -/

/-- The registers that show a slot's new status. -/
abbrev statusKeys (n : Nat) : List Nat := [loc R.EST_SRC_STAT_STATUS n, loc R.EST_EVT_SLOT_CHANGE 0]

section
variable (s : State) (n new cause : Nat)

/-- A slot shows its new status, and the change is told. -/
def State.statusShown : State :=
  ((s.set R.EST_SRC_STAT_STATUS new n).evt R.EST_EVT_SLOT_CHANGE).record
    { code := 0x0701, source := n, items := [(1, n), (1, s.slotStatus n), (1, new), caseItem 0x0701 cause] }

theorem State.setStatus_same (h : s.slotStatus n = new) : s.setStatus n new cause = s := if_pos h

/-- A slot that changes status shows it; one that returns to RE-ENTRY starts its count and its hold afresh. -/
theorem State.setStatus_changes (h : s.slotStatus n ≠ new) : s.setStatus n new cause =
    if new = 2 then (s.statusShown n new cause).putSlot n { (s.statusShown n new cause).slotSt n with
      reentry := 0, holdAt := (s.statusShown n new cause).now }
    else s.statusShown n new cause := if_neg h

theorem State.setStatus_shows (h : s.slotStatus n ≠ new) (h2 : new ≠ 2) :
    s.setStatus n new cause = s.statusShown n new cause := (s.setStatus_changes n new cause h).trans (if_neg h2)

theorem State.statusShown_framed {ks : List Nat} {s₀ : State} (hks : statusKeys n ⊆ ks) (h : Framed ks s₀ s) :
    Framed ks s₀ (s.statusShown n new cause) :=
  State.record_framed _ _ (State.evt_framed _ _ _ (.inl (hks (by simp))) (set_framed _ _ _ _ (.inl (hks (by simp))) h))

theorem State.statusShown_get {f : Fld} (b : Nat) (hn : noteFld f = false) (hs : fkey f ≠ fkey R.EST_SRC_STAT_STATUS)
    (he : fkey f ≠ fkey R.EST_EVT_SLOT_CHANGE) : (s.statusShown n new cause).get f b = s.get f b := by
  rw [State.statusShown, State.record_get _ _ _ hn, State.evt_get_ne _ _ _ hn he, State.get_set_ne _ _ _ _ hs]

theorem State.statusShown_slotStatus (hw : new < 16) : (s.statusShown n new cause).slotStatus n = new := by
  unfold State.slotStatus State.statusShown
  rw [State.record_get _ _ _ (by decide), State.evt_get_ne _ _ _ (by decide) (by decide), State.get_set_same]
  exact Nat.mod_eq_of_lt hw

theorem State.statusShown_slotStatus_ne {m : Nat} (h : m ≠ n) :
    (s.statusShown n new cause).slotStatus m = s.slotStatus m := by
  unfold State.slotStatus State.statusShown
  rw [State.record_get _ _ _ (by decide), State.evt_get_ne _ _ _ (by decide) (by decide), State.get_set_bank _ _ _ _ h]

theorem State.statusShown_event : (s.statusShown n new cause).get R.EST_EVT_SLOT_CHANGE = 1 := by
  rw [State.statusShown, State.record_get _ _ _ (by decide)]
  exact State.evt_get_same _ _ _ (by decide)

theorem State.statusShown_est : (s.statusShown n new cause).est = s.est :=
  (State.statusShown_framed s n new cause (List.Subset.refl _) (.refl _ s)).est_eq

/-- Beside a slot's own data, a change of status writes what shows it alone. -/
theorem State.setStatus_keeps {β : Type} (p : State → β) (hshow : p (s.statusShown n new cause) = p s)
    (hput : ∀ u x, p (State.putSlot u n x) = p u) : p (s.setStatus n new cause) = p s := by
  by_cases h : s.slotStatus n = new
  · rw [State.setStatus_same _ _ _ _ h]
  · rw [State.setStatus_changes _ _ _ _ h]
    split
    · rw [hput, hshow]
    · exact hshow

theorem State.setStatus_slotStatus (hw : new < 16) : (s.setStatus n new cause).slotStatus n = new := by
  by_cases h : s.slotStatus n = new
  · rw [State.setStatus_same _ _ _ _ h, h]
  · rw [State.setStatus_changes _ _ _ _ h]
    split <;> exact State.statusShown_slotStatus _ _ _ _ hw

theorem State.setStatus_slotStatus_ne {m : Nat} (h : m ≠ n) : (s.setStatus n new cause).slotStatus m = s.slotStatus m :=
  s.setStatus_keeps n new cause (·.slotStatus m) (s.statusShown_slotStatus_ne n new cause h) (fun _ _ => rfl)

theorem State.setStatus_get {f : Fld} (b : Nat) (hn : noteFld f = false) (hs : fkey f ≠ fkey R.EST_SRC_STAT_STATUS)
    (he : fkey f ≠ fkey R.EST_EVT_SLOT_CHANGE) : (s.setStatus n new cause).get f b = s.get f b :=
  s.setStatus_keeps n new cause (·.get f b) (s.statusShown_get n new cause b hn hs he) (fun _ _ => rfl)

theorem State.setStatus_pts : (s.setStatus n new cause).pts = s.pts :=
  s.setStatus_keeps n new cause (·.pts)
    (State.of_plain_pts (s.statusShown_framed n new cause (List.Subset.refl _) (.refl _ s)).plain) (fun _ _ => rfl)

theorem State.setStatus_disputes : (s.setStatus n new cause).est.disputes = s.est.disputes :=
  s.setStatus_keeps n new cause (·.est.disputes) (congrArg EstSt.disputes (s.statusShown_est n new cause)) (fun _ _ => rfl)

/-- A slot that returns to RE-ENTRY keeps its mask as it is and starts its count afresh. -/
theorem State.setStatus_reenters (h : s.slotStatus n ≠ 2) :
    ((s.setStatus n 2 cause).slotSt n).skewMask = (s.slotSt n).skewMask ∧
      ((s.setStatus n 2 cause).slotSt n).reentry = 0 ∧
      Framed (statusKeys n) { s with est := (s.setStatus n 2 cause).est } (s.setStatus n 2 cause) := by
  rw [State.setStatus_changes _ _ _ _ h, if_pos rfl, State.putSlot_slotSt]
  refine ⟨?_, rfl, (State.statusShown_framed s n 2 cause (List.Subset.refl _) (.refl _ s)).withEst _⟩
  unfold State.slotSt
  rw [State.statusShown_est]

/-- Slots that take a status all show it. -/
theorem foldl_setStatus_slotStatus (hw : new < 16) (l : List Nat) {m : Nat} (hm : m ∈ l ∨ s.slotStatus m = new) :
    (l.foldl (fun (u : State) k => u.setStatus k new cause) s).slotStatus m = new := by
  induction l generalizing s with
  | nil => exact hm.resolve_left List.not_mem_nil
  | cons k l ih =>
    refine ih _ ?_
    by_cases hk : m = k
    · subst hk
      exact .inr (State.setStatus_slotStatus s m new cause hw)
    · rw [State.setStatus_slotStatus_ne _ _ _ _ hk]
      exact hm.imp_left fun h => (List.mem_cons.1 h).resolve_left hk

end

/-! ### Slots freeze, recover and wait (R138, R140, R147) -/

section
variable (dt n : Nat) (s : State)

theorem exec_sourceFrozen_absent (h : s.slotCfg n = none) : exec (.sourceFrozen dt n) s = .next (s.advance dt) := by
  show execSourceFrozen dt n s = _
  unfold execSourceFrozen
  dsimp only
  rw [State.advance_slotCfg, h]

section
variable (c : EstSlotCfg) (hc : s.slotCfg n = some c)
include hc

section
variable (hseen : (s.slotSt n).seen = true)
  (ht : (s.slotSt n).changedAt + c.freezeMs * 1000000 ≤ (s.slotSt n).lastAt)
  (hf : s.get R.EST_SRC_STAT_FROZEN n = 0) (hst : s.slotStatus n ∈ [1, 2, 3, 4])
include hseen ht hf hst

theorem exec_sourceFrozen_freezes :
    exec (.sourceFrozen dt n) s = .next (((s.advance dt).set R.EST_SRC_STAT_FROZEN 1 n).statusShown n 7 3) := by
  have hstatus : ((s.advance dt).set R.EST_SRC_STAT_FROZEN 1 n).slotStatus n = s.slotStatus n :=
    State.set_slotStatus _ _ _ _ (by decide)
  simp only [List.mem_cons, List.not_mem_nil, or_false] at hst
  show execSourceFrozen dt n s = _
  unfold execSourceFrozen
  dsimp only
  rw [State.advance_slotCfg, hc]
  refine (if_pos ?_).trans (congrArg _ ((if_neg ?_).trans (State.setStatus_shows _ _ _ _ ?_ (by decide))))
  · simp only [Bool.and_eq_true, decide_eq_true_eq, Bool.not_eq_true', State.flag, decide_eq_false_iff_not]
    exact ⟨⟨hseen, ht⟩, fun e => absurd (hf.symm.trans e) (by decide)⟩
  · simp only [hstatus, Bool.or_eq_true, decide_eq_true_eq]
    omega
  · rw [hstatus]
    omega

theorem sourceFrozen_freezes :
    ∃ t, exec (.sourceFrozen dt n) s = .next t ∧ t.slotStatus n = 7 ∧ t.get R.EST_SRC_STAT_FROZEN n = 1 ∧
      t.get R.EST_EVT_SLOT_CHANGE = 1 ∧
      Framed [loc R.EST_SRC_STAT_FROZEN n, loc R.EST_SRC_STAT_STATUS n, loc R.EST_EVT_SLOT_CHANGE 0] (s.advance dt) t := by
  refine ⟨_, exec_sourceFrozen_freezes dt n s c hc hseen ht hf hst, State.statusShown_slotStatus _ n 7 3 (by decide), ?_,
    State.statusShown_event _ n 7 3,
    State.statusShown_framed _ n 7 3 (List.subset_cons_self _ _) (set_framed _ _ _ _ (.inl List.mem_cons_self) (.refl _ _))⟩
  rw [State.statusShown_get _ _ _ _ _ (by decide) (by decide) (by decide), State.get_set_same]
  rfl

end

section
variable (hst : s.slotStatus n ∈ [2, 3, 4]) (ht : (s.slotSt n).lastAt + c.staleMs * 1000000 ≤ s.now + dt)
include hst ht

theorem exec_slotWaiting_stale :
    exec (.slotWaiting dt n) s = .next ((s.advance dt).statusShown n 1 5) := by
  simp only [List.mem_cons, List.not_mem_nil, or_false] at hst
  show execSlotWaiting dt n s = _
  unfold execSlotWaiting
  dsimp only
  rw [State.advance_slotCfg, hc]
  refine (if_pos ?_).trans (congrArg _ (State.setStatus_shows _ _ _ _ ?_ (by decide)))
  · simp only [Bool.and_eq_true, Bool.or_eq_true, decide_eq_true_eq, or_assoc]
    exact ⟨hst, ht⟩
  · rw [State.advance_slotStatus]
    omega

theorem slotWaiting_waits :
    ∃ t, exec (.slotWaiting dt n) s = .next t ∧ t.slotStatus n = 1 ∧ t.get R.EST_EVT_SLOT_CHANGE = 1 ∧
      Framed (statusKeys n) (s.advance dt) t :=
  ⟨_, exec_slotWaiting_stale dt n s c hc hst ht, State.statusShown_slotStatus _ n 1 5 (by decide),
    State.statusShown_event _ n 1 5, State.statusShown_framed _ n 1 5 (List.Subset.refl _) (.refl _ _)⟩

end

end

theorem exec_slotWaiting_otherStatus (h : s.slotStatus n ∉ [2, 3, 4]) :
    exec (.slotWaiting dt n) s = .next (s.advance dt) := by
  simp only [List.mem_cons, List.not_mem_nil, or_false] at h
  show execSlotWaiting dt n s = _
  unfold execSlotWaiting
  dsimp only
  split
  · refine if_neg ?_
    simp only [Bool.and_eq_true, Bool.or_eq_true, decide_eq_true_eq, or_assoc]
    exact fun e => h e.1
  · rfl

/-- The skew of a slot is over: its mask and its run are cleared. -/
def State.skewCleared : State := s.putSlot n { s.slotSt n with skewMask := false, skewRun := 0 }

theorem exec_skewRecovered_below (h : (s.slotSt n).skewRun < 100) :
    exec (.skewRecovered dt n) s = .next (s.advance dt) := if_neg (by
  simp only [Bool.and_eq_true, decide_eq_true_eq, not_and, Nat.not_le]
  exact fun _ => h)

section
variable (hm : (s.slotSt n).skewMask = true) (hr : 100 ≤ (s.slotSt n).skewRun) (hst : s.slotStatus n = 7)
  (hf : s.get R.EST_SRC_STAT_FROZEN n = 0)
include hm hr hst hf

theorem exec_skewRecovered_recovers :
    exec (.skewRecovered dt n) s = .next (((s.advance dt).skewCleared n).setStatus n 2 4) := by
  have hstatus : ((s.advance dt).skewCleared n).slotStatus n = 7 := hst
  have hfrozen : ((s.advance dt).skewCleared n).flag R.EST_SRC_STAT_FROZEN n = false := decide_eq_false (by
    rw [State.skewCleared, State.putSlot_get, State.advance_get, hf]
    decide)
  refine (if_pos ?_).trans (congrArg _ (if_pos ?_))
  · simp only [Bool.and_eq_true, decide_eq_true_eq]
    exact ⟨hm, hr⟩
  · exact Bool.and_eq_true_iff.2 ⟨decide_eq_true hstatus, by rw [← State.skewCleared, hfrozen]; rfl⟩

theorem skewRecovered_recovers :
    ∃ t, exec (.skewRecovered dt n) s = .next t ∧ t.slotStatus n = 2 ∧ (t.slotSt n).skewMask = false ∧
      (t.slotSt n).reentry = 0 ∧ Framed (statusKeys n) { s.advance dt with est := t.est } t := by
  have hne : ((s.advance dt).skewCleared n).slotStatus n ≠ 2 := fun e => absurd (hst.symm.trans e) (by decide)
  obtain ⟨hmask, hcount, hframe⟩ := State.setStatus_reenters ((s.advance dt).skewCleared n) n 4 hne
  refine ⟨_, exec_skewRecovered_recovers dt n s hm hr hst hf, State.setStatus_slotStatus _ _ _ _ (by decide),
    hmask.trans ?_, hcount, hframe⟩
  rw [State.skewCleared, State.putSlot_slotSt]

end

end

/-! ### Disputes end (R151) -/

section
variable (s : State) (g cause : Nat)

theorem State.disputeStop_disputing {d : Dispute} (h : tfind s.est.disputes g = some d) : ∃ e items,
    s.disputeStop g cause = ((({ s with est := { s.est with disputes := tdel s.est.disputes g } } : State).evt
      R.EST_EVT_DISPUTE_END).record e).clearAlarm 0x0702 g items 3 := by
  unfold State.disputeStop
  rw [h]
  exact ⟨_, _, rfl⟩

theorem State.disputeStop_shows {d : Dispute} (h : tfind s.est.disputes g = some d) :
    tfind (s.disputeStop g cause).est.disputes g = none ∧ (s.disputeStop g cause).get R.EST_EVT_DISPUTE_END = 1 ∧
      (s.disputeStop g cause).pts = s.pts := by
  obtain ⟨e, items, heq⟩ := s.disputeStop_disputing g cause h
  rw [heq]
  simp (disch := decide) only [State.clearAlarm_est, State.record_est, State.evt_est, State.clearAlarm_get, State.record_get,
    State.evt_get_same, State.clearAlarm_pts, State.record_pts, State.evt_pts]
  exact ⟨tfind_tdel_same _ _, rfl, trivial⟩

theorem State.disputeBits_get {f : Fld} (b : Nat) (hs : fkey f ≠ fkey R.EST_DISPUTE_SLOTS)
    (hd : fkey f ≠ fkey R.EST_STAT_DISPUTE) : s.disputeBits.get f b = s.get f b :=
  (State.setB_get_ne _ _ _ _ hd).trans (State.get_set_ne _ _ _ _ hs)

/-- The slots of a group in dispute are in use again. -/
def State.disputeSettled : State := (s.slotsIn g [5]).foldl (fun (u : State) n => u.setStatus n 3 2) s

theorem State.disputeSettled_disputes : (s.disputeSettled g).est.disputes = s.est.disputes :=
  foldl_keeps (·.est.disputes) _ (fun u n => u.setStatus_disputes n 3 2) s

theorem State.disputeSettled_pts : (s.disputeSettled g).pts = s.pts :=
  foldl_keeps (·.pts) _ (fun u n => u.setStatus_pts n 3 2) s

end

section
variable (dt g : Nat) (s : State)

theorem exec_disputeEnd_absent (h : tfind s.est.disputes g = none) : exec (.disputeEnd dt g) s = .next (s.advance dt) := by
  show execDisputeEnd dt g s = _
  unfold execDisputeEnd
  dsimp only
  rw [State.advance_est, h]

theorem exec_disputeEnd_agreed (d : Dispute) (h : tfind s.est.disputes g = some d) (ha : 10 ≤ d.agree) :
    exec (.disputeEnd dt g) s = .next (((s.advance dt).disputeSettled g).disputeStop g 1).disputeBits := by
  show execDisputeEnd dt g s = _
  unfold execDisputeEnd
  dsimp only
  rw [State.advance_est, h]
  exact if_pos ha

theorem disputeEnd_ends (d : Dispute) (h : tfind s.est.disputes g = some d) (ha : 10 ≤ d.agree) :
    ∃ t, exec (.disputeEnd dt g) s = .next t ∧ tfind t.est.disputes g = none ∧ t.get R.EST_EVT_DISPUTE_END = 1 ∧
      t.pts = s.pts := by
  have hd : tfind ((s.advance dt).disputeSettled g).est.disputes g = some d := by
    rw [State.disputeSettled_disputes]
    exact h
  obtain ⟨hnone, hend, hpts⟩ := State.disputeStop_shows _ g 1 hd
  exact ⟨_, exec_disputeEnd_agreed dt g s d h ha, hnone, (State.disputeBits_get _ _ (by decide) (by decide)).trans hend,
    hpts.trans (State.disputeSettled_pts _ g)⟩

end

/-! ### Re-entry (R151, R152) -/

section
variable (dt n : Nat) (s : State)

theorem exec_reentryComplete_notDue (h : s.slotStatus n ≠ 2 ∨ (s.slotSt n).reentry < s.man.reentryFrames) :
    exec (.reentryComplete dt n) s = .next (s.advance dt) := if_neg (by
  simp only [Bool.and_eq_true, decide_eq_true_eq]
  exact fun e => h.elim (fun hst => hst e.1.1) fun hr => Nat.not_le.2 hr e.1.2)

section
variable (hst : s.slotStatus n = 2) (hr : s.man.reentryFrames ≤ (s.slotSt n).reentry) (hg : s.slotGroup n ≠ 0)
  (hd : tfind s.est.disputes (s.slotGroup n) = none)
include hst hr hg hd

/-- Outside the group of positions nothing is re-initialised. -/
theorem exec_reentryComplete_completes :
    exec (.reentryComplete dt n) s = .next ((s.advance dt).statusShown n 3 7) := by
  have hshows : (s.advance dt).setStatus n 3 7 = (s.advance dt).statusShown n 3 7 :=
    State.setStatus_shows _ _ _ _ (fun e => absurd (hst.symm.trans e) (by decide)) (by decide)
  have hgroup : ((s.advance dt).setStatus n 3 7).slotGroup n = s.slotGroup n :=
    State.slotGroup_congr (State.setStatus_keeps _ n 3 7 (·.man) (State.of_plain_man
      (State.statusShown_framed _ n 3 7 (List.Subset.refl _) (.refl _ _)).plain) (fun _ _ => rfl)) n
  refine (if_pos ?_).trans ((if_neg ?_).trans (congrArg _ hshows))
  · simp only [Bool.and_eq_true, decide_eq_true_eq, Option.isNone_iff_eq_none]
    exact ⟨⟨hst, hr⟩, hd⟩
  · simp [hgroup, hg]

theorem reentryComplete_completes :
    ∃ t, exec (.reentryComplete dt n) s = .next t ∧ t.slotStatus n = 3 ∧ Framed (statusKeys n) (s.advance dt) t :=
  ⟨_, exec_reentryComplete_completes dt n s hst hr hg hd, State.statusShown_slotStatus _ n 3 7 (by decide),
    State.statusShown_framed _ n 3 7 (List.Subset.refl _) (.refl _ _)⟩

end

theorem exec_reentryHoldRecord_otherStatus (h : s.slotStatus n ≠ 2) :
    exec (.reentryHoldRecord dt n) s = .next (s.advance dt) := if_neg (by
  simp only [Bool.and_eq_true, decide_eq_true_eq]
  exact fun e => h e.1.1)

/-- The hold of a slot is noted. -/
def State.holdNoted : State := s.putSlot n { s.slotSt n with holdAt := s.now }

section
variable (d : Dispute) (hst : s.slotStatus n = 2) (hd : tfind s.est.disputes (s.slotGroup n) = some d)
  (ht : (s.slotSt n).holdAt + 10000000000 ≤ s.now + dt)
include hst hd ht

theorem exec_reentryHoldRecord_records :
    ∃ e, exec (.reentryHoldRecord dt n) s = .next (((s.advance dt).holdNoted n).record e) :=
  ⟨_, if_pos (by
    simp only [Bool.and_eq_true, decide_eq_true_eq]
    exact ⟨⟨hst, Option.isSome_of_eq_some hd⟩, ht⟩)⟩

theorem reentryHoldRecord_notes :
    ∃ t, exec (.reentryHoldRecord dt n) s = .next t ∧ (t.slotSt n).holdAt = s.now + dt ∧ t.slotStatus n = 2 ∧
      Framed [] { s.advance dt with est := t.est } t := by
  obtain ⟨e, hexec⟩ := exec_reentryHoldRecord_records dt n s d hst hd ht
  refine ⟨_, hexec, ?_, (State.record_slotStatus _ n e).trans hst, ?_⟩
  · rw [State.record_slotSt, State.holdNoted, State.putSlot_slotSt]
    rfl
  · exact (State.record_framed _ e ((Framed.refl [] (s.advance dt)).withEst _)).ownEst

end

end

/-! ### Commands of the Operator (R153) -/

section
variable (s : State) (n action keyId : Nat)

theorem State.slotCmdRecord_framed (res : Nat) : Framed [] s (s.slotCmdRecord n action res keyId) :=
  State.result_framed _ _ _ _ _ _ _ _ _ (State.record_framed s _ (.refl _ s))

/-- A slot command waits for its boundary. -/
def State.slotCmdWaits : State :=
  { s with est := { s.est with cmds := s.est.cmds ++ [⟨n, action, s.now, keyId, s.log.head⟩] } }

/-- A command that waits after something was told: it is the only one, and came at the instant of what it was given on. -/
theorem State.slotCmdWaits_shows {u : State} (h : Framed [] s u) (hcmds : s.est.cmds = []) :
    ((u.slotCmdWaits n action keyId).est.cmds.map fun c => (c.slot, c.action, c.at_)) = [(n, action, s.now)] ∧
      (u.slotCmdWaits n action keyId).slotStatus n = s.slotStatus n ∧
      Framed [] { s with est := (u.slotCmdWaits n action keyId).est } (u.slotCmdWaits n action keyId) := by
  refine ⟨?_, h.get_eq n (by decide) List.not_mem_nil, h.withEst _⟩
  show (u.est.cmds ++ [(⟨n, action, u.now, keyId, u.log.head⟩ : EstCmd)]).map (fun c => (c.slot, c.action, c.at_)) = _
  rw [h.est_eq, hcmds, State.of_plain_now h.plain]
  rfl

section
variable (hcmds : s.est.cmds = [])
include hcmds

/-- Without a command that waits, a slot command is judged by the slot's status. -/
theorem State.slotCmd_eq : s.slotCmd n action keyId =
    if !s.isActive || s.slotStatus n = 0 || (action = 2 && s.slotStatus n ≠ 6) then s.slotCmdRecord n action 3 keyId
    else (s.slotCmdRecord n action 1 keyId).slotCmdWaits n action keyId := by
  unfold State.slotCmd
  rw [hcmds]
  rfl

theorem State.slotCmd_refused (ha : action = 2) (hst : s.slotStatus n ≠ 6) :
    s.slotCmd n action keyId = s.slotCmdRecord n action 3 keyId :=
  (s.slotCmd_eq n action keyId hcmds).trans (if_pos (by simp [ha, hst]))

section
variable (hact : s.isActive = true) (h0 : s.slotStatus n ≠ 0) (hsel : action = 2 → s.slotStatus n = 6)
include hact h0 hsel

theorem State.slotCmd_accepted :
    s.slotCmd n action keyId = (s.slotCmdRecord n action 1 keyId).slotCmdWaits n action keyId :=
  (s.slotCmd_eq n action keyId hcmds).trans (if_neg (by simpa [hact, h0] using hsel))

theorem State.slotCmd_waits :
    ((s.slotCmd n action keyId).est.cmds.map fun c => (c.slot, c.action, c.at_)) = [(n, action, s.now)] ∧
      (s.slotCmd n action keyId).slotStatus n = s.slotStatus n ∧
      Framed [] { s with est := (s.slotCmd n action keyId).est } (s.slotCmd n action keyId) := by
  rw [s.slotCmd_accepted n action keyId hcmds hact h0 hsel]
  exact s.slotCmdWaits_shows n action keyId (s.slotCmdRecord_framed n action keyId 1) hcmds

end

end

end

section
variable (dt n k : Nat) (s : State)

/-- A command point of the estimator gives a slot command under the Operator key (R51). -/
theorem State.slotWrite_point (action : Nat) (hk : k ∈ s.man.estPoints) :
    s.slotWrite (.point k) n action = s.slotCmd n action s.operKeyId := if_pos hk

theorem State.slotWrite_otherPoint (action : Nat) (hk : k ∉ s.man.estPoints) : s.slotWrite (.point k) n action = s :=
  if_neg hk

theorem exec_estSrcCmds_otherPoint (i : Instr) (hi : i ∈ [Instr.estSrcDeselect dt (.point k) n, .estSrcSelect dt (.point k) n])
    (hk : k ∉ s.man.estPoints) : exec i s = .next (s.advance dt) := by
  simp only [List.mem_cons, List.not_mem_nil, or_false] at hi
  rcases hi with rfl | rfl <;> exact congrArg Host.Outcome.next (State.slotWrite_otherPoint n k (s.advance dt) _ hk)

/-- A port without an Operator session gives no slot command. -/
theorem State.slotWrite_denied (action : Nat) {p : Port} (h : s.session p ≠ some .operator) :
    s.slotWrite (.host p) n action = (s.lullLeave 1).rwlIgnored p 0x6028 := by
  unfold State.slotWrite State.operatorCmd
  exact State.withRole_denied _ _ _ _ _ fun r hr hm => h (List.mem_singleton.1 hm ▸ hr)

theorem exec_estSrcCmds_denied (p : Port) (i : Instr)
    (hi : i ∈ [Instr.estSrcDeselect dt (.host p) n, .estSrcSelect dt (.host p) n]) (h : s.session p ≠ some .operator) :
    exec i s = .next (((s.advance dt).lullLeave 1).rwlIgnored p 0x6028) := by
  simp only [List.mem_cons, List.not_mem_nil, or_false] at hi
  rcases hi with rfl | rfl <;> exact congrArg Host.Outcome.next (State.slotWrite_denied n (s.advance dt) _ h)

section
variable (hk : k ∈ s.man.estPoints)
include hk

theorem exec_estSrcDeselect_point :
    exec (.estSrcDeselect dt (.point k) n) s = .next ((s.advance dt).slotCmd n 1 s.operKeyId) :=
  congrArg Host.Outcome.next (State.slotWrite_point n k (s.advance dt) 1 hk)

theorem exec_estSrcSelect_point :
    exec (.estSrcSelect dt (.point k) n) s = .next ((s.advance dt).slotCmd n 2 s.operKeyId) :=
  congrArg Host.Outcome.next (State.slotWrite_point n k (s.advance dt) 2 hk)

theorem estSrcDeselect_waits (hact : s.isActive = true) (h0 : s.slotStatus n ≠ 0) (hcmds : s.est.cmds = []) :
    ∃ t, exec (.estSrcDeselect dt (.point k) n) s = .next t ∧
      (t.est.cmds.map fun c => (c.slot, c.action, c.at_)) = [(n, 1, s.now + dt)] ∧
      t.slotStatus n = s.slotStatus n ∧ Framed [] { s.advance dt with est := t.est } t :=
  ⟨_, exec_estSrcDeselect_point dt n k s hk,
    (s.advance dt).slotCmd_waits n 1 s.operKeyId hcmds hact h0 fun e => absurd e (by decide)⟩

theorem estSrcSelect_waits (hact : s.isActive = true) (hst : s.slotStatus n = 6) (hcmds : s.est.cmds = []) :
    ∃ t, exec (.estSrcSelect dt (.point k) n) s = .next t ∧
      (t.est.cmds.map fun c => (c.slot, c.action, c.at_)) = [(n, 2, s.now + dt)] ∧
      Framed [] { s.advance dt with est := t.est } t := by
  have h0 : (s.advance dt).slotStatus n ≠ 0 := fun e => absurd (hst.symm.trans e) (by decide)
  obtain ⟨hwaits, -, hframe⟩ := (s.advance dt).slotCmd_waits n 2 s.operKeyId hcmds hact h0 fun _ => hst
  exact ⟨_, exec_estSrcSelect_point dt n k s hk, hwaits, hframe⟩

theorem estSrcSelect_refused (hst : s.slotStatus n ≠ 6) (hcmds : s.est.cmds = []) :
    ∃ t, exec (.estSrcSelect dt (.point k) n) s = .next t ∧ t.est = s.est ∧ Framed [] (s.advance dt) t := by
  have hframe := (s.advance dt).slotCmdRecord_framed n 2 s.operKeyId 3
  rw [← (s.advance dt).slotCmd_refused n 2 s.operKeyId hcmds rfl hst] at hframe
  exact ⟨_, exec_estSrcSelect_point dt n k s hk, hframe.est_eq, hframe⟩

end

end

/-- Settles O28: each clause is the lemma of its command above. -/
theorem sourceSlots : Obligations.SourceSlots := by
  unfold Obligations.SourceSlots
  exact ⟨fun dt n c s hc => sourceFrozen_freezes dt n s c hc, exec_sourceFrozen_absent, skewRecovered_recovers,
    exec_skewRecovered_below, fun dt n c s hc => slotWaiting_waits dt n s c hc, exec_slotWaiting_otherStatus,
    fun dt g d s hd => disputeEnd_ends dt g s d hd, exec_disputeEnd_absent, reentryComplete_completes,
    exec_reentryComplete_notDue, fun dt n d s hst hd => reentryHoldRecord_notes dt n s d hst hd,
    exec_reentryHoldRecord_otherStatus, estSrcDeselect_waits, estSrcSelect_waits, estSrcSelect_refused,
    exec_estSrcCmds_otherPoint,
    fun dt n p s i hi h => ⟨_, exec_estSrcCmds_denied dt n s p i hi h, State.lullLeave_rwlIgnored_framed _ p 1 0x6028⟩⟩

end Sys2Proof.Machine
end

section
/-!
PROOF of the statement of 06_estimation.md about object tracks (ObjectTracks): what a track shows when it changes state, and then each
command.
-/

namespace Sys2Proof.Machine

open Sys2Proof

/-! ### A track changes state (R162) -/

section
variable (s : State) (k new : Nat)

/-- A track shows its new state, and the change is told. -/
def State.trackShown : State := (s.set R.EST_TRK_STAT_STATE new k).record
  { code := 0x070D, source := k, items := [(1, k), (1, s.trackState k), (1, new)] }

theorem State.trackShown_framed : Framed [loc R.EST_TRK_STAT_STATE k] s (s.trackShown k new) :=
  State.record_framed _ _ (set_framed _ _ _ _ (.inl (List.mem_singleton.2 rfl)) (.refl _ s))

theorem State.trackShown_trackState (hw : new < 8) : (s.trackShown k new).trackState k = new := by
  unfold State.trackState State.trackShown
  rw [State.record_get _ _ _ (by decide), State.get_set_same]
  exact Nat.mod_eq_of_lt hw

theorem State.trackShown_slotsIn (g : Nat) (sts : List Nat) : (s.trackShown k new).slotsIn g sts = s.slotsIn g sts :=
  State.slotsIn_congr (State.of_plain_man (s.trackShown_framed k new).plain)
    (fun n => (State.record_slotStatus _ n _).trans (State.set_slotStatus _ n _ _ (by decide))) g sts

/-- A track that was not LOST has no TARGET-LOST alarm to clear; one that gets LOST leaves its references WAITING. -/
theorem State.setTrack_changes (h : s.trackState k ≠ new) (h4 : s.trackState k ≠ 4) : s.setTrack k new =
    if new = 4 then (s.slotsIn (k + 1) [2, 3, 4]).foldl (fun (u : State) n => u.setStatus n 1 5) (s.trackShown k new)
    else s.trackShown k new := by
  rw [← s.trackShown_slotsIn k new]
  unfold State.setTrack
  simp only [h, h4, if_false, decide_false, Bool.false_and, Bool.false_eq_true]
  rfl

/-- A track is lost: it shows it, and the slots of its group wait. -/
def State.trackIsLost : State :=
  (s.slotsIn (k + 1) [2, 3, 4]).foldl (fun (u : State) n => u.setStatus n 1 5) (s.trackShown k 4)

theorem State.trackIsLost_trackState : (s.trackIsLost k).trackState k = 4 :=
  (foldl_keeps (·.trackState k) _ (fun u n => u.setStatus_get n 1 5 k (by decide) (by decide) (by decide)) _).trans
    (s.trackShown_trackState k 4 (by decide))

theorem State.trackIsLost_slotStatus {n : Nat} (hn : n ∈ s.slotsIn (k + 1) [2, 3, 4]) :
    (s.trackIsLost k).slotStatus n = 1 :=
  foldl_setStatus_slotStatus _ 1 5 (by decide) _ (.inl hn)

end

/-! ### Tracks coast and are lost (R162) -/

section
variable (dt k : Nat) (s : State)

theorem exec_trackCoastTimeout_otherState (h1 : s.trackState k ≠ 1) (h2 : s.trackState k ≠ 2) :
    exec (.trackCoastTimeout dt k) s = .next (s.advance dt) := if_neg (by
  simp only [Bool.and_eq_true, Bool.or_eq_true, decide_eq_true_eq]
  exact fun e => e.1.1.elim h1 h2)

section
variable (hst : s.trackState k = 1 ∨ s.trackState k = 2) (hf : trackFixed s.man k = false)
  (ht : (s.trackSt k).lastAt + 1000000000 ≤ s.now + dt)
include hst hf ht

theorem exec_trackCoastTimeout_due :
    exec (.trackCoastTimeout dt k) s = .next ((s.advance dt).trackShown k 3) := by
  have hne {v : Nat} (hv : 2 < v) : (s.advance dt).trackState k ≠ v := fun e => by
    have e' : s.trackState k = v := e
    omega
  refine (if_pos ?_).trans
    (congrArg _ ((State.setTrack_changes _ k 3 (hne (by decide)) (hne (by decide))).trans (if_neg (by decide))))
  simp only [Bool.and_eq_true, Bool.or_eq_true, decide_eq_true_eq, Bool.not_eq_true']
  exact ⟨⟨hst, hf⟩, ht⟩

theorem trackCoastTimeout_coasts :
    ∃ t, exec (.trackCoastTimeout dt k) s = .next t ∧ t.trackState k = 3 ∧
      Framed [loc R.EST_TRK_STAT_STATE k] (s.advance dt) t :=
  ⟨_, exec_trackCoastTimeout_due dt k s hst hf ht, State.trackShown_trackState _ k 3 (by decide),
    State.trackShown_framed _ k 3⟩

end

theorem exec_trackLostTimeout_otherState (h : s.trackState k ∉ [1, 2, 3]) :
    exec (.trackLostTimeout dt k) s = .next (s.advance dt) := if_neg (by
  simp only [List.mem_cons, List.not_mem_nil, or_false] at h
  simp only [Bool.and_eq_true, Bool.or_eq_true, decide_eq_true_eq, or_assoc]
  exact fun e => h e.1.1)

section
variable (hst : s.trackState k ∈ [1, 2, 3]) (hf : trackFixed s.man k = false)
  (ht : (s.trackSt k).lastAt + s.man.trackCoast * 1000000000 ≤ s.now + dt)
include hst hf ht

theorem exec_trackLostTimeout_due : exec (.trackLostTimeout dt k) s = .next ((s.advance dt).trackIsLost k) := by
  have hne : (s.advance dt).trackState k ≠ 4 := fun e => by
    have e' : s.trackState k = 4 := e
    rw [e'] at hst
    exact absurd hst (by decide)
  simp only [List.mem_cons, List.not_mem_nil, or_false] at hst
  refine (if_pos ?_).trans (congrArg _ ((State.setTrack_changes _ k 4 hne hne).trans (if_pos rfl)))
  simp only [Bool.and_eq_true, Bool.or_eq_true, decide_eq_true_eq, Bool.not_eq_true', or_assoc]
  exact ⟨⟨hst, hf⟩, ht⟩

theorem trackLostTimeout_loses :
    ∃ t, exec (.trackLostTimeout dt k) s = .next t ∧ t.trackState k = 4 ∧
      ((s.slotsIn (k + 1) [2, 3, 4]).all fun n => t.slotStatus n = 1) = true :=
  ⟨_, exec_trackLostTimeout_due dt k s hst hf ht, State.trackIsLost_trackState (s.advance dt) k,
    List.all_eq_true.2 fun _ hn => decide_eq_true (State.trackIsLost_slotStatus (s.advance dt) k hn)⟩

end

end

/-! ### A track excludes a source (R161) -/

section
variable (s : State) (k x : Nat)

@[simp] theorem State.putTrack_trackSt (t : TrackSt) : (s.putTrack k t).trackSt k = t := by
  simp [State.putTrack, State.trackSt, tget]

/-- A source is excluded from a track, and its run of failures is forgotten. -/
def State.sourceExcluded : State :=
  let u := s.putTrack k { s.trackSt k with
    fails := tdel (s.trackSt k).fails x
    excluded := x :: (s.trackSt k).excluded.filter (· ≠ x) }
  u.set R.EST_TRK_STAT_EXCLUDED (u.get R.EST_TRK_STAT_EXCLUDED k ||| 2 ^ x) k

theorem State.sourceExcluded_shows :
    x ∈ ((s.sourceExcluded k x).trackSt k).excluded ∧ tfind ((s.sourceExcluded k x).trackSt k).fails x = none := by
  have hst : (s.sourceExcluded k x).trackSt k = { s.trackSt k with
      fails := tdel (s.trackSt k).fails x
      excluded := x :: (s.trackSt k).excluded.filter (· ≠ x) } := State.putTrack_trackSt s k _
  rw [hst]
  exact ⟨List.mem_cons_self, tfind_tdel_same _ _⟩

theorem State.sourceExcluded_framed :
    Framed [loc R.EST_TRK_STAT_EXCLUDED k] { s with est := (s.sourceExcluded k x).est } (s.sourceExcluded k x) :=
  set_framed _ _ _ _ (.inl (List.mem_singleton.2 rfl)) (.refl _ _)

variable (dt : Nat)

theorem exec_trackSourceExclude_absent (h : tfind s.man.tracks k = none) :
    exec (.trackSourceExclude dt k x) s = .next (s.advance dt) := by
  show execTrackSourceExclude dt k x s = _
  unfold execTrackSourceExclude
  dsimp only
  rw [State.advance_man, h]

section
variable (c : TrackCfg) (hc : tfind s.man.tracks k = some c) (hb : c.bound.getD x true = true)
  (hn : max 1 c.gateFailN ≤ tget (s.trackSt k).fails x 0)
include hc hb hn

theorem exec_trackSourceExclude_failed : exec (.trackSourceExclude dt k x) s =
    .next (((s.advance dt).sourceExcluded k x).alarm 0x070E k [(1, k), (1, x)]) := by
  show execTrackSourceExclude dt k x s = _
  unfold execTrackSourceExclude
  dsimp only
  rw [State.advance_man, hc]
  refine if_pos ?_
  simp only [Bool.and_eq_true, decide_eq_true_eq]
  exact ⟨hb, hn⟩

theorem trackSourceExclude_excludes :
    ∃ t, exec (.trackSourceExclude dt k x) s = .next t ∧ x ∈ (t.trackSt k).excluded ∧ tfind (t.trackSt k).fails x = none ∧
      Framed [loc R.EST_TRK_STAT_EXCLUDED k] { s.advance dt with est := t.est } t := by
  obtain ⟨hexcluded, hfails⟩ := (s.advance dt).sourceExcluded_shows k x
  have hst : (((s.advance dt).sourceExcluded k x).alarm 0x070E k [(1, k), (1, x)]).trackSt k =
      ((s.advance dt).sourceExcluded k x).trackSt k := by
    unfold State.trackSt
    rw [State.alarm_est]
  refine ⟨_, exec_trackSourceExclude_failed s k x dt c hc hb hn, ?_⟩
  rw [hst]
  exact ⟨hexcluded, hfails, (State.alarm_framed _ _ _ _ _ (State.sourceExcluded_framed _ k x)).ownEst⟩

end

end

/-- Settles O29: each clause is the lemma of its command above. -/
theorem objectTracks : Obligations.ObjectTracks := by
  unfold Obligations.ObjectTracks
  exact ⟨trackCoastTimeout_coasts, exec_trackCoastTimeout_otherState, trackLostTimeout_loses,
    exec_trackLostTimeout_otherState,
    fun dt k x c s hc hb hn => trackSourceExclude_excludes s k x dt c hc hb hn,
    fun dt k x s h => exec_trackSourceExclude_absent s k x dt h⟩

end Sys2Proof.Machine
end

section
/-!
PROOF of the statement of 07_helm.md about law and setpoint commands (HelmCommands): what a result of such a command shows and leaves
alone, a command accepted and one refused, and then the way of a command from its source to the judgement.
-/

namespace Sys2Proof.Machine

open Sys2Proof

/-! ### The data of the helm -/

/-- Two states in a frame stay so where both take the same data of the helm. -/
theorem Framed.withHelm {ks : List Nat} {s t : State} (x : HelmSt) (h : Framed ks s t) :
    Framed ks { s with helm := x } { t with helm := x } :=
  ⟨congrArg (fun u : State => { u with helm := x }) h.plain, h.regs⟩

/-! ### Results of law and setpoint commands (R193) -/

section
variable (s : State) (c : HelmCmd) {ks : List Nat} {s₀ : State}

/-- HELM_CMD_STAT takes a result. -/
def State.showHelmResult (res : Nat) : State :=
  ((s.set R.HELM_CMD_STAT_RESULT res).set R.HELM_CMD_STAT_KIND c.kind).set R.HELM_CMD_STAT_TAG c.tag

theorem State.showHelmResult_framed (res : Nat) (hks : ∀ f ∈ helmCmdFlds, loc f 0 ∈ ks) (h : Framed ks s₀ s) :
    Framed ks s₀ (s.showHelmResult c res) :=
  set_framed _ _ _ _ (.inl (hks _ (by decide))) (set_framed _ _ _ _ (.inl (hks _ (by decide)))
    (set_framed _ _ _ _ (.inl (hks _ (by decide))) h))

theorem State.showHelmResult_shows (res : Nat) :
    (s.showHelmResult c res).get R.HELM_CMD_STAT_RESULT = res % 2 ^ R.HELM_CMD_STAT_RESULT.width ∧
    (s.showHelmResult c res).get R.HELM_CMD_STAT_KIND = c.kind % 2 ^ R.HELM_CMD_STAT_KIND.width := by
  unfold State.showHelmResult
  simp (disch := decide) only [State.get_set_ne, State.get_set_same]
  exact ⟨trivial, trivial⟩

/-- An acceptance is shown, and told. -/
theorem State.helmResult_accepted_framed : Framed [] (s.showHelmResult c 1) (s.helmResult 1 c) := by
  unfold State.helmResult
  rw [if_pos rfl]
  exact State.result_framed _ _ _ _ _ _ _ _ _ (State.record_framed _ _ (.refl _ _))

/-- A refusal is shown, raises its event bit, and is told. -/
theorem State.helmResult_refused_framed {res : Nat} (h1 : res ≠ 1) (h2 : res ≠ 2) :
    Framed [] ((s.showHelmResult c res).evt R.HELM_EVT_CMD_REFUSED) (s.helmResult res c) := by
  unfold State.helmResult
  simp only [if_neg h1, if_neg h2]
  exact State.result_framed _ _ _ _ _ _ _ _ _ (State.record_framed _ _ (.refl _ _))

/-- What an accepted command shows, and its frame. -/
theorem State.helmResult_accepts (hks : ∀ f ∈ helmCmdFlds, loc f 0 ∈ ks) (h : Framed ks s₀ s) :
    (s.helmResult 1 c).get R.HELM_CMD_STAT_RESULT = 1 ∧
    (s.helmResult 1 c).get R.HELM_CMD_STAT_KIND = c.kind % 2 ^ R.HELM_CMD_STAT_KIND.width ∧
    Framed ks s₀ (s.helmResult 1 c) := by
  have hres := s.helmResult_accepted_framed c
  obtain ⟨hresult, hkind⟩ := s.showHelmResult_shows c 1
  exact ⟨(hres.get_eq 0 (by decide) List.not_mem_nil).trans hresult,
    (hres.get_eq 0 (by decide) List.not_mem_nil).trans hkind,
    (s.showHelmResult_framed c 1 hks h).trans (hres.mono (List.nil_subset ks))⟩

/-- What a refused command shows, and its frame. -/
theorem State.helmResult_refuses {res : Nat} (h1 : res ≠ 1) (h2 : res ≠ 2) :
    (s.helmResult res c).get R.HELM_CMD_STAT_RESULT = res % 2 ^ R.HELM_CMD_STAT_RESULT.width ∧
    (s.helmResult res c).get R.HELM_EVT_CMD_REFUSED = 1 ∧ (s.helmResult res c).helm = s.helm ∧
    Framed (regKeys 0 (R.HELM_EVT_CMD_REFUSED :: helmCmdFlds)) s (s.helmResult res c) := by
  have hres := s.helmResult_refused_framed c h1 h2
  obtain ⟨hresult, -⟩ := s.showHelmResult_shows c res
  refine ⟨?_, ?_, ?_, ?_⟩
  · rw [hres.get_eq 0 (by decide) List.not_mem_nil, State.evt_get_ne _ _ _ (by decide) (by decide), hresult]
  · rw [hres.get_eq 0 (by decide) List.not_mem_nil]
    exact State.evt_get_same _ _ _ (by decide)
  · exact (State.of_plain_helm hres.plain).trans (State.evt_helm _ _ _)
  · exact (State.evt_framed _ _ _ (.inl (by decide)) (s.showHelmResult_framed c res (by decide) (.refl _ s))).trans
      (hres.mono (List.nil_subset _))

end

/-! ### Judging a law command (R172) -/

/-- A law command as it is given: KIND 0, and no record yet. -/
def lawAsked (law tag keyId : Nat) : HelmCmd := ⟨0, law, tag % 256, .operator, keyId, 0⟩

/-- An accepted law command waits for its boundary. -/
def State.lawWaits (s : State) (c : HelmCmd) : State :=
  { s with helm := { s.helm with lawPend := some { c with seq := s.log.head } } }

@[simp] theorem State.lawWaits_get (s : State) (c : HelmCmd) (f : Fld) (b : Nat) : (s.lawWaits c).get f b = s.get f b := rfl

section
variable (s : State) (law tag keyId : Nat)

theorem State.lawAccept_notActive (ha : s.isActive = false) :
    s.lawAccept law tag .operator keyId = s.helmResult 5 (lawAsked law tag keyId) := if_pos (by simp [ha])

section
variable (ha : s.isActive = true)
include ha

theorem State.lawAccept_otherMode (hm : s.nextMode ≠ lawMode law) :
    s.lawAccept law tag .operator keyId = s.helmResult 4 (lawAsked law tag keyId) :=
  (if_neg (by simp [ha])).trans (if_pos hm)

variable (hm : s.nextMode = lawMode law) (hp : s.helm.lawPend = none)
include hm hp

theorem State.lawAccept_waits : s.lawAccept law tag .operator keyId =
    (s.helmResult 1 (lawAsked law tag keyId)).lawWaits (lawAsked law tag keyId) := by
  have hend : s.endLaw 6 = s := by
    unfold State.endLaw
    rw [hp]
  unfold State.lawAccept State.lawWaits lawAsked
  dsimp only
  rw [if_neg (by simp [ha]), if_neg (not_not.2 hm), hend]

/-- What an accepted law command shows, that it waits, and its frame. -/
theorem State.lawAccept_accepts :
    ((s.lawAccept law tag .operator keyId).helm.lawPend.map fun c => (c.target, c.tag, c.keyId)) =
      some (law, tag % 256, keyId) ∧
    (s.lawAccept law tag .operator keyId).get R.HELM_CMD_STAT_RESULT = 1 ∧
    (s.lawAccept law tag .operator keyId).get R.HELM_CMD_STAT_KIND = 0 ∧
    Framed (regKeys 0 helmCmdFlds) { s with helm := (s.lawAccept law tag .operator keyId).helm }
      (s.lawAccept law tag .operator keyId) := by
  obtain ⟨hresult, hkind, hframe⟩ := s.helmResult_accepts (ks := regKeys 0 helmCmdFlds) (lawAsked law tag keyId) (by decide)
    (.refl _ s)
  rw [s.lawAccept_waits law tag keyId ha hm hp, State.lawWaits_get, State.lawWaits_get]
  exact ⟨rfl, hresult, hkind, hframe.withHelm _⟩

end

end

/-! ### Judging a setpoint command (R173) -/

/-- A setpoint command as it is given: KIND 1, and no record yet. -/
def spAsked (kind tag keyId : Nat) : HelmCmd := ⟨1, kind, tag % 256, .operator, keyId, 0⟩

/-- An accepted setpoint command waits for its boundary with its setpoint. -/
def State.spWaits (s : State) (c : HelmCmd) (v : SpVal) : State :=
  { s with helm := { s.helm with spPend := some ({ c with seq := s.log.head }, v) } }

@[simp] theorem State.spWaits_get (s : State) (c : HelmCmd) (v : SpVal) (f : Fld) (b : Nat) :
    (s.spWaits c v).get f b = s.get f b := rfl

@[simp] theorem State.spWaits_sp (s : State) (c : HelmCmd) (v : SpVal) : (s.spWaits c v).helm.sp = s.helm.sp := rfl

section
variable (s : State) (v : SpVal) (tag keyId : Nat) (ha : s.isActive = true) (hl : s.nextLaw = v.kind)
include ha hl

theorem State.spAccept_outOfRange (hr : s.spOutOfRange v = true) :
    s.spAccept v tag .operator keyId = s.helmResult 8 (spAsked v.kind tag keyId) :=
  (if_neg (by simp [ha])).trans ((if_neg (not_not.2 hl)).trans (if_pos hr))

variable (hr : s.spOutOfRange v = false) (hp : s.helm.spPend = none)
include hr hp

theorem State.spAccept_waits : s.spAccept v tag .operator keyId =
    (s.helmResult 1 (spAsked v.kind tag keyId)).spWaits (spAsked v.kind tag keyId) v := by
  have hend : s.endSp 6 = s := by
    unfold State.endSp
    rw [hp]
  unfold State.spAccept State.spWaits spAsked
  dsimp only
  rw [if_neg (by simp [ha]), if_neg (not_not.2 hl), if_neg (by simp [hr]), hend]

/-- What an accepted setpoint command shows, that it waits, and its frame. -/
theorem State.spAccept_accepts :
    ((s.spAccept v tag .operator keyId).helm.spPend.map fun c => (c.1.target, c.1.tag, c.2)) = some (v.kind, tag % 256, v) ∧
    (s.spAccept v tag .operator keyId).get R.HELM_CMD_STAT_RESULT = 1 ∧
    (s.spAccept v tag .operator keyId).get R.HELM_CMD_STAT_KIND = 1 ∧
    (s.spAccept v tag .operator keyId).helm.sp = s.helm.sp ∧
    Framed (regKeys 0 helmCmdFlds) { s with helm := (s.spAccept v tag .operator keyId).helm }
      (s.spAccept v tag .operator keyId) := by
  obtain ⟨hresult, hkind, hframe⟩ := s.helmResult_accepts (ks := regKeys 0 helmCmdFlds) (spAsked v.kind tag keyId) (by decide)
    (.refl _ s)
  rw [s.spAccept_waits v tag keyId ha hl hr hp, State.spWaits_get, State.spWaits_get, State.spWaits_sp]
  exact ⟨rfl, hresult, hkind, congrArg HelmSt.sp (State.of_plain_helm hframe.plain), hframe.withHelm _⟩

end

/-! ### From a source to the judgement (R172) -/

theorem exec_of_mem_lawCmds {dt tag : Nat} {src : CmdSrc} {x : Nat × Instr} (hx : x ∈ lawCmds dt src tag) (s : State) :
    exec x.2 s = .next ((s.advance dt).lawCmd x.1 src tag) := by
  simp only [lawCmds, List.mem_cons, List.not_mem_nil, or_false] at hx
  rcases hx with rfl | rfl | rfl | rfl | rfl <;> rfl

theorem exec_of_mem_spCmds {dt tag : Nat} {src : CmdSrc} {x : Nat × Instr} (hx : x ∈ spCmds dt src tag) (s : State) :
    exec x.2 s = .next ((s.advance dt).spCmd x.1 src tag) := by
  simp only [spCmds, List.mem_cons, List.not_mem_nil, or_false] at hx
  rcases hx with rfl | rfl | rfl <;> rfl

theorem law_lt_of_mem_lawCmds {dt tag : Nat} {src : CmdSrc} {x : Nat × Instr} (hx : x ∈ lawCmds dt src tag) : x.1 < 8 := by
  have hlaw : x.1 ∈ [1, 2, 3, 4, 5] := List.mem_map_of_mem (f := Prod.fst) hx
  simp only [List.mem_cons, List.not_mem_nil, or_false] at hlaw
  omega

/-- The state in which a host's law command is judged: awake, the session's idle time afresh, and HELM_LAW_CMD showing the command. -/
def State.hostLaw (s : State) (law tag : Nat) : State :=
  (State.set { s.lullLeave 1 with role := { s.role with rwlAt := s.now } } R.HELM_LAW_CMD_LAW law).set R.HELM_LAW_CMD_TAG tag

section
variable (s : State) (law tag : Nat)

theorem State.hostLaw_get {f : Fld} (hl : lullKeeps f = true) (hlaw : fkey f ≠ fkey R.HELM_LAW_CMD_LAW)
    (htag : fkey f ≠ fkey R.HELM_LAW_CMD_TAG) : (s.hostLaw law tag).get f = s.get f :=
  (State.get_set_ne _ _ _ _ htag).trans ((State.get_set_ne _ _ _ _ hlaw).trans (State.lullLeave_get s 1 0 hl))

theorem State.hostLaw_isActive : (s.hostLaw law tag).isActive = s.isActive := by
  unfold State.isActive State.flag
  rw [State.hostLaw_get _ _ _ (by decide) (by decide) (by decide)]

theorem State.hostLaw_nextMode : (s.hostLaw law tag).nextMode = s.nextMode := by
  have hmnf : (s.hostLaw law tag).mnf = s.mnf := State.lullLeave_mnf s 1
  unfold State.nextMode State.mode
  rw [hmnf, State.hostLaw_get _ _ _ (by decide) (by decide) (by decide)]

theorem State.hostLaw_helm : (s.hostLaw law tag).helm = s.helm := State.lullLeave_helm s 1

theorem State.hostLaw_shows : (s.hostLaw law tag).get R.HELM_LAW_CMD_LAW = law % 2 ^ R.HELM_LAW_CMD_LAW.width :=
  (State.get_set_ne _ _ _ _ (by decide)).trans (State.get_set_same _ _ _ _)

/-- A law command in an Operator session is judged once it shows in HELM_LAW_CMD. -/
theorem State.lawCmd_host (p : Port) (h : s.session p = some .operator) :
    s.lawCmd law (.host p) tag = (s.hostLaw law tag).lawAccept law tag .operator s.role.keyId := by
  unfold State.lawCmd State.operatorCmd
  exact State.withRole_granted s p [.operator] 0x7004 _ .operator h (List.mem_singleton.2 rfl)

end

section
variable (dt tag k : Nat) (s : State) {x : Nat × Instr}

theorem exec_lawCmds_point (hx : x ∈ lawCmds dt (.point k) tag) (hk : k ∈ s.man.helm.points) :
    exec x.2 s = .next ((s.advance dt).lawAccept x.1 tag .operator s.operKeyId) :=
  (exec_of_mem_lawCmds hx s).trans (congrArg Host.Outcome.next (if_pos hk))

theorem exec_spCmds_point (hx : x ∈ spCmds dt (.point k) tag) (hk : k ∈ s.man.helm.points) :
    exec x.2 s = .next ((s.advance dt).spAccept (s.stagedSp x.1) tag .operator s.operKeyId) :=
  (exec_of_mem_spCmds hx s).trans (congrArg Host.Outcome.next (if_pos hk))

theorem exec_helmCmds_otherPoint (hx : x ∈ lawCmds dt (.point k) tag ++ spCmds dt (.point k) tag)
    (hk : k ∉ s.man.helm.points) : exec x.2 s = .next (s.advance dt) := by
  rcases List.mem_append.1 hx with hlaw | hsp
  · exact (exec_of_mem_lawCmds hlaw s).trans (congrArg Host.Outcome.next (if_neg hk))
  · exact (exec_of_mem_spCmds hsp s).trans (congrArg Host.Outcome.next (if_neg hk))

/-! ### The commands -/

section
variable (hx : x ∈ lawCmds dt (.point k) tag) (hk : k ∈ s.man.helm.points)
include hx hk

theorem lawCmds_point_accepted (ha : s.isActive = true) (hm : s.nextMode = lawMode x.1) (hp : s.helm.lawPend = none) :
    ∃ t, exec x.2 s = .next t ∧ (t.helm.lawPend.map fun c => (c.target, c.tag)) = some (x.1, tag % 256) ∧
      t.get R.HELM_CMD_STAT_RESULT = 1 ∧ t.get R.HELM_CMD_STAT_KIND = 0 ∧ t.law = s.law ∧
      Framed (regKeys 0 helmCmdFlds) { s.advance dt with helm := t.helm } t := by
  obtain ⟨hwaits, hresult, hkind, hframe⟩ := (s.advance dt).lawAccept_accepts x.1 tag s.operKeyId ha hm hp
  refine ⟨_, exec_lawCmds_point dt tag k s hx hk, ?_, hresult, hkind, hframe.get_eq 0 (by decide) (by decide), hframe⟩
  obtain ⟨c, hc, hcmd⟩ := Option.map_eq_some_iff.1 hwaits
  rw [hc]
  exact congrArg (fun y : Nat × Nat × Nat => some (y.1, y.2.1)) hcmd

theorem lawCmds_point_notActive (ha : s.isActive = false) :
    ∃ t, exec x.2 s = .next t ∧ t.get R.HELM_CMD_STAT_RESULT = 5 ∧ t.get R.HELM_EVT_CMD_REFUSED = 1 ∧ t.helm = s.helm ∧
      Framed (regKeys 0 (R.HELM_EVT_CMD_REFUSED :: helmCmdFlds)) (s.advance dt) t :=
  ⟨_, (exec_lawCmds_point dt tag k s hx hk).trans (congrArg _ (State.lawAccept_notActive (s.advance dt) x.1 tag _ ha)),
    State.helmResult_refuses (s.advance dt) _ (by decide) (by decide)⟩

theorem lawCmds_point_otherMode (ha : s.isActive = true) (hm : s.nextMode ≠ lawMode x.1) :
    ∃ t, exec x.2 s = .next t ∧ t.get R.HELM_CMD_STAT_RESULT = 4 ∧ t.get R.HELM_EVT_CMD_REFUSED = 1 ∧ t.helm = s.helm ∧
      Framed (regKeys 0 (R.HELM_EVT_CMD_REFUSED :: helmCmdFlds)) (s.advance dt) t :=
  ⟨_, (exec_lawCmds_point dt tag k s hx hk).trans
      (congrArg _ (State.lawAccept_otherMode (s.advance dt) x.1 tag _ ha hm)),
    State.helmResult_refuses (s.advance dt) _ (by decide) (by decide)⟩

end

theorem lawCmds_host_accepted (p : Port) (hx : x ∈ lawCmds dt (.host p) tag) (hs : s.session p = some .operator)
    (ha : s.isActive = true) (hm : s.nextMode = lawMode x.1) (hp : s.helm.lawPend = none) :
    ∃ t, exec x.2 s = .next t ∧
      (t.helm.lawPend.map fun c => (c.target, c.tag, c.keyId)) = some (x.1, tag % 256, s.role.keyId) ∧
      t.get R.HELM_CMD_STAT_RESULT = 1 ∧ t.get R.HELM_LAW_CMD_LAW = x.1 ∧ t.role.rwlAt = s.now + dt := by
  have hact := ((s.advance dt).hostLaw_isActive x.1 tag).trans ha
  have hmode := ((s.advance dt).hostLaw_nextMode x.1 tag).trans hm
  have hpend := (congrArg HelmSt.lawPend ((s.advance dt).hostLaw_helm x.1 tag)).trans hp
  obtain ⟨hwaits, hresult, -, hframe⟩ :=
    ((s.advance dt).hostLaw x.1 tag).lawAccept_accepts x.1 tag s.role.keyId hact hmode hpend
  refine ⟨_, (exec_of_mem_lawCmds hx s).trans (congrArg _ ((s.advance dt).lawCmd_host x.1 tag p hs)), hwaits, hresult, ?_,
    congrArg RoleSt.rwlAt (State.of_plain_role hframe.plain)⟩
  calc _
    _ = ((s.advance dt).hostLaw x.1 tag).get R.HELM_LAW_CMD_LAW := hframe.get_eq 0 (by decide) (by decide)
    _ = x.1 % 2 ^ R.HELM_LAW_CMD_LAW.width := (s.advance dt).hostLaw_shows x.1 tag
    _ = x.1 := Nat.mod_eq_of_lt (law_lt_of_mem_lawCmds hx)

section
variable (hx : x ∈ spCmds dt (.point k) tag) (hk : k ∈ s.man.helm.points) (ha : s.isActive = true) (hl : s.nextLaw = x.1)
include hx hk ha hl

theorem spCmds_point_accepted (hr : s.spOutOfRange (s.stagedSp x.1) = false) (hp : s.helm.spPend = none) :
    ∃ t, exec x.2 s = .next t ∧
      (t.helm.spPend.map fun c => (c.1.target, c.1.tag, c.2)) = some (x.1, tag % 256, s.stagedSp x.1) ∧
      t.get R.HELM_CMD_STAT_RESULT = 1 ∧ t.get R.HELM_CMD_STAT_KIND = 1 ∧ t.helm.sp = s.helm.sp ∧
      Framed (regKeys 0 helmCmdFlds) { s.advance dt with helm := t.helm } t :=
  ⟨_, exec_spCmds_point dt tag k s hx hk,
    (s.advance dt).spAccept_accepts (s.stagedSp x.1) tag s.operKeyId ha hl hr hp⟩

theorem spCmds_point_outOfRange (hr : s.spOutOfRange (s.stagedSp x.1) = true) :
    ∃ t, exec x.2 s = .next t ∧ t.get R.HELM_CMD_STAT_RESULT = 8 ∧ t.get R.HELM_EVT_CMD_REFUSED = 1 ∧ t.helm = s.helm ∧
      Framed (regKeys 0 (R.HELM_EVT_CMD_REFUSED :: helmCmdFlds)) (s.advance dt) t :=
  ⟨_, (exec_spCmds_point dt tag k s hx hk).trans
      (congrArg _ (State.spAccept_outOfRange (s.advance dt) (s.stagedSp x.1) tag _ ha hl hr)),
    State.helmResult_refuses (s.advance dt) _ (by decide) (by decide)⟩

end

end

/-- Settles O30: a command by its source and by what the judgement finds, each clause by its lemma above; that the mode and the law in
force at the next boundary judge it is the model's choice (log 87). -/
theorem helmCommands : Obligations.HelmCommands := by
  unfold Obligations.HelmCommands
  exact ⟨fun dt tag k _ s => lawCmds_point_accepted dt tag k s, fun dt tag p _ s => lawCmds_host_accepted dt tag s p,
    fun dt tag k _ s => lawCmds_point_notActive dt tag k s, fun dt tag k _ s => lawCmds_point_otherMode dt tag k s,
    fun dt tag k _ s => spCmds_point_accepted dt tag k s, fun dt tag k _ s => spCmds_point_outOfRange dt tag k s,
    fun dt tag k _ s => exec_helmCmds_otherPoint dt tag k s⟩

end Sys2Proof.Machine
end

section
/-!
PROOF of the statement of 07_helm.md about helm cycles (HelmCycles): what cannot be seen of a register's write or of what is told, the
submission of a batch, manual axes, a missed and a valid solve, the output of a cycle, and then the commands.
-/

namespace Sys2Proof.Machine

open Sys2Proof

/-! ### What writes of some registers leave alone -/

/-- A view of the state that neither a write of a field of `P` changes nor what is told of a command. -/
structure Unseen {β : Type} (P : Fld → Prop) (p : State → β) : Prop where
  set : ∀ (u : State) (f : Fld) (v b : Nat), P f → p (u.set f v b) = p u
  told : ∀ u v : State, Framed [] u v → p v = p u

section
variable {β : Type} {P Q : Fld → Prop} {p : State → β}

theorem Unseen.mono (h : Unseen P p) (hq : ∀ f, Q f → P f) : Unseen Q p := ⟨fun u f v b hf => h.set u f v b (hq f hf), h.told⟩

theorem Unseen.evt (h : Unseen P p) (u : State) (f : Fld) (b : Nat) (hf : P f) : p (u.evt f b) = p u :=
  (h.told _ _ (State.raise_framed _ _ (.refl _ _))).trans (h.set u f 1 b hf)

theorem Unseen.record (h : Unseen P p) (u : State) (e : Ev) : p (u.record e) = p u :=
  h.told _ _ (State.record_framed _ _ (.refl _ _))

theorem unseen_get {f : Fld} (b : Nat) (hn : noteFld f = false) (h : ∀ g, P g → fkey f ≠ fkey g) :
    Unseen P (fun u : State => u.get f b) :=
  ⟨fun _ g _ _ hg => State.get_set_ne _ _ _ _ (h g hg), fun _ _ h => h.get_eq b hn List.not_mem_nil⟩

/-- No write of a field changes a view of the helm's own data. -/
theorem unseen_helm (g : HelmSt → β) : Unseen P (fun u : State => g u.helm) :=
  ⟨fun _ _ _ _ _ => rfl, fun _ _ h => congrArg g (State.of_plain_helm h.plain)⟩

end

/-- A field is none of a list, and none of those that tell what happened. -/
def apartFrom (fs : List Fld) (f : Fld) : Bool := !noteFld f && fs.all fun g => fkey f ≠ fkey g

theorem noteFld_of_apartFrom {fs : List Fld} {f : Fld} (h : apartFrom fs f = true) : noteFld f = false :=
  (Bool.not_eq_true' _).mp ((Bool.and_eq_true _ _).mp h).1

theorem apartFrom_ne {fs : List Fld} {f g : Fld} (h : apartFrom fs f = true) (hg : g ∈ fs) : fkey f ≠ fkey g :=
  of_decide_eq_true (List.all_eq_true.1 ((Bool.and_eq_true _ _).mp h).2 g hg)

theorem unseen_get_of_apartFrom {fs : List Fld} {f : Fld} (b : Nat) (h : apartFrom fs f = true) :
    Unseen (· ∈ fs) (fun u : State => u.get f b) :=
  unseen_get b (noteFld_of_apartFrom h) fun _ hg => apartFrom_ne h hg

/-! ### A batch is submitted (R219) -/

/-- A field of the solver's block of the map. -/
abbrev YuzFld (f : Fld) : Prop := fkey f / 131072 = 9

theorem missFld_yuz (kind : Nat) : YuzFld (missFld kind) := by
  unfold missFld
  split <;> decide

section
variable {β : Type} {p : State → β} (h : Unseen YuzFld p) (hyuz : ∀ (u : State) y, p { u with yuz := y } = p u)
include h

theorem State.yuzStat_unseen (s : State) : p s.yuzStat = p s := by
  unfold State.yuzStat
  simp (disch := decide) only [State.setB_eq, h.set]

theorem State.yuzNoClamp_unseen (s : State) (kind : Nat) : p (s.yuzNoClamp kind) = p s := by
  unfold State.yuzNoClamp
  simp (disch := decide) only [h.set]

include hyuz

theorem State.yuzExpire_unseen (s : State) (b : Batch) (cause : Nat) : p (s.yuzExpire b cause) = p s := by
  have hmiss (u : State) (n v : Nat) : p (u.set (missFld n) v) = p u := h.set u _ v 0 (missFld_yuz n)
  unfold State.yuzExpire
  extract_lets w items s₁ s₂ s₃ s₄ s₅ s₆ _ sent counted told
  have hitems : p items = p s := foldl_keeps p _ (fun u _ => hyuz u _) s
  have hlast : p s₆ = p s := by
    simp (disch := decide) only [s₆, s₅, s₄, s₃, s₂, s₁, State.setSat_eq, h.set, State.yuzNoClamp_unseen h, hitems]
  have hsent : p sent = p s := by
    refine Eq.trans ?_ hlast
    simp only [sent]
    split
    · rfl
    · exact hyuz s₆ _
  have hcounted : p counted = p s := by simp only [counted, apply_ite p, State.incSat_eq, hmiss, hsent, ite_self]
  rw [h.record]
  simp (disch := decide) only [told, h.evt, State.incSat_eq, h.set, hcounted]

theorem State.yuzSubmit_unseen (s : State) (b : Batch) : p (s.yuzSubmit b) = p s := by
  unfold State.yuzSubmit
  simp only [apply_ite p, State.yuzExpire_unseen h hyuz, State.yuzStat_unseen h, hyuz, ite_self]

end

/-! ### Points are committed (R39) -/

theorem State.commitAll_keeps {β : Type} (p : State → β) (hcommit : ∀ (u : State) l, p { u with commits := l } = p u)
    (s : State) (base : Nat) (vals : List Nat) (pm : Pm) (q : Quality) : p (s.commitAll base vals pm q) = p s := by
  refine foldl_keeps p _ (fun u x => ?_) s
  unfold State.commitAddr
  split
  · exact hcommit _ _
  · rfl

theorem State.helmPoints_keeps {β : Type} (p : State → β) (hcommit : ∀ (u : State) l, p { u with commits := l } = p u)
    (s : State) : p s.helmPoints = p s := by
  unfold State.helmPoints
  simp only [apply_ite p, State.commitAll_keeps p hcommit, ite_self]

/-! ### Manual axes, and the times of a solve (R180, R184) -/

theorem State.joyAxis_unseen {β : Type} {p : State → β} (h : Unseen (· ∈ [R.HELM_EVT_JOY_LOST]) p)
    (hsticks : ∀ (u : State) m l, p { u with helm := { u.helm with manual := m, joyLost := l } } = p u) (s : State) (a : Nat) :
    p (s.joyAxis a) = p s := by
  unfold State.joyAxis
  extract_lets i r ok lost goal old st new nowLost _ moved
  have hmoved : p moved = p s := hsticks s _ _
  split
  · exact (h.told _ _ (State.alarm_framed _ _ _ _ _ (.refl _ _))).trans
      ((h.evt moved _ 0 (List.mem_singleton.2 rfl)).trans hmoved)
  split
  · exact (h.told _ _ (State.clearAlarm_framed _ _ _ _ _ (.refl _ _))).trans hmoved
  · exact hmoved

/-- The three axes take their manual demand. -/
def State.sticks (s : State) : State := ((s.joyAxis 0).joyAxis 1).joyAxis 2

theorem State.sticks_unseen {β : Type} {p : State → β} (h : Unseen (· ∈ [R.HELM_EVT_JOY_LOST]) p)
    (hsticks : ∀ (u : State) m l, p { u with helm := { u.helm with manual := m, joyLost := l } } = p u) (s : State) :
    p s.sticks = p s :=
  (State.joyAxis_unseen h hsticks _ 2).trans ((State.joyAxis_unseen h hsticks _ 1).trans (State.joyAxis_unseen h hsticks _ 0))

/-- A solve is over, and its times are shown. -/
def State.solveTimed (s : State) : State :=
  let u := State.set { s with helm := { s.helm with solving := none } } R.HELM_SOLVE_LAST_US (s.get R.YUZ_LAST_TIME_TOTAL_US 1)
  u.set R.HELM_SOLVE_MAX_US (max (u.get R.HELM_SOLVE_MAX_US) (u.get R.HELM_SOLVE_LAST_US))

/-- The fields written at the end of a solve before it is known whether it missed. -/
def solveFlds : List Fld := [R.HELM_SOLVE_LAST_US, R.HELM_SOLVE_MAX_US, R.HELM_EVT_JOY_LOST]

/-- The state in which the end of a solve is judged. -/
def State.solveOver (s : State) : State := s.solveTimed.sticks

section
variable (s : State)

theorem State.solveOver_get {f : Fld} (b : Nat) (h : apartFrom solveFlds f = true) : s.solveOver.get f b = s.get f b := by
  have hu := unseen_get_of_apartFrom b h
  exact (State.sticks_unseen (hu.mono fun _ hg => List.mem_singleton.1 hg ▸ by decide) (fun _ _ _ => rfl) _).trans
    ((hu.set _ _ _ 0 (by decide)).trans (hu.set _ _ _ 0 (by decide)))

theorem State.solveOver_helm {β : Type} (g : HelmSt → β) (hg : ∀ x m l, g { x with manual := m, joyLost := l } = g x) :
    g s.solveOver.helm = g { s.helm with solving := none } :=
  State.sticks_unseen (unseen_helm g) (fun u => hg u.helm) s.solveTimed

end

/-! ### A missed solve and a valid one (R179, R190) -/

@[simp] theorem State.noteMiss_get (s : State) (f : Fld) (b : Nat) : s.noteMiss.get f b = s.get f b := rfl

@[simp] theorem State.noteMiss_helm (s : State) : s.noteMiss.helm = s.helm := rfl

section
variable (s : State)

theorem State.helmMissed_helm : s.helmMissed.helm = s.helm := by simp [State.helmMissed, State.inc_eq]

theorem State.helmMissed_shows :
    s.helmMissed.get R.HELM_STAT_REUSED = 1 ∧ s.helmMissed.get R.HELM_MISS_RUN = min 3 (s.get R.HELM_MISS_RUN + 1) ∧
    s.helmMissed.get R.HELM_EVT_MISS = 1 ∧
    s.helmMissed.get R.HELM_MISS_TOTAL = (s.get R.HELM_MISS_TOTAL + 1) % 2 ^ R.HELM_MISS_TOTAL.width := by
  unfold State.helmMissed
  simp (disch := decide) only [State.record_get, State.evt_get_ne, State.evt_get_same, State.noteMiss_get, State.inc_eq,
    State.get_set_ne, State.get_set_same]
  exact ⟨rfl, Nat.mod_eq_of_lt (lt_of_le_of_lt (Nat.min_le_left _ _) (by decide)), rfl, trivial⟩

/-- The fields of a solve's residual and numeric flags. -/
def numericFlds : List Fld :=
  [R.HELM_RES_RES, R.HELM_STAT_RES_HIGH, R.HELM_STAT_SAT, R.HELM_STAT_PIVOT_CLAMPED, R.HELM_EVT_NUMERIC]

theorem State.helmNumeric_unseen {β : Type} {p : State → β} (h : Unseen (· ∈ numericFlds) p) : p s.helmNumeric = p s := by
  unfold State.helmNumeric
  extract_lets res high sat cl s₁ s₂
  have hshown : p s₂ = p s := (h.set _ _ _ 0 (by decide)).trans ((h.set _ _ _ 0 (by decide)).trans
    ((h.set _ _ _ 0 (by decide)).trans (h.set _ _ _ 0 (by decide))))
  split
  · exact (h.record _ _).trans ((h.evt _ _ 0 (by decide)).trans hshown)
  · exact hshown

/-- A valid solve ends the run of misses, and shows its residual and flags. -/
def State.helmSolved : State := ((s.set R.HELM_STAT_REUSED 0).set R.HELM_MISS_RUN 0).helmNumeric

theorem State.helmSolved_helm : s.helmSolved.helm = s.helm := State.helmNumeric_unseen _ (unseen_helm id)

theorem State.helmSolved_mode : s.helmSolved.mode = s.mode :=
  (State.helmNumeric_unseen _ (unseen_get_of_apartFrom 0 (by decide))).trans
    ((State.get_set_ne _ _ _ _ (by decide)).trans (State.get_set_ne _ _ _ _ (by decide)))

theorem State.helmSolved_shows : s.helmSolved.get R.HELM_STAT_REUSED = 0 ∧ s.helmSolved.get R.HELM_MISS_RUN = 0 := by
  have hget {f : Fld} (h : apartFrom numericFlds f = true) :
      s.helmSolved.get f = ((s.set R.HELM_STAT_REUSED 0).set R.HELM_MISS_RUN 0).get f :=
    State.helmNumeric_unseen _ (unseen_get_of_apartFrom 0 h)
  exact ⟨(hget (by decide)).trans ((State.get_set_ne _ _ _ _ (by decide)).trans (State.get_set_same _ _ _ _)),
    (hget (by decide)).trans (State.get_set_same _ _ _ _)⟩

end

/-! ### The output of a cycle (R188, R189, R192) -/

section
variable (s : State) (new : List Rat)

/-- A blend of no length yet takes its length. -/
def State.blendBegun : State :=
  match s.helm.blend with | some b => if b.len = 0 then s.blendFirst b new else s | none => s

/-- The force of the cycle: the new one, or its blend with the old. -/
def State.forceOut : List Rat := match s.helm.blend with | some b => blended b new | none => new

/-- The force of the cycle is noted and shown, with what is left of a blend. -/
def State.forceShown (out : List Rat) : State :=
  let s : State := { s with helm := { s.helm with tauOut := out, tauNew := new } }
  let s := ((s.setQ R.HELM_TAU_X_CKN (ax out 0 * 100)).setQ R.HELM_TAU_Y_CKN (ax out 1 * 100)).setQ R.HELM_TAU_N_DKNM (ax out 2 * 10)
  match s.helm.blend with
  | some b => s.setU R.HELM_BLEND_LEFT_DS (((b.len - b.n : Nat) : Rat) / 2)
  | none => s.set R.HELM_BLEND_LEFT_DS 0

theorem State.helmOutput_eq : s.helmOutput new =
    ((s.blendBegun new).forceShown new ((s.blendBegun new).forceOut new)).helmPoints.allocSubmit
      ((s.blendBegun new).forceOut new) := rfl

/-- The fields of the block of the helm that an output writes. -/
def outputFlds : List Fld :=
  [R.HELM_BLEND_DISAGREE, R.HELM_BLEND_LENGTHENED, R.HELM_EVT_BLEND_LONG, R.HELM_TAU_X_CKN, R.HELM_TAU_Y_CKN,
   R.HELM_TAU_N_DKNM, R.HELM_BLEND_LEFT_DS]

theorem State.blendFirst_unseen {β : Type} {p : State → β} (h : Unseen (· ∈ outputFlds) p)
    (hblend : ∀ (u : State) x, p { u with helm := { u.helm with blend := x } } = p u) (b : Blend) :
    p (s.blendFirst b new) = p s := by
  unfold State.blendFirst
  extract_lets d n long _ s₁ s₂
  have hshown : p s₂ = p s := (h.set _ _ _ 0 (by decide)).trans ((h.set _ _ _ 0 (by decide)).trans (hblend s _))
  split
  · exact (h.record _ _).trans ((h.evt _ _ 0 (by decide)).trans hshown)
  · exact hshown

theorem State.blendBegun_unseen {β : Type} {p : State → β} (h : Unseen (· ∈ outputFlds) p)
    (hblend : ∀ (u : State) x, p { u with helm := { u.helm with blend := x } } = p u) : p (s.blendBegun new) = p s := by
  unfold State.blendBegun
  split
  · split
    · exact State.blendFirst_unseen s new h hblend _
    · rfl
  · rfl

theorem State.forceShown_get (out : List Rat) {f : Fld} (b : Nat) (h : apartFrom outputFlds f = true) :
    (s.forceShown new out).get f b = s.get f b := by
  have hu := unseen_get_of_apartFrom b h
  unfold State.forceShown
  extract_lets _ s₁ s₂
  have hforce : s₂.get f b = s.get f b := (hu.set _ _ _ 0 (by decide)).trans
    ((hu.set _ _ _ 0 (by decide)).trans (hu.set _ _ _ 0 (by decide)))
  split
  · exact (hu.set _ _ _ 0 (by decide)).trans hforce
  · exact (hu.set _ _ _ 0 (by decide)).trans hforce

theorem State.forceShown_helm (out : List Rat) :
    (s.forceShown new out).helm = { s.helm with tauOut := out, tauNew := new } := by
  unfold State.forceShown
  extract_lets _ s₁ s₂
  split <;> rfl

theorem State.allocSubmit_get (tau : List Rat) {f : Fld} (b : Nat) (hn : noteFld f = false) (hy : ¬ YuzFld f) :
    (s.allocSubmit tau).get f b = s.get f b :=
  State.yuzSubmit_unseen (unseen_get b hn fun _ hg e => hy (show fkey f / 131072 = 9 from e ▸ hg)) (fun _ _ => rfl) s _

theorem State.allocSubmit_helm (tau : List Rat) : (s.allocSubmit tau).helm = s.helm :=
  State.yuzSubmit_unseen (unseen_helm id) (fun _ _ => rfl) s _

theorem State.helmOutput_get {f : Fld} (b : Nat) (h : apartFrom outputFlds f = true) (hy : ¬ YuzFld f) :
    (s.helmOutput new).get f b = s.get f b := by
  rw [State.helmOutput_eq, State.allocSubmit_get _ _ b (noteFld_of_apartFrom h) hy,
    State.helmPoints_keeps (fun u => u.get f b) (fun _ _ => rfl), State.forceShown_get _ _ _ b h]
  exact State.blendBegun_unseen s new (unseen_get_of_apartFrom b h) fun _ _ => rfl

theorem State.helmOutput_helm : (s.helmOutput new).helm =
    { (s.blendBegun new).helm with tauOut := (s.blendBegun new).forceOut new, tauNew := new } := by
  rw [State.helmOutput_eq, State.allocSubmit_helm, State.helmPoints_keeps (·.helm) (fun _ _ => rfl), State.forceShown_helm]

/-- An output leaves what is noted of the solve. -/
theorem State.helmOutput_solve : (s.helmOutput new).helm.solving = s.helm.solving ∧
    (s.helmOutput new).helm.lastValid = s.helm.lastValid := by
  rw [State.helmOutput_helm]
  exact ⟨State.blendBegun_unseen s new (unseen_helm HelmSt.solving) fun _ _ => rfl,
    State.blendBegun_unseen s new (unseen_helm HelmSt.lastValid) fun _ _ => rfl⟩

/-- Allocation starts on the force of the cycle. -/
theorem State.helmOutput_alloc : (s.helmOutput new).alloc.tau = (s.helmOutput new).helm.tauOut ∧
    (s.helmOutput new).alloc.solving ≠ none := by
  rw [State.helmOutput_helm]
  exact ⟨rfl, Option.some_ne_none _⟩

/-- Without a blend the force of the cycle is the new one. -/
theorem State.helmOutput_unblended (hb : s.helm.blend = none) :
    (s.helmOutput new).helm.tauOut = new ∧ (s.helmOutput new).helm.tauNew = new := by
  have hbegun : s.blendBegun new = s := by
    unfold State.blendBegun
    rw [hb]
  have hout : s.forceOut new = new := by
    unfold State.forceOut
    rw [hb]
  rw [State.helmOutput_helm, hbegun, hout]
  exact ⟨rfl, rfl⟩

end

/-! ### The solve of a cycle ends (R179, R180, R190) -/

section
variable (s : State)

/-- A missed cycle sends the last valid force again, or the old one. -/
def State.reusedForce : List Rat :=
  s.newForce (s.helm.lastValid.getD (match s.helm.blend with | some b => b.old | none => s.helm.tauOut))

/-- A valid force is kept for a miss to come. -/
def State.keepForce (new : List Rat) : State := { s with helm := { s.helm with lastValid := some new } }

variable (dt q : Nat) (f : List Rat)

theorem exec_helmSolveDone_idle (hq : s.helm.solving = none) : exec (.helmSolveDone dt f) s = .next (s.advance dt) := by
  show execHelmSolveDone dt f s = _
  unfold execHelmSolveDone
  dsimp only
  rw [State.advance_helm, hq]

section
variable (hq : s.helm.solving = some q) (hseq : s.get R.YUZ_LAST_SEQ_SEQ 1 = q)
include hq hseq

/-- The end of a solve is judged once its times and the manual axes are noted: a missed one sends a force again, a valid one its
own. -/
theorem exec_helmSolveDone_over : exec (.helmSolveDone dt f) s =
    if (s.advance dt).solveOver.get R.YUZ_LAST_STAT_MISS 1 = 1 then
      .next ((s.advance dt).solveOver.helmMissed.helmOutput (s.advance dt).solveOver.helmMissed.reusedForce)
    else .next (((s.advance dt).solveOver.helmSolved.keepForce ((s.advance dt).solveOver.helmSolved.newForce f)).helmOutput
      ((s.advance dt).solveOver.helmSolved.newForce f)) := by
  show execHelmSolveDone dt f s = _
  unfold execHelmSolveDone
  extract_lets u _ s₁ s₂ s₃ ended missed old solved new _ kept
  have hended : ended = (s.advance dt).solveOver := rfl
  rw [← hended]
  clear_value ended
  split
  next hnone => exact absurd (hq.symm.trans hnone) (Option.some_ne_none q)
  next q' hsome =>
    have hmine : ¬ u.get R.YUZ_LAST_SEQ_SEQ 1 ≠ q' := not_not.2 (hseq.trans (Option.some_inj.1 (hq.symm.trans hsome)))
    rw [if_neg hmine]
    rfl

theorem helmSolveDone_missed (hm : s.get R.YUZ_LAST_STAT_MISS 1 = 1) :
    ∃ t, exec (.helmSolveDone dt f) s = .next t ∧ t.helm.solving = none ∧ t.get R.HELM_STAT_REUSED = 1 ∧
      t.get R.HELM_MISS_RUN = min 3 (s.get R.HELM_MISS_RUN + 1) ∧ t.get R.HELM_EVT_MISS = 1 ∧
      t.helm.lastValid = s.helm.lastValid ∧
      t.get R.HELM_MISS_TOTAL = (s.get R.HELM_MISS_TOTAL + 1) % 2 ^ R.HELM_MISS_TOTAL.width := by
  have hmiss := (State.solveOver_get (s.advance dt) 1 (by decide)).trans hm
  obtain ⟨hreused, hrun, hevt, htotal⟩ := (s.advance dt).solveOver.helmMissed_shows
  obtain ⟨hsolving, hvalid⟩ :=
    (s.advance dt).solveOver.helmMissed.helmOutput_solve (s.advance dt).solveOver.helmMissed.reusedForce
  rw [State.helmMissed_helm] at hsolving hvalid
  rw [State.solveOver_get _ _ (by decide), State.advance_get] at hrun htotal
  refine ⟨_, (exec_helmSolveDone_over s dt q f hq hseq).trans (if_pos hmiss), hsolving.trans ?_, ?_, ?_, ?_,
    hvalid.trans ?_, ?_⟩
  · exact State.solveOver_helm (s.advance dt) HelmSt.solving fun _ _ _ => rfl
  · exact (State.helmOutput_get _ _ 0 (by decide) (by decide)).trans hreused
  · exact (State.helmOutput_get _ _ 0 (by decide) (by decide)).trans hrun
  · exact (State.helmOutput_get _ _ 0 (by decide) (by decide)).trans hevt
  · exact State.solveOver_helm (s.advance dt) HelmSt.lastValid fun _ _ _ => rfl
  · exact (State.helmOutput_get _ _ 0 (by decide) (by decide)).trans htotal

theorem helmSolveDone_valid (hm : s.get R.YUZ_LAST_STAT_MISS 1 = 0) (hb : s.helm.blend = none) :
    ∃ t, exec (.helmSolveDone dt f) s = .next t ∧ t.helm.solving = none ∧ t.get R.HELM_STAT_REUSED = 0 ∧
      t.get R.HELM_MISS_RUN = 0 ∧ t.helm.lastValid = some t.helm.tauNew ∧ t.helm.tauOut = t.helm.tauNew ∧
      t.alloc.tau = t.helm.tauOut ∧ t.alloc.solving ≠ none ∧ t.mode = s.mode := by
  have hvalid : ¬ (s.advance dt).solveOver.get R.YUZ_LAST_STAT_MISS 1 = 1 := fun e =>
    absurd (hm.symm.trans ((State.solveOver_get (s.advance dt) 1 (by decide)).symm.trans e)) (by decide)
  have hexec := (exec_helmSolveDone_over s dt q f hq hseq).trans (if_neg hvalid)
  obtain ⟨hreused, hrun⟩ := (s.advance dt).solveOver.helmSolved_shows
  have hmode : (s.advance dt).solveOver.helmSolved.mode = s.mode :=
    (State.helmSolved_mode _).trans (State.solveOver_get (s.advance dt) 0 (by decide))
  have hsolving : (s.advance dt).solveOver.helmSolved.helm.solving = none :=
    (congrArg HelmSt.solving (State.helmSolved_helm _)).trans
      (State.solveOver_helm (s.advance dt) HelmSt.solving fun _ _ _ => rfl)
  have hblend : (s.advance dt).solveOver.helmSolved.helm.blend = none :=
    (congrArg HelmSt.blend (State.helmSolved_helm _)).trans
      ((State.solveOver_helm (s.advance dt) HelmSt.blend fun _ _ _ => rfl).trans hb)
  generalize (s.advance dt).solveOver.helmSolved = u at hexec hreused hrun hmode hsolving hblend
  obtain ⟨htau, hnew⟩ := (u.keepForce (u.newForce f)).helmOutput_unblended (u.newForce f) hblend
  obtain ⟨hidle, hlast⟩ := (u.keepForce (u.newForce f)).helmOutput_solve (u.newForce f)
  obtain ⟨halloc, hsubmitted⟩ := (u.keepForce (u.newForce f)).helmOutput_alloc (u.newForce f)
  refine ⟨_, hexec, hidle.trans hsolving, ?_, ?_, ?_, htau.trans hnew.symm, halloc, hsubmitted, ?_⟩
  · exact (State.helmOutput_get _ _ 0 (by decide) (by decide)).trans hreused
  · exact (State.helmOutput_get _ _ 0 (by decide) (by decide)).trans hrun
  · rw [hlast, hnew]
    rfl
  · exact (State.helmOutput_get _ _ 0 (by decide) (by decide)).trans hmode

end

/-! ### The limit of misses, and the end of a blend (R188, R191) -/

theorem helmMissLimit_faults (h : 3 ≤ s.get R.HELM_MISS_RUN) :
    ∃ t, exec (.helmMissLimit dt) s = .next t ∧ t.get R.DEV_FAULT_CAUSE = 7 ∧ t.get R.DEV_FAULT_UNIT = 0xFFFF ∧
      t.get R.DEV_EVT_FAULT = 1 := ⟨_, if_pos h, (s.advance dt).deviceFault_shows 7 0xFFFF⟩

theorem exec_helmMissLimit_below (h : s.get R.HELM_MISS_RUN < 3) :
    exec (.helmMissLimit dt) s = .next (s.advance dt) := if_neg (Nat.not_le.2 h)

/-- The fields that show a running blend. -/
def blendFlds : List Fld := [R.MODE_STAT_BLEND, R.HELM_STAT_BLEND, R.HELM_BLEND_LEFT_DS]

/-- A blend is over, and shows it. -/
def State.blendOver : State :=
  ((State.set { s with helm := { s.helm with blend := none } } R.MODE_STAT_BLEND 0).set R.HELM_STAT_BLEND 0).set
    R.HELM_BLEND_LEFT_DS 0

theorem State.blendOver_shows : s.blendOver.get R.MODE_STAT_BLEND = 0 ∧ s.blendOver.get R.HELM_STAT_BLEND = 0 ∧
    s.blendOver.get R.HELM_BLEND_LEFT_DS = 0 := by
  unfold State.blendOver
  simp (disch := decide) only [State.get_set_ne, State.get_set_same]
  exact ⟨rfl, rfl, rfl⟩

theorem State.blendOver_framed :
    Framed (regKeys 0 blendFlds) { s with helm := { s.helm with blend := none } } s.blendOver :=
  set_framed _ _ _ _ (.inl (by decide)) (set_framed _ _ _ _ (.inl (by decide))
    (set_framed _ _ _ _ (.inl (by decide)) (.refl _ _)))

theorem exec_blendEnd_none (hb : s.helm.blend = none) : exec (.blendEnd dt) s = .next (s.advance dt) := by
  show execBlendEnd dt s = _
  unfold execBlendEnd
  dsimp only
  rw [State.advance_helm, hb]

section
variable (b : Blend) (hb : s.helm.blend = some b)
include hb

/-- Where there is a blend, its length decides. -/
theorem exec_blendEnd_some : exec (.blendEnd dt) s =
    if 0 < b.len && b.len ≤ b.n then .next (s.advance dt).blendOver else .next (s.advance dt) := by
  show execBlendEnd dt s = _
  unfold execBlendEnd
  dsimp only
  rw [State.advance_helm, hb]
  rfl

theorem exec_blendEnd_running (h : b.len = 0 ∨ b.n < b.len) : exec (.blendEnd dt) s = .next (s.advance dt) :=
  (exec_blendEnd_some s dt b hb).trans (if_neg (by
    simp only [Bool.and_eq_true, decide_eq_true_eq]
    omega))

theorem blendEnd_ends (h0 : 0 < b.len) (hn : b.len ≤ b.n) :
    ∃ t, exec (.blendEnd dt) s = .next t ∧ t.helm.blend = none ∧ t.get R.MODE_STAT_BLEND = 0 ∧
      t.get R.HELM_STAT_BLEND = 0 ∧ t.get R.HELM_BLEND_LEFT_DS = 0 ∧
      Framed (regKeys 0 blendFlds) { s.advance dt with helm := { s.helm with blend := none } } t := by
  obtain ⟨hmode, hhelm, hleft⟩ := (s.advance dt).blendOver_shows
  exact ⟨_, (exec_blendEnd_some s dt b hb).trans (if_pos (by simp [h0, hn])), rfl, hmode, hhelm, hleft,
    (s.advance dt).blendOver_framed⟩

end

end

/-- Settles O31: each clause is the lemma of its command above. -/
theorem helmCycles : Obligations.HelmCycles := by
  unfold Obligations.HelmCycles
  exact ⟨fun dt q f s hq hseq => helmSolveDone_valid s dt q f hq hseq,
    fun dt q f s hq hseq => helmSolveDone_missed s dt q f hq hseq, fun dt f s => exec_helmSolveDone_idle s dt f,
    fun dt s => helmMissLimit_faults s dt, fun dt s => exec_helmMissLimit_below s dt,
    fun dt b s hb => blendEnd_ends s dt b hb, fun dt b s hb => exec_blendEnd_running s dt b hb,
    fun dt s => exec_blendEnd_none s dt⟩

end Sys2Proof.Machine
end

section
/-!
PROOF of the statement of 08_allocation.md about thrust allocation (ThrustAllocation): what the work of the two solves leaves alone,
the consequence batch submitted, the allocation batch missed and valid, the ends of a consequence batch, and then the limits, buses,
thrusters and their commands.
-/

namespace Sys2Proof.Machine

open Sys2Proof

/-! ### The data of allocation -/

section
variable {ks : List Nat} {s t : State} {x : AllocSt}

theorem Framed.withAlloc (x : AllocSt) (h : Framed ks s t) : Framed ks { s with alloc := x } { t with alloc := x } :=
  ⟨congrArg (fun u : State => { u with alloc := x }) h.plain, h.regs⟩

theorem Framed.alloc_eq (h : Framed ks s t) : t.alloc = s.alloc := State.of_plain_alloc h.plain

/-- A frame over given data of allocation is a frame over the data the command leaves. -/
theorem Framed.ownAlloc (h : Framed ks { s with alloc := x } t) : Framed ks { s with alloc := t.alloc } t := by
  rw [h.alloc_eq]
  exact h

end

section
variable {β : Type} {P : Fld → Prop}

/-- No write of a field changes a view of the data of allocation. -/
theorem unseen_alloc (g : AllocSt → β) : Unseen P (fun u : State => g u.alloc) :=
  ⟨fun _ _ _ _ _ => rfl, fun _ _ h => congrArg g h.alloc_eq⟩

/-- No write of a field changes the points. -/
theorem unseen_pts : Unseen P State.pts := ⟨fun _ _ _ _ _ => rfl, fun _ _ h => State.of_plain_pts h.plain⟩

end

/-! ### What the work of the two solves leaves alone -/

/-- The fields that show what the solves of allocation and of the consequence analysis yield; the runs of misses, the age of the
analysis and the events of a miss are not among them. -/
def solveShownFlds : List Fld :=
  [R.ALLOC_TIME_A_US, R.ALLOC_STAT_TRIMMED, R.ALLOC_EVT_TRIM, R.ALLOC_STAT_SAT, R.ALLOC_STAT_PIVOT_CLAMPED,
   R.ALLOC_EVT_NUMERIC, R.ALLOC_CAP_X_CKN, R.ALLOC_CAP_Y_CKN, R.ALLOC_CAP_N_DKNM, R.ALLOC_THR_STAT_KIND,
   R.ALLOC_THR_STAT_BUS, R.ALLOC_THR_STAT_IN_ZONE, R.ALLOC_THR_STAT_POWER_KW, R.ALLOC_THR_OUT_THRUST,
   R.ALLOC_THR_OUT_AZ, R.ALLOC_THR_FB_THRUST, R.ALLOC_THR_FB_AZ, R.ALLOC_BUS_STAT_AVAIL_KW, R.ALLOC_BUS_STAT_LOAD_KW,
   R.ALLOC_TIME_C_US, R.ALLOC_CASE_STAT_KIND, R.ALLOC_CASE_STAT_INDEX, R.ALLOC_CASE_STAT_STATE, R.ALLOC_CASE_STAT_FAIL,
   R.ALLOC_CASE_STAT_TRIMMED, R.ALLOC_CASE_STAT_AGE, R.ALLOC_CASE_DXY_DX, R.ALLOC_CASE_DXY_DY, R.ALLOC_CASE_DN_DN,
   R.ALLOC_CONS_SUM_FAILS, R.ALLOC_CONS_SUM_WORST, R.ALLOC_CONS_SUM_WORST_VALID, R.ALLOC_CONS_SUM_RUN,
   R.ALLOC_STAT_CONS_ALARM, R.ALLOC_EVT_CONS_ALARM]

/-- A reading of the data of allocation that leaves out what the solves work on. -/
def WorkApart {β : Type} (g : AllocSt → β) : Prop := ∀ a thr short clear cases clearRun missAt, g { a with
  thr := thr, shortRun := short, shortClear := clear, cases := cases, clearRun := clearRun, missAt := missAt } = g a

/-- A view of the state that the work of the solves does not change: neither the fields that show it, nor the points it commits, nor
the data it works on. -/
structure SolveKeeps {β : Type} (p : State → β) : Prop extends Unseen (· ∈ solveShownFlds) p where
  commits : ∀ (u : State) l, p { u with commits := l } = p u
  work : ∀ u : State, WorkApart fun a => p { u with alloc := a }

theorem solveKeeps_get {f : Fld} (b : Nat) (h : apartFrom solveShownFlds f = true) :
    SolveKeeps (fun u : State => u.get f b) :=
  ⟨unseen_get_of_apartFrom b h, fun _ _ => rfl, fun _ _ _ _ _ _ _ _ => rfl⟩

theorem solveKeeps_pts : SolveKeeps State.pts := ⟨unseen_pts, fun _ _ => rfl, fun _ _ _ _ _ _ _ _ => rfl⟩

theorem solveKeeps_alloc {β : Type} {g : AllocSt → β} (hg : WorkApart g) : SolveKeeps (fun u : State => g u.alloc) :=
  ⟨unseen_alloc g, fun _ _ => rfl, fun _ => hg⟩

section
variable {β : Type} {p : State → β} (h : SolveKeeps p) (s : State)
include h

theorem State.withCases_solveKeeps (l : Tab (List Rat)) : p { s with alloc := { s.alloc with cases := l } } = p s :=
  h.work s s.alloc _ _ _ _ _ _

theorem State.withClearRun_solveKeeps (n : Nat) : p { s with alloc := { s.alloc with clearRun := n } } = p s :=
  h.work s s.alloc _ _ _ _ _ _

theorem State.putThr_solveKeeps (i : Nat) (x : ThrSt) : p (s.putThr i x) = p s := h.work s s.alloc _ _ _ _ _ _

/-! ### Output points (R215) -/

theorem State.thrOut_solveKeeps (q : Quality) (i : Nat) : p (s.thrOut q i) = p s := by
  unfold State.thrOut
  split
  · rfl
  next c =>
    simp (disch := decide) only [State.setQ, State.setI, State.setU, State.setB, h.set, State.commitAll_keeps p h.commits]

theorem State.busOut_solveKeeps (b : Nat) : p (s.busOut b) = p s := by
  unfold State.busOut
  simp (disch := decide) only [State.setU, h.set, State.commitAll_keeps p h.commits]

theorem State.allocOut_solveKeeps (q : Quality) : p (s.allocOut q) = p s := by
  unfold State.allocOut
  extract_lets thrs buses caps
  have hthrs : p thrs = p s := foldl_keeps p _ (fun u i => State.thrOut_solveKeeps h u q i) s
  have hbuses : p buses = p thrs := foldl_keeps p _ (fun u b => State.busOut_solveKeeps h u b) thrs
  exact (State.commitAll_keeps p h.commits _ _ _ _ _).trans
    ((State.commitAll_keeps p h.commits _ _ _ _ _).trans (hbuses.trans hthrs))

/-! ### The solution of an allocation batch (R200 to R204) -/

theorem State.takeSolution_solveKeeps (i : Nat) (f : Rat × Rat) : p (s.takeSolution i f) = p s := by
  unfold State.takeSolution
  split
  · rfl
  next c =>
    extract_lets t fb a0 zone thrust az s₁
    have htaken : p s₁ = p s := State.putThr_solveKeeps h s i _
    split
    · exact htaken
    · exact (h.record _ _).trans htaken

theorem State.trimBus_solveKeeps (b : Nat) : p (s.trimBus b) = p s := by
  unfold State.trimBus
  extract_lets on sum k s₁ s₂
  split
  · rfl
  · have htrimmed : p s₁ = p s := foldl_keeps p _ (fun u i => State.putThr_solveKeeps h u i _) s
    exact (h.record _ _).trans ((h.evt _ _ 0 (by decide)).trans ((h.set _ _ _ 0 (by decide)).trans htrimmed))

theorem State.allocNumeric_solveKeeps : p s.allocNumeric = p s := by
  unfold State.allocNumeric
  extract_lets sat cl s₁
  have hshown : p s₁ = p s := (h.set _ _ _ 0 (by decide)).trans (h.set _ _ _ 0 (by decide))
  split
  · exact (h.record _ _).trans ((h.evt _ _ 0 (by decide)).trans hshown)
  · exact hshown

theorem State.countShort_solveKeeps : p s.countShort = p s := h.work s s.alloc _ _ _ _ _ _

theorem State.setCap_solveKeeps (hcap : ∀ (u : State) c, p { u with alloc := { u.alloc with cap := c } } = p u) :
    p s.setCap = p s :=
  (h.set _ _ _ 0 (by decide)).trans ((h.set _ _ _ 0 (by decide)).trans ((h.set _ _ _ 0 (by decide)).trans (hcap s _)))

/-! ### The cases of a consequence batch (R208 to R210) -/

theorem State.takeCase_solveKeeps (c : Nat) (r : CaseRes) : p (s.takeCase c r) = p s := by
  unfold State.takeCase
  extract_lets k listed isDone base notApplicable _ kept d f _ taken judged trimmed y numeric shown₁ shown₂
  have hlisted : p listed = p s := (h.set _ _ _ c (by decide)).trans (h.set _ _ _ c (by decide))
  clear_value listed
  split
  · exact (State.withCases_solveKeeps h notApplicable _).trans ((State.commitAll_keeps p h.commits _ _ _ _ _).trans
      ((h.set _ _ _ c (by decide)).trans ((h.set _ _ _ c (by decide)).trans hlisted)))
  split
  · exact (State.commitAll_keeps p h.commits _ _ _ _ _).trans ((h.set _ _ _ c (by decide)).trans hlisted)
  · have htaken : p taken = p s := (State.withCases_solveKeeps h listed _).trans hlisted
    have hjudged : p judged = p taken := (h.set _ _ _ c (by decide)).trans ((h.set _ _ _ c (by decide)).trans
      (h.set _ _ _ c (by decide)))
    have htrimmed : p trimmed = p judged := foldl_keeps p _ (fun u x => h.record u _) judged
    have hnumeric : p numeric = p trimmed := by simp only [numeric, apply_ite p, h.record, ite_self]
    have hshown : p shown₂ = p numeric := (h.set _ _ _ c (by decide)).trans ((h.set _ _ _ c (by decide)).trans
      ((h.set _ _ _ c (by decide)).trans (h.set _ _ _ c (by decide))))
    exact (State.commitAll_keeps p h.commits _ _ _ _ _).trans (hshown.trans (hnumeric.trans (htrimmed.trans
      (hjudged.trans htaken))))

/-- The failing cases are counted, and the worst is named. -/
def State.casesCounted (s : State) : State :=
  ((s.set R.ALLOC_CONS_SUM_FAILS ((List.range s.caseCount).filter fun c => s.get R.ALLOC_CASE_STAT_FAIL c = 1).length).set
    R.ALLOC_CONS_SUM_WORST (s.worstCase.getD 0)).setB R.ALLOC_CONS_SUM_WORST_VALID s.worstCase.isSome

theorem State.casesCounted_solveKeeps : p s.casesCounted = p s :=
  (h.set _ _ _ 0 (by decide)).trans ((h.set _ _ _ 0 (by decide)).trans (h.set _ _ _ 0 (by decide)))

/-- Once the age of the analysis starts afresh, its judgement works on its runs and on CONS-ALARM alone. -/
theorem State.consJudge_solveKeeps : p s.consJudge = p (s.casesCounted.set R.ALLOC_CONS_SUM_AGE 0) := by
  unfold State.consJudge
  extract_lets fails w s₁ s₂ _ s₃ d items on
  have hrun : p s₃ = p s₂ := by
    simp only [s₃]
    split
    · exact (h.set _ _ _ 0 (by decide)).trans (State.withClearRun_solveKeeps h s₂ _)
    · exact (h.set _ _ _ 0 (by decide)).trans (State.withClearRun_solveKeeps h s₂ _)
  split
  · exact (h.told _ _ (State.alarm_framed _ _ _ _ _ (.refl _ _))).trans
      ((h.evt _ _ 0 (by decide)).trans ((h.set _ _ _ 0 (by decide)).trans hrun))
  split
  · exact (h.told _ _ (State.clearAlarm_framed _ _ _ _ _ (.refl _ _))).trans ((h.set _ _ _ 0 (by decide)).trans hrun)
  · exact hrun

end

theorem State.consJudge_age (s : State) : s.consJudge.get R.ALLOC_CONS_SUM_AGE = 0 :=
  (State.consJudge_solveKeeps (solveKeeps_get 0 (by decide)) s).trans (State.get_set_same _ _ _ _)

/-- What shows another thing than the age of the analysis is not changed by its judgement. -/
theorem State.consJudge_keeps {β : Type} {p : State → β} (h : SolveKeeps p)
    (hage : ∀ u : State, p (u.set R.ALLOC_CONS_SUM_AGE 0) = p u) (s : State) : p s.consJudge = p s :=
  (State.consJudge_solveKeeps h s).trans ((hage _).trans (State.casesCounted_solveKeeps h s))

section
variable (s : State)

theorem State.consJudge_get {f : Fld} (b : Nat) (h : apartFrom solveShownFlds f = true)
    (hage : fkey f ≠ fkey R.ALLOC_CONS_SUM_AGE) : s.consJudge.get f b = s.get f b :=
  State.consJudge_keeps (solveKeeps_get b h) (fun _ => State.get_set_ne _ _ _ _ hage) s

theorem State.consJudge_consSolving : s.consJudge.alloc.consSolving = s.alloc.consSolving :=
  State.consJudge_keeps (solveKeeps_alloc (g := AllocSt.consSolving) fun _ _ _ _ _ _ _ => rfl) (fun _ => rfl) s

end

/-! ### A consequence batch is submitted (R208, R211, R219) -/

/-- A submission changes the solver's block and the data of the batch that is submitted. -/
theorem State.consSubmit_keeps {β : Type} {p : State → β} (h : Unseen YuzFld p)
    (hyuz : ∀ (u : State) y, p { u with yuz := y } = p u)
    (hcons : ∀ (u : State) q c tau nom, p { u with alloc := { u.alloc with
      consSolving := q, consCycle := c, consTau := tau, consNom := nom } } = p u)
    (s : State) (tau nom : List Rat) : p (s.consSubmit tau nom) = p s := by
  unfold State.consSubmit
  split
  · rfl
  · exact (hcons _ _ _ _ _).trans (State.yuzSubmit_unseen h hyuz s _)

theorem State.consSubmit_get (s : State) (tau nom : List Rat) {f : Fld} (b : Nat) (hn : noteFld f = false)
    (hy : ¬ YuzFld f) : (s.consSubmit tau nom).get f b = s.get f b :=
  State.consSubmit_keeps (unseen_get b hn fun _ hg e => hy (show fkey f / 131072 = 9 from e ▸ hg)) (fun _ _ => rfl)
    (fun _ _ _ _ _ => rfl) s tau nom

theorem State.consSubmit_pts (s : State) (tau nom : List Rat) : (s.consSubmit tau nom).pts = s.pts :=
  State.consSubmit_keeps unseen_pts (fun _ _ => rfl) (fun _ _ _ _ _ => rfl) s tau nom

theorem State.consSubmit_alloc {β : Type} (g : AllocSt → β)
    (hg : ∀ a q c tau nom, g { a with consSolving := q, consCycle := c, consTau := tau, consNom := nom } = g a)
    (s : State) (tau nom : List Rat) : g (s.consSubmit tau nom).alloc = g s.alloc :=
  State.consSubmit_keeps (unseen_alloc g) (fun _ _ => rfl) (fun u => hg u.alloc) s tau nom

section
variable (s : State) (tau nom : List Rat)

/-- Where the cycle calls for a batch and has none yet, one is submitted. -/
theorem State.consSubmit_submits (hstretch : s.helm.bkTick / 5000 % s.stretch = 0) (hcases : s.caseCount ≠ 0)
    (hcycle : s.alloc.consCycle ≠ some s.helm.cycle) :
    (s.consSubmit tau nom).alloc.consSolving = some (s.consSubmit tau nom).yuz.seq ∧
      (s.consSubmit tau nom).alloc.consTau = tau ∧ (s.consSubmit tau nom).alloc.consNom = nom := by
  have hdue : ¬ (s.helm.bkTick / 5000 % s.stretch ≠ 0 || s.caseCount = 0 || s.alloc.consCycle = some s.helm.cycle) = true := by
    simp [hstretch, hcases, hcycle]
  unfold State.consSubmit
  rw [if_neg hdue]
  exact ⟨rfl, rfl, rfl⟩

variable (dt : Nat)

theorem exec_consReadySubmit_otherMode (hm : s.mode ≠ 2) : exec (.consReadySubmit dt) s = .next (s.advance dt) := by
  refine if_neg ?_
  simp only [Bool.and_eq_true, decide_eq_true_eq, and_assoc]
  exact fun e => hm e.1

section
variable (hm : s.mode = 2) (hb : s.helm.blend = none) (ht : s.helm.bk + 2000000 ≤ s.now + dt)
  (hidle : s.alloc.consSolving = none)
include hm hb ht hidle

theorem exec_consReadySubmit_due : exec (.consReadySubmit dt) s =
    .next ((s.advance dt).consSubmit (s.advance dt).measuredTau [0, 0, 0]) := by
  have hblend : (s.advance dt).blendToReady = false := by
    unfold State.blendToReady
    rw [State.advance_helm, hb]
  refine if_pos ?_
  simp [hm, hblend, ht, hidle]

theorem consReadySubmit_submits (hstretch : s.helm.bkTick / 5000 % s.stretch = 0) (hcases : s.caseCount ≠ 0)
    (hcycle : s.alloc.consCycle ≠ some s.helm.cycle) :
    ∃ t, exec (.consReadySubmit dt) s = .next t ∧ t.alloc.consSolving = some t.yuz.seq ∧
      t.alloc.consTau = (s.advance dt).measuredTau ∧ t.alloc.consNom = [0, 0, 0] ∧ t.mode = 2 := by
  obtain ⟨hsolving, htau, hnom⟩ :=
    (s.advance dt).consSubmit_submits (s.advance dt).measuredTau [0, 0, 0] hstretch hcases hcycle
  exact ⟨_, exec_consReadySubmit_due s dt hm hb ht hidle, hsolving, htau, hnom,
    (State.consSubmit_get _ _ _ 0 (by decide) (by decide)).trans hm⟩

end

end

/-! ### A missed allocation batch and a valid one (R200 to R205, R213) -/

section
variable (s : State)

/-- An allocation batch is over: its time is shown, and no trim of it yet. -/
def State.allocOver : State :=
  (State.set { s with alloc := { s.alloc with solving := none } } R.ALLOC_TIME_A_US (s.get R.YUZ_LAST_TIME_TOTAL_US 2)).set
    R.ALLOC_STAT_TRIMMED 0

theorem State.allocOver_get {f : Fld} (b : Nat) (h : apartFrom solveShownFlds f = true) : s.allocOver.get f b = s.get f b :=
  (State.get_set_ne _ _ _ _ (apartFrom_ne h (by decide))).trans (State.get_set_ne _ _ _ _ (apartFrom_ne h (by decide)))

theorem State.allocOver_alloc : s.allocOver.alloc = { s.alloc with solving := none } := rfl

theorem State.allocOver_pts : s.allocOver.pts = s.pts := rfl

/-- The commands last released are taken again. -/
def State.lastReleases : State :=
  s.thrNums.foldl (fun (s : State) i => s.putThr i { s.thrSt i with bufT := (s.thrSt i).outT, bufAz := (s.thrSt i).outAz }) s

theorem State.lastReleases_solveKeeps {β : Type} {p : State → β} (h : SolveKeeps p) : p s.lastReleases = p s :=
  foldl_keeps p _ (fun u i => State.putThr_solveKeeps h u i _) s

/-- An allocation miss is counted, and told. -/
def State.allocMissTold : State :=
  let u := ((s.set R.ALLOC_STAT_REUSED 1).set R.ALLOC_MISS_A_RUN (min 3 (s.get R.ALLOC_MISS_A_RUN + 1))).inc R.ALLOC_MISS_A_TOTAL
  (u.noteMiss.evt R.ALLOC_EVT_A_MISS).record
    { code := 0x0906, items := [(1, u.get R.ALLOC_MISS_A_RUN), (1, u.get R.YUZ_LAST_STAT_ITER_REACHED 2)], key := 0 }

theorem State.allocMissTold_shows : s.allocMissTold.get R.ALLOC_STAT_REUSED = 1 ∧
    s.allocMissTold.get R.ALLOC_MISS_A_RUN = min 3 (s.get R.ALLOC_MISS_A_RUN + 1) ∧
    s.allocMissTold.get R.ALLOC_EVT_A_MISS = 1 := by
  unfold State.allocMissTold
  simp (disch := decide) only [State.record_get, State.evt_get_ne, State.evt_get_same, State.noteMiss_get, State.inc_get_ne,
    State.get_set_ne, State.get_set_same]
  exact ⟨rfl, Nat.mod_eq_of_lt (lt_of_le_of_lt (Nat.min_le_left _ _) (by decide)), rfl⟩

theorem State.allocMissTold_alloc {β : Type} {g : AllocSt → β} (hg : WorkApart g) : g s.allocMissTold.alloc = g s.alloc := by
  unfold State.allocMissTold
  rw [State.record_alloc, State.evt_alloc]
  exact hg s.alloc _ _ _ _ _ _

/-- There is something to release. -/
def State.bufReady (deficit : List Rat) : State :=
  { s with alloc := { s.alloc with bufOk := true, deficit := deficit } }

theorem State.bufReady_get (deficit : List Rat) (f : Fld) (b : Nat) : (s.bufReady deficit).get f b = s.get f b := rfl

theorem State.bufReady_ownDeficit : (s.bufReady s.alloc.deficit).alloc = { s.alloc with bufOk := true } := rfl

theorem State.allocMissed_eq : s.allocMissed =
    (s.lastReleases.allocMissTold.bufReady s.lastReleases.allocMissTold.alloc.deficit).allocOut .uncertain := by
  unfold State.allocMissed
  extract_lets taken counted told _
  have htold : told = s.lastReleases.allocMissTold := rfl
  rw [← htold]
  clear_value told
  rfl

theorem State.allocMissed_shows : s.allocMissed.get R.ALLOC_STAT_REUSED = 1 ∧
    s.allocMissed.get R.ALLOC_MISS_A_RUN = min 3 (s.get R.ALLOC_MISS_A_RUN + 1) ∧
    s.allocMissed.get R.ALLOC_EVT_A_MISS = 1 := by
  have hget {f : Fld} (h : apartFrom solveShownFlds f = true) : s.allocMissed.get f = s.lastReleases.allocMissTold.get f :=
    ((congrArg (·.get f) s.allocMissed_eq).trans (State.allocOut_solveKeeps (solveKeeps_get 0 h) _ _)).trans
      (State.bufReady_get _ _ _ _)
  obtain ⟨hreused, hrun, hevt⟩ := s.lastReleases.allocMissTold_shows
  rw [State.lastReleases_solveKeeps s (solveKeeps_get 0 (by decide))] at hrun
  exact ⟨(hget (by decide)).trans hreused, (hget (by decide)).trans hrun, (hget (by decide)).trans hevt⟩

/-- A miss has something to release, and leaves the rest. -/
theorem State.allocMissed_alloc {β : Type} {g : AllocSt → β} (hg : WorkApart g) :
    g s.allocMissed.alloc = g { s.alloc with bufOk := true } := by
  have hready : WorkApart fun a => g { a with bufOk := true } := fun a => hg { a with bufOk := true }
  have hout : g s.allocMissed.alloc = g (s.lastReleases.allocMissTold.bufReady s.lastReleases.allocMissTold.alloc.deficit).alloc :=
    (congrArg (fun u : State => g u.alloc) s.allocMissed_eq).trans (State.allocOut_solveKeeps (solveKeeps_alloc hg) _ _)
  have htaken := s.lastReleases_solveKeeps (solveKeeps_alloc hready)
  have htold := s.lastReleases.allocMissTold_alloc hready
  exact (hout.trans (congrArg g (State.bufReady_ownDeficit _))).trans (htold.trans htaken)

variable (f : List (Rat × Rat))

/-- The thrusters take their parts of the solution, and the buses trim them. -/
def State.allocTaken : State :=
  let u := s.available.foldl (fun (u : State) i => u.takeSolution i (f.getD i (0, 0))) s
  (List.range (min 8 u.man.alloc.buses.length)).foldl (fun (u : State) b => u.trimBus b) u

theorem State.allocTaken_solveKeeps {β : Type} {p : State → β} (h : SolveKeeps p) : p (s.allocTaken f) = p s :=
  (foldl_keeps p _ (fun u b => State.trimBus_solveKeeps h u b) _).trans
    (foldl_keeps p _ (fun u i => State.takeSolution_solveKeeps h u i _) s)

/-- The solution may be released, and ends the run of misses. -/
def State.solutionReady : State :=
  ((s.bufReady (subForce s.alloc.tau s.bufForce)).set R.ALLOC_STAT_REUSED 0).set R.ALLOC_MISS_A_RUN 0

theorem State.solutionReady_shows : s.solutionReady.get R.ALLOC_STAT_REUSED = 0 ∧ s.solutionReady.get R.ALLOC_MISS_A_RUN = 0 :=
  ⟨(State.get_set_ne _ _ _ _ (by decide)).trans (State.get_set_same _ _ _ _), State.get_set_same _ _ _ _⟩

theorem State.solutionReady_mode : s.solutionReady.mode = s.mode :=
  (State.get_set_ne _ _ _ _ (by decide)).trans (State.get_set_ne _ _ _ _ (by decide))

theorem State.solutionReady_pts : s.solutionReady.pts = s.pts := rfl
theorem State.solutionReady_bufOk : s.solutionReady.alloc.bufOk = true := rfl
theorem State.solutionReady_solving : s.solutionReady.alloc.solving = s.alloc.solving := rfl

/-- What a solution gives is shown. -/
def State.solutionShown : State := (s.allocNumeric.countShort.setCap).allocOut .good

theorem State.solutionShown_keeps {β : Type} {p : State → β} (h : SolveKeeps p)
    (hcap : ∀ (u : State) c, p { u with alloc := { u.alloc with cap := c } } = p u) : p s.solutionShown = p s :=
  (State.allocOut_solveKeeps h _ _).trans ((State.setCap_solveKeeps h _ hcap).trans
    ((State.countShort_solveKeeps h _).trans (State.allocNumeric_solveKeeps h s)))

/-- A valid batch's solution is taken and shown. -/
def State.allocSolved : State := (s.allocTaken f).solutionReady.solutionShown

theorem State.allocSolved_shows : (s.allocSolved f).get R.ALLOC_STAT_REUSED = 0 ∧ (s.allocSolved f).get R.ALLOC_MISS_A_RUN = 0 := by
  obtain ⟨hreused, hrun⟩ := (s.allocTaken f).solutionReady_shows
  exact ⟨(State.solutionShown_keeps _ (solveKeeps_get 0 (by decide)) fun _ _ => rfl).trans hreused,
    (State.solutionShown_keeps _ (solveKeeps_get 0 (by decide)) fun _ _ => rfl).trans hrun⟩

theorem State.allocSolved_mode : (s.allocSolved f).mode = s.mode :=
  (State.solutionShown_keeps _ (solveKeeps_get 0 (by decide)) fun _ _ => rfl).trans
    ((State.solutionReady_mode _).trans (s.allocTaken_solveKeeps f (solveKeeps_get 0 (by decide))))

theorem State.allocSolved_pts : (s.allocSolved f).pts = s.pts :=
  (State.solutionShown_keeps _ solveKeeps_pts fun _ _ => rfl).trans
    ((s.allocTaken f).solutionReady_pts.trans (s.allocTaken_solveKeeps f solveKeeps_pts))

theorem State.allocSolved_bufOk : (s.allocSolved f).alloc.bufOk = true := by
  unfold State.allocSolved
  have hwork : SolveKeeps fun u : State => u.alloc.bufOk := solveKeeps_alloc fun _ _ _ _ _ _ _ => rfl
  have hshown := State.solutionShown_keeps (s.allocTaken f).solutionReady hwork fun _ _ => rfl
  exact hshown.trans (s.allocTaken f).solutionReady_bufOk

theorem State.allocSolved_solving : (s.allocSolved f).alloc.solving = s.alloc.solving := by
  unfold State.allocSolved
  have hwork : SolveKeeps fun u : State => u.alloc.solving := solveKeeps_alloc fun _ _ _ _ _ _ _ => rfl
  have hshown := State.solutionShown_keeps (s.allocTaken f).solutionReady hwork fun _ _ => rfl
  exact hshown.trans ((s.allocTaken f).solutionReady_solving.trans (s.allocTaken_solveKeeps f hwork))

end

section
variable (s : State) (dt q : Nat) (f : List (Rat × Rat))

theorem exec_allocSolveDone_idle (hq : s.alloc.solving = none) : exec (.allocSolveDone dt f) s = .next (s.advance dt) := by
  show execAllocSolveDone dt f s = _
  unfold execAllocSolveDone
  dsimp only
  rw [State.advance_alloc, hq]

section
variable (hq : s.alloc.solving = some q) (hseq : s.get R.YUZ_LAST_SEQ_SEQ 2 = q)
include hq hseq

/-- The end of a batch is judged once its time is shown. -/
theorem exec_allocSolveDone_over : exec (.allocSolveDone dt f) s =
    if (s.advance dt).allocOver.get R.YUZ_LAST_STAT_MISS 2 = 1 then
      .next ((s.advance dt).allocOver.allocMissed.consSubmit (s.advance dt).allocOver.alloc.tau
        (s.advance dt).allocOver.alloc.deficit)
    else .next (((s.advance dt).allocOver.allocSolved f).consSubmit ((s.advance dt).allocOver.allocSolved f).alloc.tau
      ((s.advance dt).allocOver.allocSolved f).alloc.deficit) := by
  show execAllocSolveDone dt f s = _
  unfold execAllocSolveDone
  extract_lets u _ _ ended taken trimmed _ _ numeric shown
  have hended : ended = (s.advance dt).allocOver := rfl
  rw [← hended]
  clear_value ended
  have htrimmed : trimmed = ended.allocTaken f := rfl
  unfold State.allocSolved
  rw [← htrimmed]
  clear_value trimmed
  have hshown : shown = trimmed.solutionReady.solutionShown := rfl
  rw [← hshown]
  clear_value shown
  split
  next hnone => exact absurd (hq.symm.trans hnone) (Option.some_ne_none q)
  next q' hsome =>
    have hmine : ¬ u.get R.YUZ_LAST_SEQ_SEQ 2 ≠ q' := not_not.2 (hseq.trans (Option.some_inj.1 (hq.symm.trans hsome)))
    rw [if_neg hmine]

theorem allocSolveDone_missed (hm : s.get R.YUZ_LAST_STAT_MISS 2 = 1) :
    ∃ t, exec (.allocSolveDone dt f) s = .next t ∧ t.alloc.solving = none ∧ t.alloc.bufOk = true ∧
      t.get R.ALLOC_STAT_REUSED = 1 ∧ t.get R.ALLOC_MISS_A_RUN = min 3 (s.get R.ALLOC_MISS_A_RUN + 1) ∧
      t.get R.ALLOC_EVT_A_MISS = 1 ∧ t.alloc.cap = s.alloc.cap ∧ t.alloc.deficit = s.alloc.deficit := by
  have hmiss := ((s.advance dt).allocOver_get 2 (by decide)).trans hm
  have hexec := (exec_allocSolveDone_over s dt q f hq hseq).trans (if_pos hmiss)
  obtain ⟨hreused, hrun, hevt⟩ := (s.advance dt).allocOver.allocMissed_shows
  rw [State.allocOver_get _ 0 (by decide), State.advance_get] at hrun
  have halloc {β : Type} {g : AllocSt → β} (hg : WorkApart g) : g (s.advance dt).allocOver.allocMissed.alloc =
      g { s.alloc with solving := none, bufOk := true } := by
    rw [State.allocMissed_alloc _ hg, State.allocOver_alloc, State.advance_alloc]
  generalize (s.advance dt).allocOver.allocMissed = u at hexec hreused hrun hevt halloc
  have hget {g : Fld} (hn : noteFld g = false) (hy : ¬ YuzFld g) :
      (u.consSubmit (s.advance dt).allocOver.alloc.tau (s.advance dt).allocOver.alloc.deficit).get g = u.get g :=
    State.consSubmit_get _ _ _ 0 hn hy
  refine ⟨_, hexec, ?_, ?_, (hget (by decide) (by decide)).trans hreused, (hget (by decide) (by decide)).trans hrun,
    (hget (by decide) (by decide)).trans hevt, ?_, ?_⟩
  · exact (State.consSubmit_alloc AllocSt.solving (fun _ _ _ _ _ => rfl) u _ _).trans (halloc fun _ _ _ _ _ _ _ => rfl)
  · exact (State.consSubmit_alloc AllocSt.bufOk (fun _ _ _ _ _ => rfl) u _ _).trans (halloc fun _ _ _ _ _ _ _ => rfl)
  · exact (State.consSubmit_alloc AllocSt.cap (fun _ _ _ _ _ => rfl) u _ _).trans (halloc fun _ _ _ _ _ _ _ => rfl)
  · exact (State.consSubmit_alloc AllocSt.deficit (fun _ _ _ _ _ => rfl) u _ _).trans (halloc fun _ _ _ _ _ _ _ => rfl)

theorem allocSolveDone_valid (hm : s.get R.YUZ_LAST_STAT_MISS 2 = 0) :
    ∃ t, exec (.allocSolveDone dt f) s = .next t ∧ t.alloc.solving = none ∧ t.alloc.bufOk = true ∧
      t.get R.ALLOC_STAT_REUSED = 0 ∧ t.get R.ALLOC_MISS_A_RUN = 0 ∧ t.pts = s.pts ∧ t.mode = s.mode := by
  have hvalid : ¬ (s.advance dt).allocOver.get R.YUZ_LAST_STAT_MISS 2 = 1 := fun e =>
    absurd (hm.symm.trans (((s.advance dt).allocOver_get 2 (by decide)).symm.trans e)) (by decide)
  have hexec := (exec_allocSolveDone_over s dt q f hq hseq).trans (if_neg hvalid)
  obtain ⟨hreused, hrun⟩ := (s.advance dt).allocOver.allocSolved_shows f
  have hmode : ((s.advance dt).allocOver.allocSolved f).mode = s.mode :=
    (State.allocSolved_mode _ f).trans ((s.advance dt).allocOver_get 0 (by decide))
  have hpts : ((s.advance dt).allocOver.allocSolved f).pts = s.pts :=
    (State.allocSolved_pts _ f).trans (s.advance dt).allocOver_pts
  have hsolving : ((s.advance dt).allocOver.allocSolved f).alloc.solving = none :=
    (State.allocSolved_solving _ f).trans (congrArg AllocSt.solving (s.advance dt).allocOver_alloc)
  have hbuf := (s.advance dt).allocOver.allocSolved_bufOk f
  generalize (s.advance dt).allocOver.allocSolved f = u at hexec hreused hrun hmode hpts hsolving hbuf
  refine ⟨_, hexec, ?_, ?_, ?_, ?_, (u.consSubmit_pts _ _).trans hpts, ?_⟩
  · exact (State.consSubmit_alloc AllocSt.solving (fun _ _ _ _ _ => rfl) u _ _).trans hsolving
  · exact (State.consSubmit_alloc AllocSt.bufOk (fun _ _ _ _ _ => rfl) u _ _).trans hbuf
  · exact (u.consSubmit_get _ _ 0 (by decide) (by decide)).trans hreused
  · exact (u.consSubmit_get _ _ 0 (by decide) (by decide)).trans hrun
  · exact (u.consSubmit_get _ _ 0 (by decide) (by decide)).trans hmode

end

end

/-! ### The ends of a consequence batch (R208 to R210, R214) -/

section
variable (s : State)

/-- A consequence batch is over: its time is shown, and the analysis is valid. -/
def State.consOver : State :=
  (State.set { s with alloc := { s.alloc with consSolving := none } } R.ALLOC_TIME_C_US (s.get R.YUZ_LAST_TIME_TOTAL_US 3)).set
    R.ALLOC_STAT_CONS_VALID 1

variable (c : List CaseRes)

/-- The results of the cases are taken. -/
def State.casesTaken : State :=
  (List.range s.caseCount).foldl (fun (u : State) n => u.takeCase n (c.getD n {})) s

theorem State.casesTaken_solveKeeps {β : Type} {p : State → β} (h : SolveKeeps p) : p (s.casesTaken c) = p s :=
  foldl_keeps p _ (fun u n => State.takeCase_solveKeeps h u n _) s

/-- A missed consequence batch is counted, and told. -/
def State.consMissTold : State :=
  let u := (s.set R.ALLOC_MISS_C_RUN (min 3 (s.get R.ALLOC_MISS_C_RUN + 1))).inc R.ALLOC_MISS_C_TOTAL
  (u.noteMiss.evt R.ALLOC_EVT_C_MISS).record
    { code := 0x0907, items := [(1, u.get R.ALLOC_MISS_C_RUN), (2, u.get R.YUZ_LAST_STAT_NOT_DONE 3)], key := 0 }

theorem State.consMissTold_shows : s.consMissTold.get R.ALLOC_EVT_C_MISS = 1 ∧
    s.consMissTold.get R.ALLOC_MISS_C_RUN = min 3 (s.get R.ALLOC_MISS_C_RUN + 1) := by
  unfold State.consMissTold
  simp (disch := decide) only [State.record_get, State.evt_get_ne, State.evt_get_same, State.noteMiss_get, State.inc_get_ne,
    State.get_set_ne, State.get_set_same]
  exact ⟨rfl, Nat.mod_eq_of_lt (lt_of_le_of_lt (Nat.min_le_left _ _) (by decide))⟩

theorem State.consMissTold_consSolving : s.consMissTold.alloc.consSolving = s.alloc.consSolving := by
  unfold State.consMissTold
  rw [State.record_alloc, State.evt_alloc]
  rfl

/-- The state in which the end of a batch is judged. -/
def State.casesOver : State := s.consOver.casesTaken c

theorem State.casesOver_get {f : Fld} (b : Nat) (h : apartFrom solveShownFlds f = true)
    (hv : fkey f ≠ fkey R.ALLOC_STAT_CONS_VALID) : (s.casesOver c).get f b = s.get f b :=
  (s.consOver.casesTaken_solveKeeps c (solveKeeps_get b h)).trans
    ((State.get_set_ne _ _ _ _ hv).trans (State.get_set_ne _ _ _ _ (apartFrom_ne h (by decide))))

theorem State.casesOver_shows : (s.casesOver c).get R.ALLOC_STAT_CONS_VALID = 1 ∧
    (s.casesOver c).alloc.consSolving = none ∧ (s.casesOver c).pts = s.pts :=
  ⟨(s.consOver.casesTaken_solveKeeps c (solveKeeps_get 0 (by decide))).trans (State.get_set_same _ _ _ _),
    s.consOver.casesTaken_solveKeeps (p := fun u => u.alloc.consSolving) c (solveKeeps_alloc fun _ _ _ _ _ _ _ => rfl),
    s.consOver.casesTaken_solveKeeps c solveKeeps_pts⟩

variable (dt q : Nat)

theorem exec_consBatchDone_idle (hq : s.alloc.consSolving = none) : exec (.consBatchDone dt c) s = .next (s.advance dt) := by
  show execConsBatchDone dt c s = _
  unfold execConsBatchDone
  dsimp only
  rw [State.advance_alloc, hq]

section
variable (hq : s.alloc.consSolving = some q) (hseq : s.get R.YUZ_LAST_SEQ_SEQ 3 = q)
include hq hseq

/-- The end of a batch is judged once the results of its cases are taken. -/
theorem exec_consBatchDone_over : exec (.consBatchDone dt c) s =
    .next (if ((s.advance dt).casesOver c).get R.YUZ_LAST_STAT_MISS 3 = 1 then ((s.advance dt).casesOver c).consMissTold
      else ((s.advance dt).casesOver c).set R.ALLOC_MISS_C_RUN 0).consJudge := by
  show execConsBatchDone dt c s = _
  unfold execConsBatchDone
  extract_lets u _ _ valid ended missed judged
  have hended : ended = (s.advance dt).casesOver c := rfl
  rw [← hended]
  clear_value ended
  split
  next hnone => exact absurd (hq.symm.trans hnone) (Option.some_ne_none q)
  next q' hsome =>
    have hmine : ¬ u.get R.YUZ_LAST_SEQ_SEQ 3 ≠ q' := not_not.2 (hseq.trans (Option.some_inj.1 (hq.symm.trans hsome)))
    rw [if_neg hmine]
    rfl

theorem consBatchDone_valid (hm : s.get R.YUZ_LAST_STAT_MISS 3 = 0) :
    ∃ t, exec (.consBatchDone dt c) s = .next t ∧ t.alloc.consSolving = none ∧ t.get R.ALLOC_STAT_CONS_VALID = 1 ∧
      t.get R.ALLOC_MISS_C_RUN = 0 ∧ t.get R.ALLOC_CONS_SUM_AGE = 0 ∧ t.pts = s.pts := by
  have hvalid : ¬ ((s.advance dt).casesOver c).get R.YUZ_LAST_STAT_MISS 3 = 1 := fun e =>
    absurd (hm.symm.trans (((s.advance dt).casesOver_get c 3 (by decide) (by decide)).symm.trans e)) (by decide)
  have hexec := exec_consBatchDone_over s c dt q hq hseq
  rw [if_neg hvalid] at hexec
  obtain ⟨hshown, hidle, hpts⟩ := (s.advance dt).casesOver_shows c
  generalize (s.advance dt).casesOver c = u at hexec hshown hidle hpts
  refine ⟨_, hexec, ?_, ?_, ?_, State.consJudge_age _, ?_⟩
  · exact (State.consJudge_consSolving _).trans hidle
  · exact (State.consJudge_get _ 0 (by decide) (by decide)).trans ((State.get_set_ne _ _ _ _ (by decide)).trans hshown)
  · exact (State.consJudge_get _ 0 (by decide) (by decide)).trans (State.get_set_same _ _ _ _)
  · exact (State.consJudge_keeps solveKeeps_pts (fun _ => rfl) _).trans hpts

theorem consBatchDone_missed (hm : s.get R.YUZ_LAST_STAT_MISS 3 = 1) :
    ∃ t, exec (.consBatchDone dt c) s = .next t ∧ t.alloc.consSolving = none ∧ t.get R.ALLOC_EVT_C_MISS = 1 ∧
      t.get R.ALLOC_MISS_C_RUN = min 3 (s.get R.ALLOC_MISS_C_RUN + 1) := by
  have hmiss := ((s.advance dt).casesOver_get c 3 (by decide) (by decide)).trans hm
  have hexec := exec_consBatchDone_over s c dt q hq hseq
  rw [if_pos hmiss] at hexec
  obtain ⟨hevt, hrun⟩ := ((s.advance dt).casesOver c).consMissTold_shows
  rw [State.casesOver_get _ _ 0 (by decide) (by decide), State.advance_get] at hrun
  obtain ⟨-, hover, -⟩ := (s.advance dt).casesOver_shows c
  have hidle := (State.consMissTold_consSolving _).trans hover
  generalize ((s.advance dt).casesOver c).consMissTold = u at hexec hevt hrun hidle
  exact ⟨_, hexec, u.consJudge_consSolving.trans hidle, (u.consJudge_get 0 (by decide) (by decide)).trans hevt,
    (u.consJudge_get 0 (by decide) (by decide)).trans hrun⟩

end

/-! ### The limits of misses (R213, R214) -/

theorem allocMissLimit_faults (h : 3 ≤ s.get R.ALLOC_MISS_A_RUN) :
    ∃ t, exec (.allocMissLimit dt) s = .next t ∧ t.get R.DEV_FAULT_CAUSE = 7 ∧ t.get R.DEV_FAULT_UNIT = 0xFFFF ∧
      t.get R.DEV_EVT_FAULT = 1 := ⟨_, if_pos h, (s.advance dt).deviceFault_shows 7 0xFFFF⟩

theorem exec_allocMissLimit_below (h : s.get R.ALLOC_MISS_A_RUN < 3) :
    exec (.allocMissLimit dt) s = .next (s.advance dt) := if_neg (Nat.not_le.2 h)

theorem consMissLimit_faults (h : 3 ≤ s.get R.ALLOC_MISS_C_RUN) :
    ∃ t, exec (.consMissLimit dt) s = .next t ∧ t.get R.DEV_FAULT_CAUSE = 7 ∧ t.get R.DEV_EVT_FAULT = 1 := by
  obtain ⟨hcause, -, hevt⟩ := (s.advance dt).deviceFault_shows 7 0xFFFF
  exact ⟨_, if_pos h, hcause, hevt⟩

theorem exec_consMissLimit_below (h : s.get R.ALLOC_MISS_C_RUN < 3) :
    exec (.consMissLimit dt) s = .next (s.advance dt) := if_neg (Nat.not_le.2 h)

/-! ### ALLOC-SHORT (R203) -/

theorem exec_allocShort_raises (hs : s.get R.ALLOC_STAT_SHORT = 0) (hr : 20 ≤ s.alloc.shortRun) : ∃ items,
    exec (.allocShort dt) s =
      .next ((((s.advance dt).set R.ALLOC_STAT_SHORT 1).evt R.ALLOC_EVT_SHORT).alarm 0x0904 0xFFFF items 0) :=
  ⟨_, if_pos (by simp [State.flag, hs, hr])⟩

theorem exec_allocShort_clears (hs : s.get R.ALLOC_STAT_SHORT = 1) (hc : 20 ≤ s.alloc.shortClear) : ∃ items,
    exec (.allocShort dt) s = .next (((s.advance dt).set R.ALLOC_STAT_SHORT 0).clearAlarm 0x0904 0xFFFF items 0) :=
  ⟨_, (if_neg (by simp [State.flag, hs])).trans (if_pos (by simp [State.flag, hs, hc]))⟩

theorem exec_allocShort_stays (hr : s.alloc.shortRun < 20) (hc : s.alloc.shortClear < 20) :
    exec (.allocShort dt) s = .next (s.advance dt) :=
  (if_neg (by simp [Nat.not_le.2 hr])).trans (if_neg (by simp [Nat.not_le.2 hc]))

theorem allocShort_raises (hs : s.get R.ALLOC_STAT_SHORT = 0) (hr : 20 ≤ s.alloc.shortRun) :
    ∃ t, exec (.allocShort dt) s = .next t ∧ t.get R.ALLOC_STAT_SHORT = 1 ∧ t.get R.ALLOC_EVT_SHORT = 1 ∧
      Framed (regKeys 0 [R.ALLOC_STAT_SHORT, R.ALLOC_EVT_SHORT]) (s.advance dt) t := by
  obtain ⟨items, hexec⟩ := exec_allocShort_raises s dt hs hr
  refine ⟨_, hexec, ?_, ?_, State.alarm_framed _ _ _ _ _ (State.evt_framed _ _ _ (.inl (by decide))
    (set_framed _ _ _ _ (.inl (by decide)) (.refl _ _)))⟩
  · rw [State.alarm_get _ _ _ _ _ _ (by decide), State.evt_get_ne _ _ _ (by decide) (by decide), State.get_set_same]
    rfl
  · exact (State.alarm_get _ _ _ _ _ _ (by decide)).trans (State.evt_get_same _ _ _ (by decide))

theorem allocShort_clears (hs : s.get R.ALLOC_STAT_SHORT = 1) (hc : 20 ≤ s.alloc.shortClear) :
    ∃ t, exec (.allocShort dt) s = .next t ∧ t.get R.ALLOC_STAT_SHORT = 0 ∧
      Framed [loc R.ALLOC_STAT_SHORT 0] (s.advance dt) t := by
  obtain ⟨items, hexec⟩ := exec_allocShort_clears s dt hs hc
  exact ⟨_, hexec, (State.clearAlarm_get _ _ _ _ _ _ (by decide)).trans (State.get_set_same _ _ _ _),
    State.clearAlarm_framed _ _ _ _ _ (set_framed _ _ _ _ (.inl (by decide)) (.refl _ _))⟩

end

/-! ### The power of a bus is unknown (R196) -/

section
variable (s : State) (b : Nat)

@[simp] theorem State.putBus_busSt (x : BusSt) : (s.putBus b x).busSt b = x := by
  simp [State.putBus, State.busSt, tget]

/-- The power of a bus is unknown, and allocation shows it. -/
def State.busUnknown : State :=
  ((s.putBus b { s.busSt b with unknown := true }).set R.ALLOC_STAT_PWR_UNKNOWN 1).evt R.ALLOC_EVT_PWR_UNKNOWN

theorem State.busUnknown_shows : (s.busUnknown b).get R.ALLOC_STAT_PWR_UNKNOWN = 1 ∧
    (s.busUnknown b).get R.ALLOC_EVT_PWR_UNKNOWN = 1 :=
  ⟨(State.evt_get_ne _ _ _ (by decide) (by decide)).trans (State.get_set_same _ _ _ _), State.evt_get_same _ _ _ (by decide)⟩

theorem State.busUnknown_framed : Framed (regKeys 0 [R.ALLOC_STAT_PWR_UNKNOWN, R.ALLOC_EVT_PWR_UNKNOWN])
    (s.putBus b { s.busSt b with unknown := true }) (s.busUnknown b) :=
  State.evt_framed _ _ _ (.inl (by decide)) (set_framed _ _ _ _ (.inl (by decide)) (.refl _ _))

variable (dt : Nat)

theorem exec_busPowerHoldExpiry_absent (h : s.man.alloc.buses[b]? = none) :
    exec (.busPowerHoldExpiry dt b) s = .next (s.advance dt) := by
  show execBusPowerHoldExpiry dt b s = _
  unfold execBusPowerHoldExpiry
  dsimp only
  rw [State.advance_man, h]

section
variable (c : BusCfg) (hc : s.man.alloc.buses[b]? = some c) (hq : qUsable (s.ptOpt c.avail).2 = false)
  (hu : (s.busSt b).unknown = false) (ht : (s.busSt b).lastAt + 10000000000 ≤ s.now + dt)
include hc hq hu ht

theorem exec_busPowerHoldExpiry_expires : ∃ items,
    exec (.busPowerHoldExpiry dt b) s = .next (((s.advance dt).busUnknown b).alarm 0x0909 b items) := by
  have hhold : ¬ (qUsable ((s.advance dt).ptOpt c.avail).2 || ((s.advance dt).busSt b).unknown ||
      decide ((s.advance dt).now < ((s.advance dt).busSt b).lastAt + 10000000000)) = true := by
    have hq' : qUsable ((s.advance dt).ptOpt c.avail).2 = false := hq
    have hu' : ((s.advance dt).busSt b).unknown = false := hu
    have ht' : ((s.advance dt).busSt b).lastAt + 10000000000 ≤ (s.advance dt).now := ht
    rw [hq', hu', decide_eq_false (Nat.not_lt.2 ht')]
    decide
  refine ⟨[(1, b), (1, ((s.advance dt).ptOpt c.avail).2.code)], ?_⟩
  show execBusPowerHoldExpiry dt b s = _
  unfold execBusPowerHoldExpiry
  dsimp only
  rw [State.advance_man, hc]
  exact if_neg hhold

theorem busPowerHoldExpiry_expires :
    ∃ t, exec (.busPowerHoldExpiry dt b) s = .next t ∧ (t.busSt b).unknown = true ∧ t.get R.ALLOC_STAT_PWR_UNKNOWN = 1 ∧
      t.get R.ALLOC_EVT_PWR_UNKNOWN = 1 ∧
      Framed (regKeys 0 [R.ALLOC_STAT_PWR_UNKNOWN, R.ALLOC_EVT_PWR_UNKNOWN]) { s.advance dt with alloc := t.alloc } t := by
  obtain ⟨items, hexec⟩ := exec_busPowerHoldExpiry_expires s b dt c hc hq hu ht
  obtain ⟨hstat, hevt⟩ := (s.advance dt).busUnknown_shows b
  have hframe := State.alarm_framed _ 0x0909 b items 20 ((s.advance dt).busUnknown_framed b)
  refine ⟨_, hexec, ?_, (State.alarm_get _ _ _ _ _ _ (by decide)).trans hstat,
    (State.alarm_get _ _ _ _ _ _ (by decide)).trans hevt, Framed.ownAlloc hframe⟩
  unfold State.busSt
  rw [hframe.alloc_eq]
  exact congrArg BusSt.unknown ((s.advance dt).putBus_busSt b _)

end

end

/-! ### A thruster does not follow (R199) -/

section
variable (s : State) (n : Nat)

@[simp] theorem State.putThr_thrSt (x : ThrSt) : (s.putThr n x).thrSt n = x := by
  simp [State.putThr, State.thrSt, tget]

/-- A thruster has its FOLLOW-FAULT latch set, and its follow timers stop. -/
def State.followLatched : State := s.putThr n { s.thrSt n with follow := true, overAt := none, badAt := none }

variable (dt : Nat)

theorem exec_followFault_absent (h : s.thrCfg n = none) : exec (.followFault dt n) s = .next (s.advance dt) := by
  have h' : (s.advance dt).thrCfg n = none := h
  show execFollowFault dt n s = _
  unfold execFollowFault
  dsimp only
  rw [h']

section
variable (a : Nat) (c : ThrCfg) (hc : s.thrCfg n = some c) (hst : s.thrState n = 1) (ha : (s.thrSt n).overAt = some a)
  (ht : a + c.followT * 1000000000 ≤ s.now + dt)
include hc hst ha ht

theorem exec_followFault_due : ∃ items,
    exec (.followFault dt n) s = .next (((s.advance dt).followLatched n).alarm 0x0903 n items 1) := by
  show ∃ items, execFollowFault dt n s = .next (((s.advance dt).followLatched n).alarm 0x0903 n items 1)
  unfold execFollowFault
  extract_lets u thr
  have hc' : u.thrCfg n = some c := hc
  have hst' : u.thrState n = 1 := hst
  have ha' : thr.overAt = some a := ha
  have ht' : a + c.followT * 1000000000 ≤ u.now := ht
  have hu : s.advance dt = u := rfl
  rw [hc', hu]
  clear_value u
  exact ⟨_, if_pos (by simp [hst', ha', ht'])⟩

theorem followFault_latches :
    ∃ t, exec (.followFault dt n) s = .next t ∧ (t.thrSt n).follow = true ∧ (t.thrSt n).overAt = none ∧
      Framed [] { s.advance dt with alloc := t.alloc } t := by
  obtain ⟨items, hexec⟩ := exec_followFault_due s n dt a c hc hst ha ht
  have hframe : Framed [] ((s.advance dt).followLatched n) (((s.advance dt).followLatched n).alarm 0x0903 n items 1) :=
    State.alarm_framed _ _ _ _ _ (.refl _ _)
  have hthr : (((s.advance dt).followLatched n).alarm 0x0903 n items 1).thrSt n =
      { (s.advance dt).thrSt n with follow := true, overAt := none, badAt := none } := by
    unfold State.thrSt
    rw [hframe.alloc_eq]
    exact (s.advance dt).putThr_thrSt n _
  refine ⟨_, hexec, ?_, ?_, Framed.ownAlloc hframe⟩
  · rw [hthr]
  · rw [hthr]

end

end

/-! ### Commands for a thruster (R199) -/

/-- The commands for a thruster with their ACTION codes. -/
abbrev thrCmds (dt k n : Nat) : List (Nat × Instr) :=
  [(1, .allocThrDeselect dt (.point k) n), (2, .allocThrSelect dt (.point k) n)]

section
variable (s : State) (n action keyId : Nat)

/-- A thruster command is told. -/
def State.thrCmdTold : State := s.record
  { code := 0x0902, source := n, role := .operator, keyId := keyId, items := [(1, n), (1, action), (1, 1), (2, keyId)] }

theorem State.thrCmdTold_framed : Framed [] s (s.thrCmdTold n action keyId) := State.record_framed _ _ (.refl _ s)

/-- A thruster command waits for its boundary. -/
def State.thrCmdWaits : State := { s with alloc := { s.alloc with cmds := s.alloc.cmds ++ [⟨n, action, keyId⟩] } }

/-- A command point of allocation gives its command under the Operator key, and the device's role and the thruster judge it. -/
theorem State.thrCmd_point {k : Nat} (hk : k ∈ s.man.alloc.points) : s.thrCmd (.point k) n action =
    if !(s.thrCmdTold n action s.operKeyId).isActive || ((s.thrCmdTold n action s.operKeyId).thrCfg n).isNone then
      (s.thrCmdTold n action s.operKeyId).evt R.ALLOC_EVT_CMD_REFUSED
    else (s.thrCmdTold n action s.operKeyId).thrCmdWaits n action s.operKeyId := if_pos hk

theorem State.thrCmdTold_isActive : (s.thrCmdTold n action keyId).isActive = s.isActive := by
  unfold State.isActive State.flag
  rw [(s.thrCmdTold_framed n action keyId).get_eq 0 (by decide) List.not_mem_nil]

theorem State.thrCmdTold_thrCfg : (s.thrCmdTold n action keyId).thrCfg n = s.thrCfg n := by
  unfold State.thrCfg
  rw [State.of_plain_man (s.thrCmdTold_framed n action keyId).plain]

end

section
variable (s : State) (dt n k : Nat) (x : Nat × Instr) (hx : x ∈ thrCmds dt k n)
include hx

theorem exec_of_mem_thrCmds : exec x.2 s = .next ((s.advance dt).thrCmd (.point k) n x.1) := by
  simp only [thrCmds, List.mem_cons, List.not_mem_nil, or_false] at hx
  rcases hx with rfl | rfl <;> rfl

theorem exec_thrCmds_otherPoint (hk : k ∉ s.man.alloc.points) : exec x.2 s = .next (s.advance dt) :=
  (exec_of_mem_thrCmds s dt n k x hx).trans (congrArg Host.Outcome.next (if_neg hk))

theorem thrCmds_waits (hk : k ∈ s.man.alloc.points) (ha : s.isActive = true) (hc : s.thrCfg n ≠ none) :
    ∃ t, exec x.2 s = .next t ∧ t.alloc.cmds = s.alloc.cmds ++ [⟨n, x.1, s.operKeyId⟩] ∧
      Framed [] { s.advance dt with alloc := { s.alloc with cmds := s.alloc.cmds ++ [⟨n, x.1, s.operKeyId⟩] } } t := by
  have htold := (s.advance dt).thrCmdTold_framed n x.1 s.operKeyId
  have hwaits : (s.advance dt).thrCmd (.point k) n x.1 =
      ((s.advance dt).thrCmdTold n x.1 s.operKeyId).thrCmdWaits n x.1 s.operKeyId := by
    refine ((s.advance dt).thrCmd_point n x.1 hk).trans (if_neg ?_)
    have ha' : (s.advance dt).isActive = true := ha
    obtain ⟨c, hc'⟩ : ∃ c, (s.advance dt).thrCfg n = some c := Option.ne_none_iff_exists'.1 hc
    rw [State.thrCmdTold_isActive, State.thrCmdTold_thrCfg, ha', hc']
    exact Bool.false_ne_true
  refine ⟨_, (exec_of_mem_thrCmds s dt n k x hx).trans (congrArg _ hwaits), ?_, ?_⟩
  · show ((s.advance dt).thrCmdTold n x.1 s.operKeyId).alloc.cmds ++ _ = _
    rw [htold.alloc_eq]
    rfl
  · unfold State.thrCmdWaits
    rw [htold.alloc_eq]
    exact htold.withAlloc _

theorem thrCmds_refused (hk : k ∈ s.man.alloc.points) (ha : s.isActive = false) :
    ∃ t, exec x.2 s = .next t ∧ t.get R.ALLOC_EVT_CMD_REFUSED = 1 ∧
      Framed [loc R.ALLOC_EVT_CMD_REFUSED 0] (s.advance dt) t := by
  have hrefused : (s.advance dt).thrCmd (.point k) n x.1 =
      ((s.advance dt).thrCmdTold n x.1 s.operKeyId).evt R.ALLOC_EVT_CMD_REFUSED := by
    refine ((s.advance dt).thrCmd_point n x.1 hk).trans (if_pos ?_)
    have ha' : (s.advance dt).isActive = false := ha
    rw [State.thrCmdTold_isActive, ha']
    rfl
  exact ⟨_, (exec_of_mem_thrCmds s dt n k x hx).trans (congrArg _ hrefused), State.evt_get_same _ _ _ (by decide),
    State.evt_framed _ _ _ (.inl List.mem_cons_self)
      (((s.advance dt).thrCmdTold_framed n x.1 s.operKeyId).mono (List.nil_subset _))⟩

end

/-- Settles O32: each clause is the lemma of its command above; that a command whose condition is not met only lets time pass is the
model's choice (log 1). -/
theorem thrustAllocation : Obligations.ThrustAllocation := by
  unfold Obligations.ThrustAllocation
  exact ⟨fun dt q f s hq hseq => allocSolveDone_valid s dt q f hq hseq,
    fun dt q f s hq hseq => allocSolveDone_missed s dt q f hq hseq, fun dt f s => exec_allocSolveDone_idle s dt f,
    fun dt s => allocMissLimit_faults s dt, fun dt s => exec_allocMissLimit_below s dt,
    fun dt s => consReadySubmit_submits s dt, fun dt s => exec_consReadySubmit_otherMode s dt,
    fun dt q c s hq hseq => consBatchDone_valid s c dt q hq hseq,
    fun dt q c s hq hseq => consBatchDone_missed s c dt q hq hseq, fun dt c s => exec_consBatchDone_idle s c dt,
    fun dt s => consMissLimit_faults s dt, fun dt s => exec_consMissLimit_below s dt,
    fun dt s => allocShort_raises s dt, fun dt s => allocShort_clears s dt, fun dt s => exec_allocShort_stays s dt,
    fun dt b c s hc => busPowerHoldExpiry_expires s b dt c hc, fun dt b s => exec_busPowerHoldExpiry_absent s b dt,
    fun dt n a c s hc => followFault_latches s n dt a c hc, fun dt n s => exec_followFault_absent s n dt,
    fun dt n k x s => thrCmds_waits s dt n k x, fun dt n k x s => thrCmds_refused s dt n k x,
    fun dt n k x s => exec_thrCmds_otherPoint s dt n k x⟩

end Sys2Proof.Machine
end

section
/-!
PROOF of the statement of 09_yuzal_solver.md about solver batches (SolverBatches): what shows of a batch, its end and its expiry,
and then the commands that start it, complete it, stop it, give the active's verdict on it, and find the standby late.
-/

namespace Sys2Proof.Machine

open Sys2Proof

/-! ### What shows of the batches of a kind -/

/-- What shows of the solver array and of the last batch of a kind (R237). -/
structure SolverView where
  run : Option Batch
  held : Option (List ItemRes)
  queue : List Batch
  busy : Nat
  done : Nat
  notDone : Nat
  miss : Nat
  expired : Nat
  verdict : Nat
  seq : Nat
  cycles : Nat

def State.solverView (s : State) (kind : Nat) : SolverView where
  run := s.yuz.run
  held := s.yuz.held
  queue := s.yuz.queue
  busy := s.get R.YUZ_STAT_BUSY
  done := s.get R.YUZ_LAST_STAT_DONE kind
  notDone := s.get R.YUZ_LAST_STAT_NOT_DONE kind
  miss := s.get R.YUZ_LAST_STAT_MISS kind
  expired := s.get R.YUZ_LAST_STAT_EXPIRED kind
  verdict := s.get R.YUZ_LAST_STAT_VERDICT kind
  seq := s.get R.YUZ_LAST_SEQ_SEQ kind
  cycles := s.get R.YUZ_LAST_CYC_CYCLES kind

/-- A view of the state says what it shows, part by part. -/
theorem State.of_solverView {t : State} {kind : Nat} {v : SolverView} (h : t.solverView kind = v) :
    t.yuz.run = v.run ∧ t.yuz.held = v.held ∧ t.yuz.queue = v.queue ∧ t.get R.YUZ_STAT_BUSY = v.busy ∧
      t.get R.YUZ_LAST_STAT_DONE kind = v.done ∧ t.get R.YUZ_LAST_STAT_NOT_DONE kind = v.notDone ∧
      t.get R.YUZ_LAST_STAT_MISS kind = v.miss ∧ t.get R.YUZ_LAST_STAT_EXPIRED kind = v.expired ∧
      t.get R.YUZ_LAST_STAT_VERDICT kind = v.verdict ∧ t.get R.YUZ_LAST_SEQ_SEQ kind = v.seq ∧
      t.get R.YUZ_LAST_CYC_CYCLES kind = v.cycles := by
  subst h
  exact ⟨rfl, rfl, rfl, rfl, rfl, rfl, rfl, rfl, rfl, rfl, rfl⟩

/-- The fields of that view. -/
def solverShownFlds : List Fld :=
  [R.YUZ_STAT_BUSY, R.YUZ_LAST_STAT_DONE, R.YUZ_LAST_STAT_NOT_DONE, R.YUZ_LAST_STAT_MISS, R.YUZ_LAST_STAT_EXPIRED,
   R.YUZ_LAST_STAT_VERDICT, R.YUZ_LAST_SEQ_SEQ, R.YUZ_LAST_CYC_CYCLES]

/-- The fields that show the queue and the run. -/
def runStatFlds : List Fld := [R.YUZ_STAT_QUEUED, R.YUZ_STAT_BUSY, R.YUZ_STAT_RUN_KIND, R.YUZ_STAT_TILE_BUSY]

/-- The fields of a batch that show its items, its times and how it ended. -/
def batchLastFlds : List Fld :=
  [R.YUZ_LAST_STAT_DONE, R.YUZ_LAST_STAT_NOT_DONE, R.YUZ_LAST_STAT_MISS, R.YUZ_LAST_STAT_EXPIRED,
   R.YUZ_LAST_STAT_ITER_REACHED, R.YUZ_LAST_STAT_VERDICT, R.YUZ_LAST_SEQ_SEQ, R.YUZ_LAST_TIME_TOTAL_US,
   R.YUZ_LAST_TIME_WAIT_US, R.YUZ_LAST_CYC_CYCLES, R.YUZ_LAST_RES_RES]

/-- The fields of a batch that show its numeric flags, and how busy the tiles are. -/
def batchNumFlds : List Fld :=
  [R.YUZ_LAST_STAT_SAT, R.YUZ_NUM_SAT_BATCHES, R.YUZ_EVT_SAT, R.YUZ_LAST_STAT_CLAMPED, R.YUZ_NUM_CLAMP_BATCHES,
   R.YUZ_EVT_CLAMPED, R.YUZ_LAST_CLAMP_ITEM, R.YUZ_LAST_CLAMP_PIVOT, R.YUZ_LAST_CLAMP_STEP, R.YUZ_LAST_CLAMP_ITER,
   R.YUZ_LAST_CLAMP_COUNT, R.YUZ_UTIL_BUSY0, R.YUZ_UTIL_BUSY1, R.YUZ_UTIL_BUSY2, R.YUZ_UTIL_BUSY3]

/-- The fields that tell and count misses. -/
def batchMissFlds : List Fld :=
  [R.YUZ_MISS_HELM, R.YUZ_MISS_ALLOC, R.YUZ_MISS_CONS, R.YUZ_MISS_EXPIRED, R.YUZ_EVT_EXPIRED, R.YUZ_EVT_MISS]

/-- Writes of fields outside the view do not change it. -/
theorem unseen_solverView {fs : List Fld} (kind : Nat) (h : ∀ f ∈ fs, ∀ g ∈ solverShownFlds, fkey g ≠ fkey f) :
    Unseen (· ∈ fs) (fun u : State => u.solverView kind) where
  set u f v b hf := by
    have hget (g : Fld) (k : Nat) (hg : g ∈ solverShownFlds) : (u.set f v b).get g k = u.get g k :=
      State.get_set_ne _ _ _ _ (h f hf g hg)
    unfold State.solverView
    simp (disch := decide) only [hget]
    rfl
  told u v h := by
    have hget (f : Fld) (b : Nat) (hf : noteFld f = false) : v.get f b = u.get f b := h.get_eq b hf List.not_mem_nil
    unfold State.solverView
    simp (disch := decide) only [State.of_plain_yuz h.plain, hget]

theorem State.record_solverView (s : State) (e : Ev) (kind : Nat) : (s.record e).solverView kind = s.solverView kind :=
  (unseen_solverView (fs := []) kind (fun _ hf => absurd hf List.not_mem_nil)).told _ _ (State.record_framed _ _ (.refl _ _))

/-- No write of a field changes the solver's own data. -/
theorem unseen_yuz {β : Type} {P : Fld → Prop} (g : YuzSt → β) : Unseen P (fun u : State => g u.yuz) :=
  ⟨fun _ _ _ _ _ => rfl, fun _ _ h => congrArg g (State.of_plain_yuz h.plain)⟩

/-! ### The parts of a batch's end and of its expiry -/

/-- The items of a batch as the array lists them: those it gave a status, and the rest NOT-DONE. -/
def Batch.listed (b : Batch) (l : List ItemRes) : List ItemRes :=
  (l ++ List.replicate (b.items - l.length) ({ done := false } : ItemRes)).take b.items

/-- How many of the listed items are DONE. -/
def Batch.doneCount (b : Batch) (l : List ItemRes) : Nat := ((b.listed l).filter (·.done)).length

/-- Where no item is DONE, none of those listed is. -/
theorem Batch.doneCount_of_none (b : Batch) {l : List ItemRes} (h : ∀ r ∈ l, r.done = false) : b.doneCount l = 0 := by
  have hlisted : ∀ r ∈ b.listed l, ¬ r.done = true := by
    intro r hr
    rw [Bool.not_eq_true]
    rcases List.mem_append.1 (List.mem_of_mem_take hr) with hl | hrest
    · exact h r hl
    · rw [List.eq_of_mem_replicate hrest]
  rw [Batch.doneCount, List.filter_eq_nil_iff.2 hlisted, List.length_nil]

section
variable (s : State) (b : Batch)

/-- The items take their status and their results. -/
def State.itemsShown (l : List ItemRes) : State := l.zipIdx.foldl (fun (s : State) x => s.yuzItem b.kind x.2 x.1) s

/-- The LAST registers of the batch's kind show how it ended. -/
def State.batchShown (l : List ItemRes) (cycles : Nat) (miss verdict : Bool) : State :=
  let nd := (l.filter (·.done)).length
  let s := (s.set R.YUZ_LAST_STAT_DONE nd b.kind).set R.YUZ_LAST_STAT_NOT_DONE (b.items - nd) b.kind
  let s := (s.setB R.YUZ_LAST_STAT_MISS miss b.kind).set R.YUZ_LAST_STAT_EXPIRED 0 b.kind
  let s := (s.set R.YUZ_LAST_STAT_ITER_REACHED (((l.map (·.iter)).max?).getD 0) b.kind).setB R.YUZ_LAST_STAT_VERDICT verdict b.kind
  let s := (s.set R.YUZ_LAST_SEQ_SEQ b.seq b.kind).setSat R.YUZ_LAST_TIME_TOTAL_US ((s.now - b.at_) / 1000) b.kind
  let s := (s.setSat R.YUZ_LAST_TIME_WAIT_US ((s.yuz.startAt - b.at_) / 1000) b.kind).set R.YUZ_LAST_CYC_CYCLES cycles b.kind
  s.set R.YUZ_LAST_RES_RES ((((l.filter (·.done)).map (·.residual)).max?).getD 0) b.kind

/-- The array is free again. -/
def State.arrayFreed : State :=
  { s with yuz := { s.yuz with run := none, held := none, verdicts := tdel s.yuz.verdicts b.seq } }.yuzStat

theorem State.yuzFinish_eq (l : List ItemRes) (cycles : Nat) (miss verdict : Bool) :
    s.yuzFinish b l cycles miss verdict = ((((s.itemsShown b (b.listed l)).batchShown b (b.listed l) cycles miss verdict).yuzNumeric
      b (b.listed l)).yuzUtil b).arrayFreed b := rfl

/-- One item of a batch that never starts is NOT-DONE. -/
def State.itemExpired (kind i : Nat) : State :=
  { s with yuz := { s.yuz with items := tput s.yuz.items (kind * 256 + i) { done := false, endCycle := 0xFFFFFFFF } } }

/-- All of them are. -/
def State.itemsExpired : State := (List.range b.items).foldl (fun (s : State) i => s.itemExpired b.kind i) s

/-- The LAST registers of its kind show that it never started, `w` µs after its submission. -/
def State.expiryShown (w : Nat) : State :=
  let s := (s.set R.YUZ_LAST_STAT_DONE 0 b.kind).set R.YUZ_LAST_STAT_NOT_DONE b.items b.kind
  let s := (s.set R.YUZ_LAST_STAT_MISS 1 b.kind).set R.YUZ_LAST_STAT_EXPIRED 1 b.kind
  let s := ((s.set R.YUZ_LAST_STAT_SAT 0 b.kind).set R.YUZ_LAST_STAT_CLAMPED 0 b.kind).set R.YUZ_LAST_STAT_ITER_REACHED 0 b.kind
  let s := ((s.set R.YUZ_LAST_STAT_VERDICT 0 b.kind).set R.YUZ_LAST_SEQ_SEQ b.seq b.kind).setSat R.YUZ_LAST_TIME_WAIT_US w b.kind
  let s := (s.setSat R.YUZ_LAST_TIME_TOTAL_US w b.kind).yuzNoClamp b.kind
  (s.set R.YUZ_LAST_CYC_CYCLES 0 b.kind).set R.YUZ_LAST_RES_RES 0 b.kind

/-- The twin's standby is sent a verdict. -/
def State.verdictSent (v : Nat × Option (Nat × Nat)) : State := { s with yuz := { s.yuz with sent := some v } }

/-- A device that follows no other sends the verdict that no item ran. -/
def State.expirySent : State := if s.follows then s else s.verdictSent (b.seq, some (0, 0))

/-- The miss of a batch is counted for its kind. -/
def State.missCounted : State := if b.kind ≤ 3 then s.incSat (missFld b.kind) else s

/-- The events of an expiry are set, and it is counted. -/
def State.expiryCounted : State :=
  (((s.missCounted b).incSat R.YUZ_MISS_EXPIRED).evt R.YUZ_EVT_EXPIRED).evt R.YUZ_EVT_MISS

theorem State.yuzExpire_eq (cause : Nat) : ∃ e, s.yuzExpire b cause =
    ((((s.itemsExpired b).expiryShown b ((s.now - b.at_) / 1000)).expirySent b).expiryCounted b).record e := by
  unfold State.yuzExpire
  exact ⟨_, rfl⟩

end

/-! ### What each part leaves alone -/

theorem missFld_batchMiss (kind : Nat) : missFld kind ∈ batchMissFlds := by
  unfold missFld
  split <;> decide

section
variable {β : Type} {p : State → β} (s : State) (b : Batch)

theorem State.yuzStat_keeps (h : Unseen (· ∈ runStatFlds) p) : p s.yuzStat = p s := by
  unfold State.yuzStat
  simp (disch := decide) only [State.setB_eq, h.set]

theorem State.batchShown_keeps (h : Unseen (· ∈ batchLastFlds) p) (l : List ItemRes) (cycles : Nat) (miss verdict : Bool) :
    p (s.batchShown b l cycles miss verdict) = p s := by
  unfold State.batchShown
  simp (disch := decide) only [State.setB_eq, State.setSat_eq, h.set]

theorem State.missCounted_keeps (h : Unseen (· ∈ batchMissFlds) p) : p (s.missCounted b) = p s := by
  unfold State.missCounted
  split
  · exact h.set s _ _ 0 (missFld_batchMiss b.kind)
  · rfl

theorem State.expiryCounted_keeps (h : Unseen (· ∈ batchMissFlds) p) : p (s.expiryCounted b) = p s := by
  unfold State.expiryCounted
  rw [h.evt _ _ 0 (by decide), h.evt _ _ 0 (by decide), State.incSat_eq, h.set _ _ _ 0 (by decide), State.missCounted_keeps _ _ h]

section
variable (h : Unseen (· ∈ batchNumFlds) p)
include h

theorem State.yuzNoClamp_keeps (kind : Nat) : p (s.yuzNoClamp kind) = p s := by
  unfold State.yuzNoClamp
  simp (disch := decide) only [h.set]

theorem State.yuzNumeric_keeps (l : List ItemRes) : p (s.yuzNumeric b l) = p s := by
  unfold State.yuzNumeric
  extract_lets sat
  have hsat : p sat = p s := by
    simp only [sat]
    split
    · rw [h.record, h.evt _ _ 0 (by decide), State.inc_eq, h.set _ _ _ 0 (by decide), h.set _ _ _ _ (by decide)]
    · exact h.set _ _ _ _ (by decide)
  clear_value sat
  split
  · simp (disch := decide) only [h.set, h.record, h.evt, State.inc_eq, hsat]
  · rw [State.yuzNoClamp_keeps _ h, h.set _ _ _ _ (by decide), hsat]

theorem State.yuzUtil_keeps (hbusy : ∀ (u : State) l, p { u with yuz := { u.yuz with busy := l } } = p u) :
    p (s.yuzUtil b) = p s := by
  unfold State.yuzUtil
  simp (disch := decide) only [State.setU, h.set, hbusy]

end

/-- The end of a batch changes its registers and the solver's own data. -/
theorem State.yuzFinish_keeps (h : Unseen (· ∈ batchLastFlds ++ batchNumFlds ++ runStatFlds) p)
    (hyuz : ∀ (u : State) y, p { u with yuz := y } = p u) (l : List ItemRes) (cycles : Nat) (miss verdict : Bool) :
    p (s.yuzFinish b l cycles miss verdict) = p s := by
  have hlast : Unseen (· ∈ batchLastFlds) p := h.mono fun _ hf => List.mem_append_left _ (List.mem_append_left _ hf)
  have hnum : Unseen (· ∈ batchNumFlds) p := h.mono fun _ hf => List.mem_append_left _ (List.mem_append_right _ hf)
  have hstat : Unseen (· ∈ runStatFlds) p := h.mono fun _ hf => List.mem_append_right _ hf
  have hitems : p (s.itemsShown b (b.listed l)) = p s := foldl_keeps p _ (fun u _ => hyuz u _) s
  rw [State.yuzFinish_eq, State.arrayFreed, State.yuzStat_keeps _ hstat, hyuz, State.yuzUtil_keeps _ _ hnum fun u _ => hyuz u _,
    State.yuzNumeric_keeps _ _ hnum, State.batchShown_keeps _ _ hlast, hitems]

end

/-! ### What shows of a batch that ended -/

section
variable (s : State) (b : Batch)

theorem State.yuzStat_yuz : s.yuzStat.yuz = s.yuz := rfl

theorem State.yuzStat_solverView (kind : Nat) :
    s.yuzStat.solverView kind = { s.solverView kind with busy := if s.yuz.run.isSome then 1 else 0 } := by
  unfold State.yuzStat State.solverView
  simp (disch := decide) only [State.get_set_ne, State.setB_get_ne, State.get_setB_same]
  rfl

theorem State.itemsShown_solverView (l : List ItemRes) (kind : Nat) :
    (s.itemsShown b l).solverView kind = s.solverView kind := by
  refine foldl_keeps (State.solverView · kind) _ (fun u x => ?_) s
  unfold State.yuzItem
  split <;> rfl

theorem State.batchShown_solverView (l : List ItemRes) (cycles : Nat) (miss verdict : Bool) :
    (s.batchShown b l cycles miss verdict).solverView b.kind = { s.solverView b.kind with
      done := (l.filter (·.done)).length % 512, notDone := (b.items - (l.filter (·.done)).length) % 512,
      miss := if miss then 1 else 0, expired := 0, verdict := if verdict then 1 else 0, seq := b.seq % 2 ^ 32,
      cycles := cycles % 2 ^ 32 } := by
  unfold State.batchShown State.solverView
  simp (disch := decide) only [State.get_set_ne, State.setB_get_ne, State.setSat_get_ne, State.get_set_same, State.get_setB_same]
  rfl

theorem State.yuzFinish_solverView (l : List ItemRes) (cycles : Nat) (miss verdict : Bool) :
    (s.yuzFinish b l cycles miss verdict).solverView b.kind = { s.solverView b.kind with
      run := none, held := none, busy := 0, done := b.doneCount l % 512, notDone := (b.items - b.doneCount l) % 512,
      miss := if miss then 1 else 0, expired := 0, verdict := if verdict then 1 else 0, seq := b.seq % 2 ^ 32,
      cycles := cycles % 2 ^ 32 } := by
  have hnum : Unseen (· ∈ batchNumFlds) (fun u : State => u.solverView b.kind) := unseen_solverView _ (by decide)
  have hended := State.yuzUtil_keeps ((((s.itemsShown b (b.listed l)).batchShown b (b.listed l) cycles miss verdict)).yuzNumeric b
    (b.listed l)) b hnum fun _ _ => rfl
  rw [State.yuzNumeric_keeps _ _ hnum, State.batchShown_solverView, State.itemsShown_solverView] at hended
  rw [State.yuzFinish_eq, State.arrayFreed, State.yuzStat_solverView]
  exact congrArg (fun v : SolverView => { v with run := none, held := none, busy := 0 }) hended

theorem State.missCounted_solverView (kind : Nat) : (s.missCounted b).solverView kind = s.solverView kind :=
  State.missCounted_keeps s b (p := (State.solverView · kind)) (unseen_solverView kind (by decide))

/-! ### What shows of a batch that never starts (R219) -/

theorem State.itemsExpired_solverView (kind : Nat) : (s.itemsExpired b).solverView kind = s.solverView kind :=
  foldl_keeps (State.solverView · kind) (List.range b.items) (g := fun u i => u.itemExpired b.kind i) (fun _ _ => rfl) s

theorem State.expiryShown_solverView (w : Nat) : (s.expiryShown b w).solverView b.kind = { s.solverView b.kind with
    done := 0, notDone := b.items % 512, miss := 1, expired := 1, verdict := 0, seq := b.seq % 2 ^ 32, cycles := 0 } := by
  unfold State.expiryShown State.yuzNoClamp State.solverView
  simp (disch := decide) only [State.get_set_ne, State.setSat_get_ne, State.get_set_same]
  rfl

theorem State.expirySent_solverView (kind : Nat) : (s.expirySent b).solverView kind = s.solverView kind := by
  unfold State.expirySent
  split <;> rfl

theorem State.yuzExpire_solverView (cause : Nat) : (s.yuzExpire b cause).solverView b.kind = { s.solverView b.kind with
    done := 0, notDone := b.items % 512, miss := 1, expired := 1, verdict := 0, seq := b.seq % 2 ^ 32, cycles := 0 } := by
  have hmiss : Unseen (· ∈ batchMissFlds) (fun u : State => u.solverView b.kind) := unseen_solverView _ (by decide)
  obtain ⟨e, he⟩ := s.yuzExpire_eq b cause
  rw [he]
  refine (State.record_solverView _ e b.kind).trans ((State.expiryCounted_keeps _ b hmiss).trans ?_)
  rw [State.expirySent_solverView, State.expiryShown_solverView, State.itemsExpired_solverView]

theorem State.yuzExpire_events (cause : Nat) :
    (s.yuzExpire b cause).get R.YUZ_EVT_EXPIRED = 1 ∧ (s.yuzExpire b cause).get R.YUZ_EVT_MISS = 1 := by
  obtain ⟨e, he⟩ := s.yuzExpire_eq b cause
  rw [he, State.record_get _ _ _ (by decide), State.record_get _ _ _ (by decide)]
  exact ⟨(State.evt_get_ne _ _ _ (by decide) (by decide)).trans (State.evt_get_same _ _ _ (by decide)),
    State.evt_get_same _ _ _ (by decide)⟩

/-- Each item of such a batch is NOT-DONE: a later item's entry is another one. -/
theorem foldl_itemExpired_done (kind : Nat) {n i : Nat} (hi : i < n) :
    (tget ((List.range n).foldl (fun (s : State) j => s.itemExpired kind j) s).yuz.items (kind * 256 + i) {}).done = false := by
  induction n with
  | zero => exact absurd hi i.not_lt_zero
  | succ n ih =>
    rw [List.range_succ, List.foldl_append]
    generalize (List.range n).foldl (fun (s : State) j => s.itemExpired kind j) s = u at ih
    show (tget (tput u.yuz.items (kind * 256 + n) _) (kind * 256 + i) {}).done = false
    unfold tget at ih ⊢
    rcases Nat.lt_succ_iff_lt_or_eq.1 hi with hlt | rfl
    · rw [tfind_tput_ne _ _ _ _ (by omega)]
      exact ih hlt
    · rw [tfind_tput_same]
      rfl

theorem State.yuzExpire_items (cause : Nat) : (s.yuzExpire b cause).yuz.items = (s.itemsExpired b).yuz.items := by
  have hitems {P : Fld → Prop} : Unseen P (fun u : State => u.yuz.items) := unseen_yuz YuzSt.items
  obtain ⟨e, he⟩ := s.yuzExpire_eq b cause
  rw [he]
  refine (hitems (P := fun _ => True).record _ e).trans ((State.expiryCounted_keeps _ b hitems).trans ?_)
  unfold State.expirySent
  split <;> rfl

theorem State.yuzExpire_item_done (cause : Nat) {n : Nat} (hn : n < b.items) :
    (tget (s.yuzExpire b cause).yuz.items (b.kind * 256 + n) {}).done = false := by
  rw [State.yuzExpire_items]
  exact foldl_itemExpired_done s b.kind hn

end

/-! ### YUZ_BATCH_START (R219) -/

section
variable (s : State) (dt : Nat) (b : Batch)

/-- The batch leaves the queue and runs. -/
def State.batchRuns : State :=
  { s with yuz := { s.yuz with queue := s.yuz.queue.erase b, run := some b, startAt := s.now, held := none } }

/-- The batch leaves the queue. -/
def State.unqueued : State := { s with yuz := { s.yuz with queue := s.yuz.queue.erase b } }

/-- The array and its power domain are free, and a batch waits: its deadline decides, unless the device follows another. -/
theorem exec_yuzBatchStart_waiting (hr : s.yuz.run = none) (hq : nextBatch s.yuz.queue = some b)
    (hg : s.get R.PWR_STAT_YUZ_GATED = 0) : exec (.yuzBatchStart dt) s =
      if !(s.advance dt).follows && deadlinePassed (s.advance dt).pm32 b.deadline then
        .next (((s.advance dt).unqueued b).yuzExpire b 2).yuzStat
      else .next ((s.advance dt).batchRuns b).yuzStat := by
  have hpower : ¬ (s.advance dt).flag R.PWR_STAT_YUZ_GATED = true := by simp [State.flag, hg]
  have hr' : (s.advance dt).yuz.run = none := hr
  have hq' : nextBatch (s.advance dt).yuz.queue = some b := hq
  show execYuzBatchStart dt s = _
  unfold execYuzBatchStart
  dsimp only
  generalize s.advance dt = u at *
  split
  next c hfree hc =>
    obtain rfl : c = b := Option.some.inj (hc.symm.trans hq')
    exact if_neg hpower
  next hother => exact absurd hq' (hother b hr')

theorem yuzBatchStart_starts (hr : s.yuz.run = none) (hq : nextBatch s.yuz.queue = some b)
    (hg : s.get R.PWR_STAT_YUZ_GATED = 0) (hd : s.follows = true ∨ deadlinePassed (s.advance dt).pm32 b.deadline = false) :
    ∃ t, exec (.yuzBatchStart dt) s = .next t ∧ t.yuz.run = some b ∧ t.yuz.startAt = s.now + dt ∧
      t.yuz.queue = s.yuz.queue.erase b ∧ t.get R.YUZ_STAT_BUSY = 1 ∧ t.get R.YUZ_STAT_RUN_KIND = b.kind % 8 ∧
      t.get R.YUZ_STAT_TILE_BUSY = b.mask % 16 ∧
      Framed (regKeys 0 [R.YUZ_STAT_QUEUED, R.YUZ_STAT_BUSY, R.YUZ_STAT_RUN_KIND, R.YUZ_STAT_TILE_BUSY])
        { s.advance dt with yuz :=
          { s.yuz with queue := s.yuz.queue.erase b, run := some b, startAt := s.now + dt, held := none } } t := by
  have hstarts : ¬ (!(s.advance dt).follows && deadlinePassed (s.advance dt).pm32 b.deadline) = true := by
    have hfollows : (s.advance dt).follows = s.follows := rfl
    rcases hd with hd | hd <;> simp [hfollows, hd]
  refine ⟨_, (exec_yuzBatchStart_waiting s dt b hr hq hg).trans (if_neg hstarts), rfl, rfl, rfl, ?_, ?_,
    State.get_set_same _ _ _ _,
    set_framed _ _ _ _ (.inl (by decide)) (set_framed _ _ _ _ (.inl (by decide)) (setB_framed _ _ _ _ (.inl (by decide))
      (set_framed _ _ _ _ (.inl (by decide)) (.refl _ _))))⟩
  · obtain ⟨-, -, -, hbusy, -⟩ := State.of_solverView (State.yuzStat_solverView ((s.advance dt).batchRuns b) b.kind)
    exact hbusy
  · exact (State.get_set_ne _ _ _ _ (by decide)).trans (State.get_set_same _ _ _ _)

theorem yuzBatchStart_expires (hr : s.yuz.run = none) (hq : nextBatch s.yuz.queue = some b)
    (hg : s.get R.PWR_STAT_YUZ_GATED = 0) (hf : s.follows = false) (hd : deadlinePassed (s.advance dt).pm32 b.deadline = true) :
    ∃ t, exec (.yuzBatchStart dt) s = .next t ∧ t.yuz.run = none ∧ t.yuz.queue = s.yuz.queue.erase b ∧
      t.get R.YUZ_LAST_STAT_EXPIRED b.kind = 1 ∧ t.get R.YUZ_LAST_STAT_MISS b.kind = 1 ∧ t.get R.YUZ_LAST_STAT_DONE b.kind = 0 ∧
      t.get R.YUZ_LAST_STAT_NOT_DONE b.kind = b.items % 512 ∧ t.get R.YUZ_LAST_SEQ_SEQ b.kind = b.seq % 2 ^ 32 ∧
      t.get R.YUZ_EVT_EXPIRED = 1 ∧ t.get R.YUZ_EVT_MISS = 1 ∧
      ∀ n, n < b.items → (tget t.yuz.items (b.kind * 256 + n) {}).done = false := by
  have hview := State.yuzStat_solverView (((s.advance dt).unqueued b).yuzExpire b 2) b.kind
  rw [State.yuzExpire_solverView] at hview
  obtain ⟨hrun, -, hqueue, -, hdone, hnot, hmiss, hexpired, -, hseq, -⟩ := State.of_solverView hview
  obtain ⟨hevtExpired, hevtMiss⟩ := ((s.advance dt).unqueued b).yuzExpire_events b 2
  have hexpires : (!(s.advance dt).follows && deadlinePassed (s.advance dt).pm32 b.deadline) = true := by
    have hfollows : (s.advance dt).follows = s.follows := rfl
    simp [hfollows, hf, hd]
  refine ⟨_, (exec_yuzBatchStart_waiting s dt b hr hq hg).trans (if_pos hexpires),
    hrun.trans hr, hqueue, hexpired, hmiss, hdone, hnot, hseq, ?_, ?_, fun n hn => ?_⟩
  · exact (State.yuzStat_keeps _ (unseen_get_of_apartFrom 0 (by decide))).trans hevtExpired
  · exact (State.yuzStat_keeps _ (unseen_get_of_apartFrom 0 (by decide))).trans hevtMiss
  · rw [State.yuzStat_yuz]
    exact State.yuzExpire_item_done _ b 2 hn

theorem exec_yuzBatchStart_idle (h : s.yuz.run ≠ none ∨ s.yuz.queue = [] ∨ s.get R.PWR_STAT_YUZ_GATED = 1) :
    exec (.yuzBatchStart dt) s = .next (s.advance dt) := by
  show execYuzBatchStart dt s = _
  unfold execYuzBatchStart
  dsimp only
  rw [State.advance_yuz]
  split
  next c hr hq =>
    rcases h with h | h | h
    · exact absurd hr h
    · rw [h] at hq
      cases hq
    · exact if_pos (decide_eq_true h)
  · rfl

end

/-! ### YUZ_BATCH_DONE (R225, R228, R235) -/

section
variable (s : State) (dt : Nat) (l : List ItemRes) (b : Batch)

theorem exec_yuzBatchDone_own (hr : s.yuz.run = some b) (hf : s.follows = false) : exec (.yuzBatchDone dt l) s =
    .next (((s.advance dt).yuzFinish b l b.cycles false false).verdictSent (b.seq, none)) := by
  have hr' : (s.advance dt).yuz.run = some b := hr
  have hf' : ¬ (s.advance dt).follows = true := Bool.eq_false_iff.1 hf
  show execYuzBatchDone dt l s = _
  unfold execYuzBatchDone
  dsimp only
  generalize s.advance dt = u at *
  rw [hr']
  exact if_neg hf'

/-- A device that follows another does with its results what the verdict says, where it has one. -/
theorem exec_yuzBatchDone_follows (hr : s.yuz.run = some b) (hf : s.follows = true) : exec (.yuzBatchDone dt l) s =
    match tfind s.yuz.verdicts b.seq with
    | some (stop, _) => .next ((s.advance dt).yuzByVerdict b l stop)
    | none => .next { s.advance dt with yuz := { s.yuz with held := some l } } := by
  show execYuzBatchDone dt l s = _
  unfold execYuzBatchDone
  dsimp only
  rw [State.advance_yuz, hr]
  refine (if_pos hf).trans ?_
  cases tfind s.yuz.verdicts b.seq <;> rfl

theorem exec_yuzBatchDone_judged {z : Option (Nat × Nat)} {q : Nat} (hr : s.yuz.run = some b) (hf : s.follows = true)
    (hv : tfind s.yuz.verdicts b.seq = some (z, q)) :
    exec (.yuzBatchDone dt l) s = .next ((s.advance dt).yuzByVerdict b l z) := by
  rw [exec_yuzBatchDone_follows s dt l b hr hf, hv]

theorem exec_yuzBatchDone_waits (hr : s.yuz.run = some b) (hf : s.follows = true) (hv : tfind s.yuz.verdicts b.seq = none) :
    exec (.yuzBatchDone dt l) s = .next { s.advance dt with yuz := { s.yuz with held := some l } } := by
  rw [exec_yuzBatchDone_follows s dt l b hr hf, hv]

theorem State.yuzFinish_mode (cycles : Nat) (miss verdict : Bool) : (s.yuzFinish b l cycles miss verdict).mode = s.mode :=
  State.yuzFinish_keeps s b (p := State.mode) (unseen_get_of_apartFrom 0 (by decide)) (fun _ _ => rfl) l cycles miss verdict

theorem State.yuzFinish_pts (cycles : Nat) (miss verdict : Bool) : (s.yuzFinish b l cycles miss verdict).pts = s.pts :=
  State.yuzFinish_keeps s b unseen_pts (fun _ _ => rfl) l cycles miss verdict

theorem yuzBatchDone_completes (hr : s.yuz.run = some b) (hf : s.follows = false) :
    ∃ t, exec (.yuzBatchDone dt l) s = .next t ∧ t.yuz.run = none ∧ t.yuz.held = none ∧ t.yuz.sent = some (b.seq, none) ∧
      t.yuz.queue = s.yuz.queue ∧ t.get R.YUZ_LAST_STAT_MISS b.kind = 0 ∧ t.get R.YUZ_LAST_STAT_EXPIRED b.kind = 0 ∧
      t.get R.YUZ_LAST_STAT_VERDICT b.kind = 0 ∧ t.get R.YUZ_LAST_SEQ_SEQ b.kind = b.seq % 2 ^ 32 ∧
      t.get R.YUZ_LAST_CYC_CYCLES b.kind = b.cycles % 2 ^ 32 ∧ t.get R.YUZ_STAT_BUSY = 0 ∧ t.mode = s.mode ∧ t.pts = s.pts := by
  obtain ⟨hrun, hheld, hqueue, hbusy, -, -, hmiss, hexpired, hverdict, hseq, hcycles⟩ :=
    State.of_solverView ((s.advance dt).yuzFinish_solverView b l b.cycles false false)
  have hmode := (s.advance dt).yuzFinish_mode l b b.cycles false false
  have hpts := (s.advance dt).yuzFinish_pts l b b.cycles false false
  have hexec := exec_yuzBatchDone_own s dt l b hr hf
  generalize (s.advance dt).yuzFinish b l b.cycles false false = u at *
  exact ⟨_, hexec, hrun, hheld, rfl, hqueue, hmiss, hexpired, hverdict, hseq, hcycles, hbusy, hmode, hpts⟩

end

/-! ### VERDICT_RECEIVE (R235) -/

section
variable (s : State) (b : Batch) (z : Option (Nat × Nat))

/-- The miss of a batch is counted and told. -/
def State.missTold : State := (s.missCounted b).evt R.YUZ_EVT_MISS

theorem State.missTold_solverView (kind : Nat) : (s.missTold b).solverView kind = s.solverView kind :=
  (Unseen.evt (P := (· ∈ batchMissFlds)) (p := (State.solverView · kind)) (unseen_solverView kind (by decide)) _ _ 0
    (by decide)).trans (s.missCounted_solverView b kind)

/-- A batch that ends by the verdict shows what the verdict says of it. -/
theorem State.yuzByVerdict_solverView (l : List ItemRes) : (s.yuzByVerdict b l z).solverView b.kind =
    (s.yuzFinish b (judged b z l) b.cycles z.isSome true).solverView b.kind := by
  unfold State.yuzByVerdict
  extract_lets kept gone miss ended told
  have htold : told.solverView b.kind = ended.solverView b.kind := by
    simp only [told]
    split
    · exact ended.missTold_solverView b b.kind
    · rfl
  split
  · exact htold
  · exact (State.record_solverView _ _ b.kind).trans htold

theorem State.yuzByVerdict_shows (l : List ItemRes) : (s.yuzByVerdict b l z).yuz.run = none ∧
    (s.yuzByVerdict b l z).yuz.held = none ∧ (s.yuzByVerdict b l z).get R.YUZ_LAST_STAT_VERDICT b.kind = 1 ∧
    (s.yuzByVerdict b l z).get R.YUZ_LAST_STAT_MISS b.kind = (if z.isSome then 1 else 0) ∧
    (s.yuzByVerdict b l z).get R.YUZ_LAST_SEQ_SEQ b.kind = b.seq % 2 ^ 32 ∧ (s.yuzByVerdict b l z).get R.YUZ_STAT_BUSY = 0 := by
  obtain ⟨hrun, hheld, -, hbusy, -, -, hmiss, -, hverdict, hseq, -⟩ := State.of_solverView
    ((s.yuzByVerdict_solverView b z l).trans (s.yuzFinish_solverView b _ b.cycles z.isSome true))
  exact ⟨hrun, hheld, hverdict, hmiss, hseq, hbusy⟩

/-- The verdict is listed with its instant. -/
def State.verdictKept (q : Nat) : State := { s with yuz := { s.yuz with verdicts := tput s.yuz.verdicts q (z, s.now) } }

/-- A verdict on a batch that runs or waits is kept. -/
theorem State.keepVerdict_of_present {q : Nat} (h : ∃ b ∈ s.yuz.run.toList ++ s.yuz.queue, b.seq = q) :
    s.keepVerdict q z = s.verdictKept z q := by
  refine if_pos (Bool.or_eq_true_iff.2 (.inr (List.any_eq_true.2 ?_)))
  obtain ⟨b, hb, hq⟩ := h
  exact ⟨b, hb, decide_eq_true hq⟩

variable (dt : Nat)

/-- A device that follows another keeps the verdict, and ends the batch by it where its results are there. -/
theorem exec_verdictReceive_present {q : Nat} (hf : s.follows = true) (hb : ∃ b ∈ s.yuz.run.toList ++ s.yuz.queue, b.seq = q) :
    exec (.verdictReceive dt q z) s = match s.yuz.run, (s.advance dt).verdictItems z with
      | some b, some l => if b.seq = q then .next (((s.advance dt).verdictKept z q).yuzByVerdict b l z)
        else .next (((s.advance dt).verdictKept z q).yuzUnstarted q z)
      | _, _ => .next (((s.advance dt).verdictKept z q).yuzUnstarted q z) := by
  have hrun : (s.advance dt).yuz.run = s.yuz.run := rfl
  have hfollows : ¬ (!(s.advance dt).follows) = true := by
    have hf' : (s.advance dt).follows = true := hf
    simp [hf']
  have hkept := (s.advance dt).keepVerdict_of_present z (q := q) hb
  show execVerdictReceive dt q z s = _
  unfold execVerdictReceive
  dsimp only
  generalize s.advance dt = u at *
  rw [if_neg hfollows, hkept, ← hrun]
  rfl

/-- The results that a standby holds end with the verdict on their batch. -/
theorem exec_verdictReceive_judged {l : List ItemRes} (hr : s.yuz.run = some b) (hf : s.follows = true)
    (hh : s.yuz.held = some l) :
    exec (.verdictReceive dt b.seq z) s = .next (((s.advance dt).verdictKept z b.seq).yuzByVerdict b l z) := by
  have hitems : (s.advance dt).verdictItems z = some l := by
    unfold State.verdictItems
    split <;> simp [hh]
  rw [exec_verdictReceive_present s z dt hf ⟨b, by simp [hr], rfl⟩, hr, hitems]
  exact if_pos rfl

theorem follower_ends_by_verdict (q : Nat) (l : List ItemRes) (x : Instr) (hr : s.yuz.run = some b) (hf : s.follows = true)
    (hx : (x = .yuzBatchDone dt l ∧ tfind s.yuz.verdicts b.seq = some (z, q)) ∨
      (x = .verdictReceive dt b.seq z ∧ s.yuz.held = some l)) :
    ∃ t, exec x s = .next t ∧ t.yuz.run = none ∧ t.yuz.held = none ∧ t.get R.YUZ_LAST_STAT_VERDICT b.kind = 1 ∧
      t.get R.YUZ_LAST_STAT_MISS b.kind = (if z.isSome then 1 else 0) ∧ t.get R.YUZ_LAST_SEQ_SEQ b.kind = b.seq % 2 ^ 32 ∧
      t.get R.YUZ_STAT_BUSY = 0 := by
  rcases hx with ⟨rfl, hv⟩ | ⟨rfl, hh⟩
  · exact ⟨_, exec_yuzBatchDone_judged s dt l b hr hf hv, State.yuzByVerdict_shows _ b z l⟩
  · exact ⟨_, exec_verdictReceive_judged s b z dt hr hf hh, State.yuzByVerdict_shows _ b z l⟩

/-- A verdict that stops no waiting batch leaves the queue as it is. -/
theorem State.yuzUnstarted_started (q : Nat) (hz : z ≠ some (0, 0)) : s.yuzUnstarted q z = s := by
  unfold State.yuzUnstarted
  split
  · exact absurd rfl hz
  · rfl

/-- Without results of its own the standby keeps the verdict for them. -/
theorem exec_verdictReceive_kept (q : Nat) (hf : s.follows = true) (hh : s.yuz.held = none) (hz : z ≠ some (0, 0))
    (hb : ∃ b ∈ s.yuz.run.toList ++ s.yuz.queue, b.seq = q) : exec (.verdictReceive dt q z) s =
      .next { s.advance dt with yuz := { s.yuz with verdicts := tput s.yuz.verdicts q (z, s.now + dt) } } := by
  have hitems : (s.advance dt).verdictItems z = none := by
    unfold State.verdictItems
    split
    · exact absurd rfl hz
    · exact hh
  rw [exec_verdictReceive_present s z dt hf hb, hitems, State.yuzUnstarted_started _ z q hz]
  split
  next hnone => cases hnone
  · rfl

end

/-! ### YUZ_DEADLINE_STOP (R232, R233) -/

section
variable (s : State)

/-- The overrun of a stop is shown, and the largest one. -/
def State.overrunShown (o : Nat) : State :=
  (s.setSat R.YUZ_STOP_LAST_OVR o).set R.YUZ_STOP_MAX_OVR
    (max ((s.setSat R.YUZ_STOP_LAST_OVR o).get R.YUZ_STOP_MAX_OVR) ((s.setSat R.YUZ_STOP_LAST_OVR o).get R.YUZ_STOP_LAST_OVR))

theorem State.overrunShown_shows (o : Nat) : (s.overrunShown o).get R.YUZ_STOP_LAST_OVR = min o 65535 ∧
    (s.overrunShown o).get R.YUZ_STOP_MAX_OVR = max (s.get R.YUZ_STOP_MAX_OVR) (min o 65535) % 65536 := by
  have hlast : (s.setSat R.YUZ_STOP_LAST_OVR o).get R.YUZ_STOP_LAST_OVR = min o 65535 := by
    rw [State.setSat_eq, State.get_set_same]
    show min 65535 o % 65536 = min o 65535
    omega
  refine ⟨(State.get_set_ne _ _ _ _ (by decide)).trans hlast, (State.get_set_same _ _ _ _).trans ?_⟩
  rw [hlast, State.setSat_get_ne _ _ (by decide)]
  rfl

theorem State.overrunShown_solverView (o kind : Nat) : (s.overrunShown o).solverView kind = s.solverView kind := by
  have h : Unseen (· ∈ [R.YUZ_STOP_LAST_OVR, R.YUZ_STOP_MAX_OVR]) (fun u : State => u.solverView kind) :=
    unseen_solverView kind (by decide)
  exact (h.set _ _ _ 0 (by decide)).trans (h.set _ _ _ 0 (by decide))

variable (b : Batch) (l : List ItemRes) (cyc o : Nat)

/-- The items of a stopped batch: none of a coupled one is DONE. -/
def Batch.stopped : List ItemRes := if b.coupled then l.map fun r => { r with done := false } else l

theorem Batch.stopped_doneCount (h : b.coupled = true) : b.doneCount (b.stopped l) = 0 := by
  refine b.doneCount_of_none fun r hr => ?_
  rw [Batch.stopped, if_pos h] at hr
  obtain ⟨r', -, rfl⟩ := List.mem_map.1 hr
  rfl

/-- The batch stops: it ends with a miss, its standby is sent how far it came, and the overrun is shown. -/
def State.deadlineStopped (v : Nat × Nat) : State :=
  (((s.yuzFinish b (b.stopped l) cyc true false).verdictSent (b.seq, some v)).overrunShown o).missTold b

theorem State.deadlineStopped_solverView (v : Nat × Nat) : (s.deadlineStopped b l cyc o v).solverView b.kind =
    (s.yuzFinish b (b.stopped l) cyc true false).solverView b.kind :=
  (State.missTold_solverView _ b b.kind).trans (State.overrunShown_solverView _ o b.kind)

theorem State.deadlineStopped_overrun (v : Nat × Nat) :
    (s.deadlineStopped b l cyc o v).get R.YUZ_STOP_LAST_OVR = min o 65535 ∧
      (s.deadlineStopped b l cyc o v).get R.YUZ_STOP_MAX_OVR = max (s.get R.YUZ_STOP_MAX_OVR) (min o 65535) % 65536 := by
  have htold (u : State) {f : Fld} (hf : apartFrom batchMissFlds f = true) : (u.missTold b).get f = u.get f := by
    have h := unseen_get_of_apartFrom 0 hf
    exact (h.evt _ _ 0 (by decide)).trans (State.missCounted_keeps _ b h)
  have hmax : (s.yuzFinish b (b.stopped l) cyc true false).get R.YUZ_STOP_MAX_OVR = s.get R.YUZ_STOP_MAX_OVR :=
    State.yuzFinish_keeps s b (unseen_get_of_apartFrom 0 (by decide)) (fun _ _ => rfl) _ _ _ _
  obtain ⟨hlast, hlargest⟩ :=
    ((s.yuzFinish b (b.stopped l) cyc true false).verdictSent (b.seq, some v)).overrunShown_shows o
  refine ⟨(htold _ (by decide)).trans hlast, (htold _ (by decide)).trans (hlargest.trans ?_)⟩
  rw [← hmax]
  rfl

theorem State.deadlineStopped_sent (v : Nat × Nat) : (s.deadlineStopped b l cyc o v).yuz.sent = some (b.seq, some v) := by
  have h : Unseen (· ∈ batchMissFlds) (fun u : State => u.yuz.sent) := unseen_yuz YuzSt.sent
  exact (h.evt _ _ 0 (by decide)).trans (State.missCounted_keeps _ b h)

variable (dt : Nat)

theorem exec_yuzDeadlineStop_runs (hr : s.yuz.run = some b) : ∃ v e, exec (.yuzDeadlineStop dt l cyc o) s =
    if s.follows || !deadlinePassed (s.advance dt).pm32 b.deadline then .next (s.advance dt)
    else .next (((s.advance dt).deadlineStopped b l cyc o v).record e) := by
  show ∃ v e, execYuzDeadlineStop dt l cyc o s = _
  unfold execYuzDeadlineStop
  dsimp only
  rw [State.advance_yuz, hr]
  exact ⟨_, _, rfl⟩

theorem yuzDeadlineStop_stops (hr : s.yuz.run = some b) (hf : s.follows = false)
    (hd : deadlinePassed (s.advance dt).pm32 b.deadline = true) :
    ∃ t, exec (.yuzDeadlineStop dt l cyc o) s = .next t ∧ t.yuz.run = none ∧
      (t.yuz.sent.map fun x => (x.1, x.2.isSome)) = some (b.seq, true) ∧ t.get R.YUZ_LAST_STAT_MISS b.kind = 1 ∧
      t.get R.YUZ_LAST_CYC_CYCLES b.kind = cyc % 2 ^ 32 ∧ t.get R.YUZ_STOP_LAST_OVR = min o 65535 ∧
      t.get R.YUZ_STOP_MAX_OVR = max (s.get R.YUZ_STOP_MAX_OVR) (min o 65535) % 65536 ∧ t.get R.YUZ_EVT_MISS = 1 ∧
      (b.coupled = true → t.get R.YUZ_LAST_STAT_DONE b.kind = 0) := by
  obtain ⟨v, e, hexec⟩ := exec_yuzDeadlineStop_runs s b l cyc o dt hr
  rw [if_neg (by simp [hf, hd])] at hexec
  obtain ⟨hrun, -, -, -, hdone, -, hmiss, -, -, -, hcycles⟩ := State.of_solverView
    ((State.record_solverView _ e b.kind).trans
      (((s.advance dt).deadlineStopped_solverView b l cyc o v).trans (State.yuzFinish_solverView _ b _ cyc true false)))
  obtain ⟨hlast, hlargest⟩ := (s.advance dt).deadlineStopped_overrun b l cyc o v
  refine ⟨_, hexec, hrun, ?_, hmiss, hcycles,
    (State.record_get _ _ _ (by decide)).trans hlast, (State.record_get _ _ _ (by decide)).trans hlargest,
    (State.record_get _ _ _ (by decide)).trans (State.evt_get_same _ _ _ (by decide)), fun hc => ?_⟩
  · rw [State.record_yuz, State.deadlineStopped_sent]
    rfl
  · exact hdone.trans (congrArg (· % 512) (b.stopped_doneCount l hc))

theorem exec_yuzDeadlineStop_early (hr : s.yuz.run = some b)
    (hd : s.follows = true ∨ deadlinePassed (s.advance dt).pm32 b.deadline = false) :
    exec (.yuzDeadlineStop dt l cyc o) s = .next (s.advance dt) := by
  obtain ⟨v, e, hexec⟩ := exec_yuzDeadlineStop_runs s b l cyc o dt hr
  refine hexec.trans (if_pos ?_)
  rcases hd with hd | hd <;> simp [hd]

end

/-! ### STANDBY_LAG (R235) -/

section
variable (s : State)

/-- A device fault leaves what neither its note nor its trigger writes. -/
theorem State.deviceFault_get (cause unit : Nat) {f : Fld} (b : Nat) (h : triggerKeeps f = true)
    (hc : fkey f ≠ fkey R.DEV_FAULT_CAUSE) (hu : fkey f ≠ fkey R.DEV_FAULT_UNIT) (hn : fkey f ≠ fkey R.DEV_FAULT_COUNT)
    (he : fkey f ≠ fkey R.DEV_EVT_FAULT) : (s.deviceFault cause unit).get f b = s.get f b :=
  (State.trigger_keeps _ b h _ _ _).trans (State.faultNote_get _ _ _ b (noteFld_of_triggerKeeps h) hc hu hn he)

/-- The active's verdict on a batch came 2 ms ago or earlier. -/
def State.standbyLate (b : Batch) : Bool :=
  match tfind s.yuz.verdicts b.seq with
  | some (_, t) => decide (t + 2000000 ≤ s.now)
  | none => false

/-- The standby is late with a batch, and a watchdog fault follows. -/
def State.lagFault (e : Ev) : State := ((s.evt R.YUZ_EVT_STANDBY_LAG).record e).deviceFault 8 0xFFFF

variable (dt : Nat)

/-- The first late batch decides, where the device follows another. -/
theorem exec_standbyLag_eq : ∃ e : Batch → Ev, exec (.standbyLag dt) s =
    match (s.yuz.run.toList ++ s.yuz.queue).find? (s.advance dt).standbyLate with
    | some b => if s.follows then .next ((s.advance dt).lagFault (e b)) else .next (s.advance dt)
    | none => .next (s.advance dt) := ⟨_, rfl⟩

theorem standbyLag_faults (t₀ : Nat) (b : Batch) (z : Option (Nat × Nat)) (hr : s.yuz.run = some b)
    (hv : tfind s.yuz.verdicts b.seq = some (z, t₀)) (hf : s.follows = true) (ht : t₀ + 2000000 ≤ s.now + dt) :
    ∃ t, exec (.standbyLag dt) s = .next t ∧ t.get R.YUZ_EVT_STANDBY_LAG = 1 ∧ t.get R.DEV_FAULT_CAUSE = 8 ∧
      t.get R.DEV_EVT_FAULT = 1 := by
  have hlate : (s.advance dt).standbyLate b = true := by
    unfold State.standbyLate
    rw [State.advance_yuz, hv]
    exact decide_eq_true ht
  have hfind : (s.yuz.run.toList ++ s.yuz.queue).find? (s.advance dt).standbyLate = some b := by
    rw [hr]
    exact List.find?_cons_of_pos hlate
  obtain ⟨e, hexec⟩ := exec_standbyLag_eq s dt
  rw [hfind] at hexec
  obtain ⟨hcause, -, hevt⟩ := (((s.advance dt).evt R.YUZ_EVT_STANDBY_LAG).record (e b)).deviceFault_shows 8 0xFFFF
  refine ⟨_, hexec.trans (if_pos hf), ?_, hcause, hevt⟩
  exact (State.deviceFault_get _ _ _ _ (by decide) (by decide) (by decide) (by decide) (by decide)).trans
    ((State.record_get _ _ _ (by decide)).trans (State.evt_get_same _ _ _ (by decide)))

/-- With no verdict at all no batch is late. -/
theorem State.standbyLate_of_no_verdicts (h : s.yuz.verdicts = []) (b : Batch) : s.standbyLate b = false := by
  unfold State.standbyLate
  rw [h]
  rfl

theorem exec_standbyLag_none
    (h : s.follows = false ∨ (s.yuz.run = none ∧ s.yuz.queue = []) ∨ s.yuz.verdicts = []) :
    exec (.standbyLag dt) s = .next (s.advance dt) := by
  obtain ⟨e, hexec⟩ := exec_standbyLag_eq s dt
  rw [hexec]
  split
  next b hb =>
    rcases h with hf | ⟨hr, hq⟩ | hv
    · exact if_neg (Bool.eq_false_iff.1 hf)
    · rw [hr, hq] at hb
      cases hb
    · have hlate := List.find?_some hb
      rw [State.standbyLate_of_no_verdicts (s.advance dt) hv b] at hlate
      cases hlate
  · rfl

end

/-- Settles O33: each clause is the lemma of its command above. That a standby holds its own results until the active's verdict is
the model's choice (log 106), and so is that a command whose condition is not met only lets time pass (log 1). -/
theorem solverBatches : Obligations.SolverBatches := by
  unfold Obligations.SolverBatches
  refine ⟨fun dt b s => yuzBatchStart_starts s dt b, fun dt b s hr hq hg hf hd => ?_, fun dt s => exec_yuzBatchStart_idle s dt,
    fun dt l b s => yuzBatchDone_completes s dt l b, fun dt l b s => exec_yuzBatchDone_waits s dt l b,
    fun dt q l b z x s => follower_ends_by_verdict s b z dt q l x, fun dt q z s => exec_verdictReceive_kept s z dt q,
    fun dt cyc o l b s => yuzDeadlineStop_stops s b l cyc o dt, fun dt cyc o l b s => exec_yuzDeadlineStop_early s b l cyc o dt,
    fun dt t₀ b z s => standbyLag_faults s dt t₀ b z, fun dt s => exec_standbyLag_none s dt⟩
  obtain ⟨t, hexec, hrun, hqueue, hexpired, hmiss, hdone, hnot, hseq, hevtE, hevtM, hitems⟩ :=
    yuzBatchStart_expires s dt b hr hq hg hf hd
  exact ⟨t, hexec, hrun, hqueue, hexpired, hmiss, hdone, hnot, hseq, hevtE, hevtM, fun n _ => hitems n⟩

end Sys2Proof.Machine
end

section
/-!
PROOF of the statement of 10_loop_cells.md about the turns of a loop cell (LoopCells): what the loop fabric's work leaves alone, the
output register, the end of an injection, a run and a miss, and then the two commands.
-/

namespace Sys2Proof.Machine

open Sys2Proof

/-! ### What the loop fabric's work leaves alone -/

/-- A view of the state that changes neither with a field of `P`, nor with a point, a converter's request, a PWM channel or a capture
unit, nor with what is told of a command. -/
structure FabricUnseen {β : Type} (P : Fld → Prop) (p : State → β) : Prop extends Unseen P p where
  pts : ∀ (u : State) (x : Tab Pt), p { u with pts := x } = p u
  clp : ∀ (u : State) (x : ClpAll), p { u with clp := x } = p u
  pwm : ∀ (u : State) (x : Tab PwmSt), p { u with loop := { u.loop with pwm := x } } = p u
  caps : ∀ (u : State) (x : Tab CapSt), p { u with loop := { u.loop with caps := x } } = p u

section
variable {β : Type} {P Q : Fld → Prop} {p : State → β}

theorem FabricUnseen.mono (h : FabricUnseen P p) (hq : ∀ f, Q f → P f) : FabricUnseen Q p :=
  ⟨h.toUnseen.mono hq, h.pts, h.clp, h.pwm, h.caps⟩

theorem fabricUnseen_get {f : Fld} (b : Nat) (hn : noteFld f = false) (h : ∀ g, P g → fkey f ≠ fkey g) :
    FabricUnseen P (fun u : State => u.get f b) :=
  ⟨unseen_get b hn h, fun _ _ => rfl, fun _ _ => rfl, fun _ _ => rfl, fun _ _ => rfl⟩

theorem fabricUnseen_get_of_apartFrom {fs : List Fld} {f : Fld} (b : Nat) (h : apartFrom fs f = true) :
    FabricUnseen (· ∈ fs) (fun u : State => u.get f b) :=
  fabricUnseen_get b (noteFld_of_apartFrom h) fun _ hg => apartFrom_ne h hg

/-- The cells' own data, and the functions', are such views. -/
theorem fabricUnseen_cells (g : Tab CellSt → β) : FabricUnseen P (fun u : State => g u.loop.cells) :=
  ⟨⟨fun _ _ _ _ _ => rfl, fun _ _ h => congrArg (fun l : LoopSt => g l.cells) (State.of_plain_loop h.plain)⟩,
    fun _ _ => rfl, fun _ _ => rfl, fun _ _ => rfl, fun _ _ => rfl⟩

theorem fabricUnseen_fns (g : Tab FnSt → β) : FabricUnseen P (fun u : State => g u.loop.fns) :=
  ⟨⟨fun _ _ _ _ _ => rfl, fun _ _ h => congrArg (fun l : LoopSt => g l.fns) (State.of_plain_loop h.plain)⟩,
    fun _ _ => rfl, fun _ _ => rfl, fun _ _ => rfl, fun _ _ => rfl⟩

theorem fabricUnseen_cell (n : Nat) : FabricUnseen P (fun u : State => u.cell n) := fabricUnseen_cells fun t => tget t n {}

/-! #### Points and outputs -/

section
variable (h : FabricUnseen P p)
include h

theorem State.putPoint_unseen (s : State) (i value : Nat) (pm : Pm) (q : Quality) : p (s.putPoint i value pm q) = p s := by
  unfold State.putPoint
  split
  · rfl
  · dsimp only
    split
    · exact h.pts s _
    · exact (h.told _ _ (State.send_framed _ _ _ _ _ _ (.refl _ _))).trans (h.pts s _)

theorem State.putNum_unseen (s : State) (i : Nat) (x : Rat) (q : Quality) : p (s.putNum i x q) = p s := by
  unfold State.putNum
  split
  · exact State.putPoint_unseen h _ _ _ _ _
  · rfl

theorem State.putAll_unseen (s : State) (base : Nat) (vals : List Nat) (q : Quality) : p (s.putAll base vals q) = p s := by
  refine foldl_keeps p _ (fun u x => ?_) s
  unfold State.putAddr
  split
  · exact State.putPoint_unseen h _ _ _ _ _
  · rfl

theorem State.actuate_unseen (s : State) (x : CellCfg) (u : Int) : p (s.actuate x u) = p s := by
  unfold State.actuate
  dsimp only
  split
  · split
    · split
      · rfl
      · exact h.pwm s _
    · rfl
  · split
    · exact h.clp s _
    · rfl
  · exact State.putNum_unseen h _ _ _ _
  · rfl

end

/-! #### Injections and captures -/

section
variable (h : FabricUnseen P p)
include h

theorem State.capTrigger_unseen (hP : P R.LOOP_CAP_STAT_STATE) (s : State) (u trig : Nat) : p (s.capTrigger u trig) = p s := by
  unfold State.capTrigger
  split
  · rfl
  · exact (h.record _ _).trans ((h.set _ _ _ _ hP).trans (h.caps s _))

theorem State.capTriggers_unseen (hP : P R.LOOP_CAP_STAT_STATE) (s : State) (cell kind : Nat) :
    p (s.capTriggers cell kind) = p s := by
  refine foldl_keeps p _ (fun u k => ?_) s
  split
  · exact State.capTrigger_unseen h hP u k kind
  · rfl

end

end

/-- The fields that a run writes in a capture unit. -/
def capRunFlds : List Fld := [R.LOOP_CAP_STAT_COUNT, R.LOOP_CAP_STAT_TRIG_IDX, R.LOOP_CAP_PM_PM32]

section
variable {β : Type} {p : State → β} (h : FabricUnseen (· ∈ capRunFlds) p)
include h

theorem State.capRun_unseen (s : State) (u : Nat) : p (s.capRun u) = p s := by
  unfold State.capRun
  extract_lets st count c dec now acc smp ring ring' s' ring''
  split
  · rfl
  split
  · exact h.caps s _
  split
  · refine (h.set _ _ _ u (by decide)).trans ((h.set _ _ _ u (by decide)).trans ((h.set _ _ _ u (by decide)).trans ?_))
    exact h.caps s _
  · exact (h.set _ _ _ u (by decide)).trans (h.caps s _)

theorem State.capRuns_unseen (s : State) (cell : Nat) : p (s.capRuns cell) = p s := by
  refine foldl_keeps p _ (fun u k => ?_) s
  split
  · exact State.capRun_unseen h u k
  · rfl

end

/-! ### Cells -/

section
variable (s : State) (n : Nat)

@[simp] theorem State.putCell_cell (c : CellSt) : (s.putCell n c).cell n = c := by
  simp [State.cell, State.putCell, tget]


@[simp] theorem State.set_cell (f : Fld) (v b k : Nat) : (s.set f v b).cell k = s.cell k := rfl

theorem State.record_cell (e : Ev) : (s.record e).cell n = s.cell n :=
  Unseen.record (P := fun _ => False) (fabricUnseen_cell n).toUnseen s e

theorem State.evt_cell (f : Fld) (b : Nat) : (s.evt f b).cell n = s.cell n :=
  Unseen.evt (P := fun _ => True) (fabricUnseen_cell n).toUnseen s f b trivial

end

/-- 32 bits fit a field of 32 bits. -/
theorem bits32_mod (v : Int) : bits32 v % 2 ^ 32 = bits32 v := by
  unfold bits32
  have hlt := Int.emod_lt_of_pos v (show (0 : Int) < 2 ^ 32 by decide)
  have hnn := Int.emod_nonneg v (show (2 : Int) ^ 32 ≠ 0 by decide)
  omega

/-! #### The output register (R244, R246) -/

/-- A cell whose output register takes a value. -/
def State.cellOutTaken (s : State) (n : Nat) (u : Int) (lat : Nat) : CellSt :=
  { s.cell n with uOld := if (s.cell n).uAt < s.now then (s.cell n).u else (s.cell n).uOld, u := u, uAt := s.now + lat,
                  held := false }

section
variable (s : State) (n : Nat) (x : CellCfg) (u : Int) (lat : Nat)

theorem State.setOutIn_unseen {β : Type} {P : Fld → Prop} {p : State → β} (h : FabricUnseen P p)
    (hP : P R.LOOP_CELL_OUT_VALUE) : p (s.setOutIn n x u lat) = p (s.putCell n (s.cellOutTaken n u lat)) :=
  (State.actuate_unseen h _ x u).trans (h.set _ _ _ n hP)

theorem State.setOutIn_get {f : Fld} (b : Nat) (h : apartFrom [R.LOOP_CELL_OUT_VALUE] f = true) :
    (s.setOutIn n x u lat).get f b = s.get f b :=
  s.setOutIn_unseen n x u lat (fabricUnseen_get_of_apartFrom b h) (by decide)

theorem State.setOutIn_cell : (s.setOutIn n x u lat).cell n = s.cellOutTaken n u lat :=
  (s.setOutIn_unseen n x u lat (fabricUnseen_cell n) trivial (P := fun _ => True)).trans (State.putCell_cell _ _ _)

theorem State.setOutIn_out : (s.setOutIn n x u lat).get R.LOOP_CELL_OUT_VALUE n = bits32 u := by
  have hact (v : State) : (v.actuate x u).get R.LOOP_CELL_OUT_VALUE n = v.get R.LOOP_CELL_OUT_VALUE n :=
    State.actuate_unseen (P := fun _ => False) (fabricUnseen_get n (by decide) fun _ hf => hf.elim) v x u
  exact (hact _).trans ((State.get_set_same _ _ _ _).trans (bits32_mod u))

end

/-! #### The end of an injection (R255) -/

/-- The fields that the end of an injection writes. -/
def injStopFlds : List Fld := [R.LOOP_INJ_CMD_RESULT, R.LOOP_CELL_STAT_INJ, R.LOOP_EVT_INJ_END]

section
variable (s : State) (n res : Nat)

theorem State.injStop_none (h : (s.cell n).test = none) : s.injStop n res = s := by
  unfold State.injStop
  dsimp only
  rw [h]

/-- An injection that ends is recorded once the cell has none and its result shows. -/
theorem State.injStop_some {i : InjSt} (h : (s.cell n).test = some i) : ∃ e : Ev, s.injStop n res =
    ((((s.putCell n { s.cell n with test := none }).set R.LOOP_INJ_CMD_RESULT res n).set R.LOOP_CELL_STAT_INJ 0 n).evt
      R.LOOP_EVT_INJ_END).record e := by
  unfold State.injStop
  dsimp only
  rw [h]
  exact ⟨_, rfl⟩

theorem State.injStop_unseen {β : Type} {p : State → β} (h : Unseen (· ∈ injStopFlds) p)
    (hcell : p (s.putCell n { s.cell n with test := none }) = p s) : p (s.injStop n res) = p s := by
  rcases htest : (s.cell n).test with _ | i
  · rw [s.injStop_none n res htest]
  · obtain ⟨e, hstop⟩ := s.injStop_some n res htest
    rw [hstop, h.record, h.evt _ _ _ (by decide), h.set _ _ _ _ (by decide), h.set _ _ _ _ (by decide), hcell]

theorem State.injStop_get {f : Fld} (b : Nat) (h : apartFrom injStopFlds f = true) :
    (s.injStop n res).get f b = s.get f b :=
  s.injStop_unseen n res (unseen_get_of_apartFrom b h) rfl

/-- The cell has no injection any more, and is otherwise as it was. -/
theorem State.injStop_cell : (s.injStop n res).cell n = { s.cell n with test := none } := by
  rcases htest : (s.cell n).test with _ | i
  · rw [s.injStop_none n res htest, ← htest]
  · obtain ⟨e, hstop⟩ := s.injStop_some n res htest
    rw [hstop, State.record_cell, State.evt_cell, State.set_cell, State.set_cell, State.putCell_cell]

end

/-! ### What a run leaves alone (R241, R243) -/

/-- The fields that a law step or a tracking step writes beside the output. -/
def cellStepFlds : List Fld :=
  [R.LOOP_CELL_STAT_FF_STATE, R.LOOP_EVT_FF_FADE, R.LOOP_INJ_CMD_RESULT, R.LOOP_CELL_STAT_INJ, R.LOOP_CAP_STAT_STATE,
   R.LOOP_CELL_STAT_SAT, R.LOOP_STAT_SAT, R.LOOP_EVT_SAT, R.LOOP_CELL_STAT_SAT_HI, R.LOOP_CELL_STAT_SAT_LO,
   R.LOOP_CELL_STAT_SLEWING]

section
variable {β : Type} {p : State → β} (h : FabricUnseen (· ∈ cellStepFlds) p) {n : Nat}
include h

theorem State.satNotes_unseen (s : State) (stages : List Nat) : p (s.satNotes n stages) = p s := by
  refine foldl_keeps p _ (fun u st => ?_) s
  rw [h.record, h.evt _ _ _ (by decide), State.incSat_eq, h.set _ _ _ _ (by decide), h.set _ _ _ _ (by decide)]

theorem State.ffRun_unseen (s : State) (x : CellCfg)
    (hcell : ∀ g v ff, p (s.putCell n { s.cell n with g := g, ffV := v, ff := ff }) = p s) : p (s.ffRun n x).1 = p s := by
  unfold State.ffRun
  split
  · rfl
  · dsimp only
    simp (disch := decide) only [apply_ite p, h.record, h.evt, h.set, hcell, ite_self]

theorem State.injRun_unseen (s : State) (x : CellCfg) (hcell : ∀ i, p (s.putCell n { s.cell n with test := i }) = p s) :
    p (s.injRun n x).1 = p s := by
  unfold State.injRun
  dsimp only
  split
  · rfl
  · simp (disch := decide) only [apply_ite p, apply_ite Prod.fst, h.record, State.capTriggers_unseen h, h.set, hcell, ite_self]

end

section
variable {β : Type} {p : State → β} {n : Nat}

/-- Tracking leaves a view that takes of the cell's own data nothing but its last run and its output. -/
theorem State.trackStep_unseen (h : FabricUnseen (· ∈ cellStepFlds) p)
    (hcell : ∀ (u : State) (c : CellSt), c.ran = (u.cell n).ran → c.u = (u.cell n).u → p (u.putCell n c) = p u)
    (s : State) (x : CellCfg) (rs : List CellRead) : p (s.trackStep n x rs) = p s := by
  have hff : p (s.ffRun n x).1 = p s := State.ffRun_unseen h s x fun _ _ _ => hcell _ _ rfl rfl
  unfold State.trackStep
  dsimp only
  rw [State.satNotes_unseen h, h.set _ _ _ _ (by decide), h.set _ _ _ _ (by decide), h.set _ _ _ _ (by decide)]
  refine (hcell _ _ ?_ ?_).trans hff
  · rfl
  · rfl

/-- A law step leaves a view that takes of the cell's own data nothing but its last run, and that is not of its output. -/
theorem State.lawStep_unseen (h : FabricUnseen (· ∈ R.LOOP_CELL_OUT_VALUE :: cellStepFlds) p)
    (hcell : ∀ (u : State) (c : CellSt), c.ran = (u.cell n).ran → p (u.putCell n c) = p u)
    (s : State) (x : CellCfg) (rs : List CellRead) : p (s.lawStep n x rs) = p s := by
  have hstep : FabricUnseen (· ∈ cellStepFlds) p := h.mono fun _ hf => List.mem_cons_of_mem _ hf
  have hff : p (s.ffRun n x).1 = p s := State.ffRun_unseen hstep s x fun _ _ _ => hcell _ _ rfl
  have hinj : p ((s.ffRun n x).1.injRun n x).1 = p s :=
    (State.injRun_unseen hstep _ x fun _ => hcell _ _ rfl).trans hff
  have hout (u : State) (v : Int) (lat : Nat) : p (u.setOutIn n x v lat) = p u :=
    (u.setOutIn_unseen n x v lat h List.mem_cons_self).trans (hcell _ _ rfl)
  unfold State.lawStep
  dsimp only
  rw [State.satNotes_unseen hstep]
  simp (disch := decide) only [apply_ite p, State.capTriggers_unseen hstep, State.setB_eq, hstep.set, hout, ite_self]
  refine (hcell _ _ ?_).trans hinj
  rfl

end

section
variable (s : State) (n : Nat) (x : CellCfg) (rs : List CellRead)

theorem State.trackStep_u : ((s.trackStep n x rs).cell n).u = (s.cell n).u :=
  State.trackStep_unseen (p := fun u => (u.cell n).u) (fabricUnseen_cells fun t => (tget t n {}).u)
    (fun u c _ hu => (congrArg CellSt.u (u.putCell_cell n c)).trans hu) s x rs

/-- A tracking cell's setpoint is its first input (R257). -/
theorem State.trackStep_r : ((s.trackStep n x rs).cell n).r = ((s.trackStep n x rs).cell n).ys.getD 0 0 := by
  unfold State.trackStep
  dsimp only
  rw [State.satNotes_unseen (p := fun u => u.cell n) (fabricUnseen_cell n), State.set_cell, State.set_cell, State.set_cell,
    State.putCell_cell]

end

/-- The step of a run: in HELD the cell tracks, else its law steps. -/
def State.cellStep (s : State) (n : Nat) (x : CellCfg) (rs : List CellRead) : State :=
  if s.cellState n = 1 then s.trackStep n x rs else s.lawStep n x rs

section
variable (s : State) (n : Nat) (x : CellCfg) (rs : List CellRead)

theorem State.cellStep_get {f : Fld} (b : Nat) (h : apartFrom (R.LOOP_CELL_OUT_VALUE :: cellStepFlds) f = true) :
    (s.cellStep n x rs).get f b = s.get f b := by
  have hu := fabricUnseen_get_of_apartFrom b h
  unfold State.cellStep
  split
  · exact State.trackStep_unseen (hu.mono fun _ hf => List.mem_cons_of_mem _ hf) (fun _ _ _ _ => rfl) s x rs
  · exact State.lawStep_unseen hu (fun _ _ _ => rfl) s x rs

theorem State.cellStep_ran : ((s.cellStep n x rs).cell n).ran = (s.cell n).ran := by
  have hran (u : State) (c : CellSt) (h : c.ran = (u.cell n).ran) : ((u.putCell n c).cell n).ran = (u.cell n).ran :=
    (congrArg CellSt.ran (u.putCell_cell n c)).trans h
  unfold State.cellStep
  split
  · exact State.trackStep_unseen (p := fun u => (u.cell n).ran) (fabricUnseen_cells fun t => (tget t n {}).ran)
      (fun u c h _ => hran u c h) s x rs
  · exact State.lawStep_unseen (p := fun u => (u.cell n).ran) (fabricUnseen_cells fun t => (tget t n {}).ran) hran s x rs

/-- A cell in HELD tracks: its output holds, and its setpoint is its first input (R257). -/
theorem State.cellStep_tracks (h : s.cellState n = 1) : ((s.cellStep n x rs).cell n).u = (s.cell n).u ∧
    ((s.cellStep n x rs).cell n).r = ((s.cellStep n x rs).cell n).ys.getD 0 0 ∧
    (s.cellStep n x rs).get R.LOOP_CELL_OUT_VALUE n = s.get R.LOOP_CELL_OUT_VALUE n := by
  unfold State.cellStep
  rw [if_pos h]
  exact ⟨s.trackStep_u n x rs, s.trackStep_r n x rs, State.trackStep_unseen
    (fabricUnseen_get_of_apartFrom n (by decide)) (fun _ _ _ _ => rfl) s x rs⟩

end

/-! ### The registers of a run (R266) -/

/-- The fields that show a run. -/
def runFlds : List Fld :=
  [R.LOOP_CELL_SP_VALUE, R.LOOP_CELL_PV_VALUE, R.LOOP_CELL_FF_VALUE, R.LOOP_CELL_STAT_MISS, R.LOOP_CELL_STAT_MISS_RUN,
   R.LOOP_CELL_LAT_WAIT_LAST, R.LOOP_CELL_LAT_WAIT_MAX, R.LOOP_CELL_CNT_RUNS]

/-- A run shows in the cell's registers and in the capture units that sample it. -/
def State.runShown (s : State) (n : Nat) : State := (s.runRegs n).capRuns n

section
variable (s : State) (n : Nat)

theorem State.runShown_cell : (s.runShown n).cell n = s.cell n :=
  State.capRuns_unseen (p := fun u => u.cell n) (fabricUnseen_cell n) _ n

theorem State.runShown_get {f : Fld} (b : Nat) (hrun : apartFrom runFlds f = true) (hcap : apartFrom capRunFlds f = true) :
    (s.runShown n).get f b = s.get f b := by
  have hu := unseen_get_of_apartFrom b hrun
  refine (State.capRuns_unseen (fabricUnseen_get_of_apartFrom b hcap) _ n).trans ?_
  unfold State.runRegs
  simp (disch := decide) only [State.inc_eq, State.setSat_eq, hu.set]

/-- What a run shows: no miss, one run more, and the setpoint. -/
theorem State.runShown_shows : (s.runShown n).get R.LOOP_CELL_STAT_MISS n = 0 ∧
    (s.runShown n).get R.LOOP_CELL_STAT_MISS_RUN n = 0 ∧
    (s.runShown n).get R.LOOP_CELL_CNT_RUNS n = (s.get R.LOOP_CELL_CNT_RUNS n + 1) % 2 ^ 32 ∧
    (s.runShown n).get R.LOOP_CELL_SP_VALUE n = bits32 (s.cell n).r := by
  have hcap (f : Fld) (h : apartFrom capRunFlds f = true) : (s.runShown n).get f n = (s.runRegs n).get f n :=
    State.capRuns_unseen (fabricUnseen_get_of_apartFrom n h) _ n
  simp only [hcap _ (by decide : apartFrom capRunFlds R.LOOP_CELL_STAT_MISS = true),
    hcap _ (by decide : apartFrom capRunFlds R.LOOP_CELL_STAT_MISS_RUN = true),
    hcap _ (by decide : apartFrom capRunFlds R.LOOP_CELL_CNT_RUNS = true),
    hcap _ (by decide : apartFrom capRunFlds R.LOOP_CELL_SP_VALUE = true)]
  unfold State.runRegs
  simp (disch := decide) only [State.inc_eq, State.setSat_eq, State.get_set_ne, State.get_set_same]
  exact ⟨rfl, rfl, rfl, bits32_mod _⟩

end

/-! ### A cell's turn (R243) -/

/-- The fields that a capture of the encoders writes. -/
def encFlds : List Fld := [R.LOOP_ENC_CNT_COUNT, R.LOOP_ENC_PM_PM32, R.LOOP_ENC_STAT_UPDATES]

theorem State.encCaptures_keeps {β : Type} (p : State → β) (hset : ∀ u f v b, f ∈ encFlds → p (State.set u f v b) = p u)
    (s : State) (x : CellCfg) (k : List (Nat × Nat)) : p (s.encCaptures x k) = p s := by
  unfold State.encCaptures
  split
  · refine foldl_keeps p _ (fun u i => ?_) s
    split
    · split
      · unfold State.encCapture
        rw [State.inc_eq, hset _ _ _ _ (by decide), hset _ _ _ _ (by decide), hset _ _ _ _ (by decide)]
      · rfl
    · rfl
  · rfl

/-- What a cell reads in its turn. -/
def State.turnReads (s : State) (n : Nat) (x : CellCfg) (k : List (Nat × Nat)) : List CellRead :=
  x.ins.zipIdx.map fun p => (s.encCaptures x k).cellIn x (s.cell n).prev k p.2 p.1

/-- A cell's turn begins: the encoders of its trigger are captured, and the tick and its postmark are noted. -/
def State.turnBegun (s : State) (n : Nat) (x : CellCfg) (k : List (Nat × Nat)) : State :=
  (s.encCaptures x k).putCell n { s.cell n with ran := some s.tick, pm := s.pm }

/-- The counts of the encoders that a run has used are kept for the next. -/
def State.countsKept (s : State) (n : Nat) (prev : Tab Nat) : State := s.putCell n { s.cell n with prev := prev }

section
variable (s : State) (n : Nat) (x : CellCfg) (k : List (Nat × Nat))

theorem State.turnBegun_get {f : Fld} (b : Nat) (h : apartFrom encFlds f = true) :
    (s.turnBegun n x k).get f b = s.get f b :=
  State.encCaptures_keeps (·.get f b) (fun _ _ _ _ hf => State.get_set_ne _ _ _ _ (apartFrom_ne h hf)) s x k

theorem State.turnBegun_cell : (s.turnBegun n x k).cell n = { s.cell n with ran := some s.tick, pm := s.pm } :=
  State.putCell_cell _ _ _

theorem State.countsKept_cell (prev : Tab Nat) : (s.countsKept n prev).cell n = { s.cell n with prev := prev } :=
  State.putCell_cell _ _ _

theorem State.encCaptures_cell : (s.encCaptures x k).cell n = s.cell n :=
  State.encCaptures_keeps (·.cell n) (fun _ _ _ _ _ => rfl) s x k

theorem State.encCaptures_cellState : (s.encCaptures x k).cellState n = s.cellState n :=
  State.encCaptures_keeps (·.cellState n) (fun _ _ _ _ hf =>
    State.get_set_ne _ _ _ _ (apartFrom_ne (fs := encFlds) (by decide) hf)) s x k

theorem State.encCaptures_tick : (s.encCaptures x k).tick = s.tick :=
  State.encCaptures_keeps (·.tick) (fun _ _ _ _ _ => rfl) s x k

theorem State.encCaptures_pm : (s.encCaptures x k).pm = s.pm :=
  State.encCaptures_keeps (·.pm) (fun _ _ _ _ _ => rfl) s x k

variable (h5 : s.cellState n ≠ 5)
include h5

/-- A turn whose result did not come in the tick is a miss. -/
theorem State.cellTurn_misses {trig : Nat} (ht : trig ≠ 1) : s.cellTurn n x k trig = (s.turnBegun n x k).cellMiss n := by
  unfold State.cellTurn
  extract_lets s₁ c rs ok st s₂
  have hst : st = s.cellState n := s.encCaptures_cellState n x k
  have hbegun : s₂ = s.turnBegun n x k := by
    simp only [s₂, c, s₁, State.encCaptures_cell, State.encCaptures_tick, State.encCaptures_pm, State.turnBegun]
  rw [if_neg (hst ▸ h5), if_pos (by simp [ok, ht]), hbegun]

/-- A turn with all its inputs is a run. -/
theorem State.cellTurn_runs (hok : (s.turnReads n x k).all (·.ok) = true) : ∃ prev, s.cellTurn n x k 1 =
    (((s.turnBegun n x k).countsKept n prev).cellStep n x (s.turnReads n x k)).runShown n := by
  unfold State.cellTurn
  extract_lets s₁ c rs ok st s₂ _ prev s₃ s₄
  have hst : st = s.cellState n := s.encCaptures_cellState n x k
  have hc : c = s.cell n := s.encCaptures_cell n x k
  have hrs : rs = s.turnReads n x k := by
    simp only [rs, hc]
    rfl
  have hbegun : s₂ = s.turnBegun n x k := by
    simp only [s₂, hc, s₁, State.encCaptures_tick, State.encCaptures_pm, State.turnBegun]
  have hkept : s₃ = (s.turnBegun n x k).countsKept n prev := congrArg (·.countsKept n prev) hbegun
  have hheld : ((s.turnBegun n x k).countsKept n prev).cellState n = s.cellState n := s.turnBegun_get n x k n (by decide)
  refine ⟨prev, ?_⟩
  rw [if_neg (hst ▸ h5), if_neg (by simp [ok, hrs, hok])]
  unfold State.cellStep
  simp only [s₄, hkept, hrs, hst, hheld]
  rfl

end

/-! ### A miss (R243) -/

/-- The fields that a miss writes beside its own. -/
def missSideFlds : List Fld := R.LOOP_CAP_STAT_STATE :: injStopFlds

/-- A miss shows: the flag, the run of misses and the event. -/
def State.missShown (s : State) (n : Nat) : State :=
  ((s.set R.LOOP_CELL_STAT_MISS 1 n).incSat R.LOOP_CELL_STAT_MISS_RUN n).evt R.LOOP_EVT_MISS

section
variable (s : State) (n : Nat)

theorem State.cellMiss_get_missShown {f : Fld} (b : Nat) (h : apartFrom missSideFlds f = true) :
    (s.cellMiss n).get f b = (s.missShown n).get f b := by
  have hside := fabricUnseen_get_of_apartFrom b h
  exact (State.capTriggers_unseen hside (by decide) _ n 3).trans
    (State.injStop_unseen _ n 4 (hside.toUnseen.mono fun _ hf => List.mem_cons_of_mem _ hf) rfl)

theorem State.cellMiss_get {f : Fld} (b : Nat) (h : apartFrom missSideFlds f = true)
    (hown : apartFrom [R.LOOP_CELL_STAT_MISS, R.LOOP_CELL_STAT_MISS_RUN, R.LOOP_EVT_MISS] f = true) :
    (s.cellMiss n).get f b = s.get f b := by
  have hu := unseen_get_of_apartFrom b hown
  rw [s.cellMiss_get_missShown n b h]
  exact (hu.evt _ _ 0 (by decide)).trans ((hu.set _ _ _ n (by decide)).trans (hu.set _ _ _ n (by decide)))

theorem State.cellMiss_shows : (s.cellMiss n).get R.LOOP_CELL_STAT_MISS n = 1 ∧
    (s.cellMiss n).get R.LOOP_CELL_STAT_MISS_RUN n = min 255 (s.get R.LOOP_CELL_STAT_MISS_RUN n + 1) ∧
    (s.cellMiss n).get R.LOOP_EVT_MISS = 1 := by
  rw [s.cellMiss_get_missShown n n (by decide), s.cellMiss_get_missShown n n (by decide),
    s.cellMiss_get_missShown n 0 (by decide)]
  unfold State.missShown
  simp (disch := decide) only [State.incSat_eq, State.evt_get_ne, State.evt_get_same, State.get_set_ne, State.get_set_same]
  exact ⟨rfl, Nat.mod_eq_of_lt ((Nat.min_le_left _ _).trans_lt (by decide)), rfl⟩

/-- The cell has no injection any more, and is otherwise as it was: its output and its law's state hold. -/
theorem State.cellMiss_cell : (s.cellMiss n).cell n = { s.cell n with test := none } := by
  refine (State.capTriggers_unseen (P := fun _ => True) (fabricUnseen_cell n) trivial _ n 3).trans ?_
  rw [State.injStop_cell, State.evt_cell, State.incSat_eq, State.set_cell, State.set_cell]

end

/-! ### FAULT (R257) -/

/-- A cell enters FAULT: its inputs are watched from now on. -/
def State.faultWatched (s : State) (n : Nat) : State := s.putCell n { s.cell n with watchOk := false, clampAt := none }

@[simp] theorem State.faultWatched_cell (s : State) (n : Nat) :
    (s.faultWatched n).cell n = { s.cell n with watchOk := false, clampAt := none } := s.putCell_cell n _

@[simp] theorem State.faultWatched_get (s : State) (n : Nat) (f : Fld) (b : Nat) :
    (s.faultWatched n).get f b = s.get f b := rfl

/-! ### LOOP_CELL_RUN (R241, R243, R257, R258) -/

theorem mem_turnStates {st : Nat} (h : st ∈ [1, 2, 3]) : st ≠ 4 ∧ st ≠ 5 := by
  simp only [List.mem_cons, List.not_mem_nil, or_false] at h
  omega

section
variable (dt n : Nat) (k : List (Nat × Nat)) (x : CellCfg) (s : State)

theorem exec_loopCellRun_idle (h : s.cellCfg n = none ∨ s.mode < 2 ∨ (s.cell n).ran = some s.tick) :
    exec (.loopCellRun dt n k) s = .next (s.advance dt) := by
  show execLoopCellRun dt n k s = _
  unfold execLoopCellRun
  dsimp only
  split
  next => rfl
  next x hcfg =>
    refine if_pos ?_
    rcases h with hnone | hmode | hran
    · exact absurd (hcfg.symm.trans hnone) (Option.some_ne_none x)
    · simp [show s.mode ≤ 1 from Nat.le_of_lt_succ hmode]
    · simp [show ((s.advance dt).cell n).ran = some (s.advance dt).tick from hran]

section
variable (hcfg : s.cellCfg n = some x) (hmode : 2 ≤ s.mode) (htick : s.tick % x.div = x.phase)
  (hran : (s.cell n).ran ≠ some s.tick) (htrig : (s.advance dt).cellTrigger x ≠ 0)
include hcfg hmode htick hran htrig

/-- A cell that is due takes its turn, or under a safe law what the law says. -/
theorem exec_loopCellRun_due : exec (.loopCellRun dt n k) s =
    if s.cellState n = 4 then
      match (s.cell n).safe with
      | 2 => .next (((s.advance dt).putCell n { s.cell n with ran := some s.tick, pm := (s.advance dt).pm }).safeRamp n x)
      | 3 => .next ((s.advance dt).cellTurn n x k ((s.advance dt).cellTrigger x))
      | _ => .next (s.advance dt)
    else .next ((s.advance dt).cellTurn n x k ((s.advance dt).cellTrigger x)) := by
  show execLoopCellRun dt n k s = _
  unfold execLoopCellRun
  dsimp only
  rw [show (s.advance dt).cellCfg n = some x from hcfg]
  refine if_neg ?_
  simp [show 1 < s.mode from hmode, show ((s.advance dt).cell n).ran = (s.cell n).ran from rfl, htick, hran,
    htrig]

theorem loopCellRun_ramps (h4 : s.cellState n = 4) (hsafe : (s.cell n).safe = 2) :
    ∃ t, exec (.loopCellRun dt n k) s = .next t ∧
      (t.cell n).u = slewTo (s.cell n).u (q30 x.safeOut).1 (q30 (x.safeSlew * cellTs x)).1 (q30 (x.safeSlew * cellTs x)).1 ∧
      t.get R.LOOP_CELL_OUT_VALUE n = bits32 (t.cell n).u ∧ t.cellState n = 4 := by
  have hexec := exec_loopCellRun_due dt n k x s hcfg hmode htick hran htrig
  rw [if_pos h4, hsafe] at hexec
  refine ⟨_, hexec, ?_⟩
  unfold State.safeRamp State.setOut State.cellState
  dsimp only
  rw [State.setOutIn_cell, State.setOutIn_out, State.putCell_cell, State.setOutIn_get _ _ _ _ _ _ (by decide)]
  exact ⟨rfl, rfl, h4⟩

variable (hst : s.cellState n ∈ [1, 2, 3])
include hst

theorem exec_loopCellRun_turns :
    exec (.loopCellRun dt n k) s = .next ((s.advance dt).cellTurn n x k ((s.advance dt).cellTrigger x)) :=
  (exec_loopCellRun_due dt n k x s hcfg hmode htick hran htrig).trans (if_neg (mem_turnStates hst).1)

end

section
variable (hst : s.cellState n ∈ [1, 2, 3])
include hst

theorem loopCellRun_misses (hcfg : s.cellCfg n = some x) (hmode : 2 ≤ s.mode) (htick : s.tick % x.div = x.phase)
    (hran : (s.cell n).ran ≠ some s.tick) (htrig : (s.advance dt).cellTrigger x = 2) :
    ∃ t, exec (.loopCellRun dt n k) s = .next t ∧ (t.cell n).ran = some s.tick ∧ (t.cell n).u = (s.cell n).u ∧
      (t.cell n).i = (s.cell n).i ∧ (t.cell n).test = none ∧ t.get R.LOOP_CELL_STAT_MISS n = 1 ∧
      t.get R.LOOP_CELL_STAT_MISS_RUN n = min 255 (s.get R.LOOP_CELL_STAT_MISS_RUN n + 1) ∧ t.get R.LOOP_EVT_MISS = 1 ∧
      t.get R.LOOP_CELL_CNT_RUNS n = s.get R.LOOP_CELL_CNT_RUNS n ∧
      t.get R.LOOP_CELL_OUT_VALUE n = s.get R.LOOP_CELL_OUT_VALUE n ∧ t.cellState n = s.cellState n := by
  have hturn := exec_loopCellRun_turns dt n k x s hcfg hmode htick hran (by simp [htrig]) hst
  rw [htrig, (s.advance dt).cellTurn_misses n x k (mem_turnStates hst).2 (by decide)] at hturn
  obtain ⟨hmiss, hrun, hevt⟩ := ((s.advance dt).turnBegun n x k).cellMiss_shows n
  have hget (f : Fld) (h : apartFrom missSideFlds f = true)
      (hown : apartFrom [R.LOOP_CELL_STAT_MISS, R.LOOP_CELL_STAT_MISS_RUN, R.LOOP_EVT_MISS] f = true)
      (henc : apartFrom encFlds f = true) : (((s.advance dt).turnBegun n x k).cellMiss n).get f n = s.get f n :=
    (State.cellMiss_get _ n n h hown).trans ((s.advance dt).turnBegun_get n x k n henc)
  refine ⟨_, hturn, ?_, ?_, ?_, ?_, hmiss, ?_, hevt, hget _ (by decide) (by decide) (by decide),
    hget _ (by decide) (by decide) (by decide), hget _ (by decide) (by decide) (by decide)⟩
  · rw [State.cellMiss_cell, State.turnBegun_cell]
    rfl
  · rw [State.cellMiss_cell, State.turnBegun_cell]
    rfl
  · rw [State.cellMiss_cell, State.turnBegun_cell]
    rfl
  · rw [State.cellMiss_cell]
  · rw [hrun, State.turnBegun_get _ _ _ _ _ (by decide)]
    rfl

theorem loopCellRun_runs (hcfg : s.cellCfg n = some x) (hmode : 2 ≤ s.mode) (htick : s.tick % x.div = x.phase)
    (hran : (s.cell n).ran ≠ some s.tick) (htrig : (s.advance dt).cellTrigger x = 1)
    (hok : ((s.advance dt).turnReads n x k).all (·.ok) = true) :
    ∃ t, exec (.loopCellRun dt n k) s = .next t ∧ (t.cell n).ran = some s.tick ∧ t.get R.LOOP_CELL_STAT_MISS n = 0 ∧
      t.get R.LOOP_CELL_STAT_MISS_RUN n = 0 ∧
      t.get R.LOOP_CELL_CNT_RUNS n = (s.get R.LOOP_CELL_CNT_RUNS n + 1) % 2 ^ 32 ∧
      t.get R.LOOP_CELL_SP_VALUE n = bits32 (t.cell n).r ∧ t.cellState n = s.cellState n ∧ t.mode = s.mode ∧
      (s.cellState n = 1 → (t.cell n).u = (s.cell n).u ∧ (t.cell n).r = (t.cell n).ys.getD 0 0 ∧
        t.get R.LOOP_CELL_OUT_VALUE n = s.get R.LOOP_CELL_OUT_VALUE n) := by
  obtain ⟨prev, hturn⟩ := (s.advance dt).cellTurn_runs n x k (mem_turnStates hst).2 hok
  have hexec := exec_loopCellRun_turns dt n k x s hcfg hmode htick hran (by simp [htrig]) hst
  rw [htrig, hturn] at hexec
  have hcell := ((s.advance dt).turnBegun n x k).countsKept_cell n prev
  have hbegun (f : Fld) (b : Nat) (h : apartFrom encFlds f = true) :
      (((s.advance dt).turnBegun n x k).countsKept n prev).get f b = s.get f b := (s.advance dt).turnBegun_get n x k b h
  rw [State.turnBegun_cell] at hcell
  generalize ((s.advance dt).turnBegun n x k).countsKept n prev = w at hexec hbegun hcell
  obtain ⟨hmiss, hrun, hruns, hsp⟩ := (w.cellStep n x ((s.advance dt).turnReads n x k)).runShown_shows n
  have hget (f : Fld) (b : Nat) (hrun : apartFrom runFlds f = true) (hcap : apartFrom capRunFlds f = true)
      (hstep : apartFrom (R.LOOP_CELL_OUT_VALUE :: cellStepFlds) f = true) (henc : apartFrom encFlds f = true) :
      ((w.cellStep n x ((s.advance dt).turnReads n x k)).runShown n).get f b = s.get f b :=
    (State.runShown_get _ n b hrun hcap).trans ((w.cellStep_get n x _ b hstep).trans (hbegun f b henc))
  refine ⟨_, hexec, ?_, hmiss, hrun, ?_, ?_, hget _ n (by decide) (by decide) (by decide) (by decide),
    hget _ 0 (by decide) (by decide) (by decide) (by decide), fun h1 => ?_⟩
  · rw [State.runShown_cell, State.cellStep_ran, hcell]
    rfl
  · rw [hruns, w.cellStep_get n x _ n (by decide), hbegun _ n (by decide)]
  · rw [hsp, State.runShown_cell]
  · obtain ⟨hu, hr, hout⟩ := w.cellStep_tracks n x ((s.advance dt).turnReads n x k) ((hbegun _ n (by decide)).trans h1)
    rw [State.runShown_cell, State.runShown_get _ n n (by decide) (by decide), hu, hout, hbegun _ n (by decide), hcell]
    exact ⟨rfl, hr, rfl⟩

end

end

/-! ### CELL_MISS_LIMIT (R243, R258) -/

section
variable (dt n : Nat) (x : CellCfg) (s : State) (hcfg : s.cellCfg n = some x)
include hcfg

theorem exec_cellMissLimit_below (h : s.get R.LOOP_CELL_STAT_MISS_RUN n < x.missLimit) :
    exec (.cellMissLimit dt n) s = .next (s.advance dt) := by
  show execCellMissLimit dt n s = _
  unfold execCellMissLimit
  dsimp only
  rw [show (s.advance dt).cellCfg n = some x from hcfg]
  exact if_pos (by simp [h])

section
variable (hlimit : x.missLimit ≤ s.get R.LOOP_CELL_STAT_MISS_RUN n)
include hlimit

/-- At the limit a cell that runs its law or tracks enters FAULT, and one under HOLD brakes. -/
theorem exec_cellMissLimit_reached (h0 : s.cellState n ≠ 0) (h5 : s.cellState n ≠ 5) : ∃ e : Ev,
    exec (.cellMissLimit dt n) s =
    if s.cellState n = 4 then
      if (s.cell n).safe = 3 then
        .next ((((s.advance dt).putCell n { s.cell n with safe := 1 }).setOut n x (q30 x.safeOut).1).safeLawNote n 1)
      else .next (s.advance dt)
    else .next ((((((s.advance dt).injStop n 4).set R.LOOP_CELL_STAT_STATE 5 n).faultWatched n).evt
      R.LOOP_EVT_CELL_FAULT).record e) := by
  show ∃ e : Ev, execCellMissLimit dt n s = _
  unfold execCellMissLimit
  dsimp only
  rw [show (s.advance dt).cellCfg n = some x from hcfg]
  refine ⟨_, if_neg ?_⟩
  simp [show (s.advance dt).cellState n = s.cellState n from rfl, Nat.not_lt.2 hlimit, h0, h5]

theorem cellMissLimit_faults (hst : s.cellState n ∈ [1, 2, 3]) :
    ∃ t, exec (.cellMissLimit dt n) s = .next t ∧ t.cellState n = 5 ∧ t.get R.LOOP_EVT_CELL_FAULT = 1 ∧
      (t.cell n).u = (s.cell n).u ∧ (t.cell n).test = none ∧ t.mode = s.mode := by
  obtain ⟨h4, h5⟩ := mem_turnStates hst
  obtain ⟨e, hexec⟩ := exec_cellMissLimit_reached dt n x s hcfg hlimit (fun h0 => by simp [h0] at hst) h5
  refine ⟨_, hexec.trans (if_neg h4), ?_, ?_, ?_, ?_, ?_⟩
  · unfold State.cellState
    rw [State.record_get _ _ _ (by decide), State.evt_get_ne _ _ _ (by decide) (by decide), State.faultWatched_get,
      State.get_set_same]
    rfl
  · exact (State.record_get _ _ _ (by decide)).trans (State.evt_get_same _ _ _ (by decide))
  · rw [State.record_cell, State.evt_cell, State.faultWatched_cell, State.set_cell, State.injStop_cell]
    rfl
  · rw [State.record_cell, State.evt_cell, State.faultWatched_cell, State.set_cell, State.injStop_cell]
  · unfold State.mode
    rw [State.record_get _ _ _ (by decide), State.evt_get_ne _ _ _ (by decide) (by decide), State.faultWatched_get,
      State.get_set_ne _ _ _ _ (by decide), State.injStop_get _ _ _ _ (by decide)]
    rfl

theorem cellMissLimit_brakes (h4 : s.cellState n = 4) (hsafe : (s.cell n).safe = 3) :
    ∃ t, exec (.cellMissLimit dt n) s = .next t ∧ (t.cell n).safe = 1 ∧ (t.cell n).u = (q30 x.safeOut).1 ∧
      t.cellState n = 4 ∧ t.get R.LOOP_EVT_SAFE_LAW = 1 := by
  obtain ⟨e, hexec⟩ := exec_cellMissLimit_reached dt n x s hcfg hlimit (by simp [h4]) (by simp [h4])
  have hcell (u : State) : (u.safeLawNote n 1).cell n = u.cell n := (State.record_cell _ _ _).trans (State.evt_cell _ _ _ _)
  refine ⟨_, hexec.trans ((if_pos h4).trans (if_pos hsafe)), ?_, ?_, ?_, ?_⟩
  · rw [hcell, State.setOut, State.setOutIn_cell, State.cellOutTaken, State.putCell_cell]
  · rw [hcell, State.setOut, State.setOutIn_cell]
    rfl
  · refine Eq.trans ?_ h4
    exact (State.record_get _ _ _ (by decide)).trans ((State.evt_get_ne _ _ _ (by decide) (by decide)).trans
      (State.setOutIn_get _ _ _ _ _ _ (by decide)))
  · exact (State.record_get _ _ _ (by decide)).trans (State.evt_get_same _ _ _ (by decide))

end

end

/-- Settles O35: each clause is the lemma of its command above; that a command whose condition is not met only lets time pass is the
model's choice (log 1). -/
theorem loopCells : Obligations.LoopCells := by
  unfold Obligations.LoopCells
  exact ⟨fun dt n k x s hcfg hmode htick hran htrig hst hok => loopCellRun_runs dt n k x s hst hcfg hmode htick hran htrig hok,
    fun dt n k x s hcfg hmode htick hran htrig hst => loopCellRun_misses dt n k x s hst hcfg hmode htick hran htrig,
    loopCellRun_ramps, exec_loopCellRun_idle, cellMissLimit_faults, cellMissLimit_brakes, exec_cellMissLimit_below⟩

end Sys2Proof.Machine
end

section
/-!
PROOF of the statement of 10_loop_cells.md about test injections and captures (InjectionsAndCaptures): a write in its role, then the
commands of an injection and of a capture unit.
-/

namespace Sys2Proof.Machine

open Sys2Proof

/-! ### A write in its role (R9, R83) -/

section
variable (s : State)

theorem State.withRole_taken {p : Port} {r : Role} {roles : List Role} (h : s.session p = some r) (hr : r ∈ roles) (off : Nat)
    (act : State → State) : s.withRole p roles off act = act s.rwlTaken := State.withRole_granted s p roles off act r h hr

theorem State.rwlTaken_loop : s.rwlTaken.loop = s.loop := State.lullLeave_loop s 1

theorem State.rwlTaken_now : s.rwlTaken.now = s.now := State.lullLeave_now s 1

theorem State.rwlTaken_man : s.rwlTaken.man = s.man := State.lullLeave_man s 1

theorem State.rwlTaken_mode : s.rwlTaken.mode = s.mode := s.rwlTaken_get 0 (by decide)

theorem State.rwlTaken_isActive : s.rwlTaken.isActive = s.isActive := by
  unfold State.isActive State.flag
  rw [s.rwlTaken_get 0 (by decide)]

theorem State.rwlTaken_fnState (f : Nat) : s.rwlTaken.fnState f = s.fnState f := s.rwlTaken_get f (by decide)

theorem State.rwlTaken_cellCfg (n : Nat) : s.rwlTaken.cellCfg n = s.cellCfg n :=
  congrArg (fun m : Manifest => tfind m.loop.cells n) s.rwlTaken_man

theorem State.rwlTaken_cell (n : Nat) : s.rwlTaken.cell n = s.cell n :=
  congrArg (fun l : LoopSt => tget l.cells n {}) s.rwlTaken_loop

theorem State.rwlTaken_cap (k : Nat) : s.rwlTaken.cap k = s.cap k :=
  congrArg (fun l : LoopSt => tget l.caps k {}) s.rwlTaken_loop

/-- A write without its role leaves the loop fabric and the roles as they are. -/
theorem State.withRole_denied_keeps {p : Port} {roles : List Role} (off : Nat) (act : State → State)
    (h : ∀ r, s.session p = some r → r ∉ roles) :
    (s.withRole p roles off act).loop = s.loop ∧ (s.withRole p roles off act).role = s.role := by
  rw [s.withRole_denied p roles off act h, State.rwlIgnored_loop, State.rwlIgnored_role, State.lullLeave_loop,
    State.lullLeave_role]
  exact ⟨rfl, rfl⟩

end

/-! ### INJECTION_START (R254) -/

/-- An injection as it is asked for. -/
structure InjAsked (s : State) (n : Nat) (i : InjSt) : Prop where
  at_ : i.at_ = s.now
  amp : i.amp = (s.get R.LOOP_INJ_AMP_AMP n : Int)
  shape : i.shape = s.get R.LOOP_INJ_CFG_SHAPE n
  dur : i.dur = s.get R.LOOP_INJ_DUR_MS n
  keyId : i.keyId = s.role.keyId
  due : i.due = false

/-- The cell's next frame boundary starts an injection: until then it waits. -/
def State.injWaits (s : State) (n : Nat) (i : InjSt) : State :=
  (s.putCell n { s.cell n with test := some i }).set R.LOOP_INJ_CMD_RESULT 1 n

/-- An injection is refused, and the refusal recorded. -/
def State.injRefused (s : State) (n res : Nat) (e : Ev) : State := (s.set R.LOOP_INJ_CMD_RESULT res n).record e

theorem State.injRefused_shows (s : State) (n : Nat) {res : Nat} (e : Ev) (h : res < 16) :
    (s.injRefused n res e).get R.LOOP_INJ_CMD_RESULT n = res ∧ (s.injRefused n res e).loop = s.loop :=
  ⟨(State.record_get _ _ _ (by decide)).trans ((State.get_set_same _ _ _ _).trans (Nat.mod_eq_of_lt h)),
    State.record_loop _ _⟩

/-- An injection for the selected cell is judged by the mode and the active role, the cell's function and the amplitude. -/
theorem exec_injectionStart_judges (dt : Nat) (p : Port) : ∃ act : State → State,
    (∀ s, exec (.injectionStart dt p) s = .next ((s.advance dt).withRole p [.installer] 0xA040 act)) ∧
    (∀ u : State, u.mode ≠ 2 ∨ u.isActive = false → ∃ e, act u = u.injRefused (u.get R.LOOP_SEL_CELL) 5 e) ∧
    (∀ (u : State) (x : CellCfg), u.cellCfg (u.get R.LOOP_SEL_CELL) = some x → u.mode = 2 → u.isActive = true →
      u.fnState x.fn = 2 →
      (x.injMax * 1073741824 < ((u.get R.LOOP_INJ_AMP_AMP (u.get R.LOOP_SEL_CELL) : Nat) : Rat) →
        ∃ e, act u = u.injRefused (u.get R.LOOP_SEL_CELL) 6 e) ∧
      (((u.get R.LOOP_INJ_AMP_AMP (u.get R.LOOP_SEL_CELL) : Nat) : Rat) ≤ x.injMax * 1073741824 →
        ∃ i, InjAsked u (u.get R.LOOP_SEL_CELL) i ∧ act u = u.injWaits (u.get R.LOOP_SEL_CELL) i)) := by
  refine ⟨_, fun _ => rfl, fun u h => ?_, fun u x hcfg hm ha hf => ⟨fun hamp => ?_, fun hamp => ?_⟩⟩
  · dsimp only
    split
    · exact ⟨_, rfl⟩
    · refine ⟨_, if_pos ?_⟩
      rcases h with hm | ha
      · simp [hm]
      · simp [ha]
  · dsimp only
    rw [hcfg]
    exact ⟨_, (if_neg (by simp [hm, ha, hf])).trans (if_pos hamp)⟩
  · dsimp only
    rw [hcfg]
    exact ⟨_, ⟨rfl, rfl, rfl, rfl, rfl, rfl⟩, (if_neg (by simp [hm, ha, hf])).trans (if_neg (not_lt.2 hamp))⟩

section
variable (dt : Nat) (p : Port) (x : CellCfg) (s : State)

/-- Awake after its interval, with the session's idle time afresh, the device shows what it showed. -/
theorem State.taken_get {f : Fld} (h : lullKeeps f = true) (b : Nat) : (s.advance dt).rwlTaken.get f b = s.get f b :=
  (s.advance dt).rwlTaken_get b h

theorem injectionStart_otherMode (hs : s.session p = some .installer) (h : s.mode ≠ 2 ∨ s.isActive = false) :
    ∃ t, exec (.injectionStart dt p) s = .next t ∧ t.get R.LOOP_INJ_CMD_RESULT (s.get R.LOOP_SEL_CELL) = 5 ∧
      t.loop = s.loop := by
  obtain ⟨act, hexec, hrefuse, -⟩ := exec_injectionStart_judges dt p
  obtain ⟨e, hact⟩ := hrefuse (s.advance dt).rwlTaken (by
    rw [State.rwlTaken_mode, State.rwlTaken_isActive]
    exact h)
  rw [s.taken_get dt (by decide)] at hact
  obtain ⟨hresult, hloop⟩ := (s.advance dt).rwlTaken.injRefused_shows (s.get R.LOOP_SEL_CELL) e (show 5 < 16 by decide)
  refine ⟨_, (hexec s).trans (congrArg _ (((s.advance dt).withRole_taken hs (by decide) _ act).trans hact)), hresult, ?_⟩
  exact hloop.trans (State.rwlTaken_loop _)

section
variable (hs : s.session p = some .installer) (hcfg : s.cellCfg (s.get R.LOOP_SEL_CELL) = some x) (hm : s.mode = 2)
  (ha : s.isActive = true) (hf : s.fnState x.fn = 2)
include hs hcfg hm ha hf

theorem injectionStart_tooLarge
    (hamp : x.injMax * 1073741824 < ((s.get R.LOOP_INJ_AMP_AMP (s.get R.LOOP_SEL_CELL) : Nat) : Rat)) :
    ∃ t, exec (.injectionStart dt p) s = .next t ∧ t.get R.LOOP_INJ_CMD_RESULT (s.get R.LOOP_SEL_CELL) = 6 ∧
      t.loop = s.loop := by
  obtain ⟨act, hexec, -, hjudge⟩ := exec_injectionStart_judges dt p
  have hjudged := hjudge (s.advance dt).rwlTaken x
  rw [s.taken_get dt (by decide), s.taken_get dt (by decide), State.rwlTaken_cellCfg, State.rwlTaken_mode,
    State.rwlTaken_isActive, State.rwlTaken_fnState] at hjudged
  obtain ⟨e, hact⟩ := (hjudged hcfg hm ha hf).1 hamp
  obtain ⟨hresult, hloop⟩ := (s.advance dt).rwlTaken.injRefused_shows (s.get R.LOOP_SEL_CELL) e (show 6 < 16 by decide)
  refine ⟨_, (hexec s).trans (congrArg _ (((s.advance dt).withRole_taken hs (by decide) _ act).trans hact)), hresult, ?_⟩
  exact hloop.trans (State.rwlTaken_loop _)

theorem injectionStart_waits
    (hamp : ((s.get R.LOOP_INJ_AMP_AMP (s.get R.LOOP_SEL_CELL) : Nat) : Rat) ≤ x.injMax * 1073741824) :
    ∃ t, exec (.injectionStart dt p) s = .next t ∧ t.get R.LOOP_INJ_CMD_RESULT (s.get R.LOOP_SEL_CELL) = 1 ∧
      t.role.rwlAt = s.now + dt ∧
      ((t.cell (s.get R.LOOP_SEL_CELL)).test.map fun i => (i.at_, i.amp, i.shape, i.dur, i.keyId, i.due)) =
        some (s.now + dt, (s.get R.LOOP_INJ_AMP_AMP (s.get R.LOOP_SEL_CELL) : Int),
          s.get R.LOOP_INJ_CFG_SHAPE (s.get R.LOOP_SEL_CELL), s.get R.LOOP_INJ_DUR_MS (s.get R.LOOP_SEL_CELL), s.role.keyId,
          false) := by
  obtain ⟨act, hexec, -, hjudge⟩ := exec_injectionStart_judges dt p
  have hjudged := hjudge (s.advance dt).rwlTaken x
  rw [s.taken_get dt (by decide), s.taken_get dt (by decide), State.rwlTaken_cellCfg, State.rwlTaken_mode,
    State.rwlTaken_isActive, State.rwlTaken_fnState] at hjudged
  obtain ⟨i, hi, hact⟩ := (hjudged hcfg hm ha hf).2 hamp
  refine ⟨_, (hexec s).trans (congrArg _ (((s.advance dt).withRole_taken hs (by decide) _ act).trans hact)),
    State.get_set_same _ _ _ _, rfl, ?_⟩
  have htest : (((s.advance dt).rwlTaken.injWaits (s.get R.LOOP_SEL_CELL) i).cell (s.get R.LOOP_SEL_CELL)).test = some i := by
    rw [State.injWaits, State.set_cell, State.putCell_cell]
  rw [htest, Option.map_some, hi.at_, hi.amp, hi.shape, hi.dur, hi.keyId, hi.due, s.taken_get dt (by decide),
    s.taken_get dt (by decide), s.taken_get dt (by decide), State.rwlTaken_now]
  rfl

end

/-! ### INJECTION_STOP and INJECTION_END (R255) -/

theorem exec_injectionStop_granted (hs : s.session p = some .installer) :
    exec (.injectionStop dt p) s = .next ((s.advance dt).rwlTaken.injStop (s.get R.LOOP_SEL_CELL) 4) :=
  congrArg Host.Outcome.next (((s.advance dt).withRole_taken hs (by decide) 0xA040 _).trans
    (congrArg (State.injStop _ · 4) (s.taken_get dt (by decide) 0)))

/-- What the end of an injection shows, and its frame. -/
theorem State.injStop_shows (n : Nat) {res : Nat} {i : InjSt} (h : (s.cell n).test = some i) (hres : res < 16) :
    (s.injStop n res).get R.LOOP_INJ_CMD_RESULT n = res ∧ (s.injStop n res).get R.LOOP_CELL_STAT_INJ n = 0 ∧
    (s.injStop n res).get R.LOOP_EVT_INJ_END = 1 ∧
    Framed [loc R.LOOP_INJ_CMD_RESULT n, loc R.LOOP_CELL_STAT_INJ n, loc R.LOOP_EVT_INJ_END 0]
      { s with loop := (s.injStop n res).loop } (s.injStop n res) := by
  obtain ⟨e, hstop⟩ := s.injStop_some n res h
  have hloop : (s.injStop n res).loop = (s.putCell n { s.cell n with test := none }).loop := by
    rw [hstop, State.record_loop, State.evt_loop, State.set_loop, State.set_loop]
  rw [hloop, hstop]
  simp (disch := decide) only [State.record_get, State.evt_get_ne, State.evt_get_same, State.get_set_ne, State.get_set_same]
  refine ⟨Nat.mod_eq_of_lt hres, rfl, rfl, State.record_framed _ _ (State.evt_framed _ _ _ (.inl (by simp)) ?_)⟩
  exact set_framed _ _ _ _ (.inl (by simp)) (set_framed _ _ _ _ (.inl (by simp)) (.refl _ _))

theorem injectionStop_stops (i : InjSt) (hs : s.session p = some .installer)
    (htest : (s.cell (s.get R.LOOP_SEL_CELL)).test = some i) :
    ∃ t, exec (.injectionStop dt p) s = .next t ∧ (t.cell (s.get R.LOOP_SEL_CELL)).test = none ∧
      t.get R.LOOP_INJ_CMD_RESULT (s.get R.LOOP_SEL_CELL) = 4 ∧ t.get R.LOOP_CELL_STAT_INJ (s.get R.LOOP_SEL_CELL) = 0 ∧
      t.get R.LOOP_EVT_INJ_END = 1 := by
  obtain ⟨hresult, hinj, hend, -⟩ := (s.advance dt).rwlTaken.injStop_shows (s.get R.LOOP_SEL_CELL) (i := i) (res := 4)
    ((congrArg CellSt.test ((s.advance dt).rwlTaken_cell _)).trans htest) (by decide)
  exact ⟨_, exec_injectionStop_granted dt p s hs, congrArg CellSt.test (State.injStop_cell _ _ _), hresult, hinj, hend⟩

theorem injectionStop_none (hs : s.session p = some .installer) (htest : (s.cell (s.get R.LOOP_SEL_CELL)).test = none) :
    ∃ t, exec (.injectionStop dt p) s = .next t ∧ t.loop = s.loop := by
  refine ⟨_, exec_injectionStop_granted dt p s hs, ?_⟩
  rw [State.injStop_none _ _ _ ((congrArg CellSt.test ((s.advance dt).rwlTaken_cell _)).trans htest)]
  exact State.rwlTaken_loop _

theorem injectionCmds_denied (y : Instr) (hy : y ∈ [Instr.injectionStart dt p, .injectionStop dt p])
    (hs : s.session p ≠ some .installer) : ∃ t, exec y s = .next t ∧ t.loop = s.loop ∧ t.role = s.role := by
  have hdenied (act : State → State) := (s.advance dt).withRole_denied_keeps (p := p) (roles := [.installer]) 0xA040 act
    fun r hr hm => hs (List.mem_singleton.1 hm ▸ hr)
  simp only [List.mem_cons, List.not_mem_nil, or_false] at hy
  rcases hy with rfl | rfl
  · exact ⟨_, rfl, hdenied _⟩
  · exact ⟨_, rfl, hdenied _⟩

section
variable (n a : Nat) (i : InjSt) (htest : (s.cell n).test = some i) (hstart : i.startAt = some a)
include htest hstart

/-- An injection that has started ends once its duration has passed. -/
theorem exec_injectionEnd_eq : exec (.injectionEnd dt n) s =
    if a + i.dur * 1000000 ≤ s.now + dt then .next ((s.advance dt).injStop n 3) else .next (s.advance dt) := by
  show execInjectionEnd dt n s = _
  unfold execInjectionEnd
  dsimp only
  rw [show ((s.advance dt).cell n).test = some i from htest]
  dsimp only
  rw [hstart]
  rfl

theorem injectionEnd_ends (hd : a + i.dur * 1000000 ≤ s.now + dt) :
    ∃ t, exec (.injectionEnd dt n) s = .next t ∧ (t.cell n).test = none ∧ t.get R.LOOP_INJ_CMD_RESULT n = 3 ∧
      t.get R.LOOP_CELL_STAT_INJ n = 0 ∧ t.get R.LOOP_EVT_INJ_END = 1 ∧
      Framed [loc R.LOOP_INJ_CMD_RESULT n, loc R.LOOP_CELL_STAT_INJ n, loc R.LOOP_EVT_INJ_END 0]
        { s.advance dt with loop := t.loop } t :=
  ⟨_, (exec_injectionEnd_eq dt s n a i htest hstart).trans (if_pos hd), congrArg CellSt.test (State.injStop_cell _ _ _),
    (s.advance dt).injStop_shows n htest (by decide)⟩

theorem exec_injectionEnd_early (hd : s.now + dt < a + i.dur * 1000000) :
    exec (.injectionEnd dt n) s = .next (s.advance dt) :=
  (exec_injectionEnd_eq dt s n a i htest hstart).trans (if_neg (Nat.not_le.2 hd))

end

end

/-! ### Captures (R256) -/

section
variable (s : State) (k : Nat)

@[simp] theorem State.putCap_cap (c : CapSt) : (s.putCap k c).cap k = c := by
  simp [State.cap, State.putCap, tget]

@[simp] theorem State.putCap_get (c : CapSt) (f : Fld) (b : Nat) : (s.putCap k c).get f b = s.get f b := rfl

@[simp] theorem State.set_cap (f : Fld) (v b j : Nat) : (s.set f v b).cap j = s.cap j := rfl

theorem State.record_cap (e : Ev) : (s.record e).cap k = s.cap k :=
  congrArg (fun l : LoopSt => tget l.caps k {}) (State.record_loop s e)

/-- A unit is armed, empty. -/
def State.capArmed (s : State) (k : Nat) : State :=
  ((((s.set R.LOOP_CAP_CMD_CMD 1 k).putCap k {}).set R.LOOP_CAP_STAT_STATE 1 k).set R.LOOP_CAP_STAT_COUNT 0 k).set
    R.LOOP_CAP_STAT_TRIG_IDX 0 k

theorem State.capArmed_shows : (s.capArmed k).get R.LOOP_CAP_STAT_STATE k = 1 ∧
    (s.capArmed k).get R.LOOP_CAP_STAT_COUNT k = 0 ∧ (s.capArmed k).get R.LOOP_CAP_STAT_TRIG_IDX k = 0 ∧
    (s.capArmed k).cap k = {} := by
  unfold State.capArmed
  simp (disch := decide) only [State.get_set_ne, State.get_set_same, State.set_cap, State.putCap_cap]
  exact ⟨rfl, rfl, rfl, trivial⟩

/-- An armed unit takes its trigger: the next sample is the trigger sample. -/
theorem State.capTrigger_armed (trig : Nat) (h : s.get R.LOOP_CAP_STAT_STATE k = 1) : ∃ e : Ev, s.capTrigger k trig =
    ((s.putCap k { s.cap k with trig := true, cause := trig }).set R.LOOP_CAP_STAT_STATE 2 k).record e := by
  unfold State.capTrigger
  rw [if_neg (not_not.2 h)]
  exact ⟨_, rfl⟩

end

section
variable (dt : Nat) (p : Port) (r : Role) (s : State)

section
variable (hs : s.session p = some r) (hr : r ∈ [Role.operator, .installer])
include hs hr

/-- A command of a capture unit, in its role. -/
theorem captureCmd_granted (act : State → Nat → State) :
    (s.advance dt).withRole p [.operator, .installer] 0xA050 (fun u => act u (u.get R.LOOP_CAP_SEL_UNIT)) =
      act (s.advance dt).rwlTaken (s.get R.LOOP_CAP_SEL_UNIT) :=
  ((s.advance dt).withRole_taken hs hr 0xA050 _).trans (congrArg (act _) (s.taken_get dt (by decide) 0))

theorem captureArm_arms :
    ∃ t, exec (.captureArm dt p) s = .next t ∧ t.get R.LOOP_CAP_STAT_STATE (s.get R.LOOP_CAP_SEL_UNIT) = 1 ∧
      t.get R.LOOP_CAP_STAT_COUNT (s.get R.LOOP_CAP_SEL_UNIT) = 0 ∧
      t.get R.LOOP_CAP_STAT_TRIG_IDX (s.get R.LOOP_CAP_SEL_UNIT) = 0 ∧ t.cap (s.get R.LOOP_CAP_SEL_UNIT) = {} ∧
      t.role.rwlAt = s.now + dt ∧ t.loop.cells = s.loop.cells := by
  obtain ⟨hstate, hcount, hidx, hcap⟩ := (s.advance dt).rwlTaken.capArmed_shows (s.get R.LOOP_CAP_SEL_UNIT)
  exact ⟨_, congrArg Host.Outcome.next (captureCmd_granted dt p r s hs hr State.capArmed), hstate, hcount, hidx, hcap, rfl,
    (congrArg LoopSt.cells (s.advance dt).rwlTaken_loop :)⟩

theorem captureForce_triggers (h1 : s.get R.LOOP_CAP_STAT_STATE (s.get R.LOOP_CAP_SEL_UNIT) = 1) :
    ∃ t, exec (.captureForce dt p) s = .next t ∧ t.get R.LOOP_CAP_STAT_STATE (s.get R.LOOP_CAP_SEL_UNIT) = 2 ∧
      (t.cap (s.get R.LOOP_CAP_SEL_UNIT)).trig = true ∧
      (t.cap (s.get R.LOOP_CAP_SEL_UNIT)).ring = (s.cap (s.get R.LOOP_CAP_SEL_UNIT)).ring ∧
      t.get R.LOOP_CAP_STAT_COUNT (s.get R.LOOP_CAP_SEL_UNIT) = s.get R.LOOP_CAP_STAT_COUNT (s.get R.LOOP_CAP_SEL_UNIT) := by
  have hexec : exec (.captureForce dt p) s = .next (((s.advance dt).rwlTaken.set R.LOOP_CAP_CMD_CMD 2
      (s.get R.LOOP_CAP_SEL_UNIT)).capTrigger (s.get R.LOOP_CAP_SEL_UNIT) 0) :=
    congrArg Host.Outcome.next (captureCmd_granted dt p r s hs hr fun u k => (u.set R.LOOP_CAP_CMD_CMD 2 k).capTrigger k 0)
  generalize s.get R.LOOP_CAP_SEL_UNIT = k at h1 hexec ⊢
  obtain ⟨e, hforce⟩ := ((s.advance dt).rwlTaken.set R.LOOP_CAP_CMD_CMD 2 k).capTrigger_armed k 0
    ((State.get_set_ne _ _ _ _ (by decide)).trans ((s.taken_get dt (by decide) k).trans h1))
  have hcap : ((s.advance dt).rwlTaken.set R.LOOP_CAP_CMD_CMD 2 k).cap k = s.cap k := (s.advance dt).rwlTaken_cap k
  refine ⟨_, hexec, ?_⟩
  rw [hforce, hcap, State.record_cap, State.set_cap, State.putCap_cap]
  simp (disch := decide) only [State.record_get, State.get_set_ne, State.get_set_same, State.putCap_get, State.taken_get]
  exact ⟨rfl, trivial, trivial, trivial⟩

theorem captureAbort_aborts (h12 : s.get R.LOOP_CAP_STAT_STATE (s.get R.LOOP_CAP_SEL_UNIT) ∈ [1, 2]) :
    ∃ t, exec (.captureAbort dt p) s = .next t ∧ t.get R.LOOP_CAP_STAT_STATE (s.get R.LOOP_CAP_SEL_UNIT) = 4 ∧
      t.loop = s.loop := by
  have hexec : exec (.captureAbort dt p) s = _ := congrArg Host.Outcome.next (captureCmd_granted dt p r s hs hr fun u k =>
    let u := u.set R.LOOP_CAP_CMD_CMD 3 k
    if u.get R.LOOP_CAP_STAT_STATE k = 1 || u.get R.LOOP_CAP_STAT_STATE k = 2 then u.set R.LOOP_CAP_STAT_STATE 4 k else u)
  dsimp only at hexec
  rw [State.get_set_ne _ _ _ _ (by decide), s.taken_get dt (by decide), if_pos (by simpa using h12)] at hexec
  exact ⟨_, hexec, State.get_set_same _ _ _ _, (s.advance dt).rwlTaken_loop⟩

end

theorem captureCmds_denied (y : Instr) (hy : y ∈ [Instr.captureArm dt p, .captureForce dt p, .captureAbort dt p])
    (hs : s.session p = none) : ∃ t, exec y s = .next t ∧ t.loop = s.loop ∧ t.role = s.role := by
  have hdenied (act : State → State) :=
    (s.advance dt).withRole_denied_keeps (p := p) (roles := [.operator, .installer]) 0xA050 act
      fun _ hr => absurd (hr.symm.trans hs) (Option.some_ne_none _)
  simp only [List.mem_cons, List.not_mem_nil, or_false] at hy
  rcases hy with rfl | rfl | rfl
  · exact ⟨_, rfl, hdenied _⟩
  · exact ⟨_, rfl, hdenied _⟩
  · exact ⟨_, rfl, hdenied _⟩

end

section
variable (dt k : Nat) (s : State)

theorem captureDone_completes (h2 : s.get R.LOOP_CAP_STAT_STATE k = 2) (hfull : s.get R.LOOP_CAP_STAT_COUNT k = 8192)
    (htrig : (s.cap k).trig = false) :
    ∃ t, exec (.captureDone dt k) s = .next t ∧ t.get R.LOOP_CAP_STAT_STATE k = 3 ∧ t.get R.LOOP_EVT_CAP_DONE = 1 ∧
      Framed [loc R.LOOP_CAP_STAT_STATE k, loc R.LOOP_EVT_CAP_DONE 0] (s.advance dt) t := by
  refine ⟨_, if_pos (by simp [h2, hfull, show ((s.advance dt).cap k).trig = false from htrig]), ?_, ?_, ?_⟩
  · simp (disch := decide) only [State.record_get, State.evt_get_ne, State.get_set_same]
    rfl
  · exact (State.record_get _ _ _ (by decide)).trans (State.evt_get_same _ _ _ (by decide))
  · exact State.record_framed _ _ (State.evt_framed _ _ _ (.inl (by simp)) (set_framed _ _ _ _ (.inl (by simp)) (.refl _ _)))

theorem exec_captureDone_waits (h : s.get R.LOOP_CAP_STAT_STATE k ≠ 2 ∨ s.get R.LOOP_CAP_STAT_COUNT k ≠ 8192) :
    exec (.captureDone dt k) s = .next (s.advance dt) := by
  refine if_neg ?_
  rcases h with hstate | hcount
  · simp [hstate]
  · simp [hcount]

end

/-- Settles O36: each clause is the lemma of its command above. That a standby's INJECTION_START answers REFUSED-STATE
and that a new one replaces the injection before it is the model's choice (log 135), and so is that a command whose condition is not met only lets time
pass (log 1). -/
theorem injectionsAndCaptures : Obligations.InjectionsAndCaptures := by
  unfold Obligations.InjectionsAndCaptures
  exact ⟨injectionStart_waits, injectionStart_otherMode, injectionStart_tooLarge,
    fun dt p x s => injectionCmds_denied dt p s x, fun dt p i s => injectionStop_stops dt p s i, injectionStop_none,
    fun dt n a i s => injectionEnd_ends dt s n a i, fun dt n a i s => exec_injectionEnd_early dt s n a i, captureArm_arms,
    captureForce_triggers, captureAbort_aborts, fun dt p x s => captureCmds_denied dt p s x, captureDone_completes,
    exec_captureDone_waits⟩

end Sys2Proof.Machine
end

section
/-!
PROOF of the statement of 10_loop_cells.md about machine functions (MachineFunctions): results of commands, what the work of a function
leaves alone, a change of state, a stop and its end, a fault, and then the commands.
-/

namespace Sys2Proof.Machine

open Sys2Proof

/-! ### Results of commands (R260) -/

/-- The fields that show the result of a machine-function command. -/
def mfnResultFlds : List Fld := [R.MFN_CMD_STAT_RESULT, R.MFN_CMD_STAT_TAG, R.MFN_CMD_STAT_FN]

/-- MFN_CMD_STAT takes a result. -/
def State.showFnResult (s : State) (res fn tag : Nat) : State :=
  ((s.set R.MFN_CMD_STAT_RESULT res).set R.MFN_CMD_STAT_TAG tag).set R.MFN_CMD_STAT_FN fn

section
variable (s : State) (res action fn tag keyId : Nat)

theorem State.showFnResult_framed {ks : List Nat} {s₀ : State} (hks : ∀ f ∈ mfnResultFlds, loc f 0 ∈ ks)
    (h : Framed ks s₀ s) : Framed ks s₀ (s.showFnResult res fn tag) :=
  set_framed _ _ _ _ (.inl (hks _ (by decide))) (set_framed _ _ _ _ (.inl (hks _ (by decide)))
    (set_framed _ _ _ _ (.inl (hks _ (by decide))) h))

theorem State.showFnResult_shows : (s.showFnResult res fn tag).get R.MFN_CMD_STAT_RESULT = res % 2 ^ 4 ∧
    (s.showFnResult res fn tag).get R.MFN_CMD_STAT_TAG = tag % 2 ^ 8 ∧
    (s.showFnResult res fn tag).get R.MFN_CMD_STAT_FN = fn % 2 ^ 5 := by
  unfold State.showFnResult
  simp (disch := decide) only [State.get_set_ne, State.get_set_same]
  exact ⟨rfl, rfl, rfl⟩

/-- An acceptance is shown, and told. -/
theorem State.fnResult_accepted_framed : Framed [] (s.showFnResult 1 fn tag) (s.fnResult 1 action fn tag keyId) :=
  State.result_framed _ _ _ _ _ _ _ _ _ (State.record_framed _ _ (.refl _ _))

variable {res} (h1 : res ≠ 1) (h2 : res ≠ 2) (h3 : res ≠ 3)
include h1 h2 h3

/-- A refusal is shown, raises its event bit, and is told. -/
theorem State.fnResult_refused_framed :
    Framed [] ((s.showFnResult res fn tag).evt R.MFN_EVT_CMD_REFUSED) (s.fnResult res action fn tag keyId) := by
  unfold State.fnResult
  dsimp only
  rw [if_neg (by simp [h2, h3]), if_neg h1]
  exact State.result_framed _ _ _ _ _ _ _ _ _ (State.record_framed _ _ (.refl _ _))

/-- What a refused command shows, and its frame. -/
theorem State.fnResult_refuses (hres : res < 16) : (s.fnResult res action fn tag keyId).get R.MFN_CMD_STAT_RESULT = res ∧
    (s.fnResult res action fn tag keyId).get R.MFN_EVT_CMD_REFUSED = 1 ∧
    Framed (regKeys 0 [R.MFN_CMD_STAT_RESULT, R.MFN_CMD_STAT_TAG, R.MFN_CMD_STAT_FN, R.MFN_EVT_CMD_REFUSED]) s
      (s.fnResult res action fn tag keyId) := by
  have htold := s.fnResult_refused_framed action fn tag keyId h1 h2 h3
  obtain ⟨hresult, -, -⟩ := s.showFnResult_shows res fn tag
  refine ⟨?_, ?_, ?_⟩
  · rw [htold.get_eq 0 (by decide) List.not_mem_nil, State.evt_get_ne _ _ _ (by decide) (by decide), hresult]
    exact Nat.mod_eq_of_lt hres
  · exact (htold.get_eq 0 (by decide) List.not_mem_nil).trans (State.evt_get_same _ _ _ (by decide))
  · exact (State.evt_framed _ _ _ (.inl (by decide)) (s.showFnResult_framed res fn tag (by decide) (.refl _ s))).trans
      (htold.mono (List.nil_subset _))

end

/-! ### Judging a command (R260) -/

section
variable (s : State) (n : Nat)

@[simp] theorem State.putFn_fn (x : FnSt) : (s.putFn n x).fn n = x := by
  simp [State.fn, State.putFn, tget]

@[simp] theorem State.putFn_get (x : FnSt) (f : Fld) (b : Nat) : (s.putFn n x).get f b = s.get f b := rfl


end

/-- A command as its source gives it is judged by the mode, the active role and the manifest. -/
def State.fnJudge (s : State) (action fn tag keyId : Nat) : State :=
  if s.follows || (s.mode = 1 && s.get R.MODE_STAT_PHASE = 9) || (s.mode ≠ 1 && !s.isActive) then s.fnResult 5 action fn tag keyId
  else if s.mode < 2 || s.mode = 5 then s.fnResult 6 action fn tag keyId
  else if (tfind s.man.loop.fns fn).isNone then s.fnResult 4 action fn tag keyId
  else s.fnAccept action fn tag keyId

section
variable (s : State) (action fn tag keyId : Nat)

theorem State.fnJudge_notActive (ha : s.isActive = false) (hm : s.mode ≠ 1) :
    s.fnJudge action fn tag keyId = s.fnResult 5 action fn tag keyId := if_pos (by simp [ha, hm])

section
variable (ha : s.isActive = true)
include ha

theorem State.fnJudge_safe (hm : s.mode = 5) : s.fnJudge action fn tag keyId = s.fnResult 6 action fn tag keyId :=
  (if_neg (by simp [State.follows, ha, hm])).trans (if_pos (by simp [hm]))

/-- A command that is taken for a function without one waits. -/
theorem State.fnJudge_waits (hlo : 2 ≤ s.mode) (hhi : s.mode < 5) (hcfg : (tfind s.man.loop.fns fn).isSome = true)
    (hcmd : (s.fn fn).cmd = none) : s.fnJudge action fn tag keyId =
      (s.putFn fn { s.fn fn with cmd := some { action := action, tag := tag, keyId := keyId, at_ := s.now } }).fnResult 1 action
        fn tag keyId := by
  have hmuster : s.mode ≠ 1 := by omega
  unfold State.fnJudge
  rw [if_neg (by simp [State.follows, ha, hmuster]), if_neg (by simp [Nat.not_lt.2 hlo, hhi.ne]),
    if_neg (by simpa using Option.isSome_iff_ne_none.1 hcfg)]
  unfold State.fnAccept
  dsimp only
  rw [hcmd]

/-- What a command that waits shows, and its frame. -/
theorem State.fnJudge_accepts (hlo : 2 ≤ s.mode) (hhi : s.mode < 5) (hcfg : (tfind s.man.loop.fns fn).isSome = true)
    (hcmd : (s.fn fn).cmd = none) :
    (((s.fnJudge action fn tag keyId).fn fn).cmd.map fun c => (c.action, c.tag, c.at_, c.keyId)) =
      some (action, tag, s.now, keyId) ∧
    (s.fnJudge action fn tag keyId).get R.MFN_CMD_STAT_RESULT = 1 ∧
    (s.fnJudge action fn tag keyId).get R.MFN_CMD_STAT_TAG = tag % 2 ^ 8 ∧
    (s.fnJudge action fn tag keyId).get R.MFN_CMD_STAT_FN = fn % 2 ^ 5 ∧
    Framed (regKeys 0 mfnResultFlds) { s with loop := (s.fnJudge action fn tag keyId).loop }
      (s.fnJudge action fn tag keyId) := by
  rw [s.fnJudge_waits action fn tag keyId ha hlo hhi hcfg hcmd]
  generalize hw : s.putFn fn _ = w
  have htold := w.fnResult_accepted_framed action fn tag keyId
  obtain ⟨hresult, htag, hfn⟩ := w.showFnResult_shows 1 fn tag
  have hloop : (w.fnResult 1 action fn tag keyId).loop = w.loop := State.of_plain_loop htold.plain
  have hget (f : Fld) (hf : noteFld f = false) :
      (w.fnResult 1 action fn tag keyId).get f = (w.showFnResult 1 fn tag).get f := htold.get_eq 0 hf List.not_mem_nil
  refine ⟨?_, (hget _ (by decide)).trans hresult, (hget _ (by decide)).trans htag, (hget _ (by decide)).trans hfn, ?_⟩
  · unfold State.fn
    rw [hloop]
    change ((w.fn fn).cmd.map _) = _
    rw [← hw, State.putFn_fn]
    rfl
  · rw [hloop, ← hw]
    rw [← hw] at htold
    exact (State.showFnResult_framed _ 1 fn tag (by decide) (.refl _ _)).trans (htold.mono (List.nil_subset _))

end

/-! ### From a source to the judgement (R260) -/

theorem State.fnCmd_point {k : Nat} (hk : k ∈ s.man.loop.points) :
    s.fnCmd action (.point k) fn tag = s.fnJudge action (fn % 32) (tag % 256) s.operKeyId := if_pos hk

/-- The state in which a host's command is judged: awake, the session's idle time afresh, and MFN_CMD showing the command. -/
def State.hostFn (s : State) (action fn tag : Nat) : State :=
  ((s.rwlTaken.set R.MFN_CMD_FN (fn % 32)).set R.MFN_CMD_ACTION action).set R.MFN_CMD_TAG (tag % 256)

theorem State.fnCmd_host {p : Port} (h : s.session p = some .operator) :
    s.fnCmd action (.host p) fn tag = (s.hostFn action fn tag).fnJudge action (fn % 32) (tag % 256) s.role.keyId := by
  unfold State.fnCmd State.operatorCmd
  exact State.withRole_rwlTaken s h 0xB014 _

theorem State.hostFn_get {f : Fld} (hl : lullKeeps f = true)
    (h : apartFrom [R.MFN_CMD_FN, R.MFN_CMD_ACTION, R.MFN_CMD_TAG] f = true) : (s.hostFn action fn tag).get f = s.get f := by
  have hu := unseen_get_of_apartFrom 0 h
  exact (hu.set _ _ _ 0 (by decide)).trans ((hu.set _ _ _ 0 (by decide)).trans ((hu.set _ _ _ 0 (by decide)).trans
    (s.rwlTaken_get 0 hl)))

theorem State.hostFn_shows : (s.hostFn action fn tag).get R.MFN_CMD_FN = fn % 32 ∧
    (s.hostFn action fn tag).get R.MFN_CMD_ACTION = action % 2 ^ 2 := by
  unfold State.hostFn
  simp (disch := decide) only [State.get_set_ne, State.get_set_same]
  exact ⟨Nat.mod_mod _ _, rfl⟩

end

theorem exec_of_mem_mfnCmds {dt fn tag : Nat} {src : CmdSrc} {x : Nat × Instr} (hx : x ∈ mfnCmds dt src fn tag) (s : State) :
    exec x.2 s = .next ((s.advance dt).fnCmd x.1 src fn tag) := by
  simp only [mfnCmds, List.mem_cons, List.not_mem_nil, or_false] at hx
  rcases hx with rfl | rfl | rfl <;> rfl

theorem action_lt_of_mem_mfnCmds {dt fn tag : Nat} {src : CmdSrc} {x : Nat × Instr} (hx : x ∈ mfnCmds dt src fn tag) :
    x.1 < 4 := by
  have haction : x.1 ∈ [1, 2, 3] := List.mem_map_of_mem (f := Prod.fst) hx
  simp only [List.mem_cons, List.not_mem_nil, or_false] at haction
  omega

/-! ### The commands -/

section
variable (dt fn tag k : Nat) (x : Nat × Instr) (s : State)

theorem exec_mfnCmds_otherPoint (hx : x ∈ mfnCmds dt (.point k) fn tag) (hk : k ∉ s.man.loop.points) :
    exec x.2 s = .next (s.advance dt) :=
  (exec_of_mem_mfnCmds hx s).trans (congrArg Host.Outcome.next (if_neg hk))

section
variable (hx : x ∈ mfnCmds dt (.point k) fn tag) (hk : k ∈ s.man.loop.points)
include hx hk

theorem exec_mfnCmds_point :
    exec x.2 s = .next ((s.advance dt).fnJudge x.1 (fn % 32) (tag % 256) s.operKeyId) :=
  (exec_of_mem_mfnCmds hx s).trans (congrArg Host.Outcome.next ((s.advance dt).fnCmd_point x.1 fn tag hk))

theorem mfnCmds_point_accepted (ha : s.isActive = true) (hlo : 2 ≤ s.mode) (hhi : s.mode < 5)
    (hcfg : (tfind s.man.loop.fns (fn % 32)).isSome = true) (hcmd : (s.fn (fn % 32)).cmd = none) :
    ∃ t, exec x.2 s = .next t ∧
      ((t.fn (fn % 32)).cmd.map fun c => (c.action, c.tag, c.at_, c.keyId)) = some (x.1, tag % 256, s.now + dt, s.operKeyId) ∧
      t.get R.MFN_CMD_STAT_RESULT = 1 ∧ t.get R.MFN_CMD_STAT_TAG = tag % 256 ∧ t.get R.MFN_CMD_STAT_FN = fn % 32 ∧
      Framed (regKeys 0 mfnResultFlds) { s.advance dt with loop := t.loop } t := by
  obtain ⟨hwaits, hresult, htag, hfn, hframe⟩ :=
    (s.advance dt).fnJudge_accepts x.1 (fn % 32) (tag % 256) s.operKeyId ha hlo hhi hcfg hcmd
  exact ⟨_, exec_mfnCmds_point dt fn tag k x s hx hk, hwaits, hresult, htag.trans (Nat.mod_mod _ _),
    hfn.trans (Nat.mod_mod _ _), hframe⟩

theorem mfnCmds_point_safe (ha : s.isActive = true) (hm : s.mode = 5) :
    ∃ t, exec x.2 s = .next t ∧ t.get R.MFN_CMD_STAT_RESULT = 6 ∧ t.get R.MFN_EVT_CMD_REFUSED = 1 ∧
      Framed (regKeys 0 [R.MFN_CMD_STAT_RESULT, R.MFN_CMD_STAT_TAG, R.MFN_CMD_STAT_FN, R.MFN_EVT_CMD_REFUSED]) (s.advance dt)
        t :=
  ⟨_, (exec_mfnCmds_point dt fn tag k x s hx hk).trans (congrArg _ ((s.advance dt).fnJudge_safe _ _ _ _ ha hm)),
    (s.advance dt).fnResult_refuses _ _ _ _ (by decide) (by decide) (by decide) (by decide)⟩

theorem mfnCmds_point_notActive (ha : s.isActive = false) (hm : s.mode ≠ 1) :
    ∃ t, exec x.2 s = .next t ∧ t.get R.MFN_CMD_STAT_RESULT = 5 ∧ t.get R.MFN_EVT_CMD_REFUSED = 1 ∧
      Framed (regKeys 0 [R.MFN_CMD_STAT_RESULT, R.MFN_CMD_STAT_TAG, R.MFN_CMD_STAT_FN, R.MFN_EVT_CMD_REFUSED]) (s.advance dt)
        t :=
  ⟨_, (exec_mfnCmds_point dt fn tag k x s hx hk).trans (congrArg _ ((s.advance dt).fnJudge_notActive _ _ _ _ ha hm)),
    (s.advance dt).fnResult_refuses _ _ _ _ (by decide) (by decide) (by decide) (by decide)⟩

end

theorem mfnCmds_host_accepted (p : Port) (hx : x ∈ mfnCmds dt (.host p) fn tag) (hs : s.session p = some .operator)
    (ha : s.isActive = true) (hlo : 2 ≤ s.mode) (hhi : s.mode < 5) (hcfg : (tfind s.man.loop.fns (fn % 32)).isSome = true)
    (hcmd : (s.fn (fn % 32)).cmd = none) :
    ∃ t, exec x.2 s = .next t ∧ ((t.fn (fn % 32)).cmd.map fun c => (c.action, c.tag, c.at_, c.keyId)) =
        some (x.1, tag % 256, s.now + dt, s.role.keyId) ∧
      t.get R.MFN_CMD_STAT_RESULT = 1 ∧ t.get R.MFN_CMD_FN = fn % 32 ∧ t.get R.MFN_CMD_ACTION = x.1 ∧
      t.role.rwlAt = s.now + dt := by
  have hexec := (exec_of_mem_mfnCmds hx s).trans (congrArg _ ((s.advance dt).fnCmd_host x.1 fn tag hs))
  have hact : ((s.advance dt).hostFn x.1 fn tag).isActive = s.isActive := by
    unfold State.isActive State.flag
    rw [State.hostFn_get _ _ _ _ (by decide) (by decide)]
    rfl
  have hmode : ((s.advance dt).hostFn x.1 fn tag).mode = s.mode :=
    (s.advance dt).hostFn_get x.1 fn tag (by decide) (by decide)
  have hman : ((s.advance dt).hostFn x.1 fn tag).man = s.man := (s.advance dt).rwlTaken_man
  have hloop : ((s.advance dt).hostFn x.1 fn tag).loop = s.loop := (s.advance dt).rwlTaken_loop
  have hnow : ((s.advance dt).hostFn x.1 fn tag).now = s.now + dt := (s.advance dt).rwlTaken_now
  obtain ⟨hfn, haction⟩ := (s.advance dt).hostFn_shows x.1 fn tag
  obtain ⟨hwaits, hresult, -, -, hframe⟩ := ((s.advance dt).hostFn x.1 fn tag).fnJudge_accepts x.1 (fn % 32) (tag % 256)
    s.role.keyId (hact.trans ha) (hmode ▸ hlo) (hmode ▸ hhi) (hman ▸ hcfg)
    ((congrArg (fun l : LoopSt => (tget l.fns (fn % 32) {}).cmd) hloop).trans hcmd)
  refine ⟨_, hexec, hnow ▸ hwaits, hresult, ?_, ?_, congrArg RoleSt.rwlAt (State.of_plain_role hframe.plain)⟩
  · exact (hframe.get_eq 0 (by decide) (by decide)).trans hfn
  · exact (hframe.get_eq 0 (by decide) (by decide)).trans
      (haction.trans (Nat.mod_eq_of_lt (action_lt_of_mem_mfnCmds hx)))

end

/-! ### What the work of a function leaves alone (R261, R262) -/

/-- A field of the loop fabric's block of the map. -/
abbrev LoopFld (f : Fld) : Prop := fkey f / 131072 = 10

/-- A view of the state that changes neither with the loop fabric's fields nor those listed, nor with the cells' own data, and takes of
function `f`'s own data nothing but the start of its stop. -/
structure FnUnseen {β : Type} (f : Nat) (fs : List Fld) (p : State → β) : Prop
    extends FabricUnseen (fun g => LoopFld g ∨ g ∈ fs) p where
  cells : ∀ (u : State) (x : Tab CellSt), p { u with loop := { u.loop with cells := x } } = p u
  fn : ∀ (u : State) (x : FnSt), x.stopAt = (u.fn f).stopAt → p (u.putFn f x) = p u

section
variable {β : Type} {f : Nat} {fs gs : List Fld} {p : State → β}

theorem FnUnseen.mono (h : FnUnseen f fs p) (hg : gs ⊆ fs) : FnUnseen f gs p :=
  ⟨h.toFabricUnseen.mono fun _ hf => hf.imp_right fun hm => hg hm, h.cells, h.fn⟩

theorem FnUnseen.onLoop (h : FnUnseen f fs p) : FabricUnseen LoopFld p := h.toFabricUnseen.mono fun _ => Or.inl

theorem FnUnseen.onList (h : FnUnseen f fs p) : Unseen (· ∈ fs) p := h.toUnseen.mono fun _ => Or.inr

theorem fnUnseen_get {g : Fld} (b : Nat) (h : apartFrom fs g = true) (hl : ¬ LoopFld g) :
    FnUnseen f fs (fun u : State => u.get g b) :=
  ⟨fabricUnseen_get b (noteFld_of_apartFrom h) fun _ hg => hg.elim (fun ho e => hl ((congrArg (· / 131072) e).trans ho))
    (apartFrom_ne h), fun _ _ => rfl, fun _ _ _ => rfl⟩

theorem fnUnseen_stopAt : FnUnseen f fs (fun u : State => (u.fn f).stopAt) :=
  ⟨fabricUnseen_fns fun t => (tget t f {}).stopAt, fun _ _ => rfl,
    fun u x h => (congrArg FnSt.stopAt (u.putFn_fn f x)).trans h⟩

section
variable (h : FnUnseen f fs p)
include h

theorem State.injStop_fnUnseen (s : State) (n res : Nat) : p (s.injStop n res) = p s :=
  s.injStop_unseen n res (h.onLoop.toUnseen.mono (by decide)) (h.cells _ _)

theorem State.cellsTo_fnUnseen (s : State) (g : FnCfg) (st : Nat) (upd : CellSt → FnCell → CellSt) :
    p (s.cellsTo g st upd) = p s := by
  have hput (u : State) (n : Nat) (c : CellSt) : p (u.putCell n c) = p u := h.cells u _
  refine foldl_keeps p _ (fun u c => ?_) s
  dsimp only
  rw [apply_ite p, h.onLoop.set _ _ _ _ (by decide), hput, ite_self]

theorem State.setOut_fnUnseen (s : State) (n : Nat) (x : CellCfg) (u : Int) : p (s.setOut n x u) = p s :=
  (s.setOutIn_unseen n x u 0 h.onLoop (by decide)).trans (h.cells _ _)

theorem State.resetOut_fnUnseen (s : State) (n : Nat) (x : CellCfg) : p (s.resetOut n x) = p s := by
  have hset (u : State) : p (u.set R.LOOP_CELL_OUT_VALUE 0 n) = p u := h.onLoop.set _ _ _ _ (by decide)
  unfold State.resetOut
  dsimp only
  split
  · exact (h.pwm _ _).trans ((hset _).trans (h.cells _ _))
  · exact (h.clp _ _).trans ((hset _).trans (h.cells _ _))
  · exact (hset _).trans (h.cells _ _)

theorem State.endAction_fnUnseen (s : State) (c : FnCell) : p (s.endAction c) = p s := by
  unfold State.endAction
  split
  · rfl
  split
  · exact State.setOut_fnUnseen h _ _ _ _
  · exact State.setOut_fnUnseen h _ _ _ _
  · exact State.resetOut_fnUnseen h _ _ _
  · rfl

end

end

/-! #### A change of state (R261) -/

/-- The fields that a change of a function's state writes. -/
def setFnFlds : List Fld := [R.MFN_FN_STAT_STATE, R.MFN_EVT_FAULT, R.MFN_EVT_STATE_CHANGE]

/-- The fields that an arming writes beside. -/
def fnArmFlds : List Fld := R.MFN_FN_STAT_REARM_PENDING :: R.MFN_FN_STAT_CAUSE :: setFnFlds

section
variable {β : Type} {f : Nat} {fs : List Fld} {p : State → β} (s : State) (g : FnCfg) {new : Nat}

/-- What follows the new state itself: injections end, it is told, and the function's points are written. -/
def State.fnTold (s : State) (f : Nat) (g : FnCfg) (old new : Nat) (e : Ev) : State :=
  let s := if old = 2 then g.cells.foldl (fun (s : State) c => s.injStop c.cell 4) s else s
  let s := if new = 4 then s.evt R.MFN_EVT_FAULT else s
  ((s.evt R.MFN_EVT_STATE_CHANGE).record e).fnPoints f

theorem State.fnTold_unseen (h : FnUnseen f fs p) (hfs : [R.MFN_EVT_FAULT, R.MFN_EVT_STATE_CHANGE] ⊆ fs) (old : Nat)
    (e : Ev) : p (s.fnTold f g old new e) = p s := by
  have hcells : p (g.cells.foldl (fun (s : State) c => s.injStop c.cell 4) s) = p s :=
    foldl_keeps p _ (fun u c => State.injStop_fnUnseen h u _ _) s
  unfold State.fnTold State.fnPoints
  dsimp only
  rw [State.putAll_unseen h.toFabricUnseen, h.record, h.onList.evt _ _ _ (hfs (by decide)), apply_ite p,
    h.onList.evt _ _ _ (hfs (by decide)), ite_self, apply_ite p, hcells, ite_self]

theorem State.setFn_changes (f : Nat) (hold : s.fnState f ≠ new) : ∃ e, s.setFn f g new =
    ((s.putFn f { s.fn f with since := s.tick }).set R.MFN_FN_STAT_STATE new f).fnTold f g (s.fnState f) new e := by
  unfold State.setFn
  dsimp only
  rw [if_neg hold]
  exact ⟨_, rfl⟩

theorem State.setFn_unseen (h : FnUnseen f fs p) (hfs : setFnFlds ⊆ fs) : p (s.setFn f g new) = p s := by
  by_cases hold : s.fnState f = new
  · exact congrArg p (if_pos hold)
  · obtain ⟨e, hset⟩ := s.setFn_changes g f hold
    rw [hset]
    exact (State.fnTold_unseen _ g h (List.Subset.trans (by decide) hfs) _ e).trans
      ((h.onList.set _ _ _ _ (hfs (by decide))).trans (h.fn _ _ rfl))

/-- The function shows its new state. -/
theorem State.setFn_state (f : Nat) (hnew : new < 8) : (s.setFn f g new).fnState f = new := by
  by_cases hold : s.fnState f = new
  · exact (congrArg (fun u : State => u.fnState f) (if_pos hold)).trans hold
  · obtain ⟨e, hset⟩ := s.setFn_changes g f hold
    rw [hset]
    refine (State.fnTold_unseen _ g (fs := [R.MFN_EVT_FAULT, R.MFN_EVT_STATE_CHANGE])
      (fnUnseen_get f (g := R.MFN_FN_STAT_STATE) (by decide) (by decide)) (List.Subset.refl _) _ e).trans ?_
    exact (State.get_set_same _ _ _ _).trans (Nat.mod_eq_of_lt hnew)

theorem State.fnArm_unseen (h : FnUnseen f fs p) (hfs : fnArmFlds ⊆ fs) : p (s.fnArm f g) = p s := by
  unfold State.fnArm
  dsimp only
  rw [State.setFn_unseen _ g h (List.Subset.trans (by decide) hfs), h.onList.set _ _ _ _ (hfs (by decide)),
    h.onList.set _ _ _ _ (hfs (by decide)), State.cellsTo_fnUnseen h]

theorem State.fnArm_state (f : Nat) : (s.fnArm f g).fnState f = 1 := State.setFn_state _ g f (by decide)

end

/-! #### The end of a stop (R262) -/

/-- The fields that the end of a stop writes before the function leaves STOPPING. -/
def stopEndFlds : List Fld := [R.MFN_FN_STAT_STOP_TIMEOUT, R.MFN_EVT_STOP_TIMEOUT, R.MFN_FN_TIME_LAST_STOP_MS]

/-- A stop that ends by its time limit is told. -/
def State.timedOut (s : State) (timeout : Bool) (e : Ev) : State :=
  if timeout then (s.evt R.MFN_EVT_STOP_TIMEOUT).record e else s

/-- How a stop ended shows, with its length. -/
def State.stopShown (s : State) (f : Nat) (timeout : Bool) (e : Ev) : State :=
  ((s.setB R.MFN_FN_STAT_STOP_TIMEOUT timeout f).timedOut timeout e).setSat R.MFN_FN_TIME_LAST_STOP_MS
    ((s.now - (s.fn f).stopAt) / 1000000) f

/-- Every cell takes its END_ACTION and is HELD. -/
def State.cellsEnded (s : State) (g : FnCfg) : State :=
  (g.cells.foldl State.endAction s).cellsTo g 1 fun c _ => { c with holdY := false, clampAt := none }

/-- A stop has ended, and the function is still in STOPPING. -/
def State.stopEnded (s : State) (f : Nat) (g : FnCfg) (timeout : Bool) (e : Ev) : State := (s.stopShown f timeout e).cellsEnded g

section
variable {β : Type} {f : Nat} {fs : List Fld} {p : State → β} (s : State) (g : FnCfg) (timeout : Bool) (e : Ev)

theorem State.timedOut_fn : (s.timedOut timeout e).fn f = s.fn f := by
  unfold State.timedOut State.fn
  rw [apply_ite State.loop, State.record_loop, State.evt_loop, ite_self]

theorem State.timedOut_now : (s.timedOut timeout e).now = s.now := by
  unfold State.timedOut
  rw [apply_ite State.now, State.record_now, State.evt_now, ite_self]

theorem State.cellsEnded_unseen (h : FnUnseen f fs p) : p (s.cellsEnded g) = p s :=
  (State.cellsTo_fnUnseen h _ _ _ _).trans (foldl_keeps p _ (fun u c => State.endAction_fnUnseen h u c) s)

theorem State.stopEnded_unseen (h : FnUnseen f fs p) (hfs : stopEndFlds ⊆ fs) : p (s.stopEnded f g timeout e) = p s := by
  have htold (u : State) : p (u.timedOut timeout e) = p u := by
    unfold State.timedOut
    rw [apply_ite p, h.record, h.onList.evt _ _ _ (hfs (by decide)), ite_self]
  refine (State.cellsEnded_unseen _ g h).trans ?_
  unfold State.stopShown
  rw [State.setSat_eq, h.onList.set _ _ _ _ (hfs (by decide)), htold, State.setB_eq, h.onList.set _ _ _ _ (hfs (by decide))]

theorem State.stopEnded_get {q : Fld} (b : Nat) (h : apartFrom stopEndFlds q = true) (hl : ¬ LoopFld q) :
    (s.stopEnded f g timeout e).get q b = s.get q b :=
  s.stopEnded_unseen g timeout e (f := f) (fnUnseen_get b h hl) (List.Subset.refl _)

/-- What the end of a stop shows. -/
theorem State.stopEnded_shows (f : Nat) :
    (s.stopEnded f g timeout e).get R.MFN_FN_STAT_STOP_TIMEOUT f = (if timeout then 1 else 0) ∧
    (timeout = true → (s.stopEnded f g timeout e).get R.MFN_EVT_STOP_TIMEOUT = 1) ∧
    (s.stopEnded f g timeout e).get R.MFN_FN_TIME_LAST_STOP_MS f =
      min (2 ^ R.MFN_FN_TIME_LAST_STOP_MS.width - 1) ((s.now - (s.fn f).stopAt) / 1000000) := by
  have hget (u : State) (q : Fld) (b : Nat) (h : apartFrom [] q = true) (hl : ¬ LoopFld q) :
      (u.cellsEnded g).get q b = u.get q b := u.cellsEnded_unseen g (f := f) (fnUnseen_get b h hl)
  have htold (u : State) (q : Fld) (b : Nat) (h : apartFrom [R.MFN_EVT_STOP_TIMEOUT] q = true) :
      (u.timedOut timeout e).get q b = u.get q b := by
    have hu := unseen_get_of_apartFrom b h
    unfold State.timedOut
    rw [apply_ite (fun v : State => v.get q b), hu.record, hu.evt _ _ _ (by decide), ite_self]
  unfold State.stopEnded State.stopShown
  refine ⟨?_, fun ht => ?_, ?_⟩
  · rw [hget _ _ _ (by decide) (by decide), State.setSat_get_ne _ _ (by decide), htold _ _ _ (by decide),
      State.get_setB_same _ _ _ _ (by decide)]
  · rw [hget _ _ _ (by decide) (by decide), State.setSat_get_ne _ _ (by decide), ht]
    exact (State.record_get _ _ _ (by decide)).trans (State.evt_get_same _ _ _ (by decide))
  · rw [hget _ _ _ (by decide) (by decide), State.setSat_eq, State.get_set_same]
    exact Nat.mod_eq_of_lt ((Nat.min_le_left _ _).trans_lt (by decide))

/-- Once a stop has ended, a fault stop ends in FAULT, a normal one in DISARMED, and from there in ARMING where an enable waits. -/
theorem State.fnEnd_eq (f : Nat) : ∃ e causes, s.fnEnd f g timeout =
    if s.flag R.MFN_FN_STAT_STOP_FAULT f then ((s.stopEnded f g timeout e).putFn f
      { (s.stopEnded f g timeout e).fn f with causes := causes }).setFn f g 4
    else if s.flag R.MFN_FN_STAT_REARM_PENDING f then ((s.stopEnded f g timeout e).setFn f g 0).fnArm f g
    else (s.stopEnded f g timeout e).setFn f g 0 := by
  unfold State.fnEnd
  extract_lets fault out s₁ s₂ s₃ s₄ s₅ x again s₆
  obtain ⟨e, htold⟩ : ∃ e, s₂ = s₁.timedOut timeout e := ⟨_, rfl⟩
  have hshown : s₃ = s.stopShown f timeout e := by
    simp only [s₃, htold, State.timedOut_fn, State.timedOut_now]
    rfl
  have hended : s₅ = s.stopEnded f g timeout e := by
    simp only [s₅, s₄, hshown]
    rfl
  have hagain : again = s.flag R.MFN_FN_STAT_REARM_PENDING f := by
    simp only [again, hended, State.flag]
    rw [State.stopEnded_get _ _ _ _ _ (by decide) (by decide)]
  refine ⟨e, x.causes.map fun c => if c.1 = 2 || c.1 = 3 then (c.1, s₅.tick) else c, ?_⟩
  simp only [s₆, x, hagain, hended]
  rfl

/-- Beside what the end of a stop shows, a function that leaves STOPPING changes what a change of state and an arming do. -/
theorem State.fnEnd_unseen_stopEnded (f : Nat) : ∃ e, ∀ (q : Fld) (b : Nat), apartFrom fnArmFlds q = true → ¬ LoopFld q →
    (s.fnEnd f g timeout).get q b = (s.stopEnded f g timeout e).get q b := by
  obtain ⟨e, causes, hend⟩ := s.fnEnd_eq g timeout f
  refine ⟨e, fun q b h hl => ?_⟩
  have hu : FnUnseen f fnArmFlds (fun u : State => u.get q b) := fnUnseen_get b h hl
  have hset (u : State) (new : Nat) : (u.setFn f g new).get q b = u.get q b := u.setFn_unseen g hu (by decide)
  rw [hend]
  split
  · exact hset _ 4
  split
  · exact (State.fnArm_unseen _ g hu (List.Subset.refl _)).trans (hset _ 0)
  · exact hset _ 0

/-- What a function shows once its stop has ended. -/
theorem State.fnEnd_shows (f : Nat) :
    (s.fnEnd f g timeout).get R.MFN_FN_STAT_STOP_TIMEOUT f = (if timeout then 1 else 0) ∧
    (timeout = true → (s.fnEnd f g timeout).get R.MFN_EVT_STOP_TIMEOUT = 1) ∧
    (s.fnEnd f g timeout).get R.MFN_FN_TIME_LAST_STOP_MS f =
      min (2 ^ R.MFN_FN_TIME_LAST_STOP_MS.width - 1) ((s.now - (s.fn f).stopAt) / 1000000) := by
  obtain ⟨e, hget⟩ := s.fnEnd_unseen_stopEnded g timeout f
  obtain ⟨htimeout, hevt, hlast⟩ := s.stopEnded_shows g timeout e f
  exact ⟨(hget _ f (by decide) (by decide)).trans htimeout, fun ht => (hget _ 0 (by decide) (by decide)).trans (hevt ht),
    (hget _ f (by decide) (by decide)).trans hlast⟩

theorem State.fnEnd_state (f : Nat) : (s.fnEnd f g timeout).fnState f =
    if s.get R.MFN_FN_STAT_STOP_FAULT f = 1 then 4 else if s.get R.MFN_FN_STAT_REARM_PENDING f = 1 then 1 else 0 := by
  obtain ⟨e, causes, hend⟩ := s.fnEnd_eq g timeout f
  simp only [State.flag, decide_eq_true_eq] at hend
  rw [hend]
  split
  · exact State.setFn_state _ g f (by decide)
  split
  · exact State.fnArm_state _ g f
  · exact State.setFn_state _ g f (by decide)

/-- A fault stop that has ended keeps its causes' register, and what it shows of the stop. -/
theorem State.fnEnd_fault_unseen (hf : s.flag R.MFN_FN_STAT_STOP_FAULT f = true) (h : FnUnseen f fs p)
    (hfs : stopEndFlds ++ setFnFlds ⊆ fs) : p (s.fnEnd f g timeout) = p s := by
  obtain ⟨hend, hset⟩ := List.append_subset.1 hfs
  obtain ⟨e, causes, heq⟩ := s.fnEnd_eq g timeout f
  rw [heq, if_pos hf]
  refine (State.setFn_unseen _ g h hset).trans ((h.fn _ _ ?_).trans (s.stopEnded_unseen g timeout e h hend))
  rfl

end

/-! #### A fault stop (R261, R263) -/

section
variable (s : State) (f : Nat) (g : FnCfg)

/-- A fault stop begins: its instant is noted, and an enable that waits is dropped. -/
def State.faultStopNoted (s : State) (f : Nat) : State :=
  (State.setB (s.putFn f { s.fn f with stopAt := s.now, bandAt := none }) R.MFN_FN_STAT_STOP_FAULT true f).set
    R.MFN_FN_STAT_REARM_PENDING 0 f

/-- A fault stop has begun: the cells move to STOP_SP, and the function is in STOPPING. -/
def State.faultStopBegun (s : State) (f : Nat) (g : FnCfg) : State :=
  ((s.faultStopNoted f).cellsTo g 3 fun c k => { c with holdY := false, raw := (q30 k.stopSp).1 }).setFn f g 3

theorem State.fnStop_fault : s.fnStop f g true =
    if g.faultEnd then (s.faultStopBegun f g).fnEnd f g false else s.faultStopBegun f g := rfl

theorem State.faultStopBegun_unseen {β : Type} {fs : List Fld} {p : State → β} (h : FnUnseen f fs p) (hfs : setFnFlds ⊆ fs) :
    p (s.faultStopBegun f g) = p (s.faultStopNoted f) :=
  (State.setFn_unseen _ g h hfs).trans (State.cellsTo_fnUnseen h _ _ _ _)

/-- What a fault stop that has begun shows. -/
theorem State.faultStopBegun_shows : (s.faultStopBegun f g).get R.MFN_FN_STAT_CAUSE f = s.get R.MFN_FN_STAT_CAUSE f ∧
    (s.faultStopBegun f g).get R.MFN_FN_STAT_REARM_PENDING f = 0 ∧
    (s.faultStopBegun f g).get R.MFN_FN_STAT_STOP_FAULT f = 1 ∧ ((s.faultStopBegun f g).fn f).stopAt = s.now ∧
    (s.faultStopBegun f g).fnState f = 3 := by
  have hget (q : Fld) (h : apartFrom setFnFlds q = true) (hl : ¬ LoopFld q) :
      (s.faultStopBegun f g).get q f = (s.faultStopNoted f).get q f :=
    s.faultStopBegun_unseen f g (fnUnseen_get f h hl) (List.Subset.refl _)
  refine ⟨?_, ?_, ?_, ?_, State.setFn_state _ g f (by decide)⟩
  · rw [hget _ (by decide) (by decide), State.faultStopNoted, State.get_set_ne _ _ _ _ (by decide),
      State.setB_get_ne _ _ _ _ (by decide), State.putFn_get]
  · exact (hget _ (by decide) (by decide)).trans (State.get_set_same _ _ _ _)
  · rw [hget _ (by decide) (by decide), State.faultStopNoted, State.get_set_ne _ _ _ _ (by decide),
      State.get_setB_same _ _ _ _ (by decide)]
    rfl
  · exact (s.faultStopBegun_unseen f g (fs := setFnFlds) fnUnseen_stopAt (List.Subset.refl _)).trans
      (congrArg FnSt.stopAt (State.putFn_fn _ _ _))

/-- What a fault stop leads to: FAULT at once where it has no ramp, else STOPPING. -/
theorem State.fnStop_fault_shows : (s.fnStop f g true).get R.MFN_FN_STAT_CAUSE f = s.get R.MFN_FN_STAT_CAUSE f ∧
    (s.fnStop f g true).get R.MFN_FN_STAT_REARM_PENDING f = 0 ∧ (s.fnStop f g true).get R.MFN_FN_STAT_STOP_FAULT f = 1 ∧
    ((s.fnStop f g true).fn f).stopAt = s.now ∧ (s.fnStop f g true).fnState f = if g.faultEnd then 4 else 3 := by
  have hbegun := s.faultStopBegun_shows f g
  rw [s.fnStop_fault f g]
  split
  next =>
    obtain ⟨hcause, hrearm, hfault, hstop, -⟩ := hbegun
    have hflag : (s.faultStopBegun f g).flag R.MFN_FN_STAT_STOP_FAULT f = true := decide_eq_true hfault
    have hget (q : Fld) (h : apartFrom (stopEndFlds ++ setFnFlds) q = true) (hl : ¬ LoopFld q) :
        ((s.faultStopBegun f g).fnEnd f g false).get q f = (s.faultStopBegun f g).get q f :=
      State.fnEnd_fault_unseen _ g false hflag (fnUnseen_get f h hl) (List.Subset.refl _)
    refine ⟨(hget _ (by decide) (by decide)).trans hcause, (hget _ (by decide) (by decide)).trans hrearm,
      (hget _ (by decide) (by decide)).trans hfault, ?_, ?_⟩
    · exact (State.fnEnd_fault_unseen _ g false hflag (fs := stopEndFlds ++ setFnFlds) fnUnseen_stopAt
        (List.Subset.refl _)).trans hstop
    · rw [State.fnEnd_state, if_pos hfault]
  next => exact hbegun

/-- The first cause of a fault in ARMING or ACTIVE is shown and recorded, and the fault stop begins. -/
theorem State.fnFault_first (cause cell : Nat) (hst : s.fnState f = 1 ∨ s.fnState f = 2) (hcauses : (s.fn f).causes = []) :
    ∃ e : Ev, s.fnFault f g cause cell = (((s.putFn f { s.fn f with causes := tput (s.fn f).causes cause s.tick }).set
      R.MFN_FN_STAT_CAUSE cause f).record e).fnStop f g true := by
  unfold State.fnFault
  extract_lets st x known s₁ stopping s₂ s₃
  have hknown : known = false := by simp only [known, x, hcauses]; rfl
  have hstopping : stopping = false := by
    rcases hst with hst | hst <;> simp [stopping, st, hst]
  rw [if_neg (by rcases hst with hst | hst <;> simp [st, hst]), hknown, if_neg (by decide), hstopping, if_neg (by decide)]
  simp only [s₃, s₂, hstopping]
  exact ⟨_, rfl⟩

theorem State.fnFault_shows {cause : Nat} (cell : Nat) (hst : s.fnState f = 1 ∨ s.fnState f = 2)
    (hcauses : (s.fn f).causes = []) (hcause : cause < 16) :
    (s.fnFault f g cause cell).get R.MFN_FN_STAT_CAUSE f = cause ∧
    (s.fnFault f g cause cell).get R.MFN_FN_STAT_REARM_PENDING f = 0 ∧
    (s.fnFault f g cause cell).get R.MFN_FN_STAT_STOP_FAULT f = 1 ∧ ((s.fnFault f g cause cell).fn f).stopAt = s.now ∧
    (s.fnFault f g cause cell).fnState f = (if g.faultEnd then 4 else 3) ∧ (s.fnFault f g cause cell).mode = s.mode := by
  obtain ⟨e, hfault⟩ := s.fnFault_first f g cause cell hst hcauses
  have hmode := congrArg TickView.mode (s.fnFault_tickView f g cause cell)
  rw [hfault] at hmode ⊢
  obtain ⟨hshown, hrearm, hstop, hat, hstate⟩ := State.fnStop_fault_shows (((s.putFn f
    { s.fn f with causes := tput (s.fn f).causes cause s.tick }).set R.MFN_FN_STAT_CAUSE cause f).record e) f g
  rw [State.record_get _ _ _ (by decide), State.get_set_same] at hshown
  rw [State.record_now] at hat
  exact ⟨hshown.trans (Nat.mod_eq_of_lt hcause), hrearm, hstop, hat, hstate, hmode⟩

end

/-! ### The time limits of a function (R261, R262, R263) -/

section
variable (dt f : Nat) (g : FnCfg) (s : State)

section
variable (hcfg : tfind s.man.loop.fns f = some g)
include hcfg

theorem exec_armTimeout_eq : exec (.armTimeout dt f) s =
    if s.fnState f = 1 ∧ (s.fn f).since + 100 * g.armMs ≤ s.tick then .next ((s.advance dt).fnFault f g 2 0xFF)
    else .next (s.advance dt) := by
  show execArmTimeout dt f s = _
  unfold execArmTimeout
  dsimp only
  rw [State.advance_man, hcfg]
  simp only [Bool.and_eq_true, decide_eq_true_eq]
  rfl

theorem armTimeout_faults (hcauses : (s.fn f).causes = []) (hst : s.fnState f = 1)
    (ht : (s.fn f).since + 100 * g.armMs ≤ s.tick) :
    ∃ t, exec (.armTimeout dt f) s = .next t ∧ t.get R.MFN_FN_STAT_CAUSE f = 2 ∧ t.get R.MFN_FN_STAT_REARM_PENDING f = 0 ∧
      t.get R.MFN_FN_STAT_STOP_FAULT f = 1 ∧ (t.fn f).stopAt = s.now + dt ∧ t.fnState f = (if g.faultEnd then 4 else 3) ∧
      t.mode = s.mode :=
  ⟨_, (exec_armTimeout_eq dt f g s hcfg).trans (if_pos ⟨hst, ht⟩),
    (s.advance dt).fnFault_shows f g 0xFF (.inl hst) hcauses (by decide)⟩

theorem exec_armTimeout_idle (h : s.fnState f ≠ 1 ∨ s.tick < (s.fn f).since + 100 * g.armMs) :
    exec (.armTimeout dt f) s = .next (s.advance dt) :=
  (exec_armTimeout_eq dt f g s hcfg).trans (if_neg fun ⟨hst, ht⟩ => h.elim (· hst) (Nat.not_lt.2 ht))

theorem exec_stopTimeout_eq : exec (.stopTimeout dt f) s =
    if s.fnState f = 3 ∧ (s.fn f).stopAt + 1000000 * g.stopMs ≤ s.now + dt then .next ((s.advance dt).fnEnd f g true)
    else .next (s.advance dt) := by
  show execStopTimeout dt f s = _
  unfold execStopTimeout
  dsimp only
  rw [State.advance_man, hcfg]
  simp only [Bool.and_eq_true, decide_eq_true_eq]
  rfl

theorem stopTimeout_ends (hst : s.fnState f = 3) (ht : (s.fn f).stopAt + 1000000 * g.stopMs ≤ s.now + dt) :
    ∃ t, exec (.stopTimeout dt f) s = .next t ∧ t.get R.MFN_FN_STAT_STOP_TIMEOUT f = 1 ∧ t.get R.MFN_EVT_STOP_TIMEOUT = 1 ∧
      t.fnState f = (if s.get R.MFN_FN_STAT_STOP_FAULT f = 1 then 4 else
        if s.get R.MFN_FN_STAT_REARM_PENDING f = 1 then 1 else 0) ∧ t.mode = s.mode := by
  obtain ⟨htimeout, hevt, -⟩ := (s.advance dt).fnEnd_shows g true f
  exact ⟨_, (exec_stopTimeout_eq dt f g s hcfg).trans (if_pos ⟨hst, ht⟩), htimeout, hevt rfl, State.fnEnd_state _ g true f,
    congrArg TickView.mode ((s.advance dt).fnEnd_tickView f g true)⟩

theorem exec_stopTimeout_idle (h : s.fnState f ≠ 3 ∨ s.now + dt < (s.fn f).stopAt + 1000000 * g.stopMs) :
    exec (.stopTimeout dt f) s = .next (s.advance dt) :=
  (exec_stopTimeout_eq dt f g s hcfg).trans (if_neg fun ⟨hst, ht⟩ => h.elim (· hst) (Nat.not_lt.2 ht))

end

/-! #### STOP_BAND_REACHED (R262) -/

theorem stopBandReached_ends (b : Nat) (hcfg : tfind s.man.loop.fns f = some g) (hst : s.fnState f = 3)
    (hband : (s.fn f).bandAt = some b) (ht : b + 10000000 ≤ s.now + dt) :
    ∃ t, exec (.stopBandReached dt f) s = .next t ∧ t.get R.MFN_FN_STAT_STOP_TIMEOUT f = 0 ∧
      t.fnState f = (if s.get R.MFN_FN_STAT_STOP_FAULT f = 1 then 4 else
        if s.get R.MFN_FN_STAT_REARM_PENDING f = 1 then 1 else 0) ∧
      t.get R.MFN_FN_TIME_LAST_STOP_MS f =
        min (2 ^ R.MFN_FN_TIME_LAST_STOP_MS.width - 1) ((s.now + dt - (s.fn f).stopAt) / 1000000) ∧ t.mode = s.mode := by
  have hexec : exec (.stopBandReached dt f) s = .next ((s.advance dt).fnEnd f g false) := by
    show execStopBandReached dt f s = _
    unfold execStopBandReached
    dsimp only
    rw [State.advance_man, hcfg, show ((s.advance dt).fn f).bandAt = some b from hband]
    exact if_pos (by simp [show (s.advance dt).fnState f = 3 from hst, ht])
  obtain ⟨htimeout, -, hlast⟩ := (s.advance dt).fnEnd_shows g false f
  exact ⟨_, hexec, htimeout, State.fnEnd_state _ g false f, hlast,
    congrArg TickView.mode ((s.advance dt).fnEnd_tickView f g false)⟩

theorem exec_stopBandReached_idle (h : s.fnState f ≠ 3 ∨ (s.fn f).bandAt = none) :
    exec (.stopBandReached dt f) s = .next (s.advance dt) := by
  show execStopBandReached dt f s = _
  unfold execStopBandReached
  dsimp only
  split
  · split
    next b hband =>
      rcases h with hst | hnone
      · exact if_neg (by simp [show (s.advance dt).fnState f ≠ 3 from hst])
      · exact absurd (hband.symm.trans hnone) (Option.some_ne_none b)
    next => rfl
  · rfl

/-! #### SAT_TIMEOUT (R263) -/

theorem satTimeout_faults (k t₀ : Nat) (x : CellCfg) (hcell : s.cellCfg k = some x) (hfn : x.fn = f)
    (hcfg : tfind s.man.loop.fns f = some g) (hcauses : (s.fn f).causes = []) (hst : s.fnState f = 2)
    (hsat : x.satFaultMs ≠ 0) (hclamp : (s.cell k).clampAt = some t₀) (ht : t₀ + 1000000 * x.satFaultMs ≤ s.now + dt) :
    ∃ t, exec (.satTimeout dt k) s = .next t ∧ t.get R.MFN_FN_STAT_CAUSE f = 3 ∧ t.get R.MFN_FN_STAT_REARM_PENDING f = 0 ∧
      t.get R.MFN_FN_STAT_STOP_FAULT f = 1 ∧ (t.fn f).stopAt = s.now + dt ∧ t.fnState f = (if g.faultEnd then 4 else 3) ∧
      t.mode = s.mode := by
  have hexec : exec (.satTimeout dt k) s = .next ((s.advance dt).fnFault f g 3 k) := by
    show execSatTimeout dt k s = _
    unfold execSatTimeout
    dsimp only
    rw [show (s.advance dt).cellCfg k = some x from hcell]
    dsimp only
    rw [show ((s.advance dt).cell k).clampAt = some t₀ from hclamp, State.advance_man, hfn, hcfg]
    exact if_pos (by simp [hsat, ht])
  exact ⟨_, hexec, (s.advance dt).fnFault_shows f g k (.inr hst) hcauses (by decide)⟩

theorem exec_satTimeout_idle (k : Nat) (h : (s.cell k).clampAt = none) :
    exec (.satTimeout dt k) s = .next (s.advance dt) := by
  show execSatTimeout dt k s = _
  unfold execSatTimeout
  dsimp only
  split
  · rfl
  · rw [show ((s.advance dt).cell k).clampAt = none from h]

end

/-- Settles O37: a command by its source and by what the judgement finds, and each time limit by its lemma above; that a command whose
condition is not met only lets time pass is the model's choice (log 1). -/
theorem machineFunctions : Obligations.MachineFunctions := by
  unfold Obligations.MachineFunctions
  exact ⟨mfnCmds_point_accepted, fun dt fn tag p x s => mfnCmds_host_accepted dt fn tag x s p, mfnCmds_point_safe,
    mfnCmds_point_notActive, exec_mfnCmds_otherPoint, armTimeout_faults,
    fun dt f k t₀ x g s => satTimeout_faults dt f g s k t₀ x, exec_armTimeout_idle, fun dt k s => exec_satTimeout_idle dt s k,
    fun dt f b g s => stopBandReached_ends dt f g s b, exec_stopBandReached_idle, stopTimeout_ends, exec_stopTimeout_idle⟩

end Sys2Proof.Machine
end

section
set_option Elab.async false
/-!
PROOF of the statement of 95_what_each_step_holds.md about the queue (StepTakesTheFront), and that the statement of
14_safety_functions.md about the island's commands (IslandCommands) fails: its clause of a committed check value takes every state, and
the journal may already hold that very value.
-/

namespace Sys2Proof.Machine

open Sys2Proof

/-- Settles O1: the command in front runs on the queue's rest; that an empty queue leaves the state as it is, is the model's choice
(log 2). -/
theorem stepTakesTheFront : Obligations.StepTakesTheFront := by
  unfold Obligations.StepTakesTheFront
  exact ⟨fun _ _ _ => step_front rfl, fun _ hq => step_idle hq⟩

/-! ### A check value committed twice (R91, R347) -/

/-- READY in lock-out with an Installer session of key 7 over PCIe; SAFE_CV_ENTER holds the check value 9 of the SAFETY section, and the
journal item of that value waits already, from a first SAFE_CV_COMMIT. -/
def checkValueWaiting : State :=
  { (((State.reset.set R.MODE_STAT_MODE 2).set R.ROLE_STAT_SESSION Role.installer.code).set R.SAFE_STAT_STATE 3).set
      R.SAFE_CV_ENTER_CV 9 with
    role := { owner := .pcie, keyId := 7 }
    isl := { present := true }
    man := { safety := { given := true, crc := 9 } }
    mnf := { waiting := [⟨2, [9]⟩] } }

/-- The waiting item gives way to one of the same value. -/
theorem safeCvCommit_checkValueWaiting_mnf :
    (after checkValueWaiting (exec (.safeCvCommit 5 .pcie) checkValueWaiting)).mnf = checkValueWaiting.mnf := by decide +kernel

/-- Refutes O47: the clause of a committed check value says that the manifest store differs afterwards, and its hypotheses allow the
journal item of that value to wait already; it is replaced by its equal (log 174). -/
theorem not_islandCommands : ¬ Obligations.IslandCommands := by
  intro h
  obtain ⟨-, -, -, -, -, -, -, hcommit, -⟩ := h
  obtain ⟨t, ht, -, -, hmnf, -⟩ := hcommit 5 .pcie checkValueWaiting (by decide +kernel) rfl (by decide) (by decide) rfl (by decide)
  have hsame := safeCvCommit_checkValueWaiting_mnf
  rewrite [ht] at hsame
  exact hmnf hsame

end Sys2Proof.Machine
end

section
/-!
PROOF of the statements of 11_signal_chain.md to 20_register_map.md, the facts of the field table that their proofs share: the kernel decides
each of them once, and the proofs cite it by name.
-/

namespace Sys2Proof.Machine

open Sys2Proof

/-! ### Fields that the recorder, the alarm list, the pigeonholes and the interrupt logic do not write -/

/-- Arming is no event. -/
theorem armed_noEvent : loc R.IRQ_ARMED_ARMED 0 % 8388608 ∉ R.evtFlds.map fun f => loc f 0 := by decide +kernel

@[simp] theorem noteFld_ADC_CH_STAT_OVR : noteFld R.ADC_CH_STAT_OVR = false := by decide +kernel

@[simp] theorem noteFld_ADC_CH_STAT_STATE : noteFld R.ADC_CH_STAT_STATE = false := by decide +kernel

@[simp] theorem noteFld_CLP_CH_STAT_ALARM_CAUSE : noteFld R.CLP_CH_STAT_ALARM_CAUSE = false := by decide +kernel

@[simp] theorem noteFld_CLP_CH_STAT_COMPLIANCE : noteFld R.CLP_CH_STAT_COMPLIANCE = false := by decide +kernel

@[simp] theorem noteFld_CLP_CH_STAT_OPEN : noteFld R.CLP_CH_STAT_OPEN = false := by decide +kernel

@[simp] theorem noteFld_CLP_HART_STAT_ID_MISMATCH : noteFld R.CLP_HART_STAT_ID_MISMATCH = false := by decide +kernel

@[simp] theorem noteFld_CLP_HART_STAT_PAUSED : noteFld R.CLP_HART_STAT_PAUSED = false := by decide +kernel

@[simp] theorem noteFld_STEP_CH_STAT_STATE : noteFld R.STEP_CH_STAT_STATE = false := by decide +kernel

@[simp] theorem noteFld_TWIN_EVT_HANDOVER : noteFld R.TWIN_EVT_HANDOVER = false := by decide +kernel

@[simp] theorem noteFld_TWIN_PLAUS_STAT_ALARM : noteFld R.TWIN_PLAUS_STAT_ALARM = false := by decide +kernel

@[simp] theorem noteFld_TWIN_STAT_LANES : noteFld R.TWIN_STAT_LANES = false := by decide +kernel

@[simp] theorem noteFld_TWIN_STAT_STATE : noteFld R.TWIN_STAT_STATE = false := by decide +kernel

@[simp] theorem noteFld_CAN_ES_STAT_NEW : noteFld R.CAN_ES_STAT_NEW = false := by decide +kernel

@[simp] theorem noteFld_CAN_EVT_ES_NEW : noteFld R.CAN_EVT_ES_NEW = false := by decide +kernel

@[simp] theorem noteFld_CAN_MB_STAT_STATUS : noteFld R.CAN_MB_STAT_STATUS = false := by decide +kernel

@[simp] theorem noteFld_CAN_N2K_ADDR : noteFld R.CAN_N2K_ADDR = false := by decide +kernel

@[simp] theorem noteFld_CAN_N2K_LOSSES : noteFld R.CAN_N2K_LOSSES = false := by decide +kernel

@[simp] theorem noteFld_CAN_STAT_MODE : noteFld R.CAN_STAT_MODE = false := by decide +kernel

@[simp] theorem noteFld_CAN_STAT_NO_ACK : noteFld R.CAN_STAT_NO_ACK = false := by decide +kernel

end Sys2Proof.Machine
end

section
set_option Elab.async false
/-!
PROOF of the two statements of 11_signal_chain.md (ConverterResults, TriggersDuringBursts): the rules of a converter's own data, what a
flag and a result that becomes ready show and leave alone, and then each command.
-/

namespace Sys2Proof.Machine

open Sys2Proof

/-! ### The converters' own data -/

section
variable {ks : List Nat} {s t : State} {x : AdcSt}

/-- A frame over given data of the converters is a frame over the data the command leaves. -/
theorem Framed.ownAdc (h : Framed ks { s with adc := x } t) : Framed ks { s with adc := t.adc } t := by
  rewrite [State.of_plain_adc h.plain]
  exact h

/-- A channel's data is read in the converters' table and nowhere else. -/
theorem State.conv_of_adc (h : t.adc = s.adc) (n : Nat) : t.conv n = s.conv n := by
  unfold State.conv
  rw [h]

end

section
variable (s : State) (n : Nat) (v : ConvSt)

@[simp] theorem State.putConv_conv : (s.putConv n v).conv n = v := by
  unfold State.putConv State.conv tget
  simp

@[simp] theorem State.advance_conv (dt : Nat) : (s.advance dt).conv n = s.conv n := rfl

@[simp] theorem State.advance_convState (dt : Nat) : (s.advance dt).convState n = s.convState n := rfl

@[simp] theorem State.putConv_get (f : Fld) (b : Nat) : (s.putConv n v).get f b = s.get f b := rfl

/-! ### A flag of a channel (R274, R279) -/

section
variable (f e : Fld) (code : Nat) (item : Nat × Nat)

@[simp] theorem State.convFlag_adc : (s.convFlag n f e code item).adc = s.adc := by
  unfold State.convFlag
  split <;> simp

theorem State.convFlag_get {g : Fld} (b : Nat) (h : apartFrom [f, e] g = true) :
    (s.convFlag n f e code item).get g b = s.get g b := by
  have hn := noteFld_of_apartFrom h
  unfold State.convFlag
  split
  · rfl
  · rw [State.record_get _ _ _ hn, State.evt_get_ne _ _ _ hn (apartFrom_ne h (by simp)),
      State.get_set_ne _ _ _ _ (apartFrom_ne h (by simp))]

/-- The flag stands afterwards, whether it stood before or not. -/
theorem State.convFlag_stands (hf : noteFld f = false) (hfe : fkey f ≠ fkey e) (hw : f.width = 1) :
    (s.convFlag n f e code item).get f n = 1 := by
  unfold State.convFlag
  split
  next h => exact of_decide_eq_true h
  next =>
    rewrite [State.record_get _ _ _ hf, State.evt_get_ne _ _ _ hf hfe, State.get_set_same, hw]
    rfl

theorem State.convFlag_framed : Framed [loc f n, loc e 0] s (s.convFlag n f e code item) := by
  unfold State.convFlag
  exact ite_framed (.refl _ s) (State.record_framed _ _ (State.evt_framed _ _ _ (.inl (by simp))
    (set_framed _ _ _ _ (.inl (by simp)) (.refl _ s))))

end

/-! ### A result that becomes ready (R274, R275, R282) -/

/-- A channel's data with a result more, ready at `at_`. -/
def ConvSt.ready (v : ConvSt) (at_ : Nat) (res : Int) (flagged : Bool) (pm : Pm) : ConvSt :=
  { v with res := res, pm := pm, readyAt := some at_, updates := (v.updates + 1) % 65536, sum := v.sum + res, n := v.n + 1,
           flagged := v.flagged || flagged }

/-- The fields that a result which becomes ready may write. -/
def readyFlds : List Fld :=
  [R.ADC_CH_RES_RESULT, R.ADC_CH_RES_SIGN, R.ADC_CH_STAT_OVR, R.ADC_EVT_OVR, R.ADC_CH_STAT_CLIP, R.ADC_EVT_CLIP]

section
variable (c : ConvCfg) (res : Int) (clip ovr : Bool) (pm : Pm)

theorem State.convReady_conv :
    (s.convReady n c res clip ovr pm).conv n = (s.conv n).ready s.now res (clip || ovr) pm := by
  unfold State.convReady ConvSt.ready
  extract_lets v s₁ w s₂ s₃
  have h₃ : s₃.adc = s₁.adc := by
    simp only [s₃, s₂]
    split <;> simp
  have h : (if clip = true then s₃.convFlag n R.ADC_CH_STAT_CLIP R.ADC_EVT_CLIP 0x0D03 (3, w) else s₃).adc = s₁.adc := by
    split <;> simp [h₃]
  rewrite [State.conv_of_adc h]
  simp [s₁, v, Bool.or_assoc]


theorem State.convReady_get {g : Fld} (b : Nat) (h : apartFrom readyFlds g = true) :
    (s.convReady n c res clip ovr pm).get g b = s.get g b := by
  have hg (x : Fld) (hx : x ∈ readyFlds) : fkey g ≠ fkey x := apartFrom_ne h hx
  have hflag (u : State) (f e : Fld) (code : Nat) (item : Nat × Nat) (hf : f ∈ readyFlds) (he : e ∈ readyFlds) :
      (u.convFlag n f e code item).get g b = u.get g b :=
    u.convFlag_get n f e code item b (by simp [apartFrom, noteFld_of_apartFrom h, hg f hf, hg e he])
  unfold State.convReady
  extract_lets v s₁ w s₂ s₃
  have h₂ : s₂.get g b = s.get g b := by
    rewrite [State.get_set_ne _ _ _ _ (hg _ (by decide)), State.get_set_ne _ _ _ _ (hg _ (by decide))]
    rfl
  have h₃ : s₃.get g b = s.get g b := by
    refine Eq.trans ?_ h₂
    simp only [s₃]
    split
    · exact hflag _ _ _ _ _ (by decide) (by decide)
    · rfl
  refine Eq.trans ?_ h₃
  split
  · exact hflag _ _ _ _ _ (by decide) (by decide)
  · rfl

theorem State.convReady_shows :
    (s.convReady n c res clip ovr pm).get R.ADC_CH_RES_RESULT n = (res % 2 ^ 24).toNat ∧
    (s.convReady n c res clip ovr pm).get R.ADC_CH_RES_SIGN n = (if res < 0 then 255 else 0) ∧
    (s.convReady n c res clip ovr pm).get R.ADC_CH_STAT_OVR n = (if ovr then 1 else s.get R.ADC_CH_STAT_OVR n) ∧
    (clip = true → (s.convReady n c res clip ovr pm).get R.ADC_CH_STAT_CLIP n = 1) := by
  have hw : (res % 2 ^ 24).toNat % 2 ^ R.ADC_CH_RES_RESULT.width = (res % 2 ^ 24).toNat :=
    Nat.mod_eq_of_lt (by rewrite [show R.ADC_CH_RES_RESULT.width = 24 from rfl]; omega)
  have hsign : (if res < 0 then 255 else 0) % 2 ^ R.ADC_CH_RES_SIGN.width = if res < 0 then 255 else 0 := by split <;> rfl
  unfold State.convReady
  extract_lets v s₁ w s₂ s₃
  have hkeep (u : State) (code : Nat) (item : Nat × Nat) (b : Bool) {g : Fld} (h : apartFrom [R.ADC_CH_STAT_CLIP, R.ADC_EVT_CLIP] g = true) :
      (if b = true then u.convFlag n R.ADC_CH_STAT_CLIP R.ADC_EVT_CLIP code item else u).get g n = u.get g n := by
    split
    · exact u.convFlag_get n _ _ code item n h
    · rfl
  have hovr {g : Fld} (h : apartFrom [R.ADC_CH_STAT_OVR, R.ADC_EVT_OVR] g = true) : s₃.get g n = s₂.get g n := by
    simp only [s₃]
    split
    · exact s₂.convFlag_get n _ _ _ _ n h
    · rfl
  have h₂ : s₂.get R.ADC_CH_STAT_OVR n = s.get R.ADC_CH_STAT_OVR n := by
    simp (disch := decide) only [s₂, s₁, State.get_set_ne, State.putConv_get]
  refine ⟨?_, ?_, ?_, fun hclip => ?_⟩
  · rewrite [hkeep _ _ _ _ (by decide), hovr (by decide)]
    simp (disch := decide) only [s₂, State.get_set_ne, State.get_set_same]
    exact hw
  · rewrite [hkeep _ _ _ _ (by decide), hovr (by decide)]
    simp only [s₂, State.get_set_same]
    exact hsign
  · rewrite [hkeep _ _ _ _ (by decide), ← h₂]
    simp only [s₃]
    split
    · exact s₂.convFlag_stands n _ _ _ _ noteFld_ADC_CH_STAT_OVR (by decide) rfl
    · rfl
  · rewrite [if_pos hclip]
    exact s₃.convFlag_stands n _ _ _ _ (by decide) (by decide) rfl

end
end

/-! ### A result of the device's own balls (R283) -/

section
variable (s : State) (n : Nat) (c : ConvCfg) (r : Int × Bool) (ovr : Bool)

theorem State.convOwn_follows (h : s.follows = true) : s.convOwn n c r ovr = s.putConv n { s.conv n with own := r.1 } :=
  if_pos h

theorem State.sent_apart (b : Nat) : ∃ w, s.sent b = s.putTwin w := by
  unfold State.sent
  split
  · exact ⟨_, rfl⟩
  · exact ⟨s.twin, rfl⟩

/-- A device that follows no other makes the result ready, its data and registers as `convReady` leaves them. -/
theorem State.convOwn_leads (h : s.follows = false) : ∃ w, s.convOwn n c r ovr =
    (s.putTwin w).convReady n c r.1 r.2 ovr (pmOf (s.ns - convSkew n)) := by
  obtain ⟨w, hw⟩ := s.sent_apart 12
  unfold State.convOwn
  rewrite [h, hw]
  exact ⟨w, rfl⟩

end

/-! ### CONVERTER_RESULT and SETTLING_DONE (R274, R275, R278, R283) -/

section
variable (dt n : Nat) (k : Int) (o : Bool) (c : ConvCfg) (s : State) (hcfg : tfind s.man.adc.chs n = some c)

section
variable (hkind : c.kind ≤ 1) (hrun : s.convState n = 2)
include hcfg hkind hrun

theorem exec_converterResult_run : exec (.converterResult dt n k o) s =
    .next ((s.advance dt).convOwn n c (convResult c (s.convSlow n) k) o) := by
  show execConverterResult dt n k o s = _
  unfold execConverterResult
  dsimp only
  rewrite [show tfind (s.advance dt).man.adc.chs n = some c from hcfg]
  exact if_pos (by simp [hrun, hkind])

theorem converterResult_ready (hlead : s.follows = false) :
    ∃ t, exec (.converterResult dt n k o) s = .next t ∧ (t.conv n).res = (convResult c (s.convSlow n) k).1 ∧
      (t.conv n).pm = pmOf ((s.advance dt).ns - convSkew n) ∧ (t.conv n).readyAt = some (s.now + dt) ∧
      (t.conv n).updates = ((s.conv n).updates + 1) % 65536 ∧
      (t.conv n).sum = (s.conv n).sum + (convResult c (s.convSlow n) k).1 ∧
      t.get R.ADC_CH_RES_RESULT n = ((convResult c (s.convSlow n) k).1 % 2 ^ 24).toNat ∧
      t.get R.ADC_CH_RES_SIGN n = (if (convResult c (s.convSlow n) k).1 < 0 then 255 else 0) ∧
      t.get R.ADC_CH_STAT_OVR n = (if o then 1 else s.get R.ADC_CH_STAT_OVR n) ∧
      ((convResult c (s.convSlow n) k).2 = true → t.get R.ADC_CH_STAT_CLIP n = 1) ∧ t.convState n = 2 := by
  have hexec := exec_converterResult_run dt n k o c s hcfg hkind hrun
  obtain ⟨w, hw⟩ := (s.advance dt).convOwn_leads n c (convResult c (s.convSlow n) k) o hlead
  rewrite [hw] at hexec
  obtain ⟨hres, hsign, hovr, hclip⟩ := ((s.advance dt).putTwin w).convReady_shows n c
    (convResult c (s.convSlow n) k).1 (convResult c (s.convSlow n) k).2 o (pmOf ((s.advance dt).ns - convSkew n))
  refine ⟨_, hexec, ?_, ?_, ?_, ?_, ?_, hres, hsign, hovr, hclip, ?_⟩
  iterate 5 exact congrArg _ (State.convReady_conv _ _ _ _ _ _ _)
  exact (State.convReady_get _ _ _ _ _ _ _ n (by decide)).trans hrun

theorem converterResult_own (hfollow : s.follows = true) :
    ∃ t, exec (.converterResult dt n k o) s = .next t ∧
      t.conv n = { s.conv n with own := (convResult c (s.convSlow n) k).1 } ∧
      Framed [] { s.advance dt with adc := t.adc } t :=
  ⟨_, (exec_converterResult_run dt n k o c s hcfg hkind hrun).trans
    (congrArg _ (State.convOwn_follows _ _ _ _ _ hfollow)), State.putConv_conv _ _ _, .refl _ _⟩

end

theorem exec_converterResult_idle (h : tfind s.man.adc.chs n = none ∨ s.convState n ≠ 2) :
    exec (.converterResult dt n k o) s = .next (s.advance dt) := by
  show execConverterResult dt n k o s = _
  unfold execConverterResult
  dsimp only
  split
  next c hcfg =>
    have hst : (s.advance dt).convState n ≠ 2 := h.resolve_left fun hnone => Option.some_ne_none c (hcfg.symm.trans hnone)
    exact if_neg (by simp [show s.convState n ≠ 2 from hst])
  next => rfl

include hcfg

theorem settlingDone_ready (hst : s.convState n = 1) (hdue : (s.conv n).settleDue = false)
    (hat : (s.conv n).settleAt + convSettle c.preset + convSkew n ≤ s.now + dt) (hlead : s.follows = false) :
    ∃ t, exec (.settlingDone dt n k) s = .next t ∧ t.convState n = 2 ∧ (t.conv n).res = (convResult c (s.convSlow n) k).1 ∧
      (t.conv n).readyAt = some (s.now + dt) ∧ (t.conv n).updates = ((s.conv n).updates + 1) % 65536 := by
  have hexec : exec (.settlingDone dt n k) s =
      .next (((s.advance dt).set R.ADC_CH_STAT_STATE 2 n).convOwn n c (convResult c (s.convSlow n) k) false) := by
    show execSettlingDone dt n k s = _
    unfold execSettlingDone
    dsimp only
    rewrite [show tfind (s.advance dt).man.adc.chs n = some c from hcfg]
    exact if_pos (by simp [hst, hdue, hat])
  have hfollows : ((s.advance dt).set R.ADC_CH_STAT_STATE 2 n).follows = false := by
    unfold State.follows State.isPaired State.isActive State.flag at hlead ⊢
    simpa (disch := decide) only [State.get_set_ne, State.advance_get] using hlead
  obtain ⟨w, hw⟩ := State.convOwn_leads _ n c (convResult c (s.convSlow n) k) false hfollows
  rewrite [hw] at hexec
  refine ⟨_, hexec, ?_, ?_, ?_, ?_⟩
  · exact (State.convReady_get _ _ _ _ _ _ _ n (by decide)).trans
      (State.get_set_same (s.advance dt) R.ADC_CH_STAT_STATE 2 n)
  iterate 3 exact congrArg _ (State.convReady_conv _ _ _ _ _ _ _)

theorem exec_settlingDone_idle (h : s.convState n ≠ 1 ∨ (s.conv n).settleDue = true ∨
      s.now + dt < (s.conv n).settleAt + convSettle c.preset + convSkew n) :
    exec (.settlingDone dt n k) s = .next (s.advance dt) := by
  show execSettlingDone dt n k s = _
  unfold execSettlingDone
  dsimp only
  rewrite [show tfind (s.advance dt).man.adc.chs n = some c from hcfg]
  refine if_neg fun hall => ?_
  simp only [Bool.and_eq_true, Bool.not_eq_true', decide_eq_true_eq] at hall
  obtain ⟨⟨hst, hdue⟩, hat⟩ := hall
  rcases h with hst' | hdue' | hat'
  · exact hst' hst
  · exact absurd (hdue'.symm.trans hdue) (by decide)
  · exact absurd hat (Nat.not_le.2 hat')

end

/-! ### BITSTREAM_FAULT and BITSTREAM_RECOVERY (R278, R279) -/

section
variable (dt n q : Nat) (c : ConvCfg) (s : State)

theorem bitstreamFault_faults (hcfg : tfind s.man.adc.chs n = some c) (hkind : c.kind = 1) (hq : 4096 ≤ q)
    (hst : s.convState n ∈ [1, 2]) :
    ∃ t, exec (.bitstreamFault dt n q) s = .next t ∧ t.convState n = 3 ∧ t.get R.ADC_CH_STAT_OVR n = 1 ∧
      t.get R.ADC_EVT_FAULT = 1 ∧
      Framed [loc R.ADC_CH_STAT_STATE n, loc R.ADC_CH_STAT_OVR n, loc R.ADC_EVT_OVR 0, loc R.ADC_EVT_FAULT 0] (s.advance dt) t := by
  have hst' : s.convState n = 1 ∨ s.convState n = 2 := by simpa using hst
  have hexec : exec (.bitstreamFault dt n q) s =
      .next (((((s.advance dt).set R.ADC_CH_STAT_STATE 3 n).convFlag n R.ADC_CH_STAT_OVR R.ADC_EVT_OVR 0x0D02 (1, c.preset)).evt
        R.ADC_EVT_FAULT).record { code := 0x0D01, source := n, items := [(1, n), (1, 3)] }) := by
    show execBitstreamFault dt n q s = _
    unfold execBitstreamFault
    dsimp only
    rewrite [show tfind (s.advance dt).man.adc.chs n = some c from hcfg]
    exact if_pos (by rcases hst' with h | h <;> simp [hkind, hq, h])
  refine ⟨_, hexec, ?_, ?_, ?_, ?_⟩
  · unfold State.convState
    rewrite [State.record_get _ _ _ noteFld_ADC_CH_STAT_STATE, State.evt_get_ne _ _ _ noteFld_ADC_CH_STAT_STATE (by decide),
      State.convFlag_get _ _ _ _ _ _ n (by decide), State.get_set_same]
    rfl
  · rw [State.record_get _ _ _ noteFld_ADC_CH_STAT_OVR, State.evt_get_ne _ _ _ noteFld_ADC_CH_STAT_OVR (by decide),
      State.convFlag_stands _ _ _ _ _ _ noteFld_ADC_CH_STAT_OVR (by decide) rfl]
  · rewrite [State.record_get _ _ _ (by decide), State.evt_get_same _ _ _ (by decide)]
    rfl
  · refine State.record_framed _ _ (State.evt_framed _ _ _ (.inl (by simp)) (.trans ?_ ((State.convFlag_framed _ _ _ _ _ _).mono ?_)))
    · exact set_framed _ _ _ _ (.inl (by simp)) (.refl _ _)
    · simp

theorem exec_bitstreamFault_short (hq : q < 4096) : exec (.bitstreamFault dt n q) s = .next (s.advance dt) := by
  show execBitstreamFault dt n q s = _
  unfold execBitstreamFault
  dsimp only
  split
  · exact if_neg (by simp [Nat.not_le.2 hq])
  · rfl

theorem bitstreamRecovery_settles (hst : s.convState n = 3) (hq : 1000000 ≤ q) :
    ∃ t, exec (.bitstreamRecovery dt n q) s = .next t ∧ t.convState n = 1 ∧
      t.conv n = { s.conv n with settleDue := true } ∧ t.get R.ADC_EVT_RECOVERED = 1 ∧
      Framed [loc R.ADC_CH_STAT_STATE n, loc R.ADC_EVT_RECOVERED 0] { s.advance dt with adc := t.adc } t := by
  have hexec : exec (.bitstreamRecovery dt n q) s =
      .next (((((s.advance dt).set R.ADC_CH_STAT_STATE 1 n).putConv n { s.conv n with settleDue := true }).evt
        R.ADC_EVT_RECOVERED).record { code := 0x0D01, source := n, items := [(1, n), (1, 1)] }) :=
    if_pos (by simp [hst, hq])
  refine ⟨_, hexec, ?_, ?_, ?_, ?_⟩
  · unfold State.convState
    rewrite [State.record_get _ _ _ noteFld_ADC_CH_STAT_STATE, State.evt_get_ne _ _ _ noteFld_ADC_CH_STAT_STATE (by decide), State.putConv_get,
      State.get_set_same]
    rfl
  · exact (State.conv_of_adc ((State.record_adc _ _).trans (State.evt_adc _ _ _)) n).trans (State.putConv_conv _ _ _)
  · rewrite [State.record_get _ _ _ (by decide), State.evt_get_same _ _ _ (by decide)]
    rfl
  · refine Framed.ownAdc (x := (s.putConv n { s.conv n with settleDue := true }).adc)
      (State.record_framed _ _ (State.evt_framed _ _ _ (.inl (by simp)) ?_))
    exact (set_framed (s.advance dt) R.ADC_CH_STAT_STATE 1 n (.inl (by simp)) (.refl _ _)).withAdc _

theorem exec_bitstreamRecovery_idle (h : s.convState n ≠ 3 ∨ q < 1000000) :
    exec (.bitstreamRecovery dt n q) s = .next (s.advance dt) := by
  refine if_neg fun hall => ?_
  simp only [Bool.and_eq_true, decide_eq_true_eq] at hall
  exact h.elim (fun hst => hst hall.1) (fun hq => absurd hall.2 (Nat.not_le.2 hq))

end

/-! ### SAR bursts (R280, R281) -/

/-- What a trigger during a burst leaves: the count, the flag, the event, the record. -/
def State.triggerIgnored (s : State) (n : Nat) (e : Ev) : State :=
  (((s.putConv n { s.conv n with ignored := (s.conv n).ignored + 1 }).set R.ADC_CH_STAT_OVERRUN 1 n).evt R.ADC_EVT_OVERRUN).record e

section
variable (s : State) (n : Nat) (e : Ev)

theorem State.triggerIgnored_get {f : Fld} (b : Nat) (h : apartFrom [R.ADC_CH_STAT_OVERRUN, R.ADC_EVT_OVERRUN] f = true) :
    (s.triggerIgnored n e).get f b = s.get f b := by
  have hn := noteFld_of_apartFrom h
  unfold State.triggerIgnored
  rewrite [State.record_get _ _ _ hn, State.evt_get_ne _ _ _ hn (apartFrom_ne h (by simp)),
    State.get_set_ne _ _ _ _ (apartFrom_ne h (by simp))]
  rfl

theorem State.triggerIgnored_follows : (s.triggerIgnored n e).follows = s.follows := by
  unfold State.follows State.isPaired State.isActive State.flag
  rw [s.triggerIgnored_get n e 0 (by decide), s.triggerIgnored_get n e 0 (by decide)]

theorem State.triggerIgnored_conv : (s.triggerIgnored n e).conv n = { s.conv n with ignored := (s.conv n).ignored + 1 } :=
  (State.conv_of_adc ((State.record_adc _ _).trans (State.evt_adc _ _ _)) n).trans (State.putConv_conv _ _ _)

theorem State.triggerIgnored_shows : (s.triggerIgnored n e).get R.ADC_CH_STAT_OVERRUN n = 1 ∧
    (s.triggerIgnored n e).get R.ADC_EVT_OVERRUN = 1 := by
  unfold State.triggerIgnored
  rewrite [State.record_get _ _ _ (by decide), State.evt_get_ne _ _ _ (by decide) (by decide), State.get_set_same,
    State.record_get _ _ _ (by decide), State.evt_get_same _ _ _ (by decide)]
  exact ⟨rfl, rfl⟩

theorem State.triggerIgnored_framed : Framed [loc R.ADC_CH_STAT_OVERRUN n, loc R.ADC_EVT_OVERRUN 0]
    { s with adc := (s.triggerIgnored n e).adc } (s.triggerIgnored n e) :=
  Framed.ownAdc (x := (s.putConv n { s.conv n with ignored := (s.conv n).ignored + 1 }).adc)
    (State.record_framed _ _ (State.evt_framed _ _ _ (.inl (by simp)) (set_framed _ _ _ _ (.inl (by simp)) (.refl _ _))))

end

section
variable (dt n : Nat) (c : ConvCfg) (s : State) (hcfg : tfind s.man.adc.chs n = some c)
include hcfg

theorem exec_sarTrigger_other (h : c.kind ≠ 2 ∨ s.convState n ≠ 2) :
    exec (.sarTrigger dt n) s = .next (s.advance dt) := by
  show Host.Outcome.next ((s.advance dt).sarTrigger n) = _
  unfold State.sarTrigger
  rewrite [show tfind (s.advance dt).man.adc.chs n = some c from hcfg]
  exact congrArg _ (if_pos (by rcases h with h | h <;> simp [h]))

section
variable (hkind : c.kind = 2) (hrun : s.convState n = 2)
include hkind hrun

theorem sarTrigger_starts (hidle : (s.conv n).burstAt = none) :
    ∃ t, exec (.sarTrigger dt n) s = .next t ∧ t.conv n = { s.conv n with burstAt := some (s.now + dt) } ∧
      Framed [] { s.advance dt with adc := t.adc } t := by
  have hexec : (s.advance dt).sarTrigger n = (s.advance dt).putConv n { s.conv n with burstAt := some (s.now + dt) } := by
    unfold State.sarTrigger
    rewrite [show tfind (s.advance dt).man.adc.chs n = some c from hcfg]
    dsimp only
    rewrite [if_neg (by simp [hkind, hrun]), if_neg]
    · rfl
    · simp [hidle]
  exact ⟨_, congrArg Host.Outcome.next hexec, State.putConv_conv _ _ _, .refl _ _⟩

theorem State.sarTrigger_ignored {b : Nat} (hburst : (s.conv n).burstAt = some b) :
    ∃ e : Ev, s.sarTrigger n = s.triggerIgnored n e := by
  unfold State.sarTrigger
  rewrite [hcfg]
  dsimp only
  rewrite [if_neg (by simp [hkind, hrun]), if_pos (by simp [hburst])]
  exact ⟨_, rfl⟩

end

section
variable (l : List Int) {b : Nat} (hburst : (s.conv n).burstAt = some b)
include hburst

/-- A burst that has run its time ends with its sum as the result. -/
theorem exec_sarResult_done (hat : b + 2 ^ c.avgLog2 * 200 + 40 ≤ s.now + dt) (hlen : l.length = 2 ^ c.avgLog2) :
    exec (.sarResult dt n l) s = .next (((s.advance dt).putConv n { s.conv n with burstAt := none }).convOwn n c
      (sarValue c.avgLog2 l, sarClip l) false) := by
  show execSarResult dt n l s = _
  unfold execSarResult
  dsimp only
  rewrite [show tfind (s.advance dt).man.adc.chs n = some c from hcfg]
  dsimp only
  rewrite [show ((s.advance dt).conv n).burstAt = some b from hburst]
  exact if_pos (by simp [hat, hlen])

theorem exec_sarResult_running (hat : s.now + dt < b + 2 ^ c.avgLog2 * 200 + 40) :
    exec (.sarResult dt n l) s = .next (s.advance dt) := by
  show execSarResult dt n l s = _
  unfold execSarResult
  dsimp only
  rewrite [show tfind (s.advance dt).man.adc.chs n = some c from hcfg]
  dsimp only
  rewrite [show ((s.advance dt).conv n).burstAt = some b from hburst]
  exact if_neg (by simp [Nat.not_le.2 hat])

theorem sarResult_ready (hat : b + 2 ^ c.avgLog2 * 200 + 40 ≤ s.now + dt) (hlen : l.length = 2 ^ c.avgLog2)
    (hlead : s.follows = false) :
    ∃ t, exec (.sarResult dt n l) s = .next t ∧ (t.conv n).burstAt = none ∧ (t.conv n).res = l.sum * 4096 / 2 ^ c.avgLog2 ∧
      (t.conv n).readyAt = some (s.now + dt) ∧ (sarClip l = true → t.get R.ADC_CH_STAT_CLIP n = 1) ∧
      t.get R.ADC_CH_RES_RESULT n = ((l.sum * 4096 / 2 ^ c.avgLog2) % 2 ^ 24).toNat := by
  have hexec := exec_sarResult_done dt n c s hcfg l hburst hat hlen
  obtain ⟨w, hw⟩ := ((s.advance dt).putConv n { s.conv n with burstAt := none }).convOwn_leads n c
    (sarValue c.avgLog2 l, sarClip l) false hlead
  rewrite [hw] at hexec
  obtain ⟨hres, -, -, hclip⟩ := (((s.advance dt).putConv n { s.conv n with burstAt := none }).putTwin w).convReady_shows
    n c (sarValue c.avgLog2 l) (sarClip l) false (pmOf ((s.advance dt).ns - convSkew n))
  have hconv := (((s.advance dt).putConv n { s.conv n with burstAt := none }).putTwin w).convReady_conv
    n c (sarValue c.avgLog2 l) (sarClip l) false (pmOf ((s.advance dt).ns - convSkew n))
  refine ⟨_, hexec, ?_, congrArg ConvSt.res hconv, congrArg ConvSt.readyAt hconv, hclip, hres⟩
  refine (congrArg ConvSt.burstAt hconv).trans ?_
  exact congrArg ConvSt.burstAt (State.putConv_conv (s.advance dt) n { s.conv n with burstAt := none })

end
end

/-! ### VREF_CHECK (R272) -/

section
variable (dt : Nat) (d : Rat) (s : State)

theorem vrefCheck_changes (h : decide (2 / 100 < absR d) ≠ s.adc.refFault) :
    ∃ t, exec (.vrefCheck dt d) s = .next t ∧ t.adc.refFault = decide (2 / 100 < absR d) ∧
      t.get R.ADC_STAT_REF_OK = (if 2 / 100 < absR d then 0 else 1) ∧ t.get R.ADC_EVT_REF = 1 ∧
      Framed (regKeys 0 [R.ADC_STAT_REF_OK, R.ADC_EVT_REF]) { s.advance dt with adc := t.adc } t := by
  have hok : (if (!decide (2 / 100 < absR d)) = true then 1 else 0) % 2 ^ R.ADC_STAT_REF_OK.width =
      if 2 / 100 < absR d then 0 else 1 := by split <;> simp_all [show R.ADC_STAT_REF_OK.width = 1 from rfl]
  refine ⟨_, if_neg h, ?_, ?_, ?_, ?_⟩
  · simp
  · rewrite [State.record_get _ _ _ (by decide), State.evt_get_ne _ _ _ (by decide) (by decide)]
    exact (State.get_set_same _ _ _ _).trans hok
  · rewrite [State.record_get _ _ _ (by decide), State.evt_get_same _ _ _ (by decide)]
    rfl
  · refine Framed.ownAdc (x := { s.adc with refFault := decide (2 / 100 < absR d) })
      (State.record_framed _ _ (State.evt_framed _ _ _ (.inl (by simp [regKeys])) ?_))
    exact (set_framed (s.advance dt) R.ADC_STAT_REF_OK _ 0 (.inl (by simp [regKeys])) (.refl _ _)).withAdc _

theorem vrefCheck_same (h : decide (2 / 100 < absR d) = s.adc.refFault) :
    ∃ t, exec (.vrefCheck dt d) s = .next t ∧ t.get R.ADC_STAT_REF_OK = (if 2 / 100 < absR d then 0 else 1) ∧
      Framed [loc R.ADC_STAT_REF_OK 0] (s.advance dt) t := by
  have hok : (if (!decide (2 / 100 < absR d)) = true then 1 else 0) % 2 ^ R.ADC_STAT_REF_OK.width =
      if 2 / 100 < absR d then 0 else 1 := by split <;> simp_all [show R.ADC_STAT_REF_OK.width = 1 from rfl]
  refine ⟨_, if_pos h, (State.get_set_same _ _ _ _).trans hok, ?_⟩
  rewrite [h]
  exact set_framed (s.advance dt) _ _ _ (.inl (by simp)) (.refl _ _)

end

/-- Settles O39: each clause is the lemma of its command above. That a command whose condition is not met only lets time pass is the
model's choice (log 1), and so is what a filter's output is rounded to (log 121). -/
theorem converterResults : Obligations.ConverterResults := by
  unfold Obligations.ConverterResults
  exact ⟨converterResult_ready, converterResult_own, exec_converterResult_idle, settlingDone_ready, exec_settlingDone_idle,
    bitstreamFault_faults, exec_bitstreamFault_short, bitstreamRecovery_settles, exec_bitstreamRecovery_idle,
    sarTrigger_starts, exec_sarTrigger_other,
    fun dt n b l c s hcfg hb => sarResult_ready dt n c s hcfg l hb, fun dt n b l c s hcfg hb => exec_sarResult_running dt n c s hcfg l hb,
    vrefCheck_changes, vrefCheck_same⟩

/-! ### A trigger during a burst (R281) -/

section
variable (dt n d b : Nat) (l : List Int) (c : ConvCfg) (s : State)

/-- What the end of a burst shows depends on the channel's data but for its count of ignored triggers. -/
theorem State.burstEnd_apart_ignored {a u : State} (r : Int × Bool) (hnow : u.now = a.now) (hns : u.ns = a.ns)
    (hfollows : u.follows = a.follows) (hres : u.get R.ADC_CH_RES_RESULT n = a.get R.ADC_CH_RES_RESULT n) (k : Nat)
    (hconv : u.conv n = { a.conv n with ignored := k }) :
    let u' := (u.putConv n { u.conv n with burstAt := none }).convOwn n c r false
    let a' := (a.putConv n { a.conv n with burstAt := none }).convOwn n c r false
    (u'.conv n).burstAt = none ∧ { u'.conv n with ignored := 0 } = { a'.conv n with ignored := 0 } ∧
      u'.get R.ADC_CH_RES_RESULT n = a'.get R.ADC_CH_RES_RESULT n := by
  have hfollow (w : State) (v : ConvSt) : (w.putConv n v).follows = w.follows := rfl
  dsimp only
  cases h : a.follows
  case true =>
    rewrite [State.convOwn_follows _ _ _ _ _ ((hfollow u _).trans (hfollows.trans h)),
      State.convOwn_follows _ _ _ _ _ ((hfollow a _).trans h)]
    simp only [State.putConv_conv, State.putConv_get, hconv, hres, and_self]
  case false =>
    obtain ⟨w, hw⟩ := (u.putConv n { u.conv n with burstAt := none }).convOwn_leads n c r false
      ((hfollow u _).trans (hfollows.trans h))
    obtain ⟨w', hw'⟩ := (a.putConv n { a.conv n with burstAt := none }).convOwn_leads n c r false ((hfollow a _).trans h)
    have hput (x : State) (v : ConvSt) (w : TwinSt) : ((x.putConv n v).putTwin w).conv n = v := State.putConv_conv x n v
    rewrite [hw, hw', State.convReady_conv, State.convReady_conv, (State.convReady_shows _ _ _ _ _ _ _).1,
      (State.convReady_shows _ _ _ _ _ _ _).1, hput, hput, hconv]
    unfold ConvSt.ready
    refine ⟨rfl, ?_, rfl⟩
    rewrite [show ((u.putConv n { a.conv n with ignored := k, burstAt := none }).putTwin w).now = a.now from hnow,
      show (u.putConv n { a.conv n with ignored := k, burstAt := none }).ns = a.ns from hns]
    rfl

/-- The end of a burst, with an ignored trigger before it and without. -/
theorem sarResult_apart_ignored {a u : State} (hcfg : tfind a.man.adc.chs n = some c) (hburst : (a.conv n).burstAt = some b)
    (hat : b + 2 ^ c.avgLog2 * 200 + 40 ≤ a.now + d) (hlen : l.length = 2 ^ c.avgLog2) (hman : u.man = a.man)
    (hnow : u.now = a.now) (htime : u.time = a.time) (hfollows : u.follows = a.follows)
    (hres : u.get R.ADC_CH_RES_RESULT n = a.get R.ADC_CH_RES_RESULT n) (k : Nat)
    (hconv : u.conv n = { a.conv n with ignored := k }) :
    (match exec (.sarResult d n l) u, exec (.sarResult d n l) a with
      | .next x, .next y => decide ((x.conv n).burstAt = none ∧ { x.conv n with ignored := 0 } = { y.conv n with ignored := 0 } ∧
          x.get R.ADC_CH_RES_RESULT n = y.get R.ADC_CH_RES_RESULT n)
      | _, _ => false) = true := by
  have hnow' : (u.advance d).now = (a.advance d).now := by simp [hnow]
  have hns : (u.advance d).ns = (a.advance d).ns := by simp only [State.ns, State.advance, htime]
  rewrite [exec_sarResult_done d n c u (hman ▸ hcfg) l (hconv ▸ hburst) (hnow ▸ hat) hlen,
    exec_sarResult_done d n c a hcfg l hburst hat hlen]
  exact decide_eq_true (State.burstEnd_apart_ignored n c (sarValue c.avgLog2 l, sarClip l) hnow' hns hfollows hres k hconv)

theorem sarTrigger_during_burst (hcfg : tfind s.man.adc.chs n = some c) (hkind : c.kind = 2) (hrun : s.convState n = 2)
    (hburst : (s.conv n).burstAt = some b) (hat : b + 2 ^ c.avgLog2 * 200 + 40 ≤ s.now + dt + d)
    (hlen : l.length = 2 ^ c.avgLog2) :
    ∃ t, exec (.sarTrigger dt n) s = .next t ∧ t.get R.ADC_CH_STAT_OVERRUN n = 1 ∧ t.get R.ADC_EVT_OVERRUN = 1 ∧
      t.conv n = { s.conv n with ignored := (s.conv n).ignored + 1 } ∧
      Framed [loc R.ADC_CH_STAT_OVERRUN n, loc R.ADC_EVT_OVERRUN 0] { s.advance dt with adc := t.adc } t ∧
      (match exec (.sarResult d n l) t, exec (.sarResult d n l) (s.advance dt) with
        | .next u, .next v => decide ((u.conv n).burstAt = none ∧ { u.conv n with ignored := 0 } = { v.conv n with ignored := 0 } ∧
            u.get R.ADC_CH_RES_RESULT n = v.get R.ADC_CH_RES_RESULT n)
        | _, _ => false) = true := by
  obtain ⟨e, he⟩ := (s.advance dt).sarTrigger_ignored n c hcfg hkind hrun hburst
  have hexec : exec (.sarTrigger dt n) s = .next ((s.advance dt).sarTrigger n) := rfl
  rewrite [he] at hexec
  obtain ⟨hflag, hevt⟩ := (s.advance dt).triggerIgnored_shows n e
  refine ⟨_, hexec, hflag, hevt, State.triggerIgnored_conv _ n e, State.triggerIgnored_framed _ n e, ?_⟩
  exact sarResult_apart_ignored n d b l c hcfg hburst hat hlen (by simp [State.triggerIgnored]; rfl)
    (by simp [State.triggerIgnored]; rfl) (by simp [State.triggerIgnored]; rfl) (State.triggerIgnored_follows _ n e)
    (State.triggerIgnored_get _ n e n (by decide)) _ (State.triggerIgnored_conv _ n e)

end

/-- Settles O38: a trigger during a burst is counted, and the end of the burst does not see the count. -/
theorem triggersDuringBursts : Obligations.TriggersDuringBursts := by
  unfold Obligations.TriggersDuringBursts
  exact sarTrigger_during_burst

end Sys2Proof.Machine
end

section
set_option Elab.async false
/-!
PROOF of the statement of 12_current_loops.md about current loops (CurrentLoops): the rules of a channel's own data, what an alarm level
shows and leaves alone, and then each command.
-/

namespace Sys2Proof.Machine

open Sys2Proof

/-! ### The current loops' own data -/

section
variable {ks : List Nat} {s t : State} {x : ClpAll}

theorem Framed.withClp (x : ClpAll) (h : Framed ks s t) : Framed ks { s with clp := x } { t with clp := x } :=
  ⟨congrArg (fun u : State => { u with clp := x }) h.plain, h.regs⟩

/-- A frame over given data of the current loops is a frame over the data the command leaves. -/
theorem Framed.ownClp (h : Framed ks { s with clp := x } t) : Framed ks { s with clp := t.clp } t := by
  rewrite [State.of_plain_clp h.plain]
  exact h

/-- A channel's data is read in the channels' table and nowhere else. -/
theorem State.clpCh_of_clp (h : t.clp = s.clp) (n : Nat) : t.clpCh n = s.clpCh n := by
  unfold State.clpCh
  rw [h]

end

section
variable (s : State) (n : Nat) (v : ClpSt)

@[simp] theorem State.putClp_clpCh : (s.putClp n v).clpCh n = v := by
  unfold State.putClp State.clpCh tget
  simp

@[simp] theorem State.putClp_get (f : Fld) (b : Nat) : (s.putClp n v).get f b = s.get f b := rfl

@[simp] theorem State.advance_clpCh (dt : Nat) : (s.advance dt).clpCh n = s.clpCh n := rfl

theorem State.putClp_framed {ks : List Nat} {t : State} (h : Framed ks s t) :
    Framed ks { s with clp := (t.putClp n v).clp } (t.putClp n v) := h.withClp _

/-! ### Alarm levels (R291) -/

section
variable (cause : Nat) (high : Bool)

@[simp] theorem State.clpAlarm_clp : (s.clpAlarm n cause high).clp = s.clp := by
  unfold State.clpAlarm
  extract_lets was s₁ s₂
  have h₂ : s₂.clp = s.clp := by
    simp only [s₂]
    split <;> simp [s₁, State.setB_eq]
  split <;> simp [h₂]

theorem State.clpAlarm_get {f : Fld} (b : Nat)
    (h : apartFrom [R.CLP_CH_STAT_ALARM_CAUSE, R.CLP_CH_STAT_ALARM_HIGH, R.CLP_EVT_ALARM] f = true) :
    (s.clpAlarm n cause high).get f b = s.get f b := by
  have hn := noteFld_of_apartFrom h
  unfold State.clpAlarm
  extract_lets was s₁ s₂
  have h₁ : s₁.get f b = s.get f b := by
    simp only [s₁]
    rw [State.setB_eq, State.get_set_ne _ _ _ _ (apartFrom_ne h (by simp)), State.get_set_ne _ _ _ _ (apartFrom_ne h (by simp))]
  have h₂ : s₂.get f b = s.get f b := by
    simp only [s₂]
    split
    · exact h₁
    · rw [State.evt_get_ne _ _ _ hn (apartFrom_ne h (by simp)), h₁]
  split
  · rfl
  · rw [State.record_get _ _ _ hn, h₂]

/-- The cause shows afterwards, and a new cause with the level of its current. -/
theorem State.clpAlarm_shows (hc : cause < 4) : (s.clpAlarm n cause high).get R.CLP_CH_STAT_ALARM_CAUSE n = cause ∧
    (s.get R.CLP_CH_STAT_ALARM_CAUSE n ≠ cause →
      (s.clpAlarm n cause high).get R.CLP_CH_STAT_ALARM_HIGH n = if cause ≠ 0 && high then 1 else 0) := by
  have hcause : cause % 2 ^ R.CLP_CH_STAT_ALARM_CAUSE.width = cause := Nat.mod_eq_of_lt hc
  have hhigh : (if (cause ≠ 0 && high) = true then 1 else 0) % 2 ^ R.CLP_CH_STAT_ALARM_HIGH.width =
      if (cause ≠ 0 && high) = true then 1 else 0 := by split <;> rfl
  unfold State.clpAlarm
  extract_lets was s₁ s₂
  have h₂ (f : Fld) (hn : noteFld f = false) (hf : fkey f ≠ fkey R.CLP_EVT_ALARM) : s₂.get f n = s₁.get f n := by
    simp only [s₂]
    split
    · rfl
    · exact State.evt_get_ne _ _ _ hn hf
  split
  next h => exact ⟨h.symm, fun hne => absurd h.symm hne⟩
  next h =>
    rewrite [State.record_get _ _ _ noteFld_CLP_CH_STAT_ALARM_CAUSE, State.record_get _ _ _ (by decide), h₂ _ noteFld_CLP_CH_STAT_ALARM_CAUSE (by decide),
      h₂ _ (by decide) (by decide)]
    simp only [s₁]
    rewrite [State.setB_eq, State.get_set_ne _ _ _ _ (by decide), State.get_set_same, State.get_set_same, hcause, hhigh]
    exact ⟨rfl, fun _ => rfl⟩

theorem State.clpAlarm_framed : Framed [loc R.CLP_CH_STAT_ALARM_CAUSE n, loc R.CLP_CH_STAT_ALARM_HIGH n, loc R.CLP_EVT_ALARM 0] s
    (s.clpAlarm n cause high) := by
  unfold State.clpAlarm
  extract_lets was s₁ s₂
  have h₁ : Framed [loc R.CLP_CH_STAT_ALARM_CAUSE n, loc R.CLP_CH_STAT_ALARM_HIGH n, loc R.CLP_EVT_ALARM 0] s s₁ :=
    set_framed _ _ _ _ (.inl (by simp)) (set_framed _ _ _ _ (.inl (by simp)) (.refl _ s))
  exact ite_framed (.refl _ s) (State.record_framed _ _ (ite_framed h₁ (State.evt_framed _ _ _ (.inl (by simp)) h₁)))

end

theorem State.clpNote_get {f : Fld} (b : Nat) (h : noteFld f = false) : (s.clpNote n).get f b = s.get f b :=
  State.record_get _ _ _ h

theorem State.clpNote_framed {ks : List Nat} {t : State} (h : Framed ks t s) : Framed ks t (s.clpNote n) := by
  unfold State.clpNote
  exact State.record_framed _ _ h

theorem State.clpNote_clpCh : (s.clpNote n).clpCh n = s.clpCh n := State.clpCh_of_clp (State.record_clp _ _) n

end

/-! ### SOURCE_FAILURE and SUPPLY_STEP (R290, R292, R300) -/

section
variable (dt n : Nat) (x : ClpCfg) (s : State) (hcfg : tfind s.man.clp.chs n = some x)
include hcfg

theorem sourceFailure_fails {t₀ : Nat} (hbad : (s.clpCh n).badAt = some t₀) (hsrc : x.src = 2) (hok : (s.clpCh n).failed = false)
    (hat : t₀ + 1000000 * x.failMs ≤ s.now + dt) :
    ∃ t, exec (.sourceFailure dt n) s = .next t ∧ t.clpCh n = { s.clpCh n with failed := true } ∧
      t.get R.CLP_CH_STAT_ALARM_CAUSE n =
        (if x.failAction = 0 ∨ (s.clpCh n).subst = true then s.get R.CLP_CH_STAT_ALARM_CAUSE n else 1) ∧
      Framed [loc R.CLP_CH_STAT_ALARM_CAUSE n, loc R.CLP_CH_STAT_ALARM_HIGH n, loc R.CLP_EVT_ALARM 0]
        { s.advance dt with clp := t.clp } t := by
  have hexec : exec (.sourceFailure dt n) s =
      if x.failAction = 0 || (s.clpCh n).subst then .next ((s.advance dt).putClp n { s.clpCh n with failed := true })
      else .next (((s.advance dt).putClp n { s.clpCh n with failed := true }).clpAlarm n 1 (x.failAction = 2)) := by
    show execSourceFailure dt n s = _
    unfold execSourceFailure
    dsimp only
    rewrite [show tfind (s.advance dt).man.clp.chs n = some x from hcfg]
    dsimp only
    rewrite [State.advance_clpCh, hbad]
    exact if_pos (by simp [hsrc, hok, hat])
  by_cases h : x.failAction = 0 ∨ (s.clpCh n).subst = true
  · rewrite [if_pos (by simpa using h)] at hexec
    exact ⟨_, hexec, State.putClp_clpCh _ _ _, (if_pos h).symm, .refl _ _⟩
  · rewrite [if_neg (by simpa using h)] at hexec
    refine ⟨_, hexec, (State.clpCh_of_clp (State.clpAlarm_clp _ _ _ _) n).trans (State.putClp_clpCh _ _ _), ?_, ?_⟩
    · rw [if_neg h, (State.clpAlarm_shows _ n 1 _ (by decide)).1]
    · exact Framed.ownClp (x := ((s.advance dt).putClp n { s.clpCh n with failed := true }).clp) (State.clpAlarm_framed _ _ _ _)

theorem exec_sourceFailure_idle {t₀ : Nat} (hbad : (s.clpCh n).badAt = some t₀)
    (h : x.src ≠ 2 ∨ (s.clpCh n).failed = true ∨ s.now + dt < t₀ + 1000000 * x.failMs) :
    exec (.sourceFailure dt n) s = .next (s.advance dt) := by
  show execSourceFailure dt n s = _
  unfold execSourceFailure
  dsimp only
  rewrite [show tfind (s.advance dt).man.clp.chs n = some x from hcfg]
  dsimp only
  rewrite [State.advance_clpCh, hbad]
  refine if_neg fun hall => ?_
  simp only [Bool.and_eq_true, Bool.not_eq_true', decide_eq_true_eq] at hall
  obtain ⟨⟨hsrc, hok⟩, hat⟩ := hall
  rcases h with h | h | h
  · exact h hsrc
  · exact absurd (h.symm.trans hok) (by decide)
  · exact absurd hat (Nat.not_le.2 h)

theorem supplyStep_steps :
    ∃ t, exec (.supplyStep dt n) s = .next t ∧
      (t.clpCh n).supply = clampTo x.supMin x.supMax ((s.clpCh n).supply + clampTo (-2) 2 (x.headroom - (s.clpCh n).vpt)) ∧
      t.get R.CLP_CH_STAT_SUP_AT_MAX n = (if x.supMax ≤ (t.clpCh n).supply then 1 else 0) ∧
      (s.follows = true → (t.clpCh n).sink = 0) ∧
      Framed (regKeys n [R.CLP_CH_VOLT_SUP_MV, R.CLP_CH_STAT_SUP_AT_MAX]) { s.advance dt with clp := t.clp } t := by
  let sup := clampTo x.supMin x.supMax ((s.clpCh n).supply + clampTo (-2) 2 (x.headroom - (s.clpCh n).vpt))
  let sink := if s.follows || s.mode ≤ 1 then 0 else (x.supMax - sup) / x.supK
  have hexec : exec (.supplyStep dt n) s =
      .next ((((s.advance dt).putClp n { s.clpCh n with supply := sup, sink := sink }).setU R.CLP_CH_VOLT_SUP_MV (sup * 1000) n).setB
        R.CLP_CH_STAT_SUP_AT_MAX (decide (x.supMax ≤ sup)) n) := by
    show execSupplyStep dt n s = _
    unfold execSupplyStep
    dsimp only
    rewrite [show tfind (s.advance dt).man.clp.chs n = some x from hcfg]
    rfl
  have hch : (((((s.advance dt).putClp n { s.clpCh n with supply := sup, sink := sink }).setU R.CLP_CH_VOLT_SUP_MV (sup * 1000) n).setB
      R.CLP_CH_STAT_SUP_AT_MAX (decide (x.supMax ≤ sup)) n).clpCh n) = { s.clpCh n with supply := sup, sink := sink } :=
    State.putClp_clpCh _ _ _
  refine ⟨_, hexec, congrArg ClpSt.supply hch, ?_, fun hf => (congrArg ClpSt.sink hch).trans (if_pos (by simp [hf])), ?_⟩
  · rewrite [hch, State.get_setB_same _ _ _ _ rfl]
    exact ite_congr (by simp) (fun _ => rfl) (fun _ => rfl)
  · exact set_framed _ _ _ _ (.inl (by simp [regKeys])) (set_framed _ _ _ _ (.inl (by simp [regKeys])) (.refl _ _))

end

/-! ### COMPLIANCE_SET (R293) -/

/-- COMPLIANCE is set, OPEN where the loop is open, and both are told of. -/
def State.shortNoted (s : State) (n : Nat) : State :=
  (((s.set R.CLP_CH_STAT_COMPLIANCE 1 n).setB R.CLP_CH_STAT_OPEN (s.flag R.CLP_CH_STAT_OPEN n || (s.clpCh n).openLoop) n).evt
    R.CLP_EVT_COMPLIANCE).clpNote n

section
variable (s : State) (n : Nat)

theorem State.shortNoted_shows : (s.shortNoted n).get R.CLP_CH_STAT_COMPLIANCE n = 1 ∧
    ((s.clpCh n).openLoop = true → (s.shortNoted n).get R.CLP_CH_STAT_OPEN n = 1) ∧
    (s.shortNoted n).get R.CLP_EVT_COMPLIANCE = 1 := by
  unfold State.shortNoted
  rewrite [State.clpNote_get _ _ _ noteFld_CLP_CH_STAT_COMPLIANCE, State.clpNote_get _ _ _ noteFld_CLP_CH_STAT_OPEN, State.clpNote_get _ _ _ (by decide),
    State.evt_get_ne _ _ _ noteFld_CLP_CH_STAT_COMPLIANCE (by decide), State.evt_get_ne _ _ _ noteFld_CLP_CH_STAT_OPEN (by decide),
      State.get_setB_same _ _ _ _ rfl,
    State.setB_eq, State.get_set_ne _ _ _ _ (by decide), State.get_set_same, State.evt_get_same _ _ _ (by decide)]
  exact ⟨rfl, fun h => by simp [h], rfl⟩

theorem State.shortNoted_clpCh : (s.shortNoted n).clpCh n = s.clpCh n :=
  (State.clpNote_clpCh _ n).trans (State.clpCh_of_clp (State.evt_clp _ _ _) n)

theorem State.shortNoted_cause : (s.shortNoted n).get R.CLP_CH_STAT_ALARM_CAUSE n = s.get R.CLP_CH_STAT_ALARM_CAUSE n := by
  unfold State.shortNoted
  rw [State.clpNote_get _ _ _ noteFld_CLP_CH_STAT_ALARM_CAUSE, State.evt_get_ne _ _ _ noteFld_CLP_CH_STAT_ALARM_CAUSE (by decide), State.setB_eq,
    State.get_set_ne _ _ _ _ (by decide), State.get_set_ne _ _ _ _ (by decide)]

end

section
variable (dt n : Nat) (x : ClpCfg) (s : State) (hcfg : tfind s.man.clp.chs n = some x)
include hcfg

theorem exec_complianceSet_short {t₀ : Nat} (hcond : (s.clpCh n).condAt = some t₀) (hshort : (s.clpCh n).short x = true)
    (hat : t₀ + 1000000 * x.compMs ≤ s.now + dt) (hclear : s.get R.CLP_CH_STAT_COMPLIANCE n = 0) :
    exec (.complianceSet dt n) s =
      if x.lowAlarm && x.src ≠ 3 then
        .next ((((s.advance dt).shortNoted n).putClp n { ((s.advance dt).shortNoted n).clpCh n with subst := true }).clpAlarm n 2 false)
      else .next ((s.advance dt).shortNoted n) := by
  show execComplianceSet dt n s = _
  unfold execComplianceSet
  dsimp only
  rewrite [show tfind (s.advance dt).man.clp.chs n = some x from hcfg]
  dsimp only
  rewrite [State.advance_clpCh, hcond]
  exact if_pos (by simp [hshort, hat, State.flag, hclear])

theorem complianceSet_sets {t₀ : Nat} (hcond : (s.clpCh n).condAt = some t₀) (hshort : (s.clpCh n).short x = true)
    (hat : t₀ + 1000000 * x.compMs ≤ s.now + dt) (hclear : s.get R.CLP_CH_STAT_COMPLIANCE n = 0) :
    ∃ t, exec (.complianceSet dt n) s = .next t ∧ t.get R.CLP_CH_STAT_COMPLIANCE n = 1 ∧
      ((s.clpCh n).openLoop = true → t.get R.CLP_CH_STAT_OPEN n = 1) ∧ t.get R.CLP_EVT_COMPLIANCE = 1 ∧
      (t.clpCh n).subst = ((s.clpCh n).subst || (x.lowAlarm && x.src ≠ 3)) ∧
      (x.lowAlarm = true → x.src ≠ 3 → t.get R.CLP_CH_STAT_ALARM_CAUSE n = 2 ∧
        (s.get R.CLP_CH_STAT_ALARM_CAUSE n ≠ 2 → t.get R.CLP_CH_STAT_ALARM_HIGH n = 0)) := by
  have hexec := exec_complianceSet_short dt n x s hcfg hcond hshort hat hclear
  obtain ⟨hcomp, hopen, hevt⟩ := (s.advance dt).shortNoted_shows n
  have hch := (s.advance dt).shortNoted_clpCh n
  have hcause := (s.advance dt).shortNoted_cause n
  generalize (s.advance dt).shortNoted n = u at hexec hcomp hopen hevt hch hcause
  cases hlow : x.lowAlarm && x.src ≠ 3
  case true =>
    rewrite [if_pos hlow] at hexec
    obtain ⟨hc, hhigh⟩ := (u.putClp n { u.clpCh n with subst := true }).clpAlarm_shows n 2 false (by decide)
    refine ⟨_, hexec, (State.clpAlarm_get _ _ _ _ n (by decide)).trans hcomp,
      fun h => (State.clpAlarm_get _ _ _ _ n (by decide)).trans (hopen h), (State.clpAlarm_get _ _ _ _ 0 (by decide)).trans hevt, ?_,
      fun _ _ => ⟨hc, fun hne => hhigh fun h2 => hne (hcause.symm.trans h2)⟩⟩
    rw [State.clpCh_of_clp (State.clpAlarm_clp _ _ _ _), State.putClp_clpCh, Bool.or_true]
  case false =>
    rewrite [if_neg (by rewrite [hlow]; decide)] at hexec
    refine ⟨_, hexec, hcomp, hopen, hevt, ?_, fun hl hs => ?_⟩
    · rewrite [hch, Bool.or_false]
      rfl
    · simp [hl, hs] at hlow

theorem exec_complianceSet_idle {t₀ : Nat} (hcond : (s.clpCh n).condAt = some t₀)
    (h : (s.clpCh n).short x = false ∨ s.now + dt < t₀ + 1000000 * x.compMs) :
    exec (.complianceSet dt n) s = .next (s.advance dt) := by
  show execComplianceSet dt n s = _
  unfold execComplianceSet
  dsimp only
  rewrite [show tfind (s.advance dt).man.clp.chs n = some x from hcfg]
  dsimp only
  rewrite [State.advance_clpCh, hcond]
  refine if_neg fun hall => ?_
  simp only [Bool.and_eq_true, decide_eq_true_eq] at hall
  obtain ⟨⟨hshort, hat⟩, -⟩ := hall
  rcases h with h | h
  · exact absurd (h.symm.trans hshort) (by decide)
  · exact absurd hat (Nat.not_le.2 h)

/-! ### COMPLIANCE_CLEAR (R293) -/

theorem complianceClear_clears {t₀ : Nat} (hclear : (s.clpCh n).clearAt = some t₀) (hsubst : (s.clpCh n).subst = false)
    (hset : s.get R.CLP_CH_STAT_COMPLIANCE n = 1) (hat : t₀ + 1000000 * x.compMs ≤ s.now + dt) :
    ∃ t, exec (.complianceClear dt n) s = .next t ∧ t.get R.CLP_CH_STAT_COMPLIANCE n = 0 ∧
      t.get R.CLP_CH_STAT_OPEN n = (if s.get R.CLP_CH_STAT_OPEN n = 1 ∧ (s.advance dt).clpAbsent x (s.clpCh n).openOff = true then 0
        else s.get R.CLP_CH_STAT_OPEN n) ∧
      Framed (regKeys n [R.CLP_CH_STAT_COMPLIANCE, R.CLP_CH_STAT_OPEN]) (s.advance dt) t := by
  have habsent : (s.advance dt).clpAbsent x (s.clpCh n).clearAt = true := by
    rewrite [hclear]
    exact decide_eq_true hat
  have hexec : exec (.complianceClear dt n) s =
      .next ((if s.get R.CLP_CH_STAT_OPEN n = 1 ∧ (s.advance dt).clpAbsent x (s.clpCh n).openOff = true then
        ((s.advance dt).set R.CLP_CH_STAT_COMPLIANCE 0 n).set R.CLP_CH_STAT_OPEN 0 n
        else (s.advance dt).set R.CLP_CH_STAT_COMPLIANCE 0 n).clpNote n) := by
    show execComplianceClear dt n s = _
    unfold execComplianceClear
    dsimp only
    rewrite [show tfind (s.advance dt).man.clp.chs n = some x from hcfg]
    dsimp only
    rewrite [State.advance_clpCh, habsent]
    simp only [hsubst, State.flag, State.advance_get, hset, Bool.not_false, Bool.true_and, decide_true, Bool.true_or, if_true,
      Bool.and_eq_true]
    exact congrArg (fun u : State => Host.Outcome.next (u.clpNote n)) (if_congr (and_congr_left' (Iff.intro of_decide_eq_true decide_eq_true)) rfl rfl)
  refine ⟨_, hexec, ?_, ?_, State.clpNote_framed _ _ (ite_framed ?_ ?_)⟩
  · rewrite [State.clpNote_get _ _ _ noteFld_CLP_CH_STAT_COMPLIANCE]
    split
    · rewrite [State.get_set_ne _ _ _ _ (by decide), State.get_set_same]
      rfl
    · rewrite [State.get_set_same]
      rfl
  · rewrite [State.clpNote_get _ _ _ noteFld_CLP_CH_STAT_OPEN]
    split
    · rewrite [State.get_set_same]
      rfl
    · rewrite [State.get_set_ne _ _ _ _ (by decide)]
      rfl
  · exact set_framed _ _ _ _ (.inl (by simp [regKeys])) (set_framed _ _ _ _ (.inl (by simp [regKeys])) (.refl _ _))
  · exact set_framed _ _ _ _ (.inl (by simp [regKeys])) (.refl _ _)

theorem exec_complianceClear_idle {t₀ : Nat} (hclear : (s.clpCh n).clearAt = some t₀)
    (h : (s.clpCh n).subst = true ∨ (s.get R.CLP_CH_STAT_OPEN n = 0 ∧
      (s.get R.CLP_CH_STAT_COMPLIANCE n = 0 ∨ s.now + dt < t₀ + 1000000 * x.compMs))) :
    exec (.complianceClear dt n) s = .next (s.advance dt) := by
  have habsent : (s.advance dt).clpAbsent x (s.clpCh n).clearAt = decide (t₀ + 1000000 * x.compMs ≤ s.now + dt) := by
    rewrite [hclear]
    rfl
  show execComplianceClear dt n s = _
  unfold execComplianceClear
  dsimp only
  rewrite [show tfind (s.advance dt).man.clp.chs n = some x from hcfg]
  dsimp only
  rewrite [State.advance_clpCh, habsent]
  refine if_neg ?_
  rcases h with hsubst | ⟨hopen, hcomp | hlate⟩
  · simp [hsubst]
  · simp [State.flag, hopen, hcomp]
  · simp [State.flag, hopen, Nat.not_le.2 hlate]

end

/-! ### COMPLIANCE_RESTORE_CHECK (R293) -/

/-- The loop resistance that a restore check estimates, in kΩ. -/
def ClpSt.loopRes (c : ClpSt) : Rat := (c.supply - c.vpt - c.meas / 100) / (c.meas / 1000)

/-- The substitution ends, with the resistance estimated; the alarm is still to follow. -/
def State.restored (s : State) (n : Nat) : State :=
  (((s.putClp n { s.clpCh n with rl := (s.clpCh n).loopRes }).set R.CLP_CH_STAT_OPEN 0 n).putClp n
    { s.clpCh n with rl := (s.clpCh n).loopRes, subst := false, condAt := none }).set R.CLP_CH_STAT_COMPLIANCE 0 n

theorem State.restored_clpCh (s : State) (n : Nat) :
    (s.restored n).clpCh n = { s.clpCh n with rl := (s.clpCh n).loopRes, subst := false, condAt := none } :=
  (State.clpCh_of_clp (State.set_clp _ _ _ _) n).trans (State.putClp_clpCh _ _ _)

section
variable (dt n : Nat) (x : ClpCfg) (s : State) (hcfg : tfind s.man.clp.chs n = some x)
include hcfg

theorem exec_complianceRestoreCheck_enough (hsubst : (s.clpCh n).subst = true) (htick : s.tick % 100000 = 0)
    (hmeas : 0 < (s.clpCh n).meas) (hopen : s.get R.CLP_CH_STAT_OPEN n = 0)
    (hroom : x.headroom ≤ x.supMax - (s.clpCh n).req / 1000 * ((s.clpCh n).loopRes + 10)) :
    exec (.complianceRestoreCheck dt n) s =
      .next ((if (s.clpCh n).failed && x.failAction ≠ 0 then ((s.advance dt).restored n).clpAlarm n 1 (x.failAction = 2)
        else ((s.advance dt).restored n).clpAlarm n 0 false).clpNote n) := by
  have hput (u : State) (v : ClpSt) : (((u.putClp n v).set R.CLP_CH_STAT_OPEN 0 n).clpCh n) = v := State.putClp_clpCh _ _ _
  show execComplianceRestoreCheck dt n s = _
  unfold execComplianceRestoreCheck State.restored
  dsimp only
  rewrite [show tfind (s.advance dt).man.clp.chs n = some x from hcfg]
  dsimp only
  rewrite [hput, State.advance_clpCh]
  refine (if_neg ?_).trans ((if_neg ?_).trans (if_pos hroom))
  · simp [hsubst, htick]
  · simp [State.flag, hopen, not_le.2 hmeas]

theorem complianceRestoreCheck_restores (hsubst : (s.clpCh n).subst = true) (htick : s.tick % 100000 = 0)
    (hmeas : 0 < (s.clpCh n).meas) (hopen : s.get R.CLP_CH_STAT_OPEN n = 0)
    (hroom : x.headroom ≤ x.supMax - (s.clpCh n).req / 1000 *
      (((s.clpCh n).supply - (s.clpCh n).vpt - (s.clpCh n).meas / 100) / ((s.clpCh n).meas / 1000) + 10)) :
    ∃ t, exec (.complianceRestoreCheck dt n) s = .next t ∧ (t.clpCh n).subst = false ∧ t.get R.CLP_CH_STAT_COMPLIANCE n = 0 ∧
      t.get R.CLP_CH_STAT_ALARM_CAUSE n = (if (s.clpCh n).failed ∧ x.failAction ≠ 0 then 1 else 0) ∧
      (t.clpCh n).rl = ((s.clpCh n).supply - (s.clpCh n).vpt - (s.clpCh n).meas / 100) / ((s.clpCh n).meas / 1000) := by
  have hexec := exec_complianceRestoreCheck_enough dt n x s hcfg hsubst htick hmeas hopen hroom
  have hv := (s.advance dt).restored_clpCh n
  have hcomp : ((s.advance dt).restored n).get R.CLP_CH_STAT_COMPLIANCE n = 0 := State.get_set_same _ _ _ _
  generalize (s.advance dt).restored n = v at hexec hv hcomp
  have hch (c : Nat) (high : Bool) : ((v.clpAlarm n c high).clpNote n).clpCh n =
      { s.clpCh n with rl := (s.clpCh n).loopRes, subst := false, condAt := none } :=
    (State.clpNote_clpCh _ n).trans ((State.clpCh_of_clp (State.clpAlarm_clp _ _ _ _) n).trans hv)
  have hget (c : Nat) (high : Bool) : ((v.clpAlarm n c high).clpNote n).get R.CLP_CH_STAT_COMPLIANCE n = 0 :=
    (State.clpNote_get _ _ _ noteFld_CLP_CH_STAT_COMPLIANCE).trans ((State.clpAlarm_get _ _ _ _ n (by decide)).trans hcomp)
  have hcause (c : Nat) (high : Bool) (hc : c < 4) : ((v.clpAlarm n c high).clpNote n).get R.CLP_CH_STAT_ALARM_CAUSE n = c :=
    (State.clpNote_get _ _ _ noteFld_CLP_CH_STAT_ALARM_CAUSE).trans (State.clpAlarm_shows v n c high hc).1
  by_cases h : (s.clpCh n).failed ∧ x.failAction ≠ 0
  · rewrite [if_pos (by simpa using h)] at hexec
    exact ⟨_, hexec, congrArg ClpSt.subst (hch _ _), hget _ _, (hcause _ _ (by decide)).trans (if_pos h).symm, congrArg ClpSt.rl (hch _ _)⟩
  · rewrite [if_neg (by simpa using h)] at hexec
    exact ⟨_, hexec, congrArg ClpSt.subst (hch _ _), hget _ _, (hcause _ _ (by decide)).trans (if_neg h).symm, congrArg ClpSt.rl (hch _ _)⟩

theorem exec_complianceRestoreCheck_idle (h : (s.clpCh n).subst = false ∨ s.tick % 100000 ≠ 0 ∨ (s.clpCh n).meas ≤ 0) :
    exec (.complianceRestoreCheck dt n) s = .next (s.advance dt) := by
  show execComplianceRestoreCheck dt n s = _
  unfold execComplianceRestoreCheck
  dsimp only
  rewrite [show tfind (s.advance dt).man.clp.chs n = some x from hcfg]
  dsimp only
  rcases h with hsubst | htick | hmeas
  · exact if_pos (by simp [hsubst])
  · exact if_pos (by simp [htick])
  · split
    · rfl
    · exact if_pos (by simp [hmeas])

end

theorem exec_currentLoop_none (dt n : Nat) (c : Instr) (s : State)
    (hc : c ∈ [Instr.sourceFailure dt n, .supplyStep dt n, .complianceSet dt n, .complianceClear dt n, .complianceRestoreCheck dt n])
    (h : tfind s.man.clp.chs n = none) : exec c s = .next (s.advance dt) := by
  have h' : tfind (s.advance dt).man.clp.chs n = none := h
  simp only [List.mem_cons, List.not_mem_nil, or_false] at hc
  rcases hc with rfl | rfl | rfl | rfl | rfl
  · show execSourceFailure dt n s = _
    simp only [execSourceFailure, h']
  · show execSupplyStep dt n s = _
    simp only [execSupplyStep, h']
  · show execComplianceSet dt n s = _
    simp only [execComplianceSet, h']
  · show execComplianceClear dt n s = _
    simp only [execComplianceClear, h']
  · show execComplianceRestoreCheck dt n s = _
    simp only [execComplianceRestoreCheck, h']

/-- Settles O42: each clause is the lemma of its command above. When COMPLIANCE and OPEN are set and cleared follows the model's choices
(logs 146, 148); that a command whose condition is not met only lets time pass is one too (log 1). -/
theorem currentLoops : Obligations.CurrentLoops := by
  unfold Obligations.CurrentLoops
  exact ⟨fun dt n _ x s hcfg => sourceFailure_fails dt n x s hcfg, fun dt n _ x s hcfg => exec_sourceFailure_idle dt n x s hcfg,
    supplyStep_steps, exec_currentLoop_none, fun dt n _ x s hcfg => complianceSet_sets dt n x s hcfg,
    fun dt n _ x s hcfg => exec_complianceSet_idle dt n x s hcfg, fun dt n _ x s hcfg => complianceClear_clears dt n x s hcfg,
    fun dt n _ x s hcfg => exec_complianceClear_idle dt n x s hcfg, complianceRestoreCheck_restores,
    exec_complianceRestoreCheck_idle⟩

end Sys2Proof.Machine
end

section
set_option Elab.async false
/-!
PROOF of the statements of 12_current_loops.md about HART modems (HartTransactions, HartPauses): the rules of a modem's own data, what
the start, the end, a failure and an identification of a transaction show and leave alone, and then each command.
-/

namespace Sys2Proof.Machine

open Sys2Proof

/-! ### The modems' own data -/

/-- A modem's data is read in the modems' table and nowhere else. -/
theorem State.hart_of_clp {s t : State} (h : t.clp = s.clp) (m : Nat) : t.hart m = s.hart m := by
  unfold State.hart
  rw [h]

section
variable (s : State) (m : Nat) (v : HartSt)

@[simp] theorem State.putHart_hart : (s.putHart m v).hart m = v := by
  unfold State.putHart State.hart tget
  simp

@[simp] theorem State.putHart_get (f : Fld) (b : Nat) : (s.putHart m v).get f b = s.get f b := rfl

@[simp] theorem State.advance_hart (dt : Nat) : (s.advance dt).hart m = s.hart m := rfl

@[simp] theorem State.set_hart (f : Fld) (x b : Nat) : (s.set f x b).hart m = s.hart m := State.hart_of_clp (State.set_clp _ _ _ _) m

@[simp] theorem State.evt_hart (f : Fld) (b : Nat) : (s.evt f b).hart m = s.hart m := State.hart_of_clp (State.evt_clp _ _ _) m

@[simp] theorem State.record_hart (e : Ev) : (s.record e).hart m = s.hart m := State.hart_of_clp (State.record_clp _ _) m

end

/-- No listed entry has a key that was filtered out. -/
theorem tfind_filter_ne {α : Type} (t : Tab α) (k : Nat) : tfind (t.filter fun x => x.1 ≠ k) k = none := by
  induction t with
  | nil => rfl
  | cons x t ih =>
    by_cases h : x.1 = k
    · simpa [h] using ih
    · rewrite [List.filter_cons_of_pos (by simpa using h)]
      simpa [tfind, Ne.symm h] using ih

/-! ### A transaction starts (R297) -/

section
variable (s : State) (m : Nat) (k : HartTx)

/-- The modem's data once a transaction has started. -/
def HartSt.started (h : HartSt) (k : HartTx) (now : Nat) : HartSt :=
  { h with tx := some k, lastAt := (match k.entry with | some e => tput h.lastAt e now | none => h.lastAt),
           asked := if k.entry.isNone then k.addr :: h.asked else h.asked,
           idAt := if k.entry.isNone then tput h.idAt k.addr now else h.idAt }

theorem State.hartStart_hart : (s.hartStart m k).hart m = (s.hart m).started k s.now := by
  unfold State.hartStart
  simp only [State.set_hart, State.putHart_hart]
  rfl

theorem State.hartStart_shows : (s.hartStart m k).get R.CLP_HART_STAT_BUSY m = 1 ∧
    (s.hartStart m k).get R.CLP_HART_STAT_LAST_ADDR m = k.addr % 64 ∧
    (s.hartStart m k).get R.CLP_HART_STAT_LAST_CMD m = k.cmd % 256 := by
  unfold State.hartStart
  simp (disch := decide) only [State.get_set_ne, State.get_set_same]
  exact ⟨rfl, rfl, rfl⟩

theorem State.hartStart_framed : Framed (regKeys m [R.CLP_HART_STAT_BUSY, R.CLP_HART_STAT_LAST_ADDR, R.CLP_HART_STAT_LAST_CMD])
    { s with clp := (s.hartStart m k).clp } (s.hartStart m k) := by
  unfold State.hartStart
  exact Framed.ownClp (x := (s.putHart m ((s.hart m).started k s.now)).clp) (set_framed _ _ _ _ (.inl (by simp [regKeys]))
    (set_framed _ _ _ _ (.inl (by simp [regKeys])) (set_framed _ _ _ _ (.inl (by simp [regKeys])) (.refl _ _))))

end

/-! ### A transaction ends (R297, R299) -/

section
variable (s : State) (m : Nat) (ok : Bool)

@[simp] theorem State.hartEnd_hart : (s.hartEnd m ok).hart m = { s.hart m with tx := none, pauseDue := false } := by
  unfold State.hartEnd
  extract_lets h s₁ s₂ old bit s₃
  have h₂ : s₂.hart m = s₁.hart m := by
    simp only [s₂]
    split <;> simp
  simp only [State.inc_eq, State.set_hart, s₃, h₂, s₁, State.putHart_hart, h]

theorem State.hartEnd_get {f : Fld} (b : Nat)
    (h : apartFrom [R.CLP_HART_STAT_BUSY, R.CLP_HART_STAT_PAUSED, R.CLP_STAT_HART_OK, R.CLP_HART_CNT_TRANS] f = true) :
    (s.hartEnd m ok).get f b = s.get f b := by
  have hset (u : State) (g : Fld) (v c : Nat) (hg : g ∈ [R.CLP_HART_STAT_BUSY, R.CLP_HART_STAT_PAUSED, R.CLP_STAT_HART_OK, R.CLP_HART_CNT_TRANS]) :
      (u.set g v c).get f b = u.get f b := State.get_set_ne _ _ _ _ (apartFrom_ne h hg)
  unfold State.hartEnd
  extract_lets _ s₁ s₂ old bit s₃
  have h₂ : s₂.get f b = s₁.get f b := by
    simp only [s₂]
    split
    · exact hset _ _ _ _ (by simp)
    · rfl
  rewrite [State.inc_eq, hset _ _ _ _ (by simp), hset _ _ _ _ (by simp), h₂, hset _ _ _ _ (by simp)]
  rfl

theorem State.hartEnd_shows :
    (s.hartEnd m ok).get R.CLP_HART_STAT_PAUSED m = (if (s.hart m).pauseDue then 1 else s.get R.CLP_HART_STAT_PAUSED m) ∧
    (s.hartEnd m ok).get R.CLP_HART_STAT_BUSY m = 0 ∧
    (s.hartEnd m ok).get R.CLP_HART_CNT_TRANS m = (s.get R.CLP_HART_CNT_TRANS m + 1) % 65536 := by
  unfold State.hartEnd
  extract_lets h s₁ s₂ old bit s₃
  have h₂ {f : Fld} (hf : fkey f ≠ fkey R.CLP_HART_STAT_PAUSED) : s₂.get f m = s₁.get f m := by
    simp only [s₂]
    split
    · exact State.get_set_ne _ _ _ _ hf
    · rfl
  refine ⟨?_, ?_, ?_⟩
  · rewrite [State.inc_eq, State.get_set_ne _ _ _ _ (by decide), State.get_set_ne _ _ _ _ (by decide)]
    simp only [s₂]
    split
    · rewrite [State.get_set_same]
      rfl
    · rewrite [State.get_set_ne _ _ _ _ (by decide)]
      rfl
  · rewrite [State.inc_eq, State.get_set_ne _ _ _ _ (by decide), State.get_set_ne _ _ _ _ (by decide), h₂ (by decide), State.get_set_same]
    rfl
  · rewrite [State.inc_eq, State.get_set_same, State.get_set_ne _ _ _ _ (by decide), h₂ (by decide), State.get_set_ne _ _ _ _ (by decide)]
    rfl

@[simp] theorem State.hartEnd_pts : (s.hartEnd m ok).pts = s.pts := by
  unfold State.hartEnd
  extract_lets h s₁ s₂ old bit s₃
  have h₂ : s₂.pts = s.pts := by
    simp only [s₂]
    split <;> rfl
  exact h₂

end

/-! ### A transaction fails (R297) -/

section
variable (s : State) (m : Nat) (k : HartTx) (rc : Nat)

/-- The failure counted and told of; the end of the transaction is still to follow. -/
def State.failCounted : State :=
  (((s.putHart m { s.hart m with fails := tput (s.hart m).fails k.addr ((tget (s.hart m).fails k.addr 0 + 1) % 2 ^ 64) }).inc
    R.CLP_HART_CNT_FAILS m).evt R.CLP_EVT_HART_FAIL).record { code := 0x0E05, source := m, items := [(1, m), (1, k.addr), (1, k.cmd), (1, rc)] }

theorem State.hartFail_eq : s.hartFail m k rc = (s.failCounted m k rc).hartEnd m false := rfl

theorem State.failCounted_hart : (s.failCounted m k rc).hart m =
    { s.hart m with fails := tput (s.hart m).fails k.addr ((tget (s.hart m).fails k.addr 0 + 1) % 2 ^ 64) } := by
  unfold State.failCounted
  simp only [State.record_hart, State.evt_hart, State.inc_eq, State.set_hart, State.putHart_hart]

theorem State.failCounted_get {f : Fld} (b : Nat) (h : apartFrom [R.CLP_HART_CNT_FAILS, R.CLP_EVT_HART_FAIL] f = true) :
    (s.failCounted m k rc).get f b = s.get f b := by
  have hn := noteFld_of_apartFrom h
  unfold State.failCounted
  rewrite [State.record_get _ _ _ hn, State.evt_get_ne _ _ _ hn (apartFrom_ne h (by simp)), State.inc_eq,
    State.get_set_ne _ _ _ _ (apartFrom_ne h (by simp))]
  rfl

theorem State.failCounted_shows : (s.failCounted m k rc).get R.CLP_HART_CNT_FAILS m = (s.get R.CLP_HART_CNT_FAILS m + 1) % 65536 ∧
    (s.failCounted m k rc).get R.CLP_EVT_HART_FAIL = 1 := by
  unfold State.failCounted
  rewrite [State.record_get _ _ _ (by decide), State.record_get _ _ _ (by decide), State.evt_get_ne _ _ _ (by decide) (by decide),
    State.evt_get_same _ _ _ (by decide), State.inc_eq, State.get_set_same]
  exact ⟨rfl, rfl⟩

theorem State.failCounted_pts : (s.failCounted m k rc).pts = s.pts := by
  unfold State.failCounted
  simp only [State.record_pts, State.evt_pts, State.inc_eq, State.set_pts]
  rfl

end

/-! ### The points of a reply (R298), and an identification (R297) -/

section
variable (s : State) (m : Nat) (k : HartTx)

theorem State.hartPoints_inboxFramed (r : HartReply) : InboxFramed s (s.hartPoints m k r) := by
  have hput (u : State) (a v : Nat) (q : Quality) : InboxFramed u (u.inbound { addr := a, value := v, pm := u.pm, quality := q }) :=
    u.inbound_inboxFramed _
  have hfold {α : Type} (l : List α) {g : State → α → State} (hg : ∀ u x, InboxFramed u (g u x)) (u : State) :
      InboxFramed u (l.foldl g u) := by
    induction l generalizing u with
    | nil => exact .refl u
    | cons x l ih => exact (hg u x).trans (ih _)
  unfold State.hartPoints
  refine .trans ?_ (hfold _ (fun u x => ?_) _)
  · exact (hput _ _ _ _).trans ((hput _ _ _ _).trans (hput _ _ _ _))
  · dsimp only
    split
    · exact (hput _ _ _ _).trans ((hput _ _ _ _).trans (hput _ _ _ _))
    · exact (hput _ _ _ _).trans (hput _ _ _ _)

/-- A device that follows no other takes the points of a reply. -/
def State.pointsTaken (r : HartReply) : State := if s.follows then s else s.hartPoints m k r

theorem State.pointsTaken_inboxFramed (r : HartReply) : InboxFramed s (s.pointsTaken m k r) := by
  unfold State.pointsTaken
  split
  · exact .refl s
  · exact s.hartPoints_inboxFramed m k r

/-- What a change of the inputs that wait leaves alone. -/
theorem InboxFramed.hart_eq {u : State} (h : InboxFramed s u) : u.hart m = s.hart m := State.hart_of_clp (State.of_plain_clp h.plain :) m

theorem InboxFramed.get_eq {u : State} (h : InboxFramed s u) {f : Fld} (b : Nat) (hn : noteFld f = false) : u.get f b = s.get f b :=
  Framed.get_eq h b hn List.not_mem_nil

/-- The points of an address are marked, and nothing else changes. -/
theorem State.hartMask_apart {β : Type} (p : State → β) (hp : ∀ (u : State) x, p { u with pts := x } = p u) (addr : Nat) (masked : Bool) :
    p (s.hartMask m addr masked) = p s := by
  unfold State.hartMask
  refine foldl_keeps p _ (fun u x => ?_) s
  split
  · exact hp u _
  · rfl

/-- A modem's data with an address identified. -/
def HartSt.identified (h : HartSt) (a : Nat) : HartSt :=
  { h with ident := if a ∈ h.ident then h.ident else a :: h.ident, failed := h.failed.filter fun f => f.1 ≠ a }

/-- A modem's data with an address that does not match its expected identity. -/
def HartSt.mismatched (h : HartSt) (a now : Nat) : HartSt :=
  { h with failed := tput h.failed a now, ident := h.ident.filter (· ≠ a) }

theorem State.hartIdent_match (got : Nat) : (s.hartIdent m k got got).hart m = (s.hart m).identified k.addr := by
  have hmask (u : State) (masked : Bool) : (u.hartMask m k.addr masked).hart m = u.hart m :=
    u.hartMask_apart m (fun w => w.hart m) (fun _ _ => rfl) k.addr masked
  unfold State.hartIdent
  dsimp only
  rewrite [if_pos rfl]
  split
  · unfold State.clearAlarm
    rewrite [State.record_hart, hmask, State.setB_eq, State.set_hart, State.putHart_hart]
    rfl
  · rewrite [hmask, State.setB_eq, State.set_hart, State.putHart_hart]
    rfl

theorem State.hartIdent_mismatch {want got : Nat} (hne : got ≠ want) :
    (s.hartIdent m k want got).hart m = (s.hart m).mismatched k.addr s.now ∧
      (s.hartIdent m k want got).get R.CLP_HART_STAT_ID_MISMATCH m = 1 := by
  have hmask (u : State) (masked : Bool) : (u.hartMask m k.addr masked).hart m = u.hart m :=
    u.hartMask_apart m (fun w => w.hart m) (fun _ _ => rfl) k.addr masked
  have hget (u : State) (masked : Bool) : (u.hartMask m k.addr masked).get R.CLP_HART_STAT_ID_MISMATCH m = u.get R.CLP_HART_STAT_ID_MISMATCH m :=
    u.hartMask_apart m (fun w => w.get R.CLP_HART_STAT_ID_MISMATCH m) (fun _ _ => rfl) k.addr masked
  unfold State.hartIdent
  dsimp only
  rewrite [if_neg hne]
  split
  · rewrite [hmask, hget, State.set_hart, State.putHart_hart, State.get_set_same]
    exact ⟨rfl, rfl⟩
  · unfold State.alarm
    rewrite [State.record_hart, State.evt_hart, State.record_get _ _ _ noteFld_CLP_HART_STAT_ID_MISMATCH,
      State.evt_get_ne _ _ _ noteFld_CLP_HART_STAT_ID_MISMATCH (by decide), hmask,
      hget, State.set_hart, State.putHart_hart, State.get_set_same]
    exact ⟨rfl, rfl⟩

theorem State.hartIdent_get (want got : Nat) {f : Fld} (b : Nat) (h : apartFrom [R.CLP_HART_STAT_ID_MISMATCH, R.CLP_EVT_HART_ID] f = true) :
    (s.hartIdent m k want got).get f b = s.get f b := by
  have hn := noteFld_of_apartFrom h
  have hset (u : State) (v c : Nat) (masked : Bool) : ((u.set R.CLP_HART_STAT_ID_MISMATCH v c).hartMask m k.addr masked).get f b = u.get f b :=
    (State.hartMask_apart _ m (fun w => w.get f b) (fun _ _ => rfl) k.addr masked).trans
      (State.get_set_ne _ _ _ _ (apartFrom_ne h (by simp)))
  unfold State.hartIdent State.clearAlarm State.alarm
  dsimp only
  split
  · split
    · rewrite [State.record_get _ _ _ hn, State.setB_eq, hset]
      rfl
    · rewrite [State.setB_eq, hset]
      rfl
  · split
    · rewrite [hset]
      rfl
    · rewrite [State.record_get _ _ _ hn, State.evt_get_ne _ _ _ hn (apartFrom_ne h (by simp)), hset]
      rfl

end

/-! ### HART_POLL_DUE and HART_ID_RETRY (R297) -/

section
variable (dt m : Nat) (x : HartCfg) (s : State)

/-- What a modem with no transaction starts when it is polled. -/
theorem exec_hartPollDue_free (hcfg : tfind s.man.clp.modems m = some x) (hfree : (s.hart m).tx = none)
    (hrun : s.get R.CLP_HART_STAT_PAUSED m = 0) (hmode : x.mode ≠ 0) (hruns : s.hartRuns = true) :
    exec (.hartPollDue dt m) s =
      match x.addrs.find? fun b => b.1 ∉ (s.hart m).asked with
      | some a => .next ((s.advance dt).hartStart m { addr := a.1, cmd := 0, entry := none })
      | none =>
        match hartDue (s.hart m) (s.now + dt) x.polls 0 with
        | some (i, p) => .next ((s.advance dt).hartStart m { addr := p.addr, cmd := p.cmd, entry := some i })
        | none => .next (s.advance dt) := by
  have hruns' : (s.advance dt).hartRuns = true := hruns
  show execHartPollDue dt m s = _
  unfold execHartPollDue
  dsimp only
  rewrite [show tfind (s.advance dt).man.clp.modems m = some x from hcfg]
  exact if_neg (by simp [hfree, State.flag, hrun, hmode, hruns'])

theorem hartPollDue_identifies (a : Nat × Nat) (hcfg : tfind s.man.clp.modems m = some x) (hfree : (s.hart m).tx = none)
    (hrun : s.get R.CLP_HART_STAT_PAUSED m = 0) (hmode : x.mode ≠ 0) (hruns : s.hartRuns = true)
    (ha : x.addrs.find? (fun b => b.1 ∉ (s.hart m).asked) = some a) :
    ∃ t, exec (.hartPollDue dt m) s = .next t ∧ (t.hart m).tx = some { addr := a.1, cmd := 0, entry := none } ∧
      (t.hart m).asked = a.1 :: (s.hart m).asked ∧ t.get R.CLP_HART_STAT_BUSY m = 1 ∧ t.get R.CLP_HART_STAT_LAST_ADDR m = a.1 % 64 ∧
      t.get R.CLP_HART_STAT_LAST_CMD m = 0 ∧
      Framed (regKeys m [R.CLP_HART_STAT_BUSY, R.CLP_HART_STAT_LAST_ADDR, R.CLP_HART_STAT_LAST_CMD]) { s.advance dt with clp := t.clp } t := by
  have hexec := exec_hartPollDue_free dt m x s hcfg hfree hrun hmode hruns
  rewrite [ha] at hexec
  obtain ⟨hbusy, haddr, hcmd⟩ := (s.advance dt).hartStart_shows m { addr := a.1, cmd := 0, entry := none }
  exact ⟨_, hexec, congrArg HartSt.tx (State.hartStart_hart _ _ _), congrArg HartSt.asked (State.hartStart_hart _ _ _), hbusy, haddr, hcmd,
    State.hartStart_framed _ _ _⟩

theorem hartPollDue_polls (i : Nat) (e : HartPoll) (hcfg : tfind s.man.clp.modems m = some x) (hfree : (s.hart m).tx = none)
    (hrun : s.get R.CLP_HART_STAT_PAUSED m = 0) (hmode : x.mode ≠ 0) (hruns : s.hartRuns = true)
    (ha : x.addrs.find? (fun b => b.1 ∉ (s.hart m).asked) = none) (hdue : hartDue (s.hart m) (s.now + dt) x.polls 0 = some (i, e)) :
    ∃ t, exec (.hartPollDue dt m) s = .next t ∧ (t.hart m).tx = some { addr := e.addr, cmd := e.cmd, entry := some i } ∧
      tfind (t.hart m).lastAt i = some (s.now + dt) ∧ t.get R.CLP_HART_STAT_BUSY m = 1 ∧ t.get R.CLP_HART_STAT_LAST_CMD m = e.cmd % 256 := by
  have hexec := exec_hartPollDue_free dt m x s hcfg hfree hrun hmode hruns
  rewrite [ha, hdue] at hexec
  obtain ⟨hbusy, -, hcmd⟩ := (s.advance dt).hartStart_shows m { addr := e.addr, cmd := e.cmd, entry := some i }
  refine ⟨_, hexec, congrArg HartSt.tx (State.hartStart_hart _ _ _), ?_, hbusy, hcmd⟩
  rewrite [State.hartStart_hart]
  exact tfind_tput_same _ _ _

theorem exec_hartPollDue_idle (hcfg : tfind s.man.clp.modems m = some x)
    (h : (s.hart m).tx ≠ none ∨ s.get R.CLP_HART_STAT_PAUSED m = 1 ∨ x.mode = 0 ∨ s.hartRuns = false) :
    exec (.hartPollDue dt m) s = .next (s.advance dt) := by
  show execHartPollDue dt m s = _
  unfold execHartPollDue
  dsimp only
  rewrite [show tfind (s.advance dt).man.clp.modems m = some x from hcfg]
  refine if_pos ?_
  rcases h with hbusy | hpaused | hmode | hruns
  · simp [Option.isSome_iff_ne_none.2 hbusy]
  · simp [State.flag, hpaused]
  · simp [hmode]
  · simp [show (s.advance dt).hartRuns = false from hruns]

theorem exec_hartPollDue_paused (hpaused : s.get R.CLP_HART_STAT_PAUSED m = 1) :
    exec (.hartPollDue dt m) s = .next (s.advance dt) := by
  cases hcfg : tfind s.man.clp.modems m with
  | some x => exact exec_hartPollDue_idle dt m x s hcfg (.inr (.inl hpaused))
  | none =>
    show execHartPollDue dt m s = _
    unfold execHartPollDue
    dsimp only
    rw [show tfind (s.advance dt).man.clp.modems m = none from hcfg]

variable (a t₀ : Nat) (hid : tfind (s.hart m).idAt a = some t₀)
include hid

theorem hartIdRetry_asks (hcfg : tfind s.man.clp.modems m = some x) (hfree : (s.hart m).tx = none) (ha : a ∉ (s.hart m).ident)
    (hat : t₀ + 60000000000 ≤ s.now + dt) (hruns : s.hartRuns = true) :
    ∃ t, exec (.hartIdRetry dt m a) s = .next t ∧ (t.hart m).tx = some { addr := a, cmd := 0, entry := none } ∧
      tfind (t.hart m).idAt a = some (s.now + dt) ∧ t.get R.CLP_HART_STAT_BUSY m = 1 := by
  have hexec : exec (.hartIdRetry dt m a) s = .next ((s.advance dt).hartStart m { addr := a, cmd := 0, entry := none }) := by
    show execHartIdRetry dt m a s = _
    unfold execHartIdRetry
    dsimp only
    rewrite [show tfind (s.advance dt).man.clp.modems m = some x from hcfg, State.advance_hart, hid]
    exact if_pos (by simp [hfree, ha, hat, show (s.advance dt).hartRuns = true from hruns])
  refine ⟨_, hexec, congrArg HartSt.tx (State.hartStart_hart _ _ _), ?_, (State.hartStart_shows _ _ _).1⟩
  rewrite [State.hartStart_hart]
  exact tfind_tput_same _ _ _

theorem exec_hartIdRetry_idle (h : a ∈ (s.hart m).ident ∨ s.now + dt < t₀ + 60000000000) :
    exec (.hartIdRetry dt m a) s = .next (s.advance dt) := by
  show execHartIdRetry dt m a s = _
  unfold execHartIdRetry
  dsimp only
  rewrite [State.advance_hart, hid]
  cases tfind (s.advance dt).man.clp.modems m with
  | none => rfl
  | some x =>
    refine if_neg fun hall => ?_
    simp only [Bool.and_eq_true, decide_eq_true_eq] at hall
    obtain ⟨⟨⟨-, ha⟩, hat⟩, -⟩ := hall
    exact h.elim ha fun hlate => absurd hat (Nat.not_le.2 hlate)

end

/-! ### HART_REPLY and HART_RETRY (R297, R298, R300) -/

section
variable (dt m : Nat) (r : HartReply) (x : HartCfg) (k : HartTx) (s : State)

theorem exec_hartTransaction_none (c : Instr) (hc : c ∈ [Instr.hartReply dt m r, .hartRetry dt m]) (h : (s.hart m).tx = none) :
    exec c s = .next (s.advance dt) := by
  have h' : ((s.advance dt).hart m).tx = none := h
  simp only [List.mem_cons, List.not_mem_nil, or_false] at hc
  rcases hc with rfl | rfl
  · show execHartReply dt m r s = _
    simp only [execHartReply, h']
    cases tfind (s.advance dt).man.clp.modems m <;> rfl
  · show execHartRetry dt m s = _
    simp only [execHartRetry, h']
    cases tfind (s.advance dt).man.clp.modems m <;> rfl

variable (hcfg : tfind s.man.clp.modems m = some x) (hbusy : (s.hart m).tx = some k)
include hcfg hbusy

theorem exec_hartReply_refused (hrc : r.rc ≠ 0) :
    exec (.hartReply dt m r) s = .next (((s.advance dt).set R.CLP_HART_STAT_LAST_RC r.rc m).hartFail m k r.rc) := by
  show execHartReply dt m r s = _
  unfold execHartReply
  dsimp only
  rewrite [show tfind (s.advance dt).man.clp.modems m = some x from hcfg, State.advance_hart, hbusy]
  exact if_pos hrc

theorem exec_hartReply_identity (hrc : r.rc = 0) (hentry : k.entry = none) : exec (.hartReply dt m r) s =
    .next (((((s.advance dt).set R.CLP_HART_STAT_LAST_RC r.rc m).hartIdent m k (tget x.addrs k.addr 0) r.ident).pointsTaken m k r).hartEnd
      m true) := by
  show execHartReply dt m r s = _
  unfold execHartReply
  dsimp only
  rewrite [show tfind (s.advance dt).man.clp.modems m = some x from hcfg, State.advance_hart, hbusy]
  dsimp only
  rewrite [if_neg (not_not_intro hrc), hentry]
  rfl

theorem exec_hartReply_polled (hrc : r.rc = 0) {e : Nat} (hentry : k.entry = some e) : ∃ w,
    InboxFramed ((s.advance dt).set R.CLP_HART_STAT_LAST_RC r.rc m) w ∧ exec (.hartReply dt m r) s = .next (w.hartEnd m true) := by
  have hexec : exec (.hartReply dt m r) s = match (x.polls[e]?).bind (·.raw) with
      | some n => .next ((if ((s.advance dt).set R.CLP_HART_STAT_LAST_RC r.rc m).follows then (s.advance dt).set R.CLP_HART_STAT_LAST_RC r.rc m
          else ((s.advance dt).set R.CLP_HART_STAT_LAST_RC r.rc m).send n 9 0 r.bytes ((s.advance dt).set R.CLP_HART_STAT_LAST_RC r.rc m).pm).hartEnd m true)
      | none => .next ((((s.advance dt).set R.CLP_HART_STAT_LAST_RC r.rc m).pointsTaken m k r).hartEnd m true) := by
    show execHartReply dt m r s = _
    unfold execHartReply
    dsimp only
    rewrite [show tfind (s.advance dt).man.clp.modems m = some x from hcfg, State.advance_hart, hbusy]
    dsimp only
    rewrite [if_neg (not_not_intro hrc), hentry]
    rfl
  generalize (s.advance dt).set R.CLP_HART_STAT_LAST_RC r.rc m = u at hexec
  cases hraw : (x.polls[e]?).bind (·.raw) with
  | some n =>
    rewrite [hraw] at hexec
    refine ⟨_, ?_, hexec⟩
    split
    · exact .refl u
    · exact .of_framed (State.send_framed _ _ _ _ _ _ (.refl _ u))
  | none =>
    rewrite [hraw] at hexec
    exact ⟨_, u.pointsTaken_inboxFramed m k r, hexec⟩

/-- A reply ends the transaction, whatever it says. -/
theorem exec_hartReply_ends : ∃ (w : State) (ok : Bool), exec (.hartReply dt m r) s = .next (w.hartEnd m ok) ∧
    (w.hart m).pauseDue = (s.hart m).pauseDue ∧ w.get R.CLP_HART_STAT_PAUSED m = s.get R.CLP_HART_STAT_PAUSED m := by
  have hset : ((s.advance dt).set R.CLP_HART_STAT_LAST_RC r.rc m).get R.CLP_HART_STAT_PAUSED m = s.get R.CLP_HART_STAT_PAUSED m :=
    State.get_set_ne _ _ _ _ (by decide)
  by_cases hrc : r.rc = 0
  · cases hentry : k.entry with
    | none =>
      have hw := (((s.advance dt).set R.CLP_HART_STAT_LAST_RC r.rc m).hartIdent m k (tget x.addrs k.addr 0) r.ident).pointsTaken_inboxFramed m k r
      refine ⟨_, true, exec_hartReply_identity dt m r x k s hcfg hbusy hrc hentry, ?_, ?_⟩
      · rewrite [hw.hart_eq]
        by_cases hid : r.ident = tget x.addrs k.addr 0
        · rewrite [hid, State.hartIdent_match, State.set_hart]
          rfl
        · rewrite [(State.hartIdent_mismatch _ m k hid).1, State.set_hart]
          rfl
      · rw [InboxFramed.get_eq _ hw m noteFld_CLP_HART_STAT_PAUSED, State.hartIdent_get _ _ _ _ _ m (by decide), hset]
    | some e =>
      obtain ⟨w, hw, hexec⟩ := exec_hartReply_polled dt m r x k s hcfg hbusy hrc hentry
      refine ⟨w, true, hexec, ?_, (InboxFramed.get_eq _ hw m noteFld_CLP_HART_STAT_PAUSED).trans hset⟩
      rewrite [hw.hart_eq, State.set_hart]
      rfl
  · have hexec := exec_hartReply_refused dt m r x k s hcfg hbusy hrc
    rewrite [State.hartFail_eq] at hexec
    refine ⟨_, false, hexec, ?_, (State.failCounted_get _ _ _ _ m (by decide)).trans hset⟩
    rewrite [State.failCounted_hart, State.set_hart]
    rfl

theorem hartReply_ends :
    ∃ t, exec (.hartReply dt m r) s = .next t ∧ (t.hart m).tx = none ∧ (t.hart m).pauseDue = false ∧
      t.get R.CLP_HART_STAT_PAUSED m = (if (s.hart m).pauseDue then 1 else s.get R.CLP_HART_STAT_PAUSED m) ∧ t.get R.CLP_HART_STAT_BUSY m = 0 := by
  obtain ⟨w, ok, hexec, hdue, hpaused⟩ := exec_hartReply_ends dt m r x k s hcfg hbusy
  obtain ⟨hp, hb, -⟩ := w.hartEnd_shows m ok
  rewrite [hdue, hpaused] at hp
  exact ⟨_, hexec, congrArg HartSt.tx (State.hartEnd_hart _ _ _), congrArg HartSt.pauseDue (State.hartEnd_hart _ _ _), hp, hb⟩

theorem hartReply_fails (hrc : r.rc ≠ 0) :
    ∃ t, exec (.hartReply dt m r) s = .next t ∧ (t.hart m).tx = none ∧ t.get R.CLP_HART_STAT_LAST_RC m = r.rc % 256 ∧
      t.get R.CLP_HART_CNT_FAILS m = (s.get R.CLP_HART_CNT_FAILS m + 1) % 65536 ∧
      t.get R.CLP_HART_CNT_TRANS m = (s.get R.CLP_HART_CNT_TRANS m + 1) % 65536 ∧
      tfind (t.hart m).fails k.addr = some ((tget (s.hart m).fails k.addr 0 + 1) % 2 ^ 64) ∧ t.get R.CLP_EVT_HART_FAIL = 1 ∧ t.pts = s.pts := by
  have hexec := exec_hartReply_refused dt m r x k s hcfg hbusy hrc
  rewrite [State.hartFail_eq] at hexec
  have hset {f : Fld} (hf : fkey f ≠ fkey R.CLP_HART_STAT_LAST_RC) :
      ((s.advance dt).set R.CLP_HART_STAT_LAST_RC r.rc m).get f m = s.get f m := State.get_set_ne _ _ _ _ hf
  have hrc' : ((s.advance dt).set R.CLP_HART_STAT_LAST_RC r.rc m).get R.CLP_HART_STAT_LAST_RC m = r.rc % 256 := State.get_set_same _ _ _ _
  have hpts : ((s.advance dt).set R.CLP_HART_STAT_LAST_RC r.rc m).pts = s.pts := rfl
  have hhart : ((s.advance dt).set R.CLP_HART_STAT_LAST_RC r.rc m).hart m = s.hart m := State.set_hart _ _ _ _ _
  generalize (s.advance dt).set R.CLP_HART_STAT_LAST_RC r.rc m = u at hexec hset hrc' hpts hhart
  obtain ⟨hfails, hevt⟩ := u.failCounted_shows m k r.rc
  obtain ⟨-, -, htrans⟩ := (u.failCounted m k r.rc).hartEnd_shows m false
  refine ⟨_, hexec, congrArg HartSt.tx (State.hartEnd_hart _ _ _), ?_, ?_, ?_, ?_, ?_, ?_⟩
  · rw [State.hartEnd_get _ _ _ m (by decide), State.failCounted_get _ _ _ _ m (by decide), hrc']
  · rw [State.hartEnd_get _ _ _ m (by decide), hfails, hset (by decide)]
  · rw [htrans, State.failCounted_get _ _ _ _ m (by decide), hset (by decide)]
  · rewrite [State.hartEnd_hart, State.failCounted_hart, hhart]
    exact tfind_tput_same _ _ _
  · rw [State.hartEnd_get _ _ _ 0 (by decide), hevt]
  · rw [State.hartEnd_pts, State.failCounted_pts, hpts]

theorem hartReply_identifies (hrc : r.rc = 0) (hentry : k.entry = none) (hid : r.ident = tget x.addrs k.addr 0) :
    ∃ t, exec (.hartReply dt m r) s = .next t ∧ (t.hart m).tx = none ∧ k.addr ∈ (t.hart m).ident ∧ tfind (t.hart m).failed k.addr = none ∧
      t.get R.CLP_HART_CNT_FAILS m = s.get R.CLP_HART_CNT_FAILS m ∧
      t.get R.CLP_HART_CNT_TRANS m = (s.get R.CLP_HART_CNT_TRANS m + 1) % 65536 := by
  have hexec := exec_hartReply_identity dt m r x k s hcfg hbusy hrc hentry
  have hw := (((s.advance dt).set R.CLP_HART_STAT_LAST_RC r.rc m).hartIdent m k (tget x.addrs k.addr 0) r.ident).pointsTaken_inboxFramed m k r
  generalize (((s.advance dt).set R.CLP_HART_STAT_LAST_RC r.rc m).hartIdent m k (tget x.addrs k.addr 0) r.ident).pointsTaken m k r = w at hexec hw
  have hhart : w.hart m = (s.hart m).identified k.addr := by
    rewrite [hw.hart_eq, hid, State.hartIdent_match, State.set_hart]
    rfl
  have hget {f : Fld} (hf : apartFrom [R.CLP_HART_STAT_ID_MISMATCH, R.CLP_EVT_HART_ID] f = true) (hl : fkey f ≠ fkey R.CLP_HART_STAT_LAST_RC) :
      w.get f m = s.get f m := by
    rewrite [InboxFramed.get_eq _ hw m (noteFld_of_apartFrom hf), State.hartIdent_get _ _ _ _ _ m hf, State.get_set_ne _ _ _ _ hl]
    rfl
  obtain ⟨-, -, htrans⟩ := w.hartEnd_shows m true
  refine ⟨_, hexec, congrArg HartSt.tx (State.hartEnd_hart _ _ _), ?_, ?_, ?_, ?_⟩
  · rewrite [State.hartEnd_hart, hhart]
    unfold HartSt.identified
    dsimp only
    split
    · assumption
    · exact List.mem_cons_self
  · rewrite [State.hartEnd_hart, hhart]
    exact tfind_filter_ne _ _
  · rw [State.hartEnd_get _ _ _ m (by decide), hget (by decide) (by decide)]
  · rw [htrans, hget (by decide) (by decide)]

theorem hartReply_mismatches (hrc : r.rc = 0) (hentry : k.entry = none) (hid : r.ident ≠ tget x.addrs k.addr 0) :
    ∃ t, exec (.hartReply dt m r) s = .next t ∧ (t.hart m).tx = none ∧ k.addr ∉ (t.hart m).ident ∧
      tfind (t.hart m).failed k.addr = some (s.now + dt) ∧ t.get R.CLP_HART_STAT_ID_MISMATCH m = 1 := by
  have hexec := exec_hartReply_identity dt m r x k s hcfg hbusy hrc hentry
  have hw := (((s.advance dt).set R.CLP_HART_STAT_LAST_RC r.rc m).hartIdent m k (tget x.addrs k.addr 0) r.ident).pointsTaken_inboxFramed m k r
  generalize (((s.advance dt).set R.CLP_HART_STAT_LAST_RC r.rc m).hartIdent m k (tget x.addrs k.addr 0) r.ident).pointsTaken m k r = w at hexec hw
  obtain ⟨hident, hflag⟩ := ((s.advance dt).set R.CLP_HART_STAT_LAST_RC r.rc m).hartIdent_mismatch m k hid
  have hhart : w.hart m = (s.hart m).mismatched k.addr (s.now + dt) := by
    rewrite [hw.hart_eq, hident, State.set_hart]
    rfl
  refine ⟨_, hexec, congrArg HartSt.tx (State.hartEnd_hart _ _ _), ?_, ?_, ?_⟩
  · rewrite [State.hartEnd_hart, hhart]
    exact fun hmem => absurd rfl (of_decide_eq_true (List.mem_filter.1 hmem).2)
  · rewrite [State.hartEnd_hart, hhart]
    exact tfind_tput_same _ _ _
  · rw [State.hartEnd_get _ _ _ m (by decide), InboxFramed.get_eq _ hw m noteFld_CLP_HART_STAT_ID_MISMATCH, hflag]

theorem hartRetry_retries (htries : k.tries ≤ x.retries) :
    ∃ t, exec (.hartRetry dt m) s = .next t ∧ t.hart m = { s.hart m with tx := some { k with tries := k.tries + 1 } } ∧
      Framed [] { s.advance dt with clp := t.clp } t := by
  have hexec : exec (.hartRetry dt m) s =
      .next ((s.advance dt).putHart m { s.hart m with tx := some { k with tries := k.tries + 1 } }) := by
    show execHartRetry dt m s = _
    unfold execHartRetry
    dsimp only
    rewrite [show tfind (s.advance dt).man.clp.modems m = some x from hcfg, State.advance_hart, hbusy]
    exact if_pos htries
  exact ⟨_, hexec, State.putHart_hart _ _ _, .refl _ _⟩

theorem hartRetry_ends (htries : x.retries < k.tries) :
    ∃ t, exec (.hartRetry dt m) s = .next t ∧ (t.hart m).tx = none ∧ (t.hart m).pauseDue = false ∧
      t.get R.CLP_HART_STAT_PAUSED m = (if (s.hart m).pauseDue then 1 else s.get R.CLP_HART_STAT_PAUSED m) ∧ t.get R.CLP_HART_STAT_BUSY m = 0 := by
  have hexec : exec (.hartRetry dt m) s = .next ((s.advance dt).hartFail m k (Config.code 0x0E05 0 % 256)) := by
    show execHartRetry dt m s = _
    unfold execHartRetry
    dsimp only
    rewrite [show tfind (s.advance dt).man.clp.modems m = some x from hcfg, State.advance_hart, hbusy]
    exact if_neg (Nat.not_le.2 htries)
  rewrite [State.hartFail_eq] at hexec
  obtain ⟨hp, hb, -⟩ := ((s.advance dt).failCounted m k (Config.code 0x0E05 0 % 256)).hartEnd_shows m false
  rewrite [State.failCounted_hart, State.failCounted_get _ _ _ _ m (by decide)] at hp
  exact ⟨_, hexec, congrArg HartSt.tx (State.hartEnd_hart _ _ _), congrArg HartSt.pauseDue (State.hartEnd_hart _ _ _), hp, hb⟩

end

/-- Settles O41: each clause is the lemma of its command above. That an address without identity is asked again 60 s after it was last
asked (log 151), and that a command whose condition is not met only lets time pass (log 1), are the model's choices. -/
theorem hartTransactions : Obligations.HartTransactions := by
  unfold Obligations.HartTransactions
  exact ⟨fun dt m x a s => hartPollDue_identifies dt m x s a, fun dt m i x e s => hartPollDue_polls dt m x s i e, exec_hartPollDue_idle,
    hartReply_fails, hartReply_identifies, hartReply_mismatches, hartRetry_retries,
    fun dt m r c s => exec_hartTransaction_none dt m r s c, fun dt m a t₀ x s hcfg hid => hartIdRetry_asks dt m x s a t₀ hid hcfg,
    fun dt m a t₀ s => exec_hartIdRetry_idle dt m s a t₀⟩

/-! ### HART_PAUSE and HART_RESUME (R299) -/

section
variable (dt m : Nat) (p : Port) (s : State)

theorem State.taken_hart : (s.advance dt).rwlTaken.hart m = s.hart m := State.hart_of_clp (State.lullLeave_clp _ 1) m

theorem State.hartNote_get {f : Fld} (b : Nat) (h : noteFld f = false) : (s.hartNote m).get f b = s.get f b := State.record_get _ _ _ h

theorem State.hartNote_clp : (s.hartNote m).clp = s.clp := State.record_clp _ _

section
variable (hs : s.session p = some .operator) (hm : m = s.get R.CLP_HART_SEL_MODEM)
include hs hm

/-- A pause takes effect at once on a modem without a transaction, and waits for its end on one with. -/
theorem exec_hartPause_taken : exec (.hartPause dt p) s =
    .next ((if (s.hart m).tx.isSome then (s.advance dt).rwlTaken.putHart m { s.hart m with pauseDue := true }
      else (s.advance dt).rwlTaken.set R.CLP_HART_STAT_PAUSED 1 m).hartNote m) := by
  have hmodem : (s.advance dt).rwlTaken.get R.CLP_HART_SEL_MODEM = m := (State.taken_get dt s (by decide) 0).trans hm.symm
  refine (congrArg Host.Outcome.next ((s.advance dt).withRole_taken hs (List.mem_singleton.2 rfl) _ _)).trans ?_
  dsimp only
  rw [hmodem, State.taken_hart]

theorem hartPause_free (d : Nat) (hfree : (s.hart m).tx = none) :
    ∃ t, exec (.hartPause dt p) s = .next t ∧ t.get R.CLP_HART_STAT_PAUSED m = 1 ∧ t.clp = s.clp ∧
      (match exec (.hartPollDue d m) t with | .next u => decide (u = t.advance d) | _ => false) = true := by
  have hexec := exec_hartPause_taken dt m p s hs hm
  rewrite [if_neg (by simp [hfree])] at hexec
  have hpaused : (((s.advance dt).rwlTaken.set R.CLP_HART_STAT_PAUSED 1 m).hartNote m).get R.CLP_HART_STAT_PAUSED m = 1 :=
    (State.hartNote_get _ _ m noteFld_CLP_HART_STAT_PAUSED).trans (State.get_set_same _ _ _ _)
  refine ⟨_, hexec, hpaused, ?_, ?_⟩
  · rewrite [State.hartNote_clp, State.set_clp]
    exact State.lullLeave_clp _ 1
  · rewrite [exec_hartPollDue_paused d m _ hpaused]
    exact decide_eq_true rfl

theorem hartPause_busy (k : HartTx) (hbusy : (s.hart m).tx = some k) :
    ∃ t, exec (.hartPause dt p) s = .next t ∧ t.get R.CLP_HART_STAT_PAUSED m = s.get R.CLP_HART_STAT_PAUSED m ∧
      t.hart m = { s.hart m with pauseDue := true } := by
  have hexec := exec_hartPause_taken dt m p s hs hm
  rewrite [if_pos (by simp [hbusy])] at hexec
  exact ⟨_, hexec, (State.hartNote_get _ _ m noteFld_CLP_HART_STAT_PAUSED).trans (State.taken_get dt s (by decide) m),
    (State.hart_of_clp (State.hartNote_clp _ _) m).trans (State.putHart_hart _ _ _)⟩

theorem hartResume_resumes :
    ∃ t, exec (.hartResume dt p) s = .next t ∧ t.get R.CLP_HART_STAT_PAUSED m = 0 ∧ t.hart m = { s.hart m with pauseDue := false } := by
  have hmodem : (s.advance dt).rwlTaken.get R.CLP_HART_SEL_MODEM = m := (State.taken_get dt s (by decide) 0).trans hm.symm
  have hexec : exec (.hartResume dt p) s = .next ((((s.advance dt).rwlTaken.putHart m { s.hart m with pauseDue := false }).set
      R.CLP_HART_STAT_PAUSED 0 m).hartNote m) := by
    refine (congrArg Host.Outcome.next ((s.advance dt).withRole_taken hs (List.mem_singleton.2 rfl) _ _)).trans ?_
    dsimp only
    rw [hmodem, State.taken_hart]
  refine ⟨_, hexec, (State.hartNote_get _ _ m noteFld_CLP_HART_STAT_PAUSED).trans (State.get_set_same _ _ _ _), ?_⟩
  rw [State.hart_of_clp (State.hartNote_clp _ _), State.set_hart, State.putHart_hart]

end

theorem hartPause_denied (c : Instr) (hc : c ∈ [Instr.hartPause dt p, .hartResume dt p]) (hs : s.session p ≠ some .operator) :
    ∃ t, exec c s = .next t ∧ t.clp = s.clp ∧ t.role = s.role ∧
      t.get R.CLP_HART_STAT_PAUSED (s.get R.CLP_HART_SEL_MODEM) = s.get R.CLP_HART_STAT_PAUSED (s.get R.CLP_HART_SEL_MODEM) := by
  have hdenied (act : State → State) : (s.advance dt).withRole p [.operator] 0xD02C act = ((s.advance dt).lullLeave 1).rwlIgnored p 0xD02C :=
    State.withRole_denied _ _ _ _ _ fun r hr hmem => hs (hr.trans (congrArg some (List.mem_singleton.1 hmem)))
  have hexec : exec c s = .next (((s.advance dt).lullLeave 1).rwlIgnored p 0xD02C) := by
    simp only [List.mem_cons, List.not_mem_nil, or_false] at hc
    rcases hc with rfl | rfl
    · exact congrArg Host.Outcome.next (hdenied _)
    · exact congrArg Host.Outcome.next (hdenied _)
  refine ⟨_, hexec, ?_, ?_, ?_⟩
  · rewrite [State.rwlIgnored_clp, State.lullLeave_clp]
    rfl
  · rewrite [State.rwlIgnored_role, State.lullLeave_role]
    rfl
  · rewrite [State.rwlIgnored_get _ _ _ _ noteFld_CLP_HART_STAT_PAUSED, State.lullLeave_get _ _ _ (by decide)]
    rfl

end

/-- Settles O40: a pause and a resume by their lemmas above, and the transaction that a pause waits for by the lemmas of its end. -/
theorem hartPauses : Obligations.HartPauses := by
  unfold Obligations.HartPauses
  exact ⟨fun dt d m p s hs hm => hartPause_free dt m p s hs hm d, fun dt m p k s hs hm => hartPause_busy dt m p s hs hm k,
    hartReply_ends, hartRetry_ends, hartResume_resumes, fun dt p c s hc => hartPause_denied dt p s c hc⟩

end Sys2Proof.Machine
end

section
set_option Elab.async false
/-!
PROOF of the statement of 13_step_channels.md about motor commands (MotorCommands): the rules of a channel's own data, what cutting a
channel off, a start and a reset show and leave alone, then the Installer's way of a command and that of the command point.
-/

namespace Sys2Proof.Machine

open Sys2Proof

/-! ### The microstep channels' own data -/

section
variable {ks : List Nat} {s t : State} {x : StepAll}

theorem Framed.withStep (x : StepAll) (h : Framed ks s t) : Framed ks { s with step := x } { t with step := x } :=
  ⟨congrArg (fun u : State => { u with step := x }) h.plain, h.regs⟩

/-- A frame over given data of the channels is a frame over the data the command leaves. -/
theorem Framed.ownStep (h : Framed ks { s with step := x } t) : Framed ks { s with step := t.step } t := by
  rewrite [State.of_plain_step h.plain]
  exact h

/-- A channel's data is read in the channels' table and nowhere else. -/
theorem State.stepCh_of_step (h : t.step = s.step) (n : Nat) : t.stepCh n = s.stepCh n := by
  unfold State.stepCh
  rw [h]

end

section
variable (s : State) (n : Nat) (v : StepSt)

@[simp] theorem State.putStep_stepCh : (s.putStep n v).stepCh n = v := by
  unfold State.putStep State.stepCh tget
  simp

theorem State.putStep_stepCh_ne {k : Nat} (h : k ≠ n) : (s.putStep n v).stepCh k = s.stepCh k := by
  unfold State.putStep State.stepCh tget
  rw [tfind_tput_ne _ _ _ _ h]

@[simp] theorem State.putStep_get (f : Fld) (b : Nat) : (s.putStep n v).get f b = s.get f b := rfl

@[simp] theorem State.putStep_stepState (k : Nat) : (s.putStep n v).stepState k = s.stepState k := rfl

@[simp] theorem State.advance_stepCh (dt : Nat) : (s.advance dt).stepCh n = s.stepCh n := rfl

@[simp] theorem State.advance_stepState (dt : Nat) : (s.advance dt).stepState n = s.stepState n := rfl

@[simp] theorem State.set_stepCh (f : Fld) (x b : Nat) : (s.set f x b).stepCh n = s.stepCh n :=
  State.stepCh_of_step (State.set_step _ _ _ _) n

@[simp] theorem State.setI_stepCh (f : Fld) (x : Int) (b : Nat) : (s.setI f x b).stepCh n = s.stepCh n := State.set_stepCh _ _ _ _ _

@[simp] theorem State.evt_stepCh (f : Fld) (b : Nat) : (s.evt f b).stepCh n = s.stepCh n :=
  State.stepCh_of_step (State.evt_step _ _ _) n

@[simp] theorem State.record_stepCh (e : Ev) : (s.record e).stepCh n = s.stepCh n :=
  State.stepCh_of_step (State.record_step _ _) n

/-! ### A channel is cut off (R316) -/

/-- A channel's data once it is cut off: both coils OFF, the profile abandoned, the position wrapped to its 64 bits. -/
def StepSt.cut (c : StepSt) : StepSt :=
  { c with v := 0, a := 0, kind := 0, rampAt := none, amp := 0, pos := (c.pos + 2 ^ 63) % 2 ^ 64 - 2 ^ 63,
           coilA := { c.coilA with bridge := 0, drive := false }, coilB := { c.coilB with bridge := 0, drive := false } }

/-- The fields of a channel that cutting it off writes. -/
def cutFlds : List Fld :=
  [R.STEP_CH_STAT_STATE, R.STEP_CH_STAT_HOME_PHASE, R.STEP_CH_VEL_USTEP_S, R.STEP_CH_CUR_I_AMP, R.STEP_CH_STAT_AT_CEILING,
   R.STEP_CH_STAT_DEC_RAISED, R.STEP_CH_STAT_HOMED, R.STEP_CH_STAT_POS_LOST]

/-- The channel is cut off; that the position is lost is still to be told of. -/
def State.cutOff (new : Nat) : State :=
  (((((((s.putStep n (s.stepCh n).cut).set R.STEP_CH_STAT_STATE new n).set R.STEP_CH_STAT_HOME_PHASE 0 n).set R.STEP_CH_VEL_USTEP_S 0 n).set
    R.STEP_CH_CUR_I_AMP 0 n).set R.STEP_CH_STAT_AT_CEILING 0 n).set R.STEP_CH_STAT_DEC_RAISED 0 n).set R.STEP_CH_STAT_HOMED 0 n

section
variable (cause new : Nat)

theorem State.cutOff_stepCh : (s.cutOff n new).stepCh n = (s.stepCh n).cut := by
  unfold State.cutOff
  simp only [State.set_stepCh, State.putStep_stepCh]

theorem State.stepCut_eq : s.stepCut n cause new = if (s.cutOff n new).flag R.STEP_CH_STAT_POS_LOST n then s.cutOff n new
    else (((s.cutOff n new).set R.STEP_CH_STAT_POS_LOST 1 n).evt R.STEP_EVT_POS_LOST).record
      { code := 0x0F03, source := n, items := [(1, n), caseItem 0x0F03 cause] } := rfl

theorem State.stepCut_stepCh : (s.stepCut n cause new).stepCh n = (s.stepCh n).cut := by
  rewrite [State.stepCut_eq]
  split
  · exact s.cutOff_stepCh n new
  · rw [State.record_stepCh, State.evt_stepCh, State.set_stepCh, State.cutOff_stepCh]

theorem State.stepCut_shows (hnew : new < 8) : (s.stepCut n cause new).stepState n = new ∧
    (s.stepCut n cause new).get R.STEP_CH_STAT_POS_LOST n = 1 ∧ (s.stepCut n cause new).get R.STEP_CH_STAT_HOMED n = 0 := by
  have hstate : (s.cutOff n new).get R.STEP_CH_STAT_STATE n = new := by
    unfold State.cutOff
    simp (disch := decide) only [State.get_set_ne, State.get_set_same]
    exact Nat.mod_eq_of_lt hnew
  have hhomed : (s.cutOff n new).get R.STEP_CH_STAT_HOMED n = 0 := State.get_set_same _ _ _ _
  rewrite [State.stepCut_eq]
  unfold State.stepState
  split
  next hlost => exact ⟨hstate, of_decide_eq_true hlost, hhomed⟩
  next =>
    simp (disch := decide) only [State.record_get, State.evt_get_ne, State.get_set_ne, State.get_set_same, hstate, hhomed]
    exact ⟨trivial, rfl, trivial⟩

theorem State.stepCut_get {f : Fld} (b : Nat) (h : apartFrom (R.STEP_EVT_POS_LOST :: cutFlds) f = true) :
    (s.stepCut n cause new).get f b = s.get f b := by
  have hn := noteFld_of_apartFrom h
  have hset (u : State) (g : Fld) (x c : Nat) (hg : g ∈ R.STEP_EVT_POS_LOST :: cutFlds) : (u.set g x c).get f b = u.get f b :=
    State.get_set_ne _ _ _ _ (apartFrom_ne h hg)
  have hcut : (s.cutOff n new).get f b = s.get f b := by
    unfold State.cutOff
    iterate 7 rewrite [hset _ _ _ _ (by simp [cutFlds])]
    rfl
  rewrite [State.stepCut_eq]
  split
  · exact hcut
  · rw [State.record_get _ _ _ hn, State.evt_get_ne _ _ _ hn (apartFrom_ne h (by simp)), hset _ _ _ _ (by simp [cutFlds]), hcut]

end

/-! ### A channel starts (R317) -/

/-- Energising changes a channel's amplitude, its ramp and its coils only. -/
theorem State.stepEnergise_stepCh : ∃ (amp : Rat) (a b : CoilSt), (s.stepEnergise n).stepCh n = { s.stepCh n with
    rampAt := if s.stepState n = 0 then some s.now else (s.stepCh n).rampAt, amp := amp, coilA := a, coilB := b } := by
  unfold State.stepEnergise State.coilsOn
  split
  · rewrite [State.putStep_stepCh, State.putStep_stepCh]
    exact ⟨_, _, _, rfl⟩
  · exact ⟨_, _, _, rfl⟩

theorem State.stepEnergise_get (f : Fld) (b : Nat) : (s.stepEnergise n).get f b = s.get f b := by
  unfold State.stepEnergise
  split <;> rfl

theorem State.stepStart_stepCh (st : Nat) (upd : StepSt → StepSt) : ∃ (amp : Rat) (a b : CoilSt),
    (s.stepStart n st upd).stepCh n = upd { s.stepCh n with
      rampAt := if s.stepState n = 0 then some s.now else (s.stepCh n).rampAt, amp := amp, coilA := a, coilB := b, idle := false } := by
  obtain ⟨amp, a, b, h⟩ := s.stepEnergise_stepCh n
  refine ⟨amp, a, b, ?_⟩
  unfold State.stepStart
  dsimp only
  rw [State.set_stepCh, State.putStep_stepCh, h]

theorem State.stepStart_stepState (st : Nat) (upd : StepSt → StepSt) (h : st < 8) : (s.stepStart n st upd).stepState n = st :=
  (State.get_set_same _ _ _ _).trans (Nat.mod_eq_of_lt h)

end

/-! ### The command point (R311 to R313, R316, R317, R319) -/

theorem exec_stepCmds_point (dt n tag i : Nat) (arg : Int) (s : State) (y : Nat × Int × Instr) (hy : y ∈ stepCmds dt (.point i) n tag arg) :
    exec y.2.2 s = .next ((s.advance dt).stepCmd y.1 (.point i) n tag y.2.1) := by
  simp only [stepCmds, List.mem_cons, List.not_mem_nil, or_false] at hy
  rcases hy with rfl | rfl | rfl | rfl | rfl | rfl <;> rfl

/-- The number of a command point's TARGET, 0 where the channel has none. -/
def State.pointTarget (s : State) (x : StepCfg) : Int := match x.target with | some j => (s.ptRead j).1.floor | none => 0

/-- What a command from a channel's own command point does and answers. -/
def State.pointDo (s : State) (n : Nat) (x : StepCfg) (cmd : Nat) : State × Nat :=
  let v := match x.vLim with | some i => (s.ptRead i).1 | none => x.vMax
  let a := match x.aLim with | some i => (s.ptRead i).1 / x.aMax | none => 1
  s.stepDo n x cmd (if cmd = 2 then v.floor else s.pointTarget x) v (if 0 < a then min 1 a else 1) true

theorem works_of_mode (dt : Nat) (s : State) (hlo : 2 ≤ s.mode) (hhi : s.mode ≤ 4) :
    ((s.advance dt).mode < 2 || 4 < (s.advance dt).mode) = false := by
  simp only [show (s.advance dt).mode = s.mode from rfl, Bool.or_eq_false_iff, decide_eq_false_iff_not]
  omega

section
variable (dt n tag i : Nat) (arg : Int) (x : StepCfg) (s : State) (hcfg : tfind s.man.step n = some x)
include hcfg

theorem exec_stepCmds_otherPoint (y : Nat × Int × Instr) (hy : y ∈ stepCmds dt (.point i) n tag arg) (h : x.cmd ≠ some i) :
    exec y.2.2 s = .next (s.advance dt) := by
  rewrite [exec_stepCmds_point dt n tag i arg s y hy]
  unfold State.stepCmd
  dsimp only
  rewrite [show tfind (s.advance dt).man.step n = some x from hcfg]
  unfold State.stepPoint
  exact congrArg _ (if_pos h)

variable (hcmd : x.cmd = some i)
include hcmd

/-- A command of the channel's own command point that is not refused leaves what it does. -/
theorem stepCmd_ownPoint (cmd : Nat) {u : State} (hdo : (s.advance dt).pointDo n x cmd = (u, 2)) :
    (s.advance dt).stepCmd cmd (.point i) n tag arg = u := by
  unfold State.stepCmd
  dsimp only
  rewrite [show tfind (s.advance dt).man.step n = some x from hcfg]
  have hpoint : (s.advance dt).stepPoint n x cmd i =
      if 3 ≤ ((s.advance dt).pointDo n x cmd).2 then
        ((s.advance dt).pointDo n x cmd).1.stepRefused n cmd ((s.advance dt).pointDo n x cmd).2 0 .device 0
      else ((s.advance dt).pointDo n x cmd).1 := if_neg (not_not_intro hcmd)
  dsimp only
  rewrite [hpoint, hdo]
  exact if_neg (by simp)

variable (hlo : 2 ≤ s.mode) (hhi : s.mode ≤ 4)
include hlo hhi

theorem stepMove_point (hst : s.stepState n ∈ [0, 1]) (hhome : x.requireHome = false) (hcut : (s.stepCh n).stopTick ≠ some s.tick)
    (hmin : x.posMin ≤ (match x.target with | some j => ((s.advance dt).ptRead j).1.floor | none => 0))
    (hmax : (match x.target with | some j => ((s.advance dt).ptRead j).1.floor | none => 0) ≤ x.posMax) :
    ∃ t, exec (.stepMove dt (.point i) n tag arg) s = .next t ∧ t.stepState n = 2 ∧ (t.stepCh n).kind = 1 ∧ (t.stepCh n).byPoint = true ∧
      (t.stepCh n).target = (match x.target with | some j => ((s.advance dt).ptRead j).1.floor | none => 0) ∧
      (t.stepCh n).pos = (s.stepCh n).pos ∧
      (t.stepCh n).rampAt = (if s.stepState n = 0 then some (s.now + dt) else (s.stepCh n).rampAt) := by
  have hmode := works_of_mode dt s hlo hhi
  have hst' : s.stepState n = 0 ∨ s.stepState n = 1 := by simpa using hst
  let tgt := (s.advance dt).pointTarget x
  obtain ⟨v, sc, hdo⟩ : ∃ (v sc : Rat), (s.advance dt).pointDo n x 1 =
      (((s.advance dt).stepStart n 2 fun c => { c with kind := 1, target := tgt, speed := min x.vMax (absR v), scale := sc, byPoint := true }).setI
        R.STEP_CH_TGT_USTEP tgt n, 2) := by
    unfold State.pointDo State.stepDo
    dsimp only
    rewrite [hmode]
    refine ⟨_, _, (if_neg (by decide)).trans ((if_neg ?_).trans ((if_neg ?_).trans ((if_neg ?_).trans rfl)))⟩
    · rcases hst' with h | h <;> simp [h, hcut, hhome]
    · rcases hst' with h | h <;> simp [h]
    · simpa [State.pointTarget] using ⟨hmin, hmax⟩
  obtain ⟨amp, a, b, hch⟩ := (s.advance dt).stepStart_stepCh n 2 fun c =>
    { c with kind := 1, target := tgt, speed := min x.vMax (absR v), scale := sc, byPoint := true }
  have hst2 := (s.advance dt).stepStart_stepState n 2 (fun c =>
    { c with kind := 1, target := tgt, speed := min x.vMax (absR v), scale := sc, byPoint := true }) (by decide)
  refine ⟨_, congrArg Host.Outcome.next (stepCmd_ownPoint dt n tag i arg x s hcfg hcmd 1 hdo), (State.get_set_ne _ _ _ _ (by decide)).trans hst2, ?_⟩
  rewrite [State.setI_stepCh, hch]
  exact ⟨rfl, rfl, rfl, rfl, rfl⟩

theorem stepVelocity_point (hst : s.stepState n ∈ [0, 1]) (hhome : x.requireHome = false) (hcut : (s.stepCh n).stopTick ≠ some s.tick) :
    ∃ t, exec (.stepVelocity dt (.point i) n tag arg) s = .next t ∧ t.stepState n = 2 ∧ (t.stepCh n).kind = 2 ∧
      (t.stepCh n).byPoint = true ∧ ((t.stepCh n).speed < 0 → (t.stepCh n).target = x.posMin) ∧
      (0 ≤ (t.stepCh n).speed → (t.stepCh n).target = x.posMax) ∧ (t.stepCh n).pos = (s.stepCh n).pos := by
  have hmode := works_of_mode dt s hlo hhi
  have hst' : s.stepState n = 0 ∨ s.stepState n = 1 := by simpa using hst
  obtain ⟨w, sc, hdo⟩ : ∃ (w sc : Rat), (s.advance dt).pointDo n x 2 =
      (((s.advance dt).stepStart n 2 fun c =>
        { c with kind := 2, target := if w < 0 then x.posMin else x.posMax, speed := w, scale := sc, byPoint := true }).setI
        R.STEP_CH_TGT_USTEP (if w < 0 then x.posMin else x.posMax) n, 2) := by
    unfold State.pointDo State.stepDo
    dsimp only
    rewrite [hmode]
    refine ⟨_, _, (if_neg (by decide)).trans ((if_neg ?_).trans ((if_neg ?_).trans rfl))⟩
    · rcases hst' with h | h <;> simp [h, hcut, hhome]
    · rcases hst' with h | h <;> simp [h]
  obtain ⟨amp, a, b, hch⟩ := (s.advance dt).stepStart_stepCh n 2 fun c =>
    { c with kind := 2, target := if w < 0 then x.posMin else x.posMax, speed := w, scale := sc, byPoint := true }
  have hst2 := (s.advance dt).stepStart_stepState n 2 (fun c =>
    { c with kind := 2, target := if w < 0 then x.posMin else x.posMax, speed := w, scale := sc, byPoint := true }) (by decide)
  refine ⟨_, congrArg Host.Outcome.next (stepCmd_ownPoint dt n tag i arg x s hcfg hcmd 2 hdo), (State.get_set_ne _ _ _ _ (by decide)).trans hst2, ?_⟩
  rewrite [State.setI_stepCh, hch]
  exact ⟨rfl, rfl, fun hneg => if_pos hneg, fun hpos => if_neg (not_lt.2 hpos), rfl⟩

theorem stepHalt_point (hst : s.stepState n ∈ [2, 4]) :
    ∃ t, exec (.stepHalt dt (.point i) n tag) s = .next t ∧ t.stepState n = 3 ∧ t.get R.STEP_CH_STAT_HOME_PHASE n = 0 ∧ t.step = s.step ∧
      Framed (regKeys n [R.STEP_CH_STAT_STATE, R.STEP_CH_STAT_HOME_PHASE]) (s.advance dt) t := by
  have hst' : s.stepState n = 2 ∨ s.stepState n = 4 := by simpa using hst
  have hdo : (s.advance dt).pointDo n x 3 =
      (((s.advance dt).set R.STEP_CH_STAT_STATE 3 n).set R.STEP_CH_STAT_HOME_PHASE 0 n, 2) := by
    unfold State.pointDo State.stepDo State.stepHaltNow
    dsimp only
    rewrite [works_of_mode dt s hlo hhi, if_neg (by decide)]
    exact congrArg (·, 2) (if_pos (by rcases hst' with h | h <;> simp [h]))
  refine ⟨_, congrArg Host.Outcome.next (stepCmd_ownPoint dt n tag i 0 x s hcfg hcmd 3 hdo), ?_, ?_, rfl, ?_⟩
  · exact (State.get_set_ne _ _ _ _ (by decide)).trans (State.get_set_same _ _ _ _)
  · exact State.get_set_same _ _ _ _
  · exact set_framed _ _ _ _ (.inl (by simp [regKeys])) (set_framed _ _ _ _ (.inl (by simp [regKeys])) (.refl _ _))

theorem stepStop_point (hst : s.stepState n ≠ 5) :
    ∃ t, exec (.stepStop dt (.point i) n tag) s = .next t ∧ t.stepState n = 0 ∧ (t.stepCh n).v = 0 ∧ (t.stepCh n).amp = 0 ∧
      (t.stepCh n).coilA.bridge = 0 ∧ (t.stepCh n).coilB.bridge = 0 ∧ (t.stepCh n).stopTick = some s.tick ∧
      t.get R.STEP_CH_STAT_POS_LOST n = 1 ∧ t.get R.STEP_CH_STAT_HOMED n = 0 := by
  have hdo : (s.advance dt).pointDo n x 4 = (((s.advance dt).putStep n { s.stepCh n with stopTick := some s.tick }).stepCut n 0 0, 2) := by
    unfold State.pointDo State.stepDo
    dsimp only
    rewrite [works_of_mode dt s hlo hhi, if_neg (by decide)]
    exact if_neg hst
  obtain ⟨hstate, hlost, hhomed⟩ := ((s.advance dt).putStep n { s.stepCh n with stopTick := some s.tick }).stepCut_shows n 0 0 (by decide)
  refine ⟨_, congrArg Host.Outcome.next (stepCmd_ownPoint dt n tag i 0 x s hcfg hcmd 4 hdo), hstate, ?_⟩
  rewrite [State.stepCut_stepCh, State.putStep_stepCh]
  exact ⟨rfl, rfl, rfl, rfl, rfl, hlost, hhomed⟩

theorem stepHome_point (hst : s.stepState n ∈ [0, 1]) (hcut : (s.stepCh n).stopTick ≠ some s.tick) :
    ∃ t, exec (.stepHome dt (.point i) n tag) s = .next t ∧ t.stepState n = 4 ∧ t.get R.STEP_CH_STAT_HOME_PHASE n = 1 ∧
      (t.stepCh n).seekFrom = (s.stepCh n).pos / p32 ∧ (t.stepCh n).chatter = 0 ∧ (t.stepCh n).pos = (s.stepCh n).pos := by
  have hst' : s.stepState n = 0 ∨ s.stepState n = 1 := by simpa using hst
  have hdo : (s.advance dt).pointDo n x 5 =
      (((s.advance dt).stepStart n 4 fun c => { c with kind := 0, seekFrom := c.pos / p32, chatter := 0, scale := 1, byPoint := true }).set
        R.STEP_CH_STAT_HOME_PHASE 1 n, 2) := by
    unfold State.pointDo State.stepDo
    dsimp only
    rewrite [works_of_mode dt s hlo hhi]
    refine (if_neg (by decide)).trans ((if_neg ?_).trans (if_neg ?_))
    · rcases hst' with h | h <;> simp [h, hcut]
    · rcases hst' with h | h <;> simp [h]
  obtain ⟨amp, a, b, hch⟩ := (s.advance dt).stepStart_stepCh n 4 fun c =>
    { c with kind := 0, seekFrom := c.pos / p32, chatter := 0, scale := 1, byPoint := true }
  have hst4 := (s.advance dt).stepStart_stepState n 4 (fun c =>
    { c with kind := 0, seekFrom := c.pos / p32, chatter := 0, scale := 1, byPoint := true }) (by decide)
  refine ⟨_, congrArg Host.Outcome.next (stepCmd_ownPoint dt n tag i 0 x s hcfg hcmd 5 hdo), (State.get_set_ne _ _ _ _ (by decide)).trans hst4,
    State.get_set_same _ _ _ _, ?_⟩
  rewrite [State.set_stepCh, hch]
  exact ⟨rfl, rfl, rfl⟩

theorem stepReset_point (hst : s.stepState n = 5) :
    ∃ t, exec (.stepReset dt (.point i) n tag) s = .next t ∧ t.stepState n = 0 ∧ t.get R.STEP_CH_STAT_CAUSE n = 0 ∧ t.step = s.step ∧
      (s.get R.STEP_CH_STAT_STALL n = 1 → t.get R.STEP_CH_STAT_STALL n = 0) ∧
      Framed (regKeys n [R.STEP_CH_STAT_STATE, R.STEP_CH_STAT_CAUSE, R.STEP_CH_STAT_STALL]) (s.advance dt) t := by
  let u : State := (((s.advance dt).set R.STEP_CH_STAT_STATE 0 n).set R.STEP_CH_STAT_CAUSE 0 n)
  have hstall : u.get R.STEP_CH_STAT_STALL n = s.get R.STEP_CH_STAT_STALL n :=
    (State.get_set_ne _ _ _ _ (by decide)).trans (State.get_set_ne _ _ _ _ (by decide))
  have hcause : u.get R.STEP_CH_STAT_CAUSE n = 0 := State.get_set_same _ _ _ _
  have hstate : u.get R.STEP_CH_STAT_STATE n = 0 := (State.get_set_ne _ _ _ _ (by decide)).trans (State.get_set_same _ _ _ _)
  have hframed : Framed (regKeys n [R.STEP_CH_STAT_STATE, R.STEP_CH_STAT_CAUSE, R.STEP_CH_STAT_STALL]) (s.advance dt) u :=
    set_framed _ _ _ _ (.inl (by simp [regKeys])) (set_framed _ _ _ _ (.inl (by simp [regKeys])) (.refl _ _))
  obtain ⟨e, e', hdo⟩ : ∃ e e' : Ev, (s.advance dt).pointDo n x 6 =
      ((if u.flag R.STEP_CH_STAT_STALL n then (u.set R.STEP_CH_STAT_STALL 0 n).record e else u).record e', 2) := by
    unfold State.pointDo State.stepDo
    dsimp only
    rewrite [works_of_mode dt s hlo hhi, if_neg (by decide)]
    exact ⟨_, _, if_pos hst⟩
  refine ⟨_, congrArg Host.Outcome.next (stepCmd_ownPoint dt n tag i 0 x s hcfg hcmd 6 hdo), ?_, ?_, ?_, fun h1 => ?_, ?_⟩
  · unfold State.stepState
    rewrite [State.record_get _ _ _ noteFld_STEP_CH_STAT_STATE]
    split
    · rw [State.record_get _ _ _ noteFld_STEP_CH_STAT_STATE, State.get_set_ne _ _ _ _ (by decide), hstate]
    · exact hstate
  · rewrite [State.record_get _ _ _ (by decide)]
    split
    · rw [State.record_get _ _ _ (by decide), State.get_set_ne _ _ _ _ (by decide), hcause]
    · exact hcause
  · rewrite [State.record_step]
    split
    · rewrite [State.record_step]
      rfl
    · rfl
  · rewrite [State.record_get _ _ _ (by decide), if_pos (show u.flag R.STEP_CH_STAT_STALL n = true from decide_eq_true (hstall.trans h1)),
      State.record_get _ _ _ (by decide), State.get_set_same]
    rfl
  · exact State.record_framed _ _ (ite_framed (State.record_framed _ _ (set_framed _ _ _ _ (.inl (by simp [regKeys])) hframed)) hframed)

end

/-! ### The Installer's commands (R311, R322) -/

/-- A result of a command, with the record of a refusal. -/
theorem State.stepResult_eq (s : State) (n cmd tag res src keyId : Nat) : ∃ e : Ev, s.stepResult n cmd tag res src keyId =
    if 3 ≤ res then (((s.set R.STEP_CMD_STAT_RESULT res).set R.STEP_CMD_STAT_TAG tag).evt R.STEP_EVT_CMD_REFUSED).record e
    else (s.set R.STEP_CMD_STAT_RESULT res).set R.STEP_CMD_STAT_TAG tag := ⟨_, rfl⟩

theorem State.stepResult_refused (s : State) (n cmd tag res src keyId : Nat) (h3 : 3 ≤ res) (h : res < 8) :
    (s.stepResult n cmd tag res src keyId).step = s.step ∧
    (s.stepResult n cmd tag res src keyId).get R.STEP_CMD_STAT_RESULT = res ∧
    (s.stepResult n cmd tag res src keyId).get R.STEP_EVT_CMD_REFUSED = 1 := by
  obtain ⟨e, he⟩ := s.stepResult_eq n cmd tag res src keyId
  rewrite [he, if_pos h3, State.record_step, State.evt_step, State.record_get _ _ _ (by decide), State.evt_get_ne _ _ _ (by decide) (by decide),
    State.get_set_ne _ _ _ _ (by decide), State.get_set_same, State.record_get _ _ _ (by decide), State.evt_get_same _ _ _ (by decide)]
  exact ⟨rfl, Nat.mod_eq_of_lt (Nat.lt_of_lt_of_le h (by decide)), rfl⟩

/-- The command as its registers show it. -/
def State.stepAsked (s : State) (n cmd tag : Nat) (arg : Int) : State :=
  (((s.set R.STEP_CMD_CMD cmd).set R.STEP_CMD_CH (n % 8)).set R.STEP_CMD_TAG (tag % 256)).setI R.STEP_CMD_ARG_ARG arg

theorem State.stepAsked_get (s : State) (n cmd tag : Nat) (arg : Int) {f : Fld} (b : Nat)
    (h : apartFrom [R.STEP_CMD_CMD, R.STEP_CMD_CH, R.STEP_CMD_TAG, R.STEP_CMD_ARG_ARG] f = true) :
    (s.stepAsked n cmd tag arg).get f b = s.get f b := by
  unfold State.stepAsked State.setI
  iterate 4 rw [State.get_set_ne _ _ _ _ (apartFrom_ne h (by simp))]

theorem State.stepAsked_shows (s : State) (n cmd tag : Nat) (arg : Int) (hcmd : cmd < 8) :
    (s.stepAsked n cmd tag arg).get R.STEP_CMD_CMD = cmd ∧ (s.stepAsked n cmd tag arg).get R.STEP_CMD_CH = n % 8 := by
  unfold State.stepAsked State.setI
  simp (disch := decide) only [State.get_set_ne, State.get_set_same]
  exact ⟨Nat.mod_eq_of_lt (Nat.lt_of_lt_of_le hcmd (by decide)), Nat.mod_mod _ _⟩

/-- How a command of an Installer's session is judged: by the mode and the role of the device, by the channel, and by its function.
`u` shows the command in its registers. -/
def State.stepJudged (s u : State) (p : Port) (n cmd tag : Nat) (arg : Int) (now : Nat) : State :=
  if u.follows || (s.mode = 1 && s.get R.MODE_STAT_PHASE = 9) || (s.mode ≠ 1 && !s.isActive) then
    u.stepResult (n % 8) cmd (tag % 256) 7 (1 + p.code) s.role.keyId
  else match tfind s.man.step (n % 8) with
    | none => u.stepResult (n % 8) cmd (tag % 256) 4 (1 + p.code) s.role.keyId
    | some c =>
      if s.mode ≠ 2 then u.stepResult (n % 8) cmd (tag % 256) 4 (1 + p.code) s.role.keyId
      else if s.fnState c.fn ≠ 0 then u.stepResult (n % 8) cmd (tag % 256) 5 (1 + p.code) s.role.keyId
      else ({ u with step := { s.step with cmds := s.step.cmds ++ [⟨cmd, n % 8, tag % 256, arg, p, s.role.keyId, now⟩] } } : State).stepResult
        (n % 8) cmd (tag % 256) 1 (1 + p.code) s.role.keyId

section
variable (dt n tag : Nat) (arg : Int) (p : Port) (s : State) (x : Nat × Int × Instr) (hx : x ∈ stepCmds dt (.host p) n tag arg)
include hx

theorem exec_stepCmds_host : exec x.2.2 s = .next ((s.advance dt).stepHost p n x.1 tag x.2.1) := by
  simp only [stepCmds, List.mem_cons, List.not_mem_nil, or_false] at hx
  rcases hx with rfl | rfl | rfl | rfl | rfl | rfl <;> rfl

theorem stepCmds_code : x.1 < 8 := by
  simp only [stepCmds, List.mem_cons, List.not_mem_nil, or_false] at hx
  rcases hx with rfl | rfl | rfl | rfl | rfl | rfl <;> simp

theorem stepCmds_denied (hs : s.session p ≠ some .installer) : ∃ t, exec x.2.2 s = .next t ∧ t.step = s.step ∧ t.role = s.role := by
  have hdenied (act : State → State) : (s.advance dt).withRole p [.installer] 0xE028 act = ((s.advance dt).lullLeave 1).rwlIgnored p 0xE028 :=
    State.withRole_denied _ _ _ _ _ fun r hr hmem => hs (hr.trans (congrArg some (List.mem_singleton.1 hmem)))
  refine ⟨_, (exec_stepCmds_host dt n tag arg p s x hx).trans (congrArg _ (hdenied _)), ?_, ?_⟩
  · rewrite [State.rwlIgnored_step, State.lullLeave_step]
    rfl
  · rewrite [State.rwlIgnored_role, State.lullLeave_role]
    rfl

variable (hs : s.session p = some .installer)
include hs

/-- A command of an Installer's session is judged by what the state says on which it arrives. -/
theorem exec_stepCmds_judged :
    exec x.2.2 s = .next (s.stepJudged ((s.advance dt).rwlTaken.stepAsked n x.1 tag x.2.1) p n x.1 tag x.2.1 (s.now + dt)) := by
  have hget {f : Fld} (b : Nat) (hl : lullKeeps f = true) (ha : apartFrom [R.STEP_CMD_CMD, R.STEP_CMD_CH, R.STEP_CMD_TAG, R.STEP_CMD_ARG_ARG] f = true) :
      ((s.advance dt).rwlTaken.stepAsked n x.1 tag x.2.1).get f b = s.get f b :=
    (State.stepAsked_get _ _ _ _ _ b ha).trans (State.taken_get dt s hl b)
  have hmode : ((s.advance dt).rwlTaken.stepAsked n x.1 tag x.2.1).mode = s.mode := hget 0 (by decide) (by decide)
  have hphase : ((s.advance dt).rwlTaken.stepAsked n x.1 tag x.2.1).get R.MODE_STAT_PHASE = s.get R.MODE_STAT_PHASE := hget 0 (by decide) (by decide)
  have hactive : ((s.advance dt).rwlTaken.stepAsked n x.1 tag x.2.1).isActive = s.isActive :=
    congrArg (fun v : Nat => decide (v = 1)) (hget 0 (by decide) (by decide))
  have hfn (f : Nat) : ((s.advance dt).rwlTaken.stepAsked n x.1 tag x.2.1).fnState f = s.fnState f := hget f (by decide) (by decide)
  have hman : ((s.advance dt).rwlTaken.stepAsked n x.1 tag x.2.1).man = s.man := State.rwlTaken_man _
  have hstep : ((s.advance dt).rwlTaken.stepAsked n x.1 tag x.2.1).step = s.step := State.lullLeave_step _ 1
  have hnow : ((s.advance dt).rwlTaken.stepAsked n x.1 tag x.2.1).now = s.now + dt := State.rwlTaken_now _
  rewrite [exec_stepCmds_host dt n tag arg p s x hx]
  unfold State.stepHost State.stepJudged
  rewrite [(s.advance dt).withRole_taken hs (List.mem_singleton.2 rfl)]
  dsimp only
  rewrite [show ((((s.advance dt).rwlTaken.set R.STEP_CMD_CMD x.1).set R.STEP_CMD_CH (n % 8)).set R.STEP_CMD_TAG (tag % 256)).setI
    R.STEP_CMD_ARG_ARG x.2.1 = (s.advance dt).rwlTaken.stepAsked n x.1 tag x.2.1 from rfl]
  simp only [hmode, hphase, hactive, hman, hfn, hstep, hnow]
  rfl

omit hx hs in
theorem State.taken_follows (hactive : s.isActive = true) : ((s.advance dt).rwlTaken.stepAsked n x.1 tag x.2.1).follows = false := by
  have h : ((s.advance dt).rwlTaken.stepAsked n x.1 tag x.2.1).isActive = true :=
    (congrArg (fun v : Nat => decide (v = 1)) ((State.stepAsked_get _ _ _ _ _ 0 (by decide)).trans (State.taken_get dt s (by decide) 0))).trans hactive
  unfold State.follows
  rw [h, Bool.not_true, Bool.and_false]

theorem exec_stepCmds_standby (hpassive : s.isActive = false) (hmode : s.mode ≠ 1) :
    ∃ t, exec x.2.2 s = .next t ∧ t.step = s.step ∧ t.get R.STEP_CMD_STAT_RESULT = 7 ∧ t.get R.STEP_EVT_CMD_REFUSED = 1 := by
  have hexec := exec_stepCmds_judged dt n tag arg p s x hx hs
  unfold State.stepJudged at hexec
  rewrite [if_pos (by simp [hpassive, hmode])] at hexec
  obtain ⟨hstep, hres, hevt⟩ := State.stepResult_refused ((s.advance dt).rwlTaken.stepAsked n x.1 tag x.2.1) (n % 8) x.1 (tag % 256) 7
    (1 + p.code) s.role.keyId (by decide) (by decide)
  exact ⟨_, hexec, hstep.trans (State.lullLeave_step _ 1), hres, hevt⟩

section
variable (hactive : s.isActive = true)
include hactive

omit hx hs in
/-- An active device outside MUSTER judges by the channel. -/
theorem State.stepJudged_active {u : State} (now : Nat) (hu : u.follows = false) (hmode : s.mode ≠ 1) :
    s.stepJudged u p n x.1 tag x.2.1 now = match tfind s.man.step (n % 8) with
    | none => u.stepResult (n % 8) x.1 (tag % 256) 4 (1 + p.code) s.role.keyId
    | some c =>
      if s.mode ≠ 2 then u.stepResult (n % 8) x.1 (tag % 256) 4 (1 + p.code) s.role.keyId
      else if s.fnState c.fn ≠ 0 then u.stepResult (n % 8) x.1 (tag % 256) 5 (1 + p.code) s.role.keyId
      else ({ u with step := { s.step with cmds := s.step.cmds ++ [⟨x.1, n % 8, tag % 256, x.2.1, p, s.role.keyId, now⟩] } } : State).stepResult
        (n % 8) x.1 (tag % 256) 1 (1 + p.code) s.role.keyId :=
  if_neg (by simp [hu, hmode, hactive])

theorem stepCmds_otherMode (hmode : s.mode ∈ [3, 4, 5]) :
    ∃ t, exec x.2.2 s = .next t ∧ t.step = s.step ∧ t.get R.STEP_CMD_STAT_RESULT = 4 ∧ t.get R.STEP_EVT_CMD_REFUSED = 1 := by
  have hne : s.mode ≠ 1 ∧ s.mode ≠ 2 := by
    simp only [List.mem_cons, List.not_mem_nil, or_false] at hmode
    omega
  have hexec := exec_stepCmds_judged dt n tag arg p s x hx hs
  rewrite [State.stepJudged_active n tag p s x hactive _ (State.taken_follows dt n tag s x hactive) hne.1] at hexec
  obtain ⟨hstep, hres, hevt⟩ := State.stepResult_refused ((s.advance dt).rwlTaken.stepAsked n x.1 tag x.2.1) (n % 8) x.1 (tag % 256) 4
    (1 + p.code) s.role.keyId (by decide) (by decide)
  refine ⟨_, ?_, hstep.trans (State.lullLeave_step _ 1), hres, hevt⟩
  rewrite [hexec]
  split
  · rfl
  · rw [if_pos hne.2]

section
variable (c : StepCfg) (hmode : s.mode = 2) (hcfg : tfind s.man.step (n % 8) = some c)
include hmode hcfg

theorem stepCmds_functionBusy (hfn : s.fnState c.fn ≠ 0) :
    ∃ t, exec x.2.2 s = .next t ∧ t.step = s.step ∧ t.get R.STEP_CMD_STAT_RESULT = 5 ∧ t.get R.STEP_EVT_CMD_REFUSED = 1 := by
  have hexec := exec_stepCmds_judged dt n tag arg p s x hx hs
  rewrite [State.stepJudged_active n tag p s x hactive _ (State.taken_follows dt n tag s x hactive) (by omega), hcfg] at hexec
  dsimp only at hexec
  rewrite [if_neg (not_not_intro hmode), if_pos hfn] at hexec
  obtain ⟨hstep, hres, hevt⟩ := State.stepResult_refused ((s.advance dt).rwlTaken.stepAsked n x.1 tag x.2.1) (n % 8) x.1 (tag % 256) 5
    (1 + p.code) s.role.keyId (by decide) (by decide)
  exact ⟨_, hexec, hstep.trans (State.lullLeave_step _ 1), hres, hevt⟩

theorem stepCmds_waits (hfn : s.fnState c.fn = 0) :
    ∃ t, exec x.2.2 s = .next t ∧
      t.step = { s.step with cmds := s.step.cmds ++
        [{ cmd := x.1, ch := n % 8, tag := tag % 256, arg := x.2.1, port := p, keyId := s.role.keyId, at_ := s.now + dt }] } ∧
      t.get R.STEP_CMD_STAT_RESULT = 1 ∧ t.get R.STEP_CMD_STAT_TAG = tag % 256 ∧ t.get R.STEP_CMD_CMD = x.1 ∧ t.get R.STEP_CMD_CH = n % 8 ∧
      t.role.rwlAt = s.now + dt ∧ Framed (regKeys 0 (lullFlds ++ stepHostFlds)) { s.advance dt with step := t.step, role := t.role, pwr := t.pwr } t := by
  have hexec := exec_stepCmds_judged dt n tag arg p s x hx hs
  rewrite [State.stepJudged_active n tag p s x hactive _ (State.taken_follows dt n tag s x hactive) (by omega), hcfg] at hexec
  dsimp only at hexec
  rewrite [if_neg (not_not_intro hmode), if_neg (not_not_intro hfn)] at hexec
  obtain ⟨hcmd, hch⟩ := (s.advance dt).rwlTaken.stepAsked_shows n x.1 tag x.2.1 (stepCmds_code dt n tag arg p x hx)
  have hset (u : State) {f : Fld} (hf : apartFrom [R.STEP_CMD_STAT_RESULT, R.STEP_CMD_STAT_TAG] f = true) :
      ((u.set R.STEP_CMD_STAT_RESULT 1).set R.STEP_CMD_STAT_TAG (tag % 256)).get f = u.get f :=
    (State.get_set_ne _ _ _ _ (apartFrom_ne hf (by simp))).trans (State.get_set_ne _ _ _ _ (apartFrom_ne hf (by simp)))
  refine ⟨_, hexec, rfl, ?_, ?_, (hset _ (by decide)).trans hcmd, (hset _ (by decide)).trans hch, rfl, ?_⟩
  · exact (State.get_set_ne _ _ _ _ (by decide)).trans (State.get_set_same _ _ _ _)
  · exact (State.get_set_same _ _ _ _).trans (Nat.mod_mod _ _)
  · have htaken : Framed (regKeys 0 (lullFlds ++ stepHostFlds)) _ (s.advance dt).rwlTaken := (s.advance dt).rwlTaken_framed.mono fun k hk => by
      simp only [regKeys, List.map_append, List.mem_append]
      exact .inl hk
    have hmem (f : Fld) (hf : f ∈ stepHostFlds) : loc f 0 ∈ regKeys 0 (lullFlds ++ stepHostFlds) :=
      List.mem_map_of_mem (List.mem_append_right _ hf)
    have hasked : Framed (regKeys 0 (lullFlds ++ stepHostFlds)) _ ((s.advance dt).rwlTaken.stepAsked n x.1 tag x.2.1) :=
      set_framed _ _ _ _ (.inl (hmem _ (by decide))) (set_framed _ _ _ _ (.inl (hmem _ (by decide)))
        (set_framed _ _ _ _ (.inl (hmem _ (by decide))) (set_framed _ _ _ _ (.inl (hmem _ (by decide))) htaken)))
    exact set_framed _ _ _ _ (.inl (hmem _ (by decide))) (set_framed _ _ _ _ (.inl (hmem _ (by decide))) (hasked.withStep _))

end
end
end

/-- Settles O43: the Installer's commands by what they are judged by, and those of a command point by what each does. How commands of the
two sources are judged and when they are taken rests on the model's choices (logs 156, 164). -/
theorem motorCommands : Obligations.MotorCommands := by
  unfold Obligations.MotorCommands
  exact ⟨fun dt n tag arg p x c s hx hs hmode hact => stepCmds_waits dt n tag arg p s x hx hs hact c hmode,
    fun dt n tag arg p x s hx hs hact => stepCmds_otherMode dt n tag arg p s x hx hs hact,
    fun dt n tag arg p x c s hx hs hmode hact => stepCmds_functionBusy dt n tag arg p s x hx hs hact c hmode,
    fun dt n tag arg p x s hx hs => exec_stepCmds_standby dt n tag arg p s x hx hs,
    fun dt n tag arg p x s hx => stepCmds_denied dt n tag arg p s x hx,
    stepMove_point, stepVelocity_point, stepHalt_point, stepStop_point, stepHome_point, stepReset_point,
    fun dt n tag i arg y x s hy hcfg => exec_stepCmds_otherPoint dt n tag i arg x s hcfg y hy⟩

end Sys2Proof.Machine
end

section
set_option Elab.async false
/-!
PROOF of the statement of 13_step_channels.md about the drive of a motor (MotorDrive): the coils' own data and the chopper, faults, what an
update of one channel leaves of the others, the update itself, and then switches and homing.
-/

namespace Sys2Proof.Machine

open Sys2Proof

/-! ### Coils (R305 to R307) -/

section
variable (c : StepSt) (k : Nat) (x : CoilSt)

@[simp] theorem StepSt.withCoil_coil : (c.withCoil k x).coil k = x := by
  unfold StepSt.withCoil StepSt.coil
  split <;> simp [*]

@[simp] theorem StepSt.withCoil_pos : (c.withCoil k x).pos = c.pos := by
  unfold StepSt.withCoil
  split <;> rfl

end

section
variable (dt n k cyc : Nat) (h : Bool) (x : StepCfg) (s : State) (hcfg : tfind s.man.step n = some x)
include hcfg

section
variable (hbridge : ((s.stepCh n).coil k).bridge ≠ 0) (hdrive : ((s.stepCh n).coil k).drive = h)
include hbridge hdrive

theorem chopperCrossing_turns (hblank : 2 * x.blankNs ≤ 5 * cyc) :
    ∃ t, exec (.chopperCrossing dt n k h cyc) s = .next t ∧ ((t.stepCh n).coil k).drive = !h ∧
      ((t.stepCh n).coil k).bridge = (if h then decayState x ((s.stepCh n).ref k) else driveState ((s.stepCh n).ref k)) ∧
      (h = true → ((t.stepCh n).coil k).tOn = cyc) ∧ (h = false → ((t.stepCh n).coil k).driveAt = s.now + dt) ∧
      (t.stepCh n).pos = (s.stepCh n).pos ∧ t.stepState n = s.stepState n := by
  obtain ⟨w, hw⟩ := (s.advance dt).sent_apart 12
  have hexec : exec (.chopperCrossing dt n k h cyc) s = .next (((s.advance dt).sent 12).chopCross n k h cyc) := rfl
  rewrite [hw] at hexec
  refine ⟨_, hexec, ?_⟩
  have hch : ((s.advance dt).putTwin w).stepCh n = s.stepCh n := rfl
  unfold State.chopCross
  rewrite [show tfind ((s.advance dt).putTwin w).man.step n = some x from hcfg]
  dsimp only
  rewrite [hch, if_neg (by simp [hbridge, hdrive]), if_neg (Nat.not_lt.2 hblank)]
  cases h with
  | true =>
    rewrite [if_pos rfl]
    simp only [State.putStep_stepCh, StepSt.withCoil_coil, StepSt.withCoil_pos, if_true, State.putStep_stepState]
    exact ⟨rfl, trivial, fun _ => trivial, fun hf => absurd hf (by decide), trivial, rfl⟩
  | false =>
    rewrite [if_neg (by decide)]
    split
    · simp only [State.setQ, State.setI_stepCh, State.putStep_stepCh, StepSt.withCoil_coil, StepSt.withCoil_pos, if_false, Bool.false_eq_true]
      exact ⟨rfl, trivial, fun hf => absurd hf (by decide), fun _ => rfl, trivial, State.get_set_ne _ _ _ _ (by decide)⟩
    · simp only [State.setQ, State.setI_stepCh, State.putStep_stepCh, StepSt.withCoil_coil, StepSt.withCoil_pos, if_false, Bool.false_eq_true]
      exact ⟨rfl, trivial, fun hf => absurd hf (by decide), fun _ => rfl, trivial, State.get_set_ne _ _ _ _ (by decide)⟩

theorem chopperCrossing_blanked (hblank : 5 * cyc < 2 * x.blankNs) :
    ∃ t, exec (.chopperCrossing dt n k h cyc) s = .next t ∧ ((t.stepCh n).coil k).drive = h ∧
      ((t.stepCh n).coil k).bridge = ((s.stepCh n).coil k).bridge ∧
      ((t.stepCh n).coil k).shorts = ((s.stepCh n).coil k).shorts + (if h ∧ ((s.stepCh n).coil k).early = false then 1 else 0) := by
  obtain ⟨w, hw⟩ := (s.advance dt).sent_apart 12
  have hexec : exec (.chopperCrossing dt n k h cyc) s = .next (((s.advance dt).sent 12).chopCross n k h cyc) := rfl
  rewrite [hw] at hexec
  refine ⟨_, hexec, ?_⟩
  have hch : ((s.advance dt).putTwin w).stepCh n = s.stepCh n := rfl
  unfold State.chopCross
  rewrite [show tfind ((s.advance dt).putTwin w).man.step n = some x from hcfg]
  dsimp only
  rewrite [hch, if_neg (by simp [hbridge, hdrive]), if_pos hblank]
  by_cases hearly : h = true ∧ ((s.stepCh n).coil k).early = false
  · rewrite [if_pos (by simpa using hearly), if_pos hearly, State.putStep_stepCh, StepSt.withCoil_coil]
    exact ⟨hdrive, rfl, rfl⟩
  · rewrite [if_neg (by simpa using hearly), if_neg hearly, hch]
    exact ⟨hdrive, rfl, rfl⟩

end
end

/-! ### Faults (R307, R316) -/

section
variable (s : State) (n cause : Nat)

/-- A channel that is not in FAULT goes there, cut off. -/
theorem State.stepFault_eq (h : s.stepState n ≠ 5) : ∃ e : Ev,
    s.stepFault n cause = (((s.stepCut n 1 5).set R.STEP_CH_STAT_CAUSE cause n).evt R.STEP_EVT_FAULT).record e := ⟨_, if_neg h⟩

theorem State.stepFault_shows (h : s.stepState n ≠ 5) (hc : cause < 8) : (s.stepFault n cause).stepState n = 5 ∧
    (s.stepFault n cause).get R.STEP_CH_STAT_CAUSE n = cause ∧ (s.stepFault n cause).stepCh n = (s.stepCh n).cut ∧
    (s.stepFault n cause).get R.STEP_EVT_FAULT = 1 ∧ (s.stepFault n cause).get R.STEP_CH_STAT_POS_LOST n = 1 := by
  obtain ⟨hstate, hlost, -⟩ := s.stepCut_shows n 1 5 (by decide)
  obtain ⟨e, he⟩ := s.stepFault_eq n cause h
  unfold State.stepState at hstate ⊢
  rewrite [he]
  simp (disch := decide) only [State.record_get, State.evt_get_ne, State.evt_get_same, State.get_set_ne, State.get_set_same, hstate, hlost,
    State.record_stepCh, State.evt_stepCh, State.set_stepCh, State.stepCut_stepCh]
  exact ⟨trivial, Nat.mod_eq_of_lt (Nat.lt_of_lt_of_le hc (by decide)), trivial, rfl, trivial⟩

theorem State.stepFault_get (h : s.stepState n ≠ 5) {f : Fld} (b : Nat)
    (hf : apartFrom (R.STEP_EVT_POS_LOST :: R.STEP_CH_STAT_CAUSE :: R.STEP_EVT_FAULT :: cutFlds) f = true) :
    (s.stepFault n cause).get f b = s.get f b := by
  have hn := noteFld_of_apartFrom hf
  have hcut : apartFrom (R.STEP_EVT_POS_LOST :: cutFlds) f = true := by
    simp only [apartFrom, List.all_cons, Bool.and_eq_true] at hf ⊢
    obtain ⟨h₁, h₂, -, -, h₃⟩ := hf
    exact ⟨h₁, h₂, h₃⟩
  obtain ⟨e, he⟩ := s.stepFault_eq n cause h
  rw [he, State.record_get _ _ _ hn, State.evt_get_ne _ _ _ hn (apartFrom_ne hf (by simp)), State.get_set_ne _ _ _ _ (apartFrom_ne hf (by simp)),
    s.stepCut_get n 1 5 b hcut]

end

section
variable (dt n k : Nat) (s : State)

section
variable (x : StepCfg) (hcfg : tfind s.man.step n = some x) (hst : s.stepState n ≠ 5)
include hcfg hst

theorem openCoil_faults (hdrive : ((s.stepCh n).coil k).drive = true) (hbridge : ((s.stepCh n).coil k).bridge ≠ 0)
    (hat : ((s.stepCh n).coil k).driveAt + 1000 * x.tOnUs ≤ s.now + dt) (href : x.iRunMax / 10 ≤ absR ((s.stepCh n).ref k)) :
    ∃ t, exec (.openCoil dt n k) s = .next t ∧ t.stepState n = 5 ∧ t.get R.STEP_CH_STAT_CAUSE n = 1 ∧ (t.stepCh n).amp = 0 ∧
      (t.stepCh n).coilA.bridge = 0 ∧ (t.stepCh n).coilB.bridge = 0 ∧ t.get R.STEP_EVT_FAULT = 1 ∧ t.get R.STEP_CH_STAT_POS_LOST n = 1 := by
  have hexec : exec (.openCoil dt n k) s = .next ((s.advance dt).stepFault n 1) := by
    show execOpenCoil dt n k s = _
    unfold execOpenCoil
    dsimp only
    rewrite [show tfind (s.advance dt).man.step n = some x from hcfg]
    exact if_pos (by simp [hdrive, hbridge, hat, href])
  obtain ⟨hstate, hcause, hch, hevt, hlost⟩ := (s.advance dt).stepFault_shows n 1 hst (by decide)
  exact ⟨_, hexec, hstate, hcause, by rewrite [hch]; rfl, by rewrite [hch]; rfl, by rewrite [hch]; rfl, hevt, hlost⟩

theorem shortCoil_faults (hshorts : 3 ≤ ((s.stepCh n).coil k).shorts) :
    ∃ t, exec (.shortCoil dt n k) s = .next t ∧ t.stepState n = 5 ∧ t.get R.STEP_CH_STAT_CAUSE n = 2 ∧ (t.stepCh n).amp = 0 ∧
      (t.stepCh n).coilA.bridge = 0 ∧ (t.stepCh n).coilB.bridge = 0 ∧ t.get R.STEP_EVT_FAULT = 1 ∧ t.get R.STEP_CH_STAT_POS_LOST n = 1 := by
  have hexec : exec (.shortCoil dt n k) s = .next ((s.advance dt).stepFault n 2) := by
    show execShortCoil dt n k s = _
    unfold execShortCoil
    dsimp only
    rewrite [show tfind (s.advance dt).man.step n = some x from hcfg]
    exact if_pos hshorts
  obtain ⟨hstate, hcause, hch, hevt, hlost⟩ := (s.advance dt).stepFault_shows n 2 hst (by decide)
  exact ⟨_, hexec, hstate, hcause, by rewrite [hch]; rfl, by rewrite [hch]; rfl, by rewrite [hch]; rfl, hevt, hlost⟩

end

theorem exec_coilFault_idle (c : Instr) (hc : c ∈ [Instr.openCoil dt n k, .shortCoil dt n k]) (hdrive : ((s.stepCh n).coil k).drive = false)
    (hshorts : ((s.stepCh n).coil k).shorts < 3) : exec c s = .next (s.advance dt) := by
  simp only [List.mem_cons, List.not_mem_nil, or_false] at hc
  rcases hc with rfl | rfl
  · show execOpenCoil dt n k s = _
    unfold execOpenCoil
    dsimp only
    split
    · exact if_neg (by simp [hdrive])
    · rfl
  · show execShortCoil dt n k s = _
    unfold execShortCoil
    dsimp only
    split
    · exact if_neg (Nat.not_le.2 hshorts)
    · rfl

end

/-! ### HOLD_CURRENT_REDUCE (R314) -/

section
variable (dt n : Nat) (x : StepCfg) (s : State) (hcfg : tfind s.man.step n = some x)
include hcfg

theorem holdCurrentReduce_reduces (hst : s.stepState n = 1) (hidle : (s.stepCh n).idle = true)
    (hat : (s.stepCh n).restAt + 1000000 * x.holdMs ≤ s.now + dt) :
    ∃ t, exec (.holdCurrentReduce dt n) s = .next t ∧ t.stepCh n = { s.stepCh n with amp := x.iHold, idle := false } ∧
      t.get R.STEP_CH_STAT_AT_CEILING n = 0 ∧
      Framed (regKeys n [R.STEP_CH_STAT_AT_CEILING, R.STEP_CH_CUR_I_AMP]) { s.advance dt with step := t.step } t := by
  have hexec : exec (.holdCurrentReduce dt n) s = .next ((((s.advance dt).putStep n { s.stepCh n with amp := x.iHold, idle := false }).set
      R.STEP_CH_STAT_AT_CEILING 0 n).setU R.STEP_CH_CUR_I_AMP (x.iHold * 10000) n) := by
    show execHoldCurrentReduce dt n s = _
    unfold execHoldCurrentReduce
    dsimp only
    rewrite [show tfind (s.advance dt).man.step n = some x from hcfg]
    exact if_pos (by simp [hst, hidle, hat])
  unfold State.setU at hexec
  refine ⟨_, hexec, ?_, ?_, ?_⟩
  · rw [State.set_stepCh, State.set_stepCh, State.putStep_stepCh]
  · rewrite [State.get_set_ne _ _ _ _ (by decide), State.get_set_same]
    rfl
  · exact set_framed _ _ _ _ (.inl (by simp [regKeys])) (set_framed _ _ _ _ (.inl (by simp [regKeys])) (.refl _ _))

theorem exec_holdCurrentReduce_idle (h : s.stepState n ≠ 1 ∨ (s.stepCh n).idle = false ∨ s.now + dt < (s.stepCh n).restAt + 1000000 * x.holdMs) :
    exec (.holdCurrentReduce dt n) s = .next (s.advance dt) := by
  show execHoldCurrentReduce dt n s = _
  unfold execHoldCurrentReduce
  dsimp only
  rewrite [show tfind (s.advance dt).man.step n = some x from hcfg]
  refine if_neg fun hall => ?_
  simp only [Bool.and_eq_true, decide_eq_true_eq] at hall
  obtain ⟨⟨hst, hidle⟩, hat⟩ := hall
  rcases h with h | h | h
  · exact h hst
  · exact absurd (h.symm.trans hidle) (by decide)
  · exact absurd hat (Nat.not_le.2 h)

end

/-! ### What an update of one channel leaves alone (R309) -/

/-- The registers of a channel that its update may write. -/
def updateFlds : List Fld :=
  [R.STEP_CH_STAT_STATE, R.STEP_CH_STAT_HOME_PHASE, R.STEP_CH_VEL_USTEP_S, R.STEP_CH_CUR_I_AMP, R.STEP_CH_STAT_AT_CEILING,
   R.STEP_CH_STAT_DEC_RAISED, R.STEP_CH_STAT_HOMED, R.STEP_CH_STAT_POS_LOST, R.STEP_CH_STAT_CAUSE, R.STEP_CH_CUR_LOAD_ANGLE,
   R.STEP_CH_STAT_STALL, R.STEP_CH_POS_USTEP]

/-- The events that an update may set. -/
def updateEvts : List Fld := [R.STEP_EVT_POS_LOST, R.STEP_EVT_FAULT, R.STEP_EVT_STALL]

/-- `t` is `s` but for the data and the registers of one microstep channel, and for what is told of it. -/
structure StepFramed (m : Nat) (s t : State) : Prop where
  framed : Framed (regKeys m updateFlds ++ regKeys 0 updateEvts) { s with step := t.step } t
  others : ∀ k, k ≠ m → t.stepCh k = s.stepCh k

section
variable {m : Nat} {s t : State}

theorem StepFramed.refl (m : Nat) (s : State) : StepFramed m s s := ⟨Framed.refl _ _, fun _ _ => rfl⟩

theorem StepFramed.set (h : StepFramed m s t) (f : Fld) (v : Nat) (hf : f ∈ updateFlds) : StepFramed m s (t.set f v m) :=
  ⟨set_framed _ _ _ _ (.inl (List.mem_append_left _ (List.mem_map_of_mem hf))) h.framed, fun k hk => (State.set_stepCh _ _ _ _ _).trans (h.others k hk)⟩

theorem StepFramed.evt (h : StepFramed m s t) (f : Fld) (hf : f ∈ updateEvts) : StepFramed m s (t.evt f) :=
  ⟨Framed.ownStep (State.evt_framed _ _ _ (.inl (List.mem_append_right _ (List.mem_map_of_mem hf))) h.framed),
    fun k hk => (State.evt_stepCh _ _ _ _).trans (h.others k hk)⟩

theorem StepFramed.record (h : StepFramed m s t) (e : Ev) : StepFramed m s (t.record e) :=
  ⟨Framed.ownStep (State.record_framed _ _ h.framed), fun k hk => (State.record_stepCh _ _ _).trans (h.others k hk)⟩

theorem StepFramed.put (h : StepFramed m s t) (c : StepSt) : StepFramed m s (t.putStep m c) :=
  ⟨h.framed.withStep _, fun k hk => (State.putStep_stepCh_ne _ _ _ hk).trans (h.others k hk)⟩

theorem StepFramed.ite {p : Prop} [Decidable p] {a b : State} (ha : StepFramed m s a) (hb : StepFramed m s b) :
    StepFramed m s (if p then a else b) := by split <;> assumption

/-- What another channel shows, and what no channel's update shows. -/
theorem StepFramed.get_ne (h : StepFramed m s t) {k : Nat} (hk : k ≠ m) {f : Fld} (hn : noteFld f = false) (he : ∀ g ∈ updateEvts, fkey f ≠ fkey g) :
    t.get f k = s.get f k := by
  refine h.framed.get_eq k hn (List.not_mem_append (fun hm => ?_) (loc_notMem_regKeys he k 0))
  obtain ⟨g, -, hg⟩ := List.mem_map.1 hm
  have hkey : fkey g = fkey f := by rw [← loc_mod g m, ← loc_mod f k, hg]
  unfold loc at hg
  unfold fkey at hkey
  omega

theorem StepFramed.get_apart (h : StepFramed m s t) {f : Fld} (b : Nat) (hf : apartFrom (updateFlds ++ updateEvts) f = true) : t.get f b = s.get f b :=
  h.framed.get_eq b (noteFld_of_apartFrom hf) (List.not_mem_append
    (loc_notMem_regKeys (fun _ hg => apartFrom_ne hf (List.mem_append_left _ hg)) b m)
    (loc_notMem_regKeys (fun _ hg => apartFrom_ne hf (List.mem_append_right _ hg)) b 0))

theorem StepFramed.now_eq (h : StepFramed m s t) : t.now = s.now := (State.of_plain_now h.framed.plain :)

end

/-- The motion of an update, by the channel's state: towards the target, braking, or homing. -/
def State.moved (s : State) (n : Nat) (x : StepCfg) (st : Nat) : State :=
  match st with
  | 2 =>
    if (s.stepToward n x (s.stepCh n).target (absR (s.stepCh n).speed)).2 || ((s.stepCh n).kind = 2 && (s.stepCh n).speed = 0 &&
        ((s.stepToward n x (s.stepCh n).target (absR (s.stepCh n).speed)).1.stepCh n).v = 0) then
      (s.stepToward n x (s.stepCh n).target (absR (s.stepCh n).speed)).1.stepRest n
    else (s.stepToward n x (s.stepCh n).target (absR (s.stepCh n).speed)).1
  | 3 => if (s.stepBrake n x).2 then (s.stepBrake n x).1.stepRest n else (s.stepBrake n x).1
  | _ => s.homeStep n x

/-- The load angle of an update, where there is one. -/
def State.angled (s : State) (n : Nat) (x : StepCfg) (a : Option Nat) : State :=
  match a with | some a => s.stepAngle n x a | none => s

theorem State.stepUpdate_eq (s : State) (n : Nat) (x : StepCfg) (l : SwLevels) (a : Option Nat) : s.stepUpdate n x l a =
    if (s.stepSwitches n x l).stepState n = 2 || (s.stepSwitches n x l).stepState n = 3 || (s.stepSwitches n x l).stepState n = 4 then
      if !((s.stepSwitches n x l).stepAmp n x).2 then ((s.stepSwitches n x l).stepAmp n x).1.stepRegs n
      else ((((((s.stepSwitches n x l).stepAmp n x).1.moved n x ((s.stepSwitches n x l).stepState n)).angled n x a).coilsFollow n x).stepLimits n).stepRegs n
    else (s.stepSwitches n x l).stepRegs n := rfl

section
variable {m : Nat} {s : State} {t : State} (h : StepFramed m s t) (x : StepCfg)
include h

theorem StepFramed.fault (cause : Nat) : StepFramed m s (t.stepFault m cause) := by
  have hcut : StepFramed m s (t.cutOff m 5) := by
    unfold State.cutOff
    exact .set (.set (.set (.set (.set (.set (.set (h.put _) _ _ (by decide)) _ _ (by decide)) _ _ (by decide)) _ _ (by decide)) _ _ (by decide))
      _ _ (by decide)) _ _ (by decide)
  unfold State.stepFault
  dsimp only
  refine .ite h (.record (.evt (.set ?_ _ _ (by decide)) _ (by decide)) _)
  rewrite [State.stepCut_eq]
  exact .ite hcut (.record (.evt (hcut.set _ _ (by decide)) _ (by decide)) _)

theorem StepFramed.switches (l : SwLevels) : StepFramed m s (t.stepSwitches m x l) := h.put _

theorem StepFramed.amp : StepFramed m s (t.stepAmp m x).1 := by
  unfold State.stepAmp
  dsimp only
  split
  · split
    · exact h.put _
    · exact h.put _
  · split
    · exact (h.put _).set _ _ (by decide)
    · exact h

theorem StepFramed.rest : StepFramed m s (t.stepRest m) := ((h.put _).set _ _ (by decide)).set _ _ (by decide)

theorem StepFramed.toward (target : Int) (vLim : Rat) : StepFramed m s (t.stepToward m x target vLim).1 := by
  unfold State.stepToward
  extract_lets c d gap dir w r acc w' step raised u
  have hu : StepFramed m s u := .ite ((h.set _ _ (by decide)).record _) h
  split
  · exact hu.put _
  · exact hu.put _

theorem StepFramed.brake : StepFramed m s (t.stepBrake m x).1 := h.put _

theorem StepFramed.home : StepFramed m s (t.homeStep m x) := by
  unfold State.homeStep
  dsimp only
  split
  · exact .ite ((h.toward x _ _).fault 5) (h.toward x _ _)
  · exact .ite ((h.brake x).set _ _ (by decide)) (h.brake x)
  · exact h.toward x _ _
  · exact h

theorem StepFramed.angle (a : Nat) : StepFramed m s (t.stepAngle m x a) := by
  unfold State.stepAngle State.setSat State.setU State.setB
  extract_lets c inc amp₁ amp up c' s₁ s₂ items
  have h₂ : StepFramed m s s₂ := .set (.set (.set (h.put _) _ _ (by decide)) _ _ (by decide)) _ _ (by decide)
  refine .ite h (.ite (.ite (.record (h₂.set _ _ (by decide)) _) h₂) (.ite (.ite (.fault ?_ 3) ?_) h₂))
  · exact .record (.evt (h₂.set _ _ (by decide)) _ (by decide)) _
  · exact .record (.evt (h₂.set _ _ (by decide)) _ (by decide)) _

theorem StepFramed.regs : StepFramed m s (t.stepRegs m) :=
  .set (.set (.set h _ _ (by decide)) _ _ (by decide)) _ _ (by decide)

theorem StepFramed.limits : StepFramed m s (t.stepLimits m) := .ite (h.fault 4) h

theorem StepFramed.moved (st : Nat) : StepFramed m s (t.moved m x st) := by
  unfold State.moved
  split
  · exact .ite (h.toward x _ _).rest (h.toward x _ _)
  · exact .ite (h.brake x).rest (h.brake x)
  · exact h.home x

theorem StepFramed.update (l : SwLevels) (a : Option Nat) : StepFramed m s (t.stepUpdate m x l a) := by
  have hsw : StepFramed m s (t.stepSwitches m x l) := h.switches x l
  have hangle (u : State) (hu : StepFramed m s u) : StepFramed m s (u.angled m x a) := by
    unfold State.angled
    split
    · exact hu.angle x _
    · exact hu
  rewrite [State.stepUpdate_eq]
  exact .ite (.ite (hsw.amp x).regs ((hangle _ ((hsw.amp x).moved x _)).put _).limits.regs) hsw.regs

end

/-! ### GENERATOR_UPDATE (R309, R312, R314) -/

/-- An update of the channels of a list, each with its switches and its load angle. -/
def State.updateAll (s : State) (w : List (Nat × SwLevels)) (a : List (Nat × Nat)) (l : List (Nat × StepCfg)) : State :=
  l.foldl (fun s p => s.stepUpdate p.1 p.2 ((tfind w p.1).getD (s.stepCh p.1).sw) (tfind a p.1)) s

/-- What a state and another agree on, for one channel: its data, its registers, the mode and the up-time. -/
structure SameCh (n : Nat) (s t : State) : Prop where
  ch : t.stepCh n = s.stepCh n
  state : t.stepState n = s.stepState n
  raised : t.get R.STEP_CH_STAT_DEC_RAISED n = s.get R.STEP_CH_STAT_DEC_RAISED n
  mode : t.mode = s.mode
  now : t.now = s.now

theorem SameCh.trans {n : Nat} {a b c : State} (h : SameCh n a b) (g : SameCh n b c) : SameCh n a c :=
  ⟨g.ch.trans h.ch, g.state.trans h.state, g.raised.trans h.raised, g.mode.trans h.mode, g.now.trans h.now⟩

theorem StepFramed.sameCh {m n : Nat} {s t : State} (h : StepFramed m s t) (hn : n ≠ m) : SameCh n s t :=
  ⟨h.others n hn, h.get_ne hn noteFld_STEP_CH_STAT_STATE (by decide), h.get_ne hn (by decide) (by decide), h.get_apart 0 (by decide), h.now_eq⟩

theorem State.updateAll_other (s : State) (w : List (Nat × SwLevels)) (a : List (Nat × Nat)) (l : List (Nat × StepCfg)) {n : Nat}
    (hn : n ∉ l.map (·.1)) : SameCh n s (s.updateAll w a l) := by
  induction l generalizing s with
  | nil => exact ⟨rfl, rfl, rfl, rfl, rfl⟩
  | cons p l ih =>
    simp only [List.map_cons, List.mem_cons, not_or] at hn
    exact ((StepFramed.refl p.1 s).update p.2 _ _).sameCh hn.1 |>.trans (ih _ hn.2)

/-- The update of one listed channel, and what the updates around it leave. -/
theorem State.updateAll_one (s : State) (w : List (Nat × SwLevels)) (a : List (Nat × Nat)) (l : List (Nat × StepCfg)) {n : Nat} {x : StepCfg}
    (hnd : (l.map (·.1)).Nodup) (hx : tfind l n = some x) : ∃ u, SameCh n s u ∧
      SameCh n (u.stepUpdate n x ((tfind w n).getD (s.stepCh n).sw) (tfind a n)) (s.updateAll w a l) := by
  induction l generalizing s with
  | nil => exact absurd hx (by simp [tfind])
  | cons p l ih =>
    obtain ⟨m, y⟩ := p
    simp only [List.map_cons, List.nodup_cons] at hnd
    by_cases h : n = m
    · subst h
      obtain rfl : y = x := by simpa [tfind] using hx
      exact ⟨s, ⟨rfl, rfl, rfl, rfl, rfl⟩, State.updateAll_other _ w a l hnd.1⟩
    · have hrest : tfind l n = some x := by simpa [tfind, h] using hx
      have hstep : SameCh n s (s.stepUpdate m y ((tfind w m).getD (s.stepCh m).sw) (tfind a m)) :=
        ((StepFramed.refl m s).update y _ _).sameCh h
      obtain ⟨u, hu, hlast⟩ := ih (s.stepUpdate m y ((tfind w m).getD (s.stepCh m).sw) (tfind a m)) hnd.2 hrest
      rewrite [hstep.ch] at hlast
      exact ⟨u, hstep.trans hu, hlast⟩

section
variable (s : State) (n : Nat) (x : StepCfg)

/-- Sampling the switches changes their levels and intervals only. -/
theorem State.stepSwitches_stepCh (l : SwLevels) : ∃ (homeAt : Nat) (homePosAt : Int) (chatter negAt posAt : Nat),
    (s.stepSwitches n x l).stepCh n = { s.stepCh n with
      homeAt := homeAt, homePosAt := homePosAt, chatter := chatter, negAt := negAt, posAt := posAt, sw := l } := by
  have hhome (p : Prop) [Decidable p] (c : StepSt) (t : Nat) (q : Int) (k : Nat) :
      (if p then c else { c with homeAt := t, homePosAt := q, chatter := k }) =
      { c with homeAt := if p then c.homeAt else t, homePosAt := if p then c.homePosAt else q, chatter := if p then c.chatter else k } := by
    split <;> rfl
  have hneg (p : Prop) [Decidable p] (c : StepSt) (t : Nat) : (if p then c else { c with negAt := t }) =
      { c with negAt := if p then c.negAt else t } := by split <;> rfl
  have hpos (p : Prop) [Decidable p] (c : StepSt) (t : Nat) : (if p then c else { c with posAt := t }) =
      { c with posAt := if p then c.posAt else t } := by split <;> rfl
  unfold State.stepSwitches
  rewrite [State.putStep_stepCh, hhome, hneg, hpos]
  exact ⟨_, _, _, _, _, rfl⟩

theorem State.stepRegs_stepCh : (s.stepRegs n).stepCh n = s.stepCh n := by
  unfold State.stepRegs State.setU State.setQ
  rw [State.set_stepCh, State.setI_stepCh, State.setI_stepCh]

theorem State.stepRegs_get {f : Fld} (b : Nat) (h : apartFrom [R.STEP_CH_POS_USTEP, R.STEP_CH_VEL_USTEP_S, R.STEP_CH_CUR_I_AMP] f = true) :
    (s.stepRegs n).get f b = s.get f b := by
  unfold State.stepRegs State.setU State.setQ State.setI
  iterate 3 rw [State.get_set_ne _ _ _ _ (apartFrom_ne h (by simp))]

/-- Turning the bridges with the references changes the coils only. -/
theorem State.coilsFollow_stepCh : ∃ a b : CoilSt, (s.coilsFollow n x).stepCh n = { s.stepCh n with coilA := a, coilB := b } :=
  ⟨_, _, State.putStep_stepCh _ _ _⟩

end

section
variable (dt n : Nat) (w : List (Nat × SwLevels)) (a : List (Nat × Nat)) (s : State)

theorem exec_generatorUpdate_idle (h : s.mode < 2 ∨ s.man.step = []) : exec (.generatorUpdate dt w a) s = .next (s.advance dt) := by
  show execGeneratorUpdate dt w a s = _
  unfold execGeneratorUpdate
  dsimp only
  rcases h with hmode | hnone
  · exact if_pos hmode
  · rewrite [show (s.advance dt).man.step = [] from hnone]
    exact ite_self _

variable (x : StepCfg) (hmode : 2 ≤ s.mode) (hnd : (s.man.step.map (·.1)).Nodup) (hcfg : tfind s.man.step n = some x)
include hmode hnd hcfg

theorem exec_generatorUpdate_channel : ∃ u t, SameCh n (s.advance dt) u ∧
    SameCh n (u.stepUpdate n x ((tfind w n).getD (s.stepCh n).sw) (tfind a n)) t ∧ exec (.generatorUpdate dt w a) s = .next t := by
  obtain ⟨u, hu, ht⟩ := (s.advance dt).updateAll_one w a s.man.step hnd hcfg
  exact ⟨u, _, hu, ht, if_neg (Nat.not_lt.2 hmode)⟩

theorem generatorUpdate_rests (hst : s.stepState n ∈ [0, 1, 5]) :
    ∃ t, exec (.generatorUpdate dt w a) s = .next t ∧ (t.stepCh n).pos = (s.stepCh n).pos ∧ (t.stepCh n).v = (s.stepCh n).v ∧
      (t.stepCh n).sw = (tfind w n).getD (s.stepCh n).sw ∧ t.stepState n = s.stepState n ∧ t.mode = s.mode := by
  obtain ⟨u, t, hu, ht, hexec⟩ := exec_generatorUpdate_channel dt n w a s x hmode hnd hcfg
  generalize (tfind w n).getD (s.stepCh n).sw = l at ht ⊢
  have hstate : (u.stepSwitches n x l).stepState n = s.stepState n := hu.state
  have hupd : u.stepUpdate n x l (tfind a n) = (u.stepSwitches n x l).stepRegs n := by
    rewrite [State.stepUpdate_eq, hstate]
    refine if_neg ?_
    simp only [List.mem_cons, List.not_mem_nil, or_false] at hst
    rcases hst with h | h | h <;> simp [h]
  obtain ⟨_, _, _, _, _, hsw⟩ := u.stepSwitches_stepCh n x l
  rewrite [hupd] at ht
  refine ⟨t, hexec, ?_⟩
  rewrite [ht.ch, State.stepRegs_stepCh, hsw, hu.ch]
  refine ⟨rfl, rfl, rfl, ?_, ?_⟩
  · exact ht.state.trans ((State.stepRegs_get _ _ n (by decide)).trans hstate)
  · exact ht.mode.trans ((State.stepRegs_get _ _ 0 (by decide)).trans hu.mode)

end

/-- An update that finds the channel at rest on its target: it stops there. -/
theorem State.stepToward_arrived (s : State) (n : Nat) (x : StepCfg) (target : Int) (vLim : Rat) (hpos : (s.stepCh n).pos = target * p32)
    (hv : (s.stepCh n).v = 0) (ha : (s.stepCh n).a = 0) (hd : 0 < x.dMax * (s.stepCh n).scale) :
    s.stepToward n x target vLim = (s.putStep n { s.stepCh n with pos := target * p32, v := 0, a := 0 }, true) := by
  have hplan (acc : Rat) : planStep 0 0 vLim acc (x.dMax * (s.stepCh n).scale) = (0, -(x.dMax * (s.stepCh n).scale)) := by
    unfold planStep
    rewrite [if_neg (lt_irrefl 0), if_pos (by simp), if_pos rfl]
    have hneg : 0 - x.dMax * (s.stepCh n).scale * (1 / 1000000) ≤ 0 := by
      have : 0 < x.dMax * (s.stepCh n).scale * (1 / 1000000) := by positivity
      linarith
    dsimp only
    rw [max_eq_left hneg]
  unfold State.stepToward
  dsimp only
  rewrite [hpos, hv, ha]
  simp only [sub_self, Int.cast_zero, zero_div, lt_irrefl, if_false, mul_one]
  rewrite [show absR 0 = 0 from rfl, hplan]
  refine (if_pos ?_).trans ?_
  · split
    · rewrite [if_pos le_rfl]
      exact div_nonneg (le_max_left _ _) (by norm_num)
    · exact le_of_eq (zero_div _).symm
  · rw [if_neg (by simp)]

section
variable (dt n : Nat) (w : List (Nat × SwLevels)) (a : List (Nat × Nat)) (x : StepCfg) (s : State)

/-- The update of a channel in MOVE that stands on its target, without a ramp: it comes to rest. -/
theorem State.stepUpdate_arrives (l : SwLevels) (hst : s.stepState n = 2) (hramp : (s.stepCh n).rampAt = none)
    (hpos : (s.stepCh n).pos = (s.stepCh n).target * p32) (hv : (s.stepCh n).v = 0) (ha : (s.stepCh n).a = 0)
    (hscale : 0 < (s.stepCh n).scale) (hd : 0 < x.dMax) (hvmin : 0 < x.laVmin) :
    ((s.stepUpdate n x l none).stepCh n).pos = (s.stepCh n).target * p32 ∧ ((s.stepUpdate n x l none).stepCh n).v = 0 ∧
    (s.stepUpdate n x l none).stepState n = 1 ∧ ((s.stepUpdate n x l none).stepCh n).idle = true ∧
    ((s.stepUpdate n x l none).stepCh n).restAt = s.now ∧ ((s.stepUpdate n x l none).stepCh n).amp = x.iRunMax := by
  obtain ⟨_, _, _, _, _, hsw⟩ := s.stepSwitches_stepCh n x l
  have hswst : (s.stepSwitches n x l).stepState n = 2 := hst
  have hswnow : (s.stepSwitches n x l).now = s.now := rfl
  rewrite [State.stepUpdate_eq, hswst]
  generalize s.stepSwitches n x l = u at hsw hswst hswnow
  have hamp : u.stepAmp n x = ((u.putStep n { u.stepCh n with amp := x.iRunMax }).set R.STEP_CH_STAT_AT_CEILING 1 n, true) := by
    unfold State.stepAmp
    dsimp only
    rewrite [show (u.stepCh n).rampAt = none by rewrite [hsw]; exact hramp]
    exact if_pos (by rewrite [show (u.stepCh n).v = 0 by rewrite [hsw]; exact hv]; simpa [absR] using hvmin)
  have hch : ((u.putStep n { u.stepCh n with amp := x.iRunMax }).set R.STEP_CH_STAT_AT_CEILING 1 n).stepCh n =
      { u.stepCh n with amp := x.iRunMax } := by rw [State.set_stepCh, State.putStep_stepCh]
  have hnow : ((u.putStep n { u.stepCh n with amp := x.iRunMax }).set R.STEP_CH_STAT_AT_CEILING 1 n).now = s.now := hswnow
  rewrite [if_pos (by decide), hamp, if_neg (by simp)]
  generalize (u.putStep n { u.stepCh n with amp := x.iRunMax }).set R.STEP_CH_STAT_AT_CEILING 1 n = v at hch hnow
  have hmoved : v.moved n x 2 = (v.putStep n { v.stepCh n with pos := (v.stepCh n).target * p32, v := 0, a := 0 }).stepRest n := by
    have harr := v.stepToward_arrived n x (v.stepCh n).target (absR (v.stepCh n).speed) (by rewrite [hch, hsw]; exact hpos)
      (by rewrite [hch, hsw]; exact hv)
      (by rewrite [hch, hsw]; exact ha) (by rewrite [hch, hsw]; exact mul_pos hd hscale)
    unfold State.moved
    dsimp only
    rewrite [harr]
    exact if_pos (by simp)
  have hrest : (v.moved n x 2).stepCh n =
      { v.stepCh n with pos := (v.stepCh n).target * p32, v := 0, a := 0, kind := 0, restAt := v.now, idle := true } := by
    rewrite [hmoved]
    unfold State.stepRest
    dsimp only
    rewrite [State.set_stepCh, State.set_stepCh, State.putStep_stepCh, State.putStep_stepCh]
    rfl
  have hreststate : (v.moved n x 2).stepState n = 1 := by
    rewrite [hmoved]
    exact (State.get_set_ne _ _ _ _ (by decide)).trans (State.get_set_same _ _ _ _)
  dsimp only [State.angled]
  generalize v.moved n x 2 = y at hrest hreststate
  obtain ⟨_, _, hfollow⟩ := y.coilsFollow_stepCh n x
  have hlimits : (y.coilsFollow n x).stepLimits n = y.coilsFollow n x :=
    if_neg (by simp [show (y.coilsFollow n x).stepState n = 1 from hreststate])
  rewrite [hlimits, State.stepRegs_stepCh, hfollow, hrest, hch, hsw]
  exact ⟨rfl, rfl, (State.stepRegs_get _ _ n (by decide)).trans hreststate, rfl, hnow, rfl⟩

variable (hmode : 2 ≤ s.mode) (hnd : (s.man.step.map (·.1)).Nodup) (hcfg : tfind s.man.step n = some x)
include hmode hnd hcfg

theorem generatorUpdate_arrives (hst : s.stepState n = 2) (hramp : (s.stepCh n).rampAt = none)
    (hpos : (s.stepCh n).pos = (s.stepCh n).target * p32) (hv : (s.stepCh n).v = 0) (ha : (s.stepCh n).a = 0)
    (hscale : 0 < (s.stepCh n).scale) (hd : 0 < x.dMax) (hvmin : 0 < x.laVmin) (hangle : tfind a n = none)
    (_ : s.get R.STEP_CH_STAT_DEC_RAISED n = 0) :
    ∃ t, exec (.generatorUpdate dt w a) s = .next t ∧ (t.stepCh n).pos = (s.stepCh n).target * p32 ∧ (t.stepCh n).v = 0 ∧
      t.stepState n = 1 ∧ (t.stepCh n).idle = true ∧ (t.stepCh n).restAt = s.now + dt ∧ (t.stepCh n).amp = x.iRunMax := by
  obtain ⟨u, t, hu, ht, hexec⟩ := exec_generatorUpdate_channel dt n w a s x hmode hnd hcfg
  rewrite [hangle] at ht
  have hch : u.stepCh n = s.stepCh n := hu.ch
  obtain ⟨hp, hv', hs, hi, hr, hamp⟩ := u.stepUpdate_arrives n x ((tfind w n).getD (s.stepCh n).sw) (hu.state.trans hst) (hch ▸ hramp)
    (by rewrite [hch]; exact hpos) (hch ▸ hv) (hch ▸ ha) (hch ▸ hscale) hd hvmin
  rewrite [hch] at hp
  refine ⟨t, hexec, ?_⟩
  rewrite [ht.ch]
  exact ⟨hp, hv', ht.state.trans hs, hi, hr.trans hu.now, hamp⟩

end

/-! ### Switches and homing (R318 to R320) -/

/-- A channel's data with its position redefined, the electrical address unchanged. -/
def StepSt.redefined (c : StepSt) (new : Int) : StepSt := { c with pos := new * p32, eOfs := (c.eOfs + c.posInt - new) % 4096 }

section
variable (dt n : Nat) (x : StepCfg) (s : State)

theorem exec_homingBackoffDone_idle (h : tfind s.man.step n = none ∨ s.stepState n ≠ 4) :
    exec (.homingBackoffDone dt n) s = .next (s.advance dt) := by
  show execHomingBackoffDone dt n s = _
  unfold execHomingBackoffDone
  dsimp only
  split
  next => rfl
  next y hy =>
    have hst : s.stepState n ≠ 4 := h.resolve_left fun hnone => Option.some_ne_none y (hy.symm.trans hnone)
    exact if_pos (by simp [hst])

variable (hcfg : tfind s.man.step n = some x)
include hcfg

/-- A limit switch that has held its level shows it; it then may end a homing or a motion. -/
theorem exec_limitSwitchDebounced_held (p : Bool) (hat : (if p then (s.stepCh n).posAt else (s.stepCh n).negAt) + 1000 * x.limDebUs ≤ s.now + dt)
    (hst : s.stepState n ≠ 4) : exec (.limitSwitchDebounced dt n p) s =
      .next (((s.advance dt).setB (if p then R.STEP_CH_STAT_LIM_POS else R.STEP_CH_STAT_LIM_NEG)
        (if p then (s.stepCh n).sw.pos else (s.stepCh n).sw.neg) n).stepLimits n) := by
  show execLimitSwitchDebounced dt n p s = _
  unfold execLimitSwitchDebounced
  dsimp only
  rewrite [show tfind (s.advance dt).man.step n = some x from hcfg]
  dsimp only
  rewrite [State.advance_stepCh, State.advance_now, if_neg (Nat.not_lt.2 hat)]
  refine if_neg ?_
  have hne : ((s.advance dt).setB (if p then R.STEP_CH_STAT_LIM_POS else R.STEP_CH_STAT_LIM_NEG)
      (if p then (s.stepCh n).sw.pos else (s.stepCh n).sw.neg) n).stepState n = s.stepState n := by
    unfold State.stepState
    cases p
    · exact State.get_set_ne _ _ _ _ (by decide)
    · exact State.get_set_ne _ _ _ _ (by decide)
  simp [hne, hst]

theorem limitSwitchDebounced_shows (p : Bool) (hst : s.stepState n ∈ [0, 1, 5])
    (hat : (if p then (s.stepCh n).posAt else (s.stepCh n).negAt) + 1000 * x.limDebUs ≤ s.now + dt) :
    ∃ t, exec (.limitSwitchDebounced dt n p) s = .next t ∧
      t.get (if p then R.STEP_CH_STAT_LIM_POS else R.STEP_CH_STAT_LIM_NEG) n = (if (if p then (s.stepCh n).sw.pos else (s.stepCh n).sw.neg) then 1 else 0) ∧
      Framed (regKeys n [if p then R.STEP_CH_STAT_LIM_POS else R.STEP_CH_STAT_LIM_NEG]) (s.advance dt) t := by
  have hst' : s.stepState n ≠ 2 ∧ s.stepState n ≠ 3 ∧ s.stepState n ≠ 4 := by
    simp only [List.mem_cons, List.not_mem_nil, or_false] at hst
    omega
  have hexec := exec_limitSwitchDebounced_held dt n x s hcfg p hat hst'.2.2
  have hkeep (f : Fld) (b : Bool) (hf : fkey R.STEP_CH_STAT_STATE ≠ fkey f) : ((s.advance dt).setB f b n).stepLimits n = (s.advance dt).setB f b n := by
    have hne : ((s.advance dt).setB f b n).stepState n = s.stepState n := State.get_set_ne _ _ _ _ hf
    exact if_neg (by simp [hne, hst'])
  rewrite [hkeep _ _ (by cases p <;> decide)] at hexec
  refine ⟨_, hexec, State.get_setB_same _ _ _ _ (by cases p <;> rfl), ?_⟩
  exact set_framed _ _ _ _ (.inl (by simp [regKeys])) (.refl _ _)

theorem limitSwitchDebounced_stops (hst : s.stepState n = 2) (hv : 0 < (s.stepCh n).v) (hpos : (s.stepCh n).sw.pos = true)
    (hat : (s.stepCh n).posAt + 1000 * x.limDebUs ≤ s.now + dt) :
    ∃ t, exec (.limitSwitchDebounced dt n true) s = .next t ∧ t.get R.STEP_CH_STAT_LIM_POS n = 1 ∧ t.stepState n = 5 ∧
      t.get R.STEP_CH_STAT_CAUSE n = 4 ∧ (t.stepCh n).v = 0 := by
  have hexec := exec_limitSwitchDebounced_held dt n x s hcfg true hat (by omega)
  rewrite [if_pos rfl, if_pos rfl, hpos] at hexec
  have hlim : ((s.advance dt).setB R.STEP_CH_STAT_LIM_POS true n).get R.STEP_CH_STAT_LIM_POS n = 1 := State.get_setB_same _ _ _ _ rfl
  have hst' : ((s.advance dt).setB R.STEP_CH_STAT_LIM_POS true n).stepState n = 2 := (State.get_set_ne _ _ _ _ (by decide)).trans hst
  have hch : ((s.advance dt).setB R.STEP_CH_STAT_LIM_POS true n).stepCh n = s.stepCh n := State.set_stepCh _ _ _ _ _
  generalize (s.advance dt).setB R.STEP_CH_STAT_LIM_POS true n = u at hexec hlim hst' hch
  have hfault : u.stepLimits n = u.stepFault n 4 := if_pos (by simp [hst', hch, hv, State.flag, hlim])
  rewrite [hfault] at hexec
  obtain ⟨hstate, hcause, hcut, -, -⟩ := u.stepFault_shows n 4 (by omega) (by decide)
  exact ⟨_, hexec, (u.stepFault_get n 4 (by omega) n (by decide)).trans hlim, hstate, hcause, by rewrite [hcut]; rfl⟩

theorem homeSwitchDebounced_latches (hat : (s.stepCh n).homeAt + 1000 * x.homeDebUs ≤ s.now + dt) (hst : s.stepState n = 4)
    (hphase : s.get R.STEP_CH_STAT_HOME_PHASE n = 1) (hlevel : homeLevel x (s.stepCh n).sw = true) (hwas : s.get R.STEP_CH_STAT_HOME_IN n = 0) :
    ∃ t, exec (.homeSwitchDebounced dt n) s = .next t ∧ t.get R.STEP_CH_STAT_HOME_IN n = 1 ∧ t.get R.STEP_CH_STAT_HOME_PHASE n = 2 ∧
      t.stepCh n = { s.stepCh n with latch := (s.stepCh n).homePosAt, chatter := 0 } ∧
      Framed (regKeys n [R.STEP_CH_STAT_HOME_IN, R.STEP_CH_STAT_HOME_PHASE, R.STEP_CH_LATCH_USTEP]) { s.advance dt with step := t.step } t := by
  have hexec : exec (.homeSwitchDebounced dt n) s = .next (((((s.advance dt).setB R.STEP_CH_STAT_HOME_IN true n).putStep n
      { s.stepCh n with latch := (s.stepCh n).homePosAt, chatter := 0 }).setI R.STEP_CH_LATCH_USTEP (s.stepCh n).homePosAt n).set
      R.STEP_CH_STAT_HOME_PHASE 2 n) := by
    have hst' : ((s.advance dt).setB R.STEP_CH_STAT_HOME_IN true n).stepState n = 4 := (State.get_set_ne _ _ _ _ (by decide)).trans hst
    have hphase' : ((s.advance dt).setB R.STEP_CH_STAT_HOME_IN true n).get R.STEP_CH_STAT_HOME_PHASE n = 1 :=
      (State.get_set_ne _ _ _ _ (by decide)).trans hphase
    show execHomeSwitchDebounced dt n s = _
    unfold execHomeSwitchDebounced
    dsimp only
    rewrite [show tfind (s.advance dt).man.step n = some x from hcfg]
    dsimp only
    rewrite [State.advance_stepCh, State.advance_now, if_neg (Nat.not_lt.2 hat), hlevel]
    exact if_pos (by simp [hst', hphase', State.flag, hwas])
  unfold State.setI at hexec
  refine ⟨_, hexec, ?_, State.get_set_same _ _ _ _, ?_, ?_⟩
  · rewrite [State.get_set_ne _ _ _ _ (by decide), State.get_set_ne _ _ _ _ (by decide), State.putStep_get, State.get_setB_same _ _ _ _ rfl]
    rfl
  · rw [State.set_stepCh, State.set_stepCh, State.putStep_stepCh]
  · refine set_framed _ _ _ _ (.inl (by simp [regKeys])) (set_framed _ _ _ _ (.inl (by simp [regKeys])) ?_)
    exact (set_framed (s.advance dt) R.STEP_CH_STAT_HOME_IN _ n (.inl (by simp [regKeys])) (.refl _ _)).withStep _

theorem exec_homeSwitchDebounced_early (h : s.now + dt < (s.stepCh n).homeAt + 1000 * x.homeDebUs) :
    exec (.homeSwitchDebounced dt n) s = .next (s.advance dt) := by
  show execHomeSwitchDebounced dt n s = _
  unfold execHomeSwitchDebounced
  dsimp only
  rewrite [show tfind (s.advance dt).man.step n = some x from hcfg]
  exact if_pos h

section
variable (hst : s.stepState n = 4) (hphase : s.get R.STEP_CH_STAT_HOME_PHASE n = 3) (hv : (s.stepCh n).v = 0)
  (hpos : (s.stepCh n).pos = ((s.stepCh n).latch - (if x.homePosDir then 1 else -1) * x.backoff) * p32)
include hst hphase hv hpos

theorem exec_homingBackoffDone_arrived : exec (.homingBackoffDone dt n) s =
    if homeLevel x (s.stepCh n).sw then .next ((s.advance dt).stepFault n 7)
    else .next (((((((((s.advance dt).putStep n ((s.stepCh n).redefined (x.homePos - (if x.homePosDir then 1 else -1) * x.backoff))).set
      R.STEP_CH_STAT_HOME_PHASE 0 n).set R.STEP_CH_STAT_HOMED 1 n).set R.STEP_CH_STAT_POS_LOST 0 n).stepRest n).stepRegs n).evt R.STEP_EVT_HOMED).record
      { code := 0x0F04, source := n, items := [(1, n), sItem 4 (s.stepCh n).latch, (2, min 65535 (s.stepCh n).chatter)], key := 1 }) := by
  show execHomingBackoffDone dt n s = _
  unfold execHomingBackoffDone
  dsimp only
  rewrite [show tfind (s.advance dt).man.step n = some x from hcfg]
  dsimp only
  rewrite [State.advance_stepCh, if_neg (by simp [hst, hphase, hv, hpos])]
  rfl

theorem homingBackoffDone_stuck (hlevel : homeLevel x (s.stepCh n).sw = true) :
    ∃ t, exec (.homingBackoffDone dt n) s = .next t ∧ t.stepState n = 5 ∧ t.get R.STEP_CH_STAT_CAUSE n = 7 := by
  have hexec := exec_homingBackoffDone_arrived dt n x s hcfg hst hphase hv hpos
  rewrite [if_pos hlevel] at hexec
  obtain ⟨hstate, hcause, -⟩ := (s.advance dt).stepFault_shows n 7 (show s.stepState n ≠ 5 by omega) (by decide)
  exact ⟨_, hexec, hstate, hcause⟩

theorem homingBackoffDone_homed (hlevel : homeLevel x (s.stepCh n).sw = false) :
    ∃ t, exec (.homingBackoffDone dt n) s = .next t ∧ t.stepState n = 1 ∧ t.get R.STEP_CH_STAT_HOMED n = 1 ∧ t.get R.STEP_CH_STAT_POS_LOST n = 0 ∧
      t.get R.STEP_CH_STAT_HOME_PHASE n = 0 ∧ (t.stepCh n).pos = (x.homePos - (if x.homePosDir then 1 else -1) * x.backoff) * p32 ∧
      t.get R.STEP_EVT_HOMED = 1 := by
  have hexec := exec_homingBackoffDone_arrived dt n x s hcfg hst hphase hv hpos
  rewrite [if_neg (by simp [hlevel])] at hexec
  refine ⟨_, hexec, ?_⟩
  unfold State.stepState State.stepRest
  simp (disch := decide) only [State.record_get, State.evt_get_ne, State.evt_get_same, State.stepRegs_get, State.get_set_ne, State.get_set_same,
    State.putStep_get, State.record_stepCh, State.evt_stepCh, State.stepRegs_stepCh, State.set_stepCh, State.putStep_stepCh]
  exact ⟨rfl, rfl, rfl, rfl, rfl, rfl⟩

end
end

/-- Settles O44: each clause is the lemma of its command above. When a crossing counts and what homing records follows the model's choices
(logs 157, 163); that a command whose condition is not met only lets time pass is one too (log 1). -/
theorem motorDrive : Obligations.MotorDrive := by
  unfold Obligations.MotorDrive
  exact ⟨fun dt n w a x s hmode hnd hcfg => generatorUpdate_rests dt n w a s x hmode hnd hcfg,
    fun dt n w a x s hmode hnd hcfg => generatorUpdate_arrives dt n w a x s hmode hnd hcfg,
    fun dt _ w a s => exec_generatorUpdate_idle dt w a s, chopperCrossing_turns, chopperCrossing_blanked,
    fun dt n k x s hcfg hdrive hbridge hat href hst => openCoil_faults dt n k s x hcfg hst hdrive hbridge hat href,
    fun dt n k x s hcfg hshorts hst => shortCoil_faults dt n k s x hcfg hst hshorts, fun dt n k c s => exec_coilFault_idle dt n k s c,
    holdCurrentReduce_reduces, exec_holdCurrentReduce_idle, fun dt n p x s hcfg => limitSwitchDebounced_shows dt n x s hcfg p,
    limitSwitchDebounced_stops, homeSwitchDebounced_latches, exec_homeSwitchDebounced_early, homingBackoffDone_homed,
    homingBackoffDone_stuck, exec_homingBackoffDone_idle⟩

end Sys2Proof.Machine
end

section
set_option Elab.async false
/-!
PROOF of the statement of 14_safety_functions.md about the faults of the safety island (IslandFaults): what the parts of the island leave
as it was, what switching its outputs does, the lock-out that every fault ends in, and then the faults.
-/

namespace Sys2Proof.Machine

open Sys2Proof

/-! ### A bit of a mask -/

@[simp] theorem putBit_testBit_same (m n : Nat) (b : Bool) : (putBit m n b).testBit n = b := by
  unfold putBit
  cases b
  · rewrite [if_neg (by decide)]
    split
    next h => simp [h]
    next h => simpa using h
  · simp

theorem putBit_testBit_ne {m n k : Nat} (b : Bool) (h : k ≠ n) : (putBit m n b).testBit k = m.testBit k := by
  have hk : (2 ^ n).testBit k = false := by simpa [Nat.testBit_two_pow] using Ne.symm h
  unfold putBit
  split_ifs
  · simp [hk]
  · simp [hk]
  · rfl

section
variable (s : State) (f : Fld) (n : Nat) (b : Bool)

theorem State.setBitOf_get_same (hn : n < f.width) : ((s.setBitOf f n b).get f).testBit n = b := by
  unfold State.setBitOf
  rw [State.get_set_same, Nat.testBit_mod_two_pow, putBit_testBit_same, decide_eq_true hn, Bool.true_and]

/-- Setting one bit leaves every other that the field can show. -/
theorem State.setBitOf_get_other {k : Nat} (hk : k < f.width) (h : k ≠ n) : ((s.setBitOf f n b).get f).testBit k = (s.get f).testBit k := by
  unfold State.setBitOf
  rw [State.get_set_same, Nat.testBit_mod_two_pow, putBit_testBit_ne b h, decide_eq_true hk, Bool.true_and]

end

/-! ### What the island's parts leave -/

/-- `t` is `s` but for the island's own data, the fields listed (in any bank), and what is told. -/
structure IslApart (fs : List Fld) (s t : State) : Prop where
  plain : t.plain = ({ s with isl := t.isl } : State).plain
  get : ∀ (f : Fld) (b : Nat), apartFrom fs f = true → t.get f b = s.get f b

section
variable {fs : List Fld} {s t u : State}

theorem IslApart.refl (fs : List Fld) (s : State) : IslApart fs s s := ⟨rfl, fun _ _ _ => rfl⟩

theorem IslApart.trans (h : IslApart fs s t) (g : IslApart fs t u) : IslApart fs s u :=
  ⟨g.plain.trans (congrArg (fun v : State => { v with isl := u.isl }) h.plain), fun f b hf => (g.get f b hf).trans (h.get f b hf)⟩

theorem IslApart.now (h : IslApart fs s t) : t.now = s.now := (State.of_plain_now h.plain :)
theorem IslApart.man (h : IslApart fs s t) : t.man = s.man := (State.of_plain_man h.plain :)

theorem IslApart.withIsl (h : IslApart fs s t) (i : IslSt) : IslApart fs s { t with isl := i } :=
  ⟨congrArg (fun v : State => { v with isl := i }) h.plain, h.get⟩

theorem IslApart.set (h : IslApart fs s t) {f : Fld} (v b : Nat) (hf : f ∈ fs) : IslApart fs s (t.set f v b) :=
  ⟨h.plain, fun g c hg => (State.get_set_ne _ _ _ _ (apartFrom_ne hg hf)).trans (h.get g c hg)⟩

theorem IslApart.record (h : IslApart fs s t) (e : Ev) : IslApart fs s (t.record e) := by
  refine ⟨?_, fun g c hg => (State.record_get _ _ _ (noteFld_of_apartFrom hg)).trans (h.get g c hg)⟩
  rewrite [State.record_isl]
  exact (State.record_plain t e).trans h.plain

theorem IslApart.send (h : IslApart fs s t) (n k o : Nat) (l : List Nat) (pm : Pm) : IslApart fs s (t.send n k o l pm) := by
  refine ⟨?_, fun g c hg => (State.send_get _ _ _ _ _ _ _ (noteFld_of_apartFrom hg)).trans (h.get g c hg)⟩
  rewrite [State.send_isl]
  exact (State.send_plain t n k o l pm).trans h.plain

theorem IslApart.evt (h : IslApart fs s t) {f : Fld} (b : Nat) (hf : f ∈ fs) : IslApart fs s (t.evt f b) := by
  refine ⟨?_, fun g c hg => (State.evt_get_ne _ _ _ (noteFld_of_apartFrom hg) (apartFrom_ne hg hf)).trans (h.get g c hg)⟩
  rewrite [State.evt_isl]
  exact (State.evt_plain t f b).trans h.plain

theorem IslApart.note (h : IslApart fs s t) (e : Ev) : IslApart fs s (t.islNote e) := (h.record e).send _ _ _ _ _

theorem IslApart.ite {c : Prop} [Decidable c] (h : IslApart fs s t) (g : IslApart fs s u) : IslApart fs s (if c then t else u) := by
  split
  · exact h
  · exact g

theorem IslApart.foldl {α : Type} {g : State → α → State} (hg : ∀ u x, IslApart fs u (g u x)) (l : List α) (s : State) :
    IslApart fs s (l.foldl g s) := by
  induction l generalizing s with
  | nil => exact .refl fs s
  | cons x l ih => exact (hg s x).trans (ih _)

end

@[simp] theorem State.islNote_isl (s : State) (e : Ev) : (s.islNote e).isl = s.isl := by
  simp [State.islNote]

@[simp] theorem State.islNote_get (s : State) (e : Ev) {f : Fld} (b : Nat) (hf : noteFld f = false) : (s.islNote e).get f b = s.get f b := by
  simp [State.islNote, hf]

@[simp] theorem State.islNote_man (s : State) (e : Ev) : (s.islNote e).man = s.man := by
  simp [State.islNote]

@[simp] theorem State.islNote_now (s : State) (e : Ev) : (s.islNote e).now = s.now := by
  simp [State.islNote]

/-! ### Outputs (R330, R340) -/

section
variable (s : State) (n : Nat) (o : SafeOutSt)

@[simp] theorem State.putIslOut_islOut : (s.putIslOut n o).islOut n = o := by
  simp [State.putIslOut, State.islOut, tget]

theorem State.putIslOut_islOut_ne {k : Nat} (h : k ≠ n) : (s.putIslOut n o).islOut k = s.islOut k := by
  simp [State.putIslOut, State.islOut, tget, tfind_tput_ne, h]

end

/-- The fields that show an output switch. -/
def switchFlds : List Fld := [R.SAFE_OUT_ON, R.SAFE_EVT_OUT_OFF]

/-- `t` is `s` but for the island's outputs, the fields that show them switch, and what is told. -/
structure OutsApart (s t : State) : Prop extends IslApart switchFlds s t where
  isl : t.isl = { s.isl with outs := t.isl.outs }

section
variable {s t u : State}

theorem OutsApart.refl (s : State) : OutsApart s s := ⟨.refl _ s, rfl⟩

theorem OutsApart.trans (h : OutsApart s t) (g : OutsApart t u) : OutsApart s u := by
  refine ⟨h.toIslApart.trans g.toIslApart, ?_⟩
  rw [g.isl, h.isl]

theorem OutsApart.putIslOut (h : OutsApart s t) (n : Nat) (o : SafeOutSt) : OutsApart s (t.putIslOut n o) := by
  refine ⟨h.toIslApart.withIsl _, ?_⟩
  unfold State.putIslOut
  rw [h.isl]

theorem OutsApart.foldl {α : Type} {g : State → α → State} (hg : ∀ u x, OutsApart u (g u x)) (l : List α) (s : State) :
    OutsApart s (l.foldl g s) := by
  induction l generalizing s with
  | nil => exact .refl s
  | cons x l ih => exact (hg s x).trans (ih _)

end

/-- An output as it switches at an instant: both channels follow, but a channel under test stays off. -/
def SafeOutSt.switched (o : SafeOutSt) (on : Bool) (now : Nat) : SafeOutSt :=
  { o with on := on, chA := on && !(match o.test with | some (b, _) => !b | none => false),
           chB := on && !(match o.test with | some (b, _) => b | none => false), switchedAt := some now,
           dueA := o.dueA || (!on && o.chA), dueB := o.dueB || (!on && o.chB) }

section
variable (s : State) (n : Nat) (on : Bool) (reason : Nat)

theorem State.islSwitch_isl :
    (s.islSwitch n on reason).isl = { s.isl with outs := tput s.isl.outs n ((s.islOut n).switched on s.now) } := by
  cases on with
  | true => exact State.islNote_isl _ _
  | false => exact (State.islNote_isl _ _).trans (State.evt_isl _ _ _)

theorem State.islSwitch_islOut : (s.islSwitch n on reason).islOut n = (s.islOut n).switched on s.now := by
  simp [State.islOut, State.islSwitch_isl, tget]

theorem State.islSwitch_islOut_ne {k : Nat} (h : k ≠ n) : (s.islSwitch n on reason).islOut k = s.islOut k := by
  simp [State.islOut, State.islSwitch_isl, tget, tfind_tput_ne, h]

theorem State.islSwitch_apart : OutsApart s (s.islSwitch n on reason) := by
  refine ⟨?_, ?_⟩
  · have hput : ∀ o : SafeOutSt, IslApart switchFlds s ((s.putIslOut n o).setBitOf R.SAFE_OUT_ON n on) := fun o =>
      ((IslApart.refl _ s).withIsl _).set _ _ (by simp [switchFlds])
    exact (((hput _).trans (.ite (.refl _ _) ((IslApart.refl _ _).evt _ (by simp [switchFlds]))))).note _
  · rw [State.islSwitch_isl]

end

/-! ### Every output off (R328, R343) -/

/-- One output of the list loses its demand and is switched off. -/
def State.islOff (s : State) (c : Nat × SafeOutCfg) : State :=
  if (s.islOut c.1).on
  then (s.putIslOut c.1 { s.islOut c.1 with demand := false, reason := 6 }).islSwitch c.1 false 6
  else s.putIslOut c.1 { s.islOut c.1 with demand := false, reason := 6 }

theorem State.islAllOff_eq (s : State) : s.islAllOff = s.man.safety.outs.foldl State.islOff s := by
  unfold State.islAllOff
  congr 1
  funext u c
  simp [State.islOff]

section
variable (s : State) (c : Nat × SafeOutCfg)

theorem State.islOff_apart : OutsApart s (s.islOff c) := by
  unfold State.islOff
  split
  · exact ((OutsApart.refl s).putIslOut _ _).trans (State.islSwitch_apart _ _ _ _)
  · exact (OutsApart.refl s).putIslOut _ _

theorem State.islOff_on (k : Nat) : ((s.islOff c).islOut k).on = ((s.islOut k).on && k ≠ c.1) := by
  unfold State.islOff
  by_cases h : k = c.1
  · subst h
    split
    next => simp [State.islSwitch_islOut, SafeOutSt.switched]
    next hoff => simpa using hoff
  · split
    · simp [State.islSwitch_islOut_ne _ _ _ _ h, State.putIslOut_islOut_ne _ _ _ h, h]
    · simp [State.putIslOut_islOut_ne _ _ _ h, h]

end

theorem foldl_islOff_on (l : List (Nat × SafeOutCfg)) (s : State) (k : Nat) :
    ((l.foldl State.islOff s).islOut k).on = ((s.islOut k).on && l.all fun c => k ≠ c.1) := by
  induction l generalizing s with
  | nil => simp
  | cons c l ih => rw [List.foldl_cons, ih, State.islOff_on, List.all_cons, Bool.and_assoc]

theorem State.islAllOff_apart (s : State) : OutsApart s s.islAllOff := by
  rewrite [State.islAllOff_eq]
  exact OutsApart.foldl State.islOff_apart _ _

theorem State.islAllOff_off (s : State) : (s.man.safety.outs.all fun o => !(s.islAllOff.islOut o.1).on) = true := by
  rewrite [State.islAllOff_eq, List.all_eq_true]
  intro o ho
  rewrite [foldl_islOff_on, Bool.not_eq_true', Bool.and_eq_false_iff]
  exact .inr (List.all_eq_false.2 ⟨o, ho, by simp⟩)

/-! ### Lock-out (R343) -/

section
variable (s : State) (cause index : Nat)

/-- The state with a cause listed, and shown as a permanent one where it is. -/
def State.islListed : State :=
  if 4 ≤ cause && cause ≤ 8
  then State.set { s with isl := { s.isl with causes := if (cause, index) ∈ s.isl.causes then s.isl.causes else s.isl.causes ++ [(cause, index)] } }
    R.SAFE_STAT_PERMANENT 1
  else { s with isl := { s.isl with causes := if (cause, index) ∈ s.isl.causes then s.isl.causes else s.isl.causes ++ [(cause, index)] } }

theorem State.islLock_eq : s.islLock cause index =
    if (s.islListed cause index).islState = 3 then s.islListed cause index
    else (((s.islListed cause index).set R.SAFE_STAT_CAUSE cause).islTo 3).islAllOff := rfl

theorem State.islListed_isl : (s.islListed cause index).isl =
    { s.isl with causes := if (cause, index) ∈ s.isl.causes then s.isl.causes else s.isl.causes ++ [(cause, index)] } := by
  unfold State.islListed
  split
  · rfl
  · rfl

theorem State.islListed_mem : (cause, index) ∈ (s.islListed cause index).isl.causes := by
  rewrite [State.islListed_isl]
  dsimp only
  split
  · assumption
  · simp

theorem State.islListed_get {f : Fld} (b : Nat) (hf : fkey f ≠ fkey R.SAFE_STAT_PERMANENT) :
    (s.islListed cause index).get f b = s.get f b := by
  unfold State.islListed
  split
  · exact State.get_set_ne _ _ _ _ hf
  · rfl

theorem State.islListed_permanent (h : 4 ≤ cause) (h' : cause ≤ 8) : (s.islListed cause index).get R.SAFE_STAT_PERMANENT = 1 := by
  unfold State.islListed
  rewrite [if_pos (by simp [h, h'])]
  exact State.get_set_same _ _ _ _

@[simp] theorem State.islListed_man : (s.islListed cause index).man = s.man := by
  unfold State.islListed
  split
  · rfl
  · rfl

end

section
variable (s : State) (cause index : Nat)

/-- The fields that a lock-out writes. -/
def lockOutFlds : List Fld := [R.SAFE_STAT_STATE, R.SAFE_STAT_CAUSE, R.SAFE_STAT_PERMANENT, R.SAFE_EVT_LOCKOUT, R.SAFE_OUT_ON, R.SAFE_EVT_OUT_OFF]

theorem State.islListed_islState : (s.islListed cause index).islState = s.islState := State.islListed_get _ _ _ _ (by decide)

/-- In lock-out already, the cause is listed and no more. -/
theorem State.islLock_again (h : s.islState = 3) : s.islLock cause index = s.islListed cause index := by
  rw [State.islLock_eq, State.islListed_islState, if_pos h]

/-- The state in which a lock-out begins, before the outputs go off. -/
def State.islShut (e : Ev) : State :=
  ((((s.islListed cause index).set R.SAFE_STAT_CAUSE cause).set R.SAFE_STAT_STATE 3).evt R.SAFE_EVT_LOCKOUT).islNote e

/-- Else the island enters lock-out and every output goes off. -/
theorem State.islLock_first (h : s.islState ≠ 3) : ∃ e : Ev, s.islLock cause index = (s.islShut cause index e).islAllOff := by
  rewrite [State.islLock_eq, State.islListed_islState, if_neg h]
  exact ⟨_, rfl⟩

theorem State.islShut_isl (e : Ev) : (s.islShut cause index e).isl = (s.islListed cause index).isl := by
  simp [State.islShut]

theorem State.islShut_man (e : Ev) : (s.islShut cause index e).man = s.man := by
  simp [State.islShut]

theorem State.islShut_shows (e : Ev) (hc : cause < 256) : (s.islShut cause index e).islState = 3 ∧
    (s.islShut cause index e).get R.SAFE_STAT_CAUSE = cause ∧ (s.islShut cause index e).get R.SAFE_EVT_LOCKOUT = 1 ∧
    (s.islShut cause index e).get R.SAFE_STAT_PERMANENT = (s.islListed cause index).get R.SAFE_STAT_PERMANENT := by
  unfold State.islState State.islShut
  simp (disch := decide) only [State.islNote_get, State.evt_get_ne, State.evt_get_same, State.get_set_ne, State.get_set_same]
  exact ⟨rfl, Nat.mod_eq_of_lt hc, rfl, trivial⟩

theorem State.islListed_apart : IslApart lockOutFlds s (s.islListed cause index) :=
  .ite (((IslApart.refl _ s).withIsl _).set _ _ (by simp [lockOutFlds])) ((IslApart.refl _ s).withIsl _)

theorem IslApart.mono {fs gs : List Fld} {s t : State} (h : IslApart fs s t) (hm : ∀ f, apartFrom gs f = true → apartFrom fs f = true) :
    IslApart gs s t := ⟨h.plain, fun f b hf => h.get f b (hm f hf)⟩

theorem State.islLock_apart : IslApart lockOutFlds s (s.islLock cause index) := by
  by_cases h : s.islState = 3
  · rewrite [State.islLock_again _ _ _ h]
    exact State.islListed_apart s cause index
  · obtain ⟨e, he⟩ := s.islLock_first cause index h
    rewrite [he]
    have hshut : IslApart lockOutFlds s (s.islShut cause index e) :=
      ((((State.islListed_apart s cause index).set _ _ (by simp [lockOutFlds])).set _ _ (by simp [lockOutFlds])).evt _ (by simp [lockOutFlds])).note _
    refine hshut.trans ((State.islAllOff_apart _).toIslApart.mono fun f hf => ?_)
    simp only [apartFrom, lockOutFlds, switchFlds, List.all_cons, List.all_nil, Bool.and_eq_true] at hf ⊢
    obtain ⟨hn, -, -, -, -, h₁, h₂, -⟩ := hf
    exact ⟨hn, h₁, h₂, trivial⟩

theorem State.islLock_isl :
    (s.islLock cause index).isl = { s.isl with causes := (s.islLock cause index).isl.causes, outs := (s.islLock cause index).isl.outs } := by
  by_cases h : s.islState = 3
  · rw [State.islLock_again _ _ _ h, State.islListed_isl]
  · obtain ⟨e, he⟩ := s.islLock_first cause index h
    rw [he, (State.islAllOff_apart _).isl, State.islShut_isl, State.islListed_isl]

/-- A cause ends in lock-out. -/
theorem State.islLock_lockedOut (hc : cause < 256) : LockedOut cause index s (s.islLock cause index) := by
  by_cases h : s.islState = 3
  · rewrite [State.islLock_again _ _ _ h]
    exact ⟨(State.islListed_islState _ _ _).trans h, State.islListed_mem _ _ _, State.islListed_permanent _ _ _,
      fun _ => State.islListed_get _ _ _ _ (by decide), fun hn => absurd h hn⟩
  · obtain ⟨e, he⟩ := s.islLock_first cause index h
    obtain ⟨hstate, hcause, hevt, hperm⟩ := s.islShut_shows cause index e hc
    have hoff := (s.islShut cause index e).islAllOff_apart
    have hall := (s.islShut cause index e).islAllOff_off
    rewrite [State.islShut_man] at hall
    rewrite [he]
    refine ⟨(hoff.get _ _ (by decide)).trans hstate, ?_, fun h₁ h₂ => ?_, fun hs => absurd hs h,
      fun _ => ⟨(hoff.get _ _ (by decide)).trans hcause, (hoff.get _ _ (by decide)).trans hevt, hall⟩⟩
    · rewrite [hoff.isl, State.islShut_isl]
      exact State.islListed_mem _ _ _
    · exact ((hoff.get _ _ (by decide)).trans hperm).trans (State.islListed_permanent _ _ _ h₁ h₂)

/-! ### A fault of the island -/

section
variable (hp : s.isl.present = true)
include hp

theorem State.islFault_present : ∃ e : Ev, s.islFault cause index = (s.islNote e).islLock cause index := by
  unfold State.islFault
  rewrite [if_neg (by simp [hp])]
  exact ⟨_, rfl⟩

theorem State.islFault_lockedOut (hc : cause < 256) : LockedOut cause index s (s.islFault cause index) := by
  obtain ⟨e, he⟩ := s.islFault_present cause index hp
  obtain ⟨hstate, hmem, hperm, hagain, hfirst⟩ := (s.islNote e).islLock_lockedOut cause index hc
  have hst : (s.islNote e).islState = s.islState := State.islNote_get _ _ _ (by decide)
  rewrite [hst, State.islNote_get _ _ _ (by decide)] at hagain
  rewrite [hst, State.islNote_man] at hfirst
  rewrite [he]
  exact ⟨hstate, hmem, hperm, hagain, hfirst⟩

theorem State.islFault_apart : IslApart lockOutFlds s (s.islFault cause index) := by
  obtain ⟨e, he⟩ := s.islFault_present cause index hp
  rewrite [he]
  exact ((IslApart.refl _ s).note e).trans (State.islLock_apart _ _ _)

theorem State.islFault_isl :
    (s.islFault cause index).isl = { s.isl with causes := (s.islFault cause index).isl.causes, outs := (s.islFault cause index).isl.outs } := by
  obtain ⟨e, he⟩ := s.islFault_present cause index hp
  rw [he, State.islLock_isl, State.islNote_isl]

theorem State.islFault_mode : (s.islFault cause index).mode = s.mode := (State.islFault_apart s cause index hp).get _ _ (by decide)

end
end

/-- A lock-out of a state that shows the same of the island. -/
theorem LockedOut.of_start {cause index : Nat} {s u t : State} (h : LockedOut cause index u t) (hs : u.islState = s.islState)
    (hc : u.get R.SAFE_STAT_CAUSE = s.get R.SAFE_STAT_CAUSE) (hm : u.man = s.man) : LockedOut cause index s t := by
  unfold LockedOut at h ⊢
  rwa [hs, hc, hm] at h

/-- What leaves the island's data and the fields that show them leaves a lock-out. -/
theorem LockedOut.of_end {cause index : Nat} {s t u : State} (h : LockedOut cause index s t) (hi : u.isl = t.isl)
    (hg : ∀ f ∈ [R.SAFE_STAT_STATE, R.SAFE_STAT_PERMANENT, R.SAFE_STAT_CAUSE, R.SAFE_EVT_LOCKOUT], u.get f = t.get f) :
    LockedOut cause index s u := by
  simp only [List.forall_mem_cons] at hg
  obtain ⟨hstate, hperm, hcause, hevt, -⟩ := hg
  unfold LockedOut State.islState State.islOut at h ⊢
  rwa [hi, hstate, hperm, hcause, hevt]

@[simp] theorem State.trunksOff_isl (s : State) : s.trunksOff.isl = s.isl :=
  State.trunksOff_keeps (·.isl) (fun _ _ _ _ => rfl) (fun _ _ => rfl) s

@[simp] theorem State.giveUp_isl (s : State) (c : Nat) : (s.giveUp c).isl = s.isl := by
  simp [State.giveUp, State.inc_eq]

@[simp] theorem State.dropOut_isl (s : State) : s.dropOut.isl = s.isl := by simp [State.dropOut]

@[simp] theorem State.safeArm_isl (s : State) (c k : Nat) : (s.safeArm c k).isl = s.isl := by
  unfold State.safeArm State.safeCause
  dsimp only
  split <;> simp

@[simp] theorem State.trigger_isl (s : State) (cause alone kind : Nat) : (s.trigger cause alone kind).isl = s.isl := by
  unfold State.trigger
  split_ifs
  · exact State.record_isl _ _
  all_goals simp

theorem State.deviceFault_isl (s : State) (cause unit : Nat) : (s.deviceFault cause unit).isl = s.isl := by
  simp [State.deviceFault, State.faultNote, State.incSat_eq]

theorem State.deviceFault_keeps (s : State) (cause unit : Nat) {f : Fld} (b : Nat) (h : triggerKeeps f = true)
    (hf : apartFrom [R.DEV_FAULT_CAUSE, R.DEV_FAULT_UNIT, R.DEV_FAULT_COUNT, R.DEV_EVT_FAULT] f = true) :
    (s.deviceFault cause unit).get f b = s.get f b := by
  unfold State.deviceFault
  rw [State.trigger_keeps _ _ h, State.faultNote_get _ _ _ _ (noteFld_of_apartFrom hf) (apartFrom_ne hf (by simp)) (apartFrom_ne hf (by simp))
    (apartFrom_ne hf (by simp)) (apartFrom_ne hf (by simp))]

/-! ### The commands -/

section
variable (dt n : Nat) (s : State)

section
variable (hp : s.isl.present = true)
include hp

theorem islFaultCmds_lockOut (x : Nat × Instr) (hx : x ∈ islFaultCmds dt) :
    ∃ t, exec x.2 s = .next t ∧ LockedOut x.1 0xFF s t ∧ t.mode = s.mode := by
  have hfault (c : Nat) (hc : c < 256) : LockedOut c 0xFF s ((s.advance dt).islFault c 0xFF) ∧ ((s.advance dt).islFault c 0xFF).mode = s.mode :=
    ⟨(s.advance dt).islFault_lockedOut c 0xFF hp hc, (s.advance dt).islFault_mode c 0xFF hp⟩
  simp only [islFaultCmds, List.mem_cons, List.not_mem_nil, or_false] at hx
  rcases hx with rfl | rfl | rfl
  · exact ⟨_, rfl, hfault 6 (by decide)⟩
  · exact ⟨_, rfl, hfault 7 (by decide)⟩
  · exact ⟨_, rfl, hfault 8 (by decide)⟩

theorem islandLockstepMismatch_lockOut :
    ∃ t, exec (.islandLockstepMismatch dt) s = .next t ∧ LockedOut 5 0xFF s t ∧ t.get R.DEV_FAULT_CAUSE = 2 ∧ t.get R.DEV_EVT_FAULT = 1 := by
  have hexec : exec (.islandLockstepMismatch dt) s = .next (((s.advance dt).islFault 5 0xFF).deviceFault 2 0xFFFF) := if_neg (by simp [hp])
  have hlock : LockedOut 5 0xFF s ((s.advance dt).islFault 5 0xFF) := (s.advance dt).islFault_lockedOut 5 0xFF hp (by decide)
  obtain ⟨hcause, -, hevt⟩ := ((s.advance dt).islFault 5 0xFF).deviceFault_shows 2 0xFFFF
  refine ⟨_, hexec, hlock.of_end (State.deviceFault_isl _ _ _) ?_, hcause, hevt⟩
  simp only [List.forall_mem_cons, List.not_mem_nil, false_implies, implies_true, and_true]
  exact ⟨State.deviceFault_keeps _ _ _ _ (by decide) (by decide), State.deviceFault_keeps _ _ _ _ (by decide) (by decide),
    State.deviceFault_keeps _ _ _ _ (by decide) (by decide), State.deviceFault_keeps _ _ _ _ (by decide) (by decide)⟩

theorem paramCrcRecheck_lockOut (c : Nat) (hg : s.man.safety.given = true) (hc : c ≠ s.man.safety.crc) :
    ∃ t, exec (.paramCrcRecheck dt c) s = .next t ∧ LockedOut 4 0xFF s t := by
  have hexec : exec (.paramCrcRecheck dt c) s = .next ((s.advance dt).islFault 4 0xFF) := if_pos (by simp [hp, hg, hc])
  exact ⟨_, hexec, (s.advance dt).islFault_lockedOut 4 0xFF hp (by decide)⟩

theorem testStarved_lockOut (b : Bool) (h : 120 ≤ (if b then (s.islOut n).deferB else (s.islOut n).deferA)) :
    ∃ t, exec (.testStarved dt n b) s = .next t ∧ LockedOut 0xC n s t := by
  have hexec : exec (.testStarved dt n b) s = .next ((s.advance dt).islFault 0xC n) := if_pos h
  exact ⟨_, hexec, (s.advance dt).islFault_lockedOut 0xC n hp (by decide)⟩

theorem readbackFault_lockOut (us : Nat) (b : Bool) (c : SafeOutCfg) (hcfg : tfind s.man.safety.outs n = some c) (hus : 50 ≤ us) :
    ∃ t, exec (.readbackFault dt n b us) s = .next t ∧ LockedOut 0xA n s t ∧
      (b = true → t.isl.rbA = s.isl.rbA) ∧ (b = false → t.isl.rbB = s.isl.rbB) := by
  have hexec : ∃ (i : IslSt), i.present = true ∧ (b = true → i.rbA = s.isl.rbA) ∧ (b = false → i.rbB = s.isl.rbB) ∧
      exec (.readbackFault dt n b us) s =
        .next ((((({ s.advance dt with isl := i } : State)).set R.SAFE_RB_RB_A i.rbA).set R.SAFE_RB_RB_B i.rbB).islFault 0xA n) := by
    show ∃ (i : IslSt), i.present = true ∧ (b = true → i.rbA = s.isl.rbA) ∧ (b = false → i.rbB = s.isl.rbB) ∧ execReadbackFault dt n b us s = _
    unfold execReadbackFault
    dsimp only
    rewrite [show tfind (s.advance dt).man.safety.outs n = some c from hcfg]
    dsimp only
    rewrite [if_neg (by simp [hp, hus])]
    refine ⟨_, ?_, ?_, ?_, rfl⟩
    · split <;> exact hp
    · rintro rfl
      rfl
    · rintro rfl
      rfl
  obtain ⟨i, hi, hA, hB, hexec⟩ := hexec
  refine ⟨_, hexec, (State.islFault_lockedOut _ _ _ hi (by decide)).of_start ?_ ?_ rfl, ?_, ?_⟩
  · exact (State.get_set_ne _ _ _ _ (by decide)).trans (State.get_set_ne _ _ _ _ (by decide))
  · exact (State.get_set_ne _ _ _ _ (by decide)).trans (State.get_set_ne _ _ _ _ (by decide))
  · intro hb
    rewrite [State.islFault_isl _ _ _ hi]
    exact hA hb
  · intro hb
    rewrite [State.islFault_isl _ _ _ hi]
    exact hB hb

end

section
variable (t₀ : Nat) (c : SafeInCfg) (hat : (s.islIn n).discAt = some t₀) (hcfg : tfind s.man.safety.ins n = some c)
include hat hcfg

theorem exec_inputDiscrepancy : exec (.inputDiscrepancy dt n) s =
    if t₀ + c.discMs * 1000000 ≤ s.now + dt then .next ((s.advance dt).islFault 9 n) else .next (s.advance dt) := by
  show execInputDiscrepancy dt n s = _
  unfold execInputDiscrepancy
  dsimp only
  rewrite [show ((s.advance dt).islIn n).discAt = some t₀ from hat, show tfind (s.advance dt).man.safety.ins n = some c from hcfg]
  rfl

theorem inputDiscrepancy_lockOut (hp : s.isl.present = true) (h : t₀ + c.discMs * 1000000 ≤ s.now + dt) :
    ∃ t, exec (.inputDiscrepancy dt n) s = .next t ∧ LockedOut 9 n s t :=
  ⟨_, (exec_inputDiscrepancy dt n s t₀ c hat hcfg).trans (if_pos h), (s.advance dt).islFault_lockedOut 9 n hp (by decide)⟩

end

section
variable (e t₀ : Nat) (c : SafeOutCfg) (hcfg : tfind s.man.safety.outs n = some c) (he : c.edm = some e) (hat : (s.islOut n).switchedAt = some t₀)
include hcfg he hat

theorem exec_edmFault : exec (.edmFault dt n) s =
    if t₀ + c.edmMs * 1000000 ≤ s.now + dt && s.isl.edm.testBit e = (s.islOut n).on then .next ((s.advance dt).islFault 0xD e)
    else .next (s.advance dt) := by
  show execEdmFault dt n s = _
  unfold execEdmFault
  dsimp only
  rewrite [show tfind (s.advance dt).man.safety.outs n = some c from hcfg]
  dsimp only
  rewrite [he, show ((s.advance dt).islOut n).switchedAt = some t₀ from hat]
  rfl

theorem edmFault_lockOut (hp : s.isl.present = true) (h : t₀ + c.edmMs * 1000000 ≤ s.now + dt)
    (hbit : s.isl.edm.testBit e = (s.islOut n).on) : ∃ t, exec (.edmFault dt n) s = .next t ∧ LockedOut 0xD e s t :=
  ⟨_, (exec_edmFault dt n s e t₀ c hcfg he hat).trans (if_pos (by simp [h, hbit])), (s.advance dt).islFault_lockedOut 0xD e hp (by decide)⟩

end

section
variable (c : AxisCfg) (hcfg : tfind s.man.safety.axes n = some c) (hp : s.isl.present = true)
include hcfg hp

theorem axisDiscrepancy_lockOut (t₀ : Nat) (hat : (s.islAx n).diffAt = some t₀) (h : t₀ + c.diffMs * 1000000 ≤ s.now + dt) :
    ∃ t, exec (.axisDiscrepancy dt n) s = .next t ∧ LockedOut 0xE n s t := by
  have hexec : exec (.axisDiscrepancy dt n) s = .next ((s.advance dt).islFault 0xE n) := by
    show execAxisDiscrepancy dt n s = _
    unfold execAxisDiscrepancy
    dsimp only
    rewrite [show ((s.advance dt).islAx n).diffAt = some t₀ from hat, show tfind (s.advance dt).man.safety.axes n = some c from hcfg]
    exact if_pos h
  exact ⟨_, hexec, (s.advance dt).islFault_lockedOut 0xE n hp (by decide)⟩

theorem safetyEncoderError_lockOut : ∃ t, exec (.safetyEncoderError dt n) s = .next t ∧ LockedOut 0xF n s t ∧
    t.islAx n = { s.islAx n with errAt := some (s.now + dt) } := by
  have hexec : exec (.safetyEncoderError dt n) s =
      .next (((s.advance dt).putIslAx n { s.islAx n with errAt := some (s.now + dt) }).islFault 0xF n) := by
    show execSafetyEncoderError dt n s = _
    unfold execSafetyEncoderError
    dsimp only
    rewrite [show tfind (s.advance dt).man.safety.axes n = some c from hcfg]
    rfl
  have hpx : ((s.advance dt).putIslAx n { s.islAx n with errAt := some (s.now + dt) }).isl.present = true := hp
  refine ⟨_, hexec, (State.islFault_lockedOut _ _ _ hpx (by decide)).of_start rfl rfl rfl, ?_⟩
  have hax := congrArg (fun i : IslSt => tget i.axes n {}) (State.islFault_isl _ 0xF n hpx)
  exact hax.trans (by simp [State.putIslAx, tget])

end

theorem axisDiscrepancy_quiet (hat : (s.islAx n).diffAt = none) : exec (.axisDiscrepancy dt n) s = .next (s.advance dt) := by
  show execAxisDiscrepancy dt n s = _
  unfold execAxisDiscrepancy
  dsimp only
  rw [show ((s.advance dt).islAx n).diffAt = none from hat]

theorem readbackFault_quiet (us : Nat) (b : Bool) (h : us < 50) : exec (.readbackFault dt n b us) s = .next (s.advance dt) := by
  show execReadbackFault dt n b us s = _
  unfold execReadbackFault
  dsimp only
  split
  · rfl
  · exact if_pos (by simp [h])

/-- Without an island nothing is found. -/
theorem State.islFault_absent (hp : s.isl.present = false) (c i : Nat) : s.islFault c i = s := if_pos (by simp [hp])

section
variable (hp : s.isl.present = false)
include hp

theorem testPulseStart_absent (b f : Bool) : exec (.testPulseStart dt n b f) s = .next (s.advance dt) := by
  show execTestPulseStart dt n b f s = _
  unfold execTestPulseStart
  dsimp only
  split
  · rfl
  · exact if_pos (by simp [hp])

theorem readbackFault_absent (us : Nat) (b : Bool) : exec (.readbackFault dt n b us) s = .next (s.advance dt) := by
  show execReadbackFault dt n b us s = _
  unfold execReadbackFault
  dsimp only
  split
  · rfl
  · exact if_pos (by simp [hp])

theorem islCmds_absent (m : Nat) (b l : Bool) (z : List (Nat × Int)) : ∀ c ∈ islCmds dt n m b l z, exec c s = .next (s.advance dt) := by
  have hfault (c : Nat) : (Host.Outcome.next ((s.advance dt).islFault c 0xFF) : Out) = .next (s.advance dt) :=
    congrArg _ ((s.advance dt).islFault_absent hp c 0xFF)
  simp only [islCmds, List.forall_mem_cons, List.not_mem_nil, false_implies, implies_true, and_true]
  exact ⟨if_pos (by simp [hp]), if_pos (by simp [hp]), if_pos (by simp [hp]), hfault 6, hfault 7, hfault 8, if_neg (by simp [hp]),
    testPulseStart_absent dt n s hp b l, readbackFault_absent dt n s hp m b, if_pos (by simp [hp]), if_pos (by simp [hp]), if_pos (by simp [hp])⟩

end
end

/-- Settles O45: each fault of the island is `State.islFault` of its cause, which `State.islFault_lockedOut` says ends in lock-out; the conditions
that do not hold leave the state. The clauses of a command whose condition does not hold rest on log DESIGN CHOICE 1, those of the discrepancy
on log 178. -/
theorem islandFaults : Obligations.IslandFaults := by
  unfold Obligations.IslandFaults
  exact ⟨fun dt x s hx hp => islFaultCmds_lockOut dt s hp x hx, islandLockstepMismatch_lockOut,
    fun dt c s hp hg hc => paramCrcRecheck_lockOut dt s hp c hg hc, fun dt s => if_neg (by simp),
    fun dt n t₀ c s hp hat hcfg h => inputDiscrepancy_lockOut dt n s t₀ c hat hcfg hp h,
    fun dt n t₀ c s hat hcfg h => (exec_inputDiscrepancy dt n s t₀ c hat hcfg).trans (if_neg (Nat.not_le.2 h)),
    fun dt n us b c s hp hcfg h => readbackFault_lockOut dt n s hp us b c hcfg h, fun dt n us b s h => readbackFault_quiet dt n s us b h,
    fun dt n b s hp h => testStarved_lockOut dt n s hp b h, fun dt n b s h => if_neg (Nat.not_le.2 h),
    fun dt n e t₀ c s hp hcfg he hat h hbit => edmFault_lockOut dt n s e t₀ c hcfg he hat hp h hbit,
    fun dt n e t₀ c s hcfg he hat h => (exec_edmFault dt n s e t₀ c hcfg he hat).trans (if_neg (by
      rcases h with h | h
      · simp [Nat.not_le.2 h]
      · simp [h])),
    fun dt n t₀ c s hp hat hcfg h => axisDiscrepancy_lockOut dt n s c hcfg hp t₀ hat h, axisDiscrepancy_quiet,
    fun dt n c s hp hcfg => safetyEncoderError_lockOut dt n s c hcfg hp, fun dt n m b l z c s hc hp => islCmds_absent dt n s hp m b l z c hc⟩

end Sys2Proof.Machine
end

section
set_option Elab.async false
/-!
PROOF of the statement of 14_safety_functions.md about the island's cycles (IslandCycles): a bit of a mask, what the island cycle leaves at each
of its stages, the cycle itself, safe inputs, test pulses, and then the off-check.
-/

namespace Sys2Proof.Machine

open Sys2Proof

/-! ### Outputs take their demands (R330) -/

section
variable (s : State) (n : Nat)

theorem State.islApply_apart : OutsApart s (s.islApply n) := by
  unfold State.islApply
  dsimp only
  split
  · exact .refl s
  · exact State.islSwitch_apart _ _ _ _

theorem State.islApply_on : ((s.islApply n).islOut n).on = ((s.islOut n).demand && s.islState = 2) := by
  unfold State.islApply
  dsimp only
  split
  next h => exact h.symm
  next => rewrite [State.islSwitch_islOut]; rfl

theorem State.islApply_other {k : Nat} (h : k ≠ n) : (s.islApply n).islOut k = s.islOut k := by
  unfold State.islApply
  dsimp only
  split
  · rfl
  · exact State.islSwitch_islOut_ne _ _ _ _ h

end

/-- A fold over the outputs, each step of which is about its own output, meets an output once. -/
theorem foldl_islOut_once {g : State → Nat × SafeOutCfg → State} (hg : ∀ u x, OutsApart u (g u x))
    (hother : ∀ u x k, k ≠ x.1 → (g u x).islOut k = u.islOut k) (l : List (Nat × SafeOutCfg)) (s : State) {n : Nat} {c : SafeOutCfg}
    (hnd : (l.map (·.1)).Nodup) (hc : tfind l n = some c) :
    ∃ u, OutsApart s u ∧ u.islOut n = s.islOut n ∧ OutsApart u (l.foldl g s) ∧ (l.foldl g s).islOut n = (g u (n, c)).islOut n := by
  have hskip : ∀ (l : List (Nat × SafeOutCfg)) (s : State), n ∉ l.map (·.1) → (l.foldl g s).islOut n = s.islOut n := by
    intro l
    induction l with
    | nil => exact fun _ _ => rfl
    | cons x l ih =>
      intro s hn
      simp only [List.map_cons, List.mem_cons, not_or] at hn
      exact (ih _ hn.2).trans (hother s x n hn.1)
  induction l generalizing s with
  | nil => simp [tfind] at hc
  | cons x l ih =>
    obtain ⟨m, d⟩ := x
    simp only [List.map_cons, List.nodup_cons] at hnd
    by_cases h : n = m
    · subst h
      obtain rfl : d = c := by simpa [tfind] using hc
      exact ⟨s, .refl s, rfl, OutsApart.foldl hg _ s, hskip l _ hnd.1⟩
    · obtain ⟨u, hu, hout, hrest, hlast⟩ := ih (g s (m, d)) hnd.2 (by simpa [tfind, h] using hc)
      exact ⟨u, (hg s _).trans hu, hout.trans (hother s _ n h), hrest, hlast⟩

/-! ### Axes (R332 to R336) -/

/-- The fields that show an axis. -/
def axFlds : List Fld := [R.SAFE_AX_STAT_ACTIVE, R.SAFE_AX_STAT_VIOL, R.SAFE_AX_STAT_WARN, R.SAFE_AX_STAT_SLS_LEVEL, R.SAFE_AX_STAT_DIFF_PCT,
  R.SAFE_AX_SPD_SPD, R.SAFE_AX_POS_POS, R.SAFE_EVT_VIOL, R.SAFE_EVT_WARN]

/-- `t` is `s` but for the island's axes, the fields that show them, and what is told. -/
structure AxesApart (s t : State) : Prop extends IslApart axFlds s t where
  isl : t.isl = { s.isl with axes := t.isl.axes }

section
variable {s t u : State}

theorem AxesApart.refl (s : State) : AxesApart s s := ⟨.refl _ s, rfl⟩

theorem AxesApart.trans (h : AxesApart s t) (g : AxesApart t u) : AxesApart s u := by
  refine ⟨h.toIslApart.trans g.toIslApart, ?_⟩
  rw [g.isl, h.isl]

theorem AxesApart.set (h : AxesApart s t) {f : Fld} (v b : Nat) (hf : f ∈ axFlds) : AxesApart s (t.set f v b) :=
  ⟨h.toIslApart.set v b hf, h.isl⟩

theorem AxesApart.evt_note (h : AxesApart s t) {f : Fld} (hf : f ∈ axFlds) (e : Ev) : AxesApart s ((t.evt f).islNote e) := by
  refine ⟨(h.toIslApart.evt 0 hf).note e, ?_⟩
  rewrite [State.islNote_isl, State.evt_isl]
  exact h.isl

theorem AxesApart.send (h : AxesApart s t) (n k o : Nat) (l : List Nat) (pm : Pm) : AxesApart s (t.send n k o l pm) := by
  refine ⟨h.toIslApart.send _ _ _ _ _, ?_⟩
  rewrite [State.send_isl]
  exact h.isl

theorem AxesApart.ite {c : Prop} [Decidable c] (h : AxesApart s t) (g : AxesApart s u) : AxesApart s (if c then t else u) := by
  split
  · exact h
  · exact g

theorem AxesApart.foldl {α : Type} {g : State → α → State} (hg : ∀ u x, AxesApart u (g u x)) (l : List α) (s : State) :
    AxesApart s (l.foldl g s) := by
  induction l generalizing s with
  | nil => exact .refl s
  | cons x l ih => exact (hg s x).trans (ih _)

end

/-- A violation that has not latched yet is told. -/
def State.axisViol (n old : Nat) (s : State) (x : Option (Nat × Rat × Rat) × Nat) : State := match x.1 with
  | some (m, v, lim) => if old.testBit x.2 then s else (s.evt R.SAFE_EVT_VIOL).islNote (axisEv n x.2 m v lim)
  | none => s

/-- WARN comes or goes. -/
def State.axisWarn (s : State) (e : Ev) (warn was : Bool) : State :=
  if warn && !was then (s.evt R.SAFE_EVT_WARN).islNote e else if was && !warn then s.send 1 4 0 e.data s.pm else s

/-- The registers of an axis. -/
def State.axisShow (s : State) (n : Nat) (warn : Bool) (active level : Nat) (diff spd pos : Rat) : State :=
  (((((s.setB R.SAFE_AX_STAT_WARN warn n).set R.SAFE_AX_STAT_ACTIVE active n).set R.SAFE_AX_STAT_SLS_LEVEL level n).setU
    R.SAFE_AX_STAT_DIFF_PCT diff n).setQ R.SAFE_AX_SPD_SPD spd n).setQ R.SAFE_AX_POS_POS pos n

theorem State.axisTake_eq (s : State) (n : Nat) (c : AxisCfg) (r : AxisEval) :
    ∃ (old viol active level : Nat) (e : Ev) (warn was : Bool) (diff spd pos : Rat), s.axisTake n c r =
      (((r.viol.zipIdx.foldl (State.axisViol n old) (s.putIslAx n r.ax)).set R.SAFE_AX_STAT_VIOL viol n).axisWarn e warn was).axisShow n warn
        active level diff spd pos := ⟨_, _, _, _, _, _, _, _, _, _, rfl⟩

section
variable (s : State) (n : Nat)

theorem State.axisViol_apart (old : Nat) (x : Option (Nat × Rat × Rat) × Nat) : AxesApart s (s.axisViol n old x) := by
  unfold State.axisViol
  split
  · exact .ite (.refl s) ((AxesApart.refl s).evt_note (by simp [axFlds]) _)
  · exact .refl s

theorem State.axisWarn_apart (e : Ev) (warn was : Bool) : AxesApart s (s.axisWarn e warn was) :=
  .ite ((AxesApart.refl s).evt_note (by simp [axFlds]) _) (.ite ((AxesApart.refl s).send _ _ _ _ _) (.refl s))

theorem State.axisShow_apart (warn : Bool) (active level : Nat) (diff spd pos : Rat) :
    AxesApart s (s.axisShow n warn active level diff spd pos) :=
  ((((((AxesApart.refl s).set (f := R.SAFE_AX_STAT_WARN) _ _ (by simp [axFlds])).set _ _ (by simp [axFlds])).set _ _ (by simp [axFlds])).set
    (f := R.SAFE_AX_STAT_DIFF_PCT) _ _ (by simp [axFlds])).set (f := R.SAFE_AX_SPD_SPD) _ _ (by simp [axFlds])).set (f := R.SAFE_AX_POS_POS) _ _
    (by simp [axFlds])

theorem State.axisTake_apart (c : AxisCfg) (r : AxisEval) : AxesApart s (s.axisTake n c r) := by
  obtain ⟨old, viol, active, level, e, warn, was, diff, spd, pos, h⟩ := s.axisTake_eq n c r
  have hput : AxesApart s (s.putIslAx n r.ax) := ⟨(IslApart.refl _ s).withIsl _, rfl⟩
  rewrite [h]
  exact (((hput.trans (AxesApart.foldl (fun u x => u.axisViol_apart n old x) _ _)).set _ _ (by simp [axFlds])).trans
    (State.axisWarn_apart _ _ _ _)).trans (State.axisShow_apart _ _ _ _ _ _ _ _)

end

/-! ### Deferred tests (R341) -/

/-- An output with the run of deferrals of a channel. -/
def SafeOutSt.deferred (o : SafeOutSt) (chB : Bool) (run : Nat) : SafeOutSt := if chB then { o with deferB := run } else { o with deferA := run }

theorem State.setDefer_islOut (s : State) (n : Nat) (b : Bool) (run : Nat) : (s.setDefer n b run).islOut n = (s.islOut n).deferred b run :=
  State.putIslOut_islOut _ _ _

/-! ### The cycle (R327, R337) -/

/-- The levels of the feedback and readback balls are taken. -/
def State.cycleLevels (s : State) (edm a b : Nat) : State :=
  let s : State := { s with isl := { s.isl with edm := edm % 256, rbA := a % 4096, rbB := b % 4096 } }
  ((s.set R.SAFE_EDM_RELEASED edm).set R.SAFE_RB_RB_A a).set R.SAFE_RB_RB_B b

/-- An output takes the demand that this cycle evaluates. -/
def State.cycleDemand (s : State) (o : Nat × SafeOutCfg) : State :=
  s.putIslOut o.1 { s.islOut o.1 with demand := (s.islDemand o.1 o.2).1, reason := (s.islDemand o.1 o.2).2 }

/-- The axes are evaluated. -/
def State.cycleAxis (z : List (Nat × Int)) (s : State) (a : Nat × AxisCfg) : State :=
  s.axisTake a.1 a.2 (s.axisEval a.2 (s.islAx a.1) ((tfind z a.1).getD 0))

/-- The mailbox as it stands is shown. -/
def State.cycleMailbox (s : State) : State := (s.set R.SAFE_PERMIT_PERMIT s.permits).set R.SAFE_PERMIT_OFF_REQ s.isl.offReq

theorem exec_islandCycle (dt e a b : Nat) (z : List (Nat × Int)) (s : State) (hp : s.isl.present = true) :
    exec (.islandCycle dt z e a b) s = .next (s.man.safety.outs.foldl State.cycleDemand
      ((s.man.safety.axes.foldl (State.cycleAxis z)
        ((s.man.safety.outs.foldl (fun (u : State) o => u.islApply o.1) (s.advance dt)).cycleLevels e a b)).cycleMailbox)) := if_neg (by simp [hp])

section
variable (s : State)

theorem State.cycleDemand_apart (o : Nat × SafeOutCfg) : OutsApart s (s.cycleDemand o) := (OutsApart.refl s).putIslOut _ _

theorem State.cycleDemand_islOut (n : Nat) (c : SafeOutCfg) : (s.cycleDemand (n, c)).islOut n =
    { s.islOut n with demand := (s.islDemand n c).1, reason := (s.islDemand n c).2 } := State.putIslOut_islOut _ _ _

theorem State.cycleDemand_other (o : Nat × SafeOutCfg) (k : Nat) (h : k ≠ o.1) : (s.cycleDemand o).islOut k = s.islOut k :=
  State.putIslOut_islOut_ne _ _ _ h

/-- What a demand depends on: the output as it stands, and what no output decides. -/
theorem State.islDemand_congr {s t : State} (h : OutsApart s t) {n : Nat} (hon : (t.islOut n).on = (s.islOut n).on) (c : SafeOutCfg) :
    t.islDemand n c = s.islDemand n c := by
  have hin (k : Nat) : t.inHolds k = s.inHolds k := by
    unfold State.inHolds State.inClosed State.islIn
    rw [h.man, h.isl]
  have hmap : t.mapClosed c = s.mapClosed c := by
    unfold State.mapClosed
    rw [funext hin]
  have hperm : t.permits = s.permits := by
    unfold State.permits
    rw [h.isl, h.now]
  have hget {f : Fld} (b : Nat) (hf : apartFrom switchFlds f = true) : t.get f b = s.get f b := h.get f b hf
  unfold State.islDemand State.islState
  rewrite [hget _ (by decide), hget _ (by decide), hmap, hperm, hon, h.isl]
  simp only [hget (f := R.SAFE_AX_STAT_VIOL) _ (by decide)]

end

/-- The levels, the axes and the mailbox, from the outputs as they were taken: what they show and what they leave. -/
structure CycleMiddle (e a b : Nat) (s t : State) : Prop where
  edm : t.get R.SAFE_EDM_RELEASED = e % 256
  rbA : t.get R.SAFE_RB_RB_A = a % 4096
  rbB : t.get R.SAFE_RB_RB_B = b % 4096
  permit : t.get R.SAFE_PERMIT_PERMIT = t.permits % 4096
  islEdm : t.isl.edm = e % 256
  outs : t.isl.outs = s.isl.outs
  causes : t.isl.causes = s.isl.causes
  state : t.islState = s.islState
  mode : t.mode = s.mode

theorem State.cycle_middle (e a b : Nat) (z : List (Nat × Int)) (l : List (Nat × AxisCfg)) (s : State) :
    CycleMiddle e a b s (l.foldl (State.cycleAxis z) (s.cycleLevels e a b)).cycleMailbox := by
  have hax : AxesApart (s.cycleLevels e a b) (l.foldl (State.cycleAxis z) (s.cycleLevels e a b)) :=
    AxesApart.foldl (fun u x => State.axisTake_apart _ _ _ _) l _
  generalize hw : l.foldl (State.cycleAxis z) (s.cycleLevels e a b) = w at hax
  have hget {f : Fld} (hf : apartFrom (R.SAFE_PERMIT_PERMIT :: R.SAFE_PERMIT_OFF_REQ :: axFlds) f = true) :
      w.cycleMailbox.get f = (s.cycleLevels e a b).get f := by
    have hf' : apartFrom axFlds f = true := by
      simp only [apartFrom, List.all_cons, Bool.and_eq_true] at hf ⊢
      obtain ⟨hn, -, -, hrest⟩ := hf
      exact ⟨hn, hrest⟩
    exact ((State.get_set_ne _ _ _ _ (apartFrom_ne hf (by simp))).trans (State.get_set_ne _ _ _ _ (apartFrom_ne hf (by simp)))).trans (hax.get f 0 hf')
  have hlevel {f : Fld} (hf : apartFrom [R.SAFE_EDM_RELEASED, R.SAFE_RB_RB_A, R.SAFE_RB_RB_B] f = true) :
      (s.cycleLevels e a b).get f = s.get f :=
    (State.get_set_ne _ _ _ _ (apartFrom_ne hf (by simp))).trans
      ((State.get_set_ne _ _ _ _ (apartFrom_ne hf (by simp))).trans (State.get_set_ne _ _ _ _ (apartFrom_ne hf (by simp))))
  have hisl : w.cycleMailbox.isl = { (s.cycleLevels e a b).isl with axes := w.isl.axes } := hax.isl
  have hperm : w.cycleMailbox.permits = w.permits := rfl
  refine ⟨?_, ?_, ?_, ?_, by rewrite [hisl]; rfl, by rewrite [hisl]; rfl, by rewrite [hisl]; rfl, ?_, ?_⟩
  · rewrite [hget (by decide), State.cycleLevels, State.get_set_ne _ _ _ _ (by decide), State.get_set_ne _ _ _ _ (by decide), State.get_set_same]
    rfl
  · rewrite [hget (by decide), State.cycleLevels, State.get_set_ne _ _ _ _ (by decide), State.get_set_same]
    rfl
  · rewrite [hget (by decide), State.cycleLevels, State.get_set_same]
    rfl
  · rewrite [hperm]
    exact (State.get_set_ne _ _ _ _ (by decide)).trans (State.get_set_same _ _ _ _)
  · exact (hget (by decide)).trans (hlevel (by decide))
  · exact (hget (by decide)).trans (hlevel (by decide))

section
variable (dt n : Nat) (s : State)

section
variable (c : SafeOutCfg) (hp : s.isl.present = true) (hnd : (s.man.safety.outs.map (·.1)).Nodup) (hcfg : tfind s.man.safety.outs n = some c)
include hp hnd hcfg

theorem islandCycle_shows (e a b : Nat) (z : List (Nat × Int)) :
    ∃ t, exec (.islandCycle dt z e a b) s = .next t ∧ (t.islOut n).on = ((s.islOut n).demand && s.islState = 2) ∧
      ((t.islOut n).demand, (t.islOut n).reason) = t.islDemand n c ∧ t.get R.SAFE_EDM_RELEASED = e % 256 ∧ t.get R.SAFE_RB_RB_A = a % 4096 ∧
      t.get R.SAFE_RB_RB_B = b % 4096 ∧ t.isl.edm = e % 256 ∧ t.get R.SAFE_PERMIT_PERMIT = t.permits % 4096 ∧ t.islState = s.islState ∧
      t.mode = s.mode ∧ t.isl.causes = s.isl.causes := by
  obtain ⟨u, hu, huout, hurest, hulast⟩ := foldl_islOut_once (g := fun (u : State) o => u.islApply o.1) (fun u x => State.islApply_apart u x.1)
    (fun u x k h => State.islApply_other u x.1 h) s.man.safety.outs (s.advance dt) hnd hcfg
  have hmid := State.cycle_middle e a b z s.man.safety.axes (s.man.safety.outs.foldl (fun (u : State) o => u.islApply o.1) (s.advance dt))
  have hexec := exec_islandCycle dt e a b z s hp
  generalize s.man.safety.outs.foldl (fun (u : State) o => u.islApply o.1) (s.advance dt) = v at hurest hulast hmid hexec
  generalize (s.man.safety.axes.foldl (State.cycleAxis z) (v.cycleLevels e a b)).cycleMailbox = w at hmid hexec
  obtain ⟨y, hy, hyout, hyrest, hylast⟩ := foldl_islOut_once State.cycleDemand_apart State.cycleDemand_other s.man.safety.outs w hnd hcfg
  generalize s.man.safety.outs.foldl State.cycleDemand w = t at hyrest hylast hexec
  have hvstate : v.islState = s.islState := (hu.trans hurest).get _ _ (by decide)
  have htw : OutsApart w t := hy.trans hyrest
  have hon : (t.islOut n).on = (y.islOut n).on := by
    rw [hylast, State.cycleDemand_islOut]
  have hyv : (y.islOut n) = v.islOut n := by
    rewrite [hyout]
    exact congrArg (fun l => tget l n {}) hmid.outs
  have hustate : u.islState = s.islState := hu.get _ _ (by decide)
  have hperm : t.permits = w.permits := by
    unfold State.permits
    rw [htw.isl, htw.now]
  refine ⟨t, hexec, ?_, ?_, (htw.get _ _ (by decide)).trans hmid.edm, (htw.get _ _ (by decide)).trans hmid.rbA,
    (htw.get _ _ (by decide)).trans hmid.rbB, by rewrite [htw.isl]; exact hmid.islEdm, ?_,
    (htw.get _ _ (by decide)).trans (hmid.state.trans hvstate), ?_, ?_⟩
  · rewrite [hon, hyv, hulast, State.islApply_on, huout, hustate]
    rfl
  · rw [State.islDemand_congr hyrest hon, hylast, State.cycleDemand_islOut]
  · rewrite [hperm]
    exact (htw.get _ _ (by decide)).trans hmid.permit
  · exact ((htw.get _ _ (by decide)).trans hmid.mode).trans ((hu.trans hurest).get _ _ (by decide))
  · rewrite [htw.isl]
    refine hmid.causes.trans ?_
    rewrite [(hu.trans hurest).isl]
    rfl

end

/-! ### Safe inputs (R329) -/

/-- A channel of an input as it has settled. -/
def SafeInSt.settled (i : SafeInSt) (chB level : Bool) : SafeInSt := if chB then { i with b := some level } else { i with a := some level }

/-- An input's own data are put. -/
def State.putIslIn (s : State) (n : Nat) (i : SafeInSt) : State := { s with isl := { s.isl with ins := tput s.isl.ins n i } }

@[simp] theorem State.putIslIn_islIn (s : State) (n : Nat) (i : SafeInSt) : (s.putIslIn n i).islIn n = i := by
  simp [State.putIslIn, State.islIn, tget]

/-- A change of an input is told. -/
def State.inTold (s : State) (was : Bool) (n : Nat) (c : SafeInCfg) : State :=
  if was = s.inClosed n then s else s.islNote { code := 0x1005, source := n, items := [(1, n), (1, c.kind)] }

/-- An output of the input's map waits for restart. -/
def waitsOn (n : Nat) (c : SafeInCfg) (s : State) (o : Nat × SafeOutCfg) : State :=
  if n ∈ o.2.mapIn && (c.kind = 0 || o.2.manual) then s.setBitOf R.SAFE_OUT_WAIT o.1 true else s

section
variable (s : State)

/-- What an input that is shown holds. -/
structure InShown (n : Nat) (s t : State) : Prop where
  a : (t.islIn n).a = (s.islIn n).a
  b : (t.islIn n).b = (s.islIn n).b
  closed : (t.get R.SAFE_IN_CLOSED).testBit n = t.inClosed n
  disc : (t.get R.SAFE_IN_DISC).testBit n = t.inDisc n
  since : (t.islIn n).discAt.isSome = t.inDisc n

/-- The time of an input's disagreement, as showing it leaves it. -/
def discSince (disc : Bool) (now : Nat) (at_ : Option Nat) : Option Nat :=
  if disc then (match at_ with | some t => some t | none => some now) else none

theorem discSince_isSome (disc : Bool) (now : Nat) (at_ : Option Nat) : (discSince disc now at_).isSome = disc := by
  unfold discSince
  cases disc <;> cases at_ <;> rfl

theorem State.inShow_eq (n : Nat) : s.inShow n =
    ((s.putIslIn n { s.islIn n with discAt := discSince (s.inDisc n) s.now (s.islIn n).discAt }).setBitOf R.SAFE_IN_CLOSED n
      ((s.putIslIn n { s.islIn n with discAt := discSince (s.inDisc n) s.now (s.islIn n).discAt }).inClosed n)).setBitOf R.SAFE_IN_DISC n
      (s.inDisc n) := rfl

theorem State.inShow_islIn (n : Nat) : (s.inShow n).islIn n =
    { s.islIn n with discAt := discSince (s.inDisc n) s.now (s.islIn n).discAt } := State.putIslIn_islIn _ _ _

theorem State.inShow_shown (n : Nat) (hn : n < 16) : InShown n s (s.inShow n) := by
  have hdisc : (s.inShow n).inDisc n = s.inDisc n := by
    unfold State.inDisc
    rewrite [State.inShow_islIn]
    rfl
  refine ⟨by rw [State.inShow_islIn], by rw [State.inShow_islIn], ?_, ?_, ?_⟩
  · rewrite [State.inShow_eq]
    generalize s.putIslIn n _ = u
    refine (congrArg (Nat.testBit · n) (State.get_set_ne (u.setBitOf R.SAFE_IN_CLOSED n _) R.SAFE_IN_DISC _ 0 (by decide))).trans ?_
    exact State.setBitOf_get_same u R.SAFE_IN_CLOSED n _ hn
  · rewrite [hdisc]
    exact State.setBitOf_get_same _ R.SAFE_IN_DISC n _ hn
  · rewrite [hdisc, State.inShow_islIn]
    exact discSince_isSome _ _ _

/-- The fields that show the inputs. -/
def inFlds : List Fld := [R.SAFE_IN_CLOSED, R.SAFE_IN_DISC]

theorem State.inShow_apart (n : Nat) : IslApart inFlds s (s.inShow n) :=
  (((IslApart.refl _ s).withIsl _).set _ _ (by simp [inFlds])).set _ _ (by simp [inFlds])

end

/-- The bits that a run of waits has set stay. -/
theorem foldl_waitsOn_bit (n : Nat) (c : SafeInCfg) (hk : c.kind = 0) (l : List (Nat × SafeOutCfg)) (s : State) {k : Nat} (h12 : k < 12)
    (h : (s.get R.SAFE_OUT_WAIT).testBit k = true ∨ ∃ o ∈ l, o.1 = k ∧ n ∈ o.2.mapIn) :
    ((l.foldl (waitsOn n c) s).get R.SAFE_OUT_WAIT).testBit k = true := by
  induction l generalizing s with
  | nil =>
    obtain h | ⟨o, ho, -⟩ := h
    · exact h
    · exact absurd ho (by simp)
  | cons x l ih =>
    refine ih _ ?_
    by_cases hx : n ∈ x.2.mapIn
    · have hw : waitsOn n c s x = s.setBitOf R.SAFE_OUT_WAIT x.1 true := if_pos (by simp [hx, hk])
      rewrite [hw]
      by_cases hkx : k = x.1
      · subst hkx
        exact .inl (State.setBitOf_get_same _ _ _ _ h12)
      · obtain h | ⟨o, ho, hok, hmap⟩ := h
        · exact .inl ((State.setBitOf_get_other _ _ _ _ h12 hkx).trans h)
        · rcases List.mem_cons.1 ho with rfl | ho
          · exact absurd hok.symm hkx
          · exact .inr ⟨o, ho, hok, hmap⟩
    · have hw : waitsOn n c s x = s := if_neg (by simp [hx])
      rewrite [hw]
      obtain h | ⟨o, ho, hok, hmap⟩ := h
      · exact .inl h
      · rcases List.mem_cons.1 ho with rfl | ho
        · exact absurd hmap hx
        · exact .inr ⟨o, ho, hok, hmap⟩

theorem foldl_waitsOn_apart (n : Nat) (c : SafeInCfg) (l : List (Nat × SafeOutCfg)) (s : State) :
    IslApart [R.SAFE_OUT_WAIT] s (l.foldl (waitsOn n c) s) ∧ (l.foldl (waitsOn n c) s).isl = s.isl := by
  refine ⟨IslApart.foldl (fun u x => .ite ((IslApart.refl _ u).set _ _ (by simp)) (.refl _ u)) l s, foldl_keeps (·.isl) l (fun u x => ?_) s⟩
  unfold waitsOn
  split
  · rfl
  · rfl

section
variable (n : Nat) (b l : Bool) (c : SafeInCfg) (hp : s.isl.present = true) (hcfg : tfind s.man.safety.ins n = some c)
include hp hcfg

/-- The change is shown and told; where a STOP input or a GUARD input opened, outputs of its map may wait. -/
theorem exec_safeInputChange : ∃ (w v : State), w = State.inShow ((s.advance dt).putIslIn n ((s.islIn n).settled b l)) n ∧
    v = w.inTold (s.inClosed n) n c ∧ exec (.safeInputChange dt n b l) s =
      .next (if s.inClosed n && !w.inClosed n && c.kind < 2 then v.man.safety.outs.foldl (waitsOn n c) v else v) := by
  refine ⟨_, _, rfl, rfl, ?_⟩
  show execSafeInputChange dt n b l s = _
  unfold execSafeInputChange
  dsimp only
  rewrite [if_neg (by simp [hp])]
  rewrite [show tfind (s.advance dt).man.safety.ins n = some c from hcfg]
  exact (apply_ite Host.Outcome.next _ _ _).symm

theorem safeInputChange_shows (hn : n < 16) :
    ∃ t, exec (.safeInputChange dt n b l) s = .next t ∧ (if b then (t.islIn n).b else (t.islIn n).a) = some l ∧
      (if b then (t.islIn n).a = (s.islIn n).a else (t.islIn n).b = (s.islIn n).b) ∧ (t.get R.SAFE_IN_CLOSED).testBit n = t.inClosed n ∧
      (t.get R.SAFE_IN_DISC).testBit n = t.inDisc n ∧ ((t.islIn n).discAt.isSome = t.inDisc n) ∧
      (s.inClosed n = true → t.inClosed n = false → c.kind = 0 →
        (s.man.safety.outs.all fun o => !(n ∈ o.2.mapIn && decide (o.1 < 12)) || (t.get R.SAFE_OUT_WAIT).testBit o.1) = true) ∧
      ((s.inClosed n = false ∨ 2 ≤ c.kind) → t.get R.SAFE_OUT_WAIT = s.get R.SAFE_OUT_WAIT) ∧ t.isl.outs = s.isl.outs := by
  obtain ⟨w, v, hw, hv, hexec⟩ := exec_safeInputChange dt s n b l c hp hcfg
  have hshown : InShown n ((s.advance dt).putIslIn n ((s.islIn n).settled b l)) w := hw ▸ State.inShow_shown _ n hn
  have hwa : IslApart inFlds ((s.advance dt).putIslIn n ((s.islIn n).settled b l)) w := hw ▸ State.inShow_apart _ n
  have houts : w.isl.outs = s.isl.outs := by rewrite [hw]; rfl
  have htold : IslApart inFlds w v ∧ v.isl = w.isl := by
    rewrite [hv]
    unfold State.inTold
    split
    · exact ⟨.refl _ _, rfl⟩
    · exact ⟨(IslApart.refl _ _).note _, State.islNote_isl _ _⟩
  obtain ⟨hva, hvi⟩ := htold
  have hman : v.man = s.man := hva.man.trans hwa.man
  -- the waits change one register, which is not one that shows the inputs
  obtain ⟨t, ht, hta, hti, hset, hkeep⟩ : ∃ t, exec (.safeInputChange dt n b l) s = .next t ∧ IslApart [R.SAFE_OUT_WAIT] v t ∧ t.isl = v.isl ∧
      (s.inClosed n = true → w.inClosed n = false → c.kind < 2 → t = s.man.safety.outs.foldl (waitsOn n c) v) ∧
      ((s.inClosed n = false ∨ 2 ≤ c.kind) → t = v) := by
    refine ⟨_, hexec, ?_, ?_, ?_, ?_⟩
    · exact .ite (foldl_waitsOn_apart n c _ v).1 (.refl _ v)
    · split
      · exact (foldl_waitsOn_apart n c _ v).2
      · rfl
    · intro h₁ h₂ h₃
      rewrite [hman]
      exact if_pos (by simp [h₁, h₂, h₃])
    · intro h
      refine if_neg ?_
      rcases h with h | h
      · simp [h]
      · simp [Nat.not_lt.2 h]
  have hisl : t.isl = w.isl := hti.trans hvi
  have hclosed : t.inClosed n = w.inClosed n := by
    unfold State.inClosed State.islIn
    rw [hta.man, hva.man, hisl]
  have hdisc : t.inDisc n = w.inDisc n := by
    unfold State.inDisc State.islIn
    rw [hta.man, hva.man, hisl]
  have hin : t.islIn n = w.islIn n := congrArg (fun i : IslSt => tget i.ins n {}) hisl
  have hget {f : Fld} (h₁ : apartFrom [R.SAFE_OUT_WAIT] f = true) (hn : v.get f = w.get f) : t.get f = w.get f := (hta.get f 0 h₁).trans hn
  have hvw {f : Fld} (hf : noteFld f = false) : v.get f = w.get f := by
    rewrite [hv]
    unfold State.inTold
    split
    · rfl
    · exact State.islNote_get _ _ _ hf
  refine ⟨t, ht, ?_, ?_, ?_, ?_, ?_, ?_, ?_, by rw [hisl, houts]⟩
  · rewrite [hin, hshown.a, hshown.b, State.putIslIn_islIn]
    cases b <;> rfl
  · rewrite [hin, hshown.a, hshown.b, State.putIslIn_islIn]
    cases b <;> rfl
  · rewrite [hget (by decide) (hvw (by decide)), hclosed]
    exact hshown.closed
  · rewrite [hget (by decide) (hvw (by decide)), hdisc]
    exact hshown.disc
  · rewrite [hin, hdisc]
    exact hshown.since
  · intro hwas his hk
    rewrite [List.all_eq_true]
    intro o ho
    rewrite [hset hwas (hclosed ▸ his) (by rewrite [hk]; decide)]
    by_cases hmap : n ∈ o.2.mapIn ∧ o.1 < 12
    · rw [foldl_waitsOn_bit n c hk _ v hmap.2 (.inr ⟨o, ho, rfl, hmap.1⟩), Bool.or_true]
    · rewrite [show (decide (n ∈ o.2.mapIn) && decide (o.1 < 12)) = false by simpa using hmap]
      rfl
  · intro h
    rewrite [hkeep h]
    exact (hva.get _ _ (by decide)).trans (hwa.get _ _ (by decide))

end

/-! ### Test pulses (R339, R341) -/

/-- The record of a deferred test. -/
def deferEv (n : Nat) (b : Bool) (run : Nat) : Ev :=
  { code := 0x1007, source := n, items := [(1, n), (1, if b then 1 else 0), (2, min 65535 run)], key := 2 }

section
variable (b f : Bool) (c : SafeOutCfg) (hp : s.isl.present = true) (hst : s.islState = 2) (hcfg : tfind s.man.safety.outs n = some c)
  (hA : (s.islOut n).chA = true) (hB : (s.islOut n).chB = true)
include hp hst hcfg hA hB

omit hcfg in
theorem testPulse_ready : ¬ (!((s.advance dt).isl.present && decide ((s.advance dt).islState = 2) && ((s.advance dt).islOut n).chA &&
    ((s.advance dt).islOut n).chB)) = true := by
  show ¬ (!(s.isl.present && decide (s.islState = 2) && (s.islOut n).chA && (s.islOut n).chB)) = true
  simp [hp, hst, hA, hB]

theorem testPulseStart_pulses (hf : f = false) (hpend : (s.advance dt).islPending n c = false) :
    ∃ t, exec (.testPulseStart dt n b f) s = .next t ∧ (t.islOut n).test = some (b, s.now + dt) ∧ (t.islOut n).chA = b ∧ (t.islOut n).chB = !b ∧
      (t.islOut n).on = (s.islOut n).on ∧ (if b then (t.islOut n).dueB else (t.islOut n).dueA) = true ∧
      Framed [] { s.advance dt with isl := t.isl } t := by
  have hexec : exec (.testPulseStart dt n b f) s = .next ((s.advance dt).putIslOut n
      (if b then { s.islOut n with test := some (b, s.now + dt), chB := false, dueB := true }
        else { s.islOut n with test := some (b, s.now + dt), chA := false, dueA := true })) := by
    show execTestPulseStart dt n b f s = _
    unfold execTestPulseStart
    dsimp only
    rewrite [show tfind (s.advance dt).man.safety.outs n = some c from hcfg]
    dsimp only
    rewrite [if_neg (testPulse_ready dt n s hp hst hA hB), if_neg (by simp [hf, hpend])]
    rfl
  refine ⟨_, hexec, ?_⟩
  rewrite [State.putIslOut_islOut]
  cases b
  · exact ⟨rfl, rfl, hB, rfl, rfl, .refl _ _⟩
  · exact ⟨rfl, hA, rfl, rfl, rfl, .refl _ _⟩

/-- A test that cannot run is counted as deferred. -/
theorem testPulseStart_defers (h : f = true ∨ (s.advance dt).islPending n c = true) :
    ∃ t, exec (.testPulseStart dt n b f) s = .next t ∧ (t.islOut n).test = (s.islOut n).test ∧ (t.islOut n).chA = true ∧ (t.islOut n).chB = true ∧
      (if b then (t.islOut n).deferB = (s.islOut n).deferB + 1 else (t.islOut n).deferA = (s.islOut n).deferA + 1) ∧ t.get R.SAFE_EVT_TEST_DEFER = 1 ∧
      Framed (regKeys 0 [R.SAFE_TEST_DEFER_MAX, R.SAFE_EVT_TEST_DEFER]) { s.advance dt with isl := t.isl } t := by
  have hexec : exec (.testPulseStart dt n b f) s = .next ((((s.advance dt).setDefer n b
      ((if b then (s.islOut n).deferB else (s.islOut n).deferA) + 1)).evt R.SAFE_EVT_TEST_DEFER).record
      (deferEv n b ((if b then (s.islOut n).deferB else (s.islOut n).deferA) + 1))) := by
    show execTestPulseStart dt n b f s = _
    unfold execTestPulseStart
    dsimp only
    rewrite [show tfind (s.advance dt).man.safety.outs n = some c from hcfg]
    dsimp only
    rewrite [if_neg (testPulse_ready dt n s hp hst hA hB), if_pos (by simpa using h)]
    rfl
  generalize hr : (if b then (s.islOut n).deferB else (s.islOut n).deferA) + 1 = run at hexec
  generalize deferEv n b run = e at hexec
  have hout := (s.advance dt).setDefer_islOut n b run
  have hisl : ((((s.advance dt).setDefer n b run).evt R.SAFE_EVT_TEST_DEFER).record e).isl = ((s.advance dt).setDefer n b run).isl := by simp
  have hio : ((((s.advance dt).setDefer n b run).evt R.SAFE_EVT_TEST_DEFER).record e).islOut n = (s.islOut n).deferred b run :=
    (congrArg (fun i : IslSt => tget i.outs n {}) hisl).trans hout
  refine ⟨_, hexec, ?_⟩
  rewrite [hio]
  refine ⟨?_, ?_, ?_, ?_, ?_, ?_⟩
  · cases b <;> rfl
  · cases b <;> exact hA
  · cases b <;> exact hB
  · cases b <;> exact hr.symm
  · rewrite [State.record_get _ _ _ (by decide), State.evt_get_same _ _ _ (by decide)]
    rfl
  · rewrite [hisl]
    exact State.record_framed _ _ (State.evt_framed _ _ _ (.inl (by simp [regKeys]))
      (set_framed _ _ _ _ (.inl (by simp [regKeys])) (.refl _ _)))

end

section
variable (b : Bool)

theorem exec_testPulseEnd (x : Bool) (t₀ : Nat) (ht : (s.islOut n).test = some (b, t₀)) : exec (.testPulseEnd dt n x) s =
    if b ≠ x || s.now + dt < t₀ + 300000 then .next (s.advance dt)
    else .next ((s.advance dt).putIslOut n { s.islOut n with test := none, chA := (s.islOut n).on, chB := (s.islOut n).on }) := by
  show execTestPulseEnd dt n x s = _
  unfold execTestPulseEnd
  dsimp only
  rewrite [show ((s.advance dt).islOut n).test = some (b, t₀) from ht]
  rfl

theorem testPulseEnd_ends (t₀ : Nat) (ht : (s.islOut n).test = some (b, t₀)) (hat : t₀ + 300000 ≤ s.now + dt) :
    ∃ t, exec (.testPulseEnd dt n b) s = .next t ∧
      t.islOut n = { s.islOut n with test := none, chA := (s.islOut n).on, chB := (s.islOut n).on } ∧ Framed [] { s.advance dt with isl := t.isl } t :=
  ⟨_, (exec_testPulseEnd dt n s b b t₀ ht).trans (if_neg (by simp [Nat.not_lt.2 hat])), State.putIslOut_islOut _ _ _, .refl _ _⟩

end

/-! ### The off-check (R340, R342) -/

/-- The record of a slow channel. -/
def slowEv (n : Nat) (b : Bool) (us : Nat) : Ev :=
  { code := 0x1008, source := n, items := [(1, n), (1, if b then 1 else 0), measItem 0x1008 ((us : Rat) / 1000000)], key := 2 }

/-- The check of a channel: it is no longer due, and the readback is kept and shown. -/
def State.offChecked (s : State) (n : Nat) (b pass : Bool) : State :=
  let s := s.putIslOut n (if b then { s.islOut n with dueB := false } else { s.islOut n with dueA := false })
  let isl := if b then { s.isl with rbB := putBit s.isl.rbB n (!pass) } else { s.isl with rbA := putBit s.isl.rbA n (!pass) }
  (({ s with isl := isl } : State).set R.SAFE_RB_RB_A isl.rbA).set R.SAFE_RB_RB_B isl.rbB

/-- The result of the test of a channel. -/
def State.offTested (s : State) (n : Nat) (b pass : Bool) (us : Nat) (e : Ev) : State :=
  let s := ((s.set R.SAFE_TEST_LAST_OUT n).setB R.SAFE_TEST_LAST_CH b).setB R.SAFE_TEST_LAST_OK pass
  let s := if pass then s.inc R.SAFE_TEST_TESTS else s
  if 150 < us then s.record e else s

section
variable (b : Bool) (us t₀ : Nat)

theorem State.offChecked_isl (pass : Bool) : (s.offChecked n b pass).isl = { s.isl with
    outs := tput s.isl.outs n (if b then { s.islOut n with dueB := false } else { s.islOut n with dueA := false }),
    rbA := if b then s.isl.rbA else putBit s.isl.rbA n (!pass), rbB := if b then putBit s.isl.rbB n (!pass) else s.isl.rbB } := by
  cases b <;> rfl

theorem State.offChecked_get (pass : Bool) {f : Fld} (hf : apartFrom [R.SAFE_RB_RB_A, R.SAFE_RB_RB_B] f = true) :
    (s.offChecked n b pass).get f = s.get f :=
  (State.get_set_ne _ _ _ _ (apartFrom_ne hf (by simp))).trans (State.get_set_ne _ _ _ _ (apartFrom_ne hf (by simp)))

theorem State.offChecked_islOut (pass : Bool) : (s.offChecked n b pass).islOut n =
    if b then { s.islOut n with dueB := false } else { s.islOut n with dueA := false } := by
  unfold State.islOut
  rewrite [State.offChecked_isl]
  simp [tget, State.islOut]

theorem State.offTested_isl (pass : Bool) (e : Ev) : (s.offTested n b pass us e).isl = s.isl := by
  unfold State.offTested
  dsimp only
  split_ifs <;> simp [State.inc_eq, State.setB_eq]

theorem State.offTested_man (pass : Bool) (e : Ev) : (s.offTested n b pass us e).man = s.man := by
  unfold State.offTested
  dsimp only
  split_ifs <;> simp [State.inc_eq, State.setB_eq]

theorem State.offTested_get (pass : Bool) (e : Ev) {f : Fld}
    (hf : apartFrom [R.SAFE_TEST_LAST_OUT, R.SAFE_TEST_LAST_CH, R.SAFE_TEST_LAST_OK, R.SAFE_TEST_TESTS] f = true) :
    (s.offTested n b pass us e).get f = s.get f := by
  have hne {g : Fld} (hg : g ∈ [R.SAFE_TEST_LAST_OUT, R.SAFE_TEST_LAST_CH, R.SAFE_TEST_LAST_OK, R.SAFE_TEST_TESTS]) : fkey f ≠ fkey g :=
    apartFrom_ne hf hg
  have hn := noteFld_of_apartFrom hf
  unfold State.offTested
  dsimp only
  split_ifs <;> simp [State.inc_eq, State.setB_eq, hn, hne]

theorem State.offTested_shows (pass : Bool) (e : Ev) : (s.offTested n b pass us e).get R.SAFE_TEST_LAST_OUT = n % 16 ∧
    (s.offTested n b pass us e).get R.SAFE_TEST_LAST_CH = (if b then 1 else 0) ∧
    (s.offTested n b pass us e).get R.SAFE_TEST_LAST_OK = (if pass then 1 else 0) ∧
    (s.offTested n b pass us e).get R.SAFE_TEST_TESTS = if pass then (s.get R.SAFE_TEST_TESTS + 1) % 65536 else s.get R.SAFE_TEST_TESTS := by
  have hcore {f : Fld} (hf : noteFld f = false) : (s.offTested n b pass us e).get f =
      (if pass then (((s.set R.SAFE_TEST_LAST_OUT n).setB R.SAFE_TEST_LAST_CH b).setB R.SAFE_TEST_LAST_OK pass).inc R.SAFE_TEST_TESTS
        else ((s.set R.SAFE_TEST_LAST_OUT n).setB R.SAFE_TEST_LAST_CH b).setB R.SAFE_TEST_LAST_OK pass).get f := by
    unfold State.offTested
    dsimp only
    split
    · exact State.record_get _ _ _ hf
    · rfl
  rewrite [hcore (by decide), hcore (by decide), hcore (by decide), hcore (by decide)]
  cases pass
  · simp (disch := decide) only [Bool.false_eq_true, if_false, State.get_set_ne, State.get_set_same, State.setB_eq]
    exact ⟨rfl, by cases b <;> rfl, rfl, trivial⟩
  · simp (disch := decide) only [if_true, State.inc_eq, State.get_set_ne, State.get_set_same, State.setB_eq]
    exact ⟨rfl, by cases b <;> rfl, rfl, rfl⟩

theorem State.setDefer_isl (run : Nat) : (s.setDefer n b run).isl = { s.isl with outs := tput s.isl.outs n ((s.islOut n).deferred b run) } := rfl

/-- The output's test in progress is of this channel. -/
def SafeOutSt.tests (o : SafeOutSt) (b : Bool) : Bool := match o.test with | some (x, _) => x = b | none => false

theorem exec_testOffCheck : exec (.testOffCheck dt n b us) s =
    if !(if b then (s.islOut n).dueB else (s.islOut n).dueA) then .next (s.advance dt)
    else if !(s.islOut n).tests b then
      .next (if 250 ≤ us then (if decide (us ≤ 200) then ((s.advance dt).offChecked n b (us ≤ 200)).setDefer n b 0
          else (s.advance dt).offChecked n b (us ≤ 200)).islFault 0xA n
        else if decide (us ≤ 200) then ((s.advance dt).offChecked n b (us ≤ 200)).setDefer n b 0 else (s.advance dt).offChecked n b (us ≤ 200))
    else .next (if decide (us ≤ 200)
      then (if decide (us ≤ 200) then ((s.advance dt).offChecked n b (us ≤ 200)).setDefer n b 0
        else (s.advance dt).offChecked n b (us ≤ 200)).offTested n b (us ≤ 200) us (slowEv n b us)
      else ((if decide (us ≤ 200) then ((s.advance dt).offChecked n b (us ≤ 200)).setDefer n b 0
        else (s.advance dt).offChecked n b (us ≤ 200)).offTested n b (us ≤ 200) us (slowEv n b us)).islFault 0xB n) := rfl

section
variable (ht : (s.islOut n).test = some (b, t₀)) (hdue : (if b then (s.islOut n).dueB else (s.islOut n).dueA) = true)
include ht hdue

theorem exec_testOffCheck_passes (hus : us ≤ 200) : exec (.testOffCheck dt n b us) s =
    .next ((((s.advance dt).offChecked n b true).setDefer n b 0).offTested n b true us (slowEv n b us)) := by
  rw [exec_testOffCheck, if_neg (by simp [hdue]), if_neg (by simp [SafeOutSt.tests, ht]), decide_eq_true hus, if_pos rfl, if_pos rfl]

theorem exec_testOffCheck_fails (hus : 200 < us) : exec (.testOffCheck dt n b us) s =
    .next ((((s.advance dt).offChecked n b false).offTested n b false us (slowEv n b us)).islFault 0xB n) := by
  rw [exec_testOffCheck, if_neg (by simp [hdue]), if_neg (by simp [SafeOutSt.tests, ht]), decide_eq_false (Nat.not_le.2 hus), if_neg (by decide),
    if_neg (by decide)]

theorem testOffCheck_passes (hus : us ≤ 200) :
    ∃ t, exec (.testOffCheck dt n b us) s = .next t ∧ t.get R.SAFE_TEST_LAST_OUT = n % 16 ∧ t.get R.SAFE_TEST_LAST_CH = (if b then 1 else 0) ∧
      t.get R.SAFE_TEST_LAST_OK = 1 ∧ t.get R.SAFE_TEST_TESTS = (s.get R.SAFE_TEST_TESTS + 1) % 65536 ∧
      (if b then (t.islOut n).deferB else (t.islOut n).deferA) = 0 ∧ (if b then t.isl.rbB else t.isl.rbA).testBit n = false ∧
      t.islState = s.islState ∧ (if b then (t.islOut n).dueB else (t.islOut n).dueA) = false := by
  obtain ⟨hout, hch, hok, htests⟩ := (((s.advance dt).offChecked n b true).setDefer n b 0).offTested_shows n b us true (slowEv n b us)
  have hisl := (((s.advance dt).offChecked n b true).setDefer n b 0).offTested_isl n b us true (slowEv n b us)
  have hget {f : Fld} (hd : fkey f ≠ fkey R.SAFE_TEST_DEFER_MAX) (hr : apartFrom [R.SAFE_RB_RB_A, R.SAFE_RB_RB_B] f = true) :
      (((s.advance dt).offChecked n b true).setDefer n b 0).get f = s.get f :=
    (State.get_set_ne _ _ _ _ hd).trans ((s.advance dt).offChecked_get n b true hr)
  have hstate := (((s.advance dt).offChecked n b true).setDefer n b 0).offTested_get n b us true (slowEv n b us) (f := R.SAFE_STAT_STATE) (by decide)
  rewrite [hget (by decide) (by decide)] at hstate
  rewrite [hget (by decide) (by decide)] at htests
  have hio : ((((s.advance dt).offChecked n b true).setDefer n b 0).offTested n b true us (slowEv n b us)).islOut n =
      ((((s.advance dt).offChecked n b true)).islOut n).deferred b 0 :=
    (congrArg (fun i : IslSt => tget i.outs n {}) hisl).trans (State.setDefer_islOut _ _ _ _)
  refine ⟨_, exec_testOffCheck_passes dt n s b us t₀ ht hdue hus, hout, hch, hok, htests, ?_, ?_, hstate, ?_⟩
  · rewrite [hio]
    cases b <;> rfl
  · rewrite [hisl, State.setDefer_isl, State.offChecked_isl]
    cases b
    · exact putBit_testBit_same (s.advance dt).isl.rbA n false
    · exact putBit_testBit_same (s.advance dt).isl.rbB n false
  · rewrite [hio, State.offChecked_islOut]
    cases b <;> rfl

theorem testOffCheck_fails (hp : s.isl.present = true) (hus : 200 < us) :
    ∃ t, exec (.testOffCheck dt n b us) s = .next t ∧ LockedOut 0xB n s t ∧ t.get R.SAFE_TEST_LAST_OK = 0 ∧
      t.get R.SAFE_TEST_TESTS = s.get R.SAFE_TEST_TESTS := by
  obtain ⟨-, -, hok, htests⟩ := ((s.advance dt).offChecked n b false).offTested_shows n b us false (slowEv n b us)
  have hp' : (((s.advance dt).offChecked n b false).offTested n b false us (slowEv n b us)).isl.present = true := by
    rewrite [State.offTested_isl, State.offChecked_isl]
    exact hp
  have hget {f : Fld} (ht : apartFrom [R.SAFE_TEST_LAST_OUT, R.SAFE_TEST_LAST_CH, R.SAFE_TEST_LAST_OK, R.SAFE_TEST_TESTS] f = true)
      (hr : apartFrom [R.SAFE_RB_RB_A, R.SAFE_RB_RB_B] f = true) :
      (((s.advance dt).offChecked n b false).offTested n b false us (slowEv n b us)).get f = s.get f :=
    (State.offTested_get _ _ _ _ _ _ ht).trans ((s.advance dt).offChecked_get n b false hr)
  have hap := State.islFault_apart _ 0xB n hp'
  refine ⟨_, exec_testOffCheck_fails dt n s b us t₀ ht hdue hus, (State.islFault_lockedOut _ _ _ hp' (by decide)).of_start
    (hget (by decide) (by decide)) (hget (by decide) (by decide)) (State.offTested_man _ _ _ _ _ _), (hap.get _ _ (by decide)).trans hok, ?_⟩
  rewrite [hap.get _ _ (by decide), htests]
  exact (s.advance dt).offChecked_get n b false (by decide)

end

theorem testOffCheck_quiet (h : (if b then (s.islOut n).dueB else (s.islOut n).dueA) = false) :
    exec (.testOffCheck dt n b us) s = .next (s.advance dt) := by
  rewrite [exec_testOffCheck]
  exact if_pos (by simp [h])

end

end

/-- Settles O46: the island cycle by its stages, inputs, test pulses and the off-check each by the lemma of its case above. The clauses rest on
log 165, 166 and 169. -/
theorem islandCycles : Obligations.IslandCycles := by
  unfold Obligations.IslandCycles
  exact ⟨fun dt n e a b z c s hp hnd hcfg => islandCycle_shows dt n s c hp hnd hcfg e a b z,
    fun dt n b l c s hp hcfg hn => safeInputChange_shows dt s n b l c hp hcfg hn,
    fun dt n b f c s hp hst hcfg hA hB hf h => testPulseStart_pulses dt n s b f c hp hst hcfg hA hB hf h,
    fun dt n b f c s hp hst hcfg hA hB h => testPulseStart_defers dt n s b f c hp hst hcfg hA hB h,
    fun dt n t₀ b s ht hat => testPulseEnd_ends dt n s b t₀ ht hat,
    fun dt n t₀ b x s ht h => (exec_testPulseEnd dt n s b x t₀ ht).trans (if_pos (by simpa using h)),
    fun dt n us t₀ b s ht hdue hus => testOffCheck_passes dt n s b us t₀ ht hdue hus,
    fun dt n us t₀ b s hp ht hdue hus => testOffCheck_fails dt n s b us t₀ ht hdue hp hus,
    fun dt n us b s h => testOffCheck_quiet dt n s b us h⟩

end Sys2Proof.Machine
end

section
set_option Elab.async false
/-!
PROOF of the statement of 14_safety_functions.md and 16_forecaster_power_thermal.md about wakes from DORMANT (WakesFromDormant): what a source
that wakes leaves in PWR_WAKE_SRC, the wake itself, and then each source.
-/

namespace Sys2Proof.Machine

open Sys2Proof

/-! ### A wake (R381) -/

/-- PWR_WAKE_SRC with no source. -/
def State.wakeCleared (s : State) : State :=
  let s := ((s.set R.PWR_WAKE_SRC_CAN 0).set R.PWR_WAKE_SRC_WAKE_IN 0).set R.PWR_WAKE_SRC_RTC 0
  let s := ((s.set R.PWR_WAKE_SRC_SAFE_IN 0).set R.PWR_WAKE_SRC_HOST 0).set R.PWR_WAKE_SRC_POR 0
  s.set R.PWR_WAKE_SRC_THERMAL_OFF 0

/-- PWR_WAKE_SRC with one source latched. -/
def State.wakeLatch (s : State) (f : Fld) (v : Nat) : State := s.wakeCleared.set f v

/-- A wake that raises the rails at once. -/
def MusterSt.woken (m : MusterSt) (now : Nat) (host : Bool) : MusterSt :=
  { m with woke := true, wakeAt := some now, wakeN := m.wakeN || !host, wake := true, enIo := true, ioAt := now }

/-- A wake that waits for the end of the entry into DORMANT. -/
def MusterSt.wakeWaits (m : MusterSt) (now : Nat) (host : Bool) : MusterSt :=
  { m with woke := true, wakeAt := some now, wakeN := m.wakeN || !host, wakeLatched := true }

section
variable (s : State) (f : Fld) (v : Nat)

theorem State.wakeLatch_same (hv : v < 2 ^ f.width) : (s.wakeLatch f v).get f = v :=
  (State.get_set_same _ _ _ _).trans (Nat.mod_eq_of_lt hv)

/-- Two sources have keys of their own. -/
theorem wakeFlds_fkey_ne : ∀ f ∈ wakeFlds, ∀ g ∈ wakeFlds, g ≠ f → fkey g ≠ fkey f := by decide

theorem State.wakeLatch_other (hf : f ∈ wakeFlds) : ∀ g ∈ wakeFlds, g ≠ f → (s.wakeLatch f v).get g = 0 := by
  have hclear : ∀ g ∈ wakeFlds, s.wakeCleared.get g = 0 := by
    unfold State.wakeCleared
    simp (disch := decide) only [wakeFlds, List.forall_mem_cons, State.get_set_ne, State.get_set_same, Nat.zero_mod, List.not_mem_nil, false_implies,
      implies_true, and_true]
  exact fun g hg hne => (State.get_set_ne _ _ _ _ (wakeFlds_fkey_ne f hf g hg hne)).trans (hclear g hg)

theorem State.wakeLatch_framed (hf : f ∈ wakeFlds) : Framed (regKeys 0 wakeFlds) s (s.wakeLatch f v) := by
  have hset {u : State} (h : Framed (regKeys 0 wakeFlds) s u) {g : Fld} (hg : g ∈ wakeFlds) (w : Nat) : Framed (regKeys 0 wakeFlds) s (u.set g w) :=
    set_framed _ _ _ _ (.inl (List.mem_map_of_mem hg)) h
  exact hset (hset (hset (hset (hset (hset (hset (hset (.refl _ s) (by simp [wakeFlds]) 0) (by simp [wakeFlds]) 0) (by simp [wakeFlds]) 0)
    (by simp [wakeFlds]) 0) (by simp [wakeFlds]) 0) (by simp [wakeFlds]) 0) (by simp [wakeFlds]) 0) hf v

end

section
variable (dt : Nat) (s : State)

section
variable (f : Fld) (v : Nat) (host : Bool) (hd : s.dormant = true) (hw : s.mus.wake = false) (hl : s.mus.wakeLatched = false)
include hd hw hl

theorem State.wakeBy_wakes (ha : s.mus.dormantAt = none) :
    s.wakeBy f v host = { s.wakeLatch f v with mus := s.mus.woken s.now host } := by
  unfold State.wakeBy
  rewrite [if_neg (by simp [hd]), if_neg (by simp [hw, hl])]
  exact if_neg (by simp [ha])

theorem State.wakeBy_waits (ha : s.mus.dormantAt ≠ none) :
    s.wakeBy f v host = { s.wakeLatch f v with mus := s.mus.wakeWaits s.now host } := by
  unfold State.wakeBy
  rewrite [if_neg (by simp [hd]), if_neg (by simp [hw, hl])]
  exact if_pos (by simpa [Option.isSome_iff_ne_none] using ha)

end

/-! ### The sources (R380) -/

section
variable (hl3 : s.pwr.l3 = 0)
include hl3

/-- Outside LULL3 a wake event leaves the state. -/
theorem State.lullLeave_advance (c : Nat) : (s.advance dt).lullLeave c = s.advance dt :=
  State.lullLeave_awake _ c (by simp [hl3])

/-- An armed source wakes with the value it latches; an unarmed one does nothing. -/
theorem exec_wakeCmds (k v : Nat) (f : Fld) (low : Bool) (c : Instr) (hc : (f, v, low, c) ∈ wakeCmds dt k s) (hv : v < 2 ^ f.width) :
    f ∈ wakeFlds ∧ exec c s = if v = 0 then .next (s.advance dt) else .next ((s.advance dt).wakeBy f v !low) := by
  simp only [wakeCmds, List.mem_cons, Prod.mk.injEq, List.not_mem_nil, or_false] at hc
  rcases hc with ⟨rfl, rfl, rfl, rfl⟩ | ⟨rfl, rfl, rfl, rfl⟩ | ⟨rfl, rfl, rfl, rfl⟩ | ⟨rfl, rfl, rfl, rfl⟩
  · refine ⟨by decide, ?_⟩
    show (if k < 8 && (s.get R.PWR_WAKE_EN_CAN).testBit k then _ else _) = _
    split
    next h => exact (if_neg (Nat.two_pow_pos k).ne').symm
    next h => rfl
  · refine ⟨by decide, ?_⟩
    have hbit : s.get R.PWR_WAKE_EN_WAKE_IN < 2 := hv
    show execWakeInWake dt _ s = _
    unfold execWakeInWake
    dsimp only
    rewrite [if_neg (show ¬ (s.flag R.PWR_WAKE_EN_WAKE_POL != (s.advance dt).flag R.PWR_WAKE_EN_WAKE_POL) = true from ne_of_eq_of_ne (bne_self_eq_false _) (by decide)),
      State.lullLeave_advance dt s hl3]
    show (if decide (s.get R.PWR_WAKE_EN_WAKE_IN = 1) = true then _ else _) = _
    interval_cases s.get R.PWR_WAKE_EN_WAKE_IN
    · rfl
    · rfl
  · refine ⟨by decide, ?_⟩
    show execSafeInputWake dt k s = _
    unfold execSafeInputWake
    dsimp only
    by_cases hk : k < 16
    · rewrite [if_pos hk] at hv ⊢
      have hbit : s.get R.PWR_WAKE_EN_SAFE_IN < 2 := hv
      rewrite [if_neg (Nat.not_le.2 hk), State.lullLeave_advance dt s hl3]
      show (if decide (s.get R.PWR_WAKE_EN_SAFE_IN = 1) = true then _ else _) = _
      interval_cases s.get R.PWR_WAKE_EN_SAFE_IN
      · rfl
      · rfl
    · rewrite [if_neg hk, if_pos (Nat.not_lt.1 hk)]
      rfl
  · refine ⟨by decide, ?_⟩
    have hbit : s.get R.PWR_WAKE_EN_HOST < 2 := hv
    show (if decide (s.get R.PWR_WAKE_EN_HOST = 1) = true then _ else _) = _
    interval_cases s.get R.PWR_WAKE_EN_HOST
    · rfl
    · rfl

section
variable (k v : Nat) (f : Fld) (low : Bool) (c : Instr) (hc : (f, v, low, c) ∈ wakeCmds dt k s) (hd : s.dormant = true) (hw : s.mus.wake = false)
  (hl : s.mus.wakeLatched = false)
include hc hd hw hl

theorem wakeCmds_wake (ha : s.mus.dormantAt = none) (hv₀ : v ≠ 0) (hv : v < 2 ^ f.width) :
    ∃ t, exec c s = .next t ∧ t.get f = v ∧ (∀ g ∈ wakeFlds, g ≠ f → t.get g = 0) ∧ t.mus.wake = true ∧ t.mus.enIo = true ∧
      t.mus.woke = true ∧ t.mus.wakeN = (s.mus.wakeN || low) ∧ Framed (regKeys 0 wakeFlds) { s.advance dt with mus := t.mus } t := by
  obtain ⟨hf, hexec⟩ := exec_wakeCmds dt s hl3 k v f low c hc hv
  rewrite [if_neg hv₀, (s.advance dt).wakeBy_wakes f v (!low) hd hw hl ha] at hexec
  exact ⟨_, hexec, State.wakeLatch_same _ f v hv, State.wakeLatch_other _ f v hf, rfl, rfl, rfl, by simp [MusterSt.woken],
    (State.wakeLatch_framed (s.advance dt) f v hf).withMus _⟩

theorem wakeCmds_latch (ha : s.mus.dormantAt ≠ none) (hv₀ : v ≠ 0) (hv : v < 2 ^ f.width) :
    ∃ t, exec c s = .next t ∧ t.get f = v ∧ t.mus.wakeLatched = true ∧ t.mus.wake = false ∧ t.mus.dormantAt = s.mus.dormantAt ∧
      Framed (regKeys 0 wakeFlds) { s.advance dt with mus := t.mus } t := by
  obtain ⟨hf, hexec⟩ := exec_wakeCmds dt s hl3 k v f low c hc hv
  rewrite [if_neg hv₀, (s.advance dt).wakeBy_waits f v (!low) hd hw hl ha] at hexec
  exact ⟨_, hexec, State.wakeLatch_same _ f v hv, rfl, hw, rfl, (State.wakeLatch_framed (s.advance dt) f v hf).withMus _⟩

end

theorem wakeCmds_unarmed (k : Nat) (f : Fld) (low : Bool) (c : Instr) (hc : (f, 0, low, c) ∈ wakeCmds dt k s) : exec c s = .next (s.advance dt) :=
  (exec_wakeCmds dt s hl3 k 0 f low c hc (Nat.two_pow_pos _)).2

end

/-- A wake by the host leaves WAKE_N and PERST_N. -/
theorem State.wakeBy_host (f : Fld) (v : Nat) : (s.wakeBy f v true).mus.wakeN = s.mus.wakeN ∧ (s.wakeBy f v true).mus.perst = s.mus.perst := by
  unfold State.wakeBy
  dsimp only
  split_ifs <;> exact ⟨by simp, rfl⟩

/-- PERST_N rises and releases WAKE_N, whether the host's wake is armed or not. -/
theorem hostWake_perst : ∃ t, exec (.hostWake dt true) s = .next t ∧ t.mus.wakeN = false ∧ t.mus.perst = true := by
  have hexec : exec (.hostWake dt true) s = if State.flag { s.advance dt with mus := { s.mus with wakeN := false, perst := true } } R.PWR_WAKE_EN_HOST
      then .next (State.wakeBy { s.advance dt with mus := { s.mus with wakeN := false, perst := true } } R.PWR_WAKE_SRC_HOST 1 true)
      else .next { s.advance dt with mus := { s.mus with wakeN := false, perst := true } } := rfl
  rewrite [hexec]
  split
  · exact ⟨_, rfl, State.wakeBy_host _ _ _⟩
  · exact ⟨_, rfl, rfl, rfl⟩

theorem rtcAlarm_wakes (hd : s.dormant = true) (hw : s.mus.wake = false) (hl : s.mus.wakeLatched = false) (ha : s.mus.dormantAt = none)
    (hl3 : s.pwr.l3 = 0) (harm : s.get R.PWR_RTC_ALARM_SEC ≠ 0) (hok : s.time.rtcOk = true)
    (hdue : s.get R.PWR_RTC_ALARM_SEC ≤ (s.advance dt).time.rtc / 4294967296000000000 % 4294967296) (hen : s.get R.PWR_WAKE_EN_RTC = 1) :
    ∃ t, exec (.rtcAlarm dt) s = .next t ∧ t.get R.PWR_WAKE_SRC_RTC = 1 ∧ t.mus.wake = true ∧ t.mus.enIo = true ∧
      (∀ g ∈ wakeFlds, g ≠ R.PWR_WAKE_SRC_RTC → t.get g = 0) ∧ Framed (regKeys 0 wakeFlds) { s.advance dt with mus := t.mus } t := by
  have hexec : exec (.rtcAlarm dt) s = .next ((s.advance dt).wakeBy R.PWR_WAKE_SRC_RTC 1 false) := by
    show execRtcAlarm dt s = _
    unfold execRtcAlarm
    dsimp only
    rewrite [if_neg (by simp only [Bool.or_eq_true, decide_eq_true_eq, not_or, Bool.not_eq_true', Bool.not_eq_false, Nat.not_lt]; exact ⟨⟨harm, hok⟩, hdue⟩),
      State.lullLeave_advance dt s hl3]
    exact if_pos (by simp [State.flag, hen])
  rewrite [(s.advance dt).wakeBy_wakes R.PWR_WAKE_SRC_RTC 1 false hd hw hl ha] at hexec
  have hf : R.PWR_WAKE_SRC_RTC ∈ wakeFlds := by decide
  generalize s.advance dt = u at hexec ⊢
  exact ⟨_, hexec, u.wakeLatch_same R.PWR_WAKE_SRC_RTC 1 (by decide), rfl, rfl, u.wakeLatch_other R.PWR_WAKE_SRC_RTC 1 hf,
    (u.wakeLatch_framed R.PWR_WAKE_SRC_RTC 1 hf).withMus _⟩

end

/-- Settles O16: an armed source is `State.wakeBy` of its field, at once or at the end of the entry; the value that the list of sources gives an
unarmed one is 0. The last clauses of a condition that does not hold rest on log DESIGN CHOICE 1. -/
theorem wakesFromDormant : Obligations.WakesFromDormant := by
  unfold Obligations.WakesFromDormant
  exact ⟨fun dt k v f low c s hc hd hl3 hw hl ha hv₀ hv => wakeCmds_wake dt s hl3 k v f low c hc hd hw hl ha hv₀ hv,
    fun dt k v f low c s hc hd hl3 hw hl ha hv₀ hv => wakeCmds_latch dt s hl3 k v f low c hc hd hw hl ha hv₀ hv,
    fun dt k f low c s hc hl3 => wakeCmds_unarmed dt s hl3 k f low c hc, fun dt s _ => hostWake_perst dt s, rtcAlarm_wakes,
    fun dt s h => if_pos (by simp [h])⟩

end Sys2Proof.Machine
end

section
set_option Elab.async false
/-!
PROOF of the statement of 16_forecaster_power_thermal.md about Lull depths (LullDepths): the permitted depth, gap depths, entering LULL3, the
return of DRAM, and then leaving it.
-/

namespace Sys2Proof.Machine

open Sys2Proof

theorem Framed.withPwr {ks : List Nat} {s t : State} (x : PwrSt) (h : Framed ks s t) : Framed ks { s with pwr := x } { t with pwr := x } :=
  ⟨congrArg (fun u : State => { u with pwr := x }) h.plain, h.regs⟩

/-! ### The permitted depth (R374) -/

theorem permittedDepth_lt (us : Nat) : permittedDepth us < 4 := by
  unfold permittedDepth
  split_ifs <;> decide

/-- The latency tolerance and the depth it permits are shown; a tolerance below that of LULL3 starts its second afresh. -/
def State.latTolSet (s : State) (us : Nat) : State :=
  if us < 6000
  then { (s.set R.PWR_LAT_TOL_US us).set R.PWR_STAT_PERMITTED (permittedDepth us) with pwr := { s.pwr with okSince := none } }
  else (s.set R.PWR_LAT_TOL_US us).set R.PWR_STAT_PERMITTED (permittedDepth us)

section
variable (s : State) (us : Nat)

theorem State.latTolSet_get {f : Fld} (b : Nat) :
    (s.latTolSet us).get f b = ((s.set R.PWR_LAT_TOL_US us).set R.PWR_STAT_PERMITTED (permittedDepth us)).get f b := by
  unfold State.latTolSet
  split
  · rfl
  · rfl

theorem State.latTolSet_role : (s.latTolSet us).role = s.role := by
  unfold State.latTolSet
  split
  · rfl
  · rfl

theorem State.latTolSet_shows (hus : us < 16777216) :
    (s.latTolSet us).get R.PWR_LAT_TOL_US = us ∧ (s.latTolSet us).get R.PWR_STAT_PERMITTED = permittedDepth us := by
  rewrite [State.latTolSet_get, State.latTolSet_get, State.get_set_ne _ _ _ _ (by decide), State.get_set_same, State.get_set_same]
  exact ⟨Nat.mod_eq_of_lt hus, Nat.mod_eq_of_lt (permittedDepth_lt us)⟩

theorem State.latTolSet_framed : Framed (regKeys 0 [R.PWR_LAT_TOL_US, R.PWR_STAT_PERMITTED]) { s with pwr := (s.latTolSet us).pwr } (s.latTolSet us) := by
  have h : Framed (regKeys 0 [R.PWR_LAT_TOL_US, R.PWR_STAT_PERMITTED]) s ((s.set R.PWR_LAT_TOL_US us).set R.PWR_STAT_PERMITTED (permittedDepth us)) :=
    set_framed _ _ _ _ (.inl (by simp [regKeys])) (set_framed _ _ _ _ (.inl (by simp [regKeys])) (.refl _ s))
  unfold State.latTolSet
  split
  · exact h.withPwr _
  · exact h

end

section
variable (dt : Nat) (p : Port) (us : Nat) (s : State)

section
variable (hs : s.session p = some .operator) (hus : us < 16777216) (hl3 : s.pwr.l3 = 0)
include hs hus hl3

omit hs hus in
/-- Outside LULL3 a write with its role is taken and starts the idle time afresh. -/
theorem State.rwlTaken_awake : (s.advance dt).rwlTaken = { s.advance dt with role := { s.role with rwlAt := s.now + dt } } := by
  unfold State.rwlTaken
  rewrite [State.lullLeave_advance dt s hl3]
  rfl

theorem exec_pwrLatTolWrite : ∃ e : Ev, exec (.pwrLatTolWrite dt p us) s =
    .next (if permittedDepth (s.get R.PWR_LAT_TOL_US) = permittedDepth us then (s.advance dt).rwlTaken.latTolSet us
      else (((s.advance dt).rwlTaken.latTolSet us).evt R.PWR_EVT_DEPTH).record e) := by
  have hfirst : (if us < 6000 && (s.advance dt).session p = some .operator then (s.advance dt).lullLeave 3 else s.advance dt) = s.advance dt := by
    rewrite [State.lullLeave_advance dt s hl3]
    exact ite_self _
  refine ⟨{ code := 0x1201, role := .operator, keyId := s.role.keyId,
            items := [(1, permittedDepth (s.get R.PWR_LAT_TOL_US)), (1, permittedDepth us), (3, us), (1, Role.operator.code),
              (2, s.role.keyId)], key := 2 }, ?_⟩
  show execPwrLatTolWrite dt p us s = _
  unfold execPwrLatTolWrite
  dsimp only
  rewrite [Nat.mod_eq_of_lt hus, hfirst, (s.advance dt).withRole_taken (show (s.advance dt).session p = some .operator from hs) (List.mem_singleton.2 rfl),
    State.rwlTaken_awake dt s hl3]
  unfold State.latTolSet
  by_cases h : us < 6000
  · rewrite [if_pos h, if_pos h]
    rfl
  · rewrite [if_neg h, if_neg h]
    rfl

omit hs hus in
theorem latTol_taken : Framed (regKeys 0 [R.PWR_LAT_TOL_US, R.PWR_STAT_PERMITTED])
      { s.advance dt with role := ((s.advance dt).rwlTaken.latTolSet us).role, pwr := ((s.advance dt).rwlTaken.latTolSet us).pwr }
      ((s.advance dt).rwlTaken.latTolSet us) ∧
    ((s.advance dt).rwlTaken.latTolSet us).role.rwlAt = s.now + dt := by
  have h := (s.advance dt).rwlTaken.latTolSet_framed us
  rewrite [State.latTolSet_role, State.rwlTaken_awake dt s hl3] at *
  exact ⟨h, rfl⟩

theorem pwrLatTolWrite_same (h : permittedDepth us = permittedDepth (s.get R.PWR_LAT_TOL_US)) :
    ∃ t, exec (.pwrLatTolWrite dt p us) s = .next t ∧ t.get R.PWR_LAT_TOL_US = us ∧ t.get R.PWR_STAT_PERMITTED = permittedDepth us ∧
      t.role.rwlAt = s.now + dt ∧
      Framed (regKeys 0 [R.PWR_LAT_TOL_US, R.PWR_STAT_PERMITTED]) { s.advance dt with role := t.role, pwr := t.pwr } t := by
  obtain ⟨e, hexec⟩ := exec_pwrLatTolWrite dt p us s hs hus hl3
  obtain ⟨hframed, hat⟩ := latTol_taken dt us s hl3
  obtain ⟨htol, hperm⟩ := (s.advance dt).rwlTaken.latTolSet_shows us hus
  rewrite [if_pos h.symm] at hexec
  exact ⟨_, hexec, htol, hperm, hat, hframed⟩

theorem pwrLatTolWrite_other (h : permittedDepth us ≠ permittedDepth (s.get R.PWR_LAT_TOL_US)) :
    ∃ t, exec (.pwrLatTolWrite dt p us) s = .next t ∧ t.get R.PWR_LAT_TOL_US = us ∧ t.get R.PWR_STAT_PERMITTED = permittedDepth us ∧
      t.get R.PWR_EVT_DEPTH = 1 ∧
      Framed (regKeys 0 [R.PWR_LAT_TOL_US, R.PWR_STAT_PERMITTED, R.PWR_EVT_DEPTH]) { s.advance dt with role := t.role, pwr := t.pwr } t := by
  obtain ⟨e, hexec⟩ := exec_pwrLatTolWrite dt p us s hs hus hl3
  obtain ⟨hframed, -⟩ := latTol_taken dt us s hl3
  obtain ⟨htol, hperm⟩ := (s.advance dt).rwlTaken.latTolSet_shows us hus
  rewrite [if_neg (Ne.symm h)] at hexec
  generalize (s.advance dt).rwlTaken.latTolSet us = u at hexec hframed htol hperm
  refine ⟨_, hexec, ?_, ?_, ?_, ?_⟩
  · rw [State.record_get _ _ _ (by decide), State.evt_get_ne _ _ _ (by decide) (by decide), htol]
  · rw [State.record_get _ _ _ (by decide), State.evt_get_ne _ _ _ (by decide) (by decide), hperm]
  · rewrite [State.record_get _ _ _ (by decide), State.evt_get_same _ _ _ (by decide)]
    rfl
  · rewrite [State.record_role, State.evt_role, State.record_pwr, State.evt_pwr]
    exact State.record_framed _ _ (State.evt_framed _ _ _ (.inl (by simp [regKeys])) (hframed.mono (by simp [regKeys])))

end

theorem pwrLatTolWrite_denied (hs : s.session p ≠ some .operator) (hl3 : s.pwr.l3 = 0) :
    ∃ t, exec (.pwrLatTolWrite dt p us) s = .next t ∧ Framed [] (s.advance dt) t := by
  have hdenied : ∀ r, (s.advance dt).session p = some r → r ∉ [Role.operator] := by
    intro r hr hmem
    obtain rfl := List.mem_singleton.1 hmem
    exact hs hr
  have hfirst : (if us % 16777216 < 6000 && (s.advance dt).session p = some .operator then (s.advance dt).lullLeave 3 else s.advance dt) =
      s.advance dt := by
    rewrite [State.lullLeave_advance dt s hl3]
    exact ite_self _
  refine ⟨(s.advance dt).rwlIgnored p 0x11004, ?_, State.rwlIgnored_framed _ _ _ (.refl _ _)⟩
  show execPwrLatTolWrite dt p us s = _
  unfold execPwrLatTolWrite
  dsimp only
  rw [hfirst, State.withRole_denied _ _ _ _ _ hdenied, State.lullLeave_advance dt s hl3]

end

/-! ### Gap depths (R375) -/

section
variable (dt d n : Nat) (s : State)

theorem exec_lullGapEntry : exec (.lullGapEntry dt d n) s =
    if d < 5 && s.pwr.l3 = 0 && 1 ≤ s.depth && s.depth ≤ 2 && (if s.depth = 1 then 31000 else 320000) < n
    then .next (State.setGated { s.advance dt with pwr := { s.pwr with gaps := tput s.pwr.gaps d s.depth } } d (s.depth = 2))
    else .next (s.advance dt) := rfl

theorem exec_lullGapWake : exec (.lullGapWake dt d) s =
    if (tfind s.pwr.gaps d).isNone then .next (s.advance dt)
    else .next (State.setGated { s.advance dt with pwr := { s.pwr with gaps := tdel s.pwr.gaps d } } d false) := rfl

/-- A quad's bit shows whether it is gated, and no other field changes. -/
theorem State.setGated_quad (b : Bool) (hd : d < 4) : ((s.setGated d b).get R.PWR_STAT_QUAD_GATED).testBit d = b ∧
    Framed [loc R.PWR_STAT_QUAD_GATED 0] s (s.setGated d b) ∧ (s.setGated d b).pwr = s.pwr := by
  unfold State.setGated
  rewrite [if_pos hd]
  exact ⟨State.setBitOf_get_same _ _ _ _ hd, set_framed _ _ _ _ (.inl (List.mem_singleton.2 rfl)) (.refl _ _), rfl⟩

section
variable (hl3 : s.pwr.l3 = 0) (hm : s.mode = 2) (hne : s.get R.PWR_STAT_DEPTH ≠ 3)
include hm hne

theorem State.depth_ready : s.depth = min 2 (permittedDepth (s.get R.PWR_LAT_TOL_US)) := by
  unfold State.depth
  rw [if_neg hne, if_pos hm]

include hl3

theorem lullGapEntry_deep (hd : d < 4) (htol : 250 ≤ s.get R.PWR_LAT_TOL_US) (hn : 320000 < n) :
    ∃ t, exec (.lullGapEntry dt d n) s = .next t ∧ tfind t.pwr.gaps d = some 2 ∧ (t.get R.PWR_STAT_QUAD_GATED).testBit d = true ∧
      Framed [loc R.PWR_STAT_QUAD_GATED 0] { s.advance dt with pwr := { s.pwr with gaps := tput s.pwr.gaps d 2 } } t := by
  have hdepth : s.depth = 2 := by
    rewrite [State.depth_ready s hm hne]
    unfold permittedDepth
    rewrite [if_neg (by omega), if_neg (by omega)]
    split <;> rfl
  have hexec := exec_lullGapEntry dt d n s
  rewrite [hdepth, if_pos (by simp [hl3, hn]; omega)] at hexec
  obtain ⟨hbit, hframed, hpwr⟩ := State.setGated_quad d { s.advance dt with pwr := { s.pwr with gaps := tput s.pwr.gaps d 2 } } true hd
  exact ⟨_, hexec, (congrArg (fun x : PwrSt => tfind x.gaps d) hpwr).trans (tfind_tput_same _ _ _), hbit, hframed⟩

theorem lullGapEntry_shallow (hlo : 10 ≤ s.get R.PWR_LAT_TOL_US) (hhi : s.get R.PWR_LAT_TOL_US < 250) (hn : 31000 < n) :
    ∃ t, exec (.lullGapEntry dt 4 n) s = .next t ∧ tfind t.pwr.gaps 4 = some 1 ∧ t.get R.PWR_STAT_YUZ_GATED = 0 ∧
      Framed [loc R.PWR_STAT_YUZ_GATED 0] { s.advance dt with pwr := { s.pwr with gaps := tput s.pwr.gaps 4 1 } } t := by
  have hdepth : s.depth = 1 := by
    rewrite [State.depth_ready s hm hne]
    unfold permittedDepth
    rewrite [if_neg (by omega), if_pos hhi]
    rfl
  have hexec := exec_lullGapEntry dt 4 n s
  rewrite [hdepth, if_pos (by simp [hl3, hn])] at hexec
  exact ⟨_, hexec, tfind_tput_same _ _ _, State.get_setB_same _ _ _ _ rfl,
    setB_framed _ _ _ _ (.inl (List.mem_singleton.2 rfl)) (.refl _ _)⟩

end

/-- Outside READY, or with the next work too near, no gap is entered. -/
theorem lullGapEntry_quiet (h : s.mode ≠ 2 ∨ n ≤ 31000) (hne : s.get R.PWR_STAT_DEPTH ≠ 3) :
    exec (.lullGapEntry dt d n) s = .next (s.advance dt) := by
  rewrite [exec_lullGapEntry]
  refine if_neg ?_
  rcases h with h | h
  · have hdepth : s.depth = 0 := by
      unfold State.depth
      rw [if_neg hne, if_neg h]
    simp [hdepth]
  · have hneed : ¬ (if s.depth = 1 then 31000 else 320000) < n := by split <;> omega
    simp [hneed]

theorem lullGapWake_wakes (hd : d < 4) (h : tfind s.pwr.gaps d ≠ none) :
    ∃ t, exec (.lullGapWake dt d) s = .next t ∧ (t.get R.PWR_STAT_QUAD_GATED).testBit d = false ∧
      Framed [loc R.PWR_STAT_QUAD_GATED 0] { s.advance dt with pwr := { s.pwr with gaps := tdel s.pwr.gaps d } } t := by
  obtain ⟨hbit, hframed, -⟩ := State.setGated_quad d { s.advance dt with pwr := { s.pwr with gaps := tdel s.pwr.gaps d } } false hd
  exact ⟨_, (exec_lullGapWake dt d s).trans (if_neg (by simpa using h)), hbit, hframed⟩

end

/-! ### LULL3 (R377 to R379) -/

section
variable (dt : Nat) (s : State)

theorem exec_lull3Entry (t₀ : Nat) (h : s.pwr.okSince = some t₀) : exec (.lull3Entry dt) s =
    if s.pwr.l3 = 0 && (s.advance dt).lullBlock = 0 && t₀ + 1000000000 ≤ s.now + dt && s.isActive && s.tick % 5000 = 0
    then .next ((s.advance dt).lullEnter false) else .next (s.advance dt) := by
  show execLull3Entry dt s = _
  unfold execLull3Entry
  dsimp only
  rewrite [show (s.advance dt).pwr.okSince = some t₀ from h]
  rfl

/-- LULL3 as it is entered: its own data, and what PWR_STAT and the counter show. -/
theorem State.lullEnter_shows (b : Bool) : (s.lullEnter b).pwr = { s.pwr with l3 := 1, follower := b, since := s.now, gaps := [], forwarded := none } ∧
    (s.lullEnter b).get R.PWR_STAT_DEPTH = 3 ∧ (s.lullEnter b).get R.PWR_STAT_QUAD_GATED = 15 ∧ (s.lullEnter b).get R.PWR_STAT_YUZ_GATED = 1 ∧
    (s.lullEnter b).get R.PWR_STAT_DRAM_SR = 1 ∧ (s.lullEnter b).get R.PWR_EVT_LULL3_IN = 1 ∧
    (s.lullEnter b).get R.PWR_LULL3_ENTRIES = (s.get R.PWR_LULL3_ENTRIES + 1) % 2 ^ R.PWR_LULL3_ENTRIES.width ∧ (s.lullEnter b).mode = s.mode := by
  have hpwr (u : State) (x : PwrSt) {f : Fld} (c : Nat) : State.get { u with pwr := x } f c = u.get f c := rfl
  unfold State.mode State.lullEnter
  dsimp only
  refine ⟨by simp [State.inc_eq], ?_⟩
  simp (disch := decide) only [State.inc_eq, State.get_set_ne, State.get_set_same, hpwr, State.record_get, State.evt_get_ne, State.evt_get_same]
  exact ⟨rfl, rfl, rfl, rfl, rfl, trivial, trivial⟩

theorem lull3Entry_enters (t₀ : Nat) (h : s.pwr.okSince = some t₀) (hl3 : s.pwr.l3 = 0) (hblock : (s.advance dt).lullBlock = 0)
    (hat : t₀ + 1000000000 ≤ s.now + dt) (ha : s.isActive = true) (htick : s.tick % 5000 = 0) :
    ∃ t, exec (.lull3Entry dt) s = .next t ∧ t.pwr.l3 = 1 ∧ t.pwr.follower = false ∧ t.pwr.since = s.now + dt ∧
      t.get R.PWR_STAT_DEPTH = 3 ∧ t.get R.PWR_STAT_QUAD_GATED = 15 ∧ t.get R.PWR_STAT_YUZ_GATED = 1 ∧ t.get R.PWR_STAT_DRAM_SR = 1 ∧
      t.get R.PWR_EVT_LULL3_IN = 1 ∧ t.get R.PWR_LULL3_ENTRIES = (s.get R.PWR_LULL3_ENTRIES + 1) % 2 ^ R.PWR_LULL3_ENTRIES.width ∧
      t.mode = s.mode := by
  obtain ⟨hpwr, hdepth, hquad, hyuz, hdram, hevt, hentries, hmode⟩ := (s.advance dt).lullEnter_shows false
  exact ⟨_, (exec_lull3Entry dt s t₀ h).trans (if_pos (by simp [hl3, hblock, hat, ha, htick])), by rw [hpwr], by rw [hpwr], by rewrite [hpwr]; rfl,
    hdepth, hquad, hyuz, hdram, hevt, hentries, hmode⟩

theorem lull3Entry_quiet (h : s.pwr.okSince = none ∨ s.tick % 5000 ≠ 0 ∨ s.pwr.l3 ≠ 0) : exec (.lull3Entry dt) s = .next (s.advance dt) := by
  cases hok : s.pwr.okSince with
  | none =>
    show execLull3Entry dt s = _
    unfold execLull3Entry
    dsimp only
    rw [show (s.advance dt).pwr.okSince = none from hok]
  | some t₀ =>
    refine (exec_lull3Entry dt s t₀ hok).trans (if_neg ?_)
    rcases h with h | h | h
    · rewrite [hok] at h; cases h
    · simp [h]
    · simp [h]

/-! ### DRAM returns (R446) -/

@[simp] theorem State.raise_log (src : Nat) : (s.raise src).log = s.log := by
  unfold State.raise State.vecFire State.vecSend
  split_ifs <;> rfl

@[simp] theorem State.evt_log (f : Fld) (b : Nat) : (s.evt f b).log = s.log := by
  rewrite [State.evt_eq, State.raise_log]
  rfl

/-- A record that enters the RAM ring leaves the hold area. -/
theorem State.ramPush_hold (r : Rec) : (s.ramPush r).log.hold = s.log.hold ∧ (s.ramPush r).log.lostHold = s.log.lostHold := by
  unfold State.ramPush
  dsimp only
  split_ifs <;> simp [State.inc_eq]

theorem foldl_ramPush_hold (l : List Rec) : (l.foldl State.ramPush s).log.hold = s.log.hold ∧ (l.foldl State.ramPush s).log.lostHold = s.log.lostHold :=
  ⟨foldl_keeps (·.log.hold) l (fun u r => (u.ramPush_hold r).1) s, foldl_keeps (·.log.lostHold) l (fun u r => (u.ramPush_hold r).2) s⟩

theorem foldl_ramPush_framed (l : List Rec) (ks : List Nat) (s₀ s : State) (h : Framed ks s₀ s) : Framed ks s₀ (l.foldl State.ramPush s) := by
  induction l generalizing s with
  | nil => exact h
  | cons r l ih => exact ih _ (State.ramPush_framed _ r h)

/-- With nothing lost, the held records are all that enter the ring. -/
theorem State.dramReturn_holds (hlost : s.log.lostHold = 0) {ks : List Nat} {s₀ : State} (h : Framed ks s₀ s) :
    s.dramReturn.log.hold = [] ∧ Framed ks s₀ s.dramReturn := by
  obtain ⟨hhold, hlosts⟩ := foldl_ramPush_hold { s with log := { s.log with hold := [] } } s.log.hold.reverse
  have heq : s.dramReturn = s.log.hold.reverse.foldl State.ramPush { s with log := { s.log with hold := [] } } :=
    if_pos (hlosts.trans hlost)
  rewrite [heq]
  exact ⟨hhold, foldl_ramPush_framed _ _ _ _ ⟨h.plain, h.regs⟩⟩

/-- PWR_STAT as the end of LULL3 leaves it. -/
def State.lullEnded (s : State) : State :=
  (((({ s with pwr := { s.pwr with l3 := 3 } }.set R.PWR_STAT_WAKING 0).set R.PWR_STAT_DEPTH 0).set R.PWR_STAT_QUAD_GATED 0).set
    R.PWR_STAT_YUZ_GATED 0).set R.PWR_STAT_DRAM_SR 0

/-- Its fields. -/
def lullEndFlds : List Fld := [R.PWR_STAT_WAKING, R.PWR_STAT_DEPTH, R.PWR_STAT_QUAD_GATED, R.PWR_STAT_YUZ_GATED, R.PWR_STAT_DRAM_SR]

theorem State.lullEnded_zero : ∀ f ∈ lullEndFlds, s.lullEnded.get f = 0 := by
  unfold State.lullEnded
  simp (disch := decide) only [lullEndFlds, List.forall_mem_cons, State.get_set_ne, State.get_set_same, Nat.zero_mod, List.not_mem_nil,
    false_implies, implies_true, and_true]

theorem State.lullEnded_framed : Framed (regKeys 0 lullEndFlds) { s with pwr := { s.pwr with l3 := 3 } } s.lullEnded := by
  have hset {u v : State} (h : Framed (regKeys 0 lullEndFlds) u v) {f : Fld} (hf : f ∈ lullEndFlds) : Framed (regKeys 0 lullEndFlds) u (v.set f 0) :=
    set_framed _ _ _ _ (.inl (List.mem_map_of_mem hf)) h
  exact hset (hset (hset (hset (hset (.refl _ _) (by simp [lullEndFlds])) (by simp [lullEndFlds])) (by simp [lullEndFlds])) (by simp [lullEndFlds]))
    (by simp [lullEndFlds])

theorem lull3WakeDone_ends (hl3 : s.pwr.l3 = 2) (hlost : s.log.lostHold = 0) :
    ∃ t, exec (.lull3WakeDone dt) s = .next t ∧ t.pwr.l3 = 3 ∧ t.get R.PWR_STAT_WAKING = 0 ∧ t.get R.PWR_STAT_DEPTH = 0 ∧
      t.get R.PWR_STAT_QUAD_GATED = 0 ∧ t.get R.PWR_STAT_YUZ_GATED = 0 ∧ t.get R.PWR_STAT_DRAM_SR = 0 ∧ t.log.hold = [] ∧
      Framed (regKeys 0 [R.PWR_STAT_WAKING, R.PWR_STAT_DEPTH, R.PWR_STAT_QUAD_GATED, R.PWR_STAT_YUZ_GATED, R.PWR_STAT_DRAM_SR])
        { s.advance dt with pwr := { s.pwr with l3 := 3 } } t := by
  have hexec : exec (.lull3WakeDone dt) s = .next (s.advance dt).lullEnded.dramReturn := if_neg (by simp [hl3])
  have hlost' : (s.advance dt).lullEnded.log.lostHold = 0 := hlost
  obtain ⟨hhold, hframed⟩ := (s.advance dt).lullEnded.dramReturn_holds hlost' (s.advance dt).lullEnded_framed
  obtain ⟨-, hkeep⟩ := (s.advance dt).lullEnded.dramReturn_holds hlost' (.refl [] _)
  have hzero := (s.advance dt).lullEnded_zero
  simp only [lullEndFlds, List.forall_mem_cons] at hzero
  obtain ⟨hwaking, hdepth, hquad, hyuz, hdram, -⟩ := hzero
  have hget {f : Fld} (hn : noteFld f = false) (h : (s.advance dt).lullEnded.get f = 0) : (s.advance dt).lullEnded.dramReturn.get f = 0 :=
    (hkeep.get_eq 0 hn List.not_mem_nil).trans h
  exact ⟨_, hexec, congrArg PwrSt.l3 (State.of_plain_pwr hframed.plain), hget (by decide) hwaking, hget (by decide) hdepth, hget (by decide) hquad,
    hget (by decide) hyuz, hget (by decide) hdram, hhold, hframed⟩

/-! ### A wake that the standby met (R379) -/

theorem State.lullLeave_leaves (c : Nat) (hl3 : s.pwr.l3 = 1) (hf : s.pwr.follower = false) :
    (s.lullLeave c).pwr = { s.pwr with l3 := 2, okSince := none } ∧ (s.lullLeave c).get R.PWR_STAT_WAKING = 1 ∧
    (s.lullLeave c).get R.PWR_EVT_LULL3_OUT = 1 := by
  unfold State.lullLeave State.lullExit
  rewrite [if_neg (by simp [hl3]), if_neg (by simp [hf]), if_neg (by simp [hl3])]
  dsimp only
  refine ⟨by simp [State.setSat_eq], ?_⟩
  simp (disch := decide) only [State.setSat_eq, State.record_get, State.evt_get_ne, State.evt_get_same, State.get_set_ne, State.get_set_same]
  exact ⟨rfl, rfl⟩

theorem wakeEventForwardReceive_leaves (hl3 : s.pwr.l3 = 1) (hf : s.pwr.follower = false) :
    ∃ t, exec (.wakeEventForwardReceive dt) s = .next t ∧ t.pwr.l3 = 2 ∧ t.pwr.okSince = none ∧ t.get R.PWR_STAT_WAKING = 1 ∧
      t.get R.PWR_EVT_LULL3_OUT = 1 ∧ Framed (regKeys 0 lullFlds) { s.advance dt with pwr := t.pwr } t := by
  obtain ⟨hpwr, hwaking, hevt⟩ := (s.advance dt).lullLeave_leaves 14 hl3 hf
  exact ⟨_, rfl, by rw [hpwr], by rw [hpwr], hwaking, hevt, (s.advance dt).lullLeave_framed 14⟩

end

/-- Settles O17: the write of the tolerance, gap depths, and LULL3 as it is entered, ends and is left, each by the lemma of its case above. The
clauses of conditions that do not hold rest on log DESIGN CHOICE 1. -/
theorem lullDepths : Obligations.LullDepths := by
  unfold Obligations.LullDepths
  exact ⟨fun dt p us s hs hus hl3 h => pwrLatTolWrite_same dt p us s hs hus hl3 h,
    fun dt p us s hs hus hl3 h => pwrLatTolWrite_other dt p us s hs hus hl3 h,
    fun dt p us s hs hl3 => pwrLatTolWrite_denied dt p us s hs hl3,
    fun dt d n s hd hl3 hm hne htol hn => lullGapEntry_deep dt d n s hl3 hm hne hd htol hn,
    fun dt n s hl3 hm hne hlo hhi hn => lullGapEntry_shallow dt n s hl3 hm hne hlo hhi hn, lullGapEntry_quiet,
    fun dt d s hd h => lullGapWake_wakes dt d s hd h, fun dt d s h => (exec_lullGapWake dt d s).trans (if_pos (by simp [h])),
    fun dt t₀ s h hl3 hblock hat ha htick => lull3Entry_enters dt s t₀ h hl3 hblock hat ha htick, lull3Entry_quiet, lull3WakeDone_ends,
    wakeEventForwardReceive_leaves, fun dt s h => congrArg Host.Outcome.next (State.lullLeave_awake (s.advance dt) 14 h)⟩

end Sys2Proof.Machine
end

section
set_option Elab.async false
/-!
PROOF of the statement of 15_twin_pairing.md about the steps of a twin pair (TwinSteps): what a mismatch shows and what a comparison leaves, the
status of the peer, divergence, the replay of a tick with its lag, and then plausibility.
-/

namespace Sys2Proof.Machine

open Sys2Proof

/-! ### Saturating fields -/

theorem State.setSat_get_same (s : State) (f : Fld) (v b : Nat) : (s.setSat f v b).get f b = min (2 ^ f.width - 1) v := by
  have hpos := Nat.two_pow_pos f.width
  rewrite [State.setSat_eq, State.get_set_same]
  exact Nat.mod_eq_of_lt (by omega)

theorem State.incSat_get_same (s : State) (f : Fld) (b n : Nat) : (s.incSat f b n).get f b = min (2 ^ f.width - 1) (s.get f b + n) := by
  have hpos := Nat.two_pow_pos f.width
  rewrite [State.incSat_eq, State.get_set_same]
  exact Nat.mod_eq_of_lt (by omega)

/-! ### Mismatches (R359) -/

section
variable (s : State) (scope cell tick conf : Nat)

/-- The fields that a mismatch shows in. -/
def mismatchFlds : List Fld := [R.TWIN_CMP_LAST_SCOPE, R.TWIN_CMP_LAST_CELL, R.TWIN_EVT_DIVERGE]

/-- The place of a mismatch is shown. -/
def State.mismatchAt : State := if scope = 1 then (s.set R.TWIN_CMP_LAST_SCOPE scope).set R.TWIN_CMP_LAST_CELL cell else s.set R.TWIN_CMP_LAST_SCOPE scope

/-- The record of a mismatch. -/
def mismatchEv : Ev := { code := 0x1107, items := [(1, scope), (1, cell), (8, tick), caseItem 0x1107 conf], key := 2 }

theorem State.mismatchNote_eq : s.mismatchNote scope cell tick conf =
    ((s.mismatchAt scope cell).evt R.TWIN_EVT_DIVERGE).record (mismatchEv scope cell tick conf) := rfl

theorem State.mismatchNote_shows : (s.mismatchNote scope cell tick conf).get R.TWIN_CMP_LAST_SCOPE = scope % 4 ∧
    (scope = 1 → (s.mismatchNote scope cell tick conf).get R.TWIN_CMP_LAST_CELL = cell % 64) ∧
    (s.mismatchNote scope cell tick conf).get R.TWIN_EVT_DIVERGE = 1 := by
  rewrite [State.mismatchNote_eq]
  simp (disch := decide) only [State.record_get, State.evt_get_ne, State.evt_get_same]
  unfold State.mismatchAt
  split
  next h =>
    simp (disch := decide) only [State.get_set_ne, State.get_set_same]
    exact ⟨rfl, fun _ => rfl, rfl⟩
  next h => exact ⟨State.get_set_same _ _ _ _, fun h₁ => absurd h₁ h, rfl⟩

theorem State.mismatchNote_framed {ks : List Nat} {s₀ : State} (hks : regKeys 0 mismatchFlds ⊆ ks) (h : Framed ks s₀ s) :
    Framed ks s₀ (s.mismatchNote scope cell tick conf) := by
  have hmem {f : Fld} (hf : f ∈ mismatchFlds) : loc f 0 ∈ ks := hks (List.mem_map_of_mem hf)
  have hscope := set_framed s R.TWIN_CMP_LAST_SCOPE scope 0 (.inl (hmem (by simp [mismatchFlds]))) h
  rewrite [State.mismatchNote_eq]
  exact State.record_framed _ _ (State.evt_framed _ _ _ (.inl (hmem (by simp [mismatchFlds])))
    (ite_framed (set_framed _ _ _ _ (.inl (hmem (by simp [mismatchFlds]))) hscope) hscope))

theorem State.mismatchNote_get {f : Fld} (b : Nat) (hf : apartFrom mismatchFlds f = true) :
    (s.mismatchNote scope cell tick conf).get f b = s.get f b := by
  refine (s.mismatchNote_framed scope cell tick conf (List.Subset.refl _) (.refl _ s)).get_eq b (noteFld_of_apartFrom hf) ?_
  simp only [regKeys, mismatchFlds, List.map_cons, List.map_nil, List.mem_cons, List.not_mem_nil, or_false, not_or]
  exact ⟨loc_ne (apartFrom_ne hf (by simp [mismatchFlds])) _ _, loc_ne (apartFrom_ne hf (by simp [mismatchFlds])) _ _,
    loc_ne (apartFrom_ne hf (by simp [mismatchFlds])) _ _⟩

theorem State.mismatchNote_twin : (s.mismatchNote scope cell tick conf).twin = s.twin :=
  (State.of_plain_twin (s.mismatchNote_framed scope cell tick conf (List.Subset.refl _) (.refl _ s)).plain :)

end

/-! ### Comparing a seal (R359, R360) -/

/-- The fields that a comparison writes. -/
def compareFlds : List Fld := [R.TWIN_CMP_CONFIRMED, R.TWIN_CMP_TRANSIENT, R.TWIN_CMP_LAST_SCOPE, R.TWIN_CMP_LAST_CELL, R.TWIN_EVT_DIVERGE]

/-- `t` is `s` but for the scopes in mismatch and the fields that show them; a confirmed mismatch stays one. -/
structure Compared (s t : State) : Prop where
  twin : t.twin = { s.twin with mismatch := t.twin.mismatch }
  get : ∀ (f : Fld) (b : Nat), apartFrom compareFlds f = true → t.get f b = s.get f b
  confirmed : s.get R.TWIN_CMP_CONFIRMED = 1 → t.get R.TWIN_CMP_CONFIRMED = 1

theorem Compared.refl (s : State) : Compared s s := ⟨rfl, fun _ _ _ => rfl, id⟩

theorem Compared.trans {s t u : State} (h : Compared s t) (g : Compared t u) : Compared s u := by
  refine ⟨?_, fun f b hf => (g.get f b hf).trans (h.get f b hf), fun hc => g.confirmed (h.confirmed hc)⟩
  rw [g.twin, h.twin]

section
variable (s : State) (scope cell tick : Nat)

theorem apartFrom_mismatch {f : Fld} (hf : apartFrom compareFlds f = true) : apartFrom mismatchFlds f = true := by
  simp only [apartFrom, compareFlds, mismatchFlds, List.all_cons, List.all_nil, Bool.and_eq_true] at hf ⊢
  obtain ⟨hn, -, -, h₁, h₂, h₃, -⟩ := hf
  exact ⟨hn, h₁, h₂, h₃, trivial⟩

theorem State.compareScope_compared (agree : Bool) : Compared s (s.compareScope scope cell tick agree) := by
  have hset (u : State) {g f : Fld} (v b : Nat) (hf : apartFrom compareFlds f = true) (hg : g ∈ compareFlds) : (u.set g v).get f b = u.get f b :=
    State.get_set_ne _ _ _ _ (apartFrom_ne hf hg)
  unfold State.compareScope
  dsimp only
  split_ifs
  · refine ⟨by rewrite [State.mismatchNote_twin]; rfl, fun f b hf => ?_, fun h => ?_⟩
    · rewrite [State.mismatchNote_get _ _ _ _ _ _ (apartFrom_mismatch hf), State.inc_eq]
      exact hset _ _ _ hf (by simp [compareFlds])
    · rewrite [State.mismatchNote_get _ _ _ _ _ _ (by decide), State.inc_eq, State.get_set_ne _ _ _ _ (by decide)]
      exact h
  · exact .refl s
  · refine ⟨by rewrite [State.mismatchNote_twin]; rfl, fun f b hf => ?_, fun h => ?_⟩
    · rewrite [State.mismatchNote_get _ _ _ _ _ _ (apartFrom_mismatch hf)]
      exact hset _ _ _ hf (by simp [compareFlds])
    · rewrite [State.mismatchNote_get _ _ _ _ _ _ (by decide)]
      exact State.get_set_same _ _ _ _
  · refine ⟨by rewrite [State.evt_twin]; rfl, fun f b hf => ?_, fun h => ?_⟩
    · rewrite [State.evt_get_ne _ _ _ (noteFld_of_apartFrom hf) (apartFrom_ne hf (by simp [compareFlds]))]
      exact hset _ _ _ hf (by simp [compareFlds])
    · rewrite [State.evt_get_ne _ _ _ (by decide) (by decide), State.get_set_ne _ _ _ _ (by decide)]
      exact h

theorem State.compareScope_twin (agree : Bool) : (s.compareScope scope cell tick agree).twin.mismatch =
    if agree then (if scope ∈ s.twin.mismatch then s.twin.mismatch.filter (· ≠ scope) else s.twin.mismatch)
    else if scope ∈ s.twin.mismatch then s.twin.mismatch else scope :: s.twin.mismatch := by
  unfold State.compareScope
  dsimp only
  simp only [decide_eq_true_eq]
  split_ifs
  · rewrite [State.mismatchNote_twin]; rfl
  · rfl
  · rewrite [State.mismatchNote_twin]; rfl
  · rewrite [State.evt_twin]; rfl

/-- A scope is in mismatch where it disagrees; every other stays as it was. -/
theorem State.compareScope_mismatch (agree : Bool) (k : Nat) :
    k ∈ (s.compareScope scope cell tick agree).twin.mismatch ↔ if k = scope then agree = false else k ∈ s.twin.mismatch := by
  rewrite [State.compareScope_twin]
  by_cases hk : k = scope
  · subst hk
    cases agree <;> by_cases hm : k ∈ s.twin.mismatch <;> simp [hm]
  · cases agree <;> by_cases hm : scope ∈ s.twin.mismatch <;> simp [hm, hk]

theorem State.compareScope_confirms (h : scope ∈ s.twin.mismatch) : (s.compareScope scope cell tick false).get R.TWIN_CMP_CONFIRMED = 1 := by
  unfold State.compareScope
  dsimp only
  rewrite [if_neg (by decide), if_pos (by simpa using h), State.mismatchNote_get _ _ _ _ _ _ (by decide)]
  exact State.get_set_same _ _ _ _

end

/-- The scopes of a seal that it names are compared with the standby's own. -/
def State.compared (s : State) (sl own : Seal) (cell tick : Nat) : State :=
  let s := s.compareScope 1 cell tick (sl.out = own.out)
  let s := match sl.frame with | some f => s.compareScope 2 0 tick (some f = own.frame) | none => s
  match sl.helm with | some h => s.compareScope 3 0 tick (some h = own.helm) | none => s

section
variable (s : State) (sl own : Seal) (cell tick : Nat)

/-- The two scopes after the first leave it. -/
theorem State.compared_later : Compared (s.compareScope 1 cell tick (sl.out = own.out)) (s.compared sl own cell tick) ∧
    (1 ∈ (s.compared sl own cell tick).twin.mismatch ↔ 1 ∈ (s.compareScope 1 cell tick (sl.out = own.out)).twin.mismatch) := by
  have hstep (u : State) (k : Nat) (hk : 1 ≠ k) (b : Bool) : Compared u (u.compareScope k 0 tick b) ∧
      (1 ∈ (u.compareScope k 0 tick b).twin.mismatch ↔ 1 ∈ u.twin.mismatch) :=
    ⟨u.compareScope_compared k 0 tick b, (u.compareScope_mismatch k 0 tick b 1).trans (by rw [if_neg hk])⟩
  have hframe (u : State) : Compared u (match sl.frame with | some f => u.compareScope 2 0 tick (some f = own.frame) | none => u) ∧
      (1 ∈ (match sl.frame with | some f => u.compareScope 2 0 tick (some f = own.frame) | none => u).twin.mismatch ↔ 1 ∈ u.twin.mismatch) := by
    split
    · exact hstep u 2 (by decide) _
    · exact ⟨.refl u, Iff.rfl⟩
  have hhelm (u : State) : Compared u (match sl.helm with | some f => u.compareScope 3 0 tick (some f = own.helm) | none => u) ∧
      (1 ∈ (match sl.helm with | some f => u.compareScope 3 0 tick (some f = own.helm) | none => u).twin.mismatch ↔ 1 ∈ u.twin.mismatch) := by
    split
    · exact hstep u 3 (by decide) _
    · exact ⟨.refl u, Iff.rfl⟩
  obtain ⟨hf, hfm⟩ := hframe (s.compareScope 1 cell tick (sl.out = own.out))
  obtain ⟨hh, hhm⟩ := hhelm (match sl.frame with
    | some f => (s.compareScope 1 cell tick (sl.out = own.out)).compareScope 2 0 tick (some f = own.frame)
    | none => s.compareScope 1 cell tick (sl.out = own.out))
  exact ⟨hf.trans hh, hhm.trans hfm⟩

theorem State.compared_shows : Compared s (s.compared sl own cell tick) ∧
    (sl.out ≠ own.out → 1 ∈ s.twin.mismatch → (s.compared sl own cell tick).get R.TWIN_CMP_CONFIRMED = 1) ∧
    (1 ∈ (s.compared sl own cell tick).twin.mismatch ↔ sl.out ≠ own.out) := by
  obtain ⟨hlater, hone⟩ := s.compared_later sl own cell tick
  refine ⟨(s.compareScope_compared 1 cell tick _).trans hlater, fun hne hm => hlater.confirmed ?_, hone.trans ?_⟩
  · rewrite [decide_eq_false hne]
    exact s.compareScope_confirms 1 cell tick hm
  · rw [State.compareScope_mismatch, if_pos rfl, decide_eq_false_iff_not]

end

/-! ### Replay and lag (R358) -/

section
variable (s : State) (lag : Nat)

theorem State.lagOver_shows : (s.lagOver lag).twin.lagRun = s.twin.lagRun + 1 ∧ (s.lagOver lag).get R.TWIN_STAT_PEER_OK_OUT = 0 ∧
    (s.lagOver lag).get R.TWIN_LAG_LAST_NS = s.get R.TWIN_LAG_LAST_NS ∧
    (s.lagOver lag).get R.TWIN_LAG_OVER = min 255 (s.get R.TWIN_LAG_OVER + 1) ∧ (s.lagOver lag).get R.TWIN_EVT_LAG = 1 := by
  have htwin (u : State) (x : TwinSt) {f : Fld} (c : Nat) : State.get { u with twin := x } f c = u.get f c := rfl
  unfold State.lagOver
  dsimp only
  refine ⟨by simp [State.incSat_eq], ?_⟩
  simp (disch := decide) only [State.incSat_eq, State.get_set_ne, State.get_set_same, htwin, State.record_get, State.evt_get_ne, State.evt_get_same]
  exact ⟨rfl, trivial, Nat.mod_eq_of_lt (Nat.lt_of_le_of_lt (Nat.min_le_left _ _) (by decide)), rfl⟩

end

/-- A replay that keeps the lag. -/
def State.lagKept (s : State) : State := { s with twin := { s.twin with lagRun := 0 } }.set R.TWIN_STAT_PEER_OK_OUT 1

/-- A tick replayed: its lag, the comparison, and the seal done with. -/
def State.replayed (s : State) (tick lag : Nat) (sl own : Seal) (cell : Nat) : State :=
  let s := (s.setSat R.TWIN_LAG_LAST_NS lag).compared sl own cell tick
  { s with twin := { s.twin with seals := s.twin.seals.filter fun x => x.tick ≠ tick } }

section
variable (dt q g k : Nat) (o w : Seal) (s : State)

section
variable (hin : s.inStep = true) (hw : s.twin.seals.find? (fun x => x.tick = q) = some w)
include hin hw

theorem exec_replayDone : exec (.replayDone dt q g o k) s = .next (if 9000 < g then ((s.advance dt).replayed q g w o k).lagOver g
    else ((s.advance dt).replayed q g w o k).lagKept) := by
  have hina : (s.advance dt).inStep = true := hin
  have hexec : exec (.replayDone dt q g o k) s = if 9000 < g then .next (((s.advance dt).replayed q g w o k).lagOver g)
      else .next ((s.advance dt).replayed q g w o k).lagKept := by
    show execReplayDone dt q g o k s = _
    unfold execReplayDone
    dsimp only
    rewrite [if_neg (by simp [hina]), show (s.advance dt).twin.seals.find? (fun x => x.tick = q) = some w from hw]
    rfl
  rewrite [hexec]
  exact (apply_ite Host.Outcome.next _ _ _).symm

end

theorem State.replayed_shows : ((s.replayed q g w o k).twin.seals = s.twin.seals.filter fun x => x.tick ≠ q) ∧
    (s.replayed q g w o k).twin.lagRun = s.twin.lagRun ∧ (s.replayed q g w o k).get R.TWIN_LAG_LAST_NS = min 65535 g ∧
    (s.replayed q g w o k).get R.TWIN_LAG_OVER = s.get R.TWIN_LAG_OVER ∧
    (w.out ≠ o.out → 1 ∈ s.twin.mismatch → (s.replayed q g w o k).get R.TWIN_CMP_CONFIRMED = 1) ∧
    (1 ∈ (s.replayed q g w o k).twin.mismatch ↔ w.out ≠ o.out) ∧ (s.replayed q g w o k).mode = s.mode := by
  obtain ⟨hcmp, hconf, hone⟩ := (s.setSat R.TWIN_LAG_LAST_NS g).compared_shows w o k q
  generalize hu : (s.setSat R.TWIN_LAG_LAST_NS g).compared w o k q = u at hcmp hconf hone
  have hr : s.replayed q g w o k = { u with twin := { u.twin with seals := u.twin.seals.filter fun x => x.tick ≠ q } } := by rewrite [← hu]; rfl
  have hget (f : Fld) (b : Nat) : (s.replayed q g w o k).get f b = u.get f b := by rewrite [hr]; rfl
  have hseals : u.twin.seals = s.twin.seals := by rewrite [hcmp.twin]; rfl
  have hrun : u.twin.lagRun = s.twin.lagRun := by rewrite [hcmp.twin]; rfl
  unfold State.mode
  rewrite [hget, hget, hget, hget, hcmp.get R.TWIN_LAG_LAST_NS 0 (by decide), hcmp.get R.TWIN_LAG_OVER 0 (by decide),
    hcmp.get R.MODE_STAT_MODE 0 (by decide), State.setSat_get_same,
    State.setSat_get_ne _ _ (by decide), State.setSat_get_ne _ _ (by decide), hr]
  refine ⟨?_, hrun, rfl, rfl, hconf, hone, rfl⟩
  show u.twin.seals.filter _ = _
  rw [hseals]

theorem replayDone_inTime (hin : s.inStep = true) (hw : s.twin.seals.find? (fun x => x.tick = q) = some w) (hg : g ≤ 9000) :
    ∃ t, exec (.replayDone dt q g o k) s = .next t ∧ t.twin.seals = s.twin.seals.filter (fun x => x.tick ≠ q) ∧ t.twin.lagRun = 0 ∧
      t.get R.TWIN_STAT_PEER_OK_OUT = 1 ∧ t.get R.TWIN_LAG_LAST_NS = g ∧
      (w.out ≠ o.out → 1 ∈ s.twin.mismatch → t.get R.TWIN_CMP_CONFIRMED = 1) ∧ (w.out ≠ o.out → 1 ∈ t.twin.mismatch) ∧
      (w.out = o.out → 1 ∉ t.twin.mismatch) ∧ t.mode = s.mode := by
  obtain ⟨hseals, -, hlast, -, hconf, hone, hmode⟩ := (s.advance dt).replayed_shows q g k o w
  have hexec := exec_replayDone dt q g k o w s hin hw
  rewrite [if_neg (Nat.not_lt.2 hg)] at hexec
  have hget {f : Fld} (hf : fkey f ≠ fkey R.TWIN_STAT_PEER_OK_OUT) : ((s.advance dt).replayed q g w o k).lagKept.get f =
      ((s.advance dt).replayed q g w o k).get f := State.get_set_ne _ _ _ _ hf
  exact ⟨_, hexec, hseals, rfl, State.get_set_same _ _ _ _, (hget (by decide)).trans (hlast.trans (by omega)),
    fun h hm => (hget (by decide)).trans (hconf h hm), hone.2, fun h hm => hone.1 hm h, (hget (by decide)).trans hmode⟩

theorem replay_overLag (c : Instr) (hin : s.inStep = true) (hg : 9000 < g)
    (hc : (c = .replayDone dt q g o k ∧ s.twin.seals.find? (fun x => x.tick = q) = some w) ∨ c = .tickLagExceeded dt g) :
    ∃ t, exec c s = .next t ∧ t.twin.lagRun = s.twin.lagRun + 1 ∧ t.get R.TWIN_STAT_PEER_OK_OUT = 0 ∧ t.get R.TWIN_LAG_LAST_NS = min 65535 g ∧
      t.get R.TWIN_LAG_OVER = min 255 (s.get R.TWIN_LAG_OVER + 1) ∧ t.get R.TWIN_EVT_LAG = 1 := by
  rcases hc with ⟨rfl, hw⟩ | rfl
  · obtain ⟨-, hrun, hlast, hover, -⟩ := (s.advance dt).replayed_shows q g k o w
    obtain ⟨hrun', hok, hlast', hover', hevt⟩ := ((s.advance dt).replayed q g w o k).lagOver_shows g
    rewrite [hrun] at hrun'
    rewrite [hlast] at hlast'
    rewrite [hover] at hover'
    exact ⟨_, (exec_replayDone dt q g k o w s hin hw).trans (by rw [if_pos hg]), hrun', hok, hlast', hover', hevt⟩
  · have hexec : exec (.tickLagExceeded dt g) s = .next (((s.advance dt).setSat R.TWIN_LAG_LAST_NS g).lagOver g) := by
      have hina : (s.advance dt).inStep = true := hin
      exact if_pos (by simp [hina, hg])
    obtain ⟨hrun, hok, hlast, hover, hevt⟩ := ((s.advance dt).setSat R.TWIN_LAG_LAST_NS g).lagOver_shows g
    rewrite [State.setSat_get_same] at hlast
    rewrite [State.setSat_get_ne _ _ (by decide)] at hover
    exact ⟨_, hexec, hrun, hok, hlast, hover, hevt⟩

theorem replay_outOfStep (c : Instr) (hc : c ∈ [Instr.replayDone dt q g o k, .tickLagExceeded dt g, .standbyLagLimit dt]) (hin : s.inStep = false) :
    exec c s = .next (s.advance dt) := by
  have hina : (s.advance dt).inStep = false := hin
  simp only [List.mem_cons, List.not_mem_nil, or_false] at hc
  rcases hc with rfl | rfl | rfl
  · exact if_pos (by simp [hina])
  · exact if_neg (by simp [hina])
  · exact if_neg (by simp [hina])

theorem standbyLagLimit_faults (hin : s.inStep = true) (h : 3 ≤ s.twin.lagRun) :
    ∃ t, exec (.standbyLagLimit dt) s = .next t ∧ t.get R.DEV_FAULT_CAUSE = 8 ∧ t.get R.DEV_EVT_FAULT = 1 := by
  have hina : (s.advance dt).inStep = true := hin
  obtain ⟨e, hexec⟩ : ∃ e : Ev, exec (.standbyLagLimit dt) s = .next (((s.advance dt).record e).deviceFault 8 0xFFFF) :=
    ⟨_, if_pos (by simp [hina, h])⟩
  obtain ⟨hcause, -, hevt⟩ := ((s.advance dt).record e).deviceFault_shows 8 0xFFFF
  exact ⟨_, hexec, hcause, hevt⟩

end

/-! ### The peer's status (R357, R368) -/

section
variable (dt g l i v : Nat) (s : State)

/-- The results and the status that the peer tells. -/
def State.statusTold (s : State) (g l i v : Nat) : State :=
  { (s.set R.MNF_INST_PEER_RESULT i).set R.SAFE_CV_CMD_PEER_RESULT v with twin := { s.twin with peerStatus := g, peerLag := l } }

theorem State.statusTold_get {f : Fld} (b : Nat) (hi : fkey f ≠ fkey R.MNF_INST_PEER_RESULT) (hv : fkey f ≠ fkey R.SAFE_CV_CMD_PEER_RESULT) :
    (s.statusTold g l i v).get f b = s.get f b := (State.get_set_ne _ _ _ _ hv).trans (State.get_set_ne _ _ _ _ hi)

theorem State.statusTold_isActive : (s.statusTold g l i v).isActive = s.isActive := by
  unfold State.isActive State.flag
  rw [State.statusTold_get _ _ _ _ _ _ (by decide) (by decide)]

theorem State.statusTold_isPaired : (s.statusTold g l i v).isPaired = s.isPaired := by
  unfold State.isPaired State.flag
  rw [State.statusTold_get _ _ _ _ _ _ (by decide) (by decide)]

/-- The alarm of an unpaired active goes, where it stands. -/
def State.pairAlarmGone (s : State) : State :=
  if s.twin.unpairedAlarm then State.clearAlarm { s with twin := { s.twin with unpairedAlarm := false } } 0x1105 0xFFFF [(1, 0x10)] else s

/-- The active is paired. -/
def State.paired (s : State) : State := (s.set R.TWIN_STAT_STATE 4).set R.MODE_STAT_PAIRED 1

/-- How long the snapshot took is shown, where one was sent. -/
def State.syncShown (s : State) (sending : Bool) (ms : Nat) : State := if sending then (s.setSat R.TWIN_SYNC_MS ms).syncRecord 0 ms 1 else s

theorem exec_statusReceive_pairs (ha : s.isActive = true) (hp : s.isPaired = false) : ∃ (sending : Bool) (ms : Nat),
    exec (.statusReceive dt 4 l i v) s =
      .next ((((((s.advance dt).statusTold 4 l i v).paired).syncShown sending ms).pairAlarmGone).evt R.TWIN_EVT_PAIRED) := by
  have haa : ((s.advance dt).statusTold 4 l i v).isActive = true := by rewrite [State.statusTold_isActive]; exact ha
  have hpa : ((s.advance dt).statusTold 4 l i v).isPaired = false := by rewrite [State.statusTold_isPaired]; exact hp
  have hexec : exec (.statusReceive dt 4 l i v) s = if !((s.advance dt).statusTold 4 l i v).isActive then .next ((s.advance dt).statusTold 4 l i v)
      else if (4 : Nat) = 4 && !((s.advance dt).statusTold 4 l i v).isPaired then
        .next ((((((s.advance dt).statusTold 4 l i v).paired).syncShown (decide (((s.advance dt).statusTold 4 l i v).get R.TWIN_STAT_STATE = 2))
          ((((s.advance dt).statusTold 4 l i v).now - ((s.advance dt).statusTold 4 l i v).twin.syncAt) / 1000000)).pairAlarmGone).evt R.TWIN_EVT_PAIRED)
      else if (4 : Nat) = 5 && ((s.advance dt).statusTold 4 l i v).isPaired then .next (((s.advance dt).statusTold 4 l i v).becomeUnpaired 2)
      else .next ((s.advance dt).statusTold 4 l i v) := rfl
  rewrite [if_neg (by simp [haa]), if_pos (by simp [hpa])] at hexec
  exact ⟨_, _, hexec⟩

/-- What the record of the snapshot and the end of the alarm leave. -/
theorem State.syncShown_get {f : Fld} (hn : noteFld f = false) (hf : fkey f ≠ fkey R.TWIN_SYNC_MS) (sending : Bool) (ms b : Nat) :
    (s.syncShown sending ms).get f b = s.get f b := by
  unfold State.syncShown State.syncRecord
  split
  · rw [State.record_get _ _ _ hn, State.setSat_get_ne _ _ hf]
  · rfl

theorem State.syncShown_twin (sending : Bool) (ms : Nat) : (s.syncShown sending ms).twin = s.twin := by
  unfold State.syncShown State.syncRecord
  split
  · rewrite [State.record_twin]
    rfl
  · rfl

theorem State.pairAlarmGone_get {f : Fld} (hn : noteFld f = false) (b : Nat) : s.pairAlarmGone.get f b = s.get f b := by
  unfold State.pairAlarmGone
  split
  · exact State.clearAlarm_get _ _ _ _ _ _ hn
  · rfl

theorem State.pairAlarmGone_twin : s.pairAlarmGone.twin = { s.twin with unpairedAlarm := false } := by
  unfold State.pairAlarmGone
  split
  · exact State.clearAlarm_twin _ _ _ _ _
  next h =>
    have hfalse : s.twin.unpairedAlarm = false := by simpa using h
    rw [← hfalse]

theorem statusReceive_pairs (ha : s.isActive = true) (hp : s.isPaired = false) (hg : g = 4) :
    ∃ t, exec (.statusReceive dt g l i v) s = .next t ∧ t.isPaired = true ∧ t.get R.TWIN_STAT_STATE = 4 ∧ t.get R.TWIN_EVT_PAIRED = 1 ∧
      t.twin.peerStatus = 4 ∧ t.twin.unpairedAlarm = false ∧ t.get R.MNF_INST_PEER_RESULT = i % 2 ^ R.MNF_INST_PEER_RESULT.width := by
  subst hg
  obtain ⟨sending, ms, hexec⟩ := exec_statusReceive_pairs dt l i v s ha hp
  have hget {f : Fld} (hn : noteFld f = false) (he : fkey f ≠ fkey R.TWIN_EVT_PAIRED) (hf : fkey f ≠ fkey R.TWIN_SYNC_MS) :
      ((((((s.advance dt).statusTold 4 l i v).paired).syncShown sending ms).pairAlarmGone).evt R.TWIN_EVT_PAIRED).get f =
        ((s.advance dt).statusTold 4 l i v).paired.get f := by
    rw [State.evt_get_ne _ _ _ hn he, State.pairAlarmGone_get _ hn, State.syncShown_get _ hn hf]
  have htwin : ((((((s.advance dt).statusTold 4 l i v).paired).syncShown sending ms).pairAlarmGone).evt R.TWIN_EVT_PAIRED).twin =
      { s.twin with peerStatus := 4, peerLag := l, unpairedAlarm := false } := by
    rewrite [State.evt_twin, State.pairAlarmGone_twin, State.syncShown_twin]
    rfl
  refine ⟨_, hexec, ?_, ?_, State.evt_get_same _ _ _ (by decide), by rw [htwin], by rw [htwin], ?_⟩
  · unfold State.isPaired State.flag
    rewrite [hget (by decide) (by decide) (by decide), State.paired, State.get_set_same]
    rfl
  · rewrite [hget noteFld_TWIN_STAT_STATE (by decide) (by decide), State.paired, State.get_set_ne _ _ _ _ (by decide), State.get_set_same]
    rfl
  · rewrite [hget (by decide) (by decide) (by decide), State.paired, State.get_set_ne _ _ _ _ (by decide), State.get_set_ne _ _ _ _ (by decide)]
    exact (State.get_set_ne _ _ _ _ (by decide)).trans (State.get_set_same _ _ _ _)

/-- An active that becomes unpaired stays active, and shows it. -/
theorem State.becomeUnpaired_shows (reason : Nat) : (s.becomeUnpaired reason).isPaired = false ∧ (s.becomeUnpaired reason).get R.TWIN_STAT_STATE = 0 ∧
    (s.becomeUnpaired reason).isActive = s.isActive ∧ (s.becomeUnpaired reason).get R.TWIN_EVT_UNPAIRED = 1 := by
  refine ⟨State.unpairedAlarm_isPaired _ _, ?_, (State.unpairedAlarm_isActive _ _).trans ?_, ?_⟩
  · exact (State.unpairedAlarm_get _ _ noteFld_TWIN_STAT_STATE (by decide) (by decide)).trans (State.get_set_same _ _ _ _)
  · unfold State.isActive State.flag
    rw [State.get_set_ne _ _ _ _ (by decide)]
  · exact (State.alarm_get _ _ _ _ _ _ (by decide)).trans (State.evt_get_same _ _ _ (by decide))

theorem statusReceive_unpairs (ha : s.isActive = true) (hp : s.isPaired = true) (hg : g = 5) :
    ∃ t, exec (.statusReceive dt g l i v) s = .next t ∧ t.isPaired = false ∧ t.get R.TWIN_STAT_STATE = 0 ∧ t.isActive = true ∧
      t.get R.TWIN_EVT_UNPAIRED = 1 := by
  subst hg
  have haa : ((s.advance dt).statusTold 5 l i v).isActive = true := by rewrite [State.statusTold_isActive]; exact ha
  have hpa : ((s.advance dt).statusTold 5 l i v).isPaired = true := by rewrite [State.statusTold_isPaired]; exact hp
  have hexec : exec (.statusReceive dt 5 l i v) s = if !((s.advance dt).statusTold 5 l i v).isActive then .next ((s.advance dt).statusTold 5 l i v)
      else if (5 : Nat) = 5 && ((s.advance dt).statusTold 5 l i v).isPaired then .next (((s.advance dt).statusTold 5 l i v).becomeUnpaired 2)
      else .next ((s.advance dt).statusTold 5 l i v) := rfl
  rewrite [if_neg (by simp [haa]), if_pos (by simp [hpa])] at hexec
  obtain ⟨hpaired, hstate, hactive, hevt⟩ := ((s.advance dt).statusTold 5 l i v).becomeUnpaired_shows 2
  exact ⟨_, hexec, hpaired, hstate, hactive.trans haa, hevt⟩

theorem statusReceive_standby (ha : s.isActive = false) :
    ∃ t, exec (.statusReceive dt g l i v) s = .next t ∧ t.twin = { s.twin with peerStatus := g, peerLag := l } ∧
      t.get R.SAFE_CV_CMD_PEER_RESULT = v % 8 ∧
      Framed (regKeys 0 [R.MNF_INST_PEER_RESULT, R.SAFE_CV_CMD_PEER_RESULT]) { s.advance dt with twin := t.twin } t := by
  have haa : ((s.advance dt).statusTold g l i v).isActive = false := by rewrite [State.statusTold_isActive]; exact ha
  have hexec : exec (.statusReceive dt g l i v) s = .next ((s.advance dt).statusTold g l i v) :=
    if_pos (show (!((s.advance dt).statusTold g l i v).isActive) = true by rewrite [haa]; rfl)
  exact ⟨_, hexec, rfl, State.get_set_same _ _ _ _,
    (set_framed _ _ _ _ (.inl (by simp [regKeys])) (set_framed _ _ _ _ (.inl (by simp [regKeys])) (.refl _ _))).withTwin _⟩

end

/-! ### Divergence (R360 to R362) -/

section
variable (dt o k q : Nat) (s : State)

theorem divergeReceive_counts :
    ∃ t, exec (.divergeReceive dt o k q) s = .next t ∧ t.get R.TWIN_CMP_TRANSIENT = (s.get R.TWIN_CMP_TRANSIENT + 1) % 65536 ∧
      t.get R.TWIN_CMP_LAST_SCOPE = o % 4 ∧ (o = 1 → t.get R.TWIN_CMP_LAST_CELL = k % 64) ∧ t.get R.TWIN_EVT_DIVERGE = 1 ∧
      Framed (regKeys 0 [R.TWIN_CMP_TRANSIENT, R.TWIN_CMP_LAST_SCOPE, R.TWIN_CMP_LAST_CELL, R.TWIN_EVT_DIVERGE]) (s.advance dt) t := by
  obtain ⟨hscope, hcell, hevt⟩ := ((s.advance dt).inc R.TWIN_CMP_TRANSIENT).mismatchNote_shows o k q 0
  refine ⟨_, rfl, ?_, hscope, hcell, hevt, State.mismatchNote_framed _ _ _ _ _ (by simp [regKeys, mismatchFlds])
    (set_framed _ _ _ _ (.inl (by simp [regKeys])) (.refl _ _))⟩
  exact (State.mismatchNote_get _ _ _ _ _ _ (by decide)).trans (State.get_set_same _ _ _ _)

theorem confirmReceive_faults :
    ∃ t, exec (.confirmReceive dt o k q) s = .next t ∧ t.get R.TWIN_CMP_CONFIRMED = 1 ∧ t.get R.TWIN_EVT_DIVERGE = 1 ∧
      t.get R.DEV_FAULT_CAUSE = 9 ∧ t.get R.DEV_EVT_FAULT = 1 := by
  obtain ⟨-, -, hdiv⟩ := ((s.advance dt).set R.TWIN_CMP_CONFIRMED 1).mismatchNote_shows o k q 1
  obtain ⟨hcause, -, hevt⟩ := (((s.advance dt).set R.TWIN_CMP_CONFIRMED 1).mismatchNote o k q 1).deviceFault_shows 9 0xFFFF
  refine ⟨_, rfl, ?_, (State.deviceFault_keeps _ _ _ _ (by decide) (by decide)).trans hdiv, hcause, hevt⟩
  rewrite [State.deviceFault_keeps _ _ _ _ (by decide) (by decide), State.mismatchNote_get _ _ _ _ _ _ (by decide)]
  exact State.get_set_same _ _ _ _

end

/-! ### Plausibility (R361) -/

section
variable (dt c i h : Nat) (d : Rat) (s : State)

/-- The difference of a class and an index is shown. -/
def State.plausShown (s : State) (c i : Nat) (d : Rat) : State := s.setU R.TWIN_PLAUS_STAT_DIFF d (c * 64 + i)

theorem State.plausShown_framed {ks : List Nat} (hk : loc R.TWIN_PLAUS_STAT_DIFF (c * 64 + i) ∈ ks) : Framed ks s (s.plausShown c i d) :=
  set_framed _ _ _ _ (.inl hk) (.refl _ s)

theorem twinPlaus_raises (hh : s.man.plausT * 1000000 ≤ h) (hb : s.plausBreach c d = true) :
    ∃ t, exec (.twinPlaus dt c i d h) s = .next t ∧ t.get R.TWIN_PLAUS_STAT_ALARM (c * 64 + i) = 1 ∧ t.get R.TWIN_STAT_PLAUS_ALARM = 1 ∧
      t.get R.TWIN_EVT_PLAUS = 1 ∧
      Framed [loc R.TWIN_PLAUS_STAT_ALARM (c * 64 + i), loc R.TWIN_PLAUS_STAT_DIFF (c * 64 + i), loc R.TWIN_STAT_PLAUS_ALARM 0, loc R.TWIN_EVT_PLAUS 0]
        (s.advance dt) t := by
  obtain ⟨items, hexec⟩ : ∃ items : List (Nat × Nat), exec (.twinPlaus dt c i d h) s = .next
      (((((((s.advance dt).plausShown c i d).set R.TWIN_PLAUS_STAT_ALARM 1 (c * 64 + i)).set R.TWIN_STAT_PLAUS_ALARM 1).evt R.TWIN_EVT_PLAUS).alarm
        0x110B (c * 64 + i) items 2)) := by
    refine ⟨[(1, c), (1, i), (3, ((s.advance dt).plausShown c i d).get R.TWIN_PLAUS_STAT_DIFF (c * 64 + i))], ?_⟩
    show execTwinPlaus dt c i d h s = _
    unfold execTwinPlaus
    exact (if_neg (Nat.not_lt.2 hh)).trans (if_pos hb)
  refine ⟨_, hexec, ?_, ?_, ?_, ?_⟩
  · rewrite [State.alarm_get _ _ _ _ _ _ noteFld_TWIN_PLAUS_STAT_ALARM, State.evt_get_ne _ _ _ noteFld_TWIN_PLAUS_STAT_ALARM (by decide),
      State.get_set_ne _ _ _ _ (by decide),
      State.get_set_same]
    rfl
  · rewrite [State.alarm_get _ _ _ _ _ _ (by decide), State.evt_get_ne _ _ _ (by decide) (by decide), State.get_set_same]
    rfl
  · exact (State.alarm_get _ _ _ _ _ _ (by decide)).trans (State.evt_get_same _ _ _ (by decide))
  · exact State.alarm_framed _ _ _ _ _ (State.evt_framed _ _ _ (.inl (by simp)) (set_framed _ _ _ _ (.inl (by simp))
      (set_framed _ _ _ _ (.inl (by simp)) ((s.advance dt).plausShown_framed c i d (by simp)))))

theorem twinPlaus_clears (hh : s.man.plausT * 1000000 ≤ h) (hb : s.plausBreach c d = false) (ha : s.get R.TWIN_PLAUS_STAT_ALARM (c * 64 + i) = 1) :
    ∃ t, exec (.twinPlaus dt c i d h) s = .next t ∧ t.get R.TWIN_PLAUS_STAT_ALARM (c * 64 + i) = 0 := by
  have hset : ((s.advance dt).plausShown c i d).flag R.TWIN_PLAUS_STAT_ALARM (c * 64 + i) = true :=
    decide_eq_true ((State.setU_get_ne _ _ (by decide) _).trans ha)
  obtain ⟨more, items, hexec⟩ : ∃ (more : Bool) (items : List (Nat × Nat)), exec (.twinPlaus dt c i d h) s = .next
      (((((s.advance dt).plausShown c i d).set R.TWIN_PLAUS_STAT_ALARM 0 (c * 64 + i)).setB R.TWIN_STAT_PLAUS_ALARM more).clearAlarm
        0x110B (c * 64 + i) items 2) := by
    refine ⟨(List.range 256).any fun x => (((s.advance dt).plausShown c i d).set R.TWIN_PLAUS_STAT_ALARM 0 (c * 64 + i)).flag R.TWIN_PLAUS_STAT_ALARM x,
      [(1, c), (1, i), (3, ((s.advance dt).plausShown c i d).get R.TWIN_PLAUS_STAT_DIFF (c * 64 + i))], ?_⟩
    show execTwinPlaus dt c i d h s = _
    unfold execTwinPlaus
    exact (if_neg (Nat.not_lt.2 hh)).trans ((if_neg (show ¬ ((s.advance dt).plausShown c i d).plausBreach c d = true from ne_of_eq_of_ne hb Bool.false_ne_true)).trans (if_pos hset))
  refine ⟨_, hexec, ?_⟩
  rewrite [State.clearAlarm_get _ _ _ _ _ _ noteFld_TWIN_PLAUS_STAT_ALARM, State.setB_eq, State.get_set_ne _ _ _ _ (by decide), State.get_set_same]
  rfl

theorem twinPlaus_early (hh : h < s.man.plausT * 1000000) :
    ∃ t, exec (.twinPlaus dt c i d h) s = .next t ∧ Framed [loc R.TWIN_PLAUS_STAT_DIFF (c * 64 + i)] (s.advance dt) t := by
  have hexec : exec (.twinPlaus dt c i d h) s = .next ((s.advance dt).plausShown c i d) := if_pos hh
  exact ⟨_, hexec, (s.advance dt).plausShown_framed c i d (List.mem_singleton.2 rfl)⟩

end

/-- Settles O49: the peer's status, divergence, the replay with its comparison and lag, and plausibility, each by the lemma of its case above. The
clauses of conditions that do not hold rest on log DESIGN CHOICE 1. -/
theorem twinSteps : Obligations.TwinSteps := by
  unfold Obligations.TwinSteps
  exact ⟨fun dt g l i v s ha hp hg => statusReceive_pairs dt g l i v s ha hp hg, fun dt g l i v s ha hp hg => statusReceive_unpairs dt g l i v s ha hp hg,
    fun dt g l i v s ha => statusReceive_standby dt g l i v s ha, divergeReceive_counts, confirmReceive_faults,
    fun dt q g k o w s hin hw hg => replayDone_inTime dt q g k o w s hin hw hg,
    fun dt q g k o w c s hin hg hc => replay_overLag dt q g k o w s c hin hg hc,
    fun dt q g k o c s hc hin => replay_outOfStep dt q g k o s c hc hin, standbyLagLimit_faults,
    fun dt s h => if_neg (by simp [Nat.not_le.2 h]), twinPlaus_raises, twinPlaus_clears, twinPlaus_early⟩

end Sys2Proof.Machine
end

section
set_option Elab.async false
/-!
PROOF of the statement of 15_twin_pairing.md about the links of a twin pair (TwinLinks): what a takeover's parts leave of the twin's and the
mode's registers, lanes, the takeover, and then the sidebands.
-/

namespace Sys2Proof.Machine

open Sys2Proof

/-! ### What a takeover leaves (R364 to R366) -/

/-- A field outside the blocks of the mode and of the twin. -/
abbrev OffTwin (f : Fld) : Prop := fkey f / 131072 ≠ 1 ∧ fkey f / 131072 ≠ 16

/-- A view that no part of a takeover changes, but for the registers of the mode and of the twin. -/
structure Handed {β : Type} (p : State → β) : Prop extends Unseen OffTwin p where
  pts : ∀ (u : State) x, p { u with pts := x } = p u
  mnf : ∀ (u : State) x, p { u with mnf := x } = p u
  clp : ∀ (u : State) x, p { u with clp := x } = p u
  eth : ∀ (u : State) x, p { u with eth := x } = p u
  yuz : ∀ (u : State) x, p { u with yuz := x } = p u
  pwr : ∀ (u : State) x, p { u with pwr := x } = p u
  records : ∀ (u : State) x, p { u with twin := { u.twin with records := x } } = p u

/-- A register of the mode or of the twin is such a view. -/
theorem handed_get {f : Fld} (b : Nat) (hn : noteFld f = false) (hf : ¬ OffTwin f) : Handed (fun u : State => u.get f b) :=
  ⟨unseen_get b hn fun g hg e => hf (by rewrite [OffTwin, e]; exact hg), fun _ _ => rfl, fun _ _ => rfl, fun _ _ => rfl, fun _ _ => rfl, fun _ _ => rfl,
    fun _ _ => rfl, fun _ _ => rfl⟩

theorem handed_tick : Handed State.tick :=
  ⟨⟨fun _ _ _ _ _ => rfl, fun _ _ h => (State.of_plain_tick h.plain :)⟩, fun _ _ => rfl, fun _ _ => rfl, fun _ _ => rfl, fun _ _ => rfl,
    fun _ _ => rfl, fun _ _ => rfl, fun _ _ => rfl⟩

theorem handed_now : Handed State.now :=
  ⟨⟨fun _ _ _ _ _ => rfl, fun _ _ h => (State.of_plain_now h.plain :)⟩, fun _ _ => rfl, fun _ _ => rfl, fun _ _ => rfl, fun _ _ => rfl,
    fun _ _ => rfl, fun _ _ => rfl, fun _ _ => rfl⟩

theorem handed_takeoverAt : Handed (fun u : State => u.time.takeoverAt) :=
  ⟨⟨fun _ _ _ _ _ => rfl, fun _ _ h => congrArg TimeSt.takeoverAt (State.of_plain_time h.plain)⟩, fun _ _ => rfl, fun _ _ => rfl, fun _ _ => rfl,
    fun _ _ => rfl, fun _ _ => rfl, fun _ _ => rfl, fun _ _ => rfl⟩

theorem handed_twin {β : Type} (g : TwinSt → β) (hg : ∀ (x : TwinSt) l, g { x with records := l } = g x) : Handed (fun u : State => g u.twin) :=
  ⟨⟨fun _ _ _ _ _ => rfl, fun _ _ h => congrArg g (State.of_plain_twin h.plain)⟩, fun _ _ => rfl, fun _ _ => rfl, fun _ _ => rfl,
    fun _ _ => rfl, fun _ _ => rfl, fun _ _ => rfl, fun _ _ => hg _ _⟩

section
variable {β : Type} {p : State → β} (h : Handed p) (s : State)
include h

theorem State.putPoint_handed (i v : Nat) (pm : Pm) (q : Quality) : p (s.putPoint i v pm q) = p s := by
  unfold State.putPoint
  dsimp only
  split
  · rfl
  · split
    · exact h.pts s _
    · exact (h.told _ _ (State.send_framed _ _ _ _ _ _ (.refl _ _))).trans (h.pts s _)

theorem State.rollReply_handed (n mark seq : Nat) : p (s.rollReply n mark seq) = p s := by
  unfold State.rollReply
  dsimp only
  split
  · rfl
  · split_ifs
    · exact h.record s _
    · rfl
    · exact h.record s _
    · exact (h.mnf _ _).trans (h.record s _)
    · exact h.mnf s _

theorem State.endTicks_handed (t : Nat) : p (s.endTicks t) = p s := by
  refine (h.records _ _).trans (foldl_keeps p _ (fun u r => ?_) s)
  unfold State.applyRec
  split
  · exact State.putPoint_handed h u _ _ _ _
  · exact h.told _ _ (State.send_framed _ _ _ _ _ _ (.refl _ _))
  · exact State.rollReply_handed h u _ _ _
  · rfl

theorem State.lullExit_handed (c : Nat) : p (s.lullExit c) = p s := by
  unfold State.lullExit
  split
  · rfl
  · dsimp only
    rewrite [h.record, h.evt _ _ _ (by decide), State.setSat_eq, h.set _ _ _ _ (by decide), h.set _ _ _ _ (by decide)]
    exact h.pwr s _

theorem State.handoverMiss_handed (c : Nat) : p (s.handoverMiss c) = p s := by
  unfold State.handoverMiss
  split
  · exact (h.evt _ _ _ (by decide)).trans (h.set _ _ _ _ (by decide))
  · rfl

theorem State.canTakeover_handed : p s.canTakeover = p s := by
  refine foldl_keeps p _ (fun u x => ?_) s
  split
  · rfl
  · exact (h.record _ _).trans (h.set _ _ _ _ (by decide))

theorem State.ethNext_handed (q : Nat) : p (s.ethNext q) = p s := by
  have htry (u : State) (k : Nat) : p (u.ethTry q k) = p u := by
    unfold State.ethTry
    dsimp only
    split
    · split_ifs
      · exact h.eth u _
      · rfl
      · exact (h.set _ R.ETH_TX_CNT_GUARD_HOLDS _ _ (by decide)).trans (h.eth u _)
    · rfl
  unfold State.ethNext
  split
  · rfl
  · exact foldl_keeps p _ htry s

theorem State.ethTakeover_handed : p s.ethTakeover = p s := by
  refine foldl_keeps p _ (fun u x => ?_) s
  split
  · exact (State.ethNext_handed h _ _).trans (h.set _ _ _ _ (by decide))
  · rfl

theorem State.hartEnd_handed (m : Nat) (ok : Bool) : p (s.hartEnd m ok) = p s := by
  unfold State.hartEnd
  extract_lets x s₁ s₂ old bit s₃
  have h₁ : p s₁ = p s := (h.set _ _ _ _ (by decide)).trans (h.clp s _)
  have h₂ : p s₂ = p s₁ := by
    simp only [s₂]
    split
    · exact h.set _ _ _ _ (by decide)
    · rfl
  rw [State.inc_eq, h.set _ _ _ _ (by decide), h.set _ _ _ _ (by decide), h₂, h₁]

theorem State.hartFail_handed (m : Nat) (t : HartTx) (rc : Nat) : p (s.hartFail m t rc) = p s := by
  unfold State.hartFail
  dsimp only
  rewrite [State.hartEnd_handed h, h.record, h.evt _ _ _ (by decide), State.inc_eq, h.set _ _ _ _ (by decide)]
  exact h.clp s _

theorem State.hartHandover_handed : p s.hartHandover = p s := by
  refine foldl_keeps p _ (fun u x => ?_) s
  split
  · split
    · exact h.clp u _
    · exact State.hartFail_handed h u _ _ _
  · rfl

theorem State.yuzTakeover_handed : p s.yuzTakeover = p s := by
  have hfin : Unseen (· ∈ batchLastFlds ++ batchNumFlds ++ runStatFlds) p := h.mono (by decide)
  unfold State.yuzTakeover
  split
  · exact (h.yuz _ _).trans (State.yuzFinish_keeps s _ hfin h.yuz _ _ _ _)
  · exact h.yuz s _

end

/-! ### Taking over -/

/-- The registers of a takeover. -/
def State.takeoverShown (s : State) (via wait : Nat) : State :=
  let s := ((s.set R.TWIN_STAT_ACTIVE_OUT 1).set R.MODE_STAT_ACTIVE 1).set R.TWIN_STAT_STATE 0
  let s := ((s.set R.TWIN_HO_CAUSE (if via = 0 then s.twin.giveUpCause else 0)).set R.TWIN_HO_GAINED 1).set R.TWIN_HO_VIA via
  (s.setSat R.TWIN_HO_WAIT_NS wait).inc R.TWIN_COUNT_HANDOVERS

/-- The tick of a takeover begins, and nothing of the active's waits any more. -/
def State.takeoverBegun (s : State) : State :=
  { s with outHeld := s.mode = 1, time := { s.time with takeoverAt := some s.now }, tick := s.tick + 1
           twin := { s.twin with hoTick := s.tick + 2, giveUpRxAt := none, records := [], seals := [] } }

/-- A takeover is told of. -/
def State.takeoverTold (s : State) (missed : List Nat) (via : Nat) : State :=
  let s := missed.foldl (fun (s : State) c => s.handoverMiss c) s
  (s.evt R.TWIN_EVT_HANDOVER).record
    { code := 0x1104, items := [(1, via), (2, s.get R.TWIN_HO_WAIT_NS), (8, s.twin.hoTick), (6, (missed.map fun c => 2 ^ c).sum)], key := 1 }

/-- The blocks that drive from their own state from now on. -/
def State.takeoverBlocks (s : State) : State := ((((s.ppsNext).canTakeover).ethTakeover).hartHandover).yuzTakeover

/-- How a takeover came about: 0 by GIVE-UP, 1 by silence. -/
def State.takeoverVia (s : State) : Nat := if s.twin.giveUpRxAt.isSome then 0 else 1

/-- A takeover as a whole. -/
def State.takesOver (s : State) (wait : Nat) (missed : List Nat) : State :=
  (((((s.endTicks (s.tick + 1)).lullExit 13).takeoverShown s.takeoverVia wait).takeoverBegun.takeoverTold missed s.takeoverVia).takeoverBlocks).unpairedAlarm
    (if s.takeoverVia = 0 then 1 else 3)

theorem exec_takeover (dt a p : Nat) (l : List Nat) (s : State) : exec (.takeover dt a p l) s =
    if !(s.advance dt).inStep || !(s.advance dt).flag R.TWIN_STAT_PEER_OK_OUT || !(s.advance dt).takeoverDue a p then .next (s.advance dt)
    else .next ((s.advance dt).takesOver a l) := rfl

section
variable (s : State)

theorem State.takeoverBlocks_handed {β : Type} {p : State → β} (h : Handed p) : p s.takeoverBlocks = p s := by
  unfold State.takeoverBlocks State.ppsNext
  rw [State.yuzTakeover_handed h, State.hartHandover_handed h, State.ethTakeover_handed h, State.canTakeover_handed h, State.setB_eq,
    h.set _ _ _ _ (by decide)]

theorem State.takeoverTold_handed {β : Type} {p : State → β} (h : Handed p) (hevt : ∀ (u : State), p (u.evt R.TWIN_EVT_HANDOVER) = p u) (missed : List Nat)
    (via : Nat) : p (s.takeoverTold missed via) = p s := by
  unfold State.takeoverTold
  dsimp only
  rewrite [h.record, hevt]
  exact foldl_keeps p _ (fun u c => State.handoverMiss_handed h u c) s

/-- The registers of the twin and of the mode that a takeover begins with. -/
theorem State.takeoverShown_shows (via wait : Nat) (hv : via < 2) : (s.takeoverShown via wait).isActive = true ∧
    (s.takeoverShown via wait).get R.TWIN_STAT_ACTIVE_OUT = 1 ∧ (s.takeoverShown via wait).get R.TWIN_STAT_STATE = 0 ∧
    (s.takeoverShown via wait).get R.TWIN_HO_GAINED = 1 ∧ (s.takeoverShown via wait).get R.TWIN_HO_VIA = via ∧
    (s.takeoverShown via wait).get R.TWIN_HO_CAUSE = (if via = 0 then s.twin.giveUpCause else 0) % 16 ∧
    (s.takeoverShown via wait).get R.TWIN_COUNT_HANDOVERS = (s.get R.TWIN_COUNT_HANDOVERS + 1) % 65536 ∧
    (s.takeoverShown via wait).get R.MODE_STAT_MODE = s.get R.MODE_STAT_MODE := by
  unfold State.isActive State.flag State.takeoverShown
  simp (disch := decide) only [State.inc_eq, State.setSat_eq, State.get_set_ne, State.get_set_same, State.set_twin]
  exact ⟨rfl, rfl, rfl, rfl, Nat.mod_eq_of_lt hv, rfl, rfl, trivial⟩

/-- What a takeover leaves and shows. -/
theorem State.takesOver_get (wait : Nat) (missed : List Nat) {f : Fld} (hn : noteFld f = false) (hf : ¬ OffTwin f)
    (he : fkey f ≠ fkey R.TWIN_EVT_HANDOVER) (hu : fkey f ≠ fkey R.TWIN_EVT_UNPAIRED) (hp : fkey f ≠ fkey R.MODE_STAT_PAIRED) :
    (s.takesOver wait missed).get f = (((s.endTicks (s.tick + 1)).lullExit 13).takeoverShown s.takeoverVia wait).get f := by
  have h := handed_get 0 hn hf
  exact (State.unpairedAlarm_get _ _ hn hu hp).trans ((State.takeoverBlocks_handed _ h).trans
    (State.takeoverTold_handed _ h (fun u => State.evt_get_ne _ _ _ hn he) missed _))

theorem State.takesOver_view {β : Type} {p : State → β} (h : Handed p) (hevt : ∀ (u : State), p (u.evt R.TWIN_EVT_HANDOVER) = p u)
    (hu : ∀ (u : State) r, p (u.unpairedAlarm r) = p u) (wait : Nat) (missed : List Nat) :
    p (s.takesOver wait missed) = p (((s.endTicks (s.tick + 1)).lullExit 13).takeoverShown s.takeoverVia wait).takeoverBegun :=
  (hu _ _).trans ((State.takeoverBlocks_handed _ h).trans (State.takeoverTold_handed _ h hevt missed _))

end

section
variable (dt a p : Nat) (l : List Nat) (s : State)

theorem takeover_takes (hin : s.inStep = true) (hok : s.get R.TWIN_STAT_PEER_OK_OUT = 1) (hdue : (s.advance dt).takeoverDue a p = true) :
    ∃ t, exec (.takeover dt a p l) s = .next t ∧ t.isActive = true ∧ t.get R.TWIN_STAT_ACTIVE_OUT = 1 ∧ t.get R.TWIN_STAT_STATE = 0 ∧
      t.isPaired = false ∧ t.tick = s.tick + 1 ∧ t.twin.hoTick = s.tick + 2 ∧ t.get R.TWIN_HO_GAINED = 1 ∧
      t.get R.TWIN_HO_VIA = (if s.twin.giveUpRxAt.isSome then 0 else 1) ∧
      t.get R.TWIN_HO_CAUSE = (if s.twin.giveUpRxAt.isSome then s.twin.giveUpCause % 16 else 0) ∧
      t.get R.TWIN_COUNT_HANDOVERS = (s.get R.TWIN_COUNT_HANDOVERS + 1) % 65536 ∧ t.get R.TWIN_EVT_HANDOVER = 1 ∧ t.mode = s.mode ∧
      t.time.takeoverAt = some (s.now + dt) := by
  have hina : (s.advance dt).inStep = true := hin
  have hoka : (s.advance dt).flag R.TWIN_STAT_PEER_OK_OUT = true := decide_eq_true hok
  have hexec := exec_takeover dt a p l s
  rewrite [if_neg (by simp [hina, hoka, hdue])] at hexec
  have hvia : (s.advance dt).takeoverVia < 2 := by
    unfold State.takeoverVia
    split <;> decide
  generalize hu : ((s.advance dt).endTicks ((s.advance dt).tick + 1)).lullExit 13 = u
  have hpre {β : Type} {q : State → β} (h : Handed q) : q u = q (s.advance dt) := by
    rw [← hu, State.lullExit_handed h, State.endTicks_handed h]
  obtain ⟨hact, hout, hstate, hgain, hviaG, hcause, hcount, hmode⟩ := u.takeoverShown_shows (s.advance dt).takeoverVia a hvia
  have hget {f : Fld} (hn : noteFld f = false) (hf : ¬ OffTwin f) (he : fkey f ≠ fkey R.TWIN_EVT_HANDOVER) (hp : fkey f ≠ fkey R.TWIN_EVT_UNPAIRED)
      (hq : fkey f ≠ fkey R.MODE_STAT_PAIRED) : ((s.advance dt).takesOver a l).get f = (u.takeoverShown (s.advance dt).takeoverVia a).get f := by
    rewrite [← hu]
    exact (s.advance dt).takesOver_get a l hn hf he hp hq
  have hview {β : Type} {q : State → β} (h : Handed q) (hevt : ∀ (u : State), q (u.evt R.TWIN_EVT_HANDOVER) = q u)
      (hq : ∀ (u : State) r, q (u.unpairedAlarm r) = q u) : q ((s.advance dt).takesOver a l) = q (u.takeoverShown (s.advance dt).takeoverVia a).takeoverBegun := by
    rewrite [← hu]
    exact (s.advance dt).takesOver_view h hevt hq a l
  have htick : u.tick = s.tick := hpre handed_tick
  refine ⟨_, hexec, ?_, ?_, ?_, State.unpairedAlarm_isPaired _ _, ?_, ?_, ?_, ?_, ?_, ?_, ?_, ?_, ?_⟩
  · unfold State.isActive State.flag at hact ⊢
    rewrite [hget (by decide) (by decide) (by decide) (by decide) (by decide)]
    exact hact
  · rw [hget (by decide) (by decide) (by decide) (by decide) (by decide), hout]
  · rw [hget noteFld_TWIN_STAT_STATE (by decide) (by decide) (by decide) (by decide), hstate]
  · rewrite [hview handed_tick (fun u => State.evt_tick _ _ _) State.unpairedAlarm_tick]
    exact congrArg (· + 1) htick
  · rewrite [hview (q := fun v => v.twin.hoTick) (handed_twin TwinSt.hoTick fun _ _ => rfl)
      (fun u => by rw [State.evt_twin]) fun u r => by rw [State.unpairedAlarm_twin]]
    exact congrArg (· + 2) htick
  · rw [hget (by decide) (by decide) (by decide) (by decide) (by decide), hgain]
  · rewrite [hget (by decide) (by decide) (by decide) (by decide) (by decide), hviaG]
    rfl
  · rewrite [hget (by decide) (by decide) (by decide) (by decide) (by decide), hcause, hpre (handed_twin TwinSt.giveUpCause fun _ _ => rfl)]
    by_cases hsome : s.twin.giveUpRxAt.isSome
    · rewrite [show (s.advance dt).takeoverVia = 0 from if_pos hsome, if_pos rfl, if_pos hsome]
      rfl
    · rw [show (s.advance dt).takeoverVia = 1 from if_neg hsome, if_neg (by decide), if_neg hsome]
  · rewrite [hget (by decide) (by decide) (by decide) (by decide) (by decide), hcount, hpre (handed_get 0 (by decide) (by decide))]
    rfl
  · refine (State.unpairedAlarm_get _ _ noteFld_TWIN_EVT_HANDOVER (by decide) (by decide)).trans
      ((State.takeoverBlocks_handed _ (handed_get 0 noteFld_TWIN_EVT_HANDOVER (by decide))).trans ?_)
    exact (State.record_get _ _ _ noteFld_TWIN_EVT_HANDOVER).trans (State.evt_get_same _ _ _ noteFld_TWIN_EVT_HANDOVER)
  · unfold State.mode
    rewrite [hget (by decide) (by decide) (by decide) (by decide) (by decide), hmode, hpre (handed_get 0 (by decide) (by decide))]
    rfl
  · rewrite [hview handed_takeoverAt (fun u => by rw [State.evt_time]) fun u r => by simp [State.unpairedAlarm]]
    exact congrArg some (hpre handed_now)

theorem takeover_quiet (h : s.inStep = false ∨ s.get R.TWIN_STAT_PEER_OK_OUT = 0 ∨ (s.advance dt).takeoverDue a p = false) :
    exec (.takeover dt a p l) s = .next (s.advance dt) := by
  rewrite [exec_takeover]
  refine if_pos ?_
  rcases h with h | h | h
  · rewrite [show (s.advance dt).inStep = false from h]
    rfl
  · rewrite [show (s.advance dt).flag R.TWIN_STAT_PEER_OK_OUT = false from decide_eq_false (by rewrite [State.advance_get, h]; decide)]
    simp
  · simp [h]

end

/-! ### Lanes (R353, R367, R368) -/

/-- A lane has gone down: the lanes left, and the alarm. -/
def State.laneLost (s : State) (lane : Nat) (a : Bool) : State :=
  let s := s.setB R.TWIN_STAT_ACTIVE_IN a
  let s := (s.set R.TWIN_STAT_LANES (s.get R.TWIN_STAT_LANES ^^^ laneBit lane)).incSat R.TWIN_LINK_LANE_DOWNS
  (s.evt R.TWIN_EVT_LANE).alarm 0x1109 lane [(1, lane)]

/-- The link is silent from now on. -/
def State.linkSilent (s : State) : State := { s with twin := { s.twin with silentAt := some s.now } }

section
variable (s : State)

theorem State.becomeUnpaired_get (reason : Nat) {f : Fld} (hn : noteFld f = false) (he : fkey f ≠ fkey R.TWIN_EVT_UNPAIRED)
    (hp : fkey f ≠ fkey R.MODE_STAT_PAIRED) (hs : fkey f ≠ fkey R.TWIN_STAT_STATE) : (s.becomeUnpaired reason).get f = s.get f :=
  (State.unpairedAlarm_get _ _ hn he hp).trans (State.get_set_ne _ _ _ _ hs)

theorem State.linkSilent_get (f : Fld) (b : Nat) : s.linkSilent.get f b = s.get f b := rfl

theorem State.linkSilent_isActive : s.linkSilent.isActive = s.isActive := rfl

theorem State.linkSilent_isPaired : s.linkSilent.isPaired = s.isPaired := rfl

theorem State.linkSilent_inStep : s.linkSilent.inStep = s.inStep := rfl

end

theorem laneBit_cases (l : Nat) : laneBit l = 1 ∨ laneBit l = 2 := by
  unfold laneBit
  split
  · exact .inl rfl
  · exact .inr rfl

section
variable (dt l : Nat) (a : Bool) (s : State)

theorem State.laneLost_shows : (s.laneLost l a).get R.TWIN_STAT_LANES = (s.get R.TWIN_STAT_LANES ^^^ laneBit l) % 4 ∧
    (s.laneLost l a).get R.TWIN_LINK_LANE_DOWNS = min 255 (s.get R.TWIN_LINK_LANE_DOWNS + 1) ∧ (s.laneLost l a).get R.TWIN_EVT_LANE = 1 ∧
    (s.laneLost l a).get R.TWIN_STAT_ACTIVE_IN = if a then 1 else 0 := by
  unfold State.laneLost
  dsimp only
  refine ⟨?_, ?_, ?_, ?_⟩
  · rewrite [State.alarm_get _ _ _ _ _ _ noteFld_TWIN_STAT_LANES, State.evt_get_ne _ _ _ noteFld_TWIN_STAT_LANES (by decide), State.incSat_eq,
      State.get_set_ne _ _ _ _ (by decide),
      State.get_set_same, State.setB_eq, State.get_set_ne _ _ _ _ (by decide)]
    rfl
  · rewrite [State.alarm_get _ _ _ _ _ _ (by decide), State.evt_get_ne _ _ _ (by decide) (by decide), State.incSat_get_same,
      State.get_set_ne _ _ _ _ (by decide), State.setB_eq, State.get_set_ne _ _ _ _ (by decide)]
    rfl
  · exact (State.alarm_get _ _ _ _ _ _ (by decide)).trans (State.evt_get_same _ _ _ (by decide))
  · rw [State.alarm_get _ _ _ _ _ _ (by decide), State.evt_get_ne _ _ _ (by decide) (by decide), State.incSat_eq, State.get_set_ne _ _ _ _ (by decide),
      State.get_set_ne _ _ _ _ (by decide), State.get_setB_same _ _ _ _ rfl]

/-- The fields that a lost lane writes. -/
def laneFlds : List Fld := [R.TWIN_STAT_LANES, R.TWIN_LINK_LANE_DOWNS, R.TWIN_EVT_LANE, R.TWIN_STAT_ACTIVE_IN]

theorem State.laneLost_framed : Framed (regKeys 0 laneFlds) s (s.laneLost l a) :=
  State.alarm_framed _ _ _ _ _ (State.evt_framed _ _ _ (.inl (by simp [regKeys, laneFlds])) (set_framed _ _ _ _ (.inl (by simp [regKeys, laneFlds]))
    (set_framed _ _ _ _ (.inl (by simp [regKeys, laneFlds])) (setB_framed _ _ _ _ (.inl (by simp [regKeys, laneFlds])) (.refl _ s)))))

theorem State.laneLost_get {f : Fld} (hf : apartFrom laneFlds f = true) : (s.laneLost l a).get f = s.get f := by
  have hne {g : Fld} (hg : g ∈ laneFlds) : loc f 0 ≠ loc g 0 := loc_ne (apartFrom_ne hf hg) _ _
  refine (s.laneLost_framed l a).get_eq 0 (noteFld_of_apartFrom hf) ?_
  simp only [regKeys, laneFlds, List.map_cons, List.map_nil, List.mem_cons, List.not_mem_nil, or_false, not_or]
  exact ⟨hne (by simp [laneFlds]), hne (by simp [laneFlds]), hne (by simp [laneFlds]), hne (by simp [laneFlds])⟩

theorem State.laneLost_isActive : (s.laneLost l a).isActive = s.isActive := by
  unfold State.isActive State.flag
  rw [State.laneLost_get _ _ _ (by decide)]

theorem State.laneLost_isPaired : (s.laneLost l a).isPaired = s.isPaired := by
  unfold State.isPaired State.flag
  rw [State.laneLost_get _ _ _ (by decide)]

theorem State.laneLost_inStep : (s.laneLost l a).inStep = s.inStep := by
  unfold State.inStep
  rw [State.laneLost_isActive, State.laneLost_get _ _ _ (by decide)]

/-- A lane that was up goes down; with the last one the link is silent, and what follows is for the device's role. -/
theorem exec_laneDown : exec (.laneDown dt l a) s =
    if ((s.advance dt).setB R.TWIN_STAT_ACTIVE_IN a).get R.TWIN_STAT_LANES &&& laneBit l = 0 then .next ((s.advance dt).setB R.TWIN_STAT_ACTIVE_IN a)
    else if ((s.advance dt).setB R.TWIN_STAT_ACTIVE_IN a).get R.TWIN_STAT_LANES ^^^ laneBit l ≠ 0 then .next ((s.advance dt).laneLost l a)
    else if ((s.advance dt).laneLost l a).linkSilent.isActive then
      (if ((s.advance dt).laneLost l a).linkSilent.isPaired then .next (((s.advance dt).laneLost l a).linkSilent.becomeUnpaired 3)
        else .next ((s.advance dt).laneLost l a).linkSilent)
    else if ((s.advance dt).laneLost l a).linkSilent.inStep && a then .next (((s.advance dt).laneLost l a).linkSilent.detach 1)
    else if ((s.advance dt).laneLost l a).linkSilent.get R.TWIN_STAT_STATE = 3 && ((s.advance dt).laneLost l a).linkSilent.mode ≠ 1
    then .next (((s.advance dt).laneLost l a).linkSilent.detach 2)
    else .next ((s.advance dt).laneLost l a).linkSilent := by
  show execLaneDown dt l a s = _
  unfold execLaneDown State.laneLost State.linkSilent
  rfl

theorem lanes_read : ((s.advance dt).setB R.TWIN_STAT_ACTIVE_IN a).get R.TWIN_STAT_LANES = s.get R.TWIN_STAT_LANES := by
  rewrite [State.setB_eq, State.get_set_ne _ _ _ _ (by decide)]
  rfl

theorem laneDown_oneLeft (h : s.get R.TWIN_STAT_LANES = 3) :
    ∃ t, exec (.laneDown dt l a) s = .next t ∧ t.get R.TWIN_STAT_LANES = 3 - laneBit l ∧
      t.get R.TWIN_LINK_LANE_DOWNS = min 255 (s.get R.TWIN_LINK_LANE_DOWNS + 1) ∧
      t.get R.TWIN_EVT_LANE = 1 ∧ t.get R.TWIN_STAT_ACTIVE_IN = (if a then 1 else 0) ∧ t.twin = s.twin ∧
      Framed (regKeys 0 [R.TWIN_STAT_LANES, R.TWIN_LINK_LANE_DOWNS, R.TWIN_EVT_LANE, R.TWIN_STAT_ACTIVE_IN]) (s.advance dt) t := by
  have hexec := exec_laneDown dt l a s
  rewrite [lanes_read, h] at hexec
  obtain ⟨hlanes, hdowns, hevt, hin⟩ := (s.advance dt).laneLost_shows l a
  have hframed := (s.advance dt).laneLost_framed l a
  rewrite [State.advance_get, h] at hlanes
  refine ⟨(s.advance dt).laneLost l a, ?_, ?_, hdowns, hevt, hin, (State.of_plain_twin hframed.plain :), hframed⟩
  · rewrite [hexec]
    rcases laneBit_cases l with h₁ | h₁ <;> rewrite [h₁] <;> rfl
  · rewrite [hlanes]
    rcases laneBit_cases l with h₁ | h₁ <;> rewrite [h₁] <;> rfl

section
variable (h : s.get R.TWIN_STAT_LANES = laneBit l)
include h

/-- The last lane goes down. -/
theorem exec_laneDown_last : exec (.laneDown dt l a) s =
    if s.isActive then (if s.isPaired then .next (((s.advance dt).laneLost l a).linkSilent.becomeUnpaired 3)
        else .next ((s.advance dt).laneLost l a).linkSilent)
    else if s.inStep && a then .next (((s.advance dt).laneLost l a).linkSilent.detach 1)
    else if ((s.advance dt).laneLost l a).linkSilent.get R.TWIN_STAT_STATE = 3 && ((s.advance dt).laneLost l a).linkSilent.mode ≠ 1
    then .next (((s.advance dt).laneLost l a).linkSilent.detach 2)
    else .next ((s.advance dt).laneLost l a).linkSilent := by
  have hact : ((s.advance dt).laneLost l a).linkSilent.isActive = s.isActive :=
    (State.linkSilent_isActive _).trans ((s.advance dt).laneLost_isActive l a)
  have hpair : ((s.advance dt).laneLost l a).linkSilent.isPaired = s.isPaired :=
    (State.linkSilent_isPaired _).trans ((s.advance dt).laneLost_isPaired l a)
  have hstep : ((s.advance dt).laneLost l a).linkSilent.inStep = s.inStep :=
    (State.linkSilent_inStep _).trans ((s.advance dt).laneLost_inStep l a)
  rw [exec_laneDown, lanes_read, h, if_neg, if_neg, hact, hpair, hstep]
  · simp
  · rcases laneBit_cases l with h₁ | h₁ <;> rewrite [h₁] <;> decide

theorem State.laneLost_none : ((s.advance dt).laneLost l a).get R.TWIN_STAT_LANES = 0 := by
  obtain ⟨hlanes, -⟩ := (s.advance dt).laneLost_shows l a
  rw [hlanes, State.advance_get, h, Nat.xor_self]

theorem laneDown_detaches (hin : s.inStep = true) (ha : a = true) :
    ∃ t, exec (.laneDown dt l a) s = .next t ∧ t.get R.TWIN_STAT_LANES = 0 ∧ t.get R.TWIN_STAT_STATE = 5 ∧ t.isPaired = false ∧
      t.get R.TWIN_STAT_PEER_OK_OUT = 0 ∧ t.get R.TWIN_COUNT_DETACHES = (s.get R.TWIN_COUNT_DETACHES + 1) % 65536 ∧
      t.twin.silentAt = some (s.now + dt) ∧ t.get R.TWIN_EVT_DETACH = 1 ∧ t.isActive = false := by
  have hact : s.isActive = false := by
    have h' := hin
    unfold State.inStep at h'
    simpa using ((Bool.and_eq_true _ _).mp h').2
  have hexec := exec_laneDown_last dt l a s h
  rewrite [if_neg (by simp [hact]), if_pos (by simp [hin, ha])] at hexec
  have hnone := State.laneLost_none dt l a s h
  have hlact := (s.advance dt).laneLost_isActive l a
  have hcount := (s.advance dt).laneLost_get l a (f := R.TWIN_COUNT_DETACHES) (by decide)
  have hnow : ((s.advance dt).laneLost l a).now = s.now + dt := (State.of_plain_now ((s.advance dt).laneLost_framed l a).plain :)
  refine ⟨_, hexec, ?_⟩
  generalize (s.advance dt).laneLost l a = u at hnone hlact hcount hnow
  have htwin (v : State) (x : TwinSt) {f : Fld} (c : Nat) : State.get { v with twin := x } f c = v.get f c := rfl
  unfold State.isPaired State.isActive State.flag State.detach
  dsimp only
  simp (disch := decide) only [State.record_get, State.evt_get_ne, State.evt_get_same, htwin, State.inc_eq, State.get_set_ne, State.get_set_same,
    State.record_twin, State.evt_twin]
  refine ⟨hnone, rfl, rfl, rfl, ?_, congrArg some hnow, rfl, ?_⟩
  · exact congrArg (fun n => (n + 1) % 65536) hcount
  · exact hlact.trans hact

theorem laneDown_unpairs (ha : s.isActive = true) (hp : s.isPaired = true) :
    ∃ t, exec (.laneDown dt l a) s = .next t ∧ t.get R.TWIN_STAT_LANES = 0 ∧ t.isPaired = false ∧ t.isActive = true ∧ t.get R.TWIN_STAT_STATE = 0 := by
  have hexec := exec_laneDown_last dt l a s h
  rewrite [if_pos ha, if_pos hp] at hexec
  obtain ⟨hpaired, hstate, hactive, -⟩ := ((s.advance dt).laneLost l a).linkSilent.becomeUnpaired_shows 3
  refine ⟨_, hexec, ?_, hpaired, hactive.trans ((State.linkSilent_isActive _).trans (((s.advance dt).laneLost_isActive l a).trans ha)), hstate⟩
  rewrite [State.becomeUnpaired_get _ _ noteFld_TWIN_STAT_LANES (by decide) (by decide) (by decide), State.linkSilent_get]
  exact State.laneLost_none dt l a s h

end

theorem laneRetrain_up (h : s.get R.TWIN_STAT_LANES &&& laneBit l = 0) :
    ∃ t, exec (.laneRetrain dt l true) s = .next t ∧ t.get R.TWIN_STAT_LANES = (s.get R.TWIN_STAT_LANES ||| laneBit l) % 4 ∧
      t.twin = { s.twin with silentAt := none } ∧ Framed [loc R.TWIN_STAT_LANES 0] { s.advance dt with twin := t.twin } t := by
  have hframed : Framed [loc R.TWIN_STAT_LANES 0] { s.advance dt with twin := { s.twin with silentAt := none } }
      { (s.advance dt).set R.TWIN_STAT_LANES (s.get R.TWIN_STAT_LANES ||| laneBit l) with twin := { s.twin with silentAt := none } } :=
    (set_framed _ _ _ _ (.inl (List.mem_singleton.2 rfl)) (.refl _ _)).withTwin _
  have hexec : exec (.laneRetrain dt l true) s =
      if (findAlarm s.alarms 0x1109 l).isSome
      then .next (State.clearAlarm { (s.advance dt).set R.TWIN_STAT_LANES (s.get R.TWIN_STAT_LANES ||| laneBit l) with
        twin := { s.twin with silentAt := none } } 0x1109 l [(1, l)])
      else .next { (s.advance dt).set R.TWIN_STAT_LANES (s.get R.TWIN_STAT_LANES ||| laneBit l) with twin := { s.twin with silentAt := none } } :=
    if_neg (by simp [h])
  rewrite [hexec]
  split
  · refine ⟨_, rfl, ?_, State.clearAlarm_twin _ _ _ _ _, ?_⟩
    · rewrite [State.clearAlarm_get _ _ _ _ _ _ noteFld_TWIN_STAT_LANES]
      exact State.get_set_same _ _ _ _
    · rewrite [State.clearAlarm_twin]
      exact State.clearAlarm_framed _ _ _ _ _ hframed
  · exact ⟨_, rfl, State.get_set_same _ _ _ _, rfl, hframed⟩

end

/-! ### Sidebands (R364, R368) -/

section
variable (dt : Nat) (s : State)

theorem State.sidebandAlarm_shows (b : Bool) : (s.sidebandAlarm b).get R.TWIN_STAT_SIDEBAND_FAULT = 1 ∧ (s.sidebandAlarm b).get R.TWIN_EVT_SIDEBAND = 1 ∧
    (s.sidebandAlarm b).get R.TWIN_STAT_ACTIVE_IN = s.get R.TWIN_STAT_ACTIVE_IN ∧
    (s.sidebandAlarm b).get R.TWIN_STAT_PEER_OK_IN = s.get R.TWIN_STAT_PEER_OK_IN ∧
    (s.sidebandAlarm b).get R.MODE_STAT_ACTIVE = s.get R.MODE_STAT_ACTIVE := by
  unfold State.sidebandAlarm
  simp (disch := decide) only [State.alarm_get, State.evt_get_ne, State.evt_get_same, State.get_set_ne, State.get_set_same]
  exact ⟨rfl, rfl, trivial, trivial, trivial⟩

theorem State.sidebandAlarm_framed (b : Bool) {ks : List Nat} {s₀ : State} (hks : regKeys 0 [R.TWIN_STAT_SIDEBAND_FAULT, R.TWIN_EVT_SIDEBAND] ⊆ ks)
    (h : Framed ks s₀ s) : Framed ks s₀ (s.sidebandAlarm b) :=
  State.alarm_framed _ _ _ _ _ (State.evt_framed _ _ _ (.inl (hks (by simp [regKeys]))) (set_framed _ _ _ _ (.inl (hks (by simp [regKeys]))) h))

theorem exec_sidebandTimeout (t₀ : Nat) (hg : s.twin.giveUpRxAt = some t₀) : exec (.sidebandTimeout dt) s =
    if s.inStep && t₀ + 20000 ≤ s.now + dt
    then .next ((((s.advance dt).set R.TWIN_STAT_ACTIVE_IN 1).set R.TWIN_STAT_PEER_OK_IN 1).sidebandAlarm true) else .next (s.advance dt) := by
  show execSidebandTimeout dt s = _
  unfold execSidebandTimeout
  dsimp only
  rewrite [show (s.advance dt).twin.giveUpRxAt = some t₀ from hg]
  rfl

theorem sidebandTimeout_raises (t₀ : Nat) (hg : s.twin.giveUpRxAt = some t₀) (hin : s.inStep = true) (hat : t₀ + 20000 ≤ s.now + dt) :
    ∃ t, exec (.sidebandTimeout dt) s = .next t ∧ t.get R.TWIN_STAT_SIDEBAND_FAULT = 1 ∧ t.get R.TWIN_EVT_SIDEBAND = 1 ∧
      t.get R.TWIN_STAT_ACTIVE_IN = 1 ∧ t.get R.TWIN_STAT_PEER_OK_IN = 1 ∧ t.twin = s.twin ∧
      Framed (regKeys 0 [R.TWIN_STAT_SIDEBAND_FAULT, R.TWIN_EVT_SIDEBAND, R.TWIN_STAT_ACTIVE_IN, R.TWIN_STAT_PEER_OK_IN]) (s.advance dt) t := by
  obtain ⟨hfault, hevt, hact, hok, -⟩ := (((s.advance dt).set R.TWIN_STAT_ACTIVE_IN 1).set R.TWIN_STAT_PEER_OK_IN 1).sidebandAlarm_shows true
  have hframed : Framed (regKeys 0 [R.TWIN_STAT_SIDEBAND_FAULT, R.TWIN_EVT_SIDEBAND, R.TWIN_STAT_ACTIVE_IN, R.TWIN_STAT_PEER_OK_IN]) (s.advance dt)
      ((((s.advance dt).set R.TWIN_STAT_ACTIVE_IN 1).set R.TWIN_STAT_PEER_OK_IN 1).sidebandAlarm true) :=
    State.sidebandAlarm_framed _ _ (by simp [regKeys]) (set_framed _ _ _ _ (.inl (by simp [regKeys])) (set_framed _ _ _ _ (.inl (by simp [regKeys]))
      (.refl _ _)))
  exact ⟨_, (exec_sidebandTimeout dt s t₀ hg).trans (if_pos (by simp [hin, hat])), hfault, hevt,
    hact.trans ((State.get_set_ne _ _ _ _ (by decide)).trans (State.get_set_same _ _ _ _)), hok.trans (State.get_set_same _ _ _ _),
    (State.of_plain_twin hframed.plain :), hframed⟩

theorem sidebandTimeout_quiet (h : s.twin.giveUpRxAt = none ∨ s.inStep = false) : exec (.sidebandTimeout dt) s = .next (s.advance dt) := by
  cases hg : s.twin.giveUpRxAt with
  | none =>
    show execSidebandTimeout dt s = _
    unfold execSidebandTimeout
    dsimp only
    rw [show (s.advance dt).twin.giveUpRxAt = none from hg]
  | some t₀ =>
    have hin : s.inStep = false := h.resolve_left (by simp [hg])
    exact (exec_sidebandTimeout dt s t₀ hg).trans (if_neg (by simp [hin]))

section
variable (a p : Bool)

/-- The levels of the sidebands are shown. -/
def State.sidebandsShown (s : State) (a p : Bool) : State := (s.setB R.TWIN_STAT_ACTIVE_IN a).setB R.TWIN_STAT_PEER_OK_IN p

theorem State.sidebandsShown_isActive : (s.sidebandsShown a p).isActive = s.isActive := by
  unfold State.isActive State.flag State.sidebandsShown
  rw [State.setB_eq, State.setB_eq, State.get_set_ne _ _ _ _ (by decide), State.get_set_ne _ _ _ _ (by decide)]

theorem exec_sidebandDisagree : exec (.sidebandDisagree dt a p) s =
    if s.twin.giveUpRxAt = none && a != p && !((s.advance dt).sidebandsShown a p).isActive
    then .next (((s.advance dt).sidebandsShown a p).sidebandAlarm false) else .next ((s.advance dt).sidebandsShown a p) := rfl

theorem sidebandDisagree_raises (hg : s.twin.giveUpRxAt = none) (hne : a ≠ p) (ha : s.isActive = false) :
    ∃ t, exec (.sidebandDisagree dt a p) s = .next t ∧ t.get R.TWIN_STAT_SIDEBAND_FAULT = 1 ∧ t.get R.TWIN_EVT_SIDEBAND = 1 ∧
      t.get R.TWIN_STAT_ACTIVE_IN = (if a then 1 else 0) ∧ t.get R.TWIN_STAT_PEER_OK_IN = (if p then 1 else 0) ∧ t.isActive = false ∧
      t.twin = s.twin := by
  have hact : ((s.advance dt).sidebandsShown a p).isActive = false := (State.sidebandsShown_isActive _ a p).trans ha
  obtain ⟨hfault, hevt, hin, hok, hmode⟩ := ((s.advance dt).sidebandsShown a p).sidebandAlarm_shows false
  refine ⟨_, (exec_sidebandDisagree dt s a p).trans (if_pos (by simp [hg, hne, hact])), hfault, hevt, hin.trans ?_,
    hok.trans (State.get_setB_same _ _ _ _ rfl), ?_, ?_⟩
  · unfold State.sidebandsShown
    rw [State.setB_eq _ R.TWIN_STAT_PEER_OK_IN, State.get_set_ne _ _ _ _ (by decide), State.get_setB_same _ _ _ _ rfl]
  · unfold State.isActive State.flag at hact ⊢
    rewrite [hmode]
    exact hact
  · exact (State.of_plain_twin (State.sidebandAlarm_framed ((s.advance dt).sidebandsShown a p) false (List.Subset.refl _) (.refl _ _)).plain :)

theorem sidebandDisagree_agrees :
    ∃ t, exec (.sidebandDisagree dt a a) s = .next t ∧ Framed (regKeys 0 [R.TWIN_STAT_ACTIVE_IN, R.TWIN_STAT_PEER_OK_IN]) (s.advance dt) t :=
  ⟨_, (exec_sidebandDisagree dt s a a).trans (if_neg (by simp)),
    setB_framed _ _ _ _ (.inl (by simp [regKeys])) (setB_framed _ _ _ _ (.inl (by simp [regKeys])) (.refl _ _))⟩

end

section
variable (w : Nat)

theorem exec_peerOkLowTimeout : ∃ e : Ev, exec (.peerOkLowTimeout dt w) s =
    if !(s.isActive && s.isPaired) then .next (s.advance dt)
    else if w < 1000000 then .next (((s.advance dt).incSat R.TWIN_LAG_OK_DIPS).record e)
    else .next (((s.advance dt).set R.TWIN_STAT_PEER_OK_IN 0).becomeUnpaired 4) := ⟨{ code := 0x1105, items := [(1, 4)] }, rfl⟩

section
variable (ha : s.isActive = true) (hp : s.isPaired = true)
include ha hp

theorem peerOkLowTimeout_unpairs (hw : 1000000 ≤ w) :
    ∃ t, exec (.peerOkLowTimeout dt w) s = .next t ∧ t.isPaired = false ∧ t.isActive = true ∧ t.get R.TWIN_STAT_STATE = 0 ∧
      t.get R.TWIN_STAT_PEER_OK_IN = 0 := by
  obtain ⟨e, hexec⟩ := exec_peerOkLowTimeout dt s w
  rewrite [if_neg (by simp [ha, hp]), if_neg (Nat.not_lt.2 hw)] at hexec
  obtain ⟨hpaired, hstate, hactive, -⟩ := ((s.advance dt).set R.TWIN_STAT_PEER_OK_IN 0).becomeUnpaired_shows 4
  refine ⟨_, hexec, hpaired, hactive.trans ?_, hstate, ?_⟩
  · unfold State.isActive State.flag at ha ⊢
    rewrite [State.get_set_ne _ _ _ _ (by decide)]
    exact ha
  · exact (State.unpairedAlarm_get _ _ (by decide) (by decide) (by decide)).trans ((State.get_set_ne _ _ _ _ (by decide)).trans
      (State.get_set_same _ _ _ _))

theorem peerOkLowTimeout_dips (hw : w < 1000000) :
    ∃ t, exec (.peerOkLowTimeout dt w) s = .next t ∧ t.get R.TWIN_LAG_OK_DIPS = min 255 (s.get R.TWIN_LAG_OK_DIPS + 1) ∧
      Framed [loc R.TWIN_LAG_OK_DIPS 0] (s.advance dt) t := by
  obtain ⟨e, hexec⟩ := exec_peerOkLowTimeout dt s w
  rewrite [if_neg (by simp [ha, hp]), if_pos hw] at hexec
  exact ⟨_, hexec, (State.record_get _ _ _ (by decide)).trans (State.incSat_get_same _ _ _ _),
    State.record_framed _ _ (set_framed _ _ _ _ (.inl (List.mem_singleton.2 rfl)) (.refl _ _))⟩

end

theorem peerOkLowTimeout_quiet (h : s.isActive = false ∨ s.isPaired = false) : exec (.peerOkLowTimeout dt w) s = .next (s.advance dt) := by
  obtain ⟨e, hexec⟩ := exec_peerOkLowTimeout dt s w
  rewrite [hexec]
  refine if_pos ?_
  rcases h with h | h <;> simp [h]

end
end

/-- Settles O50: lanes, the takeover and the sidebands each by the lemma of its case above; the parts of a takeover leave the registers of the twin
and of the mode (`Handed`). The clause of the takeover rests on log 180, those of conditions that do not hold on log DESIGN CHOICE 1. -/
theorem twinLinks : Obligations.TwinLinks := by
  unfold Obligations.TwinLinks
  exact ⟨fun dt l a s h => laneDown_oneLeft dt l a s h, fun dt l a s h hin ha => laneDown_detaches dt l a s h hin ha,
    fun dt l a s h ha hp => laneDown_unpairs dt l a s h ha hp, fun dt l s h => laneRetrain_up dt l s h,
    fun dt l u s h => if_pos (by
      rcases h with h | h
      · simp [h]
      · simp [h]),
    fun dt a p l s hin hok hdue => takeover_takes dt a p l s hin hok hdue, fun dt a p l s h => takeover_quiet dt a p l s h,
    fun dt t₀ s hg hin hat => sidebandTimeout_raises dt s t₀ hg hin hat, sidebandTimeout_quiet,
    fun dt a p s hg hne ha => sidebandDisagree_raises dt s a p hg hne ha, fun dt a s => sidebandDisagree_agrees dt s a,
    fun dt w s ha hp hw => peerOkLowTimeout_unpairs dt s w ha hp hw, fun dt w s ha hp hw => peerOkLowTimeout_dips dt s w ha hp hw,
    fun dt w s h => peerOkLowTimeout_quiet dt s w h⟩

end Sys2Proof.Machine
end

section
set_option Elab.async false
/-!
PROOF of the statements of 17_can_fd.md, the part they share: the rules of a channel's own data and what the filling of a mailbox shows and leaves
alone.
-/

namespace Sys2Proof.Machine

open Sys2Proof

theorem apartFrom_mono {fs gs : List Fld} {f : Fld} (h : apartFrom gs f = true) (hsub : fs ⊆ gs) : apartFrom fs f = true := by
  unfold apartFrom
  rewrite [noteFld_of_apartFrom h]
  simpa using fun g hg => apartFrom_ne h (hsub hg)

/-! ### A channel's own data -/

/-- A channel's data is read in the channels' table and nowhere else. -/
theorem State.canSt_of_can {s t : State} (h : t.can = s.can) (ch : Nat) : t.canSt ch = s.canSt ch := by
  unfold State.canSt
  rw [h]

section
variable (s : State) (ch : Nat) (v : CanSt)

@[simp] theorem State.putCan_canSt : (s.putCan ch v).canSt ch = v := by
  unfold State.putCan State.canSt tget
  simp

@[simp] theorem State.putCan_get (f : Fld) (b : Nat) : (s.putCan ch v).get f b = s.get f b := rfl

@[simp] theorem State.advance_canSt (dt : Nat) : (s.advance dt).canSt ch = s.canSt ch := rfl

@[simp] theorem State.set_canSt (f : Fld) (x b : Nat) : (s.set f x b).canSt ch = s.canSt ch := rfl

@[simp] theorem State.evt_canSt (f : Fld) (b : Nat) : (s.evt f b).canSt ch = s.canSt ch := State.canSt_of_can (State.evt_can _ _ _) ch

@[simp] theorem State.record_canSt (e : Ev) : (s.record e).canSt ch = s.canSt ch := State.canSt_of_can (State.record_can _ _) ch

@[simp] theorem State.advance_mbStatus (dt mb : Nat) : (s.advance dt).mbStatus ch mb = s.mbStatus ch mb := rfl

theorem State.putMb_canSt (mb : Nat) (m : CanMbSt) :
    (s.putMb ch mb m).canSt ch = { s.canSt ch with mbs := tput (s.canSt ch).mbs mb m } := State.putCan_canSt _ _ _

theorem State.putMb_mbSt (mb : Nat) (m : CanMbSt) : (s.putMb ch mb m).mbSt ch mb = m := by
  unfold State.mbSt tget
  rewrite [State.putMb_canSt]
  simp

@[simp] theorem State.putMb_get (mb : Nat) (m : CanMbSt) (f : Fld) (b : Nat) : (s.putMb ch mb m).get f b = s.get f b := rfl

end

section
variable {ks : List Nat} {s t : State} {x : List (Nat × CanSt)}

theorem Framed.withCan (x : Tab CanSt) (h : Framed ks s t) : Framed ks { s with can := x } { t with can := x } :=
  ⟨congrArg (fun u : State => { u with can := x }) h.plain, h.2⟩

/-- What changes only certain keys after the channels' table was replaced changes only them and that table. -/
theorem Framed.ownCan {x : Tab CanSt} (h : Framed ks { s with can := x } t) : Framed ks { s with can := t.can } t := by
  have hx : t.can = x := (State.of_plain_can h.plain :)
  rewrite [hx]
  exact h

end

/-- A reading of a channel's data that takes no notice of its mailboxes. -/
abbrev OffMbs {β : Type} (p : CanSt → β) : Prop := ∀ (c : CanSt) (m : Tab CanMbSt), p { c with mbs := m } = p c

/-! ### A mailbox is filled (R408) -/

section
variable (s : State) (ch mb : Nat) (c : CanMbCfg) (l : List Nat)

/-- Whether a mailbox waits as PENDING or as HELD is read from the guard's flag alone. -/
theorem State.mbWaits_of_get {s t : State} (h : t.get R.CAN_STAT_SQUALL ch = s.get R.CAN_STAT_SQUALL ch) :
    t.mbWaits ch c = s.mbWaits ch c := by
  unfold State.mbWaits State.flag
  rw [h]

theorem State.mbWaits_mod : s.mbWaits ch c % 2 ^ R.CAN_MB_STAT_STATUS.width = s.mbWaits ch c := by
  unfold State.mbWaits
  split <;> rfl

theorem dlcOf_lt (n : Nat) : dlcOf n < 16 := by
  unfold dlcOf
  repeat' split
  all_goals omega

/-- The registers that a filled mailbox shows. -/
abbrev fillFlds : List Fld := [R.CAN_MB_STAT_ATTEMPTS, R.CAN_MB_STAT_FAIL_KIND, R.CAN_MB_STAT_DLC, R.CAN_MB_STAT_STATUS]

theorem State.mbFill_get {f : Fld} (b : Nat) (h : apartFrom fillFlds f = true) : (s.mbFill ch mb c l).get f b = s.get f b := by
  unfold State.mbFill State.setMb
  rewrite [State.get_set_ne _ _ _ _ (apartFrom_ne h (by simp)), State.get_set_ne _ _ _ _ (apartFrom_ne h (by simp)),
    State.get_set_ne _ _ _ _ (apartFrom_ne h (by simp)), State.get_set_ne _ _ _ _ (apartFrom_ne h (by simp))]
  rfl

theorem State.mbFill_shows : (s.mbFill ch mb c l).mbStatus ch mb = s.mbWaits ch c ∧ ((s.mbFill ch mb c l).mbSt ch mb).data = l ∧
    (s.mbFill ch mb c l).get R.CAN_MB_STAT_ATTEMPTS (mbBank ch mb) = 0 ∧
    (s.mbFill ch mb c l).get R.CAN_MB_STAT_DLC (mbBank ch mb) = dlcOf (if c.fast then 8 else c.len) := by
  refine ⟨?_, ?_, ?_, ?_⟩
  · refine (State.get_set_same _ _ _ _).trans ?_
    rewrite [State.mbWaits_mod]
    refine State.mbWaits_of_get ch c ?_
    rewrite [State.get_set_ne _ _ _ _ (by decide), State.get_set_ne _ _ _ _ (by decide), State.get_set_ne _ _ _ _ (by decide)]
    rfl
  · exact congrArg CanMbSt.data (State.putMb_mbSt _ _ _ _)
  · unfold State.mbFill State.setMb
    rewrite [State.get_set_ne _ _ _ _ (by decide), State.get_set_ne _ _ _ _ (by decide), State.get_set_ne _ _ _ _ (by decide),
      State.get_set_same]
    rfl
  · unfold State.mbFill State.setMb
    rewrite [State.get_set_ne _ _ _ _ (by decide), State.get_set_same]
    exact Nat.mod_eq_of_lt (dlcOf_lt _)

theorem State.mbFill_framed : Framed (regKeys (mbBank ch mb) fillFlds) { s with can := (s.mbFill ch mb c l).can } (s.mbFill ch mb c l) := by
  unfold State.mbFill
  exact Framed.ownCan (x := (s.putMb ch mb _).can) (set_framed _ _ _ _ (.inl (by simp [regKeys])) (set_framed _ _ _ _ (.inl (by simp [regKeys]))
    (set_framed _ _ _ _ (.inl (by simp [regKeys])) (set_framed _ _ _ _ (.inl (by simp [regKeys])) (.refl _ _)))))

theorem State.mbFill_canSt {β : Type} {p : CanSt → β} (hp : OffMbs p) : p ((s.mbFill ch mb c l).canSt ch) = p (s.canSt ch) :=
  (congrArg p (State.putMb_canSt _ _ _ _)).trans (hp _ _)

end

end Sys2Proof.Machine
end

section
set_option Elab.async false
/-!
PROOF of the statement of 17_can_fd.md about transmission (CanTransmission): what the end of an attempt, the counters and bus-off show and leave
alone, and then each command.
-/

namespace Sys2Proof.Machine

open Sys2Proof

section
variable (s : State) (ch mb : Nat) (l : List Nat) (sof : Bool) {c : CanMbCfg}

/-- A mailbox with an attempt on the bus keeps the new content for the attempt's end. -/
theorem State.mbQueue_waits (hc : s.mbCfg ch mb = some c) (hm : s.canMode ch ≠ 0) (h : sof = true ∨ s.mbStatus ch mb = 2) :
    s.mbQueue ch mb l sof = (s.putMb ch mb { s.mbSt ch mb with next := some l }).setMb ch mb 2 := by
  unfold State.mbQueue
  rewrite [hc]
  dsimp only
  rw [if_neg hm, if_pos (by simpa using h)]

theorem State.mbQueue_fills (hc : s.mbCfg ch mb = some c) (hm : s.canMode ch ≠ 0) (h : ¬ (sof = true ∨ s.mbStatus ch mb = 2)) :
    s.mbQueue ch mb l sof = s.mbFill ch mb c l := by
  unfold State.mbQueue
  rewrite [hc]
  dsimp only
  rw [if_neg hm, if_neg (by simpa using h)]

/-- A mailbox with an attempt on the bus shows TRANSMITTING and carries what is written beside it; nothing else changes. -/
theorem State.mbOnBus_shows (m : CanMbSt) : ((s.putMb ch mb m).setMb ch mb 2).mbStatus ch mb = 2 ∧
    ((s.putMb ch mb m).setMb ch mb 2).mbSt ch mb = m ∧
    Framed [loc R.CAN_MB_STAT_STATUS (mbBank ch mb)] { s with can := ((s.putMb ch mb m).setMb ch mb 2).can }
      ((s.putMb ch mb m).setMb ch mb 2) :=
  ⟨State.get_set_same _ _ _ _, State.putMb_mbSt _ _ _ _,
    Framed.ownCan (x := (s.putMb ch mb m).can) (set_framed _ _ _ _ (.inl (List.mem_singleton.2 rfl)) (.refl _ _))⟩

end

/-! ### CAN_PERIODIC_TRANSMIT and CAN_MAILBOX_CANCEL (R408, R410) -/

section
variable (dt ch mb : Nat) (b : Bool) (s : State)

theorem exec_canPeriodicTransmit_due {c : CanMbCfg} (hc : s.mbCfg ch mb = some c) (hp : c.periodMs ≠ none)
    (hr : (s.advance dt).cyclicRuns c.drive c.node = true) : exec (.canPeriodicTransmit dt ch mb b) s =
      .next ((s.advance dt).mbQueue ch mb ((s.advance dt).mbContent c) b) := by
  show execCanPeriodicTransmit dt ch mb b s = _
  unfold execCanPeriodicTransmit
  dsimp only
  rewrite [show (s.advance dt).mbCfg ch mb = some c from hc]
  exact if_pos (by simp [hr, Option.isSome_iff_ne_none.2 hp])

theorem exec_canPeriodicTransmit_none (hc : s.mbCfg ch mb = none) :
    exec (.canPeriodicTransmit dt ch mb b) s = .next (s.advance dt) := by
  show execCanPeriodicTransmit dt ch mb b s = _
  unfold execCanPeriodicTransmit
  dsimp only
  rw [show (s.advance dt).mbCfg ch mb = none from hc]

theorem canPeriodicTransmit_fills (c : CanMbCfg) (hc : s.mbCfg ch mb = some c) (hp : c.periodMs ≠ none)
    (hr : (s.advance dt).cyclicRuns c.drive c.node = true) (hm : s.canMode ch ≠ 0) (hb : b = false) (h2 : s.mbStatus ch mb ≠ 2) :
    ∃ t, exec (.canPeriodicTransmit dt ch mb b) s = .next t ∧ t.mbStatus ch mb = s.mbWaits ch c ∧
      (t.mbSt ch mb).data = (s.advance dt).mbContent c ∧ t.get R.CAN_MB_STAT_ATTEMPTS (mbBank ch mb) = 0 ∧
      t.get R.CAN_MB_STAT_DLC (mbBank ch mb) = dlcOf (if c.fast then 8 else c.len) ∧
      Framed (regKeys (mbBank ch mb) fillFlds) { s.advance dt with can := t.can } t := by
  have hexec := exec_canPeriodicTransmit_due dt ch mb b s hc hp hr
  rewrite [State.mbQueue_fills _ ch mb _ _ (show (s.advance dt).mbCfg ch mb = some c from hc) hm (by simpa [hb] using h2)] at hexec
  obtain ⟨hstatus, hdata, hatt, hdlc⟩ := (s.advance dt).mbFill_shows ch mb c ((s.advance dt).mbContent c)
  exact ⟨_, hexec, hstatus, hdata, hatt, hdlc, State.mbFill_framed _ _ _ _ _⟩

theorem canPeriodicTransmit_waits (c : CanMbCfg) (hc : s.mbCfg ch mb = some c) (hp : c.periodMs ≠ none)
    (hr : (s.advance dt).cyclicRuns c.drive c.node = true) (hm : s.canMode ch ≠ 0) (h : b = true ∨ s.mbStatus ch mb = 2) :
    ∃ t, exec (.canPeriodicTransmit dt ch mb b) s = .next t ∧ t.mbStatus ch mb = 2 ∧
      t.mbSt ch mb = { s.mbSt ch mb with next := some ((s.advance dt).mbContent c) } ∧
      Framed [loc R.CAN_MB_STAT_STATUS (mbBank ch mb)] { s.advance dt with can := t.can } t := by
  have hexec := exec_canPeriodicTransmit_due dt ch mb b s hc hp hr
  rewrite [State.mbQueue_waits _ ch mb _ _ (show (s.advance dt).mbCfg ch mb = some c from hc) hm h] at hexec
  exact ⟨_, hexec, State.mbOnBus_shows _ _ _ _⟩

theorem canMailboxCancel_inTime (h : s.mbStatus ch mb ∈ [1, 7]) :
    ∃ t, exec (.canMailboxCancel dt ch mb false) s = .next t ∧ t.mbStatus ch mb = 5 ∧
      Framed [loc R.CAN_MB_STAT_STATUS (mbBank ch mb)] (s.advance dt) t := by
  have hst : (s.advance dt).mbStatus ch mb = 1 ∨ (s.advance dt).mbStatus ch mb = 7 := by simpa using h
  have hexec : exec (.canMailboxCancel dt ch mb false) s = .next ((s.advance dt).setMb ch mb 5) := by
    show execCanMailboxCancel dt ch mb false s = _
    unfold execCanMailboxCancel
    dsimp only
    rw [if_neg (by rcases hst with e | e <;> simp [e]), if_neg (by rcases hst with e | e <;> simp [e])]
  exact ⟨_, hexec, State.get_set_same _ _ _ _, set_framed _ _ _ _ (.inl (List.mem_singleton.2 rfl)) (.refl _ _)⟩

theorem canMailboxCancel_late (h : s.mbStatus ch mb ∈ [1, 2, 7]) (hb : b = true ∨ s.mbStatus ch mb = 2) :
    ∃ t, exec (.canMailboxCancel dt ch mb b) s = .next t ∧ t.mbStatus ch mb = 2 ∧
      t.mbSt ch mb = { s.mbSt ch mb with cancel := true, next := none } ∧
      Framed [loc R.CAN_MB_STAT_STATUS (mbBank ch mb)] { s.advance dt with can := t.can } t := by
  have hst : (s.advance dt).mbStatus ch mb = 1 ∨ (s.advance dt).mbStatus ch mb = 2 ∨ (s.advance dt).mbStatus ch mb = 7 := by simpa using h
  have hb' : b = true ∨ (s.advance dt).mbStatus ch mb = 2 := hb
  have hexec : exec (.canMailboxCancel dt ch mb b) s =
      .next (((s.advance dt).putMb ch mb { s.mbSt ch mb with cancel := true, next := none }).setMb ch mb 2) := by
    show execCanMailboxCancel dt ch mb b s = _
    unfold execCanMailboxCancel
    dsimp only
    rewrite [if_neg (by rcases hst with e | e | e <;> simp [e]), if_pos (by rcases hb' with e | e <;> simp_all)]
    rfl
  exact ⟨_, hexec, State.mbOnBus_shows _ _ _ _⟩

theorem exec_canMailboxCancel_idle (h : s.mbStatus ch mb ∉ [1, 2, 7]) : exec (.canMailboxCancel dt ch mb b) s = .next (s.advance dt) := by
  have hst : ¬ (s.advance dt).mbStatus ch mb = 1 ∧ ¬ (s.advance dt).mbStatus ch mb = 2 ∧ ¬ (s.advance dt).mbStatus ch mb = 7 := by
    simpa using h
  show execCanMailboxCancel dt ch mb b s = _
  unfold execCanMailboxCancel
  exact if_pos (by simp only [hst, decide_false, Bool.or_self, Bool.not_false])

end

/-! ### An error is counted (R411) -/

section
variable (s : State) (ch lec : Nat) (d : Bool)

/-- The register in which an error of a code is counted. -/
def lecCount (lec : Nat) : Fld :=
  if lec = 3 then R.CAN_ERR_CNT_ACK else if lec = 6 then R.CAN_ERR_CNT_CRC else if lec = 4 ∨ lec = 5 then R.CAN_ERR_CNT_BIT
  else R.CAN_ERR_CNT_STUFF_FORM

theorem State.canLec_eq : s.canLec ch lec d = ((s.set R.CAN_LEC_LEC lec ch).setB R.CAN_LEC_DATA_PHASE d ch).incSat (lecCount lec) ch := by
  unfold State.canLec
  split
  case h_5 h3 h6 h4 h5 =>
    rw [lecCount, if_neg h3, if_neg h6, if_neg (not_or.2 ⟨h4, h5⟩)]
  all_goals rfl

abbrev lecFlds : List Fld := [R.CAN_LEC_LEC, R.CAN_LEC_DATA_PHASE, R.CAN_ERR_CNT_ACK, R.CAN_ERR_CNT_CRC, R.CAN_ERR_CNT_BIT,
  R.CAN_ERR_CNT_STUFF_FORM]

theorem lecCount_mem : lecCount lec ∈ lecFlds := by
  unfold lecCount
  split_ifs <;> simp

theorem lecCount_ne {f : Fld} (h : apartFrom (lecFlds.drop 2) f = true) : fkey f ≠ fkey (lecCount lec) := by
  refine apartFrom_ne h ?_
  unfold lecCount
  split_ifs <;> simp

theorem State.canLec_get {f : Fld} (b : Nat) (h : apartFrom lecFlds f = true) : (s.canLec ch lec d).get f b = s.get f b := by
  rw [State.canLec_eq, State.incSat_eq, State.get_set_ne _ _ _ _ (apartFrom_ne h (lecCount_mem lec)), State.setB_eq,
    State.get_set_ne _ _ _ _ (apartFrom_ne h (by simp)), State.get_set_ne _ _ _ _ (apartFrom_ne h (by simp))]

theorem State.canLec_shows : (s.canLec ch lec d).get R.CAN_LEC_LEC ch = lec % 8 ∧
    (s.canLec ch lec d).get R.CAN_LEC_DATA_PHASE ch = (if d then 1 else 0) := by
  rewrite [State.canLec_eq, State.incSat_eq, State.get_set_ne _ _ _ _ (lecCount_ne lec (by decide)),
    State.get_set_ne _ _ _ _ (lecCount_ne lec (by decide)), State.get_setB_same _ _ _ _ rfl, State.setB_get_ne _ _ _ _ (by decide),
    State.get_set_same]
  exact ⟨rfl, rfl⟩

@[simp] theorem State.canLec_can : (s.canLec ch lec d).can = s.can := by
  rewrite [State.canLec_eq]
  rfl

end

/-! ### The error state follows the counters (R411, R412) -/

section
variable (s : State) (ch : Nat)

/-- The error state of a channel's counters. -/
def CanSt.errState (c : CanSt) : Nat := if 255 < c.tec then 2 else if 128 ≤ c.tec || 128 ≤ c.rec_ then 1 else 0

theorem CanSt.errState_lt (c : CanSt) : c.errState < 4 := by
  unfold CanSt.errState
  repeat' split
  all_goals omega

theorem CanSt.errState_low {c : CanSt} (h : c.tec ≤ 255) : c.errState = if 128 ≤ c.tec ∨ 128 ≤ c.rec_ then 1 else 0 := by
  unfold CanSt.errState
  rewrite [if_neg (Nat.not_lt.2 h)]
  simp only [Bool.or_eq_true, decide_eq_true_eq]

/-- The counters and the error state as the registers show them. -/
def State.canErrShown : State :=
  ((s.setSat R.CAN_ERR_TEC (s.canSt ch).tec ch).setSat R.CAN_ERR_REC (s.canSt ch).rec_ ch).set R.CAN_STAT_ERR_STATE (s.canSt ch).errState ch

def CanSt.errEv (c : CanSt) (ch : Nat) : Ev :=
  { code := 0x1402, source := ch, items := [(1, ch), (1, min 255 c.tec), (1, min 255 c.rec_)], key := 1 }

theorem State.canErrState_eq : s.canErrState ch =
    if ((s.setSat R.CAN_ERR_TEC (s.canSt ch).tec ch).setSat R.CAN_ERR_REC (s.canSt ch).rec_ ch).get R.CAN_STAT_ERR_STATE ch = (s.canSt ch).errState
    then s.canErrShown ch
    else if (s.canSt ch).errState = 1 then ((s.canErrShown ch).evt R.CAN_EVT_PASSIVE ch).record ((s.canSt ch).errEv ch)
    else if ((s.setSat R.CAN_ERR_TEC (s.canSt ch).tec ch).setSat R.CAN_ERR_REC (s.canSt ch).rec_ ch).get R.CAN_STAT_ERR_STATE ch = 1 &&
      (s.canSt ch).errState = 0 then (s.canErrShown ch).record ((s.canSt ch).errEv ch)
    else s.canErrShown ch := rfl

/-- A change of the error state is told of, or not. -/
theorem State.canErrState_cases : s.canErrState ch = s.canErrShown ch ∨
    s.canErrState ch = ((s.canErrShown ch).evt R.CAN_EVT_PASSIVE ch).record ((s.canSt ch).errEv ch) ∨
    s.canErrState ch = (s.canErrShown ch).record ((s.canSt ch).errEv ch) := by
  rewrite [State.canErrState_eq]
  split
  · exact .inl rfl
  · split
    · exact .inr (.inl rfl)
    · split
      · exact .inr (.inr rfl)
      · exact .inl rfl

@[simp] theorem State.canErrState_can : (s.canErrState ch).can = s.can := by
  rcases s.canErrState_cases ch with e | e | e
  · rewrite [e]
    rfl
  · rewrite [e, State.record_can, State.evt_can]
    rfl
  · rewrite [e, State.record_can]
    rfl

theorem State.canErrState_shown {f : Fld} (b : Nat) (h : apartFrom [R.CAN_EVT_PASSIVE] f = true) :
    (s.canErrState ch).get f b = (s.canErrShown ch).get f b := by
  have hn := noteFld_of_apartFrom h
  rcases s.canErrState_cases ch with e | e | e
  · rw [e]
  · rw [e, State.record_get _ _ _ hn, State.evt_get_ne _ _ _ hn (apartFrom_ne h (by simp))]
  · rw [e, State.record_get _ _ _ hn]

theorem State.canErrState_get {f : Fld} (b : Nat)
    (h : apartFrom [R.CAN_EVT_PASSIVE, R.CAN_ERR_TEC, R.CAN_ERR_REC, R.CAN_STAT_ERR_STATE] f = true) :
    (s.canErrState ch).get f b = s.get f b := by
  have hn := noteFld_of_apartFrom h
  have hset : (s.canErrShown ch).get f b = s.get f b := by
    unfold State.canErrShown
    rw [State.get_set_ne _ _ _ _ (apartFrom_ne h (by simp)), State.setSat_eq, State.get_set_ne _ _ _ _ (apartFrom_ne h (by simp)),
      State.setSat_eq, State.get_set_ne _ _ _ _ (apartFrom_ne h (by simp))]
  rcases s.canErrState_cases ch with e | e | e
  · rw [e, hset]
  · rw [e, State.record_get _ _ _ hn, State.evt_get_ne _ _ _ hn (apartFrom_ne h (by simp)), hset]
  · rw [e, State.record_get _ _ _ hn, hset]

theorem State.canErrState_shows : (s.canErrState ch).get R.CAN_ERR_TEC ch = min 255 (s.canSt ch).tec ∧
    (s.canErrState ch).get R.CAN_ERR_REC ch = min 255 (s.canSt ch).rec_ ∧
    (s.canErrState ch).get R.CAN_STAT_ERR_STATE ch = (s.canSt ch).errState := by
  rewrite [State.canErrState_shown _ _ _ (by decide), State.canErrState_shown _ _ _ (by decide), State.canErrState_shown _ _ _ (by decide)]
  unfold State.canErrShown
  rewrite [State.get_set_ne _ _ _ _ (by decide), State.setSat_eq (s.setSat _ _ _), State.get_set_ne _ _ _ _ (by decide),
    State.setSat_get_same, State.get_set_ne _ _ _ _ (by decide), ← State.setSat_eq, State.setSat_get_same, State.get_set_same]
  exact ⟨rfl, rfl, Nat.mod_eq_of_lt (CanSt.errState_lt _)⟩

end

/-! ### Bus-off (R412) -/

section
variable (s : State) (ch mb kind : Nat)

abbrev failFlds : List Fld := [R.CAN_MB_STAT_STATUS, R.CAN_MB_STAT_FAIL_KIND, R.CAN_TX_CNT_ONESHOT_FAIL, R.CAN_EVT_ONESHOT_FAIL]

theorem State.mbFail_get {f : Fld} (b : Nat) (h : apartFrom failFlds f = true) : (s.mbFail ch mb kind).get f b = s.get f b := by
  have hn := noteFld_of_apartFrom h
  unfold State.mbFail State.setMb
  rw [State.record_get _ _ _ hn, State.evt_get_ne _ _ _ hn (apartFrom_ne h (by simp)), State.incSat_eq,
    State.get_set_ne _ _ _ _ (apartFrom_ne h (by simp)), State.get_set_ne _ _ _ _ (apartFrom_ne h (by simp)),
    State.get_set_ne _ _ _ _ (apartFrom_ne h (by simp))]

@[simp] theorem State.mbFail_can : (s.mbFail ch mb kind).can = s.can := by
  unfold State.mbFail
  rewrite [State.record_can, State.evt_can]
  rfl

theorem State.mbFail_mbStatus : (s.mbFail ch mb kind).mbStatus ch mb = 6 := by
  unfold State.mbFail State.setMb State.mbStatus
  rewrite [State.record_get _ _ _ noteFld_CAN_MB_STAT_STATUS, State.evt_get_ne _ _ _ noteFld_CAN_MB_STAT_STATUS (by decide), State.incSat_eq,
    State.get_set_ne _ _ _ _ (by decide),
    State.get_set_ne _ _ _ _ (by decide), State.get_set_same]
  rfl

/-- Bus-off as its own registers and its alarm show it; the mailboxes are still to end. -/
def State.canBusOffShown (m : Bool) : State :=
  (((s.set R.CAN_STAT_MODE (if m then 4 else 5) ch).inc R.CAN_ERR_BUSOFFS ch).evt R.CAN_EVT_BUSOFF ch).alarm 0x1401 ch
    [(1, ch), (1, (((s.set R.CAN_STAT_MODE (if m then 4 else 5) ch).inc R.CAN_ERR_BUSOFFS ch).evt R.CAN_EVT_BUSOFF ch).get R.CAN_ERR_TEC ch),
      caseItem 0x1401 (if m then 1 else 0)] 1

/-- Bus-off ends the mailboxes one by one, each by a change of its own registers. -/
theorem State.canBusOff_get (c : CanCfg) {f : Fld} (b : Nat) (h : apartFrom failFlds f = true) :
    (s.canBusOff ch c).get f b = (s.canBusOffShown ch c.manual).get f b := by
  refine foldl_keeps (fun u : State => u.get f b) c.mbs (fun u x => ?_) (s.canBusOffShown ch c.manual)
  dsimp only
  split
  · exact State.mbFail_get _ _ _ _ b h
  · split
    · exact State.get_set_ne _ _ _ _ (apartFrom_ne h (by simp))
    · rfl

theorem State.canBusOff_shows (c : CanCfg) : (s.canBusOff ch c).canMode ch = (if c.manual then 4 else 5) ∧
    (s.canBusOff ch c).get R.CAN_ERR_BUSOFFS ch = (s.get R.CAN_ERR_BUSOFFS ch + 1) % 65536 ∧
    (s.canBusOff ch c).get R.CAN_EVT_BUSOFF ch = 1 ∧ (s.canBusOff ch c).get R.CAN_STAT_ERR_STATE ch = s.get R.CAN_STAT_ERR_STATE ch ∧
    (s.canBusOff ch c).get R.CAN_ERR_TEC ch = s.get R.CAN_ERR_TEC ch := by
  unfold State.canMode
  rewrite [State.canBusOff_get _ _ _ _ (by decide), State.canBusOff_get _ _ _ _ (by decide), State.canBusOff_get _ _ _ _ (by decide),
    State.canBusOff_get _ _ _ _ (by decide), State.canBusOff_get _ _ _ _ (by decide)]
  unfold State.canBusOffShown
  rewrite [State.alarm_get _ _ _ _ _ _ noteFld_CAN_STAT_MODE, State.alarm_get _ _ _ _ _ _ (by decide), State.alarm_get _ _ _ _ _ _ (by decide),
    State.alarm_get _ _ _ _ _ _ (by decide), State.alarm_get _ _ _ _ _ _ (by decide)]
  simp (disch := decide) only [State.evt_get_same, State.evt_get_ne, State.inc_eq, State.get_set_ne, State.get_set_same]
  exact ⟨by split <;> rfl, rfl, rfl, trivial, trivial⟩

end

/-! ### The counters move (R411, R412) -/

section
variable (s : State) (ch tec rec_ : Nat) (c : CanCfg)

/-- The counters as they move; the registers are still to follow. -/
def State.canMoved : State := s.putCan ch { s.canSt ch with tec := tec, rec_ := rec_ }

abbrev countFlds : List Fld := [R.CAN_EVT_PASSIVE, R.CAN_ERR_TEC, R.CAN_ERR_REC, R.CAN_STAT_ERR_STATE]

section
variable (hlow : tec ≤ 255)
include hlow

/-- Below the limit only the error state follows. -/
theorem State.canCount_low : s.canCount ch c tec rec_ = (s.canMoved ch tec rec_).canErrState ch :=
  if_neg (by simp [Nat.not_lt.2 hlow])

theorem State.canCount_get {f : Fld} (b : Nat) (h : apartFrom countFlds f = true) : (s.canCount ch c tec rec_).get f b = s.get f b := by
  rewrite [State.canCount_low s ch tec rec_ c hlow, State.canErrState_get _ _ _ h]
  rfl

theorem State.canCount_canSt : (s.canCount ch c tec rec_).canSt ch = { s.canSt ch with tec := tec, rec_ := rec_ } := by
  rewrite [State.canCount_low s ch tec rec_ c hlow, State.canSt_of_can (State.canErrState_can _ _)]
  exact State.putCan_canSt _ _ _

theorem State.canCount_shows : (s.canCount ch c tec rec_).get R.CAN_ERR_TEC ch = min 255 tec ∧
    (s.canCount ch c tec rec_).get R.CAN_ERR_REC ch = min 255 rec_ ∧
    (s.canCount ch c tec rec_).get R.CAN_STAT_ERR_STATE ch = (if 128 ≤ tec ∨ 128 ≤ rec_ then 1 else 0) := by
  have hst : (s.canMoved ch tec rec_).canSt ch = { s.canSt ch with tec := tec, rec_ := rec_ } := State.putCan_canSt _ _ _
  obtain ⟨htec, hrec, herr⟩ := (s.canMoved ch tec rec_).canErrState_shows ch
  rewrite [hst] at htec hrec herr
  rewrite [State.canCount_low s ch tec rec_ c hlow, htec, hrec, herr]
  exact ⟨rfl, rfl, CanSt.errState_low hlow⟩

end

theorem State.canCount_busOff (h : 255 < tec) (hm : s.canMode ch = 2) :
    s.canCount ch c tec rec_ = ((s.canMoved ch tec rec_).canErrState ch).canBusOff ch c := by
  have hmode : ((s.canMoved ch tec rec_).canErrState ch).canMode ch = 2 := (State.canErrState_get _ _ _ (by decide)).trans hm
  exact if_pos (by simp [h, show (((s.putCan ch { s.canSt ch with tec := tec, rec_ := rec_ }).canErrState ch).canMode ch) = 2 from hmode])

end

/-! ### After an attempt (R408 to R411) -/

section
variable (s : State) (ch mb kind : Nat) (c : CanMbCfg)

abbrev retryFlds : List Fld := [R.CAN_MB_STAT_STATUS, R.CAN_MB_STAT_FAIL_KIND, R.CAN_MB_STAT_DLC, R.CAN_MB_STAT_ATTEMPTS,
  R.CAN_TX_CNT_ONESHOT_FAIL, R.CAN_EVT_ONESHOT_FAIL]

theorem State.mbRetry_get {f : Fld} (b : Nat) (h : apartFrom retryFlds f = true) : (s.mbRetry ch mb c kind).get f b = s.get f b := by
  have hfill (u : State) (d : List Nat) : (u.mbFill ch mb c d).get f b = u.get f b :=
    State.mbFill_get _ _ _ _ _ _ (apartFrom_mono h (by simp))
  have hfail : (s.mbFail ch mb kind).get f b = s.get f b := State.mbFail_get _ _ _ _ _ (apartFrom_mono h (by simp))
  have hset (u : State) (st : Nat) : (u.setMb ch mb st).get f b = u.get f b := State.get_set_ne _ _ _ _ (apartFrom_ne h (by simp))
  unfold State.mbRetry
  dsimp only
  split
  · split
    · exact hfill _ _
    · exact hset _ _
  · split
    · split
      · exact (hfill _ _).trans hfail
      · exact hfail
    · split
      · exact hfill _ _
      · exact hset _ _

theorem State.mbRetry_canSt {β : Type} {p : CanSt → β} (hp : OffMbs p) : p ((s.mbRetry ch mb c kind).canSt ch) = p (s.canSt ch) := by
  have hfill (u : State) (d : List Nat) : p ((u.mbFill ch mb c d).canSt ch) = p (u.canSt ch) := State.mbFill_canSt _ _ _ _ _ hp
  have hfail : p ((s.mbFail ch mb kind).canSt ch) = p (s.canSt ch) := congrArg p (State.canSt_of_can (State.mbFail_can _ _ _ _) ch)
  unfold State.mbRetry
  dsimp only
  split
  · split
    · exact hfill _ _
    · exact (congrArg p (State.putMb_canSt _ _ _ _)).trans (hp _ _)
  · split
    · split
      · exact (hfill _ _).trans hfail
      · exact hfail
    · split
      · exact hfill _ _
      · rfl

section
variable (hcancel : (s.mbSt ch mb).cancel = false) (hnext : (s.mbSt ch mb).next = none)
include hcancel hnext

/-- A mailbox that is not cancelled and has no new content: a one-shot fails, any other waits again. -/
theorem State.mbRetry_plain : s.mbRetry ch mb c kind = if c.oneshot then s.mbFail ch mb kind else s.setMb ch mb (s.mbWaits ch c) := by
  unfold State.mbRetry
  dsimp only
  rewrite [hcancel, hnext]
  rfl

theorem State.mbRetry_plain_shows : (s.mbRetry ch mb c kind).mbStatus ch mb = (if c.oneshot then 6 else s.mbWaits ch c) ∧
    (s.mbRetry ch mb c kind).can = s.can := by
  rewrite [State.mbRetry_plain s ch mb kind c hcancel hnext]
  split
  · exact ⟨State.mbFail_mbStatus _ _ _ _, State.mbFail_can _ _ _ _⟩
  · exact ⟨(State.get_set_same _ _ _ _).trans (State.mbWaits_mod _ _ _), rfl⟩

/-- The last frame of a content that is not cancelled ends it. -/
theorem State.mbSent_last (hpart : mbFrames c (s.mbSt ch mb).data ≤ (s.mbSt ch mb).part + 1) :
    s.mbSent ch mb c = ((s.inc R.CAN_TX_CNT_FRAMES ch).setMb ch mb 3).putMb ch mb { s.mbSt ch mb with cancel := false, part := 0 } := by
  unfold State.mbSent
  dsimp only
  rewrite [hcancel, hnext, if_neg (by simp [Nat.not_lt.2 hpart])]
  rfl

end

end

/-! ### Acknowledges (R411) -/

section
variable (s : State) (ch mb : Nat)

theorem State.canAcked_canSt : (s.canAcked ch mb).canSt ch = { s.canSt ch with ackRun := 0 } := by
  unfold State.canAcked
  dsimp only
  split
  · rw [State.canSt_of_can (State.clearAlarm_can _ _ _ _ _), State.set_canSt, State.putCan_canSt]
  · exact State.putCan_canSt _ _ _

theorem State.canAcked_get {f : Fld} (b : Nat) (h : apartFrom [R.CAN_STAT_NO_ACK] f = true) : (s.canAcked ch mb).get f b = s.get f b := by
  unfold State.canAcked
  dsimp only
  split
  · rewrite [State.clearAlarm_get _ _ _ _ _ _ (noteFld_of_apartFrom h), State.get_set_ne _ _ _ _ (apartFrom_ne h (by simp))]
    rfl
  · rfl

theorem State.canAcked_noAck : (s.canAcked ch mb).get R.CAN_STAT_NO_ACK ch =
    if s.get R.CAN_STAT_NO_ACK ch = 1 then 0 else s.get R.CAN_STAT_NO_ACK ch := by
  unfold State.canAcked
  dsimp only
  split
  next hflag =>
    have h : s.get R.CAN_STAT_NO_ACK ch = 1 := of_decide_eq_true hflag
    rewrite [if_pos h, State.clearAlarm_get _ _ _ _ _ _ noteFld_CAN_STAT_NO_ACK, State.get_set_same]
    rfl
  next hflag =>
    have h : ¬ s.get R.CAN_STAT_NO_ACK ch = 1 := fun e => hflag (decide_eq_true e)
    rewrite [if_neg h]
    rfl

theorem State.canNoAck_canSt : (s.canNoAck ch mb).canSt ch = { s.canSt ch with ackRun := (s.canSt ch).ackRun + 1 } := by
  unfold State.canNoAck
  dsimp only
  split
  · rw [State.canSt_of_can (State.alarm_can _ _ _ _ _), State.evt_canSt, State.set_canSt, State.putCan_canSt]
  · exact State.putCan_canSt _ _ _

theorem State.canNoAck_get {f : Fld} (b : Nat) (h : apartFrom [R.CAN_STAT_NO_ACK, R.CAN_EVT_NO_ACK] f = true) :
    (s.canNoAck ch mb).get f b = s.get f b := by
  have hn := noteFld_of_apartFrom h
  unfold State.canNoAck
  dsimp only
  split
  · rewrite [State.alarm_get _ _ _ _ _ _ hn, State.evt_get_ne _ _ _ hn (apartFrom_ne h (by simp)),
      State.get_set_ne _ _ _ _ (apartFrom_ne h (by simp))]
    rfl
  · rfl

/-- The 16th acknowledge error in a row shows NO_ACK. -/
theorem State.canNoAck_raised (h : 16 ≤ (s.canSt ch).ackRun + 1) : (s.canNoAck ch mb).get R.CAN_STAT_NO_ACK ch = 1 := by
  unfold State.canNoAck
  dsimp only
  split
  · rewrite [State.alarm_get _ _ _ _ _ _ noteFld_CAN_STAT_NO_ACK, State.evt_get_ne _ _ _ noteFld_CAN_STAT_NO_ACK (by decide), State.get_set_same]
    rfl
  next hnot =>
    by_contra hne
    have hflag : s.flag R.CAN_STAT_NO_ACK ch = false := decide_eq_false hne
    refine hnot ((Bool.and_eq_true _ _).mpr ⟨decide_eq_true h, ?_⟩)
    show (!s.flag R.CAN_STAT_NO_ACK ch) = true
    rewrite [hflag]
    rfl

end

/-! ### CAN_TX_ATTEMPT_END (R409 to R412) -/

/-- An attempt is counted. -/
def State.attempted (s : State) (ch mb : Nat) : State := s.incSat R.CAN_MB_STAT_ATTEMPTS (mbBank ch mb)

/-- The delay that the transmitter measured is shown. -/
def State.tdcTaken (s : State) (ch : Nat) (z : Option Nat) : State := match z with | some d => s.set R.CAN_TDC_TDCV d ch | none => s

/-- An error of an attempt, as its code and the acknowledge run count it. -/
def State.lecTaken (s : State) (ch mb lec : Nat) (d : Bool) : State :=
  if lec = 3 then (s.canLec ch lec d).canNoAck ch mb
  else (s.canLec ch lec d).putCan ch { (s.canLec ch lec d).canSt ch with ackRun := 0 }

section
variable (s : State) (ch mb : Nat)

theorem State.attempted_get {f : Fld} (b : Nat) (h : fkey f ≠ fkey R.CAN_MB_STAT_ATTEMPTS) : (s.attempted ch mb).get f b = s.get f b :=
  State.get_set_ne _ _ _ _ h

theorem State.attempted_shows : (s.attempted ch mb).get R.CAN_MB_STAT_ATTEMPTS (mbBank ch mb) =
    min 65535 (s.get R.CAN_MB_STAT_ATTEMPTS (mbBank ch mb) + 1) := State.incSat_get_same _ _ _ _

theorem State.tdcTaken_get (z : Option Nat) {f : Fld} (b : Nat) (h : fkey f ≠ fkey R.CAN_TDC_TDCV) :
    (s.tdcTaken ch z).get f b = s.get f b := by
  unfold State.tdcTaken
  split
  · exact State.get_set_ne _ _ _ _ h
  · rfl

theorem State.tdcTaken_can (z : Option Nat) : (s.tdcTaken ch z).can = s.can := by
  unfold State.tdcTaken
  split <;> rfl

variable (l : Nat) (d : Bool)

theorem State.lecTaken_get {f : Fld} (b : Nat) (h : apartFrom (R.CAN_STAT_NO_ACK :: R.CAN_EVT_NO_ACK :: lecFlds) f = true) :
    (s.lecTaken ch mb l d).get f b = s.get f b := by
  have hlec : (s.canLec ch l d).get f b = s.get f b := State.canLec_get _ _ _ _ _ (apartFrom_mono h (by simp))
  unfold State.lecTaken
  split
  · exact (State.canNoAck_get _ _ _ _ (apartFrom_mono h (by simp))).trans hlec
  · exact hlec

theorem State.lecTaken_shows : (s.lecTaken ch mb l d).get R.CAN_LEC_LEC ch = l % 8 ∧
    (s.lecTaken ch mb l d).get R.CAN_LEC_DATA_PHASE ch = (if d then 1 else 0) := by
  obtain ⟨hlec, hphase⟩ := s.canLec_shows ch l d
  unfold State.lecTaken
  split
  · rewrite [State.canNoAck_get _ _ _ _ (by decide), State.canNoAck_get _ _ _ _ (by decide)]
    exact ⟨hlec, hphase⟩
  · exact ⟨hlec, hphase⟩

theorem State.lecTaken_canSt : (s.lecTaken ch mb l d).canSt ch =
    { s.canSt ch with ackRun := if l = 3 then (s.canSt ch).ackRun + 1 else 0 } := by
  have hlec : (s.canLec ch l d).canSt ch = s.canSt ch := State.canSt_of_can (State.canLec_can _ _ _ _) ch
  unfold State.lecTaken
  split
  · rw [State.canNoAck_canSt, hlec]
  · rw [State.putCan_canSt, hlec]

theorem State.lecTaken_noAck (hl : l = 3) (h : 16 ≤ (s.canSt ch).ackRun + 1) : (s.lecTaken ch mb l d).get R.CAN_STAT_NO_ACK ch = 1 := by
  unfold State.lecTaken
  rewrite [if_pos hl]
  refine State.canNoAck_raised _ _ _ ?_
  rwa [State.canSt_of_can (State.canLec_can _ _ _ _) ch]

end

section
variable (dt ch mb : Nat) (r : TxEnd) (s : State)

theorem exec_canTxAttemptEnd_off (hm : s.canMode ch ≠ 2) : exec (.canTxAttemptEnd dt ch mb r) s = .next (s.advance dt) := by
  show execCanTxAttemptEnd dt ch mb r s = _
  unfold execCanTxAttemptEnd
  dsimp only
  split
  · exact if_pos (by simp [show (s.advance dt).canMode ch ≠ 2 from hm])
  · rfl

variable {c : CanCfg} {k : CanMbCfg} (hc : s.canCfg ch = some c) (hk : s.mbCfg ch mb = some k) (hm : s.canMode ch = 2)
  (hst : s.mbStatus ch mb ∈ [1, 2]) (hmute : s.get R.CAN_N2K_CANNOT_CLAIM ch = 0)
include hc hk hm hst hmute

/-- The end of an attempt of a mailbox that waits or transmits, on a channel in normal operation that may transmit. -/
theorem exec_canTxAttemptEnd_on : exec (.canTxAttemptEnd dt ch mb r) s =
    match r with
    | .success z => .next (((((s.advance dt).attempted ch mb).tdcTaken ch z).canAcked ch mb).mbSent ch mb k |>.canCount ch c
        (((((s.advance dt).attempted ch mb).tdcTaken ch z).canSt ch).tec - 1) ((((s.advance dt).attempted ch mb).tdcTaken ch z).canSt ch).rec_)
    | .lost => .next (((s.advance dt).attempted ch mb).mbRetry ch mb k 0)
    | .err l d e m => .next (((((s.advance dt).attempted ch mb).lecTaken ch mb l d).mbRetry ch mb k (failKind l)).canCount ch c
        ((((((s.advance dt).attempted ch mb).lecTaken ch mb l d).mbRetry ch mb k (failKind l)).canSt ch).tec +
          ((s.advance dt).attempted ch mb).tecStep ch l e m)
        (((((s.advance dt).attempted ch mb).lecTaken ch mb l d).mbRetry ch mb k (failKind l)).canSt ch).rec_) := by
  have hst' : s.mbStatus ch mb = 1 ∨ s.mbStatus ch mb = 2 := by simpa using hst
  have hmute' : (s.advance dt).canMute ch mb c = false := by
    unfold State.canMute State.flag
    simp [hmute]
  show execCanTxAttemptEnd dt ch mb r s = _
  unfold execCanTxAttemptEnd
  dsimp only
  rewrite [show (s.advance dt).canCfg ch = some c from hc, show (s.advance dt).mbCfg ch mb = some k from hk]
  dsimp only
  rewrite [if_neg (by rcases hst' with e | e <;> simp [show (s.advance dt).canMode ch = 2 from hm, e, hmute'])]
  cases r <;> rfl

omit hc hk hm hst hmute in
theorem State.mbSt_of_mbs {s t : State} {ch : Nat} (h : (t.canSt ch).mbs = (s.canSt ch).mbs) (mb : Nat) : t.mbSt ch mb = s.mbSt ch mb := by
  unfold State.mbSt
  rw [h]

theorem canTxAttemptEnd_sent (z : Option Nat) (hcancel : (s.mbSt ch mb).cancel = false) (hnext : (s.mbSt ch mb).next = none)
    (hpart : mbFrames k (s.mbSt ch mb).data ≤ (s.mbSt ch mb).part + 1) (htec : (s.canSt ch).tec ≤ 256) :
    ∃ t, exec (.canTxAttemptEnd dt ch mb (.success z)) s = .next t ∧ t.mbStatus ch mb = 3 ∧ (t.canSt ch).tec = (s.canSt ch).tec - 1 ∧
      (t.canSt ch).rec_ = (s.canSt ch).rec_ ∧ (t.canSt ch).ackRun = 0 ∧
      t.get R.CAN_STAT_NO_ACK ch = (if s.get R.CAN_STAT_NO_ACK ch = 1 then 0 else s.get R.CAN_STAT_NO_ACK ch) ∧
      t.get R.CAN_TX_CNT_FRAMES ch = (s.get R.CAN_TX_CNT_FRAMES ch + 1) % 65536 ∧ t.get R.CAN_ERR_TEC ch = min 255 ((s.canSt ch).tec - 1) ∧
      t.canMode ch = 2 ∧ t.get R.CAN_MB_STAT_ATTEMPTS (mbBank ch mb) = min 65535 (s.get R.CAN_MB_STAT_ATTEMPTS (mbBank ch mb) + 1) := by
  have hexec := exec_canTxAttemptEnd_on dt ch mb (.success z) s hc hk hm hst hmute
  dsimp only at hexec
  have hcan : (((s.advance dt).attempted ch mb).tdcTaken ch z).canSt ch = s.canSt ch := State.canSt_of_can (State.tdcTaken_can _ _ _) ch
  have hget {f : Fld} (b : Nat) (hf : fkey f ≠ fkey R.CAN_TDC_TDCV) :
      (((s.advance dt).attempted ch mb).tdcTaken ch z).get f b = ((s.advance dt).attempted ch mb).get f b := State.tdcTaken_get _ _ _ _ hf
  generalize hu : ((s.advance dt).attempted ch mb).tdcTaken ch z = u at hexec hcan hget
  have hacked : (u.canAcked ch mb).canSt ch = { s.canSt ch with ackRun := 0 } := by rw [State.canAcked_canSt, hcan]
  have hmb : (u.canAcked ch mb).mbSt ch mb = s.mbSt ch mb := State.mbSt_of_mbs (congrArg CanSt.mbs hacked :) mb
  rewrite [hcan, State.mbSent_last _ ch mb k (by rewrite [hmb]; exact hcancel) (by rewrite [hmb]; exact hnext) (by rewrite [hmb]; exact hpart)] at hexec
  have hlow : (s.canSt ch).tec - 1 ≤ 255 := by omega
  have hbase {f : Fld} (b : Nat) (hf : apartFrom [R.CAN_TDC_TDCV, R.CAN_STAT_NO_ACK, R.CAN_MB_STAT_ATTEMPTS] f = true) :
      (u.canAcked ch mb).get f b = s.get f b :=
    (State.canAcked_get _ _ _ _ (apartFrom_mono hf (by simp))).trans ((hget b (apartFrom_ne hf (by simp))).trans
      (State.attempted_get _ _ _ _ (apartFrom_ne hf (by simp))))
  refine ⟨_, hexec, ?_, ?_, ?_, ?_, ?_, ?_, (State.canCount_shows _ _ _ _ _ hlow).1, ?_, ?_⟩
  · refine (State.canCount_get _ _ _ _ _ hlow _ (by decide)).trans ?_
    exact State.get_set_same _ R.CAN_MB_STAT_STATUS 3 _
  · rw [State.canCount_canSt _ _ _ _ _ hlow]
  · rw [State.canCount_canSt _ _ _ _ _ hlow]
  · rewrite [State.canCount_canSt _ _ _ _ _ hlow, State.putMb_canSt]
    exact congrArg CanSt.ackRun hacked
  · rewrite [State.canCount_get _ _ _ _ _ hlow _ (by decide), State.putMb_get]
    refine (State.get_set_ne _ _ _ _ (by decide)).trans ((State.inc_get_ne _ _ (by decide) _).trans ?_)
    rewrite [State.canAcked_noAck, hget _ (by decide), State.attempted_get _ _ _ _ (by decide)]
    rfl
  · rewrite [State.canCount_get _ _ _ _ _ hlow _ (by decide), State.putMb_get]
    refine (State.get_set_ne _ _ _ _ (by decide)).trans ?_
    rewrite [State.inc_eq, State.get_set_same, hbase _ (by decide)]
    rfl
  · unfold State.canMode
    rewrite [State.canCount_get _ _ _ _ _ hlow _ (by decide), State.putMb_get]
    refine (State.get_set_ne _ _ _ _ (by decide)).trans ((State.inc_get_ne _ _ (by decide) _).trans ?_)
    exact (hbase _ (by decide)).trans hm
  · rewrite [State.canCount_get _ _ _ _ _ hlow _ (by decide), State.putMb_get]
    refine (State.get_set_ne _ _ _ _ (by decide)).trans ((State.inc_get_ne _ _ (by decide) _).trans ?_)
    rewrite [State.canAcked_get _ _ _ _ (by decide), hget _ (by decide), State.attempted_shows]
    rfl

theorem canTxAttemptEnd_lost (hcancel : (s.mbSt ch mb).cancel = false) (hnext : (s.mbSt ch mb).next = none) :
    ∃ t, exec (.canTxAttemptEnd dt ch mb .lost) s = .next t ∧ t.mbStatus ch mb = (if k.oneshot then 6 else s.mbWaits ch k) ∧
      t.can = s.can := by
  have hexec := exec_canTxAttemptEnd_on dt ch mb .lost s hc hk hm hst hmute
  obtain ⟨hstatus, hcan⟩ := ((s.advance dt).attempted ch mb).mbRetry_plain_shows ch mb 0 k hcancel hnext
  rewrite [State.mbWaits_of_get (s := s) (t := (s.advance dt).attempted ch mb) ch k (State.attempted_get _ _ _ _ (by decide))] at hstatus
  exact ⟨_, hexec, hstatus, hcan⟩

section
variable (l m : Nat) (d e : Bool)

/-- The state after an error has been taken and the mailbox retried; the counters are still to move. -/
def State.errRetried (s : State) (ch mb : Nat) (k : CanMbCfg) (l : Nat) (d : Bool) : State :=
  (((s.attempted ch mb).lecTaken ch mb l d).mbRetry ch mb k (failKind l))

omit hc hk hm hst hmute in
theorem State.errRetried_get {f : Fld} (b : Nat)
    (h : apartFrom (R.CAN_STAT_NO_ACK :: R.CAN_EVT_NO_ACK :: lecFlds ++ retryFlds) f = true) : (s.errRetried ch mb k l d).get f b = s.get f b :=
  (State.mbRetry_get _ _ _ _ _ _ (apartFrom_mono h (by simp))).trans ((State.lecTaken_get _ _ _ _ _ _ (apartFrom_mono h (by simp))).trans
    (State.attempted_get _ _ _ _ (apartFrom_ne h (by simp))))

omit hc hk hm hst hmute in
theorem State.errRetried_canSt {β : Type} {p : CanSt → β} (hp : OffMbs p) : p ((s.errRetried ch mb k l d).canSt ch) =
    p { s.canSt ch with ackRun := if l = 3 then (s.canSt ch).ackRun + 1 else 0 } :=
  (State.mbRetry_canSt _ _ _ _ _ hp).trans (congrArg p (State.lecTaken_canSt _ _ _ _ _))

theorem exec_canTxAttemptEnd_err : exec (.canTxAttemptEnd dt ch mb (.err l d e m)) s =
    .next (((s.advance dt).errRetried ch mb k l d).canCount ch c ((s.canSt ch).tec + s.tecStep ch l e m) (s.canSt ch).rec_) := by
  refine (exec_canTxAttemptEnd_on dt ch mb (.err l d e m) s hc hk hm hst hmute).trans ?_
  have htec : (((s.advance dt).errRetried ch mb k l d).canSt ch).tec = (s.canSt ch).tec :=
    State.errRetried_canSt ch mb (s.advance dt) l d (p := CanSt.tec) fun _ _ => rfl
  have hrec : (((s.advance dt).errRetried ch mb k l d).canSt ch).rec_ = (s.canSt ch).rec_ :=
    State.errRetried_canSt ch mb (s.advance dt) l d (p := CanSt.rec_) fun _ _ => rfl
  have hstep : ((s.advance dt).attempted ch mb).tecStep ch l e m = s.tecStep ch l e m := by
    unfold State.tecStep
    rewrite [State.attempted_get _ _ _ _ (by decide)]
    rfl
  dsimp only
  rewrite [hstep]
  unfold State.errRetried at htec hrec ⊢
  rw [htec, hrec]

theorem canTxAttemptEnd_err (hcancel : (s.mbSt ch mb).cancel = false) (hnext : (s.mbSt ch mb).next = none) (hone : k.oneshot = false)
    (hlow : (s.canSt ch).tec + s.tecStep ch l e m ≤ 255) :
    ∃ t, exec (.canTxAttemptEnd dt ch mb (.err l d e m)) s = .next t ∧ t.mbStatus ch mb = s.mbWaits ch k ∧
      (t.canSt ch).tec = (s.canSt ch).tec + (if e = true ∧ (l = 1 ∨ (l = 3 ∧ s.get R.CAN_STAT_ERR_STATE ch = 1)) then 0 else 8) + 8 * m ∧
      (t.canSt ch).rec_ = (s.canSt ch).rec_ ∧ t.get R.CAN_LEC_LEC ch = l % 8 ∧ t.get R.CAN_LEC_DATA_PHASE ch = (if d then 1 else 0) ∧
      t.get R.CAN_STAT_ERR_STATE ch = (if 128 ≤ (t.canSt ch).tec ∨ 128 ≤ (t.canSt ch).rec_ then 1 else 0) ∧
      (l = 3 → (t.canSt ch).ackRun = (s.canSt ch).ackRun + 1) ∧ (l = 3 → 16 ≤ (s.canSt ch).ackRun + 1 → t.get R.CAN_STAT_NO_ACK ch = 1) ∧
      t.canMode ch = 2 := by
  have hmb : (((s.advance dt).attempted ch mb).lecTaken ch mb l d).mbSt ch mb = s.mbSt ch mb :=
    State.mbSt_of_mbs (congrArg CanSt.mbs (((s.advance dt).attempted ch mb).lecTaken_canSt ch mb l d) :) mb
  obtain ⟨hstatus, -⟩ := (((s.advance dt).attempted ch mb).lecTaken ch mb l d).mbRetry_plain_shows ch mb (failKind l) k
    (by rewrite [hmb]; exact hcancel) (by rewrite [hmb]; exact hnext)
  rewrite [hone, if_neg Bool.false_ne_true, State.mbWaits_of_get (s := s)
    (t := ((s.advance dt).attempted ch mb).lecTaken ch mb l d) ch k ((State.lecTaken_get _ _ _ _ _ _ (by decide)).trans
    (State.attempted_get _ _ _ _ (by decide)))] at hstatus
  obtain ⟨hlec, hphase⟩ := ((s.advance dt).attempted ch mb).lecTaken_shows ch mb l d
  have hcount := State.canCount_canSt ((s.advance dt).errRetried ch mb k l d) ch ((s.canSt ch).tec + s.tecStep ch l e m) (s.canSt ch).rec_ c hlow
  refine ⟨_, exec_canTxAttemptEnd_err dt ch mb s hc hk hm hst hmute l m d e, ?_, ?_, (congrArg CanSt.rec_ hcount :), ?_, ?_, ?_, ?_, ?_, ?_⟩
  · exact (State.canCount_get _ _ _ _ _ hlow _ (by decide)).trans hstatus
  · refine (congrArg CanSt.tec hcount).trans ?_
    unfold State.tecStep
    simp only [Bool.and_eq_true, Bool.or_eq_true, decide_eq_true_eq, Nat.add_assoc]
  · exact (State.canCount_get _ _ _ _ _ hlow _ (by decide)).trans ((State.mbRetry_get _ _ _ _ _ _ (by decide)).trans hlec)
  · exact (State.canCount_get _ _ _ _ _ hlow _ (by decide)).trans ((State.mbRetry_get _ _ _ _ _ _ (by decide)).trans hphase)
  · rewrite [hcount]
    exact (State.canCount_shows _ _ _ _ _ hlow).2.2
  · intro hl
    rewrite [hcount]
    refine (State.errRetried_canSt ch mb (s.advance dt) l d (p := CanSt.ackRun) fun _ _ => rfl).trans ?_
    exact if_pos hl
  · intro hl hrun
    exact (State.canCount_get _ _ _ _ _ hlow _ (by decide)).trans ((State.mbRetry_get _ _ _ _ _ _ (by decide)).trans
      (State.lecTaken_noAck _ _ _ _ _ hl hrun))
  · exact (State.canCount_get _ _ _ _ _ hlow _ (by decide)).trans ((State.errRetried_get _ _ _ _ _ _ (by decide)).trans hm)

theorem canTxAttemptEnd_busOff (hhigh : 255 < (s.canSt ch).tec + s.tecStep ch l e m) :
    ∃ t, exec (.canTxAttemptEnd dt ch mb (.err l d e m)) s = .next t ∧ t.canMode ch = (if c.manual then 4 else 5) ∧
      t.get R.CAN_STAT_ERR_STATE ch = 2 ∧ t.get R.CAN_ERR_BUSOFFS ch = (s.get R.CAN_ERR_BUSOFFS ch + 1) % 65536 ∧
      t.get R.CAN_EVT_BUSOFF ch = 1 ∧ t.get R.CAN_ERR_TEC ch = 255 := by
  have hexec := exec_canTxAttemptEnd_err dt ch mb s hc hk hm hst hmute l m d e
  have hmode : ((s.advance dt).errRetried ch mb k l d).canMode ch = 2 := (State.errRetried_get _ _ _ _ _ _ (by decide)).trans hm
  rewrite [State.canCount_busOff _ _ _ _ _ hhigh hmode] at hexec
  obtain ⟨hoff, hcount, hevt, herr, htec⟩ := ((((s.advance dt).errRetried ch mb k l d).canMoved ch
    ((s.canSt ch).tec + s.tecStep ch l e m) (s.canSt ch).rec_).canErrState ch).canBusOff_shows ch c
  obtain ⟨htec', -, herr'⟩ := (((s.advance dt).errRetried ch mb k l d).canMoved ch
    ((s.canSt ch).tec + s.tecStep ch l e m) (s.canSt ch).rec_).canErrState_shows ch
  have hmoved : (((s.advance dt).errRetried ch mb k l d).canMoved ch ((s.canSt ch).tec + s.tecStep ch l e m) (s.canSt ch).rec_).canSt ch =
      { ((s.advance dt).errRetried ch mb k l d).canSt ch with tec := (s.canSt ch).tec + s.tecStep ch l e m, rec_ := (s.canSt ch).rec_ } :=
    State.putCan_canSt _ _ _
  rewrite [hmoved] at htec' herr'
  refine ⟨_, hexec, hoff, herr.trans (herr'.trans (if_pos hhigh)), hcount.trans ?_, hevt, htec.trans (htec'.trans (by dsimp only; omega))⟩
  rewrite [State.canErrState_get _ _ _ (by decide)]
  exact congrArg (fun n => (n + 1) % 65536) (State.errRetried_get ch mb (s.advance dt) l d (k := k) (f := R.CAN_ERR_BUSOFFS) ch (by decide))

end

end

/-! ### CAN_RX_ERROR, CAN_RECOVER, BUSOFF_RECOVERY_DONE and CAN_BUS_INTEGRATION_DONE (R396, R401, R411, R412) -/

section
variable (dt ch l n : Nat) (d : Bool) (c : CanCfg) (s : State)

theorem canRxError_counts (hc : s.canCfg ch = some c) (hm : s.canMode ch = 2) (htec : (s.canSt ch).tec ≤ 255) :
    ∃ t, exec (.canRxError dt ch l d n false) s = .next t ∧ (t.canSt ch).rec_ = (s.canSt ch).rec_ + n ∧ (t.canSt ch).tec = (s.canSt ch).tec ∧
      t.get R.CAN_LEC_LEC ch = l % 8 ∧ t.get R.CAN_ERR_REC ch = min 255 ((s.canSt ch).rec_ + n) ∧ t.canMode ch = 2 ∧
      t.get R.CAN_STAT_ERR_STATE ch = (if 128 ≤ (t.canSt ch).tec ∨ 128 ≤ (t.canSt ch).rec_ then 1 else 0) := by
  have hcan : ((s.advance dt).canLec ch l d).canSt ch = s.canSt ch := State.canSt_of_can (State.canLec_can _ _ _ _) ch
  have hmode : ((s.advance dt).canLec ch l d).canMode ch = 2 := (State.canLec_get _ _ _ _ _ (by decide)).trans hm
  have hexec : exec (.canRxError dt ch l d n false) s =
      .next (((s.advance dt).canLec ch l d).canCount ch c (s.canSt ch).tec ((s.canSt ch).rec_ + n)) := by
    show execCanRxError dt ch l d n false s = _
    unfold execCanRxError
    dsimp only
    rewrite [show (s.advance dt).canCfg ch = some c from hc]
    dsimp only
    rw [if_neg (by simp [show (s.advance dt).canMode ch = 2 from hm]), if_neg Bool.false_ne_true, if_neg (by rewrite [hmode]; decide), hcan]
  have hcount := State.canCount_canSt ((s.advance dt).canLec ch l d) ch (s.canSt ch).tec ((s.canSt ch).rec_ + n) c htec
  obtain ⟨-, hrec, herr⟩ := State.canCount_shows ((s.advance dt).canLec ch l d) ch (s.canSt ch).tec ((s.canSt ch).rec_ + n) c htec
  refine ⟨_, hexec, (congrArg CanSt.rec_ hcount :), (congrArg CanSt.tec hcount :), ?_, hrec, ?_, ?_⟩
  · exact (State.canCount_get _ _ _ _ _ htec _ (by decide)).trans (State.canLec_shows _ _ _ _).1
  · exact (State.canCount_get _ _ _ _ _ htec _ (by decide)).trans hmode
  · rewrite [hcount]
    exact herr

theorem canRxError_listens (hc : s.canCfg ch = some c) (hm : s.canMode ch = 3) :
    ∃ t, exec (.canRxError dt ch l d n false) s = .next t ∧ t.can = s.can ∧ t.get R.CAN_LEC_LEC ch = l % 8 ∧ t.canMode ch = 3 := by
  have hmode : ((s.advance dt).canLec ch l d).canMode ch = 3 := (State.canLec_get _ _ _ _ _ (by decide)).trans hm
  have hexec : exec (.canRxError dt ch l d n false) s = .next ((s.advance dt).canLec ch l d) := by
    show execCanRxError dt ch l d n false s = _
    unfold execCanRxError
    dsimp only
    rewrite [show (s.advance dt).canCfg ch = some c from hc]
    dsimp only
    rw [if_neg (by simp [show (s.advance dt).canMode ch = 3 from hm]), if_neg Bool.false_ne_true, if_pos hmode]
  exact ⟨_, hexec, State.canLec_can _ _ _ _, (State.canLec_shows _ _ _ _).1, hmode⟩

/-- The event of a protocol exception. -/
def State.pexcEv (s : State) (ch : Nat) : Ev :=
  { code := 0x140B, source := ch, items := [(1, ch), (1, s.get R.CAN_LEC_PEXC ch)], key := 1 }

theorem canRxError_excepts (hc : s.canCfg ch = some c) (hm : s.canMode ch ∈ [2, 3]) :
    ∃ t, exec (.canRxError dt ch l d n true) s = .next t ∧ t.canMode ch = 1 ∧
      t.get R.CAN_LEC_PEXC ch = min 255 (s.get R.CAN_LEC_PEXC ch + 1) ∧
      Framed [loc R.CAN_LEC_PEXC ch, loc R.CAN_STAT_MODE ch] (s.advance dt) t := by
  have hmode : (s.advance dt).canMode ch = 2 ∨ (s.advance dt).canMode ch = 3 := by simpa [State.canMode] using hm
  have hexec : exec (.canRxError dt ch l d n true) s = .next ((((s.advance dt).incSat R.CAN_LEC_PEXC ch).set R.CAN_STAT_MODE 1 ch).record
      ((((s.advance dt).incSat R.CAN_LEC_PEXC ch).set R.CAN_STAT_MODE 1 ch).pexcEv ch)) := by
    show execCanRxError dt ch l d n true s = _
    unfold execCanRxError
    dsimp only
    rewrite [show (s.advance dt).canCfg ch = some c from hc]
    dsimp only
    rewrite [if_neg (by rcases hmode with e | e <;> simp [e]), if_pos rfl]
    rfl
  refine ⟨_, hexec, ?_, ?_, ?_⟩
  · exact (State.record_get _ _ _ noteFld_CAN_STAT_MODE).trans (State.get_set_same _ R.CAN_STAT_MODE 1 _)
  · rewrite [State.record_get _ _ _ (by decide), State.get_set_ne _ _ _ _ (by decide), State.incSat_get_same]
    rfl
  · exact State.record_framed _ _ (set_framed _ _ _ _ (.inl (by simp)) (set_framed _ _ _ _ (.inl (by simp)) (.refl _ _)))

theorem exec_canRxError_off (x : Bool) (hm : s.canMode ch ∉ [2, 3]) : exec (.canRxError dt ch l d n x) s = .next (s.advance dt) := by
  obtain ⟨h2, h3⟩ : ¬ (s.advance dt).canMode ch = 2 ∧ ¬ (s.advance dt).canMode ch = 3 := by simpa [State.canMode] using hm
  show execCanRxError dt ch l d n x s = _
  unfold execCanRxError
  dsimp only
  split
  · rfl
  · exact if_pos (by simp [h2, h3])

variable (p : Port)

theorem canRecover_starts (hs : s.session p = some .operator) (hm : s.canMode (ch % 8) = 4) :
    ∃ t, exec (.canRecover dt p ch) s = .next t ∧ t.canMode (ch % 8) = 5 ∧ t.role.rwlAt = s.now + dt ∧ t.can = s.can ∧
      Framed (loc R.CAN_STAT_MODE (ch % 8) :: regKeys 0 lullFlds) { s.advance dt with role := t.role, pwr := t.pwr } t := by
  have hmode : (s.advance dt).rwlTaken.canMode (ch % 8) = 4 := (State.taken_get dt s (by decide) _).trans hm
  have hexec : exec (.canRecover dt p ch) s = .next ((s.advance dt).rwlTaken.set R.CAN_STAT_MODE 5 (ch % 8)) := by
    refine (congrArg Host.Outcome.next ((s.advance dt).withRole_taken hs (List.mem_singleton.2 rfl) _ _)).trans ?_
    exact congrArg Host.Outcome.next (if_pos hmode)
  exact ⟨_, hexec, State.get_set_same _ R.CAN_STAT_MODE 5 _, rfl, State.lullLeave_can _ 1,
    set_framed _ _ _ _ (.inl List.mem_cons_self) ((State.rwlTaken_framed _).mono fun _ => List.mem_cons_of_mem _)⟩

theorem canRecover_denied (hs : s.session p ≠ some .operator) :
    ∃ t, exec (.canRecover dt p ch) s = .next t ∧ t.canMode (ch % 8) = s.canMode (ch % 8) ∧ t.role = s.role ∧ t.can = s.can := by
  have hexec : exec (.canRecover dt p ch) s = .next (((s.advance dt).lullLeave 1).rwlIgnored p (0x13054 + ch % 8 * 0x400)) :=
    congrArg Host.Outcome.next (State.withRole_denied _ _ _ _ _ fun r hr hmem => hs (hr.trans (congrArg some (List.mem_singleton.1 hmem))))
  refine ⟨_, hexec, ?_, ?_, ?_⟩
  · unfold State.canMode
    rewrite [State.rwlIgnored_get _ _ _ _ noteFld_CAN_STAT_MODE, State.lullLeave_get _ _ _ (by decide)]
    rfl
  · rewrite [State.rwlIgnored_role, State.lullLeave_role]
    rfl
  · rewrite [State.rwlIgnored_can, State.lullLeave_can]
    rfl

/-- A channel that has rejoined the bus, with its counters at 0; the alarm is still to clear. -/
def State.rejoined (s : State) (ch : Nat) : State :=
  ((s.set R.CAN_STAT_MODE (if s.isActive then 2 else 3) ch).putCan ch { s.canSt ch with tec := 0, rec_ := 0, ackRun := 0 }).canErrState ch

theorem State.rejoined_canSt : (s.rejoined ch).canSt ch = { s.canSt ch with tec := 0, rec_ := 0, ackRun := 0 } :=
  (State.canSt_of_can (State.canErrState_can _ _) ch).trans (State.putCan_canSt _ _ _)

theorem busoffRecoveryDone_rejoins (hc : s.canCfg ch = some c) (hm : s.canMode ch = 5) :
    ∃ t, exec (.busoffRecoveryDone dt ch) s = .next t ∧ t.canMode ch = (if s.isActive then 2 else 3) ∧ (t.canSt ch).tec = 0 ∧
      (t.canSt ch).rec_ = 0 ∧ (t.canSt ch).ackRun = 0 ∧ t.get R.CAN_ERR_TEC ch = 0 ∧ t.get R.CAN_ERR_REC ch = 0 ∧
      t.get R.CAN_STAT_ERR_STATE ch = 0 := by
  have hexec : exec (.busoffRecoveryDone dt ch) s = .next (((s.advance dt).rejoined ch).clearAlarm 0x1401 ch
      [(1, ch), (1, 0), caseItem 0x1401 (if c.manual then 1 else 0)] 1) := by
    show execBusoffRecoveryDone dt ch s = _
    unfold execBusoffRecoveryDone
    dsimp only
    rewrite [show (s.advance dt).canCfg ch = some c from hc]
    dsimp only
    rewrite [if_neg (not_not_intro (show (s.advance dt).canMode ch = 5 from hm))]
    rfl
  have hst := (s.advance dt).rejoined_canSt ch
  obtain ⟨htec, hrec, herr⟩ := (((s.advance dt).set R.CAN_STAT_MODE (if (s.advance dt).isActive then 2 else 3) ch).putCan ch
    { s.canSt ch with tec := 0, rec_ := 0, ackRun := 0 }).canErrState_shows ch
  rewrite [State.putCan_canSt] at htec hrec herr
  have hcan : ∀ l k, (((s.advance dt).rejoined ch).clearAlarm 0x1401 ch l k).canSt ch = { s.canSt ch with tec := 0, rec_ := 0, ackRun := 0 } :=
    fun l k => (State.canSt_of_can (State.clearAlarm_can _ _ _ _ _) ch).trans hst
  refine ⟨_, hexec, ?_, (congrArg CanSt.tec (hcan _ _) :), (congrArg CanSt.rec_ (hcan _ _) :), (congrArg CanSt.ackRun (hcan _ _) :), ?_, ?_, ?_⟩
  · unfold State.canMode
    rewrite [State.clearAlarm_get _ _ _ _ _ _ noteFld_CAN_STAT_MODE]
    refine (State.canErrState_get _ _ _ (by decide)).trans ((State.get_set_same _ R.CAN_STAT_MODE _ _).trans ?_)
    show (if s.isActive then 2 else 3) % 8 = _
    split <;> rfl
  · exact (State.clearAlarm_get _ _ _ _ _ _ (by decide)).trans htec
  · exact (State.clearAlarm_get _ _ _ _ _ _ (by decide)).trans hrec
  · exact (State.clearAlarm_get _ _ _ _ _ _ (by decide)).trans herr

theorem exec_busoffRecoveryDone_idle (hm : s.canMode ch ≠ 5) : exec (.busoffRecoveryDone dt ch) s = .next (s.advance dt) := by
  show execBusoffRecoveryDone dt ch s = _
  unfold execBusoffRecoveryDone
  dsimp only
  split
  · rfl
  · exact if_pos hm

theorem canBusIntegrationDone_joins (hm : s.canMode ch = 1) :
    ∃ t, exec (.canBusIntegrationDone dt ch) s = .next t ∧
      t.canMode ch = (if s.get R.DEV_STAT_DRIVES_NOTHING = 1 then 0 else if s.isActive then 2 else 3) ∧
      Framed [loc R.CAN_STAT_MODE ch] (s.advance dt) t := by
  have hexec : exec (.canBusIntegrationDone dt ch) s = .next ((s.advance dt).set R.CAN_STAT_MODE
      (if s.flag R.DEV_STAT_DRIVES_NOTHING then 0 else if s.isActive then 2 else 3) ch) := by
    show execCanBusIntegrationDone dt ch s = _
    unfold execCanBusIntegrationDone
    exact if_neg (not_not_intro hm)
  refine ⟨_, hexec, (State.get_set_same _ R.CAN_STAT_MODE _ _).trans ?_, set_framed _ _ _ _ (.inl (List.mem_singleton.2 rfl)) (.refl _ _)⟩
  unfold State.flag
  simp only [decide_eq_true_eq]
  repeat' split
  all_goals rfl

theorem exec_canBusIntegrationDone_idle (hm : s.canMode ch ≠ 1) : exec (.canBusIntegrationDone dt ch) s = .next (s.advance dt) := if_pos hm

end

/-- Settles O51: a mailbox's filling and cancelling, the end of an attempt, an error while receiving and the ways back to the bus, each by
its lemmas above. That a lost arbitration leaves the acknowledge run (log 224), the exemptions of TEC (log 221), the mailboxes at bus-off
(log 215) and an attempt with new content or a cancel (log 223) are the model's choice. -/
theorem canTransmission : Obligations.CanTransmission := by
  unfold Obligations.CanTransmission
  exact ⟨fun dt ch mb b c s => canPeriodicTransmit_fills dt ch mb b s c, fun dt ch mb b c s => canPeriodicTransmit_waits dt ch mb b s c,
    exec_canPeriodicTransmit_none,
    fun dt ch mb z c m s hc hk hm hst hcancel hnext hpart htec hmute =>
      canTxAttemptEnd_sent dt ch mb s hc hk hm hst hmute z hcancel hnext hpart htec,
    fun dt ch mb l m d e c k s hc hk hm hst hcancel hnext hone hmute hlow =>
      canTxAttemptEnd_err dt ch mb s hc hk hm hst hmute l m d e hcancel hnext hone hlow,
    fun dt ch mb l m d e c k s hc hk hm hst hmute hhigh => canTxAttemptEnd_busOff dt ch mb s hc hk hm hst hmute l m d e hhigh,
    fun dt ch mb c k s hc hk hm hst hcancel hnext hmute => canTxAttemptEnd_lost dt ch mb s hc hk hm hst hmute hcancel hnext,
    exec_canTxAttemptEnd_off, fun dt ch mb s => canMailboxCancel_inTime dt ch mb s, canMailboxCancel_late, exec_canMailboxCancel_idle,
    fun dt ch l n d c s => canRxError_counts dt ch l n d c s, fun dt ch l n d c s => canRxError_listens dt ch l n d c s,
    fun dt ch l n d c s => canRxError_excepts dt ch l n d c s, fun dt ch l n d x s => exec_canRxError_off dt ch l n d s x,
    fun dt ch p s => canRecover_starts dt ch s p, fun dt ch p s => canRecover_denied dt ch s p,
    fun dt ch c s => busoffRecoveryDone_rejoins dt ch c s, exec_busoffRecoveryDone_idle, canBusIntegrationDone_joins,
    exec_canBusIntegrationDone_idle⟩

end Sys2Proof.Machine
end

section
set_option Elab.async false
/-!
PROOF of the statement of 17_can_fd.md about reception (CanReception): what the counting of a frame and its destination leave alone, the
rules of an express slot, then reception, the reads of a slot and its lock, and the squall guard.
-/

namespace Sys2Proof.Machine

open Sys2Proof

/-! ### What the counting of a frame leaves alone (R402, R411, R416, R420) -/

abbrev canBandFlds : List Fld := [R.CAN_BAND_LAST_ID, R.CAN_BAND_INTRUDERS, R.CAN_STAT_BAND_INTRUDER, R.CAN_EVT_BAND]

/-- The registers that move with the counters, the stop band and an echo when a frame is received. -/
abbrev rxFlds : List Fld := countFlds ++ [R.CAN_STAT_MODE, R.CAN_ERR_BUSOFFS, R.CAN_EVT_BUSOFF] ++ failFlds ++ canBandFlds

/-- A view that takes no notice of a channel's counters, its stop band and its mailboxes' status. -/
structure RxView {β : Type} (p : State → β) : Prop extends Unseen (· ∈ rxFlds) p where
  moved : ∀ (u : State) ch a b, p (u.canMoved ch a b) = p u

theorem rxView_get {f : Fld} (b : Nat) (h : apartFrom rxFlds f = true) : RxView (fun u : State => u.get f b) :=
  ⟨unseen_get_of_apartFrom b h, fun _ _ _ _ => rfl⟩

theorem rxView_pts : RxView State.pts :=
  ⟨⟨fun _ _ _ _ _ => rfl, fun _ _ h => (State.of_plain_pts h.plain :)⟩, fun _ _ _ _ => rfl⟩

theorem rxView_inbox : RxView State.inbox :=
  ⟨⟨fun _ _ _ _ _ => rfl, fun _ _ h => (State.of_plain_inbox h.plain :)⟩, fun _ _ _ _ => rfl⟩

theorem rxView_pwr : RxView State.pwr :=
  ⟨⟨fun _ _ _ _ _ => rfl, fun _ _ h => (State.of_plain_pwr h.plain :)⟩, fun _ _ _ _ => rfl⟩

theorem rxView_man : RxView State.man :=
  ⟨⟨fun _ _ _ _ _ => rfl, fun _ _ h => (State.of_plain_man h.plain :)⟩, fun _ _ _ _ => rfl⟩

theorem rxView_now : RxView State.now :=
  ⟨⟨fun _ _ _ _ _ => rfl, fun _ _ h => (State.of_plain_now h.plain :)⟩, fun _ _ _ _ => rfl⟩

/-- Moving the counters of one channel leaves the slots of every channel. -/
theorem State.canMoved_slots (u : State) (ch ch' a b : Nat) : ((u.canMoved ch a b).canSt ch').slots = (u.canSt ch').slots := by
  by_cases h : ch' = ch
  · subst h
    exact (congrArg CanSt.slots (u.putCan_canSt ch' _) :)
  · unfold State.canMoved State.putCan
    show (tget (tput u.can ch _) ch' {}).slots = _
    unfold tget State.canSt
    rewrite [tfind_tput_ne _ _ _ _ h]
    rfl

theorem rxView_slots (ch : Nat) : RxView (fun u : State => (u.canSt ch).slots) :=
  ⟨⟨fun _ _ _ _ _ => rfl, fun _ _ h => congrArg CanSt.slots (State.canSt_of_can (State.of_plain_can h.plain) ch)⟩,
    fun u c a b => u.canMoved_slots c ch a b⟩

theorem rxView_esSt (ch n : Nat) : RxView (fun u : State => u.esSt ch n) := by
  have h := rxView_slots ch
  have hes {u v : State} (e : (u.canSt ch).slots = (v.canSt ch).slots) : u.esSt ch n = v.esSt ch n := by
    unfold State.esSt
    rw [e]
  exact ⟨⟨fun u f v b hf => hes (h.set u f v b hf), fun u v hf => hes (h.told u v hf)⟩, fun u c a b => hes (h.moved u c a b)⟩

section
variable {β : Type} {p : State → β} (h : RxView p) (s : State) (ch : Nat) (c : CanCfg) (f : CanFrame)

/-- The error counter after a frame received well, where the channel counts. -/
def State.frameCounted : State := if s.canMode ch = 2 then s.canCount ch c (s.canSt ch).tec (s.recAfter (s.canSt ch).rec_) else s

/-- A frame has been received, before anything is done with it. -/
def State.frameTaken : State := ((s.frameCounted ch c).inc R.CAN_RX_CNT_FRAMES ch).canBand ch c f

include h

theorem State.canErrState_view : p (s.canErrState ch) = p s := by
  have hshown : p (s.canErrShown ch) = p s := by
    unfold State.canErrShown
    rw [h.set _ _ _ _ (by decide), State.setSat_eq, h.set _ _ _ _ (by decide), State.setSat_eq, h.set _ _ _ _ (by decide)]
  rcases s.canErrState_cases ch with e | e | e
  · rw [e, hshown]
  · rw [e, h.record, h.evt _ _ _ (by decide), hshown]
  · rw [e, h.record, hshown]

theorem State.mbFail_view (mb kind : Nat) : p (s.mbFail ch mb kind) = p s := by
  unfold State.mbFail State.setMb
  rw [h.record, h.evt _ _ _ (by decide), State.incSat_eq, h.set _ _ _ _ (by decide), h.set _ _ _ _ (by decide), h.set _ _ _ _ (by decide)]

theorem State.canBusOff_view : p (s.canBusOff ch c) = p s := by
  have hshown : p (s.canBusOffShown ch c.manual) = p s := by
    unfold State.canBusOffShown
    rw [h.told _ _ (State.alarm_framed _ _ _ _ _ (.refl _ _)), h.evt _ _ _ (by decide), State.inc_eq, h.set _ _ _ _ (by decide),
      h.set _ _ _ _ (by decide)]
  refine Eq.trans (foldl_keeps p c.mbs (fun u x => ?_) (s.canBusOffShown ch c.manual)) hshown
  dsimp only
  split
  · exact State.mbFail_view h _ _ _ _
  · split
    · exact h.set _ _ _ _ (by decide)
    · rfl

theorem State.frameCounted_view : p (s.frameCounted ch c) = p s := by
  unfold State.frameCounted State.canCount
  dsimp only
  split
  · split
    · exact (State.canBusOff_view h _ _ _).trans ((State.canErrState_view h _ _).trans (h.moved _ _ _ _))
    · exact (State.canErrState_view h _ _).trans (h.moved _ _ _ _)
  · rfl

theorem State.canBand_view : p (s.canBand ch c f) = p s := by
  unfold State.canBand
  split
  · rfl
  · generalize (if f.ide then f.id / 2 ^ 18 else f.id) = base
    dsimp only
    split
    · rw [h.told _ _ (State.alarm_framed _ _ _ _ _ (.refl _ _)), h.evt _ _ _ (by decide), h.set _ _ _ _ (by decide), State.incSat_eq,
        h.set _ _ _ _ (by decide), h.set _ _ _ _ (by decide)]
    · rfl

theorem State.frameTaken_view (hinc : ∀ (u : State) v b, p (u.set R.CAN_RX_CNT_FRAMES v b) = p u) : p (s.frameTaken ch c f) = p s := by
  unfold State.frameTaken
  rw [State.canBand_view h, State.inc_eq, hinc, State.frameCounted_view h]

theorem State.canEcho_view : p (s.canEcho ch c f) = p s := by
  unfold State.canEcho
  split
  · rfl
  · refine foldl_keeps p _ (fun u x => ?_) s
    dsimp only
    split
    · exact h.set _ _ _ _ (by decide)
    · rfl

end

/-- Every received frame is counted once. -/
theorem State.frameTaken_counts (s : State) (ch : Nat) (c : CanCfg) (f : CanFrame) :
    (s.frameTaken ch c f).get R.CAN_RX_CNT_FRAMES ch = (s.get R.CAN_RX_CNT_FRAMES ch + 1) % 65536 := by
  have h := rxView_get (f := R.CAN_RX_CNT_FRAMES) ch (by decide)
  refine (State.canBand_view h _ ch c f).trans ?_
  rewrite [State.inc_eq, State.get_set_same, State.frameCounted_view h]
  rfl

theorem State.frameTaken_get (s : State) (ch : Nat) (c : CanCfg) (f : CanFrame) {g : Fld} (b : Nat)
    (h : apartFrom (R.CAN_RX_CNT_FRAMES :: rxFlds) g = true) : (s.frameTaken ch c f).get g b = s.get g b :=
  State.frameTaken_view (rxView_get b (apartFrom_mono h (by simp))) s ch c f fun _ _ _ => State.get_set_ne _ _ _ _ (apartFrom_ne h (by simp))

/-! ### The destination of a frame (R403) -/

section
variable {β : Type} {p : State → β} (hin : ∀ u v, InboxFramed u v → p v = p u) (hmnf : ∀ (u : State) x, p { u with mnf := x } = p u)

theorem State.layoutIn_inboxFramed (s : State) (l : List LField) (data : List Nat) (pm : Pm) : InboxFramed s (s.layoutIn l data pm) := by
  unfold State.layoutIn
  suffices hall : ∀ a : State × Quality, InboxFramed s a.1 → InboxFramed s (l.foldl (fun (a : State × Quality) f =>
      let raw := getField f data
      if f.enc = 4 then (a.1, (Quality.ofCode raw).getD .masked)
      else
        let type := match a.1.findPt f.addr with
          | some i => (match a.1.ptCfg i with | some c => c.type | none => 0)
          | none => 0
        (a.1.inbound { addr := f.addr, value := a.1.fieldToPoint f raw type, pm := pm, quality := a.2 }, .good)) a).1 from hall _ (.refl s)
  induction l with
  | nil => exact fun a ha => ha
  | cons x l ih =>
    intro a ha
    refine ih _ ?_
    dsimp only
    split
    · exact ha
    · exact ha.trans (State.inbound_inboxFramed _ _)

include hin hmnf

theorem State.rollReply_view (s : State) (n mark seq : Nat) : p (s.rollReply n mark seq) = p s := by
  have hrec (u : State) (e : Ev) : p (u.record e) = p u := hin _ _ (.of_framed (State.record_framed _ _ (.refl _ _)))
  unfold State.rollReply
  dsimp only
  split
  · rfl
  · split_ifs
    · exact hrec s _
    · rfl
    · exact hrec s _
    · exact (hmnf _ _).trans (hrec s _)
    · exact hmnf s _

/-- The destination of a slot's frame changes the inputs that wait, and of a roll-call reply the node's state; nothing else. -/
theorem State.canDest_slot_view (s : State) (ch : Nat) (c : CanCfg) (x : CanFilter) (n : Nat) (f : CanFrame) (d : List Nat) :
    p (s.canDest ch c x n true f d) = p s := by
  unfold State.canDest
  dsimp only
  split
  · split
    · rfl
    · split
      · rfl
      · exact hin _ _ (s.layoutIn_inboxFramed _ _ _)
  · split
    · rfl
    · exact hin _ _ (Framed.refl _ _)
  · split
    · rfl
    · unfold State.canRollReply
      dsimp only
      split
      · rfl
      · split
        · exact State.rollReply_view hin hmnf s _ _ _
        · rfl
  · rfl

end

theorem State.canDest_slot_get (s : State) (ch : Nat) (c : CanCfg) (x : CanFilter) (n : Nat) (f : CanFrame) (d : List Nat) {g : Fld} (b : Nat)
    (hn : noteFld g = false) : (s.canDest ch c x n true f d).get g b = s.get g b :=
  State.canDest_slot_view (p := fun u => u.get g b) (fun _ _ h => Framed.get_eq h b hn List.not_mem_nil) (fun _ _ => rfl) s ch c x n f d

theorem State.canDest_slot_can (s : State) (ch : Nat) (c : CanCfg) (x : CanFilter) (n : Nat) (f : CanFrame) (d : List Nat) :
    (s.canDest ch c x n true f d).can = s.can :=
  State.canDest_slot_view (p := State.can) (fun _ _ h => (State.of_plain_can h.plain :)) (fun _ _ => rfl) s ch c x n f d

/-! ### A frame stands in the front buffer of a slot (R404) -/

section
variable (s : State) (ch n : Nat) (f : CanFrame) (q : Nat)

@[simp] theorem State.putEs_get (e : EsSt) (g : Fld) (b : Nat) : (s.putEs ch n e).get g b = s.get g b := rfl

@[simp] theorem State.putEs_esSt (e : EsSt) : (s.putEs ch n e).esSt ch n = e := by
  unfold State.putEs State.esSt tget
  rewrite [State.putCan_canSt]
  simp

/-- A slot's own data is read in the channels' table and nowhere else. -/
theorem State.esSt_of_can {s t : State} (h : t.can = s.can) (ch n : Nat) : t.esSt ch n = s.esSt ch n := by
  unfold State.esSt
  rw [State.canSt_of_can h]

/-- The head of a frame as the registers of a slot carry it. -/
def frameHead (f : CanFrame) (seq : Nat) : List (Fld × Nat) :=
  [(R.CAN_ES_ID_ID, f.id), (R.CAN_ES_ID_IDE, if f.ide then 1 else 0), (R.CAN_ES_ID_FDF, if f.fdf then 1 else 0),
    (R.CAN_ES_ID_BRS, if f.brs then 1 else 0), (R.CAN_ES_INFO_DLC, f.dlc), (R.CAN_ES_INFO_LEN, f.data.length),
    (R.CAN_ES_INFO_ESI, if f.esi then 1 else 0), (R.CAN_ES_INFO_SEQ, seq), (R.CAN_ES_PM_PM32, pmTotal f.pm)]

/-- The head of a frame in the front buffer. -/
def State.esHead (s : State) (b : Nat) (f : CanFrame) (seq : Nat) : State :=
  (frameHead f seq).foldl (fun (s : State) x => s.set x.1 x.2 b) s

/-- The words of a slot's data, from the first. -/
def State.esWords (s : State) (b : Nat) (w : Nat → Nat) (k : Nat) : State :=
  (List.range k).foldl (fun (s : State) j => s.set R.CAN_ES_DATA_DATA (w j) (b * 16 + j)) s

theorem State.esWords_succ (b : Nat) (w : Nat → Nat) (k : Nat) :
    s.esWords b w (k + 1) = (s.esWords b w k).set R.CAN_ES_DATA_DATA (w k) (b * 16 + k) := by
  unfold State.esWords
  rewrite [List.range_succ, List.foldl_append]
  rfl

theorem State.esWords_get_ne (b : Nat) (w : Nat → Nat) (k : Nat) {g : Fld} (c : Nat) (h : fkey g ≠ fkey R.CAN_ES_DATA_DATA) :
    (s.esWords b w k).get g c = s.get g c :=
  foldl_keeps (fun u : State => u.get g c) _ (fun _ _ => State.get_set_ne _ _ _ _ h) s

theorem State.esWords_get (b : Nat) (w : Nat → Nat) {k j : Nat} (h : j < k) :
    (s.esWords b w k).get R.CAN_ES_DATA_DATA (b * 16 + j) = w j % 2 ^ 32 := by
  induction k with
  | zero => exact absurd h (Nat.not_lt_zero j)
  | succ k ih =>
    rewrite [State.esWords_succ]
    by_cases hjk : j = k
    · subst hjk
      exact State.get_set_same _ R.CAN_ES_DATA_DATA _ _
    · rewrite [State.get_set_bank _ _ _ _ (by omega)]
      exact ih (by omega)

theorem State.esWords_can (b : Nat) (w : Nat → Nat) (k : Nat) : (s.esWords b w k).can = s.can :=
  foldl_keeps State.can _ (fun u x => State.set_can u R.CAN_ES_DATA_DATA (w x) (b * 16 + x)) s

/-- The words of a frame's data. -/
def frameWord (f : CanFrame) (j : Nat) : Nat := ofLe ((f.data.drop (4 * j)).take 4)

theorem State.esFront_eq : s.esFront ch n f q =
    (((((s.esHead (esBank ch n) f q).esWords (esBank ch n) (frameWord f) 16).set R.CAN_ES_STAT_NEW 1 (esBank ch n)).evt R.CAN_EVT_ES_NEW ch).raise
      (160 + esBank ch n)) := rfl

abbrev frontFlds : List Fld := [R.CAN_ES_ID_ID, R.CAN_ES_ID_IDE, R.CAN_ES_ID_FDF, R.CAN_ES_ID_BRS, R.CAN_ES_INFO_DLC, R.CAN_ES_INFO_LEN,
  R.CAN_ES_INFO_ESI, R.CAN_ES_INFO_SEQ, R.CAN_ES_PM_PM32, R.CAN_ES_DATA_DATA, R.CAN_ES_STAT_NEW, R.CAN_EVT_ES_NEW]

theorem frameHead_fields : (frameHead f q).map Prod.fst = frontFlds.take 9 := rfl

theorem State.esHead_get (b : Nat) {g : Fld} (c : Nat) (h : apartFrom (frontFlds.take 9) g = true) : (s.esHead b f q).get g c = s.get g c := by
  unfold State.esHead
  have hall : ∀ x ∈ frameHead f q, fkey g ≠ fkey x.1 := fun x hx =>
    apartFrom_ne h (by rewrite [← frameHead_fields f q]; exact List.mem_map_of_mem hx)
  generalize frameHead f q = l at hall
  induction l generalizing s with
  | nil => rfl
  | cons x l ih =>
    exact (ih _ fun y hy => hall y (List.mem_cons_of_mem _ hy)).trans (State.get_set_ne _ _ _ _ (hall x List.mem_cons_self))

theorem State.esHead_shows (b : Nat) : (s.esHead b f q).get R.CAN_ES_ID_ID b = f.id % 2 ^ 29 ∧
    (s.esHead b f q).get R.CAN_ES_INFO_DLC b = f.dlc % 16 ∧ (s.esHead b f q).get R.CAN_ES_INFO_SEQ b = q % 65536 ∧
    (s.esHead b f q).get R.CAN_ES_PM_PM32 b = pmTotal f.pm % 2 ^ 32 := by
  unfold State.esHead frameHead
  simp (disch := decide) only [List.foldl_cons, List.foldl_nil, State.get_set_ne, State.get_set_same]
  exact ⟨rfl, rfl, rfl, rfl⟩

theorem State.esHead_can (b : Nat) : (s.esHead b f q).can = s.can := by
  unfold State.esHead
  exact foldl_keeps State.can _ (fun u (x : Fld × Nat) => State.set_can u x.1 x.2 b) s

theorem State.esFront_get {g : Fld} (c : Nat) (h : apartFrom frontFlds g = true) : (s.esFront ch n f q).get g c = s.get g c := by
  have hn := noteFld_of_apartFrom h
  rw [State.esFront_eq, State.raise_get _ _ _ hn, State.evt_get_ne _ _ _ hn (apartFrom_ne h (by simp)),
    State.get_set_ne _ _ _ _ (apartFrom_ne h (by simp)), State.esWords_get_ne _ _ _ _ _ (apartFrom_ne h (by simp)),
    State.esHead_get _ _ _ _ _ (apartFrom_mono h (by simp))]

/-- A register of the head is read behind the data, NEW and the event. -/
theorem State.esFront_head {g : Fld} (c : Nat) (h : apartFrom [R.CAN_ES_DATA_DATA, R.CAN_ES_STAT_NEW, R.CAN_EVT_ES_NEW] g = true) :
    (s.esFront ch n f q).get g c = (s.esHead (esBank ch n) f q).get g c := by
  have hn := noteFld_of_apartFrom h
  rw [State.esFront_eq, State.raise_get _ _ _ hn, State.evt_get_ne _ _ _ hn (apartFrom_ne h (by simp)),
    State.get_set_ne _ _ _ _ (apartFrom_ne h (by simp)), State.esWords_get_ne _ _ _ _ _ (apartFrom_ne h (by simp))]

theorem State.esFront_new : (s.esFront ch n f q).get R.CAN_ES_STAT_NEW (esBank ch n) = 1 ∧ (s.esFront ch n f q).get R.CAN_EVT_ES_NEW ch = 1 := by
  rewrite [State.esFront_eq, State.raise_get _ _ _ noteFld_CAN_ES_STAT_NEW, State.raise_get _ _ _ noteFld_CAN_EVT_ES_NEW,
    State.evt_get_ne _ _ _ noteFld_CAN_ES_STAT_NEW (by decide),
    State.evt_get_same _ _ _ noteFld_CAN_EVT_ES_NEW, State.get_set_same]
  exact ⟨rfl, rfl⟩

theorem State.esFront_data {j : Nat} (h : j < 16) :
    (s.esFront ch n f q).get R.CAN_ES_DATA_DATA (esBank ch n * 16 + j) = ofLe ((f.data.drop (4 * j)).take 4) % 2 ^ 32 := by
  rewrite [State.esFront_eq, State.raise_get _ _ _ (by decide), State.evt_get_ne _ _ _ (by decide) (by decide),
    State.get_set_ne _ _ _ _ (by decide)]
  exact State.esWords_get _ _ _ h

theorem State.esFront_can : (s.esFront ch n f q).can = s.can := by
  rewrite [State.esFront_eq]
  exact (State.raise_can _ _).trans ((State.evt_can _ _ _).trans ((State.set_can _ _ _ _).trans ((State.esWords_can _ _ _ _).trans
    (State.esHead_can _ _ _ _))))

end

/-! ### A frame reaches a slot (R405, R406) -/

section
variable (s : State) (ch n : Nat) (f : CanFrame)

theorem State.esLoss_get {g : Fld} (b : Nat) (h : apartFrom [R.CAN_EVT_ES_LOST] g = true) : (s.esLoss ch n).get g b = s.get g b := by
  have hn := noteFld_of_apartFrom h
  unfold State.esLoss
  rw [State.record_get _ _ _ hn, State.evt_get_ne _ _ _ hn (apartFrom_ne h (by simp))]

theorem State.esLoss_can : (s.esLoss ch n).can = s.can := by
  unfold State.esLoss
  rw [State.record_can, State.evt_can]

/-- The number of the frame that a slot takes now. -/
def State.esNumber : Nat := ((s.esSt ch n).seq + 1) % 65536

/-- The slot has numbered its frame. -/
def State.esNumbered : State := s.putEs ch n { s.esSt ch n with seq := s.esNumber ch n }

/-- A frame that was not read is noted as lost, before another takes its place. -/
def State.esOverwritten : State :=
  if (s.esNumbered ch n).flag R.CAN_ES_STAT_NEW (esBank ch n) then
    ((s.esNumbered ch n).inc (if (s.esSt ch n).movedAt = some s.now then R.CAN_ES_LOST_SHADOW_LOST else R.CAN_ES_LOST_OVERWRITE)
      (esBank ch n)).esLoss ch n
  else s.esNumbered ch n

/-- A shadow frame is noted as lost, before another takes its place. -/
def State.esShadowLost : State :=
  if (s.esSt ch n).shadow.isSome then ((s.esNumbered ch n).inc R.CAN_ES_LOST_SHADOW_LOST (esBank ch n)).esLoss ch n else s.esNumbered ch n

theorem State.esTake_eq : s.esTake ch n f =
    if (s.esNumbered ch n).flag R.CAN_ES_STAT_LOCKED (esBank ch n) then
      ((s.esShadowLost ch n).putEs ch n { (s.esShadowLost ch n).esSt ch n with shadow := some (f, s.esNumber ch n) }).set
        R.CAN_ES_STAT_SHADOW_FULL 1 (esBank ch n)
    else (s.esOverwritten ch n).esFront ch n f (s.esNumber ch n) := by
  unfold State.esTake State.esOverwritten State.esShadowLost
  rfl

theorem State.esTake_unlocked (h : s.get R.CAN_ES_STAT_LOCKED (esBank ch n) = 0) :
    s.esTake ch n f = (s.esOverwritten ch n).esFront ch n f (s.esNumber ch n) := by
  have hflag : (s.esNumbered ch n).flag R.CAN_ES_STAT_LOCKED (esBank ch n) = false :=
    decide_eq_false (by show s.get _ _ ≠ 1; rewrite [h]; decide)
  rw [State.esTake_eq, hflag, if_neg Bool.false_ne_true]

theorem State.esTake_locked (h : s.get R.CAN_ES_STAT_LOCKED (esBank ch n) = 1) : s.esTake ch n f =
    ((s.esShadowLost ch n).putEs ch n { (s.esShadowLost ch n).esSt ch n with shadow := some (f, s.esNumber ch n) }).set
      R.CAN_ES_STAT_SHADOW_FULL 1 (esBank ch n) := by
  rw [State.esTake_eq, show (s.esNumbered ch n).flag R.CAN_ES_STAT_LOCKED (esBank ch n) = true from decide_eq_true h, if_pos rfl]

theorem State.esOverwritten_counts (h : s.get R.CAN_ES_STAT_NEW (esBank ch n) = 1) (hm : (s.esSt ch n).movedAt = none) :
    (s.esOverwritten ch n).get R.CAN_ES_LOST_OVERWRITE (esBank ch n) = (s.get R.CAN_ES_LOST_OVERWRITE (esBank ch n) + 1) % 65536 := by
  unfold State.esOverwritten
  rewrite [if_pos (show (s.esNumbered ch n).flag R.CAN_ES_STAT_NEW (esBank ch n) = true from decide_eq_true h), State.esLoss_get _ _ _ _ (by decide),
    hm, if_neg (by simp), State.inc_eq, State.get_set_same]
  rfl

theorem State.esShadowLost_get {g : Fld} (b : Nat) (h : apartFrom [R.CAN_ES_LOST_SHADOW_LOST, R.CAN_EVT_ES_LOST] g = true) :
    (s.esShadowLost ch n).get g b = s.get g b := by
  unfold State.esShadowLost
  split
  · rewrite [State.esLoss_get _ _ _ _ (apartFrom_mono h (by simp)), State.inc_eq, State.get_set_ne _ _ _ _ (apartFrom_ne h (by simp))]
    rfl
  · rfl

theorem State.esShadowLost_counts (h : (s.esSt ch n).shadow.isSome = true) :
    (s.esShadowLost ch n).get R.CAN_ES_LOST_SHADOW_LOST (esBank ch n) = (s.get R.CAN_ES_LOST_SHADOW_LOST (esBank ch n) + 1) % 65536 := by
  unfold State.esShadowLost
  rewrite [if_pos h, State.esLoss_get _ _ _ _ (by decide), State.inc_eq, State.get_set_same]
  rfl

end

/-! ### CAN_FRAME_RECEIVE (R402 to R406) -/

section
variable (dt ch : Nat) (f : CanFrame) (c : CanCfg) (s : State)

theorem exec_canFrameReceive_off (hm : s.canMode ch ∉ [2, 3]) : exec (.canFrameReceive dt ch f) s = .next (s.advance dt) := by
  obtain ⟨h2, h3⟩ : ¬ (s.advance dt).canMode ch = 2 ∧ ¬ (s.advance dt).canMode ch = 3 := by simpa [State.canMode] using hm
  show execCanFrameReceive dt ch f s = _
  unfold execCanFrameReceive
  dsimp only
  split
  · rfl
  · exact if_pos (by simp [h2, h3])

/-- A frame as the slots and filters find it, after it was counted. -/
def State.frameSeen (s : State) (ch : Nat) (c : CanCfg) (f : CanFrame) : State := (s.frameTaken ch c f).canEcho ch c f

theorem State.frameSeen_view {β : Type} {p : State → β} (h : RxView p)
    (hinc : ∀ (u : State) v b, p (u.set R.CAN_RX_CNT_FRAMES v b) = p u) : p (s.frameSeen ch c f) = p s :=
  (State.canEcho_view h _ _ _ _).trans (State.frameTaken_view h _ _ _ _ hinc)

theorem State.frameSeen_get {g : Fld} (b : Nat) (h : apartFrom (R.CAN_RX_CNT_FRAMES :: rxFlds) g = true) :
    (s.frameSeen ch c f).get g b = s.get g b :=
  State.frameSeen_view ch f c s (rxView_get b (apartFrom_mono h (by simp))) fun _ _ _ => State.get_set_ne _ _ _ _ (apartFrom_ne h (by simp))

theorem State.frameSeen_counts : (s.frameSeen ch c f).get R.CAN_RX_CNT_FRAMES ch = (s.get R.CAN_RX_CNT_FRAMES ch + 1) % 65536 :=
  (State.canEcho_view (rxView_get ch (by decide)) _ _ _ _).trans (State.frameTaken_counts _ _ _ _)

theorem State.frameSeen_esSt (n : Nat) : (s.frameSeen ch c f).esSt ch n = s.esSt ch n :=
  State.frameSeen_view ch f c s (rxView_esSt ch n) fun _ _ _ => rfl

theorem State.frameSeen_now : (s.frameSeen ch c f).now = s.now := State.frameSeen_view ch f c s rxView_now fun _ _ _ => rfl

variable (hc : s.canCfg ch = some c) (hm : s.canMode ch ∈ [2, 3])
include hc hm

theorem exec_canFrameReceive_remote (hr : f.remote = true) :
    exec (.canFrameReceive dt ch f) s = .next (((s.advance dt).frameTaken ch c f).incSat R.CAN_LEC_REMOTE ch) := by
  have hmode : (s.advance dt).canMode ch = 2 ∨ (s.advance dt).canMode ch = 3 := by simpa [State.canMode] using hm
  show execCanFrameReceive dt ch f s = _
  unfold execCanFrameReceive
  dsimp only
  rewrite [show (s.advance dt).canCfg ch = some c from hc]
  dsimp only
  rewrite [if_neg (by rcases hmode with e | e <;> simp [e]), if_pos hr]
  rfl

/-- What a data frame with a base identifier becomes: a slot's, a filter's, or unmatched. -/
theorem exec_canFrameReceive_data (hr : f.remote = false) (hi : f.ide = false) (h3 : s.pwr.l3 = 0) : exec (.canFrameReceive dt ch f) s =
    match firstMatch c.slots f f.id, firstMatch c.filters f f.id with
    | some x, _ => .next ((((s.advance dt).frameSeen ch c f).esTake ch x.1 f).canDest ch c x.2 x.1 true f f.data)
    | none, none => .next (((s.advance dt).frameSeen ch c f).inc R.CAN_RX_CNT_UNMATCHED ch)
    | none, some x =>
      if x.2.msg = 1 then
        match (((s.advance dt).frameSeen ch c f).inc R.CAN_FLT_HIT_HITS (ch * 64 + x.1)).fastTake ch x.1 f f.id with
        | (u, some d) => .next (u.canDest ch c x.2 x.1 false f d)
        | (u, none) => .next u
      else .next ((((s.advance dt).frameSeen ch c f).inc R.CAN_FLT_HIT_HITS (ch * 64 + x.1)).canDest ch c x.2 x.1 false f f.data) := by
  have hmode : (s.advance dt).canMode ch = 2 ∨ (s.advance dt).canMode ch = 3 := by simpa [State.canMode] using hm
  have htaken : ((s.advance dt).frameTaken ch c f).pwr.l3 = 0 :=
    (congrArg PwrSt.l3 (State.frameTaken_view rxView_pwr (s.advance dt) ch c f fun _ _ _ => rfl)).trans h3
  have htp (u : State) : u.tpTake ch c f f.id = none := by
    unfold State.tpTake
    dsimp only
    rewrite [hi]
    rfl
  have hfold : ((if (s.advance dt).canMode ch = 2 then (s.advance dt).canCount ch c ((s.advance dt).canSt ch).tec
      ((s.advance dt).recAfter ((s.advance dt).canSt ch).rec_) else s.advance dt).inc R.CAN_RX_CNT_FRAMES ch).canBand ch c f =
      (s.advance dt).frameTaken ch c f := rfl
  show execCanFrameReceive dt ch f s = _
  unfold execCanFrameReceive
  dsimp only
  rewrite [show (s.advance dt).canCfg ch = some c from hc]
  dsimp only
  rewrite [if_neg (by rcases hmode with e | e <;> simp [e]), hr, if_neg Bool.false_ne_true]
  rewrite [hfold]
  unfold State.frameSeen
  generalize (s.advance dt).frameTaken ch c f = u at htaken
  have hawake : u.lullLeave 4 = u := State.lullLeave_awake _ _ (by rewrite [htaken]; decide)
  cases c.n2k
  all_goals
    simp only [hi, hawake, htaken, ne_eq, not_true_eq_false, decide_false, Bool.false_and, Bool.false_eq_true, if_false, ite_self]
    cases firstMatch c.slots f f.id with
    | some x => rfl
    | none =>
      dsimp only
      rewrite [htp]
      cases firstMatch c.filters f f.id with
      | none => rfl
      | some x => rfl

theorem canFrameReceive_remote (hr : f.remote = true) :
    ∃ t, exec (.canFrameReceive dt ch f) s = .next t ∧ t.get R.CAN_LEC_REMOTE ch = min 255 (s.get R.CAN_LEC_REMOTE ch + 1) ∧
      t.get R.CAN_RX_CNT_FRAMES ch = (s.get R.CAN_RX_CNT_FRAMES ch + 1) % 65536 ∧ t.pts = s.pts := by
  refine ⟨_, exec_canFrameReceive_remote dt ch f c s hc hm hr, ?_, ?_, ?_⟩
  · rewrite [State.incSat_get_same, State.frameTaken_get _ _ _ _ _ (by decide)]
    rfl
  · rewrite [State.incSat_eq, State.get_set_ne _ _ _ _ (by decide)]
    exact State.frameTaken_counts _ _ _ _
  · exact State.frameTaken_view rxView_pts (s.advance dt) ch c f fun _ _ _ => rfl

section
variable (hr : f.remote = false) (hi : f.ide = false) (h3 : s.pwr.l3 = 0)
include hr hi h3

theorem canFrameReceive_unmatched (hslot : firstMatch c.slots f f.id = none) (hflt : firstMatch c.filters f f.id = none) :
    ∃ t, exec (.canFrameReceive dt ch f) s = .next t ∧ t.get R.CAN_RX_CNT_UNMATCHED ch = (s.get R.CAN_RX_CNT_UNMATCHED ch + 1) % 65536 ∧
      t.get R.CAN_RX_CNT_FRAMES ch = (s.get R.CAN_RX_CNT_FRAMES ch + 1) % 65536 ∧ t.pts = s.pts ∧ t.inbox = s.inbox := by
  have hexec := exec_canFrameReceive_data dt ch f c s hc hm hr hi h3
  rewrite [hslot, hflt] at hexec
  refine ⟨_, hexec, ?_, ?_, ?_, ?_⟩
  · rewrite [State.inc_eq, State.get_set_same, State.frameSeen_get _ _ _ _ _ (by decide)]
    rfl
  · rewrite [State.inc_eq, State.get_set_ne _ _ _ _ (by decide)]
    exact State.frameSeen_counts _ _ _ _
  · exact State.frameSeen_view ch f c (s.advance dt) rxView_pts fun _ _ _ => rfl
  · exact State.frameSeen_view ch f c (s.advance dt) rxView_inbox fun _ _ _ => rfl

/-- A frame whose filter rejects it is counted there and goes nowhere. -/
theorem canFrameReceive_rejected (n : Nat) (x : CanFilter) (hslot : firstMatch c.slots f f.id = none)
    (hflt : firstMatch c.filters f f.id = some (n, x)) (hmsg : x.msg = 0) (hdest : x.dest = 0) :
    ∃ t, exec (.canFrameReceive dt ch f) s = .next t ∧
      t.get R.CAN_FLT_HIT_HITS (ch * 64 + n) = (s.get R.CAN_FLT_HIT_HITS (ch * 64 + n) + 1) % 65536 ∧
      t.get R.CAN_RX_CNT_FRAMES ch = (s.get R.CAN_RX_CNT_FRAMES ch + 1) % 65536 ∧
      t.get R.CAN_RX_CNT_UNMATCHED ch = s.get R.CAN_RX_CNT_UNMATCHED ch ∧ t.pts = s.pts ∧ t.inbox = s.inbox := by
  have hreject (u : State) : u.canDest ch c x n false f f.data = u := by
    unfold State.canDest
    rewrite [hdest]
    rfl
  have hexec := exec_canFrameReceive_data dt ch f c s hc hm hr hi h3
  rewrite [hslot, hflt] at hexec
  dsimp only at hexec
  rewrite [if_neg (by rewrite [hmsg]; decide), hreject] at hexec
  refine ⟨_, hexec, ?_, ?_, ?_, ?_, ?_⟩
  · rewrite [State.inc_eq, State.get_set_same, State.frameSeen_get _ _ _ _ _ (by decide)]
    rfl
  · rewrite [State.inc_eq, State.get_set_ne _ _ _ _ (by decide)]
    exact State.frameSeen_counts _ _ _ _
  · rewrite [State.inc_eq, State.get_set_ne _ _ _ _ (by decide)]
    exact State.frameSeen_get _ _ _ _ _ (by decide)
  · exact State.frameSeen_view ch f c (s.advance dt) rxView_pts fun _ _ _ => rfl
  · exact State.frameSeen_view ch f c (s.advance dt) rxView_inbox fun _ _ _ => rfl

variable (n : Nat) (x : CanFilter) (hslot : firstMatch c.slots f f.id = some (n, x))
include hslot

theorem exec_canFrameReceive_slot : exec (.canFrameReceive dt ch f) s =
    .next ((((s.advance dt).frameSeen ch c f).esTake ch n f).canDest ch c x n true f f.data) := by
  have hexec := exec_canFrameReceive_data dt ch f c s hc hm hr hi h3
  rwa [hslot] at hexec

theorem canFrameReceive_front (hlock : s.get R.CAN_ES_STAT_LOCKED (esBank ch n) = 0) :
    ∃ t, exec (.canFrameReceive dt ch f) s = .next t ∧ t.get R.CAN_ES_STAT_NEW (esBank ch n) = 1 ∧
      t.get R.CAN_ES_ID_ID (esBank ch n) = f.id % 2 ^ 29 ∧ t.get R.CAN_ES_INFO_DLC (esBank ch n) = f.dlc % 16 ∧
      t.get R.CAN_ES_INFO_SEQ (esBank ch n) = ((s.esSt ch n).seq + 1) % 65536 ∧
      (∀ j, j < 16 → t.get R.CAN_ES_DATA_DATA (esBank ch n * 16 + j) = ofLe ((f.data.drop (4 * j)).take 4) % 2 ^ 32) ∧
      t.get R.CAN_ES_PM_PM32 (esBank ch n) = pmTotal f.pm % 2 ^ 32 ∧ t.get R.CAN_EVT_ES_NEW ch = 1 ∧
      (s.get R.CAN_ES_STAT_NEW (esBank ch n) = 1 → (s.esSt ch n).movedAt = none →
        t.get R.CAN_ES_LOST_OVERWRITE (esBank ch n) = (s.get R.CAN_ES_LOST_OVERWRITE (esBank ch n) + 1) % 65536) := by
  have hexec := exec_canFrameReceive_slot dt ch f c s hc hm hr hi h3 n x hslot
  have hget {g : Fld} (b : Nat) (h : apartFrom (R.CAN_RX_CNT_FRAMES :: rxFlds) g = true) :
      ((s.advance dt).frameSeen ch c f).get g b = s.get g b := State.frameSeen_get _ _ _ _ _ h
  have hes : ((s.advance dt).frameSeen ch c f).esSt ch n = s.esSt ch n := State.frameSeen_esSt _ _ _ _ _
  generalize (s.advance dt).frameSeen ch c f = u at hexec hget hes
  rewrite [State.esTake_unlocked u ch n f ((hget _ (by decide)).trans hlock)] at hexec
  have hseq : u.esNumber ch n = ((s.esSt ch n).seq + 1) % 65536 := by
    unfold State.esNumber
    rw [hes]
  obtain ⟨hid, hdlc, hnum, hpm⟩ := (u.esOverwritten ch n).esHead_shows f (u.esNumber ch n) (esBank ch n)
  obtain ⟨hnew, hevt⟩ := (u.esOverwritten ch n).esFront_new ch n f (u.esNumber ch n)
  have hhead {g : Fld} (b : Nat) (h : apartFrom [R.CAN_ES_DATA_DATA, R.CAN_ES_STAT_NEW, R.CAN_EVT_ES_NEW] g = true) :
      (((u.esOverwritten ch n).esFront ch n f (u.esNumber ch n)).canDest ch c x n true f f.data).get g b =
        ((u.esOverwritten ch n).esHead (esBank ch n) f (u.esNumber ch n)).get g b :=
    (State.canDest_slot_get _ _ _ _ _ _ _ _ (noteFld_of_apartFrom h)).trans (State.esFront_head _ _ _ _ _ _ h)
  refine ⟨_, hexec, (State.canDest_slot_get _ _ _ _ _ _ _ _ noteFld_CAN_ES_STAT_NEW).trans hnew, (hhead _ (by decide)).trans hid,
    (hhead _ (by decide)).trans hdlc, (hhead _ (by decide)).trans (hnum.trans ?_), fun j hj => ?_, (hhead _ (by decide)).trans hpm,
    (State.canDest_slot_get _ _ _ _ _ _ _ _ noteFld_CAN_EVT_ES_NEW).trans hevt, fun h1 hmoved => ?_⟩
  · rewrite [hseq]
    exact Nat.mod_mod _ _
  · exact (State.canDest_slot_get _ _ _ _ _ _ _ _ (by decide)).trans (State.esFront_data _ _ _ _ _ hj)
  · rw [State.canDest_slot_get _ _ _ _ _ _ _ _ (by decide), State.esFront_get _ _ _ _ _ _ (by decide),
      State.esOverwritten_counts _ _ _ ((hget _ (by decide)).trans h1) (by rewrite [hes]; exact hmoved), hget _ (by decide)]

theorem canFrameReceive_shadow (hlock : s.get R.CAN_ES_STAT_LOCKED (esBank ch n) = 1) :
    ∃ t, exec (.canFrameReceive dt ch f) s = .next t ∧ (t.esSt ch n).shadow = some (f, ((s.esSt ch n).seq + 1) % 65536) ∧
      t.get R.CAN_ES_STAT_SHADOW_FULL (esBank ch n) = 1 ∧ t.get R.CAN_ES_ID_ID (esBank ch n) = s.get R.CAN_ES_ID_ID (esBank ch n) ∧
      t.get R.CAN_ES_STAT_NEW (esBank ch n) = s.get R.CAN_ES_STAT_NEW (esBank ch n) ∧
      ((s.esSt ch n).shadow.isSome = true →
        t.get R.CAN_ES_LOST_SHADOW_LOST (esBank ch n) = (s.get R.CAN_ES_LOST_SHADOW_LOST (esBank ch n) + 1) % 65536) := by
  have hexec := exec_canFrameReceive_slot dt ch f c s hc hm hr hi h3 n x hslot
  have hget {g : Fld} (b : Nat) (h : apartFrom (R.CAN_RX_CNT_FRAMES :: rxFlds) g = true) :
      ((s.advance dt).frameSeen ch c f).get g b = s.get g b := State.frameSeen_get _ _ _ _ _ h
  have hes : ((s.advance dt).frameSeen ch c f).esSt ch n = s.esSt ch n := State.frameSeen_esSt _ _ _ _ _
  generalize (s.advance dt).frameSeen ch c f = u at hexec hget hes
  rewrite [State.esTake_locked u ch n f ((hget _ (by decide)).trans hlock)] at hexec
  have hseq : u.esNumber ch n = ((s.esSt ch n).seq + 1) % 65536 := by
    unfold State.esNumber
    rw [hes]
  refine ⟨_, hexec, ?_, ?_, ?_, ?_, fun hs => ?_⟩
  · rw [State.esSt_of_can (State.canDest_slot_can _ _ _ _ _ _ _), State.esSt_of_can (State.set_can _ _ _ _), State.putEs_esSt, hseq]
  · exact (State.canDest_slot_get _ _ _ _ _ _ _ _ (by decide)).trans (State.get_set_same _ R.CAN_ES_STAT_SHADOW_FULL 1 _)
  · rw [State.canDest_slot_get _ _ _ _ _ _ _ _ (by decide), State.get_set_ne _ _ _ _ (by decide), State.putEs_get,
      State.esShadowLost_get _ _ _ _ (by decide), hget _ (by decide)]
  · rw [State.canDest_slot_get _ _ _ _ _ _ _ _ noteFld_CAN_ES_STAT_NEW, State.get_set_ne _ _ _ _ (by decide), State.putEs_get,
      State.esShadowLost_get _ _ _ _ (by decide), hget _ (by decide)]
  · rw [State.canDest_slot_get _ _ _ _ _ _ _ _ (by decide), State.get_set_ne _ _ _ _ (by decide), State.putEs_get,
      State.esShadowLost_counts _ _ _ (by rewrite [hes]; exact hs), hget _ (by decide)]

end

end

/-! ### The reads of a slot and its lock (R405, R406) -/

section
variable (s : State) (ch n : Nat)

/-- The word that a read of CAN_ES_ID returns. -/
def State.esIdRaw (s : State) (b : Nat) : Nat :=
  s.get R.CAN_ES_ID_ID b + 2 ^ 29 * s.get R.CAN_ES_ID_IDE b + 2 ^ 30 * s.get R.CAN_ES_ID_FDF b + 2 ^ 31 * s.get R.CAN_ES_ID_BRS b

/-- A slot is locked, from now if it was not. -/
def State.esLocked (s : State) (ch n : Nat) : State :=
  if s.flag R.CAN_ES_STAT_LOCKED (esBank ch n) then s
  else (s.putEs ch n { s.esSt ch n with lockAt := some s.now }).set R.CAN_ES_STAT_LOCKED 1 (esBank ch n)

theorem State.esLocked_shows : (s.esLocked ch n).get R.CAN_ES_STAT_LOCKED (esBank ch n) = 1 ∧
    (s.get R.CAN_ES_STAT_LOCKED (esBank ch n) ≠ 1 → ((s.esLocked ch n).esSt ch n).lockAt = some s.now) ∧
    Framed [loc R.CAN_ES_STAT_LOCKED (esBank ch n)] { s with can := (s.esLocked ch n).can } (s.esLocked ch n) := by
  unfold State.esLocked
  split
  next h =>
    have h1 : s.get R.CAN_ES_STAT_LOCKED (esBank ch n) = 1 := of_decide_eq_true h
    exact ⟨h1, fun hne => absurd h1 hne, .refl _ _⟩
  next =>
    refine ⟨State.get_set_same _ R.CAN_ES_STAT_LOCKED 1 _, fun _ => ?_, ?_⟩
    · rw [State.esSt_of_can (State.set_can _ _ _ _), State.putEs_esSt]
    · exact Framed.ownCan (x := (s.putEs ch n _).can) (set_framed _ _ _ _ (.inl (List.mem_singleton.2 rfl)) (.refl _ _))

theorem State.readBack_can (p : Port) (v : Nat) : (s.readBack p v).can = s.can := by
  cases p <;> rfl

theorem canEsIdRead_locks (dt : Nat) (p : Port) (hch : ch < 8) (hn : n < 8) :
    ∃ t, exec (.canEsIdRead dt p ch n) s = .next t ∧ t.get R.CAN_ES_STAT_LOCKED (esBank ch n) = 1 ∧ t.get R.CAN_ES_STAT_NEW (esBank ch n) = 0 ∧
      (s.get R.CAN_ES_STAT_LOCKED (esBank ch n) ≠ 1 → (t.esSt ch n).lockAt = some (s.now + dt)) ∧
      (match p with | .pcie => t.pcie.rdata | .spi => t.spi.rdata) = s.get R.CAN_ES_ID_ID (esBank ch n) +
        2 ^ 29 * s.get R.CAN_ES_ID_IDE (esBank ch n) + 2 ^ 30 * s.get R.CAN_ES_ID_FDF (esBank ch n) +
        2 ^ 31 * s.get R.CAN_ES_ID_BRS (esBank ch n) ∧
      Framed (regKeys (esBank ch n) [R.CAN_ES_STAT_LOCKED, R.CAN_ES_STAT_NEW])
        { s.advance dt with can := t.can, pcie := t.pcie, spi := t.spi } t := by
  have hexec : exec (.canEsIdRead dt p ch n) s =
      .next ((((s.advance dt).esLocked ch n).set R.CAN_ES_STAT_NEW 0 (esBank ch n)).readBack p ((s.advance dt).esIdRaw (esBank ch n))) := by
    show execCanEsIdRead dt p ch n s = _
    unfold execCanEsIdRead
    rewrite [Nat.mod_eq_of_lt hch, Nat.mod_eq_of_lt hn]
    rfl
  obtain ⟨hlock, hat, hframe⟩ := (s.advance dt).esLocked_shows ch n
  refine ⟨_, hexec, ?_, ?_, fun hne => ?_, by cases p <;> rfl, ?_⟩
  · rw [State.readBack_get, State.get_set_ne _ _ _ _ (by decide), hlock]
  · rewrite [State.readBack_get]
    exact State.get_set_same _ R.CAN_ES_STAT_NEW 0 _
  · rewrite [State.esSt_of_can (State.readBack_can _ _ _), State.esSt_of_can (State.set_can _ _ _ _)]
    exact hat hne
  · rewrite [State.readBack_can, State.set_can]
    exact (set_framed _ _ _ _ (.inl (by simp)) (hframe.mono (List.cons_subset_cons _ (List.nil_subset _)))).readBack p _

/-- The lock is off; a shadow frame is still to move. -/
def State.esUnlocked (s : State) (ch n : Nat) : State :=
  (s.putEs ch n { s.esSt ch n with lockAt := none, shadow := none, movedAt := if (s.esSt ch n).shadow.isSome then some s.now else none }).set
    R.CAN_ES_STAT_LOCKED 0 (esBank ch n)

theorem State.esRelease_some {f : CanFrame} {q : Nat} (h : (s.esSt ch n).shadow = some (f, q)) :
    s.esRelease ch n = ((s.esUnlocked ch n).set R.CAN_ES_STAT_SHADOW_FULL 0 (esBank ch n)).esFront ch n f q := by
  unfold State.esRelease
  dsimp only
  split
  next heq =>
    cases h.symm.trans heq
    rfl
  next heq => cases h.symm.trans heq

theorem State.esRelease_none (h : (s.esSt ch n).shadow = none) : s.esRelease ch n = s.esUnlocked ch n := by
  unfold State.esRelease
  dsimp only
  split
  next heq => cases h.symm.trans heq
  next => rfl

theorem State.esUnlocked_esSt : (s.esUnlocked ch n).esSt ch n =
    { s.esSt ch n with lockAt := none, shadow := none, movedAt := if (s.esSt ch n).shadow.isSome then some s.now else none } := by
  unfold State.esUnlocked
  rw [State.esSt_of_can (State.set_can _ _ _ _), State.putEs_esSt]

theorem State.esRelease_esSt : (s.esRelease ch n).esSt ch n =
    { s.esSt ch n with lockAt := none, shadow := none, movedAt := if (s.esSt ch n).shadow.isSome then some s.now else none } := by
  rewrite [← State.esUnlocked_esSt]
  cases h : (s.esSt ch n).shadow with
  | some x =>
    rw [State.esRelease_some s ch n h, State.esSt_of_can (State.esFront_can _ _ _ _ _), State.esSt_of_can (State.set_can _ _ _ _)]
  | none => rw [State.esRelease_none s ch n h]

theorem State.esRelease_locked : (s.esRelease ch n).get R.CAN_ES_STAT_LOCKED (esBank ch n) = 0 := by
  have hoff : (s.esUnlocked ch n).get R.CAN_ES_STAT_LOCKED (esBank ch n) = 0 := State.get_set_same _ R.CAN_ES_STAT_LOCKED 0 _
  cases h : (s.esSt ch n).shadow with
  | some x => rw [State.esRelease_some s ch n h, State.esFront_get _ _ _ _ _ _ (by decide), State.get_set_ne _ _ _ _ (by decide), hoff]
  | none => rw [State.esRelease_none s ch n h, hoff]

section
variable (dt : Nat) (p : Port) (hch : ch < 8) (hn : n < 8) (hlock : s.get R.CAN_ES_STAT_LOCKED (esBank ch n) = 1)
include hch hn hlock

theorem exec_canEsData15Read_locked : exec (.canEsData15Read dt p ch n) s =
    .next (((s.advance dt).esRelease ch n).readBack p (s.get R.CAN_ES_DATA_DATA (esBank ch n * 16 + 15))) := by
  have hflag : (s.advance dt).flag R.CAN_ES_STAT_LOCKED (esBank ch n) = true := decide_eq_true hlock
  show execCanEsData15Read dt p ch n s = _
  unfold execCanEsData15Read State.esLastRead
  rewrite [Nat.mod_eq_of_lt hch, Nat.mod_eq_of_lt hn]
  dsimp only
  rewrite [hflag, if_pos rfl]
  rfl

theorem canEsData15Read_moves (f : CanFrame) (q : Nat) (hs : (s.esSt ch n).shadow = some (f, q)) :
    ∃ t, exec (.canEsData15Read dt p ch n) s = .next t ∧ t.get R.CAN_ES_STAT_LOCKED (esBank ch n) = 0 ∧
      t.get R.CAN_ES_STAT_SHADOW_FULL (esBank ch n) = 0 ∧ t.get R.CAN_ES_STAT_NEW (esBank ch n) = 1 ∧
      t.get R.CAN_ES_ID_ID (esBank ch n) = f.id % 2 ^ 29 ∧ t.get R.CAN_ES_INFO_SEQ (esBank ch n) = q % 65536 ∧
      (t.esSt ch n).shadow = none ∧ (t.esSt ch n).movedAt = some (s.now + dt) ∧
      (match p with | .pcie => t.pcie.rdata | .spi => t.spi.rdata) = s.get R.CAN_ES_DATA_DATA (esBank ch n * 16 + 15) := by
  have hes := (s.advance dt).esRelease_esSt ch n
  have hrel := (s.advance dt).esRelease_some ch n hs
  rewrite [show (s.advance dt).esSt ch n = s.esSt ch n from rfl, hs] at hes
  obtain ⟨hid, -, hseq, -⟩ := (((s.advance dt).esUnlocked ch n).set R.CAN_ES_STAT_SHADOW_FULL 0 (esBank ch n)).esHead_shows f q (esBank ch n)
  refine ⟨_, exec_canEsData15Read_locked s ch n dt p hch hn hlock, ?_, ?_, ?_, ?_, ?_, ?_, ?_, by cases p <;> rfl⟩
  · rw [State.readBack_get, State.esRelease_locked]
  · rewrite [State.readBack_get, hrel, State.esFront_get _ _ _ _ _ _ (by decide)]
    exact State.get_set_same _ R.CAN_ES_STAT_SHADOW_FULL 0 _
  · rewrite [State.readBack_get, hrel]
    exact (State.esFront_new _ _ _ _ _).1
  · rw [State.readBack_get, hrel, State.esFront_head _ _ _ _ _ _ (by decide), hid]
  · rw [State.readBack_get, hrel, State.esFront_head _ _ _ _ _ _ (by decide), hseq]
  · rw [State.esSt_of_can (State.readBack_can _ _ _), hes]
  · rewrite [State.esSt_of_can (State.readBack_can _ _ _), hes]
    rfl

theorem canEsData15Read_unlocks (hs : (s.esSt ch n).shadow = none) :
    ∃ t, exec (.canEsData15Read dt p ch n) s = .next t ∧ t.get R.CAN_ES_STAT_LOCKED (esBank ch n) = 0 ∧
      t.get R.CAN_ES_STAT_NEW (esBank ch n) = s.get R.CAN_ES_STAT_NEW (esBank ch n) ∧
      Framed [loc R.CAN_ES_STAT_LOCKED (esBank ch n)] { s.advance dt with can := t.can, pcie := t.pcie, spi := t.spi } t := by
  have hrel := (s.advance dt).esRelease_none ch n hs
  have hframe : Framed [loc R.CAN_ES_STAT_LOCKED (esBank ch n)] { s.advance dt with can := ((s.advance dt).esUnlocked ch n).can }
      ((s.advance dt).esUnlocked ch n) :=
    Framed.ownCan (x := ((s.advance dt).putEs ch n _).can) (set_framed _ _ _ _ (.inl (List.mem_singleton.2 rfl)) (.refl _ _))
  refine ⟨_, exec_canEsData15Read_locked s ch n dt p hch hn hlock, ?_, ?_, ?_⟩
  · rw [State.readBack_get, State.esRelease_locked]
  · rewrite [State.readBack_get, hrel]
    exact State.get_set_ne _ _ _ _ (by decide)
  · rewrite [State.readBack_can, hrel]
    exact hframe.readBack p _

end

theorem canEsLockTimeout_unlocks (dt t₀ : Nat) (c : CanCfg) (hc : s.canCfg ch = some c) (hat : (s.esSt ch n).lockAt = some t₀)
    (hdue : t₀ + c.lockUs * 1000 ≤ s.now + dt) :
    ∃ t, exec (.canEsLockTimeout dt ch n) s = .next t ∧ t.get R.CAN_ES_STAT_LOCKED (esBank ch n) = 0 ∧
      t.get R.CAN_ES_STAT_LOCK_TIMEOUT (esBank ch n) = 1 ∧ (t.esSt ch n).lockAt = none ∧ (t.esSt ch n).shadow = none := by
  have hexec : exec (.canEsLockTimeout dt ch n) s = .next ((((s.advance dt).esRelease ch n).set R.CAN_ES_STAT_LOCK_TIMEOUT 1 (esBank ch n)).record
      { code := 0x1408, source := ch, items := [(1, ch), (1, n)] }) := by
    show execCanEsLockTimeout dt ch n s = _
    unfold execCanEsLockTimeout
    dsimp only
    rewrite [show ((s.advance dt).esSt ch n).lockAt = some t₀ from hat, show (s.advance dt).canCfg ch = some c from hc]
    exact if_pos hdue
  have hes : ∀ e, ((((s.advance dt).esRelease ch n).set R.CAN_ES_STAT_LOCK_TIMEOUT 1 (esBank ch n)).record e).esSt ch n = _ := fun e =>
    (State.esSt_of_can ((State.record_can _ _).trans (State.set_can _ _ _ _)) ch n).trans ((s.advance dt).esRelease_esSt ch n)
  refine ⟨_, hexec, ?_, ?_, congrArg EsSt.lockAt (hes _), congrArg EsSt.shadow (hes _)⟩
  · rw [State.record_get _ _ _ (by decide), State.get_set_ne _ _ _ _ (by decide), State.esRelease_locked]
  · exact (State.record_get _ _ _ (by decide)).trans (State.get_set_same _ R.CAN_ES_STAT_LOCK_TIMEOUT 1 _)

theorem exec_canEsLockTimeout_unlocked (dt : Nat) (h : (s.esSt ch n).lockAt = none) :
    exec (.canEsLockTimeout dt ch n) s = .next (s.advance dt) := by
  show execCanEsLockTimeout dt ch n s = _
  unfold execCanEsLockTimeout
  dsimp only
  rw [show ((s.advance dt).esSt ch n).lockAt = none from h]

end

/-! ### The squall guard (R413, R414) -/

/-- The mailboxes of a channel whose status is `a` and that meet a test go to `b`. -/
def State.mbsMove (s : State) (ch a b : Nat) (p : CanMbCfg → Bool) (l : List (Nat × CanMbCfg)) : State :=
  l.foldl (fun (s : State) m => if p m.2 && s.mbStatus ch m.1 = a then s.setMb ch m.1 b else s) s

section
variable (s : State) (ch a b : Nat) (p : CanMbCfg → Bool) (l : List (Nat × CanMbCfg))

theorem State.mbsMove_get {f : Fld} (k : Nat) (h : fkey f ≠ fkey R.CAN_MB_STAT_STATUS) : (s.mbsMove ch a b p l).get f k = s.get f k := by
  refine foldl_keeps (fun u : State => u.get f k) l (fun u x => ?_) s
  split
  · exact State.get_set_ne _ _ _ _ h
  · rfl

theorem State.mbsMove_can : (s.mbsMove ch a b p l).can = s.can := by
  refine foldl_keeps State.can l (fun u x => ?_) s
  split <;> rfl

/-- A mailbox's status is written for that mailbox alone. -/
theorem State.setMb_mbStatus (v mb mb' : Nat) (hv : v < 16) :
    (s.setMb ch mb v).mbStatus ch mb' = if mb' = mb then v else s.mbStatus ch mb' := by
  unfold State.setMb State.mbStatus
  split
  next h =>
    subst h
    exact (State.get_set_same _ _ _ _).trans (Nat.mod_eq_of_lt hv)
  next h =>
    refine State.get_set_bank _ _ _ _ fun e => h ?_
    unfold mbBank at e
    omega

/-- A mailbox that has moved stays there. -/
theorem State.mbsMove_keeps (hb : b < 16) (mb : Nat) (h : s.mbStatus ch mb = b) : (s.mbsMove ch a b p l).mbStatus ch mb = b := by
  unfold State.mbsMove
  induction l generalizing s with
  | nil => exact h
  | cons x l ih =>
    refine ih _ ?_
    dsimp only
    split
    · rewrite [State.setMb_mbStatus _ _ _ _ _ hb]
      split
      · rfl
      · exact h
    · exact h

/-- Every listed mailbox that meets the test and had the status has moved. -/
theorem State.mbsMove_moves (hb : b < 16) (m : Nat × CanMbCfg) (hm : m ∈ l) (hp : p m.2 = true) (h : s.mbStatus ch m.1 = a) :
    (s.mbsMove ch a b p l).mbStatus ch m.1 = b := by
  induction l generalizing s with
  | nil => exact absurd hm List.not_mem_nil
  | cons x l ih =>
    show ((if p x.2 && s.mbStatus ch x.1 = a then s.setMb ch x.1 b else s).mbsMove ch a b p l).mbStatus ch m.1 = b
    by_cases hx : (p x.2 && decide (s.mbStatus ch x.1 = a)) = true
    · rewrite [if_pos hx]
      by_cases hmx : m.1 = x.1
      · exact State.mbsMove_keeps _ _ _ _ _ _ hb _ (by rw [State.setMb_mbStatus _ _ _ _ _ hb, if_pos hmx])
      · refine ih _ ((List.mem_cons.1 hm).resolve_left fun e => hmx (congrArg Prod.fst e)) ?_
        rw [State.setMb_mbStatus _ _ _ _ _ hb, if_neg hmx, h]
    · rewrite [if_neg hx]
      refine ih _ ((List.mem_cons.1 hm).resolve_left fun e => hx ?_) h
      subst e
      simp [hp, h]

end

section
variable (s : State) (ch : Nat) (b : Rat)

/-- The busy fractions of the last ten ms, with the newest. -/
def State.squallLoads (s : State) (ch : Nat) (b : Rat) : List Rat := (b :: (s.canSt ch).loads).take 10

/-- The load of the last ten ms is shown. -/
def State.loadShown (s : State) (ch : Nat) (b : Rat) : State :=
  (s.putCan ch { s.canSt ch with loads := s.squallLoads ch b }).setU R.CAN_LOAD_LOAD_PM ((s.squallLoads ch b).sum / 10 * 1000) ch

/-- The load and its peak are shown. -/
def State.loadTaken (s : State) (ch : Nat) (b : Rat) : State :=
  (s.loadShown ch b).set R.CAN_LOAD_PEAK_PM (max ((s.loadShown ch b).get R.CAN_LOAD_LOAD_PM ch) ((s.loadShown ch b).get R.CAN_LOAD_PEAK_PM ch)) ch

/-- The event of a hold or its end. -/
def squallEv (ch pm : Nat) (len : Rat) : Ev := { code := 0x1404, source := ch, items := [(1, ch), (2, pm), measItem 0x1404 len], key := 1 }

/-- A hold as the registers show it. -/
def State.squallShown (s : State) (ch : Nat) : State := ((s.set R.CAN_STAT_SQUALL 1 ch).inc R.CAN_SQ_HOLDS ch).evt R.CAN_EVT_SQUALL ch

/-- A hold begins; the mailboxes are still to be held. -/
def State.squallHeld (s : State) (ch pm : Nat) : State :=
  ((s.squallShown ch).putCan ch { (s.squallShown ch).canSt ch with holdAt := some (s.squallShown ch).now }).record (squallEv ch pm 0)

/-- A hold has ended; the mailboxes are still to be released. -/
def State.squallEnded (s : State) (ch : Nat) : State :=
  (s.set R.CAN_STAT_SQUALL 0 ch).putCan ch { (s.set R.CAN_STAT_SQUALL 0 ch).canSt ch with holdAt := none, squallAlarm := false }

/-- How long a hold has lasted, in seconds. -/
def State.squallLen (s : State) (ch : Nat) : Rat :=
  match (s.canSt ch).holdAt with | some t => ((s.now - t : Nat) : Rat) / 1000000000 | none => 0

/-- A hold's end with its mailboxes released and its alarm cleared. -/
def State.squallReleased (s : State) (ch pm : Nat) (l : List (Nat × CanMbCfg)) : State :=
  let t := ((s.squallEnded ch).mbsMove ch 7 1 (fun _ => true) l).record (squallEv ch pm (s.squallLen ch))
  if (s.canSt ch).squallAlarm then t.clearAlarm 0x1404 ch [(1, ch), (2, pm), measItem 0x1404 (s.squallLen ch)] 1 else t

theorem State.mbsMove_all (s : State) (ch a b : Nat) (l : List (Nat × CanMbCfg)) :
    l.foldl (fun (s : State) m => if s.mbStatus ch m.1 = a then s.setMb ch m.1 b else s) s = s.mbsMove ch a b (fun _ => true) l := by
  unfold State.mbsMove
  simp only [Bool.true_and, decide_eq_true_eq]

theorem State.loadTaken_get {f : Fld} (k : Nat) (h : apartFrom [R.CAN_LOAD_LOAD_PM, R.CAN_LOAD_PEAK_PM] f = true) :
    (s.loadTaken ch b).get f k = s.get f k := by
  unfold State.loadTaken State.loadShown
  rw [State.get_set_ne _ _ _ _ (apartFrom_ne h (by simp)), State.setU_get_ne _ _ (apartFrom_ne h (by simp)), State.putCan_get]

theorem State.loadTaken_canSt : (s.loadTaken ch b).canSt ch = { s.canSt ch with loads := s.squallLoads ch b } :=
  State.putCan_canSt _ _ _

theorem State.loadTaken_now : (s.loadTaken ch b).now = s.now := rfl

variable (dt : Nat) (c : CanCfg) (hc : s.canCfg ch = some c) (htick : s.tick % 100 = 0)
include hc htick

/-- A millisecond's load either begins a hold, ends one, or is shown. -/
theorem exec_squallLoadUpdate_due : exec (.squallLoadUpdate dt ch b) s =
    if !((s.advance dt).loadTaken ch b).flag R.CAN_STAT_SQUALL ch && (c.sqHold : Rat) / 100 ≤ (s.squallLoads ch b).sum / 10 then
      .next ((((s.advance dt).loadTaken ch b).squallHeld ch (((s.advance dt).loadShown ch b).get R.CAN_LOAD_LOAD_PM ch)).mbsMove ch 1 7
        (fun m => !m.urgent) c.mbs)
    else if ((s.advance dt).loadTaken ch b).flag R.CAN_STAT_SQUALL ch && (s.squallLoads ch b).sum / 10 ≤ (c.sqRelease : Rat) / 100 then
      .next (((s.advance dt).loadTaken ch b).squallReleased ch (((s.advance dt).loadShown ch b).get R.CAN_LOAD_LOAD_PM ch) c.mbs)
    else .next ((s.advance dt).loadTaken ch b) := by
  show execSquallLoadUpdate dt ch b s = _
  unfold execSquallLoadUpdate State.squallReleased
  dsimp only
  rewrite [show (s.advance dt).canCfg ch = some c from hc]
  dsimp only
  rewrite [if_neg (not_not_intro (show (s.advance dt).tick % 100 = 0 from htick)), ← State.mbsMove_all]
  rfl

theorem squallLoadUpdate_holds (hoff : s.get R.CAN_STAT_SQUALL ch = 0) (hload : (c.sqHold : Rat) / 100 ≤ (s.squallLoads ch b).sum / 10) :
    ∃ t, exec (.squallLoadUpdate dt ch b) s = .next t ∧ t.get R.CAN_STAT_SQUALL ch = 1 ∧
      t.get R.CAN_SQ_HOLDS ch = (s.get R.CAN_SQ_HOLDS ch + 1) % 65536 ∧ (t.canSt ch).holdAt = some (s.now + dt) ∧ t.get R.CAN_EVT_SQUALL ch = 1 ∧
      (t.canSt ch).loads = s.squallLoads ch b ∧
      (c.mbs.all fun m => m.2.urgent || decide (s.mbStatus ch m.1 ≠ 1) || decide (t.mbStatus ch m.1 = 7)) = true := by
  have hexec := exec_squallLoadUpdate_due s ch b dt c hc htick
  have hflag : ((s.advance dt).loadTaken ch b).flag R.CAN_STAT_SQUALL ch = false :=
    decide_eq_false (by rewrite [State.loadTaken_get _ _ _ _ (by decide), State.advance_get, hoff]; decide)
  rewrite [hflag, if_pos (by simpa using hload)] at hexec
  have hget {f : Fld} (k : Nat) (h : apartFrom [R.CAN_LOAD_LOAD_PM, R.CAN_LOAD_PEAK_PM] f = true) :
      ((s.advance dt).loadTaken ch b).get f k = s.get f k := State.loadTaken_get _ _ _ _ h
  have hst : ((s.advance dt).loadTaken ch b).canSt ch = { s.canSt ch with loads := s.squallLoads ch b } := State.loadTaken_canSt _ _ _
  have hnow : ((s.advance dt).loadTaken ch b).now = s.now + dt := rfl
  generalize (s.advance dt).loadTaken ch b = u at hexec hget hst hnow
  generalize ((s.advance dt).loadShown ch b).get R.CAN_LOAD_LOAD_PM ch = pm at hexec
  have hcan : (u.squallHeld ch pm).canSt ch = { s.canSt ch with loads := s.squallLoads ch b, holdAt := some (s.now + dt) } := by
    unfold State.squallHeld
    rewrite [State.record_canSt, State.putCan_canSt]
    unfold State.squallShown
    rewrite [State.evt_canSt, State.evt_now, State.inc_eq, State.set_canSt, State.set_canSt, hst]
    exact congrArg (fun n => ({ s.canSt ch with loads := s.squallLoads ch b, holdAt := some n } : CanSt)) hnow
  have hheld {f : Fld} (k : Nat) (hn : noteFld f = false) : (u.squallHeld ch pm).get f k = (u.squallShown ch).get f k := by
    unfold State.squallHeld
    rw [State.record_get _ _ _ hn, State.putCan_get]
  refine ⟨_, hexec, ?_, ?_, ?_, ?_, ?_, List.all_eq_true.2 fun m hm => ?_⟩
  · rewrite [State.mbsMove_get _ _ _ _ _ _ _ (by decide), hheld _ (by decide)]
    unfold State.squallShown
    rewrite [State.evt_get_ne _ _ _ (by decide) (by decide), State.inc_get_ne _ _ (by decide), State.get_set_same]
    rfl
  · rewrite [State.mbsMove_get _ _ _ _ _ _ _ (by decide), hheld _ (by decide)]
    unfold State.squallShown
    rewrite [State.evt_get_ne _ _ _ (by decide) (by decide), State.inc_eq, State.get_set_same, State.get_set_ne _ _ _ _ (by decide), hget _ (by decide)]
    rfl
  · rw [State.canSt_of_can (State.mbsMove_can _ _ _ _ _ _), hcan]
  · rewrite [State.mbsMove_get _ _ _ _ _ _ _ (by decide), hheld _ (by decide)]
    exact State.evt_get_same _ _ _ (by decide)
  · rw [State.canSt_of_can (State.mbsMove_can _ _ _ _ _ _), hcan]
  · simp only [Bool.or_eq_true, decide_eq_true_eq]
    by_cases hurgent : m.2.urgent = true
    · exact .inl (.inl hurgent)
    · by_cases h1 : s.mbStatus ch m.1 = 1
      · refine .inr (State.mbsMove_moves _ _ _ _ _ _ (by decide) m hm (by simpa using hurgent) ?_)
        unfold State.mbStatus
        rewrite [hheld _ noteFld_CAN_MB_STAT_STATUS]
        unfold State.squallShown
        rewrite [State.evt_get_ne _ _ _ noteFld_CAN_MB_STAT_STATUS (by decide), State.inc_get_ne _ _ (by decide),
          State.get_set_ne _ _ _ _ (by decide), hget _ (by decide)]
        exact h1
      · exact .inl (.inr h1)

theorem squallLoadUpdate_releases (hon : s.get R.CAN_STAT_SQUALL ch = 1) (hload : (s.squallLoads ch b).sum / 10 ≤ (c.sqRelease : Rat) / 100) :
    ∃ t, exec (.squallLoadUpdate dt ch b) s = .next t ∧ t.get R.CAN_STAT_SQUALL ch = 0 ∧ (t.canSt ch).holdAt = none ∧
      (t.canSt ch).squallAlarm = false ∧ (c.mbs.all fun m => decide (s.mbStatus ch m.1 ≠ 7) || decide (t.mbStatus ch m.1 = 1)) = true := by
  have hexec := exec_squallLoadUpdate_due s ch b dt c hc htick
  have hflag : ((s.advance dt).loadTaken ch b).flag R.CAN_STAT_SQUALL ch = true :=
    decide_eq_true ((State.loadTaken_get _ _ _ _ (by decide)).trans hon)
  rewrite [hflag, if_neg (by simp), if_pos (by simpa using hload)] at hexec
  have hget {f : Fld} (k : Nat) (h : apartFrom [R.CAN_LOAD_LOAD_PM, R.CAN_LOAD_PEAK_PM] f = true) :
      ((s.advance dt).loadTaken ch b).get f k = s.get f k := State.loadTaken_get _ _ _ _ h
  generalize (s.advance dt).loadTaken ch b = u at hexec hget
  generalize ((s.advance dt).loadShown ch b).get R.CAN_LOAD_LOAD_PM ch = pm at hexec
  have hrel {f : Fld} (k : Nat) (hn : noteFld f = false) :
      (u.squallReleased ch pm c.mbs).get f k = ((u.squallEnded ch).mbsMove ch 7 1 (fun _ => true) c.mbs).get f k := by
    unfold State.squallReleased
    dsimp only
    split
    · rw [State.clearAlarm_get _ _ _ _ _ _ hn, State.record_get _ _ _ hn]
    · rw [State.record_get _ _ _ hn]
  have hcan : (u.squallReleased ch pm c.mbs).canSt ch = { u.canSt ch with holdAt := none, squallAlarm := false } := by
    have hended : ((u.squallEnded ch).mbsMove ch 7 1 (fun _ => true) c.mbs).canSt ch = { u.canSt ch with holdAt := none, squallAlarm := false } :=
      (State.canSt_of_can (State.mbsMove_can _ _ _ _ _ _) ch).trans (State.putCan_canSt _ _ _)
    unfold State.squallReleased
    dsimp only
    split
    · rw [State.canSt_of_can (State.clearAlarm_can _ _ _ _ _), State.record_canSt, hended]
    · rw [State.record_canSt, hended]
  refine ⟨_, hexec, ?_, (congrArg CanSt.holdAt hcan :), (congrArg CanSt.squallAlarm hcan :), List.all_eq_true.2 fun m hm => ?_⟩
  · rewrite [hrel _ (by decide), State.mbsMove_get _ _ _ _ _ _ _ (by decide)]
    exact State.get_set_same _ R.CAN_STAT_SQUALL 0 _
  · simp only [Bool.or_eq_true, decide_eq_true_eq]
    by_cases h7 : s.mbStatus ch m.1 = 7
    · refine .inr ((hrel _ noteFld_CAN_MB_STAT_STATUS).trans (State.mbsMove_moves _ _ _ _ _ _ (by decide) m hm rfl ?_))
      exact (State.get_set_ne u R.CAN_STAT_SQUALL 0 ch (g := R.CAN_MB_STAT_STATUS) (by decide)).trans ((hget _ (by decide)).trans h7)
    · exact .inl h7

end

section
variable (dt ch : Nat) (s : State)

theorem canSquallAlarm_raises (t₀ : Nat) (hat : (s.canSt ch).holdAt = some t₀) (hno : (s.canSt ch).squallAlarm = false)
    (hdue : t₀ + 1000000000 ≤ s.now + dt) :
    ∃ t, exec (.canSquallAlarm dt ch) s = .next t ∧ t.canSt ch = { s.canSt ch with squallAlarm := true } ∧
      Framed [] { s.advance dt with can := t.can } t := by
  have hexec : exec (.canSquallAlarm dt ch) s = .next (((s.advance dt).putCan ch { s.canSt ch with squallAlarm := true }).alarm 0x1404 ch
      [(1, ch), (2, (s.advance dt).get R.CAN_LOAD_LOAD_PM ch), measItem 0x1404 ((((s.advance dt).now - t₀ : Nat) : Rat) / 1000000000)] 1) := by
    show execCanSquallAlarm dt ch s = _
    unfold execCanSquallAlarm
    dsimp only
    rewrite [show ((s.advance dt).canSt ch).holdAt = some t₀ from hat]
    have hraise : (decide (t₀ + 1000000000 ≤ (s.advance dt).now) && !((s.advance dt).canSt ch).squallAlarm) = true :=
      (Bool.and_eq_true _ _).mpr ⟨decide_eq_true hdue, by rewrite [State.advance_canSt, hno]; rfl⟩
    dsimp only
    rewrite [if_pos hraise, ← hat]
    rfl
  refine ⟨_, hexec, ?_, ?_⟩
  · rw [State.canSt_of_can (State.alarm_can _ _ _ _ _), State.putCan_canSt]
  · rewrite [State.alarm_can]
    exact State.alarm_framed _ _ _ _ _ (.refl _ _)

theorem exec_canSquallAlarm_idle (h : (s.canSt ch).holdAt = none ∨ (s.canSt ch).squallAlarm = true) :
    exec (.canSquallAlarm dt ch) s = .next (s.advance dt) := by
  show execCanSquallAlarm dt ch s = _
  unfold execCanSquallAlarm
  dsimp only
  rewrite [State.advance_canSt]
  rcases h with h | h
  · rw [h]
  · split
    · exact if_neg (by simp [h])
    · rfl

end

/-- Settles O52: a received frame by what its counting and its destination leave alone, a slot by its buffers and its lock, and the guard by
the mailboxes that it moves. That RX FRAMES counts remote frames (log 225) and that INFO.SEQ is the frame's own number, also after the shadow
moved (log 217), are the model's choice. -/
theorem canReception : Obligations.CanReception := by
  unfold Obligations.CanReception
  exact ⟨fun dt ch n f c x s hc hm hr hi h3 hslot => canFrameReceive_front dt ch f c s hc hm hr hi h3 n x hslot,
    fun dt ch n f c x s hc hm hr hi h3 hslot => canFrameReceive_shadow dt ch f c s hc hm hr hi h3 n x hslot,
    fun dt ch n f c x s hc hm hr hi h3 => canFrameReceive_rejected dt ch f c s hc hm hr hi h3 n x,
    canFrameReceive_unmatched, canFrameReceive_remote, exec_canFrameReceive_off, fun dt ch n p s => canEsIdRead_locks s ch n dt p,
    fun dt ch n p f q s hch hn hlock => canEsData15Read_moves s ch n dt p hch hn hlock f q,
    fun dt ch n p s hch hn hlock => canEsData15Read_unlocks s ch n dt p hch hn hlock,
    fun dt ch n t₀ c s => canEsLockTimeout_unlocks s ch n dt t₀ c, fun dt ch n s => exec_canEsLockTimeout_unlocked s ch n dt,
    fun dt ch b c s => squallLoadUpdate_holds s ch b dt c, fun dt ch b c s => squallLoadUpdate_releases s ch b dt c,
    fun dt ch t₀ s => canSquallAlarm_raises dt ch s t₀, exec_canSquallAlarm_idle⟩

end Sys2Proof.Machine
end

section
set_option Elab.async false
/-!
PROOF of the statement of 17_can_fd.md about NMEA 2000 addresses (Nmea2000Addresses): what the sending of a claim, a claim heard and the loss
of an address leave alone and show, and then the two commands.
-/

namespace Sys2Proof.Machine

open Sys2Proof

/-! ### A claim is sent (R408, R418) -/

section
variable (s : State) (ch mb : Nat) (l : List Nat) (sof : Bool)

theorem State.mbQueue_get {f : Fld} (b : Nat) (h : apartFrom fillFlds f = true) : (s.mbQueue ch mb l sof).get f b = s.get f b := by
  unfold State.mbQueue
  split
  · rfl
  · split
    · rfl
    · split
      · exact (State.get_set_ne _ _ _ _ (apartFrom_ne h (by simp)))
      · exact State.mbFill_get _ _ _ _ _ _ h

theorem State.mbQueue_canSt {β : Type} {p : CanSt → β} (hp : OffMbs p) : p ((s.mbQueue ch mb l sof).canSt ch) = p (s.canSt ch) := by
  unfold State.mbQueue
  split
  · rfl
  · split
    · rfl
    · split
      · exact (congrArg p (State.putMb_canSt _ _ _ _)).trans (hp _ _)
      · exact State.mbFill_canSt _ _ _ _ _ hp

variable (n : N2kCfg)

theorem State.n2kSend_get {f : Fld} (b : Nat) (h : apartFrom (R.CAN_MB_ID_ID :: fillFlds) f = true) :
    (s.n2kSend ch n).get f b = s.get f b :=
  (State.mbQueue_get _ _ _ _ _ _ (apartFrom_mono h (by simp))).trans (State.get_set_ne _ _ _ _ (apartFrom_ne h (by simp)))

/-- A claim carries the address that the device holds. -/
theorem State.n2kSend_id : (s.n2kSend ch n).get R.CAN_MB_ID_ID (mbBank ch n.mb) = (0x18EEFF00 + s.get R.CAN_N2K_ADDR ch) % 2 ^ 29 :=
  (State.mbQueue_get _ _ _ _ _ _ (by decide)).trans (State.get_set_same _ R.CAN_MB_ID_ID _ _)

theorem State.n2kSend_seen : ((s.n2kSend ch n).canSt ch).seen = (s.canSt ch).seen :=
  State.mbQueue_canSt _ ch _ _ _ (p := CanSt.seen) fun _ _ => rfl

theorem State.n2kNote_get (name old new : Nat) {f : Fld} (b : Nat) (hn : noteFld f = false) : (s.n2kNote ch name old new).get f b = s.get f b :=
  State.record_get _ _ _ hn

end

/-! ### A claim is heard, an address is lost (R418) -/

section
variable (s : State) (ch : Nat) (n : N2kCfg) (name addr : Nat)

/-- The claims heard on a channel, with the newest. -/
def State.n2kSeen : State := s.putCan ch { s.canSt ch with seen := tput (s.canSt ch).seen name addr }

/-- A claim is kept, and noted where it changes what the channel knew. -/
def State.n2kHeard : State :=
  match tfind (s.canSt ch).seen name with
  | some a => if a = addr then s.n2kSeen ch name addr else (s.n2kSeen ch name addr).n2kNote ch name a addr
  | none => match n.nodes.find? fun x => decide (x.1 = name) with
    | some x => if x.2 = addr then s.n2kSeen ch name addr else (s.n2kSeen ch name addr).n2kNote ch name x.2 addr
    | none => s.n2kSeen ch name addr

/-- What is heard is kept, noted or not. -/
theorem State.n2kHeard_cases : s.n2kHeard ch n name addr = s.n2kSeen ch name addr ∨
    ∃ old, s.n2kHeard ch n name addr = (s.n2kSeen ch name addr).n2kNote ch name old addr := by
  unfold State.n2kHeard
  split
  · split
    · exact .inl rfl
    · exact .inr ⟨_, rfl⟩
  · split
    · split
      · exact .inl rfl
      · exact .inr ⟨_, rfl⟩
    · exact .inl rfl

theorem State.n2kHeard_get {f : Fld} (b : Nat) (hn : noteFld f = false) : (s.n2kHeard ch n name addr).get f b = s.get f b := by
  rcases s.n2kHeard_cases ch n name addr with e | ⟨old, e⟩
  · rewrite [e]
    rfl
  · rewrite [e, State.n2kNote_get _ _ _ _ _ _ hn]
    rfl

theorem State.n2kHeard_seen : tfind ((s.n2kHeard ch n name addr).canSt ch).seen name = some addr := by
  have hseen : ((s.n2kSeen ch name addr).canSt ch).seen = tput (s.canSt ch).seen name addr :=
    (congrArg CanSt.seen (s.putCan_canSt ch _) :)
  have hkept : ((s.n2kHeard ch n name addr).canSt ch).seen = tput (s.canSt ch).seen name addr := by
    rcases s.n2kHeard_cases ch n name addr with e | ⟨old, e⟩
    · rw [e, hseen]
    · rewrite [e]
      unfold State.n2kNote
      rw [State.record_canSt, hseen]
  rewrite [hkept]
  exact tfind_tput_same _ _ _

theorem State.n2kMove_get (a : Nat) {f : Fld} (b : Nat) (h : fkey f ≠ fkey R.CAN_MB_ID_ID) : (s.n2kMove ch n a).get f b = s.get f b := by
  unfold State.n2kMove
  split
  · refine foldl_keeps (fun u : State => u.get f b) _ (fun u x => ?_) s
    split
    · exact State.get_set_ne _ _ _ _ h
    · rfl
  · rfl

/-- A loss as its count and its event show it. -/
def State.n2kLostShown : State := (s.incSat R.CAN_N2K_LOSSES ch).evt R.CAN_EVT_N2K ch

/-- The addresses that a loser may try, from the next one on. -/
def State.n2kNext : List Nat :=
  let range := (List.range (n.hi + 1 - n.lo)).map (· + n.lo)
  range.filter (fun a => s.get R.CAN_N2K_ADDR ch < a) ++ range.filter (fun a => a ≤ s.get R.CAN_N2K_ADDR ch)

/-- The addresses that are in use on the channel. -/
def State.n2kTaken : List Nat := s.get R.CAN_N2K_ADDR ch :: (s.canSt ch).seen.map (·.2)

theorem State.mem_n2kNext {a : Nat} (h : a ∈ s.n2kNext ch n) : n.lo ≤ a ∧ a ≤ n.hi := by
  unfold State.n2kNext at h
  simp only [List.mem_append, List.mem_filter, List.mem_map, List.mem_range] at h
  rcases h with ⟨⟨k, hk, rfl⟩, -⟩ | ⟨⟨k, hk, rfl⟩, -⟩ <;> omega

/-- The next free address is claimed. -/
def State.n2kReclaimed (a : Nat) : State :=
  (((((s.n2kLostShown ch).set R.CAN_N2K_ADDR a ch).n2kMove ch n a).n2kNote ch n.name (s.get R.CAN_N2K_ADDR ch) a).n2kSend ch n)

/-- No address can be claimed. -/
def State.n2kMuted : State :=
  ((((((s.n2kLostShown ch).set R.CAN_N2K_ADDR 254 ch).set R.CAN_N2K_CLAIMED 0 ch).set R.CAN_N2K_CANNOT_CLAIM 1 ch).alarm 0x140A ch
    [(1, ch), (8, n.name), (1, s.get R.CAN_N2K_ADDR ch), (1, 254)]).n2kSend ch n)

theorem State.n2kLost_some {a : Nat} (h : (s.n2kNext ch n).find? (fun a => decide (a ∉ s.n2kTaken ch)) = some a) :
    s.n2kLost ch n = s.n2kReclaimed ch n a := by
  unfold State.n2kNext State.n2kTaken at h
  unfold State.n2kLost
  dsimp only at h ⊢
  rewrite [h]
  rfl

theorem State.n2kLost_none (h : (s.n2kNext ch n).find? (fun a => decide (a ∉ s.n2kTaken ch)) = none) : s.n2kLost ch n = s.n2kMuted ch n := by
  unfold State.n2kNext State.n2kTaken at h
  unfold State.n2kLost
  dsimp only at h ⊢
  rewrite [h]
  rfl

theorem State.n2kLostShown_shows : (s.n2kLostShown ch).get R.CAN_N2K_LOSSES ch = min 255 (s.get R.CAN_N2K_LOSSES ch + 1) ∧
    (s.n2kLostShown ch).get R.CAN_EVT_N2K ch = 1 := by
  unfold State.n2kLostShown
  rewrite [State.evt_get_ne _ _ _ noteFld_CAN_N2K_LOSSES (by decide), State.incSat_get_same, State.evt_get_same _ _ _ (by decide)]
  exact ⟨rfl, rfl⟩

theorem State.n2kReclaimed_shows {a : Nat} (ha : a < 256) : (s.n2kReclaimed ch n a).get R.CAN_N2K_ADDR ch = a ∧
    (s.n2kReclaimed ch n a).get R.CAN_N2K_LOSSES ch = min 255 (s.get R.CAN_N2K_LOSSES ch + 1) ∧
    (s.n2kReclaimed ch n a).get R.CAN_EVT_N2K ch = 1 := by
  obtain ⟨hloss, hevt⟩ := s.n2kLostShown_shows ch
  have hget {f : Fld} (h : apartFrom (R.CAN_MB_ID_ID :: fillFlds) f = true) :
      (s.n2kReclaimed ch n a).get f ch = ((s.n2kLostShown ch).set R.CAN_N2K_ADDR a ch).get f ch :=
    (State.n2kSend_get _ _ _ _ h).trans ((State.n2kNote_get _ _ _ _ _ _ (noteFld_of_apartFrom h)).trans
      (State.n2kMove_get _ _ _ _ _ (apartFrom_ne h (by simp))))
  rewrite [hget (by decide), hget (by decide), hget (by decide), State.get_set_same, State.get_set_ne _ _ _ _ (by decide),
    State.get_set_ne _ _ _ _ (by decide)]
  exact ⟨Nat.mod_eq_of_lt ha, hloss, hevt⟩

theorem State.n2kMuted_shows : (s.n2kMuted ch n).get R.CAN_N2K_ADDR ch = 254 ∧ (s.n2kMuted ch n).get R.CAN_N2K_CANNOT_CLAIM ch = 1 ∧
    (s.n2kMuted ch n).get R.CAN_N2K_CLAIMED ch = 0 ∧ (s.n2kMuted ch n).get R.CAN_N2K_LOSSES ch = min 255 (s.get R.CAN_N2K_LOSSES ch + 1) ∧
    (s.n2kMuted ch n).get R.CAN_EVT_N2K ch = 1 := by
  obtain ⟨hloss, hevt⟩ := s.n2kLostShown_shows ch
  have hget {f : Fld} (h : apartFrom (R.CAN_MB_ID_ID :: fillFlds) f = true) : (s.n2kMuted ch n).get f ch =
      ((((s.n2kLostShown ch).set R.CAN_N2K_ADDR 254 ch).set R.CAN_N2K_CLAIMED 0 ch).set R.CAN_N2K_CANNOT_CLAIM 1 ch).get f ch :=
    (State.n2kSend_get _ _ _ _ h).trans (State.alarm_get _ _ _ _ _ _ (noteFld_of_apartFrom h))
  rewrite [hget (by decide), hget (by decide), hget (by decide), hget (by decide), hget (by decide)]
  simp (disch := decide) only [State.get_set_same, State.get_set_ne, hloss, hevt]
  exact ⟨rfl, rfl, rfl, trivial, trivial⟩

end

/-! ### N2K_ADDRESS_CLAIM and N2K_CLAIM_RECEIVE (R418) -/

section
variable (dt ch : Nat) (s : State)

theorem exec_n2kAddressClaim_none (h : s.canCfg ch = none) : exec (.n2kAddressClaim dt ch) s = .next (s.advance dt) := by
  show execN2kAddressClaim dt ch s = _
  unfold execN2kAddressClaim
  dsimp only
  rw [show (s.advance dt).canCfg ch = none from h]

variable (name addr : Nat)

theorem exec_n2kClaimReceive_off (request : Bool) (h : s.canMode ch = 0) : exec (.n2kClaimReceive dt ch request name addr) s = .next (s.advance dt) := by
  show execN2kClaimReceive dt ch request name addr s = _
  unfold execN2kClaimReceive
  dsimp only
  split
  · split
    · exact if_pos h
    · rfl
  · rfl

variable (c : CanCfg) (n : N2kCfg) (hc : s.canCfg ch = some c) (hn : c.n2k = some n) (hm : s.canMode ch ≠ 0)
include hc hn hm

theorem n2kAddressClaim_claims : ∃ t, exec (.n2kAddressClaim dt ch) s = .next t ∧ t.get R.CAN_N2K_ADDR ch = n.addr % 256 ∧
    t.get R.CAN_N2K_CLAIMED ch = 1 ∧ t.get R.CAN_EVT_N2K ch = 1 ∧
    t.get R.CAN_MB_ID_ID (mbBank ch n.mb) = (0x18EEFF00 + n.addr % 256) % 2 ^ 29 := by
  have hexec : exec (.n2kAddressClaim dt ch) s = .next ((((((s.advance dt).set R.CAN_N2K_ADDR n.addr ch).set R.CAN_N2K_CLAIMED 1 ch).evt
      R.CAN_EVT_N2K ch).n2kNote ch n.name 254 n.addr).n2kSend ch n) := by
    show execN2kAddressClaim dt ch s = _
    unfold execN2kAddressClaim
    dsimp only
    rewrite [show (s.advance dt).canCfg ch = some c from hc]
    dsimp only
    rewrite [hn]
    exact if_neg hm
  have haddr : ((((((s.advance dt).set R.CAN_N2K_ADDR n.addr ch).set R.CAN_N2K_CLAIMED 1 ch).evt
      R.CAN_EVT_N2K ch).n2kNote ch n.name 254 n.addr)).get R.CAN_N2K_ADDR ch = n.addr % 256 := by
    rewrite [State.n2kNote_get _ _ _ _ _ _ noteFld_CAN_N2K_ADDR, State.evt_get_ne _ _ _ noteFld_CAN_N2K_ADDR (by decide),
      State.get_set_ne _ _ _ _ (by decide),
      State.get_set_same]
    rfl
  refine ⟨_, hexec, (State.n2kSend_get _ _ _ _ (by decide)).trans haddr, ?_, ?_, (State.n2kSend_id _ _ _).trans (by rw [haddr])⟩
  · rewrite [State.n2kSend_get _ _ _ _ (by decide), State.n2kNote_get _ _ _ _ _ _ (by decide), State.evt_get_ne _ _ _ (by decide) (by decide),
      State.get_set_same]
    rfl
  · rewrite [State.n2kSend_get _ _ _ _ (by decide), State.n2kNote_get _ _ _ _ _ _ (by decide), State.evt_get_same _ _ _ (by decide)]
    rfl

theorem n2kClaimReceive_answers : ∃ t, exec (.n2kClaimReceive dt ch true name addr) s = .next t ∧
    t.get R.CAN_MB_ID_ID (mbBank ch n.mb) = (0x18EEFF00 + s.get R.CAN_N2K_ADDR ch) % 2 ^ 29 ∧
    t.get R.CAN_N2K_ADDR ch = s.get R.CAN_N2K_ADDR ch ∧ (t.canSt ch).seen = (s.canSt ch).seen := by
  have hexec : exec (.n2kClaimReceive dt ch true name addr) s = .next ((s.advance dt).n2kSend ch n) := by
    show execN2kClaimReceive dt ch true name addr s = _
    unfold execN2kClaimReceive
    dsimp only
    rewrite [show (s.advance dt).canCfg ch = some c from hc]
    dsimp only
    rewrite [hn]
    exact (if_neg hm).trans (if_pos rfl)
  exact ⟨_, hexec, State.n2kSend_id _ _ _, State.n2kSend_get _ _ _ _ (by decide), State.n2kSend_seen _ _ _⟩

/-- A claim heard is answered, lost to, or just kept. -/
theorem exec_n2kClaimReceive_claim : exec (.n2kClaimReceive dt ch false name addr) s =
    if addr = s.get R.CAN_N2K_ADDR ch ∧ s.get R.CAN_N2K_CLAIMED ch = 1 then
      if name < n.name then .next (((s.advance dt).n2kHeard ch n name addr).n2kLost ch n)
      else .next (((s.advance dt).n2kHeard ch n name addr).n2kSend ch n)
    else .next ((s.advance dt).n2kHeard ch n name addr) := by
  have haddr : ((s.advance dt).n2kHeard ch n name addr).get R.CAN_N2K_ADDR ch = s.get R.CAN_N2K_ADDR ch := State.n2kHeard_get _ _ _ _ _ _ noteFld_CAN_N2K_ADDR
  have hclaimed : ((s.advance dt).n2kHeard ch n name addr).get R.CAN_N2K_CLAIMED ch = s.get R.CAN_N2K_CLAIMED ch :=
    State.n2kHeard_get _ _ _ _ _ _ (by decide)
  rewrite [← haddr, ← hclaimed]
  show execN2kClaimReceive dt ch false name addr s = _
  unfold execN2kClaimReceive
  dsimp only
  rewrite [show (s.advance dt).canCfg ch = some c from hc]
  dsimp only
  rewrite [hn]
  dsimp only
  rewrite [if_neg (show (s.advance dt).canMode ch ≠ 0 from hm), if_neg Bool.false_ne_true]
  unfold State.flag
  simp only [Bool.and_eq_true, decide_eq_true_eq]
  rfl

theorem n2kClaimReceive_keeps (h : addr ≠ s.get R.CAN_N2K_ADDR ch ∨ n.name ≤ name ∨ s.get R.CAN_N2K_CLAIMED ch ≠ 1) :
    ∃ t, exec (.n2kClaimReceive dt ch false name addr) s = .next t ∧ t.get R.CAN_N2K_ADDR ch = s.get R.CAN_N2K_ADDR ch ∧
      tfind (t.canSt ch).seen name = some addr ∧ t.get R.CAN_N2K_LOSSES ch = s.get R.CAN_N2K_LOSSES ch := by
  have hexec := exec_n2kClaimReceive_claim dt ch s name addr c n hc hn hm
  have hseen := (s.advance dt).n2kHeard_seen ch n name addr
  have hget {f : Fld} (hn : noteFld f = false) : ((s.advance dt).n2kHeard ch n name addr).get f ch = s.get f ch := State.n2kHeard_get _ _ _ _ _ _ hn
  by_cases hown : addr = s.get R.CAN_N2K_ADDR ch ∧ s.get R.CAN_N2K_CLAIMED ch = 1
  · have hname : ¬ name < n.name := Nat.not_lt.2 ((h.resolve_left fun e => e hown.1).resolve_right fun e => e hown.2)
    rewrite [if_pos hown, if_neg hname] at hexec
    exact ⟨_, hexec, (State.n2kSend_get _ _ _ _ (by decide)).trans (hget noteFld_CAN_N2K_ADDR), by rewrite [State.n2kSend_seen]; exact hseen,
      (State.n2kSend_get _ _ _ _ (by decide)).trans (hget noteFld_CAN_N2K_LOSSES)⟩
  · rewrite [if_neg hown] at hexec
    exact ⟨_, hexec, hget noteFld_CAN_N2K_ADDR, hseen, hget noteFld_CAN_N2K_LOSSES⟩

theorem n2kClaimReceive_loses (ha : addr = s.get R.CAN_N2K_ADDR ch) (hname : name < n.name) (hclaimed : s.get R.CAN_N2K_CLAIMED ch = 1)
    (hhi : n.hi < 256) (h254 : addr ≠ 254) :
    ∃ t, exec (.n2kClaimReceive dt ch false name addr) s = .next t ∧ t.get R.CAN_N2K_ADDR ch ≠ addr ∧
      t.get R.CAN_N2K_LOSSES ch = min 255 (s.get R.CAN_N2K_LOSSES ch + 1) ∧ t.get R.CAN_EVT_N2K ch = 1 ∧
      ((n.lo ≤ t.get R.CAN_N2K_ADDR ch ∧ t.get R.CAN_N2K_ADDR ch ≤ n.hi) ∨
        (t.get R.CAN_N2K_ADDR ch = 254 ∧ t.get R.CAN_N2K_CANNOT_CLAIM ch = 1 ∧ t.get R.CAN_N2K_CLAIMED ch = 0)) := by
  have hexec := exec_n2kClaimReceive_claim dt ch s name addr c n hc hn hm
  rewrite [if_pos ⟨ha, hclaimed⟩, if_pos hname] at hexec
  have hget {f : Fld} (hn : noteFld f = false) : ((s.advance dt).n2kHeard ch n name addr).get f ch = s.get f ch := State.n2kHeard_get _ _ _ _ _ _ hn
  generalize (s.advance dt).n2kHeard ch n name addr = u at hexec hget
  have haddr : u.get R.CAN_N2K_ADDR ch = addr := (hget noteFld_CAN_N2K_ADDR).trans ha.symm
  cases hfind : (u.n2kNext ch n).find? (fun a => decide (a ∉ u.n2kTaken ch)) with
  | some a =>
    obtain ⟨hlo, hup⟩ := u.mem_n2kNext ch n (List.mem_of_find?_eq_some hfind)
    have hfree : a ∉ u.n2kTaken ch := of_decide_eq_true (List.find?_some hfind :)
    obtain ⟨hnew, hloss, hevt⟩ := u.n2kReclaimed_shows ch n (a := a) (by omega)
    rewrite [State.n2kLost_some u ch n hfind] at hexec
    refine ⟨_, hexec, ?_, by rw [hloss, hget noteFld_CAN_N2K_LOSSES], hevt, .inl (by rewrite [hnew]; exact ⟨hlo, hup⟩)⟩
    rewrite [hnew]
    intro e
    exact hfree (List.mem_cons.2 (.inl (e.trans haddr.symm)))
  | none =>
    obtain ⟨hnew, hcannot, hnot, hloss, hevt⟩ := u.n2kMuted_shows ch n
    rewrite [State.n2kLost_none u ch n hfind] at hexec
    exact ⟨_, hexec, by rewrite [hnew]; exact h254.symm, by rw [hloss, hget noteFld_CAN_N2K_LOSSES], hevt, .inr ⟨hnew, hcannot, hnot⟩⟩

end

/-- Settles O53: a claim, an answer, a claim heard and a loss by their lemmas above. The identifier of a claim (log 218), that an address is
held at once (log 219) and the course of a loss (log 226) are the model's choice. -/
theorem nmea2000Addresses : Obligations.Nmea2000Addresses := by
  unfold Obligations.Nmea2000Addresses
  exact ⟨fun dt ch c n s => n2kAddressClaim_claims dt ch s c n, fun dt ch a m c n s => n2kClaimReceive_answers dt ch s m a c n,
    fun dt ch a m c n s => n2kClaimReceive_keeps dt ch s m a c n, fun dt ch a m c n s => n2kClaimReceive_loses dt ch s m a c n,
    exec_n2kAddressClaim_none, fun dt ch a m b s => exec_n2kClaimReceive_off dt ch s m a b⟩

end Sys2Proof.Machine
end

section
set_option Elab.async false
/-!
PROOF of the statement of 18_ethernet_and_host.md about reception (EthernetReception): the stages a frame passes, one by one, and what each
stage leaves of the device.
-/

namespace Sys2Proof.Machine

open Sys2Proof

/-! ### The stages of reception (R426) -/

section
variable (s : State) (p lead : Nat) (pc c : EthCfg) (f : EthFrame)

/-- The trunk of a port that is configured is configured. -/
theorem State.ethCfg_lead {a : EthCfg} (h : s.ethCfg p = some a) : ∃ b, s.ethCfg (s.ethLead p) = some b := by
  unfold State.ethLead
  split
  next b hb =>
    split
    · exact ⟨b, hb⟩
    · exact ⟨a, h⟩
  next => exact ⟨a, h⟩

/-- Stages 2 and 3: the limit of broadcasts, then duplicates. -/
def State.ethTaken : State × Bool := if (s.ethBc p pc f).2 then (s.ethBc p pc f).1.ethPrp p lead c f else s.ethBc p pc f

/-- Stages 4 to 6: a frame to an address of the port, by its EtherType. -/
def State.ethAddressed : State :=
  if f.dst = .unicast || f.dst = .broadcast || f.dst = .multicast then s.inc R.ETH_RX_CNT_UNMATCHED p
  else match f.type with
    | .ptp => s.inc R.ETH_RX_CNT_FRAMES p
    | .other => s.inc R.ETH_RX_CNT_UNMATCHED p
    | .device => s.ethFilter p lead c f

theorem State.ethBc_addressed (h : f.dst ≠ .broadcast ∧ f.dst ≠ .multicast) : s.ethBc p c f = (s, true) := by
  unfold State.ethBc
  exact if_pos (by simp [h])

theorem State.ethPrp_none (h : f.prp = none) : s.ethPrp p lead c f = (s, true) := by
  unfold State.ethPrp
  rw [h]

theorem State.ethPrp_off (h : c.prp = false) : s.ethPrp p lead c f = (s, true) := by
  unfold State.ethPrp
  split
  · rfl
  · exact if_pos (by rewrite [h]; rfl)

theorem State.ethTaken_addressed (h : f.dst ≠ .broadcast ∧ f.dst ≠ .multicast) : s.ethTaken p lead pc c f = s.ethPrp p lead c f := by
  unfold State.ethTaken
  rewrite [State.ethBc_addressed s p pc f h]
  rfl

theorem State.ethAddressed_foreign (h : f.dst ∈ [.broadcast, .multicast, .unicast]) :
    s.ethAddressed p lead c f = s.inc R.ETH_RX_CNT_UNMATCHED p := by
  unfold State.ethAddressed
  simp only [List.mem_cons, List.not_mem_nil, or_false] at h
  exact if_pos (by rcases h with h | h | h <;> simp [h])

theorem State.ethAddressed_own (h : f.dst ∈ [.own, .inst, .roll, .ptp]) : s.ethAddressed p lead c f =
    match f.type with
    | .ptp => s.inc R.ETH_RX_CNT_FRAMES p
    | .other => s.inc R.ETH_RX_CNT_UNMATCHED p
    | .device => s.ethFilter p lead c f := by
  unfold State.ethAddressed
  simp only [List.mem_cons, List.not_mem_nil, or_false] at h
  rw [if_neg (by rcases h with h | h | h | h <;> simp [h])]

end

section
variable (dt p : Nat) (c : EthCfg) (f : EthFrame) (s : State)

theorem exec_ethFrameReceive_down (h : s.ethCfg p = none ∨ (s.ethSt p).up = false ∨ s.get R.ETH_STAT_LINK p ≠ 1) :
    exec (.ethFrameReceive dt p f) s = .next (s.advance dt) := by
  show execEthFrameReceive dt p f s = _
  unfold execEthFrameReceive
  dsimp only
  split
  next pc lc hpc hlc =>
    refine if_pos ?_
    rcases h with h | h | h
    · cases h.symm.trans (show s.ethCfg p = some pc from hpc)
    · rewrite [show ((s.advance dt).ethSt p).up = false from h]
      rfl
    · rewrite [show (s.advance dt).flag R.ETH_STAT_LINK p = false from decide_eq_false h]
      simp
  next => rfl

/-- A frame on a port with its link up: its FCS, its length, and the later stages. -/
theorem exec_ethFrameReceive_up (hc : s.ethCfg p = some c) (hup : (s.ethSt p).up = true) (hlink : s.get R.ETH_STAT_LINK p = 1) {b : EthCfg}
    (hb : s.ethCfg (s.ethLead p) = some b) : exec (.ethFrameReceive dt p f) s =
    if !f.fcsOk then .next ((s.advance dt).incSat R.ETH_ERR_CNT_FCS p)
    else if f.len < 64 || 1522 < f.len then .next ((s.advance dt).incSat R.ETH_ERR_CNT_LENGTH p)
    else if !((s.advance dt).ethTaken p (s.ethLead p) c b f).2 then .next ((s.advance dt).ethTaken p (s.ethLead p) c b f).1
    else .next (((s.advance dt).ethTaken p (s.ethLead p) c b f).1.ethAddressed p (s.ethLead p) b f) := by
  show execEthFrameReceive dt p f s = _
  unfold execEthFrameReceive State.ethAddressed
  dsimp only
  rewrite [show (s.advance dt).ethLead p = s.ethLead p from rfl, show (s.advance dt).ethCfg p = some c from hc,
    show (s.advance dt).ethCfg (s.ethLead p) = some b from hb]
  dsimp only
  rewrite [show ((s.advance dt).ethSt p).up = true from hup, show (s.advance dt).flag R.ETH_STAT_LINK p = true from decide_eq_true hlink]
  rewrite [if_neg (by decide)]
  unfold State.ethTaken
  generalize (if ((s.advance dt).ethBc p c f).2 = true then ((s.advance dt).ethBc p c f).1.ethPrp p (s.ethLead p) b f
    else (s.advance dt).ethBc p c f) = r
  split
  · rfl
  · split
    · rfl
    · split
      · rfl
      · split
        · rfl
        · cases f.type <;> rfl

theorem ethFrameReceive_bad (hc : s.ethCfg p = some c) (hup : (s.ethSt p).up = true) (hlink : s.get R.ETH_STAT_LINK p = 1)
    (hbad : f.fcsOk = false ∨ f.len < 64 ∨ 1522 < f.len) :
    ∃ t, exec (.ethFrameReceive dt p f) s = .next t ∧
      t.get R.ETH_ERR_CNT_FCS p = (if f.fcsOk = false then min 255 (s.get R.ETH_ERR_CNT_FCS p + 1) else s.get R.ETH_ERR_CNT_FCS p) ∧
      t.get R.ETH_ERR_CNT_LENGTH p = (if f.fcsOk = false then s.get R.ETH_ERR_CNT_LENGTH p else min 255 (s.get R.ETH_ERR_CNT_LENGTH p + 1)) ∧
      Framed (regKeys p [R.ETH_ERR_CNT_FCS, R.ETH_ERR_CNT_LENGTH]) (s.advance dt) t := by
  obtain ⟨b, hb⟩ := s.ethCfg_lead p hc
  have hexec := exec_ethFrameReceive_up dt p c f s hc hup hlink hb
  cases hfcs : f.fcsOk with
  | false =>
    rewrite [hfcs, if_pos (by rfl)] at hexec
    refine ⟨_, hexec, ?_, ?_, set_framed _ _ _ _ (.inl (by simp [regKeys])) (.refl _ _)⟩
    · rewrite [if_pos rfl, State.incSat_get_same]
      rfl
    · rw [if_pos rfl, State.incSat_eq, State.get_set_ne _ _ _ _ (by decide), State.advance_get]
  | true =>
    have hlen : f.len < 64 ∨ 1522 < f.len := hbad.resolve_left (by rewrite [hfcs]; decide)
    rewrite [hfcs, if_neg (by decide), if_pos (by simpa using hlen)] at hexec
    refine ⟨_, hexec, ?_, ?_, set_framed _ _ _ _ (.inl (by simp [regKeys])) (.refl _ _)⟩
    · rw [if_neg (by decide), State.incSat_eq, State.get_set_ne _ _ _ _ (by decide), State.advance_get]
    · rewrite [if_neg (by decide), State.incSat_get_same]
      rfl

end

/-- A frame that passes the first stages: the port is configured and its link up, the FCS and the length are good (R426). -/
structure GoodFrame (s : State) (p : Nat) (c : EthCfg) (f : EthFrame) : Prop where
  cfg : s.ethCfg p = some c
  up : (s.ethSt p).up = true
  link : s.get R.ETH_STAT_LINK p = 1
  fcs : f.fcsOk = true
  min : 64 ≤ f.len
  max : f.len ≤ 1522

section
variable (dt : Nat) {p : Nat} {c : EthCfg} {f : EthFrame} {s : State} (g : GoodFrame s p c f)
include g

/-- A good frame passes to the later stages. -/
theorem exec_ethFrameReceive_good {b : EthCfg} (hb : s.ethCfg (s.ethLead p) = some b) : exec (.ethFrameReceive dt p f) s =
    if !((s.advance dt).ethTaken p (s.ethLead p) c b f).2 then .next ((s.advance dt).ethTaken p (s.ethLead p) c b f).1
    else .next (((s.advance dt).ethTaken p (s.ethLead p) c b f).1.ethAddressed p (s.ethLead p) b f) := by
  rw [exec_ethFrameReceive_up dt p c f s g.cfg g.up g.link hb, g.fcs, if_neg (by decide), if_neg (by simp [Nat.not_lt.2 g.min, Nat.not_lt.2 g.max])]

theorem ethFrameReceive_dropped (hdst : f.dst ∈ [.broadcast, .multicast]) (hlim : c.bcLimit ≠ 0)
    (hsec : (s.ethSt p).bcSec = (s.now + dt) / 1000000000) (hfull : c.bcLimit ≤ (s.ethSt p).bcCount) :
    ∃ t, exec (.ethFrameReceive dt p f) s = .next t ∧ t.get R.ETH_SQ_BC_DROPS p = min 1023 (s.get R.ETH_SQ_BC_DROPS p + 1) ∧
      Framed [loc R.ETH_SQ_BC_DROPS p] (s.advance dt) t := by
  obtain ⟨b, hb⟩ := s.ethCfg_lead p g.cfg
  have hdst' : f.dst = .broadcast ∨ f.dst = .multicast := by simpa using hdst
  have hbc : (s.advance dt).ethBc p c f = ((s.advance dt).incSat R.ETH_SQ_BC_DROPS p, false) := by
    unfold State.ethBc
    rewrite [if_neg (by rcases hdst' with e | e <;> simp [e, hlim])]
    dsimp only
    rw [if_pos (show ((s.advance dt).ethSt p).bcSec = (s.advance dt).now / 1000000000 from hsec),
      if_neg (Nat.not_lt.2 (show c.bcLimit ≤ ((s.advance dt).ethSt p).bcCount from hfull))]
  have htaken : (s.advance dt).ethTaken p (s.ethLead p) c b f = ((s.advance dt).incSat R.ETH_SQ_BC_DROPS p, false) := by
    unfold State.ethTaken
    rewrite [hbc]
    rfl
  have hexec := exec_ethFrameReceive_good dt g hb
  rewrite [htaken] at hexec
  refine ⟨_, hexec, ?_, set_framed _ _ _ _ (.inl (List.mem_singleton.2 rfl)) (.refl _ _)⟩
  rewrite [State.incSat_get_same]
  rfl

/-- The broadcasts of the present second, with the newest. -/
def State.bcCounted (s : State) (p sec : Nat) : EthSt :=
  { s.ethSt p with bcSec := sec, bcCount := (if (s.ethSt p).bcSec = sec then (s.ethSt p).bcCount else 0) + 1 }

theorem ethFrameReceive_foreign (hdst : f.dst ∈ [.broadcast, .multicast, .unicast]) (hprp : f.prp = none)
    (hroom : f.dst = .unicast ∨ c.bcLimit = 0 ∨ (s.ethSt p).bcSec ≠ (s.now + dt) / 1000000000 ∨ (s.ethSt p).bcCount < c.bcLimit)
    (hlim : f.dst = .unicast ∨ c.bcLimit ≠ 0) :
    ∃ t, exec (.ethFrameReceive dt p f) s = .next t ∧ t.get R.ETH_RX_CNT_UNMATCHED p = (s.get R.ETH_RX_CNT_UNMATCHED p + 1) % 65536 ∧
      (f.dst ≠ .unicast → (t.ethSt p).bcCount = (if (s.ethSt p).bcSec = (s.now + dt) / 1000000000 then (s.ethSt p).bcCount else 0) + 1) ∧
      Framed [loc R.ETH_RX_CNT_UNMATCHED p] { s.advance dt with eth := t.eth } t := by
  obtain ⟨b, hb⟩ := s.ethCfg_lead p g.cfg
  have hexec := exec_ethFrameReceive_good dt g hb
  have hbc : ∃ e, (s.advance dt).ethBc p c f = ((s.advance dt).putEth p e, true) ∧
      (f.dst ≠ .unicast → e.bcCount = (if (s.ethSt p).bcSec = (s.now + dt) / 1000000000 then (s.ethSt p).bcCount else 0) + 1) ∨
      ((s.advance dt).ethBc p c f = (s.advance dt, true) ∧ f.dst = .unicast) := by
    by_cases hu : f.dst = .unicast
    · exact ⟨{}, .inr ⟨State.ethBc_addressed _ _ _ _ (by simp [hu]), hu⟩⟩
    · have hlim' : c.bcLimit ≠ 0 := hlim.resolve_left hu
      have hdst' : f.dst = .broadcast ∨ f.dst = .multicast := by simpa [hu] using hdst
      refine ⟨s.bcCounted p ((s.now + dt) / 1000000000), .inl ⟨?_, fun _ => rfl⟩⟩
      unfold State.ethBc
      rewrite [if_neg (by rcases hdst' with e | e <;> simp [e, hlim'])]
      refine if_pos ?_
      show (if (s.ethSt p).bcSec = (s.now + dt) / 1000000000 then (s.ethSt p).bcCount else 0) < c.bcLimit
      split
      next hsec => exact ((hroom.resolve_left hu).resolve_left hlim').resolve_left fun e => e hsec
      next => exact Nat.pos_of_ne_zero hlim'
  have htaken {u : State} (h : (s.advance dt).ethBc p c f = (u, true)) : (s.advance dt).ethTaken p (s.ethLead p) c b f = (u, true) := by
    unfold State.ethTaken
    rewrite [h]
    exact State.ethPrp_none _ _ _ _ _ hprp
  have hcount (u : State) (h : u.get R.ETH_RX_CNT_UNMATCHED p = s.get R.ETH_RX_CNT_UNMATCHED p) :
      (u.inc R.ETH_RX_CNT_UNMATCHED p).get R.ETH_RX_CNT_UNMATCHED p = (s.get R.ETH_RX_CNT_UNMATCHED p + 1) % 65536 := by
    rewrite [State.inc_eq, State.get_set_same, h]
    rfl
  obtain ⟨e, ⟨hbc, hn⟩ | ⟨hbc, hu⟩⟩ := hbc
  · rewrite [htaken hbc, State.ethAddressed_foreign _ _ _ _ _ hdst] at hexec
    refine ⟨_, hexec, hcount _ rfl, fun hu => ?_, set_framed _ _ _ _ (.inl (List.mem_singleton.2 rfl)) (.refl _ _)⟩
    rewrite [← hn hu]
    exact congrArg EthSt.bcCount ((s.advance dt).putEth_ethSt p e)
  · rewrite [htaken hbc, State.ethAddressed_foreign _ _ _ _ _ hdst] at hexec
    exact ⟨_, hexec, hcount _ rfl, fun h => absurd hu h, set_framed _ _ _ _ (.inl (List.mem_singleton.2 rfl)) (.refl _ _)⟩

/-! ### Duplicates of a PRP pair (R432) -/

end

/-- The sequences of a trunk that still count. -/
def State.prpSeen (s : State) (lead : Nat) : List (Nat × Nat × Nat) := (s.ethSt lead).seen.filter fun x => s.now ≤ x.2.2 + 400000000

/-- A trunk's data once it has taken a copy. -/
def State.prpTaken (u : State) (lead src q : Nat) : EthSt :=
  { u.ethSt lead with seen := (src, q, u.now) :: (((u.prpSeen lead).filter fun x => x.1 = src && decide ((q + 65536 - x.2.1) % 65536 < 128)) ++
      (u.prpSeen lead).filter fun x => decide (x.1 ≠ src)) }

section
variable {f : EthFrame} {b : EthCfg} {q : Nat} (hpair : b.prp = true) (hprp : f.prp = some (q, true, true)) (u : State) (p lead : Nat)
include hpair hprp

theorem State.ethPrp_dup (h : ((u.prpSeen lead).any fun x => x.1 = f.src && x.2.1 = q) = true) :
    u.ethPrp p lead b f = ((u.putEth lead { u.ethSt lead with seen := u.prpSeen lead }).inc R.ETH_PRP_DUPLICATES p, false) := by
  unfold State.ethPrp
  rewrite [hprp]
  dsimp only
  rewrite [if_neg (by simp [hpair]), if_neg (by decide)]
  exact if_pos h

theorem State.ethPrp_new (h : ((u.prpSeen lead).any fun x => x.1 = f.src && x.2.1 = q) = false) :
    u.ethPrp p lead b f = (u.putEth lead (u.prpTaken lead f.src q), true) := by
  unfold State.ethPrp
  rewrite [hprp]
  dsimp only
  rewrite [if_neg (by simp [hpair]), if_neg (by decide)]
  exact if_neg (by rewrite [show (List.filter (fun x => decide (u.now ≤ x.2.2 + 400000000)) (u.ethSt lead).seen) = u.prpSeen lead from rfl, h]; decide)

end

section
variable (dt : Nat) {p q : Nat} {c b : EthCfg} {f : EthFrame} {s : State} (g : GoodFrame s p c f) (hb : s.ethCfg (s.ethLead p) = some b)
  (hdst : f.dst = .inst)
include g hb hdst

/-- A frame to the device's own address: duplicates first, then by its EtherType. -/
theorem exec_ethFrameReceive_inst : exec (.ethFrameReceive dt p f) s =
    if !((s.advance dt).ethPrp p (s.ethLead p) b f).2 then .next ((s.advance dt).ethPrp p (s.ethLead p) b f).1
    else .next (((s.advance dt).ethPrp p (s.ethLead p) b f).1.ethAddressed p (s.ethLead p) b f) := by
  rw [exec_ethFrameReceive_good dt g hb, State.ethTaken_addressed _ _ _ _ _ _ (by simp [hdst])]

theorem ethFrameReceive_duplicate (hpair : b.prp = true) (hprp : f.prp = some (q, true, true)) (at_ : Nat)
    (hseen : (f.src, q, at_) ∈ (s.ethSt (s.ethLead p)).seen) (hat : s.now + dt ≤ at_ + 400000000) :
    ∃ t, exec (.ethFrameReceive dt p f) s = .next t ∧ t.get R.ETH_PRP_DUPLICATES p = (s.get R.ETH_PRP_DUPLICATES p + 1) % 65536 ∧
      Framed [loc R.ETH_PRP_DUPLICATES p] { s.advance dt with eth := t.eth } t := by
  have hexec := exec_ethFrameReceive_inst dt g hb hdst
  have hdup : (((s.advance dt).prpSeen (s.ethLead p)).any fun x => x.1 = f.src && x.2.1 = q) = true :=
    List.any_eq_true.2 ⟨(f.src, q, at_), List.mem_filter.2 ⟨hseen, decide_eq_true hat⟩, by simp⟩
  rewrite [State.ethPrp_dup hpair hprp _ _ _ hdup] at hexec
  refine ⟨_, hexec, ?_, set_framed _ _ _ _ (.inl (List.mem_singleton.2 rfl)) (.refl _ _)⟩
  rewrite [State.inc_eq, State.get_set_same]
  rfl

theorem ethFrameReceive_copy (hdev : f.type = .device) (hpair : b.prp = true) (hprp : f.prp = some (q, true, true))
    (hnew : ∀ x ∈ (s.ethSt (s.ethLead p)).seen, ¬ (x.1 = f.src ∧ x.2.1 = q))
    (hlen : f.lenOk = false) :
    ∃ t, exec (.ethFrameReceive dt p f) s = .next t ∧ (t.ethSt (s.ethLead p)).seen.head? = some (f.src, q, s.now + dt) ∧
      t.get R.ETH_ERR_CNT_BAD_PAYLOAD p = min 255 (s.get R.ETH_ERR_CNT_BAD_PAYLOAD p + 1) ∧
      Framed [loc R.ETH_ERR_CNT_BAD_PAYLOAD p] { s.advance dt with eth := t.eth } t := by
  have hexec := exec_ethFrameReceive_inst dt g hb hdst
  have hdup : (((s.advance dt).prpSeen (s.ethLead p)).any fun x => x.1 = f.src && x.2.1 = q) = false := by
    refine List.any_eq_false.2 fun x hx => ?_
    have h := hnew x (List.mem_filter.1 hx).1
    simpa using h
  rewrite [State.ethPrp_new hpair hprp _ _ _ hdup] at hexec
  have hbad (u : State) : u.ethAddressed p (s.ethLead p) b f = u.incSat R.ETH_ERR_CNT_BAD_PAYLOAD p := by
    rewrite [State.ethAddressed_own _ _ _ _ _ (by simp [hdst]), hdev]
    exact if_pos (by simp [hlen])
  rewrite [hbad] at hexec
  refine ⟨_, hexec, ?_, ?_, set_framed _ _ _ _ (.inl (List.mem_singleton.2 rfl)) (.refl _ _)⟩
  · exact congrArg (fun e : EthSt => e.seen.head?) ((s.advance dt).putEth_ethSt (s.ethLead p) _)
  · rewrite [State.incSat_get_same]
    rfl

end

/-! ### A frame to an address of the port, past PRP (R426) -/

/-- A good frame to an address of a port that is not in a pair. -/
structure OwnFrame (s : State) (p : Nat) (c : EthCfg) (f : EthFrame) : Prop extends GoodFrame s p c f where
  lead : s.ethLead p = p
  dst : f.dst ∈ [.own, .inst, .roll, .ptp]
  off : c.prp = false

section
variable (dt : Nat) {p : Nat} {c : EthCfg} {f : EthFrame} {s : State} (g : OwnFrame s p c f)
include g

theorem exec_ethFrameReceive_own : exec (.ethFrameReceive dt p f) s = .next ((s.advance dt).ethAddressed p p c f) := by
  have hdst : f.dst ≠ .broadcast ∧ f.dst ≠ .multicast := by
    have h := g.dst
    simp only [List.mem_cons, List.not_mem_nil, or_false] at h
    rcases h with h | h | h | h <;> simp [h]
  have hexec := exec_ethFrameReceive_good dt g.toGoodFrame (b := c) (by rewrite [g.lead]; exact g.cfg)
  rewrite [State.ethTaken_addressed _ _ _ _ _ _ hdst, State.ethPrp_off _ _ _ _ _ g.off, g.lead] at hexec
  exact hexec

theorem ethFrameReceive_otherType (htype : f.type ≠ .device) :
    ∃ t, exec (.ethFrameReceive dt p f) s = .next t ∧
      t.get R.ETH_RX_CNT_FRAMES p = (if f.type = .ptp then (s.get R.ETH_RX_CNT_FRAMES p + 1) % 65536 else s.get R.ETH_RX_CNT_FRAMES p) ∧
      t.get R.ETH_RX_CNT_UNMATCHED p = (if f.type = .ptp then s.get R.ETH_RX_CNT_UNMATCHED p else (s.get R.ETH_RX_CNT_UNMATCHED p + 1) % 65536) ∧
      Framed (regKeys p [R.ETH_RX_CNT_FRAMES, R.ETH_RX_CNT_UNMATCHED]) (s.advance dt) t := by
  have hexec := exec_ethFrameReceive_own dt g
  rewrite [State.ethAddressed_own _ _ _ _ _ g.dst] at hexec
  cases ht : f.type with
  | device => exact absurd ht htype
  | ptp =>
    rewrite [ht] at hexec
    dsimp only at hexec
    refine ⟨_, hexec, ?_, ?_, set_framed _ _ _ _ (.inl (by simp [regKeys])) (.refl _ _)⟩
    · rewrite [if_pos rfl, State.inc_eq, State.get_set_same]
      rfl
    · rw [if_pos rfl, State.inc_eq, State.get_set_ne _ _ _ _ (by decide), State.advance_get]
  | other =>
    rewrite [ht] at hexec
    dsimp only at hexec
    refine ⟨_, hexec, ?_, ?_, set_framed _ _ _ _ (.inl (by simp [regKeys])) (.refl _ _)⟩
    · rw [if_neg (by decide), State.inc_eq, State.get_set_ne _ _ _ _ (by decide), State.advance_get]
    · rewrite [if_neg (by decide), State.inc_eq, State.get_set_same]
      rfl

/-! ### The filters (R426 stages 5 and 6, R428, R434, R435) -/

variable (hdev : f.type = .device)
include hdev

theorem exec_ethFrameReceive_device : exec (.ethFrameReceive dt p f) s = .next ((s.advance dt).ethFilter p p c f) := by
  rw [exec_ethFrameReceive_own dt g, State.ethAddressed_own _ _ _ _ _ g.dst, hdev]

theorem ethFrameReceive_badPayload (hbad : f.version ≠ 1 ∨ f.lenOk = false ∨ f.checkOk = false) :
    ∃ t, exec (.ethFrameReceive dt p f) s = .next t ∧ t.get R.ETH_ERR_CNT_BAD_PAYLOAD p = min 255 (s.get R.ETH_ERR_CNT_BAD_PAYLOAD p + 1) ∧
      Framed [loc R.ETH_ERR_CNT_BAD_PAYLOAD p] (s.advance dt) t := by
  have hexec := exec_ethFrameReceive_device dt g hdev
  have hfilter : (s.advance dt).ethFilter p p c f = (s.advance dt).incSat R.ETH_ERR_CNT_BAD_PAYLOAD p := by
    unfold State.ethFilter
    exact if_pos (by rcases hbad with h | h | h <;> simp [h])
  rewrite [hfilter] at hexec
  refine ⟨_, hexec, ?_, set_framed _ _ _ _ (.inl (List.mem_singleton.2 rfl)) (.refl _ _)⟩
  rewrite [State.incSat_get_same]
  rfl

theorem ethFrameReceive_unmatched (hver : f.version = 1) (hlen : f.lenOk = true) (hcheck : f.checkOk = true)
    (hfind : c.filters.find? (fun x => ethMatch x.2 f) = none) :
    ∃ t, exec (.ethFrameReceive dt p f) s = .next t ∧ t.get R.ETH_RX_CNT_UNMATCHED p = (s.get R.ETH_RX_CNT_UNMATCHED p + 1) % 65536 ∧
      Framed [loc R.ETH_RX_CNT_UNMATCHED p] (s.advance dt) t := by
  have hexec := exec_ethFrameReceive_device dt g hdev
  have hfilter : (s.advance dt).ethFilter p p c f = (s.advance dt).inc R.ETH_RX_CNT_UNMATCHED p := by
    unfold State.ethFilter
    rw [if_neg (by simp [hver, hlen, hcheck]), hfind]
  rewrite [hfilter] at hexec
  refine ⟨_, hexec, ?_, set_framed _ _ _ _ (.inl (List.mem_singleton.2 rfl)) (.refl _ _)⟩
  rewrite [State.inc_eq, State.get_set_same]
  rfl

end

/-- A frame with a good payload that a filter takes. -/
structure MatchedFrame (s : State) (p : Nat) (c : EthCfg) (f : EthFrame) (n : Nat) (x : EthFilter) : Prop extends OwnFrame s p c f where
  device : f.type = .device
  version : f.version = 1
  len : f.lenOk = true
  check : f.checkOk = true
  found : c.filters.find? (fun y => ethMatch y.2 f) = some (n, x)

section
variable (dt p n : Nat) (s : State)

/-- A frame as its filter counts it. -/
def State.ethCounted (s : State) (p n : Nat) : State := (s.inc R.ETH_RX_CNT_FRAMES p).inc R.ETH_FLT_HIT_HITS (p * 32 + n)

theorem State.ethCounted_shows : ((s.advance dt).ethCounted p n).get R.ETH_RX_CNT_FRAMES p = (s.get R.ETH_RX_CNT_FRAMES p + 1) % 65536 ∧
    ((s.advance dt).ethCounted p n).get R.ETH_FLT_HIT_HITS (p * 32 + n) = (s.get R.ETH_FLT_HIT_HITS (p * 32 + n) + 1) % 2 ^ 32 ∧
    Framed [loc R.ETH_RX_CNT_FRAMES p, loc R.ETH_FLT_HIT_HITS (p * 32 + n)] (s.advance dt) ((s.advance dt).ethCounted p n) := by
  refine ⟨?_, ?_, set_framed _ _ _ _ (.inl (by simp)) (set_framed _ _ _ _ (.inl (by simp)) (.refl _ _))⟩
  · unfold State.ethCounted
    rewrite [State.inc_get_ne _ _ (by decide), State.inc_eq, State.get_set_same]
    rfl
  · unfold State.ethCounted
    rewrite [State.inc_eq _ R.ETH_FLT_HIT_HITS, State.get_set_same, State.inc_get_ne _ _ (by decide)]
    rfl

theorem State.ethCounted_eq : (s.advance dt).ethCounted p n = ((s.advance dt).set R.ETH_RX_CNT_FRAMES (s.get R.ETH_RX_CNT_FRAMES p + 1) p).set
    R.ETH_FLT_HIT_HITS (s.get R.ETH_FLT_HIT_HITS (p * 32 + n) + 1) (p * 32 + n) := by
  unfold State.ethCounted
  rewrite [State.inc_eq _ R.ETH_FLT_HIT_HITS, State.inc_get_ne _ _ (by decide)]
  rfl

theorem State.ethCounted_follows : ((s.advance dt).ethCounted p n).follows = s.follows := by
  have hget {g : Fld} (h : fkey g ≠ fkey R.ETH_RX_CNT_FRAMES ∧ fkey g ≠ fkey R.ETH_FLT_HIT_HITS) : ((s.advance dt).ethCounted p n).get g = s.get g := by
    rw [State.ethCounted_eq, State.get_set_ne _ _ _ _ h.2, State.get_set_ne _ _ _ _ h.1, State.advance_get]
  unfold State.follows State.isPaired State.isActive State.flag
  rw [hget (by decide), hget (by decide)]

theorem Framed.withInbox {ks : List Nat} {u v : State} (l : List Input) (h : Framed ks u v) : Framed ks { u with inbox := l } { v with inbox := l } :=
  ⟨congrArg (fun w : State => { w with inbox := l }) h.plain, h.regs⟩

/-- Where every element passes there is no first that does not. -/
theorem firstBad_all {α : Type} (ok : α → Bool) (l : List α) (k : Nat) (h : ∀ a ∈ l, ok a = true) : firstBad ok l k = none := by
  induction l generalizing k with
  | nil => rfl
  | cons a l ih =>
    unfold firstBad
    rewrite [h a List.mem_cons_self, if_pos rfl]
    exact ih _ fun b hb => h b (List.mem_cons_of_mem _ hb)

end

section
variable (dt : Nat) {p n : Nat} {c : EthCfg} {f : EthFrame} {x : EthFilter} {s : State} (g : MatchedFrame s p c f n x)
include g

theorem exec_ethFrameReceive_asleep (h3 : s.pwr.l3 ≠ 0) (hwake : x.wake = false) : exec (.ethFrameReceive dt p f) s = .next (s.advance dt) := by
  rewrite [exec_ethFrameReceive_device dt g.toOwnFrame g.device]
  unfold State.ethFilter
  rewrite [if_neg (by simp [g.version, g.len, g.check]), g.found]
  exact congrArg Host.Outcome.next (if_pos (by simp [hwake, h3]))

variable (h3 : s.pwr.l3 = 0)
include h3

theorem exec_ethFrameReceive_matched : exec (.ethFrameReceive dt p f) s = .next (((s.advance dt).ethCounted p n).ethDest p p c n x f) := by
  have h3' : (s.advance dt).pwr.l3 = 0 := h3
  rewrite [exec_ethFrameReceive_device dt g.toOwnFrame g.device]
  unfold State.ethFilter
  rewrite [if_neg (by simp [g.version, g.len, g.check]), g.found]
  dsimp only
  rewrite [if_neg (by rewrite [h3']; simp), State.lullLeave_awake _ _ (by rewrite [h3']; decide), ite_self]
  rfl

theorem ethFrameReceive_standby (hfol : s.follows = true) (hdest : x.dest ≠ 1) :
    ∃ t, exec (.ethFrameReceive dt p f) s = .next t ∧ t.get R.ETH_RX_CNT_FRAMES p = (s.get R.ETH_RX_CNT_FRAMES p + 1) % 65536 ∧
      t.get R.ETH_FLT_HIT_HITS (p * 32 + n) = (s.get R.ETH_FLT_HIT_HITS (p * 32 + n) + 1) % 2 ^ 32 ∧
      Framed [loc R.ETH_RX_CNT_FRAMES p, loc R.ETH_FLT_HIT_HITS (p * 32 + n)] (s.advance dt) t := by
  have hexec := exec_ethFrameReceive_matched dt g h3
  have hkept : ((s.advance dt).ethCounted p n).ethDest p p c n x f = (s.advance dt).ethCounted p n := by
    unfold State.ethDest
    rewrite [State.ethCounted_follows, hfol]
    split
    next h => exact absurd h hdest
    all_goals rfl
  rewrite [hkept] at hexec
  exact ⟨_, hexec, State.ethCounted_shows dt p n s⟩

theorem ethFrameReceive_short (hdest : x.dest = 1)
    (hshort : f.body.length < layoutLen (tget c.layouts (if f.kind = 1 then f.body.getD 0 0 else x.layout) [])) :
    ∃ t, exec (.ethFrameReceive dt p f) s = .next t ∧ t.get R.ETH_RX_CNT_FRAMES p = (s.get R.ETH_RX_CNT_FRAMES p + 1) % 65536 ∧
      t.get R.ETH_FLT_HIT_HITS (p * 32 + n) = (s.get R.ETH_FLT_HIT_HITS (p * 32 + n) + 1) % 2 ^ 32 ∧
      t.get R.ETH_ERR_CNT_SHORT p = min 255 (s.get R.ETH_ERR_CNT_SHORT p + 1) ∧
      Framed [loc R.ETH_RX_CNT_FRAMES p, loc R.ETH_FLT_HIT_HITS (p * 32 + n), loc R.ETH_ERR_CNT_SHORT p] (s.advance dt) t := by
  have hexec := exec_ethFrameReceive_matched dt g h3
  have hkept : ((s.advance dt).ethCounted p n).ethDest p p c n x f = ((s.advance dt).ethCounted p n).incSat R.ETH_ERR_CNT_SHORT p := by
    unfold State.ethDest
    rewrite [hdest]
    exact if_pos hshort
  obtain ⟨hframes, hhits, hframed⟩ := State.ethCounted_shows dt p n s
  rewrite [hkept] at hexec
  refine ⟨_, hexec, ?_, ?_, ?_, set_framed _ _ _ _ (.inl (by simp)) (hframed.mono (by simp))⟩
  · rw [State.incSat_eq, State.get_set_ne _ _ _ _ (by decide), hframes]
  · rw [State.incSat_eq, State.get_set_ne _ _ _ _ (by decide), hhits]
  · rewrite [State.incSat_get_same, State.ethCounted_eq, State.get_set_ne _ _ _ _ (by decide), State.get_set_ne _ _ _ _ (by decide)]
    rfl

theorem exec_ethFrameReceive_points (hdest : x.dest = 1) (hfol : s.follows = false)
    (hlong : layoutLen (tget c.layouts (if f.kind = 1 then f.body.getD 0 0 else x.layout) []) ≤ f.body.length) :
    exec (.ethFrameReceive dt p f) s = .next ((((s.advance dt).set R.ETH_RX_CNT_FRAMES (s.get R.ETH_RX_CNT_FRAMES p + 1) p).set R.ETH_FLT_HIT_HITS
      (s.get R.ETH_FLT_HIT_HITS (p * 32 + n) + 1) (p * 32 + n)).layoutIn (tget c.layouts (if f.kind = 1 then f.body.getD 0 0 else x.layout) [])
        f.body f.pm) := by
  rewrite [exec_ethFrameReceive_matched dt g h3]
  unfold State.ethDest
  rewrite [hdest, State.ethCounted_follows, hfol, ← State.ethCounted_eq]
  exact congrArg Host.Outcome.next ((if_neg (Nat.not_lt.2 hlong)).trans (if_neg (by decide)))

theorem ethFrameReceive_pigeonhole (hdest : x.dest = 2) (hfol : s.follows = false) :
    ∃ t, exec (.ethFrameReceive dt p f) s = .next t ∧
      t.get R.ETH_FLT_HIT_HITS (p * 32 + n) = (s.get R.ETH_FLT_HIT_HITS (p * 32 + n) + 1) % 2 ^ 32 ∧
      t.inbox = s.inbox ++ [.env x.pigeonhole 2 ((p + 1) * 2 ^ 28 + n) (beBytes 6 f.src ++ leBytes 2 f.body.length ++ f.body) f.pm] ∧
      Framed [loc R.ETH_RX_CNT_FRAMES p, loc R.ETH_FLT_HIT_HITS (p * 32 + n)] { s.advance dt with inbox := t.inbox } t := by
  have hexec := exec_ethFrameReceive_matched dt g h3
  have hkept : ((s.advance dt).ethCounted p n).ethDest p p c n x f = ((s.advance dt).ethCounted p n).frameEnv x.pigeonhole
      ((p + 1) * 2 ^ 28 + n) (beBytes 6 f.src ++ leBytes 2 f.body.length ++ f.body) f.pm := by
    unfold State.ethDest
    rewrite [hdest, State.ethCounted_follows, hfol]
    rfl
  obtain ⟨-, hhits, hframed⟩ := State.ethCounted_shows dt p n s
  rewrite [hkept] at hexec
  exact ⟨_, hexec, hhits, rfl, hframed.withInbox _⟩

section
variable (hdest : x.dest = 3) (hkind : f.kind = 3)
include hdest hkind

theorem exec_ethFrameReceive_reply (i : Nat) (hfol : s.follows = false) (hbody : f.body.length = 12)
    (hnode : firstBad (fun (d : NodeCfg) => !(d.addr = ofLe ((f.body.drop 10).take 2) && d.addr / 4096 = p + 1 && d.mac = f.src)) s.man.nodes 0 = some i) :
    exec (.ethFrameReceive dt p f) s = .next ((((s.advance dt).set R.ETH_RX_CNT_FRAMES (s.get R.ETH_RX_CNT_FRAMES p + 1) p).set R.ETH_FLT_HIT_HITS
      (s.get R.ETH_FLT_HIT_HITS (p * 32 + n) + 1) (p * 32 + n)).rollReply i (ofBe ((f.body.drop 2).take 8)) (ofLe (f.body.take 2))) := by
  rewrite [exec_ethFrameReceive_matched dt g h3]
  unfold State.ethDest
  rewrite [hdest, State.ethCounted_follows, hfol, ← State.ethCounted_eq]
  refine congrArg Host.Outcome.next ((if_neg (by decide)).trans ?_)
  unfold State.ethReply
  rewrite [if_neg (by simp [hkind, hbody])]
  dsimp only
  rw [show ((s.advance dt).ethCounted p n).man.nodes = s.man.nodes from rfl, hnode]

omit hkind in
theorem ethFrameReceive_unbound (hmac : ∀ d ∈ s.man.nodes, d.mac ≠ f.src) :
    ∃ t, exec (.ethFrameReceive dt p f) s = .next t ∧ t.mnf = s.mnf ∧ t.inbox = s.inbox ∧
      Framed [loc R.ETH_RX_CNT_FRAMES p, loc R.ETH_FLT_HIT_HITS (p * 32 + n)] (s.advance dt) t := by
  have hexec := exec_ethFrameReceive_matched dt g h3
  obtain ⟨-, -, hframed⟩ := State.ethCounted_shows dt p n s
  have hfinal : Framed [loc R.ETH_RX_CNT_FRAMES p, loc R.ETH_FLT_HIT_HITS (p * 32 + n)] (s.advance dt)
      (((s.advance dt).ethCounted p n).ethDest p p c n x f) := by
    unfold State.ethDest
    rewrite [hdest]
    refine ite_framed hframed ?_
    unfold State.ethReply
    refine ite_framed hframed ?_
    dsimp only
    rewrite [firstBad_all _ _ _ fun d hd => by simp [hmac d hd]]
    exact State.record_framed _ _ hframed
  exact ⟨_, hexec, (State.of_plain_mnf hfinal.plain :), (State.of_plain_inbox hfinal.plain :), hfinal⟩

end

end

/-- Settles O54: each stage by its lemma above. The limit of broadcasts in the second of the up-time (log 229), the filters' match (log 228), the
order of the stages (logs 230, 231) and the trunk of a pair (log 235) are the model's choice. -/
theorem ethernetReception : Obligations.EthernetReception := by
  unfold Obligations.EthernetReception
  refine ⟨exec_ethFrameReceive_down, ethFrameReceive_bad, ?_, ?_, ?_, ?_, ?_, ?_, ?_, ?_, ?_, ?_, ?_, ?_, ?_, ?_⟩
  · exact fun dt _ _ _ _ hc hup hlink hfcs hmin hmax => ethFrameReceive_dropped dt ⟨hc, hup, hlink, hfcs, hmin, hmax⟩
  · exact fun dt _ _ _ _ hc hup hlink hfcs hmin hmax => ethFrameReceive_foreign dt ⟨hc, hup, hlink, hfcs, hmin, hmax⟩
  · intro dt p n q at_ a b f s hc hb hpair hup hlink hfcs hmin hmax hdst hprp hn hseen hat
    subst hn
    exact ethFrameReceive_duplicate dt ⟨hc, hup, hlink, hfcs, hmin, hmax⟩ hb hdst hpair hprp at_ hseen hat
  · intro dt p n q a b f s hc hb hpair hup hlink hfcs hmin hmax hdst hdev hprp hn hnew hlen
    subst hn
    exact ethFrameReceive_copy dt ⟨hc, hup, hlink, hfcs, hmin, hmax⟩ hb hdst hdev hpair hprp hnew hlen
  · exact fun dt p c f s hc hlead hup hlink hfcs hmin hmax hdst hoff =>
      ethFrameReceive_otherType dt ⟨⟨hc, hup, hlink, hfcs, hmin, hmax⟩, hlead, hdst, hoff⟩
  · exact fun dt p c f s hc hlead hup hlink hfcs hmin hmax hdst hoff =>
      ethFrameReceive_badPayload dt ⟨⟨hc, hup, hlink, hfcs, hmin, hmax⟩, hlead, hdst, hoff⟩
  · exact fun dt p c f s hc hlead hup hlink hfcs hmin hmax hdst hoff =>
      ethFrameReceive_unmatched dt ⟨⟨hc, hup, hlink, hfcs, hmin, hmax⟩, hlead, hdst, hoff⟩
  · exact fun dt p n c x f s hc hlead hup hlink hfcs hmin hmax hdst hoff hdev hver hlen hcheck hfind =>
      exec_ethFrameReceive_asleep dt ⟨⟨⟨hc, hup, hlink, hfcs, hmin, hmax⟩, hlead, hdst, hoff⟩, hdev, hver, hlen, hcheck, hfind⟩
  · exact fun dt p n c x f s hc hlead hup hlink hfcs hmin hmax hdst hoff hdev hver hlen hcheck hfind =>
      ethFrameReceive_standby dt ⟨⟨⟨hc, hup, hlink, hfcs, hmin, hmax⟩, hlead, hdst, hoff⟩, hdev, hver, hlen, hcheck, hfind⟩
  · exact fun dt p n c x f s hc hlead hup hlink hfcs hmin hmax hdst hoff hdev hver hlen hcheck hfind =>
      ethFrameReceive_short dt ⟨⟨⟨hc, hup, hlink, hfcs, hmin, hmax⟩, hlead, hdst, hoff⟩, hdev, hver, hlen, hcheck, hfind⟩
  · exact fun dt p n c x f s hc hlead hup hlink hfcs hmin hmax hdst hoff hdev hver hlen hcheck hfind =>
      exec_ethFrameReceive_points dt ⟨⟨⟨hc, hup, hlink, hfcs, hmin, hmax⟩, hlead, hdst, hoff⟩, hdev, hver, hlen, hcheck, hfind⟩
  · exact fun dt p n c x f s hc hlead hup hlink hfcs hmin hmax hdst hoff hdev hver hlen hcheck hfind =>
      ethFrameReceive_pigeonhole dt ⟨⟨⟨hc, hup, hlink, hfcs, hmin, hmax⟩, hlead, hdst, hoff⟩, hdev, hver, hlen, hcheck, hfind⟩
  · exact fun dt p n i c x f s hc hlead hup hlink hfcs hmin hmax hdst hoff hdev hver hlen hcheck hfind h3 hdest hfol hkind =>
      exec_ethFrameReceive_reply dt ⟨⟨⟨hc, hup, hlink, hfcs, hmin, hmax⟩, hlead, hdst, hoff⟩, hdev, hver, hlen, hcheck, hfind⟩ h3 hdest hkind i hfol
  · exact fun dt p n c x f s hc hlead hup hlink hfcs hmin hmax hdst hoff hdev hver hlen hcheck hfind h3 hdest _ =>
      ethFrameReceive_unbound dt ⟨⟨⟨hc, hup, hlink, hfcs, hmin, hmax⟩, hlead, hdst, hoff⟩, hdev, hver, hlen, hcheck, hfind⟩ h3 hdest

end Sys2Proof.Machine
end

section
set_option Elab.async false
/-!
PROOF of the statements of 18_ethernet_and_host.md about frames that the device sends, the part they share: how a device frame is queued.
-/

namespace Sys2Proof.Machine

open Sys2Proof

/-! ### A device frame is queued (R427, R429) -/

section
variable (s : State) (p kind queue : Nat) (body : List Nat) (c : EthCfg)

theorem State.ethNext_down (h : s.get R.ETH_STAT_LINK p ≠ 1) : s.ethNext p = s := by
  unfold State.ethNext
  exact if_pos (by simp [State.flag, h])

/-- A device frame as it enters a queue of a port without a partner. -/
def ethOutFrame (c : EthCfg) (kind queue seq : Nat) (body : List Nat) : EthOut :=
  { queue := queue, kind := kind, seq := seq, len := max 64 (30 + (if c.vlan = 0 then 0 else 4) + body.length), body := body }

/-- The number of the next frame of a KIND. -/
def State.ethNumber (s : State) (kind : Nat) : Nat := (tget s.ethSeq kind 0 + 1) % 65536

/-- The KIND has numbered its frame. -/
def State.ethNumbered (s : State) (kind : Nat) : State := { s with ethSeq := tput s.ethSeq kind (s.ethNumber kind) }

theorem State.ethNumbered_seq : tget (s.ethNumbered kind).ethSeq kind 0 = s.ethNumber kind := by
  unfold State.ethNumbered tget
  simp

theorem State.ethSend_single (hc : s.ethCfg p = some c) (hoff : c.prp = false) :
    s.ethSend [p] kind queue body = (s.ethNumbered kind).ethPut p (ethOutFrame c kind queue (s.ethNumber kind) body) := by
  have hlen : max 64 (14 + (if c.vlan = 0 then 0 else 4) + 8 + body.length + 4 + 4 + (if false = true then 6 else 0)) =
      max 64 (30 + (if c.vlan = 0 then 0 else 4) + body.length) := by
    rewrite [if_neg Bool.false_ne_true]
    congr 1
    omega
  have hports (u : State) (hu : u.ethCfg p = some c) : u.ethPorts p = [p] := by
    unfold State.ethPorts
    rewrite [hu]
    exact if_neg (by simp [hoff])
  unfold State.ethSend
  change [p].foldl _ (s.ethNumbered kind) = _
  rewrite [List.foldl_cons, List.foldl_nil, show (s.ethNumbered kind).ethCfg p = some c from hc]
  dsimp only
  rewrite [hoff, hlen, if_neg Bool.false_ne_true, if_neg Bool.false_ne_true, hports (s.ethNumbered kind) hc, List.foldl_cons, List.foldl_nil]
  rfl

/-- On a port that transmits and has no link the frame waits. -/
theorem State.ethPut_waits (f : EthOut) (htx : s.get R.ETH_STAT_TX_ON p = 1) (hlink : s.get R.ETH_STAT_LINK p ≠ 1) :
    s.ethPut p f = s.putEth p { s.ethSt p with queues := (s.ethSt p).queues ++ [f] } := by
  unfold State.ethPut
  rewrite [if_pos (by simp [State.flag, htx])]
  exact State.ethNext_down _ _ hlink

/-- A port that does not transmit sends nothing of the device's. -/
theorem State.ethPut_off (f : EthOut) (htx : s.get R.ETH_STAT_TX_ON p ≠ 1) (hkind : f.kind ≠ 0) : s.ethPut p f = s := by
  unfold State.ethPut
  exact if_neg (by simp [State.flag, htx, hkind])

end

/-! ### The alarm list is left alone by a record's own traffic (R445, R471) -/

section
variable (s : State)
@[simp] theorem State.vecFire_alarms (v : Nat) : (s.vecFire v).alarms = s.alarms := by
  unfold State.vecFire State.vecSend
  split
  · split <;> rfl
  · rfl

@[simp] theorem State.raise_alarms (v : Nat) : (s.raise v).alarms = s.alarms := by
  unfold State.raise
  split
  · exact s.vecFire_alarms _
  · rfl

@[simp] theorem State.evt_alarms (f : Fld) (b : Nat) : (s.evt f b).alarms = s.alarms := State.raise_alarms _ _

@[simp] theorem State.inc_alarms (f : Fld) (b n : Nat) : (s.inc f b n).alarms = s.alarms := rfl

theorem State.ite_alarms {c : Prop} [Decidable c] {t u : State} (ht : t.alarms = s.alarms) (hu : u.alarms = s.alarms) :
    (if c then t else u).alarms = s.alarms := by
  split
  · exact ht
  · exact hu

@[simp] theorem State.ramPush_alarms (r : Rec) : (s.ramPush r).alarms = s.alarms := by
  unfold State.ramPush
  dsimp only
  exact State.ite_alarms s ((State.evt_alarms _ _ _).trans (State.ite_alarms s rfl (State.evt_alarms _ _ _)))
    (State.ite_alarms s rfl (State.evt_alarms _ _ _))

@[simp] theorem State.holdPush_alarms (r : Rec) : (s.holdPush r).alarms = s.alarms := by
  unfold State.holdPush
  split <;> simp

@[simp] theorem State.logEvent_alarms (e : Ev) : (s.logEvent e).alarms = s.alarms := by
  unfold State.logEvent
  dsimp only
  split
  · split <;> rfl
  · split <;> simp

@[simp] theorem State.ringAdd_alarms (n : Nat) (msg : List Env) : (s.ringAdd n msg).alarms = s.alarms := by
  unfold State.ringAdd
  dsimp only
  split
  · exact State.raise_alarms _ _
  · rfl

@[simp] theorem State.dropped_alarms (n : Nat) : (s.dropped n).alarms = s.alarms := State.evt_alarms _ _ _

@[simp] theorem State.makeRoom_alarms (n need : Nat) : (s.makeRoom n need).2.alarms = s.alarms := by
  unfold State.makeRoom
  dsimp only
  split <;> rfl

@[simp] theorem State.discardAll_alarms (n : Nat) (l : List (List Env)) : (s.discardAll n l).alarms = s.alarms := by
  induction l generalizing s with
  | nil => rfl
  | cons m l ih => exact (ih _).trans (by simp)

@[simp] theorem State.deadLetter_alarms (n : Nat) (msg : List Env) (reason : Nat) : (s.deadLetter n msg reason).alarms = s.alarms := by
  unfold State.deadLetter
  dsimp only
  split <;> simp

@[simp] theorem State.evictAll_alarms (n : Nat) (l : List (List Env)) : (s.evictAll n l).alarms = s.alarms := by
  induction l generalizing s with
  | nil => rfl
  | cons m l ih =>
    unfold State.evictAll
    rw [ih, State.deadLetter_alarms, State.dropped_alarms]

@[simp] theorem State.deliver_alarms (n : Nat) (msg : List Env) : (s.deliver n msg).alarms = s.alarms := by
  unfold State.deliver
  split
  · simp
  · split
    · split <;> simp
    · split
      · simp
      · split
        · simp
        · split <;> simp

@[simp] theorem State.send_alarms (n kind origin : Nat) (payload : List Nat) (pm : Pm) : (s.send n kind origin payload pm).alarms = s.alarms :=
  State.deliver_alarms _ _ _

@[simp] theorem State.alarmEnv_alarms (entry st change : Nat) (a : AlarmEnt) (role : Role) (keyId : Nat) :
    (s.alarmEnv entry st change a role keyId).alarms = s.alarms := State.send_alarms _ _ _ _ _ _

end

end Sys2Proof.Machine
end

section
set_option Elab.async false
/-!
PROOF of the statement of 18_ethernet_and_host.md about transmission (EthernetTransmission): what a port's next frame is, how a device frame
is queued, and then each command.
-/

namespace Sys2Proof.Machine

open Sys2Proof

/-! ### The next frame of a port (R430) -/

section
variable {ks : List Nat} {s t : State}

theorem Framed.withEth (x : Tab EthSt) (h : Framed ks s t) : Framed ks { s with eth := x } { t with eth := x } :=
  ⟨congrArg (fun u : State => { u with eth := x }) h.plain, h.2⟩

/-- What changes only certain keys after the ports' table was replaced changes only them and that table. -/
theorem Framed.ownEth {x : Tab EthSt} (h : Framed ks { s with eth := x } t) : Framed ks { s with eth := t.eth } t := by
  have hx : t.eth = x := (State.of_plain_eth h.plain :)
  rewrite [hx]
  exact h

/-- A port's data is read in the ports' table and nowhere else. -/
theorem State.ethSt_of_eth (h : t.eth = s.eth) (p : Nat) : t.ethSt p = s.ethSt p := by
  unfold State.ethSt
  rw [h]

end

section
variable (s : State) (p q : Nat)

theorem State.ethTry_busy (h : (s.ethSt p).cur ≠ none) : s.ethTry p q = s := by
  unfold State.ethTry
  dsimp only
  split
  next hcur _ _ => exact absurd hcur h
  next => rfl

theorem State.ethTry_noFrame (h : (s.ethSt p).queues.find? (fun f => f.queue = q) = none) : s.ethTry p q = s := by
  unfold State.ethTry
  dsimp only
  split
  next hfind _ => cases h.symm.trans hfind
  next => rfl

theorem State.ethTry_closed (h : s.gateOf p q = none) : s.ethTry p q = s := by
  unfold State.ethTry
  dsimp only
  split
  next hgate => cases h.symm.trans hgate
  next => rfl

section
variable {f : EthOut} {left : Option Nat} (hcur : (s.ethSt p).cur = none) (hfind : (s.ethSt p).queues.find? (fun f => f.queue = q) = some f)
  (hgate : s.gateOf p q = some left)
include hcur hfind hgate

/-- The head of an open queue starts where it ends before the gate closes. -/
theorem State.ethTry_starts (hfit : ∀ l, left = some l → ethTime f.len (s.get R.ETH_STAT_SPEED p) ≤ l) :
    s.ethTry p q = s.putEth p { s.ethSt p with cur := some f, queues := (s.ethSt p).queues.erase f } := by
  unfold State.ethTry
  dsimp only
  rewrite [hcur, hfind, hgate]
  dsimp only
  refine if_pos ?_
  cases left with
  | none => rfl
  | some l => exact decide_eq_true (hfit l rfl)

/-- The head of an open queue that would not end before the gate closes is held, and the hold is counted once. -/
theorem State.ethTry_holds {l : Nat} (hl : left = some l) (hlong : l < ethTime f.len (s.get R.ETH_STAT_SPEED p)) :
    s.ethTry p q = if f.held then s
      else (s.putEth p { s.ethSt p with queues := (s.ethSt p).queues.map fun x => if x = f then { x with held := true } else x }).inc
        R.ETH_TX_CNT_GUARD_HOLDS p := by
  subst hl
  unfold State.ethTry
  dsimp only
  rewrite [hcur, hfind, hgate]
  dsimp only
  rw [if_neg (by simpa using hlong)]

end

/-- The queues that a port considers, highest first. -/
def State.ethOrder (s : State) (p : Nat) : List Nat := if s.flag R.ETH_STAT_TX_ON p then [7, 6, 5, 4, 3, 2, 1, 0] else [7]

theorem State.ethNext_on (hlink : s.get R.ETH_STAT_LINK p = 1) (htx : s.get R.ETH_STAT_TX_ON p = 1) (hfault : s.get R.ETH_STAT_FAULT p ≠ 1) :
    s.ethNext p = [7, 6, 5, 4, 3, 2, 1, 0].foldl (fun (s : State) q => s.ethTry p q) s := by
  unfold State.ethNext
  rw [if_neg (by simp [State.flag, hlink, hfault]), show s.flag R.ETH_STAT_TX_ON p = true from decide_eq_true htx, if_pos rfl]

/-- Where no queue can start or be held, nothing changes. -/
theorem State.ethNext_idle (h : ∀ q, s.ethTry p q = s) : s.ethNext p = s := by
  unfold State.ethNext
  split
  · rfl
  · exact List.foldl_fixed' (fun q => h q) _

theorem State.ethNext_empty (h : (s.ethSt p).queues = []) : s.ethNext p = s :=
  s.ethNext_idle p fun q => s.ethTry_noFrame p q (by rewrite [h]; rfl)

/-- Of queues considered in order, the one before which nothing moves and after which nothing moves decides. -/
theorem State.ethTries_one (l : List Nat) (hl : l.Pairwise (· > ·)) (hq : q ∈ l) (habove : ∀ x, q < x → s.ethTry p x = s)
    (hbelow : ∀ x, x < q → (s.ethTry p q).ethTry p x = s.ethTry p q) : l.foldl (fun (s : State) q => s.ethTry p q) s = s.ethTry p q := by
  induction l with
  | nil => exact absurd hq List.not_mem_nil
  | cons a l ih =>
    obtain ⟨hgt, hl'⟩ := List.pairwise_cons.1 hl
    by_cases ha : a = q
    · subst ha
      show l.foldl (fun (s : State) q => s.ethTry p q) (s.ethTry p a) = s.ethTry p a
      have hrest : ∀ x ∈ l, (s.ethTry p a).ethTry p x = s.ethTry p a := fun x hx => hbelow x (hgt x hx)
      clear ih hq hl hgt hl'
      induction l with
      | nil => rfl
      | cons b l ih =>
        rewrite [List.foldl_cons, hrest b List.mem_cons_self]
        exact ih fun x hx => hrest x (List.mem_cons_of_mem _ hx)
    · have hq' : q ∈ l := (List.mem_cons.1 hq).resolve_left fun e => ha e.symm
      rewrite [List.foldl_cons, habove a (hgt q hq')]
      exact ih hl' hq'

theorem State.ethNext_one (hlink : s.get R.ETH_STAT_LINK p = 1) (htx : s.get R.ETH_STAT_TX_ON p = 1) (hfault : s.get R.ETH_STAT_FAULT p ≠ 1)
    (hq : q < 8) (habove : ∀ x, q < x → s.ethTry p x = s) (hbelow : ∀ x, x < q → (s.ethTry p q).ethTry p x = s.ethTry p q) :
    s.ethNext p = s.ethTry p q := by
  rewrite [State.ethNext_on s p hlink htx hfault]
  refine State.ethTries_one s p q _ (by decide) ?_ habove hbelow
  simp only [List.mem_cons, List.not_mem_nil, or_false]
  omega

end

/-! ### ETH_PERIODIC_TRANSMIT (R428, R429) -/

section
variable (dt p n : Nat) (c : EthCfg) (x : EthTx) (s : State) (hc : s.ethCfg p = some c) (hx : tfind c.txs n = some x)
include hc hx

/-- The body of a cyclic frame with the points as they stand. -/
def State.cyclicBody (s : State) (x : EthTx) : List Nat := [x.layout, 0, 0, 0] ++ (s.layoutOut x.fields x.len).drop 4

omit hc hx in
theorem State.cyclicFrame (u : State) (queue seq : Nat) : ethOutFrame c 1 queue seq (u.cyclicBody x) =
    { queue := queue, kind := 1, seq := seq, len := max 64 (30 + (if c.vlan = 0 then 0 else 4) + (4 + ((u.layoutOut x.fields x.len).drop 4).length)),
      body := [x.layout, 0, 0, 0] ++ (u.layoutOut x.fields x.len).drop 4 } := by
  unfold ethOutFrame
  rewrite [show (u.cyclicBody x).length = 4 + ((u.layoutOut x.fields x.len).drop 4).length from List.length_append]
  rfl

theorem exec_ethPeriodicTransmit_idle (h : x.periodUs = none ∨ (s.advance dt).cyclicRuns x.drive x.node = false ∨ s.ethLead p ≠ p) :
    exec (.ethPeriodicTransmit dt p n) s = .next (s.advance dt) := by
  show execEthPeriodicTransmit dt p n s = _
  unfold execEthPeriodicTransmit
  dsimp only
  rewrite [show (s.advance dt).ethCfg p = some c from hc]
  dsimp only
  rewrite [hx]
  refine if_neg ?_
  rcases h with h | h | h
  · simp [h]
  · simp [h]
  · simp [show (s.advance dt).ethSecond p = true from decide_eq_true h]

variable (hp : x.periodUs ≠ none) (hr : (s.advance dt).cyclicRuns x.drive x.node = true) (hlead : s.ethLead p = p) (hoff : c.prp = false)
include hp hr hlead hoff

theorem exec_ethPeriodicTransmit_due : exec (.ethPeriodicTransmit dt p n) s = .next (((s.advance dt).ethNumbered 1).ethPut p
    (ethOutFrame c 1 (if x.urgent || x.drive then 6 else 5) (s.ethNumber 1) ((s.advance dt).cyclicBody x))) := by
  have hsecond : (s.advance dt).ethSecond p = false := decide_eq_false (not_not_intro hlead)
  show execEthPeriodicTransmit dt p n s = _
  unfold execEthPeriodicTransmit
  dsimp only
  rewrite [show (s.advance dt).ethCfg p = some c from hc]
  dsimp only
  rewrite [hx]
  dsimp only
  rewrite [if_pos (by simp [hr, hsecond, Option.isSome_iff_ne_none.2 hp])]
  exact congrArg Host.Outcome.next (State.ethSend_single _ _ _ _ _ c hc hoff)

theorem ethPeriodicTransmit_waits (htx : s.get R.ETH_STAT_TX_ON p = 1) (hlink : s.get R.ETH_STAT_LINK p ≠ 1) :
    ∃ t, exec (.ethPeriodicTransmit dt p n) s = .next t ∧ tget t.ethSeq 1 0 = (tget s.ethSeq 1 0 + 1) % 65536 ∧
      (t.ethSt p).queues = (s.ethSt p).queues ++ [
        { queue := if x.urgent || x.drive then 6 else 5, kind := 1, seq := (tget s.ethSeq 1 0 + 1) % 65536,
          len := max 64 (30 + (if c.vlan = 0 then 0 else 4) + (4 + (((s.advance dt).layoutOut x.fields x.len).drop 4).length)),
          body := [x.layout, 0, 0, 0] ++ ((s.advance dt).layoutOut x.fields x.len).drop 4 }] ∧
      Framed [] { s.advance dt with eth := t.eth, ethSeq := t.ethSeq } t := by
  have hexec := exec_ethPeriodicTransmit_due dt p n c x s hc hx hp hr hlead hoff
  rewrite [State.ethPut_waits ((s.advance dt).ethNumbered 1) _ _ htx hlink, State.cyclicFrame] at hexec
  exact ⟨_, hexec, State.ethNumbered_seq _ _, congrArg EthSt.queues (State.putEth_ethSt _ _ _), .refl _ _⟩

theorem ethPeriodicTransmit_off (htx : s.get R.ETH_STAT_TX_ON p ≠ 1) :
    ∃ t, exec (.ethPeriodicTransmit dt p n) s = .next t ∧ tget t.ethSeq 1 0 = (tget s.ethSeq 1 0 + 1) % 65536 ∧
      Framed [] { s.advance dt with ethSeq := t.ethSeq } t := by
  have hexec := exec_ethPeriodicTransmit_due dt p n c x s hc hx hp hr hlead hoff
  rewrite [State.ethPut_off ((s.advance dt).ethNumbered 1) _ _ htx Nat.one_ne_zero] at hexec
  exact ⟨_, hexec, State.ethNumbered_seq _ _, .refl _ _⟩

end

/-! ### ETH_FRAME_TRANSMIT_DONE (R430) -/

section
variable (dt p : Nat) (f : EthOut) (s : State)

theorem exec_ethFrameTransmitDone_none (h : (s.ethSt p).cur = none) : exec (.ethFrameTransmitDone dt p) s = .next (s.advance dt) := by
  show execEthFrameTransmitDone dt p s = _
  unfold execEthFrameTransmitDone
  dsimp only
  rw [show ((s.advance dt).ethSt p).cur = none from h]

/-- A frame has left the port and is counted; the next one is still to start. -/
def State.ethGone (s : State) (p : Nat) (f : EthOut) : State :=
  ((s.putEth p { s.ethSt p with cur := none }).inc R.ETH_TX_CNT_FRAMES p).inc R.ETH_Q_STAT_SENT (p * 8 + f.queue)

theorem State.ethGone_ethSt : (s.ethGone p f).ethSt p = { s.ethSt p with cur := none } :=
  (State.ethSt_of_eth (t := s.ethGone p f) (s := s.putEth p { s.ethSt p with cur := none }) rfl p).trans (State.putEth_ethSt _ _ _)

theorem State.ethGone_get {g : Fld} (b : Nat) (h : fkey g ≠ fkey R.ETH_TX_CNT_FRAMES ∧ fkey g ≠ fkey R.ETH_Q_STAT_SENT) :
    (s.ethGone p f).get g b = s.get g b := by
  unfold State.ethGone
  rw [State.inc_get_ne _ _ h.2, State.inc_get_ne _ _ h.1, State.putEth_get]

theorem State.ethGone_shows : (s.ethGone p f).get R.ETH_TX_CNT_FRAMES p = (s.get R.ETH_TX_CNT_FRAMES p + 1) % 65536 ∧
    (s.ethGone p f).get R.ETH_Q_STAT_SENT (p * 8 + f.queue) = (s.get R.ETH_Q_STAT_SENT (p * 8 + f.queue) + 1) % 2 ^ 23 ∧
    Framed [loc R.ETH_TX_CNT_FRAMES p, loc R.ETH_Q_STAT_SENT (p * 8 + f.queue)] { s with eth := (s.ethGone p f).eth } (s.ethGone p f) := by
  refine ⟨?_, ?_, set_framed _ _ _ _ (.inl (by simp)) (set_framed _ _ _ _ (.inl (by simp)) (.refl _ _))⟩
  · unfold State.ethGone
    rewrite [State.inc_get_ne _ _ (by decide), State.inc_eq, State.get_set_same, State.putEth_get]
    rfl
  · unfold State.ethGone
    rewrite [State.inc_eq _ R.ETH_Q_STAT_SENT, State.get_set_same, State.inc_get_ne _ _ (by decide), State.putEth_get]
    rfl

section
variable (hcur : (s.ethSt p).cur = some f)
include hcur

theorem exec_ethFrameTransmitDone_some : exec (.ethFrameTransmitDone dt p) s = .next (((s.advance dt).ethGone p f).ethNext p) := by
  show execEthFrameTransmitDone dt p s = _
  unfold execEthFrameTransmitDone
  dsimp only
  rewrite [show ((s.advance dt).ethSt p).cur = some f from hcur]
  rfl

theorem ethFrameTransmitDone_last (hq : (s.ethSt p).queues = []) :
    ∃ t, exec (.ethFrameTransmitDone dt p) s = .next t ∧ t.ethSt p = { s.ethSt p with cur := none } ∧
      t.get R.ETH_TX_CNT_FRAMES p = (s.get R.ETH_TX_CNT_FRAMES p + 1) % 65536 ∧
      t.get R.ETH_Q_STAT_SENT (p * 8 + f.queue) = (s.get R.ETH_Q_STAT_SENT (p * 8 + f.queue) + 1) % 2 ^ 23 ∧
      Framed [loc R.ETH_TX_CNT_FRAMES p, loc R.ETH_Q_STAT_SENT (p * 8 + f.queue)] { s.advance dt with eth := t.eth } t := by
  have hexec := exec_ethFrameTransmitDone_some dt p f s hcur
  have hst : ((s.advance dt).ethGone p f).ethSt p = { s.ethSt p with cur := none } := State.ethGone_ethSt _ _ _
  rewrite [State.ethNext_empty _ _ (by rewrite [hst]; exact hq)] at hexec
  obtain ⟨hsent, hqueue, hframed⟩ := (s.advance dt).ethGone_shows p f
  exact ⟨_, hexec, hst, hsent, hqueue, hframed⟩

theorem ethFrameTransmitDone_next (c : EthCfg) (g h : EthOut) (hc : s.ethCfg p = some c) (hqs : (s.ethSt p).queues = [g, h])
    (hlt : g.queue < h.queue) (h8 : h.queue < 8) (hlink : s.get R.ETH_STAT_LINK p = 1) (htx : s.get R.ETH_STAT_TX_ON p = 1)
    (hfault : s.get R.ETH_STAT_FAULT p ≠ 1) (hsq : s.get R.ETH_STAT_SQUALL p ≠ 1) (hgates : c.gates = []) :
    ∃ t, exec (.ethFrameTransmitDone dt p) s = .next t ∧ t.ethSt p = { s.ethSt p with cur := some h, queues := [g] } ∧
      t.get R.ETH_Q_STAT_SENT (p * 8 + f.queue) = (s.get R.ETH_Q_STAT_SENT (p * 8 + f.queue) + 1) % 2 ^ 23 := by
  have hexec := exec_ethFrameTransmitDone_some dt p f s hcur
  have hst : ((s.advance dt).ethGone p f).ethSt p = { s.ethSt p with cur := none } := State.ethGone_ethSt _ _ _
  obtain ⟨-, hqueue, -⟩ := (s.advance dt).ethGone_shows p f
  have hget {k : Fld} (hk : fkey k ≠ fkey R.ETH_TX_CNT_FRAMES ∧ fkey k ≠ fkey R.ETH_Q_STAT_SENT) :
      ((s.advance dt).ethGone p f).get k p = s.get k p := State.ethGone_get _ _ _ _ hk
  have hcfg : ((s.advance dt).ethGone p f).ethCfg p = some c := hc
  generalize (s.advance dt).ethGone p f = u at hexec hst hqueue hget hcfg
  have hgate : u.gateOf p h.queue = some none := by
    unfold State.gateOf
    rewrite [hcfg]
    dsimp only
    rw [if_neg (by simp [State.flag, hget (k := R.ETH_STAT_SQUALL) (by decide), hsq]), if_pos (by simp [hgates])]
  have hne : ¬ g.queue = h.queue := Nat.ne_of_lt hlt
  have hstart : u.ethTry p h.queue = u.putEth p { s.ethSt p with cur := some h, queues := [g] } := by
    rewrite [State.ethTry_starts u p h.queue (f := h) (by rw [hst]) (by rewrite [hst]; simp [hqs, hne]) hgate (by simp), hst]
    have herase : ([g, h] : List EthOut).erase h = [g] := by
      rewrite [List.erase_cons_tail (by simpa using fun e : g = h => hne (congrArg EthOut.queue e))]
      simp
    dsimp only
    rw [hqs, herase]
  have hnext : u.ethNext p = u.putEth p { s.ethSt p with cur := some h, queues := [g] } := by
    rewrite [← hstart]
    refine State.ethNext_one u p h.queue ((hget (by decide)).trans hlink) ((hget (by decide)).trans htx) (by rewrite [hget (by decide)]; exact hfault) h8
      (fun x hx => State.ethTry_noFrame u p x ?_) fun x hx => ?_
    · rewrite [hst]
      simp [hqs, Nat.ne_of_lt hx, Nat.ne_of_lt (Nat.lt_trans hlt hx)]
    · refine State.ethTry_busy _ _ _ ?_
      rewrite [hstart, State.putEth_ethSt]
      simp
  rewrite [hnext] at hexec
  exact ⟨_, hexec, State.putEth_ethSt _ _ _, hqueue⟩

end

end

/-! ### GATE_LIST_ENTRY (R430) -/

section
variable (dt p : Nat) (c : EthCfg) (f : EthOut) (s : State)

theorem exec_gateListEntry_none (h : ∀ c, s.ethCfg p = some c → c.gates = []) : exec (.gateListEntry dt p) s = .next (s.advance dt) := by
  show execGateListEntry dt p s = _
  unfold execGateListEntry
  dsimp only
  split
  · rfl
  next c hc => exact if_pos (h c hc)

/-- The entry in force is shown. -/
def State.gclShown (s : State) (p : Nat) (c : EthCfg) : State := s.set R.ETH_GCL_CURRENT (s.gateNow c).1 p

theorem State.gclShown_gateOf (q : Nat) : (s.gclShown p c).gateOf p q = s.gateOf p q := by
  unfold State.gateOf State.flag
  rewrite [show (s.gclShown p c).ethCfg p = s.ethCfg p from rfl, show (s.gclShown p c).get R.ETH_STAT_SQUALL p = s.get R.ETH_STAT_SQUALL p from
    State.get_set_ne _ _ _ _ (by decide)]
  rfl

theorem State.putEth_gateOf (e : EthSt) (q : Nat) : (s.putEth p e).gateOf p q = s.gateOf p q := rfl

/-- Frames held at a gate that has closed wait for its next opening. -/
def State.gateHeld (s : State) (p : Nat) (x : EthOut) : EthOut := if (s.gateOf p x.queue).isNone then { x with held := false } else x

variable (hc : s.ethCfg p = some c) (hg : c.gates ≠ [])
include hc hg

theorem exec_gateListEntry_some : exec (.gateListEntry dt p) s = .next ((((s.advance dt).gclShown p c).putEth p
    { s.ethSt p with queues := (s.ethSt p).queues.map (((s.advance dt).gclShown p c).gateHeld p) }).ethNext p) := by
  show execGateListEntry dt p s = _
  unfold execGateListEntry
  dsimp only
  rewrite [show (s.advance dt).ethCfg p = some c from hc]
  exact if_neg hg

theorem gateListEntry_closed (hqs : (s.ethSt p).queues = [f]) (hgate : (s.advance dt).gateOf p f.queue = none) :
    ∃ t, exec (.gateListEntry dt p) s = .next t ∧ t.ethSt p = { s.ethSt p with queues := [{ f with held := false }] } ∧
      Framed [loc R.ETH_GCL_CURRENT p] { s.advance dt with eth := t.eth } t := by
  have hexec := exec_gateListEntry_some dt p c s hc hg
  have hheld : ((s.advance dt).gclShown p c).gateHeld p f = { f with held := false } := by
    unfold State.gateHeld
    rewrite [State.gclShown_gateOf, hgate]
    rfl
  rewrite [hqs, List.map_cons, List.map_nil, hheld] at hexec
  have hnext (u : State) (hu : u.ethSt p = { s.ethSt p with queues := [{ f with held := false }] }) (hug : u.gateOf p f.queue = none) :
      u.ethNext p = u := by
    refine State.ethNext_idle u p fun q => ?_
    by_cases hq : f.queue = q
    · exact State.ethTry_closed u p q (by rewrite [← hq]; exact hug)
    · exact State.ethTry_noFrame u p q (by rewrite [hu]; simp [hq])
  rewrite [hnext _ (State.putEth_ethSt _ _ _) ((State.putEth_gateOf _ _ _ _).trans ((State.gclShown_gateOf p c (s.advance dt) f.queue).trans hgate))]
    at hexec
  exact ⟨_, hexec, State.putEth_ethSt _ _ _, set_framed _ _ _ _ (.inl (List.mem_singleton.2 rfl)) (.refl _ _)⟩

section
variable (l : Nat) (hcur : (s.ethSt p).cur = none) (hqs : (s.ethSt p).queues = [f]) (h8 : f.queue < 8) (hlink : s.get R.ETH_STAT_LINK p = 1)
  (htx : s.get R.ETH_STAT_TX_ON p = 1) (hfault : s.get R.ETH_STAT_FAULT p ≠ 1) (hgate : (s.advance dt).gateOf p f.queue = some (some l))

/-- The port with its single frame and the entry in force shown. -/
def State.gateReady (s : State) (p : Nat) (c : EthCfg) (f : EthOut) : State := (s.gclShown p c).putEth p { s.ethSt p with queues := [f] }

omit hc hg in
theorem State.gateReady_get {k : Fld} (b : Nat) (hk : fkey k ≠ fkey R.ETH_GCL_CURRENT) : (s.gateReady p c f).get k b = s.get k b :=
  State.get_set_ne _ _ _ _ hk

omit hc hg in
theorem State.gateReady_ethSt : (s.gateReady p c f).ethSt p = { s.ethSt p with queues := [f] } := State.putEth_ethSt _ _ _

omit hc hg in
theorem State.gateReady_noFrame {u : State} {g : EthOut} (hu : (u.ethSt p).queues = [g]) {x : Nat} (hx : g.queue ≠ x) : u.ethTry p x = u :=
  State.ethTry_noFrame u p x (by rewrite [hu]; simp [hx])

include hqs hgate in
theorem exec_gateListEntry_open : exec (.gateListEntry dt p) s = .next (((s.advance dt).gateReady p c f).ethNext p) := by
  have hheld : ((s.advance dt).gclShown p c).gateHeld p f = f := by
    unfold State.gateHeld
    rewrite [State.gclShown_gateOf, hgate]
    rfl
  have hexec := exec_gateListEntry_some dt p c s hc hg
  rewrite [hqs, List.map_cons, List.map_nil, hheld] at hexec
  exact hexec

include hcur hqs h8 hlink htx hfault hgate

theorem exec_gateListEntry_fits (hfit : ethTime f.len (s.get R.ETH_STAT_SPEED p) ≤ l) :
    exec (.gateListEntry dt p) s = .next (((s.advance dt).gateReady p c f).putEth p { s.ethSt p with cur := some f, queues := [] }) := by
  have hst : ((s.advance dt).gateReady p c f).ethSt p = { s.ethSt p with queues := [f] } := State.gateReady_ethSt _ _ _ _
  have hget {k : Fld} (hk : fkey k ≠ fkey R.ETH_GCL_CURRENT) : ((s.advance dt).gateReady p c f).get k p = s.get k p := State.gateReady_get _ _ _ _ _ hk
  have hopen : ((s.advance dt).gateReady p c f).gateOf p f.queue = some (some l) :=
    (State.putEth_gateOf _ _ _ _).trans ((State.gclShown_gateOf _ _ _ _).trans hgate)
  rewrite [exec_gateListEntry_open dt p c f s hc hg l hqs hgate]
  generalize (s.advance dt).gateReady p c f = u at hst hget hopen ⊢
  have hstart : u.ethTry p f.queue = u.putEth p { s.ethSt p with cur := some f, queues := [] } := by
    rewrite [State.ethTry_starts u p f.queue (f := f) (by rewrite [hst]; exact hcur) (by rewrite [hst]; simp) hopen
      (fun m hm => by cases hm; rewrite [hget (by decide)]; exact hfit), hst]
    simp
  rewrite [← hstart]
  refine congrArg Host.Outcome.next (State.ethNext_one u p f.queue ((hget (by decide)).trans hlink) ((hget (by decide)).trans htx)
    (by rewrite [hget (by decide)]; exact hfault) h8 (fun x hx => State.gateReady_noFrame p (by rw [hst]) (Nat.ne_of_lt hx)) fun x hx => ?_)
  refine State.ethTry_busy _ _ _ ?_
  rewrite [hstart, State.putEth_ethSt]
  simp

theorem exec_gateListEntry_holds (hlong : l < ethTime f.len (s.get R.ETH_STAT_SPEED p)) :
    exec (.gateListEntry dt p) s = .next (if f.held then (s.advance dt).gateReady p c f
      else (((s.advance dt).gateReady p c f).putEth p { s.ethSt p with queues := [{ f with held := true }] }).inc R.ETH_TX_CNT_GUARD_HOLDS p) := by
  have hst : ((s.advance dt).gateReady p c f).ethSt p = { s.ethSt p with queues := [f] } := State.gateReady_ethSt _ _ _ _
  have hget {k : Fld} (hk : fkey k ≠ fkey R.ETH_GCL_CURRENT) : ((s.advance dt).gateReady p c f).get k p = s.get k p := State.gateReady_get _ _ _ _ _ hk
  have hopen : ((s.advance dt).gateReady p c f).gateOf p f.queue = some (some l) :=
    (State.putEth_gateOf _ _ _ _).trans ((State.gclShown_gateOf _ _ _ _).trans hgate)
  rewrite [exec_gateListEntry_open dt p c f s hc hg l hqs hgate]
  generalize (s.advance dt).gateReady p c f = u at hst hget hopen ⊢
  have hheld : u.ethTry p f.queue = if f.held then u
      else (u.putEth p { s.ethSt p with queues := [{ f with held := true }] }).inc R.ETH_TX_CNT_GUARD_HOLDS p := by
    rewrite [State.ethTry_holds u p f.queue (f := f) (by rewrite [hst]; exact hcur)
      (by rewrite [hst]; simp) hopen rfl (by rewrite [hget (by decide)]; exact hlong), hst]
    simp
  rewrite [← hheld]
  refine congrArg Host.Outcome.next (State.ethNext_one u p f.queue ((hget (by decide)).trans hlink) ((hget (by decide)).trans htx)
    (by rewrite [hget (by decide)]; exact hfault) h8 (fun x hx => State.gateReady_noFrame p (by rw [hst]) (Nat.ne_of_lt hx)) fun x hx => ?_)
  rewrite [hheld]
  split
  · exact State.gateReady_noFrame p (by rw [hst]) (Nat.ne_of_gt hx)
  · refine State.gateReady_noFrame p (g := { f with held := true }) ?_ (Nat.ne_of_gt hx)
    exact congrArg EthSt.queues (u.putEth_ethSt p _)

theorem gateListEntry_open :
    ∃ t, exec (.gateListEntry dt p) s = .next t ∧ t.get R.ETH_GCL_CURRENT p = ((s.advance dt).gateNow c).1 % 64 ∧
      (ethTime f.len (s.get R.ETH_STAT_SPEED p) ≤ l → t.ethSt p = { s.ethSt p with cur := some f, queues := [] } ∧
        t.get R.ETH_TX_CNT_GUARD_HOLDS p = s.get R.ETH_TX_CNT_GUARD_HOLDS p) ∧
      (l < ethTime f.len (s.get R.ETH_STAT_SPEED p) → t.ethSt p = { s.ethSt p with queues := [{ f with held := true }] } ∧
        t.get R.ETH_TX_CNT_GUARD_HOLDS p = (if f.held then s.get R.ETH_TX_CNT_GUARD_HOLDS p else (s.get R.ETH_TX_CNT_GUARD_HOLDS p + 1) % 65536)) ∧
      Framed (regKeys p [R.ETH_GCL_CURRENT, R.ETH_TX_CNT_GUARD_HOLDS]) { s.advance dt with eth := t.eth } t := by
  have hentry : ((s.advance dt).gateReady p c f).get R.ETH_GCL_CURRENT p = ((s.advance dt).gateNow c).1 % 64 :=
    State.get_set_same _ R.ETH_GCL_CURRENT _ _
  have hholds : ((s.advance dt).gateReady p c f).get R.ETH_TX_CNT_GUARD_HOLDS p = s.get R.ETH_TX_CNT_GUARD_HOLDS p :=
    State.gateReady_get _ _ _ _ _ (by decide)
  have hframed : Framed (regKeys p [R.ETH_GCL_CURRENT, R.ETH_TX_CNT_GUARD_HOLDS]) { s.advance dt with eth := ((s.advance dt).gateReady p c f).eth }
      ((s.advance dt).gateReady p c f) := (set_framed _ _ _ _ (.inl (by simp [regKeys])) (.refl _ _) : Framed _ _ ((s.advance dt).gclShown p c)).withEth _
  by_cases hfit : ethTime f.len (s.get R.ETH_STAT_SPEED p) ≤ l
  · exact ⟨_, exec_gateListEntry_fits dt p c f s hc hg l hcur hqs h8 hlink htx hfault hgate hfit, hentry,
      fun _ => ⟨State.putEth_ethSt _ _ _, hholds⟩, fun h => absurd hfit (Nat.not_le.2 h), hframed.withEth _⟩
  · have hlong := Nat.not_le.1 hfit
    have hexec := exec_gateListEntry_holds dt p c f s hc hg l hcur hqs h8 hlink htx hfault hgate hlong
    cases hheld : f.held with
    | true =>
      rewrite [hheld, if_pos rfl] at hexec
      refine ⟨_, hexec, hentry, fun h => absurd h hfit, fun _ => ⟨?_, by rw [hholds, if_pos rfl]⟩, hframed⟩
      rewrite [State.gateReady_ethSt]
      cases f
      cases hheld
      rfl
    | false =>
      rewrite [hheld, if_neg Bool.false_ne_true] at hexec
      refine ⟨_, hexec, ?_, fun h => absurd h hfit, fun _ => ⟨?_, ?_⟩, set_framed _ _ _ _ (.inl (by simp [regKeys])) (hframed.withEth _)⟩
      · rw [State.inc_get_ne _ _ (by decide), State.putEth_get, hentry]
      · exact (State.ethSt_of_eth (State.set_eth _ _ _ _) p).trans (State.putEth_ethSt _ _ _)
      · rewrite [State.inc_eq, State.get_set_same, State.putEth_get, hholds]
        rfl

end

end

/-! ### Link state and PHY scripts (R424) -/

section
variable (s : State) (p : Nat) (l : Bool)

/-- The link and speed of a port as the registers show them. -/
def State.linkShown (s : State) (p : Nat) (l : Bool) (n : Nat) : State :=
  ((s.setB R.ETH_STAT_LINK l p).set R.ETH_STAT_SPEED n p).evt R.ETH_EVT_LINK p

/-- A link change as recorded, before the port's next frame. -/
def State.linkChanged (s : State) (p : Nat) (l : Bool) (n : Nat) : State :=
  (s.linkShown p l n).record { code := 0x1501, source := p, items := [(1, p), (1, n)] }

theorem State.ethLink_same (v : Nat) (h : l = s.flag R.ETH_STAT_LINK p ∧ (if l then v else 0) = s.get R.ETH_STAT_SPEED p) :
    s.ethLink p l v = s := by
  unfold State.ethLink
  exact if_pos (by simp only [Bool.and_eq_true, decide_eq_true_eq]; exact h)

theorem State.linkChanged_eth (n : Nat) : (s.linkChanged p l n).eth = s.eth := by
  unfold State.linkChanged State.linkShown
  rewrite [State.record_eth, State.evt_eth]
  rfl

theorem State.ethLink_changed (v n : Nat) (hn : n = if l then v else 0) (h : l ≠ s.flag R.ETH_STAT_LINK p ∨ n ≠ s.get R.ETH_STAT_SPEED p)
    (hq : (s.ethSt p).queues = []) : s.ethLink p l v = s.linkChanged p l n := by
  have hempty : ((s.linkChanged p l n).ethSt p).queues = [] := by
    rewrite [State.ethSt_of_eth (s.linkChanged_eth p l n)]
    exact hq
  unfold State.ethLink
  dsimp only
  rewrite [← hn, if_neg (by simpa only [Bool.and_eq_true, decide_eq_true_eq, not_and_or] using h)]
  exact State.ethNext_empty _ _ hempty

theorem State.linkShown_shows (n : Nat) (h4 : n < 4) : (s.linkShown p l n).get R.ETH_STAT_LINK p = (if l then 1 else 0) ∧
    (s.linkShown p l n).get R.ETH_STAT_SPEED p = n ∧ (s.linkShown p l n).get R.ETH_EVT_LINK p = 1 := by
  unfold State.linkShown
  refine ⟨?_, ?_, State.evt_get_same _ _ _ (by decide)⟩
  · rw [State.evt_get_ne _ _ _ (by decide) (by decide), State.get_set_ne _ _ _ _ (by decide), State.get_setB_same _ _ _ _ rfl]
  · rewrite [State.evt_get_ne _ _ _ (by decide) (by decide), State.get_set_same]
    exact Nat.mod_eq_of_lt h4

theorem State.linkChanged_shows (n : Nat) (h4 : n < 4) : (s.linkChanged p l n).get R.ETH_STAT_LINK p = (if l then 1 else 0) ∧
    (s.linkChanged p l n).get R.ETH_STAT_SPEED p = n ∧ (s.linkChanged p l n).get R.ETH_EVT_LINK p = 1 ∧
    Framed (regKeys p [R.ETH_STAT_LINK, R.ETH_STAT_SPEED, R.ETH_EVT_LINK]) s (s.linkChanged p l n) := by
  have hget {f : Fld} (hf : noteFld f = false) : (s.linkChanged p l n).get f p = (s.linkShown p l n).get f p := State.record_get _ _ _ hf
  obtain ⟨hlink, hspeed, hevt⟩ := s.linkShown_shows p l n h4
  refine ⟨(hget (by decide)).trans hlink, (hget (by decide)).trans hspeed, (hget (by decide)).trans hevt, ?_⟩
  exact State.record_framed _ _ (State.evt_framed _ _ _ (.inl (by simp [regKeys])) (set_framed _ _ _ _ (.inl (by simp [regKeys]))
    (setB_framed _ _ _ _ (.inl (by simp [regKeys])) (.refl _ _))))

end

section
variable (dt p v n : Nat) (l : Bool) (s : State)

theorem phyStatusPoll_changes (his : s.ethIs p 1 = true) (hfault : s.get R.ETH_STAT_FAULT p ≠ 1) (hv : v < 4) (hn : n = if l then v else 0)
    (h : l ≠ s.flag R.ETH_STAT_LINK p ∨ n ≠ s.get R.ETH_STAT_SPEED p) (hq : (s.ethSt p).queues = []) :
    ∃ t, exec (.phyStatusPoll dt p l v) s = .next t ∧ t.get R.ETH_STAT_LINK p = (if l then 1 else 0) ∧ t.get R.ETH_STAT_SPEED p = n ∧
      t.get R.ETH_EVT_LINK p = 1 ∧ Framed (regKeys p [R.ETH_STAT_LINK, R.ETH_STAT_SPEED, R.ETH_EVT_LINK]) (s.advance dt) t := by
  have hexec : exec (.phyStatusPoll dt p l v) s = .next ((s.advance dt).ethLink p l v) := by
    show execPhyStatusPoll dt p l v s = _
    unfold execPhyStatusPoll
    exact if_pos (Bool.and_eq_true_iff.2 ⟨his, by simp [State.flag, hfault]⟩)
  rewrite [State.ethLink_changed (s.advance dt) p l v n hn h hq] at hexec
  exact ⟨_, hexec, State.linkChanged_shows (s.advance dt) p l n (by rewrite [hn]; split <;> omega)⟩

theorem exec_phyStatusPoll_same (h : s.ethIs p 1 = false ∨ (l = s.flag R.ETH_STAT_LINK p ∧ (if l then v else 0) = s.get R.ETH_STAT_SPEED p)) :
    exec (.phyStatusPoll dt p l v) s = .next (s.advance dt) := by
  show execPhyStatusPoll dt p l v s = _
  unfold execPhyStatusPoll
  dsimp only
  split
  next hon =>
    refine congrArg Host.Outcome.next (State.ethLink_same _ _ _ _ (h.resolve_left fun hoff => ?_))
    exact Bool.false_ne_true (hoff.symm.trans (Bool.and_eq_true_iff.1 hon).1)
  next => rfl

theorem sgmiiLinkChange_changes (his : s.ethIs p 2 = true) (hv : v < 4) (hn : n = if l then v else 0)
    (h : l ≠ s.flag R.ETH_STAT_LINK p ∨ n ≠ s.get R.ETH_STAT_SPEED p) (hq : (s.ethSt p).queues = []) :
    ∃ t, exec (.sgmiiLinkChange dt p l v) s = .next t ∧ t.get R.ETH_STAT_LINK p = (if l then 1 else 0) ∧ t.get R.ETH_STAT_SPEED p = n ∧
      t.get R.ETH_EVT_LINK p = 1 ∧ Framed (regKeys p [R.ETH_STAT_LINK, R.ETH_STAT_SPEED, R.ETH_EVT_LINK]) (s.advance dt) t := by
  have hexec : exec (.sgmiiLinkChange dt p l v) s = .next ((s.advance dt).ethLink p l v) := by
    show execSgmiiLinkChange dt p l v s = _
    unfold execSgmiiLinkChange
    exact if_pos his
  rewrite [State.ethLink_changed (s.advance dt) p l v n hn h hq] at hexec
  exact ⟨_, hexec, State.linkChanged_shows (s.advance dt) p l n (by rewrite [hn]; split <;> omega)⟩

theorem exec_sgmiiLinkChange_same (h : s.ethIs p 2 = false ∨ (l = s.flag R.ETH_STAT_LINK p ∧ (if l then v else 0) = s.get R.ETH_STAT_SPEED p)) :
    exec (.sgmiiLinkChange dt p l v) s = .next (s.advance dt) := by
  show execSgmiiLinkChange dt p l v s = _
  unfold execSgmiiLinkChange
  dsimp only
  split
  next hon => exact congrArg Host.Outcome.next (State.ethLink_same _ _ _ _ (h.resolve_left fun hoff => Bool.false_ne_true (hoff.symm.trans hon)))
  next => rfl

/-- The event of a PHY script that was written, or not. -/
def scriptEv (p n : Nat) : Ev := { code := 0x1502, source := p, items := [(1, p), (2, n)] }

variable (ok : Bool)

theorem exec_phyScriptRetry_idle (h : s.ethIs p 1 = false ∨ ok ≠ s.flag R.ETH_STAT_FAULT p) :
    exec (.phyScriptRetry dt p ok n) s = .next (s.advance dt) := by
  show execPhyScriptRetry dt p ok n s = _
  unfold execPhyScriptRetry
  dsimp only
  rcases h with h | h
  · exact if_pos (by rewrite [show (s.advance dt).ethIs p 1 = false from h]; rfl)
  · split
    · rfl
    · cases ok with
      | true => exact (if_pos rfl).trans (by rewrite [show (s.advance dt).flag R.ETH_STAT_FAULT p = false from Bool.eq_false_of_not_eq_true (Ne.symm h)]; rfl)
      | false => exact (if_neg Bool.false_ne_true).trans (if_pos (Bool.eq_true_of_not_eq_false (Ne.symm h)))

theorem phyScriptRetry_changes (his : s.ethIs p 1 = true) (hq : (s.ethSt p).queues = []) (hok : ok = s.flag R.ETH_STAT_FAULT p) :
    ∃ t, exec (.phyScriptRetry dt p ok n) s = .next t ∧ t.get R.ETH_STAT_FAULT p = (if ok then 0 else 1) ∧
      (ok = false → t.get R.ETH_EVT_FAULT p = 1) ∧
      Framed (regKeys p (if ok then [R.ETH_STAT_FAULT] else [R.ETH_STAT_FAULT, R.ETH_EVT_FAULT])) (s.advance dt) t := by
  have hbranch : exec (.phyScriptRetry dt p ok n) s =
      if ok then .next (if (s.advance dt).flag R.ETH_STAT_FAULT p then (((s.advance dt).set R.ETH_STAT_FAULT 0 p).record (scriptEv p n)).ethNext p else s.advance dt)
      else if (s.advance dt).flag R.ETH_STAT_FAULT p then .next (s.advance dt)
      else .next ((((s.advance dt).set R.ETH_STAT_FAULT 1 p).evt R.ETH_EVT_FAULT p).record (scriptEv p n)) := by
    show execPhyScriptRetry dt p ok n s = _
    unfold execPhyScriptRetry
    exact if_neg (by rewrite [show (s.advance dt).ethIs p 1 = true from his]; decide)
  rewrite [show (s.advance dt).flag R.ETH_STAT_FAULT p = ok from hok.symm] at hbranch
  cases ok with
  | true =>
    have hempty : ((((s.advance dt).set R.ETH_STAT_FAULT 0 p).record (scriptEv p n)).ethSt p).queues = [] :=
      (congrArg EthSt.queues (State.ethSt_of_eth (State.record_eth _ _) p)).trans hq
    rewrite [if_pos rfl, if_pos rfl, State.ethNext_empty _ _ hempty] at hbranch
    refine ⟨_, hbranch, ?_, fun h => absurd h.symm Bool.false_ne_true, State.record_framed _ _ (set_framed _ _ _ _ (.inl (by simp [regKeys])) (.refl _ _))⟩
    rewrite [State.record_get _ _ _ (by decide), State.get_set_same]
    rfl
  | false =>
    rewrite [if_neg Bool.false_ne_true, if_neg Bool.false_ne_true] at hbranch
    refine ⟨_, hbranch, ?_, fun _ => ?_, State.record_framed _ _ (State.evt_framed _ _ _ (.inl (by simp [regKeys]))
      (set_framed _ _ _ _ (.inl (by simp [regKeys])) (.refl _ _)))⟩
    · rewrite [State.record_get _ _ _ (by decide), State.evt_get_ne _ _ _ (by decide) (by decide), State.get_set_same]
      rfl
    · rewrite [State.record_get _ _ _ (by decide)]
      exact State.evt_get_same _ _ _ (by decide)

end

/-! ### The squall guard of a port (R431) -/

section
variable (s : State) (p : Nat) (b : Rat)

/-- The busy fractions of a port's last ten ms, with the newest. -/
def State.ethLoads (s : State) (p : Nat) (b : Rat) : List Rat := (b :: (s.ethSt p).loads).take 10

/-- The load of a port's last ten ms is shown. -/
def State.ethLoadShown (s : State) (p : Nat) (b : Rat) : State :=
  (s.putEth p { s.ethSt p with loads := s.ethLoads p b }).setU R.ETH_LOAD_LOAD_PM ((s.ethLoads p b).sum / 10 * 1000) p

/-- A port's load and its peak are shown. -/
def State.ethLoadTaken (s : State) (p : Nat) (b : Rat) : State :=
  (s.ethLoadShown p b).set R.ETH_LOAD_PEAK_PM (max ((s.ethLoadShown p b).get R.ETH_LOAD_LOAD_PM p) ((s.ethLoadShown p b).get R.ETH_LOAD_PEAK_PM p)) p

/-- A port's hold as the registers show it. -/
def State.ethHoldShown (s : State) (p : Nat) : State := ((s.set R.ETH_STAT_SQUALL 1 p).incSat R.ETH_SQ_HOLDS p).evt R.ETH_EVT_SQUALL p

/-- A port's hold has begun. -/
def State.ethHeld (s : State) (p : Nat) : State :=
  (s.ethHoldShown p).putEth p { (s.ethHoldShown p).ethSt p with holdAt := some (s.ethHoldShown p).now }

/-- A port's hold is over as the registers and the alarm show it. -/
def State.ethHoldCleared (s : State) (p pm : Nat) : State :=
  let t := s.set R.ETH_STAT_SQUALL 0 p
  if (s.ethSt p).squallAlarm then t.clearAlarm 0x1503 p [(1, p), (2, pm), t.holdItem p] 1 else t

/-- A port's hold has ended; its next frame is still to start. -/
def State.ethHoldEnded (s : State) (p pm : Nat) : State :=
  (s.ethHoldCleared p pm).putEth p { (s.ethHoldCleared p pm).ethSt p with holdAt := none, squallAlarm := false }

theorem State.ethLoadTaken_get {f : Fld} (k : Nat) (h : apartFrom [R.ETH_LOAD_LOAD_PM, R.ETH_LOAD_PEAK_PM] f = true) :
    (s.ethLoadTaken p b).get f k = s.get f k := by
  unfold State.ethLoadTaken State.ethLoadShown
  rw [State.get_set_ne _ _ _ _ (apartFrom_ne h (by simp)), State.setU_get_ne _ _ (apartFrom_ne h (by simp)), State.putEth_get]

theorem State.ethLoadTaken_ethSt : (s.ethLoadTaken p b).ethSt p = { s.ethSt p with loads := s.ethLoads p b } :=
  State.putEth_ethSt _ _ _

theorem State.ethLoadTaken_peak : (s.ethLoadTaken p b).get R.ETH_LOAD_PEAK_PM p =
    max ((s.ethLoadTaken p b).get R.ETH_LOAD_LOAD_PM p) (s.get R.ETH_LOAD_PEAK_PM p) % 1024 := by
  have hpeak : (s.ethLoadShown p b).get R.ETH_LOAD_PEAK_PM p = s.get R.ETH_LOAD_PEAK_PM p := by
    unfold State.ethLoadShown
    rw [State.setU_get_ne _ _ (by decide), State.putEth_get]
  unfold State.ethLoadTaken
  rewrite [State.get_set_same, State.get_set_ne _ _ _ _ (by decide), hpeak]
  rfl

theorem State.ethLoadTaken_framed : Framed (regKeys p [R.ETH_LOAD_LOAD_PM, R.ETH_LOAD_PEAK_PM]) { s with eth := (s.ethLoadTaken p b).eth }
    (s.ethLoadTaken p b) :=
  set_framed _ _ _ _ (.inl (by simp [regKeys])) (set_framed _ _ _ _ (.inl (by simp [regKeys])) (.refl _ _))

theorem State.ethHeld_ethSt : (s.ethHeld p).ethSt p = { s.ethSt p with holdAt := some s.now } := by
  unfold State.ethHeld
  rewrite [State.putEth_ethSt]
  unfold State.ethHoldShown
  rewrite [State.ethSt_of_eth (State.evt_eth _ _ _), State.evt_now]
  rfl

theorem State.ethHeld_get {f : Fld} (h : apartFrom [R.ETH_STAT_SQUALL, R.ETH_SQ_HOLDS, R.ETH_EVT_SQUALL] f = true) (k : Nat) :
    (s.ethHeld p).get f k = s.get f k := by
  unfold State.ethHeld State.ethHoldShown
  rw [State.putEth_get, State.evt_get_ne _ _ _ (noteFld_of_apartFrom h) (apartFrom_ne h (by simp)), State.incSat_eq,
    State.get_set_ne _ _ _ _ (apartFrom_ne h (by simp)), State.get_set_ne _ _ _ _ (apartFrom_ne h (by simp))]

theorem State.ethHeld_shows : (s.ethHeld p).get R.ETH_STAT_SQUALL p = 1 ∧
    (s.ethHeld p).get R.ETH_SQ_HOLDS p = min 255 (s.get R.ETH_SQ_HOLDS p + 1) ∧ (s.ethHeld p).get R.ETH_EVT_SQUALL p = 1 := by
  unfold State.ethHeld State.ethHoldShown
  refine ⟨?_, ?_, ?_⟩
  · rewrite [State.putEth_get, State.evt_get_ne _ _ _ (by decide) (by decide), State.incSat_eq, State.get_set_ne _ _ _ _ (by decide), State.get_set_same]
    rfl
  · rewrite [State.putEth_get, State.evt_get_ne _ _ _ (by decide) (by decide), State.incSat_get_same, State.get_set_ne _ _ _ _ (by decide)]
    rfl
  · rewrite [State.putEth_get]
    exact State.evt_get_same _ _ _ (by decide)

theorem State.ethHoldCleared_eth (pm : Nat) : (s.ethHoldCleared p pm).eth = s.eth := by
  unfold State.ethHoldCleared
  dsimp only
  split
  · exact State.clearAlarm_eth _ _ _ _ _
  · rfl

theorem State.ethHoldCleared_get (pm : Nat) {f : Fld} (hf : noteFld f = false) (k : Nat) :
    (s.ethHoldCleared p pm).get f k = (s.set R.ETH_STAT_SQUALL 0 p).get f k := by
  unfold State.ethHoldCleared
  dsimp only
  split
  · exact State.clearAlarm_get _ _ _ _ _ _ hf
  · rfl

theorem State.ethHoldCleared_framed (pm : Nat) : Framed (regKeys p [R.ETH_STAT_SQUALL]) s (s.ethHoldCleared p pm) := by
  have hset : Framed (regKeys p [R.ETH_STAT_SQUALL]) s (s.set R.ETH_STAT_SQUALL 0 p) := set_framed _ _ _ _ (.inl (by simp [regKeys])) (.refl _ _)
  unfold State.ethHoldCleared
  dsimp only
  split
  · exact State.clearAlarm_framed _ _ _ _ _ hset
  · exact hset

theorem State.ethHoldEnded_ethSt (pm : Nat) : (s.ethHoldEnded p pm).ethSt p = { s.ethSt p with holdAt := none, squallAlarm := false } := by
  unfold State.ethHoldEnded
  rw [State.putEth_ethSt, State.ethSt_of_eth (s.ethHoldCleared_eth p pm)]

variable (dt : Nat) (c : EthCfg) (hc : s.ethCfg p = some c) (htick : s.tick % 100 = 0)
include hc htick

/-- A millisecond's load either begins a hold of the port, ends one, or is shown. -/
theorem exec_ethSquallUpdate_due : exec (.ethSquallUpdate dt p b) s =
    if !((s.advance dt).ethLoadTaken p b).flag R.ETH_STAT_SQUALL p && (c.sqHold : Rat) / 100 ≤ (s.ethLoads p b).sum / 10 then
      .next (((s.advance dt).ethLoadTaken p b).ethHeld p)
    else if ((s.advance dt).ethLoadTaken p b).flag R.ETH_STAT_SQUALL p && (s.ethLoads p b).sum / 10 ≤ (c.sqRelease : Rat) / 100 then
      .next ((((s.advance dt).ethLoadTaken p b).ethHoldEnded p (((s.advance dt).ethLoadShown p b).get R.ETH_LOAD_LOAD_PM p)).ethNext p)
    else .next ((s.advance dt).ethLoadTaken p b) := by
  show execEthSquallUpdate dt p b s = _
  unfold execEthSquallUpdate
  dsimp only
  rewrite [show (s.advance dt).ethCfg p = some c from hc]
  dsimp only
  rewrite [if_neg (not_not_intro (show (s.advance dt).tick % 100 = 0 from htick))]
  rfl

theorem ethSquallUpdate_free (hoff : s.get R.ETH_STAT_SQUALL p ≠ 1) :
    ∃ t, exec (.ethSquallUpdate dt p b) s = .next t ∧ (t.ethSt p).loads = s.ethLoads p b ∧
      t.get R.ETH_LOAD_PEAK_PM p = max (t.get R.ETH_LOAD_LOAD_PM p) (s.get R.ETH_LOAD_PEAK_PM p) % 1024 ∧
      ((c.sqHold : Rat) / 100 ≤ (s.ethLoads p b).sum / 10 → t.get R.ETH_STAT_SQUALL p = 1 ∧
        t.get R.ETH_SQ_HOLDS p = min 255 (s.get R.ETH_SQ_HOLDS p + 1) ∧ t.get R.ETH_EVT_SQUALL p = 1 ∧ (t.ethSt p).holdAt = some (s.now + dt)) ∧
      ((s.ethLoads p b).sum / 10 < (c.sqHold : Rat) / 100 → t.get R.ETH_STAT_SQUALL p = s.get R.ETH_STAT_SQUALL p ∧
        t.ethSt p = { s.ethSt p with loads := s.ethLoads p b }) ∧
      Framed (regKeys p [R.ETH_LOAD_LOAD_PM, R.ETH_LOAD_PEAK_PM, R.ETH_STAT_SQUALL, R.ETH_SQ_HOLDS, R.ETH_EVT_SQUALL])
        { s.advance dt with eth := t.eth } t := by
  have hexec := exec_ethSquallUpdate_due s p b dt c hc htick
  have hget {f : Fld} (h : apartFrom [R.ETH_LOAD_LOAD_PM, R.ETH_LOAD_PEAK_PM] f = true) :
      ((s.advance dt).ethLoadTaken p b).get f p = s.get f p := State.ethLoadTaken_get _ _ _ _ h
  have hst : ((s.advance dt).ethLoadTaken p b).ethSt p = { s.ethSt p with loads := s.ethLoads p b } := State.ethLoadTaken_ethSt _ _ _
  have hpeak := (s.advance dt).ethLoadTaken_peak p b
  have hframed := ((s.advance dt).ethLoadTaken_framed p b).mono (ks' := regKeys p [R.ETH_LOAD_LOAD_PM, R.ETH_LOAD_PEAK_PM, R.ETH_STAT_SQUALL,
    R.ETH_SQ_HOLDS, R.ETH_EVT_SQUALL])
    (by simp [regKeys])
  have hnow : ((s.advance dt).ethLoadTaken p b).now = s.now + dt := rfl
  have hflag : ((s.advance dt).ethLoadTaken p b).flag R.ETH_STAT_SQUALL p = false := decide_eq_false (by rewrite [hget (by decide)]; exact hoff)
  rewrite [hflag] at hexec
  generalize (s.advance dt).ethLoadTaken p b = u at hexec hget hst hpeak hframed hnow
  by_cases hload : (c.sqHold : Rat) / 100 ≤ (s.ethLoads p b).sum / 10
  · rewrite [if_pos (by simpa using hload)] at hexec
    obtain ⟨hsquall, hholds, hevt⟩ := u.ethHeld_shows p
    have hheld : (u.ethHeld p).ethSt p = { s.ethSt p with loads := s.ethLoads p b, holdAt := some (s.now + dt) } := by
      rw [u.ethHeld_ethSt p, hst, hnow]
    refine ⟨_, hexec, (congrArg EthSt.loads hheld :), ?_, fun _ => ⟨hsquall, by rw [hholds, hget (by decide)], hevt, (congrArg EthSt.holdAt hheld :)⟩,
      fun h => absurd hload (not_le.2 h), ?_⟩
    · rewrite [u.ethHeld_get p (by decide), u.ethHeld_get p (by decide)]
      exact hpeak
    · exact (State.evt_framed _ _ _ (.inl (by simp [regKeys])) (set_framed _ _ _ _ (.inl (by simp [regKeys]))
        (set_framed _ _ _ _ (.inl (by simp [regKeys])) hframed))).withEth _
  · rewrite [if_neg (by simpa using hload), if_neg (by simp)] at hexec
    exact ⟨_, hexec, (congrArg EthSt.loads hst :), hpeak, fun h => absurd h hload, fun _ => ⟨hget (by decide), hst⟩, hframed⟩

theorem ethSquallUpdate_held (hon : s.get R.ETH_STAT_SQUALL p = 1) (hq : (s.ethSt p).queues = []) :
    ∃ t, exec (.ethSquallUpdate dt p b) s = .next t ∧
      t.get R.ETH_STAT_SQUALL p = (if (s.ethLoads p b).sum / 10 ≤ (c.sqRelease : Rat) / 100 then 0 else 1) ∧
      ((s.ethLoads p b).sum / 10 ≤ (c.sqRelease : Rat) / 100 → (t.ethSt p).holdAt = none ∧ (t.ethSt p).squallAlarm = false) ∧
      Framed (regKeys p [R.ETH_LOAD_LOAD_PM, R.ETH_LOAD_PEAK_PM, R.ETH_STAT_SQUALL]) { s.advance dt with eth := t.eth } t := by
  have hexec := exec_ethSquallUpdate_due s p b dt c hc htick
  have hget : ((s.advance dt).ethLoadTaken p b).get R.ETH_STAT_SQUALL p = 1 := (State.ethLoadTaken_get _ _ _ _ (by decide)).trans hon
  have hst : ((s.advance dt).ethLoadTaken p b).ethSt p = { s.ethSt p with loads := s.ethLoads p b } := State.ethLoadTaken_ethSt _ _ _
  have hframed := ((s.advance dt).ethLoadTaken_framed p b).mono (ks' := regKeys p [R.ETH_LOAD_LOAD_PM, R.ETH_LOAD_PEAK_PM, R.ETH_STAT_SQUALL])
    (by simp [regKeys])
  rewrite [show ((s.advance dt).ethLoadTaken p b).flag R.ETH_STAT_SQUALL p = true from decide_eq_true hget, if_neg (by simp)] at hexec
  generalize (s.advance dt).ethLoadTaken p b = u at hexec hget hst hframed
  generalize ((s.advance dt).ethLoadShown p b).get R.ETH_LOAD_LOAD_PM p = pm at hexec
  by_cases hload : (s.ethLoads p b).sum / 10 ≤ (c.sqRelease : Rat) / 100
  · have hended := u.ethHoldEnded_ethSt p pm
    rewrite [if_pos (by simpa using hload), State.ethNext_empty _ _ (by rewrite [hended, hst]; exact hq)] at hexec
    refine ⟨_, hexec, ?_, fun _ => ⟨(congrArg EthSt.holdAt hended :), (congrArg EthSt.squallAlarm hended :)⟩, ?_⟩
    · unfold State.ethHoldEnded
      rewrite [if_pos hload, State.putEth_get, u.ethHoldCleared_get p pm (by decide), State.get_set_same]
      rfl
    · exact (hframed.trans ((u.ethHoldCleared_framed p pm).mono (by simp [regKeys]))).withEth _
  · rewrite [if_neg (by simpa using hload)] at hexec
    exact ⟨_, hexec, by rw [hget, if_neg hload], fun h => absurd h hload, hframed⟩

end

/-! ### The first alarm of an empty list -/

section
variable (s : State)

/-- The first alarm of an empty list takes entry 0. -/
theorem State.alarm_alarms_first (code source : Nat) (items : List (Nat × Nat)) (key : Nat) (h : s.alarms = []) :
    (s.alarm code source items key).alarms = [(0, ⟨code, source, 1⟩)] := by
  unfold State.alarm State.record
  dsimp only
  rewrite [if_pos rfl, if_neg Bool.false_ne_true]
  have hlog := s.logEvent_alarms { code, source, alarm := true, items, key }
  rewrite [h] at hlog
  generalize s.logEvent _ = u at hlog
  unfold State.alarmRaise
  have hfree : freeAlarm [] 256 0 = some 0 := by
    unfold freeAlarm
    rfl
  rewrite [hlog, hfree]
  dsimp only [findAlarm]
  rewrite [State.alarmEnv_alarms, State.evt_alarms]
  rfl

end

section
variable (dt p : Nat) (s : State)

theorem ethSquallAlarm_raises (a : Nat) (hat : (s.ethSt p).holdAt = some a) (hdue : a + 1000000000 ≤ s.now + dt)
    (hno : (s.ethSt p).squallAlarm = false) (hnone : s.alarms = []) :
    ∃ t, exec (.ethSquallAlarm dt p) s = .next t ∧ t.ethSt p = { s.ethSt p with squallAlarm := true } ∧ t.alarms = [(0, ⟨0x1503, p, 1⟩)] ∧
      Framed [] { s.advance dt with eth := t.eth } t := by
  have hexec : exec (.ethSquallAlarm dt p) s = .next (((s.advance dt).putEth p { s.ethSt p with squallAlarm := true }).alarm 0x1503 p
      [(1, p), (2, (s.advance dt).get R.ETH_LOAD_LOAD_PM p), (s.advance dt).holdItem p] 1) := by
    show execEthSquallAlarm dt p s = _
    unfold execEthSquallAlarm
    dsimp only
    rewrite [show ((s.advance dt).ethSt p).holdAt = some a from hat]
    have hraise : (decide (a + 1000000000 ≤ (s.advance dt).now) && !((s.advance dt).ethSt p).squallAlarm) = true :=
      Bool.and_eq_true_iff.2 ⟨decide_eq_true hdue, by rewrite [show ((s.advance dt).ethSt p).squallAlarm = false from hno]; rfl⟩
    dsimp only
    rewrite [if_pos hraise, ← hat]
    rfl
  refine ⟨_, hexec, ?_, State.alarm_alarms_first _ _ _ _ _ hnone, ?_⟩
  · rw [State.ethSt_of_eth (State.alarm_eth _ _ _ _ _), State.putEth_ethSt]
  · rewrite [State.alarm_eth]
    exact State.alarm_framed _ _ _ _ _ (.refl _ _)

theorem exec_ethSquallAlarm_idle (h : ∀ a, (s.ethSt p).holdAt = some a → s.now + dt < a + 1000000000 ∨ (s.ethSt p).squallAlarm = true) :
    exec (.ethSquallAlarm dt p) s = .next (s.advance dt) := by
  show execEthSquallAlarm dt p s = _
  unfold execEthSquallAlarm
  dsimp only
  split
  next a hat =>
    refine if_neg fun hdue => ?_
    obtain ⟨hlate, hno⟩ := Bool.and_eq_true_iff.1 hdue
    rcases h a hat with hearly | hraised
    · exact absurd (of_decide_eq_true hlate) (Nat.not_le.2 hearly)
    · rewrite [show ((s.advance dt).ethSt p).squallAlarm = true from hraised] at hno
      exact Bool.false_ne_true hno
  next => rfl

end

/-- Settles O55: the frame that a port sends next is the head of its highest open queue that fits; link, script and load change the registers they
report (logs 227, 232, 233, 234). -/
theorem ethernetTransmission : Obligations.EthernetTransmission := by
  unfold Obligations.EthernetTransmission
  exact ⟨fun dt p n c x s hc hx hp hr hlead hoff htx hlink => ethPeriodicTransmit_waits dt p n c x s hc hx hp hr hlead hoff htx hlink,
    fun dt p n c x s hc hx hp hr hlead hoff htx => ethPeriodicTransmit_off dt p n c x s hc hx hp hr hlead hoff htx,
    exec_ethPeriodicTransmit_idle, exec_ethFrameTransmitDone_none, fun dt p f s => ethFrameTransmitDone_last dt p f s,
    fun dt p c f g h s hc hcur hq hlt h8 hlink htx hfault hsq hgates => ethFrameTransmitDone_next dt p f s hcur c g h hc hq hlt h8 hlink htx hfault hsq hgates,
    exec_gateListEntry_none,
    fun dt p l c f s hc hg hcur hq h8 hlink htx hfault hgate => gateListEntry_open dt p c f s hc hg l hcur hq h8 hlink htx hfault hgate,
    gateListEntry_closed,
    phyStatusPoll_changes, exec_phyStatusPoll_same, sgmiiLinkChange_changes, exec_sgmiiLinkChange_same,
    fun dt p n ok s => phyScriptRetry_changes dt p n s ok, fun dt p n ok s => exec_phyScriptRetry_idle dt p n s ok,
    fun dt p b c s => ethSquallUpdate_free s p b dt c, fun dt p b c s => ethSquallUpdate_held s p b dt c,
    fun dt p a s => ethSquallAlarm_raises dt p s a, exec_ethSquallAlarm_idle⟩

end Sys2Proof.Machine
end

section
set_option Elab.async false
/-!
PROOF of the statement of 18_ethernet_and_host.md about fleet reports and work records (DispatchAndWorkRecord): the tile that a sample enters,
then each command.
-/

namespace Sys2Proof.Machine

open Sys2Proof

/-! ### DISPATCH_REPORT (R436) -/

section
variable {ks : List Nat} {s t : State}

theorem Framed.withWork (x : WorkSt) (h : Framed ks s t) : Framed ks { s with work := x } { t with work := x } :=
  ⟨congrArg (fun u : State => { u with work := x }) h.plain, h.2⟩

end

section
variable (dt p : Nat) (c : EthCfg) (s : State)

theorem exec_dispatchReport_none (h : s.man.disp.ports = []) : exec (.dispatchReport dt) s = .next (s.advance dt) := by
  show execDispatchReport dt s = _
  unfold execDispatchReport
  exact if_pos h

theorem exec_dispatchReport_gap (h : s.man.disp.ports ≠ []) (hoff : s.classDRuns = false) : exec (.dispatchReport dt) s =
    .next { s.advance dt with work := { s.work with dispGap := s.work.dispGap || s.work.dispSent } } := by
  show execDispatchReport dt s = _
  unfold execDispatchReport
  dsimp only
  rewrite [if_neg (show (s.advance dt).man.disp.ports ≠ [] from h), show (s.advance dt).classDRuns = false from hoff]
  rfl

/-- A report waits at its port. -/
def State.dispQueued (s : State) (p : Nat) (f : EthOut) : State :=
  (s.ethNumbered 4).putEth p { s.ethSt p with queues := (s.ethSt p).queues ++ [f] }

/-- A report is on its way. -/
def State.dispDone (s : State) : State :=
  ({ s with work := { s.work with dispGap := false, dispSent := true } } : State).set R.ETH_DISP_STAT_SEQ (tget s.ethSeq 4 0)

theorem dispatchReport_waits (hports : s.man.disp.ports = [p]) (hruns : (s.advance dt).classDRuns = true) (hc : s.ethCfg p = some c)
    (hoff : c.prp = false) (htx : s.get R.ETH_STAT_TX_ON p = 1) (hlink : s.get R.ETH_STAT_LINK p ≠ 1) :
    ∃ t, exec (.dispatchReport dt) s = .next t ∧ t.get R.ETH_DISP_STAT_SEQ = (tget s.ethSeq 4 0 + 1) % 65536 ∧
      tget t.ethSeq 4 0 = (tget s.ethSeq 4 0 + 1) % 65536 ∧ t.work = { s.work with dispGap := false, dispSent := true } ∧
      (t.ethSt p).queues = (s.ethSt p).queues ++ [ethOutFrame c 4 1 (s.ethNumber 4) (s.advance dt).dispBody] ∧
      Framed [loc R.ETH_DISP_STAT_SEQ 0] { s.advance dt with eth := t.eth, ethSeq := t.ethSeq, work := t.work } t := by
  have hexec : exec (.dispatchReport dt) s = .next (((s.advance dt).dispQueued p (ethOutFrame c 4 1 (s.ethNumber 4)
    (s.advance dt).dispBody)).dispDone) := by
    show execDispatchReport dt s = _
    unfold execDispatchReport
    dsimp only
    rewrite [show (s.advance dt).man.disp.ports = [p] from hports, if_neg (List.cons_ne_nil _ _), hruns, if_neg (by decide),
      State.ethSend_single (s.advance dt) p 4 1 _ c hc hoff, State.ethPut_waits ((s.advance dt).ethNumbered 4) _ _ htx hlink]
    rfl
  have hseq : tget ((s.advance dt).dispQueued p (ethOutFrame c 4 1 (s.ethNumber 4) (s.advance dt).dispBody)).ethSeq 4 0 = s.ethNumber 4 :=
    State.ethNumbered_seq _ _
  refine ⟨_, hexec, ?_, hseq, rfl, congrArg EthSt.queues (State.putEth_ethSt _ _ _), set_framed _ _ _ _ (.inl (List.mem_singleton.2 rfl)) (.refl _ _)⟩
  unfold State.dispDone
  rewrite [State.get_set_same, hseq]
  exact Nat.mod_mod _ _

end

/-! ### The sample and its tile (R437, R438) -/

section
variable (s : State) (k : Tile)

/-- A tile with one sample more. -/
def State.tileWith (s : State) (k : Tile) : Tile := { k with recs := k.recs ++ [s.workBytes] }

/-- A sample fills its tile: no further one would fit. -/
def State.tileFull (s : State) (k : Tile) : Prop := 65536 < 64 + (k.recs.length + 2) * s.workRec

theorem State.tileWith_full : 65536 < 64 + ((s.tileWith k).recs.length + 1) * s.workRec ↔ s.tileFull k := by
  unfold State.tileWith State.tileFull
  rw [List.length_append, List.length_singleton]

/-- A sample enters a tile: only the work record changes. -/
theorem State.workAdd_shows : ∃ w, s.workAdd k = { s with work := w } ∧
    (s.tileFull k → tfind w.tiles (s.tileIdx k.seq) = some { s.tileWith k with sealed_ := true } ∧ w.head = k.seq) ∧
    (¬ s.tileFull k → tfind w.tiles (s.tileIdx k.seq) = some (s.tileWith k) ∧ w.head = s.work.head) ∧
    w.last = s.work.last ∧ w.gap = false := by
  unfold State.workAdd
  dsimp only
  split
  next hfull => exact ⟨_, rfl, fun _ => ⟨tfind_tput_same _ _ _, rfl⟩, fun h => absurd ((s.tileWith_full k).1 hfull) h, rfl, rfl⟩
  next hfits => exact ⟨_, rfl, fun h => absurd ((s.tileWith_full k).2 h) hfits, fun _ => ⟨tfind_tput_same _ _ _, rfl⟩, rfl, rfl⟩

theorem State.openTile_open (h : s.openTile = some k) : k.sealed_ = false := by
  unfold State.openTile at h
  split at h
  next t _ =>
    split at h
    next hcond =>
      cases h
      simpa using (Bool.and_eq_true_iff.1 hcond).2
    next => cases h
  next => cases h

/-- What a sample says, apart from the registers and the work record. -/
def workBytesOf (s : State) (qual : Nat) (gap stepped : Bool) : List Nat :=
  let fix := s.fixWords
  let qs := s.man.work.channels.map fun i => s.ptQuality i
  let bad := (qs.zipIdx.map fun x => if x.1 = .good then 0 else 2 ^ x.2).sum
  let flags := qual + (if gap then 16 else 0) + (if stepped then 0 else 32)
  leBytes 8 s.pm.sec ++ leBytes 4 s.pm.ns ++ leBytes 4 fix.2.2 ++ leBytes 8 fix.1 ++ leBytes 8 fix.2.1 ++ leBytes 4 flags ++
    leBytes 4 bad ++ s.man.work.channels.flatMap fun i => leBytes 8 (s.pt i).value

theorem State.workBytes_eq : s.workBytes = workBytesOf { s.plain with work := {} } (s.get R.EST_STAT_POS_QUAL) s.work.gap s.stepped := rfl

/-- A sample taken after only registers away from its own, and what is told of a command, have changed says the same. -/
theorem State.workBytes_framed {ks : List Nat} {s t : State} (h : Framed ks { s with work := t.work } t)
    (hqual : t.get R.EST_STAT_POS_QUAL = s.get R.EST_STAT_POS_QUAL) (hstep : t.get R.TIME_STAT_STEPPED = s.get R.TIME_STAT_STEPPED)
    (hgap : t.work.gap = s.work.gap) : t.workBytes = s.workBytes := by
  have hplain : ({ t.plain with work := {} } : State) = { s.plain with work := {} } := congrArg (fun u : State => { u with work := {} }) h.plain
  have hstepped : t.stepped = s.stepped := congrArg (fun n => decide (n = 1)) hstep
  rw [s.workBytes_eq, t.workBytes_eq, hplain, hqual, hgap, hstepped]

end

/-! ### WORK_RECORD_SAMPLE (R437, R438) -/

section
variable (dt : Nat) (s : State)

theorem exec_workRecordSample_none (h : s.man.work.channels = []) : exec (.workRecordSample dt) s = .next (s.advance dt) := by
  show execWorkRecordSample dt s = _
  unfold execWorkRecordSample
  exact if_pos h

section
variable (hch : s.man.work.channels ≠ [])
include hch

theorem exec_workRecordSample_gap (hoff : s.classDRuns = false) :
    exec (.workRecordSample dt) s = .next { s.advance dt with work := { s.work with gap := s.work.gap || s.work.begun } } := by
  show execWorkRecordSample dt s = _
  unfold execWorkRecordSample
  dsimp only
  rewrite [if_neg (show (s.advance dt).man.work.channels ≠ [] from hch), show (s.advance dt).classDRuns = false from hoff]
  rfl

/-- The MUSTER's second is noted with the first sample after it. -/
def State.musterNoted (s : State) : State :=
  if s.work.musterSec.isSome then s else { s with work := { s.work with musterSec := some ((s.ns - (s.now - s.mus.at_)) / 1000000000) } }

/-- The second of the MUSTER as the work record holds it. -/
def State.secondNoted (s : State) (x : Option Nat) : State := { s with work := { s.work with musterSec := x } }

omit hch in
theorem State.musterNoted_eq : ∃ x, s.musterNoted = s.secondNoted x := by
  unfold State.musterNoted
  split
  · exact ⟨s.work.musterSec, rfl⟩
  · exact ⟨_, rfl⟩

/-- The event of a tile that a full ring holds back or loses. -/
def State.tileEv (s : State) : Ev :=
  { code := 0x1507, items := [(1, if s.man.work.hold then 1 else 0), (8, s.work.last + 1)], key := 1 }

/-- A full ring under WR_POLICY hold takes no sample. -/
def State.workHeld (s : State) : State :=
  let t : State := { s with work := { s.work with gap := true } }
  if t.flag R.ETH_WR_STAT_FULL then t else (t.set R.ETH_WR_STAT_FULL 1).record s.tileEv

/-- The tile of the next TILE_SEQ is free, with the loss of the one that it reuses. -/
def State.workReused (s : State) : State :=
  let t := if s.workTaken then (s.inc R.ETH_WR_STAT_LOST).record s.tileEv else s
  { t.set R.ETH_WR_STAT_FULL 0 with work := { t.work with last := s.work.last + 1 } }

theorem exec_workRecordSample_runs (hruns : s.classDRuns = true) : exec (.workRecordSample dt) s =
    match s.openTile with
    | some k => .next ((s.advance dt).musterNoted.workAdd k)
    | none =>
      if s.workTaken && s.man.work.hold then .next (s.advance dt).musterNoted.workHeld
      else .next ((s.advance dt).musterNoted.workReused.workAdd { seq := s.work.last + 1, firstAt := s.now + dt }) := by
  have hrow : exec (.workRecordSample dt) s =
      match (s.advance dt).musterNoted.openTile with
      | some k => .next ((s.advance dt).musterNoted.workAdd k)
      | none =>
        if (s.advance dt).musterNoted.workTaken && (s.advance dt).musterNoted.man.work.hold then .next (s.advance dt).musterNoted.workHeld
        else .next ((s.advance dt).musterNoted.workReused.workAdd
          { seq := (s.advance dt).musterNoted.work.last + 1, firstAt := (s.advance dt).musterNoted.workReused.now }) := by
    show execWorkRecordSample dt s = _
    unfold execWorkRecordSample
    dsimp only
    rewrite [if_neg (show (s.advance dt).man.work.channels ≠ [] from hch), show (s.advance dt).classDRuns = true from hruns]
    rfl
  obtain ⟨x, hx⟩ := (s.advance dt).musterNoted_eq
  have hnow : (s.advance dt).musterNoted.workReused.now = s.now + dt := by
    unfold State.workReused
    dsimp only
    split
    · exact (State.record_now _ _).trans (by rewrite [hx]; rfl)
    · exact (by rewrite [hx]; rfl)
  rewrite [hrow, hnow, hx]
  rfl

theorem workRecordSample_open (k : Tile) (hruns : s.classDRuns = true) (hopen : s.openTile = some k) :
    ∃ t, exec (.workRecordSample dt) s = .next t ∧
      tfind t.work.tiles (s.tileIdx k.seq) = some
        { k with recs := k.recs ++ [(s.advance dt).workBytes], sealed_ := decide (65536 < 64 + (k.recs.length + 2) * s.workRec) } ∧
      t.work.head = (if 65536 < 64 + (k.recs.length + 2) * s.workRec then k.seq else s.work.head) ∧ t.work.last = s.work.last ∧ t.work.gap = false ∧
      Framed [] { s.advance dt with work := t.work } t := by
  have hexec := exec_workRecordSample_runs dt s hch hruns
  obtain ⟨x, hx⟩ := (s.advance dt).musterNoted_eq
  have hsealed := s.openTile_open k hopen
  rewrite [hopen, hx] at hexec
  obtain ⟨w, hw, hfull, hfits, hlast, hgap⟩ := ((s.advance dt).secondNoted x).workAdd_shows k
  refine ⟨_, hexec.trans (congrArg Host.Outcome.next hw), ?_, ?_, hlast, hgap, .refl _ _⟩
  · by_cases h : 65536 < 64 + (k.recs.length + 2) * s.workRec
    · rewrite [decide_eq_true h]
      exact (hfull h).1
    · rewrite [decide_eq_false h, ← hsealed]
      exact (hfits h).1
  · by_cases h : 65536 < 64 + (k.recs.length + 2) * s.workRec
    · rewrite [if_pos h]
      exact (hfull h).2
    · rewrite [if_neg h]
      exact (hfits h).2

theorem workRecordSample_held (hruns : s.classDRuns = true) (hopen : s.openTile = none) (htaken : s.workTaken = true)
    (hhold : s.man.work.hold = true) :
    ∃ t, exec (.workRecordSample dt) s = .next t ∧ t.get R.ETH_WR_STAT_FULL = 1 ∧ t.work.gap = true ∧ t.work.tiles = s.work.tiles ∧
      t.work.last = s.work.last ∧ Framed [loc R.ETH_WR_STAT_FULL 0] { s.advance dt with work := t.work } t := by
  have hexec := exec_workRecordSample_runs dt s hch hruns
  obtain ⟨x, hx⟩ := (s.advance dt).musterNoted_eq
  rewrite [hopen, htaken, hhold, hx] at hexec
  refine ⟨_, hexec, ?_⟩
  unfold State.workHeld
  dsimp only
  split
  next hfull => exact ⟨of_decide_eq_true hfull, rfl, rfl, rfl, .refl _ _⟩
  next =>
    refine ⟨?_, ?_, ?_, ?_, ?_⟩
    · rewrite [State.record_get _ _ _ (by decide), State.get_set_same]
      rfl
    · rewrite [State.record_work]
      rfl
    · rewrite [State.record_work]
      rfl
    · rewrite [State.record_work]
      rfl
    · rewrite [State.record_work]
      exact State.record_framed _ _ (set_framed _ _ _ _ (.inl (List.mem_singleton.2 rfl)) (.refl _ _))

omit hch in
theorem State.workReused_work : s.workReused.work = { s.work with last := s.work.last + 1 } := by
  unfold State.workReused
  dsimp only
  split
  · rewrite [State.record_work]
    rfl
  · rfl

omit hch in
theorem State.workReused_shows : s.workReused.get R.ETH_WR_STAT_FULL = 0 ∧
    s.workReused.get R.ETH_WR_STAT_LOST = (if s.workTaken then (s.get R.ETH_WR_STAT_LOST + 1) % 65536 else s.get R.ETH_WR_STAT_LOST) ∧
    Framed (regKeys 0 [R.ETH_WR_STAT_FULL, R.ETH_WR_STAT_LOST]) { s with work := s.workReused.work } s.workReused := by
  have hlost : Framed (regKeys 0 [R.ETH_WR_STAT_FULL, R.ETH_WR_STAT_LOST]) s ((s.inc R.ETH_WR_STAT_LOST).record s.tileEv) :=
    State.record_framed _ _ (set_framed _ _ _ _ (.inl (by simp [regKeys])) (.refl _ _))
  have hget : ((s.inc R.ETH_WR_STAT_LOST).record s.tileEv).get R.ETH_WR_STAT_LOST = (s.get R.ETH_WR_STAT_LOST + 1) % 65536 := by
    rewrite [State.record_get _ _ _ (by decide), State.inc_eq, State.get_set_same]
    rfl
  unfold State.workReused
  dsimp only
  split
  · exact ⟨State.get_set_same _ R.ETH_WR_STAT_FULL 0 0, (State.get_set_ne _ R.ETH_WR_STAT_FULL 0 0 (by decide)).trans hget,
      (set_framed _ _ _ _ (.inl (by simp [regKeys])) hlost).withWork _⟩
  · exact ⟨State.get_set_same _ R.ETH_WR_STAT_FULL 0 0, State.get_set_ne _ R.ETH_WR_STAT_FULL 0 0 (by decide),
      (set_framed _ _ _ _ (.inl (by simp [regKeys])) (.refl _ _)).withWork _⟩

theorem workRecordSample_begins (hruns : s.classDRuns = true) (hopen : s.openTile = none) (hfree : s.workTaken = false ∨ s.man.work.hold = false) :
    ∃ t, exec (.workRecordSample dt) s = .next t ∧ t.get R.ETH_WR_STAT_FULL = 0 ∧ t.work.last = s.work.last + 1 ∧ t.work.gap = false ∧
      t.get R.ETH_WR_STAT_LOST = (if s.workTaken then (s.get R.ETH_WR_STAT_LOST + 1) % 65536 else s.get R.ETH_WR_STAT_LOST) ∧
      (tfind t.work.tiles (s.tileIdx (s.work.last + 1))).map (fun k => (k.seq, k.firstAt, k.recs)) =
        some (s.work.last + 1, s.now + dt, [(s.advance dt).workBytes]) ∧
      Framed (regKeys 0 [R.ETH_WR_STAT_FULL, R.ETH_WR_STAT_LOST]) { s.advance dt with work := t.work } t := by
  have hexec := exec_workRecordSample_runs dt s hch hruns
  have hcond : (s.workTaken && s.man.work.hold) = false := Bool.and_eq_false_iff.2 hfree
  obtain ⟨x, hx⟩ := (s.advance dt).musterNoted_eq
  rewrite [hopen, hcond, hx] at hexec
  obtain ⟨hnotFull, hlost, hframed⟩ := ((s.advance dt).secondNoted x).workReused_shows
  have hwork := ((s.advance dt).secondNoted x).workReused_work
  have hbytes : ((s.advance dt).secondNoted x).workReused.workBytes = (s.advance dt).workBytes :=
    State.workBytes_framed (s := (s.advance dt).secondNoted x) hframed
      (hframed.get_eq 0 (by decide) (by decide)) (hframed.get_eq 0 (by decide) (by decide)) (congrArg WorkSt.gap hwork :)
  have hman : ((s.advance dt).secondNoted x).workReused.man = s.man := (State.of_plain_man hframed.plain :)
  generalize ((s.advance dt).secondNoted x).workReused = u at hexec hnotFull hlost hframed hwork hbytes hman
  obtain ⟨w, hw, hfull, hfits, hlast, hgap⟩ := u.workAdd_shows { seq := s.work.last + 1, firstAt := s.now + dt }
  have hidx (n : Nat) : u.tileIdx n = s.tileIdx n := congrArg (fun m : Manifest => (n - 1) % max 1 m.work.tiles) hman
  refine ⟨_, hexec.trans (congrArg Host.Outcome.next hw), hnotFull, hlast.trans (congrArg WorkSt.last hwork), hgap, hlost, ?_, hframed.withWork w⟩
  rewrite [← hidx, ← hbytes]
  by_cases h : u.tileFull { seq := s.work.last + 1, firstAt := s.now + dt }
  · exact congrArg (Option.map _) (hfull h).1
  · exact congrArg (Option.map _) (hfits h).1

end

end

/-! ### Sealing, acknowledging and reading (R437, R438, R442) -/

section
variable (dt : Nat) (s : State)

theorem exec_workRecordTileSeal_due (k : Tile) (hopen : s.openTile = some k) (hdue : k.firstAt + s.man.work.sealS * 1000000000 ≤ s.now + dt) :
    exec (.workRecordTileSeal dt) s = .next { s.advance dt with work :=
      { s.work with tiles := tput s.work.tiles (s.tileIdx k.seq) { k with sealed_ := true }, head := k.seq } } := by
  show execWorkRecordTileSeal dt s = _
  unfold execWorkRecordTileSeal
  dsimp only
  rewrite [show (s.advance dt).openTile = some k from hopen]
  exact if_pos hdue

theorem exec_workRecordTileSeal_early (h : ∀ k, s.openTile = some k → s.now + dt < k.firstAt + s.man.work.sealS * 1000000000) :
    exec (.workRecordTileSeal dt) s = .next (s.advance dt) := by
  show execWorkRecordTileSeal dt s = _
  unfold execWorkRecordTileSeal
  dsimp only
  split
  next k hopen => exact if_neg (Nat.not_le.2 (h k hopen))
  next => rfl

/-- Both words of an acknowledgement apply. -/
def State.wrAcked (s : State) (v : Nat) : State :=
  { s.set R.ETH_WR_ACK_HI_SEQ v with work := { s.work with ack := v % 2 ^ 32 * 2 ^ 32 + s.get R.ETH_WR_ACK_LO_SEQ } }

theorem ethWrAckWrite_acks (v : Nat) (p : Port) (hv : v < 2 ^ 32) :
    ∃ t, exec (.ethWrAckWrite dt p v) s = .next t ∧ t.work = { s.work with ack := v * 2 ^ 32 + s.get R.ETH_WR_ACK_LO_SEQ } ∧
      t.get R.ETH_WR_ACK_HI_SEQ = v ∧ t.get R.ETH_WR_STAT_FULL = (if t.workTaken then s.get R.ETH_WR_STAT_FULL else 0) ∧
      Framed (regKeys 0 [R.ETH_WR_ACK_HI_SEQ, R.ETH_WR_STAT_FULL]) { s.advance dt with work := t.work } t := by
  have hexec : exec (.ethWrAckWrite dt p v) s = .next (if ((s.advance dt).wrAcked v).workTaken then (s.advance dt).wrAcked v
      else ((s.advance dt).wrAcked v).set R.ETH_WR_STAT_FULL 0) := rfl
  have hwork : ((s.advance dt).wrAcked v).work = { s.work with ack := v * 2 ^ 32 + s.get R.ETH_WR_ACK_LO_SEQ } := by
    unfold State.wrAcked
    rewrite [Nat.mod_eq_of_lt hv]
    rfl
  have hhi : ((s.advance dt).wrAcked v).get R.ETH_WR_ACK_HI_SEQ = v :=
    (State.get_set_same _ R.ETH_WR_ACK_HI_SEQ v 0).trans (Nat.mod_eq_of_lt hv)
  have hfull : ((s.advance dt).wrAcked v).get R.ETH_WR_STAT_FULL = s.get R.ETH_WR_STAT_FULL := State.get_set_ne _ _ _ _ (by decide)
  have hframed : Framed (regKeys 0 [R.ETH_WR_ACK_HI_SEQ, R.ETH_WR_STAT_FULL]) { s.advance dt with work := ((s.advance dt).wrAcked v).work }
      ((s.advance dt).wrAcked v) := (set_framed _ _ _ _ (.inl (by simp [regKeys])) (.refl _ _) : Framed _ _ ((s.advance dt).set _ _)).withWork _
  generalize (s.advance dt).wrAcked v = u at hexec hwork hhi hfull hframed
  by_cases htaken : u.workTaken = true
  · rewrite [if_pos htaken] at hexec
    exact ⟨_, hexec, hwork, hhi, hfull.trans (if_pos htaken).symm, hframed⟩
  · rewrite [if_neg htaken] at hexec
    exact ⟨_, hexec, hwork, (State.get_set_ne _ _ _ _ (by decide)).trans hhi,
      (State.get_set_same _ R.ETH_WR_STAT_FULL 0 0).trans (if_neg (show ¬ (u.set R.ETH_WR_STAT_FULL 0).workTaken = true from htaken)).symm,
      set_framed _ _ _ _ (.inl (by simp [regKeys])) hframed⟩

theorem ethWrHeadLoRead_latches (p : Port) :
    ∃ t, exec (.ethWrHeadLoRead dt p) s = .next t ∧ (t.port p).rdata = s.work.head % 2 ^ 32 ∧ t.work = { s.work with latchHi := s.work.head / 2 ^ 32 } ∧
      t.regs = s.regs ∧ t.port (if p = .spi then .pcie else .spi) = s.port (if p = .spi then .pcie else .spi) := by
  refine ⟨_, rfl, State.readBack_rdata _ _ _, ?_⟩
  cases p with
  | pcie => exact ⟨rfl, rfl, rfl⟩
  | spi => exact ⟨rfl, rfl, rfl⟩

end

/-- Settles O56: a report waits with its number; a sample enters the open tile or the next one as the ring and WR_POLICY allow
(logs 233, 234, 238, 239, 264). -/
theorem dispatchAndWorkRecord : Obligations.DispatchAndWorkRecord := by
  unfold Obligations.DispatchAndWorkRecord
  exact ⟨dispatchReport_waits, exec_dispatchReport_gap, exec_dispatchReport_none, exec_workRecordSample_none, exec_workRecordSample_gap,
    fun dt k s hch => workRecordSample_open dt s hch k, workRecordSample_held, workRecordSample_begins,
    fun dt k s => exec_workRecordTileSeal_due dt s k, exec_workRecordTileSeal_early,
    fun dt v p s => ethWrAckWrite_acks dt s v p, fun dt p s => ethWrHeadLoRead_latches dt s p⟩

end Sys2Proof.Machine
end

section
set_option Elab.async false
/-!
PROOF of the statement of 19_event_recorder.md (EventRecorder): what a record and its traffic leave alone in the recorder, then each command.
-/

namespace Sys2Proof.Machine

open Sys2Proof

/-! ### What recording leaves alone (R445, R446, R471) -/

/-- The recorder without what a new record changes: the rings in RAM, their head, and the losses. -/
def RecSt.base (l : RecSt) : RecSt :=
  { l with head := 0, ram := [], hold := [], isOpen := false, lastAt := 0, lostSeqs := [], lostRam := 0, lostHold := 0, lostFirstR := 0, lostFirstH := 0 }

section
variable (s : State)

theorem State.base_of_log {t : State} (h : t.log = s.log) : t.log.base = s.log.base := congrArg RecSt.base h

@[simp] theorem State.raise_base (v : Nat) : (s.raise v).log.base = s.log.base := State.base_of_log s (State.raise_log _ _)

@[simp] theorem State.evt_base (f : Fld) (b : Nat) : (s.evt f b).log.base = s.log.base := State.base_of_log s (State.evt_log _ _ _)

@[simp] theorem State.inc_log (f : Fld) (b n : Nat) : (s.inc f b n).log = s.log := rfl

theorem State.ite_base {c : Prop} [Decidable c] {t u : State} (ht : t.log.base = s.log.base) (hu : u.log.base = s.log.base) :
    (if c then t else u).log.base = s.log.base := by
  split
  · exact ht
  · exact hu

@[simp] theorem State.ramPush_base (r : Rec) : (s.ramPush r).log.base = s.log.base := by
  unfold State.ramPush
  dsimp only
  exact State.ite_base s ((State.evt_base _ _ _).trans (State.ite_base s rfl (State.evt_base _ _ _))) (State.ite_base s rfl (State.evt_base _ _ _))

@[simp] theorem State.holdPush_base (r : Rec) : (s.holdPush r).log.base = s.log.base := by
  unfold State.holdPush
  exact State.ite_base s rfl (State.evt_base _ _ _)

@[simp] theorem State.logEvent_base (e : Ev) : (s.logEvent e).log.base = s.log.base := by
  unfold State.logEvent
  dsimp only
  split
  · exact State.ite_base s rfl rfl
  · exact State.ite_base s (State.ramPush_base _ _) (State.holdPush_base _ _)

@[simp] theorem State.ringAdd_base (n : Nat) (msg : List Env) : (s.ringAdd n msg).log.base = s.log.base := by
  unfold State.ringAdd
  dsimp only
  exact State.ite_base s (State.raise_base _ _) rfl

@[simp] theorem State.dropped_base (n : Nat) : (s.dropped n).log.base = s.log.base := State.evt_base _ _ _

@[simp] theorem State.makeRoom_base (n need : Nat) : (s.makeRoom n need).2.log.base = s.log.base := by
  unfold State.makeRoom
  dsimp only
  split <;> rfl

@[simp] theorem State.discardAll_base (n : Nat) (l : List (List Env)) : (s.discardAll n l).log.base = s.log.base := by
  induction l generalizing s with
  | nil => rfl
  | cons m l ih =>
    unfold State.discardAll
    rw [ih, State.logEvent_base, State.dropped_base]

@[simp] theorem State.deadLetter_base (n : Nat) (msg : List Env) (reason : Nat) : (s.deadLetter n msg reason).log.base = s.log.base := by
  unfold State.deadLetter
  dsimp only
  rewrite [State.logEvent_base, State.evt_base]
  exact State.ite_base s (by simp) (by simp)

@[simp] theorem State.evictAll_base (n : Nat) (l : List (List Env)) : (s.evictAll n l).log.base = s.log.base := by
  induction l generalizing s with
  | nil => rfl
  | cons m l ih =>
    unfold State.evictAll
    rw [ih, State.deadLetter_base, State.dropped_base]

@[simp] theorem State.deliver_base (n : Nat) (msg : List Env) : (s.deliver n msg).log.base = s.log.base := by
  unfold State.deliver
  dsimp only
  exact State.ite_base s (by simp) (State.ite_base s (State.ite_base s (by simp) (by simp))
    (State.ite_base s (by simp) (State.ite_base s (by simp) (State.ite_base s (by simp) (by simp)))))

@[simp] theorem State.send_base (n kind origin : Nat) (payload : List Nat) (pm : Pm) : (s.send n kind origin payload pm).log.base = s.log.base :=
  State.deliver_base _ _ _

@[simp] theorem State.alarmEnv_base (entry st change : Nat) (a : AlarmEnt) (role : Role) (keyId : Nat) :
    (s.alarmEnv entry st change a role keyId).log.base = s.log.base := State.send_base _ _ _ _ _ _

@[simp] theorem State.alarmRaise_base (code source : Nat) : (s.alarmRaise code source).log.base = s.log.base := by
  unfold State.alarmRaise
  split
  · exact State.ite_base s rfl (by simp)
  · split <;> simp

@[simp] theorem State.alarmClear_base (code source : Nat) : (s.alarmClear code source).log.base = s.log.base := by
  unfold State.alarmClear
  split
  · exact State.ite_base s (by simp) (State.ite_base s (by simp) rfl)
  · rfl

/-- A record leaves flash, the marks, the erase and the fetch as they were. -/
@[simp] theorem State.record_base (e : Ev) : (s.record e).log.base = s.log.base := by
  unfold State.record
  dsimp only
  exact State.ite_base s (State.ite_base s (by simp) (by simp)) (by simp)

@[simp] theorem State.rwlIgnored_base (p : Port) (off : Nat) : (s.rwlIgnored p off).log.base = s.log.base := State.record_base _ _

end

section
variable {ks : List Nat} {s t : State}

/-- The recorder is told of a command: its content is outside the frame. -/
theorem Framed.withLog (x : RecSt) (h : Framed ks s t) : Framed ks s { t with log := x } := ⟨h.plain, h.2⟩

end

/-! ### The open record (R448) -/

section
variable (dt : Nat) (s : State)

theorem exec_openRecordTimeout_closes (hopen : s.log.isOpen = true) (hdue : s.log.lastAt + 10000000000 ≤ s.now + dt) :
    exec (.openRecordTimeout dt) s = .next { s.advance dt with log := { s.log with isOpen := false } } := by
  show execOpenRecordTimeout dt s = _
  unfold execOpenRecordTimeout
  exact if_pos (Bool.and_eq_true_iff.2 ⟨hopen, decide_eq_true hdue⟩)

theorem exec_openRecordTimeout_idle (h : s.log.isOpen = false ∨ s.now + dt < s.log.lastAt + 10000000000) :
    exec (.openRecordTimeout dt) s = .next (s.advance dt) := by
  show execOpenRecordTimeout dt s = _
  unfold execOpenRecordTimeout
  refine if_neg fun hdue => ?_
  obtain ⟨hopen, hlate⟩ := Bool.and_eq_true_iff.1 hdue
  rcases h with h | h
  · exact Bool.false_ne_true (h.symm.trans hopen)
  · exact absurd (of_decide_eq_true hlate) (Nat.not_le.2 h)

/-! ### RECORDER_FLUSH (R447, R448) -/

/-- A flush is held, with its reason shown and the instant since when noted. -/
def State.flushHeld (s : State) (n : Nat) : State :=
  let t := s.set R.LOG_STAT_HOLD_REASON n
  if s.toFlush = [] then t else { t with log := { t.log with heldAt := match t.log.heldAt with | some t => some t | none => some t.now } }

/-- A flush runs: no reason holds it. -/
def State.flushOpened (s : State) : State :=
  { s.set R.LOG_STAT_HOLD_REASON 0 with log := { s.log with heldAt := none, heldNoted := false } }

theorem State.flushHeld_log (n : Nat) :
    (s.flushHeld n).log = { s.log with heldAt := if s.toFlush = [] then s.log.heldAt else some (s.log.heldAt.getD s.now) } := by
  unfold State.flushHeld
  dsimp only
  by_cases h : s.toFlush = []
  · rewrite [if_pos h, if_pos h]
    rfl
  · rewrite [if_neg h, if_neg h]
    rewrite [show (s.set R.LOG_STAT_HOLD_REASON n).log = s.log from rfl]
    cases s.log.heldAt <;> rfl

theorem State.flushHeld_shows (n : Nat) (h8 : n < 8) : (s.flushHeld n).get R.LOG_STAT_HOLD_REASON = n ∧
    Framed [loc R.LOG_STAT_HOLD_REASON 0] s (s.flushHeld n) := by
  have hget : (s.set R.LOG_STAT_HOLD_REASON n).get R.LOG_STAT_HOLD_REASON = n := (State.get_set_same _ _ _ _).trans (Nat.mod_eq_of_lt h8)
  have hframed : Framed [loc R.LOG_STAT_HOLD_REASON 0] s (s.set R.LOG_STAT_HOLD_REASON n) :=
    set_framed _ _ _ _ (.inl (List.mem_singleton.2 rfl)) (.refl _ _)
  unfold State.flushHeld
  dsimp only
  by_cases h : s.toFlush = []
  · rewrite [if_pos h]
    exact ⟨hget, hframed⟩
  · rewrite [if_neg h]
    exact ⟨hget, hframed.withLog _⟩

theorem State.flushHold_cases : (s.nvmOpen = false → s.flushHold = 1) ∧ (s.nvmOpen = true → s.get R.PWR_STAT_DEPTH = 3 → s.flushHold = 2) ∧
    (s.nvmOpen = true → s.get R.PWR_STAT_DEPTH ≠ 3 → s.get R.PWR_FC_STAT_SHED_H = 1 → s.log.unflushed.length ≤ 12288 → s.flushHold = 3) ∧
    (s.flushHold = 4 → s.mnf.waiting ≠ []) ∧ s.flushHold < 8 := by
  unfold State.flushHold
  refine ⟨fun h => ?_, fun h hd => ?_, fun h hd hh hl => ?_, fun h => ?_, ?_⟩
  · exact if_pos (by rewrite [h]; rfl)
  · rw [if_neg (by rewrite [h]; decide), if_pos hd]
  · rw [if_neg (by rewrite [h]; decide), if_neg hd, if_pos (by simp [State.classHShed, State.flag, hh, State.ram75, hl])]
  · intro hw
    rewrite [if_neg (not_not_intro hw)] at h
    split at h
    · exact absurd h (by decide)
    · split at h
      · exact absurd h (by decide)
      · split at h
        · exact absurd h (by decide)
        · exact absurd h (by decide)
  · split
    · decide
    · split
      · decide
      · split
        · decide
        · split <;> decide

theorem recorderFlush_held (n : Nat) (ok : Bool) (hn : s.flushHold = n) (h0 : n ≠ 0) :
    ∃ t, exec (.recorderFlush dt ok) s = .next t ∧ t.get R.LOG_STAT_HOLD_REASON = n ∧ (s.nvmOpen = false → n = 1) ∧
      (s.nvmOpen = true → s.get R.PWR_STAT_DEPTH = 3 → n = 2) ∧
      (s.nvmOpen = true → s.get R.PWR_STAT_DEPTH ≠ 3 → s.get R.PWR_FC_STAT_SHED_H = 1 → s.log.unflushed.length ≤ 12288 → n = 3) ∧
        (n = 4 → s.mnf.waiting ≠ []) ∧
      t.log = { s.log with heldAt := if s.toFlush = [] then s.log.heldAt else some (s.log.heldAt.getD (s.now + dt)) } ∧
      Framed [loc R.LOG_STAT_HOLD_REASON 0] (s.advance dt) t := by
  subst hn
  have hexec : exec (.recorderFlush dt ok) s = .next ((s.advance dt).flushHeld s.flushHold) := by
    show execRecorderFlush dt ok s = _
    unfold execRecorderFlush
    dsimp only
    rewrite [show (s.advance dt).flushHold = s.flushHold from rfl, if_pos h0]
    rfl
  obtain ⟨h1, h2, h3, h4, h8⟩ := s.flushHold_cases
  obtain ⟨hget, hframed⟩ := (s.advance dt).flushHeld_shows s.flushHold h8
  exact ⟨_, hexec, hget, h1, h2, h3, h4, State.flushHeld_log _ _, hframed⟩

theorem State.flushOpened_shows : s.flushOpened.get R.LOG_STAT_HOLD_REASON = 0 ∧ Framed [loc R.LOG_STAT_HOLD_REASON 0] s s.flushOpened :=
  ⟨State.get_set_same _ R.LOG_STAT_HOLD_REASON 0 0,
    (set_framed _ _ _ _ (.inl (List.mem_singleton.2 rfl)) (.refl _ _) : Framed _ s (s.set R.LOG_STAT_HOLD_REASON 0)).withLog _⟩

section
variable (ok : Bool) (h0 : s.flushHold = 0) (hnoted : s.log.heldNoted = false) (hshed : s.get R.PWR_FC_STAT_SHED_H ≠ 1)
include h0 hnoted hshed

theorem exec_recorderFlush_runs : exec (.recorderFlush dt ok) s =
    if s.toFlush = [] then .next (s.advance dt).flushOpened else .next ((s.advance dt).flushOpened.flushNow ok) := by
  have hclass : (s.advance dt).flushOpened.classHShed = false :=
    decide_eq_false fun h => hshed ((State.get_set_ne (s.advance dt) R.LOG_STAT_HOLD_REASON 0 0 (by decide)).symm.trans h)
  show execRecorderFlush dt ok s = _
  unfold execRecorderFlush
  dsimp only
  rewrite [show (s.advance dt).flushHold = 0 from h0, if_neg (not_not_intro rfl)]
  rewrite [show ((s.advance dt).set R.LOG_STAT_HOLD_REASON 0).log = s.log from rfl, hnoted, if_neg Bool.false_ne_true]
  change (let u := if (s.advance dt).flushOpened.classHShed then (s.advance dt).flushOpened.record _ else (s.advance dt).flushOpened
    if u.toFlush = [] then Host.Outcome.next u else Host.Outcome.next (u.flushNow ok)) = _
  rewrite [hclass, if_neg Bool.false_ne_true]
  rfl

theorem recorderFlush_nothing (hnone : s.toFlush = []) :
    ∃ t, exec (.recorderFlush dt ok) s = .next t ∧ t.get R.LOG_STAT_HOLD_REASON = 0 ∧ t.log = { s.log with heldAt := none } ∧
      Framed [loc R.LOG_STAT_HOLD_REASON 0] (s.advance dt) t := by
  have hexec := exec_recorderFlush_runs dt s ok h0 hnoted hshed
  rewrite [if_pos hnone] at hexec
  obtain ⟨hget, hframed⟩ := (s.advance dt).flushOpened_shows
  have hlog : ({ s.log with heldAt := none, heldNoted := s.log.heldNoted } : RecSt) = { s.log with heldAt := none } := rfl
  rewrite [hnoted] at hlog
  exact ⟨_, hexec, hget, hlog, hframed⟩

end

/-- The records of a flush stand in flash, with the markers of the lost ones. -/
def State.flushWritten (s : State) (top : Nat) (l : List Rec) : State :=
  { s with log := { s.log with
    flash := (l.reverse ++ (s.log.lostSeqs.filter (· ≤ top)).map lostMarker).foldl (fun f r => tput f (flashPos r.seq) r) s.log.flash
    flushed := top
    lostSeqs := s.log.lostSeqs.filter (fun x => ¬ x ≤ top)
    erasedAhead := s.log.erasedAhead - ((top + 1) / 1024 - (s.log.flushed + 1) / 1024) } }

/-- The ring state is journalled when the RAM ring is empty or a sector is complete. -/
def State.flushJournalled (s : State) (sectors top : Nat) : State :=
  if s.log.unflushed.length ≤ 1 || 0 < sectors then s.journalWait 4 [top] else s

theorem State.flushJournalled_eq (sectors top : Nat) : ∃ m, s.flushJournalled sectors top = { s with mnf := m } := by
  unfold State.flushJournalled
  split
  · exact ⟨_, rfl⟩
  · exact ⟨s.mnf, rfl⟩

theorem State.flushJournalled_log (sectors top : Nat) : (s.flushJournalled sectors top).log = s.log := by
  obtain ⟨m, hm⟩ := s.flushJournalled_eq sectors top
  rw [hm]

theorem State.lossRecord_none (cause : Nat) (hram : s.log.lostRam = 0) (hhold : s.log.lostHold = 0) : s.lossRecord cause = s := by
  unfold State.lossRecord
  dsimp only
  refine if_pos ?_
  split
  · exact hram
  · exact hhold

theorem State.flushNow_written (r : Rec) (l : List Rec) (hf : s.toFlush = r :: l) (hram : s.log.lostRam = 0) (hhold : s.log.lostHold = 0) :
    s.flushNow true = (s.flushWritten r.seq (r :: l)).flushJournalled ((r.seq + 1) / 1024 - (s.log.flushed + 1) / 1024) r.seq := by
  have hrow : s.flushNow true =
      (((s.flushWritten r.seq (r :: l)).flushJournalled ((r.seq + 1) / 1024 - (s.log.flushed + 1) / 1024) r.seq).lossRecord 1).lossRecord 2 := by
    unfold State.flushNow
    dsimp only
    rewrite [hf, if_pos rfl]
    rfl
  have hlog := (s.flushWritten r.seq (r :: l)).flushJournalled_log ((r.seq + 1) / 1024 - (s.log.flushed + 1) / 1024) r.seq
  generalize (s.flushWritten r.seq (r :: l)).flushJournalled _ _ = u at hrow hlog ⊢
  have hnone (cause : Nat) : u.lossRecord cause = u := u.lossRecord_none cause (by rewrite [hlog]; exact hram) (by rewrite [hlog]; exact hhold)
  rw [hrow, hnone, hnone]

theorem recorderFlush_written (r : Rec) (l : List Rec) (h0 : s.flushHold = 0) (hf : s.toFlush = r :: l) (hnoted : s.log.heldNoted = false)
    (hshed : s.get R.PWR_FC_STAT_SHED_H ≠ 1) (hlost : s.log.lostSeqs = []) (hram : s.log.lostRam = 0) (hhold : s.log.lostHold = 0) :
    ∃ t, exec (.recorderFlush dt true) s = .next t ∧ t.get R.LOG_STAT_HOLD_REASON = 0 ∧ t.log.flushed = r.seq ∧ t.log.heldAt = none ∧
      t.log.flash = (r :: l).reverse.foldl (fun f x => tput f (flashPos x.seq) x) s.log.flash ∧ t.log.ram = s.log.ram ∧ t.log.head = s.log.head ∧
      Framed [loc R.LOG_STAT_HOLD_REASON 0] { s.advance dt with mnf := t.mnf } t := by
  have hexec := exec_recorderFlush_runs dt s true h0 hnoted hshed
  rewrite [if_neg (by rewrite [hf]; exact List.cons_ne_nil _ _), (s.advance dt).flushOpened.flushNow_written r l hf hram hhold] at hexec
  obtain ⟨hget, hframed⟩ := (s.advance dt).flushOpened_shows
  obtain ⟨m, hm⟩ := ((s.advance dt).flushOpened.flushWritten r.seq (r :: l)).flushJournalled_eq
    ((r.seq + 1) / 1024 - ((s.advance dt).flushOpened.log.flushed + 1) / 1024) r.seq
  have hflash : ((s.advance dt).flushOpened.flushWritten r.seq (r :: l)).log.flash =
      (r :: l).reverse.foldl (fun f x => tput f (flashPos x.seq) x) s.log.flash := by
    unfold State.flushWritten
    dsimp only
    rewrite [show (s.advance dt).flushOpened.log.lostSeqs = [] from hlost, List.filter_nil, List.map_nil, List.append_nil]
    rfl
  rewrite [hm] at hexec
  exact ⟨_, hexec, hget, rfl, rfl, hflash, rfl, rfl, (hframed.withLog _).withMnf m⟩

/-- A flush whose readback differs from what was written. -/
def State.flushFailed (s : State) : State := (s.set R.LOG_STAT_FLASH_ERR 1).evt R.LOG_EVT_FLASH_ERR

theorem State.flushNow_failed : ∃ items, s.flushNow false = s.flushFailed.alarm 0x1608 0xFFFF items 1 := ⟨_, rfl⟩

theorem recorderFlush_failed (r : Rec) (l : List Rec) (h0 : s.flushHold = 0) (hf : s.toFlush = r :: l) (hnoted : s.log.heldNoted = false)
    (hshed : s.get R.PWR_FC_STAT_SHED_H ≠ 1) :
    ∃ t, exec (.recorderFlush dt false) s = .next t ∧ t.get R.LOG_STAT_FLASH_ERR = 1 ∧ t.get R.LOG_EVT_FLASH_ERR = 1 ∧ t.log.flash = s.log.flash ∧
      t.log.flushed = s.log.flushed ∧ Framed (regKeys 0 [R.LOG_STAT_HOLD_REASON, R.LOG_STAT_FLASH_ERR, R.LOG_EVT_FLASH_ERR]) (s.advance dt) t := by
  have hexec := exec_recorderFlush_runs dt s false h0 hnoted hshed
  obtain ⟨items, hrow⟩ := (s.advance dt).flushOpened.flushNow_failed
  rewrite [if_neg (by rewrite [hf]; exact List.cons_ne_nil _ _), hrow] at hexec
  obtain ⟨-, hframed⟩ := (s.advance dt).flushOpened_shows
  have hbase : ((s.advance dt).flushOpened.flushFailed.alarm 0x1608 0xFFFF items 1).log.base = (s.advance dt).flushOpened.log.base :=
    (State.record_base _ _).trans (State.evt_base _ _ _)
  refine ⟨_, hexec, ?_, ?_, (congrArg RecSt.flash hbase :), (congrArg RecSt.flushed hbase :), ?_⟩
  · rewrite [State.alarm_get _ _ _ _ _ _ (by decide)]
    unfold State.flushFailed
    rewrite [State.evt_get_ne _ _ _ (by decide) (by decide), State.get_set_same]
    rfl
  · rewrite [State.alarm_get _ _ _ _ _ _ (by decide)]
    exact State.evt_get_same _ _ _ (by decide)
  · exact State.alarm_framed _ _ _ _ _ (State.evt_framed _ _ _ (.inl (by simp [regKeys])) (set_framed _ _ _ _ (.inl (by simp [regKeys]))
      (hframed.mono (by simp [regKeys]))))

/-! ### Sectors and held flushes (R447, R458) -/

theorem sectorEraseDone_erases (h : s.log.erasedAhead < 3) :
    ∃ t, exec (.sectorEraseDone dt) s = .next t ∧ t.log.erasedAhead = s.log.erasedAhead + 1 ∧
      (∀ x ∈ t.log.flash, x.1 / 1024 ≠ ((s.log.flushed + 1) / 1024 + s.log.erasedAhead + 1) % 1028) ∧ (∀ x ∈ t.log.flash, x ∈ s.log.flash) ∧
      Framed [] (s.advance dt) t := by
  have hexec : exec (.sectorEraseDone dt) s = .next { s.advance dt with log := { s.log with
      erasedAhead := s.log.erasedAhead + 1,
      flash := s.log.flash.filter fun x => x.1 / 1024 ≠ ((s.log.flushed + 1) / 1024 + s.log.erasedAhead + 1) % 1028 } } := by
    show execSectorEraseDone dt s = _
    unfold execSectorEraseDone
    exact if_neg (Nat.not_le.2 h)
  exact ⟨_, hexec, rfl, fun x hx => of_decide_eq_true (List.mem_filter.1 hx).2, fun x hx => (List.mem_filter.1 hx).1, (Framed.refl _ _).withLog _⟩

theorem exec_sectorEraseDone_idle (h : 3 ≤ s.log.erasedAhead) : exec (.sectorEraseDone dt) s = .next (s.advance dt) := by
  show execSectorEraseDone dt s = _
  unfold execSectorEraseDone
  exact if_pos h

theorem flushHeldTimeout_records (a : Nat) (hat : s.log.heldAt = some a) (hdue : a + 60000000000 ≤ s.now + dt) (hnoted : s.log.heldNoted = false) :
    ∃ t, exec (.flushHeldTimeout dt) s = .next t ∧ t.log.heldNoted = true ∧ t.log.heldAt = some a ∧ t.log.flushed = s.log.flushed ∧
      Framed [] (s.advance dt) t := by
  have hexec : exec (.flushHeldTimeout dt) s = .next (({ s.advance dt with log := { s.log with heldNoted := true } } : State).record
      { code := 0x1605, items := [(1, s.get R.LOG_STAT_HOLD_REASON), (2, s.log.unflushedCount)], key := 1 }) := by
    have hnote : (decide (a + 60000000000 ≤ (s.advance dt).now) && !(s.advance dt).log.heldNoted) = true :=
      Bool.and_eq_true_iff.2 ⟨decide_eq_true hdue, by rewrite [show (s.advance dt).log.heldNoted = false from hnoted]; rfl⟩
    show execFlushHeldTimeout dt s = _
    unfold execFlushHeldTimeout
    dsimp only
    rewrite [show (s.advance dt).log.heldAt = some a from hat]
    dsimp only
    rewrite [if_pos hnote, ← hat]
    rfl
  have hbase := State.record_base { s.advance dt with log := { s.log with heldNoted := true } }
    { code := 0x1605, items := [(1, s.get R.LOG_STAT_HOLD_REASON), (2, s.log.unflushedCount)], key := 1 }
  exact ⟨_, hexec, (congrArg RecSt.heldNoted hbase :), (congrArg RecSt.heldAt hbase :).trans hat, (congrArg RecSt.flushed hbase :),
    State.record_framed _ _ ((Framed.refl _ _).withLog _)⟩

theorem exec_flushHeldTimeout_idle (h : ∀ a, s.log.heldAt = some a → s.now + dt < a + 60000000000 ∨ s.log.heldNoted = true) :
    exec (.flushHeldTimeout dt) s = .next (s.advance dt) := by
  show execFlushHeldTimeout dt s = _
  unfold execFlushHeldTimeout
  dsimp only
  split
  next a hat =>
    refine if_neg fun hdue => ?_
    obtain ⟨hlate, hno⟩ := Bool.and_eq_true_iff.1 hdue
    rcases h a hat with hearly | hnoted
    · exact absurd (of_decide_eq_true hlate) (Nat.not_le.2 hearly)
    · rewrite [show (s.advance dt).log.heldNoted = true from hnoted] at hno
      exact Bool.false_ne_true hno
  next => rfl

end

/-! ### Fetches and the reads of 64-bit values (R454, R457) -/

section
variable (dt : Nat) (s : State)

/-- A fetch with its SEQ shown; its state is still to be shown. -/
def State.fetchNoted (s : State) (hi : Nat) : State :=
  { s.set R.LOG_RD_SEQ_HI_SEQ hi with log := { s.log with rdSeq := hi % 2 ^ 32 * 2 ^ 32 + s.get R.LOG_RD_SEQ_LO_SEQ, fetchAt := some s.now } }

theorem logFetchStart_starts (hi : Nat) (p : Port) :
    ∃ t, exec (.logFetchStart dt p hi) s = .next t ∧
      t.log = { s.log with rdSeq := hi % 2 ^ 32 * 2 ^ 32 + s.get R.LOG_RD_SEQ_LO_SEQ, fetchAt := some (s.now + dt) } ∧
      t.get R.LOG_RD_STAT_BUSY = 1 ∧ t.get R.LOG_RD_STAT_READY = 0 ∧ t.get R.LOG_RD_SEQ_HI_SEQ = hi % 2 ^ 32 ∧
      Framed (regKeys 0 [R.LOG_RD_SEQ_HI_SEQ, R.LOG_RD_STAT_BUSY, R.LOG_RD_STAT_READY]) (s.advance dt) t := by
  have hhi : ((s.advance dt).set R.LOG_RD_SEQ_HI_SEQ hi).get R.LOG_RD_SEQ_HI_SEQ = hi % 2 ^ 32 := State.get_set_same _ _ _ _
  have hexec : exec (.logFetchStart dt p hi) s =
      .next ((((s.advance dt).fetchNoted hi).set R.LOG_RD_STAT_BUSY 1).set R.LOG_RD_STAT_READY 0) := by
    show execLogFetchStart dt p hi s = _
    unfold execLogFetchStart
    dsimp only
    rewrite [hhi, State.get_set_ne _ _ _ _ (by decide)]
    rfl
  have hshown : ((s.advance dt).fetchNoted hi).get R.LOG_RD_SEQ_HI_SEQ = hi % 2 ^ 32 := hhi
  have hlog : ((s.advance dt).fetchNoted hi).log =
      { s.log with rdSeq := hi % 2 ^ 32 * 2 ^ 32 + s.get R.LOG_RD_SEQ_LO_SEQ, fetchAt := some (s.now + dt) } := rfl
  have hframed : Framed (regKeys 0 [R.LOG_RD_SEQ_HI_SEQ, R.LOG_RD_STAT_BUSY, R.LOG_RD_STAT_READY]) (s.advance dt) ((s.advance dt).fetchNoted hi) :=
    (set_framed _ _ _ _ (.inl (by simp [regKeys])) (.refl _ _) : Framed _ _ ((s.advance dt).set R.LOG_RD_SEQ_HI_SEQ hi)).withLog _
  generalize (s.advance dt).fetchNoted hi = u at hexec hshown hlog hframed
  refine ⟨_, hexec, hlog, ?_, State.get_set_same _ R.LOG_RD_STAT_READY 0 0, ?_,
    set_framed _ _ _ _ (.inl (by simp [regKeys])) (set_framed _ _ _ _ (.inl (by simp [regKeys])) hframed)⟩
  · rewrite [State.get_set_ne _ _ _ _ (by decide), State.get_set_same]
    rfl
  · rw [State.get_set_ne _ _ _ _ (by decide), State.get_set_ne _ _ _ _ (by decide), hshown]

/-- The record at a position is the one asked for. -/
def State.heldAtSeq (s : State) (i : Nat) : Bool := (s.recordAt (s.log.rdSeq + i)).any fun r => r.seq = s.log.rdSeq + i

/-- The 32 records from the SEQ asked for. -/
def State.fetchWindow (s : State) : List (Option Rec) := (List.range 32).map fun i => s.recordAt (s.log.rdSeq + i)

theorem zipIdx_map_range {α : Type} (f : Nat → α) (n : Nat) : ((List.range n).map f).zipIdx = (List.range n).map fun i => (f i, i) :=
  List.ext_getElem (by simp) fun i _ _ => by simp

/-- How many of the 32 positions hold the record asked for. -/
def State.fetchHeld (s : State) : Nat := ((List.range 32).filter s.heldAtSeq).length

theorem State.fetchHeld_lt : s.fetchHeld < 64 :=
  Nat.lt_of_le_of_lt (List.length_filter_le _ _) (by rewrite [List.length_range]; decide)

theorem State.fetchWindow_held : (s.fetchWindow.zipIdx.filter fun x => match x.1 with | some r => decide (r.seq = s.log.rdSeq + x.2) | none => false).length =
    s.fetchHeld := by
  unfold State.fetchWindow State.fetchHeld
  rewrite [zipIdx_map_range, List.filter_map, List.length_map]
  congr 2
  funext i
  unfold State.heldAtSeq
  dsimp only [Function.comp]
  cases s.recordAt (s.log.rdSeq + i) <;> rfl

/-- The fetch is over and its window filled. -/
def State.fetchFilled (s : State) : State := { s with log := { s.log with window := s.fetchWindow, fetchAt := none } }

theorem logFetchDone_fills (a : Nat) (hat : s.log.fetchAt = some a) :
    ∃ t, exec (.logFetchDone dt) s = .next t ∧ t.log =
        { s.log with window := (List.range 32).map (fun i => s.recordAt (s.log.rdSeq + i)), fetchAt := none } ∧
      t.get R.LOG_RD_STAT_BUSY = 0 ∧ t.get R.LOG_RD_STAT_READY = 1 ∧
      t.get R.LOG_RD_STAT_HELD = ((List.range 32).filter fun i => (s.recordAt (s.log.rdSeq + i)).any fun r => r.seq = s.log.rdSeq + i).length ∧
      Framed (regKeys 0 [R.LOG_RD_STAT_BUSY, R.LOG_RD_STAT_READY, R.LOG_RD_STAT_HELD]) (s.advance dt) t := by
  have hexec : exec (.logFetchDone dt) s =
      .next ((((s.advance dt).fetchFilled.set R.LOG_RD_STAT_BUSY 0).set R.LOG_RD_STAT_READY 1).set R.LOG_RD_STAT_HELD s.fetchHeld) := by
    show execLogFetchDone dt s = _
    unfold execLogFetchDone
    dsimp only
    rewrite [show (s.advance dt).log.fetchAt = some a from hat, ← s.fetchWindow_held]
    rfl
  have hlog : (s.advance dt).fetchFilled.log = { s.log with window := s.fetchWindow, fetchAt := none } := rfl
  have hframed : Framed (regKeys 0 [R.LOG_RD_STAT_BUSY, R.LOG_RD_STAT_READY, R.LOG_RD_STAT_HELD]) (s.advance dt) (s.advance dt).fetchFilled :=
    (Framed.refl _ _).withLog _
  generalize (s.advance dt).fetchFilled = u at hexec hlog hframed
  refine ⟨_, hexec, hlog, ?_, ?_, (State.get_set_same _ _ _ _).trans (Nat.mod_eq_of_lt s.fetchHeld_lt), set_framed _ _ _ _ (.inl (by simp [regKeys]))
    (set_framed _ _ _ _ (.inl (by simp [regKeys])) (set_framed _ _ _ _ (.inl (by simp [regKeys])) hframed))⟩
  · rewrite [State.get_set_ne _ _ _ _ (by decide), State.get_set_ne _ _ _ _ (by decide), State.get_set_same]
    rfl
  · rewrite [State.get_set_ne _ _ _ _ (by decide), State.get_set_same]
    rfl

theorem exec_logFetchDone_idle (h : s.log.fetchAt = none) : exec (.logFetchDone dt) s = .next (s.advance dt) := by
  show execLogFetchDone dt s = _
  unfold execLogFetchDone
  dsimp only
  rw [show (s.advance dt).log.fetchAt = none from h]

/-- The read of a _LO register has latched its _HI word. -/
def State.pairLatched (s : State) (off : Nat) : State := { s with log := { s.log with latchHi := tput s.log.latchHi (off + 4) (s.logPair off / 2 ^ 32) } }

theorem State.logRead_shows (p : Port) (v : Nat) : ((s.logRead p v).port p).rdata = v ∧ (s.logRead p v).log = s.log ∧ (s.logRead p v).regs = s.regs := by
  cases p with
  | pcie => exact ⟨rfl, rfl, rfl⟩
  | spi => exact ⟨rfl, rfl, rfl⟩

theorem logSeqLoRead_latches (off : Nat) (p : Port) (hawake : s.pwr.l3 ≠ 1) :
    ∃ t, exec (.logSeqLoRead dt p off) s = .next t ∧ (t.port p).rdata = s.logPair off % 2 ^ 32 ∧ tget t.log.latchHi (off + 4) 0 = s.logPair off / 2 ^ 32 ∧
      (off = 0x16004 → (t.port p).rdata = s.log.head % 2 ^ 32) ∧ (off = 0x1600C → (t.port p).rdata = s.log.flushed % 2 ^ 32) ∧
      (off = 0x16048 → (t.port p).rdata = s.log.erasedTo % 2 ^ 32) ∧ t.regs = s.regs ∧ t.log.ram = s.log.ram ∧ t.log.head = s.log.head := by
  have hpair : (s.advance dt).logPair off = s.logPair off := rfl
  have hexec : exec (.logSeqLoRead dt p off) s = .next (((s.advance dt).pairLatched off).logRead p (s.logPair off % 2 ^ 32)) := by
    show execLogSeqLoRead dt p off s = _
    unfold execLogSeqLoRead
    dsimp only
    rewrite [State.lullLeave_awake (s.advance dt) 2 hawake, hpair]
    rfl
  obtain ⟨hdata, hlog, hregs⟩ := ((s.advance dt).pairLatched off).logRead_shows p (s.logPair off % 2 ^ 32)
  refine ⟨_, hexec, hdata, ?_, fun h => ?_, fun h => ?_, fun h => ?_, hregs, by rewrite [hlog]; rfl, by rewrite [hlog]; rfl⟩
  · rewrite [hlog]
    unfold State.pairLatched tget
    dsimp only
    rewrite [tfind_tput_same, hpair]
    rfl
  · rewrite [hdata, h]
    rfl
  · rewrite [hdata, h]
    rfl
  · rewrite [hdata, h]
    rfl

end

/-! ### Marks and erasing (R455, R456) -/

section
variable (dt : Nat) (s : State)

/-- The event of a mark's write, moved or refused. -/
def State.markEv (s : State) (p : Port) (n m : Nat) : Ev :=
  { code := 0x1604, source := n, role := (s.actor p).1, keyId := (s.actor p).2,
    items := [(1, n), (8, tget s.log.marks n 0), (8, m), (1, p.code)], key := 1 }

/-- A mark has moved and is journalled. -/
def State.markMoved (s : State) (n m : Nat) : State :=
  ({ s with log := { s.log with marks := tput s.log.marks n m } } : State).journalWait 4 [s.log.flushed]

/-- A mark's write is refused. -/
def State.markRefused (s : State) (n : Nat) : State := (s.set R.LOG_MARK_STAT_REFUSED 1 n).evt R.LOG_EVT_MARK_REFUSED

section
variable (hi n m : Nat) (p : Port) (hn : n = s.get R.LOG_MARK_SEL_SLOT) (hm : m = hi % 2 ^ 32 * 2 ^ 32 + s.log.markLo)
include hn hm

theorem exec_logMarkWrite_slot : exec (.logMarkWrite dt p hi) s =
    if decide (tget s.log.marks n 0 ≤ m) && decide (m ≤ s.log.head) then .next (((s.advance dt).markMoved n m).record ((s.advance dt).markEv p n m))
    else .next (((s.advance dt).markRefused n).record ((s.advance dt).markEv p n m)) := by
  subst hn hm
  rfl

theorem logMarkWrite_moves (hup : tget s.log.marks n 0 ≤ m) (hhead : m ≤ s.log.head) :
    ∃ t, exec (.logMarkWrite dt p hi) s = .next t ∧ tget t.log.marks n 0 = m ∧ (∀ k, k < 8 → k ≠ n → tget t.log.marks k 0 = tget s.log.marks k 0) ∧
      Framed [] { s.advance dt with mnf := t.mnf } t := by
  have hexec := exec_logMarkWrite_slot dt s hi n m p hn hm
  rewrite [if_pos (Bool.and_eq_true_iff.2 ⟨decide_eq_true hup, decide_eq_true hhead⟩)] at hexec
  have hmarks : (((s.advance dt).markMoved n m).record ((s.advance dt).markEv p n m)).log.marks = tput s.log.marks n m :=
    (congrArg RecSt.marks (State.record_base _ _) :)
  refine ⟨_, hexec, ?_, fun k _ hk => ?_, ?_⟩
  · rewrite [hmarks]
    unfold tget
    rewrite [tfind_tput_same]
    rfl
  · rewrite [hmarks]
    unfold tget
    rw [tfind_tput_ne _ _ _ _ hk]
  · rewrite [State.record_mnf]
    exact State.record_framed _ _ (((Framed.refl _ (s.advance dt)).withLog _).withMnf _)

theorem logMarkWrite_refused (hbad : m < tget s.log.marks n 0 ∨ s.log.head < m) :
    ∃ t, exec (.logMarkWrite dt p hi) s = .next t ∧ t.log.marks = s.log.marks ∧ t.get R.LOG_MARK_STAT_REFUSED n = 1 ∧ t.get R.LOG_EVT_MARK_REFUSED = 1 ∧
      Framed [loc R.LOG_MARK_STAT_REFUSED n, loc R.LOG_EVT_MARK_REFUSED 0] (s.advance dt) t := by
  have hexec := exec_logMarkWrite_slot dt s hi n m p hn hm
  have hcond : ¬ (decide (tget s.log.marks n 0 ≤ m) && decide (m ≤ s.log.head)) = true := fun h => by
    obtain ⟨h1, h2⟩ := Bool.and_eq_true_iff.1 h
    exact hbad.elim (Nat.not_lt.2 (of_decide_eq_true h1)) (Nat.not_lt.2 (of_decide_eq_true h2))
  rewrite [if_neg hcond] at hexec
  have hbase : (((s.advance dt).markRefused n).record ((s.advance dt).markEv p n m)).log.base = (s.advance dt).log.base :=
    (State.record_base _ _).trans (State.evt_base _ _ _)
  refine ⟨_, hexec, (congrArg RecSt.marks hbase :), ?_, ?_, State.record_framed _ _ (State.evt_framed _ _ _ (.inl (by simp))
    (set_framed _ _ _ _ (.inl (by simp)) (.refl _ _)))⟩
  · rewrite [State.record_get _ _ _ (by decide)]
    unfold State.markRefused
    rewrite [State.evt_get_ne _ _ _ (by decide) (by decide), State.get_set_same]
    rfl
  · rewrite [State.record_get _ _ _ (by decide)]
    exact State.evt_get_same _ _ _ (by decide)

end

/-- Erase is under way up to the present head. -/
def State.eraseBegun (s : State) : State :=
  ((({ s with log := { s.log with erasedTo := s.log.head } } : State).set R.LOG_STAT_ERASING 1).evt R.LOG_EVT_ERASED).journalWait 4 [s.log.flushed]

/-- The act of a write to LOG_ERASE in a Maker session. -/
def State.eraseAct (key : Nat) (s : State) : State :=
  if key = s.log.head % 2 ^ 32 then
    s.eraseBegun.record { code := 0x1606, role := .maker, keyId := s.eraseBegun.role.keyId, items := [(8, s.eraseBegun.log.erasedTo)], key := 0 }
  else s.record { code := 0x1609, role := .maker, keyId := s.role.keyId, items := [(4, key), (4, s.log.head % 2 ^ 32)], key := 1 }

theorem State.eraseBegun_log : s.eraseBegun.log = { s.log with erasedTo := s.log.head } := State.evt_log _ _ _

theorem State.eraseBegun_role : s.eraseBegun.role = s.role := (State.evt_role _ _ _).trans rfl

theorem State.eraseBegun_shows : s.eraseBegun.get R.LOG_STAT_ERASING = 1 ∧ s.eraseBegun.get R.LOG_EVT_ERASED = 1 ∧
    Framed (regKeys 0 [R.LOG_STAT_ERASING, R.LOG_EVT_ERASED]) { s with mnf := s.eraseBegun.mnf } s.eraseBegun := by
  refine ⟨?_, State.evt_get_same _ _ _ (by decide), (State.evt_framed _ _ _ (.inl (by simp [regKeys])) (set_framed _ _ _ _ (.inl (by simp [regKeys]))
    ((Framed.refl _ s).withLog _))).withMnf _⟩
  refine (State.evt_get_ne _ R.LOG_EVT_ERASED _ (by decide) (by decide)).trans ((State.get_set_same _ R.LOG_STAT_ERASING 1 0).trans rfl)

theorem exec_logErase_act (k : Nat) (p : Port) : exec (.logErase dt p k) s = .next ((s.advance dt).withRole p [.maker] 0x16044 (State.eraseAct k)) := rfl

theorem State.rwlTaken_out (h : s.pwr.l3 ≠ 1) : s.rwlTaken = { s with role := { s.role with rwlAt := s.now } } := by
  unfold State.rwlTaken
  rw [State.lullLeave_awake s 1 h]

/-- A Maker's write reaches LOG_ERASE and starts the idle time afresh. -/
def State.makerTaken (s : State) : State := { s with role := { s.role with rwlAt := s.now } }

theorem exec_logErase_maker (k : Nat) (p : Port) (hs : s.session p = some .maker) (hl3 : s.pwr.l3 ≠ 1) :
    exec (.logErase dt p k) s = .next ((s.advance dt).makerTaken.eraseAct k) := by
  rewrite [exec_logErase_act, State.withRole_taken (s.advance dt) (r := .maker) hs (List.mem_singleton.2 rfl), State.rwlTaken_out (s.advance dt) hl3]
  rfl

theorem logErase_erases (k : Nat) (p : Port) (hs : s.session p = some .maker) (hl3 : s.pwr.l3 ≠ 1) (hk : k = s.log.head % 2 ^ 32) :
    ∃ t, exec (.logErase dt p k) s = .next t ∧ t.log.erasedTo = s.log.head ∧ t.get R.LOG_STAT_ERASING = 1 ∧ t.get R.LOG_EVT_ERASED = 1 ∧
      t.role.rwlAt = s.now + dt ∧ Framed (regKeys 0 [R.LOG_STAT_ERASING, R.LOG_EVT_ERASED]) { s.advance dt with role := t.role, mnf := t.mnf } t := by
  obtain ⟨e, he⟩ : ∃ e, (s.advance dt).makerTaken.eraseAct k = (s.advance dt).makerTaken.eraseBegun.record e := ⟨_, if_pos hk⟩
  have hexec := exec_logErase_maker dt s k p hs hl3
  obtain ⟨herasing, hevt, hframed⟩ := (s.advance dt).makerTaken.eraseBegun_shows
  have hrole := (s.advance dt).makerTaken.eraseBegun_role
  have hlog := (s.advance dt).makerTaken.eraseBegun_log
  rewrite [he] at hexec
  generalize (s.advance dt).makerTaken.eraseBegun = u at hexec herasing hevt hframed hrole hlog
  have hbase := (State.record_base u e).trans (congrArg RecSt.base hlog)
  refine ⟨_, hexec, (congrArg RecSt.erasedTo hbase :), (State.record_get _ _ _ (by decide)).trans herasing,
    (State.record_get _ _ _ (by decide)).trans hevt,
    ?_, ?_⟩
  · rewrite [State.record_role, hrole]
    rfl
  · rewrite [State.record_role, State.record_mnf, hrole]
    exact State.record_framed _ _ hframed

theorem logErase_refused (k : Nat) (p : Port) (hl3 : s.pwr.l3 ≠ 1) (h : s.session p ≠ some .maker ∨ k ≠ s.log.head % 2 ^ 32) :
    ∃ t, exec (.logErase dt p k) s = .next t ∧ t.log.erasedTo = s.log.erasedTo ∧ t.log.flash = s.log.flash ∧
      Framed [] { s.advance dt with role := t.role } t := by
  by_cases hs : s.session p = some .maker
  · obtain ⟨e, he⟩ : ∃ e, (s.advance dt).makerTaken.eraseAct k = (s.advance dt).makerTaken.record e := ⟨_, if_neg (h.resolve_left (not_not_intro hs))⟩
    have hexec := exec_logErase_maker dt s k p hs hl3
    have hbase := State.record_base (s.advance dt).makerTaken e
    rewrite [he] at hexec
    refine ⟨_, hexec, (congrArg RecSt.erasedTo hbase :), (congrArg RecSt.flash hbase :), ?_⟩
    rewrite [State.record_role]
    exact State.record_framed _ _ (.refl _ _)
  · have hexec := exec_logErase_act dt s k p
    rewrite [State.withRole_denied (s.advance dt) _ _ _ _ fun r hr hm => hs (hr.trans (congrArg some (List.mem_singleton.1 hm))),
      State.lullLeave_awake (s.advance dt) 1 hl3] at hexec
    have hbase := (s.advance dt).rwlIgnored_base p 0x16044
    refine ⟨_, hexec, (congrArg RecSt.erasedTo hbase :), (congrArg RecSt.flash hbase :), ?_⟩
    rewrite [State.rwlIgnored_role]
    exact State.rwlIgnored_framed _ _ _ (.refl _ _)

theorem logBackgroundEraseDone_clears (hon : s.get R.LOG_STAT_ERASING = 1) (hopen : s.nvmOpen = true) :
    ∃ t, exec (.logBackgroundEraseDone dt) s = .next t ∧ t.get R.LOG_STAT_ERASING = 0 ∧
      t.log = { s.log with flash := s.log.flash.filter fun x => s.log.erasedTo < x.2.seq } ∧ Framed [loc R.LOG_STAT_ERASING 0] (s.advance dt) t := by
  have hexec : exec (.logBackgroundEraseDone dt) s = .next (({ s.advance dt with log :=
      { s.log with flash := s.log.flash.filter fun x => s.log.erasedTo < x.2.seq } } : State).set R.LOG_STAT_ERASING 0) := by
    show execLogBackgroundEraseDone dt s = _
    unfold execLogBackgroundEraseDone
    exact if_pos (Bool.and_eq_true_iff.2 ⟨decide_eq_true hon, hopen⟩)
  exact ⟨_, hexec, State.get_set_same _ R.LOG_STAT_ERASING 0 0, rfl, set_framed _ _ _ _ (.inl (List.mem_singleton.2 rfl)) ((Framed.refl _ _).withLog _)⟩

theorem exec_logBackgroundEraseDone_idle (h : s.get R.LOG_STAT_ERASING ≠ 1 ∨ s.nvmOpen = false) :
    exec (.logBackgroundEraseDone dt) s = .next (s.advance dt) := by
  show execLogBackgroundEraseDone dt s = _
  unfold execLogBackgroundEraseDone
  refine if_neg fun hgo => ?_
  obtain ⟨hon, hopen⟩ := Bool.and_eq_true_iff.1 hgo
  rcases h with h | h
  · exact h (of_decide_eq_true hon)
  · exact Bool.false_ne_true (h.symm.trans hopen)

end

/-- Settles O57: records are flushed where nothing holds the flush, sectors are erased ahead, a fetch fills its window, a mark moves forward
and a Maker erases (logs 244, 247, 248, 264). -/
theorem eventRecorder : Obligations.EventRecorder := by
  unfold Obligations.EventRecorder
  exact ⟨exec_openRecordTimeout_closes, exec_openRecordTimeout_idle, fun dt n ok s => recorderFlush_held dt s n ok,
    fun dt ok s h0 hnone hnoted hshed => recorderFlush_nothing dt s ok h0 hnoted hshed hnone,
    fun dt r l s h0 hf hnoted hshed hlost hram hhold => recorderFlush_written dt s r l h0 hf hnoted hshed hlost hram hhold,
    fun dt r l s h0 hf hnoted hshed => recorderFlush_failed dt s r l h0 hf hnoted hshed,
    sectorEraseDone_erases, exec_sectorEraseDone_idle, fun dt a s => flushHeldTimeout_records dt s a, exec_flushHeldTimeout_idle,
    fun dt hi p s _ => logFetchStart_starts dt s hi p, fun dt a s => logFetchDone_fills dt s a, exec_logFetchDone_idle,
    fun dt off p s => logSeqLoRead_latches dt s off p, fun dt hi n m p s => logMarkWrite_moves dt s hi n m p,
    fun dt hi n m p s => logMarkWrite_refused dt s hi n m p, fun dt k p s => logErase_erases dt s k p, fun dt k p s => logErase_refused dt s k p,
    logBackgroundEraseDone_clears, exec_logBackgroundEraseDone_idle⟩

end Sys2Proof.Machine
end

section
set_option Elab.async false
/-!
PROOF of the statement of 20_register_map.md about the point window (PointWindow): reads, refusals, staging and the commit.
-/

namespace Sys2Proof.Machine

open Sys2Proof

/-! ### Reading the window (R465) -/

section
variable (dt o : Nat) (p : Port) (s : State)

theorem exec_pointWindowRead_awake (hl3 : s.pwr.l3 ≠ 1) : exec (.pointWindowRead dt p o) s =
    .next (((s.advance dt).windowRead p o).1.readBack p ((s.advance dt).windowRead p o).2) := by
  show execPointWindowRead dt p o s = _
  unfold execPointWindowRead
  rw [State.lullLeave_awake (s.advance dt) 2 hl3]

theorem State.readBack_port (v : Nat) : (s.readBack p v).port p = { s.port p with rdata := v } := by
  cases p <;> rfl

theorem State.readBack_keeps (v : Nat) : (s.readBack p v).regs = s.regs ∧ (s.readBack p v).pts = s.pts ∧ (s.readBack p v).inbox = s.inbox := by
  cases p with
  | pcie => exact ⟨rfl, rfl, rfl⟩
  | spi => exact ⟨rfl, rfl, rfl⟩

theorem State.putPort_keeps (h : HostPort) : (s.putPort p h).regs = s.regs ∧ (s.putPort p h).pts = s.pts ∧ (s.putPort p h).inbox = s.inbox := by
  cases p with
  | pcie => exact ⟨rfl, rfl, rfl⟩
  | spi => exact ⟨rfl, rfl, rfl⟩

theorem pointWindowRead_latches (i : Nat) (hl3 : s.pwr.l3 ≠ 1) (hi : i = s.winIdx p o) (hw : o % 32 / 4 = 0) :
    ∃ t, exec (.pointWindowRead dt p o) s = .next t ∧
      t.port p = { s.port p with latched := some (i, s.ptWords i), rdata := (s.ptWords i).getD 0 0 } ∧
      t.regs = s.regs ∧ t.pts = s.pts ∧ t.inbox = s.inbox := by
  subst hi
  have hexec := exec_pointWindowRead_awake dt o p s hl3
  rewrite [show (s.advance dt).windowRead p o = ((s.advance dt).putPort p { s.port p with latched := some (s.winIdx p o, s.ptWords (s.winIdx p o)) },
    (s.ptWords (s.winIdx p o)).getD 0 0) from if_pos hw] at hexec
  obtain ⟨hregs, hpts, hinbox⟩ := (s.advance dt).putPort_keeps p { s.port p with latched := some (s.winIdx p o, s.ptWords (s.winIdx p o)) }
  have hport := (s.advance dt).putPort_port_same p { s.port p with latched := some (s.winIdx p o, s.ptWords (s.winIdx p o)) }
  generalize (s.advance dt).putPort p _ = u at hexec hregs hpts hinbox hport
  obtain ⟨hregs', hpts', hinbox'⟩ := u.readBack_keeps p ((s.ptWords (s.winIdx p o)).getD 0 0)
  exact ⟨_, hexec, by rw [State.readBack_port, hport], hregs'.trans hregs, hpts'.trans hpts, hinbox'.trans hinbox⟩

/-- What a word other than the first reads. -/
def State.windowWord (s : State) (p : Port) (o : Nat) : Nat :=
  match (s.port p).latched with
  | some (j, ws) => if j = s.winIdx p o then ws.getD (o % 32 / 4) 0 else (s.ptWords (s.winIdx p o)).getD (o % 32 / 4) 0
  | none => (s.ptWords (s.winIdx p o)).getD (o % 32 / 4) 0

theorem State.windowRead_word (hw : o % 32 / 4 ≠ 0) : s.windowRead p o = (s, s.windowWord p o) := by
  unfold State.windowRead State.windowWord
  dsimp only
  rewrite [if_neg hw]
  generalize (s.port p).latched = x
  cases x with
  | none => rfl
  | some y =>
    obtain ⟨j, ws⟩ := y
    rfl

theorem pointWindowRead_word (hl3 : s.pwr.l3 ≠ 1) (hw : o % 32 / 4 ≠ 0) :
    ∃ t, exec (.pointWindowRead dt p o) s = .next t ∧ (t.port p).latched = (s.port p).latched ∧ (t.port p).rdata = s.windowWord p o ∧
      t.regs = s.regs ∧ t.pts = s.pts ∧ t.inbox = s.inbox := by
  have hexec := exec_pointWindowRead_awake dt o p s hl3
  rewrite [(s.advance dt).windowRead_word o p hw] at hexec
  have hport := (s.advance dt).readBack_port p ((s.advance dt).windowWord p o)
  obtain ⟨hregs, hpts, hinbox⟩ := (s.advance dt).readBack_keeps p ((s.advance dt).windowWord p o)
  refine ⟨_, hexec, (congrArg HostPort.latched hport).trans ?_, (congrArg HostPort.rdata hport).trans ?_, hregs, hpts, hinbox⟩
  · cases p <;> rfl
  · cases p <;> rfl

end

/-! ### Refusals (R33, R466) -/

section
variable (s : State) (p : Port)

theorem State.pointRefuse_shows (i code : Nat) (h8 : code < 8) : (s.pointRefuse p i code).get R.DEV_PT_STAT_WR_RESULT = code ∧
    (s.pointRefuse p i code).get R.DEV_HOST_ERR_POINT_REFUSED = (s.get R.DEV_HOST_ERR_POINT_REFUSED + 1) % 65536 ∧
    Framed (regKeys 0 [R.DEV_PT_STAT_WR_RESULT, R.DEV_HOST_ERR_POINT_REFUSED]) s (s.pointRefuse p i code) := by
  unfold State.pointRefuse
  dsimp only
  refine ⟨?_, ?_, State.record_framed _ _ (set_framed _ _ _ _ (.inl (by simp [regKeys])) (set_framed _ _ _ _ (.inl (by simp [regKeys])) (.refl _ _)))⟩
  · rewrite [State.record_get _ _ _ (by decide), State.inc_get_ne _ _ (by decide), State.get_set_same]
    exact Nat.mod_eq_of_lt h8
  · rewrite [State.record_get _ _ _ (by decide), State.inc_eq, State.get_set_same, State.get_set_ne _ _ _ _ (by decide)]
    rfl

theorem State.pointRefuse_port (i code : Nat) (q : Port) : (s.pointRefuse p i code).port q = s.port q := by
  unfold State.pointRefuse
  cases q with
  | pcie => exact State.record_pcie _ _
  | spi => exact State.record_spi _ _

theorem State.pointRefuse_inbox (i code : Nat) : (s.pointRefuse p i code).inbox = s.inbox := State.record_inbox _ _

end

section
variable (dt o v : Nat) (p : Port) (s : State)

theorem exec_pointQualityStage_refused (code : Nat)
    (h : (s.onTrunk15 (s.winIdx p o) = false ∧ code = 3) ∨ (s.onTrunk15 (s.winIdx p o) = true ∧ 7 ≤ v % 16 ∧ code = 6)) :
    exec (.pointQualityStage dt p o v) s = .next ((s.advance dt).pointRefuse p (s.winIdx p o) code) := by
  show execPointQualityStage dt p o v s = _
  unfold execPointQualityStage State.stageQuality
  dsimp only
  rewrite [show (s.advance dt).onTrunk15 ((s.advance dt).winIdx p o) = s.onTrunk15 (s.winIdx p o) by cases p <;> rfl,
    show (s.advance dt).winIdx p o = s.winIdx p o by cases p <;> rfl]
  rcases h with ⟨hoff, hcode⟩ | ⟨hon, hbad, hcode⟩
  · rw [hoff, if_pos (by decide), hcode]
  · rw [hon, if_neg (by decide), if_pos hbad, hcode]

theorem exec_pointValueLowStage_off (h : s.onTrunk15 (s.winIdx p o) = false) :
    exec (.pointValueLowStage dt p o v) s = .next ((s.advance dt).pointRefuse p (s.winIdx p o) 3) := by
  show execPointValueLowStage dt p o v s = _
  unfold execPointValueLowStage State.stageLow
  dsimp only
  rw [show (s.advance dt).onTrunk15 ((s.advance dt).winIdx p o) = s.onTrunk15 (s.winIdx p o) by cases p <;> rfl,
    show (s.advance dt).winIdx p o = s.winIdx p o by cases p <;> rfl, h, if_pos (by decide)]

theorem exec_pointValueCommit_off (h : s.onTrunk15 (s.winIdx p o) = false) :
    exec (.pointValueCommit dt p o v) s = .next ((s.advance dt).pointRefuse p (s.winIdx p o) 3) := by
  show execPointValueCommit dt p o v s = _
  unfold execPointValueCommit State.pointCommit
  dsimp only
  rewrite [show (s.advance dt).winIdx p o = s.winIdx p o by cases p <;> rfl]
  split
  · rfl
  · exact congrArg Host.Outcome.next (if_pos (by rewrite [show (s.advance dt).onTrunk15 (s.winIdx p o) = false from h]; decide))

theorem exec_pointWindowOtherWrite_refused : exec (.pointWindowOtherWrite dt p o) s =
    .next ((s.advance dt).pointRefuse p (s.winIdx p o) (if s.onTrunk15 (s.winIdx p o) then 6 else 3)) := by
  show execPointWindowOtherWrite dt p o s = _
  unfold execPointWindowOtherWrite State.pointOther
  dsimp only
  cases p <;> rfl

/-- A refused write shows its code, is counted and has no effect. -/
theorem refused_of_exec {i : Instr} {n code : Nat} (h : exec i s = .next ((s.advance dt).pointRefuse p n code)) (h8 : code < 8) :
    ∃ t, exec i s = .next t ∧ t.get R.DEV_PT_STAT_WR_RESULT = code ∧
      t.get R.DEV_HOST_ERR_POINT_REFUSED = (s.get R.DEV_HOST_ERR_POINT_REFUSED + 1) % 65536 ∧
      Framed (regKeys 0 [R.DEV_PT_STAT_WR_RESULT, R.DEV_HOST_ERR_POINT_REFUSED]) (s.advance dt) t :=
  ⟨_, h, (s.advance dt).pointRefuse_shows p n code h8⟩

/-! ### Staging and the commit (R466) -/

theorem State.putStaged_port (x : Staged) : (s.putStaged p x).port p = { s.port p with staged := x } := State.putPort_port_same _ _ _

theorem State.putStaged_other (x : Staged) : (s.putStaged p x).port (if p = .spi then .pcie else .spi) = s.port (if p = .spi then .pcie else .spi) := by
  cases p <;> rfl

theorem State.putStaged_eq (x : Staged) : ∃ y z, s.putStaged p x = { s with pcie := y, spi := z } := by
  cases p with
  | pcie => exact ⟨_, s.spi, rfl⟩
  | spi => exact ⟨s.pcie, _, rfl⟩

theorem Framed.withPorts {ks : List Nat} {s t : State} (x y : HostPort) (h : Framed ks s t) :
    Framed ks { s with pcie := x, spi := y } { t with pcie := x, spi := y } :=
  ⟨congrArg (fun u : State => { u with pcie := x, spi := y }) h.plain, h.2⟩

theorem State.set_port {f : Fld} (v b : Nat) (q : Port) : (s.set f v b).port q = s.port q := by
  cases q <;> rfl

/-- A value staged at a port, and the result of the write shown. -/
theorem State.staged_shows (x : Staged) (code : Nat)
    (h8 : code < 8) :
    ((s.putStaged p x).set R.DEV_PT_STAT_WR_RESULT code).get R.DEV_PT_STAT_WR_RESULT = code ∧
    ((s.putStaged p x).set R.DEV_PT_STAT_WR_RESULT code).port p = { s.port p with staged := x } ∧
    ((s.putStaged p x).set R.DEV_PT_STAT_WR_RESULT code).port (if p = .spi then .pcie else .spi) = s.port (if p = .spi then .pcie else .spi) ∧
    Framed [loc R.DEV_PT_STAT_WR_RESULT 0] { s with
      pcie := ((s.putStaged p x).set R.DEV_PT_STAT_WR_RESULT code).pcie
      spi := ((s.putStaged p x).set R.DEV_PT_STAT_WR_RESULT code).spi } ((s.putStaged p x).set R.DEV_PT_STAT_WR_RESULT code) := by
  refine ⟨(State.get_set_same _ _ _ _).trans (Nat.mod_eq_of_lt h8), ?_, ?_, ?_⟩
  · rw [State.set_port, State.putStaged_port]
  · rw [State.set_port, State.putStaged_other]
  · obtain ⟨y, z, h⟩ := s.putStaged_eq p x
    rewrite [h]
    exact set_framed _ _ _ _ (.inl (List.mem_singleton.2 rfl)) (.refl _ _)

theorem pointQualityStage_stages (hon : s.onTrunk15 (s.winIdx p o) = true) (h6 : v % 16 ≤ 6) :
    ∃ t, exec (.pointQualityStage dt p o v) s = .next t ∧ t.get R.DEV_PT_STAT_WR_RESULT = 1 ∧
      t.port p = { s.port p with staged := { (s.port p).staged with idx := s.winIdx p o, quality := qualityOf (v % 16) } } ∧
      t.port (if p = .spi then .pcie else .spi) = s.port (if p = .spi then .pcie else .spi) ∧
      Framed [loc R.DEV_PT_STAT_WR_RESULT 0] { s.advance dt with pcie := t.pcie, spi := t.spi } t := by
  have hport (q : Port) : (s.advance dt).port q = s.port q := by cases q <;> rfl
  have hexec : exec (.pointQualityStage dt p o v) s = .next (((s.advance dt).putStaged p
      { (s.port p).staged with idx := s.winIdx p o, quality := qualityOf (v % 16) }).set R.DEV_PT_STAT_WR_RESULT 1) := by
    show execPointQualityStage dt p o v s = _
    unfold execPointQualityStage State.stageQuality
    dsimp only
    rw [show (s.advance dt).onTrunk15 ((s.advance dt).winIdx p o) = true by cases p <;> exact hon, if_neg (by decide), if_neg (Nat.not_le.2 (by omega)),
      show (s.advance dt).winIdx p o = s.winIdx p o by cases p <;> rfl, hport]
  obtain ⟨hget, hstaged, hother, hframed⟩ := (s.advance dt).staged_shows p
    { (s.port p).staged with idx := s.winIdx p o, quality := qualityOf (v % 16) } 1 (by decide)
  rewrite [hport] at hstaged hother
  exact ⟨_, hexec, hget, hstaged, hother, hframed⟩

theorem pointValueLowStage_stages (hon : s.onTrunk15 (s.winIdx p o) = true) :
    ∃ t, exec (.pointValueLowStage dt p o v) s = .next t ∧ t.get R.DEV_PT_STAT_WR_RESULT = 1 ∧
      t.port p = { s.port p with staged := { (s.port p).staged with idx := s.winIdx p o, low := v % 2 ^ 32 } } ∧
      t.port (if p = .spi then .pcie else .spi) = s.port (if p = .spi then .pcie else .spi) ∧
      Framed [loc R.DEV_PT_STAT_WR_RESULT 0] { s.advance dt with pcie := t.pcie, spi := t.spi } t := by
  have hport (q : Port) : (s.advance dt).port q = s.port q := by cases q <;> rfl
  have hexec : exec (.pointValueLowStage dt p o v) s = .next (((s.advance dt).putStaged p
      { (s.port p).staged with idx := s.winIdx p o, low := v % 2 ^ 32 }).set R.DEV_PT_STAT_WR_RESULT 1) := by
    show execPointValueLowStage dt p o v s = _
    unfold execPointValueLowStage State.stageLow
    dsimp only
    rw [show (s.advance dt).onTrunk15 ((s.advance dt).winIdx p o) = true by cases p <;> exact hon, if_neg (by decide),
      show (s.advance dt).winIdx p o = s.winIdx p o by cases p <;> rfl, hport]
  obtain ⟨hget, hstaged, hother, hframed⟩ := (s.advance dt).staged_shows p
    { (s.port p).staged with idx := s.winIdx p o, low := v % 2 ^ 32 } 1 (by decide)
  rewrite [hport] at hstaged hother
  exact ⟨_, hexec, hget, hstaged, hother, hframed⟩

section
variable (i : Nat) (c : PtCfg) (hi : i = s.winIdx p o) (hc : s.ptCfg i = some c) (hon : s.onTrunk15 i = true)
include hi hc hon

/-- On trunk 15 a commit empties the staging and is refused, or enters the inputs. -/
theorem exec_pointValueCommit_on : exec (.pointValueCommit dt p o v) s =
    .next (if c.out then ((s.advance dt).putStaged p {}).pointRefuse p i 4
      else if !s.isActive then ((s.advance dt).putStaged p {}).pointRefuse p i 5
      else ({ (s.advance dt).putStaged p {} with inbox := s.inbox ++
        [.point i (v % 2 ^ 32 * 2 ^ 32 + (s.port p).staged.low)
          (s.advance dt).pm (s.port p).staged.quality] } : State).set R.DEV_PT_STAT_WR_RESULT 2) := by
  subst hi
  show execPointValueCommit dt p o v s = _
  unfold execPointValueCommit State.pointCommit
  dsimp only
  rewrite [show (s.advance dt).winIdx p o = s.winIdx p o by cases p <;> rfl, show (s.advance dt).ptCfg (s.winIdx p o) = some c from hc]
  dsimp only
  rewrite [show (s.advance dt).onTrunk15 (s.winIdx p o) = true from hon, if_neg (by decide)]
  cases p <;> rfl

theorem pointValueCommit_refused (h : c.out = true ∨ s.isActive = false) :
    ∃ t, exec (.pointValueCommit dt p o v) s = .next t ∧ t.get R.DEV_PT_STAT_WR_RESULT = (if c.out then 4 else 5) ∧
      t.port p = { s.port p with staged := {} } ∧
      t.get R.DEV_HOST_ERR_POINT_REFUSED = (s.get R.DEV_HOST_ERR_POINT_REFUSED + 1) % 65536 ∧ t.inbox = s.inbox ∧
      Framed (regKeys 0 [R.DEV_PT_STAT_WR_RESULT, R.DEV_HOST_ERR_POINT_REFUSED]) { s.advance dt with pcie := t.pcie, spi := t.spi } t := by
  have hexec : exec (.pointValueCommit dt p o v) s = .next (((s.advance dt).putStaged p {}).pointRefuse p i (if c.out then 4 else 5)) := by
    rewrite [exec_pointValueCommit_on dt o v p s i c hi hc hon]
    by_cases hout : c.out = true
    · rw [if_pos hout, if_pos hout]
    · rw [if_neg hout, if_neg hout, if_pos (by rewrite [h.resolve_left hout]; decide)]
  have hport := (s.advance dt).putStaged_port p {}
  obtain ⟨y, z, heq⟩ := (s.advance dt).putStaged_eq p {}
  rewrite [heq] at hexec hport
  obtain ⟨hget, hcount, hframed⟩ := State.pointRefuse_shows { s.advance dt with pcie := y, spi := z } p i (if c.out then 4 else 5) (by split <;> decide)
  refine ⟨_, hexec, hget, ?_, hcount, State.pointRefuse_inbox _ _ _ _, ?_⟩
  · rewrite [State.pointRefuse_port, hport]
    cases p <;> rfl
  · have hy : (State.pointRefuse { s.advance dt with pcie := y, spi := z } p i (if c.out then 4 else 5)).pcie = y := State.pointRefuse_port _ p _ _ .pcie
    have hz : (State.pointRefuse { s.advance dt with pcie := y, spi := z } p i (if c.out then 4 else 5)).spi = z := State.pointRefuse_port _ p _ _ .spi
    rewrite [hy, hz]
    exact hframed

theorem pointValueCommit_commits (hin : c.out = false) (hact : s.isActive = true) :
    ∃ t, exec (.pointValueCommit dt p o v) s = .next t ∧ t.get R.DEV_PT_STAT_WR_RESULT = 2 ∧ t.port p = { s.port p with staged := {} } ∧
      t.inbox = s.inbox ++ [.point i (v % 2 ^ 32 * 2 ^ 32 + (s.port p).staged.low) (s.advance dt).pm (s.port p).staged.quality] ∧ t.pts = s.pts ∧
      t.port (if p = .spi then .pcie else .spi) = s.port (if p = .spi then .pcie else .spi) ∧
      Framed [loc R.DEV_PT_STAT_WR_RESULT 0] { s.advance dt with pcie := t.pcie, spi := t.spi, inbox := t.inbox } t := by
  have hexec := exec_pointValueCommit_on dt o v p s i c hi hc hon
  rewrite [hin, if_neg Bool.false_ne_true, hact, if_neg (by decide)] at hexec
  have hport := (s.advance dt).putStaged_port p {}
  have hother := (s.advance dt).putStaged_other p {}
  obtain ⟨y, z, heq⟩ := (s.advance dt).putStaged_eq p {}
  rewrite [heq] at hexec hport hother
  refine ⟨_, hexec, State.get_set_same _ R.DEV_PT_STAT_WR_RESULT 2 0, ?_, rfl, rfl, ?_, set_framed _ _ _ _ (.inl (List.mem_singleton.2 rfl)) (.refl _ _)⟩
  · refine (State.set_port _ _ _ p).trans (Eq.trans ?_ (hport.trans ?_))
    · cases p <;> rfl
    · cases p <;> rfl
  · refine (State.set_port _ _ _ _).trans (Eq.trans ?_ (hother.trans ?_))
    · cases p <;> rfl
    · cases p <;> rfl

end

end

/-- Settles O58: word 0 latches its entry; off trunk 15 every write is refused; on it a value is staged and committed (logs 252, 253, 254). -/
theorem pointWindow : Obligations.PointWindow := by
  unfold Obligations.PointWindow
  exact ⟨fun dt o i p s => pointWindowRead_latches dt o p s i, pointWindowRead_word,
    fun dt o v p s h => refused_of_exec dt p s (exec_pointQualityStage_refused dt o v p s 3 (.inl ⟨h, rfl⟩)) (by decide),
    fun dt o v p s h => refused_of_exec dt p s (exec_pointValueLowStage_off dt o v p s h) (by decide),
    fun dt o v p s h => refused_of_exec dt p s (exec_pointValueCommit_off dt o v p s h) (by decide),
    fun dt o p s h => refused_of_exec dt p s (by rewrite [exec_pointWindowOtherWrite_refused, h]; rfl) (by decide),
    pointQualityStage_stages,
    fun dt o v p s hon hbad => refused_of_exec dt p s (exec_pointQualityStage_refused dt o v p s 6 (.inr ⟨hon, hbad, rfl⟩)) (by decide),
    pointValueLowStage_stages,
    fun dt o v i p c s hi hc hon => pointValueCommit_refused dt o v p s i c hi hc hon,
    fun dt o v i p c s hi hc hon => pointValueCommit_commits dt o v p s i c hi hc hon,
    fun dt o p s h => refused_of_exec dt p s (by rewrite [exec_pointWindowOtherWrite_refused, h]; rfl) (by decide)⟩

end Sys2Proof.Machine
end

section
set_option Elab.async false
/-!
PROOF of the statement of 20_register_map.md about alarms, pigeonholes and interrupts (AlarmsPigeonholesInterrupts): acknowledgement on the
alarm list as a table, the rules of a pigeonhole, and the pending bit and the message of a vector.
-/

namespace Sys2Proof.Machine

open Sys2Proof

/-! ### Acknowledgement as an operation on the list (R462) -/

section
variable {α : Type} (pre t : Tab α) (n : Nat)

theorem tfind_append (h : ∀ x ∈ pre, x.1 < n) : tfind (pre ++ t) n = tfind t n := by
  induction pre with
  | nil => rfl
  | cons x pre ih =>
    obtain ⟨k, v⟩ := x
    obtain ⟨hk, hpre⟩ := List.forall_mem_cons.1 h
    exact (if_neg (Nat.ne_of_gt hk)).trans (ih hpre)

theorem tput_append (v : α) (h : ∀ x ∈ pre, x.1 < n) : tput (pre ++ t) n v = pre ++ tput t n v := by
  induction pre with
  | nil => rfl
  | cons x pre ih =>
    obtain ⟨k, w⟩ := x
    obtain ⟨hk, hpre⟩ := List.forall_mem_cons.1 h
    show (if n < k then _ else if n = k then _ else (k, w) :: tput (pre ++ t) n v) = _
    rewrite [if_neg (Nat.lt_asymm hk), if_neg (Nat.ne_of_gt hk), ih hpre]
    rfl

theorem tdel_append (h : ∀ x ∈ pre, x.1 < n) : tdel (pre ++ t) n = pre ++ tdel t n := by
  induction pre with
  | nil => rfl
  | cons x pre ih =>
    obtain ⟨k, w⟩ := x
    obtain ⟨hk, hpre⟩ := List.forall_mem_cons.1 h
    show (if n = k then _ else (k, w) :: tdel (pre ++ t) n) = _
    rewrite [if_neg (Nat.ne_of_gt hk), ih hpre]
    rfl

theorem tsorted_keys {lo : Nat} (h : tsorted lo t = true) : ∀ x ∈ t, lo ≤ x.1 := by
  induction t generalizing lo with
  | nil => exact fun x hx => absurd hx List.not_mem_nil
  | cons y t ih =>
    obtain ⟨k, v⟩ := y
    obtain ⟨hk, ht⟩ := Bool.and_eq_true_iff.1 h
    refine List.forall_mem_cons.2 ⟨of_decide_eq_true hk, fun x hx => ?_⟩
    exact Nat.le_trans (of_decide_eq_true hk) (Nat.le_trans (Nat.le_succ k) (ih ht x hx))

theorem tdel_absent (h : ∀ x ∈ t, x.1 ≠ n) : tdel t n = t := by
  induction t with
  | nil => rfl
  | cons y t ih =>
    obtain ⟨k, v⟩ := y
    obtain ⟨hk, ht⟩ := List.forall_mem_cons.1 h
    show (if n = k then _ else (k, v) :: tdel t n) = _
    rw [if_neg (Ne.symm hk), ih ht]

/-- In a table whose numbers rise, one entry at most has a number. -/
theorem filter_key {lo : Nat} (q : Nat × α → Bool) (a : α) (h : tsorted lo t = true) (hf : tfind t n = some a) :
    t.filter (fun x => decide (x.1 = n) && q x) = if q (n, a) then [(n, a)] else [] := by
  induction t generalizing lo with
  | nil => cases hf
  | cons y t ih =>
    obtain ⟨k, v⟩ := y
    obtain ⟨-, ht⟩ := Bool.and_eq_true_iff.1 h
    have hrest : t.filter (fun x => decide (x.1 = k) && q x) = [] := List.filter_eq_nil_iff.2 fun x hx hq =>
      absurd (tsorted_keys t ht x hx) (by rewrite [of_decide_eq_true (Bool.and_eq_true_iff.1 hq).1]; omega)
    by_cases hn : n = k
    · subst hn
      have ha : v = a := Option.some.inj ((if_pos rfl).symm.trans hf)
      subst ha
      by_cases hq : q (n, v) = true
      · rw [List.filter_cons_of_pos (by simpa using hq), hrest, if_pos hq]
      · rw [List.filter_cons_of_neg (by simpa using hq), hrest, if_neg hq]
    · rewrite [List.filter_cons_of_neg (by simp [Ne.symm hn])]
      exact ih ht ((if_neg hn).symm.trans hf)

end

/-- An acknowledgement of one entry, on the list alone. -/
def ackTab (t : Tab AlarmEnt) (n : Nat) : Tab AlarmEnt :=
  match tfind t n with
  | some a => if a.st = 1 then tput t n { a with st := 2 } else if a.st = 3 then tdel t n else t
  | none => t

theorem ackTab_some {t : Tab AlarmEnt} {n : Nat} {a : AlarmEnt} (h : tfind t n = some a) :
    ackTab t n = if a.st = 1 then tput t n { a with st := 2 } else if a.st = 3 then tdel t n else t := by
  unfold ackTab
  rw [h]

/-- What is left of an entry when it is acknowledged. -/
def ackEntry (x : Nat × AlarmEnt) : Option (Nat × AlarmEnt) := if x.2.st = 3 then none else some (x.1, { x.2 with st := 2 })

/-- The entries that an acknowledgement of all reaches. -/
def unacked (x : Nat × AlarmEnt) : Bool := decide (x.2.st ≠ 2)

/-- Acknowledging all entries of a list, from the front, treats each by itself. -/
theorem ackTab_all (t pre : Tab AlarmEnt) {lo : Nat} (hpre : ∀ x ∈ pre, x.1 < lo) (hs : tsorted lo t = true) (hst : ∀ x ∈ t, x.2.st ∈ [1, 2, 3]) :
    (t.filter unacked).foldl (fun t x => ackTab t x.1) (pre ++ t) = pre ++ t.filterMap ackEntry := by
  induction t generalizing pre lo with
  | nil => rfl
  | cons y t ih =>
    obtain ⟨n, a⟩ := y
    obtain ⟨hlo, ht⟩ := Bool.and_eq_true_iff.1 hs
    obtain ⟨ha, hst'⟩ := List.forall_mem_cons.1 hst
    have hprelt : ∀ x ∈ pre, x.1 < n := fun x hx => Nat.lt_of_lt_of_le (hpre x hx) (of_decide_eq_true hlo)
    have hfind : tfind (pre ++ (n, a) :: t) n = some a := (tfind_append pre _ n hprelt).trans (if_pos rfl)
    have hgrow (b : AlarmEnt) : ∀ x ∈ pre ++ [(n, b)], x.1 < n + 1 := List.forall_mem_append.2
      ⟨fun x hx => Nat.lt_succ_of_lt (hprelt x hx), List.forall_mem_singleton.2 (Nat.lt_succ_self n)⟩
    have hcases : a.st = 1 ∨ a.st = 2 ∨ a.st = 3 := by simpa using ha
    rcases hcases with h1 | h2 | h3
    · have hput : tput ((n, a) :: t) n { a with st := 2 } = (n, { a with st := 2 }) :: t := (if_neg (Nat.lt_irrefl n)).trans (if_pos rfl)
      rewrite [List.filter_cons_of_pos (by simp [unacked, h1]), List.foldl_cons, ackTab_some hfind, if_pos h1, tput_append pre _ n _ hprelt, hput,
        List.filterMap_cons_some (show ackEntry (n, a) = some (n, { a with st := 2 }) from if_neg (by simp [h1])),
        List.append_cons pre _ t, List.append_cons pre _ (t.filterMap ackEntry)]
      exact ih _ (hgrow _) ht hst'
    · have hsame : ({ a with st := 2 } : AlarmEnt) = a := by rw [← h2]
      rewrite [List.filter_cons_of_neg (by simp [unacked, h2]),
        List.filterMap_cons_some (show ackEntry (n, a) = some (n, a) from (if_neg (by simp [h2])).trans (by rw [hsame])),
        List.append_cons pre _ t, List.append_cons pre _ (t.filterMap ackEntry)]
      exact ih _ (hgrow _) ht hst'
    · have hdel : tdel ((n, a) :: t) n = t := (if_pos rfl).trans (tdel_absent t n fun x hx => Nat.ne_of_gt (tsorted_keys t ht x hx))
      rewrite [List.filter_cons_of_pos (by simp [unacked, h3]), List.foldl_cons, ackTab_some hfind, if_neg (by simp [h3]), if_pos h3,
        tdel_append pre _ n hprelt,
        hdel, List.filterMap_cons_none (show ackEntry (n, a) = none from if_pos h3)]
      exact ih pre (fun x hx => Nat.lt_succ_of_lt (hprelt x hx)) ht hst'

/-! ### ALARM_ACK (R462) -/

section
variable (s : State)

@[simp] theorem State.alarmAckOne_alarms (n keyId : Nat) : (s.alarmAckOne n keyId).alarms = ackTab s.alarms n := by
  unfold State.alarmAckOne ackTab
  cases tfind s.alarms n with
  | none => rfl
  | some a =>
    dsimp only
    split
    · exact State.alarmEnv_alarms _ _ _ _ _ _ _
    · split
      · exact State.alarmEnv_alarms _ _ _ _ _ _ _
      · rfl

theorem Framed.withAlarms {ks : List Nat} {s t : State} (x : Tab AlarmEnt) (h : Framed ks s t) : Framed ks s { t with alarms := x } := ⟨h.plain, h.2⟩

theorem State.alarmAckOne_framed {ks : List Nat} {s₀ : State} (n keyId : Nat) (h : Framed ks s₀ s) : Framed ks s₀ (s.alarmAckOne n keyId) := by
  unfold State.alarmAckOne
  split
  · split
    · exact State.alarmEnv_framed _ _ _ _ _ _ _ (h.withAlarms _)
    · split
      · exact State.alarmEnv_framed _ _ _ _ _ _ _ (h.withAlarms _)
      · exact h
  · exact h

/-- The entries that an acknowledgement reaches: one, or all. -/
def ackHits (t : Tab AlarmEnt) (entry : Nat) : Tab AlarmEnt :=
  t.filter fun a => (decide (a.1 = entry) || decide (entry = 0x1FF)) && unacked a

/-- Each of these entries is acknowledged. -/
def State.ackEach (s : State) (keyId : Nat) (hit : Tab AlarmEnt) : State := hit.foldl (fun (s : State) a => s.alarmAckOne a.1 keyId) s

theorem State.ackEach_alarms (keyId : Nat) (hit : Tab AlarmEnt) : (s.ackEach keyId hit).alarms = hit.foldl (fun t a => ackTab t a.1) s.alarms := by
  unfold State.ackEach
  induction hit generalizing s with
  | nil => rfl
  | cons x hit ih =>
    rw [List.foldl_cons, List.foldl_cons, ih, State.alarmAckOne_alarms]

theorem State.ackEach_framed {ks : List Nat} {s₀ : State} (keyId : Nat) (hit : Tab AlarmEnt)
    (h : Framed ks s₀ s) : Framed ks s₀ (s.ackEach keyId hit) := by
  unfold State.ackEach
  induction hit generalizing s with
  | nil => exact h
  | cons x hit ih => exact ih _ (s.alarmAckOne_framed x.1 keyId h)

theorem State.record_alarms_quiet (e : Ev) (h : e.alarm = false) : (s.record e).alarms = s.alarms := by
  unfold State.record
  dsimp only
  rw [h, if_neg Bool.false_ne_true, State.logEvent_alarms]

/-- An Operator's write has reached the alarm list. -/
def State.operatorTaken (s : State) : State := { s with role := { s.role with rwlAt := s.now } }

section
variable (dt n : Nat) (p : Port) (hs : s.session p = some .operator) (hl3 : s.pwr.l3 ≠ 1)
include hs hl3

theorem exec_alarmAck_operator (hact : s.isActive = true) : ∃ code source, exec (.alarmAck dt p n) s =
    .next (((s.advance dt).operatorTaken.alarmAckNote (n % 512) code source s.role.keyId).ackEach s.role.keyId (ackHits s.alarms (n % 512))) := by
  rewrite [exec_alarmAck]
  unfold State.alarmAck
  rewrite [State.withRole_taken (s.advance dt) (r := .operator) hs (List.mem_singleton.2 rfl), State.rwlTaken_out (s.advance dt) hl3]
  refine ⟨_, _, congrArg Host.Outcome.next ((if_neg ?_).trans rfl)⟩
  rewrite [show State.isActive { s.advance dt with role := { (s.advance dt).role with rwlAt := (s.advance dt).now } } = true from hact]
  decide

/-- What an acknowledgement of the active does: to the alarm list, and to nothing else. -/
theorem alarmAck_active (hact : s.isActive = true) : ∃ t, exec (.alarmAck dt p n) s = .next t ∧
    t.alarms = (ackHits s.alarms (n % 512)).foldl (fun t a => ackTab t a.1) s.alarms ∧ t.role = { s.role with rwlAt := s.now + dt } ∧
    Framed [] { s.advance dt with role := t.role } t := by
  obtain ⟨code, source, hexec⟩ := exec_alarmAck_operator s dt n p hs hl3 hact
  have hframed : Framed [] (s.advance dt).operatorTaken
      (((s.advance dt).operatorTaken.alarmAckNote (n % 512) code source s.role.keyId).ackEach s.role.keyId (ackHits s.alarms (n % 512))) :=
    State.ackEach_framed _ _ _ (State.record_framed _ _ (.refl _ _))
  have hrole := State.of_plain_role hframed.plain
  refine ⟨_, hexec, ?_, hrole, by rewrite [hrole]; exact hframed⟩
  rewrite [State.ackEach_alarms]
  unfold State.alarmAckNote
  rewrite [State.record_alarms_quiet _ _ rfl]
  rfl

theorem alarmAck_one (a : AlarmEnt) (hact : s.isActive = true) (hn : n < 256) (hsorted : tsorted 0 s.alarms = true) (hf : tfind s.alarms n = some a) :
    ∃ t, exec (.alarmAck dt p n) s = .next t ∧ (a.st = 1 → t.alarms = tput s.alarms n { a with st := 2 }) ∧ (a.st = 3 → t.alarms = tdel s.alarms n) ∧
      (a.st = 2 → t.alarms = s.alarms) ∧ t.role = { s.role with rwlAt := s.now + dt } ∧ Framed [] { s.advance dt with role := t.role } t := by
  obtain ⟨t, hexec, halarms, hrole, hframed⟩ := alarmAck_active s dt n p hs hl3 hact
  have hmod : n % 512 = n := Nat.mod_eq_of_lt (Nat.lt_trans hn (by decide))
  have hhits : ackHits s.alarms n = if unacked (n, a) then [(n, a)] else [] := by
    rewrite [← filter_key s.alarms n unacked a hsorted hf]
    unfold ackHits
    rewrite [show decide (n = 0x1FF) = false from decide_eq_false (by omega)]
    simp only [Bool.or_false]
  rewrite [hmod, hhits] at halarms
  refine ⟨t, hexec, fun h => ?_, fun h => ?_, fun h => ?_, hrole, hframed⟩
  · rw [halarms, if_pos (by simp [unacked, h]), List.foldl_cons, List.foldl_nil, ackTab_some hf, if_pos h]
  · rw [halarms, if_pos (by simp [unacked, h]), List.foldl_cons, List.foldl_nil, ackTab_some hf, if_neg (by rewrite [h]; decide), if_pos h]
  · rewrite [halarms, if_neg (by simp [unacked, h])]
    rfl

theorem alarmAck_all (hact : s.isActive = true) (hsorted : tsorted 0 s.alarms = true) (hst : ∀ x ∈ s.alarms, x.2.st ∈ [1, 2, 3]) :
    ∃ t, exec (.alarmAck dt p 0x1FF) s = .next t ∧ (∀ x ∈ t.alarms, x.2.st = 2) ∧ t.alarms.length = (s.alarms.filter fun x => x.2.st ≠ 3).length ∧
      Framed [] { s.advance dt with role := t.role } t := by
  obtain ⟨t, hexec, halarms, -, hframed⟩ := alarmAck_active s dt 0x1FF p hs hl3 hact
  have hhits : ackHits s.alarms (0x1FF % 512) = s.alarms.filter unacked := by
    unfold ackHits
    exact congrArg (s.alarms.filter ·) (funext fun a => by simp)
  have hall := ackTab_all s.alarms [] (lo := 0) (fun x hx => absurd hx List.not_mem_nil) hsorted hst
  rewrite [hhits] at halarms
  have hleft : t.alarms = s.alarms.filterMap ackEntry := halarms.trans hall
  refine ⟨t, hexec, fun x hx => ?_, ?_, hframed⟩
  · rewrite [hleft] at hx
    obtain ⟨y, -, hy⟩ := List.mem_filterMap.1 hx
    unfold ackEntry at hy
    split at hy
    · cases hy
    · cases hy
      rfl
  · rewrite [hleft]
    clear halarms hall hhits hleft hst hsorted
    induction s.alarms with
    | nil => rfl
    | cons y l ih =>
      by_cases h3 : y.2.st = 3
      · rw [List.filterMap_cons_none (show ackEntry y = none from if_pos h3), List.filter_cons_of_neg (by simp [h3]), ih]
      · rw [List.filterMap_cons_some (show ackEntry y = some _ from if_neg h3), List.filter_cons_of_pos (by simp [h3]), List.length_cons,
          List.length_cons, ih]

end

theorem alarmAck_refused (dt n : Nat) (p : Port) (hl3 : s.pwr.l3 ≠ 1) (h : s.session p ≠ some .operator ∨ s.isActive = false) :
    ∃ t, exec (.alarmAck dt p n) s = .next t ∧ t.alarms = s.alarms ∧ Framed [] { s.advance dt with role := t.role } t := by
  by_cases hs : s.session p = some .operator
  · have hexec : exec (.alarmAck dt p n) s = .next (s.advance dt).operatorTaken := by
      rewrite [exec_alarmAck]
      unfold State.alarmAck
      rewrite [State.withRole_taken (s.advance dt) (r := .operator) hs (List.mem_singleton.2 rfl), State.rwlTaken_out (s.advance dt) hl3]
      refine congrArg Host.Outcome.next ((if_pos ?_).trans rfl)
      rewrite [show State.isActive { s.advance dt with role := { (s.advance dt).role with rwlAt := (s.advance dt).now } } = false from
        h.resolve_left (not_not_intro hs)]
      rfl
    exact ⟨_, hexec, rfl, .refl _ _⟩
  · have hexec := exec_alarmAck dt n p s
    unfold State.alarmAck at hexec
    rewrite [State.withRole_denied (s.advance dt) _ _ _ _ fun r hr hm => hs (hr.trans (congrArg some (List.mem_singleton.1 hm))),
      State.lullLeave_awake (s.advance dt) 1 hl3] at hexec
    refine ⟨_, hexec, State.record_alarms_quiet _ _ rfl, ?_⟩
    rewrite [State.rwlIgnored_role]
    exact State.rwlIgnored_framed _ _ _ (.refl _ _)

end

/-! ### Pigeonholes (R472 to R474) -/

section
variable (s : State) (n : Nat)

@[simp] theorem State.raise_pgn (v : Nat) : (s.raise v).pgn = s.pgn := by
  unfold State.raise State.vecFire State.vecSend
  split
  · split
    · split <;> rfl
    · rfl
  · rfl

@[simp] theorem State.evt_pgn (f : Fld) (b : Nat) : (s.evt f b).pgn = s.pgn := State.raise_pgn _ _

theorem State.ite_pgn {c : Prop} [Decidable c] {t u : State} (ht : t.pgn = s.pgn) (hu : u.pgn = s.pgn) : (if c then t else u).pgn = s.pgn := by
  split
  · exact ht
  · exact hu

@[simp] theorem State.logEvent_pgn (e : Ev) : (s.logEvent e).pgn = s.pgn := by
  have hram (u : State) (r : Rec) : (u.ramPush r).pgn = u.pgn := by
    unfold State.ramPush
    dsimp only
    exact State.ite_pgn u ((State.evt_pgn _ _ _).trans (State.ite_pgn u rfl (State.evt_pgn _ _ _))) (State.ite_pgn u rfl (State.evt_pgn _ _ _))
  have hhold (u : State) (r : Rec) : (u.holdPush r).pgn = u.pgn := by
    unfold State.holdPush
    exact State.ite_pgn u rfl (State.evt_pgn _ _ _)
  unfold State.logEvent
  dsimp only
  split
  · exact State.ite_pgn s rfl rfl
  · exact State.ite_pgn s (hram _ _) (hhold _ _)

theorem State.record_pgn_quiet (e : Ev) (h : e.alarm = false) : (s.record e).pgn = s.pgn := by
  unfold State.record
  dsimp only
  rw [h, if_neg Bool.false_ne_true, State.logEvent_pgn]

/-- A pigeonhole is read in their table and nowhere else. -/
theorem State.pigeon_of_pgn {t : State} (h : t.pgn = s.pgn) : t.pigeon n = s.pigeon n := by
  unfold State.pigeon
  rw [h]

@[simp] theorem State.putPigeon_pigeon (g : Pgn) : (s.putPigeon n g).pigeon n = g := by
  unfold State.putPigeon State.pigeon tget
  rewrite [tfind_tput_same]
  rfl

/-- The position of a port in the head envelope. -/
def Pgn.word (g : Pgn) : Port → Nat
  | .pcie => g.wordP
  | .spi => g.wordS

/-- The next position of a port. -/
def Pgn.wordNext (g : Pgn) : Port → Pgn
  | .pcie => { g with wordP := g.wordP + 1 }
  | .spi => { g with wordS := g.wordS + 1 }

theorem State.pgnPop_shows (e : Env) (l : List Env) (h : (s.pigeon n).ring = e :: l) :
    (s.pgnPop n).pigeon n = { s.pigeon n with ring := l, wordP := 0, wordS := 0 } ∧
    (s.pgnPop n).get R.PGN_TAIL_INDEX n = (s.get R.PGN_TAIL_INDEX n + 1) % 2 ^ 32 ∧ Framed [] s (s.pgnPop n) := by
  unfold State.pgnPop
  dsimp only
  refine ⟨((s.putPigeon n _).pigeon_of_pgn n rfl).trans ((State.putPigeon_pigeon _ _ _).trans ?_), ?_,
    set_framed _ _ _ _ (.inr rfl) ⟨rfl, fun _ _ _ => rfl⟩⟩
  · rewrite [h]
    rfl
  · rewrite [State.inc_eq, State.get_set_same]
    rfl

section
variable (dt : Nat) (p : Port) (e : Env) (l : List Env)

theorem exec_pgnRead_awake (hl3 : s.pwr.l3 ≠ 1) (hn : n < 128) :
    exec (.pgnRead dt p n) s = .next (((s.advance dt).pgnRead p n).1.readBack p ((s.advance dt).pgnRead p n).2) := by
  show execPgnRead dt p n s = _
  unfold execPgnRead
  rw [State.lullLeave_awake (s.advance dt) 2 hl3, Nat.mod_eq_of_lt hn]

theorem State.readBack_pgn (v : Nat) : (s.readBack p v).pgn = s.pgn := by
  cases p <;> rfl

/-- A read of a pigeonhole that holds an envelope. -/
theorem State.pgnRead_cons (hring : (s.pigeon n).ring = e :: l) : s.pgnRead p n =
    if !s.hostConsumes n then (s, ofLe ((e.bytes.drop (4 * (s.pigeon n).word p)).take 4))
    else if (s.pigeon n).word p = 15 then (s.pgnPop n, ofLe ((e.bytes.drop (4 * (s.pigeon n).word p)).take 4))
    else (s.putPigeon n ((s.pigeon n).wordNext p), ofLe ((e.bytes.drop (4 * (s.pigeon n).word p)).take 4)) := by
  unfold State.pgnRead
  dsimp only
  split
  next hnil => cases hnil.symm.trans hring
  next e' l' hcons =>
    cases hcons.symm.trans hring
    cases p <;> rfl

section
variable (hcons : s.hostConsumes n = true) (hring : (s.pigeon n).ring = e :: l)
include hcons hring

theorem State.pgnRead_next (hw : (s.pigeon n).word p < 15) :
    s.pgnRead p n = (s.putPigeon n ((s.pigeon n).wordNext p), ofLe ((e.bytes.drop (4 * (s.pigeon n).word p)).take 4)) := by
  rw [s.pgnRead_cons n p e l hring, hcons, if_neg (by decide), if_neg (Nat.ne_of_lt hw)]

theorem State.pgnRead_last (hw : (s.pigeon n).word p = 15) : s.pgnRead p n = (s.pgnPop n, ofLe ((e.bytes.drop 60).take 4)) := by
  rw [s.pgnRead_cons n p e l hring, hcons, if_neg (by decide), if_pos hw, hw]

end

theorem pgnRead_word (hl3 : s.pwr.l3 ≠ 1) (hn : n < 128) (hcons : s.hostConsumes n = true) (hring : (s.pigeon n).ring = e :: l)
    (hw : (s.pigeon n).word p < 15) :
    ∃ t, exec (.pgnRead dt p n) s = .next t ∧ (t.port p).rdata = ofLe ((e.bytes.drop (4 * (s.pigeon n).word p)).take 4) ∧
      t.pigeon n = (s.pigeon n).wordNext p ∧ t.regs = s.regs := by
  have hexec := exec_pgnRead_awake s n dt p hl3 hn
  rewrite [State.pgnRead_next (s.advance dt) n p e l hcons hring hw] at hexec
  refine ⟨_, hexec, State.readBack_rdata _ _ _, (State.pigeon_of_pgn _ n (State.readBack_pgn _ p _)).trans (State.putPigeon_pigeon _ _ _), ?_⟩
  cases p <;> rfl

theorem pgnRead_pops (hl3 : s.pwr.l3 ≠ 1) (hn : n < 128) (hcons : s.hostConsumes n = true) (hring : (s.pigeon n).ring = e :: l)
    (hw : (s.pigeon n).word p = 15) :
    ∃ t, exec (.pgnRead dt p n) s = .next t ∧ (t.port p).rdata = ofLe ((e.bytes.drop 60).take 4) ∧
      t.pigeon n = { s.pigeon n with ring := l, wordP := 0, wordS := 0 } ∧ t.get R.PGN_TAIL_INDEX n = (s.get R.PGN_TAIL_INDEX n + 1) % 2 ^ 32 := by
  have hexec := exec_pgnRead_awake s n dt p hl3 hn
  rewrite [State.pgnRead_last (s.advance dt) n p e l hcons hring hw] at hexec
  obtain ⟨hpigeon, htail, -⟩ := (s.advance dt).pgnPop_shows n e l hring
  exact ⟨_, hexec, State.readBack_rdata _ _ _, (State.pigeon_of_pgn _ n (State.readBack_pgn _ p _)).trans hpigeon,
    (State.readBack_get _ _ _ _ _).trans htail⟩

/-- A pigeonhole that is empty, or that another consumes, is read without effect. -/
theorem State.pgnRead_still (h : (s.pigeon n).ring = [] ∨ s.hostConsumes n = false) :
    (s.pgnRead p n).1 = s ∧ ((s.pigeon n).ring = [] → (s.pgnRead p n).2 = 0) := by
  unfold State.pgnRead
  dsimp only
  cases hring : (s.pigeon n).ring with
  | nil => exact ⟨rfl, fun _ => rfl⟩
  | cons e l =>
    have hoff : s.hostConsumes n = false := h.resolve_left (by rewrite [hring]; exact List.cons_ne_nil _ _)
    dsimp only
    rewrite [hoff, if_pos (by decide)]
    exact ⟨rfl, fun hnil => absurd hnil (List.cons_ne_nil _ _)⟩

theorem pgnRead_idle (hl3 : s.pwr.l3 ≠ 1) (hn : n < 128) (h : (s.pigeon n).ring = [] ∨ s.hostConsumes n = false) :
    ∃ t, exec (.pgnRead dt p n) s = .next t ∧ t.pgn = s.pgn ∧ ((s.pigeon n).ring = [] → (t.port p).rdata = 0) ∧ t.regs = s.regs := by
  have hexec := exec_pgnRead_awake s n dt p hl3 hn
  obtain ⟨hstill, hzero⟩ := (s.advance dt).pgnRead_still n p h
  rewrite [hstill] at hexec
  refine ⟨_, hexec, State.readBack_pgn _ p _, fun hnil => (State.readBack_rdata _ _ _).trans (hzero hnil), ?_⟩
  cases p <;> rfl

theorem pgnRestart_restarts (hn : n < 128) :
    ∃ t, exec (.pgnRestart dt p n) s = .next t ∧
      t.pigeon n = (match p with | .pcie => { s.pigeon n with wordP := 0, bufP := [] } | .spi => { s.pigeon n with wordS := 0, bufS := [] }) ∧
      t.regs = s.regs ∧ t.inbox = s.inbox := by
  have hexec : exec (.pgnRestart dt p n) s = .next ((s.advance dt).pgnRestart p n) := by
    show execPgnRestart dt p n s = _
    unfold execPgnRestart
    rw [Nat.mod_eq_of_lt hn]
  refine ⟨_, hexec, ?_, rfl, rfl⟩
  unfold State.pgnRestart
  dsimp only
  rewrite [State.putPigeon_pigeon]
  cases p <;> rfl

theorem exec_pgnDiscard_mod (hn : n < 128) : exec (.pgnDiscard dt p n) s = .next ((s.advance dt).pgnDiscard n) := by
  show execPgnDiscard dt p n s = _
  unfold execPgnDiscard
  rw [Nat.mod_eq_of_lt hn]

theorem pgnDiscard_pops (hn : n < 128) (hcons : s.hostConsumes n = true) (hring : (s.pigeon n).ring = e :: l) :
    ∃ t, exec (.pgnDiscard dt p n) s = .next t ∧ t.pigeon n = { s.pigeon n with ring := l, wordP := 0, wordS := 0 } ∧
      t.get R.PGN_TAIL_INDEX n = (s.get R.PGN_TAIL_INDEX n + 1) % 2 ^ 32 ∧ Framed [] (s.advance dt) t := by
  have hexec := exec_pgnDiscard_mod s n dt p hn
  have hpop : (s.advance dt).pgnDiscard n = (s.advance dt).pgnPop n := by
    unfold State.pgnDiscard
    rewrite [show (s.advance dt).hostConsumes n = true from hcons, show ((s.advance dt).pigeon n).ring = e :: l from hring]
    exact if_neg (by simp)
  rewrite [hpop] at hexec
  exact ⟨_, hexec, (s.advance dt).pgnPop_shows n e l hring⟩

theorem exec_pgnDiscard_idle (hn : n < 128) (h : s.hostConsumes n = false ∨ (s.pigeon n).ring = []) :
    exec (.pgnDiscard dt p n) s = .next (s.advance dt) := by
  rewrite [exec_pgnDiscard_mod s n dt p hn]
  refine congrArg Host.Outcome.next (if_pos ?_)
  rcases h with h | h
  · rewrite [show (s.advance dt).hostConsumes n = false from h]
    rfl
  · rewrite [show ((s.advance dt).pigeon n).ring = [] from h]
    simp

/-- The words that a port has written of an envelope. -/
def Pgn.buf (g : Pgn) : Port → List Nat
  | .pcie => g.bufP
  | .spi => g.bufS

/-- A pigeonhole with other words written by a port. -/
def Pgn.withBuf (g : Pgn) (b : List Nat) : Port → Pgn
  | .pcie => { g with bufP := b }
  | .spi => { g with bufS := b }

/-- The envelope that a port has completed is submitted, or refused. -/
def State.pgnSubmitted (s : State) (p : Port) (n : Nat) (b : List Nat) : State :=
  if s.flag R.PGN_CFG_HOST_PRODUCER n && s.isActive then { s with inbox := s.inbox ++ [.host n b s.pm] }
  else s.record { code := 0x0106, role := (s.actor p).1, keyId := (s.actor p).2, items := [(1, n), (1, p.code)] }

theorem exec_pgnWrite_word (w : Nat) (hn : n < 128) : exec (.pgnWrite dt p n w) s =
    .next (if ((s.pigeon n).buf p ++ [w % 2 ^ 32]).length < 16 then (s.advance dt).putPigeon n ((s.pigeon n).withBuf ((s.pigeon n).buf p ++ [w % 2 ^ 32]) p)
      else ((s.advance dt).putPigeon n ((s.pigeon n).withBuf [] p)).pgnSubmitted p n ((s.pigeon n).buf p ++ [w % 2 ^ 32])) := by
  show execPgnWrite dt p n w s = _
  unfold execPgnWrite
  rewrite [Nat.mod_eq_of_lt hn]
  cases p <;> rfl

theorem pgnWrite_word (w : Nat) (b : List Nat) (hn : n < 128) (hb : b = (s.pigeon n).buf p) (hlen : b.length < 15) :
    ∃ t, exec (.pgnWrite dt p n w) s = .next t ∧ t.pigeon n = (s.pigeon n).withBuf (b ++ [w % 2 ^ 32]) p ∧ t.inbox = s.inbox ∧ t.regs = s.regs := by
  have hexec := exec_pgnWrite_word s n dt p w hn
  rewrite [← hb, if_pos (by rewrite [List.length_append]; exact Nat.succ_lt_succ hlen)] at hexec
  exact ⟨_, hexec, State.putPigeon_pigeon _ _ _, rfl, rfl⟩

theorem pgnWrite_last (w : Nat) (b : List Nat) (hn : n < 128) (hb : b = (s.pigeon n).buf p) (hlen : b.length = 15) :
    ∃ t, exec (.pgnWrite dt p n w) s = .next t ∧ t.pigeon n = (s.pigeon n).withBuf [] p ∧
      t.inbox = (if s.get R.PGN_CFG_HOST_PRODUCER n = 1 ∧ s.isActive = true then s.inbox ++ [.host n (b ++ [w % 2 ^ 32]) (s.advance dt).pm] else s.inbox) ∧
      Framed [] { s.advance dt with inbox := t.inbox } t := by
  have hexec := exec_pgnWrite_word s n dt p w hn
  rewrite [← hb, if_neg (by rewrite [List.length_append, hlen]; exact Nat.lt_irrefl 16)] at hexec
  refine ⟨_, hexec, ?_⟩
  unfold State.pgnSubmitted
  by_cases hok : s.get R.PGN_CFG_HOST_PRODUCER n = 1 ∧ s.isActive = true
  · have hcond : (((s.advance dt).putPigeon n ((s.pigeon n).withBuf [] p)).flag R.PGN_CFG_HOST_PRODUCER n &&
        ((s.advance dt).putPigeon n ((s.pigeon n).withBuf [] p)).isActive) = true := Bool.and_eq_true_iff.2 ⟨decide_eq_true hok.1, hok.2⟩
    rewrite [if_pos hcond, if_pos hok]
    exact ⟨State.putPigeon_pigeon _ _ _, rfl, ⟨rfl, fun _ _ _ => rfl⟩⟩
  · have hcond : ¬ (((s.advance dt).putPigeon n ((s.pigeon n).withBuf [] p)).flag R.PGN_CFG_HOST_PRODUCER n &&
        ((s.advance dt).putPigeon n ((s.pigeon n).withBuf [] p)).isActive) = true := fun h => by
      obtain ⟨hflag, hact⟩ := Bool.and_eq_true_iff.1 h
      exact hok ⟨of_decide_eq_true hflag, hact⟩
    rewrite [if_neg hcond, if_neg hok]
    refine ⟨(State.pigeon_of_pgn _ n (State.record_pgn_quiet _ _ rfl)).trans (State.putPigeon_pigeon _ _ _), State.record_inbox _ _, ?_⟩
    rewrite [State.record_inbox]
    exact State.record_framed _ _ ⟨rfl, fun _ _ _ => rfl⟩

end

end

/-! ### Vectors (R475, R477) -/

section
variable (s : State) (v : Nat)

theorem any_tput {α : Type} (q : Nat × α → Bool) (t : Tab α) (k : Nat) (x : α) (h : ∀ y, q (k, y) = false) : (tput t k x).any q = t.any q := by
  induction t with
  | nil => exact (List.any_cons).trans (by rewrite [h]; rfl)
  | cons y t ih =>
    obtain ⟨k', w⟩ := y
    unfold tput
    split
    · rw [List.any_cons, h, Bool.false_or]
    · split
      next hk => rw [List.any_cons, List.any_cons, h, ← hk, h]
      next => rw [List.any_cons, List.any_cons, ih]

theorem any_tdel {α : Type} (q : Nat × α → Bool) (t : Tab α) (k : Nat) (h : ∀ y, q (k, y) = false) : (tdel t k).any q = t.any q := by
  induction t with
  | nil => rfl
  | cons y t ih =>
    obtain ⟨k', w⟩ := y
    unfold tdel
    split
    next hk => rw [List.any_cons, ← hk, h, Bool.false_or, ih]
    next => rw [List.any_cons, List.any_cons, ih]

theorem State.evtPending_armed (x block : Nat) : (s.set R.IRQ_ARMED_ARMED x).evtPending block = s.evtPending block := by
  have hq (keys : List Nat) (hk : ∀ k ∈ keys, k ∈ R.evtFlds.map fun f => loc f 0) (y : Nat) :
      (decide (y ≠ 0) && decide (loc R.IRQ_ARMED_ARMED 0 % 8388608 ∈ keys)) = false :=
    Bool.and_eq_false_iff.2 (.inr (decide_eq_false fun h => armed_noEvent (hk _ h)))
  have hkeys : ∀ k ∈ (R.evtFlds.filter fun f => decide (blockId f = block)).map (fun f => loc f 0), k ∈ R.evtFlds.map fun f => loc f 0 := fun k hk => by
    obtain ⟨f, hf, he⟩ := List.mem_map.1 hk
    exact List.mem_map.2 ⟨f, (List.mem_filter.1 hf).1, he⟩
  unfold State.evtPending State.set
  dsimp only
  split
  · exact any_tdel _ _ _ (hq _ hkeys)
  · exact any_tput _ _ _ _ (hq _ hkeys)

theorem State.vecPending_armed (x : Nat) : (s.set R.IRQ_ARMED_ARMED x).vecPending v = s.vecPending v := by
  have hget (f : Fld) (b : Nat) (h : fkey f ≠ fkey R.IRQ_ARMED_ARMED) : (s.set R.IRQ_ARMED_ARMED x).get f b = s.get f b := State.get_set_ne _ _ _ _ h
  have hsrc (src : Nat) : (s.set R.IRQ_ARMED_ARMED x).srcPending src = s.srcPending src := by
    unfold State.srcPending State.hostConsumes State.flag
    rewrite [State.evtPending_armed, hget R.PGN_CFG_HOST_CONSUMER _ (by decide), hget R.CAN_ES_STAT_NEW _ (by decide)]
    rfl
  unfold State.vecPending State.flag
  simp only [hsrc, hget R.IRQ_ROUTE_EN _ (by decide), hget R.IRQ_ROUTE_VECTOR _ (by decide)]

theorem pba_clear (n : Nat) : (if n.testBit v then n ^^^ 2 ^ v else n).testBit v = false ∧
    ∀ k, k ≠ v → (if n.testBit v then n ^^^ 2 ^ v else n).testBit k = n.testBit k := by
  split
  next h =>
    refine ⟨by rewrite [Nat.testBit_xor, h, Nat.testBit_two_pow_self]; rfl, fun k hk => ?_⟩
    rw [Nat.testBit_xor, Nat.testBit_two_pow_of_ne (Ne.symm hk), Bool.xor_false]
  next h => exact ⟨Bool.eq_false_of_not_eq_true h, fun _ _ => rfl⟩

/-- A vector with its pending bit cleared and armed; it has not fired. -/
def State.vecArmed (s : State) (v : Nat) : State := (s.pbaClear v).set R.IRQ_ARMED_ARMED (s.get R.IRQ_ARMED_ARMED ||| 2 ^ v)

theorem State.vecArmed_framed : Framed [] s (s.vecArmed v) := set_framed _ _ _ _ (.inr rfl) ⟨rfl, fun _ _ _ => rfl⟩

theorem State.vecArmed_armed : (s.vecArmed v).get R.IRQ_ARMED_ARMED = (s.get R.IRQ_ARMED_ARMED ||| 2 ^ v) % 2 ^ 32 := State.get_set_same _ R.IRQ_ARMED_ARMED _ 0

theorem State.irqAck_eq : s.irqAck v = if s.vecPending v then (s.vecArmed v).vecFire v else s.vecArmed v := by
  have hpending : (s.vecArmed v).vecPending v = s.vecPending v := State.vecPending_armed (s.pbaClear v) v _
  rewrite [← hpending]
  rfl

theorem exec_irqAck_lt (dt : Nat) (p : Port) (hv : v < 32) : exec (.irqAck dt p v) s = .next ((s.advance dt).irqAck v) := by
  rw [exec_irqAck, Nat.mod_eq_of_lt hv]

theorem irqAck_arms (dt : Nat) (p : Port) (hv : v < 32) (hidle : s.vecPending v = false) :
    ∃ t, exec (.irqAck dt p v) s = .next t ∧ t.irqPba.testBit v = false ∧ (∀ k, k < 32 → k ≠ v → t.irqPba.testBit k = s.irqPba.testBit k) ∧
      t.get R.IRQ_ARMED_ARMED = (s.get R.IRQ_ARMED_ARMED ||| 2 ^ v) % 2 ^ 32 ∧ t.get R.IRQ_FIRED_COUNT = s.get R.IRQ_FIRED_COUNT ∧ t.msiSent = s.msiSent ∧
      Framed [] (s.advance dt) t := by
  have hexec := exec_irqAck_lt s v dt p hv
  rewrite [State.irqAck_eq, show (s.advance dt).vecPending v = false from hidle, if_neg Bool.false_ne_true] at hexec
  obtain ⟨hself, hothers⟩ := pba_clear v s.irqPba
  exact ⟨_, hexec, hself, fun k _ hk => hothers k hk, State.vecArmed_armed _ _, State.get_set_ne _ _ _ _ (by decide), rfl, State.vecArmed_framed _ _⟩

/-- A vector that fires: it is disarmed and counted, and its message is sent or its pending bit set. -/
def State.vecDisarmed (s : State) (v : Nat) : State := (s.set R.IRQ_ARMED_ARMED (s.get R.IRQ_ARMED_ARMED ^^^ 2 ^ v)).inc R.IRQ_FIRED_COUNT

theorem State.vecFire_armed (h : (s.get R.IRQ_ARMED_ARMED).testBit v = true) : s.vecFire v = (s.vecDisarmed v).vecSend v := if_pos h

theorem State.vecSend_get (f : Fld) (b : Nat) : (s.vecSend v).get f b = s.get f b := by
  unfold State.vecSend
  split <;> rfl

theorem State.vecSend_message (hpba : s.irqPba.testBit v = false) :
    (s.msixEnable = true → s.vecMasked v = false → tget (s.vecSend v).msiSent v 0 = tget s.msiSent v 0 + 1 ∧ (s.vecSend v).irqPba.testBit v = false) ∧
    ((s.msixEnable = false ∨ s.vecMasked v = true) → (s.vecSend v).msiSent = s.msiSent ∧ (s.vecSend v).irqPba.testBit v = true) := by
  refine ⟨fun hon hopen => ?_, fun h => ?_⟩
  · have hsend : s.vecSend v = { s with msiSent := tput s.msiSent v (tget s.msiSent v 0 + 1) } := if_pos (by rewrite [hon, hopen]; rfl)
    rewrite [hsend]
    refine ⟨?_, hpba⟩
    dsimp only
    rewrite [tget, tfind_tput_same]
    rfl
  · have hsend : s.vecSend v = { s with irqPba := s.irqPba ||| 2 ^ v } := by
      refine if_neg fun hgo => ?_
      obtain ⟨hon, hopen⟩ := Bool.and_eq_true_iff.1 hgo
      rcases h with h | h
      · exact Bool.false_ne_true (h.symm.trans hon)
      · rewrite [h] at hopen
        exact Bool.false_ne_true hopen
    rewrite [hsend]
    exact ⟨rfl, by rw [Nat.testBit_or, Nat.testBit_two_pow_self, Bool.or_true]⟩

theorem irqAck_fires (dt : Nat) (p : Port) (hv : v < 32) (hpend : s.vecPending v = true) :
    ∃ t, exec (.irqAck dt p v) s = .next t ∧ (t.get R.IRQ_ARMED_ARMED).testBit v = false ∧
      t.get R.IRQ_FIRED_COUNT = (s.get R.IRQ_FIRED_COUNT + 1) % 2 ^ 32 ∧
      (s.msixEnable = true → s.vecMasked v = false → tget t.msiSent v 0 = tget s.msiSent v 0 + 1 ∧ t.irqPba.testBit v = false) ∧
      ((s.msixEnable = false ∨ s.vecMasked v = true) → t.msiSent = s.msiSent ∧ t.irqPba.testBit v = true) ∧ Framed [] (s.advance dt) t := by
  have hexec := exec_irqAck_lt s v dt p hv
  have hbit : (((s.advance dt).vecArmed v).get R.IRQ_ARMED_ARMED).testBit v = true := by
    rewrite [State.vecArmed_armed, Nat.testBit_mod_two_pow, Nat.testBit_or, Nat.testBit_two_pow_self, Bool.or_true, decide_eq_true hv]
    rfl
  rewrite [State.irqAck_eq, show (s.advance dt).vecPending v = true from hpend, if_pos rfl, State.vecFire_armed _ _ hbit] at hexec
  refine ⟨_, hexec, ?_, ?_, ?_⟩
  · rewrite [State.vecSend_get]
    unfold State.vecDisarmed
    rewrite [State.inc_get_ne _ _ (by decide), State.get_set_same, show R.IRQ_ARMED_ARMED.width = 32 from rfl, Nat.testBit_mod_two_pow,
      Nat.testBit_xor, hbit,
      Nat.testBit_two_pow_self]
    exact Bool.and_false _
  · rewrite [State.vecSend_get]
    unfold State.vecDisarmed
    rewrite [State.inc_eq, State.get_set_same, State.get_set_ne _ _ _ _ (by decide)]
    unfold State.vecArmed
    rewrite [State.get_set_ne _ _ _ _ (by decide)]
    rfl
  · obtain ⟨hmsg, hnomsg⟩ := (((s.advance dt).vecArmed v).vecDisarmed v).vecSend_message v (pba_clear v s.irqPba).1
    exact ⟨hmsg, hnomsg, State.vecSend_framed _ _ (set_framed _ _ _ _ (.inr rfl) (set_framed _ _ _ _ (.inr rfl) (State.vecArmed_framed _ _)))⟩

/-! ### MSIX_UNMASK (R477) -/

/-- A vector with its mask bit written 0; its message is still to be sent. -/
def State.vecUnmasked (s : State) (v : Nat) : State := s.msixPut (4 * v + 3) (s.msixWord (4 * v + 3) / 2 * 2)

theorem State.vecUnmasked_open : (s.vecUnmasked v).vecMasked v = false := by
  have heven : s.msixWord (4 * v + 3) / 2 * 2 % 2 ^ 32 % 2 = 0 := by omega
  have hne : ¬ s.msixWord (4 * v + 3) / 2 * 2 % 2 ^ 32 = 1 := by omega
  have hmsix : (s.vecUnmasked v).msix = tput s.msix (4 * v + 3) (s.msixWord (4 * v + 3) / 2 * 2 % 2 ^ 32) := by
    unfold State.vecUnmasked State.msixPut
    dsimp only
    rw [show (4 * v + 3) % 4 = 3 by omega, if_pos rfl, if_neg hne]
  refine decide_eq_false fun h => ?_
  rewrite [hmsix, tget, tfind_tput_same, Option.getD_some, heven] at h
  exact absurd h (by decide)

theorem exec_msixUnmask_masked (dt : Nat) (p : Port) (hv : v < 32) (hmask : s.vecMasked v = true) : exec (.msixUnmask dt p v) s =
    .next (if s.irqPba.testBit v && s.msixEnable then
      { ((s.advance dt).vecUnmasked v).pbaClear v with msiSent := tput s.msiSent v (tget s.msiSent v 0 + 1) } else (s.advance dt).vecUnmasked v) := by
  have hvec : (4 * v + 3) / 4 = v := by omega
  show execMsixUnmask dt p v s = _
  unfold execMsixUnmask
  rewrite [Nat.mod_eq_of_lt hv]
  refine congrArg Host.Outcome.next ?_
  unfold State.msixWrite
  dsimp only
  rewrite [hvec, show (s.advance dt).vecMasked v = true from hmask, show (4 * v + 3) % 4 = 3 by omega]
  change (if decide (3 = 3) && true && !((s.advance dt).vecUnmasked v).vecMasked v && s.irqPba.testBit v && s.msixEnable then _ else _) = _
  rewrite [State.vecUnmasked_open]
  rfl

theorem msixUnmask_unmasks (dt : Nat) (p : Port) (hv : v < 32) (hmask : s.vecMasked v = true) :
    ∃ t, exec (.msixUnmask dt p v) s = .next t ∧ t.vecMasked v = false ∧
      (s.irqPba.testBit v = true → s.msixEnable = true → tget t.msiSent v 0 = tget s.msiSent v 0 + 1 ∧ t.irqPba.testBit v = false) ∧
      ((s.irqPba.testBit v = false ∨ s.msixEnable = false) → t.msiSent = s.msiSent ∧ t.irqPba = s.irqPba) ∧
        Framed [] { s.advance dt with msix := t.msix } t := by
  have hexec := exec_msixUnmask_masked s v dt p hv hmask
  have hopen := (s.advance dt).vecUnmasked_open v
  by_cases hsend : (s.irqPba.testBit v && s.msixEnable) = true
  · rewrite [if_pos hsend] at hexec
    obtain ⟨hbit, hon⟩ := Bool.and_eq_true_iff.1 hsend
    refine ⟨_, hexec, hopen, fun _ _ => ⟨?_, (pba_clear v s.irqPba).1⟩, fun h => ?_, ⟨rfl, fun _ _ _ => rfl⟩⟩
    · dsimp only
      rewrite [tget, tfind_tput_same]
      rfl
    · rcases h with h | h
      · exact absurd (h.symm.trans hbit) Bool.false_ne_true
      · exact absurd (h.symm.trans hon) Bool.false_ne_true
  · rewrite [if_neg hsend] at hexec
    exact ⟨_, hexec, hopen, fun hbit hon => absurd (Bool.and_eq_true_iff.2 ⟨hbit, hon⟩) hsend, fun _ => ⟨rfl, rfl⟩, ⟨rfl, fun _ _ _ => rfl⟩⟩

end

/-- Settles O59: an Operator's acknowledgement changes the alarm list alone; a pigeonhole gives its words in order; a vector is armed, and fires where
a source is pending (logs 250, 251, 257, 258). -/
theorem alarmsPigeonholesInterrupts : Obligations.AlarmsPigeonholesInterrupts := by
  unfold Obligations.AlarmsPigeonholesInterrupts
  refine ⟨fun dt n p a s hs hl3 hact hn hsorted hf => alarmAck_one s dt n p hs hl3 a hact hn hsorted hf,
    fun dt p s hs hl3 hact hsorted hst => alarmAck_all s dt p hs hl3 hact hsorted hst, fun dt n p s => alarmAck_refused s dt n p,
    ?_, ?_, fun dt n p s => pgnRead_idle s n dt p, fun dt n p s => pgnRestart_restarts s n dt p, fun dt n p e l s => pgnDiscard_pops s n dt p e l,
    fun dt n p s => exec_pgnDiscard_idle s n dt p, ?_, ?_, fun dt v p s => irqAck_arms s v dt p, fun dt v p s => irqAck_fires s v dt p,
    fun dt v p s => msixUnmask_unmasks s v dt p⟩
  · intro dt n p e l s hl3 hn hcons hring hw
    cases p with
    | pcie => exact pgnRead_word s n dt .pcie e l hl3 hn hcons hring hw
    | spi => exact pgnRead_word s n dt .spi e l hl3 hn hcons hring hw
  · intro dt n p e l s hl3 hn hcons hring hw
    cases p with
    | pcie => exact pgnRead_pops s n dt .pcie e l hl3 hn hcons hring hw
    | spi => exact pgnRead_pops s n dt .spi e l hl3 hn hcons hring hw
  · intro dt n w p b s hn hb hlen
    cases p with
    | pcie => exact pgnWrite_word s n dt .pcie w b hn hb hlen
    | spi => exact pgnWrite_word s n dt .spi w b hn hb hlen
  · intro dt n w p b s hn hb hlen
    cases p with
    | pcie => exact pgnWrite_last s n dt .pcie w b hn hb hlen
    | spi => exact pgnWrite_last s n dt .spi w b hn hb hlen

end Sys2Proof.Machine
end

section
set_option Elab.async false
/-!
PROOF of the statements about reset values (ResetValues) and about supplies and resets (SuppliesAndResets, 21_package_and_electrical.md): what a
reset of the domains keeps, then each command.
-/

namespace Sys2Proof.Machine

open Sys2Proof

/-! ### The state after reset (R459) -/

/-- Settles O2: no register is listed in the state after reset, so each field reads the reset value of its descriptor (log 5). -/
theorem resetValues : Obligations.ResetValues := by
  unfold Obligations.ResetValues
  refine ⟨fun f _ b => rfl, fun v => ⟨rfl, fun hv => ?_⟩, rfl, rfl, rfl, rfl, rfl, rfl, rfl, rfl, ?_⟩
  · have harmed : State.reset.get R.IRQ_ARMED_ARMED = 2 ^ 32 - 1 := rfl
    rw [harmed, Nat.testBit_two_pow_sub_one, decide_eq_true hv]
  · exact ⟨rfl, rfl, rfl, rfl, rfl, rfl, rfl⟩

/-! ### A reset of every domain but the always-on domain (R496) -/

section
variable (s : State)

/-- Several fields take their values, in bank 0. -/
def State.setAll (s : State) (l : List (Fld × Nat)) : State := l.foldl (fun s x => s.set x.1 x.2) s

theorem State.setAll_get (l : List (Fld × Nat)) (g : Fld) (b : Nat) (h : ∀ x ∈ l, fkey g ≠ fkey x.1) : (s.setAll l).get g b = s.get g b := by
  unfold State.setAll
  induction l generalizing s with
  | nil => rfl
  | cons x l ih =>
    obtain ⟨hx, hl⟩ := List.forall_mem_cons.1 h
    exact (ih _ hl).trans (State.get_set_ne _ _ _ _ hx)

/-- The fields that the always-on domain holds through a reset. -/
def aonFlds : List Fld :=
  [R.PWR_WAKE_SRC_CAN, R.PWR_WAKE_SRC_WAKE_IN, R.PWR_WAKE_SRC_RTC, R.PWR_WAKE_SRC_SAFE_IN, R.PWR_WAKE_SRC_HOST, R.PWR_WAKE_SRC_POR,
   R.PWR_RTC_ALARM_SEC, R.PWR_WAKE_EN_CAN, R.PWR_WAKE_EN_WAKE_IN, R.PWR_WAKE_EN_WAKE_POL, R.PWR_WAKE_EN_RTC, R.PWR_WAKE_EN_SAFE_IN,
   R.PWR_WAKE_EN_HOST, R.PWR_WAKE_SRC_THERMAL_OFF]

theorem State.keepRetained_eq (old : State) :
    s.keepRetained old = { s.setAll (aonFlds.map fun f => (f, old.get f)) with gnssRet := old.gnssRet } := by
  unfold State.keepRetained aonFlds State.setAll
  simp only [List.map_cons, List.map_nil, List.foldl_cons, List.foldl_nil]

theorem State.keepRetained_regs (old : State) : (s.keepRetained old).regs = (s.setAll (aonFlds.map fun f => (f, old.get f))).regs := by
  rw [State.keepRetained_eq]

/-- A field is read in the register table and nowhere else. -/
theorem State.get_of_regs {t : State} (h : t.regs = s.regs) (g : Fld) (b : Nat) : t.get g b = s.get g b := by
  unfold State.get
  rw [h]

theorem aonFlds_kept : ∀ f ∈ aonFlds, f ∈ keptFlds := by decide

/-- A key that no retained field has. -/
theorem kept_ne {g : Fld} (hg : fkey g ∉ keptFlds.map fkey) {k : Fld} (hk : k ∈ keptFlds) : fkey g ≠ fkey k := fun e => hg (e ▸ List.mem_map_of_mem hk)

theorem State.keepRetained_get (old : State) {g : Fld} (b : Nat) (hg : fkey g ∉ keptFlds.map fkey) : (s.keepRetained old).get g b = s.get g b := by
  refine (State.get_of_regs _ (s.keepRetained_regs old) g b).trans (s.setAll_get _ g b fun x hx => ?_)
  obtain ⟨f, hf, rfl⟩ := List.mem_map.1 hx
  exact kept_ne hg (aonFlds_kept f hf)

/-- A reset leaves every field but the retained ones at its reset value. -/
theorem State.domainReset_get (g : Fld) (b : Nat) (hg : fkey g ∉ keptFlds.map fkey) : s.domainReset.get g b = g.reset := by
  unfold State.domainReset
  dsimp only
  rewrite [State.keepRetained_get _ _ _ hg, State.get_set_ne _ _ _ _ (kept_ne hg (by decide)), State.get_set_ne _ _ _ _ (kept_ne hg (by decide)),
    State.setB_get_ne _ _ _ _ (kept_ne hg (by decide)), State.setB_get_ne _ _ _ _ (kept_ne hg (by decide)),
    State.setB_get_ne _ _ _ _ (kept_ne hg (by decide)),
    State.setB_get_ne _ _ _ _ (kept_ne hg (by decide))]
  rfl

theorem State.setAll_eq (l : List (Fld × Nat)) : ∃ r, s.setAll l = { s with regs := r } := by
  unfold State.setAll
  induction l generalizing s with
  | nil => exact ⟨s.regs, rfl⟩
  | cons x l ih =>
    obtain ⟨r, hr⟩ := ih (s.set x.1 x.2)
    exact ⟨r, hr⟩

theorem State.keepRetained_rest (old : State) : ∃ r, s.keepRetained old = { s with regs := r, gnssRet := old.gnssRet } := by
  obtain ⟨r, hr⟩ := s.setAll_eq (aonFlds.map fun f => (f, old.get f))
  rewrite [s.keepRetained_eq old, hr]
  exact ⟨r, rfl⟩

/-- What a reset of the domains keeps apart from registers. -/
theorem State.domainReset_keeps : s.domainReset.time.rtc = s.time.rtc ∧ s.domainReset.gnssRet = s.gnssRet ∧ s.domainReset.mnf.slotA = s.mnf.slotA ∧
    s.domainReset.mnf.slotB = s.mnf.slotB ∧ s.domainReset.role.makerKey = s.role.makerKey ∧ s.domainReset.mus.running = false := by
  unfold State.domainReset
  dsimp only
  generalize hu : State.set _ R.DEV_GRADE_ISLAND_FUSED _ = u
  obtain ⟨r, hr⟩ := u.keepRetained_rest s
  rewrite [hr, ← hu]
  exact ⟨rfl, rfl, rfl, rfl, rfl, rfl⟩

section
variable (straps : Straps) (n : Nat)

/-- MUSTER as a reset leaves it: running, counted from an instant, with the straps sampled. -/
theorem State.startMuster_shows : (s.startMuster straps n).mode = 1 ∧
    (s.startMuster straps n).mus = { s.domainReset.mus with running := true, at_ := n, straps := straps, porLow := false } ∧
    (s.startMuster straps n).get R.TWIN_STAT_SEAT = (if straps.seatB then 1 else 0) := by
  unfold State.startMuster
  generalize s.domainReset = u
  refine ⟨?_, rfl, ?_⟩
  · exact (State.get_set_ne _ R.MODE_STAT_PHASE _ _ (by decide)).trans ((State.get_set_same _ R.MODE_STAT_MODE 1 0).trans rfl)
  · exact (State.get_set_ne _ R.MODE_STAT_PHASE _ _ (by decide)).trans ((State.get_set_ne _ R.MODE_STAT_MODE _ _ (by decide)).trans
      (State.get_setB_same _ _ _ _ rfl))

end

end

/-! ### Supplies and resets (R494 to R497) -/

section
variable (dt : Nat) (s : State)

theorem powerUp_raises : ∃ t, exec (.powerUp dt) s = .next t ∧ t.mus.aonAt = some (s.now + dt) ∧ t.mus.enIo = true ∧
    t.mus.enCore = s.railsOk ioRails ∧ Framed [] { s.advance dt with mus := t.mus } t :=
  ⟨_, rfl, rfl, rfl, rfl, .refl _ _⟩

/-- The rails in range after some more have come. -/
def State.railsRisen (s : State) (rails : List Rail) : State :=
  let t : State := { s with mus := { s.mus with railOk := rails.filter (fun r => r ∉ s.mus.railOk) ++ s.mus.railOk } }
  { t with mus := { t.mus with enCore := t.mus.enCore || (t.mus.enIo && t.railsOk ioRails) } }

theorem State.railsRisen_ok (rails : List Rail) (h : ∀ r ∈ mainRails, r ∈ rails) : (s.railsRisen rails).railsOk mainRails = true := by
  unfold State.railsOk State.railsRisen
  refine List.all_eq_true.2 fun r hr => decide_eq_true ?_
  by_cases hon : r ∈ s.mus.railOk
  · exact List.mem_append_right _ hon
  · exact List.mem_append_left _ (List.mem_filter.2 ⟨h r hr, decide_eq_true hon⟩)

theorem exec_railPowerGood_risen (rails : List Rail) : exec (.railPowerGood dt rails) s =
    if !((s.advance dt).railsRisen rails).railsOk mainRails || ((s.advance dt).railsRisen rails).mus.porLow then .next ((s.advance dt).railsRisen rails)
    else if ((s.advance dt).railsRisen rails).mus.wake || ((s.advance dt).railsRisen rails).mus.brown then
      .next (((s.advance dt).railsRisen rails).startMuster ((s.advance dt).railsRisen rails).mus.straps (s.now + dt + 1000000))
    else if ((s.advance dt).railsRisen rails).mus.running && ((s.advance dt).railsRisen rails).get R.MODE_STAT_PHASE = 0 &&
        ((s.advance dt).railsRisen rails).mode = 1 && ((s.advance dt).railsRisen rails).powerDone then
      .next (((s.advance dt).railsRisen rails).set R.MODE_STAT_PHASE 1)
    else .next ((s.advance dt).railsRisen rails) := rfl

theorem railPowerGood_musters (rails : List Rail) (hlow : s.mus.porLow = false) (hall : ∀ r ∈ mainRails, r ∈ rails) (hwake : s.mus.wake = true) :
    ∃ t, exec (.railPowerGood dt rails) s = .next t ∧ t.mode = 1 ∧ t.mus.running = true ∧ t.mus.at_ = s.now + dt + 1000000 := by
  have hexec : exec (.railPowerGood dt rails) s =
      .next (((s.advance dt).railsRisen rails).startMuster ((s.advance dt).railsRisen rails).mus.straps (s.now + dt + 1000000)) := by
    rewrite [exec_railPowerGood_risen, (s.advance dt).railsRisen_ok rails hall, show ((s.advance dt).railsRisen rails).mus.porLow = false from hlow,
      show ((s.advance dt).railsRisen rails).mus.wake = true from hwake]
    rfl
  obtain ⟨hmode, hmus, -⟩ := ((s.advance dt).railsRisen rails).startMuster_shows ((s.advance dt).railsRisen rails).mus.straps (s.now + dt + 1000000)
  exact ⟨_, hexec, hmode, (congrArg MusterSt.running hmus :), (congrArg MusterSt.at_ hmus :)⟩

theorem porNRelease_musters (st : Straps) (haon : s.mus.aonAt ≠ none) (hio : s.mus.enIo = true) :
    ∃ t, exec (.porNRelease dt st) s = .next t ∧ t.mode = 1 ∧ t.mus.running = true ∧ t.mus.at_ = s.now + dt ∧ t.mus.straps = st ∧
      t.mus.porLow = false ∧ t.mus.porReset = s.mus.porReset ∧ t.get R.TWIN_STAT_SEAT = (if st.seatB then 1 else 0) := by
  have hexec : exec (.porNRelease dt st) s = .next ((({ s.advance dt with mus := { s.mus with thermalOff := false } } : State).startMuster st
      (s.now + dt)).porNoted s.mus.porReset) := by
    show execPorNRelease dt st s = _
    unfold execPorNRelease
    exact (if_neg haon).trans (if_neg (by rewrite [show (s.advance dt).mus.enIo = true from hio]; decide))
  obtain ⟨hmode, hmus, hseat⟩ := State.startMuster_shows { s.advance dt with mus := { s.mus with thermalOff := false } } st (s.now + dt)
  generalize State.startMuster _ st (s.now + dt) = u at hexec hmode hmus hseat
  exact ⟨_, hexec, hmode, (congrArg MusterSt.running hmus :), (congrArg MusterSt.at_ hmus :), (congrArg MusterSt.straps hmus :),
    (congrArg MusterSt.porLow hmus :), rfl, hseat⟩

theorem exec_porNAssert_short (low : Nat) (h : low < 5000) : exec (.porNAssert dt low) s = .next (s.advance dt) := by
  show execPorNAssert dt low s = _
  unfold execPorNAssert
  exact if_pos h

/-- The state under a low of POR_N. -/
def State.porHeld (s : State) : State := { s.domainReset with mus := { s.domainReset.mus with porLow := true, porReset := s.mus.running } }

theorem State.porHeld_regs : s.porHeld.regs = s.domainReset.regs := rfl

theorem porNAssert_resets (low : Nat) (h : 5000 ≤ low) :
    ∃ t, exec (.porNAssert dt low) s = .next t ∧ t.mus.porLow = true ∧ t.mus.porReset = s.mus.running ∧ t.mus.running = false ∧
      t.time.rtc = (s.advance dt).time.rtc ∧ t.gnssRet = s.gnssRet ∧ t.mnf.slotA = s.mnf.slotA ∧ t.mnf.slotB = s.mnf.slotB ∧
      t.role.makerKey = s.role.makerKey ∧ (∀ f b, fkey f ∉ keptFlds.map fkey → t.get f b = f.reset) := by
  have hexec : exec (.porNAssert dt low) s = .next (s.advance dt).porHeld := by
    show execPorNAssert dt low s = _
    unfold execPorNAssert
    exact if_neg (Nat.not_lt.2 h)
  obtain ⟨hrtc, hret, ha, hb, hkey, hrun⟩ := (s.advance dt).domainReset_keeps
  exact ⟨_, hexec, rfl, rfl, hrun, hrtc, hret, ha, hb, hkey,
    fun f b hf => (State.get_of_regs _ (s.advance dt).porHeld_regs f b).trans ((s.advance dt).domainReset_get f b hf)⟩

theorem exec_brownOut_short (low : Nat) (r : Rail) (h : low < 2000 ∨ r = .aon) : exec (.brownOut dt r low) s = .next (s.advance dt) := by
  show execBrownOut dt r low s = _
  unfold execBrownOut
  exact if_pos (Bool.or_eq_true_iff.2 (h.imp decide_eq_true decide_eq_true))

/-- The state of a brown-out of a rail. -/
def State.brownHeld (s : State) (r : Rail) : State :=
  { s.domainReset with mus := { s.domainReset.mus with railOk := s.mus.railOk.filter (· ≠ r), brown := true, straps := s.mus.straps } }

theorem State.brownHeld_regs (r : Rail) : (s.brownHeld r).regs = s.domainReset.regs := rfl

theorem brownOut_resets (low : Nat) (r : Rail) (h : 2000 ≤ low) (hr : r ≠ .aon) :
    ∃ t, exec (.brownOut dt r low) s = .next t ∧ t.mus.brown = true ∧ r ∉ t.mus.railOk ∧ t.time.rtc = (s.advance dt).time.rtc ∧
      (∀ f b, fkey f ∉ keptFlds.map fkey → t.get f b = f.reset) := by
  have hexec : exec (.brownOut dt r low) s = .next ((s.advance dt).brownHeld r) := by
    show execBrownOut dt r low s = _
    unfold execBrownOut
    exact if_neg fun hshort => (Bool.or_eq_true_iff.1 hshort).elim (fun hl => Nat.not_lt.2 h (of_decide_eq_true hl)) fun ha => hr (of_decide_eq_true ha)
  obtain ⟨hrtc, -⟩ := (s.advance dt).domainReset_keeps
  exact ⟨_, hexec, rfl, fun hmem => of_decide_eq_true (List.mem_filter.1 hmem).2 rfl, hrtc,
    fun f b hf => (State.get_of_regs _ ((s.advance dt).brownHeld_regs r) f b).trans ((s.advance dt).domainReset_get f b hf)⟩

/-- What a loss of VDD_AON clears among the fields of the always-on domain, and the cause that it shows. -/
def aonLossFlds : List (Fld × Nat) :=
  [(R.PWR_WAKE_SRC_CAN, 0), (R.PWR_WAKE_SRC_WAKE_IN, 0), (R.PWR_WAKE_SRC_RTC, 0), (R.PWR_WAKE_SRC_SAFE_IN, 0), (R.PWR_WAKE_SRC_HOST, 0),
   (R.PWR_WAKE_SRC_THERMAL_OFF, 0), (R.PWR_RTC_ALARM_SEC, 0), (R.PWR_WAKE_EN_CAN, 0), (R.PWR_WAKE_EN_WAKE_IN, 0), (R.PWR_WAKE_EN_WAKE_POL, 0),
   (R.PWR_WAKE_EN_RTC, 0), (R.PWR_WAKE_EN_SAFE_IN, 0), (R.PWR_WAKE_EN_HOST, 0), (R.PWR_WAKE_SRC_POR, 1)]

/-- What a loss of VDD_AON leaves apart from its registers. -/
def State.aonLost (s : State) : State :=
  { s.domainReset with
    time := {}, mus := { capacity := s.mus.capacity, perst := s.mus.perst }, gnssRet := none
    log := { s.domainReset.log with hold := [], lostSeqs := [], lostFirstR := 0, lostFirstH := 0 } }

theorem aonLossFlds_kept : ∀ f ∈ aonLossFlds.map Prod.fst, f ∈ keptFlds := by decide

theorem exec_vddAonLoss_setAll : exec (.vddAonLoss dt) s = .next ((s.advance dt).aonLost.setAll aonLossFlds) := by
  show execVddAonLoss dt s = _
  unfold execVddAonLoss State.setAll aonLossFlds
  simp only [List.foldl_cons, List.foldl_nil]
  rfl

theorem State.aonLost_regs : s.aonLost.regs = s.domainReset.regs := rfl

theorem aonLossFlds_por (u : State) : (u.setAll aonLossFlds).get R.PWR_WAKE_SRC_POR = 1 := by
  unfold State.setAll aonLossFlds
  simp only [List.foldl_cons, List.foldl_nil]
  rewrite [State.get_set_same]
  rfl

theorem vddAonLoss_resets : ∃ t, exec (.vddAonLoss dt) s = .next t ∧ t.time.rtcOk = false ∧ t.gnssRet = none ∧ t.log.hold = [] ∧
    t.mnf.slotA = s.mnf.slotA ∧ t.mnf.slotB = s.mnf.slotB ∧ t.role.makerKey = s.role.makerKey ∧ t.get R.PWR_WAKE_SRC_POR = 1 ∧
    (∀ f b, fkey f ∉ keptFlds.map fkey → t.get f b = f.reset) := by
  have hexec := exec_vddAonLoss_setAll dt s
  have hpor := aonLossFlds_por (s.advance dt).aonLost
  have hget (f : Fld) (b : Nat) (hf : fkey f ∉ keptFlds.map fkey) : ((s.advance dt).aonLost.setAll aonLossFlds).get f b = f.reset :=
    (State.setAll_get _ _ f b fun x hx => kept_ne hf (aonLossFlds_kept _ (List.mem_map_of_mem hx))).trans
      ((State.get_of_regs _ (s.advance dt).aonLost_regs f b).trans ((s.advance dt).domainReset_get f b hf))
  obtain ⟨-, -, ha, hb, hkey, -⟩ := (s.advance dt).domainReset_keeps
  obtain ⟨r, hr⟩ := (s.advance dt).aonLost.setAll_eq aonLossFlds
  rewrite [hr] at hexec hpor hget
  exact ⟨_, hexec, rfl, rfl, rfl, ha, hb, hkey, hpor, hget⟩

end

/-- Settles O6: the supplies come up in order; a reset of the domains keeps only what the always-on domain, flash and the fuses hold (log 265). -/
theorem suppliesAndResets : Obligations.SuppliesAndResets := by
  unfold Obligations.SuppliesAndResets
  exact ⟨powerUp_raises, fun dt rails s _ hlow hall hwake => railPowerGood_musters dt s rails hlow hall hwake, fun dt st s => porNRelease_musters dt s st,
    fun dt low s => porNAssert_resets dt s low, fun dt low s => exec_porNAssert_short dt s low, fun dt low r s => brownOut_resets dt s low r,
    fun dt low r s => exec_brownOut_short dt s low r, vddAonLoss_resets⟩

end Sys2Proof.Machine
end
